-- ==== Sys2Proof/Word.lean ====
section
/-!
DEFINITION. The word types of the module: bytes on the wire, register words, and the fixed-width
arithmetic the spec's counters use.
-/

namespace Sys2Proof

/-- One byte of a frame, a record or a memory (R8). -/
abbrev Byte := BitVec 8

/-- A string of bytes, first on the wire (or lowest address) first. -/
abbrev Bytes := List Byte

/-- One 32-bit register word (R535). -/
abbrev Word := BitVec 32

/-- `v` reduced to `w` bits, as a field of `w` bits holds it. -/
def trunc (w v : Nat) : Nat := v % 2 ^ w

/-- A counter of `w` bits that stops at its largest value. -/
def satAdd (w a b : Nat) : Nat := min (a + b) (2 ^ w - 1)

/-- The two's complement reading of the low `w` bits of `v`. -/
def toSigned (w v : Nat) : Int :=
  if trunc w v < 2 ^ (w - 1) then (trunc w v : Int) else (trunc w v : Int) - (2 ^ w : Nat)

/-- The low `w` bits of an integer in two's complement. -/
def ofSigned (w : Nat) (v : Int) : Nat := (v % (2 ^ w : Nat)).toNat

/-- A signed value held within `w` bits by saturation. -/
def satSigned (w : Nat) (v : Int) : Int :=
  max (-(2 ^ (w - 1) : Nat)) (min v ((2 ^ (w - 1) : Nat) - 1))

end Sys2Proof
end

