-- ==== Sys2Proof/Types/Chest.lean ====
section
/-!
DEFINITION. The Chest's data (R359–R371): records, posts, and what MRAM and NAND hold of them.
-/

namespace Sys2Proof

/-- A Chest record (R359). `bad` marks a record whose stored bytes no longer check (R371). -/
structure ChestRec where
  code : Nat
  flags : Nat
  rep : Nat
  seq : Nat
  time : Nat
  supp : Nat
  payload : Bytes
  bad : Bool := false
deriving DecidableEq, Repr

/-- A post that has passed the tests of R361 steps 1 to 3 and waits for its sequence number. -/
structure Post where
  code : Nat
  flags : Nat
  rep : Nat
  time : Nat
  supp : Nat
  payload : Bytes
deriving DecidableEq, Repr

/-- A code's token bucket (R366): tokens held, and the instant (elapsed ns) at which its running period timer ends. -/
structure Bucket where
  tokens : Nat
  due : Option Nat
deriving DecidableEq, Repr

/-- What MRAM keeps for the Chest: staging, Keep, the Lid, the next SEQ, the suppression counts and CHS_RL_CFG. -/
structure ChestMram where
  staged : List ChestRec := []
  keep : List ChestRec := []
  lid : List ChestRec := []
  nextSeq : Nat := 0
  keepSeq : Nat := 0
  commissioned : Bool := false
  supp : List (Nat × Nat) := []
  rlBurst : List (Nat × Nat) := []
  rlPeriod : List (Nat × Nat) := []
  /-- Ranges (first SEQ, count) declared skipped or lost (R360). -/
  declared : List (Nat × Nat) := []
  /-- Staged records overwritten while NAND took no pages (R363): first SEQ and count. -/
  overflow : Option (Nat × Nat) := none
  /-- SEQ of the last START record (R373). -/
  lastStart : Nat := 0
  /-- The update slot of R365: SEQ and REPEAT of the last coalesced update. -/
  upd : Option (Nat × Nat) := none
  /-- Generations of the two copies of the staging descriptor (R362). -/
  desc : Nat × Nat := (0, 0)
deriving DecidableEq, Repr

/-- A written page of the Roll drawer (R364), and whether its unreadable state has been reported (R371). -/
structure RollPage where
  recs : List ChestRec
  bad : Bool := false
deriving DecidableEq, Repr

/-- The Roll drawer in NAND: erase blocks, oldest first, each a list of at most 64 pages; and the blocks retired. -/
structure ChestNand where
  blocks : List (List RollPage) := []
  retired : Nat := 0
deriving DecidableEq, Repr

/-- A fault in the Chest's own memory (R371). -/
inductive ChestFault where
  /-- Corrected errors: only counted. -/
  | corrected (n : Nat)
  /-- Uncorrectable error in the staged record with this SEQ. -/
  | staged (seq : Nat)
  /-- Neither copy of the staging descriptor is complete at S0. -/
  | descriptor
  /-- Uncorrectable read of the NAND page that holds this SEQ. -/
  | nandRead (seq : Nat)
  /-- A NAND block failed to program (false) or erase (true). -/
  | nandProgram (block : Nat) (erase : Bool)
  /-- Uncorrectable error in the Keep record with this SEQ. -/
  | keep (seq : Nat)
  /-- Uncorrectable error in the Lid page. -/
  | lid
  /-- NAND stops or starts accepting pages (R363). -/
  | nandAccepts (ok : Bool)
deriving DecidableEq, Repr

/-- The Chest's volatile state. -/
structure Chest where
  queue : List Post := []
  buckets : List (Nat × Bucket) := []
  /-- NAND is accepting pages (CHS_STS.ROLL_OK). -/
  nandOk : Bool := false
  /-- The SEQ of a window fetch in progress (R369). -/
  fetch : Option Nat := none
  /-- Elapsed ns of the last CHS_CFG.VEC message (at most one per ms). -/
  vecAt : Option Nat := none
  /-- Elapsed ns of the last flush (R362). -/
  flushAt : Nat := 0
deriving DecidableEq, Repr

end Sys2Proof
end

