-- ==== Sys2Proof/Types/Alarm.lean ====
section
/-!
DEFINITION. Detectors' and alarms' data (R263–R288).
-/

namespace Sys2Proof

/-- Source types of an alarm (R269). -/
inductive AlmSrc where
  | detector | island | def_ | bit
deriving DecidableEq, Repr

/-- An alarm of the image (R269). Its source: operand of the ALM_POST item, byte offset and bit within it. -/
structure AlarmCfg where
  cls : Nat
  kind : Nat
  subject : Nat
  event : Nat
  latch : Bool
  dests : Nat
  goose : Option Nat
  op : Nat
  ofs : Nat
  bit : Nat
  src : AlmSrc
  /-- SUBJECT2 of a BIT source. -/
  subject2 : Nat
deriving DecidableEq, Repr

/-- An alarm destination (R274). -/
structure AlmDest where
  port : Nat
  addr : Nat
  udpPort : Nat
  tag : Option Nat
  dscp : Nat
  prp : Bool
  rpt : Nat
  hbS : Nat
  mac : Option Nat
deriving DecidableEq, Repr

/-- A GOOSE control block (R279): port, destination MAC, APPID, VID and priority, references, members (alarm ID, with
Quality, with time), confRev, GO_T1 and GO_T0 in ms. -/
structure GooseCfg where
  port : Nat
  dst : Nat
  appid : Nat
  tag : Nat
  gocb : Bytes
  datSet : Bytes
  goId : Bytes
  members : List (Nat × Bool × Bool)
  confRev : Nat
  t1 : Nat
  t0 : Nat
deriving DecidableEq, Repr

structure AlmCfg where
  alarms : List AlarmCfg := []
  dests : List AlmDest := []
  goose : List GooseCfg := []
  vecs : List Nat := []
deriving DecidableEq, Repr

/-- An entry (R276): alarm ID, STATE, FLAGS, SUBJECT2, VALUE, DURATION, SINCE. -/
structure AlmEntry where
  id : Nat
  st : Nat
  flags : Nat
  subject2 : Nat
  value : Nat
  dur : Nat
  since : Nat
deriving DecidableEq, Repr

/-- An alarm's state. STATE: 0 IDLE, 1 RAISED, 2 LATCHED. -/
structure AlarmSt where
  st : Nat := 0
  acked : Bool := false
  ackPending : Bool := false
  inhibited : Bool := false
  missing : Bool := false
  stale : Bool := false
  since : Nat := 0
  raisedAt : Nat := 0
  /-- t(n) of the tick of the last change, for a GOOSE member's time. -/
  changedAt : Nat := 0
  /-- An inhibit or release written and not yet applied is a difference of `inhReq` from `inhibited` (R272). -/
  inhReq : Bool := false
  /-- The tick at which it left RAISED, which ends the time it has been RAISED (R276). -/
  fellAt : Nat := 0
  /-- SUBJECT2, VALUE, DUR and START as last read from the source, and its INCOMPLETE. -/
  subject2 : Nat := 0
  value : Nat := 0x7FC00000
  dur : Nat := 0
  incomplete : Bool := false
  /-- Entries to be repeated and the runs since they were new (R278). -/
  repeats : List (AlmEntry × Nat) := []
deriving DecidableEq, Repr

/-- Entries gathered for one class of an instance (R278): new ones, and repeats with the runs since they were new. -/
structure AlmBatch where
  cls : Nat
  tick : Nat
  entries : List AlmEntry
  repeats : List (AlmEntry × Nat)
deriving DecidableEq, Repr

/-- A control block's run: stNum, sqNum, the dataset as last sent, the elapsed ns of the next retransmission and its
interval in ms, C(n) of the last change. -/
structure GooseSt where
  st : Nat := 0
  sq : Nat := 0
  data : List Nat := []
  due : Option Nat := none
  ival : Nat := 0
  t : Nat := 0
deriving DecidableEq, Repr

structure Alm where
  alarms : List (Nat × AlarmSt) := []
  /-- Entries of the instance being run, by class and tick, until its last ALM_POST item has retired. -/
  batches : List AlmBatch := []
  /-- Resolved MAC address of each unicast destination, and whether DEST_UNRESOLVED stands recorded. -/
  macs : List (Nat × Nat) := []
  unresolved : List Nat := []
  goose : List (Nat × GooseSt) := []
  /-- Contact level each ALM_PIO pin computed for itself (R282): pin and active-in-polarity level. -/
  contacts : List (Nat × Bool) := []
  /-- The tick of the class-0 frames now on their way, and its C(n), for the latency measures (R285). -/
  g0 : Option (Nat × Nat) := none
  /-- TAI second, plus one, at which each destination last had its heartbeat. -/
  hb : List (Nat × Nat) := []
  /-- ALM_INH as last written, word by word (R287). -/
  inh : List (Nat × Nat) := []
  /-- Elapsed ns from which addresses are resolved again (R274). -/
  resolveAt : Nat := 0
deriving DecidableEq, Repr

end Sys2Proof
end

