-- ==== Sys2Proof/Types/Engines.lean ====
section
/-!
DEFINITION. What the spectral, coherency and accounting engines are given by the image and keep between ticks
(R224–R262, R289–R308). Reals are FP32 bit patterns.
-/

namespace Sys2Proof

/-! ### Spectral (R229–R248) -/

structure SpecSig where
  /-- Position among the FP32 values of the operands. -/
  src : Nat
  kind : Nat
  scale : Nat
deriving DecidableEq, Repr

structure SpecBin where
  f : Nat
  bw : Nat
deriving DecidableEq, Repr

/-- A band's bins: first and count. -/
structure SpecBand where
  first : Nat
  count : Nat
deriving DecidableEq, Repr

/-- DEF target types (R245). -/
inductive DefTarget where
  | fixed (f : Nat)
  | band (b : Nat)
  | mode (j : Nat)
deriving DecidableEq, Repr

structure DefBranch where
  node : Nat
  far : Nat
deriving DecidableEq, Repr

/-- Tracker settings (R237 to R243): m, DEC, T_MEM in s, EVAL, GAP_S, MODES_MAX, MATCH_HZ, E_REF, Z_SPREAD, FO_NEAR_HZ. -/
structure TrkCfg where
  m : Nat
  dec : Nat
  tMem : Nat
  eval : Nat
  gapS : Nat
  modesMax : Nat
  matchHz : Nat
  eRef : Nat
  zSpread : Nat
  foNear : Nat
deriving DecidableEq, Repr

structure SpecCfg where
  sigs : List SpecSig := []
  bins : List SpecBin := []
  bands : List SpecBand := []
  gap : Nat := 60
  trk : Option TrkCfg := none
  branches : List DefBranch := []
  targets : List DefTarget := []
  defBw : Nat := 0x3D4CCCCD
deriving DecidableEq, Repr

/-- A signal's state: its bins (re, im), consecutive missing ticks, and per band the present ticks since it began to
settle (`none` = OK), the peak bin and the mean of its amplitude (R235). -/
structure SpecSigSt where
  xs : List (Nat × Nat) := []
  miss : Nat := 0
  settle : List (Option Nat) := []
  peak : List (Option (Nat × Nat)) := []
deriving DecidableEq, Repr

/-- A band's timers as tick instants: since when the condition, its absence, FO_CAND (and on which bin) and its absence
have held; flags; and since when they are set. -/
structure BandSt where
  hotSince : Option Nat := none
  coldSince : Option Nat := none
  foSince : Option (Nat × Nat) := none
  noFoSince : Option Nat := none
  energy : Bool := false
  fo : Bool := false
  energyTick : Nat := 0
  foTick : Nat := 0
deriving DecidableEq, Repr

/-- A mode between evaluations (R240 to R242). -/
structure ModeSt where
  id : Nat
  freq : Nat
  zeta : Nat
  share : Nat
  conf : Nat
  dstate : Nat := 0
  changed : Bool := false
  lost : Bool := false
  new : Bool := false
  forced : Bool := false
  eligible : Bool := false
  zetas : List Nat := []
  missed : Nat := 0
  /-- Tick instants since which each of the four conditions of R242's table has held. -/
  since : List (Option Nat) := [none, none, none, none]
  sigs : List Nat := []
  shape : List (Nat × Nat) := []
deriving DecidableEq, Repr

/-- The tracker's state (R237, R238): the filter's last 48 inputs, the basis, the inverse correlations, the dynamics, the
previous sample, and the weighted covariance of w from which shares are taken. -/
structure TrkSt where
  taps : List (List Nat) := []
  u : List (List Nat) := []
  pm : List (List Nat) := []
  a : List (List Nat) := []
  q : List (List Nat) := []
  cov : List (List Nat) := []
  yPrev : Option (List Nat) := none
  samples : Nat := 0
  skippedSince : Option Nat := none
  nextId : Nat := 1
  modes : List ModeSt := []
  evalTick : Nat := 0
  age : Nat := 0
  evalFlags : Nat := 0
deriving DecidableEq, Repr

/-- One DEF target's state: its frequency (`none` = IDLE), what it follows, bins per branch (four complex values each),
ticks left of SETTLING, and the source test. -/
structure DefSt where
  freq : Option Nat := none
  key : Nat := 0
  bins : List (List (Nat × Nat)) := []
  settle : Nat := 0
  srcSince : Option (Nat × Nat) := none
  noSrcSince : Option Nat := none
  source : Bool := false
  node : Nat := 0
deriving DecidableEq, Repr

structure Spec where
  sigs : List SpecSigSt := []
  sdftTick : Option Nat := none
  bands : List BandSt := []
  /-- The two spectrum buffers (R232): tick, HOLD map, amplitudes. -/
  bufs : List (Nat × Nat × List Nat) := [(2 ^ 64 - 1, 0, []), (2 ^ 64 - 1, 0, [])]
  trk : TrkSt := {}
  trkTick : Option Nat := none
  defs : List DefSt := []
  defTick : Option Nat := none
  /-- Double buffers of shapes and branch slopes. -/
  shapes : List (Nat × List (List (Nat × Nat))) := []
  slopes : List (Nat × List (List Nat)) := []
  /-- What the instances of the table before the last swap go on with, of the state that did not carry over (R216, R227). -/
  oldSdft : Option (List SpecSigSt × Option Nat × List BandSt) := none
  oldTrk : Option (TrkSt × Option Nat) := none
  oldDef : Option (List DefSt × Option Nat) := none
deriving DecidableEq, Repr

/-! ### Coherency (R254–R262) -/

/-- A branch of the graph: its ends, MODE 0 to 3, and whether its DEFAULT is OPEN. -/
structure CohBranch where
  a : Nat
  b : Nat
  mode : Nat
  dfltOpen : Bool
deriving DecidableEq, Repr

structure CohCfg where
  nodes : Nat := 0
  /-- Measurement index of each node, where it has one. -/
  meas : List (Option Nat) := []
  branches : List CohBranch := []
deriving DecidableEq, Repr

structure BranchSt where
  opened : Bool
  held : Bool := false
  defaulted : Bool := false
  brk : Nat := 0
  elec : Nat := 0
  /-- Tick instant since which the evidence has been unknown. -/
  unknownSince : Option Nat := none
deriving DecidableEq, Repr

/-- An island reported at the last run: ID, the tick at which it was issued, and its ANGSEP counter and flag. -/
structure IslandSt where
  id : Nat
  since : Nat
  nodes : List Nat
  sepCount : Nat := 0
  sep : Bool := false
deriving DecidableEq, Repr

/-- What the unit keeps from tick to tick under one table: branch states, the islands reported and the node lists of those beyond the 256
reported, and the island ID of each node, at the last run. -/
structure CohRun where
  branches : List BranchSt := []
  islands : List IslandSt := []
  rest : List (List Nat) := []
  map : List Nat := []
deriving DecidableEq, Repr

structure Coh where
  run : CohRun := {}
  /-- What instances of the table before the last swap go on with, where the state did not carry over (R216, R262). -/
  old : Option CohRun := none
  nextId : Nat := 1
  bufs : List (Nat × List Nat) := []
deriving DecidableEq, Repr

/-! ### Accounting (R289–R309) -/

/-- An accounting branch: where the catch-up path finds its phasors (slot, phasor index of V and of I) and K. -/
structure AccBranch where
  vSlot : Nat
  vPh : Nat
  iSlot : Nat
  iPh : Nat
  k : Nat
deriving DecidableEq, Repr

/-- A cut set: ABSOLUTE or SIGNED, and its terms (branch, sign: true = −1). -/
structure CutSet where
  absolute : Bool
  terms : List (Nat × Bool)
deriving DecidableEq, Repr

/-- A pulse output: cut set, register (0 AIMP, 1 AEXP, 2 RIMP, 3 REXP), WEIGHT, pin, and whether its polarity is active low (R308). -/
structure PulseCfg where
  cut : Nat
  reg : Nat
  weight : Nat
  pin : Nat
  low : Bool
deriving DecidableEq, Repr

structure AccCfg where
  branches : List AccBranch := []
  cuts : List CutSet := []
  pulses : List PulseCfg := []
deriving DecidableEq, Repr

/-- A tick whose p and q a cut set holds, once known: FP64 patterns of p and q and of the terms' P and Q. -/
structure AccVal where
  tick : Nat
  val : Option (Nat × Nat × List (Nat × Nat))
deriving DecidableEq, Repr

/-- An interval not yet settled (R294): its end ticks, Δ in ns, and whether it spans ticks skipped by a reseat. -/
structure AccIv where
  a : Nat
  e : Nat
  dt : Nat
  gap : Bool
deriving DecidableEq, Repr

/-- A cut set's registers and memory. The four energy registers are in units of 2^-32 µWh (128 bits). -/
structure CutSt where
  aimp : Nat := 0
  aexp : Nat := 0
  rimp : Nat := 0
  rexp : Nat := 0
  anet : Int := 0
  est : Int := 0
  unacc : Nat := 0
  down : Nat := 0
  /-- p_hold of ticks no longer in `vals` (FP64). -/
  hold : Option Nat := none
  vals : List AccVal := []
  pend : List AccIv := []
  /-- The next tick only sets p (R304, R305). -/
  fresh : Bool := true
  /-- The last run's P, Q (FP32), whether p is unknown, FLAGS and DNET. -/
  p : Nat := 0x7FC00000
  q : Nat := 0x7FC00000
  flags : Nat := 0
  dnet : Nat := 0
  /-- What intervals that end at or before a join's c have added since c: interval ends, and the rises of AIMP, AEXP, RIMP, REXP, ANET,
  EST and UNACC (R418). -/
  led : List (Nat × Nat × List Int) := []
deriving DecidableEq, Repr

/-- A pulse output: DUE, the register's rise over the last r runs in units of 2^-32 µWh, newest first, and the pulse in
progress (fall instant) or its gap's end, and its width in ns. -/
structure PulseSt where
  due : Nat := 0
  rises : List Nat := []
  pulseEnd : Option Nat := none
  gapEnd : Nat := 0
  width : Nat := 0
  /-- Pulses earned since the start (R418), and pulses started, as HEARTBEAT counts them (R403). -/
  earned : Nat := 0
  started : Nat := 0
deriving DecidableEq, Repr

/-- A commit slot of the accounting area of MRAM (R301). Kind: 1 PERIODIC, 2 POWER_FAIL, 3 SWAP, 4 ZERO. `zero`: the ZEROED
mark: the cut set (0xFFFF for all) and instance m. -/
structure AccSlot where
  gen : Nat
  tick : Nat
  inst : Nat
  kind : Nat
  cuts : List CutSt
  pulses : List PulseSt
  zero : Option (Nat × Nat) := none
  complete : Bool
deriving DecidableEq, Repr

/-- The accounting area of MRAM: 8 slots and the power-fail mark (declaration instant, tick, generation). -/
structure AccMram where
  slots : List (Option AccSlot) := List.replicate 8 none
  mark : Option (Nat × Nat × Nat) := none
  lastGen : Nat := 0
deriving DecidableEq, Repr

/-- A restore to be completed at the first tick (R304): case, slot, kind, generation, q, unaccounted ns, from when DOWN runs. -/
structure AccRestore where
  case_ : Nat
  slot : Nat
  kind : Nat
  gen : Nat
  q : Nat
  lost : Nat
  since : Nat
deriving DecidableEq, Repr

structure Acc where
  cuts : List CutSt := []
  pulses : List PulseSt := []
  /-- Last completed run: its tick and instant. -/
  lastTick : Option Nat := none
  lastInst : Nat := 0
  /-- First tick since the start, last tick registered, and ticks whose catch-up has not been made. -/
  first : Option Nat := none
  lastReg : Option Nat := none
  queue : List Nat := []
  /-- Reseat steps taken (R82, R294): tick m and D. -/
  steps : List (Nat × Int) := []
  /-- A commit being written: its slot's number and content; and the slot last tried. -/
  write : Option (Nat × AccSlot) := none
  tried : Option Nat := none
  restore : Option AccRestore := none
  /-- Cut sets of the old image that go on until the runs of INTEGRATE before swap tick k have ended (R216, R305): k and their states. -/
  ending : Option (Nat × List CutSt) := none
  /-- ZERO commands waiting: cut (or 0xFFFF), the elapsed ns from which a run may take it, and m where it is named. -/
  zero : List (Nat × Nat × Option Nat) := []
deriving DecidableEq, Repr

end Sys2Proof
end

