-- ==== Sys2Proof/Types/Port.lean ====
section
/-!
DEFINITION. The ports' data (R96–R121) and the ingress parser's work on a port's frame (R125).
-/

namespace Sys2Proof

/-- An ECC event of a memory: this many errors corrected, or one uncorrectable (R186, R217, R388). -/
inductive EccErr where
  | corrected (n : Nat)
  | lost
deriving DecidableEq, Repr

/-- How a received frame ended (R105). -/
inductive RxEnd where
  | good | badFcs | symbolError | cutShort
  /-- Uncorrectable ECC error in a word of the frame. -/
  | eccUe
  /-- A fragment sequence error, a bad mCRC or a missing continuation (R119). -/
  | reassembly
  /-- A good end of a frame that the partner preempted and that came in fragments (R119). -/
  | fragments
  /-- A verify mPacket of the partner (R119): no frame. -/
  | verify
deriving DecidableEq, Repr

/-- What the duplicate filter has said of a frame (R111). Entries have numbers, so that a copy waits for one entry and no other. -/
inductive DupState where
  | unchecked
  /-- This copy made the provisional entry for the key. -/
  | owner (key id : Nat)
  | waiting (key id : Nat)
  /-- The entry that the copy waited for has been removed: it goes back through the ordered point. -/
  | again (key : Nat)
  | discard
deriving DecidableEq, Repr

/-- A frame held in the receive FIFO (R101): ingress timestamp (64-bit TAI), stored length with FCS, bytes from the destination address
without FCS (of a truncated frame the bytes kept), LAN of a removed trailer, TRUNC, filter state, and whether the parser has started on it. -/
structure RxFrame where
  stamp : Nat
  len : Nat
  bytes : Bytes
  lan : Nat
  trunc : Bool
  dup : DupState
  started : Bool
deriving DecidableEq, Repr

/-- A frame still arriving: its header word's stamp, the bytes that have come, MAX_LEN as it started (R106), the filter's word, whether the
parser has started on it, and whether a word of it would have made the FIFO full, so that the rest is discarded (R104). -/
structure RxCur where
  stamp : Nat
  bytes : Bytes
  maxLen : Nat
  dup : DupState
  started : Bool
  lost : Bool := false
deriving DecidableEq, Repr

/-- A PTP message of the module, and what is done with its transmit stamp (R70, R118): nothing; written into a one-step Sync or, as the turnaround
since the stamp `rx`, into a one-step Pdelay_Resp; sent on in a Follow_Up; or kept as the instant of the port's own request. -/
inductive PtpMsg where
  | plain
  | sync
  | syncTwo (seq log : Nat)
  | pdelayResp (rx : Nat)
  | pdelayRespTwo (seq asker : Nat)
  | request (seq : Nat)
deriving DecidableEq, Repr

/-- Which unit gets a transmitted frame's stamp (R118). -/
inductive TxSender where
  | clave (k : Nat) (msg : PtpMsg)
  | composer (stream : Nat)
  | gong (cls tick dest : Nat)
  | steward
  /-- Ring and how often it had been disabled (R338), the count of its first descriptor, and the (LEN, FLAGS) of each descriptor. -/
  | hostRing (ring gen first : Nat) (descs : List (Nat × Nat))
  | goose (cb : Nat)
deriving DecidableEq, Repr

/-- A frame in a transmit FIFO, an express buffer or an egress queue. -/
structure TxFrame where
  bytes : Bytes
  sender : TxSender
  /-- Elapsed ns at which it was queued, whether it has been preempted, and its bytes already sent in fragments. -/
  queued : Nat
  preempted : Bool := false
  done : Nat := 0
  /-- Its number among its stream's frames queued for the port (R332). -/
  seq : Nat := 0
  /-- A report tick's data or amendment frame: tick and whether an amendment; the slots it carries. -/
  tick : Nat := 0
  amend : Bool := false
  slots : List Nat := []
  /-- The first port copy of its frame (R340). -/
  first : Bool := false
deriving DecidableEq, Repr

/-- Frame on the wire: the frame, and whether it goes as express. -/
structure OnWire where
  frame : TxFrame
  express : Bool
deriving DecidableEq, Repr

/-- What classification and binding made of a frame (R125 steps 1 to 4). -/
inductive FrameKind where
  | data | cfg1 | cfg2 | cfg3 | header | command
  | data1344 | cfg1344 | other1344
  | routedSv
deriving DecidableEq, Repr

/-- A slot record (R142), field by field. Values are FP32 bit patterns; the counts are the lists' lengths. -/
structure SlotRecord where
  slot : Nat
  srcfmt : Nat
  cfgGen : Nat
  qual : Nat
  freq : Nat
  srcTime : Nat
  ingTime : Nat
  rocof : Nat
  stat : Nat
  path : Nat
  phasors : List (Nat × Nat)
  analogs : List Nat
  digitals : List Nat
  /-- The frame rate of the configuration under which it was read, in frames per second (R170); and that its slot's binding is not kept by the
  swap that came or is to come (R185). Neither is in the record's bytes. -/
  inRate : Option Nat := none
  old : Bool := false
deriving DecidableEq, Repr

/-- The parser's work on one frame: its kind, payload, arrival, the streams and slots it feeds, and the records made. -/
structure ParseJob where
  kind : FrameKind
  payload : Bytes
  stamp : Nat
  port : Nat
  lan : Nat
  trunc : Bool
  tcp : Bool
  slots : List Nat
  recs : Option (List SlotRecord) := none
  /-- BLOCK_EXCESS has been counted for the frame (R547). -/
  excess : Bool := false
deriving DecidableEq, Repr

/-- A deficit round robin (R100, R330): the deficits in bytes, and the queue whose turn it is. -/
structure Drr where
  deficit : List (Nat × Nat) := []
  turn : Nat := 0
deriving DecidableEq, Repr

/-- A port's state beside its registers. -/
structure Port where
  rx : List RxFrame := []
  cur : Option RxCur := none
  job : Option ParseJob := none
  /-- Receive WR (of the next frame's header word), CUR and REL pointers (14 bits, R102) and transmit WR and RD pointers (13 bits). -/
  wr : Nat := 0
  curPtr : Nat := 0
  rel : Nat := 0
  txWr : Nat := 0
  txRd : Nat := 0
  fifo : List TxFrame := []
  express : List TxFrame := []
  wire : Option OnWire := none
  cut : Option TxFrame := none
  /-- Elapsed ns at which a pause in force ends (R115). -/
  pausedTo : Option Nat := none
  /-- Verify attempts made, and elapsed ns at which the next is due or the last has failed (R119). -/
  verify : Nat := 0
  verifyAt : Nat := 0
  /-- PMAC_EN, VERIFY_DIS and ADD_FRAG as in force since the last frame boundary, and that PMAC_EN has been written since (R120). -/
  pmacOn : Bool := true
  verifyDis : Bool := false
  addFrag : Nat := 0
  pmacWritten : Bool := false
  /-- Held down for duplex or speed: elapsed ns of the next retry (R97). -/
  anRetry : Option Nat := none
  /-- Frames for the host waiting for a receive ring (R121): bytes, NS32, TRUNC and LAN. -/
  host : List (Bytes × Nat × Bool × Nat) := []
deriving DecidableEq, Repr

/-- An entry of the duplicate filter (R111, R113): key, number, and once final when it became so and when it is freed, in elapsed ns. -/
structure DupEntry where
  key : Nat
  id : Nat
  final : Option (Nat × Nat)
deriving DecidableEq, Repr

end Sys2Proof
end

