-- ==== Sys2Proof/Types/Ingress.lean ====
section
/-!
DEFINITION. Stream configurations, bindings and ingress state (R129–R149).
-/

namespace Sys2Proof

/-- One PMU block of a configuration (R131): FORMAT bits, PHUNIT and ANUNIT words, digital words, FNOM in Hz, and for CFG-3
the PHSCALE (scale, angle) and ANSCALE (scale, offset) pairs as FP32 bit patterns. -/
structure PmuBlock where
  idcode : Nat
  format : Nat
  phunit : List Nat
  anunit : List Nat
  ndg : Nat
  fnom : Nat
  phscale : List (Nat × Nat)
  anscale : List (Nat × Nat)
  /-- DIGUNIT masks: kept and not applied (R139). -/
  digunit : List Nat := []
deriving DecidableEq, Repr

/-- What a CFG-3 block says that the host may want and normalisation does not use (R131): PMU_LAT, PMU_LON and PMU_ELEV as FP32 bit patterns,
SVC_CLASS, WINDOW and GRP_DLY. -/
structure CfgDesc where
  lat : Nat
  lon : Nat
  elev : Nat
  svcClass : Nat
  window : Nat
  grpDly : Nat
deriving DecidableEq, Repr

/-- A stream configuration as far as it affects reading (R136): names and CFG-3 descriptive fields are not in it. -/
structure StreamCfg where
  ver : Nat
  timeBase : Nat
  dataRate : Int
  cfg3 : Bool
  blocks : List PmuBlock
deriving DecidableEq, Repr

/-- A 90-5 dataset member (R133) and whether a quality member follows it. -/
inductive SvKind where
  | polar | rect | analog | digital | freq | rocof
deriving DecidableEq, Repr

structure SvMember where
  kind : SvKind
  quality : Bool
deriving DecidableEq, Repr

/-- What a slot is bound to (R134). -/
inductive BindFmt where
  | c37 (idcode block : Nat)
  | i1344 (ident : Nat)
  | sv (svid : Bytes) (confRev : Nat) (members : List SvMember)
  | localRef
deriving DecidableEq, Repr

/-- Resampler mode of a slot, which applies whenever it is resampled (R170). -/
inductive RsmpMode where
  | brisk | exact
deriving DecidableEq, Repr

/-- A slot binding of the image (R134, R142, R144, R171). `stream` is the index of the stream that carries it. -/
structure Binding where
  slot : Nat
  group : Nat
  stream : Nat
  fmt : BindFmt
  udpPort : Nat
  tcp : Option Nat
  srcIp : Option Nat
  vlan : Option Nat
  nph : Nat
  nan : Nat
  ndg : Nat
  auth : Bool
  keyGroup : Nat
  rsmp : RsmpMode
  offsetNs : Int
deriving DecidableEq, Repr

/-- A stream of the image (R136, R138): its compiled configuration and its command address, where it has them. -/
structure StreamImg where
  cfg : Option StreamCfg
  command : Option Nat
deriving DecidableEq, Repr

/-- A TCP ingest connection of the image (R129): the PMU's address, its TCP port where the image gives one, the frame port. -/
structure TcpCfg where
  addr : Nat
  tcpPort : Option Nat
  port : Nat
deriving DecidableEq, Repr

/-- A port of the image (R96, R110, R128, R283). Addresses are 128-bit, IPv4 in mapped form. -/
structure PortCfg where
  mode : Nat := 0
  dup : Nat := 0
  unicast : List Nat := []
  groups : List Nat := []
  ptp : Bool := false
  hostRing : Bool := false
  g0TxMax : Nat := 0
deriving DecidableEq, Repr

/-- What makes two images bind a slot alike (R134, R185): what its records are taken from, and the record length. -/
structure BindKey where
  slot : Nat
  fmt : BindFmt
  udpPort : Nat
  tcp : Option TcpCfg
  srcIp : Option Nat
  vlan : Option Nat
  len : Nat
deriving DecidableEq, Repr

/-- A stream's run-time configuration (R136, R137). `state` is CFG_STATE of ING_SLOT_STS: 1 image, 2 adopted, 3 held, 4 none. -/
structure StreamSt where
  cfg : Option StreamCfg := none
  gen : Nat := 0
  state : Nat := 1
  waiting : Option StreamCfg := none
  /-- Elapsed ns of the last "send CFG-2" request (R138). -/
  lastReq : Option Nat := none
  header : Bytes := []
  /-- The blocks' descriptive fields from the last CFG-3 (R131). -/
  desc : List CfgDesc := []
  /-- Bytes of CFG-3 fragments gathered so far. -/
  fragLen : Nat := 0
deriving DecidableEq, Repr

/-- A slot's ingress counters (R150), the reasons it has recorded, and whether its next record is the first of a CFG_GEN. -/
structure IngSlot where
  count : Nat := 0
  drops : Nat := 0
  reason : Nat := 0
  seen : List Nat := []
  cfgNew : Bool := false
  /-- The frame rate under which its last record was read (R170). -/
  rate : Option Nat := none
deriving DecidableEq, Repr

/-- An ASDU of a 90-5 frame as its BER decodes (R133): the dataset's members as raw words with their quality codes (0 good,
1 invalid, 2 reserved, 3 questionable, plus 4 for test). -/
structure SvAsdu where
  svid : Bytes
  datSet : Option Bytes
  smpCnt : Nat
  smpRate : Option Nat
  confRev : Nat
  smpSynch : Nat
  refrTm : Option Nat
  values : List Nat
  quals : List Nat
deriving DecidableEq, Repr

/-- A 90-5 session frame, decoded (R133): SI, key and SPDU numbers, algorithm, signature, encryption, the signed bytes. -/
structure SvFrame where
  si : Nat
  keyId : Nat
  spdu : Nat
  /-- 0 none, 1 HMAC-80, 2 HMAC-128, 3 HMAC-256, 4 GMAC-64, 5 GMAC-128; above 5 unsupported. -/
  alg : Nat
  tag : Bytes
  signed : Bytes
  /-- TimeOfCurrentKey (s) and TimeToNextKey (min), which are read and not used. -/
  timeCur : Nat
  timeNext : Nat
  encrypted : Bool
  /-- A BER error met while an svID was read, and one met later (R547). -/
  idError : Bool
  berError : Bool
  /-- The elapsed ns that the key fetch took, where the cache missed (R145 step 2). -/
  fetchNs : Nat
  asdus : List SvAsdu
deriving DecidableEq, Repr

/-- An IEEE 1344 data frame, decoded (R132). -/
structure I1344Data where
  ident : Nat
  sizeOk : Bool
  chkOk : Bool
  utcSec : Nat
  smpCnt : Nat
  unsync : Bool
  phasors : List (Int × Int)
  freq : Int
  dfreq : Int
  digitals : List Nat
deriving DecidableEq, Repr

/-- Where a frame of the stream formats comes from: a port's receive FIFO, or a TCP connection that brought its last byte
at a stamp (R130). -/
inductive IngSrc where
  | port (n : Fin 64)
  | tcp (conn : Fin 256) (stamp : Nat) (bytes : Bytes)
deriving DecidableEq, Repr

/-- Ingress state. -/
structure Ingress where
  streams : List (Nat × StreamSt) := []
  slots : List (Nat × IngSlot) := []
  /-- Connection states as ING_SLOT_STS.TCP: 1 connecting (not stored), 2 awaiting CFG-2, 3 streaming, 4 retry, 5 refused; and the elapsed ns
  at which a closed connection is tried again (R129). -/
  tcp : List (Nat × Nat) := []
  tcpDue : List (Nat × Nat) := []
  /-- Last accepted SPDU number by key and stream (R146). -/
  spdu : List (Nat × Nat) := []
  cfg1 : Nat := 0
  /-- The arbiter of the 64 receive FIFOs (R100), and the elapsed ns of the next membership reports (R128). -/
  arb : Drr := {}
  reportDue : Nat := 0
  /-- The parser's work on each TCP connection's frame. -/
  tcpJobs : List (Nat × ParseJob) := []
  /-- Records committed and not yet at Pigeonhole's decision point (R125 step 8), oldest first. -/
  arrivals : List SlotRecord := []
deriving DecidableEq, Repr

end Sys2Proof
end

