-- ==== Sys2Proof/Types/Align.lean ====
section
/-!
DEFINITION. Pigeonhole's data (R151–R190): columns, cells, windows, learning statistics, the resampler's histories.
-/

namespace Sys2Proof

/-- A cell (R165, R167): STATE 0 EMPTY, 1 PRESENT, 2 MISSING, 3 LATE; its arrival in units of 32 ns; the record held in
DRAM; the readiness event it has signalled (R169: 0 none, 1 ready_present, 2 ready_missing); whether the missing template
has been written to DRAM, and whether an uncorrectable error has taken it, so that it reads as MISSING from then on (R186). -/
structure Cell where
  state : Nat := 0
  conflict : Bool := false
  dups : Nat := 0
  arrival : Int := 0
  rec? : Option SlotRecord := none
  ready : Nat := 0
  template : Bool := false
  lost : Bool := false
deriving DecidableEq, Repr

/-- A tick column: its tick and instant, the windows fixed at t(n), the groups whose tokens have been issued and processed,
its cells, and whether it gained AMEND records since the last C was processed. Group 16 stands for the token of an image
with no used group (R152). -/
structure Column where
  tick : Nat
  inst : Nat
  win : Option (List Nat) := none
  issued : List Nat := []
  done : List Nat := []
  cells : List (Nat × Cell) := []
  gained : List Nat := []
deriving DecidableEq, Repr

/-- A slot's learning statistics in units of 2^-16 ns (R160), and what the decision point remembers of the slot: the latest
ingress timestamp handled, activity as judged at the last tick instant (R161), and that an OFF_GRID record was written. -/
structure SlotStat where
  mu : Int
  d : Int
  q : Int
  m : Int
  lastIng : Option Nat := none
  active : Bool := false
  offGrid : Bool := false
deriving DecidableEq, Repr

/-- A resampled slot's history (R171 to R175): at most 40 inputs in source-time order, all of one generation, and whether the next output is
the first after a flush. -/
structure RsmpHist where
  recs : List SlotRecord := []
  fresh : Bool := false
deriving DecidableEq, Repr

/-- A base rate change: the TAI second at which the new rate begins, and the two rates (R67, R68). -/
structure RateChange where
  sec : Nat
  old : Nat
  new : Nat
deriving DecidableEq, Repr

/-- Pigeonhole's volatile state. -/
structure Pgh where
  /-- Open columns in tick order. -/
  cols : List Column := []
  /-- Windows at the latest tick instant, by group, and the QUANT and MARGIN_US in force since then (R163). -/
  win : List Nat := []
  inForce : List (Nat × Nat) := []
  /-- COL_OFS (R165): tick n uses column (n + COL_OFS) mod 64. -/
  colOfs : Nat := 0
  stats : List (Nat × SlotStat) := []
  hist : List (Nat × RsmpHist) := []
  /-- Amendment notices waiting (R182): the tick and the mask of output streams. -/
  notices : List (Nat × Nat) := []
  /-- Elapsed ns at which the statistics are next written to MRAM (R164). -/
  learnDue : Nat := 0
  /-- Next tick to be opened. -/
  nextOpen : Nat := 0
  /-- C(n) of the last tick closed, by tick, kept for the instances still running: tick, C, instant of processing. -/
  closed : List (Nat × Nat × Nat) := []
  rates : Option RateChange := none
deriving DecidableEq, Repr

end Sys2Proof
end

