-- ==== Sys2Proof/Types/Local.lean ====
section
/-!
DEFINITION. Local measurement (R425–R451), the pair (R400–R424) and the Bureau (R375–R399).
-/

namespace Sys2Proof

/-! ### Local measurement -/

/-- A decimated output (R426, R431): code, marks, TAI timestamp. -/
structure SdOut where
  code : Int
  ovr : Bool
  gap : Bool
  time : Nat
deriving DecidableEq, Repr

/-- A modulator sample (R425, R426): the bit, and whether the input lay beyond ±1.60 V. -/
structure SdMod where
  bit : Bool
  beyond : Bool
deriving DecidableEq, Repr

/-- A channel: the modulator samples its decimator holds (newest first), outputs still of use to the estimator (oldest first), restarting and
until when (elapsed ns), whether its first output after a restart is still to come, and its last output. -/
structure SdChan where
  mods : List SdMod := []
  outs : List SdOut := []
  restarting : Bool := true
  readyAt : Nat := 0
  fresh : Bool := true
  last : Option SdOut := none
deriving DecidableEq, Repr

/-- A result in a converter's queue (R445): QTAG word, result, NS32 of its midpoint. -/
structure IcvRes where
  tag : Nat
  val : Nat
  time : Nat
deriving DecidableEq, Repr

/-- A scan entry as it was started (R444): its number, channel, N, S, and the analog index it publishes. -/
structure ScanRun where
  entry : Nat
  channel : Nat
  n : Nat
  s : Nat
  publish : Option Nat
deriving DecidableEq, Repr

/-- One converter's side of a conversion's end (R440, R442): its input's mean over the cycle and its reference as they are, in nV, and a run-down
fault. -/
structure IcvIn where
  volt : Int
  vref : Nat
  fault : Bool
deriving DecidableEq, Repr

/-- A converter: the scan entry in progress with its codes and flags so far (bit 0 SETTLING, 1 OVR, 2 NOMINAL, 3 FAULT), the entry before it in the
walk, the start of its first conversion, elapsed ns at which its reference has settled, its queue, and that the conversion in progress is
discarded. -/
structure Icv where
  run : Option ScanRun := none
  walked : Option Nat := none
  codes : List Nat := []
  flags : Nat := 0
  start : Nat := 0
  settleAt : Option Nat := none
  queue : List IcvRes := []
  discard : Bool := false
deriving DecidableEq, Repr

/-- An estimate kept for the ticks after it: its tick, V1 and f where present (R435). -/
structure Estimate where
  tick : Nat
  v1 : Option (Nat × Nat)
  f : Option Nat
deriving DecidableEq, Repr

/-- Local measurement. `next`: tick of the next estimate; `fLast`: the latest f present and the elapsed ns of its tick's estimate;
`nominal`: T_m in force fell back to 1/FNOM; the start of the conversion in progress in elapsed ns and in TAI ns; `pub`: published values by
analog index; the elapsed ns of the next plausibility pair, consecutive passes, and that the conversion in progress is a pair. -/
structure Lmf where
  running : Bool := false
  chans : List SdChan := List.replicate 8 {}
  icv : List Icv := [{}, {}]
  hist : List Estimate := []
  next : Nat := 0
  fLast : Option (Nat × Nat) := none
  nominal : Bool := false
  convUp : Nat := 0
  convAt : Nat := 0
  pub : List (Nat × Nat) := []
  plausDue : Nat := 0
  passes : Nat := 0
  plausNow : Bool := false
deriving DecidableEq, Repr

/-! ### The pair -/

/-- What the PAIR section gives beside registers: KEY_ID of the PAIR key. -/
structure PairCfg where
  keyId : Nat
deriving DecidableEq, Repr

/-- A part of the baseline copy (R416), as a BLOCK carries it: cut sets from a first number, DUEs, slots' statistics, group windows,
the tracker, alarms (ID, state, ACKED, INHIBITED, SINCE), GOOSE stNums, COMMANDED destinations by stream, PRP_OFS, the next SEQ. -/
inductive CopyBlock where
  | cuts (first : Nat) (cs : List CutSt)
  | dues (ds : List Nat)
  | slots (xs : List (Nat × SlotStat))
  | wins (ws : List Nat)
  | trk (t : TrkSt)
  | alarms (xs : List (Nat × Nat × Bool × Bool × Nat))
  | goose (xs : List (Nat × Nat))
  | dests (xs : List (Nat × Nat))
  | prpOfs (v : Nat)
  | nextSeq (v : Nat)
deriving DecidableEq, Repr

/-- A pair message's header (R402, R403): the lane it came on, its counter, whether its tag is right, the sender's ROLE and TICK. -/
structure PairMsg where
  lane : Fin 2
  ctr : Nat
  tagOk : Bool
  role : Nat
  tick : Nat
deriving DecidableEq, Repr

/-- A HEARTBEAT's payload (R403). -/
structure Heartbeat where
  fit : Bool
  ready : Bool
  cause : Nat
  epoch : Nat
  goose : List Nat
  pulses : List Nat
deriving DecidableEq, Repr

/-- A join in progress, at the joiner or at the module that serves it (R417): epoch, c, elapsed ns of PREPARE, the blocks staged, the
number of blocks sent, whether they were sent again, that READY was sent, and k once committed. -/
structure Join where
  epoch : Nat
  c : Nat
  since : Nat
  blocks : List (Nat × CopyBlock) := []
  sent : Nat := 0
  resent : Bool := false
  ready : Bool := false
  k : Option Nat := none
deriving DecidableEq, Repr

/-- What the joiner holds of itself at the completion of instance c (R418): its cut sets, pulses earned and started. -/
structure OwnAtC where
  cuts : List CutSt := []
  earned : List Nat := []
  started : List Nat := []
deriving DecidableEq, Repr

/-- Pair state beside its registers. -/
structure Pair where
  /-- The session: whether the partner has proved it, the WORK key's entry, and the session key. -/
  authed : Bool := false
  key : Option Nat := none
  sessKey : Nat := 0
  /-- The partner's nonce and digest have come in HELLO; our own nonce, once sent. -/
  helloIn : Option (Nat × Nat) := none
  nonce : Option Nat := none
  txCtr : Nat := 0
  rxCtr : Nat := 0
  /-- Elapsed ns at which each lane last delivered a valid message, and of the last heartbeat; its TICK on each lane. `laneDown`: the lane
  has been found down in this session (R401). -/
  laneAt : List Nat := [0, 0]
  laneDown : List Bool := [false, false]
  hbAt : Option Nat := none
  hbTick : List (Option Nat) := [none, none]
  lastTick : Nat := 0
  partnerEpoch : Nat := 0
  partnerPulses : List Nat := []
  goStIn : List (Nat × Nat) := []
  /-- The partner's abdication has been seen since it last held authority. -/
  abdSeen : Bool := false
  /-- Authority moves at t(j): true = taken, false = given up by HANDOVER. -/
  move : Option (Nat × Bool) := none
  join : Option Join := none
  ownAtC : Option OwnAtC := none
  seekSince : Nat := 0
  /-- Elapsed ns since which no abdication trigger has been in force. -/
  yieldClear : Option Nat := none
  unsyncAt : Nat := 0
  /-- Elapsed ns at which PAIR_ABD_N, pulled low, is released. -/
  abdUntil : Option Nat := none
  /-- Operations mirrored to us or by us: operation, instance m, operand. -/
  mirrors : List (Nat × Nat × Nat) := []
  diffs : List (Nat × Int) := []
  accTick : Nat := 0
  diffRec : Option Nat := none
  /-- Elapsed ns of the last completion of an instance. -/
  instAt : Nat := 0
deriving DecidableEq, Repr

/-! ### The Bureau -/

/-- An entry (R376). TYPE 0 ROOT, 1 DOMAIN, 2 GROUP, 3 WORK; STATE 0 FREE, 1 VALID, 2 PENDING, 3 SPENT, 4 INVALID. `material`
stands for the key bytes; `uses` is none when unlimited; `reserved`: uses of the block not yet spent; `since`: order in
which it became INVALID. -/
structure KeyEnt where
  st : Nat := 0
  typ : Nat := 0
  parent : Nat := 0
  keyId : Nat := 0
  alg : Nat := 0
  purpose : Nat := 0
  blvl : Nat := 0
  uses : Option Nat := none
  reserved : Nat := 0
  expReset : Bool := false
  material : Nat := 0
  since : Nat := 0
deriving DecidableEq, Repr

/-- A journal slot of MRAM (R385). -/
structure Journal where
  gen : Nat
  complete : Bool
  ents : List (Nat × KeyEnt)
deriving DecidableEq, Repr

structure BurMram where
  slots : List (Option Journal) := [none, none]
  tamper : Nat := 0
  zeroMark : Bool := false
deriving DecidableEq, Repr

/-- Bureau state. The entries are those not FREE, by index. -/
structure Bur where
  ents : List (Nat × KeyEnt) := []
  cache : List Nat := []
  gen : Nat := 0
  slot : Nat := 0
  order : Nat := 0
  /-- Effect tick of the invalidations accepted. -/
  effect : Option Nat := none
  /-- KEY_WORK. -/
  work : Option Nat := none
  /-- A zeroized state is being written to the journal (R393). -/
  journalDue : Bool := false
deriving DecidableEq, Repr

/-- The Bench (R394, R395): session open and the elapsed ns of its opening, level asked for, nonce and elapsed ns of a challenge,
wrong answers in a row, the lockout's length in s and end, last input, and the key of the level held. -/
structure Bench where
  open_ : Bool := false
  openedAt : Nat := 0
  chal : Option (Nat × Nat × Nat) := none
  wrong : Nat := 0
  lockLen : Nat := 60
  lockTo : Option Nat := none
  lastIn : Nat := 0
  key : Option Nat := none
deriving DecidableEq, Repr

end Sys2Proof
end

