-- ==== Sys2Proof/Types/Output.lean ====
section
/-!
DEFINITION. Output streams, egress queues and host rings (R313–R341).
-/

namespace Sys2Proof

/-- A block of an output stream (R313): a slot's elements, or results; its configuration. -/
structure OutBlock where
  /-- The slot of a SLOT block; none for a RESULT block. -/
  slot : Option Nat
  stn : Bytes
  idcode : Nat
  nph : Nat
  nan : Nat
  ndg : Nat
  /-- Channel names in order, 16 bytes each, and the unit words. -/
  names : Bytes
  units : List Nat
  phscale : List (Nat × Nat)
  anscale : List (Nat × Nat)
  fnom : Nat
  cfgCnt : Nat
deriving DecidableEq, Repr

/-- A destination (R314). -/
structure OutDest where
  addr : Nat
  udpPort : Nat
  portA : Nat
  portB : Option Nat
  prp : Bool
  tag : Option Nat
  dscp : Nat
  commanded : Bool
  amend : Bool
  mtu : Nat
  mac : Option Nat
deriving DecidableEq, Repr

/-- An output stream (R313). FORMAT: 0 C2011, 1 C2005, 2 RAW. DECIM: 1 PICK, 2 FIR. -/
structure OutStream where
  format : Nat
  idcode : Nat
  rate : Nat
  decim : Nat
  dfmt : Nat
  timeBase : Nat
  blocks : List OutBlock
  dests : List OutDest
  rawAmend : Bool
  cmdPort : Nat
  cmdSrc : List Nat
  age : Nat
  hdrText : Bytes
deriving DecidableEq, Repr

/-- A frame waiting in an egress queue: its sender, bytes and, for an output stream, the stream. -/
structure EgrFrame where
  frame : TxFrame
  stream : Option Nat := none
deriving DecidableEq, Repr

/-- A port's egress queues (R330), keyed by queue: 1 TIME, 2 ALARM, 3 OUTPUT, 4 AMEND, 5 STEWARD, 6 HOST, and the round robin of
the last three, numbered from 0. -/
structure EgrPort where
  queues : List (Nat × List EgrFrame) := []
  drr : Drr := {}
  /-- Frames of each stream queued for the port so far (R332). -/
  counts : List (Nat × Nat) := []
deriving DecidableEq, Repr

/-- A composer waiting for space (R333): tick, item, the port, queue, frame and stream it waits with, the elapsed ns at which
the wait began, and the copies that the item has still to offer: port, queue, frame. -/
structure BpWait where
  tick : Nat
  item : Nat
  stream : Nat
  port : Nat
  queue : Nat
  frame : TxFrame
  since : Nat
  rest : List (Nat × Nat × TxFrame) := []
deriving DecidableEq, Repr

/-- A stream's run-time state. `on`: bit d, destination d is turned on by command. -/
structure OutSt where
  on : Nat := 0
  tick : Nat := 0
  stamp : Nat := 0
  frames : Nat := 0
  drops : Nat := 0
  /-- Commands taking effect: elapsed ns at which it came, the instance that a MIRROR names (R408), mask, on. -/
  cmds : List (Nat × Option Nat × Nat × Bool) := []
deriving DecidableEq, Repr

/-- A raw block waiting for its ring (R336, R337): stream, tick, bytes, descriptor FLAGS and NS32. -/
structure RawBlock where
  stream : Nat
  tick : Nat
  bytes : Bytes
  flags : Nat
  ns32 : Nat
deriving DecidableEq, Repr

/-- The unfiltered elements of a filtered stream's block at tick m, kept until instance m + G (R317): FREQ, ROCOF and analog
values, then the digital words; for block 64, the quality words of all blocks. -/
structure OutPast where
  stream : Nat
  block : Nat
  tick : Nat
  vals : List Nat
deriving DecidableEq, Repr

/-- A C37.118 command frame as received (R326): the port and, over TCP, the connection that brought it, its source address,
port and MAC address, IDCODE, whether CHK is right, and whether it was addressed to a pair-wide address. -/
structure CmdFrame where
  port : Nat
  tcp : Option Nat
  src : Nat
  sport : Nat
  srcMac : Nat
  idcode : Nat
  chkOk : Bool
  pairWide : Bool
deriving DecidableEq, Repr

/-- Egress state. `lost`: the rings whose next frame or block carries LOST (R336). -/
structure Egr where
  ports : List (Nat × EgrPort) := []
  streams : List (Nat × OutSt) := []
  waits : List BpWait := []
  /-- Amendments sent of each tick (R329). -/
  amended : List (Nat × Nat) := []
  lost : List Nat := []
  macs : List (Nat × Nat) := []
  prpOfs : Nat := 0
  /-- Raw blocks waiting to be placed in a host ring, oldest first. -/
  blocks : List RawBlock := []
  /-- Transmit rings by ring: the count of the next descriptor to read, and the descriptors read that do not yet reach an EOP,
  as (FLAGS, data). -/
  hostRead : List (Nat × Nat) := []
  hostPart : List (Nat × List (Nat × Bytes)) := []
  /-- How often each transmit ring has been disabled, and its frames that are done out of order: first descriptor and count (R336). -/
  ringGen : List (Nat × Nat) := []
  hostEnds : List (Nat × List (Nat × Nat)) := []
  /-- The stamp of the last frame the steward core sent (R118). -/
  stewStamp : Nat := 0
  /-- What filtered streams have still to report of earlier ticks (R317). -/
  past : List OutPast := []
deriving DecidableEq, Repr

end Sys2Proof
end

