-- ==== Sys2Proof/Types/Snare.lean ====
section
/-!
DEFINITION. Snare's data (R342–R356): definitions of the image, rows, gaps, captures and capture files.
-/

namespace Sys2Proof

/-- A signal of a capture definition (R342). -/
inductive SnrSignal where
  | phasor (slot k : Nat)
  | analog (slot k : Nat)
  | freq (slot : Nat)
  | rocof (slot : Nat)
  | digital (slot k : Nat)
  | result (item el : Nat)
deriving DecidableEq, Repr

/-- A trigger term (R348). `edge`: 1 rising, 2 falling, 3 both. -/
inductive SnrTerm where
  | event (code : Nat)
  | alarm (cls : Nat)
  | pio (pin edge : Nat)
  | host
deriving DecidableEq, Repr

/-- A capture definition of the image (R342). -/
structure SnrDefCfg where
  signals : List SnrSignal
  pre : Nat
  post : Nat
  terms : List SnrTerm
  autoEn : Bool
  autoS : Nat
  armAtStart : Bool
  afterNand : Bool
deriving DecidableEq, Repr

/-- One row (R343): its tick and flags (bit 0 PATCHED, 1 STALE, 2 RESULT_MISSING), quality half-words, value words. -/
structure SnrRow where
  tick : Nat
  flags : Nat
  quality : List Nat
  values : List Nat
deriving DecidableEq, Repr

/-- A gap list entry (R352): first tick, length, reason (1 SOURCE, 2 STORE, 3 SKIP) and slot. -/
structure SnrGap where
  first : Nat
  len : Nat
  reason : Nat
  slot : Nat
deriving DecidableEq, Repr

/-- A definition's run-time state beside its registers (R347–R352). -/
structure SnrDef where
  rows : List SnrRow := []
  t0 : Nat := 0
  /-- First tick after arming, and the elapsed ns at which AUTO_S expires (R348, R350). -/
  armTick : Nat := 0
  autoDue : Option Nat := none
  gaps : List SnrGap := []
  /-- Gaps still running that the full list could not take (R352). -/
  unlisted : List SnrGap := []
  retrigs : List (Nat × Nat) := []
  flags : Nat := 0
  /-- First and last tick of the capture once there is a trigger (R353). -/
  first : Nat := 0
  last : Nat := 0
  /-- The definition the capture belongs to, kept past a swap (R356). -/
  cfg : Option SnrDefCfg := none
deriving DecidableEq, Repr

/-- A capture file in the NAND store (R353, R355). -/
structure SnrFile where
  number : Nat
  head : Bytes
  t0 : Nat
  bytes : Bytes
  complete : Bool
deriving DecidableEq, Repr

/-- Snare's volatile state: the four definitions, the rows that running SNR_PREP items have made, and the queue of rows to write
(R345), each with its definition. -/
structure Snare where
  prep : List (Nat × SnrRow) := []
  defs : List SnrDef := List.replicate 4 {}
  queue : List (Nat × SnrRow) := []
  /-- Level of each PIO pin behind its glitch filter, once an edge has shown it (R42, R357). -/
  levels : List (Option Bool) := List.replicate 16 none
deriving DecidableEq, Repr

end Sys2Proof
end

