-- ==== Sys2Proof/Types/Table.lean ====
section
/-!
DEFINITION. The Tambour table and its instances (R191–R217).
-/

namespace Sys2Proof

/-- An operand descriptor (R195). -/
inductive Operand where
  | cells (first count : Nat) (hdr an dg : Bool) (phFirst phNum : Nat)
  | result (item ofs len : Nat)
  | prev (item ofs len : Nat)
  | state (len : Nat)
  | close (group : Nat)
  | const (ofs len : Nat)
deriving DecidableEq, Repr

/-- A table entry (R194). -/
structure Item where
  cls : Nat
  lane : Nat
  unit : Nat
  kernel : Nat
  noDefer : Bool
  ops : List Operand
  resOfs : Nat
  resLen : Nat
  cost : Nat
  p0 : Nat
  p1 : Nat
  p2 : Nat
deriving DecidableEq, Repr

/-- A slot's cell as fetched: the record served, whether it is missing, and the slot's allocated analog values and digital words (R142). -/
structure FetchedCell where
  got : SlotRecord
  miss : Bool
  an : Nat
  dg : Nat
deriving DecidableEq, Repr

/-- A block as fetched: its header FLAGS, the tick of the run that wrote it, whether it reads as missing, whether an element of it is missing,
and its words with and without the result header. -/
structure FetchedBlock where
  flags : Nat := 0
  tick : Nat := 0
  miss : Bool := false
  gap : Bool := false
  raw : List Nat := []
  words : List Nat := []
deriving DecidableEq, Repr

/-- A fetched operand. -/
inductive Fetched where
  | cells (hdr an dg : Bool) (phFirst phNum : Nat) (cs : List FetchedCell)
  | block (b : FetchedBlock)
deriving DecidableEq, Repr

/-- Where an item of an instance stands (R197). DEFERRED is a flag beside it. -/
inductive ItemSt where
  | waiting | ready | queued | running | retired | abandoned
deriving DecidableEq, Repr

/-- An item's run in one instance. `cls` is its class after promotion, `readyAt` the Clave time from which its age runs,
`place` the lane (0 to 31) or 32 + engine that holds or ran it, `bank` the operands in its bank once they are fetched (R203, R204), `data` the
result words of its run, `stateOut` the words of its STATE block, `flags` the header FLAGS of R209. -/
structure ItemRun where
  st : ItemSt := .waiting
  cls : Nat := 3
  readyAt : Nat := 0
  place : Option Nat := none
  deferred : Bool := false
  promoted : Bool := false
  bank : Option (List Fetched) := none
  data : Option (List Nat) := none
  stateOut : Option (List Nat) := none
  flags : Nat := 0
  cycles : Nat := 0
  startAt : Nat := 0
  retireAt : Option Nat := none
  lsUe : Bool := false
  fetchUe : List Nat := []
deriving DecidableEq, Repr

/-- An instance of the table (R191). `old`: it runs under the image before the last swap (R216); `dead`: it was abandoned without having been
active (R214); `busy`: per lane, the ns spent running and retiring its items (R223). -/
structure Inst where
  tick : Nat
  old : Bool := false
  runs : List ItemRun := []
  complete : Bool := false
  held : Bool := false
  dead : Bool := false
  busy : List (Nat × Nat) := []
  abandons : Nat := 0
  /-- HOLD_S, THR, PICKUP and HYST of the coherency unit as they stood when the tick's instance was made (R286). -/
  tune : List Nat := []
  /-- Amendment positions bound to it (R328): tick, mask and index a. -/
  amend : List (Nat × Nat × Nat) := []
deriving DecidableEq, Repr

/-- A STATE block: the item, the tick of the run that wrote it, its words after the tick index. -/
structure StateBlk where
  item : Nat
  tick : Nat
  words : List Nat
deriving DecidableEq, Repr

/-- The sequencer. `insts`: the instances, oldest first, of which the last two completed are kept (PREV_RESULT and item
inspection). `queues` and `running` are keyed by place: lanes 0 to 31, engine u at 32 + u; entries are (tick, item). -/
structure Tmb where
  /-- Tick of the next instance. -/
  next : Nat := 0
  insts : List Inst := []
  queues : List (Nat × List (Nat × Nat)) := []
  running : List (Nat × Nat × Nat) := []
  states : List StateBlk := []
  /-- STATE blocks of the table before the last swap, for its instances still running (R216). -/
  oldStates : List StateBlk := []
  /-- ns of main-port stall not yet counted as a whole µs (R201). -/
  bpNs : Nat := 0
  /-- The table must be reloaded from DRAM before the next activation (R217). -/
  reload : Bool := false
  /-- The table of the image about to be swapped in is in the second table SRAM (R194, R469). -/
  prepared : Bool := false
  /-- A copy of SLACK_NS latched by a read of TMB_TICK_LO (R220). -/
  slackLatch : Option Nat := none
  /-- Lanes on which PREFETCH_DIS is in force (R204, R223). -/
  noPref : List Nat := []
  /-- The main port's age timers apply from here: Clave µs of the last promotion comparison. -/
  lastUs : Nat := 0
deriving DecidableEq, Repr

end Sys2Proof
end

