-- ==== Sys2Proof/Types/Image.lean ====
section
/-!
DEFINITION. The Tambour image (R452–R464): its header and its sections. A section whose bytes R455 lays out by general
rules is held as the settings it carries (log entry 7).
-/

namespace Sys2Proof

/-- An OWNERSHIP record (R458). -/
structure Owner where
  kind : Nat
  index : Nat
  owner : Nat
  ownerIndex : Nat
deriving DecidableEq, Repr

/-- A slot group of the image (R158 to R162). POLICY: 0 unused, 1 TIGHT, 2 BALANCED, 3 PATIENT, 4 FIXED. Late path: 0 DROP,
1 CATCH_UP, 2 AMEND. Times in ns; ALPHA, KAPPA and ALPHA_M as the exponents of 2. -/
structure GroupCfg where
  policy : Nat := 0
  latePath : Nat := 0
  /-- Configuration policy: false ADOPT, true HOLD. -/
  holdCfg : Bool := false
  /-- W_T of TIGHT. -/
  wFixed : Nat := 0
  /-- F of FIXED. -/
  f : Nat := 1
  wInit : Nat := 0
  wMin : Nat := 0
  wMax : Nat := 0
  marginUs : Nat := 1000
  quant : Nat := 2
  alpha : Nat := 10
  kappa : Nat := 4
  alphaM : Nat := 16
  dFloor : Nat := 10000
  fallStep : Nat := 0
  activeS : Nat := 10
deriving DecidableEq, Repr

/-- A DRAM partition (R461): ID, base and size in MiB. -/
structure Partition where
  id : Nat
  base : Nat
  size : Nat
deriving DecidableEq, Repr

/-- A COUNTERS record (R464): the event, whether port-class, CHAIN. -/
structure CounterCfg where
  event : Nat := 0
  port : Bool := false
  chain : Bool := false
deriving DecidableEq, Repr

/-- The PROOF section (R456): g0_span, pio_span, the frame bound of each class-0 port, the schedule span, in ns. -/
structure Proof where
  g0Span : Nat := 0
  pioSpan : Nat := 0
  bounds : List (Nat × Nat) := []
  span : Nat := 0
deriving DecidableEq, Repr

/-- A running or stored image. -/
structure Image where
  svn : Nat := 0
  /-- SHA-256 of the signed bytes, the digest partners compare (R452). -/
  digest : Nat := 0
  rateCode : Nat := 0
  minRomlvl : Nat := 0
  variant : Nat := 0
  buildId : Nat := 0
  /-- FLAGS.OVERRUN: true = HOLD. -/
  hold : Bool := false
  guardMax : Nat := 2
  horizon : Nat := 8
  sourceId : Nat := 0
  srcMac : Nat := 0
  /-- Pair-wide source address of each port that streams use (R322): port, address. -/
  srcIps : List (Nat × Nat) := []
  qdepth : Nat := 256
  amdSlots : Nat := 0
  owners : List Owner := []
  partitions : List Partition := []
  crossing : List Nat := []
  ports : List PortCfg := []
  streams : List StreamImg := []
  groups : List GroupCfg := []
  bindings : List Binding := []
  tcp : List TcpCfg := []
  items : List Item := []
  consts : Bytes := []
  proof : Proof := {}
  spec : SpecCfg := {}
  coh : CohCfg := {}
  alm : AlmCfg := {}
  acc : AccCfg := {}
  outs : List OutStream := []
  snare : List SnrDefCfg := []
  snareNandMib : Nat := 0
  /-- A LOCAL section is present; its settings are register fields. -/
  local_ : Bool := false
  counters : List CounterCfg := []
  pair : Option PairCfg := none
  /-- Register fields the image sets ("image" in the register tables): field key and value. -/
  regs : List (Nat × Nat) := []
  /-- The image's bytes as they were loaded. -/
  file : Bytes := []
deriving DecidableEq, Repr

/-- The presence of a PAIR section pairs the module (R456). -/
def Image.paired (i : Image) : Bool := i.pair.isSome

/-- One stored set of learning statistics in MRAM (R164): its generation, the slots' bindings with their groups and the group definitions it
was learned under, and its CRC-32C, which a write that was cut off has not reached. -/
structure LearnArea where
  gen : Nat
  keys : List (BindKey × Nat)
  groups : List GroupCfg
  stats : List (Nat × SlotStat)
  crc : Option Nat
deriving DecidableEq, Repr

/-- What a FORWARD message carries (R403, R408): a C37.118 command by its code, a mailbox command, or an image for a slot. -/
inductive Fwd where
  | c37 (code : Nat) (c : CmdFrame)
  | mailbox (opcode : Nat) (args : List Nat)
  | image (slot : Nat) (bytes : Bytes) (img : Image)
deriving DecidableEq, Repr

/-- Base rates by RATE code (R453). -/
def rateOfCode (c : Nat) : Nat :=
  [10, 12, 15, 20, 25, 30, 50, 60, 100, 120, 200, 240].getD c 0

end Sys2Proof
end

