-- ==== Sys2Proof/Types/Mailbox.lean ====
section
/-!
DEFINITION. The mailbox and the command scheduler (R474–R488).
-/

namespace Sys2Proof

/-- Where a command comes from (R483). -/
inductive CmdSrc where
  | chan (c : Nat)
  | bench
  | partner
deriving DecidableEq, Repr

/-- A command accepted by the scheduler: its copied words, the resources it holds (R484), and once it has run, its status,
result words. `dma`: it moves data by DMA; `memo`: what it keeps while it waits for something; `waitTo`: elapsed ns up to which
it waits for the partner (R487). -/
structure Running where
  src : CmdSrc
  opcode : Nat
  args : List Nat
  tag : Nat
  claims : Nat := 0
  done : Option (Nat × List Nat) := none
  dma : Bool := false
  memo : List Nat := []
  waitTo : Option Nat := none
deriving DecidableEq, Repr

/-- The scheduler: commands accepted and not completed, in arrival order; KEY commands waiting (R485) are those whose
`queued` position is in `wait`. -/
structure Mbx where
  run : List Running := []
  wait : List CmdSrc := []
  /-- Vectors held pending while MSI-X is off (R479). -/
  held : List Nat := []
  /-- A swap cancelled whose cancellation the partner has not yet confirmed (R487). -/
  cancelled : Option (Image × Nat × Nat) := none
deriving DecidableEq, Repr

/-- Notes of R480 in MRAM: source code and opcode of each running command with a commit point. -/
abbrev MbxNotes := List (Nat × Nat)

end Sys2Proof
end

