-- ==== Sys2Proof/Types/Power.lean ====
section
/-!
DEFINITION. Power, start, shutdown, pins, clock domains and held accesses (R30–R60, R520–R533).
-/

namespace Sys2Proof

/-- Where the module is between VIN application and switch-off (R50, R55). -/
inductive PwrPhase where
  | off            -- switched off, waiting for the condition of R50
  | start (stage : Nat)
  | running
  | shedding (reason : Nat)
  | held           -- MOD_RESET_N low
deriving DecidableEq, Repr

/-- Power and reset state (R50–R56, R530). `groups`: S2 or S3 groups settled; `ramping`: the next group's ramp runs. -/
structure Pwr where
  phase : PwrPhase := .off
  groups : Nat := 0
  ramping : Bool := false
  /-- Elapsed ns of the last THERMAL_HIGH record (R32). -/
  thermRec : Option Nat := none
  /-- Off after a thermal shutdown: a start waits for 105 °C. -/
  thermHold : Bool := false
  ovHold : Bool := false
  pgood : Bool := false
  pfailN : Bool := true
  /-- PCIE_PERST_N is asserted; the link is up; the highest generation the straps allowed (R45). -/
  perst : Bool := true
  pcieUp : Bool := false
  maxGen : Nat := 4
  /-- PAIR_ABD_N as this module drives it (true = released). -/
  abdN : Bool := true
  /-- GNSS_TOD_TX is driven high (R74). -/
  todTx : Bool := false
  /-- The energy store's capacitance in µF as S0 measured it (R54). -/
  storeUf : Nat := 0
deriving DecidableEq, Repr

/-- What MRAM keeps of shutdowns and resets. -/
structure PwrMram where
  /-- The commit marker of the last shutdown, with its reason (R55). -/
  marker : Option Nat := none
  /-- A start has been made since commissioning, or since the part was made (R58). -/
  started : Bool := false
  modRst : Nat := 0
  /-- The last reset was by MOD_RESET_N. -/
  byModRst : Bool := false
  /-- TAI seconds last written (R546), and TAI − UTC. -/
  time : Nat := 0
  taiUtc : Nat := 37
deriving DecidableEq, Repr

/-- A held access (R528): the domain code, the offset, and the value of a write. -/
structure HeldAccess where
  dom : Nat
  off : Nat
  val : Option Nat
deriving DecidableEq, Repr

/-- Host accesses held, oldest first, and posted writes stalled behind a full buffer (R528). -/
structure Dom where
  held : List HeldAccess := []
  stalled : List HeldAccess := []
  /-- The ROM runs; false from a steward reset until it has restarted (R531). -/
  stewUp : Bool := true
deriving DecidableEq, Repr

end Sys2Proof
end

