-- ==== Sys2Proof/Types/Time.lean ====
section
/-!
DEFINITION. Clave's data (R65–R95) beside its registers.
-/

namespace Sys2Proof

/-- The grandmaster data set of an Announce (R70), compared by the default BMCA. -/
structure PtpDataset where
  priority1 : Nat
  clockClass : Nat
  accuracy : Nat
  variance : Nat
  priority2 : Nat
  identity : Nat
  stepsRemoved : Nat
  /-- Stated inaccuracy of the source (totalTimeInaccuracy), ns. -/
  inaccuracy : Nat
  /-- currentUtcOffset when valid. -/
  utcOffset : Option Nat
  leap61 : Bool
  leap59 : Bool
  timeTraceable : Bool
  freqTraceable : Bool
  /-- The ALTERNATE_TIME_OFFSET_INDICATOR TLV, byte for byte (R70). -/
  alternate : Bytes
deriving DecidableEq, Repr

/-- What a PTP port sends of itself (R70, R71). -/
inductive PtpTx where
  | announce | sync | pdelayReq | delayReq
deriving DecidableEq, Repr

/-- The role the BMCA gives a PTP port. -/
inductive PtpRole where
  | listening | master | slave | passive
deriving DecidableEq, Repr

/-- One PTP port: its role, the best Announce it holds and when it came, path delays, and a two-step Sync waiting. -/
structure PtpPort where
  role : PtpRole := .listening
  best : Option PtpDataset := none
  bestAt : Nat := 0
  annInterval : Nat := 1000000000
  /-- meanPathDelay, peer or end to end, ns. -/
  delay : Int := 0
  /-- Two-step Sync waiting for its Follow_Up: sequence, receive stamp, correction (ns). -/
  twoStep : Option (Nat × Nat × Int) := none
  /-- The port's own last Pdelay_Req or Delay_Req: sequence and transmit stamp; and the last Sync's corrected origin and its arrival. -/
  req : Option (Nat × Nat) := none
  syncAt : Option (Int × Nat) := none
  txSeq : Nat := 0
deriving DecidableEq, Repr

/-- A measured sample: offset (source time minus Clave time) and the Clave time at which it was taken. -/
structure TimeSample where
  ofs : Int
  at_ : Nat
deriving DecidableEq, Repr

/-- A source's recent history: its latest consecutive usable samples, oldest first (at most 4), consecutive samples within
JUMP_NS, the elapsed ns of its last usable sample, its stated inaccuracy, and whether its disagreement has been reported (R77). -/
structure SrcHist where
  recent : List TimeSample := []
  accepted : Nat := 0
  last : Option Nat := none
  inacc : Nat := 0
  disagreed : Bool := false
deriving DecidableEq, Repr

/-- A reseat committed and not yet taken (R82): tick m, its instant in the old time, D, source, ticks skipped. -/
structure Reseat where
  m : Nat
  tm : Nat
  d : Int
  src : Nat
  skipped : Nat
deriving DecidableEq, Repr

/-- A TIME_RESEAT command waiting for 4 samples of its source (R81): source, deadline (elapsed ns), samples since. -/
structure ReseatWait where
  src : Nat
  deadline : Nat
  got : List Int := []
deriving DecidableEq, Repr

/-- A time-trigger generator's snapshot while armed (R89): mode, polarity, pin, start, period, width, divisor, the index
of the next pulse, and the end of an active pulse. -/
structure TtgRun where
  mode : Nat
  pol : Nat
  pin : Nat
  start : Nat
  period : Nat
  width : Nat
  div : Nat
  next : Nat
  fallAt : Option Nat
deriving DecidableEq, Repr

/-- One captured edge (R91). -/
structure CapEntry where
  time : Nat
  rise : Bool
  gen : Nat
deriving DecidableEq, Repr

/-- An IRIG-B frame as decoded (R72): where the capture logic sees its reference marker's leading edge, its second of the year, the year
its code carries (B004 to B007), and of the IEEE 1344 extension the year, the local time offset in s, the quality nibble's error in ns,
whether parity holds, and a pending leap's sign. -/
structure IrigFrame where
  raw : Nat
  second : Nat
  year : Nat
  extYear : Nat
  locOfs : Int
  parityOk : Bool
  qualNs : Nat
  leap : Option Bool
deriving DecidableEq, Repr

/-- Clave's state beside its registers. -/
structure Clave where
  /-- TAI time in ns (R65), and its sub-ns remainder in units of 10^-12 ns from the servo rate. -/
  now : Nat := 0
  frac : Int := 0
  /-- Histories of PTP, IRIG-B and PPS, in that order. -/
  srcs : List SrcHist := List.replicate 3 {}
  cand : Nat := 0
  /-- Elapsed ns at the end of S1 (R77). -/
  s1End : Nat := 0
  okRun : Nat := 0
  refusedRun : Nat := 0
  lastRefused : Int := 0
  /-- Elapsed ns at which the refusal episode began (R76). -/
  episode : Option Nat := none
  /-- The last 16 accepted samples, newest first (R79). -/
  hist : List Int := []
  /-- The servo's integral term (R75). -/
  integ : Int := 0
  /-- E at entry into holdover and the elapsed ns of that entry (R79). -/
  e0 : Nat := 0
  eSince : Nat := 0
  /-- Rates of the last 60 whole seconds, newest first (R77). -/
  rates : List Int := []
  /-- Elapsed ns of the servo's last change of rate. -/
  lastSample : Nat := 0
  /-- The whole TAI second fixed at lock for the first tick (R77). -/
  tickSecond : Option Nat := none
  /-- TAI second at which the pending leap takes effect, and its sign (true = positive). -/
  leapAt : Option (Nat × Bool) := none
  /-- TAI second of the last leap taken, and its sign (R140). -/
  lastLeap : Option (Nat × Bool) := none
  gm : Nat := 0
  reseat : Option Reseat := none
  wait : Option ReseatWait := none
  ptp : List PtpPort := List.replicate 8 {}
  ptpMgmt : Nat := 0
  /-- A stamped PPS edge or a ZDA sentence waiting for the other (R74): PPS stamp; ZDA second and receive stamp; second of the last RMC A. -/
  pps : Option Nat := none
  zda : Option (Nat × Nat) := none
  rmc : Option Nat := none
  ttg : List (Option TtgRun) := List.replicate 8 none
  caps : List (List CapEntry) := List.replicate 16 []
  /-- Level at the output of each capture input's glitch filter, once an edge has passed it (R42). -/
  capLevel : List (Option Bool) := List.replicate 16 none
  /-- Next tick to be issued, and the ticks the last reseat skips: first and count (R82). -/
  nextTick : Nat := 0
  skip : Option (Nat × Nat) := none
  /-- Tick m of the last reseat taken (R159). -/
  lastReseat : Option Nat := none
deriving DecidableEq, Repr

end Sys2Proof
end

