-- ==== Sys2Proof/Syntax.lean ====
section
/-!
DEFINITION. The commands of the block, one constructor per row of spec/opcode_table.json. The table gives no operands:
each constructor carries what its event brings from outside (log entry 1).
-/

namespace Sys2Proof

/-- A command of the block: one constructor per row of the spec's command table. -/
inductive Instr where
  /-- COLD_START (R50). -/
  | coldStart (vinMv storeUf : Nat) (die lid : Int) (tamperLow : Bool)
  /-- START_GROUP_RAMP (R51). -/
  | startGroupRamp
  /-- START_STAGE_COMPLETE (R50). -/
  | startStageComplete (storeMv : Nat)
  /-- START_PAUSED (R52). -/
  | startPaused (vinMv : Nat)
  /-- START_RESUME (R52). -/
  | startResume
  /-- VIN_TEMP_SAMPLE (R60). -/
  | vinTempSample (vinMv iinMa storeMv : Nat) (die lid : Int)
  /-- THERMAL_SHUTDOWN (R32). -/
  | thermalShutdown (vinMv : Nat) (die lid : Int)
  /-- OVERVOLTAGE (R47). -/
  | overvoltage (vinMv : Nat) (die : Int)
  /-- POWER_FAIL (R55). -/
  | powerFail (vinMv : Nat) (die : Int)
  /-- SHUTDOWN_COMMIT (R55). -/
  | shutdownCommit
  /-- MOD_RESET (R530). -/
  | modReset
  /-- PCIE_PERST_ASSERT (R45). -/
  | pciePerstAssert
  /-- PCIE_PERST_RELEASE (R45). -/
  | pciePerstRelease (maxgen : Fin 4)
  /-- HOT_RESET (R530). -/
  | hotReset
  /-- FUNCTION_LEVEL_RESET (R530). -/
  | functionLevelReset
  /-- STEWARD_WATCHDOG (R530). -/
  | stewardWatchdog
  /-- DOM_RST_CTL (R533). -/
  | domRstCtl (go : Bool) (target : Fin 128)
  /-- HELD_ACCESS_RELEASE (R529). -/
  | heldAccessRelease (dom : Fin 128)
  /-- REGISTER_WRITE (R6). -/
  | registerWrite (off val : Nat) (full wide twin : Bool)
  /-- RC_READ (R6). -/
  | rcRead (off : Nat) (wide : Bool)
  /-- LO_LATCH_READ (R84). -/
  | loLatchRead (off : Nat) (wide : Bool)
  /-- SELECT_LATCH_WRITE (R150). -/
  | selectLatchWrite (off val : Nat)
  /-- TICK_INSTANT (R66). -/
  | tickInstant (n : Nat)
  /-- SYNC (R76). -/
  | sync (k : Fin 8) (dom : Fin 256) (seq t1 t2 : Nat) (corr : Int) (twoStep : Bool)
  /-- FOLLOW_UP (R70). -/
  | followUp (k : Fin 8) (dom : Fin 256) (seq t1 : Nat) (corr : Int)
  /-- ANNOUNCE (R70). -/
  | announce (k : Fin 8) (dom : Fin 256) (ds : PtpDataset) (interval : Nat)
  /-- PDELAY_REQ (R70). -/
  | pdelayReq (k : Fin 8) (dom : Fin 256) (seq t2 asker : Nat)
  /-- PDELAY_RESP (R70). -/
  | pdelayResp (k : Fin 8) (dom : Fin 256) (seq t2 t3 t4 : Nat) (corr : Int)
  /-- DELAY_REQ (R70). -/
  | delayReq (k : Fin 8) (dom : Fin 256) (seq rx : Nat) (requester : Nat)
  /-- DELAY_RESP (R70). -/
  | delayResp (k : Fin 8) (dom : Fin 256) (seq t4 : Nat) (corr : Int)
  /-- MANAGEMENT_MESSAGE (R70). -/
  | managementMessage (k : Fin 8) (dom : Fin 256)
  /-- PTP_MASTER_TX (R71). -/
  | ptpMasterTx (k : Fin 8) (what : PtpTx)
  /-- IRIG_FRAME (R72). -/
  | irigFrame (frame : IrigFrame)
  /-- PPS_EDGE (R74). -/
  | ppsEdge (raw hold : Nat)
  /-- ZDA (R74). -/
  | zda (baud : Fin 5) (utcSec : Nat) (checksumOk : Bool) (rxAt : Nat)
  /-- RMC (R74). -/
  | rmc (baud : Fin 5) (statusA : Bool) (checksumOk : Bool) (utcSec : Nat)
  /-- FIRST_LOCK_WAIT_EXPIRY (R77). -/
  | firstLockWaitExpiry
  /-- SRC_LOST (R77). -/
  | srcLost
  /-- STUCK (R77). -/
  | stuck
  /-- TICKING_BEGIN (R77). -/
  | tickingBegin
  /-- LEAP (R69). -/
  | leap
  /-- TIME_MRAM_WRITE (R546). -/
  | timeMramWrite
  /-- RESEAT_STEP (R82). -/
  | reseatStep
  /-- TTG_ARM (R89). -/
  | ttgArm (k : Fin 8)
  /-- TTG_DISARM (R94). -/
  | ttgDisarm (k : Fin 8)
  /-- TTG_EDGE (R88). -/
  | ttgEdge (k : Fin 8)
  /-- CAPTURE_EDGE (R91). -/
  | captureEdge (k : Fin 16) (raw hold : Nat) (rise : Bool)
  /-- CAPTURE_POP (R95). -/
  | capturePop (k : Fin 16)
  /-- LINK_UP (R96). -/
  | linkUp (n : Fin 64) (fullDuplex gigabit : Bool)
  /-- LINK_DOWN (R99). -/
  | linkDown (n : Fin 64)
  /-- AN_RETRY (R97). -/
  | anRetry (n : Fin 64) (fullDuplex gigabit : Bool)
  /-- LINK_RESTART (R122). -/
  | linkRestart (n : Fin 64)
  /-- MAC_RX_FRAME (R105). -/
  | macRxFrame (n : Fin 64) (stamp : Nat) (bytes : Bytes) (fin : RxEnd) (ce : Nat)
  /-- DUP_LOOKUP (R111). -/
  | dupLookup (n : Fin 64) (stamp : Nat) (bytes : Bytes)
  /-- DUP_WAIT_RELEASE (R111). -/
  | dupWaitRelease (n : Fin 64)
  /-- DUP_ENTRY_EXPIRE (R113). -/
  | dupEntryExpire
  /-- PAUSE_RX (R115). -/
  | pauseRx (n : Fin 64) (quanta : Fin 65536)
  /-- PAUSE_EXPIRE (R115). -/
  | pauseExpire (n : Fin 64)
  /-- PAUSE_OBEY_WRITE (R115). -/
  | pauseObeyWrite (n : Fin 64) (v : Bool)
  /-- PMAC_VERIFY (R119). -/
  | pmacVerify (n : Fin 64)
  /-- VERIFY_RESPONSE_RX (R119). -/
  | verifyResponseRx (n : Fin 64)
  /-- PMAC_EN_WRITE (R120). -/
  | pmacEnWrite (n : Fin 64) (v : Bool)
  /-- TX_FRAME_START (R116). -/
  | txFrameStart (n : Fin 64) (sent : Nat)
  /-- TX_FRAME_SENT (R118). -/
  | txFrameSent (n : Fin 64) (stamp : Nat) (ue : Bool) (ce : Nat)
  /-- EGRESS_SCHEDULE (R330). -/
  | egressSchedule (n : Fin 64)
  /-- HOST_RX_RING_PLACE (R121). -/
  | hostRxRingPlace (n : Fin 64) (addrs : List Nat)
  /-- INGRESS_PARSE (R125). -/
  | ingressParse (n : Fin 64)
  /-- DATA_FRAME (R131). -/
  | dataFrame (src : IngSrc)
  /-- CFG1_FRAME (R131). -/
  | cfg1Frame (src : IngSrc)
  /-- CFG2_FRAME (R136). -/
  | cfg2Frame (src : IngSrc)
  /-- CFG3_FRAME (R136). -/
  | cfg3Frame (src : IngSrc) (contIdx : Nat) (cfg : StreamCfg) (desc : List CfgDesc)
  /-- HEADER_FRAME (R131). -/
  | headerFrame (src : IngSrc)
  /-- IEEE1344_DATA_FRAME (R132). -/
  | ieee1344DataFrame (n : Fin 64) (d : I1344Data)
  /-- IEEE1344_CFG_FRAME (R132). -/
  | ieee1344CfgFrame (n : Fin 64) (ident : Nat) (sizeOk chkOk : Bool) (cfg : StreamCfg)
  /-- ROUTED_SV_FRAME (R133). -/
  | routedSvFrame (n : Fin 64) (f : SvFrame)
  /-- CFG_ACTIVATE (R137). -/
  | cfgActivate (stream : Nat)
  /-- INGRESS_COMMIT (R108). -/
  | ingressCommit (src : IngSrc)
  /-- TCP_CONNECT (R129). -/
  | tcpConnect (conn : Fin 256)
  /-- TCP_RETRY (R129). -/
  | tcpRetry (conn : Fin 256)
  /-- TCP_DOWN (R129). -/
  | tcpDown (conn : Fin 256)
  /-- MEMBERSHIP_REPORT (R128). -/
  | membershipReport (query : Option (Fin 64))
  /-- ARP_REQUEST (R128). -/
  | arpRequest (n : Fin 64) (target asker askMac : Nat)
  /-- MAC_RESOLVE (R274). -/
  | macResolve
  /-- RECORD_ARRIVAL (R156). -/
  | recordArrival
  /-- RESAMPLER_INPUT (R171). -/
  | resamplerInput
  /-- CLOSE_TOKEN_ISSUE (R154). -/
  | closeTokenIssue
  /-- CLOSE_TOKEN_PROCESS (R156). -/
  | closeTokenProcess
  /-- MISSING_TEMPLATE_WRITE (R169). -/
  | missingTemplateWrite
  /-- LEARNING_MRAM_WRITE (R164). -/
  | learningMramWrite (cut : Bool)
  /-- PGH_SRAM_UE (R186). -/
  | pghSramUe (e : EccErr) (stats : Bool) (n : Nat) (slot : Fin 8192)
  /-- INSTANCE_ACTIVATE (R192). -/
  | instanceActivate
  /-- ITEM_DISPATCH (R200). -/
  | itemDispatch (gong : Bool)
  /-- ITEM_START (R204). -/
  | itemStart (place : Fin 38) (late : Bool)
  /-- ITEM_RETIRE (R209). -/
  | itemRetire (place : Fin 38) (extra : Nat)
  /-- AGE_PROMOTION (R202). -/
  | agePromotion
  /-- TABLE_SRAM_UE (R217). -/
  | tableSramUe (e : EccErr) (n : Nat) (item : Fin 4096)
  /-- LANE_LS_UE (R217). -/
  | laneLsUe (e : EccErr) (lane : Fin 32)
  /-- FETCH_UE (R217). -/
  | fetchUe (place : Fin 38) (k : Nat) (slot : Fin 8192)
  /-- GATHER (R219). -/
  | gather (n : Nat) (item : Fin 4096)
  /-- QUAL_SCAN (R219). -/
  | qualScan (n : Nat) (item : Fin 4096)
  /-- RSMP_STATUS (R219). -/
  | rsmpStatus (n : Nat) (item : Fin 4096)
  /-- SELECT (R219). -/
  | select (n : Nat) (item : Fin 4096)
  /-- SCALE (R219). -/
  | scale (n : Nat) (item : Fin 4096)
  /-- MASK_LOGIC (R219). -/
  | maskLogic (n : Nat) (item : Fin 4096)
  /-- COUNT_FLAGS (R219). -/
  | countFlags (n : Nat) (item : Fin 4096)
  /-- PH_TO_POLAR (R542). -/
  | phToPolar (n : Nat) (item : Fin 4096)
  /-- PH_TO_RECT (R542). -/
  | phToRect (n : Nat) (item : Fin 4096)
  /-- PH_ANGDIFF (R219). -/
  | phAngdiff (n : Nat) (item : Fin 4096)
  /-- PH_ROTATE (R219). -/
  | phRotate (n : Nat) (item : Fin 4096)
  /-- PH_SEQ (R219). -/
  | phSeq (n : Nat) (item : Fin 4096)
  /-- PH_POWER (R219). -/
  | phPower (n : Nat) (item : Fin 4096)
  /-- PH_POWER3 (R219). -/
  | phPower3 (n : Nat) (item : Fin 4096)
  /-- PH_WSUM (R219). -/
  | phWsum (n : Nat) (item : Fin 4096)
  /-- PH_UNBAL (R219). -/
  | phUnbal (n : Nat) (item : Fin 4096)
  /-- FREQ_WMEAN (R219). -/
  | freqWmean (n : Nat) (item : Fin 4096)
  /-- SIG_FIR (R219). -/
  | sigFir (n : Nat) (item : Fin 4096)
  /-- SIG_DIFF (R219). -/
  | sigDiff (n : Nat) (item : Fin 4096)
  /-- ANG_UNWRAP (R219). -/
  | angUnwrap (n : Nat) (item : Fin 4096)
  /-- ANG_WRAP (R219). -/
  | angWrap (n : Nat) (item : Fin 4096)
  /-- CMATVEC (R219). -/
  | cmatvec (n : Nat) (item : Fin 4096)
  /-- RMATVEC (R219). -/
  | rmatvec (n : Nat) (item : Fin 4096)
  /-- LSQ_SMALL (R219). -/
  | lsqSmall (n : Nat) (item : Fin 4096)
  /-- INTERP_LIN (R219). -/
  | interpLin (n : Nat) (item : Fin 4096)
  /-- MINMAX (R219). -/
  | minmax (n : Nat) (item : Fin 4096)
  /-- EWMA_VAR (R219). -/
  | ewmaVar (n : Nat) (item : Fin 4096)
  /-- TOPK (R219). -/
  | topk (n : Nat) (item : Fin 4096)
  /-- CLAMP (R219). -/
  | clamp (n : Nat) (item : Fin 4096)
  /-- STAT_BLOCK (R219). -/
  | statBlock (n : Nat) (item : Fin 4096)
  /-- DET_LEVEL (R265). -/
  | detLevel (n : Nat) (item : Fin 4096)
  /-- DET_RATE (R543). -/
  | detRate (n : Nat) (item : Fin 4096)
  /-- DET_ANGSEP (R266). -/
  | detAngsep (n : Nat) (item : Fin 4096)
  /-- DET_SAGSWELL (R268). -/
  | detSagswell (n : Nat) (item : Fin 4096)
  /-- DET_FREQ (R267). -/
  | detFreq (n : Nat) (item : Fin 4096)
  /-- DET_STEP (R265). -/
  | detStep (n : Nat) (item : Fin 4096)
  /-- DET_DIGITAL (R543). -/
  | detDigital (n : Nat) (item : Fin 4096)
  /-- DET_VOTE (R265). -/
  | detVote (n : Nat) (item : Fin 4096)
  /-- ALM_POST (R271). -/
  | almPost (n : Nat) (item : Fin 4096)
  /-- ALM_PIO (R281). -/
  | almPio (n : Nat) (item : Fin 4096)
  /-- EVT_POST (R219). -/
  | evtPost (n : Nat) (item : Fin 4096)
  /-- EVT_MERGE (R219). -/
  | evtMerge (n : Nat) (item : Fin 4096)
  /-- SPEC_PREP (R228). -/
  | specPrep (n : Nat) (item : Fin 4096)
  /-- MODE_PREP (R228). -/
  | modePrep (n : Nat) (item : Fin 4096)
  /-- COH_PREP (R255). -/
  | cohPrep (n : Nat) (item : Fin 4096)
  /-- ACC_PREP (R290). -/
  | accPrep (n : Nat) (item : Fin 4096)
  /-- DEF_PREP (R228). -/
  | defPrep (n : Nat) (item : Fin 4096)
  /-- SNR_PREP (R343). -/
  | snrPrep (n : Nat) (item : Fin 4096)
  /-- PMU_HEALTH (R219). -/
  | pmuHealth (n : Nat) (item : Fin 4096)
  /-- OUT_DECIM (R317). -/
  | outDecim (n : Nat) (item : Fin 4096)
  /-- OUT_PACK_2011 (R219). -/
  | outPack2011 (n : Nat) (item : Fin 4096)
  /-- OUT_PACK_2005 (R219). -/
  | outPack2005 (n : Nat) (item : Fin 4096)
  /-- OUT_PACK_RAW (R219). -/
  | outPackRaw (n : Nat) (item : Fin 4096)
  /-- OUT_STAT (R321). -/
  | outStat (n : Nat) (item : Fin 4096)
  /-- OUT_AMEND_PACK (R328). -/
  | outAmendPack (n : Nat) (item : Fin 4096)
  /-- TICK_SUMMARY (R219). -/
  | tickSummary (n : Nat) (item : Fin 4096)
  /-- NOP (R219). -/
  | nop (n : Nat) (item : Fin 4096) (src : Option CmdSrc) (args : List Nat)
  /-- SDFT_UPDATE (R230). -/
  | sdftUpdate (n : Nat) (item : Fin 4096)
  /-- DEF_UPDATE (R246). -/
  | defUpdate (n : Nat) (item : Fin 4096)
  /-- MODE_TRACK (R238). -/
  | modeTrack (n : Nat) (item : Fin 4096)
  /-- COMPONENTS (R258). -/
  | components (n : Nat) (item : Fin 4096)
  /-- INTEGRATE (R298). -/
  | integrate (n : Nat) (item : Fin 4096)
  /-- COMPOSE (R316). -/
  | compose (n : Nat) (item : Fin 4096)
  /-- AMEND (R328). -/
  | amend (n : Nat) (item : Fin 4096)
  /-- SPEC_STATE_UE (R227). -/
  | specStateUe (e : EccErr) (what : Fin 3) (index : Nat)
  /-- COH_SRAM_UE (R262). -/
  | cohSramUe (e : EccErr)
  /-- ALARM_FRAME_SEND (R278). -/
  | alarmFrameSend (cls : Fin 4) (n : Nat)
  /-- ALARM_HEARTBEAT (R278). -/
  | alarmHeartbeat (d : Fin 8) (n : Nat)
  /-- GOOSE_RETRANSMIT (R279). -/
  | gooseRetransmit (k : Fin 16)
  /-- ALM_ACK (R272). -/
  | almAck (all : Bool) (k : Fin 2048)
  /-- ALM_INH (R272). -/
  | almInh (bits : Nat)
  /-- MAX_CLR (R287). -/
  | maxClr
  /-- MIN_CLR (R220). -/
  | minClr
  /-- ACC_COMMIT (R302). -/
  | accCommit (fail : Bool)
  /-- ACC_SRAM_UE (R306). -/
  | accSramUe (e : EccErr) (c : Fin 512)
  /-- PULSE_START (R308). -/
  | pulseStart (k : Fin 8)
  /-- PULSE_END (R308). -/
  | pulseEnd (k : Fin 8)
  /-- CMD_TURN_OFF (R326). -/
  | cmdTurnOff (c : CmdFrame)
  /-- CMD_TURN_ON (R326). -/
  | cmdTurnOn (c : CmdFrame)
  /-- CMD_SEND_HEADER (R326). -/
  | cmdSendHeader (c : CmdFrame)
  /-- CMD_SEND_CFG1 (R326). -/
  | cmdSendCfg1 (c : CmdFrame)
  /-- CMD_SEND_CFG2 (R326). -/
  | cmdSendCfg2 (c : CmdFrame)
  /-- CMD_SEND_CFG3 (R326). -/
  | cmdSendCfg3 (c : CmdFrame)
  /-- COMPOSER_BP_WAIT_END (R333). -/
  | composerBpWaitEnd
  /-- RAW_BLOCK_WRITE (R336). -/
  | rawBlockWrite (k : Fin 64) (addrs : List Nat)
  /-- HOST_TX_PROD_WRITE (R336). -/
  | hostTxProdWrite (n : Fin 64) (prod : Nat) (descs : List (Bytes × Bytes))
  /-- RING_DMA_FAULT (R341). -/
  | ringDmaFault (r : Fin 192)
  /-- SNARE_ARM (R347). -/
  | snareArm (k : Fin 4)
  /-- SNARE_DISARM (R347). -/
  | snareDisarm (k : Fin 4)
  /-- SNARE_RELEASE (R347). -/
  | snareRelease (k : Fin 4)
  /-- SNARE_HOST_TRIG (R348). -/
  | snareHostTrig (k : Fin 4)
  /-- SNARE_PIO_EDGE (R348). -/
  | snarePioEdge (pin : Fin 16) (raw hold : Nat) (rise : Bool)
  /-- SNARE_AUTO_TRIGGER (R350). -/
  | snareAutoTrigger (k : Fin 4)
  /-- SNARE_ROW_WRITE (R345). -/
  | snareRowWrite
  /-- SNARE_AUTO_EXPORT (R342). -/
  | snareAutoExport (k : Fin 4)
  /-- EVENT_POST (R361). -/
  | eventPost (code : Fin 256) (payload : Bytes)
  /-- CHEST_RECORD_WRITE (R361). -/
  | chestRecordWrite
  /-- TOKEN_REFILL (R366). -/
  | tokenRefill (code : Fin 256)
  /-- ROLL_PAGE_WRITE (R362). -/
  | rollPageWrite (fail : Bool)
  /-- CHEST_FLUSH (R362). -/
  | chestFlush
  /-- CHEST_MEMORY_FAULT (R371). -/
  | chestMemoryFault (f : ChestFault)
  /-- CHEST_FETCH (R369). -/
  | chestFetch (seqLo : Nat)
  /-- CHEST_FETCH_DONE (R369). -/
  | chestFetchDone
  /-- TAMPER (R392). -/
  | tamper (low : Bool) (raw hold : Nat)
  /-- ZEROIZE_JOURNAL (R393). -/
  | zeroizeJournal
  /-- BUR_SRAM_UE (R388). -/
  | burSramUe (e : EccErr) (entry : Fin 1024) (copyBad : Bool)
  /-- HELLO (R402). -/
  | hello (nonce digest serial : Nat)
  /-- AUTH (R402). -/
  | auth (lane : Fin 2) (mac : Nat)
  /-- HEARTBEAT (R405). -/
  | heartbeat (m : PairMsg) (h : Heartbeat)
  /-- ABDICATE (R411). -/
  | abdicate (m : PairMsg) (cause instant : Nat)
  /-- HANDOVER (R414). -/
  | handover (m : PairMsg) (j : Nat)
  /-- PREPARE (R417). -/
  | prepare (m : PairMsg) (epoch c : Nat)
  /-- BLOCK (R417). -/
  | block (m : PairMsg) (epoch id : Nat) (b : CopyBlock) (crcOk : Bool)
  /-- END_READY (R417). -/
  | endReady (m : PairMsg) (epoch count : Nat) (crcOk : Bool)
  /-- COMMIT (R417). -/
  | commit (m : PairMsg) (epoch k : Nat)
  /-- FORWARD (R408). -/
  | forward (m : PairMsg) (f : Fwd)
  /-- MIRROR (R408). -/
  | mirror (m : PairMsg) (op inst operand : Nat)
  /-- ACC_SUM (R421). -/
  | accSum (m : PairMsg) (tick : Nat) (anets : List Nat)
  /-- PAIR_LANE_DOWN (R401). -/
  | pairLaneDown (lane : Fin 2)
  /-- PAIR_ABD_N_FALL (R411). -/
  | pairAbdNFall
  /-- PAIR_ABD_N_RELEASE (R411). -/
  | pairAbdNRelease
  /-- PAIR_WATCHDOG (R410). -/
  | pairWatchdog
  /-- PAIR_WAIT_EXPIRY (R405). -/
  | pairWaitExpiry
  /-- YIELD_RECOVER (R405). -/
  | yieldRecover
  /-- JOIN_RETRY (R420). -/
  | joinRetry
  /-- JOIN_TIMEOUT (R419). -/
  | joinTimeout
  /-- SD_OUTPUT (R426). -/
  | sdOutput (c : Fin 8) (mods : List SdMod) (capA capB : Nat) (cyc : Fin 6144) (ue : Bool)
  /-- SD_RESTART_SETTLED (R430). -/
  | sdRestartSettled (c : Fin 8)
  /-- LOCAL_ESTIMATE_COMMIT (R438). -/
  | localEstimateCommit (n : Nat)
  /-- ICV_CONVERSION_END (R441). -/
  | icvConversionEnd (a b : IcvIn)
  /-- ICV_REF_SETTLED (R443). -/
  | icvRefSettled (x : Fin 2)
  /-- ICV_REF_WRITE (R443). -/
  | icvRefWrite (x : Fin 2) (v : Fin 4)
  /-- ICV_QUEUE_POP (R451). -/
  | icvQueuePop (x : Fin 2)
  /-- SWAP_PREPARE_DONE (R469). -/
  | swapPrepareDone
  /-- MBX_COMMAND_COMPLETE (R476). -/
  | mbxCommandComplete (src : CmdSrc) (report : Option Nat)
  /-- GET_INFO (R489). -/
  | getInfo (src : CmdSrc) (args : List Nat)
  /-- COMMISSION (R489). -/
  | commission (src : CmdSrc) (args : List Nat)
  /-- TIME_RESEAT (R81). -/
  | timeReseat (src : CmdSrc) (args : List Nat)
  /-- IMAGE_LOAD (R465). -/
  | imageLoad (src : CmdSrc) (args : List Nat) (bytes : Bytes) (img : Image) (err : Bool)
  /-- IMAGE_SWAP (R467). -/
  | imageSwap (src : CmdSrc) (args : List Nat)
  /-- SWAP_CANCEL (R469). -/
  | swapCancel (src : CmdSrc) (args : List Nat)
  /-- IMAGE_INFO (R490). -/
  | imageInfo (src : CmdSrc) (args : List Nat)
  /-- IMAGE_ERASE (R490). -/
  | imageErase (src : CmdSrc) (args : List Nat)
  /-- ROOT_INSTALL (R378). -/
  | rootInstall (src : CmdSrc) (args : List Nat)
  /-- KEY_LOAD (R379). -/
  | keyLoad (src : CmdSrc) (args : List Nat)
  /-- KEY_INVALIDATE (R383). -/
  | keyInvalidate (src : CmdSrc) (args : List Nat)
  /-- KEY_PURGE (R380). -/
  | keyPurge (src : CmdSrc) (args : List Nat)
  /-- KEY_SELECT (R390). -/
  | keySelect (src : CmdSrc) (args : List Nat)
  /-- HMAC (R491). -/
  | hmac (src : CmdSrc) (args : List Nat) (data : Bytes) (err : Bool)
  /-- GMAC (R491). -/
  | gmac (src : CmdSrc) (args : List Nat) (data : Bytes) (err : Bool)
  /-- CHEST_COPY (R493). -/
  | chestCopy (src : CmdSrc) (args : List Nat) (err : Bool)
  /-- CHEST_LID_COPY (R493). -/
  | chestLidCopy (src : CmdSrc) (args : List Nat) (err : Bool)
  /-- SNARE_TRIGGER (R494). -/
  | snareTrigger (src : CmdSrc) (args : List Nat)
  /-- SNARE_EXPORT (R354). -/
  | snareExport (src : CmdSrc) (args : List Nat) (err : Bool)
  /-- SNARE_NAND_LIST (R494). -/
  | snareNandList (src : CmdSrc) (args : List Nat) (err : Bool)
  /-- SNARE_NAND_READ (R494). -/
  | snareNandRead (src : CmdSrc) (args : List Nat) (err : Bool)
  /-- SNARE_NAND_DELETE (R494). -/
  | snareNandDelete (src : CmdSrc) (args : List Nat)
  /-- ACC_ZERO (R496). -/
  | accZero (src : CmdSrc) (args : List Nat)
  /-- PAIR_HANDOVER (R414). -/
  | pairHandover (src : CmdSrc) (args : List Nat)
  /-- PAIR_FORCE (R415). -/
  | pairForce (src : CmdSrc) (args : List Nat)
  /-- PAIR_JOIN (R497). -/
  | pairJoin (src : CmdSrc) (args : List Nat)
  /-- BENCH_SESSION_OPEN (R516). -/
  | benchSessionOpen
  /-- BENCH_IDLE_TIMEOUT (R395). -/
  | benchIdleTimeout
  /-- BENCH_LOCKOUT_EXPIRY (R395). -/
  | benchLockoutExpiry
  /-- HELP (R517). -/
  | help
  /-- WHO (R517). -/
  | who
  /-- LOGIN (R394). -/
  | login (service : Bool)
  /-- ANSWER (R394). -/
  | answer (ans : Nat)
  /-- LOGOUT (R517). -/
  | logout
  /-- RD (R517). -/
  | rd (off n : Nat)
  /-- WR (R517). -/
  | wr (off val : Nat)
  /-- CTR_SNAP (R517). -/
  | ctrSnap (first n : Nat)
  /-- CTR_PORT (R517). -/
  | ctrPort (j : Fin 512)
  /-- TRACE (R517). -/
  | trace (n : Nat)
  /-- CHEST (R517). -/
  | chest (seq n : Nat)
  /-- STATUS (R517). -/
  | status
  /-- PMC_PORT_SEL (R506). -/
  | pmcPortSel (j : Fin 512)
  /-- PMC_TRACE_SEL (R512). -/
  | pmcTraceSel (seq : Nat) (ue : Bool)
  /-- TRACE_ENTRY_WRITE (R510). -/
  | traceEntryWrite
  /-- TST_EN (R513). -/
  | tstEn (on : Bool)
  /-- PORT_DELAY (R514). -/
  | portDelay (on : Bool)
  /-- EGR_BP (R514). -/
  | egrBp (on : Bool)
  /-- LANE_STALL (R514). -/
  | laneStall (on : Bool)
  /-- CDC_STRETCH (R514). -/
  | cdcStretch (on : Bool)
  /-- CLOSE_SHIFT (R514). -/
  | closeShift (on : Bool)
  /-- ECC_INJECT (R514). -/
  | eccInject (on : Bool)
  /-- TIME_SKEW (R514). -/
  | timeSkew (on : Bool)
  /-- STALL_ARM (R514). -/
  | stallArm
  /-- LANE_STALL_START (R514). -/
  | laneStallStart
  /-- LANE_STALL_END (R514). -/
  | laneStallEnd
  /-- EGR_BP_PHASE (R514). -/
  | egrBpPhase
  /-- SM_EOI (R541). -/
  | smEoi (twin : Bool)
  /-- WINDOW_INTERRUPT (R541). -/
  | windowInterrupt
  /-- HOLDOVER_QUAL_LOST (R79). -/
  | holdoverQualLost
  /-- ANNOUNCE_RECEIPT_TIMEOUT (R70). -/
  | announceReceiptTimeout (k : Fin 8)
  /-- ARP_REPLY (R274). -/
  | arpReply (addr mac : Nat)
deriving DecidableEq, Repr

end Sys2Proof
end

