-- ==== Sys2Proof/Decode.lean ====
section
/-!
DEFINITION. Decoding. The opcode table gives no command of this block any bits: commands come from outside as what they are, and no word
spells one.
-/

namespace Sys2Proof

/-- The command that a word of the opcode table spells: none does. -/
def decodeTableWord (_nbits _w : Nat) : Option Instr := none

end Sys2Proof
end

