-- ==== Sys2Proof/Config.lean ====
section
/-!
DEFINITION. What each module, or the world outside the spec, fixes: fused values, the cryptographic functions of the
standards the spec names without defining, and the free values. All are opaque: no proof can see a value.
-/

namespace Sys2Proof.Config

/-- A free value: where the spec gives no value, the step uses `free tag n` with `n` the counter of State (log entry 3). -/
opaque free : Nat → Nat → Nat

/-- Which of the two variants of R1 the part is, by parity, and its SYS_ID_STS.VARIANT (R3): 1 = EMV-8192-A, 2 = EMV-8192-B. -/
opaque variantFuse : Nat
def variant : Nat := variantFuse % 2 + 1
/-- The fused serial number (R489), and the fused block of 128 MAC addresses, by its number (R98). -/
opaque serial : Nat
opaque macBlock : Nat
/-- The base of the module's MAC addresses, a multiple of 128 (R98). -/
def macBase : Nat := macBlock % 2 ^ 41 * 128
/-- The fused lowest SVN (R397) and the bytes of the fused device public key and image key (R399), as 32-bit words. -/
opaque svnMin : Nat
opaque devPub : Nat → Nat
opaque imgKey : Nat → Nat
/-- PAIR_STS.MEMBER (R423). -/
opaque pairMember : Nat

/-- The receive latency of a port's internal PCS at the speed of its mode, in ns (R87). -/
opaque pcsLatency : Nat → Nat
/-- The LAN field for a valid PRP trailer whose LAN identifier is neither A nor B, which R101 gives no code (log entry 23). -/
opaque prpLan : Nat → Nat
/-- The servo's proportional and integral answers to an offset, in units of 10^-12, for a time constant in s (R75; log entry 3). -/
opaque servoP : Nat → Int → Int
opaque servoI : Nat → Int → Int

/-- Coefficients of SIG_FIR where the item gives none: taps, tap (R219 names none; log entry 23). -/
opaque sigFir : Nat → Nat → Nat
/-- Coefficients of the output filter for D (R318) and of the tracker's 48-tap filter for DEC (R237): the spec bounds their
responses and does not give them (log entry 23). -/
opaque outFir : Nat → Nat → Nat
opaque trkFir : Nat → Nat → Nat
/-- Values the spec does not state (log entry 23): interpolation beyond a table's ends (input, table end), the least-squares
solution of a singular system (element), and ln of 0. -/
opaque interpEnd : Nat → Nat → Nat
opaque lsqSingular : Nat → Nat
opaque lnZero : Nat
/-- The eigenvalues and eigenvectors of a p × p matrix by FP32 QR, 30 iterations at most (R239): `none` where it does not
converge. Each: re, im of the eigenvalue, then the vector's elements. The arithmetic of the iteration is not given. -/
opaque eig : List (List Nat) → Option (List (Nat × Nat × List (Nat × Nat)))

/-- DEF's share where no node has an outflow (R246 divides by 0; log entry 23). -/
opaque shareNoFlow : Nat

/-- Energy of an interval whose power is not finite, in units of 2^-32 µWh, and its estimate (log entry 23). -/
opaque accNonFinite : Nat → Nat

/-- The next state of the 31-bit tagging LFSR (R509 gives no polynomial; log entry 23). -/
opaque lfsrNext : Nat → Nat
/-- Fields of outgoing headers the spec does not give: IPv4 TTL or IPv6 hop limit, and IPv4 identification by a count (log entry 25). -/
opaque ipTtl : Nat
opaque ipId : Nat → Nat
/-- An integer element packed under a unit of 0, and the CFG-3 fields the image does not carry (log entry 29). -/
opaque packUnitZero : Nat → Nat
opaque cfg3Field : Nat → Nat → Nat
/-- Fields of an Announce that the spec does not give: timeSource (0) and the C37.238 grandmasterID (1) (log entry 23). -/
opaque ptpField : Nat → Nat
/-- The functions of the standards the spec names (log entry 30): HMAC-SHA256 and SHA-256 as 256-bit numbers of a message's bytes,
AES-GMAC as a 128-bit number, RFC 5649 unwrap (`none` where its integrity check fails), HKDF-SHA256, the x coordinate of the
device key's ECDH shared point, and ECDSA P-256 under the fused image key. Keys are numbers; messages are lists of bytes. -/
opaque hmac : Nat → List Nat → Nat
opaque gmac : Nat → Nat → List Nat → List Nat → Nat
opaque sha256 : List Nat → Nat
opaque unwrap : Nat → List Nat → Option Nat
opaque hkdf : Nat → List Nat → List Nat → Nat
opaque ecdhX : List Nat → Nat
opaque ecdsaOk : List Nat → List Nat → Bool
/-- SRC_ERR of the reserved IEC 61850 quality code, which R143 does not list (log entry 30). -/
opaque svReserved : Nat
/-- The partner's address on each pair lane (R403), and the bytes of a block of the baseline copy, whose layout R416 leaves open (log entry
33). -/
opaque pairPeer : Nat → Nat
opaque copyBytes : CopyBlock → Bytes
/-- What R428 leaves open of the decimation chains (log entry 34): half the order of a preset's FIR stage, its taps by their distance from the
centre tap, the fraction bits a stage rounds to, and the final scale to the code in units of 2^-24; and the fixed on-module input delay in ns
(R431). -/
opaque sdHalf : Nat → Nat → Nat
opaque sdTap : Nat → Nat → Nat → Int
opaque sdFrac : Nat → Nat → Nat
opaque sdScale : Nat → Int
opaque sdInputDelay : Nat
/-- Byte quantum of the deficit round robins, less 1 (R100, R330; log entry 25). -/
opaque drrQuantum : Nat

end Sys2Proof.Config
end

