-- ==== Sys2Proof/Machine/Map.lean ====
section
/-!
DEFINITION. Sparse tables keyed by a number: a list of (key, value) pairs with keys strictly rising and no
entry equal to what an unlisted key reads as. Registers, memories and per-slot state are held in this one form.
-/

namespace Sys2Proof.Machine

/-- A sparse table. -/
abbrev SMap (α : Type) := List (Nat × α)

/-- What key `i` reads as, `d` where it is not listed. -/
def smGet {α : Type} (d : α) : SMap α → Nat → α
  | [], _ => d
  | (k, v) :: m, i => if i = k then v else smGet d m i

/-- Put `v` at key `i`, keeping the keys in order. -/
def smInsert {α : Type} : SMap α → Nat → α → SMap α
  | [], i, v => [(i, v)]
  | (k, w) :: m, i, v =>
    if i < k then (i, v) :: (k, w) :: m
    else if i = k then (i, v) :: m
    else (k, w) :: smInsert m i v

/-- Remove key `i`. -/
def smErase {α : Type} (m : SMap α) (i : Nat) : SMap α := m.filter fun e => e.1 ≠ i

/-- Write `v` at key `i`; writing what an unlisted key reads as removes the entry. -/
def smSet {α : Type} [DecidableEq α] (d : α) (m : SMap α) (i : Nat) (v : α) : SMap α :=
  if v = d then smErase m i else smInsert m i v

/-- The value of a key that may be absent. -/
def smFind? {α : Type} (m : SMap α) (i : Nat) : Option α :=
  smGet none (m.map fun e => (e.1, some e.2)) i

/-- The keys rise strictly. -/
def smSorted {α : Type} : SMap α → Bool
  | [] => true
  | [_] => true
  | a :: b :: m => a.1 < b.1 && smSorted (b :: m)

/-- The canonical form: keys strictly rising, no entry equal to the default. -/
def smWf {α : Type} [DecidableEq α] (d : α) (m : SMap α) : Bool :=
  smSorted m && m.all fun e => e.2 ≠ d

/-- Replace element `i` of a list, leaving it alone where there is none. -/
def listSet {α : Type} (l : List α) (i : Nat) (v : α) : List α := l.set i v

end Sys2Proof.Machine
end

