-- ==== Sys2Proof/Machine/Field.lean ====
section
/-!
DEFINITION. Register fields. The register state is ONE sparse table of fields, keyed by offset and low bit, so that
each field has one home; a whole-register access assembles or splits its fields (R6, R7, R535).
-/

namespace Sys2Proof.Machine

/-- A field of a register: the register's offset, the field's low bit, its width and its reset value. -/
structure Fld where
  off : Nat
  lo : Nat
  w : Nat
  rst : Nat
deriving DecidableEq, Repr

/-- The key of a field in the register table. -/
abbrev Fld.key (f : Fld) : Nat := f.off * 32 + f.lo

/-- The access types of R6, and the two of R341 that depend on the ring number. -/
inductive Access where
  | ro | rw | w1c | wo | rc
  | prodAcc   -- RO on rings 0 to 127, RW on rings 128 to 191
  | consAcc   -- RW on rings 0 to 127, RO on rings 128 to 191
deriving DecidableEq, Repr

/-- One row of a register table: low bit, width, reset value, access type, and whether the image sets it. -/
structure FieldDesc where
  lo : Nat
  w : Nat
  rst : Nat
  acc : Access
  image : Bool
deriving DecidableEq, Repr

/-- One register of a block: its name, its first offset, its index dimensions (stride, count) and its fields. -/
structure RegDesc where
  name : String
  base : Nat
  dims : List (Nat × Nat)
  fields : List FieldDesc
deriving DecidableEq, Repr

end Sys2Proof.Machine
end

