-- ==== Sys2Proof/Machine/Regs.lean ====
section
/-!
DEFINITION. The register map of the spec (its chapters' field tables, R534–R540): one offset per register, one
`Fld` per field, and per block the list of its registers with the access type of each field.
A field whose reset the spec gives as fused, restored from MRAM or NAND, fixed by the image or fixed per start
has 0 here: what overlays it is in Machine/Ops.lean (assumption 4).
-/

namespace Sys2Proof.Machine

/-- Offset of SYS_ID_STS (R3). -/
abbrev rSYS_ID_STS : Nat := 0x0
abbrev fSYS_ID_STS_PART : Fld := ⟨rSYS_ID_STS, 16, 16, 33170⟩
abbrev fSYS_ID_STS_VARIANT : Fld := ⟨rSYS_ID_STS, 12, 4, Config.variant⟩
abbrev fSYS_ID_STS_SILREV : Fld := ⟨rSYS_ID_STS, 8, 4, 3⟩
abbrev fSYS_ID_STS_ROMLVL : Fld := ⟨rSYS_ID_STS, 0, 8, 5⟩
/-- Offset of SYS_PWR_STS (R58). -/
abbrev rSYS_PWR_STS : Nat := 0x10
abbrev fSYS_PWR_STS_LAST_COMMIT_OK : Fld := ⟨rSYS_PWR_STS, 20, 1, 0⟩
abbrev fSYS_PWR_STS_LAST_OFF : Fld := ⟨rSYS_PWR_STS, 16, 4, 0⟩
abbrev fSYS_PWR_STS_PAUSES : Fld := ⟨rSYS_PWR_STS, 12, 4, 0⟩
abbrev fSYS_PWR_STS_RAMP_DIV : Fld := ⟨rSYS_PWR_STS, 8, 2, 0⟩
abbrev fSYS_PWR_STS_STORE_WEAK : Fld := ⟨rSYS_PWR_STS, 7, 1, 0⟩
abbrev fSYS_PWR_STS_HOLDUP_OK : Fld := ⟨rSYS_PWR_STS, 6, 1, 0⟩
abbrev fSYS_PWR_STS_VIN_LOW : Fld := ⟨rSYS_PWR_STS, 5, 1, 0⟩
abbrev fSYS_PWR_STS_SUPPLY_FOLLOW : Fld := ⟨rSYS_PWR_STS, 4, 1, 0⟩
abbrev fSYS_PWR_STS_START_PAUSED : Fld := ⟨rSYS_PWR_STS, 3, 1, 0⟩
abbrev fSYS_PWR_STS_START_STAGE : Fld := ⟨rSYS_PWR_STS, 0, 3, 0⟩
/-- Offset of SYS_PWR_CFG (R59). -/
abbrev rSYS_PWR_CFG : Nat := 0x14
abbrev fSYS_PWR_CFG_PF_MV : Fld := ⟨rSYS_PWR_CFG, 0, 16, 8500⟩
/-- Offset of SYS_VIN_STS (R60). -/
abbrev rSYS_VIN_STS : Nat := 0x18
abbrev fSYS_VIN_STS_IIN_MA : Fld := ⟨rSYS_VIN_STS, 16, 16, 0⟩
abbrev fSYS_VIN_STS_VIN_MV : Fld := ⟨rSYS_VIN_STS, 0, 16, 0⟩
/-- Offset of SYS_TEMP_STS (R60). -/
abbrev rSYS_TEMP_STS : Nat := 0x1C
abbrev fSYS_TEMP_STS_DIE : Fld := ⟨rSYS_TEMP_STS, 16, 16, 0⟩
abbrev fSYS_TEMP_STS_LID : Fld := ⟨rSYS_TEMP_STS, 0, 16, 0⟩
/-- Registers of block 0x0, part 0 (R536). -/
def regsSys0 : List RegDesc :=
  [⟨"SYS_ID_STS", 0x0, [], [⟨16, 16, 33170, .ro, false⟩, ⟨12, 4, 0, .ro, false⟩, ⟨8, 4, 3, .ro, false⟩, ⟨0, 8, 5, .ro, false⟩]⟩,
   ⟨"SYS_PWR_STS", 0x10, [], [⟨20, 1, 0, .ro, false⟩, ⟨16, 4, 0, .ro, false⟩, ⟨12, 4, 0, .ro, false⟩, ⟨8, 2, 0, .ro, false⟩, ⟨7, 1, 0, .w1c, false⟩, ⟨6, 1, 0, .ro, false⟩, ⟨5, 1, 0, .ro, false⟩, ⟨4, 1, 0, .w1c, false⟩, ⟨3, 1, 0, .ro, false⟩, ⟨0, 3, 0, .ro, false⟩]⟩,
   ⟨"SYS_PWR_CFG", 0x14, [], [⟨0, 16, 8500, .rw, false⟩]⟩,
   ⟨"SYS_VIN_STS", 0x18, [], [⟨16, 16, 0, .ro, false⟩, ⟨0, 16, 0, .ro, false⟩]⟩,
   ⟨"SYS_TEMP_STS", 0x1C, [], [⟨16, 16, 0, .ro, false⟩, ⟨0, 16, 0, .ro, false⟩]⟩]
/-- The registers of block 0x0. -/
def regsSys : List RegDesc := regsSys0

/-- Offset of CLV_STS (R92). -/
abbrev rCLV_STS : Nat := 0x10000
abbrev fCLV_STS_LEAP_PEND : Fld := ⟨rCLV_STS, 17, 1, 0⟩
abbrev fCLV_STS_REFUSING : Fld := ⟨rCLV_STS, 16, 1, 0⟩
abbrev fCLV_STS_QUAL_LOST : Fld := ⟨rCLV_STS, 15, 1, 1⟩
abbrev fCLV_STS_STAT_TQ : Fld := ⟨rCLV_STS, 12, 3, 7⟩
abbrev fCLV_STS_TQ : Fld := ⟨rCLV_STS, 8, 4, 15⟩
abbrev fCLV_STS_TICKING : Fld := ⟨rCLV_STS, 7, 1, 0⟩
abbrev fCLV_STS_STEPPED : Fld := ⟨rCLV_STS, 6, 1, 0⟩
abbrev fCLV_STS_SRC : Fld := ⟨rCLV_STS, 4, 2, 0⟩
abbrev fCLV_STS_STATE : Fld := ⟨rCLV_STS, 0, 3, 0⟩
/-- Offset of CLV_FLT (R92). -/
abbrev rCLV_FLT : Nat := 0x10004
abbrev fCLV_FLT_FLAGS : Fld := ⟨rCLV_FLT, 0, 9, 0⟩
/-- Offset of CLV_JUMP_CFG (R92). -/
abbrev rCLV_JUMP_CFG : Nat := 0x10008
abbrev fCLV_JUMP_CFG_JUMP_NS : Fld := ⟨rCLV_JUMP_CFG, 0, 32, 1000⟩
/-- Offset of CLV_TIMER_CFG (R92). -/
abbrev rCLV_TIMER_CFG : Nat := 0x1000C
abbrev fCLV_TIMER_CFG_WAIT_S : Fld := ⟨rCLV_TIMER_CFG, 24, 8, 10⟩
abbrev fCLV_TIMER_CFG_STUCK_S : Fld := ⟨rCLV_TIMER_CFG, 8, 16, 60⟩
abbrev fCLV_TIMER_CFG_LOSS_S : Fld := ⟨rCLV_TIMER_CFG, 0, 8, 3⟩
/-- Offset of CLV_SRC_CFG (R92). -/
abbrev rCLV_SRC_CFG : Nat := 0x10010
abbrev fCLV_SRC_CFG_PRI2 : Fld := ⟨rCLV_SRC_CFG, 4, 2, 2⟩
abbrev fCLV_SRC_CFG_PRI1 : Fld := ⟨rCLV_SRC_CFG, 2, 2, 3⟩
abbrev fCLV_SRC_CFG_PRI0 : Fld := ⟨rCLV_SRC_CFG, 0, 2, 1⟩
/-- Offset of CLV_UTC_CFG (R92). -/
abbrev rCLV_UTC_CFG : Nat := 0x10014
abbrev fCLV_UTC_CFG_SRC_OWNS : Fld := ⟨rCLV_UTC_CFG, 18, 1, 0⟩
abbrev fCLV_UTC_CFG_LEAP59 : Fld := ⟨rCLV_UTC_CFG, 17, 1, 0⟩
abbrev fCLV_UTC_CFG_LEAP61 : Fld := ⟨rCLV_UTC_CFG, 16, 1, 0⟩
abbrev fCLV_UTC_CFG_TAI_UTC : Fld := ⟨rCLV_UTC_CFG, 0, 16, 0⟩
/-- Offset of CLV_QUAL_CFG (R92). -/
abbrev rCLV_QUAL_CFG : Nat := 0x10018
abbrev fCLV_QUAL_CFG_LOCK_NS : Fld := ⟨rCLV_QUAL_CFG, 24, 8, 10⟩
abbrev fCLV_QUAL_CFG_DRIFT_PPB : Fld := ⟨rCLV_QUAL_CFG, 16, 8, 2⟩
abbrev fCLV_QUAL_CFG_QUAL_LIMIT_NS : Fld := ⟨rCLV_QUAL_CFG, 0, 16, 1000⟩
/-- Offset of CLV_NOW_LO (R92). -/
abbrev rCLV_NOW_LO : Nat := 0x10020
abbrev fCLV_NOW_LO_NOW_LO : Fld := ⟨rCLV_NOW_LO, 0, 32, 0⟩
/-- Offset of CLV_NOW_HI (R92). -/
abbrev rCLV_NOW_HI : Nat := 0x10024
abbrev fCLV_NOW_HI_NOW_HI : Fld := ⟨rCLV_NOW_HI, 0, 32, 0⟩
/-- Offset of CLV_NS32_STS (R92). -/
abbrev rCLV_NS32_STS : Nat := 0x10028
abbrev fCLV_NS32_STS_NS32 : Fld := ⟨rCLV_NS32_STS, 0, 32, 0⟩
/-- Offset of CLV_RESEAT_STS (R92). -/
abbrev rCLV_RESEAT_STS : Nat := 0x1002C
abbrev fCLV_RESEAT_STS_GEN : Fld := ⟨rCLV_RESEAT_STS, 8, 8, 0⟩
abbrev fCLV_RESEAT_STS_GEN_LATCHED : Fld := ⟨rCLV_RESEAT_STS, 0, 8, 0⟩
/-- Offset of CLV_OFS_STS_k (R92). -/
abbrev rCLV_OFS_STS (i : Nat) : Nat := 0x10030 + 4 * i
abbrev fCLV_OFS_STS_OFS (i : Nat) : Fld := ⟨(rCLV_OFS_STS i), 0, 32, 2147483648⟩
/-- Offset of CLV_RATE_STS (R92). -/
abbrev rCLV_RATE_STS : Nat := 0x1003C
abbrev fCLV_RATE_STS_RATE : Fld := ⟨rCLV_RATE_STS, 0, 32, 0⟩
/-- Offset of CLV_ERR_STS (R92). -/
abbrev rCLV_ERR_STS : Nat := 0x10040
abbrev fCLV_ERR_STS_ERR_NS : Fld := ⟨rCLV_ERR_STS, 0, 32, 4294967295⟩
/-- Offset of CLV_STEP_STS (R92). -/
abbrev rCLV_STEP_STS : Nat := 0x10044
abbrev fCLV_STEP_STS_STEP_NS : Fld := ⟨rCLV_STEP_STS, 0, 32, 0⟩
/-- Offset of CLV_PTP_CFG (R93). -/
abbrev rCLV_PTP_CFG : Nat := 0x10050
abbrev fCLV_PTP_CFG_PRIORITY2 : Fld := ⟨rCLV_PTP_CFG, 24, 8, 128⟩
abbrev fCLV_PTP_CFG_PRIORITY1 : Fld := ⟨rCLV_PTP_CFG, 16, 8, 128⟩
abbrev fCLV_PTP_CFG_TWO_STEP_TX : Fld := ⟨rCLV_PTP_CFG, 10, 1, 0⟩
abbrev fCLV_PTP_CFG_PROFILE : Fld := ⟨rCLV_PTP_CFG, 8, 2, 0⟩
abbrev fCLV_PTP_CFG_DOMAIN : Fld := ⟨rCLV_PTP_CFG, 0, 8, 254⟩
/-- Offset of CLV_IRIG_CFG (R93). -/
abbrev rCLV_IRIG_CFG : Nat := 0x10054
abbrev fCLV_IRIG_CFG_DELAY_NS : Fld := ⟨rCLV_IRIG_CFG, 16, 16, 0⟩
abbrev fCLV_IRIG_CFG_GLITCH : Fld := ⟨rCLV_IRIG_CFG, 5, 10, 10⟩
abbrev fCLV_IRIG_CFG_EN : Fld := ⟨rCLV_IRIG_CFG, 4, 1, 0⟩
abbrev fCLV_IRIG_CFG_EXT1344 : Fld := ⟨rCLV_IRIG_CFG, 3, 1, 1⟩
abbrev fCLV_IRIG_CFG_CODE : Fld := ⟨rCLV_IRIG_CFG, 0, 3, 2⟩
/-- Offset of CLV_TOD_CFG (R93). -/
abbrev rCLV_TOD_CFG : Nat := 0x10058
abbrev fCLV_TOD_CFG_PPS_DELAY : Fld := ⟨rCLV_TOD_CFG, 16, 16, 0⟩
abbrev fCLV_TOD_CFG_GLITCH : Fld := ⟨rCLV_TOD_CFG, 6, 10, 10⟩
abbrev fCLV_TOD_CFG_EN : Fld := ⟨rCLV_TOD_CFG, 5, 1, 0⟩
abbrev fCLV_TOD_CFG_NEED_RMC : Fld := ⟨rCLV_TOD_CFG, 4, 1, 1⟩
abbrev fCLV_TOD_CFG_REF : Fld := ⟨rCLV_TOD_CFG, 3, 1, 0⟩
abbrev fCLV_TOD_CFG_BAUD : Fld := ⟨rCLV_TOD_CFG, 0, 3, 1⟩
/-- Offset of CLV_PTP_PORT_CFG_k (R93). -/
abbrev rCLV_PTP_PORT_CFG (i : Nat) : Nat := 0x10060 + 4 * i
abbrev fCLV_PTP_PORT_CFG_ASYM (i : Nat) : Fld := ⟨(rCLV_PTP_PORT_CFG i), 16, 16, 0⟩
abbrev fCLV_PTP_PORT_CFG_LOG_SYNC (i : Nat) : Fld := ⟨(rCLV_PTP_PORT_CFG i), 8, 8, 0⟩
abbrev fCLV_PTP_PORT_CFG_EN (i : Nat) : Fld := ⟨(rCLV_PTP_PORT_CFG i), 6, 1, 0⟩
abbrev fCLV_PTP_PORT_CFG_PORT (i : Nat) : Fld := ⟨(rCLV_PTP_PORT_CFG i), 0, 6, 0⟩
/-- Offset of CLV_TTG_CTL_k (R94). -/
abbrev rCLV_TTG_CTL (i : Nat) : Nat := 0x10100 + 32 * i
abbrev fCLV_TTG_CTL_ARM (i : Nat) : Fld := ⟨(rCLV_TTG_CTL i), 0, 1, 0⟩
/-- Offset of CLV_TTG_CFG_k (R94). -/
abbrev rCLV_TTG_CFG (i : Nat) : Nat := 0x10104 + 32 * i
abbrev fCLV_TTG_CFG_DIV (i : Nat) : Fld := ⟨(rCLV_TTG_CFG i), 16, 16, 1⟩
abbrev fCLV_TTG_CFG_OWNED (i : Nat) : Fld := ⟨(rCLV_TTG_CFG i), 8, 1, 0⟩
abbrev fCLV_TTG_CFG_PIN (i : Nat) : Fld := ⟨(rCLV_TTG_CFG i), 4, 4, 0⟩
abbrev fCLV_TTG_CFG_POL (i : Nat) : Fld := ⟨(rCLV_TTG_CFG i), 2, 1, 0⟩
abbrev fCLV_TTG_CFG_MODE (i : Nat) : Fld := ⟨(rCLV_TTG_CFG i), 0, 2, 0⟩
/-- Offset of CLV_TTG_START_SLO_k (R94). -/
abbrev rCLV_TTG_START_SLO (i : Nat) : Nat := 0x10108 + 32 * i
abbrev fCLV_TTG_START_SLO_S_LO (i : Nat) : Fld := ⟨(rCLV_TTG_START_SLO i), 0, 32, 0⟩
/-- Offset of CLV_TTG_START_SHI_k (R94). -/
abbrev rCLV_TTG_START_SHI (i : Nat) : Nat := 0x1010C + 32 * i
abbrev fCLV_TTG_START_SHI_S_HI (i : Nat) : Fld := ⟨(rCLV_TTG_START_SHI i), 0, 16, 0⟩
/-- Offset of CLV_TTG_START_NS_k (R94). -/
abbrev rCLV_TTG_START_NS (i : Nat) : Nat := 0x10110 + 32 * i
abbrev fCLV_TTG_START_NS_NS (i : Nat) : Fld := ⟨(rCLV_TTG_START_NS i), 0, 32, 0⟩
/-- Offset of CLV_TTG_PERIOD_k (R94). -/
abbrev rCLV_TTG_PERIOD (i : Nat) : Nat := 0x10114 + 32 * i
abbrev fCLV_TTG_PERIOD_PERIOD (i : Nat) : Fld := ⟨(rCLV_TTG_PERIOD i), 0, 32, 1000000000⟩
/-- Offset of CLV_TTG_WIDTH_k (R94). -/
abbrev rCLV_TTG_WIDTH (i : Nat) : Nat := 0x10118 + 32 * i
abbrev fCLV_TTG_WIDTH_WIDTH (i : Nat) : Fld := ⟨(rCLV_TTG_WIDTH i), 0, 32, 1000000⟩
/-- Offset of CLV_TTG_STS_k (R94). -/
abbrev rCLV_TTG_STS (i : Nat) : Nat := 0x1011C + 32 * i
abbrev fCLV_TTG_STS_PULSES (i : Nat) : Fld := ⟨(rCLV_TTG_STS i), 16, 16, 0⟩
abbrev fCLV_TTG_STS_NOT_OWNER (i : Nat) : Fld := ⟨(rCLV_TTG_STS i), 3, 1, 0⟩
abbrev fCLV_TTG_STS_CFG_ERR (i : Nat) : Fld := ⟨(rCLV_TTG_STS i), 2, 1, 0⟩
abbrev fCLV_TTG_STS_LATE (i : Nat) : Fld := ⟨(rCLV_TTG_STS i), 1, 1, 0⟩
abbrev fCLV_TTG_STS_ARMED (i : Nat) : Fld := ⟨(rCLV_TTG_STS i), 0, 1, 0⟩
/-- Offset of CLV_CAP_CFG_k (R95). -/
abbrev rCLV_CAP_CFG (i : Nat) : Nat := 0x10200 + 16 * i
abbrev fCLV_CAP_CFG_GLITCH (i : Nat) : Fld := ⟨(rCLV_CAP_CFG i), 16, 10, 10⟩
abbrev fCLV_CAP_CFG_OWNED (i : Nat) : Fld := ⟨(rCLV_CAP_CFG i), 8, 1, 0⟩
abbrev fCLV_CAP_CFG_PIN (i : Nat) : Fld := ⟨(rCLV_CAP_CFG i), 4, 4, 0⟩
abbrev fCLV_CAP_CFG_EDGE (i : Nat) : Fld := ⟨(rCLV_CAP_CFG i), 0, 2, 0⟩
/-- Offset of CLV_CAP_STS_k (R95). -/
abbrev rCLV_CAP_STS (i : Nat) : Nat := 0x10204 + 16 * i
abbrev fCLV_CAP_STS_DROPS (i : Nat) : Fld := ⟨(rCLV_CAP_STS i), 16, 16, 0⟩
abbrev fCLV_CAP_STS_OVF (i : Nat) : Fld := ⟨(rCLV_CAP_STS i), 15, 1, 0⟩
abbrev fCLV_CAP_STS_GEN (i : Nat) : Fld := ⟨(rCLV_CAP_STS i), 4, 8, 0⟩
abbrev fCLV_CAP_STS_RISE (i : Nat) : Fld := ⟨(rCLV_CAP_STS i), 3, 1, 0⟩
abbrev fCLV_CAP_STS_LEVEL (i : Nat) : Fld := ⟨(rCLV_CAP_STS i), 0, 3, 0⟩
/-- Offset of CLV_CAP_LO_k (R95). -/
abbrev rCLV_CAP_LO (i : Nat) : Nat := 0x10208 + 16 * i
abbrev fCLV_CAP_LO_LO (i : Nat) : Fld := ⟨(rCLV_CAP_LO i), 0, 32, 0⟩
/-- Offset of CLV_CAP_HI_k (R95). -/
abbrev rCLV_CAP_HI (i : Nat) : Nat := 0x1020C + 16 * i
abbrev fCLV_CAP_HI_HI (i : Nat) : Fld := ⟨(rCLV_CAP_HI i), 0, 32, 0⟩
/-- Registers of block 0x1, part 0 (R536). -/
def regsClv0 : List RegDesc :=
  [⟨"CLV_STS", 0x10000, [], [⟨17, 1, 0, .ro, false⟩, ⟨16, 1, 0, .ro, false⟩, ⟨15, 1, 1, .ro, false⟩, ⟨12, 3, 7, .ro, false⟩, ⟨8, 4, 15, .ro, false⟩, ⟨7, 1, 0, .ro, false⟩, ⟨6, 1, 0, .ro, false⟩, ⟨4, 2, 0, .ro, false⟩, ⟨0, 3, 0, .ro, false⟩]⟩,
   ⟨"CLV_FLT", 0x10004, [], [⟨0, 9, 0, .w1c, false⟩]⟩,
   ⟨"CLV_JUMP_CFG", 0x10008, [], [⟨0, 32, 1000, .rw, false⟩]⟩,
   ⟨"CLV_TIMER_CFG", 0x1000C, [], [⟨24, 8, 10, .rw, false⟩, ⟨8, 16, 60, .rw, false⟩, ⟨0, 8, 3, .rw, false⟩]⟩,
   ⟨"CLV_SRC_CFG", 0x10010, [], [⟨4, 2, 2, .rw, false⟩, ⟨2, 2, 3, .rw, false⟩, ⟨0, 2, 1, .rw, false⟩]⟩,
   ⟨"CLV_UTC_CFG", 0x10014, [], [⟨18, 1, 0, .ro, false⟩, ⟨17, 1, 0, .ro, false⟩, ⟨16, 1, 0, .ro, false⟩, ⟨0, 16, 0, .rw, false⟩]⟩,
   ⟨"CLV_QUAL_CFG", 0x10018, [], [⟨24, 8, 10, .rw, false⟩, ⟨16, 8, 2, .rw, false⟩, ⟨0, 16, 1000, .rw, false⟩]⟩,
   ⟨"CLV_NOW_LO", 0x10020, [], [⟨0, 32, 0, .ro, false⟩]⟩,
   ⟨"CLV_NOW_HI", 0x10024, [], [⟨0, 32, 0, .ro, false⟩]⟩,
   ⟨"CLV_NS32_STS", 0x10028, [], [⟨0, 32, 0, .ro, false⟩]⟩,
   ⟨"CLV_RESEAT_STS", 0x1002C, [], [⟨8, 8, 0, .ro, false⟩, ⟨0, 8, 0, .ro, false⟩]⟩,
   ⟨"CLV_OFS_STS", 0x10030, [(4, 3)], [⟨0, 32, 2147483648, .ro, false⟩]⟩]
/-- Registers of block 0x1, part 1 (R536). -/
def regsClv1 : List RegDesc :=
  [⟨"CLV_RATE_STS", 0x1003C, [], [⟨0, 32, 0, .ro, false⟩]⟩,
   ⟨"CLV_ERR_STS", 0x10040, [], [⟨0, 32, 4294967295, .ro, false⟩]⟩,
   ⟨"CLV_STEP_STS", 0x10044, [], [⟨0, 32, 0, .ro, false⟩]⟩,
   ⟨"CLV_PTP_CFG", 0x10050, [], [⟨24, 8, 128, .rw, false⟩, ⟨16, 8, 128, .rw, false⟩, ⟨10, 1, 0, .rw, false⟩, ⟨8, 2, 0, .rw, false⟩, ⟨0, 8, 254, .rw, false⟩]⟩,
   ⟨"CLV_IRIG_CFG", 0x10054, [], [⟨16, 16, 0, .rw, false⟩, ⟨5, 10, 10, .rw, false⟩, ⟨4, 1, 0, .rw, false⟩, ⟨3, 1, 1, .rw, false⟩, ⟨0, 3, 2, .rw, false⟩]⟩,
   ⟨"CLV_TOD_CFG", 0x10058, [], [⟨16, 16, 0, .rw, false⟩, ⟨6, 10, 10, .rw, false⟩, ⟨5, 1, 0, .rw, false⟩, ⟨4, 1, 1, .rw, false⟩, ⟨3, 1, 0, .rw, false⟩, ⟨0, 3, 1, .rw, false⟩]⟩,
   ⟨"CLV_PTP_PORT_CFG", 0x10060, [(4, 8)], [⟨16, 16, 0, .rw, false⟩, ⟨8, 8, 0, .rw, false⟩, ⟨6, 1, 0, .ro, true⟩, ⟨0, 6, 0, .ro, true⟩]⟩,
   ⟨"CLV_TTG_CTL", 0x10100, [(32, 8)], [⟨0, 1, 0, .rw, false⟩]⟩,
   ⟨"CLV_TTG_CFG", 0x10104, [(32, 8)], [⟨16, 16, 1, .rw, false⟩, ⟨8, 1, 0, .ro, true⟩, ⟨4, 4, 0, .ro, true⟩, ⟨2, 1, 0, .rw, false⟩, ⟨0, 2, 0, .rw, false⟩]⟩,
   ⟨"CLV_TTG_START_SLO", 0x10108, [(32, 8)], [⟨0, 32, 0, .rw, false⟩]⟩,
   ⟨"CLV_TTG_START_SHI", 0x1010C, [(32, 8)], [⟨0, 16, 0, .rw, false⟩]⟩,
   ⟨"CLV_TTG_START_NS", 0x10110, [(32, 8)], [⟨0, 32, 0, .rw, false⟩]⟩]
/-- Registers of block 0x1, part 2 (R536). -/
def regsClv2 : List RegDesc :=
  [⟨"CLV_TTG_PERIOD", 0x10114, [(32, 8)], [⟨0, 32, 1000000000, .rw, false⟩]⟩,
   ⟨"CLV_TTG_WIDTH", 0x10118, [(32, 8)], [⟨0, 32, 1000000, .rw, false⟩]⟩,
   ⟨"CLV_TTG_STS", 0x1011C, [(32, 8)], [⟨16, 16, 0, .ro, false⟩, ⟨3, 1, 0, .w1c, false⟩, ⟨2, 1, 0, .w1c, false⟩, ⟨1, 1, 0, .w1c, false⟩, ⟨0, 1, 0, .ro, false⟩]⟩,
   ⟨"CLV_CAP_CFG", 0x10200, [(16, 16)], [⟨16, 10, 10, .rw, false⟩, ⟨8, 1, 0, .ro, true⟩, ⟨4, 4, 0, .ro, true⟩, ⟨0, 2, 0, .rw, false⟩]⟩,
   ⟨"CLV_CAP_STS", 0x10204, [(16, 16)], [⟨16, 16, 0, .rc, false⟩, ⟨15, 1, 0, .w1c, false⟩, ⟨4, 8, 0, .ro, false⟩, ⟨3, 1, 0, .ro, false⟩, ⟨0, 3, 0, .ro, false⟩]⟩,
   ⟨"CLV_CAP_LO", 0x10208, [(16, 16)], [⟨0, 32, 0, .ro, false⟩]⟩,
   ⟨"CLV_CAP_HI", 0x1020C, [(16, 16)], [⟨0, 32, 0, .ro, false⟩]⟩]
/-- The registers of block 0x1. -/
def regsClv : List RegDesc := regsClv0 ++ regsClv1 ++ regsClv2

/-- Offset of PORT_CTL_n (R122). -/
abbrev rPORT_CTL (i : Nat) : Nat := 0x20000 + 1024 * i
abbrev fPORT_CTL_LINK_RESTART (i : Nat) : Fld := ⟨(rPORT_CTL i), 5, 1, 0⟩
abbrev fPORT_CTL_ADD_FRAG (i : Nat) : Fld := ⟨(rPORT_CTL i), 3, 2, 0⟩
abbrev fPORT_CTL_VERIFY_DIS (i : Nat) : Fld := ⟨(rPORT_CTL i), 2, 1, 0⟩
abbrev fPORT_CTL_PMAC_EN (i : Nat) : Fld := ⟨(rPORT_CTL i), 1, 1, 1⟩
abbrev fPORT_CTL_PAUSE_OBEY (i : Nat) : Fld := ⟨(rPORT_CTL i), 0, 1, 0⟩
/-- Offset of PORT_CFG_n (R122). -/
abbrev rPORT_CFG (i : Nat) : Nat := 0x20004 + 1024 * i
abbrev fPORT_CFG_DUP (i : Nat) : Fld := ⟨(rPORT_CFG i), 4, 2, 0⟩
abbrev fPORT_CFG_MODE (i : Nat) : Fld := ⟨(rPORT_CFG i), 0, 3, 0⟩
/-- Offset of PORT_RX_CFG_n (R122). -/
abbrev rPORT_RX_CFG (i : Nat) : Nat := 0x20008 + 1024 * i
abbrev fPORT_RX_CFG_CT_BYTES (i : Nat) : Fld := ⟨(rPORT_RX_CFG i), 16, 10, 64⟩
abbrev fPORT_RX_CFG_MAX_LEN (i : Nat) : Fld := ⟨(rPORT_RX_CFG i), 0, 14, 1522⟩
/-- Offset of PORT_STS_n (R122). -/
abbrev rPORT_STS (i : Nat) : Nat := 0x2000C + 1024 * i
abbrev fPORT_STS_TX_EMPTY (i : Nat) : Fld := ⟨(rPORT_STS i), 6, 1, 1⟩
abbrev fPORT_STS_RX_EMPTY (i : Nat) : Fld := ⟨(rPORT_STS i), 5, 1, 1⟩
abbrev fPORT_STS_PMAC (i : Nat) : Fld := ⟨(rPORT_STS i), 3, 2, 0⟩
abbrev fPORT_STS_PAUSED (i : Nat) : Fld := ⟨(rPORT_STS i), 2, 1, 0⟩
abbrev fPORT_STS_AN_DONE (i : Nat) : Fld := ⟨(rPORT_STS i), 1, 1, 0⟩
abbrev fPORT_STS_LINK (i : Nat) : Fld := ⟨(rPORT_STS i), 0, 1, 0⟩
/-- Offset of PORT_FLT_n (R122). -/
abbrev rPORT_FLT (i : Nat) : Nat := 0x20010 + 1024 * i
abbrev fPORT_FLT_FLAGS (i : Nat) : Fld := ⟨(rPORT_FLT i), 0, 9, 0⟩
/-- Offset of PORT_DLY_CFG_n (R122). -/
abbrev rPORT_DLY_CFG (i : Nat) : Nat := 0x20014 + 1024 * i
abbrev fPORT_DLY_CFG_TX_DLY (i : Nat) : Fld := ⟨(rPORT_DLY_CFG i), 16, 16, 0⟩
abbrev fPORT_DLY_CFG_RX_DLY (i : Nat) : Fld := ⟨(rPORT_DLY_CFG i), 0, 16, 0⟩
/-- Offset of PORT_MAC_LO_n (R122). -/
abbrev rPORT_MAC_LO (i : Nat) : Nat := 0x20018 + 1024 * i
abbrev fPORT_MAC_LO_MAC_LO (i : Nat) : Fld := ⟨(rPORT_MAC_LO i), 0, 32, (Config.macBase + i) % 2 ^ 32⟩
/-- Offset of PORT_MAC_HI_n (R122). -/
abbrev rPORT_MAC_HI (i : Nat) : Nat := 0x2001C + 1024 * i
abbrev fPORT_MAC_HI_MAC_HI (i : Nat) : Fld := ⟨(rPORT_MAC_HI i), 0, 16, (Config.macBase + i) / 2 ^ 32 % 2 ^ 16⟩
/-- Offset of PORT_RXPTR_STS_n (R122). -/
abbrev rPORT_RXPTR_STS (i : Nat) : Nat := 0x20020 + 1024 * i
abbrev fPORT_RXPTR_STS_WR (i : Nat) : Fld := ⟨(rPORT_RXPTR_STS i), 16, 14, 0⟩
abbrev fPORT_RXPTR_STS_REL (i : Nat) : Fld := ⟨(rPORT_RXPTR_STS i), 0, 14, 0⟩
/-- Offset of PORT_TXPTR_STS_n (R122). -/
abbrev rPORT_TXPTR_STS (i : Nat) : Nat := 0x20024 + 1024 * i
abbrev fPORT_TXPTR_STS_WR (i : Nat) : Fld := ⟨(rPORT_TXPTR_STS i), 16, 13, 0⟩
abbrev fPORT_TXPTR_STS_RD (i : Nat) : Fld := ⟨(rPORT_TXPTR_STS i), 0, 13, 0⟩
/-- Offset of PORT_PEEK_n (R122). -/
abbrev rPORT_PEEK (i : Nat) : Nat := 0x20028 + 1024 * i
abbrev fPORT_PEEK_WORD (i : Nat) : Fld := ⟨(rPORT_PEEK i), 0, 32, 488512798⟩
/-- Offset of PORT_RX_CNT_n (R123). -/
abbrev rPORT_RX_CNT (i : Nat) : Nat := 0x20040 + 1024 * i
abbrev fPORT_RX_CNT_FRAMES (i : Nat) : Fld := ⟨(rPORT_RX_CNT i), 0, 32, 0⟩
/-- Offset of PORT_FCS_CNT_n (R123). -/
abbrev rPORT_FCS_CNT (i : Nat) : Nat := 0x20044 + 1024 * i
abbrev fPORT_FCS_CNT_FRAMES (i : Nat) : Fld := ⟨(rPORT_FCS_CNT i), 0, 32, 0⟩
/-- Offset of PORT_RUNT_CNT_n (R123). -/
abbrev rPORT_RUNT_CNT (i : Nat) : Nat := 0x20048 + 1024 * i
abbrev fPORT_RUNT_CNT_FRAMES (i : Nat) : Fld := ⟨(rPORT_RUNT_CNT i), 0, 32, 0⟩
/-- Offset of PORT_TRUNC_CNT_n (R123). -/
abbrev rPORT_TRUNC_CNT (i : Nat) : Nat := 0x2004C + 1024 * i
abbrev fPORT_TRUNC_CNT_FRAMES (i : Nat) : Fld := ⟨(rPORT_TRUNC_CNT i), 0, 32, 0⟩
/-- Offset of PORT_DROP_CNT_n (R123). -/
abbrev rPORT_DROP_CNT (i : Nat) : Nat := 0x20050 + 1024 * i
abbrev fPORT_DROP_CNT_FRAMES (i : Nat) : Fld := ⟨(rPORT_DROP_CNT i), 0, 32, 0⟩
/-- Offset of PORT_DUP_CNT_n (R123). -/
abbrev rPORT_DUP_CNT (i : Nat) : Nat := 0x20054 + 1024 * i
abbrev fPORT_DUP_CNT_FRAMES (i : Nat) : Fld := ⟨(rPORT_DUP_CNT i), 0, 32, 0⟩
/-- Offset of PORT_ROLLBACK_CNT_n (R123). -/
abbrev rPORT_ROLLBACK_CNT (i : Nat) : Nat := 0x20058 + 1024 * i
abbrev fPORT_ROLLBACK_CNT_FRAMES (i : Nat) : Fld := ⟨(rPORT_ROLLBACK_CNT i), 0, 32, 0⟩
/-- Offset of PORT_PAUSE_CNT_n (R123). -/
abbrev rPORT_PAUSE_CNT (i : Nat) : Nat := 0x2005C + 1024 * i
abbrev fPORT_PAUSE_CNT_FRAMES (i : Nat) : Fld := ⟨(rPORT_PAUSE_CNT i), 0, 32, 0⟩
/-- Offset of PORT_ECC_CNT_n (R123). -/
abbrev rPORT_ECC_CNT (i : Nat) : Nat := 0x20060 + 1024 * i
abbrev fPORT_ECC_CNT_UE (i : Nat) : Fld := ⟨(rPORT_ECC_CNT i), 24, 8, 0⟩
abbrev fPORT_ECC_CNT_CE (i : Nat) : Fld := ⟨(rPORT_ECC_CNT i), 0, 24, 0⟩
/-- Offset of PORT_TX_CNT_n (R123). -/
abbrev rPORT_TX_CNT (i : Nat) : Nat := 0x20064 + 1024 * i
abbrev fPORT_TX_CNT_FRAMES (i : Nat) : Fld := ⟨(rPORT_TX_CNT i), 0, 32, 0⟩
/-- Offset of PORT_FRAG_CNT_n (R123). -/
abbrev rPORT_FRAG_CNT (i : Nat) : Nat := 0x20068 + 1024 * i
abbrev fPORT_FRAG_CNT_REASM_ERR (i : Nat) : Fld := ⟨(rPORT_FRAG_CNT i), 16, 16, 0⟩
abbrev fPORT_FRAG_CNT_PREEMPT (i : Nat) : Fld := ⟨(rPORT_FRAG_CNT i), 0, 16, 0⟩
/-- Offset of PORT_RUNOUT_CNT_n (R123). -/
abbrev rPORT_RUNOUT_CNT (i : Nat) : Nat := 0x2006C + 1024 * i
abbrev fPORT_RUNOUT_CNT_FRAMES (i : Nat) : Fld := ⟨(rPORT_RUNOUT_CNT i), 0, 32, 0⟩
/-- Offset of PORT_CTRL_CNT_n (R123). -/
abbrev rPORT_CTRL_CNT (i : Nat) : Nat := 0x20070 + 1024 * i
abbrev fPORT_CTRL_CNT_FRAMES (i : Nat) : Fld := ⟨(rPORT_CTRL_CNT i), 0, 32, 0⟩
/-- Offset of PORT_DUPWAIT_CNT_n (R123). -/
abbrev rPORT_DUPWAIT_CNT (i : Nat) : Nat := 0x20074 + 1024 * i
abbrev fPORT_DUPWAIT_CNT_FRAMES (i : Nat) : Fld := ⟨(rPORT_DUPWAIT_CNT i), 0, 32, 0⟩
/-- Offset of PORT_TXLOST_CNT_n (R123). -/
abbrev rPORT_TXLOST_CNT (i : Nat) : Nat := 0x20078 + 1024 * i
abbrev fPORT_TXLOST_CNT_FRAMES (i : Nat) : Fld := ⟨(rPORT_TXLOST_CNT i), 0, 32, 0⟩
/-- Registers of block 0x2, part 0 (R536). -/
def regsPort0 : List RegDesc :=
  [⟨"PORT_CTL", 0x20000, [(1024, 64)], [⟨5, 1, 0, .wo, false⟩, ⟨3, 2, 0, .rw, false⟩, ⟨2, 1, 0, .rw, false⟩, ⟨1, 1, 1, .rw, false⟩, ⟨0, 1, 0, .rw, false⟩]⟩,
   ⟨"PORT_CFG", 0x20004, [(1024, 64)], [⟨4, 2, 0, .ro, true⟩, ⟨0, 3, 0, .ro, true⟩]⟩,
   ⟨"PORT_RX_CFG", 0x20008, [(1024, 64)], [⟨16, 10, 64, .rw, false⟩, ⟨0, 14, 1522, .rw, false⟩]⟩,
   ⟨"PORT_STS", 0x2000C, [(1024, 64)], [⟨6, 1, 1, .ro, false⟩, ⟨5, 1, 1, .ro, false⟩, ⟨3, 2, 0, .ro, false⟩, ⟨2, 1, 0, .ro, false⟩, ⟨1, 1, 0, .ro, false⟩, ⟨0, 1, 0, .ro, false⟩]⟩,
   ⟨"PORT_FLT", 0x20010, [(1024, 64)], [⟨0, 9, 0, .w1c, false⟩]⟩,
   ⟨"PORT_DLY_CFG", 0x20014, [(1024, 64)], [⟨16, 16, 0, .rw, false⟩, ⟨0, 16, 0, .rw, false⟩]⟩,
   ⟨"PORT_MAC_LO", 0x20018, [(1024, 64)], [⟨0, 32, 0, .ro, false⟩]⟩,
   ⟨"PORT_MAC_HI", 0x2001C, [(1024, 64)], [⟨0, 16, 0, .ro, false⟩]⟩,
   ⟨"PORT_RXPTR_STS", 0x20020, [(1024, 64)], [⟨16, 14, 0, .ro, false⟩, ⟨0, 14, 0, .ro, false⟩]⟩,
   ⟨"PORT_TXPTR_STS", 0x20024, [(1024, 64)], [⟨16, 13, 0, .ro, false⟩, ⟨0, 13, 0, .ro, false⟩]⟩,
   ⟨"PORT_PEEK", 0x20028, [(1024, 64)], [⟨0, 32, 488512798, .ro, false⟩]⟩,
   ⟨"PORT_RX_CNT", 0x20040, [(1024, 64)], [⟨0, 32, 0, .rc, false⟩]⟩]
/-- Registers of block 0x2, part 1 (R536). -/
def regsPort1 : List RegDesc :=
  [⟨"PORT_FCS_CNT", 0x20044, [(1024, 64)], [⟨0, 32, 0, .rc, false⟩]⟩,
   ⟨"PORT_RUNT_CNT", 0x20048, [(1024, 64)], [⟨0, 32, 0, .rc, false⟩]⟩,
   ⟨"PORT_TRUNC_CNT", 0x2004C, [(1024, 64)], [⟨0, 32, 0, .rc, false⟩]⟩,
   ⟨"PORT_DROP_CNT", 0x20050, [(1024, 64)], [⟨0, 32, 0, .rc, false⟩]⟩,
   ⟨"PORT_DUP_CNT", 0x20054, [(1024, 64)], [⟨0, 32, 0, .rc, false⟩]⟩,
   ⟨"PORT_ROLLBACK_CNT", 0x20058, [(1024, 64)], [⟨0, 32, 0, .rc, false⟩]⟩,
   ⟨"PORT_PAUSE_CNT", 0x2005C, [(1024, 64)], [⟨0, 32, 0, .rc, false⟩]⟩,
   ⟨"PORT_ECC_CNT", 0x20060, [(1024, 64)], [⟨24, 8, 0, .rc, false⟩, ⟨0, 24, 0, .rc, false⟩]⟩,
   ⟨"PORT_TX_CNT", 0x20064, [(1024, 64)], [⟨0, 32, 0, .rc, false⟩]⟩,
   ⟨"PORT_FRAG_CNT", 0x20068, [(1024, 64)], [⟨16, 16, 0, .rc, false⟩, ⟨0, 16, 0, .rc, false⟩]⟩,
   ⟨"PORT_RUNOUT_CNT", 0x2006C, [(1024, 64)], [⟨0, 32, 0, .rc, false⟩]⟩,
   ⟨"PORT_CTRL_CNT", 0x20070, [(1024, 64)], [⟨0, 32, 0, .rc, false⟩]⟩]
/-- Registers of block 0x2, part 2 (R536). -/
def regsPort2 : List RegDesc :=
  [⟨"PORT_DUPWAIT_CNT", 0x20074, [(1024, 64)], [⟨0, 32, 0, .rc, false⟩]⟩,
   ⟨"PORT_TXLOST_CNT", 0x20078, [(1024, 64)], [⟨0, 32, 0, .rc, false⟩]⟩]
/-- The registers of block 0x2. -/
def regsPort : List RegDesc := regsPort0 ++ regsPort1 ++ regsPort2

/-- Offset of ING_CFG (R149). -/
abbrev rING_CFG : Nat := 0x30000
abbrev fING_CFG_FUTURE_MS : Fld := ⟨rING_CFG, 8, 8, 5⟩
abbrev fING_CFG_CFG_REQ_EN : Fld := ⟨rING_CFG, 0, 1, 1⟩
/-- Offset of ING_STS (R149). -/
abbrev rING_STS : Nat := 0x30004
abbrev fING_STS_TCP_UP : Fld := ⟨rING_STS, 16, 9, 0⟩
abbrev fING_STS_BOUND : Fld := ⟨rING_STS, 0, 14, 0⟩
/-- Offset of ING_FLT (R149). -/
abbrev rING_FLT : Nat := 0x30008
abbrev fING_FLT_FLAGS : Fld := ⟨rING_FLT, 0, 8, 0⟩
/-- Offset of ING_RX_CNT (R149). -/
abbrev rING_RX_CNT : Nat := 0x30010
abbrev fING_RX_CNT_RECORDS : Fld := ⟨rING_RX_CNT, 0, 32, 0⟩
/-- Offset of ING_MALF_CNT (R149). -/
abbrev rING_MALF_CNT : Nat := 0x30014
abbrev fING_MALF_CNT_FRAMES : Fld := ⟨rING_MALF_CNT, 0, 32, 0⟩
/-- Offset of ING_UNK_CNT (R149). -/
abbrev rING_UNK_CNT : Nat := 0x30018
abbrev fING_UNK_CNT_FRAMES : Fld := ⟨rING_UNK_CNT, 0, 32, 0⟩
/-- Offset of ING_AUTHF_CNT (R149). -/
abbrev rING_AUTHF_CNT : Nat := 0x3001C
abbrev fING_AUTHF_CNT_FRAMES : Fld := ⟨rING_AUTHF_CNT, 0, 32, 0⟩
/-- Offset of ING_HOST_CNT (R149). -/
abbrev rING_HOST_CNT : Nat := 0x30020
abbrev fING_HOST_CNT_FRAMES : Fld := ⟨rING_HOST_CNT, 0, 32, 0⟩
/-- Offset of ING_DUPSPDU_CNT (R149). -/
abbrev rING_DUPSPDU_CNT : Nat := 0x30024
abbrev fING_DUPSPDU_CNT_FRAMES : Fld := ⟨rING_DUPSPDU_CNT, 0, 32, 0⟩
/-- Offset of ING_LAST_DROP_STS (R149). -/
abbrev rING_LAST_DROP_STS : Nat := 0x30030
abbrev fING_LAST_DROP_STS_REASON : Fld := ⟨rING_LAST_DROP_STS, 24, 8, 0⟩
abbrev fING_LAST_DROP_STS_PORT : Fld := ⟨rING_LAST_DROP_STS, 18, 6, 0⟩
abbrev fING_LAST_DROP_STS_TCP : Fld := ⟨rING_LAST_DROP_STS, 17, 1, 0⟩
abbrev fING_LAST_DROP_STS_SLOT_VALID : Fld := ⟨rING_LAST_DROP_STS, 14, 1, 0⟩
abbrev fING_LAST_DROP_STS_SLOT : Fld := ⟨rING_LAST_DROP_STS, 0, 13, 0⟩
/-- Offset of ING_LAST_DROP_TIME (R149). -/
abbrev rING_LAST_DROP_TIME : Nat := 0x30034
abbrev fING_LAST_DROP_TIME_NS32 : Fld := ⟨rING_LAST_DROP_TIME, 0, 32, 0⟩
/-- Offset of ING_SLOT_SEL (R150). -/
abbrev rING_SLOT_SEL : Nat := 0x30040
abbrev fING_SLOT_SEL_SLOT : Fld := ⟨rING_SLOT_SEL, 0, 13, 0⟩
/-- Offset of ING_SLOT_STS (R150). -/
abbrev rING_SLOT_STS : Nat := 0x30044
abbrev fING_SLOT_STS_CFG_STATE : Fld := ⟨rING_SLOT_STS, 28, 4, 0⟩
abbrev fING_SLOT_STS_TCP : Fld := ⟨rING_SLOT_STS, 25, 3, 0⟩
abbrev fING_SLOT_STS_AUTH_REQ : Fld := ⟨rING_SLOT_STS, 24, 1, 0⟩
abbrev fING_SLOT_STS_LAST_REASON : Fld := ⟨rING_SLOT_STS, 16, 8, 0⟩
abbrev fING_SLOT_STS_CFG_GEN : Fld := ⟨rING_SLOT_STS, 0, 16, 0⟩
/-- Offset of ING_SLOT_CNT (R150). -/
abbrev rING_SLOT_CNT : Nat := 0x30048
abbrev fING_SLOT_CNT_RECORDS : Fld := ⟨rING_SLOT_CNT, 0, 32, 0⟩
/-- Offset of ING_SLOT_DROP_CNT (R150). -/
abbrev rING_SLOT_DROP_CNT : Nat := 0x3004C
abbrev fING_SLOT_DROP_CNT_FRAMES : Fld := ⟨rING_SLOT_DROP_CNT, 0, 32, 0⟩
/-- Offset of ING_DUP_CFG (R124). -/
abbrev rING_DUP_CFG : Nat := 0x30F00
abbrev fING_DUP_CFG_HOLD_MS : Fld := ⟨rING_DUP_CFG, 0, 8, 32⟩
/-- Offset of ING_DUP_STS (R124). -/
abbrev rING_DUP_STS : Nat := 0x30F04
abbrev fING_DUP_STS_OCC : Fld := ⟨rING_DUP_STS, 0, 18, 0⟩
/-- Offset of ING_DUP_CNT (R124). -/
abbrev rING_DUP_CNT : Nat := 0x30F08
abbrev fING_DUP_CNT_EVICT : Fld := ⟨rING_DUP_CNT, 0, 32, 0⟩
/-- Registers of block 0x3, part 0 (R536). -/
def regsIng0 : List RegDesc :=
  [⟨"ING_CFG", 0x30000, [], [⟨8, 8, 5, .rw, false⟩, ⟨0, 1, 1, .rw, false⟩]⟩,
   ⟨"ING_STS", 0x30004, [], [⟨16, 9, 0, .ro, false⟩, ⟨0, 14, 0, .ro, true⟩]⟩,
   ⟨"ING_FLT", 0x30008, [], [⟨0, 8, 0, .w1c, false⟩]⟩,
   ⟨"ING_RX_CNT", 0x30010, [], [⟨0, 32, 0, .rc, false⟩]⟩,
   ⟨"ING_MALF_CNT", 0x30014, [], [⟨0, 32, 0, .rc, false⟩]⟩,
   ⟨"ING_UNK_CNT", 0x30018, [], [⟨0, 32, 0, .rc, false⟩]⟩,
   ⟨"ING_AUTHF_CNT", 0x3001C, [], [⟨0, 32, 0, .rc, false⟩]⟩,
   ⟨"ING_HOST_CNT", 0x30020, [], [⟨0, 32, 0, .rc, false⟩]⟩,
   ⟨"ING_DUPSPDU_CNT", 0x30024, [], [⟨0, 32, 0, .rc, false⟩]⟩,
   ⟨"ING_LAST_DROP_STS", 0x30030, [], [⟨24, 8, 0, .ro, false⟩, ⟨18, 6, 0, .ro, false⟩, ⟨17, 1, 0, .ro, false⟩, ⟨14, 1, 0, .ro, false⟩, ⟨0, 13, 0, .ro, false⟩]⟩,
   ⟨"ING_LAST_DROP_TIME", 0x30034, [], [⟨0, 32, 0, .ro, false⟩]⟩,
   ⟨"ING_SLOT_SEL", 0x30040, [], [⟨0, 13, 0, .rw, false⟩]⟩]
/-- Registers of block 0x3, part 1 (R536). -/
def regsIng1 : List RegDesc :=
  [⟨"ING_SLOT_STS", 0x30044, [], [⟨28, 4, 0, .ro, false⟩, ⟨25, 3, 0, .ro, false⟩, ⟨24, 1, 0, .ro, true⟩, ⟨16, 8, 0, .ro, false⟩, ⟨0, 16, 0, .ro, false⟩]⟩,
   ⟨"ING_SLOT_CNT", 0x30048, [], [⟨0, 32, 0, .ro, false⟩]⟩,
   ⟨"ING_SLOT_DROP_CNT", 0x3004C, [], [⟨0, 32, 0, .ro, false⟩]⟩,
   ⟨"ING_DUP_CFG", 0x30F00, [], [⟨0, 8, 32, .rw, false⟩]⟩,
   ⟨"ING_DUP_STS", 0x30F04, [], [⟨0, 18, 0, .ro, false⟩]⟩,
   ⟨"ING_DUP_CNT", 0x30F08, [], [⟨0, 32, 0, .rc, false⟩]⟩]
/-- The registers of block 0x3. -/
def regsIng : List RegDesc := regsIng0 ++ regsIng1

/-- Offset of PGH_CFG (R187). -/
abbrev rPGH_CFG : Nat := 0x40000
abbrev fPGH_CFG_HORIZON : Fld := ⟨rPGH_CFG, 24, 8, 0⟩
abbrev fPGH_CFG_GUARD_US : Fld := ⟨rPGH_CFG, 17, 7, 0⟩
abbrev fPGH_CFG_ALIGN_TOL_NS : Fld := ⟨rPGH_CFG, 0, 16, 1000⟩
/-- Offset of PGH_STS (R187). -/
abbrev rPGH_STS : Nat := 0x40004
abbrev fPGH_STS_COLS : Fld := ⟨rPGH_STS, 8, 7, 0⟩
abbrev fPGH_STS_GROUPS : Fld := ⟨rPGH_STS, 0, 5, 0⟩
/-- Offset of PGH_FLT (R187). -/
abbrev rPGH_FLT : Nat := 0x40008
abbrev fPGH_FLT_FLAGS : Fld := ⟨rPGH_FLT, 0, 10, 0⟩
/-- Offset of PGH_TICK_LO (R187). -/
abbrev rPGH_TICK_LO : Nat := 0x40010
abbrev fPGH_TICK_LO_N_LO : Fld := ⟨rPGH_TICK_LO, 0, 32, 0⟩
/-- Offset of PGH_TICK_HI (R187). -/
abbrev rPGH_TICK_HI : Nat := 0x40014
abbrev fPGH_TICK_HI_N_HI : Fld := ⟨rPGH_TICK_HI, 0, 32, 0⟩
/-- Offset of PGH_CLOSE_STS (R187). -/
abbrev rPGH_CLOSE_STS : Nat := 0x40018
abbrev fPGH_CLOSE_STS_LAG_US : Fld := ⟨rPGH_CLOSE_STS, 24, 8, 0⟩
abbrev fPGH_CLOSE_STS_CLOSE_US : Fld := ⟨rPGH_CLOSE_STS, 0, 24, 0⟩
/-- Offset of PGH_ONTIME_CNT (R188). -/
abbrev rPGH_ONTIME_CNT : Nat := 0x40020
abbrev fPGH_ONTIME_CNT_RECORDS : Fld := ⟨rPGH_ONTIME_CNT, 0, 32, 0⟩
/-- Offset of PGH_MISS_CNT (R188). -/
abbrev rPGH_MISS_CNT : Nat := 0x40024
abbrev fPGH_MISS_CNT_CELLS : Fld := ⟨rPGH_MISS_CNT, 0, 32, 0⟩
/-- Offset of PGH_LATE_CNT (R188). -/
abbrev rPGH_LATE_CNT : Nat := 0x40028
abbrev fPGH_LATE_CNT_RECORDS : Fld := ⟨rPGH_LATE_CNT, 0, 32, 0⟩
/-- Offset of PGH_TRANSIT_CNT (R188). -/
abbrev rPGH_TRANSIT_CNT : Nat := 0x4002C
abbrev fPGH_TRANSIT_CNT_RECORDS : Fld := ⟨rPGH_TRANSIT_CNT, 0, 32, 0⟩
/-- Offset of PGH_DUP_CNT (R188). -/
abbrev rPGH_DUP_CNT : Nat := 0x40030
abbrev fPGH_DUP_CNT_RECORDS : Fld := ⟨rPGH_DUP_CNT, 0, 32, 0⟩
/-- Offset of PGH_DUPCONF_CNT (R188). -/
abbrev rPGH_DUPCONF_CNT : Nat := 0x40034
abbrev fPGH_DUPCONF_CNT_RECORDS : Fld := ⟨rPGH_DUPCONF_CNT, 0, 32, 0⟩
/-- Offset of PGH_EARLY_CNT (R188). -/
abbrev rPGH_EARLY_CNT : Nat := 0x40038
abbrev fPGH_EARLY_CNT_RECORDS : Fld := ⟨rPGH_EARLY_CNT, 0, 32, 0⟩
/-- Offset of PGH_EXPIRED_CNT (R188). -/
abbrev rPGH_EXPIRED_CNT : Nat := 0x4003C
abbrev fPGH_EXPIRED_CNT_RECORDS : Fld := ⟨rPGH_EXPIRED_CNT, 0, 32, 0⟩
/-- Offset of PGH_OFFGRID_CNT (R188). -/
abbrev rPGH_OFFGRID_CNT : Nat := 0x40040
abbrev fPGH_OFFGRID_CNT_RECORDS : Fld := ⟨rPGH_OFFGRID_CNT, 0, 32, 0⟩
/-- Offset of PGH_AMEND_CNT (R188). -/
abbrev rPGH_AMEND_CNT : Nat := 0x40044
abbrev fPGH_AMEND_CNT_NOTICES : Fld := ⟨rPGH_AMEND_CNT, 0, 32, 0⟩
/-- Offset of PGH_AMENDOVF_CNT (R188). -/
abbrev rPGH_AMENDOVF_CNT : Nat := 0x40048
abbrev fPGH_AMENDOVF_CNT_NOTICES : Fld := ⟨rPGH_AMENDOVF_CNT, 0, 32, 0⟩
/-- Offset of PGH_SKIP_CNT (R188). -/
abbrev rPGH_SKIP_CNT : Nat := 0x4004C
abbrev fPGH_SKIP_CNT_RECORDS : Fld := ⟨rPGH_SKIP_CNT, 0, 32, 0⟩
/-- Offset of PGH_SWAPDROP_CNT (R188). -/
abbrev rPGH_SWAPDROP_CNT : Nat := 0x40050
abbrev fPGH_SWAPDROP_CNT_RECORDS : Fld := ⟨rPGH_SWAPDROP_CNT, 0, 32, 0⟩
/-- Offset of PGH_ECC_CNT (R188). -/
abbrev rPGH_ECC_CNT : Nat := 0x40054
abbrev fPGH_ECC_CNT_UE : Fld := ⟨rPGH_ECC_CNT, 24, 8, 0⟩
abbrev fPGH_ECC_CNT_CE : Fld := ⟨rPGH_ECC_CNT, 0, 24, 0⟩
/-- Offset of PGH_SLOT_SEL (R189). -/
abbrev rPGH_SLOT_SEL : Nat := 0x40060
abbrev fPGH_SLOT_SEL_SLOT : Fld := ⟨rPGH_SLOT_SEL, 0, 13, 0⟩
/-- Offset of PGH_SLOT_STS (R189). -/
abbrev rPGH_SLOT_STS : Nat := 0x40064
abbrev fPGH_SLOT_STS_GROUP : Fld := ⟨rPGH_SLOT_STS, 28, 4, 0⟩
abbrev fPGH_SLOT_STS_RSMP : Fld := ⟨rPGH_SLOT_STS, 26, 2, 0⟩
abbrev fPGH_SLOT_STS_ACTIVE : Fld := ⟨rPGH_SLOT_STS, 25, 1, 0⟩
abbrev fPGH_SLOT_STS_CONFLICT : Fld := ⟨rPGH_SLOT_STS, 24, 1, 0⟩
abbrev fPGH_SLOT_STS_STATE : Fld := ⟨rPGH_SLOT_STS, 22, 2, 0⟩
abbrev fPGH_SLOT_STS_HIST : Fld := ⟨rPGH_SLOT_STS, 0, 6, 0⟩
/-- Offset of PGH_SLOT_MU_STS (R189). -/
abbrev rPGH_SLOT_MU_STS : Nat := 0x40068
abbrev fPGH_SLOT_MU_STS_MU : Fld := ⟨rPGH_SLOT_MU_STS, 0, 32, 0⟩
/-- Offset of PGH_SLOT_D_STS (R189). -/
abbrev rPGH_SLOT_D_STS : Nat := 0x4006C
abbrev fPGH_SLOT_D_STS_D : Fld := ⟨rPGH_SLOT_D_STS, 0, 32, 0⟩
/-- Offset of PGH_SLOT_Q_STS (R189). -/
abbrev rPGH_SLOT_Q_STS : Nat := 0x40070
abbrev fPGH_SLOT_Q_STS_Q : Fld := ⟨rPGH_SLOT_Q_STS, 0, 32, 0⟩
/-- Offset of PGH_SLOT_MAX_STS (R189). -/
abbrev rPGH_SLOT_MAX_STS : Nat := 0x40074
abbrev fPGH_SLOT_MAX_STS_MAX : Fld := ⟨rPGH_SLOT_MAX_STS, 0, 32, 0⟩
/-- Offset of PGH_SLOT_W_STS (R189). -/
abbrev rPGH_SLOT_W_STS : Nat := 0x40078
abbrev fPGH_SLOT_W_STS_W : Fld := ⟨rPGH_SLOT_W_STS, 0, 32, 0⟩
/-- Offset of PGH_GRP_CFG_g (R190). -/
abbrev rPGH_GRP_CFG (i : Nat) : Nat := 0x40100 + 32 * i
abbrev fPGH_GRP_CFG_POLICY (i : Nat) : Fld := ⟨(rPGH_GRP_CFG i), 28, 4, 0⟩
abbrev fPGH_GRP_CFG_LATE_PATH (i : Nat) : Fld := ⟨(rPGH_GRP_CFG i), 26, 2, 0⟩
abbrev fPGH_GRP_CFG_CFG_POLICY (i : Nat) : Fld := ⟨(rPGH_GRP_CFG i), 25, 1, 0⟩
abbrev fPGH_GRP_CFG_FREEZE (i : Nat) : Fld := ⟨(rPGH_GRP_CFG i), 24, 1, 0⟩
abbrev fPGH_GRP_CFG_QUANT (i : Nat) : Fld := ⟨(rPGH_GRP_CFG i), 22, 2, 0⟩
abbrev fPGH_GRP_CFG_MARGIN_US (i : Nat) : Fld := ⟨(rPGH_GRP_CFG i), 0, 16, 0⟩
/-- Offset of PGH_GRP_W_STS_g (R190). -/
abbrev rPGH_GRP_W_STS (i : Nat) : Nat := 0x40104 + 32 * i
abbrev fPGH_GRP_W_STS_W_US (i : Nat) : Fld := ⟨(rPGH_GRP_W_STS i), 0, 32, 0⟩
/-- Offset of PGH_GRP_LIM_STS_g (R190). -/
abbrev rPGH_GRP_LIM_STS (i : Nat) : Nat := 0x40108 + 32 * i
abbrev fPGH_GRP_LIM_STS_W_MAX (i : Nat) : Fld := ⟨(rPGH_GRP_LIM_STS i), 16, 16, 0⟩
abbrev fPGH_GRP_LIM_STS_W_MIN (i : Nat) : Fld := ⟨(rPGH_GRP_LIM_STS i), 0, 16, 0⟩
/-- Offset of PGH_GRP_ONTIME_CNT_g (R190). -/
abbrev rPGH_GRP_ONTIME_CNT (i : Nat) : Nat := 0x4010C + 32 * i
abbrev fPGH_GRP_ONTIME_CNT_RECORDS (i : Nat) : Fld := ⟨(rPGH_GRP_ONTIME_CNT i), 0, 32, 0⟩
/-- Offset of PGH_GRP_MISS_CNT_g (R190). -/
abbrev rPGH_GRP_MISS_CNT (i : Nat) : Nat := 0x40110 + 32 * i
abbrev fPGH_GRP_MISS_CNT_CELLS (i : Nat) : Fld := ⟨(rPGH_GRP_MISS_CNT i), 0, 32, 0⟩
/-- Offset of PGH_GRP_LATE_CNT_g (R190). -/
abbrev rPGH_GRP_LATE_CNT (i : Nat) : Nat := 0x40114 + 32 * i
abbrev fPGH_GRP_LATE_CNT_RECORDS (i : Nat) : Fld := ⟨(rPGH_GRP_LATE_CNT i), 0, 32, 0⟩
/-- Registers of block 0x4, part 0 (R536). -/
def regsPgh0 : List RegDesc :=
  [⟨"PGH_CFG", 0x40000, [], [⟨24, 8, 0, .ro, true⟩, ⟨17, 7, 0, .rw, true⟩, ⟨0, 16, 1000, .rw, false⟩]⟩,
   ⟨"PGH_STS", 0x40004, [], [⟨8, 7, 0, .ro, false⟩, ⟨0, 5, 0, .ro, true⟩]⟩,
   ⟨"PGH_FLT", 0x40008, [], [⟨0, 10, 0, .w1c, false⟩]⟩,
   ⟨"PGH_TICK_LO", 0x40010, [], [⟨0, 32, 0, .ro, false⟩]⟩,
   ⟨"PGH_TICK_HI", 0x40014, [], [⟨0, 32, 0, .ro, false⟩]⟩,
   ⟨"PGH_CLOSE_STS", 0x40018, [], [⟨24, 8, 0, .ro, false⟩, ⟨0, 24, 0, .ro, false⟩]⟩,
   ⟨"PGH_ONTIME_CNT", 0x40020, [], [⟨0, 32, 0, .rc, false⟩]⟩,
   ⟨"PGH_MISS_CNT", 0x40024, [], [⟨0, 32, 0, .rc, false⟩]⟩,
   ⟨"PGH_LATE_CNT", 0x40028, [], [⟨0, 32, 0, .rc, false⟩]⟩,
   ⟨"PGH_TRANSIT_CNT", 0x4002C, [], [⟨0, 32, 0, .rc, false⟩]⟩,
   ⟨"PGH_DUP_CNT", 0x40030, [], [⟨0, 32, 0, .rc, false⟩]⟩,
   ⟨"PGH_DUPCONF_CNT", 0x40034, [], [⟨0, 32, 0, .rc, false⟩]⟩]
/-- Registers of block 0x4, part 1 (R536). -/
def regsPgh1 : List RegDesc :=
  [⟨"PGH_EARLY_CNT", 0x40038, [], [⟨0, 32, 0, .rc, false⟩]⟩,
   ⟨"PGH_EXPIRED_CNT", 0x4003C, [], [⟨0, 32, 0, .rc, false⟩]⟩,
   ⟨"PGH_OFFGRID_CNT", 0x40040, [], [⟨0, 32, 0, .rc, false⟩]⟩,
   ⟨"PGH_AMEND_CNT", 0x40044, [], [⟨0, 32, 0, .rc, false⟩]⟩,
   ⟨"PGH_AMENDOVF_CNT", 0x40048, [], [⟨0, 32, 0, .rc, false⟩]⟩,
   ⟨"PGH_SKIP_CNT", 0x4004C, [], [⟨0, 32, 0, .rc, false⟩]⟩,
   ⟨"PGH_SWAPDROP_CNT", 0x40050, [], [⟨0, 32, 0, .rc, false⟩]⟩,
   ⟨"PGH_ECC_CNT", 0x40054, [], [⟨24, 8, 0, .rc, false⟩, ⟨0, 24, 0, .rc, false⟩]⟩,
   ⟨"PGH_SLOT_SEL", 0x40060, [], [⟨0, 13, 0, .rw, false⟩]⟩,
   ⟨"PGH_SLOT_STS", 0x40064, [], [⟨28, 4, 0, .ro, false⟩, ⟨26, 2, 0, .ro, false⟩, ⟨25, 1, 0, .ro, false⟩, ⟨24, 1, 0, .ro, false⟩, ⟨22, 2, 0, .ro, false⟩, ⟨0, 6, 0, .ro, false⟩]⟩,
   ⟨"PGH_SLOT_MU_STS", 0x40068, [], [⟨0, 32, 0, .ro, false⟩]⟩,
   ⟨"PGH_SLOT_D_STS", 0x4006C, [], [⟨0, 32, 0, .ro, false⟩]⟩]
/-- Registers of block 0x4, part 2 (R536). -/
def regsPgh2 : List RegDesc :=
  [⟨"PGH_SLOT_Q_STS", 0x40070, [], [⟨0, 32, 0, .ro, false⟩]⟩,
   ⟨"PGH_SLOT_MAX_STS", 0x40074, [], [⟨0, 32, 0, .ro, false⟩]⟩,
   ⟨"PGH_SLOT_W_STS", 0x40078, [], [⟨0, 32, 0, .ro, false⟩]⟩,
   ⟨"PGH_GRP_CFG", 0x40100, [(32, 16)], [⟨28, 4, 0, .ro, true⟩, ⟨26, 2, 0, .ro, true⟩, ⟨25, 1, 0, .ro, true⟩, ⟨24, 1, 0, .rw, false⟩, ⟨22, 2, 0, .rw, true⟩, ⟨0, 16, 0, .rw, true⟩]⟩,
   ⟨"PGH_GRP_W_STS", 0x40104, [(32, 16)], [⟨0, 32, 0, .ro, false⟩]⟩,
   ⟨"PGH_GRP_LIM_STS", 0x40108, [(32, 16)], [⟨16, 16, 0, .ro, true⟩, ⟨0, 16, 0, .ro, true⟩]⟩,
   ⟨"PGH_GRP_ONTIME_CNT", 0x4010C, [(32, 16)], [⟨0, 32, 0, .rc, false⟩]⟩,
   ⟨"PGH_GRP_MISS_CNT", 0x40110, [(32, 16)], [⟨0, 32, 0, .rc, false⟩]⟩,
   ⟨"PGH_GRP_LATE_CNT", 0x40114, [(32, 16)], [⟨0, 32, 0, .rc, false⟩]⟩]
/-- The registers of block 0x4. -/
def regsPgh : List RegDesc := regsPgh0 ++ regsPgh1 ++ regsPgh2

/-- Offset of TMB_CFG (R220). -/
abbrev rTMB_CFG : Nat := 0x50000
abbrev fTMB_CFG_OVERRUN : Fld := ⟨rTMB_CFG, 31, 1, 0⟩
abbrev fTMB_CFG_SLOT : Fld := ⟨rTMB_CFG, 29, 1, 0⟩
abbrev fTMB_CFG_ITEMS : Fld := ⟨rTMB_CFG, 16, 13, 0⟩
abbrev fTMB_CFG_G0_SPAN : Fld := ⟨rTMB_CFG, 0, 16, 0⟩
/-- Offset of TMB_AGE_CFG (R220). -/
abbrev rTMB_AGE_CFG : Nat := 0x50004
abbrev fTMB_AGE_CFG_AGE2_US : Fld := ⟨rTMB_AGE_CFG, 16, 16, 0⟩
abbrev fTMB_AGE_CFG_AGE3_US : Fld := ⟨rTMB_AGE_CFG, 0, 16, 0⟩
/-- Offset of TMB_STS (R220). -/
abbrev rTMB_STS : Nat := 0x50008
abbrev fTMB_STS_LIVE : Fld := ⟨rTMB_STS, 30, 2, 0⟩
abbrev fTMB_STS_HELD : Fld := ⟨rTMB_STS, 29, 1, 0⟩
abbrev fTMB_STS_READY : Fld := ⟨rTMB_STS, 16, 13, 0⟩
abbrev fTMB_STS_DEFERRED : Fld := ⟨rTMB_STS, 0, 13, 0⟩
/-- Offset of TMB_FLT (R220). -/
abbrev rTMB_FLT : Nat := 0x5000C
abbrev fTMB_FLT_FLAGS : Fld := ⟨rTMB_FLT, 0, 8, 0⟩
/-- Offset of TMB_SLACK_STS (R220). -/
abbrev rTMB_SLACK_STS : Nat := 0x50010
abbrev fTMB_SLACK_STS_SLACK_NS : Fld := ⟨rTMB_SLACK_STS, 0, 32, 0⟩
/-- Offset of TMB_SLACK_MIN_STS (R220). -/
abbrev rTMB_SLACK_MIN_STS : Nat := 0x50014
abbrev fTMB_SLACK_MIN_STS_MIN_NS : Fld := ⟨rTMB_SLACK_MIN_STS, 0, 32, 2147483647⟩
/-- Offset of TMB_TICK_LO (R220). -/
abbrev rTMB_TICK_LO : Nat := 0x50018
abbrev fTMB_TICK_LO_N_LO : Fld := ⟨rTMB_TICK_LO, 0, 32, 0⟩
/-- Offset of TMB_TICK_HI (R220). -/
abbrev rTMB_TICK_HI : Nat := 0x5001C
abbrev fTMB_TICK_HI_N_HI : Fld := ⟨rTMB_TICK_HI, 0, 32, 0⟩
/-- Offset of TMB_G0_STS (R220). -/
abbrev rTMB_G0_STS : Nat := 0x50020
abbrev fTMB_G0_STS_G0_MAX : Fld := ⟨rTMB_G0_STS, 16, 16, 0⟩
abbrev fTMB_G0_STS_G0_LAST : Fld := ⟨rTMB_G0_STS, 0, 16, 0⟩
/-- Offset of TMB_CTL (R220). -/
abbrev rTMB_CTL : Nat := 0x50024
abbrev fTMB_CTL_MIN_CLR : Fld := ⟨rTMB_CTL, 0, 1, 0⟩
/-- Offset of TMB_OVERRUN_CNT (R221). -/
abbrev rTMB_OVERRUN_CNT : Nat := 0x50040
abbrev fTMB_OVERRUN_CNT_INSTANCES : Fld := ⟨rTMB_OVERRUN_CNT, 0, 32, 0⟩
/-- Offset of TMB_DEFER_CNT (R221). -/
abbrev rTMB_DEFER_CNT : Nat := 0x50044
abbrev fTMB_DEFER_CNT_ITEMS : Fld := ⟨rTMB_DEFER_CNT, 0, 32, 0⟩
/-- Offset of TMB_ABANDON_CNT (R221). -/
abbrev rTMB_ABANDON_CNT : Nat := 0x50048
abbrev fTMB_ABANDON_CNT_ITEMS : Fld := ⟨rTMB_ABANDON_CNT, 0, 32, 0⟩
/-- Offset of TMB_PROMOTE_CNT (R221). -/
abbrev rTMB_PROMOTE_CNT : Nat := 0x5004C
abbrev fTMB_PROMOTE_CNT_ITEMS : Fld := ⟨rTMB_PROMOTE_CNT, 0, 32, 0⟩
/-- Offset of TMB_BP_CNT (R221). -/
abbrev rTMB_BP_CNT : Nat := 0x50050
abbrev fTMB_BP_CNT_US : Fld := ⟨rTMB_BP_CNT, 0, 32, 0⟩
/-- Offset of TMB_ECC_CNT (R221). -/
abbrev rTMB_ECC_CNT : Nat := 0x50054
abbrev fTMB_ECC_CNT_UE : Fld := ⟨rTMB_ECC_CNT, 24, 8, 0⟩
abbrev fTMB_ECC_CNT_CE : Fld := ⟨rTMB_ECC_CNT, 0, 24, 0⟩
/-- Offset of TMB_ITEM_SEL (R222). -/
abbrev rTMB_ITEM_SEL : Nat := 0x50080
abbrev fTMB_ITEM_SEL_PREV : Fld := ⟨rTMB_ITEM_SEL, 16, 1, 0⟩
abbrev fTMB_ITEM_SEL_ITEM : Fld := ⟨rTMB_ITEM_SEL, 0, 12, 0⟩
/-- Offset of TMB_ITEM_STS (R222). -/
abbrev rTMB_ITEM_STS : Nat := 0x50084
abbrev fTMB_ITEM_STS_STATE : Fld := ⟨rTMB_ITEM_STS, 29, 3, 0⟩
abbrev fTMB_ITEM_STS_CLASS_NOW : Fld := ⟨rTMB_ITEM_STS, 27, 2, 0⟩
abbrev fTMB_ITEM_STS_CLASS_IMG : Fld := ⟨rTMB_ITEM_STS, 25, 2, 0⟩
abbrev fTMB_ITEM_STS_LANE : Fld := ⟨rTMB_ITEM_STS, 19, 6, 0⟩
abbrev fTMB_ITEM_STS_UNIT : Fld := ⟨rTMB_ITEM_STS, 16, 3, 0⟩
abbrev fTMB_ITEM_STS_OUTSTANDING : Fld := ⟨rTMB_ITEM_STS, 0, 7, 0⟩
/-- Offset of TMB_ITEM_RETIRE_STS (R222). -/
abbrev rTMB_ITEM_RETIRE_STS : Nat := 0x50088
abbrev fTMB_ITEM_RETIRE_STS_REL_NS : Fld := ⟨rTMB_ITEM_RETIRE_STS, 0, 32, 0⟩
/-- Offset of TMB_ITEM_CYC_STS (R222). -/
abbrev rTMB_ITEM_CYC_STS : Nat := 0x5008C
abbrev fTMB_ITEM_CYC_STS_CYCLES : Fld := ⟨rTMB_ITEM_CYC_STS, 0, 32, 0⟩
/-- Offset of TMB_IMG_STS (R473). -/
abbrev rTMB_IMG_STS : Nat := 0x500A0
abbrev fTMB_IMG_STS_PENDING : Fld := ⟨rTMB_IMG_STS, 31, 1, 0⟩
abbrev fTMB_IMG_STS_PEND_SLOT : Fld := ⟨rTMB_IMG_STS, 30, 1, 0⟩
abbrev fTMB_IMG_STS_FALLBACK : Fld := ⟨rTMB_IMG_STS, 29, 1, 0⟩
abbrev fTMB_IMG_STS_SLOT1 : Fld := ⟨rTMB_IMG_STS, 26, 2, 0⟩
abbrev fTMB_IMG_STS_SLOT0 : Fld := ⟨rTMB_IMG_STS, 24, 2, 0⟩
abbrev fTMB_IMG_STS_SVN : Fld := ⟨rTMB_IMG_STS, 0, 8, 0⟩
/-- Offset of TMB_SWAP_LO (R473). -/
abbrev rTMB_SWAP_LO : Nat := 0x500A4
abbrev fTMB_SWAP_LO_K_LO : Fld := ⟨rTMB_SWAP_LO, 0, 32, 0⟩
/-- Offset of TMB_SWAP_HI (R473). -/
abbrev rTMB_SWAP_HI : Nat := 0x500A8
abbrev fTMB_SWAP_HI_K_HI : Fld := ⟨rTMB_SWAP_HI, 0, 32, 0⟩
/-- Offset of TMB_IMG_BUILD_LO (R473). -/
abbrev rTMB_IMG_BUILD_LO : Nat := 0x500AC
abbrev fTMB_IMG_BUILD_LO_B_LO : Fld := ⟨rTMB_IMG_BUILD_LO, 0, 32, 0⟩
/-- Offset of TMB_IMG_BUILD_HI (R473). -/
abbrev rTMB_IMG_BUILD_HI : Nat := 0x500B0
abbrev fTMB_IMG_BUILD_HI_B_HI : Fld := ⟨rTMB_IMG_BUILD_HI, 0, 32, 0⟩
/-- Offset of TMB_IMG_REJ_STS (R473). -/
abbrev rTMB_IMG_REJ_STS : Nat := 0x500B4
abbrev fTMB_IMG_REJ_STS_CODE : Fld := ⟨rTMB_IMG_REJ_STS, 0, 16, 0⟩
/-- Registers of block 0x5, part 0 (R536). -/
def regsTmb0 : List RegDesc :=
  [⟨"TMB_CFG", 0x50000, [], [⟨31, 1, 0, .ro, true⟩, ⟨29, 1, 0, .ro, true⟩, ⟨16, 13, 0, .ro, true⟩, ⟨0, 16, 0, .ro, true⟩]⟩,
   ⟨"TMB_AGE_CFG", 0x50004, [], [⟨16, 16, 0, .rw, true⟩, ⟨0, 16, 0, .rw, true⟩]⟩,
   ⟨"TMB_STS", 0x50008, [], [⟨30, 2, 0, .ro, false⟩, ⟨29, 1, 0, .ro, false⟩, ⟨16, 13, 0, .ro, false⟩, ⟨0, 13, 0, .ro, false⟩]⟩,
   ⟨"TMB_FLT", 0x5000C, [], [⟨0, 8, 0, .w1c, false⟩]⟩,
   ⟨"TMB_SLACK_STS", 0x50010, [], [⟨0, 32, 0, .ro, false⟩]⟩,
   ⟨"TMB_SLACK_MIN_STS", 0x50014, [], [⟨0, 32, 2147483647, .ro, false⟩]⟩,
   ⟨"TMB_TICK_LO", 0x50018, [], [⟨0, 32, 0, .ro, false⟩]⟩,
   ⟨"TMB_TICK_HI", 0x5001C, [], [⟨0, 32, 0, .ro, false⟩]⟩,
   ⟨"TMB_G0_STS", 0x50020, [], [⟨16, 16, 0, .ro, false⟩, ⟨0, 16, 0, .ro, false⟩]⟩,
   ⟨"TMB_CTL", 0x50024, [], [⟨0, 1, 0, .wo, false⟩]⟩,
   ⟨"TMB_OVERRUN_CNT", 0x50040, [], [⟨0, 32, 0, .rc, false⟩]⟩,
   ⟨"TMB_DEFER_CNT", 0x50044, [], [⟨0, 32, 0, .rc, false⟩]⟩]
/-- Registers of block 0x5, part 1 (R536). -/
def regsTmb1 : List RegDesc :=
  [⟨"TMB_ABANDON_CNT", 0x50048, [], [⟨0, 32, 0, .rc, false⟩]⟩,
   ⟨"TMB_PROMOTE_CNT", 0x5004C, [], [⟨0, 32, 0, .rc, false⟩]⟩,
   ⟨"TMB_BP_CNT", 0x50050, [], [⟨0, 32, 0, .rc, false⟩]⟩,
   ⟨"TMB_ECC_CNT", 0x50054, [], [⟨24, 8, 0, .rc, false⟩, ⟨0, 24, 0, .rc, false⟩]⟩,
   ⟨"TMB_ITEM_SEL", 0x50080, [], [⟨16, 1, 0, .rw, false⟩, ⟨0, 12, 0, .rw, false⟩]⟩,
   ⟨"TMB_ITEM_STS", 0x50084, [], [⟨29, 3, 0, .ro, false⟩, ⟨27, 2, 0, .ro, false⟩, ⟨25, 2, 0, .ro, false⟩, ⟨19, 6, 0, .ro, false⟩, ⟨16, 3, 0, .ro, false⟩, ⟨0, 7, 0, .ro, false⟩]⟩,
   ⟨"TMB_ITEM_RETIRE_STS", 0x50088, [], [⟨0, 32, 0, .ro, false⟩]⟩,
   ⟨"TMB_ITEM_CYC_STS", 0x5008C, [], [⟨0, 32, 0, .ro, false⟩]⟩,
   ⟨"TMB_IMG_STS", 0x500A0, [], [⟨31, 1, 0, .ro, false⟩, ⟨30, 1, 0, .ro, false⟩, ⟨29, 1, 0, .ro, false⟩, ⟨26, 2, 0, .ro, false⟩, ⟨24, 2, 0, .ro, false⟩, ⟨0, 8, 0, .ro, true⟩]⟩,
   ⟨"TMB_SWAP_LO", 0x500A4, [], [⟨0, 32, 0, .ro, false⟩]⟩,
   ⟨"TMB_SWAP_HI", 0x500A8, [], [⟨0, 32, 0, .ro, false⟩]⟩,
   ⟨"TMB_IMG_BUILD_LO", 0x500AC, [], [⟨0, 32, 0, .ro, true⟩]⟩]
/-- Registers of block 0x5, part 2 (R536). -/
def regsTmb2 : List RegDesc :=
  [⟨"TMB_IMG_BUILD_HI", 0x500B0, [], [⟨0, 32, 0, .ro, true⟩]⟩,
   ⟨"TMB_IMG_REJ_STS", 0x500B4, [], [⟨0, 16, 0, .ro, false⟩]⟩]
/-- The registers of block 0x5. -/
def regsTmb : List RegDesc := regsTmb0 ++ regsTmb1 ++ regsTmb2

/-- Offset of LANE_CTL_i (R223). -/
abbrev rLANE_CTL (i : Nat) : Nat := 0x60000 + 512 * i
abbrev fLANE_CTL_PREFETCH_DIS (i : Nat) : Fld := ⟨(rLANE_CTL i), 0, 1, 0⟩
/-- Offset of LANE_STS_i (R223). -/
abbrev rLANE_STS (i : Nat) : Nat := 0x60004 + 512 * i
abbrev fLANE_STS_POOL (i : Nat) : Fld := ⟨(rLANE_STS i), 31, 1, if i < 4 then 0 else 1⟩
abbrev fLANE_STS_STATE (i : Nat) : Fld := ⟨(rLANE_STS i), 28, 3, 0⟩
abbrev fLANE_STS_QDEPTH (i : Nat) : Fld := ⟨(rLANE_STS i), 25, 3, 0⟩
abbrev fLANE_STS_PREFETCHED (i : Nat) : Fld := ⟨(rLANE_STS i), 24, 1, 0⟩
abbrev fLANE_STS_CUR_VALID (i : Nat) : Fld := ⟨(rLANE_STS i), 12, 1, 0⟩
abbrev fLANE_STS_CUR_ITEM (i : Nat) : Fld := ⟨(rLANE_STS i), 0, 12, 0⟩
/-- Offset of LANE_FLT_i (R223). -/
abbrev rLANE_FLT (i : Nat) : Nat := 0x60008 + 512 * i
abbrev fLANE_FLT_FLAGS (i : Nat) : Fld := ⟨(rLANE_FLT i), 0, 4, 0⟩
/-- Offset of LANE_ECC_CNT_i (R223). -/
abbrev rLANE_ECC_CNT (i : Nat) : Nat := 0x6000C + 512 * i
abbrev fLANE_ECC_CNT_UE (i : Nat) : Fld := ⟨(rLANE_ECC_CNT i), 24, 8, 0⟩
abbrev fLANE_ECC_CNT_CE (i : Nat) : Fld := ⟨(rLANE_ECC_CNT i), 0, 24, 0⟩
/-- Offset of LANE_ITEMS_CNT_i (R223). -/
abbrev rLANE_ITEMS_CNT (i : Nat) : Nat := 0x60010 + 512 * i
abbrev fLANE_ITEMS_CNT_ITEMS (i : Nat) : Fld := ⟨(rLANE_ITEMS_CNT i), 0, 32, 0⟩
/-- Offset of LANE_BUSY_STS_i (R223). -/
abbrev rLANE_BUSY_STS (i : Nat) : Nat := 0x60014 + 512 * i
abbrev fLANE_BUSY_STS_BUSY_NS (i : Nat) : Fld := ⟨(rLANE_BUSY_STS i), 0, 32, 0⟩
/-- Registers of block 0x6, part 0 (R536). -/
def regsLane0 : List RegDesc :=
  [⟨"LANE_CTL", 0x60000, [(512, 32)], [⟨0, 1, 0, .rw, false⟩]⟩,
   ⟨"LANE_STS", 0x60004, [(512, 32)], [⟨31, 1, 0, .ro, false⟩, ⟨28, 3, 0, .ro, false⟩, ⟨25, 3, 0, .ro, false⟩, ⟨24, 1, 0, .ro, false⟩, ⟨12, 1, 0, .ro, false⟩, ⟨0, 12, 0, .ro, false⟩]⟩,
   ⟨"LANE_FLT", 0x60008, [(512, 32)], [⟨0, 4, 0, .w1c, false⟩]⟩,
   ⟨"LANE_ECC_CNT", 0x6000C, [(512, 32)], [⟨24, 8, 0, .rc, false⟩, ⟨0, 24, 0, .rc, false⟩]⟩,
   ⟨"LANE_ITEMS_CNT", 0x60010, [(512, 32)], [⟨0, 32, 0, .rc, false⟩]⟩,
   ⟨"LANE_BUSY_STS", 0x60014, [(512, 32)], [⟨0, 32, 0, .ro, false⟩]⟩]
/-- The registers of block 0x6. -/
def regsLane : List RegDesc := regsLane0

/-- Offset of SPEC_CFG (R250). -/
abbrev rSPEC_CFG : Nat := 0x70000
abbrev fSPEC_CFG_SIGNALS : Fld := ⟨rSPEC_CFG, 16, 13, 0⟩
abbrev fSPEC_CFG_BINS : Fld := ⟨rSPEC_CFG, 7, 9, 0⟩
abbrev fSPEC_CFG_BANDS : Fld := ⟨rSPEC_CFG, 2, 5, 0⟩
abbrev fSPEC_CFG_TRK_EN : Fld := ⟨rSPEC_CFG, 1, 1, 0⟩
abbrev fSPEC_CFG_DEF_EN : Fld := ⟨rSPEC_CFG, 0, 1, 0⟩
/-- Offset of SPEC_STS (R250). -/
abbrev rSPEC_STS : Nat := 0x70004
abbrev fSPEC_STS_SETTLING : Fld := ⟨rSPEC_STS, 16, 13, 0⟩
abbrev fSPEC_STS_HOLD : Fld := ⟨rSPEC_STS, 0, 13, 0⟩
/-- Offset of SPEC_FLT (R250). -/
abbrev rSPEC_FLT : Nat := 0x70008
abbrev fSPEC_FLT_FLAGS : Fld := ⟨rSPEC_FLT, 0, 11, 0⟩
/-- Offset of SPEC_ECC_CNT (R250). -/
abbrev rSPEC_ECC_CNT : Nat := 0x7000C
abbrev fSPEC_ECC_CNT_UE : Fld := ⟨rSPEC_ECC_CNT, 24, 8, 0⟩
abbrev fSPEC_ECC_CNT_CE : Fld := ⟨rSPEC_ECC_CNT, 0, 24, 0⟩
/-- Offset of SPEC_GAP_CNT (R250). -/
abbrev rSPEC_GAP_CNT : Nat := 0x70010
abbrev fSPEC_GAP_CNT_RESETS : Fld := ⟨rSPEC_GAP_CNT, 0, 32, 0⟩
/-- Offset of SPEC_EIGFAIL_CNT (R250). -/
abbrev rSPEC_EIGFAIL_CNT : Nat := 0x70014
abbrev fSPEC_EIGFAIL_CNT_EVALS : Fld := ⟨rSPEC_EIGFAIL_CNT, 0, 32, 0⟩
/-- Offset of SPEC_FO_CFG (R250). -/
abbrev rSPEC_FO_CFG : Nat := 0x70020
abbrev fSPEC_FO_CFG_FO_SHARE : Fld := ⟨rSPEC_FO_CFG, 24, 8, 0⟩
abbrev fSPEC_FO_CFG_FO_DEV : Fld := ⟨rSPEC_FO_CFG, 16, 8, 0⟩
abbrev fSPEC_FO_CFG_FO_WIN : Fld := ⟨rSPEC_FO_CFG, 0, 16, 0⟩
/-- Offset of SPEC_TRK_CFG (R252). -/
abbrev rSPEC_TRK_CFG : Nat := 0x70030
abbrev fSPEC_TRK_CFG_ZETA_WARN : Fld := ⟨rSPEC_TRK_CFG, 24, 8, 0⟩
abbrev fSPEC_TRK_CFG_ZETA_ALARM : Fld := ⟨rSPEC_TRK_CFG, 16, 8, 0⟩
abbrev fSPEC_TRK_CFG_ZETA_HYST : Fld := ⟨rSPEC_TRK_CFG, 8, 8, 0⟩
abbrev fSPEC_TRK_CFG_CONF_MIN : Fld := ⟨rSPEC_TRK_CFG, 0, 8, 0⟩
/-- Offset of SPEC_TRK_CFG2 (R252). -/
abbrev rSPEC_TRK_CFG2 : Nat := 0x70034
abbrev fSPEC_TRK_CFG2_D_PERSIST : Fld := ⟨rSPEC_TRK_CFG2, 24, 8, 0⟩
abbrev fSPEC_TRK_CFG2_F_LO : Fld := ⟨rSPEC_TRK_CFG2, 12, 12, 0⟩
abbrev fSPEC_TRK_CFG2_F_HI : Fld := ⟨rSPEC_TRK_CFG2, 0, 12, 0⟩
/-- Offset of SPEC_TRK_STS (R252). -/
abbrev rSPEC_TRK_STS : Nat := 0x70038
abbrev fSPEC_TRK_STS_MODES : Fld := ⟨rSPEC_TRK_STS, 26, 6, 0⟩
abbrev fSPEC_TRK_STS_VALID : Fld := ⟨rSPEC_TRK_STS, 25, 1, 0⟩
abbrev fSPEC_TRK_STS_ALARMS : Fld := ⟨rSPEC_TRK_STS, 16, 8, 0⟩
abbrev fSPEC_TRK_STS_SAMPLES : Fld := ⟨rSPEC_TRK_STS, 0, 16, 0⟩
/-- Offset of SPEC_MODE_SEL (R252). -/
abbrev rSPEC_MODE_SEL : Nat := 0x70040
abbrev fSPEC_MODE_SEL_INDEX : Fld := ⟨rSPEC_MODE_SEL, 0, 5, 0⟩
/-- Offset of SPEC_MODE_STS (R252). -/
abbrev rSPEC_MODE_STS : Nat := 0x70044
abbrev fSPEC_MODE_STS_ID : Fld := ⟨rSPEC_MODE_STS, 24, 8, 0⟩
abbrev fSPEC_MODE_STS_DSTATE : Fld := ⟨rSPEC_MODE_STS, 22, 2, 0⟩
abbrev fSPEC_MODE_STS_FORCED : Fld := ⟨rSPEC_MODE_STS, 21, 1, 0⟩
abbrev fSPEC_MODE_STS_ELIGIBLE : Fld := ⟨rSPEC_MODE_STS, 20, 1, 0⟩
abbrev fSPEC_MODE_STS_CONF : Fld := ⟨rSPEC_MODE_STS, 0, 16, 0⟩
/-- Offset of SPEC_MODE_FREQ (R252). -/
abbrev rSPEC_MODE_FREQ : Nat := 0x70048
abbrev fSPEC_MODE_FREQ_FREQ : Fld := ⟨rSPEC_MODE_FREQ, 0, 32, 0⟩
/-- Offset of SPEC_MODE_ZETA (R252). -/
abbrev rSPEC_MODE_ZETA : Nat := 0x7004C
abbrev fSPEC_MODE_ZETA_ZETA : Fld := ⟨rSPEC_MODE_ZETA, 0, 32, 0⟩
/-- Offset of SPEC_DEF_CFG (R253). -/
abbrev rSPEC_DEF_CFG : Nat := 0x70050
abbrev fSPEC_DEF_CFG_SHARE_MIN : Fld := ⟨rSPEC_DEF_CFG, 24, 8, 0⟩
abbrev fSPEC_DEF_CFG_DEF_PERSIST : Fld := ⟨rSPEC_DEF_CFG, 16, 8, 0⟩
/-- Offset of SPEC_DEF_MIN (R253). -/
abbrev rSPEC_DEF_MIN : Nat := 0x70054
abbrev fSPEC_DEF_MIN_SRC_MIN : Fld := ⟨rSPEC_DEF_MIN, 0, 32, 0⟩
/-- Offset of SPEC_DEF_STS_t (R253). -/
abbrev rSPEC_DEF_STS (i : Nat) : Nat := 0x70060 + 4 * i
abbrev fSPEC_DEF_STS_SOURCE (i : Nat) : Fld := ⟨(rSPEC_DEF_STS i), 31, 1, 0⟩
abbrev fSPEC_DEF_STS_STATE (i : Nat) : Fld := ⟨(rSPEC_DEF_STS i), 29, 2, 0⟩
abbrev fSPEC_DEF_STS_SHARE (i : Nat) : Fld := ⟨(rSPEC_DEF_STS i), 21, 8, 0⟩
abbrev fSPEC_DEF_STS_NODE (i : Nat) : Fld := ⟨(rSPEC_DEF_STS i), 0, 13, 0⟩
/-- Offset of SPEC_BAND_THR_b (R251). -/
abbrev rSPEC_BAND_THR (i : Nat) : Nat := 0x70100 + 16 * i
abbrev fSPEC_BAND_THR_E_THR (i : Nat) : Fld := ⟨(rSPEC_BAND_THR i), 0, 32, 0⟩
/-- Offset of SPEC_BAND_CFG_b (R251). -/
abbrev rSPEC_BAND_CFG (i : Nat) : Nat := 0x70104 + 16 * i
abbrev fSPEC_BAND_CFG_PERSIST (i : Nat) : Fld := ⟨(rSPEC_BAND_CFG i), 24, 8, 0⟩
abbrev fSPEC_BAND_CFG_FO_PERSIST (i : Nat) : Fld := ⟨(rSPEC_BAND_CFG i), 16, 8, 0⟩
abbrev fSPEC_BAND_CFG_MIN_SIG (i : Nat) : Fld := ⟨(rSPEC_BAND_CFG i), 8, 8, 0⟩
abbrev fSPEC_BAND_CFG_FO_EN (i : Nat) : Fld := ⟨(rSPEC_BAND_CFG i), 1, 1, 0⟩
abbrev fSPEC_BAND_CFG_EN (i : Nat) : Fld := ⟨(rSPEC_BAND_CFG i), 0, 1, 0⟩
/-- Offset of SPEC_BAND_STS_b (R251). -/
abbrev rSPEC_BAND_STS (i : Nat) : Nat := 0x70108 + 16 * i
abbrev fSPEC_BAND_STS_ENERGY (i : Nat) : Fld := ⟨(rSPEC_BAND_STS i), 31, 1, 0⟩
abbrev fSPEC_BAND_STS_FO_CAND (i : Nat) : Fld := ⟨(rSPEC_BAND_STS i), 30, 1, 0⟩
abbrev fSPEC_BAND_STS_FO (i : Nat) : Fld := ⟨(rSPEC_BAND_STS i), 29, 1, 0⟩
abbrev fSPEC_BAND_STS_PEAK_BIN (i : Nat) : Fld := ⟨(rSPEC_BAND_STS i), 21, 8, 0⟩
abbrev fSPEC_BAND_STS_HOT (i : Nat) : Fld := ⟨(rSPEC_BAND_STS i), 0, 13, 0⟩
/-- Offset of SPEC_BAND_PEAK_b (R251). -/
abbrev rSPEC_BAND_PEAK (i : Nat) : Nat := 0x7010C + 16 * i
abbrev fSPEC_BAND_PEAK_PEAK_FREQ (i : Nat) : Fld := ⟨(rSPEC_BAND_PEAK i), 0, 32, 0⟩
/-- Registers of block 0x7, part 0 (R536). -/
def regsSpec0 : List RegDesc :=
  [⟨"SPEC_CFG", 0x70000, [], [⟨16, 13, 0, .ro, true⟩, ⟨7, 9, 0, .ro, true⟩, ⟨2, 5, 0, .ro, true⟩, ⟨1, 1, 0, .ro, true⟩, ⟨0, 1, 0, .ro, true⟩]⟩,
   ⟨"SPEC_STS", 0x70004, [], [⟨16, 13, 0, .ro, false⟩, ⟨0, 13, 0, .ro, false⟩]⟩,
   ⟨"SPEC_FLT", 0x70008, [], [⟨0, 11, 0, .w1c, false⟩]⟩,
   ⟨"SPEC_ECC_CNT", 0x7000C, [], [⟨24, 8, 0, .rc, false⟩, ⟨0, 24, 0, .rc, false⟩]⟩,
   ⟨"SPEC_GAP_CNT", 0x70010, [], [⟨0, 32, 0, .rc, false⟩]⟩,
   ⟨"SPEC_EIGFAIL_CNT", 0x70014, [], [⟨0, 32, 0, .rc, false⟩]⟩,
   ⟨"SPEC_FO_CFG", 0x70020, [], [⟨24, 8, 0, .rw, true⟩, ⟨16, 8, 0, .rw, true⟩, ⟨0, 16, 0, .rw, true⟩]⟩,
   ⟨"SPEC_TRK_CFG", 0x70030, [], [⟨24, 8, 0, .rw, true⟩, ⟨16, 8, 0, .rw, true⟩, ⟨8, 8, 0, .rw, true⟩, ⟨0, 8, 0, .rw, true⟩]⟩,
   ⟨"SPEC_TRK_CFG2", 0x70034, [], [⟨24, 8, 0, .rw, true⟩, ⟨12, 12, 0, .rw, true⟩, ⟨0, 12, 0, .rw, true⟩]⟩,
   ⟨"SPEC_TRK_STS", 0x70038, [], [⟨26, 6, 0, .ro, false⟩, ⟨25, 1, 0, .ro, false⟩, ⟨16, 8, 0, .ro, false⟩, ⟨0, 16, 0, .ro, false⟩]⟩,
   ⟨"SPEC_MODE_SEL", 0x70040, [], [⟨0, 5, 0, .rw, false⟩]⟩,
   ⟨"SPEC_MODE_STS", 0x70044, [], [⟨24, 8, 0, .ro, false⟩, ⟨22, 2, 0, .ro, false⟩, ⟨21, 1, 0, .ro, false⟩, ⟨20, 1, 0, .ro, false⟩, ⟨0, 16, 0, .ro, false⟩]⟩]
/-- Registers of block 0x7, part 1 (R536). -/
def regsSpec1 : List RegDesc :=
  [⟨"SPEC_MODE_FREQ", 0x70048, [], [⟨0, 32, 0, .ro, false⟩]⟩,
   ⟨"SPEC_MODE_ZETA", 0x7004C, [], [⟨0, 32, 0, .ro, false⟩]⟩,
   ⟨"SPEC_DEF_CFG", 0x70050, [], [⟨24, 8, 0, .rw, true⟩, ⟨16, 8, 0, .rw, true⟩]⟩,
   ⟨"SPEC_DEF_MIN", 0x70054, [], [⟨0, 32, 0, .rw, true⟩]⟩,
   ⟨"SPEC_DEF_STS", 0x70060, [(4, 4)], [⟨31, 1, 0, .ro, false⟩, ⟨29, 2, 0, .ro, false⟩, ⟨21, 8, 0, .ro, false⟩, ⟨0, 13, 0, .ro, false⟩]⟩,
   ⟨"SPEC_BAND_THR", 0x70100, [(16, 16)], [⟨0, 32, 0, .rw, true⟩]⟩,
   ⟨"SPEC_BAND_CFG", 0x70104, [(16, 16)], [⟨24, 8, 0, .rw, true⟩, ⟨16, 8, 0, .rw, true⟩, ⟨8, 8, 0, .rw, true⟩, ⟨1, 1, 0, .rw, true⟩, ⟨0, 1, 0, .rw, true⟩]⟩,
   ⟨"SPEC_BAND_STS", 0x70108, [(16, 16)], [⟨31, 1, 0, .ro, false⟩, ⟨30, 1, 0, .ro, false⟩, ⟨29, 1, 0, .ro, false⟩, ⟨21, 8, 0, .ro, false⟩, ⟨0, 13, 0, .ro, false⟩]⟩,
   ⟨"SPEC_BAND_PEAK", 0x7010C, [(16, 16)], [⟨0, 32, 0, .ro, false⟩]⟩]
/-- The registers of block 0x7. -/
def regsSpec : List RegDesc := regsSpec0 ++ regsSpec1

/-- Offset of COH_CFG (R286). -/
abbrev rCOH_CFG : Nat := 0x80000
abbrev fCOH_CFG_BRANCHES : Fld := ⟨rCOH_CFG, 16, 16, 0⟩
abbrev fCOH_CFG_NODES : Fld := ⟨rCOH_CFG, 0, 14, 0⟩
/-- Offset of COH_CFG2 (R286). -/
abbrev rCOH_CFG2 : Nat := 0x80004
abbrev fCOH_CFG2_HOLD_S : Fld := ⟨rCOH_CFG2, 16, 8, 0⟩
abbrev fCOH_CFG2_REF_NODE : Fld := ⟨rCOH_CFG2, 0, 13, 0⟩
/-- Offset of COH_SPREAD_THR (R286). -/
abbrev rCOH_SPREAD_THR : Nat := 0x80008
abbrev fCOH_SPREAD_THR_THR : Fld := ⟨rCOH_SPREAD_THR, 0, 32, 0⟩
/-- Offset of COH_SPREAD_CFG (R286). -/
abbrev rCOH_SPREAD_CFG : Nat := 0x8000C
abbrev fCOH_SPREAD_CFG_PICKUP : Fld := ⟨rCOH_SPREAD_CFG, 16, 8, 0⟩
abbrev fCOH_SPREAD_CFG_HYST : Fld := ⟨rCOH_SPREAD_CFG, 0, 16, 0⟩
/-- Offset of COH_STS (R286). -/
abbrev rCOH_STS : Nat := 0x80010
abbrev fCOH_STS_ISLANDS : Fld := ⟨rCOH_STS, 16, 9, 0⟩
abbrev fCOH_STS_MAIN_ID : Fld := ⟨rCOH_STS, 0, 16, 0⟩
/-- Offset of COH_BR_STS (R286). -/
abbrev rCOH_BR_STS : Nat := 0x80014
abbrev fCOH_BR_STS_UNKNOWN : Fld := ⟨rCOH_BR_STS, 16, 16, 0⟩
abbrev fCOH_BR_STS_OPEN : Fld := ⟨rCOH_BR_STS, 0, 16, 0⟩
/-- Offset of COH_FLT (R286). -/
abbrev rCOH_FLT : Nat := 0x80018
abbrev fCOH_FLT_FLAGS : Fld := ⟨rCOH_FLT, 0, 7, 0⟩
/-- Offset of COH_TOPO_CNT (R286). -/
abbrev rCOH_TOPO_CNT : Nat := 0x8001C
abbrev fCOH_TOPO_CNT_TICKS : Fld := ⟨rCOH_TOPO_CNT, 0, 32, 0⟩
/-- Offset of COH_ECC_CNT (R286). -/
abbrev rCOH_ECC_CNT : Nat := 0x80020
abbrev fCOH_ECC_CNT_UE : Fld := ⟨rCOH_ECC_CNT, 24, 8, 0⟩
abbrev fCOH_ECC_CNT_CE : Fld := ⟨rCOH_ECC_CNT, 0, 24, 0⟩
/-- Offset of COH_NODE_SEL (R286). -/
abbrev rCOH_NODE_SEL : Nat := 0x80040
abbrev fCOH_NODE_SEL_NODE : Fld := ⟨rCOH_NODE_SEL, 0, 13, 0⟩
/-- Offset of COH_NODE_STS (R286). -/
abbrev rCOH_NODE_STS : Nat := 0x80044
abbrev fCOH_NODE_STS_ISLAND : Fld := ⟨rCOH_NODE_STS, 16, 16, 0⟩
/-- Offset of COH_BRANCH_SEL (R286). -/
abbrev rCOH_BRANCH_SEL : Nat := 0x80048
abbrev fCOH_BRANCH_SEL_BRANCH : Fld := ⟨rCOH_BRANCH_SEL, 0, 15, 0⟩
/-- Offset of COH_BRANCH_STS (R286). -/
abbrev rCOH_BRANCH_STS : Nat := 0x8004C
abbrev fCOH_BRANCH_STS_DEFAULTED : Fld := ⟨rCOH_BRANCH_STS, 7, 1, 0⟩
abbrev fCOH_BRANCH_STS_HELD : Fld := ⟨rCOH_BRANCH_STS, 6, 1, 0⟩
abbrev fCOH_BRANCH_STS_ELEC : Fld := ⟨rCOH_BRANCH_STS, 4, 2, 0⟩
abbrev fCOH_BRANCH_STS_BRK : Fld := ⟨rCOH_BRANCH_STS, 2, 2, 0⟩
abbrev fCOH_BRANCH_STS_STATE : Fld := ⟨rCOH_BRANCH_STS, 0, 2, 0⟩
/-- Registers of block 0x8, part 0 (R536). -/
def regsCoh0 : List RegDesc :=
  [⟨"COH_CFG", 0x80000, [], [⟨16, 16, 0, .ro, true⟩, ⟨0, 14, 0, .ro, true⟩]⟩,
   ⟨"COH_CFG2", 0x80004, [], [⟨16, 8, 0, .rw, true⟩, ⟨0, 13, 0, .ro, true⟩]⟩,
   ⟨"COH_SPREAD_THR", 0x80008, [], [⟨0, 32, 0, .rw, true⟩]⟩,
   ⟨"COH_SPREAD_CFG", 0x8000C, [], [⟨16, 8, 0, .rw, true⟩, ⟨0, 16, 0, .rw, true⟩]⟩,
   ⟨"COH_STS", 0x80010, [], [⟨16, 9, 0, .ro, false⟩, ⟨0, 16, 0, .ro, false⟩]⟩,
   ⟨"COH_BR_STS", 0x80014, [], [⟨16, 16, 0, .ro, false⟩, ⟨0, 16, 0, .ro, false⟩]⟩,
   ⟨"COH_FLT", 0x80018, [], [⟨0, 7, 0, .w1c, false⟩]⟩,
   ⟨"COH_TOPO_CNT", 0x8001C, [], [⟨0, 32, 0, .rc, false⟩]⟩,
   ⟨"COH_ECC_CNT", 0x80020, [], [⟨24, 8, 0, .rc, false⟩, ⟨0, 24, 0, .rc, false⟩]⟩,
   ⟨"COH_NODE_SEL", 0x80040, [], [⟨0, 13, 0, .rw, false⟩]⟩,
   ⟨"COH_NODE_STS", 0x80044, [], [⟨16, 16, 0, .ro, false⟩]⟩,
   ⟨"COH_BRANCH_SEL", 0x80048, [], [⟨0, 15, 0, .rw, false⟩]⟩]
/-- Registers of block 0x8, part 1 (R536). -/
def regsCoh1 : List RegDesc :=
  [⟨"COH_BRANCH_STS", 0x8004C, [], [⟨7, 1, 0, .ro, false⟩, ⟨6, 1, 0, .ro, false⟩, ⟨4, 2, 0, .ro, false⟩, ⟨2, 2, 0, .ro, false⟩, ⟨0, 2, 0, .ro, false⟩]⟩]
/-- The registers of block 0x8. -/
def regsCoh : List RegDesc := regsCoh0 ++ regsCoh1

/-- Offset of ALM_CFG (R287). -/
abbrev rALM_CFG : Nat := 0x90000
abbrev fALM_CFG_DESTS : Fld := ⟨rALM_CFG, 16, 5, 0⟩
abbrev fALM_CFG_GOCBS : Fld := ⟨rALM_CFG, 11, 5, 0⟩
abbrev fALM_CFG_ALARMS : Fld := ⟨rALM_CFG, 0, 11, 0⟩
/-- Offset of ALM_STS (R287). -/
abbrev rALM_STS : Nat := 0x90004
abbrev fALM_STS_AUTH : Fld := ⟨rALM_STS, 31, 1, 0⟩
abbrev fALM_STS_RAISED : Fld := ⟨rALM_STS, 16, 11, 0⟩
abbrev fALM_STS_LATCHED : Fld := ⟨rALM_STS, 0, 11, 0⟩
/-- Offset of ALM_FLT (R287). -/
abbrev rALM_FLT : Nat := 0x90008
abbrev fALM_FLT_FLAGS : Fld := ⟨rALM_FLT, 0, 8, 0⟩
/-- Offset of ALM_G0_CFG (R287). -/
abbrev rALM_G0_CFG : Nat := 0x9000C
abbrev fALM_G0_CFG_TX_BOUND : Fld := ⟨rALM_G0_CFG, 16, 16, 0⟩
abbrev fALM_G0_CFG_PIO_BOUND : Fld := ⟨rALM_G0_CFG, 0, 16, 0⟩
/-- Offset of ALM_G0_STS (R287). -/
abbrev rALM_G0_STS : Nat := 0x90010
abbrev fALM_G0_STS_TX_MAX : Fld := ⟨rALM_G0_STS, 16, 16, 0⟩
abbrev fALM_G0_STS_TX_LAST : Fld := ⟨rALM_G0_STS, 0, 16, 0⟩
/-- Offset of ALM_G0_PIO_STS (R287). -/
abbrev rALM_G0_PIO_STS : Nat := 0x90014
abbrev fALM_G0_PIO_STS_PIO_MAX : Fld := ⟨rALM_G0_PIO_STS, 16, 16, 0⟩
abbrev fALM_G0_PIO_STS_PIO_LAST : Fld := ⟨rALM_G0_PIO_STS, 0, 16, 0⟩
/-- Offset of ALM_CTL (R287). -/
abbrev rALM_CTL : Nat := 0x90018
abbrev fALM_CTL_MAX_CLR : Fld := ⟨rALM_CTL, 0, 1, 0⟩
/-- Offset of ALM_ACK (R287). -/
abbrev rALM_ACK : Nat := 0x90020
abbrev fALM_ACK_ALL : Fld := ⟨rALM_ACK, 31, 1, 0⟩
abbrev fALM_ACK_ID : Fld := ⟨rALM_ACK, 0, 11, 0⟩
/-- Offset of ALM_INH_SEL (R287). -/
abbrev rALM_INH_SEL : Nat := 0x90024
abbrev fALM_INH_SEL_WORD : Fld := ⟨rALM_INH_SEL, 0, 5, 0⟩
/-- Offset of ALM_INH (R287). -/
abbrev rALM_INH : Nat := 0x90028
abbrev fALM_INH_BITS : Fld := ⟨rALM_INH, 0, 32, 0⟩
/-- Offset of ALM_SEL (R288). -/
abbrev rALM_SEL : Nat := 0x90030
abbrev fALM_SEL_ID : Fld := ⟨rALM_SEL, 0, 11, 0⟩
/-- Offset of ALM_ALARM_STS (R288). -/
abbrev rALM_ALARM_STS : Nat := 0x90034
abbrev fALM_ALARM_STS_CLASS : Fld := ⟨rALM_ALARM_STS, 30, 2, 0⟩
abbrev fALM_ALARM_STS_STATE : Fld := ⟨rALM_ALARM_STS, 28, 2, 0⟩
abbrev fALM_ALARM_STS_ACKED : Fld := ⟨rALM_ALARM_STS, 27, 1, 0⟩
abbrev fALM_ALARM_STS_INHIBITED : Fld := ⟨rALM_ALARM_STS, 26, 1, 0⟩
abbrev fALM_ALARM_STS_MISSING_IN : Fld := ⟨rALM_ALARM_STS, 25, 1, 0⟩
abbrev fALM_ALARM_STS_STALE : Fld := ⟨rALM_ALARM_STS, 24, 1, 0⟩
abbrev fALM_ALARM_STS_KIND : Fld := ⟨rALM_ALARM_STS, 16, 8, 0⟩
abbrev fALM_ALARM_STS_DESTS : Fld := ⟨rALM_ALARM_STS, 0, 8, 0⟩
/-- Offset of ALM_ALARM_SINCE_LO (R288). -/
abbrev rALM_ALARM_SINCE_LO : Nat := 0x90038
abbrev fALM_ALARM_SINCE_LO_LO : Fld := ⟨rALM_ALARM_SINCE_LO, 0, 32, 0⟩
/-- Offset of ALM_ALARM_SINCE_HI (R288). -/
abbrev rALM_ALARM_SINCE_HI : Nat := 0x9003C
abbrev fALM_ALARM_SINCE_HI_HI : Fld := ⟨rALM_ALARM_SINCE_HI, 0, 32, 0⟩
/-- Offset of ALM_RAISE_CNT (R288). -/
abbrev rALM_RAISE_CNT : Nat := 0x90040
abbrev fALM_RAISE_CNT_ENTRIES : Fld := ⟨rALM_RAISE_CNT, 0, 32, 0⟩
/-- Offset of ALM_CLEAR_CNT (R288). -/
abbrev rALM_CLEAR_CNT : Nat := 0x90044
abbrev fALM_CLEAR_CNT_ENTRIES : Fld := ⟨rALM_CLEAR_CNT, 0, 32, 0⟩
/-- Offset of ALM_FRAME_CNT (R288). -/
abbrev rALM_FRAME_CNT : Nat := 0x90048
abbrev fALM_FRAME_CNT_FRAMES : Fld := ⟨rALM_FRAME_CNT, 0, 32, 0⟩
/-- Offset of ALM_G0_FRAME_CNT (R288). -/
abbrev rALM_G0_FRAME_CNT : Nat := 0x9004C
abbrev fALM_G0_FRAME_CNT_FRAMES : Fld := ⟨rALM_G0_FRAME_CNT, 0, 32, 0⟩
/-- Offset of ALM_DROP_CNT (R288). -/
abbrev rALM_DROP_CNT : Nat := 0x90050
abbrev fALM_DROP_CNT_FRAMES : Fld := ⟨rALM_DROP_CNT, 0, 32, 0⟩
/-- Offset of ALM_GOOSE_CNT (R288). -/
abbrev rALM_GOOSE_CNT : Nat := 0x90054
abbrev fALM_GOOSE_CNT_FRAMES : Fld := ⟨rALM_GOOSE_CNT, 0, 32, 0⟩
/-- Offset of ALM_DEST_STS_d (R288). -/
abbrev rALM_DEST_STS (i : Nat) : Nat := 0x90080 + 4 * i
abbrev fALM_DEST_STS_RESOLVED (i : Nat) : Fld := ⟨(rALM_DEST_STS i), 31, 1, 0⟩
abbrev fALM_DEST_STS_LINK (i : Nat) : Fld := ⟨(rALM_DEST_STS i), 30, 1, 0⟩
abbrev fALM_DEST_STS_PORT (i : Nat) : Fld := ⟨(rALM_DEST_STS i), 24, 6, 0⟩
/-- Offset of ALM_GO_ST_c (R288). -/
abbrev rALM_GO_ST (i : Nat) : Nat := 0x900C0 + 8 * i
abbrev fALM_GO_ST_STNUM (i : Nat) : Fld := ⟨(rALM_GO_ST i), 0, 32, 0⟩
/-- Offset of ALM_GO_SQ_c (R288). -/
abbrev rALM_GO_SQ (i : Nat) : Nat := 0x900C4 + 8 * i
abbrev fALM_GO_SQ_SQNUM (i : Nat) : Fld := ⟨(rALM_GO_SQ i), 0, 32, 0⟩
/-- Registers of block 0x9, part 0 (R536). -/
def regsAlm0 : List RegDesc :=
  [⟨"ALM_CFG", 0x90000, [], [⟨16, 5, 0, .ro, true⟩, ⟨11, 5, 0, .ro, true⟩, ⟨0, 11, 0, .ro, true⟩]⟩,
   ⟨"ALM_STS", 0x90004, [], [⟨31, 1, 0, .ro, false⟩, ⟨16, 11, 0, .ro, false⟩, ⟨0, 11, 0, .ro, false⟩]⟩,
   ⟨"ALM_FLT", 0x90008, [], [⟨0, 8, 0, .w1c, false⟩]⟩,
   ⟨"ALM_G0_CFG", 0x9000C, [], [⟨16, 16, 0, .ro, true⟩, ⟨0, 16, 0, .ro, true⟩]⟩,
   ⟨"ALM_G0_STS", 0x90010, [], [⟨16, 16, 0, .ro, false⟩, ⟨0, 16, 0, .ro, false⟩]⟩,
   ⟨"ALM_G0_PIO_STS", 0x90014, [], [⟨16, 16, 0, .ro, false⟩, ⟨0, 16, 0, .ro, false⟩]⟩,
   ⟨"ALM_CTL", 0x90018, [], [⟨0, 1, 0, .wo, false⟩]⟩,
   ⟨"ALM_ACK", 0x90020, [], [⟨31, 1, 0, .wo, false⟩, ⟨0, 11, 0, .wo, false⟩]⟩,
   ⟨"ALM_INH_SEL", 0x90024, [], [⟨0, 5, 0, .rw, false⟩]⟩,
   ⟨"ALM_INH", 0x90028, [], [⟨0, 32, 0, .rw, false⟩]⟩,
   ⟨"ALM_SEL", 0x90030, [], [⟨0, 11, 0, .rw, false⟩]⟩,
   ⟨"ALM_ALARM_STS", 0x90034, [], [⟨30, 2, 0, .ro, false⟩, ⟨28, 2, 0, .ro, false⟩, ⟨27, 1, 0, .ro, false⟩, ⟨26, 1, 0, .ro, false⟩, ⟨25, 1, 0, .ro, false⟩, ⟨24, 1, 0, .ro, false⟩, ⟨16, 8, 0, .ro, false⟩, ⟨0, 8, 0, .ro, false⟩]⟩]
/-- Registers of block 0x9, part 1 (R536). -/
def regsAlm1 : List RegDesc :=
  [⟨"ALM_ALARM_SINCE_LO", 0x90038, [], [⟨0, 32, 0, .ro, false⟩]⟩,
   ⟨"ALM_ALARM_SINCE_HI", 0x9003C, [], [⟨0, 32, 0, .ro, false⟩]⟩,
   ⟨"ALM_RAISE_CNT", 0x90040, [], [⟨0, 32, 0, .rc, false⟩]⟩,
   ⟨"ALM_CLEAR_CNT", 0x90044, [], [⟨0, 32, 0, .rc, false⟩]⟩,
   ⟨"ALM_FRAME_CNT", 0x90048, [], [⟨0, 32, 0, .rc, false⟩]⟩,
   ⟨"ALM_G0_FRAME_CNT", 0x9004C, [], [⟨0, 32, 0, .rc, false⟩]⟩,
   ⟨"ALM_DROP_CNT", 0x90050, [], [⟨0, 32, 0, .rc, false⟩]⟩,
   ⟨"ALM_GOOSE_CNT", 0x90054, [], [⟨0, 32, 0, .rc, false⟩]⟩,
   ⟨"ALM_DEST_STS", 0x90080, [(4, 8)], [⟨31, 1, 0, .ro, false⟩, ⟨30, 1, 0, .ro, false⟩, ⟨24, 6, 0, .ro, true⟩]⟩,
   ⟨"ALM_GO_ST", 0x900C0, [(8, 16)], [⟨0, 32, 0, .ro, false⟩]⟩,
   ⟨"ALM_GO_SQ", 0x900C4, [(8, 16)], [⟨0, 32, 0, .ro, false⟩]⟩]
/-- The registers of block 0x9. -/
def regsAlm : List RegDesc := regsAlm0 ++ regsAlm1

/-- Offset of ACC_CFG (R310). -/
abbrev rACC_CFG : Nat := 0xA0000
abbrev fACC_CFG_PULSES : Fld := ⟨rACC_CFG, 28, 4, 0⟩
abbrev fACC_CFG_BRANCHES : Fld := ⟨rACC_CFG, 14, 14, 0⟩
abbrev fACC_CFG_CUTSETS : Fld := ⟨rACC_CFG, 0, 10, 0⟩
/-- Offset of ACC_STS (R310). -/
abbrev rACC_STS : Nat := 0xA0004
abbrev fACC_STS_PENDING : Fld := ⟨rACC_STS, 16, 16, 0⟩
abbrev fACC_STS_COMMIT_BUSY : Fld := ⟨rACC_STS, 2, 1, 0⟩
abbrev fACC_STS_RESTORED : Fld := ⟨rACC_STS, 1, 1, 0⟩
abbrev fACC_STS_RUNNING : Fld := ⟨rACC_STS, 0, 1, 0⟩
/-- Offset of ACC_FLT (R310). -/
abbrev rACC_FLT : Nat := 0xA0008
abbrev fACC_FLT_FLAGS : Fld := ⟨rACC_FLT, 0, 11, 0⟩
/-- Offset of ACC_COMMIT_STS (R310). -/
abbrev rACC_COMMIT_STS : Nat := 0xA000C
abbrev fACC_COMMIT_STS_SLOT : Fld := ⟨rACC_COMMIT_STS, 29, 3, 0⟩
abbrev fACC_COMMIT_STS_KIND : Fld := ⟨rACC_COMMIT_STS, 26, 3, 0⟩
/-- Offset of ACC_COMMIT_TICK_LO (R310). -/
abbrev rACC_COMMIT_TICK_LO : Nat := 0xA0010
abbrev fACC_COMMIT_TICK_LO_N_LO : Fld := ⟨rACC_COMMIT_TICK_LO, 0, 32, 0⟩
/-- Offset of ACC_COMMIT_TICK_HI (R310). -/
abbrev rACC_COMMIT_TICK_HI : Nat := 0xA0014
abbrev fACC_COMMIT_TICK_HI_N_HI : Fld := ⟨rACC_COMMIT_TICK_HI, 0, 32, 0⟩
/-- Offset of ACC_RESTORE_STS (R310). -/
abbrev rACC_RESTORE_STS : Nat := 0xA0018
abbrev fACC_RESTORE_STS_SLOT : Fld := ⟨rACC_RESTORE_STS, 29, 3, 0⟩
abbrev fACC_RESTORE_STS_KIND : Fld := ⟨rACC_RESTORE_STS, 26, 3, 0⟩
abbrev fACC_RESTORE_STS_CASE : Fld := ⟨rACC_RESTORE_STS, 24, 2, 3⟩
/-- Offset of ACC_CATCH_CNT (R310). -/
abbrev rACC_CATCH_CNT : Nat := 0xA0020
abbrev fACC_CATCH_CNT_INTERVALS : Fld := ⟨rACC_CATCH_CNT, 0, 32, 0⟩
/-- Offset of ACC_MISS_CNT (R310). -/
abbrev rACC_MISS_CNT : Nat := 0xA0024
abbrev fACC_MISS_CNT_INTERVALS : Fld := ⟨rACC_MISS_CNT, 0, 32, 0⟩
/-- Offset of ACC_COMMIT_CNT (R310). -/
abbrev rACC_COMMIT_CNT : Nat := 0xA0028
abbrev fACC_COMMIT_CNT_COMMITS : Fld := ⟨rACC_COMMIT_CNT, 0, 32, 0⟩
/-- Offset of ACC_COMMITF_CNT (R310). -/
abbrev rACC_COMMITF_CNT : Nat := 0xA002C
abbrev fACC_COMMITF_CNT_COMMITS : Fld := ⟨rACC_COMMITF_CNT, 0, 32, 0⟩
/-- Offset of ACC_ECC_CNT (R310). -/
abbrev rACC_ECC_CNT : Nat := 0xA0030
abbrev fACC_ECC_CNT_UE : Fld := ⟨rACC_ECC_CNT, 24, 8, 0⟩
abbrev fACC_ECC_CNT_CE : Fld := ⟨rACC_ECC_CNT, 0, 24, 0⟩
/-- Offset of ACC_SEL (R311). -/
abbrev rACC_SEL : Nat := 0xA0040
abbrev fACC_SEL_CUT : Fld := ⟨rACC_SEL, 0, 9, 0⟩
/-- Offset of ACC_TICK_LO (R311). -/
abbrev rACC_TICK_LO : Nat := 0xA0044
abbrev fACC_TICK_LO_N_LO : Fld := ⟨rACC_TICK_LO, 0, 32, 0⟩
/-- Offset of ACC_TICK_HI (R311). -/
abbrev rACC_TICK_HI : Nat := 0xA0048
abbrev fACC_TICK_HI_N_HI : Fld := ⟨rACC_TICK_HI, 0, 32, 0⟩
/-- Offset of ACC_CS_STS (R311). -/
abbrev rACC_CS_STS : Nat := 0xA004C
abbrev fACC_CS_STS_MODE : Fld := ⟨rACC_CS_STS, 31, 1, 0⟩
abbrev fACC_CS_STS_PMISS : Fld := ⟨rACC_CS_STS, 30, 1, 0⟩
abbrev fACC_CS_STS_PENDING : Fld := ⟨rACC_CS_STS, 24, 6, 0⟩
/-- Offset of ACC_CS_P (R311). -/
abbrev rACC_CS_P : Nat := 0xA0050
abbrev fACC_CS_P_P : Fld := ⟨rACC_CS_P, 0, 32, 0⟩
/-- Offset of ACC_CS_Q (R311). -/
abbrev rACC_CS_Q : Nat := 0xA0054
abbrev fACC_CS_Q_Q : Fld := ⟨rACC_CS_Q, 0, 32, 0⟩
/-- Offset of ACC_UNACC_LO (R311). -/
abbrev rACC_UNACC_LO : Nat := 0xA0058
abbrev fACC_UNACC_LO_LO : Fld := ⟨rACC_UNACC_LO, 0, 32, 0⟩
/-- Offset of ACC_UNACC_HI (R311). -/
abbrev rACC_UNACC_HI : Nat := 0xA005C
abbrev fACC_UNACC_HI_HI : Fld := ⟨rACC_UNACC_HI, 0, 32, 0⟩
/-- Offset of ACC_DOWN_LO (R311). -/
abbrev rACC_DOWN_LO : Nat := 0xA0060
abbrev fACC_DOWN_LO_LO : Fld := ⟨rACC_DOWN_LO, 0, 32, 0⟩
/-- Offset of ACC_DOWN_HI (R311). -/
abbrev rACC_DOWN_HI : Nat := 0xA0064
abbrev fACC_DOWN_HI_HI : Fld := ⟨rACC_DOWN_HI, 0, 32, 0⟩
/-- Offset of ACC_AIMP_Wk (R311). -/
abbrev rACC_AIMP_W (i : Nat) : Nat := 0xA0070 + 4 * i
abbrev fACC_AIMP_W_AIMP (i : Nat) : Fld := ⟨(rACC_AIMP_W i), 0, 32, 0⟩
/-- Offset of ACC_AEXP_Wk (R311). -/
abbrev rACC_AEXP_W (i : Nat) : Nat := 0xA0080 + 4 * i
abbrev fACC_AEXP_W_AEXP (i : Nat) : Fld := ⟨(rACC_AEXP_W i), 0, 32, 0⟩
/-- Offset of ACC_ANET_Wk (R311). -/
abbrev rACC_ANET_W (i : Nat) : Nat := 0xA0090 + 4 * i
abbrev fACC_ANET_W_ANET (i : Nat) : Fld := ⟨(rACC_ANET_W i), 0, 32, 0⟩
/-- Offset of ACC_RIMP_Wk (R311). -/
abbrev rACC_RIMP_W (i : Nat) : Nat := 0xA00A0 + 4 * i
abbrev fACC_RIMP_W_RIMP (i : Nat) : Fld := ⟨(rACC_RIMP_W i), 0, 32, 0⟩
/-- Offset of ACC_REXP_Wk (R311). -/
abbrev rACC_REXP_W (i : Nat) : Nat := 0xA00B0 + 4 * i
abbrev fACC_REXP_W_REXP (i : Nat) : Fld := ⟨(rACC_REXP_W i), 0, 32, 0⟩
/-- Offset of ACC_EST_Wk (R311). -/
abbrev rACC_EST_W (i : Nat) : Nat := 0xA00C0 + 4 * i
abbrev fACC_EST_W_EST (i : Nat) : Fld := ⟨(rACC_EST_W i), 0, 32, 0⟩
/-- Offset of ACC_PLS_CFG_k (R312). -/
abbrev rACC_PLS_CFG (i : Nat) : Nat := 0xA0200 + 16 * i
abbrev fACC_PLS_CFG_OWNED (i : Nat) : Fld := ⟨(rACC_PLS_CFG i), 31, 1, 0⟩
abbrev fACC_PLS_CFG_PIN (i : Nat) : Fld := ⟨(rACC_PLS_CFG i), 27, 4, 0⟩
abbrev fACC_PLS_CFG_REG (i : Nat) : Fld := ⟨(rACC_PLS_CFG i), 25, 2, 0⟩
abbrev fACC_PLS_CFG_CUT (i : Nat) : Fld := ⟨(rACC_PLS_CFG i), 16, 9, 0⟩
abbrev fACC_PLS_CFG_W_SET_MS (i : Nat) : Fld := ⟨(rACC_PLS_CFG i), 8, 8, 0⟩
abbrev fACC_PLS_CFG_W_MIN_MS (i : Nat) : Fld := ⟨(rACC_PLS_CFG i), 0, 8, 0⟩
/-- Offset of ACC_PLS_WT_k (R312). -/
abbrev rACC_PLS_WT (i : Nat) : Nat := 0xA0204 + 16 * i
abbrev fACC_PLS_WT_WEIGHT (i : Nat) : Fld := ⟨(rACC_PLS_WT i), 0, 32, 0⟩
/-- Offset of ACC_PLS_STS_k (R312). -/
abbrev rACC_PLS_STS (i : Nat) : Nat := 0xA0208 + 16 * i
abbrev fACC_PLS_STS_PULSES (i : Nat) : Fld := ⟨(rACC_PLS_STS i), 16, 16, 0⟩
abbrev fACC_PLS_STS_WIDTH_MS (i : Nat) : Fld := ⟨(rACC_PLS_STS i), 8, 8, 0⟩
abbrev fACC_PLS_STS_DRIVEN (i : Nat) : Fld := ⟨(rACC_PLS_STS i), 1, 1, 0⟩
abbrev fACC_PLS_STS_LEVEL (i : Nat) : Fld := ⟨(rACC_PLS_STS i), 0, 1, 0⟩
/-- Offset of ACC_PLS_OWED_k (R312). -/
abbrev rACC_PLS_OWED (i : Nat) : Nat := 0xA020C + 16 * i
abbrev fACC_PLS_OWED_OWED (i : Nat) : Fld := ⟨(rACC_PLS_OWED i), 0, 32, 0⟩
/-- Registers of block 0xA, part 0 (R536). -/
def regsAcc0 : List RegDesc :=
  [⟨"ACC_CFG", 0xA0000, [], [⟨28, 4, 0, .ro, true⟩, ⟨14, 14, 0, .ro, true⟩, ⟨0, 10, 0, .ro, true⟩]⟩,
   ⟨"ACC_STS", 0xA0004, [], [⟨16, 16, 0, .ro, false⟩, ⟨2, 1, 0, .ro, false⟩, ⟨1, 1, 0, .ro, false⟩, ⟨0, 1, 0, .ro, false⟩]⟩,
   ⟨"ACC_FLT", 0xA0008, [], [⟨0, 11, 0, .w1c, false⟩]⟩,
   ⟨"ACC_COMMIT_STS", 0xA000C, [], [⟨29, 3, 0, .ro, false⟩, ⟨26, 3, 0, .ro, false⟩]⟩,
   ⟨"ACC_COMMIT_TICK_LO", 0xA0010, [], [⟨0, 32, 0, .ro, false⟩]⟩,
   ⟨"ACC_COMMIT_TICK_HI", 0xA0014, [], [⟨0, 32, 0, .ro, false⟩]⟩,
   ⟨"ACC_RESTORE_STS", 0xA0018, [], [⟨29, 3, 0, .ro, false⟩, ⟨26, 3, 0, .ro, false⟩, ⟨24, 2, 3, .ro, false⟩]⟩,
   ⟨"ACC_CATCH_CNT", 0xA0020, [], [⟨0, 32, 0, .rc, false⟩]⟩,
   ⟨"ACC_MISS_CNT", 0xA0024, [], [⟨0, 32, 0, .rc, false⟩]⟩,
   ⟨"ACC_COMMIT_CNT", 0xA0028, [], [⟨0, 32, 0, .rc, false⟩]⟩,
   ⟨"ACC_COMMITF_CNT", 0xA002C, [], [⟨0, 32, 0, .rc, false⟩]⟩,
   ⟨"ACC_ECC_CNT", 0xA0030, [], [⟨24, 8, 0, .rc, false⟩, ⟨0, 24, 0, .rc, false⟩]⟩]
/-- Registers of block 0xA, part 1 (R536). -/
def regsAcc1 : List RegDesc :=
  [⟨"ACC_SEL", 0xA0040, [], [⟨0, 9, 0, .rw, false⟩]⟩,
   ⟨"ACC_TICK_LO", 0xA0044, [], [⟨0, 32, 0, .ro, false⟩]⟩,
   ⟨"ACC_TICK_HI", 0xA0048, [], [⟨0, 32, 0, .ro, false⟩]⟩,
   ⟨"ACC_CS_STS", 0xA004C, [], [⟨31, 1, 0, .ro, false⟩, ⟨30, 1, 0, .ro, false⟩, ⟨24, 6, 0, .ro, false⟩]⟩,
   ⟨"ACC_CS_P", 0xA0050, [], [⟨0, 32, 0, .ro, false⟩]⟩,
   ⟨"ACC_CS_Q", 0xA0054, [], [⟨0, 32, 0, .ro, false⟩]⟩,
   ⟨"ACC_UNACC_LO", 0xA0058, [], [⟨0, 32, 0, .ro, false⟩]⟩,
   ⟨"ACC_UNACC_HI", 0xA005C, [], [⟨0, 32, 0, .ro, false⟩]⟩,
   ⟨"ACC_DOWN_LO", 0xA0060, [], [⟨0, 32, 0, .ro, false⟩]⟩,
   ⟨"ACC_DOWN_HI", 0xA0064, [], [⟨0, 32, 0, .ro, false⟩]⟩,
   ⟨"ACC_AIMP_W", 0xA0070, [(4, 3)], [⟨0, 32, 0, .ro, false⟩]⟩,
   ⟨"ACC_AEXP_W", 0xA0080, [(4, 3)], [⟨0, 32, 0, .ro, false⟩]⟩]
/-- Registers of block 0xA, part 2 (R536). -/
def regsAcc2 : List RegDesc :=
  [⟨"ACC_ANET_W", 0xA0090, [(4, 3)], [⟨0, 32, 0, .ro, false⟩]⟩,
   ⟨"ACC_RIMP_W", 0xA00A0, [(4, 3)], [⟨0, 32, 0, .ro, false⟩]⟩,
   ⟨"ACC_REXP_W", 0xA00B0, [(4, 3)], [⟨0, 32, 0, .ro, false⟩]⟩,
   ⟨"ACC_EST_W", 0xA00C0, [(4, 3)], [⟨0, 32, 0, .ro, false⟩]⟩,
   ⟨"ACC_PLS_CFG", 0xA0200, [(16, 8)], [⟨31, 1, 0, .ro, true⟩, ⟨27, 4, 0, .ro, true⟩, ⟨25, 2, 0, .ro, true⟩, ⟨16, 9, 0, .ro, true⟩, ⟨8, 8, 0, .rw, true⟩, ⟨0, 8, 0, .rw, true⟩]⟩,
   ⟨"ACC_PLS_WT", 0xA0204, [(16, 8)], [⟨0, 32, 0, .ro, true⟩]⟩,
   ⟨"ACC_PLS_STS", 0xA0208, [(16, 8)], [⟨16, 16, 0, .ro, false⟩, ⟨8, 8, 0, .ro, false⟩, ⟨1, 1, 0, .ro, false⟩, ⟨0, 1, 0, .ro, false⟩]⟩,
   ⟨"ACC_PLS_OWED", 0xA020C, [(16, 8)], [⟨0, 32, 0, .ro, false⟩]⟩]
/-- The registers of block 0xA. -/
def regsAcc : List RegDesc := regsAcc0 ++ regsAcc1 ++ regsAcc2

/-- Offset of EGR_CFG (R339). -/
abbrev rEGR_CFG : Nat := 0xB0000
abbrev fEGR_CFG_AMD_SLOTS : Fld := ⟨rEGR_CFG, 24, 3, 0⟩
abbrev fEGR_CFG_RAW : Fld := ⟨rEGR_CFG, 8, 7, 0⟩
abbrev fEGR_CFG_STREAMS : Fld := ⟨rEGR_CFG, 0, 7, 0⟩
/-- Offset of EGR_BP_CFG (R339). -/
abbrev rEGR_BP_CFG : Nat := 0xB0004
abbrev fEGR_BP_CFG_BP_US : Fld := ⟨rEGR_BP_CFG, 0, 12, 500⟩
/-- Offset of EGR_STS (R339). -/
abbrev rEGR_STS : Nat := 0xB0008
abbrev fEGR_STS_NOTICES : Fld := ⟨rEGR_STS, 16, 9, 0⟩
abbrev fEGR_STS_ON : Fld := ⟨rEGR_STS, 0, 7, 0⟩
/-- Offset of EGR_FLT (R339). -/
abbrev rEGR_FLT : Nat := 0xB000C
abbrev fEGR_FLT_FLAGS : Fld := ⟨rEGR_FLT, 0, 11, 0⟩
/-- Offset of EGR_FRAME_CNT (R339). -/
abbrev rEGR_FRAME_CNT : Nat := 0xB0020
abbrev fEGR_FRAME_CNT_FRAMES : Fld := ⟨rEGR_FRAME_CNT, 0, 32, 0⟩
/-- Offset of EGR_AMEND_CNT (R339). -/
abbrev rEGR_AMEND_CNT : Nat := 0xB0024
abbrev fEGR_AMEND_CNT_FRAMES : Fld := ⟨rEGR_AMEND_CNT, 0, 32, 0⟩
/-- Offset of EGR_REFUSE_CNT (R339). -/
abbrev rEGR_REFUSE_CNT : Nat := 0xB0028
abbrev fEGR_REFUSE_CNT_FRAMES : Fld := ⟨rEGR_REFUSE_CNT, 0, 32, 0⟩
/-- Offset of EGR_QDROP_CNT (R339). -/
abbrev rEGR_QDROP_CNT : Nat := 0xB002C
abbrev fEGR_QDROP_CNT_FRAMES : Fld := ⟨rEGR_QDROP_CNT, 0, 32, 0⟩
/-- Offset of EGR_AGED_CNT (R339). -/
abbrev rEGR_AGED_CNT : Nat := 0xB0030
abbrev fEGR_AGED_CNT_FRAMES : Fld := ⟨rEGR_AGED_CNT, 0, 32, 0⟩
/-- Offset of EGR_AMDLOST_CNT (R339). -/
abbrev rEGR_AMDLOST_CNT : Nat := 0xB0034
abbrev fEGR_AMDLOST_CNT_NOTICES : Fld := ⟨rEGR_AMDLOST_CNT, 0, 32, 0⟩
/-- Offset of EGR_SAT_CNT (R339). -/
abbrev rEGR_SAT_CNT : Nat := 0xB0038
abbrev fEGR_SAT_CNT_ELEMENTS : Fld := ⟨rEGR_SAT_CNT, 0, 32, 0⟩
/-- Offset of EGR_CMD_CNT (R339). -/
abbrev rEGR_CMD_CNT : Nat := 0xB003C
abbrev fEGR_CMD_CNT_BAD : Fld := ⟨rEGR_CMD_CNT, 16, 16, 0⟩
abbrev fEGR_CMD_CNT_OK : Fld := ⟨rEGR_CMD_CNT, 0, 16, 0⟩
/-- Offset of EGR_CFGTX_CNT (R339). -/
abbrev rEGR_CFGTX_CNT : Nat := 0xB0040
abbrev fEGR_CFGTX_CNT_FRAMES : Fld := ⟨rEGR_CFGTX_CNT, 0, 32, 0⟩
/-- Offset of EGR_STRM_SEL (R340). -/
abbrev rEGR_STRM_SEL : Nat := 0xB0060
abbrev fEGR_STRM_SEL_STREAM : Fld := ⟨rEGR_STRM_SEL, 0, 6, 0⟩
/-- Offset of EGR_STRM_STS (R340). -/
abbrev rEGR_STRM_STS : Nat := 0xB0064
abbrev fEGR_STRM_STS_FORMAT : Fld := ⟨rEGR_STRM_STS, 30, 2, 0⟩
abbrev fEGR_STRM_STS_DECIM : Fld := ⟨rEGR_STRM_STS, 28, 2, 0⟩
abbrev fEGR_STRM_STS_D : Fld := ⟨rEGR_STRM_STS, 23, 5, 0⟩
abbrev fEGR_STRM_STS_AMEND : Fld := ⟨rEGR_STRM_STS, 22, 1, 0⟩
abbrev fEGR_STRM_STS_ON : Fld := ⟨rEGR_STRM_STS, 16, 4, 0⟩
abbrev fEGR_STRM_STS_IDCODE : Fld := ⟨rEGR_STRM_STS, 0, 16, 0⟩
/-- Offset of EGR_STRM_TICK_LO (R340). -/
abbrev rEGR_STRM_TICK_LO : Nat := 0xB0068
abbrev fEGR_STRM_TICK_LO_N_LO : Fld := ⟨rEGR_STRM_TICK_LO, 0, 32, 0⟩
/-- Offset of EGR_STRM_TICK_HI (R340). -/
abbrev rEGR_STRM_TICK_HI : Nat := 0xB006C
abbrev fEGR_STRM_TICK_HI_N_HI : Fld := ⟨rEGR_STRM_TICK_HI, 0, 32, 0⟩
/-- Offset of EGR_STRM_TX_STS (R340). -/
abbrev rEGR_STRM_TX_STS : Nat := 0xB0070
abbrev fEGR_STRM_TX_STS_NS32 : Fld := ⟨rEGR_STRM_TX_STS, 0, 32, 0⟩
/-- Offset of EGR_STRM_FRAME_CNT (R340). -/
abbrev rEGR_STRM_FRAME_CNT : Nat := 0xB0074
abbrev fEGR_STRM_FRAME_CNT_FRAMES : Fld := ⟨rEGR_STRM_FRAME_CNT, 0, 32, 0⟩
/-- Offset of EGR_STRM_DROP_CNT (R340). -/
abbrev rEGR_STRM_DROP_CNT : Nat := 0xB0078
abbrev fEGR_STRM_DROP_CNT_FRAMES : Fld := ⟨rEGR_STRM_DROP_CNT, 0, 32, 0⟩
/-- Offset of EGR_RING_BASE_LO_r (R341). -/
abbrev rEGR_RING_BASE_LO (i : Nat) : Nat := 0xB1000 + 32 * i
abbrev fEGR_RING_BASE_LO_LO (i : Nat) : Fld := ⟨(rEGR_RING_BASE_LO i), 0, 32, 0⟩
/-- Offset of EGR_RING_BASE_HI_r (R341). -/
abbrev rEGR_RING_BASE_HI (i : Nat) : Nat := 0xB1004 + 32 * i
abbrev fEGR_RING_BASE_HI_HI (i : Nat) : Fld := ⟨(rEGR_RING_BASE_HI i), 0, 32, 0⟩
/-- Offset of EGR_RING_CFG_r (R341). -/
abbrev rEGR_RING_CFG (i : Nat) : Nat := 0xB1008 + 32 * i
abbrev fEGR_RING_CFG_EN (i : Nat) : Fld := ⟨(rEGR_RING_CFG i), 31, 1, 0⟩
abbrev fEGR_RING_CFG_LOG2_SIZE (i : Nat) : Fld := ⟨(rEGR_RING_CFG i), 12, 4, 4⟩
abbrev fEGR_RING_CFG_VEC (i : Nat) : Fld := ⟨(rEGR_RING_CFG i), 0, 6, 0⟩
/-- Offset of EGR_RING_PROD_r (R341). -/
abbrev rEGR_RING_PROD (i : Nat) : Nat := 0xB100C + 32 * i
abbrev fEGR_RING_PROD_PROD (i : Nat) : Fld := ⟨(rEGR_RING_PROD i), 0, 13, 0⟩
/-- Offset of EGR_RING_CONS_r (R341). -/
abbrev rEGR_RING_CONS (i : Nat) : Nat := 0xB1010 + 32 * i
abbrev fEGR_RING_CONS_CONS (i : Nat) : Fld := ⟨(rEGR_RING_CONS i), 0, 13, 0⟩
/-- Offset of EGR_RING_DROP_CNT_r (R341). -/
abbrev rEGR_RING_DROP_CNT (i : Nat) : Nat := 0xB1014 + 32 * i
abbrev fEGR_RING_DROP_CNT_DROPS (i : Nat) : Fld := ⟨(rEGR_RING_DROP_CNT i), 0, 32, 0⟩
/-- Offset of EGR_RING_STS_r (R341). -/
abbrev rEGR_RING_STS (i : Nat) : Nat := 0xB1018 + 32 * i
abbrev fEGR_RING_STS_FAULT (i : Nat) : Fld := ⟨(rEGR_RING_STS i), 1, 1, 0⟩
abbrev fEGR_RING_STS_RUN (i : Nat) : Fld := ⟨(rEGR_RING_STS i), 0, 1, 0⟩
/-- Registers of block 0xB, part 0 (R536). -/
def regsEgr0 : List RegDesc :=
  [⟨"EGR_CFG", 0xB0000, [], [⟨24, 3, 0, .ro, true⟩, ⟨8, 7, 0, .ro, true⟩, ⟨0, 7, 0, .ro, true⟩]⟩,
   ⟨"EGR_BP_CFG", 0xB0004, [], [⟨0, 12, 500, .rw, false⟩]⟩,
   ⟨"EGR_STS", 0xB0008, [], [⟨16, 9, 0, .ro, false⟩, ⟨0, 7, 0, .ro, false⟩]⟩,
   ⟨"EGR_FLT", 0xB000C, [], [⟨0, 11, 0, .w1c, false⟩]⟩,
   ⟨"EGR_FRAME_CNT", 0xB0020, [], [⟨0, 32, 0, .rc, false⟩]⟩,
   ⟨"EGR_AMEND_CNT", 0xB0024, [], [⟨0, 32, 0, .rc, false⟩]⟩,
   ⟨"EGR_REFUSE_CNT", 0xB0028, [], [⟨0, 32, 0, .rc, false⟩]⟩,
   ⟨"EGR_QDROP_CNT", 0xB002C, [], [⟨0, 32, 0, .rc, false⟩]⟩,
   ⟨"EGR_AGED_CNT", 0xB0030, [], [⟨0, 32, 0, .rc, false⟩]⟩,
   ⟨"EGR_AMDLOST_CNT", 0xB0034, [], [⟨0, 32, 0, .rc, false⟩]⟩,
   ⟨"EGR_SAT_CNT", 0xB0038, [], [⟨0, 32, 0, .rc, false⟩]⟩,
   ⟨"EGR_CMD_CNT", 0xB003C, [], [⟨16, 16, 0, .rc, false⟩, ⟨0, 16, 0, .rc, false⟩]⟩]
/-- Registers of block 0xB, part 1 (R536). -/
def regsEgr1 : List RegDesc :=
  [⟨"EGR_CFGTX_CNT", 0xB0040, [], [⟨0, 32, 0, .rc, false⟩]⟩,
   ⟨"EGR_STRM_SEL", 0xB0060, [], [⟨0, 6, 0, .rw, false⟩]⟩,
   ⟨"EGR_STRM_STS", 0xB0064, [], [⟨30, 2, 0, .ro, false⟩, ⟨28, 2, 0, .ro, false⟩, ⟨23, 5, 0, .ro, false⟩, ⟨22, 1, 0, .ro, false⟩, ⟨16, 4, 0, .ro, false⟩, ⟨0, 16, 0, .ro, false⟩]⟩,
   ⟨"EGR_STRM_TICK_LO", 0xB0068, [], [⟨0, 32, 0, .ro, false⟩]⟩,
   ⟨"EGR_STRM_TICK_HI", 0xB006C, [], [⟨0, 32, 0, .ro, false⟩]⟩,
   ⟨"EGR_STRM_TX_STS", 0xB0070, [], [⟨0, 32, 0, .ro, false⟩]⟩,
   ⟨"EGR_STRM_FRAME_CNT", 0xB0074, [], [⟨0, 32, 0, .ro, false⟩]⟩,
   ⟨"EGR_STRM_DROP_CNT", 0xB0078, [], [⟨0, 32, 0, .ro, false⟩]⟩,
   ⟨"EGR_RING_BASE_LO", 0xB1000, [(32, 192)], [⟨0, 32, 0, .rw, false⟩]⟩,
   ⟨"EGR_RING_BASE_HI", 0xB1004, [(32, 192)], [⟨0, 32, 0, .rw, false⟩]⟩,
   ⟨"EGR_RING_CFG", 0xB1008, [(32, 192)], [⟨31, 1, 0, .rw, false⟩, ⟨12, 4, 4, .rw, false⟩, ⟨0, 6, 0, .rw, false⟩]⟩,
   ⟨"EGR_RING_PROD", 0xB100C, [(32, 192)], [⟨0, 13, 0, .prodAcc, false⟩]⟩]
/-- Registers of block 0xB, part 2 (R536). -/
def regsEgr2 : List RegDesc :=
  [⟨"EGR_RING_CONS", 0xB1010, [(32, 192)], [⟨0, 13, 0, .consAcc, false⟩]⟩,
   ⟨"EGR_RING_DROP_CNT", 0xB1014, [(32, 192)], [⟨0, 32, 0, .rc, false⟩]⟩,
   ⟨"EGR_RING_STS", 0xB1018, [(32, 192)], [⟨1, 1, 0, .w1c, false⟩, ⟨0, 1, 0, .ro, false⟩]⟩]
/-- The registers of block 0xB. -/
def regsEgr : List RegDesc := regsEgr0 ++ regsEgr1 ++ regsEgr2

/-- Offset of SNR_CFG (R357). -/
abbrev rSNR_CFG : Nat := 0xC0000
abbrev fSNR_CFG_SIGNALS : Fld := ⟨rSNR_CFG, 16, 13, 0⟩
abbrev fSNR_CFG_NAND_MIB : Fld := ⟨rSNR_CFG, 6, 10, 0⟩
abbrev fSNR_CFG_DEFS : Fld := ⟨rSNR_CFG, 0, 3, 0⟩
/-- Offset of SNR_STS (R357). -/
abbrev rSNR_STS : Nat := 0xC0004
abbrev fSNR_STS_NAND_FREE : Fld := ⟨rSNR_STS, 16, 16, 0⟩
abbrev fSNR_STS_FILES : Fld := ⟨rSNR_STS, 8, 8, 0⟩
abbrev fSNR_STS_EXPORTING : Fld := ⟨rSNR_STS, 0, 4, 0⟩
/-- Offset of SNR_FLT (R357). -/
abbrev rSNR_FLT : Nat := 0xC0008
abbrev fSNR_FLT_FLAGS : Fld := ⟨rSNR_FLT, 0, 8, 0⟩
/-- Offset of SNR_DROPROW_CNT (R357). -/
abbrev rSNR_DROPROW_CNT : Nat := 0xC000C
abbrev fSNR_DROPROW_CNT_ROWS : Fld := ⟨rSNR_DROPROW_CNT, 0, 32, 0⟩
/-- Offset of SNR_PIO_CFG_p (R357). -/
abbrev rSNR_PIO_CFG (i : Nat) : Nat := 0xC0040 + 4 * i
abbrev fSNR_PIO_CFG_OWNED (i : Nat) : Fld := ⟨(rSNR_PIO_CFG i), 16, 1, 0⟩
abbrev fSNR_PIO_CFG_GLITCH (i : Nat) : Fld := ⟨(rSNR_PIO_CFG i), 0, 10, 10⟩
/-- Offset of SNR_CTL_k (R358). -/
abbrev rSNR_CTL (i : Nat) : Nat := 0xC0100 + 64 * i
abbrev fSNR_CTL_TRIG (i : Nat) : Fld := ⟨(rSNR_CTL i), 3, 1, 0⟩
abbrev fSNR_CTL_RELEASE (i : Nat) : Fld := ⟨(rSNR_CTL i), 2, 1, 0⟩
abbrev fSNR_CTL_DISARM (i : Nat) : Fld := ⟨(rSNR_CTL i), 1, 1, 0⟩
abbrev fSNR_CTL_ARM (i : Nat) : Fld := ⟨(rSNR_CTL i), 0, 1, 0⟩
/-- Offset of SNR_DEF_CFG_k (R358). -/
abbrev rSNR_DEF_CFG (i : Nat) : Nat := 0xC0104 + 64 * i
abbrev fSNR_DEF_CFG_REARM (i : Nat) : Fld := ⟨(rSNR_DEF_CFG i), 30, 2, 0⟩
abbrev fSNR_DEF_CFG_AUTO_EN (i : Nat) : Fld := ⟨(rSNR_DEF_CFG i), 29, 1, 0⟩
abbrev fSNR_DEF_CFG_ARM_AT_START (i : Nat) : Fld := ⟨(rSNR_DEF_CFG i), 28, 1, 0⟩
abbrev fSNR_DEF_CFG_AUTO_S (i : Nat) : Fld := ⟨(rSNR_DEF_CFG i), 0, 16, 0⟩
/-- Offset of SNR_DEF_STS_k (R358). -/
abbrev rSNR_DEF_STS (i : Nat) : Nat := 0xC0108 + 64 * i
abbrev fSNR_DEF_STS_STATE (i : Nat) : Fld := ⟨(rSNR_DEF_STS i), 30, 2, 0⟩
abbrev fSNR_DEF_STS_EXPORTING (i : Nat) : Fld := ⟨(rSNR_DEF_STS i), 29, 1, 0⟩
abbrev fSNR_DEF_STS_SHORT_PRE (i : Nat) : Fld := ⟨(rSNR_DEF_STS i), 28, 1, 0⟩
abbrev fSNR_DEF_STS_TRUNCATED (i : Nat) : Fld := ⟨(rSNR_DEF_STS i), 27, 1, 0⟩
abbrev fSNR_DEF_STS_CAUSE (i : Nat) : Fld := ⟨(rSNR_DEF_STS i), 16, 5, 0⟩
abbrev fSNR_DEF_STS_RETRIG (i : Nat) : Fld := ⟨(rSNR_DEF_STS i), 0, 16, 0⟩
/-- Offset of SNR_TRIG_LO_k (R358). -/
abbrev rSNR_TRIG_LO (i : Nat) : Nat := 0xC010C + 64 * i
abbrev fSNR_TRIG_LO_N_LO (i : Nat) : Fld := ⟨(rSNR_TRIG_LO i), 0, 32, 0⟩
/-- Offset of SNR_TRIG_HI_k (R358). -/
abbrev rSNR_TRIG_HI (i : Nat) : Nat := 0xC0110 + 64 * i
abbrev fSNR_TRIG_HI_N_HI (i : Nat) : Fld := ⟨(rSNR_TRIG_HI i), 0, 32, 0⟩
/-- Offset of SNR_PRE_STS_k (R358). -/
abbrev rSNR_PRE_STS (i : Nat) : Nat := 0xC0114 + 64 * i
abbrev fSNR_PRE_STS_ROWS (i : Nat) : Fld := ⟨(rSNR_PRE_STS i), 0, 32, 0⟩
/-- Offset of SNR_POST_STS_k (R358). -/
abbrev rSNR_POST_STS (i : Nat) : Nat := 0xC0118 + 64 * i
abbrev fSNR_POST_STS_TICKS (i : Nat) : Fld := ⟨(rSNR_POST_STS i), 0, 32, 0⟩
/-- Offset of SNR_GAP_STS_k (R358). -/
abbrev rSNR_GAP_STS (i : Nat) : Nat := 0xC011C + 64 * i
abbrev fSNR_GAP_STS_LOST (i : Nat) : Fld := ⟨(rSNR_GAP_STS i), 16, 16, 0⟩
abbrev fSNR_GAP_STS_ENTRIES (i : Nat) : Fld := ⟨(rSNR_GAP_STS i), 0, 11, 0⟩
/-- Offset of SNR_MISSED_CNT_k (R358). -/
abbrev rSNR_MISSED_CNT (i : Nat) : Nat := 0xC0120 + 64 * i
abbrev fSNR_MISSED_CNT_TRIGGERS (i : Nat) : Fld := ⟨(rSNR_MISSED_CNT i), 0, 32, 0⟩
/-- Offset of SNR_LEN_CFG_k (R358). -/
abbrev rSNR_LEN_CFG (i : Nat) : Nat := 0xC0124 + 64 * i
abbrev fSNR_LEN_CFG_ROW_LEN (i : Nat) : Fld := ⟨(rSNR_LEN_CFG i), 16, 16, 0⟩
abbrev fSNR_LEN_CFG_SIGNALS (i : Nat) : Fld := ⟨(rSNR_LEN_CFG i), 0, 13, 0⟩
/-- Offset of SNR_PRE_CFG_k (R358). -/
abbrev rSNR_PRE_CFG (i : Nat) : Nat := 0xC0128 + 64 * i
abbrev fSNR_PRE_CFG_PRE (i : Nat) : Fld := ⟨(rSNR_PRE_CFG i), 0, 32, 0⟩
/-- Offset of SNR_POST_CFG_k (R358). -/
abbrev rSNR_POST_CFG (i : Nat) : Nat := 0xC012C + 64 * i
abbrev fSNR_POST_CFG_POST (i : Nat) : Fld := ⟨(rSNR_POST_CFG i), 0, 32, 0⟩
/-- Registers of block 0xC, part 0 (R536). -/
def regsSnr0 : List RegDesc :=
  [⟨"SNR_CFG", 0xC0000, [], [⟨16, 13, 0, .ro, true⟩, ⟨6, 10, 0, .ro, true⟩, ⟨0, 3, 0, .ro, true⟩]⟩,
   ⟨"SNR_STS", 0xC0004, [], [⟨16, 16, 0, .ro, false⟩, ⟨8, 8, 0, .ro, false⟩, ⟨0, 4, 0, .ro, false⟩]⟩,
   ⟨"SNR_FLT", 0xC0008, [], [⟨0, 8, 0, .w1c, false⟩]⟩,
   ⟨"SNR_DROPROW_CNT", 0xC000C, [], [⟨0, 32, 0, .rc, false⟩]⟩,
   ⟨"SNR_PIO_CFG", 0xC0040, [(4, 16)], [⟨16, 1, 0, .ro, true⟩, ⟨0, 10, 10, .rw, false⟩]⟩,
   ⟨"SNR_CTL", 0xC0100, [(64, 4)], [⟨3, 1, 0, .wo, false⟩, ⟨2, 1, 0, .wo, false⟩, ⟨1, 1, 0, .wo, false⟩, ⟨0, 1, 0, .wo, false⟩]⟩,
   ⟨"SNR_DEF_CFG", 0xC0104, [(64, 4)], [⟨30, 2, 0, .ro, true⟩, ⟨29, 1, 0, .rw, true⟩, ⟨28, 1, 0, .ro, true⟩, ⟨0, 16, 0, .rw, true⟩]⟩,
   ⟨"SNR_DEF_STS", 0xC0108, [(64, 4)], [⟨30, 2, 0, .ro, false⟩, ⟨29, 1, 0, .ro, false⟩, ⟨28, 1, 0, .ro, false⟩, ⟨27, 1, 0, .ro, false⟩, ⟨16, 5, 0, .ro, false⟩, ⟨0, 16, 0, .ro, false⟩]⟩,
   ⟨"SNR_TRIG_LO", 0xC010C, [(64, 4)], [⟨0, 32, 0, .ro, false⟩]⟩,
   ⟨"SNR_TRIG_HI", 0xC0110, [(64, 4)], [⟨0, 32, 0, .ro, false⟩]⟩,
   ⟨"SNR_PRE_STS", 0xC0114, [(64, 4)], [⟨0, 32, 0, .ro, false⟩]⟩,
   ⟨"SNR_POST_STS", 0xC0118, [(64, 4)], [⟨0, 32, 0, .ro, false⟩]⟩]
/-- Registers of block 0xC, part 1 (R536). -/
def regsSnr1 : List RegDesc :=
  [⟨"SNR_GAP_STS", 0xC011C, [(64, 4)], [⟨16, 16, 0, .ro, false⟩, ⟨0, 11, 0, .ro, false⟩]⟩,
   ⟨"SNR_MISSED_CNT", 0xC0120, [(64, 4)], [⟨0, 32, 0, .rc, false⟩]⟩,
   ⟨"SNR_LEN_CFG", 0xC0124, [(64, 4)], [⟨16, 16, 0, .ro, true⟩, ⟨0, 13, 0, .ro, true⟩]⟩,
   ⟨"SNR_PRE_CFG", 0xC0128, [(64, 4)], [⟨0, 32, 0, .ro, true⟩]⟩,
   ⟨"SNR_POST_CFG", 0xC012C, [(64, 4)], [⟨0, 32, 0, .ro, true⟩]⟩]
/-- The registers of block 0xC. -/
def regsSnr : List RegDesc := regsSnr0 ++ regsSnr1

/-- Offset of CHS_CFG (R374). -/
abbrev rCHS_CFG : Nat := 0xD0000
abbrev fCHS_CFG_VEC_EN : Fld := ⟨rCHS_CFG, 31, 1, 0⟩
abbrev fCHS_CFG_VEC : Fld := ⟨rCHS_CFG, 24, 6, 0⟩
abbrev fCHS_CFG_FLUSH_S : Fld := ⟨rCHS_CFG, 16, 8, 1⟩
abbrev fCHS_CFG_COAL_MS : Fld := ⟨rCHS_CFG, 0, 16, 1000⟩
/-- Offset of CHS_STS (R374). -/
abbrev rCHS_STS : Nat := 0xD0004
abbrev fCHS_STS_COMMISSIONED : Fld := ⟨rCHS_STS, 31, 1, 0⟩
abbrev fCHS_STS_KEEP_FULL : Fld := ⟨rCHS_STS, 30, 1, 0⟩
abbrev fCHS_STS_ROLL_OK : Fld := ⟨rCHS_STS, 29, 1, 0⟩
abbrev fCHS_STS_LID : Fld := ⟨rCHS_STS, 16, 5, 0⟩
abbrev fCHS_STS_STAGED : Fld := ⟨rCHS_STS, 0, 15, 0⟩
/-- Offset of CHS_FLT (R374). -/
abbrev rCHS_FLT : Nat := 0xD0008
abbrev fCHS_FLT_FLAGS : Fld := ⟨rCHS_FLT, 0, 11, 0⟩
/-- Offset of CHS_SEQ_LO (R374). -/
abbrev rCHS_SEQ_LO : Nat := 0xD0010
abbrev fCHS_SEQ_LO_N_LO : Fld := ⟨rCHS_SEQ_LO, 0, 32, 0⟩
/-- Offset of CHS_SEQ_HI (R374). -/
abbrev rCHS_SEQ_HI : Nat := 0xD0014
abbrev fCHS_SEQ_HI_N_HI : Fld := ⟨rCHS_SEQ_HI, 0, 32, 0⟩
/-- Offset of CHS_KEEP_LO (R374). -/
abbrev rCHS_KEEP_LO : Nat := 0xD0018
abbrev fCHS_KEEP_LO_S_LO : Fld := ⟨rCHS_KEEP_LO, 0, 32, 0⟩
/-- Offset of CHS_KEEP_HI (R374). -/
abbrev rCHS_KEEP_HI : Nat := 0xD001C
abbrev fCHS_KEEP_HI_S_HI : Fld := ⟨rCHS_KEEP_HI, 0, 32, 0⟩
/-- Offset of CHS_OLDEST_LO (R374). -/
abbrev rCHS_OLDEST_LO : Nat := 0xD0020
abbrev fCHS_OLDEST_LO_O_LO : Fld := ⟨rCHS_OLDEST_LO, 0, 32, 0⟩
/-- Offset of CHS_OLDEST_HI (R374). -/
abbrev rCHS_OLDEST_HI : Nat := 0xD0024
abbrev fCHS_OLDEST_HI_O_HI : Fld := ⟨rCHS_OLDEST_HI, 0, 32, 0⟩
/-- Offset of CHS_ROLL_STS (R374). -/
abbrev rCHS_ROLL_STS : Nat := 0xD0028
abbrev fCHS_ROLL_STS_RETIRED : Fld := ⟨rCHS_ROLL_STS, 16, 16, 0⟩
abbrev fCHS_ROLL_STS_KEEP_COUNT : Fld := ⟨rCHS_ROLL_STS, 0, 14, 0⟩
/-- Offset of CHS_REC_CNT (R374). -/
abbrev rCHS_REC_CNT : Nat := 0xD0030
abbrev fCHS_REC_CNT_RECORDS : Fld := ⟨rCHS_REC_CNT, 0, 32, 0⟩
/-- Offset of CHS_COAL_CNT (R374). -/
abbrev rCHS_COAL_CNT : Nat := 0xD0034
abbrev fCHS_COAL_CNT_POSTS : Fld := ⟨rCHS_COAL_CNT, 0, 32, 0⟩
/-- Offset of CHS_SUPP_CNT (R374). -/
abbrev rCHS_SUPP_CNT : Nat := 0xD0038
abbrev fCHS_SUPP_CNT_POSTS : Fld := ⟨rCHS_SUPP_CNT, 0, 32, 0⟩
/-- Offset of CHS_ECC_CNT (R374). -/
abbrev rCHS_ECC_CNT : Nat := 0xD003C
abbrev fCHS_ECC_CNT_UE : Fld := ⟨rCHS_ECC_CNT, 24, 8, 0⟩
abbrev fCHS_ECC_CNT_CE : Fld := ⟨rCHS_ECC_CNT, 0, 24, 0⟩
/-- Offset of CHS_RL_SEL (R374). -/
abbrev rCHS_RL_SEL : Nat := 0xD0040
abbrev fCHS_RL_SEL_CODE : Fld := ⟨rCHS_RL_SEL, 0, 8, 0⟩
/-- Offset of CHS_RL_CFG (R374). -/
abbrev rCHS_RL_CFG : Nat := 0xD0044
abbrev fCHS_RL_CFG_BURST : Fld := ⟨rCHS_RL_CFG, 24, 8, 16⟩
abbrev fCHS_RL_CFG_FIXED : Fld := ⟨rCHS_RL_CFG, 16, 1, 0⟩
abbrev fCHS_RL_CFG_PERIOD_MS : Fld := ⟨rCHS_RL_CFG, 0, 16, 1000⟩
/-- Offset of CHS_RL_STS (R374). -/
abbrev rCHS_RL_STS : Nat := 0xD0048
abbrev fCHS_RL_STS_PENDING : Fld := ⟨rCHS_RL_STS, 0, 32, 0⟩
/-- Offset of CHS_RD_SEQ_LO (R374). -/
abbrev rCHS_RD_SEQ_LO : Nat := 0xD0080
abbrev fCHS_RD_SEQ_LO_Q_LO : Fld := ⟨rCHS_RD_SEQ_LO, 0, 32, 0⟩
/-- Offset of CHS_RD_SEQ_HI (R374). -/
abbrev rCHS_RD_SEQ_HI : Nat := 0xD0084
abbrev fCHS_RD_SEQ_HI_Q_HI : Fld := ⟨rCHS_RD_SEQ_HI, 0, 32, 0⟩
/-- Offset of CHS_RD_STS (R374). -/
abbrev rCHS_RD_STS : Nat := 0xD0088
abbrev fCHS_RD_STS_DONE : Fld := ⟨rCHS_RD_STS, 31, 1, 0⟩
abbrev fCHS_RD_STS_RESULT : Fld := ⟨rCHS_RD_STS, 28, 3, 0⟩
abbrev fCHS_RD_STS_LEN : Fld := ⟨rCHS_RD_STS, 0, 9, 0⟩
/-- Offset of CHS_RD_DATA_w (R374). -/
abbrev rCHS_RD_DATA (i : Nat) : Nat := 0xD0100 + 4 * i
abbrev fCHS_RD_DATA_DATA (i : Nat) : Fld := ⟨(rCHS_RD_DATA i), 0, 32, 0⟩
/-- Registers of block 0xD, part 0 (R536). -/
def regsChs0 : List RegDesc :=
  [⟨"CHS_CFG", 0xD0000, [], [⟨31, 1, 0, .rw, false⟩, ⟨24, 6, 0, .rw, false⟩, ⟨16, 8, 1, .rw, false⟩, ⟨0, 16, 1000, .rw, false⟩]⟩,
   ⟨"CHS_STS", 0xD0004, [], [⟨31, 1, 0, .ro, false⟩, ⟨30, 1, 0, .ro, false⟩, ⟨29, 1, 0, .ro, false⟩, ⟨16, 5, 0, .ro, false⟩, ⟨0, 15, 0, .ro, false⟩]⟩,
   ⟨"CHS_FLT", 0xD0008, [], [⟨0, 11, 0, .w1c, false⟩]⟩,
   ⟨"CHS_SEQ_LO", 0xD0010, [], [⟨0, 32, 0, .ro, false⟩]⟩,
   ⟨"CHS_SEQ_HI", 0xD0014, [], [⟨0, 32, 0, .ro, false⟩]⟩,
   ⟨"CHS_KEEP_LO", 0xD0018, [], [⟨0, 32, 0, .ro, false⟩]⟩,
   ⟨"CHS_KEEP_HI", 0xD001C, [], [⟨0, 32, 0, .ro, false⟩]⟩,
   ⟨"CHS_OLDEST_LO", 0xD0020, [], [⟨0, 32, 0, .ro, false⟩]⟩,
   ⟨"CHS_OLDEST_HI", 0xD0024, [], [⟨0, 32, 0, .ro, false⟩]⟩,
   ⟨"CHS_ROLL_STS", 0xD0028, [], [⟨16, 16, 0, .ro, false⟩, ⟨0, 14, 0, .ro, false⟩]⟩,
   ⟨"CHS_REC_CNT", 0xD0030, [], [⟨0, 32, 0, .rc, false⟩]⟩,
   ⟨"CHS_COAL_CNT", 0xD0034, [], [⟨0, 32, 0, .rc, false⟩]⟩]
/-- Registers of block 0xD, part 1 (R536). -/
def regsChs1 : List RegDesc :=
  [⟨"CHS_SUPP_CNT", 0xD0038, [], [⟨0, 32, 0, .rc, false⟩]⟩,
   ⟨"CHS_ECC_CNT", 0xD003C, [], [⟨24, 8, 0, .rc, false⟩, ⟨0, 24, 0, .rc, false⟩]⟩,
   ⟨"CHS_RL_SEL", 0xD0040, [], [⟨0, 8, 0, .rw, false⟩]⟩,
   ⟨"CHS_RL_CFG", 0xD0044, [], [⟨24, 8, 16, .rw, false⟩, ⟨16, 1, 0, .ro, false⟩, ⟨0, 16, 1000, .rw, false⟩]⟩,
   ⟨"CHS_RL_STS", 0xD0048, [], [⟨0, 32, 0, .ro, false⟩]⟩,
   ⟨"CHS_RD_SEQ_LO", 0xD0080, [], [⟨0, 32, 0, .rw, false⟩]⟩,
   ⟨"CHS_RD_SEQ_HI", 0xD0084, [], [⟨0, 32, 0, .rw, false⟩]⟩,
   ⟨"CHS_RD_STS", 0xD0088, [], [⟨31, 1, 0, .ro, false⟩, ⟨28, 3, 0, .ro, false⟩, ⟨0, 9, 0, .ro, false⟩]⟩,
   ⟨"CHS_RD_DATA", 0xD0100, [(4, 64)], [⟨0, 32, 0, .ro, false⟩]⟩]
/-- The registers of block 0xD. -/
def regsChs : List RegDesc := regsChs0 ++ regsChs1

/-- Offset of BUR_STS (R397). -/
abbrev rBUR_STS : Nat := 0xE0000
abbrev fBUR_STS_VALID : Fld := ⟨rBUR_STS, 16, 11, 0⟩
abbrev fBUR_STS_INVALID : Fld := ⟨rBUR_STS, 5, 11, 0⟩
abbrev fBUR_STS_ROOTS : Fld := ⟨rBUR_STS, 0, 5, 0⟩
/-- Offset of BUR_FLT (R397). -/
abbrev rBUR_FLT : Nat := 0xE0004
abbrev fBUR_FLT_FLAGS : Fld := ⟨rBUR_FLT, 0, 9, 0⟩
/-- Offset of BUR_GEN_LO (R397). -/
abbrev rBUR_GEN_LO : Nat := 0xE0008
abbrev fBUR_GEN_LO_G_LO : Fld := ⟨rBUR_GEN_LO, 0, 32, 0⟩
/-- Offset of BUR_GEN_HI (R397). -/
abbrev rBUR_GEN_HI : Nat := 0xE000C
abbrev fBUR_GEN_HI_G_HI : Fld := ⟨rBUR_GEN_HI, 0, 32, 0⟩
/-- Offset of BUR_JRN_STS (R397). -/
abbrev rBUR_JRN_STS : Nat := 0xE0010
abbrev fBUR_JRN_STS_BUSY : Fld := ⟨rBUR_JRN_STS, 31, 1, 0⟩
abbrev fBUR_JRN_STS_SLOT : Fld := ⟨rBUR_JRN_STS, 30, 1, 0⟩
abbrev fBUR_JRN_STS_RESTORE : Fld := ⟨rBUR_JRN_STS, 28, 2, 0⟩
/-- Offset of BUR_WORK_STS (R397). -/
abbrev rBUR_WORK_STS : Nat := 0xE0014
abbrev fBUR_WORK_STS_VALID : Fld := ⟨rBUR_WORK_STS, 31, 1, 0⟩
abbrev fBUR_WORK_STS_PENDING : Fld := ⟨rBUR_WORK_STS, 30, 1, 0⟩
abbrev fBUR_WORK_STS_ENTRY : Fld := ⟨rBUR_WORK_STS, 0, 10, 0⟩
/-- Offset of BUR_SVN_STS (R397). -/
abbrev rBUR_SVN_STS : Nat := 0xE0018
abbrev fBUR_SVN_STS_SVN_MIN : Fld := ⟨rBUR_SVN_STS, 0, 8, Config.svnMin % 256⟩
/-- Offset of BUR_TAMPER_CFG (R397). -/
abbrev rBUR_TAMPER_CFG : Nat := 0xE0020
abbrev fBUR_TAMPER_CFG_GLITCH : Fld := ⟨rBUR_TAMPER_CFG, 6, 10, 200⟩
abbrev fBUR_TAMPER_CFG_ACTION : Fld := ⟨rBUR_TAMPER_CFG, 1, 1, 0⟩
abbrev fBUR_TAMPER_CFG_EN : Fld := ⟨rBUR_TAMPER_CFG, 0, 1, 0⟩
/-- Offset of BUR_TAMPER_STS (R397). -/
abbrev rBUR_TAMPER_STS : Nat := 0xE0024
abbrev fBUR_TAMPER_STS_LEVEL : Fld := ⟨rBUR_TAMPER_STS, 31, 1, 0⟩
abbrev fBUR_TAMPER_STS_EVENTS : Fld := ⟨rBUR_TAMPER_STS, 0, 16, 0⟩
/-- Offset of BUR_TAMPER_TIME (R397). -/
abbrev rBUR_TAMPER_TIME : Nat := 0xE0028
abbrev fBUR_TAMPER_TIME_NS32 : Fld := ⟨rBUR_TAMPER_TIME, 0, 32, 0⟩
/-- Offset of BUR_BENCH_CFG (R397). -/
abbrev rBUR_BENCH_CFG : Nat := 0xE0030
abbrev fBUR_BENCH_CFG_TUNE_OPEN : Fld := ⟨rBUR_BENCH_CFG, 0, 1, 0⟩
/-- Offset of BUR_BENCH_STS (R397). -/
abbrev rBUR_BENCH_STS : Nat := 0xE0034
abbrev fBUR_BENCH_STS_LEVEL : Fld := ⟨rBUR_BENCH_STS, 30, 2, 0⟩
abbrev fBUR_BENCH_STS_LOCK_S : Fld := ⟨rBUR_BENCH_STS, 0, 16, 0⟩
/-- Offset of BUR_CACHE_HIT_CNT (R397). -/
abbrev rBUR_CACHE_HIT_CNT : Nat := 0xE0040
abbrev fBUR_CACHE_HIT_CNT_HITS : Fld := ⟨rBUR_CACHE_HIT_CNT, 0, 32, 0⟩
/-- Offset of BUR_CACHE_MISS_CNT (R397). -/
abbrev rBUR_CACHE_MISS_CNT : Nat := 0xE0044
abbrev fBUR_CACHE_MISS_CNT_MISSES : Fld := ⟨rBUR_CACHE_MISS_CNT, 0, 32, 0⟩
/-- Offset of BUR_ECC_CNT (R397). -/
abbrev rBUR_ECC_CNT : Nat := 0xE0048
abbrev fBUR_ECC_CNT_UE : Fld := ⟨rBUR_ECC_CNT, 24, 8, 0⟩
abbrev fBUR_ECC_CNT_CE : Fld := ⟨rBUR_ECC_CNT, 0, 24, 0⟩
/-- Offset of BUR_ENT_SEL (R398). -/
abbrev rBUR_ENT_SEL : Nat := 0xE0060
abbrev fBUR_ENT_SEL_ENTRY : Fld := ⟨rBUR_ENT_SEL, 0, 10, 0⟩
/-- Offset of BUR_ENT_STS (R398). -/
abbrev rBUR_ENT_STS : Nat := 0xE0064
abbrev fBUR_ENT_STS_STATE : Fld := ⟨rBUR_ENT_STS, 29, 3, 0⟩
abbrev fBUR_ENT_STS_TYPE : Fld := ⟨rBUR_ENT_STS, 27, 2, 0⟩
abbrev fBUR_ENT_STS_PURPOSE : Fld := ⟨rBUR_ENT_STS, 24, 3, 0⟩
abbrev fBUR_ENT_STS_ALG : Fld := ⟨rBUR_ENT_STS, 21, 3, 0⟩
abbrev fBUR_ENT_STS_EXP_RESET : Fld := ⟨rBUR_ENT_STS, 20, 1, 0⟩
abbrev fBUR_ENT_STS_LIMITED : Fld := ⟨rBUR_ENT_STS, 19, 1, 0⟩
abbrev fBUR_ENT_STS_CACHED : Fld := ⟨rBUR_ENT_STS, 18, 1, 0⟩
abbrev fBUR_ENT_STS_BLVL : Fld := ⟨rBUR_ENT_STS, 16, 2, 0⟩
abbrev fBUR_ENT_STS_PARENT : Fld := ⟨rBUR_ENT_STS, 0, 10, 0⟩
/-- Offset of BUR_ENT_ID (R398). -/
abbrev rBUR_ENT_ID : Nat := 0xE0068
abbrev fBUR_ENT_ID_KEY_ID : Fld := ⟨rBUR_ENT_ID, 0, 32, 0⟩
/-- Offset of BUR_ENT_USES (R398). -/
abbrev rBUR_ENT_USES : Nat := 0xE006C
abbrev fBUR_ENT_USES_USES_LEFT : Fld := ⟨rBUR_ENT_USES, 0, 32, 0⟩
/-- Offset of BUR_DEVPUB_w (R399). -/
abbrev rBUR_DEVPUB (i : Nat) : Nat := 0xE0100 + 4 * i
abbrev fBUR_DEVPUB_BYTES (i : Nat) : Fld := ⟨(rBUR_DEVPUB i), 0, 32, Config.devPub i % 2 ^ 32⟩
/-- Offset of BUR_IMGKEY_w (R399). -/
abbrev rBUR_IMGKEY (i : Nat) : Nat := 0xE0140 + 4 * i
abbrev fBUR_IMGKEY_BYTES (i : Nat) : Fld := ⟨(rBUR_IMGKEY i), 0, 32, Config.imgKey i % 2 ^ 32⟩
/-- Registers of block 0xE, part 0 (R536). -/
def regsBur0 : List RegDesc :=
  [⟨"BUR_STS", 0xE0000, [], [⟨16, 11, 0, .ro, false⟩, ⟨5, 11, 0, .ro, false⟩, ⟨0, 5, 0, .ro, false⟩]⟩,
   ⟨"BUR_FLT", 0xE0004, [], [⟨0, 9, 0, .w1c, false⟩]⟩,
   ⟨"BUR_GEN_LO", 0xE0008, [], [⟨0, 32, 0, .ro, false⟩]⟩,
   ⟨"BUR_GEN_HI", 0xE000C, [], [⟨0, 32, 0, .ro, false⟩]⟩,
   ⟨"BUR_JRN_STS", 0xE0010, [], [⟨31, 1, 0, .ro, false⟩, ⟨30, 1, 0, .ro, false⟩, ⟨28, 2, 0, .ro, false⟩]⟩,
   ⟨"BUR_WORK_STS", 0xE0014, [], [⟨31, 1, 0, .ro, false⟩, ⟨30, 1, 0, .ro, false⟩, ⟨0, 10, 0, .ro, false⟩]⟩,
   ⟨"BUR_SVN_STS", 0xE0018, [], [⟨0, 8, 0, .ro, false⟩]⟩,
   ⟨"BUR_TAMPER_CFG", 0xE0020, [], [⟨6, 10, 200, .rw, false⟩, ⟨1, 1, 0, .rw, true⟩, ⟨0, 1, 0, .ro, true⟩]⟩,
   ⟨"BUR_TAMPER_STS", 0xE0024, [], [⟨31, 1, 0, .ro, false⟩, ⟨0, 16, 0, .ro, false⟩]⟩,
   ⟨"BUR_TAMPER_TIME", 0xE0028, [], [⟨0, 32, 0, .ro, false⟩]⟩,
   ⟨"BUR_BENCH_CFG", 0xE0030, [], [⟨0, 1, 0, .rw, false⟩]⟩,
   ⟨"BUR_BENCH_STS", 0xE0034, [], [⟨30, 2, 0, .ro, false⟩, ⟨0, 16, 0, .ro, false⟩]⟩]
/-- Registers of block 0xE, part 1 (R536). -/
def regsBur1 : List RegDesc :=
  [⟨"BUR_CACHE_HIT_CNT", 0xE0040, [], [⟨0, 32, 0, .rc, false⟩]⟩,
   ⟨"BUR_CACHE_MISS_CNT", 0xE0044, [], [⟨0, 32, 0, .rc, false⟩]⟩,
   ⟨"BUR_ECC_CNT", 0xE0048, [], [⟨24, 8, 0, .rc, false⟩, ⟨0, 24, 0, .rc, false⟩]⟩,
   ⟨"BUR_ENT_SEL", 0xE0060, [], [⟨0, 10, 0, .rw, false⟩]⟩,
   ⟨"BUR_ENT_STS", 0xE0064, [], [⟨29, 3, 0, .ro, false⟩, ⟨27, 2, 0, .ro, false⟩, ⟨24, 3, 0, .ro, false⟩, ⟨21, 3, 0, .ro, false⟩, ⟨20, 1, 0, .ro, false⟩, ⟨19, 1, 0, .ro, false⟩, ⟨18, 1, 0, .ro, false⟩, ⟨16, 2, 0, .ro, false⟩, ⟨0, 10, 0, .ro, false⟩]⟩,
   ⟨"BUR_ENT_ID", 0xE0068, [], [⟨0, 32, 0, .ro, false⟩]⟩,
   ⟨"BUR_ENT_USES", 0xE006C, [], [⟨0, 32, 0, .ro, false⟩]⟩,
   ⟨"BUR_DEVPUB", 0xE0100, [(4, 16)], [⟨0, 32, 0, .ro, false⟩]⟩,
   ⟨"BUR_IMGKEY", 0xE0140, [(4, 8)], [⟨0, 32, 0, .ro, false⟩]⟩]
/-- The registers of block 0xE. -/
def regsBur : List RegDesc := regsBur0 ++ regsBur1

/-- Offset of PAIR_CFG (R423). -/
abbrev rPAIR_CFG : Nat := 0xF0000
abbrev fPAIR_CFG_EN : Fld := ⟨rPAIR_CFG, 31, 1, 0⟩
abbrev fPAIR_CFG_ALONE_OK : Fld := ⟨rPAIR_CFG, 30, 1, 0⟩
abbrev fPAIR_CFG_RECOVER_S : Fld := ⟨rPAIR_CFG, 16, 8, 0⟩
abbrev fPAIR_CFG_WAIT_S : Fld := ⟨rPAIR_CFG, 8, 8, 0⟩
abbrev fPAIR_CFG_RETRIES : Fld := ⟨rPAIR_CFG, 4, 4, 0⟩
/-- Offset of PAIR_CFG2 (R423). -/
abbrev rPAIR_CFG2 : Nat := 0xF0004
abbrev fPAIR_CFG2_COPY_MS : Fld := ⟨rPAIR_CFG2, 0, 16, 0⟩
/-- Offset of PAIR_STS (R423). -/
abbrev rPAIR_STS : Nat := 0xF0008
abbrev fPAIR_STS_ROLE : Fld := ⟨rPAIR_STS, 29, 3, 0⟩
abbrev fPAIR_STS_PARTNER_ROLE : Fld := ⟨rPAIR_STS, 26, 3, 0⟩
abbrev fPAIR_STS_PARTNER_UP : Fld := ⟨rPAIR_STS, 25, 1, 0⟩
abbrev fPAIR_STS_AUTH : Fld := ⟨rPAIR_STS, 24, 1, 0⟩
abbrev fPAIR_STS_FORCED : Fld := ⟨rPAIR_STS, 23, 1, 0⟩
abbrev fPAIR_STS_MEMBER : Fld := ⟨rPAIR_STS, 22, 1, Config.pairMember % 2⟩
abbrev fPAIR_STS_LANE_A : Fld := ⟨rPAIR_STS, 21, 1, 0⟩
abbrev fPAIR_STS_LANE_B : Fld := ⟨rPAIR_STS, 20, 1, 0⟩
abbrev fPAIR_STS_PARTNER_FIT : Fld := ⟨rPAIR_STS, 19, 1, 0⟩
abbrev fPAIR_STS_FIT : Fld := ⟨rPAIR_STS, 18, 1, 0⟩
abbrev fPAIR_STS_READY : Fld := ⟨rPAIR_STS, 17, 1, 0⟩
abbrev fPAIR_STS_PARTNER_READY : Fld := ⟨rPAIR_STS, 16, 1, 0⟩
abbrev fPAIR_STS_ATTEMPTS : Fld := ⟨rPAIR_STS, 8, 4, 0⟩
/-- Offset of PAIR_FLT (R423). -/
abbrev rPAIR_FLT : Nat := 0xF000C
abbrev fPAIR_FLT_FLAGS : Fld := ⟨rPAIR_FLT, 0, 14, 0⟩
/-- Offset of PAIR_ABD_STS (R423). -/
abbrev rPAIR_ABD_STS : Nat := 0xF0010
abbrev fPAIR_ABD_STS_OWN_CAUSE : Fld := ⟨rPAIR_ABD_STS, 28, 4, 0⟩
abbrev fPAIR_ABD_STS_PARTNER_CAUSE : Fld := ⟨rPAIR_ABD_STS, 24, 4, 0⟩
/-- Offset of PAIR_EPOCH_LO (R423). -/
abbrev rPAIR_EPOCH_LO : Nat := 0xF0014
abbrev fPAIR_EPOCH_LO_E_LO : Fld := ⟨rPAIR_EPOCH_LO, 0, 32, 0⟩
/-- Offset of PAIR_EPOCH_HI (R423). -/
abbrev rPAIR_EPOCH_HI : Nat := 0xF0018
abbrev fPAIR_EPOCH_HI_E_HI : Fld := ⟨rPAIR_EPOCH_HI, 0, 32, 0⟩
/-- Offset of PAIR_SYNC_TICK_LO (R423). -/
abbrev rPAIR_SYNC_TICK_LO : Nat := 0xF001C
abbrev fPAIR_SYNC_TICK_LO_K_LO : Fld := ⟨rPAIR_SYNC_TICK_LO, 0, 32, 0⟩
/-- Offset of PAIR_SYNC_TICK_HI (R423). -/
abbrev rPAIR_SYNC_TICK_HI : Nat := 0xF0020
abbrev fPAIR_SYNC_TICK_HI_K_HI : Fld := ⟨rPAIR_SYNC_TICK_HI, 0, 32, 0⟩
/-- Offset of PAIR_AUTH_TICK_LO (R423). -/
abbrev rPAIR_AUTH_TICK_LO : Nat := 0xF0024
abbrev fPAIR_AUTH_TICK_LO_J_LO : Fld := ⟨rPAIR_AUTH_TICK_LO, 0, 32, 0⟩
/-- Offset of PAIR_AUTH_TICK_HI (R423). -/
abbrev rPAIR_AUTH_TICK_HI : Nat := 0xF0028
abbrev fPAIR_AUTH_TICK_HI_J_HI : Fld := ⟨rPAIR_AUTH_TICK_HI, 0, 32, 0⟩
/-- Offset of PAIR_ABD_CNT (R424). -/
abbrev rPAIR_ABD_CNT : Nat := 0xF0040
abbrev fPAIR_ABD_CNT_EVENTS : Fld := ⟨rPAIR_ABD_CNT, 0, 32, 0⟩
/-- Offset of PAIR_TAKE_CNT (R424). -/
abbrev rPAIR_TAKE_CNT : Nat := 0xF0044
abbrev fPAIR_TAKE_CNT_EVENTS : Fld := ⟨rPAIR_TAKE_CNT, 0, 32, 0⟩
/-- Offset of PAIR_JOINF_CNT (R424). -/
abbrev rPAIR_JOINF_CNT : Nat := 0xF0048
abbrev fPAIR_JOINF_CNT_JOINS : Fld := ⟨rPAIR_JOINF_CNT, 0, 32, 0⟩
/-- Offset of PAIR_HBMISS_CNT (R424). -/
abbrev rPAIR_HBMISS_CNT : Nat := 0xF004C
abbrev fPAIR_HBMISS_CNT_LANE_B : Fld := ⟨rPAIR_HBMISS_CNT, 16, 16, 0⟩
abbrev fPAIR_HBMISS_CNT_LANE_A : Fld := ⟨rPAIR_HBMISS_CNT, 0, 16, 0⟩
/-- Offset of PAIR_AUTHF_CNT (R424). -/
abbrev rPAIR_AUTHF_CNT : Nat := 0xF0050
abbrev fPAIR_AUTHF_CNT_MESSAGES : Fld := ⟨rPAIR_AUTHF_CNT, 0, 32, 0⟩
/-- Offset of PAIR_ACC_SEL (R424). -/
abbrev rPAIR_ACC_SEL : Nat := 0xF0060
abbrev fPAIR_ACC_SEL_CUT : Fld := ⟨rPAIR_ACC_SEL, 0, 9, 0⟩
/-- Offset of PAIR_ACC_DIFF_Wk (R424). -/
abbrev rPAIR_ACC_DIFF_W (i : Nat) : Nat := 0xF0064 + 4 * i
abbrev fPAIR_ACC_DIFF_W_DIFF (i : Nat) : Fld := ⟨(rPAIR_ACC_DIFF_W i), 0, 32, 0⟩
/-- Offset of PAIR_ACC_TICK_LO (R424). -/
abbrev rPAIR_ACC_TICK_LO : Nat := 0xF0070
abbrev fPAIR_ACC_TICK_LO_N_LO : Fld := ⟨rPAIR_ACC_TICK_LO, 0, 32, 0⟩
/-- Registers of block 0xF, part 0 (R536). -/
def regsPair0 : List RegDesc :=
  [⟨"PAIR_CFG", 0xF0000, [], [⟨31, 1, 0, .ro, true⟩, ⟨30, 1, 0, .ro, true⟩, ⟨16, 8, 0, .rw, true⟩, ⟨8, 8, 0, .rw, true⟩, ⟨4, 4, 0, .rw, true⟩]⟩,
   ⟨"PAIR_CFG2", 0xF0004, [], [⟨0, 16, 0, .rw, true⟩]⟩,
   ⟨"PAIR_STS", 0xF0008, [], [⟨29, 3, 0, .ro, false⟩, ⟨26, 3, 0, .ro, false⟩, ⟨25, 1, 0, .ro, false⟩, ⟨24, 1, 0, .ro, false⟩, ⟨23, 1, 0, .ro, false⟩, ⟨22, 1, 0, .ro, false⟩, ⟨21, 1, 0, .ro, false⟩, ⟨20, 1, 0, .ro, false⟩, ⟨19, 1, 0, .ro, false⟩, ⟨18, 1, 0, .ro, false⟩, ⟨17, 1, 0, .ro, false⟩, ⟨16, 1, 0, .ro, false⟩, ⟨8, 4, 0, .ro, false⟩]⟩,
   ⟨"PAIR_FLT", 0xF000C, [], [⟨0, 14, 0, .w1c, false⟩]⟩,
   ⟨"PAIR_ABD_STS", 0xF0010, [], [⟨28, 4, 0, .ro, false⟩, ⟨24, 4, 0, .ro, false⟩]⟩,
   ⟨"PAIR_EPOCH_LO", 0xF0014, [], [⟨0, 32, 0, .ro, false⟩]⟩,
   ⟨"PAIR_EPOCH_HI", 0xF0018, [], [⟨0, 32, 0, .ro, false⟩]⟩,
   ⟨"PAIR_SYNC_TICK_LO", 0xF001C, [], [⟨0, 32, 0, .ro, false⟩]⟩,
   ⟨"PAIR_SYNC_TICK_HI", 0xF0020, [], [⟨0, 32, 0, .ro, false⟩]⟩,
   ⟨"PAIR_AUTH_TICK_LO", 0xF0024, [], [⟨0, 32, 0, .ro, false⟩]⟩,
   ⟨"PAIR_AUTH_TICK_HI", 0xF0028, [], [⟨0, 32, 0, .ro, false⟩]⟩,
   ⟨"PAIR_ABD_CNT", 0xF0040, [], [⟨0, 32, 0, .rc, false⟩]⟩]
/-- Registers of block 0xF, part 1 (R536). -/
def regsPair1 : List RegDesc :=
  [⟨"PAIR_TAKE_CNT", 0xF0044, [], [⟨0, 32, 0, .rc, false⟩]⟩,
   ⟨"PAIR_JOINF_CNT", 0xF0048, [], [⟨0, 32, 0, .rc, false⟩]⟩,
   ⟨"PAIR_HBMISS_CNT", 0xF004C, [], [⟨16, 16, 0, .rc, false⟩, ⟨0, 16, 0, .rc, false⟩]⟩,
   ⟨"PAIR_AUTHF_CNT", 0xF0050, [], [⟨0, 32, 0, .rc, false⟩]⟩,
   ⟨"PAIR_ACC_SEL", 0xF0060, [], [⟨0, 9, 0, .rw, false⟩]⟩,
   ⟨"PAIR_ACC_DIFF_W", 0xF0064, [(4, 3)], [⟨0, 32, 0, .ro, false⟩]⟩,
   ⟨"PAIR_ACC_TICK_LO", 0xF0070, [], [⟨0, 32, 0, .ro, false⟩]⟩]
/-- The registers of block 0xF. -/
def regsPair : List RegDesc := regsPair0 ++ regsPair1

/-- Offset of LMF_CFG (R449). -/
abbrev rLMF_CFG : Nat := 0x100000
abbrev fLMF_CFG_SLOT0 : Fld := ⟨rLMF_CFG, 31, 1, 0⟩
abbrev fLMF_CFG_CLASS : Fld := ⟨rLMF_CFG, 30, 1, 0⟩
abbrev fLMF_CFG_FNOM : Fld := ⟨rLMF_CFG, 29, 1, 0⟩
abbrev fLMF_CFG_CYC_SRC : Fld := ⟨rLMF_CFG, 28, 1, 0⟩
abbrev fLMF_CFG_SD_EN : Fld := ⟨rLMF_CFG, 0, 8, 0⟩
/-- Offset of LMF_STS (R449). -/
abbrev rLMF_STS : Nat := 0x100004
abbrev fLMF_STS_RUNNING : Fld := ⟨rLMF_STS, 31, 1, 0⟩
abbrev fLMF_STS_FREQ_VALID : Fld := ⟨rLMF_STS, 30, 1, 0⟩
abbrev fLMF_STS_LAT_US : Fld := ⟨rLMF_STS, 0, 24, 0⟩
/-- Offset of LMF_FLT (R449). -/
abbrev rLMF_FLT : Nat := 0x100008
abbrev fLMF_FLT_FLAGS : Fld := ⟨rLMF_FLT, 0, 7, 0⟩
/-- Offset of LMF_CYCLE_STS (R449). -/
abbrev rLMF_CYCLE_STS : Nat := 0x10000C
abbrev fLMF_CYCLE_STS_T_M_NS : Fld := ⟨rLMF_CYCLE_STS, 0, 32, 0⟩
/-- Offset of LMF_PLAUS_CFG (R449). -/
abbrev rLMF_PLAUS_CFG : Nat := 0x100010
abbrev fLMF_PLAUS_CFG_PLAUS_S : Fld := ⟨rLMF_PLAUS_CFG, 24, 8, 0⟩
abbrev fLMF_PLAUS_CFG_PLAUS_N : Fld := ⟨rLMF_PLAUS_CFG, 20, 4, 0⟩
abbrev fLMF_PLAUS_CFG_TOL : Fld := ⟨rLMF_PLAUS_CFG, 0, 16, 0⟩
/-- Offset of LMF_PLAUS_STS (R449). -/
abbrev rLMF_PLAUS_STS : Nat := 0x100014
abbrev fLMF_PLAUS_STS_DIFF : Fld := ⟨rLMF_PLAUS_STS, 16, 16, 0⟩
abbrev fLMF_PLAUS_STS_FAILS : Fld := ⟨rLMF_PLAUS_STS, 8, 8, 0⟩
abbrev fLMF_PLAUS_STS_FAIL : Fld := ⟨rLMF_PLAUS_STS, 0, 1, 0⟩
/-- Offset of LMF_SD_CFG_c (R450). -/
abbrev rLMF_SD_CFG (i : Nat) : Nat := 0x100100 + 32 * i
abbrev fLMF_SD_CFG_EN (i : Nat) : Fld := ⟨(rLMF_SD_CFG i), 31, 1, 0⟩
abbrev fLMF_SD_CFG_PRESET (i : Nat) : Fld := ⟨(rLMF_SD_CFG i), 29, 2, 0⟩
abbrev fLMF_SD_CFG_RESTARTING (i : Nat) : Fld := ⟨(rLMF_SD_CFG i), 0, 1, 0⟩
/-- Offset of LMF_SD_DLY_CFG_c (R450). -/
abbrev rLMF_SD_DLY_CFG (i : Nat) : Nat := 0x100104 + 32 * i
abbrev fLMF_SD_DLY_CFG_DLY_NS (i : Nat) : Fld := ⟨(rLMF_SD_DLY_CFG i), 0, 16, 0⟩
/-- Offset of LMF_SD_SCALE_c (R450). -/
abbrev rLMF_SD_SCALE (i : Nat) : Nat := 0x100108 + 32 * i
abbrev fLMF_SD_SCALE_SCALE (i : Nat) : Fld := ⟨(rLMF_SD_SCALE i), 0, 32, 0⟩
/-- Offset of LMF_SD_LAST_c (R450). -/
abbrev rLMF_SD_LAST (i : Nat) : Nat := 0x10010C + 32 * i
abbrev fLMF_SD_LAST_CODE (i : Nat) : Fld := ⟨(rLMF_SD_LAST i), 8, 24, 0⟩
abbrev fLMF_SD_LAST_OVR (i : Nat) : Fld := ⟨(rLMF_SD_LAST i), 7, 1, 0⟩
abbrev fLMF_SD_LAST_GAP (i : Nat) : Fld := ⟨(rLMF_SD_LAST i), 6, 1, 0⟩
/-- Offset of LMF_SD_TIME_c (R450). -/
abbrev rLMF_SD_TIME (i : Nat) : Nat := 0x100110 + 32 * i
abbrev fLMF_SD_TIME_NS32 (i : Nat) : Fld := ⟨(rLMF_SD_TIME i), 0, 32, 0⟩
/-- Offset of LMF_SD_OVR_CNT_c (R450). -/
abbrev rLMF_SD_OVR_CNT (i : Nat) : Nat := 0x100114 + 32 * i
abbrev fLMF_SD_OVR_CNT_OUTPUTS (i : Nat) : Fld := ⟨(rLMF_SD_OVR_CNT i), 0, 32, 0⟩
/-- Offset of LMF_ICV_CFG_x (R451). -/
abbrev rLMF_ICV_CFG (i : Nat) : Nat := 0x100400 + 256 * i
abbrev fLMF_ICV_CFG_REF (i : Nat) : Fld := ⟨(rLMF_ICV_CFG i), 30, 2, 0⟩
abbrev fLMF_ICV_CFG_EXT_MV (i : Nat) : Fld := ⟨(rLMF_ICV_CFG i), 0, 16, 0⟩
/-- Offset of LMF_ICV_STS_x (R451). -/
abbrev rLMF_ICV_STS (i : Nat) : Nat := 0x100404 + 256 * i
abbrev fLMF_ICV_STS_SETTLING (i : Nat) : Fld := ⟨(rLMF_ICV_STS i), 31, 1, 0⟩
abbrev fLMF_ICV_STS_RUNNING (i : Nat) : Fld := ⟨(rLMF_ICV_STS i), 30, 1, 0⟩
abbrev fLMF_ICV_STS_LEVEL (i : Nat) : Fld := ⟨(rLMF_ICV_STS i), 0, 7, 0⟩
/-- Offset of LMF_ICV_QTAG_x (R451). -/
abbrev rLMF_ICV_QTAG (i : Nat) : Nat := 0x100408 + 256 * i
abbrev fLMF_ICV_QTAG_VALID (i : Nat) : Fld := ⟨(rLMF_ICV_QTAG i), 31, 1, 0⟩
abbrev fLMF_ICV_QTAG_PLAUS (i : Nat) : Fld := ⟨(rLMF_ICV_QTAG i), 30, 1, 0⟩
abbrev fLMF_ICV_QTAG_SETTLING (i : Nat) : Fld := ⟨(rLMF_ICV_QTAG i), 29, 1, 0⟩
abbrev fLMF_ICV_QTAG_OVR (i : Nat) : Fld := ⟨(rLMF_ICV_QTAG i), 28, 1, 0⟩
abbrev fLMF_ICV_QTAG_NOMINAL (i : Nat) : Fld := ⟨(rLMF_ICV_QTAG i), 27, 1, 0⟩
abbrev fLMF_ICV_QTAG_FAULT (i : Nat) : Fld := ⟨(rLMF_ICV_QTAG i), 26, 1, 0⟩
abbrev fLMF_ICV_QTAG_REF (i : Nat) : Fld := ⟨(rLMF_ICV_QTAG i), 24, 2, 0⟩
abbrev fLMF_ICV_QTAG_NM1 (i : Nat) : Fld := ⟨(rLMF_ICV_QTAG i), 16, 8, 0⟩
abbrev fLMF_ICV_QTAG_S (i : Nat) : Fld := ⟨(rLMF_ICV_QTAG i), 8, 4, 0⟩
abbrev fLMF_ICV_QTAG_CHANNEL (i : Nat) : Fld := ⟨(rLMF_ICV_QTAG i), 0, 4, 0⟩
/-- Offset of LMF_ICV_QVAL_x (R451). -/
abbrev rLMF_ICV_QVAL (i : Nat) : Nat := 0x10040C + 256 * i
abbrev fLMF_ICV_QVAL_RESULT (i : Nat) : Fld := ⟨(rLMF_ICV_QVAL i), 0, 32, 0⟩
/-- Offset of LMF_ICV_QTIME_x (R451). -/
abbrev rLMF_ICV_QTIME (i : Nat) : Nat := 0x100410 + 256 * i
abbrev fLMF_ICV_QTIME_NS32 (i : Nat) : Fld := ⟨(rLMF_ICV_QTIME i), 0, 32, 0⟩
/-- Offset of LMF_ICV_DROP_CNT_x (R451). -/
abbrev rLMF_ICV_DROP_CNT (i : Nat) : Nat := 0x100414 + 256 * i
abbrev fLMF_ICV_DROP_CNT_RESULTS (i : Nat) : Fld := ⟨(rLMF_ICV_DROP_CNT i), 0, 32, 0⟩
/-- Offset of LMF_ICV_SCAN_x_e (R451). -/
abbrev rLMF_ICV_SCAN (i j : Nat) : Nat := 0x100440 + 256 * i + 4 * j
abbrev fLMF_ICV_SCAN_EN (i j : Nat) : Fld := ⟨(rLMF_ICV_SCAN i j), 31, 1, 0⟩
abbrev fLMF_ICV_SCAN_PUBLISH (i j : Nat) : Fld := ⟨(rLMF_ICV_SCAN i j), 30, 1, 0⟩
abbrev fLMF_ICV_SCAN_AN_IDX (i j : Nat) : Fld := ⟨(rLMF_ICV_SCAN i j), 21, 4, 0⟩
abbrev fLMF_ICV_SCAN_NM1 (i j : Nat) : Fld := ⟨(rLMF_ICV_SCAN i j), 12, 8, 0⟩
abbrev fLMF_ICV_SCAN_S (i j : Nat) : Fld := ⟨(rLMF_ICV_SCAN i j), 8, 4, 0⟩
abbrev fLMF_ICV_SCAN_CHANNEL (i j : Nat) : Fld := ⟨(rLMF_ICV_SCAN i j), 0, 4, 0⟩
/-- Registers of block 0x10, part 0 (R536). -/
def regsLmf0 : List RegDesc :=
  [⟨"LMF_CFG", 0x100000, [], [⟨31, 1, 0, .ro, true⟩, ⟨30, 1, 0, .ro, true⟩, ⟨29, 1, 0, .ro, true⟩, ⟨28, 1, 0, .ro, true⟩, ⟨0, 8, 0, .ro, true⟩]⟩,
   ⟨"LMF_STS", 0x100004, [], [⟨31, 1, 0, .ro, false⟩, ⟨30, 1, 0, .ro, false⟩, ⟨0, 24, 0, .ro, false⟩]⟩,
   ⟨"LMF_FLT", 0x100008, [], [⟨0, 7, 0, .w1c, false⟩]⟩,
   ⟨"LMF_CYCLE_STS", 0x10000C, [], [⟨0, 32, 0, .ro, false⟩]⟩,
   ⟨"LMF_PLAUS_CFG", 0x100010, [], [⟨24, 8, 0, .rw, true⟩, ⟨20, 4, 0, .rw, true⟩, ⟨0, 16, 0, .rw, true⟩]⟩,
   ⟨"LMF_PLAUS_STS", 0x100014, [], [⟨16, 16, 0, .ro, false⟩, ⟨8, 8, 0, .ro, false⟩, ⟨0, 1, 0, .ro, false⟩]⟩,
   ⟨"LMF_SD_CFG", 0x100100, [(32, 8)], [⟨31, 1, 0, .ro, true⟩, ⟨29, 2, 0, .ro, true⟩, ⟨0, 1, 0, .ro, false⟩]⟩,
   ⟨"LMF_SD_DLY_CFG", 0x100104, [(32, 8)], [⟨0, 16, 0, .rw, true⟩]⟩,
   ⟨"LMF_SD_SCALE", 0x100108, [(32, 8)], [⟨0, 32, 0, .ro, true⟩]⟩,
   ⟨"LMF_SD_LAST", 0x10010C, [(32, 8)], [⟨8, 24, 0, .ro, false⟩, ⟨7, 1, 0, .ro, false⟩, ⟨6, 1, 0, .ro, false⟩]⟩,
   ⟨"LMF_SD_TIME", 0x100110, [(32, 8)], [⟨0, 32, 0, .ro, false⟩]⟩,
   ⟨"LMF_SD_OVR_CNT", 0x100114, [(32, 8)], [⟨0, 32, 0, .rc, false⟩]⟩]
/-- Registers of block 0x10, part 1 (R536). -/
def regsLmf1 : List RegDesc :=
  [⟨"LMF_ICV_CFG", 0x100400, [(256, 2)], [⟨30, 2, 0, .rw, true⟩, ⟨0, 16, 0, .rw, true⟩]⟩,
   ⟨"LMF_ICV_STS", 0x100404, [(256, 2)], [⟨31, 1, 0, .ro, false⟩, ⟨30, 1, 0, .ro, false⟩, ⟨0, 7, 0, .ro, false⟩]⟩,
   ⟨"LMF_ICV_QTAG", 0x100408, [(256, 2)], [⟨31, 1, 0, .ro, false⟩, ⟨30, 1, 0, .ro, false⟩, ⟨29, 1, 0, .ro, false⟩, ⟨28, 1, 0, .ro, false⟩, ⟨27, 1, 0, .ro, false⟩, ⟨26, 1, 0, .ro, false⟩, ⟨24, 2, 0, .ro, false⟩, ⟨16, 8, 0, .ro, false⟩, ⟨8, 4, 0, .ro, false⟩, ⟨0, 4, 0, .ro, false⟩]⟩,
   ⟨"LMF_ICV_QVAL", 0x10040C, [(256, 2)], [⟨0, 32, 0, .ro, false⟩]⟩,
   ⟨"LMF_ICV_QTIME", 0x100410, [(256, 2)], [⟨0, 32, 0, .ro, false⟩]⟩,
   ⟨"LMF_ICV_DROP_CNT", 0x100414, [(256, 2)], [⟨0, 32, 0, .rc, false⟩]⟩,
   ⟨"LMF_ICV_SCAN", 0x100440, [(256, 2), (4, 16)], [⟨31, 1, 0, .rw, true⟩, ⟨30, 1, 0, .rw, true⟩, ⟨21, 4, 0, .rw, true⟩, ⟨12, 8, 0, .rw, true⟩, ⟨8, 4, 0, .rw, true⟩, ⟨0, 4, 0, .rw, true⟩]⟩]
/-- The registers of block 0x10. -/
def regsLmf : List RegDesc := regsLmf0 ++ regsLmf1

/-- Offset of PMC_CFG (R518). -/
abbrev rPMC_CFG : Nat := 0x110000
abbrev fPMC_CFG_TICK_CTRS : Fld := ⟨rPMC_CFG, 16, 10, 0⟩
abbrev fPMC_CFG_PORT_CTRS : Fld := ⟨rPMC_CFG, 0, 10, 0⟩
/-- Offset of PMC_CTL (R518). -/
abbrev rPMC_CTL : Nat := 0x110004
abbrev fPMC_CTL_SNAP_HOLD : Fld := ⟨rPMC_CTL, 0, 1, 0⟩
/-- Offset of PMC_SNAP_TICK_LO (R518). -/
abbrev rPMC_SNAP_TICK_LO : Nat := 0x110010
abbrev fPMC_SNAP_TICK_LO_N_LO : Fld := ⟨rPMC_SNAP_TICK_LO, 0, 32, 0⟩
/-- Offset of PMC_SNAP_TICK_HI (R518). -/
abbrev rPMC_SNAP_TICK_HI : Nat := 0x110014
abbrev fPMC_SNAP_TICK_HI_N_HI : Fld := ⟨rPMC_SNAP_TICK_HI, 0, 32, 0⟩
/-- Offset of PMC_SNAP_MISS_CNT (R518). -/
abbrev rPMC_SNAP_MISS_CNT : Nat := 0x110018
abbrev fPMC_SNAP_MISS_CNT_CLOSES : Fld := ⟨rPMC_SNAP_MISS_CNT, 0, 32, 0⟩
/-- Offset of PMC_PORT_SEL (R518). -/
abbrev rPMC_PORT_SEL : Nat := 0x110020
abbrev fPMC_PORT_SEL_CTR : Fld := ⟨rPMC_PORT_SEL, 0, 9, 0⟩
/-- Offset of PMC_PORT_LO (R518). -/
abbrev rPMC_PORT_LO : Nat := 0x110024
abbrev fPMC_PORT_LO_V_LO : Fld := ⟨rPMC_PORT_LO, 0, 32, 0⟩
/-- Offset of PMC_PORT_HI (R518). -/
abbrev rPMC_PORT_HI : Nat := 0x110028
abbrev fPMC_PORT_HI_CHAINED : Fld := ⟨rPMC_PORT_HI, 17, 1, 0⟩
abbrev fPMC_PORT_HI_VALID : Fld := ⟨rPMC_PORT_HI, 16, 1, 0⟩
abbrev fPMC_PORT_HI_V_HI : Fld := ⟨rPMC_PORT_HI, 0, 16, 0⟩
/-- Offset of PMC_PORT_TIME (R518). -/
abbrev rPMC_PORT_TIME : Nat := 0x11002C
abbrev fPMC_PORT_TIME_NS32 : Fld := ⟨rPMC_PORT_TIME, 0, 32, 0⟩
/-- Offset of PMC_PORT_X_LO (R518). -/
abbrev rPMC_PORT_X_LO : Nat := 0x110030
abbrev fPMC_PORT_X_LO_X_LO : Fld := ⟨rPMC_PORT_X_LO, 0, 32, 0⟩
/-- Offset of PMC_PORT_X_HI (R518). -/
abbrev rPMC_PORT_X_HI : Nat := 0x110034
abbrev fPMC_PORT_X_HI_X_HI : Fld := ⟨rPMC_PORT_X_HI, 0, 16, 0⟩
/-- Offset of PMC_THR_CFG_t (R518). -/
abbrev rPMC_THR_CFG (i : Nat) : Nat := 0x110040 + 4 * i
abbrev fPMC_THR_CFG_KIND (i : Nat) : Fld := ⟨(rPMC_THR_CFG i), 24, 8, 0⟩
abbrev fPMC_THR_CFG_INDEX (i : Nat) : Fld := ⟨(rPMC_THR_CFG i), 16, 8, 0⟩
abbrev fPMC_THR_CFG_N (i : Nat) : Fld := ⟨(rPMC_THR_CFG i), 0, 16, 0⟩
/-- Offset of PMC_TAG_CFG (R518). -/
abbrev rPMC_TAG_CFG : Nat := 0x110060
abbrev fPMC_TAG_CFG_EN : Fld := ⟨rPMC_TAG_CFG, 31, 1, 0⟩
abbrev fPMC_TAG_CFG_K : Fld := ⟨rPMC_TAG_CFG, 0, 5, 10⟩
/-- Offset of PMC_TRACE_STS (R518). -/
abbrev rPMC_TRACE_STS : Nat := 0x110064
abbrev fPMC_TRACE_STS_WR : Fld := ⟨rPMC_TRACE_STS, 0, 32, 0⟩
/-- Offset of PMC_TRACE_SEL (R518). -/
abbrev rPMC_TRACE_SEL : Nat := 0x110068
abbrev fPMC_TRACE_SEL_SEQ : Fld := ⟨rPMC_TRACE_SEL, 0, 32, 0⟩
/-- Offset of PMC_TRACE_RD_STS (R518). -/
abbrev rPMC_TRACE_RD_STS : Nat := 0x11006C
abbrev fPMC_TRACE_RD_STS_VALID : Fld := ⟨rPMC_TRACE_RD_STS, 31, 1, 0⟩
abbrev fPMC_TRACE_RD_STS_GONE : Fld := ⟨rPMC_TRACE_RD_STS, 30, 1, 0⟩
abbrev fPMC_TRACE_RD_STS_NOT_YET : Fld := ⟨rPMC_TRACE_RD_STS, 29, 1, 0⟩
abbrev fPMC_TRACE_RD_STS_FAULT : Fld := ⟨rPMC_TRACE_RD_STS, 28, 1, 0⟩
/-- Offset of PMC_TAGSKIP_CNT (R518). -/
abbrev rPMC_TAGSKIP_CNT : Nat := 0x110070
abbrev fPMC_TAGSKIP_CNT_FRAMES : Fld := ⟨rPMC_TAGSKIP_CNT, 0, 32, 0⟩
/-- Offset of PMC_TRACE_DATA_w (R518). -/
abbrev rPMC_TRACE_DATA (i : Nat) : Nat := 0x110080 + 4 * i
abbrev fPMC_TRACE_DATA_DATA (i : Nat) : Fld := ⟨(rPMC_TRACE_DATA i), 0, 32, 0⟩
/-- Offset of PMC_SNAP_LO_i (R518). -/
abbrev rPMC_SNAP_LO (i : Nat) : Nat := 0x111000 + 8 * i
abbrev fPMC_SNAP_LO_V_LO (i : Nat) : Fld := ⟨(rPMC_SNAP_LO i), 0, 32, 0⟩
/-- Offset of PMC_SNAP_HI_i (R518). -/
abbrev rPMC_SNAP_HI (i : Nat) : Nat := 0x111004 + 8 * i
abbrev fPMC_SNAP_HI_V_HI (i : Nat) : Fld := ⟨(rPMC_SNAP_HI i), 0, 16, 0⟩
/-- Registers of block 0x11, part 0 (R536). -/
def regsPmc0 : List RegDesc :=
  [⟨"PMC_CFG", 0x110000, [], [⟨16, 10, 0, .ro, true⟩, ⟨0, 10, 0, .ro, true⟩]⟩,
   ⟨"PMC_CTL", 0x110004, [], [⟨0, 1, 0, .rw, false⟩]⟩,
   ⟨"PMC_SNAP_TICK_LO", 0x110010, [], [⟨0, 32, 0, .ro, false⟩]⟩,
   ⟨"PMC_SNAP_TICK_HI", 0x110014, [], [⟨0, 32, 0, .ro, false⟩]⟩,
   ⟨"PMC_SNAP_MISS_CNT", 0x110018, [], [⟨0, 32, 0, .rc, false⟩]⟩,
   ⟨"PMC_PORT_SEL", 0x110020, [], [⟨0, 9, 0, .rw, false⟩]⟩,
   ⟨"PMC_PORT_LO", 0x110024, [], [⟨0, 32, 0, .ro, false⟩]⟩,
   ⟨"PMC_PORT_HI", 0x110028, [], [⟨17, 1, 0, .ro, false⟩, ⟨16, 1, 0, .ro, false⟩, ⟨0, 16, 0, .ro, false⟩]⟩,
   ⟨"PMC_PORT_TIME", 0x11002C, [], [⟨0, 32, 0, .ro, false⟩]⟩,
   ⟨"PMC_PORT_X_LO", 0x110030, [], [⟨0, 32, 0, .ro, false⟩]⟩,
   ⟨"PMC_PORT_X_HI", 0x110034, [], [⟨0, 16, 0, .ro, false⟩]⟩,
   ⟨"PMC_THR_CFG", 0x110040, [(4, 8)], [⟨24, 8, 0, .rw, false⟩, ⟨16, 8, 0, .rw, false⟩, ⟨0, 16, 0, .rw, false⟩]⟩]
/-- Registers of block 0x11, part 1 (R536). -/
def regsPmc1 : List RegDesc :=
  [⟨"PMC_TAG_CFG", 0x110060, [], [⟨31, 1, 0, .rw, false⟩, ⟨0, 5, 10, .rw, false⟩]⟩,
   ⟨"PMC_TRACE_STS", 0x110064, [], [⟨0, 32, 0, .ro, false⟩]⟩,
   ⟨"PMC_TRACE_SEL", 0x110068, [], [⟨0, 32, 0, .rw, false⟩]⟩,
   ⟨"PMC_TRACE_RD_STS", 0x11006C, [], [⟨31, 1, 0, .ro, false⟩, ⟨30, 1, 0, .ro, false⟩, ⟨29, 1, 0, .ro, false⟩, ⟨28, 1, 0, .ro, false⟩]⟩,
   ⟨"PMC_TAGSKIP_CNT", 0x110070, [], [⟨0, 32, 0, .rc, false⟩]⟩,
   ⟨"PMC_TRACE_DATA", 0x110080, [(4, 16)], [⟨0, 32, 0, .ro, false⟩]⟩,
   ⟨"PMC_SNAP_LO", 0x111000, [(8, 512)], [⟨0, 32, 0, .ro, false⟩]⟩,
   ⟨"PMC_SNAP_HI", 0x111004, [(8, 512)], [⟨0, 16, 0, .ro, false⟩]⟩]
/-- The registers of block 0x11. -/
def regsPmc : List RegDesc := regsPmc0 ++ regsPmc1

/-- Offset of TST_CTL (R519). -/
abbrev rTST_CTL : Nat := 0x120000
abbrev fTST_CTL_ACT_EN : Fld := ⟨rTST_CTL, 1, 7, 0⟩
abbrev fTST_CTL_EN : Fld := ⟨rTST_CTL, 0, 1, 0⟩
/-- Offset of TST_STS (R519). -/
abbrev rTST_STS : Nat := 0x120004
abbrev fTST_STS_ACTIVE : Fld := ⟨rTST_STS, 1, 7, 0⟩
abbrev fTST_STS_EN : Fld := ⟨rTST_STS, 0, 1, 0⟩
/-- Offset of TST_FLT (R519). -/
abbrev rTST_FLT : Nat := 0x120008
abbrev fTST_FLT_FLAGS : Fld := ⟨rTST_FLT, 0, 3, 0⟩
/-- Offset of TST_PDLY_CFG_j (R519). -/
abbrev rTST_PDLY_CFG (i : Nat) : Nat := 0x120010 + 4 * i
abbrev fTST_PDLY_CFG_VALID (i : Nat) : Fld := ⟨(rTST_PDLY_CFG i), 31, 1, 0⟩
abbrev fTST_PDLY_CFG_PORT (i : Nat) : Fld := ⟨(rTST_PDLY_CFG i), 24, 6, 0⟩
abbrev fTST_PDLY_CFG_DELAY_US (i : Nat) : Fld := ⟨(rTST_PDLY_CFG i), 0, 16, 0⟩
/-- Offset of TST_EBP_CFG (R519). -/
abbrev rTST_EBP_CFG : Nat := 0x120020
abbrev fTST_EBP_CFG_PORT : Fld := ⟨rTST_EBP_CFG, 24, 6, 0⟩
abbrev fTST_EBP_CFG_QMASK : Fld := ⟨rTST_EBP_CFG, 16, 7, 0⟩
abbrev fTST_EBP_CFG_ON_US : Fld := ⟨rTST_EBP_CFG, 0, 16, 0⟩
/-- Offset of TST_EBP_PER (R519). -/
abbrev rTST_EBP_PER : Nat := 0x120024
abbrev fTST_EBP_PER_PERIOD_US : Fld := ⟨rTST_EBP_PER, 0, 32, 0⟩
/-- Offset of TST_STALL_MASK (R519). -/
abbrev rTST_STALL_MASK : Nat := 0x120030
abbrev fTST_STALL_MASK_LANES : Fld := ⟨rTST_STALL_MASK, 0, 32, 0⟩
/-- Offset of TST_STALL_CFG (R519). -/
abbrev rTST_STALL_CFG : Nat := 0x120034
abbrev fTST_STALL_CFG_REPEAT : Fld := ⟨rTST_STALL_CFG, 1, 1, 0⟩
abbrev fTST_STALL_CFG_ARM : Fld := ⟨rTST_STALL_CFG, 0, 1, 0⟩
/-- Offset of TST_STALL_OFS (R519). -/
abbrev rTST_STALL_OFS : Nat := 0x120038
abbrev fTST_STALL_OFS_OFS_US : Fld := ⟨rTST_STALL_OFS, 0, 32, 0⟩
/-- Offset of TST_STALL_DUR (R519). -/
abbrev rTST_STALL_DUR : Nat := 0x12003C
abbrev fTST_STALL_DUR_DUR_US : Fld := ⟨rTST_STALL_DUR, 0, 32, 0⟩
/-- Offset of TST_CDC_CFG (R519). -/
abbrev rTST_CDC_CFG : Nat := 0x120040
abbrev fTST_CDC_CFG_CLASS : Fld := ⟨rTST_CDC_CFG, 16, 16, 0⟩
abbrev fTST_CDC_CFG_EXTRA : Fld := ⟨rTST_CDC_CFG, 0, 8, 0⟩
/-- Offset of TST_CLOSE_CFG (R519). -/
abbrev rTST_CLOSE_CFG : Nat := 0x120044
abbrev fTST_CLOSE_CFG_GROUPS : Fld := ⟨rTST_CLOSE_CFG, 16, 16, 0⟩
abbrev fTST_CLOSE_CFG_SHIFT_US : Fld := ⟨rTST_CLOSE_CFG, 0, 16, 0⟩
/-- Offset of TST_ECC_CFG (R519). -/
abbrev rTST_ECC_CFG : Nat := 0x120050
abbrev fTST_ECC_CFG_TARGET : Fld := ⟨rTST_ECC_CFG, 28, 4, 0⟩
abbrev fTST_ECC_CFG_INDEX : Fld := ⟨rTST_ECC_CFG, 20, 8, 0⟩
abbrev fTST_ECC_CFG_BITS : Fld := ⟨rTST_ECC_CFG, 18, 2, 1⟩
abbrev fTST_ECC_CFG_COUNT : Fld := ⟨rTST_ECC_CFG, 0, 16, 0⟩
/-- Offset of TST_ECC_ADDR (R519). -/
abbrev rTST_ECC_ADDR : Nat := 0x120054
abbrev fTST_ECC_ADDR_ADDR : Fld := ⟨rTST_ECC_ADDR, 0, 32, 4294967295⟩
/-- Offset of TST_ECC_STS (R519). -/
abbrev rTST_ECC_STS : Nat := 0x120058
abbrev fTST_ECC_STS_REMAIN : Fld := ⟨rTST_ECC_STS, 0, 16, 0⟩
/-- Offset of TST_SKEW_CFG (R519). -/
abbrev rTST_SKEW_CFG : Nat := 0x120060
abbrev fTST_SKEW_CFG_SKEW_NS : Fld := ⟨rTST_SKEW_CFG, 0, 32, 0⟩
/-- Registers of block 0x12, part 0 (R536). -/
def regsTst0 : List RegDesc :=
  [⟨"TST_CTL", 0x120000, [], [⟨1, 7, 0, .rw, false⟩, ⟨0, 1, 0, .rw, false⟩]⟩,
   ⟨"TST_STS", 0x120004, [], [⟨1, 7, 0, .ro, false⟩, ⟨0, 1, 0, .ro, false⟩]⟩,
   ⟨"TST_FLT", 0x120008, [], [⟨0, 3, 0, .w1c, false⟩]⟩,
   ⟨"TST_PDLY_CFG", 0x120010, [(4, 4)], [⟨31, 1, 0, .rw, false⟩, ⟨24, 6, 0, .rw, false⟩, ⟨0, 16, 0, .rw, false⟩]⟩,
   ⟨"TST_EBP_CFG", 0x120020, [], [⟨24, 6, 0, .rw, false⟩, ⟨16, 7, 0, .rw, false⟩, ⟨0, 16, 0, .rw, false⟩]⟩,
   ⟨"TST_EBP_PER", 0x120024, [], [⟨0, 32, 0, .rw, false⟩]⟩,
   ⟨"TST_STALL_MASK", 0x120030, [], [⟨0, 32, 0, .rw, false⟩]⟩,
   ⟨"TST_STALL_CFG", 0x120034, [], [⟨1, 1, 0, .rw, false⟩, ⟨0, 1, 0, .wo, false⟩]⟩,
   ⟨"TST_STALL_OFS", 0x120038, [], [⟨0, 32, 0, .rw, false⟩]⟩,
   ⟨"TST_STALL_DUR", 0x12003C, [], [⟨0, 32, 0, .rw, false⟩]⟩,
   ⟨"TST_CDC_CFG", 0x120040, [], [⟨16, 16, 0, .rw, false⟩, ⟨0, 8, 0, .rw, false⟩]⟩,
   ⟨"TST_CLOSE_CFG", 0x120044, [], [⟨16, 16, 0, .rw, false⟩, ⟨0, 16, 0, .rw, false⟩]⟩]
/-- Registers of block 0x12, part 1 (R536). -/
def regsTst1 : List RegDesc :=
  [⟨"TST_ECC_CFG", 0x120050, [], [⟨28, 4, 0, .rw, false⟩, ⟨20, 8, 0, .rw, false⟩, ⟨18, 2, 1, .rw, false⟩, ⟨0, 16, 0, .rw, false⟩]⟩,
   ⟨"TST_ECC_ADDR", 0x120054, [], [⟨0, 32, 4294967295, .rw, false⟩]⟩,
   ⟨"TST_ECC_STS", 0x120058, [], [⟨0, 16, 0, .ro, false⟩]⟩,
   ⟨"TST_SKEW_CFG", 0x120060, [], [⟨0, 32, 0, .rw, false⟩]⟩]
/-- The registers of block 0x12. -/
def regsTst : List RegDesc := regsTst0 ++ regsTst1

/-- Offset of DOM_ALIVE_STS (R533). -/
abbrev rDOM_ALIVE_STS : Nat := 0x130000
abbrev fDOM_ALIVE_STS_LANE : Fld := ⟨rDOM_ALIVE_STS, 10, 8, 0⟩
abbrev fDOM_ALIVE_STS_CORE : Fld := ⟨rDOM_ALIVE_STS, 0, 10, 1⟩
/-- Offset of DOM_RXALIVE_STS_h (R533). -/
abbrev rDOM_RXALIVE_STS (i : Nat) : Nat := 0x130004 + 4 * i
abbrev fDOM_RXALIVE_STS_PRX (i : Nat) : Fld := ⟨(rDOM_RXALIVE_STS i), 0, 32, 0⟩
/-- Offset of DOM_TXALIVE_STS_h (R533). -/
abbrev rDOM_TXALIVE_STS (i : Nat) : Nat := 0x13000C + 4 * i
abbrev fDOM_TXALIVE_STS_PTX (i : Nat) : Fld := ⟨(rDOM_TXALIVE_STS i), 0, 32, 0⟩
/-- Offset of DOM_XCLASS_CFG (R533). -/
abbrev rDOM_XCLASS_CFG : Nat := 0x130014
abbrev fDOM_XCLASS_CFG_ROUNDTRIP : Fld := ⟨rDOM_XCLASS_CFG, 0, 16, 0⟩
/-- Offset of DOM_RST_CTL (R533). -/
abbrev rDOM_RST_CTL : Nat := 0x130020
abbrev fDOM_RST_CTL_GO : Fld := ⟨rDOM_RST_CTL, 31, 1, 0⟩
abbrev fDOM_RST_CTL_TARGET : Fld := ⟨rDOM_RST_CTL, 0, 7, 0⟩
/-- Offset of DOM_RST_STS (R533). -/
abbrev rDOM_RST_STS : Nat := 0x130024
abbrev fDOM_RST_STS_CAUSE : Fld := ⟨rDOM_RST_STS, 28, 4, 0⟩
/-- Offset of DOM_FLT (R533). -/
abbrev rDOM_FLT : Nat := 0x130028
abbrev fDOM_FLT_FLAGS : Fld := ⟨rDOM_FLT, 0, 3, 0⟩
/-- Offset of DOM_HUNG_STS (R533). -/
abbrev rDOM_HUNG_STS : Nat := 0x13002C
abbrev fDOM_HUNG_STS_VALID : Fld := ⟨rDOM_HUNG_STS, 31, 1, 0⟩
abbrev fDOM_HUNG_STS_DOMAIN : Fld := ⟨rDOM_HUNG_STS, 24, 7, 0⟩
abbrev fDOM_HUNG_STS_OFFSET : Fld := ⟨rDOM_HUNG_STS, 0, 24, 0⟩
/-- Offset of DOM_CNT_STS (R533). -/
abbrev rDOM_CNT_STS : Nat := 0x130030
abbrev fDOM_CNT_STS_PERST_CNT : Fld := ⟨rDOM_CNT_STS, 24, 8, 0⟩
abbrev fDOM_CNT_STS_HOT_CNT : Fld := ⟨rDOM_CNT_STS, 16, 8, 0⟩
abbrev fDOM_CNT_STS_FLR_CNT : Fld := ⟨rDOM_CNT_STS, 8, 8, 0⟩
abbrev fDOM_CNT_STS_STEWRST_CNT : Fld := ⟨rDOM_CNT_STS, 0, 8, 0⟩
/-- Offset of DOM_MODRST_CNT (R533). -/
abbrev rDOM_MODRST_CNT : Nat := 0x130034
abbrev fDOM_MODRST_CNT_RESETS : Fld := ⟨rDOM_MODRST_CNT, 0, 32, 0⟩
/-- Offset of DOM_XLOST_CNT (R533). -/
abbrev rDOM_XLOST_CNT : Nat := 0x130038
abbrev fDOM_XLOST_CNT_EVENTS : Fld := ⟨rDOM_XLOST_CNT, 0, 32, 0⟩
/-- Registers of block 0x13, part 0 (R536). -/
def regsDom0 : List RegDesc :=
  [⟨"DOM_ALIVE_STS", 0x130000, [], [⟨10, 8, 0, .ro, false⟩, ⟨0, 10, 1, .ro, false⟩]⟩,
   ⟨"DOM_RXALIVE_STS", 0x130004, [(4, 2)], [⟨0, 32, 0, .ro, false⟩]⟩,
   ⟨"DOM_TXALIVE_STS", 0x13000C, [(4, 2)], [⟨0, 32, 0, .ro, false⟩]⟩,
   ⟨"DOM_XCLASS_CFG", 0x130014, [], [⟨0, 16, 0, .ro, true⟩]⟩,
   ⟨"DOM_RST_CTL", 0x130020, [], [⟨31, 1, 0, .wo, false⟩, ⟨0, 7, 0, .wo, false⟩]⟩,
   ⟨"DOM_RST_STS", 0x130024, [], [⟨28, 4, 0, .ro, false⟩]⟩,
   ⟨"DOM_FLT", 0x130028, [], [⟨0, 3, 0, .w1c, false⟩]⟩,
   ⟨"DOM_HUNG_STS", 0x13002C, [], [⟨31, 1, 0, .ro, false⟩, ⟨24, 7, 0, .ro, false⟩, ⟨0, 24, 0, .ro, false⟩]⟩,
   ⟨"DOM_CNT_STS", 0x130030, [], [⟨24, 8, 0, .rc, false⟩, ⟨16, 8, 0, .rc, false⟩, ⟨8, 8, 0, .rc, false⟩, ⟨0, 8, 0, .rc, false⟩]⟩,
   ⟨"DOM_MODRST_CNT", 0x130034, [], [⟨0, 32, 0, .ro, false⟩]⟩,
   ⟨"DOM_XLOST_CNT", 0x130038, [], [⟨0, 32, 0, .rc, false⟩]⟩]
/-- The registers of block 0x13. -/
def regsDom : List RegDesc := regsDom0

/-- Offset of MBX_CMD_c (R481). -/
abbrev rMBX_CMD (i : Nat) : Nat := 0x140000 + 1024 * i
abbrev fMBX_CMD_TAG (i : Nat) : Fld := ⟨(rMBX_CMD i), 24, 8, 0⟩
abbrev fMBX_CMD_ARGW (i : Nat) : Fld := ⟨(rMBX_CMD i), 16, 6, 0⟩
abbrev fMBX_CMD_OPCODE (i : Nat) : Fld := ⟨(rMBX_CMD i), 0, 16, 0⟩
/-- Offset of MBX_DOORBELL_c (R481). -/
abbrev rMBX_DOORBELL (i : Nat) : Nat := 0x140004 + 1024 * i
abbrev fMBX_DOORBELL_RING (i : Nat) : Fld := ⟨(rMBX_DOORBELL i), 0, 1, 0⟩
/-- Offset of MBX_STS_c (R481). -/
abbrev rMBX_STS (i : Nat) : Nat := 0x140008 + 1024 * i
abbrev fMBX_STS_STATE (i : Nat) : Fld := ⟨(rMBX_STS i), 30, 2, 0⟩
abbrev fMBX_STS_QUEUED (i : Nat) : Fld := ⟨(rMBX_STS i), 29, 1, 0⟩
abbrev fMBX_STS_PAIR_WAIT (i : Nat) : Fld := ⟨(rMBX_STS i), 28, 1, 0⟩
abbrev fMBX_STS_TAG (i : Nat) : Fld := ⟨(rMBX_STS i), 16, 8, 0⟩
abbrev fMBX_STS_RESW (i : Nat) : Fld := ⟨(rMBX_STS i), 10, 6, 0⟩
abbrev fMBX_STS_STATUS (i : Nat) : Fld := ⟨(rMBX_STS i), 0, 4, 0⟩
/-- Offset of MBX_CFG_c (R481). -/
abbrev rMBX_CFG (i : Nat) : Nat := 0x14000C + 1024 * i
abbrev fMBX_CFG_VEC_EN (i : Nat) : Fld := ⟨(rMBX_CFG i), 6, 1, 0⟩
abbrev fMBX_CFG_VEC (i : Nat) : Fld := ⟨(rMBX_CFG i), 0, 6, 0⟩
/-- Offset of MBX_PROG_c (R481). -/
abbrev rMBX_PROG (i : Nat) : Nat := 0x140010 + 1024 * i
abbrev fMBX_PROG_KIB (i : Nat) : Fld := ⟨(rMBX_PROG i), 0, 32, 0⟩
/-- Offset of MBX_ARG_c_w (R481). -/
abbrev rMBX_ARG (i j : Nat) : Nat := 0x140100 + 1024 * i + 4 * j
abbrev fMBX_ARG_ARG (i j : Nat) : Fld := ⟨(rMBX_ARG i j), 0, 32, 0⟩
/-- Offset of MBX_RES_c_w (R481). -/
abbrev rMBX_RES (i j : Nat) : Nat := 0x140200 + 1024 * i + 4 * j
abbrev fMBX_RES_RES (i j : Nat) : Fld := ⟨(rMBX_RES i j), 0, 32, 0⟩
/-- Offset of MBX_FLT (R482). -/
abbrev rMBX_FLT : Nat := 0x141000
abbrev fMBX_FLT_FLAGS : Fld := ⟨rMBX_FLT, 0, 5, 0⟩
/-- Offset of MBX_SRC_STS (R482). -/
abbrev rMBX_SRC_STS : Nat := 0x141004
abbrev fMBX_SRC_STS_HELD : Fld := ⟨rMBX_SRC_STS, 0, 11, 0⟩
/-- Registers of block 0x14, part 0 (R536). -/
def regsMbx0 : List RegDesc :=
  [⟨"MBX_CMD", 0x140000, [(1024, 4)], [⟨24, 8, 0, .rw, false⟩, ⟨16, 6, 0, .rw, false⟩, ⟨0, 16, 0, .rw, false⟩]⟩,
   ⟨"MBX_DOORBELL", 0x140004, [(1024, 4)], [⟨0, 1, 0, .wo, false⟩]⟩,
   ⟨"MBX_STS", 0x140008, [(1024, 4)], [⟨30, 2, 0, .ro, false⟩, ⟨29, 1, 0, .ro, false⟩, ⟨28, 1, 0, .ro, false⟩, ⟨16, 8, 0, .ro, false⟩, ⟨10, 6, 0, .ro, false⟩, ⟨0, 4, 0, .ro, false⟩]⟩,
   ⟨"MBX_CFG", 0x14000C, [(1024, 4)], [⟨6, 1, 0, .rw, false⟩, ⟨0, 6, 0, .rw, false⟩]⟩,
   ⟨"MBX_PROG", 0x140010, [(1024, 4)], [⟨0, 32, 0, .ro, false⟩]⟩,
   ⟨"MBX_ARG", 0x140100, [(1024, 4), (4, 62)], [⟨0, 32, 0, .rw, false⟩]⟩,
   ⟨"MBX_RES", 0x140200, [(1024, 4), (4, 62)], [⟨0, 32, 0, .ro, false⟩]⟩,
   ⟨"MBX_FLT", 0x141000, [], [⟨0, 5, 0, .w1c, false⟩]⟩,
   ⟨"MBX_SRC_STS", 0x141004, [], [⟨0, 11, 0, .ro, false⟩]⟩]
/-- The registers of block 0x14. -/
def regsMbx : List RegDesc := regsMbx0

/-- Offset of SM_ID (R540). -/
abbrev rSM_ID : Nat := 0x800000
abbrev fSM_ID_PART : Fld := ⟨rSM_ID, 16, 16, 1600⟩
abbrev fSM_ID_KIND : Fld := ⟨rSM_ID, 8, 8, 129⟩
abbrev fSM_ID_ROMLVL : Fld := ⟨rSM_ID, 0, 8, 5⟩
/-- Offset of SM_CTL (R540). -/
abbrev rSM_CTL : Nat := 0x800004
abbrev fSM_CTL_INT_EN : Fld := ⟨rSM_CTL, 1, 1, 0⟩
abbrev fSM_CTL_RUN : Fld := ⟨rSM_CTL, 0, 1, 0⟩
/-- Offset of SM_STS (R540). -/
abbrev rSM_STS : Nat := 0x800008
abbrev fSM_STS_PAIRED_STBY : Fld := ⟨rSM_STS, 3, 1, 0⟩
abbrev fSM_STS_OVERRUN : Fld := ⟨rSM_STS, 2, 1, 0⟩
abbrev fSM_STS_TIME_OK : Fld := ⟨rSM_STS, 1, 1, 0⟩
abbrev fSM_STS_RUNNING : Fld := ⟨rSM_STS, 0, 1, 0⟩
/-- Offset of SM_INT_STS (R540). -/
abbrev rSM_INT_STS : Nat := 0x80000C
abbrev fSM_INT_STS_EVENTS : Fld := ⟨rSM_INT_STS, 0, 6, 0⟩
/-- Offset of SM_INT_MASK (R540). -/
abbrev rSM_INT_MASK : Nat := 0x800010
abbrev fSM_INT_MASK_MASK : Fld := ⟨rSM_INT_MASK, 0, 6, 0⟩
/-- Offset of SM_INT_VEC (R540). -/
abbrev rSM_INT_VEC : Nat := 0x800014
abbrev fSM_INT_VEC_VEC : Fld := ⟨rSM_INT_VEC, 0, 6, 0⟩
/-- Offset of SM_EOI (R540). -/
abbrev rSM_EOI : Nat := 0x800018
abbrev fSM_EOI_EOI : Fld := ⟨rSM_EOI, 0, 1, 0⟩
/-- Offset of SM_TICK_LO (R540). -/
abbrev rSM_TICK_LO : Nat := 0x800020
abbrev fSM_TICK_LO_N_LO : Fld := ⟨rSM_TICK_LO, 0, 32, 0⟩
/-- Offset of SM_TICK_HI (R540). -/
abbrev rSM_TICK_HI : Nat := 0x800024
abbrev fSM_TICK_HI_N_HI : Fld := ⟨rSM_TICK_HI, 0, 32, 0⟩
/-- Offset of SM_TIME_NS (R540). -/
abbrev rSM_TIME_NS : Nat := 0x800028
abbrev fSM_TIME_NS_NS : Fld := ⟨rSM_TIME_NS, 0, 32, 0⟩
/-- Offset of SM_TIME_SEC (R540). -/
abbrev rSM_TIME_SEC : Nat := 0x80002C
abbrev fSM_TIME_SEC_SEC : Fld := ⟨rSM_TIME_SEC, 0, 32, 0⟩
/-- Offset of SM_STRM_SEL (R540). -/
abbrev rSM_STRM_SEL : Nat := 0x800040
abbrev fSM_STRM_SEL_STREAM : Fld := ⟨rSM_STRM_SEL, 0, 10, 0⟩
/-- Offset of SM_STRM_STS (R540). -/
abbrev rSM_STRM_STS : Nat := 0x800044
abbrev fSM_STRM_STS_BOUND : Fld := ⟨rSM_STRM_STS, 31, 1, 0⟩
abbrev fSM_STRM_STS_STATE : Fld := ⟨rSM_STRM_STS, 29, 2, 0⟩
abbrev fSM_STRM_STS_CFG_GEN : Fld := ⟨rSM_STRM_STS, 0, 16, 0⟩
/-- Offset of SM_STRM_RX (R540). -/
abbrev rSM_STRM_RX : Nat := 0x800048
abbrev fSM_STRM_RX_RECORDS : Fld := ⟨rSM_STRM_RX, 0, 32, 0⟩
/-- Offset of SM_STRM_WIN (R540). -/
abbrev rSM_STRM_WIN : Nat := 0x80004C
abbrev fSM_STRM_WIN_W_US : Fld := ⟨rSM_STRM_WIN, 0, 32, 0⟩
/-- Offset of SM_CMD (R540). -/
abbrev rSM_CMD : Nat := 0x800080
abbrev fSM_CMD_CMD : Fld := ⟨rSM_CMD, 0, 32, 0⟩
/-- Offset of SM_GO (R540). -/
abbrev rSM_GO : Nat := 0x800084
abbrev fSM_GO_GO : Fld := ⟨rSM_GO, 0, 1, 0⟩
/-- Offset of SM_CMD_STS (R540). -/
abbrev rSM_CMD_STS : Nat := 0x800088
abbrev fSM_CMD_STS_STS : Fld := ⟨rSM_CMD_STS, 0, 32, 0⟩
/-- Offset of SM_ARG_w (R540). -/
abbrev rSM_ARG (i : Nat) : Nat := 0x800100 + 4 * i
abbrev fSM_ARG_ARG (i : Nat) : Fld := ⟨(rSM_ARG i), 0, 32, 0⟩
/-- Offset of SM_RES_w (R540). -/
abbrev rSM_RES (i : Nat) : Nat := 0x800200 + 4 * i
abbrev fSM_RES_RES (i : Nat) : Fld := ⟨(rSM_RES i), 0, 32, 0⟩
/-- Registers of block 0x80, part 0 (R536). -/
def regsSm0 : List RegDesc :=
  [⟨"SM_ID", 0x800000, [], [⟨16, 16, 1600, .ro, false⟩, ⟨8, 8, 129, .ro, false⟩, ⟨0, 8, 5, .ro, false⟩]⟩,
   ⟨"SM_CTL", 0x800004, [], [⟨1, 1, 0, .rw, false⟩, ⟨0, 1, 0, .ro, false⟩]⟩,
   ⟨"SM_STS", 0x800008, [], [⟨3, 1, 0, .ro, false⟩, ⟨2, 1, 0, .ro, false⟩, ⟨1, 1, 0, .ro, false⟩, ⟨0, 1, 0, .ro, false⟩]⟩,
   ⟨"SM_INT_STS", 0x80000C, [], [⟨0, 6, 0, .w1c, false⟩]⟩,
   ⟨"SM_INT_MASK", 0x800010, [], [⟨0, 6, 0, .rw, false⟩]⟩,
   ⟨"SM_INT_VEC", 0x800014, [], [⟨0, 6, 0, .rw, false⟩]⟩,
   ⟨"SM_EOI", 0x800018, [], [⟨0, 1, 0, .wo, false⟩]⟩,
   ⟨"SM_TICK_LO", 0x800020, [], [⟨0, 32, 0, .ro, false⟩]⟩,
   ⟨"SM_TICK_HI", 0x800024, [], [⟨0, 32, 0, .ro, false⟩]⟩,
   ⟨"SM_TIME_NS", 0x800028, [], [⟨0, 32, 0, .ro, false⟩]⟩,
   ⟨"SM_TIME_SEC", 0x80002C, [], [⟨0, 32, 0, .ro, false⟩]⟩,
   ⟨"SM_STRM_SEL", 0x800040, [], [⟨0, 10, 0, .rw, false⟩]⟩]
/-- Registers of block 0x80, part 1 (R536). -/
def regsSm1 : List RegDesc :=
  [⟨"SM_STRM_STS", 0x800044, [], [⟨31, 1, 0, .ro, false⟩, ⟨29, 2, 0, .ro, false⟩, ⟨0, 16, 0, .ro, false⟩]⟩,
   ⟨"SM_STRM_RX", 0x800048, [], [⟨0, 32, 0, .ro, false⟩]⟩,
   ⟨"SM_STRM_WIN", 0x80004C, [], [⟨0, 32, 0, .ro, false⟩]⟩,
   ⟨"SM_CMD", 0x800080, [], [⟨0, 32, 0, .rw, false⟩]⟩,
   ⟨"SM_GO", 0x800084, [], [⟨0, 1, 0, .wo, false⟩]⟩,
   ⟨"SM_CMD_STS", 0x800088, [], [⟨0, 32, 0, .ro, false⟩]⟩,
   ⟨"SM_ARG", 0x800100, [(4, 62)], [⟨0, 32, 0, .rw, false⟩]⟩,
   ⟨"SM_RES", 0x800200, [(4, 62)], [⟨0, 32, 0, .ro, false⟩]⟩]
/-- The registers of block 0x80. -/
def regsSm : List RegDesc := regsSm0 ++ regsSm1

/-- The registers of the block that an offset lies in (R536). -/
def regsOfBlock (b : Nat) : List RegDesc :=
  match b with
  | 0x0 => regsSys
  | 0x1 => regsClv
  | 0x2 => regsPort
  | 0x3 => regsIng
  | 0x4 => regsPgh
  | 0x5 => regsTmb
  | 0x6 => regsLane
  | 0x7 => regsSpec
  | 0x8 => regsCoh
  | 0x9 => regsAlm
  | 0xA => regsAcc
  | 0xB => regsEgr
  | 0xC => regsSnr
  | 0xD => regsChs
  | 0xE => regsBur
  | 0xF => regsPair
  | 0x10 => regsLmf
  | 0x11 => regsPmc
  | 0x12 => regsTst
  | 0x13 => regsDom
  | 0x14 => regsMbx
  | 0x80 => regsSm
  | _ => []

/-- The reset value of the field at an offset and low bit whose table gives `d`: fused and per-index resets. -/
def resetAt (off lo d : Nat) : Nat :=
  if off = 0x0 ∧ lo = 12 then Config.variant else
  if off % 1024 = 24 ∧ 0x20018 ≤ off ∧ off < 0x30018 ∧ lo = 0 then let i := (off - 0x20018) / 1024; (Config.macBase + i) % 2 ^ 32 else
  if off % 1024 = 28 ∧ 0x2001C ≤ off ∧ off < 0x3001C ∧ lo = 0 then let i := (off - 0x2001C) / 1024; (Config.macBase + i) / 2 ^ 32 % 2 ^ 16 else
  if off % 512 = 4 ∧ 0x60004 ≤ off ∧ off < 0x64004 ∧ lo = 31 then let i := (off - 0x60004) / 512; if i < 4 then 0 else 1 else
  if off = 0xE0018 ∧ lo = 0 then Config.svnMin % 256 else
  if off % 4 = 0 ∧ 0xE0100 ≤ off ∧ off < 0xE0140 ∧ lo = 0 then let i := (off - 0xE0100) / 4; Config.devPub i % 2 ^ 32 else
  if off % 4 = 0 ∧ 0xE0140 ≤ off ∧ off < 0xE0160 ∧ lo = 0 then let i := (off - 0xE0140) / 4; Config.imgKey i % 2 ^ 32 else
  if off = 0xF0008 ∧ lo = 22 then Config.pairMember % 2 else
  d

end Sys2Proof.Machine
end

