-- ==== Sys2Proof/Types/Out.lean ====
section
/-!
DEFINITION. What the module sends out of itself: the model's own record of it (log entry 2), oldest first.
-/

namespace Sys2Proof

/-- One thing the module sends. Numbers are the words or bytes the named rule gives. -/
inductive Emission where
  /-- A frame or control message handed to a port: port, kind, its fields or bytes. -/
  | frame (port : Nat) (express : Bool) (bytes : Bytes)
  /-- A protocol message of the steward core or Clave: kind, port or connection, its values. -/
  | ctl (kind : String) (port : Nat) (vals : List Nat)
  /-- A frame on a pair lane, 0 PAIR_A, 1 PAIR_B (R401, R403). -/
  | pair (lane : Nat) (bytes : Bytes)
  /-- An MSI-X message. -/
  | msix (vec : Nat)
  /-- A DMA write to host memory. -/
  | dma (addr : Nat) (bytes : Bytes)
  /-- The data of a register read that a command of the table makes, or 0xFFFF_FFFF for an aborted one (R529). -/
  | readData (off val : Nat)
  /-- A PCI Express Unsupported Request completion (R535). -/
  | unsupported (off : Nat)
  /-- Text printed at the Bench: which line, and its values. -/
  | bench (line : String) (vals : List Nat)
  /-- A pin driven: `none` is high impedance. -/
  | pin (name : String) (index : Nat) (level : Option Bool)
deriving DecidableEq, Repr

end Sys2Proof
end

