-- ==== Sys2Proof/Types/Pmc.lean ====
section
/-!
DEFINITION. Counters, the trace ring and the perturbation unit (R502–R519).
-/

namespace Sys2Proof

/-- A tagged frame's trace (R510, R511): FLAGS, its points as TAI ns (PARSE, STORE, CLOSE, DISPATCH, RETIRE, WIRE), and that
it has ended and waits to be written. -/
structure TraceEnt where
  slot : Nat
  port : Nat
  flags : Nat
  tick : Nat
  ing : Nat
  item : Nat
  stream : Nat
  pts : List (Option Nat)
  ended : Bool := false
deriving DecidableEq, Repr

structure Pmc where
  /-- 48-bit counters, by number. -/
  ctrs : List (Nat × Nat) := []
  lfsr : Nat := 0
  opened : List TraceEnt := []
  /-- The last 4,096 entries as their 64 bytes' words, oldest first. -/
  ring : List (List Nat) := []
deriving DecidableEq, Repr

/-- The snapshot of a LANE_STALL arm (R514): mask, offset and duration in µs, REPEAT, and the Clave times between which the
next or present stall runs (`none`: waiting for a tick instant). -/
structure StallArm where
  mask : Nat
  ofsUs : Nat
  durUs : Nat
  rep : Bool
  start : Option Nat := none
  on : Bool := false
deriving DecidableEq, Repr

structure Tst where
  arm : Option StallArm := none
  /-- Elapsed ns at which the EGR_BP period began, and whether its ON phase runs. -/
  bpStart : Nat := 0
  bpOn : Bool := false
  /-- The tick after which CLOSE_SHIFT applies: ticks whose t(n) follows this Clave time. -/
  closeFrom : Nat := 0
deriving DecidableEq, Repr

end Sys2Proof
end

