-- ==== Sys2Proof/Machine/State.lean ====
section
/-!
DEFINITION. The module's state, and the state after reset. Every register field is in `regs`; the other fields hold what
the spec gives the module beside its registers, unit by unit. `out`, `fv` and `up` are the model's own (log entries 2, 3, 9).
-/

namespace Sys2Proof.Machine

/-- No command of this block ends in a fault of the model: every error the spec names is state (R371, R217, ...). -/
inductive Fault where
  /-- Never raised; the type has no use but to be closed. Safe: nothing stops. -/
  | none
deriving DecidableEq, Repr

/-- Why a step has no meaning. -/
inductive Refusal where
  /-- Raised by Machine/Dispatch.lean for a command that has no meaning yet. Safe: nothing is claimed of it. -/
  | notModelled (mnemonic : String)
deriving DecidableEq, Repr

/-- What MRAM keeps through power cuts and resets. -/
structure Mram where
  pwr : PwrMram := {}
  chs : ChestMram := {}
  notes : MbxNotes := []
  activeSlot : Nat := 0
  /-- Two areas of learning statistics (R164). -/
  learn : List (Option LearnArea) := [none, none]
  acc : AccMram := {}
  bur : BurMram := {}
  /-- Synced epoch and own epoch count (R417). -/
  epoch : Nat := 0
  epochCount : Nat := 0
deriving DecidableEq, Repr

/-- What NAND keeps. -/
structure Nand where
  chs : ChestNand := {}
  snr : List SnrFile := []
  snrNext : Nat := 1
  /-- The two image slots: READY images; `none` = EMPTY (R466). -/
  slots : List (Option Image) := [none, none]
deriving DecidableEq, Repr

/-- The state of the block. -/
structure State where
  regs : SMap Nat := []
  pwr : Pwr := {}
  dom : Dom := {}
  clv : Clave := {}
  ports : List Port := List.replicate 64 {}
  /-- The duplicate filter's entries (R111), and the number of the next one. -/
  dup : List DupEntry := []
  dupNext : Nat := 0
  ing : Ingress := {}
  chs : Chest := {}
  snr : Snare := {}
  mbx : Mbx := {}
  /-- The running image; the image before it while instances of it remain (R216); and a pending swap: image, slot, k. -/
  img : Option Image := none
  oldImg : Option Image := none
  swap : Option (Image × Nat × Nat) := none
  /-- k of the last swap applied. -/
  swapTick : Nat := 0
  pgh : Pgh := {}
  tmb : Tmb := {}
  spec : Spec := {}
  coh : Coh := {}
  alm : Alm := {}
  acc : Acc := {}
  egr : Egr := {}
  lmf : Lmf := {}
  pair : Pair := {}
  bur : Bur := {}
  bench : Bench := {}
  pmc : Pmc := {}
  tst : Tst := {}
  /-- Level each PIO pin is driven to by the module; `none` while it is an input (R43). -/
  pio : List (Option Bool) := List.replicate 16 none
  /-- The SM-640 window's interrupt is armed (R541). -/
  smArmed : Bool := true
  mram : Mram := {}
  nand : Nand := {}
  /-- Elapsed real time in ns, the counter of free values, and what has been sent out. -/
  up : Nat := 0
  fv : Nat := 0
  out : List Emission := []
  /-- Commands waiting, first in first out. -/
  pending : List Instr := []
deriving DecidableEq, Repr

/-- The module as it is before VIN is applied: every register at its reset value, all memories unwritten. -/
def State.reset : State := {}

end Sys2Proof.Machine
end

