-- ==== Sys2Proof/Machine/Ops.lean ====
section
/-!
DEFINITION. The operations every unit shares: reading and writing register fields, counters and flags, emission, free
values, time and ticks.
-/

namespace Sys2Proof.Machine

/-- The value of a field. -/
def State.rd (s : State) (f : Fld) : Nat := smGet f.rst s.regs f.key

/-- Write a field, keeping its width. -/
def State.wr (s : State) (f : Fld) (v : Nat) : State :=
  { s with regs := smSet f.rst s.regs f.key (trunc f.w v) }

/-- A field as a truth value. -/
def State.on (s : State) (f : Fld) : Bool := s.rd f ≠ 0

/-- Write a signed value to a field in two's complement, saturated at the field's width. -/
def State.wrSat (s : State) (f : Fld) (v : Int) : State := s.wr f (ofSigned f.w (satSigned f.w v))

/-- Write a signed value saturated at plus and minus 2^(w-1) - 1, where the most negative code has a meaning of its own (R92, R189). -/
def State.wrSym (s : State) (f : Fld) (v : Int) : State :=
  let m : Int := 2 ^ (f.w - 1) - 1
  s.wr f (ofSigned f.w (max (-m) (min m v)))

/-- A field read as a signed value. -/
def State.rdS (s : State) (f : Fld) : Int := toSigned f.w (s.rd f)

/-- Add to a counter that saturates at its width (R6, R123). -/
def State.inc (s : State) (f : Fld) (n : Nat := 1) : State := s.wr f (satAdd f.w (s.rd f) n)

/-- Add to a counter that wraps at its width. -/
def State.incWrap (s : State) (f : Fld) (n : Nat := 1) : State := s.wr f (s.rd f + n)

/-- Set bit `b` of a flag field (a hardware event; never clears). -/
def State.flag (s : State) (f : Fld) (b : Nat) : State := s.wr f (s.rd f ||| 2 ^ b)

/-- Bit `b` of a flag field. -/
def State.bit (s : State) (f : Fld) (b : Nat) : Bool := (s.rd f).testBit b

def boolW (b : Bool) : Nat := if b then 1 else 0

/-- Write a truth value to a field. -/
def State.wrB (s : State) (f : Fld) (b : Bool) : State := s.wr f (if b then 1 else 0)

/-- Raise a field to a larger value (a maximum). -/
def State.wrMax (s : State) (f : Fld) (v : Nat) : State := s.wr f (max (s.rd f) v)

/-- Write a 64-bit value to a LO field and the live upper half its HI register latches (assumption 8). -/
def liveHi (lo : Fld) : Fld := ⟨lo.off + 1, 0, 32, 0⟩

def State.wr64 (s : State) (lo : Fld) (v : Nat) : State := (s.wr lo v).wr (liveHi lo) (v / 2 ^ 32)

def State.rd64 (s : State) (lo : Fld) : Nat := s.rd lo + 2 ^ 32 * s.rd (liveHi lo)

/-- Send something out of the module. -/
def State.emit (s : State) (e : Emission) : State := { s with out := s.out ++ [e] }

def State.emits (s : State) (es : List Emission) : State := { s with out := s.out ++ es }

/-! ### Power phases (R50, R55, R520) -/

/-- The start has reached stage `k`, or is complete. -/
def State.reached (s : State) (k : Nat) : Bool :=
  match s.pwr.phase with
  | .start g => g ≥ k
  | .running => true
  | _ => false

def State.shedding (s : State) : Bool := match s.pwr.phase with | .shedding _ => true | _ => false

/-- The steward core runs: STEW is alive. -/
def State.stewAlive (s : State) : Bool := (s.reached 0 || s.shedding) && s.dom.stewUp

/-- TIME is alive. -/
def State.timeAlive (s : State) : Bool := s.reached 1 || s.shedding

/-- A fresh free value: nothing constrains it (log entry 3). -/
def State.freeVal (s : State) (tag : Nat) : Nat := Config.free tag s.fv

def State.nextFree (s : State) : State := { s with fv := s.fv + 1 }

/-! ### Counters (R502 to R504) -/

/-- Count `n` of event `e` in every counter that the image gives it; a chained counter passes its carries on. -/
def State.ev (e : Nat) (s : State) (n : Nat := 1) : State :=
  match s.img with
  | none => s
  | some i =>
    (List.range i.counters.length).foldl (fun s k =>
      let c := i.counters.getD k {}
      let chained := k ≠ 0 && (i.counters.getD (k - 1) {}).chain
      if c.event = e && e ≠ 0 && !chained then
        let v := smGet 0 s.pmc.ctrs k + n
        let s := { s with pmc := { s.pmc with ctrs := smSet 0 s.pmc.ctrs k (v % 2 ^ 48) } }
        if c.chain then
          let w := smGet 0 s.pmc.ctrs (k + 1) + v / 2 ^ 48
          { s with pmc := { s.pmc with ctrs := smSet 0 s.pmc.ctrs (k + 1) (w % 2 ^ 48) } }
        else s
      else s) s

/-- Signal an MSI-X vector; while the link is down it is held pending (R479). -/
def State.msix (s : State) (vec : Nat) : State :=
  if s.pwr.pcieUp then ((s.ev 0x367).ev 0x36D).emit (.msix vec) else { s with mbx := { s.mbx with held := s.mbx.held ++ [vec] } }

/-- DMA writes to host memory: posted writes, each counted (R504). -/
def State.dmaAll (s : State) (ws : List (Nat × Bytes)) : State :=
  (s.ev 0x36D ws.length).emits (ws.map fun w => .dma w.1 w.2)

/-- Set an event bit of the SM-640 window (R540); WINDOW_INTERRUPT sends the message. -/
def State.smEvent (s : State) (b : Nat) : State := s.flag fSM_INT_STS_EVENTS b

/-! ### Time and ticks (R65, R66) -/

/-- t(n) at rate r: s × 10^9 + floor(k × 10^9 / r) with n = s × r + k (R66). -/
def tickInstant (r n : Nat) : Nat := n / r * 1000000000 + n % r * 1000000000 / r

/-- The latest n with t(n) ≤ t. -/
def tickAt (r t : Nat) : Nat :=
  let sec := t / 1000000000
  let ns := t % 1000000000
  let k := ns * r / 1000000000
  if k + 1 < r && tickInstant r (k + 1) ≤ ns then sec * r + k + 1 else sec * r + k

/-- The first n with t(n) ≥ t. -/
def tickFrom (r t : Nat) : Nat :=
  let n := tickAt r t
  if tickInstant r n ≥ t then n else n + 1

/-- Base rate of the running image; 1 where no image runs (no tick is then processed). -/
def State.rate (s : State) : Nat :=
  match s.img with
  | some i => rateOfCode i.rateCode
  | none => 1

/-- The base rate in force at a TAI instant: a swap's new rate from its whole second on (R67). -/
def State.rateAt (s : State) (t : Nat) : Nat :=
  match s.pgh.rates with
  | some c => if t ≥ c.sec * 1000000000 then c.new else c.old
  | none => s.rate

/-- Whether index `n` belongs to the new rate of the last rate change; an index both rates can carry is the one whose instant
lies nearer the present (R68, log entry 20). -/
def rateIsNew (c : RateChange) (now n : Nat) : Bool :=
  if n < c.sec * c.new then false
  else if n ≥ c.sec * c.old then true
  else
    let a := tickInstant c.new n
    let b := tickInstant c.old n
    (a - now) + (now - a) ≤ (b - now) + (now - b)

/-- t(n) (R66, R68). -/
def State.tickInst (s : State) (n : Nat) : Nat :=
  match s.pgh.rates with
  | some c => tickInstant (if rateIsNew c s.clv.now n then c.new else c.old) n
  | none => tickInstant s.rate n

/-- The tick run just after and just before `n` (R68). -/
def State.succTick (s : State) (n : Nat) : Nat :=
  match s.pgh.rates with
  | some c => if n + 1 = c.sec * c.old && !rateIsNew c s.clv.now n then c.sec * c.new else n + 1
  | none => n + 1

def State.predTick (s : State) (n : Nat) : Nat :=
  match s.pgh.rates with
  | some c => if n = c.sec * c.new && rateIsNew c s.clv.now n then c.sec * c.old - 1 else n - 1
  | none => n - 1

/-- The `k` tick indices that end at `n`, newest first, skipped ones among them. -/
def State.recentTicks (s : State) : Nat → Nat → List Nat
  | _, 0 => []
  | n, k + 1 => n :: State.recentTicks s (s.predTick n) k

/-- The tick processed before `n`: ticks that the last reseat skipped are none (R82). -/
def State.prevRun (s : State) (n : Nat) : Nat :=
  match s.clv.skip with
  | some (f, c) => if n = f + c then f - 1 else s.predTick n
  | none => s.predTick n

/-- The tick processed after `n`, and whether a reseat skipped ticks between them. -/
def State.nextRun (s : State) (n : Nat) : Nat × Bool :=
  match s.clv.skip with
  | some (f, c) => if n + 1 = f then (f + c, true) else (s.succTick n, false)
  | none => (s.succTick n, false)

/-- The tick in which the present time lies (R348). -/
def State.curTick (s : State) : Nat := tickAt (s.rateAt s.clv.now) s.clv.now

/-- The module is a member of a pair: its image has a PAIR section (R456). -/
def State.paired (s : State) : Bool := match s.img with | some i => i.paired | none => false

/-- CLV_STS.TICKING. -/
def State.ticking (s : State) : Bool := s.on fCLV_STS_TICKING

/-- Clave states (R92). -/
abbrev clvUnset : Nat := 0
abbrev clvAcquiring : Nat := 1
abbrev clvLocked : Nat := 2
abbrev clvHoldover : Nat := 3
abbrev clvStuck : Nat := 4

def State.clvState (s : State) : Nat := s.rd fCLV_STS_STATE

/-- Clave's time has never been set in this start: UNSET, or ACQUIRING before the step. -/
def State.beforeStep (s : State) : Bool :=
  s.clvState = clvUnset || (s.clvState = clvAcquiring && !s.on fCLV_STS_STEPPED)

/-! ### Inputs at the J1 contacts (R42, R87) -/

/-- A level held for `hold` ns gets through a glitch filter of `g` TIME cycles. -/
def passesFilter (g hold : Nat) : Bool := 5 * g ≤ hold

/-- The instant of an edge at its contact: what capture logic sees at `raw`, less the filter's delay and the capture latency of 5 ns. -/
def atContact (g raw : Nat) : Nat := raw - (5 + 5 * g)

/-- The instant at which the first bit of a received frame crossed port n's J2 contact, from where the port's sampler sees it, less the
carrier's receive delay (R87): the capture latency, the PCS latency and RX_DLY are subtracted. -/
def State.rxInstant (s : State) (n raw : Nat) : Nat :=
  raw - (5 + Config.pcsLatency (s.rd (fPORT_CFG_MODE n)) + s.rd (fPORT_DLY_CFG_RX_DLY n))

/-- A transmit stamp of port n, moved to the far end of the carrier's transmit delay (R87, R118). -/
def State.txInstant (s : State) (n stamp : Nat) : Nat := stamp + s.rd (fPORT_DLY_CFG_TX_DLY n)

/-! ### The perturbation unit's effect on others (R513, R514) -/

/-- Action `b` of the perturbation unit is enabled. -/
def State.action (s : State) (b : Nat) : Bool := s.on fTST_CTL_EN && (s.rd fTST_CTL_ACT_EN).testBit (b - 1)

/-- `v` with bit `b` clear. -/
def clrBit (b v : Nat) : Nat := if v.testBit b then v - 2 ^ b else v

/-- A word is written to the memory `target`, `index` (R514): ECC_INJECT may corrupt it. Whether a write lies at a given ADDR is
free, since the spec gives the memories no word addresses (log entry 32). -/
def State.eccWrite (target index : Nat) (s : State) : State :=
  let any : Bool := s.rd fTST_ECC_ADDR_ADDR = 0xFFFFFFFF
  let indexed : Bool := target ∈ [0, 1, 4, 5]
  if !s.action 6 || s.rd fTST_ECC_CFG_TARGET ≠ target || (indexed && s.rd fTST_ECC_CFG_INDEX ≠ index) || s.rd fTST_ECC_STS_REMAIN = 0 then s
  else
    let s' := if any then s else s.nextFree
    if !any && s.freeVal 32 % 2 = 0 then s'
    else
      let r := s.rd fTST_ECC_STS_REMAIN - 1
      let s := s'.wr fTST_ECC_STS_REMAIN r
      if r = 0 then
        ((s.flag fTST_FLT_FLAGS 2).wr fTST_CTL_ACT_EN (clrBit 5 (s.rd fTST_CTL_ACT_EN))).wr fTST_STS_ACTIVE (clrBit 5 (s.rd fTST_STS_ACTIVE))
      else s

/-- PORT_DELAY holds a frame of port `n` with this stamp (R514). -/
def State.portDelayed (s : State) (n stamp : Nat) : Bool :=
  s.action 1 && (List.range 4).any fun j =>
    s.on (fTST_PDLY_CFG_VALID j) && s.rd (fTST_PDLY_CFG_PORT j) = n && s.clv.now < stamp + s.rd (fTST_PDLY_CFG_DELAY_US j) * 1000

/-! ### Deficit round robins (R100, R330) -/

/-- One choice among the queues `ready` (number, bytes of its head) of `count`. Each visit that does not serve a queue gives it one quantum; the
queue served keeps its turn. A queue is served once its deficit covers its head, so the winner is the one that needs the fewest rounds, the
nearest from the turn on where several need as many. Queues that `keep` names hold frames that cannot go now and keep their deficit; the deficit
of every other queue that is not ready is 0. -/
def drrPick (count quantum : Nat) (d : Drr) (ready : List (Nat × Nat)) (keep : Nat → Bool) : Option (Nat × Drr) :=
  let pos (k : Nat) : Nat := (k + count - d.turn) % count
  let rounds (x : Nat × Nat) : Nat := (x.2 - smGet 0 d.deficit x.1 + quantum - 1) / quantum
  let key (x : Nat × Nat) : Nat := rounds x * count + pos x.1
  match ready with
  | [] => none
  | r :: rs =>
    let w := rs.foldl (fun a b => if key b < key a then b else a) r
    let after (x : Nat × Nat) : Nat :=
      if x.1 = w.1 then smGet 0 d.deficit x.1 + quantum * rounds w - x.2
      else smGet 0 d.deficit x.1 + quantum * (rounds w + (if pos x.1 < pos w.1 then 1 else 0))
    let kept := d.deficit.filter fun e => keep e.1 && !ready.any fun x => x.1 = e.1
    some (w.1, { deficit := ready.foldl (fun m x => smSet 0 m x.1 (after x)) kept, turn := w.1 })

/-! ### Little-endian and big-endian bytes (R8) -/

/-- `n` bytes of a value, least significant first. -/
def le : Nat → Nat → Bytes
  | 0, _ => []
  | k + 1, v => BitVec.ofNat 8 v :: le k (v / 256)

/-- `n` bytes of a value, most significant first. -/
def be (n v : Nat) : Bytes := (le n v).reverse

/-- The value of bytes, least significant first. -/
def leVal : Bytes → Nat
  | [] => 0
  | b :: bs => b.toNat + 256 * leVal bs

/-- The value of bytes, most significant first. -/
def beVal (bs : Bytes) : Nat := leVal bs.reverse

/-- The `n` bytes of a frame from `i`, big-endian; zeros past its end. -/
def beAt (bs : Bytes) (i n : Nat) : Nat := beVal ((bs.drop i).take n)

def leAt (bs : Bytes) (i n : Nat) : Nat := leVal ((bs.drop i).take n)

/-- Zeros up to a length that is a multiple of `k`. -/
def padTo (k : Nat) (bs : Bytes) : Bytes := bs ++ List.replicate ((k - bs.length % k) % k) 0

/-- Bit steps of a reflected 32-bit CRC. -/
def crcStep (poly : Nat) : Nat → Nat → Nat
  | 0, c => c
  | k + 1, c => crcStep poly k (if c % 2 = 1 then c / 2 ^^^ poly else c / 2)

def crc32 (poly : Nat) (bs : Bytes) : Nat := bs.foldl (fun c b => crcStep poly 8 (c ^^^ b.toNat)) 0xFFFFFFFF ^^^ 0xFFFFFFFF

/-- CRC-32C of a byte string (polynomial 0x1EDC6F41; the name fixes it, PRESUMED, log entry 10). -/
def crc32c (bs : Bytes) : Nat := crc32 0x82F63B78 bs

/-- The FCS of an Ethernet frame, as its four bytes (polynomial 0x04C11DB7, PRESUMED, log entry 10). -/
def ethFcs (bs : Bytes) : Bytes := le 4 (crc32 0xEDB88320 bs)

/-- One bit step of the CRC-CCITT of C37.118 frames (x^16 + x^12 + x^5 + 1, initial value all ones; PRESUMED, log entry 10). -/
def ccittStep : Nat → Nat → Nat
  | 0, c => c
  | k + 1, c => ccittStep k (if c ≥ 0x8000 then (c * 2 % 65536) ^^^ 0x1021 else c * 2)

def crcCcitt (bs : Bytes) : Nat :=
  bs.foldl (fun c b => ccittStep 8 (c ^^^ (b.toNat * 256))) 0xFFFF

end Sys2Proof.Machine
end

