-- ==== Sys2Proof/Machine/Post.lean ====
section
/-!
DEFINITION. Posting an event to the Chest (R361 steps 1 to 3, R365 to R367) and accepting a Snare trigger (R347 to R351):
the two operations every unit uses to report what happens to it.
-/

namespace Sys2Proof.Machine

/-! ### Snare triggers -/

/-- The definition of the running image at index k, or the one a kept capture belongs to. -/
def State.snrCfg? (s : State) (k : Nat) : Option SnrDefCfg :=
  match s.img with
  | some i => i.snare[k]?
  | none => none

def State.snrDef (s : State) (k : Nat) : SnrDef := s.snr.defs.getD k {}

def State.setSnrDef (s : State) (k : Nat) (d : SnrDef) : State :=
  { s with snr := { s.snr with defs := s.snr.defs.set k d } }

/-- SNR_DEF_STS.STATE values. -/
abbrev snrIdle : Nat := 0
abbrev snrArmed : Nat := 1
abbrev snrTriggered : Nat := 2
abbrev snrComplete : Nat := 3

/-- CAUSE bits (R353). -/
abbrev causeEvent : Nat := 1
abbrev causeAlarm : Nat := 2
abbrev causePio : Nat := 4
abbrev causeHost : Nat := 8
abbrev causeAuto : Nat := 16

/-- The ticks of a gap that a capture from `first` on keeps (R352). -/
def trimGaps (first : Nat) (gs : List SnrGap) : List SnrGap :=
  gs.filterMap fun g =>
    if g.first ≥ first then some g
    else if g.first + g.len > first then some { g with first := first, len := g.first + g.len - first } else none

/-- The ticks that a capture with trigger tick `t0` covers: from T0 − PRE, from the arming, or from the oldest row still in a ring that has
overwritten older ones; up to T0 + POST − 1 (R347, R351). -/
def snareSpan (cfg : SnrDefCfg) (t0 : Nat) (d : SnrDef) : Nat × Nat :=
  let ring := if d.rows.length < cfg.pre then 0 else (d.rows.head?.map fun r => r.tick).getD 0
  (max (t0 - cfg.pre) (max d.armTick ring), t0 + cfg.post - 1)

/-- An ARMED definition takes trigger tick `t0` (R347, R351). -/
def snareStart (k cause t0 : Nat) (cfg : SnrDefCfg) (s : State) : State :=
  let d := s.snrDef k
  let (first, last) := snareSpan cfg t0 d
  let within (r : SnrRow) : Bool := first ≤ r.tick && r.tick ≤ last
  let s := { s with snr := { s.snr with queue := s.snr.queue.filter fun e => e.1 ≠ k || within e.2 } }
  let rows := d.rows.filter within
  let before := ((rows ++ s.snr.queue.filterMap fun e => if e.1 = k then some e.2 else none).filter fun r => r.tick < t0).length
  let short : Bool := t0 < first + cfg.pre
  let gaps := trimGaps first d.gaps
  let s := s.setSnrDef k { d with t0 := t0, rows := rows, gaps := gaps, autoDue := none, cfg := some cfg, first := first, last := last }
  let s := s.wr (fSNR_GAP_STS_ENTRIES k) gaps.length
  let s := ((s.wr (fSNR_DEF_STS_STATE k) snrTriggered).wr (fSNR_DEF_STS_CAUSE k) cause).wrB (fSNR_DEF_STS_SHORT_PRE k) short
  let s := ((s.wr (fSNR_DEF_STS_RETRIG k) 0).wr64 (fSNR_TRIG_LO_N_LO k) t0).wr (fSNR_PRE_STS_ROWS k) before
  let s := (s.wr (fSNR_POST_STS_TICKS k) 0).wrB (fSNR_DEF_STS_TRUNCATED k) false
  if short then s.flag fSNR_FLT_FLAGS 0 else s

/-- A trigger of a source whose CAUSE bit is `cause`, at a tick, offered to definition `k` (R348, R349, R350). -/
def snareTrigger (k cause tick : Nat) (s : State) : State :=
  match s.snrCfg? k with
  | none => s
  | some cfg =>
    let st := s.rd (fSNR_DEF_STS_STATE k)
    let d := s.snrDef k
    let t0 := max tick d.armTick
    if st = snrArmed then snareStart k cause t0 cfg s
    else if st = snrTriggered then
      if t0 = d.t0 then
        let old := s.rd (fSNR_DEF_STS_CAUSE k)
        if cause = causeAuto then s
        else s.wr (fSNR_DEF_STS_CAUSE k) (if old = causeAuto then cause else old ||| cause)
      else
        let s := s.inc (fSNR_DEF_STS_RETRIG k)
        if d.retrigs.length < 16 then s.setSnrDef k { d with retrigs := d.retrigs ++ [(tick, cause)] } else s
    else (s.inc (fSNR_MISSED_CNT_TRIGGERS k)).flag fSNR_FLT_FLAGS 3

/-- Offer a trigger to every definition whose terms satisfy `p`. -/
def snareTriggerAll (p : SnrTerm → Bool) (cause tick : Nat) (s : State) : State :=
  (List.range 4).foldl (fun s k =>
    match s.snrCfg? k with
    | some cfg => if cfg.terms.any p then snareTrigger k cause tick s else s
    | none => s) s

/-- Join a gap to an entry that it continues, or add it. -/
def joinGap (g : SnrGap) : List SnrGap → Option (List SnrGap)
  | [] => none
  | x :: xs =>
    if x.reason = g.reason && x.slot = g.slot && x.first + x.len = g.first then some ({ x with len := x.len + g.len } :: xs)
    else (joinGap g xs).map fun l => x :: l

/-- Definition k's ring is written, or its capture still takes the last ticks before a swap (R347, R356). -/
def State.snrOpen (s : State) (k : Nat) : Bool :=
  let st := s.rd (fSNR_DEF_STS_STATE k)
  st = snrArmed || st = snrTriggered || (st = snrComplete && (s.snrDef k).flags.testBit 3)

/-- Definition k takes rows of this tick: it is ARMED, or its capture holds the tick. -/
def State.snrTakes (s : State) (k n : Nat) : Bool :=
  let d := s.snrDef k
  s.snrOpen k && d.armTick ≤ n && (s.rd (fSNR_DEF_STS_STATE k) = snrArmed || (d.first ≤ n && n ≤ d.last))

/-- The definition that definition k's rows and capture belong to: the image's while ARMED, else that of the capture (R356). -/
def State.snrOwn (s : State) (k : Nat) : Option SnrDefCfg :=
  if s.rd (fSNR_DEF_STS_STATE k) = snrArmed then s.snrCfg? k else (s.snrDef k).cfg

/-- Add a gap to a capture's list, joining it to the entry it continues (R352). While ARMED only the PRE ticks matter; once TRIGGERED, those
of the capture. A gap that a full list cannot take is counted once. -/
def addGap (k first len reason slot : Nat) (s : State) : State :=
  match s.snrOwn k with
  | none => s
  | some cfg =>
    let d := s.snrDef k
    let armed : Bool := s.rd (fSNR_DEF_STS_STATE k) = snrArmed
    let len := if armed then len else min len (d.last + 1 - first)
    if len = 0 || !s.snrOpen k then s
    else
      let gaps := if armed then trimGaps (first - cfg.pre) d.gaps else d.gaps
      let g : SnrGap := { first := first, len := len, reason := reason, slot := slot }
      let put (gs : List SnrGap) : State := (s.setSnrDef k { d with gaps := gs }).wr (fSNR_GAP_STS_ENTRIES k) gs.length
      match joinGap g gaps, joinGap g d.unlisted with
      | some gs, _ => put gs
      | none, some us => s.setSnrDef k { d with unlisted := us }
      | none, none =>
        if gaps.length < 1024 then put (gaps ++ [g])
        else
          let us := (d.unlisted.filter fun x => x.first + x.len ≥ first) ++ [g]
          ((s.inc (fSNR_GAP_STS_LOST k)).flag fSNR_FLT_FLAGS 2).setSnrDef k { d with flags := d.flags ||| 4, unlisted := us }

/-- A row of definition `k` for tick `n` is not written (R345). -/
def rowLost (k n : Nat) (s : State) : State :=
  if s.snrTakes k n then addGap k n 1 2 0xFFFF (((s.ev 0x373).inc fSNR_DROPROW_CNT_ROWS).flag fSNR_FLT_FLAGS 1) else s

/-! ### Posting -/

/-- The fixed codes of R367: never limited, never coalesced. -/
def chsFixed (code : Nat) : Bool :=
  code ∈ [0x01, 0x02, 0x03, 0x0A, 0x0B, 0x0C, 0x0D, 0x0E, 0x10, 0x11, 0x73]

/-- The codes the Lid holds (R364). -/
def chsLid (code : Nat) : Bool := 0x0A ≤ code && code ≤ 0x0E

def State.rlBurst (s : State) (code : Nat) : Nat := smGet 16 s.mram.chs.rlBurst code
def State.rlPeriod (s : State) (code : Nat) : Nat := smGet 1000 s.mram.chs.rlPeriod code
def State.suppOf (s : State) (code : Nat) : Nat := smGet 0 s.mram.chs.supp code

def State.setSupp (s : State) (code n : Nat) : State :=
  { s with mram := { s.mram with chs := { s.mram.chs with supp := smSet 0 s.mram.chs.supp code n } } }

def State.bucket (s : State) (code : Nat) : Bucket :=
  (smFind? s.chs.buckets code).getD { tokens := s.rlBurst code, due := none }

def State.setBucket (s : State) (code : Nat) (b : Bucket) : State :=
  { s with chs := { s.chs with buckets := smInsert s.chs.buckets code b } }

/-- The FLAGS byte of a record made now (R359). Time carries the time-unset mark until the first-lock step (R546). -/
def State.recFlags (s : State) (code : Nat) (trunc : Bool) : Nat :=
  (if s.beforeStep then 1 else 0) + (if s.paired then 2 else 0) +
  (if s.paired && s.on fPAIR_STS_MEMBER then 4 else 0) + (if chsLid code then 8 else 0) + (if trunc then 16 else 0)

/-- A payload as a record holds it: cut to 224 bytes, padded to a multiple of 4 (R359). -/
def recPayload (p : Bytes) : Bytes := padTo 4 (p.take 224)

/-- The period timer's tokens, those that are due (R366). -/
def refillBucket (code : Nat) (s : State) : State :=
  let b := s.bucket code
  match b.due with
  | none => s
  | some d =>
    if s.up < d then s
    else
      let p := s.rlPeriod code * 1000000
      let k := (s.up - d) / p + 1
      let n := min (b.tokens + k) (s.rlBurst code)
      s.setBucket code { tokens := n, due := if n < s.rlBurst code then some (d + k * p) else none }

/-- A suppressed post (R366): counted for its code and in CHS_SUPP_CNT. -/
def suppress (code : Nat) (s : State) : State :=
  (((s.ev 0x371).setSupp code (satAdd 32 (s.suppOf code) 1)).inc fCHS_SUPP_CNT_POSTS).flag fCHS_FLT_FLAGS 1

/-- Put a post that passed its tests in the queue, carrying the code's pending suppression count (R366). -/
def enqueuePost (code : Nat) (payload : Bytes) (trunc : Bool) (s : State) : State :=
  let p : Post := { code := code, flags := s.recFlags code trunc, rep := 0, time := s.clv.now,
                    supp := s.suppOf code, payload := payload }
  let s := s.setSupp code 0
  { s with chs := { s.chs with queue := s.chs.queue ++ [p] } }

/-- What a new post may coalesce into: the last post still queued, else the newest staged record (R365). -/
def State.newestPost (s : State) : Option (Nat × Nat × Bytes) :=
  match s.chs.queue.getLast? with
  | some p => some (p.code, p.time, p.payload)
  | none =>
    match s.mram.chs.staged.getLast? with
    | some r => some (r.code, r.time, r.payload)
    | none => none

/-- The coalescing test of R365. -/
def coalesces (code : Nat) (payload : Bytes) (s : State) : Bool :=
  match s.newestPost with
  | some (c, t, p) => !chsFixed code && c = code && p = payload && s.clv.now < t + s.rd fCHS_CFG_COAL_MS * 1000000
  | none => false

/-- Raise the newest post's or record's REPEAT by 1 (R365). -/
def coalesce (s : State) : State :=
  let s := s.inc fCHS_COAL_CNT_POSTS
  match s.chs.queue.getLast? with
  | some p => { s with chs := { s.chs with queue := s.chs.queue.dropLast ++ [{ p with rep := satAdd 32 p.rep 1 }] } }
  | none =>
    match s.mram.chs.staged.getLast? with
    | some r =>
      { s with mram := { s.mram with chs := { s.mram.chs with
          staged := s.mram.chs.staged.dropLast ++ [{ r with rep := satAdd 32 r.rep 1 }], upd := some (r.seq, satAdd 32 r.rep 1) } } }
    | none => s

/-- R366: a post takes a token, or is suppressed. -/
def rateLimit (code : Nat) (payload : Bytes) (trunc : Bool) (s : State) : State :=
  if chsFixed code || s.rlPeriod code = 0 then enqueuePost code payload trunc s
  else
    let s := refillBucket code s
    let b := s.bucket code
    if b.tokens = 0 then suppress code s
    else
      let due := match b.due with
        | some d => some d
        | none => some (s.up + s.rlPeriod code * 1000000)
      enqueuePost code payload trunc (s.setBucket code { tokens := b.tokens - 1, due := due })

/-- A unit posts `code` in the instance of `tick` (R361): Snare's EVENT terms, the queue's room, coalescing, the rate limit. -/
def postAt (tick code : Nat) (payload : Bytes) (s : State) : State :=
  let s := snareTriggerAll (fun t => t = SnrTerm.event code) causeEvent tick s
  let body := recPayload payload
  let full := s.chs.queue.length ≥ (if chsFixed code then 64 else 60)
  if full then (suppress code s).flag fCHS_FLT_FLAGS 0
  else if coalesces code body s then coalesce s
  else rateLimit code body (payload.length > 224) s

/-- A post made outside an instance, at the current tick (R348). -/
def post (code : Nat) (payload : Bytes) (s : State) : State := postAt s.curTick code payload s

/-- The source payload of the codes 0x12 to 0x18 (R373). -/
def srcPayload (src : Nat) (ofs : Int) (gm : Nat) : Bytes :=
  le 1 src ++ le 3 0 ++ le 8 (ofSigned 64 ofs) ++ le 8 gm

/-- The payload of the codes 0x30 to 0x35. -/
def slotPayload (slot tick : Nat) : Bytes := le 2 slot ++ le 2 0 ++ le 8 tick

/-- The payload of the codes 0x40 to 0x46. -/
def itemPayload (tick item lane count : Nat) : Bytes := le 8 tick ++ le 2 item ++ le 1 lane ++ le 1 count

/-- MODE_CHANGE (R29, R373). -/
def postModeChange (off old new : Nat) (s : State) : State := post 0x09 (le 4 off ++ le 4 old ++ le 4 new) s

end Sys2Proof.Machine
end

