-- ==== Sys2Proof/Machine/Chest.lean ====
section
/-!
DEFINITION. The Chest (R359–R372): writing records, the drawers, its own memory faults and the window fetch.
-/

namespace Sys2Proof.Machine

abbrev Out := Host.Outcome State Fault Refusal

/-- The bytes of a record (R359): LEN, CODE, FLAGS, REPEAT, SEQ, TIME, SUPP, PAYLOAD, CRC. -/
def recBytes (r : ChestRec) : Bytes :=
  let body := le 2 (32 + r.payload.length) ++ le 1 r.code ++ le 1 r.flags ++ le 4 r.rep ++ le 8 r.seq ++ le 8 r.time ++
    le 4 r.supp ++ r.payload
  body ++ le 4 (crc32c body)

def recLen (r : ChestRec) : Nat := 32 + r.payload.length

def recsLen (rs : List ChestRec) : Nat := (rs.map recLen).sum

def State.setChs (s : State) (c : ChestMram) : State := { s with mram := { s.mram with chs := c } }

/-- Staging is a ring of 512 KiB (R362). -/
abbrev stagingBytes : Nat := 524288

/-- How many of the oldest staged records a new one of `n` bytes overwrites (R363). -/
def overwritten (n : Nat) : List ChestRec → Nat
  | [] => 0
  | r :: rs => if recsLen (r :: rs) + n ≤ stagingBytes then 0 else overwritten n rs + 1

/-- The SEQ range that a record's loss leaves to be named once NAND accepts pages again (R363). -/
def lostRange (o : Option (Nat × Nat)) (r : ChestRec) : Option (Nat × Nat) :=
  match o with
  | none => some (r.seq, 1)
  | some (f, _) => some (f, r.seq + 1 - f)

/-! ### The drawers -/

/-- The records of a page: whole records only, at most 4,064 bytes (R364). Answers the page and the rest. -/
def pageFill : Nat → List ChestRec → List ChestRec × List ChestRec
  | _, [] => ([], [])
  | room, r :: rs =>
    if recLen r ≤ room then
      let (a, b) := pageFill (room - recLen r) rs
      (r :: a, b)
    else ([], r :: rs)

/-- Data blocks Roll may fill: 1,024 less the retired ones and the one kept erased (R364). -/
def rollCap (n : ChestNand) : Nat := 1023 - n.retired

/-- Append a page to Roll, erasing the oldest block when a new block is needed and none is free. -/
def rollAppend (pg : RollPage) (n : ChestNand) : ChestNand :=
  match n.blocks.getLast? with
  | some b =>
    if b.length < 64 then { n with blocks := n.blocks.dropLast ++ [b ++ [pg]] }
    else { n with blocks := (n.blocks.drop (n.blocks.length + 1 - rollCap n)) ++ [[pg]] }
  | none => { n with blocks := [[pg]] }

/-- Records that leave staging are copied to Keep while it has room (R364). -/
def keepCopy (rs : List ChestRec) (m : ChestMram) : ChestMram :=
  if m.commissioned then
    { m with keep := m.keep ++ ((rs.filter fun r => m.keepSeq ≤ r.seq).take (8192 - m.keep.length)) }
  else m

/-- A block retires: RETIRED rises, NAND_FAULT is written, and Roll stops below 64 good blocks (R364, R371). -/
def retireBlock (block : Nat) (erase : Bool) (s : State) : State :=
  let n := { s.nand.chs with retired := s.nand.chs.retired + 1 }
  let s := { s with nand := { s.nand with chs := n } }
  let s := (s.flag fCHS_FLT_FLAGS 3).inc fCHS_ECC_CNT_UE
  let s := post 0x0C (le 2 block ++ le 1 (if erase then 1 else 0) ++ le 1 0) s
  if 1024 - n.retired < 64 then
    { (s.flag fCHS_FLT_FLAGS 9) with chs := { s.chs with nandOk := false } }
  else s

/-- The oldest staged records are overwritten until one of `n` bytes fits; what leaves staging is copied to Keep first (R363, R364). -/
def stagingRoom (n : Nat) (m : ChestMram) : ChestMram :=
  let k := overwritten n m.staged
  let m := keepCopy (m.staged.take k) m
  { m with staged := m.staged.drop k, overflow := (m.staged.take k).foldl lostRange m.overflow }

/-- Write one page of records to Roll and take them out of staging. -/
def rollWrite (pg rest : List ChestRec) (fail : Bool) (s : State) : State :=
  let newest := s.mram.chs.staged.drop (s.mram.chs.staged.length - 1)
  let s := s.setChs (keepCopy pg { s.mram.chs with staged := rest ++ newest })
  if fail then
    let block := s.nand.chs.blocks.length - 1
    let n := { s.nand.chs with blocks := s.nand.chs.blocks ++ [[{ recs := pg }]] }
    retireBlock block false { s with nand := { s.nand with chs := n } }
  else { s with nand := { s.nand with chs := rollAppend { recs := pg } s.nand.chs } }

/-- Move staged records, other than the newest, in pages until none is left (R362). -/
def rollAll : Nat → State → State
  | 0, s => s
  | k + 1, s =>
    let (pg, rest) := pageFill 4064 s.mram.chs.staged.dropLast
    if pg.isEmpty then s else rollAll k (rollWrite pg rest false s)

/-- Staged records that leave no room for one of `n` bytes go to Roll while NAND takes pages (R362, R363). -/
def makeRoom (n : Nat) (s : State) : State :=
  if s.chs.nandOk && recsLen s.mram.chs.staged + n > stagingBytes then rollAll s.mram.chs.staged.length s else s

/-- A post becomes the newest staged record under the next sequence number (R361 step 4); `q`: the posts behind it. -/
def stagePost (p : Post) (q : List Post) (s : State) : State :=
  let m := stagingRoom (32 + p.payload.length) s.mram.chs
  let r : ChestRec := { code := p.code, flags := p.flags, rep := p.rep, seq := m.nextSeq, time := p.time,
                        supp := p.supp, payload := p.payload }
  let lid := if chsLid p.code then (m.lid ++ [r]).drop (m.lid.length + 1 - 16) else m.lid
  let m := { m with staged := m.staged ++ [r], lid := lid, nextSeq := m.nextSeq + 1,
                    lastStart := if p.code = 0x02 then r.seq else m.lastStart }
  let s := s.setChs m
  { s with chs := { s.chs with queue := q } }

/-- A record has been written: its counts, and the vector at most once a ms (R374). -/
def recordWritten (code : Nat) (s : State) : State :=
  let s := State.eccWrite 8 0 (((s.ev 0x370).inc fCHS_REC_CNT_RECORDS).smEvent 2)
  let s := if chsLid code then s.eccWrite 9 0 else s
  let quiet := match s.chs.vecAt with
    | some t => s.up < t + 1000000
    | none => false
  if s.on fCHS_CFG_VEC_EN && !quiet then
    { (s.msix (s.rd fCHS_CFG_VEC)) with chs := { s.chs with vecAt := some s.up } }
  else s

/-- R361 step 4: the post at the head of the queue takes a sequence number and becomes the newest staged record. Staged records that no
longer leave room for it go to Roll, and are overwritten where NAND takes no pages (R362, R363). -/
def writeRecord (s : State) : State :=
  match s.chs.queue with
  | [] => s
  | p :: q => recordWritten p.code (stagePost p q (makeRoom (32 + p.payload.length) s))

/-- Write every queued post (the power-fail commit of R55 and R362, and the RESEAT record of R82). -/
def drainPosts (s : State) : State := (List.range s.chs.queue.length).foldl (fun s _ => writeRecord s) s

/-- The staging descriptor is written over its older copy, with the next generation (R362). -/
def writeDesc (s : State) : State :=
  let (a, b) := s.mram.chs.desc
  s.setChs { s.mram.chs with desc := if a ≤ b then (b + 1, b) else (a, a + 1) }

/-! ### Lookup -/

def rollRecs (n : ChestNand) : List ChestRec :=
  (n.blocks.flatten.map fun p => if p.bad then p.recs.map fun r => { r with bad := true } else p.recs).flatten

/-- Every copy of a SEQ, in the order of R369: staging, the Lid, Keep, Roll. -/
def State.recCopies (s : State) (seq : Nat) : List ChestRec :=
  (s.mram.chs.staged ++ s.mram.chs.lid ++ s.mram.chs.keep ++ rollRecs s.nand.chs).filter fun r => r.seq = seq

/-- What a reader of a SEQ finds. -/
inductive Lookup where
  | found (r : ChestRec)
  | gone | notYet | skipped | fault
deriving DecidableEq, Repr

def State.recLookup (s : State) (seq : Nat) : Lookup :=
  if s.mram.chs.nextSeq ≤ seq then .notYet
  else
    let cs := s.recCopies seq
    match cs.find? fun r => !r.bad with
    | some r => .found r
    | none =>
      if !cs.isEmpty then .fault
      else if s.mram.chs.declared.any fun d => d.1 ≤ seq && seq < d.1 + d.2 then .skipped
      else .gone

/-- Declare a range of sequence numbers skipped or lost (R360). -/
def declareRange (first count : Nat) (s : State) : State :=
  s.setChs { s.mram.chs with declared := s.mram.chs.declared ++ [(first, count)] }

/-- RECS_LOST (R373), with its declared range and flag. -/
def recsLost (first count cause : Nat) (s : State) : State :=
  (post 0x0B (le 8 first ++ le 8 count ++ le 1 cause) (declareRange first count s)).flag fCHS_FLT_FLAGS 7

/-- SEQ_SKIP: the next SEQ is raised and the skipped range declared (R371, R372). -/
def seqSkip (newNext : Nat) (s : State) : State :=
  let old := s.mram.chs.nextSeq
  if newNext ≤ old then s
  else
    let s := declareRange old (newNext - old) (s.setChs { s.mram.chs with nextSeq := newNext })
    (post 0x0A (le 8 old ++ le 8 (newNext - old)) s).flag fCHS_FLT_FLAGS 6

/-- The uncorrectable-error count of the Chest's memory. -/
def chsUe (bit : Nat) (s : State) : State := (s.inc fCHS_ECC_CNT_UE).flag fCHS_FLT_FLAGS bit

/-- A staged record is lost to an uncorrectable error (R371). -/
def stagedLost (seq : Nat) (s : State) : State :=
  recsLost seq 1 1 (chsUe 2 (s.setChs { s.mram.chs with staged := s.mram.chs.staged.filter fun r => r.seq ≠ seq }))

/-- R371, fault by fault. A staged record that fails its CRC at S0 while the update slot holds its last update has it applied again
(R365). -/
def chestFault (f : ChestFault) (s : State) : State :=
  match f with
  | .corrected n => s.inc fCHS_ECC_CNT_CE n
  | .staged seq =>
    if s.mram.chs.staged.any fun r => r.seq = seq then
      match s.pwr.phase, s.mram.chs.upd with
      | .start 0, some (q, rep) =>
        if q = seq then
          s.setChs { s.mram.chs with staged := s.mram.chs.staged.map fun r => if r.seq = seq then { r with rep := rep } else r }
        else stagedLost seq s
      | _, _ => stagedLost seq s
    else s
  | .descriptor =>
    let all := s.mram.chs.staged ++ s.mram.chs.lid ++ rollRecs s.nand.chs
    let top := (all.map fun r => r.seq).foldl max 0
    let m := { s.mram.chs with staged := [], nextSeq := top + 1, desc := (0, 0) }
    seqSkip (top + 65536) (chsUe 10 (s.setChs m))
  | .nandRead seq =>
    let hit (p : RollPage) : Bool := !p.bad && p.recs.any fun r => r.seq = seq
    match s.nand.chs.blocks.flatten.find? hit with
    | none => s
    | some p =>
      let mark (q : RollPage) : RollPage := if hit q then { q with bad := true } else q
      let n := { s.nand.chs with blocks := s.nand.chs.blocks.map fun b => b.map mark }
      let first := (p.recs.head?.map fun r => r.seq).getD 0
      let last := (p.recs.getLast?.map fun r => r.seq).getD 0
      recsLost first (last + 1 - first) 2 (chsUe 4 { s with nand := { s.nand with chs := n } })
  | .nandProgram block erase => retireBlock block erase s
  | .keep seq =>
    let k := s.mram.chs.keep.map fun r => if r.seq = seq then { r with bad := true } else r
    post 0x0D (le 8 seq) (chsUe 5 (s.setChs { s.mram.chs with keep := k }))
  | .lid => post 0x0E [] (chsUe 8 (s.setChs { s.mram.chs with lid := [] }))
  | .nandAccepts ok =>
    if ok then
      if 1024 - s.nand.chs.retired < 64 then s
      else
        let s := { s with chs := { s.chs with nandOk := true } }
        match s.mram.chs.overflow with
        | none => s
        | some (f, n) => recsLost f n 3 (s.setChs { s.mram.chs with overflow := none })
    else { s with chs := { s.chs with nandOk := false } }

/-- A write to CHS_RD_SEQ_LO starts or restarts the window fetch (R369). -/
def chestFetch (seqLo : Nat) (s : State) : State :=
  let s := s.wr fCHS_RD_SEQ_LO_Q_LO seqLo
  let s := s.wrB fCHS_RD_STS_DONE false
  { s with chs := { s.chs with fetch := some (s.rd fCHS_RD_SEQ_HI_Q_HI * 2 ^ 32 + s.rd fCHS_RD_SEQ_LO_Q_LO) } }

/-- Load words into consecutive registers whose field for index w is `f w`. -/
def wrWords (f : Nat → Fld) (n : Nat) (bs : Bytes) (s : State) : State :=
  (List.range n).foldl (fun s w => s.wr (f w) (leAt bs (4 * w) 4)) s

/-- The window fetch ends: result, length and the record's words at one instant (R369, R374). -/
def chestFetchDone (s : State) : State :=
  match s.chs.fetch with
  | none => s
  | some seq =>
    let (res, bs) : Nat × Bytes := match s.recLookup seq with
      | .found r => (0, recBytes r)
      | .gone => (1, [])
      | .notYet => (2, [])
      | .skipped => (3, [])
      | .fault => (4, [])
    let s := wrWords fCHS_RD_DATA_DATA 64 bs s
    let s := ((s.wr fCHS_RD_STS_RESULT res).wr fCHS_RD_STS_LEN bs.length).wrB fCHS_RD_STS_DONE true
    { s with chs := { s.chs with fetch := none } }

/-! ### The commands -/

/-- EVENT_POST (R361): code 0 is no event code. -/
def execEventPost (code : Fin 256) (payload : Bytes) (s : State) : Out :=
  .next (if code.val = 0 then s else post code payload s)

/-- CHEST_RECORD_WRITE (R361 step 4): the steward core writes it, so none is written while it is in reset. -/
def execChestRecordWrite (s : State) : Out := .next (if s.stewAlive then writeRecord s else s)

/-- TOKEN_REFILL (R366). -/
def execTokenRefill (code : Fin 256) (s : State) : Out := .next (refillBucket code s)

/-- ROLL_PAGE_WRITE (R362, R364): only when the staged records other than the newest fill a page and NAND accepts it. -/
def execRollPageWrite (fail : Bool) (s : State) : Out :=
  let (pg, rest) := pageFill 4064 s.mram.chs.staged.dropLast
  .next (if s.chs.nandOk && !pg.isEmpty && !rest.isEmpty then rollWrite pg rest fail s else s)

/-- CHEST_FLUSH (R362): FLUSH_S after the flush before it, all staged records but the newest are moved to NAND. -/
def execChestFlush (s : State) : Out :=
  .next (
    if s.up < s.chs.flushAt + s.rd fCHS_CFG_FLUSH_S * 1000000000 then s
    else
      let s := if s.chs.nandOk then rollAll s.mram.chs.staged.length s else s
      { s with chs := { s.chs with flushAt := s.up } })

/-- CHEST_MEMORY_FAULT (R371). -/
def execChestMemoryFault (f : ChestFault) (s : State) : Out := .next (chestFault f s)

/-- CHEST_FETCH (R369). -/
def execChestFetch (seqLo : Nat) (s : State) : Out := .next (chestFetch seqLo s)

/-- CHEST_FETCH_DONE (R369). -/
def execChestFetchDone (s : State) : Out := .next (chestFetchDone s)

end Sys2Proof.Machine
end

