-- ==== Sys2Proof/Machine/Access.lean ====
section
/-!
DEFINITION. Whole registers (R6, R7, R536): which register an offset names, its fields, and the word they hold.
-/

namespace Sys2Proof.Machine

/-- An offset is the base plus a multiple of each stride, within the counts. -/
def inDims : Nat → List (Nat × Nat) → Bool
  | d, [] => d = 0
  | d, (st, cnt) :: rest => d / st < cnt && inDims (d % st) rest

/-- The register that an offset names. -/
def regAt (off : Nat) : Option RegDesc :=
  (regsOfBlock (if off ≥ 0x800000 then 0x80 else off / 0x10000)).find? fun r => r.base ≤ off && inDims (off - r.base) r.dims

/-- A field of the register at an offset. -/
def fieldAt (off : Nat) (d : FieldDesc) : Fld := ⟨off, d.lo, d.w, resetAt off d.lo d.rst⟩

def fieldsAt (off : Nat) : List FieldDesc := match regAt off with | some r => r.fields | none => []

/-- The word a register's fields hold. -/
def State.word (s : State) (off : Nat) : Nat :=
  (fieldsAt off).foldl (fun w d => w + s.rd (fieldAt off d) * 2 ^ d.lo) 0

/-- The image's field at a key of the register table. -/
def imageField? (key : Nat) : Option Fld :=
  ((fieldsAt (key / 32)).find? fun d => d.image && d.lo = key % 32).map fun d => fieldAt (key / 32) d

/-- Every register field that an image sets starts at the image's value, 0 where it gives none (R472). -/
def loadRegs (old : List (Nat × Nat)) (new : List (Nat × Nat)) (s : State) : State :=
  let s := old.foldl (fun s r => match imageField? r.1 with | some f => s.wr f f.rst | none => s) s
  new.foldl (fun s r => match imageField? r.1 with | some f => s.wr f r.2 | none => s) s

/-- Least and greatest value of a field whose writes outside them are ignored. -/
def fieldRanges : List (Nat × Nat × Nat) :=
  [(fCLV_TIMER_CFG_STUCK_S.key, 1, 65535), (fCLV_TIMER_CFG_LOSS_S.key, 1, 255), (fCLV_QUAL_CFG_LOCK_NS.key, 1, 255),
   (fCLV_QUAL_CFG_DRIFT_PPB.key, 1, 255), (fCLV_QUAL_CFG_QUAL_LIMIT_NS.key, 100, 65535), (fCLV_PTP_CFG_PROFILE.key, 0, 2),
   (fCLV_TOD_CFG_BAUD.key, 0, 4), ((fCLV_TTG_START_NS_NS 0).key, 0, 999999999), ((fPORT_RX_CFG_MAX_LEN 0).key, 1518, 9216),
   (fING_DUP_CFG_HOLD_MS.key, 1, 255), (fING_CFG_FUTURE_MS.key, 1, 255)] ++
  [(fSPEC_FO_CFG_FO_SHARE.key, 1, 200), (fSPEC_FO_CFG_FO_DEV.key, 1, 200), (fSPEC_FO_CFG_FO_WIN.key, 10, 65535),
   ((fSPEC_BAND_CFG_PERSIST 0).key, 1, 255), ((fSPEC_BAND_CFG_FO_PERSIST 0).key, 1, 255), ((fSPEC_BAND_CFG_MIN_SIG 0).key, 1, 255),
   (fSPEC_DEF_CFG_SHARE_MIN.key, 1, 200), (fSPEC_DEF_CFG_DEF_PERSIST.key, 1, 255), (fCOH_SPREAD_CFG_PICKUP.key, 1, 255),
   (fEGR_BP_CFG_BP_US.key, 10, 4000), ((fSNR_DEF_CFG_AUTO_S 0).key, 1, 65535), (fCHS_CFG_FLUSH_S.key, 1, 60)] ++
  [(fCHS_CFG_COAL_MS.key, 0, 60000), (fPAIR_CFG_RECOVER_S.key, 1, 255), (fPAIR_CFG_WAIT_S.key, 1, 255), (fPAIR_CFG2_COPY_MS.key, 100, 10000),
   (fLMF_PLAUS_CFG_PLAUS_S.key, 1, 255), (fLMF_PLAUS_CFG_PLAUS_N.key, 1, 15), (fLMF_PLAUS_CFG_TOL.key, 1, 65535),
   ((fLMF_ICV_CFG_EXT_MV 0).key, 1250, 2500), ((fLMF_ICV_SCAN_S 0 0).key, 0, 8), (fPMC_TAG_CFG_K.key, 0, 20),
   (fTST_ECC_CFG_TARGET.key, 0, 10), (fTST_ECC_CFG_BITS.key, 1, 2)]

/-- The low `w` bits of a word from bit `lo`. -/
def bitsAt (v lo w : Nat) : Nat := v / 2 ^ lo % 2 ^ w

/-- SPEC_TRK_CFG's fields fit together: the thresholds of damping and CONF_MIN (R252). -/
def trkWordOk (v : Nat) : Bool := 1 ≤ bitsAt v 16 8 && bitsAt v 16 8 ≤ bitsAt v 24 8 && bitsAt v 0 8 ≤ 200

/-- SPEC_TRK_CFG2's fields fit together: F_LO and F_HI, and D_PERSIST. -/
def trk2WordOk (v : Nat) : Bool := 1 ≤ bitsAt v 12 12 && bitsAt v 12 12 ≤ bitsAt v 0 12 && bitsAt v 0 12 ≤ 500 && 1 ≤ bitsAt v 24 8

/-- A field's value lies in the range its register states; the same for every element of an array of registers. -/
def inRange (key v : Nat) : Bool :=
  match regAt (key / 32) with
  | some r =>
    match fieldRanges.find? fun x => x.1 = r.base * 32 + key % 32 with
    | some x => x.2.1 ≤ v && v ≤ x.2.2
    | none => true
  | none => true

end Sys2Proof.Machine
end

