-- ==== Sys2Proof/Machine/Packet.lean ====
section
/-!
DEFINITION. Reading Ethernet, IP and UDP headers (R125 steps 1 and 2, R128), the PRP trailer (R110) and C37.118 frame
headers. Header layouts are those of the standards the spec names (PRESUMED, log entry 10).
-/

namespace Sys2Proof.Machine

/-- The layer-2 header: destination, source, VLAN identifier of one 802.1Q tag, EtherType and where the payload begins. -/
structure EthHdr where
  dst : Nat
  src : Nat
  vlan : Option Nat
  etype : Nat
  off : Nat
deriving DecidableEq, Repr

def ethHdr (b : Bytes) : EthHdr :=
  let t := beAt b 12 2
  if t = 0x8100 then { dst := beAt b 0 6, src := beAt b 6 6, vlan := some (beAt b 14 2 % 4096), etype := beAt b 16 2, off := 18 }
  else { dst := beAt b 0 6, src := beAt b 6 6, vlan := none, etype := t, off := 14 }

/-- The ones' complement sum of 16-bit words. -/
def sum16 : Bytes → Nat
  | a :: b :: rest => a.toNat * 256 + b.toNat + sum16 rest
  | [a] => a.toNat * 256
  | [] => 0

/-- The 16-bit ones' complement sum folded; a right checksum gives 0xFFFF. -/
def fold16 (n : Nat) : Nat :=
  let n := n % 65536 + n / 65536
  let n := n % 65536 + n / 65536
  n % 65536 + n / 65536

/-- An IPv4 address in IPv4-mapped IPv6 form (R455). -/
def mapped (a : Nat) : Nat := 0xFFFF * 2 ^ 32 + a

/-- What layers 3 and 4 say (R128): not IP, a fragment, bad, another protocol (with the first two words of its header, which are TCP's ports),
or a UDP datagram. -/
inductive L34 where
  | notIp
  | fragment
  | bad
  | other (proto src dst w0 w1 : Nat)
  | udp (src dst : Nat) (sport dport : Nat) (payload : Bytes)
deriving DecidableEq, Repr

/-- The UDP header and checksum of a datagram whose pseudo-header words sum to `pseudo`. A truncated frame's datagram has lost its end: its
length and checksum say nothing, and it goes on to its binding (R547). -/
def readUdp (v4 trunc : Bool) (src dst pseudo : Nat) (seg : Bytes) : L34 :=
  let len := beAt seg 4 2
  if seg.length < 8 || len < 8 || (seg.length < len && !trunc) then .bad
  else if seg.length < len then .udp src dst (beAt seg 0 2) (beAt seg 2 2) (seg.drop 8)
  else
    let seg := seg.take len
    let ck := beAt seg 6 2
    if ck = 0 then (if v4 then .udp src dst (beAt seg 0 2) (beAt seg 2 2) (seg.drop 8) else .bad)
    else if fold16 (pseudo + 17 + len + sum16 seg) ≠ 0xFFFF then .bad
    else .udp src dst (beAt seg 0 2) (beAt seg 2 2) (seg.drop 8)

/-- IPv6 next headers that are extension headers: hop-by-hop, routing, fragment, ESP, AH, destination options, mobility, HIP, shim6. -/
def ipv6Ext : List Nat := [0, 43, 44, 50, 51, 60, 135, 139, 140]

/-- Layers 3 and 4 of a frame; `trunc`: its end is missing (R105). An ICMPv6 message behind a hop-by-hop header is MLD, which R125 names. -/
def readIp (trunc : Bool) (etype : Nat) (b : Bytes) : L34 :=
  if etype = 0x0800 then
    let v := beAt b 0 1
    let ihl := v % 16 * 4
    let total := beAt b 2 2
    let frag := beAt b 6 2
    if frag % 8192 ≠ 0 || frag / 8192 % 2 = 1 then .fragment
    else if v / 16 ≠ 4 || ihl < 20 || b.length < ihl || (b.length < total && !trunc) || total < ihl then .bad
    else if fold16 (sum16 (b.take ihl)) ≠ 0xFFFF then .bad
    else
      let seg := (b.take total).drop ihl
      let proto := beAt b 9 1
      let src := mapped (beAt b 12 4)
      let dst := mapped (beAt b 16 4)
      if proto = 17 then readUdp true trunc src dst (sum16 ((b.drop 12).take 8)) seg
      else .other proto src dst (beAt seg 0 2) (beAt seg 2 2)
  else if etype = 0x86DD then
    let len := beAt b 4 2
    let next := beAt b 6 1
    if beAt b 0 1 / 16 ≠ 6 || b.length < 40 || (b.length < 40 + len && !trunc) then .bad
    else
      let seg := (b.drop 40).take len
      let src := beAt b 8 16
      let dst := beAt b 24 16
      if next = 17 then readUdp false trunc src dst (sum16 ((b.drop 8).take 32)) seg
      else if next = 0 && beAt seg 0 1 = 58 then .other 58 src dst 0 0
      else if ipv6Ext.contains next then .bad
      else .other next src dst (beAt seg 0 2) (beAt seg 2 2)
  else .notIp

/-- A valid PRP trailer (R110): suffix 0x88FB and an LSDU size that matches the frame. Answers the LAN field (1 A, 2 B), sequence
number and the frame without it. -/
def prpTrailer (b : Bytes) : Option (Nat × Nat × Bytes) :=
  let n := b.length
  let h := ethHdr b
  if n < h.off + 6 || beAt b (n - 2) 2 ≠ 0x88FB then none
  else
    let w := beAt b (n - 4) 2
    let lan := if w / 4096 = 0xA then 1 else if w / 4096 = 0xB then 2 else Config.prpLan (w / 4096) % 4
    if w % 4096 = (n - h.off) % 4096 then some (lan, beAt b (n - 6) 2, b.take (n - 6)) else none

/-- PRP supervision frames (R110). -/
def isPrpSupervision (b : Bytes) : Bool := (ethHdr b).etype = 0x88FB

/-- The stream key of a C37.118 data frame (R110): IDCODE, SOC and FRACSEC bits 23:0. It needs only the first bytes, so the
header is read without its length or checksum checks. -/
def c37Key? (b : Bytes) : Option Nat :=
  let h := ethHdr b
  let off :=
    if h.etype = 0x0800 && beAt b (h.off + 9) 1 = 17 then some (h.off + beAt b h.off 1 % 16 * 4 + 8)
    else if h.etype = 0x86DD && beAt b (h.off + 6) 1 = 17 then some (h.off + 48)
    else none
  match off with
  | none => none
  | some o =>
    let sync := beAt b o 2
    let ver := sync % 16
    if b.length ≥ o + 14 && sync / 256 = 0xAA && sync / 16 % 8 = 0 && (ver = 1 || ver = 2) then
      some (2 ^ 100 + (beAt b (o + 4) 2 * 2 ^ 32 + beAt b (o + 6) 4) * 2 ^ 24 + beAt b (o + 11) 3)
    else none

/-- The PRP key (R110): source MAC address and sequence number. -/
def prpKey (src seq : Nat) : Nat := 2 ^ 101 + src * 65536 + seq

end Sys2Proof.Machine
end

