-- ==== Sys2Proof/Machine/Ports.lean ====
section
/-!
DEFINITION. The frame ports (R96–R124): links, receive FIFO, duplicate filter, pause, preemption and transmission.
-/

namespace Sys2Proof.Machine

def State.port (s : State) (n : Nat) : Port := s.ports.getD n {}
def State.setPort (s : State) (n : Nat) (p : Port) : State := { s with ports := s.ports.set n p }
def State.portCfg (s : State) (n : Nat) : PortCfg :=
  match s.img with
  | some i => i.ports.getD n {}
  | none => {}

/-- Port modes (R122). -/
def State.portMode (s : State) (n : Nat) : Nat := s.rd (fPORT_CFG_MODE n)
def State.link (s : State) (n : Nat) : Bool := s.on (fPORT_STS_LINK n)

/-- PMAC values of PORT_STS (R122). -/
abbrev pmacOff : Nat := 0
abbrev pmacVerifying : Nat := 1
abbrev pmacActive : Nat := 2
abbrev pmacFailed : Nat := 3

/-- The MAC address of a port (R98): PAIR_A and PAIR_B are ports 64 and 65. -/
def portMac (n : Nat) : Nat := Config.macBase + n

/-- Words a stored frame of L bytes takes: one header word and ⌈L / 8⌉ data words (R101). FCS is part of L. -/
def rxWords (len : Nat) : Nat := 1 + (len + 7) / 8

/-- Words of a frame that is still arriving: its header word, with END = 0, and its whole data words (R101); none once it is lost (R104). -/
def curWords (c : RxCur) : Nat := if c.lost then 0 else 1 + min c.bytes.length c.maxLen / 8

/-- WR as it stands: past the words of the frame that is arriving (R102). -/
def rxWr (p : Port) : Nat := (p.wr + (match p.cur with | some c => curWords c | none => 0)) % 16384

/-- Words of ended frames held in the receive FIFO, and all words in use. -/
def rxHeld (p : Port) : Nat := (p.wr + 16384 - p.rel) % 16384
def rxUsed (p : Port) : Nat := (rxWr p + 16384 - p.rel) % 16384

/-- The timestamp in the word at REL: the oldest frame held, the one that is arriving among them (R101, R103). -/
def rxOldest (p : Port) : Option Nat :=
  match p.rx.head? with
  | some f => some f.stamp
  | none => p.cur.bind fun c => if c.lost then none else some c.stamp

/-! ### The duplicate filter (R110–R113) -/

def State.dupFind (s : State) (key : Nat) : Option DupEntry := s.dup.find? fun e => e.key = key

/-- The final entry that became final earliest. -/
def oldestFinal (l : List DupEntry) : Option DupEntry :=
  l.foldl (fun acc e => match e.final, acc with
    | none, _ => acc
    | some _, none => some e
    | some t, some b => if t.1 < ((b.final.map fun x => x.1).getD 0) then some e else acc) none

/-- Make a provisional entry, freeing the oldest final one where all 131,072 are in use (R113). -/
def dupInsert (key n : Nat) (s : State) : DupState × State :=
  let s := if s.dup.length < 131072 then s
    else match oldestFinal s.dup with
      | some e => (({ s with dup := s.dup.filter fun x => x.id ≠ e.id } : State).inc fING_DUP_CNT_EVICT).flag (fPORT_FLT_FLAGS n) 8
      | none => s
  (.owner key s.dupNext, { s with dup := s.dup ++ [{ key := key, id := s.dupNext, final := none }], dupNext := s.dupNext + 1 })

/-- The outcome of a lookup at the ordered point (R111). -/
def dupLookup (key n : Nat) (s : State) : DupState × State :=
  match s.dupFind key with
  | none => dupInsert key n s
  | some e =>
    match e.final with
    | some _ => (.discard, s)
    | none => (.waiting key e.id, s.inc (fPORT_DUPWAIT_CNT_FRAMES n))

/-- The key that port n's DUP setting takes from the bytes that have arrived (R110). `whole` = the frame has ended; a truncated one has lost
its trailer. -/
def State.dupKey (s : State) (n : Nat) (whole trunc : Bool) (b : Bytes) : Option Nat :=
  let d := s.rd (fPORT_CFG_DUP n)
  let prp := if whole && !trunc && (d = 1 || d = 3) then (prpTrailer b).map fun t => prpKey (ethHdr b).src t.2.1 else none
  match prp with
  | some k => some k
  | none => if d = 2 || (d = 3 && whole) then c37Key? b else none

/-- What a copy that waits for entry `id` becomes when the entry resolves. -/
def dupTold (id : Nat) (res d : DupState) : DupState :=
  match d with
  | .waiting _ i => if i = id then res else d
  | d => d

/-- Entry `id` has resolved: every copy that waits for it learns so (R111). -/
def dupTell (id : Nat) (res : DupState) (s : State) : State :=
  { s with ports := s.ports.map fun p =>
      { p with rx := p.rx.map fun f => { f with dup := dupTold id res f.dup },
               cur := p.cur.map fun c => { c with dup := dupTold id res c.dup } } }

/-- The copy that made an entry has been committed: the entry is final and kept HOLD_MS (R111, R113), and the copies that waited are
discarded. -/
def dupFinal (d : DupState) (s : State) : State :=
  match d with
  | .owner _ id =>
    let t := s.up + s.rd fING_DUP_CFG_HOLD_MS * 1000000
    dupTell id .discard { s with dup := s.dup.map fun e => if e.id = id then { e with final := some (s.up, t) } else e }
  | _ => s

/-- The copy that made an entry ended badly, or the parser dropped it: the entry is removed, and the copies that waited go back (R111). -/
def dupDrop (d : DupState) (s : State) : State :=
  match d with
  | .owner key id => dupTell id (.again key) { s with dup := s.dup.filter fun e => e.id ≠ id }
  | _ => s

/-! ### Receive -/

/-- Drop a frame that ended badly and roll its parse back (R104, R105, R108): CUR returns to its header word. -/
def rxBad (n : Nat) (dup : DupState) (started : Bool) (s : State) : State :=
  let s := dupDrop dup s
  if started then ((s.setPort n { s.port n with curPtr := (s.port n).wr }).ev (0x280 + n)).inc (fPORT_ROLLBACK_CNT_FRAMES n) else s

/-- A word would have made the FIFO full: the frame is dropped whole (R104). -/
def rxOverflow (n : Nat) (dup : DupState) (started : Bool) (s : State) : State :=
  rxBad n dup started (((s.ev (0x200 + n)).inc (fPORT_DROP_CNT_FRAMES n)).flag (fPORT_FLT_FLAGS n) 5)

/-- A frame has passed the checks: it is counted, and stored unless it is a duplicate (R105, R111). -/
def rxStore (n : Nat) (f : RxFrame) (s : State) : State :=
  let s := State.eccWrite 0 n (((s.ev (0x140 + n)).ev (0x180 + n) f.len).inc (fPORT_RX_CNT_FRAMES n))
  match f.dup with
  | .discard => (s.ev (0x240 + n)).inc (fPORT_DUP_CNT_FRAMES n)
  | _ => s.setPort n { s.port n with rx := (s.port n).rx ++ [f], wr := ((s.port n).wr + rxWords f.len) % 16384 }

/-- Begin or replace a pause of q quanta on an obeying port, or end it with q = 0 (R115). A quantum is 512 bit times. -/
def pauseRx (n q : Nat) (s : State) : State :=
  let s := s.inc (fPORT_PAUSE_CNT_FRAMES n)
  if !s.on (fPORT_CTL_PAUSE_OBEY n) then s
  else if q = 0 then (s.setPort n { s.port n with pausedTo := none }).wrB (fPORT_STS_PAUSED n) false
  else
    let m := s.portMode n
    let ns := if m = 4 then q * 512 / 10 else if m = 3 then q * 2048 / 10 else q * 512
    (s.setPort n { s.port n with pausedTo := some (s.up + ns) }).wrB (fPORT_STS_PAUSED n) true

/-- A MAC control frame (R105, R114): PAUSE is counted, and obeyed where it is addressed to the PAUSE group or to the port; any other opcode
is counted apart. -/
def macControl (n : Nat) (h : EthHdr) (b : Bytes) (s : State) : State :=
  if beAt b h.off 2 ≠ 1 then s.inc (fPORT_CTRL_CNT_FRAMES n)
  else if h.dst = 0x0180C2000001 || h.dst = portMac n then pauseRx n (beAt b (h.off + 2) 2) s
  else s.inc (fPORT_PAUSE_CNT_FRAMES n)

/-- Frames that the MAC keeps from the parser: MAC control and PRP supervision (R105, R110). -/
def macOnly (b : Bytes) : Bool := (ethHdr b).etype = 0x8808 || isPrpSupervision b

/-- The filter's word on a frame at its end: the lookup made as it arrived, or one made now. -/
def dupAtEnd (n : Nat) (trunc : Bool) (b : Bytes) (d : DupState) (s : State) : DupState × State :=
  match d with
  | .unchecked =>
    match s.dupKey n true trunc b with
    | some k => dupLookup k n s
    | none => (.unchecked, s)
  | d => (d, s)

/-- A frame has ended well: truncated, kept by the MAC, or stored without its PRP trailer (R105, R110). -/
def rxGood (n : Nat) (c : RxCur) (b : Bytes) (s : State) : State :=
  let h := ethHdr b
  if b.length + 4 < 64 then rxBad n c.dup c.started (s.inc (fPORT_RUNT_CNT_FRAMES n))
  else if h.etype = 0x8808 then macControl n h b s
  else if isPrpSupervision b then s.inc (fPORT_CTRL_CNT_FRAMES n)
  else if b.length + 4 > c.maxLen then
    let kept := (b ++ ethFcs b).take c.maxLen
    let (dup, s) := dupAtEnd n true kept c.dup s
    rxStore n { stamp := c.stamp, len := c.maxLen, bytes := kept, lan := 0, trunc := true, dup := dup, started := c.started }
      (s.inc (fPORT_TRUNC_CNT_FRAMES n))
  else
    let (dup, s) := dupAtEnd n false b c.dup s
    let (lan, b) := match prpTrailer b with
      | some (lan, _, b') => (lan, b')
      | none => (0, b)
    rxStore n { stamp := c.stamp, len := b.length + 4, bytes := b, lan := lan, trunc := false, dup := dup, started := c.started } s

/-- A frame's end (R104, R105): the words it wrote are tested first, since they came first; then the checks, in the table's order. `b` runs
from the destination address, without FCS. Fragments of a partner reach a port that does not reassemble as alignment errors (DESIGN CHOICE,
log entry 48). -/
def rxEnd (n : Nat) (c : RxCur) (b : Bytes) (fin : RxEnd) (s : State) : State :=
  let bad (s : State) : State := rxBad n c.dup c.started s
  let runt := bad (s.inc (fPORT_RUNT_CNT_FRAMES n))
  if c.lost then s
  else if !macOnly b && rxHeld (s.port n) + rxWords (min (b.length + 4) c.maxLen) ≥ 8192 then rxOverflow n c.dup c.started s
  else match fin with
  | .verify => s
  | .reassembly => if (s.port n).pmacOn then bad (s.inc (fPORT_FRAG_CNT_REASM_ERR n)) else runt
  | .symbolError => runt
  | .cutShort => runt
  | .badFcs => if b.length + 4 < 64 then runt else bad ((s.ev (0x1C0 + n)).inc (fPORT_FCS_CNT_FRAMES n))
  | .eccUe => bad ((s.inc (fPORT_ECC_CNT_UE n)).flag (fPORT_FLT_FLAGS n) 3)
  | .fragments => if (s.port n).pmacOn then rxGood n c b s else runt
  | .good => rxGood n c b s

/-- A frame starts: its header word with its stamp, and MAX_LEN as it stands (R101, R106). -/
def State.rxBegin (s : State) (n stamp : Nat) : RxCur :=
  { stamp := s.rxInstant n stamp, bytes := [], maxLen := s.rd (fPORT_RX_CFG_MAX_LEN n), dup := .unchecked, started := false }

/-- MAC_RX_FRAME (R105, R109, R119): a frame has ended on a port whose link is up; `stamp` is where the port's sampler saw it begin. A verify
mPacket is answered with a respond mPacket where PMAC_EN is 1. -/
def execMacRxFrame (n : Fin 64) (stamp : Nat) (bytes : Bytes) (fin : RxEnd) (ce : Nat) (s : State) : Host.Outcome State Fault Refusal :=
  .next (
    if !s.link n then s
    else if fin = .verify then (if (s.port n).pmacOn then s.emit (.ctl "respond" n []) else s)
    else
      let s := s.inc (fPORT_ECC_CNT_CE n) ce
      let c := (s.port n).cur.getD (s.rxBegin n stamp)
      rxEnd n c bytes fin (s.setPort n { s.port n with cur := none }))

/-- Words of an arriving frame are tested as they are written; the key is looked up once its bytes are in (R104, R111). A parser that has
started on the frame reads on. -/
def rxArrive (n : Nat) (c : RxCur) (s : State) : State :=
  if !macOnly c.bytes && rxHeld (s.port n) + curWords c ≥ 8192 then
    let s := rxOverflow n c.dup c.started s
    s.setPort n { s.port n with cur := some { c with dup := .unchecked, started := false, lost := true } }
  else
    let (d, s) := match c.dup with
      | .unchecked => match s.dupKey n false false c.bytes with
        | some k => dupLookup k n s
        | none => (c.dup, s)
      | d => (d, s)
    let s := s.setPort n { s.port n with cur := some { c with dup := d } }
    if c.started then s.setPort n { s.port n with curPtr := rxWr (s.port n) } else s

/-- DUP_LOOKUP (R111, R101): `bytes` of the frame on the wire have arrived. The first of them start the frame; later ones add to it. -/
def execDupLookup (n : Fin 64) (stamp : Nat) (bytes : Bytes) (s : State) : Host.Outcome State Fault Refusal :=
  .next (
    if !s.link n then s
    else
      let c := (s.port n).cur.getD (s.rxBegin n stamp)
      if c.lost || bytes.length < c.bytes.length then s else rxArrive n { c with bytes := bytes } s)

/-- Release the frame at the head of the receive FIFO: REL moves past it, and the parser is at the next (R102). -/
def rxRelease (n : Nat) (s : State) : State :=
  let p := s.port n
  match p.rx with
  | [] => s
  | f :: rest =>
    let rel := (p.rel + rxWords f.len) % 16384
    s.setPort n { p with rx := rest, rel := rel, curPtr := rel, job := none }

/-- A copy that goes back through the ordered point. -/
def isAgain (d : DupState) : Bool := match d with | .again _ => true | _ => false

/-- A port holds a copy that goes back. -/
def hasAgain (p : Port) : Bool := p.rx.any (fun f => isAgain f.dup) || p.cur.any fun c => isAgain c.dup

/-- The first held copy that goes back is looked up again. -/
def againHeld (n : Nat) (pre : List RxFrame) : List RxFrame → State → State
  | [], s => s
  | f :: rest, s =>
    match f.dup with
    | .again k =>
      let (d, s) := dupLookup k n s
      s.setPort n { s.port n with rx := pre ++ { f with dup := d } :: rest }
    | _ => againHeld n (pre ++ [f]) rest s

/-- DUP_WAIT_RELEASE (R111): the entry a waiting copy met has resolved. Copies go back through the ordered point lowest port first; a held copy
that is to be discarded is released and counted. -/
def execDupWaitRelease (n : Fin 64) (s : State) : Host.Outcome State Fault Refusal :=
  .next (
    let p := s.port n
    if hasAgain p then
      if (List.range n).any fun m => hasAgain (s.port m) then s
      else if p.rx.any fun f => isAgain f.dup then againHeld n [] p.rx s
      else match p.cur with
        | some c => match c.dup with
          | .again k =>
            let (d, s) := dupLookup k n s
            s.setPort n { s.port n with cur := some { c with dup := d } }
          | _ => s
        | none => s
    else match p.rx with
      | f :: _ => if f.dup = .discard then ((rxRelease n s).ev (0x240 + n)).inc (fPORT_DUP_CNT_FRAMES n) else s
      | [] => s)

/-- DUP_ENTRY_EXPIRE (R113): final entries whose hold time has passed are freed. -/
def execDupEntryExpire (s : State) : Host.Outcome State Fault Refusal :=
  .next { s with dup := s.dup.filter fun e => match e.final with
    | some t => t.2 > s.up
    | none => true }

/-! ### Links (R96, R97, R99) -/

/-- Bring preemption to the state its enables give while the link is up (R119); verification starts afresh. -/
def pmacStart (n : Nat) (s : State) : State :=
  let s := s.setPort n { s.port n with verify := 0, verifyAt := s.up }
  if !(s.port n).pmacOn || !s.link n then s.wr (fPORT_STS_PMAC n) pmacOff
  else if (s.port n).verifyDis then s.wr (fPORT_STS_PMAC n) pmacActive
  else s.wr (fPORT_STS_PMAC n) pmacVerifying

/-- A frame boundary (R120): the written PMAC_EN, VERIFY_DIS and ADD_FRAG come into force. A change of PMAC_EN, or a write of it after FAILED,
restarts verification (R119, R120); a change of VERIFY_DIS leaves FAILED as it is. -/
def pmacApply (n : Nat) (s : State) : State :=
  let p := s.port n
  let en := s.on (fPORT_CTL_PMAC_EN n)
  let dis := s.on (fPORT_CTL_VERIFY_DIS n)
  let failed : Bool := s.rd (fPORT_STS_PMAC n) = pmacFailed
  let s := s.setPort n { p with pmacOn := en, verifyDis := dis, addFrag := s.rd (fPORT_CTL_ADD_FRAG n), pmacWritten := false }
  if en ≠ p.pmacOn || (p.pmacWritten && failed) || (dis ≠ p.verifyDis && !failed) then pmacStart n s else s

/-- Between frames a write of PORT_CTL takes effect at once. -/
def pmacWrite (n : Nat) (s : State) : State := if (s.port n).wire.isSome then s else pmacApply n s

/-- A link comes up, unless auto-negotiation holds it down; the port then retries in 1 s (R96, R97). -/
def linkUp (n : Nat) (fullDuplex gigabit : Bool) (s : State) : State :=
  let m := s.portMode n
  let hold (bit : Nat) : State := (s.setPort n { s.port n with anRetry := some (s.up + 1000000000) }).flag (fPORT_FLT_FLAGS n) bit
  if m = 0 then s
  else if m = 1 && !fullDuplex then hold 1
  else if m = 2 && (!fullDuplex || !gigabit) then hold 2
  else
    let s := s.setPort n { s.port n with anRetry := none }
    pmacStart n ((s.wrB (fPORT_STS_LINK n) true).wrB (fPORT_STS_AN_DONE n) true)

/-- R99: a frame arriving is dropped and rolled back, a frame on the wire is lost; queued frames stay. A pause in force ends with the link
(DESIGN CHOICE, log entry 48: the spec does not say). -/
def linkDrop (n : Nat) (s : State) : State :=
  let p := s.port n
  let s := match p.cur with
    | some c => if c.lost then s else rxBad n c.dup c.started (s.inc (fPORT_RUNT_CNT_FRAMES n))
    | none => s
  let lost := (if p.wire.isSome then 1 else 0) + (if p.cut.isSome then 1 else 0)
  let s := if lost = 0 then s else s.inc (fPORT_TXLOST_CNT_FRAMES n) lost
  let s := s.setPort n { s.port n with cur := none, wire := none, cut := none, pausedTo := none }
  let s := (((s.wrB (fPORT_STS_LINK n) false).wrB (fPORT_STS_AN_DONE n) false).wr (fPORT_STS_PMAC n) pmacOff).wrB (fPORT_STS_PAUSED n) false
  pmacApply n s

/-- LINK_UP (R96, R97). A port held down comes up at a retry only. -/
def execLinkUp (n : Fin 64) (fullDuplex gigabit : Bool) (s : State) : Host.Outcome State Fault Refusal :=
  .next (if s.link n || (s.port n).anRetry.isSome then s else linkUp n fullDuplex gigabit s)

/-- AN_RETRY (R97): a port held down tries again each second. -/
def execAnRetry (n : Fin 64) (fullDuplex gigabit : Bool) (s : State) : Host.Outcome State Fault Refusal :=
  .next (match (s.port n).anRetry with
    | some t => if s.up < t then s else linkUp n fullDuplex gigabit s
    | none => s)

/-! ### Pause -/

/-- PAUSE_RX (R115). -/
def execPauseRx (n : Fin 64) (quanta : Fin 65536) (s : State) : Host.Outcome State Fault Refusal :=
  .next (if s.link n then pauseRx n quanta s else s)

/-- PAUSE_EXPIRE (R115). -/
def execPauseExpire (n : Fin 64) (s : State) : Host.Outcome State Fault Refusal :=
  .next (match (s.port n).pausedTo with
    | some t => if s.up < t then s else (s.setPort n { s.port n with pausedTo := none }).wrB (fPORT_STS_PAUSED n) false
    | none => s)

/-- A write of PAUSE_OBEY: 0 ends a pause in force at once (R115). -/
def pauseObey (n : Nat) (v : Bool) (s : State) : State :=
  let s := s.wrB (fPORT_CTL_PAUSE_OBEY n) v
  if v then s else (s.setPort n { s.port n with pausedTo := none }).wrB (fPORT_STS_PAUSED n) false

/-- PAUSE_OBEY_WRITE (R115, R29): the change of mode is recorded. -/
def execPauseObeyWrite (n : Fin 64) (v : Bool) (s : State) : Host.Outcome State Fault Refusal :=
  .next (
    let old := s.word (rPORT_CTL n)
    let t := pauseObey n v s
    if s.on (fPORT_CTL_PAUSE_OBEY n) = v then t else postModeChange (rPORT_CTL n) old (t.word (rPORT_CTL n)) t)

/-! ### Preemption (R119, R120) -/

/-- PMAC_VERIFY (R119): the next verify mPacket goes out, 10 ms after the one before it, or the third attempt's verifyTime has expired. -/
def execPmacVerify (n : Fin 64) (s : State) : Host.Outcome State Fault Refusal :=
  .next (
    let p := s.port n
    if s.rd (fPORT_STS_PMAC n) ≠ pmacVerifying || s.up < p.verifyAt then s
    else if p.verify < 3 then (s.setPort n { p with verify := p.verify + 1, verifyAt := s.up + 10000000 }).emit (.ctl "verify" n [])
    else (s.wr (fPORT_STS_PMAC n) pmacFailed).flag (fPORT_FLT_FLAGS n) 7)

/-- VERIFY_RESPONSE_RX (R119): a respond mPacket makes preemption active. -/
def execVerifyResponseRx (n : Fin 64) (s : State) : Host.Outcome State Fault Refusal :=
  .next (if s.rd (fPORT_STS_PMAC n) = pmacVerifying then s.wr (fPORT_STS_PMAC n) pmacActive else s)

/-- PMAC_EN is written: at once between frames, else at the frame boundary (R120). -/
def pmacEn (n : Nat) (v : Bool) (s : State) : State :=
  pmacWrite n ((s.wrB (fPORT_CTL_PMAC_EN n) v).setPort n { s.port n with pmacWritten := true })

/-- PMAC_EN_WRITE (R120). -/
def execPmacEnWrite (n : Fin 64) (v : Bool) (s : State) : Host.Outcome State Fault Refusal := .next (pmacEn n v s)

/-! ### Transmit (R116–R118) -/

/-- Words of a frame in the transmit FIFO: a header word as in the receive FIFO, which R116 does not name (DESIGN CHOICE, log entry 48), and its
bytes with FCS. -/
def txWords (f : TxFrame) : Nat := 1 + (f.bytes.length + 11) / 8

/-- Words in use in the transmit FIFO. -/
def txUsed (p : Port) : Nat := (p.txWr + 8192 - p.txRd) % 8192

/-- Put a frame in the transmit FIFO, unless it is refused for length or room (R116). -/
def txPush (n : Nat) (f : TxFrame) (s : State) : Option State :=
  let p := s.port n
  if f.bytes.length + 4 > s.rd (fPORT_RX_CFG_MAX_LEN n) || txUsed p + txWords f > 4096 then none
  else some (State.eccWrite 1 n (s.setPort n { p with fifo := p.fifo ++ [f], txWr := (p.txWr + txWords f) % 8192 }))

/-- A preemptable frame of which `sent` bytes of the present fragment have gone may be cut here (R119): the fragment, with its mCRC, has
64 × (1 + ADD_FRAG) bytes, and what is left with the FCS has 64 (DEDUCED from the bound of R120, log entry 51). -/
def mayCut (p : Port) (f : TxFrame) (sent : Nat) : Bool := 64 * (1 + p.addFrag) ≤ sent + 4 && 64 + f.done + sent ≤ f.bytes.length + 4

/-- TX_FRAME_START (R116, R119, R120): an express frame goes first and preempts where preemption is active; otherwise the
preempted frame goes on, or the next whole frame of the FIFO. A pause in force holds every start (R115);
a GONG bit of EGR_BP keeps the express buffer from being served (R514). While power is shed only a frame already begun goes on (R55).
`sent`: bytes of the frame or fragment on the wire that have gone. -/
def execTxFrameStart (n : Fin 64) (sent : Nat) (s : State) : Host.Outcome State Fault Refusal :=
  .next (
    let p := s.port n
    let held := s.action 2 && s.tst.bpOn && s.rd fTST_EBP_CFG_PORT = n.val && (s.rd fTST_EBP_CFG_QMASK).testBit 0
    let express := if held || s.shedding then [] else p.express
    let fifo := if s.shedding then [] else p.fifo
    if !s.link n || p.pausedTo.isSome then s
    else
      match p.wire with
      | some w =>
        if !w.express && p.cut.isNone && s.rd (fPORT_STS_PMAC n) = pmacActive && mayCut p w.frame sent then
          match express with
          | e :: rest =>
            let s := if w.frame.preempted then s else s.inc (fPORT_FRAG_CNT_PREEMPT n)
            s.setPort n { p with wire := some { frame := e, express := true }, express := rest,
                                 cut := some { w.frame with preempted := true, done := w.frame.done + sent } }
          | [] => s
        else s
      | none =>
        match express with
        | e :: rest => s.setPort n { p with wire := some { frame := e, express := true }, express := rest }
        | [] =>
          match p.cut with
          | some f => s.setPort n { p with wire := some { frame := f, express := false }, cut := none }
          | none =>
            match fifo with
            | f :: rest => s.setPort n { p with wire := some { frame := f, express := false }, fifo := rest,
                                                txRd := (p.txRd + txWords f) % 8192 }
            | [] => s)

end Sys2Proof.Machine
end

