-- ==== Sys2Proof/Machine/Frames.lean ====
section
/-!
DEFINITION. The frames that the module builds itself: UDP with PRP trailers, ARP and neighbour discovery, and the PTP messages of Clave
(R70, R118).
-/

namespace Sys2Proof.Machine

/-! ### Building frames (PRESUMED layouts, log entry 10) -/

def isV4 (a : Nat) : Bool := a / 2 ^ 32 = 0xFFFF

def isMulticast (a : Nat) : Bool := if isV4 a then a % 2 ^ 32 / 2 ^ 28 = 14 else a / 2 ^ 120 = 255

/-- The standard multicast MAC mapping (R324). -/
def multicastMac (a : Nat) : Nat := if isV4 a then 0x01005E000000 + a % 2 ^ 23 else 0x333300000000 + a % 2 ^ 32

/-- What a UDP frame is addressed by. -/
structure UdpAddr where
  srcMac : Nat
  dstMac : Nat
  tag : Option Nat
  dscp : Nat
  src : Nat
  dst : Nat
  sport : Nat
  dport : Nat
deriving DecidableEq, Repr

/-- A UDP header with its checksum over the pseudo-header. -/
def udpSegment (a : UdpAddr) (payload : Bytes) : Bytes :=
  let len := 8 + payload.length
  let head (ck : Nat) : Bytes := be 2 a.sport ++ be 2 a.dport ++ be 2 len ++ be 2 ck
  let addrs := if isV4 a.dst then be 4 a.src ++ be 4 a.dst else be 16 a.src ++ be 16 a.dst
  let sum := 65535 - fold16 (sum16 addrs + 17 + len + sum16 (head 0 ++ payload))
  head (if sum = 0 then 65535 else sum) ++ payload

/-- An IPv4 or IPv6 packet; the hop limit and the identification are free (log entry 25). -/
def ipPacket (a : UdpAddr) (id : Nat) (payload : Bytes) : Bytes :=
  let seg := udpSegment a payload
  if isV4 a.dst then
    let head (ck : Nat) : Bytes := [0x45, BitVec.ofNat 8 (a.dscp * 4)] ++ be 2 (20 + seg.length) ++ be 2 (Config.ipId id) ++
      be 2 (Config.ipId id / 65536 % 2 * 0x4000) ++ be 1 Config.ipTtl ++ be 1 17 ++ be 2 ck ++ be 4 a.src ++ be 4 a.dst
    head (65535 - fold16 (sum16 (head 0))) ++ seg
  else
    be 4 (0x60000000 + a.dscp % 64 * 2 ^ 22 + Config.ipId id % 2 ^ 20) ++ be 2 seg.length ++ be 1 17 ++ be 1 Config.ipTtl ++
      be 16 a.src ++ be 16 a.dst ++ seg

/-- The Ethernet header, with an 802.1Q tag where there is one. -/
def ethFrame (dst src : Nat) (tag : Option Nat) (etype : Nat) (payload : Bytes) : Bytes :=
  be 6 dst ++ be 6 src ++ (match tag with | some t => be 2 0x8100 ++ be 2 t | none => []) ++ be 2 etype ++ payload

/-- A frame padded to Ethernet's least length. -/
def padFrame (b : Bytes) : Bytes := b ++ List.replicate (60 - b.length) 0

def udpFrame (a : UdpAddr) (id : Nat) (payload : Bytes) : Bytes :=
  padFrame (ethFrame a.dstMac a.srcMac a.tag (if isV4 a.dst then 0x0800 else 0x86DD) (ipPacket a id payload))

/-- A PRP trailer (R314): sequence number, LAN 0xA or 0xB with the LSDU size, suffix. -/
def withPrp (lan seq : Nat) (b : Bytes) : Bytes :=
  b ++ be 2 seq ++ be 2 (lan * 4096 + (b.length + 6 - (ethHdr b).off) % 4096) ++ be 2 0x88FB

/-! ### Address protocols (R128, R274; PRESUMED layouts, log entry 10) -/

/-- An ARP packet: its operation, and the sender's and the target's hardware and protocol addresses. -/
def arpFrame (op dstMac sMac sIp tMac tIp : Nat) : Bytes :=
  padFrame (ethFrame dstMac sMac none 0x0806 (be 2 1 ++ be 2 0x0800 ++ be 1 6 ++ be 1 4 ++ be 2 op ++ be 6 sMac ++ be 4 sIp ++
    be 6 tMac ++ be 4 tIp))

/-- An ICMPv6 message, its checksum over the pseudo-header; `ext`: the bytes of a hop-by-hop header before it. -/
def icmp6Frame (dstMac srcMac src dst hop typ : Nat) (ext body : Bytes) : Bytes :=
  let len := 4 + body.length
  let msg (ck : Nat) : Bytes := be 1 typ ++ be 1 0 ++ be 2 ck ++ body
  let ck := 65535 - fold16 (sum16 (be 16 src ++ be 16 dst) + 58 + len + sum16 (msg 0))
  padFrame (ethFrame dstMac srcMac none 0x86DD (be 4 0x60000000 ++ be 2 (ext.length + len) ++ be 1 (if ext.isEmpty then 58 else 0) ++
    be 1 hop ++ be 16 src ++ be 16 dst ++ ext ++ msg ck))

/-- The solicited-node multicast address of an IPv6 address. -/
def solicited (a : Nat) : Nat := 0xFF0200000000000000000001FF000000 + a % 2 ^ 24

/-- A request for the MAC address of `addr`: ARP for IPv4, a neighbour solicitation for IPv6. -/
def resolveFrame (mac own addr : Nat) : Bytes :=
  if isV4 addr then arpFrame 1 0xFFFFFFFFFFFF mac (own % 2 ^ 32) 0 (addr % 2 ^ 32)
  else icmp6Frame (multicastMac (solicited addr)) mac own (solicited addr) 255 135 [] (be 4 0 ++ be 16 addr ++ be 1 1 ++ be 1 1 ++ be 6 mac)

/-- The answer to such a request: `mac` holds `addr`. -/
def resolveReply (mac addr asker askMac : Nat) : Bytes :=
  if isV4 addr then arpFrame 2 askMac mac (addr % 2 ^ 32) askMac (asker % 2 ^ 32)
  else icmp6Frame askMac mac addr asker 255 136 [] (be 4 0x60000000 ++ be 16 addr ++ be 1 2 ++ be 1 1 ++ be 6 mac)

/-- A membership report for one group (R128): IGMPv3, or MLDv2 behind a router alert, with one MODE_IS_EXCLUDE record. -/
def reportFrame (mac own group : Nat) : Bytes :=
  if isV4 group then
    let msg (ck : Nat) : Bytes := be 1 0x22 ++ be 1 0 ++ be 2 ck ++ be 2 0 ++ be 2 1 ++ be 1 2 ++ be 1 0 ++ be 2 0 ++ be 4 group
    let head (ck : Nat) : Bytes := be 2 0x46C0 ++ be 2 40 ++ be 4 0 ++ be 1 1 ++ be 1 2 ++ be 2 ck ++ be 4 own ++ be 4 0xE0000016 ++ be 4 0x94040000
    padFrame (ethFrame 0x01005E000016 mac none 0x0800 (head (65535 - fold16 (sum16 (head 0))) ++ msg (65535 - fold16 (sum16 (msg 0)))))
  else
    icmp6Frame 0x333300000016 mac own 0xFF020000000000000000000000000016 1 143 (be 8 0x3A00050200000100)
      (be 2 0 ++ be 2 1 ++ be 1 2 ++ be 1 0 ++ be 2 0 ++ be 16 group)

/-! ### PTP messages (IEEE 1588-2019 and C37.238-2017; PRESUMED, log entry 10) -/

/-- The module's clockIdentity: the EUI-64 of its base address. -/
def clockId : Nat := Config.macBase / 2 ^ 24 * 2 ^ 40 + 0xFFFE * 2 ^ 24 + Config.macBase % 2 ^ 24

/-- The portIdentity of PTP port k. -/
def portId (k : Nat) : Nat := clockId * 65536 + k + 1

/-- messageType values. -/
abbrev ptSync : Nat := 0
abbrev ptDelayReq : Nat := 1
abbrev ptPdelayReq : Nat := 2
abbrev ptPdelayResp : Nat := 3
abbrev ptFollowUp : Nat := 8
abbrev ptDelayResp : Nat := 9
abbrev ptPdelayFollowUp : Nat := 10
abbrev ptAnnounce : Nat := 11

def ptpControl (typ : Nat) : Nat :=
  if typ = ptSync then 0 else if typ = ptDelayReq then 1 else if typ = ptFollowUp then 2 else if typ = ptDelayResp then 3 else 5

/-- A timestamp: 48 bits of seconds and 32 of nanoseconds. -/
def ptpTime (t : Nat) : Bytes := be 6 (t / 1000000000) ++ be 4 (t % 1000000000)

/-- What a PTP message says in its header beside its type. -/
structure PtpHead where
  k : Nat
  dom : Nat
  flags : Nat := 0
  seq : Nat
  log : Nat := 0x7F

def ptpMessage (h : PtpHead) (typ : Nat) (body : Bytes) : Bytes :=
  be 1 typ ++ be 1 0x12 ++ be 2 (34 + body.length) ++ be 1 h.dom ++ be 1 0 ++ be 2 h.flags ++ be 8 0 ++ be 4 0 ++ be 10 (portId h.k) ++
    be 2 h.seq ++ be 1 (ptpControl typ) ++ be 1 h.log ++ body

/-- Its Ethernet frame: peer-delay messages have a multicast address of their own (R70). -/
def ptpFrame (h : PtpHead) (n typ : Nat) (body : Bytes) : Bytes :=
  let peer : Bool := typ ∈ [ptPdelayReq, ptPdelayResp, ptPdelayFollowUp]
  padFrame (ethFrame (if peer then 0x0180C200000E else 0x011B19000000) (portMac n) none 0x88F7 (ptpMessage h typ body))

/-- A TLV. -/
def ptpTlv (typ : Nat) (body : Bytes) : Bytes := be 2 typ ++ be 2 body.length ++ body

/-- The body of an Announce with the IEEE_C37_238 TLV and, byte for byte, an ALTERNATE_TIME_OFFSET_INDICATOR that is passed through (R70).
timeSource and grandmasterID are none of the spec's values (log entry 23). -/
def announceBody (c37238 : Bool) (d : PtpDataset) : Bytes :=
  be 10 0 ++ be 2 (d.utcOffset.getD 0) ++ be 1 0 ++ be 1 d.priority1 ++ be 1 d.clockClass ++ be 1 d.accuracy ++ be 2 d.variance ++
    be 1 d.priority2 ++ be 8 d.identity ++ be 2 d.stepsRemoved ++ be 1 (Config.ptpField 0) ++
    (if c37238 then ptpTlv 3 (be 3 0x1C129D ++ be 3 2 ++ be 2 (Config.ptpField 1) ++ be 4 0 ++ be 4 d.inaccuracy ++ be 2 0) else []) ++
    d.alternate

def announceFlags (d : PtpDataset) : Nat :=
  boolW d.leap61 + 2 * boolW d.leap59 + 4 * boolW d.utcOffset.isSome + 8 + 16 * boolW d.timeTraceable + 32 * boolW d.freqTraceable

/-- Replace bytes of a frame. -/
def patchAt (i : Nat) (new b : Bytes) : Bytes := b.take i ++ new ++ b.drop (i + new.length)

/-- One-step event messages take their stamp as they leave (R118): a Sync its origin, a Pdelay_Resp its turnaround as the correction. -/
def ptpStamped (stamp : Nat) (f : TxFrame) : Bytes :=
  match f.sender with
  | .clave _ .sync => patchAt 48 (ptpTime stamp) f.bytes
  | .clave _ (.pdelayResp rx) => patchAt 22 (be 8 (ofSigned 64 (((stamp : Int) - rx) * 65536))) f.bytes
  | _ => f.bytes

end Sys2Proof.Machine
end

