-- ==== Sys2Proof/Machine/Trace.lean ====
section
/-!
DEFINITION. Tagged frames (R509–R511): the points a traced record passes. An entry that has ended waits for TRACE_ENTRY_WRITE.
-/

namespace Sys2Proof.Machine

def State.setPmc (s : State) (p : Pmc) : State := { s with pmc := p }

/-- Apply `f` to the open entries that `p` selects. -/
def traceMap (p : TraceEnt → Bool) (f : TraceEnt → TraceEnt) (s : State) : State :=
  s.setPmc { s.pmc with opened := s.pmc.opened.map fun e => if !e.ended && p e then f e else e }

/-- Stamp point `k` (0 PARSE to 5 WIRE) where it has none. -/
def stampPt (k t : Nat) (e : TraceEnt) : TraceEnt :=
  { e with pts := match e.pts.getD k none with | some _ => e.pts | none => e.pts.set k (some t) }

def endEnt (e : TraceEnt) : TraceEnt := { e with ended := true }

def setFlag (b : Nat) (e : TraceEnt) : TraceEnt := { e with flags := e.flags ||| 2 ^ b }

/-- Ingress commits a frame (R509): the LFSR advances, and a tagged frame is traced for its lowest slot. -/
def traceCommit (recs : List SlotRecord) (s : State) : State :=
  if !s.on fPMC_TAG_CFG_EN then s
  else
    let l := Config.lfsrNext s.pmc.lfsr % 2 ^ 31
    let s := s.setPmc { s.pmc with lfsr := l }
    match recs with
    | [] => s
    | r :: rs =>
      if l % 2 ^ s.rd fPMC_TAG_CFG_K ≠ 0 then s
      else if (s.pmc.opened.filter fun e => !e.ended).length ≥ 256 then s.inc fPMC_TAGSKIP_CNT_FRAMES
      else
        let low := rs.foldl (fun a b => if b.slot < a.slot then b else a) r
        let e : TraceEnt := { slot := low.slot, port := low.path % 64, flags := 0, tick := 0, ing := low.ingTime, item := 0, stream := 0,
                              pts := [some s.clv.now, none, none, none, none, none] }
        (s.ev 0x374).setPmc { s.pmc with opened := s.pmc.opened ++ [e] }

/-- What the decision point did with a record: 0 stored, 1 taken late, 2 discarded, 3 discarded as a duplicate, 4 entered a
resampled slot's history. -/
def traceStore (slot ing tick what : Nat) (s : State) : State :=
  traceMap (fun e => e.slot = slot && e.ing = ing && (e.pts.getD 1 none).isNone) (fun e =>
    let e := stampPt 1 s.clv.now { e with tick := tick }
    if what = 1 then setFlag 0 e
    else if what = 2 then endEnt e
    else if what = 3 then endEnt (setFlag 1 e)
    else if what = 4 then endEnt (setFlag 2 e)
    else e) s

def traced (slots : List Nat) (n : Nat) (e : TraceEnt) : Bool :=
  e.tick = n && slots.contains e.slot && (e.pts.getD 1 none).isSome

/-- The token of a group whose slots these are has been processed. -/
def traceClose (slots : List Nat) (n : Nat) (s : State) : State := traceMap (traced slots n) (stampPt 2 s.clv.now) s

/-- The first item that counts the cell is queued. -/
def traceDispatch (slots : List Nat) (n item : Nat) (s : State) : State :=
  traceMap (traced slots n) (fun e => if (e.pts.getD 3 none).isSome then e else { stampPt 3 s.clv.now e with item := item }) s

/-- That item retires. -/
def traceRetire (n item : Nat) (stale : Bool) (s : State) : State :=
  traceMap (fun e => e.tick = n && e.item = item && (e.pts.getD 3 none).isSome && (e.pts.getD 4 none).isNone)
    (fun e => let e := stampPt 4 s.clv.now e; if stale then setFlag 6 e else e) s

/-- The first bit of an output frame that carries the slot for its tick. -/
def traceWire (slots : List Nat) (n stream stamp : Nat) (amend : Bool) (s : State) : State :=
  traceMap (traced slots n) (fun e => let e := endEnt { stampPt 5 stamp e with stream := stream }
    if amend then setFlag 7 e else e) s

/-- Column n is released. -/
def traceRelease (n : Nat) (s : State) : State := traceMap (fun e => e.tick = n && (e.pts.getD 1 none).isSome) endEnt s

/-- A point as its 32-bit field: units of 8 ns from ING_TIME; and whether it saturated. -/
def tracePoint (ing : Nat) (p : Option Nat) : Nat × Bool :=
  match p with
  | none => (0x80000000, false)
  | some t =>
    let d : Int := ((t : Int) - ing) / 8
    let m : Int := 2 ^ 31 - 1
    if d > m then (ofSigned 32 m, true) else if d < -m then (ofSigned 32 (-m), true) else (ofSigned 32 d, false)

/-- The entry's 16 words (R511). -/
def traceWords (seq : Nat) (e : TraceEnt) : List Nat :=
  let ps := (List.range 6).map fun k => tracePoint e.ing (e.pts.getD k none)
  let fl := e.flags ||| (if (e.pts.getD 3 none).isNone then 8 else 0) ||| (if (e.pts.getD 5 none).isNone then 16 else 0) |||
    (if ps.any fun p => p.2 then 32 else 0)
  [seq % 2 ^ 32, e.slot + 65536 * e.port + 2 ^ 24 * fl, e.tick % 2 ^ 32, e.tick / 2 ^ 32, e.ing % 2 ^ 32, e.ing / 2 ^ 32,
   e.item + 65536 * e.stream] ++ (ps.map fun p => p.1) ++ [0, 0, 0]

end Sys2Proof.Machine
end

