-- ==== Sys2Proof/Machine/Egress.lean ====
section
/-!
DEFINITION. The egress queues and their scheduler (R330–R334), transmission's end (R117, R118, R285), link loss (R99, R332) and the
host rings (R121, R335–R338, R341).
-/

namespace Sys2Proof.Machine

/-! ### Queues (R330 to R333) -/

abbrev qTime : Nat := 1
abbrev qAlarm : Nat := 2
abbrev qOutput : Nat := 3
abbrev qAmend : Nat := 4
abbrev qSteward : Nat := 5
abbrev qHost : Nat := 6

def State.setEgr (s : State) (e : Egr) : State := { s with egr := e }
def State.egrPort (s : State) (n : Nat) : EgrPort := smGet {} s.egr.ports n
def State.setEgrPort (s : State) (n : Nat) (p : EgrPort) : State := s.setEgr { s.egr with ports := smSet {} s.egr.ports n p }
def State.egrQ (s : State) (n k : Nat) : List EgrFrame := smGet [] (s.egrPort n).queues k
def State.setEgrQ (s : State) (n k : Nat) (q : List EgrFrame) : State :=
  s.setEgrPort n { s.egrPort n with queues := smSet [] (s.egrPort n).queues k q }

def State.outSt (s : State) (k : Nat) : OutSt := smGet {} s.egr.streams k
def State.setOutSt (s : State) (k : Nat) (o : OutSt) : State := s.setEgr { s.egr with streams := smSet {} s.egr.streams k o }
def State.outCfg? (s : State) (k : Nat) : Option OutStream := match s.img with | some i => i.outs[k]? | none => none

/-- A frame or block of stream k was not sent (R340). -/
def streamDrop (k : Nat) (s : State) : State := s.setOutSt k { s.outSt k with drops := (s.outSt k).drops + 1 }

def State.qdepth (s : State) : Nat := match s.img with | some i => i.qdepth | none => 256

/-- EGR_BP makes queue k of port n appear full (R514); key 0 is the express buffer. -/
def State.egrBp (s : State) (n k : Nat) : Bool :=
  s.action 2 && s.tst.bpOn && s.rd fTST_EBP_CFG_PORT = n && (s.rd fTST_EBP_CFG_QMASK).testBit k

def State.egrFull (s : State) (n k : Nat) : Bool := (s.egrQ n k).length ≥ s.qdepth || s.egrBp n k

/-- Offer a frame to a queue other than OUTPUT and AMEND (R331). -/
def egrOffer (n k : Nat) (e : EgrFrame) (s : State) : State :=
  if s.egrFull n k then ((s.ev 0x365).inc fEGR_QDROP_CNT_FRAMES).flag fEGR_FLT_FLAGS 1
  else s.setEgrQ n k (s.egrQ n k ++ [e])

def streamOf (f : TxFrame) : Option Nat :=
  match f.sender with
  | .composer k => some k
  | _ => none

/-- The account of one withdrawn frame (R332). -/
def withdrawn (f : TxFrame) (s : State) : State :=
  let s := (s.inc fEGR_AGED_CNT_FRAMES).flag fEGR_FLT_FLAGS 4
  match streamOf f with
  | some k => streamDrop k s
  | none => s

/-- Withdraw the frames of streams that `p` selects from port n's OUTPUT and AMEND queues and, unstarted, from its FIFO. -/
def withdraw (n : Nat) (p : TxFrame → Bool) (s : State) : State :=
  let hit (f : TxFrame) : Bool := (streamOf f).isSome && p f
  let pt := s.port n
  let staged := pt.fifo.filter hit
  let gone := (((s.egrQ n qOutput ++ s.egrQ n qAmend).map fun e => e.frame).filter hit) ++ staged
  if gone.isEmpty then s
  else
    let s := s.setEgrQ n qOutput ((s.egrQ n qOutput).filter fun e => !hit e.frame)
    let s := s.setEgrQ n qAmend ((s.egrQ n qAmend).filter fun e => !hit e.frame)
    let back := (staged.map txWords).sum
    let s := s.setPort n { pt with fifo := pt.fifo.filter (fun f => !hit f), txWr := (pt.txWr + 8192 - back % 8192) % 8192 }
    gone.foldl (fun s f => withdrawn f s) s

/-- Queue a stream's frame for port n in OUTPUT or AMEND; frames AGE newer frames old are withdrawn (R332). -/
def egrStream (n k stream : Nat) (f : TxFrame) (s : State) : State :=
  let c := smGet 0 (s.egrPort n).counts stream + 1
  let s := s.setEgrPort n { s.egrPort n with counts := smSet 0 (s.egrPort n).counts stream c }
  let s := s.setEgrQ n k (s.egrQ n k ++ [{ frame := { f with seq := c, queued := s.up }, stream := some stream }])
  let s := if k = qAmend then (s.ev 0x364).inc fEGR_AMEND_CNT_FRAMES else (s.ev 0x363).inc fEGR_FRAME_CNT_FRAMES
  let age := match s.outCfg? stream with | some o => o.age | none => 2
  withdraw n (fun g => streamOf g = some stream && g.seq + age ≤ c) s

/-! ### Host rings (R121, R335 to R341) -/

def ringSize (r : Nat) (s : State) : Nat := 2 ^ s.rd (fEGR_RING_CFG_LOG2_SIZE r)
def ringBase (r : Nat) (s : State) : Nat := s.rd (fEGR_RING_BASE_LO_LO r) + 2 ^ 32 * s.rd (fEGR_RING_BASE_HI_HI r)
def ringProd (r : Nat) (s : State) : Nat := s.rd (fEGR_RING_PROD_PROD r)
def ringCons (r : Nat) (s : State) : Nat := s.rd (fEGR_RING_CONS_CONS r)
def State.ringRun (s : State) (r : Nat) : Bool := s.on (fEGR_RING_STS_RUN r)

/-- Descriptors that belong to the module on a ring it writes. -/
def ringFree (r : Nat) (s : State) : Nat :=
  let z := ringSize r s
  z - (ringProd r s + 2 * z - ringCons r s) % (2 * z)

def descAddr (r count : Nat) (s : State) : Nat := ringBase r s + 16 * (count % ringSize r s)

/-- The part of `data` in buffer i. -/
def bufPart (data : Bytes) (i : Nat) : Bytes := (data.drop (2048 * i)).take 2048

def bufCount (data : Bytes) : Nat := max 1 ((data.length + 2047) / 2048)

/-- Write the buffers at `addrs`, in order. -/
def ringBuffers (data : Bytes) (addrs : List Nat) (s : State) : State :=
  s.dmaAll (addrs.zipIdx.map fun x => (x.1, bufPart data x.2))

/-- Place a frame or block: its buffers, then every descriptor with DONE, then PROD (R336). `fl` goes in every descriptor. -/
def ringPlace (r : Nat) (data : Bytes) (fl ns32 : Nat) (addrs : List Nat) (s : State) : State :=
  let k := bufCount data
  let lost := if s.egr.lost.contains r then 64 else 0
  let s := ringBuffers data addrs s
  let p := ringProd r s
  let s := s.dmaAll ((List.range k).map fun i =>
    (descAddr r (p + i) s + 8, le 2 (bufPart data i).length ++
      le 2 (1 + (if i = 0 then 2 else 0) + (if i + 1 = k then 4 else 0) + fl + lost) ++ le 4 ns32))
  let s := s.wr (fEGR_RING_PROD_PROD r) ((p + k) % (2 * ringSize r s))
  let s := s.setEgr { s.egr with lost := s.egr.lost.filter fun x => x ≠ r }
  s.msix (s.rd (fEGR_RING_CFG_VEC r))

/-- A frame or block found too few free descriptors (R336). -/
def ringFull (r : Nat) (s : State) : State :=
  let s := ((s.inc (fEGR_RING_DROP_CNT_DROPS r)).flag fEGR_FLT_FLAGS 7)
  s.setEgr { s.egr with lost := if s.egr.lost.contains r then s.egr.lost else s.egr.lost ++ [r] }

/-- CONS of a transmit ring passes every frame that is done, in the ring's order; the list is what stays behind. -/
def consPast (m cons : Nat) : Nat → List (Nat × Nat) → Nat × List (Nat × Nat)
  | 0, ends => (cons, ends)
  | k + 1, ends =>
    match ends.find? fun e => e.1 = cons with
    | some e => consPast m ((cons + e.2) % m) k (ends.erase e)
    | none => (cons, ends)

/-- Write DONE back to a transmit frame's descriptors and advance CONS past the frames that are done (R336). A stamp is returned where STAMP
was set. A frame of before the ring was last disabled is forgotten (R338). -/
def hostDone (r gen first : Nat) (descs : List (Nat × Nat)) (refused : Bool) (stamp : Option Nat) (s : State) : State :=
  if !s.ringRun r || smGet 0 s.egr.ringGen r ≠ gen then s
  else
    let s := s.dmaAll (descs.zipIdx.map fun x =>
      (descAddr r (first + x.2) s + 8, le 2 x.1.1 ++ le 2 (x.1.2 ||| 1 ||| (if refused then 512 else 0)) ++
        (match stamp with | some t => if x.1.2.testBit 8 then le 4 t else [] | none => [])))
    let ends := smGet [] s.egr.hostEnds r ++ [(first, descs.length)]
    let x := consPast (2 * ringSize r s) (ringCons r s) ends.length ends
    let t := (s.setEgr { s.egr with hostEnds := smSet [] s.egr.hostEnds r x.2 }).wr (fEGR_RING_CONS_CONS r) x.1
    if x.1 = ringCons r s then t else t.msix (s.rd (fEGR_RING_CFG_VEC r))

/-- HOST_RX_RING_PLACE (R121): the oldest frame waiting for port n's receive ring is placed in the buffers whose addresses
the ring's free descriptors give, or dropped. -/
def execHostRxRingPlace (n : Fin 64) (addrs : List Nat) (s : State) : Out :=
  .next (
    let p := s.port n
    let r := 64 + n.val
    match p.host with
    | [] => s
    | (bytes, ns32, tr, lan) :: rest =>
      let s' := s.setPort n { p with host := rest }
      if !s.ringRun r then (s'.inc (fPORT_RUNOUT_CNT_FRAMES n)).flag fEGR_FLT_FLAGS 9
      else
        let k := bufCount bytes
        let free := ringFree r s
        if addrs.length ≠ min k free then s
        else if free < k then
          ((ringFull r (ringBuffers bytes addrs s')).inc (fPORT_RUNOUT_CNT_FRAMES n)).flag (fPORT_FLT_FLAGS n) 6
        else ringPlace r bytes ((if tr then 8 else 0) + 16 * lan) ns32 addrs s')

/-- RAW_BLOCK_WRITE (R336, R338): the oldest block of raw ring `k` is placed, or dropped whole. -/
def execRawBlockWrite (k : Fin 64) (addrs : List Nat) (s : State) : Out :=
  .next (
    match s.egr.blocks.find? fun b => b.stream = k.val with
    | none => s
    | some b =>
      let s' := s.setEgr { s.egr with blocks := s.egr.blocks.erase b }
      if !s.ringRun k then (streamDrop k s').flag fEGR_FLT_FLAGS 9
      else
        let need := bufCount b.bytes
        let free := ringFree k s
        if addrs.length ≠ min need free then s
        else if free < need then streamDrop k (ringFull k (ringBuffers b.bytes addrs s'))
        else
          let o := s.outSt k
          let o := { o with frames := (o.frames + 1) % 2 ^ 32, tick := if b.flags.testBit 7 then o.tick else b.tick, stamp := 0 }
          ringPlace k b.bytes b.flags b.ns32 addrs (s'.setOutSt k o))

/-- Cut descriptors read from a transmit ring into frames of SOP through EOP: per frame, its descriptors; and what is left. -/
def hostFrames : List (Nat × Bytes) → List (Nat × Bytes) → List (List (Nat × Bytes)) × List (Nat × Bytes)
  | cur, [] => ([], cur)
  | cur, d :: ds =>
    if d.1.testBit 2 then
      let (fs, rest) := hostFrames [] ds
      ((cur ++ [d]) :: fs, rest)
    else hostFrames (cur ++ [d]) ds

/-- Send one frame of a transmit ring: the HOST queue, or refused where it has more than 5 buffers (R336). -/
def hostSend (n first : Nat) (ds : List (Nat × Bytes)) (s : State) : State :=
  let r := 128 + n
  let gen := smGet 0 s.egr.ringGen r
  let descs := ds.map fun d => (d.2.length, d.1)
  if ds.length > 5 then hostDone r gen first descs true none s
  else if s.egrFull n qHost then hostDone r gen first descs false none (((s.ev 0x365).inc fEGR_QDROP_CNT_FRAMES).flag fEGR_FLT_FLAGS 1)
  else
    let f : TxFrame := { bytes := padFrame (ds.map fun d => d.2).flatten, sender := .hostRing r gen first descs, queued := s.up }
    egrOffer n qHost { frame := f } s

/-- A transmit descriptor of 16 bytes, little-endian, with its buffer's bytes (R335): FLAGS, and the LEN bytes it names. -/
def readDesc (d : Bytes × Bytes) : Nat × Bytes := (leAt d.1 0xA 2, d.2.take (leAt d.1 8 2))

/-- HOST_TX_PROD_WRITE (R336): the host advances PROD of transmit ring 128 + n, and the module reads the descriptors up to it and their
buffers. -/
def execHostTxProdWrite (n : Fin 64) (prod : Nat) (descs : List (Bytes × Bytes)) (s : State) : Out :=
  .next (
    let r := 128 + n.val
    let s := s.wr (fEGR_RING_PROD_PROD r) prod
    let z := ringSize r s
    let rd := smGet 0 s.egr.hostRead r
    if !s.ringRun r || descs.length ≠ (ringProd r s + 2 * z - rd) % (2 * z) then s
    else
      let part := smGet [] s.egr.hostPart r
      let (fs, rest) := hostFrames part (descs.map readDesc)
      let start := (rd + 2 * z - part.length) % (2 * z)
      let s := s.setEgr { s.egr with hostRead := smSet 0 s.egr.hostRead r (ringProd r s), hostPart := smSet [] s.egr.hostPart r rest }
      (fs.foldl (fun (a : State × Nat) f => (hostSend n.val a.2 f a.1, (a.2 + f.length) % (2 * z))) (s, start)).1)

/-- RING_DMA_FAULT (R341): the ring stops until EN is written. -/
def execRingDmaFault (r : Fin 192) (s : State) : Out :=
  .next (if s.ringRun r then (s.wrB (fEGR_RING_STS_FAULT r) true).wrB (fEGR_RING_STS_RUN r) false else s)

/-- What waits for a ring that is disabled is discarded and counted: a raw ring's blocks, a receive ring's frames (R338). -/
def ringDiscard (r : Nat) (s : State) : State :=
  if r < 64 then
    let mine := s.egr.blocks.filter fun b => b.stream = r
    if mine.isEmpty then s
    else
      let s := s.setEgr { s.egr with blocks := s.egr.blocks.filter fun b => b.stream ≠ r }
      (mine.foldl (fun s _ => streamDrop r s) s).flag fEGR_FLT_FLAGS 9
  else if r < 128 then
    let k := (s.port (r - 64)).host.length
    if k = 0 then s
    else ((s.setPort (r - 64) { s.port (r - 64) with host := [] }).inc (fPORT_RUNOUT_CNT_FRAMES (r - 64)) k).flag fEGR_FLT_FLAGS 9
  else s

/-- A disabled ring forgets what it held (R338); host frames already in a HOST queue are still sent, and answered to no ring. -/
def ringForget (r : Nat) (s : State) : State :=
  s.setEgr { s.egr with hostRead := smErase s.egr.hostRead r, hostPart := smErase s.egr.hostPart r, hostEnds := smErase s.egr.hostEnds r,
                        ringGen := smSet 0 s.egr.ringGen r (smGet 0 s.egr.ringGen r + 1), lost := s.egr.lost.filter fun x => x ≠ r }

/-- EN of a ring is written (R341): the ring runs or is disabled. -/
def ringEnable (r : Nat) (en : Bool) (s : State) : State :=
  let s := (s.wrB (fEGR_RING_CFG_EN r) en).wrB (fEGR_RING_STS_RUN r) en
  if en then s else ringForget r (ringDiscard r s)

/-- Every ring register to its reset value, and every ring disabled (R338). -/
def ringsReset (s : State) : State :=
  let clear (s : State) (r : Nat) : State :=
    [fEGR_RING_BASE_LO_LO r, fEGR_RING_BASE_HI_HI r, fEGR_RING_CFG_EN r, fEGR_RING_CFG_LOG2_SIZE r, fEGR_RING_CFG_VEC r,
     fEGR_RING_PROD_PROD r, fEGR_RING_CONS_CONS r, fEGR_RING_DROP_CNT_DROPS r, fEGR_RING_STS_FAULT r,
     fEGR_RING_STS_RUN r].foldl (fun s f => s.wr f f.rst) s
  (List.range 192).foldl (fun s r => ringForget r (ringDiscard r (clear s r))) s

/-! ### The scheduler (R330, R284, R116) -/

/-- The queue whose head goes next to the FIFO: AMEND, STEWARD and HOST take their turns by deficit round robin. -/
def egrPick (n : Nat) (s : State) : Option (Nat × EgrPort) :=
  let p := s.egrPort n
  match [qTime, qAlarm, qOutput].find? fun k => !(s.egrQ n k).isEmpty with
  | some k => some (k, p)
  | none =>
    let lens := [qAmend, qSteward, qHost].filterMap fun k => (s.egrQ n k).head?.map fun e => (k - qAmend, e.frame.bytes.length + 4)
    (drrPick 3 (Config.drrQuantum + 1) p.drr lens fun _ => false).map fun x => (x.1 + qAmend, { p with drr := x.2 })

/-- A transmit FIFO has refused a frame (R116, R284): its sender counts it. -/
def frameRefused (f : TxFrame) (s : State) : State :=
  let s := (s.inc fEGR_REFUSE_CNT_FRAMES).flag fEGR_FLT_FLAGS 0
  match f.sender with
  | .composer k => streamDrop k s
  | .gong _ _ _ => (s.inc fALM_DROP_CNT_FRAMES).flag fALM_FLT_FLAGS 4
  | .goose _ => (s.inc fALM_DROP_CNT_FRAMES).flag fALM_FLT_FLAGS 4
  | .hostRing r gen first descs => hostDone r gen first descs true none s
  | .steward => s
  | .clave _ _ => s

/-- A command frame is discarded (R326, R339). -/
def cmdBad (s : State) : State := (s.inc fEGR_CMD_CNT_BAD).flag fEGR_FLT_FLAGS 8

/-- EGRESS_SCHEDULE (R330): the next preemptable frame moves into port n's FIFO where no complete frame waits there. -/
def execEgressSchedule (n : Fin 64) (s : State) : Out :=
  .next (
    if !(s.port n).fifo.isEmpty then s
    else
      match egrPick n s with
      | none => s
      | some (k, p) =>
        let s := s.setEgrPort n p
        match s.egrQ n k with
        | [] => s
        | e :: rest =>
          let s := s.setEgrQ n k rest
          let g0 := (s.portCfg n).g0TxMax
          if g0 ≠ 0 && e.frame.bytes.length + 4 > g0 then frameRefused e.frame s
          else
            match txPush n e.frame s with
            | some s => s
            | none => frameRefused e.frame s)

/-! ### The end of transmission (R117, R118, R285, R334) -/

/-- Line rate of a port in Mb/s (R96). -/
def State.lineRate (s : State) (n : Nat) : Nat :=
  match s.portMode n with
  | 3 => 2500
  | 4 => 10000
  | _ => 1000

/-- A class-0 frame of the tick is still to go out. -/
def State.g0Pending (s : State) (tick : Nat) : Bool :=
  s.ports.any (fun p => p.express.any (fun f => f.tick = tick) ||
    (match p.wire with | some w => w.express && w.frame.tick = tick | none => false)) ||
  s.alm.batches.any fun b => b.cls = 0 && b.tick = tick

/-- The frame latency of a class-0 tick whose last frame has gone (R285). -/
def g0Latency (n tick stamp dest : Nat) (s : State) : State :=
  if s.g0Pending tick then s
  else
    let c := match s.alm.g0 with
      | some (t, c) => if t = tick then c else (match s.pgh.closed.find? fun x => x.1 = tick with | some x => x.2.1 | none => s.tickInst tick)
      | none => (match s.pgh.closed.find? fun x => x.1 = tick with | some x => x.2.1 | none => s.tickInst tick)
    let at_ := stamp - s.rd (fPORT_DLY_CFG_TX_DLY n) - 64 * 1000 / s.lineRate n
    let u := (at_ - c) / 100
    let s := (s.wr fALM_G0_STS_TX_LAST (min u 65535)).wrMax fALM_G0_STS_TX_MAX (min u 65535)
    if at_ - c > 250000 then
      postAt tick 0x60 (le 8 tick ++ le 2 (min u 65535) ++ le 1 dest) (s.flag fALM_FLT_FLAGS 0)
    else s

/-- A frame of the steward core or of Clave joins its queue (R330). -/
def stewFrame (n : Nat) (bytes : Bytes) (s : State) : State :=
  egrOffer n qSteward { frame := { bytes := bytes, sender := .steward, queued := s.up } } s

/-- Send a PTP message on PTP port k through the TIME queue of its frame port (R330). -/
def ptpFrameOut (k typ flags seq log : Nat) (body : Bytes) (msg : PtpMsg) (s : State) : State :=
  let n := s.rd (fCLV_PTP_PORT_CFG_PORT k)
  egrOffer n qTime { frame := { bytes := ptpFrame { k := k, dom := s.rd fCLV_PTP_CFG_DOMAIN, flags := flags, seq := seq, log := log } n typ body,
                                sender := .clave k msg, queued := s.up } } s

/-- Clave's use of a transmit stamp (R118): two-step messages are followed up, requests keep it. -/
def ptpStamp (k : Nat) (msg : PtpMsg) (stamp : Nat) (s : State) : State :=
  match msg with
  | .syncTwo seq log => ptpFrameOut k ptFollowUp 0 seq log (ptpTime stamp) .plain s
  | .pdelayRespTwo seq asker => ptpFrameOut k ptPdelayFollowUp 0 seq 0x7F (ptpTime stamp ++ be 10 asker) .plain s
  | .request seq => { s with clv := { s.clv with ptp := s.clv.ptp.set k { s.clv.ptp.getD k {} with req := some (seq, stamp) } } }
  | _ => s

/-- What a frame's sender does with its stamp (R118). -/
def returnStamp (n : Nat) (w : OnWire) (stamp : Nat) (s : State) : State :=
  let f := w.frame
  let s := if w.express then g0Latency n f.tick stamp (match f.sender with | .gong _ _ d => d | _ => 0) s else s
  match f.sender with
  | .composer k =>
    let o := s.outSt k
    let o := { o with frames := (o.frames + 1) % 2 ^ 32, tick := if f.amend then o.tick else f.tick,
                      stamp := if f.first && !f.amend then stamp % 2 ^ 32 else o.stamp }
    traceWire f.slots f.tick k stamp f.amend (s.setOutSt k o)
  | .hostRing r gen first descs => hostDone r gen first descs false (some (stamp % 2 ^ 32)) s
  | .gong _ _ _ =>
    let s := (s.ev 0x361).inc fALM_FRAME_CNT_FRAMES
    if w.express then (s.ev 0x360).inc fALM_G0_FRAME_CNT_FRAMES else s
  | .goose _ => (s.ev 0x362).inc fALM_GOOSE_CNT_FRAMES
  | .steward => s.setEgr { s.egr with stewStamp := stamp }
  | .clave k msg => ptpStamp k msg stamp s

/-- TX_FRAME_SENT (R117, R118): the frame on port n's wire has been sent whole; its first bit crossed J2 at `stamp`. `ce` errors in its words
were corrected (R107); with `ue` one was not, and the frame ends in a wrong FCS. A frame boundary follows (R120). -/
def execTxFrameSent (n : Fin 64) (stamp : Nat) (ue : Bool) (ce : Nat) (s : State) : Out :=
  .next (
    let p := s.port n
    match p.wire with
    | none => s
    | some w =>
      let stamp := s.txInstant n stamp
      let bytes := ptpStamped stamp w.frame
      let s := (s.setPort n { p with wire := none }).inc (fPORT_ECC_CNT_CE n) ce
      let s := if ue then ((s.emit (.ctl "bad FCS" n (bytes.map BitVec.toNat))).flag (fPORT_FLT_FLAGS n) 4).inc (fPORT_ECC_CNT_UE n)
        else s.emit (.frame n w.express bytes)
      let s := ((s.ev (0x2C0 + n)).ev (0x300 + n) (bytes.length + 4)).inc (fPORT_TX_CNT_FRAMES n)
      pmacApply n (returnStamp n w stamp s))

/-! ### Link loss (R99, R274, R332) -/

/-- A port's link is lost: what R99 says, stream frames are withdrawn, class-0 frames discarded. -/
def portLinkLost (n : Nat) (s : State) : State :=
  let s := linkDrop n s
  let s := withdraw n (fun _ => true) s
  let k := (s.port n).express.length
  if k = 0 then s
  else ((s.setPort n { s.port n with express := [] }).inc fALM_DROP_CNT_FRAMES k).flag fALM_FLT_FLAGS 3

/-- LINK_DOWN (R99). -/
def execLinkDown (n : Fin 64) (s : State) : Out :=
  .next (if s.link n then portLinkLost n (s.flag (fPORT_FLT_FLAGS n) 0) else s)

/-- A write of LINK_RESTART 1 (R122): the link and auto-negotiation restart, frames in progress as R99. -/
def linkRestart (n : Nat) (s : State) : State :=
  let s := if s.link n then portLinkLost n s else s
  s.setPort n { s.port n with anRetry := none }

/-- LINK_RESTART (R122). -/
def execLinkRestart (n : Fin 64) (s : State) : Out := .next (linkRestart n s)

end Sys2Proof.Machine
end

