-- ==== Sys2Proof/Machine/Roles.lean ====
section
/-!
DEFINITION. The pair's shared operations (R400–R415): sending on the lanes, changing role, releasing authority, abdication, the loss of
the link and the failure of a join. Message and timer rows are in Machine/Pair.lean.
-/

namespace Sys2Proof.Machine

/-- PAIR_STS.ROLE (R404, R423). -/
abbrev roleUnpaired : Nat := 0
abbrev roleSeeking : Nat := 1
abbrev roleJoining : Nat := 2
abbrev roleStandby : Nat := 3
abbrev roleActive : Nat := 4
abbrev roleUnsynced : Nat := 5
abbrev roleYielded : Nat := 6
abbrev roleMismatch : Nat := 7

/-- Abdication causes (R410); 9 is HANDOVER (R423). -/
abbrev abdOverrun : Nat := 1
abbrev abdQualLost : Nat := 2
abbrev abdSupply : Nat := 3
abbrev abdThermal : Nat := 4
abbrev abdPghUe : Nat := 5
abbrev abdTableUe : Nat := 6
abbrev abdLaneUe : Nat := 7
abbrev abdWatchdog : Nat := 8

def State.setPair (s : State) (p : Pair) : State := { s with pair := p }
def State.role (s : State) : Nat := s.rd fPAIR_STS_ROLE
def State.pairCfg (s : State) : Option PairCfg := match s.img with | some i => i.pair | none => none

/-- `k` tick periods in ns: the exact period times `k`, rounded once (R66). -/
def State.periods (s : State) (k : Nat) : Nat := k * 1000000000 / s.rateAt s.clv.now

/-- The last instance activated: a message's TICK (R403). -/
def State.lastActivated (s : State) : Nat := match s.tmb.insts.getLast? with | some i => i.tick | none => 0

/-! ### Messages (R401 to R403) -/

/-- TYPE of R403. -/
abbrev pmHello : Nat := 1
abbrev pmAuth : Nat := 2
abbrev pmHeartbeat : Nat := 3
abbrev pmAbdicate : Nat := 4
abbrev pmHandover : Nat := 5
abbrev pmPrepare : Nat := 6
abbrev pmBlock : Nat := 7
abbrev pmEnd : Nat := 8
abbrev pmCommit : Nat := 9
abbrev pmForward : Nat := 10
abbrev pmMirror : Nat := 11
abbrev pmAccSum : Nat := 12

def natBytes (n v : Nat) : List Nat := (be n v).map fun b => b.toNat

/-- A message's header and payload, without its TAG (R403). -/
def State.pairBody (s : State) (typ ctr : Nat) (payload : Bytes) : Bytes :=
  be 2 0xD0CA ++ be 1 1 ++ be 1 typ ++ be 1 (s.rd fPAIR_STS_MEMBER) ++ be 1 s.role ++ be 2 payload.length ++ be 8 ctr ++
    be 8 s.lastActivated ++ payload

/-- The 16 bytes of TAG: HMAC-SHA256 of the message before it, truncated (R402; what it covers: log entry 33); zero in HELLO. -/
def State.pairTag (s : State) (typ : Nat) (body : Bytes) : Nat :=
  if typ = pmHello then 0 else Config.hmac s.pair.sessKey (body.map fun b => b.toNat) / 2 ^ 128

/-- The frame of a message on a lane: source MAC base + 64 or + 65, the partner's address as destination (R98, R403). -/
def State.pairFrame (s : State) (lane typ ctr : Nat) (payload : Bytes) : Bytes :=
  let body := s.pairBody typ ctr payload
  ethFrame (Config.pairPeer lane) (Config.macBase + 64 + lane) none 0x88B5 (body ++ be 16 (s.pairTag typ body))

/-- A message on both lanes with one counter (R401). -/
def State.pairEmit (s : State) (typ ctr : Nat) (payload : Bytes) : State :=
  (s.emit (.pair 0 (s.pairFrame 0 typ ctr payload))).emit (.pair 1 (s.pairFrame 1 typ ctr payload))

/-- Send a message of a session with the next counter (R402). -/
def State.pairSend (s : State) (typ : Nat) (payload : Bytes) : State :=
  if !s.pair.authed then s
  else (s.setPair { s.pair with txCtr := s.pair.txCtr + 1 }).pairEmit typ (s.pair.txCtr + 1) payload

/-- MIRROR (R403, R408). -/
def State.sendMirror (s : State) (op m operand : Nat) : State := s.pairSend pmMirror (be 2 op ++ be 6 0 ++ be 8 m ++ be 8 operand)

/-- FORWARD (R403); the layout after its first byte, which tells what it carries, is the model's (log entry 26). -/
def State.sendForward (s : State) (what : Nat) (payload : Bytes) : State := s.pairSend pmForward (be 1 what ++ payload)

/-- Pieces of at most `n` elements, at most `k` of them. -/
def chunk {α : Type} (n : Nat) : Nat → List α → List (List α)
  | 0, _ => []
  | k + 1, l => if l.isEmpty then [] else l.take n :: chunk n k (l.drop n)

/-- The bytes of an image as FORWARD messages (R408): slot, length, offset and up to 8,192 bytes each. -/
def State.forwardImage (s : State) (slot : Nat) (b : Bytes) : State :=
  (chunk 8192 12288 b).zipIdx.foldl (fun s x =>
    s.sendForward 2 (be 1 slot ++ be 2 0 ++ be 4 b.length ++ be 4 (8192 * x.2) ++ x.1)) s

/-- Take a role; AUTH follows it (R404, R423). -/
def setRole (r : Nat) (s : State) : State :=
  ((s.wr fPAIR_STS_ROLE r).wrB fPAIR_STS_AUTH (r = roleActive || r = roleUnpaired)).wrB fALM_STS_AUTH (r = roleActive || r = roleUnpaired)

/-- The pins that only authority drives (R407): the contacts computed so far and the pulse outputs. -/
def State.authorityPins (s : State) : List Nat :=
  (s.alm.contacts.map fun c => c.1) ++ (match s.img with | some i => i.acc.pulses.map fun p => p.pin | none => [])

/-- Release every pin under R407 and stop GOOSE (R411 step 1). A pulse in progress counts as emitted (R409). -/
def releaseAuthority (s : State) : State :=
  let s := s.authorityPins.foldl (fun s p =>
    if (s.pio.getD p none).isNone then s else ({ s with pio := s.pio.set p none }).emit (.pin "PIO" p none)) s
  let s := (List.range 8).foldl (fun s k => s.wrB (fACC_PLS_STS_LEVEL k) false) s
  { s with acc := { s.acc with pulses := s.acc.pulses.map fun p => { p with pulseEnd := none } },
           alm := { s.alm with goose := s.alm.goose.map fun g => (g.1, { g.2 with due := none }) } }

/-- The partner's latest heartbeat, no older than 3 ticks, reports FIT (R410). -/
def State.partnerFit (s : State) : Bool :=
  s.on fPAIR_STS_PARTNER_FIT && (match s.pair.hbAt with | some t => s.up ≤ t + s.periods 3 | none => false)

/-- A join ends without a commit (R419). -/
def joinFail (reason : Nat) (s : State) : State :=
  let e := match s.pair.join with | some j => j.epoch | none => s.mram.epochCount
  let s := s.setPair { s.pair with join := none, ownAtC := none, unsyncAt := s.up }
  let a := s.rd fPAIR_STS_ATTEMPTS
  let s := ((setRole roleUnsynced s).wr fPAIR_STS_ATTEMPTS (min (a + 1) 15)).inc fPAIR_JOINF_CNT_JOINS
  post 0xA4 (le 8 e ++ le 1 reason ++ le 3 0) (s.flag fPAIR_FLT_FLAGS 9)

/-- The module abdicates (R411 step 1). -/
def doAbdicate (cause : Nat) (s : State) : State :=
  let fit := s.partnerFit
  let s := releaseAuthority s
  let s := s.setPair { s.pair with abdUntil := some (s.up + 1000000), move := none, join := none, yieldClear := some s.up }
  let s := ({ s with pwr := { s.pwr with abdN := false } }).emit (.pin "PAIR_ABD_N" 0 (some false))
  let s := s.pairSend pmAbdicate (be 1 cause ++ be 7 0 ++ be 8 s.clv.now)
  let s := ((setRole roleYielded s).wr fPAIR_ABD_STS_OWN_CAUSE cause).inc fPAIR_ABD_CNT_EVENTS
  let s := s.wr64 fPAIR_AUTH_TICK_LO_J_LO (s.curTick + 1)
  post 0xA5 (le 1 cause ++ le 1 (if fit then 1 else 0) ++ le 2 0 ++ le 8 s.curTick) (s.flag fPAIR_FLT_FLAGS 5)

/-- An abdication trigger (R410). A joiner's own trigger, and one that comes while it stages a copy, fails its join (R419 reason 4). -/
def abdicate (cause : Nat) (conditional : Bool) (s : State) : State :=
  if !s.paired then s
  else
    let s := s.setPair { s.pair with yieldClear := some s.up }
    if s.role = roleActive then
      if conditional && !s.partnerFit then post 0xA8 (le 1 cause ++ le 3 0 ++ le 8 s.curTick) (s.flag fPAIR_FLT_FLAGS 8)
      else doAbdicate cause s
    else if s.role = roleJoining && cause = abdSupply then joinFail 4 s
    else s

/-! ### The PAIR key (R376, R377, R402) -/

abbrev keyFree : Nat := 0
abbrev keyValid : Nat := 1
abbrev keyPending : Nat := 2
abbrev keySpent : Nat := 3
abbrev keyInvalid : Nat := 4

abbrev typRoot : Nat := 0
abbrev typDomain : Nat := 1
abbrev typGroup : Nat := 2
abbrev typWork : Nat := 3

abbrev purStream : Nat := 1
abbrev purHost : Nat := 2
abbrev purBench : Nat := 3
abbrev purPair : Nat := 4

/-- VALID or PENDING, with a use left (R377). -/
def keyUsable (k : KeyEnt) : Bool := (k.st = keyValid || k.st = keyPending) && k.uses ≠ some 0

/-- The usable WORK key of purpose PAIR with the image's KEY_ID (R402). -/
def State.pairKey? (s : State) : Option Nat :=
  match s.pairCfg with
  | none => none
  | some c => (s.bur.ents.find? fun e => e.2.typ = typWork && e.2.purpose = purPair && e.2.keyId = c.keyId && keyUsable e.2).map fun e => e.1

def State.ownDigest (s : State) : Nat := match s.img with | some i => i.digest | none => 0

/-- HELLO with this module's nonce (R402, R403); it comes before the session's first counter. -/
def sendHello (s : State) : State :=
  s.pairEmit pmHello 0 (be 16 (s.pair.nonce.getD 0) ++ be 32 s.ownDigest ++ be 8 Config.serial)

/-- Begin to look for a partner: the HELLO of a link start, with a nonce the spec leaves to the module (R402). With no usable PAIR key it never
hears one. -/
def seek (s : State) : State :=
  let s := setRole roleSeeking s
  let nonce := s.freeVal 40 % 2 ^ 128
  let s := if s.pairKey?.isNone then s.flag fPAIR_FLT_FLAGS 3 else s
  sendHello (s.nextFree.setPair { s.pair with seekSince := s.up, nonce := some nonce, helloIn := none, authed := false })

/-- The link is lost (R401, R402, R405): both lanes silent (1), authentication (2) or the key invalidated (3). -/
def linkLost (cause : Nat) (s : State) : State :=
  if !s.on fPAIR_STS_PARTNER_UP then s
  else
    let s := s.setPair { s.pair with authed := false, key := none, sessKey := 0, helloIn := none, hbAt := none, hbTick := [none, none] }
    let s := ((s.wrB fPAIR_STS_PARTNER_UP false).wrB fPAIR_STS_PARTNER_FIT false).wrB fPAIR_STS_PARTNER_READY false
    let s := (s.wrB fPAIR_STS_LANE_A false).wrB fPAIR_STS_LANE_B false
    let s := post 0xA1 (le 1 cause ++ le 3 0 ++ le 8 s.pair.lastTick) (s.flag fPAIR_FLT_FLAGS 2)
    if s.role = roleJoining then joinFail 2 s
    else if (s.role = roleStandby || s.role = roleUnsynced) && !s.pair.abdSeen then seek (s.setPair { s.pair with move := none })
    else if s.role = roleActive then s.setPair { s.pair with join := none, nonce := none }
    else s.setPair { s.pair with nonce := none }

end Sys2Proof.Machine
end

