-- ==== Sys2Proof/Machine/Clave.lean ====
section
/-!
DEFINITION. Clave (R65–R95): samples, the first-lock step, the states, holdover, reseat, leaps, PTP, IRIG-B and PPS.
-/

namespace Sys2Proof.Machine

def State.setClv (s : State) (c : Clave) : State := { s with clv := c }

/-- Source codes (R92): 1 PTP, 2 IRIG-B, 3 PPS. -/
abbrev srcPtp : Nat := 1
abbrev srcIrig : Nat := 2
abbrev srcPps : Nat := 3

/-- The integer square root, bit by bit. -/
def isqrtFrom : Nat → Nat → Nat → Nat
  | 0, _, r => r
  | b + 1, n, r => isqrtFrom b n (if (r + 2 ^ b) * (r + 2 ^ b) ≤ n then r + 2 ^ b else r)

def isqrt (n : Nat) : Nat := isqrtFrom 128 n 0

/-- The root mean square of samples in whole ns, rounded down: the spec names no rounding (DESIGN CHOICE, log entry 12). -/
def rms (l : List Int) : Nat :=
  if l.isEmpty then 0 else isqrt ((l.map fun x => x.natAbs * x.natAbs).sum / l.length)

/-- The mean of samples, rounded down (log entry 12). -/
def meanInt (l : List Int) : Int := if l.isEmpty then 0 else l.sum / (l.length : Int)

/-- Samples agree when they lie within `j` of one another. -/
def agree (j : Nat) (l : List Int) : Bool := l.all fun x => l.all fun y => (x - y).natAbs ≤ j

/-- Samples with the drift of Clave's rate taken out: the line through the first and the last of them, its slope within the servo's
±200 ppm (R77 names the allowance and gives no form; DESIGN CHOICE, log entry 47). -/
def drifted (l : List TimeSample) : List Int :=
  match l.head?, l.getLast? with
  | some a, some b =>
    let dt : Int := (b.at_ : Int) - a.at_
    let slope (t : Int) : Int := if dt = 0 then 0 else max (-(t * 200 / 1000000)) (min (t * 200 / 1000000) ((b.ofs - a.ofs) * t / dt))
    l.map fun x => x.ofs - slope ((x.at_ : Int) - a.at_)
  | _, _ => []

def State.jump (s : State) : Nat := s.rd fCLV_JUMP_CFG_JUMP_NS
def State.lockNs (s : State) : Nat := s.rd fCLV_QUAL_CFG_LOCK_NS * 10
def State.src (s : State) : Nat := s.rd fCLV_STS_SRC

def State.srcHist (s : State) (src : Nat) : SrcHist := s.clv.srcs.getD (src - 1) {}

def State.setSrcHist (s : State) (src : Nat) (h : SrcHist) : State :=
  s.setClv { s.clv with srcs := s.clv.srcs.set (src - 1) h }

/-- No usable sample of a source for LOSS_S, or none at all (R77, R92). -/
def State.silent (s : State) (src : Nat) : Bool :=
  match (s.srcHist src).last with
  | some t => s.up ≥ t + s.rd fCLV_TIMER_CFG_LOSS_S * 1000000000
  | none => true

/-- A source is enabled: PTP whenever the image names a PTP port, the others by their EN bits (R93). -/
def State.srcEnabled (s : State) (src : Nat) : Bool :=
  if src = srcPtp then (List.range 8).any fun k => s.on (fCLV_PTP_PORT_CFG_EN k)
  else if src = srcIrig then s.on fCLV_IRIG_CFG_EN
  else if src = srcPps then s.on fCLV_TOD_CFG_EN
  else false

/-- Enabled sources in priority order (R92). -/
def State.srcOrder (s : State) : List Nat :=
  [s.rd fCLV_SRC_CFG_PRI0, s.rd fCLV_SRC_CFG_PRI1, s.rd fCLV_SRC_CFG_PRI2].filter fun c => c ≠ 0 && s.srcEnabled c

/-- `a` stands before `b` in the priority order, or `b` is not in it. -/
def State.higher (s : State) (a b : Nat) : Bool :=
  let o := s.srcOrder
  o.contains a && (!o.contains b || o.idxOf a < o.idxOf b)

/-- A source qualifies: 4 consecutive usable samples that agree within JUMP_NS after allowing for rate (R77). -/
def State.qualifies (s : State) (src : Nat) : Bool :=
  let r := (s.srcHist src).recent
  r.length ≥ 4 && agree s.jump (drifted r)

/-! ### The error estimate and the quality codes (R79) -/

/-- E, or none while it is unknown. -/
def State.errEst (s : State) : Option Nat :=
  if s.beforeStep then none
  else if s.clvState = clvLocked || s.clvState = clvAcquiring then some ((s.srcHist s.src).inacc + rms s.clv.hist)
  else some (s.clv.e0 + s.rd fCLV_QUAL_CFG_DRIFT_PPB * (s.up - s.clv.eSince) / 1000000000)

/-- TQ and STAT_TQ (R79). -/
def qualCodes (locked : Bool) (e : Option Nat) : Nat × Nat :=
  match e with
  | none => (0xF, 7)
  | some e =>
    if e ≤ 1000 then (if locked then 0 else 4, if e < 100 then 1 else 2)
    else if e ≤ 10000 then (5, 3)
    else if e ≤ 100000 then (6, 4)
    else if e ≤ 1000000 then (7, 5)
    else if e ≤ 10000000 then (8, 6)
    else (0xF, 7)

/-- The two quality codes and ERR_NS at present (R79): E grows with time in holdover, so they are views of it. -/
def State.tq (s : State) : Nat := (qualCodes (s.clvState = clvLocked) s.errEst).1
def State.statTq (s : State) : Nat := (qualCodes (s.clvState = clvLocked) s.errEst).2
def State.errNs (s : State) : Nat :=
  match s.errEst with
  | none => 0xFFFFFFFF
  | some e => min e 0xFFFFFFFF

/-- E exceeds QUAL_LIMIT_NS, or is unknown. -/
def State.qualLost (s : State) : Bool :=
  match s.errEst with
  | none => true
  | some e => e > s.rd fCLV_QUAL_CFG_QUAL_LIMIT_NS

/-- Bring QUAL_LOST up to date (R79); setting it sets its flag and the window's TIME event, and is an abdication trigger (R410). -/
def updateQual (s : State) : State :=
  let was := s.on fCLV_STS_QUAL_LOST
  let s := s.wrB fCLV_STS_QUAL_LOST s.qualLost
  if s.qualLost && !was then abdicate abdQualLost true ((s.flag fCLV_FLT_FLAGS 8).smEvent 5) else s

/-! ### Changes of state -/

/-- End a refusal episode (R76). -/
def endEpisode (s : State) : State :=
  (s.setClv { s.clv with episode := none, refusedRun := 0 }).wrB fCLV_STS_REFUSING false

/-- Step Clave's time by `d` (R75): the only way its time jumps. Samples held are taken against the new time. -/
def stepTime (d : Int) (s : State) : State :=
  let shift (h : SrcHist) : SrcHist :=
    { h with recent := h.recent.map fun t => { ofs := t.ofs - d, at_ := ((t.at_ : Int) + d).toNat } }
  let s := s.setClv { s.clv with now := ((s.clv.now : Int) + d).toNat, srcs := s.clv.srcs.map shift }
  s.wrSym fCLV_STEP_STS_STEP_NS d

/-- Enter HOLDOVER (R77): the rate freezes, E starts from its value at entry, one SRC_LOST record. -/
def enterHoldover (loss : Bool) (s : State) : State :=
  let e := (s.errEst).getD 0
  let frozen := if s.clvState = clvLocked && !s.clv.rates.isEmpty then meanInt s.clv.rates else s.rdS fCLV_RATE_STS_RATE
  let s := s.wrSat fCLV_RATE_STS_RATE frozen
  let s := s.setClv { s.clv with e0 := e, eSince := s.up, okRun := 0,
                                 srcs := s.clv.srcs.map fun h => { h with accepted := 0 } }
  let s := (s.wr fCLV_STS_STATE clvHoldover).wrB fCLV_UTC_CFG_SRC_OWNS false
  let s := s.flag fCLV_FLT_FLAGS (if loss then 4 else 0)
  let ofs : Int := if loss then -(2 ^ 63 : Nat) else s.clv.lastRefused
  updateQual (post 0x15 (srcPayload s.src ofs s.clv.gm) s)

/-- Select a source: TAI_UTC belongs to the one before no longer (R69), and its episode is over. -/
def selectSrc (src : Nat) (s : State) : State :=
  if src = s.src then s else endEpisode ((s.wr fCLV_STS_SRC src).wrB fCLV_UTC_CFG_SRC_OWNS false)

/-- Become LOCKED to a source with no step. -/
def enterLocked (src : Nat) (s : State) : State :=
  updateQual (endEpisode (selectSrc src (s.wr fCLV_STS_STATE clvLocked)))

/-- The first whole TAI second at least 2 s after now, fixed once (R77): the table fixes it only where ACQUIRING becomes LOCKED, so a module
that first locks out of HOLDOVER has none (DESIGN CHOICE, log entry 47). -/
def fixTickSecond (s : State) : State :=
  match s.clv.tickSecond with
  | some _ => s
  | none => s.setClv { s.clv with tickSecond := some ((s.clv.now + 2000000000 + 999999999) / 1000000000) }

/-- The first-lock step (R77, R79). -/
def firstLockStep (s : State) : State :=
  let src := s.src
  let l := (s.srcHist src).recent.map fun t => t.ofs
  let d := meanInt l
  let s := stepTime d s
  let s := s.setClv { s.clv with hist := (l.map fun x => x - d).reverse, okRun := 0, refusedRun := 0, lastSample := s.up }
  let s := s.wrB fCLV_STS_STEPPED true
  updateQual (post 0x10 (le 1 src ++ le 7 0 ++ le 8 (ofSigned 64 d)) s)

/-- In ACQUIRING before the step: the step is taken when the candidate is the highest-priority enabled source, or when
WAIT_S has passed since the end of S1, once its 4 latest samples agree (R77). -/
def tryFirstLock (s : State) : State :=
  if s.clvState = clvAcquiring && !s.on fCLV_STS_STEPPED && s.qualifies s.src then
    let waited := s.up ≥ s.clv.s1End + s.rd fCLV_TIMER_CFG_WAIT_S * 1000000000
    if s.srcOrder.head? = some s.src || waited then firstLockStep s else s
  else s

/-- The servo's time constant in s (R75). -/
def servoTau (src : Nat) : Nat := if src = srcPtp then 16 else 8

/-- The servo's answer to an accepted sample (R75): proportional plus integral, with gains the spec does not give (free values, log
entry 3), within ±200 ppm, and slewed by at most 10 ppm for each second since its last change, of which no more than one counts. -/
def servo (ofs : Int) (s : State) : State :=
  let old := s.rdS fCLV_RATE_STS_RATE
  let dt := min (s.up - s.clv.lastSample) 1000000000
  let room : Int := 10000000 * (dt : Int) / 1000000000
  let integ := s.clv.integ + Config.servoI (servoTau s.src) ofs
  let want := Config.servoP (servoTau s.src) ofs + integ
  let new := max (-200000000) (min 200000000 (max (old - room) (min (old + room) want)))
  (s.wrSat fCLV_RATE_STS_RATE new).setClv { s.clv with lastSample := s.up, integ := integ }

/-- An accepted sample of the selected source (R76, R79). -/
def acceptSample (ofs : Int) (s : State) : State :=
  let s := endEpisode s
  let ok := if ofs.natAbs < s.lockNs then s.clv.okRun + 1 else 0
  let s := s.setClv { s.clv with hist := (ofs :: s.clv.hist).take 16, okRun := ok }
  let s := servo ofs s
  if s.clvState = clvAcquiring && ok ≥ 8 then fixTickSecond (enterLocked s.src s) else updateQual s

/-- A refused sample of the selected source (R76): the servo does not use it; the episode's first writes REFUSED; the
third in a row loses the source (R77). -/
def refuseSample (ofs : Int) (s : State) : State :=
  let s := s.flag fCLV_FLT_FLAGS 0
  let s := match s.clv.episode with
    | some _ => s
    | none => (post 0x12 (srcPayload s.src ofs s.clv.gm) (s.setClv { s.clv with episode := some s.up })).wrB fCLV_STS_REFUSING true
  let s := s.setClv { s.clv with refusedRun := s.clv.refusedRun + 1, lastRefused := ofs, okRun := 0 }
  if s.clv.refusedRun ≥ 3 && (s.clvState = clvLocked || s.clvState = clvAcquiring) then enterHoldover false s else s

/-- A usable sample of any source: its history, its report, and what the state of R77 makes of it. -/
def takeSample (src : Nat) (ofs : Int) (inacc : Nat) (s : State) : State :=
  let h := s.srcHist src
  let small := ofs.natAbs ≤ s.jump
  let recent := (h.recent ++ [({ ofs := ofs, at_ := s.clv.now } : TimeSample)]).drop (h.recent.length + 1 - 4)
  let s := s.setSrcHist src
    { recent := recent, accepted := if small then h.accepted + 1 else 0, last := some s.up, inacc := inacc, disagreed := h.disagreed && !small }
  let s := s.wrSym (fCLV_OFS_STS_OFS (src - 1)) ofs
  let s := match s.clv.wait with
    | some w => if w.src = src then s.setClv { s.clv with wait := some { w with got := (w.got ++ [ofs]).drop (w.got.length + 1 - 4) } } else s
    | none => s
  let st := s.clvState
  if st = clvUnset then
    if s.qualifies src && s.srcOrder.contains src then tryFirstLock (selectSrc src (s.wr fCLV_STS_STATE clvAcquiring)) else s
  else if s.beforeStep then
    let s := if src ≠ s.src && s.qualifies src && s.higher src s.src then selectSrc src s else s
    tryFirstLock s
  else if st = clvHoldover || st = clvStuck then
    if (s.srcHist src).accepted ≥ 4 && s.srcOrder.contains src then
      enterLocked src (s.setClv { s.clv with hist := ((recent.map fun t => t.ofs).reverse ++ s.clv.hist).take 16 })
    else if src = s.src then (if small then endEpisode s else refuseSample ofs s)
    else s
  else if src = s.src then (if small then acceptSample ofs s else refuseSample ofs s)
  else if st = clvLocked && s.qualifies src && s.higher src s.src then
    if small then
      updateQual (post 0x16 (srcPayload src ofs s.clv.gm) (selectSrc src s))
    else
      let s := s.flag fCLV_FLT_FLAGS 1
      if (s.srcHist src).disagreed then s
      else post 0x13 (srcPayload src ofs s.clv.gm) (s.setSrcHist src { s.srcHist src with disagreed := true })
  else s

/-- A sample that is not usable ends the source's run of consecutive usable samples (R77, R81). -/
def unusable (src : Nat) (s : State) : State :=
  let s := s.setSrcHist src { s.srcHist src with recent := [], accepted := 0, disagreed := false }
  match s.clv.wait with
  | some w => if w.src = src then s.setClv { s.clv with wait := some { w with got := [] } } else s
  | none => s

/-! ### TAI − UTC and leaps (R69) -/

/-- The selected source's offset, if it supplies a valid one: it wins over the host's as long as it does (R69). -/
def sourceOffset (ofs : Option Nat) (s : State) : State :=
  match ofs with
  | some v =>
    let s := (s.wr fCLV_UTC_CFG_TAI_UTC v).wrB fCLV_UTC_CFG_SRC_OWNS true
    { s with mram := { s.mram with pwr := { s.mram.pwr with taiUtc := trunc 16 v } } }
  | none => s.wrB fCLV_UTC_CFG_SRC_OWNS false

/-- The selected source's offset and leap announcement. -/
def sourceUtc (ofs : Option Nat) (leap : Option (Nat × Bool)) (s : State) : State :=
  let s := sourceOffset ofs s
  let s := (s.wrB fCLV_UTC_CFG_LEAP61 (leap.any fun l => l.2)).wrB fCLV_UTC_CFG_LEAP59 (leap.any fun l => !l.2)
  (s.wrB fCLV_STS_LEAP_PEND leap.isSome).setClv { s.clv with leapAt := leap }

def State.taiUtc (s : State) : Int := s.rdS fCLV_UTC_CFG_TAI_UTC

/-- The TAI second at which the UTC day of a TAI second ends. -/
def State.dayEnd (s : State) (taiSec : Nat) : Nat :=
  let utc := (taiSec : Int) - s.taiUtc
  ((utc / 86400 + 1) * 86400 + s.taiUtc).toNat

/-! ### PTP (R70, R71) -/

def State.ptpPort (s : State) (k : Nat) : PtpPort := s.clv.ptp.getD k {}
def State.setPtpPort (s : State) (k : Nat) (p : PtpPort) : State := s.setClv { s.clv with ptp := s.clv.ptp.set k p }

/-- The module's own clockClass by its state (R71). -/
def State.ownClass (s : State) : Nat :=
  if s.clvState = clvAcquiring then 248
  else if s.clvState = clvLocked then 6
  else if s.clvState = clvHoldover && !s.on fCLV_STS_QUAL_LOST then 7
  else 187

/-- The order of the default BMCA on data sets (PRESUMED from IEEE 1588-2019, log entry 10): smaller is better. -/
def dsKey (d : PtpDataset) : List Nat :=
  [d.priority1, d.clockClass, d.accuracy, d.variance, d.priority2, d.identity, d.stepsRemoved]

def lexLt : List Nat → List Nat → Bool
  | a :: as, b :: bs => a < b || (a = b && lexLt as bs)
  | _, _ => false

def betterDs (a b : PtpDataset) : Bool := lexLt (dsKey a) (dsKey b)

def State.ownDs (s : State) : PtpDataset :=
  { priority1 := s.rd fCLV_PTP_CFG_PRIORITY1, clockClass := s.ownClass, accuracy := 0xFE, variance := 0xFFFF,
    priority2 := s.rd fCLV_PTP_CFG_PRIORITY2, identity := clockId, stepsRemoved := 0, inaccuracy := 0,
    utcOffset := none, leap61 := false, leap59 := false, timeTraceable := s.ownClass ≤ 7, freqTraceable := s.ownClass ≤ 7,
    alternate := [] }

/-- The port that holds the best foreign data set. -/
def State.bestPort (s : State) : Option (Nat × PtpDataset) :=
  (List.range 8).foldl (fun acc k =>
    match (s.ptpPort k).best with
    | none => acc
    | some d =>
      match acc with
      | none => some (k, d)
      | some (_, e) => if betterDs d e then some (k, d) else acc) none

/-- The BMCA sets every port's role (R70, R71). -/
def runBmca (s : State) : State :=
  let best := s.bestPort
  let ownWins := match best with
    | none => true
    | some (_, d) => !s.beforeStep && betterDs s.ownDs d && s.src ≠ srcPtp
  (List.range 8).foldl (fun s k =>
    let p := s.ptpPort k
    if !s.on (fCLV_PTP_PORT_CFG_EN k) then s
    else
      let role : PtpRole :=
        match best with
        | some (b, d) =>
          if !ownWins && b = k then .slave
          else if s.beforeStep then .listening
          else if !ownWins && p.best.any (fun e => e.identity = d.identity && e.stepsRemoved ≤ d.stepsRemoved) then .passive
          else .master
        | none => if s.beforeStep then .listening else .master
      s.setPtpPort k { p with role := role }) s

/-- The frame port of PTP port k. -/
def State.ptpOn (s : State) (k : Nat) : Nat := s.rd (fCLV_PTP_PORT_CFG_PORT k)

/-- A PTP message of the domain has come to a port in use (R70). -/
def State.ptpHears (s : State) (k dom : Nat) : Bool := s.on (fCLV_PTP_PORT_CFG_EN k) && dom = s.rd fCLV_PTP_CFG_DOMAIN

/-- One PTP offset sample from a slave port: source time minus Clave time, corrected for path delay, for the carrier's receive delay and for
asymmetry (R76). Once PTP is the source, its parent's offset is Clave's (R69). -/
def ptpSample (k t1 t2 : Nat) (corr : Int) (s : State) : State :=
  let p := s.ptpPort k
  if !(s.on (fCLV_PTP_PORT_CFG_EN k) && p.role = .slave) then s
  else
    let at_ := s.rxInstant (s.ptpOn k) t2
    let s := s.setPtpPort k { p with syncAt := some ((t1 : Int) + corr, at_) }
    let ofs : Int := (t1 : Int) + corr + p.delay + s.rdS (fCLV_PTP_PORT_CFG_ASYM k) - at_
    let gm := (p.best.map fun d => d.identity).getD 0
    let s := if gm ≠ s.clv.gm && s.src = srcPtp && ofs.natAbs ≤ s.jump && !s.beforeStep then
        post 0x17 (srcPayload srcPtp ofs gm) (s.flag fCLV_FLT_FLAGS 5)
      else s
    let s := if gm ≠ s.clv.gm && (s.src ≠ srcPtp || s.beforeStep || ofs.natAbs ≤ s.jump) then s.setClv { s.clv with gm := gm } else s
    let s := takeSample srcPtp ofs ((p.best.map fun d => d.inaccuracy).getD 0) s
    if s.src = srcPtp then sourceOffset (p.best.bind fun d => d.utcOffset) s else s

/-- The peer delay mechanism is in use: every profile but the default one (R70). -/
def State.peerDelay (s : State) : Bool := s.rd fCLV_PTP_CFG_PROFILE ≠ 2

/-! ### Commands: PTP -/

/-- SYNC (R76, R70): a one-step Sync gives its sample at once, a two-step one waits for its Follow_Up. `t2` is where the port's sampler
sees it. -/
def execSync (k : Fin 8) (dom : Fin 256) (seq t1 t2 : Nat) (corr : Int) (twoStep : Bool) (s : State) : Out :=
  .next (if !s.ptpHears k dom then s
         else if twoStep then s.setPtpPort k { s.ptpPort k with twoStep := some (seq, t2, corr) }
         else ptpSample k t1 t2 corr s)

/-- FOLLOW_UP (R70): completes the sample of its Sync. -/
def execFollowUp (k : Fin 8) (dom : Fin 256) (seq t1 : Nat) (corr : Int) (s : State) : Out :=
  .next (match (s.ptpPort k).twoStep with
    | some (q, t2, c) =>
      if s.ptpHears k dom && q = seq then ptpSample k t1 t2 (c + corr) (s.setPtpPort k { s.ptpPort k with twoStep := none }) else s
    | none => s)

/-- ANNOUNCE (R70, R69): enters the BMCA; the selected source's UTC offset and leap flags are taken. -/
def execAnnounce (k : Fin 8) (dom : Fin 256) (ds : PtpDataset) (interval : Nat) (s : State) : Out :=
  .next (
    if !s.ptpHears k dom then s
    else
      let p := s.ptpPort k
      let take := match p.best with
        | none => true
        | some d => d.identity = ds.identity || betterDs ds d
      if !take then s
      else
        let s := runBmca (s.setPtpPort k { p with best := some ds, bestAt := s.up, annInterval := interval })
        if (s.ptpPort k).role = .slave && s.src = srcPtp then
          let leap := if ds.leap61 then some (s.dayEnd (s.clv.now / 1000000000), true)
            else if ds.leap59 then some (s.dayEnd (s.clv.now / 1000000000), false) else none
          sourceUtc ds.utcOffset leap s
        else s)

/-- PDELAY_REQ (R70): answered under the peer-to-peer mechanism, one-step with the turnaround time, two-step with both stamps. -/
def execPdelayReq (k : Fin 8) (dom : Fin 256) (seq t2 asker : Nat) (s : State) : Out :=
  .next (
    let rx := s.rxInstant (s.ptpOn k) t2
    if !(s.ptpHears k dom && s.peerDelay) then s
    else if s.on fCLV_PTP_CFG_TWO_STEP_TX then
      ptpFrameOut k ptPdelayResp 0x200 seq 0x7F (ptpTime rx ++ be 10 asker) (.pdelayRespTwo seq asker) s
    else ptpFrameOut k ptPdelayResp 0 seq 0x7F (be 10 0 ++ be 10 asker) (.pdelayResp rx) s)

/-- PDELAY_RESP (R70): half of the round trip since the port's own request, less the responder's turnaround from `t2` to `t3`. -/
def execPdelayResp (k : Fin 8) (dom : Fin 256) (seq t2 t3 t4 : Nat) (corr : Int) (s : State) : Out :=
  .next (match (s.ptpPort k).req with
    | some (q, t1) =>
      if s.ptpHears k dom && s.peerDelay && q = seq then
        s.setPtpPort k { s.ptpPort k with delay := (((s.rxInstant (s.ptpOn k) t4 : Int) - t1) - ((t3 : Int) - t2) - corr) / 2 }
      else s
    | none => s)

/-- DELAY_REQ (R70): answered on a master port in the default profile. -/
def execDelayReq (k : Fin 8) (dom : Fin 256) (seq rx requester : Nat) (s : State) : Out :=
  .next (if s.ptpHears k dom && !s.peerDelay && (s.ptpPort k).role = .master then
      ptpFrameOut k ptDelayResp 0 seq 0x7F (ptpTime (s.rxInstant (s.ptpOn k) rx) ++ be 10 requester) .plain s
    else s)

/-- DELAY_RESP (R70): the end-to-end mean path delay, from the last Sync and the port's own Delay_Req, which the master received at `t4`. -/
def execDelayResp (k : Fin 8) (dom : Fin 256) (seq t4 : Nat) (corr : Int) (s : State) : Out :=
  .next (match (s.ptpPort k).req, (s.ptpPort k).syncAt with
    | some (q, t3), some (t1, t2) =>
      if s.ptpHears k dom && !s.peerDelay && q = seq then
        s.setPtpPort k { s.ptpPort k with delay := (((t2 : Int) - t1) + ((t4 : Int) - t3) - corr) / 2 }
      else s
    | _, _ => s)

/-- MANAGEMENT_MESSAGE (R70): discarded and counted without reply. -/
def execManagementMessage (k : Fin 8) (dom : Fin 256) (s : State) : Out :=
  .next (if s.ptpHears k dom then s.setClv { s.clv with ptpMgmt := s.clv.ptpMgmt + 1 } else s)

/-- The data set that the master ports announce (R71): the parent's as a boundary clock while LOCKED to PTP, with the module's own
contribution to the inaccuracy and its other TLVs unchanged (R70); else the module's own. frequencyTraceable follows timeTraceable where R71
does not name it (DESIGN CHOICE, log entry 47). -/
def State.announced (s : State) : PtpDataset :=
  let own := { s.ownDs with inaccuracy := 25 }
  match s.bestPort with
  | some (_, d) =>
    if s.clvState = clvLocked && s.src = srcPtp then { d with stepsRemoved := d.stepsRemoved + 1, inaccuracy := d.inaccuracy + 25 } else own
  | none => own

/-- PTP_MASTER_TX (R71): Announce or Sync on a master port, none before the first-lock step; and the port's own half of the delay mechanism
(R70): Pdelay_Req on any port, Delay_Req on a slave. -/
def execPtpMasterTx (k : Fin 8) (what : PtpTx) (s : State) : Out :=
  .next (
    let p := s.ptpPort k
    let t := s.setPtpPort k { p with txSeq := (p.txSeq + 1) % 65536 }
    let master : Bool := !s.beforeStep && p.role = .master
    let log := s.rd (fCLV_PTP_PORT_CFG_LOG_SYNC k)
    if !s.on (fCLV_PTP_PORT_CFG_EN k) then s
    else match what with
      | .announce =>
        if master then ptpFrameOut k ptAnnounce (announceFlags s.announced) p.txSeq 0
            (announceBody (s.rd fCLV_PTP_CFG_PROFILE = 0) s.announced) .plain t
        else s
      | .sync =>
        if !master then s
        else if s.on fCLV_PTP_CFG_TWO_STEP_TX then ptpFrameOut k ptSync 0x200 p.txSeq log (ptpTime s.clv.now) (.syncTwo p.txSeq log) t
        else ptpFrameOut k ptSync 0 p.txSeq log (be 10 0) .sync t
      | .pdelayReq => if s.peerDelay then ptpFrameOut k ptPdelayReq 0 p.txSeq 0x7F (be 20 0) (.request p.txSeq) t else s
      | .delayReq =>
        if !s.peerDelay && p.role = .slave then ptpFrameOut k ptDelayReq 0 p.txSeq 0x7F (ptpTime s.clv.now) (.request p.txSeq) t else s)

/-- ANNOUNCE_RECEIPT_TIMEOUT (R70): the port's data set, if it holds one, is dropped and the BMCA selects again. Three Announce intervals are
the default profile's timeout (PRESUMED, log entry 10). -/
def execAnnounceReceiptTimeout (k : Fin 8) (s : State) : Out :=
  .next (
    let p := s.ptpPort k
    if s.on (fCLV_PTP_PORT_CFG_EN k) && s.up ≥ p.bestAt + 3 * p.annInterval then runBmca (s.setPtpPort k { p with best := none }) else s)

/-! ### Commands: IRIG-B and PPS -/

/-- Days from the epoch to the start of a year. -/
def yearDays (y : Nat) : Nat :=
  365 * (y - 1970) + ((y - 1) / 4 - (y - 1) / 100 + (y - 1) / 400 - 477)

/-- The year that a day counted from the epoch lies in: the last one, of those up to `y + k`, that does not start after it. -/
def yearOfDay : Nat → Nat → Nat → Nat
  | 0, y, _ => y
  | k + 1, y, d => if d < yearDays (y + 1) then y else yearOfDay k (y + 1) d

/-- The year of an IRIG-B frame (R72, R73): the extension's, the code's where B004 to B007 carry one, or none. -/
def State.irigYear (s : State) (f : IrigFrame) : Option Nat :=
  if s.on fCLV_IRIG_CFG_EXT1344 then some f.extYear else if s.rd fCLV_IRIG_CFG_CODE ≥ 4 then some f.year else none

/-- IRIG_FRAME (R72, R73): one sample at the reference marker, unless parity or the quality nibble forbids it. The extension's local time
offset is removed. A frame without a year takes the year from Clave's own time and cannot give the first-lock step. -/
def execIrigFrame (f : IrigFrame) (s : State) : Out :=
  .next (
    if !s.on fCLV_IRIG_CFG_EN then s
    else
      let ext := s.on fCLV_IRIG_CFG_EXT1344
      let year := s.irigYear f
      if (ext && (!f.parityOk || f.qualNs > s.rd fCLV_QUAL_CFG_QUAL_LIMIT_NS)) || (year.isNone && s.beforeStep) then unusable srcIrig s
      else
        let at_ : Int := (atContact (s.rd fCLV_IRIG_CFG_GLITCH) f.raw : Int) - s.rd fCLV_IRIG_CFG_DELAY_NS
        let own := ((at_ + 500000000) / 1000000000 - s.taiUtc).toNat
        let y := year.getD (yearOfDay 600 1970 (own / 86400))
        let utc : Int := (yearDays y * 86400 + f.second : Nat) - (if ext then f.locOfs else 0)
        let s := if s.src = srcIrig then
            sourceUtc none (if ext then f.leap.map fun p => (s.dayEnd (utc + s.taiUtc).toNat, p) else none) s else s
        takeSample srcIrig ((utc + s.taiUtc) * 1000000000 - at_) (if ext then f.qualNs else 0) s)

/-- A PPS edge becomes a sample when its ZDA and RMC conditions hold (R74). -/
def tryPps (s : State) : State :=
  match s.clv.pps, s.clv.zda with
  | some e, some (utc, rx) =>
    let inTime := if s.on fCLV_TOD_CFG_REF then rx ≤ e && e ≤ rx + 900000000 else e ≤ rx && rx ≤ e + 900000000
    let rmcOk := !s.on fCLV_TOD_CFG_NEED_RMC || s.clv.rmc = some utc
    if inTime && rmcOk then
      let ofs : Int := ((utc : Int) + s.taiUtc) * 1000000000 - ((e : Int) - s.rdS fCLV_TOD_CFG_PPS_DELAY)
      takeSample srcPps ofs 0 (s.setClv { s.clv with pps := none, zda := none })
    else s
  | _, _ => s

/-- A PPS edge that waits for its sentence has not got it: no usable sample (R74). -/
def dropPps (s : State) : State := if s.clv.pps.isSome then unusable srcPps (s.setClv { s.clv with pps := none }) else s

/-- PPS_EDGE (R74, R42): a rising edge that gets through the glitch filter replaces one that never got its sentence. -/
def execPpsEdge (raw hold : Nat) (s : State) : Out :=
  .next (
    let g := s.rd fCLV_TOD_CFG_GLITCH
    if !s.on fCLV_TOD_CFG_EN || !passesFilter g hold then s
    else
      let s := dropPps s
      let s := s.setClv { s.clv with pps := some (atContact g raw) }
      if s.on fCLV_TOD_CFG_REF then tryPps s else s.setClv { s.clv with zda := none })

/-- A sentence is heard: the source is enabled, its rate is BAUD's, and its checksum holds (R74). -/
def State.todHears (s : State) (baud : Nat) (checksumOk : Bool) : Bool :=
  s.on fCLV_TOD_CFG_EN && baud = s.rd fCLV_TOD_CFG_BAUD && checksumOk

/-- ZDA (R74): names the edge before it, or after it when REF = 1. -/
def execZda (baud : Fin 5) (utcSec : Nat) (checksumOk : Bool) (rxAt : Nat) (s : State) : Out :=
  .next (if !s.todHears baud checksumOk then s
    else
      let t := s.setClv { s.clv with zda := some (utcSec, rxAt) }
      if s.on fCLV_TOD_CFG_REF then dropPps t else tryPps t)

/-- RMC (R74): status A is what NEED_RMC asks for in the same second. -/
def execRmc (baud : Fin 5) (statusA checksumOk : Bool) (utcSec : Nat) (s : State) : Out :=
  .next (if !s.todHears baud checksumOk then s
    else if statusA then tryPps (s.setClv { s.clv with rmc := some utcSec }) else s.setClv { s.clv with rmc := none })

/-! ### Commands: states and time -/

/-- FIRST_LOCK_WAIT_EXPIRY (R77). -/
def execFirstLockWaitExpiry (s : State) : Out := .next (tryFirstLock s)

/-- SRC_LOST (R77): from LOCKED, or from ACQUIRING after the step. -/
def execSrcLost (s : State) : Out :=
  .next (if (s.clvState = clvLocked || (s.clvState = clvAcquiring && s.on fCLV_STS_STEPPED)) && s.silent s.src then
      enterHoldover true (unusable s.src s)
    else s)

/-- STUCK (R77): a refusal episode has lasted STUCK_S in HOLDOVER. -/
def execStuck (s : State) : Out :=
  .next (match s.clv.episode with
    | some t =>
      if s.clvState = clvHoldover && s.up ≥ t + s.rd fCLV_TIMER_CFG_STUCK_S * 1000000000 then
        let s := (s.wr fCLV_STS_STATE clvStuck).flag fCLV_FLT_FLAGS 2
        updateQual (post 0x14 (srcPayload s.src s.clv.lastRefused s.clv.gm) s)
      else s
    | none => s)

/-- HOLDOVER_QUAL_LOST (R79): E has grown past QUAL_LIMIT_NS. -/
def execHoldoverQualLost (s : State) : Out :=
  .next (if s.clvState = clvHoldover || s.clvState = clvStuck then updateQual s else s)

/-- LEAP (R69): the pending leap takes effect at the end of the named UTC day. -/
def execLeap (s : State) : Out :=
  .next (match s.clv.leapAt with
    | some (t, pos) =>
      if s.clv.now ≥ t * 1000000000 then
        let v := ofSigned 16 (s.taiUtc + (if pos then 1 else -1))
        let s := (s.wr fCLV_UTC_CFG_TAI_UTC v).setClv { s.clv with leapAt := none, lastLeap := some (t, pos) }
        let s := { s with mram := { s.mram with pwr := { s.mram.pwr with taiUtc := v } } }
        let s := ((s.wrB fCLV_UTC_CFG_LEAP61 false).wrB fCLV_UTC_CFG_LEAP59 false).wrB fCLV_STS_LEAP_PEND false
        post 0x18 (srcPayload s.src 0 s.clv.gm) s
      else s
    | none => s)

/-- TIME_MRAM_WRITE (R546): the whole TAI second goes to MRAM; the rate joins the 60 s mean of R77. -/
def execTimeMramWrite (s : State) : Out :=
  .next (
    if !s.timeAlive || s.clv.now / 1000000000 = s.mram.pwr.time then s
    else
      let s := { s with mram := { s.mram with pwr := { s.mram.pwr with time := s.clv.now / 1000000000 } } }
      s.setClv { s.clv with rates := (s.rdS fCLV_RATE_STS_RATE :: s.clv.rates).take 60 })

/-! ### Reseat (R81, R82) -/

/-- R82 step 1: m is the first tick at least 1 ms ahead in the old time; the RESEAT record is committed to MRAM. -/
def reseatFix (src : Nat) (l : List Int) (s : State) : State :=
  let d := meanInt l
  let r := s.rate
  let m := tickFrom r (s.clv.now + 1000000)
  let tm := tickInstant r m
  let skipped := if d > 0 then tickAt r (tm + d.toNat) - m else 0
  let s := post 0x11 (le 8 tm ++ le 8 (ofSigned 64 d) ++ le 1 src ++ le 3 0 ++ le 4 skipped) s
  (drainPosts s).setClv { (drainPosts s).clv with
    reseat := some { m := m, tm := tm, d := d, src := src, skipped := skipped }, wait := none,
    hist := (l.map fun x => x - d).reverse }

/-- A generator at a step (R90): edges due by t(m) have fired; the next is the first after t(m) + D; a ONCE pulse passed
over is LATE; an active pulse keeps its width. -/
def ttgStep (tm : Nat) (d : Int) (k : Nat) (s : State) : State :=
  match s.clv.ttg.getD k none with
  | none => s
  | some g =>
    let new := ((tm : Int) + d).toNat
    let fall := g.fallAt.map fun f => ((f : Int) + d).toNat
    let put (g : TtgRun) (s : State) : State := s.setClv { s.clv with ttg := s.clv.ttg.set k (some g) }
    if g.mode = 0 then
      if g.next = 0 && g.start ≤ new && fall.isNone then
        let s := ((s.wrB (fCLV_TTG_STS_LATE k) true).flag fCLV_FLT_FLAGS 7).setClv { s.clv with ttg := s.clv.ttg.set k none }
        (s.wrB (fCLV_TTG_CTL_ARM k) false).wrB (fCLV_TTG_STS_ARMED k) false
      else put { g with fallAt := fall } s
    else
      let first := if g.mode = 1 then (if new < g.start then 0 else (new - g.start) / g.period + 1) else tickAt g.div new + 1
      put { g with fallAt := fall, next := max first g.next } s

/-- R82 steps 2 to 5, at t(m) in the old time. -/
def reseatStep (s : State) : State :=
  match s.clv.reseat with
  | none => s
  | some r =>
    if s.clv.now < r.tm then s
    else
      let hist := s.clv.hist
      let s := stepTime r.d s
      let gen := s.rd fCLV_RESEAT_STS_GEN
      let s := (s.wr fCLV_RESEAT_STS_GEN (if gen ≥ 0xFE then 0 else gen + 1)).flag fCLV_FLT_FLAGS 3
      let s := (List.range 8).foldl (fun s k => ttgStep r.tm r.d k s) s
      let s := if r.skipped > 0 then
          (List.range 4).foldl (fun s k =>
            if s.rd (fSNR_DEF_STS_STATE k) = snrArmed || s.rd (fSNR_DEF_STS_STATE k) = snrTriggered then
              addGap k (r.m + 1) r.skipped 3 0xFFFF s else s) s
        else s
      let skip := if r.skipped > 0 then some (r.m + 1, r.skipped) else none
      let next := if r.skipped > 0 && s.clv.nextTick = r.m + 1 then r.m + 1 + r.skipped else s.clv.nextTick
      let s := s.setClv { s.clv with reseat := none, hist := hist, skip := skip, nextTick := next, lastReseat := some r.m }
      let s := { s with acc := { s.acc with steps := (s.acc.steps ++ [(r.m, r.d)]).drop (s.acc.steps.length - 63) } }
      enterLocked r.src s

/-- The instant of tick n has come: its time, or for the tick of a reseat the step itself (R82). -/
def State.instantCome (s : State) (n : Nat) : Bool := s.tickInst n ≤ s.clv.now || s.clv.lastReseat = some n

end Sys2Proof.Machine
end

