-- ==== Sys2Proof/Machine/Float.lean ====
section
/-!
DEFINITION. FP32 and double-precision arithmetic on bit patterns: every operation is computed exactly and rounded once, to
nearest with ties to even (R139, R204, R542). Functions that are not rational are computed to far more bits than either
format holds before the one rounding (DESIGN CHOICE, log entry 11).
-/

namespace Sys2Proof.Machine

/-- A binary format: precision, least exponent of a normal number, and exponent field width. -/
structure FpFmt where
  p : Nat
  emin : Int
  eb : Nat
deriving DecidableEq, Repr

def fp32 : FpFmt := { p := 24, emin := -126, eb := 8 }
def fp64 : FpFmt := { p := 53, emin := -1022, eb := 11 }

/-- What a bit pattern stands for. `fin neg m e` is ±m × 2^e. -/
inductive FVal where
  | nan
  | inf (neg : Bool)
  | fin (neg : Bool) (m : Nat) (e : Int)
deriving DecidableEq, Repr

/-- A rational number num / den, den > 0, not in lowest terms. -/
structure Q where
  num : Int
  den : Nat
deriving DecidableEq, Repr

def Q.ofInt (i : Int) : Q := ⟨i, 1⟩
def Q.add (a b : Q) : Q := ⟨a.num * b.den + b.num * a.den, a.den * b.den⟩
def Q.neg (a : Q) : Q := ⟨-a.num, a.den⟩
def Q.sub (a b : Q) : Q := a.add b.neg
def Q.mul (a b : Q) : Q := ⟨a.num * b.num, a.den * b.den⟩
def Q.div (a b : Q) : Q := if b.num < 0 then ⟨-(a.num * b.den), a.den * b.num.natAbs⟩ else ⟨a.num * b.den, a.den * b.num.natAbs⟩
def Q.lt (a b : Q) : Bool := a.num * b.den < b.num * a.den
def Q.le (a b : Q) : Bool := a.num * b.den ≤ b.num * a.den
def Q.abs (a : Q) : Q := ⟨a.num.natAbs, a.den⟩
def Q.isZero (a : Q) : Bool := a.num = 0
/-- ±m × 2^e. -/
def Q.scale (m : Int) (e : Int) : Q :=
  if e ≥ 0 then ⟨m * (2 ^ e.toNat : Nat), 1⟩ else ⟨m, 2 ^ (-e).toNat⟩

/-- n / d rounded to an integer, ties to even. -/
def roundDiv (n d : Nat) : Nat :=
  let q := n / d
  let r := 2 * (n % d)
  if r > d || (r = d && q % 2 = 1) then q + 1 else q

/-- A rational rounded to an integer, ties to even. -/
def Q.round (a : Q) : Int :=
  let m : Int := roundDiv a.num.natAbs a.den
  if a.num < 0 then -m else m

def Q.floor (a : Q) : Int := a.num / (a.den : Int)

def fpInf (f : FpFmt) : Nat := (2 ^ f.eb - 1) * 2 ^ (f.p - 1)
/-- The quiet NaN the module stores (R139). -/
def fpNan (f : FpFmt) : Nat := fpInf f + 2 ^ (f.p - 2)
def fpSign (f : FpFmt) (neg : Bool) : Nat := if neg then 2 ^ (f.p - 1 + f.eb) else 0

/-- n / d (d > 0) rounded to the format. -/
def fpRoundMag (f : FpFmt) (n d : Nat) : Nat :=
  if n = 0 then 0
  else
    let e0 : Int := (Nat.log2 n : Int) - (Nat.log2 d : Int)
    -- 2^e0 may exceed n / d by one binade
    let below := if e0 ≥ 0 then n < d * 2 ^ e0.toNat else n * 2 ^ (-e0).toNat < d
    let e := if below then e0 - 1 else e0
    let e := max e f.emin
    let q := e - (f.p - 1 : Nat)
    let m := if q ≥ 0 then roundDiv n (d * 2 ^ q.toNat) else roundDiv (n * 2 ^ (-q).toNat) d
    min ((e - f.emin).toNat * 2 ^ (f.p - 1) + m) (fpInf f)

/-- A rational rounded to the format; an exact zero takes the sign given. -/
def fpRound (f : FpFmt) (zeroNeg : Bool) (a : Q) : Nat :=
  if a.num = 0 then fpSign f zeroNeg else fpSign f (a.num < 0) + fpRoundMag f a.num.natAbs a.den

def fpDecode (f : FpFmt) (b : Nat) : FVal :=
  let neg := b / 2 ^ (f.p - 1 + f.eb) % 2 = 1
  let ex := b / 2 ^ (f.p - 1) % 2 ^ f.eb
  let fr := b % 2 ^ (f.p - 1)
  if ex = 2 ^ f.eb - 1 then (if fr = 0 then .inf neg else .nan)
  else if ex = 0 then .fin neg fr (f.emin - (f.p - 1 : Nat))
  else .fin neg (2 ^ (f.p - 1) + fr) (f.emin + (ex - 1 : Nat) - (f.p - 1 : Nat))

def FVal.q : FVal → Q
  | .fin neg m e => Q.scale (if neg then -(m : Int) else m) e
  | _ => ⟨0, 1⟩

def FVal.neg : FVal → Bool
  | .fin n _ _ => n
  | .inf n => n
  | .nan => false

def FVal.isFin : FVal → Bool
  | .fin _ _ _ => true
  | _ => false

def FVal.isZero : FVal → Bool
  | .fin _ 0 _ => true
  | _ => false

def fpAdd (f : FpFmt) (a b : Nat) : Nat :=
  match fpDecode f a, fpDecode f b with
  | .nan, _ => fpNan f
  | _, .nan => fpNan f
  | .inf x, .inf y => if x = y then fpSign f x + fpInf f else fpNan f
  | .inf x, _ => fpSign f x + fpInf f
  | _, .inf y => fpSign f y + fpInf f
  | x, y => fpRound f (x.neg && y.neg) (x.q.add y.q)

def fpNeg (f : FpFmt) (a : Nat) : Nat :=
  match fpDecode f a with
  | .nan => fpNan f
  | v => if v.neg then a - fpSign f true else a + fpSign f true

def fpAbs (f : FpFmt) (a : Nat) : Nat := if (fpDecode f a).neg then fpNeg f a else a

def fpSub (f : FpFmt) (a b : Nat) : Nat := fpAdd f a (fpNeg f b)

def fpMul (f : FpFmt) (a b : Nat) : Nat :=
  match fpDecode f a, fpDecode f b with
  | .nan, _ => fpNan f
  | _, .nan => fpNan f
  | .inf x, v => if v.isZero then fpNan f else fpSign f (x != v.neg) + fpInf f
  | v, .inf y => if v.isZero then fpNan f else fpSign f (y != v.neg) + fpInf f
  | x, y => fpRound f (x.neg != y.neg) (x.q.mul y.q)

def fpDiv (f : FpFmt) (a b : Nat) : Nat :=
  match fpDecode f a, fpDecode f b with
  | .nan, _ => fpNan f
  | _, .nan => fpNan f
  | .inf _, .inf _ => fpNan f
  | .inf x, v => fpSign f (x != v.neg) + fpInf f
  | v, .inf y => fpSign f (y != v.neg)
  | x, y =>
    if y.isZero then (if x.isZero then fpNan f else fpSign f (x.neg != y.neg) + fpInf f)
    else fpRound f (x.neg != y.neg) (x.q.div y.q)

/-- a × b + c with one rounding. -/
def fpFma (f : FpFmt) (a b c : Nat) : Nat :=
  match fpDecode f a, fpDecode f b, fpDecode f c with
  | .fin n1 m1 e1, .fin n2 m2 e2, .fin n3 m3 e3 =>
    let x := FVal.fin n1 m1 e1
    let y := FVal.fin n2 m2 e2
    let z := FVal.fin n3 m3 e3
    fpRound f ((n1 != n2) && n3) ((x.q.mul y.q).add z.q)
  | _, _, _ => fpAdd f (fpMul f a b) c

/-- Comparison of two numbers; false where either is NaN. -/
def fpLt (f : FpFmt) (a b : Nat) : Bool :=
  match fpDecode f a, fpDecode f b with
  | .nan, _ => false
  | _, .nan => false
  | .inf x, .inf y => x && !y
  | .inf x, _ => x
  | _, .inf y => !y
  | x, y => x.q.lt y.q

def fpEq (f : FpFmt) (a b : Nat) : Bool :=
  match fpDecode f a, fpDecode f b with
  | .nan, _ => false
  | _, .nan => false
  | .inf x, .inf y => x = y
  | .inf _, _ => false
  | _, .inf _ => false
  | x, y => x.q.num * y.q.den = y.q.num * x.q.den

def fpLe (f : FpFmt) (a b : Nat) : Bool := fpLt f a b || fpEq f a b

def fpIsNan (f : FpFmt) (a : Nat) : Bool := fpDecode f a = .nan

def fpFinite (f : FpFmt) (a : Nat) : Bool := (fpDecode f a).isFin

def fpOfInt (f : FpFmt) (i : Int) : Nat := fpRound f false (Q.ofInt i)

def fpToQ (f : FpFmt) (a : Nat) : Q := (fpDecode f a).q

/-! ### Irrational functions, in fixed point -/

/-- Fixed-point scale of the functions below: 2^200. -/
abbrev fxOne : Nat := 2 ^ 200

/-- π × 2^400 and ln 2 × 2^400, rounded down. -/
def pi400 : Nat := 8112377246730971238862271351300894519161151600179265203591191037615230905373990498745523360926816815427566779727327576236
def ln2400 : Nat := 1789879222497203190815761498240779176894896805856420935579692301363062920687047601279850318367644315849030039181347319086

def fxPi : Nat := pi400 / 2 ^ 200
def fxLn2 : Nat := ln2400 / 2 ^ 200

/-- Integer square root by bits: the largest r with r × r ≤ n, for n < 4^bits. -/
def natSqrtFrom : Nat → Nat → Nat → Nat
  | 0, _, r => r
  | b + 1, n, r => natSqrtFrom b n (if (r + 2 ^ b) * (r + 2 ^ b) ≤ n then r + 2 ^ b else r)

def natSqrt (n : Nat) : Nat := natSqrtFrom (Nat.log2 n / 2 + 1) n 0

/-- √a for a ≥ 0 to 200 fractional bits beyond its leading one, the last bit sticky. -/
def qSqrt (a : Q) : Q :=
  let n := a.num.natAbs
  -- scale so that the root has at least 200 bits
  let k := 200 + Nat.log2 a.den
  let r := natSqrt (n * 4 ^ k / a.den)
  let exact := r * r * a.den = n * 4 ^ k
  ⟨if exact then 2 * r else 2 * r + 1, 2 ^ (k + 1)⟩

/-- Fixed-point Taylor sum: term, square of the argument, next index, terms left, alternating. Odd or even series by start. -/
def fxSeries : Nat → Nat → Nat → Nat → Bool → Int → Int
  | 0, _, _, _, _, acc => acc
  | k + 1, term, sq, i, minus, acc =>
    let term' := term * sq / fxOne / (i * (i + 1))
    fxSeries k term' sq (i + 2) (!minus) (if minus then acc - (term' : Int) else acc + (term' : Int))

/-- sin and cos of a fixed-point angle of magnitude below 1. -/
def fxSin (x : Nat) : Int := fxSeries 40 x (x * x / fxOne) 2 true x
def fxCos (x : Nat) : Int := fxSeries 40 fxOne (x * x / fxOne) 1 true fxOne

/-- sin and cos of a rational angle: quadrant reduction with π to 400 bits. -/
def qSinCos (a : Q) : Q × Q :=
  let n := a.num.natAbs
  let half := pi400 / 2
  -- angle × 2^400, modulo a quarter turn of π/2
  let t := n * 2 ^ 400 / a.den
  let quad := t / half % 4
  let x := (t % half) / 2 ^ 200
  -- halve once more so that the series argument is below 1
  let h := x / 2
  let sh := fxSin h
  let ch := fxCos h
  let s := 2 * sh * ch / (fxOne : Int)
  let c := (ch * ch - sh * sh) / (fxOne : Int)
  let small := n * 2 ^ 40 < a.den
  let (sn, cs) : Int × Int := match quad with
    | 0 => (s, c)
    | 1 => (c, -s)
    | 2 => (-s, -c)
    | _ => (-c, s)
  let sinQ : Q := if small then a.sub ⟨a.num ^ 3, 6 * a.den ^ 3⟩ else ⟨if a.num < 0 then -sn else sn, fxOne⟩
  (sinQ, ⟨cs, fxOne⟩)

/-- Σ (−1)^i x^(2i+1) / (2i+1) in fixed point. -/
def fxAtanSeries : Nat → Nat → Nat → Nat → Bool → Int → Int
  | 0, _, _, _, _, acc => acc
  | k + 1, pow, sq, i, minus, acc =>
    let pow' := pow * sq / fxOne
    fxAtanSeries k pow' sq (i + 2) (!minus) (if minus then acc - (pow' / i : Nat) else acc + (pow' / i : Nat))

/-- atan x = 2 atan (x / (1 + √(1 + x²))): one halving. -/
def fxHalve (x : Nat) : Nat := x * fxOne / (fxOne + natSqrt (fxOne * fxOne + x * x))

/-- atan of a rational in [0, 1]. -/
def qAtan01 (y x : Nat) : Q :=
  if y * 2 ^ 40 < x then ⟨(3 * x * x : Int) * y - (y ^ 3 : Nat), 3 * x ^ 3⟩
  else
    let t := y * fxOne / x
    let h := fxHalve (fxHalve (fxHalve t))
    ⟨8 * fxAtanSeries 40 h (h * h / fxOne) 3 true h, fxOne⟩

/-- atan2 of rationals over one denominator; 0 for the origin. -/
def qAtan2 (y x : Int) : Q :=
  let ay := y.natAbs
  let ax := x.natAbs
  if ay = 0 && ax = 0 then ⟨0, 1⟩
  else
    let base : Q := if ay ≤ ax then qAtan01 ay ax else (Q.sub ⟨fxPi, 2 * fxOne⟩ (qAtan01 ax ay))
    let up : Q := if x < 0 then (Q.sub ⟨fxPi, fxOne⟩ base) else base
    if y < 0 then up.neg else up

/-- e^a. -/
def fxExpSeries : Nat → Nat → Nat → Nat → Nat → Nat
  | 0, _, _, _, acc => acc
  | k + 1, term, x, i, acc =>
    let term' := term * x / fxOne / i
    fxExpSeries k term' x (i + 1) (acc + term')

def qExp (a : Q) : Q :=
  let n := a.num.natAbs
  let t := n * fxOne / a.den
  let k := t / fxLn2
  let r := t % fxLn2
  let m := fxExpSeries 60 fxOne r 1 fxOne
  -- e^|a| = m × 2^k
  if a.num < 0 then ⟨fxOne, m * 2 ^ k⟩ else ⟨(m * 2 ^ k : Nat), fxOne⟩

/-- ln a for a > 0: a = m × 2^e with m in [1, 2), and ln m = 2 artanh((m − 1)/(m + 1)). -/
def fxArtanh : Nat → Nat → Nat → Nat → Nat → Nat
  | 0, _, _, _, acc => acc
  | k + 1, pow, sq, i, acc =>
    let pow' := pow * sq / fxOne
    fxArtanh k pow' sq (i + 2) (acc + pow' / i)

def qLn (a : Q) : Q :=
  let n := a.num.natAbs
  let e0 : Int := (Nat.log2 n : Int) - (Nat.log2 a.den : Int)
  let below := if e0 ≥ 0 then n < a.den * 2 ^ e0.toNat else n * 2 ^ (-e0).toNat < a.den
  let e := if below then e0 - 1 else e0
  let m := if e ≥ 0 then n * fxOne / (a.den * 2 ^ e.toNat) else n * 2 ^ (-e).toNat * fxOne / a.den
  let z := (m - fxOne) * fxOne / (m + fxOne)
  let l := 2 * fxArtanh 140 z (z * z / fxOne) 3 z
  ⟨(l : Int) + e * fxLn2, fxOne⟩

/-! ### FP32 by name -/

abbrev f32Nan : Nat := fpNan fp32
def f32Add (a b : Nat) : Nat := fpAdd fp32 a b
def f32Sub (a b : Nat) : Nat := fpSub fp32 a b
def f32Mul (a b : Nat) : Nat := fpMul fp32 a b
def f32Div (a b : Nat) : Nat := fpDiv fp32 a b
def f32Fma (a b c : Nat) : Nat := fpFma fp32 a b c
def f32Neg (a : Nat) : Nat := fpNeg fp32 a
def f32Abs (a : Nat) : Nat := fpAbs fp32 a
def f32Lt (a b : Nat) : Bool := fpLt fp32 a b
def f32Le (a b : Nat) : Bool := fpLe fp32 a b
def f32Eq (a b : Nat) : Bool := fpEq fp32 a b
def f32IsNan (a : Nat) : Bool := fpIsNan fp32 a
def f32Finite (a : Nat) : Bool := fpFinite fp32 a
def f32OfQ (a : Q) : Nat := fpRound fp32 false a
def f32OfInt (i : Int) : Nat := fpOfInt fp32 i
def f32Q (a : Nat) : Q := fpToQ fp32 a
abbrev f32One : Nat := 0x3F800000

/-- √a in FP32; NaN for a negative number. -/
def f32Sqrt (a : Nat) : Nat :=
  match fpDecode fp32 a with
  | .nan => f32Nan
  | .inf neg => if neg then f32Nan else a
  | .fin neg m _ => if m = 0 then a else if neg then f32Nan else f32OfQ (qSqrt (f32Q a))

/-- |z| = √(re² + im²), computed exactly and rounded once (R542). -/
def f32Mag (re im : Nat) : Nat :=
  if f32IsNan re || f32IsNan im then f32Nan
  else if !f32Finite re || !f32Finite im then fpInf fp32
  else f32OfQ (qSqrt (((f32Q re).mul (f32Q re)).add ((f32Q im).mul (f32Q im))))

/-- arg z = atan2(im, re), computed exactly and rounded once (R542); the angle of 0 is 0 (log entry 11). -/
def f32Arg (re im : Nat) : Nat :=
  match fpDecode fp32 re, fpDecode fp32 im with
  | .fin n1 m1 e1, .fin n2 m2 e2 =>
    let a := (FVal.fin n1 m1 e1).q
    let b := (FVal.fin n2 m2 e2).q
    f32OfQ (qAtan2 (b.num * a.den) (a.num * b.den))
  | _, _ => f32Nan

end Sys2Proof.Machine
end

