-- ==== Sys2Proof/Machine/Ingress.lean ====
section
/-!
DEFINITION. Stream ingress and normalisation (R125–R148): classification, binding, reading C37.118 and IEEE 1344 frames,
configurations, TCP ingest and commit.
-/

namespace Sys2Proof.Machine

def State.setIng (s : State) (i : Ingress) : State := { s with ing := i }
def State.bindings (s : State) : List Binding := match s.img with | some i => i.bindings | none => []
def State.binding? (s : State) (slot : Nat) : Option Binding := s.bindings.find? fun b => b.slot = slot
def State.groupCfg (s : State) (g : Nat) : GroupCfg := match s.img with | some i => i.groups.getD g {} | none => {}

/-- A stream's state, the image's configuration until another is taken (R136). -/
def State.stream (s : State) (i : Nat) : StreamSt :=
  match smFind? s.ing.streams i with
  | some st => st
  | none =>
    let c := match s.img with
      | some im => (im.streams[i]?).bind fun x => x.cfg
      | none => none
    { cfg := c, state := if c.isSome then 1 else 4 }

def State.setStream (s : State) (i : Nat) (st : StreamSt) : State :=
  s.setIng { s.ing with streams := smInsert s.ing.streams i st }

def State.ingSlot (s : State) (i : Nat) : IngSlot := smGet {} s.ing.slots i
def State.setIngSlot (s : State) (i : Nat) (x : IngSlot) : State := s.setIng { s.ing with slots := smSet {} s.ing.slots i x }

/-! ### Drops (R147, R148) -/

abbrev dropBadChk : Nat := 0x01
abbrev dropBadVersion : Nat := 0x02
abbrev dropSize : Nat := 0x03
abbrev dropFracsec : Nat := 0x04
abbrev dropNoCfg : Nat := 0x05
abbrev dropCfg : Nat := 0x06
abbrev dropTrunc : Nat := 0x07
abbrev dropFragment : Nat := 0x08
abbrev dropL3L4 : Nat := 0x09
abbrev dropFuture : Nat := 0x0A
abbrev dropAuthNone : Nat := 0x0B
abbrev dropBadMac : Nat := 0x0C
abbrev dropUnknownKey : Nat := 0x0D
abbrev dropKeyInvalid : Nat := 0x0E
abbrev dropEncrypted : Nat := 0x0F
abbrev dropAsn1 : Nat := 0x10
abbrev dropNoTime : Nat := 0x11
abbrev dropExcess : Nat := 0x12
abbrev dropRate : Nat := 0x13
abbrev dropUnknown : Nat := 0x14
abbrev dropWrongGroup : Nat := 0x15
abbrev dropReplay : Nat := 0x16

/-- The ING_FLT bit of a reason (R148); a held stream's CFG_MISMATCH sets CFG_HELD. -/
def dropFlag (reason : Nat) (held : Bool) : Nat :=
  if reason = dropFuture then 5
  else if reason = dropUnknown then 3
  else if reason = dropExcess then 6
  else if reason = dropCfg && held then 2
  else if (dropAuthNone ≤ reason && reason ≤ dropKeyInvalid) || reason = dropWrongGroup || reason = dropReplay then 1
  else 0

/-- The counter of a reason (R149). -/
def dropCounter (reason : Nat) : Fld :=
  if reason = dropUnknown then fING_UNK_CNT_FRAMES
  else if (dropAuthNone ≤ reason && reason ≤ dropKeyInvalid) || reason = dropWrongGroup || reason = dropReplay then fING_AUTHF_CNT_FRAMES
  else fING_MALF_CNT_FRAMES

/-- A slot's part in a drop: counted, its last reason, and a Chest record for the first drop of each reason (R148, R150). -/
def slotDrop (reason port : Nat) (s : State) (slot : Nat) : State :=
  let x := s.ingSlot slot
  let first := !x.seen.contains reason
  let s := s.setIngSlot slot { x with drops := (x.drops + 1) % 2 ^ 32, reason := reason,
                                      seen := if first then x.seen ++ [reason] else x.seen }
  if first then post 0x20 (le 2 slot ++ le 1 reason ++ le 1 port) s else s

/-- The counter, the flag and the last-drop registers of a drop that names these slots (R148, R149). -/
def dropRegs (reason port : Nat) (tcp : Bool) (stamp : Nat) (slots : List Nat) (held : Bool) (s : State) : State :=
  let s := ((s.ev (if dropCounter reason = fING_AUTHF_CNT_FRAMES then 0x347 else 0x346)).inc (dropCounter reason)).flag fING_FLT_FLAGS (dropFlag reason held)
  let s := ((s.wr fING_LAST_DROP_STS_REASON reason).wr fING_LAST_DROP_STS_PORT port).wrB fING_LAST_DROP_STS_TCP tcp
  let s := (s.wrB fING_LAST_DROP_STS_SLOT_VALID (!slots.isEmpty)).wr fING_LAST_DROP_STS_SLOT (slots.foldl min (slots.headD 0))
  s.wr fING_LAST_DROP_TIME_NS32 stamp

/-- Record a drop, with the part of each slot it was bound to. -/
def countDrop (reason port : Nat) (tcp : Bool) (stamp : Nat) (slots : List Nat) (held : Bool) (s : State) : State :=
  slots.foldl (slotDrop reason port) (dropRegs reason port tcp stamp slots held s)

/-- The frame at the head of a port's FIFO has been committed, or passed to another unit: its duplicate entry becomes final, its words are
freed. -/
def finishFrame (n : Nat) (s : State) : State :=
  match (s.port n).rx with
  | f :: _ => rxRelease n (dupFinal f.dup s)
  | [] => s

/-- The frame at the head of a port's FIFO has been dropped: it has not been committed, so its entry is removed (R111; DEDUCED, log entry 51). -/
def dropFrame (n : Nat) (s : State) : State :=
  match (s.port n).rx with
  | f :: _ => rxRelease n (dupDrop f.dup s)
  | [] => s

/-- Drop the frame at the head of port n's FIFO before it has a job. -/
def dropHead (reason n stamp : Nat) (s : State) : State := dropFrame n (countDrop reason n false stamp [] false s)

/-! ### Classification and binding (R125 steps 1 to 4, R134, R135) -/

/-- The slots that a UDP frame with these marks may feed. -/
def State.boundBy (s : State) (src dport : Nat) (vlan : Option Nat) (p : BindFmt → Bool) : List Binding :=
  s.bindings.filter fun b => b.udpPort = dport && b.tcp.isNone && p b.fmt &&
    (b.srcIp.isNone || b.srcIp = some src) && (b.vlan.isNone || b.vlan = vlan)

def isC37 (id : Nat) : BindFmt → Bool
  | .c37 i _ => i = id
  | _ => false

def isI1344 : BindFmt → Bool
  | .i1344 _ => true
  | _ => false

/-- A slot bound to the 1344 stream with this identifier (R134). -/
def is1344Of (ident : Nat) : BindFmt → Bool
  | .i1344 i => i = ident
  | _ => false

def isSv : BindFmt → Bool
  | .sv _ _ _ => true
  | _ => false

/-- The kind of a C37.118 frame by SYNC bits 6:4 of its second byte. -/
def c37Kind (p : Bytes) : FrameKind :=
  match beAt p 1 1 / 16 % 8 with
  | 0 => .data
  | 1 => .header
  | 2 => .cfg1
  | 3 => .cfg2
  | 5 => .cfg3
  | _ => .command

/-- The kind of an IEEE 1344 frame, by bits 15:13 of its sample count word (PRESUMED, log entry 10). -/
def i1344Kind (p : Bytes) : FrameKind :=
  match beAt p 4 2 / 8192 with
  | 0 => .data1344
  | 2 => .cfg1344
  | _ => .other1344

/-- A 90-5 session header: the connectionless transport header 01 40, then a session identifier A0 to A3 (PRESUMED, log entry 10). -/
def svSession (p : Bytes) : Bool := beAt p 0 2 = 0x0140 && 0xA0 ≤ beAt p 2 1 && beAt p 2 1 ≤ 0xA3

/-- Classification of a UDP datagram: its kind and the bindings it may feed. -/
def State.classify (s : State) (src dport : Nat) (vlan : Option Nat) (p : Bytes) : Option (FrameKind × List Binding) :=
  if dport = 102 && svSession p then some (.routedSv, s.boundBy src dport vlan isSv)
  else if beAt p 0 1 = 0xAA then some (c37Kind p, s.boundBy src dport vlan (isC37 (beAt p 4 2)))
  else
    let bs := s.boundBy src dport vlan isI1344
    if bs.isEmpty then none else some (i1344Kind p, bs)

/-- Bytes for port n's host receive ring (R121, R135): a frame without its FCS, which the spec neither asks for nor rules out (DESIGN CHOICE,
log entry 48). -/
def toHost (n : Nat) (bytes : Bytes) (stamp : Nat) (tr : Bool) (lan : Nat) (s : State) : State :=
  let s := s.inc fING_HOST_CNT_FRAMES
  s.setPort n { s.port n with host := (s.port n).host ++ [(bytes, stamp % 2 ^ 32, tr, lan)] }

/-- A frame that feeds no slot: to the host ring where the image enables it, else dropped as UNKNOWN (R135). -/
def unbound (n : Nat) (f : RxFrame) (s : State) : State :=
  if (s.portCfg n).hostRing then finishFrame n (toHost n f.bytes f.stamp f.trunc f.lan s) else dropHead dropUnknown n f.stamp s

/-- A TCP segment belongs to an ingest connection of port n: it comes from the PMU's address and port, 4712 where the image gives none (R129). -/
def State.ingestTcp (s : State) (n src sport : Nat) : Bool :=
  match s.img with
  | some i => i.tcp.any fun t => t.addr = src && t.tcpPort.getD 4712 = sport && t.port = n
  | none => false

/-- A pair-wide source address of port n, to which commands may be addressed (R322, R326). -/
def State.pairWideAddr (s : State) (n a : Nat) : Bool := match s.img with | some i => i.srcIps.any fun x => x.1 = n && x.2 = a | none => false

/-- A CMD_PORT of some stream (R326). -/
def State.cmdPort (s : State) (dport : Nat) : Bool := match s.img with | some i => i.outs.any fun o => o.format ≠ 2 && o.cmdPort = dport | none => false

/-- A C37.118 command frame: to the steward core, which discards codes that R326 does not list; any other frame of a UDP port that takes no
commands feeds nothing. -/
def commandHead (n : Nat) (f : RxFrame) (dport : Nat) (p : Bytes) (s : State) : State :=
  if !s.cmdPort dport then unbound n f s
  else if 1 ≤ beAt p 14 2 && beAt p 14 2 ≤ 6 then finishFrame n s
  else finishFrame n (cmdBad s)

/-- Steps 1 to 4 of R125 on the frame at the head of port n's FIFO. -/
def parseHead (n : Nat) (f : RxFrame) (s : State) : State :=
  let h := ethHdr f.bytes
  if h.etype = 0x88F7 || h.etype = 0x0806 then finishFrame n s
  else
    match readIp f.trunc h.etype (f.bytes.drop h.off) with
    | .notIp => unbound n f s
    | .fragment => dropHead dropFragment n f.stamp s
    | .bad => dropHead dropL3L4 n f.stamp s
    | .other proto src _ sport _ =>
      if proto ∈ [1, 2, 58] || (proto = 6 && s.ingestTcp n src (sport % 65536)) then finishFrame n s else unbound n f s
    | .udp src dst _ dport p =>
      let pc := s.portCfg n
      let own : Bool := pc.unicast.contains dst || pc.groups.contains dst
      match s.classify src dport h.vlan p with
      | none => unbound n f s
      | some (kind, bs) =>
        if kind = .command && (own || s.pairWideAddr n dst) then commandHead n f dport p s
        else if !own || bs.isEmpty then unbound n f s
        else if kind = .other1344 then dropFrame n (s.inc fING_UNK_CNT_FRAMES)
        else s.setPort n { s.port n with job := some { kind := kind, payload := p, stamp := f.stamp, port := n, lan := f.lan,
                                                        trunc := f.trunc, tcp := false, slots := bs.map fun b => b.slot } }

/-- A frame that the duplicate filter holds back at its port's parser (R111). -/
def dupHolds : DupState → Bool
  | .waiting _ _ => true
  | .again _ => true
  | .discard => true
  | _ => false

/-- The bytes of the frame on which port n's parser could start: the oldest frame held, or the one arriving once CT_BYTES of it are in
(R108). A copy that waits in the duplicate filter holds the port's parser. -/
def State.parseReady (s : State) (n : Nat) : Option Nat :=
  let p := s.port n
  match p.rx with
  | f :: _ => if p.job.isSome || dupHolds f.dup || f.started || s.portDelayed n f.stamp then none else some f.len
  | [] =>
    match p.cur with
    | some c =>
      if c.lost || c.started || macOnly c.bytes || dupHolds c.dup || c.bytes.length < s.rd (fPORT_RX_CFG_CT_BYTES n) || s.portDelayed n c.stamp
      then none else some c.bytes.length
    | none => none

/-- Port n has a frame on which its parser could not start now. -/
def portHolds (p : Port) : Bool := !p.rx.isEmpty || p.cur.isSome

/-- The arbiter's choice among the 64 receive FIFOs (R100). -/
def State.parsePick (s : State) : Option (Nat × Drr) :=
  drrPick 64 (Config.drrQuantum + 1) s.ing.arb ((List.range 64).filterMap fun n => (s.parseReady n).map fun l => (n, l)) fun n => portHolds (s.port n)

/-- The parser reads the frame at the head of port n's FIFO: CUR passes its words (R102). -/
def parseStart (n : Nat) (f : RxFrame) (rest : List RxFrame) (s : State) : State :=
  let p := s.port n
  parseHead n f (s.setPort n { p with rx := { f with started := true } :: rest, curPtr := (p.rel + rxWords f.len) % 16384 })

/-- INGRESS_PARSE (R100, R108, R125): the parser starts on port n's frame where the arbiter chooses that port. A frame on which it started
while it was arriving is read to its end with no new choice. -/
def execIngressParse (n : Fin 64) (s : State) : Out :=
  .next (
    let p := s.port n
    match p.rx with
    | f :: rest =>
      if f.started && p.job.isNone && !dupHolds f.dup then parseStart n f rest s
      else match s.parsePick with
        | some (m, d) => if m = n then parseStart n f rest (s.setIng { s.ing with arb := d }) else s
        | none => s
    | [] =>
      match p.cur, s.parsePick with
      | some c, some (m, d) =>
        if m = n then (s.setIng { s.ing with arb := d }).setPort n { p with cur := some { c with started := true }, curPtr := rxWr p } else s
      | _, _ => s)

/-! ### Jobs: one frame being worked on, from a port or a TCP connection -/

def State.job (s : State) (src : IngSrc) : Option ParseJob :=
  match src with
  | .port n => (s.port n).job
  | .tcp c _ _ => smFind? s.ing.tcpJobs c

def setJob (src : IngSrc) (j : ParseJob) (s : State) : State :=
  match src with
  | .port n => s.setPort n { s.port n with job := some j }
  | .tcp c _ _ => s.setIng { s.ing with tcpJobs := smInsert s.ing.tcpJobs c j }

/-- Change every frame being read, on its port or its connection. -/
def mapJobs (f : ParseJob → ParseJob) (s : State) : State :=
  { s with ports := s.ports.map fun p => { p with job := p.job.map f },
           ing := { s.ing with tcpJobs := s.ing.tcpJobs.map fun e => (e.1, f e.2) } }

/-- The job is over: its frame is released, committed or dropped. -/
def endJob (src : IngSrc) (s : State) : State :=
  match src with
  | .port n => finishFrame n s
  | .tcp c _ _ => s.setIng { s.ing with tcpJobs := smErase s.ing.tcpJobs c }

def loseJob (src : IngSrc) (s : State) : State :=
  match src with
  | .port n => dropFrame n s
  | .tcp c _ _ => s.setIng { s.ing with tcpJobs := smErase s.ing.tcpJobs c }

/-- A TCP connection's frame becomes a job when its last byte has come (R130): its slots are those the image binds to the
connection and IDCODE. One that feeds no slot goes to its port's host ring as the bytes it is (DESIGN CHOICE, log entry 48). -/
def openTcp (src : IngSrc) (s : State) : State :=
  match src with
  | .port _ => s
  | .tcp c stamp bytes =>
    let bs := s.bindings.filter fun b => b.tcp = some c.val && isC37 (beAt bytes 4 2) b.fmt
    let port := match s.img with
      | some i => (i.tcp.getD c { addr := 0, tcpPort := none, port := 0 }).port
      | none => 0
    if bs.isEmpty then
      if (s.portCfg port).hostRing then toHost port bytes stamp false 0 s else countDrop dropUnknown port true stamp [] false s
    else setJob src { kind := c37Kind bytes, payload := bytes, stamp := stamp, port := port, lan := 0, trunc := false, tcp := true,
                      slots := bs.map fun b => b.slot } s

/-- Drop a job's frame with a reason. -/
def dropJob (src : IngSrc) (j : ParseJob) (reason : Nat) (held : Bool) (s : State) : State :=
  loseJob src (countDrop reason j.port j.tcp j.stamp j.slots held s)

/-- BLOCK_EXCESS (R547): counted once per frame, which goes on; no slot's count moves. -/
def jobExcess (src : IngSrc) (j : ParseJob) (excess : Bool) (s : State) : State :=
  if !excess || j.excess then s
  else setJob src { j with excess := true } (dropRegs dropExcess j.port j.tcp j.stamp j.slots false s)

/-- The stream a job's slots belong to. -/
def State.jobStream (s : State) (j : ParseJob) : Nat :=
  match s.bindings.find? fun b => j.slots.contains b.slot with
  | some b => b.stream
  | none => 0

/-! ### Reading C37.118 frames (R131) -/

/-- Size of one block's data under its configuration. -/
def blockSize (b : PmuBlock) : Nat :=
  2 + b.phunit.length * (if b.format.testBit 1 then 8 else 4) + (if b.format.testBit 3 then 8 else 4) +
  b.anunit.length * (if b.format.testBit 2 then 4 else 2) + 2 * b.ndg

def dataFrameSize (c : StreamCfg) : Nat := 16 + (c.blocks.map blockSize).sum

/-- The offset of block i's STAT word. -/
def blockOffset (c : StreamCfg) (i : Nat) : Nat := 14 + ((c.blocks.take i).map blockSize).sum

def i16At (p : Bytes) (o : Nat) : Int := toSigned 16 (beAt p o 2)

/-- A value in SI units rounded once to FP32; anything not finite is the quiet NaN (R139). -/
def siQ (q : Q) : Nat :=
  let v := f32OfQ q
  if f32Finite v then v else f32Nan

/-- A float of the source, NaN and infinities stored as the quiet NaN (R139). -/
def siFloat (raw : Nat) : Nat := if f32Finite raw then raw else f32Nan

/-- The phasor at an offset, as (re, im), under its FORMAT and scaling (R139). -/
def readPhasor (c : StreamCfg) (b : PmuBlock) (p : Bytes) (o k : Nat) : Nat × Nat :=
  let polar := b.format.testBit 0
  let float := b.format.testBit 1
  let r0 := if float then beAt p o 4 else beAt p o 2
  let r1 := if float then beAt p (o + 4) 4 else beAt p (o + 2) 2
  if float && !polar && !c.cfg3 then (siFloat r0, siFloat r1)
  else if float && !(f32Finite r0 && f32Finite r1) then (f32Nan, f32Nan)
  else
    let a : Q := if float then f32Q r0 else if polar then Q.ofInt r0 else Q.ofInt (toSigned 16 r0)
    let d : Q := if float then f32Q r1 else if polar then ⟨toSigned 16 r1, 10000⟩ else Q.ofInt (toSigned 16 r1)
    if c.cfg3 then
      let (sc, ang) := b.phscale.getD k (f32One, 0)
      let scale := f32Q sc
      if polar then
        let (sn, cs) := qSinCos (d.add (f32Q ang))
        (siQ ((a.mul scale).mul cs), siQ ((a.mul scale).mul sn))
      else
        let (sn, cs) := qSinCos (f32Q ang)
        (siQ (scale.mul ((a.mul cs).sub (d.mul sn))), siQ (scale.mul ((a.mul sn).add (d.mul cs))))
    else
      let unit : Q := if float then ⟨1, 1⟩ else ⟨((b.phunit.getD k 0 % 2 ^ 24 : Nat) : Int), 100000⟩
      if polar then
        let (sn, cs) := qSinCos d
        (siQ ((a.mul unit).mul cs), siQ ((a.mul unit).mul sn))
      else (siQ (a.mul unit), siQ (d.mul unit))

def readAnalog (c : StreamCfg) (b : PmuBlock) (p : Bytes) (o k : Nat) : Nat :=
  let float := b.format.testBit 2
  if float then siFloat (beAt p o 4)
  else if c.cfg3 then
    let (sc, off) := b.anscale.getD k (f32One, 0)
    siQ (((Q.ofInt (i16At p o)).mul (f32Q sc)).add (f32Q off))
  else siQ ⟨i16At p o * toSigned 24 (b.anunit.getD k 0), 100000⟩

/-- The quality bits a C37.118 STAT word and FRACSEC give (R143). -/
def statQual (ver stat fracsec : Nat) : Nat :=
  let err := stat / 2 ^ 14
  let err := if ver = 1 then (if err ≥ 2 then 3 else err) else err
  (stat / 16 % 4) * 2 ^ 18 + (if ver = 1 then 0 else stat / 64 % 8) * 2 ^ 15 + (fracsec / 2 ^ 24 % 16) * 2 ^ 11 + err * 2 ^ 9 +
  (stat / 2 ^ 13 % 2) * 2 ^ 8 + (stat / 2 ^ 12 % 2) * 2 ^ 7 + (stat / 2 ^ 11 % 2) * 2 ^ 6 + (stat / 2 ^ 10 % 2) * 2 ^ 5 +
  (stat / 2 ^ 9 % 2) * 2 ^ 4 + stat % 16

/-- The TAI time of a UTC second (R140): TAI_UTC as in force at that second; the second a positive leap doubles takes the
candidate nearer the ingress timestamp. -/
def State.taiOfUtc (s : State) (soc nsInSec ing : Nat) : Nat :=
  let base := (soc : Int) + s.taiUtc
  let near (a b : Int) : Int :=
    let x := a * 1000000000 + nsInSec - ing
    let y := b * 1000000000 + nsInSec - ing
    if y.natAbs < x.natAbs then b else a
  let sec : Int :=
    match s.clv.leapAt with
    | some (t, true) => if base = t then near t (t + 1) else if base > t then base + 1 else base
    | some (t, false) => if base ≥ t then base - 1 else base
    | none =>
      match s.clv.lastLeap with
      | some (t, true) => if base = t + 1 then near t (t + 1) else if base ≤ t then base - 1 else base
      | some (t, false) => if base < (t : Int) - 1 then base + 1 else base
      | none => base
  (sec * 1000000000 + nsInSec).toNat

/-- Whether a later-than-arrival source time is refused (R141). -/
def State.future (s : State) (srcTime ing : Nat) : Bool :=
  s.clvState ≠ clvUnset && srcTime > ing + s.rd fING_CFG_FUTURE_MS * 1000000

/-- The common quality bits ingress adds (R143). -/
def State.ingQual (s : State) (auth : Bool) (slot : Nat) (vals : List Nat) : Nat :=
  (if auth then 0 else 2 ^ 25) + (if s.clvState = clvUnset then 2 ^ 23 else 0) +
  (if vals.any f32IsNan then 2 ^ 21 else 0) + (if (s.ingSlot slot).cfgNew then 2 ^ 20 else 0)

def flatPhasors (l : List (Nat × Nat)) : List Nat := (l.map fun x => [x.1, x.2]).flatten

/-- A configuration's frame rate; DATA_RATE −1 is 1 frame per second (R170). -/
def cfgRate (c : StreamCfg) : Option Nat := some (if c.dataRate = -1 then 1 else c.dataRate.toNat)

/-- The record of one block of a data frame for one slot. -/
def blockRecord (s : State) (j : ParseJob) (c : StreamCfg) (st : StreamSt) (slot blk srcTime : Nat) : Option SlotRecord :=
  match c.blocks[blk]? with
  | none => none
  | some b =>
    let o := blockOffset c blk
    let phSz := if b.format.testBit 1 then 8 else 4
    let anSz := if b.format.testBit 2 then 4 else 2
    let oF := o + 2 + b.phunit.length * phSz
    let fl := b.format.testBit 3
    let oA := oF + (if fl then 8 else 4)
    let oD := oA + b.anunit.length * anSz
    let stat := beAt j.payload o 2
    let ph := (List.range b.phunit.length).map fun k => readPhasor c b j.payload (o + 2 + k * phSz) k
    let an := (List.range b.anunit.length).map fun k => readAnalog c b j.payload (oA + k * anSz) k
    let dg := (List.range b.ndg).map fun k => beAt j.payload (oD + 2 * k) 2
    let fr := if fl then siFloat (beAt j.payload oF 4) else siQ ⟨b.fnom * 1000 + i16At j.payload oF, 1000⟩
    let df := if fl then siFloat (beAt j.payload (oF + 4) 4) else siQ ⟨i16At j.payload (oF + 2), 100⟩
    let qual := s.ingQual false slot (fr :: df :: an ++ flatPhasors ph) + statQual c.ver stat (beAt j.payload 10 4)
    some { slot := slot, srcfmt := (if c.ver = 1 then 2 else 1) + (if j.tcp then 128 else 0), cfgGen := st.gen, qual := qual,
           freq := fr, srcTime := srcTime, ingTime := j.stamp, rocof := df, stat := stat, path := j.port + 64 * j.lan,
           phasors := ph, analogs := an, digitals := dg, inRate := cfgRate c }

/-- A C37.118 command frame to a stream's command address (R138, R129): CMD 1 off, 2 on, 5 send CFG-2. -/
def sendCommand (addr cmd : Nat) (s : State) : State := s.emit (.ctl "c37cmd" addr [cmd])

/-- STAT bit 10 asks the steward core to request CFG-2, at most once in 1 s for each stream (R138). -/
def requestCfg (stream : Nat) (s : State) : State :=
  let st := s.stream stream
  let cmd := match s.img with
    | some i => (i.streams[stream]?).bind fun x => x.command
    | none => none
  match cmd with
  | some a =>
    if s.on fING_CFG_CFG_REQ_EN && st.lastReq.all (fun t => t + 1000000000 ≤ s.up) then
      sendCommand a 5 (s.setStream stream { st with lastReq := some s.up })
    else s
  | none => s

/-- A data frame that is whole and right says in some STAT word that its configuration has changed: in its first, or in any that the active
configuration lets be found. -/
def cfgChanged (c : Option StreamCfg) (p : Bytes) : Bool :=
  beAt p 14 2 / 1024 % 2 = 1 ||
  match c with
  | some c => dataFrameSize c = p.length && (List.range (min 64 c.blocks.length)).any fun k => beAt p (blockOffset c k) 2 / 1024 % 2 = 1
  | none => false

/-- The checks common to every C37.118 frame (R547 step 5): TRUNC, BAD_VERSION, its own length, CHK. -/
def c37Common (j : ParseJob) : Option Nat :=
  let p := j.payload
  let ver := beAt p 1 1 % 16
  if j.trunc then some dropTrunc
  else if ver ≠ 1 && ver ≠ 2 then some dropBadVersion
  else if beAt p 2 2 ≠ p.length || p.length < 16 then some dropSize
  else if crcCcitt (p.take (p.length - 2)) ≠ beAt p (p.length - 2) 2 then some dropBadChk
  else none

/-- The block index of a C37.118 binding. -/
def bindBlock (b : Binding) : Nat :=
  match b.fmt with
  | .c37 _ k => k
  | _ => 0

/-- DATA_FRAME (R131, R137, R139 to R141, R547): read under the configuration active now. -/
def readDataFrame (src : IngSrc) (j : ParseJob) (s : State) : State :=
  let stream := s.jobStream j
  let st := s.stream stream
  match c37Common j with
  | some r => dropJob src j r false s
  | none =>
    let s := if cfgChanged st.cfg j.payload then requestCfg stream s else s
    match st.cfg with
    | none => dropJob src j dropNoCfg false s
    | some c =>
      if st.state = 3 then dropJob src j dropCfg true s
      else if dataFrameSize c ≠ j.payload.length then dropJob src j dropSize false s
      else
        let frac := beAt j.payload 11 3
        if frac ≥ c.timeBase then dropJob src j dropFracsec false s
        else
          let excess : Bool := c.blocks.length > 64
          let s := jobExcess src j excess s
          let utc := roundDiv (frac * 1000000000) c.timeBase
          let srcTime := s.taiOfUtc (beAt j.payload 6 4 + utc / 1000000000) (utc % 1000000000) j.stamp
          if s.future srcTime j.stamp then dropJob src j dropFuture false s
          else
            let used := { c with blocks := c.blocks.take 64 }
            let recs := s.bindings.filterMap fun b =>
              if j.slots.contains b.slot then blockRecord s j used st b.slot (bindBlock b) srcTime else none
            setJob src { j with recs := some recs, excess := excess } s

/-- DATA_FRAME. -/
def execDataFrame (src : IngSrc) (s : State) : Out :=
  let s := openTcp src s
  .next (match s.job src with
    | some j => if j.kind = .data && j.recs.isNone then readDataFrame src j s else s
    | none => s)

/-! ### Configurations (R131, R136, R137) -/

/-- Read `n` items of `sz` bytes. -/
def words (p : Bytes) (o n sz : Nat) : List Nat := (List.range n).map fun k => beAt p (o + k * sz) sz

/-- The blocks of a CFG-2 frame (PRESUMED layout of the standard, log entry 10), with the offset after them. -/
def cfg2Blocks : Nat → Bytes → Nat → List PmuBlock × Nat
  | 0, _, o => ([], o)
  | k + 1, p, o =>
    let nph := beAt p (o + 20) 2
    let nan := beAt p (o + 22) 2
    let ndg := beAt p (o + 24) 2
    let oU := o + 26 + 16 * (nph + nan + 16 * ndg)
    let oE := oU + 4 * (nph + nan + ndg)
    let b : PmuBlock :=
      { idcode := beAt p (o + 16) 2, format := beAt p (o + 18) 2 % 16, phunit := words p oU nph 4,
        anunit := words p (oU + 4 * nph) nan 4, ndg := ndg, fnom := (if beAt p (oE + 1) 1 % 2 = 1 then 50 else 60), phscale := [], anscale := [],
        digunit := words p (oU + 4 * (nph + nan)) ndg 4 }
    let (rest, e) := cfg2Blocks k p (oE + 4)
    (b :: rest, e)

def readCfg2 (p : Bytes) : StreamCfg :=
  let (bs, o) := cfg2Blocks (min (beAt p 18 2) (p.length / 30)) p 20
  { ver := beAt p 1 1 % 16, timeBase := beAt p 14 4 % 2 ^ 24, dataRate := i16At p o, cfg3 := false, blocks := bs }

/-- The limits of R131; blocks beyond 64 are skipped. -/
def cfgInLimits (c : StreamCfg) : Bool :=
  1 ≤ c.timeBase && c.timeBase < 2 ^ 24 && (c.blocks.take 64).all fun b => b.phunit.length ≤ 64 && b.anunit.length ≤ 16 && b.ndg ≤ 16

def rateOk (c : StreamCfg) : Bool := c.dataRate = -1 || (1 ≤ c.dataRate && c.dataRate ≤ 240)

/-- Every bound slot's allocation holds its block (R136). -/
def State.cfgFits (s : State) (stream : Nat) (c : StreamCfg) : Bool :=
  (s.bindings.filter fun b => b.stream = stream).all fun b =>
    match c.blocks[bindBlock b]? with
    | some k => k.phunit.length ≤ b.nph && k.anunit.length ≤ b.nan && k.ndg ≤ b.ndg
    | none => false

def State.streamSlots (s : State) (stream : Nat) : List Nat :=
  (s.bindings.filter fun b => b.stream = stream).map fun b => b.slot

/-- The configuration policy of a stream's slot group: true HOLD. -/
def State.holdPolicy (s : State) (stream : Nat) : Bool :=
  match s.bindings.find? fun b => b.stream = stream with
  | some b => (s.groupCfg b.group).holdCfg
  | none => false

/-- Hold a stream (R136). -/
def holdStream (stream : Nat) (s : State) : State :=
  let st := s.stream stream
  let slot := (s.streamSlots stream).headD 0
  let s := (s.setStream stream { st with state := 3, waiting := none }).flag fING_FLT_FLAGS 2
  post 0x22 (le 2 slot ++ le 2 st.gen) s

/-- A connection of the image that has done nothing yet is connecting. -/
def State.tcpState (s : State) (c : Nat) : Nat := smGet 1 s.ing.tcp c
def State.setTcp (s : State) (c v : Nat) : State :=
  let up := (s.ing.tcp.filter fun e => e.2 = 3 && e.1 ≠ c).length + (if v = 3 then 1 else 0)
  (s.setIng { s.ing with tcp := smSet 1 s.ing.tcp c v }).wr fING_STS_TCP_UP up

/-- A connection is down, to be tried again in `wait` s (R129, R149). -/
def tcpClosed (c v wait : Nat) (s : State) : State :=
  let s := (s.setTcp c v).flag fING_FLT_FLAGS 4
  s.setIng { s.ing with tcpDue := smSet 0 s.ing.tcpDue c (s.up + wait * 1000000000), tcpJobs := smErase s.ing.tcpJobs c }

/-- The TCP connection's command address is its own: commands go over the connection. -/
def tcpCommand (c cmd : Nat) (s : State) : State := s.emit (.ctl "tcpcmd" c [cmd])

/-- R129: a connection whose configuration gives more than 60 frames per second is turned off and closed; the reason stands on each slot of
the connection, and it is tried again in 60 s. -/
def tcpRefuse (c : Nat) (j : ParseJob) (s : State) : State :=
  let slots := (s.bindings.filter fun b => b.tcp = some c).map fun b => b.slot
  let s := (tcpCommand c 1 s).emit (.ctl "tcpclose" c [])
  tcpClosed c 5 60 (countDrop dropRate j.port true j.stamp slots false s)

/-- A configuration gives more frames than TCP carries. -/
def tooFast (src : IngSrc) (c : StreamCfg) : Option Nat :=
  match src with
  | .tcp k _ _ => if c.dataRate > 60 then some k.val else none
  | .port _ => none

/-- R136: a received configuration is compared with the active one under the group's policy. -/
def offerCfg (src : IngSrc) (j : ParseJob) (c : StreamCfg) (s : State) : State :=
  let stream := s.jobStream j
  let st := s.stream stream
  match tooFast src c with
  | some k => loseJob src (tcpRefuse k j s)
  | none =>
  if !rateOk c then loseJob src (holdStream stream (countDrop dropRate j.port j.tcp j.stamp j.slots false s))
  else
    let s :=
      if st.cfg = some c then
        let back := if st.state = 3 then (if st.gen = 0 then 1 else 2) else st.state
        s.setStream stream { st with state := back, waiting := none }
      else if !cfgInLimits c || !s.cfgFits stream c then holdStream stream s
      else if s.holdPolicy stream && st.cfg.isSome then holdStream stream s
      else s.setStream stream { st with waiting := some c }
    let s := match src with
      | .tcp k _ _ => if st.cfg = some c && s.tcpState k = 2 then (tcpCommand k 2 s).setTcp k 3 else s
      | .port _ => s
    endJob src s

/-- CFG2_FRAME (R136). -/
def execCfg2Frame (src : IngSrc) (s : State) : Out :=
  let s := openTcp src s
  .next (match s.job src with
    | some j =>
      if j.kind = .cfg2 then
        match c37Common j with
        | some r => dropJob src j r false s
        | none => offerCfg src j (readCfg2 j.payload) s
      else s
    | none => s)

/-- CFG3_FRAME (R131, R136): fragments gather by CONT_IDX (0 whole, 0xFFFF last) up to 65,535 bytes; the last brings the
whole configuration, whose descriptive fields are kept for the host. -/
def execCfg3Frame (src : IngSrc) (contIdx : Nat) (cfg : StreamCfg) (desc : List CfgDesc) (s : State) : Out :=
  let s := openTcp src s
  .next (match s.job src with
    | some j =>
      if j.kind = .cfg3 then
        match c37Common j with
        | some r => dropJob src j r false s
        | none =>
          if beAt j.payload 1 1 % 16 ≠ 2 then dropJob src j dropBadVersion false s
          else
            let stream := s.jobStream j
            let st := s.stream stream
            let len := (if contIdx ≤ 1 then 0 else st.fragLen) + j.payload.length
            if len > 65535 then endJob src (holdStream stream (s.setStream stream { st with fragLen := 0 }))
            else if contIdx = 0 || contIdx = 0xFFFF then
              offerCfg src j { cfg with cfg3 := true } (s.setStream stream { st with fragLen := 0, desc := desc })
            else endJob src (s.setStream stream { st with fragLen := len })
      else s
    | none => s)

/-- CFG1_FRAME (R131): accepted and counted, and otherwise unused. -/
def execCfg1Frame (src : IngSrc) (s : State) : Out :=
  let s := openTcp src s
  .next (match s.job src with
    | some j =>
      if j.kind = .cfg1 then
        match c37Common j with
        | some r => dropJob src j r false s
        | none => endJob src (s.setIng { s.ing with cfg1 := s.ing.cfg1 + 1 })
      else s
    | none => s)

/-- HEADER_FRAME (R131): kept for the host. -/
def execHeaderFrame (src : IngSrc) (s : State) : Out :=
  let s := openTcp src s
  .next (match s.job src with
    | some j =>
      if j.kind = .header then
        match c37Common j with
        | some r => dropJob src j r false s
        | none => endJob src (s.setStream (s.jobStream j) { s.stream (s.jobStream j) with header := j.payload })
      else s
    | none => s)

/-! ### IEEE 1344 (R132) -/

/-- The record of a 1344 frame for one slot: integer rectangular phasors, no message time quality. -/
def record1344 (s : State) (j : ParseJob) (c : StreamCfg) (st : StreamSt) (d : I1344Data) (slot srcTime : Nat) : SlotRecord :=
  let b := c.blocks.headD { idcode := 0, format := 0, phunit := [], anunit := [], ndg := 0, fnom := 60, phscale := [], anscale := [] }
  let unit (k : Nat) : Q := ⟨((b.phunit.getD k 0 % 2 ^ 24 : Nat) : Int), 100000⟩
  let ph := d.phasors.zipIdx.map fun x => (siQ ((Q.ofInt x.1.1).mul (unit x.2)), siQ ((Q.ofInt x.1.2).mul (unit x.2)))
  let fr := siQ ⟨b.fnom * 1000 + d.freq, 1000⟩
  let df := siQ ⟨d.dfreq, 100⟩
  { slot := slot, srcfmt := 3, cfgGen := st.gen,
    qual := s.ingQual false slot (fr :: df :: flatPhasors ph) + 2 ^ 22 + (if d.unsync then 2 ^ 8 else 0),
    freq := fr, srcTime := srcTime, ingTime := j.stamp, rocof := df, stat := 0, path := j.port + 64 * j.lan,
    phasors := ph, analogs := [], digitals := d.digitals, inRate := cfgRate c }

/-- The checks common to every 1344 frame (R547 step 5). -/
def common1344 (j : ParseJob) (sizeOk chkOk : Bool) : Option Nat :=
  if j.trunc then some dropTrunc else if !sizeOk then some dropSize else if !chkOk then some dropBadChk else none

/-- A 1344 job's slots are those bound to the identifier that its frame carries (R134). -/
def State.job1344 (s : State) (n : Nat) (ident : Nat) : Option ParseJob :=
  (s.port n).job.map fun j => { j with slots := (s.bindings.filter fun b => j.slots.contains b.slot && is1344Of ident b.fmt).map fun b => b.slot }

/-- The head frame of port n feeds no slot after all. -/
def unboundHead (n : Nat) (s : State) : State :=
  match (s.port n).rx with
  | f :: _ => unbound n f s
  | [] => s

/-- Seconds and nanoseconds of a 1344 sample count at a frame rate, rounded half to even as R140 does. -/
def time1344 (rate smpCnt : Nat) : Nat := roundDiv (smpCnt * 1000000000) rate

/-- IEEE1344_DATA_FRAME (R132, R547). -/
def execIeee1344DataFrame (n : Fin 64) (d : I1344Data) (s : State) : Out :=
  .next (match s.job1344 n d.ident with
    | some j =>
      if j.kind = .data1344 && j.recs.isNone then
        let src := IngSrc.port n
        let stream := s.jobStream j
        let st := s.stream stream
        if j.slots.isEmpty then unboundHead n s
        else match common1344 j d.sizeOk d.chkOk with
        | some r => dropJob src j r false s
        | none =>
        if st.state = 3 then dropJob src j dropCfg true s
        else
          match st.cfg with
          | none => dropJob src j dropNoCfg false s
          | some c =>
            if (c.blocks.headD { idcode := 0, format := 0, phunit := [], anunit := [], ndg := 0, fnom := 60, phscale := [], anscale := [] }).phunit.length ≠ d.phasors.length then
              dropJob src j dropSize false s
            else
              let t := time1344 (max 1 c.dataRate.toNat) d.smpCnt
              let srcTime := s.taiOfUtc (d.utcSec + t / 1000000000) (t % 1000000000) j.stamp
              if s.future srcTime j.stamp then dropJob src j dropFuture false s
              else setJob src { j with recs := some (j.slots.map fun sl => record1344 s j c st d sl srcTime) } s
      else s
    | none => s)

/-- IEEE1344_CFG_FRAME (R132, R136). -/
def execIeee1344CfgFrame (n : Fin 64) (ident : Nat) (sizeOk chkOk : Bool) (cfg : StreamCfg) (s : State) : Out :=
  .next (match s.job1344 n ident with
    | some j =>
      if j.kind = .cfg1344 then
        if j.slots.isEmpty then unboundHead n s
        else match common1344 j sizeOk chkOk with
          | some r => dropJob (.port n) j r false s
          | none => offerCfg (.port n) j { cfg with cfg3 := false } s
      else s
    | none => s)

/-! ### Commit (R108, R125 step 8, R137) -/

/-- Hand one record to Pigeonhole and count it. -/
def commitRecord (s : State) (r : SlotRecord) : State :=
  let x := s.ingSlot r.slot
  let s := ((s.ev 0x345).inc fING_RX_CNT_RECORDS).setIngSlot r.slot
    { x with count := (x.count + 1) % 2 ^ 32, cfgNew := false, rate := r.inRate }
  let s := if r.qual.testBit 23 then s.flag fING_FLT_FLAGS 7 else s
  s.setIng { s.ing with arrivals := s.ing.arrivals ++ [r] }

/-- INGRESS_COMMIT: the frame has ended well; its records go on and its duplicate entry becomes final. -/
def execIngressCommit (src : IngSrc) (s : State) : Out :=
  .next (match s.job src with
    | some j =>
      match j.recs with
      | some rs => traceCommit rs (endJob src (rs.foldl commitRecord s))
      | none => s
    | none => s)

/-! ### TCP ingest and address protocols (R128, R129) -/

/-- A port's own address of the same kind as `addr` (R274; which of several, log entry 25). -/
def State.ownAddr (s : State) (n addr : Nat) : Nat := ((s.portCfg n).unicast.find? fun a => isV4 a = isV4 addr).getD 0

/-- The image gives this connection. -/
def State.hasTcp (s : State) (c : Nat) : Bool := match s.img with | some i => c < i.tcp.length | none => false

/-- TCP_CONNECT (R129): connected as client; CFG-2 is asked for. -/
def execTcpConnect (conn : Fin 256) (s : State) : Out :=
  .next (if s.hasTcp conn && s.tcpState conn = 1 then
      (tcpCommand conn 5 (s.emit (.ctl "tcpconnect" conn []))).setTcp conn 2
    else s)

/-- TCP_RETRY (R129): 5 s after the connection failed or closed, or 60 s after it was refused, it is attempted again. -/
def execTcpRetry (conn : Fin 256) (s : State) : Out :=
  .next (if (s.tcpState conn = 4 || s.tcpState conn = 5) && s.up ≥ smGet 0 s.ing.tcpDue conn then
      (s.emit (.ctl "tcpconnect" conn [])).setTcp conn 1 else s)

/-- TCP_DOWN (R129, R149): an attempt fails, or the connection closes. -/
def execTcpDown (conn : Fin 256) (s : State) : Out :=
  .next (if s.hasTcp conn && s.tcpState conn < 4 then post 0x23 (le 2 conn) (tcpClosed conn 4 5 s) else s)

/-- Report every group of a port. -/
def reportPort (s : State) (x : PortCfg × Nat) : State :=
  x.1.groups.foldl (fun s g => stewFrame x.2 (reportFrame (portMac x.2) (s.ownAddr x.2 g) g) s) s

/-- MEMBERSHIP_REPORT (R128): IGMPv3 for an IPv4 group, MLDv2 for an IPv6 one, on each port that lists it, at start and every 60 s; in answer to
a query, on the port it came to. -/
def execMembershipReport (query : Option (Fin 64)) (s : State) : Out :=
  .next (match s.img with
    | none => s
    | some i =>
      match query with
      | some n => reportPort s (s.portCfg n, n)
      | none =>
        if s.up < s.ing.reportDue then s
        else i.ports.zipIdx.foldl reportPort (s.setIng { s.ing with reportDue := s.up + 60000000000 }))

end Sys2Proof.Machine
end

