-- ==== Sys2Proof/Machine/Pigeonhole.lean ====
section
/-!
DEFINITION. Pigeonhole's shared operations (R151–R190): columns and cells, windows, arrival learning, the resampler's
coefficients and outputs, the watermark, and the decision on one record.
-/

namespace Sys2Proof.Machine

def State.setPgh (s : State) (p : Pgh) : State := { s with pgh := p }

/-- The image that governs tick `n`: the pending one from its k on, the one before the last swap before that swap's k (R17). -/
def State.imgAt (s : State) (n : Nat) : Option Image :=
  match s.swap with
  | some (i, _, k) => if s.tickInst n ≥ s.tickInst k then some i else s.img
  | none => if s.oldImg.isSome && s.tickInst n < s.tickInst s.swapTick then s.oldImg else s.img

def groupOf (i : Option Image) (g : Nat) : GroupCfg := match i with | some i => i.groups.getD g {} | none => {}

def bindingOf (i : Option Image) (slot : Nat) : Option Binding :=
  match i with
  | some i => i.bindings.find? fun b => b.slot = slot
  | none => none

/-- A slot is bound to the group (R151). -/
def groupBound (i : Option Image) (g : Nat) : Bool := match i with | some i => i.bindings.any fun b => b.group = g | none => false

/-- The used groups of an image: a group with no bound slot takes no part in any close (R151). -/
def usedGroups (i : Option Image) : List Nat := (List.range 16).filter fun g => (groupOf i g).policy ≠ 0 && groupBound i g

/-- A slot's record length: the 48-byte header and its elements, rounded up to 16 bytes (R142). -/
def recordLen (b : Binding) : Nat := (48 + 8 * b.nph + 4 * b.nan + 2 * b.ndg + 15) / 16 * 16

def bindKey (i : Image) (b : Binding) : BindKey :=
  { slot := b.slot, fmt := b.fmt, udpPort := b.udpPort, tcp := b.tcp.bind fun c => i.tcp[c]?, srcIp := b.srcIp, vlan := b.vlan, len := recordLen b }

/-- Both images bind the slot, alike (R185). -/
def bindingKept (i j : Option Image) (slot : Nat) : Bool :=
  match i, bindingOf i slot, j, bindingOf j slot with
  | some i, some a, some j, some b => bindKey i a = bindKey j b
  | _, _, _, _ => false

def learned (c : GroupCfg) : Bool := c.policy = 2 || c.policy = 3

def State.horizon (s : State) : Nat := max 1 (s.rd fPGH_CFG_HORIZON)

/-! ### Columns and cells (R165 to R169) -/

def State.col? (s : State) (n : Nat) : Option Column := s.pgh.cols.find? fun c => c.tick = n

def State.setCol (s : State) (c : Column) : State :=
  s.setPgh { s.pgh with cols := s.pgh.cols.map fun x => if x.tick = c.tick then c else x }

def cellOf (c : Column) (slot : Nat) : Cell := smGet {} c.cells slot
def putCell (c : Column) (slot : Nat) (x : Cell) : Column := { c with cells := smSet {} c.cells slot x }

def State.cell (s : State) (n slot : Nat) : Cell :=
  match s.col? n with
  | some c => cellOf c slot
  | none => {}

def State.setCell (s : State) (n slot : Nat) (x : Cell) : State :=
  match s.col? n with
  | some c => State.eccWrite 2 0 (s.setCol (putCell c slot x))
  | none => s

/-- X_g(n) once t(n) has fixed the window (R152). -/
def closeAt (c : Column) (g : Nat) : Nat :=
  match c.win with
  | some w => c.inst + w.getD g 0
  | none => c.inst

/-- C(n): the latest close of the used groups; t(n) where none is used (R11, R152). -/
def closeC (c : Column) (gs : List Nat) : Nat := gs.foldl (fun m g => max m (closeAt c g)) c.inst

/-- Open the next column (R166), unless 64 are open. -/
def openColumn (s : State) : State :=
  if s.pgh.cols.length ≥ 64 then s
  else
    let n := s.pgh.nextOpen
    let next := s.succTick n
    let next := match s.clv.skip with
      | some (f, k) => if f ≤ next && next < f + k then f + k else next
      | none => next
    (s.setPgh { s.pgh with cols := s.pgh.cols ++ [{ tick := n, inst := s.tickInst n }], nextOpen := next }).wr
      fPGH_STS_COLS (s.pgh.cols.length + 1)

/-- The 64 columns that open when ticking begins at `n` (R166, R183). -/
def openAll (n : Nat) (s : State) : State :=
  (List.range 64).foldl (fun s _ => openColumn s) (s.setPgh { s.pgh with cols := [], nextOpen := n })

/-- A swap of the base rate at a TAI second has been fixed or undone: the columns that are open from that second on stand for the ticks of the
rate now in force there, with nothing in them (R165; DESIGN CHOICE, log entry 49). `past`: the next column to open lies there too. -/
def reopenFrom (sec : Nat) (past : Bool) (s : State) : State :=
  let t := sec * 1000000000
  let kept := s.pgh.cols.filter fun c => c.inst < t
  let n := s.pgh.cols.length - kept.length
  (List.range n).foldl (fun s _ => openColumn s)
    (s.setPgh { s.pgh with cols := kept, nextOpen := if past then sec * s.rateAt t else s.pgh.nextOpen })

/-- Ticks a reseat skips have no column (R184). -/
def dropSkipped (first count : Nat) (s : State) : State :=
  let cols := s.pgh.cols.filter fun c => !(first ≤ c.tick && c.tick < first + count)
  let next := if first ≤ s.pgh.nextOpen && s.pgh.nextOpen < first + count then first + count else s.pgh.nextOpen
  (s.setPgh { s.pgh with cols := cols, nextOpen := next }).wr fPGH_STS_COLS cols.length

/-! ### Windows and learning (R158 to R163) -/

/-- A slot's statistics before it learns (R162). -/
def initStat (c : GroupCfg) : SlotStat :=
  let x := ((c.wInit : Int) - c.marginUs * 1000) * 65536
  { mu := x, q := x, m := x, d := (c.wInit * 65536 / 8 : Nat) }

def State.slotStat (s : State) (slot : Nat) : SlotStat :=
  (smFind? s.pgh.stats slot).getD (initStat (s.groupCfg ((s.binding? slot).map (fun b => b.group) |>.getD 0)))

def State.setSlotStat (s : State) (slot : Nat) (x : SlotStat) : State :=
  s.setPgh { s.pgh with stats := smInsert s.pgh.stats slot x }

/-- w_s in units of 2^-16 ns (R161). -/
def slotWindow (policy marginUs : Nat) (x : SlotStat) : Int :=
  (if policy = 3 then x.m else x.q) + (marginUs * 1000 * 65536 : Nat)

/-- The quantile p that QUANT selects (R162). -/
def quantP (q : Nat) : Q := [⟨9, 10⟩, ⟨19, 20⟩, ⟨99, 100⟩, ⟨999, 1000⟩].getD q ⟨99, 100⟩

/-- The update of R160 on an arrival `a` (whole ns, already clamped): each statistic rounded once to 2^-16 ns. -/
def learnStep (c : GroupCfg) (quant : Nat) (a : Int) (x : SlotStat) : SlotStat :=
  let av : Int := a * 65536
  let mu := (Q.round ⟨x.mu * (2 ^ c.alpha : Nat) + (av - x.mu), 2 ^ c.alpha⟩)
  let d := (Q.round ⟨x.d * (2 ^ c.alpha : Nat) + (((av - mu).natAbs : Int) - x.d), 2 ^ c.alpha⟩)
  let delta : Q := ⟨max d ((c.dFloor * 65536 : Nat) : Int), 2 ^ c.kappa⟩
  let p := quantP quant
  let q := if av > x.q then ((Q.ofInt x.q).add (delta.mul p)).round
    else ((Q.ofInt x.q).sub (delta.mul ((Q.ofInt 1).sub p))).round
  let dec : Q := (Q.ofInt mu).add ((Q.ofInt (x.m - mu)).mul ⟨(2 ^ c.alphaM : Nat) - 1, 2 ^ c.alphaM⟩)
  let m := if (Q.ofInt av).lt dec then dec.round else av
  { x with mu := mu, d := d, q := q, m := m }

/-- QUANT and MARGIN_US of a group as in force since the latest tick instant; as written, before the first (R163). -/
def State.inForce (s : State) (g : Nat) : Nat × Nat :=
  s.pgh.inForce.getD g (s.rd (fPGH_GRP_CFG_QUANT g), s.rd (fPGH_GRP_CFG_MARGIN_US g))

/-- The ticks from a reseat's tick m to the r-th after it, in the order in which they run, are not learned from (R159, R68). -/
def State.learnBarred (s : State) (n : Nat) : Bool :=
  match s.clv.lastReseat with
  | some m =>
    let last := (List.range (s.rateAt (s.tickInst m))).foldl (fun x _ => s.succTick x) m
    s.tickInst m ≤ s.tickInst n && s.tickInst n ≤ s.tickInst last
  | none => false

/-- Learn a record's arrival (R159). -/
def learnArrival (r : SlotRecord) (n : Nat) (s : State) : State :=
  match s.binding? r.slot with
  | none => s
  | some b =>
    let c := s.groupCfg b.group
    let a : Int := max (-((s.rd fING_CFG_FUTURE_MS * 1000000 : Nat) : Int)) (min ((r.ingTime : Int) - s.tickInst n) c.wMax)
    if !learned c || s.learnBarred n || r.qual.testBit 23 then s
    else s.setSlotStat r.slot (learnStep c (s.inForce b.group).1 a (s.slotStat r.slot))

/-- The fixed window of TIGHT and FIXED. -/
def State.fixedWindow (s : State) (c : GroupCfg) (n : Nat) : Nat :=
  if c.policy = 1 then c.wFixed
  else
    let last := (List.range c.f).foldl (fun m _ => s.succTick m) n
    s.tickInst last - s.tickInst n

/-- The slots an image binds to a group. -/
def groupSlots (i : Option Image) (g : Nat) : List Nat :=
  match i with
  | some i => (i.bindings.filter fun b => b.group = g).map fun b => b.slot
  | none => []

/-- W_g(n) (R158, R161). `prev` is W_g of the tick before; under an image about to swap in, a slot whose binding or group changes
has learned nothing yet (R185). -/
def State.windowAt (s : State) (g n prev : Nat) : Nat :=
  let i := s.imgAt n
  let c := groupOf i g
  if c.policy = 0 then 0
  else if !learned c then s.fixedWindow c n
  else
    let margin := (s.inForce g).2
    let kept (sl : Nat) : Bool := bindingKept s.img i sl && (s.binding? sl).any (fun b => b.group = g) && c = s.groupCfg g
    let ws := ((groupSlots i g).filter fun sl => kept sl && (s.slotStat sl).active).map fun sl => slotWindow c.policy margin (s.slotStat sl)
    let target := match ws with
      | [] => prev
      | w :: rest => (Q.round ⟨max (c.wMin * 65536 : Nat) (min (rest.foldl max w) ((c.wMax * 65536 : Nat) : Int)), 65536⟩).toNat
    if s.on (fPGH_GRP_CFG_FREEZE g) then prev
    else if target ≥ prev then target
    else if n % s.rateAt (s.tickInst n) = 0 then max target (prev - c.fallStep)
    else prev

/-- Judge every slot's activity at t(n) (R161). -/
def judgeActive (n : Nat) (s : State) : State :=
  let t := s.tickInst n
  let f (e : Nat × SlotStat) : Nat × SlotStat :=
    let secs := match s.binding? e.1 with
      | some b => (s.groupCfg b.group).activeS
      | none => 0
    (e.1, { e.2 with active := match e.2.lastIng with
      | some i => i + secs * 1000000000 > t
      | none => false })
  s.setPgh { s.pgh with stats := s.pgh.stats.map f }

/-- CLOSE_SHIFT of the perturbation unit (R514): the window of a shifted group, clamped. -/
def State.shifted (s : State) (g w inst : Nat) : Nat :=
  if s.action 5 && s.bit fTST_CLOSE_CFG_GROUPS g && inst > s.tst.closeFrom then
    let x : Int := w + s.rdS fTST_CLOSE_CFG_SHIFT_US * 1000
    let r := s.rateAt inst
    (max 50000 (min x (min ((((64 - s.horizon) * 1000000000 / r : Nat) : Int) - 5000000) ((60 * 1000000000 / r : Nat) : Int)))).toNat
  else w

/-- QUANT and MARGIN_US of a group from t(n) on: as written, or as an image gives them that takes over at n (R163, R472). -/
def State.paramsAt (s : State) (n g : Nat) : Nat × Nat :=
  match s.swap with
  | some (i, _, k) =>
    if s.tickInst n ≥ s.tickInst k then ((groupOf (some i) g).quant, (groupOf (some i) g).marginUs)
    else (s.rd (fPGH_GRP_CFG_QUANT g), s.rd (fPGH_GRP_CFG_MARGIN_US g))
  | none => (s.rd (fPGH_GRP_CFG_QUANT g), s.rd (fPGH_GRP_CFG_MARGIN_US g))

/-- Fix every group's window at t(n) (R161) and report it. -/
def fixWindows (n : Nat) (s : State) : State :=
  let s := judgeActive n s
  let s := s.setPgh { s.pgh with inForce := (List.range 16).map (s.paramsAt n) }
  let prev (g : Nat) : Nat := match s.pgh.win with
    | [] => (groupOf (s.imgAt n) g).wInit
    | w => if groupOf (s.imgAt n) g = s.groupCfg g then w.getD g 0 else (groupOf (s.imgAt n) g).wInit
  let ws := (List.range 16).map fun g => s.windowAt g n (prev g)
  let s := s.setPgh { s.pgh with win := ws }
  let s := ws.zipIdx.foldl (fun s x => s.wr (fPGH_GRP_W_STS_W_US x.2) (x.1 / 1000)) s
  match s.col? n with
  | some c => s.setCol { c with win := some (ws.zipIdx.map fun x => s.shifted x.2 x.1 c.inst) }
  | none => s

/-! ### The watermark (R153) -/

/-- The stamps a port path holds: of a frame still arriving, unless its rest is being discarded, and of those in the FIFO. -/
def portMarks (p : Port) : List Nat :=
  (match p.cur with | some c => if c.lost then [] else [c.stamp] | none => []) ++ p.rx.map fun f => f.stamp

/-- The global watermark. Records that came over TCP (bit 7 of SRCFMT) do not hold it. -/
def State.watermark (s : State) : Nat :=
  let held := (s.ports.map portMarks).flatten ++
    ((s.ing.arrivals.filter fun r => !r.srcfmt.testBit 7).map fun r => r.ingTime)
  held.foldl min s.clv.now

/-! ### The resampler (R170 to R176) -/

/-- The rate of a slot's active configuration (R170); the base rate where it has none. -/
def State.cfgRateOf (s : State) (b : Binding) : Nat := ((s.stream b.stream).cfg.bind cfgRate).getD s.rate

/-- The rate of a slot's records now: that of its last record, or of its configuration before the first. A change takes effect with the first
record of the new generation (R170). -/
def State.slotRate (s : State) (b : Binding) : Nat := (s.ingSlot b.slot).rate.getD (s.cfgRateOf b)

/-- R170: the rate differs from the base rate, or the image gives an offset. -/
def resampledAt (b : Binding) (rate base : Nat) : Bool := b.fmt ≠ .localRef && (rate ≠ base || b.offsetNs ≠ 0)

def State.resampled (s : State) (b : Binding) : Bool := resampledAt b (s.slotRate b) s.rate

/-- The rate under which a record was read. -/
def State.recRate (s : State) (b : Binding) (r : SlotRecord) : Nat := r.inRate.getD (s.cfgRateOf b)

/-- x_J (R171). -/
def inputInst (rIn : Nat) (ofs : Int) (j : Nat) : Int := tickInstant rIn j + ofs

/-- The input index whose instant is at or just before `t`. -/
def inputAt (rIn : Nat) (ofs : Int) (t : Nat) : Nat := tickAt rIn ((t : Int) - ofs).toNat

/-- Taps before and after, L and β in quarters (R172, R173). -/
def rsmpTaps (m : RsmpMode) : Nat × Nat := match m with | .exact => (15, 16) | .brisk => (3, 4)

/-- I0(√(4y)) = Σ y^k / (k!)² in units of 2^-200: terms from k on. -/
def i0Series : Nat → Nat → Nat → Nat → Nat
  | 0, _, _, acc => acc
  | n + 1, k, term, y =>
    let t := term * y / (fxOne * k * k)
    term + i0Series n (k + 1) t y

def i0fx (y : Nat) : Nat := i0Series 80 1 fxOne y

/-- The coefficient of tap i at phase k/256 (R173), exact to 2^-190, rounded once to FP32: the sine of the sinc is common
to every tap of a phase and leaves with the normalisation. -/
def rsmpPhase (m : RsmpMode) (k : Nat) : List Q :=
  let (before, after) := rsmpTaps m
  let idx := (List.range (before + after + 1)).map fun t => (t : Int) - before
  if k = 0 then idx.map fun i => if i = 0 then ⟨1, 1⟩ else ⟨0, 1⟩
  else if k ≥ 256 then idx.map fun i => if i = 1 then ⟨1, 1⟩ else ⟨0, 1⟩
  else
    let raw := idx.map fun i =>
      let u : Int := i * 256 - k                       -- (i − μ) × 256
      let l := 256 * after
      let y := (if after = 16 then 49 else 16) * fxOne * (l * l - u.natAbs * u.natAbs) / (4 * (l * l))
      let w : Int := (i0fx y : Nat)
      ((if (i % 2 = 0) then -w else w) * 256) / u
    let sum := raw.sum
    raw.map fun c => (⟨if sum < 0 then -c else c, sum.natAbs⟩ : Q)

/-- The FP32 coefficients at μ = num/den: linear between the two nearest stored phases, rounded once. -/
def rsmpCoef (m : RsmpMode) (num den : Nat) : List Nat :=
  let mu := num * 2 ^ 32 / den
  let k := mu / 2 ^ 24
  let fr : Q := ⟨(mu % 2 ^ 24 : Nat), 2 ^ 24⟩
  let lo := (rsmpPhase m k).map f32OfQ
  let hi := (rsmpPhase m (k + 1)).map f32OfQ
  List.zipWith (fun a b => f32OfQ ((f32Q a).add (fr.mul ((f32Q b).sub (f32Q a))))) lo hi

/-- Σ h v, oldest first, with fused multiply-add (R172). -/
def dotFma (hs vs : List Nat) : Nat := (List.zip hs vs).foldl (fun acc x => f32Fma x.1 x.2 acc) 0

def State.hist (s : State) (slot : Nat) : RsmpHist := smGet {} s.pgh.hist slot
def State.setHist (s : State) (slot : Nat) (h : RsmpHist) : State :=
  s.setPgh { s.pgh with hist := smSet {} s.pgh.hist slot h }

/-- Insert in source-time order, keeping the newest 40. -/
def histInsert (r : SlotRecord) : List SlotRecord → List SlotRecord
  | [] => [r]
  | x :: xs => if r.srcTime < x.srcTime then r :: x :: xs else x :: histInsert r xs

/-- A resampled record from its taps (R174); `tap` is tap j. -/
def rsmpRecord (slot inst : Nat) (hs : List Nat) (taps : List SlotRecord) (tap : SlotRecord) (fresh : Bool) : SlotRecord :=
  let dot (f : SlotRecord → Nat) := dotFma hs (taps.map f)
  let late := taps.foldl (fun a r => if r.ingTime > a.ingTime then r else a) tap
  let ors := [25, 24, 23, 22, 21].foldl (fun q b => if taps.any fun r => r.qual.testBit b then q + 2 ^ b else q) 0
  { slot := slot, srcfmt := tap.srcfmt, cfgGen := tap.cfgGen,
    qual := tap.qual % 2 ^ 20 + ors + 2 ^ 28 + (if fresh then 2 ^ 20 else 0),
    freq := dot fun r => r.freq, srcTime := inst, ingTime := late.ingTime, rocof := dot fun r => r.rocof,
    stat := tap.stat, path := late.path,
    phasors := (List.range tap.phasors.length).map fun k => (dot fun r => (r.phasors.getD k (f32Nan, f32Nan)).1,
                                                             dot fun r => (r.phasors.getD k (f32Nan, f32Nan)).2),
    analogs := (List.range tap.analogs.length).map fun k => dot fun r => r.analogs.getD k f32Nan,
    digitals := tap.digitals }

/-- The ticks with x_j ≤ t(n) < x_{j+1}: at most `fuel` of them from `n`. -/
def State.ticksIn : Nat → State → Nat → Int → List Nat
  | 0, _, _, _ => []
  | k + 1, s, n, hi => if (s.tickInst n : Int) < hi then n :: State.ticksIn k s (s.succTick n) hi else []

/-- Evaluate the outputs whose last tap is the input just taken, which must be the newest and all of whose taps are held under
one generation (R172, R175). The outputs go to the decision point next. -/
def rsmpOutputs (b : Binding) (r : SlotRecord) (s : State) : State :=
  let h := s.hist b.slot
  let rIn := s.recRate b r
  let (before, after) := rsmpTaps b.rsmp
  let jr := inputAt rIn b.offsetNs (r.srcTime + 500000000 / rIn)
  if jr < after || (h.recs.getLast?).map (fun x => x.srcTime) ≠ some r.srcTime then s
  else
    let j := jr - after
    let near (k : Nat) : Option SlotRecord :=
      h.recs.find? fun x => inputAt rIn b.offsetNs (x.srcTime + 500000000 / rIn) = k
    let taps := ((List.range (before + after + 1)).map fun t => near (j + t - before)).filterMap id
    if j < before || taps.length ≠ before + after + 1 then s
    else
      match near j with
      | none => s
      | some tap =>
        let lo := inputInst rIn b.offsetNs j
        let hi := inputInst rIn b.offsetNs (j + 1)
        let ns := State.ticksIn 241 s (tickFrom (s.rateAt lo.toNat) lo.toNat) hi
        let outs := ns.zipIdx.map fun x =>
          rsmpRecord b.slot (s.tickInst x.1) (rsmpCoef b.rsmp ((s.tickInst x.1 : Int) - lo).toNat (hi - lo).toNat) taps tap (h.fresh && x.2 = 0)
        let s := if outs.isEmpty then s else s.setHist b.slot { h with fresh := false }
        let s := s.ev 0x34D outs.length
        s.setIng { s.ing with arrivals := outs ++ s.ing.arrivals }

/-! ### The decision on one record (R155, R156, R178 to R185) -/

/-- ALIGN_TOL_NS plus one count of the source's time base (R179). -/
def State.tolerance (s : State) (b : Binding) : Nat :=
  let tb := match b.fmt, (s.stream b.stream).cfg with
    | .c37 _ _, some c => c.timeBase
    | _, _ => 0
  s.rd fPGH_CFG_ALIGN_TOL_NS + (if tb = 0 then 0 else (1000000000 + tb - 1) / tb)

/-- The tick nearest a source time, ties to the earlier (R178). -/
def State.nearestTick (s : State) (t : Nat) : Nat :=
  let n := tickAt (s.rateAt t) t
  let m := s.succTick n
  if s.tickInst m - t < t - s.tickInst n then m else n

/-- A record discarded off grid (R178): the first on each slot writes a Chest record. -/
def offGrid (r : SlotRecord) (n : Nat) (s : State) : State :=
  let slot := r.slot
  let s := traceStore slot r.ingTime n 2 s
  let x := s.slotStat slot
  let s := (s.inc fPGH_OFFGRID_CNT_RECORDS).flag fPGH_FLT_FLAGS 5
  if x.offGrid then s else post 0x31 (slotPayload slot n) (s.setSlotStat slot { x with offGrid := true })

/-- The elements R180 compares. -/
def sameData (a b : SlotRecord) : Bool :=
  a.freq = b.freq && a.rocof = b.rocof && a.stat = b.stat && a.phasors = b.phasors && a.analogs = b.analogs && a.digitals = b.digitals

/-- Count a duplicate, and its conflict (R180). -/
def countDup (slot n : Nat) (conflict : Bool) (s : State) : State :=
  let s := (s.ev 0x34C).inc fPGH_DUP_CNT_RECORDS
  if conflict then post 0x30 (slotPayload slot n) ((s.inc fPGH_DUPCONF_CNT_RECORDS).flag fPGH_FLT_FLAGS 6) else s

/-- A record for a cell that is PRESENT or LATE. -/
def duplicate (r : SlotRecord) (c : Column) (x : Cell) (g : Nat) (s : State) : State :=
  let conflict := match x.rec? with
    | some h => !sameData h r
    | none => false
  let mark (h : SlotRecord) : SlotRecord := if conflict && !c.done.contains g && !h.qual.testBit 26 then { h with qual := h.qual + 2 ^ 26 } else h
  let x := { x with dups := min 3 (x.dups + 1), conflict := x.conflict || conflict, rec? := x.rec?.map mark }
  countDup r.slot c.tick conflict (s.setCell c.tick r.slot x)

/-- ARRIVAL in units of 32 ns, saturating (R167). -/
def arrivalOf (r : SlotRecord) (inst : Nat) : Int := satSigned 30 (((r.ingTime : Int) - inst) / 32)

/-- A late record takes its group's path (R181). -/
def lateRecord (r : SlotRecord) (c : Column) (g path : Nat) (transit : Bool) (s : State) : State :=
  let s := if transit then
      post 0x35 (slotPayload r.slot c.tick) (((s.ev 0x34B).inc fPGH_TRANSIT_CNT_RECORDS).flag fPGH_FLT_FLAGS 1) else s
  let s := ((s.ev 0x34A).inc fPGH_LATE_CNT_RECORDS).inc (fPGH_GRP_LATE_CNT_RECORDS g)
  if path = 0 then s
  else
    match s.col? c.tick with
    | none => s
    | some c =>
      let x := cellOf c r.slot
      let r := { r with qual := r.qual % 2 ^ 29 + 2 ^ 30 + (if path = 2 then 2 ^ 29 else 0) }
      let c := putCell c r.slot { x with state := 3, rec? := some r, arrival := arrivalOf r c.inst }
      s.setCol (if path = 2 then { c with gained := c.gained ++ [r.slot] } else c)

/-- The decision point on a record for an open column (R156). A cell that an uncorrectable error has taken reads as MISSING from then on, so
a record for it is learned from, counted where it is late, and discarded (R186; DESIGN CHOICE, log entry 49). -/
def decideRecord (r : SlotRecord) (c : Column) (g : Nat) (s : State) : State :=
  let x := cellOf c r.slot
  if x.state = 1 || x.state = 3 then duplicate r c x g (traceStore r.slot r.ingTime c.tick 3 s)
  else
    let s := learnArrival r c.tick s
    let inTime := r.ingTime < closeAt c g || c.win.isNone
    if x.lost then
      let s := traceStore r.slot r.ingTime c.tick 2 s
      if inTime && !c.done.contains g then s else lateRecord r c g 0 inTime s
    else if inTime && !c.done.contains g then
      let s := ((s.ev 0x348).inc fPGH_ONTIME_CNT_RECORDS).inc (fPGH_GRP_ONTIME_CNT_RECORDS g)
      let s := traceStore r.slot r.ingTime c.tick 0 s
      s.setCell c.tick r.slot { x with state := 1, rec? := some r, arrival := arrivalOf r c.inst, ready := 1 }
    else lateRecord r c g (groupOf (s.imgAt c.tick) g).latePath inTime (traceStore r.slot r.ingTime c.tick 1 s)

/-- The decision point remembers the latest ingress timestamp it has handled for the slot (R161). -/
def touchSlot (r : SlotRecord) (s : State) : State :=
  let x := s.slotStat r.slot
  s.setSlotStat r.slot { x with lastIng := some (max r.ingTime (x.lastIng.getD 0)) }

/-- A slot's binding in the running image, or in the one before it while its instances remain. -/
def State.slotBinding? (s : State) (slot : Nat) : Option Binding :=
  match s.binding? slot with
  | some b => some b
  | none => bindingOf s.oldImg slot

/-- A record for a tick at or after a swap's k from a slot whose binding the swap did not keep (R185). -/
def swapDrop (r : SlotRecord) (n : Nat) (s : State) : State :=
  traceStore r.slot r.ingTime n 2 ((s.inc fPGH_SWAPDROP_CNT_RECORDS).flag fPGH_FLT_FLAGS 9)

/-- A swap stands between a record and its tick's column (R185): the tick is one of the image to come or the one that came, and the record's
slot is not bound alike in both. The same holds of a record read under the new image for a tick before its k (DESIGN CHOICE, log entry 49). -/
def State.swapBars (s : State) (r : SlotRecord) (n : Nat) : Bool :=
  (match s.swap with
    | some (i, _, k) => s.tickInst n ≥ s.tickInst k && !bindingKept s.img (some i) r.slot
    | none => false) ||
  (if r.old then s.tickInst n ≥ s.tickInst s.swapTick
    else s.oldImg.isSome && s.tickInst n < s.tickInst s.swapTick && !bindingKept s.oldImg s.img r.slot) ||
  (bindingOf (s.imgAt n) r.slot).isNone

/-- Tick `n` is one that a reseat skips (R82). -/
def State.skips (s : State) (n : Nat) : Bool :=
  match s.clv.skip with
  | some (f, k) => f ≤ n && n < f + k
  | none => false

/-- A record for tick `n` at the decision point (R155, R156, R166, R183 to R185). -/
def arrive (r : SlotRecord) (n g : Nat) (s : State) : State :=
  let gone := traceStore r.slot r.ingTime n 2
  if !s.ticking then gone (s.inc fPGH_EARLY_CNT_RECORDS)
  else
    let s := touchSlot r s
    if s.skips n then gone ((learnArrival r n s).inc fPGH_SKIP_CNT_RECORDS)
    else
      if s.swapBars r n then swapDrop r n (learnArrival r n s)
      else
        let g := match bindingOf (s.imgAt n) r.slot with | some b => b.group | none => g
        match s.col? n with
        | some c => decideRecord r c g s
        | none =>
          if s.tickInst n ≥ s.tickInst s.pgh.nextOpen then gone ((s.inc fPGH_EARLY_CNT_RECORDS).flag fPGH_FLT_FLAGS 3)
          else gone (((learnArrival r n s).inc fPGH_EXPIRED_CNT_RECORDS).flag fPGH_FLT_FLAGS 4)

/-- The record at the head of the arrivals, taken off. -/
def popArrival (s : State) : Option (SlotRecord × State) :=
  match s.ing.arrivals with
  | r :: rest => some (r, s.setIng { s.ing with arrivals := rest })
  | [] => none

/-- A direct or resampled record at the decision point. -/
def recordArrival (r : SlotRecord) (b : Binding) (s : State) : State :=
  if r.qual.testBit 28 || b.fmt = .localRef then arrive r (s.nearestTick r.srcTime) b.group s
  else
    let n := s.nearestTick r.srcTime
    let t := s.tickInst n
    if !s.ticking then arrive r n b.group s
    else if (t - r.srcTime) + (r.srcTime - t) > s.tolerance b then offGrid r n (learnArrival r n (touchSlot r s))
    else arrive r n b.group s

/-- An input of a resampled slot enters its history (R171, R175). One of an earlier generation than the active one does not: the flush at the
change has emptied the history of its like (DESIGN CHOICE, log entry 49). -/
def rsmpInput (r : SlotRecord) (b : Binding) (s : State) : State :=
  let rIn := s.recRate b r
  let j := inputAt rIn b.offsetNs (r.srcTime + 500000000 / rIn)
  let x := inputInst rIn b.offsetNs j
  if ((r.srcTime : Int) - x).natAbs > s.tolerance b then offGrid r (s.nearestTick r.srcTime) s
  else
    let h := s.hist b.slot
    if r.cfgGen ≠ (s.stream b.stream).gen then s
    else match h.recs.find? fun y => y.srcTime = r.srcTime with
    | some y =>
      let n := s.nearestTick r.srcTime
      countDup b.slot n (!sameData y r) (traceStore r.slot r.ingTime n 3 s)
    | none =>
      match h.recs.head? with
      | some o =>
        if r.srcTime < o.srcTime then
          traceStore r.slot r.ingTime (s.nearestTick r.srcTime) 2 ((s.inc fPGH_EXPIRED_CNT_RECORDS).flag fPGH_FLT_FLAGS 4)
        else
          let s := traceStore r.slot r.ingTime (s.nearestTick r.srcTime) 4 s
          let recs := histInsert r h.recs
          rsmpOutputs b r (s.setHist b.slot { h with recs := recs.drop (recs.length - 40) })
      | none => rsmpOutputs b r ((traceStore r.slot r.ingTime (s.nearestTick r.srcTime) 4 s).setHist b.slot { h with recs := [r] })

/-- An uncorrectable error in a cell or in its record in DRAM: it reads as MISSING from now on, and the template is served. The event that an
unclosed PRESENT cell has signalled stands (R186). -/
def recordUe (n slot : Nat) (s : State) : State :=
  match s.col? n with
  | none => s
  | some c => s.setCol (putCell c slot { cellOf c slot with state := 2, rec? := none, lost := true })

/-- The missing template of R169 for a slot's cell. -/
def missingTemplate (slot inst nph nan ndg : Nat) : SlotRecord :=
  { slot := slot, srcfmt := 0, cfgGen := 0, qual := 2 ^ 31, freq := f32Nan, srcTime := inst, ingTime := 0, rocof := f32Nan,
    stat := 0, path := 0, phasors := List.replicate nph (f32Nan, f32Nan), analogs := List.replicate nan f32Nan,
    digitals := List.replicate ndg 0 }

/-- What a consumer is served for a cell (R169): the held record when it is PRESENT, or LATE where late ones count; otherwise
the template. -/
def State.served (s : State) (c : Column) (slot : Nat) (takeLate : Bool) : SlotRecord × Bool :=
  let x := cellOf c slot
  let (p, a, d) := match bindingOf (s.imgAt c.tick) slot with
    | some b => (b.nph, b.nan, b.ndg)
    | none => (0, 0, 0)
  match x.rec? with
  | some r => if x.state = 1 || (takeLate && x.state = 3) then (r, false) else (missingTemplate slot c.inst p a d, true)
  | none => (missingTemplate slot c.inst p a d, true)

end Sys2Proof.Machine
end

