-- ==== Sys2Proof/Machine/Tambour.lean ====
section
/-!
DEFINITION. The Tambour sequencer's shared operations (R191–R217): instances, readiness, dispatch order, abandonment,
overrun, completion, and fetching operands.
-/

namespace Sys2Proof.Machine

def State.setTmb (s : State) (t : Tmb) : State := { s with tmb := t }

def State.inst? (s : State) (n : Nat) : Option Inst := s.tmb.insts.find? fun i => i.tick = n

def State.setInst (s : State) (i : Inst) : State :=
  s.setTmb { s.tmb with insts := s.tmb.insts.map fun x => if x.tick = i.tick then i else x }

/-- HOLD_S, THR, PICKUP and HYST of the coherency unit as written; a new value applies from the next tick (R286). -/
def State.cohTune (s : State) : List Nat :=
  [s.rd fCOH_CFG2_HOLD_S, s.rd fCOH_SPREAD_THR_THR, s.rd fCOH_SPREAD_CFG_PICKUP, s.rd fCOH_SPREAD_CFG_HYST]

/-- The image an instance runs under (R216). -/
def State.instImg (s : State) (i : Inst) : Option Image := if i.old then s.oldImg else s.img

def State.items (s : State) (i : Inst) : List Item := match s.instImg i with | some im => im.items | none => []

def runOf (i : Inst) (j : Nat) : ItemRun := i.runs.getD j {}
def setRun (i : Inst) (j : Nat) (r : ItemRun) : Inst := { i with runs := i.runs.set j r }

def State.setRun (s : State) (n j : Nat) (r : ItemRun) : State :=
  match s.inst? n with
  | some i => s.setInst (Machine.setRun i j r)
  | none => s

def itemDone (r : ItemRun) : Bool := r.st = .retired || r.st = .abandoned

/-- The instances that are active and not complete. -/
def State.live (s : State) : List Inst := s.tmb.insts.filter fun i => !i.complete

/-- The instance that PREV_RESULT and STATE operands of an instance refer to: the one run just before it under the same image
(R195, R216). -/
def prevInst : List Inst → Nat → Option Inst
  | a :: b :: rest, n => if b.tick = n then (if a.old = b.old then some a else none) else prevInst (b :: rest) n
  | _, _ => none

/-! ### Readiness (R193, R196) -/

/-- Column n has signalled the slot's event, or has been released. -/
def State.slotSignalled (s : State) (n slot : Nat) : Bool :=
  match s.col? n with
  | some c => (cellOf c slot).ready ≠ 0 || (bindingOf (s.imgAt n) slot).isNone
  | none => true

def State.tokenDone (s : State) (n g : Nat) : Bool :=
  match s.col? n with
  | some c => c.done.contains g
  | none => true

def State.opReady (s : State) (i : Inst) (j : Nat) : Operand → Bool
  | .cells f k _ _ _ _ _ => (List.range k).all fun x => s.slotSignalled i.tick (f + x)
  | .result p _ _ => itemDone (runOf i p)
  | .prev p _ _ => match prevInst s.tmb.insts i.tick with | some q => itemDone (runOf q p) | none => true
  | .state _ => match prevInst s.tmb.insts i.tick with | some q => itemDone (runOf q j) | none => true
  | .close g => s.tokenDone i.tick g
  | .const _ _ => true

/-- OUTSTANDING: descriptors not yet ready (R222). -/
def State.outstanding (s : State) (i : Inst) (j : Nat) : Nat :=
  match (s.items i)[j]? with
  | some it => (it.ops.filter fun o => !s.opReady i j o).length
  | none => 0

/-- TMB_STS as the instances stand. -/
def tmbSync (s : State) : State :=
  let lv := s.live
  let ready := (lv.map fun i => (i.runs.zipIdx.filter fun x => x.1.st = .ready && ((s.items i)[x.2]?.map fun it => it.cls) ≠ some 0).length).sum
  let dfr := (lv.map fun i => (i.runs.filter fun r => r.deferred && !itemDone r && r.st ≠ .running).length).sum
  (((s.wr fTMB_STS_LIVE lv.length).wr fTMB_STS_READY ready).wr fTMB_STS_DEFERRED dfr).wrB fTMB_STS_HELD (lv.any fun i => i.held)

/-- Every WAITING item of an active instance with nothing outstanding becomes READY now. -/
def refreshInst (i : Inst) (s : State) : State :=
  (List.range i.runs.length).foldl (fun s j =>
    match s.inst? i.tick with
    | some i =>
      let r := runOf i j
      if r.st = .waiting && s.outstanding i j = 0 then (s.ev 0x350).setRun i.tick j { r with st := .ready, readyAt := s.clv.now } else s
    | none => s) s

def tmbRefresh (s : State) : State := tmbSync (s.live.foldl (fun s i => refreshInst i s) s)

/-! ### Queues and lanes (R198, R199) -/

def State.queue (s : State) (p : Nat) : List (Nat × Nat) := smGet [] s.tmb.queues p
def State.setQueue (s : State) (p : Nat) (q : List (Nat × Nat)) : State := s.setTmb { s.tmb with queues := smSet [] s.tmb.queues p q }
def State.runningAt (s : State) (p : Nat) : Option (Nat × Nat) := smFind? s.tmb.running p
def State.setRunning (s : State) (p : Nat) (r : Option (Nat × Nat)) : State :=
  s.setTmb { s.tmb with running := match r with | some x => smInsert s.tmb.running p x | none => smErase s.tmb.running p }

def queueCap (p : Nat) : Nat := if p < 32 then 4 else 8

/-- The lane is held by the perturbation unit (R514). -/
def State.laneStalled (s : State) (p : Nat) : Bool :=
  match s.tst.arm with
  | some a => a.on && p < 32 && a.mask.testBit p
  | none => false

/-- LANE_STS of a lane as its queue and running item stand. -/
def laneSync (p : Nat) (s : State) : State :=
  if p ≥ 32 then s
  else
    let q := s.queue p
    let r := s.runningAt p
    let st := if s.laneStalled p then 4 else if r.isSome then 2 else if q.isEmpty then 0 else 1
    let s := ((s.wr (fLANE_STS_STATE p) st).wr (fLANE_STS_QDEPTH p) q.length).wrB (fLANE_STS_CUR_VALID p) r.isSome
    let s := s.wr (fLANE_STS_CUR_ITEM p) (match r with | some x => x.2 | none => 0)
    s.wrB (fLANE_STS_PREFETCHED p) (match q with | (n, j) :: _ => ((s.inst? n).bind fun i => (runOf i j).bank).isSome | [] => false)

/-- LANE field of an item's run: its lane, or 0x3F for an engine or none. -/
def laneOf (r : ItemRun) : Nat := match r.place with | some p => if p < 32 then p else 0x3F | none => 0x3F

/-! ### Completion, abandonment, overrun (R211 to R216) -/

/-- C(n) as fixed at t(n), or with the windows of the latest tick while t(n) is still to come. -/
def State.closeOf (s : State) (n : Nat) : Nat :=
  match s.pgh.closed.find? fun c => c.1 = n with
  | some c => c.2.1
  | none =>
    let gs := usedGroups (s.imgAt n)
    match s.col? n with
    | some c => if c.win.isSome then closeC c gs else gs.foldl (fun m g => max m (c.inst + s.pgh.win.getD g 0)) c.inst
    | none => gs.foldl (fun m g => max m (s.tickInst n + s.pgh.win.getD g 0)) (s.tickInst n)

/-- The measured class-0 span (R210, R220). -/
def g0Measure (i : Inst) (s : State) : State :=
  let c := s.closeOf i.tick
  let g0 := i.runs.zipIdx.filterMap fun x =>
    if ((s.items i)[x.2]?.map fun it => it.cls) = some 0 then x.1.retireAt.map fun t => (t, x.2) else none
  match g0 with
  | [] => s.wr fTMB_G0_STS_G0_LAST 0
  | x :: xs =>
    let last := xs.foldl (fun a b => if b.1 > a.1 then b else a) x
    let span := (last.1 - c) / 100
    let s := (s.wr fTMB_G0_STS_G0_LAST (min span 65535)).wrMax fTMB_G0_STS_G0_MAX (min span 65535)
    if span > s.rd fTMB_CFG_G0_SPAN then
      postAt i.tick 0x43 (itemPayload i.tick last.2 (laneOf (runOf i last.2)) 1) (s.flag fTMB_FLT_FLAGS 6)
    else s

/-- SLACK_NS of an instance that has just completed; with no item retired the spec states no value (log entry 21). -/
def slackMeasure (i : Inst) (s : State) : State :=
  match i.runs.filterMap fun r => r.retireAt with
  | [] => (s.wr fTMB_SLACK_STS_SLACK_NS (s.freeVal 21)).nextFree
  | t :: ts =>
    let slack : Int := (s.closeOf (s.nextRun i.tick).1 : Int) - ts.foldl max t
    let s := s.wrSat fTMB_SLACK_STS_SLACK_NS slack
    if satSigned 32 slack < s.rdS fTMB_SLACK_MIN_STS_MIN_NS then s.wrSat fTMB_SLACK_MIN_STS_MIN_NS slack else s

/-- An instance with every item retired or abandoned is complete (R191): its slack, class-0 span, busy times and ABANDON record. -/
def checkComplete (n : Nat) (s : State) : State :=
  match s.inst? n with
  | none => s
  | some i =>
    if i.complete || !i.runs.all itemDone then s
    else
      let s := s.setInst { i with complete := true, held := false }
      let s := g0Measure i (slackMeasure i s)
      let s := s.wr64 fTMB_TICK_LO_N_LO n
      let s := (List.range 32).foldl (fun s p => s.wr (fLANE_BUSY_STS_BUSY_NS p) (min (smGet 0 i.busy p) 0xFFFFFFFF)) s
      let s := s.setTmb { s.tmb with insts := s.tmb.insts.drop (s.tmb.insts.length - 4) }
      let s := if i.abandons = 0 then s
        else
          match i.runs.zipIdx.find? fun x => x.1.st = .abandoned with
          | some x => postAt n 0x41 (itemPayload n x.2 (laneOf x.1) (min i.abandons 255)) s
          | none => s
      tmbSync s

/-- The capture definition whose row item `j` makes: the SNR_PREP items stand in definition order (log entry 28). -/
def snrPrepIndex (its : List Item) (j : Nat) : Option Nat :=
  let prep (it : Item) : Bool := it.unit = 0 && it.kernel = 0x35
  match its[j]? with
  | some it => if prep it then some ((its.take j).filter prep).length else none
  | none => none

/-! ### Fetching operands (R195, R196, R209) -/

/-- The result header as eight words (R209). -/
def resHeader (n j : Nat) (r : ItemRun) : List Nat :=
  let t := r.retireAt.getD 0
  [n % 2 ^ 32, n / 2 ^ 32, j + 65536 * r.flags, r.cycles, t % 2 ^ 32, t / 2 ^ 32, 4 * (r.data.getD []).length, 0]

/-- Words padded to `n` with missing elements, or cut to it. -/
def wordsTo (n : Nat) (ws : List Nat) : List Nat := ws.take n ++ List.replicate (n - ws.length) f32Nan

/-- The words of result data that a run of an item makes, where the kernel and its parameters fix them (R219; layouts of log entry 22). -/
def resultWords (it : Item) : Option Nat :=
  let n := it.p0 % 65536
  let m := it.p0 / 65536
  let k := it.p1 % 65536
  let b := it.p1 / 65536
  if it.unit ≠ 0 then none
  else
    match it.kernel with
    | 0x01 | 0x32 | 0x3B => some ((b + 3) / 4)
    | 0x02 | 0x1A => some 4
    | 0x03 | 0x1E => some 3
    | 0x04 | 0x05 | 0x06 | 0x07 | 0x0A | 0x10 | 0x12 | 0x13 | 0x14 | 0x15 | 0x18 | 0x19 | 0x31 => some n
    | 0x08 | 0x09 | 0x0B | 0x0D | 0x0E | 0x1B | 0x1D | 0x38 => some (2 * n)
    | 0x0C => some (6 * n)
    | 0x0F | 0x16 => some (2 * m)
    | 0x11 => some 1
    | 0x17 => some m
    | 0x1C => some (2 * k)
    | 0x20 | 0x21 | 0x22 | 0x23 | 0x24 | 0x25 | 0x26 | 0x27 | 0x36 => some (4 * n)
    | 0x2B => some (n + 1)
    | 0x30 => some (if m = 3 then 2 * n else n)
    | 0x33 => some (2 * b)
    | 0x34 => some (4 * b)
    | 0x3E => some 7
    | _ => none

/-- A producer's block as fetched: 64-byte units from `ofs`, `len` of them or, with 0, to the end of its RES_LEN. An ABANDONED or FAULT
result's data read as missing (R196, R217). Elements keep their places whether or not the producer ran (log entry 22). -/
def fetchResult (i : Inst) (p ofs len : Nat) (it : Item) : Fetched :=
  let r := runOf i p
  let bad := r.flags.testBit 2 || r.flags.testBit 3
  let data := if bad then [] else r.data.getD []
  let n := 16 * (if len = 0 then it.resLen - ofs else len)
  let size := (resultWords it).getD (if bad then 16 * it.resLen - 8 else data.length)
  let got := ((resHeader i.tick p r ++ wordsTo size data).drop (16 * ofs)).take n
  let words := if ofs = 0 then got.drop 8 else got
  .block { flags := r.flags, tick := i.tick, miss := bad, gap := bad || words.contains f32Nan, raw := wordsTo n got, words := words }

/-- The operand of a producer that has no earlier instance: its block, every element missing (R195). -/
def noResult (ofs len : Nat) (it : Item) : Fetched :=
  let n := 16 * (if len = 0 then it.resLen - ofs else len)
  let got := ((wordsTo (8 + (resultWords it).getD (16 * it.resLen - 8)) []).drop (16 * ofs)).take n
  .block { flags := 8, miss := true, gap := true, raw := wordsTo n got, words := if ofs = 0 then got.drop 8 else got }

/-- A block that reads as missing (R195, R217), of the length of `b`. -/
def lostBlock (b : FetchedBlock) : Fetched :=
  .block { flags := 4, miss := true, gap := true, raw := b.raw.map fun _ => f32Nan, words := b.words.map fun _ => f32Nan }

def wordsOf : Bytes → List Nat
  | a :: b :: c :: d :: rest => leVal [a, b, c, d] :: wordsOf rest
  | [] => []
  | l => [leVal l]

def bytesOf (ws : List Nat) : Bytes := (ws.map (le 4)).flatten

/-- The item's own STATE block: the tick of the run that wrote it and its words; missing at a first run (R195). -/
def State.stateBlk (s : State) (i : Inst) (j : Nat) : Option (Nat × List Nat) :=
  if (prevInst s.tmb.insts i.tick).isNone then none
  else ((if i.old then s.tmb.oldStates else s.tmb.states).find? fun b => b.item = j).map fun b => (b.tick, b.words)

/-- An entry of the instance's table. -/
def State.entry (s : State) (i : Inst) (p : Nat) : Item := (s.items i).getD p
  { cls := 3, lane := 0x3F, unit := 0, kernel := 0x3F, noDefer := false, ops := [], resOfs := 0, resLen := 1, cost := 1, p0 := 0, p1 := 0, p2 := 0 }

/-- A slot's cell of tick `col` as fetched; with the column released, the missing template. -/
def State.fetchCell (s : State) (col slot : Nat) (late : Bool) : FetchedCell :=
  let (p, a, d) := match bindingOf (s.imgAt col) slot with | some b => (b.nph, b.nan, b.ndg) | none => (0, 0, 0)
  let (r, m) := match s.col? col with
    | some c => s.served c slot late
    | none => (missingTemplate slot (s.tickInst col) p a d, true)
  { got := r, miss := m, an := a, dg := d }

/-- Operand `o` of item `j` of an instance as memory holds it now. `col` is the tick whose column CELLS operands read, `late` whether LATE cells
count. -/
def State.fetchNow (s : State) (i : Inst) (j col : Nat) (late : Bool) : Operand → Fetched
  | .cells f n h a d pf pn => .cells h a d pf pn ((List.range n).map fun x => s.fetchCell col (f + x) late)
  | .result p ofs len => fetchResult i p ofs len (s.entry i p)
  | .prev p ofs len =>
    match prevInst s.tmb.insts i.tick with
    | some q => fetchResult q p ofs len (s.entry i p)
    | none => noResult ofs len (s.entry i p)
  | .state _ =>
    match s.stateBlk i j with
    | some (t, ws) => .block { tick := t, raw := ws, words := ws }
    | none => .block { flags := 8, miss := true, gap := true }
  | .close _ => .block {}
  | .const ofs len =>
    let ws := match s.instImg i with
      | some im => wordsOf ((im.consts.drop (64 * ofs)).take (64 * len))
      | none => []
    .block { raw := wordsTo (16 * len) ws, words := wordsTo (16 * len) ws }

/-- Every operand of an item, as its fetch brings them into the bank (R203, R204). -/
def State.fetchAll (s : State) (i : Inst) (j : Nat) (it : Item) : List Fetched := it.ops.map (s.fetchNow i j i.tick false)

/-- Operand `k` of item `j` as its run reads it: from its bank, or from column `col` where that is not its own tick's. An operand whose fetch
failed reads as missing (R217). -/
def State.fetchOp (s : State) (i : Inst) (j k col : Nat) (late : Bool) (o : Operand) : Fetched :=
  let r := runOf i j
  let f := match (if col = i.tick && !late then r.bank else none).bind fun l => l[k]? with
    | some f => f
    | none => s.fetchNow i j col late o
  match r.fetchUe.contains k, f with
  | true, .block b => lostBlock b
  | _, f => f

/-- What a kernel or engine function runs on. -/
structure KIn where
  n : Nat
  inst : Nat
  rate : Nat
  item : Item
  ops : List Fetched
  /-- Which of the operands are results of detectors, 16-byte records (R263). -/
  dets : List Bool
  /-- The STATE block: tick and words. -/
  st : Option (Nat × List Nat)
deriving DecidableEq, Repr

/-- What it leaves: result words, STATE words, and whether an operand element was missing. -/
structure KOut where
  data : List Nat
  st : Option (List Nat) := none
  miss : Bool := false
deriving DecidableEq, Repr

def opState : Operand → Bool
  | .state _ => true
  | _ => false

def opData : Operand → Bool
  | .close _ => false
  | .state _ => false
  | _ => true

/-- The operand is the result of a detector (R263). -/
def State.detectorOp (s : State) (i : Inst) (o : Operand) : Bool :=
  let det (p : Nat) : Bool := match (s.items i)[p]? with | some x => x.unit = 0 && 0x20 ≤ x.kernel && x.kernel ≤ 0x27 | none => false
  match o with
  | .result p _ _ => det p
  | .prev p _ _ => det p
  | _ => false

/-- A kernel's input for a running item: its data operands in order, and its STATE. -/
def State.kin (s : State) (i : Inst) (j : Nat) (it : Item) (col : Nat) (late : Bool) : KIn :=
  { n := i.tick, inst := s.tickInst i.tick, rate := s.rateAt (s.tickInst i.tick), item := it,
    ops := it.ops.zipIdx.filterMap fun x => if opData x.1 then some (s.fetchOp i j x.2 col late x.1) else none,
    dets := (it.ops.filter opData).map (s.detectorOp i),
    st := (it.ops.zipIdx.find? fun x => opState x.1).bind fun x =>
      match s.fetchOp i j x.2 col late x.1 with
      | .block b => if b.miss then none else some (b.tick, b.words)
      | .cells _ _ _ _ _ _ => none }

/-- An element of a fetched operand is missing. -/
def fetchedMissing : Fetched → Bool
  | .cells _ _ _ _ _ cs => cs.any fun c => c.miss
  | .block b => b.gap

/-- A slot's allocation. -/
def allocOf (i : Image) (slot : Nat) : Nat × Nat × Nat :=
  match bindingOf (some i) slot with
  | some b => (b.nph, b.nan, b.ndg)
  | none => (0, 0, 0)

/-- Bytes an operand brings (R218 rule 6). -/
def opBytes (i : Image) (resLen : Nat → Nat) (o : Operand) : Nat :=
  match o with
  | .cells f n h a d _ pn =>
    ((List.range n).map fun k =>
      let (_, an, dg) := allocOf i (f + k)
      (if h then 48 else 0) + 8 * pn + (if a then 4 * an else 0) + (if d then 2 * dg else 0)).sum
  | .result p ofs len => 64 * (if len = 0 then resLen p - ofs else len)
  | .prev p ofs len => 64 * (if len = 0 then resLen p - ofs else len)
  | .state len => 64 * len
  | .close _ => 0
  | .const _ len => 64 * len

def fetchBytes (i : Image) (it : Item) : Nat :=
  (it.ops.map fun o => opBytes i (fun p => (i.items[p]?.map fun x => x.resLen).getD 0) o).sum

/-! ### Prefetch (R203, R204) -/

/-- Fetch an item's operands into its bank. -/
def fetchItem (p n j : Nat) (s : State) : State :=
  match s.inst? n with
  | none => s
  | some i =>
    match (s.items i)[j]? with
    | none => s
    | some it =>
      let s := s.setInst (Machine.setRun i j { runOf i j with bank := some (s.fetchAll i j it) })
      let bytes := match s.instImg i with | some im => fetchBytes im it | none => 0
      if p < 32 then State.eccWrite 4 p (s.ev (0x46 + 8 * p) (bytes / 64)) else s

/-- While an item runs on a lane, the operands of the item at the head of its queue are fetched into the other bank, unless PREFETCH_DIS is in
force. -/
def prefetch (p : Nat) (s : State) : State :=
  match s.runningAt p, s.queue p with
  | some _, (n, j) :: _ =>
    let has : Bool := ((s.inst? n).bind fun i => (runOf i j).bank).isSome
    if p ≥ 32 || has || s.tmb.noPref.contains p then s else fetchItem p n j s
  | _, _ => s

/-- PREFETCH_DIS takes effect: at once on a lane that runs nothing, else when its running item retires (R223). -/
def prefSync (p : Nat) (s : State) : State :=
  if (s.runningAt p).isSome then s
  else
    let l := s.tmb.noPref.filter fun x => x ≠ p
    s.setTmb { s.tmb with noPref := if s.on (fLANE_CTL_PREFETCH_DIS p) then p :: l else l }

/-! ### Abandonment and deferral (R213, R215) -/

/-- Take an item out of every queue (R215). -/
def unqueue (n j : Nat) (s : State) : State :=
  (List.range 38).foldl (fun s p =>
    let q := s.queue p
    if q.contains (n, j) then laneSync p (prefetch p (s.setQueue p (q.filter fun e => e ≠ (n, j)))) else s) s

/-- Abandon an item that has not started (R215): it leaves its queue, and any fetch made for it is discarded; a row it would have made is
lost (R345). -/
def abandonItem (n j : Nat) (s : State) : State :=
  match s.inst? n with
  | none => s
  | some i =>
    let r := runOf i j
    if itemDone r || r.st = .running then s
    else
      let s := unqueue n j s
      let i := { Machine.setRun i j { r with st := .abandoned, place := none, bank := none, flags := r.flags ||| 8, data := some [] } with
                 abandons := i.abandons + 1 }
      let s := (((s.setInst i).ev 0x356).inc fTMB_ABANDON_CNT_ITEMS).flag fTMB_FLT_FLAGS 3
      match snrPrepIndex (s.items i) j with
      | some k => rowLost k n s
      | none => s

def abandonAll (n : Nat) (s : State) : State :=
  match s.inst? n with
  | some i => checkComplete n ((List.range i.runs.length).foldl (fun s j => abandonItem n j s) s)
  | none => s

/-- Under DEFER an item not yet running at its deadline is deferred, or abandoned with NO_DEFER (R213). -/
def deferItem (n j : Nat) (s : State) : State :=
  match s.inst? n with
  | none => s
  | some i =>
    let r := runOf i j
    if itemDone r || r.st = .running || r.deferred then s
    else if ((s.items i)[j]?.map fun it => it.noDefer) = some true then abandonItem n j s
    else (((s.setRun n j { r with deferred := true }).ev 0x355).inc fTMB_DEFER_CNT_ITEMS).flag fTMB_FLT_FLAGS 1

end Sys2Proof.Machine
end

