-- ==== Sys2Proof/Machine/Kernels.lean ====
section
/-!
DEFINITION. The lane kernels that work on numbers alone (R219, R228, R290, R542). Each is a pure function of the fetched
operands and the STATE block. Where R219 names a result without its layout or its rounding, the model's choice is log
entry 22: elements in operand order, every element computed exactly and rounded once to FP32.
-/

namespace Sys2Proof.Machine

/-! ### Parameters and operands -/

def parN (k : KIn) : Nat := k.item.p0 % 65536
def parM (k : KIn) : Nat := k.item.p0 / 65536
def parK (k : KIn) : Nat := k.item.p1 % 65536
def parB (k : KIn) : Nat := k.item.p1 / 65536
def parE (k : KIn) : Nat := k.item.p2 % 65536
def parA (k : KIn) : Nat := k.item.p2 / 65536

/-- A missing element: the quiet NaN (R139). -/
def missW (w : Nat) : Bool := w = f32Nan

/-- A slot record's 48-byte header as words (R142). -/
def recHeader (r : SlotRecord) : List Nat :=
  [r.slot + 65536 * r.phasors.length + 2 ^ 24 * r.analogs.length,
   r.digitals.length + 256 * r.srcfmt + 65536 * (r.cfgGen % 65536),
   r.qual, r.freq, r.srcTime % 2 ^ 32, r.srcTime / 2 ^ 32, r.ingTime % 2 ^ 32, r.ingTime / 2 ^ 32, r.rocof,
   r.stat + 65536 * r.path, 0, 0]

/-- Phasors `first` to `first + num - 1` of a record: those beyond its count are 0 (R142), all of a missing template's are quiet NaN (R169). -/
def recPhasors (first num : Nat) (c : FetchedCell) : List (Nat × Nat) :=
  (List.range num).map fun k => c.got.phasors.getD (first + k) (if c.miss then (f32Nan, f32Nan) else (0, 0))

/-- Elements up to the allocation: 0 beyond the count (R142). -/
def allocated (n : Nat) (l : List Nat) : List Nat := (List.range n).map fun k => l.getD k 0

/-- A fetched operand as bytes, in the order a record lays them out. -/
def fetchedBytes : Fetched → Bytes
  | .cells h a d pf pn cs => (cs.map fun c =>
      (if h then bytesOf (recHeader c.got) else []) ++ bytesOf (flatPhasors (recPhasors pf pn c)) ++
      (if a then bytesOf (allocated c.an c.got.analogs) else []) ++
      (if d then ((allocated c.dg c.got.digitals).map (le 2)).flatten else [])).flatten
  | .block b => bytesOf b.raw

/-- The FP32 elements of an operand: phasors and analog values of cells; FREQ of cells fetched for their header alone. -/
def fetchedFloats : Fetched → List Nat
  | .cells h a _ pf pn cs => (cs.map fun c =>
      (if h && !a && pn = 0 then [c.got.freq] else []) ++ flatPhasors (recPhasors pf pn c) ++
      (if a then allocated c.an c.got.analogs else [])).flatten
  | .block b => b.words

def isConst : Operand → Bool
  | .const _ _ => true
  | _ => false

/-- The operands that are not CONST, and the words of the CONST ones. -/
def dataOps (k : KIn) : List Fetched :=
  (List.zip (k.item.ops.filter opData) k.ops).filterMap fun x => if isConst x.1 then none else some x.2

def constWords (k : KIn) : List Nat :=
  ((List.zip (k.item.ops.filter opData) k.ops).filterMap fun x => if isConst x.1 then some (fetchedFloats x.2) else none).flatten

def hasConst (k : KIn) : Bool := k.item.ops.any isConst

/-- The fetch of a CONST operand has failed (R217). -/
def constLost (k : KIn) : Bool :=
  (List.zip (k.item.ops.filter opData) k.ops).any fun x => isConst x.1 && (match x.2 with | .block b => b.miss | .cells _ _ _ _ _ _ => false)

/-- Every FP32 element of the data operands, in operand order. -/
def floatsIn (k : KIn) : List Nat := ((dataOps k).map fetchedFloats).flatten

def elemAt (l : List Nat) (i : Nat) : Nat := l.getD i f32Nan

/-- Every `n`th word. -/
def everyNth (n : Nat) (l : List Nat) : List Nat := (l.zipIdx.filter fun x => x.2 % n = 0).map fun x => x.1

/-- The flag words of the operands: the FLAGS words of detector records, and the words of any other block (log entry 22). -/
def flagWords (k : KIn) : List Nat :=
  ((List.zip (List.zip (k.item.ops.filter opData) k.dets) k.ops).filterMap fun x =>
    if isConst x.1.1 then none
    else some (if x.1.2 then everyNth 4 (fetchedFloats x.2) else fetchedFloats x.2)).flatten

/-- The first `n` elements; absent ones are missing. -/
def firstN (n : Nat) (l : List Nat) : List Nat := (List.range n).map (elemAt l)

def pairUp : List Nat → List (Nat × Nat)
  | a :: b :: rest => (a, b) :: pairUp rest
  | _ => []

/-- The first `n` phasors of the operands. -/
def phasorsN (k : KIn) (n : Nat) : List (Nat × Nat) := pairUp (firstN (2 * n) (floatsIn k))

/-- The slot cells of the operands. -/
def cellsIn (k : KIn) : List FetchedCell :=
  ((dataOps k).map fun f => match f with | .cells _ _ _ _ _ cs => cs | .block _ => []).flatten

/-- The digital words of the operands, with whether each is missing. -/
def digitalsIn (k : KIn) : List (Nat × Bool) :=
  ((dataOps k).map fun f => match f with
    | .cells _ _ d _ _ cs => if d then (cs.map fun c => (allocated c.dg c.got.digitals).map fun w => (w, c.miss)).flatten else []
    | .block _ => []).flatten

/-- An operand element was missing (R209 MISSING_IN): of a cell, a block, or the STATE block. -/
def missIn (k : KIn) : Bool :=
  (k.item.ops.any opState && k.st.isNone) || k.ops.any fun f => fetchedMissing f ||
    (match f with | .cells _ _ _ _ _ _ => (fetchedFloats f).any missW | .block _ => false)

/-! ### Exact arithmetic, rounded once -/

/-- `f` of finite elements rounded once; missing where an element is missing (or infinite). -/
def exact (xs : List Nat) (f : Q) : Nat := if xs.all f32Finite then f32OfQ f else f32Nan

def Q.sum (l : List Q) : Q := l.foldl Q.add ⟨0, 1⟩

/-- Lowest terms. -/
def Q.red (a : Q) : Q :=
  let g := Nat.gcd a.num.natAbs a.den
  if g = 0 then a else ⟨a.num / (g : Int), a.den / g⟩

def qPi : Q := ⟨pi400, 2 ^ 400⟩

/-- An angle brought into (−π, π]. -/
def qWrap (a : Q) : Q :=
  let turns := ((a.sub qPi).div (qPi.mul ⟨2, 1⟩)).neg.floor
  a.add (qPi.mul ⟨2 * turns, 1⟩)

def f32Wrap (x : Nat) : Nat := exact [x] (qWrap (f32Q x))

/-- wrap(a − b), the difference taken exactly. -/
def f32AngDiff (a b : Nat) : Nat := exact [a, b] (qWrap ((f32Q a).sub (f32Q b)))

/-- A complex product and sum over exact values. -/
def cMul (a b : Q × Q) : Q × Q := ((a.1.mul b.1).sub (a.2.mul b.2), (a.1.mul b.2).add (a.2.mul b.1))
def cAdd (a b : Q × Q) : Q × Q := (a.1.add b.1, a.2.add b.2)
def cOf (p : Nat × Nat) : Q × Q := (f32Q p.1, f32Q p.2)
def cFinite (p : Nat × Nat) : Bool := f32Finite p.1 && f32Finite p.2

/-- A complex result rounded once, missing unless every phasor it depends on is present. -/
def exactC (ps : List (Nat × Nat)) (c : Q × Q) : Nat × Nat :=
  if ps.all cFinite then (f32OfQ c.1, f32OfQ c.2) else (f32Nan, f32Nan)

/-! ### Cells and flags -/

def outOf (k : KIn) (ws : List Nat) : KOut := { data := ws, miss := missIn k }

/-- GATHER (0x01), and the packed copy of OUT_PACK_RAW. -/
def kGather (k : KIn) : KOut :=
  outOf k (wordsOf (((k.ops.map fetchedBytes).flatten).take (parB k)))

def countBit (b : Nat) (l : List Nat) : Nat := (l.filter fun q => q.testBit b).length

def kQualScan (k : KIn) : KOut :=
  let qs := ((cellsIn k).take (parN k)).map fun c => c.got.qual
  outOf k [countBit 31 qs, countBit 30 qs, countBit 27 qs, qs.foldl (· ||| ·) 0]

/-- RSMP_STATUS: slots examined, resampled records present, and slots missing (layout: log entry 22). -/
def kRsmpStatus (k : KIn) : KOut :=
  let qs := ((cellsIn k).take (parN k)).map fun c => c.got.qual
  outOf k [qs.length, countBit 28 qs, countBit 31 qs]

/-- SELECT: element i of the first block where bit i of the mask is 1, else of the second. -/
def kSelect (k : KIn) : KOut :=
  match (dataOps k).map fetchedFloats with
  | a :: b :: m :: _ => outOf k ((List.range (parN k)).map fun i =>
      let w := elemAt m (i / 32)
      if missW w then f32Nan else if w.testBit (i % 32) then elemAt a i else elemAt b i)
  | _ => outOf k (List.replicate (parN k) f32Nan)

/-- SCALE: CONST holds a then b for each element. -/
def kScale (k : KIn) : KOut :=
  let c := constWords k
  outOf k ((firstN (parN k) (floatsIn k)).zipIdx.map fun x => f32Fma (elemAt c (2 * x.2)) x.1 (elemAt c (2 * x.2 + 1)))

/-- MASK_LOGIC: M selects AND (0), OR (1) or XOR (2). -/
def kMaskLogic (k : KIn) : KOut :=
  let op (a b : Nat) : Nat := if missW a || missW b then f32Nan
    else if parM k = 0 then a &&& b else if parM k = 1 then a ||| b else a ^^^ b
  match (dataOps k).map fetchedFloats with
  | a :: rest => outOf k ((List.range (parN k)).map fun i => (rest.map fun b => elemAt b i).foldl op (elemAt a i))
  | [] => outOf k []

def popCount (w : Nat) : Nat := ((List.range 32).filter fun b => w.testBit b).length

def kCountFlags (k : KIn) : KOut :=
  outOf k ((firstN (parN k) (floatsIn k)).map fun w => if missW w then f32Nan else popCount w)

/-- EVT_MERGE: the OR of the flag sets, then the index of the first element set, all ones where none is. -/
def kEvtMerge (k : KIn) : KOut :=
  let sets := (dataOps k).map fetchedFloats
  let ws := (List.range (parN k)).map fun i =>
    let xs := sets.map fun s => elemAt s i
    if xs.any missW then f32Nan else xs.foldl (· ||| ·) 0
  outOf k (ws ++ [(ws.findIdx? fun w => !missW w && w ≠ 0).getD 0xFFFFFFFF])

/-! ### Phasors (R542) -/

def kPhToPolar (k : KIn) : KOut :=
  let ps := phasorsN k (parN k)
  outOf k (ps.map (fun p => f32Mag p.1 p.2) ++ ps.map fun p => f32Arg p.1 p.2)

def kPhToRect (k : KIn) : KOut :=
  let n := parN k
  let xs := firstN (2 * n) (floatsIn k)
  outOf k (flatPhasors ((List.range n).map fun i =>
    let m := elemAt xs i
    let a := elemAt xs (n + i)
    if f32Finite m && f32Finite a then
      let (sn, cs) := qSinCos (f32Q a)
      (f32OfQ ((f32Q m).mul cs), f32OfQ ((f32Q m).mul sn))
    else (f32Nan, f32Nan)))

def kPhAngdiff (k : KIn) : KOut :=
  let ps := phasorsN k (2 * parN k)
  outOf k ((List.range (parN k)).map fun i =>
    let a := ps.getD (2 * i) (f32Nan, f32Nan)
    let b := ps.getD (2 * i + 1) (f32Nan, f32Nan)
    f32AngDiff (f32Arg a.1 a.2) (f32Arg b.1 b.2))

/-- PH_ROTATE: each phasor turned back by the angle of the reference, which follows them. -/
def kPhRotate (k : KIn) : KOut :=
  let n := parN k
  let ps := phasorsN k (n + 1)
  let r := ps.getD n (f32Nan, f32Nan)
  let (sn, cs) := if cFinite r then qSinCos (f32Q (f32Arg r.1 r.2)) else (⟨0, 1⟩, ⟨1, 1⟩)
  outOf k (flatPhasors ((ps.take n).map fun p => exactC [p, r] (cMul (cOf p) (cs, sn.neg))))

/-- 1 at ±120°: re −1/2, im ±√3/2. -/
def qRoot3Half : Q := ⟨natSqrt (3 * 4 ^ 400), 2 ^ 401⟩
def cAlpha : Q × Q := (⟨-1, 2⟩, qRoot3Half)
def cAlpha2 : Q × Q := (⟨-1, 2⟩, qRoot3Half.neg)

/-- Zero-, positive- and negative-sequence phasors of a triplet. -/
def seqOf (a b c : Nat × Nat) : (Nat × Nat) × (Nat × Nat) × (Nat × Nat) :=
  let third (z : Q × Q) : Q × Q := (z.1.div ⟨3, 1⟩, z.2.div ⟨3, 1⟩)
  let s (x y : Q × Q) := third (cAdd (cOf a) (cAdd (cMul x (cOf b)) (cMul y (cOf c))))
  let one : Q × Q := (⟨1, 1⟩, ⟨0, 1⟩)
  (exactC [a, b, c] (s one one), exactC [a, b, c] (s cAlpha cAlpha2), exactC [a, b, c] (s cAlpha2 cAlpha))

def tripletsN (k : KIn) : List ((Nat × Nat) × (Nat × Nat) × (Nat × Nat)) :=
  let ps := phasorsN k (3 * parN k)
  let g (i : Nat) := ps.getD i (f32Nan, f32Nan)
  (List.range (parN k)).map fun i => seqOf (g (3 * i)) (g (3 * i + 1)) (g (3 * i + 2))

def kPhSeq (k : KIn) : KOut :=
  outOf k (flatPhasors ((tripletsN k).map fun t => [t.1, t.2.1, t.2.2]).flatten)

/-- P and Q of V × conj(I) × K, in the order of R290. -/
def powerOf (kk : Nat) (v i : Nat × Nat) : Nat × Nat :=
  let p := f32Fma v.1 i.1 (f32Mul v.2 i.2)
  let q := f32Fma v.2 i.1 (f32Neg (f32Mul v.1 i.2))
  if v.1 = f32Nan || v.2 = f32Nan || i.1 = f32Nan || i.2 = f32Nan then (f32Nan, f32Nan)
  else (f32Mul (f32OfInt kk) p, f32Mul (f32OfInt kk) q)

/-- Powers of V, I pairs. -/
def powersOf (kk : Nat) (ps : List (Nat × Nat)) (n : Nat) : List (Nat × Nat) :=
  (List.range n).map fun i => powerOf kk (ps.getD (2 * i) (f32Nan, f32Nan)) (ps.getD (2 * i + 1) (f32Nan, f32Nan))

def kPhPower (k : KIn) : KOut := outOf k (flatPhasors (powersOf 1 (phasorsN k (2 * parN k)) (parN k)))

/-- PH_POWER3: N sets of three V then three I. -/
def kPhPower3 (k : KIn) : KOut :=
  let ps := phasorsN k (6 * parN k)
  outOf k (flatPhasors ((List.range (parN k)).map fun s =>
    let g (i : Nat) := ps.getD (6 * s + i) (f32Nan, f32Nan)
    let conj (z : Q × Q) : Q × Q := (z.1, z.2.neg)
    let t := (List.range 3).map fun i => cMul (cOf (g i)) (conj (cOf (g (3 + i))))
    exactC ((List.range 6).map g) (t.foldl cAdd (⟨0, 1⟩, ⟨0, 1⟩))))

/-- Complex sums of N terms by M × N complex weights. -/
def cMatVec (m n : Nat) (w : List Nat) (v : List (Nat × Nat)) : List (Nat × Nat) :=
  (List.range m).map fun i =>
    let terms := (List.range n).map fun j => ((elemAt w (2 * (i * n + j)), elemAt w (2 * (i * n + j) + 1)), v.getD j (f32Nan, f32Nan))
    exactC (terms.map (fun t => t.1) ++ terms.map fun t => t.2) ((terms.map fun t => cMul (cOf t.1) (cOf t.2)).foldl cAdd (⟨0, 1⟩, ⟨0, 1⟩))

def kPhWsum (k : KIn) : KOut := outOf k (flatPhasors (cMatVec (parM k) (parN k) (constWords k) (phasorsN k (parN k))))
def kCmatvec (k : KIn) : KOut := outOf k (flatPhasors (cMatVec (parM k) (parN k) (constWords k) (phasorsN k (parN k))))

def kPhUnbal (k : KIn) : KOut :=
  outOf k ((tripletsN k).map fun t => f32Div (f32Mag t.2.2.1 t.2.2.2) (f32Mag t.2.1.1 t.2.1.2))

/-! ### Signals -/

/-- FREQ_WMEAN: over the present inputs, missing where fewer than K are present, or where a weight is missing. -/
def kFreqWmean (k : KIn) : KOut :=
  let c := constWords k
  let xs := (firstN (parN k) (floatsIn k)).zipIdx.filter fun x => f32Finite x.1
  let sw := Q.sum (xs.map fun x => f32Q (elemAt c x.2))
  let sf := Q.sum (xs.map fun x => (f32Q (elemAt c x.2)).mul (f32Q x.1))
  outOf k [if xs.length < parK k || sw.isZero then f32Nan else exact (xs.map fun x => elemAt c x.2) (sf.div sw)]

/-- `n`-element frames of a STATE, newest first, this tick's first; ticks between count as missing (R226). -/
def frames (k : KIn) (n depth : Nat) (cur : List Nat) : List (List Nat) :=
  let old : List (List Nat) := match k.st with
    | some (t, ws) => List.replicate (min depth (k.n - t - 1)) (List.replicate n f32Nan) ++
        (List.range depth).map fun i => firstN n (ws.drop (i * n))
    | none => []
  ((cur :: old) ++ List.replicate depth (List.replicate n f32Nan)).take depth

/-- Σ h_i x(n − i). -/
def firAt (h : Nat → Nat) (fs : List (List Nat)) (i : Nat) : Nat :=
  let xs := fs.zipIdx.map fun f => (h f.2, elemAt f.1 i)
  exact (xs.map (fun x => x.1) ++ xs.map fun x => x.2) (Q.sum (xs.map fun x => (f32Q x.1).mul (f32Q x.2)))

/-- SIG_FIR: coefficients from a CONST operand where there is one. -/
def kSigFir (k : KIn) : KOut :=
  let n := parN k
  let cur := firstN n (floatsIn k)
  let fs := frames k n (parK k) cur
  let h (t : Nat) := if hasConst k then elemAt (constWords k) t else Config.sigFir (parK k) t
  { data := (List.range n).map (firAt h fs), st := some fs.flatten, miss := missIn k }

/-- SIG_DIFF: x(n) − x(n − 1), missing unless the tick before was present. -/
def kSigDiff (k : KIn) : KOut :=
  let n := parN k
  let cur := firstN n (floatsIn k)
  let fs := frames k n 2 cur
  { data := (List.range n).map fun i =>
      let a := elemAt cur i
      let b := elemAt (fs.getD 1 []) i
      exact [a, b] ((f32Q a).sub (f32Q b)),
    st := some cur, miss := missIn k }

/-- Element i of a STATE of `w` words per element; missing at a first run. -/
def stElem (k : KIn) (w i j : Nat) : Nat :=
  match k.st with
  | some (_, ws) => elemAt ws (i * w + j)
  | none => f32Nan

/-- One step of unwrapping: the new unwrapped angle from the last raw and unwrapped ones. -/
def unwrapStep (raw lastRaw lastOut : Nat) : Nat :=
  if f32Finite lastRaw && f32Finite lastOut then
    exact [raw] ((f32Q lastOut).add (qWrap ((f32Q raw).sub (f32Q lastRaw))))
  else if f32Finite raw then raw else f32Nan

/-- ANG_UNWRAP: against the last present angle, held through missing ticks. -/
def kAngUnwrap (k : KIn) : KOut :=
  let rs := (firstN (parN k) (floatsIn k)).zipIdx.map fun x =>
    let lastRaw := stElem k 2 x.2 0
    let lastOut := stElem k 2 x.2 1
    if f32Finite x.1 then
      let y := unwrapStep x.1 lastRaw lastOut
      (y, [x.1, y])
    else (f32Nan, [lastRaw, lastOut])
  { data := rs.map fun r => r.1, st := some (rs.map fun r => r.2).flatten, miss := missIn k }

def kAngWrap (k : KIn) : KOut := outOf k ((firstN (parN k) (floatsIn k)).map f32Wrap)

def kRmatvec (k : KIn) : KOut :=
  let n := parN k
  let v := firstN n (floatsIn k)
  let w := constWords k
  outOf k ((List.range (parM k)).map fun i =>
    exact (v ++ firstN n (w.drop (i * n))) (Q.sum ((List.range n).map fun j => (f32Q (elemAt w (i * n + j))).mul (f32Q (elemAt v j)))))

/-- One elimination step: clear column `c` of every row but the pivot's. -/
def clearCol (c : Nat) (pivot : List Q) (row : List Q) : List Q :=
  let f := (row.getD c ⟨0, 1⟩).div (pivot.getD c ⟨1, 1⟩)
  List.zipWith (fun x p => (x.sub (f.mul p)).red) row pivot

/-- Gauss-Jordan on an augmented matrix: columns from `c` on; the pivot rows chosen so far come first. -/
def gaussJordan : Nat → Nat → List (List Q) → List (List Q) → Option (List (List Q))
  | 0, _, piv, _ => some piv
  | k + 1, c, piv, rows =>
    match rows.find? fun r => !(r.getD c ⟨0, 1⟩).isZero with
    | none => none
    | some p =>
      let rest := rows.erase p
      gaussJordan k (c + 1) (piv.map (clearCol c p) ++ [p]) (rest.map (clearCol c p))

/-- The least-squares solution by the normal equations, solved exactly. -/
def lsqSolve (m n : Nat) (a : List Nat) (b : List Nat) : Option (List Q) :=
  let at_ (i j : Nat) := f32Q (elemAt a (i * n + j))
  let rows := (List.range n).map fun r =>
    ((List.range n).map fun c => (Q.sum ((List.range m).map fun i => (at_ i r).mul (at_ i c))).red) ++
      [(Q.sum ((List.range m).map fun i => (at_ i r).mul (f32Q (elemAt b i)))).red]
  (gaussJordan n 0 [] rows).map fun rs => rs.zipIdx.map fun r => (r.1.getD n ⟨0, 1⟩).div (r.1.getD r.2 ⟨1, 1⟩)

def kLsqSmall (k : KIn) : KOut :=
  let n := parN k
  let m := parM k
  let b := firstN m (floatsIn k)
  outOf k (if !b.all f32Finite || !(firstN (m * n) (constWords k)).all f32Finite then List.replicate n f32Nan
    else match lsqSolve m n (constWords k) b with
      | some x => x.map f32OfQ
      | none => (List.range n).map Config.lsqSingular)

/-- Linear interpolation in a table of K points x, y with x rising. -/
def interp (tab : List (Nat × Nat)) (x : Nat) : Nat :=
  if !f32Finite x || !tab.all cFinite then f32Nan
  else
    let seg := (List.zip tab (tab.drop 1)).find? fun s => f32Le s.1.1 x && f32Le x s.2.1
    match seg with
    | some (a, b) =>
      let dx := (f32Q b.1).sub (f32Q a.1)
      if dx.isZero then a.2
      else exact [a.2, b.2] ((f32Q a.2).add ((((f32Q x).sub (f32Q a.1)).div dx).mul ((f32Q b.2).sub (f32Q a.2))))
    | none => Config.interpEnd x ((tab.head?.map fun p => p.1).getD 0)

def kInterpLin (k : KIn) : KOut :=
  let tab := (pairUp (constWords k)).take (parK k)
  outOf k ((firstN (parN k) (floatsIn k)).map (interp tab))

/-- MINMAX: minimum, maximum and their indices, ties to the lower; missing unless every input is present. -/
def kMinmax (k : KIn) : KOut :=
  let xs := firstN (parN k) (floatsIn k)
  if xs.all f32Finite then
    let lo := xs.zipIdx.foldl (fun b x => if f32Lt x.1 b.1 then x else b) (xs.getD 0 f32Nan, 0)
    let hi := xs.zipIdx.foldl (fun b x => if f32Lt b.1 x.1 then x else b) (xs.getD 0 f32Nan, 0)
    outOf k [lo.1, hi.1, lo.2, hi.2]
  else outOf k (List.replicate 4 f32Nan)

/-- EWMA_VAR: α is the FP32 in PARAM1; the mean starts at the first present value, the variance at 0. -/
def kEwmaVar (k : KIn) : KOut :=
  let al := f32Q k.item.p1
  let rs := (firstN (parN k) (floatsIn k)).zipIdx.map fun x =>
    let m := stElem k 2 x.2 0
    let v := stElem k 2 x.2 1
    if !f32Finite x.1 then ((f32Nan, f32Nan), [m, v])
    else if !f32Finite m then ((x.1, 0), [x.1, 0])
    else
      let d := (f32Q x.1).sub (f32Q m)
      let m' := f32OfQ ((f32Q m).add (al.mul d))
      let v' := f32OfQ (((Q.ofInt 1).sub al).mul ((f32Q v).add (al.mul (d.mul d))))
      ((m', v'), [m', v'])
  { data := rs.map (fun r => r.1.1) ++ rs.map fun r => r.1.2, st := some (rs.map fun r => r.2).flatten, miss := missIn k }

/-- Insertion into a list kept with the largest first, equals in index order. -/
def insertDesc (x : Nat × Nat) : List (Nat × Nat) → List (Nat × Nat)
  | [] => [x]
  | y :: ys => if f32Lt y.1 x.1 then x :: y :: ys else y :: insertDesc x ys

def sortDesc (l : List (Nat × Nat)) : List (Nat × Nat) := l.foldl (fun a x => insertDesc x a) []

def kTopk (k : KIn) : KOut :=
  let xs := firstN (parN k) (floatsIn k)
  if xs.all f32Finite then
    let top := (sortDesc xs.zipIdx).take (parK k)
    outOf k (top.map (fun x => x.1) ++ top.map fun x => x.2)
  else outOf k (List.replicate (2 * parK k) f32Nan)

/-- CLAMP: CONST holds the lower and upper limit of each element; the flag word is 1 below, 2 above. -/
def kClamp (k : KIn) : KOut :=
  let c := constWords k
  let rs := (firstN (parN k) (floatsIn k)).zipIdx.map fun x =>
    let lo := elemAt c (2 * x.2)
    let hi := elemAt c (2 * x.2 + 1)
    if f32IsNan x.1 || f32IsNan lo || f32IsNan hi then (f32Nan, f32Nan)
    else if f32Lt x.1 lo then (lo, 1) else if f32Lt hi x.1 then (hi, 2) else (x.1, 0)
  outOf k (rs.map (fun r => r.1) ++ rs.map fun r => r.2)

/-- STAT_BLOCK: sum, count of present inputs, RMS; sum and RMS are missing unless every input is present. -/
def kStatBlock (k : KIn) : KOut :=
  let xs := firstN (parN k) (floatsIn k)
  let ps := xs.filter f32Finite
  let ms : Q := (Q.sum (xs.map fun x => (f32Q x).mul (f32Q x))).div ⟨max 1 (parN k), 1⟩
  outOf k [exact xs (Q.sum (xs.map f32Q)), ps.length, exact xs (qSqrt ms)]

/-! ### Preparation (R228) -/

/-- One step of an exponentially weighted mean with α = 1/(DETREND × r), DETREND in 0.1 s; it starts at the first value. -/
def detrend (kk rate x mean : Nat) : Nat :=
  if f32Finite mean then
    exact [x] ((f32Q mean).add (((f32Q x).sub (f32Q mean)).mul ⟨10, max 1 (kk * rate)⟩))
  else x

/-- A value's deviation from its mean, and the new mean; a missing value leaves the mean. -/
def deviate (kk rate x mean : Nat) : Nat × Nat :=
  if f32Finite x then
    let m := detrend kk rate x mean
    (exact [x, m] ((f32Q x).sub (f32Q m)), m)
  else (f32Nan, mean)

/-- The angle of `p` against the reference, unwrapped, and its deviation: state raw, unwrapped, mean. -/
def angleDev (kk rate : Nat) (p ref : Nat × Nat) (raw0 un0 m0 : Nat) : Nat × List Nat :=
  let raw := f32AngDiff (f32Arg p.1 p.2) (f32Arg ref.1 ref.2)
  if f32Finite raw then
    let un := unwrapStep raw raw0 un0
    let (d, m) := deviate kk rate un m0
    (d, [raw, un, m])
  else (f32Nan, [raw0, un0, m0])

def kSpecPrep (k : KIn) : KOut :=
  let ps := phasorsN k (parN k)
  let ref := ps.getD 0 (f32Nan, f32Nan)
  let rs := ps.zipIdx.map fun x =>
    let mag := f32Mag x.1.1 x.1.2
    let mean0 := stElem k 4 x.2 0
    let mean := if f32Finite mag then detrend (parK k) k.rate mag mean0 else mean0
    let md := if f32Finite mag then f32Sub (f32Div mag mean) f32One else f32Nan
    let (ad, st) := angleDev (parK k) k.rate x.1 ref (stElem k 4 x.2 1) (stElem k 4 x.2 2) (stElem k 4 x.2 3)
    (md, ad, mean :: st)
  { data := (if (parM k).testBit 0 then rs.map fun r => r.1 else []) ++ (if (parM k).testBit 1 then rs.map fun r => r.2.1 else []),
    st := some (rs.map fun r => r.2.2).flatten, miss := missIn k }

def kModePrep (k : KIn) : KOut :=
  let w := constWords k
  let rs := (firstN (parN k) (floatsIn k)).zipIdx.map fun x =>
    let (d, m) := deviate (parK k) k.rate x.1 (stElem k 1 x.2 0)
    (f32Mul d (elemAt w x.2), m)
  { data := rs.map fun r => r.1, st := some (rs.map fun r => r.2), miss := missIn k }

/-- ln |V|; of 0 the spec states no value. -/
def f32LnMag (p : Nat × Nat) : Nat :=
  let m := f32Mag p.1 p.2
  if !f32Finite m then f32Nan else if (f32Q m).isZero then Config.lnZero else f32OfQ (qLn (f32Q m))

def kDefPrep (k : KIn) : KOut :=
  let b := parB k
  let ps := phasorsN k (2 * b + 1)
  let g (i : Nat) := ps.getD i (f32Nan, f32Nan)
  let rs := (List.range b).map fun j =>
    let v := g (1 + 2 * j)
    let i := g (2 + 2 * j)
    let s := cMul (cOf v) ((cOf i).1, (cOf i).2.neg)
    let scale : Q := ⟨parK k, 1000000⟩
    let (p, q) := exactC [v, i] (s.1.mul scale, s.2.mul scale)
    let (dp, mp) := deviate (parE k) k.rate p (stElem k 6 j 0)
    let (dq, mq) := deviate (parE k) k.rate q (stElem k 6 j 1)
    let (da, sa) := angleDev (parE k) k.rate v (g 0) (stElem k 6 j 2) (stElem k 6 j 3) (stElem k 6 j 4)
    let (dl, ml) := deviate (parE k) k.rate (f32LnMag v) (stElem k 6 j 5)
    ([dp, dq, da, dl], [mp, mq] ++ sa ++ [ml])
  { data := (rs.map fun r => r.1).flatten, st := some (rs.map fun r => r.2).flatten, miss := missIn k }

def kAccPrep (k : KIn) : KOut := outOf k (flatPhasors (powersOf (parK k) (phasorsN k (2 * parB k)) (parB k)))

/-- PMU_HEALTH: per slot, ticks seen, ticks present, ticks missing and records late, since its STATE began (log entry 22). -/
def kPmuHealth (k : KIn) : KOut :=
  let rs := ((cellsIn k).take (parN k)).zipIdx.map fun c =>
    let old (j : Nat) := match k.st with | some (_, ws) => ws.getD (c.2 * 4 + j) 0 | none => 0
    [satAdd 32 (old 0) 1, satAdd 32 (old 1) (if c.1.miss then 0 else 1), satAdd 32 (old 2) (if c.1.miss then 1 else 0),
     satAdd 32 (old 3) (if c.1.got.qual.testBit 30 then 1 else 0)]
  { data := rs.flatten, st := some rs.flatten, miss := missIn k }

/-- OUT_DECIM: the filter of R318 for D = PARAM2 bits 15:0, on N phasors with K taps. -/
def kOutDecim (k : KIn) : KOut :=
  let n := 2 * parN k
  let fs := frames k n (parK k) (firstN n (floatsIn k))
  { data := (List.range n).map (firAt (Config.outFir (parE k)) fs), st := some fs.flatten, miss := missIn k }

/-- TICK_SUMMARY: of its items' results, how many carry each of FLAGS bits 0 to 5 (log entry 22). -/
def kTickSummary (k : KIn) : KOut :=
  let fl := ((dataOps k).take (parN k)).map fun f => match f with | .block b => b.flags | .cells _ _ _ _ _ _ => 0
  outOf k (fl.length :: (List.range 6).map fun b => countBit b fl)

/-! ### Branch evidence (R255) -/

/-- BRK: 0 unknown, 1 closed, 2 open. -/
def brkOf (ds : List (Nat × Bool)) (a b : Nat) : Nat :=
  let contact (w : Nat) : Option Bool :=
    match ds[w % 65536]? with
    | some (v, false) => some (v.testBit (w / 65536 % 16) != w.testBit 20)
    | _ => none
  match a.testBit 21, b.testBit 21 with
  | true, false => match contact a with | some c => if c then 1 else 2 | none => 0
  | false, true => match contact b with | some c => if c then 1 else 2 | none => 0
  | true, true => match contact a, contact b with
    | some x, some y => if x = y then 0 else if x then 1 else 2
    | _, _ => 0
  | false, false => 0

/-- A branch's electrical test: its state words are the last Δθ (quiet NaN unless of tick n − 1), ELEC held (0 before the first
tick with both ends), and the pickup and dropout counters. -/
def elecOf (k : KIn) (split pickup dropout thA thB fA fB : Nat) (prev st0 up0 down0 : Nat) : Nat × List Nat :=
  let th := f32AngDiff thA thB
  if !(f32Finite th && f32Finite fA && f32Finite fB) then (0, [f32Nan, st0, up0, down0])
  else
    let d := f32Abs (exact [fA, fB] ((f32Q fA).sub (f32Q fB)))
    let slip : Option Nat := if f32Finite prev then
        some (f32Abs (f32OfQ ((qWrap ((f32Q th).sub (f32Q prev))).mul ((Q.ofInt k.rate).div (qPi.mul ⟨2, 1⟩))))) else none
    let half := f32Mul split 0x3F000000
    if st0 = 0 then (1, [th, 1, 0, 0])
    else
      let above := f32Lt split d || (match slip with | some x => f32Lt split x | none => false)
      let under := f32Lt d half && (match slip with | some x => f32Lt x half | none => false)
      let known := slip.isSome || above
      let up := if above then up0 + 1 else if known then 0 else up0
      let down := if under then down0 + 1 else if known then 0 else down0
      let st := if st0 = 1 then (if above && up ≥ pickup then 2 else 1) else if under && down ≥ dropout then 1 else 2
      (st, [th, st, if st = st0 then up else 0, if st = st0 then down else 0])

def kCohPrep (k : KIn) : KOut :=
  let c := constWords k
  let meas := match (dataOps k).find? fun f => match f with | .block _ => true | .cells _ _ _ _ _ _ => false with
    | some f => fetchedFloats f
    | none => []
  let ds := digitalsIn k
  let split := c.getD 0 0
  let pickup := c.getD 1 0 % 65536
  let dropout := c.getD 1 0 / 65536
  let fresh : Bool := match k.st with | some (t, _) => t + 1 == k.n | none => false
  let rs := (List.range (parB k)).map fun b =>
    let w (j : Nat) := c.getD (4 + 4 * b + j) 0
    let ends := w 2
    let st (j : Nat) : Nat := match k.st with | some (_, ws) => ws.getD (4 * b + j) 0 | none => 0
    let prev := if fresh then (match k.st with | some (_, ws) => elemAt ws (4 * b) | none => f32Nan) else f32Nan
    let none_ := ends % 65536 = 65535 || ends / 65536 = 65535
    let m (e j : Nat) := elemAt meas (2 * e + j)
    let (el, st') := if constLost k then (0, [f32Nan, st 1, st 2, st 3])
      else if none_ then (0, [f32Nan, 0, 0, 0])
      else elecOf k split pickup dropout (m (ends % 65536) 0) (m (ends / 65536) 0) (m (ends % 65536) 1) (m (ends / 65536) 1)
        prev (st 1) (st 2) (st 3)
    ((if constLost k then 0 else brkOf ds (w 0) (w 1)) + 4 * el, st')
  { data := wordsOf (rs.map fun r => BitVec.ofNat 8 r.1), st := some (rs.map fun r => r.2).flatten, miss := missIn k }

/-! ### Cost (R205, R219) -/

def ceilDiv (a b : Nat) : Nat := (a + b - 1) / b
def ceilLog2 (n : Nat) : Nat := if n ≤ 1 then 0 else Nat.log2 (n - 1) + 1

/-- The cycles of a kernel's run for its parameters (R219). -/
def kernelCost (it : Item) : Nat :=
  let n := it.p0 % 65536
  let m := it.p0 / 65536
  let k := it.p1 % 65536
  let b := it.p1 / 65536
  let e := it.p2 % 65536
  let a := it.p2 / 65536
  let n16 := ceilDiv n 16
  let n4 := ceilDiv n 4
  match it.kernel with
  | 0x01 => 40 + ceilDiv b 64
  | 0x02 => 40 + 2 * n16
  | 0x03 => 200 + n16
  | 0x04 => 40 + n16
  | 0x05 => 40 + 2 * n16
  | 0x06 => 40 + n16
  | 0x07 => 40 + 2 * n16
  | 0x08 => 60 + 8 * n16
  | 0x09 => 60 + 8 * n16
  | 0x0A => 60 + 10 * n16
  | 0x0B => 40 + n4
  | 0x0C => 80 + 9 * n4
  | 0x0D => 60 + n4
  | 0x0E => 80 + 3 * n4
  | 0x0F => 60 + ceilDiv (m * n) 4
  | 0x10 => 80 + 9 * n4 + 8 * n16
  | 0x11 => 60 + 2 * n16
  | 0x12 => 60 + k * n16
  | 0x13 => 40 + 2 * n16
  | 0x14 => 60 + 4 * n16
  | 0x15 => 40 + 2 * n16
  | 0x16 => 80 + ceilDiv (m * n) 4
  | 0x17 => 80 + ceilDiv (m * n) 16
  | 0x18 => 400 + 24 * n * ceilDiv m 16
  | 0x19 => 60 + 4 * n16 * ceilLog2 k
  | 0x1A => 40 + 3 * n16
  | 0x1B => 40 + 4 * n16
  | 0x1C => 60 + 6 * n16 * ceilLog2 n
  | 0x1D => 40 + 2 * n16
  | 0x1E => 40 + 3 * n16
  | 0x20 => 60 + 6 * n16
  | 0x21 => 60 + 8 * n16
  | 0x22 => 80 + 14 * n16
  | 0x23 => 80 + 12 * n16
  | 0x24 => 60 + 10 * n16
  | 0x25 => 60 + 8 * n16
  | 0x26 => 40 + 2 * n16
  | 0x27 => 40 + 2 * n16
  | 0x28 => 120 + 20 * a
  | 0x29 => 80
  | 0x2A => 100 + 16 * e
  | 0x2B => 40 + 2 * n16
  | 0x30 => 80 + 12 * n16
  | 0x31 => 80 + 6 * n16
  | 0x32 => 100 + 10 * ceilDiv b 16
  | 0x33 => 80 + ceilDiv b 4 + 2 * ceilDiv b 16
  | 0x34 => 100 + 3 * ceilDiv b 4
  | 0x35 => 40 + ceilDiv b 64
  | 0x36 => 60 + 6 * n16
  | 0x38 => 60 + k * n4
  | 0x39 => 120 + n4 + ceilDiv k 16
  | 0x3A => 120 + n4 + ceilDiv k 16
  | 0x3B => 40 + ceilDiv b 64
  | 0x3C => 40 + 2 * n16
  | 0x3D => 140 + n4 + ceilDiv k 16
  | 0x3E => 300 + n16
  | 0x3F => 1
  | _ => 0

/-! ### Running a kernel -/

/-- The item is running in instance `n`, on the unit and with the code given. -/
def State.isRunning (s : State) (n j unit code : Nat) : Option (Inst × Item) :=
  match s.inst? n with
  | some i =>
    match (s.items i)[j]? with
    | some it => if (runOf i j).st = .running && it.unit = unit && it.kernel = code && (runOf i j).data.isNone then some (i, it) else none
    | none => none
  | none => none

/-- Keep what a run has computed with its item until it retires. -/
def putOut (i : Inst) (j : Nat) (o : KOut) (s : State) : State :=
  let r := runOf i j
  s.setInst (setRun i j { r with data := some o.data, stateOut := o.st, flags := r.flags ||| (if o.miss then 1 else 0) })

/-- Compute a running item of a pure kernel. -/
def runKernel (code : Nat) (f : KIn → KOut) (n j : Nat) (s : State) : State :=
  match s.isRunning n j 0 code with
  | some (i, it) => putOut i j (f (s.kin i j it n false)) s
  | none => s

end Sys2Proof.Machine
end

