-- ==== Sys2Proof/Machine/Pins.lean ====
section
/-!
DEFINITION. Time-trigger generators and capture inputs (R87–R91, R94, R95), and driving a PIO pin (R43).
-/

namespace Sys2Proof.Machine

/-- Drive a PIO pin; during shedding and commit an output holds its last state (R43). -/
def setPin (pin : Nat) (level : Bool) (s : State) : State :=
  if s.shedding then s else State.emit { s with pio := s.pio.set pin (some level) } (.pin "PIO" pin (some level))

def State.setTtg (s : State) (k : Nat) (g : Option TtgRun) : State :=
  s.setClv { s.clv with ttg := s.clv.ttg.set k g }

/-- Clear ARM and ARMED (R94). -/
def ttgClear (k : Nat) (s : State) : State :=
  ((s.setTtg k none).wrB (fCLV_TTG_CTL_ARM k) false).wrB (fCLV_TTG_STS_ARMED k) false

/-- A snapshot of generator k's configuration (R89). -/
def State.ttgSnapshot (s : State) (k : Nat) : TtgRun :=
  { mode := s.rd (fCLV_TTG_CFG_MODE k), pol := s.rd (fCLV_TTG_CFG_POL k), pin := s.rd (fCLV_TTG_CFG_PIN k),
    start := (s.rd (fCLV_TTG_START_SHI_S_HI k) * 2 ^ 32 + s.rd (fCLV_TTG_START_SLO_S_LO k)) * 1000000000 + s.rd (fCLV_TTG_START_NS_NS k),
    period := s.rd (fCLV_TTG_PERIOD_PERIOD k), width := s.rd (fCLV_TTG_WIDTH_WIDTH k), div := s.rd (fCLV_TTG_CFG_DIV k),
    next := 0, fallAt := none }

/-- The configuration is one that may be armed (R89). The range of R94 bounds PERIOD at 4 × 10^9 too; R89 refuses no arming for it and R94
does not declare a write above it ignored, so such a PERIOD is stored and used (DESIGN CHOICE, log entry 47). -/
def ttgCfgOk (g : TtgRun) : Bool :=
  g.mode ≤ 2 && 10 ≤ g.width && 100 ≤ g.period && 1 ≤ g.div && g.div ≤ 1000 &&
  (if g.mode = 2 then g.width < 1000000000 / g.div else g.width < g.period)

/-- The first pulse after an instant (R88, R89). -/
def ttgFirst (g : TtgRun) (now : Nat) : Nat :=
  if g.mode = 0 then 0
  else if g.mode = 1 then (if now < g.start then 0 else (now - g.start) / g.period + 1)
  else max (tickAt g.div now + 1) (g.start / 1000000000 * g.div + (if g.start % 1000000000 = 0 then 0 else g.div))

/-- The instant of pulse i (R88). In SECDIV, i counts pulses from the epoch by the tick formula of R66. -/
def ttgInstant (g : TtgRun) (i : Nat) : Nat :=
  if g.mode = 0 then g.start else if g.mode = 1 then g.start + i * g.period else tickInstant g.div i

/-- Arm generator k, or refuse; each cause sets its own flag (R89). A START equal to the present instant counts as passed (DESIGN CHOICE,
log entry 47). -/
def ttgArm (k : Nat) (s : State) : State :=
  let g := s.ttgSnapshot k
  let owned := s.on (fCLV_TTG_CFG_OWNED k)
  let ok := ttgCfgOk g && !s.beforeStep
  if !owned || !ok then
    let s := ttgClear k s
    let s := if owned then s else s.wrB (fCLV_TTG_STS_NOT_OWNER k) true
    if ok then s else s.wrB (fCLV_TTG_STS_CFG_ERR k) true
  else if g.mode = 0 && g.start ≤ s.clv.now then
    ((ttgClear k s).wrB (fCLV_TTG_STS_LATE k) true).flag fCLV_FLT_FLAGS 7
  else
    let s := s.setTtg k (some { g with next := ttgFirst g s.clv.now })
    ((s.wrB (fCLV_TTG_CTL_ARM k) true).wrB (fCLV_TTG_STS_ARMED k) true).wr (fCLV_TTG_STS_PULSES k) 0

/-- The active level of a generator's pulse (R94: POL 0 = pulse high). -/
def ttgActive (g : TtgRun) : Bool := g.pol = 0

/-- TTG_ARM: a write of ARM 1. A write while armed changes nothing (R89). -/
def execTtgArm (k : Fin 8) (s : State) : Out :=
  .next (if (s.clv.ttg.getD k none).isSome then s else ttgArm k s)

/-- Disarm generator k; a pulse in progress ends with it. -/
def ttgDisarm (k : Nat) (s : State) : State :=
  match s.clv.ttg.getD k none with
  | some g => ttgClear k (if g.fallAt.isSome then setPin g.pin (!ttgActive g) s else s)
  | none => ttgClear k s

/-- TTG_DISARM (R94). -/
def execTtgDisarm (k : Fin 8) (s : State) : Out := .next (ttgDisarm k s)

/-- TTG_EDGE (R88): the programmed instant of the next edge has come: a pulse starts, or its WIDTH has elapsed. -/
def execTtgEdge (k : Fin 8) (s : State) : Out :=
  .next (match s.clv.ttg.getD k none with
    | none => s
    | some g =>
      match g.fallAt with
      | some f =>
        if s.clv.now < f then s
        else
          let s := setPin g.pin (!ttgActive g) s
          if g.mode = 0 then ttgClear k s else s.setTtg k (some { g with fallAt := none })
      | none =>
        let at_ := ttgInstant g g.next
        if s.clv.now < at_ then s
        else
          let s := (setPin g.pin (ttgActive g) s).incWrap (fCLV_TTG_STS_PULSES k)
          s.setTtg k (some { g with next := g.next + 1, fallAt := some (at_ + g.width) }))

/-- Bring the head entry's registers up to date (R95). -/
def capShow (k : Nat) (s : State) : State :=
  let es := s.clv.caps.getD k []
  let s := s.wr (fCLV_CAP_STS_LEVEL k) es.length
  match es.head? with
  | some e => ((s.wr (fCLV_CAP_STS_GEN k) e.gen).wrB (fCLV_CAP_STS_RISE k) e.rise).wr64 (fCLV_CAP_LO_LO k) e.time
  | none => ((s.wr (fCLV_CAP_STS_GEN k) 0).wr (fCLV_CAP_STS_RISE k) 0).wr64 (fCLV_CAP_LO_LO k) 0

def State.setCap (s : State) (k : Nat) (es : List CapEntry) : State := s.setClv { s.clv with caps := s.clv.caps.set k es }

/-- An edge is one that CLV_CAP_CFG.EDGE selects: 1 rising, 2 falling, 3 both. -/
def edgeSelected (sel : Nat) (rise : Bool) : Bool := if rise then sel.testBit 0 else sel.testBit 1

/-- Stamp an edge into capture FIFO k, or drop and count it when the FIFO is full (R91, R95). -/
def capStamp (k stamp : Nat) (rise : Bool) (s : State) : State :=
  let es := s.clv.caps.getD k []
  if es.length ≥ 4 then ((s.inc (fCLV_CAP_STS_DROPS k)).wrB (fCLV_CAP_STS_OVF k) true).flag fCLV_FLT_FLAGS 6
  else
    let gen := if s.clvState = clvUnset then 0xFF else s.rd fCLV_RESEAT_STS_GEN
    capShow k (s.setCap k (es ++ [{ time := stamp, rise := rise, gen := gen }]))

/-- CAPTURE_EDGE (R91, R95, R42): an edge that begins a pulse shorter than the glitch filter, or ends one, is removed; of the others those
that EDGE selects are stamped. `raw` is where the capture logic sees the edge, `hold` how long the level it begins lasts. -/
def execCaptureEdge (k : Fin 16) (raw hold : Nat) (rise : Bool) (s : State) : Out :=
  .next (
    let g := s.rd (fCLV_CAP_CFG_GLITCH k)
    let level := s.clv.capLevel.getD k none
    let put (v : Bool) : State := s.setClv { s.clv with capLevel := s.clv.capLevel.set k (some v) }
    if !s.on (fCLV_CAP_CFG_OWNED k) || level = some rise then s
    else if !passesFilter g hold then put (!rise)
    else if !edgeSelected (s.rd (fCLV_CAP_CFG_EDGE k)) rise then put rise
    else capStamp k (atContact g raw) rise (put rise))

/-- CAPTURE_POP: a read of CLV_CAP_HI_k gives the head's upper word and removes it; of an empty FIFO, 0 (R95). -/
def execCapturePop (k : Fin 16) (s : State) : Out :=
  let es := s.clv.caps.getD k []
  let hi := (es.head?.map fun e => e.time / 2 ^ 32).getD 0
  .next (capShow k ((s.emit (.readData (rCLV_CAP_HI k) hi)).setCap k (es.drop 1)))

end Sys2Proof.Machine
end

