-- ==== Sys2Proof/Machine/Alarms.lean ====
section
/-!
DEFINITION. The alarm unit (R269–R288): alarm states, entries, alarm frames, heartbeats, GOOSE publishing, contacts; and the
steward core's address resolution (R274, R324).
-/

namespace Sys2Proof.Machine

def State.setAlm (s : State) (a : Alm) : State := { s with alm := a }
def State.almSt (s : State) (k : Nat) : AlarmSt := smGet {} s.alm.alarms k
def State.setAlmSt (s : State) (k : Nat) (a : AlarmSt) : State := s.setAlm { s.alm with alarms := smSet {} s.alm.alarms k a }
def almCfgOf (i : Option Image) : AlmCfg := match i with | some i => i.alm | none => {}

/-- ALM_STS.AUTH (R282, R400): unpaired, or ACTIVE. -/
def State.authority (s : State) : Bool := !s.paired || s.rd fPAIR_STS_ROLE = 4

/-- TST_CTL.EN: the TEST flag of frames (R513). -/
def State.testOn (s : State) : Bool := s.on fTST_CTL_EN

/-! ### Pair-wide operations on alarms (R272, R408) -/

/-- An acknowledge of alarm `k`; of an IDLE alarm it has no effect (R272). -/
def ackAlarm (k : Nat) (s : State) : State :=
  let a := s.almSt k
  if a.st = 0 then s else s.setAlmSt k { a with ackPending := true }

def almCount (s : State) : Nat := (almCfgOf s.img).alarms.length

/-- A write to ALM_ACK: bit 31 = ALL. -/
def ackWrite (v : Nat) (s : State) : State :=
  if v.testBit 31 then (List.range (almCount s)).foldl (fun s k => ackAlarm k s) s else ackAlarm (v % 2048) s

/-- ALM_INH reads as last written (R6, R287). -/
def inhNote (word bits : Nat) (s : State) : State := s.setAlm { s.alm with inh := smSet 0 s.alm.inh word (bits % 2 ^ 32) }

/-- A write to ALM_INH with the selected word takes effect at each alarm's next run (R272). -/
def inhWrite (word bits : Nat) (s : State) : State :=
  (List.range 32).foldl (fun s b =>
    let k := 32 * word + b
    if k < almCount s then s.setAlmSt k { s.almSt k with inhReq := bits.testBit b } else s) (inhNote word bits s)

/-- An alarm that starts afresh is inhibited as ALM_INH says. -/
def State.freshAlarm (s : State) (k : Nat) : AlarmSt := { inhReq := (smGet 0 s.alm.inh (k / 32)).testBit (k % 32) }

/-- The instance a mirrored operation names: the first tick at least 2 ms ahead (R408 names none; log entry 26). -/
def State.mirrorTick (s : State) : Nat := tickFrom (s.rateAt s.clv.now) (s.clv.now + 2000000)

/-- The instance named for destinations turned on or off: the first, not yet activated, that closes at least 2 ms ahead, so that its COMPOSE
starts as R326 has it (log entry 26). -/
def State.mirrorRun (s : State) : Nat :=
  let from_ := max (s.lastActivated + 1) (s.curTick - 256)
  match (List.range 512).find? fun k => s.closeOf (from_ + k) ≥ s.clv.now + 2000000 with
  | some k => from_ + k
  | none => s.mirrorTick

/-- Operations of MIRROR (R408; the codes are the model's, log entry 26). -/
abbrev mirAck : Nat := 1
abbrev mirInh : Nat := 2
abbrev mirZero : Nat := 3
abbrev mirDest : Nat := 4
abbrev mirSwap : Nat := 5
abbrev mirCancel : Nat := 6

/-- Carry out a pair-wide operation that this module keeps until instance m, and send it to the partner. -/
def mirror (op operand : Nat) (s : State) : State :=
  let m := s.mirrorTick
  (s.setPair { s.pair with mirrors := s.pair.mirrors ++ [(op, m, operand)] }).sendMirror op m operand

/-- A write that only the module with authority accepts (R408). -/
def pairWide (op operand : Nat) (now : State → State) (s : State) : State :=
  if !s.paired then now s
  else if s.authority then mirror op operand s
  else s.flag fPAIR_FLT_FLAGS 11

/-- Apply the mirrored acknowledges and inhibits of instances up to `n`. -/
def applyAlmMirrors (n : Nat) (s : State) : State :=
  let due := s.pair.mirrors.filter fun m => (m.1 = mirAck || m.1 = mirInh) && m.2.1 ≤ n
  let s := { s with pair := { s.pair with mirrors := s.pair.mirrors.filter fun m => !((m.1 = mirAck || m.1 = mirInh) && m.2.1 ≤ n) } }
  due.foldl (fun s m => if m.1 = mirAck then ackWrite m.2.2 s else inhWrite (m.2.2 / 2 ^ 32 % 32) (m.2.2 % 2 ^ 32) s) s

/-- ALM_ACK (R272). -/
def execAlmAck (all : Bool) (k : Fin 2048) (s : State) : Out :=
  let v := k.val + (if all then 2 ^ 31 else 0)
  .next (pairWide mirAck v (ackWrite v) s)

def almInh (bits : Nat) (s : State) : State :=
  let w := s.rd fALM_INH_SEL_WORD
  let t := pairWide mirInh (w * 2 ^ 32 + bits % 2 ^ 32) (inhWrite w bits) s
  if s.paired && !s.authority then t else inhNote w bits t

/-- ALM_INH (R272): the alarms that ALM_INH_SEL selects. -/
def execAlmInh (bits : Nat) (s : State) : Out := .next (almInh bits s)

/-- MAX_CLR (R287). -/
def maxClr (s : State) : State := (s.wr fALM_G0_STS_TX_MAX 0).wr fALM_G0_PIO_STS_PIO_MAX 0
def execMaxClr (s : State) : Out := .next (maxClr s)

/-- MIN_CLR (R220). -/
def minClr (s : State) : State := (s.wr fTMB_SLACK_MIN_STS_MIN_NS 0x7FFFFFFF).wr fTMB_G0_STS_G0_MAX 0
def execMinClr (s : State) : Out := .next (minClr s)

/-- A write to ALM_SEL latches the selected alarm (R288). -/
def almSelect (k : Nat) (s : State) : State :=
  let s := s.wr fALM_SEL_ID k
  let k := s.rd fALM_SEL_ID
  let a := s.almSt k
  let c := (almCfgOf s.img).alarms[k]?
  let s := (s.wr fALM_ALARM_STS_CLASS ((c.map fun c => c.cls).getD 0)).wr fALM_ALARM_STS_STATE a.st
  let s := ((s.wrB fALM_ALARM_STS_ACKED a.acked).wrB fALM_ALARM_STS_INHIBITED a.inhibited).wrB fALM_ALARM_STS_MISSING_IN a.missing
  let s := (s.wrB fALM_ALARM_STS_STALE a.stale).wr fALM_ALARM_STS_KIND ((c.map fun c => c.kind).getD 0)
  let s := s.wr fALM_ALARM_STS_DESTS ((c.map fun c => c.dests).getD 0)
  (s.wr fALM_ALARM_SINCE_LO_LO a.since).wr fALM_ALARM_SINCE_HI_HI (a.since / 2 ^ 32)

/-! ### Conditions and the state machine (R269, R271) -/

/-- What an alarm's source says: the condition (`none` = missing), VALUE, DUR, START, SUBJECT2 and INCOMPLETE, and whether its
source block is STALE. -/
structure AlmRead where
  cond : Option Bool
  value : Nat
  dur : Nat
  start : Nat
  subject2 : Nat
  incomplete : Bool
  stale : Bool
deriving DecidableEq, Repr

/-- The byte of a block at an offset. -/
def blockByte (ws : List Nat) (o : Nat) : Nat := ws.getD (o / 4) 0 / 256 ^ (o % 4) % 256
def blockHalf (ws : List Nat) (o : Nat) : Nat := blockByte ws o + 256 * blockByte ws (o + 1)
def blockWord (ws : List Nat) (o : Nat) : Nat := blockHalf ws o + 65536 * blockHalf ws (o + 2)

/-- A tick index whose low word is given, the latest not after `n`. -/
def extendTick (n lo : Nat) : Nat :=
  let t := n / 2 ^ 32 * 2 ^ 32 + lo
  if t ≤ n then t else t - 2 ^ 32

/-- Read an alarm's source from the producer's whole block (R209, R248, R261, R263). `o` is the offset within the block. -/
def almRead (c : AlarmCfg) (n o : Nat) (bad stale : Bool) (ws : List Nat) : AlmRead :=
  let bit := (blockByte ws o).testBit c.bit
  match c.src with
  | .detector =>
    let b := 32 + (o - 32) / 16 * 16
    let fl := blockHalf ws b
    { cond := if bad || fl.testBit 3 then none else some bit, value := blockWord ws (b + 4), dur := blockWord ws (b + 12),
      start := extendTick n (blockWord ws (b + 8)), subject2 := 0, incomplete := fl.testBit 4, stale := stale }
  | .island =>
    let b := 64 + (o - 64) / 32 * 32
    let id := blockHalf ws b
    { cond := if bad || id = 0 then none else some bit, value := blockWord ws (b + 16), dur := 0, start := n, subject2 := id,
      incomplete := false, stale := stale }
  | .def_ =>
    let b := 32 + (o - 32) / 144 * 144
    { cond := if bad then none else some bit, value := blockWord ws (b + 8), dur := 0, start := n, subject2 := blockHalf ws (b + 2),
      incomplete := false, stale := stale }
  | .bit => { cond := if bad then none else some bit, value := f32Nan, dur := 0, start := n, subject2 := c.subject2,
              incomplete := false, stale := stale }

/-- The source of an alarm in an instance; `lost`: the fetch of its operand has failed, and its elements read as missing (R217). -/
def almSource (i : Inst) (it : Item) (lost : Bool) (c : AlarmCfg) : AlmRead :=
  match it.ops[c.op]? with
  | some (.result p ofs _) =>
    let r := runOf i p
    almRead c i.tick (64 * ofs + c.ofs) (r.flags.testBit 2 || r.flags.testBit 3 || lost) (r.flags.testBit 1)
      (resHeader i.tick p r ++ r.data.getD [])
  | _ => almRead c i.tick c.ofs true false []

/-- STATE codes of an entry (R276). -/
abbrev entRaise : Nat := 1
abbrev entClear : Nat := 2
abbrev entStill : Nat := 3
abbrev entLatched : Nat := 4
abbrev entAcked : Nat := 5

/-- R271's rules on a condition that is present: next STATE, ACKED, whether an acknowledge is still to be applied, entry. -/
def almRule (latch : Bool) (st : Nat) (acked ack c : Bool) : Nat × Bool × Bool × Option Nat :=
  if st = 0 then (if c then (1, false, ack, some entRaise) else (0, acked, ack, none))
  else if st = 1 then
    if c then (1, acked, ack, none)
    else if acked || ack || !latch then (0, acked || ack, false, some entClear)
    else (2, acked, ack, some entLatched)
  else (if c then 1 else 2, acked, ack, none)

/-- The acknowledge written since the previous run (R271). -/
def almAckRule (r : Nat × Bool × Bool × Option Nat) : Nat × Bool × Option Nat :=
  let (st, acked, ack, e) := r
  if !ack then (st, acked, e)
  else if st = 2 then (0, true, some entAcked)
  else if st = 1 then (1, true, e)
  else (st, acked, e)

/-- One run of an alarm on its condition: the next state, its one entry, and whether an inhibit changed (R271, R272). -/
def almRun (latch : Bool) (a : AlarmSt) (c : Option Bool) : AlarmSt × Option Nat × Bool :=
  let (st, acked, e) := almAckRule (match c with
    | some b => almRule latch a.st a.acked a.ackPending b
    | none => (a.st, a.acked, a.ackPending, none))
  let live := st ≠ 0
  let was := a.st ≠ 0
  let change : Bool := a.inhReq != a.inhibited
  let e := if change then (if a.inhReq then (if live || was then some entClear else none) else (if live then some entRaise else none))
    else if a.inhibited then none else e
  ({ a with st := st, acked := acked, ackPending := false, inhibited := a.inhReq, missing := c.isNone }, e, change)

/-! ### Entries (R276) -/

/-- The entry of an alarm's present state. -/
def State.almEntry (s : State) (k n code : Nat) (stale : Bool) (c : AlarmCfg) (a : AlarmSt) : AlmEntry :=
  let det : Bool := c.src = .detector
  let fl := (if stale then 2 else 0) + (if a.missing then 4 else 0) + (if c.latch then 8 else 0) + (if a.acked then 16 else 0) +
    (if det && a.incomplete then 32 else 0) + (if a.inhibited then 64 else 0)
  let upTo := if a.st = 1 then n else a.fellAt
  let dur := if det then roundDiv (a.dur * 10000) (s.rateAt (s.tickInst n)) else roundDiv (s.tickInst upTo - s.tickInst a.raisedAt) 100000
  { id := k, st := code, flags := fl, subject2 := a.subject2, value := a.value, dur := min dur (2 ^ 32 - 1), since := a.since }

def entryBytes (c : AlarmCfg) (e : AlmEntry) : Bytes :=
  be 2 e.id ++ be 1 c.kind ++ be 1 e.st ++ be 1 e.flags ++ be 1 c.event ++ be 2 c.subject ++ be 4 e.subject2 ++ be 4 e.value ++
    be 4 e.dur ++ be 4 0 ++ be 8 e.since

/-- What a new entry does beside its frames: a Chest record, counters, the class's vector and Snare's ALARM terms (R271, R348). -/
def entryEffects (c : AlarmCfg) (n : Nat) (e : AlmEntry) (s : State) : State :=
  let s := postAt n c.event (le 2 e.id ++ le 1 e.st ++ le 1 e.flags ++ le 8 n ++ le 4 e.value) s
  let s := if e.flags.testBit 1 then s.flag fALM_FLT_FLAGS 5 else s
  if e.st = entRaise then
    let s := (s.inc fALM_RAISE_CNT_ENTRIES).smEvent 1
    let s := match (almCfgOf s.img).vecs[c.cls]? with | some v => s.msix v | none => s
    snareTriggerAll (fun t => t = SnrTerm.alarm c.cls) causeAlarm n s
  else if e.st = entClear || e.st = entAcked then s.inc fALM_CLEAR_CNT_ENTRIES
  else s

/-- Run alarm `k` in instance `i` (R271 to R273). Answers its new entry and its repeats. -/
def runAlarm (i : Inst) (it : Item) (lost late : Bool) (k : Nat) (c : AlarmCfg) (s : State) : State × List AlmEntry × List (AlmEntry × Nat) :=
  let n := i.tick
  let r := almSource i it lost c
  let a := s.almSt k
  let (a', e, change) := almRun c.latch a r.cond
  let det : Bool := c.src = .detector
  let raised : Bool := a.st = 0 && a'.st ≠ 0
  let a' := if r.cond.isNone then a'
    else { a' with value := r.value, dur := r.dur, incomplete := r.incomplete, subject2 := r.subject2,
                   since := if det then r.start else if raised then n else a'.since,
                   raisedAt := if raised then n else a'.raisedAt }
  let a' := if a.st = 1 && a'.st ≠ 1 then { a' with fellAt := n } else a'
  let shown (x : AlarmSt) : Bool := x.st ≠ 0 && !x.inhibited
  let a' := { a' with changedAt := if shown a != shown a' then s.closeOf n else a'.changedAt }
  let reps := a.repeats.map fun x => ({ x.1 with flags := x.1.flags ||| 1 }, x.2)
  let kept := (a.repeats.map fun x => (x.1, x.2 + 1)).filter fun x => x.2 ≤ 3
  let s := if r.cond.isNone then s.flag fALM_FLT_FLAGS 6 else s
  let s := if change then postAt n 0x62 (le 8 n ++ le 2 k ++ le 1 0) (s.flag fALM_FLT_FLAGS 7) else s
  let idle (x : AlarmSt) : AlarmSt := if x.st = 0 then { x with acked := false } else x
  match e with
  | none => (s.setAlmSt k (idle { a' with repeats := kept }), [], reps)
  | some code =>
    let stale := late || r.stale
    let ent := s.almEntry k n code stale c a'
    let s := entryEffects c n ent s
    (s.setAlmSt k (idle { a' with stale := stale, repeats := kept ++ [(ent, 1)] }), [ent], reps)

/-- The alarms an ALM_POST item lists: 2 bytes each in its CONST block. With the block lost it can run none. -/
def almIds (k : KIn) : List Nat :=
  if constLost k then []
  else (List.range (min (parA k) 64)).map fun x => elemAt (constWords k) (x / 2) / 65536 ^ (x % 2) % 65536

/-- Add entries to the batch of a class and tick. -/
def addBatch (cls n : Nat) (es : List AlmEntry) (rs : List (AlmEntry × Nat)) (s : State) : State :=
  let bs := s.alm.batches
  if bs.any fun b => b.cls = cls && b.tick = n then
    s.setAlm { s.alm with batches := bs.map fun b =>
      if b.cls = cls && b.tick = n then { b with entries := b.entries ++ es, repeats := b.repeats ++ rs } else b }
  else s.setAlm { s.alm with batches := bs ++ [{ cls := cls, tick := n, entries := es, repeats := rs }] }

/-- The deadline of instance n has passed: what retires now is STALE (R209, R212). -/
def State.staleNow (s : State) (n : Nat) : Bool := s.clv.now > s.closeOf (s.nextRun n).1

/-! ### Frames (R274, R275, R278) -/

def State.prpOfs (s : State) : Nat := s.egr.prpOfs

/-- Put a class-0 frame in the port's express buffer of 8 KiB (R270). -/
def expressPush (n : Nat) (f : TxFrame) (s : State) : Option State :=
  let p := s.port n
  if (p.express.map txWords).sum + txWords f > 1024 then none else some (s.setPort n { p with express := p.express ++ [f] })

/-- The MAC address a unicast or multicast destination is sent to. -/
def macFor (static : Option Nat) (known : Option Nat) (addr : Nat) : Option Nat :=
  match static with
  | some m => some m
  | none => if isMulticast addr then some (multicastMac addr) else known

def State.almMac (s : State) (d : Nat) (c : AlmDest) : Option Nat := macFor c.mac (smFind? s.alm.macs d) c.addr

/-- The payload of an alarm frame (R275). -/
def State.almPayload (s : State) (n cls d part parts : Nat) (hb trunc : Bool) (es : List AlmEntry) : Bytes :=
  let cfg := almCfgOf s.img
  let fl := (if s.paired then 1 else 0) + (if s.authority then 2 else 0) + (if s.testOn then 4 else 0) +
    (if s.on fCLV_STS_QUAL_LOST then 8 else 0) + (if hb then 16 else 0) + (if trunc then 32 else 0)
  let src := match s.img with | some i => i.sourceId | none => 0
  let member := if s.paired then s.rd fPAIR_STS_MEMBER else 0xFF
  let body := be 2 0xD0A1 ++ be 1 1 ++ be 1 fl ++ be 4 src ++ be 8 n ++ be 8 (s.closeOf n) ++
    be 4 (n * 64 + cls * 16 + part) ++ be 1 cls ++ be 1 es.length ++ be 1 part ++ be 1 parts ++ be 1 d ++ be 1 member ++
    be 1 s.tq ++ be 1 0 ++ be 2 (44 + 32 * es.length) ++ be 2 0 ++
    (es.map fun e => match cfg.alarms[e.id]? with | some c => entryBytes c e | none => List.replicate 32 0).flatten
  body ++ be 4 (crc32c body)

/-- Entries in frames of 32. -/
def chunks32 : Nat → List AlmEntry → List (List AlmEntry)
  | 0, _ => []
  | k + 1, es => if es.isEmpty then [] else es.take 32 :: chunks32 k (es.drop 32)

/-- Build and queue one alarm frame. -/
def almFrame (n cls d part parts mac : Nat) (hb trunc : Bool) (c : AlmDest) (es : List AlmEntry) (s : State) : State :=
  let a : UdpAddr := { srcMac := (match s.img with | some i => i.srcMac | none => 0) + 64 + d, dstMac := mac, tag := c.tag, dscp := c.dscp,
                       src := s.ownAddr c.port c.addr, dst := c.addr, sport := 4850, dport := c.udpPort }
  let seq := (n * 64 + cls * 16 + part + s.prpOfs) % 65536
  let b := udpFrame a seq (s.almPayload n cls d part parts hb trunc es)
  let f : TxFrame := { bytes := if c.prp then withPrp 0xA seq b else b, sender := .gong cls n d, queued := s.up, tick := n }
  if cls = 0 && !hb then
    match expressPush c.port f s with
    | some s => s
    | none => (s.inc fALM_DROP_CNT_FRAMES).flag fALM_FLT_FLAGS 4
  else egrOffer c.port qAlarm { frame := f } s

/-- Send entries to a destination: its frames, or what stands in their place (R274, R278). -/
def almSend (n cls d : Nat) (hb trunc : Bool) (es : List AlmEntry) (s : State) : State :=
  match (almCfgOf s.img).dests[d]? with
  | none => s
  | some c =>
    let cs := if hb && es.isEmpty then [[]] else (chunks32 8 es)
    if cs.isEmpty then s
    else
      match s.almMac d c with
      | none =>
        let s := (s.inc fALM_DROP_CNT_FRAMES cs.length).flag fALM_FLT_FLAGS 2
        if s.alm.unresolved.contains d then s
        else postAt n 0x63 (le 8 n ++ le 2 0 ++ le 1 d) (s.setAlm { s.alm with unresolved := s.alm.unresolved ++ [d] })
      | some mac =>
        if !s.link c.port then (s.inc fALM_DROP_CNT_FRAMES cs.length).flag fALM_FLT_FLAGS 3
        else cs.zipIdx.foldl (fun s x =>
          almFrame n cls d (x.2 + (if hb then 8 else 0)) cs.length mac hb trunc c x.1 s) s

def routed (s : State) (d : Nat) (e : AlmEntry) : Bool :=
  match (almCfgOf s.img).alarms[e.id]? with
  | some c => c.dests.testBit d
  | none => false

/-- New entries in alarm ID order. -/
def insertEntry (e : AlmEntry) : List AlmEntry → List AlmEntry
  | [] => [e]
  | x :: xs => if e.id < x.id then e :: x :: xs else x :: insertEntry e xs

/-- The frames of one class of an instance, destination by destination (R278). -/
def sendBatch (b : AlmBatch) (s : State) : State :=
  let s := s.setAlm { s.alm with batches := s.alm.batches.filter fun x => x ≠ b,
                                 g0 := if b.cls = 0 then some (b.tick, s.closeOf b.tick) else s.alm.g0 }
  let new := b.entries.foldl (fun l e => insertEntry e l) []
  (almCfgOf s.img).dests.zipIdx.foldl (fun s x =>
    let reps := (b.repeats.filter fun e => e.2 ≤ x.1.rpt).map fun e => e.1
    almSend b.tick b.cls x.2 false false ((new ++ reps).filter (routed s x.2)) s) s

/-- The last ALM_POST item of a class of instance n has retired or been abandoned. -/
def State.almDone (s : State) (n cls : Nat) : Bool :=
  match s.inst? n with
  | none => true
  | some i => (s.items i).zipIdx.all fun x => !(x.1.unit = 0 && x.1.kernel = 0x28 && x.1.cls = cls) || itemDone (runOf i x.2)

/-- ALARM_FRAME_SEND (R278). -/
def execAlarmFrameSend (cls : Fin 4) (n : Nat) (s : State) : Out :=
  .next (match s.alm.batches.find? fun b => b.cls = cls.val && b.tick = n with
    | some b => if s.almDone n cls then sendBatch b s else s
    | none => s)

/-- ALARM_HEARTBEAT (R278): at k(n) = 0 of every HB_S-th second, by TAI seconds (log entry 26). -/
def execAlarmHeartbeat (d : Fin 8) (n : Nat) (s : State) : Out :=
  .next (match (almCfgOf s.img).dests[d.val]? with
    | none => s
    | some c =>
      let r := s.rate
      let sec := n / r
      if c.hbS = 0 || !s.ticking || n % r ≠ 0 || sec % c.hbS ≠ 0 || s.tickInst n > s.clv.now || smGet 0 s.alm.hb d > sec then s
      else
        let live := (almCfgOf s.img).alarms.zipIdx.filterMap fun x =>
          let a := s.almSt x.2
          if x.1.dests.testBit d && a.st ≠ 0 then some (s.almEntry x.2 n entStill a.stale x.1 a) else none
        let s := s.setAlm { s.alm with hb := smSet 0 s.alm.hb d (sec + 1) }
        almSend n 3 d true (live.length > 256) (live.take 256) s)

/-! ### GOOSE (R279, R280) -/

/-- BER length. -/
def berLen (n : Nat) : Bytes := if n < 128 then be 1 n else if n < 256 then be 1 0x81 ++ be 1 n else be 1 0x82 ++ be 2 n
def berTlv (t : Nat) (b : Bytes) : Bytes := be 1 t ++ berLen b.length ++ b

/-- Shortest two's complement integer of a count. -/
def berNat (n : Nat) : Bytes := be (if n < 0x80 then 1 else if n < 0x8000 then 2 else if n < 0x800000 then 3 else if n < 0x80000000 then 4 else 5) n

/-- TimeAccuracy (R279); where E is above one second the rule names no n (log entry 23). -/
def State.timeAccuracy (s : State) : Nat :=
  if s.clvState = clvUnset then 31
  else
    match s.errEst with
    | none => 31
    | some e =>
      match (List.range 25).reverse.find? fun n => e * 2 ^ n ≤ 1000000000 with
      | some n => n
      | none => s.freeVal 26 % 32

/-- A UtcTime of a TAI instant (R279). -/
def State.utcTime (s : State) (t : Nat) : Bytes :=
  let u := ((t : Int) - s.taiUtc * 1000000000).toNat
  be 4 (u / 1000000000) ++ be 3 (u % 1000000000 * 2 ^ 24 / 1000000000) ++
    be 1 (0x80 + (if s.on fCLV_STS_QUAL_LOST then 0x40 else 0) + (if s.clvState = clvLocked then 0 else 0x20) + s.timeAccuracy)

/-- A member's values: its BOOLEAN and its Quality. -/
def State.memberVal (s : State) (m : Nat × Bool × Bool) : List Nat :=
  let a := s.almSt m.1
  let q := (if a.missing then 0x4000 else if a.stale then 0xC000 else 0) + (if s.testOn then 16 else 0)
  [if a.st ≠ 0 && !a.inhibited then 1 else 0, if m.2.1 then q else 0]

def State.gooseVals (s : State) (c : GooseCfg) : List Nat := (c.members.map s.memberVal).flatten

def memberData (s : State) (m : Nat × Bool × Bool) : Bytes :=
  match s.memberVal m with
  | [b, q] => berTlv 0x83 (be 1 (if b = 1 then 0xFF else 0)) ++ (if m.2.1 then berTlv 0x84 (be 1 3 ++ be 2 q) else []) ++
      (if m.2.2 then berTlv 0x91 (s.utcTime (s.almSt m.1).changedAt) else [])
  | _ => []

/-- The frame of a control block in its present state, with its timeAllowedtoLive. -/
def State.gooseFrame (s : State) (c : GooseCfg) (g : GooseSt) (tal : Nat) : Bytes :=
  let n := (c.members.map fun m => 1 + (if m.2.1 then 1 else 0) + (if m.2.2 then 1 else 0)).sum
  let pdu := berTlv 0x61 (berTlv 0x80 c.gocb ++ berTlv 0x81 (berNat tal) ++ berTlv 0x82 c.datSet ++ berTlv 0x83 c.goId ++
    berTlv 0x84 (s.utcTime g.t) ++ berTlv 0x85 (berNat g.st) ++ berTlv 0x86 (berNat g.sq) ++
    berTlv 0x87 (be 1 (if s.testOn then 0xFF else 0)) ++ berTlv 0x88 (berNat c.confRev) ++ berTlv 0x89 (be 1 0) ++
    berTlv 0x8A (berNat n) ++ berTlv 0xAB (c.members.map (memberData s)).flatten)
  padFrame (ethFrame c.dst (Config.macBase + c.port) (some c.tag) 0x88B8 (be 2 c.appid ++ be 2 (8 + pdu.length) ++ be 4 0 ++ pdu))

def State.gooseSt (s : State) (k : Nat) : GooseSt := smGet {} s.alm.goose k
def State.setGooseSt (s : State) (k : Nat) (g : GooseSt) : State := s.setAlm { s.alm with goose := smSet {} s.alm.goose k g }

/-- stNum and sqNum wrap to 1 (R279). -/
def wrapTo1 (n : Nat) : Nat := if n + 1 < 2 ^ 32 then n + 1 else 1

def gooseClass (s : State) (c : GooseCfg) : Nat :=
  match c.members with
  | m :: _ => ((almCfgOf s.img).alarms[m.1]?.map fun a => a.cls).getD 0
  | [] => 0

/-- Hand a GOOSE frame to its path: the Gong queue for a class-0 change frame, else the alarm queue (R280). -/
def goosePush (k n : Nat) (c : GooseCfg) (express : Bool) (bytes : Bytes) (s : State) : State :=
  let f : TxFrame := { bytes := bytes, sender := .goose k, queued := s.up, tick := n }
  if !s.link c.port then (s.inc fALM_DROP_CNT_FRAMES).flag fALM_FLT_FLAGS 3
  else if express then
    match expressPush c.port f s with
    | some s => s
    | none => (s.inc fALM_DROP_CNT_FRAMES).flag fALM_FLT_FLAGS 4
  else egrOffer c.port qAlarm { frame := f } s

/-- A change of control block k at tick n (R279): stNum rises, sqNum is 0, and with authority a frame is sent at once. -/
def gooseChange (k n t : Nat) (c : GooseCfg) (s : State) : State :=
  let g := s.gooseSt k
  let g := { g with st := wrapTo1 g.st, sq := 0, data := s.gooseVals c, t := t, ival := c.t1, due := some (s.up + c.t1 * 1000000) }
  if !s.authority then s.setGooseSt k { s.gooseSt k with data := g.data, t := t, due := none }
  else
    let s := s.setGooseSt k g
    let s := (s.wr (fALM_GO_ST_STNUM k) g.st).wr (fALM_GO_SQ_SQNUM k) 0
    goosePush k n c (gooseClass s c = 0) (s.gooseFrame c g (2 * c.t1)) s

/-- The control blocks with members among `ids` whose dataset has changed. -/
def gooseCheck (ids : List Nat) (n : Nat) (s : State) : State :=
  (almCfgOf s.img).goose.zipIdx.foldl (fun s x =>
    if (x.1.members.any fun m => ids.contains m.1) && s.gooseVals x.1 ≠ (s.gooseSt x.2).data then
      gooseChange x.2 n (s.closeOf n) x.1 s else s) s

/-- GOOSE_RETRANSMIT (R279): the interval since the last frame of control block k has passed. -/
def execGooseRetransmit (k : Fin 16) (s : State) : Out :=
  .next (match (almCfgOf s.img).goose[k.val]? with
    | none => s
    | some c =>
      let g := s.gooseSt k
      match g.due with
      | none => s
      | some d =>
        if s.up < d || !s.authority then s
        else
          let iv := min (2 * g.ival) c.t0
          let g := { g with sq := wrapTo1 g.sq, ival := iv, due := some (d + iv * 1000000) }
          let s := (s.setGooseSt k g).wr (fALM_GO_SQ_SQNUM k) g.sq
          goosePush k 0 c false (s.gooseFrame c g (2 * iv)) s)

/-! ### The kernels of ALM and of events -/

/-- ALM_POST (R271, kernel 0x28). -/
def execAlmPost (n : Nat) (item : Fin 4096) (s : State) : Out :=
  .next (match s.isRunning n item 0 0x28 with
    | none => s
    | some (i, it) =>
      let k := s.kin i item it n false
      let s := applyAlmMirrors n s
      let late := s.staleNow n
      let ids := almIds k
      let (s, es, rs) := ids.foldl (fun (a : State × List AlmEntry × List (AlmEntry × Nat)) x =>
        match (almCfgOf (s.instImg i)).alarms[x]? with
        | some c =>
          let (s, e, r) := runAlarm i it ((runOf i item).fetchUe.contains c.op) late x c a.1
          (s, a.2.1 ++ e, a.2.2 ++ r)
        | none => a) (s, [], [])
      let s := addBatch it.cls n es rs s
      let s := gooseCheck ids n s
      putOut i item { data := [], miss := missIn k } s)

/-- The contact records of an ALM_PIO item's CONST block (R281), at most 16: pin, polarity, alarms. What lists no alarm fills the block up. -/
def pioRecords (ws : List Nat) : List (Nat × Bool × List Nat) :=
  (List.range (min 16 (ws.length / 10))).filterMap fun k =>
    let o := 40 * k
    let n := blockByte ws (o + 2)
    if n = 0 then none
    else some (blockByte ws o, blockByte ws (o + 1) = 1, (List.range (min n 16)).map fun x => blockHalf ws (o + 8 + 2 * x))

/-- The level a contact is driven to. -/
def contactLevel (active low : Bool) : Bool := active != low

/-- Drive the contacts to what was last computed for them (R282, R412). -/
def driveContacts (cs : List (Nat × Bool)) (s : State) : State :=
  cs.foldl (fun s c => if s.pio.getD c.1 none = some c.2 then s else setPin c.1 c.2 s) s

/-- ALM_PIO (R281, R282, kernel 0x29): contacts are computed; a module with authority drives them; class 0 is measured (R285). -/
def execAlmPio (n : Nat) (item : Fin 4096) (s : State) : Out :=
  .next (match s.isRunning n item 0 0x29 with
    | none => s
    | some (i, it) =>
      let k := s.kin i item it n false
      let cs := (if constLost k then [] else pioRecords (constWords k)).map fun x =>
        (x.1, contactLevel (x.2.2.any fun a => (s.almSt a).st ≠ 0 && !(s.almSt a).inhibited) x.2.1)
      let s := s.setAlm { s.alm with contacts := cs.foldl (fun m c => smInsert m c.1 c.2) s.alm.contacts }
      let moved := s.authority && cs.any fun c => s.pio.getD c.1 none ≠ some c.2
      let s := if s.authority then driveContacts cs s else s
      let s := if !moved || it.cls ≠ 0 then s
        else
          let lat := s.clv.now - s.closeOf n
          let u := min (lat / 100) 65535
          let s := (s.wr fALM_G0_PIO_STS_PIO_LAST u).wrMax fALM_G0_PIO_STS_PIO_MAX u
          if lat > 200000 then postAt n 0x61 (le 8 n ++ le 2 u ++ le 1 0) (s.flag fALM_FLT_FLAGS 1) else s
      putOut i item { data := [], miss := missIn k } s)

/-- EVT_POST (R219, kernel 0x2A): each flag set posts its code. A flag is bit 0 of its word, ACTIVE in a detector record; codes are one byte
each (log entry 22). -/
def execEvtPost (n : Nat) (item : Fin 4096) (s : State) : Out :=
  .next (match s.isRunning n item 0 0x2A with
    | none => s
    | some (i, it) =>
      let k := s.kin i item it n false
      let s := (firstN (min (parE k) 32) (flagWords k)).zipIdx.foldl (fun s f =>
        if !missW f.1 && f.1.testBit 0 && !constLost k then
          postAt n (blockByte (constWords k) f.2) (le 2 item.val ++ le 2 f.2) s else s) s
      putOut i item { data := [], miss := missIn k } s)

/-! ### Address resolution (R128, R274, R322, R324) -/

/-- MAC_RESOLVE (R274, R324): requests for every unicast destination without a static address, through the STEWARD queue, at start and again
every 60 s. -/
def execMacResolve (s : State) : Out :=
  let alarms := (almCfgOf s.img).dests.filterMap fun d => if d.mac.isNone && !isMulticast d.addr then some (d.port, d.addr) else none
  let outs := match s.img with
    | some i => (i.outs.map fun o => o.dests).flatten.filterMap fun d =>
        if d.mac.isNone && !isMulticast d.addr then some (d.portA, d.addr) else none
    | none => []
  .next (if s.up < s.alm.resolveAt then s
    else (alarms ++ outs).foldl (fun s x => stewFrame x.1 (resolveFrame (portMac x.1) (s.ownAddr x.1 x.2) x.2) s)
      (s.setAlm { s.alm with resolveAt := s.up + 60000000000 }))

/-- ARP_REPLY (R274, R324): the destination's MAC address becomes resolved. -/
def execArpReply (addr mac : Nat) (s : State) : Out :=
  let known := ((almCfgOf s.img).dests.zipIdx.filter fun x => x.1.addr = addr).map fun x => x.2
  let s := s.setAlm { s.alm with macs := known.foldl (fun m d => smInsert m d mac) s.alm.macs,
                                 unresolved := s.alm.unresolved.filter fun d => !known.contains d }
  let used := match s.img with | some i => i.outs.any fun o => o.dests.any fun d => d.addr = addr | none => false
  .next (if used then s.setEgr { s.egr with macs := smInsert s.egr.macs addr mac } else s)

/-- ARP_REQUEST (R128, R322): answered for the port's own addresses, and for a pair-wide address by the module with authority. -/
def execArpRequest (n : Fin 64) (target asker askMac : Nat) (s : State) : Out :=
  let pairWide := match s.img with | some i => i.srcIps.any fun x => x.1 = n.val && x.2 = target | none => false
  .next (
    if (s.portCfg n).unicast.contains target then stewFrame n (resolveReply (portMac n) target asker askMac) s
    else if pairWide && s.authority then
      stewFrame n (resolveReply (match s.img with | some i => i.srcMac | none => 0) target asker askMac) s
    else s)

end Sys2Proof.Machine
end

