-- ==== Sys2Proof/Machine/Account.lean ====
section
/-!
DEFINITION. Interchange energy accounting (R289–R309): intervals, catch-up, commits and restore, swaps and pulse outputs.
-/

namespace Sys2Proof.Machine

def State.setAcc (s : State) (a : Acc) : State := { s with acc := a }
def State.setAccM (s : State) (a : AccMram) : State := { s with mram := { s.mram with acc := a } }
def accCfgOf (i : Option Image) : AccCfg := match i with | some i => i.acc | none => {}
def State.cutSt (s : State) (c : Nat) : CutSt := s.acc.cuts.getD c {}
def State.pulseSt (s : State) (k : Nat) : PulseSt := s.acc.pulses.getD k {}

/-! ### Double precision (R297) -/

def f64Of (a : Nat) : Nat :=
  match fpDecode fp32 a with
  | .fin _ _ _ => fpRound fp64 (fpDecode fp32 a).neg (f32Q a)
  | .inf n => fpInf fp64 + fpSign fp64 n
  | .nan => fpNan fp64

def f64Add (a b : Nat) : Nat := fpAdd fp64 a b
def f64Mul (a b : Nat) : Nat := fpMul fp64 a b
def f64Div (a b : Nat) : Nat := fpDiv fp64 a b
def f64Nat (n : Nat) : Nat := fpOfInt fp64 n
def f32Of64 (a : Nat) : Nat :=
  match fpDecode fp64 a with
  | .fin _ _ _ => fpRound fp32 (fpDecode fp64 a).neg (fpToQ fp64 a)
  | .inf n => fpInf fp32 + fpSign fp32 n
  | .nan => f32Nan

/-- Import and export areas of an interval (R295). -/
def accSplit (a b dt : Nat) : Nat × Nat :=
  let d := f64Nat dt
  let two := f64Nat 2
  let half := f64Mul (f64Div (f64Add a b) two) d
  if fpLe fp64 0 a && fpLe fp64 0 b then (half, 0)
  else if fpLe fp64 a 0 && fpLe fp64 b 0 then (0, f64Mul (f64Div (fpNeg fp64 (f64Add a b)) two) d)
  else
    let pos := if fpLt fp64 a b then b else a
    let neg := fpNeg fp64 (if fpLt fp64 a b then a else b)
    let den := f64Mul two (f64Add pos neg)
    (f64Mul (f64Div (f64Mul pos pos) den) d, f64Mul (f64Div (f64Mul neg neg) den) d)

/-- Add an area, in W·ns, to an energy register in units of 2^-32 µWh (R297). -/
def addEnergy (reg area : Nat) : Nat :=
  let e := f64Div area (f64Nat 3600000)
  if fpFinite fp64 e then ((Q.ofInt reg).add ((fpToQ fp64 e).mul (Q.ofInt (2 ^ 32)))).round.toNat % 2 ^ 128
  else (reg + Config.accNonFinite e) % 2 ^ 128

/-- The estimate p_hold × Δ ÷ 3.6 × 10^6 in µWh (R300). -/
def estOf (hold : Option Nat) (dt : Nat) : Int :=
  match hold with
  | none => 0
  | some p => if fpFinite fp64 p then ((fpToQ fp64 p).mul ⟨dt, 3600000⟩).round else toSigned 64 (Config.accNonFinite p)

/-- µWh of a register. -/
def intPart (reg : Nat) : Nat := reg / 2 ^ 32

/-! ### Powers (R290, R291) -/

/-- p, q and the signed terms of a cut set from the branch powers; missing when a term is (R291). The sums are made in double
precision in the order of the terms (log entry 27). -/
def cutPower (c : CutSet) (pw : List (Nat × Nat)) : Option (Nat × Nat × List (Nat × Nat)) :=
  let ts := c.terms.map fun t =>
    let (p, q) := pw.getD t.1 (f32Nan, f32Nan)
    if t.2 then (f32Neg p, f32Neg q) else (p, q)
  if ts.any fun t => f32IsNan t.1 || f32IsNan t.2 then none
  else
    let ds := ts.map fun t => (f64Of t.1, f64Of t.2)
    some (ds.foldl (fun x t => f64Add x t.1) 0, ds.foldl (fun x t => f64Add x t.2) 0, ds)

/-- The branch vector of a run: each ACC_PREP result's P and Q in item order; an ABANDONED or FAULT result is missing. -/
def State.accVector (s : State) (i : Inst) (j : Nat) (it : Item) : List (Nat × Nat) :=
  (it.ops.zipIdx.map fun x =>
    match x.1 with
    | .result p _ _ =>
      let b := match (s.items i)[p]? with | some q => q.p1 / 65536 | none => 0
      match s.fetchOp i j x.2 i.tick false x.1 with
      | .block x => if x.miss then List.replicate b (f32Nan, f32Nan) else pairUp (firstN (2 * b) x.words)
      | _ => []
    | _ => []).flatten

/-- Every branch's powers straight from a column, PRESENT and LATE cells (R298 step 2). -/
def State.columnPowers (s : State) (cfg : AccCfg) (t : Nat) : List (Nat × Nat) :=
  match s.col? t with
  | none => []
  | some c => cfg.branches.map fun b =>
      let ph (slot k : Nat) := (s.served c slot true).1.phasors.getD k (f32Nan, f32Nan)
      powerOf b.k (ph b.vSlot b.vPh) (ph b.iSlot b.iPh)

/-! ### One cut set -/

def cutAt (c : CutSt) (t : Nat) : Option (Nat × Nat × List (Nat × Nat)) :=
  match c.vals.find? fun v => v.tick = t with
  | some v => v.val
  | none => none

/-- The last known p at a tick before the interval's end (R300). -/
def cutHold (c : CutSt) (e : Nat) : Option Nat :=
  match (c.vals.takeWhile fun v => v.tick ≠ e).reverse.find? fun v => v.val.isSome with
  | some v => v.val.map fun x => x.1
  | none => c.hold

/-- Integrate one interval whose ends are known (R295 to R297). -/
def integrateIv (absolute : Bool) (v : AccIv) (c : CutSt) : CutSt :=
  match cutAt c v.a, cutAt c v.e with
  | some (pa, qa, ta), some (pe, qe, te) =>
    let sum (l : List (Nat × Nat)) : Nat × Nat := l.foldl (fun x y => (f64Add x.1 y.1, f64Add x.2 y.2)) (0, 0)
    let (ai, ax) := if absolute then sum ((List.zip ta te).map fun t => accSplit t.1.1 t.2.1 v.dt) else accSplit pa pe v.dt
    let (ri, rx) := if absolute then sum ((List.zip ta te).map fun t => accSplit t.1.2 t.2.2 v.dt) else accSplit qa qe v.dt
    let aimp := addEnergy c.aimp ai
    let aexp := addEnergy c.aexp ax
    let up (new old : Nat) : Int := (new : Int) - old
    { c with aimp := aimp, aexp := aexp, rimp := addEnergy c.rimp ri, rexp := addEnergy c.rexp rx,
             anet := c.anet + (up (intPart aimp) (intPart c.aimp) - up (intPart aexp) (intPart c.aexp)) }
  | _, _ => c

/-- Net active energy that a run has added, in Wh (R293): the rise of AIMP less that of AEXP, rounded once. -/
def runNet (old new : CutSt) : Nat :=
  f32OfQ ⟨((new.aimp : Int) - old.aimp) - ((new.aexp : Int) - old.aexp), 2 ^ 32 * 1000000⟩

/-- p changed sign across the interval. -/
def reversal (c : CutSt) (v : AccIv) : Bool :=
  match cutAt c v.a, cutAt c v.e with
  | some (pa, _, _), some (pe, _, _) => (fpLt fp64 pa 0 && fpLt fp64 0 pe) || (fpLt fp64 0 pa && fpLt fp64 pe 0)
  | _, _ => false

/-- Finalise an interval as unaccounted (R300). -/
def finalise (v : AccIv) (c : CutSt) : CutSt :=
  { c with unacc := (c.unacc + v.dt) % 2 ^ 64, est := c.est + estOf (cutHold c v.e) v.dt, pend := c.pend.filter fun x => x ≠ v,
           flags := c.flags ||| 8 }

/-- Both ends of an interval are known; a tick that a reseat skipped is a missing end (R294). -/
def known (c : CutSt) (v : AccIv) : Bool := !v.gap && (cutAt c v.a).isSome && (cutAt c v.e).isSome

/-! ### Ticks (R294) -/

/-- Δ of the interval from `a` to `e`: the time that passed (R294). -/
def State.accDt (s : State) (a e : Nat) : Nat :=
  let step := (s.acc.steps.filter fun x => x.1 = a).foldl (fun d x => d + x.2) (0 : Int)
  ((s.tickInst e : Int) - s.tickInst a - step).toNat

/-- The intervals after tick `t` up to the one that ends at `n`. -/
def State.accIvs (s : State) (n : Nat) : Nat → Nat → List AccIv
  | 0, _ => []
  | k + 1, t =>
    if t = n then []
    else
      let (e, gap) := s.nextRun t
      { a := t, e := e, dt := s.accDt t e, gap := gap } :: State.accIvs s n k e

/-! ### The INTEGRATE run (R298) -/

/-- The state of one cut set after a run, the intervals it finalised, and whether it caught one up. -/
structure CutRun where
  c : CutSt
  lost : List AccIv
  est : Int
  caught : Nat
  missing : Bool
deriving DecidableEq, Repr

/-- While a join runs, note what an interval that ends at or before its c adds after c (R418). -/
def ledger (upTo : Option Nat) (v : AccIv) (old new : CutSt) : CutSt :=
  match upTo with
  | some c =>
    if v.e > c then new
    else
      let up (f : CutSt → Nat) : Int := (f new : Int) - f old
      { new with led := new.led ++ [(v.a, v.e, [up (fun x => x.aimp), up (fun x => x.aexp), up (fun x => x.rimp), up (fun x => x.rexp),
                                                new.anet - old.anet, new.est - old.est, up (fun x => x.unacc)])] }
  | none => new

/-- Settle one interval: integrate it, where both ends are known. -/
def settle (absolute late : Bool) (upTo : Option Nat) (r : CutRun) (v : AccIv) : CutRun :=
  if !known r.c v then r
  else
    let fl := if late then 4 else if reversal r.c v then 16 else 0
    let c := ledger upTo v r.c (integrateIv absolute v r.c)
    { r with c := { c with pend := c.pend.filter (fun x => x ≠ v), flags := c.flags ||| fl }, caught := r.caught + (if late then 1 else 0) }

/-- R298 on one cut set: `ticks` and `new` are the ticks and intervals this run registers (the last ends at n; a cut set that a swap
began does not take the first, with `swapped`), `pw` this run's powers, `due` the ticks whose catch-up this run makes with their powers,
`open_` the ticks whose catch-up is still to come, `upTo` the c of a join in progress. -/
def cutRun (cfg : CutSet) (n : Nat) (swapped : Bool) (upTo : Option Nat) (ticks : List Nat) (new : List AccIv) (pw : List (Nat × Nat)) (due : List (Nat × List (Nat × Nat))) (open_ : List Nat)
    (c : CutSt) : CutRun :=
  let before := c
  let vals := ticks.map fun t => ({ tick := t, val := if t = n then cutPower cfg pw else none } : AccVal)
  let ivs := if c.fresh && swapped then new.drop 1 else new
  let c := { c with vals := c.vals ++ vals, pend := c.pend ++ ivs, fresh := false, dnet := 0, led := if upTo.isSome then c.led else [],
                    flags := (if cfg.absolute then 32 else 0) + (if (cutPower cfg pw).isNone then 1 else 0) }
  let now := ivs.filter fun v => v.e = n
  let missing := now.any fun v => !known c v
  let r : CutRun := now.foldl (settle cfg.absolute false upTo) { c := c, lost := [], est := 0, caught := 0, missing := missing }
  -- step 2
  let fill (v : AccVal) : AccVal := match v.val, due.find? fun d => d.1 = v.tick with
    | none, some d => { v with val := cutPower cfg d.2 }
    | _, _ => v
  let r := { r with c := { r.c with vals := r.c.vals.map fill } }
  -- step 3
  let r := r.c.pend.foldl (settle cfg.absolute true upTo) r
  -- step 4
  let gone (c : CutSt) (v : AccIv) : Bool :=
    v.gap || ((cutAt c v.a).isNone && !open_.contains v.a) || ((cutAt c v.e).isNone && !open_.contains v.e)
  let lost := r.c.pend.filter (gone r.c)
  let r := lost.foldl (fun r v =>
    { r with c := ledger upTo v r.c (finalise v r.c), lost := r.lost ++ [v], est := r.est + estOf (cutHold r.c v.e) v.dt }) r
  -- what need no longer be kept
  let keep (v : AccVal) : Bool := v.tick = n || open_.contains v.tick || r.c.pend.any fun x => x.a = v.tick || x.e = v.tick
  let old := (r.c.vals.filter fun v => !keep v).filterMap fun v => v.val.map fun x => x.1
  let c := { r.c with vals := r.c.vals.filter keep, hold := match old.getLast? with | some p => some p | none => r.c.hold }
  let pq := cutPower cfg pw
  let c := { c with p := match pq with | some x => f32Of64 x.1 | none => f32Nan,
                    q := match pq with | some x => f32Of64 x.2.1 | none => f32Nan,
                    dnet := runNet before c,
                    flags := c.flags ||| (if c.pend.isEmpty then 0 else 2) }
  { r with c := c }

/-! ### Commits (R301, R302) -/

/-- A cut set as a slot holds it: pending intervals as if finalised at that tick (R301). -/
def commitCut (c : CutSt) : CutSt :=
  let f := c.pend.foldl (fun c v => finalise v c) c
  let hold := match c.vals.reverse.find? fun v => v.val.isSome with
    | some v => v.val.map fun x => x.1
    | none => c.hold
  { f with vals := [], pend := [], led := [], hold := hold, fresh := true, p := f32Nan, q := f32Nan, flags := 0, dnet := 0 }

def commitPulse (p : PulseSt) : PulseSt := { due := p.due }

def newestSlot (m : AccMram) : Option (Nat × AccSlot) :=
  (m.slots.zipIdx.filterMap fun x => x.1.bind fun sl => if sl.complete then some (x.2, sl) else none).foldl
    (fun b x => match b with | some y => if x.2.gen > y.2.gen then some x else b | none => some x) none

/-- The slot a commit uses (R302): the one after the newest complete slot or, after a write that failed or was abandoned, the one after that; never
the newest complete slot itself. -/
def State.nextSlot (s : State) : Nat :=
  let newest := (newestSlot s.mram.acc).map fun x => x.1
  let k := match s.acc.tried, newest with
    | some t, _ => (t + 1) % 8
    | none, some x => (x + 1) % 8
    | none, none => 0
  if newest = some k then (k + 1) % 8 else k

/-- The slot content of a commit made now. -/
def State.accSnap (s : State) (kind : Nat) : AccSlot :=
  { gen := s.mram.acc.lastGen + 1, tick := s.acc.lastTick.getD 0, inst := s.acc.lastInst, kind := kind,
    cuts := s.acc.cuts.map commitCut, pulses := s.acc.pulses.map commitPulse, complete := true }

/-- Begin a commit: its generation is taken and its shadow made. -/
def beginCommit (kind : Nat) (s : State) : State :=
  let sl := s.accSnap kind
  (s.setAccM { s.mram.acc with lastGen := sl.gen }).setAcc { s.acc with write := some (s.nextSlot, sl) }

/-- A commit's write ends: complete, or its read-back failed (R302). Answers with the slot's kind and tick reported. -/
def endCommit (fail : Bool) (s : State) : State :=
  match s.acc.write with
  | none => s
  | some (k, sl) =>
    let s := s.setAcc { s.acc with write := none, tried := if fail then some k else none }
    if fail then
      let s := s.setAccM { s.mram.acc with slots := s.mram.acc.slots.set k (some { sl with complete := false }) }
      let s := (s.inc fACC_COMMITF_CNT_COMMITS).flag fACC_FLT_FLAGS 3
      post 0x71 (le 1 sl.kind ++ le 1 k ++ le 2 0 ++ le 8 sl.gen ++ le 8 sl.tick) s
    else
      let s := s.setAccM { s.mram.acc with slots := s.mram.acc.slots.set k (some sl) }
      let s := ((s.inc fACC_COMMIT_CNT_COMMITS).wr fACC_COMMIT_STS_SLOT k).wr fACC_COMMIT_STS_KIND sl.kind
      let s := s.wr64 fACC_COMMIT_TICK_LO_N_LO sl.tick
      if sl.kind = 1 && s.paired then
        s.pairSend pmAccSum (be 8 sl.tick ++ (sl.cuts.map fun c => be 12 (ofSigned 96 c.anet)).flatten)
      else s

/-- ACC_COMMIT (R302). -/
def execAccCommit (fail : Bool) (s : State) : Out := .next (endCommit fail s)

/-- A commit made whole at once, after any write in progress. -/
def commitNow (kind : Nat) (s : State) : State := endCommit false (beginCommit kind (endCommit false s))

/-! ### Pulses earned (R307) -/

def regOf (c : CutSt) (r : Nat) : Nat := match r with | 0 => c.aimp | 1 => c.aexp | 2 => c.rimp | _ => c.rexp

/-- Pulse output k after a run that took its cut set from `old` to `new`. -/
def earn (cfg : PulseCfg) (rate : Nat) (old new : CutSt) (p : PulseSt) : PulseSt :=
  let a := regOf old cfg.reg
  let b := regOf new cfg.reg
  let w := cfg.weight * 1000000
  let e := intPart b / w - intPart a / w
  { p with due := min (p.due + e) 0xFFFFFFFF, earned := p.earned + e, rises := ((b - a) :: p.rises).take rate }

/-! ### Zero (R496) -/

/-- Set cut set `c` to 0, with its pulses' DUE. -/
def zeroCut (cfg : AccCfg) (c : Nat) (s : State) : State :=
  let x := s.cutSt c
  let z := { x with aimp := 0, aexp := 0, rimp := 0, rexp := 0, anet := 0, est := 0, unacc := 0, down := 0, pend := [] }
  let s := s.setAcc { s.acc with cuts := s.acc.cuts.set c z }
  cfg.pulses.zipIdx.foldl (fun s p =>
    if p.1.cut = c then s.setAcc { s.acc with pulses := s.acc.pulses.set p.2 { s.pulseSt p.2 with due := 0 } } else s) s

def zeroCuts (cfg : AccCfg) (sel : Nat) (s : State) : State :=
  if sel = 0xFFFF then (List.range cfg.cuts.length).foldl (fun s c => zeroCut cfg c s) s else zeroCut cfg sel s

/-- The zero applies after instance m's run: the ZERO commit, then the zero, then its record. -/
def accZero (cfg : AccCfg) (sel m : Nat) (s : State) : State :=
  let s := beginCommit 4 (endCommit false s)
  let gen := s.mram.acc.lastGen
  let s := s.setAcc { s.acc with write := s.acc.write.map fun w => (w.1, { w.2 with zero := some (sel, m) }) }
  let s := zeroCuts cfg sel (endCommit false s)
  postAt m 0x75 (le 2 sel ++ le 2 0 ++ le 8 m ++ le 8 gen) s

/-! ### INTEGRATE (R292, R293, R298) -/

/-- The result's entry of a cut set (R293). -/
def cutEntry (c : CutSt) : List Nat := [c.p, c.q, c.dnet, c.flags + 65536 * min c.pend.length 33]

/-- One run of INTEGRATE for tick n with the given branch powers. -/
def integrateRun (cfg : AccCfg) (n : Nat) (pw : List (Nat × Nat)) (s : State) : State :=
  let start := match s.acc.lastReg with
    | some t => some t
    | none => match s.acc.first with | some f => if f = n then none else some f | none => none
  -- a run that comes after a later tick's (R213) only makes its own tick's powers known
  let after : Bool := match s.acc.lastReg with | some t => n ≤ t | none => false
  let new := match start with | some t => if after then [] else s.accIvs n 65536 t | none => []
  let seen := if s.acc.lastReg.isNone then (match start with | some t => [t] | none => [n]) else []
  let ticks := seen ++ new.map fun v => v.e
  let queue := s.acc.queue ++ ticks
  let top := match s.acc.lastReg with | some t => max t n | none => n
  let recent := s.recentTicks top (s.horizon - 1)
  let own := if after then [(n, pw)] else []
  let due := own ++ (queue.filter fun t => !recent.contains t).map fun t => (t, s.columnPowers cfg t)
  let open_ := queue.filter fun t => recent.contains t
  let olds := s.acc.cuts
  let upTo := match s.pair.join with | some j => if n > j.c && s.rd fPAIR_STS_ROLE = 2 then some j.c else none | none => none
  let runs := cfg.cuts.zipIdx.map fun x => cutRun x.1 n s.acc.lastReg.isSome upTo ticks new pw due open_ (olds.getD x.2 {})
  let cuts := runs.map fun r => r.c
  let pulses := cfg.pulses.zipIdx.map fun x =>
    earn x.1 s.rate (olds.getD x.1.cut {}) (cuts.getD x.1.cut {}) (s.pulseSt x.2)
  let s := s.setAcc { s.acc with cuts := cuts, pulses := pulses, lastTick := some top, lastInst := s.tickInst top, lastReg := some top, queue := open_ }
  let s := s.wrB fACC_STS_RUNNING true
  let s := if pulses.any fun p => p.due ≥ 2 then s.flag fACC_FLT_FLAGS 9 else s
  let s := if pulses.any fun p => p.due = 0xFFFFFFFF then s.flag fACC_FLT_FLAGS 10 else s
  let s := if runs.any fun r => r.missing then s.flag fACC_FLT_FLAGS 0 else s
  let caught := (runs.map fun r => r.caught).sum
  let s := if caught = 0 then s else (s.inc fACC_CATCH_CNT_INTERVALS caught).flag fACC_FLT_FLAGS 2
  let hit := runs.zipIdx.filter fun r => !r.1.lost.isEmpty
  match hit with
  | [] => s
  | r :: _ =>
    let lost := (hit.map fun r => r.1.lost).flatten
    let longest := (lost.map fun v => v.dt).foldl max 0
    let est := hit.foldl (fun e r => e + r.1.est) (0 : Int)
    let s := (s.inc fACC_MISS_CNT_INTERVALS lost.length).flag fACC_FLT_FLAGS 1
    postAt n 0x70 (le 8 n ++ le 2 hit.length ++ le 2 r.2 ++ le 4 lost.length ++ le 8 longest ++ le 8 (ofSigned 64 est)) s

/-- ZERO commands whose run this is: started at least 2 ms after acceptance, or named by a mirror. -/
def zerosDue (cfg : AccCfg) (n startUp : Nat) (s : State) : State :=
  let due (z : Nat × Nat × Option Nat) : Bool := match z.2.2 with | some m => m ≤ n | none => z.2.1 ≤ startUp
  let hit := s.acc.zero.filter due
  let s := s.setAcc { s.acc with zero := s.acc.zero.filter fun z => !due z }
  hit.foldl (fun s z => accZero cfg z.1 n s) s

/-! ### Swaps (R305) -/

def cutTerms (cfg : AccCfg) (c : Nat) : Option (CutSet × List (Option AccBranch)) :=
  (cfg.cuts[c]?).map fun x => (x, x.terms.map fun t => cfg.branches[t.1]?)

/-- R305: cut set c is the same in both images. -/
def cutKept (old new : AccCfg) (c : Nat) : Bool := (cutTerms old c).isSome && cutTerms old c = cutTerms new c

def w96 (v : Int) : Bytes := le 12 (ofSigned 96 v)

/-- The final totals of every cut set that ends at swap tick k, from their states at its last run. -/
def accFinals (old new : AccCfg) (k : Nat) (cuts : List CutSt) (s : State) : State :=
  (List.range old.cuts.length).foldl (fun s c =>
    if cutKept old new c then s
    else
      let x := cuts.getD c {}
      postAt k 0x73 (le 2 c ++ le 2 0 ++ le 8 k ++ w96 (intPart x.aimp) ++ w96 (intPart x.aexp) ++ w96 x.anet ++ w96 (intPart x.rimp) ++
        w96 (intPart x.rexp) ++ w96 x.est) (s.flag fACC_FLT_FLAGS 8)) s

/-- An INTEGRATE item of the table before the swap has still to run. -/
def State.accBehind (s : State) : Bool :=
  s.live.any fun i => i.old && (s.items i).zipIdx.any fun x => x.1.unit = 4 && !itemDone (runOf i x.2)

/-- What has gone on under the old table ends, once no INTEGRATE item of it has still to run. -/
def accEnd (s : State) : State :=
  match s.acc.ending with
  | some (k, cuts) =>
    if s.accBehind then s
    else accFinals (accCfgOf s.oldImg) (accCfgOf s.img) k cuts (s.setAcc { s.acc with ending := none })
  | none => s

/-- Accounting at the activation of instance k of a swap (R302, R305). -/
def accSwap (old new : AccCfg) (k : Nat) (s : State) : State :=
  let ended := s.acc.cuts
  let cuts := (List.range new.cuts.length).map fun c => if cutKept old new c then s.cutSt c else {}
  let pulses := new.pulses.zipIdx.map fun p =>
    if old.pulses[p.2]? = some p.1 && cutKept old new p.1.cut then s.pulseSt p.2 else {}
  accEnd (s.setAcc { s.acc with cuts := cuts, pulses := pulses, ending := some (k, ended) })

/-- A run of the table before a swap: a cut set that both images define alike goes on in the new image's place, every other one apart (R216,
R305). Answers the run's cut sets as the old image numbers them. -/
def oldIntegrate (n : Nat) (pw : List (Nat × Nat)) (s : State) : State × List CutSt :=
  let old := accCfgOf s.oldImg
  let new := accCfgOf s.img
  let (k, apart) := s.acc.ending.getD (n + 1, [])
  let kept (c : Nat) : Bool := cutKept old new c
  let t := integrateRun old n pw
    (s.setAcc { s.acc with cuts := (List.range old.cuts.length).map fun c => if kept c then s.cutSt c else apart.getD c {},
                           pulses := (List.range old.pulses.length).map fun p => s.pulseSt p })
  let same (p : Nat) : Bool := match new.pulses[p]? with | some c => old.pulses[p]? = some c && kept c.cut | none => false
  (t.setAcc { t.acc with cuts := (List.range new.cuts.length).map fun c => if kept c then t.cutSt c else s.cutSt c,
                         pulses := (List.range new.pulses.length).map fun p => if same p then t.pulseSt p else s.pulseSt p,
                         ending := some (k, t.acc.cuts) }, t.acc.cuts)

/-- INTEGRATE (R298, unit 4 function 0x01). -/
def execIntegrate (n : Nat) (item : Fin 4096) (s : State) : Out :=
  .next (match s.isRunning n item 4 1 with
    | none => s
    | some (i, it) =>
      let cfg := accCfgOf (s.instImg i)
      let pw := s.accVector i item it
      let miss := missIn (s.kin i item it n false)
      let startUp := s.up - (s.clv.now - (runOf i item).startAt)
      let (s, cuts) := if i.old then oldIntegrate n pw s else
        let t := integrateRun cfg n pw s
        (t, t.acc.cuts)
      let s := State.eccWrite 7 0 s
      let s := accEnd (putOut i item { data := (cuts.map cutEntry).flatten, miss := miss } s)
      let s := if n % s.rateAt (s.tickInst n) = 0 then beginCommit 1 (endCommit false s) else s
      zerosDue cfg n startUp s)

/-! ### Power fail and restore (R303, R304) -/

/-- Within 10 µs of the declaration: the mark, and the run in progress is abandoned (R303). -/
def accMark (s : State) : State :=
  s.setAccM { s.mram.acc with mark := some (s.clv.now, s.acc.lastTick.getD 0, s.mram.acc.lastGen + 1) }

/-- The POWER_FAIL commit: the slot after a PERIODIC write in progress, which is abandoned, or after the newest (R302). -/
def accPowerFailCommit (s : State) : State :=
  let s := match s.acc.write with
    | some (k, sl) =>
      let s := s.setAccM { s.mram.acc with slots := s.mram.acc.slots.set k (some { sl with complete := false }) }
      s.setAcc { s.acc with write := none, tried := some k }
    | none => s
  let gen := match s.mram.acc.mark with | some m => m.2.2 | none => s.mram.acc.lastGen + 1
  let sl := { s.accSnap 2 with gen := gen }
  (s.setAccM { s.mram.acc with lastGen := max s.mram.acc.lastGen gen }).setAcc { s.acc with write := some (s.nextSlot, sl) } |> endCommit false

def zeroSaved (sel : Nat) (x : CutSt × Nat) : CutSt :=
  if sel = 0xFFFF || sel = x.2 then
    { x.1 with aimp := 0, aexp := 0, rimp := 0, rexp := 0, anet := 0, est := 0, unacc := 0, down := 0 }
  else x.1

/-- The restore of S0 (R304). The cut sets are taken by number; DOWN and the record wait for the first tick (log entry 27). -/
def accRestore (s : State) : State :=
  let s := s.setAcc {}
  match newestSlot s.mram.acc with
  | none => post 0x72 (le 1 3 ++ le 1 0 ++ le 1 0 ++ le 1 0 ++ le 8 0 ++ le 8 0 ++ le 8 0 ++ le 8 0)
      ((s.wr fACC_RESTORE_STS_CASE 3).flag fACC_FLT_FLAGS 6)
  | some (k, sl) =>
    let (case_, td) : Nat × Option Nat := match s.mram.acc.mark with
      | some m => if sl.kind = 2 && sl.gen = m.2.2 then (0, some m.1) else if m.2.2 > sl.gen then (1, some m.1) else (2, none)
      | none => (2, none)
    let lost := match td with | some t => t - sl.inst | none => 0
    let cuts := match sl.zero with | some z => sl.cuts.zipIdx.map (zeroSaved z.1) | none => sl.cuts
    let cuts := cuts.map fun c =>
      if td.isSome then { c with unacc := c.unacc + lost, est := c.est + estOf c.hold lost, hold := none } else { c with hold := none }
    let s := s.setAcc { s.acc with cuts := cuts, pulses := sl.pulses,
                                   restore := some ⟨case_, k, sl.kind, sl.gen, sl.tick, lost, td.getD sl.inst⟩ }
    let s := ((s.wr fACC_RESTORE_STS_SLOT k).wr fACC_RESTORE_STS_KIND sl.kind).wr fACC_RESTORE_STS_CASE case_
    let s := (s.wrB fACC_STS_RESTORED true).wr fACC_COMMIT_STS_SLOT k
    let s := (s.wr fACC_COMMIT_STS_KIND sl.kind).wr64 fACC_COMMIT_TICK_LO_N_LO sl.tick
    if case_ = 1 then s.flag fACC_FLT_FLAGS 4 else if case_ = 2 then s.flag fACC_FLT_FLAGS 5 else s

/-- The first tick after a restart ends DOWN (R304). -/
def accFirstTick (n : Nat) (s : State) : State :=
  if s.acc.first.isSome then s
  else
    let s := s.setAcc { s.acc with first := some n }
    match s.acc.restore with
    | none => s
    | some r =>
      let down := s.tickInst n - r.since
      let s := s.setAcc { s.acc with restore := none, cuts := s.acc.cuts.map fun x => { x with down := x.down + down } }
      postAt n 0x72 (le 1 r.case_ ++ le 1 r.slot ++ le 1 r.kind ++ le 1 0 ++ le 8 r.gen ++ le 8 r.q ++ le 8 r.lost ++ le 8 down) s

/-! ### Memory errors (R306) -/

/-- ACC_SRAM_UE (R306): a corrected error counts; after an uncorrectable one the cut set is reloaded from the newest complete slot. Where there is
none, it starts at 0 and nothing is added (log entry 27). -/
def execAccSramUe (e : EccErr) (c : Fin 512) (s : State) : Out :=
  .next (match e with
  | .corrected k => s.inc fACC_ECC_CNT_CE k
  | .lost =>
    if s.acc.cuts.length ≤ c.val then s
    else
      let (gen, saved, dur) := match newestSlot s.mram.acc with
        | some (_, sl) =>
          let x := sl.cuts.getD c {}
          let x := match sl.zero with | some z => zeroSaved z.1 (x, c.val) | none => x
          (sl.gen, x, s.acc.lastInst - sl.inst)
        | none => (0, {}, 0)
      let old := s.cutSt c
      let x := { saved with unacc := saved.unacc + dur, est := saved.est + estOf saved.hold dur, fresh := false,
                            vals := old.vals.map fun v => { v with val := none } }
      let s := s.setAcc { s.acc with cuts := s.acc.cuts.set c x }
      post 0x74 (le 2 c.val ++ le 2 0 ++ le 8 (s.acc.lastTick.getD 0) ++ le 8 gen ++ le 8 dur)
        ((s.flag fACC_FLT_FLAGS 7).inc fACC_ECC_CNT_UE))

/-! ### Pulse outputs (R308) -/

/-- The width of the pulse that starts now, in ns (1 µs resolution, rounded down; log entry 12). -/
def pulseWidth (due wSet wMin weight rise : Nat) : Nat :=
  let set := wSet * 1000000
  let mn := wMin * 1000000
  if due ≥ 2 then mn
  else if rise = 0 then set
  else
    let pm := weight * 1000000 * 2 ^ 32 * 1000000000 / rise
    if pm ≥ 2 * set then set else max (pm / 2) mn / 1000 * 1000

def setPulse (k : Nat) (p : PulseSt) (s : State) : State := s.setAcc { s.acc with pulses := s.acc.pulses.set k p }

/-- PULSE_START (R308). -/
def execPulseStart (k : Fin 8) (s : State) : Out :=
  .next (match (accCfgOf s.img).pulses[k.val]? with
    | none => s
    | some c =>
      let p := s.pulseSt k
      if s.acc.pulses.length ≤ k.val || !s.on (fACC_PLS_CFG_OWNED k) || !s.authority || p.due = 0 || p.pulseEnd.isSome || s.clv.now < p.gapEnd then s
      else
        let w := pulseWidth p.due (s.rd (fACC_PLS_CFG_W_SET_MS k)) (s.rd (fACC_PLS_CFG_W_MIN_MS k)) c.weight p.rises.sum
        let s := setPulse k { p with due := p.due - 1, started := p.started + 1, pulseEnd := some (s.clv.now + w), gapEnd := s.clv.now + 2 * w, width := w } s
        let s := ((s.incWrap (fACC_PLS_STS_PULSES k)).wr (fACC_PLS_STS_WIDTH_MS k) (w / 1000000)).wrB (fACC_PLS_STS_LEVEL k) true
        setPin c.pin (!c.low) s)

/-- PULSE_END (R308): the width has elapsed. -/
def execPulseEnd (k : Fin 8) (s : State) : Out :=
  .next (match (accCfgOf s.img).pulses[k.val]? with
    | none => s
    | some c =>
      let p := s.pulseSt k
      match p.pulseEnd with
      | none => s
      | some t =>
        if s.clv.now < t then s
        else setPin c.pin c.low ((setPulse k { p with pulseEnd := none } s).wrB (fACC_PLS_STS_LEVEL k) false))

/-- A write to ACC_SEL latches a cut set (R311). -/
def accSelect (v : Nat) (s : State) : State :=
  let s := s.wr fACC_SEL_CUT v
  let k := s.rd fACC_SEL_CUT
  let c := s.cutSt k
  let n := s.acc.lastTick.getD 0
  let s := (s.wr fACC_TICK_LO_N_LO n).wr fACC_TICK_HI_N_HI (n / 2 ^ 32)
  let s := s.wrB fACC_CS_STS_MODE (((accCfgOf s.img).cuts[k]?.map fun x => x.absolute).getD false)
  let s := (s.wrB fACC_CS_STS_PMISS (c.p = f32Nan)).wr fACC_CS_STS_PENDING (min c.pend.length 33)
  let s := (s.wr fACC_CS_P_P c.p).wr fACC_CS_Q_Q c.q
  let s := (s.wr fACC_UNACC_LO_LO c.unacc).wr fACC_UNACC_HI_HI (c.unacc / 2 ^ 32)
  let s := (s.wr fACC_DOWN_LO_LO c.down).wr fACC_DOWN_HI_HI (c.down / 2 ^ 32)
  let put (f : Nat → Fld) (v : Nat) (s : State) : State := (List.range 3).foldl (fun s w => s.wr (f w) (v / 2 ^ (32 * w))) s
  let s := put fACC_AIMP_W_AIMP (intPart c.aimp) (put fACC_AEXP_W_AEXP (intPart c.aexp) s)
  let s := put fACC_RIMP_W_RIMP (intPart c.rimp) (put fACC_REXP_W_REXP (intPart c.rexp) s)
  put fACC_ANET_W_ANET (ofSigned 96 c.anet) (put fACC_EST_W_EST (ofSigned 96 c.est) s)

end Sys2Proof.Machine
end

