-- ==== Sys2Proof/Machine/Counters.lean ====
section
/-!
DEFINITION. Counters and their snapshot (R502–R508), the trace ring (R509–R512) and the perturbation unit (R513–R515).
-/

namespace Sys2Proof.Machine

/-! ### Counters -/

def counterOf (i : Option Image) (j : Nat) : CounterCfg := match i with | some i => i.counters.getD j {} | none => {}

/-- A counter's value. The spec lists no accesses that DRAM traffic events count, so such a counter reads free (log entry 32). -/
def State.ctrVal (s : State) (j : Nat) : Nat :=
  let e := (counterOf s.img j).event
  let chained := j ≠ 0 && (counterOf s.img (j - 1)).chain
  if !chained && 0x368 ≤ e && e ≤ 0x36A then s.freeVal (0x1000 + j) % 2 ^ 48 else smGet 0 s.pmc.ctrs j

/-- NS32 of the present instant (R85). -/
def State.ns32 (s : State) : Nat := s.clv.now % 2 ^ 32

/-- The close of C(n) copies the tick-class counters, unless the snapshot is held (R505). -/
def pmcSnapshot (n : Nat) (s : State) : State :=
  if s.on fPMC_CTL_SNAP_HOLD then s.inc fPMC_SNAP_MISS_CNT_CLOSES
  else
    let s := (s.wr fPMC_SNAP_TICK_LO_N_LO n).wr (liveHi fPMC_SNAP_TICK_LO_N_LO) (n / 2 ^ 32)
    let s := (List.range 512).foldl (fun s j =>
      let v := if (counterOf s.img j).port then 0 else s.ctrVal j
      (s.wr (fPMC_SNAP_LO_V_LO j) v).wr (fPMC_SNAP_HI_V_HI j) (v / 2 ^ 32)) s
    s.nextFree

/-- A write to PMC_PORT_SEL samples a counter, and its partner where it is chained (R506). -/
def pmcSelect (v : Nat) (s : State) : State :=
  let s := s.wr fPMC_PORT_SEL_CTR v
  let j := s.rd fPMC_PORT_SEL_CTR
  let c := counterOf s.img j
  let x := s.ctrVal j
  let s := ((s.wr fPMC_PORT_LO_V_LO x).wr fPMC_PORT_HI_V_HI (x / 2 ^ 32)).wrB fPMC_PORT_HI_VALID c.port
  let s := (s.wrB fPMC_PORT_HI_CHAINED c.chain).wr fPMC_PORT_TIME_NS32 s.ns32
  let y := s.ctrVal (j + 1)
  let s := if c.chain then (s.wr fPMC_PORT_X_LO_X_LO y).wr fPMC_PORT_X_HI_X_HI (y / 2 ^ 32) else s
  s.nextFree

/-- PMC_PORT_SEL (R506). -/
def execPmcPortSel (j : Fin 512) (s : State) : Out := .next (pmcSelect j s)

/-- At a swap a counter whose record, or whose partner's, changes restarts at 0 (R502). -/
def pmcSwap (old new : Option Image) (s : State) : State :=
  let same (j : Nat) : Bool := counterOf old j = counterOf new j
  let keep (j : Nat) : Bool :=
    same j && (!((counterOf new j).chain || (counterOf old j).chain) || same (j + 1)) &&
      (j = 0 || !((counterOf new (j - 1)).chain || (counterOf old (j - 1)).chain) || same (j - 1))
  s.setPmc { s.pmc with ctrs := s.pmc.ctrs.filter fun c => keep c.1 }

/-- The occupancy that comparator t samples (R508). -/
def State.occupancy (s : State) (kind index : Nat) : Nat :=
  match kind with
  | 1 => rxUsed (s.port index)
  | 2 => txUsed (s.port index)
  | 3 => (s.queue index).length
  | 4 => s.rd fTMB_STS_READY
  | 5 => ((s.ports.getD index {}).express.length) + ((smGet {} s.egr.ports index).queues.map fun q => q.2.length).sum
  | 6 => s.chs.queue.length
  | 7 => s.snr.queue.length
  | 8 => s.pgh.notices.length
  | _ => 0

def State.threshHolds (s : State) (t : Nat) : Bool :=
  s.rd (fPMC_THR_CFG_KIND t) ≠ 0 && s.occupancy (s.rd (fPMC_THR_CFG_KIND t)) (s.rd (fPMC_THR_CFG_INDEX t)) > s.rd (fPMC_THR_CFG_N t)

/-- The range that an INDEX of a KIND may have. -/
def thrIndexOk (kind index : Nat) : Bool :=
  if kind ∈ [1, 2, 5] then index < 64 else if kind = 3 then index < 32 else kind ≤ 8

/-! ### The trace ring -/

/-- TRACE_ENTRY_WRITE (R510): the oldest tagged frame that has ended gives its entry. -/
def execTraceEntryWrite (s : State) : Out :=
  .next (match s.pmc.opened.find? fun e => e.ended with
    | none => s
    | some e =>
      let wr := s.rd fPMC_TRACE_STS_WR
      let ring := s.pmc.ring ++ [traceWords wr e]
      (s.setPmc { s.pmc with opened := s.pmc.opened.erase e, ring := ring.drop (ring.length - 4096) }).wr fPMC_TRACE_STS_WR (wr + 1))

/-- What a write of SEQ latches: 0 held, 1 overwritten, 2 not yet written; and the words. -/
def State.traceAt (s : State) (seq : Nat) : Nat × List Nat :=
  let wr := s.rd fPMC_TRACE_STS_WR
  if seq ≥ wr then (2, [])
  else if seq + s.pmc.ring.length < wr then (1, [])
  else (0, s.pmc.ring.getD (seq + s.pmc.ring.length - wr) [])

/-- A write to PMC_TRACE_SEL (R512); `ue`: the entry has an uncorrectable error. -/
def traceSelect (seq : Nat) (ue : Bool) (s : State) : State :=
  let s := s.wr fPMC_TRACE_SEL_SEQ seq
  let (w, ws) := s.traceAt (s.rd fPMC_TRACE_SEL_SEQ)
  let ws := if ue then [] else ws
  let s := ((s.wrB fPMC_TRACE_RD_STS_VALID (w = 0 && !ue)).wrB fPMC_TRACE_RD_STS_GONE (w = 1)).wrB fPMC_TRACE_RD_STS_NOT_YET (w = 2)
  (List.range 16).foldl (fun s k => s.wr (fPMC_TRACE_DATA_DATA k) (ws.getD k 0)) (s.wrB fPMC_TRACE_RD_STS_FAULT (w = 0 && ue))

/-- PMC_TRACE_SEL (R512). -/
def execPmcTraceSel (seq : Nat) (ue : Bool) (s : State) : Out := .next (traceSelect seq ue s)

/-! ### The perturbation unit -/

def State.setTst (s : State) (t : Tst) : State := { s with tst := t }

/-- TST_STS as the actions stand. -/
def tstSync (s : State) : State :=
  let b (k : Nat) (x : Bool) : Nat := if x then 2 ^ (k - 1) else 0
  let stall : Bool := match s.tst.arm with | some a => a.on | none => false
  let act := b 1 (s.action 1) + b 2 (s.action 2 && s.tst.bpOn) + b 3 stall + b 4 (s.action 4) + b 5 (s.action 5) +
    b 6 (s.action 6 && s.rd fTST_ECC_STS_REMAIN ≠ 0) + b 7 (s.action 7)
  (s.wr fTST_STS_ACTIVE act).wrB fTST_STS_EN (s.on fTST_CTL_EN)

/-- Bring the lanes' registers up to date. -/
def lanesSync (s : State) : State := (List.range 32).foldl (fun s p => laneSync p s) s

/-- Start and stop actions after TST_CTL has changed from `was` (R514). -/
def tstApply (was : Nat → Bool) (s : State) : State :=
  let s := if s.action 3 then s else lanesSync (s.setTst { s.tst with arm := none })
  let s := if s.action 2 then (if was 2 then s else s.setTst { s.tst with bpStart := s.up, bpOn := true })
    else s.setTst { s.tst with bpOn := false }
  let s := if s.action 5 && !was 5 then s.setTst { s.tst with closeFrom := s.clv.now } else s
  let s := if s.action 6 then (if was 6 then s else s.wr fTST_ECC_STS_REMAIN (s.rd fTST_ECC_CFG_COUNT)) else s.wr fTST_ECC_STS_REMAIN 0
  tstSync s

/-- A write to TST_CTL (R513): EN is set only at SERVICE level; every write is recorded. -/
def tstCtl (v : Nat) (s : State) : State :=
  let was := s.action
  let old := s.rd fTST_CTL_EN + 2 * s.rd fTST_CTL_ACT_EN
  let refused := v % 2 = 1 && s.rd fBUR_BENCH_STS_LEVEL ≠ 2
  let s := if refused then s.flag fTST_FLT_FLAGS 0 else tstApply was ((s.wr fTST_CTL_EN v).wr fTST_CTL_ACT_EN (v / 2))
  postModeChange rTST_CTL old (s.rd fTST_CTL_EN + 2 * s.rd fTST_CTL_ACT_EN) s

/-- EN clears, and with it every action (R513, R515). -/
def tstOff (s : State) : State :=
  let was := s.action
  tstApply was (s.wr fTST_CTL_EN 0)

/-- The session has dropped below SERVICE (R395, R513). -/
def tstDisable (s : State) : State := if s.on fTST_CTL_EN then (tstOff s).flag fTST_FLT_FLAGS 1 else s

/-- A write that changes one bit of TST_CTL. -/
def tstBit (b : Nat) (on : Bool) (s : State) : State :=
  let v := s.rd fTST_CTL_EN + 2 * s.rd fTST_CTL_ACT_EN
  tstCtl (clrBit b v + (if on then 2 ^ b else 0)) s

/-- TST_EN (R513). -/
def execTstEn (on : Bool) (s : State) : Out := .next (tstBit 0 on s)
/-- PORT_DELAY (R514): its effect is INGRESS_PARSE's. -/
def execPortDelay (on : Bool) (s : State) : Out := .next (tstBit 1 on s)
/-- EGR_BP (R514): its effect is that of the offers to a queue. -/
def execEgrBp (on : Bool) (s : State) : Out := .next (tstBit 2 on s)
/-- LANE_STALL (R514). -/
def execLaneStall (on : Bool) (s : State) : Out := .next (tstBit 3 on s)
/-- CDC_STRETCH (R514): only the time of handshakes changes, which the model leaves out (log entry 9). -/
def execCdcStretch (on : Bool) (s : State) : Out := .next (tstBit 4 on s)
/-- CLOSE_SHIFT (R514): its effect is that of TICK_INSTANT. -/
def execCloseShift (on : Bool) (s : State) : Out := .next (tstBit 5 on s)
/-- ECC_INJECT (R514, R515): COUNT corruptions are to be made, each by a write to the target. -/
def execEccInject (on : Bool) (s : State) : Out := .next (tstBit 6 on s)
/-- TIME_SKEW (R514): its effect is that of reads. -/
def execTimeSkew (on : Bool) (s : State) : Out := .next (tstBit 7 on s)

/-- A write of TST_STALL_CFG.ARM 1 (R514, R515). -/
def stallArm (s : State) : State :=
  let busy : Bool := match s.tst.arm with | some a => a.on | none => false
  if !s.action 3 || busy then s
  else s.setTst { s.tst with arm := some { mask := s.rd fTST_STALL_MASK_LANES, ofsUs := s.rd fTST_STALL_OFS_OFS_US,
                                           durUs := s.rd fTST_STALL_DUR_DUR_US, rep := s.on fTST_STALL_CFG_REPEAT } }

/-- STALL_ARM (R514). -/
def execStallArm (s : State) : Out := .next (stallArm s)

/-- At t(n) an arm that waits for a tick instant takes it (R514). -/
def stallTick (n : Nat) (s : State) : State :=
  match s.tst.arm with
  | some a => if a.start.isNone then s.setTst { s.tst with arm := some { a with start := some (s.tickInst n + a.ofsUs * 1000) } } else s
  | none => s

/-- LANE_STALL_START (R514): the armed lanes stop. -/
def execLaneStallStart (s : State) : Out :=
  .next (match s.tst.arm with
    | some a =>
      match a.start with
      | some t =>
        if a.on || s.clv.now < t then s
        else
          let s := s.setTst { s.tst with arm := some { a with on := true } }
          let s := (List.range 32).foldl (fun s p => if a.mask.testBit p then s.flag (fLANE_FLT_FLAGS p) 3 else s) s
          tstSync (lanesSync s)
      | none => s
    | none => s)

/-- LANE_STALL_END (R514): running items resume; under REPEAT the arm waits for the next tick instant. -/
def execLaneStallEnd (s : State) : Out :=
  .next (match s.tst.arm with
    | some a =>
      match a.start with
      | some t =>
        if !a.on || s.clv.now < t + a.durUs * 1000 then s
        else
          let arm := if a.rep then some { a with on := false, start := none } else none
          tstSync (lanesSync (s.setTst { s.tst with arm := arm }))
      | none => s
    | none => s)

/-- EGR_BP_PHASE (R514): the ON phase ends after ON_US, and the next begins at the period's end; PERIOD_US 0 is always on. -/
def execEgrBpPhase (s : State) : Out :=
  .next (
    let per := s.rd fTST_EBP_PER_PERIOD_US * 1000
    if !s.action 2 then s
    else if per = 0 then tstSync (s.setTst { s.tst with bpOn := true })
    else if s.up ≥ s.tst.bpStart + per then
      tstSync (s.setTst { s.tst with bpStart := s.tst.bpStart + per, bpOn := true })
    else if s.tst.bpOn && s.up ≥ s.tst.bpStart + s.rd fTST_EBP_CFG_ON_US * 1000 then tstSync (s.setTst { s.tst with bpOn := false })
    else s)

end Sys2Proof.Machine
end

