-- ==== Sys2Proof/Machine/Bureau.lean ====
section
/-!
DEFINITION. The Bureau (R375–R395): the key tree, uses, invalidation, the journal, the stream key cache, verification of 90-5 frames
(R133, R144–R147), tamper and zeroize, and the Bench's levels.
-/

namespace Sys2Proof.Machine

/-! ### Entries -/

def State.setBur (s : State) (b : Bur) : State := { s with bur := b }
def State.setBurM (s : State) (b : BurMram) : State := { s with mram := { s.mram with bur := b } }
def State.key (s : State) (i : Nat) : KeyEnt := smGet {} s.bur.ents i
def State.setKey (s : State) (i : Nat) (k : KeyEnt) : State := s.setBur { s.bur with ents := smSet {} s.bur.ents i k }

/-- The children of the entries in `l`. -/
def childrenOf (ents : List (Nat × KeyEnt)) (l : List Nat) : List Nat :=
  (ents.filter fun e => e.2.st ≠ keyFree && e.2.typ ≠ typRoot && l.contains e.2.parent).map fun e => e.1

/-- The descendants of an entry: the tree is at most 4 deep (R375). -/
def State.descendants (s : State) (i : Nat) : List Nat :=
  let a := childrenOf s.bur.ents [i]
  let b := childrenOf s.bur.ents a
  a ++ b ++ childrenOf s.bur.ents b

/-- BUR_STS and BUR_WORK_STS as the entries stand. -/
def burSync (s : State) : State :=
  let n (p : KeyEnt → Bool) : Nat := (s.bur.ents.filter fun e => p e.2).length
  let s := ((s.wr fBUR_STS_VALID (n fun k => k.st = keyValid || k.st = keyPending)).wr fBUR_STS_INVALID (n fun k => k.st = keyInvalid)).wr
    fBUR_STS_ROOTS (n fun k => k.typ = typRoot && k.st ≠ keyFree)
  match s.bur.work with
  | some w =>
    let k := s.key w
    ((s.wrB fBUR_WORK_STS_VALID (keyUsable k)).wrB fBUR_WORK_STS_PENDING (k.st = keyPending)).wr fBUR_WORK_STS_ENTRY w
  | none => ((s.wr fBUR_WORK_STS_VALID 0).wr fBUR_WORK_STS_PENDING 0).wr fBUR_WORK_STS_ENTRY 0

def cacheDrop (i : Nat) (s : State) : State := s.setBur { s.bur with cache := s.bur.cache.filter fun x => x ≠ i }

/-! ### The journal (R385 to R387) -/

/-- An entry as the journal keeps it: uses less those reserved; what is PENDING is recorded INVALID (R381, R383). -/
def journalEnt (order : Nat) (k : KeyEnt) : KeyEnt :=
  let k := { k with uses := k.uses.map fun u => u - k.reserved, reserved := 0 }
  if k.st = keyPending then { k with st := keyInvalid, material := 0, since := order } else k

/-- An update: the whole state goes to the slot that does not hold the newest, one generation higher; its header is the commit point. -/
def journalWrite (s : State) : State :=
  let slot := 1 - s.bur.slot
  let gen := s.bur.gen + 1
  let j : Journal := { gen := gen, complete := true, ents := s.bur.ents.map fun e => (e.1, journalEnt (s.bur.order + 1) e.2) }
  let s := s.setBurM { s.mram.bur with slots := s.mram.bur.slots.set slot (some j) }
  let s := s.setBur { s.bur with slot := slot, gen := gen }
  (s.wr64 fBUR_GEN_LO_G_LO gen).wr fBUR_JRN_STS_SLOT slot

/-- Lower the MRAM copy of an entry's uses in place in the newest slot (R381). -/
def journalUses (i u : Nat) (s : State) : State :=
  match s.mram.bur.slots.getD s.bur.slot none with
  | some j =>
    let ents := j.ents.map fun e => if e.1 = i then (i, { e.2 with uses := some u }) else e
    s.setBurM { s.mram.bur with slots := s.mram.bur.slots.set s.bur.slot (some { j with ents := ents }) }
  | none => s

/-! ### Uses (R381) -/

/-- Spend one use of a WORK key. -/
def spendUse (i : Nat) (s : State) : State :=
  let k := s.key i
  match k.uses with
  | none => s
  | some u =>
    let (r, s) := if k.reserved = 0 then (min 256 u, journalUses i (u - min 256 u) s) else (k.reserved, s)
    let k := { k with uses := some (u - 1), reserved := r - 1 }
    if u ≤ 1 then
      let s := s.setKey i { k with st := if k.st = keyValid then keySpent else k.st }
      burSync (post 0x94 (le 2 i ++ le 2 0 ++ le 4 k.keyId) ((cacheDrop i s).flag fBUR_FLT_FLAGS 2))
    else s.setKey i k

/-! ### Bench levels (R394, R395) -/

/-- The session falls back to VIEW. -/
def benchView (s : State) : State :=
  let was := s.rd fBUR_BENCH_STS_LEVEL
  let s := { (s.wr fBUR_BENCH_STS_LEVEL 0) with bench := { s.bench with key := none } }
  if was = 2 then tstDisable s else s

/-! ### Invalidation (R383, R384) -/

/-- These entries become INVALID now, at one instant: material gone, cache dropped, KEY_WORK cleared where it holds one, and a Bench session
that one of them admitted falls back to VIEW. -/
def invalidateNow (l : List Nat) (s : State) : State :=
  let s := s.setBur { s.bur with order := s.bur.order + 1 }
  let s := l.foldl (fun s i =>
    let k := s.key i
    if k.st = keyFree || k.st = keyInvalid then s
    else cacheDrop i (s.setKey i { k with st := keyInvalid, material := 0, reserved := 0, since := s.bur.order })) s
  let s := match s.bur.work with
    | some w => if l.contains w then s.setBur { s.bur with work := none } else s
    | none => s
  let s := match s.bench.key with
    | some b => if l.contains b then benchView s else s
    | none => s
  let s := match s.pair.key with
    | some p => if l.contains p then linkLost 3 s else s
    | none => s
  burSync s

/-- The effect tick b of an invalidation accepted now: the first whose instant is strictly after (R383); 0 while no ticks are processed, where
the spec names none (DESIGN CHOICE, log entry 48). -/
def State.effectTick (s : State) : Nat := if s.ticking then s.succTick s.curTick else 0

/-- An invalidation is accepted: the entry and its descendants are PENDING until t(b); before ticking, INVALID at once. -/
def invalidate (i : Nat) (s : State) : State :=
  let ds := (s.descendants i).filter fun d => (s.key d).st ≠ keyInvalid
  let b := s.effectTick
  let t := s.tickInst b
  let mark (s : State) (j : Nat) : State := s.setKey j { s.key j with st := keyPending }
  let s := (i :: ds).foldl mark s
  let s := if s.ticking then s.setBur { s.bur with effect := some (match s.bur.effect with | some e => min e t | none => t) } else s
  let s := journalWrite s
  let s := if s.ticking then s else invalidateNow (i :: ds) s
  burSync (post 0x92 (le 2 i ++ le 2 ds.length ++ le 4 0 ++ le 8 b) s)

/-- The instant t(b) of the invalidations accepted has come. -/
def State.keyDue (s : State) (t : Nat) : Bool := match s.bur.effect with | some b => b ≤ t | none => false

/-- t(n): once it is t(b) or later, every PENDING entry becomes INVALID (R383). -/
def keyEffect (n : Nat) (s : State) : State :=
  if s.keyDue (s.tickInst n) then
    invalidateNow ((s.bur.ents.filter fun e => e.2.st = keyPending).map fun e => e.1) (s.setBur { s.bur with effect := none })
  else s

/-! ### Start (R382, R386) -/

/-- An entry as it comes back from the journal: one whose MRAM copy has no uses left is SPENT. -/
def restoredEnt (k : KeyEnt) : KeyEnt := if k.uses = some 0 && k.st = keyValid then { k with st := keySpent } else k

/-- Restore the entries from the newest complete slot. -/
def burRestore (s : State) : State :=
  let slots := (List.range 2).filterMap fun i => (s.mram.bur.slots.getD i none).map fun j => (i, j)
  let done := slots.filter fun x => x.2.complete
  let top := slots.foldl (fun m x => max m x.2.gen) 0
  match done with
  | [] =>
    let s := (s.setBur {}).wr fBUR_JRN_STS_RESTORE 2
    burSync (post 0x95 (le 1 2 ++ le 1 0 ++ le 2 0 ++ le 8 0) (s.flag fBUR_FLT_FLAGS 4))
  | x :: xs =>
    let best := xs.foldl (fun a b => if b.2.gen > a.2.gen then b else a) x
    let older : Bool := best.2.gen < top
    let ents := best.2.ents.map fun e => (e.1, restoredEnt e.2)
    let s := s.setBur { ents := ents, gen := best.2.gen, slot := best.1, order := ents.foldl (fun m e => max m e.2.since) 0 }
    let s := ((s.wr fBUR_JRN_STS_RESTORE (if older then 1 else 0)).wr fBUR_JRN_STS_SLOT best.1).wr64 fBUR_GEN_LO_G_LO best.2.gen
    let s := if older then s.flag fBUR_FLT_FLAGS 5 else s
    burSync (post 0x95 (le 1 (if older then 1 else 0) ++ le 1 best.1 ++ le 2 0 ++ le 8 best.2.gen) s)

/-- Entries with EXP_RESET expire with their descendants, as one update (R382). -/
def burExpire (s : State) : State :=
  let l := (s.bur.ents.filter fun e => e.2.expReset && e.2.st ≠ keyInvalid && e.2.st ≠ keyFree).map fun e => e.1
  if l.isEmpty then s
  else
    let all := l ++ (l.map s.descendants).flatten
    let s := l.foldl (fun s i => post 0x93 (le 2 i ++ le 2 0 ++ le 4 (s.key i).keyId) s) s
    journalWrite (invalidateNow all (s.flag fBUR_FLT_FLAGS 3))

/-! ### Tamper (R392, R393) -/

/-- Every DOMAIN entry and every descendant of one. -/
def State.domainTree (s : State) : List Nat := (s.bur.ents.filter fun e => e.2.typ ≠ typRoot && e.2.st ≠ keyFree).map fun e => e.1

def zeroize (s : State) : State :=
  let l := s.domainTree.filter fun i => (s.key i).st ≠ keyInvalid
  let s := invalidateNow l (s.setBur { s.bur with work := none, cache := [], journalDue := true })
  let s := s.setBurM { s.mram.bur with zeroMark := true }
  post 0x97 (le 2 l.length ++ le 2 0) ((burSync s).flag fBUR_FLT_FLAGS 1)

/-- A tamper event whose edge has this NS32. -/
def tamperEvent (ns32 : Nat) (s : State) : State :=
  let ev := satAdd 16 s.mram.bur.tamper 1
  let s := s.setBurM { s.mram.bur with tamper := ev }
  let s := ((s.wr fBUR_TAMPER_STS_EVENTS ev).wr fBUR_TAMPER_TIME_NS32 ns32).flag fBUR_FLT_FLAGS 0
  let act := s.rd fBUR_TAMPER_CFG_ACTION
  let s := post 0x96 (le 2 ev ++ le 1 act ++ le 1 0 ++ le 4 ns32) s
  if act = 1 then zeroize s else s

/-- TAMPER (R392, R393): TAMPER_N, seen at `raw` to change, holds its level for `hold` ns; past the glitch filter a fall is a tamper event. -/
def execTamper (low : Bool) (raw hold : Nat) (s : State) : Out :=
  let g := s.rd fBUR_TAMPER_CFG_GLITCH
  .next (
    if !s.on fBUR_TAMPER_CFG_EN || s.on fBUR_TAMPER_STS_LEVEL = low || !passesFilter g hold then s
    else
      let s := s.wrB fBUR_TAMPER_STS_LEVEL low
      if low then tamperEvent (atContact g raw % 2 ^ 32) s else s)

/-- Step 3 of R393: the zeroized state goes to both slots, and the mark is cleared. -/
def zeroizeJournal (s : State) : State :=
  let s := journalWrite (journalWrite s)
  (s.setBur { s.bur with journalDue := false }).setBurM { s.mram.bur with zeroMark := false }

/-- ZEROIZE_JOURNAL (R393). -/
def execZeroizeJournal (s : State) : Out := .next (if s.bur.journalDue then zeroizeJournal s else s)

/-- Before the restore of R386, a start that finds the zeroize mark zeroizes both slots (R393). -/
def zeroizeAtStart (s : State) : State :=
  if !s.mram.bur.zeroMark then s
  else
    let gone (k : KeyEnt) : KeyEnt := if k.typ = typRoot then k else { k with st := keyInvalid, material := 0 }
    let top := s.mram.bur.slots.foldl (fun m j => match j with | some j => if j.complete then max m j.gen else m | none => m) 0
    let ents := ((s.mram.bur.slots.findSome? fun j => j.bind fun j => if j.complete && j.gen = top then some j.ents else none).getD []).map
      fun e => (e.1, gone e.2)
    s.setBurM { s.mram.bur with slots := [some { gen := top + 1, complete := true, ents := ents },
                                          some { gen := top + 2, complete := true, ents := ents }], zeroMark := false }

/-- An entry's copy in the newest journal slot; FREE where the slot has none. -/
def State.journalCopy (s : State) (i : Nat) : KeyEnt :=
  match s.mram.bur.slots.getD s.bur.slot none with
  | some j => smGet {} j.ents i
  | none => {}

/-- BUR_SRAM_UE (R388): a corrected error is counted. On an uncorrectable one the entry is reloaded from the newest slot, which holds a
PENDING entry as INVALID; where that copy fails too, the entry and its descendants are INVALID, and the change is journaled. -/
def execBurSramUe (e : EccErr) (entry : Fin 1024) (copyBad : Bool) (s : State) : Out :=
  .next (match e with
    | .corrected n => s.inc fBUR_ECC_CNT_CE n
    | .lost =>
      let s := (s.inc fBUR_ECC_CNT_UE (if copyBad then 2 else 1)).flag fBUR_FLT_FLAGS 6
      let copy := restoredEnt (s.journalCopy entry)
      let s := post 0x9A (le 2 entry ++ le 1 (if copyBad then 0 else 1) ++ le 1 0) s
      if copyBad then journalWrite (invalidateNow (entry.val :: s.descendants entry) s)
      else if copy.st = keyInvalid then burSync ((invalidateNow [entry.val] s).setKey entry copy)
      else burSync ((if keyUsable copy then s else cacheDrop entry s).setKey entry copy))

/-! ### The stream key cache and verification (R145 to R147, R389) -/

/-- The entry with a KeyID: a hit moves it to the front of the cache; a miss is fetched from the Bureau. -/
def keyLookup (keyId fetchNs : Nat) (s : State) : Option Nat × State :=
  match s.bur.cache.find? fun i => (s.key i).keyId = keyId with
  | some i => (some i, (s.setBur { s.bur with cache := i :: s.bur.cache.filter fun x => x ≠ i }).inc fBUR_CACHE_HIT_CNT_HITS)
  | none =>
    let s := s.inc fBUR_CACHE_MISS_CNT_MISSES
    match s.bur.ents.find? fun e => e.2.keyId = keyId && e.2.st ≠ keyFree with
    | some (i, k) =>
      if fetchNs > 4000 then (none, s)
      else if keyUsable k && k.typ = typWork && k.purpose = purStream then (some i, s.setBur { s.bur with cache := (i :: s.bur.cache).take 64 })
      else (some i, s)
    | none => (none, s)

/-- The ALG that a signature algorithm needs: HMAC (1 to 3) or GMAC (4, 5); and its length in bytes. -/
def svAlgFits (alg keyAlg : Nat) : Bool := if alg ≤ 3 then keyAlg = 1 else keyAlg = 2 || keyAlg = 3
def svTagLen (alg : Nat) : Nat := match alg with | 1 => 10 | 2 => 16 | 3 => 32 | 4 => 8 | _ => 16

/-- The MAC over the SPDU, cut to the algorithm's length. -/
def svMac (k : KeyEnt) (f : SvFrame) : Bytes :=
  let m := f.signed.map BitVec.toNat
  (if f.alg ≤ 3 then be 32 (Config.hmac k.material m) else be 16 (Config.gmac k.alg k.material [] m)).take (svTagLen f.alg)

/-- R145: `none` where the frame passes, otherwise the reason; reason 0 is a duplicate SPDU. Answers also whether the key's
invalidation was pending (R147). -/
def svVerify (f : SvFrame) (groups : List Nat) (stream : Nat) (s : State) : Option Nat × Bool × State :=
  if f.alg = 0 || f.alg > 5 then (some dropAuthNone, false, s)
  else
    match keyLookup f.keyId f.fetchNs s with
    | (none, s) => (some dropUnknownKey, false, s)
    | (some i, s) =>
      let k := s.key i
      if k.typ ≠ typWork || k.purpose ≠ purStream || groups.any (fun g => g ≠ k.parent) then (some dropWrongGroup, false, s)
      else if !keyUsable k || !svAlgFits f.alg k.alg || (k.st = keyPending && s.keyDue s.clv.now) then (some dropKeyInvalid, false, s)
      else if svMac k f ≠ f.tag then (some dropBadMac, false, s)
      else
        let id := i * 65536 + stream
        let last := smGet 0 s.ing.spdu id
        if f.spdu = last then (some 0, false, s)
        else if f.spdu < last then (some dropReplay, false, s)
        else
          let s := s.setIng { s.ing with spdu := smSet 0 s.ing.spdu id f.spdu }
          (none, k.st = keyPending, spendUse i s)

/-! ### ROUTED_SV_FRAME (R133, R135, R144) -/

/-- SRC_ERR of a member's quality: good, questionable, test, invalid. -/
def svErr (q : Nat) : Nat :=
  if q ≥ 4 then 2
  else match q with | 0 => 0 | 1 => 3 | 3 => 1 | _ => Config.svReserved % 4

def memberWords (m : SvMember) : Nat := match m.kind with | .polar => 2 | .rect => 2 | _ => 1

/-- The members' values with their kinds, in dataset order. -/
def svMembers : List SvMember → List Nat → List (SvKind × Nat × Nat)
  | [], _ => []
  | m :: ms, ws => (m.kind, ws.getD 0 0, ws.getD 1 0) :: svMembers ms (ws.drop (memberWords m))

/-- A phasor pair as stored: rectangular, quiet NaN where not finite (R139); each part of a rectangular one is stored as it is. -/
def svPhasor (k : SvKind) (a b : Nat) : Nat × Nat :=
  match k with
  | .polar =>
    if !f32Finite a || !f32Finite b then (f32Nan, f32Nan)
    else
      let (sn, cs) := qSinCos (f32Q b)
      (siQ ((f32Q a).mul cs), siQ ((f32Q a).mul sn))
  | _ => (siFloat a, siFloat b)

/-- The frame rate that an ASDU gives: its smpRate where it carries one, else the stream's configuration in the image (R170). -/
def State.svRate (s : State) (b : Binding) (a : SvAsdu) : Option Nat :=
  match a.smpRate with
  | some r => some r
  | none => (s.stream b.stream).cfg.bind cfgRate

/-- The record of a bound ASDU. R143 leaves three points open, settled here (DESIGN CHOICE, log entry 48): without a frequency or ROCOF member
the element is the quiet NaN; SRC_ERR is the largest of the members' codes, a test bit coming before the validity; and every 90-5 record has
TQ_UNKNOWN, refrTm's own quality being no message time quality. -/
def svRecord (s : State) (j : ParseJob) (b : Binding) (ms : List SvMember) (a : SvAsdu) (auth revoked : Bool) (gen srcTime : Nat) : SlotRecord :=
  let vs := svMembers ms a.values
  let ph := vs.filterMap fun v => match v.1 with
    | .polar => some (svPhasor .polar v.2.1 v.2.2)
    | .rect => some (svPhasor .rect v.2.1 v.2.2)
    | _ => none
  let of (p : SvKind) : List Nat := vs.filterMap fun v => if v.1 = p then some v.2.1 else none
  let an := (of .analog).map siFloat
  let fr := ((of .freq).map siFloat).headD f32Nan
  let df := ((of .rocof).map siFloat).headD f32Nan
  let err := (a.quals.map svErr).foldl max 0
  { slot := b.slot, srcfmt := 4, cfgGen := gen,
    qual := s.ingQual auth b.slot (fr :: df :: an ++ flatPhasors ph) + (if revoked then 2 ^ 24 else 0) + 2 ^ 22 + err * 2 ^ 9 +
      (if a.smpSynch = 0 then 2 ^ 8 else 0),
    freq := fr, srcTime := srcTime, ingTime := j.stamp, rocof := df, stat := 0, path := j.port + 64 * j.lan,
    phasors := ph, analogs := an, digitals := (of .digital).map fun w => w % 65536, inRate := s.svRate b a }

/-- The members a binding lists, where it is a 90-5 one with this svID; and its confRev. -/
def svBinding (b : Binding) (svid : Bytes) : Option (Nat × List SvMember) :=
  match b.fmt with
  | .sv id rev ms => if id = svid then some (rev, ms) else none
  | _ => none

/-- An ASDU and a binding that its svID matches, with the binding's confRev and members. -/
abbrev SvPair := SvAsdu × Binding × Nat × List SvMember

def State.svPairs (s : State) (j : ParseJob) (f : SvFrame) : List SvPair :=
  let bs := s.bindings.filter fun b => j.slots.contains b.slot
  ((f.asdus.take 8).map fun a => bs.filterMap fun b => (svBinding b a.svid).map fun x => (a, b, x.1, x.2)).flatten

/-- The ASDU's dataset has the members that the binding gives. -/
def svLengths (p : SvPair) : Bool :=
  (p.2.2.2.map memberWords).sum = p.1.values.length && (p.2.2.2.filter fun m => m.quality).length = p.1.quals.length

/-- Step 5 of R547 for a 90-5 frame. -/
def svCheck (j : ParseJob) (f : SvFrame) (pairs : List SvPair) : Option Nat :=
  if j.trunc then some dropTrunc
  else if f.berError || !f.encrypted && !pairs.all svLengths then some dropAsn1
  else if f.encrypted then some dropEncrypted
  else if pairs.any fun p => p.1.confRev ≠ p.2.2.1 then some dropCfg
  else if pairs.any fun p => p.1.refrTm.isNone then some dropNoTime
  else none

/-- Steps 6 and 7: the frame's signature, then its time. -/
def svAccept (src : IngSrc) (j : ParseJob) (f : SvFrame) (pairs : List SvPair) (s : State) : State :=
  let groups := (pairs.filter fun p => p.2.1.auth).map fun p => p.2.1.keyGroup
  let auth := !groups.isEmpty
  let (why, revoked, s) := if auth then svVerify f groups ((pairs.head?.map fun p => p.2.1.stream).getD 0) s else (none, false, s)
  match why with
  | some 0 => loseJob src (s.inc fING_DUPSPDU_CNT_FRAMES)
  | some r => dropJob src j r false s
  | none =>
    let time (a : SvAsdu) : Nat := s.taiOfUtc (a.refrTm.getD 0 / 1000000000) (a.refrTm.getD 0 % 1000000000) j.stamp
    if pairs.any fun p => s.future (time p.1) j.stamp then dropJob src j dropFuture false s
    else
      let recs := pairs.map fun p => svRecord s j p.2.1 p.2.2.2 p.1 auth revoked (s.stream p.2.1.stream).gen (time p.1)
      setJob src { j with recs := some recs } s

/-- ROUTED_SV_FRAME (R133, R145, R547): the frame that port n's parser has opened as 90-5, decoded. An encrypted frame whose svIDs cannot be
read is bound to no slot, and is dropped with ENCRYPTED (DESIGN CHOICE, log entry 48). -/
def execRoutedSvFrame (n : Fin 64) (f : SvFrame) (s : State) : Out :=
  .next (match (s.port n).job with
    | some j =>
      let src := IngSrc.port n
      if j.kind ≠ .routedSv || j.recs.isSome then s
      else if f.si ≠ 0xA2 then unboundHead n s
      else if f.idError then dropJob src { j with slots := [] } (if j.trunc then dropTrunc else dropAsn1) false s
      else
        let pairs := s.svPairs j f
        let j := { j with slots := pairs.map fun p => p.2.1.slot }
        if pairs.isEmpty then (if f.encrypted && f.asdus.isEmpty then dropJob src j dropEncrypted false s else unboundHead n s)
        else match svCheck j f pairs with
          | some r => dropJob src j r false s
          | none =>
            let excess : Bool := f.asdus.length > 8
            svAccept src { j with excess := excess } f pairs (jobExcess src j excess s)
    | none => s)

/-! ### Inspection (R398) -/

/-- A write to BUR_ENT_SEL latches the entry. -/
def burSelect (v : Nat) (s : State) : State :=
  let s := s.wr fBUR_ENT_SEL_ENTRY v
  let i := s.rd fBUR_ENT_SEL_ENTRY
  let k := s.key i
  let s := ((s.wr fBUR_ENT_STS_STATE k.st).wr fBUR_ENT_STS_TYPE k.typ).wr fBUR_ENT_STS_PURPOSE k.purpose
  let s := ((s.wr fBUR_ENT_STS_ALG k.alg).wrB fBUR_ENT_STS_EXP_RESET k.expReset).wrB fBUR_ENT_STS_LIMITED k.uses.isSome
  let s := ((s.wrB fBUR_ENT_STS_CACHED (s.bur.cache.contains i)).wr fBUR_ENT_STS_BLVL k.blvl).wr fBUR_ENT_STS_PARENT k.parent
  (s.wr fBUR_ENT_ID_KEY_ID k.keyId).wr fBUR_ENT_USES_USES_LEFT (k.uses.getD 0xFFFFFFFF)

end Sys2Proof.Machine
end

