-- ==== Sys2Proof/Machine/Outputs.lean ====
section
/-!
DEFINITION. Output streams (R313–R334): packing data blocks and STAT words, composing data, amendment, configuration and header
frames, the composers' waits, and C37.118 commands. A packing item's E names its stream and its A the block, or the amendment
position (log entry 29).
-/

namespace Sys2Proof.Machine

/-! ### Reports (R317, R318) -/

/-- Taps K of the filter for D. -/
def firTaps (d : Nat) : Nat :=
  match d with
  | 2 => 15 | 3 => 21 | 4 => 27 | 5 => 33 | 6 => 39 | 8 => 51
  | _ => 63

/-- D of a stream at base rate r. -/
def decimOf (o : OutStream) (r : Nat) : Nat := max 1 (r / max 1 o.rate)

/-- G: the delay of the filter in ticks; 0 under PICK or where D = 1. -/
def delayOf (o : OutStream) (r : Nat) : Nat :=
  let d := decimOf o r
  if o.decim = 2 && d > 1 then (firTaps d - 1) / 2 else 0

/-- The tick that instance n's frame of a stream reports. -/
def State.reportOf (s : State) (o : OutStream) (n : Nat) : Nat :=
  (s.recentTicks n (delayOf o (s.rateAt (s.tickInst n)) + 1)).getLast?.getD n

def State.isReport (s : State) (o : OutStream) (m : Nat) : Bool :=
  let r := s.rateAt (s.tickInst m)
  m % r % decimOf o r = 0

/-! ### Conversion (R320) -/

/-- An element's 16-bit integer: rounded to nearest even, clamped, 0x8000 where it is missing; and whether it was clamped. -/
def packInt (w : Nat) (q : Q) : Nat × Bool :=
  match fpDecode fp32 w with
  | .nan => (0x8000, false)
  | .inf neg => (ofSigned 16 (if neg then -32767 else 32767), true)
  | .fin _ _ _ =>
    let i := q.round
    if i > 32767 then (32767, true) else if i < -32767 then (ofSigned 16 (-32767), true) else (ofSigned 16 i, false)

/-- A value over a unit of `u` × 10^-5. -/
def packUnit (u : Int) (w : Nat) : Nat × Bool :=
  if u = 0 then (if f32IsNan w then (0x8000, false) else (Config.packUnitZero w % 65536, false))
  else packInt w (((f32Q w).mul ⟨100000, 1⟩).div (Q.ofInt u))

def packF (w : Nat) : Bytes := be 4 (if f32IsNan w then f32Nan else w)

/-- A phasor under DFMT. -/
def packPhasor (dfmt unit : Nat) (p : Nat × Nat) : Bytes × Nat :=
  let miss := f32IsNan p.1 || f32IsNan p.2
  let polar := dfmt.testBit 0
  let a := if miss then f32Nan else if polar then f32Mag p.1 p.2 else p.1
  let b := if miss then f32Nan else if polar then f32Arg p.1 p.2 else p.2
  if dfmt.testBit 1 then (packF a ++ packF b, 0)
  else
    let x := packUnit (unit % 2 ^ 24 : Nat) a
    let y := if polar then packInt b ((f32Q b).mul ⟨10000, 1⟩) else packUnit (unit % 2 ^ 24 : Nat) b
    (be 2 x.1 ++ be 2 y.1, (if x.2 then 1 else 0) + (if y.2 then 1 else 0))

/-- The elements of a block: phasors, FREQ, ROCOF, analog values, digital words. -/
structure BlockVals where
  phasors : List (Nat × Nat)
  freq : Nat
  rocof : Nat
  analogs : List Nat
  digitals : List Nat
deriving DecidableEq, Repr

/-- A block's data after its STAT word, and how many of its values were clamped. -/
def packBlock (dfmt : Nat) (b : OutBlock) (v : BlockVals) : Bytes × Nat :=
  let ph := (List.range b.nph).map fun k => packPhasor dfmt (b.units.getD k 0) (v.phasors.getD k (f32Nan, f32Nan))
  let fr : List (Bytes × Nat) :=
    if dfmt.testBit 3 then [(packF v.freq ++ packF v.rocof, 0)]
    else
      let f := packInt v.freq (((f32Q v.freq).sub (Q.ofInt b.fnom)).mul ⟨1000, 1⟩)
      let d := packInt v.rocof ((f32Q v.rocof).mul ⟨100, 1⟩)
      [(be 2 f.1 ++ be 2 d.1, (if f.2 then 1 else 0) + (if d.2 then 1 else 0))]
  let an := (List.range b.nan).map fun k =>
    let w := v.analogs.getD k f32Nan
    if dfmt.testBit 2 then (packF w, 0)
    else
      let x := packUnit (toSigned 24 (b.units.getD (b.nph + k) 0)) w
      (be 2 x.1, if x.2 then 1 else 0)
  let dg := (List.range b.ndg).map fun k => (be 2 (v.digitals.getD k 0 % 65536), 0)
  let all := ph ++ fr ++ an ++ dg
  ((all.map fun x => x.1).flatten, (all.map fun x => x.2).sum)

/-- Count clamped values (R320). -/
def countSat (k : Nat) (s : State) : State := if k = 0 then s else (s.inc fEGR_SAT_CNT_ELEMENTS k).flag fEGR_FLT_FLAGS 6

/-! ### Packing items -/

def cellsOps (ops : List Fetched) : List (Nat × Nat × List FetchedCell) :=
  ops.filterMap fun f => match f with
    | .cells _ _ _ pf pn cs => some (pf, pn, cs)
    | .block _ => none

def blockWords (ops : List Fetched) : List Nat :=
  (ops.map fun f => match f with
    | .cells _ _ _ _ _ _ => []
    | .block b => b.words).flatten

/-- A slot's elements for a block, from the CELLS operand that carries the slot. -/
def slotVals (slot : Nat) (ops : List Fetched) : Option BlockVals :=
  (cellsOps ops).findSome? fun o =>
    (o.2.2.find? fun c => c.got.slot = slot).map fun c =>
      { phasors := recPhasors o.1 o.2.1 c, freq := c.got.freq, rocof := c.got.rocof, analogs := allocated c.an c.got.analogs,
        digitals := allocated c.dg c.got.digitals }

def missVals : BlockVals := { phasors := [], freq := f32Nan, rocof := f32Nan, analogs := [], digitals := [] }

/-- Elements in the order phasors, FREQ, ROCOF, analog values, digital words (log entry 29). -/
def wordVals (b : OutBlock) (ws : List Nat) : BlockVals :=
  let ph := pairUp (firstN (2 * b.nph) ws)
  let rest := ws.drop (2 * b.nph)
  { phasors := ph, freq := elemAt rest 0, rocof := elemAt rest 1, analogs := (List.range b.nan).map fun k => elemAt rest (2 + k),
    digitals := (List.range b.ndg).map fun k => rest.getD (2 + b.nan + k) 0 }

def restVals (v : BlockVals) : List Nat := [v.freq, v.rocof] ++ v.analogs ++ v.digitals

def State.savePast (s : State) (p : OutPast) : State := s.setEgr { s.egr with past := s.egr.past ++ [p] }

/-- Take what was kept of tick m for a stream's block, and drop what is older. -/
def State.takePast (s : State) (stream block m : Nat) : Option (List Nat) × State :=
  let hit (p : OutPast) : Bool := p.stream = stream && p.block = block
  ((s.egr.past.find? fun p => hit p && p.tick = m).map fun p => p.vals,
   s.setEgr { s.egr with past := s.egr.past.filter fun p => !(hit p && p.tick ≤ m) })

/-- OUT_PACK_2011 and OUT_PACK_2005 (R219, R320): the block's data without STAT. A filtered stream takes its phasors from OUT_DECIM
and its other elements as they were at the report tick. -/
def outPack (code n j : Nat) (s : State) : State :=
  match s.isRunning n j 0 code with
  | none => s
  | some (i, it) =>
    let k := s.kin i j it n false
    let st := parE k
    match (s.instImg i).bind fun im => im.outs[st]? with
    | none => putOut i j (outOf k []) s
    | some o =>
      match o.blocks[parA k]? with
      | none => putOut i j (outOf k []) s
      | some b =>
        let now := match b.slot with
          | some sl => (slotVals sl k.ops).getD missVals
          | none => wordVals b (blockWords k.ops)
        let m := s.reportOf o n
        let (v, s) := if m = n then (now, s)
          else
            let filtered := pairUp (firstN (2 * b.nph) (blockWords k.ops))
            let now := match b.slot with
              | some _ => now
              | none => wordVals b (List.replicate (2 * b.nph) 0 ++ (blockWords k.ops).drop (2 * b.nph))
            let s := s.savePast { stream := st, block := parA k, tick := n, vals := restVals now }
            let (old, s) := s.takePast st (parA k) m
            let v := wordVals b (List.replicate (2 * b.nph) f32Nan ++ (old.getD (restVals missVals)))
            ({ v with phasors := filtered }, s)
        let (bytes, sat) := packBlock o.dfmt b v
        let s := if s.isReport o m then countSat sat s else s
        putOut i j (outOf k (wordsOf bytes)) s

/-- OUT_PACK_2011 (kernel 0x39). -/
def execOutPack2011 (n : Nat) (item : Fin 4096) (s : State) : Out := .next (outPack 0x39 n item s)

/-- OUT_PACK_2005 (kernel 0x3A). -/
def execOutPack2005 (n : Nat) (item : Fin 4096) (s : State) : Out := .next (outPack 0x3A n item s)

/-! ### STAT words (R321) -/

/-- The content of a stream's configuration frame, as far as a swap may change it. -/
def cfgContent (o : OutStream) : Nat × Nat × Nat × Nat × List OutBlock :=
  (o.format, o.idcode, o.rate, o.dfmt + 16 * o.timeBase, o.blocks.map fun b => { b with cfgCnt := 0 })

/-- Bit 10: a swap that changes the stream's configuration frame is pending and its tick is at most 60 s away. -/
def State.cfgPending (s : State) (st : Nat) : Bool :=
  match s.swap, s.img with
  | some (im, _, k), some old =>
    (old.outs[st]?.map cfgContent) ≠ (im.outs[st]?.map cfgContent) && s.tickInst k ≤ s.clv.now + 60000000000
  | _, _ => false

/-- The module's own unlocked-time code of bits 5:4. -/
def State.unlockCode (s : State) : Nat :=
  if s.clvState = clvLocked then 0
  else if s.clvState = clvUnset then 3
  else
    let t := s.up - s.clv.eSince
    if t < 10000000000 then 1 else if t < 100000000000 then 2 else 3

/-- A STAT word from a quality word. -/
def State.statWord (s : State) (c2005 amend cfg : Bool) (q : Nat) : Nat :=
  let fld (lo w : Nat) : Nat := q / 2 ^ lo % 2 ^ w
  let b (x : Bool) (k : Nat) : Nat := if x then 2 ^ k else 0
  let miss := q.testBit 31
  let err := fld 9 2
  let low := b (q.testBit 8 || q.testBit 23) 13 + b (q.testBit 6) 11 + b cfg 10 + max (fld 18 2) s.unlockCode * 16 + fld 0 4
  if c2005 then low + b (miss || err = 3) 15 + b (err = 1) 14
  else low + (if miss then 2 * 2 ^ 14 else err * 2 ^ 14) + b (amend || q.testBit 27) 9 +
    max (s.statTq) (fld 15 3) * 64

/-- The block's packing item in a stream. -/
def packItem (its : List Item) (st blk : Nat) : Option Nat :=
  (its.zipIdx.find? fun x => x.1.unit = 0 && (x.1.kernel = 0x39 || x.1.kernel = 0x3A || x.1.kernel = 0x3B) && x.1.p2 = st + 65536 * blk).map
    fun x => x.2

/-- FLAGS of every result that an item reads, of this instance or of the one before. -/
def State.readFlags (s : State) (i : Inst) (it : Item) : Nat :=
  it.ops.foldl (fun a o => match o with
    | .result p _ _ => a ||| (runOf i p).flags
    | .prev p _ _ => a ||| (match prevInst s.tmb.insts i.tick with | some q => (runOf q p).flags | none => 8)
    | _ => a) 0

/-- A block's quality word: of its slot's record, or MISSING and STALE from the results it reads. -/
def State.blockQual (s : State) (i : Inst) (st blk : Nat) (b : OutBlock) (late : Bool) (n : Nat) : Nat :=
  match b.slot with
  | some sl => match s.col? n with
    | some c => (s.served c sl late).1.qual
    | none => 2 ^ 31
  | none =>
    let its := s.items i
    let fl := match (packItem its st blk).bind fun j => its[j]? with
      | some it => s.readFlags i it
      | none => 0
    (if fl.testBit 2 || fl.testBit 3 then 2 ^ 31 else 0) + (if fl.testBit 1 then 2 ^ 27 else 0)

/-- The quality word that OUT_STAT's operands give a slot: in the CELLS operand that carries it. -/
def slotQual (slot : Nat) (ops : List Fetched) : Option Nat :=
  (cellsOps ops).findSome? fun o => (o.2.2.find? fun c => c.got.slot = slot).map fun c => c.got.qual

/-- OUT_STAT (R321, kernel 0x3C): a word for each of the first N blocks of its stream. -/
def execOutStat (n : Nat) (item : Fin 4096) (s : State) : Out :=
  .next (match s.isRunning n item 0 0x3C with
    | none => s
    | some (i, it) =>
      let k := s.kin i item it n false
      let st := parE k
      match (s.instImg i).bind fun im => im.outs[st]? with
      | none => putOut i item (outOf k []) s
      | some o =>
        let now := (o.blocks.zipIdx.take (parN k)).map fun x =>
          ((x.1.slot.bind fun sl => slotQual sl k.ops).getD (s.blockQual i st x.2 x.1 false n))
        let m := s.reportOf o n
        let (qs, s) := if m = n then (now, s)
          else
            let (old, s) := (s.savePast { stream := st, block := 64, tick := n, vals := now }).takePast st 64 m
            (old.getD (now.map fun _ => 2 ^ 31), s)
        putOut i item (outOf k (qs.map (s.statWord (o.format = 1) false (s.cfgPending st)))) s)

/-! ### Frames (R319, R322, R323; layouts of C37.118 PRESUMED, log entry 10) -/

/-- TAI − UTC in force at a TAI instant: as now, or as before the last leap. -/
def State.taiUtcAt (s : State) (t : Nat) : Int :=
  match s.clv.lastLeap with
  | some (sec, pos) => if t < sec * 1000000000 then s.taiUtc - (if pos then 1 else -1) else s.taiUtc
  | none => s.taiUtc

/-- SOC and the FRACSEC word of an instant. -/
def State.socFrac (s : State) (timeBase t : Nat) : Nat × Nat :=
  let utc := ((t : Int) - s.taiUtcAt t * 1000000000).toNat
  let f := roundDiv (utc % 1000000000 * timeBase) 1000000000
  let soc := utc / 1000000000 + (if f ≥ timeBase then 1 else 0)
  let recent := match s.clv.lastLeap with
    | some (sec, _) => sec * 1000000000 ≤ t && t < (sec + 86400) * 1000000000
    | none => false
  let pend := s.on fCLV_UTC_CFG_LEAP59 || s.on fCLV_UTC_CFG_LEAP61
  let del := if s.on fCLV_UTC_CFG_LEAP59 then true
    else if s.on fCLV_UTC_CFG_LEAP61 then false
    else match s.clv.lastLeap with | some (_, pos) => recent && !pos | none => false
  let q := s.tq + (if pend then 16 else 0) + (if recent then 32 else 0) + (if del then 64 else 0)
  (soc % 2 ^ 32, q * 2 ^ 24 + (if f ≥ timeBase then 0 else f))

/-- A C37.118 frame: SYNC of a type, FRAMESIZE, IDCODE, SOC, FRACSEC, body, CHK. -/
def c37Frame (typ : Nat) (o : OutStream) (soc frac : Nat) (body : Bytes) : Bytes :=
  let b := be 1 0xAA ++ be 1 (typ * 16 + (if o.format = 1 then 1 else 2)) ++ be 2 (16 + body.length) ++ be 2 o.idcode ++
    be 4 soc ++ be 4 frac ++ body
  b ++ be 2 (crcCcitt b)

/-- The pair-wide source address of a port for a destination. -/
def State.pairAddr (s : State) (port dst : Nat) : Nat :=
  match s.img with
  | some i => ((i.srcIps.find? fun x => x.1 = port && isV4 x.2 = isV4 dst).map fun x => x.2).getD 0
  | none => 0

def State.streamMac (s : State) (st : Nat) : Nat := (match s.img with | some i => i.srcMac | none => 0) + st

/-- prp_seq (R323). -/
def State.prpSeq (s : State) (m dest kind : Nat) : Nat := (m * 64 + dest * 16 + kind + s.prpOfs) % 65536

/-- A destination is sending (R325): COMMANDED ones only when turned on. -/
def sending (o : OutSt) (d : Nat) (c : OutDest) : Bool := !c.commanded || o.on.testBit d

/-- A command takes effect at the COMPOSE for tick n: it came at least 2 ms ago (R326), or it is of a pair and names instance n or an
earlier one (R408). -/
def State.cmdDue (s : State) (n : Nat) (c : Nat × Option Nat × Nat × Bool) : Bool :=
  match c.2.1 with
  | some m => s.tickInst m ≤ s.tickInst n
  | none => c.1 + 2000000 ≤ s.up

/-- Apply the commands that are due at the COMPOSE for tick n (R326, R408). -/
def applyCmds (n st : Nat) (s : State) : State :=
  let o := s.outSt st
  let due := o.cmds.filter (s.cmdDue n)
  let on := due.foldl (fun a c => if c.2.2.2 then a ||| c.2.2.1 else (a ||| c.2.2.1) ^^^ c.2.2.1) o.on
  s.setOutSt st { o with on := on, cmds := o.cmds.filter fun c => !s.cmdDue n c }

/-- The port copies of a payload for one destination: port, LAN (0 where there is no PRP trailer). -/
def portCopies (c : OutDest) : List (Nat × Nat) :=
  if c.prp then (c.portA, 0xA) :: (match c.portB with | some p => [(p, 0xB)] | none => []) else [(c.portA, 0)]

/-- What one copy sends, or why it does not: 3 unresolved, 4 link down. -/
def State.buildCopy (s : State) (st d m kind : Nat) (o : OutStream) (c : OutDest) (payload : Bytes) (x : Nat × Nat) : Except Nat Bytes :=
  match macFor c.mac (smFind? s.egr.macs c.addr) c.addr with
  | none => .error 3
  | some mac =>
    if !s.link x.1 then .error 4
    else
      let a : UdpAddr := { srcMac := s.streamMac st, dstMac := mac, tag := c.tag, dscp := c.dscp, src := s.pairAddr x.1 c.addr,
                           dst := c.addr, sport := o.cmdPort, dport := c.udpPort }
      let seq := s.prpSeq m d kind
      let b := udpFrame a seq payload
      .ok (if x.2 = 0 then b else withPrp x.2 seq b)

/-- Offer the copies of an item's frames in turn; a full queue makes the composer wait (R333). -/
def offerCopies (n j st : Nat) : List (Nat × Nat × TxFrame) → State → State
  | [], s => s
  | (p, q, f) :: rest, s =>
    if s.egrFull p q then
      let w : BpWait := { tick := n, item := j, stream := st, port := p, queue := q, frame := f, since := s.up, rest := rest }
      s.setEgr { s.egr with waits := s.egr.waits ++ [w] }
    else offerCopies n j st rest (egrStream p q st f s)

/-- The slots whose data a stream's frame carries. -/
def streamSlots (o : OutStream) : List Nat := o.blocks.filterMap fun b => b.slot

/-- Send a stream's payload for report tick m to its sending destinations that `p` selects. -/
def streamSend (n j st m kind : Nat) (o : OutStream) (p : OutDest → Bool) (payload : Bytes) (s : State) : State :=
  let q := if kind = 0 then qOutput else qAmend
  let os := s.outSt st
  let ds := o.dests.zipIdx.filter fun x => sending os x.2 x.1 && p x.1
  let copies := (ds.map fun x => (portCopies x.1).map fun y => (x.2, x.1, y)).flatten
  let built := copies.zipIdx.map fun x => (x.1.2.2.1, s.buildCopy st x.1.1 m kind o x.1.2.1 payload x.1.2.2, x.2)
  let s := built.foldl (fun s x => match x.2.1 with
    | .error b => (streamDrop st s).flag fEGR_FLT_FLAGS b
    | .ok _ => s) s
  let good := built.filterMap fun x => match x.2.1 with
    | .ok b => some (x.1, q, ({ bytes := b, sender := .composer st, queued := s.up, tick := m, amend := kind ≠ 0, slots := streamSlots o,
                                first := x.2.2 = 0 } : TxFrame))
    | .error _ => none
  offerCopies n j st good s

/-- A raw block (R337). -/
def State.rawBlock (s : State) (st m parts flags : Nat) (data : Bytes) : RawBlock :=
  let c := s.closeOf m
  let head := le 4 0xD0B10001 ++ le 2 st ++ le 2 flags ++ le 8 m ++ le 8 (s.tickInst m) ++ le 8 c ++ le 4 data.length ++
    le 2 parts ++ le 22 0
  { stream := st, tick := m, bytes := head ++ le 4 (crc32c (head ++ data)) ++ data, flags := if flags.testBit 0 then 128 else 0,
    ns32 := c % 2 ^ 32 }

/-- The data bytes of a producer's block, or none where it was abandoned or failed. -/
def packBytes (i : Inst) (p : Nat) : Option Bytes :=
  let r := runOf i p
  if r.flags.testBit 2 || r.flags.testBit 3 then none else some (bytesOf (r.data.getD []))

/-- The size of a block's data under DFMT. -/
def blockBytes (dfmt : Nat) (b : OutBlock) : Nat := (packBlock dfmt b missVals).1.length

/-- The producers an item's RESULT operands name. -/
def producers (it : Item) : List Nat := it.ops.filterMap fun o => match o with | .result p _ _ => some p | _ => none

/-- COMPOSE (R316, R317, R319–R324): the frames, or the raw block, of the stream whose packing items it reads. -/
def execCompose (n : Nat) (item : Fin 4096) (s : State) : Out :=
  .next (match s.isRunning n item 5 0x01 with
    | none => s
    | some (i, it) =>
      let its := s.items i
      let ps := producers it
      let packs := ps.filter fun p => match its[p]? with | some x => x.kernel ≠ 0x3C | none => false
      let st := match packs with | p :: _ => ((its[p]?.map fun x => x.p2 % 65536).getD 0) | [] => 0
      let done (s : State) : State := putOut i item { data := [], miss := missIn (s.kin i item it n false) } s
      match (s.instImg i).bind fun im => im.outs[st]? with
      | none => done s
      | some o =>
        let m := s.reportOf o n
        if !s.isReport o m then done s
        else
          let fl := packs.foldl (fun a p => a ||| (runOf i p).flags) 0
          let stale := fl.testBit 1 || s.staleNow n
          let s := if stale then s.flag fEGR_FLT_FLAGS 10 else s
          if o.format = 2 then
            let data := (packs.map fun p => (packBytes i p).getD (bytesOf [f32Nan])).flatten
            let flags := (if fl.testBit 1 then 2 else 0) + (if fl.testBit 0 || fl.testBit 2 || fl.testBit 3 then 4 else 0)
            let b := s.rawBlock st m packs.length flags data
            done (s.setEgr { s.egr with blocks := s.egr.blocks ++ [b] })
          else
            let s := applyCmds n st s
            let stats := match ps.find? fun p => (its[p]?.map fun x => x.kernel) = some 0x3C with
              | some p => (runOf i p).data.getD []
              | none => []
            let body := (o.blocks.zipIdx.map fun x =>
              let p := packs.getD x.2 4096
              let lost := s.statWord (o.format = 1) false (s.cfgPending st) (2 ^ 31)
              let w := if (packBytes i p).isSome then stats.getD x.2 lost else lost
              let w := if (runOf i p).flags.testBit 1 && o.format ≠ 1 then w ||| 512 else w
              be 2 w ++ match packBytes i p with
                | some b => b.take (blockBytes o.dfmt x.1)
                | none => (packBlock o.dfmt x.1 missVals).1).flatten
            let (soc, frac) := s.socFrac o.timeBase (s.tickInst m)
            done (streamSend n item st m 0 o (fun _ => true) (c37Frame 0 o soc frac body) s))

/-! ### Amendments (R327 to R329) -/

/-- A notice or an amendment is discarded. -/
def amdLost (s : State) : State := (s.inc fEGR_AMDLOST_CNT_NOTICES).flag fEGR_FLT_FLAGS 5

/-- Bind the notices at the head of the queue to instance m's positions, as many as `left` (R328, R329). -/
def bindNotices : Nat → Nat → Nat → State → State
  | 0, _, _, s => s
  | fuel + 1, left, m, s =>
    match s.pgh.notices with
    | [] => s
    | (t, mask) :: rest =>
      if left = 0 then s
      else
        let s := s.setPgh { s.pgh with notices := rest }
        let a := smGet 0 s.egr.amended t + 1
        if (s.col? t).isNone || a > 7 then bindNotices fuel left m (amdLost s)
        else
          let s := s.setEgr { s.egr with amended := smSet 0 s.egr.amended t a }
          let s := match s.inst? m with
            | some i => s.setInst { i with amend := i.amend ++ [(t, mask, a)] }
            | none => s
          bindNotices fuel (left - 1) m s

/-- The composers bind instance m's positions once the token closing C(m) has been processed. -/
def bindAmend (m : Nat) (s : State) : State :=
  match (s.inst? m).bind s.instImg with
  | some im => bindNotices 256 im.amdSlots m s
  | none => s

/-- The amendment block of a stream for tick t: every block's STAT and data, LATE cells taken as present; a raw stream's block
is the packed copy of its operands. -/
def State.amendBytes (s : State) (i : Inst) (st t : Nat) (o : OutStream) (k : KIn) : Bytes × Nat :=
  if o.format = 2 then ((k.ops.map fetchedBytes).flatten, 0)
  else
    let bs := o.blocks.zipIdx.map fun x =>
      let v := match x.1.slot with
        | some sl => (slotVals sl k.ops).getD missVals
        | none => missVals
      let w := s.statWord (o.format = 1) true (s.cfgPending st) (s.blockQual i st x.2 x.1 true t)
      let (b, sat) := packBlock o.dfmt x.1 v
      (be 2 w ++ b, sat)
    ((bs.map fun x => x.1).flatten, (bs.map fun x => x.2).sum)

/-- OUT_AMEND_PACK (R328, kernel 0x3D): E is the stream, A the position. -/
def execOutAmendPack (n : Nat) (item : Fin 4096) (s : State) : Out :=
  .next (match s.isRunning n item 0 0x3D with
    | none => s
    | some (i, it) =>
      let st := it.p2 % 65536
      match i.amend[it.p2 / 65536]?, (s.instImg i).bind fun im => im.outs[st]? with
      | some (t, mask, _), some o =>
        let k := s.kin i item it t true
        if mask.testBit st && s.isReport o t then
          let (b, sat) := s.amendBytes i st t o k
          putOut i item (outOf k (b.length :: wordsOf b)) (countSat sat s)
        else putOut i item (outOf k []) s
      | _, _ => putOut i item { data := [], miss := missIn (s.kin i item it n false) } s)

/-- One amendment item's frames. -/
def sendAmend (n j : Nat) (i : Inst) (p : Nat) (s : State) : State :=
  match (s.items i)[p]? with
  | none => s
  | some it =>
    let st := it.p2 % 65536
    match i.amend[it.p2 / 65536]?, (s.instImg i).bind fun im => im.outs[st]?, packBytes i p with
    | some (t, _, a), some o, some b =>
      if b.length < 4 then s
      else
        let data := (b.drop 4).take (leAt b 0 4)
        if o.format = 2 then
          if o.rawAmend then s.setEgr { s.egr with blocks := s.egr.blocks ++ [s.rawBlock st t 1 (1 + (if (runOf i p).flags.testBit 1 then 2 else 0) +
            (if (runOf i p).flags.testBit 0 then 4 else 0)) data] } else s
        else
          let s := applyCmds n st s
          let (soc, frac) := s.socFrac o.timeBase (s.tickInst t)
          streamSend n j st t (8 + a) o (fun d => d.amend) (c37Frame 0 o soc frac data) s
    | _, _, _ => s

/-- AMEND (R327, R328): the frames of every position bound to a notice. -/
def execAmend (n : Nat) (item : Fin 4096) (s : State) : Out :=
  .next (match s.isRunning n item 5 0x02 with
    | none => s
    | some (i, it) =>
      putOut i item { data := [], miss := missIn (s.kin i item it n false) } ((producers it).foldl (fun s p => sendAmend n item i p s) s))

/-- COMPOSER_BP_WAIT_END (R333): the oldest wait that can end does: with room its frame is queued late, else after BP_US it is
dropped, and the item goes on to its other copies. -/
def execComposerBpWaitEnd (s : State) : Out :=
  .next (
    let due (w : BpWait) : Bool := !s.egrFull w.port w.queue || w.since + s.rd fEGR_BP_CFG_BP_US * 1000 ≤ s.up
    match s.egr.waits.find? due with
    | none => s
    | some w =>
      let full := s.egrFull w.port w.queue
      let s := (s.setEgr { s.egr with waits := s.egr.waits.erase w }).ev 0x366 (s.up - w.since)
      let s := if full then
          (((streamDrop w.stream s).ev 0x365).inc fEGR_QDROP_CNT_FRAMES).flag fEGR_FLT_FLAGS 2
        else egrStream w.port w.queue w.stream w.frame s
      offerCopies w.tick w.item w.stream w.rest s)

/-! ### Commands and configuration frames (R325, R326) -/

/-- A block's words in CFG-1 and CFG-2. -/
def cfg2Block (dfmt : Nat) (b : OutBlock) : Bytes :=
  (b.stn ++ List.replicate (16 - b.stn.length) 0x20) ++ be 2 b.idcode ++ be 2 dfmt ++ be 2 b.nph ++ be 2 b.nan ++ be 2 b.ndg ++
    b.names ++ (b.units.map (be 4)).flatten ++ be 2 (if b.fnom = 50 then 1 else 0) ++ be 2 b.cfgCnt

def rateWord (o : OutStream) : Bytes := be 2 o.rate

def cfg2Body (o : OutStream) : Bytes :=
  be 4 o.timeBase ++ be 2 o.blocks.length ++ (o.blocks.map (cfg2Block o.dfmt)).flatten ++ rateWord o

/-- A name as CFG-3 carries it: its length, then itself. -/
def cfg3Name (b : Bytes) : Bytes := be 1 b.length ++ b

/-- The channel names of a block, one by one. -/
def namesOf : Nat → Bytes → List Bytes
  | 0, _ => []
  | k + 1, b => if b.isEmpty then [] else b.take 16 :: namesOf k (b.drop 16)

/-- A block in CFG-3; GRP_DLY in µs. Fields that the image does not carry are free (log entry 29). -/
def cfg3Block (dfmt grp i : Nat) (b : OutBlock) : Bytes :=
  cfg3Name b.stn ++ be 2 b.idcode ++ be 16 (Config.cfg3Field i 0) ++ be 2 dfmt ++ be 2 b.nph ++ be 2 b.nan ++ be 2 b.ndg ++
    ((namesOf b.names.length b.names).map cfg3Name).flatten ++
    (((List.range b.nph).map fun k => be 4 (b.units.getD k 0) ++ be 4 (b.phscale.getD k (0, 0)).1 ++ be 4 (b.phscale.getD k (0, 0)).2).flatten) ++
    (((List.range b.nan).map fun k => be 4 (b.anscale.getD k (0, 0)).1 ++ be 4 (b.anscale.getD k (0, 0)).2).flatten) ++
    (((List.range b.ndg).map fun k => be 4 (b.units.getD (b.nph + b.nan + k) 0)).flatten) ++
    be 4 (Config.cfg3Field i 1) ++ be 4 (Config.cfg3Field i 2) ++ be 4 (Config.cfg3Field i 3) ++ be 1 (Config.cfg3Field i 4) ++
    be 4 (Config.cfg3Field i 5) ++ be 4 grp ++ be 2 (if b.fnom = 50 then 1 else 0) ++ be 2 b.cfgCnt

def cfg3Body (o : OutStream) (r : Nat) : Bytes :=
  let grp := delayOf o r * 1000000 / r
  be 2 0 ++ be 4 o.timeBase ++ be 2 o.blocks.length ++ ((o.blocks.zipIdx.map fun x => cfg3Block o.dfmt grp x.2 x.1).flatten) ++ rateWord o

/-- Send a configuration or header frame to a command's source on its transport, through the STEWARD queue. -/
def cfgSend (st kind typ : Nat) (o : OutStream) (c : CmdFrame) (body : Bytes) (s : State) : State :=
  let (soc, frac) := s.socFrac o.timeBase s.clv.now
  let payload := c37Frame typ o soc frac body
  let s := s.inc fEGR_CFGTX_CNT_FRAMES
  match c.tcp with
  | some t => s.emit (.ctl "TCP command reply" t (payload.map BitVec.toNat))
  | none =>
    let send (p lan dest : Nat) (s : State) : State :=
      let seq := s.prpSeq s.curTick dest kind
      let a : UdpAddr := { srcMac := s.streamMac st, dstMac := c.srcMac, tag := none, dscp := 34, src := s.pairAddr p c.src, dst := c.src,
                           sport := o.cmdPort, dport := c.sport }
      let b := udpFrame a seq payload
      egrOffer p qSteward { frame := { bytes := if lan = 0 then b else withPrp lan seq b, sender := .steward, queued := s.up } } s
    match o.dests.zipIdx.find? fun x => x.1.addr = c.src with
    | some (d, i) => (portCopies d).foldl (fun s x => send x.1 x.2 i s) s
    | none => send c.port 0 0 s

/-- The steward core's tests of a command; a pair-wide one goes to the module with authority (R326). -/
def command (code : Nat) (c : CmdFrame) (act : Nat → OutStream → State → State) (s : State) : State :=
  let outs := match s.img with | some i => i.outs | none => []
  match outs.zipIdx.find? fun x => x.1.idcode = c.idcode && x.1.format ≠ 2 with
  | none => cmdBad s
  | some (o, st) =>
    if !c.chkOk || !(o.cmdSrc.isEmpty || o.cmdSrc.contains c.src) then cmdBad s
    else if c.pairWide && !s.authority then
      s.sendForward 0 (be 2 code ++ be 16 c.src ++ be 2 c.sport ++ be 6 c.srcMac ++ be 2 c.idcode)
    else act st o (s.inc fEGR_CMD_CNT_OK)

/-- Turn a stream's COMMANDED destinations in `mask` on or off. -/
def destCmd (m : Option Nat) (st mask : Nat) (on : Bool) (s : State) : State :=
  let o := s.outSt st
  s.setOutSt st { o with cmds := o.cmds ++ [(s.up, m, mask, on)] }

/-- The destinations that a command from `src` turns on and off (R325). -/
def cmdMask (o : OutStream) (src : Nat) : Nat :=
  o.dests.zipIdx.foldl (fun a x => if x.1.commanded && (isMulticast x.1.addr || x.1.addr = src) then a + 2 ^ x.2 else a) 0

/-- Commands 1 and 2; a pair's are mirrored, and take effect at one instance on both modules (R326, R408). -/
def onOff (on : Bool) (src st : Nat) (o : OutStream) (s : State) : State :=
  let mask := cmdMask o src
  if s.paired && s.authority then
    (destCmd (some s.mirrorRun) st mask on s).sendMirror mirDest s.mirrorRun ((st * 16 + mask) * 2 + (if on then 1 else 0))
  else destCmd none st mask on s

/-- What each command does: 1 and 2 turn destinations off and on, 3 to 6 send the header and configuration frames; CFG-3 is BAD on a
C2005 stream. -/
def c37Command (code : Nat) (c : CmdFrame) (s : State) : State :=
  match code with
  | 1 => command 1 c (onOff false c.src) s
  | 2 => command 2 c (onOff true c.src) s
  | 3 => command 3 c (fun st o s => cfgSend st 4 1 o c o.hdrText s) s
  | 4 => command 4 c (fun st o s => cfgSend st 1 2 o c (cfg2Body o) s) s
  | 5 => command 5 c (fun st o s => cfgSend st 2 3 o c (cfg2Body o) s) s
  | 6 =>
    let c2005 := match s.img with | some i => i.outs.any fun o => o.idcode = c.idcode && o.format = 1 | none => false
    if c2005 then cmdBad s else command 6 c (fun st o s => cfgSend st 3 5 o c (cfg3Body o s.rate) s) s
  | _ => cmdBad s

/-- CMD_TURN_OFF (R325, R326). -/
def execCmdTurnOff (c : CmdFrame) (s : State) : Out := .next (c37Command 1 c s)

/-- CMD_TURN_ON (R325, R326). -/
def execCmdTurnOn (c : CmdFrame) (s : State) : Out := .next (c37Command 2 c s)

/-- CMD_SEND_HEADER (R326). -/
def execCmdSendHeader (c : CmdFrame) (s : State) : Out := .next (c37Command 3 c s)

/-- CMD_SEND_CFG1 (R326). -/
def execCmdSendCfg1 (c : CmdFrame) (s : State) : Out := .next (c37Command 4 c s)

/-- CMD_SEND_CFG2 (R326). -/
def execCmdSendCfg2 (c : CmdFrame) (s : State) : Out := .next (c37Command 5 c s)

/-- CMD_SEND_CFG3 (R326). -/
def execCmdSendCfg3 (c : CmdFrame) (s : State) : Out := .next (c37Command 6 c s)

/-! ### Selection (R340) -/

/-- The destinations of a stream that are sending now. -/
def State.sendMask (s : State) (st : Nat) (o : OutStream) : Nat :=
  o.dests.zipIdx.foldl (fun a x => if s.ticking && sending (s.outSt st) x.2 x.1 then a + 2 ^ x.2 else a) 0

/-- A write to EGR_STRM_SEL latches the stream's registers. -/
def egrSelect (v : Nat) (s : State) : State :=
  let s := s.wr fEGR_STRM_SEL_STREAM v
  let k := s.rd fEGR_STRM_SEL_STREAM
  let x := s.outSt k
  let s := match s.outCfg? k with
    | none => ((((s.wr fEGR_STRM_STS_FORMAT 3).wr fEGR_STRM_STS_DECIM 0).wr fEGR_STRM_STS_D 0).wr fEGR_STRM_STS_AMEND 0).wr
        fEGR_STRM_STS_ON 0 |>.wr fEGR_STRM_STS_IDCODE 0
    | some o =>
      let d := decimOf o s.rate
      let s := ((s.wr fEGR_STRM_STS_FORMAT o.format).wr fEGR_STRM_STS_DECIM (if d = 1 then 0 else o.decim)).wr fEGR_STRM_STS_D d
      let s := s.wrB fEGR_STRM_STS_AMEND (o.rawAmend || o.dests.any fun c => c.amend)
      (s.wr fEGR_STRM_STS_ON (s.sendMask k o)).wr fEGR_STRM_STS_IDCODE o.idcode
  let s := ((s.wr fEGR_STRM_TICK_LO_N_LO x.tick).wr fEGR_STRM_TICK_HI_N_HI (x.tick / 2 ^ 32)).wr fEGR_STRM_TX_STS_NS32 x.stamp
  (s.wr fEGR_STRM_FRAME_CNT_FRAMES x.frames).wr fEGR_STRM_DROP_CNT_FRAMES x.drops

end Sys2Proof.Machine
end

