-- ==== Sys2Proof/Machine/Detectors.lean ====
section
/-!
DEFINITION. The detector kernels 0x20 to 0x27 (R263–R268, R543, R544): one element's state and record, tick by tick.
-/

namespace Sys2Proof.Machine

/-- Pickup and dropout counting of one condition (R264). -/
structure PickDrop where
  on : Bool := false
  up : Nat := 0
  down : Nat := 0
deriving DecidableEq, Repr

/-- A condition that holds, or does not, less its hysteresis, on a present tick. A PICKUP or DROPOUT of 0 acts as 1. -/
def pickDrop (cond hold : Bool) (pickup dropout : Nat) (p : PickDrop) : PickDrop :=
  if !p.on then
    if cond then (if p.up + 1 ≥ max 1 pickup then { on := true } else { p with up := p.up + 1 }) else {}
  else if hold then { on := true }
  else if p.down + 1 ≥ max 1 dropout then {} else { p with down := p.down + 1 }

/-- An element's state. `tag` says what kind of extreme VALUE holds; `lastP` is the last present tick and `born` the tick of the
first run; `prev` the value compared with, and its tick; `kb` bits 5 to 7 of FLAGS; `hist` the recent frequencies by tick;
`exts` DET_FREQ's three extremes. -/
structure DetEl where
  pd : PickDrop := {}
  active : Bool := false
  start : Nat := 0
  dur : Nat := 0
  value : Nat := f32Nan
  tag : Nat := 0
  lastP : Nat := 0
  seen : Bool := false
  gone : Bool := false
  born : Nat := 0
  prev : Option (Nat × Nat × Nat) := none
  st : Nat := 0
  intr : Bool := false
  kb : Nat := 0
  pds : List PickDrop := [{}, {}, {}]
  exts : List (Option Nat) := [none, none, none]
  hist : List (Nat × Nat) := []
deriving DecidableEq, Repr

/-! ### An element in a STATE block -/

def pdWords (p : PickDrop) : List Nat := [boolW p.on, p.up, p.down]
def pdOf (ws : List Nat) : PickDrop := { on := ws.getD 0 0 ≠ 0, up := ws.getD 1 0, down := ws.getD 2 0 }
def optWords (o : Option Nat) : List Nat := match o with | some x => [1, x] | none => [0, 0]
def optOf (ws : List Nat) : Option Nat := if ws.getD 0 0 = 0 then none else some (ws.getD 1 0)

/-- Words of one element: 40 and the 65 newest frequencies with their ticks. -/
abbrev detWords : Nat := 170

def detEncode (e : DetEl) : List Nat :=
  let pv := match e.prev with | some (a, b, t) => [1, a, b, t] | none => [0, 0, 0, 0]
  let fixed := pdWords e.pd ++ [boolW e.active, e.start, e.dur, e.value, e.tag, e.lastP, boolW e.seen, boolW e.gone, e.born] ++ pv ++
    [e.st, boolW e.intr, e.kb] ++ (e.pds.map pdWords).flatten ++ (e.exts.map optWords).flatten
  let ws := fixed ++ List.replicate (40 - fixed.length) 0 ++ (e.hist.map fun h => [h.1 + 1, h.2]).flatten
  ws ++ List.replicate (detWords - ws.length) 0

def detDecode (ws : List Nat) : DetEl :=
  let g (i : Nat) := ws.getD i 0
  { pd := pdOf ws, active := g 3 ≠ 0, start := g 4, dur := g 5, value := g 6, tag := g 7, lastP := g 8, seen := g 9 ≠ 0,
    gone := g 10 ≠ 0, born := g 11, prev := if g 12 = 0 then none else some (g 13, g 14, g 15), st := g 16, intr := g 17 ≠ 0,
    kb := g 18, pds := [pdOf (ws.drop 19), pdOf (ws.drop 22), pdOf (ws.drop 25)],
    exts := [optOf (ws.drop 28), optOf (ws.drop 30), optOf (ws.drop 32)],
    hist := (pairUp (ws.drop 40)).filterMap fun h => if h.1 = 0 then none else some (h.1 - 1, h.2) }

/-! ### Bodies -/

/-- What a present tick measures: the value, its kind, and whether it is more extreme than another of that kind; a restart ends
one event and starts another at the same tick. -/
structure DetOut where
  x : Nat
  tag : Nat := 0
  beats : Nat → Bool := fun _ => true
  restart : Bool := false

/-- What a body is given: tick, base rate, K, the element's inputs and its CONST words. -/
structure DetIn where
  n : Nat
  rate : Nat
  k : Nat
  v : List Nat
  c : List Nat

def detIn (i : DetIn) (j : Nat) : Nat := elemAt i.v j
def detC (i : DetIn) (j : Nat) : Nat := i.c.getD j 0
def lo16 (w : Nat) : Nat := w % 65536
def hi16 (w : Nat) : Nat := w / 65536 % 65536

/-- One condition judged by the element's own pickup and dropout. -/
def judge (cond hold : Bool) (pickup dropout : Nat) (e : DetEl) : DetEl :=
  let pd := pickDrop cond hold pickup dropout e.pd
  { e with pd := pd, active := pd.on }

/-- DET_LEVEL: K 0 above HI, 1 below LO, 2 outside. -/
def detLevel (i : DetIn) (e : DetEl) : DetEl × Option DetOut :=
  let x := detIn i 0
  if !f32Finite x then (e, none)
  else
    let hi := detC i 0
    let lo := detC i 1
    let h := detC i 2
    let up := i.k ≠ 1
    let dn := i.k ≠ 0
    let cond := (up && f32Lt hi x) || (dn && f32Lt x lo)
    let hold := (up && f32Lt (f32Sub hi h) x) || (dn && f32Lt x (f32Add lo h))
    let beyond (y : Nat) : Nat :=
      let a := f32Sub y hi
      let b := f32Sub lo y
      if f32Lt a b then b else a
    (judge cond hold (lo16 (detC i 3)) (hi16 (detC i 3)) e,
     some { x := x, beats := fun o => if i.k = 0 then f32Lt o x else if i.k = 1 then f32Lt x o else f32Lt (beyond o) (beyond x) })

/-- The stored value of the tick before, and this tick's stored in its place (R543). -/
def prevOne (n a b : Nat) (e : DetEl) : DetEl × Option (Nat × Nat) :=
  ({ e with prev := some (a, b, n) },
   match e.prev with | some (x, y, t) => if t + 1 = n then some (x, y) else none | none => none)

/-- DET_RATE (R265, R543). -/
def detRate (i : DetIn) (e : DetEl) : DetEl × Option DetOut :=
  let x := detIn i 0
  if !f32Finite x then (e, none)
  else
    match prevOne i.n x 0 e with
    | (e, none) => (e, none)
    | (e, some (p, _)) =>
      let rho := f32Mul (f32Sub x p) (f32OfInt i.rate)
      let m := f32Abs rho
      (judge (f32Lt (detC i 0) m) (f32Lt (f32Sub (detC i 0) (detC i 1)) m) (lo16 (detC i 2)) (hi16 (detC i 2)) e,
       some { x := rho, beats := fun o => f32Lt (f32Abs o) m })

/-- DET_ANGSEP (R266). -/
def detAngsep (i : DetIn) (e : DetEl) : DetEl × Option DetOut :=
  let m := f32Abs (f32AngDiff (f32Arg (detIn i 0) (detIn i 1)) (f32Arg (detIn i 2) (detIn i 3)))
  if !f32Finite m then (e, none)
  else
    (judge (f32Lt (detC i 0) m) (f32Le (f32Sub (detC i 0) (detC i 1)) m) (lo16 (detC i 2)) (hi16 (detC i 2)) e,
     some { x := m, beats := fun o => f32Lt o m })

/-- Next state of the sag and swell machine (R268): 0 NORMAL, 1 SAG, 2 SWELL, 3 INTERRUPTION; and whether a swell ended and a dip
began at this tick. -/
def sagNext (pu sag swell int_ hyst st : Nat) : Nat × Bool :=
  if st = 0 then (if f32Lt pu int_ then 3 else if f32Lt pu sag then 1 else if f32Lt swell pu then 2 else 0, false)
  else if st = 2 then
    if f32Lt pu sag then (if f32Lt pu int_ then 3 else 1, true)
    else (if f32Le pu (f32Sub swell hyst) then 0 else 2, false)
  else if f32Le (f32Add sag hyst) pu then (0, false)
  else if st = 1 then (if f32Lt pu int_ then 3 else 1, false)
  else (if f32Le (f32Add int_ hyst) pu then 1 else 3, false)

/-- DET_SAGSWELL (R268). -/
def detSagswell (i : DetIn) (e : DetEl) : DetEl × Option DetOut :=
  let x := detIn i 0
  if !f32Finite x then (e, none)
  else
    let pu := f32Div x (detC i 0)
    let (st, restart) := sagNext pu (detC i 1) (detC i 2) (detC i 3) (detC i 4) e.st
    let intr := st = 3 || (st = 1 && e.intr)
    let dip := st = 1 || st = 3
    ({ e with st := st, intr := intr, active := st ≠ 0,
              kb := (if dip then 32 else 0) + (if st = 2 then 64 else 0) + (if intr then 128 else 0) },
     some { x := pu, tag := if st = 2 then 2 else if dip then 1 else 0,
            beats := fun o => if st = 2 then f32Lt o pu else f32Lt pu o, restart := restart })

/-- DET_FREQ (R267, R543). -/
def detFreq (i : DetIn) (e : DetEl) : DetEl × Option DetOut :=
  let f := detIn i 0
  if !f32Finite f then (e, none)
  else
    let e := { e with hist := (e.hist ++ [(i.n, f)]).filter fun h => i.n ≤ h.1 + 64 }
    let win := lo16 (detC i 6)
    let rho : Option Nat :=
      if win = 0 then (if f32Finite (detIn i 1) then some (detIn i 1) else none)
      else (e.hist.find? fun h => h.1 + win = i.n).map fun h =>
        exact [f, h.2] (((f32Q f).sub (f32Q h.2)).mul ⟨i.rate, win⟩)
    match rho with
    | none => (e, none)
    | some rho =>
      let m := f32Abs rho
      let pu := lo16 (detC i 5)
      let dr := hi16 (detC i 5)
      let p (j : Nat) := e.pds.getD j {}
      let uf := pickDrop (f32Lt f (detC i 0)) (f32Lt f (f32Add (detC i 0) (detC i 2))) pu dr (p 0)
      let of_ := pickDrop (f32Lt (detC i 1) f) (f32Lt (f32Sub (detC i 1) (detC i 2)) f) pu dr (p 1)
      let rc := pickDrop (f32Lt (detC i 3) m) (f32Lt (f32Sub (detC i 3) (detC i 4)) m) pu dr (p 2)
      let ext (j : Nat) (on : Bool) (x : Nat) (less : Bool) : Option Nat :=
        if !on then none else match e.exts.getD j none with
          | some o => some (if (if less then f32Lt x o else f32Lt o x) then x else o)
          | none => some x
      let exts := [ext 0 uf.on f true, ext 1 of_.on f false, ext 2 rc.on m false]
      let (v, tag) := match exts.zipIdx.find? fun x => x.1.isSome with
        | some (some v, j) => (v, j + 1)
        | _ => (f, 0)
      ({ e with pds := [uf, of_, rc], exts := exts, active := uf.on || of_.on || rc.on,
                kb := (if uf.on then 32 else 0) + (if of_.on then 64 else 0) + (if rc.on then 128 else 0) },
       some { x := v, tag := tag })

/-- DET_STEP (R265, R543, R544). -/
def detStep (i : DetIn) (e : DetEl) : DetEl × Option DetOut :=
  let v := detIn i 0
  let a := detIn i 1
  if !(f32Finite v && f32Finite a) then ({ e with active := false, kb := 0 }, none)
  else
    match prevOne i.n v a e with
    | (e, none) => ({ e with active := false, kb := 0 }, none)
    | (e, some (pv, pa)) =>
      let dv := f32Sub v pv
      let da := f32AngDiff a pa
      let mag := f32Lt (f32Mul (detC i 0) pv) (f32Abs dv)
      let ang := f32Lt (detC i 1) (f32Abs da)
      ({ e with active := mag || ang, kb := (if mag then 32 else 0) + (if ang then 64 else 0) },
       some { x := if mag then (if (f32Q pv).isZero then f32Nan else exact [v, pv] (((f32Q v).sub (f32Q pv)).div (f32Q pv))) else da,
              tag := if mag then 1 else 0 })

/-- DET_DIGITAL (R265, R543): the first present word after a fresh start sets the reference. -/
def detDigital (i : DetIn) (e : DetEl) : DetEl × Option DetOut :=
  let w := detIn i 0
  if missW w then ({ e with active := false, kb := 0 }, none)
  else
    let mask := lo16 (detC i 0)
    let rise := hi16 (detC i 0)
    let fall := lo16 (detC i 1)
    let edges := match e.prev with
      | some (p, _, _) => (((p ^^^ 65535) &&& w &&& rise) ||| (p &&& (w ^^^ 65535) &&& fall)) &&& mask
      | none => 0
    ({ e with prev := some (w, 0, i.n), active := edges ≠ 0 }, some { x := w &&& mask })

/-- DET_VOTE (R265): a missing input counts as not set. -/
def detVote (i : DetIn) (e : DetEl) : DetEl × Option DetOut :=
  let c := (i.v.filter fun w => !missW w && w.testBit 0).length
  ({ e with active := c ≥ i.k }, some { x := f32OfInt c })

/-! ### One element, one tick (R263, R264) -/

/-- The idle state that the gap limit returns to; this tick's own value is kept (R543). -/
def detIdle (n : Nat) (e : DetEl) : DetEl :=
  { e with pd := {}, active := false, st := 0, intr := false, kb := 0, pds := [{}, {}, {}], exts := [none, none, none],
           prev := match e.prev with | some (a, b, t) => if t = n then some (a, b, t) else none | none => none,
           hist := e.hist.filter fun h => h.1 = n }

/-- A missing tick: state and counters hold, DUR keeps counting, and past MAX_GAP the element goes idle. -/
def detMissing (n gap : Nat) (was : Bool) (e : DetEl) : DetEl × Nat :=
  let lp := if e.seen then e.lastP else e.born - 1
  let e := if e.active || was then { e with dur := n - e.start } else e
  let fl := 8 + (if was && !e.active then 4 else 0)
  if gap ≠ 0 && n - lp > gap && !e.gone then
    let fl := if e.active then fl + 4 + 16 else fl
    let e := if e.active then { e with dur := lp - e.start } else e
    ({ detIdle n e with gone := true }, fl)
  else (e, fl + (if e.active then 1 + e.kb else 0))

/-- A present tick: RAISED, CLEARED, START, DUR and VALUE. -/
def detPresent (n : Nat) (was : Bool) (o : DetOut) (e : DetEl) : DetEl × Nat :=
  let e := { e with lastP := n, seen := true, gone := false }
  if e.active && (!was || o.restart) then
    ({ e with start := n, dur := 0, value := o.x, tag := o.tag }, 1 + 2 + (if o.restart then 4 else 0) + e.kb)
  else if e.active then
    let e := if o.tag ≠ e.tag || o.beats e.value then { e with value := o.x, tag := o.tag } else e
    ({ e with dur := n - e.start }, 1 + e.kb)
  else if was then ({ e with dur := n - e.start }, 4 + e.kb)
  else ({ e with value := o.x, tag := o.tag }, e.kb)

/-- Run one element: its new state and its 16-byte record. With its CONST record lost the tick counts as missing; what it is compared with later
is kept (R543). -/
def detElement (body : DetIn → DetEl → DetEl × Option DetOut) (gap : Nat) (lost : Bool) (i : DetIn) (e : DetEl) : DetEl × List Nat :=
  let was := e.active
  let (e, fl) := match body i e with
    | (e', none) => detMissing i.n gap was e'
    | (e', some o) =>
      if lost then detMissing i.n gap was { e with prev := e'.prev, hist := e'.hist } else detPresent i.n was o e'
  (e, [fl + 65536 * (if e.st ≠ 0 then e.st else if e.active then 1 else 0), e.value, e.start % 2 ^ 32, e.dur])

/-- A detector kernel over its N elements: `width` inputs and `cw` CONST words each. -/
def detKernel (body : DetIn → DetEl → DetEl × Option DetOut) (width cw gap : Nat) (inputs : List Nat) (k : KIn) : KOut :=
  let cs := constWords k
  let rs := (List.range (parN k)).map fun j =>
    let e := match k.st with
      | some (_, ws) => detDecode ((ws.drop (j * detWords)).take detWords)
      | none => { born := k.n }
    detElement body gap (constLost k)
      { n := k.n, rate := k.rate, k := parK k, v := firstN width (inputs.drop (j * width)), c := (cs.drop (j * cw)).take cw } e
  { data := (rs.map fun r => r.2).flatten, st := some (rs.map fun r => detEncode r.1).flatten, miss := missIn k }

def kDetLevel (k : KIn) : KOut := detKernel detLevel 1 4 (parB k) (floatsIn k) k
def kDetRate (k : KIn) : KOut := detKernel detRate 1 4 (parB k) (floatsIn k) k
def kDetAngsep (k : KIn) : KOut := detKernel detAngsep 4 4 (parB k) (floatsIn k) k
def kDetSagswell (k : KIn) : KOut := detKernel detSagswell 1 8 (parB k) (floatsIn k) k

/-- FREQ and ROCOF of the operands' slots, slot by slot. -/
def freqRocof (k : KIn) : List Nat := ((cellsIn k).map fun c => [c.got.freq, c.got.rocof]).flatten

def kDetFreq (k : KIn) : KOut := detKernel detFreq 2 8 (parB k) (freqRocof k) k

/-- Magnitudes first, then angles, taken pair by pair. -/
def magAngle (k : KIn) : List Nat :=
  let xs := floatsIn k
  ((List.range (parN k)).map fun i => [elemAt xs i, elemAt xs (parN k + i)]).flatten

def kDetStep (k : KIn) : KOut := detKernel detStep 2 4 (parB k) (magAngle k) k
def kDetDigital (k : KIn) : KOut :=
  detKernel detDigital 1 2 (parB k) ((digitalsIn k).map fun d => if d.2 then f32Nan else d.1) k

/-- DET_VOTE's inputs are flag words, ACTIVE in bit 0. -/
def kDetVote (k : KIn) : KOut := detKernel detVote (parM k) 0 0 (flagWords k) k

end Sys2Proof.Machine
end

