-- ==== Sys2Proof/Machine/Spectral.lean ====
section
/-!
DEFINITION. The spectral engine and the mode tracker (R224–R253): the sliding-DFT bank, bands and forced oscillations, the
tracked subspace, modes and damping, and dissipating energy flow. FP32 results the spec gives by formula only are computed
exactly from stored FP32 values and rounded once (log entry 22).
-/

namespace Sys2Proof.Machine

def State.setSpec (s : State) (x : Spec) : State := { s with spec := x }

def specCfgOf (i : Option Image) : SpecCfg := match i with | some i => i.spec | none => {}

/-- The data words of the operand that is the result of a function's item; `prev` for PREV_RESULT. -/
def State.engineOp (s : State) (i : Inst) (j unit code : Nat) (prev : Bool) : Option (List Nat) :=
  let its := s.items i
  let isFn (p : Nat) : Bool := match its[p]? with | some x => x.unit = unit && x.kernel = code | none => false
  match its[j]? with
  | none => none
  | some it =>
    match it.ops.zipIdx.find? fun o => match o.1 with | .result p _ _ => !prev && isFn p | .prev p _ _ => prev && isFn p | _ => false with
    | none => none
    | some o => match s.fetchOp i j o.2 i.tick false o.1 with
      | .block b => if b.miss then none else some b.words
      | .cells _ _ _ _ _ _ => none

/-! ### One bin (R230) -/

/-- ρ = exp(−πB/r) in double precision, kept as FP32. -/
def binRho (bw rate : Nat) : Nat :=
  f32OfQ (fpToQ fp64 (fpRound fp64 false (qExp ((qPi.mul (f32Q bw)).div (Q.ofInt rate)).neg)))

/-- φ = 2πf/r, likewise. -/
def binPhi (f rate : Nat) : Nat :=
  f32OfQ (fpToQ fp64 (fpRound fp64 false (((qPi.mul ⟨2, 1⟩).mul (f32Q f)).div (Q.ofInt rate))))

/-- X turned by e^(jφΔn), complex FP32 with fused multiply-add. -/
def binTurn (phi dn : Nat) (x : Nat × Nat) : Nat × Nat :=
  let (sn, cs) := qSinCos ((f32Q phi).mul (Q.ofInt dn))
  let c := f32OfQ cs
  let sn := f32OfQ sn
  (f32Fma c x.1 (f32Neg (f32Mul sn x.2)), f32Fma c x.2 (f32Mul sn x.1))

/-- One update of a bin over `dn` ticks, the last of which brings `x` or is missing. -/
def binStep (rho phi dn : Nat) (x : Option Nat) (z : Nat × Nat) : Nat × Nat :=
  let z := binTurn phi dn z
  match x with
  | some x => (f32Fma rho z.1 (f32Mul (f32Sub f32One rho) x), f32Mul rho z.2)
  | none => z

/-- A(s, k, n) = 2 |X|. -/
def binAmp (z : Nat × Nat) : Nat := f32Mul 0x40000000 (f32Mag z.1 z.2)

/-- ⌈3r / (πB)⌉. -/
def settleTicks (rate bw : Nat) : Nat :=
  let q := ((Q.ofInt (3 * rate)).div (qPi.mul (f32Q bw))).neg.floor
  (-q).toNat

/-- Half seconds to ns. -/
def halfSec (n : Nat) : Nat := n * 500000000

/-! ### Signals and bands (R231 to R235) -/

/-- Narrowest bin of a band. -/
def bandMinBw (c : SpecCfg) (b : SpecBand) : Nat :=
  let ws := ((c.bins.drop b.first).take b.count).map fun x => x.bw
  ws.foldl (fun m x => if f32Lt x m then x else m) (ws.getD 0 f32One)

/-- A signal's state before its first run. -/
def sigInit (c : SpecCfg) : SpecSigSt :=
  { xs := List.replicate c.bins.length (0, 0), settle := List.replicate c.bands.length (some 0), peak := List.replicate c.bands.length none }

/-- One signal over `dn` ticks: its bins, its missing run, its SETTLING counts; and whether its bins were cleared. -/
def sigStep (c : SpecCfg) (rate dn : Nat) (x : Option Nat) (st : SpecSigSt) : SpecSigSt × Bool :=
  let xs := (List.zip c.bins st.xs).map fun b => binStep (binRho b.1.bw rate) (binPhi b.1.f rate) dn x b.2
  let run := st.miss + (dn - 1)
  let run' := if x.isSome then run else run + 1
  let reset := st.miss < c.gap && run' ≥ c.gap
  let clear := (List.zip c.bins (sigInit c).xs).map fun b => binStep (binRho b.1.bw rate) (binPhi b.1.f rate) 1 x b.2
  let st := if reset then { sigInit c with xs := clear } else { st with xs := xs }
  let settle := (List.zip c.bands st.settle).map fun b =>
    match b.2 with
    | some k => if x.isNone then some k else if k + 1 ≥ settleTicks rate (bandMinBw c b.1) then none else some (k + 1)
    | none => none
  ({ st with miss := if x.isSome then 0 else run', settle := settle }, reset)

/-- A signal's part in one band: amplitudes of its bins, peak bin, peak energy, band energy, and the mean of its peak. -/
structure BandSig where
  sig : Nat
  bin : Nat
  amp : Nat
  e : Nat
  eb : Nat
  cand : Bool
deriving DecidableEq, Repr

/-- The peak bin of a band, the lower on ties. -/
def bandPeak (first : Nat) (amps : List Nat) : Nat × Nat :=
  amps.zipIdx.foldl (fun m x => if f32Lt m.2 x.1 then (first + x.2, x.1) else m) (first, amps.getD 0 0)

/-- m(s, b): restarts at the present amplitude when the peak bin changes or the signal becomes OK. -/
def peakMean (win rate bin amp : Nat) (old : Option (Nat × Nat)) : Nat :=
  match old with
  | some (b, m) => if b = bin then exact [amp, m] ((f32Q m).add (((f32Q amp).sub (f32Q m)).mul ⟨10, max 1 (win * rate)⟩)) else amp
  | none => amp

/-- Units of 0.005. -/
def milli5 (n : Nat) : Q := ⟨n, 200⟩

/-- Forced-oscillation candidate (R235). -/
def foCand (ethr amp e eb mean share dev : Nat) : Bool :=
  ((f32Q ethr).div ⟨4, 1⟩).le (f32Q e) && ((milli5 share).mul (f32Q eb)).le (f32Q e) &&
  ((f32Q amp).sub (f32Q mean)).abs.le ((milli5 dev).mul (f32Q amp))

/-- What a band's signals show at this tick. -/
structure BandTick where
  hot : Nat
  warm : Nat
  nOk : Nat
  peakE : Nat
  peakSig : Nat
  bin : Nat
  cands : Nat
deriving DecidableEq, Repr

def bandTick (ethr : Nat) (bs : List BandSig) : BandTick :=
  let hot := (bs.filter fun x => f32Le ethr x.e).length
  let warm := (bs.filter fun x => ((⟨16, 25⟩ : Q).mul (f32Q ethr)).le (f32Q x.e)).length
  let top := bs.foldl (fun m x => match m with | none => some x | some y => if f32Lt y.e x.e then some x else some y) none
  let cs := bs.filter fun x => x.cand
  let count (b : Nat) := (cs.filter fun x => x.bin = b).length
  let best := cs.foldl (fun m x => match m with
    | none => some x.bin
    | some y => if count x.bin > count y || (count x.bin = count y && x.bin < y) then some x.bin else some y) none
  let tops := (bs.filter fun x => match top with | some t => !f32Lt x.e t.e | none => false).map fun x => x.bin
  { hot := hot, warm := warm, nOk := bs.length, peakE := (top.map fun x => x.e).getD 0, peakSig := (top.map fun x => x.sig).getD 0,
    bin := best.getD (tops.foldl min (tops.headD 0)),
    cands := match best with | some b => count b | none => 0 }

/-- Since when a condition has held. -/
def holdSince (inst : Nat) (cond : Bool) (since : Option Nat) : Option Nat :=
  if cond then some (since.getD inst) else none

def heldFor (inst dur : Nat) (since : Option Nat) : Bool :=
  match since with
  | some t => t + dur ≤ inst
  | none => false

/-- ENERGY and FO of a band at an evaluated tick (R234, R235); and whether either changed. -/
def bandStep (n inst persist foPersist minSig : Nat) (foEn : Bool) (t : BandTick) (b : BandSt) : BandSt × Bool × Bool :=
  let hot := holdSince inst (t.hot ≥ minSig) b.hotSince
  let cold := holdSince inst (t.warm < minSig) b.coldSince
  let energy := if b.energy then !heldFor inst (halfSec persist) cold else heldFor inst (halfSec persist) hot
  let cand := foEn && t.cands ≥ minSig && minSig > 0
  let foSince := if cand then (match b.foSince with | some (i, k) => if k = t.bin then some (i, k) else some (inst, t.bin) | none => some (inst, t.bin)) else none
  let noFo := holdSince inst (!cand) b.noFoSince
  let fo := if b.fo then !heldFor inst (halfSec foPersist) noFo else heldFor inst (halfSec foPersist) (foSince.map fun x => x.1)
  let changed := energy ≠ b.energy || fo ≠ b.fo
  ({ hotSince := hot, coldSince := cold, foSince := foSince, noFoSince := noFo, energy := energy, fo := fo,
     energyTick := if energy && !b.energy then n else b.energyTick, foTick := if fo && !b.fo then n else b.foTick }, changed, cand)

/-! ### SDFT_UPDATE -/

/-- The scaled input of each signal; missing ones `none`. -/
def specInputs (c : SpecCfg) (xs : List Nat) : List (Option Nat) :=
  c.sigs.map fun g => let x := elemAt xs g.src
    if f32Finite x then some (f32Mul g.scale x) else none

/-- Signals that are OK for a band: present, and past settling. -/
def okFor (b : Nat) (x : Option Nat) (st : SpecSigSt) : Bool := x.isSome && (st.settle.getD b none).isNone

/-- The band (if any) that holds a bin. -/
def bandOf (c : SpecCfg) (k : Nat) : Option Nat := c.bands.findIdx? fun b => b.first ≤ k && k < b.first + b.count

/-- A bin's entry of the result (R236). -/
def binEntry (c : SpecCfg) (k : Nat) (sts : List (Option Nat × SpecSigSt)) : List Nat :=
  let ok := sts.zipIdx.filter fun x => match bandOf c k with | some b => okFor b x.1.1 x.1.2 | none => x.1.1.isSome
  let amps := ok.map fun x => (binAmp (x.1.2.xs.getD k (0, 0)), x.2)
  let top := amps.foldl (fun m x => match m with | none => some x | some y => if f32Lt y.1 x.1 then some x else some y) none
  let mean := if amps.isEmpty then 0 else f32OfQ ((Q.sum (amps.map fun x => f32Q x.1)).div ⟨amps.length, 1⟩)
  [(top.map fun x => x.1).getD 0, (top.map fun x => x.2).getD 0 + 65536 * amps.length, mean, 0]

/-- The spectral engine's run over `dn` ticks, on signals that have been stepped. Answers each band's entry and the new state. -/
def bandRun (n inst rate : Nat) (c : SpecCfg) (s : State) (b : Nat) (ins : List (Option Nat)) : State × List Nat :=
  match c.bands[b]? with
  | none => (s, List.replicate 16 0)
  | some bd =>
    let ethr := s.rd (fSPEC_BAND_THR_E_THR b)
    let win := s.rd fSPEC_FO_CFG_FO_WIN
    let foEn := s.on (fSPEC_BAND_CFG_FO_EN b)
    let part (x : Option Nat × SpecSigSt) (i : Nat) : Option (BandSig × Nat) :=
      if okFor b x.1 x.2 then
        let amps := ((x.2.xs.drop bd.first).take bd.count).map binAmp
        let (bin, amp) := bandPeak bd.first amps
        let e := f32Mul amp amp
        let eb := f32OfQ (Q.sum (amps.map fun a => (f32Q a).mul (f32Q a)))
        let mean := peakMean win rate bin amp (x.2.peak.getD b none)
        some ({ sig := i, bin := bin, amp := amp, e := e, eb := eb,
                cand := foEn && foCand ethr amp e eb mean (s.rd fSPEC_FO_CFG_FO_SHARE) (s.rd fSPEC_FO_CFG_FO_DEV) }, mean)
      else none
    let parts := (List.zip ins s.spec.sigs).zipIdx.map fun x => part x.1 x.2
    let sigs := (List.zip s.spec.sigs parts).map fun x => { x.1 with peak := x.1.peak.set b (x.2.map fun p => (p.1.bin, p.2)) }
    let t := bandTick ethr (parts.filterMap fun p => p.map fun x => x.1)
    let old := s.spec.bands.getD b {}
    let en := s.on (fSPEC_BAND_CFG_EN b)
    let (st, changed, cand) := if en then
        bandStep n inst (s.rd (fSPEC_BAND_CFG_PERSIST b)) (s.rd (fSPEC_BAND_CFG_FO_PERSIST b)) (s.rd (fSPEC_BAND_CFG_MIN_SIG b)) foEn t old
      else ({ energyTick := old.energyTick, foTick := old.foTick }, false, false)
    let freq := (c.bins[t.bin]?.map fun x => x.f).getD 0
    let s := s.setSpec { s.spec with sigs := sigs, bands := s.spec.bands.set b st }
    let s := ((s.wrB (fSPEC_BAND_STS_ENERGY b) st.energy).wrB (fSPEC_BAND_STS_FO_CAND b) cand).wrB (fSPEC_BAND_STS_FO b) st.fo
    let s := ((s.wr (fSPEC_BAND_STS_PEAK_BIN b) t.bin).wr (fSPEC_BAND_STS_HOT b) t.hot).wr (fSPEC_BAND_PEAK_PEAK_FREQ b) freq
    let s := if st.energy && !old.energy then s.flag fSPEC_FLT_FLAGS 6 else s
    let s := if st.fo && !old.fo then s.flag fSPEC_FLT_FLAGS 7 else s
    let fl := boolW st.energy + 2 * boolW cand + 4 * boolW st.fo + 8 * boolW changed
    (s, [fl + 65536 * t.hot, t.cands + 65536 * t.bin, freq, t.peakE, t.peakSig + 65536 * t.nOk, 0,
         st.energyTick % 2 ^ 32, st.energyTick / 2 ^ 32, st.foTick % 2 ^ 32, st.foTick / 2 ^ 32, 0, 0, 0, 0, 0, 0])

/-- SDFT_UPDATE on an instance's item (R229 to R236). -/
def sdftRun (i : Inst) (j : Nat) (k : KIn) (s : State) : State :=
  let c := specCfgOf (s.instImg i)
  let dn := match s.spec.sdftTick with | some t => max 1 (i.tick - t) | none => 1
  let ins := specInputs c (floatsIn k)
  let sigs0 := if s.spec.sdftTick.isNone || s.spec.sigs.length ≠ c.sigs.length then c.sigs.map fun _ => sigInit c else s.spec.sigs
  let stepped := (List.zip ins sigs0).map fun x => sigStep c k.rate dn x.1 x.2
  let resets := (stepped.filter fun x => x.2).length
  let sigs := stepped.map fun x => x.1
  let bands0 := if s.spec.bands.length = c.bands.length then s.spec.bands else List.replicate c.bands.length {}
  let s := s.setSpec { s.spec with sigs := sigs, sdftTick := some i.tick, bands := bands0 }
  let s := if resets = 0 then s else (s.inc fSPEC_GAP_CNT_RESETS resets).flag fSPEC_FLT_FLAGS 0
  let hold := (ins.filter fun x => x.isNone).length
  let settling := (sigs.filter fun x => x.settle.any fun y => y.isSome).length
  let s := (s.wr fSPEC_STS_HOLD hold).wr fSPEC_STS_SETTLING settling
  let bins := ((List.range c.bins.length).map fun b => binEntry c b (List.zip ins sigs)).flatten
  let (s, bands) := (List.range 16).foldl (fun (a : State × List Nat) b =>
    let (s, ws) := bandRun i.tick k.inst k.rate c a.1 b ins
    (s, a.2 ++ ws)) (s, [])
  let holdMap := (ins.zipIdx.foldl (fun m x => if x.1.isNone then m + 2 ^ x.2 else m) 0)
  let buf := (i.tick, holdMap, (sigs.map fun g => g.xs.map binAmp).flatten)
  let s := s.setSpec { s.spec with bufs := s.spec.bufs.set (i.tick % 2) buf }
  putOut i j { data := bins ++ bands, miss := missIn k } s

/-- An instance of the table before a swap runs on the bank that did not carry over (R216, R227). -/
def sdftFor (i : Inst) (run : State → State) (s : State) : State :=
  match i.old, s.spec.oldSdft with
  | true, some (a, b, c) =>
    let t := run (s.setSpec { s.spec with sigs := a, sdftTick := b, bands := c })
    t.setSpec { t.spec with sigs := s.spec.sigs, sdftTick := s.spec.sdftTick, bands := s.spec.bands,
                            oldSdft := some (t.spec.sigs, t.spec.sdftTick, t.spec.bands) }
  | _, _ => run s

/-- SDFT_UPDATE (unit 1, function 1). -/
def execSdftUpdate (n : Nat) (item : Fin 4096) (s : State) : Out :=
  .next (match s.isRunning n item 1 1 with
    | some (i, it) => sdftFor i (sdftRun i item (s.kin i item it n false)) s
    | none => s)

/-! ### The mode tracker (R237 to R244) -/

abbrev Mat := List (List Nat)

def matAt (m : Mat) (r c : Nat) : Nat := (m.getD r []).getD c 0
def matTab (rows cols : Nat) (f : Nat → Nat → Nat) : Mat := (List.range rows).map fun r => (List.range cols).map (f r)
def identity (n k : Nat) : Mat := matTab n n fun r c => if r = c then k else 0
def qDot (a b : List Nat) : Q := Q.sum ((List.zip a b).map fun x => (f32Q x.1).mul (f32Q x.2))
def matVec (m : Mat) (v : List Nat) : List Nat := m.map fun r => f32OfQ (qDot r v)
def matCol (m : Mat) (c : Nat) : List Nat := m.map fun r => r.getD c 0

/-- Uᵀ y. -/
def project (u : Mat) (p : Nat) (y : List Nat) : List Nat := (List.range p).map fun c => f32OfQ (qDot (matCol u c) y)

/-- p of a tracker of m signals (R238). -/
def trkP (m : Nat) : Nat := min 64 m / 2 * 2

/-- The tracker as it is after a reset. -/
def trkReset (c : TrkCfg) (t : TrkSt) : TrkSt :=
  let p := trkP c.m
  { taps := t.taps, u := matTab c.m p fun r k => if r = k then f32One else 0, pm := identity p f32One, a := matTab p p fun _ _ => 0,
    q := identity p 0x447A0000, cov := matTab p p fun _ _ => 0, nextId := t.nextId }

/-- λ = exp(−1 / (r_t × T_MEM)) in FP32. -/
def trkLambda (c : TrkCfg) (rate : Nat) : Nat := f32OfQ (qExp ⟨-(c.dec : Int), max 1 (rate * c.tMem)⟩)

/-- One processed sample (R238): the subspace, then the dynamics. `y` holds 0 where an element is missing. -/
def trkUpdate (c : TrkCfg) (rate : Nat) (y : List Nat) (present : List Bool) (t : TrkSt) : TrkSt :=
  let p := trkP c.m
  let lam := f32Q (trkLambda c rate)
  let w := project t.u p y
  let h := matVec t.pm w
  let den := lam.add (qDot w h)
  let g := h.map fun x => f32OfQ ((f32Q x).div den)
  let pm := matTab p p fun r k => f32OfQ (((f32Q (matAt t.pm r k)).sub ((f32Q (g.getD r 0)).mul (f32Q (h.getD k 0)))).div lam)
  let uw := matVec t.u w
  let u := (List.zip t.u (List.range c.m)).map fun x =>
    if present.getD x.2 false then
      let e := (f32Q (y.getD x.2 0)).sub (f32Q (uw.getD x.2 0))
      (List.range p).map fun k => f32OfQ ((f32Q (x.1.getD k 0)).add (e.mul (f32Q (g.getD k 0))))
    else x.1
  let cov := matTab p p fun r k => f32OfQ ((lam.mul (f32Q (matAt t.cov r k))).add ((f32Q (w.getD r 0)).mul (f32Q (w.getD k 0))))
  let t := { t with u := u, pm := pm, cov := cov }
  let t := match t.yPrev with
    | none => t
    | some yp =>
      let wp := project u p yp
      let qw := matVec t.q wp
      let den := lam.add (qDot wp qw)
      let k := qw.map fun x => f32OfQ ((f32Q x).div den)
      let aw := matVec t.a wp
      let a := matTab p p fun r c' => f32OfQ ((f32Q (matAt t.a r c')).add (((f32Q (w.getD r 0)).sub (f32Q (aw.getD r 0))).mul (f32Q (k.getD c' 0))))
      let wq := (List.range p).map fun c' => f32OfQ (qDot wp (matCol t.q c'))
      let q := matTab p p fun r c' => f32OfQ (((f32Q (matAt t.q r c')).sub ((f32Q (k.getD r 0)).mul (f32Q (wq.getD c' 0)))).div lam)
      { t with a := a, q := q }
  { t with yPrev := some y, samples := t.samples + 1, skippedSince := none }

/-- Complex Gauss-Jordan, for V⁻¹. -/
def cDiv (a b : Q × Q) : Q × Q :=
  let m := (b.1.mul b.1).add (b.2.mul b.2)
  let z := cMul a (b.1, b.2.neg)
  if m.isZero then (⟨0, 1⟩, ⟨0, 1⟩) else ((z.1.div m).red, (z.2.div m).red)

def cZero (z : Q × Q) : Bool := z.1.isZero && z.2.isZero

def cClear (c : Nat) (pivot row : List (Q × Q)) : List (Q × Q) :=
  let f := cDiv (row.getD c (⟨0, 1⟩, ⟨0, 1⟩)) (pivot.getD c (⟨1, 1⟩, ⟨0, 1⟩))
  List.zipWith (fun x p => let z := cMul f p; ((x.1.sub z.1).red, (x.2.sub z.2).red)) row pivot

def cGauss : Nat → Nat → List (List (Q × Q)) → List (List (Q × Q)) → Option (List (List (Q × Q)))
  | 0, _, piv, _ => some piv
  | k + 1, c, piv, rows =>
    match rows.find? fun r => !cZero (r.getD c (⟨0, 1⟩, ⟨0, 1⟩)) with
    | none => none
    | some p => cGauss k (c + 1) (piv.map (cClear c p) ++ [p]) ((rows.erase p).map (cClear c p))

/-- The rows of V⁻¹, where V has the eigenvectors as columns; none where V is singular. -/
def cInverse (vs : List (List (Nat × Nat))) : Option (List (List (Q × Q))) :=
  let p := vs.length
  let rows := (List.range p).map fun r =>
    (vs.map fun v => cOf (v.getD r (0, 0))) ++ (List.range p).map fun c => if c = r then (⟨1, 1⟩, ⟨0, 1⟩) else (⟨0, 1⟩, ⟨0, 1⟩)
  (cGauss p 0 [] rows).map fun rs => rs.zipIdx.map fun r => (r.1.drop p).map fun x => cDiv x (r.1.getD r.2 (⟨1, 1⟩, ⟨0, 1⟩))

/-- The weighted energy Σ λ^k |c_i|² of each modal coordinate. -/
def modalEnergy (cov : Mat) (inv : List (List (Q × Q))) : List Q :=
  inv.map fun row =>
    let terms := row.zipIdx.map fun a => row.zipIdx.map fun b =>
      ((cMul a.1 (b.1.1, b.1.2.neg)).1).mul (f32Q (matAt cov a.2 b.2))
    (Q.sum terms.flatten).red

/-- A mode as an evaluation finds it. -/
structure FoundMode where
  freq : Nat
  zeta : Nat
  share : Nat
  shape : List (Nat × Nat)
deriving DecidableEq, Repr

/-- The upper frequency reported (R237). -/
def fTop (c : TrkCfg) (rate : Nat) : Q :=
  let x : Q := if c.dec > 1 then ⟨7 * rate, 20 * c.dec⟩ else ⟨9 * rate, 20⟩
  if x.lt ⟨5, 1⟩ then x else ⟨5, 1⟩

/-- U v, scaled so that its largest element is 1 at angle 0. -/
def modeShape (u : Mat) (v : List (Nat × Nat)) : List (Nat × Nat) :=
  let xs := u.map fun r => ((Q.sum ((List.zip r v).map fun x => (f32Q x.1).mul (f32Q x.2.1))).red,
                            (Q.sum ((List.zip r v).map fun x => (f32Q x.1).mul (f32Q x.2.2))).red)
  let sq (z : Q × Q) := (z.1.mul z.1).add (z.2.mul z.2)
  let big := xs.foldl (fun m z => if (sq m).lt (sq z) then z else m) (xs.getD 0 (⟨0, 1⟩, ⟨0, 1⟩))
  xs.map fun z => let y := cDiv z big; (f32OfQ y.1, f32OfQ y.2)

/-- The modes of one evaluation, by share (R239). -/
def findModes (c : TrkCfg) (rate : Nat) (t : TrkSt) (es : List (Nat × Nat × List (Nat × Nat))) : List FoundMode :=
  let energies := match cInverse (es.map fun e => e.2.2) with | some inv => modalEnergy t.cov inv | none => es.map fun _ => ⟨0, 1⟩
  let total := Q.sum energies
  let rt : Q := ⟨rate, max 1 c.dec⟩
  let ms := es.zipIdx.filterMap fun x =>
    let (re, im, v) := x.1
    if f32Lt 0 im then
      let a := cOf (re, im)
      let m2 := (a.1.mul a.1).add (a.2.mul a.2)
      let sig := rt.mul ((qLn m2).div ⟨2, 1⟩)
      let om := rt.mul (qAtan2 (a.2.num * a.1.den) (a.1.num * a.2.den))
      let f := om.div (qPi.mul ⟨2, 1⟩)
      let z := sig.neg.div (qSqrt ((sig.mul sig).add (om.mul om)))
      let e := energies.getD x.2 ⟨0, 1⟩
      if f.lt ⟨1, 100⟩ || (fTop c rate).lt f then none
      else some { freq := f32OfQ f, zeta := f32OfQ z, share := if total.isZero then 0 else f32OfQ (e.div total), shape := modeShape t.u v : FoundMode }
    else none
  let order := sortDesc (ms.zipIdx.map fun x => (x.1.share, x.2))
  (order.filterMap fun o => ms[o.2]?).take c.modesMax

/-- The next free identity from `from`, wrapping past 255 to 1. -/
def freeId : Nat → List Nat → Nat → Nat
  | 0, _, k => k
  | n + 1, used, k => let k := if k = 0 || k > 255 then 1 else k
    if used.contains k then freeId n used (k + 1) else k

/-- Match found modes, in order of share, with the previous ones (R240). Answers the modes, the previous ones left, nextId. -/
def matchModes (matchHz : Nat) : List FoundMode → List ModeSt → List Nat → Nat → List ModeSt × List ModeSt × Nat
  | [], old, _, next => ([], old, next)
  | m :: ms, old, used, next =>
    let dist (o : ModeSt) : Q := ((f32Q o.freq).sub (f32Q m.freq)).abs
    let near := old.foldl (fun b o => if (dist o).le (f32Q matchHz) then
        (match b with | none => some o | some x => if (dist o).lt (dist x) then some o else some x) else b) none
    match near with
    | some o =>
      let st := { o with freq := m.freq, zeta := m.zeta, share := m.share, new := false, missed := 0, lost := false, changed := false,
                         zetas := (m.zeta :: o.zetas).take 8, shape := m.shape }
      let (r, left, nx) := matchModes matchHz ms (old.erase o) used next
      (st :: r, left, nx)
    | none =>
      let id := freeId 255 used next
      let st : ModeSt := { id := id, freq := m.freq, zeta := m.zeta, share := m.share, conf := 0, new := true, zetas := [m.zeta], shape := m.shape }
      let (r, left, nx) := matchModes matchHz ms old (id :: used) (id + 1)
      (st :: r, left, nx)

/-- conf of R241. -/
def modeConf (c : TrkCfg) (m : ModeSt) : Nat :=
  if m.zetas.length < 8 then 0
  else
    let zs := m.zetas.map f32Q
    let mean := (Q.sum zs).div ⟨8, 1⟩
    let var := (Q.sum (zs.map fun z => (z.sub mean).mul (z.sub mean))).div ⟨8, 1⟩
    let a := (f32Q m.share).div (f32Q c.eRef)
    let b := (Q.ofInt 1).sub ((qSqrt var).div (f32Q c.zSpread))
    let a := if (Q.ofInt 1).lt a then Q.ofInt 1 else a
    let b := if b.lt ⟨0, 1⟩ then ⟨0, 1⟩ else b
    f32OfQ (a.mul b)

/-- Thousandths: the units of ZETA_WARN and its neighbours. -/
def permille (n : Nat) : Q := ⟨n, 1000⟩

def modeEligible (s : State) (m : ModeSt) : Bool :=
  (Q.le ⟨s.rd fSPEC_TRK_CFG2_F_LO, 100⟩ (f32Q m.freq)) && ((f32Q m.freq).le ⟨s.rd fSPEC_TRK_CFG2_F_HI, 100⟩) &&
  ((milli5 (s.rd fSPEC_TRK_CFG_CONF_MIN)).le (f32Q m.conf)) && !m.forced

/-- The damping state of a mode at an evaluation (R242). -/
def dampStep (s : State) (inst : Nat) (m : ModeSt) : ModeSt :=
  let z := f32Q m.zeta
  let warn := permille (s.rd fSPEC_TRK_CFG_ZETA_WARN)
  let alarm := permille (s.rd fSPEC_TRK_CFG_ZETA_ALARM)
  let hyst := permille (s.rd fSPEC_TRK_CFG_ZETA_HYST)
  let el := modeEligible s m
  let conds := [el && z.lt warn, el && z.lt alarm, (alarm.add hyst).le z || !el, (warn.add hyst).le z || !el]
  let since := (List.zip conds m.since).map fun x => holdSince inst x.1 x.2
  let held (k : Nat) : Bool := heldFor inst (halfSec (s.rd fSPEC_TRK_CFG2_D_PERSIST)) (since.getD k none)
  let st := if m.forced then 0
    else if m.dstate = 2 then (if held 2 then (if z.lt warn && el then 1 else 0) else 2)
    else if held 1 then 2
    else if m.dstate = 1 then (if held 3 then 0 else 1)
    else if held 0 then 1 else 0
  { m with eligible := el, since := since, dstate := st, changed := st ≠ m.dstate }

/-- Modes left unmatched: kept until their third miss; one dropped from WARN or ALARM is shown once more as LOST. -/
def missMode (m : ModeSt) : Option ModeSt :=
  if m.lost then none
  else if m.missed + 1 ≥ 3 then
    (if m.dstate = 0 then none else some { m with missed := m.missed + 1, dstate := 0, changed := true, lost := true, new := false })
  else some { m with missed := m.missed + 1, changed := false, new := false }

/-- The table shown: reported modes and lost ones, a lost one taking the place of the smallest share when the table is full. -/
def shownModes (c : TrkCfg) (ms : List ModeSt) : List ModeSt :=
  let rep := ms.filter fun m => m.missed = 0
  let lost := ms.filter fun m => m.lost
  rep.take (c.modesMax - min c.modesMax lost.length) ++ lost.take c.modesMax

/-- A reported mode lies near the forced oscillation of a band: FO set, PEAK_FREQ, bandwidth of the peak bin (R243). -/
def forcedNear (c : TrkCfg) (bands : List (Bool × Nat × Nat)) (m : ModeSt) : Bool :=
  bands.any fun b =>
    let w := if f32Lt b.2.2 c.matchHz then c.matchHz else b.2.2
    b.1 && ((f32Q m.freq).sub (f32Q b.2.1)).abs.le (f32Q w)

/-- One evaluation (R239 to R242). `valid`: past warm-up; before it no mode is reported, and none has a damping state (log entry 22). -/
def trkEval (c : TrkCfg) (n inst rate : Nat) (valid : Bool) (bands : List (Bool × Nat × Nat)) (s : State) : State :=
  let t := s.spec.trk
  match Config.eig t.a with
  | none =>
    let s := (s.inc fSPEC_EIGFAIL_CNT_EVALS).flag fSPEC_FLT_FLAGS 4
    s.setSpec { s.spec with trk := { t with evalFlags := t.evalFlags ||| 4 } }
  | some es =>
    let found := findModes c rate t es
    let old := t.modes.filter fun m => !m.lost
    let (ms, left, next) := matchModes c.matchHz found old (old.map fun m => m.id) t.nextId
    let ms := ms.map fun m =>
      let m := { m with conf := modeConf c m, forced := forcedNear c bands m }
      if valid then dampStep s inst m else m
    let gone := left.filterMap missMode
    let s := if ms.any fun m => m.changed && m.dstate = 1 then s.flag fSPEC_FLT_FLAGS 8 else s
    let s := if ms.any fun m => m.changed && m.dstate = 2 then s.flag fSPEC_FLT_FLAGS 9 else s
    let all := ms ++ gone
    let shapes := (n, (shownModes c all).map fun m => m.shape)
    s.setSpec { s.spec with trk := { t with modes := all, nextId := next, evalTick := n, age := 0, evalFlags := t.evalFlags ||| 2 },
                            shapes := [s.spec.shapes.getD 0 (0, []), s.spec.shapes.getD 1 (0, [])].set (n % 2) shapes }

/-- Classification of the bands with FO set (R243): marks modes FORCED, and answers each band's class. Without bands no mode is FORCED. -/
def classify (c : TrkCfg) (s : State) (bands : List (Bool × Nat × Nat)) : State × List Nat :=
  let t := s.spec.trk
  let mark (m : ModeSt) : ModeSt :=
    if m.lost || m.missed ≠ 0 then m
    else
      let f := forcedNear c bands m
      let m := { m with forced := f }
      let m := { m with eligible := modeEligible s m }
      if f && m.dstate ≠ 0 then { m with dstate := 0, changed := true } else m
  let ms := t.modes.map mark
  let warn := permille (s.rd fSPEC_TRK_CFG_ZETA_WARN)
  let cls := bands.map fun b =>
    if !b.1 then 0
    else if ms.any fun m => m.missed = 0 && m.eligible && !m.forced && ((f32Q m.freq).sub (f32Q b.2.1)).abs.le (f32Q c.foNear) && (f32Q m.zeta).lt warn then 2
    else 1
  (s.setSpec { s.spec with trk := { t with modes := ms } }, cls)

/-- Insert a mode's magnitude ordering: the four signals with the largest shape elements. -/
def topShapes (shape : List (Nat × Nat)) : List Nat :=
  ((sortDesc (shape.zipIdx.map fun x => (f32Mag x.1.1 x.1.2, x.2))).take 4).map fun x => x.2

/-- A mode's 64-byte entry (R244). -/
def modeEntry (m : ModeSt) : List Nat :=
  let top := topShapes m.shape
  let sg (k : Nat) := top.getD k 0
  let sh (k : Nat) := m.shape.getD (sg k) (0, 0)
  [m.id + 256 * (boolW m.forced + 2 * boolW m.new + 4 * boolW m.eligible) + 65536 * m.dstate + 2 ^ 24 * (boolW m.changed + 2 * boolW m.lost),
   m.freq, m.zeta, m.conf, m.share, 0, sg 0 + 65536 * sg 1, sg 2 + 65536 * sg 3] ++ flatPhasors [sh 0, sh 1, sh 2, sh 3]

/-- The tracker filter's output at this tick (R237), and its taps. -/
def trkFilter (c : TrkCfg) (dn : Nat) (y : List Nat) (t : TrkSt) : List Nat × List (List Nat) :=
  if c.dec ≤ 1 then (y, [])
  else
    let gap := List.replicate (min 48 (dn - 1)) (List.replicate c.m f32Nan)
    let taps := (y :: (gap ++ t.taps) ++ List.replicate 48 (List.replicate c.m f32Nan)).take 48
    ((List.range c.m).map (firAt (Config.trkFir c.dec) taps), taps)

/-- The samples that make a model valid: r_t × T_MEM / 4. -/
def trkWarm (c : TrkCfg) (rate : Nat) : Nat := ceilDiv (rate * c.tMem) (4 * max 1 c.dec)

/-- `k` skipped samples, the first at `first` and the last at `last` (R238): TRK_SKIP, and past GAP_S a reset. -/
def trkSkip (c : TrkCfg) (k first last : Nat) (s : State) : State :=
  let t := s.spec.trk
  let since := t.skippedSince.getD first
  let s := s.flag fSPEC_FLT_FLAGS 3
  if last - since > c.gapS * 1000000000 then
    (s.setSpec { s.spec with trk := { trkReset c t with evalFlags := 8 } }).flag fSPEC_FLT_FLAGS 2
  else s.setSpec { s.spec with trk := { t with skippedSince := some since, age := min (t.age + k) 65535 } }

/-- A tracker sample of tick `n` (R238, R239): skipped when more than 10 % of it is missing. -/
def trkSample (c : TrkCfg) (n inst rate : Nat) (bands : List (Bool × Nat × Nat)) (y : List Nat) (s : State) : State :=
  let present := y.map f32Finite
  if (present.filter fun p => !p).length * 10 > c.m then trkSkip c 1 inst inst s
  else
    let t := trkUpdate c rate (y.map fun x => if f32Finite x then x else 0) present s.spec.trk
    let s := s.setSpec { s.spec with trk := { t with age := min (t.age + 1) 65535 } }
    if t.samples % max 1 c.eval = 0 then trkEval c n inst rate (t.samples ≥ trkWarm c rate) bands s else s

/-- The bands of an SDFT_UPDATE result operand: FO, PEAK_FREQ and the bandwidth of the peak bin. -/
def bandsOf (c : SpecCfg) (ws : List Nat) : List (Bool × Nat × Nat) :=
  (List.range 16).map fun b =>
    let w (k : Nat) := ws.getD (4 * c.bins.length + 16 * b + k) 0
    ((w 0).testBit 2, w 2, (c.bins[(w 1 / 65536) % 256]?.map fun x => x.bw).getD 0)

/-- MODE_TRACK on an instance's item. -/
def trkRun (i : Inst) (j : Nat) (k : KIn) (s : State) : State :=
  let sc := specCfgOf (s.instImg i)
  match sc.trk with
  | none => putOut i j { data := List.replicate 8 0 } s
  | some c =>
    let t0 := if s.spec.trkTick.isNone || s.spec.trk.u.length ≠ c.m then trkReset c s.spec.trk else s.spec.trk
    let dn := match s.spec.trkTick with | some t => max 1 (i.tick - t) | none => 1
    let (y, taps) := trkFilter c dn (firstN c.m (floatsIn k)) t0
    let s := s.setSpec { s.spec with trk := { t0 with taps := taps }, trkTick := some i.tick }
    -- the sample ticks that have passed without a run are skipped samples (R226): from `a` to `b`
    let dec := max 1 c.dec
    let a := (i.tick - dn + dec) / dec * dec
    let b := (i.tick - 1) / dec * dec
    let s := if dn ≤ 1 || b < a then s else trkSkip c ((b - a) / dec + 1) (s.tickInst a) (s.tickInst b) s
    let bands := match s.engineOp i j 1 1 false with
      | some ws => bandsOf sc ws
      | none => List.replicate 16 (false, 0, 0)
    let s := if i.tick % dec = 0 then trkSample c i.tick k.inst k.rate bands y s else s
    let (s, cls) := classify c s bands
    let t := s.spec.trk
    let valid := t.samples ≥ trkWarm c k.rate
    let shown := if valid then shownModes c t.modes else []
    let s := (((s.wr fSPEC_TRK_STS_MODES shown.length).wrB fSPEC_TRK_STS_VALID valid).wr fSPEC_TRK_STS_ALARMS
      (shown.filter fun m => m.dstate = 2).length).wr fSPEC_TRK_STS_SAMPLES (min t.samples 65535)
    let fo := (List.range 4).map fun w => ((List.range 4).map fun b => cls.getD (4 * w + b) 0 * 2 ^ (8 * b)).sum
    let head := [shown.length + 256 * (boolW valid + t.evalFlags) + 65536 * t.age, 0, t.evalTick % 2 ^ 32, t.evalTick / 2 ^ 32] ++ fo
    let s := s.setSpec { s.spec with trk := { t with evalFlags := 0 } }
    putOut i j { data := head ++ (shown.map modeEntry).flatten, miss := missIn k } s

/-- An instance of the table before a swap runs on the tracker that did not carry over. -/
def trkFor (i : Inst) (run : State → State) (s : State) : State :=
  match i.old, s.spec.oldTrk with
  | true, some (a, b) =>
    let t := run (s.setSpec { s.spec with trk := a, trkTick := b })
    t.setSpec { t.spec with trk := s.spec.trk, trkTick := s.spec.trkTick, oldTrk := some (t.spec.trk, t.spec.trkTick) }
  | _, _ => run s

/-- MODE_TRACK (unit 2, function 1). -/
def execModeTrack (n : Nat) (item : Fin 4096) (s : State) : Out :=
  .next (match s.isRunning n item 2 1 with
    | some (i, it) => trkFor i (trkRun i item (s.kin i item it n false)) s
    | none => s)

/-- A write to SPEC_MODE_SEL latches the entry at INDEX (R252). -/
def modeSelect (idx : Nat) (s : State) : State :=
  let s := s.wr fSPEC_MODE_SEL_INDEX idx
  let trk := (specCfgOf s.img).trk
  let shown := match trk with
    | some c => if s.on fSPEC_TRK_STS_VALID then shownModes c s.spec.trk.modes else []
    | none => []
  match shown[s.rd fSPEC_MODE_SEL_INDEX]? with
  | some m =>
    let s := ((s.wr fSPEC_MODE_STS_ID m.id).wr fSPEC_MODE_STS_DSTATE m.dstate).wrB fSPEC_MODE_STS_FORCED m.forced
    let s := (s.wrB fSPEC_MODE_STS_ELIGIBLE m.eligible).wr fSPEC_MODE_STS_CONF ((f32Q m.conf).mul ⟨65535, 1⟩).round.toNat
    (s.wr fSPEC_MODE_FREQ_FREQ m.freq).wr fSPEC_MODE_ZETA_ZETA m.zeta
  | none =>
    let s := ((s.wr fSPEC_MODE_STS_ID 0).wr fSPEC_MODE_STS_DSTATE 0).wrB fSPEC_MODE_STS_FORCED false
    let s := (s.wrB fSPEC_MODE_STS_ELIGIBLE false).wr fSPEC_MODE_STS_CONF 0
    (s.wr fSPEC_MODE_FREQ_FREQ 0).wr fSPEC_MODE_ZETA_ZETA 0

/-! ### Dissipating energy flow (R245 to R248) -/

/-- The j-th least damped eligible mode of a MODE_TRACK result: identity and frequency (j from 1). -/
def leastDamped (ws : List Nat) (j : Nat) : Option (Nat × Nat) :=
  let ms := (List.range (ws.getD 0 0 % 256)).filterMap fun i =>
    let w (k : Nat) := ws.getD (8 + 16 * i + k) 0
    if (w 0).testBit 10 then some (w 2, w 0 % 256, w 1) else none
  let asc := sortDesc (ms.zipIdx.map fun x => (f32Neg x.1.1, x.2))
  (asc[j - 1]?.bind fun o => ms[o.2]?).map fun m => (m.2.1, m.2.2)

/-- A target's frequency and what it follows; `none` = IDLE. -/
def targetFreq (c : SpecCfg) (sdft modes : Option (List Nat)) : DefTarget → Option (Nat × Nat)
  | .fixed f => some (0, f)
  | .band b => match sdft with
    | some ws => match (bandsOf c ws)[b]? with | some (fo, f, _) => if fo then some (b, f) else none | none => none
    | none => none
  | .mode j => match modes with | some ws => leastDamped ws j | none => none

def f32Min (a b : Nat) : Nat := if f32Lt b a then b else a

/-- A branch's slope (R246). -/
def defSlope (f : Nat) (z : List (Nat × Nat)) : Nat :=
  let g (k : Nat) := cOf (z.getD k (0, 0))
  let im (a b : Q × Q) : Q := (a.2.mul b.1).sub (a.1.mul b.2)
  f32OfQ (((qPi.mul ⟨4, 1⟩).mul (f32Q f)).mul ((im (g 0) (g 2)).add (im (g 1) (g 3))))

/-- Outflow of every node that a branch with present inputs names. -/
def nodeOut (bs : List (DefBranch × Nat × Bool)) : List (Nat × Nat) :=
  let nodes := (bs.map fun b => [b.1.node, b.1.far]).flatten.eraseDups.mergeSort
  nodes.map fun v => (v, f32OfQ (Q.sum (bs.map fun b =>
    if !b.2.2 then ⟨0, 1⟩ else if b.1.node = v then f32Q b.2.1 else if b.1.far = v then (f32Q b.2.1).neg else ⟨0, 1⟩)))

/-- One target over `dn` ticks: its new state, its 144-byte block as words, and its branches' slopes; `ins` holds the four inputs
of each branch. -/
def defTarget (c : SpecCfg) (inst rate dn srcMin shareMin persist : Nat) (ins : List (List Nat)) (tgt : Option (Nat × Nat)) (d : DefSt) :
    DefSt × List Nat × List Nat × Bool × Bool :=
  match tgt with
  | none =>
    -- IDLE: SOURCE clears once its test has not held for DEF_PERSIST
    let noSrc := holdSince inst true d.noSrcSince
    let source := d.source && !heldFor inst (halfSec persist) noSrc
    ({ source := source, noSrcSince := noSrc }, (256 * (boolW source + 2 * boolW (source ≠ d.source))) :: List.replicate 35 0, [], false, false)
  | some (key, f) =>
    let bw := f32Min c.defBw (f32Mul f 0x3E800000)
    let moved := match d.freq with
      | some f0 => ((f32Q f).sub (f32Q f0)).abs.mul ⟨4, 1⟩ |> fun x => (f32Q bw).lt x
      | none => true
    let retarget := moved || d.key ≠ key
    let zero : List (List (Nat × Nat)) := c.branches.map fun _ => List.replicate 4 (0, 0)
    let bins0 := if retarget || d.bins.length ≠ c.branches.length then zero else d.bins
    let rho := binRho bw rate
    let phi := binPhi f rate
    let full := ins.map fun x => x.all f32Finite
    let bins := ((List.zip ins bins0).zip full).map fun x =>
      (List.zip x.1.1 x.1.2).map fun y => binStep rho phi dn (if x.2 then some y.1 else none) y.2
    let settle := if retarget then settleTicks rate bw else d.settle - dn
    let slopes := bins.map (defSlope f)
    let rows := ((List.zip c.branches slopes).zip full).map fun x => (x.1.1, x.1.2, x.2)
    let outs := nodeOut rows
    let ptot := f32OfQ (Q.sum (outs.map fun o => if f32Lt 0 o.2 then f32Q o.2 else ⟨0, 1⟩))
    let top := outs.foldl (fun m o => match m with | none => some o | some x => if f32Lt x.2 o.2 then some o else some x) none
    let (src, out) := top.getD (0, 0)
    let share := if (f32Q ptot).isZero then Config.shareNoFlow else f32Div out ptot
    let ready := settle = 0
    let holds := ready && f32Le srcMin out && (milli5 shareMin).le (f32Q share) && f32Finite share
    let srcSince := if holds then (match d.srcSince with | some (i, v) => if v = src then some (i, v) else some (inst, src) | none => some (inst, src)) else none
    let noSrc := holdSince inst (!holds) d.noSrcSince
    let source := if d.source then !heldFor inst (halfSec persist) noSrc else heldFor inst (halfSec persist) (srcSince.map fun x => x.1)
    let st : DefSt := { freq := some f, key := key, bins := bins, settle := settle, srcSince := srcSince, noSrcSince := noSrc, source := source,
                        node := if ready then src else 0 }
    let best := (sortDesc (outs.map fun o => (o.2, o.1))).take 8
    let bigBr := (sortDesc (rows.zipIdx.filterMap fun r => if r.1.2.2 then some (f32Abs r.1.2.1, r.2) else none)).take 8
    let pad (n : Nat) (l : List Nat) : List Nat := l ++ List.replicate (n - l.length) 0
    let incomplete := full.any fun x => !x
    let fl := boolW source + 2 * boolW (source ≠ d.source) + 4 * boolW incomplete
    let ws := [(if ready then 2 else 1) + 256 * fl + 65536 * st.node, f, share, ptot] ++
      pad 16 (best.map fun x => [x.2, x.1]).flatten ++ pad 16 (bigBr.map fun x => [x.2, slopes.getD x.2 0]).flatten
    (st, ws, slopes, retarget, source && !d.source)

/-- DEF_UPDATE on an instance's item. -/
def defRun (i : Inst) (j : Nat) (k : KIn) (s : State) : State :=
  let c := specCfgOf (s.instImg i)
  let dn := match s.spec.defTick with | some t => max 1 (i.tick - t) | none => 1
  let xs := floatsIn k
  let ins := (List.range c.branches.length).map fun b => firstN 4 (xs.drop (4 * b))
  let sdft := s.engineOp i j 1 1 false
  let modes := s.engineOp i j 2 1 true
  let defs0 := if s.spec.defTick.isNone || s.spec.defs.length ≠ c.targets.length then List.replicate c.targets.length {} else s.spec.defs
  let rs := (List.zip c.targets defs0).map fun x =>
    defTarget c k.inst k.rate dn (s.rd fSPEC_DEF_MIN_SRC_MIN) (s.rd fSPEC_DEF_CFG_SHARE_MIN) (s.rd fSPEC_DEF_CFG_DEF_PERSIST) ins
      (targetFreq c sdft modes x.1) x.2
  let s := if rs.any fun r => r.2.2.2.1 then s.flag fSPEC_FLT_FLAGS 5 else s
  let s := if rs.any fun r => r.2.2.2.2 then s.flag fSPEC_FLT_FLAGS 10 else s
  let s := rs.zipIdx.foldl (fun s x =>
    let ws := x.1.2.1
    let share := ws.getD 2 0
    let units := if f32Finite share then (((f32Q share).mul ⟨200, 1⟩).floor.toNat) else 0
    (((s.wrB (fSPEC_DEF_STS_SOURCE x.2) x.1.1.source).wr (fSPEC_DEF_STS_STATE x.2) (ws.getD 0 0 % 256)).wr
      (fSPEC_DEF_STS_SHARE x.2) (min units 200)).wr (fSPEC_DEF_STS_NODE x.2) x.1.1.node) s
  let blocks := rs.map fun r => r.2.1
  let data := blocks.flatten ++ List.replicate (144 - 36 * blocks.length) 0
  let slopes := [s.spec.slopes.getD 0 (0, []), s.spec.slopes.getD 1 (0, [])].set (i.tick % 2) (i.tick, rs.map fun r => r.2.2.1)
  let s := s.setSpec { s.spec with defs := rs.map (fun r => r.1), defTick := some i.tick, slopes := slopes }
  putOut i j { data := data, miss := missIn k } s

/-- An instance of the table before a swap runs on the targets' state that did not carry over. -/
def defFor (i : Inst) (run : State → State) (s : State) : State :=
  match i.old, s.spec.oldDef with
  | true, some (a, b) =>
    let t := run (s.setSpec { s.spec with defs := a, defTick := b })
    t.setSpec { t.spec with defs := s.spec.defs, defTick := s.spec.defTick, oldDef := some (t.spec.defs, t.spec.defTick) }
  | _, _ => run s

/-- DEF_UPDATE (unit 1, function 2). -/
def execDefUpdate (n : Nat) (item : Fin 4096) (s : State) : Out :=
  .next (match s.isRunning n item 1 2 with
    | some (i, it) => defFor i (defRun i item (s.kin i item it n false)) s
    | none => s)

/-! ### Errors and swaps (R227) -/

/-- The engine state that an uncorrectable error hits starts again (R227): `what` 0 is a signal's bins, 1 the tracker, 2 a DEF target. -/
def specReset (what index : Nat) (s : State) : State :=
  let c := specCfgOf s.img
  if what = 0 then s.setSpec { s.spec with sigs := s.spec.sigs.set index (sigInit c) }
  else if what = 1 then
    match c.trk with
    | some t => (s.setSpec { s.spec with trk := { trkReset t s.spec.trk with taps := [], evalFlags := 8 } }).flag fSPEC_FLT_FLAGS 2
    | none => s
  else s.setSpec { s.spec with defs := s.spec.defs.set index {} }

/-- SPEC_STATE_UE (R227, R250): an ECC event in engine state. -/
def execSpecStateUe (e : EccErr) (what : Fin 3) (index : Nat) (s : State) : Out :=
  .next (match e with
    | .corrected k => s.inc fSPEC_ECC_CNT_CE k
    | .lost => specReset what index (post 0x50 (le 8 s.curTick ++ le 2 index) ((s.inc fSPEC_ECC_CNT_UE).flag fSPEC_FLT_FLAGS 1)))

/-- Per band of the new image: what was kept of the old image's band where both define it alike, else `d`. -/
def bandKept {α : Type} (a b : SpecCfg) (d : α) (l : List α) : List α :=
  b.bands.zipIdx.map fun x => if a.bands[x.2]? = some x.1 then l.getD x.2 d else d

/-- What spectral state a swap carries over (R227). -/
def specSwap (old new : Option Image) (s : State) : State :=
  let rate (i : Option Image) : Nat := match i with | some i => i.rateCode | none => 0
  let a := specCfgOf old
  let b := specCfgOf new
  let sameRate := old.isSome && rate old = rate new
  let sp := { s.spec with oldSdft := none, oldTrk := none, oldDef := none }
  let kept (g : SpecSigSt) : SpecSigSt := { g with settle := bandKept a b (some 0) g.settle, peak := bandKept a b none g.peak }
  let sp := if sameRate && a.sigs = b.sigs && a.bins = b.bins then { sp with sigs := sp.sigs.map kept, bands := bandKept a b {} sp.bands }
    else { sp with sdftTick := none, sigs := [], bands := [], oldSdft := some (sp.sigs, sp.sdftTick, sp.bands) }
  let sp := if sameRate && a.trk = b.trk then sp
    else { sp with trkTick := none, trk := { nextId := sp.trk.nextId }, oldTrk := some (sp.trk, sp.trkTick) }
  let sp := if sameRate && a.branches = b.branches && a.targets = b.targets then sp
    else { sp with defTick := none, defs := [], oldDef := some (sp.defs, sp.defTick) }
  s.setSpec sp

end Sys2Proof.Machine
end

