-- ==== Sys2Proof/Machine/Pair.lean ====
section
/-!
DEFINITION. The Carillon pair (R400–R424): link start, messages, moves of authority, the join and its commit, and the timers. FORWARD
and MIRROR, which hand work to the command scheduler, are in Machine/Commands.lean.
-/

namespace Sys2Proof.Machine

/-! ### The link (R401, R402) -/

/-- The ASCII bytes EMVOS-PAIR. -/
def pairInfo : List Nat := [69, 77, 86, 79, 83, 45, 80, 65, 73, 82]

/-- nonce(member 0) ‖ nonce(member 1). -/
def State.nonces (s : State) (partner : Nat) : List Nat :=
  let own := s.pair.nonce.getD 0
  if s.on fPAIR_STS_MEMBER then natBytes 16 partner ++ natBytes 16 own else natBytes 16 own ++ natBytes 16 partner

/-- The session key of R402. -/
def State.sessionKey (s : State) (key partner : Nat) : Nat := Config.hkdf (s.key key).material (s.nonces partner) pairInfo

/-- The 16 bytes of AUTH: HMAC of both nonces under the session key (R403). -/
def State.authMac (s : State) (partner : Nat) : Nat := Config.hmac s.pair.sessKey (s.nonces partner) / 2 ^ 128

/-- HELLO (R402): the partner's nonce and digest at a link start. A second copy is discarded; a new nonce ends the session before it.
The module answers with its own HELLO, then AUTH. -/
def execHello (nonce digest _serial : Nat) (s : State) : Out :=
  .next (
    let again : Bool := match s.pair.helloIn with | some h => h.1 = nonce | none => false
    if !s.paired || again then s
    else
      match s.pairKey? with
      | none => s.flag fPAIR_FLT_FLAGS 3
      | some k =>
        let s := if s.pair.authed then linkLost 1 s else s
        let s := match s.pair.nonce with
          | some _ => s
          | none => s.nextFree.setPair { s.pair with nonce := some (s.freeVal 40 % 2 ^ 128) }
        let s := spendUse k (sendHello s)
        let s := s.setPair { s.pair with key := some k, sessKey := s.sessionKey k nonce, helloIn := some (nonce, digest), txCtr := 1, rxCtr := 0,
                                         partnerPulses := [], hbTick := [none, none] }
        s.pairEmit pmAuth 1 (be 16 (s.authMac nonce)))

/-- A lane has delivered a valid message (R401). -/
def laneHeard (lane : Fin 2) (s : State) : State :=
  let s := s.setPair { s.pair with laneAt := s.pair.laneAt.set lane s.up, laneDown := s.pair.laneDown.set lane false }
  if lane.val = 0 then s.wrB fPAIR_STS_LANE_A true else s.wrB fPAIR_STS_LANE_B true

/-- The partner runs another image (R405). -/
def mismatch (digest : Nat) (s : State) : State :=
  post 0xAB (be 8 (s.ownDigest / 2 ^ 192) ++ be 8 (digest / 2 ^ 192)) ((setRole roleMismatch s).flag fPAIR_FLT_FLAGS 4)

/-- AUTH (R402): the partner has proved the session key; the link is up. The digests are then compared (R405). -/
def execAuth (lane : Fin 2) (mac : Nat) (s : State) : Out :=
  .next (match s.pair.helloIn with
    | none => s
    | some (nonce, digest) =>
      if s.pair.authed then (if mac = s.authMac nonce then laneHeard lane s else s)
      else if mac ≠ s.authMac nonce then
        post 0xA1 (le 1 2 ++ le 3 0 ++ le 8 s.pair.lastTick) (s.inc fPAIR_AUTHF_CNT_MESSAGES)
      else
        let s := s.setPair { s.pair with authed := true, laneAt := [s.up, s.up], laneDown := [false, false] }
        let s := laneHeard lane (s.wrB fPAIR_STS_PARTNER_UP true)
        let s := post 0xA0 (le 1 (if s.on fPAIR_STS_MEMBER then 0 else 1) ++ le 1 (s.rd fPAIR_STS_PARTNER_ROLE) ++ le 1 1 ++ le 1 0) s
        if digest ≠ s.ownDigest && s.role = roleSeeking then mismatch digest s
        else if digest = s.ownDigest && s.role = roleMismatch then
          (setRole roleSeeking s).setPair { s.pair with seekSince := s.up }
        else s)

/-- What every message after AUTH passes first: its tag, its lane, its counter (R401, R402); then `act`. -/
def pairRx (m : PairMsg) (act : State → State) (s : State) : State :=
  if !s.pair.authed then s
  else if !m.tagOk then s.inc fPAIR_AUTHF_CNT_MESSAGES
  else
    let s := laneHeard m.lane s
    if m.ctr ≤ s.pair.rxCtr then s
    else
      let s := s.setPair { s.pair with rxCtr := m.ctr, lastTick := m.tick }
      act (s.wr fPAIR_STS_PARTNER_ROLE m.role)

/-! ### Readiness (R404) -/

/-- An abdication trigger is in force: QUAL_LOST, an instance past its deadline, or no completion for 2 ticks; an uncorrectable error
is over once it has been handled (log entry 33). -/
def State.triggerNow (s : State) : Bool :=
  s.on fCLV_STS_QUAL_LOST || (s.live.any fun i => s.staleNow i.tick) || s.up > s.pair.instAt + s.periods 2

def State.pairReady (s : State) : Bool := s.ticking && s.pwr.phase = .running && !s.triggerNow

def State.pairFit (s : State) : Bool := s.pairReady && (s.role = roleActive || s.role = roleStandby)

/-! ### Moves of authority (R405, R411 to R415) -/

/-- Authority is taken at the first tick instant strictly after now. -/
def takeNext (s : State) : State := s.setPair { s.pair with move := some (s.curTick + 1, true) }

def declined (s : State) : State := post 0xA7 (le 1 s.role ++ le 3 0 ++ le 8 s.curTick) (s.flag fPAIR_FLT_FLAGS 7)

/-- The partner's abdication, from its message or from PAIR_ABD_N, whichever is first (R411 steps 2 and 3, R419 reason 4). -/
def abdicationIn (cause : Option Nat) (s : State) : State :=
  let s := match cause with | some c => s.wr fPAIR_ABD_STS_PARTNER_CAUSE c | none => s
  if s.pair.abdSeen || s.role = roleActive || s.role = roleUnpaired then s
  else
    let s := s.setPair { s.pair with abdSeen := true, move := none }
    if s.role = roleStandby then (if s.pairReady then takeNext s else declined s)
    else if s.role = roleUnsynced && s.on fPAIR_STS_FORCED then takeNext s
    else
      let s := declined s
      if s.role = roleJoining then joinFail 4 s else s

/-- The largest |ANET difference| in µWh (R422). -/
def State.maxDiff (s : State) : Nat := s.pair.diffs.foldl (fun m d => max m d.2.natAbs) 0

/-- At t(j) the module becomes ACTIVE (R412). -/
def becomeActive (j : Nat) (s : State) : State :=
  let s := s.setPair { s.pair with move := none, join := none, abdSeen := false }
  let s := ((setRole roleActive s).wr64 fPAIR_AUTH_TICK_LO_J_LO j).inc fPAIR_TAKE_CNT_EVENTS
  let s := post 0xA6 (le 1 (s.rd fPAIR_ABD_STS_PARTNER_CAUSE) ++ le 1 (s.rd fPAIR_STS_FORCED) ++ le 2 0 ++ le 8 j ++
    le 8 (min s.maxDiff (2 ^ 64 - 1))) (s.flag fPAIR_FLT_FLAGS 6)
  let s := driveContacts s.alm.contacts s
  (almCfgOf s.img).goose.zipIdx.foldl (fun s x =>
    let st := match smFind? s.pair.goStIn x.2 with | some v => v | none => (s.gooseSt x.2).st
    gooseChange x.2 j (s.closeOf j) x.1 (s.setGooseSt x.2 { s.gooseSt x.2 with st := st })) s

/-- At t(j) of a HANDOVER the ACTIVE module releases its pins and becomes STANDBY (R414). -/
def handOver (j : Nat) (s : State) : State :=
  let s := setRole roleStandby (releaseAuthority (s.setPair { s.pair with move := none, join := none }))
  (s.wr fPAIR_ABD_STS_OWN_CAUSE 9).wr64 fPAIR_AUTH_TICK_LO_J_LO j

/-- The tick of a HANDOVER: the first at least 2 ms ahead (R414). -/
def State.tickAhead (s : State) (ns : Nat) : Nat := tickFrom (s.rateAt (s.clv.now + ns)) (s.clv.now + ns)

/-- Start a handover: HANDOVER names j, and the module gives authority up at t(j) (R414). -/
def startHandover (s : State) : Nat × State :=
  let j := s.tickAhead 2000000
  let s := (s.setPair { s.pair with move := some (j, false) }).pairSend pmHandover (be 8 j)
  (j, post 0xAA (le 8 j) s)

/-! ### The join (R416 to R420) -/

/-- Pulses a partner has started between two counts of its heartbeats, which are 32 bits wide (R403). -/
def pulsesSince (now old : Nat) : Nat := (now + 2 ^ 32 - old % 2 ^ 32) % 2 ^ 32

/-- The latest p known of a cut set. -/
def cutLast (c : CutSt) : Option Nat :=
  match c.vals.reverse.find? fun v => v.val.isSome with
  | some v => v.val.map fun x => x.1
  | none => c.hold

/-- The ACTIVE module opens a join (R417 step 1). -/
def startJoin (s : State) : State :=
  let e := max s.mram.epochCount s.pair.partnerEpoch + 1
  let c := s.tickAhead 20000000
  let s := { s with mram := { s.mram with epochCount := e } }
  let s := (s.setPair { s.pair with join := some { epoch := e, c := c, since := s.up } }).pairSend pmPrepare (be 8 e ++ be 8 c)
  post 0xA2 (le 8 e ++ le 8 c) s

/-- The blocks of the baseline copy as this module stands (R416): at most 60 cut sets or 256 slots each. p_hold is the latest p known. -/
def State.copyBlocks (s : State) : List CopyBlock :=
  let cuts := s.acc.cuts.map fun c => { c with vals := [], led := [], hold := cutLast c }
  ((chunk 60 64 cuts).zipIdx.map fun x => CopyBlock.cuts (60 * x.2) x.1) ++ [.dues (s.acc.pulses.map fun p => p.due)] ++
  ((chunk 256 64 s.pgh.stats).map CopyBlock.slots) ++ [.wins s.pgh.win, .trk s.spec.trk] ++
  [.alarms (s.alm.alarms.map fun a => (a.1, a.2.st, a.2.acked, a.2.inhibited, a.2.since)),
   .goose (s.alm.goose.map fun g => (g.1, g.2.st)), .dests (s.egr.streams.map fun x => (x.1, x.2.on)), .prpOfs s.egr.prpOfs,
   .nextSeq s.mram.chs.nextSeq]

/-- The BLOCK messages of one block: up to 8,192 data bytes each at its offset, with their CRC-32C (R403). -/
def sendBlock (epoch id : Nat) (data : Bytes) (s : State) : State :=
  (chunk 8192 64 data).zipIdx.foldl (fun s x =>
    s.pairSend pmBlock (be 8 epoch ++ be 2 id ++ be 2 0 ++ be 4 (8192 * x.2) ++ x.1 ++ be 4 (crc32c x.1))) s

/-- END or READY: epoch, block count and the CRC-32C over all block data (R403). -/
def sendEnd (epoch count crc : Nat) (s : State) : State := s.pairSend pmEnd (be 8 epoch ++ be 2 count ++ be 2 0 ++ be 4 crc)

def copyCrc (bs : List CopyBlock) : Nat := crc32c (bs.map Config.copyBytes).flatten

/-- Send every BLOCK, then END (R417 step 2). -/
def sendCopy (j : Join) (s : State) : State :=
  let bs := s.copyBlocks
  let s := bs.zipIdx.foldl (fun s b => sendBlock j.epoch b.2 (Config.copyBytes b.1) s) s
  sendEnd j.epoch bs.length (copyCrc bs) (s.setPair { s.pair with join := some { j with sent := bs.length } })

/-- Instance n has completed: the time of it, and at c of a join the copy goes out, or the joiner notes its own accounting. -/
def instanceDone (n : Nat) (s : State) : State :=
  let s := s.setPair { s.pair with instAt := s.up }
  match s.pair.join with
  | none => s
  | some j =>
    if j.c ≠ n then s
    else if s.role = roleActive then sendCopy j s
    else
      let s := s.setAcc { s.acc with cuts := s.acc.cuts.map fun c => { c with led := [] } }
      s.setPair { s.pair with ownAtC := some { cuts := s.acc.cuts, earned := s.acc.pulses.map fun p => p.earned, started := s.pair.partnerPulses } }

/-- The instances that one command has completed. -/
def instancesDone (old s : State) : State :=
  (s.tmb.insts.filter fun i => i.complete && (match old.inst? i.tick with | some o => !o.complete | none => true)).foldl
    (fun s i => instanceDone i.tick s) s

def toU128 (v : Int) : Nat := (v % (2 ^ 128 : Nat)).toNat

/-- A cut set at commit: x_copy(c) + x_own(k − 1) − x_own(c), where an interval that ends at or before c counts only if the copy lists
it as pending (R418). -/
def joinCut (copy own ownC : CutSt) (c : Nat) : CutSt :=
  -- an own delta of an interval that ends at or before c counts only if the copy lists it
  let listed (a e : Nat) : Bool := copy.pend.any fun v => v.a = a && v.e = e
  let drop (i : Nat) : Int := ((own.led.filter fun l => !listed l.1 l.2.1).map fun l => l.2.2.getD i 0).sum
  let tot (f : CutSt → Nat) (i : Nat) : Nat := toU128 ((f copy : Int) + f own - f ownC - drop i)
  { own with aimp := tot (fun x => x.aimp) 0, aexp := tot (fun x => x.aexp) 1, rimp := tot (fun x => x.rimp) 2, rexp := tot (fun x => x.rexp) 3,
             anet := copy.anet + own.anet - ownC.anet - drop 4, est := copy.est + own.est - ownC.est - drop 5,
             unacc := tot (fun x => x.unacc) 6 % 2 ^ 64, down := (copy.down + own.down - ownC.down) % 2 ^ 64,
             hold := match own.hold with | some h => some h | none => copy.hold,
             pend := own.pend.filter fun v => v.e > c || listed v.a v.e, led := [] }

/-- One block of the copy takes effect (R418). -/
def applyBlock (c k : Nat) (o : OwnAtC) (b : CopyBlock) (s : State) : State :=
  match b with
  | .cuts first cs =>
    s.setAcc { s.acc with cuts := s.acc.cuts.zipIdx.map fun x =>
      if first ≤ x.2 then match cs[x.2 - first]? with | some y => joinCut y x.1 (o.cuts.getD x.2 {}) c | none => x.1 else x.1 }
  | .dues ds =>
    s.setAcc { s.acc with pulses := s.acc.pulses.zipIdx.map fun x =>
      { x.1 with due := ds.getD x.2 0 + (x.1.earned - o.earned.getD x.2 0) -
                   pulsesSince (s.pair.partnerPulses.getD x.2 0) (o.started.getD x.2 0) } }
  | .slots xs =>
    s.setPgh { s.pgh with stats := xs.foldl (fun m x =>
      match smFind? m x.1 with
      | some y => smInsert m x.1 { y with mu := x.2.mu, d := x.2.d, q := x.2.q, m := x.2.m }
      | none => smInsert m x.1 { x.2 with lastIng := none, active := false, offGrid := false }) s.pgh.stats }
  | .wins ws => s.setPgh { s.pgh with win := ws }
  | .trk t => s.setSpec { s.spec with trk := { t with skippedSince := if c < k then some (s.tickInst c) else t.skippedSince } }
  | .alarms xs => xs.foldl (fun s a =>
      let (st, acked, inh, since) := a.2
      let s := s.setAlmSt a.1 { s.almSt a.1 with st := st, acked := acked, inhibited := inh, inhReq := inh, since := since,
                                                 raisedAt := since, changedAt := s.closeOf since }
      let w := smGet 0 s.alm.inh (a.1 / 32)
      inhNote (a.1 / 32) (if inh then w ||| 2 ^ (a.1 % 32) else (w ||| 2 ^ (a.1 % 32)) ^^^ 2 ^ (a.1 % 32)) s) s
  | .goose xs => xs.foldl (fun s g => s.setGooseSt g.1 { s.gooseSt g.1 with st := g.2 }) (s.setPair { s.pair with goStIn := xs })
  | .dests xs => xs.foldl (fun s d => s.setOutSt d.1 { s.outSt d.1 with on := d.2, cmds := [] }) s
  | .prpOfs v => { s with egr := { s.egr with prpOfs := v } }
  | .nextSeq v => seqSkip v s

/-- At the activation of instance k the joiner applies the whole copy and becomes STANDBY (R417 step 5, R418). -/
def joinAt (n : Nat) (s : State) : State :=
  match s.pair.join with
  | some j =>
    if s.role = roleJoining && j.k = some n then
      let o := s.pair.ownAtC.getD {}
      let s := j.blocks.foldl (fun s b => applyBlock j.c n o b.2 s) s
      let s := { s with mram := { s.mram with epoch := j.epoch, epochCount := max s.mram.epochCount j.epoch } }
      let s := s.setPair { s.pair with join := none, ownAtC := none }
      let s := ((setRole roleStandby s).wrB fPAIR_STS_FORCED false).wr fPAIR_STS_ATTEMPTS 0
      let s := (s.wr64 fPAIR_EPOCH_LO_E_LO j.epoch).wr64 fPAIR_SYNC_TICK_LO_K_LO n
      post 0xA3 (le 8 j.epoch ++ le 8 n) s
    else s
  | none => s

/-- An image swap before k fails a join in progress (R419 reason 5, R470). -/
def joinSwap (s : State) : State :=
  match s.pair.join with
  | some _ => if s.role = roleJoining then joinFail 5 s else s.setPair { s.pair with join := none }
  | none => s

/-! ### Tick instants -/

/-- What the pair does at t(n) (R403, R405, R412, R414): moves that fall due, and the heartbeat. -/
def pairTick (n : Nat) (s : State) : State :=
  if !s.paired then s
  else
    let s := match s.pair.move with
      | some (j, true) => if n ≥ j then becomeActive j s else s
      | some (j, false) => if n ≥ j then handOver j s else s
      | none => s
    let s := s.setPair { s.pair with yieldClear := if s.triggerNow then none else match s.pair.yieldClear with | some t => some t | none => some s.up }
    let st := (List.range 16).map fun k => (s.gooseSt k).st
    let pl := (List.range 8).map fun k => (s.pulseSt k).started
    let cause := if s.role = roleYielded then s.rd fPAIR_ABD_STS_OWN_CAUSE else 0
    s.pairSend pmHeartbeat (be 1 ((if s.pairFit then 1 else 0) + (if s.pairReady then 2 else 0)) ++ be 1 cause ++ be 8 s.mram.epoch ++
      (st.map (be 4)).flatten ++ (pl.map (be 4)).flatten)

/-! ### Messages -/

/-- Heartbeats missed on a lane, by the gap in TICK since the last one on it (R424). -/
def hbLane (m : PairMsg) (s : State) : State :=
  let i := m.lane.val
  let gap := match s.pair.hbTick.getD i none with | some t => m.tick - t - 1 | none => 0
  let s := s.setPair { s.pair with hbTick := s.pair.hbTick.set i (some m.tick) }
  if i = 0 then s.inc fPAIR_HBMISS_CNT_LANE_A gap else s.inc fPAIR_HBMISS_CNT_LANE_B gap

/-- What a SEEKING module makes of a heartbeat (R405). -/
def seekingHeard (s : State) : State :=
  let partnerReady := s.on fPAIR_STS_PARTNER_READY
  let digest := match s.pair.helloIn with | some h => h.2 | none => s.ownDigest
  if digest ≠ s.ownDigest then mismatch digest s
  else if s.pair.move.isSome then s
  else if s.rd fPAIR_STS_PARTNER_ROLE = roleActive then setRole roleJoining s
  else if s.pairReady && !partnerReady then takeNext s
  else if s.pairReady = partnerReady && !s.on fPAIR_STS_MEMBER then takeNext s
  else s

/-- Both hold authority: member 1 releases its pins and joins (R406). -/
def dualResolve (s : State) : State :=
  let s := setRole roleJoining (releaseAuthority (s.setPair { s.pair with join := none, move := none }))
  let s := (s.wr64 fPAIR_AUTH_TICK_LO_J_LO s.curTick).flag fPAIR_FLT_FLAGS 10
  post 0xA9 (le 1 1 ++ le 3 0 ++ le 8 s.curTick) s

/-- The copy is complete for the pair: the partner is STANDBY with the epoch of this module's last copy, which is the synced epoch from then
on (R417). -/
def copyComplete (s : State) : State :=
  if s.rd fPAIR_STS_PARTNER_ROLE = roleStandby && s.pair.partnerEpoch = s.mram.epochCount && s.mram.epoch ≠ s.pair.partnerEpoch then
    ({ s with mram := { s.mram with epoch := s.pair.partnerEpoch } }).wr64 fPAIR_EPOCH_LO_E_LO s.pair.partnerEpoch
  else s

/-- What an ACTIVE module makes of a heartbeat: two holders, a joiner to serve, a copy complete or refused (R405, R417). -/
def activeHeard (s : State) : State :=
  let p := s.rd fPAIR_STS_PARTNER_ROLE
  let s := copyComplete s
  if p = roleActive && s.on fPAIR_STS_MEMBER then dualResolve s
  else
    match s.pair.join with
    | none => if p = roleJoining && s.swap.isNone && s.pair.move.isNone then startJoin s else s
    | some j =>
      if p = roleUnsynced || (p = roleStandby && s.pair.partnerEpoch = j.epoch) then s.setPair { s.pair with join := none } else s

/-- The content of a heartbeat (R405, R409, R423). -/
def heartbeatIn (h : Heartbeat) (s : State) : State :=
  let s := (s.wrB fPAIR_STS_PARTNER_FIT h.fit).wrB fPAIR_STS_PARTNER_READY h.ready
  let started (k : Nat) : Nat := pulsesSince (h.pulses.getD k 0) (s.pair.partnerPulses.getD k (h.pulses.getD k 0))
  let s := if s.authority then s
    else s.setAcc { s.acc with pulses := s.acc.pulses.zipIdx.map fun p => { p.1 with due := p.1.due - started p.2 } }
  let p := s.rd fPAIR_STS_PARTNER_ROLE
  let s := s.setPair { s.pair with hbAt := some s.up, partnerEpoch := h.epoch, partnerPulses := h.pulses,
                                   goStIn := h.goose.zipIdx.map (fun g => (g.2, g.1)), abdSeen := s.pair.abdSeen && p = roleYielded }
  let s := if p = roleYielded && h.cause ≠ 0 then s.wr fPAIR_ABD_STS_PARTNER_CAUSE h.cause else s
  let r := s.role
  if r = roleSeeking then seekingHeard s
  else if r = roleActive then activeHeard s
  else if r = roleJoining && p ≠ roleActive then joinFail 6 s
  else s

/-- HEARTBEAT (R405). -/
def execHeartbeat (m : PairMsg) (h : Heartbeat) (s : State) : Out :=
  .next (
    let s := if s.pair.authed && m.tagOk then hbLane m s else s
    pairRx m (heartbeatIn h) s)

/-- ABDICATE (R411): PARTNER_CAUSE, and a fit STANDBY takes authority at the next tick. -/
def execAbdicate (m : PairMsg) (cause _instant : Nat) (s : State) : Out := .next (pairRx m (abdicationIn (some cause)) s)

/-- HANDOVER (R414). -/
def execHandover (m : PairMsg) (j : Nat) (s : State) : Out :=
  .next (pairRx m (fun s =>
    if s.role ≠ roleStandby then s
    else post 0xAA (le 8 j) ((s.setPair { s.pair with move := some (j, true) }).wr fPAIR_ABD_STS_PARTNER_CAUSE 9)) s)

/-- PREPARE (R417): the joiner stages under epoch E; a newer epoch ends the join before it (R419 reason 5). -/
def execPrepare (m : PairMsg) (epoch c : Nat) (s : State) : Out :=
  .next (pairRx m (fun s =>
    if s.role ≠ roleJoining then s
    else if s.pair.join.isSome then joinFail 5 s
    else s.setPair { s.pair with join := some { epoch := epoch, c := c, since := s.up }, ownAtC := none }) s)

/-- BLOCK (R417 step 3): staged when it checks. -/
def execBlock (m : PairMsg) (epoch id : Nat) (b : CopyBlock) (crcOk : Bool) (s : State) : Out :=
  .next (pairRx m (fun s =>
    match s.pair.join with
    | some j =>
      if s.role = roleJoining && j.epoch = epoch && crcOk then s.setPair { s.pair with join := some { j with blocks := smInsert j.blocks id b } }
      else s
    | none => s) s)

/-- The joiner has received END (R417 step 3, R419 reason 3). It answers with the number of blocks it holds: all of them is READY; fewer
asks for the one resend (log entry 33). -/
def endIn (epoch count : Nat) (crcOk : Bool) (j : Join) (s : State) : State :=
  if j.epoch ≠ epoch then s
  else if crcOk && j.blocks.length = count then
    sendEnd epoch count (copyCrc (j.blocks.map fun b => b.2)) (s.setPair { s.pair with join := some { j with ready := true } })
  else if j.resent then joinFail 3 s
  else sendEnd epoch (if crcOk then j.blocks.length else 0) (copyCrc (j.blocks.map fun b => b.2))
    (s.setPair { s.pair with join := some { j with resent := true } })

/-- The ACTIVE module has received READY (R417 step 4). -/
def readyIn (epoch count : Nat) (j : Join) (s : State) : State :=
  if j.epoch ≠ epoch || j.sent = 0 || j.k.isSome then s
  else if count = j.sent then
    let k := s.tickAhead 2000000
    (s.setPair { s.pair with join := some { j with k := some k } }).pairSend pmCommit (be 8 epoch ++ be 8 k)
  else if j.resent then s.setPair { s.pair with join := none }
  else sendCopy { j with resent := true } s

/-- END_READY (R417). -/
def execEndReady (m : PairMsg) (epoch count : Nat) (crcOk : Bool) (s : State) : Out :=
  .next (pairRx m (fun s =>
    match s.pair.join with
    | some j => if s.role = roleJoining then endIn epoch count crcOk j s else if s.role = roleActive then readyIn epoch count j s else s
    | none => s) s)

/-- COMMIT (R417 step 5); at or after t(k) the join fails (R419 reason 7). -/
def execCommit (m : PairMsg) (epoch k : Nat) (s : State) : Out :=
  .next (pairRx m (fun s =>
    match s.pair.join with
    | some j =>
      if s.role ≠ roleJoining || j.epoch ≠ epoch || !j.ready then s
      else if s.clv.now ≥ s.tickInst k then joinFail 7 s
      else s.setPair { s.pair with join := some { j with k := some k } }
    | none => s) s)

/-- This module's cut sets as its own PERIODIC commit of a tick holds them, or as they stand where it holds none (R421). -/
def State.cutsAt (s : State) (tick : Nat) : List CutSt :=
  let slots := s.mram.acc.slots.filterMap id ++ (match s.acc.write with | some w => [w.2] | none => [])
  match slots.find? fun sl => sl.kind = 1 && sl.tick = tick with
  | some sl => sl.cuts
  | none => s.acc.cuts

/-- ACC_SUM (R421): the difference of every cut set; a record at most once per minute while any is not zero. -/
def accSumIn (tick : Nat) (anets : List Nat) (s : State) : State :=
  let ds := (s.cutsAt tick).zipIdx.map fun c => (c.2, toSigned 96 (anets.getD c.2 0) - c.1.anet)
  let s := s.setPair { s.pair with diffs := ds.filter (fun d => d.2 ≠ 0), accTick := tick }
  match s.pair.diffs with
  | [] => s
  | d :: rest =>
    let s := s.flag fPAIR_FLT_FLAGS 13
    let big := rest.foldl (fun a b => if b.2.natAbs > a.2.natAbs then b else a) d
    let soon : Bool := match s.pair.diffRec with | some t => s.up < t + 60000000000 | none => false
    if soon then s
    else post 0xAD (le 2 s.pair.diffs.length ++ le 2 big.1 ++ le 8 (ofSigned 64 (satSigned 64 big.2))) (s.setPair { s.pair with diffRec := some s.up })

def execAccSum (m : PairMsg) (tick : Nat) (anets : List Nat) (s : State) : Out := .next (pairRx m (accSumIn tick anets) s)

/-- A write to PAIR_ACC_SEL latches the four registers that follow (R424). -/
def pairAccSelect (v : Nat) (s : State) : State :=
  let s := s.wr fPAIR_ACC_SEL_CUT v
  let d := ofSigned 96 ((smFind? s.pair.diffs (s.rd fPAIR_ACC_SEL_CUT)).getD 0)
  let s := (List.range 3).foldl (fun s w => s.wr (fPAIR_ACC_DIFF_W_DIFF w) (d / 2 ^ (32 * w))) s
  s.wr fPAIR_ACC_TICK_LO_N_LO s.pair.accTick

/-! ### Pins and timers -/

/-- PAIR_LANE_DOWN (R401): no valid message on a lane for 3 tick periods. -/
def execPairLaneDown (lane : Fin 2) (s : State) : Out :=
  .next (
    let f := if lane.val = 0 then fPAIR_STS_LANE_A else fPAIR_STS_LANE_B
    if !s.paired || !s.pair.authed || s.pair.laneDown.getD lane true || s.up < s.pair.laneAt.getD lane 0 + s.periods 3 then s
    else
      let s := s.setPair { s.pair with laneDown := s.pair.laneDown.set lane true }
      let s := post 0xAE (le 1 lane ++ le 3 0) ((s.wrB f false).flag fPAIR_FLT_FLAGS lane)
      if s.pair.laneDown.all id then linkLost 1 s else s)

/-- PAIR_ABD_N_FALL (R411): PAIR_ABD_N has fallen and this module does not drive it. -/
def execPairAbdNFall (s : State) : Out := .next (if !s.paired || !s.pwr.abdN then s else abdicationIn none s)

/-- PAIR_ABD_N_RELEASE (R411 step 1). -/
def execPairAbdNRelease (s : State) : Out :=
  .next (match s.pair.abdUntil with
    | some t =>
      if s.up < t then s
      else ({ s.setPair { s.pair with abdUntil := none } with pwr := { s.pwr with abdN := true } }).emit (.pin "PAIR_ABD_N" 0 none)
    | none => s)

/-- PAIR_WATCHDOG (R410 cause 8). -/
def execPairWatchdog (s : State) : Out :=
  .next (if s.ticking && s.up ≥ s.pair.instAt + s.periods 2 then abdicate abdWatchdog false s else s)

/-- PAIR_WAIT_EXPIRY (R405, R413). -/
def execPairWaitExpiry (s : State) : Out :=
  .next (
    if s.role = roleSeeking && !s.on fPAIR_STS_PARTNER_UP && s.on fPAIR_CFG_ALONE_OK && s.pair.move.isNone &&
      s.up ≥ s.pair.seekSince + s.rd fPAIR_CFG_WAIT_S * 1000000000 then takeNext s
    else s)

/-- YIELD_RECOVER (R405). -/
def execYieldRecover (s : State) : Out :=
  .next (match s.pair.yieldClear with
    | none => s
    | some t =>
      if s.role ≠ roleYielded || s.rd fPAIR_ABD_STS_OWN_CAUSE = abdSupply || s.triggerNow ||
        s.up < t + s.rd fPAIR_CFG_RECOVER_S * 1000000000 then s
      else if s.on fPAIR_STS_PARTNER_UP then
        if s.rd fPAIR_STS_PARTNER_ROLE = roleActive then setRole roleJoining s
        else (setRole roleSeeking s).setPair { s.pair with seekSince := s.up }
      else seek s)

/-- A join starts from UNSYNCED (R405, R420): the ACTIVE module opens it when it hears the role. -/
def beginJoin (s : State) : State := setRole roleJoining (s.setPair { s.pair with join := none, ownAtC := none })

/-- JOIN_RETRY (R420). -/
def execJoinRetry (s : State) : Out :=
  .next (
    if s.role = roleUnsynced && s.up ≥ s.pair.unsyncAt + 10000000000 && s.rd fPAIR_STS_ATTEMPTS < s.rd fPAIR_CFG_RETRIES then beginJoin s
    else s)

/-- JOIN_TIMEOUT (R419 reason 1); at the module that serves the join it ends there. -/
def execJoinTimeout (s : State) : Out :=
  .next (match s.pair.join with
    | some j =>
      if j.k.isSome || s.up < j.since + s.rd fPAIR_CFG2_COPY_MS * 1000000 then s
      else if s.role = roleJoining then joinFail 1 s
      else s.setPair { s.pair with join := none }
    | none => s)

end Sys2Proof.Machine
end

