-- ==== Sys2Proof/Machine/SnareRows.lean ====
section
/-!
DEFINITION. Snare (R342–R358): building, queueing, writing and patching rows, arming and triggers, the end of a capture,
capture files and the NAND store, and what an image swap does to the definitions.
-/

namespace Sys2Proof.Machine

def State.setSnr (s : State) (x : Snare) : State := { s with snr := x }

/-! ### Rows (R343) -/

def sigSlot : SnrSignal → Option Nat
  | .phasor sl _ => some sl
  | .analog sl _ => some sl
  | .freq sl => some sl
  | .rocof sl => some sl
  | .digital sl _ => some sl
  | .result _ _ => none

def insertSlot (x : Nat) : List Nat → List Nat
  | [] => [x]
  | y :: ys => if x < y then x :: y :: ys else if x = y then y :: ys else y :: insertSlot x ys

/-- The source slots of a definition, in slot order. -/
def rowSlots (c : SnrDefCfg) : List Nat := (c.signals.filterMap sigSlot).foldl (fun a x => insertSlot x a) []

def sigLen : SnrSignal → Nat
  | .phasor _ _ => 2
  | _ => 1

/-- The words a slot signal takes from its record, 0 beyond its counts (R142); digital words are zero-extended. -/
def sigWords (r : SlotRecord) : SnrSignal → List Nat
  | .phasor _ k => let p := r.phasors.getD k (0, 0); [p.1, p.2]
  | .analog _ k => [r.analogs.getD k 0]
  | .freq _ => [r.freq]
  | .rocof _ => [r.rocof]
  | .digital _ k => [r.digitals.getD k 0]
  | .result _ _ => [f32Nan]

def qualHalf (r : SlotRecord) : Nat := r.qual / 65536

def rowBytes (r : SnrRow) : Bytes :=
  padTo 64 (le 8 r.tick ++ le 2 r.flags ++ le 2 r.quality.length ++ le 20 0 ++ padTo 8 ((r.quality.map (le 2)).flatten) ++
    (r.values.map (le 4)).flatten)

def snrRowLen (c : SnrDefCfg) : Nat :=
  (32 + (2 * (rowSlots c).length + 7) / 8 * 8 + 4 * (c.signals.map sigLen).sum + 63) / 64 * 64

/-- The row of a definition that item `j` makes for an instance. A result whose fetch has failed reads as missing (R217). -/
def State.snrRow (s : State) (i : Inst) (j : Nat) (it : Item) (c : SnrDefCfg) : SnrRow :=
  let rec_ (sl : Nat) : SlotRecord := (s.fetchCell i.tick sl false).got
  let failed (p : Nat) : Bool := it.ops.zipIdx.any fun x => (runOf i j).fetchUe.contains x.2 &&
    (match x.1 with | .result q _ _ => q = p | _ => false)
  let bad (p : Nat) : Bool := (runOf i p).flags.testBit 2 || (runOf i p).flags.testBit 3 || failed p
  let word : SnrSignal → List Nat := fun x => match x with
    | .result p el => [if bad p then f32Nan else ((runOf i p).data.getD []).getD el f32Nan]
    | x => match sigSlot x with
      | some sl => sigWords (rec_ sl) x
      | none => []
  let lost := c.signals.any fun x => match x with
    | .result p _ => bad p
    | _ => false
  { tick := i.tick, flags := if lost then 4 else 0, quality := (rowSlots c).map fun sl => qualHalf (rec_ sl),
    values := (c.signals.map word).flatten }

/-- SNR_PREP (R343): the item's definition gets its row of the tick. -/
def execSnrPrep (n : Nat) (item : Fin 4096) (s : State) : Out :=
  .next (match s.isRunning n item 0 0x35 with
    | none => s
    | some (i, it) =>
      match snrPrepIndex (s.items i) item with
      | none => s
      | some k =>
        match (s.instImg i).bind fun im => im.snare[k]? with
        | none => putOut i item { data := [], miss := missIn (s.kin i item it n false) } s
        | some c =>
          let r := s.snrRow i item it c
          let s := putOut i item { data := wordsOf (rowBytes r), miss := missIn (s.kin i item it n false) } s
          s.setSnr { s.snr with prep := s.snr.prep ++ [(k, r)] })

/-- Rows in tick order. -/
def rowInsert (r : SnrRow) : List SnrRow → List SnrRow
  | [] => [r]
  | x :: xs => if r.tick < x.tick then r :: x :: xs else x :: rowInsert r xs

/-- The SNR_PREP item of a tick retires: its row is queued, or lost (R345). -/
def snareRetire (n k : Nat) (stale : Bool) (s : State) : State :=
  match s.snr.prep.find? fun e => e.1 = k && e.2.tick = n with
  | none => s
  | some (_, r) =>
    let s := s.setSnr { s.snr with prep := s.snr.prep.filter fun e => !(e.1 = k && e.2.tick = n) }
    if !s.snrTakes k n then s
    else if s.snr.queue.length ≥ 64 then rowLost k n s
    else
      let d := s.snrDef k
      let s := if stale then s.setSnrDef k { d with flags := d.flags ||| 16 } else s
      s.setSnr { s.snr with queue := s.snr.queue ++ [(k, if stale then { r with flags := r.flags ||| 2 } else r)] }

/-- SNARE_ROW_WRITE (R345, R347): the row at the head of the queue goes to its ring. -/
def execSnareRowWrite (s : State) : Out :=
  .next (match s.snr.queue with
    | [] => s
    | (k, r) :: q =>
      let s := s.setSnr { s.snr with queue := q }
      let st := s.rd (fSNR_DEF_STS_STATE k)
      let d := s.snrDef k
      let rows := rowInsert r d.rows
      if st = snrArmed then
        let pre := match s.snrCfg? k with | some c => c.pre | none => 0
        let rows := rows.drop (rows.length - pre)
        (State.eccWrite 5 6 ((s.ev 0x372).setSnrDef k { d with rows := rows })).wr (fSNR_PRE_STS_ROWS k) rows.length
      else if st = snrTriggered || st = snrComplete then
        (State.eccWrite 5 6 ((s.ev 0x372).setSnrDef k { d with rows := rows })).wr (fSNR_PRE_STS_ROWS k) (rows.filter fun x => x.tick < d.t0).length
      else s)

/-! ### States (R347 to R350) -/

/-- Clear what the definition's registers say of a capture. -/
def snrClear (k : Nat) (s : State) : State :=
  let s := s.setSnr { s.snr with queue := s.snr.queue.filter fun e => e.1 ≠ k }
  let s := (((s.wr (fSNR_DEF_STS_SHORT_PRE k) 0).wr (fSNR_DEF_STS_TRUNCATED k) 0).wr (fSNR_DEF_STS_CAUSE k) 0).wr (fSNR_DEF_STS_RETRIG k) 0
  (((s.wr (fSNR_PRE_STS_ROWS k) 0).wr (fSNR_POST_STS_TICKS k) 0).wr (fSNR_GAP_STS_LOST k) 0).wr (fSNR_GAP_STS_ENTRIES k) 0

/-- ARM: ignored outside IDLE. -/
def snareArm (k : Nat) (s : State) : State :=
  if (s.snrCfg? k).isNone || s.rd (fSNR_DEF_STS_STATE k) ≠ snrIdle then s
  else
    let due := if s.on (fSNR_DEF_CFG_AUTO_EN k) then some (s.up + s.rd (fSNR_DEF_CFG_AUTO_S k) * 1000000000) else none
    let s := (snrClear k s).wr (fSNR_DEF_STS_STATE k) snrArmed
    s.setSnrDef k { armTick := tickFrom (s.rateAt s.clv.now) s.clv.now, autoDue := due }

/-- The capture is COMPLETE, cut short at `last` (R347, R356). -/
def snareTruncate (k last : Nat) (s : State) : State :=
  let d := s.snrDef k
  let gaps := d.gaps.filterMap fun g => if g.first > last then none else some { g with len := min g.len (last + 1 - g.first) }
  let s := (s.setSnrDef k { d with last := last, gaps := gaps }).wr (fSNR_GAP_STS_ENTRIES k) gaps.length
  (s.wr (fSNR_DEF_STS_STATE k) snrComplete).wrB (fSNR_DEF_STS_TRUNCATED k) true

def snareDisarm (k : Nat) (s : State) : State :=
  let st := s.rd (fSNR_DEF_STS_STATE k)
  let d := s.snrDef k
  if st = snrArmed then ((snrClear k s).setSnrDef k {}).wr (fSNR_DEF_STS_STATE k) snrIdle
  else if st = snrTriggered then
    let rows := d.rows ++ s.snr.queue.filterMap fun e => if e.1 = k then some e.2 else none
    snareTruncate k ((rows.map fun r => r.tick).foldl max d.t0) s
  else s

/-- RELEASE: ignored outside COMPLETE and during an export. -/
def snareRelease (k : Nat) (s : State) : State :=
  if s.rd (fSNR_DEF_STS_STATE k) = snrComplete && !s.on (fSNR_DEF_STS_EXPORTING k) then
    ((snrClear k s).setSnrDef k {}).wr (fSNR_DEF_STS_STATE k) snrIdle
  else s

/-- A HOST trigger, for a definition that has a HOST term (R348, log entry 28). -/
def snareHostTrig (k : Nat) (s : State) : State :=
  match s.snrCfg? k with
  | some c => if c.terms.contains .host then snareTrigger k causeHost s.curTick s else s
  | none => s

/-- A write of SNR_CTL_k: DISARM comes before a trigger of the same cycle (R349). -/
def snareCtl (k v : Nat) (s : State) : State :=
  if (s.snrCfg? k).isNone && (s.snrDef k).cfg.isNone then s
  else
    let s := if v.testBit 1 then snareDisarm k s else s
    let s := if v.testBit 2 then snareRelease k s else s
    let s := if v.testBit 0 then snareArm k s else s
    if v.testBit 3 then snareHostTrig k s else s

/-- SNARE_ARM (R347). -/
def execSnareArm (k : Fin 4) (s : State) : Out := .next (snareCtl k 1 s)

/-- SNARE_DISARM (R347). -/
def execSnareDisarm (k : Fin 4) (s : State) : Out := .next (snareCtl k 2 s)

/-- SNARE_RELEASE (R347). -/
def execSnareRelease (k : Fin 4) (s : State) : Out := .next (snareCtl k 4 s)

/-- SNARE_HOST_TRIG (R348). -/
def execSnareHostTrig (k : Fin 4) (s : State) : Out := .next (snareCtl k 8 s)

/-- SNARE_PIO_EDGE (R42, R348): an edge that begins a pulse shorter than the pin's glitch filter, or ends one, is removed; any other fires the
terms that select it. `raw` is where the filter sees the edge, `hold` how long the level it begins lasts. -/
def execSnarePioEdge (pin : Fin 16) (raw hold : Nat) (rise : Bool) (s : State) : Out :=
  .next (
    let g := s.rd (fSNR_PIO_CFG_GLITCH pin)
    let put (v : Bool) : State := s.setSnr { s.snr with levels := s.snr.levels.set pin (some v) }
    if !s.on (fSNR_PIO_CFG_OWNED pin) || s.snr.levels.getD pin none = some rise then s
    else if !passesFilter g hold then put (!rise)
    else
      let stamp := atContact g raw
      snareTriggerAll (fun t => match t with
        | .pio p e => p = pin.val && edgeSelected e rise
        | _ => false) causePio (tickAt (s.rateAt stamp) stamp) (put rise))

/-- SNARE_AUTO_TRIGGER (R350). -/
def execSnareAutoTrigger (k : Fin 4) (s : State) : Out :=
  .next (match (s.snrDef k).autoDue with
    | some d => if s.up < d || s.rd (fSNR_DEF_STS_STATE k) ≠ snrArmed then s else snareTrigger k causeAuto s.curTick s
    | none => s)

/-! ### The patch (R346, R352) -/

def patchVals (slot : Nat) (r : SlotRecord) : List SnrSignal → List Nat → List Nat
  | [], _ => []
  | x :: xs, ws =>
    (if sigSlot x = some slot then sigWords r x else ws.take (sigLen x)) ++ patchVals slot r xs (ws.drop (sigLen x))

def patchRow (c : SnrDefCfg) (late : List SlotRecord) (r : SnrRow) : SnrRow :=
  late.foldl (fun r x =>
    { r with flags := r.flags ||| 1, values := patchVals x.slot x c.signals r.values,
             quality := List.zipWith (fun sl q => if sl = x.slot then qualHalf x else q) (rowSlots c) r.quality }) r

/-- Patch definition k's row of a column that is about to be released, and list the sources that stayed missing. -/
def snarePatch (col : Column) (k : Nat) (s : State) : State :=
  match s.snrOwn k with
  | none => s
  | some c =>
    if !s.snrTakes k col.tick then s
    else
      let lates := (rowSlots c).filterMap fun sl =>
        let x := cellOf col sl
        match bindingOf (s.imgAt col.tick) sl with
        | some b => if x.state = 3 && (groupOf (s.imgAt col.tick) b.group).latePath ≠ 0 then x.rec? else none
        | none => none
      let fix (r : SnrRow) : SnrRow := if r.tick = col.tick then patchRow c lates r else r
      let d := s.snrDef k
      let s := s.setSnrDef k { d with rows := d.rows.map fix }
      let s := s.setSnr { s.snr with queue := s.snr.queue.map fun e => if e.1 = k then (k, fix e.2) else e }
      let s := (rowSlots c).foldl (fun s sl => if (cellOf col sl).state = 2 then addGap k col.tick 1 1 sl s else s) s
      let held := (d.rows ++ s.snr.queue.filterMap fun e => if e.1 = k then some e.2 else none).find? fun r => r.tick = col.tick
      match held with
      | some r => if r.flags.testBit 2 then addGap k col.tick 1 1 0xFFFF s else s
      | none => s

/-- The token closing C(n) is processed, and these columns are about to be released: rows are patched, POST advances, and a capture
whose last tick has been patched is COMPLETE (R346, R347). -/
def snareClose (n : Nat) (cols : List Column) (s : State) : State :=
  (List.range 4).foldl (fun s k =>
    let s := cols.foldl (fun s c => snarePatch c k s) s
    if s.rd (fSNR_DEF_STS_STATE k) ≠ snrTriggered then s
    else
      let d := s.snrDef k
      let post := match d.cfg with | some c => c.post | none => 0
      let s := s.wr (fSNR_POST_STS_TICKS k) (min post (n + 1 - d.t0))
      if cols.any fun c => c.tick ≥ d.last then s.wr (fSNR_DEF_STS_STATE k) snrComplete else s) s

/-! ### Capture files (R353 to R355) -/

/-- The directory entry of a signal: slot or result item, element index, kind (log entry 28). -/
def sigDir : SnrSignal → Bytes
  | .phasor sl k => le 2 sl ++ le 2 k ++ le 1 0 ++ le 3 0
  | .analog sl k => le 2 sl ++ le 2 k ++ le 1 1 ++ le 3 0
  | .freq sl => le 2 sl ++ le 2 0 ++ le 1 2 ++ le 3 0
  | .rocof sl => le 2 sl ++ le 2 0 ++ le 1 3 ++ le 3 0
  | .digital sl k => le 2 sl ++ le 2 k ++ le 1 4 ++ le 3 0
  | .result p el => le 2 p ++ le 2 el ++ le 1 5 ++ le 3 0

def State.memberByte (s : State) : Nat := if s.paired then s.rd fPAIR_STS_MEMBER else 0xFF

/-- The 128-byte header of definition k's capture. -/
def State.snrHead (s : State) (k : Nat) (c : SnrDefCfg) : Bytes :=
  let d := s.snrDef k
  let flags := s.rd (fSNR_DEF_STS_SHORT_PRE k) + 2 * s.rd (fSNR_DEF_STS_TRUNCATED k) + (d.flags ||| 3) - 3
  le 2 0xD0C5 ++ le 1 1 ++ le 1 k ++ le 2 flags ++ le 1 (s.rd (fSNR_DEF_STS_CAUSE k)) ++ le 1 s.memberByte ++
    le 4 (match s.img with | some i => i.sourceId | none => 0) ++ le 2 (s.rateAt (s.tickInst d.t0)) ++ le 2 c.signals.length ++
    le 4 (snrRowLen c) ++ le 4 d.rows.length ++ le 8 d.t0 ++ le 8 (s.tickInst d.t0) ++ le 8 d.first ++
    le 8 d.last ++ le 2 d.gaps.length ++ le 2 (s.rd (fSNR_DEF_STS_RETRIG k)) ++ le 4 (s.rd (fSNR_GAP_STS_LOST k)) ++ le 64 0

/-- The capture file of definition k (R353). -/
def State.snrFileBytes (s : State) (k : Nat) (c : SnrDefCfg) : Bytes :=
  let d := s.snrDef k
  let rt := (List.range 16).map fun i => match d.retrigs[i]? with
    | some (t, m) => le 8 t ++ le 1 m ++ le 7 0
    | none => le 16 0
  let gs := d.gaps.map fun g => le 8 g.first ++ le 4 g.len ++ le 1 g.reason ++ le 1 0 ++ le 2 g.slot
  let body := s.snrHead k c ++ rt.flatten ++ gs.flatten ++ (c.signals.map sigDir).flatten ++ (d.rows.map rowBytes).flatten
  body ++ le 4 (crc32c body)

/-- Bytes of the NAND capture store not yet taken (R355). -/
def State.snrFree (s : State) : Nat :=
  (match s.img with | some i => i.snareNandMib * 1048576 | none => 0) - (s.nand.snr.map fun f => f.bytes.length).sum

/-- SNR_STS as the store stands. -/
def snrSync (s : State) : State :=
  let s := (s.wr fSNR_STS_NAND_FREE (s.snrFree / 1048576)).wr fSNR_STS_FILES (min s.nand.snr.length 255)
  s.wr fSNR_STS_EXPORTING ((List.range 4).foldl (fun a k => a + 2 ^ k * s.rd (fSNR_DEF_STS_EXPORTING k)) 0)

/-- Write definition k's capture to the NAND store: the file's number, or no space (R355). -/
def snareToNand (k : Nat) (c : SnrDefCfg) (s : State) : Option Nat × State :=
  let bytes := s.snrFileBytes k c
  if bytes.length > s.snrFree then (none, s.flag fSNR_FLT_FLAGS 4)
  else
    let f : SnrFile := { number := s.nand.snrNext, head := s.snrHead k c, t0 := (s.snrDef k).t0, bytes := bytes, complete := true }
    (some f.number, snrSync { s with nand := { s.nand with snr := s.nand.snr ++ [f], snrNext := f.number + 1 } })

/-- Rows of a definition that are still to be written to its ring. -/
def State.snrPending (s : State) (k : Nat) : Bool := s.snr.queue.any fun e => e.1 = k

/-- SNARE_AUTO_EXPORT (R342, R347, R355). -/
def execSnareAutoExport (k : Fin 4) (s : State) : Out :=
  .next (match (s.snrDef k).cfg with
    | none => s
    | some c =>
      if s.rd (fSNR_DEF_STS_STATE k) ≠ snrComplete || s.rd (fSNR_DEF_CFG_REARM k) ≠ 1 || s.on (fSNR_DEF_STS_EXPORTING k) ||
          (s.mbx.run.any fun r => r.claims.testBit 8) ||
          s.snrPending k then s
      else match snareToNand k c s with
        | (none, s) => s
        | (some _, s) => snareArm k (snareRelease k s))

/-- A NAND write cut by a power cut is reclaimed at the next start (R355). -/
def snareReclaim (s : State) : State :=
  let cut := s.nand.snr.filter fun f => !f.complete
  let s := { s with nand := { s.nand with snr := s.nand.snr.filter fun f => f.complete } }
  snrSync (cut.foldl (fun s f => post 0x81 (le 1 (leAt f.head 3 1) ++ le 3 0 ++ le 8 f.t0) (s.flag fSNR_FLT_FLAGS 6)) s)

/-! ### Image swap (R356) -/

def partOf (i : Image) (id : Nat) : Option Partition := i.partitions.find? fun p => p.id = id

/-- A definition is identical in both images. -/
def snareKept (snrPart : Nat) (old new : Image) (k : Nat) : Bool :=
  old.snare[k]? = new.snare[k]? && old.rateCode = new.rateCode && partOf old snrPart = partOf new snrPart &&
    match old.snare[k]? with
    | some c => (rowSlots c).all fun sl => bindingOf (some old) sl = bindingOf (some new) sl
    | none => true

def snareSwap (snrPart : Nat) (old new : Image) (n : Nat) (s : State) : State :=
  (List.range 4).foldl (fun s k =>
    if snareKept snrPart old new k then s
    else
      let st := s.rd (fSNR_DEF_STS_STATE k)
      let d := s.snrDef k
      let note (s : State) : State := post 0x80 (le 1 k ++ le 3 0 ++ le 8 d.t0) (s.flag fSNR_FLT_FLAGS 7)
      if st = snrArmed then ((snrClear k s).setSnrDef k {}).wr (fSNR_DEF_STS_STATE k) snrIdle
      else if st = snrTriggered then
        let s := s.setSnrDef k { d with flags := d.flags ||| 8 }
        note (snareTruncate k (n - 1) s)
      else if st = snrComplete then note s
      else s) s

/-- Ticking begins: definitions with ARM_AT_START are armed (R342). -/
def snareAtStart (s : State) : State :=
  (List.range 4).foldl (fun s k =>
    match s.snrCfg? k with
    | some c => if c.armAtStart then snareArm k s else s
    | none => s) s

end Sys2Proof.Machine
end

