-- ==== Sys2Proof/Machine/Align.lean ====
section
/-!
DEFINITION. The rows of alignment (R137, R150–R190, R77): records at the decision point, close tokens, templates, learning's
copy in MRAM, memory errors, the beginning of ticking, the tick instant, a configuration's activation.
-/

namespace Sys2Proof.Machine

/-! ### Records (R155, R156, R171) -/

/-- A record that the resampler takes before the decision point: the rate under which it was read differs from the base rate, or its slot has
an offset (R170). -/
def forResampler (s : State) (r : SlotRecord) (b : Binding) : Bool :=
  resampledAt b (s.recRate b r) (s.rateAt r.srcTime) && !r.qual.testBit 28

/-- RECORD_ARRIVAL (R156): the record at the head of the arrivals reaches the decision point. -/
def execRecordArrival (s : State) : Out :=
  .next (match popArrival s with
    | none => s
    | some (r, s') =>
      match s.slotBinding? r.slot with
      | none => swapDrop r s.curTick s'
      | some b => if forResampler s r b then s else tmbRefresh (recordArrival r b s'))

/-- RESAMPLER_INPUT (R171): the record at the head of the arrivals enters its slot's history. -/
def execResamplerInput (s : State) : Out :=
  .next (match popArrival s with
    | none => s
    | some (r, s') =>
      match s.slotBinding? r.slot with
      | none => s
      | some b => if forResampler s r b then rsmpInput r b s' else s)

/-! ### Tokens (R152 to R156) -/

/-- The groups whose tokens a column has: the used ones, or the single token of an image with none (R152). -/
def tokenGroups (gs : List Nat) : List Nat := if gs.isEmpty then [16] else gs

/-- The tokens of every column whose windows are fixed that satisfy `p`: close, group, tick. -/
def State.tokens (s : State) (p : Column → Nat → Bool) : List (Nat × Nat × Nat) :=
  (s.pgh.cols.map fun c =>
    if c.win.isNone then []
    else ((tokenGroups (usedGroups (s.imgAt c.tick))).filter (p c)).map fun g => (closeAt c g, g, c.tick)).flatten

/-- The token whose close comes first, the lowest group where several come at once (R156). -/
def firstToken : List (Nat × Nat × Nat) → Option (Nat × Nat × Nat)
  | [] => none
  | t :: ts => some (ts.foldl (fun a b => if b.1 < a.1 || (b.1 = a.1 && b.2.1 < a.2.1) then b else a) t)

/-- CLOSE_TOKEN_ISSUE (R154): a token is issued at its close. -/
def execCloseTokenIssue (s : State) : Out :=
  .next (match firstToken (s.tokens fun c g => !c.issued.contains g) with
    | some (x, g, n) =>
      match s.col? n with
      | some c => if x ≤ s.clv.now then s.setCol { c with issued := c.issued ++ [g] } else s
      | none => s
    | none => s)

/-- The cell of a slot when its group's token is processed: an EMPTY one becomes MISSING; one that is not PRESENT signals
ready_missing, once (R156, R169). Answers whether it signalled. -/
def tokenCell (x : Cell) : Cell × Bool :=
  let x := if x.state = 0 then { x with state := 2 } else x
  if x.state ≠ 1 && x.ready = 0 then ({ x with ready := 2 }, true) else (x, false)

/-- Close the cells of a group in tick `n`'s column. -/
def closeCells (n g : Nat) (s : State) : State :=
  match s.col? n with
  | none => s
  | some c =>
    let slots := groupSlots (s.imgAt n) g
    let miss := (slots.filter fun sl => (tokenCell (cellOf c sl)).2).length
    let c := slots.foldl (fun c sl => putCell c sl (tokenCell (cellOf c sl)).1) c
    let s := s.setCol { c with done := c.done ++ [g] }
    let s := if g < 16 then s.inc (fPGH_GRP_MISS_CNT_CELLS g) miss else s
    traceClose slots n ((s.ev 0x349 miss).inc fPGH_MISS_CNT_CELLS miss)

/-- The output streams that carry any of these slots, as a mask (R182). -/
def streamMask (s : State) (n : Nat) (slots : List Nat) : Nat :=
  match s.imgAt n with
  | none => 0
  | some i => (i.outs.zipIdx.filter fun o => (streamSlots o.1).any slots.contains).foldl (fun m o => m + 2 ^ o.2) 0

/-- One amendment notice, or its loss to a full queue (R182). -/
def notice (c : Column) (s : State) : State :=
  let s := s.setCol { c with gained := [] }
  if s.pgh.notices.length < 256 then
    (s.setPgh { s.pgh with notices := s.pgh.notices ++ [(c.tick, streamMask s c.tick c.gained)] }).inc fPGH_AMEND_CNT_NOTICES
  else post 0x33 (slotPayload 0xFFFF c.tick) ((s.inc fPGH_AMENDOVF_CNT_NOTICES).flag fPGH_FLT_FLAGS 2)

/-- The notices of every tick before `m` that gained an AMEND record since the C before. -/
def notices (m : Nat) (s : State) : State :=
  (s.pgh.cols.filter fun c => c.inst < s.tickInst m && !c.gained.isEmpty).foldl (fun s c => notice c s) s

/-- The columns released at the close of C(n): those H ticks before n or older (R166). -/
def State.released (s : State) (n : Nat) : List Column :=
  let kept := s.recentTicks n s.horizon
  s.pgh.cols.filter fun c => c.inst < s.tickInst n && !kept.contains c.tick

/-- Release columns, each of which opens the next (R166). -/
def releaseCols (cols : List Column) (s : State) : State :=
  let s := cols.foldl (fun s c => traceRelease c.tick s) s
  let s := s.setPgh { s.pgh with cols := s.pgh.cols.filter fun c => !cols.any fun x => x.tick = c.tick }
  let s := s.wr fPGH_STS_COLS s.pgh.cols.length
  cols.foldl (fun s _ => openColumn s) s

/-- MISSING_TEMPLATE_WRITE (R169): the templates of the MISSING cells are written to DRAM. -/
def execMissingTemplateWrite (s : State) : Out :=
  let f (e : Nat × Cell) : Nat × Cell := (e.1, if e.2.state = 2 && e.2.ready = 2 then { e.2 with template := true } else e.2)
  .next (s.setPgh { s.pgh with cols := s.pgh.cols.map fun c => { c with cells := c.cells.map f } })

/-! ### Learning's copy (R164) and memory errors (R186) -/

/-- The bytes of a stored set, as its CRC covers them: generation, then each slot's number and four statistics (log entry 49). -/
def learnBytes (gen : Nat) (stats : List (Nat × SlotStat)) : Bytes :=
  let q (v : Int) : Bytes := le 8 (ofSigned 64 v)
  le 8 gen ++ (stats.map fun e => le 2 e.1 ++ q e.2.mu ++ q e.2.d ++ q e.2.q ++ q e.2.m).flatten

/-- An area is complete where its CRC is there and right. -/
def areaWhole (a : LearnArea) : Bool := a.crc = some (crc32c (learnBytes a.gen a.stats))

/-- The complete area with the highest generation, and its place. -/
def State.newestArea (s : State) : Option (LearnArea × Nat) :=
  let whole := s.mram.learn.zipIdx.filterMap fun x => match x.1 with
    | some a => if areaWhole a then some (a, x.2) else none
    | none => none
  match whole with
  | [] => none
  | x :: xs => some (xs.foldl (fun a b => if b.1.gen > a.1.gen then b else a) x)

def learnKeys (i : Image) : List (BindKey × Nat) := i.bindings.map fun b => (bindKey i b, b.group)

/-- LEARNING_MRAM_WRITE: every 60 s, to the two areas in turn; `cut`: the power goes before the CRC is written. -/
def execLearningMramWrite (cut : Bool) (s : State) : Out :=
  .next (match s.img with
    | none => s
    | some i =>
      if s.up < s.pgh.learnDue then s
      else
        let (gen, k) := match s.newestArea with
          | some (a, k) => (a.gen + 1, 1 - k)
          | none => (1, 0)
        let a : LearnArea := { gen := gen, keys := learnKeys i, groups := i.groups, stats := s.pgh.stats,
                               crc := if cut then none else some (crc32c (learnBytes gen s.pgh.stats)) }
        let s := s.setPgh { s.pgh with learnDue := s.pgh.learnDue + 60000000000 }
        { s with mram := { s.mram with learn := s.mram.learn.set k (some a) } })

/-- The newer complete set, where it was learned under this image's bindings and groups; otherwise none (R164). -/
def State.learnedUnder (s : State) (i : Image) : List (Nat × SlotStat) :=
  match s.newestArea with
  | some (a, _) => if a.keys = learnKeys i && a.groups = i.groups then
      a.stats.map fun e => (e.1, { e.2 with lastIng := none, active := false, offGrid := false }) else []
  | none => []

/-- A slot's four statistics start again (R162, R186). -/
def restartStat (slot : Nat) (s : State) : State :=
  let x := s.slotStat slot
  let i := initStat (s.groupCfg (((s.binding? slot).map fun b => b.group).getD 0))
  s.setSlotStat slot { x with mu := i.mu, d := i.d, q := i.q, m := i.m }

/-- PGH_SRAM_UE (R186): an ECC event in a cell, or in a slot's statistics. -/
def execPghSramUe (e : EccErr) (stats : Bool) (n : Nat) (slot : Fin 8192) (s : State) : Out :=
  .next (match e with
    | .corrected k => s.inc fPGH_ECC_CNT_CE k
    | .lost =>
      let s := (s.inc fPGH_ECC_CNT_UE).flag fPGH_FLT_FLAGS 8
      let s := if stats then restartStat slot s else recordUe n slot s
      abdicate abdPghUe false (post 0x34 (slotPayload slot (if stats then 0 else n)) s))

/-! ### Selection latches (R150, R189) -/

/-- A write to ING_SLOT_SEL latches the slot's registers. -/
def ingSelect (v : Nat) (s : State) : State :=
  let slot := v % 8192
  let x := s.ingSlot slot
  let (st, tcp, auth, gen) : Nat × Nat × Bool × Nat := match s.binding? slot with
    | none => (0, 0, false, 0)
    | some b =>
      if b.fmt = .localRef then (5, 0, b.auth, 0)
      else if isSv b.fmt then (1, 0, b.auth, 0)
      else ((s.stream b.stream).state, (match b.tcp with | some c => s.tcpState c | none => 0), b.auth, (s.stream b.stream).gen)
  let s := s.wr fING_SLOT_SEL_SLOT slot
  let s := ((s.wr fING_SLOT_STS_CFG_STATE st).wr fING_SLOT_STS_TCP tcp).wrB fING_SLOT_STS_AUTH_REQ auth
  let s := (s.wr fING_SLOT_STS_LAST_REASON x.reason).wr fING_SLOT_STS_CFG_GEN gen
  (s.wr fING_SLOT_CNT_RECORDS x.count).wr fING_SLOT_DROP_CNT_FRAMES x.drops

/-- A time in units of 2^-16 ns as whole µs. -/
def statUs (v : Int) : Int := v / 65536000

/-- A write to PGH_SLOT_SEL latches the slot's registers. -/
def pghSelect (v : Nat) (s : State) : State :=
  let slot := v % 8192
  let s := s.wr fPGH_SLOT_SEL_SLOT slot
  let cell := s.cell (s.rd64 fPGH_TICK_LO_N_LO) slot
  let s := (s.wrB fPGH_SLOT_STS_CONFLICT cell.conflict).wr fPGH_SLOT_STS_STATE cell.state
  let s := s.wr fPGH_SLOT_STS_HIST (s.hist slot).recs.length
  match s.binding? slot with
  | none =>
    let s := ((s.wr fPGH_SLOT_STS_GROUP 0).wr fPGH_SLOT_STS_RSMP 3).wrB fPGH_SLOT_STS_ACTIVE false
    let s := ((s.wr fPGH_SLOT_MU_STS_MU 0).wr fPGH_SLOT_D_STS_D 0).wr fPGH_SLOT_Q_STS_Q 0
    (s.wr fPGH_SLOT_MAX_STS_MAX 0).wr fPGH_SLOT_W_STS_W 0
  | some b =>
    let c := s.groupCfg b.group
    let x := s.slotStat slot
    let mode := if s.resampled b then (match b.rsmp with | .exact => 2 | _ => 1) else 0
    let s := ((s.wr fPGH_SLOT_STS_GROUP b.group).wr fPGH_SLOT_STS_RSMP mode).wrB fPGH_SLOT_STS_ACTIVE x.active
    let show_ (v : Int) : Int := if learned c then statUs v else 0
    let s := (s.wrSym fPGH_SLOT_MU_STS_MU (show_ x.mu)).wrSym fPGH_SLOT_D_STS_D (show_ x.d)
    let s := (s.wrSym fPGH_SLOT_Q_STS_Q (show_ x.q)).wrSym fPGH_SLOT_MAX_STS_MAX (show_ x.m)
    let w : Int := if learned c then statUs (slotWindow c.policy (s.inForce b.group).2 x)
      else ((s.pgh.win.getD b.group 0 / 1000 : Nat) : Int)
    s.wrSym fPGH_SLOT_W_STS_W w

/-! ### Ticking (R77, R66, R161) -/

/-- Ticking begins at index `n` of the first whole second (R77, R183, R347). -/
def beginTicking (n : Nat) (s : State) : State :=
  let s := s.wrB fCLV_STS_TICKING true
  let s := s.setClv { s.clv with nextTick := n }
  let s := s.setTmb { s.tmb with next := n }
  let s := { s with lmf := { s.lmf with next := n } }
  let s := s.setPair { s.pair with instAt := s.up }
  snareAtStart (openAll n s)

/-- TICKING_BEGIN: the second fixed at lock has come, and S4 is complete. -/
def execTickingBegin (s : State) : Out :=
  .next (match s.clv.tickSecond with
    | some sec =>
      if s.ticking || s.pwr.phase ≠ .running || s.img.isNone || s.clv.now < sec * 1000000000 then s
      else beginTicking (sec * s.rate) s
    | none => s)

/-- What a tick instant does. -/
def tickNow (n : Nat) (s : State) : State :=
  let s := accFirstTick n (fixWindows n s)
  let s := pairTick n (stallTick n (keyEffect n s))
  s.setClv { s.clv with nextTick := (s.nextRun n).1 }

/-- TICK_INSTANT: t(n) has come. -/
def execTickInstant (n : Nat) (s : State) : Out :=
  .next (if s.ticking && n = s.clv.nextTick && s.instantCome n then tickNow n s else s)

/-- RESEAT_STEP (R82): the step is taken; the ticks that it skips have no column (R184). -/
def execReseatStep (s : State) : Out :=
  .next (
    let t := reseatStep s
    match s.clv.reseat, t.clv.reseat, t.clv.skip with
    | some _, none, some (f, c) => dropSkipped f c t
    | _, _, _ => t)

/-! ### A configuration becomes active (R137, R170, R175, R176) -/

/-- R176's bound for a slot at its stream's active rate exceeds its group's longest window. -/
def rsmpTooLong (s : State) (b : Binding) : Bool :=
  let c := s.groupCfg b.group
  let taps := (rsmpTaps b.rsmp).2
  let lim := if learned c then c.wMax else s.fixedWindow c s.curTick
  resampledAt b (s.cfgRateOf b) s.rate && taps * 1000000000 > lim * s.cfgRateOf b

/-- What an adopted configuration does to one slot: its history is flushed (R175), and its next record carries CFG_NEW. -/
def slotAdopt (b : Binding) (s : State) : State :=
  let s := s.setIngSlot b.slot { s.ingSlot b.slot with cfgNew := true }
  let s := s.setHist b.slot { fresh := true }
  if rsmpTooLong s b then post 0x32 (slotPayload b.slot s.curTick) (s.flag fPGH_FLT_FLAGS 7) else s

/-- Frames of a stream that have been read and not committed are read again, under the configuration that is now active (R137). -/
def unread (stream : Nat) (s : State) : State :=
  mapJobs (fun j => if s.jobStream j = stream then { j with recs := none } else j) s

/-- CFG_ACTIVATE: the waiting configuration of a stream becomes its active one. -/
def execCfgActivate (stream : Nat) (s : State) : Out :=
  let st := s.stream stream
  .next (match st.waiting with
    | none => s
    | some c =>
      let gen := (st.gen + 1) % 65536
      let s := s.setStream stream { st with cfg := some c, gen := gen, state := 2, waiting := none }
      let bs := s.bindings.filter fun b => b.stream = stream
      let s := unread stream (bs.foldl (fun s b => slotAdopt b s) s)
      let s := match bs.head?.bind fun b => b.tcp with
        | some k => if s.tcpState k = 2 then (tcpCommand k 2 s).setTcp k 3 else s
        | none => s
      post 0x21 (le 2 ((s.streamSlots stream).headD 0) ++ le 2 gen) s)

end Sys2Proof.Machine
end

