-- ==== Sys2Proof/Machine/Coherency.lean ====
section
/-!
DEFINITION. The coherency unit (R254–R262): branch states, components, islands, their identities and events.
-/

namespace Sys2Proof.Machine

def State.setCoh (s : State) (c : Coh) : State := { s with coh := c }

def cohCfgOf (i : Option Image) : CohCfg := match i with | some i => i.coh | none => {}

/-- A register field's value as an image sets it. -/
def imgReg (i : Option Image) (f : Fld) : Nat :=
  match i with
  | some i => ((i.regs.find? fun r => r.1 = f.key).map fun r => r.2).getD f.rst
  | none => f.rst

/-! ### Evidence and branch states (R256) -/

/-- The evidence bytes of every branch, in branch order; those of a result that reads as missing are unknown. -/
def State.evidence (s : State) (i : Inst) (j : Nat) : List Nat :=
  let its := s.items i
  match its[j]? with
  | none => []
  | some it => (it.ops.zipIdx.map fun o =>
      match o.1 with
      | .result p _ _ => match its[p]? with
        | some x => if x.unit = 0 && x.kernel = 0x32 then
            let n := x.p1 / 65536
            match s.fetchOp i j o.2 i.tick false o.1 with
            | .block b => if b.miss then List.replicate n 0 else ((bytesOf b.words).take n).map fun x => x.toNat
            | .cells _ _ _ _ _ _ => []
          else []
        | none => []
      | _ => []).flatten

/-- The node measurement vector: the last RESULT operand. -/
def State.measVector (s : State) (i : Inst) (j : Nat) : List Nat :=
  match (s.items i)[j]? with
  | none => []
  | some it =>
    match (it.ops.zipIdx.filter fun o => match o.1 with | .result _ _ _ => true | _ => false).getLast? with
    | some o => match s.fetchOp i j o.2 i.tick false o.1 with
      | .block b => if b.miss then [] else b.words
      | .cells _ _ _ _ _ _ => []
    | none => []

/-- What MODE makes of BRK and ELEC: `some true` = OPEN, `some false` = CLOSED, none unknown. -/
def branchEvidence (mode brk elec : Nat) : Option Bool :=
  let b := if brk = 1 then some false else if brk = 2 then some true else none
  let e := if elec = 1 then some false else if elec = 2 then some true else none
  if mode = 0 then b
  else if mode = 1 then e
  else if mode = 2 then (match b with | some x => some x | none => e)
  else if b = some true || e = some true then some true
  else if b = some false || e = some false then some false
  else none

/-- One branch at a run: an unknown one is HELD, and after HOLD_S takes its DEFAULT. -/
def branchStep (inst holdS : Nat) (c : CohBranch) (ev : Nat) (b : BranchSt) : BranchSt :=
  let b := { b with brk := ev % 4, elec := ev / 4 % 4 }
  match branchEvidence c.mode (ev % 4) (ev / 4 % 4) with
  | some o => { b with opened := o, held := false, defaulted := false, unknownSince := none }
  | none =>
    let since := b.unknownSince.getD inst
    if b.defaulted || since + holdS * 1000000000 ≤ inst then
      { b with opened := c.dfltOpen, held := false, defaulted := true, unknownSince := some since }
    else { b with held := true, unknownSince := some since }

def branchInit (c : CohCfg) : List BranchSt := c.branches.map fun b => { opened := b.dfltOpen }

/-! ### Components (R258) -/

/-- Join two nodes' components: the lower label stands for both. -/
def joinNodes (l : List Nat) (a b : Nat) : List Nat :=
  let x := l.getD a a
  let y := l.getD b b
  if x = y then l else l.map fun z => if z = max x y then min x y else z

/-- The lowest node number of each node's component. -/
def labels (c : CohCfg) (bs : List BranchSt) : List Nat :=
  (List.zip c.branches bs).foldl (fun l x => if x.2.opened then l else joinNodes l x.1.a x.1.b) (List.range c.nodes)

/-- An island found at this run: its nodes, rising, and how many are measured. -/
structure Comp where
  nodes : List Nat
  measured : Nat
deriving DecidableEq, Repr

def measOf (c : CohCfg) (v : Nat) : Option Nat := c.meas.getD v none

def components (c : CohCfg) (bs : List BranchSt) : List Comp :=
  let l := labels c bs
  ((List.range c.nodes).filter fun v => l.getD v v = v).map fun v =>
    let ns := (List.range c.nodes).filter fun w => l.getD w w = v
    { nodes := ns, measured := (ns.filter fun w => (measOf c w).isSome).length }

/-- Insertion by size, largest first; equals keep the order of their lowest nodes. -/
def insertComp (x : Comp) : List Comp → List Comp
  | [] => [x]
  | y :: ys => if y.nodes.length < x.nodes.length then x :: y :: ys else y :: insertComp x ys

/-- The next identity not in use, from `k`, wrapping past 65,535 to 1. -/
def nextIslandId : Nat → List Nat → Nat → Nat
  | 0, _, k => k
  | n + 1, used, k =>
    let k := if k = 0 || k > 65535 then 1 else k
    if used.contains k then nextIslandId n used (k + 1) else k

def shared (a b : List Nat) : Nat := (a.filter b.contains).length

/-- Identities for the islands, in descending order of size; `taken` are the IDs already given at this tick. -/
def assignIds (n : Nat) (prev : List IslandSt) : List Comp → List Nat → Nat → List (Comp × IslandSt × Bool) × Nat
  | [], _, next => ([], next)
  | c :: cs, taken, next =>
    let best := prev.foldl (fun m p => let k := shared c.nodes p.nodes
      match m with
      | none => if k = 0 then none else some (p, k)
      | some (q, j) => if k > j then some (p, k) else some (q, j)) none
    match best with
    | some (p, _) =>
      if taken.contains p.id then
        let id := nextIslandId 65536 (taken ++ prev.map fun q => q.id) next
        let (r, nx) := assignIds n prev cs (id :: taken) (id + 1)
        ((c, { id := id, since := n, nodes := c.nodes }, true) :: r, nx)
      else
        let (r, nx) := assignIds n prev cs (p.id :: taken) next
        ((c, { p with nodes := c.nodes }, false) :: r, nx)
    | none =>
      let id := nextIslandId 65536 (taken ++ prev.map fun q => q.id) next
      let (r, nx) := assignIds n prev cs (id :: taken) (id + 1)
      ((c, { id := id, since := n, nodes := c.nodes }, true) :: r, nx)

/-! ### One island's report (R259) -/

structure IslandRep where
  st : IslandSt
  new : Bool
  merged : Bool
  main : Bool
  measured : Nat
  freq : Nat
  spread : Nat
  a : Nat
  b : Nat
deriving DecidableEq, Repr

/-- Node numbers with a present angle, and their angles. -/
def presentAngles (c : CohCfg) (meas : List Nat) (ns : List Nat) : List (Nat × Nat) :=
  ns.filterMap fun v => match measOf c v with
    | some m => let x := elemAt meas (2 * m); if f32Finite x then some (v, x) else none
    | none => none

def islandRep (c : CohCfg) (meas : List Nat) (ref thr hyst pickup : Nat) (isMain : Bool) (prev : List (Nat × List Nat))
    (x : Comp × IslandSt × Bool) : IslandRep :=
  let ns := x.1.nodes
  let fs := (ns.filterMap fun v => (measOf c v).map fun m => elemAt meas (2 * m + 1)).filter f32Finite
  let freq := if fs.isEmpty then f32Nan else f32OfQ ((Q.sum (fs.map f32Q)).div ⟨fs.length, 1⟩)
  let angs : List (Nat × Nat) := presentAngles c meas ns
  let first : Option (Nat × Nat) := if isMain then (angs.find? fun a => a.1 = ref) else none
  let refAng : Option Nat := match first with
    | some a => some a.2
    | none => angs.head?.map fun a => a.2
  let rel : List (Nat × Nat) := match refAng with | some r => angs.map fun a => (a.1, f32AngDiff a.2 r) | none => []
  let hi := rel.foldl (fun m a => match m with | none => some a | some y => if f32Lt y.2 a.2 then some a else some y) none
  let lo := rel.foldl (fun m a => match m with | none => some a | some y => if f32Lt a.2 y.2 then some a else some y) none
  let (spread, a, b) := match hi, lo with | some h, some l => (f32Sub h.2 l.2, h.1, l.1) | _, _ => (f32Nan, 0, 0)
  let st := x.2.1
  let st := if !f32Finite spread then st
    else if f32Le thr spread then
      let k := min 255 (st.sepCount + 1)
      { st with sepCount := k, sep := st.sep || k ≥ pickup }
    else { st with sepCount := 0, sep := st.sep && !((f32Q spread).lt ((f32Q thr).sub ⟨hyst, 1000⟩)) }
  let parents := (prev.filter fun p => shared p.2 ns > 0).length
  { st := st, new := x.2.2, merged := parents ≥ 2, main := isMain, measured := x.1.measured, freq := freq, spread := spread, a := a, b := b }

def islandWords (r : IslandRep) : List Nat :=
  let fl := boolW r.main + 2 * boolW r.new + 4 * boolW r.merged + 8 * boolW r.st.sep + 16 * boolW (r.freq = f32Nan)
  [r.st.id + 65536 * fl, r.st.nodes.length % 65536 + 65536 * r.measured, (r.st.nodes.head?.getD 0), r.freq, r.spread, r.a + 65536 * r.b,
   r.st.since % 2 ^ 32, r.st.since / 2 ^ 32]

/-- SPLIT, MERGE, NEW and GONE events (R260): type, ID and islands involved. `prev` and `cur` are all islands, with their IDs, 0 for one that
is not reported; `new` are the IDs newly issued. -/
def islandEvents (prev cur : List (Nat × List Nat)) (new : List Nat) : List (Nat × Nat × Nat) :=
  let meet (l : List (Nat × List Nat)) (ns : List Nat) : Nat := (l.filter fun x => shared ns x.2 > 0).length
  ((prev.filter fun p => meet cur p.2 ≥ 2).map fun p => (1, p.1, meet cur p.2)) ++
  ((cur.filter fun c => meet prev c.2 ≥ 2).map fun c => (2, c.1, meet prev c.2)) ++
  (new.map fun id => (3, id, 1)) ++
  ((prev.filter fun p => meet cur p.2 = 0).map fun p => (4, p.1, 1))

/-- Pad to a length with zeros, or cut. -/
def fit (n : Nat) (l : List Nat) : List Nat := (l ++ List.replicate (n - l.length) 0).take n

/-- COMPONENTS on an instance's item. -/
def cohRun (i : Inst) (j : Nat) (s : State) : State :=
  let c := cohCfgOf (s.instImg i)
  let n := i.tick
  let inst := s.tickInst n
  let run := s.coh.run
  let tune (k : Nat) : Nat := (if i.tune.isEmpty then s.cohTune else i.tune).getD k 0
  let bs0 := if run.branches.length = c.branches.length then run.branches else branchInit c
  let ev := s.evidence i j
  let meas := s.measVector i j
  let bs := (List.zip c.branches bs0).zipIdx.map fun x => branchStep inst (tune 0) x.1.1 (ev.getD x.2 0) x.1.2
  let topo := (List.zip bs0 bs).any fun x => x.1.opened ≠ x.2.opened
  let unknown := (bs.filter fun b => b.unknownSince.isSome).length
  let opened := (bs.filter fun b => b.opened).length
  let newDef := (List.zip bs0 bs).zipIdx.filter fun x => x.1.2.defaulted && !x.1.1.defaulted
  let s := newDef.foldl (fun s x => postAt n 0x52 (le 8 n ++ le 2 x.2) (s.flag fCOH_FLT_FLAGS 5)) s
  let comps := components c bs
  let all := (comps.filter fun x => x.measured > 0).foldl (fun l x => insertComp x l) []
  let top := all.take 256
  let rest := (all.drop 256).map fun x => x.nodes
  let prev := run.islands.map (fun p => (p.id, p.nodes)) ++ run.rest.map fun l => (0, l)
  let (ids, next) := assignIds n run.islands top [] s.coh.nextId
  let ref := imgReg (s.instImg i) fCOH_CFG2_REF_NODE
  let mainId := match ids.find? fun x => x.1.nodes.contains ref with
    | some x => x.2.1.id
    | none => if rest.any fun l => l.contains ref then 0 else (ids.head?.map fun x => x.2.1.id).getD 0
  let reps := ids.map fun x => islandRep c meas ref (tune 1) (tune 3) (tune 2) (x.2.1.id = mainId) prev x
  let events := islandEvents prev (reps.map (fun r => (r.st.id, r.st.nodes)) ++ rest.map fun l => (0, l))
    ((reps.filter fun r => r.new).map fun r => r.st.id)
  let map := (List.range c.nodes).map fun v => ((reps.find? fun r => r.st.nodes.contains v).map fun r => r.st.id).getD 0
  let changes := (List.range c.nodes).filterMap fun v =>
    let o := run.map.getD v 0
    let m := map.getD v 0
    if o = m then none else some (v, o, m)
  let has (t : Nat) : Bool := events.any fun e => e.1 = t
  let sep := reps.any fun r => r.st.sep
  let dflt := bs.any fun b => b.defaulted
  let fl := boolW topo + 2 * boolW (has 1) + 4 * boolW (has 2) + 8 * boolW (has 3) + 16 * boolW (has 4) + 32 * boolW sep + 64 * boolW dflt
  let dark := (comps.filter fun x => x.measured = 0).length
  let data := [reps.length + 65536 * (min dark 65535), (all.length - reps.length) + 65536 * (min changes.length 65535),
               fl + 65536 * mainId, min opened 65535 + 65536 * (min unknown 65535), 0, 0, 0, 0] ++
    fit 2048 (reps.map islandWords).flatten ++
    fit 128 ((events.take 64).map fun e => [e.1 + 65536 * e.2.1, e.2.2]).flatten ++
    fit 512 ((changes.take 256).map fun x => [x.1 + 65536 * x.2.1, x.2.2]).flatten
  let s := [(1, 0), (2, 1), (3, 2), (4, 3)].foldl (fun s e => if has e.1 then s.flag fCOH_FLT_FLAGS e.2 else s) s
  let s := if sep then s.flag fCOH_FLT_FLAGS 4 else s
  let s := if topo then s.inc fCOH_TOPO_CNT_TICKS else s
  let s := ((s.wr fCOH_STS_ISLANDS reps.length).wr fCOH_STS_MAIN_ID mainId)
  let s := (s.wr fCOH_BR_STS_UNKNOWN (min unknown 65535)).wr fCOH_BR_STS_OPEN (min opened 65535)
  let bufs := [s.coh.bufs.getD 0 (0, []), s.coh.bufs.getD 1 (0, [])].set (n % 2) (n, map)
  let s := s.setCoh { s.coh with run := { branches := bs, islands := reps.map (fun r => r.st), rest := rest, map := map }, nextId := next, bufs := bufs }
  putOut i j { data := data, miss := match (s.items i)[j]? with | some it => missIn (s.kin i j it n false) | none => false } s

/-- An instance of the table before a swap runs on the state that did not carry over (R216, R262). -/
def cohFor (i : Inst) (run : State → State) (s : State) : State :=
  match i.old, s.coh.old with
  | true, some o =>
    let t := run (s.setCoh { s.coh with run := o })
    t.setCoh { t.coh with run := s.coh.run, old := some t.coh.run }
  | _, _ => run s

/-- COMPONENTS (unit 3, function 1). -/
def execComponents (n : Nat) (item : Fin 4096) (s : State) : Out :=
  .next (match s.isRunning n item 3 1 with
    | some (i, _) => State.eccWrite 6 0 (cohFor i (cohRun i item) s)
    | none => s)

/-- An error in the unit's SRAM (R262): a corrected one counts; an uncorrectable one puts every branch back to its DEFAULT and drops all
island IDs. -/
def execCohSramUe (e : EccErr) (s : State) : Out :=
  .next (match e with
    | .corrected k => s.inc fCOH_ECC_CNT_CE k
    | .lost =>
      let s := post 0x51 (le 8 s.curTick ++ le 2 0) ((s.inc fCOH_ECC_CNT_UE).flag fCOH_FLT_FLAGS 6)
      s.setCoh { s.coh with run := { branches := branchInit (cohCfgOf s.img) } })

/-- What joins which nodes and how each branch is judged: of a graph without its DEFAULT states and its measurements. -/
def cohGraph (c : CohCfg) : Nat × List (Nat × Nat × Nat) := (c.nodes, c.branches.map fun b => (b.a, b.b, b.mode))

/-- The unit's state carries over a swap only when the graph, the branch modes and REF_NODE are the same (R262). Else every branch starts in
its DEFAULT and every island takes a new ID, counted on from those issued before. -/
def cohSwap (old new : Option Image) (s : State) : State :=
  let s := s.setCoh { s.coh with old := none }
  if old.isSome && cohGraph (cohCfgOf old) = cohGraph (cohCfgOf new) && imgReg old fCOH_CFG2_REF_NODE = imgReg new fCOH_CFG2_REF_NODE then s
  else s.setCoh { s.coh with run := { branches := branchInit (cohCfgOf new) }, old := some s.coh.run }

/-- Writes that latch a node's island or a branch's state (R286). -/
def cohNodeSelect (v : Nat) (s : State) : State :=
  let s := s.wr fCOH_NODE_SEL_NODE v
  s.wr fCOH_NODE_STS_ISLAND (s.coh.run.map.getD (s.rd fCOH_NODE_SEL_NODE) 0)

def cohBranchSelect (v : Nat) (s : State) : State :=
  let s := s.wr fCOH_BRANCH_SEL_BRANCH v
  let b : BranchSt := s.coh.run.branches.getD (s.rd fCOH_BRANCH_SEL_BRANCH) { opened := false }
  (((s.wrB fCOH_BRANCH_STS_DEFAULTED b.defaulted).wrB fCOH_BRANCH_STS_HELD b.held).wr fCOH_BRANCH_STS_ELEC b.elec).wr
    fCOH_BRANCH_STS_BRK b.brk |>.wrB fCOH_BRANCH_STS_STATE b.opened

end Sys2Proof.Machine
end

