-- ==== Sys2Proof/Machine/ImageCheck.lean ====
section
/-!
DEFINITION. The checks of an image (R452–R465, R391, R499): what its bytes say, each section's limits, the cross-section rules and
the proof. Each check answers the rejection code of the first failure.
-/

namespace Sys2Proof.Machine

/-- A rejection code (R499). -/
def rejCode (step sec chk : Nat) : Nat := step * 4096 + (min sec 63) * 64 + chk

/-- A check that fails with a code where `bad`. -/
def rejIf (bad : Bool) (code : Nat) : Option Nat := if bad then some code else none

/-- The first failure. -/
def firstRej (l : List (Option Nat)) : Option Nat := (l.filterMap id).head?

/-! ### Bytes (R452 to R455) -/

/-- A directory entry (R454). -/
structure Sect where
  typ : Nat
  flags : Nat
  ofs : Nat
  len : Nat
  crc : Nat
deriving DecidableEq, Repr

def imgNsec (b : Bytes) : Nat := leAt b 6 2

/-- The directory; no more than 32 entries are read. -/
def imgDir (b : Bytes) : List Sect :=
  (List.range (min (imgNsec b) 32)).map fun k =>
    let o := 64 + 16 * k
    { typ := leAt b o 2, flags := leAt b (o + 2) 2, ofs := leAt b (o + 4) 4, len := leAt b (o + 8) 4, crc := leAt b (o + 12) 4 }

def sectBody (b : Bytes) (x : Sect) : Bytes := (b.drop x.ofs).take x.len
def sectOf (b : Bytes) (t : Nat) : Option Sect := (imgDir b).find? fun x => x.typ = t

/-- The records of a section, each REC_LEN bytes, after its 16-byte header (R455). -/
def sectRecs (b : Bytes) (t : Nat) : List Bytes :=
  match sectOf b t with
  | none => []
  | some x =>
    let body := sectBody b x
    let rl := leAt body 8 4
    (List.range (min (leAt body 4 4) (body.length / max 1 rl))).map fun k => (body.drop (16 + rl * k)).take rl

/-- An operand descriptor (R195). -/
def parseOperand (v : Nat) : Option Operand :=
  match v / 2 ^ 60 with
  | 0 => some (.cells (v / 2 ^ 47 % 2 ^ 13) (v / 2 ^ 33 % 2 ^ 14) (v.testBit 32) (v.testBit 31) (v.testBit 30) (v / 2 ^ 24 % 64) (v / 2 ^ 17 % 128))
  | 1 => some (.result (v / 2 ^ 48 % 4096) (v / 2 ^ 32 % 65536) (v / 65536 % 65536))
  | 2 => some (.prev (v / 2 ^ 48 % 4096) (v / 2 ^ 32 % 65536) (v / 65536 % 65536))
  | 3 => some (.state (v % 65536))
  | 4 => some (.close (v / 2 ^ 56 % 16))
  | 5 => some (.const (v / 2 ^ 36 % 2 ^ 24) (v / 2 ^ 20 % 65536))
  | _ => none

/-- The reserved bits of a descriptor. -/
def operandReserved (v : Nat) : Nat :=
  match v / 2 ^ 60 with
  | 0 => v % 2 ^ 17
  | 1 => v % 65536
  | 2 => v % 65536
  | 3 => v / 65536 % 2 ^ 44
  | 4 => v % 2 ^ 56
  | 5 => v % 2 ^ 20
  | _ => 0

/-- The descriptors of a table entry, as words. -/
def itemOps (opw : List Nat) (w : Bytes) : List Nat := (opw.drop (leAt w 4 4 % 2 ^ 24)).take (leAt w 4 4 / 2 ^ 24)

/-- A table entry (R194). -/
def parseItem (opw : List Nat) (w : Bytes) : Item :=
  let w0 := leAt w 0 4
  { cls := w0 / 2 ^ 30, lane := w0 / 2 ^ 24 % 64, unit := w0 / 2 ^ 21 % 8, kernel := w0 / 2 ^ 13 % 256, noDefer := w0.testBit 12,
    ops := (itemOps opw w).filterMap parseOperand, resOfs := leAt w 8 4 % 2 ^ 24, resLen := leAt w 12 4 / 65536, cost := leAt w 16 4,
    p0 := leAt w 20 4, p1 := leAt w 24 4, p2 := leAt w 28 4 }

def itemReserved (w : Bytes) : Bool := leAt w 0 4 % 4096 ≠ 0 || leAt w 8 4 / 2 ^ 24 ≠ 0 || leAt w 12 4 % 65536 ≠ 0

/-- The settings of a section whose fields R456 names one by one, as the integers of its first record: 4 bytes each (R455). -/
def sectInt (b : Bytes) (t k : Nat) : Nat := leAt ((sectRecs b t).headD []) (4 * k) 4

/-- GLOBAL (R455, R456): GUARD_MAX, HORIZON, SOURCE_ID, SRC_MAC_BASE in 8 bytes (log entry 7), AGE2_US, AGE3_US, QDEPTH, AMD_SLOTS and four
vectors. -/
def readGlobal (b : Bytes) (i : Image) : Image :=
  let n := sectInt b 1
  let ages := [(fTMB_AGE_CFG_AGE2_US.key, n 5), (fTMB_AGE_CFG_AGE3_US.key, n 6)]
  { i with guardMax := n 0, horizon := n 1, sourceId := n 2, srcMac := leAt ((sectRecs b 1).headD []) 12 8, qdepth := n 7, amdSlots := n 8,
           alm := { i.alm with vecs := (List.range 4).map fun c => n (9 + c) },
           regs := ages ++ i.regs.filter fun r => ages.all fun a => a.1 ≠ r.1 }

/-- PAIR: ALONE_OK, RECOVER_S, WAIT_S, RETRIES, COPY_MS, KEY_ID; its presence pairs the module. -/
def readPair (b : Bytes) (i : Image) : Image :=
  let n := sectInt b 0x14
  let fs := [(fPAIR_CFG_ALONE_OK.key, n 0), (fPAIR_CFG_RECOVER_S.key, n 1), (fPAIR_CFG_WAIT_S.key, n 2), (fPAIR_CFG_RETRIES.key, n 3),
             (fPAIR_CFG2_COPY_MS.key, n 4)]
  let rest := i.regs.filter fun r => fs.all fun a => a.1 ≠ r.1
  if (sectOf b 0x14).isNone then { i with pair := none, regs := rest } else { i with pair := some { keyId := n 5 }, regs := fs ++ rest }

/-- PROOF: g0_span, pio_span, the list of the frame bounds of the class-0 ports in ascending order, and the schedule span. -/
def readProof (b : Bytes) (ports : List Nat) (i : Image) : Image :=
  let n := sectInt b 0x0B
  let k := min (n 2) 64
  { i with proof := { g0Span := n 0, pioSpan := n 1, bounds := ports.zip ((List.range k).map fun j => n (3 + j)), span := n (3 + k) } }

/-- An optional section that is absent leaves its function unused (R456). -/
def readAbsent (b : Bytes) (i : Image) : Image :=
  let has (t : Nat) : Bool := (sectOf b t).isSome
  let blocks := [(0x0C, 0x07), (0x0D, 0x08), (0x0E, 0x09), (0x0F, 0x0A), (0x10, 0x0B), (0x11, 0x0C), (0x12, 0x10)]
  { i with regs := i.regs.filter fun r => blocks.all fun x => has x.1 || r.1 / 32 / 0x10000 ≠ x.2,
           streams := if has 6 then i.streams else [], bindings := if has 6 then i.bindings else [], tcp := if has 6 then i.tcp else [],
           groups := if has 7 then i.groups else [], spec := if has 0x0C then i.spec else {}, coh := if has 0x0D then i.coh else {},
           alm := if has 0x0E then i.alm else { vecs := i.alm.vecs }, acc := if has 0x0F then i.acc else {}, outs := if has 0x10 then i.outs else [],
           snare := if has 0x11 then i.snare else [], snareNandMib := if has 0x11 then i.snareNandMib else 0, local_ := has 0x12 }

/-- The sections that R458, R461, R463, R464, R194 and R195 lay out byte by byte, and the header (R453). -/
def readLaid (b : Bytes) (i : Image) : Image :=
  let opw := (sectRecs b 9).map fun r => leAt r 0 8
  { i with
    svn := leAt b 12 1, rateCode := leAt b 13 1, minRomlvl := leAt b 14 1, variant := leAt b 15 1, buildId := leAt b 16 8,
    hold := (leAt b 24 4).testBit 0, digest := Config.sha256 ((b.take (b.length - 64)).map fun x => x.toNat),
    owners := (sectRecs b 2).map fun r => { kind := leAt r 0 1, index := leAt r 1 1, owner := leAt r 2 1, ownerIndex := leAt r 3 1 },
    partitions := (sectRecs b 3).map fun r => { id := leAt r 0 1, base := leAt r 4 4, size := leAt r 8 4 },
    crossing := (sectRecs b 4).map fun r => leAt r 0 1,
    items := (sectRecs b 8).map (parseItem opw), consts := (sectRecs b 10).flatten,
    counters := (sectRecs b 0x13).map fun r =>
      { event := leAt r 0 4 % 1024, port := (leAt r 0 4).testBit 10, chain := (leAt r 0 4).testBit 11 } }

/-- Class-0 alarm destinations and GOOSE blocks. -/
def destClass0 (i : Image) (d : Nat) : Bool := i.alm.alarms.any fun a => a.cls = 0 && a.dests.testBit d
def gooseCls (i : Image) (g : GooseCfg) : Nat :=
  match g.members with
  | m :: _ => (i.alm.alarms[m.1]?.map fun a => a.cls).getD 0
  | [] => 0

/-- The port carries a class-0 destination. -/
def class0Port (i : Image) (p : Nat) : Bool :=
  (i.alm.dests.zipIdx.any fun d => d.1.port = p && destClass0 i d.2) || i.alm.goose.any fun g => g.port = p && gooseCls i g = 0

/-- The image its bytes and the typed settings of its other sections make (log entry 7). -/
def readImage (b : Bytes) (i : Image) : Image :=
  let i := readPair b (readGlobal b (readAbsent b (readLaid b i)))
  readProof b ((List.range 64).filter (class0Port i)) i

/-! ### Steps 1 to 4 -/

/-- A type this ROM level knows (R456). -/
def knownSect (t : Nat) : Bool := 1 ≤ t && t ≤ 0x14

/-- Step 1: the header and the directory (R453, R454). -/
def checkHeader (b : Bytes) : Option Nat :=
  let dir := imgDir b
  let top := 64 + 16 * imgNsec b
  let misplaced (x : Sect) (k : Nat) : Bool :=
    x.ofs % 64 ≠ 0 || x.ofs < top || x.ofs + x.len > b.length - 64 ||
      (dir.zipIdx.any fun y => y.2 < k && x.ofs < y.1.ofs + y.1.len && y.1.ofs < x.ofs + x.len)
  firstRej ([rejIf (leAt b 0 4 ≠ 0xD0B71A6E) (rejCode 1 0 1), rejIf (leAt b 4 2 ≠ 1) (rejCode 1 0 2),
    rejIf (imgNsec b < 1 || imgNsec b > 32) (rejCode 1 0 3),
    rejIf (leAt b 8 4 ≠ b.length || b.length % 4 ≠ 0 || b.length > 96 * 2 ^ 20 || b.length < 128) (rejCode 1 0 4),
    rejIf (leAt b 13 1 > 11) (rejCode 1 0 5),
    rejIf (leAt b 24 4 / 2 ≠ 0 || leAt b 28 36 ≠ 0 || dir.any fun x => x.flags / 2 ≠ 0) (rejCode 1 0 6)] ++
    (dir.zipIdx.map fun x => rejIf (misplaced x.1 x.2) (rejCode 1 x.1.typ 7)) ++
    (dir.zipIdx.map fun x => rejIf (dir.zipIdx.any fun y => y.2 < x.2 && y.1.typ = x.1.typ) (rejCode 1 x.1.typ 8)) ++
    (dir.map fun x => rejIf (!knownSect x.typ && x.flags.testBit 0) (rejCode 1 x.typ 9)))

/-- Step 2: the signature and the security version (R391). -/
def checkSigned (s : State) (b : Bytes) : Option Nat :=
  let n (x : Bytes) : List Nat := x.map fun y => y.toNat
  firstRej [rejIf (!Config.ecdsaOk (n (b.take (b.length - 64))) (n (b.drop (b.length - 64)))) (rejCode 2 0 1),
    rejIf (leAt b 12 1 < s.rd fBUR_SVN_STS_SVN_MIN) (rejCode 2 0 2)]

/-- Step 3: every body's CRC. -/
def checkCrcs (b : Bytes) : Option Nat :=
  firstRej ((imgDir b).map fun x => rejIf (crc32c (sectBody b x) ≠ x.crc) (rejCode 3 x.typ 1))

/-- Step 4: the variant and the ROM level. -/
def checkLevel (s : State) (i : Image) : Option Nat :=
  firstRej [rejIf (i.variant > 2 || (i.variant ≠ 0 && i.variant ≠ s.rd fSYS_ID_STS_VARIANT)) (rejCode 4 0 1),
    rejIf (i.minRomlvl > s.rd fSYS_ID_STS_ROMLVL) (rejCode 4 0 2)]

/-! ### Step 5: each section -/

/-- Whole tick period in ns, rounded down. -/
def imgT (i : Image) : Nat := 1000000000 / rateOfCode i.rateCode

/-- Lengths the spec fixes: REC_LEN of the sections with a layout of their own. -/
def recLenOf (t : Nat) : Option Nat :=
  match t with
  | 0x02 => some 4 | 0x03 => some 16 | 0x04 => some 1 | 0x08 => some 32 | 0x09 => some 8 | 0x0A => some 64 | 0x13 => some 4
  | _ => none

/-- The header of a section's body (R455). -/
def checkSectHead (b : Bytes) (x : Sect) : Option Nat :=
  let body := sectBody b x
  let rl := leAt body 8 4
  firstRej [rejIf (x.len < 16 || leAt body 0 2 ≠ x.typ || leAt body 2 2 ≠ 1) (rejCode 5 x.typ 4),
    rejIf (match recLenOf x.typ with | some n => rl ≠ n | none => rl % 4 ≠ 0) (rejCode 5 x.typ 4),
    rejIf (leAt body 12 4 ≠ 0) (rejCode 5 x.typ 3),
    rejIf (16 + rl * leAt body 4 4 > x.len) (rejCode 5 x.typ 1)]

/-- Required sections (R456). -/
def requiredSects : List Nat := [0x01, 0x02, 0x03, 0x04, 0x05, 0x08, 0x0B, 0x13]

def checkGlobal (i : Image) : Option Nat :=
  let c := rejCode 5 0x01
  firstRej [rejIf (i.guardMax < 2 || i.guardMax > 100 || i.horizon < 1 || i.horizon > 32 || i.amdSlots > 4) (c 2)]

/-- OWNER codes allowed (R458). -/
def ownerOk (o : Owner) : Bool :=
  match o.kind with
  | 0 => o.index < 16 && 1 ≤ o.owner && o.owner ≤ 6 && ((o.owner ≠ 3 && o.owner ≠ 5) || o.ownerIndex < 8) && (o.owner ≠ 6 || o.ownerIndex < 16)
  | 1 => o.index < 8 && o.owner = 5 && o.ownerIndex = o.index
  | 2 => o.index < 16 && o.owner = 6 && o.ownerIndex = o.index
  | 3 => o.index < 64 && o.owner = 1
  | _ => false

def checkOwnership (i : Image) : Option Nat := rejIf (!i.owners.all ownerOk) (rejCode 5 0x02 2)

def checkPartSect (b : Bytes) : Option Nat :=
  rejIf ((sectRecs b 3).any fun r => leAt r 1 3 ≠ 0 || leAt r 12 4 ≠ 0) (rejCode 5 0x03 3)

/-- R463: 16 records; classes 10 to 15 are not defined (R525). -/
def checkCrossing (i : Image) : Option Nat :=
  firstRej [rejIf (i.crossing.length ≠ 16) (rejCode 5 0x04 1),
    rejIf (i.crossing.zipIdx.any fun x => x.1 > 1 || (x.1 = 1 && x.2 ≥ 10)) (rejCode 5 0x04 2)]

def portUsed (i : Image) (p : Nat) : Bool := ((i.ports[p]?.map fun c => c.mode) ).getD 0 ≠ 0

def checkPorts (i : Image) : Option Nat :=
  firstRej [rejIf (i.ports.length > 64) (rejCode 5 0x05 1),
    rejIf (i.ports.zipIdx.any fun p => p.1.mode > 4 || p.1.dup > 3 || (class0Port i p.2 && (p.1.g0TxMax < 64 || p.1.g0TxMax > 9216))) (rejCode 5 0x05 2)]

/-- OFFSET_NS stays below one input period of the slot's stream (R171). -/
def offsetOk (i : Image) (b : Binding) : Bool :=
  match (i.streams[b.stream]?).bind fun x => x.cfg with
  | some c => b.offsetNs.natAbs * max 1 c.dataRate.toNat < 1000000000
  | none => true

/-- The rate of a slot's stream as the image compiles it; the base rate where it gives none. -/
def imgRate (i : Image) (b : Binding) : Nat :=
  (((i.streams[b.stream]?).bind fun x => x.cfg).bind cfgRate).getD (rateOfCode i.rateCode)

/-- The slot is resampled at its image rate (R168, R170). -/
def imgResampled (i : Image) (b : Binding) : Bool := resampledAt b (imgRate i b) (rateOfCode i.rateCode)

def checkStreams (i : Image) : Option Nat :=
  let tcpSlots := (i.bindings.filter fun b => b.tcp.isSome).length
  firstRej [rejIf (i.bindings.any fun b => !offsetOk i b) (rejCode 5 0x06 2), rejIf (i.bindings.length > 8192 || i.tcp.length > 256 || tcpSlots > 1024) (rejCode 5 0x06 1),
    rejIf (i.bindings.any fun b => b.slot ≥ 8192 || b.group ≥ 16 || b.nph > 64 || b.nan > 16 || b.ndg > 16) (rejCode 5 0x06 2),
    rejIf (i.bindings.any fun b => (groupOf (some i) b.group).policy = 0 || (match b.tcp with | some c => c ≥ i.tcp.length | none => false)) (rejCode 5 0x06 5),
    rejIf (i.tcp.any fun t => !portUsed i t.port) (rejCode 5 0x06 5)]

/-- The longest window a group may have under R166. -/
def columnLimit (i : Image) : Nat :=
  let r := rateOfCode i.rateCode
  min ((64 - i.horizon) * 1000000000 / r - 5000000) (60 * 1000000000 / r)

/-- The group's longest window, as PGH_GRP_LIM_STS gives it. -/
def groupMax (i : Image) (c : GroupCfg) : Nat :=
  match c.policy with
  | 1 => c.wFixed
  | 4 => c.f * 1000000000 / rateOfCode i.rateCode
  | _ => c.wMax

def groupMin (i : Image) (c : GroupCfg) : Nat := if c.policy = 1 || c.policy = 4 then groupMax i c else c.wMin

def groupRangesOk (i : Image) (c : GroupCfg) : Bool :=
  let t := imgT i
  match c.policy with
  | 0 => true
  | 1 => 50000 ≤ c.wFixed && c.wFixed ≤ t
  | 4 => 1 ≤ c.f && c.f ≤ 60
  | 2 | 3 =>
    c.wMin ≤ c.wInit && c.wInit ≤ c.wMax && 50000 ≤ c.wMin && c.wMin ≤ c.wMax && c.marginUs ≤ 65535 && c.quant ≤ 3 &&
      6 ≤ c.alpha && c.alpha ≤ 16 && 2 ≤ c.kappa && c.kappa ≤ 8 && 10 ≤ c.alphaM && c.alphaM ≤ 20 &&
      1000 ≤ c.dFloor && c.dFloor ≤ 1000000 && 1000 ≤ c.fallStep && c.fallStep ≤ t / 8 && 1 ≤ c.activeS && c.activeS ≤ 255
  | _ => false

/-- R162, R166, and the resampler's and the local record's bounds (R176, R438) of the group. -/
def checkGroups (i : Image) : Option Nat :=
  firstRej [rejIf (i.groups.length > 16) (rejCode 5 0x07 1),
    rejIf (i.groups.any fun c => !groupRangesOk i c || c.latePath > 2) (rejCode 5 0x07 2),
    rejIf (i.groups.any fun c => c.policy ≠ 0 && groupMax i c > columnLimit i) (rejCode 5 0x07 7)]

/-- A descriptor stays inside its section, slot range, allocation and producer. -/
def opInside (i : Image) (o : Operand) : Bool :=
  let res (p ofs len : Nat) : Bool := match i.items[p]? with
    | some q => ofs < q.resLen && ofs + len ≤ q.resLen
    | none => false
  match o with
  | .cells f n _ _ _ pf pn => 1 ≤ n && f + n ≤ 8192 && pn ≤ 64 && (List.range n).all fun k => (pn = 0 || pf + pn ≤ (allocOf i (f + k)).1)
  | .result p ofs len => res p ofs len
  | .prev p ofs len => res p ofs len
  | .state len => 1 ≤ len && len ≤ 448
  | .close _ => true
  | .const ofs len => 64 * (ofs + len) ≤ i.consts.length

/-- The largest frame of a C37.118 stream at a destination, in bytes on the wire, FCS included (R315). -/
def outFrameMax (o : OutStream) (d : OutDest) : Nat :=
  let payload := 16 + (o.blocks.map fun b => 2 + blockBytes o.dfmt b).sum
  max 64 (14 + (if d.tag.isSome then 4 else 0) + (if isV4 d.addr then 20 else 40) + 8 + payload + (if d.prp then 6 else 0) + 4)

/-- COMPOSE's cost for a stream (R316). -/
def composeCost (o : OutStream) : Nat :=
  1200 + (o.dests.map fun d => (1 + (if d.portB.isSome then 1 else 0)) * (300 + (outFrameMax o d + 7) / 8)).sum

/-- The stream of a packing item (its E), and COMPOSE's cost for it. -/
def packCost (i : Image) (p : Nat) : Nat :=
  match (i.items[p]?.bind fun x => i.outs[x.p2 % 65536]?) with
  | some o => composeCost o
  | none => 0

/-- The least COST of an item (R219, R225, R257, R316, the accounting chapter). -/
def leastCost (i : Image) (it : Item) : Nat :=
  match it.unit, it.kernel with
  | 0, _ => kernelCost it
  | 1, 1 => 2000 + i.spec.sigs.length * i.spec.bins.length
  | 1, _ => 13000 + 16 * i.spec.branches.length * i.spec.targets.length
  | 2, _ => 180000 + 40 * (i.spec.trk.map fun t => t.m).getD 0
  | 3, _ => 2000 + ceilDiv (3 * (i.coh.nodes + i.coh.branches.length)) 4
  | 5, 1 => match producers it with | p :: _ => packCost i p | [] => 0
  | 5, _ => 800 + ((producers it).map (packCost i)).sum
  | 4, _ => 4000 + 2 * (i.acc.cuts.map fun c => c.terms.length).sum + 30 * i.acc.cuts.length + 25 * i.acc.branches.length
  | _, _ => 0

/-- A kernel id of the library (R219), or a function code of R208. -/
def kernelKnown (it : Item) : Bool :=
  match it.unit with
  | 0 => kernelCost it ≠ 0 || it.kernel = 0x3F
  | 1 => it.kernel = 1 || it.kernel = 2
  | 2 => it.kernel = 1
  | 3 => it.kernel = 1
  | 4 => it.kernel = 1
  | 5 => it.kernel = 1 || it.kernel = 2
  | _ => false

/-- Parameter ranges that the library states. Engine items take their parameters from their sections (R225, R316). -/
def paramsOk (it : Item) : Bool :=
  let n := it.p0 % 65536
  let k := it.p1 % 65536
  let b := it.p1 / 65536
  if it.unit ≠ 0 then it.p0 = 0 && it.p1 = 0 && it.p2 = 0
  else
    match it.kernel with
    | 0x12 => k ≤ 32
    | 0x18 => n ≤ 16
    | 0x1C => n ≤ 4096 && k ≤ 64
    | 0x28 => 1 ≤ it.p2 / 65536 && it.p2 / 65536 ≤ 64
    | 0x20 => k ≤ 2
    | 0x2A => it.p2 % 65536 ≤ 32
    | 0x30 => 1 ≤ it.p0 / 65536 && it.p0 / 65536 ≤ 3 && 10 ≤ k
    | 0x31 => 10 ≤ k
    | 0x32 => 1 ≤ b && b ≤ 1024
    | 0x33 => 1 ≤ b && b ≤ 1024 && (k = 1 || k = 3)
    | 0x34 => (k = 1 || k = 3) && 10 ≤ it.p2 % 65536
    | 0x38 => k ≤ 64
    | 0x39 => n ≤ 1024
    | 0x3A => n ≤ 1024
    | 0x3D => n ≤ 1024
    | _ => true

/-- Rule 2 of R218. -/
def laneOk (it : Item) : Bool :=
  if it.unit ≠ 0 then it.lane = 0x3F
  else if it.cls = 0 then it.lane < 4
  else it.lane = 0x3F || (4 ≤ it.lane && it.lane < 32)

/-- Rules 1 to 9 of R218, in order. -/
def checkTable (b : Bytes) (i : Image) : Option Nat :=
  let c (k : Nat) : Nat := rejCode 5 0x08 (16 + k)
  let opw := (sectRecs b 9).map fun r => leAt r 0 8
  let raws := sectRecs b 8
  let coh := i.items.filter fun it => it.unit = 3
  let cls (p : Nat) : Nat := (i.items[p]?.map fun x => x.cls).getD 0
  let ends := i.items.map fun it => (it.resOfs, it.resOfs + it.resLen)
  let part := ((i.partitions.find? fun p => p.id = 2).map fun p => p.size).getD 0
  firstRej [
    rejIf (i.items.length > 4096 || raws.any itemReserved || opw.any fun v => operandReserved v ≠ 0) (c 1),
    rejIf (!i.items.all laneOk) (c 2),
    rejIf ((i.items.any fun it => it.cls = 0 && it.unit ≠ 0 && it.unit ≠ 3) || ((coh.any fun it => it.cls = 0) && coh.any fun it => it.cls ≠ 0)) (c 3),
    rejIf (!i.items.all fun it => kernelKnown it && paramsOk it) (c 4),
    rejIf (!i.items.all fun it => it.cost ≥ leastCost i it) (c 5),
    rejIf ((raws.any fun w => leAt w 4 4 / 2 ^ 24 > 64 || leAt w 4 4 % 2 ^ 24 + leAt w 4 4 / 2 ^ 24 > opw.length) ||
      (raws.any fun w => (itemOps opw w).any fun v => (parseOperand v).isNone) ||
      i.items.any fun it => it.resLen < 1 || it.resLen > 448 || !(it.ops.all (opInside i)) || (it.unit = 0 && fetchBytes i it + 64 * it.resLen > 28672)) (c 6),
    rejIf (i.items.zipIdx.any fun it => (producers it.1).any fun p => p ≥ it.2) (c 7),
    rejIf (i.items.any fun it => it.cls = 0 && (producers it).any fun p => cls p ≠ 0) (c 8),
    rejIf ((ends.zipIdx.any fun x => ends.zipIdx.any fun y => y.2 < x.2 && x.1.1 < y.1.2 && y.1.1 < x.1.2) ||
      (ends.any fun x => 2 * 64 * x.2 > part * 2 ^ 20)) (c 9)]

/-- An FP32 field lies in a range whose ends are rounded to FP32. -/
def f32In (x : Nat) (lo hi : Q) : Bool := f32Finite x && f32Le (f32OfQ lo) x && f32Le x (f32OfQ hi)

/-- A bin's limits (R230). -/
def binOk (r : Nat) (x : SpecBin) : Bool :=
  f32In x.f ⟨1, 100⟩ ⟨45 * r, 100⟩ && f32In x.bw ⟨5, 10000⟩ ⟨1, 1⟩ && ((f32Q x.bw).mul ⟨4, 1⟩).le (f32Q x.f)

/-- The tracker's limits (R237 to R243). -/
def trkOk (r : Nat) (t : TrkCfg) : Bool :=
  1 ≤ t.m && t.m ≤ 1024 && 1 ≤ t.dec && t.dec ≤ 16 && 10 * t.dec ≤ r && r ≤ 60 * t.dec && 30 ≤ t.tMem && t.tMem ≤ 1200 &&
    1 ≤ t.eval && t.eval ≤ 16 && 1 ≤ t.gapS && t.gapS ≤ 60 && 1 ≤ t.modesMax && t.modesMax ≤ 32 &&
    f32In t.matchHz ⟨5, 1000⟩ ⟨1, 2⟩ && f32In t.foNear ⟨1, 100⟩ ⟨1, 1⟩

/-- What an operand of an engine item is: 0 the data of the lane kernel `prep` (any lane kernel with `prep` 0), 1 SDFT_UPDATE's result, 2 the
previous MODE_TRACK's; others are 3. -/
def specOperand (i : Image) (prep : Nat) (o : Operand) : Nat :=
  let is (p u k : Nat) : Bool := match i.items[p]? with | some x => x.unit = u && (x.kernel = k || (u = 0 && k = 0)) | none => false
  match o with
  | .result p _ _ => if is p 1 1 then 1 else if is p 0 prep then 0 else 3
  | .prev p _ _ => if is p 2 1 then 2 else 3
  | _ => 3

/-- Elements that an operand gives. -/
def operandWords (i : Image) (o : Operand) : Nat :=
  let of_ (p ofs len : Nat) : Nat := match i.items[p]? with
    | some x => match noResult ofs len x with | .block b => b.words.length | .cells _ _ _ _ _ _ => 0
    | none => 0
  match o with
  | .result p ofs len => of_ p ofs len
  | .prev p ofs len => of_ p ofs len
  | _ => 0

/-- Operands in the order of R225's table: data that give at least `want` elements, then those of `opt` that are there. -/
def specOpsOk (i : Image) (prep want : Nat) (opt : List Nat) (it : Item) : Bool :=
  let kinds := it.ops.map (specOperand i prep)
  let data := it.ops.filter fun o => specOperand i prep o = 0
  let rest := kinds.drop data.length
  (kinds.take data.length).all (fun k => k = 0) && rest = opt.filter rest.contains && (data.map (operandWords i)).sum ≥ want

/-- R225's rules for the three items. -/
def specItemOk (i : Image) (it : Item) : Bool :=
  let sp := i.spec
  match it.unit, it.kernel with
  | 1, 1 => it.resLen ≥ ceilDiv (1056 + 16 * sp.bins.length) 64 && specOpsOk i 0 sp.sigs.length [] it &&
      sp.sigs.all fun g => g.src < (it.ops.map (operandWords i)).sum
  | 1, 2 => it.resLen ≥ 10 && specOpsOk i 0x34 (4 * sp.branches.length) [1, 2] it
  | 2, 1 => match sp.trk with
    | some t => it.resLen ≥ 33 && specOpsOk i 0x31 t.m [1] it
    | none => false
  | _, _ => true

/-- A register field's value as the image sets it. -/
def imgField (i : Image) (f : Fld) : Nat := ((i.regs.find? fun r => r.1 = f.key).map fun r => r.2).getD f.rst

/-- A register's word as the image sets it. -/
def imgWord (i : Image) (off : Nat) : Nat := (fieldsAt off).foldl (fun w d => w + imgField i (fieldAt off d) * 2 ^ d.lo) 0

/-- Limits of the spectral section (R225, R229 to R233, R237 to R246). -/
def checkSpectral (i : Image) : Option Nat :=
  let sp := i.spec
  let r := rateOfCode i.rateCode
  let count (u k : Nat) : Nat := (i.items.filter fun it => it.unit = u && it.kernel = k).length
  let rising := (List.zip sp.bins (sp.bins.drop 1)).all fun x => f32Lt x.1.f x.2.f
  let bandsMeet := sp.bands.zipIdx.any fun x => sp.bands.zipIdx.any fun y =>
    y.2 < x.2 && x.1.first < y.1.first + y.1.count && y.1.first < x.1.first + x.1.count
  let targetBad (t : DefTarget) : Bool := match t with | .band b => b ≥ sp.bands.length | _ => false
  firstRej [rejIf (sp.sigs.length > 4096 || sp.bins.length > 256 || sp.bands.length > 16 || sp.branches.length > 1024 || sp.targets.length > 4) (rejCode 5 0x0C 1),
    rejIf ((sp.trk.isSome && !(trkWordOk (imgWord i rSPEC_TRK_CFG) && trk2WordOk (imgWord i rSPEC_TRK_CFG2))) || !sp.bins.all (binOk r) || sp.gap < 1 || sp.gap > 65535 || (match sp.trk with | some t => !trkOk r t | none => false) ||
      (!sp.branches.isEmpty && !f32In sp.defBw ⟨5, 1000⟩ ⟨1, 2⟩) || (sp.branches.any fun b => b.node > 8191 || b.far > 8191) ||
      (sp.sigs.any fun g => g.kind > 4) || sp.targets.any fun t => match t with | .mode j => j < 1 | _ => false) (rejCode 5 0x0C 2),
    rejIf ((sp.bands.any fun x => x.count < 1 || x.first + x.count > sp.bins.length) || sp.targets.any targetBad) (rejCode 5 0x0C 5),
    rejIf (count 1 1 > 1 || count 1 2 > 1 || count 2 1 > 1 || !rising || bandsMeet || !i.items.all (specItemOk i)) (rejCode 5 0x0C 7)]

/-- The bytes of an item's CONST operands. -/
def itemConsts (i : Image) (it : Item) : Bytes :=
  (it.ops.filterMap fun o => match o with | .const ofs len => some ((i.consts.drop (64 * ofs)).take (64 * len)) | _ => none).flatten

/-- The branches whose evidence a COH_PREP operand holds: E and B (R255). -/
def cohPrepOf (i : Image) (o : Operand) : Option (Nat × Nat) :=
  match o with
  | .result p _ _ => match i.items[p]? with
    | some x => if x.unit = 0 && x.kernel = 0x32 then some (x.p2 % 65536, x.p1 / 65536) else none
    | none => none
  | _ => none

/-- COMPONENTS' operands (R257): COH_PREP results in branch order that cover every branch, then the RESULT with the node measurement vector; and
its smallest RES_LEN. -/
def componentsOk (i : Image) (it : Item) : Bool :=
  let c := i.coh
  let preps := it.ops.dropLast.map (cohPrepOf i)
  let upTo := preps.foldl (fun m x => match m, x with
    | some a, some (e, b) => if e = a then some (a + b) else none
    | _, _ => none) (some 0)
  let meas := match it.ops.getLast? with
    | some (.result p _ _) => (cohPrepOf i (.result p 0 0)).isNone
    | _ => false
  let need := c.meas.foldl (fun m x => match x with | some k => max m (2 * k + 2) | none => m) 0
  it.resLen ≥ 169 && upTo = some c.branches.length && meas && (it.ops.getLast?.map (operandWords i)).getD 0 ≥ need

/-- COH_PREP (R255): its branches are of the graph and its CONST block holds their records. -/
def cohPrepOk (i : Image) (it : Item) : Bool :=
  it.p2 % 65536 + it.p1 / 65536 ≤ i.coh.branches.length && (itemConsts i it).length ≥ 16 + 16 * (it.p1 / 65536)

/-- R254, R255, R257, R286. -/
def checkCoherency (i : Image) : Option Nat :=
  let c := i.coh
  let ref := imgField i fCOH_CFG2_REF_NODE
  firstRej [rejIf (c.nodes > 8192 || c.branches.length > 32768) (rejCode 5 0x0D 1),
    rejIf ((c.branches.any fun x => x.mode > 3) || imgField i fCOH_SPREAD_CFG_PICKUP = 0 ||
      !(f32Finite (imgField i fCOH_SPREAD_THR_THR) && f32Lt 0 (imgField i fCOH_SPREAD_THR_THR))) (rejCode 5 0x0D 2),
    rejIf ((c.branches.any fun x => x.a ≥ c.nodes || x.b ≥ c.nodes) || (c.nodes ≠ 0 && ref ≥ c.nodes)) (rejCode 5 0x0D 5),
    rejIf ((c.branches.any fun x => x.a = x.b) || i.items.any fun it =>
      (it.unit = 3 && !componentsOk i it) || (it.unit = 0 && it.kernel = 0x32 && !cohPrepOk i it)) (rejCode 5 0x0D 7)]

/-- The alarm IDs that an ALM_POST item lists in its CONST block. -/
def listedAlarms (i : Image) (it : Item) : List Nat :=
  (List.range (min (it.p2 / 65536) 64)).map fun k => leAt (itemConsts i it) (2 * k) 2

/-- Detector instances of the image (R263). -/
def detectorCount (i : Image) : Nat :=
  ((i.items.filter fun it => it.unit = 0 && 0x20 ≤ it.kernel && it.kernel ≤ 0x27).map fun it => it.p0 % 65536).sum

/-- The limits of a control block (R279). -/
def gooseOk (g : GooseCfg) : Bool :=
  g.members.length ≤ 64 && g.gocb.length ≤ 64 && g.datSet.length ≤ 64 && g.goId.length ≤ 64 && g.appid ≤ 0x3FFF &&
    0x010CCD010000 ≤ g.dst && g.dst ≤ 0x010CCD0101FF && 1 ≤ g.t1 && g.t1 ≤ 16 && 100 ≤ g.t0 && g.t0 ≤ 60000

/-- An alarm's source is a bit at a byte offset within one RESULT operand of the item that lists it (R269). -/
def almSourceOk (i : Image) (it : Item) (c : AlarmCfg) : Bool :=
  match it.ops[c.op]? with
  | some (.result p ofs len) => c.bit < 8 && c.ofs < 64 * (if len = 0 then (i.items[p]?.map fun x => x.resLen).getD 0 - ofs else len)
  | _ => false

/-- R263, R269, R274, R278, R279, R280, R373. -/
def checkAlarms (i : Image) : Option Nat :=
  let a := i.alm
  let posts := i.items.filter fun it => it.unit = 0 && it.kernel = 0x28
  let once (k : Nat) (c : AlarmCfg) : Bool :=
    (posts.map fun it => ((listedAlarms i it).filter fun x => x = k).length).sum = 1 &&
      posts.any fun it => it.cls = c.cls && (listedAlarms i it).contains k
  let sourced (it : Item) : Bool := 2 * (it.p2 / 65536) ≤ (itemConsts i it).length &&
    (listedAlarms i it).all fun k => match a.alarms[k]? with | some c => almSourceOk i it c | none => false
  let members (k : Nat) : Nat := (a.goose.map fun g => (g.members.filter fun m => m.1 = k).length).sum
  let load (d cls : Nat) (c : AlmDest) : Nat := (a.alarms.filter fun x => x.cls = cls && x.dests.testBit d).length * (1 + c.rpt)
  firstRej [rejIf (a.alarms.length > 1024 || a.dests.length > 8 || a.goose.length > 16 || detectorCount i > 2048) (rejCode 5 0x0E 1),
    rejIf (a.alarms.any fun c => c.cls > 3 || c.subject ≥ 65536) (rejCode 5 0x0E 2),
    rejIf ((a.dests.any fun d => d.rpt > 3 || d.hbS > 60 || d.dscp > 63) || !a.goose.all gooseOk) (rejCode 5 0x0E 2),
    rejIf ((a.dests.any fun d => !portUsed i d.port) || (a.goose.any fun g => g.members.any fun m => m.1 ≥ a.alarms.length) ||
      a.alarms.any fun c => c.dests ≥ 2 ^ a.dests.length) (rejCode 5 0x0E 5),
    rejIf ((a.alarms.any fun c => c.event < 0xC0) || !(a.alarms.zipIdx.all fun c => once c.2 c.1) || !posts.all sourced ||
      (List.range a.alarms.length).any fun k => members k > 1) (rejCode 5 0x0E 7),
    rejIf (a.dests.zipIdx.any fun d => (List.range 4).any fun cls => load d.2 cls d.1 > 256) (rejCode 5 0x0E 7),
    rejIf (a.goose.any fun g => g.members.any fun m => (a.alarms[m.1]?.map fun c => c.cls) ≠ some (gooseCls i g)) (rejCode 5 0x0E 7)]

/-- The branches that the ACC_PREP items give, in item order: V slot and phasor, I slot and phasor, K (R290). -/
def accPrepBranches (i : Image) : List AccBranch :=
  ((i.items.filter fun it => it.unit = 0 && it.kernel = 0x33).map fun it =>
    let k := it.p1 % 65536
    let cells := (it.ops.map fun o => match o with
      | .cells f n _ _ _ pf pn => ((List.range n).map fun x => (List.range pn).map fun y => (f + x, pf + y)).flatten
      | _ => []).flatten
    (List.range (it.p1 / 65536)).filterMap fun b =>
      match cells[2 * b]?, cells[2 * b + 1]? with
      | some v, some c => some ({ vSlot := v.1, vPh := v.2, iSlot := c.1, iPh := c.2, k := k } : AccBranch)
      | _, _ => none).flatten

/-- INTEGRATE (R292): its operands are the RESULT blocks of every ACC_PREP item, in item order; and its smallest RES_LEN. -/
def integrateOk (i : Image) (it : Item) : Bool :=
  let preps := (i.items.zipIdx.filter fun x => x.1.unit = 0 && x.1.kernel = 0x33).map fun x => x.2
  it.ops.map (fun o => match o with | .result p _ _ => some p | _ => none) = preps.map some &&
    it.resLen ≥ ceilDiv (32 + 16 * i.acc.cuts.length) 64

/-- R289, R290, R292, R307. -/
def checkAccounting (i : Image) : Option Nat :=
  let a := i.acc
  let dup (c : CutSet) : Bool := c.terms.zipIdx.any fun x => c.terms.zipIdx.any fun y => y.2 < x.2 && x.1.1 = y.1.1
  firstRej [rejIf (a.branches.length > 8192 || a.cuts.length > 512 || a.pulses.length > 8 || (a.cuts.map fun c => c.terms.length).sum > 65536 ||
      a.cuts.any fun c => c.terms.length < 1 || c.terms.length > 128) (rejCode 5 0x0F 1),
    rejIf (a.pulses.any fun p => p.weight < 1 || p.weight ≥ 2 ^ 32 || p.reg > 3) (rejCode 5 0x0F 2),
    rejIf ((a.cuts.any fun c => c.terms.any fun t => t.1 ≥ a.branches.length) || a.pulses.any fun p => p.cut ≥ a.cuts.length) (rejCode 5 0x0F 5),
    rejIf ((a.cuts.any dup) || accPrepBranches i ≠ a.branches ||
      ((i.items.filter fun it => it.unit = 0 && it.kernel = 0x33).map fun it => it.p1 / 65536).sum ≠ a.branches.length ||
      (i.items.filter fun it => it.unit = 4).length > 1 || i.items.any fun it => it.unit = 4 && !integrateOk i it) (rejCode 5 0x0F 7)]

/-- R313, R315. -/
def checkOutputs (i : Image) : Option Nat :=
  let r := rateOfCode i.rateCode
  let phs (o : OutStream) : Nat := (o.blocks.map fun b => b.nph).sum
  let filtered (o : OutStream) : Bool := o.decim = 2 && o.rate ≠ r
  let noAmend (o : OutStream) : Bool := o.format = 1 || filtered o || o.blocks.any fun b => b.slot.isNone
  let bad (o : OutStream) : Bool :=
    phs o > 2048 || o.rate = 0 || r % max 1 o.rate ≠ 0 ||
      (o.format ≠ 2 && o.dests.any fun d => outFrameMax o d > d.mtu + 14 + (if d.tag.isSome then 4 else 0) + (if d.prp then 6 else 0) + 4) ||
      ((o.dests.any fun d => d.amend) && noAmend o) || (o.rawAmend && (noAmend o || o.format ≠ 2)) ||
      (o.format = 2 && !o.dests.isEmpty) || (o.format ≠ 2 && o.dests.isEmpty)
  firstRej [rejIf (i.outs.length > 64 || i.outs.any fun o => o.blocks.length < 1 || o.blocks.length > 64 || o.dests.length > 4) (rejCode 5 0x10 1),
    rejIf (i.outs.any fun o => o.idcode < 1 || o.idcode > 65534 || o.timeBase < 1 || o.timeBase ≥ 2 ^ 24 || o.age < 1 || o.age > 60 ||
      o.hdrText.length > 1024 || o.blocks.any fun b => b.nph > 1024 || b.nan > 16 || b.ndg > 16) (rejCode 5 0x10 2),
    rejIf (i.outs.any fun o => o.dests.any fun d => !portUsed i d.portA || (match d.portB with | some p => !portUsed i p | none => false)) (rejCode 5 0x10 5),
    rejIf ((i.outs.any bad) || (i.items.filter fun it => it.unit = 5 && it.kernel = 2).length > 1 ||
      (i.items.filter fun it => it.unit = 5 && it.kernel = 1).length < (i.outs.filter fun o => o.format ≠ 2).length ||
      i.outs.zipIdx.any fun x => i.outs.zipIdx.any fun y => y.2 < x.2 && x.1.idcode = y.1.idcode) (rejCode 5 0x10 7)]

/-- R342, R344. -/
def checkSnare (s : State) (i : Image) : Option Nat :=
  let pre := if s.rd fSYS_ID_STS_VARIANT = 2 then 288000 else 144000
  let need := (i.snare.map fun d => (d.pre + d.post) * snrRowLen d).sum
  let part := ((i.partitions.find? fun p => p.id = 6).map fun p => p.size * 2 ^ 20).getD 0
  firstRej [rejIf (i.snare.length > 4 || (i.snare.map fun d => d.signals.length).sum > 4096 || i.snareNandMib > 512 ||
      i.snare.any fun d => d.signals.length < 1 || d.terms.length > 8) (rejCode 5 0x11 1),
    rejIf (i.snare.any fun d => d.pre < 1 || d.pre > pre || d.post < 1 || d.post > 144000 || d.autoS < 1 || d.autoS > 65535) (rejCode 5 0x11 2),
    rejIf (need > part) (rejCode 5 0x11 7)]

/-- Every register field that a section sets lies in the range its register states. -/
def checkFields (i : Image) (block typ : Nat) : Option Nat :=
  rejIf (i.regs.any fun r => r.1 / 32 / 0x10000 = block && !inRange r.1 r.2) (rejCode 5 typ 2)

/-- The PAIR section's settings (R423). -/
def checkPair (i : Image) : Option Nat :=
  rejIf (!([fPAIR_CFG_RECOVER_S, fPAIR_CFG_WAIT_S, fPAIR_CFG2_COPY_MS] : List Fld).all fun f => inRange f.key (imgField i f)) (rejCode 5 0x14 2)

/-- R434, R444, R449, R451. -/
def checkLocal (i : Image) : Option Nat :=
  let ents := ((List.range 2).map fun x => (List.range 16).map fun e => (x, e)).flatten
  let pubs := (ents.filter fun p => imgField i (fLMF_ICV_SCAN_EN p.1 p.2) = 1 && imgField i (fLMF_ICV_SCAN_PUBLISH p.1 p.2) = 1).map fun p =>
    imgField i (fLMF_ICV_SCAN_AN_IDX p.1 p.2)
  let ranged := [fLMF_PLAUS_CFG_PLAUS_S, fLMF_PLAUS_CFG_PLAUS_N, fLMF_PLAUS_CFG_TOL, fLMF_ICV_CFG_EXT_MV 0, fLMF_ICV_CFG_EXT_MV 1]
  firstRej [rejIf ((!ranged.all fun f => inRange f.key (imgField i f)) || (List.range 2).any fun x => imgField i (fLMF_ICV_CFG_REF x) = 3) (rejCode 5 0x12 2),
    rejIf ((imgField i fLMF_CFG_CLASS = 1 && rateOfCode i.rateCode > 60) ||
      pubs.zipIdx.any fun a => pubs.zipIdx.any fun b => b.2 < a.2 && a.1 = b.1) (rejCode 5 0x12 7)]

/-- An event that R503 lists. -/
def eventKnown (e : Nat) : Bool :=
  e = 0 || (0x40 ≤ e && e < 0x140) || (0x140 ≤ e && e < 0x340) || (0x340 ≤ e && e ≤ 0x34D) || (0x350 ≤ e && e ≤ 0x35C) ||
    (0x360 ≤ e && e ≤ 0x36D) || (0x370 ≤ e && e ≤ 0x374) || (0x380 ≤ e && e ≤ 0x387)

/-- R464, R504. -/
def checkCounters (b : Bytes) (i : Image) : Option Nat :=
  let c (j : Nat) : CounterCfg := i.counters.getD j {}
  let chainBad (j : Nat) : Bool := (c j).chain && ((c (j + 1)).port ≠ (c j).port || (c (j + 1)).chain)
  firstRej [rejIf (i.counters.length ≠ 512) (rejCode 5 0x13 1),
    rejIf ((sectRecs b 0x13).any fun r => leAt r 0 4 / 4096 ≠ 0) (rejCode 5 0x13 3),
    rejIf ((List.range 512).any fun j => !(eventKnown (c j).event || (j ≠ 0 && (c (j - 1)).chain))) (rejCode 5 0x13 2),
    rejIf (c 511).chain (rejCode 5 0x13 2),
    rejIf ((List.range 511).any chainBad) (rejCode 5 0x13 7)]

/-- The check of one section by its type. -/
def checkSect (s : State) (b : Bytes) (i : Image) (t : Nat) : Option Nat :=
  match t with
  | 0x01 => firstRej [checkGlobal i, checkFields i 0x05 0x01]
  | 0x02 => checkOwnership i
  | 0x03 => checkPartSect b
  | 0x04 => checkCrossing i
  | 0x05 => firstRej [checkPorts i, checkFields i 0x02 0x05, checkFields i 0x01 0x05]
  | 0x06 => firstRej [checkStreams i, checkFields i 0x03 0x06]
  | 0x07 => firstRej [checkGroups i, checkFields i 0x04 0x07]
  | 0x08 => checkTable b i
  | 0x0C => firstRej [checkSpectral i, checkFields i 0x07 0x0C]
  | 0x0D => firstRej [checkCoherency i, checkFields i 0x08 0x0D]
  | 0x0E => firstRej [checkAlarms i, checkFields i 0x09 0x0E]
  | 0x0F => firstRej [checkAccounting i, checkFields i 0x0A 0x0F]
  | 0x10 => firstRej [checkOutputs i, checkFields i 0x0B 0x10]
  | 0x11 => firstRej [checkSnare s i, checkFields i 0x0C 0x11]
  | 0x12 => firstRej [checkLocal i, checkFields i 0x10 0x12]
  | 0x13 => checkCounters b i
  | 0x14 => firstRej [checkPair i, checkFields i 0x0F 0x14]
  | _ => none

/-- Step 5: a missing required section, then every section that the module knows, in directory order. -/
def checkSects (s : State) (b : Bytes) (i : Image) : Option Nat :=
  firstRej ((requiredSects.map fun t => rejIf ((sectOf b t).isNone) (rejCode 5 t 6)) ++
    (((imgDir b).filter fun x => knownSect x.typ).map fun x =>
      match checkSectHead b x with
      | some c => some c
      | none => checkSect s b i x.typ))

/-! ### Step 6: across sections (R459, R461, R134) -/

def isOutput (o : Owner) : Bool := o.owner = 1 || o.owner = 2 || o.owner = 3 || o.owner = 5

/-- The pins of an ALM_PIO item's CONST records. -/
def pioPins (i : Image) (it : Item) : List Nat := (pioRecords (wordsOf (itemConsts i it))).map fun x => x.1

def checkOwners (i : Image) : Option Nat :=
  let pins := i.owners.filter fun o => o.kind = 0
  let outs (p : Nat) : List Owner := pins.filter fun o => o.index = p && isOutput o
  let ins (p : Nat) : List Owner := pins.filter fun o => o.index = p && !isOutput o
  let all (f : Nat → Bool) : Bool := (List.range 16).all f
  let owned (k x : Nat) : Bool := i.owners.any fun o => o.kind = k && o.index = x
  let used (f : Nat → Fld) (x : Nat) : Bool := imgField i (f x) = 1
  let pio (it : Item) : Bool := it.unit = 0 && it.kernel = 0x29
  firstRej [rejIf (!all fun p => (outs p).length ≤ 1 && (ins p).length ≤ 1) (rejCode 6 0x02 1),
    rejIf (!all fun p => (outs p).isEmpty || (ins p).all fun o => o.owner = 6) (rejCode 6 0x02 2),
    rejIf (pins.zipIdx.any fun x => pins.zipIdx.any fun y => y.2 < x.2 && x.1.owner = y.1.owner && x.1.ownerIndex = y.1.ownerIndex &&
      (x.1.owner = 3 || x.1.owner = 5 || x.1.owner = 6)) (rejCode 6 0x02 3),
    rejIf (((List.range 8).any fun k => used fCLV_TTG_CFG_OWNED k && !owned 1 k) || (List.range 16).any fun k => used fCLV_CAP_CFG_OWNED k && !owned 2 k)
      (rejCode 6 0x02 4),
    rejIf ((List.range 64).any fun p => owned 3 p ≠ class0Port i p) (rejCode 6 0x02 5),
    rejIf (i.items.any fun it => pio it && (pioPins i it).any fun p => !pins.any fun o => o.index = p && o.owner = (if it.cls = 0 then 1 else 2))
      (rejCode 6 0x02 6)]

/-- The largest alarm frame of a destination, FCS included (R274, R278): 32 entries at most. -/
def alarmFrameMax (i : Image) (d : Nat) (c : AlmDest) : Nat :=
  let n := (i.alm.alarms.filter fun a => a.dests.testBit d).length * (1 + c.rpt)
  14 + (if c.tag.isSome then 4 else 0) + (if isV4 c.addr then 20 else 40) + 8 + 44 + 32 * min 32 n + (if c.prp then 6 else 0) + 4

def ceilMib (n : Nat) : Nat := (n + 2 ^ 20 - 1) / 2 ^ 20

/-- The minimum of a partition in MiB, where the image needs it (R461). -/
def partNeed (i : Image) (id : Nat) : Option Nat :=
  let stateLen := ((i.items.map fun it => (it.ops.map fun o => match o with | .state l => 64 * l | _ => 0).sum)).sum
  let big := (i.items.map fun it => it.resOfs + it.resLen).foldl max 0
  match id with
  | 1 => some (ceilMib (i.bindings.map fun b => (64 + (if imgResampled i b then 40 else 0)) * recordLen b).sum)
  | 2 => some (ceilMib (2 * 64 * big))
  | 3 => if stateLen = 0 then none else some (ceilMib stateLen)
  | 4 => if i.spec = {} then none else some (ceilMib (16 * i.spec.sigs.length * i.spec.bins.length + 2 * 2 ^ 20))
  | 5 => if i.coh = {} then none else some 1
  | 6 => if i.snare.isEmpty then none else some (ceilMib (i.snare.map fun d => (d.pre + d.post) * snrRowLen d).sum)
  | 7 =>
    let frames (p : Nat) : List Nat := (i.outs.map fun o => (o.dests.filter fun d => d.portA = p || d.portB = some p).map (outFrameMax o)).flatten ++
      ((i.alm.dests.zipIdx.filter fun d => d.1.port = p).map fun d => alarmFrameMax i d.2 d.1)
    let port (p : Nat) : Nat := if portUsed i p then 6 * i.qdepth * (((frames p).foldl max 0 + 63) / 64 * 64) else 0
    some (ceilMib ((List.range 64).map port).sum)
  | _ => none

def checkPartitions (s : State) (i : Image) : Option Nat :=
  let ps := i.partitions
  let v2 : Bool := s.rd fSYS_ID_STS_VARIANT = 2
  let top := if v2 then 65536 else 32768
  let snrMax := if v2 then 24576 else 8192
  let pair (f : Partition → Partition → Bool) : Bool := ps.zipIdx.any fun x => ps.zipIdx.any fun y => y.2 < x.2 && f x.1 y.1
  let short (id : Nat) : Bool := match partNeed i id, ps.find? fun p => p.id = id with
    | some n, some p => p.size < n
    | some _, none => true
    | none, _ => false
  firstRej [rejIf (pair fun x y => x.base < y.base + y.size && y.base < x.base + x.size) (rejCode 6 0x03 8),
    rejIf (ps.any fun p => p.base < 1024 || p.base + p.size > top) (rejCode 6 0x03 9),
    rejIf (ps.any fun p => p.id < 1 || p.id > 7) (rejCode 6 0x03 10),
    rejIf (pair fun x y => x.id = y.id) (rejCode 6 0x03 10),
    rejIf ((List.range 8).any short || ps.any fun p => p.id = 6 && p.size > snrMax) (rejCode 6 0x03 11)]

/-- Two bindings name one block (R134). -/
def sameBlock : BindFmt → BindFmt → Bool
  | .c37 a k, .c37 b l => a = b && k = l
  | .i1344 a, .i1344 b => a = b
  | .sv a _ _, .sv b _ _ => a = b
  | .localRef, .localRef => true
  | _, _ => false

/-- Two bindings take frames that come the same way: one connection, or one UDP port with source addresses and VLANs that one frame can have. -/
def sameWay (a b : Binding) : Bool :=
  let meets (x y : Option Nat) : Bool := x.isNone || y.isNone || x = y
  a.tcp = b.tcp && (a.tcp.isSome || (a.udpPort = b.udpPort && meets a.srcIp b.srcIp && meets a.vlan b.vlan))

/-- Two slots on one block, or slot 0 bound twice (R134). -/
def checkBindings (i : Image) : Option Nat :=
  let same (a b : Binding) : Bool := a.slot = b.slot || (sameBlock a.fmt b.fmt && sameWay a b)
  rejIf (i.bindings.zipIdx.any fun x => i.bindings.zipIdx.any fun y => y.2 < x.2 && same x.1 y.1) (rejCode 6 0x06 13)

/-! ### Step 7: the proof (R210, R283, R545) -/

/-- Lane cycles as ns at the slowest LANE cycle, rounded up (R545). -/
def cyclesNs (c : Nat) : Nat := (c * 1005 + 999) / 1000

/-- Time an item occupies its place. -/
def occupies (i : Image) (it : Item) : Nat :=
  if it.unit ≠ 0 then it.cost
  else
    let f := if it.cls = 0 then 16 else 4
    cyclesNs (64 + ceilDiv (fetchBytes i it) f + it.cost + ceilDiv (it.resLen * 64) f)

/-- The model's state: retire time of each item placed, and when each place (lanes 0 to 31, engines from 32) is free. -/
structure Sched where
  ret : List (Option Nat)
  free : List Nat
deriving DecidableEq, Repr

/-- Place one item (R545 steps 1 to 6). -/
def placeItem (i : Image) (start j : Nat) (it : Item) (x : Sched) : Sched :=
  let at_ (p : Nat) : Nat := x.free.getD p 0
  let ready := (producers it).foldl (fun m p => max m ((x.ret.getD p none).getD 0)) start
  let pool := (List.range 28).map fun k => k + 4
  let p := if it.unit ≠ 0 then 31 + it.unit
    else if it.lane ≠ 0x3F then it.lane
    else pool.foldl (fun a b => if at_ b < at_ a then b else a) 4
  let t := max ready (at_ p) + occupies i it
  { ret := x.ret.set j (some t), free := x.free.set p t }

/-- Place the items for which `p` holds: each time the first in class and index order whose producers are placed. -/
def schedLoop (i : Image) (start : Nat) (p : Item → Bool) : Nat → Sched → Sched
  | 0, x => x
  | fuel + 1, x =>
    let open_ := i.items.zipIdx.filter fun it =>
      p it.1 && (x.ret.getD it.2 none).isNone &&
        (producers it.1).all fun q => (x.ret.getD q none).isSome || !((i.items[q]?.map p).getD false)
    match open_ with
    | [] => x
    | a :: rest =>
      let b := rest.foldl (fun b c => if c.1.cls < b.1.cls then c else b) a
      schedLoop i start p fuel (placeItem i start b.2 b.1 x)

def sched (i : Image) (start : Nat) (p : Item → Bool) : List (Option Nat) :=
  (schedLoop i start p i.items.length { ret := List.replicate i.items.length none, free := List.replicate 37 0 }).ret

def latest (l : List (Option Nat)) : Nat := (l.filterMap id).foldl max 0

/-- The worst-case schedule span, from C(n). -/
def schedSpan (i : Image) : Nat := latest (sched i (i.guardMax * 1000 + 600 + 600) fun _ => true)

/-- g0_span and pio_span, from the token. -/
def g0Sched (i : Image) : List (Option Nat) := sched i 600 fun it => it.cls = 0
def g0Span (i : Image) : Nat := latest (g0Sched i)
def pioSpan (i : Image) : Nat :=
  ((i.items.zip (g0Sched i)).filterMap fun x => if x.1.unit = 0 && x.1.kernel = 0x29 && x.1.cls = 0 then x.2 else none).foldl max 0

/-- Lengths of the class-0 frames that a port can carry in one tick (R283, R278, R280), FCS included. -/
def class0Frames (s : State) (i : Image) (p : Nat) : List Nat :=
  let alarm (d : Nat) (c : AlmDest) : List Nat :=
    let n := min 256 ((i.alm.alarms.filter fun a => a.cls = 0 && a.dests.testBit d).length * (1 + c.rpt))
    (List.range ((n + 31) / 32)).map fun k =>
      14 + (if c.tag.isSome then 4 else 0) + (if isV4 c.addr then 20 else 40) + 8 + 44 + 32 * min 32 (n - 32 * k) + (if c.prp then 6 else 0) + 4
  let s := { s with img := some i }
  ((i.alm.dests.zipIdx.filter fun d => d.1.port = p && destClass0 i d.2).map fun d => alarm d.2 d.1).flatten ++
    ((i.alm.goose.filter fun g => g.port = p && gooseCls i g = 0).map fun g =>
      (s.gooseFrame g { st := 0xFFFFFFFF, sq := 0xFFFFFFFF } 0xFFFFFFFF).length + 4)

def rateOfMode (m : Nat) : Nat := if m = 3 then 2500 else if m = 4 then 10000 else 1000

/-- The frame bound of a class-0 port. -/
def frameBound (s : State) (i : Image) (p : Nat) : Nat :=
  let c := i.ports.getD p {}
  let bits (l : Nat) : Nat := (l + 20) * 8
  let ns (b : Nat) : Nat := ceilDiv (b * 1000) (rateOfMode c.mode)
  let fs := (class0Frames s i p).map bits
  let ahead := fs.sum - (match fs with | [] => 0 | x :: xs => xs.foldl min x)
  i.guardMax * 1000 + 600 + g0Span i + 2000 + ns ahead + ns (bits c.g0TxMax) + 300

def pioBound (i : Image) : Nat := i.guardMax * 1000 + 600 + pioSpan i + 500

def checkProof (s : State) (i : Image) : Option Nat :=
  let c (k : Nat) : Nat := rejCode 7 0x0B k
  let bounds := ((List.range 64).filter (class0Port i)).map fun p => (p, frameBound s i p)
  let span := schedSpan i
  firstRej [rejIf (g0Span i ≠ i.proof.g0Span) (c 1), rejIf (pioSpan i ≠ i.proof.pioSpan) (c 2), rejIf (bounds ≠ i.proof.bounds) (c 3),
    rejIf (span ≠ i.proof.span) (c 4), rejIf (bounds.any fun b => b.2 > 250000) (c 5), rejIf (pioBound i > 200000) (c 6),
    rejIf (span * 8 * rateOfCode i.rateCode > 7 * 1000000000) (c 7)]

/-! ### All steps -/

/-- The checks of R465 in order: the rejection code of the first that fails. -/
def imageReject (s : State) (b : Bytes) (i : Image) : Option Nat :=
  match checkHeader b with
  | some c => some c
  | none =>
    firstRej [checkSigned s b, checkCrcs b, checkLevel s i, checkSects s b i, checkOwners i, checkPartitions s i, checkBindings i, checkProof s i]

end Sys2Proof.Machine
end

