-- ==== Sys2Proof/Machine/Local.lean ====
section
/-!
DEFINITION. Local reference measurement (R425–R451): sigma-delta outputs, the local phasor estimator and slot 0, the integrating
converters, their scan lists, queues and plausibility check.
-/

namespace Sys2Proof.Machine

def State.setLmf (s : State) (l : Lmf) : State := { s with lmf := l }
def State.sdChan (s : State) (c : Nat) : SdChan := s.lmf.chans.getD c {}
def State.setSd (s : State) (c : Nat) (x : SdChan) : State := s.setLmf { s.lmf with chans := s.lmf.chans.set c x }
def State.icv (s : State) (x : Nat) : Icv := s.lmf.icv.getD x {}
def State.setIcv (s : State) (x : Nat) (v : Icv) : State := s.setLmf { s.lmf with icv := s.lmf.icv.set x v }

/-! ### Sigma-delta channels (R425 to R432) -/

/-- Group delay and step settling of a preset in ns (R428). -/
def sdDelay (p : Nat) : Nat := [3646000, 1823000, 521000, 417000].getD p 0
def sdSettle (p : Nat) : Nat := [7292000, 3646000, 1042000, 833000].getD p 0
/-- Outputs per second. -/
def sdRate (p : Nat) : Nat := [4800, 9600, 38400, 1200].getD p 1

def State.sdOn (s : State) (c : Nat) : Bool := s.on (fLMF_SD_CFG_EN c)
def State.sdPreset (s : State) (c : Nat) : Nat := s.rd (fLMF_SD_CFG_PRESET c)

/-! ### Decimation (R427 to R429) -/

/-- Modulator samples between outputs, and in the impulse response of one (R428: the step settling at 6.144 MHz). -/
def sdDecim (p : Nat) : Nat := [1280, 640, 160, 5120].getD p 0
def sdSpan (p : Nat) : Nat := [44800, 22400, 6400, 5120].getD p 0
/-- The sinc stage of a preset: order and decimation; a sinc4 over 5,120 samples has blocks of 1,280. -/
def sdSinc (p : Nat) : Nat × Nat := [(5, 80), (5, 80), (5, 40), (4, 1280)].getD p (5, 80)
/-- The decimate-by-2 FIR stages that follow. -/
def sdStages (p : Nat) : Nat := [4, 3, 2, 0].getD p 0

/-- n choose k. -/
def choose (n k : Nat) : Nat := (List.range k).foldl (fun a i => a * (n - i) / (i + 1)) 1

/-- The coefficient of a sinc filter of order k over blocks of d, at delay j: the k-fold convolution of d ones. -/
def sincCoef (k d j : Nat) : Int :=
  (List.range (k + 1)).foldl (fun a i =>
    if i * d ≤ j then
      let t : Int := choose k i * choose (j - i * d + k - 1) (k - 1)
      if i % 2 = 0 then a + t else a - t
    else a) 0

/-- A modulator sample as a number; before the first sample since a restart there is none. -/
def sdBit (mods : List SdMod) (i : Nat) : Int :=
  match mods[i]? with
  | some m => if m.bit then 1 else -1
  | none => 0

/-- A FIR stage's tap at delay j: linear phase, and half-band but in ROLL (R428). -/
def sdFirTap (p m j : Nat) : Int :=
  let h := Config.sdHalf p m
  let d := max j h - min j h
  if p ≠ 2 && d % 2 = 0 && d ≠ 0 then 0 else Config.sdTap p m d

/-- The output of a chain's stage `i` outputs ago; every stage rounds to nearest, ties to even (R427). -/
def sdStage (p : Nat) (mods : List SdMod) : Nat → Nat → Int
  | 0, i =>
    let (k, d) := sdSinc p
    let sum := ((List.range (k * (d - 1) + 1)).map fun j => sincCoef k d j * sdBit mods (i * d + j)).sum
    Q.round ⟨sum * 2 ^ Config.sdFrac p 0, d ^ k⟩
  | m + 1, i =>
    let sum := ((List.range (2 * Config.sdHalf p (m + 1) + 1)).map fun j => sdFirTap p (m + 1) j * sdStage p mods m (2 * i + j)).sum
    Q.round ⟨sum, 2 ^ Config.sdFrac p (m + 1)⟩

/-- The code of the output that the newest sample ends, before it saturates (R426). -/
def sdCode (p : Nat) (mods : List SdMod) : Int := Q.round ⟨sdStage p mods (sdStages p) 0 * Config.sdScale p, 2 ^ 24⟩

/-- A channel's decimator restarts (R430). -/
def sdRestart (c : Nat) (s : State) : State :=
  let x := s.sdChan c
  (s.setSd c { x with mods := [], restarting := true, readyAt := s.up + sdSettle (s.sdPreset c), fresh := true }).wrB (fLMF_SD_CFG_RESTARTING c) (s.sdOn c)

/-- A decimated output's time (R431): the edge at the centre of its impulse response, interpolated between the two captures of AFE edges around it
(stamps as they come through the 5 ns path of R87; channel c samples c AFE cycles after channel 0), less the input delay and DLY_NS. -/
def State.sdTime (s : State) (c capA capB cyc : Nat) : Nat :=
  let a : Int := atContact 0 capA
  let b : Int := atContact 0 capB
  ((Q.round ⟨a * 6144 + (b - a) * ((cyc : Int) + c), 6144⟩) - Config.sdInputDelay - s.rdS (fLMF_SD_DLY_CFG_DLY_NS c)).toNat

/-- GAP by the distance from the output before (R432): more than 1.5 or less than 0.5 nominal periods. -/
def sdJump (preset : Nat) (last : Option SdOut) (time : Nat) : Bool :=
  match last with
  | some l =>
    let d : Int := ((time : Int) - l.time) * (sdRate preset : Int)
    decide (2 * d > 3000000000) || decide (2 * d < 1000000000)
  | none => false

/-- An output of channel c is made: code, OVR and time (R426, R430 to R432). -/
def sdMake (c : Nat) (code : Int) (ovr : Bool) (time : Nat) (s : State) : State :=
  let x := s.sdChan c
  let o : SdOut := { code := code, ovr := ovr, gap := x.fresh || sdJump (s.sdPreset c) x.last time, time := time }
  let s := s.setSd c { x with outs := (x.outs.filter fun y => y.time + 1000000000 ≥ time) ++ [o], fresh := false, last := some o }
  let s := ((s.wr (fLMF_SD_LAST_CODE c) (ofSigned 24 code)).wrB (fLMF_SD_LAST_OVR c) ovr).wrB (fLMF_SD_LAST_GAP c) o.gap
  if ovr then (s.inc (fLMF_SD_OVR_CNT_OUTPUTS c)).flag fLMF_FLT_FLAGS 0 else s

/-- The decimation instant of channel c, with the modulator samples since the one before, newest first (R426 to R432): `ue`: the filter state has
an uncorrectable error. -/
def sdOutput (c : Nat) (mods : List SdMod) (capA capB cyc : Nat) (ue : Bool) (s : State) : State :=
  let p := s.sdPreset c
  if !s.lmf.running || !s.sdOn c || mods.length ≠ sdDecim p then s
  else if ue then sdRestart c s
  else
    let x := s.sdChan c
    let held := if p = 3 then mods else (mods ++ x.mods).take (sdSpan p)
    let s := s.setSd c { x with mods := held }
    if x.restarting then s
    else
      let raw := sdCode p held
      let ovr := (held.any fun m => m.beyond) || raw.natAbs > 8388607
      if !ovr && (match x.last with | some l => l.ovr | none => false) then sdRestart c (s.setSd c { s.sdChan c with last := none })
      else sdMake c (if ovr then (if raw < 0 then -8388607 else 8388607) else raw) ovr (s.sdTime c capA capB cyc) s

/-- SD_OUTPUT (R426, R431, R432). -/
def execSdOutput (c : Fin 8) (mods : List SdMod) (capA capB : Nat) (cyc : Fin 6144) (ue : Bool) (s : State) : Out :=
  .next (sdOutput c mods capA capB cyc ue s)

/-- SD_RESTART_SETTLED (R430): the settling time has passed; the next output carries GAP. -/
def execSdRestartSettled (c : Fin 8) (s : State) : Out :=
  .next (
    let x := s.sdChan c
    if !s.lmf.running || !x.restarting || s.up < x.readyAt then s
    else (s.setSd c { x with restarting := false, fresh := true }).wrB (fLMF_SD_CFG_RESTARTING c) false)

/-! ### The estimator (R433 to R436)

Its sums are taken exactly and each result is rounded once to FP32 (log entry 34). -/

def State.fnom (s : State) : Nat := if s.on fLMF_CFG_FNOM then 60 else 50

/-- L in ns, exactly (R433). -/
def State.estL (s : State) : Q := if s.on fLMF_CFG_CLASS then ⟨4000000000, s.rate⟩ else ⟨2000000000, s.fnom⟩

/-- L/2 + G + 150 µs, the delay after t(n), rounded once (R438). -/
def State.estDelay (s : State) : Nat :=
  let g := ((List.range 8).filter s.sdOn).foldl (fun m c => max m (sdDelay (s.sdPreset c))) 0
  (Q.round (s.estL.mul ⟨1, 2⟩)).toNat + g + 150000

/-- A rational as a fixed-point number in units of 1/fxOne. -/
def fxOf (a : Q) : Int := a.num * (fxOne : Int) / (a.den : Int)

/-- The window's weight at u ns from its centre, times fxOne: triangular, or Hann. -/
def estWeight (hann : Bool) (l : Q) (u : Int) : Int :=
  let x := (Q.ofInt (2 * u)).div l
  if hann then ((fxOne : Int) + fxOf (qSinCos (qPi.mul x)).2) / 2
  else (fxOne : Int) - fxOf ⟨x.num.natAbs, x.den⟩

/-- h(f): the window's transform over its value at 0. -/
def estH (hann : Bool) (l : Q) (f : Q) : Q :=
  let fl := f.mul (l.mul ⟨1, 1000000000⟩)
  let sinc (x : Q) : Q := if x.isZero then ⟨1, 1⟩ else let y := qPi.mul x; (qSinCos y).1.div y
  if hann then
    let d := (Q.ofInt 1).sub (fl.mul fl)
    if d.isZero then ⟨1, 2⟩ else (sinc fl).div d
  else
    let a := sinc (fl.mul ⟨1, 2⟩)
    a.mul a

/-- The outputs of channel c in the window of an instant. -/
def State.estOuts (s : State) (c t : Nat) : List SdOut :=
  let l := s.estL
  (s.sdChan c).outs.filter fun o =>
    let u : Int := 2 * ((o.time : Int) - t) * (l.den : Int)
    decide (u ≥ -l.num) && decide (u < l.num)

/-- The phasor of channel c at t, with the frequency of the tick before; none where R436 makes it missing. -/
def State.estPhasor (s : State) (c t : Nat) (fPrev : Option Nat) : Option (Nat × Nat) :=
  let os := s.estOuts c t
  let l := s.estL
  let hann := s.on fLMF_CFG_CLASS
  if !s.sdOn c || (s.sdChan c).restarting || (os.any fun o => o.ovr || o.gap) ||
     decide ((os.length * 10 * 1000000000 * l.den : Int) < 9 * l.num * (sdRate (s.sdPreset c) : Int)) || os.isEmpty then none
  else
    let f0 := s.fnom
    let sums := os.foldl (fun (a : Int × Int × Int) o =>
      let u : Int := (o.time : Int) - t
      let w := estWeight hann l u
      let (sn, cs) := qSinCos (qPi.mul ⟨2 * (f0 : Int) * u, 1000000000⟩)
      (a.1 + w * o.code * fxOf cs, a.2.1 - w * o.code * fxOf sn, a.2.2 + w)) (0, 0, 0)
    let k := (f32Q (s.rd (fLMF_SD_SCALE_SCALE c))).mul ((qSqrt ⟨2, 1⟩).mul ⟨160, 838860700⟩)
    let den : Q := ⟨sums.2.2 * (fxOne : Int), 1⟩
    let df : Q := match fPrev with | some f => (f32Q f).sub (Q.ofInt f0) | none => ⟨0, 1⟩
    let h := estH hann l df
    let fin (v : Int) : Nat := if h.isZero then f32Div (f32OfQ ((k.mul (Q.ofInt v)).div den)) 0 else f32OfQ (((k.mul (Q.ofInt v)).div den).div h)
    some (fin sums.1, fin sums.2.1)

/-- (a + α b + α² c) / 3 of three phasors; missing where one is. -/
def estSeq (a b c : Option (Nat × Nat)) : Option (Nat × Nat) :=
  match a, b, c with
  | some a, some b, some c =>
    let x := cAdd (cOf a) (cAdd (cMul cAlpha (cOf b)) (cMul cAlpha2 (cOf c)))
    some (exactC [a, b, c] (x.1.mul ⟨1, 3⟩, x.2.mul ⟨1, 3⟩))
  | _, _, _ => none

def State.estAt (s : State) (n : Nat) : Option Estimate := s.lmf.hist.find? fun e => e.tick = n

/-- f(n) from V1 at n and n − 1 (R435). -/
def estFreq (fnom rate : Nat) (v w : Option (Nat × Nat)) : Option Nat :=
  match v, w with
  | some v, some w =>
    if !cFinite v || !cFinite w then some f32Nan
    else
      let d := cMul (cOf v) ((f32Q w.1), (f32Q w.2).neg)
      let ang := qAtan2 (d.2.num * d.1.den) (d.1.num * d.2.den)
      some (f32OfQ ((Q.ofInt fnom).add ((ang.mul ⟨rate, 1⟩).div (qPi.mul ⟨2, 1⟩))))
  | _, _ => none

def estRocof (rate : Nat) (f g : Option Nat) : Option Nat :=
  match f, g with
  | some f, some g => some (exact [f, g] (((f32Q f).sub (f32Q g)).mul ⟨rate, 2⟩))
  | _, _ => none

/-- The analog values of slot 0 (R437, R445): as many as scan entries publish, by analog index (log entry 34). -/
def State.pubCount (s : State) : Nat :=
  ((List.range 2).map fun x => ((List.range 16).filter fun e => s.on (fLMF_ICV_SCAN_EN x e) && s.on (fLMF_ICV_SCAN_PUBLISH x e)).length).sum

def State.pubValues (s : State) : List Nat := (List.range s.pubCount).map fun k => smGet f32Nan s.lmf.pub k

/-- Slot 0's record for tick n (R437). -/
def State.slot0 (s : State) (t : Nat) (ph : List (Option (Nat × Nat))) (f r : Option Nat) : SlotRecord :=
  let phs := ph.map fun p => p.getD (f32Nan, f32Nan)
  let ovr := (List.range 8).foldl (fun a c => if (s.estOuts c t).any fun o => o.ovr then a + 2 ^ (c + 1) else a) 0
  let dig := (if s.on fLMF_PLAUS_STS_FAIL then 1 else 0) + ovr +
    (if s.on (fLMF_ICV_STS_SETTLING 0) || s.on (fLMF_ICV_STS_SETTLING 1) then 512 else 0) + (if s.lmf.nominal then 1024 else 0)
  let fr := f.getD f32Nan
  let ro := r.getD f32Nan
  let an := s.pubValues
  let nonfinite := f32IsNan fr || f32IsNan ro || (phs.any fun p => f32IsNan p.1 || f32IsNan p.2) || an.any f32IsNan
  { slot := 0, srcfmt := 5, cfgGen := 0,
    qual := (if s.clvState = clvUnset then 2 ^ 23 else 0) + (if nonfinite then 2 ^ 21 else 0) + s.statTq * 2 ^ 15 +
      s.tq * 2 ^ 11 + (if ph.any fun p => p.isNone then 2 ^ 9 else 0) + (if s.on fCLV_STS_QUAL_LOST then 2 ^ 8 else 0),
    freq := fr, srcTime := t, ingTime := s.clv.now, rocof := ro, stat := 0, path := 0, phasors := phs, analogs := an, digitals := [dig] }

/-- The estimator commits tick n: its quantities, slot 0's record, LMF_STS (R433 to R438). -/
def estCommit (n : Nat) (s : State) : State :=
  let t := s.tickInst n
  let r := s.rateAt t
  let p1 := s.predTick n
  let p2 := s.predTick p1
  let before := s.estAt p1
  let fPrev := before.bind fun e => e.f
  let ph := (List.range 8).map fun c => s.estPhasor c t fPrev
  let at_ (k : Nat) : Option (Nat × Nat) := ph.getD k none
  let v1 := estSeq (at_ 0) (at_ 1) (at_ 2)
  let i1 := estSeq (at_ 3) (at_ 4) (at_ 5)
  let f := estFreq s.fnom r v1 (before.bind fun e => e.v1)
  let ro := estRocof r f ((s.estAt p2).bind fun e => e.f)
  let all := ph ++ [v1, i1]
  let s := if s.on fLMF_CFG_SLOT0 && all.any fun p => p.isNone then s.flag fLMF_FLT_FLAGS 1 else s
  let s := (s.wrB fLMF_STS_FREQ_VALID f.isSome).wrB fLMF_STS_RUNNING (s.on fLMF_CFG_SLOT0)
  let rec0 := s.slot0 t all f ro
  let s := s.setLmf { s.lmf with hist := ({ tick := n, v1 := v1, f := f } :: s.lmf.hist).take 3, next := (s.nextRun n).1,
                                 fLast := match f with | some x => some (x, s.up) | none => s.lmf.fLast }
  if s.on fLMF_CFG_SLOT0 then commitRecord s rec0 else s

/-- LOCAL_ESTIMATE_COMMIT (R438). -/
def execLocalEstimateCommit (n : Nat) (s : State) : Out :=
  .next (
    if !s.lmf.running || !s.ticking || n ≠ s.lmf.next || s.clv.now < s.tickInst n + s.estDelay then s
    else estCommit n s)

/-! ### Integrating converters (R439 to R445) -/

/-- T_m at the start of a conversion, in ns of whole AFE cycles, and whether it fell back to 1/FNOM (R441). -/
def State.cycle (s : State) : Nat × Bool :=
  let ns (f : Q) : Nat := (((Q.ofInt 49152000).div f).round.toNat) * 1000000000 / 49152000
  let nom := ns (Q.ofInt s.fnom)
  if s.on fLMF_CFG_CYC_SRC then (nom, false)
  else
    match s.lmf.fLast with
    | some (f, at_) => if s.up < at_ + 1000000000 && f32Lt 0 f && f32Finite f then (ns (f32Q f), false) else (nom, true)
    | none => (nom, true)

/-- An entry as its registers stand. -/
def State.scanRun (s : State) (x e : Nat) : ScanRun :=
  { entry := e, channel := s.rd (fLMF_ICV_SCAN_CHANNEL x e), n := s.rd (fLMF_ICV_SCAN_NM1 x e) + 1, s := s.rd (fLMF_ICV_SCAN_S x e),
    publish := if s.on (fLMF_ICV_SCAN_PUBLISH x e) then some (s.rd (fLMF_ICV_SCAN_AN_IDX x e)) else none }

/-- The enabled entry after `e`, walking in ascending order. -/
def State.nextEntry (s : State) (x : Nat) (e : Option Nat) : Option ScanRun :=
  let on := (List.range 16).filter fun k => s.on (fLMF_ICV_SCAN_EN x k)
  let k := match e with
    | some e => match on.find? fun k => k > e with | some k => some k | none => on.head?
    | none => on.head?
  k.map (s.scanRun x)

/-- Converter x begins the entry that is next in its walk, where none is in progress (R444). -/
def icvBegin (x : Nat) (s : State) : State :=
  let v := s.icv x
  match v.run with
  | some _ => s
  | none =>
    let r := s.nextEntry x v.walked
    (s.setIcv x { v with run := r, codes := [], flags := 0 }).wrB (fLMF_ICV_STS_RUNNING x) r.isSome

/-- A conversion starts on both converters `ago` ns ago: T_m is fixed (R441, R442), and it is a plausibility pair where one is due (R446). -/
def startConversion (ago : Nat) (s : State) : State :=
  let (t, nom) := s.cycle
  let ps := s.rd fLMF_PLAUS_CFG_PLAUS_S
  let due : Bool := s.lmf.plausNow || (s.up ≥ s.lmf.plausDue && ps ≠ 0)
  let s := s.setLmf { s.lmf with nominal := nom, convUp := s.up - ago, convAt := s.clv.now - ago, plausNow := due,
                                 plausDue := if due && !s.lmf.plausNow then s.lmf.plausDue + ps * 1000000000 else s.lmf.plausDue }
  let s := s.wr fLMF_CYCLE_STS_T_M_NS t
  let s := if nom then s.flag fLMF_FLT_FLAGS 6 else s
  if due then s else icvBegin 1 (icvBegin 0 s)

/-- Millivolts of a reference (R446). -/
def State.refMv (s : State) (x : Nat) : Nat := if s.rd (fLMF_ICV_CFG_REF x) = 1 then s.rd (fLMF_ICV_CFG_EXT_MV x) else 2500

/-- The head entry's registers and LEVEL (R451). -/
def icvShow (x : Nat) (s : State) : State :=
  let v := s.icv x
  let h := v.queue.headD { tag := 0, val := 0, time := 0 }
  let s := s.wr (fLMF_ICV_STS_LEVEL x) v.queue.length
  let s := (s.wrB (fLMF_ICV_QTAG_VALID x) (!v.queue.isEmpty)).wrB (fLMF_ICV_QTAG_PLAUS x) (h.tag.testBit 30)
  let s := ((s.wrB (fLMF_ICV_QTAG_SETTLING x) (h.tag.testBit 29)).wrB (fLMF_ICV_QTAG_OVR x) (h.tag.testBit 28)).wrB (fLMF_ICV_QTAG_NOMINAL x) (h.tag.testBit 27)
  let s := ((s.wrB (fLMF_ICV_QTAG_FAULT x) (h.tag.testBit 26)).wr (fLMF_ICV_QTAG_REF x) (h.tag / 2 ^ 24)).wr (fLMF_ICV_QTAG_NM1 x) (h.tag / 2 ^ 16)
  let s := (s.wr (fLMF_ICV_QTAG_S x) (h.tag / 2 ^ 8)).wr (fLMF_ICV_QTAG_CHANNEL x) h.tag
  (s.wr (fLMF_ICV_QVAL_RESULT x) h.val).wr (fLMF_ICV_QTIME_NS32 x) h.time

/-- A result goes to the queue, or is dropped where it is full (R445). -/
def icvPush (x : Nat) (r : IcvRes) (s : State) : State :=
  let v := s.icv x
  if v.queue.length ≥ 64 then (s.inc (fLMF_ICV_DROP_CNT_RESULTS x)).flag fLMF_FLT_FLAGS 4
  else icvShow x (s.setIcv x { v with queue := v.queue ++ [r] })

/-- QTAG of a result: flags bit 0 SETTLING, 1 OVR, 2 NOMINAL, 3 FAULT. -/
def icvTag (plaus : Bool) (flags ref n sh ch : Nat) : Nat :=
  (if plaus then 2 ^ 30 else 0) + (if flags.testBit 0 then 2 ^ 29 else 0) + (if flags.testBit 1 then 2 ^ 28 else 0) +
    (if flags.testBit 2 then 2 ^ 27 else 0) + (if flags.testBit 3 then 2 ^ 26 else 0) + ref * 2 ^ 24 + (n - 1) * 2 ^ 16 + sh * 2 ^ 8 + ch

/-- V / (2 × Vref) × 2^24, rounded convergently (R440). -/
def icvRaw (i : IcvIn) : Int := Q.round ⟨i.volt * 2 ^ 23, i.vref⟩

/-- One conversion's saturated code and flags; OVR and FAULT set their flags, a fault starts settling (R440, R442, R443). -/
def icvCode (x : Nat) (i : IcvIn) (s : State) : Nat × Nat × State :=
  let ovr := icvRaw i < 0 || icvRaw i > 0xFFFFFF
  let code := (max 0 (min (icvRaw i) 0xFFFFFF)).toNat
  let fl := (if s.on (fLMF_ICV_STS_SETTLING x) then 1 else 0) + (if ovr then 2 else 0) + (if s.lmf.nominal then 4 else 0) + (if i.fault then 8 else 0)
  let s := if ovr then s.flag fLMF_FLT_FLAGS 2 else s
  (code, fl, if i.fault then s.flag fLMF_FLT_FLAGS 3 else s)

/-- The reference starts to settle (R443). -/
def icvSettle (x : Nat) (s : State) : State :=
  let ns := if s.rd (fLMF_ICV_CFG_REF x) = 1 then 20000000 else 5000000
  (s.setIcv x { s.icv x with settleAt := some (s.up + ns) }).wrB (fLMF_ICV_STS_SETTLING x) true

/-- An averaging run is complete: its result, queue entry and published value (R444, R445). -/
def icvResult (x : Nat) (r : ScanRun) (codes : List Nat) (flags start stop : Nat) (s : State) : State :=
  let res := min (roundDiv codes.sum (2 ^ r.s)) 0xFFFFFFFF
  let s := icvPush x { tag := icvTag false flags (s.rd (fLMF_ICV_CFG_REF x)) r.n r.s r.channel, val := res, time := (start + stop) / 2 % 2 ^ 32 } s
  match r.publish with
  | none => s
  | some k =>
    let v : Q := ⟨(res * 2 * s.refMv x * 2 ^ r.s : Nat), 1000 * 2 ^ 24 * r.n⟩
    let w := if flags.testBit 1 || flags.testBit 3 then f32Nan else f32OfQ v
    s.setLmf { s.lmf with pub := smInsert s.lmf.pub k w }

/-- One converter's part of a scan conversion's end. -/
def icvScan (x : Nat) (i : IcvIn) (start stop : Nat) (s : State) : State :=
  let v := s.icv x
  match v.run with
  | none => s
  | some r =>
    let (code, fl, s) := icvCode x i s
    let codes := v.codes ++ [code]
    let flags := v.flags ||| fl
    let first := if v.codes.isEmpty then start else v.start
    let s := if codes.length < r.n then s.setIcv x { s.icv x with run := some r, codes := codes, flags := flags, start := first }
      else
        let s := icvResult x r codes flags first stop s
        s.setIcv x { s.icv x with run := none, walked := some r.entry, codes := [], flags := 0 }
    if i.fault then icvSettle x s else s

/-- A plausibility pair (R446, R447): both results to their queues, then the comparison. -/
def plausPair (a b : IcvIn) (start stop : Nat) (s : State) : State :=
  let (ca, fa, s) := icvCode 0 a s
  let (cb, fb, s) := icvCode 1 b s
  let time := (start + stop) / 2 % 2 ^ 32
  let s := icvPush 0 { tag := icvTag true fa (s.rd (fLMF_ICV_CFG_REF 0)) 1 0 15, val := ca, time := time } s
  let s := icvPush 1 { tag := icvTag true fb (s.rd (fLMF_ICV_CFG_REF 1)) 1 0 15, val := cb, time := time } s
  -- in units of 10 µV over 2^24
  let d : Int := ((ca * 2 * s.refMv 0 * 100 : Nat) : Int) - (cb * 2 * s.refMv 1 * 100 : Nat)
  let s := s.wrSat fLMF_PLAUS_STS_DIFF (Q.round ⟨d, 2 ^ 24⟩)
  let bad (f : Nat) : Bool := f.testBit 0 || f.testBit 1 || f.testBit 3
  let s := if bad fa || bad fb then s
    else
      let n := s.rd fLMF_PLAUS_CFG_PLAUS_N
      if d.natAbs ≤ s.rd fLMF_PLAUS_CFG_TOL * 2 ^ 24 then
        let p := s.lmf.passes + 1
        let s := (s.setLmf { s.lmf with passes := p }).wr fLMF_PLAUS_STS_FAILS 0
        if p ≥ n && s.on fLMF_PLAUS_STS_FAIL then (s.wrB fLMF_PLAUS_STS_FAIL false).wr fLMF_FLT_FLAGS (clrBit 5 (s.rd fLMF_FLT_FLAGS)) else s
      else
        let k := min 255 (s.rd fLMF_PLAUS_STS_FAILS + 1)
        let s := (s.setLmf { s.lmf with passes := 0 }).wr fLMF_PLAUS_STS_FAILS k
        if k ≥ n then (s.wrB fLMF_PLAUS_STS_FAIL true).flag fLMF_FLT_FLAGS 5 else s
  let s := if a.fault then icvSettle 0 s else s
  if b.fault then icvSettle 1 s else s

/-- Elapsed ns at which the conversion in progress ends, its 250 µs of run-down included (R441). -/
def State.convEnd (s : State) : Nat := s.lmf.convUp + s.rd fLMF_CYCLE_STS_T_M_NS + 250000

/-- ICV_CONVERSION_END (R441, R442): one lockstep conversion of both converters ends; the next follows at once. -/
def execIcvConversionEnd (a b : IcvIn) (s : State) : Out :=
  .next (
    if !s.lmf.running || s.up < s.convEnd then s
    else
      let start := s.lmf.convAt
      let stop := start + s.rd fLMF_CYCLE_STS_T_M_NS
      let da := (s.icv 0).discard
      let db := (s.icv 1).discard
      let s := (s.setIcv 0 { s.icv 0 with discard := false })
      let s := s.setIcv 1 { s.icv 1 with discard := false }
      let s := if s.lmf.plausNow then
          if da || db then s else plausPair a b start stop (s.setLmf { s.lmf with plausNow := false })
        else
          let s := if da then s else icvScan 0 a start stop s
          if db then s else icvScan 1 b start stop s
      startConversion (s.up - s.convEnd) s)

/-- ICV_REF_SETTLED (R443). -/
def execIcvRefSettled (x : Fin 2) (s : State) : Out :=
  .next (match (s.icv x).settleAt with
    | some t => if s.up < t then s else (s.setIcv x { s.icv x with settleAt := none }).wrB (fLMF_ICV_STS_SETTLING x) false
    | none => s)

/-- A write of REF (R443, R451): a change discards the conversion in progress and restarts the averaging run. -/
def icvRefWrite (x v : Nat) (s : State) : State :=
  if v = 3 || v = s.rd (fLMF_ICV_CFG_REF x) then s
  else
    let s := s.wr (fLMF_ICV_CFG_REF x) v
    let s := s.setIcv x { s.icv x with discard := true, codes := [], flags := 0 }
    icvSettle x s

/-- ICV_REF_WRITE (R443). -/
def execIcvRefWrite (x : Fin 2) (v : Fin 4) (s : State) : Out := .next (icvRefWrite x v s)

/-- A read of QTIME (R451): the value, and the head entry is removed. -/
def icvPop (x : Nat) (s : State) : State :=
  let v := s.icv x
  let s := s.emit (.readData (rLMF_ICV_QTIME x) (s.rd (fLMF_ICV_QTIME_NS32 x)))
  icvShow x (s.setIcv x { v with queue := v.queue.drop 1 })

/-- ICV_QUEUE_POP (R451). -/
def execIcvQueuePop (x : Fin 2) (s : State) : Out := .next (icvPop x s)

/-! ### Start, swap and stop (R430, R443, R448) -/

/-- LMF_STS.LAT_US, rounded to the nearest µs. -/
def lmfLat (s : State) : State := s.wr fLMF_STS_LAT_US ((s.estDelay + 500) / 1000)

/-- Local measurement starts in S4, or the AFE domain comes back (R430, R443, R448). -/
def lmfStart (s : State) : State :=
  let on : Bool := match s.img with | some i => i.local_ | none => false
  let s := s.setLmf { running := on }
  if !on then s
  else
    let s := (List.range 8).foldl (fun s c => sdRestart c s) s
    let s := icvSettle 1 (icvSettle 0 s)
    let s := s.setLmf { s.lmf with plausDue := s.up + s.rd fLMF_PLAUS_CFG_PLAUS_S * 1000000000, next := s.clv.nextTick }
    startConversion 0 (lmfLat s)

/-- Local measurement is shed (R55, R448): nothing in progress is completed. -/
def lmfStop (s : State) : State := icvShow 1 (icvShow 0 ((s.setLmf {}).wrB fLMF_STS_RUNNING false))

/-- An image swap (R448): `same c` and `sameScan x e` say whose settings are unchanged. -/
def lmfSwap (same : Nat → Bool) (sameScan : Nat → Nat → Bool) (s : State) : State :=
  let on : Bool := match s.img with | some i => i.local_ | none => false
  if !on then lmfStop s
  else if !s.lmf.running then lmfStart s
  else
    let s := (List.range 8).foldl (fun s c => if same c then s else sdRestart c (s.setSd c {})) s
    let s := (List.range 2).foldl (fun s x =>
      let s := (List.range 16).foldl (fun s e =>
        if sameScan x e then s else s.setLmf { s.lmf with pub := s.lmf.pub.filter fun p => p.1 ≠ s.rd (fLMF_ICV_SCAN_AN_IDX x e) }) s
      match (s.icv x).run with
      | some r =>
        let again := if s.on (fLMF_ICV_SCAN_EN x r.entry) then some (s.scanRun x r.entry) else none
        if sameScan x r.entry then s else s.setIcv x { s.icv x with run := again, codes := [], flags := 0 }
      | none => s) s
    lmfLat s

end Sys2Proof.Machine
end

