-- ==== Sys2Proof/Machine/Images.lean ====
section
/-!
DEFINITION. Running an image: the register fields it sets (R472), its start at S4 or by selection (R471, R468), and what each unit
keeps at a swap (R470, R185, R216, R227, R262, R305, R356, R448, R502).
-/

namespace Sys2Proof.Machine

/-! ### Register fields of an image -/

def pgh100 (ns : Nat) : Nat := min 65535 (ns / 100000)

/-- A slot group's registers (R190). -/
def groupRegs (i : Image) (g : Nat) (s : State) : State :=
  let c : GroupCfg := if groupBound (some i) g then groupOf (some i) g else { marginUs := 0, quant := 0 }
  let s := ((s.wr (fPGH_GRP_CFG_POLICY g) c.policy).wr (fPGH_GRP_CFG_LATE_PATH g) c.latePath).wrB (fPGH_GRP_CFG_CFG_POLICY g) c.holdCfg
  let s := (s.wr (fPGH_GRP_CFG_QUANT g) c.quant).wr (fPGH_GRP_CFG_MARGIN_US g) c.marginUs
  if c.policy = 0 then (s.wr (fPGH_GRP_LIM_STS_W_MAX g) 0).wr (fPGH_GRP_LIM_STS_W_MIN g) 0
  else (s.wr (fPGH_GRP_LIM_STS_W_MAX g) (pgh100 (groupMax i c))).wr (fPGH_GRP_LIM_STS_W_MIN g) (pgh100 (groupMin i c))

/-- A capture definition's registers (R358). -/
def snareRegs (i : Image) (k : Nat) (s : State) : State :=
  match i.snare[k]? with
  | none => ((s.wr (fSNR_LEN_CFG_ROW_LEN k) 0).wr (fSNR_PRE_CFG_PRE k) 0).wr (fSNR_POST_CFG_POST k) 0 |>.wr (fSNR_LEN_CFG_SIGNALS k) 0
  | some c =>
    let s := ((s.wrB (fSNR_DEF_CFG_REARM k) c.afterNand).wrB (fSNR_DEF_CFG_AUTO_EN k) c.autoEn).wrB (fSNR_DEF_CFG_ARM_AT_START k) c.armAtStart
    let s := ((s.wr (fSNR_DEF_CFG_AUTO_S k) c.autoS).wr (fSNR_LEN_CFG_ROW_LEN k) (snrRowLen c / 64)).wr (fSNR_LEN_CFG_SIGNALS k) c.signals.length
    (s.wr (fSNR_PRE_CFG_PRE k) c.pre).wr (fSNR_POST_CFG_POST k) c.post

/-- A pulse output's registers (R312). -/
def pulseRegs (i : Image) (k : Nat) (s : State) : State :=
  match i.acc.pulses[k]? with
  | none => (s.wrB (fACC_PLS_CFG_OWNED k) false).wr (fACC_PLS_WT_WEIGHT k) 0
  | some p =>
    let owned := i.owners.any fun o => o.kind = 0 && o.owner = 3 && o.ownerIndex = k
    let s := ((s.wrB (fACC_PLS_CFG_OWNED k) owned).wr (fACC_PLS_CFG_PIN k) p.pin).wr (fACC_PLS_CFG_REG k) p.reg
    (s.wr (fACC_PLS_CFG_CUT k) p.cut).wr (fACC_PLS_WT_WEIGHT k) p.weight

/-- Units of 100 ns, rounded up. -/
def hns (ns : Nat) : Nat := min 65535 ((ns + 99) / 100)

/-- The fields that sections held as settings give. -/
def sectionRegs (slot : Nat) (i : Image) (s : State) : State :=
  let s := (List.range 64).foldl (fun s n =>
    let c := i.ports.getD n {}
    (s.wr (fPORT_CFG_MODE n) c.mode).wr (fPORT_CFG_DUP n) c.dup) s
  let s := s.wr fING_STS_BOUND i.bindings.length
  let s := ((s.wr fPGH_CFG_HORIZON i.horizon).wr fPGH_CFG_GUARD_US i.guardMax).wr fPGH_STS_GROUPS (usedGroups (some i)).length
  let s := (List.range 16).foldl (fun s g => groupRegs i g s) s
  let s := ((s.wrB fTMB_CFG_OVERRUN i.hold).wr fTMB_CFG_SLOT slot).wr fTMB_CFG_ITEMS i.items.length
  let s := s.wr fTMB_CFG_G0_SPAN (hns i.proof.g0Span)
  let has (u k : Nat) : Bool := i.items.any fun it => it.unit = u && it.kernel = k
  let s := ((s.wr fSPEC_CFG_SIGNALS i.spec.sigs.length).wr fSPEC_CFG_BINS i.spec.bins.length).wr fSPEC_CFG_BANDS i.spec.bands.length
  let s := (s.wrB fSPEC_CFG_TRK_EN (has 2 1)).wrB fSPEC_CFG_DEF_EN (has 1 2)
  let s := (s.wr fCOH_CFG_BRANCHES i.coh.branches.length).wr fCOH_CFG_NODES i.coh.nodes
  let s := ((s.wr fALM_CFG_DESTS i.alm.dests.length).wr fALM_CFG_GOCBS i.alm.goose.length).wr fALM_CFG_ALARMS i.alm.alarms.length
  let s := (s.wr fALM_G0_CFG_TX_BOUND (hns ((i.proof.bounds.map fun b => b.2).foldl max 0))).wr fALM_G0_CFG_PIO_BOUND (hns (pioBound i))
  let s := (List.range 8).foldl (fun s d => s.wr (fALM_DEST_STS_PORT d) ((i.alm.dests[d]?.map fun x => x.port).getD 0)) s
  let s := ((s.wr fACC_CFG_PULSES i.acc.pulses.length).wr fACC_CFG_BRANCHES i.acc.branches.length).wr fACC_CFG_CUTSETS i.acc.cuts.length
  let s := (List.range 8).foldl (fun s k => pulseRegs i k s) s
  let s := ((s.wr fEGR_CFG_AMD_SLOTS i.amdSlots).wr fEGR_CFG_RAW (i.outs.filter fun o => o.format = 2).length).wr fEGR_CFG_STREAMS i.outs.length
  let s := ((s.wr fSNR_CFG_SIGNALS (i.snare.map fun d => d.signals.length).sum).wr fSNR_CFG_NAND_MIB i.snareNandMib).wr fSNR_CFG_DEFS i.snare.length
  let s := (List.range 16).foldl (fun s p => s.wrB (fSNR_PIO_CFG_OWNED p) (i.owners.any fun o => o.kind = 0 && o.index = p && o.owner = 4)) s
  let s := (List.range 4).foldl (fun s k => snareRegs i k s) s
  let s := s.wrB fPAIR_CFG_EN i.paired
  let s := (s.wr fPMC_CFG_TICK_CTRS (i.counters.filter fun c => c.event ≠ 0 && !c.port).length).wr fPMC_CFG_PORT_CTRS
    (i.counters.filter fun c => c.event ≠ 0 && c.port).length
  let s := s.wr fDOM_XCLASS_CFG_ROUNDTRIP (i.crossing.zipIdx.foldl (fun m x => if x.1 = 1 then m + 2 ^ x.2 else m) 0)
  ((s.wr fTMB_IMG_STS_SVN i.svn).wr fTMB_IMG_BUILD_LO_B_LO i.buildId).wr fTMB_IMG_BUILD_HI_B_HI (i.buildId / 2 ^ 32)

/-- SLOT0 and SLOT1 of TMB_IMG_STS (R473). -/
def slotSync (s : State) : State :=
  let st (k : Nat) : Nat :=
    if s.img.isSome && s.rd fTMB_CFG_SLOT = k then 2 else if (s.nand.slots.getD k none).isSome then 1 else 0
  (s.wr fTMB_IMG_STS_SLOT0 (st 0)).wr fTMB_IMG_STS_SLOT1 (st 1)

/-- Every field the image sets starts at its value. -/
def imageRegs (old : Option Image) (slot : Nat) (i : Image) (s : State) : State :=
  let s := loadRegs (match old with | some o => o.regs | none => []) i.regs s
  slotSync (sectionRegs slot i s)

/-! ### Start (R471, R468, R164) -/

/-- The whole second at which ticks begin is no earlier than the next one from here (R77). -/
def raiseTickSecond (s : State) : State :=
  match s.clv.tickSecond with
  | some sec => s.setClv { s.clv with tickSecond := some (max sec ((s.clv.now + 999999999) / 1000000000)) }
  | none => s

/-- The totals restored at S0, for the image's cut sets and pulse outputs. -/
def accFit (i : Image) (s : State) : State :=
  s.setAcc { s.acc with cuts := (List.range i.acc.cuts.length).map fun c => s.cutSt c,
                        pulses := (List.range i.acc.pulses.length).map fun k => s.pulseSt k }

/-- Run an image from `slot` as S4 does: nothing carries over from an image that ran before. -/
def startImage (slot : Nat) (i : Image) (s : State) : State :=
  let old := s.img
  let s := { s with img := some i, oldImg := none, swap := none, swapTick := 0 }
  let s := imageRegs old slot i s
  let s := s.setPgh { stats := s.learnedUnder i, learnDue := s.up + 60000000000 }
  let s := (s.setTmb {}).setIng {}
  let s := { s with spec := {}, coh := { run := { branches := branchInit i.coh } }, alm := {}, egr := {}, snr := {} }
  let s := accFit i (s.setPmc { s.pmc with ctrs := [], opened := [] })
  let s := lmfStart s
  let s := if i.paired then seek (s.wrB fPAIR_STS_FORCED false) else setRole roleUnpaired s
  raiseTickSecond s

/-! ### A swap (R470) -/

/-- A stream's CFGCNT counts the swaps that changed its configuration frame (R326). -/
def carryCfgCnt (old new : Image) : Image :=
  { new with outs := new.outs.zipIdx.map fun x =>
      let n : Nat := match old.outs[x.2]? with
        | some o => ((o.blocks.head?.map fun b => b.cfgCnt).getD 0 + (if cfgContent o = cfgContent x.1 then 0 else 1)) % 65536
        | none => 0
      { x.1 with blocks := x.1.blocks.map fun b => { b with cfgCnt := n } } }

/-- Ingress under the new image: its configurations with CFG_GEN 0, connections that it keeps (R136, R129). The first record of a
stream whose configuration or generation changes carries CFG_NEW. -/
def ingSwap (old new : Image) (s : State) : State :=
  let moved (b : Binding) : Bool :=
    let st := s.stream b.stream
    st.gen ≠ 0 || st.cfg ≠ (new.streams[b.stream]?).bind fun x => x.cfg
  let s := (new.bindings.filter moved).foldl (fun s b =>
    (s.setIngSlot b.slot { s.ingSlot b.slot with cfgNew := true, rate := none }).setHist b.slot { fresh := true }) s
  let late (r : SlotRecord) : SlotRecord := { r with old := r.old || !bindingKept (some old) (some new) r.slot }
  let lateJob (j : ParseJob) : ParseJob := { j with recs := j.recs.map fun l => l.map late }
  let s := mapJobs lateJob s
  let s := s.setIng { s.ing with streams := [], reportDue := s.up, arrivals := s.ing.arrivals.map late }
  s.ing.tcp.foldl (fun s c =>
    if old.tcp[c.1]? = new.tcp[c.1]? then s else (s.emit (.ctl "tcpclose" c.1 [])).setTcp c.1 1) s

/-- Pigeonhole's statistics of the slots whose binding and group definition stay (R185), histories of those whose resampling stays too, and
COL_OFS (R165). -/
def pghSwap (old new : Image) (s : State) : State :=
  let both (p : Binding → Binding → Bool) (sl : Nat) : Bool := bindingKept (some old) (some new) sl &&
    match bindingOf (some old) sl, bindingOf (some new) sl with
    | some a, some b => p a b
    | _, _ => false
  let stays := both fun a b => a.group = b.group && groupOf (some old) a.group = groupOf (some new) b.group
  let alike := both fun a b => a.rsmp = b.rsmp && a.offsetNs = b.offsetNs
  let shift : Int := match s.pgh.rates with
    | some c => if c.new = rateOfCode new.rateCode && c.old = rateOfCode old.rateCode then (c.sec * c.old : Nat) - (c.sec * c.new : Nat) else 0
    | none => 0
  s.setPgh { s.pgh with stats := s.pgh.stats.filter fun x => stays x.1, hist := s.pgh.hist.filter fun x => alike x.1 || x.2.fresh,
                        colOfs := (((s.pgh.colOfs : Int) + shift) % 64).toNat }

/-- Alarms, GOOSE blocks and output streams that both images define alike go on; the others start afresh. The spec gives no rule
(log entry 35). -/
def outSwap (old new : Image) (s : State) : State :=
  let alarm (k : Nat) : Bool := old.alm.alarms[k]? = new.alm.alarms[k]?
  let goose (k : Nat) : Bool := old.alm.goose[k]? = new.alm.goose[k]?
  let strm (k : Nat) : Bool := old.outs[k]?.map cfgContent = new.outs[k]?.map cfgContent && (old.outs[k]?.map fun o => o.dests) = new.outs[k]?.map fun o => o.dests
  let dest (d : Nat) : Bool := old.alm.dests[d]? = new.alm.dests[d]?
  let s := s.setAlm { s.alm with alarms := s.alm.alarms.filter fun x => alarm x.1, goose := s.alm.goose.filter fun x => goose x.1,
                                 macs := s.alm.macs.filter fun x => dest x.1, unresolved := s.alm.unresolved.filter dest,
                                 hb := s.alm.hb.filter fun x => dest x.1, resolveAt := 0 }
  let s := (List.range new.alm.alarms.length).foldl (fun s k => if alarm k then s else s.setAlmSt k (s.freshAlarm k)) s
  s.setEgr { s.egr with streams := s.egr.streams.filter fun x => strm x.1 }

/-- PRP_OFS runs on across a rate change (R323). -/
def prpSwap (k : Nat) (s : State) : State :=
  match s.pgh.rates with
  | some c =>
    if k = c.sec * c.new && c.old ≠ c.new then
      let d : Int := ((c.sec * c.old : Nat) : Int) - (c.sec * c.new : Nat)
      s.setEgr { s.egr with prpOfs := (((s.egr.prpOfs : Int) + d * 64) % 65536).toNat }
    else s
  | none => s

/-- Settings of a measurement channel and of a scan entry are the same in both images (R448). -/
def sdSame (old new : Image) (c : Nat) : Bool :=
  [fLMF_SD_CFG_EN c, fLMF_SD_CFG_PRESET c, fLMF_SD_SCALE_SCALE c, fLMF_SD_DLY_CFG_DLY_NS c].all fun f => imgField old f = imgField new f
def scanSame (old new : Image) (x e : Nat) : Bool :=
  [fLMF_ICV_SCAN_EN x e, fLMF_ICV_SCAN_PUBLISH x e, fLMF_ICV_SCAN_AN_IDX x e, fLMF_ICV_SCAN_NM1 x e, fLMF_ICV_SCAN_S x e,
    fLMF_ICV_SCAN_CHANNEL x e].all fun f => imgField old f = imgField new f

/-- A port whose mode the new image changes loses its link (log entry 35). -/
def portSwap (old new : Image) (s : State) : State :=
  (List.range 64).foldl (fun s n =>
    if (old.ports.getD n {}).mode = (new.ports.getD n {}).mode then s else portLinkLost n s) s

/-- Pairing under the new image (R405, R419, R456). A swap of a pair is carried out on both (R408), so a partner that ran the old image runs the
new one. -/
def pairSwap (old new : Image) (s : State) : State :=
  let s := joinSwap s
  let s := s.setPair { s.pair with helloIn := s.pair.helloIn.map fun h => (h.1, if h.2 = old.digest then new.digest else h.2) }
  if !new.paired then (if old.paired then setRole roleUnpaired (s.setPair {}) else s)
  else if !old.paired || s.role = roleMismatch then seek s
  else s

/-- Every unit's carry-over rule, at the activation of instance k. -/
def swapUnits (old new : Image) (k : Nat) (s : State) : State :=
  let s := pghSwap old new (ingSwap old new s)
  let s := cohSwap (some old) (some new) (specSwap (some old) (some new) s)
  let s := accSwap old.acc new.acc k s
  let s := snareSwap 6 old new k s
  let s := prpSwap k (outSwap old new (pmcSwap (some old) (some new) s))
  let s := lmfSwap (sdSame old new) (scanSame old new) s
  pairSwap old new (tstOff (portSwap old new s))

/-- The activation of instance k (R470): the SWAP commit, ACTIVE_SLOT, the IMAGE_SWAP record, PENDING; then the units. -/
def applySwap (i : Image) (slot k : Nat) (s : State) : State :=
  let old := s.img.getD {}
  let new := carryCfgCnt old i
  let s := if old.acc.cuts.isEmpty then s else commitNow 3 s
  let s := { s with mram := { s.mram with activeSlot := slot } }
  let s := postAt k 0x07 (le 8 k ++ le 1 slot ++ le 3 0) s
  let s := (s.wrB fTMB_IMG_STS_PENDING false).wr64 fTMB_SWAP_LO_K_LO 0
  let s := { s with img := some new, oldImg := some old, swap := none, swapTick := k }
  let s := imageRegs (some old) slot new s
  let s := s.setTmb { s.tmb with insts := s.tmb.insts.map fun x => { x with old := true }, oldStates := s.tmb.states, states := [] }
  swapUnits old new k s

/-- The old image is let go once no instance of it runs and no column of its ticks is open (R216). -/
def dropOld (s : State) : State :=
  if s.oldImg.isSome && !(s.live.any fun i => i.old) && !(s.pgh.cols.any fun c => c.inst < s.tickInst s.swapTick) then
    let s := accEnd s
    { s with oldImg := none, tmb := { s.tmb with oldStates := [] }, spec := { s.spec with oldSdft := none, oldTrk := none, oldDef := none }, coh := { s.coh with old := none } }
  else s

end Sys2Proof.Machine
end

