-- ==== Sys2Proof/Machine/Sequencer.lean ====
section
/-!
DEFINITION. The sequencer's rows (R191–R217): activation, dispatch, start, retirement, promotion, memory errors; and the latch of
the item inspection registers (R222).
-/

namespace Sys2Proof.Machine

/-! ### Activation (R192, R193, R216, R470, R418) -/

/-- The tick of the next instance: one that a reseat skips has none (R82, R216). -/
def State.nextInst (s : State) : Nat :=
  match s.clv.skip with
  | some (f, c) => if f ≤ s.tmb.next && s.tmb.next < f + c then f + c else s.tmb.next
  | none => s.tmb.next

/-- The conditions of R192. Under DEFER the instance before may still be active, once the token that closes C(n) has been processed. -/
def State.canActivate (s : State) (n : Nat) : Bool :=
  let prevDone : Bool := match s.tmb.insts.getLast? with | some i => i.complete | none => true
  let hold : Bool := match s.img with | some i => i.hold | none => true
  let closed : Bool := s.pgh.closed.any fun c => c.1 = n
  s.ticking && s.img.isSome && s.clv.now ≥ s.tickInst n &&
    (s.live.isEmpty || (!hold && s.live.length < 2 && (prevDone || closed)))

/-- A swap or a join due at n takes effect; where a reseat has skipped its tick, at the first instance after it. -/
def applyDue (n : Nat) (s : State) : State :=
  match s.swap with
  | some (i, slot, k) => if n = k || s.tickInst k < s.tickInst n then applySwap i slot n s else s
  | none => s

/-- Make instance `n` of the table of the image in force; `dead`: it will be abandoned without having been active (R214). A table that an error
has hit is reloaded before (R217). -/
def openInst (n : Nat) (dead : Bool) (s : State) : State :=
  let s := joinAt n (applyDue n s)
  let its := match s.img with | some i => i.items | none => []
  let runs := its.map fun it => ({ cls := it.cls } : ItemRun)
  let s := if s.tmb.reload then s.eccWrite 3 0 else s
  s.setTmb { s.tmb with insts := s.tmb.insts ++ [{ tick := n, dead := dead, runs := runs, tune := s.cohTune }], next := (s.nextRun n).1, reload := false }

def activate (n : Nat) (s : State) : State :=
  let s := openInst n false s
  let t := checkComplete n (tmbRefresh (s.ev 0x342))
  instancesDone s t

/-- INSTANCE_ACTIVATE. -/
def execInstanceActivate (s : State) : Out :=
  .next (if s.canActivate s.nextInst then activate s.nextInst s else s)

/-! ### Dispatch (R198 to R201, R207, R208) -/

/-- The item is served by the Gong port: its class in the table is 0. -/
def gongItem (it : Item) : Bool := it.cls = 0

/-- The queues an item may enter: its engine's, its lane's, or those of its pool. -/
def places (it : Item) : List Nat :=
  if it.unit ≠ 0 then [32 + it.unit]
  else if it.lane ≠ 0x3F then [it.lane]
  else if gongItem it then [0, 1, 2, 3] else (List.range 28).map fun x => x + 4

/-- The place with the fewest queued entries, the lowest-numbered among equals, where it has room. -/
def State.placeFor (s : State) (it : Item) : Option Nat :=
  match places it with
  | [] => none
  | p :: ps =>
    let best := ps.foldl (fun a b => if (s.queue b).length < (s.queue a).length then b else a) p
    if (s.queue best).length < queueCap best then some best else none

/-- The READY items a port serves, with tick, index, class now, entry; oldest instance first, then lowest index. -/
def State.readyItems (s : State) (gong : Bool) : List (Nat × Nat × Nat × Item) :=
  (s.live.map fun i => i.runs.zipIdx.filterMap fun x =>
    match (s.items i)[x.2]? with
    | some it => if x.1.st = .ready && gongItem it == gong then some (i.tick, x.2, x.1.cls, it) else none
    | none => none).flatten

/-- R200: the first item of the lowest class that can be placed, and its place. -/
def State.pickItem (s : State) (gong : Bool) : Option (Nat × Nat × Item × Nat) :=
  let can := (s.readyItems gong).filterMap fun x => (s.placeFor x.2.2.2).map fun p => (x.1, x.2.1, x.2.2.1, x.2.2.2, p)
  match can with
  | [] => none
  | x :: xs =>
    let b := xs.foldl (fun a y => if y.2.2.1 < a.2.2.1 then y else a) x
    some (b.1, b.2.1, b.2.2.2.1, b.2.2.2.2)

/-- The slots an item's operands count. -/
def itemSlots (it : Item) : List Nat :=
  (it.ops.map fun o => match o with
    | .cells f k _ _ _ _ _ => (List.range k).map fun x => f + x
    | _ => []).flatten

/-- A READY item enters a queue. -/
def enqueueItem (n j p : Nat) (it : Item) (s : State) : State :=
  match s.inst? n with
  | none => s
  | some i =>
    let s := s.setInst (Machine.setRun i j { runOf i j with st := .queued, place := some p })
    let s := laneSync p (prefetch p (s.setQueue p (s.queue p ++ [(n, j)])))
    tmbSync (traceDispatch (itemSlots it) n j s)

/-- ITEM_DISPATCH: one port places one item. -/
def execItemDispatch (gong : Bool) (s : State) : Out :=
  .next (match s.pickItem gong with
    | some (n, j, it, p) => enqueueItem n j p it (s.ev (if gong then 0x351 else 0x352))
    | none => s)

/-! ### Running (R203 to R207, R209) -/

/-- The head of a place's queue starts, its operands in its bank: those fetched while the item before ran, or fetched now. The next item in
the queue is then fetched into the other bank (R204). -/
def startItem (p n j : Nat) (q : List (Nat × Nat)) (late : Bool) (s : State) : State :=
  let has : Bool := ((s.inst? n).bind fun i => (runOf i j).bank).isSome
  let s := if has then s else fetchItem p n j s
  match s.inst? n with
  | none => s
  | some i =>
    let s := s.setInst (Machine.setRun i j { runOf i j with st := .running, startAt := s.clv.now })
    let s := prefetch p ((s.setQueue p q).setRunning p (some (n, j)))
    let s := if late && p < 32 then s.ev (0x47 + 8 * p) else s
    tmbSync (laneSync p s)

/-- ITEM_START: `late` says whether the fetch was not complete when the item before retired (R204). -/
def execItemStart (place : Fin 38) (late : Bool) (s : State) : Out :=
  .next (match s.runningAt place, s.queue place with
    | none, (n, j) :: q => if s.laneStalled place then s else startItem place n j q late s
    | _, _ => s)

/-- Header FLAGS at the retire (R209). -/
def retireFlags (r : ItemRun) (stale : Bool) : Nat :=
  r.flags ||| (if stale then 2 else 0) ||| (if r.lsUe || !r.fetchUe.isEmpty then 4 else 0) ||| (if r.promoted then 16 else 0) |||
    (if r.deferred then 32 else 0)

def putState (b : StateBlk) (bs : List StateBlk) : List StateBlk := bs.filter (fun x => x.item ≠ b.item) ++ [b]

/-- A lane's counts at a retire: items, busy time, cycles by class (their split is free, R507), COST_OVER (R205). -/
def laneRetire (p n j cycles : Nat) (r : ItemRun) (it : Item) (s : State) : State :=
  let s := (s.inc (fLANE_ITEMS_CNT_ITEMS p)).ev (0x45 + 8 * p)
  let masked := s.freeVal 22 % (cycles + 1)
  let s := (s.nextFree.ev (0x40 + 8 * p) (cycles - masked)).ev (0x41 + 8 * p) masked
  let s := match s.inst? n with
    | some i => s.setInst { i with busy := smInsert i.busy p (smGet 0 i.busy p + (s.clv.now - r.startAt)) }
    | none => s
  if cycles > it.cost then
    postAt n 0x42 (itemPayload n j p 1) ((s.flag (fLANE_FLT_FLAGS p) 2).flag fTMB_FLT_FLAGS 4)
  else s

/-- The running item of a place retires with its result. -/
def retireItem (p n j extra : Nat) (i : Inst) (it : Item) (s : State) : State :=
  let r := runOf i j
  let stale := s.staleNow n
  let cycles := if p < 32 then kernelCost it + extra else it.cost
  let s := s.setInst (Machine.setRun i j { r with st := .retired, bank := none, flags := retireFlags r stale, cycles := cycles,
                                                   retireAt := some s.clv.now })
  let s := State.eccWrite 5 2 (prefSync p (s.setRunning p none))
  let s := match r.stateOut with
    | some ws =>
      let b : StateBlk := { item := j, tick := n, words := ws }
      State.eccWrite 5 3 (if i.old then s.setTmb { s.tmb with oldStates := putState b s.tmb.oldStates }
        else s.setTmb { s.tmb with states := putState b s.tmb.states })
    | none => s
  let s := if p < 32 then laneRetire p n j cycles r it s else s
  let s := traceRetire n j stale (laneSync p s)
  let s := match snrPrepIndex (s.items i) j with
    | some k => snareRetire n k stale s
    | none => s
  let t := tmbRefresh (checkComplete n s)
  dropOld (instancesDone s t)

/-- A composer's item waits for a full queue (R333). -/
def State.composerWaits (s : State) (n j : Nat) : Bool := s.egr.waits.any fun w => w.tick = n && w.item = j

/-- ITEM_RETIRE: the item running at a place, once its kernel or engine has computed it; `extra` is the number of cycles by which a
hardware fault has lengthened a lane's run (R205). -/
def execItemRetire (place : Fin 38) (extra : Nat) (s : State) : Out :=
  .next (match s.runningAt place with
    | none => s
    | some (n, j) =>
      match s.inst? n with
      | none => s
      | some i =>
        match (s.items i)[j]? with
        | none => s
        | some it =>
          if (runOf i j).data.isNone || s.laneStalled place || s.composerWaits n j then s else retireItem place n j extra i it s)

/-! ### Promotion (R202) -/

/-- Promote one READY item at the comparison of instant `t`. -/
def promoteItem (t n j : Nat) (s : State) : State :=
  match s.inst? n with
  | none => s
  | some i =>
    let r := runOf i j
    let age := if r.cls = 3 then s.rd fTMB_AGE_CFG_AGE3_US else if r.cls = 2 then s.rd fTMB_AGE_CFG_AGE2_US else 0
    if r.st = .ready && age ≠ 0 && t - r.readyAt > age * 1000 then
      let s := s.setInst (Machine.setRun i j { r with cls := r.cls - 1, readyAt := t, promoted := true })
      ((s.ev 0x354).inc fTMB_PROMOTE_CNT_ITEMS).flag fTMB_FLT_FLAGS 7
    else s

/-- AGE_PROMOTION: the comparison of the present µs, made once. -/
def execAgePromotion (s : State) : Out :=
  .next (
    let us := s.clv.now / 1000
    if us ≤ s.tmb.lastUs then s
    else
      let s := s.setTmb { s.tmb with lastUs := us }
      s.live.foldl (fun s i => (List.range i.runs.length).foldl (fun s j => promoteItem (us * 1000) i.tick j s) s) s)

/-! ### Errors (R217) -/

/-- TABLE_SRAM_UE: an ECC event in the table SRAM; an uncorrectable one lies in item `item`'s entry, in instance `n`. -/
def execTableSramUe (e : EccErr) (n : Nat) (item : Fin 4096) (s : State) : Out :=
  .next (match e with
    | .corrected k => s.inc fTMB_ECC_CNT_CE k
    | .lost =>
      let l := match s.inst? n with | some i => laneOf (runOf i item) | none => 0x3F
      let s := s.setTmb { s.tmb with reload := true }
      let s := (s.flag fTMB_FLT_FLAGS 5).inc fTMB_ECC_CNT_UE
      let s := abdicate abdTableUe false (postAt n 0x44 (itemPayload n item l 1) s)
      let t := tmbRefresh (checkComplete n (abandonItem n item s))
      dropOld (instancesDone s t))

/-- LANE_LS_UE: an ECC event in a lane's local store; an uncorrectable one during a run. -/
def execLaneLsUe (e : EccErr) (lane : Fin 32) (s : State) : Out :=
  .next (match e, s.runningAt lane with
    | .corrected k, _ => s.inc (fLANE_ECC_CNT_CE lane) k
    | .lost, none => s
    | .lost, some (n, j) =>
      let s := match s.inst? n with
        | some i => s.setInst (Machine.setRun i j { runOf i j with lsUe := true })
        | none => s
      let s := (s.flag (fLANE_FLT_FLAGS lane) 0).inc (fLANE_ECC_CNT_UE lane)
      abdicate abdLaneUe false (postAt n 0x45 (itemPayload n j lane 1) s))

/-- Fetch operand `k` of a running item again, once its record has become missing. -/
def refetch (n j k : Nat) (o : Operand) (s : State) : State :=
  match s.inst? n with
  | none => s
  | some i =>
    let r := runOf i j
    s.setInst (Machine.setRun i j { r with bank := r.bank.map fun l => l.set k (s.fetchNow i j n false o) })

/-- FETCH_UE: in operand `k` of the item running at a place; for CELLS operands, in the record of `slot`. -/
def execFetchUe (place : Fin 38) (k : Nat) (slot : Fin 8192) (s : State) : Out :=
  .next (match s.runningAt place with
    | none => s
    | some (n, j) =>
      match s.inst? n with
      | none => s
      | some i =>
        match ((s.items i)[j]?.bind fun it => it.ops[k]?) with
        | none => s
        | some (.close _) => s
        | some (.cells f c h a d pf pn) =>
          if f ≤ slot.val && slot.val < f + c then refetch n j k (.cells f c h a d pf pn) (recordUe n slot (s.ev 0x36B)) else s
        | some _ =>
          let r := runOf i j
          let s := (s.ev 0x36B).setInst (Machine.setRun i j { r with fetchUe := r.fetchUe ++ [k] })
          let s := if place.val < 32 then s.flag (fLANE_FLT_FLAGS place) 1 else s
          postAt n 0x46 (itemPayload n j (laneOf r) 1) s)

/-! ### Item inspection (R222) -/

/-- STATE of an item's run; DEFERRED stands for WAITING, READY and QUEUED of a deferred item (R197). -/
def itemStCode (r : ItemRun) : Nat :=
  match r.st with
  | .running => 4
  | .retired => 5
  | .abandoned => 7
  | .waiting => if r.deferred then 6 else 1
  | .ready => if r.deferred then 6 else 2
  | .queued => if r.deferred then 6 else 3

/-- A write to TMB_ITEM_SEL latches the selected item's registers. -/
def itemSelect (v : Nat) (s : State) : State :=
  let j := v % 4096
  let s := (s.wr fTMB_ITEM_SEL_ITEM j).wrB fTMB_ITEM_SEL_PREV (v.testBit 16)
  let insts := s.tmb.insts.filter fun i => !i.dead
  let back := if v.testBit 16 then 2 else 1
  let inst? := if insts.length < back then none else insts[insts.length - back]?
  let put (st cls img lane unit outst : Nat) (s : State) : State :=
    let s := ((s.wr fTMB_ITEM_STS_STATE st).wr fTMB_ITEM_STS_CLASS_NOW cls).wr fTMB_ITEM_STS_CLASS_IMG img
    ((s.wr fTMB_ITEM_STS_LANE lane).wr fTMB_ITEM_STS_UNIT unit).wr fTMB_ITEM_STS_OUTSTANDING outst
  let none_ (s : State) : State := (s.wr fTMB_ITEM_RETIRE_STS_REL_NS 0x80000000).wr fTMB_ITEM_CYC_STS_CYCLES 0
  match inst? with
  | none =>
    match s.img.bind fun i => i.items[j]? with
    | some it => none_ (put 0 it.cls it.cls 0x3F it.unit 0 s)
    | none => none_ (put 0 0 0 0x3F 0 0 s)
  | some i =>
    match (s.items i)[j]? with
    | none => none_ (put 0 0 0 0x3F 0 0 s)
    | some it =>
      let r := runOf i j
      let s := put (itemStCode r) r.cls it.cls (laneOf r) it.unit (s.outstanding i j) s
      let s := match r.retireAt with
        | some t => s.wrSat fTMB_ITEM_RETIRE_STS_REL_NS ((t : Int) - s.closeOf i.tick)
        | none => s.wr fTMB_ITEM_RETIRE_STS_REL_NS 0x80000000
      s.wr fTMB_ITEM_CYC_STS_CYCLES r.cycles

end Sys2Proof.Machine
end

