-- ==== Sys2Proof/Machine/Mailbox.lean ====
section
/-!
DEFINITION. The mailbox, the command scheduler and completion (R474–R488, R498, R500, R501).
-/

namespace Sys2Proof.Machine

/-! ### Status codes (R478) and commands (R484, R489–R497) -/

abbrev stOk : Nat := 0
abbrev stBusy : Nat := 1
abbrev stBadArg : Nat := 3
abbrev stAuth : Nat := 4
abbrev stState : Nat := 5
abbrev stNoSpace : Nat := 6
abbrev stTimeout : Nat := 7
abbrev stFault : Nat := 8

/-- MBX_FLT bits (R482). -/
abbrev mfRingBusy : Nat := 0
abbrev mfBadArgw : Nat := 1
abbrev mfDma : Nat := 2
abbrev mfPerst : Nat := 3
abbrev mfPowerLost : Nat := 4

/-- Resource bits (R484). -/
abbrev resImg : Nat := 1
abbrev resKey : Nat := 2
abbrev resCrypto : Nat := 4
abbrev resTime : Nat := 8
abbrev resNand : Nat := 256
abbrev resAcc : Nat := 512
abbrev resPair : Nat := 1024

/-- What the command tables say of an opcode: ROM level, argument words, resources, level at the Bench (`none`: not issued there),
whether it has a commit point (R498), whether it moves data by DMA. -/
structure CmdInfo where
  lvl : Nat
  argc : Nat
  claims : Nat := 0
  bench : Option Nat := none
  commit : Bool := false
  dma : Bool := false
deriving DecidableEq, Repr

/-- The argument count of KEY_LOAD follows the length of the wrapped material, and that of SNARE_EXPORT its target (log entry 37). -/
def cmdInfo? (op : Nat) (args : List Nat) : Option CmdInfo :=
  let a (i : Nat) : Nat := args.getD i 0
  let nand : Bool := a 1 = 1
  match op with
  | 0x0001 => some { lvl := 3, argc := 0, bench := some 0 }
  | 0x0002 => some { lvl := 3, argc := 0, bench := some 0 }
  | 0x0003 => some { lvl := 3, argc := 1, bench := some 2, commit := true }
  | 0x0101 => some { lvl := 3, argc := 1, claims := resTime, bench := some 2, commit := true }
  | 0x0201 => some { lvl := 3, argc := 4, claims := resImg + resNand, commit := true, dma := true }
  | 0x0202 => some { lvl := 3, argc := 3, claims := resImg, bench := some 2, commit := true }
  | 0x0203 => some { lvl := 3, argc := 0, claims := resImg, bench := some 2 }
  | 0x0204 => some { lvl := 3, argc := 1, bench := some 0 }
  | 0x0205 => some { lvl := 4, argc := 1, claims := resImg + resNand, bench := some 2, commit := true }
  | 0x0301 => some { lvl := 3, argc := 27, claims := resKey, commit := true }
  | 0x0302 => some { lvl := 3, argc := if a 2 / 4 % 8 = 2 then 10 else 14, claims := resKey, commit := true }
  | 0x0303 => some { lvl := 3, argc := 1, claims := resKey, bench := some 2, commit := true }
  | 0x0304 => some { lvl := 3, argc := 1, claims := resKey, bench := some 2, commit := true }
  | 0x0305 => some { lvl := 3, argc := 1, claims := resCrypto }
  | 0x0306 => some { lvl := 3, argc := 13, claims := resCrypto, dma := true }
  | 0x0307 => some { lvl := 4, argc := 12, claims := resCrypto, dma := true }
  | 0x0401 => some { lvl := 3, argc := 6, dma := true }
  | 0x0402 => some { lvl := 4, argc := 3, dma := true }
  | 0x0501 => some { lvl := 3, argc := 1, bench := some 1 }
  | 0x0502 => some { lvl := 3, argc := if nand then 2 else 5,
                     claims := (if a 0 < 4 then 2 ^ (4 + a 0) else 0) + (if nand then resNand else 0),
                     bench := if nand then some 1 else none, commit := nand, dma := !nand }
  | 0x0503 => some { lvl := 4, argc := 3, claims := resNand, dma := true }
  | 0x0504 => some { lvl := 4, argc := 4, claims := resNand, dma := true }
  | 0x0505 => some { lvl := 4, argc := 1, claims := resNand, bench := some 2, commit := true }
  | 0x0601 => some { lvl := 3, argc := 1, claims := resAcc, bench := some 2, commit := true }
  | 0x0701 => some { lvl := 5, argc := 0, claims := resPair, bench := some 2 }
  | 0x0702 => some { lvl := 3, argc := 1, claims := resPair, bench := some 2 }
  | 0x0703 => some { lvl := 5, argc := 0, claims := resPair, bench := some 2 }
  | _ => none

/-- The resources a command claims: pair-wide ones claim PAIR too on a paired module. -/
def State.claimsOf (s : State) (op : Nat) (c : CmdInfo) : Nat :=
  if s.paired && (op = 0x0202 || op = 0x0203 || op = 0x0601) then c.claims + resPair else c.claims

/-! ### The scheduler's state -/

def State.setMbx (s : State) (m : Mbx) : State := { s with mbx := m }

/-- The source byte of Chest records (R500). -/
def srcCode : CmdSrc → Nat
  | .chan c => c
  | .bench => 4
  | .partner => 5

/-- The command of a source that has not completed. -/
def State.cmd? (s : State) (src : CmdSrc) : Option Running := s.mbx.run.find? fun r => r.src = src

def State.putCmd (s : State) (r : Running) : State :=
  s.setMbx { s.mbx with run := s.mbx.run.map fun x => if x.src = r.src then r else x }

/-- The resources held (R484). -/
def State.heldRes (s : State) : Nat := s.mbx.run.foldl (fun m r => m ||| r.claims) 0

/-- MBX_SRC_STS, QUEUED and PAIR_WAIT as the scheduler stands. -/
def mbxSync (s : State) : State :=
  let s := s.wr fMBX_SRC_STS_HELD s.heldRes
  (List.range 4).foldl (fun s c =>
    let s := s.wrB (fMBX_STS_QUEUED c) (s.mbx.wait.contains (.chan c))
    s.wrB (fMBX_STS_PAIR_WAIT c) (match s.cmd? (.chan c) with | some r => r.waitTo.isSome | none => false)) s

/-- MBX_MISUSE (R500). -/
def mbxMisuse (src : CmdSrc) (bit op : Nat) (s : State) : State :=
  post 0xB2 (le 1 (srcCode src) ++ le 1 bit ++ le 2 op) (s.flag fMBX_FLT_FLAGS bit)

/-- The note of R480. -/
def setNote (src : CmdSrc) (op : Nat) (s : State) : State :=
  { s with mram := { s.mram with notes := s.mram.notes.filter (fun x => x.1 ≠ srcCode src) ++ [(srcCode src, op)] } }
def clearNote (src : CmdSrc) (s : State) : State :=
  { s with mram := { s.mram with notes := s.mram.notes.filter fun x => x.1 ≠ srcCode src } }

/-! ### Acceptance (R475, R477, R484, R485) -/

/-- A command arrives: it is refused at once, waits for the key store, or holds its resources. -/
def acceptCmd (src : CmdSrc) (op argw : Nat) (args : List Nat) (tag : Nat) (s : State) : State :=
  let r : Running := { src := src, opcode := op, args := args, tag := tag }
  let push (r : Running) (s : State) : State := mbxSync (s.setMbx { s.mbx with run := s.mbx.run ++ [r] })
  let refuse (st : Nat) (s : State) : State := push { r with done := some (st, []) } s
  match cmdInfo? op args with
  | none => refuse stBadArg s
  | some c =>
    let s := if c.commit then setNote src op s else s
    if c.lvl > s.rd fSYS_ID_STS_ROMLVL then refuse stBadArg s
    else if argw < c.argc || argw > 62 then refuse stBadArg (mbxMisuse src mfBadArgw op s)
    else
      let cl := s.claimsOf op c
      let r := { r with dma := c.dma }
      if cl &&& s.heldRes = 0 then push { r with claims := cl } s
      else if cl = resKey && s.mbx.wait.length < 8 then push r (s.setMbx { s.mbx with wait := s.mbx.wait ++ [src] })
      else refuse stBusy s

/-- A write of 1 to MBX_DOORBELL_c.RING. -/
def ringDoorbell (c : Nat) (s : State) : State :=
  if s.rd (fMBX_STS_STATE c) = 1 then mbxMisuse (.chan c) mfRingBusy (s.rd (fMBX_CMD_OPCODE c)) s
  else
    let argw := s.rd (fMBX_CMD_ARGW c)
    let args := (List.range (min argw 62)).map fun w => s.rd (fMBX_ARG_ARG c w)
    let tag := s.rd (fMBX_CMD_TAG c)
    let s := ((s.wr (fMBX_STS_STATE c) 1).wr (fMBX_STS_TAG c) tag).wr (fMBX_PROG_KIB c) 0
    acceptCmd (.chan c) (s.rd (fMBX_CMD_OPCODE c)) argw args tag s

/-- Text printed at the Bench: an OK or ERR line ends every command (R516). -/
def benchErr (st : Nat) (s : State) : State := s.emit (.bench "ERR" [st])

/-- Input at the Bench: the first character opens the session, at VIEW (R516, R500). -/
def benchInput (s : State) : State :=
  let s := if s.bench.open_ then s
    else post 0xB3 (le 1 1 ++ le 1 0 ++ le 2 0) { s with bench := { s.bench with open_ := true, openedAt := s.up } }
  { s with bench := { s.bench with lastIn := s.up } }

/-- A command line typed at the Bench (R486, R516): refused for its level, or a name not issued there, it ends at once. -/
def benchCmd (op : Nat) (args : List Nat) (s : State) : State :=
  if !s.stewAlive then s
  else
    let s := benchInput s
    match (cmdInfo? op args).bind fun c => c.bench with
    | some l => if s.rd fBUR_BENCH_STS_LEVEL ≥ l then acceptCmd .bench op args.length args 0 s else benchErr stState s
    | none => benchErr stBadArg s

/-! ### Running a command -/

/-- What a run of a command comes to: done with a status and result words; still to go on, keeping these words; or done here and
waiting for the partner for at most `ns`. -/
inductive Reply where
  | done (st : Nat) (ws : List Nat)
  | later (memo : List Nat)
  | partner (st : Nat) (ws : List Nat) (ns : Nat)
deriving DecidableEq, Repr

/-- Run the accepted command of a source, if it is this one and has not been done; one from the Bench is accepted first. -/
def runCmd (op : Nat) (src : CmdSrc) (args : List Nat) (f : Running → State → Reply × State) (s : State) : State :=
  let s := if src = .bench && (s.cmd? .bench).isNone then benchCmd op args s else s
  match s.cmd? src with
  | none => s
  | some r =>
    if r.opcode ≠ op || r.done.isSome || s.mbx.wait.contains src then s
    else
      let (a, s) := f r s
      mbxSync (s.putCmd (match a with
        | .done st ws => { r with done := some (st, ws) }
        | .later memo => { r with memo := memo }
        | .partner st ws ns => { r with done := some (st, ws), waitTo := some (s.up + ns) }))

/-- Argument word i, and the 64-bit value of words i and i + 1 (R488). -/
def Arg (r : Running) (i : Nat) : Nat := r.args.getD i 0
def Arg64 (r : Running) (i : Nat) : Nat := Arg r i + 2 ^ 32 * Arg r (i + 1)

/-- A 64-bit value as two words. -/
def words64 (v : Nat) : List Nat := [v % 2 ^ 32, v / 2 ^ 32 % 2 ^ 32]

/-- A byte string packed in words (R488). -/
def packWords (b : Bytes) : List Nat := wordsOf b

/-- KiB moved by a command's DMA (R481). -/
def progress (src : CmdSrc) (bytes : Nat) (s : State) : State :=
  match src with
  | .chan c => s.wr (fMBX_PROG_KIB c) (bytes / 1024)
  | _ => s

/-- A DMA that failed with a PCI Express error (R478). -/
def dmaError (s : State) : Reply × State := (.done stFault [], s.flag fMBX_FLT_FLAGS mfDma)

/-- Data written to host memory; with what is moved. -/
def dmaOut (src : CmdSrc) (addr : Nat) (bytes : Bytes) (s : State) : State :=
  progress src bytes.length (if bytes.isEmpty then s else (s.ev 0x36D).emit (.dma addr bytes))

/-- A pair-wide command on a paired module without authority (R487, R408). -/
def State.pairRefuses (s : State) (r : Running) : Bool := s.paired && !s.authority && r.src ≠ .partner

/-- The partner takes part in a pair-wide command. -/
def State.pairTells (s : State) (r : Running) : Bool := s.paired && s.authority && s.on fPAIR_STS_PARTNER_UP && r.src ≠ .partner

/-! ### Completion (R476, R480, R487, R500) -/

/-- The first command waiting for the key store goes on once it is free (R485). -/
def nextWaiting (s : State) : State :=
  match s.mbx.wait with
  | [] => s
  | src :: rest =>
    if (s.heldRes &&& resKey) ≠ 0 then s
    else
      let s := s.setMbx { s.mbx with wait := rest }
      match s.cmd? src with
      | some r => s.putCmd { r with claims := resKey }
      | none => s

/-- Result words, status, vector and record of a command that completes, by its source. -/
def complete (r : Running) (st : Nat) (ws : List Nat) (s : State) : State :=
  let s := clearNote r.src (s.setMbx { s.mbx with run := s.mbx.run.filter fun x => x.src ≠ r.src })
  let ws := ws.take 62
  let s := match r.src with
    | .chan c =>
      let s := (List.range 62).foldl (fun s w => s.wr (fMBX_RES_RES c w) (ws.getD w 0)) s
      let s := (((s.wr (fMBX_STS_STATE c) 2).wr (fMBX_STS_STATUS c) st).wr (fMBX_STS_RESW c) ws.length).wr (fMBX_STS_TAG c) r.tag
      let s := if c = 3 then s.smEvent 3 else s
      if s.on (fMBX_CFG_VEC_EN c) then s.msix (s.rd (fMBX_CFG_VEC c)) else s
    | .bench => s.emit (.bench "status" (r.opcode :: st :: ws))
    | .partner => s.sendForward 1 (be 2 r.opcode ++ be 1 st ++ (ws.map fun w => be 4 w).flatten)
  let commit : Bool := match cmdInfo? r.opcode r.args with | some c => c.commit | none => false
  let s := if commit || r.opcode / 256 = 7 || st = stAuth then
      post 0xB0 (le 1 (srcCode r.src) ++ le 1 st ++ le 2 r.opcode ++ le 1 r.tag ++ le 3 0 ++ le 4 (Arg r 0)) s
    else s
  mbxSync (nextWaiting s)

end Sys2Proof.Machine
end

