-- ==== Sys2Proof/Machine/Commands.lean ====
section
/-!
DEFINITION. System, time, image and pair commands (R81, R465–R471, R489, R490, R497), the NOP of both kinds, and the completion
of every command.
-/

namespace Sys2Proof.Machine

/-! ### System and time (R489) -/

/-- NOP: kernel 0x3F for a running item (R219), or the mailbox command 0x0001 (R489). -/
def execNop (n : Nat) (item : Fin 4096) (src : Option CmdSrc) (args : List Nat) (s : State) : Out :=
  .next (match src with
    | none => runKernel 0x3F (fun k => { data := [], miss := missIn k }) n item s
    | some c => runCmd 0x0001 c args (fun r s => (.done stOk r.args, s)) s)

/-- GET_INFO. -/
def execGetInfo (src : CmdSrc) (args : List Nat) (s : State) : Out :=
  .next (runCmd 0x0002 src args (fun _ s =>
    (.done stOk (s.word rSYS_ID_STS :: words64 Config.serial ++ [Config.macBase % 2 ^ 32, Config.macBase / 2 ^ 32 % 65536]), s)) s)

/-- What MRAM counts since commissioning starts again (R58, R92, R395, R533). -/
def commissionMram (s : State) : State :=
  let s := { s with mram := { s.mram with pwr := { s.mram.pwr with started := false, modRst := 0, taiUtc := 37 },
                                          bur := { s.mram.bur with tamper := 0 } } }
  s.wr fBUR_TAMPER_STS_EVENTS 0

/-- Commission the module (R364): the COMMISSIONED record reaches staging, and Keep begins with it. -/
def commission (s : State) : Nat × State :=
  let s := post 0x01 (le 8 Config.serial) (drainPosts (commissionMram s))
  let seq := s.mram.chs.nextSeq
  let s := drainPosts (s.setChs { s.mram.chs with commissioned := true, keepSeq := seq })
  (seq, (s.wr64 fCHS_KEEP_LO_S_LO seq).wrB fCHS_STS_COMMISSIONED true)

/-- COMMISSION. -/
def execCommission (src : CmdSrc) (args : List Nat) (s : State) : Out :=
  .next (runCmd 0x0003 src args (fun r s =>
    if Arg r 0 ≠ 0x434F4D4D then (.done stBadArg [], s)
    else if s.mram.chs.commissioned then (.done stState [], s)
    else
      let (seq, s) := commission s
      (.done stOk (words64 seq), s)) s)

/-- TIME_RESEAT (R81, R82): the first run checks and starts the wait for 4 samples; a later one fixes the step once they agree, or
finds that 10 s have passed. Where the source and the state both forbid it, ST_BAD_ARG comes first: R81 gives no order (DESIGN CHOICE, log
entry 47). `memo`: source, then D, m and the ticks skipped. -/
def execTimeReseat (src : CmdSrc) (args : List Nat) (s : State) : Out :=
  .next (runCmd 0x0101 src args (fun r s =>
    let c := Arg r 0
    match r.memo, s.clv.wait with
    | [], _ =>
      if c < 1 || c > 3 || !s.srcEnabled c then (.done stBadArg [], s)
      else if s.clvState ≠ clvHoldover && s.clvState ≠ clvStuck then (.done stState [], s)
      else (.later [c], s.setClv { s.clv with wait := some { src := c, deadline := s.up + 10000000000 } })
    | _, some w =>
      if w.got.length ≥ 4 && agree s.jump w.got then
        let s := reseatFix c w.got s
        match s.clv.reseat with
        | some x => (.later [c, ofSigned 64 x.d, x.m, x.skipped], s)
        | none => (.later r.memo, s)
      else if s.up ≥ w.deadline then (.done stTimeout [], s.setClv { s.clv with wait := none })
      else (.later r.memo, s)
    | m, none => (.later m, s)) s)

/-! ### Images (R465, R466, R490) -/

def storeImage (slot : Nat) (i : Option Image) (s : State) : State :=
  slotSync { s with nand := { s.nand with slots := s.nand.slots.set slot i } }

/-- An image is rejected: its record and registers; its status (R465, R391). -/
def rejectImage (slot code : Nat) (s : State) : Nat × State :=
  let s := post 0x08 (le 1 slot ++ le 1 0 ++ le 2 code) (s.wr fTMB_IMG_REJ_STS_CODE code)
  if code / 4096 = 2 then (stAuth, s.flag fBUR_FLT_FLAGS 8) else (stBadArg, s)

/-- Write an image into a slot and check it: status and rejection code. -/
def loadImage (slot : Nat) (bytes : Bytes) (img : Image) (s : State) : Nat × Nat × State :=
  let i := { readImage bytes img with file := bytes }
  match imageReject s bytes i with
  | some c =>
    let (st, s) := rejectImage slot c (storeImage slot none s)
    (st, c, s)
  | none => (stOk, 0, storeImage slot (some i) s)

def State.runs (s : State) (slot : Nat) : Bool := s.img.isSome && s.rd fTMB_CFG_SLOT = slot
def State.pendingSlot (s : State) (slot : Nat) : Bool := match s.swap with | some x => x.2.1 = slot | none => false

/-- The checks before a load into a slot (R466, R490). -/
def State.loadRefused (s : State) (r : Running) (slot len addr : Nat) : Option Nat :=
  if slot > 1 || len > 96 * 1048576 || len % 4 ≠ 0 || addr % 64 ≠ 0 then some stBadArg
  else if s.pairRefuses r then some stState
  else if s.runs slot then some stState
  else if s.pendingSlot slot then some stBusy
  else none

/-- IMAGE_LOAD: `bytes` are those at ADDR in host memory, `img` what their sections hold (log entry 7); `err`: the DMA failed. -/
def execImageLoad (src : CmdSrc) (args : List Nat) (bytes : Bytes) (img : Image) (err : Bool) (s : State) : Out :=
  .next (runCmd 0x0201 src args (fun r s =>
    let slot := Arg r 0
    match s.loadRefused r slot (Arg r 3) (Arg64 r 1) with
    | some st => (.done st [], s)
    | none =>
      if err then dmaError (storeImage slot none s)
      else
        let b := bytes.take (Arg r 3)
        let (st, code, s) := loadImage slot b img (progress src b.length s)
        if s.pairTells r then
          (.partner st [code, 7] 30000000000, s.forwardImage slot b)
        else (.done st [code, 0xF], s)) s)

/-- IMAGE_INFO. -/
def execImageInfo (src : CmdSrc) (args : List Nat) (s : State) : Out :=
  .next (runCmd 0x0204 src args (fun r s =>
    let slot := Arg r 0
    if slot > 1 then (.done stBadArg [], s)
    else
      let st := if slot = 0 then s.rd fTMB_IMG_STS_SLOT0 else s.rd fTMB_IMG_STS_SLOT1
      match s.nand.slots.getD slot none with
      | none => (.done stOk (List.replicate 14 0), s)
      | some i => (.done stOk ([st, i.svn, i.rateCode, i.minRomlvl] ++ words64 i.buildId ++ packWords (be 32 i.digest)), s)) s)

/-- IMAGE_ERASE. -/
def execImageErase (src : CmdSrc) (args : List Nat) (s : State) : Out :=
  .next (runCmd 0x0205 src args (fun r s =>
    let slot := Arg r 0
    if slot > 1 then (.done stBadArg [], s)
    else if s.runs slot || s.pendingSlot slot then (.done stState [], s)
    else (.done stOk [], storeImage slot none s)) s)

/-! ### Swaps (R467 to R469) -/

/-- Make a swap pending. -/
def setSwap (i : Image) (slot k : Nat) (s : State) : State :=
  let r := rateOfCode i.rateCode
  let past : Bool := s.tickInst s.pgh.nextOpen ≥ k / r * 1000000000
  let s := { s with swap := some (i, slot, k) }
  let s := if r = s.rate then s else reopenFrom (k / r) past (s.setPgh { s.pgh with rates := some { sec := k / r, old := s.rate, new := r } })
  ((s.wrB fTMB_IMG_STS_PENDING true).wr fTMB_IMG_STS_PEND_SLOT slot).wr64 fTMB_SWAP_LO_K_LO k

/-- Take a pending swap away. -/
def dropSwap (s : State) : State :=
  let s := match s.swap, s.pgh.rates with
    | some x, some c =>
      if rateOfCode x.1.rateCode = s.rate then s
      else reopenFrom c.sec (s.tickInst s.pgh.nextOpen ≥ c.sec * 1000000000) (s.setPgh { s.pgh with rates := none })
    | _, _ => s
  let s := { (s.setTmb { s.tmb with prepared := false }) with swap := none }
  ((s.wrB fTMB_IMG_STS_PENDING false).wr fTMB_IMG_STS_PEND_SLOT 0).wr64 fTMB_SWAP_LO_K_LO 0

/-- A partition of the new image overlaps a running one and is not identical to it. -/
def partClash (old new : Image) : Bool :=
  new.partitions.any fun p => old.partitions.any fun q => p ≠ q && p.base < q.base + q.size && q.base < p.base + p.size

/-- R467 for k ≠ 0 while ticking. -/
def State.swapStatus (s : State) (r : Running) (i : Image) (k : Nat) : Nat :=
  let new := rateOfCode i.rateCode
  if s.swap.isSome then stBusy
  else if tickInstant new k < s.clv.now + 100000000 then stBadArg
  else if new ≠ s.rate && k % new ≠ 0 then stBadArg
  else if partClash (s.img.getD {}) i then stBadArg
  else if s.pairRefuses r then stState
  else stOk

/-- Select a slot at once (R468): ACTIVE_SLOT, the checks of R471, and the start of the image that it names. -/
def selectSlot (slot : Nat) (i : Image) (s : State) : Reply × State :=
  match imageReject s i.file i with
  | some c =>
    let (st, s) := rejectImage slot c s
    (.done st [0xF], s)
  | none =>
    let s := { s with mram := { s.mram with activeSlot := slot } }
    let s := s.wrB fTMB_IMG_STS_FALLBACK false
    (.done stOk [0xF], if s.pwr.phase = .running then startImage slot i s else s)

/-- IMAGE_SWAP. -/
def execImageSwap (src : CmdSrc) (args : List Nat) (s : State) : Out :=
  .next (runCmd 0x0202 src args (fun r s =>
    let slot := Arg r 0
    let k := Arg64 r 1
    if slot > 1 then (.done stBadArg [], s)
    else
      match s.nand.slots.getD slot none with
      | none => (.done stState [], s)
      | some i =>
        if !s.ticking || s.img.isNone then (if k = 0 then selectSlot slot i s else (.done stState [], s))
        else if s.runs slot then (.done stState [], s)
        else
          let st := s.swapStatus r i k
          if st ≠ stOk then (.done st [], s)
          else
            let s := setSwap i slot k s
            if s.pairTells r then (.partner stOk [7] 100000000, s.sendMirror mirSwap k slot)
            else (.done stOk [0xF], s)) s)

/-- SWAP_CANCEL. -/
def execSwapCancel (src : CmdSrc) (args : List Nat) (s : State) : Out :=
  .next (runCmd 0x0203 src args (fun r s =>
    match s.swap with
    | none => (.done stState [], s)
    | some x =>
      if s.pairRefuses r || s.clv.now + 50000000 > s.tickInst x.2.2 then (.done stState [], s)
      else
        let s := dropSwap s
        if s.pairTells r then
          (.partner stOk [7] 100000000, (s.setMbx { s.mbx with cancelled := some x }).sendMirror mirCancel x.2.2 0)
        else (.done stOk [0xF], s)) s)

/-- SWAP_PREPARE_DONE (R469): the new table is in the second table SRAM, the new image in reserved DRAM. -/
def execSwapPrepareDone (s : State) : Out :=
  .next (if s.swap.isSome && !s.tmb.prepared then State.eccWrite 3 0 (s.setTmb { s.tmb with prepared := true }) else s)

/-! ### Pair commands (R414, R415, R497) -/

/-- PAIR_HANDOVER: it completes at t(j). -/
def execPairHandover (src : CmdSrc) (args : List Nat) (s : State) : Out :=
  .next (runCmd 0x0701 src args (fun r s =>
    if !r.memo.isEmpty then (.later r.memo, s)
    else if !s.paired || s.role ≠ roleActive || s.rd fPAIR_STS_PARTNER_ROLE ≠ roleStandby || !s.partnerFit then (.done stState [], s)
    else
      let (j, s) := startHandover s
      (.later [j], s)) s)

/-- A heartbeat that reports ACTIVE has come within 3 ticks (R415). -/
def State.partnerActive (s : State) : Bool :=
  s.rd fPAIR_STS_PARTNER_ROLE = roleActive && (match s.pair.hbAt with | some t => s.up ≤ t + s.periods 3 | none => false)

/-- PAIR_FORCE: with TAKE it completes once authority has been taken. -/
def execPairForce (src : CmdSrc) (args : List Nat) (s : State) : Out :=
  .next (runCmd 0x0702 src args (fun r s =>
    if !r.memo.isEmpty then (.later r.memo, s)
    else if !s.paired || (s.role ≠ roleUnsynced && s.role ≠ roleSeeking) then (.done stState [], s)
    else if (Arg r 0).testBit 0 && s.partnerActive then (.done stState [], s)
    else
      let s := post 0xAC (le 1 (if (Arg r 0).testBit 0 then 1 else 0) ++ le 3 0) (s.wrB fPAIR_STS_FORCED true)
      if (Arg r 0).testBit 0 then (.later [1], takeNext s) else (.done stOk [s.role], s)) s)

/-- PAIR_JOIN. -/
def execPairJoin (src : CmdSrc) (args : List Nat) (s : State) : Out :=
  .next (runCmd 0x0703 src args (fun _ s =>
    if !s.paired || s.role ≠ roleUnsynced then (.done stState [], s) else (.done stOk [], beginJoin s)) s)

/-! ### Completion (R476, R487) -/

/-- The outcome of a command that waited for the partner; `none`: no report came in time. -/
def partnerEnd (r : Running) (st : Nat) (ws : List Nat) (report : Option Nat) (s : State) : Nat × List Nat × State :=
  let p := report.getD 7
  if r.opcode = 0x0201 then (st, [ws.getD 0 0, p], s)
  else if p = stOk && report.isSome then (stOk, [stOk], s.setMbx { s.mbx with cancelled := none })
  else
    let s := if r.opcode = 0x0202 then dropSwap s
      else match s.mbx.cancelled with
        | some (i, slot, k) => setSwap i slot k (s.setMbx { s.mbx with cancelled := none })
        | none => s
    (if report.isSome then stState else stTimeout, [p], s)

/-- The newest ZERO commit of a selection: its instance m. -/
def State.zeroDone (s : State) (sel : Nat) : Nat :=
  ((s.mram.acc.slots.filterMap fun x => x.bind fun a => match a.zero with
    | some (c, m) => if c = sel then some (a.gen, m) else none
    | none => none).foldl (fun b x => if x.1 ≥ b.1 then x else b) (0, 0)).2

/-- The status and result of a command still running, once what it waits for has come. -/
def State.waited (s : State) (r : Running) : Option (Nat × List Nat) :=
  match r.opcode with
  | 0x0101 =>
    match r.memo with
    | [_, d, m, sk] => if s.clv.reseat.isNone then some (stOk, words64 d ++ words64 m ++ [sk]) else none
    | _ => none
  | 0x0601 =>
    match r.memo with
    | [due] => if s.acc.zero.any fun z => z.1 = Arg r 0 && z.2.1 = due then none else some (stOk, words64 (s.zeroDone (Arg r 0)) ++ [0xF])
    | _ => none
  | 0x0701 =>
    match r.memo with
    | [j] => if s.pair.move.isSome then none else if s.role = roleStandby then some (stOk, words64 j) else some (stState, [])
    | _ => none
  | 0x0702 => if !r.memo.isEmpty && s.pair.move.isNone then some (stOk, [s.role]) else none
  | _ => none

/-- SNARE_EXPORT to NAND ends: the file has its final CRC, and under AFTER_NAND the definition is released and armed again (R494). -/
def exportEnd (r : Running) (s : State) : Nat × List Nat × State :=
  let k := Arg r 0
  let number := r.memo.getD 0 0
  let files := s.nand.snr.map fun f => if f.number = number then { f with complete := true } else f
  let len := match files.find? fun f => f.number = number with | some f => f.bytes.length | none => 0
  let s := snrSync ({ s with nand := { s.nand with snr := files } }.wrB (fSNR_DEF_STS_EXPORTING k) false)
  let s := if s.rd (fSNR_DEF_CFG_REARM k) = 1 then snareArm k (snareRelease k s) else s
  (stOk, words64 len ++ [number], s)

/-- MBX_COMMAND_COMPLETE: the command of a source completes, if it can; `report` is the status the partner has reported (R487). None
completes while the steward core is in reset (R531). -/
def execMbxCommandComplete (src : CmdSrc) (report : Option Nat) (s : State) : Out :=
  .next (if !s.stewAlive then s else match s.cmd? src with
    | none => s
    | some r =>
      match r.done with
      | some (st, ws) =>
        match r.waitTo with
        | none => complete r st ws s
        | some t =>
          if report.isNone && s.up < t then s
          else
            let (st, ws, s) := partnerEnd r st ws report s
            complete r st ws s
      | none =>
        if r.opcode = 0x0502 && !r.memo.isEmpty then
          let (st, ws, s) := exportEnd r s
          complete r st ws s
        else match s.waited r with
          | some (st, ws) => complete r st ws s
          | none => s)

end Sys2Proof.Machine
end

