-- ==== Sys2Proof/Machine/StoreCommands.lean ====
section
/-!
DEFINITION. Chest, Snare and accounting commands (R492–R496, R353–R355), and the pair messages that carry commands and pair-wide
operations (R403, R408, R487).
-/

namespace Sys2Proof.Machine

/-! ### The Chest (R492, R493) -/

/-- What a bulk copy has gathered: its bytes, records, the SEQ to ask for next, GONE and SKIPPED. -/
structure CopyAcc where
  bytes : Bytes := []
  count : Nat := 0
  next : Nat := 0
  gone : Bool := false
  skipped : Bool := false
deriving DecidableEq, Repr

/-- Copy at most `room` sequence numbers, up to `max` records in `len` bytes. -/
def copyRecs (s : State) (max len : Nat) : Nat → CopyAcc → CopyAcc
  | 0, a => a
  | room + 1, a =>
    if a.count ≥ max then a
    else match s.recLookup a.next with
      | .notYet => a
      | .gone => copyRecs s max len room { a with next := a.next + 1, gone := true }
      | .skipped => copyRecs s max len room { a with next := a.next + 1, skipped := true }
      | .fault => copyRecs s max len room { a with next := a.next + 1 }
      | .found r =>
        if a.bytes.length + recLen r > len then a
        else copyRecs s max len room { a with bytes := a.bytes ++ recBytes r, count := a.count + 1, next := a.next + 1 }

/-- CHEST_COPY. -/
def execChestCopy (src : CmdSrc) (args : List Nat) (err : Bool) (s : State) : Out :=
  .next (runCmd 0x0401 src args (fun r s =>
    let first := Arg64 r 0
    let n := Arg r 2
    let len := Arg r 5
    if n < 1 || n > 65536 || Arg64 r 3 % 64 ≠ 0 || len < 256 || len > 64 * 1048576 then (.done stBadArg [], s)
    else if err then dmaError s
    else
      let a := copyRecs s n len (s.mram.chs.nextSeq - first) { next := first }
      let s := dmaOut src (Arg64 r 3) a.bytes s
      (.done stOk ([a.count] ++ words64 a.next ++ [a.bytes.length, (if a.gone then 1 else 0) + (if a.skipped then 2 else 0)]), s)) s)

/-- CHEST_LID_COPY. -/
def execChestLidCopy (src : CmdSrc) (args : List Nat) (err : Bool) (s : State) : Out :=
  .next (runCmd 0x0402 src args (fun r s =>
    if Arg64 r 0 % 64 ≠ 0 || Arg r 2 < 4096 then (.done stBadArg [], s)
    else if err then dmaError s
    else (.done stOk [s.mram.chs.lid.length], dmaOut src (Arg64 r 0) (s.mram.chs.lid.map recBytes).flatten s)) s)

/-! ### Snare (R494, R353 to R355) -/

/-- SNARE_TRIGGER. -/
def execSnareTrigger (src : CmdSrc) (args : List Nat) (s : State) : Out :=
  .next (runCmd 0x0501 src args (fun r s =>
    let k := Arg r 0
    if k ≥ 4 || (s.snrCfg? k).isNone then (.done stBadArg [], s)
    else if !s.ticking then (.done stState [], s)
    else
      let st := s.rd (fSNR_DEF_STS_STATE k)
      let t := snareHostTrig k s
      if st = snrIdle || st = snrComplete then (.done stState [], t)
      else (.done stOk (t.rd (fSNR_DEF_STS_STATE k) :: words64 (t.snrDef k).t0), t)) s)

/-- An export ended by an error: EXPORT_FAIL and its record; the capture stays COMPLETE (R354). -/
def exportFail (k : Nat) (s : State) : State :=
  let s := (s.wrB (fSNR_DEF_STS_EXPORTING k) false).flag fSNR_FLT_FLAGS 5
  snrSync (post 0x82 (le 1 k ++ le 3 0 ++ le 8 (s.snrDef k).t0) s)

/-- Begin an export to NAND: the file is written, its final CRC comes at completion (R355, R498). -/
def exportNand (k : Nat) (c : SnrDefCfg) (s : State) : Reply × State :=
  match snareToNand k c s with
  | (none, s) => (.done stNoSpace [], s)
  | (some n, s) =>
    let files := s.nand.snr.map fun f => if f.number = n then { f with complete := false } else f
    let s := { s with nand := { s.nand with snr := files } }
    (.later [n], snrSync (s.wrB (fSNR_DEF_STS_EXPORTING k) true))

/-- SNARE_EXPORT. An export waits for rows still to be written to its ring. -/
def execSnareExport (src : CmdSrc) (args : List Nat) (err : Bool) (s : State) : Out :=
  .next (runCmd 0x0502 src args (fun r s =>
    let k := Arg r 0
    if !r.memo.isEmpty then (.later r.memo, s)
    else if k ≥ 4 || Arg r 1 > 1 || (Arg r 1 = 0 && Arg64 r 2 % 64 ≠ 0) then (.done stBadArg [], s)
    else match (s.snrDef k).cfg with
      | none => (.done stState [], s)
      | some c =>
        if s.rd (fSNR_DEF_STS_STATE k) ≠ snrComplete then (.done stState [], s)
        else if s.snrPending k then (.later [], s)
        else if Arg r 1 = 1 then exportNand k c s
        else
          let file := s.snrFileBytes k c
          if file.length > Arg r 4 then (.done stNoSpace [], s)
          else if err then dmaError (exportFail k s)
          else (.done stOk (words64 file.length), dmaOut src (Arg64 r 2) file s)) s)

/-- A list entry of SNARE_NAND_LIST (R494). -/
def fileEntry (f : SnrFile) : Bytes := le 4 f.number ++ f.head.take 8 ++ le 8 f.t0 ++ le 8 f.bytes.length ++ le 4 0

/-- SNARE_NAND_LIST. -/
def execSnareNandList (src : CmdSrc) (args : List Nat) (err : Bool) (s : State) : Out :=
  .next (runCmd 0x0503 src args (fun r s =>
    let n := s.nand.snr.length
    if Arg64 r 0 % 64 ≠ 0 then (.done stBadArg [], s)
    else if Arg r 2 < 32 * n then (.done stNoSpace [], s)
    else if err then dmaError s
    else (.done stOk [n], dmaOut src (Arg64 r 0) (s.nand.snr.map fileEntry).flatten s)) s)

/-- SNARE_NAND_READ. -/
def execSnareNandRead (src : CmdSrc) (args : List Nat) (err : Bool) (s : State) : Out :=
  .next (runCmd 0x0504 src args (fun r s =>
    match s.nand.snr.find? fun f => f.number = Arg r 0 with
    | none => (.done stBadArg [], s)
    | some f =>
      if Arg64 r 1 % 64 ≠ 0 then (.done stBadArg [], s)
      else if Arg r 3 < f.bytes.length then (.done stNoSpace [], s)
      else if err then dmaError s
      else (.done stOk (words64 f.bytes.length), dmaOut src (Arg64 r 1) f.bytes s)) s)

/-- SNARE_NAND_DELETE: numbers start at 1 again once the store is empty. -/
def execSnareNandDelete (src : CmdSrc) (args : List Nat) (s : State) : Out :=
  .next (runCmd 0x0505 src args (fun r s =>
    let all : Bool := Arg r 0 = 0xFFFFFFFF
    let hit := s.nand.snr.filter fun f => all || f.number = Arg r 0
    if hit.isEmpty && !all then (.done stBadArg [], s)
    else
      let left := s.nand.snr.filter fun f => !(all || f.number = Arg r 0)
      let s := { s with nand := { s.nand with snr := left, snrNext := if left.isEmpty then 1 else s.nand.snrNext } }
      (.done stOk [hit.length], snrSync s)) s)

/-! ### Accounting (R495, R496) -/

/-- ACC_ZERO: it completes at the ZERO commit. -/
def execAccZero (src : CmdSrc) (args : List Nat) (s : State) : Out :=
  .next (runCmd 0x0601 src args (fun r s =>
    let c := Arg r 0
    let n := match s.img with | some i => i.acc.cuts.length | none => 0
    if !r.memo.isEmpty then (.later r.memo, s)
    else if c > 511 && c ≠ 0xFFFF then (.done stBadArg [], s)
    else if s.img.isNone then (.done stState [], s)
    else if c ≠ 0xFFFF && c ≥ n then (.done stBadArg [], s)
    else if !s.ticking || s.pairRefuses r then (.done stState [], s)
    else
      let due := s.up + 2000000
      if s.pairTells r then
        let m := s.mirrorTick
        (.later [due], (s.setAcc { s.acc with zero := s.acc.zero ++ [(c, due, some m)] }).sendMirror mirZero m c)
      else (.later [due], s.setAcc { s.acc with zero := s.acc.zero ++ [(c, due, none)] })) s)

/-! ### From the partner (R403, R408, R487) -/

/-- A mailbox command that the partner sends: source PARTNER. While one runs, another is answered ST_BUSY. -/
def partnerCmd (op : Nat) (args : List Nat) (s : State) : State :=
  if !s.stewAlive then s
  else if (s.cmd? .partner).isSome then s.sendForward 1 (be 2 op ++ be 1 stBusy) else acceptCmd .partner op args.length args 0 s

/-- The bytes of an image come with the message: they are checked and loaded at once. -/
def partnerImage (slot : Nat) (bytes : Bytes) (img : Image) (s : State) : State :=
  let s := partnerCmd 0x0201 [slot, 0, 0, bytes.length] s
  runCmd 0x0201 .partner [] (fun r s =>
    match s.loadRefused r slot bytes.length 0 with
    | some st => (.done st [], s)
    | none =>
      let (st, code, s) := loadImage slot bytes img s
      (.done st [code], s)) s

def forwarded (f : Fwd) (s : State) : State :=
  match f with
  | .c37 code c => if s.authority then c37Command code c s else s
  | .mailbox op args => partnerCmd op args s
  | .image slot bytes img => partnerImage slot bytes img s

/-- FORWARD (R403, R408). -/
def execForward (m : PairMsg) (f : Fwd) (s : State) : Out := .next (pairRx m (forwarded f) s)

/-- Instance m has been run here. -/
def State.mirrorLate (s : State) (m : Nat) : Bool :=
  (s.tmb.insts.any fun i => i.complete && s.tickInst i.tick ≥ s.tickInst m)

/-- A mirrored operation; one that comes after this module's run of its instance applies at the next run (R408). -/
def mirrored (op inst operand : Nat) (s : State) : State :=
  let late : Bool := s.mirrorLate inst && (op = mirAck || op = mirInh || op = mirZero || op = mirDest)
  let s := if late then s.flag fPAIR_FLT_FLAGS 12 else s
  if op = mirAck || op = mirInh then s.setPair { s.pair with mirrors := s.pair.mirrors ++ [(op, inst, operand)] }
  else if op = mirZero then s.setAcc { s.acc with zero := s.acc.zero ++ [(operand, 0, some inst)] }
  else if op = mirDest then destCmd (some inst) (operand / 32) (operand / 2 % 16) (operand % 2 = 1) s
  else if op = mirSwap then partnerCmd 0x0202 (operand :: words64 inst) s
  else if op = mirCancel then partnerCmd 0x0203 [] s
  else s

/-- MIRROR (R403, R408). -/
def execMirror (m : PairMsg) (op inst operand : Nat) (s : State) : Out := .next (pairRx m (mirrored op inst operand) s)

end Sys2Proof.Machine
end

