-- ==== Sys2Proof/Machine/Domains.lean ====
section
/-!
DEFINITION. Clock domains (R520, R533), which accesses each serves (R536), and what a reset of the STEW, AFE, PRX or PCIE domain does
(R529–R531). The register domains' crossings are taken to deliver at once (log entry 9), so a reset finds no request unacknowledged but the
held accesses.
-/

namespace Sys2Proof.Machine

/-! ### Domain codes and the state of their clocks -/

abbrev domAon : Nat := 0x00
abbrev domStew : Nat := 0x01
abbrev domTime : Nat := 0x02
abbrev domFab : Nat := 0x03
abbrev domMem : Nat := 0x04
abbrev domPcie : Nat := 0x05
abbrev domAfe : Nat := 0x06
abbrev domPairTx : Nat := 0x07
abbrev domPairRxA : Nat := 0x08
abbrev domPairRxB : Nat := 0x09
abbrev domLane : Nat := 0x10
abbrev domPrx : Nat := 0x40

/-- The domain that serves an offset (R520, R536). Offsets of the LANE block that belong to no lane (0x4000 on) have no domain of the table;
FAB serves them (DESIGN CHOICE, log entry 47). -/
def domOf (off : Nat) : Nat :=
  let b := off / 0x10000
  if b = 0x00 ∨ b = 0x13 then domAon
  else if b = 0x0D ∨ b = 0x14 then domStew
  else if b = 0x01 then domTime
  else if b = 0x10 then domAfe
  else if b = 0x06 ∧ off % 0x10000 < 0x4000 then domLane + off % 0x10000 / 0x800
  else if b = 0x02 ∧ (off % 0x400 = 0x20 ∨ off % 0x400 = 0x28) then domPrx + off % 0x10000 / 0x400
  else domFab

/-- Group `g` of stage `k` is up, or its ramp has begun. -/
def State.groupUp (s : State) (k g : Nat) : Bool :=
  match s.pwr.phase with
  | .start x => x > k || (x = k && (g < s.pwr.groups || (g = s.pwr.groups && s.pwr.ramping)))
  | .running => true
  | _ => false

/-- The clock of a domain runs (R520). -/
def State.alive (s : State) (d : Nat) : Bool :=
  if d = domAon then true
  else if d = domStew then s.stewAlive
  else if d = domTime then s.timeAlive
  else if d = domFab then s.reached 1
  else if d = domMem then s.reached 2
  else if d = domPcie then s.pwr.pcieUp
  else if d = domAfe then s.reached 4
  else if d = domPairTx then s.paired && s.groupUp 2 0
  else if d = domPairRxA then s.on fPAIR_STS_LANE_A
  else if d = domPairRxB then s.on fPAIR_STS_LANE_B
  else if domLane ≤ d ∧ d < domLane + 8 then s.groupUp 3 (d - domLane)
  else if domPrx ≤ d ∧ d < domPrx + 64 then s.link (d - domPrx)
  else false

/-- PTX of port n is alive. Its code 0x20 + n meets the PRX codes from n = 32 on, so `alive` leaves it out (log entry 42). -/
def State.ptxAlive (s : State) (n : Nat) : Bool := s.portMode n ≠ 0 && s.groupUp 2 (n / 16)

/-- The bits of a word for which `p` holds, from index `first`. -/
def bitsOf (n : Nat) (p : Nat → Bool) : Nat := (List.range n).foldl (fun m i => if p i then m + 2 ^ i else m) 0

/-! ### Held accesses (R528, R529) -/

def State.setDom (s : State) (d : Dom) : State := { s with dom := d }

def State.heldOf (s : State) (d : Nat) : List HeldAccess := s.dom.held.filter fun h => h.dom = d

/-- A read's data reaches the host. -/
def State.answer (s : State) (off v : Nat) : State := s.emit (.readData off (v % 2 ^ 32))

/-- A reset of domain `d`: its held reads complete with 0xFFFF_FFFF, its held writes are discarded (R529); each was a request not
acknowledged, so DOM_XLOST_CNT counts it (R531). -/
def abortHeld (d : Nat) (s : State) : State :=
  let l := s.heldOf d
  if l.isEmpty then s
  else
    let s := s.setDom { s.dom with held := s.dom.held.filter fun h => h.dom ≠ d }
    l.foldl (fun s h => if h.val.isNone then s.answer h.off 0xFFFFFFFF else s) ((s.flag fDOM_FLT_FLAGS 0).inc fDOM_XLOST_CNT_EVENTS l.length)

/-- A reset of PCIE: held reads vanish with no completion; held writes stay, those not yet accepted are lost (R529, log entry 41). -/
def dropHeldReads (s : State) : State :=
  let reads := (s.dom.held.filter fun h => h.val.isNone).length
  (s.inc fDOM_XLOST_CNT_EVENTS reads).setDom { s.dom with held := s.dom.held.filter fun h => h.val.isSome, stalled := [] }

/-! ### Resets (R530, R531) -/

/-- Every register field of the block at a 64 KiB base returns to its reset value. -/
def clearBlock (b : Nat) (s : State) : State := { s with regs := s.regs.filter fun e => e.1 / 32 / 0x10000 ≠ b }

/-- COMMAND_LOST for each note of R480; MBX_FLT.POWER_LOST where there is one. -/
def lostNotes (s : State) : State :=
  let notes := s.mram.notes
  let s := { s with mram := { s.mram with notes := [] } }
  if notes.isEmpty then s
  else notes.foldl (fun s n => post 0xB1 (le 1 n.1 ++ le 1 0 ++ le 2 n.2) s) (s.flag fMBX_FLT_FLAGS mfPowerLost)

/-- The Bench session closes; its record says why: 2 logout, 3 idle timeout, 4 start (R500). -/
def benchClose (event : Nat) (s : State) : State :=
  if !s.bench.open_ then s
  else
    let level := s.rd fBUR_BENCH_STS_LEVEL
    let s := { s with bench := { s.bench with open_ := false, chal := none } }
    benchView (post 0xB3 (le 1 event ++ le 1 level ++ le 2 0) s)

/-- The steward core's queues are flushed: posts without a sequence number are suppressed, TCP connections and the STEWARD queues go. -/
def stewardFlush (s : State) : State :=
  let q := s.chs.queue
  let s := { s with chs := { nandOk := s.chs.nandOk } }
  let s := q.foldl (fun s p => suppress p.code s) s
  let s := s.setIng { s.ing with tcpJobs := [] }
  let s := (List.range 256).foldl (fun s c => if s.hasTcp c && s.tcpState c < 4 then tcpClosed c 4 5 s else s) s
  (List.range 64).foldl (fun s n => if (s.egrQ n qSteward).isEmpty then s else s.setEgrQ n qSteward []) s

/-- The STEW domain resets (R530, R531): its registers return to their reset values but for the channels that run; the ROM is down until
it has restarted (log entry 9). -/
def stewardReset (s : State) : State :=
  let running := (List.range 4).filter fun c => s.rd (fMBX_STS_STATE c) = 1
  let tags := running.map fun c => (c, s.rd (fMBX_STS_TAG c))
  let s := stewardFlush (abortHeld domStew s)
  let s := benchClose 4 (clearBlock 0x14 (clearBlock 0x0D s))
  let s := tags.foldl (fun s t => (s.wr (fMBX_STS_STATE t.1) 1).wr (fMBX_STS_TAG t.1) t.2) s
  let exports := s.mbx.run.filter fun r => r.opcode = 0x0502 && !r.memo.isEmpty && r.done.isNone
  let s := exports.foldl (fun s r => exportFail (Arg r 0 % 4) s) s
  let run := s.mbx.run.map fun r => { r with done := some (stFault, []), waitTo := none, memo := [] }
  let s := s.setMbx { s.mbx with run := run, wait := [] }
  (s.setDom { s.dom with stewUp := false }).inc fDOM_CNT_STS_STEWRST_CNT

/-- The ROM has restarted: notes are resolved as R480 states, and the commands that ran have failed with ST_FAULT. -/
def stewardRestart (s : State) : State :=
  if s.dom.stewUp then s
  else
    let s := s.setDom { s.dom with stewUp := true }
    let s := lostNotes s
    let kept : Running → Bool := fun r => match r.src with
      | .chan _ => true
      | _ => false
    mbxSync (s.setMbx { s.mbx with run := s.mbx.run.filter kept })

/-- PRX_n resets: the frame arriving is rolled back, the receive FIFO is emptied and its frames are counted as dropped. -/
def prxReset (n : Nat) (s : State) : State :=
  let s := abortHeld (domPrx + n) s
  let p := s.port n
  let s := match p.cur with
    | some c => if c.lost then s else rxBad n c.dup c.started (s.inc (fPORT_RUNT_CNT_FRAMES n))
    | none => s
  let s := p.rx.foldl (fun s f => dupDrop f.dup (((s.ev (0x200 + n)).inc (fPORT_DROP_CNT_FRAMES n)))) s
  s.setPort n { s.port n with rx := [], cur := none, job := none, wr := 0, curPtr := 0, rel := 0 }

/-- AFE resets: its registers take their reset values, the image's among them; channels restart, scans begin from their first conversion. -/
def afeReset (s : State) : State :=
  let s := clearBlock 0x10 (abortHeld domAfe s)
  let fs := match s.img with | some i => i.regs.filter fun r => r.1 / 32 / 0x10000 = 0x10 | none => []
  lmfStart (loadRegs [] fs s)

/-- The targets that DOM_RST_CTL accepts. -/
def domRstTarget (target : Nat) : Bool := target = domStew || target = domAfe || (domPrx ≤ target && target < domPrx + 64)

/-- A write to DOM_RST_CTL with GO (R533): accepted for STEW, AFE and PRX, and not while a commit runs. -/
def domReset (target word : Nat) (s : State) : State :=
  if !domRstTarget target || s.shedding then s.flag fDOM_FLT_FLAGS 1
  else
    let s := postModeChange rDOM_RST_CTL 0 word s
    if target = domStew then stewardReset s
    else if target = domAfe then afeReset s
    else prxReset (target - domPrx) s

/-- A write to DOM_RST_CTL. -/
def domRstWrite (v : Nat) (s : State) : State := if v.testBit 31 then domReset (v % 128) (v % 2 ^ 32) s else s

/-- DMA of running commands stops: each ends with ST_FAULT and sets PERST_ABORT (R479); a Snare export fails (R354). -/
def abortDma (s : State) : State :=
  let dma := s.mbx.run.filter fun r => r.dma && r.done.isNone
  let s := dma.foldl (fun s r => if r.opcode = 0x0502 then exportFail (Arg r 0 % 4) s else s) s
  let s := if dma.isEmpty then s else s.flag fMBX_FLT_FLAGS mfPerst
  mbxSync (s.setMbx { s.mbx with run := s.mbx.run.map fun r => if r.dma && r.done.isNone then { r with done := some (stFault, []) } else r })

/-- What every PCI Express reset does (R338, R479, R529, R541). -/
def pcieReset (s : State) : State := { abortDma (ringsReset (dropHeldReads s)) with smArmed := true }

end Sys2Proof.Machine
end

