-- ==== Sys2Proof/Machine/Registers.lean ====
section
/-!
DEFINITION. Host accesses to the register window (R6, R7, R528, R535–R540): what a read shows, clears and latches; what a write stores,
ignores or sets off; and accesses held for a stopped domain.
-/

namespace Sys2Proof.Machine

/-! ### The SM-640 window's aliases (R540) -/

/-- The native register behind an alias of the window. -/
def aliasOf (off : Nat) : Nat :=
  if off = rSM_CMD then rMBX_CMD 3
  else if off = rSM_GO then rMBX_DOORBELL 3
  else if off = rSM_CMD_STS then rMBX_STS 3
  else if rSM_ARG 0 ≤ off ∧ off < rSM_ARG 62 then rMBX_ARG 3 0 + (off - rSM_ARG 0)
  else if rSM_RES 0 ≤ off ∧ off < rSM_RES 62 then rMBX_RES 3 0 + (off - rSM_RES 0)
  else off

/-- Index of an offset within an array of registers. -/
def idx (off base stride : Nat) : Nat := (off - base) / stride

/-! ### What a read shows -/

/-- Clave's time as a reader sees it: TIME_SKEW adds SKEW_NS (R514). -/
def State.readerNow (s : State) : Nat :=
  ofSigned 64 ((s.clv.now : Int) + (if s.action 7 then s.rdS fTST_SKEW_CFG_SKEW_NS else 0))

/-- The lowest SEQ in Roll; the spec states none for an empty Roll (log entry 43). -/
def State.oldestSeq (s : State) : Nat :=
  match rollRecs s.nand.chs with
  | r :: _ => r.seq
  | [] => s.freeVal 41

/-- The 64-bit value whose low word a register shows and whose high word the read latches. -/
def State.live64 (s : State) (base off : Nat) : Option Nat :=
  if base = rCLV_NOW_LO then some s.readerNow
  else if base = rCHS_SEQ_LO then some s.mram.chs.nextSeq
  else if base = rCHS_KEEP_LO then some s.mram.chs.keepSeq
  else if base = rCHS_OLDEST_LO then some s.oldestSeq
  else if base = rSM_TICK_LO then some (s.rd64 fPGH_TICK_LO_N_LO)
  else if base ∈ [rPGH_TICK_LO, rTMB_TICK_LO, rTMB_SWAP_LO, rACC_COMMIT_TICK_LO, rSNR_TRIG_LO 0, rBUR_GEN_LO, rPAIR_EPOCH_LO,
      rPAIR_SYNC_TICK_LO, rPAIR_AUTH_TICK_LO, rPMC_SNAP_TICK_LO] then some (s.rd64 ⟨off, 0, 32, 0⟩)
  else none

def State.chsDerived (s : State) (base : Nat) : List (Nat × Nat) :=
  let m := s.mram.chs
  if base = rCHS_STS then
    [(31, boolW m.commissioned), (30, boolW (decide (m.keep.length ≥ 8192))), (29, boolW s.chs.nandOk), (16, m.lid.length), (0, m.staged.length)]
  else if base = rCHS_ROLL_STS then [(16, s.nand.chs.retired), (0, m.keep.length)]
  else []

def State.domDerived (s : State) (base off : Nat) : List (Nat × Nat) :=
  if base = rDOM_ALIVE_STS then [(10, bitsOf 8 fun g => s.alive (domLane + g)), (0, bitsOf 10 s.alive)]
  else if base = rDOM_RXALIVE_STS 0 then [(0, bitsOf 32 fun i => s.alive (domPrx + 32 * idx off base 4 + i))]
  else if base = rDOM_TXALIVE_STS 0 then [(0, bitsOf 32 fun i => s.ptxAlive (32 * idx off base 4 + i))]
  else if base = rDOM_HUNG_STS then
    match s.dom.held.head? with
    | some h => [(31, 1), (24, h.dom), (0, h.off)]
    | none => []
  else if base = rDOM_MODRST_CNT then [(0, s.mram.pwr.modRst)]
  else []

def State.smDerived (s : State) (base : Nat) : List (Nat × Nat) :=
  if base = rSM_CTL then [(0, boolW s.ticking)]
  else if base = rSM_STS then
    [(3, boolW (s.paired && !s.on fPAIR_STS_AUTH)), (2, boolW (s.bit fTMB_FLT_FLAGS 0)), (1, boolW (!s.on fCLV_STS_QUAL_LOST)), (0, boolW s.ticking)]
  else if base = rSM_TIME_NS then [(0, s.readerNow % 1000000000)]
  else []

/-- Clave's quality codes, ERR_NS and offsets as read (R79, R92): E grows with time, and an offset with no usable sample for LOSS_S is unknown. -/
def State.clvDerived (s : State) (base off : Nat) : List (Nat × Nat) :=
  if base = rCLV_NS32_STS then [(0, s.readerNow % 2 ^ 32)]
  else if base = rCLV_STS then [(12, s.statTq), (8, s.tq)]
  else if base = rCLV_ERR_STS then [(0, s.errNs)]
  else if base = rCLV_OFS_STS 0 then (if s.silent (idx off base 4 + 1) then [(0, 0x80000000)] else [])
  else []

def State.portDerived (s : State) (base off : Nat) : List (Nat × Nat) :=
  let p := s.port (idx off base 1024)
  if base = rPORT_STS 0 then [(6, boolW (p.fifo.isEmpty && p.cut.isNone)), (5, boolW (rxUsed p = 0))]
  else if base = rPORT_RXPTR_STS 0 then [(16, rxWr p), (0, p.rel)]
  else if base = rPORT_TXPTR_STS 0 then [(16, p.txWr), (0, p.txRd)]
  else if base = rPORT_PEEK 0 then [(0, match rxOldest p with | some t => t % 2 ^ 32 | none => 0x1D1E1D1E)]
  else []

def State.almDerived (s : State) (base off : Nat) : List (Nat × Nat) :=
  let count (st : Nat) : Nat := ((List.range (almCount s)).filter fun k => (s.almSt k).st = st).length
  if base = rALM_STS then [(16, count 1), (0, count 2)]
  else if base = rALM_INH then [(0, smGet 0 s.alm.inh (s.rd fALM_INH_SEL_WORD))]
  else if base = rALM_DEST_STS 0 then
    let d := idx off base 4
    match (almCfgOf s.img).dests[d]? with
    | some c => [(31, boolW (s.almMac d c).isSome), (30, boolW (s.link c.port))]
    | none => []
  else []

def State.accDerived (s : State) (base off : Nat) : List (Nat × Nat) :=
  if base = rACC_STS then [(16, (s.acc.cuts.filter fun c => !c.pend.isEmpty).length), (2, boolW s.acc.write.isSome)]
  else if base = rACC_PLS_STS 0 then
    match (accCfgOf s.img).pulses[idx off base 16]? with
    | some c => [(1, boolW (s.authority && (s.pio.getD c.pin none).isSome))]
    | none => []
  else if base = rACC_PLS_OWED 0 then [(0, min (s.pulseSt (idx off base 16)).due 0xFFFFFFFF)]
  else []

/-- Streams with a destination that is sending (R339). -/
def State.streamsOn (s : State) : Nat :=
  let outs : List OutStream := match s.img with | some i => i.outs | none => []
  ((outs.zipIdx).filter fun x => s.sendMask x.2 x.1 ≠ 0).length

/-- Fields whose value is a view of other state: low bit and value. -/
def State.derived (s : State) (base off : Nat) : List (Nat × Nat) :=
  let b := base / 0x10000
  if b = 0x02 then s.portDerived base off
  else if b = 0x09 then s.almDerived base off
  else if b = 0x0A then s.accDerived base off
  else if b = 0x0D then s.chsDerived base
  else if b = 0x13 then s.domDerived base off
  else if b = 0x80 then s.smDerived base
  else if b = 0x01 then s.clvDerived base off
  else if base = rING_DUP_STS then [(0, s.dup.length)]
  else if base = rTMB_SLACK_STS then (match s.tmb.slackLatch with | some v => [(0, v)] | none => [])
  else if base = rEGR_STS then
    [(16, s.pgh.notices.length), (0, s.streamsOn)]
  else if base = rPAIR_STS then (if s.paired then [(18, boolW s.pairFit), (17, boolW s.pairReady)] else [])
  else if base = rBUR_JRN_STS then [(31, boolW s.bur.journalDue)]
  else if base = rBUR_BENCH_STS then
    [(0, match s.bench.lockTo with | some t => min ((t - s.up + 999999999) / 1000000000) 65535 | none => 0)]
  else if base = rLMF_CFG then [(0, bitsOf 8 s.sdOn)]
  else []

/-- The word a read of a register shows: WO fields read 0 (R6), reserved bits read 0 (R7). -/
def State.showReg (s : State) (r : RegDesc) (off : Nat) : Nat :=
  match s.live64 r.base off with
  | some v => v % 2 ^ 32
  | none =>
    let o := s.derived r.base off
    r.fields.foldl (fun w d =>
      let v := match o.find? fun x => x.1 = d.lo with
        | some x => trunc d.w x.2
        | none => if d.acc = .wo then 0 else s.rd (fieldAt off d)
      w + v * 2 ^ d.lo) 0

/-- The word at an offset; where no register is, 0 (R7). -/
def State.regWord (s : State) (off : Nat) : Nat :=
  match regAt (aliasOf off) with
  | some r => s.showReg r (aliasOf off)
  | none => 0

/-! ### What a read does -/

/-- RC fields clear in the read (R6). -/
def clearRc (r : RegDesc) (off : Nat) (s : State) : State :=
  r.fields.foldl (fun s d => if d.acc = .rc then s.wr (fieldAt off d) 0 else s) s

/-- What a read latches (R84, R187, R220, R450, R540), or removes (R95, R451). -/
def readLatch (base off : Nat) (s : State) : State :=
  let t := match s.live64 base off with
    | some v => s.wr ⟨off + 4, 0, 32, 0⟩ (v / 2 ^ 32)
    | none => s
  if base = rCLV_NOW_LO then t.wr fCLV_RESEAT_STS_GEN_LATCHED (s.rd fCLV_RESEAT_STS_GEN)
  else if base = rTMB_TICK_LO then t.setTmb { t.tmb with slackLatch := some (s.rd fTMB_SLACK_STS_SLACK_NS) }
  else if base = rTMB_SLACK_STS then t.setTmb { t.tmb with slackLatch := none }
  else if base = rSM_TIME_NS then t.wr fSM_TIME_SEC_SEC (s.readerNow / 1000000000)
  else if base = rLMF_SD_LAST 0 then
    let c := idx off base 32
    t.wr (fLMF_SD_TIME_NS32 c) (match (s.sdChan c).last with | some o => o.time | none => 0)
  else if base = rCLV_CAP_HI 0 then
    let k := idx off base 16
    capShow k (t.setCap k ((s.clv.caps.getD k []).drop 1))
  else if base = rLMF_ICV_QTIME 0 then
    let x := idx off base 256
    icvShow x (t.setIcv x { t.icv x with queue := (t.icv x).queue.drop 1 })
  else t

/-- The word a read returns: the head of a capture FIFO shows its upper word at CAP_HI (R95). -/
def State.readWord (s : State) (off : Nat) : Nat :=
  match regAt (aliasOf off) with
  | some r =>
    if r.base = rCLV_CAP_HI 0 then (((s.clv.caps.getD (idx off r.base 16) []).head?.map fun e => e.time / 2 ^ 32).getD 0) % 2 ^ 32
    else s.showReg r (aliasOf off)
  | none => 0

/-- A read of a register in a domain that runs: its data, then what the read clears and latches. -/
def doRead (off : Nat) (s : State) : State :=
  let s' := s.answer off (s.readWord off)
  match regAt (aliasOf off) with
  | some r => readLatch r.base (aliasOf off) (clearRc r (aliasOf off) s')
  | none => s'

/-! ### Which writes are ignored -/

def f32Positive (w : Nat) : Bool := f32Finite w && f32Lt 0 w

/-- A write of `v` to a field is stored; otherwise the field keeps its value. `base` is the register's first offset. -/
def State.fieldOk (s : State) (base off lo v : Nat) : Bool :=
  let k := base * 32 + lo
  match fieldRanges.find? fun x => x.1 = k with
  | some x => x.2.1 ≤ v && v ≤ x.2.2
  | none =>
    if k = fSYS_PWR_CFG_PF_MV.key then
      let vin := s.rd fSYS_VIN_STS_VIN_MV
      8500 ≤ v && v ≤ 50000 && !(v ≤ vin && vin ≤ v + 2000)
    else if k = fCLV_JUMP_CFG_JUMP_NS.key then 100 ≤ v && v ≤ 1000000000 && v ≥ 2 * s.lockNs
    else if k = fCLV_UTC_CFG_TAI_UTC.key then !s.on fCLV_UTC_CFG_SRC_OWNS
    else if k = (fCLV_PTP_PORT_CFG_LOG_SYNC 0).key then v = 0 || v ≥ 0xFC
    else if k = (fPORT_RX_CFG_CT_BYTES 0).key then 64 ≤ v && v ≤ 1016 && v % 8 = 0
    else if k = fPGH_CFG_GUARD_US.key then 2 ≤ v && v ≤ (match s.img with | some i => i.guardMax | none => 0)
    else if k = (fPGH_GRP_CFG_QUANT 0).key ∨ k = (fPGH_GRP_CFG_MARGIN_US 0).key then learned (groupOf s.img (idx off base 32))
    else if k = (fSPEC_BAND_THR_E_THR 0).key ∨ k = fSPEC_DEF_MIN_SRC_MIN.key ∨ k = fCOH_SPREAD_THR_THR.key then f32Positive v
    else if k = (fEGR_RING_BASE_LO_LO 0).key ∨ k = (fEGR_RING_BASE_HI_HI 0).key then !s.on (fEGR_RING_CFG_EN (idx off base 32))
    else if k = (fEGR_RING_CFG_LOG2_SIZE 0).key then !s.on (fEGR_RING_CFG_EN (idx off base 32)) && 4 ≤ v && v ≤ 12
    else if k = (fSNR_PIO_CFG_GLITCH 0).key then s.on (fSNR_PIO_CFG_OWNED (idx off base 4))
    else if k = fBUR_TAMPER_CFG_ACTION.key then v = 1 || imgReg s.img fBUR_TAMPER_CFG_ACTION ≠ 1
    else true

/-- An analog index that another entry of either converter publishes already (R444). -/
def State.anTaken (s : State) (x e k : Nat) : Bool :=
  (List.range 2).any fun y => (List.range 16).any fun j =>
    !(y = x && j = e) && s.on (fLMF_ICV_SCAN_PUBLISH y j) && s.rd (fLMF_ICV_SCAN_AN_IDX y j) = k

/-- A write to a register is ignored as a whole where its fields do not fit together, or what it names does not exist. -/
def State.wordOk (s : State) (base off v : Nat) : Bool :=
  let b := base / 0x10000
  if base = rCLV_SRC_CFG then
    let l := [bitsAt v 0 2, bitsAt v 2 2, bitsAt v 4 2].filter fun x => x ≠ 0
    decide l.Nodup
  else if base = rSPEC_TRK_CFG then trkWordOk v
  else if base = rSPEC_TRK_CFG2 then trk2WordOk v
  else if base = rSPEC_BAND_THR 0 ∨ base = rSPEC_BAND_CFG 0 then idx off base 16 < (specCfgOf s.img).bands.length
  else if base = rPGH_GRP_CFG 0 then groupBound s.img (idx off base 32) && (groupOf s.img (idx off base 32)).policy ≠ 0
  else if base = rPMC_THR_CFG 0 then bitsAt v 24 8 ≤ 8 && thrIndexOk (bitsAt v 24 8) (bitsAt v 16 8)
  else if base = rACC_PLS_CFG 0 then idx off base 16 < (accCfgOf s.img).pulses.length
  else if base = rSNR_DEF_CFG 0 then idx off base 64 < (match s.img with | some i => i.snare.length | none => 0)
  else if base = rLMF_ICV_SCAN 0 0 then
    !((v.testBit 30) && s.anTaken (idx off base 256) (off % 256 / 4 % 16) (bitsAt v 21 4))
  else if b = 0x12 then base = rTST_CTL || s.on fTST_CTL_EN
  else true

/-! ### What a write stores -/

/-- The access type of a field: the ring's number settles PROD and CONS (R341). -/
def accessOf (base off : Nat) (a : Access) : Access :=
  match a with
  | .prodAcc => if idx off base 32 < 128 then .ro else .rw
  | .consAcc => if idx off base 32 < 128 then .rw else .ro
  | a => a

/-- RW fields take the value where it is one they accept; W1C bits written 1 clear (R6). -/
def storeFields (r : RegDesc) (off v : Nat) (s : State) : State :=
  r.fields.foldl (fun t d =>
    let f := fieldAt off d
    let x := bitsAt v d.lo d.w
    match accessOf r.base off d.acc with
    | .rw => if s.fieldOk r.base off d.lo x then t.wr f x else t
    | .w1c => t.wr f (t.rd f - (t.rd f &&& x))
    | _ => t) s

/-! ### Registers whose write does more -/

/-- A write to PORT_CTL_n (R122): PAUSE_OBEY's change is a change of mode (R29). -/
def portCtlWrite (n v : Nat) (s : State) : State :=
  let old := s.rd (fPORT_CTL_PAUSE_OBEY n)
  let was := s.word (rPORT_CTL n)
  let s := pmacEn n (v.testBit 1) ((s.wr (fPORT_CTL_ADD_FRAG n) (v / 8)).wr (fPORT_CTL_VERIFY_DIS n) (v / 4))
  let s := if old = v % 2 then s
    else
      let s := pauseObey n (v.testBit 0) s
      postModeChange (rPORT_CTL n) was (s.word (rPORT_CTL n)) s
  if v.testBit 5 then linkRestart n s else s

/-- A write to ACC_PLS_CFG_k (R312): W_MIN 1 to W_SET. -/
def plsCfgWrite (k v : Nat) (s : State) : State :=
  let set_ := bitsAt v 8 8
  let min_ := bitsAt v 0 8
  let m := if min_ = 0 then s.rd (fACC_PLS_CFG_W_MIN_MS k) else min_
  if set_ ≥ m then (s.wr (fACC_PLS_CFG_W_SET_MS k) set_).wr (fACC_PLS_CFG_W_MIN_MS k) m
  else if m ≤ s.rd (fACC_PLS_CFG_W_SET_MS k) then s.wr (fACC_PLS_CFG_W_MIN_MS k) m
  else s

/-- A write to CHS_RL_SEL latches the code's limit, whether it is fixed, and its pending suppression count (R374). -/
def rlSelect (v : Nat) (s : State) : State :=
  let s := s.wr fCHS_RL_SEL_CODE v
  let c := s.rd fCHS_RL_SEL_CODE
  let s := (s.wr fCHS_RL_CFG_BURST (s.rlBurst c)).wr fCHS_RL_CFG_PERIOD_MS (s.rlPeriod c)
  (s.wrB fCHS_RL_CFG_FIXED (chsFixed c)).wr fCHS_RL_STS_PENDING (s.suppOf c)

/-- A write to CHS_RL_CFG: kept in MRAM for the selected code (R366, R367, R374). A bucket holds at most BURST. -/
def rlWrite (v : Nat) (s : State) : State :=
  let c := s.rd fCHS_RL_SEL_CODE
  if chsFixed c then s
  else
    let burst := if bitsAt v 24 8 = 0 then s.rlBurst c else bitsAt v 24 8
    let b := s.bucket c
    let m := { s.mram.chs with rlBurst := smSet 16 s.mram.chs.rlBurst c burst, rlPeriod := smSet 1000 s.mram.chs.rlPeriod c (v % 65536) }
    let s := ((s.setChs m).wr fCHS_RL_CFG_BURST burst).wr fCHS_RL_CFG_PERIOD_MS (v % 65536)
    let tokens := min b.tokens burst
    match smFind? s.chs.buckets c with
    | none => s
    | some _ => s.setBucket c { tokens := tokens, due := if tokens = burst then none else some (b.due.getD (s.up + (v % 65536) * 1000000)) }

/-- A write to SM_STRM_SEL latches the window's own copies; no native latch changes (R539, R540). -/
def smSelect (v : Nat) (s : State) : State :=
  let k := v % 1024
  if k > 639 then s
  else
    let t := pghSelect k (ingSelect k s)
    let s := (s.wr fSM_STRM_SEL_STREAM k).wrB fSM_STRM_STS_BOUND (s.binding? k).isSome
    let s := (s.wr fSM_STRM_STS_STATE (t.rd fPGH_SLOT_STS_STATE)).wr fSM_STRM_STS_CFG_GEN (t.rd fING_SLOT_STS_CFG_GEN)
    (s.wr fSM_STRM_RX_RECORDS (t.rd fING_SLOT_CNT_RECORDS)).wr fSM_STRM_WIN_W_US (t.rd fPGH_SLOT_W_STS_W)

/-- The window's interrupt goes out where it may, and disarms the window (R541). -/
def windowInterrupt (s : State) : State :=
  if s.on fSM_CTL_INT_EN && s.smArmed && (s.rd fSM_INT_STS_EVENTS &&& s.rd fSM_INT_MASK_MASK) ≠ 0 then
    { s.msix (s.rd fSM_INT_VEC_VEC) with smArmed := false }
  else s

/-- SM_EOI re-arms the window; a masked bit still set interrupts at once (R541). -/
def smEoi (s : State) : State := windowInterrupt { s with smArmed := true }

/-- A write to BAND_CFG: EN 0 clears ENERGY and FO (R251). -/
def bandEnEffect (b : Nat) (s : State) : State :=
  if s.on (fSPEC_BAND_CFG_EN b) then s
  else
    let x : BandSt := s.spec.bands.getD b {}
    let s := s.setSpec { s.spec with bands := s.spec.bands.set b { x with energy := false, fo := false } }
    (s.wrB (fSPEC_BAND_STS_ENERGY b) false).wrB (fSPEC_BAND_STS_FO b) false

/-- Writes that a register's own operation carries out whole; `none` where the fields are simply stored. `twin`: a second write of 1 to
the same pulse register of the window came less than 3 FAB cycles later, and both cancel (R538). -/
def ownWrite (base off v : Nat) (twin window : Bool) (s : State) : Option State :=
  let one : Bool := v.testBit 0
  if base = rDOM_RST_CTL then some (domRstWrite v s)
  else if base = rPORT_CTL 0 then some (portCtlWrite (idx off base 1024) v s)
  else if base = rCLV_TTG_CTL 0 then
    let k := idx off base 32
    some (if !one then ttgDisarm k s else if (s.clv.ttg.getD k none).isSome then s else ttgArm k s)
  else if base = rING_SLOT_SEL then some (ingSelect v s)
  else if base = rPGH_SLOT_SEL then some (pghSelect v s)
  else if base = rTMB_ITEM_SEL then some (itemSelect v s)
  else if base = rTMB_CTL then some (if one then minClr s else s)
  else if base = rSPEC_MODE_SEL then some (modeSelect v s)
  else if base = rCOH_NODE_SEL then some (cohNodeSelect v s)
  else if base = rCOH_BRANCH_SEL then some (cohBranchSelect v s)
  else if base = rALM_CTL then some (if one then maxClr s else s)
  else if base = rALM_ACK then some (pairWide mirAck (v &&& 0x800007FF) (ackWrite v) s)
  else if base = rALM_INH then some (almInh v s)
  else if base = rALM_SEL then some (almSelect v s)
  else if base = rACC_SEL then some (accSelect v s)
  else if base = rACC_PLS_CFG 0 then some (plsCfgWrite (idx off base 16) v s)
  else if base = rEGR_STRM_SEL then some (egrSelect v s)
  else if base = rSNR_CTL 0 then some (snareCtl (idx off base 64) v s)
  else if base = rCHS_RL_SEL then some (rlSelect v s)
  else if base = rCHS_RL_CFG then some (rlWrite v s)
  else if base = rCHS_RD_SEQ_LO then some (chestFetch v s)
  else if base = rBUR_ENT_SEL then some (burSelect v s)
  else if base = rPAIR_ACC_SEL then some (pairAccSelect v s)
  else if base = rLMF_ICV_CFG 0 then
    let x := idx off base 256
    let s := if s.fieldOk base off 0 (v % 65536) then s.wr (fLMF_ICV_CFG_EXT_MV x) v else s
    some (icvRefWrite x (bitsAt v 30 2) s)
  else if base = rPMC_PORT_SEL then some (pmcSelect v s)
  else if base = rPMC_TRACE_SEL then some (traceSelect v false s)
  else if base = rTST_CTL then some (tstCtl (v % 256) s)
  else if base = rMBX_DOORBELL 0 then some (if one && !(twin && window) then ringDoorbell (idx off base 1024) s else s)
  else if base = rSM_EOI then some (if one && !twin then smEoi s else s)
  else if base = rSM_STRM_SEL then some (smSelect v s)
  else none

/-- What follows a stored write. -/
def afterWrite (base off v : Nat) (s : State) : State :=
  if base = rCLV_UTC_CFG then { s with mram := { s.mram with pwr := { s.mram.pwr with taiUtc := s.rd fCLV_UTC_CFG_TAI_UTC } } }
  else if base = rCLV_QUAL_CFG then updateQual s
  else if base = rSPEC_BAND_CFG 0 then bandEnEffect (idx off base 16) s
  else if base = rLANE_CTL 0 then prefSync (idx off base 512) s
  else if base = rEGR_RING_BASE_LO 0 then s.wr ⟨off, 0, 32, 0⟩ (s.rd ⟨off, 0, 32, 0⟩ / 64 * 64)
  else if base = rEGR_RING_CFG 0 then ringEnable (idx off base 32) (v.testBit 31) s
  else if base = rTST_STALL_CFG then (if v.testBit 0 then stallArm s else s)
  else if base = rTST_EBP_CFG ∨ base = rTST_EBP_PER then tstSync s
  else s

/-- A write of a word to a register in a domain that runs. Offsets that no register occupies ignore it (R7). -/
def regWrite (off v : Nat) (twin : Bool) (s : State) : State :=
  let o := aliasOf off
  let v := v % 2 ^ 32
  match regAt o with
  | none => s
  | some r =>
    if !s.wordOk r.base o v then s
    else
      match ownWrite r.base o v twin (off ≠ o) s with
      | some t => t
      | none => afterWrite r.base o v (storeFields r o v s)

/-! ### Accesses held for a stopped domain (R528, R529) -/

/-- The domain an access must reach: that of the native register behind an alias of the window. -/
def accessDom (off : Nat) : Nat := domOf (aliasOf off)

/-- An access to a domain goes through at once: its clock runs and nothing waits for it. -/
def State.passes (s : State) (d : Nat) : Bool := s.alive d && (s.heldOf d).isEmpty

def State.heldWrites (s : State) (d : Nat) : Nat := ((s.heldOf d).filter fun h => h.val.isSome).length

/-- Writes stalled behind a full buffer move on while they can. -/
def drainStalled : Nat → State → State
  | 0, s => s
  | n + 1, s =>
    match s.dom.stalled with
    | [] => s
    | h :: rest =>
      if s.passes h.dom then drainStalled n (regWrite h.off (h.val.getD 0) false (s.setDom { s.dom with stalled := rest }))
      else if s.heldWrites h.dom < 16 then drainStalled n (s.setDom { s.dom with stalled := rest, held := s.dom.held ++ [h] })
      else s

def drainAll (s : State) : State := drainStalled s.dom.stalled.length s

/-- A host access reaches the module: the link is up and the offset lies in the window (R534). -/
def State.reaches (s : State) (off : Nat) : Bool := s.pwr.pcieUp && off < 0x1000000

/-- A write on its way to its domain: it passes, waits in the domain's buffer of 16, or stalls the posted-write path. -/
def busWrite (off v : Nat) (twin : Bool) (s : State) : State :=
  let d := accessDom off
  let h : HeldAccess := { dom := d, off := off, val := some (v % 2 ^ 32) }
  if !s.dom.stalled.isEmpty then s.setDom { s.dom with stalled := s.dom.stalled ++ [h] }
  else if s.passes d then drainAll (regWrite off v twin s)
  else if s.heldWrites d < 16 then s.setDom { s.dom with held := s.dom.held ++ [h] }
  else s.setDom { s.dom with stalled := [h] }

/-- A read on its way to its domain: answered, or held. -/
def busRead (off : Nat) (s : State) : State :=
  let s := s.ev 0x36C
  let d := accessDom off
  if s.passes d then doRead off s else s.setDom { s.dom with held := s.dom.held ++ [{ dom := d, off := off, val := none }] }

/-- A host access by its size and alignment (R535): 32 bits run as one access, aligned 64 bits as two, lower address first; one that crosses a
4-byte boundary otherwise completes with Unsupported Request. `go` runs the access at an offset, 1 for the upper word. -/
def hostAccess (off : Nat) (wide : Bool) (go : Nat → State → State) (s : State) : State :=
  if !s.reaches off then s
  else if wide && off % 8 = 0 then go 1 (go 0 s)
  else if wide || off % 4 ≠ 0 then s.emit (.unsupported off)
  else go 0 s

/-- A host write; 64 bits where `wide`. -/
def hostWrite (off v : Nat) (wide twin : Bool) (s : State) : State :=
  hostAccess off wide (fun i s => busWrite (off + 4 * i) (v / 2 ^ (32 * i)) twin s) s

/-- A host read; 64 bits where `wide`. -/
def hostRead (off : Nat) (wide : Bool) (s : State) : State := hostAccess off wide (fun i s => busRead (off + 4 * i) s) s

/-- The oldest access held for a domain completes, its clock running again; stalled writes move on. -/
def releaseHeld (d : Nat) (s : State) : State :=
  match s.dom.held.find? fun h => h.dom = d with
  | none => s
  | some h =>
    if !s.alive d then s
    else
      let s := s.setDom { s.dom with held := s.dom.held.erase h }
      drainAll (match h.val with
        | some v => regWrite h.off v false s
        | none => doRead h.off s)

/-! ### The rows -/

/-- REGISTER_WRITE (R6, R535): a write with partial byte enables (`full` false) is ignored. -/
def execRegisterWrite (off val : Nat) (full wide twin : Bool) (s : State) : Out := .next (if full then hostWrite off val wide twin s else s)

/-- SELECT_LATCH_WRITE (R150): the write of a selection register is a host write like any other. -/
def execSelectLatchWrite (off val : Nat) (s : State) : Out := .next (hostWrite off val false false s)

/-- RC_READ (R6). A read with partial byte enables is one of the whole word (R535). -/
def execRcRead (off : Nat) (wide : Bool) (s : State) : Out := .next (hostRead off wide s)

/-- LO_LATCH_READ (R84). -/
def execLoLatchRead (off : Nat) (wide : Bool) (s : State) : Out := .next (hostRead off wide s)

/-- DOM_RST_CTL (R533). -/
def execDomRstCtl (go : Bool) (target : Fin 128) (s : State) : Out :=
  .next (hostWrite rDOM_RST_CTL ((if go then 2 ^ 31 else 0) + target) false false s)

/-- HELD_ACCESS_RELEASE (R529): the clock of a domain has returned. What a reset does to held accesses is the reset's own effect. -/
def execHeldAccessRelease (dom : Fin 128) (s : State) : Out := .next (releaseHeld dom s)

/-- SM_EOI (R541). -/
def execSmEoi (twin : Bool) (s : State) : Out := .next (hostWrite rSM_EOI 1 false twin s)

/-- WINDOW_INTERRUPT (R541). -/
def execWindowInterrupt (s : State) : Out := .next (windowInterrupt s)

end Sys2Proof.Machine
end

