-- ==== Sys2Proof/Machine/BenchRows.lean ====
section
/-!
DEFINITION. The Bench monitor (R394, R395, R516, R517): its session, levels and own commands. A row stands for a line taken up once the
command before it has ended; echo, prompts and the buffers' limits are left out (log entry 40).
-/

namespace Sys2Proof.Machine

/-- A line typed at the Bench, where the steward core runs (R516). -/
def benchLine (f : State → State) (s : State) : State := if s.stewAlive then f (benchInput s) else s

/-- The command's output, and OK. -/
def benchOk (line : String) (vals : List Nat) (s : State) : State := (s.emit (.bench line vals)).emit (.bench "OK" [])

def State.benchLevel (s : State) : Nat := s.rd fBUR_BENCH_STS_LEVEL

def State.setBench (s : State) (b : Bench) : State := { s with bench := b }

/-! ### Session (R395, R500, R516) -/

/-- BENCH_SESSION_OPEN. -/
def execBenchSessionOpen (s : State) : Out := .next (benchLine id s)

/-- BENCH_IDLE_TIMEOUT: 900 s without input. -/
def execBenchIdleTimeout (s : State) : Out :=
  .next (if s.bench.open_ && s.up ≥ s.bench.lastIn + 900000000000 then benchClose 3 s else s)

/-- BENCH_LOCKOUT_EXPIRY. -/
def execBenchLockoutExpiry (s : State) : Out :=
  .next (match s.bench.lockTo with
    | some t => if s.up ≥ t then s.setBench { s.bench with lockTo := none } else s
    | none => s)

/-- LOGOUT: the session returns to VIEW and closes (R500 event 2). -/
def execLogout (s : State) : Out := .next (benchLine (fun s => (benchClose 2 s).emit (.bench "OK" [])) s)

/-! ### Levels (R394, R395) -/

/-- Set the session's level, by the key of an entry or by none; leaving SERVICE disables the perturbation unit. -/
def benchGrant (level : Nat) (key : Option Nat) (s : State) : State :=
  let was := s.benchLevel
  let s := s.wr fBUR_BENCH_STS_LEVEL level
  let s := s.setBench { s.bench with key := key, chal := none, wrong := 0, lockLen := 60 }
  let s := if was = 2 && level ≠ 2 then tstDisable s else s
  -- R396 gives no ENTRY for a grant without a key: free (log entry 3).
  let (e, s) : Nat × State := match key with
    | some k => (k, s)
    | none => (s.freeVal 46, s.nextFree)
  (post 0x98 (le 1 level ++ le 1 0 ++ le 2 e) s).emit (.bench "OK" [level])

/-- LOGIN: TUNE without a challenge where TUNE_OPEN allows it; otherwise a nonce, which the spec leaves random, unless challenges are
locked. -/
def execLogin (service : Bool) (s : State) : Out :=
  .next (benchLine (fun s =>
    let level := if service then 2 else 1
    if !service && s.on fBUR_BENCH_CFG_TUNE_OPEN then benchGrant 1 none s
    else if s.bench.lockTo.isSome then benchErr stState s
    else
      let nonce := s.freeVal 42 % 2 ^ 128
      let s := s.nextFree.setBench { s.bench with chal := some (level, nonce, s.up) }
      benchOk "challenge" [nonce] s) s)

/-- What the answer to a challenge authenticates: nonce, module serial, level byte. -/
def benchMessage (nonce level : Nat) : List Nat := (be 16 nonce ++ be 8 Config.serial ++ be 1 level).map BitVec.toNat

/-- The first VALID BENCH key of a sufficient level under which `ans` is right. -/
def State.benchKey (s : State) (level nonce ans : Nat) : Option Nat :=
  (s.bur.ents.find? fun e =>
    e.2.st = keyValid && e.2.purpose = purBench && e.2.blvl ≥ level && e.2.uses ≠ some 0 &&
      Config.hmac e.2.material (benchMessage nonce level) / 2 ^ 128 % 2 ^ 128 = ans % 2 ^ 128).map fun e => e.1

/-- A wrong answer: the third in a row locks challenges. -/
def benchWrong (level : Nat) (s : State) : State :=
  let n := s.bench.wrong + 1
  let lock : Bool := n ≥ 3
  let b := { s.bench with chal := none, wrong := if lock then 0 else n,
                          lockTo := if lock then some (s.up + s.bench.lockLen * 1000000000) else s.bench.lockTo,
                          lockLen := if lock then min 3600 (s.bench.lockLen * 2) else s.bench.lockLen }
  let secs := if lock then s.bench.lockLen else 0
  benchErr stAuth (post 0x99 (le 1 level ++ le 1 n ++ le 2 secs) ((s.setBench b).flag fBUR_FLT_FLAGS 7))

/-- ANSWER: within 60 s of the challenge. -/
def execAnswer (ans : Nat) (s : State) : Out :=
  .next (benchLine (fun s =>
    match s.bench.chal with
    | none => benchErr stState s
    | some (level, nonce, t) =>
      if s.up > t + 60000000000 then benchErr stState (s.setBench { s.bench with chal := none })
      else
        match s.benchKey level nonce ans with
        | some k => benchGrant level (some k) (spendUse k s)
        | none => benchWrong level s) s)

/-! ### Reading (R517): nothing is cleared, removed or latched -/

/-- RD. -/
def execRd (off n : Nat) (s : State) : Out :=
  .next (benchLine (fun s =>
    if off % 4 ≠ 0 || off + 4 * n > 0x1000000 || n = 0 || n > 64 then benchErr stBadArg s
    else benchOk "rd" (off :: (List.range n).map fun k => s.readWord (off + 4 * k)) s) s)

/-- CTR_SNAP: snapshot entries with their tick. -/
def execCtrSnap (first n : Nat) (s : State) : Out :=
  .next (benchLine (fun s =>
    if n = 0 || first + n > 512 then benchErr stBadArg s
    else benchOk "ctr snap" (s.rd64 fPMC_SNAP_TICK_LO_N_LO ::
      (List.range n).map fun k => s.rd (fPMC_SNAP_LO_V_LO (first + k)) + 2 ^ 32 * s.rd (fPMC_SNAP_HI_V_HI (first + k))) s) s)

/-- CTR_PORT: the counter, its partner where it is chained, and the instant, through the Bench's own latch (R506). -/
def execCtrPort (j : Fin 512) (s : State) : Out :=
  .next (benchLine (fun s =>
    let x := if (counterOf s.img j).chain then [s.ctrVal (j + 1)] else []
    benchOk "ctr port" (s.ns32 :: s.ctrVal j :: x) s.nextFree) s)

/-- TRACE: the last entries, oldest first. -/
def execTrace (n : Nat) (s : State) : Out :=
  .next (benchLine (fun s =>
    if n = 0 || n > 16 then benchErr stBadArg s
    else benchOk "trace" (s.pmc.ring.drop (s.pmc.ring.length - n)).flatten s) s)

/-- What the Bench's own window shows of a record: the result of R369, then its bytes. -/
def chestLine (seq : Nat) (s : State) : List Nat :=
  match s.recLookup seq with
  | .found r => 0 :: (recBytes r).map BitVec.toNat
  | .gone => [1]
  | .notYet => [2]
  | .skipped => [3]
  | .fault => [4]

/-- CHEST. -/
def execChest (seq n : Nat) (s : State) : Out :=
  .next (benchLine (fun s =>
    if n = 0 || n > 16 then benchErr stBadArg s
    else ((List.range n).foldl (fun t k => t.emit (.bench "chest" ((seq + k) :: chestLine (seq + k) s))) s).emit (.bench "OK" [])) s)

/-- The FLT registers. -/
def fltRegs : List Nat :=
  [rCLV_FLT, rING_FLT, rPGH_FLT, rTMB_FLT, rSPEC_FLT, rCOH_FLT, rALM_FLT, rACC_FLT, rEGR_FLT, rSNR_FLT, rCHS_FLT, rBUR_FLT, rPAIR_FLT,
    rLMF_FLT, rTST_FLT, rDOM_FLT, rMBX_FLT] ++ (List.range 64).map rPORT_FLT ++ (List.range 32).map rLANE_FLT

/-- STATUS. -/
def execStatus (s : State) : Out :=
  .next (benchLine (fun s =>
    let flts := (fltRegs.filter fun r => s.regWord r ≠ 0).map fun r => [r, s.regWord r]
    benchOk "status" ([s.rd fSYS_PWR_STS_START_STAGE, s.clvState, s.rd fCLV_STS_TICKING, s.role, s.rd fTMB_SLACK_STS_SLACK_NS] ++
      flts.flatten) s) s)

/-- HELP. -/
def execHelp (s : State) : Out := .next (benchLine (benchOk "help" []) s)

/-- WHO: level, lockout in s, session age in s. -/
def execWho (s : State) : Out :=
  .next (benchLine (fun s =>
    benchOk "who" [s.benchLevel, s.regWord rBUR_BENCH_STS % 65536, (s.up - s.bench.openedAt) / 1000000000] s) s)

/-! ### Writing (R517) -/

/-- The write's own operation records the change of mode: TST_CTL, an accepted DOM_RST_CTL, a change of PAUSE_OBEY. -/
def State.recordsMode (s : State) (off v : Nat) : Bool :=
  match regAt off with
  | none => false
  | some r =>
    if !s.passes (accessDom off) then false
    else if r.base = rTST_CTL then true
    else if r.base = rDOM_RST_CTL then v.testBit 31 && domRstTarget (v % 128) && !s.shedding
    else if r.base = rPORT_CTL 0 then s.rd (fPORT_CTL_PAUSE_OBEY (idx off r.base 1024)) ≠ v % 2
    else false

/-- The level a write needs: SERVICE in the TST block. -/
def wrLevel (off : Nat) : Nat := if off / 0x10000 = 0x12 then 2 else 1

/-- WR: as a host write, with a MODE_CHANGE record. -/
def execWr (off val : Nat) (s : State) : Out :=
  .next (benchLine (fun s =>
    if off % 4 ≠ 0 || off ≥ 0x1000000 then benchErr stBadArg s
    else if s.benchLevel < wrLevel off || aliasOf off / 0x10000 = 0x14 then benchErr stState s
    else
      let old := s.regWord off
      let done := s.recordsMode (aliasOf off) val
      let t := busWrite off val false s
      (if done then t else postModeChange off old (t.regWord off) t).emit (.bench "OK" [])) s)

end Sys2Proof.Machine
end

