-- ==== Sys2Proof/Machine/Close.lean ====
section
/-!
DEFINITION. Processing close tokens (R152–R156, R182, R187), and what the token of C(n) does to the instances before it: overruns, deferral,
holding and abandonment (R211–R216).
-/

namespace Sys2Proof.Machine

/-! ### Deadlines (R212 to R216) -/

/-- Instance `n` is due and has not become active. -/
def State.unopened (s : State) (n : Nat) : Bool :=
  s.ticking && (s.inst? n).isNone && s.tickInst s.nextInst ≤ s.tickInst n

/-- The instance of `n` overruns its deadline (R212), active or not: flag, count, record, abdication trigger 1; then DEFER's or HOLD's rule. -/
def overrun (n : Nat) (hold : Bool) (s : State) : State :=
  let mark (item lane left : Nat) (s : State) : State :=
    abdicate abdOverrun true (postAt n 0x40 (itemPayload n item lane (min left 255))
      (((s.ev 0x357).inc fTMB_OVERRUN_CNT_INSTANCES).flag fTMB_FLT_FLAGS 0 |>.smEvent 4))
  match s.inst? n with
  | none =>
    if s.unopened n then
      let s := mark 0 0x3F (((s.imgAt n).map fun i => i.items.length).getD 0) s
      if hold then s.flag fTMB_FLT_FLAGS 2 else s
    else s
  | some i =>
    if i.complete then s
    else
      let left := i.runs.zipIdx.filter fun x => !itemDone x.1
      let s := match left with
        | x :: _ => mark x.2 (laneOf x.1) left.length s
        | [] => mark 0 0x3F 0 s
      if hold then (s.setInst { i with held := true }).flag fTMB_FLT_FLAGS 2
      else checkComplete n ((List.range i.runs.length).foldl (fun s j => deferItem n j s) s)

/-- Abandon every item of instance `n` that has not started; one that has not become active never does (R213, R214). -/
def abandonInst (n : Nat) (s : State) : State :=
  abandonAll n (if s.unopened n && s.nextInst = n then openInst n true s else s)

/-- The first instance under an image that waits or has just been swapped in. -/
def State.swapInst (s : State) : Option Nat :=
  match s.swap with
  | some (_, _, k) => some (match s.clv.skip with | some (f, c) => if f ≤ k && k < f + c then f + c else k | none => k)
  | none => if s.oldImg.isSome then some s.swapTick else none

/-- At C(k + 1) the instances of the old table that are still incomplete have their remaining items abandoned, under either policy (R216). -/
def dropOldTable (n : Nat) (s : State) : State :=
  match s.swapInst with
  | some k =>
    if n = (s.nextRun k).1 then
      (s.live.filter fun i => i.old || s.tickInst i.tick < s.tickInst k).foldl (fun s i => abandonAll i.tick s) s
    else s
  | none => s

/-- What the token closing C(n) does to the instances before (R212 to R216). That R216's abandonment comes before HOLD's is log entry 49. -/
def deadlines (n : Nat) (s : State) : State :=
  let hold := match s.img with | some i => i.hold | none => false
  let p := s.prevRun n
  let pp := s.prevRun p
  let s := dropOldTable n (overrun p hold s)
  let late : Bool := s.live.any fun i => s.tickInst i.tick < s.tickInst p
  let due : Bool := s.unopened pp || (match s.inst? pp with | some i => !i.complete | none => false)
  let s := if hold then (if late then abandonInst p s else s)
    else if due then abandonInst pp s else s
  tmbRefresh s

/-! ### Tokens -/

/-- PGH_TICK and PGH_CLOSE_STS, together (R187). -/
def closeRegs (n c inst : Nat) (s : State) : State :=
  let s := s.wr64 fPGH_TICK_LO_N_LO n
  (s.wr fPGH_CLOSE_STS_LAG_US (min 255 ((s.clv.now - c) / 1000))).wr fPGH_CLOSE_STS_CLOSE_US (min (2 ^ 24 - 1) ((c - inst) / 1000))

/-- The close of C(n): notices, Snare's patches, the release of columns, the amendments' places, the counters' snapshot, and the
deadlines of the instances before (R156, R182, R166, R346, R328, R505, R212 to R216). -/
def closeTick (n : Nat) (s : State) : State :=
  match s.col? n with
  | none => s
  | some col =>
    let c := closeC col (usedGroups (s.imgAt n))
    let s := closeRegs n c col.inst ((s.ev 0x343).smEvent 0)
    let s := s.setPgh { s.pgh with closed := (s.pgh.closed ++ [(n, c, s.clv.now)]).drop (s.pgh.closed.length - 95) }
    let s := notices n s
    let cols := s.released n
    let s := releaseCols cols (snareClose n cols s)
    let s := pmcSnapshot n (bindAmend n s)
    let t := deadlines n s
    dropOld (instancesDone s t)

/-- Process one token. The token of an image with no used group waits for nothing. -/
def processToken (x g n : Nat) (s : State) : State :=
  let late : Bool := g < 16 && s.watermark < x
  let s := if late then (s.ev 0x344).flag fPGH_FLT_FLAGS 0 else s
  let s := closeCells n g s
  let all := match s.col? n with
    | some c => (tokenGroups (usedGroups (s.imgAt n))).all c.done.contains
    | none => false
  tmbRefresh (if all then closeTick n s else s)

/-- CLOSE_TOKEN_PROCESS (R154, R152): the earliest token waiting, once the watermark has passed its close or GUARD has run out; that of an image
with no used group at t(n). -/
def execCloseTokenProcess (s : State) : Out :=
  .next (match firstToken (s.tokens fun c g => c.issued.contains g && !c.done.contains g) with
    | some (x, g, n) =>
      if g = 16 || s.watermark ≥ x || s.clv.now ≥ x + s.rd fPGH_CFG_GUARD_US * 1000 then processToken x g n s else s
    | none => s)

end Sys2Proof.Machine
end

