-- ==== Sys2Proof/Machine/KeyCommands.lean ====
section
/-!
DEFINITION. Key and cryptographic commands (R378–R384, R390, R491). The functions of the standards are opaque (log entry 30).
-/

namespace Sys2Proof.Machine

/-! ### Entries -/

/-- The bytes of argument words i to i + n − 1 (R488). -/
def argBytes (r : Running) (i n : Nat) : Bytes := ((List.range n).map fun w => le 4 (Arg r (i + w))).flatten

def nats (b : Bytes) : List Nat := b.map fun x => x.toNat

/-- The bytes of a 256-bit key. -/
def keyBytes (k : Nat) : List Nat := nats (be 32 k)

/-- KEY_ID is in use by an entry that is not FREE (R376). -/
def State.keyIdUsed (s : State) (id : Nat) : Bool := s.bur.ents.any fun e => e.2.st ≠ keyFree && e.2.keyId = id

/-- Where a new entry goes: the lowest FREE one, else the INVALID one that became INVALID earliest (R379, R380). -/
def State.freeEntry (s : State) : Option Nat :=
  match (List.range 1024).find? fun i => (s.key i).st = keyFree with
  | some i => some i
  | none =>
    match s.bur.ents.filter fun e => e.2.st = keyInvalid with
    | [] => none
    | e :: es => some (es.foldl (fun a b => if b.2.since < a.2.since then b else a) e).1

/-- Install an entry, journaled as one update (R385). A new key starts its SPDU numbers again (R146). -/
def installKey (i : Nat) (k : KeyEnt) (s : State) : State :=
  let s := s.setIng { s.ing with spdu := s.ing.spdu.filter fun e => e.1 / 65536 ≠ i }
  burSync (journalWrite (State.eccWrite 10 0 (s.setKey i k)))

/-- P-256 (PRESUMED, log entry 10). -/
abbrev p256 : Nat := 0xFFFFFFFF00000001000000000000000000000000FFFFFFFFFFFFFFFFFFFFFFFF
abbrev p256b : Nat := 0x5AC635D8AA3A93E7B3EBBD55769886BC651D06B0CC53B0F63BCE3C3E27D2604B

def onP256 (x y : Nat) : Bool := x < p256 && y < p256 && (y * y) % p256 = (x * x * x + (p256 - 3) * x + p256b) % p256

/-- The ASCII bytes EMVOS-ROOT. -/
def rootInfo : List Nat := [69, 77, 86, 79, 83, 45, 82, 79, 79, 84]

/-- ROOT_INSTALL (R378, R491). -/
def execRootInstall (src : CmdSrc) (args : List Nat) (s : State) : Out :=
  .next (runCmd 0x0301 src args (fun r s =>
    let q := argBytes r 1 16
    let roots := (s.bur.ents.filter fun e => e.2.typ = typRoot && e.2.st ≠ keyFree).length
    if !onP256 (beAt q 0 32) (beAt q 32 32) || s.keyIdUsed (Arg r 0) then (.done stBadArg [], s)
    else
      let kek := Config.hkdf (Config.ecdhX (nats q)) (nats (be 8 Config.serial)) rootInfo
      match Config.unwrap kek (nats (argBytes r 17 10)) with
      | none => (.done stAuth [], s)
      | some m =>
        match if roots ≥ 16 then none else s.freeEntry with
        | none => (.done stNoSpace [], s)
        | some i =>
          let s := installKey i { st := keyValid, typ := typRoot, keyId := Arg r 0, material := m } s
          (.done stOk (i :: words64 s.bur.gen), post 0x91 (le 2 i ++ le 2 0 ++ le 4 (Arg r 0) ++ le 8 s.bur.gen) s)) s)

/-- The attributes of a load are allowed for its type (R376, R379, R491). -/
def attrOk (parent : KeyEnt) (a : Nat) : Bool :=
  let typ := a % 4
  let alg := a / 4 % 8
  let pur := a / 32 % 8
  let blvl := a / 256 % 4
  a < 2048 && typ = parent.typ + 1 &&
    (if typ = typWork then 1 ≤ alg && alg ≤ 3 && 1 ≤ pur && pur ≤ 4 && (if pur = purBench then blvl = 1 || blvl = 2 else blvl = 0)
     else alg = 0 && pur = 0 && blvl = 0)

/-- KEY_LOAD (R379, R491). -/
def execKeyLoad (src : CmdSrc) (args : List Nat) (s : State) : Out :=
  .next (runCmd 0x0302 src args (fun r s =>
    let p := s.key (Arg r 0)
    let a := Arg r 2
    let alg := a / 4 % 8
    if Arg r 0 ≥ 1024 then (.done stBadArg [], s)
    else if p.st ≠ keyValid then (.done stState [], s)
    else if !attrOk p a || s.keyIdUsed (Arg r 1) || Arg r 3 = 0 then (.done stBadArg [], s)
    else
      match Config.unwrap p.material (nats (argBytes r 4 (if alg = 2 then 6 else 10))) with
      | none => (.done stAuth [], s)
      | some m =>
        match s.freeEntry with
        | none => (.done stNoSpace [], s)
        | some i =>
          let k : KeyEnt := { st := keyValid, typ := a % 4, parent := Arg r 0, keyId := Arg r 1, alg := alg, purpose := a / 32 % 8,
                              blvl := a / 256 % 4, uses := if Arg r 3 = 0xFFFFFFFF then none else some (Arg r 3),
                              expReset := a.testBit 10, material := m }
          let s := installKey i k s
          let p := le 2 i ++ le 2 (Arg r 0) ++ le 4 (Arg r 1) ++ le 1 k.typ ++ le 1 k.purpose ++ le 2 0 ++ le 8 s.bur.gen
          (.done stOk (i :: words64 s.bur.gen), post 0x90 p s)) s)

/-- KEY_INVALIDATE (R383, R384, R491). -/
def execKeyInvalidate (src : CmdSrc) (args : List Nat) (s : State) : Out :=
  .next (runCmd 0x0303 src args (fun r s =>
    let i := Arg r 0
    if i ≥ 1024 then (.done stBadArg [], s)
    else if (s.key i).st = keyFree || (s.key i).st = keyInvalid then (.done stState [], s)
    else
      let n := ((s.descendants i).filter fun d => (s.key d).st ≠ keyInvalid).length
      let t := invalidate i s
      (.done stOk (n :: words64 s.effectTick), t)) s)

/-- KEY_PURGE (R380, R491). -/
def execKeyPurge (src : CmdSrc) (args : List Nat) (s : State) : Out :=
  .next (runCmd 0x0304 src args (fun r s =>
    let i := Arg r 0
    let free (l : List Nat) : Reply × State :=
      (.done stOk [l.length], if l.isEmpty then s else burSync (journalWrite (l.foldl (fun s j => s.setKey j {}) s)))
    if i = 0xFFFF then free ((s.bur.ents.filter fun e => e.2.st = keyInvalid).map fun e => e.1)
    else if i ≥ 1024 then (.done stBadArg [], s)
    else if (s.key i).st ≠ keyInvalid then (.done stState [], s)
    else free [i]) s)

/-- KEY_SELECT (R390). -/
def execKeySelect (src : CmdSrc) (args : List Nat) (s : State) : Out :=
  .next (runCmd 0x0305 src args (fun r s =>
    let i := Arg r 0
    let k := s.key i
    if i = 0xFFFF then (.done stOk [], burSync (s.setBur { s.bur with work := none }))
    else if i ≥ 1024 || k.st ≠ keyValid || k.typ ≠ typWork || k.purpose ≠ purHost then (.done stBadArg [], s)
    else (.done stOk [], burSync (s.setBur { s.bur with work := some i }))) s)

/-! ### HMAC and GMAC (R390, R491) -/

/-- The key of a host operation: KEY_WORK, where it is usable. -/
def State.workKey (s : State) : Option (Nat × KeyEnt) :=
  match s.bur.work with
  | some i => if keyUsable (s.key i) then some (i, s.key i) else none
  | none => none

/-- Compute or verify a tag of `n` bytes in a field of `len`: result words, and the use spent. The REVOKED bit is set under a PENDING key. -/
def macReply (r : Running) (i n expect len : Nat) (k : KeyEnt) (tag : Bytes) (s : State) : Reply × State :=
  let rev := if k.st = keyPending then 2 else 0
  let t := tag.take n
  let s := spendUse i s
  if Arg r 0 = 0 then (.done stOk (rev :: packWords (t ++ List.replicate (len - n) 0)), s)
  else
    let want := (argBytes r expect 8).take n
    (.done stOk [rev + (if want = t then 1 else 0)], s)

/-- HMAC: `data` are the LEN bytes at ADDR in host memory. -/
def execHmac (src : CmdSrc) (args : List Nat) (data : Bytes) (err : Bool) (s : State) : Out :=
  .next (runCmd 0x0306 src args (fun r s =>
    let n := Arg r 1
    if Arg r 0 > 1 || !(n = 10 || n = 16 || n = 32) || Arg64 r 2 % 64 ≠ 0 || Arg r 4 > 1048576 then (.done stBadArg [], s)
    else match s.workKey with
      | none => (.done stState [], s)
      | some (i, k) =>
        if k.alg ≠ 1 then (.done stBadArg [], s)
        else if err then dmaError s
        else macReply r i n 5 32 k (be 32 (Config.hmac k.material (nats (data.take (Arg r 4))))) (progress src (Arg r 4) s)) s)

/-- GMAC. -/
def execGmac (src : CmdSrc) (args : List Nat) (data : Bytes) (err : Bool) (s : State) : Out :=
  .next (runCmd 0x0307 src args (fun r s =>
    let n := Arg r 1
    if Arg r 0 > 1 || !(n = 8 || n = 16) || Arg64 r 5 % 64 ≠ 0 || Arg r 7 > 1048576 then (.done stBadArg [], s)
    else match s.workKey with
      | none => (.done stState [], s)
      | some (i, k) =>
        if k.alg ≠ 2 && k.alg ≠ 3 then (.done stBadArg [], s)
        else if err then dmaError s
        else
          let iv := nats (argBytes r 2 3)
          macReply r i n 8 16 k (be 16 (Config.gmac k.alg k.material iv (nats (data.take (Arg r 7))))) (progress src (Arg r 7) s)) s)

end Sys2Proof.Machine
end

