-- ==== Sys2Proof/Machine/LaneRows.lean ====
section
/-!
DEFINITION. The commands of the lane kernels that work on numbers alone (R219): item `item` of instance `n`, which must be
running with that kernel, computes its result. Its ITEM_RETIRE writes the block.
-/

namespace Sys2Proof.Machine

/-- GATHER (R219, kernel 0x01). -/
def execGather (n : Nat) (item : Fin 4096) (s : State) : Out := .next (runKernel 0x01 kGather n item s)

/-- QUAL_SCAN (R219, kernel 0x02). -/
def execQualScan (n : Nat) (item : Fin 4096) (s : State) : Out := .next (runKernel 0x02 kQualScan n item s)

/-- RSMP_STATUS (R219, kernel 0x03). -/
def execRsmpStatus (n : Nat) (item : Fin 4096) (s : State) : Out := .next (runKernel 0x03 kRsmpStatus n item s)

/-- SELECT (R219, kernel 0x04). -/
def execSelect (n : Nat) (item : Fin 4096) (s : State) : Out := .next (runKernel 0x04 kSelect n item s)

/-- SCALE (R219, kernel 0x05). -/
def execScale (n : Nat) (item : Fin 4096) (s : State) : Out := .next (runKernel 0x05 kScale n item s)

/-- MASK_LOGIC (R219, kernel 0x06). -/
def execMaskLogic (n : Nat) (item : Fin 4096) (s : State) : Out := .next (runKernel 0x06 kMaskLogic n item s)

/-- COUNT_FLAGS (R219, kernel 0x07). -/
def execCountFlags (n : Nat) (item : Fin 4096) (s : State) : Out := .next (runKernel 0x07 kCountFlags n item s)

/-- PH_TO_POLAR (R219, kernel 0x08). -/
def execPhToPolar (n : Nat) (item : Fin 4096) (s : State) : Out := .next (runKernel 0x08 kPhToPolar n item s)

/-- PH_TO_RECT (R219, kernel 0x09). -/
def execPhToRect (n : Nat) (item : Fin 4096) (s : State) : Out := .next (runKernel 0x09 kPhToRect n item s)

/-- PH_ANGDIFF (R219, kernel 0x0A). -/
def execPhAngdiff (n : Nat) (item : Fin 4096) (s : State) : Out := .next (runKernel 0x0A kPhAngdiff n item s)

/-- PH_ROTATE (R219, kernel 0x0B). -/
def execPhRotate (n : Nat) (item : Fin 4096) (s : State) : Out := .next (runKernel 0x0B kPhRotate n item s)

/-- PH_SEQ (R219, kernel 0x0C). -/
def execPhSeq (n : Nat) (item : Fin 4096) (s : State) : Out := .next (runKernel 0x0C kPhSeq n item s)

/-- PH_POWER (R219, kernel 0x0D). -/
def execPhPower (n : Nat) (item : Fin 4096) (s : State) : Out := .next (runKernel 0x0D kPhPower n item s)

/-- PH_POWER3 (R219, kernel 0x0E). -/
def execPhPower3 (n : Nat) (item : Fin 4096) (s : State) : Out := .next (runKernel 0x0E kPhPower3 n item s)

/-- PH_WSUM (R219, kernel 0x0F). -/
def execPhWsum (n : Nat) (item : Fin 4096) (s : State) : Out := .next (runKernel 0x0F kPhWsum n item s)

/-- PH_UNBAL (R219, kernel 0x10). -/
def execPhUnbal (n : Nat) (item : Fin 4096) (s : State) : Out := .next (runKernel 0x10 kPhUnbal n item s)

/-- FREQ_WMEAN (R219, kernel 0x11). -/
def execFreqWmean (n : Nat) (item : Fin 4096) (s : State) : Out := .next (runKernel 0x11 kFreqWmean n item s)

/-- SIG_FIR (R219, kernel 0x12). -/
def execSigFir (n : Nat) (item : Fin 4096) (s : State) : Out := .next (runKernel 0x12 kSigFir n item s)

/-- SIG_DIFF (R219, kernel 0x13). -/
def execSigDiff (n : Nat) (item : Fin 4096) (s : State) : Out := .next (runKernel 0x13 kSigDiff n item s)

/-- ANG_UNWRAP (R219, kernel 0x14). -/
def execAngUnwrap (n : Nat) (item : Fin 4096) (s : State) : Out := .next (runKernel 0x14 kAngUnwrap n item s)

/-- ANG_WRAP (R219, kernel 0x15). -/
def execAngWrap (n : Nat) (item : Fin 4096) (s : State) : Out := .next (runKernel 0x15 kAngWrap n item s)

/-- CMATVEC (R219, kernel 0x16). -/
def execCmatvec (n : Nat) (item : Fin 4096) (s : State) : Out := .next (runKernel 0x16 kCmatvec n item s)

/-- RMATVEC (R219, kernel 0x17). -/
def execRmatvec (n : Nat) (item : Fin 4096) (s : State) : Out := .next (runKernel 0x17 kRmatvec n item s)

/-- LSQ_SMALL (R219, kernel 0x18). -/
def execLsqSmall (n : Nat) (item : Fin 4096) (s : State) : Out := .next (runKernel 0x18 kLsqSmall n item s)

/-- INTERP_LIN (R219, kernel 0x19). -/
def execInterpLin (n : Nat) (item : Fin 4096) (s : State) : Out := .next (runKernel 0x19 kInterpLin n item s)

/-- MINMAX (R219, kernel 0x1A). -/
def execMinmax (n : Nat) (item : Fin 4096) (s : State) : Out := .next (runKernel 0x1A kMinmax n item s)

/-- EWMA_VAR (R219, kernel 0x1B). -/
def execEwmaVar (n : Nat) (item : Fin 4096) (s : State) : Out := .next (runKernel 0x1B kEwmaVar n item s)

/-- TOPK (R219, kernel 0x1C). -/
def execTopk (n : Nat) (item : Fin 4096) (s : State) : Out := .next (runKernel 0x1C kTopk n item s)

/-- CLAMP (R219, kernel 0x1D). -/
def execClamp (n : Nat) (item : Fin 4096) (s : State) : Out := .next (runKernel 0x1D kClamp n item s)

/-- STAT_BLOCK (R219, kernel 0x1E). -/
def execStatBlock (n : Nat) (item : Fin 4096) (s : State) : Out := .next (runKernel 0x1E kStatBlock n item s)

/-- DET_LEVEL (R219, kernel 0x20). -/
def execDetLevel (n : Nat) (item : Fin 4096) (s : State) : Out := .next (runKernel 0x20 kDetLevel n item s)

/-- DET_RATE (R219, kernel 0x21). -/
def execDetRate (n : Nat) (item : Fin 4096) (s : State) : Out := .next (runKernel 0x21 kDetRate n item s)

/-- DET_ANGSEP (R219, kernel 0x22). -/
def execDetAngsep (n : Nat) (item : Fin 4096) (s : State) : Out := .next (runKernel 0x22 kDetAngsep n item s)

/-- DET_SAGSWELL (R219, kernel 0x23). -/
def execDetSagswell (n : Nat) (item : Fin 4096) (s : State) : Out := .next (runKernel 0x23 kDetSagswell n item s)

/-- DET_FREQ (R219, kernel 0x24). -/
def execDetFreq (n : Nat) (item : Fin 4096) (s : State) : Out := .next (runKernel 0x24 kDetFreq n item s)

/-- DET_STEP (R219, kernel 0x25). -/
def execDetStep (n : Nat) (item : Fin 4096) (s : State) : Out := .next (runKernel 0x25 kDetStep n item s)

/-- DET_DIGITAL (R219, kernel 0x26). -/
def execDetDigital (n : Nat) (item : Fin 4096) (s : State) : Out := .next (runKernel 0x26 kDetDigital n item s)

/-- DET_VOTE (R219, kernel 0x27). -/
def execDetVote (n : Nat) (item : Fin 4096) (s : State) : Out := .next (runKernel 0x27 kDetVote n item s)

/-- EVT_MERGE (R219, kernel 0x2B). -/
def execEvtMerge (n : Nat) (item : Fin 4096) (s : State) : Out := .next (runKernel 0x2B kEvtMerge n item s)

/-- SPEC_PREP (R219, kernel 0x30). -/
def execSpecPrep (n : Nat) (item : Fin 4096) (s : State) : Out := .next (runKernel 0x30 kSpecPrep n item s)

/-- MODE_PREP (R219, kernel 0x31). -/
def execModePrep (n : Nat) (item : Fin 4096) (s : State) : Out := .next (runKernel 0x31 kModePrep n item s)

/-- COH_PREP (R219, kernel 0x32). -/
def execCohPrep (n : Nat) (item : Fin 4096) (s : State) : Out := .next (runKernel 0x32 kCohPrep n item s)

/-- ACC_PREP (R219, kernel 0x33). -/
def execAccPrep (n : Nat) (item : Fin 4096) (s : State) : Out := .next (runKernel 0x33 kAccPrep n item s)

/-- DEF_PREP (R219, kernel 0x34). -/
def execDefPrep (n : Nat) (item : Fin 4096) (s : State) : Out := .next (runKernel 0x34 kDefPrep n item s)

/-- PMU_HEALTH (R219, kernel 0x36). -/
def execPmuHealth (n : Nat) (item : Fin 4096) (s : State) : Out := .next (runKernel 0x36 kPmuHealth n item s)

/-- OUT_DECIM (R219, kernel 0x38). -/
def execOutDecim (n : Nat) (item : Fin 4096) (s : State) : Out := .next (runKernel 0x38 kOutDecim n item s)

/-- OUT_PACK_RAW (R219, kernel 0x3B). -/
def execOutPackRaw (n : Nat) (item : Fin 4096) (s : State) : Out := .next (runKernel 0x3B kGather n item s)

/-- TICK_SUMMARY (R219, kernel 0x3E). -/
def execTickSummary (n : Nat) (item : Fin 4096) (s : State) : Out := .next (runKernel 0x3E kTickSummary n item s)

end Sys2Proof.Machine
end

