-- ==== Sys2Proof/Machine/Power.lean ====
section
/-!
DEFINITION. Start, shutdown and resets (R32, R43–R60, R386, R471, R530): the staged start with its pauses, VIN and temperature, power fail
with shedding and commit, MOD_RESET_N, and the PCI Express resets.
-/

namespace Sys2Proof.Machine

def State.setPwr (s : State) (p : Pwr) : State := { s with pwr := p }
def State.setPwrM (s : State) (m : PwrMram) : State := { s with mram := { s.mram with pwr := m } }

/-! ### Switching off (R43, R55, R530) -/

/-- Every PIO pin goes high-impedance. -/
def pinsFloat (s : State) : State :=
  let on : List (Option Bool × Nat) := s.pio.zipIdx.filter fun x => x.1.isSome
  State.emits { s with pio := List.replicate 16 none } (on.map fun x => .pin "PIO" x.2 none)

/-- A register of the AON domain (R520). -/
def aonKey (k : Nat) : Bool := k / 32 / 0x10000 = 0x00 || k / 32 / 0x10000 = 0x13

/-- Everything outside MRAM and NAND is lost; with `aon` the registers of the AON domain stay. An open Bench session stays for the next
start to close (R500). -/
def clearVolatile (aon : Bool) (s : State) : State :=
  let r := Sys2Proof.Machine.State.reset
  { r with regs := if aon then s.regs.filter fun e => aonKey e.1 else [], mram := s.mram, nand := s.nand, up := s.up, fv := s.fv,
           out := s.out, pending := s.pending, bench := { r.bench with open_ := s.bench.open_ },
           pwr := { r.pwr with perst := s.pwr.perst, maxGen := s.pwr.maxGen, thermHold := s.pwr.thermHold, ovHold := s.pwr.ovHold } }

/-! ### Cold start (R50, R54, R58, R373) -/

/-- The registers that show what a start found: of the shutdown, of the reset, of MRAM. -/
def startRegs (s : State) : State :=
  let m := s.mram.pwr
  let off := if m.started then m.marker.getD 4 else 0
  let s := (s.wr fSYS_PWR_STS_LAST_OFF off).wrB fSYS_PWR_STS_LAST_COMMIT_OK m.marker.isSome
  let s := ((s.wr fSYS_PWR_STS_PAUSES 0).wr fSYS_PWR_STS_RAMP_DIV 0).wrB fSYS_PWR_STS_START_PAUSED false
  let s := (s.wr fSYS_PWR_STS_START_STAGE 0).wrB fSYS_PWR_STS_HOLDUP_OK false
  let s := s.wr fSYS_PWR_CFG_PF_MV 8500
  let s := s.wr fDOM_RST_STS_CAUSE (if m.byModRst then 2 else if m.marker.isSome then 1 else 0)
  let s := (s.wr fCLV_UTC_CFG_TAI_UTC m.taiUtc).wr64 fPAIR_EPOCH_LO_E_LO s.mram.epoch
  slotSync (s.wr fBUR_TAMPER_STS_EVENTS s.mram.bur.tamper)

/-- The restores of S0: accounting, whose power-fail mark counts only after a shutdown or while newer than every slot (R304); the Bureau
(R386, R382, R393). -/
def restoreMram (s : State) : State :=
  let gen := match newestSlot s.mram.acc with | some x => x.2.gen | none => 0
  let stale : Bool := match s.mram.acc.mark with | some m => s.mram.pwr.marker.isNone && m.2.2 ≤ gen | none => false
  let s := accRestore (if stale then s.setAccM { s.mram.acc with mark := none } else s)
  burExpire (burRestore (zeroizeAtStart s))

/-- The START record (R373). The first start has no START before it: that field is free (log entry 3). -/
def startRecord (s : State) : State :=
  let prev := if s.mram.pwr.started then s.mram.chs.lastStart else s.freeVal 45
  post 0x02 (le 1 (s.rd fSYS_PWR_STS_LAST_OFF) ++ le 1 (s.rd fSYS_PWR_STS_LAST_COMMIT_OK) ++ le 1 (s.rd fACC_RESTORE_STS_CASE) ++ le 1 0 ++
    le 8 prev) s.nextFree

/-- What S0 does: the energy store measures `storeUf` µF; `tamperLow`: TAMPER_N is found low. -/
def coldStart (storeUf : Nat) (tamperLow : Bool) (s : State) : State :=
  let wasOpen := s.bench.open_
  let s := s.setPwr { s.pwr with phase := .start 0, thermHold := false, ovHold := false, storeUf := storeUf }
  let s := { s with clv := { s.clv with now := s.mram.pwr.time * 1000000000 }, bench := { s.bench with open_ := false },
                    pmc := { s.pmc with lfsr := s.freeVal 44 % 2 ^ 31 } }.nextFree
  let s := startRegs s
  let s := chestFault (.nandAccepts true) s
  let s := startRecord (restoreMram s)
  let s := s.setPwrM { s.mram.pwr with marker := none, started := true, byModRst := false }
  let s := lostNotes s
  let s := if tamperLow then tamperEvent s.ns32 (s.wrB fBUR_TAMPER_STS_LEVEL true) else s
  let s := if wasOpen then post 0xB3 (le 1 4 ++ le 1 0 ++ le 2 0) s else s
  let s := s.wrB fSYS_PWR_STS_STORE_WEAK (storeUf < 560)
  if storeUf < 560 then post 0x06 (le 4 storeUf) s else s

/-- The conditions of R50, R47 and R32 on VIN and the die (in 0.1 °C). -/
def State.mayStart (s : State) (vinMv : Nat) (die : Int) : Bool :=
  (s.pwr.phase = .off || s.pwr.phase = .held) && vinMv ≥ 9300 && !(s.pwr.ovHold && vinMv > 60000) && !(s.pwr.thermHold && die ≥ 1050)

/-- THERMAL_HIGH at or above 118 °C, at most once a minute while that lasts (R32). -/
def thermalHigh (die lid : Int) (s : State) : State :=
  if die < 1180 then s.setPwr { s.pwr with thermRec := none }
  else
    let due : Bool := match s.pwr.thermRec with | some t => s.up ≥ t + 60000000000 | none => true
    if due then post 0x04 (le 2 (ofSigned 16 die) ++ le 2 (ofSigned 16 lid)) (s.setPwr { s.pwr with thermRec := some s.up }) else s

/-- COLD_START. -/
def execColdStart (vinMv storeUf : Nat) (die lid : Int) (tamperLow : Bool) (s : State) : Out :=
  .next (if s.mayStart vinMv die then thermalHigh die lid (coldStart storeUf tamperLow s) else s)

/-! ### The stages (R50 to R52) -/

/-- Groups of stage S2 (ports) and S3 (lanes). -/
def stageGroups (stage : Nat) : Nat := if stage = 2 then 4 else if stage = 3 then 8 else 0

def State.startPaused (s : State) : Bool := s.on fSYS_PWR_STS_START_PAUSED

/-- START_GROUP_RAMP: the group before has settled; the next one begins its ramp. -/
def execStartGroupRamp (s : State) : Out :=
  .next (match s.pwr.phase with
    | .start k =>
      let g := if s.pwr.ramping then s.pwr.groups + 1 else s.pwr.groups
      if s.startPaused || g ≥ stageGroups k then s else s.setPwr { s.pwr with groups := g, ramping := true }
    | _ => s)

/-- The PCI Express link comes up: MSI-X messages held while it was down go out (R479). -/
def pcieUp (s : State) : State :=
  let l := s.mbx.held
  let s := { s with pwr := { s.pwr with pcieUp := true }, mbx := { s.mbx with held := [] } }
  l.foldl State.msix s

/-- The image of a slot, if it passes the checks of R465 (R471); a slot that is EMPTY has none to reject. -/
def trySlot (k : Nat) (s : State) : Option Image × State :=
  match s.nand.slots.getD k none with
  | none => (none, s)
  | some i =>
    match imageReject s i.file i with
    | some c => (none, (rejectImage k c s).2)
    | none => (some i, s)

/-- S4: the slot last made active, then the other (R471, R391). -/
def startFromSlots (s : State) : State :=
  let a := s.mram.activeSlot % 2
  let (x, s) := trySlot a s
  match x with
  | some i => startImage a i s
  | none =>
    let (y, s) := trySlot (1 - a) s
    match y with
    | some i =>
      startImage (1 - a) i (({ s with mram := { s.mram with activeSlot := 1 - a } }).wrB fTMB_IMG_STS_FALLBACK true)
    | none => s

/-- A stage has ended and the next begins. -/
def nextStage (k : Nat) (s : State) : State :=
  let s := s.setPwr { s.pwr with phase := if k = 4 then .running else .start (k + 1), groups := 0, ramping := false }
  let s := s.wr fSYS_PWR_STS_START_STAGE (if k = 4 then 7 else k + 1)
  if k = 0 then
    (s.setPwr { s.pwr with todTx := true }).emit (.pin "GNSS_TOD_TX" 0 (some true))
  else if k = 1 then
    let s := State.emit { s with pwr := { s.pwr with pgood := true }, clv := { s.clv with s1End := s.up } } (.pin "PGOOD" 0 (some true))
    if s.pwr.perst then s else pcieUp s
  else if k = 4 then startFromSlots s
  else s

/-- HOLDUP_OK: the store stands at 46 V or more and S0 measured at least 0.56 mF (R58). -/
def holdup (storeMv : Nat) (s : State) : State := s.wrB fSYS_PWR_STS_HOLDUP_OK (storeMv ≥ 46000 && s.pwr.storeUf ≥ 560)

/-- START_STAGE_COMPLETE: the store stands at `storeMv`. S2 and S3 end once their last group has ramped. -/
def execStartStageComplete (storeMv : Nat) (s : State) : Out :=
  .next (match s.pwr.phase with
    | .start k =>
      if s.startPaused || k > 4 || (stageGroups k ≠ 0 && !(s.pwr.ramping && s.pwr.groups + 1 = stageGroups k)) then s
      else nextStage k (holdup storeMv s)
    | _ => s)

/-- START_PAUSED (R52): a group that was ramping is switched off. -/
def execStartPaused (vinMv : Nat) (s : State) : Out :=
  .next (match s.pwr.phase with
    | .start k =>
      if s.startPaused || vinMv ≥ 9000 then s
      else
        let s := s.setPwr { s.pwr with ramping := false }
        let s := ((s.wrB fSYS_PWR_STS_START_PAUSED true).wrB fSYS_PWR_STS_SUPPLY_FOLLOW true).inc fSYS_PWR_STS_PAUSES
        post 0x05 (le 1 k ++ le 1 (s.rd fSYS_PWR_STS_RAMP_DIV) ++ le 2 vinMv) s
    | _ => s)

/-- START_RESUME (R52): in S2 and S3 the ramp divisor doubles, up to 8, and the same group ramps again. -/
def execStartResume (s : State) : Out :=
  .next (match s.pwr.phase with
    | .start k =>
      if !s.startPaused then s
      else
        let s := s.wrB fSYS_PWR_STS_START_PAUSED false
        if stageGroups k = 0 then s
        else (s.wr fSYS_PWR_STS_RAMP_DIV (min 3 (s.rd fSYS_PWR_STS_RAMP_DIV + 1))).setPwr { s.pwr with ramping := true }
    | _ => s)

/-! ### VIN and temperature (R32, R47, R58, R60) -/

/-- VIN_TEMP_SAMPLE: VIN in mV, input current in mA, the store's voltage in mV, temperatures in 0.1 °C. -/
def execVinTempSample (vinMv iinMa storeMv : Nat) (die lid : Int) (s : State) : Out :=
  .next (
    if !(s.reached 0 || s.shedding) then s
    else
      let s := (s.wr fSYS_VIN_STS_IIN_MA iinMa).wr fSYS_VIN_STS_VIN_MV vinMv
      let s := (s.wr fSYS_TEMP_STS_DIE (ofSigned 16 die)).wr fSYS_TEMP_STS_LID (ofSigned 16 lid)
      thermalHigh die lid ((holdup storeMv s).wrB fSYS_PWR_STS_VIN_LOW (vinMv < 9000 && vinMv > s.rd fSYS_PWR_CFG_PF_MV)))

/-! ### Power fail, shedding and commit (R53 to R57) -/

/-- Every unit stops: no further tick, the one in progress abandoned; frames not begun are not sent; nothing waits any more. -/
def shed (s : State) : State :=
  let s := tstOff (s.wrB fCLV_STS_TICKING false)
  let s := s.setTmb { s.tmb with insts := [], queues := [], running := [] }
  let stop (p : Port) : Port := { p with fifo := [], express := [] }
  let s := { s with swap := none, egr := { s.egr with ports := [], waits := [] }, ports := s.ports.map stop }
  let s := lmfStop (s.setMbx { s.mbx with run := [], wait := [], held := [] })
  s.setPwr { s.pwr with pcieUp := false, ramping := false }

/-- A declaration: 1 power fail, 2 OVERVOLTAGE, 3 THERMAL. -/
def declareOff (reason vinMv : Nat) (die : Int) (s : State) : State :=
  let s := s.setPwr { s.pwr with phase := .shedding reason, pfailN := false, pgood := false }
  let s := (s.emit (.pin "PFAIL_N" 0 (some false))).emit (.pin "PGOOD" 0 (some false))
  let s := abdicate (if reason = 3 then abdThermal else abdSupply) false s
  let s := drainPosts (post 0x03 (le 1 reason ++ le 1 0 ++ le 2 vinMv ++ le 2 (ofSigned 16 die)) s)
  shed (if s.acc.lastTick.isSome then accMark s else s)

/-- THERMAL_SHUTDOWN: the die is at or above 125 °C. -/
def execThermalShutdown (vinMv : Nat) (die lid : Int) (s : State) : Out :=
  .next (if s.reached 0 && die ≥ 1250 then declareOff 3 vinMv die (thermalHigh die lid s) else s)

/-- OVERVOLTAGE: VIN is above 62.0 V. -/
def execOvervoltage (vinMv : Nat) (die : Int) (s : State) : Out :=
  .next (if s.reached 0 && vinMv > 62000 then declareOff 2 vinMv die s else s)

/-- POWER_FAIL: VIN is below PF_MV. A start in progress is abandoned (R52). -/
def execPowerFail (vinMv : Nat) (die : Int) (s : State) : Out :=
  .next (if s.reached 0 && vinMv < s.rd fSYS_PWR_CFG_PF_MV then declareOff 1 vinMv die s else s)

/-- SHUTDOWN_COMMIT: accounting, the Chest, the marker; the module switches off. The Bureau starts no write (R387). -/
def execShutdownCommit (s : State) : Out :=
  .next (match s.pwr.phase with
    | .shedding r =>
      let s := writeDesc (drainPosts (if s.acc.lastTick.isSome then accPowerFailCommit s else s))
      let s := s.setPwrM { s.mram.pwr with marker := some r }
      let s := s.setPwr { s.pwr with thermHold := r = 3, ovHold := r = 2 }
      clearVolatile false (pinsFloat s)
    | _ => s)

/-! ### Resets (R45, R530) -/

/-- MOD_RESET: the module is held until a start; nothing is committed. A slot of accounting in the midst of its write is torn. A shutdown
that has been declared runs to its end first (R56, R530). -/
def execModReset (s : State) : Out :=
  .next (
    if !s.reached 0 then s
    else
      let s := match s.acc.write with
        | some (k, sl) => s.setAccM { s.mram.acc with slots := s.mram.acc.slots.set k (some { sl with complete := false }) }
        | none => s
      let s := s.setPwrM { s.mram.pwr with marker := none, modRst := satAdd 32 s.mram.pwr.modRst 1, byModRst := true }
      let s := if s.dom.held.isEmpty && s.dom.stalled.isEmpty then s else s.flag fDOM_FLT_FLAGS 0
      let s := clearVolatile true (pinsFloat s)
      s.setPwr { s.pwr with phase := .held })

/-- AON counts resets while the module has VIN and is not switched off. -/
def State.aonRuns (s : State) : Bool := s.pwr.phase ≠ .off

/-- PCIE_PERST_ASSERT. -/
def execPciePerstAssert (s : State) : Out :=
  .next (
    if s.pwr.perst then s
    else
      let s := s.setPwr { s.pwr with perst := true, pcieUp := false }
      if s.aonRuns then pcieReset (s.inc fDOM_CNT_STS_PERST_CNT) else s)

/-- PCIE_PERST_RELEASE: MAXGEN1:0 selects the highest generation; the link trains once PCI Express is up (S1). -/
def execPciePerstRelease (maxgen : Fin 4) (s : State) : Out :=
  .next (
    if !s.pwr.perst then s
    else
      let s := s.setPwr { s.pwr with perst := false, maxGen := 4 - maxgen }
      if s.reached 2 then pcieUp s else s)

/-- HOT_RESET. -/
def execHotReset (s : State) : Out := .next (if s.pwr.pcieUp then pcieReset (s.inc fDOM_CNT_STS_HOT_CNT) else s)

/-- FUNCTION_LEVEL_RESET: the link stays up. -/
def execFunctionLevelReset (s : State) : Out := .next (if s.pwr.pcieUp then pcieReset (s.inc fDOM_CNT_STS_FLR_CNT) else s)

/-- STEWARD_WATCHDOG. -/
def execStewardWatchdog (s : State) : Out :=
  .next (if s.stewAlive then (stewardReset s).flag fDOM_FLT_FLAGS 2 else s)

end Sys2Proof.Machine
end

