-- ==== Sys2Proof/Machine/Dispatch.lean ====
section
/-!
DEFINITION. One arm per command: a direct call of its meaning, or a rejection by name.
-/

namespace Sys2Proof.Machine

def exec (i : Instr) (s : State) : Host.Outcome State Fault Refusal :=
  match i with
  | .coldStart vinMv storeUf die lid tamperLow => Sys2Proof.Machine.execColdStart vinMv storeUf die lid tamperLow s
  | .startGroupRamp => Sys2Proof.Machine.execStartGroupRamp s
  | .startStageComplete storeMv => Sys2Proof.Machine.execStartStageComplete storeMv s
  | .startPaused vinMv => Sys2Proof.Machine.execStartPaused vinMv s
  | .startResume => Sys2Proof.Machine.execStartResume s
  | .vinTempSample vinMv iinMa storeMv die lid => Sys2Proof.Machine.execVinTempSample vinMv iinMa storeMv die lid s
  | .thermalShutdown vinMv die lid => Sys2Proof.Machine.execThermalShutdown vinMv die lid s
  | .overvoltage vinMv die => Sys2Proof.Machine.execOvervoltage vinMv die s
  | .powerFail vinMv die => Sys2Proof.Machine.execPowerFail vinMv die s
  | .shutdownCommit => Sys2Proof.Machine.execShutdownCommit s
  | .modReset => Sys2Proof.Machine.execModReset s
  | .pciePerstAssert => Sys2Proof.Machine.execPciePerstAssert s
  | .pciePerstRelease maxgen => Sys2Proof.Machine.execPciePerstRelease maxgen s
  | .hotReset => Sys2Proof.Machine.execHotReset s
  | .functionLevelReset => Sys2Proof.Machine.execFunctionLevelReset s
  | .stewardWatchdog => Sys2Proof.Machine.execStewardWatchdog s
  | .domRstCtl go target => Sys2Proof.Machine.execDomRstCtl go target s
  | .heldAccessRelease dom => Sys2Proof.Machine.execHeldAccessRelease dom s
  | .registerWrite off val full wide twin => Sys2Proof.Machine.execRegisterWrite off val full wide twin s
  | .rcRead off wide => Sys2Proof.Machine.execRcRead off wide s
  | .loLatchRead off wide => Sys2Proof.Machine.execLoLatchRead off wide s
  | .selectLatchWrite off val => Sys2Proof.Machine.execSelectLatchWrite off val s
  | .tickInstant n => Sys2Proof.Machine.execTickInstant n s
  | .sync k dom seq t1 t2 corr twoStep => Sys2Proof.Machine.execSync k dom seq t1 t2 corr twoStep s
  | .followUp k dom seq t1 corr => Sys2Proof.Machine.execFollowUp k dom seq t1 corr s
  | .announce k dom ds interval => Sys2Proof.Machine.execAnnounce k dom ds interval s
  | .pdelayReq k dom seq t2 asker => Sys2Proof.Machine.execPdelayReq k dom seq t2 asker s
  | .pdelayResp k dom seq t2 t3 t4 corr => Sys2Proof.Machine.execPdelayResp k dom seq t2 t3 t4 corr s
  | .delayReq k dom seq rx requester => Sys2Proof.Machine.execDelayReq k dom seq rx requester s
  | .delayResp k dom seq t4 corr => Sys2Proof.Machine.execDelayResp k dom seq t4 corr s
  | .managementMessage k dom => Sys2Proof.Machine.execManagementMessage k dom s
  | .ptpMasterTx k what => Sys2Proof.Machine.execPtpMasterTx k what s
  | .irigFrame frame => Sys2Proof.Machine.execIrigFrame frame s
  | .ppsEdge raw hold => Sys2Proof.Machine.execPpsEdge raw hold s
  | .zda baud utcSec checksumOk rxAt => Sys2Proof.Machine.execZda baud utcSec checksumOk rxAt s
  | .rmc baud statusA checksumOk utcSec => Sys2Proof.Machine.execRmc baud statusA checksumOk utcSec s
  | .firstLockWaitExpiry => Sys2Proof.Machine.execFirstLockWaitExpiry s
  | .srcLost => Sys2Proof.Machine.execSrcLost s
  | .stuck => Sys2Proof.Machine.execStuck s
  | .tickingBegin => Sys2Proof.Machine.execTickingBegin s
  | .leap => Sys2Proof.Machine.execLeap s
  | .timeMramWrite => Sys2Proof.Machine.execTimeMramWrite s
  | .reseatStep => Sys2Proof.Machine.execReseatStep s
  | .ttgArm k => Sys2Proof.Machine.execTtgArm k s
  | .ttgDisarm k => Sys2Proof.Machine.execTtgDisarm k s
  | .ttgEdge k => Sys2Proof.Machine.execTtgEdge k s
  | .captureEdge k raw hold rise => Sys2Proof.Machine.execCaptureEdge k raw hold rise s
  | .capturePop k => Sys2Proof.Machine.execCapturePop k s
  | .linkUp n fullDuplex gigabit => Sys2Proof.Machine.execLinkUp n fullDuplex gigabit s
  | .linkDown n => Sys2Proof.Machine.execLinkDown n s
  | .anRetry n fullDuplex gigabit => Sys2Proof.Machine.execAnRetry n fullDuplex gigabit s
  | .linkRestart n => Sys2Proof.Machine.execLinkRestart n s
  | .macRxFrame n stamp bytes fin ce => Sys2Proof.Machine.execMacRxFrame n stamp bytes fin ce s
  | .dupLookup n stamp bytes => Sys2Proof.Machine.execDupLookup n stamp bytes s
  | .dupWaitRelease n => Sys2Proof.Machine.execDupWaitRelease n s
  | .dupEntryExpire => Sys2Proof.Machine.execDupEntryExpire s
  | .pauseRx n quanta => Sys2Proof.Machine.execPauseRx n quanta s
  | .pauseExpire n => Sys2Proof.Machine.execPauseExpire n s
  | .pauseObeyWrite n v => Sys2Proof.Machine.execPauseObeyWrite n v s
  | .pmacVerify n => Sys2Proof.Machine.execPmacVerify n s
  | .verifyResponseRx n => Sys2Proof.Machine.execVerifyResponseRx n s
  | .pmacEnWrite n v => Sys2Proof.Machine.execPmacEnWrite n v s
  | .txFrameStart n sent => Sys2Proof.Machine.execTxFrameStart n sent s
  | .txFrameSent n stamp ue ce => Sys2Proof.Machine.execTxFrameSent n stamp ue ce s
  | .egressSchedule n => Sys2Proof.Machine.execEgressSchedule n s
  | .hostRxRingPlace n addrs => Sys2Proof.Machine.execHostRxRingPlace n addrs s
  | .ingressParse n => Sys2Proof.Machine.execIngressParse n s
  | .dataFrame src => Sys2Proof.Machine.execDataFrame src s
  | .cfg1Frame src => Sys2Proof.Machine.execCfg1Frame src s
  | .cfg2Frame src => Sys2Proof.Machine.execCfg2Frame src s
  | .cfg3Frame src contIdx cfg desc => Sys2Proof.Machine.execCfg3Frame src contIdx cfg desc s
  | .headerFrame src => Sys2Proof.Machine.execHeaderFrame src s
  | .ieee1344DataFrame n d => Sys2Proof.Machine.execIeee1344DataFrame n d s
  | .ieee1344CfgFrame n ident sizeOk chkOk cfg => Sys2Proof.Machine.execIeee1344CfgFrame n ident sizeOk chkOk cfg s
  | .routedSvFrame n f => Sys2Proof.Machine.execRoutedSvFrame n f s
  | .cfgActivate stream => Sys2Proof.Machine.execCfgActivate stream s
  | .ingressCommit src => Sys2Proof.Machine.execIngressCommit src s
  | .tcpConnect conn => Sys2Proof.Machine.execTcpConnect conn s
  | .tcpRetry conn => Sys2Proof.Machine.execTcpRetry conn s
  | .tcpDown conn => Sys2Proof.Machine.execTcpDown conn s
  | .membershipReport query => Sys2Proof.Machine.execMembershipReport query s
  | .arpRequest n target asker askMac => Sys2Proof.Machine.execArpRequest n target asker askMac s
  | .macResolve => Sys2Proof.Machine.execMacResolve s
  | .recordArrival => Sys2Proof.Machine.execRecordArrival s
  | .resamplerInput => Sys2Proof.Machine.execResamplerInput s
  | .closeTokenIssue => Sys2Proof.Machine.execCloseTokenIssue s
  | .closeTokenProcess => Sys2Proof.Machine.execCloseTokenProcess s
  | .missingTemplateWrite => Sys2Proof.Machine.execMissingTemplateWrite s
  | .learningMramWrite cut => Sys2Proof.Machine.execLearningMramWrite cut s
  | .pghSramUe e stats n slot => Sys2Proof.Machine.execPghSramUe e stats n slot s
  | .instanceActivate => Sys2Proof.Machine.execInstanceActivate s
  | .itemDispatch gong => Sys2Proof.Machine.execItemDispatch gong s
  | .itemStart place late => Sys2Proof.Machine.execItemStart place late s
  | .itemRetire place extra => Sys2Proof.Machine.execItemRetire place extra s
  | .agePromotion => Sys2Proof.Machine.execAgePromotion s
  | .tableSramUe e n item => Sys2Proof.Machine.execTableSramUe e n item s
  | .laneLsUe e lane => Sys2Proof.Machine.execLaneLsUe e lane s
  | .fetchUe place k slot => Sys2Proof.Machine.execFetchUe place k slot s
  | .gather n item => Sys2Proof.Machine.execGather n item s
  | .qualScan n item => Sys2Proof.Machine.execQualScan n item s
  | .rsmpStatus n item => Sys2Proof.Machine.execRsmpStatus n item s
  | .select n item => Sys2Proof.Machine.execSelect n item s
  | .scale n item => Sys2Proof.Machine.execScale n item s
  | .maskLogic n item => Sys2Proof.Machine.execMaskLogic n item s
  | .countFlags n item => Sys2Proof.Machine.execCountFlags n item s
  | .phToPolar n item => Sys2Proof.Machine.execPhToPolar n item s
  | .phToRect n item => Sys2Proof.Machine.execPhToRect n item s
  | .phAngdiff n item => Sys2Proof.Machine.execPhAngdiff n item s
  | .phRotate n item => Sys2Proof.Machine.execPhRotate n item s
  | .phSeq n item => Sys2Proof.Machine.execPhSeq n item s
  | .phPower n item => Sys2Proof.Machine.execPhPower n item s
  | .phPower3 n item => Sys2Proof.Machine.execPhPower3 n item s
  | .phWsum n item => Sys2Proof.Machine.execPhWsum n item s
  | .phUnbal n item => Sys2Proof.Machine.execPhUnbal n item s
  | .freqWmean n item => Sys2Proof.Machine.execFreqWmean n item s
  | .sigFir n item => Sys2Proof.Machine.execSigFir n item s
  | .sigDiff n item => Sys2Proof.Machine.execSigDiff n item s
  | .angUnwrap n item => Sys2Proof.Machine.execAngUnwrap n item s
  | .angWrap n item => Sys2Proof.Machine.execAngWrap n item s
  | .cmatvec n item => Sys2Proof.Machine.execCmatvec n item s
  | .rmatvec n item => Sys2Proof.Machine.execRmatvec n item s
  | .lsqSmall n item => Sys2Proof.Machine.execLsqSmall n item s
  | .interpLin n item => Sys2Proof.Machine.execInterpLin n item s
  | .minmax n item => Sys2Proof.Machine.execMinmax n item s
  | .ewmaVar n item => Sys2Proof.Machine.execEwmaVar n item s
  | .topk n item => Sys2Proof.Machine.execTopk n item s
  | .clamp n item => Sys2Proof.Machine.execClamp n item s
  | .statBlock n item => Sys2Proof.Machine.execStatBlock n item s
  | .detLevel n item => Sys2Proof.Machine.execDetLevel n item s
  | .detRate n item => Sys2Proof.Machine.execDetRate n item s
  | .detAngsep n item => Sys2Proof.Machine.execDetAngsep n item s
  | .detSagswell n item => Sys2Proof.Machine.execDetSagswell n item s
  | .detFreq n item => Sys2Proof.Machine.execDetFreq n item s
  | .detStep n item => Sys2Proof.Machine.execDetStep n item s
  | .detDigital n item => Sys2Proof.Machine.execDetDigital n item s
  | .detVote n item => Sys2Proof.Machine.execDetVote n item s
  | .almPost n item => Sys2Proof.Machine.execAlmPost n item s
  | .almPio n item => Sys2Proof.Machine.execAlmPio n item s
  | .evtPost n item => Sys2Proof.Machine.execEvtPost n item s
  | .evtMerge n item => Sys2Proof.Machine.execEvtMerge n item s
  | .specPrep n item => Sys2Proof.Machine.execSpecPrep n item s
  | .modePrep n item => Sys2Proof.Machine.execModePrep n item s
  | .cohPrep n item => Sys2Proof.Machine.execCohPrep n item s
  | .accPrep n item => Sys2Proof.Machine.execAccPrep n item s
  | .defPrep n item => Sys2Proof.Machine.execDefPrep n item s
  | .snrPrep n item => Sys2Proof.Machine.execSnrPrep n item s
  | .pmuHealth n item => Sys2Proof.Machine.execPmuHealth n item s
  | .outDecim n item => Sys2Proof.Machine.execOutDecim n item s
  | .outPack2011 n item => Sys2Proof.Machine.execOutPack2011 n item s
  | .outPack2005 n item => Sys2Proof.Machine.execOutPack2005 n item s
  | .outPackRaw n item => Sys2Proof.Machine.execOutPackRaw n item s
  | .outStat n item => Sys2Proof.Machine.execOutStat n item s
  | .outAmendPack n item => Sys2Proof.Machine.execOutAmendPack n item s
  | .tickSummary n item => Sys2Proof.Machine.execTickSummary n item s
  | .nop n item src args => Sys2Proof.Machine.execNop n item src args s
  | .sdftUpdate n item => Sys2Proof.Machine.execSdftUpdate n item s
  | .defUpdate n item => Sys2Proof.Machine.execDefUpdate n item s
  | .modeTrack n item => Sys2Proof.Machine.execModeTrack n item s
  | .components n item => Sys2Proof.Machine.execComponents n item s
  | .integrate n item => Sys2Proof.Machine.execIntegrate n item s
  | .compose n item => Sys2Proof.Machine.execCompose n item s
  | .amend n item => Sys2Proof.Machine.execAmend n item s
  | .specStateUe e what index => Sys2Proof.Machine.execSpecStateUe e what index s
  | .cohSramUe e => Sys2Proof.Machine.execCohSramUe e s
  | .alarmFrameSend cls n => Sys2Proof.Machine.execAlarmFrameSend cls n s
  | .alarmHeartbeat d n => Sys2Proof.Machine.execAlarmHeartbeat d n s
  | .gooseRetransmit k => Sys2Proof.Machine.execGooseRetransmit k s
  | .almAck all k => Sys2Proof.Machine.execAlmAck all k s
  | .almInh bits => Sys2Proof.Machine.execAlmInh bits s
  | .maxClr => Sys2Proof.Machine.execMaxClr s
  | .minClr => Sys2Proof.Machine.execMinClr s
  | .accCommit fail => Sys2Proof.Machine.execAccCommit fail s
  | .accSramUe e c => Sys2Proof.Machine.execAccSramUe e c s
  | .pulseStart k => Sys2Proof.Machine.execPulseStart k s
  | .pulseEnd k => Sys2Proof.Machine.execPulseEnd k s
  | .cmdTurnOff c => Sys2Proof.Machine.execCmdTurnOff c s
  | .cmdTurnOn c => Sys2Proof.Machine.execCmdTurnOn c s
  | .cmdSendHeader c => Sys2Proof.Machine.execCmdSendHeader c s
  | .cmdSendCfg1 c => Sys2Proof.Machine.execCmdSendCfg1 c s
  | .cmdSendCfg2 c => Sys2Proof.Machine.execCmdSendCfg2 c s
  | .cmdSendCfg3 c => Sys2Proof.Machine.execCmdSendCfg3 c s
  | .composerBpWaitEnd => Sys2Proof.Machine.execComposerBpWaitEnd s
  | .rawBlockWrite k addrs => Sys2Proof.Machine.execRawBlockWrite k addrs s
  | .hostTxProdWrite n prod descs => Sys2Proof.Machine.execHostTxProdWrite n prod descs s
  | .ringDmaFault r => Sys2Proof.Machine.execRingDmaFault r s
  | .snareArm k => Sys2Proof.Machine.execSnareArm k s
  | .snareDisarm k => Sys2Proof.Machine.execSnareDisarm k s
  | .snareRelease k => Sys2Proof.Machine.execSnareRelease k s
  | .snareHostTrig k => Sys2Proof.Machine.execSnareHostTrig k s
  | .snarePioEdge pin raw hold rise => Sys2Proof.Machine.execSnarePioEdge pin raw hold rise s
  | .snareAutoTrigger k => Sys2Proof.Machine.execSnareAutoTrigger k s
  | .snareRowWrite => Sys2Proof.Machine.execSnareRowWrite s
  | .snareAutoExport k => Sys2Proof.Machine.execSnareAutoExport k s
  | .eventPost code payload => Sys2Proof.Machine.execEventPost code payload s
  | .chestRecordWrite => Sys2Proof.Machine.execChestRecordWrite s
  | .tokenRefill code => Sys2Proof.Machine.execTokenRefill code s
  | .rollPageWrite fail => Sys2Proof.Machine.execRollPageWrite fail s
  | .chestFlush => Sys2Proof.Machine.execChestFlush s
  | .chestMemoryFault f => Sys2Proof.Machine.execChestMemoryFault f s
  | .chestFetch seqLo => Sys2Proof.Machine.execChestFetch seqLo s
  | .chestFetchDone => Sys2Proof.Machine.execChestFetchDone s
  | .tamper low raw hold => Sys2Proof.Machine.execTamper low raw hold s
  | .zeroizeJournal => Sys2Proof.Machine.execZeroizeJournal s
  | .burSramUe e entry copyBad => Sys2Proof.Machine.execBurSramUe e entry copyBad s
  | .hello nonce digest serial => Sys2Proof.Machine.execHello nonce digest serial s
  | .auth lane mac => Sys2Proof.Machine.execAuth lane mac s
  | .heartbeat m h => Sys2Proof.Machine.execHeartbeat m h s
  | .abdicate m cause instant => Sys2Proof.Machine.execAbdicate m cause instant s
  | .handover m j => Sys2Proof.Machine.execHandover m j s
  | .prepare m epoch c => Sys2Proof.Machine.execPrepare m epoch c s
  | .block m epoch id b crcOk => Sys2Proof.Machine.execBlock m epoch id b crcOk s
  | .endReady m epoch count crcOk => Sys2Proof.Machine.execEndReady m epoch count crcOk s
  | .commit m epoch k => Sys2Proof.Machine.execCommit m epoch k s
  | .forward m f => Sys2Proof.Machine.execForward m f s
  | .mirror m op inst operand => Sys2Proof.Machine.execMirror m op inst operand s
  | .accSum m tick anets => Sys2Proof.Machine.execAccSum m tick anets s
  | .pairLaneDown lane => Sys2Proof.Machine.execPairLaneDown lane s
  | .pairAbdNFall => Sys2Proof.Machine.execPairAbdNFall s
  | .pairAbdNRelease => Sys2Proof.Machine.execPairAbdNRelease s
  | .pairWatchdog => Sys2Proof.Machine.execPairWatchdog s
  | .pairWaitExpiry => Sys2Proof.Machine.execPairWaitExpiry s
  | .yieldRecover => Sys2Proof.Machine.execYieldRecover s
  | .joinRetry => Sys2Proof.Machine.execJoinRetry s
  | .joinTimeout => Sys2Proof.Machine.execJoinTimeout s
  | .sdOutput c mods capA capB cyc ue => Sys2Proof.Machine.execSdOutput c mods capA capB cyc ue s
  | .sdRestartSettled c => Sys2Proof.Machine.execSdRestartSettled c s
  | .localEstimateCommit n => Sys2Proof.Machine.execLocalEstimateCommit n s
  | .icvConversionEnd a b => Sys2Proof.Machine.execIcvConversionEnd a b s
  | .icvRefSettled x => Sys2Proof.Machine.execIcvRefSettled x s
  | .icvRefWrite x v => Sys2Proof.Machine.execIcvRefWrite x v s
  | .icvQueuePop x => Sys2Proof.Machine.execIcvQueuePop x s
  | .swapPrepareDone => Sys2Proof.Machine.execSwapPrepareDone s
  | .mbxCommandComplete src report => Sys2Proof.Machine.execMbxCommandComplete src report s
  | .getInfo src args => Sys2Proof.Machine.execGetInfo src args s
  | .commission src args => Sys2Proof.Machine.execCommission src args s
  | .timeReseat src args => Sys2Proof.Machine.execTimeReseat src args s
  | .imageLoad src args bytes img err => Sys2Proof.Machine.execImageLoad src args bytes img err s
  | .imageSwap src args => Sys2Proof.Machine.execImageSwap src args s
  | .swapCancel src args => Sys2Proof.Machine.execSwapCancel src args s
  | .imageInfo src args => Sys2Proof.Machine.execImageInfo src args s
  | .imageErase src args => Sys2Proof.Machine.execImageErase src args s
  | .rootInstall src args => Sys2Proof.Machine.execRootInstall src args s
  | .keyLoad src args => Sys2Proof.Machine.execKeyLoad src args s
  | .keyInvalidate src args => Sys2Proof.Machine.execKeyInvalidate src args s
  | .keyPurge src args => Sys2Proof.Machine.execKeyPurge src args s
  | .keySelect src args => Sys2Proof.Machine.execKeySelect src args s
  | .hmac src args data err => Sys2Proof.Machine.execHmac src args data err s
  | .gmac src args data err => Sys2Proof.Machine.execGmac src args data err s
  | .chestCopy src args err => Sys2Proof.Machine.execChestCopy src args err s
  | .chestLidCopy src args err => Sys2Proof.Machine.execChestLidCopy src args err s
  | .snareTrigger src args => Sys2Proof.Machine.execSnareTrigger src args s
  | .snareExport src args err => Sys2Proof.Machine.execSnareExport src args err s
  | .snareNandList src args err => Sys2Proof.Machine.execSnareNandList src args err s
  | .snareNandRead src args err => Sys2Proof.Machine.execSnareNandRead src args err s
  | .snareNandDelete src args => Sys2Proof.Machine.execSnareNandDelete src args s
  | .accZero src args => Sys2Proof.Machine.execAccZero src args s
  | .pairHandover src args => Sys2Proof.Machine.execPairHandover src args s
  | .pairForce src args => Sys2Proof.Machine.execPairForce src args s
  | .pairJoin src args => Sys2Proof.Machine.execPairJoin src args s
  | .benchSessionOpen => Sys2Proof.Machine.execBenchSessionOpen s
  | .benchIdleTimeout => Sys2Proof.Machine.execBenchIdleTimeout s
  | .benchLockoutExpiry => Sys2Proof.Machine.execBenchLockoutExpiry s
  | .help => Sys2Proof.Machine.execHelp s
  | .who => Sys2Proof.Machine.execWho s
  | .login service => Sys2Proof.Machine.execLogin service s
  | .answer ans => Sys2Proof.Machine.execAnswer ans s
  | .logout => Sys2Proof.Machine.execLogout s
  | .rd off n => Sys2Proof.Machine.execRd off n s
  | .wr off val => Sys2Proof.Machine.execWr off val s
  | .ctrSnap first n => Sys2Proof.Machine.execCtrSnap first n s
  | .ctrPort j => Sys2Proof.Machine.execCtrPort j s
  | .trace n => Sys2Proof.Machine.execTrace n s
  | .chest seq n => Sys2Proof.Machine.execChest seq n s
  | .status => Sys2Proof.Machine.execStatus s
  | .pmcPortSel j => Sys2Proof.Machine.execPmcPortSel j s
  | .pmcTraceSel seq ue => Sys2Proof.Machine.execPmcTraceSel seq ue s
  | .traceEntryWrite => Sys2Proof.Machine.execTraceEntryWrite s
  | .tstEn on => Sys2Proof.Machine.execTstEn on s
  | .portDelay on => Sys2Proof.Machine.execPortDelay on s
  | .egrBp on => Sys2Proof.Machine.execEgrBp on s
  | .laneStall on => Sys2Proof.Machine.execLaneStall on s
  | .cdcStretch on => Sys2Proof.Machine.execCdcStretch on s
  | .closeShift on => Sys2Proof.Machine.execCloseShift on s
  | .eccInject on => Sys2Proof.Machine.execEccInject on s
  | .timeSkew on => Sys2Proof.Machine.execTimeSkew on s
  | .stallArm => Sys2Proof.Machine.execStallArm s
  | .laneStallStart => Sys2Proof.Machine.execLaneStallStart s
  | .laneStallEnd => Sys2Proof.Machine.execLaneStallEnd s
  | .egrBpPhase => Sys2Proof.Machine.execEgrBpPhase s
  | .smEoi twin => Sys2Proof.Machine.execSmEoi twin s
  | .windowInterrupt => Sys2Proof.Machine.execWindowInterrupt s
  | .holdoverQualLost => Sys2Proof.Machine.execHoldoverQualLost s
  | .announceReceiptTimeout k => Sys2Proof.Machine.execAnnounceReceiptTimeout k s
  | .arpReply addr mac => Sys2Proof.Machine.execArpReply addr mac s

end Sys2Proof.Machine
end

