-- ==== Sys2Proof/Machine/Tick.lean ====
section
/-!
DEFINITION. What passes while no command waits (log entry 9): one TIME cycle of 5 ns. Clave's time advances by it at the servo's rate, cycle
counters count, and a steward core that a reset has taken down restarts.
-/

namespace Sys2Proof.Machine

/-- Clave's time over 5 ns: RATE adjusts it in units of 10^-12 (R92). -/
def clvCycle (s : State) : State :=
  if !s.timeAlive then s
  else
    let f := s.clv.frac + 5 * s.rdS fCLV_RATE_STS_RATE
    let ns := f / 1000000000000
    s.setClv { s.clv with now := ((s.clv.now : Int) + 5 + ns).toNat, frac := f - ns * 1000000000000 }

/-- Count a list of events and amounts. -/
def State.evs (l : List (Nat × Nat)) (s : State) : State := l.foldl (fun s x => s.ev x.1 x.2) s

/-- LANE cycles of a lane that runs no item, and those for which the perturbation unit holds it (R507); 1.0 ns each. -/
def laneCycles (s : State) (p : Nat) : List (Nat × Nat) :=
  if !s.alive (domLane + p / 4) then []
  else if s.laneStalled p then [(0x44 + 8 * p, 5)]
  else if (s.runningAt p).isNone then [(0x42 + 8 * p, 5)] else []

/-- FAB cycles of what is counted by the cycle (R503): FAB and TIME themselves, busy engines, waiting composers, comparators. -/
def fabCycles (s : State) : List (Nat × Nat) :=
  let eng := (List.range 5).filterMap fun u => if (s.runningAt (33 + u)).isSome then some (0x358 + u, 5) else none
  let thr := (List.range 8).filterMap fun t => if s.threshHolds t then some (0x380 + t, 5) else none
  let bp := if s.egr.waits.isEmpty then [] else [(0x366, 5)]
  [(0x340, 5), (0x341, 1)] ++ eng ++ thr ++ bp ++ ((List.range 32).map (laneCycles s)).flatten

/-- The main port stalls: items are READY and none can be placed (R201). -/
def State.mainStalls (s : State) : Bool := !(s.readyItems false).isEmpty && (s.pickItem false).isNone

/-- TMB_BP_CNT counts the main port's stalled time in whole µs (R201). -/
def mainStall (s : State) : State :=
  if !s.mainStalls then s
  else
    let t := s.tmb.bpNs + 5
    ((s.ev 0x353 5).inc fTMB_BP_CNT_US (t / 1000)).setTmb { s.tmb with bpNs := t % 1000 }

/-- One TIME cycle of 5 ns. -/
def idleTick (s : State) : State :=
  let s := stewardRestart { s with up := s.up + 5 }
  if !s.alive domFab then clvCycle s else mainStall (State.evs (fabCycles s) (clvCycle s))

end Sys2Proof.Machine
end

