-- ==== Sys2Proof/Safety.lean ====
section
/-!
DEFINITION. What counts as a safe run, in the terms the claims use: an invariant of the state, and what no step may undo.
-/

namespace Sys2Proof.Machine

/-- The Chest's drawers (R26, R360, R364): the records in staging carry rising sequence numbers, no record in staging, the Lid or the Roll
carries the next number or a later one, Keep holds at most 8,192 records and the Lid at most 16. -/
def ChestOk (m : ChestMram) (n : ChestNand) : Prop :=
  m.staged.Pairwise (fun a b => a.seq < b.seq) ∧ (∀ r ∈ m.staged ++ m.lid ++ rollRecs n, r.seq < m.nextSeq) ∧
    m.keep.length ≤ 8192 ∧ m.lid.length ≤ 16

/-- What every step keeps: the register file in its canonical order, 64 ports (R96), 16 PIO pins (R35), two image slots (R466), and the
Chest's drawers. -/
def Inv (s : State) : Prop :=
  (s.regs.map Prod.fst).Pairwise (· < ·) ∧ s.ports.length = 64 ∧ s.pio.length = 16 ∧ s.nand.slots.length = 2 ∧
    ChestOk s.mram.chs s.nand.chs

/-- What no step undoes in the Chest (R364): commissioning, the records in Keep, and the retirement of a NAND block. -/
def ChestLasts (m : ChestMram) (n : ChestNand) (m' : ChestMram) (n' : ChestNand) : Prop :=
  (m.commissioned = true → m'.commissioned = true) ∧ m.keep.map (fun r => r.seq) <+: m'.keep.map (fun r => r.seq) ∧
    n.retired ≤ n'.retired

/-- What no command undoes from `s` to `t`: the queue it was taken from is left alone, time does not run back, what has been sent stays
sent, and the Chest keeps what it must. -/
structure Lasts (s t : State) : Prop where
  queue : t.pending = s.pending
  up : s.up ≤ t.up
  fv : s.fv ≤ t.fv
  out : s.out <+: t.out
  chest : ChestLasts s.mram.chs s.nand.chs t.mram.chs t.nand.chs

/-- The command completes in a state with this property. -/
def Runs (i : Instr) (s : State) (P : State → Prop) : Prop := ∃ t, exec i s = .next t ∧ P t

/-- The parts of a state: the register file, what each unit holds beside its registers, what MRAM and NAND keep, and the model's own
counters (log entries 3, 9). -/
inductive Part where
  | regs | pwr | dom | clv | ports | dup | ing | chs | snr | mbx | img | oldImg | swap | swapTick | pgh | tmb | spec | coh | alm
  | acc | egr | lmf | pair | bur | bench | pmc | tst | pio | smArmed | mramPwr | mramChs | mramNotes | mramActiveSlot
  | mramLearn | mramAcc | mramBur | mramEpoch | mramEpochCount | nandChs | nandSnr | nandSlots | fv | out | up | dupNext
deriving DecidableEq, Repr

/-- The part is the same in both states. -/
def Part.same (p : Part) (s t : State) : Prop :=
  match p with
  | .regs => t.regs = s.regs
  | .pwr => t.pwr = s.pwr
  | .dom => t.dom = s.dom
  | .clv => t.clv = s.clv
  | .ports => t.ports = s.ports
  | .dup => t.dup = s.dup
  | .ing => t.ing = s.ing
  | .chs => t.chs = s.chs
  | .snr => t.snr = s.snr
  | .mbx => t.mbx = s.mbx
  | .img => t.img = s.img
  | .oldImg => t.oldImg = s.oldImg
  | .swap => t.swap = s.swap
  | .swapTick => t.swapTick = s.swapTick
  | .pgh => t.pgh = s.pgh
  | .tmb => t.tmb = s.tmb
  | .spec => t.spec = s.spec
  | .coh => t.coh = s.coh
  | .alm => t.alm = s.alm
  | .acc => t.acc = s.acc
  | .egr => t.egr = s.egr
  | .lmf => t.lmf = s.lmf
  | .pair => t.pair = s.pair
  | .bur => t.bur = s.bur
  | .bench => t.bench = s.bench
  | .pmc => t.pmc = s.pmc
  | .tst => t.tst = s.tst
  | .pio => t.pio = s.pio
  | .smArmed => t.smArmed = s.smArmed
  | .mramPwr => t.mram.pwr = s.mram.pwr
  | .mramChs => t.mram.chs = s.mram.chs
  | .mramNotes => t.mram.notes = s.mram.notes
  | .mramActiveSlot => t.mram.activeSlot = s.mram.activeSlot
  | .mramLearn => t.mram.learn = s.mram.learn
  | .mramAcc => t.mram.acc = s.mram.acc
  | .mramBur => t.mram.bur = s.mram.bur
  | .mramEpoch => t.mram.epoch = s.mram.epoch
  | .mramEpochCount => t.mram.epochCount = s.mram.epochCount
  | .nandChs => t.nand.chs = s.nand.chs
  | .nandSnr => t.nand.snr = s.nand.snr ∧ t.nand.snrNext = s.nand.snrNext
  | .nandSlots => t.nand.slots = s.nand.slots
  | .fv => t.fv = s.fv
  | .out => t.out = s.out
  | .up => t.up = s.up
  | .dupNext => t.dupNext = s.dupNext

/-- The parts a command may change; it leaves every other part as it is. Every record posted may count (R502), trigger Snare (R343) and raise
a suppression count (R366), so a command that posts one lists those parts too. -/
def touches : Instr → List Part
  | .benchLockoutExpiry .. => [.bench]
  | .closeTokenIssue .. | .missingTemplateWrite .. => [.pgh]
  | .dupEntryExpire .. => [.dup]
  | .gather .. | .qualScan .. | .rsmpStatus .. | .select .. | .scale .. | .maskLogic .. | .countFlags .. | .phToPolar ..
  | .phToRect .. | .phAngdiff .. | .phRotate .. | .phSeq .. | .phPower .. | .phPower3 .. | .phWsum .. | .phUnbal .. | .freqWmean ..
  | .sigFir .. | .sigDiff .. | .angUnwrap .. | .angWrap .. | .cmatvec .. | .rmatvec .. | .lsqSmall .. | .interpLin .. | .minmax ..
  | .ewmaVar .. | .topk .. | .clamp .. | .statBlock .. | .detLevel .. | .detRate .. | .detAngsep .. | .detSagswell .. | .detFreq ..
  | .detStep .. | .detDigital .. | .detVote .. | .evtMerge .. | .specPrep .. | .modePrep .. | .cohPrep .. | .accPrep ..
  | .defPrep .. | .pmuHealth .. | .outDecim .. | .outPackRaw .. | .tickSummary .. => [.tmb]
  | .pairWaitExpiry .. => [.pair]
  | .pdelayResp .. | .delayResp .. | .managementMessage .. | .announceReceiptTimeout .. => [.clv]
  | .stallArm .. => [.tst]
  | .startGroupRamp .. => [.pwr]
  | .tokenRefill .. => [.chs]
  | .verifyResponseRx .. | .maxClr .. | .minClr .. | .ringDmaFault .. | .pmcTraceSel .. => [.regs]
  | .arpReply .. => [.alm, .egr]
  | .block .. | .joinRetry .. => [.regs, .pair]
  | .chestFetch .. | .chestFetchDone .. => [.regs, .chs]
  | .laneStallStart .. | .laneStallEnd .. | .egrBpPhase .. => [.regs, .tst]
  | .learningMramWrite .. => [.pgh, .mramLearn]
  | .linkUp .. | .anRetry .. | .pauseRx .. | .pauseExpire .. | .pmacEnWrite .. | .txFrameStart .. => [.regs, .ports]
  | .outAmendPack .. => [.regs, .tmb]
  | .outStat .. => [.tmb, .egr]
  | .pmcPortSel .. => [.regs, .fv]
  | .sdOutput .. | .sdRestartSettled .. | .icvConversionEnd .. | .icvRefSettled .. | .icvRefWrite .. => [.regs, .lmf]
  | .snareArm .. | .snareDisarm .. | .snareRelease .. | .snareHostTrig .. | .snarePioEdge .. | .snareAutoTrigger .. => [.regs, .snr]
  | .snrPrep .. => [.snr, .tmb]
  | .startResume .. => [.regs, .pwr]
  | .timeMramWrite .. => [.clv, .mramPwr]
  | .traceEntryWrite .. => [.regs, .pmc]
  | .ttgArm .. | .captureEdge .. => [.regs, .clv]
  | .agePromotion .. => [.regs, .tmb, .pmc]
  | .announce .. => [.regs, .clv, .mramPwr]
  | .capturePop .. => [.regs, .clv, .out]
  | .icvQueuePop .. => [.regs, .lmf, .out]
  | .outPack2011 .. | .outPack2005 .. => [.regs, .tmb, .egr]
  | .pairAbdNRelease .. => [.pwr, .pair, .out]
  | .pdelayReq .. | .delayReq .. => [.regs, .egr, .pmc]
  | .pmacVerify .. => [.regs, .ports, .out]
  | .sdftUpdate .. | .defUpdate .. | .modeTrack .. => [.regs, .tmb, .spec]
  | .snareAutoExport .. => [.regs, .snr, .nandSnr]
  | .swapPrepareDone .. => [.regs, .tmb, .fv]
  | .tcpConnect .. | .tcpRetry .. => [.regs, .ing, .out]
  | .zeroizeJournal .. => [.regs, .bur, .mramBur]
  | .almAck .. | .almInh .. => [.regs, .alm, .pair, .out]
  | .composerBpWaitEnd .. => [.regs, .ports, .egr, .pmc]
  | .itemDispatch .. | .itemStart .. => [.regs, .tmb, .pmc, .fv]
  | .localEstimateCommit .. => [.regs, .ing, .lmf, .pmc]
  | .macResolve .. => [.regs, .alm, .egr, .pmc]
  | .membershipReport .. => [.regs, .ing, .egr, .pmc]
  | .pciePerstRelease .. => [.pwr, .mbx, .pmc, .out]
  | .ptpMasterTx .. => [.regs, .clv, .egr, .pmc]
  | .pulseStart .. | .pulseEnd .. => [.regs, .acc, .pio, .out]
  | .snareRowWrite .. => [.regs, .snr, .pmc, .fv]
  | .ttgDisarm .. | .ttgEdge .. => [.regs, .clv, .pio, .out]
  | .windowInterrupt .. => [.mbx, .pmc, .smArmed, .out]
  | .yieldRecover .. => [.regs, .pair, .fv, .out]
  | .arpRequest .. | .cmdTurnOff .. | .cmdTurnOn .. | .cmdSendHeader .. | .cmdSendCfg1 .. | .cmdSendCfg2 .. | .cmdSendCfg3 .. =>
    [.regs, .egr, .pair, .pmc, .out]
  | .compose .. | .amend .. => [.regs, .ports, .tmb, .egr, .pmc]
  | .dupLookup .. | .dupWaitRelease .. => [.regs, .ports, .dup, .pmc, .dupNext]
  | .eventPost .. => [.regs, .chs, .snr, .pmc, .mramChs]
  | .gooseRetransmit .. => [.regs, .ports, .alm, .egr, .pmc]
  | .ingressCommit .. => [.regs, .ports, .dup, .ing, .pmc]
  | .linkDown .. | .linkRestart .. => [.regs, .ports, .dup, .egr, .pmc]
  | .rawBlockWrite .. | .hostTxProdWrite .. => [.regs, .mbx, .egr, .pmc, .out]
  | .accSramUe .. => [.regs, .chs, .snr, .acc, .pmc, .mramChs]
  | .auth .. | .abdicate .. | .handover .. | .prepare .. | .commit .. | .accSum .. | .pairAbdNFall .. | .joinTimeout .. =>
    [.regs, .chs, .snr, .pair, .pmc, .mramChs]
  | .benchSessionOpen .. => [.regs, .chs, .snr, .bench, .pmc, .mramChs]
  | .cohSramUe .. => [.regs, .chs, .snr, .coh, .pmc, .mramChs]
  | .evtPost .. => [.regs, .chs, .snr, .tmb, .pmc, .mramChs]
  | .hostRxRingPlace .. => [.regs, .ports, .mbx, .egr, .pmc, .out]
  | .pauseObeyWrite .. => [.regs, .ports, .chs, .snr, .pmc, .mramChs]
  | .rollPageWrite .. | .chestFlush .. | .chestMemoryFault .. => [.regs, .chs, .snr, .pmc, .mramChs, .nandChs]
  | .specStateUe .. => [.regs, .chs, .snr, .spec, .pmc, .mramChs]
  | .startPaused .. | .vinTempSample .. => [.regs, .pwr, .chs, .snr, .pmc, .mramChs]
  | .tcpDown .. => [.regs, .ing, .chs, .snr, .pmc, .mramChs]
  | .tstEn .. | .portDelay .. | .egrBp .. | .laneStall .. | .cdcStretch .. | .closeShift .. | .eccInject .. | .timeSkew .. =>
    [.regs, .chs, .snr, .pmc, .tst, .mramChs]
  | .benchIdleTimeout .. => [.regs, .chs, .snr, .bench, .pmc, .tst, .mramChs]
  | .egressSchedule .. => [.regs, .ports, .mbx, .egr, .pmc, .fv, .out]
  | .endReady .. => [.regs, .chs, .snr, .pair, .pmc, .mramChs, .out]
  | .fetchUe .. => [.regs, .chs, .snr, .pgh, .tmb, .pmc, .mramChs]
  | .help .. | .who .. | .rd .. | .ctrSnap .. | .trace .. | .chest .. | .status .. => [.regs, .chs, .snr, .bench, .pmc, .mramChs, .out]
  | .leap .. => [.regs, .clv, .chs, .snr, .pmc, .mramPwr, .mramChs]
  | .macRxFrame .. => [.regs, .ports, .dup, .pmc, .fv, .out, .dupNext]
  | .rcRead .. | .loLatchRead .. => [.regs, .dom, .clv, .tmb, .lmf, .pmc, .out]
  | .resamplerInput .. => [.regs, .ing, .chs, .snr, .pgh, .pmc, .mramChs]
  | .tickingBegin .. => [.regs, .clv, .snr, .pgh, .tmb, .lmf, .pair]
  | .alarmFrameSend .. | .alarmHeartbeat .. => [.regs, .ports, .chs, .snr, .alm, .egr, .pmc, .mramChs]
  | .components .. => [.regs, .chs, .snr, .tmb, .coh, .pmc, .mramChs, .fv]
  | .ctrPort .. => [.regs, .chs, .snr, .bench, .pmc, .mramChs, .fv, .out]
  | .ingressParse .. | .cfg1Frame .. | .headerFrame .. | .ieee1344DataFrame .. =>
    [.regs, .ports, .dup, .ing, .chs, .snr, .pmc, .mramChs]
  | .logout .. => [.regs, .chs, .snr, .bench, .pmc, .tst, .mramChs, .out]
  | .pairLaneDown .. => [.regs, .chs, .snr, .pair, .pmc, .mramChs, .fv, .out]
  | .accCommit .. => [.regs, .chs, .snr, .acc, .pair, .pmc, .mramChs, .mramAcc, .out]
  | .almPio .. => [.regs, .chs, .snr, .tmb, .alm, .pmc, .pio, .mramChs, .out]
  | .cfgActivate .. => [.regs, .ports, .ing, .chs, .snr, .pgh, .pmc, .mramChs, .out]
  | .chestRecordWrite .. => [.regs, .chs, .snr, .mbx, .pmc, .mramChs, .nandChs, .fv, .out]
  | .dataFrame .. | .cfg2Frame .. | .cfg3Frame .. | .ieee1344CfgFrame .. =>
    [.regs, .ports, .dup, .ing, .chs, .snr, .pmc, .mramChs, .out]
  | .getInfo .. | .imageInfo .. | .chestCopy .. | .chestLidCopy .. | .snareTrigger .. | .snareNandList .. | .snareNandRead .. =>
    [.regs, .chs, .snr, .mbx, .bench, .pmc, .mramChs, .mramNotes, .out]
  | .login .. => [.regs, .chs, .snr, .bench, .pmc, .tst, .mramChs, .fv, .out]
  | .recordArrival .. => [.regs, .ing, .chs, .snr, .pgh, .tmb, .pmc, .mramChs, .fv]
  | .hello .. => [.regs, .chs, .snr, .pair, .bur, .pmc, .mramChs, .mramBur, .fv, .out]
  | .hotReset .. | .functionLevelReset .. => [.regs, .dom, .ports, .chs, .snr, .mbx, .egr, .pmc, .smArmed, .mramChs]
  | .imageErase .. => [.regs, .chs, .snr, .mbx, .bench, .pmc, .mramChs, .mramNotes, .nandSlots, .out]
  | .keySelect .. => [.regs, .chs, .snr, .mbx, .bur, .bench, .pmc, .mramChs, .mramNotes, .out]
  | .nop .. => [.regs, .chs, .snr, .mbx, .tmb, .bench, .pmc, .mramChs, .mramNotes, .out]
  | .pairHandover .. | .pairForce .. | .pairJoin .. => [.regs, .chs, .snr, .mbx, .pair, .bench, .pmc, .mramChs, .mramNotes, .out]
  | .routedSvFrame .. => [.regs, .ports, .dup, .ing, .chs, .snr, .bur, .pmc, .mramChs, .mramBur]
  | .snareExport .. | .snareNandDelete .. => [.regs, .chs, .snr, .mbx, .bench, .pmc, .mramChs, .mramNotes, .nandSnr, .out]
  | .txFrameSent .. => [.regs, .clv, .ports, .chs, .snr, .mbx, .egr, .pmc, .mramChs, .out]
  | .accZero .. => [.regs, .chs, .snr, .mbx, .acc, .pair, .bench, .pmc, .mramChs, .mramNotes, .out]
  | .answer .. => [.regs, .chs, .snr, .bur, .bench, .pmc, .tst, .mramChs, .mramBur, .fv, .out]
  | .imageLoad .. => [.regs, .chs, .snr, .mbx, .pair, .bench, .pmc, .mramChs, .mramNotes, .nandSlots, .out]
  | .integrate .. => [.regs, .chs, .snr, .tmb, .acc, .pair, .pmc, .mramChs, .mramAcc, .fv, .out]
  | .keyPurge .. | .hmac .. | .gmac .. => [.regs, .chs, .snr, .mbx, .bur, .bench, .pmc, .mramChs, .mramNotes, .mramBur, .out]
  | .mirror .. => [.regs, .chs, .snr, .mbx, .acc, .egr, .pair, .pmc, .mramChs, .mramNotes, .out]
  | .pciePerstAssert .. => [.regs, .pwr, .dom, .ports, .chs, .snr, .mbx, .egr, .pmc, .smArmed, .mramChs]
  | .stuck .. | .pairWatchdog .. | .holdoverQualLost .. => [.regs, .pwr, .chs, .snr, .alm, .acc, .pair, .pmc, .pio, .mramChs, .out]
  | .almPost .. => [.regs, .ports, .chs, .snr, .mbx, .tmb, .alm, .egr, .pair, .pmc, .mramChs, .out]
  | .forward .. => [.regs, .chs, .snr, .mbx, .egr, .pair, .bench, .pmc, .mramChs, .mramNotes, .nandSlots, .out]
  | .heartbeat .. => [.regs, .chs, .snr, .alm, .acc, .pair, .pmc, .pio, .mramChs, .mramEpoch, .mramEpochCount, .out]
  | .laneLsUe .. => [.regs, .pwr, .chs, .snr, .tmb, .alm, .acc, .pair, .pmc, .pio, .mramChs, .out]
  | .pghSramUe .. => [.regs, .pwr, .chs, .snr, .pgh, .alm, .acc, .pair, .pmc, .pio, .mramChs, .out]
  | .ppsEdge .. | .zda .. | .rmc .. | .firstLockWaitExpiry .. | .srcLost .. =>
    [.regs, .pwr, .clv, .chs, .snr, .alm, .acc, .pair, .pmc, .pio, .mramChs, .out]
  | .stewardWatchdog .. => [.regs, .dom, .ing, .chs, .snr, .mbx, .egr, .bench, .pmc, .tst, .mramChs, .out]
  | .tamper .. | .burSramUe .. => [.regs, .chs, .snr, .pair, .bur, .bench, .pmc, .tst, .mramChs, .mramBur, .fv, .out]
  | .timeReseat .. => [.regs, .clv, .chs, .snr, .mbx, .bench, .pmc, .mramChs, .mramNotes, .nandChs, .fv, .out]
  | .commission .. => [.regs, .chs, .snr, .mbx, .bench, .pmc, .mramPwr, .mramChs, .mramNotes, .mramBur, .nandChs, .fv, .out]
  | .itemRetire .. => [.regs, .chs, .snr, .oldImg, .tmb, .spec, .coh, .acc, .pair, .pmc, .mramChs, .fv, .out]
  | .mbxCommandComplete .. => [.regs, .chs, .snr, .mbx, .swap, .pgh, .tmb, .pair, .pmc, .mramChs, .mramNotes, .nandSnr, .out]
  | .reseatStep .. => [.regs, .pwr, .clv, .chs, .snr, .pgh, .alm, .acc, .pair, .pmc, .pio, .mramChs, .out]
  | .rootInstall .. | .keyLoad .. => [.regs, .ing, .chs, .snr, .mbx, .bur, .bench, .pmc, .mramChs, .mramNotes, .mramBur, .fv, .out]
  | .swapCancel .. => [.regs, .chs, .snr, .mbx, .swap, .pgh, .tmb, .pair, .bench, .pmc, .mramChs, .mramNotes, .out]
  | .sync .. | .followUp .. | .irigFrame .. => [.regs, .pwr, .clv, .chs, .snr, .alm, .acc, .pair, .pmc, .pio, .mramPwr, .mramChs, .out]
  | .keyInvalidate .. => [.regs, .chs, .snr, .mbx, .pair, .bur, .bench, .pmc, .tst, .mramChs, .mramNotes, .mramBur, .fv, .out]
  | .tableSramUe .. => [.regs, .pwr, .chs, .snr, .oldImg, .tmb, .spec, .coh, .alm, .acc, .pair, .pmc, .pio, .mramChs, .fv, .out]
  | .tickInstant .. =>
    [.regs, .clv, .ports, .chs, .snr, .pgh, .alm, .acc, .egr, .pair, .bur, .bench, .pmc, .tst, .pio, .mramChs, .fv, .out]
  | .coldStart .. =>
    [.regs, .pwr, .clv, .chs, .snr, .acc, .pair, .bur, .bench, .pmc, .tst, .mramPwr, .mramChs, .mramNotes, .mramAcc, .mramBur,
     .nandChs, .fv, .out]
  | .thermalShutdown .. | .overvoltage .. | .powerFail .. =>
    [.regs, .pwr, .ports, .chs, .snr, .mbx, .swap, .tmb, .alm, .acc, .egr, .lmf, .pair, .pmc, .tst, .pio, .mramChs, .mramAcc, .nandChs,
     .fv, .out]
  | .startStageComplete .. =>
    [.regs, .pwr, .clv, .ing, .chs, .snr, .mbx, .img, .oldImg, .swap, .swapTick, .pgh, .tmb, .spec, .coh, .alm, .acc, .egr, .lmf,
     .pair, .pmc, .mramChs, .mramActiveSlot, .fv, .out]
  | .imageSwap .. =>
    [.regs, .clv, .ing, .chs, .snr, .mbx, .img, .oldImg, .swap, .swapTick, .pgh, .tmb, .spec, .coh, .alm, .acc, .egr, .lmf, .pair,
     .bench, .pmc, .mramChs, .mramNotes, .mramActiveSlot, .fv, .out]
  | .domRstCtl .. | .heldAccessRelease .. | .registerWrite .. | .selectLatchWrite .. | .wr .. | .smEoi .. =>
    [.regs, .pwr, .dom, .clv, .ports, .dup, .ing, .chs, .snr, .mbx, .tmb, .spec, .alm, .acc, .egr, .lmf, .pair, .bench, .pmc, .tst,
     .pio, .smArmed, .mramPwr, .mramChs, .mramNotes, .fv, .out]
  | .instanceActivate .. =>
    [.regs, .ports, .dup, .ing, .chs, .snr, .img, .oldImg, .swap, .swapTick, .pgh, .tmb, .spec, .coh, .alm, .acc, .egr, .lmf, .pair,
     .pmc, .tst, .mramChs, .mramActiveSlot, .mramAcc, .mramEpoch, .mramEpochCount, .fv, .out]
  | .closeTokenProcess .. =>
    [.regs, .pwr, .ports, .dup, .ing, .chs, .snr, .img, .oldImg, .swap, .swapTick, .pgh, .tmb, .spec, .coh, .alm, .acc, .egr, .lmf,
     .pair, .pmc, .tst, .pio, .mramChs, .mramActiveSlot, .mramAcc, .mramEpoch, .mramEpochCount, .fv, .out]
  | .modReset .. =>
    [.regs, .pwr, .dom, .clv, .ports, .dup, .ing, .chs, .snr, .mbx, .img, .oldImg, .swap, .swapTick, .pgh, .tmb, .spec, .coh, .alm,
     .acc, .egr, .lmf, .pair, .bur, .bench, .pmc, .tst, .pio, .smArmed, .mramPwr, .mramAcc, .out, .dupNext]
  | .shutdownCommit .. =>
    [.regs, .pwr, .dom, .clv, .ports, .dup, .ing, .chs, .snr, .mbx, .img, .oldImg, .swap, .swapTick, .pgh, .tmb, .spec, .coh, .alm,
     .acc, .egr, .lmf, .pair, .bur, .bench, .pmc, .tst, .pio, .smArmed, .mramPwr, .mramChs, .mramAcc, .nandChs, .fv, .out, .dupNext]

end Sys2Proof.Machine

namespace Sys2Proof

open Sys2Proof.Machine

/-- A step from here answers a next state: neither a fault nor a refusal. -/
def Safe (s : State) : Prop := ∃ t, step s = .next t

/-- The block runs `k` steps from `s` without a fault or a refusal. -/
def SafeRun (k : Nat) (s : State) : Prop := ∃ t, Host.Core.run core k s = .next t

end Sys2Proof
end

