-- ==== Sys2Proof/Certificates/Slice0/Obligations.lean ====
section
/-!
DEFINITION. The statements for the provers.
-/

open Sys2Proof Sys2Proof.Machine

/-! ### The machine -/

/-- A step takes the command at the front of the queue and runs it with the queue's rest. -/
def Obligations.StepTakesFront : Prop :=
  ∀ c rest (s : State), s.pending = c :: rest → step s = exec c { s with pending := rest }

/-- With no command waiting the block idles: one TIME cycle of 5 ns passes, in which no command is taken and nothing is sent but what the
restart of the steward core sends; Clave's time does not run back while the servo's rate is within its bound (the model's choice, log entry 9). -/
def Obligations.IdleStep : Prop :=
  ∀ s : State, s.pending = [] → ∃ t, step s = .next t ∧ t.up = s.up + 5 ∧ t.pending = [] ∧ t.pwr = s.pwr ∧ t.nand = s.nand ∧ t.img = s.img ∧
    (s.timeAlive = true → s.rdS fCLV_RATE_STS_RATE = 0 → s.clv.frac = 0 → t.clv = { s.clv with now := s.clv.now + 5 }) ∧
    (s.dom.stewUp = true → t.out = s.out)

/-- What reset leaves (R6, R30, R92, R122, R187, R423, R466): every register field at the reset value of its register, nothing sent, no command
waiting, the module off, MRAM and NAND empty. -/
def Obligations.ResetValues : Prop :=
  (∀ f : Fld, State.reset.rd f = f.rst) ∧ State.reset.pending = [] ∧ State.reset.out = [] ∧ State.reset.pwr.phase = .off ∧
    State.reset.clvState = clvUnset ∧ State.reset.img = none ∧ State.reset.nand.slots = [none, none] ∧ State.reset.mram.chs.staged = [] ∧
    State.reset.rd fCLV_STS_TQ = 15 ∧ State.reset.rd fCHS_RL_CFG_BURST = 16 ∧ State.reset.rd fCHS_RL_CFG_PERIOD_MS = 1000

/-- The state after reset meets the invariant. -/
def Obligations.InvReset : Prop := Machine.Inv State.reset

/-- Every step keeps the invariant: the register file in its one order, 64 ports, 16 PIO pins, two image slots, and the Chest's drawers: staged
sequence numbers rise, none has reached the next number, Keep holds at most 8,192 records and the Lid at most 16. -/
def Obligations.StepKeepsInv : Prop :=
  ∀ s t : State, Machine.Inv s → step s = .next t → Machine.Inv t

/-- No step undoes commissioning, takes a record out of Keep, brings a retired NAND block back, takes back what was sent, or runs time back. -/
def Obligations.StepLasts : Prop :=
  ∀ s t : State, step s = .next t → s.up ≤ t.up ∧ s.fv ≤ t.fv ∧ s.out <+: t.out ∧
    ChestLasts s.mram.chs s.nand.chs t.mram.chs t.nand.chs

/-- Every command completes: no command faults or is refused, in any state; the queue is left alone. -/
def Obligations.EveryCommandCompletes : Prop :=
  ∀ (i : Instr) (s : State), Runs i s fun t => t.pending = s.pending

/-- Frames: a command leaves every part of the state that it does not touch as it was, whatever the state; and, read out for the kernels, an item
that computes changes only the sequencer's data: the registers, the memories, the pins, the clock, every other unit and what has been sent stay. -/
def Obligations.Frames : Prop :=
  (∀ (i : Instr) (s t : State), exec i s = .next t → ∀ p : Part, p ∉ touches i → p.same s t) ∧
  (∀ i ∈ [Instr.gather, .qualScan, .rsmpStatus, .select, .scale, .maskLogic, .countFlags, .phToPolar, .phToRect, .phAngdiff, .phRotate, .phSeq,
      .phPower, .phPower3, .phWsum, .phUnbal, .freqWmean, .sigFir, .sigDiff, .angUnwrap, .angWrap, .cmatvec, .rmatvec, .lsqSmall, .interpLin,
      .minmax, .ewmaVar, .topk, .clamp, .statBlock, .detLevel, .detRate, .detAngsep, .detSagswell, .detFreq, .detStep, .detDigital, .detVote,
      .evtMerge, .specPrep, .modePrep, .cohPrep, .accPrep, .defPrep, .pmuHealth, .outDecim, .outPackRaw, .tickSummary],
    ∀ n j (s t : State), exec (i n j) s = .next t → t = { s with tmb := t.tmb })

/-! ### Power, start and reset -/

/-- Start (R50 to R52). COLD_START, its conditions met, begins S0 and takes the commit marker. A group of S2 or S3 ramps once the one before
has settled. A stage ends when it has no group left to ramp; after S1 PGOOD is high, and PCI Express comes up unless PCIE_PERST_N holds it. A
pause ends the ramp, and the resume doubles the ramp divisor and ramps the same group again. -/
def Obligations.StartRows : Prop :=
  (∀ vin uF die lid low s, (s.pwr.phase = .off ∨ s.pwr.phase = .held) → vin ≥ 9300 → (s.pwr.ovHold = true → vin ≤ 60000) →
    (s.pwr.thermHold = true → die < 1050) →
    Runs (.coldStart vin uF die lid low) s fun t => t.pwr.phase = .start 0 ∧ t.mram.pwr.marker = none ∧ t.mram.pwr.started = true) ∧
  (∀ k s, s.pwr.phase = .start k → s.rd fSYS_PWR_STS_START_PAUSED = 0 →
    (k = 2 ∧ (if s.pwr.ramping then s.pwr.groups + 1 else s.pwr.groups) < 4 ∨
      k = 3 ∧ (if s.pwr.ramping then s.pwr.groups + 1 else s.pwr.groups) < 8) →
    exec .startGroupRamp s = .next { s with pwr := { s.pwr with
      groups := if s.pwr.ramping then s.pwr.groups + 1 else s.pwr.groups, ramping := true } }) ∧
  (∀ mv k s, s.pwr.phase = .start k → s.rd fSYS_PWR_STS_START_PAUSED = 0 → k ≤ 4 → (k = 2 → s.pwr.ramping = true ∧ s.pwr.groups = 3) →
    (k = 3 → s.pwr.ramping = true ∧ s.pwr.groups = 7) →
    Runs (.startStageComplete mv) s fun t =>
      t.pwr.phase = (if k = 4 then .running else .start (k + 1)) ∧ t.pwr.ramping = false ∧ t.pwr.groups = 0 ∧
      (k = 1 → t.pwr.pgood = true ∧ (s.pwr.perst = false → t.pwr.pcieUp = true)) ∧ (k ≠ 4 → t.rd fSYS_PWR_STS_START_STAGE = k + 1 ∧
        (t.rd fSYS_PWR_STS_HOLDUP_OK = 1 ↔ mv ≥ 46000 ∧ s.pwr.storeUf ≥ 560))) ∧
  (∀ vin k s, s.pwr.phase = .start k → s.rd fSYS_PWR_STS_START_PAUSED = 0 → vin < 9000 →
    Runs (.startPaused vin) s fun t =>
      t.pwr.phase = .start k ∧ t.pwr.ramping = false ∧ t.rd fSYS_PWR_STS_START_PAUSED = 1 ∧ t.rd fSYS_PWR_STS_SUPPLY_FOLLOW = 1) ∧
  (∀ k s, s.pwr.phase = .start k → s.rd fSYS_PWR_STS_START_PAUSED ≠ 0 →
    Runs .startResume s fun t => t.rd fSYS_PWR_STS_START_PAUSED = 0 ∧
      (k = 2 ∨ k = 3 → t.pwr = { s.pwr with ramping := true } ∧
        t.rd fSYS_PWR_STS_RAMP_DIV = min 3 (s.rd fSYS_PWR_STS_RAMP_DIV + 1)))

/-- VIN and temperature (R47, R53 to R58, R60): a sample is shown, and HOLDUP_OK follows the store; a declaration drives PFAIL_N and PGOOD low,
stops every unit and sheds the load; SHUTDOWN_COMMIT leaves the marker with the reason and switches the module off; MOD_RESET_N holds a module
that no declaration is switching off, and is counted. -/
def Obligations.PowerLossRows : Prop :=
  (∀ vin iin st die lid s, (s.reached 0 = true ∨ s.shedding = true) → vin < 65536 → iin < 65536 →
    Runs (.vinTempSample vin iin st die lid) s fun t => t.rd fSYS_VIN_STS_VIN_MV = vin ∧ t.rd fSYS_VIN_STS_IIN_MA = iin ∧
      (t.rd fSYS_PWR_STS_HOLDUP_OK = 1 ↔ st ≥ 46000 ∧ s.pwr.storeUf ≥ 560) ∧
      (t.rd fSYS_PWR_STS_VIN_LOW = 1 ↔ vin < 9000 ∧ vin > s.rd fSYS_PWR_CFG_PF_MV)) ∧
  (∀ vin die lid s, s.reached 0 = true →
    (die ≥ 1250 → Runs (.thermalShutdown vin die lid) s fun t => t.pwr.phase = .shedding 3 ∧ t.pwr.pfailN = false ∧ t.pwr.pgood = false ∧
      t.pwr.pcieUp = false ∧ t.tmb.insts = [] ∧ t.swap = none ∧ t.mbx.run = []) ∧
    (vin > 62000 → Runs (.overvoltage vin die) s fun t => t.pwr.phase = .shedding 2 ∧ t.pwr.pfailN = false ∧ t.pwr.pgood = false ∧
      t.pwr.pcieUp = false ∧ t.tmb.insts = [] ∧ t.swap = none ∧ t.mbx.run = []) ∧
    (vin < s.rd fSYS_PWR_CFG_PF_MV → Runs (.powerFail vin die) s fun t => t.pwr.phase = .shedding 1 ∧ t.pwr.pfailN = false ∧
      t.pwr.pgood = false ∧ t.pwr.pcieUp = false ∧ t.tmb.insts = [] ∧ t.swap = none ∧ t.mbx.run = [])) ∧
  (∀ r s, s.pwr.phase = .shedding r →
    Runs .shutdownCommit s fun t => t.pwr.phase = .off ∧ t.mram.pwr.marker = some r ∧ t.regs = [] ∧
      t.pwr.thermHold = decide (r = 3) ∧ t.pwr.ovHold = decide (r = 2)) ∧
  (∀ s, s.shedding = true → exec .modReset s = .next s) ∧
  (∀ s, s.reached 0 = true →
    Runs .modReset s fun t => t.pwr.phase = .held ∧ t.mram.pwr.byModRst = true ∧ t.mram.pwr.marker = none ∧
      t.mram.pwr.modRst = satAdd 32 s.mram.pwr.modRst 1 ∧ t.tmb = {} ∧ t.nand = s.nand ∧
      ∀ f : Fld, f.key / 32 / 0x10000 ≠ 0x00 → f.key / 32 / 0x10000 ≠ 0x13 → t.rd f = f.rst)

/-- Resets (R45, R529 to R533, R541): what each PCI Express reset and a watchdog reset leave; a write of DOM_RST_CTL with GO to the steward
core resets it; an access held for a domain is taken up when the domain's clock runs; the end of interrupt arms the window's message,
and its message disarms it. -/
def Obligations.ResetRows : Prop :=
  (∀ s, s.pwr.perst = false → s.pwr.phase ≠ .off →
    Runs .pciePerstAssert s fun t => t.pwr = { s.pwr with perst := true, pcieUp := false } ∧ t.smArmed = true ∧ t.dom.stalled = [] ∧
      ∀ h ∈ t.dom.held, h.val.isSome) ∧
  (∀ g : Fin 4, ∀ s, s.pwr.perst = true →
    Runs (.pciePerstRelease g) s fun t => t.pwr.perst = false ∧ t.pwr.maxGen = 4 - g ∧ (s.reached 2 = true → t.pwr.pcieUp = true)) ∧
  (∀ s, s.pwr.pcieUp = true →
    Runs .hotReset s fun t => t.pwr = s.pwr ∧ t.smArmed = true ∧ t.dom.stalled = [] ∧ ∀ h ∈ t.dom.held, h.val.isSome) ∧
  (∀ s, s.pwr.pcieUp = true →
    Runs .functionLevelReset s fun t => t.pwr = s.pwr ∧ t.smArmed = true ∧ t.dom.stalled = [] ∧ ∀ h ∈ t.dom.held, h.val.isSome) ∧
  (∀ s, s.stewAlive = true → Runs .stewardWatchdog s fun t => t.dom.stewUp = false ∧ t.mbx.wait = [] ∧ t.pwr = s.pwr) ∧
  (∀ s, s.pwr.pcieUp = true → s.stewAlive = true → s.shedding = false → s.dom.held = [] → s.dom.stalled = [] →
    Runs (.domRstCtl true 0x01) s fun t => t.dom.stewUp = false ∧ t.mbx.wait = []) ∧
  (∀ (d : Fin 128) off s, s.alive d = true → s.dom.held = [{ dom := d, off := off, val := none }] → s.dom.stalled = [] →
    Runs (.heldAccessRelease d) s fun t => t.dom.held = [] ∧ ∃ v, t.out = s.out ++ [.readData off v]) ∧
  (∀ s, s.pwr.pcieUp = true → s.reached 1 = true → s.dom.held = [] → s.dom.stalled = [] → s.rd fSM_INT_STS_EVENTS = 0 →
    Runs (.smEoi false) s fun t => t.smArmed = true ∧ t.out = s.out) ∧
  (∀ s, s.pwr.pcieUp = true → s.smArmed = true → s.rd fSM_CTL_INT_EN = 1 → (s.rd fSM_INT_STS_EVENTS &&& s.rd fSM_INT_MASK_MASK) ≠ 0 →
    Runs .windowInterrupt s fun t => t.smArmed = false ∧ t.out = s.out ++ [.msix (s.rd fSM_INT_VEC_VEC)] ∧ t.regs = s.regs)

/-! ### Registers -/

/-- Writes (R6, R7, R535, R150, R341): a host write of 32 bits that reaches a running domain stores every RW field whose value the field accepts,
clears the W1C bits written 1 and leaves the other fields; with partial byte enables, or where no register is, it does nothing; an aligned one
of 64 bits is two, the lower address first, and one that crosses a word otherwise is an Unsupported Request. A ring's base address keeps 64-byte
alignment. A write of a selection register is such a write, and latches what it selects. A write to a stopped domain is held. -/
def Obligations.RegisterWriteRows : Prop :=
  (∀ off v twin s r, s.reaches off = true → off % 4 = 0 → aliasOf off = off → s.passes (accessDom off) = true → s.dom.stalled = [] →
    regAt off = some r → s.wordOk r.base off (v % 2 ^ 32) = true → ownWrite r.base off (v % 2 ^ 32) twin false s = none →
    r.base ≠ rEGR_RING_BASE_LO 0 →
    Runs (.registerWrite off v true false twin) s fun t => ∀ d ∈ r.fields, t.rd (fieldAt off d) =
      match accessOf r.base off d.acc with
      | .rw => if s.fieldOk r.base off d.lo (bitsAt (v % 2 ^ 32) d.lo d.w) then bitsAt (v % 2 ^ 32) d.lo d.w else s.rd (fieldAt off d)
      | .w1c => trunc d.w (s.rd (fieldAt off d) - (s.rd (fieldAt off d) &&& bitsAt (v % 2 ^ 32) d.lo d.w))
      | _ => s.rd (fieldAt off d)) ∧
  (∀ r < 192, ∀ v twin s, s.pwr.pcieUp = true → s.reached 1 = true → s.dom.held = [] → s.dom.stalled = [] → s.on (fEGR_RING_CFG_EN r) = false →
    Runs (.registerWrite (rEGR_RING_BASE_LO r) v true false twin) s fun t => t.rd (fEGR_RING_BASE_LO_LO r) = v % 2 ^ 32 / 64 * 64) ∧
  (∀ off v wide twin s, exec (.registerWrite off v false wide twin) s = .next s) ∧
  (∀ off v twin s, s.reaches off = true → off % 8 = 0 →
    exec (.registerWrite off v true true twin) s = .next (busWrite (off + 4) (v / 2 ^ 32) twin (busWrite off v twin s))) ∧
  (∀ off v wide twin s, s.reaches off = true → off % 4 ≠ 0 ∨ wide = true ∧ off % 8 ≠ 0 →
    exec (.registerWrite off v true wide twin) s = .next (s.emit (.unsupported off))) ∧
  (∀ off v twin s, s.reaches off = true → off % 4 = 0 → s.passes (accessDom off) = true → s.dom.stalled = [] → regAt (aliasOf off) = none →
    exec (.registerWrite off v true false twin) s = .next s) ∧
  (∀ off v twin s, s.reaches off = true → off % 4 = 0 → s.passes (accessDom off) = false → s.dom.stalled = [] → s.heldWrites (accessDom off) < 16 →
    exec (.registerWrite off v true false twin) s = .next { s with dom := { s.dom with
      held := s.dom.held ++ [{ dom := accessDom off, off := off, val := some (v % 2 ^ 32) }] } }) ∧
  (∀ v s, s.pwr.pcieUp = true → s.stewAlive = true → s.dom.held = [] → s.dom.stalled = [] →
    Runs (.selectLatchWrite rCHS_RL_SEL v) s fun t => t.rd fCHS_RL_SEL_CODE = v % 256 ∧ t.rd fCHS_RL_CFG_BURST = s.rlBurst (v % 256) % 256 ∧
      t.rd fCHS_RL_CFG_PERIOD_MS = s.rlPeriod (v % 256) % 65536 ∧ (t.on fCHS_RL_CFG_FIXED = true ↔ chsFixed (v % 256) = true)) ∧
  (∀ v s, s.pwr.pcieUp = true → s.reached 1 = true → s.dom.held = [] → s.dom.stalled = [] →
    Runs (.selectLatchWrite rING_SLOT_SEL v) s fun t => t.rd fING_SLOT_SEL_SLOT = v % 8192 ∧
      t.rd fING_SLOT_CNT_RECORDS = (s.ingSlot (v % 8192)).count % 2 ^ 32 ∧ t.rd fING_SLOT_DROP_CNT_FRAMES = (s.ingSlot (v % 8192)).drops % 2 ^ 32)

/-- Reads (R6, R84, R535): a read of 32 bits returns the register's word; its RC fields are then zero; a read of the low word of a 64-bit value shows
that word and latches the high one. An aligned read of 64 bits is two, the lower address first. The two registers whose read removes the head of a
queue have statements of their own. -/
def Obligations.RegisterReadRows : Prop :=
  (∀ off s r, s.reaches off = true → off % 4 = 0 → aliasOf off = off → s.passes (accessDom off) = true → regAt off = some r →
    s.live64 r.base off = none → r.base ∉ [rCLV_CAP_HI 0, rLMF_ICV_QTIME 0] →
    Runs (.rcRead off false) s fun t => t.out = s.out ++ [.readData off (s.readWord off % 2 ^ 32)] ∧
      (∀ d ∈ r.fields, d.acc = .rc → t.rd (fieldAt off d) = 0) ∧ ∀ d ∈ r.fields, d.acc ≠ .rc → t.rd (fieldAt off d) = s.rd (fieldAt off d)) ∧
  (∀ off s, s.reaches off = true → off % 8 = 0 → exec (.rcRead off true) s = .next (busRead (off + 4) (busRead off s))) ∧
  (∀ off wide s, s.reaches off = true → off % 4 ≠ 0 ∨ wide = true ∧ off % 8 ≠ 0 → exec (.rcRead off wide) s = .next (s.emit (.unsupported off))) ∧
  (∀ off s r v, s.reaches off = true → off % 4 = 0 → aliasOf off = off → s.passes (accessDom off) = true → regAt off = some r →
    s.live64 r.base off = some v →
    Runs (.loLatchRead off false) s fun t => t.out = s.out ++ [.readData off (v % 2 ^ 32)] ∧ t.rd ⟨off + 4, 0, 32, 0⟩ = v / 2 ^ 32 % 2 ^ 32)

/-- The time read (R84): a read of CLV_NOW_LO returns the low 32 bits of the time and latches its high 32 bits and the reseat generation; a read
of CLV_NOW_HI returns the value latched last and leaves it. -/
def Obligations.NowRead : Prop :=
  (∀ s, s.reaches rCLV_NOW_LO = true → s.passes (accessDom rCLV_NOW_LO) = true → s.action 7 = false →
    Runs (.loLatchRead rCLV_NOW_LO false) s fun t => t.out = s.out ++ [.readData rCLV_NOW_LO (s.clv.now % 2 ^ 32)] ∧
      t.rd fCLV_NOW_HI_NOW_HI = s.clv.now / 2 ^ 32 % 2 ^ 32 ∧ t.rd fCLV_RESEAT_STS_GEN_LATCHED = s.rd fCLV_RESEAT_STS_GEN % 256) ∧
  (∀ s, s.reaches rCLV_NOW_HI = true → s.passes (accessDom rCLV_NOW_HI) = true →
    Runs (.rcRead rCLV_NOW_HI false) s fun t => t.out = s.out ++ [.readData rCLV_NOW_HI (s.rd fCLV_NOW_HI_NOW_HI % 2 ^ 32)] ∧
      t.rd fCLV_NOW_HI_NOW_HI = s.rd fCLV_NOW_HI_NOW_HI)

/-- The power-fail threshold (R59): SYS_PWR_CFG.PF_MV takes a written value, except one below 8,500, above 50,000, or within 2,000 mV below the
VIN last sampled; it reads back with zeros above it, and is 8,500 at every start. -/
def Obligations.PowerFailThreshold : Prop :=
  (∀ v twin s, s.pwr.pcieUp = true → s.dom.held = [] → s.dom.stalled = [] →
    Runs (.registerWrite rSYS_PWR_CFG v true false twin) s fun t => t.rd fSYS_PWR_CFG_PF_MV =
      if v % 65536 < 8500 ∨ v % 65536 > 50000 ∨
        v % 65536 ≤ s.rd fSYS_VIN_STS_VIN_MV ∧ s.rd fSYS_VIN_STS_VIN_MV ≤ v % 65536 + 2000 then s.rd fSYS_PWR_CFG_PF_MV else v % 65536) ∧
  (∀ s, s.pwr.pcieUp = true → s.dom.held = [] → s.rd fSYS_PWR_CFG_PF_MV < 65536 →
    Runs (.rcRead rSYS_PWR_CFG false) s fun t => t.out = s.out ++ [.readData rSYS_PWR_CFG (s.rd fSYS_PWR_CFG_PF_MV)]) ∧
  (∀ vin uF die lid low s, (s.pwr.phase = .off ∨ s.pwr.phase = .held) → vin ≥ 9300 → (s.pwr.ovHold = true → vin ≤ 60000) →
    (s.pwr.thermHold = true → die < 1050) → Runs (.coldStart vin uF die lid low) s fun t => t.rd fSYS_PWR_CFG_PF_MV = 8500)

/-! ### Clave -/

/-- What a sample of the selected source does in LOCKED (R75, R76, R79): within JUMP_NS it is accepted, ends a refusal episode, joins the 16 last
accepted, and moves the rate within ±200 ppm by no more than 10 ppm for each second since the last; beyond it, it is refused, flagged, and
counts towards the loss of the source. -/
def sampleTaken (ofs : Int) (s t : State) : Prop :=
  if ofs.natAbs ≤ s.jump then
    t.clv.hist = (ofs :: s.clv.hist).take 16 ∧ t.clv.episode = none ∧ t.clv.refusedRun = 0 ∧ t.clv.lastSample = s.up ∧
      (t.rdS fCLV_RATE_STS_RATE).natAbs ≤ 200000000 ∧
      ((s.rdS fCLV_RATE_STS_RATE).natAbs ≤ 200000000 →
        (t.rdS fCLV_RATE_STS_RATE - s.rdS fCLV_RATE_STS_RATE).natAbs * 1000000000 ≤ 10000000 * min (s.up - s.clv.lastSample) 1000000000)
  else t.clv.lastRefused = ofs ∧ t.clv.episode.isSome ∧ t.clv.hist = s.clv.hist ∧ t.bit fCLV_FLT_FLAGS 0 = true ∧
    (s.clv.refusedRun < 2 → t.clv.refusedRun = s.clv.refusedRun + 1) ∧ (s.clv.refusedRun ≥ 2 → t.clvState = clvHoldover)

/-- Samples (R42, R70, R72 to R76, R87): a one-step Sync of the domain on a slave port gives the sample T1 + correction + path delay +
asymmetry − T2, T2 moved to the contact and the carrier's far end; a two-step one waits for its Follow_Up; an IRIG-B frame gives one at its
reference marker, in UTC, unless parity or the quality nibble forbids it; a PPS edge that gets through the filter and the ZDA sentence that
names it give one; RMC's status is kept for the second it names. -/
def Obligations.SampleRows : Prop :=
  (∀ (k : Fin 8) (dom : Fin 256) q t1 t2 c s, s.on (fCLV_PTP_PORT_CFG_EN k) = true → (dom : Nat) = s.rd fCLV_PTP_CFG_DOMAIN →
    ((s.ptpPort k).role = .slave → s.clvState = clvLocked → s.src = srcPtp → Runs (.sync k dom q t1 t2 c false) s
      (sampleTaken ((t1 : Int) + c + (s.ptpPort k).delay + s.rdS (fCLV_PTP_PORT_CFG_ASYM k) - s.rxInstant (s.ptpOn k) t2) s)) ∧
    Runs (.sync k dom q t1 t2 c true) s fun t =>
      t.clv = { s.clv with ptp := s.clv.ptp.set k { s.ptpPort k with twoStep := some (q, t2, c) } } ∧ t.regs = s.regs) ∧
  (∀ (k : Fin 8) (dom : Fin 256) q t1 t2 c c' s, s.on (fCLV_PTP_PORT_CFG_EN k) = true → (dom : Nat) = s.rd fCLV_PTP_CFG_DOMAIN →
    (s.ptpPort k).role = .slave → s.clvState = clvLocked → s.src = srcPtp → (s.ptpPort k).twoStep = some (q, t2, c') →
    Runs (.followUp k dom q t1 c) s
      (sampleTaken ((t1 : Int) + (c' + c) + (s.ptpPort k).delay + s.rdS (fCLV_PTP_PORT_CFG_ASYM k) - s.rxInstant (s.ptpOn k) t2) s)) ∧
  (∀ f s, s.on fCLV_IRIG_CFG_EN = true →
    let ext := s.on fCLV_IRIG_CFG_EXT1344
    let at_ : Int := (atContact (s.rd fCLV_IRIG_CFG_GLITCH) f.raw : Int) - s.rd fCLV_IRIG_CFG_DELAY_NS
    let own := ((at_ + 500000000) / 1000000000 - s.taiUtc).toNat
    let y := (s.irigYear f).getD (yearOfDay 600 1970 (own / 86400))
    let utc : Int := (yearDays y * 86400 + f.second : Nat) - (if ext then f.locOfs else 0)
    ((ext = true → f.parityOk = true ∧ f.qualNs ≤ s.rd fCLV_QUAL_CFG_QUAL_LIMIT_NS) → s.clvState = clvLocked → s.src = srcIrig →
      Runs (.irigFrame f) s (sampleTaken ((utc + s.taiUtc) * 1000000000 - at_) s)) ∧
    (ext = true → f.parityOk = false ∨ f.qualNs > s.rd fCLV_QUAL_CFG_QUAL_LIMIT_NS →
      Runs (.irigFrame f) s fun t => (t.srcHist srcIrig).recent = [] ∧ t.regs = s.regs)) ∧
  (∀ (raw hold u rx : Nat) s, s.on fCLV_TOD_CFG_EN = true → passesFilter (s.rd fCLV_TOD_CFG_GLITCH) hold = true →
    s.on fCLV_TOD_CFG_REF = true → s.clv.pps = none → s.clv.zda = some (u, rx) →
    let e := atContact (s.rd fCLV_TOD_CFG_GLITCH) raw
    rx ≤ e → e ≤ rx + 900000000 → (s.on fCLV_TOD_CFG_NEED_RMC = true → s.clv.rmc = some u) → s.clvState = clvLocked → s.src = srcPps →
    Runs (.ppsEdge raw hold) s (sampleTaken (((u : Int) + s.taiUtc) * 1000000000 - ((e : Int) - s.rdS fCLV_TOD_CFG_PPS_DELAY)) s)) ∧
  (∀ raw hold s, s.on fCLV_TOD_CFG_EN = true → s.on fCLV_TOD_CFG_REF = false → s.clv.pps = none →
    Runs (.ppsEdge raw hold) s fun t => t.clv = if passesFilter (s.rd fCLV_TOD_CFG_GLITCH) hold then
      { s.clv with pps := some (atContact (s.rd fCLV_TOD_CFG_GLITCH) raw), zda := none } else s.clv) ∧
  (∀ (baud : Fin 5) (e u rx : Nat) s, s.on fCLV_TOD_CFG_EN = true → (baud : Nat) = s.rd fCLV_TOD_CFG_BAUD →
    s.on fCLV_TOD_CFG_REF = false → s.clv.pps = some e → e ≤ rx → rx ≤ e + 900000000 →
    (s.on fCLV_TOD_CFG_NEED_RMC = true → s.clv.rmc = some u) → s.clvState = clvLocked → s.src = srcPps →
    Runs (.zda baud u true rx) s (sampleTaken (((u : Int) + s.taiUtc) * 1000000000 - ((e : Int) - s.rdS fCLV_TOD_CFG_PPS_DELAY)) s)) ∧
  (∀ (baud : Fin 5) u s, s.on fCLV_TOD_CFG_EN = true → (baud : Nat) = s.rd fCLV_TOD_CFG_BAUD →
    (s.clv.pps = none → Runs (.rmc baud true true u) s fun t => t.clv = { s.clv with rmc := some u }) ∧
    Runs (.rmc baud false true u) s fun t => t.clv = { s.clv with rmc := none }) ∧
  (∀ (baud : Fin 5) u ok a rx s, s.on fCLV_TOD_CFG_EN = false ∨ (baud : Nat) ≠ s.rd fCLV_TOD_CFG_BAUD ∨ ok = false →
    exec (.zda baud u ok rx) s = .next s ∧ exec (.rmc baud a ok u) s = .next s)

/-- A PTP message of the module has joined the TIME queue of its frame port. -/
def ptpSent (k typ flags seq log : Nat) (body : Bytes) (msg : PtpMsg) (s t : State) : Prop :=
  ∃ e, t.egrQ (s.ptpOn k) qTime = s.egrQ (s.ptpOn k) qTime ++ [e] ∧ e.frame.sender = .clave k msg ∧
    e.frame.bytes = ptpFrame { k := k, dom := s.rd fCLV_PTP_CFG_DOMAIN, flags := flags, seq := seq, log := log } (s.ptpOn k) typ body

/-- PTP messages beside the samples (R70, R71): what each of the domain measures, answers or announces on an enabled port whose TIME queue has
room, and the loss of a port's grandmaster. -/
def Obligations.PtpRows : Prop :=
  (∀ (k : Fin 8) (dom : Fin 256) ds ival s, (dom : Nat) = s.rd fCLV_PTP_CFG_DOMAIN → s.on (fCLV_PTP_PORT_CFG_EN k) = true →
    (s.ptpPort k).best = none → s.clv.ptp.length = 8 →
    Runs (.announce k dom ds ival) s fun t => (t.ptpPort k).best = some ds ∧ (t.ptpPort k).bestAt = s.up ∧ (t.ptpPort k).annInterval = ival ∧
      ((∀ j : Fin 8, j ≠ k → (s.ptpPort j).best = none) → s.beforeStep = true → (t.ptpPort k).role = .slave)) ∧
  (∀ (k : Fin 8) (dom : Fin 256) q t2 asker s, (dom : Nat) = s.rd fCLV_PTP_CFG_DOMAIN → s.on (fCLV_PTP_PORT_CFG_EN k) = true →
    s.peerDelay = true → s.egrFull (s.ptpOn k) qTime = false →
    let rx := s.rxInstant (s.ptpOn k) t2
    Runs (.pdelayReq k dom q t2 asker) s fun t => if s.on fCLV_PTP_CFG_TWO_STEP_TX then
        ptpSent k ptPdelayResp 0x200 q 0x7F (ptpTime rx ++ be 10 asker) (.pdelayRespTwo q asker) s t
      else ptpSent k ptPdelayResp 0 q 0x7F (be 10 0 ++ be 10 asker) (.pdelayResp rx) s t) ∧
  (∀ (k : Fin 8) (dom : Fin 256) (q t1 t2 t3 t4 : Nat) c s, (dom : Nat) = s.rd fCLV_PTP_CFG_DOMAIN → s.on (fCLV_PTP_PORT_CFG_EN k) = true →
    s.peerDelay = true → (s.ptpPort k).req = some (q, t1) →
    Runs (.pdelayResp k dom q t2 t3 t4 c) s fun t =>
      (t.ptpPort k).delay = (((s.rxInstant (s.ptpOn k) t4 : Int) - t1) - ((t3 : Int) - t2) - c) / 2) ∧
  (∀ (k : Fin 8) (dom : Fin 256) q rx a s, (dom : Nat) = s.rd fCLV_PTP_CFG_DOMAIN → s.on (fCLV_PTP_PORT_CFG_EN k) = true →
    s.peerDelay = false → (s.ptpPort k).role = .master → s.egrFull (s.ptpOn k) qTime = false →
    Runs (.delayReq k dom q rx a) s
      (ptpSent k ptDelayResp 0 q 0x7F (ptpTime (s.rxInstant (s.ptpOn k) rx) ++ be 10 a) .plain s)) ∧
  (∀ (k : Fin 8) (dom : Fin 256) (q t2 t3 t4 : Nat) (t1 c : Int) s, (dom : Nat) = s.rd fCLV_PTP_CFG_DOMAIN → s.on (fCLV_PTP_PORT_CFG_EN k) = true →
    s.peerDelay = false → (s.ptpPort k).req = some (q, t3) → (s.ptpPort k).syncAt = some (t1, t2) →
    Runs (.delayResp k dom q t4 c) s fun t => (t.ptpPort k).delay = (((t2 : Int) - t1) + ((t4 : Int) - t3) - c) / 2) ∧
  (∀ (k : Fin 8) (dom : Fin 256) s, (dom : Nat) = s.rd fCLV_PTP_CFG_DOMAIN → s.on (fCLV_PTP_PORT_CFG_EN k) = true →
    exec (.managementMessage k dom) s = .next { s with clv := { s.clv with ptpMgmt := s.clv.ptpMgmt + 1 } }) ∧
  (∀ (k : Fin 8) s, s.on (fCLV_PTP_PORT_CFG_EN k) = true → s.egrFull (s.ptpOn k) qTime = false → s.clv.ptp.length = 8 →
    let q := (s.ptpPort k).txSeq
    let log := s.rd (fCLV_PTP_PORT_CFG_LOG_SYNC k)
    let next := fun t : State => (t.ptpPort k).txSeq = (q + 1) % 65536
    (s.beforeStep = false → (s.ptpPort k).role = .master →
      (Runs (.ptpMasterTx k .announce) s fun t => next t ∧ ptpSent k ptAnnounce (announceFlags s.announced) q 0
        (announceBody (s.rd fCLV_PTP_CFG_PROFILE = 0) s.announced) .plain s t) ∧
      Runs (.ptpMasterTx k .sync) s fun t => next t ∧ if s.on fCLV_PTP_CFG_TWO_STEP_TX then
          ptpSent k ptSync 0x200 q log (ptpTime s.clv.now) (.syncTwo q log) s t
        else ptpSent k ptSync 0 q log (be 10 0) .sync s t) ∧
    (s.peerDelay = true →
      Runs (.ptpMasterTx k .pdelayReq) s fun t => next t ∧ ptpSent k ptPdelayReq 0 q 0x7F (be 20 0) (.request q) s t) ∧
    (s.peerDelay = false → (s.ptpPort k).role = .slave →
      Runs (.ptpMasterTx k .delayReq) s fun t => next t ∧ ptpSent k ptDelayReq 0 q 0x7F (ptpTime s.clv.now) (.request q) s t)) ∧
  (∀ (k : Fin 8) s, s.beforeStep = true → exec (.ptpMasterTx k .announce) s = .next s ∧ exec (.ptpMasterTx k .sync) s = .next s) ∧
  (∀ (k : Fin 8) s, s.on (fCLV_PTP_PORT_CFG_EN k) = true → s.up ≥ (s.ptpPort k).bestAt + 3 * (s.ptpPort k).annInterval →
    Runs (.announceReceiptTimeout k) s fun t => (t.ptpPort k).best = none)

/-- Clave's states (R69, R75 to R79, R546): the first-lock step when its wait ends with 4 samples that agree, the loss of the selected source,
a refusal episode that lasts STUCK_S, the quality of a holdover, a pending leap, and the time kept in MRAM. -/
def Obligations.ClaveStateRows : Prop :=
  (∀ s, s.clvState = clvAcquiring → s.on fCLV_STS_STEPPED = false → s.up ≥ s.clv.s1End + s.rd fCLV_TIMER_CFG_WAIT_S * 1000000000 →
    let l := (s.srcHist s.src).recent.map fun x => x.ofs
    (s.qualifies s.src = true → Runs .firstLockWaitExpiry s fun t => t.clv.now = ((s.clv.now : Int) + meanInt l).toNat ∧
      t.on fCLV_STS_STEPPED = true ∧ t.clv.okRun = 0 ∧ t.clv.hist = (l.map fun x => x - meanInt l).reverse ∧ t.clv.lastSample = s.up) ∧
    (s.qualifies s.src = false → exec .firstLockWaitExpiry s = .next s)) ∧
  (∀ s, (s.clvState = clvLocked ∨ s.clvState = clvAcquiring ∧ s.on fCLV_STS_STEPPED = true) → s.silent s.src = true →
    Runs .srcLost s fun t => t.clvState = clvHoldover ∧ t.clv.eSince = s.up ∧ t.clv.okRun = 0 ∧ t.bit fCLV_FLT_FLAGS 4 = true ∧
      t.clv.now = s.clv.now ∧ t.on fCLV_UTC_CFG_SRC_OWNS = false ∧ (s.clvState = clvLocked → s.clv.rates ≠ [] →
        t.rdS fCLV_RATE_STS_RATE = satSigned fCLV_RATE_STS_RATE.w (meanInt s.clv.rates))) ∧
  (∀ e s, s.clv.episode = some e → s.clvState = clvHoldover → s.up ≥ e + s.rd fCLV_TIMER_CFG_STUCK_S * 1000000000 →
    Runs .stuck s fun t => t.clvState = clvStuck ∧ t.bit fCLV_FLT_FLAGS 2 = true) ∧
  (∀ s, s.clvState = clvHoldover ∨ s.clvState = clvStuck →
    Runs .holdoverQualLost s fun t => t.tq = (qualCodes false s.errEst).1 ∧ t.statTq = (qualCodes false s.errEst).2 ∧
      (t.on fCLV_STS_QUAL_LOST = true ↔ s.qualLost = true) ∧
      (s.qualLost = true → s.on fCLV_STS_QUAL_LOST = false → t.bit fCLV_FLT_FLAGS 8 = true)) ∧
  (∀ d pos s, s.clv.leapAt = some (d, pos) → s.clv.now ≥ d * 1000000000 →
    Runs .leap s fun t => t.rd fCLV_UTC_CFG_TAI_UTC = ofSigned 16 (s.taiUtc + (if pos then 1 else -1)) ∧ t.clv.leapAt = none ∧
      t.mram.pwr.taiUtc = ofSigned 16 (s.taiUtc + (if pos then 1 else -1)) ∧ t.rd fCLV_UTC_CFG_LEAP61 = 0 ∧ t.rd fCLV_UTC_CFG_LEAP59 = 0 ∧
      t.rd fCLV_STS_LEAP_PEND = 0) ∧
  (∀ s, s.timeAlive = true → s.clv.now / 1000000000 ≠ s.mram.pwr.time →
    Runs .timeMramWrite s fun t => t.mram.pwr = { s.mram.pwr with time := s.clv.now / 1000000000 } ∧
      t.clv = { s.clv with rates := (s.rdS fCLV_RATE_STS_RATE :: s.clv.rates).take 60 })

/-- Ticks and a reseat (R66, R77, R82): ticking begins at the whole second fixed at lock; a tick instant, which for the tick of a reseat is the
step itself, names the next; a reseat steps the time at t(m) in the old time, counts the generation and skips the ticks it passes over. -/
def Obligations.TickRows : Prop :=
  (∀ sec s, s.clv.tickSecond = some sec → s.ticking = false → s.pwr.phase = .running → s.img.isSome = true → s.clv.now ≥ sec * 1000000000 →
    Runs .tickingBegin s fun t => t.rd fCLV_STS_TICKING = 1 ∧ t.clv = { s.clv with nextTick := sec * s.rate } ∧ t.tmb.next = sec * s.rate) ∧
  (∀ n s, s.ticking = true → n = s.clv.nextTick → s.clv.now ≥ s.tickInst n ∨ s.clv.lastReseat = some n →
    Runs (.tickInstant n) s fun t => t.clv.nextTick = (s.nextRun n).1 ∧ t.clv.now = s.clv.now) ∧
  (∀ n s, s.ticking = false ∨ n ≠ s.clv.nextTick ∨ s.clv.now < s.tickInst n ∧ s.clv.lastReseat ≠ some n →
    exec (.tickInstant n) s = .next s) ∧
  (∀ r s, s.clv.reseat = some r → s.clv.now ≥ r.tm → r.src < 4 →
    Runs .reseatStep s fun t => t.clv.now = ((s.clv.now : Int) + r.d).toNat ∧ t.clv.reseat = none ∧ t.clv.lastReseat = some r.m ∧
      t.clvState = clvLocked ∧ t.src = r.src ∧ t.bit fCLV_FLT_FLAGS 3 = true ∧ t.clv.hist = s.clv.hist ∧
      t.clv.skip = (if r.skipped > 0 then some (r.m + 1, r.skipped) else none) ∧
      t.clv.nextTick = (if r.skipped > 0 ∧ s.clv.nextTick = r.m + 1 then r.m + 1 + r.skipped else s.clv.nextTick) ∧
      (r.skipped > 0 → ∀ c ∈ t.pgh.cols, c.tick ≤ r.m ∨ c.tick > r.m + r.skipped) ∧
      t.rd fCLV_RESEAT_STS_GEN = (if s.rd fCLV_RESEAT_STS_GEN ≥ 0xFE then 0 else s.rd fCLV_RESEAT_STS_GEN + 1))

/-- What a driven pin sends: nothing while power is shed, when an output holds its last state (R43). -/
def pinSent (pin : Nat) (level : Bool) (s t : State) : Prop :=
  t.out = s.out ++ if s.shedding then [] else [.pin "PIO" pin (some level)]

/-- Time-trigger generators and captures (R42, R43, R88 to R91, R94, R95). -/
def Obligations.PinRows : Prop :=
  (∀ (k : Fin 8) s, s.clv.ttg.getD k none = none → s.clv.ttg.length = 8 →
    (s.on (fCLV_TTG_CFG_OWNED k) = true → ttgCfgOk (s.ttgSnapshot k) = true → s.beforeStep = false →
      ((s.ttgSnapshot k).mode = 0 → s.clv.now < (s.ttgSnapshot k).start) →
      Runs (.ttgArm k) s fun t => t.clv.ttg.getD k none = some { s.ttgSnapshot k with next := ttgFirst (s.ttgSnapshot k) s.clv.now } ∧
        t.rd (fCLV_TTG_STS_ARMED k) = 1 ∧ t.rd (fCLV_TTG_CTL_ARM k) = 1 ∧ t.rd (fCLV_TTG_STS_PULSES k) = 0) ∧
    (s.on (fCLV_TTG_CFG_OWNED k) = false ∨ ttgCfgOk (s.ttgSnapshot k) = false ∨ s.beforeStep = true →
      Runs (.ttgArm k) s fun t => t.clv.ttg.getD k none = none ∧ t.rd (fCLV_TTG_STS_ARMED k) = 0 ∧
        (s.on (fCLV_TTG_CFG_OWNED k) = false → t.rd (fCLV_TTG_STS_NOT_OWNER k) = 1) ∧
        (ttgCfgOk (s.ttgSnapshot k) = false ∨ s.beforeStep = true → t.rd (fCLV_TTG_STS_CFG_ERR k) = 1))) ∧
  (∀ (k : Fin 8) s, s.clv.ttg.length = 8 →
    Runs (.ttgDisarm k) s fun t => t.clv.ttg.getD k none = none ∧ t.rd (fCLV_TTG_STS_ARMED k) = 0 ∧ t.rd (fCLV_TTG_CTL_ARM k) = 0 ∧
      ∀ g, s.clv.ttg.getD k none = some g → g.fallAt.isSome = true → pinSent g.pin (g.pol ≠ 0) s t) ∧
  (∀ (k : Fin 8) g s, s.clv.ttg.getD k none = some g → s.clv.ttg.length = 8 →
    (∀ f, g.fallAt = some f → s.clv.now ≥ f →
      Runs (.ttgEdge k) s fun t => pinSent g.pin (g.pol ≠ 0) s t ∧
        t.clv.ttg.getD k none = (if g.mode = 0 then none else some { g with fallAt := none })) ∧
    (g.fallAt = none → s.clv.now ≥ ttgInstant g g.next →
      Runs (.ttgEdge k) s fun t => pinSent g.pin (g.pol = 0) s t ∧
        t.clv.ttg.getD k none = some { g with next := g.next + 1, fallAt := some (ttgInstant g g.next + g.width) } ∧
        t.rd (fCLV_TTG_STS_PULSES k) = (s.rd (fCLV_TTG_STS_PULSES k) + 1) % 2 ^ (fCLV_TTG_STS_PULSES k).w)) ∧
  (∀ (k : Fin 16) raw hold rise s, s.on (fCLV_CAP_CFG_OWNED k) = true → s.clv.capLevel.getD k none ≠ some rise → s.clv.caps.length = 16 →
    let g := s.rd (fCLV_CAP_CFG_GLITCH k)
    (passesFilter g hold = false → exec (.captureEdge k raw hold rise) s =
      .next { s with clv := { s.clv with capLevel := s.clv.capLevel.set k (some !rise) } }) ∧
    (passesFilter g hold = true → edgeSelected (s.rd (fCLV_CAP_CFG_EDGE k)) rise = true →
      ((s.clv.caps.getD k []).length < 4 → Runs (.captureEdge k raw hold rise) s fun t =>
        t.clv.caps.getD k [] = s.clv.caps.getD k [] ++
          [{ time := atContact g raw, rise := rise, gen := if s.clvState = clvUnset then 0xFF else s.rd fCLV_RESEAT_STS_GEN }] ∧
        t.rd (fCLV_CAP_STS_LEVEL k) = (s.clv.caps.getD k []).length + 1) ∧
      ((s.clv.caps.getD k []).length ≥ 4 → Runs (.captureEdge k raw hold rise) s fun t => t.clv.caps = s.clv.caps ∧
        t.rd (fCLV_CAP_STS_OVF k) = 1 ∧
        t.rd (fCLV_CAP_STS_DROPS k) = satAdd (fCLV_CAP_STS_DROPS k).w (s.rd (fCLV_CAP_STS_DROPS k)) 1))) ∧
  (∀ (k : Fin 16) s, s.clv.caps.length = 16 →
    Runs (.capturePop k) s fun t => t.clv.caps.getD k [] = (s.clv.caps.getD k []).drop 1 ∧
      t.out = s.out ++ [.readData (rCLV_CAP_HI k) (match s.clv.caps.getD k [] with | e :: _ => e.time / 2 ^ 32 | [] => 0)])

/-! ### Frame ports -/

/-- Links, pause and preemption (R96, R97, R99, R115, R119, R120, R122). A port held down comes up at a retry, 1 s after it was held. -/
def Obligations.PortRows : Prop :=
  (∀ (n : Fin 64) fd g s, Machine.Inv s → s.link n = false → s.portMode n ≠ 0 → (s.portMode n = 1 → fd = true) →
    (s.portMode n = 2 → fd = true ∧ g = true) →
    let up := fun t : State => t.link n = true ∧ t.rd (fPORT_STS_AN_DONE n) = 1 ∧ (t.port n).anRetry = none ∧ (t.port n).verify = 0 ∧
      t.rd (fPORT_STS_PMAC n) = (if (s.port n).pmacOn then (if (s.port n).verifyDis then pmacActive else pmacVerifying) else pmacOff)
    ((s.port n).anRetry = none → Runs (.linkUp n fd g) s up) ∧
    ∀ x, (s.port n).anRetry = some x → (s.up ≥ x → Runs (.anRetry n fd g) s up) ∧ (s.up < x → exec (.anRetry n fd g) s = .next s)) ∧
  (∀ (n : Fin 64) fd g s, Machine.Inv s → s.link n = false → (s.port n).anRetry = none →
    (s.portMode n = 1 ∧ fd = false ∨ s.portMode n = 2 ∧ (fd = false ∨ g = false)) → Runs (.linkUp n fd g) s fun t =>
      t.link n = false ∧ (t.port n).anRetry = some (s.up + 1000000000) ∧ t.bit (fPORT_FLT_FLAGS n) (s.portMode n) = true) ∧
  (∀ (n : Fin 64) s, Machine.Inv s → s.link n = true → Runs (.linkDown n) s fun t => t.link n = false ∧ t.rd (fPORT_STS_PMAC n) = pmacOff ∧
    (t.port n).cur = none ∧ (t.port n).wire = none ∧ (t.port n).cut = none ∧ (t.port n).pausedTo = none ∧ (t.port n).express = [] ∧
    ((t.port n).rx.map fun f => f.bytes) = ((s.port n).rx.map fun f => f.bytes) ∧ t.bit (fPORT_FLT_FLAGS n) 0 = true ∧
    ((s.port n).wire.isSome = true → (s.port n).cut = none →
      t.rd (fPORT_TXLOST_CNT_FRAMES n) = satAdd (fPORT_TXLOST_CNT_FRAMES n).w (s.rd (fPORT_TXLOST_CNT_FRAMES n)) 1)) ∧
  (∀ (n : Fin 64) s, Machine.Inv s → Runs (.linkRestart n) s fun t => t.link n = false ∧ (t.port n).anRetry = none ∧
    ((t.port n).rx.map fun f => f.bytes) = ((s.port n).rx.map fun f => f.bytes)) ∧
  (∀ (n : Fin 64) (q : Fin 65536) s, Machine.Inv s → s.link n = true → s.on (fPORT_CTL_PAUSE_OBEY n) = true →
    Runs (.pauseRx n q) s fun t => t.rd (fPORT_PAUSE_CNT_FRAMES n) = satAdd 32 (s.rd (fPORT_PAUSE_CNT_FRAMES n)) 1 ∧
      t.rd (fPORT_STS_PAUSED n) = (if q = 0 then 0 else 1) ∧
      (t.port n).pausedTo = (if q = 0 then none else some (s.up + (match s.portMode n with
        | 4 => q * 512 / 10 | 3 => q * 2048 / 10 | _ => q * 512)))) ∧
  (∀ (n : Fin 64) x s, Machine.Inv s → (s.port n).pausedTo = some x → s.up ≥ x →
    Runs (.pauseExpire n) s fun t => (t.port n).pausedTo = none ∧ t.rd (fPORT_STS_PAUSED n) = 0) ∧
  (∀ (n : Fin 64) v s, Machine.Inv s → Runs (.pauseObeyWrite n v) s fun t => t.on (fPORT_CTL_PAUSE_OBEY n) = v ∧
    (v = false → (t.port n).pausedTo = none ∧ t.rd (fPORT_STS_PAUSED n) = 0)) ∧
  (∀ (n : Fin 64) s, Machine.Inv s → s.rd (fPORT_STS_PMAC n) = pmacVerifying →
    (s.up < (s.port n).verifyAt → exec (.pmacVerify n) s = .next s) ∧
    (s.up ≥ (s.port n).verifyAt → (s.port n).verify < 3 → Runs (.pmacVerify n) s fun t => (t.port n).verify = (s.port n).verify + 1 ∧
      (t.port n).verifyAt = s.up + 10000000 ∧ t.out = s.out ++ [.ctl "verify" n []] ∧ t.regs = s.regs) ∧
    (s.up ≥ (s.port n).verifyAt → (s.port n).verify ≥ 3 →
      Runs (.pmacVerify n) s fun t => t.rd (fPORT_STS_PMAC n) = pmacFailed ∧ t.bit (fPORT_FLT_FLAGS n) 7 = true) ∧
    Runs (.verifyResponseRx n) s fun t => t.rd (fPORT_STS_PMAC n) = pmacActive) ∧
  (∀ (n : Fin 64) v s, Machine.Inv s → Runs (.pmacEnWrite n v) s fun t => t.on (fPORT_CTL_PMAC_EN n) = v ∧
    ((s.port n).wire.isSome = true → (t.port n).pmacOn = (s.port n).pmacOn ∧ t.rd (fPORT_STS_PMAC n) = s.rd (fPORT_STS_PMAC n)) ∧
    ((s.port n).wire = none → (t.port n).pmacOn = v ∧ (v ≠ (s.port n).pmacOn ∨ s.rd (fPORT_STS_PMAC n) = pmacFailed →
      t.rd (fPORT_STS_PMAC n) = if v && s.link n then (if s.on (fPORT_CTL_VERIFY_DIS n) then pmacActive else pmacVerifying) else pmacOff)))

/-- Receive (R87, R101, R104 to R107, R110 to R113, R119): at its end a frame is dropped whole where its words would fill the FIFO; one with a
wrong FCS or too short is only counted; a good one of admissible length is stored without its PRP trailer and counted, a longer one cut to
MAX_LEN; a verify mPacket is answered. The duplicate filter answers when the key has come in; a copy whose entry has become final is discarded,
one whose entry is gone is looked up again, the lowest port first; final entries are freed when their hold time has passed. -/
def Obligations.ReceiveRows : Prop :=
  (∀ (n : Fin 64) (x : Nat) b ce s, Machine.Inv s → s.link n = true → (s.port n).cur = none → macOnly b = false →
    let max := s.rd (fPORT_RX_CFG_MAX_LEN n)
    (∀ fin, fin ≠ .verify → rxHeld (s.port n) + rxWords (min (b.length + 4) max) ≥ 8192 →
      Runs (.macRxFrame n x b fin ce) s fun t => (t.port n).rx = (s.port n).rx ∧ (t.port n).wr = (s.port n).wr ∧
        t.rd (fPORT_DROP_CNT_FRAMES n) = satAdd (fPORT_DROP_CNT_FRAMES n).w (s.rd (fPORT_DROP_CNT_FRAMES n)) 1 ∧
        t.bit (fPORT_FLT_FLAGS n) 5 = true) ∧
    (rxHeld (s.port n) + rxWords (min (b.length + 4) max) < 8192 →
      (b.length + 4 < 64 → Runs (.macRxFrame n x b .good ce) s fun t => (t.port n).rx = (s.port n).rx ∧
        t.rd (fPORT_RUNT_CNT_FRAMES n) = satAdd (fPORT_RUNT_CNT_FRAMES n).w (s.rd (fPORT_RUNT_CNT_FRAMES n)) 1) ∧
      (64 ≤ b.length + 4 →
        (Runs (.macRxFrame n x b .badFcs ce) s fun t => t.rd (fPORT_FCS_CNT_FRAMES n) = satAdd 32 (s.rd (fPORT_FCS_CNT_FRAMES n)) 1 ∧
          t.rd (fPORT_ECC_CNT_CE n) = satAdd (fPORT_ECC_CNT_CE n).w (s.rd (fPORT_ECC_CNT_CE n)) ce ∧ (t.port n).rx = (s.port n).rx) ∧
        (b.length + 4 ≤ max → s.dupKey n true false b = none →
          let st := match prpTrailer b with
            | some (lan, _, b') => (lan, b')
            | none => (0, b)
          Runs (.macRxFrame n x b .good ce) s fun t => t.rd (fPORT_RX_CNT_FRAMES n) = satAdd 32 (s.rd (fPORT_RX_CNT_FRAMES n)) 1 ∧
            (t.port n).rx = (s.port n).rx ++ [{ stamp := s.rxInstant n x, len := st.2.length + 4, bytes := st.2, lan := st.1, trunc := false,
                                                dup := .unchecked, started := false }] ∧
            (t.port n).wr = ((s.port n).wr + rxWords (st.2.length + 4)) % 16384) ∧
        (b.length + 4 > max → s.dupKey n true true ((b ++ ethFcs b).take max) = none →
          Runs (.macRxFrame n x b .good ce) s fun t => t.rd (fPORT_RX_CNT_FRAMES n) = satAdd 32 (s.rd (fPORT_RX_CNT_FRAMES n)) 1 ∧
            t.rd (fPORT_TRUNC_CNT_FRAMES n) = satAdd (fPORT_TRUNC_CNT_FRAMES n).w (s.rd (fPORT_TRUNC_CNT_FRAMES n)) 1 ∧
            (t.port n).rx = (s.port n).rx ++ [{ stamp := s.rxInstant n x, len := max, bytes := (b ++ ethFcs b).take max, lan := 0, trunc := true,
                                                dup := .unchecked, started := false }])))) ∧
  (∀ (n : Fin 64) x b ce s, s.link n = true → (s.port n).pmacOn = true →
    exec (.macRxFrame n x b .verify ce) s = .next (s.emit (.ctl "respond" n []))) ∧
  (∀ (n : Fin 64) (x : Nat) b k s, Machine.Inv s → s.link n = true → (s.port n).cur = none → s.dupKey n false false b = some k → macOnly b = false →
    let c : RxCur := { stamp := s.rxInstant n x, bytes := b, maxLen := s.rd (fPORT_RX_CFG_MAX_LEN n), dup := .unchecked, started := false }
    rxHeld (s.port n) + curWords c < 8192 →
    Runs (.dupLookup n x b) s fun t => ∃ d, (t.port n).cur = some { c with dup := d } ∧
      (s.dupFind k = none → s.dup.length < 131072 → d = .owner k s.dupNext ∧ t.dupNext = s.dupNext + 1 ∧
        t.dup = s.dup ++ [{ key := k, id := s.dupNext, final := none }]) ∧
      (∀ e, s.dupFind k = some e → t.dup = s.dup ∧ d = (if e.final.isSome then .discard else .waiting k e.id))) ∧
  (∀ (n : Fin 64) f rest s, Machine.Inv s → (s.port n).rx = f :: rest →
    (f.dup = .discard → hasAgain (s.port n) = false →
      Runs (.dupWaitRelease n) s fun t => (t.port n).rx = rest ∧ t.rd (fPORT_DUP_CNT_FRAMES n) = satAdd 32 (s.rd (fPORT_DUP_CNT_FRAMES n)) 1) ∧
    (∀ k, f.dup = .again k → (∀ m < (n : Nat), hasAgain (s.port m) = false) →
      (s.dupFind k = none → s.dup.length < 131072 → Runs (.dupWaitRelease n) s fun t =>
        (t.port n).rx = { f with dup := .owner k s.dupNext } :: rest ∧ t.dup = s.dup ++ [{ key := k, id := s.dupNext, final := none }]) ∧
      (∀ e, s.dupFind k = some e → Runs (.dupWaitRelease n) s fun t =>
        (t.port n).rx = { f with dup := if e.final.isSome then .discard else .waiting k e.id } :: rest ∧ t.dup = s.dup))) ∧
  (∀ s, Runs .dupEntryExpire s fun t => ∀ e, e ∈ t.dup ↔ e ∈ s.dup ∧ ∀ y, e.final = some y → y.2 > s.up)

/-- Transmission (R107, R116 to R120, R330): an express frame starts first, and cuts a preemptable one where preemption is active and R119's
fragment sizes allow it; then the cut frame, then the FIFO's oldest. A sent frame leaves the wire and is counted, and its stamp goes to its
sender: a two-step Sync is followed up, a request keeps it. The scheduler takes the next frame of the queues of strict priority in order, and
of the others as their round robin picks. -/
def Obligations.TransmitRows : Prop :=
  (∀ (n : Fin 64) sent s, Machine.Inv s → s.link n = true → (s.port n).pausedTo = none → s.shedding = false → s.action 2 = false →
    (∀ e rest, (s.port n).wire = none → (s.port n).express = e :: rest →
      Runs (.txFrameStart n sent) s fun t => (t.port n).wire = some { frame := e, express := true } ∧ (t.port n).express = rest ∧
        (t.port n).fifo = (s.port n).fifo) ∧
    (∀ e rest w, (s.port n).wire = some w → w.express = false → (s.port n).cut = none → s.rd (fPORT_STS_PMAC n) = pmacActive →
      (s.port n).express = e :: rest →
      (mayCut (s.port n) w.frame sent = true → Runs (.txFrameStart n sent) s fun t => (t.port n).wire = some { frame := e, express := true } ∧
        (t.port n).cut = some { w.frame with preempted := true, done := w.frame.done + sent }) ∧
      (mayCut (s.port n) w.frame sent = false → exec (.txFrameStart n sent) s = .next s)) ∧
    (∀ f, (s.port n).wire = none → (s.port n).express = [] → (s.port n).cut = some f →
      Runs (.txFrameStart n sent) s fun t => (t.port n).wire = some { frame := f, express := false } ∧ (t.port n).cut = none) ∧
    (∀ f rest, (s.port n).wire = none → (s.port n).express = [] → (s.port n).cut = none → (s.port n).fifo = f :: rest →
      Runs (.txFrameStart n sent) s fun t => (t.port n).wire = some { frame := f, express := false } ∧ (t.port n).fifo = rest)) ∧
  (∀ (n : Fin 64) (x : Nat) ce w s, Machine.Inv s → (s.port n).wire = some w → w.express = false →
    (w.frame.sender = .steward →
      (Runs (.txFrameSent n x false ce) s fun t => (t.port n).wire = none ∧ t.out = s.out ++ [.frame n false w.frame.bytes] ∧
        t.egr.stewStamp = x + s.rd (fPORT_DLY_CFG_TX_DLY n) ∧ t.rd (fPORT_TX_CNT_FRAMES n) = satAdd 32 (s.rd (fPORT_TX_CNT_FRAMES n)) 1 ∧
        t.rd (fPORT_ECC_CNT_CE n) = satAdd (fPORT_ECC_CNT_CE n).w (s.rd (fPORT_ECC_CNT_CE n)) ce) ∧
      Runs (.txFrameSent n x true ce) s fun t => (t.port n).wire = none ∧ t.bit (fPORT_FLT_FLAGS n) 4 = true) ∧
    (∀ k q log, w.frame.sender = .clave k (.syncTwo q log) → s.egrFull (s.ptpOn k) qTime = false →
      Runs (.txFrameSent n x false ce) s (ptpSent k ptFollowUp 0 q log (ptpTime (s.txInstant n x)) .plain s)) ∧
    (∀ k q, w.frame.sender = .clave k (.request q) → k < s.clv.ptp.length →
      Runs (.txFrameSent n x false ce) s fun t => (t.ptpPort k).req = some (q, s.txInstant n x))) ∧
  (∀ (n : Fin 64) s, ∀ k ∈ [qTime, qAlarm, qOutput], s.egrQ n k ≠ [] → (∀ j ∈ [qTime, qAlarm, qOutput], j < k → s.egrQ n j = []) →
    egrPick n s = some (k, s.egrPort n)) ∧
  (∀ (n : Fin 64) k p e rest s, Machine.Inv s → (s.port n).fifo = [] → egrPick n s = some (k, p) → p.queues = (s.egrPort n).queues →
    s.egrQ n k = e :: rest → (s.portCfg n).g0TxMax = 0 →
    e.frame.bytes.length + 4 ≤ s.rd (fPORT_RX_CFG_MAX_LEN n) → txUsed (s.port n) + txWords e.frame ≤ 4096 →
    Runs (.egressSchedule n) s fun t => (t.port n).fifo = [e.frame] ∧ t.egrQ n k = rest ∧
      (t.port n).txWr = ((s.port n).txWr + txWords e.frame) % 8192)

/-! ### Ingress -/

/-- The frame at the head of port n's FIFO, with `rest` behind it, has turned out to feed no slot (R135): it goes to the host ring where the
image enables that, else it is dropped as UNKNOWN. -/
def unboundDone (n : Nat) (f : RxFrame) (rest : List RxFrame) (s t : State) : Prop :=
  ((t.port n).rx.map fun x => x.bytes) = (rest.map fun x => x.bytes) ∧
    if (s.portCfg n).hostRing then (t.port n).host = (s.port n).host ++ [(f.bytes, f.stamp % 2 ^ 32, f.trunc, f.lan)]
    else t.rd fING_LAST_DROP_STS_REASON = dropUnknown

/-- Classification and binding (R100, R108, R125, R134, R135, R147): the parser of the port that the arbiter chooses takes up a datagram addressed
to its port that a binding wants; a bad header or a fragment is dropped with its reason, a frame that no binding wants goes to the host ring; the
parser starts on a frame still arriving whose first CT_BYTES are in; where another port is chosen nothing is done. -/
def Obligations.ParseRows : Prop :=
  (∀ (n : Fin 64) f rest s, Machine.Inv s → (s.port n).rx = f :: rest → (s.port n).job = none → dupHolds f.dup = false →
    (f.started = true ∨ ∃ d, s.parsePick = some (n.val, d)) → (ethHdr f.bytes).etype ≠ 0x88F7 → (ethHdr f.bytes).etype ≠ 0x0806 →
    let ip := readIp f.trunc (ethHdr f.bytes).etype (f.bytes.drop (ethHdr f.bytes).off)
    (ip = .bad → Runs (.ingressParse n) s fun t => t.rd fING_LAST_DROP_STS_REASON = dropL3L4) ∧
    (ip = .fragment → Runs (.ingressParse n) s fun t => t.rd fING_LAST_DROP_STS_REASON = dropFragment) ∧
    (ip = .notIp → Runs (.ingressParse n) s (unboundDone n f rest s)) ∧
    ∀ sa da sp dp p, ip = .udp sa da sp dp p →
      (s.classify sa dp (ethHdr f.bytes).vlan p = none → Runs (.ingressParse n) s (unboundDone n f rest s)) ∧
      ∀ kind bs, s.classify sa dp (ethHdr f.bytes).vlan p = some (kind, bs) → kind ≠ .command →
        let own := (s.portCfg n).unicast.contains da = true ∨ (s.portCfg n).groups.contains da = true
        (¬own ∨ bs = [] → Runs (.ingressParse n) s (unboundDone n f rest s)) ∧
        (own → bs ≠ [] → kind ≠ .other1344 → Runs (.ingressParse n) s fun t => (t.port n).job =
          some { kind := kind, payload := p, stamp := f.stamp, port := n, lan := f.lan, trunc := f.trunc, tcp := false,
                 slots := bs.map fun b => b.slot })) ∧
  (∀ (n : Fin 64) c d s, Machine.Inv s → (s.port n).rx = [] → (s.port n).cur = some c → s.parsePick = some (n.val, d) →
    Runs (.ingressParse n) s fun t => (t.port n).cur = some { c with started := true } ∧ (t.port n).curPtr = rxWr (s.port n) ∧
      t.ing.arb = d ∧ t.regs = s.regs) ∧
  (∀ (n : Fin 64) s, (∀ f rest, (s.port n).rx = f :: rest → f.started = false) → (∀ d, s.parsePick ≠ some (n.val, d)) →
    exec (.ingressParse n) s = .next s)

/-- C37.118 frames (R129, R131, R136, R138, R147, R547): a frame that fails the common checks is dropped with its reason; a data frame that says
its configuration has changed makes the module ask for it; one under a configuration becomes one record for each slot it feeds, blocks beyond the
64th set aside and flagged; a new configuration that fits waits to become active, and the one in force changes nothing; one that gives more than
60 frames per second over TCP has its connection closed, another impossible rate holds the stream; fragments of a CFG-3 frame are gathered; a
CFG-1 frame is counted and a header frame kept. -/
def Obligations.C37Rows : Prop :=
  (∀ src j r s, (openTcp src s).job src = some j → c37Common j = some r →
    (j.kind = .data → j.recs = none → Runs (.dataFrame src) s fun t => t.rd fING_LAST_DROP_STS_REASON = r) ∧
    (j.kind = .cfg2 → Runs (.cfg2Frame src) s fun t => t.rd fING_LAST_DROP_STS_REASON = r)) ∧
  (∀ src j i a x s, (openTcp src s).job src = some j → c37Common j = none → j.kind = .data → j.recs = none →
    let u := openTcp src s
    let k := u.jobStream j
    cfgChanged (u.stream k).cfg j.payload = true → u.img = some i → i.streams[k]? = some x → x.command = some a →
    u.on fING_CFG_CFG_REQ_EN = true → (u.stream k).lastReq.all (fun t => t + 1000000000 ≤ u.up) = true →
    Runs (.dataFrame src) s fun t => .ctl "c37cmd" a [5] ∈ t.out) ∧
  (∀ src j c s, Machine.Inv s → (openTcp src s).job src = some j → c37Common j = none → j.kind = .data → j.recs = none →
    ((openTcp src s).stream ((openTcp src s).jobStream j)).cfg = some c → ((openTcp src s).stream ((openTcp src s).jobStream j)).state ≠ 3 →
    dataFrameSize c = j.payload.length → beAt j.payload 11 3 < c.timeBase →
    let u := openTcp src s
    let f := roundDiv (beAt j.payload 11 3 * 1000000000) c.timeBase
    let x := u.taiOfUtc (beAt j.payload 6 4 + f / 1000000000) (f % 1000000000) j.stamp
    u.future x j.stamp = false →
    Runs (.dataFrame src) s fun t => (c.blocks.length > 64 → j.excess = false → t.bit fING_FLT_FLAGS 6 = true) ∧
      t.job src = some { j with excess := decide (c.blocks.length > 64), recs := some (u.bindings.filterMap fun b =>
        if j.slots.contains b.slot then blockRecord u j { c with blocks := c.blocks.take 64 } (u.stream (u.jobStream j)) b.slot (bindBlock b) x
        else none) }) ∧
  (∀ src j c s, (openTcp src s).job src = some j → c37Common j = none →
    let u := openTcp src s
    let k := u.jobStream j
    (j.kind = .cfg2 → c = readCfg2 j.payload →
      (∀ conn x p, src = .tcp conn x p → c.dataRate > 60 →
        Runs (.cfg2Frame src) s fun t => t.tcpState conn = 5 ∧ t.rd fING_LAST_DROP_STS_REASON = dropRate ∧
          .ctl "tcpclose" conn [] ∈ t.out) ∧
      (tooFast src c = none → rateOk c = false →
        Runs (.cfg2Frame src) s fun t => (t.stream k).state = 3 ∧ t.rd fING_LAST_DROP_STS_REASON = dropRate)) ∧
    (tooFast src c = none → rateOk c = true →
      (j.kind = .cfg2 → c = readCfg2 j.payload →
        ((u.stream k).cfg = some c → Runs (.cfg2Frame src) s fun t => (t.stream k).cfg = some c ∧ (t.stream k).waiting = none) ∧
        ((u.stream k).cfg ≠ some c → cfgInLimits c = true → u.cfgFits k c = true → (u.holdPolicy k = false ∨ (u.stream k).cfg = none) →
          Runs (.cfg2Frame src) s fun t => (t.stream k).waiting = some c ∧ (t.stream k).cfg = (u.stream k).cfg)) ∧
      ∀ d i desc, j.kind = .cfg3 → beAt j.payload 1 1 % 16 = 2 → c = { d with cfg3 := true } →
        (i = 0 → (u.stream k).cfg ≠ some c → cfgInLimits c = true → u.cfgFits k c = true → (u.holdPolicy k = false ∨ (u.stream k).cfg = none) →
          j.payload.length ≤ 65535 →
          Runs (.cfg3Frame src i d desc) s fun t => (t.stream k).waiting = some c ∧ (t.stream k).fragLen = 0 ∧ (t.stream k).desc = desc) ∧
        (0 < i → i < 0xFFFF → (if i = 1 then 0 else (u.stream k).fragLen) + j.payload.length ≤ 65535 →
          Runs (.cfg3Frame src i d desc) s fun t => (t.stream k).cfg = (u.stream k).cfg ∧
            (t.stream k).fragLen = (if i = 1 then 0 else (u.stream k).fragLen) + j.payload.length))) ∧
  (∀ src j s, (openTcp src s).job src = some j → c37Common j = none →
    (j.kind = .cfg1 → Runs (.cfg1Frame src) s fun t => t.ing.cfg1 = s.ing.cfg1 + 1) ∧
    (j.kind = .header → Runs (.headerFrame src) s fun t => (t.stream ((openTcp src s).jobStream j)).header = j.payload))

/-- IEEE 1344 and IEC 61850-90-5 frames (R132 to R135, R140, R144, R147, R547): what each becomes where its checks pass, and the reason where one
fails; a frame whose identifier, session identifier or svIDs no binding names feeds no slot; a stream that demands authentication refuses a
frame without it. -/
def Obligations.OtherFrameRows : Prop :=
  (∀ (n : Fin 64) d j s, Machine.Inv s → s.job1344 n d.ident = some j → j.kind = .data1344 → j.recs = none →
    (∀ f rest, j.slots = [] → (s.port n).rx = f :: rest → Runs (.ieee1344DataFrame n d) s (unboundDone n f rest s)) ∧
    (∀ r, j.slots ≠ [] → common1344 j d.sizeOk d.chkOk = some r →
      Runs (.ieee1344DataFrame n d) s fun t => t.rd fING_LAST_DROP_STS_REASON = r) ∧
    (∀ c, j.slots ≠ [] → common1344 j d.sizeOk d.chkOk = none → (s.stream (s.jobStream j)).state ≠ 3 →
      (s.stream (s.jobStream j)).cfg = some c → (∃ b l, c.blocks = b :: l ∧ b.phunit.length = d.phasors.length) →
      let f := roundDiv (d.smpCnt * 1000000000) (max 1 c.dataRate.toNat)
      let x := s.taiOfUtc (d.utcSec + f / 1000000000) (f % 1000000000) j.stamp
      s.future x j.stamp = false →
      Runs (.ieee1344DataFrame n d) s fun t => (t.port n).job =
        some { j with recs := some (j.slots.map fun sl => record1344 s j c (s.stream (s.jobStream j)) d sl x) })) ∧
  (∀ (n : Fin 64) ident so co c j s, Machine.Inv s → s.job1344 n ident = some j → j.kind = .cfg1344 → j.slots ≠ [] →
    (∀ r, common1344 j so co = some r → Runs (.ieee1344CfgFrame n ident so co c) s fun t => t.rd fING_LAST_DROP_STS_REASON = r) ∧
    (common1344 j so co = none → rateOk c = true → c.cfg3 = false → (s.stream (s.jobStream j)).cfg ≠ some c → cfgInLimits c = true →
      s.cfgFits (s.jobStream j) c = true → s.holdPolicy (s.jobStream j) = false →
      Runs (.ieee1344CfgFrame n ident so co c) s fun t => (t.stream (s.jobStream j)).waiting = some c)) ∧
  (∀ (n : Fin 64) f j fr rest s, Machine.Inv s → (s.port n).job = some j → (s.port n).rx = fr :: rest → j.kind = .routedSv → j.recs = none →
    let pairs := s.svPairs j f
    let k := { j with slots := pairs.map fun p => p.2.1.slot }
    let time (p : SvPair) : Nat := s.taiOfUtc (p.1.refrTm.getD 0 / 1000000000) (p.1.refrTm.getD 0 % 1000000000) j.stamp
    (f.si ≠ 0xA2 ∨ f.idError = false ∧ pairs = [] ∧ (f.encrypted = false ∨ f.asdus ≠ []) →
      Runs (.routedSvFrame n f) s (unboundDone n fr rest s)) ∧
    (f.si = 0xA2 → f.idError = false → pairs ≠ [] →
      (∀ r, svCheck k f pairs = some r → Runs (.routedSvFrame n f) s fun t => t.rd fING_LAST_DROP_STS_REASON = r) ∧
      (svCheck k f pairs = none →
        ((∀ p ∈ pairs, p.2.1.auth = false) → (∀ p ∈ pairs, s.future (time p) j.stamp = false) →
          Runs (.routedSvFrame n f) s fun t => (t.port n).job = some { k with
            excess := decide (f.asdus.length > 8)
            recs := some (pairs.map fun p => svRecord s j p.2.1 p.2.2.2 p.1 false false (s.stream p.2.1.stream).gen (time p)) }) ∧
        ((∃ p ∈ pairs, p.2.1.auth = true) → f.alg = 0 ∨ f.alg > 5 →
          Runs (.routedSvFrame n f) s fun t => t.rd fING_LAST_DROP_STS_REASON = dropAuthNone))))

/-- A frame of the steward core has joined port n's STEWARD queue. -/
def stewSent (n : Nat) (bytes : Bytes) (s t : State) : Prop :=
  ∃ e, t.egrQ n qSteward = s.egrQ n qSteward ++ [e] ∧ e.frame.sender = .steward ∧ e.frame.bytes = bytes

/-- Port n has queued a membership report for each of its groups, where its STEWARD queue has room for them. -/
def reportsSent (n : Nat) (s t : State) : Prop :=
  s.egrBp n qSteward = false → (s.egrQ n qSteward).length + (s.portCfg n).groups.length ≤ s.qdepth →
    ((t.egrQ n qSteward).map fun e => e.frame.bytes) = ((s.egrQ n qSteward).map fun e => e.frame.bytes) ++
      (s.portCfg n).groups.map fun g => reportFrame (portMac n) (s.ownAddr n g) g

/-- Commit, activation, TCP and the address protocols (R108, R111, R128 to R130, R137, R175, R274, R407). -/
def Obligations.IngressRows : Prop :=
  (∀ src j rs s, s.job src = some j → j.recs = some rs → Runs (.ingressCommit src) s fun t => t.ing.arrivals = s.ing.arrivals ++ rs ∧
    ∀ (n : Fin 64) f rest k id, Machine.Inv s → src = .port n → (s.port n).rx = f :: rest → f.dup = .owner k id →
      ((t.port n).rx.map fun x => x.bytes) = (rest.map fun x => x.bytes) ∧
      ∀ e ∈ t.dup, e.id = id → e.final = some (s.up, s.up + s.rd fING_DUP_CFG_HOLD_MS * 1000000)) ∧
  (∀ k c s, (s.stream k).waiting = some c →
    Runs (.cfgActivate k) s fun t =>
      t.stream k = { s.stream k with cfg := some c, gen := ((s.stream k).gen + 1) % 65536, state := 2, waiting := none } ∧
      (∀ b ∈ s.bindings, b.stream = k → t.hist b.slot = { fresh := true } ∧ (t.ingSlot b.slot).cfgNew = true) ∧
      ∀ n j, (s.port n).job = some j → s.jobStream j = k → (t.port n).job = some { j with recs := none }) ∧
  (∀ (c : Fin 256) s, s.hasTcp c = true → s.tcpState c = 1 →
    Runs (.tcpConnect c) s fun t => t.tcpState c = 2 ∧ t.out = s.out ++ [.ctl "tcpconnect" c [], .ctl "tcpcmd" c [5]]) ∧
  (∀ (c : Fin 256) s, s.tcpState c = 4 ∨ s.tcpState c = 5 →
    (s.up ≥ smGet 0 s.ing.tcpDue c → Runs (.tcpRetry c) s fun t => t.tcpState c = 1 ∧ t.out = s.out ++ [.ctl "tcpconnect" c []]) ∧
    (s.up < smGet 0 s.ing.tcpDue c → exec (.tcpRetry c) s = .next s)) ∧
  (∀ (c : Fin 256) s, s.hasTcp c = true → s.tcpState c < 4 →
    Runs (.tcpDown c) s fun t => t.tcpState c = 4 ∧ smGet 0 t.ing.tcpDue c = s.up + 5000000000 ∧ t.bit fING_FLT_FLAGS 4 = true) ∧
  (∀ i s, s.img = some i → (∀ n : Fin 64, Runs (.membershipReport (some n)) s (reportsSent n s)) ∧
    (s.up ≥ s.ing.reportDue → Runs (.membershipReport none) s fun t => t.ing.reportDue = s.up + 60000000000 ∧
      ∀ n < i.ports.length, reportsSent n s t) ∧
    (s.up < s.ing.reportDue → exec (.membershipReport none) s = .next s)) ∧
  (∀ (n : Fin 64) a b m s, s.egrFull n qSteward = false →
    ((s.portCfg n).unicast.contains a = true → Runs (.arpRequest n a b m) s (stewSent n (resolveReply (portMac n) a b m) s)) ∧
    ∀ i, (s.portCfg n).unicast.contains a = false → s.img = some i → (i.srcIps.any fun x => x.1 = n.val && x.2 = a) = true →
      (s.authority = true → Runs (.arpRequest n a b m) s (stewSent n (resolveReply i.srcMac a b m) s)) ∧
      (s.authority = false → exec (.arpRequest n a b m) s = .next s)) ∧
  (∀ i s, s.img = some i →
    (s.up ≥ s.alm.resolveAt → Runs .macResolve s fun t => t.alm.resolveAt = s.up + 60000000000 ∧
      let asked (n a : Nat) : Prop := s.egrBp n qSteward = false →
        (s.egrQ n qSteward).length + i.alm.dests.length + (i.outs.map fun o => o.dests.length).sum ≤ s.qdepth →
        ∃ e ∈ t.egrQ n qSteward, e.frame.bytes = resolveFrame (portMac n) (s.ownAddr n a) a
      (∀ d ∈ i.alm.dests, d.mac = none → isMulticast d.addr = false → asked d.port d.addr) ∧
      ∀ o ∈ i.outs, ∀ d ∈ o.dests, d.mac = none → isMulticast d.addr = false → asked d.portA d.addr) ∧
    (s.up < s.alm.resolveAt → exec .macResolve s = .next s)) ∧
  (∀ a m i s, s.img = some i → Runs (.arpReply a m) s fun t =>
    (∀ x ∈ i.alm.dests.zipIdx, x.1.addr = a → smFind? t.alm.macs x.2 = some m ∧ x.2 ∉ t.alm.unresolved) ∧
    ((∃ o ∈ i.outs, ∃ d ∈ o.dests, d.addr = a) → smFind? t.egr.macs a = some m))

/-! ### Pigeonhole -/

/-- The decision on a record (R155, R156, R167, R171, R175, R180, R181): a record on the grid that comes before its group's close is PRESENT in its
tick's cell and signals readiness; one that comes after it takes its group's late path; one for a cell that holds a record is a duplicate; a
record of a resampled slot enters that slot's history, unless it is of an earlier generation. -/
def Obligations.RecordRows : Prop :=
  (∀ r rest b b' c s, s.ing.arrivals = r :: rest → s.slotBinding? r.slot = some b → forResampler s r b = false → s.ticking = true →
    let n := s.nearestTick r.srcTime
    (r.qual.testBit 28 = true ∨ b.fmt = .localRef ∨ (s.tickInst n - r.srcTime) + (r.srcTime - s.tickInst n) ≤ s.tolerance b) →
    s.skips n = false → s.swapBars r n = false → bindingOf (s.imgAt n) r.slot = some b' → s.col? n = some c →
    let x := cellOf c r.slot
    (x.state ≠ 1 → x.state ≠ 3 → x.lost = false →
      (r.ingTime < closeAt c b'.group ∨ c.win = none → c.done.contains b'.group = false → Runs .recordArrival s fun t => t.ing.arrivals = rest ∧
        t.cell n r.slot = { x with state := 1, rec? := some r, arrival := arrivalOf r c.inst, ready := 1 } ∧
        t.rd fPGH_ONTIME_CNT_RECORDS = satAdd 32 (s.rd fPGH_ONTIME_CNT_RECORDS) 1) ∧
      (r.ingTime ≥ closeAt c b'.group → c.win.isSome = true →
        let path := (groupOf (s.imgAt n) b'.group).latePath
        Runs .recordArrival s fun t => t.ing.arrivals = rest ∧ t.rd fPGH_LATE_CNT_RECORDS = satAdd 32 (s.rd fPGH_LATE_CNT_RECORDS) 1 ∧
          t.cell n r.slot = if path = 0 then x else
            { x with state := 3, arrival := arrivalOf r c.inst,
                     rec? := some { r with qual := r.qual % 2 ^ 29 + 2 ^ 30 + (if path = 2 then 2 ^ 29 else 0) } })) ∧
    (x.state = 1 ∨ x.state = 3 → Runs .recordArrival s fun t => t.ing.arrivals = rest ∧
      t.rd fPGH_DUP_CNT_RECORDS = satAdd 32 (s.rd fPGH_DUP_CNT_RECORDS) 1 ∧ (t.cell n r.slot).state = x.state ∧
      (t.cell n r.slot).dups = min 3 (x.dups + 1) ∧
      ((t.cell n r.slot).conflict = true ↔ x.conflict = true ∨ ∃ h, x.rec? = some h ∧ sameData h r = false))) ∧
  (∀ r rest b s, s.ing.arrivals = r :: rest → s.slotBinding? r.slot = some b → forResampler s r b = true → b.slot = r.slot →
    let rIn := s.recRate b r
    let x := inputInst rIn b.offsetNs (inputAt rIn b.offsetNs (r.srcTime + 500000000 / rIn))
    (((r.srcTime : Int) - x).natAbs ≤ s.tolerance b → r.cfgGen = (s.stream b.stream).gen → (s.hist b.slot).recs = [] →
      Runs .resamplerInput s fun t => t.ing.arrivals = rest ∧ (t.hist b.slot).recs = [r]) ∧
    (((r.srcTime : Int) - x).natAbs ≤ s.tolerance b → r.cfgGen ≠ (s.stream b.stream).gen →
      Runs .resamplerInput s fun t => t.ing.arrivals = rest ∧ t.hist b.slot = s.hist b.slot) ∧
    (((r.srcTime : Int) - x).natAbs > s.tolerance b → Runs .resamplerInput s fun t => t.ing.arrivals = rest ∧
      t.rd fPGH_OFFGRID_CNT_RECORDS = satAdd 32 (s.rd fPGH_OFFGRID_CNT_RECORDS) 1))

/-- Close tokens and templates (R152 to R154, R156, R169, R187): the earliest token is issued at its close and processed once the watermark has
passed it or GUARD has run out, that of an image with no used group at once; its group's empty cells become MISSING, and the last token of a
tick closes the tick; templates are written for the MISSING cells. Learning's copy and memory errors (R164, R186): every 60 s the area that is
not the newest complete one takes the statistics, with the bindings and groups they were learned under and, where power lasts, a CRC; a
corrected error is counted; a cell in error reads as MISSING, and a slot's four statistics in error start anew. -/
def Obligations.CloseRows : Prop :=
  (∀ x g n c s, firstToken (s.tokens fun c g => !c.issued.contains g) = some (x, g, n) → s.col? n = some c → x ≤ s.clv.now →
    Runs .closeTokenIssue s fun t => t.col? n = some { c with issued := c.issued ++ [g] }) ∧
  (∀ x g n c s, firstToken (s.tokens fun c g => c.issued.contains g && !c.done.contains g) = some (x, g, n) → s.col? n = some c →
    (g = 16 ∨ s.watermark ≥ x ∨ s.clv.now ≥ x + s.rd fPGH_CFG_GUARD_US * 1000) →
    ((tokenGroups (usedGroups (s.imgAt n))).all (c.done ++ [g]).contains = false →
      Runs .closeTokenProcess s fun t => (∃ c', t.col? n = some c' ∧ c'.done = c.done ++ [g]) ∧
        (∀ sl ∈ groupSlots (s.imgAt n) g, (t.cell n sl).state ≠ 0) ∧ (g < 16 → s.watermark < x → t.bit fPGH_FLT_FLAGS 0 = true)) ∧
    ((tokenGroups (usedGroups (s.imgAt n))).all (c.done ++ [g]).contains = true → n < 2 ^ 64 →
      Runs .closeTokenProcess s fun t => t.rd64 fPGH_TICK_LO_N_LO = n ∧ ∃ e ∈ t.pgh.closed, e.1 = n)) ∧
  (∀ x g n s, firstToken (s.tokens fun c g => c.issued.contains g && !c.done.contains g) = some (x, g, n) → g ≠ 16 → s.watermark < x →
    s.clv.now < x + s.rd fPGH_CFG_GUARD_US * 1000 → exec .closeTokenProcess s = .next s) ∧
  (∀ s, Runs .missingTemplateWrite s fun t => ∀ n sl, t.cell n sl =
    if (s.cell n sl).state = 2 ∧ (s.cell n sl).ready = 2 then { s.cell n sl with template := true } else s.cell n sl) ∧
  (∀ cut i s, s.img = some i → s.up ≥ s.pgh.learnDue →
    Runs (.learningMramWrite cut) s fun t => t.pgh.learnDue = s.pgh.learnDue + 60000000000 ∧ ∃ k gen,
      (match s.newestArea with | some (a, j) => gen = a.gen + 1 ∧ k = 1 - j | none => gen = 1 ∧ k = 0) ∧
      t.mram.learn = s.mram.learn.set k (some ⟨gen, learnKeys i, i.groups, s.pgh.stats,
        if cut then none else some (crc32c (learnBytes gen s.pgh.stats))⟩)) ∧
  (∀ k st n (sl : Fin 8192) s, exec (.pghSramUe (.corrected k) st n sl) s = .next (s.inc fPGH_ECC_CNT_CE k)) ∧
  (∀ st n (sl : Fin 8192) s, Runs (.pghSramUe .lost st n sl) s fun t => t.bit fPGH_FLT_FLAGS 8 = true ∧
    t.rd fPGH_ECC_CNT_UE = satAdd fPGH_ECC_CNT_UE.w (s.rd fPGH_ECC_CNT_UE) 1 ∧
    (st = false → ∀ c, s.col? n = some c → (t.cell n sl).state = 2 ∧ (t.cell n sl).rec? = none ∧ (t.cell n sl).lost = true) ∧
    (st = true →
      let i := initStat (s.groupCfg (((s.binding? sl).map fun b => b.group).getD 0))
      t.slotStat sl = { s.slotStat sl with mu := i.mu, d := i.d, q := i.q, m := i.m }))

/-! ### The sequencer -/

/-- An item's way through an instance (R191, R197 to R204, R207): an instance holds a run of every item; a READY item is queued at its place,
started from the queue's head with its operands in its bank, and retired with its lane or engine free. -/
def Obligations.ItemRows : Prop :=
  (∀ im s, s.img = some im → s.canActivate s.nextInst = true → s.swap = none → s.pair.join = none →
    (∀ i ∈ s.tmb.insts, i.tick ≠ s.nextInst) →
    Runs .instanceActivate s fun t => t.tmb.next = (s.nextRun s.nextInst).1 ∧ t.tmb.reload = false ∧
      ∃ i ∈ t.tmb.insts, i.tick = s.nextInst ∧ i.old = false ∧ i.runs.length = im.items.length) ∧
  (∀ g n j it p i s, s.pickItem g = some (n, j, it, p) → s.inst? n = some i → j < i.runs.length →
    Runs (.itemDispatch g) s fun t => t.queue p = s.queue p ++ [(n, j)] ∧
      ∃ i', t.inst? n = some i' ∧ (runOf i' j).st = .queued ∧ (runOf i' j).place = some p ∧
        ∀ k : Nat, k ≠ j → (runOf i' k).st = (runOf i k).st) ∧
  (∀ (p : Fin 38) late n j it q i s, s.runningAt p = none → s.queue p = (n, j) :: q → s.laneStalled p = false → s.inst? n = some i →
    (s.items i)[j]? = some it → j < i.runs.length →
    Runs (.itemStart p late) s fun t => t.runningAt p = some (n, j) ∧ t.queue p = q ∧ ∃ i', t.inst? n = some i' ∧
      runOf i' j = { runOf i j with st := .running, startAt := s.clv.now,
                                    bank := match (runOf i j).bank with | some b => some b | none => some (s.fetchAll i j it) } ∧
      ∀ k : Nat, k ≠ j → (runOf i' k).st = (runOf i k).st) ∧
  (∀ (p : Fin 38) x n j it i s, s.runningAt p = some (n, j) → s.inst? n = some i → (s.items i)[j]? = some it → j < i.runs.length →
    (runOf i j).data.isSome = true → s.laneStalled p = false → s.composerWaits n j = false →
    Runs (.itemRetire p x) s fun t => t.runningAt p = none ∧ (∀ i', t.inst? n = some i' → (runOf i' j).st = .retired) ∧
      ((p : Nat) < 32 → t.rd (fLANE_ITEMS_CNT_ITEMS p) = satAdd (fLANE_ITEMS_CNT_ITEMS p).w (s.rd (fLANE_ITEMS_CNT_ITEMS p)) 1)) ∧
  (∀ i j s, s.tmb.insts = [i] → i.complete = false → j < i.runs.length → (runOf i j).st = .ready → (runOf i j).cls = 3 →
    s.rd fTMB_AGE_CFG_AGE3_US ≠ 0 → s.clv.now / 1000 > s.tmb.lastUs →
    s.clv.now / 1000 * 1000 - (runOf i j).readyAt > s.rd fTMB_AGE_CFG_AGE3_US * 1000 →
    Runs .agePromotion s fun t => t.tmb.lastUs = s.clv.now / 1000 ∧
      ∃ i', t.inst? i.tick = some i' ∧ (runOf i' j).cls = 2 ∧ (runOf i' j).promoted = true)

/-- Errors in the sequencer's memories (R217): a corrected one counts; a table entry in error abandons its item and asks for a reload; a lane's and
a fetched block's error mark the run; a record in error is MISSING, and the item reads it so. -/
def Obligations.SequencerErrorRows : Prop :=
  (∀ k n (j : Fin 4096) s, exec (.tableSramUe (.corrected k) n j) s = .next (s.inc fTMB_ECC_CNT_CE k)) ∧
  (∀ k (p : Fin 32) s, exec (.laneLsUe (.corrected k) p) s = .next (s.inc (fLANE_ECC_CNT_CE p) k)) ∧
  (∀ n (j : Fin 4096) i s, s.inst? n = some i → (j : Nat) < i.runs.length → itemDone (runOf i j) = false → (runOf i j).st ≠ .running →
    Runs (.tableSramUe .lost n j) s fun t => t.tmb.reload = true ∧ t.bit fTMB_FLT_FLAGS 5 = true ∧
      ∀ i', t.inst? n = some i' → (runOf i' j).st = .abandoned) ∧
  (∀ (p : Fin 32) n j i s, s.runningAt p = some (n, j) → s.inst? n = some i →
    Runs (.laneLsUe .lost p) s fun t => t.inst? n = some (Machine.setRun i j { runOf i j with lsUe := true }) ∧
      t.bit (fLANE_FLT_FLAGS p) 0 = true) ∧
  (∀ (p : Fin 38) n j it k op (sl : Fin 8192) i s, s.runningAt p = some (n, j) → s.inst? n = some i → (s.items i)[j]? = some it → it.ops[k]? = some op →
    (∀ f c h a d x y, op = .cells f c h a d x y → f ≤ sl.val → sl.val < f + c → ∀ col, s.col? n = some col →
      Runs (.fetchUe p k sl) s fun t => (t.cell n sl).state = 2 ∧ (t.cell n sl).rec? = none ∧ t.inst? n = some (Machine.setRun i j
        { runOf i j with bank := (runOf i j).bank.map fun l => l.set k (t.fetchNow i j n false op) })) ∧
    ((∀ g, op ≠ .close g) → (∀ f c h a d x y, op ≠ .cells f c h a d x y) →
      Runs (.fetchUe p k sl) s fun t =>
        t.inst? n = some (Machine.setRun i j { runOf i j with fetchUe := (runOf i j).fetchUe ++ [k] })))

/-! ### Kernels -/

/-- The lane kernels that compute from their operands alone (R207, R209, R219): a running item of the kernel gets its result, with the STATE words
it will write and MISSING_IN, and nothing else of the run changes. -/
def Obligations.KernelRows : Prop :=
  ∀ x ∈ [(Instr.gather, 0x01, kGather), (.qualScan, 0x02, kQualScan), (.rsmpStatus, 0x03, kRsmpStatus), (.select, 0x04, kSelect),
      (.scale, 0x05, kScale), (.maskLogic, 0x06, kMaskLogic), (.countFlags, 0x07, kCountFlags), (.phToPolar, 0x08, kPhToPolar),
      (.phToRect, 0x09, kPhToRect), (.phAngdiff, 0x0A, kPhAngdiff), (.phRotate, 0x0B, kPhRotate), (.phSeq, 0x0C, kPhSeq),
      (.phPower, 0x0D, kPhPower), (.phPower3, 0x0E, kPhPower3), (.phWsum, 0x0F, kPhWsum), (.phUnbal, 0x10, kPhUnbal),
      (.freqWmean, 0x11, kFreqWmean), (.sigFir, 0x12, kSigFir), (.sigDiff, 0x13, kSigDiff), (.angUnwrap, 0x14, kAngUnwrap),
      (.angWrap, 0x15, kAngWrap), (.cmatvec, 0x16, kCmatvec), (.rmatvec, 0x17, kRmatvec), (.lsqSmall, 0x18, kLsqSmall),
      (.interpLin, 0x19, kInterpLin), (.minmax, 0x1A, kMinmax), (.ewmaVar, 0x1B, kEwmaVar), (.topk, 0x1C, kTopk), (.clamp, 0x1D, kClamp),
      (.statBlock, 0x1E, kStatBlock),
      (Instr.detLevel, 0x20, kDetLevel), (.detRate, 0x21, kDetRate), (.detAngsep, 0x22, kDetAngsep), (.detSagswell, 0x23, kDetSagswell),
      (.detFreq, 0x24, kDetFreq), (.detStep, 0x25, kDetStep), (.detDigital, 0x26, kDetDigital), (.detVote, 0x27, kDetVote),
      (.evtMerge, 0x2B, kEvtMerge), (.specPrep, 0x30, kSpecPrep), (.modePrep, 0x31, kModePrep), (.cohPrep, 0x32, kCohPrep),
      (.accPrep, 0x33, kAccPrep), (.defPrep, 0x34, kDefPrep), (.pmuHealth, 0x36, kPmuHealth), (.outDecim, 0x38, kOutDecim),
      (.outPackRaw, 0x3B, kGather), (.tickSummary, 0x3E, kTickSummary)],
    ∀ n (j : Fin 4096) i it s, s.isRunning n j 0 x.2.1 = some (i, it) → Runs (x.1 n j) s fun t => ∃ i', t.inst? n = some i' ∧
      runOf i' j = { runOf i j with
        data := some (x.2.2 (s.kin i j it n false)).data, stateOut := (x.2.2 (s.kin i j it n false)).st,
        flags := (runOf i j).flags ||| (if (x.2.2 (s.kin i j it n false)).miss then 1 else 0) }

/-- Results of R219's table: MINMAX gives a least and a greatest element and where they stand; TOPK gives the K largest in falling order; CLAMP
leaves no element outside its limits; COUNT_FLAGS counts bits.
Pickup and dropout (R264): a condition that holds on PICKUP present ticks in a row sets an idle element, and no fewer do; one that fails with its
hysteresis on DROPOUT ticks in a row clears it, and no fewer do. The sag and swell machine (R268): it has four states; a dip ends only where the value
has risen to SAG plus its hysteresis; a swell ends where the value has fallen to SWELL less its hysteresis or where a dip begins, and only that ends one
event and begins another at once; NORMAL lasts while the value stays within all thresholds. -/
def Obligations.KernelResults : Prop :=
  (∀ k, (∀ x ∈ firstN (parN k) (floatsIn k), f32Finite x = true) → 0 < parN k → ∃ lo hi a b, (kMinmax k).data = [lo, hi, a, b] ∧
    a < parN k ∧ b < parN k ∧ elemAt (floatsIn k) a = lo ∧ elemAt (floatsIn k) b = hi ∧
    ∀ x ∈ firstN (parN k) (floatsIn k), f32Lt x lo = false ∧ f32Lt hi x = false) ∧
  (∀ k, (∀ x ∈ firstN (parN k) (floatsIn k), f32Finite x = true) → parK k ≤ parN k → ∃ top : List (Nat × Nat),
    (kTopk k).data = top.map (·.1) ++ top.map (·.2) ∧ top.length = parK k ∧ (∀ x ∈ top, x.2 < parN k ∧ elemAt (floatsIn k) x.2 = x.1) ∧
    top.Pairwise (fun x y => f32Lt x.1 y.1 = false) ∧
    ∀ j < parN k, (∀ x ∈ top, x.2 ≠ j) → ∀ x ∈ top, f32Lt x.1 (elemAt (floatsIn k) j) = false) ∧
  (∀ k j, j < parN k →
    let lo := elemAt (constWords k) (2 * j)
    let hi := elemAt (constWords k) (2 * j + 1)
    let x := elemAt (floatsIn k) j
    f32IsNan x = false → f32IsNan lo = false → f32IsNan hi = false →
    (kClamp k).data[j]? = some (if f32Lt x lo then lo else if f32Lt hi x then hi else x) ∧
      (kClamp k).data[parN k + j]? = some (if f32Lt x lo then 1 else if f32Lt hi x then 2 else 0)) ∧
  (∀ k j, j < parN k → missW (elemAt (floatsIn k) j) = false →
    (kCountFlags k).data[j]? = some (((List.range 32).map fun b => elemAt (floatsIn k) j / 2 ^ b % 2).sum)) ∧
  (∀ pickup dropout n, 1 ≤ n →
    ((Nat.iterate (pickDrop true true pickup dropout) n {}).on = true ↔ n ≥ max 1 pickup) ∧
    ((Nat.iterate (pickDrop false false pickup dropout) n { on := true }).on = false ↔ n ≥ max 1 dropout)) ∧
  (∀ pu sag swell int_ hyst,
    (∀ st, (sagNext pu sag swell int_ hyst st).1 ≤ 3) ∧
    (∀ st, (sagNext pu sag swell int_ hyst st).2 = true ↔ st = 2 ∧ f32Lt pu sag = true) ∧
    (∀ st, st = 1 ∨ st = 3 → ((sagNext pu sag swell int_ hyst st).1 = 0 ↔ f32Le (f32Add sag hyst) pu = true)) ∧
    ((sagNext pu sag swell int_ hyst 2).1 = 0 ↔ f32Lt pu sag = false ∧ f32Le pu (f32Sub swell hyst) = true) ∧
    ((sagNext pu sag swell int_ hyst 0).1 = 0 ↔ f32Lt pu int_ = false ∧ f32Lt pu sag = false ∧ f32Lt swell pu = false))

/-! ### Engines -/

/-- The kernels with effects beside their data (R207, R219, R221 to R223, R233, R237, R257, R274, R297, R322, R327): a running item of the kernel
gets its result and stays running until it is retired. EVT_POST posts the code of every flag that is set, in the flags' order (which word holds a
flag, and its payload, are the model's, log entry 22). -/
def Obligations.EffectKernels : Prop :=
  (∀ x ∈ [(Instr.sdftUpdate, 1, 1), (.defUpdate, 1, 2), (.modeTrack, 2, 1), (.components, 3, 1), (.integrate, 4, 1), (.compose, 5, 1),
      (.amend, 5, 2), (.almPost, 0, 0x28), (.almPio, 0, 0x29), (.evtPost, 0, 0x2A), (.snrPrep, 0, 0x35), (.outPack2011, 0, 0x39),
      (.outPack2005, 0, 0x3A), (.outStat, 0, 0x3C), (.outAmendPack, 0, 0x3D)],
    ∀ n (j : Fin 4096) i it s, s.isRunning n j x.2.1 x.2.2 = some (i, it) →
      Runs (x.1 n j) s fun t => ∃ i', t.inst? n = some i' ∧ (runOf i' j).data.isSome = true ∧ (runOf i' j).st = .running ∧
        ∀ k : Nat, k ≠ j.val → runOf i' k = runOf i k) ∧
  (∀ n (j : Fin 4096) i it k s, s.isRunning n j 0 0x2A = some (i, it) → k = s.kin i j it n false → constLost k = false →
    exec (.evtPost n j) s = .next (putOut i j { data := [], miss := missIn k }
      (((List.range (min (parE k) 32)).filter fun x => !missW (elemAt (flagWords k) x) && (elemAt (flagWords k) x).testBit 0).foldl
        (fun s x => postAt n (blockByte (constWords k) x) (le 2 j.val ++ le 2 x) s) s)))

/-- The engines' own effects (R216, R226, R227, R233, R237, R257, R258, R262, R297): what each keeps of the instance it ran, the counts its status
registers show; a run under the image before a swap leaves alone the state that did not carry over; what an uncorrectable error in its state
resets. -/
def Obligations.EngineRows : Prop :=
  (∀ n (j : Fin 4096) i it s, s.isRunning n j 1 1 = some (i, it) → s.spec.bufs.length = 2 →
    Runs (.sdftUpdate n j) s fun t => (∃ b, t.spec.bufs[n % 2]? = some (n, b)) ∧ t.spec.trk = s.spec.trk ∧ t.spec.defs = s.spec.defs ∧
      (i.old = false ∨ s.spec.oldSdft = none → t.spec.sdftTick = some n) ∧
      (i.old = true → s.spec.oldSdft ≠ none → t.spec.sdftTick = s.spec.sdftTick ∧ t.spec.sigs = s.spec.sigs)) ∧
  (∀ n (j : Fin 4096) i it s, s.isRunning n j 1 2 = some (i, it) →
    Runs (.defUpdate n j) s fun t => t.spec.sigs = s.spec.sigs ∧ t.spec.trk = s.spec.trk ∧
      (i.old = false ∨ s.spec.oldDef = none → t.spec.defTick = some n) ∧
      (i.old = true → s.spec.oldDef ≠ none → t.spec.defTick = s.spec.defTick ∧ t.spec.defs = s.spec.defs)) ∧
  (∀ n (j : Fin 4096) i it c s, s.isRunning n j 2 1 = some (i, it) → (specCfgOf (s.instImg i)).trk = some c →
    Runs (.modeTrack n j) s fun t => t.spec.sigs = s.spec.sigs ∧ (i.old = false ∨ s.spec.oldTrk = none → t.spec.trkTick = some n ∧
        t.rd fSPEC_TRK_STS_SAMPLES = min t.spec.trk.samples 65535 ∧
        (t.rd fSPEC_TRK_STS_VALID = 1 ↔ t.spec.trk.samples ≥ trkWarm c (s.kin i j it n false).rate)) ∧
      (i.old = true → s.spec.oldTrk ≠ none → t.spec.trkTick = s.spec.trkTick ∧ t.spec.trk = s.spec.trk)) ∧
  (∀ n (j : Fin 4096) i it s, s.isRunning n j 3 1 = some (i, it) →
    Runs (.components n j) s fun t => (i.old = false ∨ s.coh.old = none → t.coh.run.islands.length ≤ 256 ∧
        t.rd fCOH_STS_ISLANDS = t.coh.run.islands.length ∧ t.coh.run.map.length = (cohCfgOf (s.instImg i)).nodes) ∧
      (i.old = true → s.coh.old ≠ none → t.coh.run = s.coh.run) ∧
      (t.rd fCOH_TOPO_CNT_TICKS = s.rd fCOH_TOPO_CNT_TICKS ∨ t.rd fCOH_TOPO_CNT_TICKS = satAdd fCOH_TOPO_CNT_TICKS.w (s.rd fCOH_TOPO_CNT_TICKS) 1)) ∧
  (∀ n (j : Fin 4096) i it top s, s.isRunning n j 4 1 = some (i, it) → s.acc.zero = [] →
    top = (match s.acc.lastReg with | some k => max k n | none => n) →
    Runs (.integrate n j) s fun t => t.acc.lastTick = some top ∧ t.acc.lastInst = s.tickInst top ∧ t.rd fACC_STS_RUNNING = 1 ∧
      (i.old = true → t.acc.cuts.length = (accCfgOf s.img).cuts.length) ∧
      (i.old = false → t.acc.cuts.length = (accCfgOf (s.instImg i)).cuts.length ∧
        ∃ i', t.inst? n = some i' ∧ (runOf i' j).data = some (t.acc.cuts.map cutEntry).flatten)) ∧
  (∀ k w index s, exec (.specStateUe (.corrected k) w index) s = .next (s.inc fSPEC_ECC_CNT_CE k)) ∧
  (∀ k s, exec (.cohSramUe (.corrected k)) s = .next (s.inc fCOH_ECC_CNT_CE k)) ∧
  (∀ w index s, Runs (.specStateUe .lost w index) s fun t => t.rd fSPEC_ECC_CNT_UE = satAdd fSPEC_ECC_CNT_UE.w (s.rd fSPEC_ECC_CNT_UE) 1 ∧
    t.bit fSPEC_FLT_FLAGS 1 = true ∧ (w = 0 → t.spec = { s.spec with sigs := s.spec.sigs.set index (sigInit (specCfgOf s.img)) }) ∧
    (w = 1 → ∀ c, (specCfgOf s.img).trk = some c → t.spec.trk.samples = 0 ∧ t.spec.trk.modes = [] ∧ t.bit fSPEC_FLT_FLAGS 2 = true) ∧
    (w = 2 → t.spec = { s.spec with defs := s.spec.defs.set index {} })) ∧
  (∀ s, Runs (.cohSramUe .lost) s fun t => t.coh = { s.coh with run := { branches := branchInit (cohCfgOf s.img) } } ∧
    t.rd fCOH_ECC_CNT_UE = satAdd fCOH_ECC_CNT_UE.w (s.rd fCOH_ECC_CNT_UE) 1 ∧ t.bit fCOH_FLT_FLAGS 6 = true)

/-- Kernels that feed Snare and the outputs, and NOP (R219, R317, R320 to R323, R327, R329, R342, R489): the row of a definition; a block packed
in its stream's format; STAT words; the raw block of a tick; an amendment; a channel's NOP that answers with its arguments. -/
def Obligations.PackRows : Prop :=
  (∀ n (j : Fin 4096) i it k im c s, s.isRunning n j 0 0x35 = some (i, it) → snrPrepIndex (s.items i) j = some k → s.instImg i = some im →
    im.snare[k]? = some c →
    Runs (.snrPrep n j) s fun t => t.snr.prep = s.snr.prep ++ [(k, s.snrRow i j it c)] ∧ t.snr.defs = s.snr.defs ∧
      ∃ i', t.inst? n = some i' ∧ (runOf i' j).data = some (wordsOf (rowBytes (s.snrRow i j it c)))) ∧
  (∀ x ∈ [(Instr.outPack2011, 0x39), (.outPack2005, 0x3A)], ∀ n (j : Fin 4096) i it im o b s, s.isRunning n j 0 x.2 = some (i, it) →
    s.instImg i = some im → im.outs[parE (s.kin i j it n false)]? = some o → o.blocks[parA (s.kin i j it n false)]? = some b →
    s.reportOf o n = n →
    Runs (x.1 n j) s fun t => ∃ i', t.inst? n = some i' ∧ (runOf i' j).data = some (wordsOf (packBlock o.dfmt b
      (match b.slot with
        | some sl => (slotVals sl (s.kin i j it n false).ops).getD missVals
        | none => wordVals b (blockWords (s.kin i j it n false).ops))).1)) ∧
  (∀ n (j : Fin 4096) i it im o s, s.isRunning n j 0 0x3C = some (i, it) → s.instImg i = some im →
    im.outs[parE (s.kin i j it n false)]? = some o → s.reportOf o n = n →
    Runs (.outStat n j) s fun t => ∃ i', t.inst? n = some i' ∧ (runOf i' j).data = some ((o.blocks.zipIdx.take (parN (s.kin i j it n false))).map
      fun b => s.statWord (o.format = 1) false (s.cfgPending (parE (s.kin i j it n false)))
        ((b.1.slot.bind fun sl => slotQual sl (s.kin i j it n false).ops).getD
          (s.blockQual i (parE (s.kin i j it n false)) b.2 b.1 false n)))) ∧
  (∀ n (j : Fin 4096) i it im o late mask a s, s.isRunning n j 0 0x3D = some (i, it) → i.amend[it.p2 / 65536]? = some (late, mask, a) →
    s.instImg i = some im → im.outs[it.p2 % 65536]? = some o → mask.testBit (it.p2 % 65536) = true → s.isReport o late = true →
    Runs (.outAmendPack n j) s fun t => ∃ i' b, t.inst? n = some i' ∧
      b = (s.amendBytes i (it.p2 % 65536) late o (s.kin i j it late true)).1 ∧ (runOf i' j).data = some (b.length :: wordsOf b)) ∧
  (∀ n (j : Fin 4096) i it p ps x im o s, s.isRunning n j 5 1 = some (i, it) →
    ((producers it).filter fun p => match (s.items i)[p]? with | some x => x.kernel ≠ 0x3C | none => false) = p :: ps →
    (s.items i)[p]? = some x → s.instImg i = some im → im.outs[x.p2 % 65536]? = some o → s.isReport o (s.reportOf o n) = true →
    (o.format = 2 → Runs (.compose n j) s fun t => ∃ b, t.egr.blocks = s.egr.blocks ++ [b] ∧ b.stream = x.p2 % 65536 ∧
      b.tick = s.reportOf o n) ∧
    (o.format ≠ 2 → Runs (.compose n j) s fun t => t.egr.blocks = s.egr.blocks ∧
      (t.outSt (x.p2 % 65536)).cmds = (s.outSt (x.p2 % 65536)).cmds.filter fun c => !s.cmdDue n c)) ∧
  (∀ n (j : Fin 4096) i it p x im o late mask a b s, s.isRunning n j 5 2 = some (i, it) → producers it = [p] → (s.items i)[p]? = some x →
    i.amend[x.p2 / 65536]? = some (late, mask, a) → s.instImg i = some im → im.outs[x.p2 % 65536]? = some o → o.format = 2 →
    o.rawAmend = true → packBytes i p = some b → b.length ≥ 4 →
    Runs (.amend n j) s fun t => ∃ y, t.egr.blocks = s.egr.blocks ++ [y] ∧ y.stream = x.p2 % 65536 ∧ y.tick = late ∧ y.flags = 128) ∧
  (∀ n (j : Fin 4096) i it s, s.isRunning n j 0 0x3F = some (i, it) → ∀ args,
    Runs (.nop n j none args) s fun t => ∃ i', t.inst? n = some i' ∧ (runOf i' j).data = some []) ∧
  (∀ n j c args r s, s.cmd? (.chan c) = some r → r.opcode = 0x0001 → r.done = none → s.mbx.wait.contains (.chan c) = false →
    Runs (.nop n j (some (.chan c)) args) s fun t => t.cmd? (.chan c) = some { r with done := some (stOk, r.args) } ∧ t.out = s.out)

/-! ### Alarms -/

/-- The states of an alarm (R271, R272, R276): a run raises it, clears it or latches it by its condition; an acknowledgement ends a latched one; a
missing condition changes nothing; an inhibited alarm makes no entry; an inhibit clears one that is raised, and a release raises it.
Alarms (R271 to R281, R415): an item's alarm takes its next state and makes its entry; a contact takes the level of its alarms; a class's entries
are sent once its items are done; a heartbeat in its second; a GOOSE retransmission; acknowledgement and inhibition, which without a partner act at
once, with one at an instance named to both, and on a module without authority not at all; the maxima and minima cleared. -/
def Obligations.AlarmRows : Prop :=
  (∀ latch (a : AlarmSt),
    (a.inhibited = false → a.inhReq = false → a.ackPending = false →
      (a.st = 0 → (almRun latch a (some true)).1.st = 1 ∧ (almRun latch a (some true)).2.1 = some entRaise ∧
        (almRun latch a (some false)).1.st = 0 ∧ (almRun latch a (some false)).2.1 = none) ∧
      (a.st = 1 → (almRun latch a (some true)).1.st = 1 ∧ (almRun latch a (some true)).2.1 = none ∧
        (latch = false ∨ a.acked = true → (almRun latch a (some false)).1.st = 0 ∧ (almRun latch a (some false)).2.1 = some entClear) ∧
        (latch = true → a.acked = false → (almRun latch a (some false)).1.st = 2 ∧ (almRun latch a (some false)).2.1 = some entLatched)) ∧
      (a.st = 2 → (almRun latch a (some true)).1.st = 1 ∧ (almRun latch a (some true)).2.1 = none ∧
        (almRun latch a (some false)).1.st = 2 ∧ (almRun latch a (some false)).2.1 = none)) ∧
    (a.inhibited = false → a.inhReq = false → a.ackPending = true →
      (a.st = 2 → (almRun latch a (some false)).1.st = 0 ∧ (almRun latch a (some false)).2.1 = some entAcked) ∧
      (a.st = 1 → (almRun latch a (some true)).1.acked = true ∧ (almRun latch a (some true)).1.st = 1)) ∧
    (a.ackPending = false → (almRun latch a none).1.st = a.st ∧ (almRun latch a none).1.missing = true ∧
      (a.inhReq = a.inhibited → (almRun latch a none).2.1 = none)) ∧
    (a.inhibited = true → a.inhReq = true → ∀ c, (almRun latch a c).2.1 = none) ∧
    (a.inhibited = false → a.inhReq = true → a.st ≠ 0 → ∀ c, (almRun latch a c).2.1 = some entClear) ∧
    (a.inhibited = true → a.inhReq = false → a.st ≠ 0 → (almRun latch a (some true)).2.1 = some entRaise)) ∧
  (∀ n (j : Fin 4096) i it k c s, s.isRunning n j 0 0x28 = some (i, it) → almIds (s.kin i j it n false) = [k] →
    (almCfgOf (s.instImg i)).alarms[k]? = some c → s.pair.mirrors = [] →
    Runs (.almPost n j) s fun t => ∀ r, r = almRun c.latch (s.almSt k) (almSource i it ((runOf i j).fetchUe.contains c.op) c).cond →
      (t.almSt k).st = r.1.st ∧ (t.almSt k).inhibited = (s.almSt k).inhReq ∧
      ∃ b ∈ t.alm.batches, b.cls = it.cls ∧ b.tick = n ∧ ∀ e, r.2.1 = some e → ∃ x ∈ b.entries, x.id = k ∧ x.st = e) ∧
  (∀ n (j : Fin 4096) i it pin low as s, s.isRunning n j 0 0x29 = some (i, it) → constLost (s.kin i j it n false) = false →
    pioRecords (constWords (s.kin i j it n false)) = [(pin, low, as)] → pin < 16 → s.pio.length = 16 → s.authority = true →
    Runs (.almPio n j) s fun t =>
      (s.shedding = false → t.pio.getD pin none = some ((as.any fun a => (s.almSt a).st ≠ 0 && !(s.almSt a).inhibited) != low)) ∧
      (s.shedding = true → t.pio = s.pio)) ∧
  (∀ (cls : Fin 4) n b s, s.alm.batches.find? (fun b => b.cls = cls.val && b.tick = n) = some b → s.almDone n cls = true →
    Runs (.alarmFrameSend cls n) s fun t => b ∉ t.alm.batches ∧ t.alm.alarms = s.alm.alarms ∧
      (cls = 0 → t.alm.g0 = some (n, s.closeOf n))) ∧
  (∀ (d : Fin 8) n c s, (almCfgOf s.img).dests[d.val]? = some c → c.hbS ≠ 0 → s.ticking = true → n % s.rate = 0 → n / s.rate % c.hbS = 0 →
    s.tickInst n ≤ s.clv.now → smGet 0 s.alm.hb d ≤ n / s.rate →
    Runs (.alarmHeartbeat d n) s fun t => smGet 0 t.alm.hb d = n / s.rate + 1 ∧ t.alm.alarms = s.alm.alarms) ∧
  (∀ (k : Fin 16) c d s, (almCfgOf s.img).goose[k.val]? = some c → (s.gooseSt k).due = some d → d ≤ s.up → s.authority = true →
    Runs (.gooseRetransmit k) s fun t => (t.gooseSt k).sq = wrapTo1 (s.gooseSt k).sq ∧ (t.gooseSt k).st = (s.gooseSt k).st ∧
      (t.gooseSt k).ival = min (2 * (s.gooseSt k).ival) c.t0 ∧ (t.gooseSt k).due = some (d + min (2 * (s.gooseSt k).ival) c.t0 * 1000000) ∧
      t.rd (fALM_GO_SQ_SQNUM k) = wrapTo1 (s.gooseSt k).sq % 2 ^ 32) ∧
  (∀ (k : Fin 2048) s, s.paired = false → Runs (.almAck false k) s fun t =>
    ((s.almSt k).st ≠ 0 → t.almSt k = { s.almSt k with ackPending := true }) ∧ ∀ x, x ≠ k.val → t.almSt x = s.almSt x) ∧
  (∀ (k : Fin 2048) s, s.paired = false → Runs (.almAck true k) s fun t =>
    ∀ x < almCount s, (s.almSt x).st ≠ 0 → t.almSt x = { s.almSt x with ackPending := true }) ∧
  (∀ bits s, s.paired = false → Runs (.almInh bits) s fun t =>
    ∀ b < 32, 32 * s.rd fALM_INH_SEL_WORD + b < almCount s →
      t.almSt (32 * s.rd fALM_INH_SEL_WORD + b) = { s.almSt (32 * s.rd fALM_INH_SEL_WORD + b) with inhReq := bits.testBit b }) ∧
  (∀ bits s, s.paired = true → s.authority = true → Runs (.almInh bits) s fun t => t.alm.alarms = s.alm.alarms ∧
    smGet 0 t.alm.inh (s.rd fALM_INH_SEL_WORD) = bits % 2 ^ 32 ∧
    t.pair.mirrors = s.pair.mirrors ++ [(mirInh, s.mirrorTick, s.rd fALM_INH_SEL_WORD * 2 ^ 32 + bits % 2 ^ 32)]) ∧
  (∀ all (k : Fin 2048) s, s.paired = true → s.authority = true → Runs (.almAck all k) s fun t => t.alm = s.alm ∧
    t.pair.mirrors = s.pair.mirrors ++ [(mirAck, s.mirrorTick, k.val + (if all then 2 ^ 31 else 0))]) ∧
  (∀ all k bits s, s.paired = true → s.authority = false →
    (Runs (.almAck all k) s fun t => t.alm = s.alm ∧ t.bit fPAIR_FLT_FLAGS 11 = true) ∧
    (Runs (.almInh bits) s fun t => t.alm = s.alm ∧ t.bit fPAIR_FLT_FLAGS 11 = true)) ∧
  (∀ s, exec .maxClr s = .next ((s.wr fALM_G0_STS_TX_MAX 0).wr fALM_G0_PIO_STS_PIO_MAX 0)) ∧
  (∀ s, exec .minClr s = .next ((s.wr fTMB_SLACK_MIN_STS_MIN_NS 0x7FFFFFFF).wr fTMB_G0_STS_G0_MAX 0))

/-! ### Accounting and pulses -/

/-- The accounting commands (R301, R302, R306, R308, R421): a commit ends complete or failed, and a periodic one is told to the partner on both
lanes; a corrected error counts, and a cut set in error is reloaded from the newest complete slot, the time since unaccounted; a pulse starts where
one is due, the output is owned and authority is held, and ends when its width has elapsed. -/
def Obligations.AccountRows : Prop :=
  (∀ k sl s, s.acc.write = some (k, sl) → k < 8 → sl.kind < 8 →
    (Runs (.accCommit false) s fun t => t.acc = { s.acc with write := none, tried := none } ∧
      t.mram.acc = { s.mram.acc with slots := s.mram.acc.slots.set k (some sl) } ∧ t.rd fACC_COMMIT_STS_SLOT = k ∧
      t.rd fACC_COMMIT_STS_KIND = sl.kind ∧ t.rd fACC_COMMIT_CNT_COMMITS = satAdd 32 (s.rd fACC_COMMIT_CNT_COMMITS) 1 ∧
      t.out = (if sl.kind = 1 ∧ s.paired = true then
        (s.pairSend pmAccSum (be 8 sl.tick ++ (sl.cuts.map fun c => be 12 (ofSigned 96 c.anet)).flatten)).out else s.out)) ∧
    (Runs (.accCommit true) s fun t => t.acc = { s.acc with write := none, tried := some k } ∧
      t.mram.acc = { s.mram.acc with slots := s.mram.acc.slots.set k (some { sl with complete := false }) } ∧
      t.rd fACC_COMMITF_CNT_COMMITS = satAdd fACC_COMMITF_CNT_COMMITS.w (s.rd fACC_COMMITF_CNT_COMMITS) 1 ∧
      t.bit fACC_FLT_FLAGS 3 = true ∧ t.out = s.out)) ∧
  (∀ k (c : Fin 512) s, exec (.accSramUe (.corrected k) c) s = .next (s.inc fACC_ECC_CNT_CE k)) ∧
  (∀ (c : Fin 512) s, (c : Nat) < s.acc.cuts.length →
    Runs (.accSramUe .lost c) s fun t => t.bit fACC_FLT_FLAGS 7 = true ∧
      t.rd fACC_ECC_CNT_UE = satAdd fACC_ECC_CNT_UE.w (s.rd fACC_ECC_CNT_UE) 1 ∧ t.mram.acc = s.mram.acc ∧
      (∀ x, x ≠ c.val → t.cutSt x = s.cutSt x) ∧ (t.cutSt c).fresh = false ∧
      (newestSlot s.mram.acc = none → (t.cutSt c).aimp = 0 ∧ (t.cutSt c).aexp = 0 ∧ (t.cutSt c).rimp = 0 ∧ (t.cutSt c).rexp = 0 ∧
        (t.cutSt c).anet = 0) ∧
      (∀ k sl, newestSlot s.mram.acc = some (k, sl) → sl.zero = none →
        (t.cutSt c).aimp = (sl.cuts.getD c {}).aimp ∧ (t.cutSt c).aexp = (sl.cuts.getD c {}).aexp ∧
        (t.cutSt c).rimp = (sl.cuts.getD c {}).rimp ∧ (t.cutSt c).rexp = (sl.cuts.getD c {}).rexp ∧
        (t.cutSt c).anet = (sl.cuts.getD c {}).anet ∧
        (t.cutSt c).unacc = (sl.cuts.getD c {}).unacc + (s.acc.lastInst - sl.inst))) ∧
  (∀ (k : Fin 8) c s, (accCfgOf s.img).pulses[k.val]? = some c → (k : Nat) < s.acc.pulses.length → s.authority = true →
    s.rd (fACC_PLS_CFG_OWNED k) = 1 → (s.pulseSt k).due > 0 → (s.pulseSt k).pulseEnd = none → s.clv.now ≥ (s.pulseSt k).gapEnd →
    Runs (.pulseStart k) s fun t => t.out = s.out ++ (if s.shedding then [] else [.pin "PIO" c.pin (some (!c.low))]) ∧
      (t.pulseSt k).due = (s.pulseSt k).due - 1 ∧
      (∃ w, w = pulseWidth (s.pulseSt k).due (s.rd (fACC_PLS_CFG_W_SET_MS k)) (s.rd (fACC_PLS_CFG_W_MIN_MS k)) c.weight (s.pulseSt k).rises.sum ∧
        (t.pulseSt k).pulseEnd = some (s.clv.now + w) ∧ (t.pulseSt k).gapEnd = s.clv.now + 2 * w) ∧
      t.rd (fACC_PLS_STS_LEVEL k) = 1 ∧ t.rd (fACC_PLS_STS_PULSES k) = (s.rd (fACC_PLS_STS_PULSES k) + 1) % 65536) ∧
  (∀ (k : Fin 8) c e s, (accCfgOf s.img).pulses[k.val]? = some c → (k : Nat) < s.acc.pulses.length → (s.pulseSt k).pulseEnd = some e →
    s.clv.now ≥ e →
    Runs (.pulseEnd k) s fun t => t.out = s.out ++ (if s.shedding then [] else [.pin "PIO" c.pin (some c.low)]) ∧
      (t.pulseSt k).pulseEnd = none ∧ (t.pulseSt k).due = (s.pulseSt k).due ∧ t.rd (fACC_PLS_STS_LEVEL k) = 0)

/-! ### Output commands and rings -/

/-- C37.118 commands (R325, R326, R408): TURN_OFF and TURN_ON take note of the destinations from which they come, to take effect after 2 ms, on a
pair at one instance that the partner is told; the others answer with the header or the configuration frame, over TCP or through the STEWARD queue;
one that fails its checks is counted and does nothing; a pair-wide one that reaches the module without authority is forwarded. -/
def Obligations.CommandRows : Prop :=
  (∀ x ∈ [(Instr.cmdTurnOff, false), (.cmdTurnOn, true)], ∀ c im o st s, s.img = some im →
    im.outs.zipIdx.find? (fun y => y.1.idcode = c.idcode && y.1.format ≠ 2) = some (o, st) → c.chkOk = true →
    o.cmdSrc = [] ∨ c.src ∈ o.cmdSrc → (c.pairWide = true → s.authority = true) →
    Runs (x.1 c) s fun t => (t.outSt st).on = (s.outSt st).on ∧ t.rd fEGR_CMD_CNT_OK = satAdd 16 (s.rd fEGR_CMD_CNT_OK) 1 ∧
      (s.paired = false → (t.outSt st).cmds = (s.outSt st).cmds ++ [(s.up, none, cmdMask o c.src, x.2)] ∧ t.out = s.out) ∧
      (s.paired = true → s.authority = true →
        (t.outSt st).cmds = (s.outSt st).cmds ++ [(s.up, some s.mirrorRun, cmdMask o c.src, x.2)] ∧
        t.out = (s.sendMirror mirDest s.mirrorRun ((st * 16 + cmdMask o c.src) * 2 + (if x.2 then 1 else 0))).out)) ∧
  (∀ x ∈ [(Instr.cmdSendHeader, 4, 1, fun (o : OutStream) => o.hdrText), (.cmdSendCfg1, 1, 2, cfg2Body), (.cmdSendCfg2, 2, 3, cfg2Body)],
    ∀ c im o st s, s.img = some im → im.outs.zipIdx.find? (fun y => y.1.idcode = c.idcode && y.1.format ≠ 2) = some (o, st) → c.chkOk = true →
    o.cmdSrc = [] ∨ c.src ∈ o.cmdSrc → (c.pairWide = true → s.authority = true) → c.tcp = none → (∀ d ∈ o.dests, d.addr ≠ c.src) →
    ∀ u seq, seq = s.prpSeq s.curTick 0 x.2.1 →
      u = { srcMac := s.streamMac st, dstMac := c.srcMac, tag := none, dscp := 34, src := s.pairAddr c.port c.src, dst := c.src,
            sport := o.cmdPort, dport := c.sport } →
    exec (x.1 c) s = .next (egrOffer c.port qSteward
      { frame := { bytes := udpFrame u seq (c37Frame x.2.2.1 o (s.socFrac o.timeBase s.clv.now).1 (s.socFrac o.timeBase s.clv.now).2 (x.2.2.2 o)),
                   sender := .steward, queued := s.up } } ((s.inc fEGR_CMD_CNT_OK).inc fEGR_CFGTX_CNT_FRAMES))) ∧
  (∀ x ∈ [(Instr.cmdSendHeader, 1, fun (o : OutStream) => o.hdrText), (.cmdSendCfg1, 2, cfg2Body), (.cmdSendCfg2, 3, cfg2Body)], ∀ c tcp im o st s,
    s.img = some im → im.outs.zipIdx.find? (fun y => y.1.idcode = c.idcode && y.1.format ≠ 2) = some (o, st) → c.chkOk = true →
    o.cmdSrc = [] ∨ c.src ∈ o.cmdSrc → (c.pairWide = true → s.authority = true) → c.tcp = some tcp →
    Runs (x.1 c) s fun t => t.out = s.out ++ [.ctl "TCP command reply" tcp
        ((c37Frame x.2.1 o (s.socFrac o.timeBase s.clv.now).1 (s.socFrac o.timeBase s.clv.now).2 (x.2.2 o)).map BitVec.toNat)] ∧
      t.rd fEGR_CMD_CNT_OK = satAdd 16 (s.rd fEGR_CMD_CNT_OK) 1 ∧
      t.rd fEGR_CFGTX_CNT_FRAMES = satAdd fEGR_CFGTX_CNT_FRAMES.w (s.rd fEGR_CFGTX_CNT_FRAMES) 1) ∧
  (∀ c tcp im o st s, s.img = some im → (∀ y ∈ im.outs, y.idcode = c.idcode → y.format ≠ 1) →
    im.outs.zipIdx.find? (fun y => y.1.idcode = c.idcode && y.1.format ≠ 2) = some (o, st) → c.chkOk = true →
    o.cmdSrc = [] ∨ c.src ∈ o.cmdSrc → (c.pairWide = true → s.authority = true) → c.tcp = some tcp →
    Runs (.cmdSendCfg3 c) s fun t => t.out = s.out ++ [.ctl "TCP command reply" tcp
        ((c37Frame 5 o (s.socFrac o.timeBase s.clv.now).1 (s.socFrac o.timeBase s.clv.now).2 (cfg3Body o s.rate)).map BitVec.toNat)] ∧
      t.rd fEGR_CMD_CNT_OK = satAdd 16 (s.rd fEGR_CMD_CNT_OK) 1) ∧
  (∀ x ∈ [Instr.cmdTurnOff, .cmdTurnOn, .cmdSendHeader, .cmdSendCfg1, .cmdSendCfg2, .cmdSendCfg3], ∀ c s, s.img = none →
    Runs (x c) s fun t => t.rd fEGR_CMD_CNT_BAD = satAdd 16 (s.rd fEGR_CMD_CNT_BAD) 1 ∧ t.bit fEGR_FLT_FLAGS 8 = true ∧ t.egr = s.egr ∧
      t.out = s.out) ∧
  (∀ x ∈ [(Instr.cmdTurnOff, 1), (.cmdTurnOn, 2), (.cmdSendHeader, 3), (.cmdSendCfg1, 4), (.cmdSendCfg2, 5)], ∀ c im o st s, s.img = some im →
    im.outs.zipIdx.find? (fun y => y.1.idcode = c.idcode && y.1.format ≠ 2) = some (o, st) →
    (c.chkOk = false → Runs (x.1 c) s fun t => t.rd fEGR_CMD_CNT_BAD = satAdd 16 (s.rd fEGR_CMD_CNT_BAD) 1 ∧ t.egr = s.egr ∧ t.out = s.out) ∧
    (c.chkOk = true → o.cmdSrc = [] → c.pairWide = true → s.authority = false →
      exec (x.1 c) s = .next (s.sendForward 0 (be 2 x.2 ++ be 16 c.src ++ be 2 c.sport ++ be 6 c.srcMac ++ be 2 c.idcode))))

/-- Waits and host rings (R324, R335, R336, R338): a copy that waited for its queue is queued or dropped; a block or a received frame is placed in its
running ring where its buffers fit and dropped where they do not; a descriptor written to a transmit ring reaches the HOST queue; a DMA fault
stops its ring; what waits for a ring that is disabled is discarded. -/
def Obligations.RingRows : Prop :=
  (∀ w s, s.egr.waits.find? (fun w => !s.egrFull w.port w.queue || w.since + s.rd fEGR_BP_CFG_BP_US * 1000 ≤ s.up) = some w → w.rest = [] →
    (s.egrFull w.port w.queue = true → Runs .composerBpWaitEnd s fun t => t.egr.waits = s.egr.waits.erase w ∧
      (t.outSt w.stream).drops = (s.outSt w.stream).drops + 1 ∧ t.bit fEGR_FLT_FLAGS 2 = true ∧ t.ports = s.ports) ∧
    (s.egrFull w.port w.queue = false → w.queue ≠ qAmend → Runs .composerBpWaitEnd s fun t => t.egr.waits = s.egr.waits.erase w ∧
      t.rd fEGR_FRAME_CNT_FRAMES = satAdd fEGR_FRAME_CNT_FRAMES.w (s.rd fEGR_FRAME_CNT_FRAMES) 1)) ∧
  (∀ (k : Fin 64) b addrs s, s.egr.blocks.find? (fun b => b.stream = k.val) = some b →
    (s.ringRun k = false → Runs (.rawBlockWrite k addrs) s fun t => t.egr.blocks = s.egr.blocks.erase b ∧
      (t.outSt k).drops = (s.outSt k).drops + 1 ∧ t.bit fEGR_FLT_FLAGS 9 = true) ∧
    (s.ringRun k = true → bufCount b.bytes ≤ ringFree k s → addrs.length = bufCount b.bytes →
      Runs (.rawBlockWrite k addrs) s fun t => t.egr.blocks = s.egr.blocks.erase b ∧
        (t.outSt k).frames = ((s.outSt k).frames + 1) % 2 ^ 32 ∧ (k : Nat) ∉ t.egr.lost ∧
        t.rd (fEGR_RING_PROD_PROD k) = (ringProd k s + bufCount b.bytes) % (2 * ringSize k s) % 2 ^ (fEGR_RING_PROD_PROD k).w) ∧
    (s.ringRun k = true → bufCount b.bytes > ringFree k s → addrs.length = ringFree k s →
      Runs (.rawBlockWrite k addrs) s fun t => t.egr.blocks = s.egr.blocks.erase b ∧ (t.outSt k).drops = (s.outSt k).drops + 1 ∧
        (k : Nat) ∈ t.egr.lost ∧ t.bit fEGR_FLT_FLAGS 7 = true ∧ t.rd (fEGR_RING_PROD_PROD k) = s.rd (fEGR_RING_PROD_PROD k))) ∧
  (∀ (n : Fin 64) prod d s, s.ringRun (128 + n.val) = true → smGet [] s.egr.hostPart (128 + n.val) = [] → (leAt d.1 0xA 2).testBit 2 = true →
    (ringProd (128 + n.val) (s.wr (fEGR_RING_PROD_PROD (128 + n.val)) prod) + 2 * ringSize (128 + n.val) s - smGet 0 s.egr.hostRead (128 + n.val)) %
      (2 * ringSize (128 + n.val) s) = 1 → s.egrFull n qHost = false →
    Runs (.hostTxProdWrite n prod [d]) s fun t => ∃ f, t.egrQ n qHost = s.egrQ n qHost ++ [f] ∧
      f.frame.bytes = padFrame (d.2.take (leAt d.1 8 2)) ∧ f.frame.queued = s.up) ∧
  (∀ (k : Fin 64) s, (ringEnable k false s).egr.blocks = s.egr.blocks.filter (fun b => b.stream ≠ k.val) ∧
    (ringEnable (64 + k.val) false s).egr.blocks = s.egr.blocks ∧
    (s.ports.length = 64 → ((ringEnable (64 + k.val) false s).port k).host = [])) ∧
  (∀ (r : Fin 192) s, s.ringRun r = true →
    exec (.ringDmaFault r) s = .next ((s.wr (fEGR_RING_STS_FAULT r) 1).wr (fEGR_RING_STS_RUN r) 0)) ∧
  (∀ (n : Fin 64) bytes ns32 tr lan rest addrs s, (s.port n).host = (bytes, ns32, tr, lan) :: rest → s.ports.length = 64 →
    (s.ringRun (64 + n.val) = false → Runs (.hostRxRingPlace n addrs) s fun t => (t.port n).host = rest ∧
      t.rd (fPORT_RUNOUT_CNT_FRAMES n) = satAdd (fPORT_RUNOUT_CNT_FRAMES n).w (s.rd (fPORT_RUNOUT_CNT_FRAMES n)) 1) ∧
    (s.ringRun (64 + n.val) = true → bufCount bytes ≤ ringFree (64 + n.val) s → addrs.length = bufCount bytes →
      Runs (.hostRxRingPlace n addrs) s fun t => (t.port n).host = rest ∧
        t.rd (fEGR_RING_PROD_PROD (64 + n.val)) = (ringProd (64 + n.val) s + bufCount bytes) % (2 * ringSize (64 + n.val) s) %
          2 ^ (fEGR_RING_PROD_PROD (64 + n.val)).w) ∧
    (s.ringRun (64 + n.val) = true → bufCount bytes > ringFree (64 + n.val) s → addrs.length = ringFree (64 + n.val) s →
      Runs (.hostRxRingPlace n addrs) s fun t => (t.port n).host = rest ∧ t.bit (fPORT_FLT_FLAGS n) 6 = true))

/-! ### Snare -/

/-- Snare (R42, R342, R345, R347 to R350, R355): ARM, DISARM and RELEASE move a definition between its states; host, pin and AUTO triggers start a
capture of an ARMED definition at the later of the trigger's tick and its first tick after arming; a pulse shorter than the pin's filter is no
trigger; a row from the queue enters the ring, which keeps PRE rows while ARMED; a complete capture goes to the NAND store and its definition is
armed again. -/
def Obligations.SnareRows : Prop :=
  (∀ (k : Fin 4) c s, s.snrCfg? k = some c → s.rd (fSNR_DEF_STS_STATE k) = snrIdle → s.snr.defs.length = 4 →
    Runs (.snareArm k) s fun t => t.rd (fSNR_DEF_STS_STATE k) = snrArmed ∧
      t.snrDef k = { armTick := tickFrom (s.rateAt s.clv.now) s.clv.now,
                     autoDue := if s.on (fSNR_DEF_CFG_AUTO_EN k) then some (s.up + s.rd (fSNR_DEF_CFG_AUTO_S k) * 1000000000) else none } ∧
      ∀ e ∈ t.snr.queue, e.1 ≠ k.val) ∧
  (∀ (k : Fin 4) c s, s.snrCfg? k = some c → s.rd (fSNR_DEF_STS_STATE k) ≠ snrIdle → exec (.snareArm k) s = .next s) ∧
  (∀ (k : Fin 4) c s, s.snrCfg? k = some c → s.snr.defs.length = 4 →
    (s.rd (fSNR_DEF_STS_STATE k) = snrArmed →
      Runs (.snareDisarm k) s fun t => t.rd (fSNR_DEF_STS_STATE k) = snrIdle ∧ t.snrDef k = {}) ∧
    (s.rd (fSNR_DEF_STS_STATE k) = snrTriggered →
      Runs (.snareDisarm k) s fun t => t.rd (fSNR_DEF_STS_STATE k) = snrComplete ∧ t.rd (fSNR_DEF_STS_TRUNCATED k) = 1 ∧
        (t.snrDef k).rows = (s.snrDef k).rows ∧ (t.snrDef k).last ≥ (s.snrDef k).t0)) ∧
  (∀ (k : Fin 4) c s, s.snrCfg? k = some c → s.snr.defs.length = 4 → s.rd (fSNR_DEF_STS_STATE k) = snrComplete →
    (s.on (fSNR_DEF_STS_EXPORTING k) = false →
      Runs (.snareRelease k) s fun t => t.rd (fSNR_DEF_STS_STATE k) = snrIdle ∧ t.snrDef k = {}) ∧
    (s.on (fSNR_DEF_STS_EXPORTING k) = true → exec (.snareRelease k) s = .next s)) ∧
  (∀ (k : Fin 4) c s, s.snrCfg? k = some c → SnrTerm.host ∈ c.terms → s.snr.defs.length = 4 →
    (s.rd (fSNR_DEF_STS_STATE k) = snrArmed →
      Runs (.snareHostTrig k) s fun t => t.rd (fSNR_DEF_STS_STATE k) = snrTriggered ∧ t.rd (fSNR_DEF_STS_CAUSE k) = causeHost ∧
        (t.snrDef k).t0 = max s.curTick (s.snrDef k).armTick ∧ (t.snrDef k).last = max s.curTick (s.snrDef k).armTick + c.post - 1 ∧
        ∀ r ∈ (t.snrDef k).rows, r ∈ (s.snrDef k).rows ∧ max s.curTick (s.snrDef k).armTick ≤ r.tick + c.pre) ∧
    (s.rd (fSNR_DEF_STS_STATE k) = snrIdle ∨ s.rd (fSNR_DEF_STS_STATE k) = snrComplete →
      Runs (.snareHostTrig k) s fun t => t.rd (fSNR_DEF_STS_STATE k) = s.rd (fSNR_DEF_STS_STATE k) ∧ t.snr = s.snr ∧
        t.bit fSNR_FLT_FLAGS 3 = true)) ∧
  (∀ (pin : Fin 16) raw hold rise (k : Fin 4) c e stamp s, s.on (fSNR_PIO_CFG_OWNED pin) = true → s.snr.levels.getD pin none ≠ some rise →
    passesFilter (s.rd (fSNR_PIO_CFG_GLITCH pin)) hold = true → stamp = atContact (s.rd (fSNR_PIO_CFG_GLITCH pin)) raw → s.snrCfg? k = some c →
    SnrTerm.pio pin e ∈ c.terms → edgeSelected e rise = true → s.rd (fSNR_DEF_STS_STATE k) = snrArmed → s.snr.defs.length = 4 →
    Runs (.snarePioEdge pin raw hold rise) s fun t => t.rd (fSNR_DEF_STS_STATE k) = snrTriggered ∧
      t.rd (fSNR_DEF_STS_CAUSE k) = causePio ∧ (t.snrDef k).t0 = max (tickAt (s.rateAt stamp) stamp) (s.snrDef k).armTick) ∧
  (∀ (pin : Fin 16) raw hold rise s, s.on (fSNR_PIO_CFG_OWNED pin) = true → s.snr.levels.getD pin none ≠ some rise →
    passesFilter (s.rd (fSNR_PIO_CFG_GLITCH pin)) hold = false →
    exec (.snarePioEdge pin raw hold rise) s = .next { s with snr := { s.snr with levels := s.snr.levels.set pin (some !rise) } }) ∧
  (∀ (k : Fin 4) c d s, s.snrCfg? k = some c → (s.snrDef k).autoDue = some d → d ≤ s.up → s.rd (fSNR_DEF_STS_STATE k) = snrArmed →
    s.snr.defs.length = 4 →
    Runs (.snareAutoTrigger k) s fun t => t.rd (fSNR_DEF_STS_STATE k) = snrTriggered ∧ t.rd (fSNR_DEF_STS_CAUSE k) = causeAuto ∧
      (t.snrDef k).autoDue = none) ∧
  (∀ (k : Fin 4) r q c s, s.snr.queue = (k.val, r) :: q → s.snrCfg? k = some c → s.snr.defs.length = 4 →
    (s.rd (fSNR_DEF_STS_STATE k) = snrArmed →
      Runs .snareRowWrite s fun t => t.snr.queue = q ∧ (t.snrDef k).rows.length ≤ c.pre ∧
        (t.snrDef k).rows = (rowInsert r (s.snrDef k).rows).drop ((s.snrDef k).rows.length + 1 - c.pre)) ∧
    (s.rd (fSNR_DEF_STS_STATE k) = snrTriggered →
      Runs .snareRowWrite s fun t => t.snr.queue = q ∧ (t.snrDef k).rows = rowInsert r (s.snrDef k).rows)) ∧
  (∀ (k : Fin 4) c s, (s.snrDef k).cfg = some c → s.snrCfg? k = some c → s.rd (fSNR_DEF_STS_STATE k) = snrComplete →
    s.rd (fSNR_DEF_CFG_REARM k) = 1 → s.on (fSNR_DEF_STS_EXPORTING k) = false → (∀ r ∈ s.mbx.run, r.claims.testBit 8 = false) →
    s.snrPending k = false → s.snr.defs.length = 4 →
    ((s.snrFileBytes k c).length ≤ s.snrFree →
      Runs (.snareAutoExport k) s fun t => t.rd (fSNR_DEF_STS_STATE k) = snrArmed ∧ t.nand.snrNext = s.nand.snrNext + 1 ∧
        ∃ f, t.nand.snr = s.nand.snr ++ [f] ∧ f.number = s.nand.snrNext ∧ f.bytes = s.snrFileBytes k c ∧ f.complete = true) ∧
    ((s.snrFileBytes k c).length > s.snrFree →
      Runs (.snareAutoExport k) s fun t => t.nand = s.nand ∧ t.bit fSNR_FLT_FLAGS 4 = true ∧ t.snr = s.snr))

/-! ### The Chest -/

/-- Posting (R361, R365, R366): a post is queued with the code's pending suppression count, or coalesced into the last one, or suppressed for want of room
or of a token; a code that is fixed or not limited takes no token. -/
def Obligations.PostRows : Prop :=
  ∀ (code : Fin 256) payload s, (code : Nat) ≠ 0 →
    (s.chs.queue.length < (if chsFixed code then 64 else 60) → coalesces code (recPayload payload) s = false →
      (chsFixed code = true ∨ s.rlPeriod code = 0 →
        Runs (.eventPost code payload) s fun t => t.suppOf code.val = 0 ∧ t.chs.buckets = s.chs.buckets ∧ t.mram.chs.staged = s.mram.chs.staged ∧
          ∃ p, t.chs.queue = s.chs.queue ++ [p] ∧ p.code = code.val ∧ p.payload = recPayload payload ∧ p.time = s.clv.now ∧ p.rep = 0 ∧
            p.supp = s.suppOf code.val) ∧
      (chsFixed code = false → s.rlPeriod code ≠ 0 → ((refillBucket code s).bucket code).tokens = 0 →
        Runs (.eventPost code payload) s fun t => t.chs.queue = s.chs.queue ∧ t.suppOf code.val = satAdd 32 (s.suppOf code.val) 1 ∧
          t.rd fCHS_SUPP_CNT_POSTS = satAdd fCHS_SUPP_CNT_POSTS.w (s.rd fCHS_SUPP_CNT_POSTS) 1) ∧
      (∀ n, chsFixed code = false → s.rlPeriod code ≠ 0 → ((refillBucket code s).bucket code).tokens = n + 1 →
        Runs (.eventPost code payload) s fun t => (t.bucket code).tokens = n ∧ (t.bucket code).due.isSome = true ∧
          t.chs.queue.length = s.chs.queue.length + 1)) ∧
    (s.chs.queue.length < (if chsFixed code then 64 else 60) → coalesces code (recPayload payload) s = true →
      Runs (.eventPost code payload) s fun t => t.chs.queue.length = s.chs.queue.length ∧ t.mram.chs.nextSeq = s.mram.chs.nextSeq ∧
        t.rd fCHS_COAL_CNT_POSTS = satAdd fCHS_COAL_CNT_POSTS.w (s.rd fCHS_COAL_CNT_POSTS) 1) ∧
    (s.chs.queue.length ≥ (if chsFixed code then 64 else 60) →
      Runs (.eventPost code payload) s fun t => t.chs = s.chs ∧ t.suppOf code.val = satAdd 32 (s.suppOf code.val) 1 ∧ t.bit fCHS_FLT_FLAGS 0 = true)

/-- The Chest's writer and readers (R361 to R364, R366, R369): a queued post becomes a record with the next sequence number, and staged records that
leave it no room go to Roll, or with NAND closed to Keep as they are overwritten; tokens are added as their periods end; a page moves to Roll, or
its block retires; a flush leaves only the newest staged record; a fetch shows what it finds. -/
def Obligations.ChestRows : Prop :=
  (∀ p q s, s.stewAlive = true → s.chs.queue = p :: q →
    Runs .chestRecordWrite s fun t => t.chs.queue = q ∧ t.mram.chs.nextSeq = s.mram.chs.nextSeq + 1 ∧
      (s.chs.nandOk = false ∨ recsLen s.mram.chs.staged + (32 + p.payload.length) ≤ stagingBytes → t.nand = s.nand) ∧
      (s.chs.nandOk = false → t.mram.chs.keep =
        (keepCopy (s.mram.chs.staged.take (overwritten (32 + p.payload.length) s.mram.chs.staged)) s.mram.chs).keep) ∧
      ∃ r, t.mram.chs.staged.getLast? = some r ∧ r.seq = s.mram.chs.nextSeq ∧ r.code = p.code ∧ r.payload = p.payload ∧ r.time = p.time ∧
        r.supp = p.supp ∧ r.rep = p.rep ∧ (chsLid p.code = true → t.mram.chs.lid.getLast? = some r)) ∧
  (∀ (code : Fin 256) d s, (s.bucket code).due = some d → d ≤ s.up →
    Runs (.tokenRefill code) s fun t => t.chs.queue = s.chs.queue ∧
      (t.bucket code).tokens = min ((s.bucket code).tokens + ((s.up - d) / (s.rlPeriod code * 1000000) + 1)) (s.rlBurst code)) ∧
  (∀ pg rest s, pageFill 4064 s.mram.chs.staged.dropLast = (pg, rest) → pg ≠ [] → rest ≠ [] → s.chs.nandOk = true →
    Runs (.rollPageWrite false) s (fun t => t.nand.chs = rollAppend { recs := pg } s.nand.chs ∧
      t.mram.chs = keepCopy pg { s.mram.chs with staged := rest ++ s.mram.chs.staged.drop (s.mram.chs.staged.length - 1) }) ∧
    Runs (.rollPageWrite true) s (fun t => t.nand.chs.retired = s.nand.chs.retired + 1 ∧ t.bit fCHS_FLT_FLAGS 3 = true ∧
      t.mram.chs.keep = (keepCopy pg s.mram.chs).keep)) ∧
  (∀ s, s.chs.nandOk = true → (∀ r ∈ s.mram.chs.staged, recLen r ≤ 4064) → s.up ≥ s.chs.flushAt + s.rd fCHS_CFG_FLUSH_S * 1000000000 →
    Runs .chestFlush s fun t => t.mram.chs.staged = s.mram.chs.staged.drop (s.mram.chs.staged.length - 1) ∧
      t.mram.chs.nextSeq = s.mram.chs.nextSeq) ∧
  (∀ lo s, Runs (.chestFetch lo) s fun t => t.chs.fetch = some (s.rd fCHS_RD_SEQ_HI_Q_HI * 2 ^ 32 + lo % 2 ^ 32) ∧
    t.rd fCHS_RD_STS_DONE = 0 ∧ t.mram = s.mram) ∧
  (∀ seq s, s.chs.fetch = some seq →
    Runs .chestFetchDone s fun t => t.chs.fetch = none ∧ t.rd fCHS_RD_STS_DONE = 1 ∧ t.mram = s.mram ∧
      t.rd fCHS_RD_STS_RESULT = (match s.recLookup seq with | .found _ => 0 | .gone => 1 | .notYet => 2 | .skipped => 3 | .fault => 4) ∧
      ∀ r, s.recLookup seq = .found r → ∀ w < 64, t.rd (fCHS_RD_DATA_DATA w) = leAt (recBytes r) (4 * w) 4)

/-- Faults of the Chest's own memory (R365, R371): what each takes away, declares lost or retires; at S0 the update slot repairs its record. -/
def Obligations.ChestFaultRows : Prop :=
  (∀ n s, Runs (.chestMemoryFault (.corrected n)) s fun t => t.rd fCHS_ECC_CNT_CE = satAdd fCHS_ECC_CNT_CE.w (s.rd fCHS_ECC_CNT_CE) n ∧
    t.mram = s.mram ∧ t.nand = s.nand) ∧
  (∀ r s, r ∈ s.mram.chs.staged → (s.pwr.phase = .start 0 → ∀ q rep, s.mram.chs.upd = some (q, rep) → q ≠ r.seq) →
    Runs (.chestMemoryFault (.staged r.seq)) s fun t => (∀ x ∈ t.mram.chs.staged, x.seq ≠ r.seq) ∧ (r.seq, 1) ∈ t.mram.chs.declared ∧
      t.bit fCHS_FLT_FLAGS 2 = true ∧ t.bit fCHS_FLT_FLAGS 7 = true) ∧
  (∀ r rep s, r ∈ s.mram.chs.staged → s.pwr.phase = .start 0 → s.mram.chs.upd = some (r.seq, rep) →
    Runs (.chestMemoryFault (.staged r.seq)) s fun t => t.mram.chs.declared = s.mram.chs.declared ∧
      t.mram.chs.staged.map (fun x => x.seq) = s.mram.chs.staged.map (fun x => x.seq) ∧
      ∀ x ∈ t.mram.chs.staged, x.seq = r.seq → x.rep = rep) ∧
  (∀ s, Runs (.chestMemoryFault .descriptor) s fun t => t.mram.chs.staged = [] ∧ t.bit fCHS_FLT_FLAGS 6 = true ∧
    t.bit fCHS_FLT_FLAGS 10 = true ∧
    ∀ r ∈ s.mram.chs.staged ++ s.mram.chs.lid ++ rollRecs s.nand.chs, r.seq + 65536 ≤ t.mram.chs.nextSeq) ∧
  (∀ seq p s, s.nand.chs.blocks.flatten.find? (fun p => !p.bad && p.recs.any fun r => r.seq = seq) = some p →
    Runs (.chestMemoryFault (.nandRead seq)) s fun t => (∀ x ∈ t.nand.chs.blocks.flatten, x.bad = true ∨ ∀ r ∈ x.recs, r.seq ≠ seq) ∧
      t.nand.chs.blocks.length = s.nand.chs.blocks.length ∧ t.bit fCHS_FLT_FLAGS 4 = true ∧ t.bit fCHS_FLT_FLAGS 7 = true) ∧
  (∀ b e s, Runs (.chestMemoryFault (.nandProgram b e)) s fun t => t.nand.chs = { s.nand.chs with retired := s.nand.chs.retired + 1 } ∧
    t.bit fCHS_FLT_FLAGS 3 = true ∧ (1024 - (s.nand.chs.retired + 1) < 64 → t.chs.nandOk = false ∧ t.bit fCHS_FLT_FLAGS 9 = true)) ∧
  (∀ seq s, Runs (.chestMemoryFault (.keep seq)) s fun t => t.mram.chs.keep.map (fun r => r.seq) = s.mram.chs.keep.map (fun r => r.seq) ∧
    (∀ r ∈ t.mram.chs.keep, r.seq = seq → r.bad = true) ∧ t.bit fCHS_FLT_FLAGS 5 = true) ∧
  (∀ s, Runs (.chestMemoryFault .lid) s fun t => t.mram.chs.lid = [] ∧ t.bit fCHS_FLT_FLAGS 8 = true) ∧
  (∀ s, Runs (.chestMemoryFault (.nandAccepts false)) s fun t => t = { s with chs := { s.chs with nandOk := false } }) ∧
  (∀ s, s.nand.chs.retired ≤ 960 →
    Runs (.chestMemoryFault (.nandAccepts true)) s fun t => t.chs.nandOk = true ∧ t.mram.chs.overflow = none ∧
      ∀ f n, s.mram.chs.overflow = some (f, n) → (f, n) ∈ t.mram.chs.declared ∧ t.bit fCHS_FLT_FLAGS 7 = true)

/-! ### The Bureau's memory and tamper -/

/-- Tamper, the zeroize journal and the key memory's errors (R385, R388, R392, R393): a fall of the filtered TAMPER_N is counted and stamped, and with ACTION
zeroizes every entry below the roots; the zeroized state goes to both slots; an entry in error is reloaded from the newest slot, or is INVALID. -/
def Obligations.TamperRows : Prop :=
  (∀ raw hold stamp s, s.on fBUR_TAMPER_CFG_EN = true → s.on fBUR_TAMPER_STS_LEVEL = false →
    passesFilter (s.rd fBUR_TAMPER_CFG_GLITCH) hold = true → stamp = atContact (s.rd fBUR_TAMPER_CFG_GLITCH) raw →
    Runs (.tamper true raw hold) s fun t => t.rd fBUR_TAMPER_STS_LEVEL = 1 ∧ t.mram.bur.tamper = satAdd 16 s.mram.bur.tamper 1 ∧
      t.rd fBUR_TAMPER_STS_EVENTS = satAdd 16 s.mram.bur.tamper 1 ∧ t.rd fBUR_TAMPER_TIME_NS32 = stamp % 2 ^ 32 ∧ t.bit fBUR_FLT_FLAGS 0 = true ∧
      (s.rd fBUR_TAMPER_CFG_ACTION = 0 → t.bur = s.bur) ∧
      (s.rd fBUR_TAMPER_CFG_ACTION = 1 → t.mram.bur.zeroMark = true ∧ t.bur.journalDue = true ∧ t.bur.work = none ∧ t.bur.cache = [] ∧
        (∀ i ∈ s.domainTree, (s.key i).st ≠ keyFree → (t.key i).st = keyInvalid ∧ ((s.key i).st ≠ keyInvalid → (t.key i).material = 0)) ∧
        ∀ i, i ∉ s.domainTree → t.key i = s.key i)) ∧
  (∀ raw hold s, s.on fBUR_TAMPER_CFG_EN = true → s.on fBUR_TAMPER_STS_LEVEL = true →
    passesFilter (s.rd fBUR_TAMPER_CFG_GLITCH) hold = true → exec (.tamper false raw hold) s = .next (s.wr fBUR_TAMPER_STS_LEVEL 0)) ∧
  (∀ low raw hold s, s.on fBUR_TAMPER_CFG_EN = false ∨ passesFilter (s.rd fBUR_TAMPER_CFG_GLITCH) hold = false →
    exec (.tamper low raw hold) s = .next s) ∧
  (∀ s, s.bur.journalDue = true → s.bur.slot ≤ 1 → s.mram.bur.slots.length = 2 →
    Runs .zeroizeJournal s fun t => t.bur.journalDue = false ∧ t.mram.bur.zeroMark = false ∧ t.bur.gen = s.bur.gen + 2 ∧
      ∀ i < 2, ∃ g, t.mram.bur.slots.getD i none = some ⟨g, true, s.bur.ents.map fun e => (e.1, journalEnt (s.bur.order + 1) e.2)⟩) ∧
  (∀ k (e : Fin 1024) bad s, exec (.burSramUe (.corrected k) e bad) s = .next (s.inc fBUR_ECC_CNT_CE k)) ∧
  (∀ (e : Fin 1024) bad s, Runs (.burSramUe .lost e bad) s fun t => t.bit fBUR_FLT_FLAGS 6 = true ∧
    t.rd fBUR_ECC_CNT_UE = satAdd fBUR_ECC_CNT_UE.w (s.rd fBUR_ECC_CNT_UE) (if bad then 2 else 1) ∧
    (bad = false → t.mram.bur = s.mram.bur ∧ (∀ i, i ≠ e.val → t.key i = s.key i) ∧ t.key e = restoredEnt (s.journalCopy e)) ∧
    (bad = true → t.bur.gen = s.bur.gen + 1 ∧ ((s.key e).st ≠ keyFree → (t.key e).st = keyInvalid)))

/-! ### The pair -/

/-- What a message that passes leaves of the pair's record before it acts (R401, R402): its lane lives, its counter and tick are the last. -/
def heardPair (m : PairMsg) (s : State) : Pair :=
  { s.pair with laneAt := s.pair.laneAt.set m.lane s.up, laneDown := s.pair.laneDown.set m.lane false, rxCtr := m.ctr, lastTick := m.tick }

/-- The link start (R401, R402, R405): HELLO answers with HELLO and AUTH under the session key of both nonces; AUTH brings the link up, or is counted where
its tag is wrong; a differing digest makes a SEEKING module MISMATCH; a lane that stays silent is down, and both down are the loss of the link.
Messages (R401 to R403): after AUTH one with a wrong tag is counted and does nothing, a copy from the other lane does nothing but show that the lane
lives, and one before AUTH does nothing. -/
def Obligations.LinkRows : Prop :=
  (∀ nonce dg ser k s, s.paired = true → (∀ h, s.pair.helloIn = some h → h.1 ≠ nonce) → s.pairKey? = some k → s.pair.authed = false →
    Runs (.hello nonce dg ser) s fun t => t.pair.helloIn = some (nonce, dg) ∧ t.pair.key = some k ∧ t.pair.txCtr = 1 ∧ t.pair.rxCtr = 0 ∧
      t.pair.sessKey = s.sessionKey k nonce ∧ t.out.length = s.out.length + 4) ∧
  (∀ nonce dg ser s, s.paired = true → (∀ h, s.pair.helloIn = some h → h.1 ≠ nonce) → s.pairKey? = none →
    exec (.hello nonce dg ser) s = .next (s.flag fPAIR_FLT_FLAGS 3)) ∧
  (∀ nonce dg d ser s, s.pair.helloIn = some (nonce, d) → exec (.hello nonce dg ser) s = .next s) ∧
  (∀ (lane : Fin 2) nonce dg s, s.pair.helloIn = some (nonce, dg) → s.pair.authed = false →
    Runs (.auth lane (s.authMac nonce)) s fun t => t.pair.authed = true ∧ t.pair.laneAt = [s.up, s.up] ∧ t.rd fPAIR_STS_PARTNER_UP = 1 ∧
      (dg ≠ s.ownDigest → s.role = roleSeeking → t.role = roleMismatch ∧ t.bit fPAIR_FLT_FLAGS 4 = true) ∧
      (dg = s.ownDigest → s.role = roleMismatch → t.role = roleSeeking) ∧
      (dg = s.ownDigest → s.role ≠ roleMismatch → t.role = s.role)) ∧
  (∀ (lane : Fin 2) nonce dg mac s, s.pair.helloIn = some (nonce, dg) → s.pair.authed = false → mac ≠ s.authMac nonce →
    Runs (.auth lane mac) s fun t => t.pair = s.pair ∧ t.rd fPAIR_STS_PARTNER_UP = s.rd fPAIR_STS_PARTNER_UP ∧
      t.rd fPAIR_AUTHF_CNT_MESSAGES = satAdd 32 (s.rd fPAIR_AUTHF_CNT_MESSAGES) 1) ∧
  (∀ (lane : Fin 2) s, s.paired = true → s.pair.authed = true → s.pair.laneDown.getD lane true = false →
    s.up ≥ s.pair.laneAt.getD lane 0 + s.periods 3 →
    ((s.pair.laneDown.set lane true).all id = false →
      Runs (.pairLaneDown lane) s fun t => t.on (if lane.val = 0 then fPAIR_STS_LANE_A else fPAIR_STS_LANE_B) = false ∧
        t.pair = { s.pair with laneDown := s.pair.laneDown.set lane true } ∧ t.bit fPAIR_FLT_FLAGS lane = true ∧
        t.rd fPAIR_STS_PARTNER_UP = s.rd fPAIR_STS_PARTNER_UP ∧ t.role = s.role) ∧
    ((s.pair.laneDown.set lane true).all id = true → s.on fPAIR_STS_PARTNER_UP = true →
      Runs (.pairLaneDown lane) s fun t => t.rd fPAIR_STS_LANE_A = 0 ∧ t.rd fPAIR_STS_LANE_B = 0 ∧ t.rd fPAIR_STS_PARTNER_UP = 0 ∧
        t.pair.authed = false ∧ (s.role = roleJoining → t.role = roleUnsynced) ∧
        (s.role = roleStandby → s.pair.abdSeen = false → t.role = roleSeeking) ∧ (s.role = roleActive → t.role = roleActive))) ∧
  (∀ (m : PairMsg) cause inst j e c id b ok n f op v sums (s : State), ∀ i ∈ [Instr.abdicate m cause inst, .handover m j, .prepare m e c, .block m e id b ok,
      .endReady m e n ok, .commit m e c, .forward m f, .mirror m op inst v, .accSum m n sums],
    (s.pair.authed = false → exec i s = .next s) ∧
    (s.pair.authed = true → m.tagOk = false → exec i s = .next (s.inc fPAIR_AUTHF_CNT_MESSAGES)) ∧
    (s.pair.authed = true → m.tagOk = true → m.ctr ≤ s.pair.rxCtr →
      Runs i s fun t => t.pair = { s.pair with
          laneAt := s.pair.laneAt.set m.lane s.up, laneDown := s.pair.laneDown.set m.lane false } ∧ t.role = s.role ∧
        t.on (if m.lane.val = 0 then fPAIR_STS_LANE_A else fPAIR_STS_LANE_B) = true))

/-- Authority (R405, R410 to R415): a STANDBY that is ready takes authority at the next tick after the partner's abdication, by message or by pin; a
HANDOVER moves it at its tick; the ACTIVE module's watchdog makes it release its pins and drive PAIR_ABD_N; the waits and the recovery. -/
def Obligations.AuthorityRows : Prop :=
  (∀ (m : PairMsg) cause inst s, s.pair.authed = true → m.tagOk = true → s.pair.rxCtr < m.ctr → s.role = roleStandby → s.pair.abdSeen = false →
    (s.pairReady = true → Runs (.abdicate m cause inst) s fun t => t.pair.move = some (s.curTick + 1, true) ∧ t.pair.abdSeen = true ∧
      t.rd fPAIR_ABD_STS_PARTNER_CAUSE = cause % 16 ∧ t.role = roleStandby) ∧
    (s.pairReady = false → Runs (.abdicate m cause inst) s fun t => t.pair.move = none ∧ t.pair.abdSeen = true ∧
      t.bit fPAIR_FLT_FLAGS 7 = true ∧ t.role = roleStandby)) ∧
  (∀ s, s.paired = true → s.pwr.abdN = true → s.role = roleStandby → s.pair.abdSeen = false → s.pairReady = true →
    exec .pairAbdNFall s = .next { s with pair := { s.pair with abdSeen := true, move := some (s.curTick + 1, true) } }) ∧
  (∀ (m : PairMsg) j s, s.pair.authed = true → m.tagOk = true → s.pair.rxCtr < m.ctr → s.role = roleStandby →
    Runs (.handover m j) s fun t => t.pair.move = some (j, true) ∧ t.rd fPAIR_ABD_STS_PARTNER_CAUSE = 9 ∧ t.pair.rxCtr = m.ctr) ∧
  (∀ e s, s.pair.abdUntil = some e → s.up ≥ e →
    Runs .pairAbdNRelease s fun t => t.pwr.abdN = true ∧ t.pair.abdUntil = none ∧ t.out = s.out ++ [.pin "PAIR_ABD_N" 0 none]) ∧
  (∀ s, s.ticking = true → s.paired = true → s.role = roleActive → s.up ≥ s.pair.instAt + s.periods 2 →
    Runs .pairWatchdog s fun t => t.role = roleYielded ∧ t.rd fPAIR_ABD_STS_OWN_CAUSE = abdWatchdog ∧ t.pwr.abdN = false ∧
      t.pair.abdUntil = some (s.up + 1000000) ∧ t.rd fPAIR_STS_AUTH = 0 ∧
      t.rd fPAIR_ABD_CNT_EVENTS = satAdd 32 (s.rd fPAIR_ABD_CNT_EVENTS) 1 ∧ ∀ p ∈ s.authorityPins, t.pio.getD p none = none) ∧
  (∀ s, s.role = roleSeeking → s.on fPAIR_STS_PARTNER_UP = false → s.on fPAIR_CFG_ALONE_OK = true → s.pair.move = none →
    s.up ≥ s.pair.seekSince + s.rd fPAIR_CFG_WAIT_S * 1000000000 →
    exec .pairWaitExpiry s = .next { s with pair := { s.pair with move := some (s.curTick + 1, true) } }) ∧
  (∀ c s, s.pair.yieldClear = some c → s.role = roleYielded → s.rd fPAIR_ABD_STS_OWN_CAUSE ≠ abdSupply → s.triggerNow = false →
    s.up ≥ c + s.rd fPAIR_CFG_RECOVER_S * 1000000000 →
    Runs .yieldRecover s fun t => t.role = (if s.on fPAIR_STS_PARTNER_UP = true ∧ s.rd fPAIR_STS_PARTNER_ROLE = roleActive then roleJoining
        else roleSeeking) ∧ (t.role = roleSeeking → t.pair.seekSince = s.up) ∧
      (s.on fPAIR_STS_PARTNER_UP = false → t.out.length = s.out.length + 2))

/-- The join's rows (R416 to R421): PREPARE, BLOCK, END_READY, COMMIT, ACC_SUM, JOIN_RETRY and JOIN_TIMEOUT, each with its effect and each completing.
PREPARE opens a join at the joiner, and one during it fails it; a BLOCK of the join is staged; an END with every block held answers READY, one with
fewer asks once for the rest and then fails; a READY with every block sent answers COMMIT, one with fewer is sent the copy once more; COMMIT before its
tick fixes k, a late one fails; sums are compared cut set by cut set; a retry is due after 10 s while attempts are left, a time-out after COPY_MS. The
resend and its counts are the model's reading (log entry 33). -/
def Obligations.JoinRows : Prop :=
  (∀ (m : PairMsg) e c s, s.pair.authed = true → m.tagOk = true → s.pair.rxCtr < m.ctr →
    (s.role = roleJoining → s.pair.join = none → Runs (.prepare m e c) s fun t => t.role = roleJoining ∧
      t.pair = { heardPair m s with join := some { epoch := e, c := c, since := s.up }, ownAtC := none }) ∧
    (s.role = roleJoining → s.pair.join.isSome = true → Runs (.prepare m e c) s fun t => t.role = roleUnsynced ∧ t.bit fPAIR_FLT_FLAGS 9 = true ∧
      t.pair = { heardPair m s with join := none, ownAtC := none, unsyncAt := s.up } ∧
      t.rd fPAIR_JOINF_CNT_JOINS = satAdd 32 (s.rd fPAIR_JOINF_CNT_JOINS) 1) ∧
    (s.role ≠ roleJoining → Runs (.prepare m e c) s fun t => t.role = s.role ∧ t.pair = heardPair m s)) ∧
  (∀ (m : PairMsg) e id b ok s, s.pair.authed = true → m.tagOk = true → s.pair.rxCtr < m.ctr →
    (∀ j, s.role = roleJoining → s.pair.join = some j → j.epoch = e → ok = true → Runs (.block m e id b ok) s fun t => t.role = roleJoining ∧
      t.pair = { heardPair m s with join := some { j with blocks := smInsert j.blocks id b } }) ∧
    (s.role ≠ roleJoining ∨ s.pair.join = none ∨ (∃ j, s.pair.join = some j ∧ j.epoch ≠ e) ∨ ok = false →
      Runs (.block m e id b ok) s fun t => t.role = s.role ∧ t.pair = heardPair m s)) ∧
  (∀ (m : PairMsg) e n ok s, s.pair.authed = true → m.tagOk = true → s.pair.rxCtr < m.ctr →
    (∀ j, s.role = roleJoining → s.pair.join = some j → j.epoch = e →
      (ok = true → j.blocks.length = n → Runs (.endReady m e n ok) s fun t => t.role = roleJoining ∧ t.pair.join = some { j with ready := true } ∧
        t.out = (sendEnd e n (copyCrc (j.blocks.map fun b => b.2)) s).out) ∧
      (ok = false ∨ j.blocks.length ≠ n → j.resent = false → Runs (.endReady m e n ok) s fun t => t.role = roleJoining ∧
        t.pair.join = some { j with resent := true } ∧
        t.out = (sendEnd e (if ok = true then j.blocks.length else 0) (copyCrc (j.blocks.map fun b => b.2)) s).out) ∧
      (ok = false ∨ j.blocks.length ≠ n → j.resent = true → Runs (.endReady m e n ok) s fun t => t.role = roleUnsynced ∧ t.pair.join = none ∧
        t.bit fPAIR_FLT_FLAGS 9 = true)) ∧
    (∀ j, s.role = roleActive → s.pair.join = some j → j.epoch = e → j.sent ≠ 0 → j.k = none →
      (n = j.sent → Runs (.endReady m e n ok) s fun t => t.role = roleActive ∧ t.pair.join = some { j with k := some (s.tickAhead 2000000) } ∧
        t.out = (s.pairSend pmCommit (be 8 e ++ be 8 (s.tickAhead 2000000))).out) ∧
      (n ≠ j.sent → j.resent = false → Runs (.endReady m e n ok) s fun t => t.role = roleActive ∧
        t.pair.join = some { j with resent := true, sent := s.copyBlocks.length }) ∧
      (n ≠ j.sent → j.resent = true → Runs (.endReady m e n ok) s fun t => t.role = roleActive ∧ t.pair.join = none)) ∧
    (s.pair.join = none ∨ (∃ j, s.pair.join = some j ∧ j.epoch ≠ e) ∨ (s.role ≠ roleJoining ∧ s.role ≠ roleActive) →
      Runs (.endReady m e n ok) s fun t => t.role = s.role ∧ t.pair = heardPair m s)) ∧
  (∀ (m : PairMsg) e k s, s.pair.authed = true → m.tagOk = true → s.pair.rxCtr < m.ctr →
    (∀ j, s.role = roleJoining → s.pair.join = some j → j.epoch = e → j.ready = true →
      (s.clv.now < s.tickInst k → Runs (.commit m e k) s fun t => t.role = roleJoining ∧
        t.pair = { heardPair m s with join := some { j with k := some k } }) ∧
      (s.clv.now ≥ s.tickInst k → Runs (.commit m e k) s fun t => t.role = roleUnsynced ∧ t.bit fPAIR_FLT_FLAGS 9 = true ∧
        t.pair = { heardPair m s with join := none, ownAtC := none, unsyncAt := s.up })) ∧
    (s.role ≠ roleJoining ∨ s.pair.join = none ∨ (∃ j, s.pair.join = some j ∧ (j.epoch ≠ e ∨ j.ready = false)) →
      Runs (.commit m e k) s fun t => t.role = s.role ∧ t.pair = heardPair m s)) ∧
  (∀ (m : PairMsg) tick anets s, s.pair.authed = true → m.tagOk = true → s.pair.rxCtr < m.ctr →
    Runs (.accSum m tick anets) s fun t => t.role = s.role ∧ t.pair.accTick = tick ∧ t.acc = s.acc ∧ t.pair.join = s.pair.join ∧
      t.pair.diffs = ((s.cutsAt tick).zipIdx.map fun c => (c.2, toSigned 96 (anets.getD c.2 0) - c.1.anet)).filter (fun d => d.2 ≠ 0) ∧
      (t.pair.diffs ≠ [] → t.bit fPAIR_FLT_FLAGS 13 = true)) ∧
  (∀ s, (s.role = roleUnsynced → s.up ≥ s.pair.unsyncAt + 10000000000 → s.rd fPAIR_STS_ATTEMPTS < s.rd fPAIR_CFG_RETRIES →
      Runs .joinRetry s fun t => t.role = roleJoining ∧ t.pair = { s.pair with join := none, ownAtC := none }) ∧
    (s.role ≠ roleUnsynced ∨ s.up < s.pair.unsyncAt + 10000000000 ∨ s.rd fPAIR_STS_ATTEMPTS ≥ s.rd fPAIR_CFG_RETRIES →
      exec .joinRetry s = .next s)) ∧
  (∀ s, (∀ j, s.pair.join = some j → j.k = none → s.up ≥ j.since + s.rd fPAIR_CFG2_COPY_MS * 1000000 →
      (s.role = roleJoining → Runs .joinTimeout s fun t => t.role = roleUnsynced ∧ t.bit fPAIR_FLT_FLAGS 9 = true ∧
        t.pair = { s.pair with join := none, ownAtC := none, unsyncAt := s.up }) ∧
      (s.role ≠ roleJoining → exec .joinTimeout s = .next { s with pair := { s.pair with join := none } })) ∧
    (s.pair.join = none ∨ (∃ j, s.pair.join = some j ∧ (j.k.isSome = true ∨ s.up < j.since + s.rd fPAIR_CFG2_COPY_MS * 1000000)) →
      exec .joinTimeout s = .next s))

/-- What a heartbeat, a forwarded command and a mirrored one do (R405, R408, R409, R415, R423, R487). -/
def Obligations.PartnerRows : Prop :=
  (∀ (m : PairMsg) h s, s.pair.authed = true → m.tagOk = true → s.pair.rxCtr < m.ctr → m.role < 8 →
    Runs (.heartbeat m h) s fun t => t.pair.hbAt = some s.up ∧ t.pair.partnerEpoch = h.epoch ∧ t.rd fPAIR_STS_PARTNER_ROLE = m.role ∧
      (t.rd fPAIR_STS_PARTNER_FIT = 1 ↔ h.fit = true) ∧ (t.rd fPAIR_STS_PARTNER_READY = 1 ↔ h.ready = true) ∧
      (s.role = roleSeeking → (∀ d, s.pair.helloIn = some d → d.2 = s.ownDigest) → s.pair.move = none → m.role = roleActive →
        t.role = roleJoining) ∧
      (∀ d, s.role = roleSeeking → s.pair.helloIn = some d → d.2 ≠ s.ownDigest → t.role = roleMismatch ∧ t.bit fPAIR_FLT_FLAGS 4 = true) ∧
      (s.role = roleActive → s.on fPAIR_STS_MEMBER = true → m.role = roleActive → t.role = roleJoining ∧
        ∀ p ∈ s.authorityPins, t.pio.getD p none = none) ∧
      (s.role = roleActive → s.on fPAIR_STS_MEMBER = false → m.role = roleActive → t.role = roleActive) ∧
      (s.role = roleActive → m.role = roleJoining → s.pair.join = none → s.swap = none → s.pair.move = none →
        t.pair.join = some { epoch := max s.mram.epochCount h.epoch + 1, c := s.tickAhead 20000000, since := s.up }) ∧
      (s.role = roleJoining → m.role ≠ roleActive → t.role = roleUnsynced)) ∧
  (∀ x ∈ [(1, false), (2, true)], ∀ (m : PairMsg) c im o st s, s.pair.authed = true → m.tagOk = true → s.pair.rxCtr < m.ctr →
    s.authority = true → s.img = some im → im.outs.zipIdx.find? (fun y => y.1.idcode = c.idcode && y.1.format ≠ 2) = some (o, st) →
    c.chkOk = true → o.cmdSrc = [] ∨ o.cmdSrc.contains c.src = true → s.paired = true →
    Runs (.forward m (.c37 x.1 c)) s fun t => (t.outSt st).cmds = (s.outSt st).cmds ++ [(s.up, some s.mirrorRun, cmdMask o c.src, x.2)] ∧
      t.rd fEGR_CMD_CNT_OK = satAdd fEGR_CMD_CNT_OK.w (s.rd fEGR_CMD_CNT_OK) 1) ∧
  (∀ (m : PairMsg) code c s, s.pair.authed = true → m.tagOk = true → s.pair.rxCtr < m.ctr → s.authority = false →
    Runs (.forward m (.c37 code c)) s fun t => t.egr = s.egr ∧ t.out = s.out) ∧
  (∀ (m : PairMsg) inst v s, s.pair.authed = true → m.tagOk = true → s.pair.rxCtr < m.ctr →
    (∀ op, op = mirAck ∨ op = mirInh → Runs (.mirror m op inst v) s fun t => t.pair.mirrors = s.pair.mirrors ++ [(op, inst, v)]) ∧
    (Runs (.mirror m mirZero inst v) s fun t => t.acc = { s.acc with zero := s.acc.zero ++ [(v, 0, some inst)] }) ∧
    (Runs (.mirror m mirDest inst v) s fun t =>
      (t.outSt (v / 32)).cmds = (s.outSt (v / 32)).cmds ++ [(s.up, some inst, v / 2 % 16, decide (v % 2 = 1))])) ∧
  (∀ (m : PairMsg) op args s, s.pair.authed = true → m.tagOk = true → s.pair.rxCtr < m.ctr → s.stewAlive = true →
    (∀ x, s.cmd? .partner = some x → Runs (.forward m (.mailbox op args)) s fun t => t.mbx = s.mbx ∧
      t.out = (s.sendForward 1 (be 2 op ++ be 1 stBusy)).out) ∧
    (s.cmd? .partner = none → cmdInfo? op args = none → Runs (.forward m (.mailbox op args)) s fun t =>
      t.cmd? .partner = some { src := .partner, opcode := op, args := args, tag := 0, done := some (stBadArg, []) }))

/-! ### Commands of the mailbox, the Bench and the partner -/

/-- The command of the source has been accepted, has not been done, and does not wait for the key store. -/
def accepted (src : CmdSrc) (op : Nat) (r : Running) (s : State) : Prop :=
  s.cmd? src = some r ∧ r.opcode = op ∧ r.done = none ∧ s.mbx.wait.contains src = false

/-- The command is done, with this status and these result words. -/
def answered (src : CmdSrc) (r : Running) (st : Nat) (ws : List Nat) (t : State) : Prop :=
  t.cmd? src = some { r with done := some (st, ws) }

/-- The command goes on, keeping these words. -/
def goesOn (src : CmdSrc) (r : Running) (ws : List Nat) (t : State) : Prop := t.cmd? src = some { r with memo := ws }

/-- The command is done here and waits up to `ns` for what the partner reports (R487). -/
def asks (src : CmdSrc) (r : Running) (st : Nat) (ws : List Nat) (ns : Nat) (s t : State) : Prop :=
  t.cmd? src = some { r with done := some (st, ws), waitTo := some (s.up + ns) }

/-- System and time commands and completion (R81, R364, R476, R489, R498): identity; commissioning, once; a reseat that waits for four agreeing samples of an enabled
source, only in HOLDOVER or STUCK, and its time-out (which of two refusals comes first is the model's choice, log entry 47); what a channel's registers show of a command that completes. -/
def Obligations.SystemCommands : Prop :=
  (∀ src args r s, accepted src 0x0002 r s → Runs (.getInfo src args) s (answered src r stOk
    (s.word rSYS_ID_STS :: words64 Config.serial ++ [Config.macBase % 2 ^ 32, Config.macBase / 2 ^ 32 % 65536]))) ∧
  (∀ src args r s, accepted src 0x0003 r s →
    (Arg r 0 = 0x434F4D4D → s.mram.chs.commissioned = false → Runs (.commission src args) s fun t => t.mram.chs.commissioned = true ∧
      t.rd fCHS_STS_COMMISSIONED = 1 ∧ t.chs.queue = [] ∧ t.mram.pwr = { s.mram.pwr with started := false, modRst := 0, taiUtc := 37 } ∧
      t.mram.bur.tamper = 0 ∧ t.rd fBUR_TAMPER_STS_EVENTS = 0 ∧ answered src r stOk (words64 t.mram.chs.keepSeq) t) ∧
    (Arg r 0 = 0x434F4D4D → s.mram.chs.commissioned = true → Runs (.commission src args) s fun t => answered src r stState [] t ∧
      t.mram.chs = s.mram.chs) ∧
    (Arg r 0 ≠ 0x434F4D4D → Runs (.commission src args) s fun t => answered src r stBadArg [] t ∧ t.mram.chs = s.mram.chs)) ∧
  (∀ src args r s, accepted src 0x0101 r s →
    (r.memo = [] → Arg r 0 < 1 ∨ 3 < Arg r 0 ∨ s.srcEnabled (Arg r 0) = false → Runs (.timeReseat src args) s fun t =>
      answered src r stBadArg [] t ∧ t.clv = s.clv) ∧
    (r.memo = [] → 1 ≤ Arg r 0 → Arg r 0 ≤ 3 → s.srcEnabled (Arg r 0) = true →
      (s.clvState = clvHoldover ∨ s.clvState = clvStuck → Runs (.timeReseat src args) s fun t => goesOn src r [Arg r 0] t ∧
        t.clv = { s.clv with wait := some { src := Arg r 0, deadline := s.up + 10000000000 } }) ∧
      (s.clvState ≠ clvHoldover → s.clvState ≠ clvStuck → Runs (.timeReseat src args) s fun t => answered src r stState [] t ∧
        t.clv = s.clv)) ∧
    (∀ w, r.memo ≠ [] → s.clv.wait = some w → w.got.length < 4 ∨ agree s.jump w.got = false →
      (s.up ≥ w.deadline → Runs (.timeReseat src args) s fun t => answered src r stTimeout [] t ∧ t.clv = { s.clv with wait := none }) ∧
      (s.up < w.deadline → Runs (.timeReseat src args) s fun t => goesOn src r r.memo t ∧ t.clv = s.clv)) ∧
    (∀ w, r.memo ≠ [] → s.clv.wait = some w → 4 ≤ w.got.length → agree s.jump w.got = true → Runs (.timeReseat src args) s fun t =>
      t.clv.wait = none ∧ ∃ x, t.clv.reseat = some x ∧ x.d = meanInt w.got ∧ x.src = Arg r 0 ∧
        x.m = tickFrom s.rate (s.clv.now + 1000000) ∧ x.tm = tickInstant s.rate x.m ∧ (x.d ≤ 0 → x.skipped = 0) ∧
        goesOn src r [Arg r 0, ofSigned 64 x.d, x.m, x.skipped] t)) ∧
  (∀ (c : Fin 4) rep r st ws s, s.stewAlive = true → s.cmd? (.chan c) = some r → r.done = some (st, ws) → r.waitTo = none → st < 16 →
    ws.length ≤ 62 →
    Runs (.mbxCommandComplete (.chan c) rep) s fun t => t.cmd? (.chan c) = none ∧ t.rd (fMBX_STS_STATE c) = 2 ∧ t.rd (fMBX_STS_STATUS c) = st ∧
      t.rd (fMBX_STS_RESW c) = ws.length ∧ ∀ w < ws.length, t.rd (fMBX_RES_RES c w) = ws.getD w 0 % 2 ^ 32)

/-- Image commands (R465 to R469, R487, R490): a load that passes its checks fills the slot, one that fails them leaves it empty with its code; a slot that
runs is not erased; a swap is pending until its tick, or selects at once where nothing ticks; a cancel takes it away; with a partner up the command
waits for its report. -/
def Obligations.ImageCommands : Prop :=
  (∀ src args bytes img r b i s, accepted src 0x0201 r s → s.loadRefused r (Arg r 0) (Arg r 3) (Arg64 r 1) = none → s.pairTells r = false →
    b = bytes.take (Arg r 3) → i = { readImage b img with file := b } →
    Runs (.imageLoad src args bytes img false) s fun t =>
      match imageReject (progress src b.length s) b i with
      | none => answered src r stOk [0, 0xF] t ∧ t.nand.slots = s.nand.slots.set (Arg r 0) (some i)
      | some code => answered src r (if code / 4096 = 2 then stAuth else stBadArg) [code, 0xF] t ∧
        t.nand.slots = s.nand.slots.set (Arg r 0) none) ∧
  (∀ src args bytes img r s, accepted src 0x0201 r s → s.loadRefused r (Arg r 0) (Arg r 3) (Arg64 r 1) = none → s.pairTells r = true →
    Runs (.imageLoad src args bytes img false) s fun t => ∃ st code, asks src r st [code, 7] 30000000000 s t) ∧
  (∀ src args bytes img err r st s, accepted src 0x0201 r s → s.loadRefused r (Arg r 0) (Arg r 3) (Arg64 r 1) = some st →
    Runs (.imageLoad src args bytes img err) s fun t => answered src r st [] t ∧ t.nand = s.nand) ∧
  (∀ src args bytes img r s, accepted src 0x0201 r s → s.loadRefused r (Arg r 0) (Arg r 3) (Arg64 r 1) = none →
    Runs (.imageLoad src args bytes img true) s fun t => answered src r stFault [] t ∧ t.bit fMBX_FLT_FLAGS mfDma = true ∧
      t.nand.slots = s.nand.slots.set (Arg r 0) none) ∧
  (∀ src args r s, accepted src 0x0204 r s → Arg r 0 ≤ 1 →
    (s.nand.slots.getD (Arg r 0) none = none → Runs (.imageInfo src args) s (answered src r stOk (List.replicate 14 0))) ∧
    (∀ i, s.nand.slots.getD (Arg r 0) none = some i → Runs (.imageInfo src args) s (answered src r stOk
      ([if Arg r 0 = 0 then s.rd fTMB_IMG_STS_SLOT0 else s.rd fTMB_IMG_STS_SLOT1, i.svn, i.rateCode, i.minRomlvl] ++ words64 i.buildId ++
        packWords (be 32 i.digest))))) ∧
  (∀ src args r s, accepted src 0x0205 r s → Arg r 0 ≤ 1 →
    (s.runs (Arg r 0) = false → s.pendingSlot (Arg r 0) = false → Runs (.imageErase src args) s fun t => answered src r stOk [] t ∧
      t.nand.slots = s.nand.slots.set (Arg r 0) none) ∧
    (s.runs (Arg r 0) = true ∨ s.pendingSlot (Arg r 0) = true → Runs (.imageErase src args) s fun t => answered src r stState [] t ∧
      t.nand = s.nand)) ∧
  (∀ src args r i s, accepted src 0x0202 r s → Arg r 0 ≤ 1 → s.nand.slots.getD (Arg r 0) none = some i →
    (s.ticking = true → s.img.isSome = true → s.runs (Arg r 0) = false → s.swapStatus r i (Arg64 r 1) = stOk → s.pairTells r = false →
      Runs (.imageSwap src args) s fun t => answered src r stOk [0xF] t ∧ t.swap = some (i, Arg r 0, Arg64 r 1) ∧ t.img = s.img ∧
        t.rd fTMB_IMG_STS_PENDING = 1 ∧ t.rd fTMB_IMG_STS_PEND_SLOT = Arg r 0) ∧
    (s.ticking = true → s.img.isSome = true → s.runs (Arg r 0) = false → s.swapStatus r i (Arg64 r 1) = stOk → s.pairTells r = true →
      Runs (.imageSwap src args) s fun t => asks src r stOk [7] 100000000 s t ∧ t.swap = some (i, Arg r 0, Arg64 r 1)) ∧
    (s.ticking = true → s.img.isSome = true → s.runs (Arg r 0) = false → s.swapStatus r i (Arg64 r 1) ≠ stOk →
      Runs (.imageSwap src args) s fun t => answered src r (s.swapStatus r i (Arg64 r 1)) [] t ∧ t.swap = s.swap) ∧
    (s.ticking = false ∨ s.img = none → Arg64 r 1 = 0 →
      Runs (.imageSwap src args) s fun t =>
        match imageReject s i.file i with
        | none => answered src r stOk [0xF] t ∧ t.mram.activeSlot = Arg r 0 ∧ t.img = (if s.pwr.phase = .running then some i else s.img)
        | some code => answered src r (if code / 4096 = 2 then stAuth else stBadArg) [0xF] t ∧ t.mram.activeSlot = s.mram.activeSlot)) ∧
  (∀ src args r x s, accepted src 0x0203 r s → s.swap = some x → s.pairRefuses r = false →
    (s.clv.now + 50000000 ≤ s.tickInst x.2.2 → s.pairTells r = false → Runs (.swapCancel src args) s fun t => answered src r stOk [0xF] t ∧
      t.swap = none ∧ t.tmb.prepared = false ∧ t.rd fTMB_IMG_STS_PENDING = 0) ∧
    (s.clv.now + 50000000 ≤ s.tickInst x.2.2 → s.pairTells r = true → Runs (.swapCancel src args) s fun t => asks src r stOk [7] 100000000 s t ∧
      t.swap = none ∧ t.mbx.cancelled = some x) ∧
    (s.clv.now + 50000000 > s.tickInst x.2.2 → Runs (.swapCancel src args) s fun t => answered src r stState [] t ∧ t.swap = s.swap)) ∧
  (∀ s, s.swap.isSome = true → Runs .swapPrepareDone s fun t => t.tmb = { s.tmb with prepared := true } ∧ t.swap = s.swap)

/-- Key commands (R376, R378 to R385, R390, R491): ROOT_INSTALL, KEY_LOAD, KEY_INVALIDATE, KEY_PURGE, KEY_SELECT, HMAC and GMAC, each with its result and
each completing. What the standards' functions answer decides whether a root or a key is installed, in the entry that is free; each argument or
state that the command table names is refused with its status; an invalidation takes effect at the next tick instant, or at once where nothing
ticks (the tick then named, 0, is the model's choice, log entry 48); a purge frees; a tag is made or verified under KEY_WORK, and a use spent. -/
def Obligations.KeyCommands : Prop :=
  (∀ src args r s, accepted src 0x0301 r s →
    (onP256 (beAt (argBytes r 1 16) 0 32) (beAt (argBytes r 1 16) 32 32) = false ∨ s.keyIdUsed (Arg r 0) = true →
      Runs (.rootInstall src args) s fun t => answered src r stBadArg [] t ∧ t.bur = s.bur) ∧
    (onP256 (beAt (argBytes r 1 16) 0 32) (beAt (argBytes r 1 16) 32 32) = true → s.keyIdUsed (Arg r 0) = false →
      Runs (.rootInstall src args) s fun t =>
        match Config.unwrap (Config.hkdf (Config.ecdhX (nats (argBytes r 1 16))) (nats (be 8 Config.serial)) rootInfo) (nats (argBytes r 17 10)) with
        | none => answered src r stAuth [] t ∧ t.bur = s.bur
        | some m =>
          ((s.bur.ents.filter fun e => e.2.typ = typRoot && e.2.st ≠ keyFree).length ≥ 16 ∨ s.freeEntry = none →
            answered src r stNoSpace [] t ∧ t.bur = s.bur) ∧
          (∀ e, (s.bur.ents.filter fun e => e.2.typ = typRoot && e.2.st ≠ keyFree).length < 16 → s.freeEntry = some e →
            answered src r stOk (e :: words64 (s.bur.gen + 1)) t ∧ t.bur.gen = s.bur.gen + 1 ∧
            t.key e = { st := keyValid, typ := typRoot, keyId := Arg r 0, material := m } ∧ ∀ i, i ≠ e → t.key i = s.key i))) ∧
  (∀ src args r s, accepted src 0x0302 r s →
    (Arg r 0 ≥ 1024 → Runs (.keyLoad src args) s fun t => answered src r stBadArg [] t ∧ t.bur = s.bur) ∧
    (Arg r 0 < 1024 → (s.key (Arg r 0)).st ≠ keyValid → Runs (.keyLoad src args) s fun t => answered src r stState [] t ∧ t.bur = s.bur) ∧
    (Arg r 0 < 1024 → (s.key (Arg r 0)).st = keyValid →
      (attrOk (s.key (Arg r 0)) (Arg r 2) = false ∨ s.keyIdUsed (Arg r 1) = true ∨ Arg r 3 = 0 →
        Runs (.keyLoad src args) s fun t => answered src r stBadArg [] t ∧ t.bur = s.bur) ∧
      (attrOk (s.key (Arg r 0)) (Arg r 2) = true → s.keyIdUsed (Arg r 1) = false → Arg r 3 ≠ 0 →
        Runs (.keyLoad src args) s fun t =>
          match Config.unwrap (s.key (Arg r 0)).material (nats (argBytes r 4 (if Arg r 2 / 4 % 8 = 2 then 6 else 10))) with
          | none => answered src r stAuth [] t ∧ t.bur = s.bur
          | some m => (s.freeEntry = none → answered src r stNoSpace [] t ∧ t.bur = s.bur) ∧
            (∀ e, s.freeEntry = some e → answered src r stOk (e :: words64 (s.bur.gen + 1)) t ∧ t.bur.gen = s.bur.gen + 1 ∧
              t.key e = { st := keyValid, typ := Arg r 2 % 4, parent := Arg r 0, keyId := Arg r 1, alg := Arg r 2 / 4 % 8,
                          purpose := Arg r 2 / 32 % 8, blvl := Arg r 2 / 256 % 4,
                          uses := if Arg r 3 = 0xFFFFFFFF then none else some (Arg r 3), expReset := (Arg r 2).testBit 10, material := m } ∧
              ∀ i, i ≠ e → t.key i = s.key i)))) ∧
  (∀ src args r s, accepted src 0x0303 r s →
    (Arg r 0 ≥ 1024 → Runs (.keyInvalidate src args) s fun t => answered src r stBadArg [] t ∧ t.bur = s.bur) ∧
    (Arg r 0 < 1024 → (s.key (Arg r 0)).st = keyFree ∨ (s.key (Arg r 0)).st = keyInvalid →
      Runs (.keyInvalidate src args) s fun t => answered src r stState [] t ∧ t.bur = s.bur) ∧
    (Arg r 0 < 1024 → (s.key (Arg r 0)).st ≠ keyFree → (s.key (Arg r 0)).st ≠ keyInvalid → Runs (.keyInvalidate src args) s fun t =>
      answered src r stOk (((s.descendants (Arg r 0)).filter fun d => (s.key d).st ≠ keyInvalid).length :: words64 s.effectTick) t ∧
      t.bur.gen = s.bur.gen + 1 ∧
      (s.ticking = true → (t.key (Arg r 0)).st = keyPending ∧ (t.key (Arg r 0)).material = (s.key (Arg r 0)).material ∧
        (∀ d ∈ s.descendants (Arg r 0), (s.key d).st ≠ keyInvalid → (t.key d).st = keyPending) ∧
        ∃ b, t.bur.effect = some b ∧ b ≤ s.tickInst s.effectTick) ∧
      (s.ticking = false → (t.key (Arg r 0)).st = keyInvalid ∧ (t.key (Arg r 0)).material = 0 ∧
        ∀ d ∈ s.descendants (Arg r 0), (s.key d).st ≠ keyInvalid → (t.key d).st = keyInvalid ∧ (t.key d).material = 0))) ∧
  (∀ src args r s, accepted src 0x0304 r s →
    (Arg r 0 ≥ 1024 → Arg r 0 ≠ 0xFFFF → Runs (.keyPurge src args) s fun t => answered src r stBadArg [] t ∧ t.bur = s.bur) ∧
    (Arg r 0 < 1024 → (s.key (Arg r 0)).st = keyInvalid → Runs (.keyPurge src args) s fun t => answered src r stOk [1] t ∧ t.key (Arg r 0) = {} ∧
      t.bur.gen = s.bur.gen + 1 ∧ ∀ i, i ≠ Arg r 0 → t.key i = s.key i) ∧
    (Arg r 0 < 1024 → (s.key (Arg r 0)).st ≠ keyInvalid → Runs (.keyPurge src args) s fun t => answered src r stState [] t ∧ t.bur = s.bur) ∧
    (Arg r 0 = 0xFFFF → smSorted s.bur.ents = true → Runs (.keyPurge src args) s fun t =>
      answered src r stOk [(s.bur.ents.filter fun e => e.2.st = keyInvalid).length] t ∧
      ∀ i, t.key i = if (s.key i).st = keyInvalid then {} else s.key i)) ∧
  (∀ src args r s, accepted src 0x0305 r s →
    (Arg r 0 < 1024 → (s.key (Arg r 0)).st = keyValid → (s.key (Arg r 0)).typ = typWork → (s.key (Arg r 0)).purpose = purHost →
      Runs (.keySelect src args) s fun t => answered src r stOk [] t ∧ t.bur = { s.bur with work := some (Arg r 0) } ∧
        t.rd fBUR_WORK_STS_ENTRY = Arg r 0) ∧
    (Arg r 0 = 0xFFFF → Runs (.keySelect src args) s fun t => answered src r stOk [] t ∧ t.bur = { s.bur with work := none } ∧
      t.rd fBUR_WORK_STS_VALID = 0) ∧
    (Arg r 0 ≠ 0xFFFF → Arg r 0 ≥ 1024 ∨ (s.key (Arg r 0)).st ≠ keyValid ∨ (s.key (Arg r 0)).typ ≠ typWork ∨ (s.key (Arg r 0)).purpose ≠ purHost →
      Runs (.keySelect src args) s fun t => answered src r stBadArg [] t ∧ t.bur = s.bur)) ∧
  (∀ src args data err r s, accepted src 0x0306 r s →
    (Arg r 0 > 1 ∨ (Arg r 1 ≠ 10 ∧ Arg r 1 ≠ 16 ∧ Arg r 1 ≠ 32) ∨ Arg64 r 2 % 64 ≠ 0 ∨ Arg r 4 > 1048576 →
      Runs (.hmac src args data err) s fun t => answered src r stBadArg [] t ∧ t.bur = s.bur) ∧
    (Arg r 0 ≤ 1 → Arg r 1 = 10 ∨ Arg r 1 = 16 ∨ Arg r 1 = 32 → Arg64 r 2 % 64 = 0 → Arg r 4 ≤ 1048576 →
      (s.workKey = none → Runs (.hmac src args data err) s fun t => answered src r stState [] t ∧ t.bur = s.bur) ∧
      (∀ i k, s.workKey = some (i, k) → k.alg ≠ 1 → Runs (.hmac src args data err) s fun t => answered src r stBadArg [] t ∧ t.bur = s.bur) ∧
      (∀ i k, s.workKey = some (i, k) → k.alg = 1 →
        (Arg r 0 = 0 → Runs (.hmac src args data false) s fun t => (t.key i).uses = (k.uses.map fun u => u - 1) ∧
          answered src r stOk ((if k.st = keyPending then 2 else 0) ::
            packWords (((be 32 (Config.hmac k.material (nats (data.take (Arg r 4))))).take (Arg r 1)) ++ List.replicate (32 - Arg r 1) 0)) t) ∧
        (Arg r 0 = 1 → Runs (.hmac src args data false) s fun t => (t.key i).uses = (k.uses.map fun u => u - 1) ∧
          answered src r stOk [(if k.st = keyPending then 2 else 0) +
            (if (argBytes r 5 8).take (Arg r 1) = (be 32 (Config.hmac k.material (nats (data.take (Arg r 4))))).take (Arg r 1) then 1 else 0)] t) ∧
        Runs (.hmac src args data true) s (fun t => answered src r stFault [] t ∧ t.bur = s.bur ∧ t.bit fMBX_FLT_FLAGS mfDma = true)))) ∧
  (∀ src args data err r s, accepted src 0x0307 r s →
    (Arg r 0 > 1 ∨ (Arg r 1 ≠ 8 ∧ Arg r 1 ≠ 16) ∨ Arg64 r 5 % 64 ≠ 0 ∨ Arg r 7 > 1048576 →
      Runs (.gmac src args data err) s fun t => answered src r stBadArg [] t ∧ t.bur = s.bur) ∧
    (Arg r 0 ≤ 1 → Arg r 1 = 8 ∨ Arg r 1 = 16 → Arg64 r 5 % 64 = 0 → Arg r 7 ≤ 1048576 →
      (s.workKey = none → Runs (.gmac src args data err) s fun t => answered src r stState [] t ∧ t.bur = s.bur) ∧
      (∀ i k, s.workKey = some (i, k) → k.alg ≠ 2 → k.alg ≠ 3 → Runs (.gmac src args data err) s fun t => answered src r stBadArg [] t ∧
        t.bur = s.bur) ∧
      (∀ i k, s.workKey = some (i, k) → k.alg = 2 ∨ k.alg = 3 →
        (Arg r 0 = 0 → Runs (.gmac src args data false) s fun t => (t.key i).uses = (k.uses.map fun u => u - 1) ∧
          answered src r stOk ((if k.st = keyPending then 2 else 0) ::
            packWords (((be 16 (Config.gmac k.alg k.material (nats (argBytes r 2 3)) (nats (data.take (Arg r 7))))).take (Arg r 1)) ++
              List.replicate (16 - Arg r 1) 0)) t) ∧
        (Arg r 0 = 1 → Runs (.gmac src args data false) s fun t => (t.key i).uses = (k.uses.map fun u => u - 1) ∧
          answered src r stOk [(if k.st = keyPending then 2 else 0) + (if (argBytes r 8 8).take (Arg r 1) =
            (be 16 (Config.gmac k.alg k.material (nats (argBytes r 2 3)) (nats (data.take (Arg r 7))))).take (Arg r 1) then 1 else 0)] t) ∧
        Runs (.gmac src args data true) s (fun t => answered src r stFault [] t ∧ t.bur = s.bur ∧ t.bit fMBX_FLT_FLAGS mfDma = true))))

/-- Chest, Snare and accounting commands (R353 to R355, R492 to R496): CHEST_COPY, CHEST_LID_COPY, SNARE_TRIGGER, SNARE_EXPORT, SNARE_NAND_LIST,
SNARE_NAND_READ, SNARE_NAND_DELETE and ACC_ZERO, each with its result and each completing. Bulk copies of records; a trigger; exports to the host
and to NAND; the files listed, read and deleted; a zeroing that waits for its commit; each refused, out of space, or ended by a failed DMA as
the command table says. -/
def Obligations.StoreCommands : Prop :=
  (∀ src args err r a s, accepted src 0x0401 r s →
    (Arg r 2 < 1 ∨ 65536 < Arg r 2 ∨ Arg64 r 3 % 64 ≠ 0 ∨ Arg r 5 < 256 ∨ 67108864 < Arg r 5 →
      Runs (.chestCopy src args err) s fun t => answered src r stBadArg [] t ∧ t.out = s.out) ∧
    (1 ≤ Arg r 2 → Arg r 2 ≤ 65536 → Arg64 r 3 % 64 = 0 → 256 ≤ Arg r 5 → Arg r 5 ≤ 67108864 →
      (a = copyRecs s (Arg r 2) (Arg r 5) (s.mram.chs.nextSeq - Arg64 r 0) { next := Arg64 r 0 } →
        Runs (.chestCopy src args false) s fun t => t.mram.chs = s.mram.chs ∧ a.count ≤ Arg r 2 ∧ a.bytes.length ≤ Arg r 5 ∧
          answered src r stOk ([a.count] ++ words64 a.next ++ [a.bytes.length, (if a.gone then 1 else 0) + (if a.skipped then 2 else 0)]) t ∧
          t.out = s.out ++ (if a.bytes = [] then [] else [.dma (Arg64 r 3) a.bytes])) ∧
      Runs (.chestCopy src args true) s (fun t => answered src r stFault [] t ∧ t.bit fMBX_FLT_FLAGS mfDma = true ∧ t.out = s.out))) ∧
  (∀ src args err r b s, accepted src 0x0402 r s →
    (Arg64 r 0 % 64 ≠ 0 ∨ Arg r 2 < 4096 → Runs (.chestLidCopy src args err) s fun t => answered src r stBadArg [] t ∧ t.out = s.out) ∧
    (Arg64 r 0 % 64 = 0 → 4096 ≤ Arg r 2 → b = (s.mram.chs.lid.map recBytes).flatten →
      Runs (.chestLidCopy src args false) s (fun t => answered src r stOk [s.mram.chs.lid.length] t ∧
        t.out = s.out ++ (if b = [] then [] else [.dma (Arg64 r 0) b])) ∧
      Runs (.chestLidCopy src args true) s (fun t => answered src r stFault [] t ∧ t.bit fMBX_FLT_FLAGS mfDma = true ∧ t.out = s.out))) ∧
  (∀ src args r s, accepted src 0x0501 r s →
    (Arg r 0 ≥ 4 ∨ s.snrCfg? (Arg r 0) = none → Runs (.snareTrigger src args) s fun t => answered src r stBadArg [] t ∧ t.snr = s.snr) ∧
    (∀ c, Arg r 0 < 4 → s.snrCfg? (Arg r 0) = some c → s.snr.defs.length = 4 →
      (s.ticking = false → Runs (.snareTrigger src args) s fun t => answered src r stState [] t ∧ t.snr = s.snr) ∧
      (s.ticking = true → s.rd (fSNR_DEF_STS_STATE (Arg r 0)) = snrArmed → SnrTerm.host ∈ c.terms → Runs (.snareTrigger src args) s fun t =>
        t.rd (fSNR_DEF_STS_STATE (Arg r 0)) = snrTriggered ∧ t.rd (fSNR_DEF_STS_CAUSE (Arg r 0)) = causeHost ∧
        (t.snrDef (Arg r 0)).t0 = max s.curTick (s.snrDef (Arg r 0)).armTick ∧
        answered src r stOk (snrTriggered :: words64 (max s.curTick (s.snrDef (Arg r 0)).armTick)) t) ∧
      (s.ticking = true → s.rd (fSNR_DEF_STS_STATE (Arg r 0)) = snrTriggered → Runs (.snareTrigger src args) s fun t =>
        answered src r stOk (snrTriggered :: words64 (s.snrDef (Arg r 0)).t0) t) ∧
      (s.ticking = true → s.rd (fSNR_DEF_STS_STATE (Arg r 0)) = snrIdle ∨ s.rd (fSNR_DEF_STS_STATE (Arg r 0)) = snrComplete →
        Runs (.snareTrigger src args) s fun t => answered src r stState [] t ∧ t.snr = s.snr ∧
          (SnrTerm.host ∈ c.terms → t.bit fSNR_FLT_FLAGS 3 = true)))) ∧
  (∀ src args err r s, accepted src 0x0502 r s →
    (r.memo ≠ [] → Runs (.snareExport src args err) s fun t => goesOn src r r.memo t ∧ t.out = s.out) ∧
    (r.memo = [] → Arg r 0 ≥ 4 ∨ Arg r 1 > 1 ∨ (Arg r 1 = 0 ∧ Arg64 r 2 % 64 ≠ 0) →
      Runs (.snareExport src args err) s fun t => answered src r stBadArg [] t ∧ t.out = s.out) ∧
    (r.memo = [] → Arg r 0 < 4 → Arg r 1 ≤ 1 → (Arg r 1 = 0 → Arg64 r 2 % 64 = 0) →
      ((s.snrDef (Arg r 0)).cfg = none ∨ s.rd (fSNR_DEF_STS_STATE (Arg r 0)) ≠ snrComplete →
        Runs (.snareExport src args err) s fun t => answered src r stState [] t ∧ t.out = s.out) ∧
      (∀ c, (s.snrDef (Arg r 0)).cfg = some c → s.rd (fSNR_DEF_STS_STATE (Arg r 0)) = snrComplete →
        (s.snrPending (Arg r 0) = true → Runs (.snareExport src args err) s fun t => goesOn src r [] t ∧ t.out = s.out) ∧
        (s.snrPending (Arg r 0) = false → Arg r 1 = 0 →
          ((s.snrFileBytes (Arg r 0) c).length > Arg r 4 → Runs (.snareExport src args err) s fun t => answered src r stNoSpace [] t ∧
            t.out = s.out) ∧
          ((s.snrFileBytes (Arg r 0) c).length ≤ Arg r 4 →
            (Runs (.snareExport src args false) s fun t => answered src r stOk (words64 (s.snrFileBytes (Arg r 0) c).length) t ∧
              t.snr = s.snr ∧ t.out = s.out ++ (if s.snrFileBytes (Arg r 0) c = [] then []
                else [.dma (Arg64 r 2) (s.snrFileBytes (Arg r 0) c)])) ∧
            (Runs (.snareExport src args true) s fun t => answered src r stFault [] t ∧ t.bit fSNR_FLT_FLAGS 5 = true ∧ t.out = s.out ∧
              t.rd (fSNR_DEF_STS_STATE (Arg r 0)) = snrComplete))) ∧
        (s.snrPending (Arg r 0) = false → Arg r 1 = 1 →
          ((s.snrFileBytes (Arg r 0) c).length ≤ s.snrFree → Runs (.snareExport src args err) s fun t =>
            goesOn src r [s.nand.snrNext] t ∧ t.rd (fSNR_DEF_STS_EXPORTING (Arg r 0)) = 1 ∧ t.nand.snr.length = s.nand.snr.length + 1) ∧
          ((s.snrFileBytes (Arg r 0) c).length > s.snrFree → Runs (.snareExport src args err) s fun t =>
            answered src r stNoSpace [] t ∧ t.nand = s.nand ∧ t.bit fSNR_FLT_FLAGS 4 = true))))) ∧
  (∀ src args err r b s, accepted src 0x0503 r s →
    (Arg64 r 0 % 64 ≠ 0 → Runs (.snareNandList src args err) s fun t => answered src r stBadArg [] t ∧ t.out = s.out) ∧
    (Arg64 r 0 % 64 = 0 → Arg r 2 < 32 * s.nand.snr.length → Runs (.snareNandList src args err) s fun t => answered src r stNoSpace [] t ∧
      t.out = s.out) ∧
    (Arg64 r 0 % 64 = 0 → 32 * s.nand.snr.length ≤ Arg r 2 → b = (s.nand.snr.map fileEntry).flatten →
      (Runs (.snareNandList src args false) s fun t => answered src r stOk [s.nand.snr.length] t ∧
        t.out = s.out ++ (if b = [] then [] else [.dma (Arg64 r 0) b]) ∧ t.nand = s.nand) ∧
      Runs (.snareNandList src args true) s fun t => answered src r stFault [] t ∧ t.bit fMBX_FLT_FLAGS mfDma = true ∧ t.out = s.out)) ∧
  (∀ src args err r s, accepted src 0x0504 r s →
    (s.nand.snr.find? (fun f => f.number = Arg r 0) = none ∨ Arg64 r 1 % 64 ≠ 0 →
      Runs (.snareNandRead src args err) s fun t => answered src r stBadArg [] t ∧ t.out = s.out) ∧
    (∀ f, s.nand.snr.find? (fun f => f.number = Arg r 0) = some f → Arg64 r 1 % 64 = 0 →
      (f.bytes.length > Arg r 3 → Runs (.snareNandRead src args err) s fun t => answered src r stNoSpace [] t ∧ t.out = s.out) ∧
      (f.bytes.length ≤ Arg r 3 →
        (Runs (.snareNandRead src args false) s fun t => answered src r stOk (words64 f.bytes.length) t ∧
          t.out = s.out ++ (if f.bytes = [] then [] else [.dma (Arg64 r 1) f.bytes])) ∧
        Runs (.snareNandRead src args true) s fun t => answered src r stFault [] t ∧ t.bit fMBX_FLT_FLAGS mfDma = true ∧ t.out = s.out))) ∧
  (∀ src args r s, accepted src 0x0505 r s →
    (Arg r 0 = 0xFFFFFFFF → Runs (.snareNandDelete src args) s fun t => answered src r stOk [s.nand.snr.length] t ∧ t.nand.snr = [] ∧
      t.nand.snrNext = 1) ∧
    (Arg r 0 ≠ 0xFFFFFFFF → (∃ f ∈ s.nand.snr, f.number = Arg r 0) → Runs (.snareNandDelete src args) s fun t =>
      (∀ f, f ∈ t.nand.snr ↔ f ∈ s.nand.snr ∧ f.number ≠ Arg r 0) ∧
      (t.nand.snr = [] → t.nand.snrNext = 1) ∧ (t.nand.snr ≠ [] → t.nand.snrNext = s.nand.snrNext) ∧
      answered src r stOk [(s.nand.snr.filter fun f => f.number = Arg r 0).length] t) ∧
    (Arg r 0 ≠ 0xFFFFFFFF → (∀ f ∈ s.nand.snr, f.number ≠ Arg r 0) → Runs (.snareNandDelete src args) s fun t =>
      answered src r stBadArg [] t ∧ t.nand = s.nand)) ∧
  (∀ src args r s, accepted src 0x0601 r s →
    (r.memo ≠ [] → Runs (.accZero src args) s fun t => goesOn src r r.memo t ∧ t.acc = s.acc) ∧
    (r.memo = [] → 511 < Arg r 0 → Arg r 0 ≠ 0xFFFF → Runs (.accZero src args) s fun t => answered src r stBadArg [] t ∧ t.acc = s.acc) ∧
    (r.memo = [] → Arg r 0 = 0xFFFF ∨ Arg r 0 ≤ 511 → s.img = none → Runs (.accZero src args) s fun t => answered src r stState [] t ∧
      t.acc = s.acc) ∧
    (∀ im, r.memo = [] → s.img = some im →
      (Arg r 0 ≠ 0xFFFF → im.acc.cuts.length ≤ Arg r 0 → Runs (.accZero src args) s fun t => answered src r stBadArg [] t ∧ t.acc = s.acc) ∧
      (Arg r 0 = 0xFFFF ∨ Arg r 0 < min 512 im.acc.cuts.length →
        (s.ticking = false ∨ s.pairRefuses r = true → Runs (.accZero src args) s fun t => answered src r stState [] t ∧ t.acc = s.acc) ∧
        (s.ticking = true → s.pairRefuses r = false → s.pairTells r = false → Runs (.accZero src args) s fun t =>
          goesOn src r [s.up + 2000000] t ∧ t.acc = { s.acc with zero := s.acc.zero ++ [(Arg r 0, s.up + 2000000, none)] }) ∧
        (s.ticking = true → s.pairRefuses r = false → s.pairTells r = true → Runs (.accZero src args) s fun t =>
          goesOn src r [s.up + 2000000] t ∧ t.acc = { s.acc with zero := s.acc.zero ++ [(Arg r 0, s.up + 2000000, some s.mirrorTick)] } ∧
          t.out = (s.sendMirror mirZero s.mirrorTick (Arg r 0)).out))))

/-- Pair commands (R414, R415, R420, R497): a handover of an ACTIVE module to a fit STANDBY; FORCE in UNSYNCED or SEEKING, with and without TAKE; a join. -/
def Obligations.PairCommands : Prop :=
  (∀ src args r s, accepted src 0x0701 r s →
    (r.memo ≠ [] → Runs (.pairHandover src args) s fun t => goesOn src r r.memo t ∧ t.pair = s.pair) ∧
    (r.memo = [] → s.paired = true → s.role = roleActive → s.rd fPAIR_STS_PARTNER_ROLE = roleStandby → s.partnerFit = true →
      Runs (.pairHandover src args) s fun t => goesOn src r [s.tickAhead 2000000] t ∧ t.pair.move = some (s.tickAhead 2000000, false) ∧
        t.role = roleActive ∧ t.out = (s.pairSend pmHandover (be 8 (s.tickAhead 2000000))).out) ∧
    (r.memo = [] → s.paired = false ∨ s.role ≠ roleActive ∨ s.rd fPAIR_STS_PARTNER_ROLE ≠ roleStandby ∨ s.partnerFit = false →
      Runs (.pairHandover src args) s fun t => answered src r stState [] t ∧ t.pair = s.pair)) ∧
  (∀ src args r s, accepted src 0x0702 r s →
    (r.memo ≠ [] → Runs (.pairForce src args) s fun t => goesOn src r r.memo t ∧ t.pair = s.pair) ∧
    (r.memo = [] → s.paired = false ∨ (s.role ≠ roleUnsynced ∧ s.role ≠ roleSeeking) → Runs (.pairForce src args) s fun t =>
      answered src r stState [] t ∧ t.pair = s.pair ∧ t.rd fPAIR_STS_FORCED = s.rd fPAIR_STS_FORCED) ∧
    (r.memo = [] → s.paired = true → s.role = roleUnsynced ∨ s.role = roleSeeking →
      (Arg r 0 % 2 = 0 → Runs (.pairForce src args) s fun t => answered src r stOk [s.role] t ∧ t.rd fPAIR_STS_FORCED = 1 ∧ t.pair = s.pair) ∧
      (Arg r 0 % 2 = 1 → s.partnerActive = false → Runs (.pairForce src args) s fun t => goesOn src r [1] t ∧ t.rd fPAIR_STS_FORCED = 1 ∧
        t.pair.move = some (s.curTick + 1, true)) ∧
      (Arg r 0 % 2 = 1 → s.partnerActive = true → Runs (.pairForce src args) s fun t => answered src r stState [] t ∧ t.pair = s.pair))) ∧
  (∀ src args r s, accepted src 0x0703 r s →
    (s.paired = true → s.role = roleUnsynced → Runs (.pairJoin src args) s fun t => answered src r stOk [] t ∧ t.role = roleJoining ∧
      t.pair = { s.pair with join := none, ownAtC := none }) ∧
    (s.paired = false ∨ s.role ≠ roleUnsynced → Runs (.pairJoin src args) s fun t => answered src r stState [] t ∧ t.role = s.role ∧
      t.pair = s.pair))

/-! ### Local measurement -/

/-- Sigma-delta channels and the estimator (R425 to R433, R437, R438): the samples since the output before go through the chain; an output is kept with
its time, saturated, and shown; the first after an over-range restarts the decimator, as a lost filter state does; a restart settles; a commit
keeps the tick's estimate and names the next tick. What the taps are is free (log entry 34). -/
def Obligations.SampleChannelRows : Prop :=
  (∀ (c : Fin 8) mods capA capB cyc held raw ovr s, s.lmf.running = true → s.sdOn c = true → mods.length = sdDecim (s.sdPreset c) →
    s.lmf.chans.length = 8 → held = (if s.sdPreset c = 3 then mods else (mods ++ (s.sdChan c).mods).take (sdSpan (s.sdPreset c))) →
    ((s.sdChan c).restarting = true →
      exec (.sdOutput c mods capA capB cyc false) s = .next (s.setSd c { s.sdChan c with mods := held })) ∧
    ((s.sdChan c).restarting = false → raw = sdCode (s.sdPreset c) held → ovr = ((held.any fun m => m.beyond) || raw.natAbs > 8388607) →
      Runs (.sdOutput c mods capA capB cyc false) s fun t =>
        if (!ovr && (s.sdChan c).last.any fun l => l.ovr) = true then
          (t.sdChan c).restarting = true ∧ (t.sdChan c).readyAt = s.up + sdSettle (s.sdPreset c) ∧ (t.sdChan c).mods = [] ∧
            (t.sdChan c).last = none ∧ t.rd (fLMF_SD_CFG_RESTARTING c) = 1 ∧ (t.sdChan c).outs = (s.sdChan c).outs
        else ∃ o, (t.sdChan c).last = some o ∧ o ∈ (t.sdChan c).outs ∧ (t.sdChan c).mods = held ∧ o.ovr = ovr ∧
          o.code = (if ovr then (if raw < 0 then -8388607 else 8388607) else raw) ∧ o.time = s.sdTime c capA capB cyc ∧
          o.gap = ((s.sdChan c).fresh || sdJump (s.sdPreset c) (s.sdChan c).last o.time) ∧
          t.rd (fLMF_SD_LAST_CODE c) = ofSigned 24 o.code % 2 ^ 24 ∧ (t.rd (fLMF_SD_LAST_OVR c) = 1 ↔ ovr = true) ∧
          (t.rd (fLMF_SD_LAST_GAP c) = 1 ↔ o.gap = true) ∧
          (ovr = true → t.rd (fLMF_SD_OVR_CNT_OUTPUTS c) = satAdd (fLMF_SD_OVR_CNT_OUTPUTS c).w (s.rd (fLMF_SD_OVR_CNT_OUTPUTS c)) 1))) ∧
  (∀ (c : Fin 8) mods capA capB cyc s, s.lmf.running = true → s.sdOn c = true → mods.length = sdDecim (s.sdPreset c) → s.lmf.chans.length = 8 →
    Runs (.sdOutput c mods capA capB cyc true) s fun t => (t.sdChan c).restarting = true ∧ (t.sdChan c).mods = [] ∧
      (t.sdChan c).readyAt = s.up + sdSettle (s.sdPreset c) ∧ t.rd (fLMF_SD_CFG_RESTARTING c) = 1) ∧
  (∀ (c : Fin 8) mods capA capB cyc ue s, s.lmf.running = false ∨ s.sdOn c = false ∨ mods.length ≠ sdDecim (s.sdPreset c) →
    exec (.sdOutput c mods capA capB cyc ue) s = .next s) ∧
  (∀ (c : Fin 8) s, s.lmf.running = true → (s.sdChan c).restarting = true → s.lmf.chans.length = 8 →
    (s.up ≥ (s.sdChan c).readyAt → Runs (.sdRestartSettled c) s fun t => t.sdChan c = { s.sdChan c with restarting := false, fresh := true } ∧
      t.rd (fLMF_SD_CFG_RESTARTING c) = 0) ∧
    (s.up < (s.sdChan c).readyAt → exec (.sdRestartSettled c) s = .next s)) ∧
  (∀ n s, s.lmf.running = true → s.ticking = true → n = s.lmf.next →
    (s.clv.now ≥ s.tickInst n + s.estDelay →
      Runs (.localEstimateCommit n) s fun t => t.lmf.next = (s.nextRun n).1 ∧ t.lmf.hist.length ≤ 3 ∧
        (t.rd fLMF_STS_RUNNING = 1 ↔ s.on fLMF_CFG_SLOT0 = true) ∧
        ∃ e, t.lmf.hist.head? = some e ∧ e.tick = n ∧ (e.f.isSome = true → e.v1.isSome = true) ∧ (t.rd fLMF_STS_FREQ_VALID = 1 ↔ e.f.isSome = true)) ∧
    (s.clv.now < s.tickInst n + s.estDelay → exec (.localEstimateCommit n) s = .next s))

/-- Integrating converters (R439 to R447, R451): a conversion's code joins its averaging run, and a run that is complete is queued; one in progress when REF
was written is discarded; a plausibility pair counts its passes and fails; the next conversion starts as one ends; REF settles; a read of QTIME
removes the head of the queue. -/
def Obligations.ConverterRows : Prop :=
  (∀ a b r s, s.lmf.running = true → s.up ≥ s.convEnd → s.lmf.plausNow = false → s.lmf.icv.length = 2 → (s.icv 0).discard = false →
    (s.icv 0).run = some r →
    ((s.icv 0).codes.length + 1 < r.n → Runs (.icvConversionEnd a b) s fun t => (t.icv 0).run = some r ∧
      (t.icv 0).codes = (s.icv 0).codes ++ [(max 0 (min (icvRaw a) 0xFFFFFF)).toNat] ∧ (t.icv 0).queue = (s.icv 0).queue) ∧
    ((s.icv 0).codes.length + 1 ≥ r.n → (s.icv 0).queue.length < 64 → Runs (.icvConversionEnd a b) s fun t =>
      (t.icv 0).codes = [] ∧ ∃ q, (t.icv 0).queue = (s.icv 0).queue ++ [q] ∧
        q.val = min (roundDiv ((s.icv 0).codes ++ [(max 0 (min (icvRaw a) 0xFFFFFF)).toNat]).sum (2 ^ r.s)) 0xFFFFFFFF)) ∧
  (∀ a b s, s.lmf.running = true → s.up ≥ s.convEnd → s.lmf.plausNow = false → s.lmf.icv.length = 2 → (s.icv 0).discard = true →
    Runs (.icvConversionEnd a b) s fun t => (t.icv 0).discard = false ∧ (t.icv 0).queue = (s.icv 0).queue ∧
      ∀ r, (s.icv 0).run = some r → t.icv 0 = { s.icv 0 with discard := false }) ∧
  (∀ a b s, s.lmf.running = true → s.up ≥ s.convEnd → Runs (.icvConversionEnd a b) s fun t => t.lmf.convUp = s.convEnd ∧
    t.rd fLMF_CYCLE_STS_T_M_NS = s.cycle.1 % 2 ^ fLMF_CYCLE_STS_T_M_NS.w ∧ t.lmf.nominal = s.cycle.2) ∧
  (∀ a b s, s.lmf.running = false ∨ s.up < s.convEnd → exec (.icvConversionEnd a b) s = .next s) ∧
  (∀ (a b : IcvIn) (x y : Nat) s, s.lmf.running = true → s.up ≥ s.convEnd → s.lmf.plausNow = true → s.lmf.icv.length = 2 →
    (s.icv 0).discard = false → (s.icv 1).discard = false → a.fault = false → b.fault = false → icvRaw a = x → icvRaw b = y →
    x ≤ 0xFFFFFF → y ≤ 0xFFFFFF → s.rd (fLMF_ICV_STS_SETTLING 0) = 0 → s.rd (fLMF_ICV_STS_SETTLING 1) = 0 →
    (((((x * 2 * s.refMv 0 * 100 : Nat) : Int) - (y * 2 * s.refMv 1 * 100 : Nat)).natAbs ≤ s.rd fLMF_PLAUS_CFG_TOL * 2 ^ 24 →
      Runs (.icvConversionEnd a b) s fun t => t.lmf.passes = s.lmf.passes + 1 ∧ t.rd fLMF_PLAUS_STS_FAILS = 0 ∧
        (s.lmf.passes + 1 ≥ s.rd fLMF_PLAUS_CFG_PLAUS_N → t.rd fLMF_PLAUS_STS_FAIL = 0)) ∧
     ((((x * 2 * s.refMv 0 * 100 : Nat) : Int) - (y * 2 * s.refMv 1 * 100 : Nat)).natAbs > s.rd fLMF_PLAUS_CFG_TOL * 2 ^ 24 →
      Runs (.icvConversionEnd a b) s fun t => t.lmf.passes = 0 ∧
        t.rd fLMF_PLAUS_STS_FAILS = min 255 (s.rd fLMF_PLAUS_STS_FAILS + 1) ∧
        (min 255 (s.rd fLMF_PLAUS_STS_FAILS + 1) ≥ s.rd fLMF_PLAUS_CFG_PLAUS_N → t.rd fLMF_PLAUS_STS_FAIL = 1 ∧ t.bit fLMF_FLT_FLAGS 5 = true)))) ∧
  (∀ (x : Fin 2) e s, (s.icv x).settleAt = some e → s.lmf.icv.length = 2 →
    (s.up ≥ e → Runs (.icvRefSettled x) s fun t => t.icv x = { s.icv x with settleAt := none } ∧ t.rd (fLMF_ICV_STS_SETTLING x) = 0) ∧
    (s.up < e → exec (.icvRefSettled x) s = .next s)) ∧
  (∀ (x : Fin 2) (v : Fin 4) s, (v : Nat) ≠ 3 → (v : Nat) ≠ s.rd (fLMF_ICV_CFG_REF x) → s.lmf.icv.length = 2 →
    Runs (.icvRefWrite x v) s fun t => t.rd (fLMF_ICV_CFG_REF x) = v ∧ t.rd (fLMF_ICV_STS_SETTLING x) = 1 ∧
      t.icv x = { s.icv x with discard := true, codes := [], flags := 0,
                               settleAt := some (s.up + if (v : Nat) = 1 then 20000000 else 5000000) }) ∧
  (∀ (x : Fin 2) (v : Fin 4) s, (v : Nat) = 3 ∨ (v : Nat) = s.rd (fLMF_ICV_CFG_REF x) → exec (.icvRefWrite x v) s = .next s) ∧
  (∀ (x : Fin 2) s, s.lmf.icv.length = 2 →
    Runs (.icvQueuePop x) s fun t => (t.icv x).queue = (s.icv x).queue.drop 1 ∧
      t.out = s.out ++ [.readData (rLMF_ICV_QTIME x) (s.rd (fLMF_ICV_QTIME_NS32 x))])

/-! ### The Bench -/

/-- The Bench (R394 to R396, R500, R506, R512, R516, R517): the session opens and closes; a line that reads prints what it reads and OK, and changes nothing
it reads; one outside its limits is refused. -/
def Obligations.BenchRows : Prop :=
  (∀ s, s.stewAlive = true → s.bench.open_ = false →
    Runs .benchSessionOpen s fun t => t.bench = { s.bench with open_ := true, openedAt := s.up, lastIn := s.up } ∧ t.out = s.out) ∧
  (∀ s, s.bench.open_ = true → s.up ≥ s.bench.lastIn + 900000000000 →
    Runs .benchIdleTimeout s fun t => t.bench.open_ = false ∧ t.bench.chal = none ∧ t.rd fBUR_BENCH_STS_LEVEL = 0) ∧
  (∀ e s, s.bench.lockTo = some e → s.up ≥ e → exec .benchLockoutExpiry s = .next { s with bench := { s.bench with lockTo := none } }) ∧
  (∀ s, s.stewAlive = true → s.bench.open_ = true →
    Runs .logout s fun t => t.bench.open_ = false ∧ t.rd fBUR_BENCH_STS_LEVEL = 0 ∧ t.out = s.out ++ [.bench "OK" []]) ∧
  (∀ s, s.stewAlive = true → s.bench.open_ = true →
    (Runs .help s fun t => t = { s with bench := { s.bench with lastIn := s.up }, out := s.out ++ [.bench "help" [], .bench "OK" []] }) ∧
    (Runs .who s fun t => ∃ vals, t = { s with bench := { s.bench with lastIn := s.up }, out := s.out ++ [.bench "who" vals, .bench "OK" []] } ∧
      vals.head? = some (s.rd fBUR_BENCH_STS_LEVEL) ∧ vals.getLast? = some ((s.up - s.bench.openedAt) / 1000000000)) ∧
    (Runs .status s fun t => ∃ vals, t = { s with bench := { s.bench with lastIn := s.up }, out := s.out ++ [.bench "status" vals, .bench "OK" []] } ∧
      vals.take 5 = [s.rd fSYS_PWR_STS_START_STAGE, s.clvState, s.rd fCLV_STS_TICKING, s.role, s.rd fTMB_SLACK_STS_SLACK_NS])) ∧
  (∀ off n s, s.stewAlive = true → s.bench.open_ = true →
    (off % 4 = 0 → off + 4 * n ≤ 0x1000000 → 1 ≤ n → n ≤ 64 → Runs (.rd off n) s fun t => ∃ vals : List Nat, vals.length = n ∧
      t = { s with bench := { s.bench with lastIn := s.up }, out := s.out ++ [.bench "rd" (off :: vals), .bench "OK" []] }) ∧
    (off % 4 ≠ 0 ∨ off + 4 * n > 0x1000000 ∨ n = 0 ∨ 64 < n → Runs (.rd off n) s fun t =>
      t = { s with bench := { s.bench with lastIn := s.up }, out := s.out ++ [.bench "ERR" [stBadArg]] })) ∧
  (∀ first n s, s.stewAlive = true → s.bench.open_ = true → 1 ≤ n → first + n ≤ 512 →
    Runs (.ctrSnap first n) s fun t => t.regs = s.regs ∧ t.out = s.out ++ [.bench "ctr snap" (s.rd64 fPMC_SNAP_TICK_LO_N_LO ::
      (List.range n).map fun k => s.rd (fPMC_SNAP_LO_V_LO (first + k)) + 2 ^ 32 * s.rd (fPMC_SNAP_HI_V_HI (first + k))), .bench "OK" []]) ∧
  (∀ (j : Fin 512) s, s.stewAlive = true → s.bench.open_ = true → (counterOf s.img j).event < 0x368 ∨ 0x36A < (counterOf s.img j).event →
    Runs (.ctrPort j) s fun t => t.regs = s.regs ∧ t.pmc = s.pmc ∧
      t.out = s.out ++ [.bench "ctr port" ([s.clv.now % 2 ^ 32, smGet 0 s.pmc.ctrs j] ++
        (if (counterOf s.img j).chain = true then [smGet 0 s.pmc.ctrs (j + 1)] else [])), .bench "OK" []]) ∧
  (∀ n s, s.stewAlive = true → s.bench.open_ = true → 1 ≤ n → n ≤ 16 →
    Runs (.trace n) s fun t => t.pmc = s.pmc ∧ t.out = s.out ++ [.bench "trace" (s.pmc.ring.drop (s.pmc.ring.length - n)).flatten, .bench "OK" []]) ∧
  (∀ first n seq m k s, s.stewAlive = true → s.bench.open_ = true → n = 0 ∨ first + n > 512 → m = 0 ∨ 16 < m → k = 0 ∨ 16 < k →
    ∀ i ∈ [Instr.ctrSnap first n, .trace m, .chest seq k],
      exec i s = .next { s with bench := { s.bench with lastIn := s.up }, out := s.out ++ [.bench "ERR" [stBadArg]] }) ∧
  (∀ seq n s, s.stewAlive = true → s.bench.open_ = true → 1 ≤ n → n ≤ 16 →
    Runs (.chest seq n) s fun t => t.mram = s.mram ∧ t.out.length = s.out.length + n + 1 ∧ t.out.getLast? = some (.bench "OK" []))

/-- Levels at the Bench and its writes (R394 to R397, R515, R517): LOGIN grants TUNE where TUNE_OPEN allows it, gives a challenge, or refuses it during a lockout;
ANSWER grants the level to the holder of a key, and counts a wrong one, the third of which locks; WR needs its level and is done as a host write. -/
def Obligations.LevelRows : Prop :=
  (∀ s, s.stewAlive = true → s.bench.open_ = true → s.on fBUR_BENCH_CFG_TUNE_OPEN = true →
    Runs (.login false) s fun t => t.rd fBUR_BENCH_STS_LEVEL = 1 ∧ t.bench.key = none ∧ t.bench.wrong = 0 ∧ t.out = s.out ++ [.bench "OK" [1]]) ∧
  (∀ service s, s.stewAlive = true → s.bench.open_ = true → (service = false → s.on fBUR_BENCH_CFG_TUNE_OPEN = false) →
    (s.bench.lockTo = none → Runs (.login service) s fun t => t.regs = s.regs ∧ t.fv = s.fv + 1 ∧ ∃ nonce,
      t.bench = { s.bench with lastIn := s.up, chal := some (if service then 2 else 1, nonce, s.up) } ∧
      t.out = s.out ++ [.bench "challenge" [nonce], .bench "OK" []]) ∧
    (s.bench.lockTo.isSome = true → Runs (.login service) s fun t => t.bench = { s.bench with lastIn := s.up } ∧
      t.out = s.out ++ [.bench "ERR" [stState]])) ∧
  (∀ ans s, s.stewAlive = true → s.bench.open_ = true → s.bench.chal = none →
    Runs (.answer ans) s fun t => t.bench = { s.bench with lastIn := s.up } ∧ t.out = s.out ++ [.bench "ERR" [stState]]) ∧
  (∀ ans level nonce at_ s, s.stewAlive = true → s.bench.open_ = true → s.bench.chal = some (level, nonce, at_) → level = 1 ∨ level = 2 →
    (s.up > at_ + 60000000000 → Runs (.answer ans) s fun t => t.bench.chal = none ∧ t.out = s.out ++ [.bench "ERR" [stState]] ∧
      t.regs = s.regs) ∧
    (s.up ≤ at_ + 60000000000 → Runs (.answer ans) s fun t => t.bench.chal = none ∧
      match s.benchKey level nonce ans with
      | some k => t.rd fBUR_BENCH_STS_LEVEL = level ∧ t.bench.key = some k ∧ t.out = s.out ++ [.bench "OK" [level]]
      | none => t.bit fBUR_FLT_FLAGS 7 = true ∧ t.out = s.out ++ [.bench "ERR" [stAuth]] ∧
        (s.bench.wrong < 2 → t.bench.wrong = s.bench.wrong + 1 ∧ t.bench.lockTo = s.bench.lockTo) ∧
        (s.bench.wrong = 2 → t.bench.wrong = 0 ∧ t.bench.lockTo = some (s.up + s.bench.lockLen * 1000000000) ∧
          t.bench.lockLen = min 3600 (s.bench.lockLen * 2)))) ∧
  (∀ off val s, s.stewAlive = true → s.bench.open_ = true → off % 4 ≠ 0 ∨ 0x1000000 ≤ off →
    Runs (.wr off val) s fun t => t.regs = s.regs ∧ t.out = s.out ++ [.bench "ERR" [stBadArg]]) ∧
  (∀ off val s, s.stewAlive = true → s.bench.open_ = true → off % 4 = 0 → off < 0x1000000 →
    (s.rd fBUR_BENCH_STS_LEVEL < wrLevel off ∨ aliasOf off / 0x10000 = 0x14 → Runs (.wr off val) s fun t => t.regs = s.regs ∧
      t.out = s.out ++ [.bench "ERR" [stState]]) ∧
    (s.rd fBUR_BENCH_STS_LEVEL ≥ wrLevel off → aliasOf off / 0x10000 ≠ 0x14 → s.recordsMode (aliasOf off) val = true →
      exec (.wr off val) s = .next ((busWrite off val false { s with bench := { s.bench with lastIn := s.up } }).emit (.bench "OK" []))) ∧
    (s.rd fBUR_BENCH_STS_LEVEL ≥ wrLevel off → aliasOf off / 0x10000 ≠ 0x14 → s.recordsMode (aliasOf off) val = false →
      Runs (.wr off val) s fun t => t.out =
        (busWrite off val false { s with bench := { s.bench with lastIn := s.up } }).out ++ [.bench "OK" []]))

/-! ### Counters and perturbation -/

/-- Counters and the trace ring (R504, R506, R510, R512): a selected counter is sampled with its instant; the oldest tagged frame that has ended gives the next entry;
a selection shows an entry that is held. -/
def Obligations.CounterRows : Prop :=
  (∀ (j : Fin 512) s, (counterOf s.img j).event < 0x368 ∨ 0x36A < (counterOf s.img j).event →
    Runs (.pmcPortSel j) s fun t => t.rd fPMC_PORT_SEL_CTR = j ∧ t.rd fPMC_PORT_LO_V_LO = smGet 0 s.pmc.ctrs j % 2 ^ 32 ∧
      t.rd fPMC_PORT_HI_V_HI = smGet 0 s.pmc.ctrs j / 2 ^ 32 % 2 ^ 16 ∧ t.rd fPMC_PORT_TIME_NS32 = s.clv.now % 2 ^ 32 ∧
      (t.rd fPMC_PORT_HI_VALID = 1 ↔ (counterOf s.img j).port = true) ∧ (t.rd fPMC_PORT_HI_CHAINED = 1 ↔ (counterOf s.img j).chain = true) ∧
      ((counterOf s.img j).chain = true → t.rd fPMC_PORT_X_LO_X_LO = smGet 0 s.pmc.ctrs (j + 1) % 2 ^ 32 ∧
        t.rd fPMC_PORT_X_HI_X_HI = smGet 0 s.pmc.ctrs (j + 1) / 2 ^ 32 % 2 ^ 16)) ∧
  (∀ e s, s.pmc.opened.find? (fun e => e.ended) = some e →
    Runs .traceEntryWrite s fun t => t.pmc.opened = s.pmc.opened.erase e ∧ t.pmc.ring.getLast? = some (traceWords (s.rd fPMC_TRACE_STS_WR) e) ∧
      (s.pmc.ring.length ≤ 4096 → t.pmc.ring.length ≤ 4096) ∧ t.rd fPMC_TRACE_STS_WR = (s.rd fPMC_TRACE_STS_WR + 1) % 2 ^ 32) ∧
  (∀ seq ue s, seq < 2 ^ 32 →
    Runs (.pmcTraceSel seq ue) s fun t => t.rd fPMC_TRACE_SEL_SEQ = seq ∧ t.pmc = s.pmc ∧
      (t.rd fPMC_TRACE_RD_STS_NOT_YET = 1 ↔ s.rd fPMC_TRACE_STS_WR ≤ seq) ∧
      (t.rd fPMC_TRACE_RD_STS_VALID = 1 ↔ seq < s.rd fPMC_TRACE_STS_WR ∧ s.rd fPMC_TRACE_STS_WR ≤ seq + s.pmc.ring.length ∧ ue = false) ∧
      (t.rd fPMC_TRACE_RD_STS_FAULT = 1 ↔ seq < s.rd fPMC_TRACE_STS_WR ∧ s.rd fPMC_TRACE_STS_WR ≤ seq + s.pmc.ring.length ∧ ue = true) ∧
      (t.rd fPMC_TRACE_RD_STS_GONE = 1 ↔ seq + s.pmc.ring.length < s.rd fPMC_TRACE_STS_WR))

/-- The perturbation unit (R513 to R515): EN is set only in a SERVICE session; an action's bit is set and cleared alone; an arm takes its settings, its lanes stop
at its start and go on at its end; back-pressure changes phase. -/
def Obligations.PerturbationRows : Prop :=
  (∀ s, (s.rd fBUR_BENCH_STS_LEVEL = 2 → Runs (.tstEn true) s fun t => t.rd fTST_CTL_EN = 1 ∧ t.rd fTST_STS_EN = 1 ∧
      (s.rd fTST_CTL_EN ≤ 1 → t.rd fTST_CTL_ACT_EN = s.rd fTST_CTL_ACT_EN % 128)) ∧
    (s.rd fBUR_BENCH_STS_LEVEL ≠ 2 → Runs (.tstEn true) s fun t => t.rd fTST_CTL_EN = s.rd fTST_CTL_EN ∧ t.bit fTST_FLT_FLAGS 0 = true ∧
      t.tst = s.tst) ∧
    Runs (.tstEn false) s fun t => t.rd fTST_CTL_EN = 0 ∧ t.tst.arm = none ∧ t.tst.bpOn = false ∧ t.rd fTST_ECC_STS_REMAIN = 0) ∧
  (∀ x ∈ [(Instr.portDelay, 0), (.egrBp, 1), (.laneStall, 2), (.cdcStretch, 3), (.closeShift, 4), (.eccInject, 5), (.timeSkew, 6)], ∀ on s,
    s.rd fTST_CTL_EN = 0 ∨ s.rd fTST_CTL_EN = 1 ∧ s.rd fBUR_BENCH_STS_LEVEL = 2 →
    Runs (x.1 on) s fun t => t.rd fTST_CTL_EN = s.rd fTST_CTL_EN ∧
      ∀ k < 7, (t.rd fTST_CTL_ACT_EN).testBit k = if k = x.2 then on else (s.rd fTST_CTL_ACT_EN).testBit k) ∧
  (∀ s, s.rd fTST_CTL_EN = 1 → s.rd fBUR_BENCH_STS_LEVEL = 2 → (s.rd fTST_CTL_ACT_EN).testBit 5 = false →
    Runs (.eccInject true) s fun t => t.rd fTST_ECC_STS_REMAIN = s.rd fTST_ECC_CFG_COUNT % 2 ^ fTST_ECC_STS_REMAIN.w) ∧
  (∀ s, s.action 3 = true → (∀ a, s.tst.arm = some a → a.on = false) →
    Runs .stallArm s fun t => ∃ a, t = { s with tst := { s.tst with arm := some a } } ∧ a.mask = s.rd fTST_STALL_MASK_LANES ∧
      a.ofsUs = s.rd fTST_STALL_OFS_OFS_US ∧ a.durUs = s.rd fTST_STALL_DUR_DUR_US ∧ (a.rep = true ↔ s.on fTST_STALL_CFG_REPEAT = true)) ∧
  (∀ a st s, s.tst.arm = some a → a.start = some st → a.on = false → s.clv.now ≥ st →
    Runs .laneStallStart s fun t => t.tst.arm = some { a with on := true } ∧
      ∀ p < 32, a.mask.testBit p = true → t.bit (fLANE_FLT_FLAGS p) 3 = true ∧ t.laneStalled p = true) ∧
  (∀ a st s, s.tst.arm = some a → a.start = some st → a.on = true → s.clv.now ≥ st + a.durUs * 1000 →
    Runs .laneStallEnd s fun t => t.tst.arm = (if a.rep then some { a with on := false, start := none } else none) ∧
      ∀ p < 32, t.laneStalled p = false) ∧
  (∀ s, s.action 2 = true →
    (s.rd fTST_EBP_PER_PERIOD_US = 0 → Runs .egrBpPhase s fun t => t.tst.bpOn = true) ∧
    (0 < s.rd fTST_EBP_PER_PERIOD_US → s.up ≥ s.tst.bpStart + s.rd fTST_EBP_PER_PERIOD_US * 1000 →
      Runs .egrBpPhase s fun t => t.tst.bpOn = true ∧ t.tst.bpStart = s.tst.bpStart + s.rd fTST_EBP_PER_PERIOD_US * 1000) ∧
    (0 < s.rd fTST_EBP_PER_PERIOD_US → s.up < s.tst.bpStart + s.rd fTST_EBP_PER_PERIOD_US * 1000 → s.tst.bpOn = true →
      s.up ≥ s.tst.bpStart + s.rd fTST_EBP_CFG_ON_US * 1000 → Runs .egrBpPhase s fun t => t.tst.bpOn = false ∧ t.tst.bpStart = s.tst.bpStart))
end

