-- ==== Sys2Proof/Laws/Map.lean ====
section
/-!
SUPPORT. Sparse tables: a key reads what was written to it, every other key reads as before, and the keys stay in order.
-/

namespace Sys2Proof.Machine

theorem smGet_smInsert_self {α : Type} (d : α) (m : SMap α) (i : Nat) (v : α) : smGet d (smInsert m i v) i = v := by
  induction m with
  | nil => simp [smInsert, smGet]
  | cons a m ih =>
    obtain ⟨k, w⟩ := a
    unfold smInsert
    split
    · simp [smGet]
    · split
      · simp [smGet]
      · rename_i h
        simp [smGet, h, ih]

theorem smGet_smInsert_ne {α : Type} (d : α) (m : SMap α) {i j : Nat} (v : α) (h : j ≠ i) : smGet d (smInsert m i v) j = smGet d m j := by
  induction m with
  | nil => simp [smInsert, smGet, h]
  | cons a m ih =>
    obtain ⟨k, w⟩ := a
    unfold smInsert
    split
    · simp [smGet, h]
    · split
      · rename_i hk
        subst hk
        simp [smGet, h]
      · simp [smGet, ih]

theorem smGet_smErase_self {α : Type} (d : α) (m : SMap α) (i : Nat) : smGet d (smErase m i) i = d := by
  induction m with
  | nil => rfl
  | cons a m ih =>
    obtain ⟨k, w⟩ := a
    unfold smErase at ih ⊢
    rw [List.filter_cons]
    split
    · rename_i h
      simp only [decide_eq_true_eq] at h
      rw [smGet, if_neg (Ne.symm h)]
      exact ih
    · exact ih

theorem smGet_smErase_ne {α : Type} (d : α) (m : SMap α) {i j : Nat} (h : j ≠ i) : smGet d (smErase m i) j = smGet d m j := by
  induction m with
  | nil => rfl
  | cons a m ih =>
    obtain ⟨k, w⟩ := a
    unfold smErase at ih ⊢
    rw [List.filter_cons]
    split
    · unfold smGet
      rw [ih]
    · rename_i hk
      have hk : k = i := by simpa using hk
      rw [smGet, hk, if_neg h]
      exact ih

/-- A key reads what was written to it. -/
theorem smGet_smSet_self {α : Type} [DecidableEq α] (d : α) (m : SMap α) (i : Nat) (v : α) : smGet d (smSet d m i v) i = v := by
  unfold smSet
  split
  · rename_i h
    rw [smGet_smErase_self, h]
  · exact smGet_smInsert_self ..

/-- A write leaves every other key alone. -/
theorem smGet_smSet_ne {α : Type} [DecidableEq α] (d e : α) (m : SMap α) {i j : Nat} (v : α) (h : j ≠ i) :
    smGet e (smSet d m i v) j = smGet e m j := by
  unfold smSet
  split
  · exact smGet_smErase_ne _ _ h
  · exact smGet_smInsert_ne _ _ _ h

theorem smErase_keys {α : Type} (m : SMap α) (i : Nat) (h : (m.map Prod.fst).Pairwise (· < ·)) :
    ((smErase m i).map Prod.fst).Pairwise (· < ·) :=
  h.sublist (List.filter_sublist.map _)

theorem smInsert_mem {α : Type} (m : SMap α) (i : Nat) (v : α) (k : Nat) (h : k ∈ (smInsert m i v).map Prod.fst) :
    k = i ∨ k ∈ m.map Prod.fst := by
  induction m with
  | nil => simpa [smInsert] using h
  | cons a m ih =>
    obtain ⟨x, w⟩ := a
    unfold smInsert at h
    split at h
    · simpa using h
    · split at h
      · simp only [List.map_cons, List.mem_cons] at h ⊢
        tauto
      · simp only [List.map_cons, List.mem_cons] at h ⊢
        rcases h with h | h
        · exact Or.inr (Or.inl h)
        · rcases ih h with h | h <;> tauto

theorem smInsert_keys {α : Type} (m : SMap α) (i : Nat) (v : α) (h : (m.map Prod.fst).Pairwise (· < ·)) :
    ((smInsert m i v).map Prod.fst).Pairwise (· < ·) := by
  induction m with
  | nil => simp [smInsert]
  | cons a m ih =>
    obtain ⟨x, w⟩ := a
    simp only [List.map_cons, List.pairwise_cons] at h
    unfold smInsert
    split
    · rename_i hi
      simp only [List.map_cons, List.pairwise_cons, List.mem_cons]
      refine ⟨?_, h⟩
      rintro k (rfl | hk)
      · exact hi
      · exact hi.trans (h.1 k hk)
    · split
      · rename_i hi
        subst hi
        simpa using h
      · simp only [List.map_cons, List.pairwise_cons]
        refine ⟨?_, ih h.2⟩
        intro k hk
        rcases smInsert_mem m i v k hk with rfl | hk
        · omega
        · exact h.1 k hk

theorem smSet_keys {α : Type} [DecidableEq α] (d : α) (m : SMap α) (i : Nat) (v : α) (h : (m.map Prod.fst).Pairwise (· < ·)) :
    ((smSet d m i v).map Prod.fst).Pairwise (· < ·) := by
  unfold smSet
  split
  · exact smErase_keys m i h
  · exact smInsert_keys m i v h

end Sys2Proof.Machine
end

