-- ==== Sys2Proof/Laws/Kept.lean ====
section
/-!
SUPPORT. What every operation of the model keeps: the invariant, what lasts, and the parts of the state it does not touch. The files beside
this one hold one lemma per operation.
-/

namespace Sys2Proof.Machine

/-- The number of a part in a mask. -/
def Part.num : Part → Nat
  | .regs => 0 | .pwr => 1 | .dom => 2 | .clv => 3 | .ports => 4 | .dup => 5 | .ing => 6 | .chs => 7 | .snr => 8 | .mbx => 9
  | .img => 10 | .oldImg => 11 | .swap => 12 | .swapTick => 13 | .pgh => 14 | .tmb => 15 | .spec => 16 | .coh => 17 | .alm => 18
  | .acc => 19 | .egr => 20 | .lmf => 21 | .pair => 22 | .bur => 23 | .bench => 24 | .pmc => 25 | .tst => 26 | .pio => 27
  | .smArmed => 28 | .mramPwr => 29 | .mramChs => 30 | .mramNotes => 31 | .mramActiveSlot => 32 | .mramLearn => 33
  | .mramAcc => 34 | .mramBur => 35 | .mramEpoch => 36 | .mramEpochCount => 37 | .nandChs => 38 | .nandSnr => 39
  | .nandSlots => 40 | .fv => 41 | .out => 42 | .up => 43 | .dupNext => 44

/-- The parts outside the mask `T` are the same in both states. -/
structure Frame (T : Nat) (s t : State) : Prop where
  same : ∀ p : Part, T.testBit p.num = false → p.same s t

/-- The mask `T` lies within the mask `F`. -/
def Sub (T F : Nat) : Prop := T &&& F = T

theorem Sub.mono {T U F : Nat} (h : Sub T F) (k : U &&& T = U) : Sub U F := by
  unfold Sub at h ⊢
  rw [← k, Nat.and_assoc, h]

theorem Sub.bit {T F : Nat} (h : Sub T F) {i : Nat} (hf : F.testBit i = false) : T.testBit i = false := by
  unfold Sub at h
  rw [← h, Nat.testBit_and, hf, Bool.and_false]

theorem Part.same_trans {p : Part} {s t u : State} (h : p.same s t) (k : p.same t u) : p.same s u := by
  cases p <;> first | exact Eq.trans k h | exact ⟨k.1.trans h.1, k.2.trans h.2⟩

theorem Frame.refl (T : Nat) (s : State) : Frame T s s := ⟨fun p _ => by cases p <;> first | rfl | exact ⟨rfl, rfl⟩⟩

theorem Frame.trans {F T : Nat} {o s t : State} (h : Frame F o s) (k : Frame T s t) (hS : Sub T F) : Frame F o t :=
  ⟨fun p hp => Part.same_trans (h.same p hp) (k.same p (hS.bit hp))⟩

/-- A part is the same after an update that writes these fields. -/
def Part.upd (s : State)
    (a2 : Pwr) (a3 : Dom) (a4 : Clave) (a6 : List DupEntry) (a5 : Nat) (a7 : Ingress) (a8 : Chest) (a9 : Snare) (a10 : Mbx)
    (a11 : Option Image) (a12 : Option Image) (a13 : Option (Image × Nat × Nat)) (a14 : Nat) (a15 : Pgh) (a16 : Tmb) (a17 : Spec)
    (a18 : Coh) (a19 : Alm) (a20 : Acc) (a21 : Egr) (a22 : Lmf) (a23 : Pair) (a24 : Bur) (a25 : Bench) (a26 : Pmc) (a27 : Tst)
    (a29 : Bool) (m : Mram) (n : Nand) : Part → Prop
  | .regs => True
  | .pwr => a2 = s.pwr
  | .dom => a3 = s.dom
  | .clv => a4 = s.clv
  | .ports => True
  | .dup => a6 = s.dup
  | .dupNext => a5 = s.dupNext
  | .ing => a7 = s.ing
  | .chs => a8 = s.chs
  | .snr => a9 = s.snr
  | .mbx => a10 = s.mbx
  | .img => a11 = s.img
  | .oldImg => a12 = s.oldImg
  | .swap => a13 = s.swap
  | .swapTick => a14 = s.swapTick
  | .pgh => a15 = s.pgh
  | .tmb => a16 = s.tmb
  | .spec => a17 = s.spec
  | .coh => a18 = s.coh
  | .alm => a19 = s.alm
  | .acc => a20 = s.acc
  | .egr => a21 = s.egr
  | .lmf => a22 = s.lmf
  | .pair => a23 = s.pair
  | .bur => a24 = s.bur
  | .bench => a25 = s.bench
  | .pmc => a26 = s.pmc
  | .tst => a27 = s.tst
  | .pio => True
  | .smArmed => a29 = s.smArmed
  | .mramPwr => m.pwr = s.mram.pwr
  | .mramChs => m.chs = s.mram.chs
  | .mramNotes => m.notes = s.mram.notes
  | .mramActiveSlot => m.activeSlot = s.mram.activeSlot
  | .mramLearn => m.learn = s.mram.learn
  | .mramAcc => m.acc = s.mram.acc
  | .mramBur => m.bur = s.mram.bur
  | .mramEpoch => m.epoch = s.mram.epoch
  | .mramEpochCount => m.epochCount = s.mram.epochCount
  | .nandChs => n.chs = s.nand.chs
  | .nandSnr => n.snr = s.nand.snr ∧ n.snrNext = s.nand.snrNext
  | .nandSlots => n.slots = s.nand.slots
  | .fv | .out | .up => True

/-- The parts outside the mask `T` are the same after an update that writes these fields. -/
structure FrameU (T : Nat) (s : State)
    (a2 : Pwr) (a3 : Dom) (a4 : Clave) (a6 : List DupEntry) (a5 : Nat) (a7 : Ingress) (a8 : Chest) (a9 : Snare) (a10 : Mbx)
    (a11 : Option Image) (a12 : Option Image) (a13 : Option (Image × Nat × Nat)) (a14 : Nat) (a15 : Pgh) (a16 : Tmb) (a17 : Spec)
    (a18 : Coh) (a19 : Alm) (a20 : Acc) (a21 : Egr) (a22 : Lmf) (a23 : Pair) (a24 : Bur) (a25 : Bench) (a26 : Pmc) (a27 : Tst)
    (a29 : Bool) (m : Mram) (n : Nand) : Prop where
  same : ∀ p : Part, T.testBit p.num = false → p.upd s a2 a3 a4 a6 a5 a7 a8 a9 a10 a11 a12 a13 a14 a15 a16 a17 a18 a19 a20 a21 a22 a23 a24 a25 a26 a27 a29 m n

theorem FrameU.frame {T : Nat} {s : State} {a2 a3 a4 a6 a5 a7 a8 a9 a10 a11 a12 a13 a14 a15 a16 a17 a18 a19 a20 a21 a22 a23 a24 a25 a26 a27 a29 m n} (h : FrameU T s a2 a3 a4 a6 a5 a7 a8 a9 a10 a11 a12 a13 a14 a15 a16 a17 a18 a19 a20 a21 a22 a23 a24 a25 a26 a27 a29 m n) :
    Frame T s (State.mk s.regs a2 a3 a4 s.ports a6 a5 a7 a8 a9 a10 a11 a12 a13 a14 a15 a16 a17 a18 a19 a20 a21 a22 a23 a24 a25 a26 a27 s.pio a29 m n s.up s.fv s.out s.pending) :=
  ⟨fun p hp => by
    have := h.same p hp
    cases p <;> first | exact this | rfl⟩

/-- What the operations keep, read from an origin `o0`: the invariant, all that lasts, and the parts outside the mask `F`. -/
def Kept (F : Nat) (o0 s : State) : Prop := (Inv o0 → Inv s) ∧ Lasts o0 s ∧ Frame F o0 s

theorem Kept.refl (F : Nat) (s : State) : Kept F s s :=
  ⟨id, ⟨rfl, le_refl _, le_refl _, List.prefix_refl _, id, List.prefix_refl _, le_refl _⟩, Frame.refl _ _⟩

/-- A change to the Chest's memory that keeps its drawers and undoes nothing. -/
def ChestStep (m : ChestMram) (n : ChestNand) (m' : ChestMram) (n' : ChestNand) : Prop :=
  (ChestOk m n → ChestOk m' n') ∧ ChestLasts m n m' n'

theorem ChestStep.refl (m : ChestMram) (n : ChestNand) : ChestStep m n m n :=
  ⟨id, id, List.prefix_refl _, le_refl _⟩

theorem ChestLasts.trans {m m' m'' : ChestMram} {n n' n'' : ChestNand} (h : ChestLasts m n m' n') (k : ChestLasts m' n' m'' n'') :
    ChestLasts m n m'' n'' :=
  ⟨fun c => k.1 (h.1 c), h.2.1.trans k.2.1, h.2.2.trans k.2.2⟩

/-- The general form: what an operation must show to keep all. -/
theorem kept_of {F T : Nat} {o0 s t : State} (h : Kept F o0 s) (hT : Frame T s t) (hS : Sub T F) (hr : (s.regs.map Prod.fst).Pairwise (· < ·) → (t.regs.map Prod.fst).Pairwise (· < ·))
    (hp : t.ports.length = s.ports.length ∨ t.ports.length = 64) (hi : t.pio.length = s.pio.length ∨ t.pio.length = 16)
    (hs : t.nand.slots.length = s.nand.slots.length) (hc : ChestStep s.mram.chs s.nand.chs t.mram.chs t.nand.chs)
    (hq : t.pending = s.pending) (hu : s.up ≤ t.up) (hf : s.fv ≤ t.fv) (ho : s.out <+: t.out) : Kept F o0 t := by
  obtain ⟨hv, ⟨k1, k2, k3, k4, k5⟩, k6⟩ := h
  refine ⟨fun h0 => ?_, ?_⟩
  · obtain ⟨h1, h2, h3, h4, h5⟩ := hv h0
    exact ⟨hr h1, hp.elim (·.trans h2) id, hi.elim (·.trans h3) id, hs.trans h4, hc.1 h5⟩
  · exact ⟨⟨hq.trans k1, k2.trans hu, k3.trans hf, k4.trans ho, k5.trans hc.2⟩, k6.trans hT hS⟩

theorem kept_upd (T : Nat) {F : Nat} {o0 s : State} {a2 a3 a4 a6 a5 a7 a8 a9 a10 a11 a12 a13 a14 a15 a16 a17 a18 a19 a20 a21 a22 a23 a24 a25 a26 a27 a29 m n}
    (h : Kept F o0 s) (hm : m.chs = s.mram.chs) (hn : n.chs = s.nand.chs) (hs : n.slots = s.nand.slots)
    (hT : FrameU T s a2 a3 a4 a6 a5 a7 a8 a9 a10 a11 a12 a13 a14 a15 a16 a17 a18 a19 a20 a21 a22 a23 a24 a25 a26 a27 a29 m n) (hS : Sub T F) :
    Kept F o0 (State.mk s.regs a2 a3 a4 s.ports a6 a5 a7 a8 a9 a10 a11 a12 a13 a14 a15 a16 a17 a18 a19 a20 a21 a22 a23 a24 a25 a26 a27 s.pio a29
      m n s.up s.fv s.out s.pending) :=
  kept_of h hT.frame hS id (Or.inl rfl) (Or.inl rfl) (congrArg List.length hs) (by rw [hm, hn]; exact ChestStep.refl _ _) rfl (le_refl _) (le_refl _)
    (List.prefix_refl _)

theorem kept_chs (T : Nat) {F : Nat} {o0 s : State} {a2 a3 a4 a6 a5 a7 a8 a9 a10 a11 a12 a13 a14 a15 a16 a17 a18 a19 a20 a21 a22 a23 a24 a25 a26 a27 a29 m n}
    (h : Kept F o0 s) (hc : ChestStep s.mram.chs s.nand.chs m.chs n.chs) (hs : n.slots = s.nand.slots)
    (hT : FrameU T s a2 a3 a4 a6 a5 a7 a8 a9 a10 a11 a12 a13 a14 a15 a16 a17 a18 a19 a20 a21 a22 a23 a24 a25 a26 a27 a29 m n) (hS : Sub T F) :
    Kept F o0 (State.mk s.regs a2 a3 a4 s.ports a6 a5 a7 a8 a9 a10 a11 a12 a13 a14 a15 a16 a17 a18 a19 a20 a21 a22 a23 a24 a25 a26 a27 s.pio a29
      m n s.up s.fv s.out s.pending) :=
  kept_of h hT.frame hS id (Or.inl rfl) (Or.inl rfl) (congrArg List.length hs) hc rfl (le_refl _) (le_refl _) (List.prefix_refl _)

theorem kept_ports {F : Nat} {o0 s : State} {n p} (h : Kept F o0 s) (hS : Sub 16 F) : Kept F o0 { s with ports := s.ports.set n p } :=
  kept_of h (T := 16) ⟨fun p hp => by cases p <;> first | exact absurd hp (by decide) | rfl | exact ⟨rfl, rfl⟩⟩ hS id
    (Or.inl (List.length_set ..)) (Or.inl rfl) rfl (ChestStep.refl _ _) rfl (le_refl _) (le_refl _) (List.prefix_refl _)

theorem kept_portsMap {F : Nat} {o0 s : State} (f : Port → Port) (hI : Kept F o0 s) (hS : Sub 16 F) : Kept F o0 { s with ports := s.ports.map f } :=
  kept_of hI (T := 16) ⟨fun p hp => by cases p <;> first | exact absurd hp (by decide) | rfl | exact ⟨rfl, rfl⟩⟩ hS id
    (Or.inl (List.length_map ..)) (Or.inl rfl) rfl (ChestStep.refl _ _) rfl (le_refl _) (le_refl _) (List.prefix_refl _)

theorem kept_pio {F : Nat} {o0 s : State} {n p} (h : Kept F o0 s) (hS : Sub 134217728 F) : Kept F o0 { s with pio := s.pio.set n p } :=
  kept_of h (T := 134217728) ⟨fun p hp => by cases p <;> first | exact absurd hp (by decide) | rfl | exact ⟨rfl, rfl⟩⟩ hS id
    (Or.inl rfl) (Or.inl (List.length_set ..)) rfl (ChestStep.refl _ _) rfl (le_refl _) (le_refl _) (List.prefix_refl _)

theorem kept_chsField {F : Nat} {o0 s : State} {c : Chest} (h : Kept F o0 s) (hS : Sub 128 F) : Kept F o0 { s with chs := c } :=
  kept_of h (T := 128) ⟨fun p hp => by cases p <;> first | exact absurd hp (by decide) | rfl | exact ⟨rfl, rfl⟩⟩ hS id (Or.inl rfl) (Or.inl rfl)
    rfl (ChestStep.refl _ _) rfl (le_refl _) (le_refl _) (List.prefix_refl _)

theorem kept_ite {F : Nat} {o0 : State} {c : Prop} [Decidable c] {a b : State} (ha : Kept F o0 a) (hb : Kept F o0 b) : Kept F o0 (if c then a else b) := by
  split <;> assumption

theorem kept_ite_fst {F : Nat} {o0 : State} {c : Prop} [Decidable c] {β : Type} {a b : State × β} (ha : Kept F o0 a.1) (hb : Kept F o0 b.1) :
    Kept F o0 (if c then a else b).1 := by
  split <;> assumption

theorem kept_ite_snd {F : Nat} {o0 : State} {c : Prop} [Decidable c] {β : Type} {a b : β × State} (ha : Kept F o0 a.2) (hb : Kept F o0 b.2) :
    Kept F o0 (if c then a else b).2 := by
  split <;> assumption

theorem kept_ite_snd2 {F : Nat} {o0 : State} {c : Prop} [Decidable c] {β γ : Type} {a b : β × γ × State} (ha : Kept F o0 a.2.2)
    (hb : Kept F o0 b.2.2) : Kept F o0 (if c then a else b).2.2 := by
  split <;> assumption

theorem kept_opt_ite {F : Nat} {o0 : State} {c : Prop} [Decidable c] {a b : Option State} (ha : ∀ t, a = some t → Kept F o0 t)
    (hb : ∀ t, b = some t → Kept F o0 t) : ∀ t, (if c then a else b) = some t → Kept F o0 t := by
  split <;> assumption

theorem kept_some {F : Nat} {o0 s : State} (h : Kept F o0 s) : ∀ t, some s = some t → Kept F o0 t := by
  rintro t ⟨⟩
  exact h

theorem kept_foldl {F : Nat} {o0 : State} {α : Type} {l : List α} {f : State → α → State} {s : State} (h : Kept F o0 s)
    (hf : ∀ s x, Kept F o0 s → Kept F o0 (f s x)) : Kept F o0 (l.foldl f s) := by
  induction l generalizing s with
  | nil => exact h
  | cons x xs ih => exact ih (hf s x h)

theorem kept_foldl_fst {F : Nat} {o0 : State} {α β : Type} {l : List α} {f : State × β → α → State × β} {a : State × β} (h : Kept F o0 a.1)
    (hf : ∀ a x, Kept F o0 a.1 → Kept F o0 (f a x).1) : Kept F o0 (l.foldl f a).1 := by
  induction l generalizing a with
  | nil => exact h
  | cons x xs ih => exact ih (hf a x h)

/-- An outcome whose next state, if there is one, keeps all. -/
structure OutKept (F : Nat) (o0 : State) (o : Host.Outcome State Fault Refusal) : Prop where
  keeps : ∀ t, o = .next t → Kept F o0 t

theorem kept_next {F : Nat} {o0 t : State} (h : Kept F o0 t) : OutKept F o0 (.next t) := by
  refine ⟨?_⟩
  intro u e
  cases e
  exact h

/-! ### The Chest's numbering -/

theorem mem_rollRecs_seq {n : ChestNand} {k : Nat} :
    (∃ r ∈ rollRecs n, r.seq = k) ↔ ∃ b ∈ n.blocks, ∃ p ∈ b, ∃ q ∈ p.recs, q.seq = k := by
  unfold rollRecs
  constructor
  · rintro ⟨r, hr, rfl⟩
    simp only [List.mem_flatten, List.mem_map] at hr
    obtain ⟨l, ⟨p, ⟨b, hb, hp⟩, rfl⟩, hr⟩ := hr
    refine ⟨b, hb, p, hp, ?_⟩
    split at hr
    · obtain ⟨q, hq, rfl⟩ := List.mem_map.1 hr
      exact ⟨q, hq, rfl⟩
    · exact ⟨r, hr, rfl⟩
  · rintro ⟨b, hb, p, hp, q, hq, rfl⟩
    simp only [List.mem_flatten, List.mem_map]
    by_cases hbad : p.bad
    · exact ⟨{ q with bad := true }, ⟨_, ⟨p, ⟨b, hb, hp⟩, rfl⟩, by rw [if_pos hbad]; exact List.mem_map_of_mem hq⟩, rfl⟩
    · exact ⟨q, ⟨_, ⟨p, ⟨b, hb, hp⟩, rfl⟩, by rw [if_neg hbad]; exact hq⟩, rfl⟩

/-- The sequence numbers a Chest holds. -/
def ChestHolds (m : ChestMram) (n : ChestNand) (k : Nat) : Prop := ∃ r ∈ m.staged ++ m.lid ++ rollRecs n, r.seq = k

theorem ChestOk.lt {m : ChestMram} {n : ChestNand} (h : ChestOk m n) {k : Nat} (hk : ChestHolds m n k) : k < m.nextSeq := by
  obtain ⟨r, hr, rfl⟩ := hk
  exact h.2.1 r hr

theorem chestHolds_cases {m : ChestMram} {n : ChestNand} {k : Nat} (h : ChestHolds m n k) :
    k ∈ m.staged.map ChestRec.seq ∨ k ∈ m.lid.map ChestRec.seq ∨ ∃ b ∈ n.blocks, ∃ p ∈ b, ∃ q ∈ p.recs, q.seq = k := by
  obtain ⟨r, hr, rfl⟩ := h
  simp only [List.mem_append] at hr
  rcases hr with (hr | hr) | hr
  · exact Or.inl (List.mem_map_of_mem hr)
  · exact Or.inr (Or.inl (List.mem_map_of_mem hr))
  · exact Or.inr (Or.inr (mem_rollRecs_seq.1 ⟨r, hr, rfl⟩))

theorem chestHolds_staged {m : ChestMram} {n : ChestNand} {k : Nat} (h : k ∈ m.staged.map ChestRec.seq) : ChestHolds m n k := by
  obtain ⟨r, hr, rfl⟩ := List.mem_map.1 h
  exact ⟨r, by simp [hr], rfl⟩

theorem chestHolds_lid {m : ChestMram} {n : ChestNand} {k : Nat} (h : k ∈ m.lid.map ChestRec.seq) : ChestHolds m n k := by
  obtain ⟨r, hr, rfl⟩ := List.mem_map.1 h
  exact ⟨r, by simp [hr], rfl⟩

theorem chestHolds_roll {m : ChestMram} {n : ChestNand} {k : Nat} (h : ∃ b ∈ n.blocks, ∃ p ∈ b, ∃ q ∈ p.recs, q.seq = k) :
    ChestHolds m n k := by
  obtain ⟨r, hr, rfl⟩ := mem_rollRecs_seq.2 h
  exact ⟨r, by simp [hr], rfl⟩

/-- A change that keeps an order of the staged records and brings in no new number keeps the drawers. -/
theorem chestOk_of {m m' : ChestMram} {n n' : ChestNand} (h : ChestOk m n)
    (hp : (m'.staged.map ChestRec.seq).Sublist (m.staged.map ChestRec.seq)) (hn : m.nextSeq ≤ m'.nextSeq)
    (hk : ∀ k, ChestHolds m' n' k → ChestHolds m n k) (hK : m'.keep.length ≤ 8192) (hL : m'.lid.length ≤ m.lid.length) :
    ChestOk m' n' := by
  refine ⟨?_, ?_, hK, hL.trans h.2.2.2⟩
  · have := (List.pairwise_map.2 h.1).sublist hp
    exact List.pairwise_map.1 this
  · intro r hr
    exact (h.lt (hk r.seq ⟨r, hr, rfl⟩)).trans_le hn

/-- A change that touches neither Keep nor the commissioning mark nor the retired blocks. -/
theorem chestStep_of {m m' : ChestMram} {n n' : ChestNand} (h : ChestOk m n → ChestOk m' n') (hc : m'.commissioned = m.commissioned)
    (hk : m'.keep.map (fun r => r.seq) = m.keep.map (fun r => r.seq)) (hr : n'.retired = n.retired) : ChestStep m n m' n' :=
  ⟨h, fun c => hc.trans c, hk ▸ List.prefix_refl _, hr ▸ le_refl _⟩

theorem getLast_seqs {l : List ChestRec} {r r' : ChestRec} (h : l.getLast? = some r) (hr : r'.seq = r.seq) :
    (l.dropLast ++ [r']).map ChestRec.seq = l.map ChestRec.seq := by
  obtain ⟨ys, rfl⟩ := List.getLast?_eq_some_iff.1 h
  simp [hr]

end Sys2Proof.Machine
end

