-- ==== Sys2Proof/Laws/KeptOps.lean ====
section
/-!
SUPPORT. What Machine/Ops.lean keeps of a state: one lemma per operation.
-/

namespace Sys2Proof.Machine

set_option linter.all false
set_option Elab.async false

theorem st_wr_kept {F : Nat} {o0 s : State} (f : Fld) (v : Nat) (h : Kept F o0 s) (hF : Sub 1 F := by first | with_reducible assumption | exact Sub.mono (by with_reducible assumption) (by decide)) : Kept F o0 (s.wr f v) :=
  kept_of h (T := 1) ⟨fun p hp => by cases p <;> first | exact absurd hp (by decide) | exact rfl | exact trivial | exact ⟨rfl, rfl⟩⟩ hF (smSet_keys _ _ _ _) (Or.inl rfl) (Or.inl rfl) rfl (ChestStep.refl _ _) rfl (le_refl _) (le_refl _) (List.prefix_refl _)

theorem st_wrSat_kept {F : Nat} {o0 s : State} (f : Fld) (v : Int) (hI : Kept F o0 s) (hF : Sub 1 F := by first | with_reducible assumption | exact Sub.mono (by with_reducible assumption) (by decide)) : Kept F o0 (State.wrSat s f v) := by
  unfold State.wrSat
  repeat' first
    | with_reducible assumption | (with_reducible exact Sub.mono hF (by decide))
    | ((with_reducible refine FrameU.mk fun p hp => ?_); cases p <;> first | exact absurd hp (by decide) | exact rfl | exact trivial | exact ⟨rfl, rfl⟩)
    | with_reducible apply st_wr_kept

theorem st_wrSym_kept {F : Nat} {o0 s : State} (f : Fld) (v : Int) (hI : Kept F o0 s) (hF : Sub 1 F := by first | with_reducible assumption | exact Sub.mono (by with_reducible assumption) (by decide)) : Kept F o0 (State.wrSym s f v) := by
  unfold State.wrSym
  repeat' first
    | with_reducible assumption | (with_reducible exact Sub.mono hF (by decide))
    | ((with_reducible refine FrameU.mk fun p hp => ?_); cases p <;> first | exact absurd hp (by decide) | exact rfl | exact trivial | exact ⟨rfl, rfl⟩)
    | with_reducible apply st_wr_kept

theorem st_inc_kept {F : Nat} {o0 s : State} (f : Fld) (n : Nat) (hI : Kept F o0 s) (hF : Sub 1 F := by first | with_reducible assumption | exact Sub.mono (by with_reducible assumption) (by decide)) : Kept F o0 (State.inc s f n) := by
  unfold State.inc
  repeat' first
    | with_reducible assumption | (with_reducible exact Sub.mono hF (by decide))
    | ((with_reducible refine FrameU.mk fun p hp => ?_); cases p <;> first | exact absurd hp (by decide) | exact rfl | exact trivial | exact ⟨rfl, rfl⟩)
    | with_reducible apply st_wr_kept

theorem st_incWrap_kept {F : Nat} {o0 s : State} (f : Fld) (n : Nat) (hI : Kept F o0 s) (hF : Sub 1 F := by first | with_reducible assumption | exact Sub.mono (by with_reducible assumption) (by decide)) : Kept F o0 (State.incWrap s f n) := by
  unfold State.incWrap
  repeat' first
    | with_reducible assumption | (with_reducible exact Sub.mono hF (by decide))
    | ((with_reducible refine FrameU.mk fun p hp => ?_); cases p <;> first | exact absurd hp (by decide) | exact rfl | exact trivial | exact ⟨rfl, rfl⟩)
    | with_reducible apply st_wr_kept

theorem st_flag_kept {F : Nat} {o0 s : State} (f : Fld) (b : Nat) (hI : Kept F o0 s) (hF : Sub 1 F := by first | with_reducible assumption | exact Sub.mono (by with_reducible assumption) (by decide)) : Kept F o0 (State.flag s f b) := by
  unfold State.flag
  repeat' first
    | with_reducible assumption | (with_reducible exact Sub.mono hF (by decide))
    | ((with_reducible refine FrameU.mk fun p hp => ?_); cases p <;> first | exact absurd hp (by decide) | exact rfl | exact trivial | exact ⟨rfl, rfl⟩)
    | with_reducible apply st_wr_kept

theorem st_wrB_kept {F : Nat} {o0 s : State} (f : Fld) (b : Bool) (hI : Kept F o0 s) (hF : Sub 1 F := by first | with_reducible assumption | exact Sub.mono (by with_reducible assumption) (by decide)) : Kept F o0 (State.wrB s f b) := by
  unfold State.wrB
  repeat' first
    | with_reducible assumption | (with_reducible exact Sub.mono hF (by decide))
    | ((with_reducible refine FrameU.mk fun p hp => ?_); cases p <;> first | exact absurd hp (by decide) | exact rfl | exact trivial | exact ⟨rfl, rfl⟩)
    | with_reducible apply st_wr_kept

theorem st_wrMax_kept {F : Nat} {o0 s : State} (f : Fld) (v : Nat) (hI : Kept F o0 s) (hF : Sub 1 F := by first | with_reducible assumption | exact Sub.mono (by with_reducible assumption) (by decide)) : Kept F o0 (State.wrMax s f v) := by
  unfold State.wrMax
  repeat' first
    | with_reducible assumption | (with_reducible exact Sub.mono hF (by decide))
    | ((with_reducible refine FrameU.mk fun p hp => ?_); cases p <;> first | exact absurd hp (by decide) | exact rfl | exact trivial | exact ⟨rfl, rfl⟩)
    | with_reducible apply st_wr_kept

theorem st_wr64_kept {F : Nat} {o0 s : State} (lo : Fld) (v : Nat) (hI : Kept F o0 s) (hF : Sub 1 F := by first | with_reducible assumption | exact Sub.mono (by with_reducible assumption) (by decide)) : Kept F o0 (State.wr64 s lo v) := by
  unfold State.wr64
  repeat' first
    | with_reducible assumption | (with_reducible exact Sub.mono hF (by decide))
    | ((with_reducible refine FrameU.mk fun p hp => ?_); cases p <;> first | exact absurd hp (by decide) | exact rfl | exact trivial | exact ⟨rfl, rfl⟩)
    | with_reducible apply st_wr_kept

theorem st_emit_kept {F : Nat} {o0 s : State} (e : Emission) (h : Kept F o0 s) (hF : Sub 4398046511104 F := by first | with_reducible assumption | exact Sub.mono (by with_reducible assumption) (by decide)) : Kept F o0 (s.emit e) :=
  kept_of h (T := 4398046511104) ⟨fun p hp => by cases p <;> first | exact absurd hp (by decide) | exact rfl | exact trivial | exact ⟨rfl, rfl⟩⟩ hF id (Or.inl rfl) (Or.inl rfl) rfl (ChestStep.refl _ _) rfl (le_refl _) (le_refl _) (List.prefix_append _ _)

theorem st_emits_kept {F : Nat} {o0 s : State} (es : List Emission) (h : Kept F o0 s) (hF : Sub 4398046511104 F := by first | with_reducible assumption | exact Sub.mono (by with_reducible assumption) (by decide)) : Kept F o0 (s.emits es) :=
  kept_of h (T := 4398046511104) ⟨fun p hp => by cases p <;> first | exact absurd hp (by decide) | exact rfl | exact trivial | exact ⟨rfl, rfl⟩⟩ hF id (Or.inl rfl) (Or.inl rfl) rfl (ChestStep.refl _ _) rfl (le_refl _) (le_refl _) (List.prefix_append _ _)

theorem st_nextFree_kept {F : Nat} {o0 s : State} (h : Kept F o0 s) (hF : Sub 2199023255552 F := by first | with_reducible assumption | exact Sub.mono (by with_reducible assumption) (by decide)) : Kept F o0 s.nextFree :=
  kept_of h (T := 2199023255552) ⟨fun p hp => by cases p <;> first | exact absurd hp (by decide) | exact rfl | exact trivial | exact ⟨rfl, rfl⟩⟩ hF id (Or.inl rfl) (Or.inl rfl) rfl (ChestStep.refl _ _) rfl (le_refl _) (Nat.le_succ _) (List.prefix_refl _)

theorem st_ev_kept {F : Nat} {o0 s : State} (e : Nat) (n : Nat) (hI : Kept F o0 s) (hF : Sub 33554432 F := by first | with_reducible assumption | exact Sub.mono (by with_reducible assumption) (by decide)) : Kept F o0 (State.ev e s n) := by
  unfold State.ev
  repeat' first
    | with_reducible assumption | (with_reducible exact Sub.mono hF (by decide))
    | ((with_reducible refine FrameU.mk fun p hp => ?_); cases p <;> first | exact absurd hp (by decide) | exact rfl | exact trivial | exact ⟨rfl, rfl⟩)
    | with_reducible apply kept_ite | (with_reducible refine kept_foldl ?_ (fun _ _ _ => ?_)) | (intro _) | split | dsimp only
    | fail_if_no_progress with_reducible refine kept_upd 33554432 ?_ rfl rfl rfl ?_ hF

theorem st_msix_kept {F : Nat} {o0 s : State} (vec : Nat) (hI : Kept F o0 s) (hF : Sub 4398080066048 F := by first | with_reducible assumption | exact Sub.mono (by with_reducible assumption) (by decide)) : Kept F o0 (State.msix s vec) := by
  unfold State.msix
  repeat' first
    | with_reducible assumption | (with_reducible exact Sub.mono hF (by decide))
    | ((with_reducible refine FrameU.mk fun p hp => ?_); cases p <;> first | exact absurd hp (by decide) | exact rfl | exact trivial | exact ⟨rfl, rfl⟩)
    | with_reducible apply st_emit_kept | with_reducible apply st_ev_kept | with_reducible apply kept_ite | split | dsimp only
    | fail_if_no_progress with_reducible refine kept_upd 4398080066048 ?_ rfl rfl rfl ?_ hF

theorem st_dmaAll_kept {F : Nat} {o0 s : State} (ws : List (Nat × Bytes)) (hI : Kept F o0 s) (hF : Sub 4398080065536 F := by first | with_reducible assumption | exact Sub.mono (by with_reducible assumption) (by decide)) : Kept F o0 (State.dmaAll s ws) := by
  unfold State.dmaAll
  repeat' first
    | with_reducible assumption | (with_reducible exact Sub.mono hF (by decide))
    | ((with_reducible refine FrameU.mk fun p hp => ?_); cases p <;> first | exact absurd hp (by decide) | exact rfl | exact trivial | exact ⟨rfl, rfl⟩)
    | with_reducible apply st_emits_kept | with_reducible apply st_ev_kept

theorem st_smEvent_kept {F : Nat} {o0 s : State} (b : Nat) (hI : Kept F o0 s) (hF : Sub 1 F := by first | with_reducible assumption | exact Sub.mono (by with_reducible assumption) (by decide)) : Kept F o0 (State.smEvent s b) := by
  unfold State.smEvent
  repeat' first
    | with_reducible assumption | (with_reducible exact Sub.mono hF (by decide))
    | ((with_reducible refine FrameU.mk fun p hp => ?_); cases p <;> first | exact absurd hp (by decide) | exact rfl | exact trivial | exact ⟨rfl, rfl⟩)
    | with_reducible apply st_flag_kept

theorem st_eccWrite_kept {F : Nat} {o0 s : State} (target : Nat) (index : Nat) (hI : Kept F o0 s) (hF : Sub 2199023255553 F := by first | with_reducible assumption | exact Sub.mono (by with_reducible assumption) (by decide)) : Kept F o0 (State.eccWrite target index s) := by
  unfold State.eccWrite
  repeat' first
    | with_reducible assumption | (with_reducible exact Sub.mono hF (by decide))
    | ((with_reducible refine FrameU.mk fun p hp => ?_); cases p <;> first | exact absurd hp (by decide) | exact rfl | exact trivial | exact ⟨rfl, rfl⟩)
    | with_reducible apply st_wr_kept | with_reducible apply st_flag_kept | with_reducible apply st_nextFree_kept
    | with_reducible apply kept_ite

end Sys2Proof.Machine
end

