-- ==== Sys2Proof/Laws/KeptPost.lean ====
section
/-!
SUPPORT. What Machine/Post.lean keeps of a state: one lemma per operation.
-/

namespace Sys2Proof.Machine

set_option linter.all false
set_option Elab.async false

theorem st_setSnrDef_kept {F : Nat} {o0 s : State} (k : Nat) (d : SnrDef) (hI : Kept F o0 s) (hF : Sub 256 F := by first | with_reducible assumption | exact Sub.mono (by with_reducible assumption) (by decide)) : Kept F o0 (State.setSnrDef s k d) := by
  unfold State.setSnrDef
  repeat' first
    | with_reducible assumption | (with_reducible exact Sub.mono hF (by decide))
    | ((with_reducible refine FrameU.mk fun p hp => ?_); cases p <;> first | exact absurd hp (by decide) | exact rfl | exact trivial | exact ⟨rfl, rfl⟩)
    | fail_if_no_progress with_reducible refine kept_upd 256 ?_ rfl rfl rfl ?_ hF

theorem snareStart_kept {F : Nat} {o0 s : State} (k : Nat) (cause : Nat) (t0 : Nat) (cfg : SnrDefCfg) (hI : Kept F o0 s) (hF : Sub 257 F := by first | with_reducible assumption | exact Sub.mono (by with_reducible assumption) (by decide)) : Kept F o0 (snareStart k cause t0 cfg s) := by
  unfold snareStart
  repeat' first
    | with_reducible assumption | (with_reducible exact Sub.mono hF (by decide))
    | ((with_reducible refine FrameU.mk fun p hp => ?_); cases p <;> first | exact absurd hp (by decide) | exact rfl | exact trivial | exact ⟨rfl, rfl⟩)
    | with_reducible apply st_wr_kept | with_reducible apply st_flag_kept | with_reducible apply st_wrB_kept
    | with_reducible apply st_wr64_kept | with_reducible apply st_setSnrDef_kept | with_reducible apply kept_ite | split
    | dsimp only | fail_if_no_progress with_reducible refine kept_upd 257 ?_ rfl rfl rfl ?_ hF

theorem snareTrigger_kept {F : Nat} {o0 s : State} (k : Nat) (cause : Nat) (tick : Nat) (hI : Kept F o0 s) (hF : Sub 257 F := by first | with_reducible assumption | exact Sub.mono (by with_reducible assumption) (by decide)) : Kept F o0 (snareTrigger k cause tick s) := by
  unfold snareTrigger
  repeat' first
    | with_reducible assumption | (with_reducible exact Sub.mono hF (by decide))
    | ((with_reducible refine FrameU.mk fun p hp => ?_); cases p <;> first | exact absurd hp (by decide) | exact rfl | exact trivial | exact ⟨rfl, rfl⟩)
    | with_reducible apply st_wr_kept | with_reducible apply st_inc_kept | with_reducible apply st_flag_kept
    | with_reducible apply st_setSnrDef_kept | with_reducible apply snareStart_kept | with_reducible apply kept_ite | split

theorem snareTriggerAll_kept {F : Nat} {o0 s : State} (p : SnrTerm → Bool) (cause : Nat) (tick : Nat) (hI : Kept F o0 s) (hF : Sub 257 F := by first | with_reducible assumption | exact Sub.mono (by with_reducible assumption) (by decide)) : Kept F o0 (snareTriggerAll p cause tick s) := by
  unfold snareTriggerAll
  repeat' first
    | with_reducible assumption | (with_reducible exact Sub.mono hF (by decide))
    | ((with_reducible refine FrameU.mk fun p hp => ?_); cases p <;> first | exact absurd hp (by decide) | exact rfl | exact trivial | exact ⟨rfl, rfl⟩)
    | with_reducible apply snareTrigger_kept | with_reducible apply kept_ite
    | (with_reducible refine kept_foldl ?_ (fun _ _ _ => ?_)) | (intro _) | split | dsimp only
    | fail_if_no_progress with_reducible refine kept_upd 257 ?_ rfl rfl rfl ?_ hF

theorem addGap_kept {F : Nat} {o0 s : State} (k : Nat) (first : Nat) (len : Nat) (reason : Nat) (slot : Nat) (hI : Kept F o0 s) (hF : Sub 257 F := by first | with_reducible assumption | exact Sub.mono (by with_reducible assumption) (by decide)) : Kept F o0 (addGap k first len reason slot s) := by
  unfold addGap
  repeat' first
    | with_reducible assumption | (with_reducible exact Sub.mono hF (by decide))
    | ((with_reducible refine FrameU.mk fun p hp => ?_); cases p <;> first | exact absurd hp (by decide) | exact rfl | exact trivial | exact ⟨rfl, rfl⟩)
    | with_reducible apply st_wr_kept | with_reducible apply st_inc_kept | with_reducible apply st_flag_kept
    | with_reducible apply st_setSnrDef_kept | with_reducible apply kept_ite | split | dsimp only
    | fail_if_no_progress with_reducible refine kept_upd 257 ?_ rfl rfl rfl ?_ hF

theorem rowLost_kept {F : Nat} {o0 s : State} (k : Nat) (n : Nat) (hI : Kept F o0 s) (hF : Sub 33554689 F := by first | with_reducible assumption | exact Sub.mono (by with_reducible assumption) (by decide)) : Kept F o0 (rowLost k n s) := by
  unfold rowLost
  repeat' first
    | with_reducible assumption | (with_reducible exact Sub.mono hF (by decide))
    | ((with_reducible refine FrameU.mk fun p hp => ?_); cases p <;> first | exact absurd hp (by decide) | exact rfl | exact trivial | exact ⟨rfl, rfl⟩)
    | with_reducible apply st_inc_kept | with_reducible apply st_flag_kept | with_reducible apply st_ev_kept
    | with_reducible apply addGap_kept | with_reducible apply kept_ite

theorem st_setSupp_kept {F : Nat} {o0 s : State} (code : Nat) (n : Nat) (hI : Kept F o0 s) (hF : Sub 1073741824 F := by first | with_reducible assumption | exact Sub.mono (by with_reducible assumption) (by decide)) : Kept F o0 (State.setSupp s code n) := by
  unfold State.setSupp
  repeat' first
    | with_reducible assumption | (with_reducible exact Sub.mono hF (by decide))
    | ((with_reducible refine FrameU.mk fun p hp => ?_); cases p <;> first | exact absurd hp (by decide) | exact rfl | exact trivial | exact ⟨rfl, rfl⟩)
    | with_reducible apply kept_ite | (with_reducible refine kept_foldl ?_ (fun _ _ _ => ?_))
    | (with_reducible refine kept_foldl_fst ?_ (fun _ _ _ => ?_)) | (exact ⟨id, id, List.prefix_refl _, Nat.le_refl _⟩) | (intro _)
    | split | dsimp only | with_reducible refine kept_ports ?_ ?_ | with_reducible refine kept_pio ?_ ?_
    | fail_if_no_progress with_reducible refine kept_upd 1073741824 ?_ rfl rfl rfl ?_ hF
    | fail_if_no_progress with_reducible refine kept_chs 1073741824 ?_ ?_ rfl ?_ hF

theorem st_setBucket_kept {F : Nat} {o0 s : State} (code : Nat) (b : Bucket) (hI : Kept F o0 s) (hF : Sub 128 F := by first | with_reducible assumption | exact Sub.mono (by with_reducible assumption) (by decide)) : Kept F o0 (State.setBucket s code b) := by
  unfold State.setBucket
  repeat' first
    | with_reducible assumption | (with_reducible exact Sub.mono hF (by decide))
    | ((with_reducible refine FrameU.mk fun p hp => ?_); cases p <;> first | exact absurd hp (by decide) | exact rfl | exact trivial | exact ⟨rfl, rfl⟩)
    | fail_if_no_progress with_reducible refine kept_upd 128 ?_ rfl rfl rfl ?_ hF

theorem refillBucket_kept {F : Nat} {o0 s : State} (code : Nat) (hI : Kept F o0 s) (hF : Sub 128 F := by first | with_reducible assumption | exact Sub.mono (by with_reducible assumption) (by decide)) : Kept F o0 (refillBucket code s) := by
  unfold refillBucket
  repeat' first
    | with_reducible assumption | (with_reducible exact Sub.mono hF (by decide))
    | ((with_reducible refine FrameU.mk fun p hp => ?_); cases p <;> first | exact absurd hp (by decide) | exact rfl | exact trivial | exact ⟨rfl, rfl⟩)
    | with_reducible apply st_setBucket_kept | with_reducible apply kept_ite | split | dsimp only
    | fail_if_no_progress with_reducible refine kept_upd 128 ?_ rfl rfl rfl ?_ hF

theorem suppress_kept {F : Nat} {o0 s : State} (code : Nat) (hI : Kept F o0 s) (hF : Sub 1107296257 F := by first | with_reducible assumption | exact Sub.mono (by with_reducible assumption) (by decide)) : Kept F o0 (suppress code s) := by
  unfold suppress
  repeat' first
    | with_reducible assumption | (with_reducible exact Sub.mono hF (by decide))
    | ((with_reducible refine FrameU.mk fun p hp => ?_); cases p <;> first | exact absurd hp (by decide) | exact rfl | exact trivial | exact ⟨rfl, rfl⟩)
    | with_reducible apply st_inc_kept | with_reducible apply st_flag_kept | with_reducible apply st_ev_kept
    | with_reducible apply st_setSupp_kept

theorem enqueuePost_kept {F : Nat} {o0 s : State} (code : Nat) (payload : Bytes) (trunc : Bool) (hI : Kept F o0 s) (hF : Sub 1073741952 F := by first | with_reducible assumption | exact Sub.mono (by with_reducible assumption) (by decide)) : Kept F o0 (enqueuePost code payload trunc s) := by
  unfold enqueuePost
  repeat' first
    | with_reducible assumption | (with_reducible exact Sub.mono hF (by decide))
    | ((with_reducible refine FrameU.mk fun p hp => ?_); cases p <;> first | exact absurd hp (by decide) | exact rfl | exact trivial | exact ⟨rfl, rfl⟩)
    | with_reducible apply st_setSupp_kept | fail_if_no_progress with_reducible refine kept_upd 1073741952 ?_ rfl rfl rfl ?_ hF

theorem coalesce_kept {F : Nat} {o0 s : State} (hI : Kept F o0 s) (hF : Sub 1073741953 F := by first | with_reducible assumption | exact Sub.mono (by with_reducible assumption) (by decide)) : Kept F o0 (coalesce s) := by
  unfold coalesce
  have h1 := st_inc_kept fCHS_COAL_CNT_POSTS 1 hI
  dsimp only
  split
  · exact kept_upd 1073741953 h1 rfl rfl rfl ⟨fun p hp => by cases p <;> first | exact absurd hp (by decide) | exact rfl | exact trivial | exact ⟨rfl, rfl⟩⟩ hF
  · split
    · rename_i r hr
      have e := getLast_seqs (r' := { r with rep := satAdd 32 r.rep 1 }) hr rfl
      refine kept_chs 1073741953 h1 (chestStep_of (fun hc => chestOk_of hc (by rw [e]) (le_refl _) (fun k hk => ?_) hc.2.2.1 (le_refl _)) rfl rfl rfl) rfl ⟨fun p hp => by cases p <;> first | exact absurd hp (by decide) | exact rfl | exact trivial | exact ⟨rfl, rfl⟩⟩ hF
      rcases chestHolds_cases hk with h | h | h
      · exact chestHolds_staged (e ▸ h)
      · exact chestHolds_lid h
      · exact chestHolds_roll h
    · exact h1

theorem rateLimit_kept {F : Nat} {o0 s : State} (code : Nat) (payload : Bytes) (trunc : Bool) (hI : Kept F o0 s) (hF : Sub 1107296385 F := by first | with_reducible assumption | exact Sub.mono (by with_reducible assumption) (by decide)) : Kept F o0 (rateLimit code payload trunc s) := by
  unfold rateLimit
  repeat' first
    | with_reducible assumption | (with_reducible exact Sub.mono hF (by decide))
    | ((with_reducible refine FrameU.mk fun p hp => ?_); cases p <;> first | exact absurd hp (by decide) | exact rfl | exact trivial | exact ⟨rfl, rfl⟩)
    | with_reducible apply st_setBucket_kept | with_reducible apply refillBucket_kept | with_reducible apply suppress_kept
    | with_reducible apply enqueuePost_kept | with_reducible apply kept_ite

theorem postAt_kept {F : Nat} {o0 s : State} (tick : Nat) (code : Nat) (payload : Bytes) (hI : Kept F o0 s) (hF : Sub 1107296641 F := by first | with_reducible assumption | exact Sub.mono (by with_reducible assumption) (by decide)) : Kept F o0 (postAt tick code payload s) := by
  unfold postAt
  repeat' first
    | with_reducible assumption | (with_reducible exact Sub.mono hF (by decide))
    | ((with_reducible refine FrameU.mk fun p hp => ?_); cases p <;> first | exact absurd hp (by decide) | exact rfl | exact trivial | exact ⟨rfl, rfl⟩)
    | with_reducible apply st_flag_kept | with_reducible apply snareTriggerAll_kept | with_reducible apply suppress_kept
    | with_reducible apply coalesce_kept | with_reducible apply rateLimit_kept | with_reducible apply kept_ite | (intro _)

theorem post_kept {F : Nat} {o0 s : State} (code : Nat) (payload : Bytes) (hI : Kept F o0 s) (hF : Sub 1107296641 F := by first | with_reducible assumption | exact Sub.mono (by with_reducible assumption) (by decide)) : Kept F o0 (post code payload s) := by
  unfold post
  repeat' first
    | with_reducible assumption | (with_reducible exact Sub.mono hF (by decide))
    | ((with_reducible refine FrameU.mk fun p hp => ?_); cases p <;> first | exact absurd hp (by decide) | exact rfl | exact trivial | exact ⟨rfl, rfl⟩)
    | with_reducible apply postAt_kept

theorem postModeChange_kept {F : Nat} {o0 s : State} (off : Nat) (old : Nat) (new : Nat) (hI : Kept F o0 s) (hF : Sub 1107296641 F := by first | with_reducible assumption | exact Sub.mono (by with_reducible assumption) (by decide)) : Kept F o0 (postModeChange off old new s) := by
  unfold postModeChange
  repeat' first
    | with_reducible assumption | (with_reducible exact Sub.mono hF (by decide))
    | ((with_reducible refine FrameU.mk fun p hp => ?_); cases p <;> first | exact absurd hp (by decide) | exact rfl | exact trivial | exact ⟨rfl, rfl⟩)
    | with_reducible apply post_kept

end Sys2Proof.Machine
end

