-- ==== Sys2Proof/Laws/KeptAccess.lean ====
section
/-!
SUPPORT. What Machine/Access.lean keeps of a state: one lemma per operation.
-/

namespace Sys2Proof.Machine

set_option linter.all false
set_option Elab.async false

theorem loadRegs_kept {F : Nat} {o0 s : State} (old : List (Nat × Nat)) (new : List (Nat × Nat)) (hI : Kept F o0 s) (hF : Sub 1 F := by first | with_reducible assumption | exact Sub.mono (by with_reducible assumption) (by decide)) : Kept F o0 (loadRegs old new s) := by
  unfold loadRegs
  repeat' first
    | with_reducible assumption | (with_reducible exact Sub.mono hF (by decide))
    | ((with_reducible refine FrameU.mk fun p hp => ?_); cases p <;> first | exact absurd hp (by decide) | exact rfl | exact trivial | exact ⟨rfl, rfl⟩)
    | with_reducible apply st_wr_kept | with_reducible apply kept_ite | (with_reducible refine kept_foldl ?_ (fun _ _ _ => ?_))
    | (intro _) | split | dsimp only | fail_if_no_progress with_reducible refine kept_upd 1 ?_ rfl rfl rfl ?_ hF

end Sys2Proof.Machine
end

