-- ==== Sys2Proof/Laws/KeptPorts.lean ====
section
/-!
SUPPORT. What Machine/Ports.lean keeps of a state: one lemma per operation.
-/

namespace Sys2Proof.Machine

set_option linter.all false
set_option Elab.async false

theorem st_setPort_kept {F : Nat} {o0 s : State} (n : Nat) (p : Port) (hI : Kept F o0 s) (hF : Sub 16 F := by first | with_reducible assumption | exact Sub.mono (by with_reducible assumption) (by decide)) : Kept F o0 (State.setPort s n p) := by
  unfold State.setPort
  repeat' first
    | with_reducible assumption | (with_reducible exact Sub.mono hF (by decide))
    | ((with_reducible refine FrameU.mk fun p hp => ?_); cases p <;> first | exact absurd hp (by decide) | exact rfl | exact trivial | exact ⟨rfl, rfl⟩)
    | with_reducible apply kept_ite | (with_reducible refine kept_foldl ?_ (fun _ _ _ => ?_))
    | (with_reducible refine kept_foldl_fst ?_ (fun _ _ _ => ?_)) | (exact ⟨id, id, List.prefix_refl _, Nat.le_refl _⟩) | (intro _)
    | split | dsimp only | with_reducible refine kept_ports ?_ ?_ | with_reducible refine kept_pio ?_ ?_
    | fail_if_no_progress with_reducible refine kept_upd 16 ?_ rfl rfl rfl ?_ hF
    | fail_if_no_progress with_reducible refine kept_chs 16 ?_ ?_ rfl ?_ hF

theorem dupInsert_kept {F : Nat} {o0 s : State} (key : Nat) (n : Nat) (hI : Kept F o0 s) (hF : Sub 17592186044449 F := by first | with_reducible assumption | exact Sub.mono (by with_reducible assumption) (by decide)) : Kept F o0 (dupInsert key n s).2 := by
  unfold dupInsert
  repeat' first
    | with_reducible assumption | (with_reducible exact Sub.mono hF (by decide))
    | ((with_reducible refine FrameU.mk fun p hp => ?_); cases p <;> first | exact absurd hp (by decide) | exact rfl | exact trivial | exact ⟨rfl, rfl⟩)
    | with_reducible apply st_inc_kept | with_reducible apply st_flag_kept | with_reducible apply kept_ite
    | with_reducible apply kept_ite_fst | with_reducible apply kept_ite_snd | split | dsimp only
    | fail_if_no_progress with_reducible refine kept_upd 17592186044449 ?_ rfl rfl rfl ?_ hF

theorem dupInsert_kept_eq {F : Nat} {o0 s : State} {y0 y1} {key : Nat} {n : Nat} (hI : Kept F o0 s) (hF : Sub 17592186044449 F := by first | with_reducible assumption | exact Sub.mono (by with_reducible assumption) (by decide)) (e : dupInsert key n s = (y0, y1)) : Kept F o0 y1 := by
  have h2 := dupInsert_kept key n hI
  rw [e] at h2; exact h2

theorem dupLookup_kept {F : Nat} {o0 s : State} (key : Nat) (n : Nat) (hI : Kept F o0 s) (hF : Sub 17592186044449 F := by first | with_reducible assumption | exact Sub.mono (by with_reducible assumption) (by decide)) : Kept F o0 (dupLookup key n s).2 := by
  unfold dupLookup
  repeat' first
    | with_reducible assumption | (with_reducible exact Sub.mono hF (by decide))
    | ((with_reducible refine FrameU.mk fun p hp => ?_); cases p <;> first | exact absurd hp (by decide) | exact rfl | exact trivial | exact ⟨rfl, rfl⟩)
    | with_reducible apply st_inc_kept | (refine dupInsert_kept_eq ?_ ?_ (by assumption)) | with_reducible apply dupInsert_kept
    | with_reducible apply kept_ite | with_reducible apply kept_ite_fst | with_reducible apply kept_ite_snd | split

theorem dupLookup_kept_eq {F : Nat} {o0 s : State} {y0 y1} {key : Nat} {n : Nat} (hI : Kept F o0 s) (hF : Sub 17592186044449 F := by first | with_reducible assumption | exact Sub.mono (by with_reducible assumption) (by decide)) (e : dupLookup key n s = (y0, y1)) : Kept F o0 y1 := by
  have h2 := dupLookup_kept key n hI
  rw [e] at h2; exact h2

theorem dupTell_kept {F : Nat} {o0 s : State} (id : Nat) (res : DupState) (hI : Kept F o0 s) (hF : Sub 16 F := by first | with_reducible assumption | exact Sub.mono (by with_reducible assumption) (by decide)) : Kept F o0 (dupTell id res s) :=
  kept_portsMap _ hI hF

theorem dupFinal_kept {F : Nat} {o0 s : State} (d : DupState) (hI : Kept F o0 s) (hF : Sub 48 F := by first | with_reducible assumption | exact Sub.mono (by with_reducible assumption) (by decide)) : Kept F o0 (dupFinal d s) := by
  unfold dupFinal
  repeat' first
    | with_reducible assumption | (with_reducible exact Sub.mono hF (by decide))
    | ((with_reducible refine FrameU.mk fun p hp => ?_); cases p <;> first | exact absurd hp (by decide) | exact rfl | exact trivial | exact ⟨rfl, rfl⟩)
    | with_reducible apply dupTell_kept | with_reducible apply kept_ite | split | dsimp only
    | fail_if_no_progress with_reducible refine kept_upd 48 ?_ rfl rfl rfl ?_ hF

theorem dupDrop_kept {F : Nat} {o0 s : State} (d : DupState) (hI : Kept F o0 s) (hF : Sub 48 F := by first | with_reducible assumption | exact Sub.mono (by with_reducible assumption) (by decide)) : Kept F o0 (dupDrop d s) := by
  unfold dupDrop
  repeat' first
    | with_reducible assumption | (with_reducible exact Sub.mono hF (by decide))
    | ((with_reducible refine FrameU.mk fun p hp => ?_); cases p <;> first | exact absurd hp (by decide) | exact rfl | exact trivial | exact ⟨rfl, rfl⟩)
    | with_reducible apply dupTell_kept | with_reducible apply kept_ite | split | dsimp only
    | fail_if_no_progress with_reducible refine kept_upd 48 ?_ rfl rfl rfl ?_ hF

theorem rxBad_kept {F : Nat} {o0 s : State} (n : Nat) (dup : DupState) (started : Bool) (hI : Kept F o0 s) (hF : Sub 33554481 F := by first | with_reducible assumption | exact Sub.mono (by with_reducible assumption) (by decide)) : Kept F o0 (rxBad n dup started s) := by
  unfold rxBad
  repeat' first
    | with_reducible assumption | (with_reducible exact Sub.mono hF (by decide))
    | ((with_reducible refine FrameU.mk fun p hp => ?_); cases p <;> first | exact absurd hp (by decide) | exact rfl | exact trivial | exact ⟨rfl, rfl⟩)
    | with_reducible apply st_wr_kept | with_reducible apply st_inc_kept | with_reducible apply st_ev_kept
    | with_reducible apply st_setPort_kept | with_reducible apply dupDrop_kept | with_reducible apply kept_ite

theorem rxOverflow_kept {F : Nat} {o0 s : State} (n : Nat) (dup : DupState) (started : Bool) (hI : Kept F o0 s) (hF : Sub 33554481 F := by first | with_reducible assumption | exact Sub.mono (by with_reducible assumption) (by decide)) : Kept F o0 (rxOverflow n dup started s) := by
  unfold rxOverflow
  repeat' first
    | with_reducible assumption | (with_reducible exact Sub.mono hF (by decide))
    | ((with_reducible refine FrameU.mk fun p hp => ?_); cases p <;> first | exact absurd hp (by decide) | exact rfl | exact trivial | exact ⟨rfl, rfl⟩)
    | with_reducible apply st_inc_kept | with_reducible apply st_flag_kept | with_reducible apply st_ev_kept
    | with_reducible apply rxBad_kept

theorem rxStore_kept {F : Nat} {o0 s : State} (n : Nat) (f : RxFrame) (hI : Kept F o0 s) (hF : Sub 2199056810001 F := by first | with_reducible assumption | exact Sub.mono (by with_reducible assumption) (by decide)) : Kept F o0 (rxStore n f s) := by
  unfold rxStore
  repeat' first
    | with_reducible assumption | (with_reducible exact Sub.mono hF (by decide))
    | ((with_reducible refine FrameU.mk fun p hp => ?_); cases p <;> first | exact absurd hp (by decide) | exact rfl | exact trivial | exact ⟨rfl, rfl⟩)
    | with_reducible apply st_wr_kept | with_reducible apply st_inc_kept | with_reducible apply st_ev_kept
    | with_reducible apply st_eccWrite_kept | with_reducible apply st_setPort_kept | with_reducible apply kept_ite | split

theorem pauseRx_kept {F : Nat} {o0 s : State} (n : Nat) (q : Nat) (hI : Kept F o0 s) (hF : Sub 17 F := by first | with_reducible assumption | exact Sub.mono (by with_reducible assumption) (by decide)) : Kept F o0 (pauseRx n q s) := by
  unfold pauseRx
  repeat' first
    | with_reducible assumption | (with_reducible exact Sub.mono hF (by decide))
    | ((with_reducible refine FrameU.mk fun p hp => ?_); cases p <;> first | exact absurd hp (by decide) | exact rfl | exact trivial | exact ⟨rfl, rfl⟩)
    | with_reducible apply st_inc_kept | with_reducible apply st_wrB_kept | with_reducible apply st_setPort_kept
    | with_reducible apply kept_ite

theorem macControl_kept {F : Nat} {o0 s : State} (n : Nat) (h : EthHdr) (b : Bytes) (hI : Kept F o0 s) (hF : Sub 17 F := by first | with_reducible assumption | exact Sub.mono (by with_reducible assumption) (by decide)) : Kept F o0 (macControl n h b s) := by
  unfold macControl
  repeat' first
    | with_reducible assumption | (with_reducible exact Sub.mono hF (by decide))
    | ((with_reducible refine FrameU.mk fun p hp => ?_); cases p <;> first | exact absurd hp (by decide) | exact rfl | exact trivial | exact ⟨rfl, rfl⟩)
    | with_reducible apply st_inc_kept | with_reducible apply pauseRx_kept | with_reducible apply kept_ite

theorem dupAtEnd_kept {F : Nat} {o0 s : State} (n : Nat) (trunc : Bool) (b : Bytes) (d : DupState) (hI : Kept F o0 s) (hF : Sub 17592186044449 F := by first | with_reducible assumption | exact Sub.mono (by with_reducible assumption) (by decide)) : Kept F o0 (dupAtEnd n trunc b d s).2 := by
  unfold dupAtEnd
  repeat' first
    | with_reducible assumption | (with_reducible exact Sub.mono hF (by decide))
    | ((with_reducible refine FrameU.mk fun p hp => ?_); cases p <;> first | exact absurd hp (by decide) | exact rfl | exact trivial | exact ⟨rfl, rfl⟩)
    | (refine dupLookup_kept_eq ?_ ?_ (by assumption)) | with_reducible apply dupLookup_kept | with_reducible apply kept_ite
    | with_reducible apply kept_ite_fst | with_reducible apply kept_ite_snd | split

theorem dupAtEnd_kept_eq {F : Nat} {o0 s : State} {y0 y1} {n : Nat} {trunc : Bool} {b : Bytes} {d : DupState} (hI : Kept F o0 s) (hF : Sub 17592186044449 F := by first | with_reducible assumption | exact Sub.mono (by with_reducible assumption) (by decide)) (e : dupAtEnd n trunc b d s = (y0, y1)) : Kept F o0 y1 := by
  have h2 := dupAtEnd_kept n trunc b d hI
  rw [e] at h2; exact h2

theorem rxGood_kept {F : Nat} {o0 s : State} (n : Nat) (c : RxCur) (b : Bytes) (hI : Kept F o0 s) (hF : Sub 19791242854449 F := by first | with_reducible assumption | exact Sub.mono (by with_reducible assumption) (by decide)) : Kept F o0 (rxGood n c b s) := by
  unfold rxGood
  repeat' first
    | with_reducible assumption | (with_reducible exact Sub.mono hF (by decide))
    | ((with_reducible refine FrameU.mk fun p hp => ?_); cases p <;> first | exact absurd hp (by decide) | exact rfl | exact trivial | exact ⟨rfl, rfl⟩)
    | with_reducible apply st_inc_kept | with_reducible apply rxBad_kept | with_reducible apply rxStore_kept
    | with_reducible apply macControl_kept | (refine dupAtEnd_kept_eq ?_ ?_ (by assumption)) | with_reducible apply dupAtEnd_kept
    | with_reducible apply kept_ite

theorem rxEnd_kept {F : Nat} {o0 s : State} (n : Nat) (c : RxCur) (b : Bytes) (fin : RxEnd) (hI : Kept F o0 s) (hF : Sub 19791242854449 F := by first | with_reducible assumption | exact Sub.mono (by with_reducible assumption) (by decide)) : Kept F o0 (rxEnd n c b fin s) := by
  unfold rxEnd
  repeat' first
    | with_reducible assumption | (with_reducible exact Sub.mono hF (by decide))
    | ((with_reducible refine FrameU.mk fun p hp => ?_); cases p <;> first | exact absurd hp (by decide) | exact rfl | exact trivial | exact ⟨rfl, rfl⟩)
    | with_reducible apply st_inc_kept | with_reducible apply st_flag_kept | with_reducible apply st_ev_kept
    | with_reducible apply rxBad_kept | with_reducible apply rxOverflow_kept | with_reducible apply rxGood_kept
    | with_reducible apply kept_ite | split

theorem execMacRxFrame_kept {F : Nat} {o0 s : State} (n : Fin 64) (stamp : Nat) (bytes : Bytes) (fin : RxEnd) (ce : Nat) (hI : Kept F o0 s) (hF : Sub 24189289365553 F := by first | with_reducible assumption | exact Sub.mono (by with_reducible assumption) (by decide)) : OutKept F o0 (execMacRxFrame n stamp bytes fin ce s) := by
  unfold execMacRxFrame
  repeat' first
    | with_reducible assumption | (with_reducible exact Sub.mono hF (by decide))
    | ((with_reducible refine FrameU.mk fun p hp => ?_); cases p <;> first | exact absurd hp (by decide) | exact rfl | exact trivial | exact ⟨rfl, rfl⟩)
    | with_reducible apply st_inc_kept | with_reducible apply st_emit_kept | with_reducible apply st_setPort_kept
    | with_reducible apply rxEnd_kept | with_reducible apply kept_next | with_reducible apply kept_ite

theorem rxArrive_kept {F : Nat} {o0 s : State} (n : Nat) (c : RxCur) (hI : Kept F o0 s) (hF : Sub 17592219598897 F := by first | with_reducible assumption | exact Sub.mono (by with_reducible assumption) (by decide)) : Kept F o0 (rxArrive n c s) := by
  unfold rxArrive
  repeat' first
    | with_reducible assumption | (with_reducible exact Sub.mono hF (by decide))
    | ((with_reducible refine FrameU.mk fun p hp => ?_); cases p <;> first | exact absurd hp (by decide) | exact rfl | exact trivial | exact ⟨rfl, rfl⟩)
    | with_reducible apply st_setPort_kept | (refine dupLookup_kept_eq ?_ ?_ (by assumption)) | with_reducible apply dupLookup_kept
    | with_reducible apply rxOverflow_kept | with_reducible apply kept_ite | split

theorem execDupLookup_kept {F : Nat} {o0 s : State} (n : Fin 64) (stamp : Nat) (bytes : Bytes) (hI : Kept F o0 s) (hF : Sub 17592219598897 F := by first | with_reducible assumption | exact Sub.mono (by with_reducible assumption) (by decide)) : OutKept F o0 (execDupLookup n stamp bytes s) := by
  unfold execDupLookup
  repeat' first
    | with_reducible assumption | (with_reducible exact Sub.mono hF (by decide))
    | ((with_reducible refine FrameU.mk fun p hp => ?_); cases p <;> first | exact absurd hp (by decide) | exact rfl | exact trivial | exact ⟨rfl, rfl⟩)
    | with_reducible apply rxArrive_kept | with_reducible apply kept_next | with_reducible apply kept_ite | split

theorem rxRelease_kept {F : Nat} {o0 s : State} (n : Nat) (hI : Kept F o0 s) (hF : Sub 16 F := by first | with_reducible assumption | exact Sub.mono (by with_reducible assumption) (by decide)) : Kept F o0 (rxRelease n s) := by
  unfold rxRelease
  repeat' first
    | with_reducible assumption | (with_reducible exact Sub.mono hF (by decide))
    | ((with_reducible refine FrameU.mk fun p hp => ?_); cases p <;> first | exact absurd hp (by decide) | exact rfl | exact trivial | exact ⟨rfl, rfl⟩)
    | with_reducible apply st_setPort_kept | with_reducible apply kept_ite | split | dsimp only
    | fail_if_no_progress with_reducible refine kept_upd 16 ?_ rfl rfl rfl ?_ hF

theorem againHeld_kept {F : Nat} {o0 s : State} (n : Nat) (pre l : List RxFrame) (hI : Kept F o0 s) (hF : Sub 17592186044465 F := by first | with_reducible assumption | exact Sub.mono (by with_reducible assumption) (by decide)) : Kept F o0 (againHeld n pre l s) := by
  induction l generalizing s pre with
  | nil => exact hI
  | cons f rest ih =>
    unfold againHeld
    split
    · rename_i k _
      dsimp only
      have h := dupLookup_kept k n hI
      generalize dupLookup k n s = x at h ⊢
      exact st_setPort_kept _ _ h
    · exact ih _ hI

theorem execDupWaitRelease_kept {F : Nat} {o0 s : State} (n : Fin 64) (hI : Kept F o0 s) (hF : Sub 17592219598897 F := by first | with_reducible assumption | exact Sub.mono (by with_reducible assumption) (by decide)) : OutKept F o0 (execDupWaitRelease n s) := by
  unfold execDupWaitRelease
  repeat' first
    | with_reducible assumption | (with_reducible exact Sub.mono hF (by decide))
    | ((with_reducible refine FrameU.mk fun p hp => ?_); cases p <;> first | exact absurd hp (by decide) | exact rfl | exact trivial | exact ⟨rfl, rfl⟩)
    | with_reducible apply st_inc_kept | with_reducible apply st_ev_kept | with_reducible apply st_setPort_kept
    | (refine dupLookup_kept_eq ?_ ?_ (by assumption)) | with_reducible apply dupLookup_kept | with_reducible apply rxRelease_kept
    | with_reducible apply againHeld_kept | with_reducible apply kept_next | with_reducible apply kept_ite | split | dsimp only
    | fail_if_no_progress with_reducible refine kept_upd 17592219598897 ?_ rfl rfl rfl ?_ hF

theorem execDupEntryExpire_kept {F : Nat} {o0 s : State}  (hI : Kept F o0 s) (hF : Sub 32 F := by first | with_reducible assumption | exact Sub.mono (by with_reducible assumption) (by decide)) : OutKept F o0 (execDupEntryExpire s) := by
  unfold execDupEntryExpire
  repeat' first
    | with_reducible assumption | (with_reducible exact Sub.mono hF (by decide))
    | ((with_reducible refine FrameU.mk fun p hp => ?_); cases p <;> first | exact absurd hp (by decide) | exact rfl | exact trivial | exact ⟨rfl, rfl⟩)
    | with_reducible apply kept_next | fail_if_no_progress with_reducible refine kept_upd 32 ?_ rfl rfl rfl ?_ hF

theorem pmacStart_kept {F : Nat} {o0 s : State} (n : Nat) (hI : Kept F o0 s) (hF : Sub 17 F := by first | with_reducible assumption | exact Sub.mono (by with_reducible assumption) (by decide)) : Kept F o0 (pmacStart n s) := by
  unfold pmacStart
  repeat' first
    | with_reducible assumption | (with_reducible exact Sub.mono hF (by decide))
    | ((with_reducible refine FrameU.mk fun p hp => ?_); cases p <;> first | exact absurd hp (by decide) | exact rfl | exact trivial | exact ⟨rfl, rfl⟩)
    | with_reducible apply st_wr_kept | with_reducible apply st_setPort_kept | with_reducible apply kept_ite

theorem pmacApply_kept {F : Nat} {o0 s : State} (n : Nat) (hI : Kept F o0 s) (hF : Sub 17 F := by first | with_reducible assumption | exact Sub.mono (by with_reducible assumption) (by decide)) : Kept F o0 (pmacApply n s) := by
  unfold pmacApply
  repeat' first
    | with_reducible assumption | (with_reducible exact Sub.mono hF (by decide))
    | ((with_reducible refine FrameU.mk fun p hp => ?_); cases p <;> first | exact absurd hp (by decide) | exact rfl | exact trivial | exact ⟨rfl, rfl⟩)
    | with_reducible apply st_setPort_kept | with_reducible apply pmacStart_kept | with_reducible apply kept_ite

theorem pmacWrite_kept {F : Nat} {o0 s : State} (n : Nat) (hI : Kept F o0 s) (hF : Sub 17 F := by first | with_reducible assumption | exact Sub.mono (by with_reducible assumption) (by decide)) : Kept F o0 (pmacWrite n s) := by
  unfold pmacWrite
  repeat' first
    | with_reducible assumption | (with_reducible exact Sub.mono hF (by decide))
    | ((with_reducible refine FrameU.mk fun p hp => ?_); cases p <;> first | exact absurd hp (by decide) | exact rfl | exact trivial | exact ⟨rfl, rfl⟩)
    | with_reducible apply pmacApply_kept | with_reducible apply kept_ite

theorem linkUp_kept {F : Nat} {o0 s : State} (n : Nat) (fullDuplex : Bool) (gigabit : Bool) (hI : Kept F o0 s) (hF : Sub 17 F := by first | with_reducible assumption | exact Sub.mono (by with_reducible assumption) (by decide)) : Kept F o0 (linkUp n fullDuplex gigabit s) := by
  unfold linkUp
  repeat' first
    | with_reducible assumption | (with_reducible exact Sub.mono hF (by decide))
    | ((with_reducible refine FrameU.mk fun p hp => ?_); cases p <;> first | exact absurd hp (by decide) | exact rfl | exact trivial | exact ⟨rfl, rfl⟩)
    | with_reducible apply st_flag_kept | with_reducible apply st_wrB_kept | with_reducible apply st_setPort_kept
    | with_reducible apply pmacStart_kept | with_reducible apply kept_ite

theorem linkDrop_kept {F : Nat} {o0 s : State} (n : Nat) (hI : Kept F o0 s) (hF : Sub 33554481 F := by first | with_reducible assumption | exact Sub.mono (by with_reducible assumption) (by decide)) : Kept F o0 (linkDrop n s) := by
  unfold linkDrop
  repeat' first
    | with_reducible assumption | (with_reducible exact Sub.mono hF (by decide))
    | ((with_reducible refine FrameU.mk fun p hp => ?_); cases p <;> first | exact absurd hp (by decide) | exact rfl | exact trivial | exact ⟨rfl, rfl⟩)
    | with_reducible apply st_wr_kept | with_reducible apply st_inc_kept | with_reducible apply st_wrB_kept
    | with_reducible apply st_setPort_kept | with_reducible apply rxBad_kept | with_reducible apply pmacApply_kept
    | with_reducible apply kept_ite | split

theorem execLinkUp_kept {F : Nat} {o0 s : State} (n : Fin 64) (fullDuplex : Bool) (gigabit : Bool) (hI : Kept F o0 s) (hF : Sub 17 F := by first | with_reducible assumption | exact Sub.mono (by with_reducible assumption) (by decide)) : OutKept F o0 (execLinkUp n fullDuplex gigabit s) := by
  unfold execLinkUp
  repeat' first
    | with_reducible assumption | (with_reducible exact Sub.mono hF (by decide))
    | ((with_reducible refine FrameU.mk fun p hp => ?_); cases p <;> first | exact absurd hp (by decide) | exact rfl | exact trivial | exact ⟨rfl, rfl⟩)
    | with_reducible apply linkUp_kept | with_reducible apply kept_next | with_reducible apply kept_ite

theorem execAnRetry_kept {F : Nat} {o0 s : State} (n : Fin 64) (fullDuplex : Bool) (gigabit : Bool) (hI : Kept F o0 s) (hF : Sub 17 F := by first | with_reducible assumption | exact Sub.mono (by with_reducible assumption) (by decide)) : OutKept F o0 (execAnRetry n fullDuplex gigabit s) := by
  unfold execAnRetry
  repeat' first
    | with_reducible assumption | (with_reducible exact Sub.mono hF (by decide))
    | ((with_reducible refine FrameU.mk fun p hp => ?_); cases p <;> first | exact absurd hp (by decide) | exact rfl | exact trivial | exact ⟨rfl, rfl⟩)
    | with_reducible apply linkUp_kept | with_reducible apply kept_next | with_reducible apply kept_ite | split

theorem execPauseRx_kept {F : Nat} {o0 s : State} (n : Fin 64) (quanta : Fin 65536) (hI : Kept F o0 s) (hF : Sub 17 F := by first | with_reducible assumption | exact Sub.mono (by with_reducible assumption) (by decide)) : OutKept F o0 (execPauseRx n quanta s) := by
  unfold execPauseRx
  repeat' first
    | with_reducible assumption | (with_reducible exact Sub.mono hF (by decide))
    | ((with_reducible refine FrameU.mk fun p hp => ?_); cases p <;> first | exact absurd hp (by decide) | exact rfl | exact trivial | exact ⟨rfl, rfl⟩)
    | with_reducible apply pauseRx_kept | with_reducible apply kept_next | with_reducible apply kept_ite

theorem execPauseExpire_kept {F : Nat} {o0 s : State} (n : Fin 64) (hI : Kept F o0 s) (hF : Sub 17 F := by first | with_reducible assumption | exact Sub.mono (by with_reducible assumption) (by decide)) : OutKept F o0 (execPauseExpire n s) := by
  unfold execPauseExpire
  repeat' first
    | with_reducible assumption | (with_reducible exact Sub.mono hF (by decide))
    | ((with_reducible refine FrameU.mk fun p hp => ?_); cases p <;> first | exact absurd hp (by decide) | exact rfl | exact trivial | exact ⟨rfl, rfl⟩)
    | with_reducible apply st_wrB_kept | with_reducible apply st_setPort_kept | with_reducible apply kept_next
    | with_reducible apply kept_ite | split

theorem pauseObey_kept {F : Nat} {o0 s : State} (n : Nat) (v : Bool) (hI : Kept F o0 s) (hF : Sub 17 F := by first | with_reducible assumption | exact Sub.mono (by with_reducible assumption) (by decide)) : Kept F o0 (pauseObey n v s) := by
  unfold pauseObey
  repeat' first
    | with_reducible assumption | (with_reducible exact Sub.mono hF (by decide))
    | ((with_reducible refine FrameU.mk fun p hp => ?_); cases p <;> first | exact absurd hp (by decide) | exact rfl | exact trivial | exact ⟨rfl, rfl⟩)
    | with_reducible apply st_wrB_kept | with_reducible apply st_setPort_kept | with_reducible apply kept_ite

theorem execPauseObeyWrite_kept {F : Nat} {o0 s : State} (n : Fin 64) (v : Bool) (hI : Kept F o0 s) (hF : Sub 1107296657 F := by first | with_reducible assumption | exact Sub.mono (by with_reducible assumption) (by decide)) : OutKept F o0 (execPauseObeyWrite n v s) := by
  unfold execPauseObeyWrite
  repeat' first
    | with_reducible assumption | (with_reducible exact Sub.mono hF (by decide))
    | ((with_reducible refine FrameU.mk fun p hp => ?_); cases p <;> first | exact absurd hp (by decide) | exact rfl | exact trivial | exact ⟨rfl, rfl⟩)
    | with_reducible apply postModeChange_kept | with_reducible apply pauseObey_kept | with_reducible apply kept_next
    | with_reducible apply kept_ite

theorem execPmacVerify_kept {F : Nat} {o0 s : State} (n : Fin 64) (hI : Kept F o0 s) (hF : Sub 4398046511121 F := by first | with_reducible assumption | exact Sub.mono (by with_reducible assumption) (by decide)) : OutKept F o0 (execPmacVerify n s) := by
  unfold execPmacVerify
  repeat' first
    | with_reducible assumption | (with_reducible exact Sub.mono hF (by decide))
    | ((with_reducible refine FrameU.mk fun p hp => ?_); cases p <;> first | exact absurd hp (by decide) | exact rfl | exact trivial | exact ⟨rfl, rfl⟩)
    | with_reducible apply st_wr_kept | with_reducible apply st_flag_kept | with_reducible apply st_emit_kept
    | with_reducible apply st_setPort_kept | with_reducible apply kept_next | with_reducible apply kept_ite

theorem execVerifyResponseRx_kept {F : Nat} {o0 s : State} (n : Fin 64) (hI : Kept F o0 s) (hF : Sub 1 F := by first | with_reducible assumption | exact Sub.mono (by with_reducible assumption) (by decide)) : OutKept F o0 (execVerifyResponseRx n s) := by
  unfold execVerifyResponseRx
  repeat' first
    | with_reducible assumption | (with_reducible exact Sub.mono hF (by decide))
    | ((with_reducible refine FrameU.mk fun p hp => ?_); cases p <;> first | exact absurd hp (by decide) | exact rfl | exact trivial | exact ⟨rfl, rfl⟩)
    | with_reducible apply st_wr_kept | with_reducible apply kept_next | with_reducible apply kept_ite

theorem pmacEn_kept {F : Nat} {o0 s : State} (n : Nat) (v : Bool) (hI : Kept F o0 s) (hF : Sub 17 F := by first | with_reducible assumption | exact Sub.mono (by with_reducible assumption) (by decide)) : Kept F o0 (pmacEn n v s) := by
  unfold pmacEn
  repeat' first
    | with_reducible assumption | (with_reducible exact Sub.mono hF (by decide))
    | ((with_reducible refine FrameU.mk fun p hp => ?_); cases p <;> first | exact absurd hp (by decide) | exact rfl | exact trivial | exact ⟨rfl, rfl⟩)
    | with_reducible apply st_wrB_kept | with_reducible apply st_setPort_kept | with_reducible apply pmacWrite_kept
    | with_reducible apply kept_ite

theorem execPmacEnWrite_kept {F : Nat} {o0 s : State} (n : Fin 64) (v : Bool) (hI : Kept F o0 s) (hF : Sub 17 F := by first | with_reducible assumption | exact Sub.mono (by with_reducible assumption) (by decide)) : OutKept F o0 (execPmacEnWrite n v s) := by
  unfold execPmacEnWrite
  repeat' first
    | with_reducible assumption | (with_reducible exact Sub.mono hF (by decide))
    | ((with_reducible refine FrameU.mk fun p hp => ?_); cases p <;> first | exact absurd hp (by decide) | exact rfl | exact trivial | exact ⟨rfl, rfl⟩)
    | with_reducible apply pmacEn_kept | with_reducible apply kept_next

theorem txPush_kept {F : Nat} {o0 s : State} (n : Nat) (f : TxFrame) (hI : Kept F o0 s) (hF : Sub 2199023255569 F := by first | with_reducible assumption | exact Sub.mono (by with_reducible assumption) (by decide)) : ∀ t, txPush n f s = some t → Kept F o0 t := by
  intro t e
  unfold txPush at e
  try dsimp only at e
  repeat' first | (split at e) | (cases e) | (dsimp only at e)
  all_goals repeat' first
    | with_reducible assumption | (with_reducible exact Sub.mono hF (by decide))
    | ((with_reducible refine FrameU.mk fun p hp => ?_); cases p <;> first | exact absurd hp (by decide) | exact rfl | exact trivial | exact ⟨rfl, rfl⟩)
    | with_reducible apply st_eccWrite_kept | with_reducible apply st_setPort_kept

theorem txPush_kept_eq {F : Nat} {o0 s t : State} {n : Nat} {f : TxFrame} (hI : Kept F o0 s) (hF : Sub 2199023255569 F := by first | with_reducible assumption | exact Sub.mono (by with_reducible assumption) (by decide)) (e : txPush n f s = some t) : Kept F o0 t := txPush_kept n f hI hF t e

theorem execTxFrameStart_kept {F : Nat} {o0 s : State} (n : Fin 64) (sent : Nat) (hI : Kept F o0 s) (hF : Sub 17 F := by first | with_reducible assumption | exact Sub.mono (by with_reducible assumption) (by decide)) : OutKept F o0 (execTxFrameStart n sent s) := by
  unfold execTxFrameStart
  repeat' first
    | with_reducible assumption | (with_reducible exact Sub.mono hF (by decide))
    | ((with_reducible refine FrameU.mk fun p hp => ?_); cases p <;> first | exact absurd hp (by decide) | exact rfl | exact trivial | exact ⟨rfl, rfl⟩)
    | with_reducible apply st_inc_kept | with_reducible apply st_setPort_kept | with_reducible apply kept_next
    | with_reducible apply kept_ite | split

end Sys2Proof.Machine
end

