-- ==== Sys2Proof/Laws/KeptChest.lean ====
section
/-!
SUPPORT. What Machine/Chest.lean keeps of a state: one lemma per operation.
-/

namespace Sys2Proof.Machine

set_option linter.all false
set_option Elab.async false

theorem pageFill_append (room : Nat) (l : List ChestRec) : (pageFill room l).1 ++ (pageFill room l).2 = l := by
  induction l generalizing room with
  | nil => rfl
  | cons r rs ih =>
    unfold pageFill
    split
    · simp [ih]
    · rfl

theorem rollAppend_mem {pg : RollPage} {n : ChestNand} {b : List RollPage} {p : RollPage} (hb : b ∈ (rollAppend pg n).blocks) (hp : p ∈ b) :
    p = pg ∨ ∃ b ∈ n.blocks, p ∈ b := by
  unfold rollAppend at hb
  split at hb
  · rename_i l hl
    obtain ⟨ys, hy⟩ := List.getLast?_eq_some_iff.1 hl
    split at hb
    · simp only [hy, List.dropLast_concat, List.mem_append, List.mem_singleton] at hb
      rcases hb with hb | rfl
      · exact Or.inr ⟨b, by simp [hy, hb], hp⟩
      · simp only [List.mem_append, List.mem_singleton] at hp
        rcases hp with hp | rfl
        · exact Or.inr ⟨l, by simp [hy], hp⟩
        · exact Or.inl rfl
    · simp only [List.mem_append, List.mem_singleton] at hb
      rcases hb with hb | rfl
      · exact Or.inr ⟨b, List.mem_of_mem_drop hb, hp⟩
      · exact Or.inl (List.mem_singleton.1 hp)
  · simp only [List.mem_singleton] at hb
    subst hb
    exact Or.inl (List.mem_singleton.1 hp)

theorem keepCopy_staged (rs : List ChestRec) (m : ChestMram) :
    (keepCopy rs m).staged = m.staged ∧ (keepCopy rs m).lid = m.lid ∧ (keepCopy rs m).nextSeq = m.nextSeq ∧
      (keepCopy rs m).commissioned = m.commissioned := by
  unfold keepCopy
  split <;> exact ⟨rfl, rfl, rfl, rfl⟩

/-- Keep takes records at its end while it has room, and none is taken out (R364). -/
theorem keepCopy_keep (rs : List ChestRec) (m : ChestMram) :
    m.keep <+: (keepCopy rs m).keep ∧ (m.keep.length ≤ 8192 → (keepCopy rs m).keep.length ≤ 8192) := by
  unfold keepCopy
  split
  · refine ⟨List.prefix_append _ _, fun h => ?_⟩
    have := List.length_take_le (8192 - m.keep.length) (rs.filter fun r => m.keepSeq ≤ r.seq)
    simp only [List.length_append]
    omega
  · exact ⟨List.prefix_refl _, id⟩

/-- A page written and taken out of staging keeps the numbering. -/
theorem chestOk_page {m : ChestMram} {n n' : ChestNand} {pg rest : List ChestRec} (h : ChestOk m n) (hp : pg ++ rest = m.staged.dropLast)
    (hn : ∀ b ∈ n'.blocks, ∀ p ∈ b, p = { recs := pg } ∨ ∃ b ∈ n.blocks, p ∈ b) :
    ChestOk (keepCopy pg { m with staged := rest ++ m.staged.drop (m.staged.length - 1) }) n' := by
  obtain ⟨e1, e2, e3, _⟩ := keepCopy_staged pg { m with staged := rest ++ m.staged.drop (m.staged.length - 1) }
  have e : m.staged = pg ++ (rest ++ m.staged.drop (m.staged.length - 1)) := by
    rw [← List.append_assoc, hp, List.dropLast_eq_take, List.take_append_drop]
  have hs : (rest ++ m.staged.drop (m.staged.length - 1)).Sublist m.staged := by
    conv => rhs; rw [e]
    exact List.sublist_append_right _ _
  have hpg : ∀ q ∈ pg, q ∈ m.staged := fun q hq => by rw [e]; exact List.mem_append_left _ hq
  refine chestOk_of h ?_ (by rw [e3]) ?_ ((keepCopy_keep pg { m with staged := rest ++ m.staged.drop (m.staged.length - 1) }).2 h.2.2.1) (by rw [e2])
  · rw [e1]
    exact hs.map _
  · intro k hk
    rcases chestHolds_cases hk with hk | hk | ⟨b, hb, p, hpb, q, hq, rfl⟩
    · rw [e1] at hk
      exact chestHolds_staged ((hs.map _).subset hk)
    · rw [e2] at hk
      exact chestHolds_lid hk
    · rcases hn b hb p hpb with rfl | ⟨b', hb', hp'⟩
      · exact chestHolds_staged (List.mem_map_of_mem (hpg q hq))
      · exact chestHolds_roll ⟨b', hb', p, hp', q, hq, rfl⟩

theorem chestStep_page {m : ChestMram} {n n' : ChestNand} {pg rest : List ChestRec} (hp : pg ++ rest = m.staged.dropLast)
    (hn : ∀ b ∈ n'.blocks, ∀ p ∈ b, p = { recs := pg } ∨ ∃ b ∈ n.blocks, p ∈ b) (hr : n.retired = n'.retired) :
    ChestStep m n (keepCopy pg { m with staged := rest ++ m.staged.drop (m.staged.length - 1) }) n' := by
  obtain ⟨_, _, _, e4⟩ := keepCopy_staged pg { m with staged := rest ++ m.staged.drop (m.staged.length - 1) }
  exact ⟨fun h => chestOk_page h hp hn, fun c => e4.trans c,
    (keepCopy_keep pg { m with staged := rest ++ m.staged.drop (m.staged.length - 1) }).1.map _, le_of_eq hr⟩

theorem rollAppend_retired (pg : RollPage) (n : ChestNand) : n.retired = (rollAppend pg n).retired := by
  unfold rollAppend
  split
  · split <;> rfl
  · rfl

/-- A record numbered with the next number keeps the numbering. -/
theorem chestOk_write {m : ChestMram} {n : ChestNand} (h : ChestOk m n) {m' : ChestMram} {r : ChestRec} {kept : List ChestRec}
    (hm : m'.staged = kept ++ [r] ∧ m'.nextSeq = m.nextSeq + 1) (hr : r.seq = m.nextSeq) (hk : kept.Sublist m.staged)
    (hl : ∀ q ∈ m'.lid, q = r ∨ q ∈ m.lid) (hK : m'.keep = m.keep) (hL : m.lid.length ≤ 16 → m'.lid.length ≤ 16) : ChestOk m' n := by
  obtain ⟨e1, e3⟩ := hm
  have old : ∀ q ∈ m.staged, q.seq < m.nextSeq := fun q hq => h.2.1 q (by simp [hq])
  refine ⟨?_, ?_, hK ▸ h.2.2.1, hL h.2.2.2⟩
  · rw [e1, List.pairwise_append]
    refine ⟨h.1.sublist hk, List.pairwise_singleton _ _, ?_⟩
    intro a ha b hb
    rw [List.mem_singleton.1 hb, hr]
    exact old a (hk.subset ha)
  · intro q hq
    rw [e1] at hq
    rw [e3]
    simp only [List.mem_append, List.mem_singleton] at hq
    rcases hq with ((hq | rfl) | hq) | hq
    · exact (old q (hk.subset hq)).trans (Nat.lt_succ_self _)
    · omega
    · rcases hl q hq with rfl | hq
      · omega
      · exact (h.2.1 q (by simp [hq])).trans (Nat.lt_succ_self _)
    · exact (h.2.1 q (by simp [hq])).trans (Nat.lt_succ_self _)

theorem ChestStep.trans {m m' m'' : ChestMram} {n n' n'' : ChestNand} (h : ChestStep m n m' n') (k : ChestStep m' n' m'' n'') :
    ChestStep m n m'' n'' :=
  ⟨fun c => k.1 (h.1 c), h.2.trans k.2⟩

/-- Room made in staging drops its oldest records and moves them to Keep. -/
theorem stagingRoom_step (k : Nat) (m : ChestMram) (n : ChestNand) : ChestStep m n (stagingRoom k m) n := by
  unfold stagingRoom
  dsimp only
  generalize overwritten k m.staged = i
  obtain ⟨e1, e2, e3, e4⟩ := keepCopy_staged (m.staged.take i) m
  have hk := keepCopy_keep (m.staged.take i) m
  refine ⟨fun h => chestOk_of h ?_ (le_of_eq e3.symm) (fun j hj => ?_) (hk.2 h.2.2.1) (le_of_eq (congrArg List.length e2)), fun c => e4.trans c,
    hk.1.map _, le_refl _⟩
  · dsimp only
    rw [e1]
    exact (List.drop_sublist _ _).map _
  · rcases chestHolds_cases hj with hj | hj | hj
    · dsimp only at hj
      rw [e1] at hj
      exact chestHolds_staged (((List.drop_sublist _ _).map _).subset hj)
    · exact chestHolds_lid (e2 ▸ hj)
    · exact chestHolds_roll hj

theorem lid_mem {c : Prop} [Decidable c] (k : Nat) {l : List ChestRec} {r : ChestRec} :
    ∀ q ∈ (if c then (l ++ [r]).drop k else l), q = r ∨ q ∈ l := by
  intro q hq
  split at hq
  · have h := List.mem_of_mem_drop hq
    simp only [List.mem_append, List.mem_singleton] at h
    tauto
  · exact Or.inr hq

theorem lid_length {c : Prop} [Decidable c] {l : List ChestRec} {r : ChestRec} (h : l.length ≤ 16) :
    (if c then (l ++ [r]).drop (l.length + 1 - 16) else l).length ≤ 16 := by
  split
  · simp only [List.length_drop, List.length_append, List.length_singleton]
    omega
  · exact h

theorem foldl_max_le {l : List Nat} {a k : Nat} (h : k ∈ l ∨ k ≤ a) : k ≤ l.foldl max a := by
  induction l generalizing a with
  | nil => simpa using h
  | cons x xs ih =>
    refine ih ?_
    rcases h with h | h
    · rcases List.mem_cons.1 h with rfl | h
      · exact Or.inr (le_max_right _ _)
      · exact Or.inl h
    · exact Or.inr (h.trans (le_max_left _ _))

theorem st_setChs_kept {F : Nat} {o0 s : State} {c : ChestMram} (hI : Kept F o0 s) (hc : ChestStep s.mram.chs s.nand.chs c s.nand.chs) (hF : Sub 1073741824 F := by first | with_reducible assumption | exact Sub.mono (by with_reducible assumption) (by decide)) :
    Kept F o0 (s.setChs c) := kept_chs 1073741824 hI hc rfl ⟨fun p hp => by cases p <;> first | exact absurd hp (by decide) | exact rfl | exact trivial | exact ⟨rfl, rfl⟩⟩ hF

theorem retireBlock_kept {F : Nat} {o0 s : State} (block : Nat) (erase : Bool) (hI : Kept F o0 s) (hF : Sub 275985203585 F := by first | with_reducible assumption | exact Sub.mono (by with_reducible assumption) (by decide)) : Kept F o0 (retireBlock block erase s) := by
  unfold retireBlock
  dsimp only
  have h : Kept F o0 { s with nand := { s.nand with chs := { s.nand.chs with retired := s.nand.chs.retired + 1 } } } :=
    kept_chs 275985203585 hI ⟨id, id, List.prefix_refl _, Nat.le_succ _⟩ rfl ⟨fun p hp => by cases p <;> first | exact absurd hp (by decide) | exact rfl | exact trivial | exact ⟨rfl, rfl⟩⟩ hF
  generalize { s with nand := { s.nand with chs := { s.nand.chs with retired := s.nand.chs.retired + 1 } } } = u at h ⊢
  have h := post_kept 0x0C (le 2 block ++ le 1 (if erase then 1 else 0) ++ le 1 0) (st_inc_kept fCHS_ECC_CNT_UE 1 (st_flag_kept fCHS_FLT_FLAGS 3 h))
  exact kept_ite (kept_upd 275985203585 (st_flag_kept _ _ h) rfl rfl rfl ⟨fun p hp => by cases p <;> first | exact absurd hp (by decide) | exact rfl | exact trivial | exact ⟨rfl, rfl⟩⟩ hF) h

theorem rollWrite_kept {F : Nat} {o0 s : State} (pg rest : List ChestRec) (fail : Bool) (hp : pg ++ rest = s.mram.chs.staged.dropLast) (hI : Kept F o0 s) (hF : Sub 275985203585 F := by first | with_reducible assumption | exact Sub.mono (by with_reducible assumption) (by decide)) :
    Kept F o0 (rollWrite pg rest fail s) := by
  unfold rollWrite
  dsimp only
  split
  · refine retireBlock_kept _ _ (kept_of hI (T := 275985203585) ⟨fun p hp => by cases p <;> first | exact absurd hp (by decide) | exact rfl | exact trivial | exact ⟨rfl, rfl⟩⟩ hF id (Or.inl rfl) (Or.inl rfl) rfl (chestStep_page hp ?_ rfl) rfl (le_refl _) (le_refl _) (List.prefix_refl _))
    intro b hb p hpb
    rcases List.mem_append.1 hb with hb | hb
    · exact Or.inr ⟨b, hb, hpb⟩
    · rw [List.mem_singleton.1 hb] at hpb
      exact Or.inl (List.mem_singleton.1 hpb)
  · exact kept_of hI (T := 275985203585) ⟨fun p hp => by cases p <;> first | exact absurd hp (by decide) | exact rfl | exact trivial | exact ⟨rfl, rfl⟩⟩ hF id (Or.inl rfl) (Or.inl rfl) rfl (chestStep_page hp (fun b hb p hpb => rollAppend_mem hb hpb) (rollAppend_retired _ _)) rfl
      (le_refl _) (le_refl _) (List.prefix_refl _)

theorem rollAll_kept {F : Nat} {o0 s : State} (k : Nat) (hI : Kept F o0 s) (hF : Sub 275985203585 F := by first | with_reducible assumption | exact Sub.mono (by with_reducible assumption) (by decide)) : Kept F o0 (rollAll k s) := by
  induction k generalizing s with
  | zero => exact hI
  | succ k ih =>
    unfold rollAll
    have hp := pageFill_append 4064 s.mram.chs.staged.dropLast
    dsimp only
    split
    · exact hI
    · exact ih (rollWrite_kept _ _ _ hp hI)

theorem makeRoom_kept {F : Nat} {o0 s : State} (n : Nat) (hI : Kept F o0 s) (hF : Sub 275985203585 F := by first | with_reducible assumption | exact Sub.mono (by with_reducible assumption) (by decide)) : Kept F o0 (makeRoom n s) := by
  unfold makeRoom
  repeat' first
    | with_reducible assumption | (with_reducible exact Sub.mono hF (by decide))
    | ((with_reducible refine FrameU.mk fun p hp => ?_); cases p <;> first | exact absurd hp (by decide) | exact rfl | exact trivial | exact ⟨rfl, rfl⟩)
    | with_reducible apply rollAll_kept | with_reducible apply kept_ite

theorem stagePost_kept {F : Nat} {o0 s : State} (p : Post) (q : List Post) (hI : Kept F o0 s) (hF : Sub 1073741952 F := by first | with_reducible assumption | exact Sub.mono (by with_reducible assumption) (by decide)) : Kept F o0 (stagePost p q s) := by
  unfold stagePost
  dsimp only
  refine kept_chsField (st_setChs_kept hI (ChestStep.trans (stagingRoom_step (32 + p.payload.length) _ _) ?_)) (hF.mono (by decide))
  exact chestStep_of (fun h => chestOk_write h ⟨rfl, rfl⟩ rfl (List.Sublist.refl _) (lid_mem _) rfl lid_length) rfl rfl rfl

theorem recordWritten_kept {F : Nat} {o0 s : State} (code : Nat) (hI : Kept F o0 s) (hF : Sub 6597103321729 F := by first | with_reducible assumption | exact Sub.mono (by with_reducible assumption) (by decide)) : Kept F o0 (recordWritten code s) := by
  unfold recordWritten
  repeat' first
    | with_reducible assumption | (with_reducible exact Sub.mono hF (by decide))
    | ((with_reducible refine FrameU.mk fun p hp => ?_); cases p <;> first | exact absurd hp (by decide) | exact rfl | exact trivial | exact ⟨rfl, rfl⟩)
    | with_reducible apply st_inc_kept | with_reducible apply st_ev_kept | with_reducible apply st_msix_kept
    | with_reducible apply st_smEvent_kept | with_reducible apply st_eccWrite_kept | with_reducible apply kept_ite | split
    | dsimp only | fail_if_no_progress with_reducible refine kept_upd 6597103321729 ?_ rfl rfl rfl ?_ hF

theorem writeRecord_kept {F : Nat} {o0 s : State}  (hI : Kept F o0 s) (hF : Sub 6873054970753 F := by first | with_reducible assumption | exact Sub.mono (by with_reducible assumption) (by decide)) : Kept F o0 (writeRecord s) := by
  unfold writeRecord
  repeat' first
    | with_reducible assumption | (with_reducible exact Sub.mono hF (by decide))
    | ((with_reducible refine FrameU.mk fun p hp => ?_); cases p <;> first | exact absurd hp (by decide) | exact rfl | exact trivial | exact ⟨rfl, rfl⟩)
    | with_reducible apply makeRoom_kept | with_reducible apply stagePost_kept | with_reducible apply recordWritten_kept
    | with_reducible apply kept_ite | split

theorem drainPosts_kept {F : Nat} {o0 s : State}  (hI : Kept F o0 s) (hF : Sub 6873054970753 F := by first | with_reducible assumption | exact Sub.mono (by with_reducible assumption) (by decide)) : Kept F o0 (drainPosts s) := by
  unfold drainPosts
  repeat' first
    | with_reducible assumption | (with_reducible exact Sub.mono hF (by decide))
    | ((with_reducible refine FrameU.mk fun p hp => ?_); cases p <;> first | exact absurd hp (by decide) | exact rfl | exact trivial | exact ⟨rfl, rfl⟩)
    | with_reducible apply writeRecord_kept | with_reducible apply kept_ite
    | (with_reducible refine kept_foldl ?_ (fun _ _ _ => ?_)) | (intro _) | split | dsimp only
    | fail_if_no_progress with_reducible refine kept_upd 6873054970753 ?_ rfl rfl rfl ?_ hF

theorem writeDesc_kept {F : Nat} {o0 s : State}  (hI : Kept F o0 s) (hF : Sub 1073741824 F := by first | with_reducible assumption | exact Sub.mono (by with_reducible assumption) (by decide)) : Kept F o0 (writeDesc s) := by
  unfold writeDesc
  repeat' first
    | with_reducible assumption | (with_reducible exact Sub.mono hF (by decide))
    | ((with_reducible refine FrameU.mk fun p hp => ?_); cases p <;> first | exact absurd hp (by decide) | exact rfl | exact trivial | exact ⟨rfl, rfl⟩)
    | with_reducible apply st_setChs_kept | with_reducible apply kept_ite | (with_reducible refine kept_foldl ?_ (fun _ _ _ => ?_))
    | (with_reducible refine kept_foldl_fst ?_ (fun _ _ _ => ?_)) | (exact ⟨id, id, List.prefix_refl _, Nat.le_refl _⟩) | (intro _)
    | split | dsimp only | with_reducible refine kept_ports ?_ ?_ | with_reducible refine kept_pio ?_ ?_
    | fail_if_no_progress with_reducible refine kept_upd 1073741824 ?_ rfl rfl rfl ?_ hF
    | fail_if_no_progress with_reducible refine kept_chs 1073741824 ?_ ?_ rfl ?_ hF

theorem declareRange_kept {F : Nat} {o0 s : State} (first : Nat) (count : Nat) (hI : Kept F o0 s) (hF : Sub 1073741824 F := by first | with_reducible assumption | exact Sub.mono (by with_reducible assumption) (by decide)) : Kept F o0 (declareRange first count s) := by
  unfold declareRange
  repeat' first
    | with_reducible assumption | (with_reducible exact Sub.mono hF (by decide))
    | ((with_reducible refine FrameU.mk fun p hp => ?_); cases p <;> first | exact absurd hp (by decide) | exact rfl | exact trivial | exact ⟨rfl, rfl⟩)
    | with_reducible apply st_setChs_kept | with_reducible apply kept_ite | (with_reducible refine kept_foldl ?_ (fun _ _ _ => ?_))
    | (with_reducible refine kept_foldl_fst ?_ (fun _ _ _ => ?_)) | (exact ⟨id, id, List.prefix_refl _, Nat.le_refl _⟩) | (intro _)
    | split | dsimp only | with_reducible refine kept_ports ?_ ?_ | with_reducible refine kept_pio ?_ ?_
    | fail_if_no_progress with_reducible refine kept_upd 1073741824 ?_ rfl rfl rfl ?_ hF
    | fail_if_no_progress with_reducible refine kept_chs 1073741824 ?_ ?_ rfl ?_ hF

theorem recsLost_kept {F : Nat} {o0 s : State} (first : Nat) (count : Nat) (cause : Nat) (hI : Kept F o0 s) (hF : Sub 1107296641 F := by first | with_reducible assumption | exact Sub.mono (by with_reducible assumption) (by decide)) : Kept F o0 (recsLost first count cause s) := by
  unfold recsLost
  repeat' first
    | with_reducible assumption | (with_reducible exact Sub.mono hF (by decide))
    | ((with_reducible refine FrameU.mk fun p hp => ?_); cases p <;> first | exact absurd hp (by decide) | exact rfl | exact trivial | exact ⟨rfl, rfl⟩)
    | with_reducible apply st_flag_kept | with_reducible apply post_kept | with_reducible apply declareRange_kept

theorem seqSkip_kept {F : Nat} {o0 s : State} (newNext : Nat) (hI : Kept F o0 s) (hF : Sub 1107296641 F := by first | with_reducible assumption | exact Sub.mono (by with_reducible assumption) (by decide)) : Kept F o0 (seqSkip newNext s) := by
  unfold seqSkip declareRange
  dsimp only
  split
  · exact hI
  · refine st_flag_kept _ _ (post_kept _ _ (st_setChs_kept (st_setChs_kept hI (chestStep_of (fun h => ?_) rfl rfl rfl)) (ChestStep.refl _ _)))
    exact chestOk_of h (.refl _) (by dsimp only; omega) (fun k hk => hk) h.2.2.1 (le_refl _)

theorem chsUe_kept {F : Nat} {o0 s : State} (bit : Nat) (hI : Kept F o0 s) (hF : Sub 1 F := by first | with_reducible assumption | exact Sub.mono (by with_reducible assumption) (by decide)) : Kept F o0 (chsUe bit s) := by
  unfold chsUe
  repeat' first
    | with_reducible assumption | (with_reducible exact Sub.mono hF (by decide))
    | ((with_reducible refine FrameU.mk fun p hp => ?_); cases p <;> first | exact absurd hp (by decide) | exact rfl | exact trivial | exact ⟨rfl, rfl⟩)
    | with_reducible apply st_inc_kept | with_reducible apply st_flag_kept

theorem stagedLost_kept {F : Nat} {o0 s : State} (seq : Nat) (hI : Kept F o0 s) (hF : Sub 1107296641 F := by first | with_reducible assumption | exact Sub.mono (by with_reducible assumption) (by decide)) : Kept F o0 (stagedLost seq s) := by
  unfold stagedLost
  refine recsLost_kept _ _ _ (chsUe_kept _ (st_setChs_kept hI (chestStep_of (fun h => chestOk_of h ?_ (le_refl _) (fun k hk => ?_) h.2.2.1 (le_refl _)) rfl rfl rfl)))
  · exact List.filter_sublist.map _
  · rcases chestHolds_cases hk with hk | hk | hk
    · exact chestHolds_staged ((List.filter_sublist.map _).subset hk)
    · exact chestHolds_lid hk
    · exact chestHolds_roll hk

theorem repWritten_seqs (l : List ChestRec) (seq rep : Nat) :
    (l.map fun r => if r.seq = seq then { r with rep := rep } else r).map ChestRec.seq = l.map ChestRec.seq := by
  rw [List.map_map]
  refine List.map_congr_left fun r _ => ?_
  simp only [Function.comp]
  split <;> rfl

theorem chestFault_kept {F : Nat} {o0 s : State} (f : ChestFault) (hI : Kept F o0 s) (hF : Sub 275985203585 F := by first | with_reducible assumption | exact Sub.mono (by with_reducible assumption) (by decide)) : Kept F o0 (chestFault f s) := by
  unfold chestFault
  split
  · exact st_inc_kept _ _ hI
  · split
    · split
      · split
        · refine st_setChs_kept hI (chestStep_of (fun h => chestOk_of h ?_ (le_refl _) (fun k hk => ?_) h.2.2.1 (le_refl _)) rfl rfl rfl)
          · exact (repWritten_seqs _ _ _).symm ▸ List.Sublist.refl _
          · rcases chestHolds_cases hk with hk | hk | hk
            · exact chestHolds_staged (repWritten_seqs _ _ _ ▸ hk)
            · exact chestHolds_lid hk
            · exact chestHolds_roll hk
        · exact stagedLost_kept _ hI
      · exact stagedLost_kept _ hI
    · exact hI
  · dsimp only
    refine seqSkip_kept _ (chsUe_kept _ (st_setChs_kept hI (chestStep_of (fun h => ⟨List.Pairwise.nil, ?_, h.2.2⟩) rfl rfl rfl)))
    intro r hr
    refine Nat.lt_succ_of_le (foldl_max_le (Or.inl ?_))
    refine List.mem_map_of_mem ?_
    simp only [List.nil_append, List.mem_append] at hr ⊢
    tauto
  · dsimp only
    split
    · exact hI
    · refine recsLost_kept _ _ _ (chsUe_kept _ (kept_chs 275985203585 hI (chestStep_of (fun h => chestOk_of h (.refl _) (le_refl _) (fun k hk => ?_) h.2.2.1 (le_refl _)) rfl rfl rfl) rfl ⟨fun p hp => by cases p <;> first | exact absurd hp (by decide) | exact rfl | exact trivial | exact ⟨rfl, rfl⟩⟩ hF))
      rcases chestHolds_cases hk with hk | hk | ⟨b, hb, p, hp, q, hq, rfl⟩
      · exact chestHolds_staged hk
      · exact chestHolds_lid hk
      · obtain ⟨b', hb', rfl⟩ := List.mem_map.1 hb
        obtain ⟨p', hp', rfl⟩ := List.mem_map.1 hp
        refine chestHolds_roll ⟨b', hb', p', hp', q, ?_, rfl⟩
        split at hq <;> exact hq
  · exact retireBlock_kept _ _ hI
  · dsimp only
    refine post_kept _ _ (chsUe_kept _ (st_setChs_kept hI (chestStep_of (fun h => chestOk_of h (.refl _) (le_refl _) (fun k hk => hk) ?_ (le_refl _)) rfl ?_ rfl)))
    · exact (List.length_map ..).trans_le h.2.2.1
    · simp only [List.map_map]
      refine List.map_congr_left fun r _ => ?_
      simp only [Function.comp]
      split <;> rfl
  · refine post_kept _ _ (chsUe_kept _ (st_setChs_kept hI (chestStep_of (fun h => chestOk_of h (.refl _) (le_refl _) (fun k hk => ?_) h.2.2.1 (Nat.zero_le _)) rfl rfl rfl)))
    rcases chestHolds_cases hk with hk | hk | hk
    · exact chestHolds_staged hk
    · exact absurd hk (by simp)
    · exact chestHolds_roll hk
  · split
    · split
      · exact hI
      · dsimp only
        split
        · exact kept_upd 275985203585 hI rfl rfl rfl ⟨fun p hp => by cases p <;> first | exact absurd hp (by decide) | exact rfl | exact trivial | exact ⟨rfl, rfl⟩⟩ hF
        · exact recsLost_kept _ _ _ (st_setChs_kept (kept_upd 275985203585 hI rfl rfl rfl ⟨fun p hp => by cases p <;> first | exact absurd hp (by decide) | exact rfl | exact trivial | exact ⟨rfl, rfl⟩⟩ hF) (ChestStep.refl _ _))
    · exact kept_upd 275985203585 hI rfl rfl rfl ⟨fun p hp => by cases p <;> first | exact absurd hp (by decide) | exact rfl | exact trivial | exact ⟨rfl, rfl⟩⟩ hF

theorem chestFetch_kept {F : Nat} {o0 s : State} (seqLo : Nat) (hI : Kept F o0 s) (hF : Sub 129 F := by first | with_reducible assumption | exact Sub.mono (by with_reducible assumption) (by decide)) : Kept F o0 (chestFetch seqLo s) := by
  unfold chestFetch
  repeat' first
    | with_reducible assumption | (with_reducible exact Sub.mono hF (by decide))
    | ((with_reducible refine FrameU.mk fun p hp => ?_); cases p <;> first | exact absurd hp (by decide) | exact rfl | exact trivial | exact ⟨rfl, rfl⟩)
    | with_reducible apply st_wr_kept | with_reducible apply st_wrB_kept
    | fail_if_no_progress with_reducible refine kept_upd 129 ?_ rfl rfl rfl ?_ hF

theorem wrWords_kept {F : Nat} {o0 s : State} (f : Nat → Fld) (n : Nat) (bs : Bytes) (hI : Kept F o0 s) (hF : Sub 1 F := by first | with_reducible assumption | exact Sub.mono (by with_reducible assumption) (by decide)) : Kept F o0 (wrWords f n bs s) := by
  unfold wrWords
  repeat' first
    | with_reducible assumption | (with_reducible exact Sub.mono hF (by decide))
    | ((with_reducible refine FrameU.mk fun p hp => ?_); cases p <;> first | exact absurd hp (by decide) | exact rfl | exact trivial | exact ⟨rfl, rfl⟩)
    | with_reducible apply st_wr_kept | with_reducible apply kept_ite | (with_reducible refine kept_foldl ?_ (fun _ _ _ => ?_))
    | (intro _) | split | dsimp only | fail_if_no_progress with_reducible refine kept_upd 1 ?_ rfl rfl rfl ?_ hF

theorem chestFetchDone_kept {F : Nat} {o0 s : State}  (hI : Kept F o0 s) (hF : Sub 129 F := by first | with_reducible assumption | exact Sub.mono (by with_reducible assumption) (by decide)) : Kept F o0 (chestFetchDone s) := by
  unfold chestFetchDone
  repeat' first
    | with_reducible assumption | (with_reducible exact Sub.mono hF (by decide))
    | ((with_reducible refine FrameU.mk fun p hp => ?_); cases p <;> first | exact absurd hp (by decide) | exact rfl | exact trivial | exact ⟨rfl, rfl⟩)
    | with_reducible apply st_wr_kept | with_reducible apply st_wrB_kept | with_reducible apply wrWords_kept
    | with_reducible apply kept_ite | (intro _) | split | dsimp only
    | fail_if_no_progress with_reducible refine kept_upd 129 ?_ rfl rfl rfl ?_ hF

theorem execEventPost_kept {F : Nat} {o0 s : State} (code : Fin 256) (payload : Bytes) (hI : Kept F o0 s) (hF : Sub 1107296641 F := by first | with_reducible assumption | exact Sub.mono (by with_reducible assumption) (by decide)) : OutKept F o0 (execEventPost code payload s) := by
  unfold execEventPost
  repeat' first
    | with_reducible assumption | (with_reducible exact Sub.mono hF (by decide))
    | ((with_reducible refine FrameU.mk fun p hp => ?_); cases p <;> first | exact absurd hp (by decide) | exact rfl | exact trivial | exact ⟨rfl, rfl⟩)
    | with_reducible apply post_kept | with_reducible apply kept_next | with_reducible apply kept_ite

theorem execChestRecordWrite_kept {F : Nat} {o0 s : State}  (hI : Kept F o0 s) (hF : Sub 6873054970753 F := by first | with_reducible assumption | exact Sub.mono (by with_reducible assumption) (by decide)) : OutKept F o0 (execChestRecordWrite s) := by
  unfold execChestRecordWrite
  repeat' first
    | with_reducible assumption | (with_reducible exact Sub.mono hF (by decide))
    | ((with_reducible refine FrameU.mk fun p hp => ?_); cases p <;> first | exact absurd hp (by decide) | exact rfl | exact trivial | exact ⟨rfl, rfl⟩)
    | with_reducible apply writeRecord_kept | with_reducible apply kept_next | with_reducible apply kept_ite

theorem execTokenRefill_kept {F : Nat} {o0 s : State} (code : Fin 256) (hI : Kept F o0 s) (hF : Sub 128 F := by first | with_reducible assumption | exact Sub.mono (by with_reducible assumption) (by decide)) : OutKept F o0 (execTokenRefill code s) := by
  unfold execTokenRefill
  repeat' first
    | with_reducible assumption | (with_reducible exact Sub.mono hF (by decide))
    | ((with_reducible refine FrameU.mk fun p hp => ?_); cases p <;> first | exact absurd hp (by decide) | exact rfl | exact trivial | exact ⟨rfl, rfl⟩)
    | with_reducible apply refillBucket_kept | with_reducible apply kept_next

theorem execRollPageWrite_kept {F : Nat} {o0 s : State} (fail : Bool) (hI : Kept F o0 s) (hF : Sub 275985203585 F := by first | with_reducible assumption | exact Sub.mono (by with_reducible assumption) (by decide)) : OutKept F o0 (execRollPageWrite fail s) := by
  unfold execRollPageWrite
  have hp := pageFill_append 4064 s.mram.chs.staged.dropLast
  dsimp only
  exact kept_next (kept_ite (rollWrite_kept _ _ _ hp hI) hI)

theorem execChestFlush_kept {F : Nat} {o0 s : State}  (hI : Kept F o0 s) (hF : Sub 275985203585 F := by first | with_reducible assumption | exact Sub.mono (by with_reducible assumption) (by decide)) : OutKept F o0 (execChestFlush s) := by
  unfold execChestFlush
  repeat' first
    | with_reducible assumption | (with_reducible exact Sub.mono hF (by decide))
    | ((with_reducible refine FrameU.mk fun p hp => ?_); cases p <;> first | exact absurd hp (by decide) | exact rfl | exact trivial | exact ⟨rfl, rfl⟩)
    | with_reducible apply rollAll_kept | with_reducible apply kept_next | with_reducible apply kept_ite | split | dsimp only
    | fail_if_no_progress with_reducible refine kept_upd 275985203585 ?_ rfl rfl rfl ?_ hF

theorem execChestMemoryFault_kept {F : Nat} {o0 s : State} (f : ChestFault) (hI : Kept F o0 s) (hF : Sub 275985203585 F := by first | with_reducible assumption | exact Sub.mono (by with_reducible assumption) (by decide)) : OutKept F o0 (execChestMemoryFault f s) := by
  unfold execChestMemoryFault
  repeat' first
    | with_reducible assumption | (with_reducible exact Sub.mono hF (by decide))
    | ((with_reducible refine FrameU.mk fun p hp => ?_); cases p <;> first | exact absurd hp (by decide) | exact rfl | exact trivial | exact ⟨rfl, rfl⟩)
    | with_reducible apply chestFault_kept | with_reducible apply kept_next

theorem execChestFetch_kept {F : Nat} {o0 s : State} (seqLo : Nat) (hI : Kept F o0 s) (hF : Sub 129 F := by first | with_reducible assumption | exact Sub.mono (by with_reducible assumption) (by decide)) : OutKept F o0 (execChestFetch seqLo s) := by
  unfold execChestFetch
  repeat' first
    | with_reducible assumption | (with_reducible exact Sub.mono hF (by decide))
    | ((with_reducible refine FrameU.mk fun p hp => ?_); cases p <;> first | exact absurd hp (by decide) | exact rfl | exact trivial | exact ⟨rfl, rfl⟩)
    | with_reducible apply chestFetch_kept | with_reducible apply kept_next

theorem execChestFetchDone_kept {F : Nat} {o0 s : State}  (hI : Kept F o0 s) (hF : Sub 129 F := by first | with_reducible assumption | exact Sub.mono (by with_reducible assumption) (by decide)) : OutKept F o0 (execChestFetchDone s) := by
  unfold execChestFetchDone
  repeat' first
    | with_reducible assumption | (with_reducible exact Sub.mono hF (by decide))
    | ((with_reducible refine FrameU.mk fun p hp => ?_); cases p <;> first | exact absurd hp (by decide) | exact rfl | exact trivial | exact ⟨rfl, rfl⟩)
    | with_reducible apply chestFetchDone_kept | with_reducible apply kept_next

end Sys2Proof.Machine
end

