-- ==== Sys2Proof/Laws/KeptRoles.lean ====
section
/-!
SUPPORT. What Machine/Roles.lean keeps of a state: one lemma per operation.
-/

namespace Sys2Proof.Machine

set_option linter.all false
set_option Elab.async false

theorem st_setPair_kept {F : Nat} {o0 s : State} (p : Pair) (hI : Kept F o0 s) (hF : Sub 4194304 F := by first | with_reducible assumption | exact Sub.mono (by with_reducible assumption) (by decide)) : Kept F o0 (State.setPair s p) := by
  unfold State.setPair
  repeat' first
    | with_reducible assumption | (with_reducible exact Sub.mono hF (by decide))
    | ((with_reducible refine FrameU.mk fun p hp => ?_); cases p <;> first | exact absurd hp (by decide) | exact rfl | exact trivial | exact ⟨rfl, rfl⟩)
    | fail_if_no_progress with_reducible refine kept_upd 4194304 ?_ rfl rfl rfl ?_ hF

theorem st_pairEmit_kept {F : Nat} {o0 s : State} (typ : Nat) (ctr : Nat) (payload : Bytes) (hI : Kept F o0 s) (hF : Sub 4398046511104 F := by first | with_reducible assumption | exact Sub.mono (by with_reducible assumption) (by decide)) : Kept F o0 (State.pairEmit s typ ctr payload) := by
  unfold State.pairEmit
  repeat' first
    | with_reducible assumption | (with_reducible exact Sub.mono hF (by decide))
    | ((with_reducible refine FrameU.mk fun p hp => ?_); cases p <;> first | exact absurd hp (by decide) | exact rfl | exact trivial | exact ⟨rfl, rfl⟩)
    | with_reducible apply st_emit_kept

theorem st_pairSend_kept {F : Nat} {o0 s : State} (typ : Nat) (payload : Bytes) (hI : Kept F o0 s) (hF : Sub 4398050705408 F := by first | with_reducible assumption | exact Sub.mono (by with_reducible assumption) (by decide)) : Kept F o0 (State.pairSend s typ payload) := by
  unfold State.pairSend
  repeat' first
    | with_reducible assumption | (with_reducible exact Sub.mono hF (by decide))
    | ((with_reducible refine FrameU.mk fun p hp => ?_); cases p <;> first | exact absurd hp (by decide) | exact rfl | exact trivial | exact ⟨rfl, rfl⟩)
    | with_reducible apply st_setPair_kept | with_reducible apply st_pairEmit_kept | with_reducible apply kept_ite

theorem st_sendMirror_kept {F : Nat} {o0 s : State} (op : Nat) (m : Nat) (operand : Nat) (hI : Kept F o0 s) (hF : Sub 4398050705408 F := by first | with_reducible assumption | exact Sub.mono (by with_reducible assumption) (by decide)) : Kept F o0 (State.sendMirror s op m operand) := by
  unfold State.sendMirror
  repeat' first
    | with_reducible assumption | (with_reducible exact Sub.mono hF (by decide))
    | ((with_reducible refine FrameU.mk fun p hp => ?_); cases p <;> first | exact absurd hp (by decide) | exact rfl | exact trivial | exact ⟨rfl, rfl⟩)
    | with_reducible apply st_pairSend_kept

theorem st_sendForward_kept {F : Nat} {o0 s : State} (what : Nat) (payload : Bytes) (hI : Kept F o0 s) (hF : Sub 4398050705408 F := by first | with_reducible assumption | exact Sub.mono (by with_reducible assumption) (by decide)) : Kept F o0 (State.sendForward s what payload) := by
  unfold State.sendForward
  repeat' first
    | with_reducible assumption | (with_reducible exact Sub.mono hF (by decide))
    | ((with_reducible refine FrameU.mk fun p hp => ?_); cases p <;> first | exact absurd hp (by decide) | exact rfl | exact trivial | exact ⟨rfl, rfl⟩)
    | with_reducible apply st_pairSend_kept

theorem st_forwardImage_kept {F : Nat} {o0 s : State} (slot : Nat) (b : Bytes) (hI : Kept F o0 s) (hF : Sub 4398050705408 F := by first | with_reducible assumption | exact Sub.mono (by with_reducible assumption) (by decide)) : Kept F o0 (State.forwardImage s slot b) := by
  unfold State.forwardImage
  repeat' first
    | with_reducible assumption | (with_reducible exact Sub.mono hF (by decide))
    | ((with_reducible refine FrameU.mk fun p hp => ?_); cases p <;> first | exact absurd hp (by decide) | exact rfl | exact trivial | exact ⟨rfl, rfl⟩)
    | with_reducible apply st_sendForward_kept | with_reducible apply kept_ite
    | (with_reducible refine kept_foldl ?_ (fun _ _ _ => ?_)) | (intro _) | split | dsimp only
    | fail_if_no_progress with_reducible refine kept_upd 4398050705408 ?_ rfl rfl rfl ?_ hF

theorem setRole_kept {F : Nat} {o0 s : State} (r : Nat) (hI : Kept F o0 s) (hF : Sub 1 F := by first | with_reducible assumption | exact Sub.mono (by with_reducible assumption) (by decide)) : Kept F o0 (setRole r s) := by
  unfold setRole
  repeat' first
    | with_reducible assumption | (with_reducible exact Sub.mono hF (by decide))
    | ((with_reducible refine FrameU.mk fun p hp => ?_); cases p <;> first | exact absurd hp (by decide) | exact rfl | exact trivial | exact ⟨rfl, rfl⟩)
    | with_reducible apply st_wr_kept | with_reducible apply st_wrB_kept

theorem releaseAuthority_kept {F : Nat} {o0 s : State}  (hI : Kept F o0 s) (hF : Sub 4398181515265 F := by first | with_reducible assumption | exact Sub.mono (by with_reducible assumption) (by decide)) : Kept F o0 (releaseAuthority s) := by
  unfold releaseAuthority
  repeat' first
    | with_reducible assumption | (with_reducible exact Sub.mono hF (by decide))
    | ((with_reducible refine FrameU.mk fun p hp => ?_); cases p <;> first | exact absurd hp (by decide) | exact rfl | exact trivial | exact ⟨rfl, rfl⟩)
    | with_reducible apply st_wrB_kept | with_reducible apply st_emit_kept | with_reducible apply kept_ite
    | (with_reducible refine kept_foldl ?_ (fun _ _ _ => ?_)) | (with_reducible refine kept_foldl_fst ?_ (fun _ _ _ => ?_))
    | (exact ⟨id, id, List.prefix_refl _, Nat.le_refl _⟩) | (intro _) | split | dsimp only | with_reducible refine kept_ports ?_ ?_
    | with_reducible refine kept_pio ?_ ?_ | fail_if_no_progress with_reducible refine kept_upd 4398181515265 ?_ rfl rfl rfl ?_ hF
    | fail_if_no_progress with_reducible refine kept_chs 4398181515265 ?_ ?_ rfl ?_ hF

theorem joinFail_kept {F : Nat} {o0 s : State} (reason : Nat) (hI : Kept F o0 s) (hF : Sub 1111490945 F := by first | with_reducible assumption | exact Sub.mono (by with_reducible assumption) (by decide)) : Kept F o0 (joinFail reason s) := by
  unfold joinFail
  repeat' first
    | with_reducible assumption | (with_reducible exact Sub.mono hF (by decide))
    | ((with_reducible refine FrameU.mk fun p hp => ?_); cases p <;> first | exact absurd hp (by decide) | exact rfl | exact trivial | exact ⟨rfl, rfl⟩)
    | with_reducible apply st_wr_kept | with_reducible apply st_inc_kept | with_reducible apply st_flag_kept
    | with_reducible apply post_kept | with_reducible apply st_setPair_kept | with_reducible apply setRole_kept

theorem doAbdicate_kept {F : Nat} {o0 s : State} (cause : Nat) (hI : Kept F o0 s) (hF : Sub 4399293006211 F := by first | with_reducible assumption | exact Sub.mono (by with_reducible assumption) (by decide)) : Kept F o0 (doAbdicate cause s) := by
  unfold doAbdicate
  repeat' first
    | with_reducible assumption | (with_reducible exact Sub.mono hF (by decide))
    | ((with_reducible refine FrameU.mk fun p hp => ?_); cases p <;> first | exact absurd hp (by decide) | exact rfl | exact trivial | exact ⟨rfl, rfl⟩)
    | with_reducible apply st_wr_kept | with_reducible apply st_inc_kept | with_reducible apply st_flag_kept
    | with_reducible apply st_wr64_kept | with_reducible apply st_emit_kept | with_reducible apply post_kept
    | with_reducible apply st_setPair_kept | with_reducible apply st_pairSend_kept | with_reducible apply setRole_kept
    | with_reducible apply releaseAuthority_kept | fail_if_no_progress with_reducible refine kept_upd 4399293006211 ?_ rfl rfl rfl ?_ hF

theorem abdicate_kept {F : Nat} {o0 s : State} (cause : Nat) (conditional : Bool) (hI : Kept F o0 s) (hF : Sub 4399293006211 F := by first | with_reducible assumption | exact Sub.mono (by with_reducible assumption) (by decide)) : Kept F o0 (abdicate cause conditional s) := by
  unfold abdicate
  repeat' first
    | with_reducible assumption | (with_reducible exact Sub.mono hF (by decide))
    | ((with_reducible refine FrameU.mk fun p hp => ?_); cases p <;> first | exact absurd hp (by decide) | exact rfl | exact trivial | exact ⟨rfl, rfl⟩)
    | with_reducible apply st_flag_kept | with_reducible apply post_kept | with_reducible apply st_setPair_kept
    | with_reducible apply joinFail_kept | with_reducible apply doAbdicate_kept | with_reducible apply kept_ite

theorem sendHello_kept {F : Nat} {o0 s : State}  (hI : Kept F o0 s) (hF : Sub 4398046511104 F := by first | with_reducible assumption | exact Sub.mono (by with_reducible assumption) (by decide)) : Kept F o0 (sendHello s) := by
  unfold sendHello
  repeat' first
    | with_reducible assumption | (with_reducible exact Sub.mono hF (by decide))
    | ((with_reducible refine FrameU.mk fun p hp => ?_); cases p <;> first | exact absurd hp (by decide) | exact rfl | exact trivial | exact ⟨rfl, rfl⟩)
    | with_reducible apply st_pairEmit_kept

theorem seek_kept {F : Nat} {o0 s : State}  (hI : Kept F o0 s) (hF : Sub 6597073960961 F := by first | with_reducible assumption | exact Sub.mono (by with_reducible assumption) (by decide)) : Kept F o0 (seek s) := by
  unfold seek
  repeat' first
    | with_reducible assumption | (with_reducible exact Sub.mono hF (by decide))
    | ((with_reducible refine FrameU.mk fun p hp => ?_); cases p <;> first | exact absurd hp (by decide) | exact rfl | exact trivial | exact ⟨rfl, rfl⟩)
    | with_reducible apply st_flag_kept | with_reducible apply st_nextFree_kept | with_reducible apply st_setPair_kept
    | with_reducible apply setRole_kept | with_reducible apply sendHello_kept | with_reducible apply kept_ite

theorem linkLost_kept {F : Nat} {o0 s : State} (cause : Nat) (hI : Kept F o0 s) (hF : Sub 6598181257601 F := by first | with_reducible assumption | exact Sub.mono (by with_reducible assumption) (by decide)) : Kept F o0 (linkLost cause s) := by
  unfold linkLost
  repeat' first
    | with_reducible assumption | (with_reducible exact Sub.mono hF (by decide))
    | ((with_reducible refine FrameU.mk fun p hp => ?_); cases p <;> first | exact absurd hp (by decide) | exact rfl | exact trivial | exact ⟨rfl, rfl⟩)
    | with_reducible apply st_flag_kept | with_reducible apply st_wrB_kept | with_reducible apply post_kept
    | with_reducible apply st_setPair_kept | with_reducible apply joinFail_kept | with_reducible apply seek_kept
    | with_reducible apply kept_ite

end Sys2Proof.Machine
end

