-- ==== Sys2Proof/Laws/KeptTrace.lean ====
section
/-!
SUPPORT. What Machine/Trace.lean keeps of a state: one lemma per operation.
-/

namespace Sys2Proof.Machine

set_option linter.all false
set_option Elab.async false

theorem st_setPmc_kept {F : Nat} {o0 s : State} (p : Pmc) (hI : Kept F o0 s) (hF : Sub 33554432 F := by first | with_reducible assumption | exact Sub.mono (by with_reducible assumption) (by decide)) : Kept F o0 (State.setPmc s p) := by
  unfold State.setPmc
  repeat' first
    | with_reducible assumption | (with_reducible exact Sub.mono hF (by decide))
    | ((with_reducible refine FrameU.mk fun p hp => ?_); cases p <;> first | exact absurd hp (by decide) | exact rfl | exact trivial | exact ⟨rfl, rfl⟩)
    | fail_if_no_progress with_reducible refine kept_upd 33554432 ?_ rfl rfl rfl ?_ hF

theorem traceMap_kept {F : Nat} {o0 s : State} (p : TraceEnt → Bool) (f : TraceEnt → TraceEnt) (hI : Kept F o0 s) (hF : Sub 33554432 F := by first | with_reducible assumption | exact Sub.mono (by with_reducible assumption) (by decide)) : Kept F o0 (traceMap p f s) := by
  unfold traceMap
  repeat' first
    | with_reducible assumption | (with_reducible exact Sub.mono hF (by decide))
    | ((with_reducible refine FrameU.mk fun p hp => ?_); cases p <;> first | exact absurd hp (by decide) | exact rfl | exact trivial | exact ⟨rfl, rfl⟩)
    | with_reducible apply st_setPmc_kept

theorem traceCommit_kept {F : Nat} {o0 s : State} (recs : List SlotRecord) (hI : Kept F o0 s) (hF : Sub 33554433 F := by first | with_reducible assumption | exact Sub.mono (by with_reducible assumption) (by decide)) : Kept F o0 (traceCommit recs s) := by
  unfold traceCommit
  repeat' first
    | with_reducible assumption | (with_reducible exact Sub.mono hF (by decide))
    | ((with_reducible refine FrameU.mk fun p hp => ?_); cases p <;> first | exact absurd hp (by decide) | exact rfl | exact trivial | exact ⟨rfl, rfl⟩)
    | with_reducible apply st_inc_kept | with_reducible apply st_ev_kept | with_reducible apply st_setPmc_kept
    | with_reducible apply kept_ite | split

theorem traceStore_kept {F : Nat} {o0 s : State} (slot : Nat) (ing : Nat) (tick : Nat) (what : Nat) (hI : Kept F o0 s) (hF : Sub 33554432 F := by first | with_reducible assumption | exact Sub.mono (by with_reducible assumption) (by decide)) : Kept F o0 (traceStore slot ing tick what s) := by
  unfold traceStore
  repeat' first
    | with_reducible assumption | (with_reducible exact Sub.mono hF (by decide))
    | ((with_reducible refine FrameU.mk fun p hp => ?_); cases p <;> first | exact absurd hp (by decide) | exact rfl | exact trivial | exact ⟨rfl, rfl⟩)
    | with_reducible apply traceMap_kept | (intro _)

theorem traceClose_kept {F : Nat} {o0 s : State} (slots : List Nat) (n : Nat) (hI : Kept F o0 s) (hF : Sub 33554432 F := by first | with_reducible assumption | exact Sub.mono (by with_reducible assumption) (by decide)) : Kept F o0 (traceClose slots n s) := by
  unfold traceClose
  repeat' first
    | with_reducible assumption | (with_reducible exact Sub.mono hF (by decide))
    | ((with_reducible refine FrameU.mk fun p hp => ?_); cases p <;> first | exact absurd hp (by decide) | exact rfl | exact trivial | exact ⟨rfl, rfl⟩)
    | with_reducible apply traceMap_kept | (intro _)

theorem traceDispatch_kept {F : Nat} {o0 s : State} (slots : List Nat) (n : Nat) (item : Nat) (hI : Kept F o0 s) (hF : Sub 33554432 F := by first | with_reducible assumption | exact Sub.mono (by with_reducible assumption) (by decide)) : Kept F o0 (traceDispatch slots n item s) := by
  unfold traceDispatch
  repeat' first
    | with_reducible assumption | (with_reducible exact Sub.mono hF (by decide))
    | ((with_reducible refine FrameU.mk fun p hp => ?_); cases p <;> first | exact absurd hp (by decide) | exact rfl | exact trivial | exact ⟨rfl, rfl⟩)
    | with_reducible apply traceMap_kept | (intro _)

theorem traceRetire_kept {F : Nat} {o0 s : State} (n : Nat) (item : Nat) (stale : Bool) (hI : Kept F o0 s) (hF : Sub 33554432 F := by first | with_reducible assumption | exact Sub.mono (by with_reducible assumption) (by decide)) : Kept F o0 (traceRetire n item stale s) := by
  unfold traceRetire
  repeat' first
    | with_reducible assumption | (with_reducible exact Sub.mono hF (by decide))
    | ((with_reducible refine FrameU.mk fun p hp => ?_); cases p <;> first | exact absurd hp (by decide) | exact rfl | exact trivial | exact ⟨rfl, rfl⟩)
    | with_reducible apply traceMap_kept | (intro _)

theorem traceWire_kept {F : Nat} {o0 s : State} (slots : List Nat) (n : Nat) (stream : Nat) (stamp : Nat) (amend : Bool) (hI : Kept F o0 s) (hF : Sub 33554432 F := by first | with_reducible assumption | exact Sub.mono (by with_reducible assumption) (by decide)) : Kept F o0 (traceWire slots n stream stamp amend s) := by
  unfold traceWire
  repeat' first
    | with_reducible assumption | (with_reducible exact Sub.mono hF (by decide))
    | ((with_reducible refine FrameU.mk fun p hp => ?_); cases p <;> first | exact absurd hp (by decide) | exact rfl | exact trivial | exact ⟨rfl, rfl⟩)
    | with_reducible apply traceMap_kept | (intro _)

theorem traceRelease_kept {F : Nat} {o0 s : State} (n : Nat) (hI : Kept F o0 s) (hF : Sub 33554432 F := by first | with_reducible assumption | exact Sub.mono (by with_reducible assumption) (by decide)) : Kept F o0 (traceRelease n s) := by
  unfold traceRelease
  repeat' first
    | with_reducible assumption | (with_reducible exact Sub.mono hF (by decide))
    | ((with_reducible refine FrameU.mk fun p hp => ?_); cases p <;> first | exact absurd hp (by decide) | exact rfl | exact trivial | exact ⟨rfl, rfl⟩)
    | with_reducible apply traceMap_kept | (intro _)

end Sys2Proof.Machine
end

