-- ==== Sys2Proof/Laws/KeptEgress.lean ====
section
/-!
SUPPORT. What Machine/Egress.lean keeps of a state: one lemma per operation.
-/

namespace Sys2Proof.Machine

set_option linter.all false
set_option Elab.async false

theorem st_setEgr_kept {F : Nat} {o0 s : State} (e : Egr) (hI : Kept F o0 s) (hF : Sub 1048576 F := by first | with_reducible assumption | exact Sub.mono (by with_reducible assumption) (by decide)) : Kept F o0 (State.setEgr s e) := by
  unfold State.setEgr
  repeat' first
    | with_reducible assumption | (with_reducible exact Sub.mono hF (by decide))
    | ((with_reducible refine FrameU.mk fun p hp => ?_); cases p <;> first | exact absurd hp (by decide) | exact rfl | exact trivial | exact ⟨rfl, rfl⟩)
    | fail_if_no_progress with_reducible refine kept_upd 1048576 ?_ rfl rfl rfl ?_ hF

theorem st_setEgrPort_kept {F : Nat} {o0 s : State} (n : Nat) (p : EgrPort) (hI : Kept F o0 s) (hF : Sub 1048576 F := by first | with_reducible assumption | exact Sub.mono (by with_reducible assumption) (by decide)) : Kept F o0 (State.setEgrPort s n p) := by
  unfold State.setEgrPort
  repeat' first
    | with_reducible assumption | (with_reducible exact Sub.mono hF (by decide))
    | ((with_reducible refine FrameU.mk fun p hp => ?_); cases p <;> first | exact absurd hp (by decide) | exact rfl | exact trivial | exact ⟨rfl, rfl⟩)
    | with_reducible apply st_setEgr_kept

theorem st_setEgrQ_kept {F : Nat} {o0 s : State} (n : Nat) (k : Nat) (q : List EgrFrame) (hI : Kept F o0 s) (hF : Sub 1048576 F := by first | with_reducible assumption | exact Sub.mono (by with_reducible assumption) (by decide)) : Kept F o0 (State.setEgrQ s n k q) := by
  unfold State.setEgrQ
  repeat' first
    | with_reducible assumption | (with_reducible exact Sub.mono hF (by decide))
    | ((with_reducible refine FrameU.mk fun p hp => ?_); cases p <;> first | exact absurd hp (by decide) | exact rfl | exact trivial | exact ⟨rfl, rfl⟩)
    | with_reducible apply st_setEgrPort_kept

theorem st_setOutSt_kept {F : Nat} {o0 s : State} (k : Nat) (o : OutSt) (hI : Kept F o0 s) (hF : Sub 1048576 F := by first | with_reducible assumption | exact Sub.mono (by with_reducible assumption) (by decide)) : Kept F o0 (State.setOutSt s k o) := by
  unfold State.setOutSt
  repeat' first
    | with_reducible assumption | (with_reducible exact Sub.mono hF (by decide))
    | ((with_reducible refine FrameU.mk fun p hp => ?_); cases p <;> first | exact absurd hp (by decide) | exact rfl | exact trivial | exact ⟨rfl, rfl⟩)
    | with_reducible apply st_setEgr_kept

theorem streamDrop_kept {F : Nat} {o0 s : State} (k : Nat) (hI : Kept F o0 s) (hF : Sub 1048576 F := by first | with_reducible assumption | exact Sub.mono (by with_reducible assumption) (by decide)) : Kept F o0 (streamDrop k s) := by
  unfold streamDrop
  repeat' first
    | with_reducible assumption | (with_reducible exact Sub.mono hF (by decide))
    | ((with_reducible refine FrameU.mk fun p hp => ?_); cases p <;> first | exact absurd hp (by decide) | exact rfl | exact trivial | exact ⟨rfl, rfl⟩)
    | with_reducible apply st_setOutSt_kept

theorem egrOffer_kept {F : Nat} {o0 s : State} (n : Nat) (k : Nat) (e : EgrFrame) (hI : Kept F o0 s) (hF : Sub 34603009 F := by first | with_reducible assumption | exact Sub.mono (by with_reducible assumption) (by decide)) : Kept F o0 (egrOffer n k e s) := by
  unfold egrOffer
  repeat' first
    | with_reducible assumption | (with_reducible exact Sub.mono hF (by decide))
    | ((with_reducible refine FrameU.mk fun p hp => ?_); cases p <;> first | exact absurd hp (by decide) | exact rfl | exact trivial | exact ⟨rfl, rfl⟩)
    | with_reducible apply st_inc_kept | with_reducible apply st_flag_kept | with_reducible apply st_ev_kept
    | with_reducible apply st_setEgrQ_kept | with_reducible apply kept_ite

theorem withdrawn_kept {F : Nat} {o0 s : State} (f : TxFrame) (hI : Kept F o0 s) (hF : Sub 1048577 F := by first | with_reducible assumption | exact Sub.mono (by with_reducible assumption) (by decide)) : Kept F o0 (withdrawn f s) := by
  unfold withdrawn
  repeat' first
    | with_reducible assumption | (with_reducible exact Sub.mono hF (by decide))
    | ((with_reducible refine FrameU.mk fun p hp => ?_); cases p <;> first | exact absurd hp (by decide) | exact rfl | exact trivial | exact ⟨rfl, rfl⟩)
    | with_reducible apply st_inc_kept | with_reducible apply st_flag_kept | with_reducible apply streamDrop_kept
    | with_reducible apply kept_ite | split

theorem withdraw_kept {F : Nat} {o0 s : State} (n : Nat) (p : TxFrame → Bool) (hI : Kept F o0 s) (hF : Sub 1048593 F := by first | with_reducible assumption | exact Sub.mono (by with_reducible assumption) (by decide)) : Kept F o0 (withdraw n p s) := by
  unfold withdraw
  repeat' first
    | with_reducible assumption | (with_reducible exact Sub.mono hF (by decide))
    | ((with_reducible refine FrameU.mk fun p hp => ?_); cases p <;> first | exact absurd hp (by decide) | exact rfl | exact trivial | exact ⟨rfl, rfl⟩)
    | with_reducible apply st_setPort_kept | with_reducible apply st_setEgrQ_kept | with_reducible apply withdrawn_kept
    | with_reducible apply kept_ite | (with_reducible refine kept_foldl ?_ (fun _ _ _ => ?_)) | (intro _) | split | dsimp only
    | fail_if_no_progress with_reducible refine kept_upd 1048593 ?_ rfl rfl rfl ?_ hF

theorem egrStream_kept {F : Nat} {o0 s : State} (n : Nat) (k : Nat) (stream : Nat) (f : TxFrame) (hI : Kept F o0 s) (hF : Sub 34603025 F := by first | with_reducible assumption | exact Sub.mono (by with_reducible assumption) (by decide)) : Kept F o0 (egrStream n k stream f s) := by
  unfold egrStream
  repeat' first
    | with_reducible assumption | (with_reducible exact Sub.mono hF (by decide))
    | ((with_reducible refine FrameU.mk fun p hp => ?_); cases p <;> first | exact absurd hp (by decide) | exact rfl | exact trivial | exact ⟨rfl, rfl⟩)
    | with_reducible apply st_inc_kept | with_reducible apply st_ev_kept | with_reducible apply st_setEgrPort_kept
    | with_reducible apply st_setEgrQ_kept | with_reducible apply withdraw_kept | with_reducible apply kept_ite | (intro _)

theorem ringBuffers_kept {F : Nat} {o0 s : State} (data : Bytes) (addrs : List Nat) (hI : Kept F o0 s) (hF : Sub 4398080065536 F := by first | with_reducible assumption | exact Sub.mono (by with_reducible assumption) (by decide)) : Kept F o0 (ringBuffers data addrs s) := by
  unfold ringBuffers
  repeat' first
    | with_reducible assumption | (with_reducible exact Sub.mono hF (by decide))
    | ((with_reducible refine FrameU.mk fun p hp => ?_); cases p <;> first | exact absurd hp (by decide) | exact rfl | exact trivial | exact ⟨rfl, rfl⟩)
    | with_reducible apply st_dmaAll_kept

theorem ringPlace_kept {F : Nat} {o0 s : State} (r : Nat) (data : Bytes) (fl : Nat) (ns32 : Nat) (addrs : List Nat) (hI : Kept F o0 s) (hF : Sub 4398081114625 F := by first | with_reducible assumption | exact Sub.mono (by with_reducible assumption) (by decide)) : Kept F o0 (ringPlace r data fl ns32 addrs s) := by
  unfold ringPlace
  repeat' first
    | with_reducible assumption | (with_reducible exact Sub.mono hF (by decide))
    | ((with_reducible refine FrameU.mk fun p hp => ?_); cases p <;> first | exact absurd hp (by decide) | exact rfl | exact trivial | exact ⟨rfl, rfl⟩)
    | with_reducible apply st_wr_kept | with_reducible apply st_msix_kept | with_reducible apply st_dmaAll_kept
    | with_reducible apply st_setEgr_kept | with_reducible apply ringBuffers_kept

theorem ringFull_kept {F : Nat} {o0 s : State} (r : Nat) (hI : Kept F o0 s) (hF : Sub 1048577 F := by first | with_reducible assumption | exact Sub.mono (by with_reducible assumption) (by decide)) : Kept F o0 (ringFull r s) := by
  unfold ringFull
  repeat' first
    | with_reducible assumption | (with_reducible exact Sub.mono hF (by decide))
    | ((with_reducible refine FrameU.mk fun p hp => ?_); cases p <;> first | exact absurd hp (by decide) | exact rfl | exact trivial | exact ⟨rfl, rfl⟩)
    | with_reducible apply st_inc_kept | with_reducible apply st_flag_kept | with_reducible apply st_setEgr_kept

theorem hostDone_kept {F : Nat} {o0 s : State} (r : Nat) (gen : Nat) (first : Nat) (descs : List (Nat × Nat)) (refused : Bool) (stamp : Option Nat) (hI : Kept F o0 s) (hF : Sub 4398081114625 F := by first | with_reducible assumption | exact Sub.mono (by with_reducible assumption) (by decide)) : Kept F o0 (hostDone r gen first descs refused stamp s) := by
  unfold hostDone
  repeat' first
    | with_reducible assumption | (with_reducible exact Sub.mono hF (by decide))
    | ((with_reducible refine FrameU.mk fun p hp => ?_); cases p <;> first | exact absurd hp (by decide) | exact rfl | exact trivial | exact ⟨rfl, rfl⟩)
    | with_reducible apply st_wr_kept | with_reducible apply st_msix_kept | with_reducible apply st_dmaAll_kept
    | with_reducible apply st_setEgr_kept | with_reducible apply kept_ite

theorem execHostRxRingPlace_kept {F : Nat} {o0 s : State} (n : Fin 64) (addrs : List Nat) (hI : Kept F o0 s) (hF : Sub 4398081114641 F := by first | with_reducible assumption | exact Sub.mono (by with_reducible assumption) (by decide)) : OutKept F o0 (execHostRxRingPlace n addrs s) := by
  unfold execHostRxRingPlace
  repeat' first
    | with_reducible assumption | (with_reducible exact Sub.mono hF (by decide))
    | ((with_reducible refine FrameU.mk fun p hp => ?_); cases p <;> first | exact absurd hp (by decide) | exact rfl | exact trivial | exact ⟨rfl, rfl⟩)
    | with_reducible apply st_inc_kept | with_reducible apply st_flag_kept | with_reducible apply st_setPort_kept
    | with_reducible apply ringBuffers_kept | with_reducible apply ringPlace_kept | with_reducible apply ringFull_kept
    | with_reducible apply kept_next | with_reducible apply kept_ite | split | dsimp only
    | fail_if_no_progress with_reducible refine kept_upd 4398081114641 ?_ rfl rfl rfl ?_ hF

theorem execRawBlockWrite_kept {F : Nat} {o0 s : State} (k : Fin 64) (addrs : List Nat) (hI : Kept F o0 s) (hF : Sub 4398081114625 F := by first | with_reducible assumption | exact Sub.mono (by with_reducible assumption) (by decide)) : OutKept F o0 (execRawBlockWrite k addrs s) := by
  unfold execRawBlockWrite
  repeat' first
    | with_reducible assumption | (with_reducible exact Sub.mono hF (by decide))
    | ((with_reducible refine FrameU.mk fun p hp => ?_); cases p <;> first | exact absurd hp (by decide) | exact rfl | exact trivial | exact ⟨rfl, rfl⟩)
    | with_reducible apply st_flag_kept | with_reducible apply st_setEgr_kept | with_reducible apply st_setOutSt_kept
    | with_reducible apply streamDrop_kept | with_reducible apply ringBuffers_kept | with_reducible apply ringPlace_kept
    | with_reducible apply ringFull_kept | with_reducible apply kept_next | with_reducible apply kept_ite | split

theorem hostSend_kept {F : Nat} {o0 s : State} (n : Nat) (first : Nat) (ds : List (Nat × Bytes)) (hI : Kept F o0 s) (hF : Sub 4398081114625 F := by first | with_reducible assumption | exact Sub.mono (by with_reducible assumption) (by decide)) : Kept F o0 (hostSend n first ds s) := by
  unfold hostSend
  repeat' first
    | with_reducible assumption | (with_reducible exact Sub.mono hF (by decide))
    | ((with_reducible refine FrameU.mk fun p hp => ?_); cases p <;> first | exact absurd hp (by decide) | exact rfl | exact trivial | exact ⟨rfl, rfl⟩)
    | with_reducible apply st_inc_kept | with_reducible apply st_flag_kept | with_reducible apply st_ev_kept
    | with_reducible apply egrOffer_kept | with_reducible apply hostDone_kept | with_reducible apply kept_ite

theorem execHostTxProdWrite_kept {F : Nat} {o0 s : State} (n : Fin 64) (prod : Nat) (descs : List (Bytes × Bytes)) (hI : Kept F o0 s) (hF : Sub 4398081114625 F := by first | with_reducible assumption | exact Sub.mono (by with_reducible assumption) (by decide)) : OutKept F o0 (execHostTxProdWrite n prod descs s) := by
  unfold execHostTxProdWrite
  repeat' first
    | with_reducible assumption | (with_reducible exact Sub.mono hF (by decide))
    | ((with_reducible refine FrameU.mk fun p hp => ?_); cases p <;> first | exact absurd hp (by decide) | exact rfl | exact trivial | exact ⟨rfl, rfl⟩)
    | with_reducible apply st_wr_kept | with_reducible apply st_setEgr_kept | with_reducible apply hostSend_kept
    | with_reducible apply kept_next | with_reducible apply kept_ite | (with_reducible refine kept_foldl ?_ (fun _ _ _ => ?_))
    | (with_reducible refine kept_foldl_fst ?_ (fun _ _ _ => ?_)) | (exact ⟨id, id, List.prefix_refl _, Nat.le_refl _⟩) | (intro _)
    | split | dsimp only | with_reducible refine kept_ports ?_ ?_ | with_reducible refine kept_pio ?_ ?_
    | fail_if_no_progress with_reducible refine kept_upd 4398081114625 ?_ rfl rfl rfl ?_ hF
    | fail_if_no_progress with_reducible refine kept_chs 4398081114625 ?_ ?_ rfl ?_ hF

theorem execRingDmaFault_kept {F : Nat} {o0 s : State} (r : Fin 192) (hI : Kept F o0 s) (hF : Sub 1 F := by first | with_reducible assumption | exact Sub.mono (by with_reducible assumption) (by decide)) : OutKept F o0 (execRingDmaFault r s) := by
  unfold execRingDmaFault
  repeat' first
    | with_reducible assumption | (with_reducible exact Sub.mono hF (by decide))
    | ((with_reducible refine FrameU.mk fun p hp => ?_); cases p <;> first | exact absurd hp (by decide) | exact rfl | exact trivial | exact ⟨rfl, rfl⟩)
    | with_reducible apply st_wrB_kept | with_reducible apply kept_next | with_reducible apply kept_ite

theorem ringDiscard_kept {F : Nat} {o0 s : State} (r : Nat) (hI : Kept F o0 s) (hF : Sub 1048593 F := by first | with_reducible assumption | exact Sub.mono (by with_reducible assumption) (by decide)) : Kept F o0 (ringDiscard r s) := by
  unfold ringDiscard
  repeat' first
    | with_reducible assumption | (with_reducible exact Sub.mono hF (by decide))
    | ((with_reducible refine FrameU.mk fun p hp => ?_); cases p <;> first | exact absurd hp (by decide) | exact rfl | exact trivial | exact ⟨rfl, rfl⟩)
    | with_reducible apply st_inc_kept | with_reducible apply st_flag_kept | with_reducible apply st_setPort_kept
    | with_reducible apply st_setEgr_kept | with_reducible apply streamDrop_kept | with_reducible apply kept_ite
    | (with_reducible refine kept_foldl ?_ (fun _ _ _ => ?_)) | (intro _) | split | dsimp only
    | fail_if_no_progress with_reducible refine kept_upd 1048593 ?_ rfl rfl rfl ?_ hF

theorem ringForget_kept {F : Nat} {o0 s : State} (r : Nat) (hI : Kept F o0 s) (hF : Sub 1048576 F := by first | with_reducible assumption | exact Sub.mono (by with_reducible assumption) (by decide)) : Kept F o0 (ringForget r s) := by
  unfold ringForget
  repeat' first
    | with_reducible assumption | (with_reducible exact Sub.mono hF (by decide))
    | ((with_reducible refine FrameU.mk fun p hp => ?_); cases p <;> first | exact absurd hp (by decide) | exact rfl | exact trivial | exact ⟨rfl, rfl⟩)
    | with_reducible apply st_setEgr_kept

theorem ringEnable_kept {F : Nat} {o0 s : State} (r : Nat) (en : Bool) (hI : Kept F o0 s) (hF : Sub 1048593 F := by first | with_reducible assumption | exact Sub.mono (by with_reducible assumption) (by decide)) : Kept F o0 (ringEnable r en s) := by
  unfold ringEnable
  repeat' first
    | with_reducible assumption | (with_reducible exact Sub.mono hF (by decide))
    | ((with_reducible refine FrameU.mk fun p hp => ?_); cases p <;> first | exact absurd hp (by decide) | exact rfl | exact trivial | exact ⟨rfl, rfl⟩)
    | with_reducible apply st_wrB_kept | with_reducible apply ringDiscard_kept | with_reducible apply ringForget_kept
    | with_reducible apply kept_ite

theorem ringsReset_kept {F : Nat} {o0 s : State}  (hI : Kept F o0 s) (hF : Sub 1048593 F := by first | with_reducible assumption | exact Sub.mono (by with_reducible assumption) (by decide)) : Kept F o0 (ringsReset s) := by
  unfold ringsReset
  repeat' first
    | with_reducible assumption | (with_reducible exact Sub.mono hF (by decide))
    | ((with_reducible refine FrameU.mk fun p hp => ?_); cases p <;> first | exact absurd hp (by decide) | exact rfl | exact trivial | exact ⟨rfl, rfl⟩)
    | with_reducible apply st_wr_kept | with_reducible apply ringDiscard_kept | with_reducible apply ringForget_kept
    | with_reducible apply kept_ite | (with_reducible refine kept_foldl ?_ (fun _ _ _ => ?_)) | (intro _) | split | dsimp only
    | fail_if_no_progress with_reducible refine kept_upd 1048593 ?_ rfl rfl rfl ?_ hF

theorem frameRefused_kept {F : Nat} {o0 s : State} (f : TxFrame) (hI : Kept F o0 s) (hF : Sub 4398081114625 F := by first | with_reducible assumption | exact Sub.mono (by with_reducible assumption) (by decide)) : Kept F o0 (frameRefused f s) := by
  unfold frameRefused
  repeat' first
    | with_reducible assumption | (with_reducible exact Sub.mono hF (by decide))
    | ((with_reducible refine FrameU.mk fun p hp => ?_); cases p <;> first | exact absurd hp (by decide) | exact rfl | exact trivial | exact ⟨rfl, rfl⟩)
    | with_reducible apply st_inc_kept | with_reducible apply st_flag_kept | with_reducible apply streamDrop_kept
    | with_reducible apply hostDone_kept | with_reducible apply kept_ite | split

theorem cmdBad_kept {F : Nat} {o0 s : State}  (hI : Kept F o0 s) (hF : Sub 1 F := by first | with_reducible assumption | exact Sub.mono (by with_reducible assumption) (by decide)) : Kept F o0 (cmdBad s) := by
  unfold cmdBad
  repeat' first
    | with_reducible assumption | (with_reducible exact Sub.mono hF (by decide))
    | ((with_reducible refine FrameU.mk fun p hp => ?_); cases p <;> first | exact absurd hp (by decide) | exact rfl | exact trivial | exact ⟨rfl, rfl⟩)
    | with_reducible apply st_inc_kept | with_reducible apply st_flag_kept

theorem execEgressSchedule_kept {F : Nat} {o0 s : State} (n : Fin 64) (hI : Kept F o0 s) (hF : Sub 6597104370193 F := by first | with_reducible assumption | exact Sub.mono (by with_reducible assumption) (by decide)) : OutKept F o0 (execEgressSchedule n s) := by
  unfold execEgressSchedule
  repeat' first
    | with_reducible assumption | (with_reducible exact Sub.mono hF (by decide))
    | ((with_reducible refine FrameU.mk fun p hp => ?_); cases p <;> first | exact absurd hp (by decide) | exact rfl | exact trivial | exact ⟨rfl, rfl⟩)
    | (refine txPush_kept_eq ?_ ?_ (by assumption)) | with_reducible apply st_setEgrPort_kept | with_reducible apply st_setEgrQ_kept
    | with_reducible apply frameRefused_kept | with_reducible apply kept_next | with_reducible apply kept_ite | split | dsimp only
    | fail_if_no_progress with_reducible refine kept_upd 6597104370193 ?_ rfl rfl rfl ?_ hF

theorem g0Latency_kept {F : Nat} {o0 s : State} (n : Nat) (tick : Nat) (stamp : Nat) (dest : Nat) (hI : Kept F o0 s) (hF : Sub 1107296641 F := by first | with_reducible assumption | exact Sub.mono (by with_reducible assumption) (by decide)) : Kept F o0 (g0Latency n tick stamp dest s) := by
  unfold g0Latency
  repeat' first
    | with_reducible assumption | (with_reducible exact Sub.mono hF (by decide))
    | ((with_reducible refine FrameU.mk fun p hp => ?_); cases p <;> first | exact absurd hp (by decide) | exact rfl | exact trivial | exact ⟨rfl, rfl⟩)
    | with_reducible apply st_wr_kept | with_reducible apply st_flag_kept | with_reducible apply st_wrMax_kept
    | with_reducible apply postAt_kept | with_reducible apply kept_ite

theorem stewFrame_kept {F : Nat} {o0 s : State} (n : Nat) (bytes : Bytes) (hI : Kept F o0 s) (hF : Sub 34603009 F := by first | with_reducible assumption | exact Sub.mono (by with_reducible assumption) (by decide)) : Kept F o0 (stewFrame n bytes s) := by
  unfold stewFrame
  repeat' first
    | with_reducible assumption | (with_reducible exact Sub.mono hF (by decide))
    | ((with_reducible refine FrameU.mk fun p hp => ?_); cases p <;> first | exact absurd hp (by decide) | exact rfl | exact trivial | exact ⟨rfl, rfl⟩)
    | with_reducible apply egrOffer_kept

theorem ptpFrameOut_kept {F : Nat} {o0 s : State} (k : Nat) (typ : Nat) (flags : Nat) (seq : Nat) (log : Nat) (body : Bytes) (msg : PtpMsg) (hI : Kept F o0 s) (hF : Sub 34603009 F := by first | with_reducible assumption | exact Sub.mono (by with_reducible assumption) (by decide)) : Kept F o0 (ptpFrameOut k typ flags seq log body msg s) := by
  unfold ptpFrameOut
  repeat' first
    | with_reducible assumption | (with_reducible exact Sub.mono hF (by decide))
    | ((with_reducible refine FrameU.mk fun p hp => ?_); cases p <;> first | exact absurd hp (by decide) | exact rfl | exact trivial | exact ⟨rfl, rfl⟩)
    | with_reducible apply egrOffer_kept

theorem ptpStamp_kept {F : Nat} {o0 s : State} (k : Nat) (msg : PtpMsg) (stamp : Nat) (hI : Kept F o0 s) (hF : Sub 34603017 F := by first | with_reducible assumption | exact Sub.mono (by with_reducible assumption) (by decide)) : Kept F o0 (ptpStamp k msg stamp s) := by
  unfold ptpStamp
  repeat' first
    | with_reducible assumption | (with_reducible exact Sub.mono hF (by decide))
    | ((with_reducible refine FrameU.mk fun p hp => ?_); cases p <;> first | exact absurd hp (by decide) | exact rfl | exact trivial | exact ⟨rfl, rfl⟩)
    | with_reducible apply ptpFrameOut_kept | with_reducible apply kept_ite | split | dsimp only
    | fail_if_no_progress with_reducible refine kept_upd 34603017 ?_ rfl rfl rfl ?_ hF

theorem returnStamp_kept {F : Nat} {o0 s : State} (n : Nat) (w : OnWire) (stamp : Nat) (hI : Kept F o0 s) (hF : Sub 4399154856841 F := by first | with_reducible assumption | exact Sub.mono (by with_reducible assumption) (by decide)) : Kept F o0 (returnStamp n w stamp s) := by
  unfold returnStamp
  repeat' first
    | with_reducible assumption | (with_reducible exact Sub.mono hF (by decide))
    | ((with_reducible refine FrameU.mk fun p hp => ?_); cases p <;> first | exact absurd hp (by decide) | exact rfl | exact trivial | exact ⟨rfl, rfl⟩)
    | with_reducible apply st_inc_kept | with_reducible apply st_ev_kept | with_reducible apply traceWire_kept
    | with_reducible apply st_setEgr_kept | with_reducible apply st_setOutSt_kept | with_reducible apply hostDone_kept
    | with_reducible apply g0Latency_kept | with_reducible apply ptpStamp_kept | with_reducible apply kept_ite | split | dsimp only
    | fail_if_no_progress with_reducible refine kept_upd 4399154856841 ?_ rfl rfl rfl ?_ hF

theorem execTxFrameSent_kept {F : Nat} {o0 s : State} (n : Fin 64) (stamp : Nat) (ue : Bool) (ce : Nat) (hI : Kept F o0 s) (hF : Sub 4399154856857 F := by first | with_reducible assumption | exact Sub.mono (by with_reducible assumption) (by decide)) : OutKept F o0 (execTxFrameSent n stamp ue ce s) := by
  unfold execTxFrameSent
  repeat' first
    | with_reducible assumption | (with_reducible exact Sub.mono hF (by decide))
    | ((with_reducible refine FrameU.mk fun p hp => ?_); cases p <;> first | exact absurd hp (by decide) | exact rfl | exact trivial | exact ⟨rfl, rfl⟩)
    | with_reducible apply st_inc_kept | with_reducible apply st_flag_kept | with_reducible apply st_emit_kept
    | with_reducible apply st_ev_kept | with_reducible apply st_setPort_kept | with_reducible apply pmacApply_kept
    | with_reducible apply returnStamp_kept | with_reducible apply kept_next | with_reducible apply kept_ite | split | dsimp only
    | fail_if_no_progress with_reducible refine kept_upd 4399154856857 ?_ rfl rfl rfl ?_ hF

theorem portLinkLost_kept {F : Nat} {o0 s : State} (n : Nat) (hI : Kept F o0 s) (hF : Sub 34603057 F := by first | with_reducible assumption | exact Sub.mono (by with_reducible assumption) (by decide)) : Kept F o0 (portLinkLost n s) := by
  unfold portLinkLost
  repeat' first
    | with_reducible assumption | (with_reducible exact Sub.mono hF (by decide))
    | ((with_reducible refine FrameU.mk fun p hp => ?_); cases p <;> first | exact absurd hp (by decide) | exact rfl | exact trivial | exact ⟨rfl, rfl⟩)
    | with_reducible apply st_inc_kept | with_reducible apply st_flag_kept | with_reducible apply st_setPort_kept
    | with_reducible apply linkDrop_kept | with_reducible apply withdraw_kept | with_reducible apply kept_ite | (intro _)

theorem execLinkDown_kept {F : Nat} {o0 s : State} (n : Fin 64) (hI : Kept F o0 s) (hF : Sub 34603057 F := by first | with_reducible assumption | exact Sub.mono (by with_reducible assumption) (by decide)) : OutKept F o0 (execLinkDown n s) := by
  unfold execLinkDown
  repeat' first
    | with_reducible assumption | (with_reducible exact Sub.mono hF (by decide))
    | ((with_reducible refine FrameU.mk fun p hp => ?_); cases p <;> first | exact absurd hp (by decide) | exact rfl | exact trivial | exact ⟨rfl, rfl⟩)
    | with_reducible apply st_flag_kept | with_reducible apply portLinkLost_kept | with_reducible apply kept_next
    | with_reducible apply kept_ite

theorem linkRestart_kept {F : Nat} {o0 s : State} (n : Nat) (hI : Kept F o0 s) (hF : Sub 34603057 F := by first | with_reducible assumption | exact Sub.mono (by with_reducible assumption) (by decide)) : Kept F o0 (linkRestart n s) := by
  unfold linkRestart
  repeat' first
    | with_reducible assumption | (with_reducible exact Sub.mono hF (by decide))
    | ((with_reducible refine FrameU.mk fun p hp => ?_); cases p <;> first | exact absurd hp (by decide) | exact rfl | exact trivial | exact ⟨rfl, rfl⟩)
    | with_reducible apply st_setPort_kept | with_reducible apply portLinkLost_kept | with_reducible apply kept_ite

theorem execLinkRestart_kept {F : Nat} {o0 s : State} (n : Fin 64) (hI : Kept F o0 s) (hF : Sub 34603057 F := by first | with_reducible assumption | exact Sub.mono (by with_reducible assumption) (by decide)) : OutKept F o0 (execLinkRestart n s) := by
  unfold execLinkRestart
  repeat' first
    | with_reducible assumption | (with_reducible exact Sub.mono hF (by decide))
    | ((with_reducible refine FrameU.mk fun p hp => ?_); cases p <;> first | exact absurd hp (by decide) | exact rfl | exact trivial | exact ⟨rfl, rfl⟩)
    | with_reducible apply linkRestart_kept | with_reducible apply kept_next

end Sys2Proof.Machine
end

