-- ==== Sys2Proof/Laws/KeptClave.lean ====
section
/-!
SUPPORT. What Machine/Clave.lean keeps of a state: one lemma per operation.
-/

namespace Sys2Proof.Machine

set_option linter.all false
set_option Elab.async false

theorem st_setClv_kept {F : Nat} {o0 s : State} (c : Clave) (hI : Kept F o0 s) (hF : Sub 8 F := by first | with_reducible assumption | exact Sub.mono (by with_reducible assumption) (by decide)) : Kept F o0 (State.setClv s c) := by
  unfold State.setClv
  repeat' first
    | with_reducible assumption | (with_reducible exact Sub.mono hF (by decide))
    | ((with_reducible refine FrameU.mk fun p hp => ?_); cases p <;> first | exact absurd hp (by decide) | exact rfl | exact trivial | exact ⟨rfl, rfl⟩)
    | fail_if_no_progress with_reducible refine kept_upd 8 ?_ rfl rfl rfl ?_ hF

theorem st_setSrcHist_kept {F : Nat} {o0 s : State} (src : Nat) (h : SrcHist) (hI : Kept F o0 s) (hF : Sub 8 F := by first | with_reducible assumption | exact Sub.mono (by with_reducible assumption) (by decide)) : Kept F o0 (State.setSrcHist s src h) := by
  unfold State.setSrcHist
  repeat' first
    | with_reducible assumption | (with_reducible exact Sub.mono hF (by decide))
    | ((with_reducible refine FrameU.mk fun p hp => ?_); cases p <;> first | exact absurd hp (by decide) | exact rfl | exact trivial | exact ⟨rfl, rfl⟩)
    | with_reducible apply st_setClv_kept

theorem updateQual_kept {F : Nat} {o0 s : State}  (hI : Kept F o0 s) (hF : Sub 4399293006211 F := by first | with_reducible assumption | exact Sub.mono (by with_reducible assumption) (by decide)) : Kept F o0 (updateQual s) := by
  unfold updateQual
  repeat' first
    | with_reducible assumption | (with_reducible exact Sub.mono hF (by decide))
    | ((with_reducible refine FrameU.mk fun p hp => ?_); cases p <;> first | exact absurd hp (by decide) | exact rfl | exact trivial | exact ⟨rfl, rfl⟩)
    | with_reducible apply st_flag_kept | with_reducible apply st_wrB_kept | with_reducible apply st_smEvent_kept
    | with_reducible apply abdicate_kept | with_reducible apply kept_ite

theorem endEpisode_kept {F : Nat} {o0 s : State}  (hI : Kept F o0 s) (hF : Sub 9 F := by first | with_reducible assumption | exact Sub.mono (by with_reducible assumption) (by decide)) : Kept F o0 (endEpisode s) := by
  unfold endEpisode
  repeat' first
    | with_reducible assumption | (with_reducible exact Sub.mono hF (by decide))
    | ((with_reducible refine FrameU.mk fun p hp => ?_); cases p <;> first | exact absurd hp (by decide) | exact rfl | exact trivial | exact ⟨rfl, rfl⟩)
    | with_reducible apply st_wrB_kept | with_reducible apply st_setClv_kept

theorem stepTime_kept {F : Nat} {o0 s : State} (d : Int) (hI : Kept F o0 s) (hF : Sub 9 F := by first | with_reducible assumption | exact Sub.mono (by with_reducible assumption) (by decide)) : Kept F o0 (stepTime d s) := by
  unfold stepTime
  repeat' first
    | with_reducible assumption | (with_reducible exact Sub.mono hF (by decide))
    | ((with_reducible refine FrameU.mk fun p hp => ?_); cases p <;> first | exact absurd hp (by decide) | exact rfl | exact trivial | exact ⟨rfl, rfl⟩)
    | with_reducible apply st_wrSym_kept | with_reducible apply st_setClv_kept

theorem enterHoldover_kept {F : Nat} {o0 s : State} (loss : Bool) (hI : Kept F o0 s) (hF : Sub 4399293006219 F := by first | with_reducible assumption | exact Sub.mono (by with_reducible assumption) (by decide)) : Kept F o0 (enterHoldover loss s) := by
  unfold enterHoldover
  repeat' first
    | with_reducible assumption | (with_reducible exact Sub.mono hF (by decide))
    | ((with_reducible refine FrameU.mk fun p hp => ?_); cases p <;> first | exact absurd hp (by decide) | exact rfl | exact trivial | exact ⟨rfl, rfl⟩)
    | with_reducible apply st_wr_kept | with_reducible apply st_wrSat_kept | with_reducible apply st_flag_kept
    | with_reducible apply st_wrB_kept | with_reducible apply post_kept | with_reducible apply st_setClv_kept
    | with_reducible apply updateQual_kept

theorem selectSrc_kept {F : Nat} {o0 s : State} (src : Nat) (hI : Kept F o0 s) (hF : Sub 9 F := by first | with_reducible assumption | exact Sub.mono (by with_reducible assumption) (by decide)) : Kept F o0 (selectSrc src s) := by
  unfold selectSrc
  repeat' first
    | with_reducible assumption | (with_reducible exact Sub.mono hF (by decide))
    | ((with_reducible refine FrameU.mk fun p hp => ?_); cases p <;> first | exact absurd hp (by decide) | exact rfl | exact trivial | exact ⟨rfl, rfl⟩)
    | with_reducible apply st_wr_kept | with_reducible apply st_wrB_kept | with_reducible apply endEpisode_kept
    | with_reducible apply kept_ite

theorem enterLocked_kept {F : Nat} {o0 s : State} (src : Nat) (hI : Kept F o0 s) (hF : Sub 4399293006219 F := by first | with_reducible assumption | exact Sub.mono (by with_reducible assumption) (by decide)) : Kept F o0 (enterLocked src s) := by
  unfold enterLocked
  repeat' first
    | with_reducible assumption | (with_reducible exact Sub.mono hF (by decide))
    | ((with_reducible refine FrameU.mk fun p hp => ?_); cases p <;> first | exact absurd hp (by decide) | exact rfl | exact trivial | exact ⟨rfl, rfl⟩)
    | with_reducible apply st_wr_kept | with_reducible apply updateQual_kept | with_reducible apply endEpisode_kept
    | with_reducible apply selectSrc_kept

theorem fixTickSecond_kept {F : Nat} {o0 s : State}  (hI : Kept F o0 s) (hF : Sub 8 F := by first | with_reducible assumption | exact Sub.mono (by with_reducible assumption) (by decide)) : Kept F o0 (fixTickSecond s) := by
  unfold fixTickSecond
  repeat' first
    | with_reducible assumption | (with_reducible exact Sub.mono hF (by decide))
    | ((with_reducible refine FrameU.mk fun p hp => ?_); cases p <;> first | exact absurd hp (by decide) | exact rfl | exact trivial | exact ⟨rfl, rfl⟩)
    | with_reducible apply st_setClv_kept | with_reducible apply kept_ite | split

theorem firstLockStep_kept {F : Nat} {o0 s : State}  (hI : Kept F o0 s) (hF : Sub 4399293006219 F := by first | with_reducible assumption | exact Sub.mono (by with_reducible assumption) (by decide)) : Kept F o0 (firstLockStep s) := by
  unfold firstLockStep
  repeat' first
    | with_reducible assumption | (with_reducible exact Sub.mono hF (by decide))
    | ((with_reducible refine FrameU.mk fun p hp => ?_); cases p <;> first | exact absurd hp (by decide) | exact rfl | exact trivial | exact ⟨rfl, rfl⟩)
    | with_reducible apply st_wrB_kept | with_reducible apply post_kept | with_reducible apply st_setClv_kept
    | with_reducible apply updateQual_kept | with_reducible apply stepTime_kept

theorem tryFirstLock_kept {F : Nat} {o0 s : State}  (hI : Kept F o0 s) (hF : Sub 4399293006219 F := by first | with_reducible assumption | exact Sub.mono (by with_reducible assumption) (by decide)) : Kept F o0 (tryFirstLock s) := by
  unfold tryFirstLock
  repeat' first
    | with_reducible assumption | (with_reducible exact Sub.mono hF (by decide))
    | ((with_reducible refine FrameU.mk fun p hp => ?_); cases p <;> first | exact absurd hp (by decide) | exact rfl | exact trivial | exact ⟨rfl, rfl⟩)
    | with_reducible apply firstLockStep_kept | with_reducible apply kept_ite

theorem servo_kept {F : Nat} {o0 s : State} (ofs : Int) (hI : Kept F o0 s) (hF : Sub 9 F := by first | with_reducible assumption | exact Sub.mono (by with_reducible assumption) (by decide)) : Kept F o0 (servo ofs s) := by
  unfold servo
  repeat' first
    | with_reducible assumption | (with_reducible exact Sub.mono hF (by decide))
    | ((with_reducible refine FrameU.mk fun p hp => ?_); cases p <;> first | exact absurd hp (by decide) | exact rfl | exact trivial | exact ⟨rfl, rfl⟩)
    | with_reducible apply st_wrSat_kept | with_reducible apply st_setClv_kept

theorem acceptSample_kept {F : Nat} {o0 s : State} (ofs : Int) (hI : Kept F o0 s) (hF : Sub 4399293006219 F := by first | with_reducible assumption | exact Sub.mono (by with_reducible assumption) (by decide)) : Kept F o0 (acceptSample ofs s) := by
  unfold acceptSample
  repeat' first
    | with_reducible assumption | (with_reducible exact Sub.mono hF (by decide))
    | ((with_reducible refine FrameU.mk fun p hp => ?_); cases p <;> first | exact absurd hp (by decide) | exact rfl | exact trivial | exact ⟨rfl, rfl⟩)
    | with_reducible apply st_setClv_kept | with_reducible apply updateQual_kept | with_reducible apply endEpisode_kept
    | with_reducible apply enterLocked_kept | with_reducible apply fixTickSecond_kept | with_reducible apply servo_kept
    | with_reducible apply kept_ite

theorem refuseSample_kept {F : Nat} {o0 s : State} (ofs : Int) (hI : Kept F o0 s) (hF : Sub 4399293006219 F := by first | with_reducible assumption | exact Sub.mono (by with_reducible assumption) (by decide)) : Kept F o0 (refuseSample ofs s) := by
  unfold refuseSample
  repeat' first
    | with_reducible assumption | (with_reducible exact Sub.mono hF (by decide))
    | ((with_reducible refine FrameU.mk fun p hp => ?_); cases p <;> first | exact absurd hp (by decide) | exact rfl | exact trivial | exact ⟨rfl, rfl⟩)
    | with_reducible apply st_flag_kept | with_reducible apply st_wrB_kept | with_reducible apply post_kept
    | with_reducible apply st_setClv_kept | with_reducible apply enterHoldover_kept | with_reducible apply kept_ite | split

theorem takeSample_kept {F : Nat} {o0 s : State} (src : Nat) (ofs : Int) (inacc : Nat) (hI : Kept F o0 s) (hF : Sub 4399293006219 F := by first | with_reducible assumption | exact Sub.mono (by with_reducible assumption) (by decide)) : Kept F o0 (takeSample src ofs inacc s) := by
  unfold takeSample
  repeat' first
    | with_reducible assumption | (with_reducible exact Sub.mono hF (by decide))
    | ((with_reducible refine FrameU.mk fun p hp => ?_); cases p <;> first | exact absurd hp (by decide) | exact rfl | exact trivial | exact ⟨rfl, rfl⟩)
    | with_reducible apply st_wr_kept | with_reducible apply st_wrSym_kept | with_reducible apply st_flag_kept
    | with_reducible apply post_kept | with_reducible apply st_setClv_kept | with_reducible apply st_setSrcHist_kept
    | with_reducible apply updateQual_kept | with_reducible apply endEpisode_kept | with_reducible apply selectSrc_kept
    | with_reducible apply enterLocked_kept | with_reducible apply tryFirstLock_kept | with_reducible apply acceptSample_kept
    | with_reducible apply refuseSample_kept | with_reducible apply kept_ite | split

theorem unusable_kept {F : Nat} {o0 s : State} (src : Nat) (hI : Kept F o0 s) (hF : Sub 8 F := by first | with_reducible assumption | exact Sub.mono (by with_reducible assumption) (by decide)) : Kept F o0 (unusable src s) := by
  unfold unusable
  repeat' first
    | with_reducible assumption | (with_reducible exact Sub.mono hF (by decide))
    | ((with_reducible refine FrameU.mk fun p hp => ?_); cases p <;> first | exact absurd hp (by decide) | exact rfl | exact trivial | exact ⟨rfl, rfl⟩)
    | with_reducible apply st_setClv_kept | with_reducible apply st_setSrcHist_kept | with_reducible apply kept_ite | split
    | dsimp only | fail_if_no_progress with_reducible refine kept_upd 8 ?_ rfl rfl rfl ?_ hF

theorem sourceOffset_kept {F : Nat} {o0 s : State} (ofs : Option Nat) (hI : Kept F o0 s) (hF : Sub 536870913 F := by first | with_reducible assumption | exact Sub.mono (by with_reducible assumption) (by decide)) : Kept F o0 (sourceOffset ofs s) := by
  unfold sourceOffset
  repeat' first
    | with_reducible assumption | (with_reducible exact Sub.mono hF (by decide))
    | ((with_reducible refine FrameU.mk fun p hp => ?_); cases p <;> first | exact absurd hp (by decide) | exact rfl | exact trivial | exact ⟨rfl, rfl⟩)
    | with_reducible apply st_wr_kept | with_reducible apply st_wrB_kept | with_reducible apply kept_ite | split | dsimp only
    | fail_if_no_progress with_reducible refine kept_upd 536870913 ?_ rfl rfl rfl ?_ hF

theorem sourceUtc_kept {F : Nat} {o0 s : State} (ofs : Option Nat) (leap : Option (Nat × Bool)) (hI : Kept F o0 s) (hF : Sub 536870921 F := by first | with_reducible assumption | exact Sub.mono (by with_reducible assumption) (by decide)) : Kept F o0 (sourceUtc ofs leap s) := by
  unfold sourceUtc
  repeat' first
    | with_reducible assumption | (with_reducible exact Sub.mono hF (by decide))
    | ((with_reducible refine FrameU.mk fun p hp => ?_); cases p <;> first | exact absurd hp (by decide) | exact rfl | exact trivial | exact ⟨rfl, rfl⟩)
    | with_reducible apply st_wrB_kept | with_reducible apply st_setClv_kept | with_reducible apply sourceOffset_kept
    | with_reducible apply kept_ite | split | dsimp only
    | fail_if_no_progress with_reducible refine kept_upd 536870921 ?_ rfl rfl rfl ?_ hF

theorem st_setPtpPort_kept {F : Nat} {o0 s : State} (k : Nat) (p : PtpPort) (hI : Kept F o0 s) (hF : Sub 8 F := by first | with_reducible assumption | exact Sub.mono (by with_reducible assumption) (by decide)) : Kept F o0 (State.setPtpPort s k p) := by
  unfold State.setPtpPort
  repeat' first
    | with_reducible assumption | (with_reducible exact Sub.mono hF (by decide))
    | ((with_reducible refine FrameU.mk fun p hp => ?_); cases p <;> first | exact absurd hp (by decide) | exact rfl | exact trivial | exact ⟨rfl, rfl⟩)
    | with_reducible apply st_setClv_kept

theorem runBmca_kept {F : Nat} {o0 s : State}  (hI : Kept F o0 s) (hF : Sub 8 F := by first | with_reducible assumption | exact Sub.mono (by with_reducible assumption) (by decide)) : Kept F o0 (runBmca s) := by
  unfold runBmca
  repeat' first
    | with_reducible assumption | (with_reducible exact Sub.mono hF (by decide))
    | ((with_reducible refine FrameU.mk fun p hp => ?_); cases p <;> first | exact absurd hp (by decide) | exact rfl | exact trivial | exact ⟨rfl, rfl⟩)
    | with_reducible apply st_setPtpPort_kept | with_reducible apply kept_ite
    | (with_reducible refine kept_foldl ?_ (fun _ _ _ => ?_)) | (intro _) | split | dsimp only
    | fail_if_no_progress with_reducible refine kept_upd 8 ?_ rfl rfl rfl ?_ hF

theorem ptpSample_kept {F : Nat} {o0 s : State} (k : Nat) (t1 : Nat) (t2 : Nat) (corr : Int) (hI : Kept F o0 s) (hF : Sub 4399829877131 F := by first | with_reducible assumption | exact Sub.mono (by with_reducible assumption) (by decide)) : Kept F o0 (ptpSample k t1 t2 corr s) := by
  unfold ptpSample
  repeat' first
    | with_reducible assumption | (with_reducible exact Sub.mono hF (by decide))
    | ((with_reducible refine FrameU.mk fun p hp => ?_); cases p <;> first | exact absurd hp (by decide) | exact rfl | exact trivial | exact ⟨rfl, rfl⟩)
    | with_reducible apply st_flag_kept | with_reducible apply post_kept | with_reducible apply st_setClv_kept
    | with_reducible apply takeSample_kept | with_reducible apply sourceOffset_kept | with_reducible apply st_setPtpPort_kept
    | with_reducible apply kept_ite

theorem execSync_kept {F : Nat} {o0 s : State} (k : Fin 8) (dom : Fin 256) (seq : Nat) (t1 : Nat) (t2 : Nat) (corr : Int) (twoStep : Bool) (hI : Kept F o0 s) (hF : Sub 4399829877131 F := by first | with_reducible assumption | exact Sub.mono (by with_reducible assumption) (by decide)) : OutKept F o0 (execSync k dom seq t1 t2 corr twoStep s) := by
  unfold execSync
  repeat' first
    | with_reducible assumption | (with_reducible exact Sub.mono hF (by decide))
    | ((with_reducible refine FrameU.mk fun p hp => ?_); cases p <;> first | exact absurd hp (by decide) | exact rfl | exact trivial | exact ⟨rfl, rfl⟩)
    | with_reducible apply st_setPtpPort_kept | with_reducible apply ptpSample_kept | with_reducible apply kept_next
    | with_reducible apply kept_ite

theorem execFollowUp_kept {F : Nat} {o0 s : State} (k : Fin 8) (dom : Fin 256) (seq : Nat) (t1 : Nat) (corr : Int) (hI : Kept F o0 s) (hF : Sub 4399829877131 F := by first | with_reducible assumption | exact Sub.mono (by with_reducible assumption) (by decide)) : OutKept F o0 (execFollowUp k dom seq t1 corr s) := by
  unfold execFollowUp
  repeat' first
    | with_reducible assumption | (with_reducible exact Sub.mono hF (by decide))
    | ((with_reducible refine FrameU.mk fun p hp => ?_); cases p <;> first | exact absurd hp (by decide) | exact rfl | exact trivial | exact ⟨rfl, rfl⟩)
    | with_reducible apply st_setPtpPort_kept | with_reducible apply ptpSample_kept | with_reducible apply kept_next
    | with_reducible apply kept_ite | split

theorem execAnnounce_kept {F : Nat} {o0 s : State} (k : Fin 8) (dom : Fin 256) (ds : PtpDataset) (interval : Nat) (hI : Kept F o0 s) (hF : Sub 536870921 F := by first | with_reducible assumption | exact Sub.mono (by with_reducible assumption) (by decide)) : OutKept F o0 (execAnnounce k dom ds interval s) := by
  unfold execAnnounce
  repeat' first
    | with_reducible assumption | (with_reducible exact Sub.mono hF (by decide))
    | ((with_reducible refine FrameU.mk fun p hp => ?_); cases p <;> first | exact absurd hp (by decide) | exact rfl | exact trivial | exact ⟨rfl, rfl⟩)
    | with_reducible apply sourceUtc_kept | with_reducible apply st_setPtpPort_kept | with_reducible apply runBmca_kept
    | with_reducible apply kept_next | with_reducible apply kept_ite

theorem execPdelayReq_kept {F : Nat} {o0 s : State} (k : Fin 8) (dom : Fin 256) (seq : Nat) (t2 : Nat) (asker : Nat) (hI : Kept F o0 s) (hF : Sub 34603009 F := by first | with_reducible assumption | exact Sub.mono (by with_reducible assumption) (by decide)) : OutKept F o0 (execPdelayReq k dom seq t2 asker s) := by
  unfold execPdelayReq
  repeat' first
    | with_reducible assumption | (with_reducible exact Sub.mono hF (by decide))
    | ((with_reducible refine FrameU.mk fun p hp => ?_); cases p <;> first | exact absurd hp (by decide) | exact rfl | exact trivial | exact ⟨rfl, rfl⟩)
    | with_reducible apply ptpFrameOut_kept | with_reducible apply kept_next | with_reducible apply kept_ite

theorem execPdelayResp_kept {F : Nat} {o0 s : State} (k : Fin 8) (dom : Fin 256) (seq : Nat) (t2 : Nat) (t3 : Nat) (t4 : Nat) (corr : Int) (hI : Kept F o0 s) (hF : Sub 8 F := by first | with_reducible assumption | exact Sub.mono (by with_reducible assumption) (by decide)) : OutKept F o0 (execPdelayResp k dom seq t2 t3 t4 corr s) := by
  unfold execPdelayResp
  repeat' first
    | with_reducible assumption | (with_reducible exact Sub.mono hF (by decide))
    | ((with_reducible refine FrameU.mk fun p hp => ?_); cases p <;> first | exact absurd hp (by decide) | exact rfl | exact trivial | exact ⟨rfl, rfl⟩)
    | with_reducible apply st_setPtpPort_kept | with_reducible apply kept_next | with_reducible apply kept_ite | split

theorem execDelayReq_kept {F : Nat} {o0 s : State} (k : Fin 8) (dom : Fin 256) (seq : Nat) (rx : Nat) (requester : Nat) (hI : Kept F o0 s) (hF : Sub 34603009 F := by first | with_reducible assumption | exact Sub.mono (by with_reducible assumption) (by decide)) : OutKept F o0 (execDelayReq k dom seq rx requester s) := by
  unfold execDelayReq
  repeat' first
    | with_reducible assumption | (with_reducible exact Sub.mono hF (by decide))
    | ((with_reducible refine FrameU.mk fun p hp => ?_); cases p <;> first | exact absurd hp (by decide) | exact rfl | exact trivial | exact ⟨rfl, rfl⟩)
    | with_reducible apply ptpFrameOut_kept | with_reducible apply kept_next | with_reducible apply kept_ite

theorem execDelayResp_kept {F : Nat} {o0 s : State} (k : Fin 8) (dom : Fin 256) (seq : Nat) (t4 : Nat) (corr : Int) (hI : Kept F o0 s) (hF : Sub 8 F := by first | with_reducible assumption | exact Sub.mono (by with_reducible assumption) (by decide)) : OutKept F o0 (execDelayResp k dom seq t4 corr s) := by
  unfold execDelayResp
  repeat' first
    | with_reducible assumption | (with_reducible exact Sub.mono hF (by decide))
    | ((with_reducible refine FrameU.mk fun p hp => ?_); cases p <;> first | exact absurd hp (by decide) | exact rfl | exact trivial | exact ⟨rfl, rfl⟩)
    | with_reducible apply st_setPtpPort_kept | with_reducible apply kept_next | with_reducible apply kept_ite | split

theorem execManagementMessage_kept {F : Nat} {o0 s : State} (k : Fin 8) (dom : Fin 256) (hI : Kept F o0 s) (hF : Sub 8 F := by first | with_reducible assumption | exact Sub.mono (by with_reducible assumption) (by decide)) : OutKept F o0 (execManagementMessage k dom s) := by
  unfold execManagementMessage
  repeat' first
    | with_reducible assumption | (with_reducible exact Sub.mono hF (by decide))
    | ((with_reducible refine FrameU.mk fun p hp => ?_); cases p <;> first | exact absurd hp (by decide) | exact rfl | exact trivial | exact ⟨rfl, rfl⟩)
    | with_reducible apply st_setClv_kept | with_reducible apply kept_next | with_reducible apply kept_ite

theorem execPtpMasterTx_kept {F : Nat} {o0 s : State} (k : Fin 8) (what : PtpTx) (hI : Kept F o0 s) (hF : Sub 34603017 F := by first | with_reducible assumption | exact Sub.mono (by with_reducible assumption) (by decide)) : OutKept F o0 (execPtpMasterTx k what s) := by
  unfold execPtpMasterTx
  repeat' first
    | with_reducible assumption | (with_reducible exact Sub.mono hF (by decide))
    | ((with_reducible refine FrameU.mk fun p hp => ?_); cases p <;> first | exact absurd hp (by decide) | exact rfl | exact trivial | exact ⟨rfl, rfl⟩)
    | with_reducible apply ptpFrameOut_kept | with_reducible apply st_setPtpPort_kept | with_reducible apply kept_next
    | with_reducible apply kept_ite | split

theorem execAnnounceReceiptTimeout_kept {F : Nat} {o0 s : State} (k : Fin 8) (hI : Kept F o0 s) (hF : Sub 8 F := by first | with_reducible assumption | exact Sub.mono (by with_reducible assumption) (by decide)) : OutKept F o0 (execAnnounceReceiptTimeout k s) := by
  unfold execAnnounceReceiptTimeout
  repeat' first
    | with_reducible assumption | (with_reducible exact Sub.mono hF (by decide))
    | ((with_reducible refine FrameU.mk fun p hp => ?_); cases p <;> first | exact absurd hp (by decide) | exact rfl | exact trivial | exact ⟨rfl, rfl⟩)
    | with_reducible apply st_setPtpPort_kept | with_reducible apply runBmca_kept | with_reducible apply kept_next
    | with_reducible apply kept_ite

theorem execIrigFrame_kept {F : Nat} {o0 s : State} (f : IrigFrame) (hI : Kept F o0 s) (hF : Sub 4399829877131 F := by first | with_reducible assumption | exact Sub.mono (by with_reducible assumption) (by decide)) : OutKept F o0 (execIrigFrame f s) := by
  unfold execIrigFrame
  repeat' first
    | with_reducible assumption | (with_reducible exact Sub.mono hF (by decide))
    | ((with_reducible refine FrameU.mk fun p hp => ?_); cases p <;> first | exact absurd hp (by decide) | exact rfl | exact trivial | exact ⟨rfl, rfl⟩)
    | with_reducible apply takeSample_kept | with_reducible apply unusable_kept | with_reducible apply sourceUtc_kept
    | with_reducible apply kept_next | with_reducible apply kept_ite

theorem tryPps_kept {F : Nat} {o0 s : State}  (hI : Kept F o0 s) (hF : Sub 4399293006219 F := by first | with_reducible assumption | exact Sub.mono (by with_reducible assumption) (by decide)) : Kept F o0 (tryPps s) := by
  unfold tryPps
  repeat' first
    | with_reducible assumption | (with_reducible exact Sub.mono hF (by decide))
    | ((with_reducible refine FrameU.mk fun p hp => ?_); cases p <;> first | exact absurd hp (by decide) | exact rfl | exact trivial | exact ⟨rfl, rfl⟩)
    | with_reducible apply st_setClv_kept | with_reducible apply takeSample_kept | with_reducible apply kept_ite | split

theorem dropPps_kept {F : Nat} {o0 s : State}  (hI : Kept F o0 s) (hF : Sub 8 F := by first | with_reducible assumption | exact Sub.mono (by with_reducible assumption) (by decide)) : Kept F o0 (dropPps s) := by
  unfold dropPps
  repeat' first
    | with_reducible assumption | (with_reducible exact Sub.mono hF (by decide))
    | ((with_reducible refine FrameU.mk fun p hp => ?_); cases p <;> first | exact absurd hp (by decide) | exact rfl | exact trivial | exact ⟨rfl, rfl⟩)
    | with_reducible apply st_setClv_kept | with_reducible apply unusable_kept | with_reducible apply kept_ite

theorem execPpsEdge_kept {F : Nat} {o0 s : State} (raw : Nat) (hold : Nat) (hI : Kept F o0 s) (hF : Sub 4399293006219 F := by first | with_reducible assumption | exact Sub.mono (by with_reducible assumption) (by decide)) : OutKept F o0 (execPpsEdge raw hold s) := by
  unfold execPpsEdge
  repeat' first
    | with_reducible assumption | (with_reducible exact Sub.mono hF (by decide))
    | ((with_reducible refine FrameU.mk fun p hp => ?_); cases p <;> first | exact absurd hp (by decide) | exact rfl | exact trivial | exact ⟨rfl, rfl⟩)
    | with_reducible apply st_setClv_kept | with_reducible apply tryPps_kept | with_reducible apply dropPps_kept
    | with_reducible apply kept_next | with_reducible apply kept_ite

theorem execZda_kept {F : Nat} {o0 s : State} (baud : Fin 5) (utcSec : Nat) (checksumOk : Bool) (rxAt : Nat) (hI : Kept F o0 s) (hF : Sub 4399293006219 F := by first | with_reducible assumption | exact Sub.mono (by with_reducible assumption) (by decide)) : OutKept F o0 (execZda baud utcSec checksumOk rxAt s) := by
  unfold execZda
  repeat' first
    | with_reducible assumption | (with_reducible exact Sub.mono hF (by decide))
    | ((with_reducible refine FrameU.mk fun p hp => ?_); cases p <;> first | exact absurd hp (by decide) | exact rfl | exact trivial | exact ⟨rfl, rfl⟩)
    | with_reducible apply st_setClv_kept | with_reducible apply tryPps_kept | with_reducible apply dropPps_kept
    | with_reducible apply kept_next | with_reducible apply kept_ite

theorem execRmc_kept {F : Nat} {o0 s : State} (baud : Fin 5) (statusA : Bool) (checksumOk : Bool) (utcSec : Nat) (hI : Kept F o0 s) (hF : Sub 4399293006219 F := by first | with_reducible assumption | exact Sub.mono (by with_reducible assumption) (by decide)) : OutKept F o0 (execRmc baud statusA checksumOk utcSec s) := by
  unfold execRmc
  repeat' first
    | with_reducible assumption | (with_reducible exact Sub.mono hF (by decide))
    | ((with_reducible refine FrameU.mk fun p hp => ?_); cases p <;> first | exact absurd hp (by decide) | exact rfl | exact trivial | exact ⟨rfl, rfl⟩)
    | with_reducible apply st_setClv_kept | with_reducible apply tryPps_kept | with_reducible apply kept_next
    | with_reducible apply kept_ite

theorem execFirstLockWaitExpiry_kept {F : Nat} {o0 s : State}  (hI : Kept F o0 s) (hF : Sub 4399293006219 F := by first | with_reducible assumption | exact Sub.mono (by with_reducible assumption) (by decide)) : OutKept F o0 (execFirstLockWaitExpiry s) := by
  unfold execFirstLockWaitExpiry
  repeat' first
    | with_reducible assumption | (with_reducible exact Sub.mono hF (by decide))
    | ((with_reducible refine FrameU.mk fun p hp => ?_); cases p <;> first | exact absurd hp (by decide) | exact rfl | exact trivial | exact ⟨rfl, rfl⟩)
    | with_reducible apply tryFirstLock_kept | with_reducible apply kept_next

theorem execSrcLost_kept {F : Nat} {o0 s : State}  (hI : Kept F o0 s) (hF : Sub 4399293006219 F := by first | with_reducible assumption | exact Sub.mono (by with_reducible assumption) (by decide)) : OutKept F o0 (execSrcLost s) := by
  unfold execSrcLost
  repeat' first
    | with_reducible assumption | (with_reducible exact Sub.mono hF (by decide))
    | ((with_reducible refine FrameU.mk fun p hp => ?_); cases p <;> first | exact absurd hp (by decide) | exact rfl | exact trivial | exact ⟨rfl, rfl⟩)
    | with_reducible apply enterHoldover_kept | with_reducible apply unusable_kept | with_reducible apply kept_next
    | with_reducible apply kept_ite

theorem execStuck_kept {F : Nat} {o0 s : State}  (hI : Kept F o0 s) (hF : Sub 4399293006211 F := by first | with_reducible assumption | exact Sub.mono (by with_reducible assumption) (by decide)) : OutKept F o0 (execStuck s) := by
  unfold execStuck
  repeat' first
    | with_reducible assumption | (with_reducible exact Sub.mono hF (by decide))
    | ((with_reducible refine FrameU.mk fun p hp => ?_); cases p <;> first | exact absurd hp (by decide) | exact rfl | exact trivial | exact ⟨rfl, rfl⟩)
    | with_reducible apply st_wr_kept | with_reducible apply st_flag_kept | with_reducible apply post_kept
    | with_reducible apply updateQual_kept | with_reducible apply kept_next | with_reducible apply kept_ite | split

theorem execHoldoverQualLost_kept {F : Nat} {o0 s : State}  (hI : Kept F o0 s) (hF : Sub 4399293006211 F := by first | with_reducible assumption | exact Sub.mono (by with_reducible assumption) (by decide)) : OutKept F o0 (execHoldoverQualLost s) := by
  unfold execHoldoverQualLost
  repeat' first
    | with_reducible assumption | (with_reducible exact Sub.mono hF (by decide))
    | ((with_reducible refine FrameU.mk fun p hp => ?_); cases p <;> first | exact absurd hp (by decide) | exact rfl | exact trivial | exact ⟨rfl, rfl⟩)
    | with_reducible apply updateQual_kept | with_reducible apply kept_next | with_reducible apply kept_ite

theorem execLeap_kept {F : Nat} {o0 s : State}  (hI : Kept F o0 s) (hF : Sub 1644167561 F := by first | with_reducible assumption | exact Sub.mono (by with_reducible assumption) (by decide)) : OutKept F o0 (execLeap s) := by
  unfold execLeap
  repeat' first
    | with_reducible assumption | (with_reducible exact Sub.mono hF (by decide))
    | ((with_reducible refine FrameU.mk fun p hp => ?_); cases p <;> first | exact absurd hp (by decide) | exact rfl | exact trivial | exact ⟨rfl, rfl⟩)
    | with_reducible apply st_wr_kept | with_reducible apply st_wrB_kept | with_reducible apply post_kept
    | with_reducible apply st_setClv_kept | with_reducible apply kept_next | with_reducible apply kept_ite | split | dsimp only
    | fail_if_no_progress with_reducible refine kept_upd 1644167561 ?_ rfl rfl rfl ?_ hF

theorem execTimeMramWrite_kept {F : Nat} {o0 s : State}  (hI : Kept F o0 s) (hF : Sub 536870920 F := by first | with_reducible assumption | exact Sub.mono (by with_reducible assumption) (by decide)) : OutKept F o0 (execTimeMramWrite s) := by
  unfold execTimeMramWrite
  repeat' first
    | with_reducible assumption | (with_reducible exact Sub.mono hF (by decide))
    | ((with_reducible refine FrameU.mk fun p hp => ?_); cases p <;> first | exact absurd hp (by decide) | exact rfl | exact trivial | exact ⟨rfl, rfl⟩)
    | with_reducible apply st_setClv_kept | with_reducible apply kept_next | with_reducible apply kept_ite | split | dsimp only
    | fail_if_no_progress with_reducible refine kept_upd 536870920 ?_ rfl rfl rfl ?_ hF

theorem reseatFix_kept {F : Nat} {o0 s : State} (src : Nat) (l : List Int) (hI : Kept F o0 s) (hF : Sub 6873054970761 F := by first | with_reducible assumption | exact Sub.mono (by with_reducible assumption) (by decide)) : Kept F o0 (reseatFix src l s) := by
  unfold reseatFix
  repeat' first
    | with_reducible assumption | (with_reducible exact Sub.mono hF (by decide))
    | ((with_reducible refine FrameU.mk fun p hp => ?_); cases p <;> first | exact absurd hp (by decide) | exact rfl | exact trivial | exact ⟨rfl, rfl⟩)
    | with_reducible apply post_kept | with_reducible apply drainPosts_kept | with_reducible apply st_setClv_kept

theorem ttgStep_kept {F : Nat} {o0 s : State} (tm : Nat) (d : Int) (k : Nat) (hI : Kept F o0 s) (hF : Sub 9 F := by first | with_reducible assumption | exact Sub.mono (by with_reducible assumption) (by decide)) : Kept F o0 (ttgStep tm d k s) := by
  unfold ttgStep
  repeat' first
    | with_reducible assumption | (with_reducible exact Sub.mono hF (by decide))
    | ((with_reducible refine FrameU.mk fun p hp => ?_); cases p <;> first | exact absurd hp (by decide) | exact rfl | exact trivial | exact ⟨rfl, rfl⟩)
    | with_reducible apply st_flag_kept | with_reducible apply st_wrB_kept | with_reducible apply st_setClv_kept
    | with_reducible apply kept_ite | split

theorem reseatStep_kept {F : Nat} {o0 s : State}  (hI : Kept F o0 s) (hF : Sub 4399293006219 F := by first | with_reducible assumption | exact Sub.mono (by with_reducible assumption) (by decide)) : Kept F o0 (reseatStep s) := by
  unfold reseatStep
  repeat' first
    | with_reducible assumption | (with_reducible exact Sub.mono hF (by decide))
    | ((with_reducible refine FrameU.mk fun p hp => ?_); cases p <;> first | exact absurd hp (by decide) | exact rfl | exact trivial | exact ⟨rfl, rfl⟩)
    | with_reducible apply st_wr_kept | with_reducible apply st_flag_kept | with_reducible apply addGap_kept
    | with_reducible apply st_setClv_kept | with_reducible apply stepTime_kept | with_reducible apply enterLocked_kept
    | with_reducible apply ttgStep_kept | with_reducible apply kept_ite | (with_reducible refine kept_foldl ?_ (fun _ _ _ => ?_))
    | (intro _) | split | dsimp only | fail_if_no_progress with_reducible refine kept_upd 4399293006219 ?_ rfl rfl rfl ?_ hF

end Sys2Proof.Machine
end

