-- ==== Sys2Proof/Laws/KeptIngress.lean ====
section
/-!
SUPPORT. What Machine/Ingress.lean keeps of a state: one lemma per operation.
-/

namespace Sys2Proof.Machine

set_option linter.all false
set_option Elab.async false

theorem st_setIng_kept {F : Nat} {o0 s : State} (i : Ingress) (hI : Kept F o0 s) (hF : Sub 64 F := by first | with_reducible assumption | exact Sub.mono (by with_reducible assumption) (by decide)) : Kept F o0 (State.setIng s i) := by
  unfold State.setIng
  repeat' first
    | with_reducible assumption | (with_reducible exact Sub.mono hF (by decide))
    | ((with_reducible refine FrameU.mk fun p hp => ?_); cases p <;> first | exact absurd hp (by decide) | exact rfl | exact trivial | exact ⟨rfl, rfl⟩)
    | fail_if_no_progress with_reducible refine kept_upd 64 ?_ rfl rfl rfl ?_ hF

theorem st_setStream_kept {F : Nat} {o0 s : State} (i : Nat) (st : StreamSt) (hI : Kept F o0 s) (hF : Sub 64 F := by first | with_reducible assumption | exact Sub.mono (by with_reducible assumption) (by decide)) : Kept F o0 (State.setStream s i st) := by
  unfold State.setStream
  repeat' first
    | with_reducible assumption | (with_reducible exact Sub.mono hF (by decide))
    | ((with_reducible refine FrameU.mk fun p hp => ?_); cases p <;> first | exact absurd hp (by decide) | exact rfl | exact trivial | exact ⟨rfl, rfl⟩)
    | with_reducible apply st_setIng_kept

theorem st_setIngSlot_kept {F : Nat} {o0 s : State} (i : Nat) (x : IngSlot) (hI : Kept F o0 s) (hF : Sub 64 F := by first | with_reducible assumption | exact Sub.mono (by with_reducible assumption) (by decide)) : Kept F o0 (State.setIngSlot s i x) := by
  unfold State.setIngSlot
  repeat' first
    | with_reducible assumption | (with_reducible exact Sub.mono hF (by decide))
    | ((with_reducible refine FrameU.mk fun p hp => ?_); cases p <;> first | exact absurd hp (by decide) | exact rfl | exact trivial | exact ⟨rfl, rfl⟩)
    | with_reducible apply st_setIng_kept

theorem slotDrop_kept {F : Nat} {o0 s : State} (reason : Nat) (port : Nat) (slot : Nat) (hI : Kept F o0 s) (hF : Sub 1107296705 F := by first | with_reducible assumption | exact Sub.mono (by with_reducible assumption) (by decide)) : Kept F o0 (slotDrop reason port s slot) := by
  unfold slotDrop
  repeat' first
    | with_reducible assumption | (with_reducible exact Sub.mono hF (by decide))
    | ((with_reducible refine FrameU.mk fun p hp => ?_); cases p <;> first | exact absurd hp (by decide) | exact rfl | exact trivial | exact ⟨rfl, rfl⟩)
    | with_reducible apply post_kept | with_reducible apply st_setIngSlot_kept | with_reducible apply kept_ite

theorem dropRegs_kept {F : Nat} {o0 s : State} (reason : Nat) (port : Nat) (tcp : Bool) (stamp : Nat) (slots : List Nat) (held : Bool) (hI : Kept F o0 s) (hF : Sub 33554433 F := by first | with_reducible assumption | exact Sub.mono (by with_reducible assumption) (by decide)) : Kept F o0 (dropRegs reason port tcp stamp slots held s) := by
  unfold dropRegs
  repeat' first
    | with_reducible assumption | (with_reducible exact Sub.mono hF (by decide))
    | ((with_reducible refine FrameU.mk fun p hp => ?_); cases p <;> first | exact absurd hp (by decide) | exact rfl | exact trivial | exact ⟨rfl, rfl⟩)
    | with_reducible apply st_wr_kept | with_reducible apply st_inc_kept | with_reducible apply st_flag_kept
    | with_reducible apply st_wrB_kept | with_reducible apply st_ev_kept

theorem countDrop_kept {F : Nat} {o0 s : State} (reason : Nat) (port : Nat) (tcp : Bool) (stamp : Nat) (slots : List Nat) (held : Bool) (hI : Kept F o0 s) (hF : Sub 1107296705 F := by first | with_reducible assumption | exact Sub.mono (by with_reducible assumption) (by decide)) : Kept F o0 (countDrop reason port tcp stamp slots held s) := by
  unfold countDrop
  repeat' first
    | with_reducible assumption | (with_reducible exact Sub.mono hF (by decide))
    | ((with_reducible refine FrameU.mk fun p hp => ?_); cases p <;> first | exact absurd hp (by decide) | exact rfl | exact trivial | exact ⟨rfl, rfl⟩)
    | with_reducible apply slotDrop_kept | with_reducible apply dropRegs_kept | with_reducible apply kept_ite
    | (with_reducible refine kept_foldl ?_ (fun _ _ _ => ?_)) | (intro _) | split | dsimp only
    | fail_if_no_progress with_reducible refine kept_upd 1107296705 ?_ rfl rfl rfl ?_ hF

theorem finishFrame_kept {F : Nat} {o0 s : State} (n : Nat) (hI : Kept F o0 s) (hF : Sub 48 F := by first | with_reducible assumption | exact Sub.mono (by with_reducible assumption) (by decide)) : Kept F o0 (finishFrame n s) := by
  unfold finishFrame
  repeat' first
    | with_reducible assumption | (with_reducible exact Sub.mono hF (by decide))
    | ((with_reducible refine FrameU.mk fun p hp => ?_); cases p <;> first | exact absurd hp (by decide) | exact rfl | exact trivial | exact ⟨rfl, rfl⟩)
    | with_reducible apply dupFinal_kept | with_reducible apply rxRelease_kept | with_reducible apply kept_ite | split

theorem dropFrame_kept {F : Nat} {o0 s : State} (n : Nat) (hI : Kept F o0 s) (hF : Sub 48 F := by first | with_reducible assumption | exact Sub.mono (by with_reducible assumption) (by decide)) : Kept F o0 (dropFrame n s) := by
  unfold dropFrame
  repeat' first
    | with_reducible assumption | (with_reducible exact Sub.mono hF (by decide))
    | ((with_reducible refine FrameU.mk fun p hp => ?_); cases p <;> first | exact absurd hp (by decide) | exact rfl | exact trivial | exact ⟨rfl, rfl⟩)
    | with_reducible apply dupDrop_kept | with_reducible apply rxRelease_kept | with_reducible apply kept_ite | split

theorem dropHead_kept {F : Nat} {o0 s : State} (reason : Nat) (n : Nat) (stamp : Nat) (hI : Kept F o0 s) (hF : Sub 1107296753 F := by first | with_reducible assumption | exact Sub.mono (by with_reducible assumption) (by decide)) : Kept F o0 (dropHead reason n stamp s) := by
  unfold dropHead
  repeat' first
    | with_reducible assumption | (with_reducible exact Sub.mono hF (by decide))
    | ((with_reducible refine FrameU.mk fun p hp => ?_); cases p <;> first | exact absurd hp (by decide) | exact rfl | exact trivial | exact ⟨rfl, rfl⟩)
    | with_reducible apply countDrop_kept | with_reducible apply dropFrame_kept

theorem toHost_kept {F : Nat} {o0 s : State} (n : Nat) (bytes : Bytes) (stamp : Nat) (tr : Bool) (lan : Nat) (hI : Kept F o0 s) (hF : Sub 17 F := by first | with_reducible assumption | exact Sub.mono (by with_reducible assumption) (by decide)) : Kept F o0 (toHost n bytes stamp tr lan s) := by
  unfold toHost
  repeat' first
    | with_reducible assumption | (with_reducible exact Sub.mono hF (by decide))
    | ((with_reducible refine FrameU.mk fun p hp => ?_); cases p <;> first | exact absurd hp (by decide) | exact rfl | exact trivial | exact ⟨rfl, rfl⟩)
    | with_reducible apply st_inc_kept | with_reducible apply st_setPort_kept

theorem unbound_kept {F : Nat} {o0 s : State} (n : Nat) (f : RxFrame) (hI : Kept F o0 s) (hF : Sub 1107296753 F := by first | with_reducible assumption | exact Sub.mono (by with_reducible assumption) (by decide)) : Kept F o0 (unbound n f s) := by
  unfold unbound
  repeat' first
    | with_reducible assumption | (with_reducible exact Sub.mono hF (by decide))
    | ((with_reducible refine FrameU.mk fun p hp => ?_); cases p <;> first | exact absurd hp (by decide) | exact rfl | exact trivial | exact ⟨rfl, rfl⟩)
    | with_reducible apply finishFrame_kept | with_reducible apply dropHead_kept | with_reducible apply toHost_kept
    | with_reducible apply kept_ite

theorem commandHead_kept {F : Nat} {o0 s : State} (n : Nat) (f : RxFrame) (dport : Nat) (p : Bytes) (hI : Kept F o0 s) (hF : Sub 1107296753 F := by first | with_reducible assumption | exact Sub.mono (by with_reducible assumption) (by decide)) : Kept F o0 (commandHead n f dport p s) := by
  unfold commandHead
  repeat' first
    | with_reducible assumption | (with_reducible exact Sub.mono hF (by decide))
    | ((with_reducible refine FrameU.mk fun p hp => ?_); cases p <;> first | exact absurd hp (by decide) | exact rfl | exact trivial | exact ⟨rfl, rfl⟩)
    | with_reducible apply cmdBad_kept | with_reducible apply finishFrame_kept | with_reducible apply unbound_kept
    | with_reducible apply kept_ite

theorem parseHead_kept {F : Nat} {o0 s : State} (n : Nat) (f : RxFrame) (hI : Kept F o0 s) (hF : Sub 1107296753 F := by first | with_reducible assumption | exact Sub.mono (by with_reducible assumption) (by decide)) : Kept F o0 (parseHead n f s) := by
  unfold parseHead
  repeat' first
    | with_reducible assumption | (with_reducible exact Sub.mono hF (by decide))
    | ((with_reducible refine FrameU.mk fun p hp => ?_); cases p <;> first | exact absurd hp (by decide) | exact rfl | exact trivial | exact ⟨rfl, rfl⟩)
    | with_reducible apply st_inc_kept | with_reducible apply st_setPort_kept | with_reducible apply finishFrame_kept
    | with_reducible apply dropFrame_kept | with_reducible apply dropHead_kept | with_reducible apply unbound_kept
    | with_reducible apply commandHead_kept | with_reducible apply kept_ite | split

theorem parseStart_kept {F : Nat} {o0 s : State} (n : Nat) (f : RxFrame) (rest : List RxFrame) (hI : Kept F o0 s) (hF : Sub 1107296753 F := by first | with_reducible assumption | exact Sub.mono (by with_reducible assumption) (by decide)) : Kept F o0 (parseStart n f rest s) := by
  unfold parseStart
  repeat' first
    | with_reducible assumption | (with_reducible exact Sub.mono hF (by decide))
    | ((with_reducible refine FrameU.mk fun p hp => ?_); cases p <;> first | exact absurd hp (by decide) | exact rfl | exact trivial | exact ⟨rfl, rfl⟩)
    | with_reducible apply st_setPort_kept | with_reducible apply parseHead_kept

theorem execIngressParse_kept {F : Nat} {o0 s : State} (n : Fin 64) (hI : Kept F o0 s) (hF : Sub 1107296753 F := by first | with_reducible assumption | exact Sub.mono (by with_reducible assumption) (by decide)) : OutKept F o0 (execIngressParse n s) := by
  unfold execIngressParse
  repeat' first
    | with_reducible assumption | (with_reducible exact Sub.mono hF (by decide))
    | ((with_reducible refine FrameU.mk fun p hp => ?_); cases p <;> first | exact absurd hp (by decide) | exact rfl | exact trivial | exact ⟨rfl, rfl⟩)
    | with_reducible apply st_setPort_kept | with_reducible apply st_setIng_kept | with_reducible apply parseStart_kept
    | with_reducible apply kept_next | with_reducible apply kept_ite | split | dsimp only
    | fail_if_no_progress with_reducible refine kept_upd 1107296753 ?_ rfl rfl rfl ?_ hF

theorem setJob_kept {F : Nat} {o0 s : State} (src : IngSrc) (j : ParseJob) (hI : Kept F o0 s) (hF : Sub 80 F := by first | with_reducible assumption | exact Sub.mono (by with_reducible assumption) (by decide)) : Kept F o0 (setJob src j s) := by
  unfold setJob
  repeat' first
    | with_reducible assumption | (with_reducible exact Sub.mono hF (by decide))
    | ((with_reducible refine FrameU.mk fun p hp => ?_); cases p <;> first | exact absurd hp (by decide) | exact rfl | exact trivial | exact ⟨rfl, rfl⟩)
    | with_reducible apply st_setPort_kept | with_reducible apply st_setIng_kept | with_reducible apply kept_ite | split

theorem mapJobs_kept {F : Nat} {o0 s : State} (f : ParseJob → ParseJob) (hI : Kept F o0 s) (hF : Sub 80 F := by first | with_reducible assumption | exact Sub.mono (by with_reducible assumption) (by decide)) : Kept F o0 (mapJobs f s) :=
  kept_of hI (T := 80) ⟨fun p hp => by cases p <;> first | exact absurd hp (by decide) | exact rfl | exact trivial | exact ⟨rfl, rfl⟩⟩ hF id (Or.inl (List.length_map ..)) (Or.inl rfl) rfl (ChestStep.refl _ _) rfl (le_refl _) (le_refl _) (List.prefix_refl _)

theorem endJob_kept {F : Nat} {o0 s : State} (src : IngSrc) (hI : Kept F o0 s) (hF : Sub 112 F := by first | with_reducible assumption | exact Sub.mono (by with_reducible assumption) (by decide)) : Kept F o0 (endJob src s) := by
  unfold endJob
  repeat' first
    | with_reducible assumption | (with_reducible exact Sub.mono hF (by decide))
    | ((with_reducible refine FrameU.mk fun p hp => ?_); cases p <;> first | exact absurd hp (by decide) | exact rfl | exact trivial | exact ⟨rfl, rfl⟩)
    | with_reducible apply st_setIng_kept | with_reducible apply finishFrame_kept | with_reducible apply kept_ite | split

theorem loseJob_kept {F : Nat} {o0 s : State} (src : IngSrc) (hI : Kept F o0 s) (hF : Sub 112 F := by first | with_reducible assumption | exact Sub.mono (by with_reducible assumption) (by decide)) : Kept F o0 (loseJob src s) := by
  unfold loseJob
  repeat' first
    | with_reducible assumption | (with_reducible exact Sub.mono hF (by decide))
    | ((with_reducible refine FrameU.mk fun p hp => ?_); cases p <;> first | exact absurd hp (by decide) | exact rfl | exact trivial | exact ⟨rfl, rfl⟩)
    | with_reducible apply st_setIng_kept | with_reducible apply dropFrame_kept | with_reducible apply kept_ite | split

theorem openTcp_kept {F : Nat} {o0 s : State} (src : IngSrc) (hI : Kept F o0 s) (hF : Sub 1107296721 F := by first | with_reducible assumption | exact Sub.mono (by with_reducible assumption) (by decide)) : Kept F o0 (openTcp src s) := by
  unfold openTcp
  repeat' first
    | with_reducible assumption | (with_reducible exact Sub.mono hF (by decide))
    | ((with_reducible refine FrameU.mk fun p hp => ?_); cases p <;> first | exact absurd hp (by decide) | exact rfl | exact trivial | exact ⟨rfl, rfl⟩)
    | with_reducible apply countDrop_kept | with_reducible apply toHost_kept | with_reducible apply setJob_kept
    | with_reducible apply kept_ite | split

theorem dropJob_kept {F : Nat} {o0 s : State} (src : IngSrc) (j : ParseJob) (reason : Nat) (held : Bool) (hI : Kept F o0 s) (hF : Sub 1107296753 F := by first | with_reducible assumption | exact Sub.mono (by with_reducible assumption) (by decide)) : Kept F o0 (dropJob src j reason held s) := by
  unfold dropJob
  repeat' first
    | with_reducible assumption | (with_reducible exact Sub.mono hF (by decide))
    | ((with_reducible refine FrameU.mk fun p hp => ?_); cases p <;> first | exact absurd hp (by decide) | exact rfl | exact trivial | exact ⟨rfl, rfl⟩)
    | with_reducible apply countDrop_kept | with_reducible apply loseJob_kept

theorem jobExcess_kept {F : Nat} {o0 s : State} (src : IngSrc) (j : ParseJob) (excess : Bool) (hI : Kept F o0 s) (hF : Sub 33554513 F := by first | with_reducible assumption | exact Sub.mono (by with_reducible assumption) (by decide)) : Kept F o0 (jobExcess src j excess s) := by
  unfold jobExcess
  repeat' first
    | with_reducible assumption | (with_reducible exact Sub.mono hF (by decide))
    | ((with_reducible refine FrameU.mk fun p hp => ?_); cases p <;> first | exact absurd hp (by decide) | exact rfl | exact trivial | exact ⟨rfl, rfl⟩)
    | with_reducible apply dropRegs_kept | with_reducible apply setJob_kept | with_reducible apply kept_ite

theorem sendCommand_kept {F : Nat} {o0 s : State} (addr : Nat) (cmd : Nat) (hI : Kept F o0 s) (hF : Sub 4398046511104 F := by first | with_reducible assumption | exact Sub.mono (by with_reducible assumption) (by decide)) : Kept F o0 (sendCommand addr cmd s) := by
  unfold sendCommand
  repeat' first
    | with_reducible assumption | (with_reducible exact Sub.mono hF (by decide))
    | ((with_reducible refine FrameU.mk fun p hp => ?_); cases p <;> first | exact absurd hp (by decide) | exact rfl | exact trivial | exact ⟨rfl, rfl⟩)
    | with_reducible apply st_emit_kept

theorem requestCfg_kept {F : Nat} {o0 s : State} (stream : Nat) (hI : Kept F o0 s) (hF : Sub 4398046511168 F := by first | with_reducible assumption | exact Sub.mono (by with_reducible assumption) (by decide)) : Kept F o0 (requestCfg stream s) := by
  unfold requestCfg
  repeat' first
    | with_reducible assumption | (with_reducible exact Sub.mono hF (by decide))
    | ((with_reducible refine FrameU.mk fun p hp => ?_); cases p <;> first | exact absurd hp (by decide) | exact rfl | exact trivial | exact ⟨rfl, rfl⟩)
    | with_reducible apply st_setStream_kept | with_reducible apply sendCommand_kept | with_reducible apply kept_ite | split
    | dsimp only | fail_if_no_progress with_reducible refine kept_upd 4398046511168 ?_ rfl rfl rfl ?_ hF

theorem readDataFrame_kept {F : Nat} {o0 s : State} (src : IngSrc) (j : ParseJob) (hI : Kept F o0 s) (hF : Sub 4399153807857 F := by first | with_reducible assumption | exact Sub.mono (by with_reducible assumption) (by decide)) : Kept F o0 (readDataFrame src j s) := by
  unfold readDataFrame
  repeat' first
    | with_reducible assumption | (with_reducible exact Sub.mono hF (by decide))
    | ((with_reducible refine FrameU.mk fun p hp => ?_); cases p <;> first | exact absurd hp (by decide) | exact rfl | exact trivial | exact ⟨rfl, rfl⟩)
    | with_reducible apply setJob_kept | with_reducible apply dropJob_kept | with_reducible apply jobExcess_kept
    | with_reducible apply requestCfg_kept | with_reducible apply kept_ite | split | dsimp only
    | fail_if_no_progress with_reducible refine kept_upd 4399153807857 ?_ rfl rfl rfl ?_ hF

theorem execDataFrame_kept {F : Nat} {o0 s : State} (src : IngSrc) (hI : Kept F o0 s) (hF : Sub 4399153807857 F := by first | with_reducible assumption | exact Sub.mono (by with_reducible assumption) (by decide)) : OutKept F o0 (execDataFrame src s) := by
  unfold execDataFrame
  repeat' first
    | with_reducible assumption | (with_reducible exact Sub.mono hF (by decide))
    | ((with_reducible refine FrameU.mk fun p hp => ?_); cases p <;> first | exact absurd hp (by decide) | exact rfl | exact trivial | exact ⟨rfl, rfl⟩)
    | with_reducible apply openTcp_kept | with_reducible apply readDataFrame_kept | with_reducible apply kept_next
    | with_reducible apply kept_ite | split

theorem holdStream_kept {F : Nat} {o0 s : State} (stream : Nat) (hI : Kept F o0 s) (hF : Sub 1107296705 F := by first | with_reducible assumption | exact Sub.mono (by with_reducible assumption) (by decide)) : Kept F o0 (holdStream stream s) := by
  unfold holdStream
  repeat' first
    | with_reducible assumption | (with_reducible exact Sub.mono hF (by decide))
    | ((with_reducible refine FrameU.mk fun p hp => ?_); cases p <;> first | exact absurd hp (by decide) | exact rfl | exact trivial | exact ⟨rfl, rfl⟩)
    | with_reducible apply st_flag_kept | with_reducible apply post_kept | with_reducible apply st_setStream_kept

theorem st_setTcp_kept {F : Nat} {o0 s : State} (c : Nat) (v : Nat) (hI : Kept F o0 s) (hF : Sub 65 F := by first | with_reducible assumption | exact Sub.mono (by with_reducible assumption) (by decide)) : Kept F o0 (State.setTcp s c v) := by
  unfold State.setTcp
  repeat' first
    | with_reducible assumption | (with_reducible exact Sub.mono hF (by decide))
    | ((with_reducible refine FrameU.mk fun p hp => ?_); cases p <;> first | exact absurd hp (by decide) | exact rfl | exact trivial | exact ⟨rfl, rfl⟩)
    | with_reducible apply st_wr_kept | with_reducible apply st_setIng_kept

theorem tcpClosed_kept {F : Nat} {o0 s : State} (c : Nat) (v : Nat) (wait : Nat) (hI : Kept F o0 s) (hF : Sub 65 F := by first | with_reducible assumption | exact Sub.mono (by with_reducible assumption) (by decide)) : Kept F o0 (tcpClosed c v wait s) := by
  unfold tcpClosed
  repeat' first
    | with_reducible assumption | (with_reducible exact Sub.mono hF (by decide))
    | ((with_reducible refine FrameU.mk fun p hp => ?_); cases p <;> first | exact absurd hp (by decide) | exact rfl | exact trivial | exact ⟨rfl, rfl⟩)
    | with_reducible apply st_flag_kept | with_reducible apply st_setIng_kept | with_reducible apply st_setTcp_kept

theorem tcpCommand_kept {F : Nat} {o0 s : State} (c : Nat) (cmd : Nat) (hI : Kept F o0 s) (hF : Sub 4398046511104 F := by first | with_reducible assumption | exact Sub.mono (by with_reducible assumption) (by decide)) : Kept F o0 (tcpCommand c cmd s) := by
  unfold tcpCommand
  repeat' first
    | with_reducible assumption | (with_reducible exact Sub.mono hF (by decide))
    | ((with_reducible refine FrameU.mk fun p hp => ?_); cases p <;> first | exact absurd hp (by decide) | exact rfl | exact trivial | exact ⟨rfl, rfl⟩)
    | with_reducible apply st_emit_kept

theorem tcpRefuse_kept {F : Nat} {o0 s : State} (c : Nat) (j : ParseJob) (hI : Kept F o0 s) (hF : Sub 4399153807809 F := by first | with_reducible assumption | exact Sub.mono (by with_reducible assumption) (by decide)) : Kept F o0 (tcpRefuse c j s) := by
  unfold tcpRefuse
  repeat' first
    | with_reducible assumption | (with_reducible exact Sub.mono hF (by decide))
    | ((with_reducible refine FrameU.mk fun p hp => ?_); cases p <;> first | exact absurd hp (by decide) | exact rfl | exact trivial | exact ⟨rfl, rfl⟩)
    | with_reducible apply st_emit_kept | with_reducible apply countDrop_kept | with_reducible apply tcpClosed_kept
    | with_reducible apply tcpCommand_kept

theorem offerCfg_kept {F : Nat} {o0 s : State} (src : IngSrc) (j : ParseJob) (c : StreamCfg) (hI : Kept F o0 s) (hF : Sub 4399153807857 F := by first | with_reducible assumption | exact Sub.mono (by with_reducible assumption) (by decide)) : Kept F o0 (offerCfg src j c s) := by
  unfold offerCfg
  repeat' first
    | with_reducible assumption | (with_reducible exact Sub.mono hF (by decide))
    | ((with_reducible refine FrameU.mk fun p hp => ?_); cases p <;> first | exact absurd hp (by decide) | exact rfl | exact trivial | exact ⟨rfl, rfl⟩)
    | with_reducible apply st_setStream_kept | with_reducible apply countDrop_kept | with_reducible apply endJob_kept
    | with_reducible apply loseJob_kept | with_reducible apply holdStream_kept | with_reducible apply st_setTcp_kept
    | with_reducible apply tcpCommand_kept | with_reducible apply tcpRefuse_kept | with_reducible apply kept_ite | split

theorem execCfg2Frame_kept {F : Nat} {o0 s : State} (src : IngSrc) (hI : Kept F o0 s) (hF : Sub 4399153807857 F := by first | with_reducible assumption | exact Sub.mono (by with_reducible assumption) (by decide)) : OutKept F o0 (execCfg2Frame src s) := by
  unfold execCfg2Frame
  repeat' first
    | with_reducible assumption | (with_reducible exact Sub.mono hF (by decide))
    | ((with_reducible refine FrameU.mk fun p hp => ?_); cases p <;> first | exact absurd hp (by decide) | exact rfl | exact trivial | exact ⟨rfl, rfl⟩)
    | with_reducible apply openTcp_kept | with_reducible apply dropJob_kept | with_reducible apply offerCfg_kept
    | with_reducible apply kept_next | with_reducible apply kept_ite | split

theorem execCfg3Frame_kept {F : Nat} {o0 s : State} (src : IngSrc) (contIdx : Nat) (cfg : StreamCfg) (desc : List CfgDesc) (hI : Kept F o0 s) (hF : Sub 4399153807857 F := by first | with_reducible assumption | exact Sub.mono (by with_reducible assumption) (by decide)) : OutKept F o0 (execCfg3Frame src contIdx cfg desc s) := by
  unfold execCfg3Frame
  repeat' first
    | with_reducible assumption | (with_reducible exact Sub.mono hF (by decide))
    | ((with_reducible refine FrameU.mk fun p hp => ?_); cases p <;> first | exact absurd hp (by decide) | exact rfl | exact trivial | exact ⟨rfl, rfl⟩)
    | with_reducible apply st_setStream_kept | with_reducible apply endJob_kept | with_reducible apply openTcp_kept
    | with_reducible apply dropJob_kept | with_reducible apply holdStream_kept | with_reducible apply offerCfg_kept
    | with_reducible apply kept_next | with_reducible apply kept_ite | split

theorem execCfg1Frame_kept {F : Nat} {o0 s : State} (src : IngSrc) (hI : Kept F o0 s) (hF : Sub 1107296753 F := by first | with_reducible assumption | exact Sub.mono (by with_reducible assumption) (by decide)) : OutKept F o0 (execCfg1Frame src s) := by
  unfold execCfg1Frame
  repeat' first
    | with_reducible assumption | (with_reducible exact Sub.mono hF (by decide))
    | ((with_reducible refine FrameU.mk fun p hp => ?_); cases p <;> first | exact absurd hp (by decide) | exact rfl | exact trivial | exact ⟨rfl, rfl⟩)
    | with_reducible apply st_setIng_kept | with_reducible apply endJob_kept | with_reducible apply openTcp_kept
    | with_reducible apply dropJob_kept | with_reducible apply kept_next | with_reducible apply kept_ite | split

theorem execHeaderFrame_kept {F : Nat} {o0 s : State} (src : IngSrc) (hI : Kept F o0 s) (hF : Sub 1107296753 F := by first | with_reducible assumption | exact Sub.mono (by with_reducible assumption) (by decide)) : OutKept F o0 (execHeaderFrame src s) := by
  unfold execHeaderFrame
  repeat' first
    | with_reducible assumption | (with_reducible exact Sub.mono hF (by decide))
    | ((with_reducible refine FrameU.mk fun p hp => ?_); cases p <;> first | exact absurd hp (by decide) | exact rfl | exact trivial | exact ⟨rfl, rfl⟩)
    | with_reducible apply st_setStream_kept | with_reducible apply endJob_kept | with_reducible apply openTcp_kept
    | with_reducible apply dropJob_kept | with_reducible apply kept_next | with_reducible apply kept_ite | split

theorem unboundHead_kept {F : Nat} {o0 s : State} (n : Nat) (hI : Kept F o0 s) (hF : Sub 1107296753 F := by first | with_reducible assumption | exact Sub.mono (by with_reducible assumption) (by decide)) : Kept F o0 (unboundHead n s) := by
  unfold unboundHead
  repeat' first
    | with_reducible assumption | (with_reducible exact Sub.mono hF (by decide))
    | ((with_reducible refine FrameU.mk fun p hp => ?_); cases p <;> first | exact absurd hp (by decide) | exact rfl | exact trivial | exact ⟨rfl, rfl⟩)
    | with_reducible apply unbound_kept | with_reducible apply kept_ite | split

theorem execIeee1344DataFrame_kept {F : Nat} {o0 s : State} (n : Fin 64) (d : I1344Data) (hI : Kept F o0 s) (hF : Sub 1107296753 F := by first | with_reducible assumption | exact Sub.mono (by with_reducible assumption) (by decide)) : OutKept F o0 (execIeee1344DataFrame n d s) := by
  unfold execIeee1344DataFrame
  repeat' first
    | with_reducible assumption | (with_reducible exact Sub.mono hF (by decide))
    | ((with_reducible refine FrameU.mk fun p hp => ?_); cases p <;> first | exact absurd hp (by decide) | exact rfl | exact trivial | exact ⟨rfl, rfl⟩)
    | with_reducible apply setJob_kept | with_reducible apply dropJob_kept | with_reducible apply unboundHead_kept
    | with_reducible apply kept_next | with_reducible apply kept_ite | split

theorem execIeee1344CfgFrame_kept {F : Nat} {o0 s : State} (n : Fin 64) (ident : Nat) (sizeOk : Bool) (chkOk : Bool) (cfg : StreamCfg) (hI : Kept F o0 s) (hF : Sub 4399153807857 F := by first | with_reducible assumption | exact Sub.mono (by with_reducible assumption) (by decide)) : OutKept F o0 (execIeee1344CfgFrame n ident sizeOk chkOk cfg s) := by
  unfold execIeee1344CfgFrame
  repeat' first
    | with_reducible assumption | (with_reducible exact Sub.mono hF (by decide))
    | ((with_reducible refine FrameU.mk fun p hp => ?_); cases p <;> first | exact absurd hp (by decide) | exact rfl | exact trivial | exact ⟨rfl, rfl⟩)
    | with_reducible apply dropJob_kept | with_reducible apply offerCfg_kept | with_reducible apply unboundHead_kept
    | with_reducible apply kept_next | with_reducible apply kept_ite | split

theorem commitRecord_kept {F : Nat} {o0 s : State} (r : SlotRecord) (hI : Kept F o0 s) (hF : Sub 33554497 F := by first | with_reducible assumption | exact Sub.mono (by with_reducible assumption) (by decide)) : Kept F o0 (commitRecord s r) := by
  unfold commitRecord
  repeat' first
    | with_reducible assumption | (with_reducible exact Sub.mono hF (by decide))
    | ((with_reducible refine FrameU.mk fun p hp => ?_); cases p <;> first | exact absurd hp (by decide) | exact rfl | exact trivial | exact ⟨rfl, rfl⟩)
    | with_reducible apply st_inc_kept | with_reducible apply st_flag_kept | with_reducible apply st_ev_kept
    | with_reducible apply st_setIng_kept | with_reducible apply st_setIngSlot_kept | with_reducible apply kept_ite

theorem execIngressCommit_kept {F : Nat} {o0 s : State} (src : IngSrc) (hI : Kept F o0 s) (hF : Sub 33554545 F := by first | with_reducible assumption | exact Sub.mono (by with_reducible assumption) (by decide)) : OutKept F o0 (execIngressCommit src s) := by
  unfold execIngressCommit
  repeat' first
    | with_reducible assumption | (with_reducible exact Sub.mono hF (by decide))
    | ((with_reducible refine FrameU.mk fun p hp => ?_); cases p <;> first | exact absurd hp (by decide) | exact rfl | exact trivial | exact ⟨rfl, rfl⟩)
    | with_reducible apply traceCommit_kept | with_reducible apply endJob_kept | with_reducible apply commitRecord_kept
    | with_reducible apply kept_next | with_reducible apply kept_ite | (with_reducible refine kept_foldl ?_ (fun _ _ _ => ?_))
    | (intro _) | split | dsimp only | fail_if_no_progress with_reducible refine kept_upd 33554545 ?_ rfl rfl rfl ?_ hF

theorem execTcpConnect_kept {F : Nat} {o0 s : State} (conn : Fin 256) (hI : Kept F o0 s) (hF : Sub 4398046511169 F := by first | with_reducible assumption | exact Sub.mono (by with_reducible assumption) (by decide)) : OutKept F o0 (execTcpConnect conn s) := by
  unfold execTcpConnect
  repeat' first
    | with_reducible assumption | (with_reducible exact Sub.mono hF (by decide))
    | ((with_reducible refine FrameU.mk fun p hp => ?_); cases p <;> first | exact absurd hp (by decide) | exact rfl | exact trivial | exact ⟨rfl, rfl⟩)
    | with_reducible apply st_emit_kept | with_reducible apply st_setTcp_kept | with_reducible apply tcpCommand_kept
    | with_reducible apply kept_next | with_reducible apply kept_ite

theorem execTcpRetry_kept {F : Nat} {o0 s : State} (conn : Fin 256) (hI : Kept F o0 s) (hF : Sub 4398046511169 F := by first | with_reducible assumption | exact Sub.mono (by with_reducible assumption) (by decide)) : OutKept F o0 (execTcpRetry conn s) := by
  unfold execTcpRetry
  repeat' first
    | with_reducible assumption | (with_reducible exact Sub.mono hF (by decide))
    | ((with_reducible refine FrameU.mk fun p hp => ?_); cases p <;> first | exact absurd hp (by decide) | exact rfl | exact trivial | exact ⟨rfl, rfl⟩)
    | with_reducible apply st_emit_kept | with_reducible apply st_setTcp_kept | with_reducible apply kept_next
    | with_reducible apply kept_ite

theorem execTcpDown_kept {F : Nat} {o0 s : State} (conn : Fin 256) (hI : Kept F o0 s) (hF : Sub 1107296705 F := by first | with_reducible assumption | exact Sub.mono (by with_reducible assumption) (by decide)) : OutKept F o0 (execTcpDown conn s) := by
  unfold execTcpDown
  repeat' first
    | with_reducible assumption | (with_reducible exact Sub.mono hF (by decide))
    | ((with_reducible refine FrameU.mk fun p hp => ?_); cases p <;> first | exact absurd hp (by decide) | exact rfl | exact trivial | exact ⟨rfl, rfl⟩)
    | with_reducible apply post_kept | with_reducible apply tcpClosed_kept | with_reducible apply kept_next
    | with_reducible apply kept_ite

theorem reportPort_kept {F : Nat} {o0 s : State} (x : PortCfg × Nat) (hI : Kept F o0 s) (hF : Sub 34603009 F := by first | with_reducible assumption | exact Sub.mono (by with_reducible assumption) (by decide)) : Kept F o0 (reportPort s x) := by
  unfold reportPort
  repeat' first
    | with_reducible assumption | (with_reducible exact Sub.mono hF (by decide))
    | ((with_reducible refine FrameU.mk fun p hp => ?_); cases p <;> first | exact absurd hp (by decide) | exact rfl | exact trivial | exact ⟨rfl, rfl⟩)
    | with_reducible apply stewFrame_kept | with_reducible apply kept_ite | (with_reducible refine kept_foldl ?_ (fun _ _ _ => ?_))
    | (intro _) | split | dsimp only | fail_if_no_progress with_reducible refine kept_upd 34603009 ?_ rfl rfl rfl ?_ hF

theorem execMembershipReport_kept {F : Nat} {o0 s : State} (query : Option (Fin 64)) (hI : Kept F o0 s) (hF : Sub 34603073 F := by first | with_reducible assumption | exact Sub.mono (by with_reducible assumption) (by decide)) : OutKept F o0 (execMembershipReport query s) := by
  unfold execMembershipReport
  repeat' first
    | with_reducible assumption | (with_reducible exact Sub.mono hF (by decide))
    | ((with_reducible refine FrameU.mk fun p hp => ?_); cases p <;> first | exact absurd hp (by decide) | exact rfl | exact trivial | exact ⟨rfl, rfl⟩)
    | with_reducible apply st_setIng_kept | with_reducible apply reportPort_kept | with_reducible apply kept_next
    | with_reducible apply kept_ite | (with_reducible refine kept_foldl ?_ (fun _ _ _ => ?_)) | (intro _) | split | dsimp only
    | fail_if_no_progress with_reducible refine kept_upd 34603073 ?_ rfl rfl rfl ?_ hF

end Sys2Proof.Machine
end

