-- ==== Sys2Proof/Laws/KeptPigeonhole.lean ====
section
/-!
SUPPORT. What Machine/Pigeonhole.lean keeps of a state: one lemma per operation.
-/

namespace Sys2Proof.Machine

set_option linter.all false
set_option Elab.async false

theorem st_setPgh_kept {F : Nat} {o0 s : State} (p : Pgh) (hI : Kept F o0 s) (hF : Sub 16384 F := by first | with_reducible assumption | exact Sub.mono (by with_reducible assumption) (by decide)) : Kept F o0 (State.setPgh s p) := by
  unfold State.setPgh
  repeat' first
    | with_reducible assumption | (with_reducible exact Sub.mono hF (by decide))
    | ((with_reducible refine FrameU.mk fun p hp => ?_); cases p <;> first | exact absurd hp (by decide) | exact rfl | exact trivial | exact ⟨rfl, rfl⟩)
    | fail_if_no_progress with_reducible refine kept_upd 16384 ?_ rfl rfl rfl ?_ hF

theorem st_setCol_kept {F : Nat} {o0 s : State} (c : Column) (hI : Kept F o0 s) (hF : Sub 16384 F := by first | with_reducible assumption | exact Sub.mono (by with_reducible assumption) (by decide)) : Kept F o0 (State.setCol s c) := by
  unfold State.setCol
  repeat' first
    | with_reducible assumption | (with_reducible exact Sub.mono hF (by decide))
    | ((with_reducible refine FrameU.mk fun p hp => ?_); cases p <;> first | exact absurd hp (by decide) | exact rfl | exact trivial | exact ⟨rfl, rfl⟩)
    | with_reducible apply st_setPgh_kept

theorem st_setCell_kept {F : Nat} {o0 s : State} (n : Nat) (slot : Nat) (x : Cell) (hI : Kept F o0 s) (hF : Sub 2199023271937 F := by first | with_reducible assumption | exact Sub.mono (by with_reducible assumption) (by decide)) : Kept F o0 (State.setCell s n slot x) := by
  unfold State.setCell
  repeat' first
    | with_reducible assumption | (with_reducible exact Sub.mono hF (by decide))
    | ((with_reducible refine FrameU.mk fun p hp => ?_); cases p <;> first | exact absurd hp (by decide) | exact rfl | exact trivial | exact ⟨rfl, rfl⟩)
    | with_reducible apply st_eccWrite_kept | with_reducible apply st_setCol_kept | with_reducible apply kept_ite | split

theorem openColumn_kept {F : Nat} {o0 s : State}  (hI : Kept F o0 s) (hF : Sub 16385 F := by first | with_reducible assumption | exact Sub.mono (by with_reducible assumption) (by decide)) : Kept F o0 (openColumn s) := by
  unfold openColumn
  repeat' first
    | with_reducible assumption | (with_reducible exact Sub.mono hF (by decide))
    | ((with_reducible refine FrameU.mk fun p hp => ?_); cases p <;> first | exact absurd hp (by decide) | exact rfl | exact trivial | exact ⟨rfl, rfl⟩)
    | with_reducible apply st_wr_kept | with_reducible apply st_setPgh_kept | with_reducible apply kept_ite

theorem openAll_kept {F : Nat} {o0 s : State} (n : Nat) (hI : Kept F o0 s) (hF : Sub 16385 F := by first | with_reducible assumption | exact Sub.mono (by with_reducible assumption) (by decide)) : Kept F o0 (openAll n s) := by
  unfold openAll
  repeat' first
    | with_reducible assumption | (with_reducible exact Sub.mono hF (by decide))
    | ((with_reducible refine FrameU.mk fun p hp => ?_); cases p <;> first | exact absurd hp (by decide) | exact rfl | exact trivial | exact ⟨rfl, rfl⟩)
    | with_reducible apply st_setPgh_kept | with_reducible apply openColumn_kept | with_reducible apply kept_ite
    | (with_reducible refine kept_foldl ?_ (fun _ _ _ => ?_)) | (intro _) | split | dsimp only
    | fail_if_no_progress with_reducible refine kept_upd 16385 ?_ rfl rfl rfl ?_ hF

theorem reopenFrom_kept {F : Nat} {o0 s : State} (sec : Nat) (past : Bool) (hI : Kept F o0 s) (hF : Sub 16385 F := by first | with_reducible assumption | exact Sub.mono (by with_reducible assumption) (by decide)) : Kept F o0 (reopenFrom sec past s) := by
  unfold reopenFrom
  repeat' first
    | with_reducible assumption | (with_reducible exact Sub.mono hF (by decide))
    | ((with_reducible refine FrameU.mk fun p hp => ?_); cases p <;> first | exact absurd hp (by decide) | exact rfl | exact trivial | exact ⟨rfl, rfl⟩)
    | with_reducible apply st_setPgh_kept | with_reducible apply openColumn_kept | with_reducible apply kept_ite
    | (with_reducible refine kept_foldl ?_ (fun _ _ _ => ?_)) | (intro _) | split | dsimp only
    | fail_if_no_progress with_reducible refine kept_upd 16385 ?_ rfl rfl rfl ?_ hF

theorem dropSkipped_kept {F : Nat} {o0 s : State} (first : Nat) (count : Nat) (hI : Kept F o0 s) (hF : Sub 16385 F := by first | with_reducible assumption | exact Sub.mono (by with_reducible assumption) (by decide)) : Kept F o0 (dropSkipped first count s) := by
  unfold dropSkipped
  repeat' first
    | with_reducible assumption | (with_reducible exact Sub.mono hF (by decide))
    | ((with_reducible refine FrameU.mk fun p hp => ?_); cases p <;> first | exact absurd hp (by decide) | exact rfl | exact trivial | exact ⟨rfl, rfl⟩)
    | with_reducible apply st_wr_kept | with_reducible apply st_setPgh_kept

theorem st_setSlotStat_kept {F : Nat} {o0 s : State} (slot : Nat) (x : SlotStat) (hI : Kept F o0 s) (hF : Sub 16384 F := by first | with_reducible assumption | exact Sub.mono (by with_reducible assumption) (by decide)) : Kept F o0 (State.setSlotStat s slot x) := by
  unfold State.setSlotStat
  repeat' first
    | with_reducible assumption | (with_reducible exact Sub.mono hF (by decide))
    | ((with_reducible refine FrameU.mk fun p hp => ?_); cases p <;> first | exact absurd hp (by decide) | exact rfl | exact trivial | exact ⟨rfl, rfl⟩)
    | with_reducible apply st_setPgh_kept

theorem learnArrival_kept {F : Nat} {o0 s : State} (r : SlotRecord) (n : Nat) (hI : Kept F o0 s) (hF : Sub 16384 F := by first | with_reducible assumption | exact Sub.mono (by with_reducible assumption) (by decide)) : Kept F o0 (learnArrival r n s) := by
  unfold learnArrival
  repeat' first
    | with_reducible assumption | (with_reducible exact Sub.mono hF (by decide))
    | ((with_reducible refine FrameU.mk fun p hp => ?_); cases p <;> first | exact absurd hp (by decide) | exact rfl | exact trivial | exact ⟨rfl, rfl⟩)
    | with_reducible apply st_setSlotStat_kept | with_reducible apply kept_ite | split

theorem judgeActive_kept {F : Nat} {o0 s : State} (n : Nat) (hI : Kept F o0 s) (hF : Sub 16384 F := by first | with_reducible assumption | exact Sub.mono (by with_reducible assumption) (by decide)) : Kept F o0 (judgeActive n s) := by
  unfold judgeActive
  repeat' first
    | with_reducible assumption | (with_reducible exact Sub.mono hF (by decide))
    | ((with_reducible refine FrameU.mk fun p hp => ?_); cases p <;> first | exact absurd hp (by decide) | exact rfl | exact trivial | exact ⟨rfl, rfl⟩)
    | with_reducible apply st_setPgh_kept

theorem fixWindows_kept {F : Nat} {o0 s : State} (n : Nat) (hI : Kept F o0 s) (hF : Sub 16385 F := by first | with_reducible assumption | exact Sub.mono (by with_reducible assumption) (by decide)) : Kept F o0 (fixWindows n s) := by
  unfold fixWindows
  repeat' first
    | with_reducible assumption | (with_reducible exact Sub.mono hF (by decide))
    | ((with_reducible refine FrameU.mk fun p hp => ?_); cases p <;> first | exact absurd hp (by decide) | exact rfl | exact trivial | exact ⟨rfl, rfl⟩)
    | with_reducible apply st_wr_kept | with_reducible apply st_setPgh_kept | with_reducible apply st_setCol_kept
    | with_reducible apply judgeActive_kept | with_reducible apply kept_ite
    | (with_reducible refine kept_foldl ?_ (fun _ _ _ => ?_)) | (intro _) | split | dsimp only
    | fail_if_no_progress with_reducible refine kept_upd 16385 ?_ rfl rfl rfl ?_ hF

theorem st_setHist_kept {F : Nat} {o0 s : State} (slot : Nat) (h : RsmpHist) (hI : Kept F o0 s) (hF : Sub 16384 F := by first | with_reducible assumption | exact Sub.mono (by with_reducible assumption) (by decide)) : Kept F o0 (State.setHist s slot h) := by
  unfold State.setHist
  repeat' first
    | with_reducible assumption | (with_reducible exact Sub.mono hF (by decide))
    | ((with_reducible refine FrameU.mk fun p hp => ?_); cases p <;> first | exact absurd hp (by decide) | exact rfl | exact trivial | exact ⟨rfl, rfl⟩)
    | with_reducible apply st_setPgh_kept

theorem rsmpOutputs_kept {F : Nat} {o0 s : State} (b : Binding) (r : SlotRecord) (hI : Kept F o0 s) (hF : Sub 33570880 F := by first | with_reducible assumption | exact Sub.mono (by with_reducible assumption) (by decide)) : Kept F o0 (rsmpOutputs b r s) := by
  unfold rsmpOutputs
  repeat' first
    | with_reducible assumption | (with_reducible exact Sub.mono hF (by decide))
    | ((with_reducible refine FrameU.mk fun p hp => ?_); cases p <;> first | exact absurd hp (by decide) | exact rfl | exact trivial | exact ⟨rfl, rfl⟩)
    | with_reducible apply st_ev_kept | with_reducible apply st_setIng_kept | with_reducible apply st_setHist_kept
    | with_reducible apply kept_ite | split

theorem offGrid_kept {F : Nat} {o0 s : State} (r : SlotRecord) (n : Nat) (hI : Kept F o0 s) (hF : Sub 1107313025 F := by first | with_reducible assumption | exact Sub.mono (by with_reducible assumption) (by decide)) : Kept F o0 (offGrid r n s) := by
  unfold offGrid
  repeat' first
    | with_reducible assumption | (with_reducible exact Sub.mono hF (by decide))
    | ((with_reducible refine FrameU.mk fun p hp => ?_); cases p <;> first | exact absurd hp (by decide) | exact rfl | exact trivial | exact ⟨rfl, rfl⟩)
    | with_reducible apply st_inc_kept | with_reducible apply st_flag_kept | with_reducible apply post_kept
    | with_reducible apply traceStore_kept | with_reducible apply st_setSlotStat_kept | with_reducible apply kept_ite

theorem countDup_kept {F : Nat} {o0 s : State} (slot : Nat) (n : Nat) (conflict : Bool) (hI : Kept F o0 s) (hF : Sub 1107296641 F := by first | with_reducible assumption | exact Sub.mono (by with_reducible assumption) (by decide)) : Kept F o0 (countDup slot n conflict s) := by
  unfold countDup
  repeat' first
    | with_reducible assumption | (with_reducible exact Sub.mono hF (by decide))
    | ((with_reducible refine FrameU.mk fun p hp => ?_); cases p <;> first | exact absurd hp (by decide) | exact rfl | exact trivial | exact ⟨rfl, rfl⟩)
    | with_reducible apply st_inc_kept | with_reducible apply st_flag_kept | with_reducible apply st_ev_kept
    | with_reducible apply post_kept | with_reducible apply kept_ite

theorem duplicate_kept {F : Nat} {o0 s : State} (r : SlotRecord) (c : Column) (x : Cell) (g : Nat) (hI : Kept F o0 s) (hF : Sub 2200130568577 F := by first | with_reducible assumption | exact Sub.mono (by with_reducible assumption) (by decide)) : Kept F o0 (duplicate r c x g s) := by
  unfold duplicate
  repeat' first
    | with_reducible assumption | (with_reducible exact Sub.mono hF (by decide))
    | ((with_reducible refine FrameU.mk fun p hp => ?_); cases p <;> first | exact absurd hp (by decide) | exact rfl | exact trivial | exact ⟨rfl, rfl⟩)
    | with_reducible apply st_setCell_kept | with_reducible apply countDup_kept

theorem lateRecord_kept {F : Nat} {o0 s : State} (r : SlotRecord) (c : Column) (g : Nat) (path : Nat) (transit : Bool) (hI : Kept F o0 s) (hF : Sub 1107313025 F := by first | with_reducible assumption | exact Sub.mono (by with_reducible assumption) (by decide)) : Kept F o0 (lateRecord r c g path transit s) := by
  unfold lateRecord
  repeat' first
    | with_reducible assumption | (with_reducible exact Sub.mono hF (by decide))
    | ((with_reducible refine FrameU.mk fun p hp => ?_); cases p <;> first | exact absurd hp (by decide) | exact rfl | exact trivial | exact ⟨rfl, rfl⟩)
    | with_reducible apply st_inc_kept | with_reducible apply st_flag_kept | with_reducible apply st_ev_kept
    | with_reducible apply post_kept | with_reducible apply st_setCol_kept | with_reducible apply kept_ite | split

theorem decideRecord_kept {F : Nat} {o0 s : State} (r : SlotRecord) (c : Column) (g : Nat) (hI : Kept F o0 s) (hF : Sub 2200130568577 F := by first | with_reducible assumption | exact Sub.mono (by with_reducible assumption) (by decide)) : Kept F o0 (decideRecord r c g s) := by
  unfold decideRecord
  repeat' first
    | with_reducible assumption | (with_reducible exact Sub.mono hF (by decide))
    | ((with_reducible refine FrameU.mk fun p hp => ?_); cases p <;> first | exact absurd hp (by decide) | exact rfl | exact trivial | exact ⟨rfl, rfl⟩)
    | with_reducible apply st_inc_kept | with_reducible apply st_ev_kept | with_reducible apply traceStore_kept
    | with_reducible apply st_setCell_kept | with_reducible apply learnArrival_kept | with_reducible apply duplicate_kept
    | with_reducible apply lateRecord_kept | with_reducible apply kept_ite

theorem touchSlot_kept {F : Nat} {o0 s : State} (r : SlotRecord) (hI : Kept F o0 s) (hF : Sub 16384 F := by first | with_reducible assumption | exact Sub.mono (by with_reducible assumption) (by decide)) : Kept F o0 (touchSlot r s) := by
  unfold touchSlot
  repeat' first
    | with_reducible assumption | (with_reducible exact Sub.mono hF (by decide))
    | ((with_reducible refine FrameU.mk fun p hp => ?_); cases p <;> first | exact absurd hp (by decide) | exact rfl | exact trivial | exact ⟨rfl, rfl⟩)
    | with_reducible apply st_setSlotStat_kept

theorem swapDrop_kept {F : Nat} {o0 s : State} (r : SlotRecord) (n : Nat) (hI : Kept F o0 s) (hF : Sub 33554433 F := by first | with_reducible assumption | exact Sub.mono (by with_reducible assumption) (by decide)) : Kept F o0 (swapDrop r n s) := by
  unfold swapDrop
  repeat' first
    | with_reducible assumption | (with_reducible exact Sub.mono hF (by decide))
    | ((with_reducible refine FrameU.mk fun p hp => ?_); cases p <;> first | exact absurd hp (by decide) | exact rfl | exact trivial | exact ⟨rfl, rfl⟩)
    | with_reducible apply st_inc_kept | with_reducible apply st_flag_kept | with_reducible apply traceStore_kept

theorem arrive_kept {F : Nat} {o0 s : State} (r : SlotRecord) (n : Nat) (g : Nat) (hI : Kept F o0 s) (hF : Sub 2200130568577 F := by first | with_reducible assumption | exact Sub.mono (by with_reducible assumption) (by decide)) : Kept F o0 (arrive r n g s) := by
  unfold arrive
  repeat' first
    | with_reducible assumption | (with_reducible exact Sub.mono hF (by decide))
    | ((with_reducible refine FrameU.mk fun p hp => ?_); cases p <;> first | exact absurd hp (by decide) | exact rfl | exact trivial | exact ⟨rfl, rfl⟩)
    | with_reducible apply st_inc_kept | with_reducible apply st_flag_kept | with_reducible apply traceStore_kept
    | with_reducible apply learnArrival_kept | with_reducible apply decideRecord_kept | with_reducible apply touchSlot_kept
    | with_reducible apply swapDrop_kept | with_reducible apply kept_ite | split

theorem recordArrival_kept {F : Nat} {o0 s : State} (r : SlotRecord) (b : Binding) (hI : Kept F o0 s) (hF : Sub 2200130568577 F := by first | with_reducible assumption | exact Sub.mono (by with_reducible assumption) (by decide)) : Kept F o0 (recordArrival r b s) := by
  unfold recordArrival
  repeat' first
    | with_reducible assumption | (with_reducible exact Sub.mono hF (by decide))
    | ((with_reducible refine FrameU.mk fun p hp => ?_); cases p <;> first | exact absurd hp (by decide) | exact rfl | exact trivial | exact ⟨rfl, rfl⟩)
    | with_reducible apply learnArrival_kept | with_reducible apply offGrid_kept | with_reducible apply touchSlot_kept
    | with_reducible apply arrive_kept | with_reducible apply kept_ite

theorem rsmpInput_kept {F : Nat} {o0 s : State} (r : SlotRecord) (b : Binding) (hI : Kept F o0 s) (hF : Sub 1107313089 F := by first | with_reducible assumption | exact Sub.mono (by with_reducible assumption) (by decide)) : Kept F o0 (rsmpInput r b s) := by
  unfold rsmpInput
  repeat' first
    | with_reducible assumption | (with_reducible exact Sub.mono hF (by decide))
    | ((with_reducible refine FrameU.mk fun p hp => ?_); cases p <;> first | exact absurd hp (by decide) | exact rfl | exact trivial | exact ⟨rfl, rfl⟩)
    | with_reducible apply st_inc_kept | with_reducible apply st_flag_kept | with_reducible apply traceStore_kept
    | with_reducible apply st_setHist_kept | with_reducible apply rsmpOutputs_kept | with_reducible apply offGrid_kept
    | with_reducible apply countDup_kept | with_reducible apply kept_ite | split | dsimp only
    | fail_if_no_progress with_reducible refine kept_upd 1107313089 ?_ rfl rfl rfl ?_ hF

theorem recordUe_kept {F : Nat} {o0 s : State} (n : Nat) (slot : Nat) (hI : Kept F o0 s) (hF : Sub 16384 F := by first | with_reducible assumption | exact Sub.mono (by with_reducible assumption) (by decide)) : Kept F o0 (recordUe n slot s) := by
  unfold recordUe
  repeat' first
    | with_reducible assumption | (with_reducible exact Sub.mono hF (by decide))
    | ((with_reducible refine FrameU.mk fun p hp => ?_); cases p <;> first | exact absurd hp (by decide) | exact rfl | exact trivial | exact ⟨rfl, rfl⟩)
    | with_reducible apply st_setCol_kept | with_reducible apply kept_ite | split | dsimp only
    | fail_if_no_progress with_reducible refine kept_upd 16384 ?_ rfl rfl rfl ?_ hF

end Sys2Proof.Machine
end

