-- ==== Sys2Proof/Laws/KeptTambour.lean ====
section
/-!
SUPPORT. What Machine/Tambour.lean keeps of a state: one lemma per operation.
-/

namespace Sys2Proof.Machine

set_option linter.all false
set_option Elab.async false

theorem st_setTmb_kept {F : Nat} {o0 s : State} (t : Tmb) (hI : Kept F o0 s) (hF : Sub 32768 F := by first | with_reducible assumption | exact Sub.mono (by with_reducible assumption) (by decide)) : Kept F o0 (State.setTmb s t) := by
  unfold State.setTmb
  repeat' first
    | with_reducible assumption | (with_reducible exact Sub.mono hF (by decide))
    | ((with_reducible refine FrameU.mk fun p hp => ?_); cases p <;> first | exact absurd hp (by decide) | exact rfl | exact trivial | exact ⟨rfl, rfl⟩)
    | fail_if_no_progress with_reducible refine kept_upd 32768 ?_ rfl rfl rfl ?_ hF

theorem st_setInst_kept {F : Nat} {o0 s : State} (i : Inst) (hI : Kept F o0 s) (hF : Sub 32768 F := by first | with_reducible assumption | exact Sub.mono (by with_reducible assumption) (by decide)) : Kept F o0 (State.setInst s i) := by
  unfold State.setInst
  repeat' first
    | with_reducible assumption | (with_reducible exact Sub.mono hF (by decide))
    | ((with_reducible refine FrameU.mk fun p hp => ?_); cases p <;> first | exact absurd hp (by decide) | exact rfl | exact trivial | exact ⟨rfl, rfl⟩)
    | with_reducible apply st_setTmb_kept

theorem st_setRun_kept {F : Nat} {o0 s : State} (n : Nat) (j : Nat) (r : ItemRun) (hI : Kept F o0 s) (hF : Sub 32768 F := by first | with_reducible assumption | exact Sub.mono (by with_reducible assumption) (by decide)) : Kept F o0 (State.setRun s n j r) := by
  unfold State.setRun
  repeat' first
    | with_reducible assumption | (with_reducible exact Sub.mono hF (by decide))
    | ((with_reducible refine FrameU.mk fun p hp => ?_); cases p <;> first | exact absurd hp (by decide) | exact rfl | exact trivial | exact ⟨rfl, rfl⟩)
    | with_reducible apply st_setInst_kept | with_reducible apply kept_ite | split

theorem tmbSync_kept {F : Nat} {o0 s : State}  (hI : Kept F o0 s) (hF : Sub 1 F := by first | with_reducible assumption | exact Sub.mono (by with_reducible assumption) (by decide)) : Kept F o0 (tmbSync s) := by
  unfold tmbSync
  repeat' first
    | with_reducible assumption | (with_reducible exact Sub.mono hF (by decide))
    | ((with_reducible refine FrameU.mk fun p hp => ?_); cases p <;> first | exact absurd hp (by decide) | exact rfl | exact trivial | exact ⟨rfl, rfl⟩)
    | with_reducible apply st_wr_kept | with_reducible apply st_wrB_kept

theorem refreshInst_kept {F : Nat} {o0 s : State} (i : Inst) (hI : Kept F o0 s) (hF : Sub 33587200 F := by first | with_reducible assumption | exact Sub.mono (by with_reducible assumption) (by decide)) : Kept F o0 (refreshInst i s) := by
  unfold refreshInst
  repeat' first
    | with_reducible assumption | (with_reducible exact Sub.mono hF (by decide))
    | ((with_reducible refine FrameU.mk fun p hp => ?_); cases p <;> first | exact absurd hp (by decide) | exact rfl | exact trivial | exact ⟨rfl, rfl⟩)
    | with_reducible apply st_ev_kept | with_reducible apply st_setRun_kept | with_reducible apply kept_ite
    | (with_reducible refine kept_foldl ?_ (fun _ _ _ => ?_)) | (intro _) | split | dsimp only
    | fail_if_no_progress with_reducible refine kept_upd 33587200 ?_ rfl rfl rfl ?_ hF

theorem tmbRefresh_kept {F : Nat} {o0 s : State}  (hI : Kept F o0 s) (hF : Sub 33587201 F := by first | with_reducible assumption | exact Sub.mono (by with_reducible assumption) (by decide)) : Kept F o0 (tmbRefresh s) := by
  unfold tmbRefresh
  repeat' first
    | with_reducible assumption | (with_reducible exact Sub.mono hF (by decide))
    | ((with_reducible refine FrameU.mk fun p hp => ?_); cases p <;> first | exact absurd hp (by decide) | exact rfl | exact trivial | exact ⟨rfl, rfl⟩)
    | with_reducible apply tmbSync_kept | with_reducible apply refreshInst_kept | with_reducible apply kept_ite
    | (with_reducible refine kept_foldl ?_ (fun _ _ _ => ?_)) | (intro _) | split | dsimp only
    | fail_if_no_progress with_reducible refine kept_upd 33587201 ?_ rfl rfl rfl ?_ hF

theorem st_setQueue_kept {F : Nat} {o0 s : State} (p : Nat) (q : List (Nat × Nat)) (hI : Kept F o0 s) (hF : Sub 32768 F := by first | with_reducible assumption | exact Sub.mono (by with_reducible assumption) (by decide)) : Kept F o0 (State.setQueue s p q) := by
  unfold State.setQueue
  repeat' first
    | with_reducible assumption | (with_reducible exact Sub.mono hF (by decide))
    | ((with_reducible refine FrameU.mk fun p hp => ?_); cases p <;> first | exact absurd hp (by decide) | exact rfl | exact trivial | exact ⟨rfl, rfl⟩)
    | with_reducible apply st_setTmb_kept

theorem st_setRunning_kept {F : Nat} {o0 s : State} (p : Nat) (r : Option (Nat × Nat)) (hI : Kept F o0 s) (hF : Sub 32768 F := by first | with_reducible assumption | exact Sub.mono (by with_reducible assumption) (by decide)) : Kept F o0 (State.setRunning s p r) := by
  unfold State.setRunning
  repeat' first
    | with_reducible assumption | (with_reducible exact Sub.mono hF (by decide))
    | ((with_reducible refine FrameU.mk fun p hp => ?_); cases p <;> first | exact absurd hp (by decide) | exact rfl | exact trivial | exact ⟨rfl, rfl⟩)
    | with_reducible apply st_setTmb_kept

theorem laneSync_kept {F : Nat} {o0 s : State} (p : Nat) (hI : Kept F o0 s) (hF : Sub 1 F := by first | with_reducible assumption | exact Sub.mono (by with_reducible assumption) (by decide)) : Kept F o0 (laneSync p s) := by
  unfold laneSync
  repeat' first
    | with_reducible assumption | (with_reducible exact Sub.mono hF (by decide))
    | ((with_reducible refine FrameU.mk fun p hp => ?_); cases p <;> first | exact absurd hp (by decide) | exact rfl | exact trivial | exact ⟨rfl, rfl⟩)
    | with_reducible apply st_wr_kept | with_reducible apply st_wrB_kept | with_reducible apply kept_ite

theorem g0Measure_kept {F : Nat} {o0 s : State} (i : Inst) (hI : Kept F o0 s) (hF : Sub 1107296641 F := by first | with_reducible assumption | exact Sub.mono (by with_reducible assumption) (by decide)) : Kept F o0 (g0Measure i s) := by
  unfold g0Measure
  repeat' first
    | with_reducible assumption | (with_reducible exact Sub.mono hF (by decide))
    | ((with_reducible refine FrameU.mk fun p hp => ?_); cases p <;> first | exact absurd hp (by decide) | exact rfl | exact trivial | exact ⟨rfl, rfl⟩)
    | with_reducible apply st_wr_kept | with_reducible apply st_flag_kept | with_reducible apply st_wrMax_kept
    | with_reducible apply postAt_kept | with_reducible apply kept_ite | split | dsimp only
    | fail_if_no_progress with_reducible refine kept_upd 1107296641 ?_ rfl rfl rfl ?_ hF

theorem slackMeasure_kept {F : Nat} {o0 s : State} (i : Inst) (hI : Kept F o0 s) (hF : Sub 2199023255553 F := by first | with_reducible assumption | exact Sub.mono (by with_reducible assumption) (by decide)) : Kept F o0 (slackMeasure i s) := by
  unfold slackMeasure
  repeat' first
    | with_reducible assumption | (with_reducible exact Sub.mono hF (by decide))
    | ((with_reducible refine FrameU.mk fun p hp => ?_); cases p <;> first | exact absurd hp (by decide) | exact rfl | exact trivial | exact ⟨rfl, rfl⟩)
    | with_reducible apply st_wr_kept | with_reducible apply st_wrSat_kept | with_reducible apply st_nextFree_kept
    | with_reducible apply kept_ite | split

theorem checkComplete_kept {F : Nat} {o0 s : State} (n : Nat) (hI : Kept F o0 s) (hF : Sub 2200130584961 F := by first | with_reducible assumption | exact Sub.mono (by with_reducible assumption) (by decide)) : Kept F o0 (checkComplete n s) := by
  unfold checkComplete
  repeat' first
    | with_reducible assumption | (with_reducible exact Sub.mono hF (by decide))
    | ((with_reducible refine FrameU.mk fun p hp => ?_); cases p <;> first | exact absurd hp (by decide) | exact rfl | exact trivial | exact ⟨rfl, rfl⟩)
    | with_reducible apply st_wr_kept | with_reducible apply st_wr64_kept | with_reducible apply postAt_kept
    | with_reducible apply st_setTmb_kept | with_reducible apply st_setInst_kept | with_reducible apply tmbSync_kept
    | with_reducible apply g0Measure_kept | with_reducible apply slackMeasure_kept | with_reducible apply kept_ite
    | (with_reducible refine kept_foldl ?_ (fun _ _ _ => ?_)) | (intro _) | split | dsimp only
    | fail_if_no_progress with_reducible refine kept_upd 2200130584961 ?_ rfl rfl rfl ?_ hF

theorem fetchItem_kept {F : Nat} {o0 s : State} (p : Nat) (n : Nat) (j : Nat) (hI : Kept F o0 s) (hF : Sub 2199056842753 F := by first | with_reducible assumption | exact Sub.mono (by with_reducible assumption) (by decide)) : Kept F o0 (fetchItem p n j s) := by
  unfold fetchItem
  repeat' first
    | with_reducible assumption | (with_reducible exact Sub.mono hF (by decide))
    | ((with_reducible refine FrameU.mk fun p hp => ?_); cases p <;> first | exact absurd hp (by decide) | exact rfl | exact trivial | exact ⟨rfl, rfl⟩)
    | with_reducible apply st_ev_kept | with_reducible apply st_eccWrite_kept | with_reducible apply st_setInst_kept
    | with_reducible apply st_setRun_kept | with_reducible apply kept_ite | split

theorem prefetch_kept {F : Nat} {o0 s : State} (p : Nat) (hI : Kept F o0 s) (hF : Sub 2199056842753 F := by first | with_reducible assumption | exact Sub.mono (by with_reducible assumption) (by decide)) : Kept F o0 (prefetch p s) := by
  unfold prefetch
  repeat' first
    | with_reducible assumption | (with_reducible exact Sub.mono hF (by decide))
    | ((with_reducible refine FrameU.mk fun p hp => ?_); cases p <;> first | exact absurd hp (by decide) | exact rfl | exact trivial | exact ⟨rfl, rfl⟩)
    | with_reducible apply fetchItem_kept | with_reducible apply kept_ite | split

theorem prefSync_kept {F : Nat} {o0 s : State} (p : Nat) (hI : Kept F o0 s) (hF : Sub 32768 F := by first | with_reducible assumption | exact Sub.mono (by with_reducible assumption) (by decide)) : Kept F o0 (prefSync p s) := by
  unfold prefSync
  repeat' first
    | with_reducible assumption | (with_reducible exact Sub.mono hF (by decide))
    | ((with_reducible refine FrameU.mk fun p hp => ?_); cases p <;> first | exact absurd hp (by decide) | exact rfl | exact trivial | exact ⟨rfl, rfl⟩)
    | with_reducible apply st_setTmb_kept | with_reducible apply kept_ite

theorem unqueue_kept {F : Nat} {o0 s : State} (n : Nat) (j : Nat) (hI : Kept F o0 s) (hF : Sub 2199056842753 F := by first | with_reducible assumption | exact Sub.mono (by with_reducible assumption) (by decide)) : Kept F o0 (unqueue n j s) := by
  unfold unqueue
  repeat' first
    | with_reducible assumption | (with_reducible exact Sub.mono hF (by decide))
    | ((with_reducible refine FrameU.mk fun p hp => ?_); cases p <;> first | exact absurd hp (by decide) | exact rfl | exact trivial | exact ⟨rfl, rfl⟩)
    | with_reducible apply st_setQueue_kept | with_reducible apply laneSync_kept | with_reducible apply prefetch_kept
    | with_reducible apply kept_ite | (with_reducible refine kept_foldl ?_ (fun _ _ _ => ?_)) | (intro _) | split | dsimp only
    | fail_if_no_progress with_reducible refine kept_upd 2199056842753 ?_ rfl rfl rfl ?_ hF

theorem abandonItem_kept {F : Nat} {o0 s : State} (n : Nat) (j : Nat) (hI : Kept F o0 s) (hF : Sub 2199056843009 F := by first | with_reducible assumption | exact Sub.mono (by with_reducible assumption) (by decide)) : Kept F o0 (abandonItem n j s) := by
  unfold abandonItem
  repeat' first
    | with_reducible assumption | (with_reducible exact Sub.mono hF (by decide))
    | ((with_reducible refine FrameU.mk fun p hp => ?_); cases p <;> first | exact absurd hp (by decide) | exact rfl | exact trivial | exact ⟨rfl, rfl⟩)
    | with_reducible apply st_inc_kept | with_reducible apply st_flag_kept | with_reducible apply st_ev_kept
    | with_reducible apply rowLost_kept | with_reducible apply st_setInst_kept | with_reducible apply st_setRun_kept
    | with_reducible apply unqueue_kept | with_reducible apply kept_ite | split | dsimp only
    | fail_if_no_progress with_reducible refine kept_upd 2199056843009 ?_ rfl rfl rfl ?_ hF

theorem abandonAll_kept {F : Nat} {o0 s : State} (n : Nat) (hI : Kept F o0 s) (hF : Sub 2200130584961 F := by first | with_reducible assumption | exact Sub.mono (by with_reducible assumption) (by decide)) : Kept F o0 (abandonAll n s) := by
  unfold abandonAll
  repeat' first
    | with_reducible assumption | (with_reducible exact Sub.mono hF (by decide))
    | ((with_reducible refine FrameU.mk fun p hp => ?_); cases p <;> first | exact absurd hp (by decide) | exact rfl | exact trivial | exact ⟨rfl, rfl⟩)
    | with_reducible apply checkComplete_kept | with_reducible apply abandonItem_kept | with_reducible apply kept_ite
    | (with_reducible refine kept_foldl ?_ (fun _ _ _ => ?_)) | (intro _) | split | dsimp only
    | fail_if_no_progress with_reducible refine kept_upd 2200130584961 ?_ rfl rfl rfl ?_ hF

theorem deferItem_kept {F : Nat} {o0 s : State} (n : Nat) (j : Nat) (hI : Kept F o0 s) (hF : Sub 2199056843009 F := by first | with_reducible assumption | exact Sub.mono (by with_reducible assumption) (by decide)) : Kept F o0 (deferItem n j s) := by
  unfold deferItem
  repeat' first
    | with_reducible assumption | (with_reducible exact Sub.mono hF (by decide))
    | ((with_reducible refine FrameU.mk fun p hp => ?_); cases p <;> first | exact absurd hp (by decide) | exact rfl | exact trivial | exact ⟨rfl, rfl⟩)
    | with_reducible apply st_inc_kept | with_reducible apply st_flag_kept | with_reducible apply st_ev_kept
    | with_reducible apply st_setRun_kept | with_reducible apply abandonItem_kept | with_reducible apply kept_ite | split

end Sys2Proof.Machine
end

