-- ==== Sys2Proof/Laws/KeptCounters.lean ====
section
/-!
SUPPORT. What Machine/Counters.lean keeps of a state: one lemma per operation.
-/

namespace Sys2Proof.Machine

set_option linter.all false
set_option Elab.async false

theorem pmcSnapshot_kept {F : Nat} {o0 s : State} (n : Nat) (hI : Kept F o0 s) (hF : Sub 2199023255553 F := by first | with_reducible assumption | exact Sub.mono (by with_reducible assumption) (by decide)) : Kept F o0 (pmcSnapshot n s) := by
  unfold pmcSnapshot
  repeat' first
    | with_reducible assumption | (with_reducible exact Sub.mono hF (by decide))
    | ((with_reducible refine FrameU.mk fun p hp => ?_); cases p <;> first | exact absurd hp (by decide) | exact rfl | exact trivial | exact ⟨rfl, rfl⟩)
    | with_reducible apply st_wr_kept | with_reducible apply st_inc_kept | with_reducible apply st_nextFree_kept
    | with_reducible apply kept_ite | (with_reducible refine kept_foldl ?_ (fun _ _ _ => ?_)) | (intro _) | split | dsimp only
    | fail_if_no_progress with_reducible refine kept_upd 2199023255553 ?_ rfl rfl rfl ?_ hF

theorem pmcSelect_kept {F : Nat} {o0 s : State} (v : Nat) (hI : Kept F o0 s) (hF : Sub 2199023255553 F := by first | with_reducible assumption | exact Sub.mono (by with_reducible assumption) (by decide)) : Kept F o0 (pmcSelect v s) := by
  unfold pmcSelect
  repeat' first
    | with_reducible assumption | (with_reducible exact Sub.mono hF (by decide))
    | ((with_reducible refine FrameU.mk fun p hp => ?_); cases p <;> first | exact absurd hp (by decide) | exact rfl | exact trivial | exact ⟨rfl, rfl⟩)
    | with_reducible apply st_wr_kept | with_reducible apply st_wrB_kept | with_reducible apply st_nextFree_kept
    | with_reducible apply kept_ite

theorem execPmcPortSel_kept {F : Nat} {o0 s : State} (j : Fin 512) (hI : Kept F o0 s) (hF : Sub 2199023255553 F := by first | with_reducible assumption | exact Sub.mono (by with_reducible assumption) (by decide)) : OutKept F o0 (execPmcPortSel j s) := by
  unfold execPmcPortSel
  repeat' first
    | with_reducible assumption | (with_reducible exact Sub.mono hF (by decide))
    | ((with_reducible refine FrameU.mk fun p hp => ?_); cases p <;> first | exact absurd hp (by decide) | exact rfl | exact trivial | exact ⟨rfl, rfl⟩)
    | with_reducible apply pmcSelect_kept | with_reducible apply kept_next

theorem pmcSwap_kept {F : Nat} {o0 s : State} (old : Option Image) (new : Option Image) (hI : Kept F o0 s) (hF : Sub 33554432 F := by first | with_reducible assumption | exact Sub.mono (by with_reducible assumption) (by decide)) : Kept F o0 (pmcSwap old new s) := by
  unfold pmcSwap
  repeat' first
    | with_reducible assumption | (with_reducible exact Sub.mono hF (by decide))
    | ((with_reducible refine FrameU.mk fun p hp => ?_); cases p <;> first | exact absurd hp (by decide) | exact rfl | exact trivial | exact ⟨rfl, rfl⟩)
    | with_reducible apply st_setPmc_kept

theorem execTraceEntryWrite_kept {F : Nat} {o0 s : State}  (hI : Kept F o0 s) (hF : Sub 33554433 F := by first | with_reducible assumption | exact Sub.mono (by with_reducible assumption) (by decide)) : OutKept F o0 (execTraceEntryWrite s) := by
  unfold execTraceEntryWrite
  repeat' first
    | with_reducible assumption | (with_reducible exact Sub.mono hF (by decide))
    | ((with_reducible refine FrameU.mk fun p hp => ?_); cases p <;> first | exact absurd hp (by decide) | exact rfl | exact trivial | exact ⟨rfl, rfl⟩)
    | with_reducible apply st_wr_kept | with_reducible apply st_setPmc_kept | with_reducible apply kept_next
    | with_reducible apply kept_ite | split

theorem traceSelect_kept {F : Nat} {o0 s : State} (seq : Nat) (ue : Bool) (hI : Kept F o0 s) (hF : Sub 1 F := by first | with_reducible assumption | exact Sub.mono (by with_reducible assumption) (by decide)) : Kept F o0 (traceSelect seq ue s) := by
  unfold traceSelect
  repeat' first
    | with_reducible assumption | (with_reducible exact Sub.mono hF (by decide))
    | ((with_reducible refine FrameU.mk fun p hp => ?_); cases p <;> first | exact absurd hp (by decide) | exact rfl | exact trivial | exact ⟨rfl, rfl⟩)
    | with_reducible apply st_wr_kept | with_reducible apply st_wrB_kept | with_reducible apply kept_ite
    | (with_reducible refine kept_foldl ?_ (fun _ _ _ => ?_)) | (intro _) | split | dsimp only
    | fail_if_no_progress with_reducible refine kept_upd 1 ?_ rfl rfl rfl ?_ hF

theorem execPmcTraceSel_kept {F : Nat} {o0 s : State} (seq : Nat) (ue : Bool) (hI : Kept F o0 s) (hF : Sub 1 F := by first | with_reducible assumption | exact Sub.mono (by with_reducible assumption) (by decide)) : OutKept F o0 (execPmcTraceSel seq ue s) := by
  unfold execPmcTraceSel
  repeat' first
    | with_reducible assumption | (with_reducible exact Sub.mono hF (by decide))
    | ((with_reducible refine FrameU.mk fun p hp => ?_); cases p <;> first | exact absurd hp (by decide) | exact rfl | exact trivial | exact ⟨rfl, rfl⟩)
    | with_reducible apply traceSelect_kept | with_reducible apply kept_next

theorem st_setTst_kept {F : Nat} {o0 s : State} (t : Tst) (hI : Kept F o0 s) (hF : Sub 67108864 F := by first | with_reducible assumption | exact Sub.mono (by with_reducible assumption) (by decide)) : Kept F o0 (State.setTst s t) := by
  unfold State.setTst
  repeat' first
    | with_reducible assumption | (with_reducible exact Sub.mono hF (by decide))
    | ((with_reducible refine FrameU.mk fun p hp => ?_); cases p <;> first | exact absurd hp (by decide) | exact rfl | exact trivial | exact ⟨rfl, rfl⟩)
    | fail_if_no_progress with_reducible refine kept_upd 67108864 ?_ rfl rfl rfl ?_ hF

theorem tstSync_kept {F : Nat} {o0 s : State}  (hI : Kept F o0 s) (hF : Sub 1 F := by first | with_reducible assumption | exact Sub.mono (by with_reducible assumption) (by decide)) : Kept F o0 (tstSync s) := by
  unfold tstSync
  repeat' first
    | with_reducible assumption | (with_reducible exact Sub.mono hF (by decide))
    | ((with_reducible refine FrameU.mk fun p hp => ?_); cases p <;> first | exact absurd hp (by decide) | exact rfl | exact trivial | exact ⟨rfl, rfl⟩)
    | with_reducible apply st_wr_kept | with_reducible apply st_wrB_kept

theorem lanesSync_kept {F : Nat} {o0 s : State}  (hI : Kept F o0 s) (hF : Sub 1 F := by first | with_reducible assumption | exact Sub.mono (by with_reducible assumption) (by decide)) : Kept F o0 (lanesSync s) := by
  unfold lanesSync
  repeat' first
    | with_reducible assumption | (with_reducible exact Sub.mono hF (by decide))
    | ((with_reducible refine FrameU.mk fun p hp => ?_); cases p <;> first | exact absurd hp (by decide) | exact rfl | exact trivial | exact ⟨rfl, rfl⟩)
    | with_reducible apply laneSync_kept | with_reducible apply kept_ite | (with_reducible refine kept_foldl ?_ (fun _ _ _ => ?_))
    | (intro _) | split | dsimp only | fail_if_no_progress with_reducible refine kept_upd 1 ?_ rfl rfl rfl ?_ hF

theorem tstApply_kept {F : Nat} {o0 s : State} (was : Nat → Bool) (hI : Kept F o0 s) (hF : Sub 67108865 F := by first | with_reducible assumption | exact Sub.mono (by with_reducible assumption) (by decide)) : Kept F o0 (tstApply was s) := by
  unfold tstApply
  repeat' first
    | with_reducible assumption | (with_reducible exact Sub.mono hF (by decide))
    | ((with_reducible refine FrameU.mk fun p hp => ?_); cases p <;> first | exact absurd hp (by decide) | exact rfl | exact trivial | exact ⟨rfl, rfl⟩)
    | with_reducible apply st_wr_kept | with_reducible apply st_setTst_kept | with_reducible apply tstSync_kept
    | with_reducible apply lanesSync_kept | with_reducible apply kept_ite

theorem tstCtl_kept {F : Nat} {o0 s : State} (v : Nat) (hI : Kept F o0 s) (hF : Sub 1174405505 F := by first | with_reducible assumption | exact Sub.mono (by with_reducible assumption) (by decide)) : Kept F o0 (tstCtl v s) := by
  unfold tstCtl
  repeat' first
    | with_reducible assumption | (with_reducible exact Sub.mono hF (by decide))
    | ((with_reducible refine FrameU.mk fun p hp => ?_); cases p <;> first | exact absurd hp (by decide) | exact rfl | exact trivial | exact ⟨rfl, rfl⟩)
    | with_reducible apply st_wr_kept | with_reducible apply st_flag_kept | with_reducible apply postModeChange_kept
    | with_reducible apply tstApply_kept | with_reducible apply kept_ite | (intro _)

theorem tstOff_kept {F : Nat} {o0 s : State}  (hI : Kept F o0 s) (hF : Sub 67108865 F := by first | with_reducible assumption | exact Sub.mono (by with_reducible assumption) (by decide)) : Kept F o0 (tstOff s) := by
  unfold tstOff
  repeat' first
    | with_reducible assumption | (with_reducible exact Sub.mono hF (by decide))
    | ((with_reducible refine FrameU.mk fun p hp => ?_); cases p <;> first | exact absurd hp (by decide) | exact rfl | exact trivial | exact ⟨rfl, rfl⟩)
    | with_reducible apply st_wr_kept | with_reducible apply tstApply_kept | (intro _)

theorem tstDisable_kept {F : Nat} {o0 s : State}  (hI : Kept F o0 s) (hF : Sub 67108865 F := by first | with_reducible assumption | exact Sub.mono (by with_reducible assumption) (by decide)) : Kept F o0 (tstDisable s) := by
  unfold tstDisable
  repeat' first
    | with_reducible assumption | (with_reducible exact Sub.mono hF (by decide))
    | ((with_reducible refine FrameU.mk fun p hp => ?_); cases p <;> first | exact absurd hp (by decide) | exact rfl | exact trivial | exact ⟨rfl, rfl⟩)
    | with_reducible apply st_flag_kept | with_reducible apply tstOff_kept | with_reducible apply kept_ite

theorem tstBit_kept {F : Nat} {o0 s : State} (b : Nat) (on : Bool) (hI : Kept F o0 s) (hF : Sub 1174405505 F := by first | with_reducible assumption | exact Sub.mono (by with_reducible assumption) (by decide)) : Kept F o0 (tstBit b on s) := by
  unfold tstBit
  repeat' first
    | with_reducible assumption | (with_reducible exact Sub.mono hF (by decide))
    | ((with_reducible refine FrameU.mk fun p hp => ?_); cases p <;> first | exact absurd hp (by decide) | exact rfl | exact trivial | exact ⟨rfl, rfl⟩)
    | with_reducible apply tstCtl_kept

theorem execTstEn_kept {F : Nat} {o0 s : State} (on : Bool) (hI : Kept F o0 s) (hF : Sub 1174405505 F := by first | with_reducible assumption | exact Sub.mono (by with_reducible assumption) (by decide)) : OutKept F o0 (execTstEn on s) := by
  unfold execTstEn
  repeat' first
    | with_reducible assumption | (with_reducible exact Sub.mono hF (by decide))
    | ((with_reducible refine FrameU.mk fun p hp => ?_); cases p <;> first | exact absurd hp (by decide) | exact rfl | exact trivial | exact ⟨rfl, rfl⟩)
    | with_reducible apply tstBit_kept | with_reducible apply kept_next

theorem execPortDelay_kept {F : Nat} {o0 s : State} (on : Bool) (hI : Kept F o0 s) (hF : Sub 1174405505 F := by first | with_reducible assumption | exact Sub.mono (by with_reducible assumption) (by decide)) : OutKept F o0 (execPortDelay on s) := by
  unfold execPortDelay
  repeat' first
    | with_reducible assumption | (with_reducible exact Sub.mono hF (by decide))
    | ((with_reducible refine FrameU.mk fun p hp => ?_); cases p <;> first | exact absurd hp (by decide) | exact rfl | exact trivial | exact ⟨rfl, rfl⟩)
    | with_reducible apply tstBit_kept | with_reducible apply kept_next

theorem execEgrBp_kept {F : Nat} {o0 s : State} (on : Bool) (hI : Kept F o0 s) (hF : Sub 1174405505 F := by first | with_reducible assumption | exact Sub.mono (by with_reducible assumption) (by decide)) : OutKept F o0 (execEgrBp on s) := by
  unfold execEgrBp
  repeat' first
    | with_reducible assumption | (with_reducible exact Sub.mono hF (by decide))
    | ((with_reducible refine FrameU.mk fun p hp => ?_); cases p <;> first | exact absurd hp (by decide) | exact rfl | exact trivial | exact ⟨rfl, rfl⟩)
    | with_reducible apply tstBit_kept | with_reducible apply kept_next

theorem execLaneStall_kept {F : Nat} {o0 s : State} (on : Bool) (hI : Kept F o0 s) (hF : Sub 1174405505 F := by first | with_reducible assumption | exact Sub.mono (by with_reducible assumption) (by decide)) : OutKept F o0 (execLaneStall on s) := by
  unfold execLaneStall
  repeat' first
    | with_reducible assumption | (with_reducible exact Sub.mono hF (by decide))
    | ((with_reducible refine FrameU.mk fun p hp => ?_); cases p <;> first | exact absurd hp (by decide) | exact rfl | exact trivial | exact ⟨rfl, rfl⟩)
    | with_reducible apply tstBit_kept | with_reducible apply kept_next

theorem execCdcStretch_kept {F : Nat} {o0 s : State} (on : Bool) (hI : Kept F o0 s) (hF : Sub 1174405505 F := by first | with_reducible assumption | exact Sub.mono (by with_reducible assumption) (by decide)) : OutKept F o0 (execCdcStretch on s) := by
  unfold execCdcStretch
  repeat' first
    | with_reducible assumption | (with_reducible exact Sub.mono hF (by decide))
    | ((with_reducible refine FrameU.mk fun p hp => ?_); cases p <;> first | exact absurd hp (by decide) | exact rfl | exact trivial | exact ⟨rfl, rfl⟩)
    | with_reducible apply tstBit_kept | with_reducible apply kept_next

theorem execCloseShift_kept {F : Nat} {o0 s : State} (on : Bool) (hI : Kept F o0 s) (hF : Sub 1174405505 F := by first | with_reducible assumption | exact Sub.mono (by with_reducible assumption) (by decide)) : OutKept F o0 (execCloseShift on s) := by
  unfold execCloseShift
  repeat' first
    | with_reducible assumption | (with_reducible exact Sub.mono hF (by decide))
    | ((with_reducible refine FrameU.mk fun p hp => ?_); cases p <;> first | exact absurd hp (by decide) | exact rfl | exact trivial | exact ⟨rfl, rfl⟩)
    | with_reducible apply tstBit_kept | with_reducible apply kept_next

theorem execEccInject_kept {F : Nat} {o0 s : State} (on : Bool) (hI : Kept F o0 s) (hF : Sub 1174405505 F := by first | with_reducible assumption | exact Sub.mono (by with_reducible assumption) (by decide)) : OutKept F o0 (execEccInject on s) := by
  unfold execEccInject
  repeat' first
    | with_reducible assumption | (with_reducible exact Sub.mono hF (by decide))
    | ((with_reducible refine FrameU.mk fun p hp => ?_); cases p <;> first | exact absurd hp (by decide) | exact rfl | exact trivial | exact ⟨rfl, rfl⟩)
    | with_reducible apply tstBit_kept | with_reducible apply kept_next

theorem execTimeSkew_kept {F : Nat} {o0 s : State} (on : Bool) (hI : Kept F o0 s) (hF : Sub 1174405505 F := by first | with_reducible assumption | exact Sub.mono (by with_reducible assumption) (by decide)) : OutKept F o0 (execTimeSkew on s) := by
  unfold execTimeSkew
  repeat' first
    | with_reducible assumption | (with_reducible exact Sub.mono hF (by decide))
    | ((with_reducible refine FrameU.mk fun p hp => ?_); cases p <;> first | exact absurd hp (by decide) | exact rfl | exact trivial | exact ⟨rfl, rfl⟩)
    | with_reducible apply tstBit_kept | with_reducible apply kept_next

theorem stallArm_kept {F : Nat} {o0 s : State}  (hI : Kept F o0 s) (hF : Sub 67108864 F := by first | with_reducible assumption | exact Sub.mono (by with_reducible assumption) (by decide)) : Kept F o0 (stallArm s) := by
  unfold stallArm
  repeat' first
    | with_reducible assumption | (with_reducible exact Sub.mono hF (by decide))
    | ((with_reducible refine FrameU.mk fun p hp => ?_); cases p <;> first | exact absurd hp (by decide) | exact rfl | exact trivial | exact ⟨rfl, rfl⟩)
    | with_reducible apply st_setTst_kept | with_reducible apply kept_ite

theorem execStallArm_kept {F : Nat} {o0 s : State}  (hI : Kept F o0 s) (hF : Sub 67108864 F := by first | with_reducible assumption | exact Sub.mono (by with_reducible assumption) (by decide)) : OutKept F o0 (execStallArm s) := by
  unfold execStallArm
  repeat' first
    | with_reducible assumption | (with_reducible exact Sub.mono hF (by decide))
    | ((with_reducible refine FrameU.mk fun p hp => ?_); cases p <;> first | exact absurd hp (by decide) | exact rfl | exact trivial | exact ⟨rfl, rfl⟩)
    | with_reducible apply stallArm_kept | with_reducible apply kept_next

theorem stallTick_kept {F : Nat} {o0 s : State} (n : Nat) (hI : Kept F o0 s) (hF : Sub 67108864 F := by first | with_reducible assumption | exact Sub.mono (by with_reducible assumption) (by decide)) : Kept F o0 (stallTick n s) := by
  unfold stallTick
  repeat' first
    | with_reducible assumption | (with_reducible exact Sub.mono hF (by decide))
    | ((with_reducible refine FrameU.mk fun p hp => ?_); cases p <;> first | exact absurd hp (by decide) | exact rfl | exact trivial | exact ⟨rfl, rfl⟩)
    | with_reducible apply st_setTst_kept | with_reducible apply kept_ite | split

theorem execLaneStallStart_kept {F : Nat} {o0 s : State}  (hI : Kept F o0 s) (hF : Sub 67108865 F := by first | with_reducible assumption | exact Sub.mono (by with_reducible assumption) (by decide)) : OutKept F o0 (execLaneStallStart s) := by
  unfold execLaneStallStart
  repeat' first
    | with_reducible assumption | (with_reducible exact Sub.mono hF (by decide))
    | ((with_reducible refine FrameU.mk fun p hp => ?_); cases p <;> first | exact absurd hp (by decide) | exact rfl | exact trivial | exact ⟨rfl, rfl⟩)
    | with_reducible apply st_flag_kept | with_reducible apply st_setTst_kept | with_reducible apply tstSync_kept
    | with_reducible apply lanesSync_kept | with_reducible apply kept_next | with_reducible apply kept_ite
    | (with_reducible refine kept_foldl ?_ (fun _ _ _ => ?_)) | (intro _) | split | dsimp only
    | fail_if_no_progress with_reducible refine kept_upd 67108865 ?_ rfl rfl rfl ?_ hF

theorem execLaneStallEnd_kept {F : Nat} {o0 s : State}  (hI : Kept F o0 s) (hF : Sub 67108865 F := by first | with_reducible assumption | exact Sub.mono (by with_reducible assumption) (by decide)) : OutKept F o0 (execLaneStallEnd s) := by
  unfold execLaneStallEnd
  repeat' first
    | with_reducible assumption | (with_reducible exact Sub.mono hF (by decide))
    | ((with_reducible refine FrameU.mk fun p hp => ?_); cases p <;> first | exact absurd hp (by decide) | exact rfl | exact trivial | exact ⟨rfl, rfl⟩)
    | with_reducible apply st_setTst_kept | with_reducible apply tstSync_kept | with_reducible apply lanesSync_kept
    | with_reducible apply kept_next | with_reducible apply kept_ite | split

theorem execEgrBpPhase_kept {F : Nat} {o0 s : State}  (hI : Kept F o0 s) (hF : Sub 67108865 F := by first | with_reducible assumption | exact Sub.mono (by with_reducible assumption) (by decide)) : OutKept F o0 (execEgrBpPhase s) := by
  unfold execEgrBpPhase
  repeat' first
    | with_reducible assumption | (with_reducible exact Sub.mono hF (by decide))
    | ((with_reducible refine FrameU.mk fun p hp => ?_); cases p <;> first | exact absurd hp (by decide) | exact rfl | exact trivial | exact ⟨rfl, rfl⟩)
    | with_reducible apply st_setTst_kept | with_reducible apply tstSync_kept | with_reducible apply kept_next
    | with_reducible apply kept_ite

end Sys2Proof.Machine
end

