-- ==== Sys2Proof/Laws/KeptBureau.lean ====
section
/-!
SUPPORT. What Machine/Bureau.lean keeps of a state: one lemma per operation.
-/

namespace Sys2Proof.Machine

set_option linter.all false
set_option Elab.async false

theorem st_setBur_kept {F : Nat} {o0 s : State} (b : Bur) (hI : Kept F o0 s) (hF : Sub 8388608 F := by first | with_reducible assumption | exact Sub.mono (by with_reducible assumption) (by decide)) : Kept F o0 (State.setBur s b) := by
  unfold State.setBur
  repeat' first
    | with_reducible assumption | (with_reducible exact Sub.mono hF (by decide))
    | ((with_reducible refine FrameU.mk fun p hp => ?_); cases p <;> first | exact absurd hp (by decide) | exact rfl | exact trivial | exact ⟨rfl, rfl⟩)
    | fail_if_no_progress with_reducible refine kept_upd 8388608 ?_ rfl rfl rfl ?_ hF

theorem st_setBurM_kept {F : Nat} {o0 s : State} (b : BurMram) (hI : Kept F o0 s) (hF : Sub 34359738368 F := by first | with_reducible assumption | exact Sub.mono (by with_reducible assumption) (by decide)) : Kept F o0 (State.setBurM s b) := by
  unfold State.setBurM
  repeat' first
    | with_reducible assumption | (with_reducible exact Sub.mono hF (by decide))
    | ((with_reducible refine FrameU.mk fun p hp => ?_); cases p <;> first | exact absurd hp (by decide) | exact rfl | exact trivial | exact ⟨rfl, rfl⟩)
    | fail_if_no_progress with_reducible refine kept_upd 34359738368 ?_ rfl rfl rfl ?_ hF

theorem st_setKey_kept {F : Nat} {o0 s : State} (i : Nat) (k : KeyEnt) (hI : Kept F o0 s) (hF : Sub 8388608 F := by first | with_reducible assumption | exact Sub.mono (by with_reducible assumption) (by decide)) : Kept F o0 (State.setKey s i k) := by
  unfold State.setKey
  repeat' first
    | with_reducible assumption | (with_reducible exact Sub.mono hF (by decide))
    | ((with_reducible refine FrameU.mk fun p hp => ?_); cases p <;> first | exact absurd hp (by decide) | exact rfl | exact trivial | exact ⟨rfl, rfl⟩)
    | with_reducible apply st_setBur_kept

theorem burSync_kept {F : Nat} {o0 s : State}  (hI : Kept F o0 s) (hF : Sub 1 F := by first | with_reducible assumption | exact Sub.mono (by with_reducible assumption) (by decide)) : Kept F o0 (burSync s) := by
  unfold burSync
  repeat' first
    | with_reducible assumption | (with_reducible exact Sub.mono hF (by decide))
    | ((with_reducible refine FrameU.mk fun p hp => ?_); cases p <;> first | exact absurd hp (by decide) | exact rfl | exact trivial | exact ⟨rfl, rfl⟩)
    | with_reducible apply st_wr_kept | with_reducible apply st_wrB_kept | with_reducible apply kept_ite | split | dsimp only
    | fail_if_no_progress with_reducible refine kept_upd 1 ?_ rfl rfl rfl ?_ hF

theorem cacheDrop_kept {F : Nat} {o0 s : State} (i : Nat) (hI : Kept F o0 s) (hF : Sub 8388608 F := by first | with_reducible assumption | exact Sub.mono (by with_reducible assumption) (by decide)) : Kept F o0 (cacheDrop i s) := by
  unfold cacheDrop
  repeat' first
    | with_reducible assumption | (with_reducible exact Sub.mono hF (by decide))
    | ((with_reducible refine FrameU.mk fun p hp => ?_); cases p <;> first | exact absurd hp (by decide) | exact rfl | exact trivial | exact ⟨rfl, rfl⟩)
    | with_reducible apply st_setBur_kept

theorem journalWrite_kept {F : Nat} {o0 s : State}  (hI : Kept F o0 s) (hF : Sub 34368126977 F := by first | with_reducible assumption | exact Sub.mono (by with_reducible assumption) (by decide)) : Kept F o0 (journalWrite s) := by
  unfold journalWrite
  repeat' first
    | with_reducible assumption | (with_reducible exact Sub.mono hF (by decide))
    | ((with_reducible refine FrameU.mk fun p hp => ?_); cases p <;> first | exact absurd hp (by decide) | exact rfl | exact trivial | exact ⟨rfl, rfl⟩)
    | with_reducible apply st_wr_kept | with_reducible apply st_wr64_kept | with_reducible apply st_setBur_kept
    | with_reducible apply st_setBurM_kept

theorem journalUses_kept {F : Nat} {o0 s : State} (i : Nat) (u : Nat) (hI : Kept F o0 s) (hF : Sub 34359738368 F := by first | with_reducible assumption | exact Sub.mono (by with_reducible assumption) (by decide)) : Kept F o0 (journalUses i u s) := by
  unfold journalUses
  repeat' first
    | with_reducible assumption | (with_reducible exact Sub.mono hF (by decide))
    | ((with_reducible refine FrameU.mk fun p hp => ?_); cases p <;> first | exact absurd hp (by decide) | exact rfl | exact trivial | exact ⟨rfl, rfl⟩)
    | with_reducible apply st_setBurM_kept | with_reducible apply kept_ite | split

theorem spendUse_kept {F : Nat} {o0 s : State} (i : Nat) (hI : Kept F o0 s) (hF : Sub 35475423617 F := by first | with_reducible assumption | exact Sub.mono (by with_reducible assumption) (by decide)) : Kept F o0 (spendUse i s) := by
  unfold spendUse
  repeat' first
    | with_reducible assumption | (with_reducible exact Sub.mono hF (by decide))
    | ((with_reducible refine FrameU.mk fun p hp => ?_); cases p <;> first | exact absurd hp (by decide) | exact rfl | exact trivial | exact ⟨rfl, rfl⟩)
    | with_reducible apply st_flag_kept | with_reducible apply post_kept | with_reducible apply st_setKey_kept
    | with_reducible apply burSync_kept | with_reducible apply cacheDrop_kept | with_reducible apply journalUses_kept
    | with_reducible apply kept_ite | split | dsimp only
    | fail_if_no_progress with_reducible refine kept_upd 35475423617 ?_ rfl rfl rfl ?_ hF

theorem benchView_kept {F : Nat} {o0 s : State}  (hI : Kept F o0 s) (hF : Sub 83886081 F := by first | with_reducible assumption | exact Sub.mono (by with_reducible assumption) (by decide)) : Kept F o0 (benchView s) := by
  unfold benchView
  repeat' first
    | with_reducible assumption | (with_reducible exact Sub.mono hF (by decide))
    | ((with_reducible refine FrameU.mk fun p hp => ?_); cases p <;> first | exact absurd hp (by decide) | exact rfl | exact trivial | exact ⟨rfl, rfl⟩)
    | with_reducible apply st_wr_kept | with_reducible apply tstDisable_kept | with_reducible apply kept_ite | split | dsimp only
    | fail_if_no_progress with_reducible refine kept_upd 83886081 ?_ rfl rfl rfl ?_ hF

theorem invalidateNow_kept {F : Nat} {o0 s : State} (l : List Nat) (hI : Kept F o0 s) (hF : Sub 6598273532289 F := by first | with_reducible assumption | exact Sub.mono (by with_reducible assumption) (by decide)) : Kept F o0 (invalidateNow l s) := by
  unfold invalidateNow
  repeat' first
    | with_reducible assumption | (with_reducible exact Sub.mono hF (by decide))
    | ((with_reducible refine FrameU.mk fun p hp => ?_); cases p <;> first | exact absurd hp (by decide) | exact rfl | exact trivial | exact ⟨rfl, rfl⟩)
    | with_reducible apply linkLost_kept | with_reducible apply st_setBur_kept | with_reducible apply st_setKey_kept
    | with_reducible apply burSync_kept | with_reducible apply cacheDrop_kept | with_reducible apply benchView_kept
    | with_reducible apply kept_ite | (with_reducible refine kept_foldl ?_ (fun _ _ _ => ?_)) | (intro _) | split | dsimp only
    | fail_if_no_progress with_reducible refine kept_upd 6598273532289 ?_ rfl rfl rfl ?_ hF

theorem invalidate_kept {F : Nat} {o0 s : State} (i : Nat) (hI : Kept F o0 s) (hF : Sub 6632633270657 F := by first | with_reducible assumption | exact Sub.mono (by with_reducible assumption) (by decide)) : Kept F o0 (invalidate i s) := by
  unfold invalidate
  repeat' first
    | with_reducible assumption | (with_reducible exact Sub.mono hF (by decide))
    | ((with_reducible refine FrameU.mk fun p hp => ?_); cases p <;> first | exact absurd hp (by decide) | exact rfl | exact trivial | exact ⟨rfl, rfl⟩)
    | with_reducible apply post_kept | with_reducible apply st_setBur_kept | with_reducible apply st_setKey_kept
    | with_reducible apply burSync_kept | with_reducible apply journalWrite_kept | with_reducible apply invalidateNow_kept
    | with_reducible apply kept_ite | (with_reducible refine kept_foldl ?_ (fun _ _ _ => ?_)) | (intro _) | split | dsimp only
    | fail_if_no_progress with_reducible refine kept_upd 6632633270657 ?_ rfl rfl rfl ?_ hF

theorem keyEffect_kept {F : Nat} {o0 s : State} (n : Nat) (hI : Kept F o0 s) (hF : Sub 6598273532289 F := by first | with_reducible assumption | exact Sub.mono (by with_reducible assumption) (by decide)) : Kept F o0 (keyEffect n s) := by
  unfold keyEffect
  repeat' first
    | with_reducible assumption | (with_reducible exact Sub.mono hF (by decide))
    | ((with_reducible refine FrameU.mk fun p hp => ?_); cases p <;> first | exact absurd hp (by decide) | exact rfl | exact trivial | exact ⟨rfl, rfl⟩)
    | with_reducible apply st_setBur_kept | with_reducible apply invalidateNow_kept | with_reducible apply kept_ite | split

theorem burRestore_kept {F : Nat} {o0 s : State}  (hI : Kept F o0 s) (hF : Sub 1115685249 F := by first | with_reducible assumption | exact Sub.mono (by with_reducible assumption) (by decide)) : Kept F o0 (burRestore s) := by
  unfold burRestore
  repeat' first
    | with_reducible assumption | (with_reducible exact Sub.mono hF (by decide))
    | ((with_reducible refine FrameU.mk fun p hp => ?_); cases p <;> first | exact absurd hp (by decide) | exact rfl | exact trivial | exact ⟨rfl, rfl⟩)
    | with_reducible apply st_wr_kept | with_reducible apply st_flag_kept | with_reducible apply st_wr64_kept
    | with_reducible apply post_kept | with_reducible apply st_setBur_kept | with_reducible apply burSync_kept
    | with_reducible apply kept_ite | split | dsimp only
    | fail_if_no_progress with_reducible refine kept_upd 1115685249 ?_ rfl rfl rfl ?_ hF

theorem burExpire_kept {F : Nat} {o0 s : State}  (hI : Kept F o0 s) (hF : Sub 6632633270657 F := by first | with_reducible assumption | exact Sub.mono (by with_reducible assumption) (by decide)) : Kept F o0 (burExpire s) := by
  unfold burExpire
  repeat' first
    | with_reducible assumption | (with_reducible exact Sub.mono hF (by decide))
    | ((with_reducible refine FrameU.mk fun p hp => ?_); cases p <;> first | exact absurd hp (by decide) | exact rfl | exact trivial | exact ⟨rfl, rfl⟩)
    | with_reducible apply st_flag_kept | with_reducible apply post_kept | with_reducible apply journalWrite_kept
    | with_reducible apply invalidateNow_kept | with_reducible apply kept_ite
    | (with_reducible refine kept_foldl ?_ (fun _ _ _ => ?_)) | (intro _) | split | dsimp only
    | fail_if_no_progress with_reducible refine kept_upd 6632633270657 ?_ rfl rfl rfl ?_ hF

theorem zeroize_kept {F : Nat} {o0 s : State}  (hI : Kept F o0 s) (hF : Sub 6632633270657 F := by first | with_reducible assumption | exact Sub.mono (by with_reducible assumption) (by decide)) : Kept F o0 (zeroize s) := by
  unfold zeroize
  repeat' first
    | with_reducible assumption | (with_reducible exact Sub.mono hF (by decide))
    | ((with_reducible refine FrameU.mk fun p hp => ?_); cases p <;> first | exact absurd hp (by decide) | exact rfl | exact trivial | exact ⟨rfl, rfl⟩)
    | with_reducible apply st_flag_kept | with_reducible apply post_kept | with_reducible apply st_setBur_kept
    | with_reducible apply st_setBurM_kept | with_reducible apply burSync_kept | with_reducible apply invalidateNow_kept

theorem tamperEvent_kept {F : Nat} {o0 s : State} (ns32 : Nat) (hI : Kept F o0 s) (hF : Sub 6632633270657 F := by first | with_reducible assumption | exact Sub.mono (by with_reducible assumption) (by decide)) : Kept F o0 (tamperEvent ns32 s) := by
  unfold tamperEvent
  repeat' first
    | with_reducible assumption | (with_reducible exact Sub.mono hF (by decide))
    | ((with_reducible refine FrameU.mk fun p hp => ?_); cases p <;> first | exact absurd hp (by decide) | exact rfl | exact trivial | exact ⟨rfl, rfl⟩)
    | with_reducible apply st_wr_kept | with_reducible apply st_flag_kept | with_reducible apply post_kept
    | with_reducible apply st_setBurM_kept | with_reducible apply zeroize_kept | with_reducible apply kept_ite

theorem execTamper_kept {F : Nat} {o0 s : State} (low : Bool) (raw : Nat) (hold : Nat) (hI : Kept F o0 s) (hF : Sub 6632633270657 F := by first | with_reducible assumption | exact Sub.mono (by with_reducible assumption) (by decide)) : OutKept F o0 (execTamper low raw hold s) := by
  unfold execTamper
  repeat' first
    | with_reducible assumption | (with_reducible exact Sub.mono hF (by decide))
    | ((with_reducible refine FrameU.mk fun p hp => ?_); cases p <;> first | exact absurd hp (by decide) | exact rfl | exact trivial | exact ⟨rfl, rfl⟩)
    | with_reducible apply st_wrB_kept | with_reducible apply tamperEvent_kept | with_reducible apply kept_next
    | with_reducible apply kept_ite

theorem zeroizeJournal_kept {F : Nat} {o0 s : State}  (hI : Kept F o0 s) (hF : Sub 34368126977 F := by first | with_reducible assumption | exact Sub.mono (by with_reducible assumption) (by decide)) : Kept F o0 (zeroizeJournal s) := by
  unfold zeroizeJournal
  repeat' first
    | with_reducible assumption | (with_reducible exact Sub.mono hF (by decide))
    | ((with_reducible refine FrameU.mk fun p hp => ?_); cases p <;> first | exact absurd hp (by decide) | exact rfl | exact trivial | exact ⟨rfl, rfl⟩)
    | with_reducible apply st_setBur_kept | with_reducible apply st_setBurM_kept | with_reducible apply journalWrite_kept

theorem execZeroizeJournal_kept {F : Nat} {o0 s : State}  (hI : Kept F o0 s) (hF : Sub 34368126977 F := by first | with_reducible assumption | exact Sub.mono (by with_reducible assumption) (by decide)) : OutKept F o0 (execZeroizeJournal s) := by
  unfold execZeroizeJournal
  repeat' first
    | with_reducible assumption | (with_reducible exact Sub.mono hF (by decide))
    | ((with_reducible refine FrameU.mk fun p hp => ?_); cases p <;> first | exact absurd hp (by decide) | exact rfl | exact trivial | exact ⟨rfl, rfl⟩)
    | with_reducible apply zeroizeJournal_kept | with_reducible apply kept_next | with_reducible apply kept_ite

theorem zeroizeAtStart_kept {F : Nat} {o0 s : State}  (hI : Kept F o0 s) (hF : Sub 34359738368 F := by first | with_reducible assumption | exact Sub.mono (by with_reducible assumption) (by decide)) : Kept F o0 (zeroizeAtStart s) := by
  unfold zeroizeAtStart
  repeat' first
    | with_reducible assumption | (with_reducible exact Sub.mono hF (by decide))
    | ((with_reducible refine FrameU.mk fun p hp => ?_); cases p <;> first | exact absurd hp (by decide) | exact rfl | exact trivial | exact ⟨rfl, rfl⟩)
    | with_reducible apply st_setBurM_kept | with_reducible apply kept_ite

theorem execBurSramUe_kept {F : Nat} {o0 s : State} (e : EccErr) (entry : Fin 1024) (copyBad : Bool) (hI : Kept F o0 s) (hF : Sub 6632633270657 F := by first | with_reducible assumption | exact Sub.mono (by with_reducible assumption) (by decide)) : OutKept F o0 (execBurSramUe e entry copyBad s) := by
  unfold execBurSramUe
  repeat' first
    | with_reducible assumption | (with_reducible exact Sub.mono hF (by decide))
    | ((with_reducible refine FrameU.mk fun p hp => ?_); cases p <;> first | exact absurd hp (by decide) | exact rfl | exact trivial | exact ⟨rfl, rfl⟩)
    | with_reducible apply st_inc_kept | with_reducible apply st_flag_kept | with_reducible apply post_kept
    | with_reducible apply st_setKey_kept | with_reducible apply burSync_kept | with_reducible apply cacheDrop_kept
    | with_reducible apply journalWrite_kept | with_reducible apply invalidateNow_kept | with_reducible apply kept_next
    | with_reducible apply kept_ite | split

theorem keyLookup_kept {F : Nat} {o0 s : State} (keyId : Nat) (fetchNs : Nat) (hI : Kept F o0 s) (hF : Sub 8388609 F := by first | with_reducible assumption | exact Sub.mono (by with_reducible assumption) (by decide)) : Kept F o0 (keyLookup keyId fetchNs s).2 := by
  unfold keyLookup
  repeat' first
    | with_reducible assumption | (with_reducible exact Sub.mono hF (by decide))
    | ((with_reducible refine FrameU.mk fun p hp => ?_); cases p <;> first | exact absurd hp (by decide) | exact rfl | exact trivial | exact ⟨rfl, rfl⟩)
    | with_reducible apply st_inc_kept | with_reducible apply st_setBur_kept | with_reducible apply kept_ite
    | with_reducible apply kept_ite_fst | with_reducible apply kept_ite_snd | split | dsimp only
    | fail_if_no_progress with_reducible refine kept_upd 8388609 ?_ rfl rfl rfl ?_ hF

theorem keyLookup_kept_eq {F : Nat} {o0 s : State} {y0 y1} {keyId : Nat} {fetchNs : Nat} (hI : Kept F o0 s) (hF : Sub 8388609 F := by first | with_reducible assumption | exact Sub.mono (by with_reducible assumption) (by decide)) (e : keyLookup keyId fetchNs s = (y0, y1)) : Kept F o0 y1 := by
  have h2 := keyLookup_kept keyId fetchNs hI
  rw [e] at h2; exact h2

theorem svVerify_kept {F : Nat} {o0 s : State} (f : SvFrame) (groups : List Nat) (stream : Nat) (hI : Kept F o0 s) (hF : Sub 35475423681 F := by first | with_reducible assumption | exact Sub.mono (by with_reducible assumption) (by decide)) : Kept F o0 (svVerify f groups stream s).2.2 := by
  unfold svVerify
  repeat' first
    | with_reducible assumption | (with_reducible exact Sub.mono hF (by decide))
    | ((with_reducible refine FrameU.mk fun p hp => ?_); cases p <;> first | exact absurd hp (by decide) | exact rfl | exact trivial | exact ⟨rfl, rfl⟩)
    | with_reducible apply st_setIng_kept | with_reducible apply spendUse_kept | (refine keyLookup_kept_eq ?_ ?_ (by assumption))
    | with_reducible apply keyLookup_kept | with_reducible apply kept_ite | with_reducible apply kept_ite_fst
    | with_reducible apply kept_ite_snd | with_reducible apply kept_ite_snd2
    | (with_reducible refine kept_foldl ?_ (fun _ _ _ => ?_)) | (with_reducible refine kept_foldl_fst ?_ (fun _ _ _ => ?_))
    | (exact ⟨id, id, List.prefix_refl _, Nat.le_refl _⟩) | (intro _) | split | dsimp only | with_reducible refine kept_ports ?_ ?_
    | with_reducible refine kept_pio ?_ ?_ | fail_if_no_progress with_reducible refine kept_upd 35475423681 ?_ rfl rfl rfl ?_ hF
    | fail_if_no_progress with_reducible refine kept_chs 35475423681 ?_ ?_ rfl ?_ hF

theorem svVerify_kept_eq {F : Nat} {o0 s : State} {y0 y1 y2} {f : SvFrame} {groups : List Nat} {stream : Nat} (hI : Kept F o0 s) (hF : Sub 35475423681 F := by first | with_reducible assumption | exact Sub.mono (by with_reducible assumption) (by decide)) (e : svVerify f groups stream s = (y0, y1, y2)) : Kept F o0 y2 := by
  have h2 := svVerify_kept f groups stream hI
  rw [e] at h2; exact h2

theorem svAccept_kept {F : Nat} {o0 s : State} (src : IngSrc) (j : ParseJob) (f : SvFrame) (pairs : List SvPair) (hI : Kept F o0 s) (hF : Sub 35475423729 F := by first | with_reducible assumption | exact Sub.mono (by with_reducible assumption) (by decide)) : Kept F o0 (svAccept src j f pairs s) := by
  unfold svAccept
  repeat' first
    | with_reducible assumption | (with_reducible exact Sub.mono hF (by decide))
    | ((with_reducible refine FrameU.mk fun p hp => ?_); cases p <;> first | exact absurd hp (by decide) | exact rfl | exact trivial | exact ⟨rfl, rfl⟩)
    | with_reducible apply st_inc_kept | with_reducible apply setJob_kept | with_reducible apply loseJob_kept
    | with_reducible apply dropJob_kept | (refine svVerify_kept_eq ?_ ?_ (by assumption)) | with_reducible apply svVerify_kept
    | with_reducible apply kept_ite | split | dsimp only
    | fail_if_no_progress with_reducible refine kept_upd 35475423729 ?_ rfl rfl rfl ?_ hF

theorem execRoutedSvFrame_kept {F : Nat} {o0 s : State} (n : Fin 64) (f : SvFrame) (hI : Kept F o0 s) (hF : Sub 35475423729 F := by first | with_reducible assumption | exact Sub.mono (by with_reducible assumption) (by decide)) : OutKept F o0 (execRoutedSvFrame n f s) := by
  unfold execRoutedSvFrame
  repeat' first
    | with_reducible assumption | (with_reducible exact Sub.mono hF (by decide))
    | ((with_reducible refine FrameU.mk fun p hp => ?_); cases p <;> first | exact absurd hp (by decide) | exact rfl | exact trivial | exact ⟨rfl, rfl⟩)
    | with_reducible apply dropJob_kept | with_reducible apply jobExcess_kept | with_reducible apply unboundHead_kept
    | with_reducible apply svAccept_kept | with_reducible apply kept_next | with_reducible apply kept_ite
    | (with_reducible refine kept_foldl ?_ (fun _ _ _ => ?_)) | (with_reducible refine kept_foldl_fst ?_ (fun _ _ _ => ?_))
    | (exact ⟨id, id, List.prefix_refl _, Nat.le_refl _⟩) | (intro _) | split | dsimp only | with_reducible refine kept_ports ?_ ?_
    | with_reducible refine kept_pio ?_ ?_ | fail_if_no_progress with_reducible refine kept_upd 35475423729 ?_ rfl rfl rfl ?_ hF
    | fail_if_no_progress with_reducible refine kept_chs 35475423729 ?_ ?_ rfl ?_ hF

theorem burSelect_kept {F : Nat} {o0 s : State} (v : Nat) (hI : Kept F o0 s) (hF : Sub 1 F := by first | with_reducible assumption | exact Sub.mono (by with_reducible assumption) (by decide)) : Kept F o0 (burSelect v s) := by
  unfold burSelect
  repeat' first
    | with_reducible assumption | (with_reducible exact Sub.mono hF (by decide))
    | ((with_reducible refine FrameU.mk fun p hp => ?_); cases p <;> first | exact absurd hp (by decide) | exact rfl | exact trivial | exact ⟨rfl, rfl⟩)
    | with_reducible apply st_wr_kept | with_reducible apply st_wrB_kept

end Sys2Proof.Machine
end

