-- ==== Sys2Proof/Laws/KeptKernels.lean ====
section
/-!
SUPPORT. What Machine/Kernels.lean keeps of a state: one lemma per operation.
-/

namespace Sys2Proof.Machine

set_option linter.all false
set_option Elab.async false

theorem putOut_kept {F : Nat} {o0 s : State} (i : Inst) (j : Nat) (o : KOut) (hI : Kept F o0 s) (hF : Sub 32768 F := by first | with_reducible assumption | exact Sub.mono (by with_reducible assumption) (by decide)) : Kept F o0 (putOut i j o s) := by
  unfold putOut
  repeat' first
    | with_reducible assumption | (with_reducible exact Sub.mono hF (by decide))
    | ((with_reducible refine FrameU.mk fun p hp => ?_); cases p <;> first | exact absurd hp (by decide) | exact rfl | exact trivial | exact ⟨rfl, rfl⟩)
    | with_reducible apply st_setInst_kept

theorem runKernel_kept {F : Nat} {o0 s : State} (code : Nat) (f : KIn → KOut) (n : Nat) (j : Nat) (hI : Kept F o0 s) (hF : Sub 32768 F := by first | with_reducible assumption | exact Sub.mono (by with_reducible assumption) (by decide)) : Kept F o0 (runKernel code f n j s) := by
  unfold runKernel
  repeat' first
    | with_reducible assumption | (with_reducible exact Sub.mono hF (by decide))
    | ((with_reducible refine FrameU.mk fun p hp => ?_); cases p <;> first | exact absurd hp (by decide) | exact rfl | exact trivial | exact ⟨rfl, rfl⟩)
    | with_reducible apply putOut_kept | with_reducible apply kept_next | with_reducible apply kept_ite | split

end Sys2Proof.Machine
end

