-- ==== Sys2Proof/Laws/KeptPins.lean ====
section
/-!
SUPPORT. What Machine/Pins.lean keeps of a state: one lemma per operation.
-/

namespace Sys2Proof.Machine

set_option linter.all false
set_option Elab.async false

theorem setPin_kept {F : Nat} {o0 s : State} (pin : Nat) (level : Bool) (hI : Kept F o0 s) (hF : Sub 4398180728832 F := by first | with_reducible assumption | exact Sub.mono (by with_reducible assumption) (by decide)) : Kept F o0 (setPin pin level s) := by
  unfold setPin
  repeat' first
    | with_reducible assumption | (with_reducible exact Sub.mono hF (by decide))
    | ((with_reducible refine FrameU.mk fun p hp => ?_); cases p <;> first | exact absurd hp (by decide) | exact rfl | exact trivial | exact ⟨rfl, rfl⟩)
    | with_reducible apply st_emit_kept | with_reducible apply kept_ite | (with_reducible refine kept_foldl ?_ (fun _ _ _ => ?_))
    | (with_reducible refine kept_foldl_fst ?_ (fun _ _ _ => ?_)) | (exact ⟨id, id, List.prefix_refl _, Nat.le_refl _⟩) | (intro _)
    | split | dsimp only | with_reducible refine kept_ports ?_ ?_ | with_reducible refine kept_pio ?_ ?_
    | fail_if_no_progress with_reducible refine kept_upd 4398180728832 ?_ rfl rfl rfl ?_ hF
    | fail_if_no_progress with_reducible refine kept_chs 4398180728832 ?_ ?_ rfl ?_ hF

theorem st_setTtg_kept {F : Nat} {o0 s : State} (k : Nat) (g : Option TtgRun) (hI : Kept F o0 s) (hF : Sub 8 F := by first | with_reducible assumption | exact Sub.mono (by with_reducible assumption) (by decide)) : Kept F o0 (State.setTtg s k g) := by
  unfold State.setTtg
  repeat' first
    | with_reducible assumption | (with_reducible exact Sub.mono hF (by decide))
    | ((with_reducible refine FrameU.mk fun p hp => ?_); cases p <;> first | exact absurd hp (by decide) | exact rfl | exact trivial | exact ⟨rfl, rfl⟩)
    | with_reducible apply st_setClv_kept

theorem ttgClear_kept {F : Nat} {o0 s : State} (k : Nat) (hI : Kept F o0 s) (hF : Sub 9 F := by first | with_reducible assumption | exact Sub.mono (by with_reducible assumption) (by decide)) : Kept F o0 (ttgClear k s) := by
  unfold ttgClear
  repeat' first
    | with_reducible assumption | (with_reducible exact Sub.mono hF (by decide))
    | ((with_reducible refine FrameU.mk fun p hp => ?_); cases p <;> first | exact absurd hp (by decide) | exact rfl | exact trivial | exact ⟨rfl, rfl⟩)
    | with_reducible apply st_wrB_kept | with_reducible apply st_setTtg_kept

theorem ttgArm_kept {F : Nat} {o0 s : State} (k : Nat) (hI : Kept F o0 s) (hF : Sub 9 F := by first | with_reducible assumption | exact Sub.mono (by with_reducible assumption) (by decide)) : Kept F o0 (ttgArm k s) := by
  unfold ttgArm
  repeat' first
    | with_reducible assumption | (with_reducible exact Sub.mono hF (by decide))
    | ((with_reducible refine FrameU.mk fun p hp => ?_); cases p <;> first | exact absurd hp (by decide) | exact rfl | exact trivial | exact ⟨rfl, rfl⟩)
    | with_reducible apply st_wr_kept | with_reducible apply st_flag_kept | with_reducible apply st_wrB_kept
    | with_reducible apply st_setTtg_kept | with_reducible apply ttgClear_kept | with_reducible apply kept_ite

theorem execTtgArm_kept {F : Nat} {o0 s : State} (k : Fin 8) (hI : Kept F o0 s) (hF : Sub 9 F := by first | with_reducible assumption | exact Sub.mono (by with_reducible assumption) (by decide)) : OutKept F o0 (execTtgArm k s) := by
  unfold execTtgArm
  repeat' first
    | with_reducible assumption | (with_reducible exact Sub.mono hF (by decide))
    | ((with_reducible refine FrameU.mk fun p hp => ?_); cases p <;> first | exact absurd hp (by decide) | exact rfl | exact trivial | exact ⟨rfl, rfl⟩)
    | with_reducible apply ttgArm_kept | with_reducible apply kept_next | with_reducible apply kept_ite

theorem ttgDisarm_kept {F : Nat} {o0 s : State} (k : Nat) (hI : Kept F o0 s) (hF : Sub 4398180728841 F := by first | with_reducible assumption | exact Sub.mono (by with_reducible assumption) (by decide)) : Kept F o0 (ttgDisarm k s) := by
  unfold ttgDisarm
  repeat' first
    | with_reducible assumption | (with_reducible exact Sub.mono hF (by decide))
    | ((with_reducible refine FrameU.mk fun p hp => ?_); cases p <;> first | exact absurd hp (by decide) | exact rfl | exact trivial | exact ⟨rfl, rfl⟩)
    | with_reducible apply setPin_kept | with_reducible apply ttgClear_kept | with_reducible apply kept_ite | split

theorem execTtgDisarm_kept {F : Nat} {o0 s : State} (k : Fin 8) (hI : Kept F o0 s) (hF : Sub 4398180728841 F := by first | with_reducible assumption | exact Sub.mono (by with_reducible assumption) (by decide)) : OutKept F o0 (execTtgDisarm k s) := by
  unfold execTtgDisarm
  repeat' first
    | with_reducible assumption | (with_reducible exact Sub.mono hF (by decide))
    | ((with_reducible refine FrameU.mk fun p hp => ?_); cases p <;> first | exact absurd hp (by decide) | exact rfl | exact trivial | exact ⟨rfl, rfl⟩)
    | with_reducible apply ttgDisarm_kept | with_reducible apply kept_next

theorem execTtgEdge_kept {F : Nat} {o0 s : State} (k : Fin 8) (hI : Kept F o0 s) (hF : Sub 4398180728841 F := by first | with_reducible assumption | exact Sub.mono (by with_reducible assumption) (by decide)) : OutKept F o0 (execTtgEdge k s) := by
  unfold execTtgEdge
  repeat' first
    | with_reducible assumption | (with_reducible exact Sub.mono hF (by decide))
    | ((with_reducible refine FrameU.mk fun p hp => ?_); cases p <;> first | exact absurd hp (by decide) | exact rfl | exact trivial | exact ⟨rfl, rfl⟩)
    | with_reducible apply st_incWrap_kept | with_reducible apply setPin_kept | with_reducible apply st_setTtg_kept
    | with_reducible apply ttgClear_kept | with_reducible apply kept_next | with_reducible apply kept_ite | split

theorem capShow_kept {F : Nat} {o0 s : State} (k : Nat) (hI : Kept F o0 s) (hF : Sub 1 F := by first | with_reducible assumption | exact Sub.mono (by with_reducible assumption) (by decide)) : Kept F o0 (capShow k s) := by
  unfold capShow
  repeat' first
    | with_reducible assumption | (with_reducible exact Sub.mono hF (by decide))
    | ((with_reducible refine FrameU.mk fun p hp => ?_); cases p <;> first | exact absurd hp (by decide) | exact rfl | exact trivial | exact ⟨rfl, rfl⟩)
    | with_reducible apply st_wr_kept | with_reducible apply st_wrB_kept | with_reducible apply st_wr64_kept
    | with_reducible apply kept_ite | split | dsimp only
    | fail_if_no_progress with_reducible refine kept_upd 1 ?_ rfl rfl rfl ?_ hF

theorem st_setCap_kept {F : Nat} {o0 s : State} (k : Nat) (es : List CapEntry) (hI : Kept F o0 s) (hF : Sub 8 F := by first | with_reducible assumption | exact Sub.mono (by with_reducible assumption) (by decide)) : Kept F o0 (State.setCap s k es) := by
  unfold State.setCap
  repeat' first
    | with_reducible assumption | (with_reducible exact Sub.mono hF (by decide))
    | ((with_reducible refine FrameU.mk fun p hp => ?_); cases p <;> first | exact absurd hp (by decide) | exact rfl | exact trivial | exact ⟨rfl, rfl⟩)
    | with_reducible apply st_setClv_kept

theorem capStamp_kept {F : Nat} {o0 s : State} (k : Nat) (stamp : Nat) (rise : Bool) (hI : Kept F o0 s) (hF : Sub 9 F := by first | with_reducible assumption | exact Sub.mono (by with_reducible assumption) (by decide)) : Kept F o0 (capStamp k stamp rise s) := by
  unfold capStamp
  repeat' first
    | with_reducible assumption | (with_reducible exact Sub.mono hF (by decide))
    | ((with_reducible refine FrameU.mk fun p hp => ?_); cases p <;> first | exact absurd hp (by decide) | exact rfl | exact trivial | exact ⟨rfl, rfl⟩)
    | with_reducible apply st_inc_kept | with_reducible apply st_flag_kept | with_reducible apply st_wrB_kept
    | with_reducible apply capShow_kept | with_reducible apply st_setCap_kept | with_reducible apply kept_ite

theorem execCaptureEdge_kept {F : Nat} {o0 s : State} (k : Fin 16) (raw : Nat) (hold : Nat) (rise : Bool) (hI : Kept F o0 s) (hF : Sub 9 F := by first | with_reducible assumption | exact Sub.mono (by with_reducible assumption) (by decide)) : OutKept F o0 (execCaptureEdge k raw hold rise s) := by
  unfold execCaptureEdge
  repeat' first
    | with_reducible assumption | (with_reducible exact Sub.mono hF (by decide))
    | ((with_reducible refine FrameU.mk fun p hp => ?_); cases p <;> first | exact absurd hp (by decide) | exact rfl | exact trivial | exact ⟨rfl, rfl⟩)
    | with_reducible apply st_setClv_kept | with_reducible apply capStamp_kept | with_reducible apply kept_next
    | with_reducible apply kept_ite

theorem execCapturePop_kept {F : Nat} {o0 s : State} (k : Fin 16) (hI : Kept F o0 s) (hF : Sub 4398046511113 F := by first | with_reducible assumption | exact Sub.mono (by with_reducible assumption) (by decide)) : OutKept F o0 (execCapturePop k s) := by
  unfold execCapturePop
  repeat' first
    | with_reducible assumption | (with_reducible exact Sub.mono hF (by decide))
    | ((with_reducible refine FrameU.mk fun p hp => ?_); cases p <;> first | exact absurd hp (by decide) | exact rfl | exact trivial | exact ⟨rfl, rfl⟩)
    | with_reducible apply st_emit_kept | with_reducible apply capShow_kept | with_reducible apply st_setCap_kept
    | with_reducible apply kept_next

end Sys2Proof.Machine
end

