-- ==== Sys2Proof/Laws/KeptAlarms.lean ====
section
/-!
SUPPORT. What Machine/Alarms.lean keeps of a state: one lemma per operation.
-/

namespace Sys2Proof.Machine

set_option linter.all false
set_option Elab.async false

theorem st_setAlm_kept {F : Nat} {o0 s : State} (a : Alm) (hI : Kept F o0 s) (hF : Sub 262144 F := by first | with_reducible assumption | exact Sub.mono (by with_reducible assumption) (by decide)) : Kept F o0 (State.setAlm s a) := by
  unfold State.setAlm
  repeat' first
    | with_reducible assumption | (with_reducible exact Sub.mono hF (by decide))
    | ((with_reducible refine FrameU.mk fun p hp => ?_); cases p <;> first | exact absurd hp (by decide) | exact rfl | exact trivial | exact ⟨rfl, rfl⟩)
    | with_reducible apply kept_ite | split | dsimp only
    | fail_if_no_progress with_reducible refine kept_upd 262144 ?_ rfl rfl rfl ?_ hF

theorem st_setAlmSt_kept {F : Nat} {o0 s : State} (k : Nat) (a : AlarmSt) (hI : Kept F o0 s) (hF : Sub 262144 F := by first | with_reducible assumption | exact Sub.mono (by with_reducible assumption) (by decide)) : Kept F o0 (State.setAlmSt s k a) := by
  unfold State.setAlmSt
  repeat' first
    | with_reducible assumption | (with_reducible exact Sub.mono hF (by decide))
    | ((with_reducible refine FrameU.mk fun p hp => ?_); cases p <;> first | exact absurd hp (by decide) | exact rfl | exact trivial | exact ⟨rfl, rfl⟩)
    | with_reducible apply st_setAlm_kept

theorem ackAlarm_kept {F : Nat} {o0 s : State} (k : Nat) (hI : Kept F o0 s) (hF : Sub 262144 F := by first | with_reducible assumption | exact Sub.mono (by with_reducible assumption) (by decide)) : Kept F o0 (ackAlarm k s) := by
  unfold ackAlarm
  repeat' first
    | with_reducible assumption | (with_reducible exact Sub.mono hF (by decide))
    | ((with_reducible refine FrameU.mk fun p hp => ?_); cases p <;> first | exact absurd hp (by decide) | exact rfl | exact trivial | exact ⟨rfl, rfl⟩)
    | with_reducible apply st_setAlmSt_kept | with_reducible apply kept_ite | split

theorem ackWrite_kept {F : Nat} {o0 s : State} (v : Nat) (hI : Kept F o0 s) (hF : Sub 262144 F := by first | with_reducible assumption | exact Sub.mono (by with_reducible assumption) (by decide)) : Kept F o0 (ackWrite v s) := by
  unfold ackWrite
  repeat' first
    | with_reducible assumption | (with_reducible exact Sub.mono hF (by decide))
    | ((with_reducible refine FrameU.mk fun p hp => ?_); cases p <;> first | exact absurd hp (by decide) | exact rfl | exact trivial | exact ⟨rfl, rfl⟩)
    | with_reducible apply ackAlarm_kept | with_reducible apply kept_ite | (with_reducible refine kept_foldl ?_ (fun _ _ _ => ?_))
    | (with_reducible refine kept_foldl_fst ?_ (fun _ _ _ => ?_)) | (exact ⟨id, id, List.prefix_refl _, Nat.le_refl _⟩) | (intro _)
    | split | dsimp only | with_reducible refine kept_ports ?_ ?_ | with_reducible refine kept_pio ?_ ?_
    | fail_if_no_progress with_reducible refine kept_upd 262144 ?_ rfl rfl rfl ?_ hF
    | fail_if_no_progress with_reducible refine kept_chs 262144 ?_ ?_ rfl ?_ hF

theorem inhNote_kept {F : Nat} {o0 s : State} (word : Nat) (bits : Nat) (hI : Kept F o0 s) (hF : Sub 262144 F := by first | with_reducible assumption | exact Sub.mono (by with_reducible assumption) (by decide)) : Kept F o0 (inhNote word bits s) := by
  unfold inhNote
  repeat' first
    | with_reducible assumption | (with_reducible exact Sub.mono hF (by decide))
    | ((with_reducible refine FrameU.mk fun p hp => ?_); cases p <;> first | exact absurd hp (by decide) | exact rfl | exact trivial | exact ⟨rfl, rfl⟩)
    | with_reducible apply st_setAlm_kept

theorem inhWrite_kept {F : Nat} {o0 s : State} (word : Nat) (bits : Nat) (hI : Kept F o0 s) (hF : Sub 262144 F := by first | with_reducible assumption | exact Sub.mono (by with_reducible assumption) (by decide)) : Kept F o0 (inhWrite word bits s) := by
  unfold inhWrite
  repeat' first
    | with_reducible assumption | (with_reducible exact Sub.mono hF (by decide))
    | ((with_reducible refine FrameU.mk fun p hp => ?_); cases p <;> first | exact absurd hp (by decide) | exact rfl | exact trivial | exact ⟨rfl, rfl⟩)
    | with_reducible apply st_setAlmSt_kept | with_reducible apply inhNote_kept | with_reducible apply kept_ite
    | (with_reducible refine kept_foldl ?_ (fun _ _ _ => ?_)) | (with_reducible refine kept_foldl_fst ?_ (fun _ _ _ => ?_))
    | (exact ⟨id, id, List.prefix_refl _, Nat.le_refl _⟩) | (intro _) | split | dsimp only | with_reducible refine kept_ports ?_ ?_
    | with_reducible refine kept_pio ?_ ?_ | fail_if_no_progress with_reducible refine kept_upd 262144 ?_ rfl rfl rfl ?_ hF
    | fail_if_no_progress with_reducible refine kept_chs 262144 ?_ ?_ rfl ?_ hF

theorem mirror_kept {F : Nat} {o0 s : State} (op : Nat) (operand : Nat) (hI : Kept F o0 s) (hF : Sub 4398050705408 F := by first | with_reducible assumption | exact Sub.mono (by with_reducible assumption) (by decide)) : Kept F o0 (mirror op operand s) := by
  unfold mirror
  repeat' first
    | with_reducible assumption | (with_reducible exact Sub.mono hF (by decide))
    | ((with_reducible refine FrameU.mk fun p hp => ?_); cases p <;> first | exact absurd hp (by decide) | exact rfl | exact trivial | exact ⟨rfl, rfl⟩)
    | with_reducible apply st_setPair_kept | with_reducible apply st_sendMirror_kept

theorem pairWide_kept {F : Nat} {o0 s : State} (op : Nat) (operand : Nat) (now : State → State) (hnow : ∀ x0, Kept F o0 x0 → Kept F o0 (now x0)) (hI : Kept F o0 s) (hF : Sub 4398050705409 F := by first | with_reducible assumption | exact Sub.mono (by with_reducible assumption) (by decide)) : Kept F o0 (pairWide op operand now s) := by
  unfold pairWide
  repeat' first
    | with_reducible assumption | with_reducible apply hnow | (with_reducible exact Sub.mono hF (by decide))
    | ((with_reducible refine FrameU.mk fun p hp => ?_); cases p <;> first | exact absurd hp (by decide) | exact rfl | exact trivial | exact ⟨rfl, rfl⟩)
    | with_reducible apply st_flag_kept | with_reducible apply mirror_kept | with_reducible apply kept_ite | (intro _) | split

theorem applyAlmMirrors_kept {F : Nat} {o0 s : State} (n : Nat) (hI : Kept F o0 s) (hF : Sub 4456448 F := by first | with_reducible assumption | exact Sub.mono (by with_reducible assumption) (by decide)) : Kept F o0 (applyAlmMirrors n s) := by
  unfold applyAlmMirrors
  repeat' first
    | with_reducible assumption | (with_reducible exact Sub.mono hF (by decide))
    | ((with_reducible refine FrameU.mk fun p hp => ?_); cases p <;> first | exact absurd hp (by decide) | exact rfl | exact trivial | exact ⟨rfl, rfl⟩)
    | with_reducible apply ackWrite_kept | with_reducible apply inhWrite_kept | with_reducible apply kept_ite
    | (with_reducible refine kept_foldl ?_ (fun _ _ _ => ?_)) | (with_reducible refine kept_foldl_fst ?_ (fun _ _ _ => ?_))
    | (exact ⟨id, id, List.prefix_refl _, Nat.le_refl _⟩) | (intro _) | split | dsimp only | with_reducible refine kept_ports ?_ ?_
    | with_reducible refine kept_pio ?_ ?_ | fail_if_no_progress with_reducible refine kept_upd 4456448 ?_ rfl rfl rfl ?_ hF
    | fail_if_no_progress with_reducible refine kept_chs 4456448 ?_ ?_ rfl ?_ hF

theorem execAlmAck_kept {F : Nat} {o0 s : State} (all : Bool) (k : Fin 2048) (hI : Kept F o0 s) (hF : Sub 4398050967553 F := by first | with_reducible assumption | exact Sub.mono (by with_reducible assumption) (by decide)) : OutKept F o0 (execAlmAck all k s) := by
  unfold execAlmAck
  repeat' first
    | with_reducible assumption | (with_reducible exact Sub.mono hF (by decide))
    | ((with_reducible refine FrameU.mk fun p hp => ?_); cases p <;> first | exact absurd hp (by decide) | exact rfl | exact trivial | exact ⟨rfl, rfl⟩)
    | with_reducible apply ackWrite_kept | with_reducible apply pairWide_kept | with_reducible apply kept_next | (intro _)

theorem almInh_kept {F : Nat} {o0 s : State} (bits : Nat) (hI : Kept F o0 s) (hF : Sub 4398050967553 F := by first | with_reducible assumption | exact Sub.mono (by with_reducible assumption) (by decide)) : Kept F o0 (almInh bits s) := by
  unfold almInh
  repeat' first
    | with_reducible assumption | (with_reducible exact Sub.mono hF (by decide))
    | ((with_reducible refine FrameU.mk fun p hp => ?_); cases p <;> first | exact absurd hp (by decide) | exact rfl | exact trivial | exact ⟨rfl, rfl⟩)
    | with_reducible apply inhNote_kept | with_reducible apply inhWrite_kept | with_reducible apply pairWide_kept
    | with_reducible apply kept_ite | (intro _)

theorem execAlmInh_kept {F : Nat} {o0 s : State} (bits : Nat) (hI : Kept F o0 s) (hF : Sub 4398050967553 F := by first | with_reducible assumption | exact Sub.mono (by with_reducible assumption) (by decide)) : OutKept F o0 (execAlmInh bits s) := by
  unfold execAlmInh
  repeat' first
    | with_reducible assumption | (with_reducible exact Sub.mono hF (by decide))
    | ((with_reducible refine FrameU.mk fun p hp => ?_); cases p <;> first | exact absurd hp (by decide) | exact rfl | exact trivial | exact ⟨rfl, rfl⟩)
    | with_reducible apply almInh_kept | with_reducible apply kept_next

theorem maxClr_kept {F : Nat} {o0 s : State}  (hI : Kept F o0 s) (hF : Sub 1 F := by first | with_reducible assumption | exact Sub.mono (by with_reducible assumption) (by decide)) : Kept F o0 (maxClr s) := by
  unfold maxClr
  repeat' first
    | with_reducible assumption | (with_reducible exact Sub.mono hF (by decide))
    | ((with_reducible refine FrameU.mk fun p hp => ?_); cases p <;> first | exact absurd hp (by decide) | exact rfl | exact trivial | exact ⟨rfl, rfl⟩)
    | with_reducible apply st_wr_kept

theorem execMaxClr_kept {F : Nat} {o0 s : State}  (hI : Kept F o0 s) (hF : Sub 1 F := by first | with_reducible assumption | exact Sub.mono (by with_reducible assumption) (by decide)) : OutKept F o0 (execMaxClr s) := by
  unfold execMaxClr
  repeat' first
    | with_reducible assumption | (with_reducible exact Sub.mono hF (by decide))
    | ((with_reducible refine FrameU.mk fun p hp => ?_); cases p <;> first | exact absurd hp (by decide) | exact rfl | exact trivial | exact ⟨rfl, rfl⟩)
    | with_reducible apply maxClr_kept | with_reducible apply kept_next

theorem minClr_kept {F : Nat} {o0 s : State}  (hI : Kept F o0 s) (hF : Sub 1 F := by first | with_reducible assumption | exact Sub.mono (by with_reducible assumption) (by decide)) : Kept F o0 (minClr s) := by
  unfold minClr
  repeat' first
    | with_reducible assumption | (with_reducible exact Sub.mono hF (by decide))
    | ((with_reducible refine FrameU.mk fun p hp => ?_); cases p <;> first | exact absurd hp (by decide) | exact rfl | exact trivial | exact ⟨rfl, rfl⟩)
    | with_reducible apply st_wr_kept

theorem execMinClr_kept {F : Nat} {o0 s : State}  (hI : Kept F o0 s) (hF : Sub 1 F := by first | with_reducible assumption | exact Sub.mono (by with_reducible assumption) (by decide)) : OutKept F o0 (execMinClr s) := by
  unfold execMinClr
  repeat' first
    | with_reducible assumption | (with_reducible exact Sub.mono hF (by decide))
    | ((with_reducible refine FrameU.mk fun p hp => ?_); cases p <;> first | exact absurd hp (by decide) | exact rfl | exact trivial | exact ⟨rfl, rfl⟩)
    | with_reducible apply minClr_kept | with_reducible apply kept_next

theorem almSelect_kept {F : Nat} {o0 s : State} (k : Nat) (hI : Kept F o0 s) (hF : Sub 1 F := by first | with_reducible assumption | exact Sub.mono (by with_reducible assumption) (by decide)) : Kept F o0 (almSelect k s) := by
  unfold almSelect
  repeat' first
    | with_reducible assumption | (with_reducible exact Sub.mono hF (by decide))
    | ((with_reducible refine FrameU.mk fun p hp => ?_); cases p <;> first | exact absurd hp (by decide) | exact rfl | exact trivial | exact ⟨rfl, rfl⟩)
    | with_reducible apply st_wr_kept | with_reducible apply st_wrB_kept

theorem entryEffects_kept {F : Nat} {o0 s : State} (c : AlarmCfg) (n : Nat) (e : AlmEntry) (hI : Kept F o0 s) (hF : Sub 4399153808257 F := by first | with_reducible assumption | exact Sub.mono (by with_reducible assumption) (by decide)) : Kept F o0 (entryEffects c n e s) := by
  unfold entryEffects
  repeat' first
    | with_reducible assumption | (with_reducible exact Sub.mono hF (by decide))
    | ((with_reducible refine FrameU.mk fun p hp => ?_); cases p <;> first | exact absurd hp (by decide) | exact rfl | exact trivial | exact ⟨rfl, rfl⟩)
    | with_reducible apply st_inc_kept | with_reducible apply st_flag_kept | with_reducible apply st_msix_kept
    | with_reducible apply st_smEvent_kept | with_reducible apply snareTriggerAll_kept | with_reducible apply postAt_kept
    | with_reducible apply kept_ite | (with_reducible refine kept_foldl ?_ (fun _ _ _ => ?_)) | (intro _) | split | dsimp only
    | fail_if_no_progress with_reducible refine kept_upd 4399153808257 ?_ rfl rfl rfl ?_ hF

theorem runAlarm_kept {F : Nat} {o0 s : State} (i : Inst) (it : Item) (lost : Bool) (late : Bool) (k : Nat) (c : AlarmCfg) (hI : Kept F o0 s) (hF : Sub 4399154070401 F := by first | with_reducible assumption | exact Sub.mono (by with_reducible assumption) (by decide)) : Kept F o0 (runAlarm i it lost late k c s).1 := by
  unfold runAlarm
  repeat' first
    | with_reducible assumption | (with_reducible exact Sub.mono hF (by decide))
    | ((with_reducible refine FrameU.mk fun p hp => ?_); cases p <;> first | exact absurd hp (by decide) | exact rfl | exact trivial | exact ⟨rfl, rfl⟩)
    | with_reducible apply st_flag_kept | with_reducible apply postAt_kept | with_reducible apply st_setAlmSt_kept
    | with_reducible apply entryEffects_kept | with_reducible apply kept_ite | with_reducible apply kept_ite_fst
    | with_reducible apply kept_ite_snd | (with_reducible refine kept_foldl ?_ (fun _ _ _ => ?_))
    | (with_reducible refine kept_foldl_fst ?_ (fun _ _ _ => ?_)) | (exact ⟨id, id, List.prefix_refl _, Nat.le_refl _⟩) | (intro _)
    | split | dsimp only | with_reducible refine kept_ports ?_ ?_ | with_reducible refine kept_pio ?_ ?_
    | fail_if_no_progress with_reducible refine kept_upd 4399154070401 ?_ rfl rfl rfl ?_ hF
    | fail_if_no_progress with_reducible refine kept_chs 4399154070401 ?_ ?_ rfl ?_ hF

theorem runAlarm_kept_eq {F : Nat} {o0 s : State} {y0 y1 y2} {i : Inst} {it : Item} {lost : Bool} {late : Bool} {k : Nat} {c : AlarmCfg} (hI : Kept F o0 s) (hF : Sub 4399154070401 F := by first | with_reducible assumption | exact Sub.mono (by with_reducible assumption) (by decide)) (e : runAlarm i it lost late k c s = (y0, y1, y2)) : Kept F o0 y0 := by
  have h2 := runAlarm_kept i it lost late k c hI
  rw [e] at h2; exact h2

theorem addBatch_kept {F : Nat} {o0 s : State} (cls : Nat) (n : Nat) (es : List AlmEntry) (rs : List (AlmEntry × Nat)) (hI : Kept F o0 s) (hF : Sub 262144 F := by first | with_reducible assumption | exact Sub.mono (by with_reducible assumption) (by decide)) : Kept F o0 (addBatch cls n es rs s) := by
  unfold addBatch
  repeat' first
    | with_reducible assumption | (with_reducible exact Sub.mono hF (by decide))
    | ((with_reducible refine FrameU.mk fun p hp => ?_); cases p <;> first | exact absurd hp (by decide) | exact rfl | exact trivial | exact ⟨rfl, rfl⟩)
    | with_reducible apply st_setAlm_kept | with_reducible apply kept_ite | split

theorem expressPush_kept {F : Nat} {o0 s : State} (n : Nat) (f : TxFrame) (hI : Kept F o0 s) (hF : Sub 16 F := by first | with_reducible assumption | exact Sub.mono (by with_reducible assumption) (by decide)) : ∀ t, expressPush n f s = some t → Kept F o0 t := by
  intro t e
  unfold expressPush at e
  try dsimp only at e
  repeat' first | (split at e) | (cases e) | (dsimp only at e)
  all_goals repeat' first
    | with_reducible assumption | (with_reducible exact Sub.mono hF (by decide))
    | ((with_reducible refine FrameU.mk fun p hp => ?_); cases p <;> first | exact absurd hp (by decide) | exact rfl | exact trivial | exact ⟨rfl, rfl⟩)
    | with_reducible apply st_setPort_kept

theorem expressPush_kept_eq {F : Nat} {o0 s t : State} {n : Nat} {f : TxFrame} (hI : Kept F o0 s) (hF : Sub 16 F := by first | with_reducible assumption | exact Sub.mono (by with_reducible assumption) (by decide)) (e : expressPush n f s = some t) : Kept F o0 t := expressPush_kept n f hI hF t e

theorem almFrame_kept {F : Nat} {o0 s : State} (n : Nat) (cls : Nat) (d : Nat) (part : Nat) (parts : Nat) (mac : Nat) (hb : Bool) (trunc : Bool) (c : AlmDest) (es : List AlmEntry) (hI : Kept F o0 s) (hF : Sub 34603025 F := by first | with_reducible assumption | exact Sub.mono (by with_reducible assumption) (by decide)) : Kept F o0 (almFrame n cls d part parts mac hb trunc c es s) := by
  unfold almFrame
  repeat' first
    | with_reducible assumption | (with_reducible exact Sub.mono hF (by decide))
    | ((with_reducible refine FrameU.mk fun p hp => ?_); cases p <;> first | exact absurd hp (by decide) | exact rfl | exact trivial | exact ⟨rfl, rfl⟩)
    | with_reducible apply st_inc_kept | with_reducible apply st_flag_kept | with_reducible apply egrOffer_kept
    | (refine expressPush_kept_eq ?_ ?_ (by assumption)) | with_reducible apply kept_ite
    | (with_reducible refine kept_foldl ?_ (fun _ _ _ => ?_)) | (intro _) | split | dsimp only
    | fail_if_no_progress with_reducible refine kept_upd 34603025 ?_ rfl rfl rfl ?_ hF

theorem almSend_kept {F : Nat} {o0 s : State} (n : Nat) (cls : Nat) (d : Nat) (hb : Bool) (trunc : Bool) (es : List AlmEntry) (hI : Kept F o0 s) (hF : Sub 1108607377 F := by first | with_reducible assumption | exact Sub.mono (by with_reducible assumption) (by decide)) : Kept F o0 (almSend n cls d hb trunc es s) := by
  unfold almSend
  repeat' first
    | with_reducible assumption | (with_reducible exact Sub.mono hF (by decide))
    | ((with_reducible refine FrameU.mk fun p hp => ?_); cases p <;> first | exact absurd hp (by decide) | exact rfl | exact trivial | exact ⟨rfl, rfl⟩)
    | with_reducible apply st_inc_kept | with_reducible apply st_flag_kept | with_reducible apply postAt_kept
    | with_reducible apply st_setAlm_kept | with_reducible apply almFrame_kept | with_reducible apply kept_ite
    | (with_reducible refine kept_foldl ?_ (fun _ _ _ => ?_)) | (with_reducible refine kept_foldl_fst ?_ (fun _ _ _ => ?_))
    | (exact ⟨id, id, List.prefix_refl _, Nat.le_refl _⟩) | (intro _) | split | dsimp only | with_reducible refine kept_ports ?_ ?_
    | with_reducible refine kept_pio ?_ ?_ | fail_if_no_progress with_reducible refine kept_upd 1108607377 ?_ rfl rfl rfl ?_ hF
    | fail_if_no_progress with_reducible refine kept_chs 1108607377 ?_ ?_ rfl ?_ hF

theorem sendBatch_kept {F : Nat} {o0 s : State} (b : AlmBatch) (hI : Kept F o0 s) (hF : Sub 1108607377 F := by first | with_reducible assumption | exact Sub.mono (by with_reducible assumption) (by decide)) : Kept F o0 (sendBatch b s) := by
  unfold sendBatch
  repeat' first
    | with_reducible assumption | (with_reducible exact Sub.mono hF (by decide))
    | ((with_reducible refine FrameU.mk fun p hp => ?_); cases p <;> first | exact absurd hp (by decide) | exact rfl | exact trivial | exact ⟨rfl, rfl⟩)
    | with_reducible apply st_setAlm_kept | with_reducible apply almSend_kept | with_reducible apply kept_ite
    | (with_reducible refine kept_foldl ?_ (fun _ _ _ => ?_)) | (with_reducible refine kept_foldl_fst ?_ (fun _ _ _ => ?_))
    | (exact ⟨id, id, List.prefix_refl _, Nat.le_refl _⟩) | (intro _) | split | dsimp only | with_reducible refine kept_ports ?_ ?_
    | with_reducible refine kept_pio ?_ ?_ | fail_if_no_progress with_reducible refine kept_upd 1108607377 ?_ rfl rfl rfl ?_ hF
    | fail_if_no_progress with_reducible refine kept_chs 1108607377 ?_ ?_ rfl ?_ hF

theorem execAlarmFrameSend_kept {F : Nat} {o0 s : State} (cls : Fin 4) (n : Nat) (hI : Kept F o0 s) (hF : Sub 1108607377 F := by first | with_reducible assumption | exact Sub.mono (by with_reducible assumption) (by decide)) : OutKept F o0 (execAlarmFrameSend cls n s) := by
  unfold execAlarmFrameSend
  repeat' first
    | with_reducible assumption | (with_reducible exact Sub.mono hF (by decide))
    | ((with_reducible refine FrameU.mk fun p hp => ?_); cases p <;> first | exact absurd hp (by decide) | exact rfl | exact trivial | exact ⟨rfl, rfl⟩)
    | with_reducible apply sendBatch_kept | with_reducible apply kept_next | with_reducible apply kept_ite
    | (with_reducible refine kept_foldl ?_ (fun _ _ _ => ?_)) | (intro _) | split | dsimp only
    | fail_if_no_progress with_reducible refine kept_upd 1108607377 ?_ rfl rfl rfl ?_ hF

theorem execAlarmHeartbeat_kept {F : Nat} {o0 s : State} (d : Fin 8) (n : Nat) (hI : Kept F o0 s) (hF : Sub 1108607377 F := by first | with_reducible assumption | exact Sub.mono (by with_reducible assumption) (by decide)) : OutKept F o0 (execAlarmHeartbeat d n s) := by
  unfold execAlarmHeartbeat
  repeat' first
    | with_reducible assumption | (with_reducible exact Sub.mono hF (by decide))
    | ((with_reducible refine FrameU.mk fun p hp => ?_); cases p <;> first | exact absurd hp (by decide) | exact rfl | exact trivial | exact ⟨rfl, rfl⟩)
    | with_reducible apply st_setAlm_kept | with_reducible apply almSend_kept | with_reducible apply kept_next
    | with_reducible apply kept_ite | (with_reducible refine kept_foldl ?_ (fun _ _ _ => ?_)) | (intro _) | split | dsimp only
    | fail_if_no_progress with_reducible refine kept_upd 1108607377 ?_ rfl rfl rfl ?_ hF

theorem st_setGooseSt_kept {F : Nat} {o0 s : State} (k : Nat) (g : GooseSt) (hI : Kept F o0 s) (hF : Sub 262144 F := by first | with_reducible assumption | exact Sub.mono (by with_reducible assumption) (by decide)) : Kept F o0 (State.setGooseSt s k g) := by
  unfold State.setGooseSt
  repeat' first
    | with_reducible assumption | (with_reducible exact Sub.mono hF (by decide))
    | ((with_reducible refine FrameU.mk fun p hp => ?_); cases p <;> first | exact absurd hp (by decide) | exact rfl | exact trivial | exact ⟨rfl, rfl⟩)
    | with_reducible apply st_setAlm_kept

theorem goosePush_kept {F : Nat} {o0 s : State} (k : Nat) (n : Nat) (c : GooseCfg) (express : Bool) (bytes : Bytes) (hI : Kept F o0 s) (hF : Sub 34603025 F := by first | with_reducible assumption | exact Sub.mono (by with_reducible assumption) (by decide)) : Kept F o0 (goosePush k n c express bytes s) := by
  unfold goosePush
  repeat' first
    | with_reducible assumption | (with_reducible exact Sub.mono hF (by decide))
    | ((with_reducible refine FrameU.mk fun p hp => ?_); cases p <;> first | exact absurd hp (by decide) | exact rfl | exact trivial | exact ⟨rfl, rfl⟩)
    | with_reducible apply st_inc_kept | with_reducible apply st_flag_kept | with_reducible apply egrOffer_kept
    | (refine expressPush_kept_eq ?_ ?_ (by assumption)) | with_reducible apply kept_ite
    | (with_reducible refine kept_foldl ?_ (fun _ _ _ => ?_)) | (intro _) | split | dsimp only
    | fail_if_no_progress with_reducible refine kept_upd 34603025 ?_ rfl rfl rfl ?_ hF

theorem gooseChange_kept {F : Nat} {o0 s : State} (k : Nat) (n : Nat) (t : Nat) (c : GooseCfg) (hI : Kept F o0 s) (hF : Sub 34865169 F := by first | with_reducible assumption | exact Sub.mono (by with_reducible assumption) (by decide)) : Kept F o0 (gooseChange k n t c s) := by
  unfold gooseChange
  repeat' first
    | with_reducible assumption | (with_reducible exact Sub.mono hF (by decide))
    | ((with_reducible refine FrameU.mk fun p hp => ?_); cases p <;> first | exact absurd hp (by decide) | exact rfl | exact trivial | exact ⟨rfl, rfl⟩)
    | with_reducible apply st_wr_kept | with_reducible apply st_setGooseSt_kept | with_reducible apply goosePush_kept
    | with_reducible apply kept_ite | split

theorem gooseCheck_kept {F : Nat} {o0 s : State} (ids : List Nat) (n : Nat) (hI : Kept F o0 s) (hF : Sub 34865169 F := by first | with_reducible assumption | exact Sub.mono (by with_reducible assumption) (by decide)) : Kept F o0 (gooseCheck ids n s) := by
  unfold gooseCheck
  repeat' first
    | with_reducible assumption | (with_reducible exact Sub.mono hF (by decide))
    | ((with_reducible refine FrameU.mk fun p hp => ?_); cases p <;> first | exact absurd hp (by decide) | exact rfl | exact trivial | exact ⟨rfl, rfl⟩)
    | with_reducible apply gooseChange_kept | with_reducible apply kept_ite
    | (with_reducible refine kept_foldl ?_ (fun _ _ _ => ?_)) | (with_reducible refine kept_foldl_fst ?_ (fun _ _ _ => ?_))
    | (exact ⟨id, id, List.prefix_refl _, Nat.le_refl _⟩) | (intro _) | split | dsimp only | with_reducible refine kept_ports ?_ ?_
    | with_reducible refine kept_pio ?_ ?_ | fail_if_no_progress with_reducible refine kept_upd 34865169 ?_ rfl rfl rfl ?_ hF
    | fail_if_no_progress with_reducible refine kept_chs 34865169 ?_ ?_ rfl ?_ hF

theorem execGooseRetransmit_kept {F : Nat} {o0 s : State} (k : Fin 16) (hI : Kept F o0 s) (hF : Sub 34865169 F := by first | with_reducible assumption | exact Sub.mono (by with_reducible assumption) (by decide)) : OutKept F o0 (execGooseRetransmit k s) := by
  unfold execGooseRetransmit
  repeat' first
    | with_reducible assumption | (with_reducible exact Sub.mono hF (by decide))
    | ((with_reducible refine FrameU.mk fun p hp => ?_); cases p <;> first | exact absurd hp (by decide) | exact rfl | exact trivial | exact ⟨rfl, rfl⟩)
    | with_reducible apply st_wr_kept | with_reducible apply st_setGooseSt_kept | with_reducible apply goosePush_kept
    | with_reducible apply kept_next | with_reducible apply kept_ite | (with_reducible refine kept_foldl ?_ (fun _ _ _ => ?_))
    | (with_reducible refine kept_foldl_fst ?_ (fun _ _ _ => ?_)) | (exact ⟨id, id, List.prefix_refl _, Nat.le_refl _⟩) | (intro _)
    | split | dsimp only | with_reducible refine kept_ports ?_ ?_ | with_reducible refine kept_pio ?_ ?_
    | fail_if_no_progress with_reducible refine kept_upd 34865169 ?_ rfl rfl rfl ?_ hF
    | fail_if_no_progress with_reducible refine kept_chs 34865169 ?_ ?_ rfl ?_ hF

theorem execAlmPost_kept {F : Nat} {o0 s : State} (n : Nat) (item : Fin 4096) (hI : Kept F o0 s) (hF : Sub 4399159346065 F := by first | with_reducible assumption | exact Sub.mono (by with_reducible assumption) (by decide)) : OutKept F o0 (execAlmPost n item s) := by
  unfold execAlmPost
  repeat' first
    | with_reducible assumption | (with_reducible exact Sub.mono hF (by decide))
    | ((with_reducible refine FrameU.mk fun p hp => ?_); cases p <;> first | exact absurd hp (by decide) | exact rfl | exact trivial | exact ⟨rfl, rfl⟩)
    | with_reducible apply putOut_kept | with_reducible apply applyAlmMirrors_kept | (refine runAlarm_kept_eq ?_ ?_ (by assumption))
    | with_reducible apply runAlarm_kept | with_reducible apply addBatch_kept | with_reducible apply gooseCheck_kept
    | with_reducible apply kept_next | with_reducible apply kept_ite | (with_reducible refine kept_foldl ?_ (fun _ _ _ => ?_))
    | (with_reducible refine kept_foldl_fst ?_ (fun _ _ _ => ?_)) | (exact ⟨id, id, List.prefix_refl _, Nat.le_refl _⟩) | (intro _)
    | split | dsimp only | with_reducible refine kept_ports ?_ ?_ | with_reducible refine kept_pio ?_ ?_
    | fail_if_no_progress with_reducible refine kept_upd 4399159346065 ?_ rfl rfl rfl ?_ hF
    | fail_if_no_progress with_reducible refine kept_chs 4399159346065 ?_ ?_ rfl ?_ hF

theorem driveContacts_kept {F : Nat} {o0 s : State} (cs : List (Nat × Bool)) (hI : Kept F o0 s) (hF : Sub 4398180728832 F := by first | with_reducible assumption | exact Sub.mono (by with_reducible assumption) (by decide)) : Kept F o0 (driveContacts cs s) := by
  unfold driveContacts
  repeat' first
    | with_reducible assumption | (with_reducible exact Sub.mono hF (by decide))
    | ((with_reducible refine FrameU.mk fun p hp => ?_); cases p <;> first | exact absurd hp (by decide) | exact rfl | exact trivial | exact ⟨rfl, rfl⟩)
    | with_reducible apply setPin_kept | with_reducible apply kept_ite | (with_reducible refine kept_foldl ?_ (fun _ _ _ => ?_))
    | (with_reducible refine kept_foldl_fst ?_ (fun _ _ _ => ?_)) | (exact ⟨id, id, List.prefix_refl _, Nat.le_refl _⟩) | (intro _)
    | split | dsimp only | with_reducible refine kept_ports ?_ ?_ | with_reducible refine kept_pio ?_ ?_
    | fail_if_no_progress with_reducible refine kept_upd 4398180728832 ?_ rfl rfl rfl ?_ hF
    | fail_if_no_progress with_reducible refine kept_chs 4398180728832 ?_ ?_ rfl ?_ hF

theorem execAlmPio_kept {F : Nat} {o0 s : State} (n : Nat) (item : Fin 4096) (hI : Kept F o0 s) (hF : Sub 4399288320385 F := by first | with_reducible assumption | exact Sub.mono (by with_reducible assumption) (by decide)) : OutKept F o0 (execAlmPio n item s) := by
  unfold execAlmPio
  repeat' first
    | with_reducible assumption | (with_reducible exact Sub.mono hF (by decide))
    | ((with_reducible refine FrameU.mk fun p hp => ?_); cases p <;> first | exact absurd hp (by decide) | exact rfl | exact trivial | exact ⟨rfl, rfl⟩)
    | with_reducible apply st_wr_kept | with_reducible apply st_flag_kept | with_reducible apply st_wrMax_kept
    | with_reducible apply postAt_kept | with_reducible apply putOut_kept | with_reducible apply st_setAlm_kept
    | with_reducible apply driveContacts_kept | with_reducible apply kept_next | with_reducible apply kept_ite
    | (with_reducible refine kept_foldl ?_ (fun _ _ _ => ?_)) | (intro _) | split | dsimp only
    | fail_if_no_progress with_reducible refine kept_upd 4399288320385 ?_ rfl rfl rfl ?_ hF

theorem execEvtPost_kept {F : Nat} {o0 s : State} (n : Nat) (item : Fin 4096) (hI : Kept F o0 s) (hF : Sub 1107329409 F := by first | with_reducible assumption | exact Sub.mono (by with_reducible assumption) (by decide)) : OutKept F o0 (execEvtPost n item s) := by
  unfold execEvtPost
  repeat' first
    | with_reducible assumption | (with_reducible exact Sub.mono hF (by decide))
    | ((with_reducible refine FrameU.mk fun p hp => ?_); cases p <;> first | exact absurd hp (by decide) | exact rfl | exact trivial | exact ⟨rfl, rfl⟩)
    | with_reducible apply postAt_kept | with_reducible apply putOut_kept | with_reducible apply kept_next
    | with_reducible apply kept_ite | (with_reducible refine kept_foldl ?_ (fun _ _ _ => ?_))
    | (with_reducible refine kept_foldl_fst ?_ (fun _ _ _ => ?_)) | (exact ⟨id, id, List.prefix_refl _, Nat.le_refl _⟩) | (intro _)
    | split | dsimp only | with_reducible refine kept_ports ?_ ?_ | with_reducible refine kept_pio ?_ ?_
    | fail_if_no_progress with_reducible refine kept_upd 1107329409 ?_ rfl rfl rfl ?_ hF
    | fail_if_no_progress with_reducible refine kept_chs 1107329409 ?_ ?_ rfl ?_ hF

theorem execMacResolve_kept {F : Nat} {o0 s : State}  (hI : Kept F o0 s) (hF : Sub 34865153 F := by first | with_reducible assumption | exact Sub.mono (by with_reducible assumption) (by decide)) : OutKept F o0 (execMacResolve s) := by
  unfold execMacResolve
  repeat' first
    | with_reducible assumption | (with_reducible exact Sub.mono hF (by decide))
    | ((with_reducible refine FrameU.mk fun p hp => ?_); cases p <;> first | exact absurd hp (by decide) | exact rfl | exact trivial | exact ⟨rfl, rfl⟩)
    | with_reducible apply stewFrame_kept | with_reducible apply st_setAlm_kept | with_reducible apply kept_next
    | with_reducible apply kept_ite | (with_reducible refine kept_foldl ?_ (fun _ _ _ => ?_)) | (intro _) | split | dsimp only
    | fail_if_no_progress with_reducible refine kept_upd 34865153 ?_ rfl rfl rfl ?_ hF

theorem execArpReply_kept {F : Nat} {o0 s : State} (addr : Nat) (mac : Nat) (hI : Kept F o0 s) (hF : Sub 1310720 F := by first | with_reducible assumption | exact Sub.mono (by with_reducible assumption) (by decide)) : OutKept F o0 (execArpReply addr mac s) := by
  unfold execArpReply
  repeat' first
    | with_reducible assumption | (with_reducible exact Sub.mono hF (by decide))
    | ((with_reducible refine FrameU.mk fun p hp => ?_); cases p <;> first | exact absurd hp (by decide) | exact rfl | exact trivial | exact ⟨rfl, rfl⟩)
    | with_reducible apply st_setEgr_kept | with_reducible apply st_setAlm_kept | with_reducible apply kept_next
    | with_reducible apply kept_ite | split

theorem execArpRequest_kept {F : Nat} {o0 s : State} (n : Fin 64) (target : Nat) (asker : Nat) (askMac : Nat) (hI : Kept F o0 s) (hF : Sub 4398085308417 F := by first | with_reducible assumption | exact Sub.mono (by with_reducible assumption) (by decide)) : OutKept F o0 (execArpRequest n target asker askMac s) := by
  unfold execArpRequest
  repeat' first
    | with_reducible assumption | (with_reducible exact Sub.mono hF (by decide))
    | ((with_reducible refine FrameU.mk fun p hp => ?_); cases p <;> first | exact absurd hp (by decide) | exact rfl | exact trivial | exact ⟨rfl, rfl⟩)
    | with_reducible apply stewFrame_kept | with_reducible apply pairWide_kept | with_reducible apply kept_next
    | with_reducible apply kept_ite | (with_reducible refine kept_foldl ?_ (fun _ _ _ => ?_))
    | (with_reducible refine kept_foldl_fst ?_ (fun _ _ _ => ?_)) | (exact ⟨id, id, List.prefix_refl _, Nat.le_refl _⟩) | (intro _)
    | split | dsimp only | with_reducible refine kept_ports ?_ ?_ | with_reducible refine kept_pio ?_ ?_
    | fail_if_no_progress with_reducible refine kept_upd 4398085308417 ?_ rfl rfl rfl ?_ hF
    | fail_if_no_progress with_reducible refine kept_chs 4398085308417 ?_ ?_ rfl ?_ hF

end Sys2Proof.Machine
end

