-- ==== Sys2Proof/Laws/KeptAccount.lean ====
section
/-!
SUPPORT. What Machine/Account.lean keeps of a state: one lemma per operation.
-/

namespace Sys2Proof.Machine

set_option linter.all false
set_option Elab.async false

theorem st_setAcc_kept {F : Nat} {o0 s : State} (a : Acc) (hI : Kept F o0 s) (hF : Sub 524288 F := by first | with_reducible assumption | exact Sub.mono (by with_reducible assumption) (by decide)) : Kept F o0 (State.setAcc s a) := by
  unfold State.setAcc
  repeat' first
    | with_reducible assumption | (with_reducible exact Sub.mono hF (by decide))
    | ((with_reducible refine FrameU.mk fun p hp => ?_); cases p <;> first | exact absurd hp (by decide) | exact rfl | exact trivial | exact ⟨rfl, rfl⟩)
    | with_reducible apply kept_ite | (with_reducible refine kept_foldl ?_ (fun _ _ _ => ?_)) | (intro _) | split | dsimp only
    | fail_if_no_progress with_reducible refine kept_upd 524288 ?_ rfl rfl rfl ?_ hF

theorem st_setAccM_kept {F : Nat} {o0 s : State} (a : AccMram) (hI : Kept F o0 s) (hF : Sub 17179869184 F := by first | with_reducible assumption | exact Sub.mono (by with_reducible assumption) (by decide)) : Kept F o0 (State.setAccM s a) := by
  unfold State.setAccM
  repeat' first
    | with_reducible assumption | (with_reducible exact Sub.mono hF (by decide))
    | ((with_reducible refine FrameU.mk fun p hp => ?_); cases p <;> first | exact absurd hp (by decide) | exact rfl | exact trivial | exact ⟨rfl, rfl⟩)
    | with_reducible apply kept_ite | (with_reducible refine kept_foldl ?_ (fun _ _ _ => ?_)) | (intro _) | split | dsimp only
    | fail_if_no_progress with_reducible refine kept_upd 17179869184 ?_ rfl rfl rfl ?_ hF

theorem beginCommit_kept {F : Nat} {o0 s : State} (kind : Nat) (hI : Kept F o0 s) (hF : Sub 17180393472 F := by first | with_reducible assumption | exact Sub.mono (by with_reducible assumption) (by decide)) : Kept F o0 (beginCommit kind s) := by
  unfold beginCommit
  repeat' first
    | with_reducible assumption | (with_reducible exact Sub.mono hF (by decide))
    | ((with_reducible refine FrameU.mk fun p hp => ?_); cases p <;> first | exact absurd hp (by decide) | exact rfl | exact trivial | exact ⟨rfl, rfl⟩)
    | with_reducible apply st_setAcc_kept | with_reducible apply st_setAccM_kept

theorem endCommit_kept {F : Nat} {o0 s : State} (fail : Bool) (hI : Kept F o0 s) (hF : Sub 4416338395521 F := by first | with_reducible assumption | exact Sub.mono (by with_reducible assumption) (by decide)) : Kept F o0 (endCommit fail s) := by
  unfold endCommit
  repeat' first
    | with_reducible assumption | (with_reducible exact Sub.mono hF (by decide))
    | ((with_reducible refine FrameU.mk fun p hp => ?_); cases p <;> first | exact absurd hp (by decide) | exact rfl | exact trivial | exact ⟨rfl, rfl⟩)
    | with_reducible apply st_wr_kept | with_reducible apply st_inc_kept | with_reducible apply st_flag_kept
    | with_reducible apply st_wr64_kept | with_reducible apply post_kept | with_reducible apply st_pairSend_kept
    | with_reducible apply st_setAcc_kept | with_reducible apply st_setAccM_kept | with_reducible apply kept_ite | split
    | dsimp only | fail_if_no_progress with_reducible refine kept_upd 4416338395521 ?_ rfl rfl rfl ?_ hF

theorem execAccCommit_kept {F : Nat} {o0 s : State} (fail : Bool) (hI : Kept F o0 s) (hF : Sub 4416338395521 F := by first | with_reducible assumption | exact Sub.mono (by with_reducible assumption) (by decide)) : OutKept F o0 (execAccCommit fail s) := by
  unfold execAccCommit
  repeat' first
    | with_reducible assumption | (with_reducible exact Sub.mono hF (by decide))
    | ((with_reducible refine FrameU.mk fun p hp => ?_); cases p <;> first | exact absurd hp (by decide) | exact rfl | exact trivial | exact ⟨rfl, rfl⟩)
    | with_reducible apply endCommit_kept | with_reducible apply kept_next

theorem commitNow_kept {F : Nat} {o0 s : State} (kind : Nat) (hI : Kept F o0 s) (hF : Sub 4416338395521 F := by first | with_reducible assumption | exact Sub.mono (by with_reducible assumption) (by decide)) : Kept F o0 (commitNow kind s) := by
  unfold commitNow
  repeat' first
    | with_reducible assumption | (with_reducible exact Sub.mono hF (by decide))
    | ((with_reducible refine FrameU.mk fun p hp => ?_); cases p <;> first | exact absurd hp (by decide) | exact rfl | exact trivial | exact ⟨rfl, rfl⟩)
    | with_reducible apply beginCommit_kept | with_reducible apply endCommit_kept

theorem zeroCut_kept {F : Nat} {o0 s : State} (cfg : AccCfg) (c : Nat) (hI : Kept F o0 s) (hF : Sub 524288 F := by first | with_reducible assumption | exact Sub.mono (by with_reducible assumption) (by decide)) : Kept F o0 (zeroCut cfg c s) := by
  unfold zeroCut
  repeat' first
    | with_reducible assumption | (with_reducible exact Sub.mono hF (by decide))
    | ((with_reducible refine FrameU.mk fun p hp => ?_); cases p <;> first | exact absurd hp (by decide) | exact rfl | exact trivial | exact ⟨rfl, rfl⟩)
    | with_reducible apply st_setAcc_kept | with_reducible apply kept_ite | (with_reducible refine kept_foldl ?_ (fun _ _ _ => ?_))
    | (intro _) | split | dsimp only | fail_if_no_progress with_reducible refine kept_upd 524288 ?_ rfl rfl rfl ?_ hF

theorem zeroCuts_kept {F : Nat} {o0 s : State} (cfg : AccCfg) (sel : Nat) (hI : Kept F o0 s) (hF : Sub 524288 F := by first | with_reducible assumption | exact Sub.mono (by with_reducible assumption) (by decide)) : Kept F o0 (zeroCuts cfg sel s) := by
  unfold zeroCuts
  repeat' first
    | with_reducible assumption | (with_reducible exact Sub.mono hF (by decide))
    | ((with_reducible refine FrameU.mk fun p hp => ?_); cases p <;> first | exact absurd hp (by decide) | exact rfl | exact trivial | exact ⟨rfl, rfl⟩)
    | with_reducible apply zeroCut_kept | with_reducible apply kept_ite | (with_reducible refine kept_foldl ?_ (fun _ _ _ => ?_))
    | (intro _) | split | dsimp only | fail_if_no_progress with_reducible refine kept_upd 524288 ?_ rfl rfl rfl ?_ hF

theorem accZero_kept {F : Nat} {o0 s : State} (cfg : AccCfg) (sel : Nat) (m : Nat) (hI : Kept F o0 s) (hF : Sub 4416338395521 F := by first | with_reducible assumption | exact Sub.mono (by with_reducible assumption) (by decide)) : Kept F o0 (accZero cfg sel m s) := by
  unfold accZero
  repeat' first
    | with_reducible assumption | (with_reducible exact Sub.mono hF (by decide))
    | ((with_reducible refine FrameU.mk fun p hp => ?_); cases p <;> first | exact absurd hp (by decide) | exact rfl | exact trivial | exact ⟨rfl, rfl⟩)
    | with_reducible apply postAt_kept | with_reducible apply st_setAcc_kept | with_reducible apply beginCommit_kept
    | with_reducible apply endCommit_kept | with_reducible apply zeroCuts_kept

theorem integrateRun_kept {F : Nat} {o0 s : State} (cfg : AccCfg) (n : Nat) (pw : List (Nat × Nat)) (hI : Kept F o0 s) (hF : Sub 1107820929 F := by first | with_reducible assumption | exact Sub.mono (by with_reducible assumption) (by decide)) : Kept F o0 (integrateRun cfg n pw s) := by
  unfold integrateRun
  repeat' first
    | with_reducible assumption | (with_reducible exact Sub.mono hF (by decide))
    | ((with_reducible refine FrameU.mk fun p hp => ?_); cases p <;> first | exact absurd hp (by decide) | exact rfl | exact trivial | exact ⟨rfl, rfl⟩)
    | with_reducible apply st_inc_kept | with_reducible apply st_flag_kept | with_reducible apply st_wrB_kept
    | with_reducible apply postAt_kept | with_reducible apply st_setAcc_kept | with_reducible apply kept_ite
    | (with_reducible refine kept_foldl ?_ (fun _ _ _ => ?_)) | (intro _) | split | dsimp only
    | fail_if_no_progress with_reducible refine kept_upd 1107820929 ?_ rfl rfl rfl ?_ hF

theorem zerosDue_kept {F : Nat} {o0 s : State} (cfg : AccCfg) (n : Nat) (startUp : Nat) (hI : Kept F o0 s) (hF : Sub 4416338395521 F := by first | with_reducible assumption | exact Sub.mono (by with_reducible assumption) (by decide)) : Kept F o0 (zerosDue cfg n startUp s) := by
  unfold zerosDue
  repeat' first
    | with_reducible assumption | (with_reducible exact Sub.mono hF (by decide))
    | ((with_reducible refine FrameU.mk fun p hp => ?_); cases p <;> first | exact absurd hp (by decide) | exact rfl | exact trivial | exact ⟨rfl, rfl⟩)
    | with_reducible apply st_setAcc_kept | with_reducible apply accZero_kept | with_reducible apply kept_ite
    | (with_reducible refine kept_foldl ?_ (fun _ _ _ => ?_)) | (intro _) | split | dsimp only
    | fail_if_no_progress with_reducible refine kept_upd 4416338395521 ?_ rfl rfl rfl ?_ hF

theorem accFinals_kept {F : Nat} {o0 s : State} (old : AccCfg) (new : AccCfg) (k : Nat) (cuts : List CutSt) (hI : Kept F o0 s) (hF : Sub 1107296641 F := by first | with_reducible assumption | exact Sub.mono (by with_reducible assumption) (by decide)) : Kept F o0 (accFinals old new k cuts s) := by
  unfold accFinals
  repeat' first
    | with_reducible assumption | (with_reducible exact Sub.mono hF (by decide))
    | ((with_reducible refine FrameU.mk fun p hp => ?_); cases p <;> first | exact absurd hp (by decide) | exact rfl | exact trivial | exact ⟨rfl, rfl⟩)
    | with_reducible apply st_flag_kept | with_reducible apply postAt_kept | with_reducible apply kept_ite
    | (with_reducible refine kept_foldl ?_ (fun _ _ _ => ?_)) | (intro _) | split | dsimp only
    | fail_if_no_progress with_reducible refine kept_upd 1107296641 ?_ rfl rfl rfl ?_ hF

theorem accEnd_kept {F : Nat} {o0 s : State}  (hI : Kept F o0 s) (hF : Sub 1107820929 F := by first | with_reducible assumption | exact Sub.mono (by with_reducible assumption) (by decide)) : Kept F o0 (accEnd s) := by
  unfold accEnd
  repeat' first
    | with_reducible assumption | (with_reducible exact Sub.mono hF (by decide))
    | ((with_reducible refine FrameU.mk fun p hp => ?_); cases p <;> first | exact absurd hp (by decide) | exact rfl | exact trivial | exact ⟨rfl, rfl⟩)
    | with_reducible apply st_setAcc_kept | with_reducible apply accFinals_kept | with_reducible apply kept_ite | split

theorem accSwap_kept {F : Nat} {o0 s : State} (old : AccCfg) (new : AccCfg) (k : Nat) (hI : Kept F o0 s) (hF : Sub 1107820929 F := by first | with_reducible assumption | exact Sub.mono (by with_reducible assumption) (by decide)) : Kept F o0 (accSwap old new k s) := by
  unfold accSwap
  repeat' first
    | with_reducible assumption | (with_reducible exact Sub.mono hF (by decide))
    | ((with_reducible refine FrameU.mk fun p hp => ?_); cases p <;> first | exact absurd hp (by decide) | exact rfl | exact trivial | exact ⟨rfl, rfl⟩)
    | with_reducible apply st_setAcc_kept | with_reducible apply accEnd_kept | with_reducible apply kept_ite
    | (with_reducible refine kept_foldl ?_ (fun _ _ _ => ?_)) | (intro _) | split | dsimp only
    | fail_if_no_progress with_reducible refine kept_upd 1107820929 ?_ rfl rfl rfl ?_ hF

theorem oldIntegrate_kept {F : Nat} {o0 s : State} (n : Nat) (pw : List (Nat × Nat)) (hI : Kept F o0 s) (hF : Sub 1107820929 F := by first | with_reducible assumption | exact Sub.mono (by with_reducible assumption) (by decide)) : Kept F o0 (oldIntegrate n pw s).1 := by
  unfold oldIntegrate
  repeat' first
    | with_reducible assumption | (with_reducible exact Sub.mono hF (by decide))
    | ((with_reducible refine FrameU.mk fun p hp => ?_); cases p <;> first | exact absurd hp (by decide) | exact rfl | exact trivial | exact ⟨rfl, rfl⟩)
    | with_reducible apply st_setAcc_kept | with_reducible apply integrateRun_kept

theorem oldIntegrate_kept_eq {F : Nat} {o0 s : State} {y0 y1} {n : Nat} {pw : List (Nat × Nat)} (hI : Kept F o0 s) (hF : Sub 1107820929 F := by first | with_reducible assumption | exact Sub.mono (by with_reducible assumption) (by decide)) (e : oldIntegrate n pw s = (y0, y1)) : Kept F o0 y0 := by
  have h2 := oldIntegrate_kept n pw hI
  rw [e] at h2; exact h2

theorem execIntegrate_kept {F : Nat} {o0 s : State} (n : Nat) (item : Fin 4096) (hI : Kept F o0 s) (hF : Sub 6615361683841 F := by first | with_reducible assumption | exact Sub.mono (by with_reducible assumption) (by decide)) : OutKept F o0 (execIntegrate n item s) := by
  unfold execIntegrate
  repeat' first
    | with_reducible assumption | (with_reducible exact Sub.mono hF (by decide))
    | ((with_reducible refine FrameU.mk fun p hp => ?_); cases p <;> first | exact absurd hp (by decide) | exact rfl | exact trivial | exact ⟨rfl, rfl⟩)
    | with_reducible apply st_eccWrite_kept | with_reducible apply putOut_kept | with_reducible apply beginCommit_kept
    | with_reducible apply endCommit_kept | with_reducible apply integrateRun_kept | with_reducible apply zerosDue_kept
    | with_reducible apply accEnd_kept | (refine oldIntegrate_kept_eq ?_ ?_ (by assumption))
    | with_reducible apply oldIntegrate_kept | with_reducible apply kept_next | with_reducible apply kept_ite | split | dsimp only
    | fail_if_no_progress with_reducible refine kept_upd 6615361683841 ?_ rfl rfl rfl ?_ hF

theorem accMark_kept {F : Nat} {o0 s : State}  (hI : Kept F o0 s) (hF : Sub 17179869184 F := by first | with_reducible assumption | exact Sub.mono (by with_reducible assumption) (by decide)) : Kept F o0 (accMark s) := by
  unfold accMark
  repeat' first
    | with_reducible assumption | (with_reducible exact Sub.mono hF (by decide))
    | ((with_reducible refine FrameU.mk fun p hp => ?_); cases p <;> first | exact absurd hp (by decide) | exact rfl | exact trivial | exact ⟨rfl, rfl⟩)
    | with_reducible apply st_setAccM_kept

theorem accPowerFailCommit_kept {F : Nat} {o0 s : State}  (hI : Kept F o0 s) (hF : Sub 4416338395521 F := by first | with_reducible assumption | exact Sub.mono (by with_reducible assumption) (by decide)) : Kept F o0 (accPowerFailCommit s) := by
  unfold accPowerFailCommit
  repeat' first
    | with_reducible assumption | (with_reducible exact Sub.mono hF (by decide))
    | ((with_reducible refine FrameU.mk fun p hp => ?_); cases p <;> first | exact absurd hp (by decide) | exact rfl | exact trivial | exact ⟨rfl, rfl⟩)
    | with_reducible apply st_setAcc_kept | with_reducible apply st_setAccM_kept | with_reducible apply endCommit_kept
    | with_reducible apply kept_ite | split | dsimp only
    | fail_if_no_progress with_reducible refine kept_upd 4416338395521 ?_ rfl rfl rfl ?_ hF

theorem accRestore_kept {F : Nat} {o0 s : State}  (hI : Kept F o0 s) (hF : Sub 1107820929 F := by first | with_reducible assumption | exact Sub.mono (by with_reducible assumption) (by decide)) : Kept F o0 (accRestore s) := by
  unfold accRestore
  repeat' first
    | with_reducible assumption | (with_reducible exact Sub.mono hF (by decide))
    | ((with_reducible refine FrameU.mk fun p hp => ?_); cases p <;> first | exact absurd hp (by decide) | exact rfl | exact trivial | exact ⟨rfl, rfl⟩)
    | with_reducible apply st_wr_kept | with_reducible apply st_flag_kept | with_reducible apply st_wrB_kept
    | with_reducible apply st_wr64_kept | with_reducible apply post_kept | with_reducible apply st_setAcc_kept
    | with_reducible apply kept_ite | (with_reducible refine kept_foldl ?_ (fun _ _ _ => ?_)) | (intro _) | split | dsimp only
    | fail_if_no_progress with_reducible refine kept_upd 1107820929 ?_ rfl rfl rfl ?_ hF

theorem accFirstTick_kept {F : Nat} {o0 s : State} (n : Nat) (hI : Kept F o0 s) (hF : Sub 1107820929 F := by first | with_reducible assumption | exact Sub.mono (by with_reducible assumption) (by decide)) : Kept F o0 (accFirstTick n s) := by
  unfold accFirstTick
  repeat' first
    | with_reducible assumption | (with_reducible exact Sub.mono hF (by decide))
    | ((with_reducible refine FrameU.mk fun p hp => ?_); cases p <;> first | exact absurd hp (by decide) | exact rfl | exact trivial | exact ⟨rfl, rfl⟩)
    | with_reducible apply postAt_kept | with_reducible apply st_setAcc_kept | with_reducible apply kept_ite
    | (with_reducible refine kept_foldl ?_ (fun _ _ _ => ?_)) | (intro _) | split | dsimp only
    | fail_if_no_progress with_reducible refine kept_upd 1107820929 ?_ rfl rfl rfl ?_ hF

theorem execAccSramUe_kept {F : Nat} {o0 s : State} (e : EccErr) (c : Fin 512) (hI : Kept F o0 s) (hF : Sub 1107820929 F := by first | with_reducible assumption | exact Sub.mono (by with_reducible assumption) (by decide)) : OutKept F o0 (execAccSramUe e c s) := by
  unfold execAccSramUe
  repeat' first
    | with_reducible assumption | (with_reducible exact Sub.mono hF (by decide))
    | ((with_reducible refine FrameU.mk fun p hp => ?_); cases p <;> first | exact absurd hp (by decide) | exact rfl | exact trivial | exact ⟨rfl, rfl⟩)
    | with_reducible apply st_inc_kept | with_reducible apply st_flag_kept | with_reducible apply post_kept
    | with_reducible apply st_setAcc_kept | with_reducible apply kept_next | with_reducible apply kept_ite | split | dsimp only
    | fail_if_no_progress with_reducible refine kept_upd 1107820929 ?_ rfl rfl rfl ?_ hF

theorem setPulse_kept {F : Nat} {o0 s : State} (k : Nat) (p : PulseSt) (hI : Kept F o0 s) (hF : Sub 524288 F := by first | with_reducible assumption | exact Sub.mono (by with_reducible assumption) (by decide)) : Kept F o0 (setPulse k p s) := by
  unfold setPulse
  repeat' first
    | with_reducible assumption | (with_reducible exact Sub.mono hF (by decide))
    | ((with_reducible refine FrameU.mk fun p hp => ?_); cases p <;> first | exact absurd hp (by decide) | exact rfl | exact trivial | exact ⟨rfl, rfl⟩)
    | with_reducible apply st_setAcc_kept

theorem execPulseStart_kept {F : Nat} {o0 s : State} (k : Fin 8) (hI : Kept F o0 s) (hF : Sub 4398181253121 F := by first | with_reducible assumption | exact Sub.mono (by with_reducible assumption) (by decide)) : OutKept F o0 (execPulseStart k s) := by
  unfold execPulseStart
  repeat' first
    | with_reducible assumption | (with_reducible exact Sub.mono hF (by decide))
    | ((with_reducible refine FrameU.mk fun p hp => ?_); cases p <;> first | exact absurd hp (by decide) | exact rfl | exact trivial | exact ⟨rfl, rfl⟩)
    | with_reducible apply st_wr_kept | with_reducible apply st_incWrap_kept | with_reducible apply st_wrB_kept
    | with_reducible apply setPin_kept | with_reducible apply setPulse_kept | with_reducible apply kept_next
    | with_reducible apply kept_ite | split | dsimp only
    | fail_if_no_progress with_reducible refine kept_upd 4398181253121 ?_ rfl rfl rfl ?_ hF

theorem execPulseEnd_kept {F : Nat} {o0 s : State} (k : Fin 8) (hI : Kept F o0 s) (hF : Sub 4398181253121 F := by first | with_reducible assumption | exact Sub.mono (by with_reducible assumption) (by decide)) : OutKept F o0 (execPulseEnd k s) := by
  unfold execPulseEnd
  repeat' first
    | with_reducible assumption | (with_reducible exact Sub.mono hF (by decide))
    | ((with_reducible refine FrameU.mk fun p hp => ?_); cases p <;> first | exact absurd hp (by decide) | exact rfl | exact trivial | exact ⟨rfl, rfl⟩)
    | with_reducible apply st_wrB_kept | with_reducible apply setPin_kept | with_reducible apply setPulse_kept
    | with_reducible apply kept_next | with_reducible apply kept_ite | (with_reducible refine kept_foldl ?_ (fun _ _ _ => ?_))
    | (intro _) | split | dsimp only | fail_if_no_progress with_reducible refine kept_upd 4398181253121 ?_ rfl rfl rfl ?_ hF

theorem accSelect_kept {F : Nat} {o0 s : State} (v : Nat) (hI : Kept F o0 s) (hF : Sub 1 F := by first | with_reducible assumption | exact Sub.mono (by with_reducible assumption) (by decide)) : Kept F o0 (accSelect v s) := by
  unfold accSelect
  repeat' first
    | with_reducible assumption | (with_reducible exact Sub.mono hF (by decide))
    | ((with_reducible refine FrameU.mk fun p hp => ?_); cases p <;> first | exact absurd hp (by decide) | exact rfl | exact trivial | exact ⟨rfl, rfl⟩)
    | with_reducible apply st_wr_kept | with_reducible apply st_wrB_kept | with_reducible apply kept_ite
    | (with_reducible refine kept_foldl ?_ (fun _ _ _ => ?_)) | (intro _) | split | dsimp only
    | fail_if_no_progress with_reducible refine kept_upd 1 ?_ rfl rfl rfl ?_ hF

end Sys2Proof.Machine
end

