-- ==== Sys2Proof/Laws/KeptOutputs.lean ====
section
/-!
SUPPORT. What Machine/Outputs.lean keeps of a state: one lemma per operation.
-/

namespace Sys2Proof.Machine

set_option linter.all false
set_option Elab.async false

theorem countSat_kept {F : Nat} {o0 s : State} (k : Nat) (hI : Kept F o0 s) (hF : Sub 1 F := by first | with_reducible assumption | exact Sub.mono (by with_reducible assumption) (by decide)) : Kept F o0 (countSat k s) := by
  unfold countSat
  repeat' first
    | with_reducible assumption | (with_reducible exact Sub.mono hF (by decide))
    | ((with_reducible refine FrameU.mk fun p hp => ?_); cases p <;> first | exact absurd hp (by decide) | exact rfl | exact trivial | exact ⟨rfl, rfl⟩)
    | with_reducible apply st_inc_kept | with_reducible apply st_flag_kept | with_reducible apply kept_ite | split

theorem st_savePast_kept {F : Nat} {o0 s : State} (p : OutPast) (hI : Kept F o0 s) (hF : Sub 1048576 F := by first | with_reducible assumption | exact Sub.mono (by with_reducible assumption) (by decide)) : Kept F o0 (State.savePast s p) := by
  unfold State.savePast
  repeat' first
    | with_reducible assumption | (with_reducible exact Sub.mono hF (by decide))
    | ((with_reducible refine FrameU.mk fun p hp => ?_); cases p <;> first | exact absurd hp (by decide) | exact rfl | exact trivial | exact ⟨rfl, rfl⟩)
    | with_reducible apply st_setEgr_kept

theorem st_takePast_kept {F : Nat} {o0 s : State} (stream : Nat) (block : Nat) (m : Nat) (hI : Kept F o0 s) (hF : Sub 1048576 F := by first | with_reducible assumption | exact Sub.mono (by with_reducible assumption) (by decide)) : Kept F o0 (State.takePast s stream block m).2 := by
  unfold State.takePast
  repeat' first
    | with_reducible assumption | (with_reducible exact Sub.mono hF (by decide))
    | ((with_reducible refine FrameU.mk fun p hp => ?_); cases p <;> first | exact absurd hp (by decide) | exact rfl | exact trivial | exact ⟨rfl, rfl⟩)
    | with_reducible apply st_setEgr_kept

theorem st_takePast_kept_eq {F : Nat} {o0 s : State} {y0 y1} {stream : Nat} {block : Nat} {m : Nat} (hI : Kept F o0 s) (hF : Sub 1048576 F := by first | with_reducible assumption | exact Sub.mono (by with_reducible assumption) (by decide)) (e : State.takePast s stream block m = (y0, y1)) : Kept F o0 y1 := by
  have h2 := st_takePast_kept stream block m hI
  rw [e] at h2; exact h2

theorem outPack_kept {F : Nat} {o0 s : State} (code : Nat) (n : Nat) (j : Nat) (hI : Kept F o0 s) (hF : Sub 1081345 F := by first | with_reducible assumption | exact Sub.mono (by with_reducible assumption) (by decide)) : Kept F o0 (outPack code n j s) := by
  unfold outPack
  repeat' first
    | with_reducible assumption | (with_reducible exact Sub.mono hF (by decide))
    | ((with_reducible refine FrameU.mk fun p hp => ?_); cases p <;> first | exact absurd hp (by decide) | exact rfl | exact trivial | exact ⟨rfl, rfl⟩)
    | with_reducible apply putOut_kept | with_reducible apply countSat_kept | with_reducible apply st_savePast_kept
    | (refine st_takePast_kept_eq ?_ ?_ (by assumption)) | with_reducible apply st_takePast_kept | with_reducible apply kept_ite
    | split | dsimp only | fail_if_no_progress with_reducible refine kept_upd 1081345 ?_ rfl rfl rfl ?_ hF

theorem execOutPack2011_kept {F : Nat} {o0 s : State} (n : Nat) (item : Fin 4096) (hI : Kept F o0 s) (hF : Sub 1081345 F := by first | with_reducible assumption | exact Sub.mono (by with_reducible assumption) (by decide)) : OutKept F o0 (execOutPack2011 n item s) := by
  unfold execOutPack2011
  repeat' first
    | with_reducible assumption | (with_reducible exact Sub.mono hF (by decide))
    | ((with_reducible refine FrameU.mk fun p hp => ?_); cases p <;> first | exact absurd hp (by decide) | exact rfl | exact trivial | exact ⟨rfl, rfl⟩)
    | with_reducible apply outPack_kept | with_reducible apply kept_next

theorem execOutPack2005_kept {F : Nat} {o0 s : State} (n : Nat) (item : Fin 4096) (hI : Kept F o0 s) (hF : Sub 1081345 F := by first | with_reducible assumption | exact Sub.mono (by with_reducible assumption) (by decide)) : OutKept F o0 (execOutPack2005 n item s) := by
  unfold execOutPack2005
  repeat' first
    | with_reducible assumption | (with_reducible exact Sub.mono hF (by decide))
    | ((with_reducible refine FrameU.mk fun p hp => ?_); cases p <;> first | exact absurd hp (by decide) | exact rfl | exact trivial | exact ⟨rfl, rfl⟩)
    | with_reducible apply outPack_kept | with_reducible apply kept_next

theorem execOutStat_kept {F : Nat} {o0 s : State} (n : Nat) (item : Fin 4096) (hI : Kept F o0 s) (hF : Sub 1081344 F := by first | with_reducible assumption | exact Sub.mono (by with_reducible assumption) (by decide)) : OutKept F o0 (execOutStat n item s) := by
  unfold execOutStat
  repeat' first
    | with_reducible assumption | (with_reducible exact Sub.mono hF (by decide))
    | ((with_reducible refine FrameU.mk fun p hp => ?_); cases p <;> first | exact absurd hp (by decide) | exact rfl | exact trivial | exact ⟨rfl, rfl⟩)
    | with_reducible apply putOut_kept | with_reducible apply st_savePast_kept | (refine st_takePast_kept_eq ?_ ?_ (by assumption))
    | with_reducible apply st_takePast_kept | with_reducible apply kept_next | with_reducible apply kept_ite | split | dsimp only
    | fail_if_no_progress with_reducible refine kept_upd 1081344 ?_ rfl rfl rfl ?_ hF

theorem applyCmds_kept {F : Nat} {o0 s : State} (n : Nat) (st : Nat) (hI : Kept F o0 s) (hF : Sub 1048576 F := by first | with_reducible assumption | exact Sub.mono (by with_reducible assumption) (by decide)) : Kept F o0 (applyCmds n st s) := by
  unfold applyCmds
  repeat' first
    | with_reducible assumption | (with_reducible exact Sub.mono hF (by decide))
    | ((with_reducible refine FrameU.mk fun p hp => ?_); cases p <;> first | exact absurd hp (by decide) | exact rfl | exact trivial | exact ⟨rfl, rfl⟩)
    | with_reducible apply st_setOutSt_kept

theorem offerCopies_kept {F : Nat} {o0 s : State} (n j st : Nat) (l : List (Nat × Nat × TxFrame)) (hI : Kept F o0 s) (hF : Sub 34603025 F := by first | with_reducible assumption | exact Sub.mono (by with_reducible assumption) (by decide)) : Kept F o0 (offerCopies n j st l s) := by
  induction l generalizing s with
  | nil => exact hI
  | cons x rest ih =>
    obtain ⟨p, q, f⟩ := x
    unfold offerCopies
    dsimp only
    split
    · exact st_setEgr_kept _ hI
    · exact ih (egrStream_kept _ _ _ _ hI)

theorem streamSend_kept {F : Nat} {o0 s : State} (n : Nat) (j : Nat) (st : Nat) (m : Nat) (kind : Nat) (o : OutStream) (p : OutDest → Bool) (payload : Bytes) (hI : Kept F o0 s) (hF : Sub 34603025 F := by first | with_reducible assumption | exact Sub.mono (by with_reducible assumption) (by decide)) : Kept F o0 (streamSend n j st m kind o p payload s) := by
  unfold streamSend
  repeat' first
    | with_reducible assumption | (with_reducible exact Sub.mono hF (by decide))
    | ((with_reducible refine FrameU.mk fun p hp => ?_); cases p <;> first | exact absurd hp (by decide) | exact rfl | exact trivial | exact ⟨rfl, rfl⟩)
    | with_reducible apply st_flag_kept | with_reducible apply streamDrop_kept | with_reducible apply offerCopies_kept
    | with_reducible apply kept_next | with_reducible apply kept_ite | (with_reducible refine kept_foldl ?_ (fun _ _ _ => ?_))
    | (intro _) | split | dsimp only | fail_if_no_progress with_reducible refine kept_upd 34603025 ?_ rfl rfl rfl ?_ hF

theorem execCompose_kept {F : Nat} {o0 s : State} (n : Nat) (item : Fin 4096) (hI : Kept F o0 s) (hF : Sub 34635793 F := by first | with_reducible assumption | exact Sub.mono (by with_reducible assumption) (by decide)) : OutKept F o0 (execCompose n item s) := by
  unfold execCompose
  repeat' first
    | with_reducible assumption | (with_reducible exact Sub.mono hF (by decide))
    | ((with_reducible refine FrameU.mk fun p hp => ?_); cases p <;> first | exact absurd hp (by decide) | exact rfl | exact trivial | exact ⟨rfl, rfl⟩)
    | with_reducible apply st_flag_kept | with_reducible apply st_setEgr_kept | with_reducible apply putOut_kept
    | with_reducible apply applyCmds_kept | with_reducible apply streamSend_kept | with_reducible apply kept_next
    | with_reducible apply kept_ite | (intro _) | split | dsimp only
    | fail_if_no_progress with_reducible refine kept_upd 34635793 ?_ rfl rfl rfl ?_ hF

theorem amdLost_kept {F : Nat} {o0 s : State}  (hI : Kept F o0 s) (hF : Sub 1 F := by first | with_reducible assumption | exact Sub.mono (by with_reducible assumption) (by decide)) : Kept F o0 (amdLost s) := by
  unfold amdLost
  repeat' first
    | with_reducible assumption | (with_reducible exact Sub.mono hF (by decide))
    | ((with_reducible refine FrameU.mk fun p hp => ?_); cases p <;> first | exact absurd hp (by decide) | exact rfl | exact trivial | exact ⟨rfl, rfl⟩)
    | with_reducible apply st_inc_kept | with_reducible apply st_flag_kept

theorem bindNotices_kept {F : Nat} {o0 s : State} (fuel left m : Nat) (hI : Kept F o0 s) (hF : Sub 1097729 F := by first | with_reducible assumption | exact Sub.mono (by with_reducible assumption) (by decide)) : Kept F o0 (bindNotices fuel left m s) := by
  induction fuel generalizing s left with
  | zero => exact hI
  | succ k ih =>
    unfold bindNotices
    dsimp only
    repeat' first
      | with_reducible assumption
      | (with_reducible exact Sub.mono hF (by decide))
      | with_reducible apply ih
      | with_reducible apply amdLost_kept
      | with_reducible apply st_setEgr_kept
      | with_reducible apply st_setPgh_kept
      | with_reducible apply st_setInst_kept
      | with_reducible apply kept_ite
      | split

theorem bindAmend_kept {F : Nat} {o0 s : State} (m : Nat) (hI : Kept F o0 s) (hF : Sub 1097729 F := by first | with_reducible assumption | exact Sub.mono (by with_reducible assumption) (by decide)) : Kept F o0 (bindAmend m s) := by
  unfold bindAmend
  repeat' first
    | with_reducible assumption | (with_reducible exact Sub.mono hF (by decide))
    | ((with_reducible refine FrameU.mk fun p hp => ?_); cases p <;> first | exact absurd hp (by decide) | exact rfl | exact trivial | exact ⟨rfl, rfl⟩)
    | with_reducible apply bindNotices_kept | with_reducible apply kept_ite | split | dsimp only
    | fail_if_no_progress with_reducible refine kept_upd 1097729 ?_ rfl rfl rfl ?_ hF

theorem execOutAmendPack_kept {F : Nat} {o0 s : State} (n : Nat) (item : Fin 4096) (hI : Kept F o0 s) (hF : Sub 32769 F := by first | with_reducible assumption | exact Sub.mono (by with_reducible assumption) (by decide)) : OutKept F o0 (execOutAmendPack n item s) := by
  unfold execOutAmendPack
  repeat' first
    | with_reducible assumption | (with_reducible exact Sub.mono hF (by decide))
    | ((with_reducible refine FrameU.mk fun p hp => ?_); cases p <;> first | exact absurd hp (by decide) | exact rfl | exact trivial | exact ⟨rfl, rfl⟩)
    | with_reducible apply putOut_kept | with_reducible apply countSat_kept | with_reducible apply kept_next
    | with_reducible apply kept_ite | split | dsimp only
    | fail_if_no_progress with_reducible refine kept_upd 32769 ?_ rfl rfl rfl ?_ hF

theorem sendAmend_kept {F : Nat} {o0 s : State} (n : Nat) (j : Nat) (i : Inst) (p : Nat) (hI : Kept F o0 s) (hF : Sub 34603025 F := by first | with_reducible assumption | exact Sub.mono (by with_reducible assumption) (by decide)) : Kept F o0 (sendAmend n j i p s) := by
  unfold sendAmend
  repeat' first
    | with_reducible assumption | (with_reducible exact Sub.mono hF (by decide))
    | ((with_reducible refine FrameU.mk fun p hp => ?_); cases p <;> first | exact absurd hp (by decide) | exact rfl | exact trivial | exact ⟨rfl, rfl⟩)
    | with_reducible apply st_setEgr_kept | with_reducible apply applyCmds_kept | with_reducible apply streamSend_kept
    | with_reducible apply kept_ite | (intro _) | split | dsimp only
    | fail_if_no_progress with_reducible refine kept_upd 34603025 ?_ rfl rfl rfl ?_ hF

theorem execAmend_kept {F : Nat} {o0 s : State} (n : Nat) (item : Fin 4096) (hI : Kept F o0 s) (hF : Sub 34635793 F := by first | with_reducible assumption | exact Sub.mono (by with_reducible assumption) (by decide)) : OutKept F o0 (execAmend n item s) := by
  unfold execAmend
  repeat' first
    | with_reducible assumption | (with_reducible exact Sub.mono hF (by decide))
    | ((with_reducible refine FrameU.mk fun p hp => ?_); cases p <;> first | exact absurd hp (by decide) | exact rfl | exact trivial | exact ⟨rfl, rfl⟩)
    | with_reducible apply putOut_kept | with_reducible apply sendAmend_kept | with_reducible apply kept_next
    | with_reducible apply kept_ite | (with_reducible refine kept_foldl ?_ (fun _ _ _ => ?_)) | (intro _) | split | dsimp only
    | fail_if_no_progress with_reducible refine kept_upd 34635793 ?_ rfl rfl rfl ?_ hF

theorem execComposerBpWaitEnd_kept {F : Nat} {o0 s : State}  (hI : Kept F o0 s) (hF : Sub 34603025 F := by first | with_reducible assumption | exact Sub.mono (by with_reducible assumption) (by decide)) : OutKept F o0 (execComposerBpWaitEnd s) := by
  unfold execComposerBpWaitEnd
  repeat' first
    | with_reducible assumption | (with_reducible exact Sub.mono hF (by decide))
    | ((with_reducible refine FrameU.mk fun p hp => ?_); cases p <;> first | exact absurd hp (by decide) | exact rfl | exact trivial | exact ⟨rfl, rfl⟩)
    | with_reducible apply st_inc_kept | with_reducible apply st_flag_kept | with_reducible apply st_ev_kept
    | with_reducible apply st_setEgr_kept | with_reducible apply streamDrop_kept | with_reducible apply egrStream_kept
    | with_reducible apply offerCopies_kept | with_reducible apply kept_next | with_reducible apply kept_ite | split | dsimp only
    | fail_if_no_progress with_reducible refine kept_upd 34603025 ?_ rfl rfl rfl ?_ hF

theorem cfgSend_kept {F : Nat} {o0 s : State} (st : Nat) (kind : Nat) (typ : Nat) (o : OutStream) (c : CmdFrame) (body : Bytes) (hI : Kept F o0 s) (hF : Sub 4398085308417 F := by first | with_reducible assumption | exact Sub.mono (by with_reducible assumption) (by decide)) : Kept F o0 (cfgSend st kind typ o c body s) := by
  unfold cfgSend
  repeat' first
    | with_reducible assumption | (with_reducible exact Sub.mono hF (by decide))
    | ((with_reducible refine FrameU.mk fun p hp => ?_); cases p <;> first | exact absurd hp (by decide) | exact rfl | exact trivial | exact ⟨rfl, rfl⟩)
    | with_reducible apply st_inc_kept | with_reducible apply st_emit_kept | with_reducible apply egrOffer_kept
    | with_reducible apply kept_ite | (with_reducible refine kept_foldl ?_ (fun _ _ _ => ?_)) | (intro _) | split | dsimp only
    | fail_if_no_progress with_reducible refine kept_upd 4398085308417 ?_ rfl rfl rfl ?_ hF

theorem command_kept {F : Nat} {o0 s : State} (code : Nat) (c : CmdFrame) (act : Nat → OutStream → State → State) (hact : ∀ x0 x1 x2, Kept F o0 x2 → Kept F o0 (act x0 x1 x2)) (hI : Kept F o0 s) (hF : Sub 4398050705409 F := by first | with_reducible assumption | exact Sub.mono (by with_reducible assumption) (by decide)) : Kept F o0 (command code c act s) := by
  unfold command
  repeat' first
    | with_reducible assumption | with_reducible apply hact | (with_reducible exact Sub.mono hF (by decide))
    | ((with_reducible refine FrameU.mk fun p hp => ?_); cases p <;> first | exact absurd hp (by decide) | exact rfl | exact trivial | exact ⟨rfl, rfl⟩)
    | with_reducible apply st_inc_kept | with_reducible apply st_sendForward_kept | with_reducible apply cmdBad_kept
    | with_reducible apply kept_next | with_reducible apply kept_ite | (intro _) | split | dsimp only
    | fail_if_no_progress with_reducible refine kept_upd 4398050705409 ?_ rfl rfl rfl ?_ hF

theorem destCmd_kept {F : Nat} {o0 s : State} (m : Option Nat) (st : Nat) (mask : Nat) (on : Bool) (hI : Kept F o0 s) (hF : Sub 1048576 F := by first | with_reducible assumption | exact Sub.mono (by with_reducible assumption) (by decide)) : Kept F o0 (destCmd m st mask on s) := by
  unfold destCmd
  repeat' first
    | with_reducible assumption | (with_reducible exact Sub.mono hF (by decide))
    | ((with_reducible refine FrameU.mk fun p hp => ?_); cases p <;> first | exact absurd hp (by decide) | exact rfl | exact trivial | exact ⟨rfl, rfl⟩)
    | with_reducible apply st_setOutSt_kept

theorem onOff_kept {F : Nat} {o0 s : State} (on : Bool) (src : Nat) (st : Nat) (o : OutStream) (hI : Kept F o0 s) (hF : Sub 4398051753984 F := by first | with_reducible assumption | exact Sub.mono (by with_reducible assumption) (by decide)) : Kept F o0 (onOff on src st o s) := by
  unfold onOff
  repeat' first
    | with_reducible assumption | (with_reducible exact Sub.mono hF (by decide))
    | ((with_reducible refine FrameU.mk fun p hp => ?_); cases p <;> first | exact absurd hp (by decide) | exact rfl | exact trivial | exact ⟨rfl, rfl⟩)
    | with_reducible apply st_sendMirror_kept | with_reducible apply destCmd_kept | with_reducible apply kept_ite | split

theorem c37Command_kept {F : Nat} {o0 s : State} (code : Nat) (c : CmdFrame) (hI : Kept F o0 s) (hF : Sub 4398085308417 F := by first | with_reducible assumption | exact Sub.mono (by with_reducible assumption) (by decide)) : Kept F o0 (c37Command code c s) := by
  unfold c37Command
  repeat' first
    | with_reducible assumption | (with_reducible exact Sub.mono hF (by decide))
    | ((with_reducible refine FrameU.mk fun p hp => ?_); cases p <;> first | exact absurd hp (by decide) | exact rfl | exact trivial | exact ⟨rfl, rfl⟩)
    | with_reducible apply cmdBad_kept | with_reducible apply cfgSend_kept | with_reducible apply command_kept
    | with_reducible apply onOff_kept | with_reducible apply kept_ite | (intro _) | split | dsimp only
    | fail_if_no_progress with_reducible refine kept_upd 4398085308417 ?_ rfl rfl rfl ?_ hF

theorem execCmdTurnOff_kept {F : Nat} {o0 s : State} (c : CmdFrame) (hI : Kept F o0 s) (hF : Sub 4398085308417 F := by first | with_reducible assumption | exact Sub.mono (by with_reducible assumption) (by decide)) : OutKept F o0 (execCmdTurnOff c s) := by
  unfold execCmdTurnOff
  repeat' first
    | with_reducible assumption | (with_reducible exact Sub.mono hF (by decide))
    | ((with_reducible refine FrameU.mk fun p hp => ?_); cases p <;> first | exact absurd hp (by decide) | exact rfl | exact trivial | exact ⟨rfl, rfl⟩)
    | with_reducible apply c37Command_kept | with_reducible apply kept_next

theorem execCmdTurnOn_kept {F : Nat} {o0 s : State} (c : CmdFrame) (hI : Kept F o0 s) (hF : Sub 4398085308417 F := by first | with_reducible assumption | exact Sub.mono (by with_reducible assumption) (by decide)) : OutKept F o0 (execCmdTurnOn c s) := by
  unfold execCmdTurnOn
  repeat' first
    | with_reducible assumption | (with_reducible exact Sub.mono hF (by decide))
    | ((with_reducible refine FrameU.mk fun p hp => ?_); cases p <;> first | exact absurd hp (by decide) | exact rfl | exact trivial | exact ⟨rfl, rfl⟩)
    | with_reducible apply c37Command_kept | with_reducible apply kept_next

theorem execCmdSendHeader_kept {F : Nat} {o0 s : State} (c : CmdFrame) (hI : Kept F o0 s) (hF : Sub 4398085308417 F := by first | with_reducible assumption | exact Sub.mono (by with_reducible assumption) (by decide)) : OutKept F o0 (execCmdSendHeader c s) := by
  unfold execCmdSendHeader
  repeat' first
    | with_reducible assumption | (with_reducible exact Sub.mono hF (by decide))
    | ((with_reducible refine FrameU.mk fun p hp => ?_); cases p <;> first | exact absurd hp (by decide) | exact rfl | exact trivial | exact ⟨rfl, rfl⟩)
    | with_reducible apply c37Command_kept | with_reducible apply kept_next

theorem execCmdSendCfg1_kept {F : Nat} {o0 s : State} (c : CmdFrame) (hI : Kept F o0 s) (hF : Sub 4398085308417 F := by first | with_reducible assumption | exact Sub.mono (by with_reducible assumption) (by decide)) : OutKept F o0 (execCmdSendCfg1 c s) := by
  unfold execCmdSendCfg1
  repeat' first
    | with_reducible assumption | (with_reducible exact Sub.mono hF (by decide))
    | ((with_reducible refine FrameU.mk fun p hp => ?_); cases p <;> first | exact absurd hp (by decide) | exact rfl | exact trivial | exact ⟨rfl, rfl⟩)
    | with_reducible apply c37Command_kept | with_reducible apply kept_next

theorem execCmdSendCfg2_kept {F : Nat} {o0 s : State} (c : CmdFrame) (hI : Kept F o0 s) (hF : Sub 4398085308417 F := by first | with_reducible assumption | exact Sub.mono (by with_reducible assumption) (by decide)) : OutKept F o0 (execCmdSendCfg2 c s) := by
  unfold execCmdSendCfg2
  repeat' first
    | with_reducible assumption | (with_reducible exact Sub.mono hF (by decide))
    | ((with_reducible refine FrameU.mk fun p hp => ?_); cases p <;> first | exact absurd hp (by decide) | exact rfl | exact trivial | exact ⟨rfl, rfl⟩)
    | with_reducible apply c37Command_kept | with_reducible apply kept_next

theorem execCmdSendCfg3_kept {F : Nat} {o0 s : State} (c : CmdFrame) (hI : Kept F o0 s) (hF : Sub 4398085308417 F := by first | with_reducible assumption | exact Sub.mono (by with_reducible assumption) (by decide)) : OutKept F o0 (execCmdSendCfg3 c s) := by
  unfold execCmdSendCfg3
  repeat' first
    | with_reducible assumption | (with_reducible exact Sub.mono hF (by decide))
    | ((with_reducible refine FrameU.mk fun p hp => ?_); cases p <;> first | exact absurd hp (by decide) | exact rfl | exact trivial | exact ⟨rfl, rfl⟩)
    | with_reducible apply c37Command_kept | with_reducible apply kept_next

theorem egrSelect_kept {F : Nat} {o0 s : State} (v : Nat) (hI : Kept F o0 s) (hF : Sub 1 F := by first | with_reducible assumption | exact Sub.mono (by with_reducible assumption) (by decide)) : Kept F o0 (egrSelect v s) := by
  unfold egrSelect
  repeat' first
    | with_reducible assumption | (with_reducible exact Sub.mono hF (by decide))
    | ((with_reducible refine FrameU.mk fun p hp => ?_); cases p <;> first | exact absurd hp (by decide) | exact rfl | exact trivial | exact ⟨rfl, rfl⟩)
    | with_reducible apply st_wr_kept | with_reducible apply st_wrB_kept | with_reducible apply kept_ite | split | dsimp only
    | fail_if_no_progress with_reducible refine kept_upd 1 ?_ rfl rfl rfl ?_ hF

end Sys2Proof.Machine
end

