-- ==== Sys2Proof/Laws/KeptSpectral.lean ====
section
/-!
SUPPORT. What Machine/Spectral.lean keeps of a state: one lemma per operation.
-/

namespace Sys2Proof.Machine

set_option linter.all false
set_option Elab.async false

theorem st_setSpec_kept {F : Nat} {o0 s : State} (x : Spec) (hI : Kept F o0 s) (hF : Sub 65536 F := by first | with_reducible assumption | exact Sub.mono (by with_reducible assumption) (by decide)) : Kept F o0 (State.setSpec s x) := by
  unfold State.setSpec
  repeat' first
    | with_reducible assumption | (with_reducible exact Sub.mono hF (by decide))
    | ((with_reducible refine FrameU.mk fun p hp => ?_); cases p <;> first | exact absurd hp (by decide) | exact rfl | exact trivial | exact ⟨rfl, rfl⟩)
    | with_reducible apply kept_ite | split | dsimp only
    | fail_if_no_progress with_reducible refine kept_upd 65536 ?_ rfl rfl rfl ?_ hF

theorem bandRun_kept {F : Nat} {o0 s : State} (n : Nat) (inst : Nat) (rate : Nat) (c : SpecCfg) (b : Nat) (ins : List (Option Nat)) (hI : Kept F o0 s) (hF : Sub 65537 F := by first | with_reducible assumption | exact Sub.mono (by with_reducible assumption) (by decide)) : Kept F o0 (bandRun n inst rate c s b ins).1 := by
  unfold bandRun
  repeat' first
    | with_reducible assumption | (with_reducible exact Sub.mono hF (by decide))
    | ((with_reducible refine FrameU.mk fun p hp => ?_); cases p <;> first | exact absurd hp (by decide) | exact rfl | exact trivial | exact ⟨rfl, rfl⟩)
    | with_reducible apply st_wr_kept | with_reducible apply st_flag_kept | with_reducible apply st_wrB_kept
    | with_reducible apply st_setSpec_kept | with_reducible apply kept_ite | with_reducible apply kept_ite_fst
    | with_reducible apply kept_ite_snd | split

theorem bandRun_kept_eq {F : Nat} {o0 s : State} {y0 y1} {n : Nat} {inst : Nat} {rate : Nat} {c : SpecCfg} {b : Nat} {ins : List (Option Nat)} (hI : Kept F o0 s) (hF : Sub 65537 F := by first | with_reducible assumption | exact Sub.mono (by with_reducible assumption) (by decide)) (e : bandRun n inst rate c s b ins = (y0, y1)) : Kept F o0 y0 := by
  have h2 := bandRun_kept n inst rate c b ins hI
  rw [e] at h2; exact h2

theorem sdftRun_kept {F : Nat} {o0 s : State} (i : Inst) (j : Nat) (k : KIn) (hI : Kept F o0 s) (hF : Sub 98305 F := by first | with_reducible assumption | exact Sub.mono (by with_reducible assumption) (by decide)) : Kept F o0 (sdftRun i j k s) := by
  unfold sdftRun
  repeat' first
    | with_reducible assumption | (with_reducible exact Sub.mono hF (by decide))
    | ((with_reducible refine FrameU.mk fun p hp => ?_); cases p <;> first | exact absurd hp (by decide) | exact rfl | exact trivial | exact ⟨rfl, rfl⟩)
    | with_reducible apply st_wr_kept | with_reducible apply st_inc_kept | with_reducible apply st_flag_kept
    | with_reducible apply putOut_kept | with_reducible apply st_setSpec_kept | (refine bandRun_kept_eq ?_ ?_ (by assumption))
    | with_reducible apply bandRun_kept | with_reducible apply kept_ite | (with_reducible refine kept_foldl ?_ (fun _ _ _ => ?_))
    | (with_reducible refine kept_foldl_fst ?_ (fun _ _ _ => ?_)) | (exact ⟨id, id, List.prefix_refl _, Nat.le_refl _⟩) | (intro _)
    | split | dsimp only | with_reducible refine kept_ports ?_ ?_ | with_reducible refine kept_pio ?_ ?_
    | fail_if_no_progress with_reducible refine kept_upd 98305 ?_ rfl rfl rfl ?_ hF
    | fail_if_no_progress with_reducible refine kept_chs 98305 ?_ ?_ rfl ?_ hF

theorem sdftFor_kept {F : Nat} {o0 s : State} (i : Inst) (run : State → State) (hrun : ∀ x0, Kept F o0 x0 → Kept F o0 (run x0)) (hI : Kept F o0 s) (hF : Sub 65536 F := by first | with_reducible assumption | exact Sub.mono (by with_reducible assumption) (by decide)) : Kept F o0 (sdftFor i run s) := by
  unfold sdftFor
  repeat' first
    | with_reducible assumption | with_reducible apply hrun | (with_reducible exact Sub.mono hF (by decide))
    | ((with_reducible refine FrameU.mk fun p hp => ?_); cases p <;> first | exact absurd hp (by decide) | exact rfl | exact trivial | exact ⟨rfl, rfl⟩)
    | with_reducible apply st_setSpec_kept | with_reducible apply kept_ite | (intro _) | split

theorem execSdftUpdate_kept {F : Nat} {o0 s : State} (n : Nat) (item : Fin 4096) (hI : Kept F o0 s) (hF : Sub 98305 F := by first | with_reducible assumption | exact Sub.mono (by with_reducible assumption) (by decide)) : OutKept F o0 (execSdftUpdate n item s) := by
  unfold execSdftUpdate
  repeat' first
    | with_reducible assumption | (with_reducible exact Sub.mono hF (by decide))
    | ((with_reducible refine FrameU.mk fun p hp => ?_); cases p <;> first | exact absurd hp (by decide) | exact rfl | exact trivial | exact ⟨rfl, rfl⟩)
    | with_reducible apply sdftRun_kept | with_reducible apply sdftFor_kept | with_reducible apply kept_next
    | with_reducible apply kept_ite | (with_reducible refine kept_foldl ?_ (fun _ _ _ => ?_)) | (intro _) | split | dsimp only
    | fail_if_no_progress with_reducible refine kept_upd 98305 ?_ rfl rfl rfl ?_ hF

theorem trkEval_kept {F : Nat} {o0 s : State} (c : TrkCfg) (n : Nat) (inst : Nat) (rate : Nat) (valid : Bool) (bands : List (Bool × Nat × Nat)) (hI : Kept F o0 s) (hF : Sub 65537 F := by first | with_reducible assumption | exact Sub.mono (by with_reducible assumption) (by decide)) : Kept F o0 (trkEval c n inst rate valid bands s) := by
  unfold trkEval
  repeat' first
    | with_reducible assumption | (with_reducible exact Sub.mono hF (by decide))
    | ((with_reducible refine FrameU.mk fun p hp => ?_); cases p <;> first | exact absurd hp (by decide) | exact rfl | exact trivial | exact ⟨rfl, rfl⟩)
    | with_reducible apply st_inc_kept | with_reducible apply st_flag_kept | with_reducible apply st_setSpec_kept
    | with_reducible apply kept_ite | split | dsimp only
    | fail_if_no_progress with_reducible refine kept_upd 65537 ?_ rfl rfl rfl ?_ hF

theorem classify_kept {F : Nat} {o0 s : State} (c : TrkCfg) (bands : List (Bool × Nat × Nat)) (hI : Kept F o0 s) (hF : Sub 65536 F := by first | with_reducible assumption | exact Sub.mono (by with_reducible assumption) (by decide)) : Kept F o0 (classify c s bands).1 := by
  unfold classify
  repeat' first
    | with_reducible assumption | (with_reducible exact Sub.mono hF (by decide))
    | ((with_reducible refine FrameU.mk fun p hp => ?_); cases p <;> first | exact absurd hp (by decide) | exact rfl | exact trivial | exact ⟨rfl, rfl⟩)
    | with_reducible apply st_setSpec_kept

theorem classify_kept_eq {F : Nat} {o0 s : State} {y0 y1} {c : TrkCfg} {bands : List (Bool × Nat × Nat)} (hI : Kept F o0 s) (hF : Sub 65536 F := by first | with_reducible assumption | exact Sub.mono (by with_reducible assumption) (by decide)) (e : classify c s bands = (y0, y1)) : Kept F o0 y0 := by
  have h2 := classify_kept c bands hI
  rw [e] at h2; exact h2

theorem trkSkip_kept {F : Nat} {o0 s : State} (c : TrkCfg) (k : Nat) (first : Nat) (last : Nat) (hI : Kept F o0 s) (hF : Sub 65537 F := by first | with_reducible assumption | exact Sub.mono (by with_reducible assumption) (by decide)) : Kept F o0 (trkSkip c k first last s) := by
  unfold trkSkip
  repeat' first
    | with_reducible assumption | (with_reducible exact Sub.mono hF (by decide))
    | ((with_reducible refine FrameU.mk fun p hp => ?_); cases p <;> first | exact absurd hp (by decide) | exact rfl | exact trivial | exact ⟨rfl, rfl⟩)
    | with_reducible apply st_flag_kept | with_reducible apply st_setSpec_kept | with_reducible apply kept_ite

theorem trkSample_kept {F : Nat} {o0 s : State} (c : TrkCfg) (n : Nat) (inst : Nat) (rate : Nat) (bands : List (Bool × Nat × Nat)) (y : List Nat) (hI : Kept F o0 s) (hF : Sub 65537 F := by first | with_reducible assumption | exact Sub.mono (by with_reducible assumption) (by decide)) : Kept F o0 (trkSample c n inst rate bands y s) := by
  unfold trkSample
  repeat' first
    | with_reducible assumption | (with_reducible exact Sub.mono hF (by decide))
    | ((with_reducible refine FrameU.mk fun p hp => ?_); cases p <;> first | exact absurd hp (by decide) | exact rfl | exact trivial | exact ⟨rfl, rfl⟩)
    | with_reducible apply st_setSpec_kept | with_reducible apply trkEval_kept | with_reducible apply trkSkip_kept
    | with_reducible apply kept_ite | split

theorem trkRun_kept {F : Nat} {o0 s : State} (i : Inst) (j : Nat) (k : KIn) (hI : Kept F o0 s) (hF : Sub 98305 F := by first | with_reducible assumption | exact Sub.mono (by with_reducible assumption) (by decide)) : Kept F o0 (trkRun i j k s) := by
  unfold trkRun
  repeat' first
    | with_reducible assumption | (with_reducible exact Sub.mono hF (by decide))
    | ((with_reducible refine FrameU.mk fun p hp => ?_); cases p <;> first | exact absurd hp (by decide) | exact rfl | exact trivial | exact ⟨rfl, rfl⟩)
    | with_reducible apply st_wr_kept | with_reducible apply st_wrB_kept | with_reducible apply putOut_kept
    | with_reducible apply st_setSpec_kept | (refine classify_kept_eq ?_ ?_ (by assumption)) | with_reducible apply classify_kept
    | with_reducible apply trkSkip_kept | with_reducible apply trkSample_kept | with_reducible apply kept_ite | split | dsimp only
    | fail_if_no_progress with_reducible refine kept_upd 98305 ?_ rfl rfl rfl ?_ hF

theorem trkFor_kept {F : Nat} {o0 s : State} (i : Inst) (run : State → State) (hrun : ∀ x0, Kept F o0 x0 → Kept F o0 (run x0)) (hI : Kept F o0 s) (hF : Sub 65536 F := by first | with_reducible assumption | exact Sub.mono (by with_reducible assumption) (by decide)) : Kept F o0 (trkFor i run s) := by
  unfold trkFor
  repeat' first
    | with_reducible assumption | with_reducible apply hrun | (with_reducible exact Sub.mono hF (by decide))
    | ((with_reducible refine FrameU.mk fun p hp => ?_); cases p <;> first | exact absurd hp (by decide) | exact rfl | exact trivial | exact ⟨rfl, rfl⟩)
    | with_reducible apply st_setSpec_kept | with_reducible apply kept_ite | (intro _) | split

theorem execModeTrack_kept {F : Nat} {o0 s : State} (n : Nat) (item : Fin 4096) (hI : Kept F o0 s) (hF : Sub 98305 F := by first | with_reducible assumption | exact Sub.mono (by with_reducible assumption) (by decide)) : OutKept F o0 (execModeTrack n item s) := by
  unfold execModeTrack
  repeat' first
    | with_reducible assumption | (with_reducible exact Sub.mono hF (by decide))
    | ((with_reducible refine FrameU.mk fun p hp => ?_); cases p <;> first | exact absurd hp (by decide) | exact rfl | exact trivial | exact ⟨rfl, rfl⟩)
    | with_reducible apply trkRun_kept | with_reducible apply trkFor_kept | with_reducible apply kept_next
    | with_reducible apply kept_ite | (intro _) | split

theorem modeSelect_kept {F : Nat} {o0 s : State} (idx : Nat) (hI : Kept F o0 s) (hF : Sub 1 F := by first | with_reducible assumption | exact Sub.mono (by with_reducible assumption) (by decide)) : Kept F o0 (modeSelect idx s) := by
  unfold modeSelect
  repeat' first
    | with_reducible assumption | (with_reducible exact Sub.mono hF (by decide))
    | ((with_reducible refine FrameU.mk fun p hp => ?_); cases p <;> first | exact absurd hp (by decide) | exact rfl | exact trivial | exact ⟨rfl, rfl⟩)
    | with_reducible apply st_wr_kept | with_reducible apply st_wrB_kept | with_reducible apply kept_ite | split | dsimp only
    | fail_if_no_progress with_reducible refine kept_upd 1 ?_ rfl rfl rfl ?_ hF

theorem defRun_kept {F : Nat} {o0 s : State} (i : Inst) (j : Nat) (k : KIn) (hI : Kept F o0 s) (hF : Sub 98305 F := by first | with_reducible assumption | exact Sub.mono (by with_reducible assumption) (by decide)) : Kept F o0 (defRun i j k s) := by
  unfold defRun
  repeat' first
    | with_reducible assumption | (with_reducible exact Sub.mono hF (by decide))
    | ((with_reducible refine FrameU.mk fun p hp => ?_); cases p <;> first | exact absurd hp (by decide) | exact rfl | exact trivial | exact ⟨rfl, rfl⟩)
    | with_reducible apply st_wr_kept | with_reducible apply st_flag_kept | with_reducible apply st_wrB_kept
    | with_reducible apply putOut_kept | with_reducible apply st_setSpec_kept | with_reducible apply kept_ite
    | (with_reducible refine kept_foldl ?_ (fun _ _ _ => ?_)) | (intro _) | split | dsimp only
    | fail_if_no_progress with_reducible refine kept_upd 98305 ?_ rfl rfl rfl ?_ hF

theorem defFor_kept {F : Nat} {o0 s : State} (i : Inst) (run : State → State) (hrun : ∀ x0, Kept F o0 x0 → Kept F o0 (run x0)) (hI : Kept F o0 s) (hF : Sub 65536 F := by first | with_reducible assumption | exact Sub.mono (by with_reducible assumption) (by decide)) : Kept F o0 (defFor i run s) := by
  unfold defFor
  repeat' first
    | with_reducible assumption | with_reducible apply hrun | (with_reducible exact Sub.mono hF (by decide))
    | ((with_reducible refine FrameU.mk fun p hp => ?_); cases p <;> first | exact absurd hp (by decide) | exact rfl | exact trivial | exact ⟨rfl, rfl⟩)
    | with_reducible apply st_setSpec_kept | with_reducible apply kept_ite | (intro _) | split

theorem execDefUpdate_kept {F : Nat} {o0 s : State} (n : Nat) (item : Fin 4096) (hI : Kept F o0 s) (hF : Sub 98305 F := by first | with_reducible assumption | exact Sub.mono (by with_reducible assumption) (by decide)) : OutKept F o0 (execDefUpdate n item s) := by
  unfold execDefUpdate
  repeat' first
    | with_reducible assumption | (with_reducible exact Sub.mono hF (by decide))
    | ((with_reducible refine FrameU.mk fun p hp => ?_); cases p <;> first | exact absurd hp (by decide) | exact rfl | exact trivial | exact ⟨rfl, rfl⟩)
    | with_reducible apply defRun_kept | with_reducible apply defFor_kept | with_reducible apply kept_next
    | with_reducible apply kept_ite | (intro _) | split | dsimp only
    | fail_if_no_progress with_reducible refine kept_upd 98305 ?_ rfl rfl rfl ?_ hF

theorem specReset_kept {F : Nat} {o0 s : State} (what : Nat) (index : Nat) (hI : Kept F o0 s) (hF : Sub 65537 F := by first | with_reducible assumption | exact Sub.mono (by with_reducible assumption) (by decide)) : Kept F o0 (specReset what index s) := by
  unfold specReset
  repeat' first
    | with_reducible assumption | (with_reducible exact Sub.mono hF (by decide))
    | ((with_reducible refine FrameU.mk fun p hp => ?_); cases p <;> first | exact absurd hp (by decide) | exact rfl | exact trivial | exact ⟨rfl, rfl⟩)
    | with_reducible apply st_flag_kept | with_reducible apply st_setSpec_kept | with_reducible apply kept_ite | split

theorem execSpecStateUe_kept {F : Nat} {o0 s : State} (e : EccErr) (what : Fin 3) (index : Nat) (hI : Kept F o0 s) (hF : Sub 1107362177 F := by first | with_reducible assumption | exact Sub.mono (by with_reducible assumption) (by decide)) : OutKept F o0 (execSpecStateUe e what index s) := by
  unfold execSpecStateUe
  repeat' first
    | with_reducible assumption | (with_reducible exact Sub.mono hF (by decide))
    | ((with_reducible refine FrameU.mk fun p hp => ?_); cases p <;> first | exact absurd hp (by decide) | exact rfl | exact trivial | exact ⟨rfl, rfl⟩)
    | with_reducible apply st_inc_kept | with_reducible apply st_flag_kept | with_reducible apply post_kept
    | with_reducible apply specReset_kept | with_reducible apply kept_next | with_reducible apply kept_ite | split

theorem specSwap_kept {F : Nat} {o0 s : State} (old : Option Image) (new : Option Image) (hI : Kept F o0 s) (hF : Sub 65536 F := by first | with_reducible assumption | exact Sub.mono (by with_reducible assumption) (by decide)) : Kept F o0 (specSwap old new s) := by
  unfold specSwap
  repeat' first
    | with_reducible assumption | (with_reducible exact Sub.mono hF (by decide))
    | ((with_reducible refine FrameU.mk fun p hp => ?_); cases p <;> first | exact absurd hp (by decide) | exact rfl | exact trivial | exact ⟨rfl, rfl⟩)
    | with_reducible apply st_setSpec_kept

end Sys2Proof.Machine
end

