-- ==== Sys2Proof/Laws/KeptPair.lean ====
section
/-!
SUPPORT. What Machine/Pair.lean keeps of a state: one lemma per operation.
-/

namespace Sys2Proof.Machine

set_option linter.all false
set_option Elab.async false

theorem execHello_kept {F : Nat} {o0 s : State} (nonce : Nat) (digest : Nat) (_serial : Nat) (hI : Kept F o0 s) (hF : Sub 6632549384577 F := by first | with_reducible assumption | exact Sub.mono (by with_reducible assumption) (by decide)) : OutKept F o0 (execHello nonce digest _serial s) := by
  unfold execHello
  repeat' first
    | with_reducible assumption | (with_reducible exact Sub.mono hF (by decide))
    | ((with_reducible refine FrameU.mk fun p hp => ?_); cases p <;> first | exact absurd hp (by decide) | exact rfl | exact trivial | exact ⟨rfl, rfl⟩)
    | with_reducible apply st_flag_kept | with_reducible apply st_nextFree_kept | with_reducible apply st_setPair_kept
    | with_reducible apply st_pairEmit_kept | with_reducible apply sendHello_kept | with_reducible apply linkLost_kept
    | with_reducible apply spendUse_kept | with_reducible apply kept_next | with_reducible apply kept_ite
    | (with_reducible refine kept_foldl ?_ (fun _ _ _ => ?_)) | (intro _) | split | dsimp only
    | fail_if_no_progress with_reducible refine kept_upd 6632549384577 ?_ rfl rfl rfl ?_ hF

theorem laneHeard_kept {F : Nat} {o0 s : State} (lane : Fin 2) (hI : Kept F o0 s) (hF : Sub 4194305 F := by first | with_reducible assumption | exact Sub.mono (by with_reducible assumption) (by decide)) : Kept F o0 (laneHeard lane s) := by
  unfold laneHeard
  repeat' first
    | with_reducible assumption | (with_reducible exact Sub.mono hF (by decide))
    | ((with_reducible refine FrameU.mk fun p hp => ?_); cases p <;> first | exact absurd hp (by decide) | exact rfl | exact trivial | exact ⟨rfl, rfl⟩)
    | with_reducible apply st_wrB_kept | with_reducible apply st_setPair_kept | with_reducible apply kept_ite

theorem mismatch_kept {F : Nat} {o0 s : State} (digest : Nat) (hI : Kept F o0 s) (hF : Sub 1107296641 F := by first | with_reducible assumption | exact Sub.mono (by with_reducible assumption) (by decide)) : Kept F o0 (mismatch digest s) := by
  unfold mismatch
  repeat' first
    | with_reducible assumption | (with_reducible exact Sub.mono hF (by decide))
    | ((with_reducible refine FrameU.mk fun p hp => ?_); cases p <;> first | exact absurd hp (by decide) | exact rfl | exact trivial | exact ⟨rfl, rfl⟩)
    | with_reducible apply st_flag_kept | with_reducible apply post_kept | with_reducible apply setRole_kept

theorem execAuth_kept {F : Nat} {o0 s : State} (lane : Fin 2) (mac : Nat) (hI : Kept F o0 s) (hF : Sub 1111490945 F := by first | with_reducible assumption | exact Sub.mono (by with_reducible assumption) (by decide)) : OutKept F o0 (execAuth lane mac s) := by
  unfold execAuth
  repeat' first
    | with_reducible assumption | (with_reducible exact Sub.mono hF (by decide))
    | ((with_reducible refine FrameU.mk fun p hp => ?_); cases p <;> first | exact absurd hp (by decide) | exact rfl | exact trivial | exact ⟨rfl, rfl⟩)
    | with_reducible apply st_inc_kept | with_reducible apply st_wrB_kept | with_reducible apply post_kept
    | with_reducible apply st_setPair_kept | with_reducible apply setRole_kept | with_reducible apply laneHeard_kept
    | with_reducible apply mismatch_kept | with_reducible apply kept_next | with_reducible apply kept_ite
    | (with_reducible refine kept_foldl ?_ (fun _ _ _ => ?_)) | (intro _) | split | dsimp only
    | fail_if_no_progress with_reducible refine kept_upd 1111490945 ?_ rfl rfl rfl ?_ hF

theorem pairRx_kept {F : Nat} {o0 s : State} (m : PairMsg) (act : State → State) (hact : ∀ x0, Kept F o0 x0 → Kept F o0 (act x0)) (hI : Kept F o0 s) (hF : Sub 4194305 F := by first | with_reducible assumption | exact Sub.mono (by with_reducible assumption) (by decide)) : Kept F o0 (pairRx m act s) := by
  unfold pairRx
  repeat' first
    | with_reducible assumption | with_reducible apply hact | (with_reducible exact Sub.mono hF (by decide))
    | ((with_reducible refine FrameU.mk fun p hp => ?_); cases p <;> first | exact absurd hp (by decide) | exact rfl | exact trivial | exact ⟨rfl, rfl⟩)
    | with_reducible apply st_wr_kept | with_reducible apply st_inc_kept | with_reducible apply st_setPair_kept
    | with_reducible apply laneHeard_kept | with_reducible apply kept_ite | (intro _) | split | dsimp only
    | fail_if_no_progress with_reducible refine kept_upd 4194305 ?_ rfl rfl rfl ?_ hF

theorem takeNext_kept {F : Nat} {o0 s : State}  (hI : Kept F o0 s) (hF : Sub 4194304 F := by first | with_reducible assumption | exact Sub.mono (by with_reducible assumption) (by decide)) : Kept F o0 (takeNext s) := by
  unfold takeNext
  repeat' first
    | with_reducible assumption | (with_reducible exact Sub.mono hF (by decide))
    | ((with_reducible refine FrameU.mk fun p hp => ?_); cases p <;> first | exact absurd hp (by decide) | exact rfl | exact trivial | exact ⟨rfl, rfl⟩)
    | with_reducible apply st_setPair_kept

theorem declined_kept {F : Nat} {o0 s : State}  (hI : Kept F o0 s) (hF : Sub 1107296641 F := by first | with_reducible assumption | exact Sub.mono (by with_reducible assumption) (by decide)) : Kept F o0 (declined s) := by
  unfold declined
  repeat' first
    | with_reducible assumption | (with_reducible exact Sub.mono hF (by decide))
    | ((with_reducible refine FrameU.mk fun p hp => ?_); cases p <;> first | exact absurd hp (by decide) | exact rfl | exact trivial | exact ⟨rfl, rfl⟩)
    | with_reducible apply st_flag_kept | with_reducible apply post_kept

theorem abdicationIn_kept {F : Nat} {o0 s : State} (cause : Option Nat) (hI : Kept F o0 s) (hF : Sub 1111490945 F := by first | with_reducible assumption | exact Sub.mono (by with_reducible assumption) (by decide)) : Kept F o0 (abdicationIn cause s) := by
  unfold abdicationIn
  repeat' first
    | with_reducible assumption | (with_reducible exact Sub.mono hF (by decide))
    | ((with_reducible refine FrameU.mk fun p hp => ?_); cases p <;> first | exact absurd hp (by decide) | exact rfl | exact trivial | exact ⟨rfl, rfl⟩)
    | with_reducible apply st_wr_kept | with_reducible apply st_setPair_kept | with_reducible apply joinFail_kept
    | with_reducible apply takeNext_kept | with_reducible apply declined_kept | with_reducible apply kept_ite
    | (with_reducible refine kept_foldl ?_ (fun _ _ _ => ?_)) | (intro _) | split | dsimp only
    | fail_if_no_progress with_reducible refine kept_upd 1111490945 ?_ rfl rfl rfl ?_ hF

theorem becomeActive_kept {F : Nat} {o0 s : State} (j : Nat) (hI : Kept F o0 s) (hF : Sub 4399293530513 F := by first | with_reducible assumption | exact Sub.mono (by with_reducible assumption) (by decide)) : Kept F o0 (becomeActive j s) := by
  unfold becomeActive
  repeat' first
    | with_reducible assumption | (with_reducible exact Sub.mono hF (by decide))
    | ((with_reducible refine FrameU.mk fun p hp => ?_); cases p <;> first | exact absurd hp (by decide) | exact rfl | exact trivial | exact ⟨rfl, rfl⟩)
    | with_reducible apply st_inc_kept | with_reducible apply st_flag_kept | with_reducible apply st_wr64_kept
    | with_reducible apply post_kept | with_reducible apply st_setPair_kept | with_reducible apply setRole_kept
    | with_reducible apply st_setGooseSt_kept | with_reducible apply gooseChange_kept | with_reducible apply driveContacts_kept
    | with_reducible apply kept_ite | (with_reducible refine kept_foldl ?_ (fun _ _ _ => ?_)) | (intro _) | split | dsimp only
    | fail_if_no_progress with_reducible refine kept_upd 4399293530513 ?_ rfl rfl rfl ?_ hF

theorem handOver_kept {F : Nat} {o0 s : State} (j : Nat) (hI : Kept F o0 s) (hF : Sub 4398185709569 F := by first | with_reducible assumption | exact Sub.mono (by with_reducible assumption) (by decide)) : Kept F o0 (handOver j s) := by
  unfold handOver
  repeat' first
    | with_reducible assumption | (with_reducible exact Sub.mono hF (by decide))
    | ((with_reducible refine FrameU.mk fun p hp => ?_); cases p <;> first | exact absurd hp (by decide) | exact rfl | exact trivial | exact ⟨rfl, rfl⟩)
    | with_reducible apply st_wr_kept | with_reducible apply st_wr64_kept | with_reducible apply st_setPair_kept
    | with_reducible apply setRole_kept | with_reducible apply releaseAuthority_kept

theorem startHandover_kept {F : Nat} {o0 s : State}  (hI : Kept F o0 s) (hF : Sub 4399158002049 F := by first | with_reducible assumption | exact Sub.mono (by with_reducible assumption) (by decide)) : Kept F o0 (startHandover s).2 := by
  unfold startHandover
  repeat' first
    | with_reducible assumption | (with_reducible exact Sub.mono hF (by decide))
    | ((with_reducible refine FrameU.mk fun p hp => ?_); cases p <;> first | exact absurd hp (by decide) | exact rfl | exact trivial | exact ⟨rfl, rfl⟩)
    | with_reducible apply post_kept | with_reducible apply st_setPair_kept | with_reducible apply st_pairSend_kept

theorem startHandover_kept_eq {F : Nat} {o0 s : State} {y0 y1}  (hI : Kept F o0 s) (hF : Sub 4399158002049 F := by first | with_reducible assumption | exact Sub.mono (by with_reducible assumption) (by decide)) (e : startHandover s = (y0, y1)) : Kept F o0 y1 := by
  have h2 := startHandover_kept hI
  rw [e] at h2; exact h2

theorem startJoin_kept {F : Nat} {o0 s : State}  (hI : Kept F o0 s) (hF : Sub 4536596955521 F := by first | with_reducible assumption | exact Sub.mono (by with_reducible assumption) (by decide)) : Kept F o0 (startJoin s) := by
  unfold startJoin
  repeat' first
    | with_reducible assumption | (with_reducible exact Sub.mono hF (by decide))
    | ((with_reducible refine FrameU.mk fun p hp => ?_); cases p <;> first | exact absurd hp (by decide) | exact rfl | exact trivial | exact ⟨rfl, rfl⟩)
    | with_reducible apply post_kept | with_reducible apply st_setPair_kept | with_reducible apply st_pairSend_kept
    | with_reducible apply kept_ite | (with_reducible refine kept_foldl ?_ (fun _ _ _ => ?_)) | (intro _) | split | dsimp only
    | fail_if_no_progress with_reducible refine kept_upd 4536596955521 ?_ rfl rfl rfl ?_ hF

theorem sendBlock_kept {F : Nat} {o0 s : State} (epoch : Nat) (id : Nat) (data : Bytes) (hI : Kept F o0 s) (hF : Sub 4398050705408 F := by first | with_reducible assumption | exact Sub.mono (by with_reducible assumption) (by decide)) : Kept F o0 (sendBlock epoch id data s) := by
  unfold sendBlock
  repeat' first
    | with_reducible assumption | (with_reducible exact Sub.mono hF (by decide))
    | ((with_reducible refine FrameU.mk fun p hp => ?_); cases p <;> first | exact absurd hp (by decide) | exact rfl | exact trivial | exact ⟨rfl, rfl⟩)
    | with_reducible apply st_pairSend_kept | with_reducible apply kept_ite
    | (with_reducible refine kept_foldl ?_ (fun _ _ _ => ?_)) | (intro _) | split | dsimp only
    | fail_if_no_progress with_reducible refine kept_upd 4398050705408 ?_ rfl rfl rfl ?_ hF

theorem sendEnd_kept {F : Nat} {o0 s : State} (epoch : Nat) (count : Nat) (crc : Nat) (hI : Kept F o0 s) (hF : Sub 4398050705408 F := by first | with_reducible assumption | exact Sub.mono (by with_reducible assumption) (by decide)) : Kept F o0 (sendEnd epoch count crc s) := by
  unfold sendEnd
  repeat' first
    | with_reducible assumption | (with_reducible exact Sub.mono hF (by decide))
    | ((with_reducible refine FrameU.mk fun p hp => ?_); cases p <;> first | exact absurd hp (by decide) | exact rfl | exact trivial | exact ⟨rfl, rfl⟩)
    | with_reducible apply st_pairSend_kept

theorem sendCopy_kept {F : Nat} {o0 s : State} (j : Join) (hI : Kept F o0 s) (hF : Sub 4398050705408 F := by first | with_reducible assumption | exact Sub.mono (by with_reducible assumption) (by decide)) : Kept F o0 (sendCopy j s) := by
  unfold sendCopy
  repeat' first
    | with_reducible assumption | (with_reducible exact Sub.mono hF (by decide))
    | ((with_reducible refine FrameU.mk fun p hp => ?_); cases p <;> first | exact absurd hp (by decide) | exact rfl | exact trivial | exact ⟨rfl, rfl⟩)
    | with_reducible apply st_setPair_kept | with_reducible apply sendBlock_kept | with_reducible apply sendEnd_kept
    | with_reducible apply kept_ite | (with_reducible refine kept_foldl ?_ (fun _ _ _ => ?_)) | (intro _) | split | dsimp only
    | fail_if_no_progress with_reducible refine kept_upd 4398050705408 ?_ rfl rfl rfl ?_ hF

theorem instanceDone_kept {F : Nat} {o0 s : State} (n : Nat) (hI : Kept F o0 s) (hF : Sub 4398051229696 F := by first | with_reducible assumption | exact Sub.mono (by with_reducible assumption) (by decide)) : Kept F o0 (instanceDone n s) := by
  unfold instanceDone
  repeat' first
    | with_reducible assumption | (with_reducible exact Sub.mono hF (by decide))
    | ((with_reducible refine FrameU.mk fun p hp => ?_); cases p <;> first | exact absurd hp (by decide) | exact rfl | exact trivial | exact ⟨rfl, rfl⟩)
    | with_reducible apply st_setPair_kept | with_reducible apply st_setAcc_kept | with_reducible apply sendCopy_kept
    | with_reducible apply kept_ite | (with_reducible refine kept_foldl ?_ (fun _ _ _ => ?_)) | (intro _) | split | dsimp only
    | fail_if_no_progress with_reducible refine kept_upd 4398051229696 ?_ rfl rfl rfl ?_ hF

theorem instancesDone_kept {F : Nat} {o0 s : State} (old : State) (hI : Kept F o0 s) (hF : Sub 4398051229696 F := by first | with_reducible assumption | exact Sub.mono (by with_reducible assumption) (by decide)) : Kept F o0 (instancesDone old s) :=
  kept_foldl hI fun _ _ h => instanceDone_kept _ h

theorem applyBlock_kept {F : Nat} {o0 s : State} (c : Nat) (k : Nat) (o : OwnAtC) (b : CopyBlock) (hI : Kept F o0 s) (hF : Sub 1113407873 F := by first | with_reducible assumption | exact Sub.mono (by with_reducible assumption) (by decide)) : Kept F o0 (applyBlock c k o b s) := by
  unfold applyBlock
  repeat' first
    | with_reducible assumption | (with_reducible exact Sub.mono hF (by decide))
    | ((with_reducible refine FrameU.mk fun p hp => ?_); cases p <;> first | exact absurd hp (by decide) | exact rfl | exact trivial | exact ⟨rfl, rfl⟩)
    | with_reducible apply seqSkip_kept | with_reducible apply st_setPair_kept | with_reducible apply st_setOutSt_kept
    | with_reducible apply st_setPgh_kept | with_reducible apply st_setAlmSt_kept | with_reducible apply inhNote_kept
    | with_reducible apply st_setGooseSt_kept | with_reducible apply st_setAcc_kept | with_reducible apply st_setSpec_kept
    | with_reducible apply kept_ite | (with_reducible refine kept_foldl ?_ (fun _ _ _ => ?_)) | (intro _) | split | dsimp only
    | fail_if_no_progress with_reducible refine kept_upd 1113407873 ?_ rfl rfl rfl ?_ hF

theorem joinAt_kept {F : Nat} {o0 s : State} (n : Nat) (hI : Kept F o0 s) (hF : Sub 207271838081 F := by first | with_reducible assumption | exact Sub.mono (by with_reducible assumption) (by decide)) : Kept F o0 (joinAt n s) := by
  unfold joinAt
  repeat' first
    | with_reducible assumption | (with_reducible exact Sub.mono hF (by decide))
    | ((with_reducible refine FrameU.mk fun p hp => ?_); cases p <;> first | exact absurd hp (by decide) | exact rfl | exact trivial | exact ⟨rfl, rfl⟩)
    | with_reducible apply st_wr_kept | with_reducible apply st_wrB_kept | with_reducible apply st_wr64_kept
    | with_reducible apply post_kept | with_reducible apply st_setPair_kept | with_reducible apply setRole_kept
    | with_reducible apply applyBlock_kept | with_reducible apply kept_ite | (with_reducible refine kept_foldl ?_ (fun _ _ _ => ?_))
    | (intro _) | split | dsimp only | fail_if_no_progress with_reducible refine kept_upd 207271838081 ?_ rfl rfl rfl ?_ hF

theorem joinSwap_kept {F : Nat} {o0 s : State}  (hI : Kept F o0 s) (hF : Sub 1111490945 F := by first | with_reducible assumption | exact Sub.mono (by with_reducible assumption) (by decide)) : Kept F o0 (joinSwap s) := by
  unfold joinSwap
  repeat' first
    | with_reducible assumption | (with_reducible exact Sub.mono hF (by decide))
    | ((with_reducible refine FrameU.mk fun p hp => ?_); cases p <;> first | exact absurd hp (by decide) | exact rfl | exact trivial | exact ⟨rfl, rfl⟩)
    | with_reducible apply st_setPair_kept | with_reducible apply joinFail_kept | with_reducible apply kept_ite
    | (with_reducible refine kept_foldl ?_ (fun _ _ _ => ?_)) | (intro _) | split | dsimp only
    | fail_if_no_progress with_reducible refine kept_upd 1111490945 ?_ rfl rfl rfl ?_ hF

theorem pairTick_kept {F : Nat} {o0 s : State} (n : Nat) (hI : Kept F o0 s) (hF : Sub 4399294054801 F := by first | with_reducible assumption | exact Sub.mono (by with_reducible assumption) (by decide)) : Kept F o0 (pairTick n s) := by
  unfold pairTick
  repeat' first
    | with_reducible assumption | (with_reducible exact Sub.mono hF (by decide))
    | ((with_reducible refine FrameU.mk fun p hp => ?_); cases p <;> first | exact absurd hp (by decide) | exact rfl | exact trivial | exact ⟨rfl, rfl⟩)
    | with_reducible apply st_setPair_kept | with_reducible apply st_pairSend_kept | with_reducible apply becomeActive_kept
    | with_reducible apply handOver_kept | with_reducible apply kept_ite | (with_reducible refine kept_foldl ?_ (fun _ _ _ => ?_))
    | (intro _) | split | dsimp only | fail_if_no_progress with_reducible refine kept_upd 4399294054801 ?_ rfl rfl rfl ?_ hF

theorem hbLane_kept {F : Nat} {o0 s : State} (m : PairMsg) (hI : Kept F o0 s) (hF : Sub 4194305 F := by first | with_reducible assumption | exact Sub.mono (by with_reducible assumption) (by decide)) : Kept F o0 (hbLane m s) := by
  unfold hbLane
  repeat' first
    | with_reducible assumption | (with_reducible exact Sub.mono hF (by decide))
    | ((with_reducible refine FrameU.mk fun p hp => ?_); cases p <;> first | exact absurd hp (by decide) | exact rfl | exact trivial | exact ⟨rfl, rfl⟩)
    | with_reducible apply st_inc_kept | with_reducible apply st_setPair_kept | with_reducible apply kept_ite | split | dsimp only
    | fail_if_no_progress with_reducible refine kept_upd 4194305 ?_ rfl rfl rfl ?_ hF

theorem seekingHeard_kept {F : Nat} {o0 s : State}  (hI : Kept F o0 s) (hF : Sub 1111490945 F := by first | with_reducible assumption | exact Sub.mono (by with_reducible assumption) (by decide)) : Kept F o0 (seekingHeard s) := by
  unfold seekingHeard
  repeat' first
    | with_reducible assumption | (with_reducible exact Sub.mono hF (by decide))
    | ((with_reducible refine FrameU.mk fun p hp => ?_); cases p <;> first | exact absurd hp (by decide) | exact rfl | exact trivial | exact ⟨rfl, rfl⟩)
    | with_reducible apply setRole_kept | with_reducible apply mismatch_kept | with_reducible apply takeNext_kept
    | with_reducible apply kept_ite | split | dsimp only
    | fail_if_no_progress with_reducible refine kept_upd 1111490945 ?_ rfl rfl rfl ?_ hF

theorem dualResolve_kept {F : Nat} {o0 s : State}  (hI : Kept F o0 s) (hF : Sub 4399293006209 F := by first | with_reducible assumption | exact Sub.mono (by with_reducible assumption) (by decide)) : Kept F o0 (dualResolve s) := by
  unfold dualResolve
  repeat' first
    | with_reducible assumption | (with_reducible exact Sub.mono hF (by decide))
    | ((with_reducible refine FrameU.mk fun p hp => ?_); cases p <;> first | exact absurd hp (by decide) | exact rfl | exact trivial | exact ⟨rfl, rfl⟩)
    | with_reducible apply st_flag_kept | with_reducible apply st_wr64_kept | with_reducible apply post_kept
    | with_reducible apply st_setPair_kept | with_reducible apply setRole_kept | with_reducible apply releaseAuthority_kept

theorem copyComplete_kept {F : Nat} {o0 s : State}  (hI : Kept F o0 s) (hF : Sub 68719476737 F := by first | with_reducible assumption | exact Sub.mono (by with_reducible assumption) (by decide)) : Kept F o0 (copyComplete s) := by
  unfold copyComplete
  repeat' first
    | with_reducible assumption | (with_reducible exact Sub.mono hF (by decide))
    | ((with_reducible refine FrameU.mk fun p hp => ?_); cases p <;> first | exact absurd hp (by decide) | exact rfl | exact trivial | exact ⟨rfl, rfl⟩)
    | with_reducible apply st_wr64_kept | with_reducible apply kept_ite | split | dsimp only
    | fail_if_no_progress with_reducible refine kept_upd 68719476737 ?_ rfl rfl rfl ?_ hF

theorem activeHeard_kept {F : Nat} {o0 s : State}  (hI : Kept F o0 s) (hF : Sub 4605451436417 F := by first | with_reducible assumption | exact Sub.mono (by with_reducible assumption) (by decide)) : Kept F o0 (activeHeard s) := by
  unfold activeHeard
  repeat' first
    | with_reducible assumption | (with_reducible exact Sub.mono hF (by decide))
    | ((with_reducible refine FrameU.mk fun p hp => ?_); cases p <;> first | exact absurd hp (by decide) | exact rfl | exact trivial | exact ⟨rfl, rfl⟩)
    | with_reducible apply st_setPair_kept | with_reducible apply startJoin_kept | with_reducible apply dualResolve_kept
    | with_reducible apply copyComplete_kept | with_reducible apply kept_ite
    | (with_reducible refine kept_foldl ?_ (fun _ _ _ => ?_)) | (intro _) | split | dsimp only
    | fail_if_no_progress with_reducible refine kept_upd 4605451436417 ?_ rfl rfl rfl ?_ hF

theorem heartbeatIn_kept {F : Nat} {o0 s : State} (h : Heartbeat) (hI : Kept F o0 s) (hF : Sub 4605451436417 F := by first | with_reducible assumption | exact Sub.mono (by with_reducible assumption) (by decide)) : Kept F o0 (heartbeatIn h s) := by
  unfold heartbeatIn
  repeat' first
    | with_reducible assumption | (with_reducible exact Sub.mono hF (by decide))
    | ((with_reducible refine FrameU.mk fun p hp => ?_); cases p <;> first | exact absurd hp (by decide) | exact rfl | exact trivial | exact ⟨rfl, rfl⟩)
    | with_reducible apply st_wr_kept | with_reducible apply st_wrB_kept | with_reducible apply st_setPair_kept
    | with_reducible apply joinFail_kept | with_reducible apply st_setAcc_kept | with_reducible apply seekingHeard_kept
    | with_reducible apply activeHeard_kept | with_reducible apply kept_ite | split | dsimp only
    | fail_if_no_progress with_reducible refine kept_upd 4605451436417 ?_ rfl rfl rfl ?_ hF

theorem execHeartbeat_kept {F : Nat} {o0 s : State} (m : PairMsg) (h : Heartbeat) (hI : Kept F o0 s) (hF : Sub 4605451436417 F := by first | with_reducible assumption | exact Sub.mono (by with_reducible assumption) (by decide)) : OutKept F o0 (execHeartbeat m h s) := by
  unfold execHeartbeat
  repeat' first
    | with_reducible assumption | (with_reducible exact Sub.mono hF (by decide))
    | ((with_reducible refine FrameU.mk fun p hp => ?_); cases p <;> first | exact absurd hp (by decide) | exact rfl | exact trivial | exact ⟨rfl, rfl⟩)
    | with_reducible apply pairRx_kept | with_reducible apply hbLane_kept | with_reducible apply heartbeatIn_kept
    | with_reducible apply kept_next | with_reducible apply kept_ite | (intro _) | split | dsimp only
    | fail_if_no_progress with_reducible refine kept_upd 4605451436417 ?_ rfl rfl rfl ?_ hF

theorem execAbdicate_kept {F : Nat} {o0 s : State} (m : PairMsg) (cause : Nat) (_instant : Nat) (hI : Kept F o0 s) (hF : Sub 1111490945 F := by first | with_reducible assumption | exact Sub.mono (by with_reducible assumption) (by decide)) : OutKept F o0 (execAbdicate m cause _instant s) := by
  unfold execAbdicate
  repeat' first
    | with_reducible assumption | (with_reducible exact Sub.mono hF (by decide))
    | ((with_reducible refine FrameU.mk fun p hp => ?_); cases p <;> first | exact absurd hp (by decide) | exact rfl | exact trivial | exact ⟨rfl, rfl⟩)
    | with_reducible apply pairRx_kept | with_reducible apply abdicationIn_kept | with_reducible apply kept_next | (intro _)

theorem execHandover_kept {F : Nat} {o0 s : State} (m : PairMsg) (j : Nat) (hI : Kept F o0 s) (hF : Sub 1111490945 F := by first | with_reducible assumption | exact Sub.mono (by with_reducible assumption) (by decide)) : OutKept F o0 (execHandover m j s) := by
  unfold execHandover
  repeat' first
    | with_reducible assumption | (with_reducible exact Sub.mono hF (by decide))
    | ((with_reducible refine FrameU.mk fun p hp => ?_); cases p <;> first | exact absurd hp (by decide) | exact rfl | exact trivial | exact ⟨rfl, rfl⟩)
    | with_reducible apply st_wr_kept | with_reducible apply post_kept | with_reducible apply st_setPair_kept
    | with_reducible apply pairRx_kept | with_reducible apply kept_next | with_reducible apply kept_ite | (intro _) | split
    | dsimp only | fail_if_no_progress with_reducible refine kept_upd 1111490945 ?_ rfl rfl rfl ?_ hF

theorem execPrepare_kept {F : Nat} {o0 s : State} (m : PairMsg) (epoch : Nat) (c : Nat) (hI : Kept F o0 s) (hF : Sub 1111490945 F := by first | with_reducible assumption | exact Sub.mono (by with_reducible assumption) (by decide)) : OutKept F o0 (execPrepare m epoch c s) := by
  unfold execPrepare
  repeat' first
    | with_reducible assumption | (with_reducible exact Sub.mono hF (by decide))
    | ((with_reducible refine FrameU.mk fun p hp => ?_); cases p <;> first | exact absurd hp (by decide) | exact rfl | exact trivial | exact ⟨rfl, rfl⟩)
    | with_reducible apply st_setPair_kept | with_reducible apply joinFail_kept | with_reducible apply pairRx_kept
    | with_reducible apply kept_next | with_reducible apply kept_ite | (intro _) | split | dsimp only
    | fail_if_no_progress with_reducible refine kept_upd 1111490945 ?_ rfl rfl rfl ?_ hF

theorem execBlock_kept {F : Nat} {o0 s : State} (m : PairMsg) (epoch : Nat) (id : Nat) (b : CopyBlock) (crcOk : Bool) (hI : Kept F o0 s) (hF : Sub 4194305 F := by first | with_reducible assumption | exact Sub.mono (by with_reducible assumption) (by decide)) : OutKept F o0 (execBlock m epoch id b crcOk s) := by
  unfold execBlock
  repeat' first
    | with_reducible assumption | (with_reducible exact Sub.mono hF (by decide))
    | ((with_reducible refine FrameU.mk fun p hp => ?_); cases p <;> first | exact absurd hp (by decide) | exact rfl | exact trivial | exact ⟨rfl, rfl⟩)
    | with_reducible apply st_setPair_kept | with_reducible apply pairRx_kept | with_reducible apply kept_next
    | with_reducible apply kept_ite | (with_reducible refine kept_foldl ?_ (fun _ _ _ => ?_)) | (intro _) | split | dsimp only
    | fail_if_no_progress with_reducible refine kept_upd 4194305 ?_ rfl rfl rfl ?_ hF

theorem endIn_kept {F : Nat} {o0 s : State} (epoch : Nat) (count : Nat) (crcOk : Bool) (j : Join) (hI : Kept F o0 s) (hF : Sub 4399158002049 F := by first | with_reducible assumption | exact Sub.mono (by with_reducible assumption) (by decide)) : Kept F o0 (endIn epoch count crcOk j s) := by
  unfold endIn
  repeat' first
    | with_reducible assumption | (with_reducible exact Sub.mono hF (by decide))
    | ((with_reducible refine FrameU.mk fun p hp => ?_); cases p <;> first | exact absurd hp (by decide) | exact rfl | exact trivial | exact ⟨rfl, rfl⟩)
    | with_reducible apply st_setPair_kept | with_reducible apply joinFail_kept | with_reducible apply sendEnd_kept
    | with_reducible apply kept_ite | split | dsimp only
    | fail_if_no_progress with_reducible refine kept_upd 4399158002049 ?_ rfl rfl rfl ?_ hF

theorem readyIn_kept {F : Nat} {o0 s : State} (epoch : Nat) (count : Nat) (j : Join) (hI : Kept F o0 s) (hF : Sub 4398050705408 F := by first | with_reducible assumption | exact Sub.mono (by with_reducible assumption) (by decide)) : Kept F o0 (readyIn epoch count j s) := by
  unfold readyIn
  repeat' first
    | with_reducible assumption | (with_reducible exact Sub.mono hF (by decide))
    | ((with_reducible refine FrameU.mk fun p hp => ?_); cases p <;> first | exact absurd hp (by decide) | exact rfl | exact trivial | exact ⟨rfl, rfl⟩)
    | with_reducible apply st_setPair_kept | with_reducible apply st_pairSend_kept | with_reducible apply sendCopy_kept
    | with_reducible apply kept_ite | split | dsimp only
    | fail_if_no_progress with_reducible refine kept_upd 4398050705408 ?_ rfl rfl rfl ?_ hF

theorem execEndReady_kept {F : Nat} {o0 s : State} (m : PairMsg) (epoch : Nat) (count : Nat) (crcOk : Bool) (hI : Kept F o0 s) (hF : Sub 4399158002049 F := by first | with_reducible assumption | exact Sub.mono (by with_reducible assumption) (by decide)) : OutKept F o0 (execEndReady m epoch count crcOk s) := by
  unfold execEndReady
  repeat' first
    | with_reducible assumption | (with_reducible exact Sub.mono hF (by decide))
    | ((with_reducible refine FrameU.mk fun p hp => ?_); cases p <;> first | exact absurd hp (by decide) | exact rfl | exact trivial | exact ⟨rfl, rfl⟩)
    | with_reducible apply pairRx_kept | with_reducible apply endIn_kept | with_reducible apply readyIn_kept
    | with_reducible apply kept_next | with_reducible apply kept_ite | (with_reducible refine kept_foldl ?_ (fun _ _ _ => ?_))
    | (intro _) | split | dsimp only | fail_if_no_progress with_reducible refine kept_upd 4399158002049 ?_ rfl rfl rfl ?_ hF

theorem execCommit_kept {F : Nat} {o0 s : State} (m : PairMsg) (epoch : Nat) (k : Nat) (hI : Kept F o0 s) (hF : Sub 1111490945 F := by first | with_reducible assumption | exact Sub.mono (by with_reducible assumption) (by decide)) : OutKept F o0 (execCommit m epoch k s) := by
  unfold execCommit
  repeat' first
    | with_reducible assumption | (with_reducible exact Sub.mono hF (by decide))
    | ((with_reducible refine FrameU.mk fun p hp => ?_); cases p <;> first | exact absurd hp (by decide) | exact rfl | exact trivial | exact ⟨rfl, rfl⟩)
    | with_reducible apply st_setPair_kept | with_reducible apply joinFail_kept | with_reducible apply pairRx_kept
    | with_reducible apply kept_next | with_reducible apply kept_ite | (with_reducible refine kept_foldl ?_ (fun _ _ _ => ?_))
    | (intro _) | split | dsimp only | fail_if_no_progress with_reducible refine kept_upd 1111490945 ?_ rfl rfl rfl ?_ hF

theorem accSumIn_kept {F : Nat} {o0 s : State} (tick : Nat) (anets : List Nat) (hI : Kept F o0 s) (hF : Sub 1111490945 F := by first | with_reducible assumption | exact Sub.mono (by with_reducible assumption) (by decide)) : Kept F o0 (accSumIn tick anets s) := by
  unfold accSumIn
  repeat' first
    | with_reducible assumption | (with_reducible exact Sub.mono hF (by decide))
    | ((with_reducible refine FrameU.mk fun p hp => ?_); cases p <;> first | exact absurd hp (by decide) | exact rfl | exact trivial | exact ⟨rfl, rfl⟩)
    | with_reducible apply st_flag_kept | with_reducible apply post_kept | with_reducible apply st_setPair_kept
    | with_reducible apply kept_ite | (with_reducible refine kept_foldl ?_ (fun _ _ _ => ?_)) | (intro _) | split | dsimp only
    | fail_if_no_progress with_reducible refine kept_upd 1111490945 ?_ rfl rfl rfl ?_ hF

theorem execAccSum_kept {F : Nat} {o0 s : State} (m : PairMsg) (tick : Nat) (anets : List Nat) (hI : Kept F o0 s) (hF : Sub 1111490945 F := by first | with_reducible assumption | exact Sub.mono (by with_reducible assumption) (by decide)) : OutKept F o0 (execAccSum m tick anets s) := by
  unfold execAccSum
  repeat' first
    | with_reducible assumption | (with_reducible exact Sub.mono hF (by decide))
    | ((with_reducible refine FrameU.mk fun p hp => ?_); cases p <;> first | exact absurd hp (by decide) | exact rfl | exact trivial | exact ⟨rfl, rfl⟩)
    | with_reducible apply pairRx_kept | with_reducible apply accSumIn_kept | with_reducible apply kept_next | (intro _)

theorem pairAccSelect_kept {F : Nat} {o0 s : State} (v : Nat) (hI : Kept F o0 s) (hF : Sub 1 F := by first | with_reducible assumption | exact Sub.mono (by with_reducible assumption) (by decide)) : Kept F o0 (pairAccSelect v s) := by
  unfold pairAccSelect
  repeat' first
    | with_reducible assumption | (with_reducible exact Sub.mono hF (by decide))
    | ((with_reducible refine FrameU.mk fun p hp => ?_); cases p <;> first | exact absurd hp (by decide) | exact rfl | exact trivial | exact ⟨rfl, rfl⟩)
    | with_reducible apply st_wr_kept | with_reducible apply kept_ite | (with_reducible refine kept_foldl ?_ (fun _ _ _ => ?_))
    | (intro _) | split | dsimp only | fail_if_no_progress with_reducible refine kept_upd 1 ?_ rfl rfl rfl ?_ hF

theorem execPairLaneDown_kept {F : Nat} {o0 s : State} (lane : Fin 2) (hI : Kept F o0 s) (hF : Sub 6598181257601 F := by first | with_reducible assumption | exact Sub.mono (by with_reducible assumption) (by decide)) : OutKept F o0 (execPairLaneDown lane s) := by
  unfold execPairLaneDown
  repeat' first
    | with_reducible assumption | (with_reducible exact Sub.mono hF (by decide))
    | ((with_reducible refine FrameU.mk fun p hp => ?_); cases p <;> first | exact absurd hp (by decide) | exact rfl | exact trivial | exact ⟨rfl, rfl⟩)
    | with_reducible apply st_flag_kept | with_reducible apply st_wrB_kept | with_reducible apply post_kept
    | with_reducible apply st_setPair_kept | with_reducible apply linkLost_kept | with_reducible apply kept_next
    | with_reducible apply kept_ite | split | dsimp only
    | fail_if_no_progress with_reducible refine kept_upd 6598181257601 ?_ rfl rfl rfl ?_ hF

theorem execPairAbdNFall_kept {F : Nat} {o0 s : State}  (hI : Kept F o0 s) (hF : Sub 1111490945 F := by first | with_reducible assumption | exact Sub.mono (by with_reducible assumption) (by decide)) : OutKept F o0 (execPairAbdNFall s) := by
  unfold execPairAbdNFall
  repeat' first
    | with_reducible assumption | (with_reducible exact Sub.mono hF (by decide))
    | ((with_reducible refine FrameU.mk fun p hp => ?_); cases p <;> first | exact absurd hp (by decide) | exact rfl | exact trivial | exact ⟨rfl, rfl⟩)
    | with_reducible apply abdicationIn_kept | with_reducible apply kept_next | with_reducible apply kept_ite | split | dsimp only
    | fail_if_no_progress with_reducible refine kept_upd 1111490945 ?_ rfl rfl rfl ?_ hF

theorem execPairAbdNRelease_kept {F : Nat} {o0 s : State}  (hI : Kept F o0 s) (hF : Sub 4398050705410 F := by first | with_reducible assumption | exact Sub.mono (by with_reducible assumption) (by decide)) : OutKept F o0 (execPairAbdNRelease s) := by
  unfold execPairAbdNRelease
  repeat' first
    | with_reducible assumption | (with_reducible exact Sub.mono hF (by decide))
    | ((with_reducible refine FrameU.mk fun p hp => ?_); cases p <;> first | exact absurd hp (by decide) | exact rfl | exact trivial | exact ⟨rfl, rfl⟩)
    | with_reducible apply st_emit_kept | with_reducible apply st_setPair_kept | with_reducible apply kept_next
    | with_reducible apply kept_ite | split | dsimp only
    | fail_if_no_progress with_reducible refine kept_upd 4398050705410 ?_ rfl rfl rfl ?_ hF

theorem execPairWatchdog_kept {F : Nat} {o0 s : State}  (hI : Kept F o0 s) (hF : Sub 4399293006211 F := by first | with_reducible assumption | exact Sub.mono (by with_reducible assumption) (by decide)) : OutKept F o0 (execPairWatchdog s) := by
  unfold execPairWatchdog
  repeat' first
    | with_reducible assumption | (with_reducible exact Sub.mono hF (by decide))
    | ((with_reducible refine FrameU.mk fun p hp => ?_); cases p <;> first | exact absurd hp (by decide) | exact rfl | exact trivial | exact ⟨rfl, rfl⟩)
    | with_reducible apply abdicate_kept | with_reducible apply kept_next | with_reducible apply kept_ite | split | dsimp only
    | fail_if_no_progress with_reducible refine kept_upd 4399293006211 ?_ rfl rfl rfl ?_ hF

theorem execPairWaitExpiry_kept {F : Nat} {o0 s : State}  (hI : Kept F o0 s) (hF : Sub 4194304 F := by first | with_reducible assumption | exact Sub.mono (by with_reducible assumption) (by decide)) : OutKept F o0 (execPairWaitExpiry s) := by
  unfold execPairWaitExpiry
  repeat' first
    | with_reducible assumption | (with_reducible exact Sub.mono hF (by decide))
    | ((with_reducible refine FrameU.mk fun p hp => ?_); cases p <;> first | exact absurd hp (by decide) | exact rfl | exact trivial | exact ⟨rfl, rfl⟩)
    | with_reducible apply takeNext_kept | with_reducible apply kept_next | with_reducible apply kept_ite | split | dsimp only
    | fail_if_no_progress with_reducible refine kept_upd 4194304 ?_ rfl rfl rfl ?_ hF

theorem execYieldRecover_kept {F : Nat} {o0 s : State}  (hI : Kept F o0 s) (hF : Sub 6597073960961 F := by first | with_reducible assumption | exact Sub.mono (by with_reducible assumption) (by decide)) : OutKept F o0 (execYieldRecover s) := by
  unfold execYieldRecover
  repeat' first
    | with_reducible assumption | (with_reducible exact Sub.mono hF (by decide))
    | ((with_reducible refine FrameU.mk fun p hp => ?_); cases p <;> first | exact absurd hp (by decide) | exact rfl | exact trivial | exact ⟨rfl, rfl⟩)
    | with_reducible apply st_setPair_kept | with_reducible apply setRole_kept | with_reducible apply seek_kept
    | with_reducible apply kept_next | with_reducible apply kept_ite | (with_reducible refine kept_foldl ?_ (fun _ _ _ => ?_))
    | (intro _) | split | dsimp only | fail_if_no_progress with_reducible refine kept_upd 6597073960961 ?_ rfl rfl rfl ?_ hF

theorem beginJoin_kept {F : Nat} {o0 s : State}  (hI : Kept F o0 s) (hF : Sub 4194305 F := by first | with_reducible assumption | exact Sub.mono (by with_reducible assumption) (by decide)) : Kept F o0 (beginJoin s) := by
  unfold beginJoin
  repeat' first
    | with_reducible assumption | (with_reducible exact Sub.mono hF (by decide))
    | ((with_reducible refine FrameU.mk fun p hp => ?_); cases p <;> first | exact absurd hp (by decide) | exact rfl | exact trivial | exact ⟨rfl, rfl⟩)
    | with_reducible apply st_setPair_kept | with_reducible apply setRole_kept

theorem execJoinRetry_kept {F : Nat} {o0 s : State}  (hI : Kept F o0 s) (hF : Sub 4194305 F := by first | with_reducible assumption | exact Sub.mono (by with_reducible assumption) (by decide)) : OutKept F o0 (execJoinRetry s) := by
  unfold execJoinRetry
  repeat' first
    | with_reducible assumption | (with_reducible exact Sub.mono hF (by decide))
    | ((with_reducible refine FrameU.mk fun p hp => ?_); cases p <;> first | exact absurd hp (by decide) | exact rfl | exact trivial | exact ⟨rfl, rfl⟩)
    | with_reducible apply beginJoin_kept | with_reducible apply kept_next | with_reducible apply kept_ite | split | dsimp only
    | fail_if_no_progress with_reducible refine kept_upd 4194305 ?_ rfl rfl rfl ?_ hF

theorem execJoinTimeout_kept {F : Nat} {o0 s : State}  (hI : Kept F o0 s) (hF : Sub 1111490945 F := by first | with_reducible assumption | exact Sub.mono (by with_reducible assumption) (by decide)) : OutKept F o0 (execJoinTimeout s) := by
  unfold execJoinTimeout
  repeat' first
    | with_reducible assumption | (with_reducible exact Sub.mono hF (by decide))
    | ((with_reducible refine FrameU.mk fun p hp => ?_); cases p <;> first | exact absurd hp (by decide) | exact rfl | exact trivial | exact ⟨rfl, rfl⟩)
    | with_reducible apply st_setPair_kept | with_reducible apply joinFail_kept | with_reducible apply kept_next
    | with_reducible apply kept_ite | (with_reducible refine kept_foldl ?_ (fun _ _ _ => ?_)) | (intro _) | split | dsimp only
    | fail_if_no_progress with_reducible refine kept_upd 1111490945 ?_ rfl rfl rfl ?_ hF

end Sys2Proof.Machine
end

