-- ==== Sys2Proof/Laws/KeptSnareRows.lean ====
section
/-!
SUPPORT. What Machine/SnareRows.lean keeps of a state: one lemma per operation.
-/

namespace Sys2Proof.Machine

set_option linter.all false
set_option Elab.async false

theorem st_setSnr_kept {F : Nat} {o0 s : State} (x : Snare) (hI : Kept F o0 s) (hF : Sub 256 F := by first | with_reducible assumption | exact Sub.mono (by with_reducible assumption) (by decide)) : Kept F o0 (State.setSnr s x) := by
  unfold State.setSnr
  repeat' first
    | with_reducible assumption | (with_reducible exact Sub.mono hF (by decide))
    | ((with_reducible refine FrameU.mk fun p hp => ?_); cases p <;> first | exact absurd hp (by decide) | exact rfl | exact trivial | exact ⟨rfl, rfl⟩)
    | with_reducible apply kept_ite | (with_reducible refine kept_foldl ?_ (fun _ _ _ => ?_)) | (intro _) | split | dsimp only
    | fail_if_no_progress with_reducible refine kept_upd 256 ?_ rfl rfl rfl ?_ hF

theorem execSnrPrep_kept {F : Nat} {o0 s : State} (n : Nat) (item : Fin 4096) (hI : Kept F o0 s) (hF : Sub 33024 F := by first | with_reducible assumption | exact Sub.mono (by with_reducible assumption) (by decide)) : OutKept F o0 (execSnrPrep n item s) := by
  unfold execSnrPrep
  repeat' first
    | with_reducible assumption | (with_reducible exact Sub.mono hF (by decide))
    | ((with_reducible refine FrameU.mk fun p hp => ?_); cases p <;> first | exact absurd hp (by decide) | exact rfl | exact trivial | exact ⟨rfl, rfl⟩)
    | with_reducible apply putOut_kept | with_reducible apply st_setSnr_kept | with_reducible apply kept_next
    | with_reducible apply kept_ite | (with_reducible refine kept_foldl ?_ (fun _ _ _ => ?_)) | (intro _) | split | dsimp only
    | fail_if_no_progress with_reducible refine kept_upd 33024 ?_ rfl rfl rfl ?_ hF

theorem snareRetire_kept {F : Nat} {o0 s : State} (n : Nat) (k : Nat) (stale : Bool) (hI : Kept F o0 s) (hF : Sub 33554689 F := by first | with_reducible assumption | exact Sub.mono (by with_reducible assumption) (by decide)) : Kept F o0 (snareRetire n k stale s) := by
  unfold snareRetire
  repeat' first
    | with_reducible assumption | (with_reducible exact Sub.mono hF (by decide))
    | ((with_reducible refine FrameU.mk fun p hp => ?_); cases p <;> first | exact absurd hp (by decide) | exact rfl | exact trivial | exact ⟨rfl, rfl⟩)
    | with_reducible apply st_setSnrDef_kept | with_reducible apply rowLost_kept | with_reducible apply st_setSnr_kept
    | with_reducible apply kept_ite | (with_reducible refine kept_foldl ?_ (fun _ _ _ => ?_)) | (intro _) | split | dsimp only
    | fail_if_no_progress with_reducible refine kept_upd 33554689 ?_ rfl rfl rfl ?_ hF

theorem execSnareRowWrite_kept {F : Nat} {o0 s : State}  (hI : Kept F o0 s) (hF : Sub 2199056810241 F := by first | with_reducible assumption | exact Sub.mono (by with_reducible assumption) (by decide)) : OutKept F o0 (execSnareRowWrite s) := by
  unfold execSnareRowWrite
  repeat' first
    | with_reducible assumption | (with_reducible exact Sub.mono hF (by decide))
    | ((with_reducible refine FrameU.mk fun p hp => ?_); cases p <;> first | exact absurd hp (by decide) | exact rfl | exact trivial | exact ⟨rfl, rfl⟩)
    | with_reducible apply st_wr_kept | with_reducible apply st_ev_kept | with_reducible apply st_eccWrite_kept
    | with_reducible apply st_setSnrDef_kept | with_reducible apply st_setSnr_kept | with_reducible apply kept_next
    | with_reducible apply kept_ite | (with_reducible refine kept_foldl ?_ (fun _ _ _ => ?_)) | (intro _) | split | dsimp only
    | fail_if_no_progress with_reducible refine kept_upd 2199056810241 ?_ rfl rfl rfl ?_ hF

theorem snrClear_kept {F : Nat} {o0 s : State} (k : Nat) (hI : Kept F o0 s) (hF : Sub 257 F := by first | with_reducible assumption | exact Sub.mono (by with_reducible assumption) (by decide)) : Kept F o0 (snrClear k s) := by
  unfold snrClear
  repeat' first
    | with_reducible assumption | (with_reducible exact Sub.mono hF (by decide))
    | ((with_reducible refine FrameU.mk fun p hp => ?_); cases p <;> first | exact absurd hp (by decide) | exact rfl | exact trivial | exact ⟨rfl, rfl⟩)
    | with_reducible apply st_wr_kept | with_reducible apply st_setSnr_kept

theorem snareArm_kept {F : Nat} {o0 s : State} (k : Nat) (hI : Kept F o0 s) (hF : Sub 257 F := by first | with_reducible assumption | exact Sub.mono (by with_reducible assumption) (by decide)) : Kept F o0 (snareArm k s) := by
  unfold snareArm
  repeat' first
    | with_reducible assumption | (with_reducible exact Sub.mono hF (by decide))
    | ((with_reducible refine FrameU.mk fun p hp => ?_); cases p <;> first | exact absurd hp (by decide) | exact rfl | exact trivial | exact ⟨rfl, rfl⟩)
    | with_reducible apply st_wr_kept | with_reducible apply st_setSnrDef_kept | with_reducible apply snrClear_kept
    | with_reducible apply kept_ite | split | dsimp only
    | fail_if_no_progress with_reducible refine kept_upd 257 ?_ rfl rfl rfl ?_ hF

theorem snareTruncate_kept {F : Nat} {o0 s : State} (k : Nat) (last : Nat) (hI : Kept F o0 s) (hF : Sub 257 F := by first | with_reducible assumption | exact Sub.mono (by with_reducible assumption) (by decide)) : Kept F o0 (snareTruncate k last s) := by
  unfold snareTruncate
  repeat' first
    | with_reducible assumption | (with_reducible exact Sub.mono hF (by decide))
    | ((with_reducible refine FrameU.mk fun p hp => ?_); cases p <;> first | exact absurd hp (by decide) | exact rfl | exact trivial | exact ⟨rfl, rfl⟩)
    | with_reducible apply st_wr_kept | with_reducible apply st_wrB_kept | with_reducible apply st_setSnrDef_kept

theorem snareDisarm_kept {F : Nat} {o0 s : State} (k : Nat) (hI : Kept F o0 s) (hF : Sub 257 F := by first | with_reducible assumption | exact Sub.mono (by with_reducible assumption) (by decide)) : Kept F o0 (snareDisarm k s) := by
  unfold snareDisarm
  repeat' first
    | with_reducible assumption | (with_reducible exact Sub.mono hF (by decide))
    | ((with_reducible refine FrameU.mk fun p hp => ?_); cases p <;> first | exact absurd hp (by decide) | exact rfl | exact trivial | exact ⟨rfl, rfl⟩)
    | with_reducible apply st_wr_kept | with_reducible apply st_setSnrDef_kept | with_reducible apply snrClear_kept
    | with_reducible apply snareTruncate_kept | with_reducible apply kept_ite | split | dsimp only
    | fail_if_no_progress with_reducible refine kept_upd 257 ?_ rfl rfl rfl ?_ hF

theorem snareRelease_kept {F : Nat} {o0 s : State} (k : Nat) (hI : Kept F o0 s) (hF : Sub 257 F := by first | with_reducible assumption | exact Sub.mono (by with_reducible assumption) (by decide)) : Kept F o0 (snareRelease k s) := by
  unfold snareRelease
  repeat' first
    | with_reducible assumption | (with_reducible exact Sub.mono hF (by decide))
    | ((with_reducible refine FrameU.mk fun p hp => ?_); cases p <;> first | exact absurd hp (by decide) | exact rfl | exact trivial | exact ⟨rfl, rfl⟩)
    | with_reducible apply st_wr_kept | with_reducible apply st_setSnrDef_kept | with_reducible apply snrClear_kept
    | with_reducible apply kept_ite | split | dsimp only
    | fail_if_no_progress with_reducible refine kept_upd 257 ?_ rfl rfl rfl ?_ hF

theorem snareHostTrig_kept {F : Nat} {o0 s : State} (k : Nat) (hI : Kept F o0 s) (hF : Sub 257 F := by first | with_reducible assumption | exact Sub.mono (by with_reducible assumption) (by decide)) : Kept F o0 (snareHostTrig k s) := by
  unfold snareHostTrig
  repeat' first
    | with_reducible assumption | (with_reducible exact Sub.mono hF (by decide))
    | ((with_reducible refine FrameU.mk fun p hp => ?_); cases p <;> first | exact absurd hp (by decide) | exact rfl | exact trivial | exact ⟨rfl, rfl⟩)
    | with_reducible apply snareTrigger_kept | with_reducible apply kept_ite
    | (with_reducible refine kept_foldl ?_ (fun _ _ _ => ?_)) | (intro _) | split | dsimp only
    | fail_if_no_progress with_reducible refine kept_upd 257 ?_ rfl rfl rfl ?_ hF

theorem snareCtl_kept {F : Nat} {o0 s : State} (k : Nat) (v : Nat) (hI : Kept F o0 s) (hF : Sub 257 F := by first | with_reducible assumption | exact Sub.mono (by with_reducible assumption) (by decide)) : Kept F o0 (snareCtl k v s) := by
  unfold snareCtl
  repeat' first
    | with_reducible assumption | (with_reducible exact Sub.mono hF (by decide))
    | ((with_reducible refine FrameU.mk fun p hp => ?_); cases p <;> first | exact absurd hp (by decide) | exact rfl | exact trivial | exact ⟨rfl, rfl⟩)
    | with_reducible apply snareArm_kept | with_reducible apply snareDisarm_kept | with_reducible apply snareRelease_kept
    | with_reducible apply snareHostTrig_kept | with_reducible apply kept_ite | split | dsimp only
    | fail_if_no_progress with_reducible refine kept_upd 257 ?_ rfl rfl rfl ?_ hF

theorem execSnareArm_kept {F : Nat} {o0 s : State} (k : Fin 4) (hI : Kept F o0 s) (hF : Sub 257 F := by first | with_reducible assumption | exact Sub.mono (by with_reducible assumption) (by decide)) : OutKept F o0 (execSnareArm k s) := by
  unfold execSnareArm
  repeat' first
    | with_reducible assumption | (with_reducible exact Sub.mono hF (by decide))
    | ((with_reducible refine FrameU.mk fun p hp => ?_); cases p <;> first | exact absurd hp (by decide) | exact rfl | exact trivial | exact ⟨rfl, rfl⟩)
    | with_reducible apply snareCtl_kept | with_reducible apply kept_next

theorem execSnareDisarm_kept {F : Nat} {o0 s : State} (k : Fin 4) (hI : Kept F o0 s) (hF : Sub 257 F := by first | with_reducible assumption | exact Sub.mono (by with_reducible assumption) (by decide)) : OutKept F o0 (execSnareDisarm k s) := by
  unfold execSnareDisarm
  repeat' first
    | with_reducible assumption | (with_reducible exact Sub.mono hF (by decide))
    | ((with_reducible refine FrameU.mk fun p hp => ?_); cases p <;> first | exact absurd hp (by decide) | exact rfl | exact trivial | exact ⟨rfl, rfl⟩)
    | with_reducible apply snareCtl_kept | with_reducible apply kept_next

theorem execSnareRelease_kept {F : Nat} {o0 s : State} (k : Fin 4) (hI : Kept F o0 s) (hF : Sub 257 F := by first | with_reducible assumption | exact Sub.mono (by with_reducible assumption) (by decide)) : OutKept F o0 (execSnareRelease k s) := by
  unfold execSnareRelease
  repeat' first
    | with_reducible assumption | (with_reducible exact Sub.mono hF (by decide))
    | ((with_reducible refine FrameU.mk fun p hp => ?_); cases p <;> first | exact absurd hp (by decide) | exact rfl | exact trivial | exact ⟨rfl, rfl⟩)
    | with_reducible apply snareCtl_kept | with_reducible apply kept_next

theorem execSnareHostTrig_kept {F : Nat} {o0 s : State} (k : Fin 4) (hI : Kept F o0 s) (hF : Sub 257 F := by first | with_reducible assumption | exact Sub.mono (by with_reducible assumption) (by decide)) : OutKept F o0 (execSnareHostTrig k s) := by
  unfold execSnareHostTrig
  repeat' first
    | with_reducible assumption | (with_reducible exact Sub.mono hF (by decide))
    | ((with_reducible refine FrameU.mk fun p hp => ?_); cases p <;> first | exact absurd hp (by decide) | exact rfl | exact trivial | exact ⟨rfl, rfl⟩)
    | with_reducible apply snareCtl_kept | with_reducible apply kept_next

theorem execSnarePioEdge_kept {F : Nat} {o0 s : State} (pin : Fin 16) (raw : Nat) (hold : Nat) (rise : Bool) (hI : Kept F o0 s) (hF : Sub 257 F := by first | with_reducible assumption | exact Sub.mono (by with_reducible assumption) (by decide)) : OutKept F o0 (execSnarePioEdge pin raw hold rise s) := by
  unfold execSnarePioEdge
  repeat' first
    | with_reducible assumption | (with_reducible exact Sub.mono hF (by decide))
    | ((with_reducible refine FrameU.mk fun p hp => ?_); cases p <;> first | exact absurd hp (by decide) | exact rfl | exact trivial | exact ⟨rfl, rfl⟩)
    | with_reducible apply snareTriggerAll_kept | with_reducible apply st_setSnr_kept | with_reducible apply kept_next
    | with_reducible apply kept_ite | (intro _) | split | dsimp only
    | fail_if_no_progress with_reducible refine kept_upd 257 ?_ rfl rfl rfl ?_ hF

theorem execSnareAutoTrigger_kept {F : Nat} {o0 s : State} (k : Fin 4) (hI : Kept F o0 s) (hF : Sub 257 F := by first | with_reducible assumption | exact Sub.mono (by with_reducible assumption) (by decide)) : OutKept F o0 (execSnareAutoTrigger k s) := by
  unfold execSnareAutoTrigger
  repeat' first
    | with_reducible assumption | (with_reducible exact Sub.mono hF (by decide))
    | ((with_reducible refine FrameU.mk fun p hp => ?_); cases p <;> first | exact absurd hp (by decide) | exact rfl | exact trivial | exact ⟨rfl, rfl⟩)
    | with_reducible apply snareTrigger_kept | with_reducible apply kept_next | with_reducible apply kept_ite
    | (with_reducible refine kept_foldl ?_ (fun _ _ _ => ?_)) | (intro _) | split | dsimp only
    | fail_if_no_progress with_reducible refine kept_upd 257 ?_ rfl rfl rfl ?_ hF

theorem snarePatch_kept {F : Nat} {o0 s : State} (col : Column) (k : Nat) (hI : Kept F o0 s) (hF : Sub 257 F := by first | with_reducible assumption | exact Sub.mono (by with_reducible assumption) (by decide)) : Kept F o0 (snarePatch col k s) := by
  unfold snarePatch
  repeat' first
    | with_reducible assumption | (with_reducible exact Sub.mono hF (by decide))
    | ((with_reducible refine FrameU.mk fun p hp => ?_); cases p <;> first | exact absurd hp (by decide) | exact rfl | exact trivial | exact ⟨rfl, rfl⟩)
    | with_reducible apply st_setSnrDef_kept | with_reducible apply addGap_kept | with_reducible apply st_setSnr_kept
    | with_reducible apply kept_ite | (with_reducible refine kept_foldl ?_ (fun _ _ _ => ?_)) | (intro _) | split | dsimp only
    | fail_if_no_progress with_reducible refine kept_upd 257 ?_ rfl rfl rfl ?_ hF

theorem snareClose_kept {F : Nat} {o0 s : State} (n : Nat) (cols : List Column) (hI : Kept F o0 s) (hF : Sub 1107296641 F := by first | with_reducible assumption | exact Sub.mono (by with_reducible assumption) (by decide)) : Kept F o0 (snareClose n cols s) := by
  unfold snareClose
  repeat' first
    | with_reducible assumption | (with_reducible exact Sub.mono hF (by decide))
    | ((with_reducible refine FrameU.mk fun p hp => ?_); cases p <;> first | exact absurd hp (by decide) | exact rfl | exact trivial | exact ⟨rfl, rfl⟩)
    | with_reducible apply st_wr_kept | with_reducible apply post_kept | with_reducible apply snarePatch_kept
    | with_reducible apply kept_ite | (with_reducible refine kept_foldl ?_ (fun _ _ _ => ?_)) | (intro _) | split | dsimp only
    | fail_if_no_progress with_reducible refine kept_upd 1107296641 ?_ rfl rfl rfl ?_ hF

theorem snrSync_kept {F : Nat} {o0 s : State}  (hI : Kept F o0 s) (hF : Sub 1 F := by first | with_reducible assumption | exact Sub.mono (by with_reducible assumption) (by decide)) : Kept F o0 (snrSync s) := by
  unfold snrSync
  repeat' first
    | with_reducible assumption | (with_reducible exact Sub.mono hF (by decide))
    | ((with_reducible refine FrameU.mk fun p hp => ?_); cases p <;> first | exact absurd hp (by decide) | exact rfl | exact trivial | exact ⟨rfl, rfl⟩)
    | with_reducible apply st_wr_kept

theorem snareToNand_kept {F : Nat} {o0 s : State} (k : Nat) (c : SnrDefCfg) (hI : Kept F o0 s) (hF : Sub 549755813889 F := by first | with_reducible assumption | exact Sub.mono (by with_reducible assumption) (by decide)) : Kept F o0 (snareToNand k c s).2 := by
  unfold snareToNand
  repeat' first
    | with_reducible assumption | (with_reducible exact Sub.mono hF (by decide))
    | ((with_reducible refine FrameU.mk fun p hp => ?_); cases p <;> first | exact absurd hp (by decide) | exact rfl | exact trivial | exact ⟨rfl, rfl⟩)
    | with_reducible apply st_flag_kept | with_reducible apply snrSync_kept | with_reducible apply kept_ite
    | with_reducible apply kept_ite_fst | with_reducible apply kept_ite_snd
    | (with_reducible refine kept_foldl ?_ (fun _ _ _ => ?_)) | (intro _) | split | dsimp only
    | fail_if_no_progress with_reducible refine kept_upd 549755813889 ?_ rfl rfl rfl ?_ hF

theorem snareToNand_kept_eq {F : Nat} {o0 s : State} {y0 y1} {k : Nat} {c : SnrDefCfg} (hI : Kept F o0 s) (hF : Sub 549755813889 F := by first | with_reducible assumption | exact Sub.mono (by with_reducible assumption) (by decide)) (e : snareToNand k c s = (y0, y1)) : Kept F o0 y1 := by
  have h2 := snareToNand_kept k c hI
  rw [e] at h2; exact h2

theorem execSnareAutoExport_kept {F : Nat} {o0 s : State} (k : Fin 4) (hI : Kept F o0 s) (hF : Sub 549755814145 F := by first | with_reducible assumption | exact Sub.mono (by with_reducible assumption) (by decide)) : OutKept F o0 (execSnareAutoExport k s) := by
  unfold execSnareAutoExport
  with_reducible apply kept_next
  split
  · with_reducible exact hI
  · rename_i c _
    with_reducible apply kept_ite
    · with_reducible exact hI
    · have h := snareToNand_kept k.val c hI
      generalize snareToNand k.val c s = x at h ⊢
      rcases x with ⟨_ | n, t⟩
      · exact h
      · exact snareArm_kept _ (snareRelease_kept _ h)

theorem snareReclaim_kept {F : Nat} {o0 s : State}  (hI : Kept F o0 s) (hF : Sub 550863110529 F := by first | with_reducible assumption | exact Sub.mono (by with_reducible assumption) (by decide)) : Kept F o0 (snareReclaim s) := by
  unfold snareReclaim
  repeat' first
    | with_reducible assumption | (with_reducible exact Sub.mono hF (by decide))
    | ((with_reducible refine FrameU.mk fun p hp => ?_); cases p <;> first | exact absurd hp (by decide) | exact rfl | exact trivial | exact ⟨rfl, rfl⟩)
    | with_reducible apply st_flag_kept | with_reducible apply post_kept | with_reducible apply snrSync_kept
    | with_reducible apply kept_ite | (with_reducible refine kept_foldl ?_ (fun _ _ _ => ?_)) | (intro _) | split | dsimp only
    | fail_if_no_progress with_reducible refine kept_upd 550863110529 ?_ rfl rfl rfl ?_ hF

theorem snareSwap_kept {F : Nat} {o0 s : State} (snrPart : Nat) (old : Image) (new : Image) (n : Nat) (hI : Kept F o0 s) (hF : Sub 1107296641 F := by first | with_reducible assumption | exact Sub.mono (by with_reducible assumption) (by decide)) : Kept F o0 (snareSwap snrPart old new n s) := by
  unfold snareSwap
  repeat' first
    | with_reducible assumption | (with_reducible exact Sub.mono hF (by decide))
    | ((with_reducible refine FrameU.mk fun p hp => ?_); cases p <;> first | exact absurd hp (by decide) | exact rfl | exact trivial | exact ⟨rfl, rfl⟩)
    | with_reducible apply st_wr_kept | with_reducible apply st_flag_kept | with_reducible apply st_setSnrDef_kept
    | with_reducible apply post_kept | with_reducible apply snrClear_kept | with_reducible apply snareTruncate_kept
    | with_reducible apply kept_ite | (with_reducible refine kept_foldl ?_ (fun _ _ _ => ?_)) | (intro _) | split | dsimp only
    | fail_if_no_progress with_reducible refine kept_upd 1107296641 ?_ rfl rfl rfl ?_ hF

theorem snareAtStart_kept {F : Nat} {o0 s : State}  (hI : Kept F o0 s) (hF : Sub 257 F := by first | with_reducible assumption | exact Sub.mono (by with_reducible assumption) (by decide)) : Kept F o0 (snareAtStart s) := by
  unfold snareAtStart
  repeat' first
    | with_reducible assumption | (with_reducible exact Sub.mono hF (by decide))
    | ((with_reducible refine FrameU.mk fun p hp => ?_); cases p <;> first | exact absurd hp (by decide) | exact rfl | exact trivial | exact ⟨rfl, rfl⟩)
    | with_reducible apply snareArm_kept | with_reducible apply kept_ite | (with_reducible refine kept_foldl ?_ (fun _ _ _ => ?_))
    | (intro _) | split | dsimp only | fail_if_no_progress with_reducible refine kept_upd 257 ?_ rfl rfl rfl ?_ hF

end Sys2Proof.Machine
end

