-- ==== Sys2Proof/Laws/KeptAlign.lean ====
section
/-!
SUPPORT. What Machine/Align.lean keeps of a state: one lemma per operation.
-/

namespace Sys2Proof.Machine

set_option linter.all false
set_option Elab.async false

theorem popArrival_kept {F : Nat} {o0 s t : State} {r} (hI : Kept F o0 s) (hF : Sub 64 F := by first | with_reducible assumption | exact Sub.mono (by with_reducible assumption) (by decide)) (e : popArrival s = some (r, t)) : Kept F o0 t := by
  unfold popArrival at e
  repeat' first | (split at e) | (cases e)
  all_goals exact st_setIng_kept _ hI

theorem execRecordArrival_kept {F : Nat} {o0 s : State} (hI : Kept F o0 s) (hF : Sub 2200130601409 F := by first | with_reducible assumption | exact Sub.mono (by with_reducible assumption) (by decide)) : OutKept F o0 (execRecordArrival s) := by
  unfold execRecordArrival
  with_reducible apply kept_next
  split
  · with_reducible exact hI
  · rename_i r t e
    have h := popArrival_kept hI (e := e)
    split
    · exact swapDrop_kept _ _ h
    · with_reducible apply kept_ite
      · with_reducible exact hI
      · exact tmbRefresh_kept (recordArrival_kept _ _ h)

theorem execResamplerInput_kept {F : Nat} {o0 s : State} (hI : Kept F o0 s) (hF : Sub 1107313089 F := by first | with_reducible assumption | exact Sub.mono (by with_reducible assumption) (by decide)) : OutKept F o0 (execResamplerInput s) := by
  unfold execResamplerInput
  with_reducible apply kept_next
  split
  · with_reducible exact hI
  · rename_i r t e
    have h := popArrival_kept hI (e := e)
    split
    · with_reducible exact hI
    · with_reducible apply kept_ite
      · exact rsmpInput_kept _ _ h
      · with_reducible exact hI

theorem execCloseTokenIssue_kept {F : Nat} {o0 s : State}  (hI : Kept F o0 s) (hF : Sub 16384 F := by first | with_reducible assumption | exact Sub.mono (by with_reducible assumption) (by decide)) : OutKept F o0 (execCloseTokenIssue s) := by
  unfold execCloseTokenIssue
  repeat' first
    | with_reducible assumption | (with_reducible exact Sub.mono hF (by decide))
    | ((with_reducible refine FrameU.mk fun p hp => ?_); cases p <;> first | exact absurd hp (by decide) | exact rfl | exact trivial | exact ⟨rfl, rfl⟩)
    | with_reducible apply st_setCol_kept | with_reducible apply kept_next | with_reducible apply kept_ite
    | (with_reducible refine kept_foldl ?_ (fun _ _ _ => ?_)) | (intro _) | split | dsimp only
    | fail_if_no_progress with_reducible refine kept_upd 16384 ?_ rfl rfl rfl ?_ hF

theorem closeCells_kept {F : Nat} {o0 s : State} (n : Nat) (g : Nat) (hI : Kept F o0 s) (hF : Sub 33570817 F := by first | with_reducible assumption | exact Sub.mono (by with_reducible assumption) (by decide)) : Kept F o0 (closeCells n g s) := by
  unfold closeCells
  repeat' first
    | with_reducible assumption | (with_reducible exact Sub.mono hF (by decide))
    | ((with_reducible refine FrameU.mk fun p hp => ?_); cases p <;> first | exact absurd hp (by decide) | exact rfl | exact trivial | exact ⟨rfl, rfl⟩)
    | with_reducible apply st_inc_kept | with_reducible apply st_ev_kept | with_reducible apply traceClose_kept
    | with_reducible apply st_setCol_kept | with_reducible apply kept_ite | (with_reducible refine kept_foldl ?_ (fun _ _ _ => ?_))
    | (intro _) | split | dsimp only | fail_if_no_progress with_reducible refine kept_upd 33570817 ?_ rfl rfl rfl ?_ hF

theorem notice_kept {F : Nat} {o0 s : State} (c : Column) (hI : Kept F o0 s) (hF : Sub 1107313025 F := by first | with_reducible assumption | exact Sub.mono (by with_reducible assumption) (by decide)) : Kept F o0 (notice c s) := by
  unfold notice
  repeat' first
    | with_reducible assumption | (with_reducible exact Sub.mono hF (by decide))
    | ((with_reducible refine FrameU.mk fun p hp => ?_); cases p <;> first | exact absurd hp (by decide) | exact rfl | exact trivial | exact ⟨rfl, rfl⟩)
    | with_reducible apply st_inc_kept | with_reducible apply st_flag_kept | with_reducible apply post_kept
    | with_reducible apply st_setPgh_kept | with_reducible apply st_setCol_kept | with_reducible apply kept_ite | split | dsimp only
    | fail_if_no_progress with_reducible refine kept_upd 1107313025 ?_ rfl rfl rfl ?_ hF

theorem notices_kept {F : Nat} {o0 s : State} (m : Nat) (hI : Kept F o0 s) (hF : Sub 1107313025 F := by first | with_reducible assumption | exact Sub.mono (by with_reducible assumption) (by decide)) : Kept F o0 (notices m s) := by
  unfold notices
  repeat' first
    | with_reducible assumption | (with_reducible exact Sub.mono hF (by decide))
    | ((with_reducible refine FrameU.mk fun p hp => ?_); cases p <;> first | exact absurd hp (by decide) | exact rfl | exact trivial | exact ⟨rfl, rfl⟩)
    | with_reducible apply notice_kept | with_reducible apply kept_ite | (with_reducible refine kept_foldl ?_ (fun _ _ _ => ?_))
    | (intro _) | split | dsimp only | fail_if_no_progress with_reducible refine kept_upd 1107313025 ?_ rfl rfl rfl ?_ hF

theorem releaseCols_kept {F : Nat} {o0 s : State} (cols : List Column) (hI : Kept F o0 s) (hF : Sub 33570817 F := by first | with_reducible assumption | exact Sub.mono (by with_reducible assumption) (by decide)) : Kept F o0 (releaseCols cols s) := by
  unfold releaseCols
  repeat' first
    | with_reducible assumption | (with_reducible exact Sub.mono hF (by decide))
    | ((with_reducible refine FrameU.mk fun p hp => ?_); cases p <;> first | exact absurd hp (by decide) | exact rfl | exact trivial | exact ⟨rfl, rfl⟩)
    | with_reducible apply st_wr_kept | with_reducible apply traceRelease_kept | with_reducible apply st_setPgh_kept
    | with_reducible apply openColumn_kept | with_reducible apply kept_ite | (with_reducible refine kept_foldl ?_ (fun _ _ _ => ?_))
    | (intro _) | split | dsimp only | fail_if_no_progress with_reducible refine kept_upd 33570817 ?_ rfl rfl rfl ?_ hF

theorem execMissingTemplateWrite_kept {F : Nat} {o0 s : State}  (hI : Kept F o0 s) (hF : Sub 16384 F := by first | with_reducible assumption | exact Sub.mono (by with_reducible assumption) (by decide)) : OutKept F o0 (execMissingTemplateWrite s) := by
  unfold execMissingTemplateWrite
  repeat' first
    | with_reducible assumption | (with_reducible exact Sub.mono hF (by decide))
    | ((with_reducible refine FrameU.mk fun p hp => ?_); cases p <;> first | exact absurd hp (by decide) | exact rfl | exact trivial | exact ⟨rfl, rfl⟩)
    | with_reducible apply st_setPgh_kept | with_reducible apply kept_next

theorem execLearningMramWrite_kept {F : Nat} {o0 s : State} (cut : Bool) (hI : Kept F o0 s) (hF : Sub 8589950976 F := by first | with_reducible assumption | exact Sub.mono (by with_reducible assumption) (by decide)) : OutKept F o0 (execLearningMramWrite cut s) := by
  unfold execLearningMramWrite
  repeat' first
    | with_reducible assumption | (with_reducible exact Sub.mono hF (by decide))
    | ((with_reducible refine FrameU.mk fun p hp => ?_); cases p <;> first | exact absurd hp (by decide) | exact rfl | exact trivial | exact ⟨rfl, rfl⟩)
    | with_reducible apply st_setPgh_kept | with_reducible apply kept_next | with_reducible apply kept_ite
    | (with_reducible refine kept_foldl ?_ (fun _ _ _ => ?_)) | (intro _) | split | dsimp only
    | fail_if_no_progress with_reducible refine kept_upd 8589950976 ?_ rfl rfl rfl ?_ hF

theorem restartStat_kept {F : Nat} {o0 s : State} (slot : Nat) (hI : Kept F o0 s) (hF : Sub 16384 F := by first | with_reducible assumption | exact Sub.mono (by with_reducible assumption) (by decide)) : Kept F o0 (restartStat slot s) := by
  unfold restartStat
  repeat' first
    | with_reducible assumption | (with_reducible exact Sub.mono hF (by decide))
    | ((with_reducible refine FrameU.mk fun p hp => ?_); cases p <;> first | exact absurd hp (by decide) | exact rfl | exact trivial | exact ⟨rfl, rfl⟩)
    | with_reducible apply st_setSlotStat_kept

theorem execPghSramUe_kept {F : Nat} {o0 s : State} (e : EccErr) (stats : Bool) (n : Nat) (slot : Fin 8192) (hI : Kept F o0 s) (hF : Sub 4399293022595 F := by first | with_reducible assumption | exact Sub.mono (by with_reducible assumption) (by decide)) : OutKept F o0 (execPghSramUe e stats n slot s) := by
  unfold execPghSramUe
  repeat' first
    | with_reducible assumption | (with_reducible exact Sub.mono hF (by decide))
    | ((with_reducible refine FrameU.mk fun p hp => ?_); cases p <;> first | exact absurd hp (by decide) | exact rfl | exact trivial | exact ⟨rfl, rfl⟩)
    | with_reducible apply st_inc_kept | with_reducible apply st_flag_kept | with_reducible apply post_kept
    | with_reducible apply abdicate_kept | with_reducible apply recordUe_kept | with_reducible apply restartStat_kept
    | with_reducible apply kept_next | with_reducible apply kept_ite | split | dsimp only
    | fail_if_no_progress with_reducible refine kept_upd 4399293022595 ?_ rfl rfl rfl ?_ hF

theorem ingSelect_kept {F : Nat} {o0 s : State} (v : Nat) (hI : Kept F o0 s) (hF : Sub 1 F := by first | with_reducible assumption | exact Sub.mono (by with_reducible assumption) (by decide)) : Kept F o0 (ingSelect v s) := by
  unfold ingSelect
  repeat' first
    | with_reducible assumption | (with_reducible exact Sub.mono hF (by decide))
    | ((with_reducible refine FrameU.mk fun p hp => ?_); cases p <;> first | exact absurd hp (by decide) | exact rfl | exact trivial | exact ⟨rfl, rfl⟩)
    | with_reducible apply st_wr_kept | with_reducible apply st_wrB_kept

theorem pghSelect_kept {F : Nat} {o0 s : State} (v : Nat) (hI : Kept F o0 s) (hF : Sub 1 F := by first | with_reducible assumption | exact Sub.mono (by with_reducible assumption) (by decide)) : Kept F o0 (pghSelect v s) := by
  unfold pghSelect
  repeat' first
    | with_reducible assumption | (with_reducible exact Sub.mono hF (by decide))
    | ((with_reducible refine FrameU.mk fun p hp => ?_); cases p <;> first | exact absurd hp (by decide) | exact rfl | exact trivial | exact ⟨rfl, rfl⟩)
    | with_reducible apply st_wr_kept | with_reducible apply st_wrSym_kept | with_reducible apply st_wrB_kept
    | with_reducible apply kept_ite | (with_reducible refine kept_foldl ?_ (fun _ _ _ => ?_)) | (intro _) | split | dsimp only
    | fail_if_no_progress with_reducible refine kept_upd 1 ?_ rfl rfl rfl ?_ hF

theorem beginTicking_kept {F : Nat} {o0 s : State} (n : Nat) (hI : Kept F o0 s) (hF : Sub 6340873 F := by first | with_reducible assumption | exact Sub.mono (by with_reducible assumption) (by decide)) : Kept F o0 (beginTicking n s) := by
  unfold beginTicking
  repeat' first
    | with_reducible assumption | (with_reducible exact Sub.mono hF (by decide))
    | ((with_reducible refine FrameU.mk fun p hp => ?_); cases p <;> first | exact absurd hp (by decide) | exact rfl | exact trivial | exact ⟨rfl, rfl⟩)
    | with_reducible apply st_wrB_kept | with_reducible apply st_setPair_kept | with_reducible apply st_setClv_kept
    | with_reducible apply openAll_kept | with_reducible apply st_setTmb_kept | with_reducible apply snareAtStart_kept
    | with_reducible apply kept_ite | (with_reducible refine kept_foldl ?_ (fun _ _ _ => ?_)) | (intro _) | split | dsimp only
    | fail_if_no_progress with_reducible refine kept_upd 6340873 ?_ rfl rfl rfl ?_ hF

theorem execTickingBegin_kept {F : Nat} {o0 s : State}  (hI : Kept F o0 s) (hF : Sub 6340873 F := by first | with_reducible assumption | exact Sub.mono (by with_reducible assumption) (by decide)) : OutKept F o0 (execTickingBegin s) := by
  unfold execTickingBegin
  repeat' first
    | with_reducible assumption | (with_reducible exact Sub.mono hF (by decide))
    | ((with_reducible refine FrameU.mk fun p hp => ?_); cases p <;> first | exact absurd hp (by decide) | exact rfl | exact trivial | exact ⟨rfl, rfl⟩)
    | with_reducible apply beginTicking_kept | with_reducible apply kept_next | with_reducible apply kept_ite
    | (with_reducible refine kept_foldl ?_ (fun _ _ _ => ?_)) | (intro _) | split | dsimp only
    | fail_if_no_progress with_reducible refine kept_upd 6340873 ?_ rfl rfl rfl ?_ hF

theorem tickNow_kept {F : Nat} {o0 s : State} (n : Nat) (hI : Kept F o0 s) (hF : Sub 6598409601433 F := by first | with_reducible assumption | exact Sub.mono (by with_reducible assumption) (by decide)) : Kept F o0 (tickNow n s) := by
  unfold tickNow
  repeat' first
    | with_reducible assumption | (with_reducible exact Sub.mono hF (by decide))
    | ((with_reducible refine FrameU.mk fun p hp => ?_); cases p <;> first | exact absurd hp (by decide) | exact rfl | exact trivial | exact ⟨rfl, rfl⟩)
    | with_reducible apply st_setClv_kept | with_reducible apply fixWindows_kept | with_reducible apply stallTick_kept
    | with_reducible apply keyEffect_kept | with_reducible apply accFirstTick_kept | with_reducible apply pairTick_kept

theorem execTickInstant_kept {F : Nat} {o0 s : State} (n : Nat) (hI : Kept F o0 s) (hF : Sub 6598409601433 F := by first | with_reducible assumption | exact Sub.mono (by with_reducible assumption) (by decide)) : OutKept F o0 (execTickInstant n s) := by
  unfold execTickInstant
  repeat' first
    | with_reducible assumption | (with_reducible exact Sub.mono hF (by decide))
    | ((with_reducible refine FrameU.mk fun p hp => ?_); cases p <;> first | exact absurd hp (by decide) | exact rfl | exact trivial | exact ⟨rfl, rfl⟩)
    | with_reducible apply tickNow_kept | with_reducible apply kept_next | with_reducible apply kept_ite | split | dsimp only
    | fail_if_no_progress with_reducible refine kept_upd 6598409601433 ?_ rfl rfl rfl ?_ hF

theorem execReseatStep_kept {F : Nat} {o0 s : State}  (hI : Kept F o0 s) (hF : Sub 4399293022603 F := by first | with_reducible assumption | exact Sub.mono (by with_reducible assumption) (by decide)) : OutKept F o0 (execReseatStep s) := by
  unfold execReseatStep
  repeat' first
    | with_reducible assumption | (with_reducible exact Sub.mono hF (by decide))
    | ((with_reducible refine FrameU.mk fun p hp => ?_); cases p <;> first | exact absurd hp (by decide) | exact rfl | exact trivial | exact ⟨rfl, rfl⟩)
    | with_reducible apply reseatStep_kept | with_reducible apply dropSkipped_kept | with_reducible apply kept_next
    | with_reducible apply kept_ite | split | dsimp only
    | fail_if_no_progress with_reducible refine kept_upd 4399293022603 ?_ rfl rfl rfl ?_ hF

theorem slotAdopt_kept {F : Nat} {o0 s : State} (b : Binding) (hI : Kept F o0 s) (hF : Sub 1107313089 F := by first | with_reducible assumption | exact Sub.mono (by with_reducible assumption) (by decide)) : Kept F o0 (slotAdopt b s) := by
  unfold slotAdopt
  repeat' first
    | with_reducible assumption | (with_reducible exact Sub.mono hF (by decide))
    | ((with_reducible refine FrameU.mk fun p hp => ?_); cases p <;> first | exact absurd hp (by decide) | exact rfl | exact trivial | exact ⟨rfl, rfl⟩)
    | with_reducible apply st_flag_kept | with_reducible apply post_kept | with_reducible apply st_setIngSlot_kept
    | with_reducible apply st_setHist_kept | with_reducible apply kept_ite | split | dsimp only
    | fail_if_no_progress with_reducible refine kept_upd 1107313089 ?_ rfl rfl rfl ?_ hF

theorem unread_kept {F : Nat} {o0 s : State} (stream : Nat) (hI : Kept F o0 s) (hF : Sub 80 F := by first | with_reducible assumption | exact Sub.mono (by with_reducible assumption) (by decide)) : Kept F o0 (unread stream s) := by
  unfold unread
  repeat' first
    | with_reducible assumption | (with_reducible exact Sub.mono hF (by decide))
    | ((with_reducible refine FrameU.mk fun p hp => ?_); cases p <;> first | exact absurd hp (by decide) | exact rfl | exact trivial | exact ⟨rfl, rfl⟩)
    | with_reducible apply mapJobs_kept

theorem execCfgActivate_kept {F : Nat} {o0 s : State} (stream : Nat) (hI : Kept F o0 s) (hF : Sub 4399153824209 F := by first | with_reducible assumption | exact Sub.mono (by with_reducible assumption) (by decide)) : OutKept F o0 (execCfgActivate stream s) := by
  unfold execCfgActivate
  repeat' first
    | with_reducible assumption | (with_reducible exact Sub.mono hF (by decide))
    | ((with_reducible refine FrameU.mk fun p hp => ?_); cases p <;> first | exact absurd hp (by decide) | exact rfl | exact trivial | exact ⟨rfl, rfl⟩)
    | with_reducible apply post_kept | with_reducible apply st_setStream_kept | with_reducible apply st_setTcp_kept
    | with_reducible apply tcpCommand_kept | with_reducible apply slotAdopt_kept | with_reducible apply unread_kept
    | with_reducible apply kept_next | with_reducible apply kept_ite | (with_reducible refine kept_foldl ?_ (fun _ _ _ => ?_))
    | (intro _) | split | dsimp only | fail_if_no_progress with_reducible refine kept_upd 4399153824209 ?_ rfl rfl rfl ?_ hF

end Sys2Proof.Machine
end

