-- ==== Sys2Proof/Laws/KeptLocal.lean ====
section
/-!
SUPPORT. What Machine/Local.lean keeps of a state: one lemma per operation.
-/

namespace Sys2Proof.Machine

set_option linter.all false
set_option Elab.async false

theorem st_setLmf_kept {F : Nat} {o0 s : State} (l : Lmf) (hI : Kept F o0 s) (hF : Sub 2097152 F := by first | with_reducible assumption | exact Sub.mono (by with_reducible assumption) (by decide)) : Kept F o0 (State.setLmf s l) := by
  unfold State.setLmf
  repeat' first
    | with_reducible assumption | (with_reducible exact Sub.mono hF (by decide))
    | ((with_reducible refine FrameU.mk fun p hp => ?_); cases p <;> first | exact absurd hp (by decide) | exact rfl | exact trivial | exact ⟨rfl, rfl⟩)
    | with_reducible apply kept_ite | split | dsimp only
    | fail_if_no_progress with_reducible refine kept_upd 2097152 ?_ rfl rfl rfl ?_ hF

theorem st_setSd_kept {F : Nat} {o0 s : State} (c : Nat) (x : SdChan) (hI : Kept F o0 s) (hF : Sub 2097152 F := by first | with_reducible assumption | exact Sub.mono (by with_reducible assumption) (by decide)) : Kept F o0 (State.setSd s c x) := by
  unfold State.setSd
  repeat' first
    | with_reducible assumption | (with_reducible exact Sub.mono hF (by decide))
    | ((with_reducible refine FrameU.mk fun p hp => ?_); cases p <;> first | exact absurd hp (by decide) | exact rfl | exact trivial | exact ⟨rfl, rfl⟩)
    | with_reducible apply st_setLmf_kept

theorem st_setIcv_kept {F : Nat} {o0 s : State} (x : Nat) (v : Icv) (hI : Kept F o0 s) (hF : Sub 2097152 F := by first | with_reducible assumption | exact Sub.mono (by with_reducible assumption) (by decide)) : Kept F o0 (State.setIcv s x v) := by
  unfold State.setIcv
  repeat' first
    | with_reducible assumption | (with_reducible exact Sub.mono hF (by decide))
    | ((with_reducible refine FrameU.mk fun p hp => ?_); cases p <;> first | exact absurd hp (by decide) | exact rfl | exact trivial | exact ⟨rfl, rfl⟩)
    | with_reducible apply st_setLmf_kept

theorem sdRestart_kept {F : Nat} {o0 s : State} (c : Nat) (hI : Kept F o0 s) (hF : Sub 2097153 F := by first | with_reducible assumption | exact Sub.mono (by with_reducible assumption) (by decide)) : Kept F o0 (sdRestart c s) := by
  unfold sdRestart
  repeat' first
    | with_reducible assumption | (with_reducible exact Sub.mono hF (by decide))
    | ((with_reducible refine FrameU.mk fun p hp => ?_); cases p <;> first | exact absurd hp (by decide) | exact rfl | exact trivial | exact ⟨rfl, rfl⟩)
    | with_reducible apply st_wrB_kept | with_reducible apply st_setSd_kept

theorem sdMake_kept {F : Nat} {o0 s : State} (c : Nat) (code : Int) (ovr : Bool) (time : Nat) (hI : Kept F o0 s) (hF : Sub 2097153 F := by first | with_reducible assumption | exact Sub.mono (by with_reducible assumption) (by decide)) : Kept F o0 (sdMake c code ovr time s) := by
  unfold sdMake
  repeat' first
    | with_reducible assumption | (with_reducible exact Sub.mono hF (by decide))
    | ((with_reducible refine FrameU.mk fun p hp => ?_); cases p <;> first | exact absurd hp (by decide) | exact rfl | exact trivial | exact ⟨rfl, rfl⟩)
    | with_reducible apply st_wr_kept | with_reducible apply st_inc_kept | with_reducible apply st_flag_kept
    | with_reducible apply st_wrB_kept | with_reducible apply st_setSd_kept | with_reducible apply kept_ite

theorem sdOutput_kept {F : Nat} {o0 s : State} (c : Nat) (mods : List SdMod) (capA : Nat) (capB : Nat) (cyc : Nat) (ue : Bool) (hI : Kept F o0 s) (hF : Sub 2097153 F := by first | with_reducible assumption | exact Sub.mono (by with_reducible assumption) (by decide)) : Kept F o0 (sdOutput c mods capA capB cyc ue s) := by
  unfold sdOutput
  repeat' first
    | with_reducible assumption | (with_reducible exact Sub.mono hF (by decide))
    | ((with_reducible refine FrameU.mk fun p hp => ?_); cases p <;> first | exact absurd hp (by decide) | exact rfl | exact trivial | exact ⟨rfl, rfl⟩)
    | with_reducible apply st_setSd_kept | with_reducible apply sdRestart_kept | with_reducible apply sdMake_kept
    | with_reducible apply kept_ite | split

theorem execSdOutput_kept {F : Nat} {o0 s : State} (c : Fin 8) (mods : List SdMod) (capA : Nat) (capB : Nat) (cyc : Fin 6144) (ue : Bool) (hI : Kept F o0 s) (hF : Sub 2097153 F := by first | with_reducible assumption | exact Sub.mono (by with_reducible assumption) (by decide)) : OutKept F o0 (execSdOutput c mods capA capB cyc ue s) := by
  unfold execSdOutput
  repeat' first
    | with_reducible assumption | (with_reducible exact Sub.mono hF (by decide))
    | ((with_reducible refine FrameU.mk fun p hp => ?_); cases p <;> first | exact absurd hp (by decide) | exact rfl | exact trivial | exact ⟨rfl, rfl⟩)
    | with_reducible apply sdOutput_kept | with_reducible apply kept_next

theorem execSdRestartSettled_kept {F : Nat} {o0 s : State} (c : Fin 8) (hI : Kept F o0 s) (hF : Sub 2097153 F := by first | with_reducible assumption | exact Sub.mono (by with_reducible assumption) (by decide)) : OutKept F o0 (execSdRestartSettled c s) := by
  unfold execSdRestartSettled
  repeat' first
    | with_reducible assumption | (with_reducible exact Sub.mono hF (by decide))
    | ((with_reducible refine FrameU.mk fun p hp => ?_); cases p <;> first | exact absurd hp (by decide) | exact rfl | exact trivial | exact ⟨rfl, rfl⟩)
    | with_reducible apply st_wrB_kept | with_reducible apply st_setSd_kept | with_reducible apply kept_next
    | with_reducible apply kept_ite | split

theorem estCommit_kept {F : Nat} {o0 s : State} (n : Nat) (hI : Kept F o0 s) (hF : Sub 35651649 F := by first | with_reducible assumption | exact Sub.mono (by with_reducible assumption) (by decide)) : Kept F o0 (estCommit n s) := by
  unfold estCommit
  repeat' first
    | with_reducible assumption | (with_reducible exact Sub.mono hF (by decide))
    | ((with_reducible refine FrameU.mk fun p hp => ?_); cases p <;> first | exact absurd hp (by decide) | exact rfl | exact trivial | exact ⟨rfl, rfl⟩)
    | with_reducible apply st_flag_kept | with_reducible apply st_wrB_kept | with_reducible apply commitRecord_kept
    | with_reducible apply st_setLmf_kept | with_reducible apply kept_ite | split

theorem execLocalEstimateCommit_kept {F : Nat} {o0 s : State} (n : Nat) (hI : Kept F o0 s) (hF : Sub 35651649 F := by first | with_reducible assumption | exact Sub.mono (by with_reducible assumption) (by decide)) : OutKept F o0 (execLocalEstimateCommit n s) := by
  unfold execLocalEstimateCommit
  repeat' first
    | with_reducible assumption | (with_reducible exact Sub.mono hF (by decide))
    | ((with_reducible refine FrameU.mk fun p hp => ?_); cases p <;> first | exact absurd hp (by decide) | exact rfl | exact trivial | exact ⟨rfl, rfl⟩)
    | with_reducible apply estCommit_kept | with_reducible apply kept_next | with_reducible apply kept_ite | split

theorem icvBegin_kept {F : Nat} {o0 s : State} (x : Nat) (hI : Kept F o0 s) (hF : Sub 2097153 F := by first | with_reducible assumption | exact Sub.mono (by with_reducible assumption) (by decide)) : Kept F o0 (icvBegin x s) := by
  unfold icvBegin
  repeat' first
    | with_reducible assumption | (with_reducible exact Sub.mono hF (by decide))
    | ((with_reducible refine FrameU.mk fun p hp => ?_); cases p <;> first | exact absurd hp (by decide) | exact rfl | exact trivial | exact ⟨rfl, rfl⟩)
    | with_reducible apply st_wrB_kept | with_reducible apply st_setIcv_kept | with_reducible apply kept_ite | split | dsimp only
    | fail_if_no_progress with_reducible refine kept_upd 2097153 ?_ rfl rfl rfl ?_ hF

theorem startConversion_kept {F : Nat} {o0 s : State} (ago : Nat) (hI : Kept F o0 s) (hF : Sub 2097153 F := by first | with_reducible assumption | exact Sub.mono (by with_reducible assumption) (by decide)) : Kept F o0 (startConversion ago s) := by
  unfold startConversion
  repeat' first
    | with_reducible assumption | (with_reducible exact Sub.mono hF (by decide))
    | ((with_reducible refine FrameU.mk fun p hp => ?_); cases p <;> first | exact absurd hp (by decide) | exact rfl | exact trivial | exact ⟨rfl, rfl⟩)
    | with_reducible apply st_wr_kept | with_reducible apply st_flag_kept | with_reducible apply st_setLmf_kept
    | with_reducible apply icvBegin_kept | with_reducible apply kept_ite | split

theorem icvShow_kept {F : Nat} {o0 s : State} (x : Nat) (hI : Kept F o0 s) (hF : Sub 1 F := by first | with_reducible assumption | exact Sub.mono (by with_reducible assumption) (by decide)) : Kept F o0 (icvShow x s) := by
  unfold icvShow
  repeat' first
    | with_reducible assumption | (with_reducible exact Sub.mono hF (by decide))
    | ((with_reducible refine FrameU.mk fun p hp => ?_); cases p <;> first | exact absurd hp (by decide) | exact rfl | exact trivial | exact ⟨rfl, rfl⟩)
    | with_reducible apply st_wr_kept | with_reducible apply st_wrB_kept

theorem icvPush_kept {F : Nat} {o0 s : State} (x : Nat) (r : IcvRes) (hI : Kept F o0 s) (hF : Sub 2097153 F := by first | with_reducible assumption | exact Sub.mono (by with_reducible assumption) (by decide)) : Kept F o0 (icvPush x r s) := by
  unfold icvPush
  repeat' first
    | with_reducible assumption | (with_reducible exact Sub.mono hF (by decide))
    | ((with_reducible refine FrameU.mk fun p hp => ?_); cases p <;> first | exact absurd hp (by decide) | exact rfl | exact trivial | exact ⟨rfl, rfl⟩)
    | with_reducible apply st_inc_kept | with_reducible apply st_flag_kept | with_reducible apply st_setIcv_kept
    | with_reducible apply icvShow_kept | with_reducible apply kept_ite | split

theorem icvCode_kept {F : Nat} {o0 s : State} (x : Nat) (i : IcvIn) (hI : Kept F o0 s) (hF : Sub 1 F := by first | with_reducible assumption | exact Sub.mono (by with_reducible assumption) (by decide)) : Kept F o0 (icvCode x i s).2.2 := by
  unfold icvCode
  repeat' first
    | with_reducible assumption | (with_reducible exact Sub.mono hF (by decide))
    | ((with_reducible refine FrameU.mk fun p hp => ?_); cases p <;> first | exact absurd hp (by decide) | exact rfl | exact trivial | exact ⟨rfl, rfl⟩)
    | with_reducible apply st_flag_kept | with_reducible apply kept_ite | with_reducible apply kept_ite_fst
    | with_reducible apply kept_ite_snd | with_reducible apply kept_ite_snd2 | split

theorem icvCode_kept_eq {F : Nat} {o0 s : State} {y0 y1 y2} {x : Nat} {i : IcvIn} (hI : Kept F o0 s) (hF : Sub 1 F := by first | with_reducible assumption | exact Sub.mono (by with_reducible assumption) (by decide)) (e : icvCode x i s = (y0, y1, y2)) : Kept F o0 y2 := by
  have h2 := icvCode_kept x i hI
  rw [e] at h2; exact h2

theorem icvSettle_kept {F : Nat} {o0 s : State} (x : Nat) (hI : Kept F o0 s) (hF : Sub 2097153 F := by first | with_reducible assumption | exact Sub.mono (by with_reducible assumption) (by decide)) : Kept F o0 (icvSettle x s) := by
  unfold icvSettle
  repeat' first
    | with_reducible assumption | (with_reducible exact Sub.mono hF (by decide))
    | ((with_reducible refine FrameU.mk fun p hp => ?_); cases p <;> first | exact absurd hp (by decide) | exact rfl | exact trivial | exact ⟨rfl, rfl⟩)
    | with_reducible apply st_wrB_kept | with_reducible apply st_setIcv_kept

theorem icvResult_kept {F : Nat} {o0 s : State} (x : Nat) (r : ScanRun) (codes : List Nat) (flags : Nat) (start : Nat) (stop : Nat) (hI : Kept F o0 s) (hF : Sub 2097153 F := by first | with_reducible assumption | exact Sub.mono (by with_reducible assumption) (by decide)) : Kept F o0 (icvResult x r codes flags start stop s) := by
  unfold icvResult
  repeat' first
    | with_reducible assumption | (with_reducible exact Sub.mono hF (by decide))
    | ((with_reducible refine FrameU.mk fun p hp => ?_); cases p <;> first | exact absurd hp (by decide) | exact rfl | exact trivial | exact ⟨rfl, rfl⟩)
    | with_reducible apply st_setLmf_kept | with_reducible apply icvPush_kept | with_reducible apply kept_ite | split | dsimp only
    | fail_if_no_progress with_reducible refine kept_upd 2097153 ?_ rfl rfl rfl ?_ hF

theorem icvScan_kept {F : Nat} {o0 s : State} (x : Nat) (i : IcvIn) (start : Nat) (stop : Nat) (hI : Kept F o0 s) (hF : Sub 2097153 F := by first | with_reducible assumption | exact Sub.mono (by with_reducible assumption) (by decide)) : Kept F o0 (icvScan x i start stop s) := by
  unfold icvScan
  repeat' first
    | with_reducible assumption | (with_reducible exact Sub.mono hF (by decide))
    | ((with_reducible refine FrameU.mk fun p hp => ?_); cases p <;> first | exact absurd hp (by decide) | exact rfl | exact trivial | exact ⟨rfl, rfl⟩)
    | with_reducible apply st_setIcv_kept | (refine icvCode_kept_eq ?_ ?_ (by assumption)) | with_reducible apply icvCode_kept
    | with_reducible apply icvSettle_kept | with_reducible apply icvResult_kept | with_reducible apply kept_ite | split | dsimp only
    | fail_if_no_progress with_reducible refine kept_upd 2097153 ?_ rfl rfl rfl ?_ hF

theorem plausPair_kept {F : Nat} {o0 s : State} (a : IcvIn) (b : IcvIn) (start : Nat) (stop : Nat) (hI : Kept F o0 s) (hF : Sub 2097153 F := by first | with_reducible assumption | exact Sub.mono (by with_reducible assumption) (by decide)) : Kept F o0 (plausPair a b start stop s) := by
  unfold plausPair
  repeat' first
    | with_reducible assumption | (with_reducible exact Sub.mono hF (by decide))
    | ((with_reducible refine FrameU.mk fun p hp => ?_); cases p <;> first | exact absurd hp (by decide) | exact rfl | exact trivial | exact ⟨rfl, rfl⟩)
    | with_reducible apply st_wr_kept | with_reducible apply st_wrSat_kept | with_reducible apply st_flag_kept
    | with_reducible apply st_wrB_kept | with_reducible apply st_setLmf_kept | with_reducible apply icvPush_kept
    | (refine icvCode_kept_eq ?_ ?_ (by assumption)) | with_reducible apply icvCode_kept | with_reducible apply icvSettle_kept
    | with_reducible apply kept_ite | split

theorem execIcvConversionEnd_kept {F : Nat} {o0 s : State} (a : IcvIn) (b : IcvIn) (hI : Kept F o0 s) (hF : Sub 2097153 F := by first | with_reducible assumption | exact Sub.mono (by with_reducible assumption) (by decide)) : OutKept F o0 (execIcvConversionEnd a b s) := by
  unfold execIcvConversionEnd
  repeat' first
    | with_reducible assumption | (with_reducible exact Sub.mono hF (by decide))
    | ((with_reducible refine FrameU.mk fun p hp => ?_); cases p <;> first | exact absurd hp (by decide) | exact rfl | exact trivial | exact ⟨rfl, rfl⟩)
    | with_reducible apply st_setLmf_kept | with_reducible apply st_setIcv_kept | with_reducible apply startConversion_kept
    | with_reducible apply icvScan_kept | with_reducible apply plausPair_kept | with_reducible apply kept_next
    | with_reducible apply kept_ite | split

theorem execIcvRefSettled_kept {F : Nat} {o0 s : State} (x : Fin 2) (hI : Kept F o0 s) (hF : Sub 2097153 F := by first | with_reducible assumption | exact Sub.mono (by with_reducible assumption) (by decide)) : OutKept F o0 (execIcvRefSettled x s) := by
  unfold execIcvRefSettled
  repeat' first
    | with_reducible assumption | (with_reducible exact Sub.mono hF (by decide))
    | ((with_reducible refine FrameU.mk fun p hp => ?_); cases p <;> first | exact absurd hp (by decide) | exact rfl | exact trivial | exact ⟨rfl, rfl⟩)
    | with_reducible apply st_wrB_kept | with_reducible apply st_setIcv_kept | with_reducible apply kept_next
    | with_reducible apply kept_ite | split | dsimp only
    | fail_if_no_progress with_reducible refine kept_upd 2097153 ?_ rfl rfl rfl ?_ hF

theorem icvRefWrite_kept {F : Nat} {o0 s : State} (x : Nat) (v : Nat) (hI : Kept F o0 s) (hF : Sub 2097153 F := by first | with_reducible assumption | exact Sub.mono (by with_reducible assumption) (by decide)) : Kept F o0 (icvRefWrite x v s) := by
  unfold icvRefWrite
  repeat' first
    | with_reducible assumption | (with_reducible exact Sub.mono hF (by decide))
    | ((with_reducible refine FrameU.mk fun p hp => ?_); cases p <;> first | exact absurd hp (by decide) | exact rfl | exact trivial | exact ⟨rfl, rfl⟩)
    | with_reducible apply st_wr_kept | with_reducible apply st_setIcv_kept | with_reducible apply icvSettle_kept
    | with_reducible apply kept_ite | split

theorem execIcvRefWrite_kept {F : Nat} {o0 s : State} (x : Fin 2) (v : Fin 4) (hI : Kept F o0 s) (hF : Sub 2097153 F := by first | with_reducible assumption | exact Sub.mono (by with_reducible assumption) (by decide)) : OutKept F o0 (execIcvRefWrite x v s) := by
  unfold execIcvRefWrite
  repeat' first
    | with_reducible assumption | (with_reducible exact Sub.mono hF (by decide))
    | ((with_reducible refine FrameU.mk fun p hp => ?_); cases p <;> first | exact absurd hp (by decide) | exact rfl | exact trivial | exact ⟨rfl, rfl⟩)
    | with_reducible apply icvRefWrite_kept | with_reducible apply kept_next

theorem icvPop_kept {F : Nat} {o0 s : State} (x : Nat) (hI : Kept F o0 s) (hF : Sub 4398048608257 F := by first | with_reducible assumption | exact Sub.mono (by with_reducible assumption) (by decide)) : Kept F o0 (icvPop x s) := by
  unfold icvPop
  repeat' first
    | with_reducible assumption | (with_reducible exact Sub.mono hF (by decide))
    | ((with_reducible refine FrameU.mk fun p hp => ?_); cases p <;> first | exact absurd hp (by decide) | exact rfl | exact trivial | exact ⟨rfl, rfl⟩)
    | with_reducible apply st_emit_kept | with_reducible apply st_setIcv_kept | with_reducible apply icvShow_kept

theorem execIcvQueuePop_kept {F : Nat} {o0 s : State} (x : Fin 2) (hI : Kept F o0 s) (hF : Sub 4398048608257 F := by first | with_reducible assumption | exact Sub.mono (by with_reducible assumption) (by decide)) : OutKept F o0 (execIcvQueuePop x s) := by
  unfold execIcvQueuePop
  repeat' first
    | with_reducible assumption | (with_reducible exact Sub.mono hF (by decide))
    | ((with_reducible refine FrameU.mk fun p hp => ?_); cases p <;> first | exact absurd hp (by decide) | exact rfl | exact trivial | exact ⟨rfl, rfl⟩)
    | with_reducible apply icvPop_kept | with_reducible apply kept_next

theorem lmfLat_kept {F : Nat} {o0 s : State}  (hI : Kept F o0 s) (hF : Sub 1 F := by first | with_reducible assumption | exact Sub.mono (by with_reducible assumption) (by decide)) : Kept F o0 (lmfLat s) := by
  unfold lmfLat
  repeat' first
    | with_reducible assumption | (with_reducible exact Sub.mono hF (by decide))
    | ((with_reducible refine FrameU.mk fun p hp => ?_); cases p <;> first | exact absurd hp (by decide) | exact rfl | exact trivial | exact ⟨rfl, rfl⟩)
    | with_reducible apply st_wr_kept

theorem lmfStart_kept {F : Nat} {o0 s : State}  (hI : Kept F o0 s) (hF : Sub 2097153 F := by first | with_reducible assumption | exact Sub.mono (by with_reducible assumption) (by decide)) : Kept F o0 (lmfStart s) := by
  unfold lmfStart
  repeat' first
    | with_reducible assumption | (with_reducible exact Sub.mono hF (by decide))
    | ((with_reducible refine FrameU.mk fun p hp => ?_); cases p <;> first | exact absurd hp (by decide) | exact rfl | exact trivial | exact ⟨rfl, rfl⟩)
    | with_reducible apply st_setLmf_kept | with_reducible apply sdRestart_kept | with_reducible apply startConversion_kept
    | with_reducible apply icvSettle_kept | with_reducible apply lmfLat_kept | with_reducible apply kept_ite
    | (with_reducible refine kept_foldl ?_ (fun _ _ _ => ?_)) | (intro _) | split | dsimp only
    | fail_if_no_progress with_reducible refine kept_upd 2097153 ?_ rfl rfl rfl ?_ hF

theorem lmfStop_kept {F : Nat} {o0 s : State}  (hI : Kept F o0 s) (hF : Sub 2097153 F := by first | with_reducible assumption | exact Sub.mono (by with_reducible assumption) (by decide)) : Kept F o0 (lmfStop s) := by
  unfold lmfStop
  repeat' first
    | with_reducible assumption | (with_reducible exact Sub.mono hF (by decide))
    | ((with_reducible refine FrameU.mk fun p hp => ?_); cases p <;> first | exact absurd hp (by decide) | exact rfl | exact trivial | exact ⟨rfl, rfl⟩)
    | with_reducible apply st_wrB_kept | with_reducible apply st_setLmf_kept | with_reducible apply icvShow_kept

theorem lmfSwap_kept {F : Nat} {o0 s : State} (same : Nat → Bool) (sameScan : Nat → Nat → Bool) (hI : Kept F o0 s) (hF : Sub 2097153 F := by first | with_reducible assumption | exact Sub.mono (by with_reducible assumption) (by decide)) : Kept F o0 (lmfSwap same sameScan s) := by
  unfold lmfSwap
  repeat' first
    | with_reducible assumption | (with_reducible exact Sub.mono hF (by decide))
    | ((with_reducible refine FrameU.mk fun p hp => ?_); cases p <;> first | exact absurd hp (by decide) | exact rfl | exact trivial | exact ⟨rfl, rfl⟩)
    | with_reducible apply st_setLmf_kept | with_reducible apply st_setSd_kept | with_reducible apply st_setIcv_kept
    | with_reducible apply sdRestart_kept | with_reducible apply lmfLat_kept | with_reducible apply lmfStart_kept
    | with_reducible apply lmfStop_kept | with_reducible apply kept_ite | (with_reducible refine kept_foldl ?_ (fun _ _ _ => ?_))
    | (intro _) | split | dsimp only | fail_if_no_progress with_reducible refine kept_upd 2097153 ?_ rfl rfl rfl ?_ hF

end Sys2Proof.Machine
end

