-- ==== Sys2Proof/Laws/KeptCoherency.lean ====
section
/-!
SUPPORT. What Machine/Coherency.lean keeps of a state: one lemma per operation.
-/

namespace Sys2Proof.Machine

set_option linter.all false
set_option Elab.async false

theorem st_setCoh_kept {F : Nat} {o0 s : State} (c : Coh) (hI : Kept F o0 s) (hF : Sub 131072 F := by first | with_reducible assumption | exact Sub.mono (by with_reducible assumption) (by decide)) : Kept F o0 (State.setCoh s c) := by
  unfold State.setCoh
  repeat' first
    | with_reducible assumption | (with_reducible exact Sub.mono hF (by decide))
    | ((with_reducible refine FrameU.mk fun p hp => ?_); cases p <;> first | exact absurd hp (by decide) | exact rfl | exact trivial | exact ⟨rfl, rfl⟩)
    | fail_if_no_progress with_reducible refine kept_upd 131072 ?_ rfl rfl rfl ?_ hF

theorem cohRun_kept {F : Nat} {o0 s : State} (i : Inst) (j : Nat) (hI : Kept F o0 s) (hF : Sub 1107460481 F := by first | with_reducible assumption | exact Sub.mono (by with_reducible assumption) (by decide)) : Kept F o0 (cohRun i j s) := by
  unfold cohRun
  repeat' first
    | with_reducible assumption | (with_reducible exact Sub.mono hF (by decide))
    | ((with_reducible refine FrameU.mk fun p hp => ?_); cases p <;> first | exact absurd hp (by decide) | exact rfl | exact trivial | exact ⟨rfl, rfl⟩)
    | with_reducible apply st_wr_kept | with_reducible apply st_inc_kept | with_reducible apply st_flag_kept
    | with_reducible apply postAt_kept | with_reducible apply putOut_kept | with_reducible apply st_setCoh_kept
    | with_reducible apply kept_ite | (with_reducible refine kept_foldl ?_ (fun _ _ _ => ?_)) | (intro _) | split | dsimp only
    | fail_if_no_progress with_reducible refine kept_upd 1107460481 ?_ rfl rfl rfl ?_ hF

theorem cohFor_kept {F : Nat} {o0 s : State} (i : Inst) (run : State → State) (hrun : ∀ x0, Kept F o0 x0 → Kept F o0 (run x0)) (hI : Kept F o0 s) (hF : Sub 131072 F := by first | with_reducible assumption | exact Sub.mono (by with_reducible assumption) (by decide)) : Kept F o0 (cohFor i run s) := by
  unfold cohFor
  repeat' first
    | with_reducible assumption | with_reducible apply hrun | (with_reducible exact Sub.mono hF (by decide))
    | ((with_reducible refine FrameU.mk fun p hp => ?_); cases p <;> first | exact absurd hp (by decide) | exact rfl | exact trivial | exact ⟨rfl, rfl⟩)
    | with_reducible apply st_setCoh_kept | with_reducible apply kept_ite | (intro _) | split

theorem execComponents_kept {F : Nat} {o0 s : State} (n : Nat) (item : Fin 4096) (hI : Kept F o0 s) (hF : Sub 2200130716033 F := by first | with_reducible assumption | exact Sub.mono (by with_reducible assumption) (by decide)) : OutKept F o0 (execComponents n item s) := by
  unfold execComponents
  repeat' first
    | with_reducible assumption | (with_reducible exact Sub.mono hF (by decide))
    | ((with_reducible refine FrameU.mk fun p hp => ?_); cases p <;> first | exact absurd hp (by decide) | exact rfl | exact trivial | exact ⟨rfl, rfl⟩)
    | with_reducible apply st_eccWrite_kept | with_reducible apply cohRun_kept | with_reducible apply cohFor_kept
    | with_reducible apply kept_next | with_reducible apply kept_ite | (intro _) | split | dsimp only
    | fail_if_no_progress with_reducible refine kept_upd 2200130716033 ?_ rfl rfl rfl ?_ hF

theorem execCohSramUe_kept {F : Nat} {o0 s : State} (e : EccErr) (hI : Kept F o0 s) (hF : Sub 1107427713 F := by first | with_reducible assumption | exact Sub.mono (by with_reducible assumption) (by decide)) : OutKept F o0 (execCohSramUe e s) := by
  unfold execCohSramUe
  repeat' first
    | with_reducible assumption | (with_reducible exact Sub.mono hF (by decide))
    | ((with_reducible refine FrameU.mk fun p hp => ?_); cases p <;> first | exact absurd hp (by decide) | exact rfl | exact trivial | exact ⟨rfl, rfl⟩)
    | with_reducible apply st_inc_kept | with_reducible apply st_flag_kept | with_reducible apply post_kept
    | with_reducible apply st_setCoh_kept | with_reducible apply kept_next | with_reducible apply kept_ite | split

theorem cohSwap_kept {F : Nat} {o0 s : State} (old : Option Image) (new : Option Image) (hI : Kept F o0 s) (hF : Sub 131072 F := by first | with_reducible assumption | exact Sub.mono (by with_reducible assumption) (by decide)) : Kept F o0 (cohSwap old new s) := by
  unfold cohSwap
  repeat' first
    | with_reducible assumption | (with_reducible exact Sub.mono hF (by decide))
    | ((with_reducible refine FrameU.mk fun p hp => ?_); cases p <;> first | exact absurd hp (by decide) | exact rfl | exact trivial | exact ⟨rfl, rfl⟩)
    | with_reducible apply st_setCoh_kept | with_reducible apply kept_ite

theorem cohNodeSelect_kept {F : Nat} {o0 s : State} (v : Nat) (hI : Kept F o0 s) (hF : Sub 1 F := by first | with_reducible assumption | exact Sub.mono (by with_reducible assumption) (by decide)) : Kept F o0 (cohNodeSelect v s) := by
  unfold cohNodeSelect
  repeat' first
    | with_reducible assumption | (with_reducible exact Sub.mono hF (by decide))
    | ((with_reducible refine FrameU.mk fun p hp => ?_); cases p <;> first | exact absurd hp (by decide) | exact rfl | exact trivial | exact ⟨rfl, rfl⟩)
    | with_reducible apply st_wr_kept

theorem cohBranchSelect_kept {F : Nat} {o0 s : State} (v : Nat) (hI : Kept F o0 s) (hF : Sub 1 F := by first | with_reducible assumption | exact Sub.mono (by with_reducible assumption) (by decide)) : Kept F o0 (cohBranchSelect v s) := by
  unfold cohBranchSelect
  repeat' first
    | with_reducible assumption | (with_reducible exact Sub.mono hF (by decide))
    | ((with_reducible refine FrameU.mk fun p hp => ?_); cases p <;> first | exact absurd hp (by decide) | exact rfl | exact trivial | exact ⟨rfl, rfl⟩)
    | with_reducible apply st_wr_kept | with_reducible apply st_wrB_kept

end Sys2Proof.Machine
end

