-- ==== Sys2Proof/Laws/KeptImages.lean ====
section
/-!
SUPPORT. What Machine/Images.lean keeps of a state: one lemma per operation.
-/

namespace Sys2Proof.Machine

set_option linter.all false
set_option Elab.async false

theorem groupRegs_kept {F : Nat} {o0 s : State} (i : Image) (g : Nat) (hI : Kept F o0 s) (hF : Sub 1 F := by first | with_reducible assumption | exact Sub.mono (by with_reducible assumption) (by decide)) : Kept F o0 (groupRegs i g s) := by
  unfold groupRegs
  repeat' first
    | with_reducible assumption | (with_reducible exact Sub.mono hF (by decide))
    | ((with_reducible refine FrameU.mk fun p hp => ?_); cases p <;> first | exact absurd hp (by decide) | exact rfl | exact trivial | exact ⟨rfl, rfl⟩)
    | with_reducible apply st_wr_kept | with_reducible apply st_wrB_kept | with_reducible apply kept_ite | split

theorem snareRegs_kept {F : Nat} {o0 s : State} (i : Image) (k : Nat) (hI : Kept F o0 s) (hF : Sub 1 F := by first | with_reducible assumption | exact Sub.mono (by with_reducible assumption) (by decide)) : Kept F o0 (snareRegs i k s) := by
  unfold snareRegs
  repeat' first
    | with_reducible assumption | (with_reducible exact Sub.mono hF (by decide))
    | ((with_reducible refine FrameU.mk fun p hp => ?_); cases p <;> first | exact absurd hp (by decide) | exact rfl | exact trivial | exact ⟨rfl, rfl⟩)
    | with_reducible apply st_wr_kept | with_reducible apply st_wrB_kept | with_reducible apply kept_ite | split

theorem pulseRegs_kept {F : Nat} {o0 s : State} (i : Image) (k : Nat) (hI : Kept F o0 s) (hF : Sub 1 F := by first | with_reducible assumption | exact Sub.mono (by with_reducible assumption) (by decide)) : Kept F o0 (pulseRegs i k s) := by
  unfold pulseRegs
  repeat' first
    | with_reducible assumption | (with_reducible exact Sub.mono hF (by decide))
    | ((with_reducible refine FrameU.mk fun p hp => ?_); cases p <;> first | exact absurd hp (by decide) | exact rfl | exact trivial | exact ⟨rfl, rfl⟩)
    | with_reducible apply st_wr_kept | with_reducible apply st_wrB_kept | with_reducible apply kept_ite | split

theorem sectionRegs_kept {F : Nat} {o0 s : State} (slot : Nat) (i : Image) (hI : Kept F o0 s) (hF : Sub 1 F := by first | with_reducible assumption | exact Sub.mono (by with_reducible assumption) (by decide)) : Kept F o0 (sectionRegs slot i s) := by
  unfold sectionRegs
  repeat' first
    | with_reducible assumption | (with_reducible exact Sub.mono hF (by decide))
    | ((with_reducible refine FrameU.mk fun p hp => ?_); cases p <;> first | exact absurd hp (by decide) | exact rfl | exact trivial | exact ⟨rfl, rfl⟩)
    | with_reducible apply st_wr_kept | with_reducible apply st_wrB_kept | with_reducible apply groupRegs_kept
    | with_reducible apply snareRegs_kept | with_reducible apply pulseRegs_kept | with_reducible apply kept_ite
    | (with_reducible refine kept_foldl ?_ (fun _ _ _ => ?_)) | (intro _) | split | dsimp only
    | fail_if_no_progress with_reducible refine kept_upd 1 ?_ rfl rfl rfl ?_ hF

theorem slotSync_kept {F : Nat} {o0 s : State}  (hI : Kept F o0 s) (hF : Sub 1 F := by first | with_reducible assumption | exact Sub.mono (by with_reducible assumption) (by decide)) : Kept F o0 (slotSync s) := by
  unfold slotSync
  repeat' first
    | with_reducible assumption | (with_reducible exact Sub.mono hF (by decide))
    | ((with_reducible refine FrameU.mk fun p hp => ?_); cases p <;> first | exact absurd hp (by decide) | exact rfl | exact trivial | exact ⟨rfl, rfl⟩)
    | with_reducible apply st_wr_kept

theorem imageRegs_kept {F : Nat} {o0 s : State} (old : Option Image) (slot : Nat) (i : Image) (hI : Kept F o0 s) (hF : Sub 1 F := by first | with_reducible assumption | exact Sub.mono (by with_reducible assumption) (by decide)) : Kept F o0 (imageRegs old slot i s) := by
  unfold imageRegs
  repeat' first
    | with_reducible assumption | (with_reducible exact Sub.mono hF (by decide))
    | ((with_reducible refine FrameU.mk fun p hp => ?_); cases p <;> first | exact absurd hp (by decide) | exact rfl | exact trivial | exact ⟨rfl, rfl⟩)
    | with_reducible apply loadRegs_kept | with_reducible apply sectionRegs_kept | with_reducible apply slotSync_kept

theorem raiseTickSecond_kept {F : Nat} {o0 s : State}  (hI : Kept F o0 s) (hF : Sub 8 F := by first | with_reducible assumption | exact Sub.mono (by with_reducible assumption) (by decide)) : Kept F o0 (raiseTickSecond s) := by
  unfold raiseTickSecond
  repeat' first
    | with_reducible assumption | (with_reducible exact Sub.mono hF (by decide))
    | ((with_reducible refine FrameU.mk fun p hp => ?_); cases p <;> first | exact absurd hp (by decide) | exact rfl | exact trivial | exact ⟨rfl, rfl⟩)
    | with_reducible apply st_setClv_kept | with_reducible apply kept_ite | split

theorem accFit_kept {F : Nat} {o0 s : State} (i : Image) (hI : Kept F o0 s) (hF : Sub 524288 F := by first | with_reducible assumption | exact Sub.mono (by with_reducible assumption) (by decide)) : Kept F o0 (accFit i s) := by
  unfold accFit
  repeat' first
    | with_reducible assumption | (with_reducible exact Sub.mono hF (by decide))
    | ((with_reducible refine FrameU.mk fun p hp => ?_); cases p <;> first | exact absurd hp (by decide) | exact rfl | exact trivial | exact ⟨rfl, rfl⟩)
    | with_reducible apply st_setAcc_kept

theorem startImage_kept {F : Nat} {o0 s : State} (slot : Nat) (i : Image) (hI : Kept F o0 s) (hF : Sub 6597111709001 F := by first | with_reducible assumption | exact Sub.mono (by with_reducible assumption) (by decide)) : Kept F o0 (startImage slot i s) := by
  unfold startImage
  repeat' first
    | with_reducible assumption | (with_reducible exact Sub.mono hF (by decide))
    | ((with_reducible refine FrameU.mk fun p hp => ?_); cases p <;> first | exact absurd hp (by decide) | exact rfl | exact trivial | exact ⟨rfl, rfl⟩)
    | with_reducible apply st_wrB_kept | with_reducible apply setRole_kept | with_reducible apply seek_kept
    | with_reducible apply st_setPmc_kept | with_reducible apply st_setIng_kept | with_reducible apply st_setPgh_kept
    | with_reducible apply st_setTmb_kept | with_reducible apply lmfStart_kept | with_reducible apply imageRegs_kept
    | with_reducible apply raiseTickSecond_kept | with_reducible apply accFit_kept | with_reducible apply kept_ite | split
    | dsimp only | fail_if_no_progress with_reducible refine kept_upd 6597111709001 ?_ rfl rfl rfl ?_ hF

theorem ingSwap_kept {F : Nat} {o0 s : State} (old : Image) (new : Image) (hI : Kept F o0 s) (hF : Sub 4398046527569 F := by first | with_reducible assumption | exact Sub.mono (by with_reducible assumption) (by decide)) : Kept F o0 (ingSwap old new s) := by
  unfold ingSwap
  repeat' first
    | with_reducible assumption | (with_reducible exact Sub.mono hF (by decide))
    | ((with_reducible refine FrameU.mk fun p hp => ?_); cases p <;> first | exact absurd hp (by decide) | exact rfl | exact trivial | exact ⟨rfl, rfl⟩)
    | with_reducible apply st_emit_kept | with_reducible apply st_setIng_kept | with_reducible apply st_setIngSlot_kept
    | with_reducible apply mapJobs_kept | with_reducible apply st_setTcp_kept | with_reducible apply st_setHist_kept
    | with_reducible apply kept_ite | (with_reducible refine kept_foldl ?_ (fun _ _ _ => ?_)) | (intro _) | split | dsimp only
    | fail_if_no_progress with_reducible refine kept_upd 4398046527569 ?_ rfl rfl rfl ?_ hF

theorem pghSwap_kept {F : Nat} {o0 s : State} (old : Image) (new : Image) (hI : Kept F o0 s) (hF : Sub 16384 F := by first | with_reducible assumption | exact Sub.mono (by with_reducible assumption) (by decide)) : Kept F o0 (pghSwap old new s) := by
  unfold pghSwap
  repeat' first
    | with_reducible assumption | (with_reducible exact Sub.mono hF (by decide))
    | ((with_reducible refine FrameU.mk fun p hp => ?_); cases p <;> first | exact absurd hp (by decide) | exact rfl | exact trivial | exact ⟨rfl, rfl⟩)
    | with_reducible apply st_setPgh_kept

theorem outSwap_kept {F : Nat} {o0 s : State} (old : Image) (new : Image) (hI : Kept F o0 s) (hF : Sub 1310720 F := by first | with_reducible assumption | exact Sub.mono (by with_reducible assumption) (by decide)) : Kept F o0 (outSwap old new s) := by
  unfold outSwap
  repeat' first
    | with_reducible assumption | (with_reducible exact Sub.mono hF (by decide))
    | ((with_reducible refine FrameU.mk fun p hp => ?_); cases p <;> first | exact absurd hp (by decide) | exact rfl | exact trivial | exact ⟨rfl, rfl⟩)
    | with_reducible apply st_setEgr_kept | with_reducible apply st_setAlm_kept | with_reducible apply st_setAlmSt_kept
    | with_reducible apply kept_ite | (with_reducible refine kept_foldl ?_ (fun _ _ _ => ?_)) | (intro _) | split | dsimp only
    | fail_if_no_progress with_reducible refine kept_upd 1310720 ?_ rfl rfl rfl ?_ hF

theorem prpSwap_kept {F : Nat} {o0 s : State} (k : Nat) (hI : Kept F o0 s) (hF : Sub 1048576 F := by first | with_reducible assumption | exact Sub.mono (by with_reducible assumption) (by decide)) : Kept F o0 (prpSwap k s) := by
  unfold prpSwap
  repeat' first
    | with_reducible assumption | (with_reducible exact Sub.mono hF (by decide))
    | ((with_reducible refine FrameU.mk fun p hp => ?_); cases p <;> first | exact absurd hp (by decide) | exact rfl | exact trivial | exact ⟨rfl, rfl⟩)
    | with_reducible apply st_setEgr_kept | with_reducible apply kept_ite | split

theorem portSwap_kept {F : Nat} {o0 s : State} (old : Image) (new : Image) (hI : Kept F o0 s) (hF : Sub 34603057 F := by first | with_reducible assumption | exact Sub.mono (by with_reducible assumption) (by decide)) : Kept F o0 (portSwap old new s) := by
  unfold portSwap
  repeat' first
    | with_reducible assumption | (with_reducible exact Sub.mono hF (by decide))
    | ((with_reducible refine FrameU.mk fun p hp => ?_); cases p <;> first | exact absurd hp (by decide) | exact rfl | exact trivial | exact ⟨rfl, rfl⟩)
    | with_reducible apply portLinkLost_kept | with_reducible apply kept_ite
    | (with_reducible refine kept_foldl ?_ (fun _ _ _ => ?_)) | (intro _) | split | dsimp only
    | fail_if_no_progress with_reducible refine kept_upd 34603057 ?_ rfl rfl rfl ?_ hF

theorem pairSwap_kept {F : Nat} {o0 s : State} (old : Image) (new : Image) (hI : Kept F o0 s) (hF : Sub 6598181257601 F := by first | with_reducible assumption | exact Sub.mono (by with_reducible assumption) (by decide)) : Kept F o0 (pairSwap old new s) := by
  unfold pairSwap
  repeat' first
    | with_reducible assumption | (with_reducible exact Sub.mono hF (by decide))
    | ((with_reducible refine FrameU.mk fun p hp => ?_); cases p <;> first | exact absurd hp (by decide) | exact rfl | exact trivial | exact ⟨rfl, rfl⟩)
    | with_reducible apply st_setPair_kept | with_reducible apply setRole_kept | with_reducible apply seek_kept
    | with_reducible apply joinSwap_kept | with_reducible apply kept_ite | split

theorem swapUnits_kept {F : Nat} {o0 s : State} (old : Image) (new : Image) (k : Nat) (hI : Kept F o0 s) (hF : Sub 6598252511729 F := by first | with_reducible assumption | exact Sub.mono (by with_reducible assumption) (by decide)) : Kept F o0 (swapUnits old new k s) := by
  unfold swapUnits
  repeat' first
    | with_reducible assumption | (with_reducible exact Sub.mono hF (by decide))
    | ((with_reducible refine FrameU.mk fun p hp => ?_); cases p <;> first | exact absurd hp (by decide) | exact rfl | exact trivial | exact ⟨rfl, rfl⟩)
    | with_reducible apply pmcSwap_kept | with_reducible apply tstOff_kept | with_reducible apply accSwap_kept
    | with_reducible apply specSwap_kept | with_reducible apply snareSwap_kept | with_reducible apply lmfSwap_kept
    | with_reducible apply cohSwap_kept | with_reducible apply ingSwap_kept | with_reducible apply pghSwap_kept
    | with_reducible apply outSwap_kept | with_reducible apply prpSwap_kept | with_reducible apply portSwap_kept
    | with_reducible apply pairSwap_kept | (intro _)

theorem applySwap_kept {F : Nat} {o0 s : State} (i : Image) (slot : Nat) (k : Nat) (hI : Kept F o0 s) (hF : Sub 6619727396337 F := by first | with_reducible assumption | exact Sub.mono (by with_reducible assumption) (by decide)) : Kept F o0 (applySwap i slot k s) := by
  unfold applySwap
  repeat' first
    | with_reducible assumption | (with_reducible exact Sub.mono hF (by decide))
    | ((with_reducible refine FrameU.mk fun p hp => ?_); cases p <;> first | exact absurd hp (by decide) | exact rfl | exact trivial | exact ⟨rfl, rfl⟩)
    | with_reducible apply st_wrB_kept | with_reducible apply st_wr64_kept | with_reducible apply postAt_kept
    | with_reducible apply st_setTmb_kept | with_reducible apply commitNow_kept | with_reducible apply imageRegs_kept
    | with_reducible apply swapUnits_kept | with_reducible apply kept_ite | split | dsimp only
    | fail_if_no_progress with_reducible refine kept_upd 6619727396337 ?_ rfl rfl rfl ?_ hF

theorem dropOld_kept {F : Nat} {o0 s : State}  (hI : Kept F o0 s) (hF : Sub 1108052353 F := by first | with_reducible assumption | exact Sub.mono (by with_reducible assumption) (by decide)) : Kept F o0 (dropOld s) := by
  unfold dropOld
  repeat' first
    | with_reducible assumption | (with_reducible exact Sub.mono hF (by decide))
    | ((with_reducible refine FrameU.mk fun p hp => ?_); cases p <;> first | exact absurd hp (by decide) | exact rfl | exact trivial | exact ⟨rfl, rfl⟩)
    | with_reducible apply accEnd_kept | with_reducible apply kept_ite | split | dsimp only
    | fail_if_no_progress with_reducible refine kept_upd 1108052353 ?_ rfl rfl rfl ?_ hF

end Sys2Proof.Machine
end

