-- ==== Sys2Proof/Laws/KeptSequencer.lean ====
section
/-!
SUPPORT. What Machine/Sequencer.lean keeps of a state: one lemma per operation.
-/

namespace Sys2Proof.Machine

set_option linter.all false
set_option Elab.async false

theorem applyDue_kept {F : Nat} {o0 s : State} (n : Nat) (hI : Kept F o0 s) (hF : Sub 6619727396337 F := by first | with_reducible assumption | exact Sub.mono (by with_reducible assumption) (by decide)) : Kept F o0 (applyDue n s) := by
  unfold applyDue
  repeat' first
    | with_reducible assumption | (with_reducible exact Sub.mono hF (by decide))
    | ((with_reducible refine FrameU.mk fun p hp => ?_); cases p <;> first | exact absurd hp (by decide) | exact rfl | exact trivial | exact ⟨rfl, rfl⟩)
    | with_reducible apply applySwap_kept | with_reducible apply kept_ite | split | dsimp only
    | fail_if_no_progress with_reducible refine kept_upd 6619727396337 ?_ rfl rfl rfl ?_ hF

theorem openInst_kept {F : Nat} {o0 s : State} (n : Nat) (dead : Bool) (hI : Kept F o0 s) (hF : Sub 6825885826545 F := by first | with_reducible assumption | exact Sub.mono (by with_reducible assumption) (by decide)) : Kept F o0 (openInst n dead s) := by
  unfold openInst
  repeat' first
    | with_reducible assumption | (with_reducible exact Sub.mono hF (by decide))
    | ((with_reducible refine FrameU.mk fun p hp => ?_); cases p <;> first | exact absurd hp (by decide) | exact rfl | exact trivial | exact ⟨rfl, rfl⟩)
    | with_reducible apply st_eccWrite_kept | with_reducible apply st_setTmb_kept | with_reducible apply joinAt_kept
    | with_reducible apply applyDue_kept | with_reducible apply kept_ite

theorem activate_kept {F : Nat} {o0 s : State} (n : Nat) (hI : Kept F o0 s) (hF : Sub 6825885826545 F := by first | with_reducible assumption | exact Sub.mono (by with_reducible assumption) (by decide)) : Kept F o0 (activate n s) := by
  unfold activate
  repeat' first
    | with_reducible assumption | (with_reducible exact Sub.mono hF (by decide))
    | ((with_reducible refine FrameU.mk fun p hp => ?_); cases p <;> first | exact absurd hp (by decide) | exact rfl | exact trivial | exact ⟨rfl, rfl⟩)
    | with_reducible apply st_ev_kept | with_reducible apply tmbRefresh_kept | with_reducible apply checkComplete_kept
    | with_reducible apply instancesDone_kept | with_reducible apply openInst_kept | with_reducible apply kept_ite | split

theorem execInstanceActivate_kept {F : Nat} {o0 s : State}  (hI : Kept F o0 s) (hF : Sub 6825885826545 F := by first | with_reducible assumption | exact Sub.mono (by with_reducible assumption) (by decide)) : OutKept F o0 (execInstanceActivate s) := by
  unfold execInstanceActivate
  repeat' first
    | with_reducible assumption | (with_reducible exact Sub.mono hF (by decide))
    | ((with_reducible refine FrameU.mk fun p hp => ?_); cases p <;> first | exact absurd hp (by decide) | exact rfl | exact trivial | exact ⟨rfl, rfl⟩)
    | with_reducible apply activate_kept | with_reducible apply kept_next | with_reducible apply kept_ite | split

theorem enqueueItem_kept {F : Nat} {o0 s : State} (n : Nat) (j : Nat) (p : Nat) (it : Item) (hI : Kept F o0 s) (hF : Sub 2199056842753 F := by first | with_reducible assumption | exact Sub.mono (by with_reducible assumption) (by decide)) : Kept F o0 (enqueueItem n j p it s) := by
  unfold enqueueItem
  repeat' first
    | with_reducible assumption | (with_reducible exact Sub.mono hF (by decide))
    | ((with_reducible refine FrameU.mk fun p hp => ?_); cases p <;> first | exact absurd hp (by decide) | exact rfl | exact trivial | exact ⟨rfl, rfl⟩)
    | with_reducible apply traceDispatch_kept | with_reducible apply st_setInst_kept | with_reducible apply st_setRun_kept
    | with_reducible apply tmbSync_kept | with_reducible apply st_setQueue_kept | with_reducible apply laneSync_kept
    | with_reducible apply prefetch_kept | with_reducible apply kept_ite | split | dsimp only
    | fail_if_no_progress with_reducible refine kept_upd 2199056842753 ?_ rfl rfl rfl ?_ hF

theorem execItemDispatch_kept {F : Nat} {o0 s : State} (gong : Bool) (hI : Kept F o0 s) (hF : Sub 2199056842753 F := by first | with_reducible assumption | exact Sub.mono (by with_reducible assumption) (by decide)) : OutKept F o0 (execItemDispatch gong s) := by
  unfold execItemDispatch
  repeat' first
    | with_reducible assumption | (with_reducible exact Sub.mono hF (by decide))
    | ((with_reducible refine FrameU.mk fun p hp => ?_); cases p <;> first | exact absurd hp (by decide) | exact rfl | exact trivial | exact ⟨rfl, rfl⟩)
    | with_reducible apply st_ev_kept | with_reducible apply enqueueItem_kept | with_reducible apply kept_next
    | with_reducible apply kept_ite | split | dsimp only
    | fail_if_no_progress with_reducible refine kept_upd 2199056842753 ?_ rfl rfl rfl ?_ hF

theorem startItem_kept {F : Nat} {o0 s : State} (p : Nat) (n : Nat) (j : Nat) (q : List (Nat × Nat)) (late : Bool) (hI : Kept F o0 s) (hF : Sub 2199056842753 F := by first | with_reducible assumption | exact Sub.mono (by with_reducible assumption) (by decide)) : Kept F o0 (startItem p n j q late s) := by
  unfold startItem
  repeat' first
    | with_reducible assumption | (with_reducible exact Sub.mono hF (by decide))
    | ((with_reducible refine FrameU.mk fun p hp => ?_); cases p <;> first | exact absurd hp (by decide) | exact rfl | exact trivial | exact ⟨rfl, rfl⟩)
    | with_reducible apply st_ev_kept | with_reducible apply st_setInst_kept | with_reducible apply st_setRun_kept
    | with_reducible apply tmbSync_kept | with_reducible apply st_setQueue_kept | with_reducible apply st_setRunning_kept
    | with_reducible apply laneSync_kept | with_reducible apply fetchItem_kept | with_reducible apply prefetch_kept
    | with_reducible apply kept_ite | split | dsimp only
    | fail_if_no_progress with_reducible refine kept_upd 2199056842753 ?_ rfl rfl rfl ?_ hF

theorem execItemStart_kept {F : Nat} {o0 s : State} (place : Fin 38) (late : Bool) (hI : Kept F o0 s) (hF : Sub 2199056842753 F := by first | with_reducible assumption | exact Sub.mono (by with_reducible assumption) (by decide)) : OutKept F o0 (execItemStart place late s) := by
  unfold execItemStart
  repeat' first
    | with_reducible assumption | (with_reducible exact Sub.mono hF (by decide))
    | ((with_reducible refine FrameU.mk fun p hp => ?_); cases p <;> first | exact absurd hp (by decide) | exact rfl | exact trivial | exact ⟨rfl, rfl⟩)
    | with_reducible apply startItem_kept | with_reducible apply kept_next | with_reducible apply kept_ite | split | dsimp only
    | fail_if_no_progress with_reducible refine kept_upd 2199056842753 ?_ rfl rfl rfl ?_ hF

theorem laneRetire_kept {F : Nat} {o0 s : State} (p : Nat) (n : Nat) (j : Nat) (cycles : Nat) (r : ItemRun) (it : Item) (hI : Kept F o0 s) (hF : Sub 2200130584961 F := by first | with_reducible assumption | exact Sub.mono (by with_reducible assumption) (by decide)) : Kept F o0 (laneRetire p n j cycles r it s) := by
  unfold laneRetire
  repeat' first
    | with_reducible assumption | (with_reducible exact Sub.mono hF (by decide))
    | ((with_reducible refine FrameU.mk fun p hp => ?_); cases p <;> first | exact absurd hp (by decide) | exact rfl | exact trivial | exact ⟨rfl, rfl⟩)
    | with_reducible apply st_inc_kept | with_reducible apply st_flag_kept | with_reducible apply st_nextFree_kept
    | with_reducible apply st_ev_kept | with_reducible apply postAt_kept | with_reducible apply st_setInst_kept
    | with_reducible apply kept_ite | split

theorem retireItem_kept {F : Nat} {o0 s : State} (p : Nat) (n : Nat) (j : Nat) (extra : Nat) (i : Inst) (it : Item) (hI : Kept F o0 s) (hF : Sub 6598182013313 F := by first | with_reducible assumption | exact Sub.mono (by with_reducible assumption) (by decide)) : Kept F o0 (retireItem p n j extra i it s) := by
  unfold retireItem
  repeat' first
    | with_reducible assumption | (with_reducible exact Sub.mono hF (by decide))
    | ((with_reducible refine FrameU.mk fun p hp => ?_); cases p <;> first | exact absurd hp (by decide) | exact rfl | exact trivial | exact ⟨rfl, rfl⟩)
    | with_reducible apply st_eccWrite_kept | with_reducible apply traceRetire_kept | with_reducible apply st_setTmb_kept
    | with_reducible apply st_setInst_kept | with_reducible apply st_setRun_kept | with_reducible apply tmbRefresh_kept
    | with_reducible apply st_setRunning_kept | with_reducible apply laneSync_kept | with_reducible apply checkComplete_kept
    | with_reducible apply prefSync_kept | with_reducible apply instancesDone_kept | with_reducible apply snareRetire_kept
    | with_reducible apply dropOld_kept | with_reducible apply laneRetire_kept | with_reducible apply kept_ite | split | dsimp only
    | fail_if_no_progress with_reducible refine kept_upd 6598182013313 ?_ rfl rfl rfl ?_ hF

theorem execItemRetire_kept {F : Nat} {o0 s : State} (place : Fin 38) (extra : Nat) (hI : Kept F o0 s) (hF : Sub 6598182013313 F := by first | with_reducible assumption | exact Sub.mono (by with_reducible assumption) (by decide)) : OutKept F o0 (execItemRetire place extra s) := by
  unfold execItemRetire
  repeat' first
    | with_reducible assumption | (with_reducible exact Sub.mono hF (by decide))
    | ((with_reducible refine FrameU.mk fun p hp => ?_); cases p <;> first | exact absurd hp (by decide) | exact rfl | exact trivial | exact ⟨rfl, rfl⟩)
    | with_reducible apply retireItem_kept | with_reducible apply kept_next | with_reducible apply kept_ite | split | dsimp only
    | fail_if_no_progress with_reducible refine kept_upd 6598182013313 ?_ rfl rfl rfl ?_ hF

theorem promoteItem_kept {F : Nat} {o0 s : State} (t : Nat) (n : Nat) (j : Nat) (hI : Kept F o0 s) (hF : Sub 33587201 F := by first | with_reducible assumption | exact Sub.mono (by with_reducible assumption) (by decide)) : Kept F o0 (promoteItem t n j s) := by
  unfold promoteItem
  repeat' first
    | with_reducible assumption | (with_reducible exact Sub.mono hF (by decide))
    | ((with_reducible refine FrameU.mk fun p hp => ?_); cases p <;> first | exact absurd hp (by decide) | exact rfl | exact trivial | exact ⟨rfl, rfl⟩)
    | with_reducible apply st_inc_kept | with_reducible apply st_flag_kept | with_reducible apply st_ev_kept
    | with_reducible apply st_setInst_kept | with_reducible apply st_setRun_kept | with_reducible apply kept_ite | split
    | dsimp only | fail_if_no_progress with_reducible refine kept_upd 33587201 ?_ rfl rfl rfl ?_ hF

theorem execAgePromotion_kept {F : Nat} {o0 s : State}  (hI : Kept F o0 s) (hF : Sub 33587201 F := by first | with_reducible assumption | exact Sub.mono (by with_reducible assumption) (by decide)) : OutKept F o0 (execAgePromotion s) := by
  unfold execAgePromotion
  repeat' first
    | with_reducible assumption | (with_reducible exact Sub.mono hF (by decide))
    | ((with_reducible refine FrameU.mk fun p hp => ?_); cases p <;> first | exact absurd hp (by decide) | exact rfl | exact trivial | exact ⟨rfl, rfl⟩)
    | with_reducible apply st_setTmb_kept | with_reducible apply promoteItem_kept | with_reducible apply kept_next
    | with_reducible apply kept_ite | (with_reducible refine kept_foldl ?_ (fun _ _ _ => ?_)) | (intro _) | split | dsimp only
    | fail_if_no_progress with_reducible refine kept_upd 33587201 ?_ rfl rfl rfl ?_ hF

theorem execTableSramUe_kept {F : Nat} {o0 s : State} (e : EccErr) (n : Nat) (item : Fin 4096) (hI : Kept F o0 s) (hF : Sub 6598316493187 F := by first | with_reducible assumption | exact Sub.mono (by with_reducible assumption) (by decide)) : OutKept F o0 (execTableSramUe e n item s) := by
  unfold execTableSramUe
  repeat' first
    | with_reducible assumption | (with_reducible exact Sub.mono hF (by decide))
    | ((with_reducible refine FrameU.mk fun p hp => ?_); cases p <;> first | exact absurd hp (by decide) | exact rfl | exact trivial | exact ⟨rfl, rfl⟩)
    | with_reducible apply st_inc_kept | with_reducible apply st_flag_kept | with_reducible apply postAt_kept
    | with_reducible apply abdicate_kept | with_reducible apply st_setTmb_kept | with_reducible apply tmbRefresh_kept
    | with_reducible apply checkComplete_kept | with_reducible apply abandonItem_kept | with_reducible apply instancesDone_kept
    | with_reducible apply dropOld_kept | with_reducible apply kept_next | with_reducible apply kept_ite | split

theorem execLaneLsUe_kept {F : Nat} {o0 s : State} (e : EccErr) (lane : Fin 32) (hI : Kept F o0 s) (hF : Sub 4399293038979 F := by first | with_reducible assumption | exact Sub.mono (by with_reducible assumption) (by decide)) : OutKept F o0 (execLaneLsUe e lane s) := by
  unfold execLaneLsUe
  repeat' first
    | with_reducible assumption | (with_reducible exact Sub.mono hF (by decide))
    | ((with_reducible refine FrameU.mk fun p hp => ?_); cases p <;> first | exact absurd hp (by decide) | exact rfl | exact trivial | exact ⟨rfl, rfl⟩)
    | with_reducible apply st_inc_kept | with_reducible apply st_flag_kept | with_reducible apply postAt_kept
    | with_reducible apply abdicate_kept | with_reducible apply st_setInst_kept | with_reducible apply st_setRun_kept
    | with_reducible apply kept_next | with_reducible apply kept_ite | split | dsimp only
    | fail_if_no_progress with_reducible refine kept_upd 4399293038979 ?_ rfl rfl rfl ?_ hF

theorem refetch_kept {F : Nat} {o0 s : State} (n : Nat) (j : Nat) (k : Nat) (o : Operand) (hI : Kept F o0 s) (hF : Sub 32768 F := by first | with_reducible assumption | exact Sub.mono (by with_reducible assumption) (by decide)) : Kept F o0 (refetch n j k o s) := by
  unfold refetch
  repeat' first
    | with_reducible assumption | (with_reducible exact Sub.mono hF (by decide))
    | ((with_reducible refine FrameU.mk fun p hp => ?_); cases p <;> first | exact absurd hp (by decide) | exact rfl | exact trivial | exact ⟨rfl, rfl⟩)
    | with_reducible apply st_setInst_kept | with_reducible apply st_setRun_kept | with_reducible apply kept_ite | split

theorem execFetchUe_kept {F : Nat} {o0 s : State} (place : Fin 38) (k : Nat) (slot : Fin 8192) (hI : Kept F o0 s) (hF : Sub 1107345793 F := by first | with_reducible assumption | exact Sub.mono (by with_reducible assumption) (by decide)) : OutKept F o0 (execFetchUe place k slot s) := by
  unfold execFetchUe
  repeat' first
    | with_reducible assumption | (with_reducible exact Sub.mono hF (by decide))
    | ((with_reducible refine FrameU.mk fun p hp => ?_); cases p <;> first | exact absurd hp (by decide) | exact rfl | exact trivial | exact ⟨rfl, rfl⟩)
    | with_reducible apply st_flag_kept | with_reducible apply st_ev_kept | with_reducible apply postAt_kept
    | with_reducible apply recordUe_kept | with_reducible apply st_setInst_kept | with_reducible apply st_setRun_kept
    | with_reducible apply refetch_kept | with_reducible apply kept_next | with_reducible apply kept_ite | split | dsimp only
    | fail_if_no_progress with_reducible refine kept_upd 1107345793 ?_ rfl rfl rfl ?_ hF

theorem itemSelect_kept {F : Nat} {o0 s : State} (v : Nat) (hI : Kept F o0 s) (hF : Sub 1 F := by first | with_reducible assumption | exact Sub.mono (by with_reducible assumption) (by decide)) : Kept F o0 (itemSelect v s) := by
  unfold itemSelect
  repeat' first
    | with_reducible assumption | (with_reducible exact Sub.mono hF (by decide))
    | ((with_reducible refine FrameU.mk fun p hp => ?_); cases p <;> first | exact absurd hp (by decide) | exact rfl | exact trivial | exact ⟨rfl, rfl⟩)
    | with_reducible apply st_wr_kept | with_reducible apply st_wrSat_kept | with_reducible apply st_wrB_kept
    | with_reducible apply kept_ite | split | dsimp only
    | fail_if_no_progress with_reducible refine kept_upd 1 ?_ rfl rfl rfl ?_ hF

end Sys2Proof.Machine
end

