-- ==== Sys2Proof/Laws/KeptMailbox.lean ====
section
/-!
SUPPORT. What Machine/Mailbox.lean keeps of a state: one lemma per operation.
-/

namespace Sys2Proof.Machine

set_option linter.all false
set_option Elab.async false

theorem st_setMbx_kept {F : Nat} {o0 s : State} (m : Mbx) (hI : Kept F o0 s) (hF : Sub 512 F := by first | with_reducible assumption | exact Sub.mono (by with_reducible assumption) (by decide)) : Kept F o0 (State.setMbx s m) := by
  unfold State.setMbx
  repeat' first
    | with_reducible assumption | (with_reducible exact Sub.mono hF (by decide))
    | ((with_reducible refine FrameU.mk fun p hp => ?_); cases p <;> first | exact absurd hp (by decide) | exact rfl | exact trivial | exact ⟨rfl, rfl⟩)
    | with_reducible apply kept_ite | split | dsimp only
    | fail_if_no_progress with_reducible refine kept_upd 512 ?_ rfl rfl rfl ?_ hF

theorem st_putCmd_kept {F : Nat} {o0 s : State} (r : Running) (hI : Kept F o0 s) (hF : Sub 512 F := by first | with_reducible assumption | exact Sub.mono (by with_reducible assumption) (by decide)) : Kept F o0 (State.putCmd s r) := by
  unfold State.putCmd
  repeat' first
    | with_reducible assumption | (with_reducible exact Sub.mono hF (by decide))
    | ((with_reducible refine FrameU.mk fun p hp => ?_); cases p <;> first | exact absurd hp (by decide) | exact rfl | exact trivial | exact ⟨rfl, rfl⟩)
    | with_reducible apply st_setMbx_kept

theorem mbxSync_kept {F : Nat} {o0 s : State}  (hI : Kept F o0 s) (hF : Sub 1 F := by first | with_reducible assumption | exact Sub.mono (by with_reducible assumption) (by decide)) : Kept F o0 (mbxSync s) := by
  unfold mbxSync
  repeat' first
    | with_reducible assumption | (with_reducible exact Sub.mono hF (by decide))
    | ((with_reducible refine FrameU.mk fun p hp => ?_); cases p <;> first | exact absurd hp (by decide) | exact rfl | exact trivial | exact ⟨rfl, rfl⟩)
    | with_reducible apply st_wr_kept | with_reducible apply st_wrB_kept | with_reducible apply kept_ite
    | (with_reducible refine kept_foldl ?_ (fun _ _ _ => ?_)) | (intro _) | split | dsimp only
    | fail_if_no_progress with_reducible refine kept_upd 1 ?_ rfl rfl rfl ?_ hF

theorem mbxMisuse_kept {F : Nat} {o0 s : State} (src : CmdSrc) (bit : Nat) (op : Nat) (hI : Kept F o0 s) (hF : Sub 1107296641 F := by first | with_reducible assumption | exact Sub.mono (by with_reducible assumption) (by decide)) : Kept F o0 (mbxMisuse src bit op s) := by
  unfold mbxMisuse
  repeat' first
    | with_reducible assumption | (with_reducible exact Sub.mono hF (by decide))
    | ((with_reducible refine FrameU.mk fun p hp => ?_); cases p <;> first | exact absurd hp (by decide) | exact rfl | exact trivial | exact ⟨rfl, rfl⟩)
    | with_reducible apply st_flag_kept | with_reducible apply post_kept

theorem setNote_kept {F : Nat} {o0 s : State} (src : CmdSrc) (op : Nat) (hI : Kept F o0 s) (hF : Sub 2147483648 F := by first | with_reducible assumption | exact Sub.mono (by with_reducible assumption) (by decide)) : Kept F o0 (setNote src op s) := by
  unfold setNote
  repeat' first
    | with_reducible assumption | (with_reducible exact Sub.mono hF (by decide))
    | ((with_reducible refine FrameU.mk fun p hp => ?_); cases p <;> first | exact absurd hp (by decide) | exact rfl | exact trivial | exact ⟨rfl, rfl⟩)
    | with_reducible apply kept_ite | split | dsimp only
    | fail_if_no_progress with_reducible refine kept_upd 2147483648 ?_ rfl rfl rfl ?_ hF

theorem clearNote_kept {F : Nat} {o0 s : State} (src : CmdSrc) (hI : Kept F o0 s) (hF : Sub 2147483648 F := by first | with_reducible assumption | exact Sub.mono (by with_reducible assumption) (by decide)) : Kept F o0 (clearNote src s) := by
  unfold clearNote
  repeat' first
    | with_reducible assumption | (with_reducible exact Sub.mono hF (by decide))
    | ((with_reducible refine FrameU.mk fun p hp => ?_); cases p <;> first | exact absurd hp (by decide) | exact rfl | exact trivial | exact ⟨rfl, rfl⟩)
    | with_reducible apply kept_ite | split | dsimp only
    | fail_if_no_progress with_reducible refine kept_upd 2147483648 ?_ rfl rfl rfl ?_ hF

theorem acceptCmd_kept {F : Nat} {o0 s : State} (src : CmdSrc) (op : Nat) (argw : Nat) (args : List Nat) (tag : Nat) (hI : Kept F o0 s) (hF : Sub 3254780801 F := by first | with_reducible assumption | exact Sub.mono (by with_reducible assumption) (by decide)) : Kept F o0 (acceptCmd src op argw args tag s) := by
  unfold acceptCmd
  repeat' first
    | with_reducible assumption | (with_reducible exact Sub.mono hF (by decide))
    | ((with_reducible refine FrameU.mk fun p hp => ?_); cases p <;> first | exact absurd hp (by decide) | exact rfl | exact trivial | exact ⟨rfl, rfl⟩)
    | with_reducible apply st_setMbx_kept | with_reducible apply mbxSync_kept | with_reducible apply mbxMisuse_kept
    | with_reducible apply setNote_kept | with_reducible apply kept_ite | split

theorem ringDoorbell_kept {F : Nat} {o0 s : State} (c : Nat) (hI : Kept F o0 s) (hF : Sub 3254780801 F := by first | with_reducible assumption | exact Sub.mono (by with_reducible assumption) (by decide)) : Kept F o0 (ringDoorbell c s) := by
  unfold ringDoorbell
  repeat' first
    | with_reducible assumption | (with_reducible exact Sub.mono hF (by decide))
    | ((with_reducible refine FrameU.mk fun p hp => ?_); cases p <;> first | exact absurd hp (by decide) | exact rfl | exact trivial | exact ⟨rfl, rfl⟩)
    | with_reducible apply st_wr_kept | with_reducible apply mbxMisuse_kept | with_reducible apply acceptCmd_kept
    | with_reducible apply kept_ite | split

theorem benchErr_kept {F : Nat} {o0 s : State} (st : Nat) (hI : Kept F o0 s) (hF : Sub 4398046511104 F := by first | with_reducible assumption | exact Sub.mono (by with_reducible assumption) (by decide)) : Kept F o0 (benchErr st s) := by
  unfold benchErr
  repeat' first
    | with_reducible assumption | (with_reducible exact Sub.mono hF (by decide))
    | ((with_reducible refine FrameU.mk fun p hp => ?_); cases p <;> first | exact absurd hp (by decide) | exact rfl | exact trivial | exact ⟨rfl, rfl⟩)
    | with_reducible apply st_emit_kept

theorem benchInput_kept {F : Nat} {o0 s : State}  (hI : Kept F o0 s) (hF : Sub 1124073857 F := by first | with_reducible assumption | exact Sub.mono (by with_reducible assumption) (by decide)) : Kept F o0 (benchInput s) := by
  unfold benchInput
  repeat' first
    | with_reducible assumption | (with_reducible exact Sub.mono hF (by decide))
    | ((with_reducible refine FrameU.mk fun p hp => ?_); cases p <;> first | exact absurd hp (by decide) | exact rfl | exact trivial | exact ⟨rfl, rfl⟩)
    | with_reducible apply post_kept | with_reducible apply kept_ite | split | dsimp only
    | fail_if_no_progress with_reducible refine kept_upd 1124073857 ?_ rfl rfl rfl ?_ hF

theorem benchCmd_kept {F : Nat} {o0 s : State} (op : Nat) (args : List Nat) (hI : Kept F o0 s) (hF : Sub 4401318069121 F := by first | with_reducible assumption | exact Sub.mono (by with_reducible assumption) (by decide)) : Kept F o0 (benchCmd op args s) := by
  unfold benchCmd
  repeat' first
    | with_reducible assumption | (with_reducible exact Sub.mono hF (by decide))
    | ((with_reducible refine FrameU.mk fun p hp => ?_); cases p <;> first | exact absurd hp (by decide) | exact rfl | exact trivial | exact ⟨rfl, rfl⟩)
    | with_reducible apply acceptCmd_kept | with_reducible apply benchErr_kept | with_reducible apply benchInput_kept
    | with_reducible apply kept_ite | split

theorem runCmd_kept {F : Nat} {o0 s : State} (op : Nat) (src : CmdSrc) (args : List Nat) (f : Running → State → Reply × State) (hf : ∀ x0 x1, Kept F o0 x1 → Kept F o0 (f x0 x1).2) (hI : Kept F o0 s) (hF : Sub 4401318069121 F := by first | with_reducible assumption | exact Sub.mono (by with_reducible assumption) (by decide)) : Kept F o0 (runCmd op src args f s) := by
  unfold runCmd
  repeat' first
    | with_reducible assumption | with_reducible apply hf | (with_reducible exact Sub.mono hF (by decide))
    | ((with_reducible refine FrameU.mk fun p hp => ?_); cases p <;> first | exact absurd hp (by decide) | exact rfl | exact trivial | exact ⟨rfl, rfl⟩)
    | with_reducible apply st_putCmd_kept | with_reducible apply mbxSync_kept | with_reducible apply benchCmd_kept
    | with_reducible apply kept_ite | with_reducible apply kept_ite_fst | with_reducible apply kept_ite_snd | (intro _) | split
    | dsimp only | fail_if_no_progress with_reducible refine kept_upd 4401318069121 ?_ rfl rfl rfl ?_ hF

theorem progress_kept {F : Nat} {o0 s : State} (src : CmdSrc) (bytes : Nat) (hI : Kept F o0 s) (hF : Sub 1 F := by first | with_reducible assumption | exact Sub.mono (by with_reducible assumption) (by decide)) : Kept F o0 (progress src bytes s) := by
  unfold progress
  repeat' first
    | with_reducible assumption | (with_reducible exact Sub.mono hF (by decide))
    | ((with_reducible refine FrameU.mk fun p hp => ?_); cases p <;> first | exact absurd hp (by decide) | exact rfl | exact trivial | exact ⟨rfl, rfl⟩)
    | with_reducible apply st_wr_kept | with_reducible apply kept_ite | split

theorem dmaError_kept {F : Nat} {o0 s : State}  (hI : Kept F o0 s) (hF : Sub 1 F := by first | with_reducible assumption | exact Sub.mono (by with_reducible assumption) (by decide)) : Kept F o0 (dmaError s).2 := by
  unfold dmaError
  repeat' first
    | with_reducible assumption | (with_reducible exact Sub.mono hF (by decide))
    | ((with_reducible refine FrameU.mk fun p hp => ?_); cases p <;> first | exact absurd hp (by decide) | exact rfl | exact trivial | exact ⟨rfl, rfl⟩)
    | with_reducible apply st_flag_kept

theorem dmaError_kept_eq {F : Nat} {o0 s : State} {y0 y1}  (hI : Kept F o0 s) (hF : Sub 1 F := by first | with_reducible assumption | exact Sub.mono (by with_reducible assumption) (by decide)) (e : dmaError s = (y0, y1)) : Kept F o0 y1 := by
  have h2 := dmaError_kept hI
  rw [e] at h2; exact h2

theorem dmaOut_kept {F : Nat} {o0 s : State} (src : CmdSrc) (addr : Nat) (bytes : Bytes) (hI : Kept F o0 s) (hF : Sub 4398080065537 F := by first | with_reducible assumption | exact Sub.mono (by with_reducible assumption) (by decide)) : Kept F o0 (dmaOut src addr bytes s) := by
  unfold dmaOut
  repeat' first
    | with_reducible assumption | (with_reducible exact Sub.mono hF (by decide))
    | ((with_reducible refine FrameU.mk fun p hp => ?_); cases p <;> first | exact absurd hp (by decide) | exact rfl | exact trivial | exact ⟨rfl, rfl⟩)
    | with_reducible apply st_emit_kept | with_reducible apply st_ev_kept | with_reducible apply progress_kept
    | with_reducible apply kept_ite | split

theorem nextWaiting_kept {F : Nat} {o0 s : State}  (hI : Kept F o0 s) (hF : Sub 512 F := by first | with_reducible assumption | exact Sub.mono (by with_reducible assumption) (by decide)) : Kept F o0 (nextWaiting s) := by
  unfold nextWaiting
  repeat' first
    | with_reducible assumption | (with_reducible exact Sub.mono hF (by decide))
    | ((with_reducible refine FrameU.mk fun p hp => ?_); cases p <;> first | exact absurd hp (by decide) | exact rfl | exact trivial | exact ⟨rfl, rfl⟩)
    | with_reducible apply st_setMbx_kept | with_reducible apply st_putCmd_kept | with_reducible apply kept_ite | split | dsimp only
    | fail_if_no_progress with_reducible refine kept_upd 512 ?_ rfl rfl rfl ?_ hF

theorem complete_kept {F : Nat} {o0 s : State} (r : Running) (st : Nat) (ws : List Nat) (hI : Kept F o0 s) (hF : Sub 4401305486209 F := by first | with_reducible assumption | exact Sub.mono (by with_reducible assumption) (by decide)) : Kept F o0 (complete r st ws s) := by
  unfold complete
  repeat' first
    | with_reducible assumption | (with_reducible exact Sub.mono hF (by decide))
    | ((with_reducible refine FrameU.mk fun p hp => ?_); cases p <;> first | exact absurd hp (by decide) | exact rfl | exact trivial | exact ⟨rfl, rfl⟩)
    | with_reducible apply st_wr_kept | with_reducible apply st_emit_kept | with_reducible apply st_msix_kept
    | with_reducible apply st_smEvent_kept | with_reducible apply post_kept | with_reducible apply st_sendForward_kept
    | with_reducible apply st_setMbx_kept | with_reducible apply mbxSync_kept | with_reducible apply clearNote_kept
    | with_reducible apply nextWaiting_kept | with_reducible apply kept_ite
    | (with_reducible refine kept_foldl ?_ (fun _ _ _ => ?_)) | (intro _) | split | dsimp only
    | fail_if_no_progress with_reducible refine kept_upd 4401305486209 ?_ rfl rfl rfl ?_ hF

end Sys2Proof.Machine
end

