-- ==== Sys2Proof/Laws/KeptCommands.lean ====
section
/-!
SUPPORT. What Machine/Commands.lean keeps of a state: one lemma per operation.
-/

namespace Sys2Proof.Machine

set_option linter.all false
set_option Elab.async false

theorem execNop_kept {F : Nat} {o0 s : State} (n : Nat) (item : Fin 4096) (src : Option CmdSrc) (args : List Nat) (hI : Kept F o0 s) (hF : Sub 4401318101889 F := by first | with_reducible assumption | exact Sub.mono (by with_reducible assumption) (by decide)) : OutKept F o0 (execNop n item src args s) := by
  unfold execNop
  repeat' first
    | with_reducible assumption | (with_reducible exact Sub.mono hF (by decide))
    | ((with_reducible refine FrameU.mk fun p hp => ?_); cases p <;> first | exact absurd hp (by decide) | exact rfl | exact trivial | exact ⟨rfl, rfl⟩)
    | with_reducible apply runKernel_kept | with_reducible apply runCmd_kept | with_reducible apply kept_next
    | with_reducible apply kept_ite | (intro _) | split | dsimp only
    | fail_if_no_progress with_reducible refine kept_upd 4401318101889 ?_ rfl rfl rfl ?_ hF

theorem execGetInfo_kept {F : Nat} {o0 s : State} (src : CmdSrc) (args : List Nat) (hI : Kept F o0 s) (hF : Sub 4401318069121 F := by first | with_reducible assumption | exact Sub.mono (by with_reducible assumption) (by decide)) : OutKept F o0 (execGetInfo src args s) := by
  unfold execGetInfo
  repeat' first
    | with_reducible assumption | (with_reducible exact Sub.mono hF (by decide))
    | ((with_reducible refine FrameU.mk fun p hp => ?_); cases p <;> first | exact absurd hp (by decide) | exact rfl | exact trivial | exact ⟨rfl, rfl⟩)
    | with_reducible apply runCmd_kept | with_reducible apply kept_next | (intro _)

theorem commissionMram_kept {F : Nat} {o0 s : State}  (hI : Kept F o0 s) (hF : Sub 34896609281 F := by first | with_reducible assumption | exact Sub.mono (by with_reducible assumption) (by decide)) : Kept F o0 (commissionMram s) := by
  unfold commissionMram
  repeat' first
    | with_reducible assumption | (with_reducible exact Sub.mono hF (by decide))
    | ((with_reducible refine FrameU.mk fun p hp => ?_); cases p <;> first | exact absurd hp (by decide) | exact rfl | exact trivial | exact ⟨rfl, rfl⟩)
    | with_reducible apply st_wr_kept | fail_if_no_progress with_reducible refine kept_upd 34896609281 ?_ rfl rfl rfl ?_ hF

theorem commission_kept {F : Nat} {o0 s : State} (hI : Kept F o0 s) (hF : Sub 6907951580033 F := by first | with_reducible assumption | exact Sub.mono (by with_reducible assumption) (by decide)) : Kept F o0 (commission s).2 := by
  unfold commission
  dsimp only
  have h := post_kept 0x01 (le 8 Config.serial) (drainPosts_kept (commissionMram_kept hI))
  generalize post 0x01 (le 8 Config.serial) (drainPosts (commissionMram s)) = u at h ⊢
  exact st_wrB_kept _ _ (st_wr64_kept _ _ (drainPosts_kept (st_setChs_kept h ⟨id, fun _ => rfl, List.prefix_refl _, le_refl _⟩)))

theorem commission_kept_eq {F : Nat} {o0 s t : State} {n : Nat} (hI : Kept F o0 s) (hF : Sub 6907951580033 F := by first | with_reducible assumption | exact Sub.mono (by with_reducible assumption) (by decide)) (e : commission s = (n, t)) : Kept F o0 t := by
  have h := commission_kept hI
  rw [e] at h
  exact h

theorem execCommission_kept {F : Nat} {o0 s : State} (src : CmdSrc) (args : List Nat) (hI : Kept F o0 s) (hF : Sub 6910115840897 F := by first | with_reducible assumption | exact Sub.mono (by with_reducible assumption) (by decide)) : OutKept F o0 (execCommission src args s) := by
  unfold execCommission
  repeat' first
    | with_reducible assumption | (with_reducible exact Sub.mono hF (by decide))
    | ((with_reducible refine FrameU.mk fun p hp => ?_); cases p <;> first | exact absurd hp (by decide) | exact rfl | exact trivial | exact ⟨rfl, rfl⟩)
    | with_reducible apply runCmd_kept | (refine commission_kept_eq ?_ ?_ (by assumption)) | with_reducible apply commission_kept
    | with_reducible apply kept_next | with_reducible apply kept_ite | (intro _) | split | dsimp only
    | fail_if_no_progress with_reducible refine kept_upd 6910115840897 ?_ rfl rfl rfl ?_ hF

theorem execTimeReseat_kept {F : Nat} {o0 s : State} (src : CmdSrc) (args : List Nat) (hI : Kept F o0 s) (hF : Sub 6875219231625 F := by first | with_reducible assumption | exact Sub.mono (by with_reducible assumption) (by decide)) : OutKept F o0 (execTimeReseat src args s) := by
  unfold execTimeReseat
  repeat' first
    | with_reducible assumption | (with_reducible exact Sub.mono hF (by decide))
    | ((with_reducible refine FrameU.mk fun p hp => ?_); cases p <;> first | exact absurd hp (by decide) | exact rfl | exact trivial | exact ⟨rfl, rfl⟩)
    | with_reducible apply st_setClv_kept | with_reducible apply reseatFix_kept | with_reducible apply runCmd_kept
    | with_reducible apply kept_next | with_reducible apply kept_ite | (with_reducible refine kept_foldl ?_ (fun _ _ _ => ?_))
    | (intro _) | split | dsimp only | fail_if_no_progress with_reducible refine kept_upd 6875219231625 ?_ rfl rfl rfl ?_ hF

theorem storeImage_kept {F : Nat} {o0 s : State} (slot : Nat) (i : Option Image) (hI : Kept F o0 s) (hF : Sub 1099511627777 F := by first | with_reducible assumption | exact Sub.mono (by with_reducible assumption) (by decide)) : Kept F o0 (storeImage slot i s) := by
  exact slotSync_kept (kept_of hI (T := 1099511627777) ⟨fun p hp => by cases p <;> first | exact absurd hp (by decide) | exact rfl | exact trivial | exact ⟨rfl, rfl⟩⟩ hF id (Or.inl rfl) (Or.inl rfl) (List.length_set ..) (ChestStep.refl _ _) rfl (le_refl _) (le_refl _)
    (List.prefix_refl _))

theorem rejectImage_kept {F : Nat} {o0 s : State} (slot : Nat) (code : Nat) (hI : Kept F o0 s) (hF : Sub 1107296641 F := by first | with_reducible assumption | exact Sub.mono (by with_reducible assumption) (by decide)) : Kept F o0 (rejectImage slot code s).2 := by
  unfold rejectImage
  repeat' first
    | with_reducible assumption | (with_reducible exact Sub.mono hF (by decide))
    | ((with_reducible refine FrameU.mk fun p hp => ?_); cases p <;> first | exact absurd hp (by decide) | exact rfl | exact trivial | exact ⟨rfl, rfl⟩)
    | with_reducible apply st_wr_kept | with_reducible apply st_flag_kept | with_reducible apply post_kept
    | with_reducible apply kept_ite | with_reducible apply kept_ite_fst | with_reducible apply kept_ite_snd | split

theorem rejectImage_kept_eq {F : Nat} {o0 s : State} {y0 y1} {slot : Nat} {code : Nat} (hI : Kept F o0 s) (hF : Sub 1107296641 F := by first | with_reducible assumption | exact Sub.mono (by with_reducible assumption) (by decide)) (e : rejectImage slot code s = (y0, y1)) : Kept F o0 y1 := by
  have h2 := rejectImage_kept slot code hI
  rw [e] at h2; exact h2

theorem loadImage_kept {F : Nat} {o0 s : State} (slot : Nat) (bytes : Bytes) (img : Image) (hI : Kept F o0 s) (hF : Sub 1100618924417 F := by first | with_reducible assumption | exact Sub.mono (by with_reducible assumption) (by decide)) : Kept F o0 (loadImage slot bytes img s).2.2 := by
  unfold loadImage
  repeat' first
    | with_reducible assumption | (with_reducible exact Sub.mono hF (by decide))
    | ((with_reducible refine FrameU.mk fun p hp => ?_); cases p <;> first | exact absurd hp (by decide) | exact rfl | exact trivial | exact ⟨rfl, rfl⟩)
    | with_reducible apply storeImage_kept | (refine rejectImage_kept_eq ?_ ?_ (by assumption))
    | with_reducible apply rejectImage_kept | with_reducible apply kept_ite | with_reducible apply kept_ite_fst
    | with_reducible apply kept_ite_snd | with_reducible apply kept_ite_snd2 | split | dsimp only
    | fail_if_no_progress with_reducible refine kept_upd 1100618924417 ?_ rfl rfl rfl ?_ hF

theorem loadImage_kept_eq {F : Nat} {o0 s : State} {y0 y1 y2} {slot : Nat} {bytes : Bytes} {img : Image} (hI : Kept F o0 s) (hF : Sub 1100618924417 F := by first | with_reducible assumption | exact Sub.mono (by with_reducible assumption) (by decide)) (e : loadImage slot bytes img s = (y0, y1, y2)) : Kept F o0 y2 := by
  have h2 := loadImage_kept slot bytes img hI
  rw [e] at h2; exact h2

theorem execImageLoad_kept {F : Nat} {o0 s : State} (src : CmdSrc) (args : List Nat) (bytes : Bytes) (img : Image) (err : Bool) (hI : Kept F o0 s) (hF : Sub 5500833891201 F := by first | with_reducible assumption | exact Sub.mono (by with_reducible assumption) (by decide)) : OutKept F o0 (execImageLoad src args bytes img err s) := by
  unfold execImageLoad
  repeat' first
    | with_reducible assumption | (with_reducible exact Sub.mono hF (by decide))
    | ((with_reducible refine FrameU.mk fun p hp => ?_); cases p <;> first | exact absurd hp (by decide) | exact rfl | exact trivial | exact ⟨rfl, rfl⟩)
    | with_reducible apply st_forwardImage_kept | with_reducible apply runCmd_kept | with_reducible apply progress_kept
    | (refine dmaError_kept_eq ?_ ?_ (by assumption)) | with_reducible apply dmaError_kept | with_reducible apply storeImage_kept
    | (refine loadImage_kept_eq ?_ ?_ (by assumption)) | with_reducible apply loadImage_kept | with_reducible apply kept_next
    | with_reducible apply kept_ite | (intro _) | split | dsimp only
    | fail_if_no_progress with_reducible refine kept_upd 5500833891201 ?_ rfl rfl rfl ?_ hF

theorem execImageInfo_kept {F : Nat} {o0 s : State} (src : CmdSrc) (args : List Nat) (hI : Kept F o0 s) (hF : Sub 4401318069121 F := by first | with_reducible assumption | exact Sub.mono (by with_reducible assumption) (by decide)) : OutKept F o0 (execImageInfo src args s) := by
  unfold execImageInfo
  repeat' first
    | with_reducible assumption | (with_reducible exact Sub.mono hF (by decide))
    | ((with_reducible refine FrameU.mk fun p hp => ?_); cases p <;> first | exact absurd hp (by decide) | exact rfl | exact trivial | exact ⟨rfl, rfl⟩)
    | with_reducible apply runCmd_kept | with_reducible apply kept_next | with_reducible apply kept_ite | (intro _) | split
    | dsimp only | fail_if_no_progress with_reducible refine kept_upd 4401318069121 ?_ rfl rfl rfl ?_ hF

theorem execImageErase_kept {F : Nat} {o0 s : State} (src : CmdSrc) (args : List Nat) (hI : Kept F o0 s) (hF : Sub 5500829696897 F := by first | with_reducible assumption | exact Sub.mono (by with_reducible assumption) (by decide)) : OutKept F o0 (execImageErase src args s) := by
  unfold execImageErase
  repeat' first
    | with_reducible assumption | (with_reducible exact Sub.mono hF (by decide))
    | ((with_reducible refine FrameU.mk fun p hp => ?_); cases p <;> first | exact absurd hp (by decide) | exact rfl | exact trivial | exact ⟨rfl, rfl⟩)
    | with_reducible apply runCmd_kept | with_reducible apply storeImage_kept | with_reducible apply kept_next
    | with_reducible apply kept_ite | (intro _) | split | dsimp only
    | fail_if_no_progress with_reducible refine kept_upd 5500829696897 ?_ rfl rfl rfl ?_ hF

theorem setSwap_kept {F : Nat} {o0 s : State} (i : Image) (slot : Nat) (k : Nat) (hI : Kept F o0 s) (hF : Sub 20481 F := by first | with_reducible assumption | exact Sub.mono (by with_reducible assumption) (by decide)) : Kept F o0 (setSwap i slot k s) := by
  unfold setSwap
  repeat' first
    | with_reducible assumption | (with_reducible exact Sub.mono hF (by decide))
    | ((with_reducible refine FrameU.mk fun p hp => ?_); cases p <;> first | exact absurd hp (by decide) | exact rfl | exact trivial | exact ⟨rfl, rfl⟩)
    | with_reducible apply st_wr_kept | with_reducible apply st_wrB_kept | with_reducible apply st_wr64_kept
    | with_reducible apply st_setPgh_kept | with_reducible apply reopenFrom_kept | with_reducible apply kept_ite | split
    | dsimp only | fail_if_no_progress with_reducible refine kept_upd 20481 ?_ rfl rfl rfl ?_ hF

theorem dropSwap_kept {F : Nat} {o0 s : State}  (hI : Kept F o0 s) (hF : Sub 53249 F := by first | with_reducible assumption | exact Sub.mono (by with_reducible assumption) (by decide)) : Kept F o0 (dropSwap s) := by
  unfold dropSwap
  repeat' first
    | with_reducible assumption | (with_reducible exact Sub.mono hF (by decide))
    | ((with_reducible refine FrameU.mk fun p hp => ?_); cases p <;> first | exact absurd hp (by decide) | exact rfl | exact trivial | exact ⟨rfl, rfl⟩)
    | with_reducible apply st_wr_kept | with_reducible apply st_wrB_kept | with_reducible apply st_wr64_kept
    | with_reducible apply st_setPgh_kept | with_reducible apply reopenFrom_kept | with_reducible apply st_setTmb_kept
    | with_reducible apply kept_ite | split | dsimp only
    | fail_if_no_progress with_reducible refine kept_upd 53249 ?_ rfl rfl rfl ?_ hF

theorem selectSlot_kept {F : Nat} {o0 s : State} (slot : Nat) (i : Image) (hI : Kept F o0 s) (hF : Sub 6602480418249 F := by first | with_reducible assumption | exact Sub.mono (by with_reducible assumption) (by decide)) : Kept F o0 (selectSlot slot i s).2 := by
  unfold selectSlot
  repeat' first
    | with_reducible assumption | (with_reducible exact Sub.mono hF (by decide))
    | ((with_reducible refine FrameU.mk fun p hp => ?_); cases p <;> first | exact absurd hp (by decide) | exact rfl | exact trivial | exact ⟨rfl, rfl⟩)
    | with_reducible apply st_wrB_kept | with_reducible apply startImage_kept | (refine rejectImage_kept_eq ?_ ?_ (by assumption))
    | with_reducible apply rejectImage_kept | with_reducible apply kept_ite | with_reducible apply kept_ite_fst
    | with_reducible apply kept_ite_snd | split | dsimp only
    | fail_if_no_progress with_reducible refine kept_upd 6602480418249 ?_ rfl rfl rfl ?_ hF

theorem selectSlot_kept_eq {F : Nat} {o0 s : State} {y0 y1} {slot : Nat} {i : Image} (hI : Kept F o0 s) (hF : Sub 6602480418249 F := by first | with_reducible assumption | exact Sub.mono (by with_reducible assumption) (by decide)) (e : selectSlot slot i s = (y0, y1)) : Kept F o0 y1 := by
  have h2 := selectSlot_kept slot i hI
  rw [e] at h2; exact h2

theorem execImageSwap_kept {F : Nat} {o0 s : State} (src : CmdSrc) (args : List Nat) (hI : Kept F o0 s) (hF : Sub 6604644679625 F := by first | with_reducible assumption | exact Sub.mono (by with_reducible assumption) (by decide)) : OutKept F o0 (execImageSwap src args s) := by
  unfold execImageSwap
  repeat' first
    | with_reducible assumption | (with_reducible exact Sub.mono hF (by decide))
    | ((with_reducible refine FrameU.mk fun p hp => ?_); cases p <;> first | exact absurd hp (by decide) | exact rfl | exact trivial | exact ⟨rfl, rfl⟩)
    | with_reducible apply st_sendMirror_kept | with_reducible apply runCmd_kept | with_reducible apply setSwap_kept
    | (refine selectSlot_kept_eq ?_ ?_ (by assumption)) | with_reducible apply selectSlot_kept | with_reducible apply kept_next
    | with_reducible apply kept_ite | (intro _) | split | dsimp only
    | fail_if_no_progress with_reducible refine kept_upd 6604644679625 ?_ rfl rfl rfl ?_ hF

theorem execSwapCancel_kept {F : Nat} {o0 s : State} (src : CmdSrc) (args : List Nat) (hI : Kept F o0 s) (hF : Sub 4401322316673 F := by first | with_reducible assumption | exact Sub.mono (by with_reducible assumption) (by decide)) : OutKept F o0 (execSwapCancel src args s) := by
  unfold execSwapCancel
  repeat' first
    | with_reducible assumption | (with_reducible exact Sub.mono hF (by decide))
    | ((with_reducible refine FrameU.mk fun p hp => ?_); cases p <;> first | exact absurd hp (by decide) | exact rfl | exact trivial | exact ⟨rfl, rfl⟩)
    | with_reducible apply st_sendMirror_kept | with_reducible apply st_setMbx_kept | with_reducible apply runCmd_kept
    | with_reducible apply dropSwap_kept | with_reducible apply kept_next | with_reducible apply kept_ite | (intro _) | split
    | dsimp only | fail_if_no_progress with_reducible refine kept_upd 4401322316673 ?_ rfl rfl rfl ?_ hF

theorem execSwapPrepareDone_kept {F : Nat} {o0 s : State}  (hI : Kept F o0 s) (hF : Sub 2199023288321 F := by first | with_reducible assumption | exact Sub.mono (by with_reducible assumption) (by decide)) : OutKept F o0 (execSwapPrepareDone s) := by
  unfold execSwapPrepareDone
  repeat' first
    | with_reducible assumption | (with_reducible exact Sub.mono hF (by decide))
    | ((with_reducible refine FrameU.mk fun p hp => ?_); cases p <;> first | exact absurd hp (by decide) | exact rfl | exact trivial | exact ⟨rfl, rfl⟩)
    | with_reducible apply st_eccWrite_kept | with_reducible apply st_setTmb_kept | with_reducible apply kept_next
    | with_reducible apply kept_ite | split

theorem execPairHandover_kept {F : Nat} {o0 s : State} (src : CmdSrc) (args : List Nat) (hI : Kept F o0 s) (hF : Sub 4401322263425 F := by first | with_reducible assumption | exact Sub.mono (by with_reducible assumption) (by decide)) : OutKept F o0 (execPairHandover src args s) := by
  unfold execPairHandover
  repeat' first
    | with_reducible assumption | (with_reducible exact Sub.mono hF (by decide))
    | ((with_reducible refine FrameU.mk fun p hp => ?_); cases p <;> first | exact absurd hp (by decide) | exact rfl | exact trivial | exact ⟨rfl, rfl⟩)
    | (refine startHandover_kept_eq ?_ ?_ (by assumption)) | with_reducible apply startHandover_kept
    | with_reducible apply runCmd_kept | with_reducible apply kept_next | with_reducible apply kept_ite | (intro _) | split
    | dsimp only | fail_if_no_progress with_reducible refine kept_upd 4401322263425 ?_ rfl rfl rfl ?_ hF

theorem execPairForce_kept {F : Nat} {o0 s : State} (src : CmdSrc) (args : List Nat) (hI : Kept F o0 s) (hF : Sub 4401322263425 F := by first | with_reducible assumption | exact Sub.mono (by with_reducible assumption) (by decide)) : OutKept F o0 (execPairForce src args s) := by
  unfold execPairForce
  repeat' first
    | with_reducible assumption | (with_reducible exact Sub.mono hF (by decide))
    | ((with_reducible refine FrameU.mk fun p hp => ?_); cases p <;> first | exact absurd hp (by decide) | exact rfl | exact trivial | exact ⟨rfl, rfl⟩)
    | with_reducible apply st_wrB_kept | with_reducible apply post_kept | with_reducible apply takeNext_kept
    | with_reducible apply runCmd_kept | with_reducible apply kept_next | with_reducible apply kept_ite | (intro _) | split
    | dsimp only | fail_if_no_progress with_reducible refine kept_upd 4401322263425 ?_ rfl rfl rfl ?_ hF

theorem execPairJoin_kept {F : Nat} {o0 s : State} (src : CmdSrc) (args : List Nat) (hI : Kept F o0 s) (hF : Sub 4401322263425 F := by first | with_reducible assumption | exact Sub.mono (by with_reducible assumption) (by decide)) : OutKept F o0 (execPairJoin src args s) := by
  unfold execPairJoin
  repeat' first
    | with_reducible assumption | (with_reducible exact Sub.mono hF (by decide))
    | ((with_reducible refine FrameU.mk fun p hp => ?_); cases p <;> first | exact absurd hp (by decide) | exact rfl | exact trivial | exact ⟨rfl, rfl⟩)
    | with_reducible apply beginJoin_kept | with_reducible apply runCmd_kept | with_reducible apply kept_next
    | with_reducible apply kept_ite | (intro _) | split | dsimp only
    | fail_if_no_progress with_reducible refine kept_upd 4401322263425 ?_ rfl rfl rfl ?_ hF

theorem partnerEnd_kept {F : Nat} {o0 s : State} (r : Running) (st : Nat) (ws : List Nat) (report : Option Nat) (hI : Kept F o0 s) (hF : Sub 53761 F := by first | with_reducible assumption | exact Sub.mono (by with_reducible assumption) (by decide)) : Kept F o0 (partnerEnd r st ws report s).2.2 := by
  unfold partnerEnd
  repeat' first
    | with_reducible assumption | (with_reducible exact Sub.mono hF (by decide))
    | ((with_reducible refine FrameU.mk fun p hp => ?_); cases p <;> first | exact absurd hp (by decide) | exact rfl | exact trivial | exact ⟨rfl, rfl⟩)
    | with_reducible apply st_setMbx_kept | with_reducible apply setSwap_kept | with_reducible apply dropSwap_kept
    | with_reducible apply kept_ite | with_reducible apply kept_ite_fst | with_reducible apply kept_ite_snd
    | with_reducible apply kept_ite_snd2 | split | dsimp only
    | fail_if_no_progress with_reducible refine kept_upd 53761 ?_ rfl rfl rfl ?_ hF

theorem partnerEnd_kept_eq {F : Nat} {o0 s : State} {y0 y1 y2} {r : Running} {st : Nat} {ws : List Nat} {report : Option Nat} (hI : Kept F o0 s) (hF : Sub 53761 F := by first | with_reducible assumption | exact Sub.mono (by with_reducible assumption) (by decide)) (e : partnerEnd r st ws report s = (y0, y1, y2)) : Kept F o0 y2 := by
  have h2 := partnerEnd_kept r st ws report hI
  rw [e] at h2; exact h2

theorem exportEnd_kept {F : Nat} {o0 s : State} (r : Running) (hI : Kept F o0 s) (hF : Sub 549755814145 F := by first | with_reducible assumption | exact Sub.mono (by with_reducible assumption) (by decide)) : Kept F o0 (exportEnd r s).2.2 := by
  unfold exportEnd
  repeat' first
    | with_reducible assumption | (with_reducible exact Sub.mono hF (by decide))
    | ((with_reducible refine FrameU.mk fun p hp => ?_); cases p <;> first | exact absurd hp (by decide) | exact rfl | exact trivial | exact ⟨rfl, rfl⟩)
    | with_reducible apply st_wrB_kept | with_reducible apply snareArm_kept | with_reducible apply snareRelease_kept
    | with_reducible apply snrSync_kept | with_reducible apply kept_ite | with_reducible apply kept_ite_fst
    | with_reducible apply kept_ite_snd | with_reducible apply kept_ite_snd2 | split | dsimp only
    | fail_if_no_progress with_reducible refine kept_upd 549755814145 ?_ rfl rfl rfl ?_ hF

theorem exportEnd_kept_eq {F : Nat} {o0 s : State} {y0 y1 y2} {r : Running} (hI : Kept F o0 s) (hF : Sub 549755814145 F := by first | with_reducible assumption | exact Sub.mono (by with_reducible assumption) (by decide)) (e : exportEnd r s = (y0, y1, y2)) : Kept F o0 y2 := by
  have h2 := exportEnd_kept r hI
  rw [e] at h2; exact h2

theorem execMbxCommandComplete_kept {F : Nat} {o0 s : State} (src : CmdSrc) (report : Option Nat) (hI : Kept F o0 s) (hF : Sub 4951061353345 F := by first | with_reducible assumption | exact Sub.mono (by with_reducible assumption) (by decide)) : OutKept F o0 (execMbxCommandComplete src report s) := by
  unfold execMbxCommandComplete
  repeat' first
    | with_reducible assumption | (with_reducible exact Sub.mono hF (by decide))
    | ((with_reducible refine FrameU.mk fun p hp => ?_); cases p <;> first | exact absurd hp (by decide) | exact rfl | exact trivial | exact ⟨rfl, rfl⟩)
    | with_reducible apply complete_kept | (refine partnerEnd_kept_eq ?_ ?_ (by assumption)) | with_reducible apply partnerEnd_kept
    | (refine exportEnd_kept_eq ?_ ?_ (by assumption)) | with_reducible apply exportEnd_kept | with_reducible apply kept_next
    | with_reducible apply kept_ite | split | dsimp only
    | fail_if_no_progress with_reducible refine kept_upd 4951061353345 ?_ rfl rfl rfl ?_ hF

end Sys2Proof.Machine
end

