-- ==== Sys2Proof/Laws/KeptStoreCommands.lean ====
section
/-!
SUPPORT. What Machine/StoreCommands.lean keeps of a state: one lemma per operation.
-/

namespace Sys2Proof.Machine

set_option linter.all false
set_option Elab.async false

theorem execChestCopy_kept {F : Nat} {o0 s : State} (src : CmdSrc) (args : List Nat) (err : Bool) (hI : Kept F o0 s) (hF : Sub 4401318069121 F := by first | with_reducible assumption | exact Sub.mono (by with_reducible assumption) (by decide)) : OutKept F o0 (execChestCopy src args err s) := by
  unfold execChestCopy
  repeat' first
    | with_reducible assumption | (with_reducible exact Sub.mono hF (by decide))
    | ((with_reducible refine FrameU.mk fun p hp => ?_); cases p <;> first | exact absurd hp (by decide) | exact rfl | exact trivial | exact ⟨rfl, rfl⟩)
    | with_reducible apply runCmd_kept | (refine dmaError_kept_eq ?_ ?_ (by assumption)) | with_reducible apply dmaError_kept
    | with_reducible apply dmaOut_kept | with_reducible apply kept_next | with_reducible apply kept_ite | (intro _) | split
    | dsimp only | fail_if_no_progress with_reducible refine kept_upd 4401318069121 ?_ rfl rfl rfl ?_ hF

theorem execChestLidCopy_kept {F : Nat} {o0 s : State} (src : CmdSrc) (args : List Nat) (err : Bool) (hI : Kept F o0 s) (hF : Sub 4401318069121 F := by first | with_reducible assumption | exact Sub.mono (by with_reducible assumption) (by decide)) : OutKept F o0 (execChestLidCopy src args err s) := by
  unfold execChestLidCopy
  repeat' first
    | with_reducible assumption | (with_reducible exact Sub.mono hF (by decide))
    | ((with_reducible refine FrameU.mk fun p hp => ?_); cases p <;> first | exact absurd hp (by decide) | exact rfl | exact trivial | exact ⟨rfl, rfl⟩)
    | with_reducible apply runCmd_kept | (refine dmaError_kept_eq ?_ ?_ (by assumption)) | with_reducible apply dmaError_kept
    | with_reducible apply dmaOut_kept | with_reducible apply kept_next | with_reducible apply kept_ite | (intro _) | split

theorem execSnareTrigger_kept {F : Nat} {o0 s : State} (src : CmdSrc) (args : List Nat) (hI : Kept F o0 s) (hF : Sub 4401318069121 F := by first | with_reducible assumption | exact Sub.mono (by with_reducible assumption) (by decide)) : OutKept F o0 (execSnareTrigger src args s) := by
  unfold execSnareTrigger
  repeat' first
    | with_reducible assumption | (with_reducible exact Sub.mono hF (by decide))
    | ((with_reducible refine FrameU.mk fun p hp => ?_); cases p <;> first | exact absurd hp (by decide) | exact rfl | exact trivial | exact ⟨rfl, rfl⟩)
    | with_reducible apply snareHostTrig_kept | with_reducible apply runCmd_kept | with_reducible apply kept_next
    | with_reducible apply kept_ite | (intro _) | split | dsimp only
    | fail_if_no_progress with_reducible refine kept_upd 4401318069121 ?_ rfl rfl rfl ?_ hF

theorem exportFail_kept {F : Nat} {o0 s : State} (k : Nat) (hI : Kept F o0 s) (hF : Sub 1107296641 F := by first | with_reducible assumption | exact Sub.mono (by with_reducible assumption) (by decide)) : Kept F o0 (exportFail k s) := by
  unfold exportFail
  repeat' first
    | with_reducible assumption | (with_reducible exact Sub.mono hF (by decide))
    | ((with_reducible refine FrameU.mk fun p hp => ?_); cases p <;> first | exact absurd hp (by decide) | exact rfl | exact trivial | exact ⟨rfl, rfl⟩)
    | with_reducible apply st_flag_kept | with_reducible apply st_wrB_kept | with_reducible apply post_kept
    | with_reducible apply snrSync_kept

theorem exportNand_kept {F : Nat} {o0 s : State} (k : Nat) (c : SnrDefCfg) (hI : Kept F o0 s) (hF : Sub 549755813889 F := by first | with_reducible assumption | exact Sub.mono (by with_reducible assumption) (by decide)) : Kept F o0 (exportNand k c s).2 := by
  unfold exportNand
  have h := snareToNand_kept k c hI
  generalize snareToNand k c s = x at h ⊢
  rcases x with ⟨_ | n, t⟩
  · exact h
  · exact snrSync_kept (st_wrB_kept _ _ (kept_upd 549755813888 h rfl rfl rfl ⟨fun p hp => by cases p <;> first | exact absurd hp (by decide) | exact rfl | exact trivial | exact ⟨rfl, rfl⟩⟩ (Sub.mono hF (by decide))))

theorem exportNand_kept_eq {F : Nat} {o0 s t : State} {r} {k : Nat} {c : SnrDefCfg} (hI : Kept F o0 s) (hF : Sub 549755813889 F := by first | with_reducible assumption | exact Sub.mono (by with_reducible assumption) (by decide)) (e : exportNand k c s = (r, t)) :
    Kept F o0 t := by
  have h := exportNand_kept k c hI
  rw [e] at h
  exact h

theorem execSnareExport_kept {F : Nat} {o0 s : State} (src : CmdSrc) (args : List Nat) (err : Bool) (hI : Kept F o0 s) (hF : Sub 4951073883009 F := by first | with_reducible assumption | exact Sub.mono (by with_reducible assumption) (by decide)) : OutKept F o0 (execSnareExport src args err s) := by
  unfold execSnareExport
  with_reducible apply kept_next
  refine runCmd_kept _ _ _ _ (fun r u h => ?_) hI
  dsimp only
  with_reducible apply kept_ite_snd
  · exact h
  · with_reducible apply kept_ite_snd
    · exact h
    · split
      · exact h
      · rename_i c _
        generalize u.snrFileBytes (Arg r 0) c = file
        with_reducible apply kept_ite_snd
        · exact h
        · with_reducible apply kept_ite_snd
          · exact h
          · with_reducible apply kept_ite_snd
            · exact exportNand_kept _ _ h
            · with_reducible apply kept_ite_snd
              · exact h
              · with_reducible apply kept_ite_snd
                · exact dmaError_kept (exportFail_kept _ h)
                · exact dmaOut_kept _ _ _ h

theorem execSnareNandList_kept {F : Nat} {o0 s : State} (src : CmdSrc) (args : List Nat) (err : Bool) (hI : Kept F o0 s) (hF : Sub 4401318069121 F := by first | with_reducible assumption | exact Sub.mono (by with_reducible assumption) (by decide)) : OutKept F o0 (execSnareNandList src args err s) := by
  unfold execSnareNandList
  repeat' first
    | with_reducible assumption | (with_reducible exact Sub.mono hF (by decide))
    | ((with_reducible refine FrameU.mk fun p hp => ?_); cases p <;> first | exact absurd hp (by decide) | exact rfl | exact trivial | exact ⟨rfl, rfl⟩)
    | with_reducible apply runCmd_kept | (refine dmaError_kept_eq ?_ ?_ (by assumption)) | with_reducible apply dmaError_kept
    | with_reducible apply dmaOut_kept | with_reducible apply kept_next | with_reducible apply kept_ite | (intro _) | split
    | dsimp only | fail_if_no_progress with_reducible refine kept_upd 4401318069121 ?_ rfl rfl rfl ?_ hF

theorem execSnareNandRead_kept {F : Nat} {o0 s : State} (src : CmdSrc) (args : List Nat) (err : Bool) (hI : Kept F o0 s) (hF : Sub 4401318069121 F := by first | with_reducible assumption | exact Sub.mono (by with_reducible assumption) (by decide)) : OutKept F o0 (execSnareNandRead src args err s) := by
  unfold execSnareNandRead
  repeat' first
    | with_reducible assumption | (with_reducible exact Sub.mono hF (by decide))
    | ((with_reducible refine FrameU.mk fun p hp => ?_); cases p <;> first | exact absurd hp (by decide) | exact rfl | exact trivial | exact ⟨rfl, rfl⟩)
    | with_reducible apply runCmd_kept | (refine dmaError_kept_eq ?_ ?_ (by assumption)) | with_reducible apply dmaError_kept
    | with_reducible apply dmaOut_kept | with_reducible apply kept_next | with_reducible apply kept_ite | (intro _) | split

theorem execSnareNandDelete_kept {F : Nat} {o0 s : State} (src : CmdSrc) (args : List Nat) (hI : Kept F o0 s) (hF : Sub 4951073883009 F := by first | with_reducible assumption | exact Sub.mono (by with_reducible assumption) (by decide)) : OutKept F o0 (execSnareNandDelete src args s) := by
  unfold execSnareNandDelete
  repeat' first
    | with_reducible assumption | (with_reducible exact Sub.mono hF (by decide))
    | ((with_reducible refine FrameU.mk fun p hp => ?_); cases p <;> first | exact absurd hp (by decide) | exact rfl | exact trivial | exact ⟨rfl, rfl⟩)
    | with_reducible apply snrSync_kept | with_reducible apply runCmd_kept | with_reducible apply kept_next
    | with_reducible apply kept_ite | (intro _) | split | dsimp only
    | fail_if_no_progress with_reducible refine kept_upd 4951073883009 ?_ rfl rfl rfl ?_ hF

theorem execAccZero_kept {F : Nat} {o0 s : State} (src : CmdSrc) (args : List Nat) (hI : Kept F o0 s) (hF : Sub 4401322787713 F := by first | with_reducible assumption | exact Sub.mono (by with_reducible assumption) (by decide)) : OutKept F o0 (execAccZero src args s) := by
  unfold execAccZero
  repeat' first
    | with_reducible assumption | (with_reducible exact Sub.mono hF (by decide))
    | ((with_reducible refine FrameU.mk fun p hp => ?_); cases p <;> first | exact absurd hp (by decide) | exact rfl | exact trivial | exact ⟨rfl, rfl⟩)
    | with_reducible apply st_sendMirror_kept | with_reducible apply st_setAcc_kept | with_reducible apply runCmd_kept
    | with_reducible apply kept_next | with_reducible apply kept_ite | (intro _) | split | dsimp only
    | fail_if_no_progress with_reducible refine kept_upd 4401322787713 ?_ rfl rfl rfl ?_ hF

theorem partnerCmd_kept {F : Nat} {o0 s : State} (op : Nat) (args : List Nat) (hI : Kept F o0 s) (hF : Sub 4401305486209 F := by first | with_reducible assumption | exact Sub.mono (by with_reducible assumption) (by decide)) : Kept F o0 (partnerCmd op args s) := by
  unfold partnerCmd
  repeat' first
    | with_reducible assumption | (with_reducible exact Sub.mono hF (by decide))
    | ((with_reducible refine FrameU.mk fun p hp => ?_); cases p <;> first | exact absurd hp (by decide) | exact rfl | exact trivial | exact ⟨rfl, rfl⟩)
    | with_reducible apply st_sendForward_kept | with_reducible apply acceptCmd_kept | with_reducible apply kept_ite | split

theorem partnerImage_kept {F : Nat} {o0 s : State} (slot : Nat) (bytes : Bytes) (img : Image) (hI : Kept F o0 s) (hF : Sub 5500833891201 F := by first | with_reducible assumption | exact Sub.mono (by with_reducible assumption) (by decide)) : Kept F o0 (partnerImage slot bytes img s) := by
  unfold partnerImage
  repeat' first
    | with_reducible assumption | (with_reducible exact Sub.mono hF (by decide))
    | ((with_reducible refine FrameU.mk fun p hp => ?_); cases p <;> first | exact absurd hp (by decide) | exact rfl | exact trivial | exact ⟨rfl, rfl⟩)
    | with_reducible apply runCmd_kept | (refine loadImage_kept_eq ?_ ?_ (by assumption)) | with_reducible apply loadImage_kept
    | with_reducible apply partnerCmd_kept | with_reducible apply kept_ite | (intro _) | split

theorem forwarded_kept {F : Nat} {o0 s : State} (f : Fwd) (hI : Kept F o0 s) (hF : Sub 5500834939777 F := by first | with_reducible assumption | exact Sub.mono (by with_reducible assumption) (by decide)) : Kept F o0 (forwarded f s) := by
  unfold forwarded
  repeat' first
    | with_reducible assumption | (with_reducible exact Sub.mono hF (by decide))
    | ((with_reducible refine FrameU.mk fun p hp => ?_); cases p <;> first | exact absurd hp (by decide) | exact rfl | exact trivial | exact ⟨rfl, rfl⟩)
    | with_reducible apply c37Command_kept | with_reducible apply partnerCmd_kept | with_reducible apply partnerImage_kept
    | with_reducible apply kept_ite | split

theorem execForward_kept {F : Nat} {o0 s : State} (m : PairMsg) (f : Fwd) (hI : Kept F o0 s) (hF : Sub 5500834939777 F := by first | with_reducible assumption | exact Sub.mono (by with_reducible assumption) (by decide)) : OutKept F o0 (execForward m f s) := by
  unfold execForward
  repeat' first
    | with_reducible assumption | (with_reducible exact Sub.mono hF (by decide))
    | ((with_reducible refine FrameU.mk fun p hp => ?_); cases p <;> first | exact absurd hp (by decide) | exact rfl | exact trivial | exact ⟨rfl, rfl⟩)
    | with_reducible apply pairRx_kept | with_reducible apply forwarded_kept | with_reducible apply kept_next | (intro _)

theorem mirrored_kept {F : Nat} {o0 s : State} (op : Nat) (inst : Nat) (operand : Nat) (hI : Kept F o0 s) (hF : Sub 4401307059073 F := by first | with_reducible assumption | exact Sub.mono (by with_reducible assumption) (by decide)) : Kept F o0 (mirrored op inst operand s) := by
  unfold mirrored
  repeat' first
    | with_reducible assumption | (with_reducible exact Sub.mono hF (by decide))
    | ((with_reducible refine FrameU.mk fun p hp => ?_); cases p <;> first | exact absurd hp (by decide) | exact rfl | exact trivial | exact ⟨rfl, rfl⟩)
    | with_reducible apply st_flag_kept | with_reducible apply st_setPair_kept | with_reducible apply st_setAcc_kept
    | with_reducible apply destCmd_kept | with_reducible apply partnerCmd_kept | with_reducible apply kept_ite | split

theorem execMirror_kept {F : Nat} {o0 s : State} (m : PairMsg) (op : Nat) (inst : Nat) (operand : Nat) (hI : Kept F o0 s) (hF : Sub 4401307059073 F := by first | with_reducible assumption | exact Sub.mono (by with_reducible assumption) (by decide)) : OutKept F o0 (execMirror m op inst operand s) := by
  unfold execMirror
  repeat' first
    | with_reducible assumption | (with_reducible exact Sub.mono hF (by decide))
    | ((with_reducible refine FrameU.mk fun p hp => ?_); cases p <;> first | exact absurd hp (by decide) | exact rfl | exact trivial | exact ⟨rfl, rfl⟩)
    | with_reducible apply pairRx_kept | with_reducible apply mirrored_kept | with_reducible apply kept_next | (intro _)

end Sys2Proof.Machine
end

