-- ==== Sys2Proof/Laws/KeptDomains.lean ====
section
/-!
SUPPORT. What Machine/Domains.lean keeps of a state: one lemma per operation.
-/

namespace Sys2Proof.Machine

set_option linter.all false
set_option Elab.async false

theorem st_setDom_kept {F : Nat} {o0 s : State} (d : Dom) (hI : Kept F o0 s) (hF : Sub 4 F := by first | with_reducible assumption | exact Sub.mono (by with_reducible assumption) (by decide)) : Kept F o0 (State.setDom s d) := by
  unfold State.setDom
  repeat' first
    | with_reducible assumption | (with_reducible exact Sub.mono hF (by decide))
    | ((with_reducible refine FrameU.mk fun p hp => ?_); cases p <;> first | exact absurd hp (by decide) | exact rfl | exact trivial | exact ⟨rfl, rfl⟩)
    | with_reducible apply kept_ite | (with_reducible refine kept_foldl ?_ (fun _ _ _ => ?_)) | (intro _) | split | dsimp only
    | fail_if_no_progress with_reducible refine kept_upd 4 ?_ rfl rfl rfl ?_ hF

theorem st_answer_kept {F : Nat} {o0 s : State} (off : Nat) (v : Nat) (hI : Kept F o0 s) (hF : Sub 4398046511104 F := by first | with_reducible assumption | exact Sub.mono (by with_reducible assumption) (by decide)) : Kept F o0 (State.answer s off v) := by
  unfold State.answer
  repeat' first
    | with_reducible assumption | (with_reducible exact Sub.mono hF (by decide))
    | ((with_reducible refine FrameU.mk fun p hp => ?_); cases p <;> first | exact absurd hp (by decide) | exact rfl | exact trivial | exact ⟨rfl, rfl⟩)
    | with_reducible apply st_emit_kept

theorem abortHeld_kept {F : Nat} {o0 s : State} (d : Nat) (hI : Kept F o0 s) (hF : Sub 4398046511109 F := by first | with_reducible assumption | exact Sub.mono (by with_reducible assumption) (by decide)) : Kept F o0 (abortHeld d s) := by
  unfold abortHeld
  repeat' first
    | with_reducible assumption | (with_reducible exact Sub.mono hF (by decide))
    | ((with_reducible refine FrameU.mk fun p hp => ?_); cases p <;> first | exact absurd hp (by decide) | exact rfl | exact trivial | exact ⟨rfl, rfl⟩)
    | with_reducible apply st_inc_kept | with_reducible apply st_flag_kept | with_reducible apply st_setDom_kept
    | with_reducible apply st_answer_kept | with_reducible apply kept_ite | (with_reducible refine kept_foldl ?_ (fun _ _ _ => ?_))
    | (intro _) | split | dsimp only | fail_if_no_progress with_reducible refine kept_upd 4398046511109 ?_ rfl rfl rfl ?_ hF

theorem dropHeldReads_kept {F : Nat} {o0 s : State}  (hI : Kept F o0 s) (hF : Sub 5 F := by first | with_reducible assumption | exact Sub.mono (by with_reducible assumption) (by decide)) : Kept F o0 (dropHeldReads s) := by
  unfold dropHeldReads
  repeat' first
    | with_reducible assumption | (with_reducible exact Sub.mono hF (by decide))
    | ((with_reducible refine FrameU.mk fun p hp => ?_); cases p <;> first | exact absurd hp (by decide) | exact rfl | exact trivial | exact ⟨rfl, rfl⟩)
    | with_reducible apply st_inc_kept | with_reducible apply st_setDom_kept

theorem clearBlock_kept {F : Nat} {o0 s : State} (b : Nat) (hI : Kept F o0 s) (hF : Sub 1 F := by first | with_reducible assumption | exact Sub.mono (by with_reducible assumption) (by decide)) : Kept F o0 (clearBlock b s) :=
  kept_of hI (T := 1) ⟨fun p hp => by cases p <;> first | exact absurd hp (by decide) | exact rfl | exact trivial | exact ⟨rfl, rfl⟩⟩ hF (fun h => h.sublist (List.filter_sublist.map _)) (Or.inl rfl) (Or.inl rfl) rfl (ChestStep.refl _ _) rfl (le_refl _) (le_refl _)
    (List.prefix_refl _)

theorem lostNotes_kept {F : Nat} {o0 s : State}  (hI : Kept F o0 s) (hF : Sub 3254780289 F := by first | with_reducible assumption | exact Sub.mono (by with_reducible assumption) (by decide)) : Kept F o0 (lostNotes s) := by
  unfold lostNotes
  repeat' first
    | with_reducible assumption | (with_reducible exact Sub.mono hF (by decide))
    | ((with_reducible refine FrameU.mk fun p hp => ?_); cases p <;> first | exact absurd hp (by decide) | exact rfl | exact trivial | exact ⟨rfl, rfl⟩)
    | with_reducible apply st_flag_kept | with_reducible apply post_kept | with_reducible apply kept_ite
    | (with_reducible refine kept_foldl ?_ (fun _ _ _ => ?_)) | (intro _) | split | dsimp only
    | fail_if_no_progress with_reducible refine kept_upd 3254780289 ?_ rfl rfl rfl ?_ hF

theorem benchClose_kept {F : Nat} {o0 s : State} (event : Nat) (hI : Kept F o0 s) (hF : Sub 1191182721 F := by first | with_reducible assumption | exact Sub.mono (by with_reducible assumption) (by decide)) : Kept F o0 (benchClose event s) := by
  unfold benchClose
  repeat' first
    | with_reducible assumption | (with_reducible exact Sub.mono hF (by decide))
    | ((with_reducible refine FrameU.mk fun p hp => ?_); cases p <;> first | exact absurd hp (by decide) | exact rfl | exact trivial | exact ⟨rfl, rfl⟩)
    | with_reducible apply post_kept | with_reducible apply benchView_kept | with_reducible apply kept_ite
    | (with_reducible refine kept_foldl ?_ (fun _ _ _ => ?_)) | (intro _) | split | dsimp only
    | fail_if_no_progress with_reducible refine kept_upd 1191182721 ?_ rfl rfl rfl ?_ hF

theorem stewardFlush_kept {F : Nat} {o0 s : State}  (hI : Kept F o0 s) (hF : Sub 1108345025 F := by first | with_reducible assumption | exact Sub.mono (by with_reducible assumption) (by decide)) : Kept F o0 (stewardFlush s) := by
  unfold stewardFlush
  repeat' first
    | with_reducible assumption | (with_reducible exact Sub.mono hF (by decide))
    | ((with_reducible refine FrameU.mk fun p hp => ?_); cases p <;> first | exact absurd hp (by decide) | exact rfl | exact trivial | exact ⟨rfl, rfl⟩)
    | with_reducible apply suppress_kept | with_reducible apply st_setEgrQ_kept | with_reducible apply st_setIng_kept
    | with_reducible apply tcpClosed_kept | with_reducible apply kept_ite | (with_reducible refine kept_foldl ?_ (fun _ _ _ => ?_))
    | (intro _) | split | dsimp only | fail_if_no_progress with_reducible refine kept_upd 1108345025 ?_ rfl rfl rfl ?_ hF

theorem stewardReset_kept {F : Nat} {o0 s : State}  (hI : Kept F o0 s) (hF : Sub 4399238742981 F := by first | with_reducible assumption | exact Sub.mono (by with_reducible assumption) (by decide)) : Kept F o0 (stewardReset s) := by
  unfold stewardReset
  repeat' first
    | with_reducible assumption | (with_reducible exact Sub.mono hF (by decide))
    | ((with_reducible refine FrameU.mk fun p hp => ?_); cases p <;> first | exact absurd hp (by decide) | exact rfl | exact trivial | exact ⟨rfl, rfl⟩)
    | with_reducible apply st_wr_kept | with_reducible apply st_inc_kept | with_reducible apply st_setMbx_kept
    | with_reducible apply exportFail_kept | with_reducible apply st_setDom_kept | with_reducible apply abortHeld_kept
    | with_reducible apply clearBlock_kept | with_reducible apply benchClose_kept | with_reducible apply stewardFlush_kept
    | with_reducible apply kept_ite | (with_reducible refine kept_foldl ?_ (fun _ _ _ => ?_)) | (intro _) | split | dsimp only
    | fail_if_no_progress with_reducible refine kept_upd 4399238742981 ?_ rfl rfl rfl ?_ hF

theorem stewardRestart_kept {F : Nat} {o0 s : State}  (hI : Kept F o0 s) (hF : Sub 3254780805 F := by first | with_reducible assumption | exact Sub.mono (by with_reducible assumption) (by decide)) : Kept F o0 (stewardRestart s) := by
  unfold stewardRestart
  repeat' first
    | with_reducible assumption | (with_reducible exact Sub.mono hF (by decide))
    | ((with_reducible refine FrameU.mk fun p hp => ?_); cases p <;> first | exact absurd hp (by decide) | exact rfl | exact trivial | exact ⟨rfl, rfl⟩)
    | with_reducible apply st_setMbx_kept | with_reducible apply mbxSync_kept | with_reducible apply st_setDom_kept
    | with_reducible apply lostNotes_kept | with_reducible apply kept_ite | split

theorem prxReset_kept {F : Nat} {o0 s : State} (n : Nat) (hI : Kept F o0 s) (hF : Sub 4398080065589 F := by first | with_reducible assumption | exact Sub.mono (by with_reducible assumption) (by decide)) : Kept F o0 (prxReset n s) := by
  unfold prxReset
  repeat' first
    | with_reducible assumption | (with_reducible exact Sub.mono hF (by decide))
    | ((with_reducible refine FrameU.mk fun p hp => ?_); cases p <;> first | exact absurd hp (by decide) | exact rfl | exact trivial | exact ⟨rfl, rfl⟩)
    | with_reducible apply st_inc_kept | with_reducible apply st_ev_kept | with_reducible apply st_setPort_kept
    | with_reducible apply dupDrop_kept | with_reducible apply rxBad_kept | with_reducible apply abortHeld_kept
    | with_reducible apply kept_ite | (with_reducible refine kept_foldl ?_ (fun _ _ _ => ?_)) | (intro _) | split | dsimp only
    | fail_if_no_progress with_reducible refine kept_upd 4398080065589 ?_ rfl rfl rfl ?_ hF

theorem afeReset_kept {F : Nat} {o0 s : State}  (hI : Kept F o0 s) (hF : Sub 4398048608261 F := by first | with_reducible assumption | exact Sub.mono (by with_reducible assumption) (by decide)) : Kept F o0 (afeReset s) := by
  unfold afeReset
  repeat' first
    | with_reducible assumption | (with_reducible exact Sub.mono hF (by decide))
    | ((with_reducible refine FrameU.mk fun p hp => ?_); cases p <;> first | exact absurd hp (by decide) | exact rfl | exact trivial | exact ⟨rfl, rfl⟩)
    | with_reducible apply loadRegs_kept | with_reducible apply lmfStart_kept | with_reducible apply abortHeld_kept
    | with_reducible apply clearBlock_kept

theorem domReset_kept {F : Nat} {o0 s : State} (target : Nat) (word : Nat) (hI : Kept F o0 s) (hF : Sub 4399240840181 F := by first | with_reducible assumption | exact Sub.mono (by with_reducible assumption) (by decide)) : Kept F o0 (domReset target word s) := by
  unfold domReset
  repeat' first
    | with_reducible assumption | (with_reducible exact Sub.mono hF (by decide))
    | ((with_reducible refine FrameU.mk fun p hp => ?_); cases p <;> first | exact absurd hp (by decide) | exact rfl | exact trivial | exact ⟨rfl, rfl⟩)
    | with_reducible apply st_flag_kept | with_reducible apply postModeChange_kept | with_reducible apply stewardReset_kept
    | with_reducible apply prxReset_kept | with_reducible apply afeReset_kept | with_reducible apply kept_ite | split

theorem domRstWrite_kept {F : Nat} {o0 s : State} (v : Nat) (hI : Kept F o0 s) (hF : Sub 4399240840181 F := by first | with_reducible assumption | exact Sub.mono (by with_reducible assumption) (by decide)) : Kept F o0 (domRstWrite v s) := by
  unfold domRstWrite
  repeat' first
    | with_reducible assumption | (with_reducible exact Sub.mono hF (by decide))
    | ((with_reducible refine FrameU.mk fun p hp => ?_); cases p <;> first | exact absurd hp (by decide) | exact rfl | exact trivial | exact ⟨rfl, rfl⟩)
    | with_reducible apply domReset_kept | with_reducible apply kept_ite | split

theorem abortDma_kept {F : Nat} {o0 s : State}  (hI : Kept F o0 s) (hF : Sub 1107297153 F := by first | with_reducible assumption | exact Sub.mono (by with_reducible assumption) (by decide)) : Kept F o0 (abortDma s) := by
  unfold abortDma
  repeat' first
    | with_reducible assumption | (with_reducible exact Sub.mono hF (by decide))
    | ((with_reducible refine FrameU.mk fun p hp => ?_); cases p <;> first | exact absurd hp (by decide) | exact rfl | exact trivial | exact ⟨rfl, rfl⟩)
    | with_reducible apply st_flag_kept | with_reducible apply st_setMbx_kept | with_reducible apply mbxSync_kept
    | with_reducible apply exportFail_kept | with_reducible apply kept_ite | (with_reducible refine kept_foldl ?_ (fun _ _ _ => ?_))
    | (intro _) | split | dsimp only | fail_if_no_progress with_reducible refine kept_upd 1107297153 ?_ rfl rfl rfl ?_ hF

theorem pcieReset_kept {F : Nat} {o0 s : State}  (hI : Kept F o0 s) (hF : Sub 1376781205 F := by first | with_reducible assumption | exact Sub.mono (by with_reducible assumption) (by decide)) : Kept F o0 (pcieReset s) := by
  unfold pcieReset
  repeat' first
    | with_reducible assumption | (with_reducible exact Sub.mono hF (by decide))
    | ((with_reducible refine FrameU.mk fun p hp => ?_); cases p <;> first | exact absurd hp (by decide) | exact rfl | exact trivial | exact ⟨rfl, rfl⟩)
    | with_reducible apply ringsReset_kept | with_reducible apply dropHeldReads_kept | with_reducible apply abortDma_kept
    | with_reducible apply kept_ite | split | dsimp only
    | fail_if_no_progress with_reducible refine kept_upd 1376781205 ?_ rfl rfl rfl ?_ hF

end Sys2Proof.Machine
end

