-- ==== Sys2Proof/Laws/KeptRegisters.lean ====
section
/-!
SUPPORT. What Machine/Registers.lean keeps of a state: one lemma per operation.
-/

namespace Sys2Proof.Machine

set_option linter.all false
set_option Elab.async false

theorem clearRc_kept {F : Nat} {o0 s : State} (r : RegDesc) (off : Nat) (hI : Kept F o0 s) (hF : Sub 1 F := by first | with_reducible assumption | exact Sub.mono (by with_reducible assumption) (by decide)) : Kept F o0 (clearRc r off s) := by
  unfold clearRc
  repeat' first
    | with_reducible assumption | (with_reducible exact Sub.mono hF (by decide))
    | ((with_reducible refine FrameU.mk fun p hp => ?_); cases p <;> first | exact absurd hp (by decide) | exact rfl | exact trivial | exact ⟨rfl, rfl⟩)
    | with_reducible apply st_wr_kept | with_reducible apply kept_ite | (with_reducible refine kept_foldl ?_ (fun _ _ _ => ?_))
    | (intro _) | split | dsimp only | fail_if_no_progress with_reducible refine kept_upd 1 ?_ rfl rfl rfl ?_ hF

theorem readLatch_kept {F : Nat} {o0 s : State} (base : Nat) (off : Nat) (hI : Kept F o0 s) (hF : Sub 2129929 F := by first | with_reducible assumption | exact Sub.mono (by with_reducible assumption) (by decide)) : Kept F o0 (readLatch base off s) := by
  unfold readLatch
  repeat' first
    | with_reducible assumption | (with_reducible exact Sub.mono hF (by decide))
    | ((with_reducible refine FrameU.mk fun p hp => ?_); cases p <;> first | exact absurd hp (by decide) | exact rfl | exact trivial | exact ⟨rfl, rfl⟩)
    | with_reducible apply st_wr_kept | with_reducible apply st_setTmb_kept | with_reducible apply capShow_kept
    | with_reducible apply st_setCap_kept | with_reducible apply st_setIcv_kept | with_reducible apply icvShow_kept
    | with_reducible apply kept_ite | split | dsimp only
    | fail_if_no_progress with_reducible refine kept_upd 2129929 ?_ rfl rfl rfl ?_ hF

theorem doRead_kept {F : Nat} {o0 s : State} (off : Nat) (hI : Kept F o0 s) (hF : Sub 4398048641033 F := by first | with_reducible assumption | exact Sub.mono (by with_reducible assumption) (by decide)) : Kept F o0 (doRead off s) := by
  unfold doRead
  repeat' first
    | with_reducible assumption | (with_reducible exact Sub.mono hF (by decide))
    | ((with_reducible refine FrameU.mk fun p hp => ?_); cases p <;> first | exact absurd hp (by decide) | exact rfl | exact trivial | exact ⟨rfl, rfl⟩)
    | with_reducible apply st_answer_kept | with_reducible apply clearRc_kept | with_reducible apply readLatch_kept
    | with_reducible apply kept_ite | split | dsimp only
    | fail_if_no_progress with_reducible refine kept_upd 4398048641033 ?_ rfl rfl rfl ?_ hF

theorem storeFields_kept {F : Nat} {o0 s : State} (r : RegDesc) (off : Nat) (v : Nat) (hI : Kept F o0 s) (hF : Sub 1 F := by first | with_reducible assumption | exact Sub.mono (by with_reducible assumption) (by decide)) : Kept F o0 (storeFields r off v s) := by
  unfold storeFields
  repeat' first
    | with_reducible assumption | (with_reducible exact Sub.mono hF (by decide))
    | ((with_reducible refine FrameU.mk fun p hp => ?_); cases p <;> first | exact absurd hp (by decide) | exact rfl | exact trivial | exact ⟨rfl, rfl⟩)
    | with_reducible apply st_wr_kept | with_reducible apply kept_ite | (with_reducible refine kept_foldl ?_ (fun _ _ _ => ?_))
    | (intro _) | split | dsimp only | fail_if_no_progress with_reducible refine kept_upd 1 ?_ rfl rfl rfl ?_ hF

theorem portCtlWrite_kept {F : Nat} {o0 s : State} (n : Nat) (v : Nat) (hI : Kept F o0 s) (hF : Sub 1108345265 F := by first | with_reducible assumption | exact Sub.mono (by with_reducible assumption) (by decide)) : Kept F o0 (portCtlWrite n v s) := by
  unfold portCtlWrite
  repeat' first
    | with_reducible assumption | (with_reducible exact Sub.mono hF (by decide))
    | ((with_reducible refine FrameU.mk fun p hp => ?_); cases p <;> first | exact absurd hp (by decide) | exact rfl | exact trivial | exact ⟨rfl, rfl⟩)
    | with_reducible apply st_wr_kept | with_reducible apply postModeChange_kept | with_reducible apply pauseObey_kept
    | with_reducible apply pmacEn_kept | with_reducible apply linkRestart_kept | with_reducible apply kept_ite | split

theorem plsCfgWrite_kept {F : Nat} {o0 s : State} (k : Nat) (v : Nat) (hI : Kept F o0 s) (hF : Sub 1 F := by first | with_reducible assumption | exact Sub.mono (by with_reducible assumption) (by decide)) : Kept F o0 (plsCfgWrite k v s) := by
  unfold plsCfgWrite
  repeat' first
    | with_reducible assumption | (with_reducible exact Sub.mono hF (by decide))
    | ((with_reducible refine FrameU.mk fun p hp => ?_); cases p <;> first | exact absurd hp (by decide) | exact rfl | exact trivial | exact ⟨rfl, rfl⟩)
    | with_reducible apply st_wr_kept | with_reducible apply kept_ite | split

theorem rlSelect_kept {F : Nat} {o0 s : State} (v : Nat) (hI : Kept F o0 s) (hF : Sub 1 F := by first | with_reducible assumption | exact Sub.mono (by with_reducible assumption) (by decide)) : Kept F o0 (rlSelect v s) := by
  unfold rlSelect
  repeat' first
    | with_reducible assumption | (with_reducible exact Sub.mono hF (by decide))
    | ((with_reducible refine FrameU.mk fun p hp => ?_); cases p <;> first | exact absurd hp (by decide) | exact rfl | exact trivial | exact ⟨rfl, rfl⟩)
    | with_reducible apply st_wr_kept | with_reducible apply st_wrB_kept

theorem rlWrite_kept {F : Nat} {o0 s : State} (v : Nat) (hI : Kept F o0 s) (hF : Sub 1073741953 F := by first | with_reducible assumption | exact Sub.mono (by with_reducible assumption) (by decide)) : Kept F o0 (rlWrite v s) := by
  unfold rlWrite
  repeat' first
    | with_reducible assumption | (with_reducible exact Sub.mono hF (by decide))
    | ((with_reducible refine FrameU.mk fun p hp => ?_); cases p <;> first | exact absurd hp (by decide) | exact rfl | exact trivial | exact ⟨rfl, rfl⟩)
    | with_reducible apply st_wr_kept | with_reducible apply st_setBucket_kept | with_reducible apply st_setChs_kept
    | with_reducible apply kept_ite | (with_reducible refine kept_foldl ?_ (fun _ _ _ => ?_))
    | (with_reducible refine kept_foldl_fst ?_ (fun _ _ _ => ?_)) | (exact ⟨id, id, List.prefix_refl _, Nat.le_refl _⟩) | (intro _)
    | split | dsimp only | with_reducible refine kept_ports ?_ ?_ | with_reducible refine kept_pio ?_ ?_
    | fail_if_no_progress with_reducible refine kept_upd 1073741953 ?_ rfl rfl rfl ?_ hF
    | fail_if_no_progress with_reducible refine kept_chs 1073741953 ?_ ?_ rfl ?_ hF

theorem smSelect_kept {F : Nat} {o0 s : State} (v : Nat) (hI : Kept F o0 s) (hF : Sub 1 F := by first | with_reducible assumption | exact Sub.mono (by with_reducible assumption) (by decide)) : Kept F o0 (smSelect v s) := by
  unfold smSelect
  repeat' first
    | with_reducible assumption | (with_reducible exact Sub.mono hF (by decide))
    | ((with_reducible refine FrameU.mk fun p hp => ?_); cases p <;> first | exact absurd hp (by decide) | exact rfl | exact trivial | exact ⟨rfl, rfl⟩)
    | with_reducible apply st_wr_kept | with_reducible apply st_wrB_kept | with_reducible apply ingSelect_kept
    | with_reducible apply pghSelect_kept | with_reducible apply kept_ite | split

theorem windowInterrupt_kept {F : Nat} {o0 s : State}  (hI : Kept F o0 s) (hF : Sub 4398348501504 F := by first | with_reducible assumption | exact Sub.mono (by with_reducible assumption) (by decide)) : Kept F o0 (windowInterrupt s) := by
  unfold windowInterrupt
  repeat' first
    | with_reducible assumption | (with_reducible exact Sub.mono hF (by decide))
    | ((with_reducible refine FrameU.mk fun p hp => ?_); cases p <;> first | exact absurd hp (by decide) | exact rfl | exact trivial | exact ⟨rfl, rfl⟩)
    | with_reducible apply st_msix_kept | with_reducible apply kept_ite | split | dsimp only
    | fail_if_no_progress with_reducible refine kept_upd 4398348501504 ?_ rfl rfl rfl ?_ hF

theorem smEoi_kept {F : Nat} {o0 s : State}  (hI : Kept F o0 s) (hF : Sub 4398348501504 F := by first | with_reducible assumption | exact Sub.mono (by with_reducible assumption) (by decide)) : Kept F o0 (smEoi s) := by
  unfold smEoi
  repeat' first
    | with_reducible assumption | (with_reducible exact Sub.mono hF (by decide))
    | ((with_reducible refine FrameU.mk fun p hp => ?_); cases p <;> first | exact absurd hp (by decide) | exact rfl | exact trivial | exact ⟨rfl, rfl⟩)
    | with_reducible apply windowInterrupt_kept | with_reducible apply kept_ite | split | dsimp only
    | fail_if_no_progress with_reducible refine kept_upd 4398348501504 ?_ rfl rfl rfl ?_ hF

theorem bandEnEffect_kept {F : Nat} {o0 s : State} (b : Nat) (hI : Kept F o0 s) (hF : Sub 65537 F := by first | with_reducible assumption | exact Sub.mono (by with_reducible assumption) (by decide)) : Kept F o0 (bandEnEffect b s) := by
  unfold bandEnEffect
  repeat' first
    | with_reducible assumption | (with_reducible exact Sub.mono hF (by decide))
    | ((with_reducible refine FrameU.mk fun p hp => ?_); cases p <;> first | exact absurd hp (by decide) | exact rfl | exact trivial | exact ⟨rfl, rfl⟩)
    | with_reducible apply st_wrB_kept | with_reducible apply st_setSpec_kept | with_reducible apply kept_ite | split

theorem ownWrite_kept {F : Nat} {o0 s : State} (base off v : Nat) (twin window : Bool) (hI : Kept F o0 s) (hF : Sub 6600818689021 F := by first | with_reducible assumption | exact Sub.mono (by with_reducible assumption) (by decide)) :
    ∀ t, ownWrite base off v twin window s = some t → Kept F o0 t := by
  unfold ownWrite
  dsimp only
  repeat' first
    | with_reducible refine kept_opt_ite ?_ ?_
    | with_reducible refine kept_some ?_
    | with_reducible apply kept_ite
    | with_reducible assumption
  · exact domRstWrite_kept _ hI
  · exact portCtlWrite_kept _ _ hI
  · exact ttgDisarm_kept _ hI
  · exact ttgArm_kept _ hI
  · exact ingSelect_kept _ hI
  · exact pghSelect_kept _ hI
  · exact itemSelect_kept _ hI
  · exact minClr_kept hI
  · exact modeSelect_kept _ hI
  · exact cohNodeSelect_kept _ hI
  · exact cohBranchSelect_kept _ hI
  · exact maxClr_kept hI
  · exact pairWide_kept _ _ _ (fun _ h => ackWrite_kept _ h) hI
  · exact almInh_kept _ hI
  · exact almSelect_kept _ hI
  · exact accSelect_kept _ hI
  · exact plsCfgWrite_kept _ _ hI
  · exact egrSelect_kept _ hI
  · exact snareCtl_kept _ _ hI
  · exact rlSelect_kept _ hI
  · exact rlWrite_kept _ hI
  · exact chestFetch_kept _ hI
  · exact burSelect_kept _ hI
  · exact pairAccSelect_kept _ hI
  · exact icvRefWrite_kept _ _ (kept_ite (st_wr_kept _ _ hI) hI)
  · exact pmcSelect_kept _ hI
  · exact traceSelect_kept _ _ hI
  · exact tstCtl_kept _ hI
  · exact ringDoorbell_kept _ hI
  · exact smEoi_kept hI
  · exact smSelect_kept _ hI
  · rintro _ ⟨⟩

theorem ownWrite_kept_eq {F : Nat} {o0 s t : State} {base : Nat} {off : Nat} {v : Nat} {twin : Bool} {window : Bool} (hI : Kept F o0 s) (hF : Sub 6600818689021 F := by first | with_reducible assumption | exact Sub.mono (by with_reducible assumption) (by decide))
    (e : ownWrite base off v twin window s = some t) : Kept F o0 t := ownWrite_kept base off v twin window hI hF t e

theorem afterWrite_kept {F : Nat} {o0 s : State} (base : Nat) (off : Nat) (v : Nat) (hI : Kept F o0 s) (hF : Sub 4399898132883 F := by first | with_reducible assumption | exact Sub.mono (by with_reducible assumption) (by decide)) : Kept F o0 (afterWrite base off v s) := by
  unfold afterWrite
  repeat' first
    | with_reducible assumption | (with_reducible exact Sub.mono hF (by decide))
    | ((with_reducible refine FrameU.mk fun p hp => ?_); cases p <;> first | exact absurd hp (by decide) | exact rfl | exact trivial | exact ⟨rfl, rfl⟩)
    | with_reducible apply st_wr_kept | with_reducible apply ringEnable_kept | with_reducible apply updateQual_kept
    | with_reducible apply prefSync_kept | with_reducible apply tstSync_kept | with_reducible apply stallArm_kept
    | with_reducible apply bandEnEffect_kept | with_reducible apply kept_ite | split | dsimp only
    | fail_if_no_progress with_reducible refine kept_upd 4399898132883 ?_ rfl rfl rfl ?_ hF

theorem regWrite_kept {F : Nat} {o0 s : State} (off : Nat) (v : Nat) (twin : Bool) (hI : Kept F o0 s) (hF : Sub 6601356182527 F := by first | with_reducible assumption | exact Sub.mono (by with_reducible assumption) (by decide)) : Kept F o0 (regWrite off v twin s) := by
  unfold regWrite
  repeat' first
    | with_reducible assumption | (with_reducible exact Sub.mono hF (by decide))
    | ((with_reducible refine FrameU.mk fun p hp => ?_); cases p <;> first | exact absurd hp (by decide) | exact rfl | exact trivial | exact ⟨rfl, rfl⟩)
    | with_reducible apply storeFields_kept | (refine ownWrite_kept_eq ?_ ?_ (by assumption)) | with_reducible apply afterWrite_kept
    | with_reducible apply kept_ite | split | dsimp only
    | fail_if_no_progress with_reducible refine kept_upd 6601356182527 ?_ rfl rfl rfl ?_ hF

theorem drainStalled_kept {F : Nat} {o0 s : State} (k : Nat) (hI : Kept F o0 s) (hF : Sub 6601356182527 F := by first | with_reducible assumption | exact Sub.mono (by with_reducible assumption) (by decide)) : Kept F o0 (drainStalled k s) := by
  induction k generalizing s with
  | zero => exact hI
  | succ k ih =>
    unfold drainStalled
    repeat' first
      | with_reducible assumption
      | (with_reducible exact Sub.mono hF (by decide))
      | with_reducible apply ih
      | with_reducible apply regWrite_kept
      | with_reducible apply st_setDom_kept
      | split

theorem drainAll_kept {F : Nat} {o0 s : State}  (hI : Kept F o0 s) (hF : Sub 6601356182527 F := by first | with_reducible assumption | exact Sub.mono (by with_reducible assumption) (by decide)) : Kept F o0 (drainAll s) := by
  unfold drainAll
  repeat' first
    | with_reducible assumption | (with_reducible exact Sub.mono hF (by decide))
    | ((with_reducible refine FrameU.mk fun p hp => ?_); cases p <;> first | exact absurd hp (by decide) | exact rfl | exact trivial | exact ⟨rfl, rfl⟩)
    | with_reducible apply drainStalled_kept

theorem busWrite_kept {F : Nat} {o0 s : State} (off : Nat) (v : Nat) (twin : Bool) (hI : Kept F o0 s) (hF : Sub 6601356182527 F := by first | with_reducible assumption | exact Sub.mono (by with_reducible assumption) (by decide)) : Kept F o0 (busWrite off v twin s) := by
  unfold busWrite
  repeat' first
    | with_reducible assumption | (with_reducible exact Sub.mono hF (by decide))
    | ((with_reducible refine FrameU.mk fun p hp => ?_); cases p <;> first | exact absurd hp (by decide) | exact rfl | exact trivial | exact ⟨rfl, rfl⟩)
    | with_reducible apply st_setDom_kept | with_reducible apply regWrite_kept | with_reducible apply drainAll_kept
    | with_reducible apply kept_ite | split

theorem busRead_kept {F : Nat} {o0 s : State} (off : Nat) (hI : Kept F o0 s) (hF : Sub 4398082195469 F := by first | with_reducible assumption | exact Sub.mono (by with_reducible assumption) (by decide)) : Kept F o0 (busRead off s) := by
  unfold busRead
  repeat' first
    | with_reducible assumption | (with_reducible exact Sub.mono hF (by decide))
    | ((with_reducible refine FrameU.mk fun p hp => ?_); cases p <;> first | exact absurd hp (by decide) | exact rfl | exact trivial | exact ⟨rfl, rfl⟩)
    | with_reducible apply st_ev_kept | with_reducible apply st_setDom_kept | with_reducible apply doRead_kept
    | with_reducible apply kept_ite

theorem hostAccess_kept {F : Nat} {o0 s : State} (off : Nat) (wide : Bool) (go : Nat → State → State) (hgo : ∀ x0 x1, Kept F o0 x1 → Kept F o0 (go x0 x1)) (hI : Kept F o0 s) (hF : Sub 4398046511104 F := by first | with_reducible assumption | exact Sub.mono (by with_reducible assumption) (by decide)) : Kept F o0 (hostAccess off wide go s) := by
  unfold hostAccess
  repeat' first
    | with_reducible assumption | with_reducible apply hgo | (with_reducible exact Sub.mono hF (by decide))
    | ((with_reducible refine FrameU.mk fun p hp => ?_); cases p <;> first | exact absurd hp (by decide) | exact rfl | exact trivial | exact ⟨rfl, rfl⟩)
    | with_reducible apply st_emit_kept | with_reducible apply kept_ite | (intro _)

theorem hostWrite_kept {F : Nat} {o0 s : State} (off : Nat) (v : Nat) (wide : Bool) (twin : Bool) (hI : Kept F o0 s) (hF : Sub 6601356182527 F := by first | with_reducible assumption | exact Sub.mono (by with_reducible assumption) (by decide)) : Kept F o0 (hostWrite off v wide twin s) := by
  unfold hostWrite
  repeat' first
    | with_reducible assumption | (with_reducible exact Sub.mono hF (by decide))
    | ((with_reducible refine FrameU.mk fun p hp => ?_); cases p <;> first | exact absurd hp (by decide) | exact rfl | exact trivial | exact ⟨rfl, rfl⟩)
    | with_reducible apply busWrite_kept | with_reducible apply hostAccess_kept | with_reducible apply kept_ite | (intro _) | split

theorem hostRead_kept {F : Nat} {o0 s : State} (off : Nat) (wide : Bool) (hI : Kept F o0 s) (hF : Sub 4398082195469 F := by first | with_reducible assumption | exact Sub.mono (by with_reducible assumption) (by decide)) : Kept F o0 (hostRead off wide s) := by
  unfold hostRead
  repeat' first
    | with_reducible assumption | (with_reducible exact Sub.mono hF (by decide))
    | ((with_reducible refine FrameU.mk fun p hp => ?_); cases p <;> first | exact absurd hp (by decide) | exact rfl | exact trivial | exact ⟨rfl, rfl⟩)
    | with_reducible apply busRead_kept | with_reducible apply hostAccess_kept | with_reducible apply kept_ite | (intro _) | split

theorem releaseHeld_kept {F : Nat} {o0 s : State} (d : Nat) (hI : Kept F o0 s) (hF : Sub 6601356182527 F := by first | with_reducible assumption | exact Sub.mono (by with_reducible assumption) (by decide)) : Kept F o0 (releaseHeld d s) := by
  unfold releaseHeld
  repeat' first
    | with_reducible assumption | (with_reducible exact Sub.mono hF (by decide))
    | ((with_reducible refine FrameU.mk fun p hp => ?_); cases p <;> first | exact absurd hp (by decide) | exact rfl | exact trivial | exact ⟨rfl, rfl⟩)
    | with_reducible apply st_setDom_kept | with_reducible apply doRead_kept | with_reducible apply regWrite_kept
    | with_reducible apply drainAll_kept | with_reducible apply kept_ite | split | dsimp only
    | fail_if_no_progress with_reducible refine kept_upd 6601356182527 ?_ rfl rfl rfl ?_ hF

theorem execRegisterWrite_kept {F : Nat} {o0 s : State} (off : Nat) (val : Nat) (full : Bool) (wide : Bool) (twin : Bool) (hI : Kept F o0 s) (hF : Sub 6601356182527 F := by first | with_reducible assumption | exact Sub.mono (by with_reducible assumption) (by decide)) : OutKept F o0 (execRegisterWrite off val full wide twin s) := by
  unfold execRegisterWrite
  repeat' first
    | with_reducible assumption | (with_reducible exact Sub.mono hF (by decide))
    | ((with_reducible refine FrameU.mk fun p hp => ?_); cases p <;> first | exact absurd hp (by decide) | exact rfl | exact trivial | exact ⟨rfl, rfl⟩)
    | with_reducible apply hostWrite_kept | with_reducible apply kept_next | with_reducible apply kept_ite | split

theorem execSelectLatchWrite_kept {F : Nat} {o0 s : State} (off : Nat) (val : Nat) (hI : Kept F o0 s) (hF : Sub 6601356182527 F := by first | with_reducible assumption | exact Sub.mono (by with_reducible assumption) (by decide)) : OutKept F o0 (execSelectLatchWrite off val s) := by
  unfold execSelectLatchWrite
  repeat' first
    | with_reducible assumption | (with_reducible exact Sub.mono hF (by decide))
    | ((with_reducible refine FrameU.mk fun p hp => ?_); cases p <;> first | exact absurd hp (by decide) | exact rfl | exact trivial | exact ⟨rfl, rfl⟩)
    | with_reducible apply hostWrite_kept | with_reducible apply kept_next

theorem execRcRead_kept {F : Nat} {o0 s : State} (off : Nat) (wide : Bool) (hI : Kept F o0 s) (hF : Sub 4398082195469 F := by first | with_reducible assumption | exact Sub.mono (by with_reducible assumption) (by decide)) : OutKept F o0 (execRcRead off wide s) := by
  unfold execRcRead
  repeat' first
    | with_reducible assumption | (with_reducible exact Sub.mono hF (by decide))
    | ((with_reducible refine FrameU.mk fun p hp => ?_); cases p <;> first | exact absurd hp (by decide) | exact rfl | exact trivial | exact ⟨rfl, rfl⟩)
    | with_reducible apply hostRead_kept | with_reducible apply kept_next

theorem execLoLatchRead_kept {F : Nat} {o0 s : State} (off : Nat) (wide : Bool) (hI : Kept F o0 s) (hF : Sub 4398082195469 F := by first | with_reducible assumption | exact Sub.mono (by with_reducible assumption) (by decide)) : OutKept F o0 (execLoLatchRead off wide s) := by
  unfold execLoLatchRead
  repeat' first
    | with_reducible assumption | (with_reducible exact Sub.mono hF (by decide))
    | ((with_reducible refine FrameU.mk fun p hp => ?_); cases p <;> first | exact absurd hp (by decide) | exact rfl | exact trivial | exact ⟨rfl, rfl⟩)
    | with_reducible apply hostRead_kept | with_reducible apply kept_next

theorem execDomRstCtl_kept {F : Nat} {o0 s : State} (go : Bool) (target : Fin 128) (hI : Kept F o0 s) (hF : Sub 6601356182527 F := by first | with_reducible assumption | exact Sub.mono (by with_reducible assumption) (by decide)) : OutKept F o0 (execDomRstCtl go target s) := by
  unfold execDomRstCtl
  repeat' first
    | with_reducible assumption | (with_reducible exact Sub.mono hF (by decide))
    | ((with_reducible refine FrameU.mk fun p hp => ?_); cases p <;> first | exact absurd hp (by decide) | exact rfl | exact trivial | exact ⟨rfl, rfl⟩)
    | with_reducible apply hostWrite_kept | with_reducible apply kept_next

theorem execHeldAccessRelease_kept {F : Nat} {o0 s : State} (dom : Fin 128) (hI : Kept F o0 s) (hF : Sub 6601356182527 F := by first | with_reducible assumption | exact Sub.mono (by with_reducible assumption) (by decide)) : OutKept F o0 (execHeldAccessRelease dom s) := by
  unfold execHeldAccessRelease
  repeat' first
    | with_reducible assumption | (with_reducible exact Sub.mono hF (by decide))
    | ((with_reducible refine FrameU.mk fun p hp => ?_); cases p <;> first | exact absurd hp (by decide) | exact rfl | exact trivial | exact ⟨rfl, rfl⟩)
    | with_reducible apply releaseHeld_kept | with_reducible apply kept_next

theorem execSmEoi_kept {F : Nat} {o0 s : State} (twin : Bool) (hI : Kept F o0 s) (hF : Sub 6601356182527 F := by first | with_reducible assumption | exact Sub.mono (by with_reducible assumption) (by decide)) : OutKept F o0 (execSmEoi twin s) := by
  unfold execSmEoi
  repeat' first
    | with_reducible assumption | (with_reducible exact Sub.mono hF (by decide))
    | ((with_reducible refine FrameU.mk fun p hp => ?_); cases p <;> first | exact absurd hp (by decide) | exact rfl | exact trivial | exact ⟨rfl, rfl⟩)
    | with_reducible apply hostWrite_kept | with_reducible apply kept_next

theorem execWindowInterrupt_kept {F : Nat} {o0 s : State}  (hI : Kept F o0 s) (hF : Sub 4398348501504 F := by first | with_reducible assumption | exact Sub.mono (by with_reducible assumption) (by decide)) : OutKept F o0 (execWindowInterrupt s) := by
  unfold execWindowInterrupt
  repeat' first
    | with_reducible assumption | (with_reducible exact Sub.mono hF (by decide))
    | ((with_reducible refine FrameU.mk fun p hp => ?_); cases p <;> first | exact absurd hp (by decide) | exact rfl | exact trivial | exact ⟨rfl, rfl⟩)
    | with_reducible apply windowInterrupt_kept | with_reducible apply kept_next

end Sys2Proof.Machine
end

