-- ==== Sys2Proof/Laws/KeptBenchRows.lean ====
section
/-!
SUPPORT. What Machine/BenchRows.lean keeps of a state: one lemma per operation.
-/

namespace Sys2Proof.Machine

set_option linter.all false
set_option Elab.async false

theorem benchLine_kept {F : Nat} {o0 s : State} (f : State → State) (hf : ∀ x0, Kept F o0 x0 → Kept F o0 (f x0)) (hI : Kept F o0 s) (hF : Sub 1124073857 F := by first | with_reducible assumption | exact Sub.mono (by with_reducible assumption) (by decide)) : Kept F o0 (benchLine f s) := by
  unfold benchLine
  repeat' first
    | with_reducible assumption | with_reducible apply hf | (with_reducible exact Sub.mono hF (by decide))
    | ((with_reducible refine FrameU.mk fun p hp => ?_); cases p <;> first | exact absurd hp (by decide) | exact rfl | exact trivial | exact ⟨rfl, rfl⟩)
    | with_reducible apply benchInput_kept | with_reducible apply kept_ite | (intro _) | split

theorem benchOk_kept {F : Nat} {o0 s : State} (line : String) (vals : List Nat) (hI : Kept F o0 s) (hF : Sub 4398046511104 F := by first | with_reducible assumption | exact Sub.mono (by with_reducible assumption) (by decide)) : Kept F o0 (benchOk line vals s) := by
  unfold benchOk
  repeat' first
    | with_reducible assumption | (with_reducible exact Sub.mono hF (by decide))
    | ((with_reducible refine FrameU.mk fun p hp => ?_); cases p <;> first | exact absurd hp (by decide) | exact rfl | exact trivial | exact ⟨rfl, rfl⟩)
    | with_reducible apply st_emit_kept

theorem st_setBench_kept {F : Nat} {o0 s : State} (b : Bench) (hI : Kept F o0 s) (hF : Sub 16777216 F := by first | with_reducible assumption | exact Sub.mono (by with_reducible assumption) (by decide)) : Kept F o0 (State.setBench s b) := by
  unfold State.setBench
  repeat' first
    | with_reducible assumption | (with_reducible exact Sub.mono hF (by decide))
    | ((with_reducible refine FrameU.mk fun p hp => ?_); cases p <;> first | exact absurd hp (by decide) | exact rfl | exact trivial | exact ⟨rfl, rfl⟩)
    | with_reducible apply kept_ite | split | dsimp only
    | fail_if_no_progress with_reducible refine kept_upd 16777216 ?_ rfl rfl rfl ?_ hF

theorem execBenchSessionOpen_kept {F : Nat} {o0 s : State} (hI : Kept F o0 s) (hF : Sub 1124073857 F := by first | with_reducible assumption | exact Sub.mono (by with_reducible assumption) (by decide)) : OutKept F o0 (execBenchSessionOpen s) :=
  kept_next (benchLine_kept _ (fun _ h => h) hI)

theorem execBenchIdleTimeout_kept {F : Nat} {o0 s : State}  (hI : Kept F o0 s) (hF : Sub 1191182721 F := by first | with_reducible assumption | exact Sub.mono (by with_reducible assumption) (by decide)) : OutKept F o0 (execBenchIdleTimeout s) := by
  unfold execBenchIdleTimeout
  repeat' first
    | with_reducible assumption | (with_reducible exact Sub.mono hF (by decide))
    | ((with_reducible refine FrameU.mk fun p hp => ?_); cases p <;> first | exact absurd hp (by decide) | exact rfl | exact trivial | exact ⟨rfl, rfl⟩)
    | with_reducible apply benchClose_kept | with_reducible apply kept_next | with_reducible apply kept_ite | split

theorem execBenchLockoutExpiry_kept {F : Nat} {o0 s : State}  (hI : Kept F o0 s) (hF : Sub 16777216 F := by first | with_reducible assumption | exact Sub.mono (by with_reducible assumption) (by decide)) : OutKept F o0 (execBenchLockoutExpiry s) := by
  unfold execBenchLockoutExpiry
  repeat' first
    | with_reducible assumption | (with_reducible exact Sub.mono hF (by decide))
    | ((with_reducible refine FrameU.mk fun p hp => ?_); cases p <;> first | exact absurd hp (by decide) | exact rfl | exact trivial | exact ⟨rfl, rfl⟩)
    | with_reducible apply st_setBench_kept | with_reducible apply kept_next | with_reducible apply kept_ite | split | dsimp only
    | fail_if_no_progress with_reducible refine kept_upd 16777216 ?_ rfl rfl rfl ?_ hF

theorem execLogout_kept {F : Nat} {o0 s : State}  (hI : Kept F o0 s) (hF : Sub 4399237693825 F := by first | with_reducible assumption | exact Sub.mono (by with_reducible assumption) (by decide)) : OutKept F o0 (execLogout s) := by
  unfold execLogout
  repeat' first
    | with_reducible assumption | (with_reducible exact Sub.mono hF (by decide))
    | ((with_reducible refine FrameU.mk fun p hp => ?_); cases p <;> first | exact absurd hp (by decide) | exact rfl | exact trivial | exact ⟨rfl, rfl⟩)
    | with_reducible apply st_emit_kept | with_reducible apply benchClose_kept | with_reducible apply benchLine_kept
    | with_reducible apply kept_next | (intro _)

theorem benchGrant_kept {F : Nat} {o0 s : State} (level : Nat) (key : Option Nat) (hI : Kept F o0 s) (hF : Sub 6598260949377 F := by first | with_reducible assumption | exact Sub.mono (by with_reducible assumption) (by decide)) : Kept F o0 (benchGrant level key s) := by
  unfold benchGrant
  repeat' first
    | with_reducible assumption | (with_reducible exact Sub.mono hF (by decide))
    | ((with_reducible refine FrameU.mk fun p hp => ?_); cases p <;> first | exact absurd hp (by decide) | exact rfl | exact trivial | exact ⟨rfl, rfl⟩)
    | with_reducible apply st_wr_kept | with_reducible apply st_emit_kept | with_reducible apply st_nextFree_kept
    | with_reducible apply post_kept | with_reducible apply tstDisable_kept | with_reducible apply st_setBench_kept
    | with_reducible apply kept_ite | split | dsimp only
    | fail_if_no_progress with_reducible refine kept_upd 6598260949377 ?_ rfl rfl rfl ?_ hF

theorem execLogin_kept {F : Nat} {o0 s : State} (service : Bool) (hI : Kept F o0 s) (hF : Sub 6598260949377 F := by first | with_reducible assumption | exact Sub.mono (by with_reducible assumption) (by decide)) : OutKept F o0 (execLogin service s) := by
  unfold execLogin
  repeat' first
    | with_reducible assumption | (with_reducible exact Sub.mono hF (by decide))
    | ((with_reducible refine FrameU.mk fun p hp => ?_); cases p <;> first | exact absurd hp (by decide) | exact rfl | exact trivial | exact ⟨rfl, rfl⟩)
    | with_reducible apply st_nextFree_kept | with_reducible apply benchErr_kept | with_reducible apply benchLine_kept
    | with_reducible apply benchOk_kept | with_reducible apply st_setBench_kept | with_reducible apply benchGrant_kept
    | with_reducible apply kept_next | with_reducible apply kept_ite | (intro _) | split

theorem benchWrong_kept {F : Nat} {o0 s : State} (level : Nat) (hI : Kept F o0 s) (hF : Sub 4399170584961 F := by first | with_reducible assumption | exact Sub.mono (by with_reducible assumption) (by decide)) : Kept F o0 (benchWrong level s) := by
  unfold benchWrong
  repeat' first
    | with_reducible assumption | (with_reducible exact Sub.mono hF (by decide))
    | ((with_reducible refine FrameU.mk fun p hp => ?_); cases p <;> first | exact absurd hp (by decide) | exact rfl | exact trivial | exact ⟨rfl, rfl⟩)
    | with_reducible apply st_flag_kept | with_reducible apply post_kept | with_reducible apply benchErr_kept
    | with_reducible apply st_setBench_kept

theorem execAnswer_kept {F : Nat} {o0 s : State} (ans : Nat) (hI : Kept F o0 s) (hF : Sub 6632629076353 F := by first | with_reducible assumption | exact Sub.mono (by with_reducible assumption) (by decide)) : OutKept F o0 (execAnswer ans s) := by
  unfold execAnswer
  repeat' first
    | with_reducible assumption | (with_reducible exact Sub.mono hF (by decide))
    | ((with_reducible refine FrameU.mk fun p hp => ?_); cases p <;> first | exact absurd hp (by decide) | exact rfl | exact trivial | exact ⟨rfl, rfl⟩)
    | with_reducible apply spendUse_kept | with_reducible apply benchErr_kept | with_reducible apply benchLine_kept
    | with_reducible apply st_setBench_kept | with_reducible apply benchGrant_kept | with_reducible apply benchWrong_kept
    | with_reducible apply kept_next | with_reducible apply kept_ite | (intro _) | split | dsimp only
    | fail_if_no_progress with_reducible refine kept_upd 6632629076353 ?_ rfl rfl rfl ?_ hF

theorem execRd_kept {F : Nat} {o0 s : State} (off : Nat) (n : Nat) (hI : Kept F o0 s) (hF : Sub 4399170584961 F := by first | with_reducible assumption | exact Sub.mono (by with_reducible assumption) (by decide)) : OutKept F o0 (execRd off n s) := by
  unfold execRd
  repeat' first
    | with_reducible assumption | (with_reducible exact Sub.mono hF (by decide))
    | ((with_reducible refine FrameU.mk fun p hp => ?_); cases p <;> first | exact absurd hp (by decide) | exact rfl | exact trivial | exact ⟨rfl, rfl⟩)
    | with_reducible apply benchErr_kept | with_reducible apply benchLine_kept | with_reducible apply benchOk_kept
    | with_reducible apply kept_next | with_reducible apply kept_ite | (intro _) | split

theorem execCtrSnap_kept {F : Nat} {o0 s : State} (first : Nat) (n : Nat) (hI : Kept F o0 s) (hF : Sub 4399170584961 F := by first | with_reducible assumption | exact Sub.mono (by with_reducible assumption) (by decide)) : OutKept F o0 (execCtrSnap first n s) := by
  unfold execCtrSnap
  repeat' first
    | with_reducible assumption | (with_reducible exact Sub.mono hF (by decide))
    | ((with_reducible refine FrameU.mk fun p hp => ?_); cases p <;> first | exact absurd hp (by decide) | exact rfl | exact trivial | exact ⟨rfl, rfl⟩)
    | with_reducible apply benchErr_kept | with_reducible apply benchLine_kept | with_reducible apply benchOk_kept
    | with_reducible apply kept_next | with_reducible apply kept_ite | (intro _) | split

theorem execCtrPort_kept {F : Nat} {o0 s : State} (j : Fin 512) (hI : Kept F o0 s) (hF : Sub 6598193840513 F := by first | with_reducible assumption | exact Sub.mono (by with_reducible assumption) (by decide)) : OutKept F o0 (execCtrPort j s) := by
  unfold execCtrPort
  repeat' first
    | with_reducible assumption | (with_reducible exact Sub.mono hF (by decide))
    | ((with_reducible refine FrameU.mk fun p hp => ?_); cases p <;> first | exact absurd hp (by decide) | exact rfl | exact trivial | exact ⟨rfl, rfl⟩)
    | with_reducible apply st_nextFree_kept | with_reducible apply benchLine_kept | with_reducible apply benchOk_kept
    | with_reducible apply kept_next | (intro _)

theorem execTrace_kept {F : Nat} {o0 s : State} (n : Nat) (hI : Kept F o0 s) (hF : Sub 4399170584961 F := by first | with_reducible assumption | exact Sub.mono (by with_reducible assumption) (by decide)) : OutKept F o0 (execTrace n s) := by
  unfold execTrace
  repeat' first
    | with_reducible assumption | (with_reducible exact Sub.mono hF (by decide))
    | ((with_reducible refine FrameU.mk fun p hp => ?_); cases p <;> first | exact absurd hp (by decide) | exact rfl | exact trivial | exact ⟨rfl, rfl⟩)
    | with_reducible apply benchErr_kept | with_reducible apply benchLine_kept | with_reducible apply benchOk_kept
    | with_reducible apply kept_next | with_reducible apply kept_ite | (intro _) | split

theorem execChest_kept {F : Nat} {o0 s : State} (seq : Nat) (n : Nat) (hI : Kept F o0 s) (hF : Sub 4399170584961 F := by first | with_reducible assumption | exact Sub.mono (by with_reducible assumption) (by decide)) : OutKept F o0 (execChest seq n s) := by
  unfold execChest
  repeat' first
    | with_reducible assumption | (with_reducible exact Sub.mono hF (by decide))
    | ((with_reducible refine FrameU.mk fun p hp => ?_); cases p <;> first | exact absurd hp (by decide) | exact rfl | exact trivial | exact ⟨rfl, rfl⟩)
    | with_reducible apply st_emit_kept | with_reducible apply benchErr_kept | with_reducible apply benchLine_kept
    | with_reducible apply kept_next | with_reducible apply kept_ite | (with_reducible refine kept_foldl ?_ (fun _ _ _ => ?_))
    | (intro _) | split | dsimp only | fail_if_no_progress with_reducible refine kept_upd 4399170584961 ?_ rfl rfl rfl ?_ hF

theorem execStatus_kept {F : Nat} {o0 s : State}  (hI : Kept F o0 s) (hF : Sub 4399170584961 F := by first | with_reducible assumption | exact Sub.mono (by with_reducible assumption) (by decide)) : OutKept F o0 (execStatus s) := by
  unfold execStatus
  repeat' first
    | with_reducible assumption | (with_reducible exact Sub.mono hF (by decide))
    | ((with_reducible refine FrameU.mk fun p hp => ?_); cases p <;> first | exact absurd hp (by decide) | exact rfl | exact trivial | exact ⟨rfl, rfl⟩)
    | with_reducible apply benchLine_kept | with_reducible apply benchOk_kept | with_reducible apply kept_next | (intro _)

theorem execHelp_kept {F : Nat} {o0 s : State}  (hI : Kept F o0 s) (hF : Sub 4399170584961 F := by first | with_reducible assumption | exact Sub.mono (by with_reducible assumption) (by decide)) : OutKept F o0 (execHelp s) := by
  unfold execHelp
  repeat' first
    | with_reducible assumption | (with_reducible exact Sub.mono hF (by decide))
    | ((with_reducible refine FrameU.mk fun p hp => ?_); cases p <;> first | exact absurd hp (by decide) | exact rfl | exact trivial | exact ⟨rfl, rfl⟩)
    | with_reducible apply benchLine_kept | with_reducible apply benchOk_kept | with_reducible apply kept_next | (intro _)

theorem execWho_kept {F : Nat} {o0 s : State}  (hI : Kept F o0 s) (hF : Sub 4399170584961 F := by first | with_reducible assumption | exact Sub.mono (by with_reducible assumption) (by decide)) : OutKept F o0 (execWho s) := by
  unfold execWho
  repeat' first
    | with_reducible assumption | (with_reducible exact Sub.mono hF (by decide))
    | ((with_reducible refine FrameU.mk fun p hp => ?_); cases p <;> first | exact absurd hp (by decide) | exact rfl | exact trivial | exact ⟨rfl, rfl⟩)
    | with_reducible apply benchLine_kept | with_reducible apply benchOk_kept | with_reducible apply kept_next | (intro _)

theorem execWr_kept {F : Nat} {o0 s : State} (off : Nat) (val : Nat) (hI : Kept F o0 s) (hF : Sub 6601356182527 F := by first | with_reducible assumption | exact Sub.mono (by with_reducible assumption) (by decide)) : OutKept F o0 (execWr off val s) := by
  unfold execWr
  repeat' first
    | with_reducible assumption | (with_reducible exact Sub.mono hF (by decide))
    | ((with_reducible refine FrameU.mk fun p hp => ?_); cases p <;> first | exact absurd hp (by decide) | exact rfl | exact trivial | exact ⟨rfl, rfl⟩)
    | with_reducible apply st_emit_kept | with_reducible apply postModeChange_kept | with_reducible apply benchErr_kept
    | with_reducible apply busWrite_kept | with_reducible apply benchLine_kept | with_reducible apply kept_next
    | with_reducible apply kept_ite | (intro _) | split

end Sys2Proof.Machine
end

