-- ==== Sys2Proof/Laws/KeptPower.lean ====
section
/-!
SUPPORT. What Machine/Power.lean keeps of a state: one lemma per operation.
-/

namespace Sys2Proof.Machine

set_option linter.all false
set_option Elab.async false

theorem st_setPwr_kept {F : Nat} {o0 s : State} (p : Pwr) (hI : Kept F o0 s) (hF : Sub 2 F := by first | with_reducible assumption | exact Sub.mono (by with_reducible assumption) (by decide)) : Kept F o0 (State.setPwr s p) := by
  unfold State.setPwr
  repeat' first
    | with_reducible assumption | (with_reducible exact Sub.mono hF (by decide))
    | ((with_reducible refine FrameU.mk fun p hp => ?_); cases p <;> first | exact absurd hp (by decide) | exact rfl | exact trivial | exact ⟨rfl, rfl⟩)
    | with_reducible apply kept_ite | split | dsimp only
    | fail_if_no_progress with_reducible refine kept_upd 2 ?_ rfl rfl rfl ?_ hF

theorem st_setPwrM_kept {F : Nat} {o0 s : State} (m : PwrMram) (hI : Kept F o0 s) (hF : Sub 536870912 F := by first | with_reducible assumption | exact Sub.mono (by with_reducible assumption) (by decide)) : Kept F o0 (State.setPwrM s m) := by
  unfold State.setPwrM
  repeat' first
    | with_reducible assumption | (with_reducible exact Sub.mono hF (by decide))
    | ((with_reducible refine FrameU.mk fun p hp => ?_); cases p <;> first | exact absurd hp (by decide) | exact rfl | exact trivial | exact ⟨rfl, rfl⟩)
    | with_reducible apply kept_ite | split | dsimp only
    | fail_if_no_progress with_reducible refine kept_upd 536870912 ?_ rfl rfl rfl ?_ hF

theorem pinsFloat_kept {F : Nat} {o0 s : State} (hI : Kept F o0 s) (hF : Sub 4398180728832 F := by first | with_reducible assumption | exact Sub.mono (by with_reducible assumption) (by decide)) : Kept F o0 (pinsFloat s) :=
  st_emits_kept _ (kept_of hI (T := 4398180728832) ⟨fun p hp => by cases p <;> first | exact absurd hp (by decide) | exact rfl | exact trivial | exact ⟨rfl, rfl⟩⟩ hF id (Or.inl rfl) (Or.inr (List.length_replicate ..)) rfl (ChestStep.refl _ _) rfl (le_refl _) (le_refl _)
    (List.prefix_refl _))

theorem clearVolatile_kept {F : Nat} {o0 s : State} (aon : Bool) (hI : Kept F o0 s) (hF : Sub 17592722915327 F := by first | with_reducible assumption | exact Sub.mono (by with_reducible assumption) (by decide)) : Kept F o0 (clearVolatile aon s) := by
  refine kept_of hI (T := 17592722915327) ⟨fun p hp => by cases p <;> first | exact absurd hp (by decide) | exact rfl | exact trivial | exact ⟨rfl, rfl⟩⟩ hF (fun h1 => ?_) (Or.inr (List.length_replicate ..)) (Or.inr (List.length_replicate ..)) rfl (ChestStep.refl _ _) rfl
    (le_refl _) (le_refl _) (List.prefix_refl _)
  unfold clearVolatile
  dsimp only
  split
  · exact h1.sublist (List.filter_sublist.map _)
  · exact List.Pairwise.nil

theorem startRegs_kept {F : Nat} {o0 s : State}  (hI : Kept F o0 s) (hF : Sub 1 F := by first | with_reducible assumption | exact Sub.mono (by with_reducible assumption) (by decide)) : Kept F o0 (startRegs s) := by
  unfold startRegs
  repeat' first
    | with_reducible assumption | (with_reducible exact Sub.mono hF (by decide))
    | ((with_reducible refine FrameU.mk fun p hp => ?_); cases p <;> first | exact absurd hp (by decide) | exact rfl | exact trivial | exact ⟨rfl, rfl⟩)
    | with_reducible apply st_wr_kept | with_reducible apply st_wrB_kept | with_reducible apply st_wr64_kept
    | with_reducible apply slotSync_kept

theorem restoreMram_kept {F : Nat} {o0 s : State}  (hI : Kept F o0 s) (hF : Sub 6649813664129 F := by first | with_reducible assumption | exact Sub.mono (by with_reducible assumption) (by decide)) : Kept F o0 (restoreMram s) := by
  unfold restoreMram
  repeat' first
    | with_reducible assumption | (with_reducible exact Sub.mono hF (by decide))
    | ((with_reducible refine FrameU.mk fun p hp => ?_); cases p <;> first | exact absurd hp (by decide) | exact rfl | exact trivial | exact ⟨rfl, rfl⟩)
    | with_reducible apply burRestore_kept | with_reducible apply burExpire_kept | with_reducible apply zeroizeAtStart_kept
    | with_reducible apply st_setAccM_kept | with_reducible apply accRestore_kept | with_reducible apply kept_ite | split

theorem startRecord_kept {F : Nat} {o0 s : State}  (hI : Kept F o0 s) (hF : Sub 2200130552193 F := by first | with_reducible assumption | exact Sub.mono (by with_reducible assumption) (by decide)) : Kept F o0 (startRecord s) := by
  unfold startRecord
  repeat' first
    | with_reducible assumption | (with_reducible exact Sub.mono hF (by decide))
    | ((with_reducible refine FrameU.mk fun p hp => ?_); cases p <;> first | exact absurd hp (by decide) | exact rfl | exact trivial | exact ⟨rfl, rfl⟩)
    | with_reducible apply st_nextFree_kept | with_reducible apply post_kept

theorem coldStart_kept {F : Nat} {o0 s : State} (storeUf : Nat) (tamperLow : Bool) (hI : Kept F o0 s) (hF : Sub 6927375925643 F := by first | with_reducible assumption | exact Sub.mono (by with_reducible assumption) (by decide)) : Kept F o0 (coldStart storeUf tamperLow s) := by
  unfold coldStart
  repeat' first
    | with_reducible assumption | (with_reducible exact Sub.mono hF (by decide))
    | ((with_reducible refine FrameU.mk fun p hp => ?_); cases p <;> first | exact absurd hp (by decide) | exact rfl | exact trivial | exact ⟨rfl, rfl⟩)
    | with_reducible apply st_wrB_kept | with_reducible apply st_nextFree_kept | with_reducible apply post_kept
    | with_reducible apply chestFault_kept | with_reducible apply tamperEvent_kept | with_reducible apply lostNotes_kept
    | with_reducible apply st_setPwr_kept | with_reducible apply st_setPwrM_kept | with_reducible apply startRegs_kept
    | with_reducible apply restoreMram_kept | with_reducible apply startRecord_kept | with_reducible apply kept_ite | split
    | dsimp only | fail_if_no_progress with_reducible refine kept_upd 6927375925643 ?_ rfl rfl rfl ?_ hF

theorem thermalHigh_kept {F : Nat} {o0 s : State} (die : Int) (lid : Int) (hI : Kept F o0 s) (hF : Sub 1107296643 F := by first | with_reducible assumption | exact Sub.mono (by with_reducible assumption) (by decide)) : Kept F o0 (thermalHigh die lid s) := by
  unfold thermalHigh
  repeat' first
    | with_reducible assumption | (with_reducible exact Sub.mono hF (by decide))
    | ((with_reducible refine FrameU.mk fun p hp => ?_); cases p <;> first | exact absurd hp (by decide) | exact rfl | exact trivial | exact ⟨rfl, rfl⟩)
    | with_reducible apply post_kept | with_reducible apply st_setPwr_kept | with_reducible apply kept_ite | split

theorem execColdStart_kept {F : Nat} {o0 s : State} (vinMv : Nat) (storeUf : Nat) (die : Int) (lid : Int) (tamperLow : Bool) (hI : Kept F o0 s) (hF : Sub 6927375925643 F := by first | with_reducible assumption | exact Sub.mono (by with_reducible assumption) (by decide)) : OutKept F o0 (execColdStart vinMv storeUf die lid tamperLow s) := by
  unfold execColdStart
  repeat' first
    | with_reducible assumption | (with_reducible exact Sub.mono hF (by decide))
    | ((with_reducible refine FrameU.mk fun p hp => ?_); cases p <;> first | exact absurd hp (by decide) | exact rfl | exact trivial | exact ⟨rfl, rfl⟩)
    | with_reducible apply coldStart_kept | with_reducible apply thermalHigh_kept | with_reducible apply kept_next
    | with_reducible apply kept_ite | split

theorem execStartGroupRamp_kept {F : Nat} {o0 s : State}  (hI : Kept F o0 s) (hF : Sub 2 F := by first | with_reducible assumption | exact Sub.mono (by with_reducible assumption) (by decide)) : OutKept F o0 (execStartGroupRamp s) := by
  unfold execStartGroupRamp
  repeat' first
    | with_reducible assumption | (with_reducible exact Sub.mono hF (by decide))
    | ((with_reducible refine FrameU.mk fun p hp => ?_); cases p <;> first | exact absurd hp (by decide) | exact rfl | exact trivial | exact ⟨rfl, rfl⟩)
    | with_reducible apply st_setPwr_kept | with_reducible apply kept_next | with_reducible apply kept_ite | split | dsimp only
    | fail_if_no_progress with_reducible refine kept_upd 2 ?_ rfl rfl rfl ?_ hF

theorem pcieUp_kept {F : Nat} {o0 s : State}  (hI : Kept F o0 s) (hF : Sub 4398080066050 F := by first | with_reducible assumption | exact Sub.mono (by with_reducible assumption) (by decide)) : Kept F o0 (pcieUp s) := by
  unfold pcieUp
  repeat' first
    | with_reducible assumption | (with_reducible exact Sub.mono hF (by decide))
    | ((with_reducible refine FrameU.mk fun p hp => ?_); cases p <;> first | exact absurd hp (by decide) | exact rfl | exact trivial | exact ⟨rfl, rfl⟩)
    | with_reducible apply st_msix_kept | with_reducible apply kept_ite | (with_reducible refine kept_foldl ?_ (fun _ _ _ => ?_))
    | (intro _) | split | dsimp only | fail_if_no_progress with_reducible refine kept_upd 4398080066050 ?_ rfl rfl rfl ?_ hF

theorem trySlot_kept {F : Nat} {o0 s : State} (k : Nat) (hI : Kept F o0 s) (hF : Sub 1107296641 F := by first | with_reducible assumption | exact Sub.mono (by with_reducible assumption) (by decide)) : Kept F o0 (trySlot k s).2 := by
  unfold trySlot
  repeat' first
    | with_reducible assumption | (with_reducible exact Sub.mono hF (by decide))
    | ((with_reducible refine FrameU.mk fun p hp => ?_); cases p <;> first | exact absurd hp (by decide) | exact rfl | exact trivial | exact ⟨rfl, rfl⟩)
    | (refine rejectImage_kept_eq ?_ ?_ (by assumption)) | with_reducible apply rejectImage_kept | with_reducible apply kept_ite
    | with_reducible apply kept_ite_fst | with_reducible apply kept_ite_snd | split | dsimp only
    | fail_if_no_progress with_reducible refine kept_upd 1107296641 ?_ rfl rfl rfl ?_ hF

theorem trySlot_kept_eq {F : Nat} {o0 s : State} {y0 y1} {k : Nat} (hI : Kept F o0 s) (hF : Sub 1107296641 F := by first | with_reducible assumption | exact Sub.mono (by with_reducible assumption) (by decide)) (e : trySlot k s = (y0, y1)) : Kept F o0 y1 := by
  have h2 := trySlot_kept k hI
  rw [e] at h2; exact h2

theorem startFromSlots_kept {F : Nat} {o0 s : State}  (hI : Kept F o0 s) (hF : Sub 6602480418249 F := by first | with_reducible assumption | exact Sub.mono (by with_reducible assumption) (by decide)) : Kept F o0 (startFromSlots s) := by
  unfold startFromSlots
  repeat' first
    | with_reducible assumption | (with_reducible exact Sub.mono hF (by decide))
    | ((with_reducible refine FrameU.mk fun p hp => ?_); cases p <;> first | exact absurd hp (by decide) | exact rfl | exact trivial | exact ⟨rfl, rfl⟩)
    | with_reducible apply st_wrB_kept | with_reducible apply startImage_kept | (refine trySlot_kept_eq ?_ ?_ (by assumption))
    | with_reducible apply trySlot_kept | with_reducible apply kept_ite | split | dsimp only
    | fail_if_no_progress with_reducible refine kept_upd 6602480418249 ?_ rfl rfl rfl ?_ hF

theorem nextStage_kept {F : Nat} {o0 s : State} (k : Nat) (hI : Kept F o0 s) (hF : Sub 6602480418763 F := by first | with_reducible assumption | exact Sub.mono (by with_reducible assumption) (by decide)) : Kept F o0 (nextStage k s) := by
  unfold nextStage
  repeat' first
    | with_reducible assumption | (with_reducible exact Sub.mono hF (by decide))
    | ((with_reducible refine FrameU.mk fun p hp => ?_); cases p <;> first | exact absurd hp (by decide) | exact rfl | exact trivial | exact ⟨rfl, rfl⟩)
    | with_reducible apply st_wr_kept | with_reducible apply st_emit_kept | with_reducible apply st_setPwr_kept
    | with_reducible apply pcieUp_kept | with_reducible apply startFromSlots_kept | with_reducible apply kept_ite | split
    | dsimp only | fail_if_no_progress with_reducible refine kept_upd 6602480418763 ?_ rfl rfl rfl ?_ hF

theorem holdup_kept {F : Nat} {o0 s : State} (storeMv : Nat) (hI : Kept F o0 s) (hF : Sub 1 F := by first | with_reducible assumption | exact Sub.mono (by with_reducible assumption) (by decide)) : Kept F o0 (holdup storeMv s) := by
  unfold holdup
  repeat' first
    | with_reducible assumption | (with_reducible exact Sub.mono hF (by decide))
    | ((with_reducible refine FrameU.mk fun p hp => ?_); cases p <;> first | exact absurd hp (by decide) | exact rfl | exact trivial | exact ⟨rfl, rfl⟩)
    | with_reducible apply st_wrB_kept

theorem execStartStageComplete_kept {F : Nat} {o0 s : State} (storeMv : Nat) (hI : Kept F o0 s) (hF : Sub 6602480418763 F := by first | with_reducible assumption | exact Sub.mono (by with_reducible assumption) (by decide)) : OutKept F o0 (execStartStageComplete storeMv s) := by
  unfold execStartStageComplete
  repeat' first
    | with_reducible assumption | (with_reducible exact Sub.mono hF (by decide))
    | ((with_reducible refine FrameU.mk fun p hp => ?_); cases p <;> first | exact absurd hp (by decide) | exact rfl | exact trivial | exact ⟨rfl, rfl⟩)
    | with_reducible apply nextStage_kept | with_reducible apply holdup_kept | with_reducible apply kept_next
    | with_reducible apply kept_ite | split | dsimp only
    | fail_if_no_progress with_reducible refine kept_upd 6602480418763 ?_ rfl rfl rfl ?_ hF

theorem execStartPaused_kept {F : Nat} {o0 s : State} (vinMv : Nat) (hI : Kept F o0 s) (hF : Sub 1107296643 F := by first | with_reducible assumption | exact Sub.mono (by with_reducible assumption) (by decide)) : OutKept F o0 (execStartPaused vinMv s) := by
  unfold execStartPaused
  repeat' first
    | with_reducible assumption | (with_reducible exact Sub.mono hF (by decide))
    | ((with_reducible refine FrameU.mk fun p hp => ?_); cases p <;> first | exact absurd hp (by decide) | exact rfl | exact trivial | exact ⟨rfl, rfl⟩)
    | with_reducible apply st_inc_kept | with_reducible apply st_wrB_kept | with_reducible apply post_kept
    | with_reducible apply st_setPwr_kept | with_reducible apply kept_next | with_reducible apply kept_ite | split | dsimp only
    | fail_if_no_progress with_reducible refine kept_upd 1107296643 ?_ rfl rfl rfl ?_ hF

theorem execStartResume_kept {F : Nat} {o0 s : State}  (hI : Kept F o0 s) (hF : Sub 3 F := by first | with_reducible assumption | exact Sub.mono (by with_reducible assumption) (by decide)) : OutKept F o0 (execStartResume s) := by
  unfold execStartResume
  repeat' first
    | with_reducible assumption | (with_reducible exact Sub.mono hF (by decide))
    | ((with_reducible refine FrameU.mk fun p hp => ?_); cases p <;> first | exact absurd hp (by decide) | exact rfl | exact trivial | exact ⟨rfl, rfl⟩)
    | with_reducible apply st_wr_kept | with_reducible apply st_wrB_kept | with_reducible apply st_setPwr_kept
    | with_reducible apply kept_next | with_reducible apply kept_ite | split | dsimp only
    | fail_if_no_progress with_reducible refine kept_upd 3 ?_ rfl rfl rfl ?_ hF

theorem execVinTempSample_kept {F : Nat} {o0 s : State} (vinMv : Nat) (iinMa : Nat) (storeMv : Nat) (die : Int) (lid : Int) (hI : Kept F o0 s) (hF : Sub 1107296643 F := by first | with_reducible assumption | exact Sub.mono (by with_reducible assumption) (by decide)) : OutKept F o0 (execVinTempSample vinMv iinMa storeMv die lid s) := by
  unfold execVinTempSample
  repeat' first
    | with_reducible assumption | (with_reducible exact Sub.mono hF (by decide))
    | ((with_reducible refine FrameU.mk fun p hp => ?_); cases p <;> first | exact absurd hp (by decide) | exact rfl | exact trivial | exact ⟨rfl, rfl⟩)
    | with_reducible apply st_wr_kept | with_reducible apply st_wrB_kept | with_reducible apply thermalHigh_kept
    | with_reducible apply holdup_kept | with_reducible apply kept_next | with_reducible apply kept_ite | split

theorem shed_kept {F : Nat} {o0 s : State} (hI : Kept F o0 s) (hF : Sub 70291987 F := by first | with_reducible assumption | exact Sub.mono (by with_reducible assumption) (by decide)) : Kept F o0 (shed s) := by
  unfold shed
  dsimp only
  refine st_setPwr_kept _ (lmfStop_kept (st_setMbx_kept _ ?_))
  have h : Kept F o0 ((tstOff (s.wrB fCLV_STS_TICKING false)).setTmb { (tstOff (s.wrB fCLV_STS_TICKING false)).tmb with insts := [], queues := [], running := [] }) :=
    st_setTmb_kept _ (tstOff_kept (st_wrB_kept _ _ hI))
  generalize (tstOff (s.wrB fCLV_STS_TICKING false)).setTmb { (tstOff (s.wrB fCLV_STS_TICKING false)).tmb with insts := [], queues := [], running := [] } = u at h ⊢
  exact kept_upd 70291987 (kept_portsMap _ h (hF.mono (by decide))) rfl rfl rfl ⟨fun p hp => by cases p <;> first | exact absurd hp (by decide) | exact rfl | exact trivial | exact ⟨rfl, rfl⟩⟩ hF

theorem declareOff_kept {F : Nat} {o0 s : State} (reason : Nat) (vinMv : Nat) (die : Int) (hI : Kept F o0 s) (hF : Sub 6890444329875 F := by first | with_reducible assumption | exact Sub.mono (by with_reducible assumption) (by decide)) : Kept F o0 (declareOff reason vinMv die s) := by
  unfold declareOff
  repeat' first
    | with_reducible assumption | (with_reducible exact Sub.mono hF (by decide))
    | ((with_reducible refine FrameU.mk fun p hp => ?_); cases p <;> first | exact absurd hp (by decide) | exact rfl | exact trivial | exact ⟨rfl, rfl⟩)
    | with_reducible apply st_emit_kept | with_reducible apply post_kept | with_reducible apply drainPosts_kept
    | with_reducible apply abdicate_kept | with_reducible apply accMark_kept | with_reducible apply st_setPwr_kept
    | with_reducible apply shed_kept | with_reducible apply kept_ite | split

theorem execThermalShutdown_kept {F : Nat} {o0 s : State} (vinMv : Nat) (die : Int) (lid : Int) (hI : Kept F o0 s) (hF : Sub 6890444329875 F := by first | with_reducible assumption | exact Sub.mono (by with_reducible assumption) (by decide)) : OutKept F o0 (execThermalShutdown vinMv die lid s) := by
  unfold execThermalShutdown
  repeat' first
    | with_reducible assumption | (with_reducible exact Sub.mono hF (by decide))
    | ((with_reducible refine FrameU.mk fun p hp => ?_); cases p <;> first | exact absurd hp (by decide) | exact rfl | exact trivial | exact ⟨rfl, rfl⟩)
    | with_reducible apply thermalHigh_kept | with_reducible apply declareOff_kept | with_reducible apply kept_next
    | with_reducible apply kept_ite | split

theorem execOvervoltage_kept {F : Nat} {o0 s : State} (vinMv : Nat) (die : Int) (hI : Kept F o0 s) (hF : Sub 6890444329875 F := by first | with_reducible assumption | exact Sub.mono (by with_reducible assumption) (by decide)) : OutKept F o0 (execOvervoltage vinMv die s) := by
  unfold execOvervoltage
  repeat' first
    | with_reducible assumption | (with_reducible exact Sub.mono hF (by decide))
    | ((with_reducible refine FrameU.mk fun p hp => ?_); cases p <;> first | exact absurd hp (by decide) | exact rfl | exact trivial | exact ⟨rfl, rfl⟩)
    | with_reducible apply declareOff_kept | with_reducible apply kept_next | with_reducible apply kept_ite | split

theorem execPowerFail_kept {F : Nat} {o0 s : State} (vinMv : Nat) (die : Int) (hI : Kept F o0 s) (hF : Sub 6890444329875 F := by first | with_reducible assumption | exact Sub.mono (by with_reducible assumption) (by decide)) : OutKept F o0 (execPowerFail vinMv die s) := by
  unfold execPowerFail
  repeat' first
    | with_reducible assumption | (with_reducible exact Sub.mono hF (by decide))
    | ((with_reducible refine FrameU.mk fun p hp => ?_); cases p <;> first | exact absurd hp (by decide) | exact rfl | exact trivial | exact ⟨rfl, rfl⟩)
    | with_reducible apply declareOff_kept | with_reducible apply kept_next | with_reducible apply kept_ite | split

theorem execShutdownCommit_kept {F : Nat} {o0 s : State}  (hI : Kept F o0 s) (hF : Sub 24483461070847 F := by first | with_reducible assumption | exact Sub.mono (by with_reducible assumption) (by decide)) : OutKept F o0 (execShutdownCommit s) := by
  unfold execShutdownCommit
  repeat' first
    | with_reducible assumption | (with_reducible exact Sub.mono hF (by decide))
    | ((with_reducible refine FrameU.mk fun p hp => ?_); cases p <;> first | exact absurd hp (by decide) | exact rfl | exact trivial | exact ⟨rfl, rfl⟩)
    | with_reducible apply drainPosts_kept | with_reducible apply writeDesc_kept | with_reducible apply accPowerFailCommit_kept
    | with_reducible apply st_setPwr_kept | with_reducible apply st_setPwrM_kept | with_reducible apply pinsFloat_kept
    | with_reducible apply clearVolatile_kept | with_reducible apply kept_next | with_reducible apply kept_ite | split | dsimp only
    | fail_if_no_progress with_reducible refine kept_upd 24483461070847 ?_ rfl rfl rfl ?_ hF

theorem execModReset_kept {F : Nat} {o0 s : State}  (hI : Kept F o0 s) (hF : Sub 22008486166527 F := by first | with_reducible assumption | exact Sub.mono (by with_reducible assumption) (by decide)) : OutKept F o0 (execModReset s) := by
  unfold execModReset
  repeat' first
    | with_reducible assumption | (with_reducible exact Sub.mono hF (by decide))
    | ((with_reducible refine FrameU.mk fun p hp => ?_); cases p <;> first | exact absurd hp (by decide) | exact rfl | exact trivial | exact ⟨rfl, rfl⟩)
    | with_reducible apply st_flag_kept | with_reducible apply st_setAccM_kept | with_reducible apply st_setPwr_kept
    | with_reducible apply st_setPwrM_kept | with_reducible apply pinsFloat_kept | with_reducible apply clearVolatile_kept
    | with_reducible apply kept_next | with_reducible apply kept_ite | split | dsimp only
    | fail_if_no_progress with_reducible refine kept_upd 22008486166527 ?_ rfl rfl rfl ?_ hF

theorem execPciePerstAssert_kept {F : Nat} {o0 s : State}  (hI : Kept F o0 s) (hF : Sub 1376781207 F := by first | with_reducible assumption | exact Sub.mono (by with_reducible assumption) (by decide)) : OutKept F o0 (execPciePerstAssert s) := by
  unfold execPciePerstAssert
  repeat' first
    | with_reducible assumption | (with_reducible exact Sub.mono hF (by decide))
    | ((with_reducible refine FrameU.mk fun p hp => ?_); cases p <;> first | exact absurd hp (by decide) | exact rfl | exact trivial | exact ⟨rfl, rfl⟩)
    | with_reducible apply st_inc_kept | with_reducible apply pcieReset_kept | with_reducible apply st_setPwr_kept
    | with_reducible apply kept_next | with_reducible apply kept_ite | split

theorem execPciePerstRelease_kept {F : Nat} {o0 s : State} (maxgen : Fin 4) (hI : Kept F o0 s) (hF : Sub 4398080066050 F := by first | with_reducible assumption | exact Sub.mono (by with_reducible assumption) (by decide)) : OutKept F o0 (execPciePerstRelease maxgen s) := by
  unfold execPciePerstRelease
  repeat' first
    | with_reducible assumption | (with_reducible exact Sub.mono hF (by decide))
    | ((with_reducible refine FrameU.mk fun p hp => ?_); cases p <;> first | exact absurd hp (by decide) | exact rfl | exact trivial | exact ⟨rfl, rfl⟩)
    | with_reducible apply st_setPwr_kept | with_reducible apply pcieUp_kept | with_reducible apply kept_next
    | with_reducible apply kept_ite | split

theorem execHotReset_kept {F : Nat} {o0 s : State}  (hI : Kept F o0 s) (hF : Sub 1376781205 F := by first | with_reducible assumption | exact Sub.mono (by with_reducible assumption) (by decide)) : OutKept F o0 (execHotReset s) := by
  unfold execHotReset
  repeat' first
    | with_reducible assumption | (with_reducible exact Sub.mono hF (by decide))
    | ((with_reducible refine FrameU.mk fun p hp => ?_); cases p <;> first | exact absurd hp (by decide) | exact rfl | exact trivial | exact ⟨rfl, rfl⟩)
    | with_reducible apply st_inc_kept | with_reducible apply pcieReset_kept | with_reducible apply kept_next
    | with_reducible apply kept_ite | split

theorem execFunctionLevelReset_kept {F : Nat} {o0 s : State}  (hI : Kept F o0 s) (hF : Sub 1376781205 F := by first | with_reducible assumption | exact Sub.mono (by with_reducible assumption) (by decide)) : OutKept F o0 (execFunctionLevelReset s) := by
  unfold execFunctionLevelReset
  repeat' first
    | with_reducible assumption | (with_reducible exact Sub.mono hF (by decide))
    | ((with_reducible refine FrameU.mk fun p hp => ?_); cases p <;> first | exact absurd hp (by decide) | exact rfl | exact trivial | exact ⟨rfl, rfl⟩)
    | with_reducible apply st_inc_kept | with_reducible apply pcieReset_kept | with_reducible apply kept_next
    | with_reducible apply kept_ite | split

theorem execStewardWatchdog_kept {F : Nat} {o0 s : State}  (hI : Kept F o0 s) (hF : Sub 4399238742981 F := by first | with_reducible assumption | exact Sub.mono (by with_reducible assumption) (by decide)) : OutKept F o0 (execStewardWatchdog s) := by
  unfold execStewardWatchdog
  repeat' first
    | with_reducible assumption | (with_reducible exact Sub.mono hF (by decide))
    | ((with_reducible refine FrameU.mk fun p hp => ?_); cases p <;> first | exact absurd hp (by decide) | exact rfl | exact trivial | exact ⟨rfl, rfl⟩)
    | with_reducible apply st_flag_kept | with_reducible apply stewardReset_kept | with_reducible apply kept_next
    | with_reducible apply kept_ite | split

end Sys2Proof.Machine
end

