-- ==== Sys2Proof/Laws/KeptTick.lean ====
section
/-!
SUPPORT. What Machine/Tick.lean keeps of a state: one lemma per operation.
-/

namespace Sys2Proof.Machine

set_option linter.all false
set_option Elab.async false

theorem clvCycle_kept {F : Nat} {o0 s : State}  (hI : Kept F o0 s) (hF : Sub 8 F := by first | with_reducible assumption | exact Sub.mono (by with_reducible assumption) (by decide)) : Kept F o0 (clvCycle s) := by
  unfold clvCycle
  repeat' first
    | with_reducible assumption | (with_reducible exact Sub.mono hF (by decide))
    | ((with_reducible refine FrameU.mk fun p hp => ?_); cases p <;> first | exact absurd hp (by decide) | exact rfl | exact trivial | exact ⟨rfl, rfl⟩)
    | with_reducible apply st_setClv_kept | with_reducible apply kept_ite

theorem st_evs_kept {F : Nat} {o0 s : State} (l : List (Nat × Nat)) (hI : Kept F o0 s) (hF : Sub 33554432 F := by first | with_reducible assumption | exact Sub.mono (by with_reducible assumption) (by decide)) : Kept F o0 (State.evs l s) := by
  unfold State.evs
  repeat' first
    | with_reducible assumption | (with_reducible exact Sub.mono hF (by decide))
    | ((with_reducible refine FrameU.mk fun p hp => ?_); cases p <;> first | exact absurd hp (by decide) | exact rfl | exact trivial | exact ⟨rfl, rfl⟩)
    | with_reducible apply st_ev_kept | with_reducible apply kept_ite | (with_reducible refine kept_foldl ?_ (fun _ _ _ => ?_))
    | (intro _) | split | dsimp only | fail_if_no_progress with_reducible refine kept_upd 33554432 ?_ rfl rfl rfl ?_ hF

theorem mainStall_kept {F : Nat} {o0 s : State}  (hI : Kept F o0 s) (hF : Sub 33587201 F := by first | with_reducible assumption | exact Sub.mono (by with_reducible assumption) (by decide)) : Kept F o0 (mainStall s) := by
  unfold mainStall
  repeat' first
    | with_reducible assumption | (with_reducible exact Sub.mono hF (by decide))
    | ((with_reducible refine FrameU.mk fun p hp => ?_); cases p <;> first | exact absurd hp (by decide) | exact rfl | exact trivial | exact ⟨rfl, rfl⟩)
    | with_reducible apply st_inc_kept | with_reducible apply st_ev_kept | with_reducible apply st_setTmb_kept
    | with_reducible apply kept_ite

theorem idleTick_kept {F : Nat} {o0 s : State} (hI : Kept F o0 s) (hF : Sub 8799347835789 F := by first | with_reducible assumption | exact Sub.mono (by with_reducible assumption) (by decide)) : Kept F o0 (idleTick s) := by
  unfold idleTick
  dsimp only
  have h : Kept F o0 { s with up := s.up + 5 } :=
    kept_of hI (T := 8799347835789) ⟨fun p hp => by cases p <;> first | exact absurd hp (by decide) | exact rfl | exact trivial | exact ⟨rfl, rfl⟩⟩ hF id (Or.inl rfl) (Or.inl rfl) rfl (ChestStep.refl _ _) rfl (Nat.le_add_right _ _) (le_refl _)
      (List.prefix_refl _)
  have h := stewardRestart_kept h
  exact kept_ite (clvCycle_kept h) (mainStall_kept (st_evs_kept _ (clvCycle_kept h)))

end Sys2Proof.Machine
end

