-- ==== Sys2Proof/Laws/KeptClose.lean ====
section
/-!
SUPPORT. What Machine/Close.lean keeps of a state: one lemma per operation.
-/

namespace Sys2Proof.Machine

set_option linter.all false
set_option Elab.async false

theorem overrun_kept {F : Nat} {o0 s : State} (n : Nat) (hold : Bool) (hI : Kept F o0 s) (hF : Sub 6598316294531 F := by first | with_reducible assumption | exact Sub.mono (by with_reducible assumption) (by decide)) : Kept F o0 (overrun n hold s) := by
  unfold overrun
  repeat' first
    | with_reducible assumption | (with_reducible exact Sub.mono hF (by decide))
    | ((with_reducible refine FrameU.mk fun p hp => ?_); cases p <;> first | exact absurd hp (by decide) | exact rfl | exact trivial | exact ⟨rfl, rfl⟩)
    | with_reducible apply st_inc_kept | with_reducible apply st_flag_kept | with_reducible apply st_ev_kept
    | with_reducible apply st_smEvent_kept | with_reducible apply postAt_kept | with_reducible apply abdicate_kept
    | with_reducible apply st_setInst_kept | with_reducible apply checkComplete_kept | with_reducible apply deferItem_kept
    | with_reducible apply kept_ite | (with_reducible refine kept_foldl ?_ (fun _ _ _ => ?_)) | (intro _) | split | dsimp only
    | fail_if_no_progress with_reducible refine kept_upd 6598316294531 ?_ rfl rfl rfl ?_ hF

theorem abandonInst_kept {F : Nat} {o0 s : State} (n : Nat) (hI : Kept F o0 s) (hF : Sub 6825885826545 F := by first | with_reducible assumption | exact Sub.mono (by with_reducible assumption) (by decide)) : Kept F o0 (abandonInst n s) := by
  unfold abandonInst
  repeat' first
    | with_reducible assumption | (with_reducible exact Sub.mono hF (by decide))
    | ((with_reducible refine FrameU.mk fun p hp => ?_); cases p <;> first | exact absurd hp (by decide) | exact rfl | exact trivial | exact ⟨rfl, rfl⟩)
    | with_reducible apply abandonAll_kept | with_reducible apply openInst_kept | with_reducible apply kept_ite

theorem dropOldTable_kept {F : Nat} {o0 s : State} (n : Nat) (hI : Kept F o0 s) (hF : Sub 2200130584961 F := by first | with_reducible assumption | exact Sub.mono (by with_reducible assumption) (by decide)) : Kept F o0 (dropOldTable n s) := by
  unfold dropOldTable
  repeat' first
    | with_reducible assumption | (with_reducible exact Sub.mono hF (by decide))
    | ((with_reducible refine FrameU.mk fun p hp => ?_); cases p <;> first | exact absurd hp (by decide) | exact rfl | exact trivial | exact ⟨rfl, rfl⟩)
    | with_reducible apply abandonAll_kept | with_reducible apply kept_ite | (with_reducible refine kept_foldl ?_ (fun _ _ _ => ?_))
    | (intro _) | split | dsimp only | fail_if_no_progress with_reducible refine kept_upd 2200130584961 ?_ rfl rfl rfl ?_ hF

theorem deadlines_kept {F : Nat} {o0 s : State} (n : Nat) (hI : Kept F o0 s) (hF : Sub 6826020044275 F := by first | with_reducible assumption | exact Sub.mono (by with_reducible assumption) (by decide)) : Kept F o0 (deadlines n s) := by
  unfold deadlines
  repeat' first
    | with_reducible assumption | (with_reducible exact Sub.mono hF (by decide))
    | ((with_reducible refine FrameU.mk fun p hp => ?_); cases p <;> first | exact absurd hp (by decide) | exact rfl | exact trivial | exact ⟨rfl, rfl⟩)
    | with_reducible apply tmbRefresh_kept | with_reducible apply overrun_kept | with_reducible apply abandonInst_kept
    | with_reducible apply dropOldTable_kept | with_reducible apply kept_ite
    | (with_reducible refine kept_foldl ?_ (fun _ _ _ => ?_)) | (intro _) | split | dsimp only
    | fail_if_no_progress with_reducible refine kept_upd 6826020044275 ?_ rfl rfl rfl ?_ hF

theorem closeRegs_kept {F : Nat} {o0 s : State} (n : Nat) (c : Nat) (inst : Nat) (hI : Kept F o0 s) (hF : Sub 1 F := by first | with_reducible assumption | exact Sub.mono (by with_reducible assumption) (by decide)) : Kept F o0 (closeRegs n c inst s) := by
  unfold closeRegs
  repeat' first
    | with_reducible assumption | (with_reducible exact Sub.mono hF (by decide))
    | ((with_reducible refine FrameU.mk fun p hp => ?_); cases p <;> first | exact absurd hp (by decide) | exact rfl | exact trivial | exact ⟨rfl, rfl⟩)
    | with_reducible apply st_wr_kept | with_reducible apply st_wr64_kept

theorem closeTick_kept {F : Nat} {o0 s : State} (n : Nat) (hI : Kept F o0 s) (hF : Sub 6826020044275 F := by first | with_reducible assumption | exact Sub.mono (by with_reducible assumption) (by decide)) : Kept F o0 (closeTick n s) := by
  unfold closeTick
  repeat' first
    | with_reducible assumption | (with_reducible exact Sub.mono hF (by decide))
    | ((with_reducible refine FrameU.mk fun p hp => ?_); cases p <;> first | exact absurd hp (by decide) | exact rfl | exact trivial | exact ⟨rfl, rfl⟩)
    | with_reducible apply st_ev_kept | with_reducible apply st_smEvent_kept | with_reducible apply st_setPgh_kept
    | with_reducible apply pmcSnapshot_kept | with_reducible apply bindAmend_kept | with_reducible apply instancesDone_kept
    | with_reducible apply snareClose_kept | with_reducible apply notices_kept | with_reducible apply releaseCols_kept
    | with_reducible apply dropOld_kept | with_reducible apply deadlines_kept | with_reducible apply closeRegs_kept
    | with_reducible apply kept_ite | (with_reducible refine kept_foldl ?_ (fun _ _ _ => ?_)) | (intro _) | split | dsimp only
    | fail_if_no_progress with_reducible refine kept_upd 6826020044275 ?_ rfl rfl rfl ?_ hF

theorem processToken_kept {F : Nat} {o0 s : State} (x : Nat) (g : Nat) (n : Nat) (hI : Kept F o0 s) (hF : Sub 6826020044275 F := by first | with_reducible assumption | exact Sub.mono (by with_reducible assumption) (by decide)) : Kept F o0 (processToken x g n s) := by
  unfold processToken
  repeat' first
    | with_reducible assumption | (with_reducible exact Sub.mono hF (by decide))
    | ((with_reducible refine FrameU.mk fun p hp => ?_); cases p <;> first | exact absurd hp (by decide) | exact rfl | exact trivial | exact ⟨rfl, rfl⟩)
    | with_reducible apply st_flag_kept | with_reducible apply st_ev_kept | with_reducible apply tmbRefresh_kept
    | with_reducible apply closeCells_kept | with_reducible apply closeTick_kept | with_reducible apply kept_ite | split
    | dsimp only | fail_if_no_progress with_reducible refine kept_upd 6826020044275 ?_ rfl rfl rfl ?_ hF

theorem execCloseTokenProcess_kept {F : Nat} {o0 s : State}  (hI : Kept F o0 s) (hF : Sub 6826020044275 F := by first | with_reducible assumption | exact Sub.mono (by with_reducible assumption) (by decide)) : OutKept F o0 (execCloseTokenProcess s) := by
  unfold execCloseTokenProcess
  repeat' first
    | with_reducible assumption | (with_reducible exact Sub.mono hF (by decide))
    | ((with_reducible refine FrameU.mk fun p hp => ?_); cases p <;> first | exact absurd hp (by decide) | exact rfl | exact trivial | exact ⟨rfl, rfl⟩)
    | with_reducible apply processToken_kept | with_reducible apply kept_next | with_reducible apply kept_ite
    | (with_reducible refine kept_foldl ?_ (fun _ _ _ => ?_)) | (intro _) | split | dsimp only
    | fail_if_no_progress with_reducible refine kept_upd 6826020044275 ?_ rfl rfl rfl ?_ hF

end Sys2Proof.Machine
end

