-- ==== Sys2Proof/Laws/KeptKeyCommands.lean ====
section
/-!
SUPPORT. What Machine/KeyCommands.lean keeps of a state: one lemma per operation.
-/

namespace Sys2Proof.Machine

set_option linter.all false
set_option Elab.async false

theorem installKey_kept {F : Nat} {o0 s : State} (i : Nat) (k : KeyEnt) (hI : Kept F o0 s) (hF : Sub 2233391382593 F := by first | with_reducible assumption | exact Sub.mono (by with_reducible assumption) (by decide)) : Kept F o0 (installKey i k s) := by
  unfold installKey
  repeat' first
    | with_reducible assumption | (with_reducible exact Sub.mono hF (by decide))
    | ((with_reducible refine FrameU.mk fun p hp => ?_); cases p <;> first | exact absurd hp (by decide) | exact rfl | exact trivial | exact ⟨rfl, rfl⟩)
    | with_reducible apply st_eccWrite_kept | with_reducible apply st_setIng_kept | with_reducible apply st_setKey_kept
    | with_reducible apply burSync_kept | with_reducible apply journalWrite_kept

theorem execRootInstall_kept {F : Nat} {o0 s : State} (src : CmdSrc) (args : List Nat) (hI : Kept F o0 s) (hF : Sub 6634709451713 F := by first | with_reducible assumption | exact Sub.mono (by with_reducible assumption) (by decide)) : OutKept F o0 (execRootInstall src args s) := by
  unfold execRootInstall
  repeat' first
    | with_reducible assumption | (with_reducible exact Sub.mono hF (by decide))
    | ((with_reducible refine FrameU.mk fun p hp => ?_); cases p <;> first | exact absurd hp (by decide) | exact rfl | exact trivial | exact ⟨rfl, rfl⟩)
    | with_reducible apply post_kept | with_reducible apply runCmd_kept | with_reducible apply installKey_kept
    | with_reducible apply kept_next | with_reducible apply kept_ite | (intro _) | split | dsimp only
    | fail_if_no_progress with_reducible refine kept_upd 6634709451713 ?_ rfl rfl rfl ?_ hF

theorem execKeyLoad_kept {F : Nat} {o0 s : State} (src : CmdSrc) (args : List Nat) (hI : Kept F o0 s) (hF : Sub 6634709451713 F := by first | with_reducible assumption | exact Sub.mono (by with_reducible assumption) (by decide)) : OutKept F o0 (execKeyLoad src args s) := by
  unfold execKeyLoad
  repeat' first
    | with_reducible assumption | (with_reducible exact Sub.mono hF (by decide))
    | ((with_reducible refine FrameU.mk fun p hp => ?_); cases p <;> first | exact absurd hp (by decide) | exact rfl | exact trivial | exact ⟨rfl, rfl⟩)
    | with_reducible apply post_kept | with_reducible apply runCmd_kept | with_reducible apply installKey_kept
    | with_reducible apply kept_next | with_reducible apply kept_ite | (intro _) | split | dsimp only
    | fail_if_no_progress with_reducible refine kept_upd 6634709451713 ?_ rfl rfl rfl ?_ hF

theorem execKeyInvalidate_kept {F : Nat} {o0 s : State} (src : CmdSrc) (args : List Nat) (hI : Kept F o0 s) (hF : Sub 6634780754817 F := by first | with_reducible assumption | exact Sub.mono (by with_reducible assumption) (by decide)) : OutKept F o0 (execKeyInvalidate src args s) := by
  unfold execKeyInvalidate
  repeat' first
    | with_reducible assumption | (with_reducible exact Sub.mono hF (by decide))
    | ((with_reducible refine FrameU.mk fun p hp => ?_); cases p <;> first | exact absurd hp (by decide) | exact rfl | exact trivial | exact ⟨rfl, rfl⟩)
    | with_reducible apply invalidate_kept | with_reducible apply runCmd_kept | with_reducible apply kept_next
    | with_reducible apply kept_ite | (intro _) | split | dsimp only
    | fail_if_no_progress with_reducible refine kept_upd 6634780754817 ?_ rfl rfl rfl ?_ hF

theorem execKeyPurge_kept {F : Nat} {o0 s : State} (src : CmdSrc) (args : List Nat) (hI : Kept F o0 s) (hF : Sub 4435686196097 F := by first | with_reducible assumption | exact Sub.mono (by with_reducible assumption) (by decide)) : OutKept F o0 (execKeyPurge src args s) := by
  unfold execKeyPurge
  repeat' first
    | with_reducible assumption | (with_reducible exact Sub.mono hF (by decide))
    | ((with_reducible refine FrameU.mk fun p hp => ?_); cases p <;> first | exact absurd hp (by decide) | exact rfl | exact trivial | exact ⟨rfl, rfl⟩)
    | with_reducible apply st_setKey_kept | with_reducible apply burSync_kept | with_reducible apply journalWrite_kept
    | with_reducible apply runCmd_kept | with_reducible apply kept_next | with_reducible apply kept_ite
    | (with_reducible refine kept_foldl ?_ (fun _ _ _ => ?_)) | (intro _) | split | dsimp only
    | fail_if_no_progress with_reducible refine kept_upd 4435686196097 ?_ rfl rfl rfl ?_ hF

theorem execKeySelect_kept {F : Nat} {o0 s : State} (src : CmdSrc) (args : List Nat) (hI : Kept F o0 s) (hF : Sub 4401326457729 F := by first | with_reducible assumption | exact Sub.mono (by with_reducible assumption) (by decide)) : OutKept F o0 (execKeySelect src args s) := by
  unfold execKeySelect
  repeat' first
    | with_reducible assumption | (with_reducible exact Sub.mono hF (by decide))
    | ((with_reducible refine FrameU.mk fun p hp => ?_); cases p <;> first | exact absurd hp (by decide) | exact rfl | exact trivial | exact ⟨rfl, rfl⟩)
    | with_reducible apply st_setBur_kept | with_reducible apply burSync_kept | with_reducible apply runCmd_kept
    | with_reducible apply kept_next | with_reducible apply kept_ite | (intro _) | split | dsimp only
    | fail_if_no_progress with_reducible refine kept_upd 4401326457729 ?_ rfl rfl rfl ?_ hF

theorem macReply_kept {F : Nat} {o0 s : State} (r : Running) (i : Nat) (n : Nat) (expect : Nat) (len : Nat) (k : KeyEnt) (tag : Bytes) (hI : Kept F o0 s) (hF : Sub 35475423617 F := by first | with_reducible assumption | exact Sub.mono (by with_reducible assumption) (by decide)) : Kept F o0 (macReply r i n expect len k tag s).2 := by
  unfold macReply
  repeat' first
    | with_reducible assumption | (with_reducible exact Sub.mono hF (by decide))
    | ((with_reducible refine FrameU.mk fun p hp => ?_); cases p <;> first | exact absurd hp (by decide) | exact rfl | exact trivial | exact ⟨rfl, rfl⟩)
    | with_reducible apply spendUse_kept | with_reducible apply kept_ite | with_reducible apply kept_ite_fst
    | with_reducible apply kept_ite_snd | split

theorem macReply_kept_eq {F : Nat} {o0 s : State} {y0 y1} {r : Running} {i : Nat} {n : Nat} {expect : Nat} {len : Nat} {k : KeyEnt} {tag : Bytes} (hI : Kept F o0 s) (hF : Sub 35475423617 F := by first | with_reducible assumption | exact Sub.mono (by with_reducible assumption) (by decide)) (e : macReply r i n expect len k tag s = (y0, y1)) : Kept F o0 y1 := by
  have h2 := macReply_kept r i n expect len k tag hI
  rw [e] at h2; exact h2

theorem execHmac_kept {F : Nat} {o0 s : State} (src : CmdSrc) (args : List Nat) (data : Bytes) (err : Bool) (hI : Kept F o0 s) (hF : Sub 4435686196097 F := by first | with_reducible assumption | exact Sub.mono (by with_reducible assumption) (by decide)) : OutKept F o0 (execHmac src args data err s) := by
  unfold execHmac
  repeat' first
    | with_reducible assumption | (with_reducible exact Sub.mono hF (by decide))
    | ((with_reducible refine FrameU.mk fun p hp => ?_); cases p <;> first | exact absurd hp (by decide) | exact rfl | exact trivial | exact ⟨rfl, rfl⟩)
    | with_reducible apply runCmd_kept | with_reducible apply progress_kept | (refine dmaError_kept_eq ?_ ?_ (by assumption))
    | with_reducible apply dmaError_kept | (refine macReply_kept_eq ?_ ?_ (by assumption)) | with_reducible apply macReply_kept
    | with_reducible apply kept_next | with_reducible apply kept_ite | (intro _) | split | dsimp only
    | fail_if_no_progress with_reducible refine kept_upd 4435686196097 ?_ rfl rfl rfl ?_ hF

theorem execGmac_kept {F : Nat} {o0 s : State} (src : CmdSrc) (args : List Nat) (data : Bytes) (err : Bool) (hI : Kept F o0 s) (hF : Sub 4435686196097 F := by first | with_reducible assumption | exact Sub.mono (by with_reducible assumption) (by decide)) : OutKept F o0 (execGmac src args data err s) := by
  unfold execGmac
  repeat' first
    | with_reducible assumption | (with_reducible exact Sub.mono hF (by decide))
    | ((with_reducible refine FrameU.mk fun p hp => ?_); cases p <;> first | exact absurd hp (by decide) | exact rfl | exact trivial | exact ⟨rfl, rfl⟩)
    | with_reducible apply runCmd_kept | with_reducible apply progress_kept | (refine dmaError_kept_eq ?_ ?_ (by assumption))
    | with_reducible apply dmaError_kept | (refine macReply_kept_eq ?_ ?_ (by assumption)) | with_reducible apply macReply_kept
    | with_reducible apply kept_next | with_reducible apply kept_ite | (intro _) | split | dsimp only
    | fail_if_no_progress with_reducible refine kept_upd 4435686196097 ?_ rfl rfl rfl ?_ hF

end Sys2Proof.Machine
end

