-- ==== Sys2Proof/Laws/KeptDispatch.lean ====
section
/-!
SUPPORT. What Machine/Dispatch.lean keeps of a state: one lemma per operation.
-/

namespace Sys2Proof.Machine

set_option linter.all false
set_option Elab.async false

/-- The mask of a list of parts. -/
def maskOf : List Part → Nat
  | [] => 0
  | p :: ps => 2 ^ p.num ||| maskOf ps

theorem Part.num_inj {p q : Part} (h : p.num = q.num) : p = q := by
  revert h
  cases p <;> cases q <;> decide

theorem maskOf_testBit (l : List Part) {p : Part} (h : p ∉ l) : (maskOf l).testBit p.num = false := by
  induction l with
  | nil => exact Nat.zero_testBit _
  | cons q qs ih =>
    simp only [List.mem_cons, not_or] at h
    have hn : q.num ≠ p.num := fun e => h.1 (Part.num_inj e.symm)
    simp [maskOf, Nat.testBit_or, hn, ih h.2]

theorem exec_kept {F : Nat} {o0 s : State} (i : Instr) (hI : Kept F o0 s) (hF : Sub (maskOf (touches i)) F) : OutKept F o0 (exec i s) := by
  cases i with
  | coldStart => exact execColdStart_kept (hI := hI) (hF := hF.mono (by dsimp only [touches]; decide)) ..
  | startGroupRamp => exact execStartGroupRamp_kept (hI := hI) (hF := hF.mono (by dsimp only [touches]; decide)) ..
  | startStageComplete => exact execStartStageComplete_kept (hI := hI) (hF := hF.mono (by dsimp only [touches]; decide)) ..
  | startPaused => exact execStartPaused_kept (hI := hI) (hF := hF.mono (by dsimp only [touches]; decide)) ..
  | startResume => exact execStartResume_kept (hI := hI) (hF := hF.mono (by dsimp only [touches]; decide)) ..
  | vinTempSample => exact execVinTempSample_kept (hI := hI) (hF := hF.mono (by dsimp only [touches]; decide)) ..
  | thermalShutdown => exact execThermalShutdown_kept (hI := hI) (hF := hF.mono (by dsimp only [touches]; decide)) ..
  | overvoltage => exact execOvervoltage_kept (hI := hI) (hF := hF.mono (by dsimp only [touches]; decide)) ..
  | powerFail => exact execPowerFail_kept (hI := hI) (hF := hF.mono (by dsimp only [touches]; decide)) ..
  | shutdownCommit => exact execShutdownCommit_kept (hI := hI) (hF := hF.mono (by dsimp only [touches]; decide)) ..
  | modReset => exact execModReset_kept (hI := hI) (hF := hF.mono (by dsimp only [touches]; decide)) ..
  | pciePerstAssert => exact execPciePerstAssert_kept (hI := hI) (hF := hF.mono (by dsimp only [touches]; decide)) ..
  | pciePerstRelease => exact execPciePerstRelease_kept (hI := hI) (hF := hF.mono (by dsimp only [touches]; decide)) ..
  | hotReset => exact execHotReset_kept (hI := hI) (hF := hF.mono (by dsimp only [touches]; decide)) ..
  | functionLevelReset => exact execFunctionLevelReset_kept (hI := hI) (hF := hF.mono (by dsimp only [touches]; decide)) ..
  | stewardWatchdog => exact execStewardWatchdog_kept (hI := hI) (hF := hF.mono (by dsimp only [touches]; decide)) ..
  | domRstCtl => exact execDomRstCtl_kept (hI := hI) (hF := hF.mono (by dsimp only [touches]; decide)) ..
  | heldAccessRelease => exact execHeldAccessRelease_kept (hI := hI) (hF := hF.mono (by dsimp only [touches]; decide)) ..
  | registerWrite => exact execRegisterWrite_kept (hI := hI) (hF := hF.mono (by dsimp only [touches]; decide)) ..
  | rcRead => exact execRcRead_kept (hI := hI) (hF := hF.mono (by dsimp only [touches]; decide)) ..
  | loLatchRead => exact execLoLatchRead_kept (hI := hI) (hF := hF.mono (by dsimp only [touches]; decide)) ..
  | selectLatchWrite => exact execSelectLatchWrite_kept (hI := hI) (hF := hF.mono (by dsimp only [touches]; decide)) ..
  | tickInstant => exact execTickInstant_kept (hI := hI) (hF := hF.mono (by dsimp only [touches]; decide)) ..
  | sync => exact execSync_kept (hI := hI) (hF := hF.mono (by dsimp only [touches]; decide)) ..
  | followUp => exact execFollowUp_kept (hI := hI) (hF := hF.mono (by dsimp only [touches]; decide)) ..
  | announce => exact execAnnounce_kept (hI := hI) (hF := hF.mono (by dsimp only [touches]; decide)) ..
  | pdelayReq => exact execPdelayReq_kept (hI := hI) (hF := hF.mono (by dsimp only [touches]; decide)) ..
  | pdelayResp => exact execPdelayResp_kept (hI := hI) (hF := hF.mono (by dsimp only [touches]; decide)) ..
  | delayReq => exact execDelayReq_kept (hI := hI) (hF := hF.mono (by dsimp only [touches]; decide)) ..
  | delayResp => exact execDelayResp_kept (hI := hI) (hF := hF.mono (by dsimp only [touches]; decide)) ..
  | managementMessage => exact execManagementMessage_kept (hI := hI) (hF := hF.mono (by dsimp only [touches]; decide)) ..
  | ptpMasterTx => exact execPtpMasterTx_kept (hI := hI) (hF := hF.mono (by dsimp only [touches]; decide)) ..
  | irigFrame => exact execIrigFrame_kept (hI := hI) (hF := hF.mono (by dsimp only [touches]; decide)) ..
  | ppsEdge => exact execPpsEdge_kept (hI := hI) (hF := hF.mono (by dsimp only [touches]; decide)) ..
  | zda => exact execZda_kept (hI := hI) (hF := hF.mono (by dsimp only [touches]; decide)) ..
  | rmc => exact execRmc_kept (hI := hI) (hF := hF.mono (by dsimp only [touches]; decide)) ..
  | firstLockWaitExpiry => exact execFirstLockWaitExpiry_kept (hI := hI) (hF := hF.mono (by dsimp only [touches]; decide)) ..
  | srcLost => exact execSrcLost_kept (hI := hI) (hF := hF.mono (by dsimp only [touches]; decide)) ..
  | stuck => exact execStuck_kept (hI := hI) (hF := hF.mono (by dsimp only [touches]; decide)) ..
  | tickingBegin => exact execTickingBegin_kept (hI := hI) (hF := hF.mono (by dsimp only [touches]; decide)) ..
  | leap => exact execLeap_kept (hI := hI) (hF := hF.mono (by dsimp only [touches]; decide)) ..
  | timeMramWrite => exact execTimeMramWrite_kept (hI := hI) (hF := hF.mono (by dsimp only [touches]; decide)) ..
  | reseatStep => exact execReseatStep_kept (hI := hI) (hF := hF.mono (by dsimp only [touches]; decide)) ..
  | ttgArm => exact execTtgArm_kept (hI := hI) (hF := hF.mono (by dsimp only [touches]; decide)) ..
  | ttgDisarm => exact execTtgDisarm_kept (hI := hI) (hF := hF.mono (by dsimp only [touches]; decide)) ..
  | ttgEdge => exact execTtgEdge_kept (hI := hI) (hF := hF.mono (by dsimp only [touches]; decide)) ..
  | captureEdge => exact execCaptureEdge_kept (hI := hI) (hF := hF.mono (by dsimp only [touches]; decide)) ..
  | capturePop => exact execCapturePop_kept (hI := hI) (hF := hF.mono (by dsimp only [touches]; decide)) ..
  | linkUp => exact execLinkUp_kept (hI := hI) (hF := hF.mono (by dsimp only [touches]; decide)) ..
  | linkDown => exact execLinkDown_kept (hI := hI) (hF := hF.mono (by dsimp only [touches]; decide)) ..
  | anRetry => exact execAnRetry_kept (hI := hI) (hF := hF.mono (by dsimp only [touches]; decide)) ..
  | linkRestart => exact execLinkRestart_kept (hI := hI) (hF := hF.mono (by dsimp only [touches]; decide)) ..
  | macRxFrame => exact execMacRxFrame_kept (hI := hI) (hF := hF.mono (by dsimp only [touches]; decide)) ..
  | dupLookup => exact execDupLookup_kept (hI := hI) (hF := hF.mono (by dsimp only [touches]; decide)) ..
  | dupWaitRelease => exact execDupWaitRelease_kept (hI := hI) (hF := hF.mono (by dsimp only [touches]; decide)) ..
  | dupEntryExpire => exact execDupEntryExpire_kept (hI := hI) (hF := hF.mono (by dsimp only [touches]; decide)) ..
  | pauseRx => exact execPauseRx_kept (hI := hI) (hF := hF.mono (by dsimp only [touches]; decide)) ..
  | pauseExpire => exact execPauseExpire_kept (hI := hI) (hF := hF.mono (by dsimp only [touches]; decide)) ..
  | pauseObeyWrite => exact execPauseObeyWrite_kept (hI := hI) (hF := hF.mono (by dsimp only [touches]; decide)) ..
  | pmacVerify => exact execPmacVerify_kept (hI := hI) (hF := hF.mono (by dsimp only [touches]; decide)) ..
  | verifyResponseRx => exact execVerifyResponseRx_kept (hI := hI) (hF := hF.mono (by dsimp only [touches]; decide)) ..
  | pmacEnWrite => exact execPmacEnWrite_kept (hI := hI) (hF := hF.mono (by dsimp only [touches]; decide)) ..
  | txFrameStart => exact execTxFrameStart_kept (hI := hI) (hF := hF.mono (by dsimp only [touches]; decide)) ..
  | txFrameSent => exact execTxFrameSent_kept (hI := hI) (hF := hF.mono (by dsimp only [touches]; decide)) ..
  | egressSchedule => exact execEgressSchedule_kept (hI := hI) (hF := hF.mono (by dsimp only [touches]; decide)) ..
  | hostRxRingPlace => exact execHostRxRingPlace_kept (hI := hI) (hF := hF.mono (by dsimp only [touches]; decide)) ..
  | ingressParse => exact execIngressParse_kept (hI := hI) (hF := hF.mono (by dsimp only [touches]; decide)) ..
  | dataFrame => exact execDataFrame_kept (hI := hI) (hF := hF.mono (by dsimp only [touches]; decide)) ..
  | cfg1Frame => exact execCfg1Frame_kept (hI := hI) (hF := hF.mono (by dsimp only [touches]; decide)) ..
  | cfg2Frame => exact execCfg2Frame_kept (hI := hI) (hF := hF.mono (by dsimp only [touches]; decide)) ..
  | cfg3Frame => exact execCfg3Frame_kept (hI := hI) (hF := hF.mono (by dsimp only [touches]; decide)) ..
  | headerFrame => exact execHeaderFrame_kept (hI := hI) (hF := hF.mono (by dsimp only [touches]; decide)) ..
  | ieee1344DataFrame => exact execIeee1344DataFrame_kept (hI := hI) (hF := hF.mono (by dsimp only [touches]; decide)) ..
  | ieee1344CfgFrame => exact execIeee1344CfgFrame_kept (hI := hI) (hF := hF.mono (by dsimp only [touches]; decide)) ..
  | routedSvFrame => exact execRoutedSvFrame_kept (hI := hI) (hF := hF.mono (by dsimp only [touches]; decide)) ..
  | cfgActivate => exact execCfgActivate_kept (hI := hI) (hF := hF.mono (by dsimp only [touches]; decide)) ..
  | ingressCommit => exact execIngressCommit_kept (hI := hI) (hF := hF.mono (by dsimp only [touches]; decide)) ..
  | tcpConnect => exact execTcpConnect_kept (hI := hI) (hF := hF.mono (by dsimp only [touches]; decide)) ..
  | tcpRetry => exact execTcpRetry_kept (hI := hI) (hF := hF.mono (by dsimp only [touches]; decide)) ..
  | tcpDown => exact execTcpDown_kept (hI := hI) (hF := hF.mono (by dsimp only [touches]; decide)) ..
  | membershipReport => exact execMembershipReport_kept (hI := hI) (hF := hF.mono (by dsimp only [touches]; decide)) ..
  | arpRequest => exact execArpRequest_kept (hI := hI) (hF := hF.mono (by dsimp only [touches]; decide)) ..
  | macResolve => exact execMacResolve_kept (hI := hI) (hF := hF.mono (by dsimp only [touches]; decide)) ..
  | recordArrival => exact execRecordArrival_kept (hI := hI) (hF := hF.mono (by dsimp only [touches]; decide)) ..
  | resamplerInput => exact execResamplerInput_kept (hI := hI) (hF := hF.mono (by dsimp only [touches]; decide)) ..
  | closeTokenIssue => exact execCloseTokenIssue_kept (hI := hI) (hF := hF.mono (by dsimp only [touches]; decide)) ..
  | closeTokenProcess => exact execCloseTokenProcess_kept (hI := hI) (hF := hF.mono (by dsimp only [touches]; decide)) ..
  | missingTemplateWrite => exact execMissingTemplateWrite_kept (hI := hI) (hF := hF.mono (by dsimp only [touches]; decide)) ..
  | learningMramWrite => exact execLearningMramWrite_kept (hI := hI) (hF := hF.mono (by dsimp only [touches]; decide)) ..
  | pghSramUe => exact execPghSramUe_kept (hI := hI) (hF := hF.mono (by dsimp only [touches]; decide)) ..
  | instanceActivate => exact execInstanceActivate_kept (hI := hI) (hF := hF.mono (by dsimp only [touches]; decide)) ..
  | itemDispatch => exact execItemDispatch_kept (hI := hI) (hF := hF.mono (by dsimp only [touches]; decide)) ..
  | itemStart => exact execItemStart_kept (hI := hI) (hF := hF.mono (by dsimp only [touches]; decide)) ..
  | itemRetire => exact execItemRetire_kept (hI := hI) (hF := hF.mono (by dsimp only [touches]; decide)) ..
  | agePromotion => exact execAgePromotion_kept (hI := hI) (hF := hF.mono (by dsimp only [touches]; decide)) ..
  | tableSramUe => exact execTableSramUe_kept (hI := hI) (hF := hF.mono (by dsimp only [touches]; decide)) ..
  | laneLsUe => exact execLaneLsUe_kept (hI := hI) (hF := hF.mono (by dsimp only [touches]; decide)) ..
  | fetchUe => exact execFetchUe_kept (hI := hI) (hF := hF.mono (by dsimp only [touches]; decide)) ..
  | gather => exact execGather_kept (hI := hI) (hF := hF.mono (by dsimp only [touches]; decide)) ..
  | qualScan => exact execQualScan_kept (hI := hI) (hF := hF.mono (by dsimp only [touches]; decide)) ..
  | rsmpStatus => exact execRsmpStatus_kept (hI := hI) (hF := hF.mono (by dsimp only [touches]; decide)) ..
  | select => exact execSelect_kept (hI := hI) (hF := hF.mono (by dsimp only [touches]; decide)) ..
  | scale => exact execScale_kept (hI := hI) (hF := hF.mono (by dsimp only [touches]; decide)) ..
  | maskLogic => exact execMaskLogic_kept (hI := hI) (hF := hF.mono (by dsimp only [touches]; decide)) ..
  | countFlags => exact execCountFlags_kept (hI := hI) (hF := hF.mono (by dsimp only [touches]; decide)) ..
  | phToPolar => exact execPhToPolar_kept (hI := hI) (hF := hF.mono (by dsimp only [touches]; decide)) ..
  | phToRect => exact execPhToRect_kept (hI := hI) (hF := hF.mono (by dsimp only [touches]; decide)) ..
  | phAngdiff => exact execPhAngdiff_kept (hI := hI) (hF := hF.mono (by dsimp only [touches]; decide)) ..
  | phRotate => exact execPhRotate_kept (hI := hI) (hF := hF.mono (by dsimp only [touches]; decide)) ..
  | phSeq => exact execPhSeq_kept (hI := hI) (hF := hF.mono (by dsimp only [touches]; decide)) ..
  | phPower => exact execPhPower_kept (hI := hI) (hF := hF.mono (by dsimp only [touches]; decide)) ..
  | phPower3 => exact execPhPower3_kept (hI := hI) (hF := hF.mono (by dsimp only [touches]; decide)) ..
  | phWsum => exact execPhWsum_kept (hI := hI) (hF := hF.mono (by dsimp only [touches]; decide)) ..
  | phUnbal => exact execPhUnbal_kept (hI := hI) (hF := hF.mono (by dsimp only [touches]; decide)) ..
  | freqWmean => exact execFreqWmean_kept (hI := hI) (hF := hF.mono (by dsimp only [touches]; decide)) ..
  | sigFir => exact execSigFir_kept (hI := hI) (hF := hF.mono (by dsimp only [touches]; decide)) ..
  | sigDiff => exact execSigDiff_kept (hI := hI) (hF := hF.mono (by dsimp only [touches]; decide)) ..
  | angUnwrap => exact execAngUnwrap_kept (hI := hI) (hF := hF.mono (by dsimp only [touches]; decide)) ..
  | angWrap => exact execAngWrap_kept (hI := hI) (hF := hF.mono (by dsimp only [touches]; decide)) ..
  | cmatvec => exact execCmatvec_kept (hI := hI) (hF := hF.mono (by dsimp only [touches]; decide)) ..
  | rmatvec => exact execRmatvec_kept (hI := hI) (hF := hF.mono (by dsimp only [touches]; decide)) ..
  | lsqSmall => exact execLsqSmall_kept (hI := hI) (hF := hF.mono (by dsimp only [touches]; decide)) ..
  | interpLin => exact execInterpLin_kept (hI := hI) (hF := hF.mono (by dsimp only [touches]; decide)) ..
  | minmax => exact execMinmax_kept (hI := hI) (hF := hF.mono (by dsimp only [touches]; decide)) ..
  | ewmaVar => exact execEwmaVar_kept (hI := hI) (hF := hF.mono (by dsimp only [touches]; decide)) ..
  | topk => exact execTopk_kept (hI := hI) (hF := hF.mono (by dsimp only [touches]; decide)) ..
  | clamp => exact execClamp_kept (hI := hI) (hF := hF.mono (by dsimp only [touches]; decide)) ..
  | statBlock => exact execStatBlock_kept (hI := hI) (hF := hF.mono (by dsimp only [touches]; decide)) ..
  | detLevel => exact execDetLevel_kept (hI := hI) (hF := hF.mono (by dsimp only [touches]; decide)) ..
  | detRate => exact execDetRate_kept (hI := hI) (hF := hF.mono (by dsimp only [touches]; decide)) ..
  | detAngsep => exact execDetAngsep_kept (hI := hI) (hF := hF.mono (by dsimp only [touches]; decide)) ..
  | detSagswell => exact execDetSagswell_kept (hI := hI) (hF := hF.mono (by dsimp only [touches]; decide)) ..
  | detFreq => exact execDetFreq_kept (hI := hI) (hF := hF.mono (by dsimp only [touches]; decide)) ..
  | detStep => exact execDetStep_kept (hI := hI) (hF := hF.mono (by dsimp only [touches]; decide)) ..
  | detDigital => exact execDetDigital_kept (hI := hI) (hF := hF.mono (by dsimp only [touches]; decide)) ..
  | detVote => exact execDetVote_kept (hI := hI) (hF := hF.mono (by dsimp only [touches]; decide)) ..
  | almPost => exact execAlmPost_kept (hI := hI) (hF := hF.mono (by dsimp only [touches]; decide)) ..
  | almPio => exact execAlmPio_kept (hI := hI) (hF := hF.mono (by dsimp only [touches]; decide)) ..
  | evtPost => exact execEvtPost_kept (hI := hI) (hF := hF.mono (by dsimp only [touches]; decide)) ..
  | evtMerge => exact execEvtMerge_kept (hI := hI) (hF := hF.mono (by dsimp only [touches]; decide)) ..
  | specPrep => exact execSpecPrep_kept (hI := hI) (hF := hF.mono (by dsimp only [touches]; decide)) ..
  | modePrep => exact execModePrep_kept (hI := hI) (hF := hF.mono (by dsimp only [touches]; decide)) ..
  | cohPrep => exact execCohPrep_kept (hI := hI) (hF := hF.mono (by dsimp only [touches]; decide)) ..
  | accPrep => exact execAccPrep_kept (hI := hI) (hF := hF.mono (by dsimp only [touches]; decide)) ..
  | defPrep => exact execDefPrep_kept (hI := hI) (hF := hF.mono (by dsimp only [touches]; decide)) ..
  | snrPrep => exact execSnrPrep_kept (hI := hI) (hF := hF.mono (by dsimp only [touches]; decide)) ..
  | pmuHealth => exact execPmuHealth_kept (hI := hI) (hF := hF.mono (by dsimp only [touches]; decide)) ..
  | outDecim => exact execOutDecim_kept (hI := hI) (hF := hF.mono (by dsimp only [touches]; decide)) ..
  | outPack2011 => exact execOutPack2011_kept (hI := hI) (hF := hF.mono (by dsimp only [touches]; decide)) ..
  | outPack2005 => exact execOutPack2005_kept (hI := hI) (hF := hF.mono (by dsimp only [touches]; decide)) ..
  | outPackRaw => exact execOutPackRaw_kept (hI := hI) (hF := hF.mono (by dsimp only [touches]; decide)) ..
  | outStat => exact execOutStat_kept (hI := hI) (hF := hF.mono (by dsimp only [touches]; decide)) ..
  | outAmendPack => exact execOutAmendPack_kept (hI := hI) (hF := hF.mono (by dsimp only [touches]; decide)) ..
  | tickSummary => exact execTickSummary_kept (hI := hI) (hF := hF.mono (by dsimp only [touches]; decide)) ..
  | nop => exact execNop_kept (hI := hI) (hF := hF.mono (by dsimp only [touches]; decide)) ..
  | sdftUpdate => exact execSdftUpdate_kept (hI := hI) (hF := hF.mono (by dsimp only [touches]; decide)) ..
  | defUpdate => exact execDefUpdate_kept (hI := hI) (hF := hF.mono (by dsimp only [touches]; decide)) ..
  | modeTrack => exact execModeTrack_kept (hI := hI) (hF := hF.mono (by dsimp only [touches]; decide)) ..
  | components => exact execComponents_kept (hI := hI) (hF := hF.mono (by dsimp only [touches]; decide)) ..
  | integrate => exact execIntegrate_kept (hI := hI) (hF := hF.mono (by dsimp only [touches]; decide)) ..
  | compose => exact execCompose_kept (hI := hI) (hF := hF.mono (by dsimp only [touches]; decide)) ..
  | amend => exact execAmend_kept (hI := hI) (hF := hF.mono (by dsimp only [touches]; decide)) ..
  | specStateUe => exact execSpecStateUe_kept (hI := hI) (hF := hF.mono (by dsimp only [touches]; decide)) ..
  | cohSramUe => exact execCohSramUe_kept (hI := hI) (hF := hF.mono (by dsimp only [touches]; decide)) ..
  | alarmFrameSend => exact execAlarmFrameSend_kept (hI := hI) (hF := hF.mono (by dsimp only [touches]; decide)) ..
  | alarmHeartbeat => exact execAlarmHeartbeat_kept (hI := hI) (hF := hF.mono (by dsimp only [touches]; decide)) ..
  | gooseRetransmit => exact execGooseRetransmit_kept (hI := hI) (hF := hF.mono (by dsimp only [touches]; decide)) ..
  | almAck => exact execAlmAck_kept (hI := hI) (hF := hF.mono (by dsimp only [touches]; decide)) ..
  | almInh => exact execAlmInh_kept (hI := hI) (hF := hF.mono (by dsimp only [touches]; decide)) ..
  | maxClr => exact execMaxClr_kept (hI := hI) (hF := hF.mono (by dsimp only [touches]; decide)) ..
  | minClr => exact execMinClr_kept (hI := hI) (hF := hF.mono (by dsimp only [touches]; decide)) ..
  | accCommit => exact execAccCommit_kept (hI := hI) (hF := hF.mono (by dsimp only [touches]; decide)) ..
  | accSramUe => exact execAccSramUe_kept (hI := hI) (hF := hF.mono (by dsimp only [touches]; decide)) ..
  | pulseStart => exact execPulseStart_kept (hI := hI) (hF := hF.mono (by dsimp only [touches]; decide)) ..
  | pulseEnd => exact execPulseEnd_kept (hI := hI) (hF := hF.mono (by dsimp only [touches]; decide)) ..
  | cmdTurnOff => exact execCmdTurnOff_kept (hI := hI) (hF := hF.mono (by dsimp only [touches]; decide)) ..
  | cmdTurnOn => exact execCmdTurnOn_kept (hI := hI) (hF := hF.mono (by dsimp only [touches]; decide)) ..
  | cmdSendHeader => exact execCmdSendHeader_kept (hI := hI) (hF := hF.mono (by dsimp only [touches]; decide)) ..
  | cmdSendCfg1 => exact execCmdSendCfg1_kept (hI := hI) (hF := hF.mono (by dsimp only [touches]; decide)) ..
  | cmdSendCfg2 => exact execCmdSendCfg2_kept (hI := hI) (hF := hF.mono (by dsimp only [touches]; decide)) ..
  | cmdSendCfg3 => exact execCmdSendCfg3_kept (hI := hI) (hF := hF.mono (by dsimp only [touches]; decide)) ..
  | composerBpWaitEnd => exact execComposerBpWaitEnd_kept (hI := hI) (hF := hF.mono (by dsimp only [touches]; decide)) ..
  | rawBlockWrite => exact execRawBlockWrite_kept (hI := hI) (hF := hF.mono (by dsimp only [touches]; decide)) ..
  | hostTxProdWrite => exact execHostTxProdWrite_kept (hI := hI) (hF := hF.mono (by dsimp only [touches]; decide)) ..
  | ringDmaFault => exact execRingDmaFault_kept (hI := hI) (hF := hF.mono (by dsimp only [touches]; decide)) ..
  | snareArm => exact execSnareArm_kept (hI := hI) (hF := hF.mono (by dsimp only [touches]; decide)) ..
  | snareDisarm => exact execSnareDisarm_kept (hI := hI) (hF := hF.mono (by dsimp only [touches]; decide)) ..
  | snareRelease => exact execSnareRelease_kept (hI := hI) (hF := hF.mono (by dsimp only [touches]; decide)) ..
  | snareHostTrig => exact execSnareHostTrig_kept (hI := hI) (hF := hF.mono (by dsimp only [touches]; decide)) ..
  | snarePioEdge => exact execSnarePioEdge_kept (hI := hI) (hF := hF.mono (by dsimp only [touches]; decide)) ..
  | snareAutoTrigger => exact execSnareAutoTrigger_kept (hI := hI) (hF := hF.mono (by dsimp only [touches]; decide)) ..
  | snareRowWrite => exact execSnareRowWrite_kept (hI := hI) (hF := hF.mono (by dsimp only [touches]; decide)) ..
  | snareAutoExport => exact execSnareAutoExport_kept (hI := hI) (hF := hF.mono (by dsimp only [touches]; decide)) ..
  | eventPost => exact execEventPost_kept (hI := hI) (hF := hF.mono (by dsimp only [touches]; decide)) ..
  | chestRecordWrite => exact execChestRecordWrite_kept (hI := hI) (hF := hF.mono (by dsimp only [touches]; decide)) ..
  | tokenRefill => exact execTokenRefill_kept (hI := hI) (hF := hF.mono (by dsimp only [touches]; decide)) ..
  | rollPageWrite => exact execRollPageWrite_kept (hI := hI) (hF := hF.mono (by dsimp only [touches]; decide)) ..
  | chestFlush => exact execChestFlush_kept (hI := hI) (hF := hF.mono (by dsimp only [touches]; decide)) ..
  | chestMemoryFault => exact execChestMemoryFault_kept (hI := hI) (hF := hF.mono (by dsimp only [touches]; decide)) ..
  | chestFetch => exact execChestFetch_kept (hI := hI) (hF := hF.mono (by dsimp only [touches]; decide)) ..
  | chestFetchDone => exact execChestFetchDone_kept (hI := hI) (hF := hF.mono (by dsimp only [touches]; decide)) ..
  | tamper => exact execTamper_kept (hI := hI) (hF := hF.mono (by dsimp only [touches]; decide)) ..
  | zeroizeJournal => exact execZeroizeJournal_kept (hI := hI) (hF := hF.mono (by dsimp only [touches]; decide)) ..
  | burSramUe => exact execBurSramUe_kept (hI := hI) (hF := hF.mono (by dsimp only [touches]; decide)) ..
  | hello a b c => exact execHello_kept (_serial := c) (hI := hI) (hF := hF.mono (by dsimp only [touches]; decide)) ..
  | auth => exact execAuth_kept (hI := hI) (hF := hF.mono (by dsimp only [touches]; decide)) ..
  | heartbeat => exact execHeartbeat_kept (hI := hI) (hF := hF.mono (by dsimp only [touches]; decide)) ..
  | abdicate a b c => exact execAbdicate_kept (_instant := c) (hI := hI) (hF := hF.mono (by dsimp only [touches]; decide)) ..
  | handover => exact execHandover_kept (hI := hI) (hF := hF.mono (by dsimp only [touches]; decide)) ..
  | prepare => exact execPrepare_kept (hI := hI) (hF := hF.mono (by dsimp only [touches]; decide)) ..
  | block => exact execBlock_kept (hI := hI) (hF := hF.mono (by dsimp only [touches]; decide)) ..
  | endReady => exact execEndReady_kept (hI := hI) (hF := hF.mono (by dsimp only [touches]; decide)) ..
  | commit => exact execCommit_kept (hI := hI) (hF := hF.mono (by dsimp only [touches]; decide)) ..
  | forward => exact execForward_kept (hI := hI) (hF := hF.mono (by dsimp only [touches]; decide)) ..
  | mirror => exact execMirror_kept (hI := hI) (hF := hF.mono (by dsimp only [touches]; decide)) ..
  | accSum => exact execAccSum_kept (hI := hI) (hF := hF.mono (by dsimp only [touches]; decide)) ..
  | pairLaneDown => exact execPairLaneDown_kept (hI := hI) (hF := hF.mono (by dsimp only [touches]; decide)) ..
  | pairAbdNFall => exact execPairAbdNFall_kept (hI := hI) (hF := hF.mono (by dsimp only [touches]; decide)) ..
  | pairAbdNRelease => exact execPairAbdNRelease_kept (hI := hI) (hF := hF.mono (by dsimp only [touches]; decide)) ..
  | pairWatchdog => exact execPairWatchdog_kept (hI := hI) (hF := hF.mono (by dsimp only [touches]; decide)) ..
  | pairWaitExpiry => exact execPairWaitExpiry_kept (hI := hI) (hF := hF.mono (by dsimp only [touches]; decide)) ..
  | yieldRecover => exact execYieldRecover_kept (hI := hI) (hF := hF.mono (by dsimp only [touches]; decide)) ..
  | joinRetry => exact execJoinRetry_kept (hI := hI) (hF := hF.mono (by dsimp only [touches]; decide)) ..
  | joinTimeout => exact execJoinTimeout_kept (hI := hI) (hF := hF.mono (by dsimp only [touches]; decide)) ..
  | sdOutput => exact execSdOutput_kept (hI := hI) (hF := hF.mono (by dsimp only [touches]; decide)) ..
  | sdRestartSettled => exact execSdRestartSettled_kept (hI := hI) (hF := hF.mono (by dsimp only [touches]; decide)) ..
  | localEstimateCommit => exact execLocalEstimateCommit_kept (hI := hI) (hF := hF.mono (by dsimp only [touches]; decide)) ..
  | icvConversionEnd => exact execIcvConversionEnd_kept (hI := hI) (hF := hF.mono (by dsimp only [touches]; decide)) ..
  | icvRefSettled => exact execIcvRefSettled_kept (hI := hI) (hF := hF.mono (by dsimp only [touches]; decide)) ..
  | icvRefWrite => exact execIcvRefWrite_kept (hI := hI) (hF := hF.mono (by dsimp only [touches]; decide)) ..
  | icvQueuePop => exact execIcvQueuePop_kept (hI := hI) (hF := hF.mono (by dsimp only [touches]; decide)) ..
  | swapPrepareDone => exact execSwapPrepareDone_kept (hI := hI) (hF := hF.mono (by dsimp only [touches]; decide)) ..
  | mbxCommandComplete => exact execMbxCommandComplete_kept (hI := hI) (hF := hF.mono (by dsimp only [touches]; decide)) ..
  | getInfo => exact execGetInfo_kept (hI := hI) (hF := hF.mono (by dsimp only [touches]; decide)) ..
  | commission => exact execCommission_kept (hI := hI) (hF := hF.mono (by dsimp only [touches]; decide)) ..
  | timeReseat => exact execTimeReseat_kept (hI := hI) (hF := hF.mono (by dsimp only [touches]; decide)) ..
  | imageLoad => exact execImageLoad_kept (hI := hI) (hF := hF.mono (by dsimp only [touches]; decide)) ..
  | imageSwap => exact execImageSwap_kept (hI := hI) (hF := hF.mono (by dsimp only [touches]; decide)) ..
  | swapCancel => exact execSwapCancel_kept (hI := hI) (hF := hF.mono (by dsimp only [touches]; decide)) ..
  | imageInfo => exact execImageInfo_kept (hI := hI) (hF := hF.mono (by dsimp only [touches]; decide)) ..
  | imageErase => exact execImageErase_kept (hI := hI) (hF := hF.mono (by dsimp only [touches]; decide)) ..
  | rootInstall => exact execRootInstall_kept (hI := hI) (hF := hF.mono (by dsimp only [touches]; decide)) ..
  | keyLoad => exact execKeyLoad_kept (hI := hI) (hF := hF.mono (by dsimp only [touches]; decide)) ..
  | keyInvalidate => exact execKeyInvalidate_kept (hI := hI) (hF := hF.mono (by dsimp only [touches]; decide)) ..
  | keyPurge => exact execKeyPurge_kept (hI := hI) (hF := hF.mono (by dsimp only [touches]; decide)) ..
  | keySelect => exact execKeySelect_kept (hI := hI) (hF := hF.mono (by dsimp only [touches]; decide)) ..
  | hmac => exact execHmac_kept (hI := hI) (hF := hF.mono (by dsimp only [touches]; decide)) ..
  | gmac => exact execGmac_kept (hI := hI) (hF := hF.mono (by dsimp only [touches]; decide)) ..
  | chestCopy => exact execChestCopy_kept (hI := hI) (hF := hF.mono (by dsimp only [touches]; decide)) ..
  | chestLidCopy => exact execChestLidCopy_kept (hI := hI) (hF := hF.mono (by dsimp only [touches]; decide)) ..
  | snareTrigger => exact execSnareTrigger_kept (hI := hI) (hF := hF.mono (by dsimp only [touches]; decide)) ..
  | snareExport => exact execSnareExport_kept (hI := hI) (hF := hF.mono (by dsimp only [touches]; decide)) ..
  | snareNandList => exact execSnareNandList_kept (hI := hI) (hF := hF.mono (by dsimp only [touches]; decide)) ..
  | snareNandRead => exact execSnareNandRead_kept (hI := hI) (hF := hF.mono (by dsimp only [touches]; decide)) ..
  | snareNandDelete => exact execSnareNandDelete_kept (hI := hI) (hF := hF.mono (by dsimp only [touches]; decide)) ..
  | accZero => exact execAccZero_kept (hI := hI) (hF := hF.mono (by dsimp only [touches]; decide)) ..
  | pairHandover => exact execPairHandover_kept (hI := hI) (hF := hF.mono (by dsimp only [touches]; decide)) ..
  | pairForce => exact execPairForce_kept (hI := hI) (hF := hF.mono (by dsimp only [touches]; decide)) ..
  | pairJoin => exact execPairJoin_kept (hI := hI) (hF := hF.mono (by dsimp only [touches]; decide)) ..
  | benchSessionOpen => exact execBenchSessionOpen_kept (hI := hI) (hF := hF.mono (by dsimp only [touches]; decide)) ..
  | benchIdleTimeout => exact execBenchIdleTimeout_kept (hI := hI) (hF := hF.mono (by dsimp only [touches]; decide)) ..
  | benchLockoutExpiry => exact execBenchLockoutExpiry_kept (hI := hI) (hF := hF.mono (by dsimp only [touches]; decide)) ..
  | help => exact execHelp_kept (hI := hI) (hF := hF.mono (by dsimp only [touches]; decide)) ..
  | who => exact execWho_kept (hI := hI) (hF := hF.mono (by dsimp only [touches]; decide)) ..
  | login => exact execLogin_kept (hI := hI) (hF := hF.mono (by dsimp only [touches]; decide)) ..
  | answer => exact execAnswer_kept (hI := hI) (hF := hF.mono (by dsimp only [touches]; decide)) ..
  | logout => exact execLogout_kept (hI := hI) (hF := hF.mono (by dsimp only [touches]; decide)) ..
  | rd => exact execRd_kept (hI := hI) (hF := hF.mono (by dsimp only [touches]; decide)) ..
  | wr => exact execWr_kept (hI := hI) (hF := hF.mono (by dsimp only [touches]; decide)) ..
  | ctrSnap => exact execCtrSnap_kept (hI := hI) (hF := hF.mono (by dsimp only [touches]; decide)) ..
  | ctrPort => exact execCtrPort_kept (hI := hI) (hF := hF.mono (by dsimp only [touches]; decide)) ..
  | trace => exact execTrace_kept (hI := hI) (hF := hF.mono (by dsimp only [touches]; decide)) ..
  | chest => exact execChest_kept (hI := hI) (hF := hF.mono (by dsimp only [touches]; decide)) ..
  | status => exact execStatus_kept (hI := hI) (hF := hF.mono (by dsimp only [touches]; decide)) ..
  | pmcPortSel => exact execPmcPortSel_kept (hI := hI) (hF := hF.mono (by dsimp only [touches]; decide)) ..
  | pmcTraceSel => exact execPmcTraceSel_kept (hI := hI) (hF := hF.mono (by dsimp only [touches]; decide)) ..
  | traceEntryWrite => exact execTraceEntryWrite_kept (hI := hI) (hF := hF.mono (by dsimp only [touches]; decide)) ..
  | tstEn => exact execTstEn_kept (hI := hI) (hF := hF.mono (by dsimp only [touches]; decide)) ..
  | portDelay => exact execPortDelay_kept (hI := hI) (hF := hF.mono (by dsimp only [touches]; decide)) ..
  | egrBp => exact execEgrBp_kept (hI := hI) (hF := hF.mono (by dsimp only [touches]; decide)) ..
  | laneStall => exact execLaneStall_kept (hI := hI) (hF := hF.mono (by dsimp only [touches]; decide)) ..
  | cdcStretch => exact execCdcStretch_kept (hI := hI) (hF := hF.mono (by dsimp only [touches]; decide)) ..
  | closeShift => exact execCloseShift_kept (hI := hI) (hF := hF.mono (by dsimp only [touches]; decide)) ..
  | eccInject => exact execEccInject_kept (hI := hI) (hF := hF.mono (by dsimp only [touches]; decide)) ..
  | timeSkew => exact execTimeSkew_kept (hI := hI) (hF := hF.mono (by dsimp only [touches]; decide)) ..
  | stallArm => exact execStallArm_kept (hI := hI) (hF := hF.mono (by dsimp only [touches]; decide)) ..
  | laneStallStart => exact execLaneStallStart_kept (hI := hI) (hF := hF.mono (by dsimp only [touches]; decide)) ..
  | laneStallEnd => exact execLaneStallEnd_kept (hI := hI) (hF := hF.mono (by dsimp only [touches]; decide)) ..
  | egrBpPhase => exact execEgrBpPhase_kept (hI := hI) (hF := hF.mono (by dsimp only [touches]; decide)) ..
  | smEoi => exact execSmEoi_kept (hI := hI) (hF := hF.mono (by dsimp only [touches]; decide)) ..
  | windowInterrupt => exact execWindowInterrupt_kept (hI := hI) (hF := hF.mono (by dsimp only [touches]; decide)) ..
  | holdoverQualLost => exact execHoldoverQualLost_kept (hI := hI) (hF := hF.mono (by dsimp only [touches]; decide)) ..
  | announceReceiptTimeout => exact execAnnounceReceiptTimeout_kept (hI := hI) (hF := hF.mono (by dsimp only [touches]; decide)) ..
  | arpReply => exact execArpReply_kept (hI := hI) (hF := hF.mono (by dsimp only [touches]; decide)) ..

end Sys2Proof.Machine
end

