-- ==== Sys2Proof/Laws/State.lean ====
section
/-!
SUPPORT. What each update of a state leaves alone, field by field, and what a register reads after one.
-/

namespace Sys2Proof.Machine

set_option Elab.async false

variable (s : State)

@[simp] theorem State.wr_pwr (f : Fld) (v : Nat) : (s.wr f v).pwr = s.pwr := rfl
@[simp] theorem State.wr_dom (f : Fld) (v : Nat) : (s.wr f v).dom = s.dom := rfl
@[simp] theorem State.wr_clv (f : Fld) (v : Nat) : (s.wr f v).clv = s.clv := rfl
@[simp] theorem State.wr_ports (f : Fld) (v : Nat) : (s.wr f v).ports = s.ports := rfl
@[simp] theorem State.wr_dup (f : Fld) (v : Nat) : (s.wr f v).dup = s.dup := rfl
@[simp] theorem State.wr_dupNext (f : Fld) (v : Nat) : (s.wr f v).dupNext = s.dupNext := rfl
@[simp] theorem State.wr_ing (f : Fld) (v : Nat) : (s.wr f v).ing = s.ing := rfl
@[simp] theorem State.wr_chs (f : Fld) (v : Nat) : (s.wr f v).chs = s.chs := rfl
@[simp] theorem State.wr_snr (f : Fld) (v : Nat) : (s.wr f v).snr = s.snr := rfl
@[simp] theorem State.wr_mbx (f : Fld) (v : Nat) : (s.wr f v).mbx = s.mbx := rfl
@[simp] theorem State.wr_img (f : Fld) (v : Nat) : (s.wr f v).img = s.img := rfl
@[simp] theorem State.wr_oldImg (f : Fld) (v : Nat) : (s.wr f v).oldImg = s.oldImg := rfl
@[simp] theorem State.wr_swap (f : Fld) (v : Nat) : (s.wr f v).swap = s.swap := rfl
@[simp] theorem State.wr_swapTick (f : Fld) (v : Nat) : (s.wr f v).swapTick = s.swapTick := rfl
@[simp] theorem State.wr_pgh (f : Fld) (v : Nat) : (s.wr f v).pgh = s.pgh := rfl
@[simp] theorem State.wr_tmb (f : Fld) (v : Nat) : (s.wr f v).tmb = s.tmb := rfl
@[simp] theorem State.wr_spec (f : Fld) (v : Nat) : (s.wr f v).spec = s.spec := rfl
@[simp] theorem State.wr_coh (f : Fld) (v : Nat) : (s.wr f v).coh = s.coh := rfl
@[simp] theorem State.wr_alm (f : Fld) (v : Nat) : (s.wr f v).alm = s.alm := rfl
@[simp] theorem State.wr_acc (f : Fld) (v : Nat) : (s.wr f v).acc = s.acc := rfl
@[simp] theorem State.wr_egr (f : Fld) (v : Nat) : (s.wr f v).egr = s.egr := rfl
@[simp] theorem State.wr_lmf (f : Fld) (v : Nat) : (s.wr f v).lmf = s.lmf := rfl
@[simp] theorem State.wr_pair (f : Fld) (v : Nat) : (s.wr f v).pair = s.pair := rfl
@[simp] theorem State.wr_bur (f : Fld) (v : Nat) : (s.wr f v).bur = s.bur := rfl
@[simp] theorem State.wr_bench (f : Fld) (v : Nat) : (s.wr f v).bench = s.bench := rfl
@[simp] theorem State.wr_pmc (f : Fld) (v : Nat) : (s.wr f v).pmc = s.pmc := rfl
@[simp] theorem State.wr_tst (f : Fld) (v : Nat) : (s.wr f v).tst = s.tst := rfl
@[simp] theorem State.wr_pio (f : Fld) (v : Nat) : (s.wr f v).pio = s.pio := rfl
@[simp] theorem State.wr_smArmed (f : Fld) (v : Nat) : (s.wr f v).smArmed = s.smArmed := rfl
@[simp] theorem State.wr_mram (f : Fld) (v : Nat) : (s.wr f v).mram = s.mram := rfl
@[simp] theorem State.wr_nand (f : Fld) (v : Nat) : (s.wr f v).nand = s.nand := rfl
@[simp] theorem State.wr_up (f : Fld) (v : Nat) : (s.wr f v).up = s.up := rfl
@[simp] theorem State.wr_fv (f : Fld) (v : Nat) : (s.wr f v).fv = s.fv := rfl
@[simp] theorem State.wr_out (f : Fld) (v : Nat) : (s.wr f v).out = s.out := rfl
@[simp] theorem State.wr_pending (f : Fld) (v : Nat) : (s.wr f v).pending = s.pending := rfl

@[simp] theorem State.wrB_pwr (f : Fld) (b : Bool) : (s.wrB f b).pwr = s.pwr := rfl
@[simp] theorem State.wrB_dom (f : Fld) (b : Bool) : (s.wrB f b).dom = s.dom := rfl
@[simp] theorem State.wrB_clv (f : Fld) (b : Bool) : (s.wrB f b).clv = s.clv := rfl
@[simp] theorem State.wrB_ports (f : Fld) (b : Bool) : (s.wrB f b).ports = s.ports := rfl
@[simp] theorem State.wrB_dup (f : Fld) (b : Bool) : (s.wrB f b).dup = s.dup := rfl
@[simp] theorem State.wrB_dupNext (f : Fld) (b : Bool) : (s.wrB f b).dupNext = s.dupNext := rfl
@[simp] theorem State.wrB_ing (f : Fld) (b : Bool) : (s.wrB f b).ing = s.ing := rfl
@[simp] theorem State.wrB_chs (f : Fld) (b : Bool) : (s.wrB f b).chs = s.chs := rfl
@[simp] theorem State.wrB_snr (f : Fld) (b : Bool) : (s.wrB f b).snr = s.snr := rfl
@[simp] theorem State.wrB_mbx (f : Fld) (b : Bool) : (s.wrB f b).mbx = s.mbx := rfl
@[simp] theorem State.wrB_img (f : Fld) (b : Bool) : (s.wrB f b).img = s.img := rfl
@[simp] theorem State.wrB_oldImg (f : Fld) (b : Bool) : (s.wrB f b).oldImg = s.oldImg := rfl
@[simp] theorem State.wrB_swap (f : Fld) (b : Bool) : (s.wrB f b).swap = s.swap := rfl
@[simp] theorem State.wrB_swapTick (f : Fld) (b : Bool) : (s.wrB f b).swapTick = s.swapTick := rfl
@[simp] theorem State.wrB_pgh (f : Fld) (b : Bool) : (s.wrB f b).pgh = s.pgh := rfl
@[simp] theorem State.wrB_tmb (f : Fld) (b : Bool) : (s.wrB f b).tmb = s.tmb := rfl
@[simp] theorem State.wrB_spec (f : Fld) (b : Bool) : (s.wrB f b).spec = s.spec := rfl
@[simp] theorem State.wrB_coh (f : Fld) (b : Bool) : (s.wrB f b).coh = s.coh := rfl
@[simp] theorem State.wrB_alm (f : Fld) (b : Bool) : (s.wrB f b).alm = s.alm := rfl
@[simp] theorem State.wrB_acc (f : Fld) (b : Bool) : (s.wrB f b).acc = s.acc := rfl
@[simp] theorem State.wrB_egr (f : Fld) (b : Bool) : (s.wrB f b).egr = s.egr := rfl
@[simp] theorem State.wrB_lmf (f : Fld) (b : Bool) : (s.wrB f b).lmf = s.lmf := rfl
@[simp] theorem State.wrB_pair (f : Fld) (b : Bool) : (s.wrB f b).pair = s.pair := rfl
@[simp] theorem State.wrB_bur (f : Fld) (b : Bool) : (s.wrB f b).bur = s.bur := rfl
@[simp] theorem State.wrB_bench (f : Fld) (b : Bool) : (s.wrB f b).bench = s.bench := rfl
@[simp] theorem State.wrB_pmc (f : Fld) (b : Bool) : (s.wrB f b).pmc = s.pmc := rfl
@[simp] theorem State.wrB_tst (f : Fld) (b : Bool) : (s.wrB f b).tst = s.tst := rfl
@[simp] theorem State.wrB_pio (f : Fld) (b : Bool) : (s.wrB f b).pio = s.pio := rfl
@[simp] theorem State.wrB_smArmed (f : Fld) (b : Bool) : (s.wrB f b).smArmed = s.smArmed := rfl
@[simp] theorem State.wrB_mram (f : Fld) (b : Bool) : (s.wrB f b).mram = s.mram := rfl
@[simp] theorem State.wrB_nand (f : Fld) (b : Bool) : (s.wrB f b).nand = s.nand := rfl
@[simp] theorem State.wrB_up (f : Fld) (b : Bool) : (s.wrB f b).up = s.up := rfl
@[simp] theorem State.wrB_fv (f : Fld) (b : Bool) : (s.wrB f b).fv = s.fv := rfl
@[simp] theorem State.wrB_out (f : Fld) (b : Bool) : (s.wrB f b).out = s.out := rfl
@[simp] theorem State.wrB_pending (f : Fld) (b : Bool) : (s.wrB f b).pending = s.pending := rfl

@[simp] theorem State.inc_pwr (f : Fld) (n : Nat) : (s.inc f n).pwr = s.pwr := rfl
@[simp] theorem State.inc_dom (f : Fld) (n : Nat) : (s.inc f n).dom = s.dom := rfl
@[simp] theorem State.inc_clv (f : Fld) (n : Nat) : (s.inc f n).clv = s.clv := rfl
@[simp] theorem State.inc_ports (f : Fld) (n : Nat) : (s.inc f n).ports = s.ports := rfl
@[simp] theorem State.inc_dup (f : Fld) (n : Nat) : (s.inc f n).dup = s.dup := rfl
@[simp] theorem State.inc_dupNext (f : Fld) (n : Nat) : (s.inc f n).dupNext = s.dupNext := rfl
@[simp] theorem State.inc_ing (f : Fld) (n : Nat) : (s.inc f n).ing = s.ing := rfl
@[simp] theorem State.inc_chs (f : Fld) (n : Nat) : (s.inc f n).chs = s.chs := rfl
@[simp] theorem State.inc_snr (f : Fld) (n : Nat) : (s.inc f n).snr = s.snr := rfl
@[simp] theorem State.inc_mbx (f : Fld) (n : Nat) : (s.inc f n).mbx = s.mbx := rfl
@[simp] theorem State.inc_img (f : Fld) (n : Nat) : (s.inc f n).img = s.img := rfl
@[simp] theorem State.inc_oldImg (f : Fld) (n : Nat) : (s.inc f n).oldImg = s.oldImg := rfl
@[simp] theorem State.inc_swap (f : Fld) (n : Nat) : (s.inc f n).swap = s.swap := rfl
@[simp] theorem State.inc_swapTick (f : Fld) (n : Nat) : (s.inc f n).swapTick = s.swapTick := rfl
@[simp] theorem State.inc_pgh (f : Fld) (n : Nat) : (s.inc f n).pgh = s.pgh := rfl
@[simp] theorem State.inc_tmb (f : Fld) (n : Nat) : (s.inc f n).tmb = s.tmb := rfl
@[simp] theorem State.inc_spec (f : Fld) (n : Nat) : (s.inc f n).spec = s.spec := rfl
@[simp] theorem State.inc_coh (f : Fld) (n : Nat) : (s.inc f n).coh = s.coh := rfl
@[simp] theorem State.inc_alm (f : Fld) (n : Nat) : (s.inc f n).alm = s.alm := rfl
@[simp] theorem State.inc_acc (f : Fld) (n : Nat) : (s.inc f n).acc = s.acc := rfl
@[simp] theorem State.inc_egr (f : Fld) (n : Nat) : (s.inc f n).egr = s.egr := rfl
@[simp] theorem State.inc_lmf (f : Fld) (n : Nat) : (s.inc f n).lmf = s.lmf := rfl
@[simp] theorem State.inc_pair (f : Fld) (n : Nat) : (s.inc f n).pair = s.pair := rfl
@[simp] theorem State.inc_bur (f : Fld) (n : Nat) : (s.inc f n).bur = s.bur := rfl
@[simp] theorem State.inc_bench (f : Fld) (n : Nat) : (s.inc f n).bench = s.bench := rfl
@[simp] theorem State.inc_pmc (f : Fld) (n : Nat) : (s.inc f n).pmc = s.pmc := rfl
@[simp] theorem State.inc_tst (f : Fld) (n : Nat) : (s.inc f n).tst = s.tst := rfl
@[simp] theorem State.inc_pio (f : Fld) (n : Nat) : (s.inc f n).pio = s.pio := rfl
@[simp] theorem State.inc_smArmed (f : Fld) (n : Nat) : (s.inc f n).smArmed = s.smArmed := rfl
@[simp] theorem State.inc_mram (f : Fld) (n : Nat) : (s.inc f n).mram = s.mram := rfl
@[simp] theorem State.inc_nand (f : Fld) (n : Nat) : (s.inc f n).nand = s.nand := rfl
@[simp] theorem State.inc_up (f : Fld) (n : Nat) : (s.inc f n).up = s.up := rfl
@[simp] theorem State.inc_fv (f : Fld) (n : Nat) : (s.inc f n).fv = s.fv := rfl
@[simp] theorem State.inc_out (f : Fld) (n : Nat) : (s.inc f n).out = s.out := rfl
@[simp] theorem State.inc_pending (f : Fld) (n : Nat) : (s.inc f n).pending = s.pending := rfl

@[simp] theorem State.flag_pwr (f : Fld) (b : Nat) : (s.flag f b).pwr = s.pwr := rfl
@[simp] theorem State.flag_dom (f : Fld) (b : Nat) : (s.flag f b).dom = s.dom := rfl
@[simp] theorem State.flag_clv (f : Fld) (b : Nat) : (s.flag f b).clv = s.clv := rfl
@[simp] theorem State.flag_ports (f : Fld) (b : Nat) : (s.flag f b).ports = s.ports := rfl
@[simp] theorem State.flag_dup (f : Fld) (b : Nat) : (s.flag f b).dup = s.dup := rfl
@[simp] theorem State.flag_dupNext (f : Fld) (b : Nat) : (s.flag f b).dupNext = s.dupNext := rfl
@[simp] theorem State.flag_ing (f : Fld) (b : Nat) : (s.flag f b).ing = s.ing := rfl
@[simp] theorem State.flag_chs (f : Fld) (b : Nat) : (s.flag f b).chs = s.chs := rfl
@[simp] theorem State.flag_snr (f : Fld) (b : Nat) : (s.flag f b).snr = s.snr := rfl
@[simp] theorem State.flag_mbx (f : Fld) (b : Nat) : (s.flag f b).mbx = s.mbx := rfl
@[simp] theorem State.flag_img (f : Fld) (b : Nat) : (s.flag f b).img = s.img := rfl
@[simp] theorem State.flag_oldImg (f : Fld) (b : Nat) : (s.flag f b).oldImg = s.oldImg := rfl
@[simp] theorem State.flag_swap (f : Fld) (b : Nat) : (s.flag f b).swap = s.swap := rfl
@[simp] theorem State.flag_swapTick (f : Fld) (b : Nat) : (s.flag f b).swapTick = s.swapTick := rfl
@[simp] theorem State.flag_pgh (f : Fld) (b : Nat) : (s.flag f b).pgh = s.pgh := rfl
@[simp] theorem State.flag_tmb (f : Fld) (b : Nat) : (s.flag f b).tmb = s.tmb := rfl
@[simp] theorem State.flag_spec (f : Fld) (b : Nat) : (s.flag f b).spec = s.spec := rfl
@[simp] theorem State.flag_coh (f : Fld) (b : Nat) : (s.flag f b).coh = s.coh := rfl
@[simp] theorem State.flag_alm (f : Fld) (b : Nat) : (s.flag f b).alm = s.alm := rfl
@[simp] theorem State.flag_acc (f : Fld) (b : Nat) : (s.flag f b).acc = s.acc := rfl
@[simp] theorem State.flag_egr (f : Fld) (b : Nat) : (s.flag f b).egr = s.egr := rfl
@[simp] theorem State.flag_lmf (f : Fld) (b : Nat) : (s.flag f b).lmf = s.lmf := rfl
@[simp] theorem State.flag_pair (f : Fld) (b : Nat) : (s.flag f b).pair = s.pair := rfl
@[simp] theorem State.flag_bur (f : Fld) (b : Nat) : (s.flag f b).bur = s.bur := rfl
@[simp] theorem State.flag_bench (f : Fld) (b : Nat) : (s.flag f b).bench = s.bench := rfl
@[simp] theorem State.flag_pmc (f : Fld) (b : Nat) : (s.flag f b).pmc = s.pmc := rfl
@[simp] theorem State.flag_tst (f : Fld) (b : Nat) : (s.flag f b).tst = s.tst := rfl
@[simp] theorem State.flag_pio (f : Fld) (b : Nat) : (s.flag f b).pio = s.pio := rfl
@[simp] theorem State.flag_smArmed (f : Fld) (b : Nat) : (s.flag f b).smArmed = s.smArmed := rfl
@[simp] theorem State.flag_mram (f : Fld) (b : Nat) : (s.flag f b).mram = s.mram := rfl
@[simp] theorem State.flag_nand (f : Fld) (b : Nat) : (s.flag f b).nand = s.nand := rfl
@[simp] theorem State.flag_up (f : Fld) (b : Nat) : (s.flag f b).up = s.up := rfl
@[simp] theorem State.flag_fv (f : Fld) (b : Nat) : (s.flag f b).fv = s.fv := rfl
@[simp] theorem State.flag_out (f : Fld) (b : Nat) : (s.flag f b).out = s.out := rfl
@[simp] theorem State.flag_pending (f : Fld) (b : Nat) : (s.flag f b).pending = s.pending := rfl

@[simp] theorem State.wr64_pwr (f : Fld) (v : Nat) : (s.wr64 f v).pwr = s.pwr := rfl
@[simp] theorem State.wr64_dom (f : Fld) (v : Nat) : (s.wr64 f v).dom = s.dom := rfl
@[simp] theorem State.wr64_clv (f : Fld) (v : Nat) : (s.wr64 f v).clv = s.clv := rfl
@[simp] theorem State.wr64_ports (f : Fld) (v : Nat) : (s.wr64 f v).ports = s.ports := rfl
@[simp] theorem State.wr64_dup (f : Fld) (v : Nat) : (s.wr64 f v).dup = s.dup := rfl
@[simp] theorem State.wr64_dupNext (f : Fld) (v : Nat) : (s.wr64 f v).dupNext = s.dupNext := rfl
@[simp] theorem State.wr64_ing (f : Fld) (v : Nat) : (s.wr64 f v).ing = s.ing := rfl
@[simp] theorem State.wr64_chs (f : Fld) (v : Nat) : (s.wr64 f v).chs = s.chs := rfl
@[simp] theorem State.wr64_snr (f : Fld) (v : Nat) : (s.wr64 f v).snr = s.snr := rfl
@[simp] theorem State.wr64_mbx (f : Fld) (v : Nat) : (s.wr64 f v).mbx = s.mbx := rfl
@[simp] theorem State.wr64_img (f : Fld) (v : Nat) : (s.wr64 f v).img = s.img := rfl
@[simp] theorem State.wr64_oldImg (f : Fld) (v : Nat) : (s.wr64 f v).oldImg = s.oldImg := rfl
@[simp] theorem State.wr64_swap (f : Fld) (v : Nat) : (s.wr64 f v).swap = s.swap := rfl
@[simp] theorem State.wr64_swapTick (f : Fld) (v : Nat) : (s.wr64 f v).swapTick = s.swapTick := rfl
@[simp] theorem State.wr64_pgh (f : Fld) (v : Nat) : (s.wr64 f v).pgh = s.pgh := rfl
@[simp] theorem State.wr64_tmb (f : Fld) (v : Nat) : (s.wr64 f v).tmb = s.tmb := rfl
@[simp] theorem State.wr64_spec (f : Fld) (v : Nat) : (s.wr64 f v).spec = s.spec := rfl
@[simp] theorem State.wr64_coh (f : Fld) (v : Nat) : (s.wr64 f v).coh = s.coh := rfl
@[simp] theorem State.wr64_alm (f : Fld) (v : Nat) : (s.wr64 f v).alm = s.alm := rfl
@[simp] theorem State.wr64_acc (f : Fld) (v : Nat) : (s.wr64 f v).acc = s.acc := rfl
@[simp] theorem State.wr64_egr (f : Fld) (v : Nat) : (s.wr64 f v).egr = s.egr := rfl
@[simp] theorem State.wr64_lmf (f : Fld) (v : Nat) : (s.wr64 f v).lmf = s.lmf := rfl
@[simp] theorem State.wr64_pair (f : Fld) (v : Nat) : (s.wr64 f v).pair = s.pair := rfl
@[simp] theorem State.wr64_bur (f : Fld) (v : Nat) : (s.wr64 f v).bur = s.bur := rfl
@[simp] theorem State.wr64_bench (f : Fld) (v : Nat) : (s.wr64 f v).bench = s.bench := rfl
@[simp] theorem State.wr64_pmc (f : Fld) (v : Nat) : (s.wr64 f v).pmc = s.pmc := rfl
@[simp] theorem State.wr64_tst (f : Fld) (v : Nat) : (s.wr64 f v).tst = s.tst := rfl
@[simp] theorem State.wr64_pio (f : Fld) (v : Nat) : (s.wr64 f v).pio = s.pio := rfl
@[simp] theorem State.wr64_smArmed (f : Fld) (v : Nat) : (s.wr64 f v).smArmed = s.smArmed := rfl
@[simp] theorem State.wr64_mram (f : Fld) (v : Nat) : (s.wr64 f v).mram = s.mram := rfl
@[simp] theorem State.wr64_nand (f : Fld) (v : Nat) : (s.wr64 f v).nand = s.nand := rfl
@[simp] theorem State.wr64_up (f : Fld) (v : Nat) : (s.wr64 f v).up = s.up := rfl
@[simp] theorem State.wr64_fv (f : Fld) (v : Nat) : (s.wr64 f v).fv = s.fv := rfl
@[simp] theorem State.wr64_out (f : Fld) (v : Nat) : (s.wr64 f v).out = s.out := rfl
@[simp] theorem State.wr64_pending (f : Fld) (v : Nat) : (s.wr64 f v).pending = s.pending := rfl

@[simp] theorem State.emit_regs (e : Emission) : (s.emit e).regs = s.regs := rfl
@[simp] theorem State.emit_pwr (e : Emission) : (s.emit e).pwr = s.pwr := rfl
@[simp] theorem State.emit_dom (e : Emission) : (s.emit e).dom = s.dom := rfl
@[simp] theorem State.emit_clv (e : Emission) : (s.emit e).clv = s.clv := rfl
@[simp] theorem State.emit_ports (e : Emission) : (s.emit e).ports = s.ports := rfl
@[simp] theorem State.emit_dup (e : Emission) : (s.emit e).dup = s.dup := rfl
@[simp] theorem State.emit_dupNext (e : Emission) : (s.emit e).dupNext = s.dupNext := rfl
@[simp] theorem State.emit_ing (e : Emission) : (s.emit e).ing = s.ing := rfl
@[simp] theorem State.emit_chs (e : Emission) : (s.emit e).chs = s.chs := rfl
@[simp] theorem State.emit_snr (e : Emission) : (s.emit e).snr = s.snr := rfl
@[simp] theorem State.emit_mbx (e : Emission) : (s.emit e).mbx = s.mbx := rfl
@[simp] theorem State.emit_img (e : Emission) : (s.emit e).img = s.img := rfl
@[simp] theorem State.emit_oldImg (e : Emission) : (s.emit e).oldImg = s.oldImg := rfl
@[simp] theorem State.emit_swap (e : Emission) : (s.emit e).swap = s.swap := rfl
@[simp] theorem State.emit_swapTick (e : Emission) : (s.emit e).swapTick = s.swapTick := rfl
@[simp] theorem State.emit_pgh (e : Emission) : (s.emit e).pgh = s.pgh := rfl
@[simp] theorem State.emit_tmb (e : Emission) : (s.emit e).tmb = s.tmb := rfl
@[simp] theorem State.emit_spec (e : Emission) : (s.emit e).spec = s.spec := rfl
@[simp] theorem State.emit_coh (e : Emission) : (s.emit e).coh = s.coh := rfl
@[simp] theorem State.emit_alm (e : Emission) : (s.emit e).alm = s.alm := rfl
@[simp] theorem State.emit_acc (e : Emission) : (s.emit e).acc = s.acc := rfl
@[simp] theorem State.emit_egr (e : Emission) : (s.emit e).egr = s.egr := rfl
@[simp] theorem State.emit_lmf (e : Emission) : (s.emit e).lmf = s.lmf := rfl
@[simp] theorem State.emit_pair (e : Emission) : (s.emit e).pair = s.pair := rfl
@[simp] theorem State.emit_bur (e : Emission) : (s.emit e).bur = s.bur := rfl
@[simp] theorem State.emit_bench (e : Emission) : (s.emit e).bench = s.bench := rfl
@[simp] theorem State.emit_pmc (e : Emission) : (s.emit e).pmc = s.pmc := rfl
@[simp] theorem State.emit_tst (e : Emission) : (s.emit e).tst = s.tst := rfl
@[simp] theorem State.emit_pio (e : Emission) : (s.emit e).pio = s.pio := rfl
@[simp] theorem State.emit_smArmed (e : Emission) : (s.emit e).smArmed = s.smArmed := rfl
@[simp] theorem State.emit_mram (e : Emission) : (s.emit e).mram = s.mram := rfl
@[simp] theorem State.emit_nand (e : Emission) : (s.emit e).nand = s.nand := rfl
@[simp] theorem State.emit_up (e : Emission) : (s.emit e).up = s.up := rfl
@[simp] theorem State.emit_fv (e : Emission) : (s.emit e).fv = s.fv := rfl
@[simp] theorem State.emit_pending (e : Emission) : (s.emit e).pending = s.pending := rfl
@[simp] theorem State.emit_rd (e : Emission) (g : Fld) : (s.emit e).rd g = s.rd g := rfl

@[simp] theorem State.emits_regs (e : List Emission) : (s.emits e).regs = s.regs := rfl
@[simp] theorem State.emits_pwr (e : List Emission) : (s.emits e).pwr = s.pwr := rfl
@[simp] theorem State.emits_dom (e : List Emission) : (s.emits e).dom = s.dom := rfl
@[simp] theorem State.emits_clv (e : List Emission) : (s.emits e).clv = s.clv := rfl
@[simp] theorem State.emits_ports (e : List Emission) : (s.emits e).ports = s.ports := rfl
@[simp] theorem State.emits_dup (e : List Emission) : (s.emits e).dup = s.dup := rfl
@[simp] theorem State.emits_dupNext (e : List Emission) : (s.emits e).dupNext = s.dupNext := rfl
@[simp] theorem State.emits_ing (e : List Emission) : (s.emits e).ing = s.ing := rfl
@[simp] theorem State.emits_chs (e : List Emission) : (s.emits e).chs = s.chs := rfl
@[simp] theorem State.emits_snr (e : List Emission) : (s.emits e).snr = s.snr := rfl
@[simp] theorem State.emits_mbx (e : List Emission) : (s.emits e).mbx = s.mbx := rfl
@[simp] theorem State.emits_img (e : List Emission) : (s.emits e).img = s.img := rfl
@[simp] theorem State.emits_oldImg (e : List Emission) : (s.emits e).oldImg = s.oldImg := rfl
@[simp] theorem State.emits_swap (e : List Emission) : (s.emits e).swap = s.swap := rfl
@[simp] theorem State.emits_swapTick (e : List Emission) : (s.emits e).swapTick = s.swapTick := rfl
@[simp] theorem State.emits_pgh (e : List Emission) : (s.emits e).pgh = s.pgh := rfl
@[simp] theorem State.emits_tmb (e : List Emission) : (s.emits e).tmb = s.tmb := rfl
@[simp] theorem State.emits_spec (e : List Emission) : (s.emits e).spec = s.spec := rfl
@[simp] theorem State.emits_coh (e : List Emission) : (s.emits e).coh = s.coh := rfl
@[simp] theorem State.emits_alm (e : List Emission) : (s.emits e).alm = s.alm := rfl
@[simp] theorem State.emits_acc (e : List Emission) : (s.emits e).acc = s.acc := rfl
@[simp] theorem State.emits_egr (e : List Emission) : (s.emits e).egr = s.egr := rfl
@[simp] theorem State.emits_lmf (e : List Emission) : (s.emits e).lmf = s.lmf := rfl
@[simp] theorem State.emits_pair (e : List Emission) : (s.emits e).pair = s.pair := rfl
@[simp] theorem State.emits_bur (e : List Emission) : (s.emits e).bur = s.bur := rfl
@[simp] theorem State.emits_bench (e : List Emission) : (s.emits e).bench = s.bench := rfl
@[simp] theorem State.emits_pmc (e : List Emission) : (s.emits e).pmc = s.pmc := rfl
@[simp] theorem State.emits_tst (e : List Emission) : (s.emits e).tst = s.tst := rfl
@[simp] theorem State.emits_pio (e : List Emission) : (s.emits e).pio = s.pio := rfl
@[simp] theorem State.emits_smArmed (e : List Emission) : (s.emits e).smArmed = s.smArmed := rfl
@[simp] theorem State.emits_mram (e : List Emission) : (s.emits e).mram = s.mram := rfl
@[simp] theorem State.emits_nand (e : List Emission) : (s.emits e).nand = s.nand := rfl
@[simp] theorem State.emits_up (e : List Emission) : (s.emits e).up = s.up := rfl
@[simp] theorem State.emits_fv (e : List Emission) : (s.emits e).fv = s.fv := rfl
@[simp] theorem State.emits_pending (e : List Emission) : (s.emits e).pending = s.pending := rfl
@[simp] theorem State.emits_rd (e : List Emission) (g : Fld) : (s.emits e).rd g = s.rd g := rfl

@[simp] theorem State.nextFree_regs : s.nextFree.regs = s.regs := rfl
@[simp] theorem State.nextFree_pwr : s.nextFree.pwr = s.pwr := rfl
@[simp] theorem State.nextFree_dom : s.nextFree.dom = s.dom := rfl
@[simp] theorem State.nextFree_clv : s.nextFree.clv = s.clv := rfl
@[simp] theorem State.nextFree_ports : s.nextFree.ports = s.ports := rfl
@[simp] theorem State.nextFree_dup : s.nextFree.dup = s.dup := rfl
@[simp] theorem State.nextFree_dupNext : s.nextFree.dupNext = s.dupNext := rfl
@[simp] theorem State.nextFree_ing : s.nextFree.ing = s.ing := rfl
@[simp] theorem State.nextFree_chs : s.nextFree.chs = s.chs := rfl
@[simp] theorem State.nextFree_snr : s.nextFree.snr = s.snr := rfl
@[simp] theorem State.nextFree_mbx : s.nextFree.mbx = s.mbx := rfl
@[simp] theorem State.nextFree_img : s.nextFree.img = s.img := rfl
@[simp] theorem State.nextFree_oldImg : s.nextFree.oldImg = s.oldImg := rfl
@[simp] theorem State.nextFree_swap : s.nextFree.swap = s.swap := rfl
@[simp] theorem State.nextFree_swapTick : s.nextFree.swapTick = s.swapTick := rfl
@[simp] theorem State.nextFree_pgh : s.nextFree.pgh = s.pgh := rfl
@[simp] theorem State.nextFree_tmb : s.nextFree.tmb = s.tmb := rfl
@[simp] theorem State.nextFree_spec : s.nextFree.spec = s.spec := rfl
@[simp] theorem State.nextFree_coh : s.nextFree.coh = s.coh := rfl
@[simp] theorem State.nextFree_alm : s.nextFree.alm = s.alm := rfl
@[simp] theorem State.nextFree_acc : s.nextFree.acc = s.acc := rfl
@[simp] theorem State.nextFree_egr : s.nextFree.egr = s.egr := rfl
@[simp] theorem State.nextFree_lmf : s.nextFree.lmf = s.lmf := rfl
@[simp] theorem State.nextFree_pair : s.nextFree.pair = s.pair := rfl
@[simp] theorem State.nextFree_bur : s.nextFree.bur = s.bur := rfl
@[simp] theorem State.nextFree_bench : s.nextFree.bench = s.bench := rfl
@[simp] theorem State.nextFree_pmc : s.nextFree.pmc = s.pmc := rfl
@[simp] theorem State.nextFree_tst : s.nextFree.tst = s.tst := rfl
@[simp] theorem State.nextFree_pio : s.nextFree.pio = s.pio := rfl
@[simp] theorem State.nextFree_smArmed : s.nextFree.smArmed = s.smArmed := rfl
@[simp] theorem State.nextFree_mram : s.nextFree.mram = s.mram := rfl
@[simp] theorem State.nextFree_nand : s.nextFree.nand = s.nand := rfl
@[simp] theorem State.nextFree_up : s.nextFree.up = s.up := rfl
@[simp] theorem State.nextFree_out : s.nextFree.out = s.out := rfl
@[simp] theorem State.nextFree_pending : s.nextFree.pending = s.pending := rfl
@[simp] theorem State.nextFree_rd (g : Fld) : s.nextFree.rd g = s.rd g := rfl

@[simp] theorem State.setAcc_regs (a : Acc) : (s.setAcc a).regs = s.regs := rfl
@[simp] theorem State.setAcc_pwr (a : Acc) : (s.setAcc a).pwr = s.pwr := rfl
@[simp] theorem State.setAcc_dom (a : Acc) : (s.setAcc a).dom = s.dom := rfl
@[simp] theorem State.setAcc_clv (a : Acc) : (s.setAcc a).clv = s.clv := rfl
@[simp] theorem State.setAcc_ports (a : Acc) : (s.setAcc a).ports = s.ports := rfl
@[simp] theorem State.setAcc_dup (a : Acc) : (s.setAcc a).dup = s.dup := rfl
@[simp] theorem State.setAcc_dupNext (a : Acc) : (s.setAcc a).dupNext = s.dupNext := rfl
@[simp] theorem State.setAcc_ing (a : Acc) : (s.setAcc a).ing = s.ing := rfl
@[simp] theorem State.setAcc_chs (a : Acc) : (s.setAcc a).chs = s.chs := rfl
@[simp] theorem State.setAcc_snr (a : Acc) : (s.setAcc a).snr = s.snr := rfl
@[simp] theorem State.setAcc_mbx (a : Acc) : (s.setAcc a).mbx = s.mbx := rfl
@[simp] theorem State.setAcc_img (a : Acc) : (s.setAcc a).img = s.img := rfl
@[simp] theorem State.setAcc_oldImg (a : Acc) : (s.setAcc a).oldImg = s.oldImg := rfl
@[simp] theorem State.setAcc_swap (a : Acc) : (s.setAcc a).swap = s.swap := rfl
@[simp] theorem State.setAcc_swapTick (a : Acc) : (s.setAcc a).swapTick = s.swapTick := rfl
@[simp] theorem State.setAcc_pgh (a : Acc) : (s.setAcc a).pgh = s.pgh := rfl
@[simp] theorem State.setAcc_tmb (a : Acc) : (s.setAcc a).tmb = s.tmb := rfl
@[simp] theorem State.setAcc_spec (a : Acc) : (s.setAcc a).spec = s.spec := rfl
@[simp] theorem State.setAcc_coh (a : Acc) : (s.setAcc a).coh = s.coh := rfl
@[simp] theorem State.setAcc_alm (a : Acc) : (s.setAcc a).alm = s.alm := rfl
@[simp] theorem State.setAcc_egr (a : Acc) : (s.setAcc a).egr = s.egr := rfl
@[simp] theorem State.setAcc_lmf (a : Acc) : (s.setAcc a).lmf = s.lmf := rfl
@[simp] theorem State.setAcc_pair (a : Acc) : (s.setAcc a).pair = s.pair := rfl
@[simp] theorem State.setAcc_bur (a : Acc) : (s.setAcc a).bur = s.bur := rfl
@[simp] theorem State.setAcc_bench (a : Acc) : (s.setAcc a).bench = s.bench := rfl
@[simp] theorem State.setAcc_pmc (a : Acc) : (s.setAcc a).pmc = s.pmc := rfl
@[simp] theorem State.setAcc_tst (a : Acc) : (s.setAcc a).tst = s.tst := rfl
@[simp] theorem State.setAcc_pio (a : Acc) : (s.setAcc a).pio = s.pio := rfl
@[simp] theorem State.setAcc_smArmed (a : Acc) : (s.setAcc a).smArmed = s.smArmed := rfl
@[simp] theorem State.setAcc_mram (a : Acc) : (s.setAcc a).mram = s.mram := rfl
@[simp] theorem State.setAcc_nand (a : Acc) : (s.setAcc a).nand = s.nand := rfl
@[simp] theorem State.setAcc_up (a : Acc) : (s.setAcc a).up = s.up := rfl
@[simp] theorem State.setAcc_fv (a : Acc) : (s.setAcc a).fv = s.fv := rfl
@[simp] theorem State.setAcc_out (a : Acc) : (s.setAcc a).out = s.out := rfl
@[simp] theorem State.setAcc_pending (a : Acc) : (s.setAcc a).pending = s.pending := rfl
@[simp] theorem State.setAcc_rd (a : Acc) (g : Fld) : (s.setAcc a).rd g = s.rd g := rfl
@[simp] theorem State.setAcc_self (a : Acc) : (s.setAcc a).acc = a := rfl

@[simp] theorem State.setAccM_regs (a : AccMram) : (s.setAccM a).regs = s.regs := rfl
@[simp] theorem State.setAccM_pwr (a : AccMram) : (s.setAccM a).pwr = s.pwr := rfl
@[simp] theorem State.setAccM_dom (a : AccMram) : (s.setAccM a).dom = s.dom := rfl
@[simp] theorem State.setAccM_clv (a : AccMram) : (s.setAccM a).clv = s.clv := rfl
@[simp] theorem State.setAccM_ports (a : AccMram) : (s.setAccM a).ports = s.ports := rfl
@[simp] theorem State.setAccM_dup (a : AccMram) : (s.setAccM a).dup = s.dup := rfl
@[simp] theorem State.setAccM_dupNext (a : AccMram) : (s.setAccM a).dupNext = s.dupNext := rfl
@[simp] theorem State.setAccM_ing (a : AccMram) : (s.setAccM a).ing = s.ing := rfl
@[simp] theorem State.setAccM_chs (a : AccMram) : (s.setAccM a).chs = s.chs := rfl
@[simp] theorem State.setAccM_snr (a : AccMram) : (s.setAccM a).snr = s.snr := rfl
@[simp] theorem State.setAccM_mbx (a : AccMram) : (s.setAccM a).mbx = s.mbx := rfl
@[simp] theorem State.setAccM_img (a : AccMram) : (s.setAccM a).img = s.img := rfl
@[simp] theorem State.setAccM_oldImg (a : AccMram) : (s.setAccM a).oldImg = s.oldImg := rfl
@[simp] theorem State.setAccM_swap (a : AccMram) : (s.setAccM a).swap = s.swap := rfl
@[simp] theorem State.setAccM_swapTick (a : AccMram) : (s.setAccM a).swapTick = s.swapTick := rfl
@[simp] theorem State.setAccM_pgh (a : AccMram) : (s.setAccM a).pgh = s.pgh := rfl
@[simp] theorem State.setAccM_tmb (a : AccMram) : (s.setAccM a).tmb = s.tmb := rfl
@[simp] theorem State.setAccM_spec (a : AccMram) : (s.setAccM a).spec = s.spec := rfl
@[simp] theorem State.setAccM_coh (a : AccMram) : (s.setAccM a).coh = s.coh := rfl
@[simp] theorem State.setAccM_alm (a : AccMram) : (s.setAccM a).alm = s.alm := rfl
@[simp] theorem State.setAccM_acc (a : AccMram) : (s.setAccM a).acc = s.acc := rfl
@[simp] theorem State.setAccM_egr (a : AccMram) : (s.setAccM a).egr = s.egr := rfl
@[simp] theorem State.setAccM_lmf (a : AccMram) : (s.setAccM a).lmf = s.lmf := rfl
@[simp] theorem State.setAccM_pair (a : AccMram) : (s.setAccM a).pair = s.pair := rfl
@[simp] theorem State.setAccM_bur (a : AccMram) : (s.setAccM a).bur = s.bur := rfl
@[simp] theorem State.setAccM_bench (a : AccMram) : (s.setAccM a).bench = s.bench := rfl
@[simp] theorem State.setAccM_pmc (a : AccMram) : (s.setAccM a).pmc = s.pmc := rfl
@[simp] theorem State.setAccM_tst (a : AccMram) : (s.setAccM a).tst = s.tst := rfl
@[simp] theorem State.setAccM_pio (a : AccMram) : (s.setAccM a).pio = s.pio := rfl
@[simp] theorem State.setAccM_smArmed (a : AccMram) : (s.setAccM a).smArmed = s.smArmed := rfl
@[simp] theorem State.setAccM_nand (a : AccMram) : (s.setAccM a).nand = s.nand := rfl
@[simp] theorem State.setAccM_up (a : AccMram) : (s.setAccM a).up = s.up := rfl
@[simp] theorem State.setAccM_fv (a : AccMram) : (s.setAccM a).fv = s.fv := rfl
@[simp] theorem State.setAccM_out (a : AccMram) : (s.setAccM a).out = s.out := rfl
@[simp] theorem State.setAccM_pending (a : AccMram) : (s.setAccM a).pending = s.pending := rfl
@[simp] theorem State.setAccM_rd (a : AccMram) (g : Fld) : (s.setAccM a).rd g = s.rd g := rfl

@[simp] theorem State.setAlm_regs (a : Alm) : (s.setAlm a).regs = s.regs := rfl
@[simp] theorem State.setAlm_pwr (a : Alm) : (s.setAlm a).pwr = s.pwr := rfl
@[simp] theorem State.setAlm_dom (a : Alm) : (s.setAlm a).dom = s.dom := rfl
@[simp] theorem State.setAlm_clv (a : Alm) : (s.setAlm a).clv = s.clv := rfl
@[simp] theorem State.setAlm_ports (a : Alm) : (s.setAlm a).ports = s.ports := rfl
@[simp] theorem State.setAlm_dup (a : Alm) : (s.setAlm a).dup = s.dup := rfl
@[simp] theorem State.setAlm_dupNext (a : Alm) : (s.setAlm a).dupNext = s.dupNext := rfl
@[simp] theorem State.setAlm_ing (a : Alm) : (s.setAlm a).ing = s.ing := rfl
@[simp] theorem State.setAlm_chs (a : Alm) : (s.setAlm a).chs = s.chs := rfl
@[simp] theorem State.setAlm_snr (a : Alm) : (s.setAlm a).snr = s.snr := rfl
@[simp] theorem State.setAlm_mbx (a : Alm) : (s.setAlm a).mbx = s.mbx := rfl
@[simp] theorem State.setAlm_img (a : Alm) : (s.setAlm a).img = s.img := rfl
@[simp] theorem State.setAlm_oldImg (a : Alm) : (s.setAlm a).oldImg = s.oldImg := rfl
@[simp] theorem State.setAlm_swap (a : Alm) : (s.setAlm a).swap = s.swap := rfl
@[simp] theorem State.setAlm_swapTick (a : Alm) : (s.setAlm a).swapTick = s.swapTick := rfl
@[simp] theorem State.setAlm_pgh (a : Alm) : (s.setAlm a).pgh = s.pgh := rfl
@[simp] theorem State.setAlm_tmb (a : Alm) : (s.setAlm a).tmb = s.tmb := rfl
@[simp] theorem State.setAlm_spec (a : Alm) : (s.setAlm a).spec = s.spec := rfl
@[simp] theorem State.setAlm_coh (a : Alm) : (s.setAlm a).coh = s.coh := rfl
@[simp] theorem State.setAlm_acc (a : Alm) : (s.setAlm a).acc = s.acc := rfl
@[simp] theorem State.setAlm_egr (a : Alm) : (s.setAlm a).egr = s.egr := rfl
@[simp] theorem State.setAlm_lmf (a : Alm) : (s.setAlm a).lmf = s.lmf := rfl
@[simp] theorem State.setAlm_pair (a : Alm) : (s.setAlm a).pair = s.pair := rfl
@[simp] theorem State.setAlm_bur (a : Alm) : (s.setAlm a).bur = s.bur := rfl
@[simp] theorem State.setAlm_bench (a : Alm) : (s.setAlm a).bench = s.bench := rfl
@[simp] theorem State.setAlm_pmc (a : Alm) : (s.setAlm a).pmc = s.pmc := rfl
@[simp] theorem State.setAlm_tst (a : Alm) : (s.setAlm a).tst = s.tst := rfl
@[simp] theorem State.setAlm_pio (a : Alm) : (s.setAlm a).pio = s.pio := rfl
@[simp] theorem State.setAlm_smArmed (a : Alm) : (s.setAlm a).smArmed = s.smArmed := rfl
@[simp] theorem State.setAlm_mram (a : Alm) : (s.setAlm a).mram = s.mram := rfl
@[simp] theorem State.setAlm_nand (a : Alm) : (s.setAlm a).nand = s.nand := rfl
@[simp] theorem State.setAlm_up (a : Alm) : (s.setAlm a).up = s.up := rfl
@[simp] theorem State.setAlm_fv (a : Alm) : (s.setAlm a).fv = s.fv := rfl
@[simp] theorem State.setAlm_out (a : Alm) : (s.setAlm a).out = s.out := rfl
@[simp] theorem State.setAlm_pending (a : Alm) : (s.setAlm a).pending = s.pending := rfl
@[simp] theorem State.setAlm_rd (a : Alm) (g : Fld) : (s.setAlm a).rd g = s.rd g := rfl
@[simp] theorem State.setAlm_self (a : Alm) : (s.setAlm a).alm = a := rfl

@[simp] theorem State.setBench_regs (b : Bench) : (s.setBench b).regs = s.regs := rfl
@[simp] theorem State.setBench_pwr (b : Bench) : (s.setBench b).pwr = s.pwr := rfl
@[simp] theorem State.setBench_dom (b : Bench) : (s.setBench b).dom = s.dom := rfl
@[simp] theorem State.setBench_clv (b : Bench) : (s.setBench b).clv = s.clv := rfl
@[simp] theorem State.setBench_ports (b : Bench) : (s.setBench b).ports = s.ports := rfl
@[simp] theorem State.setBench_dup (b : Bench) : (s.setBench b).dup = s.dup := rfl
@[simp] theorem State.setBench_dupNext (b : Bench) : (s.setBench b).dupNext = s.dupNext := rfl
@[simp] theorem State.setBench_ing (b : Bench) : (s.setBench b).ing = s.ing := rfl
@[simp] theorem State.setBench_chs (b : Bench) : (s.setBench b).chs = s.chs := rfl
@[simp] theorem State.setBench_snr (b : Bench) : (s.setBench b).snr = s.snr := rfl
@[simp] theorem State.setBench_mbx (b : Bench) : (s.setBench b).mbx = s.mbx := rfl
@[simp] theorem State.setBench_img (b : Bench) : (s.setBench b).img = s.img := rfl
@[simp] theorem State.setBench_oldImg (b : Bench) : (s.setBench b).oldImg = s.oldImg := rfl
@[simp] theorem State.setBench_swap (b : Bench) : (s.setBench b).swap = s.swap := rfl
@[simp] theorem State.setBench_swapTick (b : Bench) : (s.setBench b).swapTick = s.swapTick := rfl
@[simp] theorem State.setBench_pgh (b : Bench) : (s.setBench b).pgh = s.pgh := rfl
@[simp] theorem State.setBench_tmb (b : Bench) : (s.setBench b).tmb = s.tmb := rfl
@[simp] theorem State.setBench_spec (b : Bench) : (s.setBench b).spec = s.spec := rfl
@[simp] theorem State.setBench_coh (b : Bench) : (s.setBench b).coh = s.coh := rfl
@[simp] theorem State.setBench_alm (b : Bench) : (s.setBench b).alm = s.alm := rfl
@[simp] theorem State.setBench_acc (b : Bench) : (s.setBench b).acc = s.acc := rfl
@[simp] theorem State.setBench_egr (b : Bench) : (s.setBench b).egr = s.egr := rfl
@[simp] theorem State.setBench_lmf (b : Bench) : (s.setBench b).lmf = s.lmf := rfl
@[simp] theorem State.setBench_pair (b : Bench) : (s.setBench b).pair = s.pair := rfl
@[simp] theorem State.setBench_bur (b : Bench) : (s.setBench b).bur = s.bur := rfl
@[simp] theorem State.setBench_pmc (b : Bench) : (s.setBench b).pmc = s.pmc := rfl
@[simp] theorem State.setBench_tst (b : Bench) : (s.setBench b).tst = s.tst := rfl
@[simp] theorem State.setBench_pio (b : Bench) : (s.setBench b).pio = s.pio := rfl
@[simp] theorem State.setBench_smArmed (b : Bench) : (s.setBench b).smArmed = s.smArmed := rfl
@[simp] theorem State.setBench_mram (b : Bench) : (s.setBench b).mram = s.mram := rfl
@[simp] theorem State.setBench_nand (b : Bench) : (s.setBench b).nand = s.nand := rfl
@[simp] theorem State.setBench_up (b : Bench) : (s.setBench b).up = s.up := rfl
@[simp] theorem State.setBench_fv (b : Bench) : (s.setBench b).fv = s.fv := rfl
@[simp] theorem State.setBench_out (b : Bench) : (s.setBench b).out = s.out := rfl
@[simp] theorem State.setBench_pending (b : Bench) : (s.setBench b).pending = s.pending := rfl
@[simp] theorem State.setBench_rd (b : Bench) (g : Fld) : (s.setBench b).rd g = s.rd g := rfl
@[simp] theorem State.setBench_self (b : Bench) : (s.setBench b).bench = b := rfl

@[simp] theorem State.setBur_regs (b : Bur) : (s.setBur b).regs = s.regs := rfl
@[simp] theorem State.setBur_pwr (b : Bur) : (s.setBur b).pwr = s.pwr := rfl
@[simp] theorem State.setBur_dom (b : Bur) : (s.setBur b).dom = s.dom := rfl
@[simp] theorem State.setBur_clv (b : Bur) : (s.setBur b).clv = s.clv := rfl
@[simp] theorem State.setBur_ports (b : Bur) : (s.setBur b).ports = s.ports := rfl
@[simp] theorem State.setBur_dup (b : Bur) : (s.setBur b).dup = s.dup := rfl
@[simp] theorem State.setBur_dupNext (b : Bur) : (s.setBur b).dupNext = s.dupNext := rfl
@[simp] theorem State.setBur_ing (b : Bur) : (s.setBur b).ing = s.ing := rfl
@[simp] theorem State.setBur_chs (b : Bur) : (s.setBur b).chs = s.chs := rfl
@[simp] theorem State.setBur_snr (b : Bur) : (s.setBur b).snr = s.snr := rfl
@[simp] theorem State.setBur_mbx (b : Bur) : (s.setBur b).mbx = s.mbx := rfl
@[simp] theorem State.setBur_img (b : Bur) : (s.setBur b).img = s.img := rfl
@[simp] theorem State.setBur_oldImg (b : Bur) : (s.setBur b).oldImg = s.oldImg := rfl
@[simp] theorem State.setBur_swap (b : Bur) : (s.setBur b).swap = s.swap := rfl
@[simp] theorem State.setBur_swapTick (b : Bur) : (s.setBur b).swapTick = s.swapTick := rfl
@[simp] theorem State.setBur_pgh (b : Bur) : (s.setBur b).pgh = s.pgh := rfl
@[simp] theorem State.setBur_tmb (b : Bur) : (s.setBur b).tmb = s.tmb := rfl
@[simp] theorem State.setBur_spec (b : Bur) : (s.setBur b).spec = s.spec := rfl
@[simp] theorem State.setBur_coh (b : Bur) : (s.setBur b).coh = s.coh := rfl
@[simp] theorem State.setBur_alm (b : Bur) : (s.setBur b).alm = s.alm := rfl
@[simp] theorem State.setBur_acc (b : Bur) : (s.setBur b).acc = s.acc := rfl
@[simp] theorem State.setBur_egr (b : Bur) : (s.setBur b).egr = s.egr := rfl
@[simp] theorem State.setBur_lmf (b : Bur) : (s.setBur b).lmf = s.lmf := rfl
@[simp] theorem State.setBur_pair (b : Bur) : (s.setBur b).pair = s.pair := rfl
@[simp] theorem State.setBur_bench (b : Bur) : (s.setBur b).bench = s.bench := rfl
@[simp] theorem State.setBur_pmc (b : Bur) : (s.setBur b).pmc = s.pmc := rfl
@[simp] theorem State.setBur_tst (b : Bur) : (s.setBur b).tst = s.tst := rfl
@[simp] theorem State.setBur_pio (b : Bur) : (s.setBur b).pio = s.pio := rfl
@[simp] theorem State.setBur_smArmed (b : Bur) : (s.setBur b).smArmed = s.smArmed := rfl
@[simp] theorem State.setBur_mram (b : Bur) : (s.setBur b).mram = s.mram := rfl
@[simp] theorem State.setBur_nand (b : Bur) : (s.setBur b).nand = s.nand := rfl
@[simp] theorem State.setBur_up (b : Bur) : (s.setBur b).up = s.up := rfl
@[simp] theorem State.setBur_fv (b : Bur) : (s.setBur b).fv = s.fv := rfl
@[simp] theorem State.setBur_out (b : Bur) : (s.setBur b).out = s.out := rfl
@[simp] theorem State.setBur_pending (b : Bur) : (s.setBur b).pending = s.pending := rfl
@[simp] theorem State.setBur_rd (b : Bur) (g : Fld) : (s.setBur b).rd g = s.rd g := rfl
@[simp] theorem State.setBur_self (b : Bur) : (s.setBur b).bur = b := rfl

@[simp] theorem State.setBurM_regs (b : BurMram) : (s.setBurM b).regs = s.regs := rfl
@[simp] theorem State.setBurM_pwr (b : BurMram) : (s.setBurM b).pwr = s.pwr := rfl
@[simp] theorem State.setBurM_dom (b : BurMram) : (s.setBurM b).dom = s.dom := rfl
@[simp] theorem State.setBurM_clv (b : BurMram) : (s.setBurM b).clv = s.clv := rfl
@[simp] theorem State.setBurM_ports (b : BurMram) : (s.setBurM b).ports = s.ports := rfl
@[simp] theorem State.setBurM_dup (b : BurMram) : (s.setBurM b).dup = s.dup := rfl
@[simp] theorem State.setBurM_dupNext (b : BurMram) : (s.setBurM b).dupNext = s.dupNext := rfl
@[simp] theorem State.setBurM_ing (b : BurMram) : (s.setBurM b).ing = s.ing := rfl
@[simp] theorem State.setBurM_chs (b : BurMram) : (s.setBurM b).chs = s.chs := rfl
@[simp] theorem State.setBurM_snr (b : BurMram) : (s.setBurM b).snr = s.snr := rfl
@[simp] theorem State.setBurM_mbx (b : BurMram) : (s.setBurM b).mbx = s.mbx := rfl
@[simp] theorem State.setBurM_img (b : BurMram) : (s.setBurM b).img = s.img := rfl
@[simp] theorem State.setBurM_oldImg (b : BurMram) : (s.setBurM b).oldImg = s.oldImg := rfl
@[simp] theorem State.setBurM_swap (b : BurMram) : (s.setBurM b).swap = s.swap := rfl
@[simp] theorem State.setBurM_swapTick (b : BurMram) : (s.setBurM b).swapTick = s.swapTick := rfl
@[simp] theorem State.setBurM_pgh (b : BurMram) : (s.setBurM b).pgh = s.pgh := rfl
@[simp] theorem State.setBurM_tmb (b : BurMram) : (s.setBurM b).tmb = s.tmb := rfl
@[simp] theorem State.setBurM_spec (b : BurMram) : (s.setBurM b).spec = s.spec := rfl
@[simp] theorem State.setBurM_coh (b : BurMram) : (s.setBurM b).coh = s.coh := rfl
@[simp] theorem State.setBurM_alm (b : BurMram) : (s.setBurM b).alm = s.alm := rfl
@[simp] theorem State.setBurM_acc (b : BurMram) : (s.setBurM b).acc = s.acc := rfl
@[simp] theorem State.setBurM_egr (b : BurMram) : (s.setBurM b).egr = s.egr := rfl
@[simp] theorem State.setBurM_lmf (b : BurMram) : (s.setBurM b).lmf = s.lmf := rfl
@[simp] theorem State.setBurM_pair (b : BurMram) : (s.setBurM b).pair = s.pair := rfl
@[simp] theorem State.setBurM_bur (b : BurMram) : (s.setBurM b).bur = s.bur := rfl
@[simp] theorem State.setBurM_bench (b : BurMram) : (s.setBurM b).bench = s.bench := rfl
@[simp] theorem State.setBurM_pmc (b : BurMram) : (s.setBurM b).pmc = s.pmc := rfl
@[simp] theorem State.setBurM_tst (b : BurMram) : (s.setBurM b).tst = s.tst := rfl
@[simp] theorem State.setBurM_pio (b : BurMram) : (s.setBurM b).pio = s.pio := rfl
@[simp] theorem State.setBurM_smArmed (b : BurMram) : (s.setBurM b).smArmed = s.smArmed := rfl
@[simp] theorem State.setBurM_nand (b : BurMram) : (s.setBurM b).nand = s.nand := rfl
@[simp] theorem State.setBurM_up (b : BurMram) : (s.setBurM b).up = s.up := rfl
@[simp] theorem State.setBurM_fv (b : BurMram) : (s.setBurM b).fv = s.fv := rfl
@[simp] theorem State.setBurM_out (b : BurMram) : (s.setBurM b).out = s.out := rfl
@[simp] theorem State.setBurM_pending (b : BurMram) : (s.setBurM b).pending = s.pending := rfl
@[simp] theorem State.setBurM_rd (b : BurMram) (g : Fld) : (s.setBurM b).rd g = s.rd g := rfl

@[simp] theorem State.setClv_regs (c : Clave) : (s.setClv c).regs = s.regs := rfl
@[simp] theorem State.setClv_pwr (c : Clave) : (s.setClv c).pwr = s.pwr := rfl
@[simp] theorem State.setClv_dom (c : Clave) : (s.setClv c).dom = s.dom := rfl
@[simp] theorem State.setClv_ports (c : Clave) : (s.setClv c).ports = s.ports := rfl
@[simp] theorem State.setClv_dup (c : Clave) : (s.setClv c).dup = s.dup := rfl
@[simp] theorem State.setClv_dupNext (c : Clave) : (s.setClv c).dupNext = s.dupNext := rfl
@[simp] theorem State.setClv_ing (c : Clave) : (s.setClv c).ing = s.ing := rfl
@[simp] theorem State.setClv_chs (c : Clave) : (s.setClv c).chs = s.chs := rfl
@[simp] theorem State.setClv_snr (c : Clave) : (s.setClv c).snr = s.snr := rfl
@[simp] theorem State.setClv_mbx (c : Clave) : (s.setClv c).mbx = s.mbx := rfl
@[simp] theorem State.setClv_img (c : Clave) : (s.setClv c).img = s.img := rfl
@[simp] theorem State.setClv_oldImg (c : Clave) : (s.setClv c).oldImg = s.oldImg := rfl
@[simp] theorem State.setClv_swap (c : Clave) : (s.setClv c).swap = s.swap := rfl
@[simp] theorem State.setClv_swapTick (c : Clave) : (s.setClv c).swapTick = s.swapTick := rfl
@[simp] theorem State.setClv_pgh (c : Clave) : (s.setClv c).pgh = s.pgh := rfl
@[simp] theorem State.setClv_tmb (c : Clave) : (s.setClv c).tmb = s.tmb := rfl
@[simp] theorem State.setClv_spec (c : Clave) : (s.setClv c).spec = s.spec := rfl
@[simp] theorem State.setClv_coh (c : Clave) : (s.setClv c).coh = s.coh := rfl
@[simp] theorem State.setClv_alm (c : Clave) : (s.setClv c).alm = s.alm := rfl
@[simp] theorem State.setClv_acc (c : Clave) : (s.setClv c).acc = s.acc := rfl
@[simp] theorem State.setClv_egr (c : Clave) : (s.setClv c).egr = s.egr := rfl
@[simp] theorem State.setClv_lmf (c : Clave) : (s.setClv c).lmf = s.lmf := rfl
@[simp] theorem State.setClv_pair (c : Clave) : (s.setClv c).pair = s.pair := rfl
@[simp] theorem State.setClv_bur (c : Clave) : (s.setClv c).bur = s.bur := rfl
@[simp] theorem State.setClv_bench (c : Clave) : (s.setClv c).bench = s.bench := rfl
@[simp] theorem State.setClv_pmc (c : Clave) : (s.setClv c).pmc = s.pmc := rfl
@[simp] theorem State.setClv_tst (c : Clave) : (s.setClv c).tst = s.tst := rfl
@[simp] theorem State.setClv_pio (c : Clave) : (s.setClv c).pio = s.pio := rfl
@[simp] theorem State.setClv_smArmed (c : Clave) : (s.setClv c).smArmed = s.smArmed := rfl
@[simp] theorem State.setClv_mram (c : Clave) : (s.setClv c).mram = s.mram := rfl
@[simp] theorem State.setClv_nand (c : Clave) : (s.setClv c).nand = s.nand := rfl
@[simp] theorem State.setClv_up (c : Clave) : (s.setClv c).up = s.up := rfl
@[simp] theorem State.setClv_fv (c : Clave) : (s.setClv c).fv = s.fv := rfl
@[simp] theorem State.setClv_out (c : Clave) : (s.setClv c).out = s.out := rfl
@[simp] theorem State.setClv_pending (c : Clave) : (s.setClv c).pending = s.pending := rfl
@[simp] theorem State.setClv_rd (c : Clave) (g : Fld) : (s.setClv c).rd g = s.rd g := rfl
@[simp] theorem State.setClv_self (c : Clave) : (s.setClv c).clv = c := rfl

@[simp] theorem State.setCoh_regs (c : Coh) : (s.setCoh c).regs = s.regs := rfl
@[simp] theorem State.setCoh_pwr (c : Coh) : (s.setCoh c).pwr = s.pwr := rfl
@[simp] theorem State.setCoh_dom (c : Coh) : (s.setCoh c).dom = s.dom := rfl
@[simp] theorem State.setCoh_clv (c : Coh) : (s.setCoh c).clv = s.clv := rfl
@[simp] theorem State.setCoh_ports (c : Coh) : (s.setCoh c).ports = s.ports := rfl
@[simp] theorem State.setCoh_dup (c : Coh) : (s.setCoh c).dup = s.dup := rfl
@[simp] theorem State.setCoh_dupNext (c : Coh) : (s.setCoh c).dupNext = s.dupNext := rfl
@[simp] theorem State.setCoh_ing (c : Coh) : (s.setCoh c).ing = s.ing := rfl
@[simp] theorem State.setCoh_chs (c : Coh) : (s.setCoh c).chs = s.chs := rfl
@[simp] theorem State.setCoh_snr (c : Coh) : (s.setCoh c).snr = s.snr := rfl
@[simp] theorem State.setCoh_mbx (c : Coh) : (s.setCoh c).mbx = s.mbx := rfl
@[simp] theorem State.setCoh_img (c : Coh) : (s.setCoh c).img = s.img := rfl
@[simp] theorem State.setCoh_oldImg (c : Coh) : (s.setCoh c).oldImg = s.oldImg := rfl
@[simp] theorem State.setCoh_swap (c : Coh) : (s.setCoh c).swap = s.swap := rfl
@[simp] theorem State.setCoh_swapTick (c : Coh) : (s.setCoh c).swapTick = s.swapTick := rfl
@[simp] theorem State.setCoh_pgh (c : Coh) : (s.setCoh c).pgh = s.pgh := rfl
@[simp] theorem State.setCoh_tmb (c : Coh) : (s.setCoh c).tmb = s.tmb := rfl
@[simp] theorem State.setCoh_spec (c : Coh) : (s.setCoh c).spec = s.spec := rfl
@[simp] theorem State.setCoh_alm (c : Coh) : (s.setCoh c).alm = s.alm := rfl
@[simp] theorem State.setCoh_acc (c : Coh) : (s.setCoh c).acc = s.acc := rfl
@[simp] theorem State.setCoh_egr (c : Coh) : (s.setCoh c).egr = s.egr := rfl
@[simp] theorem State.setCoh_lmf (c : Coh) : (s.setCoh c).lmf = s.lmf := rfl
@[simp] theorem State.setCoh_pair (c : Coh) : (s.setCoh c).pair = s.pair := rfl
@[simp] theorem State.setCoh_bur (c : Coh) : (s.setCoh c).bur = s.bur := rfl
@[simp] theorem State.setCoh_bench (c : Coh) : (s.setCoh c).bench = s.bench := rfl
@[simp] theorem State.setCoh_pmc (c : Coh) : (s.setCoh c).pmc = s.pmc := rfl
@[simp] theorem State.setCoh_tst (c : Coh) : (s.setCoh c).tst = s.tst := rfl
@[simp] theorem State.setCoh_pio (c : Coh) : (s.setCoh c).pio = s.pio := rfl
@[simp] theorem State.setCoh_smArmed (c : Coh) : (s.setCoh c).smArmed = s.smArmed := rfl
@[simp] theorem State.setCoh_mram (c : Coh) : (s.setCoh c).mram = s.mram := rfl
@[simp] theorem State.setCoh_nand (c : Coh) : (s.setCoh c).nand = s.nand := rfl
@[simp] theorem State.setCoh_up (c : Coh) : (s.setCoh c).up = s.up := rfl
@[simp] theorem State.setCoh_fv (c : Coh) : (s.setCoh c).fv = s.fv := rfl
@[simp] theorem State.setCoh_out (c : Coh) : (s.setCoh c).out = s.out := rfl
@[simp] theorem State.setCoh_pending (c : Coh) : (s.setCoh c).pending = s.pending := rfl
@[simp] theorem State.setCoh_rd (c : Coh) (g : Fld) : (s.setCoh c).rd g = s.rd g := rfl
@[simp] theorem State.setCoh_self (c : Coh) : (s.setCoh c).coh = c := rfl

@[simp] theorem State.setTst_regs (t : Tst) : (s.setTst t).regs = s.regs := rfl
@[simp] theorem State.setTst_pwr (t : Tst) : (s.setTst t).pwr = s.pwr := rfl
@[simp] theorem State.setTst_dom (t : Tst) : (s.setTst t).dom = s.dom := rfl
@[simp] theorem State.setTst_clv (t : Tst) : (s.setTst t).clv = s.clv := rfl
@[simp] theorem State.setTst_ports (t : Tst) : (s.setTst t).ports = s.ports := rfl
@[simp] theorem State.setTst_dup (t : Tst) : (s.setTst t).dup = s.dup := rfl
@[simp] theorem State.setTst_dupNext (t : Tst) : (s.setTst t).dupNext = s.dupNext := rfl
@[simp] theorem State.setTst_ing (t : Tst) : (s.setTst t).ing = s.ing := rfl
@[simp] theorem State.setTst_chs (t : Tst) : (s.setTst t).chs = s.chs := rfl
@[simp] theorem State.setTst_snr (t : Tst) : (s.setTst t).snr = s.snr := rfl
@[simp] theorem State.setTst_mbx (t : Tst) : (s.setTst t).mbx = s.mbx := rfl
@[simp] theorem State.setTst_img (t : Tst) : (s.setTst t).img = s.img := rfl
@[simp] theorem State.setTst_oldImg (t : Tst) : (s.setTst t).oldImg = s.oldImg := rfl
@[simp] theorem State.setTst_swap (t : Tst) : (s.setTst t).swap = s.swap := rfl
@[simp] theorem State.setTst_swapTick (t : Tst) : (s.setTst t).swapTick = s.swapTick := rfl
@[simp] theorem State.setTst_pgh (t : Tst) : (s.setTst t).pgh = s.pgh := rfl
@[simp] theorem State.setTst_tmb (t : Tst) : (s.setTst t).tmb = s.tmb := rfl
@[simp] theorem State.setTst_spec (t : Tst) : (s.setTst t).spec = s.spec := rfl
@[simp] theorem State.setTst_coh (t : Tst) : (s.setTst t).coh = s.coh := rfl
@[simp] theorem State.setTst_alm (t : Tst) : (s.setTst t).alm = s.alm := rfl
@[simp] theorem State.setTst_acc (t : Tst) : (s.setTst t).acc = s.acc := rfl
@[simp] theorem State.setTst_egr (t : Tst) : (s.setTst t).egr = s.egr := rfl
@[simp] theorem State.setTst_lmf (t : Tst) : (s.setTst t).lmf = s.lmf := rfl
@[simp] theorem State.setTst_pair (t : Tst) : (s.setTst t).pair = s.pair := rfl
@[simp] theorem State.setTst_bur (t : Tst) : (s.setTst t).bur = s.bur := rfl
@[simp] theorem State.setTst_bench (t : Tst) : (s.setTst t).bench = s.bench := rfl
@[simp] theorem State.setTst_pmc (t : Tst) : (s.setTst t).pmc = s.pmc := rfl
@[simp] theorem State.setTst_pio (t : Tst) : (s.setTst t).pio = s.pio := rfl
@[simp] theorem State.setTst_smArmed (t : Tst) : (s.setTst t).smArmed = s.smArmed := rfl
@[simp] theorem State.setTst_mram (t : Tst) : (s.setTst t).mram = s.mram := rfl
@[simp] theorem State.setTst_nand (t : Tst) : (s.setTst t).nand = s.nand := rfl
@[simp] theorem State.setTst_up (t : Tst) : (s.setTst t).up = s.up := rfl
@[simp] theorem State.setTst_fv (t : Tst) : (s.setTst t).fv = s.fv := rfl
@[simp] theorem State.setTst_out (t : Tst) : (s.setTst t).out = s.out := rfl
@[simp] theorem State.setTst_pending (t : Tst) : (s.setTst t).pending = s.pending := rfl
@[simp] theorem State.setTst_rd (t : Tst) (g : Fld) : (s.setTst t).rd g = s.rd g := rfl
@[simp] theorem State.setTst_self (t : Tst) : (s.setTst t).tst = t := rfl

@[simp] theorem State.setDom_regs (d : Dom) : (s.setDom d).regs = s.regs := rfl
@[simp] theorem State.setDom_pwr (d : Dom) : (s.setDom d).pwr = s.pwr := rfl
@[simp] theorem State.setDom_clv (d : Dom) : (s.setDom d).clv = s.clv := rfl
@[simp] theorem State.setDom_ports (d : Dom) : (s.setDom d).ports = s.ports := rfl
@[simp] theorem State.setDom_dup (d : Dom) : (s.setDom d).dup = s.dup := rfl
@[simp] theorem State.setDom_dupNext (d : Dom) : (s.setDom d).dupNext = s.dupNext := rfl
@[simp] theorem State.setDom_ing (d : Dom) : (s.setDom d).ing = s.ing := rfl
@[simp] theorem State.setDom_chs (d : Dom) : (s.setDom d).chs = s.chs := rfl
@[simp] theorem State.setDom_snr (d : Dom) : (s.setDom d).snr = s.snr := rfl
@[simp] theorem State.setDom_mbx (d : Dom) : (s.setDom d).mbx = s.mbx := rfl
@[simp] theorem State.setDom_img (d : Dom) : (s.setDom d).img = s.img := rfl
@[simp] theorem State.setDom_oldImg (d : Dom) : (s.setDom d).oldImg = s.oldImg := rfl
@[simp] theorem State.setDom_swap (d : Dom) : (s.setDom d).swap = s.swap := rfl
@[simp] theorem State.setDom_swapTick (d : Dom) : (s.setDom d).swapTick = s.swapTick := rfl
@[simp] theorem State.setDom_pgh (d : Dom) : (s.setDom d).pgh = s.pgh := rfl
@[simp] theorem State.setDom_tmb (d : Dom) : (s.setDom d).tmb = s.tmb := rfl
@[simp] theorem State.setDom_spec (d : Dom) : (s.setDom d).spec = s.spec := rfl
@[simp] theorem State.setDom_coh (d : Dom) : (s.setDom d).coh = s.coh := rfl
@[simp] theorem State.setDom_alm (d : Dom) : (s.setDom d).alm = s.alm := rfl
@[simp] theorem State.setDom_acc (d : Dom) : (s.setDom d).acc = s.acc := rfl
@[simp] theorem State.setDom_egr (d : Dom) : (s.setDom d).egr = s.egr := rfl
@[simp] theorem State.setDom_lmf (d : Dom) : (s.setDom d).lmf = s.lmf := rfl
@[simp] theorem State.setDom_pair (d : Dom) : (s.setDom d).pair = s.pair := rfl
@[simp] theorem State.setDom_bur (d : Dom) : (s.setDom d).bur = s.bur := rfl
@[simp] theorem State.setDom_bench (d : Dom) : (s.setDom d).bench = s.bench := rfl
@[simp] theorem State.setDom_pmc (d : Dom) : (s.setDom d).pmc = s.pmc := rfl
@[simp] theorem State.setDom_tst (d : Dom) : (s.setDom d).tst = s.tst := rfl
@[simp] theorem State.setDom_pio (d : Dom) : (s.setDom d).pio = s.pio := rfl
@[simp] theorem State.setDom_smArmed (d : Dom) : (s.setDom d).smArmed = s.smArmed := rfl
@[simp] theorem State.setDom_mram (d : Dom) : (s.setDom d).mram = s.mram := rfl
@[simp] theorem State.setDom_nand (d : Dom) : (s.setDom d).nand = s.nand := rfl
@[simp] theorem State.setDom_up (d : Dom) : (s.setDom d).up = s.up := rfl
@[simp] theorem State.setDom_fv (d : Dom) : (s.setDom d).fv = s.fv := rfl
@[simp] theorem State.setDom_out (d : Dom) : (s.setDom d).out = s.out := rfl
@[simp] theorem State.setDom_pending (d : Dom) : (s.setDom d).pending = s.pending := rfl
@[simp] theorem State.setDom_rd (d : Dom) (g : Fld) : (s.setDom d).rd g = s.rd g := rfl
@[simp] theorem State.setDom_self (d : Dom) : (s.setDom d).dom = d := rfl

@[simp] theorem State.setEgr_regs (e : Egr) : (s.setEgr e).regs = s.regs := rfl
@[simp] theorem State.setEgr_pwr (e : Egr) : (s.setEgr e).pwr = s.pwr := rfl
@[simp] theorem State.setEgr_dom (e : Egr) : (s.setEgr e).dom = s.dom := rfl
@[simp] theorem State.setEgr_clv (e : Egr) : (s.setEgr e).clv = s.clv := rfl
@[simp] theorem State.setEgr_ports (e : Egr) : (s.setEgr e).ports = s.ports := rfl
@[simp] theorem State.setEgr_dup (e : Egr) : (s.setEgr e).dup = s.dup := rfl
@[simp] theorem State.setEgr_dupNext (e : Egr) : (s.setEgr e).dupNext = s.dupNext := rfl
@[simp] theorem State.setEgr_ing (e : Egr) : (s.setEgr e).ing = s.ing := rfl
@[simp] theorem State.setEgr_chs (e : Egr) : (s.setEgr e).chs = s.chs := rfl
@[simp] theorem State.setEgr_snr (e : Egr) : (s.setEgr e).snr = s.snr := rfl
@[simp] theorem State.setEgr_mbx (e : Egr) : (s.setEgr e).mbx = s.mbx := rfl
@[simp] theorem State.setEgr_img (e : Egr) : (s.setEgr e).img = s.img := rfl
@[simp] theorem State.setEgr_oldImg (e : Egr) : (s.setEgr e).oldImg = s.oldImg := rfl
@[simp] theorem State.setEgr_swap (e : Egr) : (s.setEgr e).swap = s.swap := rfl
@[simp] theorem State.setEgr_swapTick (e : Egr) : (s.setEgr e).swapTick = s.swapTick := rfl
@[simp] theorem State.setEgr_pgh (e : Egr) : (s.setEgr e).pgh = s.pgh := rfl
@[simp] theorem State.setEgr_tmb (e : Egr) : (s.setEgr e).tmb = s.tmb := rfl
@[simp] theorem State.setEgr_spec (e : Egr) : (s.setEgr e).spec = s.spec := rfl
@[simp] theorem State.setEgr_coh (e : Egr) : (s.setEgr e).coh = s.coh := rfl
@[simp] theorem State.setEgr_alm (e : Egr) : (s.setEgr e).alm = s.alm := rfl
@[simp] theorem State.setEgr_acc (e : Egr) : (s.setEgr e).acc = s.acc := rfl
@[simp] theorem State.setEgr_lmf (e : Egr) : (s.setEgr e).lmf = s.lmf := rfl
@[simp] theorem State.setEgr_pair (e : Egr) : (s.setEgr e).pair = s.pair := rfl
@[simp] theorem State.setEgr_bur (e : Egr) : (s.setEgr e).bur = s.bur := rfl
@[simp] theorem State.setEgr_bench (e : Egr) : (s.setEgr e).bench = s.bench := rfl
@[simp] theorem State.setEgr_pmc (e : Egr) : (s.setEgr e).pmc = s.pmc := rfl
@[simp] theorem State.setEgr_tst (e : Egr) : (s.setEgr e).tst = s.tst := rfl
@[simp] theorem State.setEgr_pio (e : Egr) : (s.setEgr e).pio = s.pio := rfl
@[simp] theorem State.setEgr_smArmed (e : Egr) : (s.setEgr e).smArmed = s.smArmed := rfl
@[simp] theorem State.setEgr_mram (e : Egr) : (s.setEgr e).mram = s.mram := rfl
@[simp] theorem State.setEgr_nand (e : Egr) : (s.setEgr e).nand = s.nand := rfl
@[simp] theorem State.setEgr_up (e : Egr) : (s.setEgr e).up = s.up := rfl
@[simp] theorem State.setEgr_fv (e : Egr) : (s.setEgr e).fv = s.fv := rfl
@[simp] theorem State.setEgr_out (e : Egr) : (s.setEgr e).out = s.out := rfl
@[simp] theorem State.setEgr_pending (e : Egr) : (s.setEgr e).pending = s.pending := rfl
@[simp] theorem State.setEgr_rd (e : Egr) (g : Fld) : (s.setEgr e).rd g = s.rd g := rfl
@[simp] theorem State.setEgr_self (e : Egr) : (s.setEgr e).egr = e := rfl

@[simp] theorem State.setIng_regs (i : Ingress) : (s.setIng i).regs = s.regs := rfl
@[simp] theorem State.setIng_pwr (i : Ingress) : (s.setIng i).pwr = s.pwr := rfl
@[simp] theorem State.setIng_dom (i : Ingress) : (s.setIng i).dom = s.dom := rfl
@[simp] theorem State.setIng_clv (i : Ingress) : (s.setIng i).clv = s.clv := rfl
@[simp] theorem State.setIng_ports (i : Ingress) : (s.setIng i).ports = s.ports := rfl
@[simp] theorem State.setIng_dup (i : Ingress) : (s.setIng i).dup = s.dup := rfl
@[simp] theorem State.setIng_dupNext (i : Ingress) : (s.setIng i).dupNext = s.dupNext := rfl
@[simp] theorem State.setIng_chs (i : Ingress) : (s.setIng i).chs = s.chs := rfl
@[simp] theorem State.setIng_snr (i : Ingress) : (s.setIng i).snr = s.snr := rfl
@[simp] theorem State.setIng_mbx (i : Ingress) : (s.setIng i).mbx = s.mbx := rfl
@[simp] theorem State.setIng_img (i : Ingress) : (s.setIng i).img = s.img := rfl
@[simp] theorem State.setIng_oldImg (i : Ingress) : (s.setIng i).oldImg = s.oldImg := rfl
@[simp] theorem State.setIng_swap (i : Ingress) : (s.setIng i).swap = s.swap := rfl
@[simp] theorem State.setIng_swapTick (i : Ingress) : (s.setIng i).swapTick = s.swapTick := rfl
@[simp] theorem State.setIng_pgh (i : Ingress) : (s.setIng i).pgh = s.pgh := rfl
@[simp] theorem State.setIng_tmb (i : Ingress) : (s.setIng i).tmb = s.tmb := rfl
@[simp] theorem State.setIng_spec (i : Ingress) : (s.setIng i).spec = s.spec := rfl
@[simp] theorem State.setIng_coh (i : Ingress) : (s.setIng i).coh = s.coh := rfl
@[simp] theorem State.setIng_alm (i : Ingress) : (s.setIng i).alm = s.alm := rfl
@[simp] theorem State.setIng_acc (i : Ingress) : (s.setIng i).acc = s.acc := rfl
@[simp] theorem State.setIng_egr (i : Ingress) : (s.setIng i).egr = s.egr := rfl
@[simp] theorem State.setIng_lmf (i : Ingress) : (s.setIng i).lmf = s.lmf := rfl
@[simp] theorem State.setIng_pair (i : Ingress) : (s.setIng i).pair = s.pair := rfl
@[simp] theorem State.setIng_bur (i : Ingress) : (s.setIng i).bur = s.bur := rfl
@[simp] theorem State.setIng_bench (i : Ingress) : (s.setIng i).bench = s.bench := rfl
@[simp] theorem State.setIng_pmc (i : Ingress) : (s.setIng i).pmc = s.pmc := rfl
@[simp] theorem State.setIng_tst (i : Ingress) : (s.setIng i).tst = s.tst := rfl
@[simp] theorem State.setIng_pio (i : Ingress) : (s.setIng i).pio = s.pio := rfl
@[simp] theorem State.setIng_smArmed (i : Ingress) : (s.setIng i).smArmed = s.smArmed := rfl
@[simp] theorem State.setIng_mram (i : Ingress) : (s.setIng i).mram = s.mram := rfl
@[simp] theorem State.setIng_nand (i : Ingress) : (s.setIng i).nand = s.nand := rfl
@[simp] theorem State.setIng_up (i : Ingress) : (s.setIng i).up = s.up := rfl
@[simp] theorem State.setIng_fv (i : Ingress) : (s.setIng i).fv = s.fv := rfl
@[simp] theorem State.setIng_out (i : Ingress) : (s.setIng i).out = s.out := rfl
@[simp] theorem State.setIng_pending (i : Ingress) : (s.setIng i).pending = s.pending := rfl
@[simp] theorem State.setIng_rd (i : Ingress) (g : Fld) : (s.setIng i).rd g = s.rd g := rfl
@[simp] theorem State.setIng_self (i : Ingress) : (s.setIng i).ing = i := rfl

@[simp] theorem State.setLmf_regs (l : Lmf) : (s.setLmf l).regs = s.regs := rfl
@[simp] theorem State.setLmf_pwr (l : Lmf) : (s.setLmf l).pwr = s.pwr := rfl
@[simp] theorem State.setLmf_dom (l : Lmf) : (s.setLmf l).dom = s.dom := rfl
@[simp] theorem State.setLmf_clv (l : Lmf) : (s.setLmf l).clv = s.clv := rfl
@[simp] theorem State.setLmf_ports (l : Lmf) : (s.setLmf l).ports = s.ports := rfl
@[simp] theorem State.setLmf_dup (l : Lmf) : (s.setLmf l).dup = s.dup := rfl
@[simp] theorem State.setLmf_dupNext (l : Lmf) : (s.setLmf l).dupNext = s.dupNext := rfl
@[simp] theorem State.setLmf_ing (l : Lmf) : (s.setLmf l).ing = s.ing := rfl
@[simp] theorem State.setLmf_chs (l : Lmf) : (s.setLmf l).chs = s.chs := rfl
@[simp] theorem State.setLmf_snr (l : Lmf) : (s.setLmf l).snr = s.snr := rfl
@[simp] theorem State.setLmf_mbx (l : Lmf) : (s.setLmf l).mbx = s.mbx := rfl
@[simp] theorem State.setLmf_img (l : Lmf) : (s.setLmf l).img = s.img := rfl
@[simp] theorem State.setLmf_oldImg (l : Lmf) : (s.setLmf l).oldImg = s.oldImg := rfl
@[simp] theorem State.setLmf_swap (l : Lmf) : (s.setLmf l).swap = s.swap := rfl
@[simp] theorem State.setLmf_swapTick (l : Lmf) : (s.setLmf l).swapTick = s.swapTick := rfl
@[simp] theorem State.setLmf_pgh (l : Lmf) : (s.setLmf l).pgh = s.pgh := rfl
@[simp] theorem State.setLmf_tmb (l : Lmf) : (s.setLmf l).tmb = s.tmb := rfl
@[simp] theorem State.setLmf_spec (l : Lmf) : (s.setLmf l).spec = s.spec := rfl
@[simp] theorem State.setLmf_coh (l : Lmf) : (s.setLmf l).coh = s.coh := rfl
@[simp] theorem State.setLmf_alm (l : Lmf) : (s.setLmf l).alm = s.alm := rfl
@[simp] theorem State.setLmf_acc (l : Lmf) : (s.setLmf l).acc = s.acc := rfl
@[simp] theorem State.setLmf_egr (l : Lmf) : (s.setLmf l).egr = s.egr := rfl
@[simp] theorem State.setLmf_pair (l : Lmf) : (s.setLmf l).pair = s.pair := rfl
@[simp] theorem State.setLmf_bur (l : Lmf) : (s.setLmf l).bur = s.bur := rfl
@[simp] theorem State.setLmf_bench (l : Lmf) : (s.setLmf l).bench = s.bench := rfl
@[simp] theorem State.setLmf_pmc (l : Lmf) : (s.setLmf l).pmc = s.pmc := rfl
@[simp] theorem State.setLmf_tst (l : Lmf) : (s.setLmf l).tst = s.tst := rfl
@[simp] theorem State.setLmf_pio (l : Lmf) : (s.setLmf l).pio = s.pio := rfl
@[simp] theorem State.setLmf_smArmed (l : Lmf) : (s.setLmf l).smArmed = s.smArmed := rfl
@[simp] theorem State.setLmf_mram (l : Lmf) : (s.setLmf l).mram = s.mram := rfl
@[simp] theorem State.setLmf_nand (l : Lmf) : (s.setLmf l).nand = s.nand := rfl
@[simp] theorem State.setLmf_up (l : Lmf) : (s.setLmf l).up = s.up := rfl
@[simp] theorem State.setLmf_fv (l : Lmf) : (s.setLmf l).fv = s.fv := rfl
@[simp] theorem State.setLmf_out (l : Lmf) : (s.setLmf l).out = s.out := rfl
@[simp] theorem State.setLmf_pending (l : Lmf) : (s.setLmf l).pending = s.pending := rfl
@[simp] theorem State.setLmf_rd (l : Lmf) (g : Fld) : (s.setLmf l).rd g = s.rd g := rfl
@[simp] theorem State.setLmf_self (l : Lmf) : (s.setLmf l).lmf = l := rfl

@[simp] theorem State.setMbx_regs (m : Mbx) : (s.setMbx m).regs = s.regs := rfl
@[simp] theorem State.setMbx_pwr (m : Mbx) : (s.setMbx m).pwr = s.pwr := rfl
@[simp] theorem State.setMbx_dom (m : Mbx) : (s.setMbx m).dom = s.dom := rfl
@[simp] theorem State.setMbx_clv (m : Mbx) : (s.setMbx m).clv = s.clv := rfl
@[simp] theorem State.setMbx_ports (m : Mbx) : (s.setMbx m).ports = s.ports := rfl
@[simp] theorem State.setMbx_dup (m : Mbx) : (s.setMbx m).dup = s.dup := rfl
@[simp] theorem State.setMbx_dupNext (m : Mbx) : (s.setMbx m).dupNext = s.dupNext := rfl
@[simp] theorem State.setMbx_ing (m : Mbx) : (s.setMbx m).ing = s.ing := rfl
@[simp] theorem State.setMbx_chs (m : Mbx) : (s.setMbx m).chs = s.chs := rfl
@[simp] theorem State.setMbx_snr (m : Mbx) : (s.setMbx m).snr = s.snr := rfl
@[simp] theorem State.setMbx_img (m : Mbx) : (s.setMbx m).img = s.img := rfl
@[simp] theorem State.setMbx_oldImg (m : Mbx) : (s.setMbx m).oldImg = s.oldImg := rfl
@[simp] theorem State.setMbx_swap (m : Mbx) : (s.setMbx m).swap = s.swap := rfl
@[simp] theorem State.setMbx_swapTick (m : Mbx) : (s.setMbx m).swapTick = s.swapTick := rfl
@[simp] theorem State.setMbx_pgh (m : Mbx) : (s.setMbx m).pgh = s.pgh := rfl
@[simp] theorem State.setMbx_tmb (m : Mbx) : (s.setMbx m).tmb = s.tmb := rfl
@[simp] theorem State.setMbx_spec (m : Mbx) : (s.setMbx m).spec = s.spec := rfl
@[simp] theorem State.setMbx_coh (m : Mbx) : (s.setMbx m).coh = s.coh := rfl
@[simp] theorem State.setMbx_alm (m : Mbx) : (s.setMbx m).alm = s.alm := rfl
@[simp] theorem State.setMbx_acc (m : Mbx) : (s.setMbx m).acc = s.acc := rfl
@[simp] theorem State.setMbx_egr (m : Mbx) : (s.setMbx m).egr = s.egr := rfl
@[simp] theorem State.setMbx_lmf (m : Mbx) : (s.setMbx m).lmf = s.lmf := rfl
@[simp] theorem State.setMbx_pair (m : Mbx) : (s.setMbx m).pair = s.pair := rfl
@[simp] theorem State.setMbx_bur (m : Mbx) : (s.setMbx m).bur = s.bur := rfl
@[simp] theorem State.setMbx_bench (m : Mbx) : (s.setMbx m).bench = s.bench := rfl
@[simp] theorem State.setMbx_pmc (m : Mbx) : (s.setMbx m).pmc = s.pmc := rfl
@[simp] theorem State.setMbx_tst (m : Mbx) : (s.setMbx m).tst = s.tst := rfl
@[simp] theorem State.setMbx_pio (m : Mbx) : (s.setMbx m).pio = s.pio := rfl
@[simp] theorem State.setMbx_smArmed (m : Mbx) : (s.setMbx m).smArmed = s.smArmed := rfl
@[simp] theorem State.setMbx_mram (m : Mbx) : (s.setMbx m).mram = s.mram := rfl
@[simp] theorem State.setMbx_nand (m : Mbx) : (s.setMbx m).nand = s.nand := rfl
@[simp] theorem State.setMbx_up (m : Mbx) : (s.setMbx m).up = s.up := rfl
@[simp] theorem State.setMbx_fv (m : Mbx) : (s.setMbx m).fv = s.fv := rfl
@[simp] theorem State.setMbx_out (m : Mbx) : (s.setMbx m).out = s.out := rfl
@[simp] theorem State.setMbx_pending (m : Mbx) : (s.setMbx m).pending = s.pending := rfl
@[simp] theorem State.setMbx_rd (m : Mbx) (g : Fld) : (s.setMbx m).rd g = s.rd g := rfl
@[simp] theorem State.setMbx_self (m : Mbx) : (s.setMbx m).mbx = m := rfl

@[simp] theorem State.setPgh_regs (p : Pgh) : (s.setPgh p).regs = s.regs := rfl
@[simp] theorem State.setPgh_pwr (p : Pgh) : (s.setPgh p).pwr = s.pwr := rfl
@[simp] theorem State.setPgh_dom (p : Pgh) : (s.setPgh p).dom = s.dom := rfl
@[simp] theorem State.setPgh_clv (p : Pgh) : (s.setPgh p).clv = s.clv := rfl
@[simp] theorem State.setPgh_ports (p : Pgh) : (s.setPgh p).ports = s.ports := rfl
@[simp] theorem State.setPgh_dup (p : Pgh) : (s.setPgh p).dup = s.dup := rfl
@[simp] theorem State.setPgh_dupNext (p : Pgh) : (s.setPgh p).dupNext = s.dupNext := rfl
@[simp] theorem State.setPgh_ing (p : Pgh) : (s.setPgh p).ing = s.ing := rfl
@[simp] theorem State.setPgh_chs (p : Pgh) : (s.setPgh p).chs = s.chs := rfl
@[simp] theorem State.setPgh_snr (p : Pgh) : (s.setPgh p).snr = s.snr := rfl
@[simp] theorem State.setPgh_mbx (p : Pgh) : (s.setPgh p).mbx = s.mbx := rfl
@[simp] theorem State.setPgh_img (p : Pgh) : (s.setPgh p).img = s.img := rfl
@[simp] theorem State.setPgh_oldImg (p : Pgh) : (s.setPgh p).oldImg = s.oldImg := rfl
@[simp] theorem State.setPgh_swap (p : Pgh) : (s.setPgh p).swap = s.swap := rfl
@[simp] theorem State.setPgh_swapTick (p : Pgh) : (s.setPgh p).swapTick = s.swapTick := rfl
@[simp] theorem State.setPgh_tmb (p : Pgh) : (s.setPgh p).tmb = s.tmb := rfl
@[simp] theorem State.setPgh_spec (p : Pgh) : (s.setPgh p).spec = s.spec := rfl
@[simp] theorem State.setPgh_coh (p : Pgh) : (s.setPgh p).coh = s.coh := rfl
@[simp] theorem State.setPgh_alm (p : Pgh) : (s.setPgh p).alm = s.alm := rfl
@[simp] theorem State.setPgh_acc (p : Pgh) : (s.setPgh p).acc = s.acc := rfl
@[simp] theorem State.setPgh_egr (p : Pgh) : (s.setPgh p).egr = s.egr := rfl
@[simp] theorem State.setPgh_lmf (p : Pgh) : (s.setPgh p).lmf = s.lmf := rfl
@[simp] theorem State.setPgh_pair (p : Pgh) : (s.setPgh p).pair = s.pair := rfl
@[simp] theorem State.setPgh_bur (p : Pgh) : (s.setPgh p).bur = s.bur := rfl
@[simp] theorem State.setPgh_bench (p : Pgh) : (s.setPgh p).bench = s.bench := rfl
@[simp] theorem State.setPgh_pmc (p : Pgh) : (s.setPgh p).pmc = s.pmc := rfl
@[simp] theorem State.setPgh_tst (p : Pgh) : (s.setPgh p).tst = s.tst := rfl
@[simp] theorem State.setPgh_pio (p : Pgh) : (s.setPgh p).pio = s.pio := rfl
@[simp] theorem State.setPgh_smArmed (p : Pgh) : (s.setPgh p).smArmed = s.smArmed := rfl
@[simp] theorem State.setPgh_mram (p : Pgh) : (s.setPgh p).mram = s.mram := rfl
@[simp] theorem State.setPgh_nand (p : Pgh) : (s.setPgh p).nand = s.nand := rfl
@[simp] theorem State.setPgh_up (p : Pgh) : (s.setPgh p).up = s.up := rfl
@[simp] theorem State.setPgh_fv (p : Pgh) : (s.setPgh p).fv = s.fv := rfl
@[simp] theorem State.setPgh_out (p : Pgh) : (s.setPgh p).out = s.out := rfl
@[simp] theorem State.setPgh_pending (p : Pgh) : (s.setPgh p).pending = s.pending := rfl
@[simp] theorem State.setPgh_rd (p : Pgh) (g : Fld) : (s.setPgh p).rd g = s.rd g := rfl
@[simp] theorem State.setPgh_self (p : Pgh) : (s.setPgh p).pgh = p := rfl

@[simp] theorem State.setPort_regs (n : Nat) (p : Port) : (s.setPort n p).regs = s.regs := rfl
@[simp] theorem State.setPort_pwr (n : Nat) (p : Port) : (s.setPort n p).pwr = s.pwr := rfl
@[simp] theorem State.setPort_dom (n : Nat) (p : Port) : (s.setPort n p).dom = s.dom := rfl
@[simp] theorem State.setPort_clv (n : Nat) (p : Port) : (s.setPort n p).clv = s.clv := rfl
@[simp] theorem State.setPort_dup (n : Nat) (p : Port) : (s.setPort n p).dup = s.dup := rfl
@[simp] theorem State.setPort_dupNext (n : Nat) (p : Port) : (s.setPort n p).dupNext = s.dupNext := rfl
@[simp] theorem State.setPort_ing (n : Nat) (p : Port) : (s.setPort n p).ing = s.ing := rfl
@[simp] theorem State.setPort_chs (n : Nat) (p : Port) : (s.setPort n p).chs = s.chs := rfl
@[simp] theorem State.setPort_snr (n : Nat) (p : Port) : (s.setPort n p).snr = s.snr := rfl
@[simp] theorem State.setPort_mbx (n : Nat) (p : Port) : (s.setPort n p).mbx = s.mbx := rfl
@[simp] theorem State.setPort_img (n : Nat) (p : Port) : (s.setPort n p).img = s.img := rfl
@[simp] theorem State.setPort_oldImg (n : Nat) (p : Port) : (s.setPort n p).oldImg = s.oldImg := rfl
@[simp] theorem State.setPort_swap (n : Nat) (p : Port) : (s.setPort n p).swap = s.swap := rfl
@[simp] theorem State.setPort_swapTick (n : Nat) (p : Port) : (s.setPort n p).swapTick = s.swapTick := rfl
@[simp] theorem State.setPort_pgh (n : Nat) (p : Port) : (s.setPort n p).pgh = s.pgh := rfl
@[simp] theorem State.setPort_tmb (n : Nat) (p : Port) : (s.setPort n p).tmb = s.tmb := rfl
@[simp] theorem State.setPort_spec (n : Nat) (p : Port) : (s.setPort n p).spec = s.spec := rfl
@[simp] theorem State.setPort_coh (n : Nat) (p : Port) : (s.setPort n p).coh = s.coh := rfl
@[simp] theorem State.setPort_alm (n : Nat) (p : Port) : (s.setPort n p).alm = s.alm := rfl
@[simp] theorem State.setPort_acc (n : Nat) (p : Port) : (s.setPort n p).acc = s.acc := rfl
@[simp] theorem State.setPort_egr (n : Nat) (p : Port) : (s.setPort n p).egr = s.egr := rfl
@[simp] theorem State.setPort_lmf (n : Nat) (p : Port) : (s.setPort n p).lmf = s.lmf := rfl
@[simp] theorem State.setPort_pair (n : Nat) (p : Port) : (s.setPort n p).pair = s.pair := rfl
@[simp] theorem State.setPort_bur (n : Nat) (p : Port) : (s.setPort n p).bur = s.bur := rfl
@[simp] theorem State.setPort_bench (n : Nat) (p : Port) : (s.setPort n p).bench = s.bench := rfl
@[simp] theorem State.setPort_pmc (n : Nat) (p : Port) : (s.setPort n p).pmc = s.pmc := rfl
@[simp] theorem State.setPort_tst (n : Nat) (p : Port) : (s.setPort n p).tst = s.tst := rfl
@[simp] theorem State.setPort_pio (n : Nat) (p : Port) : (s.setPort n p).pio = s.pio := rfl
@[simp] theorem State.setPort_smArmed (n : Nat) (p : Port) : (s.setPort n p).smArmed = s.smArmed := rfl
@[simp] theorem State.setPort_mram (n : Nat) (p : Port) : (s.setPort n p).mram = s.mram := rfl
@[simp] theorem State.setPort_nand (n : Nat) (p : Port) : (s.setPort n p).nand = s.nand := rfl
@[simp] theorem State.setPort_up (n : Nat) (p : Port) : (s.setPort n p).up = s.up := rfl
@[simp] theorem State.setPort_fv (n : Nat) (p : Port) : (s.setPort n p).fv = s.fv := rfl
@[simp] theorem State.setPort_out (n : Nat) (p : Port) : (s.setPort n p).out = s.out := rfl
@[simp] theorem State.setPort_pending (n : Nat) (p : Port) : (s.setPort n p).pending = s.pending := rfl
@[simp] theorem State.setPort_rd (n : Nat) (p : Port) (g : Fld) : (s.setPort n p).rd g = s.rd g := rfl

@[simp] theorem State.setPwr_regs (p : Pwr) : (s.setPwr p).regs = s.regs := rfl
@[simp] theorem State.setPwr_dom (p : Pwr) : (s.setPwr p).dom = s.dom := rfl
@[simp] theorem State.setPwr_clv (p : Pwr) : (s.setPwr p).clv = s.clv := rfl
@[simp] theorem State.setPwr_ports (p : Pwr) : (s.setPwr p).ports = s.ports := rfl
@[simp] theorem State.setPwr_dup (p : Pwr) : (s.setPwr p).dup = s.dup := rfl
@[simp] theorem State.setPwr_dupNext (p : Pwr) : (s.setPwr p).dupNext = s.dupNext := rfl
@[simp] theorem State.setPwr_ing (p : Pwr) : (s.setPwr p).ing = s.ing := rfl
@[simp] theorem State.setPwr_chs (p : Pwr) : (s.setPwr p).chs = s.chs := rfl
@[simp] theorem State.setPwr_snr (p : Pwr) : (s.setPwr p).snr = s.snr := rfl
@[simp] theorem State.setPwr_mbx (p : Pwr) : (s.setPwr p).mbx = s.mbx := rfl
@[simp] theorem State.setPwr_img (p : Pwr) : (s.setPwr p).img = s.img := rfl
@[simp] theorem State.setPwr_oldImg (p : Pwr) : (s.setPwr p).oldImg = s.oldImg := rfl
@[simp] theorem State.setPwr_swap (p : Pwr) : (s.setPwr p).swap = s.swap := rfl
@[simp] theorem State.setPwr_swapTick (p : Pwr) : (s.setPwr p).swapTick = s.swapTick := rfl
@[simp] theorem State.setPwr_pgh (p : Pwr) : (s.setPwr p).pgh = s.pgh := rfl
@[simp] theorem State.setPwr_tmb (p : Pwr) : (s.setPwr p).tmb = s.tmb := rfl
@[simp] theorem State.setPwr_spec (p : Pwr) : (s.setPwr p).spec = s.spec := rfl
@[simp] theorem State.setPwr_coh (p : Pwr) : (s.setPwr p).coh = s.coh := rfl
@[simp] theorem State.setPwr_alm (p : Pwr) : (s.setPwr p).alm = s.alm := rfl
@[simp] theorem State.setPwr_acc (p : Pwr) : (s.setPwr p).acc = s.acc := rfl
@[simp] theorem State.setPwr_egr (p : Pwr) : (s.setPwr p).egr = s.egr := rfl
@[simp] theorem State.setPwr_lmf (p : Pwr) : (s.setPwr p).lmf = s.lmf := rfl
@[simp] theorem State.setPwr_pair (p : Pwr) : (s.setPwr p).pair = s.pair := rfl
@[simp] theorem State.setPwr_bur (p : Pwr) : (s.setPwr p).bur = s.bur := rfl
@[simp] theorem State.setPwr_bench (p : Pwr) : (s.setPwr p).bench = s.bench := rfl
@[simp] theorem State.setPwr_pmc (p : Pwr) : (s.setPwr p).pmc = s.pmc := rfl
@[simp] theorem State.setPwr_tst (p : Pwr) : (s.setPwr p).tst = s.tst := rfl
@[simp] theorem State.setPwr_pio (p : Pwr) : (s.setPwr p).pio = s.pio := rfl
@[simp] theorem State.setPwr_smArmed (p : Pwr) : (s.setPwr p).smArmed = s.smArmed := rfl
@[simp] theorem State.setPwr_mram (p : Pwr) : (s.setPwr p).mram = s.mram := rfl
@[simp] theorem State.setPwr_nand (p : Pwr) : (s.setPwr p).nand = s.nand := rfl
@[simp] theorem State.setPwr_up (p : Pwr) : (s.setPwr p).up = s.up := rfl
@[simp] theorem State.setPwr_fv (p : Pwr) : (s.setPwr p).fv = s.fv := rfl
@[simp] theorem State.setPwr_out (p : Pwr) : (s.setPwr p).out = s.out := rfl
@[simp] theorem State.setPwr_pending (p : Pwr) : (s.setPwr p).pending = s.pending := rfl
@[simp] theorem State.setPwr_rd (p : Pwr) (g : Fld) : (s.setPwr p).rd g = s.rd g := rfl
@[simp] theorem State.setPwr_self (p : Pwr) : (s.setPwr p).pwr = p := rfl

@[simp] theorem State.setPwrM_regs (m : PwrMram) : (s.setPwrM m).regs = s.regs := rfl
@[simp] theorem State.setPwrM_pwr (m : PwrMram) : (s.setPwrM m).pwr = s.pwr := rfl
@[simp] theorem State.setPwrM_dom (m : PwrMram) : (s.setPwrM m).dom = s.dom := rfl
@[simp] theorem State.setPwrM_clv (m : PwrMram) : (s.setPwrM m).clv = s.clv := rfl
@[simp] theorem State.setPwrM_ports (m : PwrMram) : (s.setPwrM m).ports = s.ports := rfl
@[simp] theorem State.setPwrM_dup (m : PwrMram) : (s.setPwrM m).dup = s.dup := rfl
@[simp] theorem State.setPwrM_dupNext (m : PwrMram) : (s.setPwrM m).dupNext = s.dupNext := rfl
@[simp] theorem State.setPwrM_ing (m : PwrMram) : (s.setPwrM m).ing = s.ing := rfl
@[simp] theorem State.setPwrM_chs (m : PwrMram) : (s.setPwrM m).chs = s.chs := rfl
@[simp] theorem State.setPwrM_snr (m : PwrMram) : (s.setPwrM m).snr = s.snr := rfl
@[simp] theorem State.setPwrM_mbx (m : PwrMram) : (s.setPwrM m).mbx = s.mbx := rfl
@[simp] theorem State.setPwrM_img (m : PwrMram) : (s.setPwrM m).img = s.img := rfl
@[simp] theorem State.setPwrM_oldImg (m : PwrMram) : (s.setPwrM m).oldImg = s.oldImg := rfl
@[simp] theorem State.setPwrM_swap (m : PwrMram) : (s.setPwrM m).swap = s.swap := rfl
@[simp] theorem State.setPwrM_swapTick (m : PwrMram) : (s.setPwrM m).swapTick = s.swapTick := rfl
@[simp] theorem State.setPwrM_pgh (m : PwrMram) : (s.setPwrM m).pgh = s.pgh := rfl
@[simp] theorem State.setPwrM_tmb (m : PwrMram) : (s.setPwrM m).tmb = s.tmb := rfl
@[simp] theorem State.setPwrM_spec (m : PwrMram) : (s.setPwrM m).spec = s.spec := rfl
@[simp] theorem State.setPwrM_coh (m : PwrMram) : (s.setPwrM m).coh = s.coh := rfl
@[simp] theorem State.setPwrM_alm (m : PwrMram) : (s.setPwrM m).alm = s.alm := rfl
@[simp] theorem State.setPwrM_acc (m : PwrMram) : (s.setPwrM m).acc = s.acc := rfl
@[simp] theorem State.setPwrM_egr (m : PwrMram) : (s.setPwrM m).egr = s.egr := rfl
@[simp] theorem State.setPwrM_lmf (m : PwrMram) : (s.setPwrM m).lmf = s.lmf := rfl
@[simp] theorem State.setPwrM_pair (m : PwrMram) : (s.setPwrM m).pair = s.pair := rfl
@[simp] theorem State.setPwrM_bur (m : PwrMram) : (s.setPwrM m).bur = s.bur := rfl
@[simp] theorem State.setPwrM_bench (m : PwrMram) : (s.setPwrM m).bench = s.bench := rfl
@[simp] theorem State.setPwrM_pmc (m : PwrMram) : (s.setPwrM m).pmc = s.pmc := rfl
@[simp] theorem State.setPwrM_tst (m : PwrMram) : (s.setPwrM m).tst = s.tst := rfl
@[simp] theorem State.setPwrM_pio (m : PwrMram) : (s.setPwrM m).pio = s.pio := rfl
@[simp] theorem State.setPwrM_smArmed (m : PwrMram) : (s.setPwrM m).smArmed = s.smArmed := rfl
@[simp] theorem State.setPwrM_nand (m : PwrMram) : (s.setPwrM m).nand = s.nand := rfl
@[simp] theorem State.setPwrM_up (m : PwrMram) : (s.setPwrM m).up = s.up := rfl
@[simp] theorem State.setPwrM_fv (m : PwrMram) : (s.setPwrM m).fv = s.fv := rfl
@[simp] theorem State.setPwrM_out (m : PwrMram) : (s.setPwrM m).out = s.out := rfl
@[simp] theorem State.setPwrM_pending (m : PwrMram) : (s.setPwrM m).pending = s.pending := rfl
@[simp] theorem State.setPwrM_rd (m : PwrMram) (g : Fld) : (s.setPwrM m).rd g = s.rd g := rfl

@[simp] theorem State.setPair_regs (p : Pair) : (s.setPair p).regs = s.regs := rfl
@[simp] theorem State.setPair_pwr (p : Pair) : (s.setPair p).pwr = s.pwr := rfl
@[simp] theorem State.setPair_dom (p : Pair) : (s.setPair p).dom = s.dom := rfl
@[simp] theorem State.setPair_clv (p : Pair) : (s.setPair p).clv = s.clv := rfl
@[simp] theorem State.setPair_ports (p : Pair) : (s.setPair p).ports = s.ports := rfl
@[simp] theorem State.setPair_dup (p : Pair) : (s.setPair p).dup = s.dup := rfl
@[simp] theorem State.setPair_dupNext (p : Pair) : (s.setPair p).dupNext = s.dupNext := rfl
@[simp] theorem State.setPair_ing (p : Pair) : (s.setPair p).ing = s.ing := rfl
@[simp] theorem State.setPair_chs (p : Pair) : (s.setPair p).chs = s.chs := rfl
@[simp] theorem State.setPair_snr (p : Pair) : (s.setPair p).snr = s.snr := rfl
@[simp] theorem State.setPair_mbx (p : Pair) : (s.setPair p).mbx = s.mbx := rfl
@[simp] theorem State.setPair_img (p : Pair) : (s.setPair p).img = s.img := rfl
@[simp] theorem State.setPair_oldImg (p : Pair) : (s.setPair p).oldImg = s.oldImg := rfl
@[simp] theorem State.setPair_swap (p : Pair) : (s.setPair p).swap = s.swap := rfl
@[simp] theorem State.setPair_swapTick (p : Pair) : (s.setPair p).swapTick = s.swapTick := rfl
@[simp] theorem State.setPair_pgh (p : Pair) : (s.setPair p).pgh = s.pgh := rfl
@[simp] theorem State.setPair_tmb (p : Pair) : (s.setPair p).tmb = s.tmb := rfl
@[simp] theorem State.setPair_spec (p : Pair) : (s.setPair p).spec = s.spec := rfl
@[simp] theorem State.setPair_coh (p : Pair) : (s.setPair p).coh = s.coh := rfl
@[simp] theorem State.setPair_alm (p : Pair) : (s.setPair p).alm = s.alm := rfl
@[simp] theorem State.setPair_acc (p : Pair) : (s.setPair p).acc = s.acc := rfl
@[simp] theorem State.setPair_egr (p : Pair) : (s.setPair p).egr = s.egr := rfl
@[simp] theorem State.setPair_lmf (p : Pair) : (s.setPair p).lmf = s.lmf := rfl
@[simp] theorem State.setPair_bur (p : Pair) : (s.setPair p).bur = s.bur := rfl
@[simp] theorem State.setPair_bench (p : Pair) : (s.setPair p).bench = s.bench := rfl
@[simp] theorem State.setPair_pmc (p : Pair) : (s.setPair p).pmc = s.pmc := rfl
@[simp] theorem State.setPair_tst (p : Pair) : (s.setPair p).tst = s.tst := rfl
@[simp] theorem State.setPair_pio (p : Pair) : (s.setPair p).pio = s.pio := rfl
@[simp] theorem State.setPair_smArmed (p : Pair) : (s.setPair p).smArmed = s.smArmed := rfl
@[simp] theorem State.setPair_mram (p : Pair) : (s.setPair p).mram = s.mram := rfl
@[simp] theorem State.setPair_nand (p : Pair) : (s.setPair p).nand = s.nand := rfl
@[simp] theorem State.setPair_up (p : Pair) : (s.setPair p).up = s.up := rfl
@[simp] theorem State.setPair_fv (p : Pair) : (s.setPair p).fv = s.fv := rfl
@[simp] theorem State.setPair_out (p : Pair) : (s.setPair p).out = s.out := rfl
@[simp] theorem State.setPair_pending (p : Pair) : (s.setPair p).pending = s.pending := rfl
@[simp] theorem State.setPair_rd (p : Pair) (g : Fld) : (s.setPair p).rd g = s.rd g := rfl
@[simp] theorem State.setPair_self (p : Pair) : (s.setPair p).pair = p := rfl

@[simp] theorem State.setSnr_regs (x : Snare) : (s.setSnr x).regs = s.regs := rfl
@[simp] theorem State.setSnr_pwr (x : Snare) : (s.setSnr x).pwr = s.pwr := rfl
@[simp] theorem State.setSnr_dom (x : Snare) : (s.setSnr x).dom = s.dom := rfl
@[simp] theorem State.setSnr_clv (x : Snare) : (s.setSnr x).clv = s.clv := rfl
@[simp] theorem State.setSnr_ports (x : Snare) : (s.setSnr x).ports = s.ports := rfl
@[simp] theorem State.setSnr_dup (x : Snare) : (s.setSnr x).dup = s.dup := rfl
@[simp] theorem State.setSnr_dupNext (x : Snare) : (s.setSnr x).dupNext = s.dupNext := rfl
@[simp] theorem State.setSnr_ing (x : Snare) : (s.setSnr x).ing = s.ing := rfl
@[simp] theorem State.setSnr_chs (x : Snare) : (s.setSnr x).chs = s.chs := rfl
@[simp] theorem State.setSnr_mbx (x : Snare) : (s.setSnr x).mbx = s.mbx := rfl
@[simp] theorem State.setSnr_img (x : Snare) : (s.setSnr x).img = s.img := rfl
@[simp] theorem State.setSnr_oldImg (x : Snare) : (s.setSnr x).oldImg = s.oldImg := rfl
@[simp] theorem State.setSnr_swap (x : Snare) : (s.setSnr x).swap = s.swap := rfl
@[simp] theorem State.setSnr_swapTick (x : Snare) : (s.setSnr x).swapTick = s.swapTick := rfl
@[simp] theorem State.setSnr_pgh (x : Snare) : (s.setSnr x).pgh = s.pgh := rfl
@[simp] theorem State.setSnr_tmb (x : Snare) : (s.setSnr x).tmb = s.tmb := rfl
@[simp] theorem State.setSnr_spec (x : Snare) : (s.setSnr x).spec = s.spec := rfl
@[simp] theorem State.setSnr_coh (x : Snare) : (s.setSnr x).coh = s.coh := rfl
@[simp] theorem State.setSnr_alm (x : Snare) : (s.setSnr x).alm = s.alm := rfl
@[simp] theorem State.setSnr_acc (x : Snare) : (s.setSnr x).acc = s.acc := rfl
@[simp] theorem State.setSnr_egr (x : Snare) : (s.setSnr x).egr = s.egr := rfl
@[simp] theorem State.setSnr_lmf (x : Snare) : (s.setSnr x).lmf = s.lmf := rfl
@[simp] theorem State.setSnr_pair (x : Snare) : (s.setSnr x).pair = s.pair := rfl
@[simp] theorem State.setSnr_bur (x : Snare) : (s.setSnr x).bur = s.bur := rfl
@[simp] theorem State.setSnr_bench (x : Snare) : (s.setSnr x).bench = s.bench := rfl
@[simp] theorem State.setSnr_pmc (x : Snare) : (s.setSnr x).pmc = s.pmc := rfl
@[simp] theorem State.setSnr_tst (x : Snare) : (s.setSnr x).tst = s.tst := rfl
@[simp] theorem State.setSnr_pio (x : Snare) : (s.setSnr x).pio = s.pio := rfl
@[simp] theorem State.setSnr_smArmed (x : Snare) : (s.setSnr x).smArmed = s.smArmed := rfl
@[simp] theorem State.setSnr_mram (x : Snare) : (s.setSnr x).mram = s.mram := rfl
@[simp] theorem State.setSnr_nand (x : Snare) : (s.setSnr x).nand = s.nand := rfl
@[simp] theorem State.setSnr_up (x : Snare) : (s.setSnr x).up = s.up := rfl
@[simp] theorem State.setSnr_fv (x : Snare) : (s.setSnr x).fv = s.fv := rfl
@[simp] theorem State.setSnr_out (x : Snare) : (s.setSnr x).out = s.out := rfl
@[simp] theorem State.setSnr_pending (x : Snare) : (s.setSnr x).pending = s.pending := rfl
@[simp] theorem State.setSnr_rd (x : Snare) (g : Fld) : (s.setSnr x).rd g = s.rd g := rfl
@[simp] theorem State.setSnr_self (x : Snare) : (s.setSnr x).snr = x := rfl

@[simp] theorem State.setSpec_regs (x : Spec) : (s.setSpec x).regs = s.regs := rfl
@[simp] theorem State.setSpec_pwr (x : Spec) : (s.setSpec x).pwr = s.pwr := rfl
@[simp] theorem State.setSpec_dom (x : Spec) : (s.setSpec x).dom = s.dom := rfl
@[simp] theorem State.setSpec_clv (x : Spec) : (s.setSpec x).clv = s.clv := rfl
@[simp] theorem State.setSpec_ports (x : Spec) : (s.setSpec x).ports = s.ports := rfl
@[simp] theorem State.setSpec_dup (x : Spec) : (s.setSpec x).dup = s.dup := rfl
@[simp] theorem State.setSpec_dupNext (x : Spec) : (s.setSpec x).dupNext = s.dupNext := rfl
@[simp] theorem State.setSpec_ing (x : Spec) : (s.setSpec x).ing = s.ing := rfl
@[simp] theorem State.setSpec_chs (x : Spec) : (s.setSpec x).chs = s.chs := rfl
@[simp] theorem State.setSpec_snr (x : Spec) : (s.setSpec x).snr = s.snr := rfl
@[simp] theorem State.setSpec_mbx (x : Spec) : (s.setSpec x).mbx = s.mbx := rfl
@[simp] theorem State.setSpec_img (x : Spec) : (s.setSpec x).img = s.img := rfl
@[simp] theorem State.setSpec_oldImg (x : Spec) : (s.setSpec x).oldImg = s.oldImg := rfl
@[simp] theorem State.setSpec_swap (x : Spec) : (s.setSpec x).swap = s.swap := rfl
@[simp] theorem State.setSpec_swapTick (x : Spec) : (s.setSpec x).swapTick = s.swapTick := rfl
@[simp] theorem State.setSpec_pgh (x : Spec) : (s.setSpec x).pgh = s.pgh := rfl
@[simp] theorem State.setSpec_tmb (x : Spec) : (s.setSpec x).tmb = s.tmb := rfl
@[simp] theorem State.setSpec_coh (x : Spec) : (s.setSpec x).coh = s.coh := rfl
@[simp] theorem State.setSpec_alm (x : Spec) : (s.setSpec x).alm = s.alm := rfl
@[simp] theorem State.setSpec_acc (x : Spec) : (s.setSpec x).acc = s.acc := rfl
@[simp] theorem State.setSpec_egr (x : Spec) : (s.setSpec x).egr = s.egr := rfl
@[simp] theorem State.setSpec_lmf (x : Spec) : (s.setSpec x).lmf = s.lmf := rfl
@[simp] theorem State.setSpec_pair (x : Spec) : (s.setSpec x).pair = s.pair := rfl
@[simp] theorem State.setSpec_bur (x : Spec) : (s.setSpec x).bur = s.bur := rfl
@[simp] theorem State.setSpec_bench (x : Spec) : (s.setSpec x).bench = s.bench := rfl
@[simp] theorem State.setSpec_pmc (x : Spec) : (s.setSpec x).pmc = s.pmc := rfl
@[simp] theorem State.setSpec_tst (x : Spec) : (s.setSpec x).tst = s.tst := rfl
@[simp] theorem State.setSpec_pio (x : Spec) : (s.setSpec x).pio = s.pio := rfl
@[simp] theorem State.setSpec_smArmed (x : Spec) : (s.setSpec x).smArmed = s.smArmed := rfl
@[simp] theorem State.setSpec_mram (x : Spec) : (s.setSpec x).mram = s.mram := rfl
@[simp] theorem State.setSpec_nand (x : Spec) : (s.setSpec x).nand = s.nand := rfl
@[simp] theorem State.setSpec_up (x : Spec) : (s.setSpec x).up = s.up := rfl
@[simp] theorem State.setSpec_fv (x : Spec) : (s.setSpec x).fv = s.fv := rfl
@[simp] theorem State.setSpec_out (x : Spec) : (s.setSpec x).out = s.out := rfl
@[simp] theorem State.setSpec_pending (x : Spec) : (s.setSpec x).pending = s.pending := rfl
@[simp] theorem State.setSpec_rd (x : Spec) (g : Fld) : (s.setSpec x).rd g = s.rd g := rfl
@[simp] theorem State.setSpec_self (x : Spec) : (s.setSpec x).spec = x := rfl

@[simp] theorem State.setTmb_regs (t : Tmb) : (s.setTmb t).regs = s.regs := rfl
@[simp] theorem State.setTmb_pwr (t : Tmb) : (s.setTmb t).pwr = s.pwr := rfl
@[simp] theorem State.setTmb_dom (t : Tmb) : (s.setTmb t).dom = s.dom := rfl
@[simp] theorem State.setTmb_clv (t : Tmb) : (s.setTmb t).clv = s.clv := rfl
@[simp] theorem State.setTmb_ports (t : Tmb) : (s.setTmb t).ports = s.ports := rfl
@[simp] theorem State.setTmb_dup (t : Tmb) : (s.setTmb t).dup = s.dup := rfl
@[simp] theorem State.setTmb_dupNext (t : Tmb) : (s.setTmb t).dupNext = s.dupNext := rfl
@[simp] theorem State.setTmb_ing (t : Tmb) : (s.setTmb t).ing = s.ing := rfl
@[simp] theorem State.setTmb_chs (t : Tmb) : (s.setTmb t).chs = s.chs := rfl
@[simp] theorem State.setTmb_snr (t : Tmb) : (s.setTmb t).snr = s.snr := rfl
@[simp] theorem State.setTmb_mbx (t : Tmb) : (s.setTmb t).mbx = s.mbx := rfl
@[simp] theorem State.setTmb_img (t : Tmb) : (s.setTmb t).img = s.img := rfl
@[simp] theorem State.setTmb_oldImg (t : Tmb) : (s.setTmb t).oldImg = s.oldImg := rfl
@[simp] theorem State.setTmb_swap (t : Tmb) : (s.setTmb t).swap = s.swap := rfl
@[simp] theorem State.setTmb_swapTick (t : Tmb) : (s.setTmb t).swapTick = s.swapTick := rfl
@[simp] theorem State.setTmb_pgh (t : Tmb) : (s.setTmb t).pgh = s.pgh := rfl
@[simp] theorem State.setTmb_spec (t : Tmb) : (s.setTmb t).spec = s.spec := rfl
@[simp] theorem State.setTmb_coh (t : Tmb) : (s.setTmb t).coh = s.coh := rfl
@[simp] theorem State.setTmb_alm (t : Tmb) : (s.setTmb t).alm = s.alm := rfl
@[simp] theorem State.setTmb_acc (t : Tmb) : (s.setTmb t).acc = s.acc := rfl
@[simp] theorem State.setTmb_egr (t : Tmb) : (s.setTmb t).egr = s.egr := rfl
@[simp] theorem State.setTmb_lmf (t : Tmb) : (s.setTmb t).lmf = s.lmf := rfl
@[simp] theorem State.setTmb_pair (t : Tmb) : (s.setTmb t).pair = s.pair := rfl
@[simp] theorem State.setTmb_bur (t : Tmb) : (s.setTmb t).bur = s.bur := rfl
@[simp] theorem State.setTmb_bench (t : Tmb) : (s.setTmb t).bench = s.bench := rfl
@[simp] theorem State.setTmb_pmc (t : Tmb) : (s.setTmb t).pmc = s.pmc := rfl
@[simp] theorem State.setTmb_tst (t : Tmb) : (s.setTmb t).tst = s.tst := rfl
@[simp] theorem State.setTmb_pio (t : Tmb) : (s.setTmb t).pio = s.pio := rfl
@[simp] theorem State.setTmb_smArmed (t : Tmb) : (s.setTmb t).smArmed = s.smArmed := rfl
@[simp] theorem State.setTmb_mram (t : Tmb) : (s.setTmb t).mram = s.mram := rfl
@[simp] theorem State.setTmb_nand (t : Tmb) : (s.setTmb t).nand = s.nand := rfl
@[simp] theorem State.setTmb_up (t : Tmb) : (s.setTmb t).up = s.up := rfl
@[simp] theorem State.setTmb_fv (t : Tmb) : (s.setTmb t).fv = s.fv := rfl
@[simp] theorem State.setTmb_out (t : Tmb) : (s.setTmb t).out = s.out := rfl
@[simp] theorem State.setTmb_pending (t : Tmb) : (s.setTmb t).pending = s.pending := rfl
@[simp] theorem State.setTmb_rd (t : Tmb) (g : Fld) : (s.setTmb t).rd g = s.rd g := rfl
@[simp] theorem State.setTmb_self (t : Tmb) : (s.setTmb t).tmb = t := rfl

@[simp] theorem State.setPmc_regs (p : Pmc) : (s.setPmc p).regs = s.regs := rfl
@[simp] theorem State.setPmc_pwr (p : Pmc) : (s.setPmc p).pwr = s.pwr := rfl
@[simp] theorem State.setPmc_dom (p : Pmc) : (s.setPmc p).dom = s.dom := rfl
@[simp] theorem State.setPmc_clv (p : Pmc) : (s.setPmc p).clv = s.clv := rfl
@[simp] theorem State.setPmc_ports (p : Pmc) : (s.setPmc p).ports = s.ports := rfl
@[simp] theorem State.setPmc_dup (p : Pmc) : (s.setPmc p).dup = s.dup := rfl
@[simp] theorem State.setPmc_dupNext (p : Pmc) : (s.setPmc p).dupNext = s.dupNext := rfl
@[simp] theorem State.setPmc_ing (p : Pmc) : (s.setPmc p).ing = s.ing := rfl
@[simp] theorem State.setPmc_chs (p : Pmc) : (s.setPmc p).chs = s.chs := rfl
@[simp] theorem State.setPmc_snr (p : Pmc) : (s.setPmc p).snr = s.snr := rfl
@[simp] theorem State.setPmc_mbx (p : Pmc) : (s.setPmc p).mbx = s.mbx := rfl
@[simp] theorem State.setPmc_img (p : Pmc) : (s.setPmc p).img = s.img := rfl
@[simp] theorem State.setPmc_oldImg (p : Pmc) : (s.setPmc p).oldImg = s.oldImg := rfl
@[simp] theorem State.setPmc_swap (p : Pmc) : (s.setPmc p).swap = s.swap := rfl
@[simp] theorem State.setPmc_swapTick (p : Pmc) : (s.setPmc p).swapTick = s.swapTick := rfl
@[simp] theorem State.setPmc_pgh (p : Pmc) : (s.setPmc p).pgh = s.pgh := rfl
@[simp] theorem State.setPmc_tmb (p : Pmc) : (s.setPmc p).tmb = s.tmb := rfl
@[simp] theorem State.setPmc_spec (p : Pmc) : (s.setPmc p).spec = s.spec := rfl
@[simp] theorem State.setPmc_coh (p : Pmc) : (s.setPmc p).coh = s.coh := rfl
@[simp] theorem State.setPmc_alm (p : Pmc) : (s.setPmc p).alm = s.alm := rfl
@[simp] theorem State.setPmc_acc (p : Pmc) : (s.setPmc p).acc = s.acc := rfl
@[simp] theorem State.setPmc_egr (p : Pmc) : (s.setPmc p).egr = s.egr := rfl
@[simp] theorem State.setPmc_lmf (p : Pmc) : (s.setPmc p).lmf = s.lmf := rfl
@[simp] theorem State.setPmc_pair (p : Pmc) : (s.setPmc p).pair = s.pair := rfl
@[simp] theorem State.setPmc_bur (p : Pmc) : (s.setPmc p).bur = s.bur := rfl
@[simp] theorem State.setPmc_bench (p : Pmc) : (s.setPmc p).bench = s.bench := rfl
@[simp] theorem State.setPmc_tst (p : Pmc) : (s.setPmc p).tst = s.tst := rfl
@[simp] theorem State.setPmc_pio (p : Pmc) : (s.setPmc p).pio = s.pio := rfl
@[simp] theorem State.setPmc_smArmed (p : Pmc) : (s.setPmc p).smArmed = s.smArmed := rfl
@[simp] theorem State.setPmc_mram (p : Pmc) : (s.setPmc p).mram = s.mram := rfl
@[simp] theorem State.setPmc_nand (p : Pmc) : (s.setPmc p).nand = s.nand := rfl
@[simp] theorem State.setPmc_up (p : Pmc) : (s.setPmc p).up = s.up := rfl
@[simp] theorem State.setPmc_fv (p : Pmc) : (s.setPmc p).fv = s.fv := rfl
@[simp] theorem State.setPmc_out (p : Pmc) : (s.setPmc p).out = s.out := rfl
@[simp] theorem State.setPmc_pending (p : Pmc) : (s.setPmc p).pending = s.pending := rfl
@[simp] theorem State.setPmc_rd (p : Pmc) (g : Fld) : (s.setPmc p).rd g = s.rd g := rfl
@[simp] theorem State.setPmc_self (p : Pmc) : (s.setPmc p).pmc = p := rfl

@[simp] theorem State.setChs_regs (c : ChestMram) : (s.setChs c).regs = s.regs := rfl
@[simp] theorem State.setChs_pwr (c : ChestMram) : (s.setChs c).pwr = s.pwr := rfl
@[simp] theorem State.setChs_dom (c : ChestMram) : (s.setChs c).dom = s.dom := rfl
@[simp] theorem State.setChs_clv (c : ChestMram) : (s.setChs c).clv = s.clv := rfl
@[simp] theorem State.setChs_ports (c : ChestMram) : (s.setChs c).ports = s.ports := rfl
@[simp] theorem State.setChs_dup (c : ChestMram) : (s.setChs c).dup = s.dup := rfl
@[simp] theorem State.setChs_dupNext (c : ChestMram) : (s.setChs c).dupNext = s.dupNext := rfl
@[simp] theorem State.setChs_ing (c : ChestMram) : (s.setChs c).ing = s.ing := rfl
@[simp] theorem State.setChs_chs (c : ChestMram) : (s.setChs c).chs = s.chs := rfl
@[simp] theorem State.setChs_snr (c : ChestMram) : (s.setChs c).snr = s.snr := rfl
@[simp] theorem State.setChs_mbx (c : ChestMram) : (s.setChs c).mbx = s.mbx := rfl
@[simp] theorem State.setChs_img (c : ChestMram) : (s.setChs c).img = s.img := rfl
@[simp] theorem State.setChs_oldImg (c : ChestMram) : (s.setChs c).oldImg = s.oldImg := rfl
@[simp] theorem State.setChs_swap (c : ChestMram) : (s.setChs c).swap = s.swap := rfl
@[simp] theorem State.setChs_swapTick (c : ChestMram) : (s.setChs c).swapTick = s.swapTick := rfl
@[simp] theorem State.setChs_pgh (c : ChestMram) : (s.setChs c).pgh = s.pgh := rfl
@[simp] theorem State.setChs_tmb (c : ChestMram) : (s.setChs c).tmb = s.tmb := rfl
@[simp] theorem State.setChs_spec (c : ChestMram) : (s.setChs c).spec = s.spec := rfl
@[simp] theorem State.setChs_coh (c : ChestMram) : (s.setChs c).coh = s.coh := rfl
@[simp] theorem State.setChs_alm (c : ChestMram) : (s.setChs c).alm = s.alm := rfl
@[simp] theorem State.setChs_acc (c : ChestMram) : (s.setChs c).acc = s.acc := rfl
@[simp] theorem State.setChs_egr (c : ChestMram) : (s.setChs c).egr = s.egr := rfl
@[simp] theorem State.setChs_lmf (c : ChestMram) : (s.setChs c).lmf = s.lmf := rfl
@[simp] theorem State.setChs_pair (c : ChestMram) : (s.setChs c).pair = s.pair := rfl
@[simp] theorem State.setChs_bur (c : ChestMram) : (s.setChs c).bur = s.bur := rfl
@[simp] theorem State.setChs_bench (c : ChestMram) : (s.setChs c).bench = s.bench := rfl
@[simp] theorem State.setChs_pmc (c : ChestMram) : (s.setChs c).pmc = s.pmc := rfl
@[simp] theorem State.setChs_tst (c : ChestMram) : (s.setChs c).tst = s.tst := rfl
@[simp] theorem State.setChs_pio (c : ChestMram) : (s.setChs c).pio = s.pio := rfl
@[simp] theorem State.setChs_smArmed (c : ChestMram) : (s.setChs c).smArmed = s.smArmed := rfl
@[simp] theorem State.setChs_nand (c : ChestMram) : (s.setChs c).nand = s.nand := rfl
@[simp] theorem State.setChs_up (c : ChestMram) : (s.setChs c).up = s.up := rfl
@[simp] theorem State.setChs_fv (c : ChestMram) : (s.setChs c).fv = s.fv := rfl
@[simp] theorem State.setChs_out (c : ChestMram) : (s.setChs c).out = s.out := rfl
@[simp] theorem State.setChs_pending (c : ChestMram) : (s.setChs c).pending = s.pending := rfl
@[simp] theorem State.setChs_rd (c : ChestMram) (g : Fld) : (s.setChs c).rd g = s.rd g := rfl

/-- A register field reads what was written to it, at its width. -/
@[simp] theorem State.rd_wr (f : Fld) (v : Nat) : (s.wr f v).rd f = trunc f.w v := smGet_smSet_self ..

/-- A write leaves every other field alone. -/
theorem State.rd_wr_ne {f g : Fld} (h : g.key ≠ f.key) (v : Nat) : (s.wr f v).rd g = s.rd g :=
  smGet_smSet_ne _ _ _ _ h

end Sys2Proof.Machine
end

