-- ==== Sys2Proof/Laws/Records.lean ====
section
/-!
SUPPORT. Which blocks of the register file an operation writes to; posting a record writes to those of Snare and the Chest only (R361, R366,
R373).
-/

namespace Sys2Proof.Machine

/-- The 64 KiB block of a field. -/
def Fld.block (f : Fld) : Nat := f.key / 32 / 0x10000

/-- Every register outside the blocks `B` reads as in `o`. -/
def RegsOut (B : List Nat) (o s : State) : Prop := ∀ f : Fld, f.block ∉ B → s.rd f = o.rd f

theorem regsOut_refl (B : List Nat) (s : State) : RegsOut B s s := fun _ _ => rfl

theorem regsOut_wr {B : List Nat} {o s : State} {f : Fld} (v : Nat) (h : RegsOut B o s) (hb : f.block ∈ B) : RegsOut B o (s.wr f v) := by
  intro g hg
  rw [State.rd_wr_ne]
  · exact h g hg
  · intro e
    unfold Fld.block at *
    rw [e] at hg
    exact hg hb

theorem regsOut_wrB {B : List Nat} {o s : State} {f : Fld} (b : Bool) (h : RegsOut B o s) (hb : f.block ∈ B) : RegsOut B o (s.wrB f b) :=
  regsOut_wr _ h hb

theorem regsOut_inc {B : List Nat} {o s : State} {f : Fld} (n : Nat) (h : RegsOut B o s) (hb : f.block ∈ B) : RegsOut B o (s.inc f n) :=
  regsOut_wr _ h hb

theorem regsOut_flag {B : List Nat} {o s : State} {f : Fld} (n : Nat) (h : RegsOut B o s) (hb : f.block ∈ B) : RegsOut B o (s.flag f n) :=
  regsOut_wr _ h hb

theorem regsOut_wr64 {B : List Nat} {o s : State} {f : Fld} (v : Nat) (h : RegsOut B o s) (hb : f.block ∈ B) (hh : (liveHi f).block ∈ B) :
    RegsOut B o (s.wr64 f v) :=
  regsOut_wr _ (regsOut_wr _ h hb) hh

theorem regsOut_regs {B : List Nat} {o s t : State} (h : RegsOut B o s) (e : t.regs = s.regs) : RegsOut B o t := by
  intro f hf
  unfold State.rd
  rw [e]
  exact h f hf

theorem regsOut_ite {B : List Nat} {o : State} {c : Prop} [Decidable c] {a b : State} (ha : RegsOut B o a) (hb : RegsOut B o b) :
    RegsOut B o (if c then a else b) := by
  split <;> assumption

theorem regsOut_foldl {B : List Nat} {o : State} {α : Type} {l : List α} {f : State → α → State} {s : State} (h : RegsOut B o s)
    (hf : ∀ s x, x ∈ l → RegsOut B o s → RegsOut B o (f s x)) : RegsOut B o (l.foldl f s) := by
  induction l generalizing s with
  | nil => exact h
  | cons x xs ih => exact ih (hf s x (by simp) h) fun s y hy => hf s y (by simp [hy])

theorem ev_regs (e n : Nat) (s : State) : (State.ev e s n).regs = s.regs := by
  unfold State.ev
  split
  · rfl
  · rename_i i _
    generalize List.range i.counters.length = l
    suffices h : ∀ (t : State), t.regs = s.regs → (l.foldl _ t).regs = s.regs from h s rfl
    induction l with
    | nil => exact fun t h => h
    | cons x xs ih =>
      intro t h
      refine ih _ ?_
      dsimp only
      repeat' first
        | exact h
        | split

theorem regsOut_ev {B : List Nat} {o s : State} (e n : Nat) (h : RegsOut B o s) : RegsOut B o (State.ev e s n) := regsOut_regs h (ev_regs ..)

theorem snareStart_regs {B : List Nat} {o s : State} {k : Nat} (hB : 0x0C ∈ B) (hk : k < 4) (cause t0 : Nat) (cfg : SnrDefCfg)
    (h : RegsOut B o s) : RegsOut B o (snareStart k cause t0 cfg s) := by
  have hb : ∀ {f : Fld}, f.block = 0x0C → f.block ∈ B := fun e => e ▸ hB
  unfold snareStart
  dsimp only
  refine regsOut_ite (regsOut_flag _ ?_ (hb (by decide))) ?_
  all_goals
    repeat' first
      | with_reducible assumption
      | with_reducible refine regsOut_wr _ ?_ (hb ?_)
      | with_reducible refine regsOut_wrB _ ?_ (hb ?_)
      | with_reducible refine regsOut_wr64 _ ?_ (hb ?_) (hb ?_)
      | exact regsOut_regs h rfl
      | (interval_cases k <;> decide)

theorem snareTrigger_regs {B : List Nat} {o s : State} {k : Nat} (hB : 0x0C ∈ B) (hk : k < 4) (cause tick : Nat) (h : RegsOut B o s) :
    RegsOut B o (snareTrigger k cause tick s) := by
  have hb : ∀ {f : Fld}, f.block = 0x0C → f.block ∈ B := fun e => e ▸ hB
  unfold snareTrigger
  repeat' first
    | with_reducible assumption
    | with_reducible refine snareStart_regs hB hk _ _ _ ?_
    | with_reducible refine regsOut_wr _ ?_ (hb ?_)
    | with_reducible refine regsOut_inc _ ?_ (hb ?_)
    | with_reducible refine regsOut_flag _ ?_ (hb ?_)
    | with_reducible refine regsOut_ite ?_ ?_
    | (interval_cases k <;> decide)
    | split
    | dsimp only
    | (refine regsOut_regs (s := State.inc _ _ _) ?_ rfl)

theorem snareTriggerAll_regs {B : List Nat} {o s : State} (hB : 0x0C ∈ B) (p : SnrTerm → Bool) (cause tick : Nat) (h : RegsOut B o s) :
    RegsOut B o (snareTriggerAll p cause tick s) := by
  refine regsOut_foldl h fun s k hk h => ?_
  have hk : k < 4 := List.mem_range.1 hk
  split
  · exact regsOut_ite (snareTrigger_regs hB hk _ _ h) h
  · exact h

theorem suppress_regs {B : List Nat} {o s : State} (hB : 0x0D ∈ B) (code : Nat) (h : RegsOut B o s) : RegsOut B o (suppress code s) := by
  have hb : ∀ {f : Fld}, f.block = 0x0D → f.block ∈ B := fun e => e ▸ hB
  exact regsOut_flag _ (regsOut_inc _ (regsOut_regs (regsOut_ev _ _ h) rfl) (hb (by decide))) (hb (by decide))

theorem coalesce_regs {B : List Nat} {o s : State} (hB : 0x0D ∈ B) (h : RegsOut B o s) : RegsOut B o (coalesce s) := by
  have hb : ∀ {f : Fld}, f.block = 0x0D → f.block ∈ B := fun e => e ▸ hB
  unfold coalesce
  have h1 := regsOut_inc (f := fCHS_COAL_CNT_POSTS) 1 h (hb (by decide))
  dsimp only
  split
  · exact regsOut_regs h1 rfl
  · split
    · exact regsOut_regs h1 rfl
    · exact h1

theorem rateLimit_regs {B : List Nat} {o s : State} (hB : 0x0D ∈ B) (code : Nat) (payload : Bytes) (trunc : Bool) (h : RegsOut B o s) :
    RegsOut B o (rateLimit code payload trunc s) := by
  have hr : RegsOut B o (refillBucket code s) := by
    unfold refillBucket
    dsimp only
    repeat' first
      | exact h
      | exact regsOut_regs h rfl
      | split
  unfold rateLimit
  split
  · exact regsOut_regs h rfl
  · dsimp only
    split
    · exact suppress_regs hB _ hr
    · exact regsOut_regs hr rfl

/-- A post writes to the registers of Snare and of the Chest only. -/
theorem postAt_regs {B : List Nat} {o s : State} (hC : 0x0C ∈ B) (hD : 0x0D ∈ B) (tick code : Nat) (payload : Bytes) (h : RegsOut B o s) :
    RegsOut B o (postAt tick code payload s) := by
  have hs := snareTriggerAll_regs hC (fun t => t = SnrTerm.event code) causeEvent tick h
  have hb : fCHS_FLT_FLAGS.block ∈ B := (show fCHS_FLT_FLAGS.block = 0x0D by decide) ▸ hD
  exact regsOut_ite (regsOut_flag _ (suppress_regs hD _ hs) hb) (regsOut_ite (coalesce_regs hD hs) (rateLimit_regs hD _ _ _ hs))

theorem post_regs {B : List Nat} {o s : State} (hC : 0x0C ∈ B) (hD : 0x0D ∈ B) (code : Nat) (payload : Bytes) (h : RegsOut B o s) :
    RegsOut B o (post code payload s) := postAt_regs hC hD _ _ _ h

/-- A register outside the blocks of Snare and the Chest reads as before a post. -/
theorem post_rd {f : Fld} (code : Nat) (payload : Bytes) (s : State) (h : f.block ≠ 0x0C ∧ f.block ≠ 0x0D) :
    (post code payload s).rd f = s.rd f :=
  post_regs (B := [0x0C, 0x0D]) (by decide) (by decide) code payload (regsOut_refl _ s) f (by simpa using h)

end Sys2Proof.Machine
end

