-- ==== Sys2Proof/WellFormed.lean ====
section
/-!
DEFINITION. Well-formed commands: operands that what they stand for can take on. A meaning does not rest on it: an operand too wide is
reduced to its width where it is stored.
-/

namespace Sys2Proof

/-- An aligned offset within the 16 MiB register window (R535). -/
def offsetWf (v : Nat) : Bool := v < 0x1000000 && v % 4 = 0
def byteWf (v : Nat) : Bool := v < 2 ^ 8
def halfWf (v : Nat) : Bool := v < 2 ^ 16
def wordWf (v : Nat) : Bool := v < 2 ^ 32
/-- Time stamps, ticks and sequence numbers are 64 bits wide. -/
def stampWf (v : Nat) : Bool := v < 2 ^ 64
/-- A nonce of 16 bytes (R394, R402). -/
def quadWf (v : Nat) : Bool := v < 2 ^ 128
/-- An address is 128 bits wide, an IPv4 one in mapped form (log entry 7). -/
def addrWf (v : Nat) : Bool := v < 2 ^ 128
/-- The answer to a challenge is 8 groups of 4 hex digits (R394). -/
def answerWf (v : Nat) : Bool := v < 2 ^ 128
/-- A temperature in units of 0.1 °C, as SYS_TEMP_STS holds it (R60). -/
def tempWf (v : Int) : Bool := -32768 ≤ v && v < 32768
/-- A source of commands: four channels, the Bench, the partner. -/
def srcWf (s : CmdSrc) : Bool := match s with | .chan c => c < 4 | .bench => true | .partner => true
def optSrcWf (s : Option CmdSrc) : Bool := match s with | some s => srcWf s | none => true
/-- At most 62 argument words (R477). -/
def argsWf (l : List Nat) : Bool := l.length ≤ 62 && l.all wordWf
def addrsWf (l : List Nat) : Bool := l.all stampWf
/-- A record is at most 256 bytes long, of which 32 are not payload (R359). -/
def payloadWf (b : Bytes) : Bool := b.length ≤ 224
/-- A frame is at most 9,216 bytes long with its FCS, which the bytes leave out (R101). -/
def frameWf (b : Bytes) : Bool := b.length ≤ 9212

/-- An ECC event corrects at least one error and fits its counter. -/
def eccWf (e : EccErr) : Bool := match e with | .corrected n => 0 < n && wordWf n | .lost => true
/-- A command frame of C37.118.2: the TCP connection, where it came by one, is one of the 16 of R326. -/
def cmdWf (c : CmdFrame) : Bool :=
  c.port < 64 && (match c.tcp with | some k => k < 16 | none => true) && addrWf c.src && halfWf c.sport && c.srcMac < 2 ^ 48 && halfWf c.idcode

def Instr.wf (i : Instr) : Bool :=
  match i with
  | .coldStart vinMv storeUf die lid _ => halfWf vinMv && wordWf storeUf && tempWf die && tempWf lid
  | .startGroupRamp => true
  | .startStageComplete storeMv => wordWf storeMv
  | .startPaused vinMv => halfWf vinMv
  | .startResume => true
  | .vinTempSample vinMv iinMa storeMv die lid => halfWf vinMv && halfWf iinMa && wordWf storeMv && tempWf die && tempWf lid
  | .thermalShutdown vinMv die lid => halfWf vinMv && tempWf die && tempWf lid
  | .overvoltage vinMv die => halfWf vinMv && tempWf die
  | .powerFail vinMv die => halfWf vinMv && tempWf die
  | .shutdownCommit => true
  | .modReset => true
  | .pciePerstAssert => true
  | .pciePerstRelease _ => true
  | .hotReset => true
  | .functionLevelReset => true
  | .stewardWatchdog => true
  | .domRstCtl _ _ => true
  | .heldAccessRelease _ => true
  | .registerWrite off val _ _ _ => offsetWf off && wordWf val
  | .rcRead off _ => offsetWf off
  | .loLatchRead off _ => offsetWf off
  | .selectLatchWrite off val => offsetWf off && wordWf val
  | .tickInstant n => stampWf n
  | .sync _ _ seq t1 t2 _ _ => halfWf seq && stampWf t1 && stampWf t2
  | .followUp _ _ seq t1 _ => halfWf seq && stampWf t1
  | .announce _ _ _ interval => stampWf interval
  | .pdelayReq _ _ seq t2 asker => halfWf seq && stampWf t2 && quadWf asker
  | .pdelayResp _ _ seq t2 t3 t4 _ => halfWf seq && stampWf t2 && stampWf t3 && stampWf t4
  | .delayReq _ _ seq rx requester => halfWf seq && stampWf rx && quadWf requester
  | .delayResp _ _ seq t4 _ => halfWf seq && stampWf t4
  | .managementMessage _ _ => true
  | .ptpMasterTx _ _ => true
  | .irigFrame _ => true
  | .ppsEdge raw hold => stampWf raw && stampWf hold
  | .zda _ utcSec _ rxAt => stampWf utcSec && stampWf rxAt
  | .rmc _ _ _ utcSec => stampWf utcSec
  | .firstLockWaitExpiry => true
  | .srcLost => true
  | .stuck => true
  | .tickingBegin => true
  | .leap => true
  | .timeMramWrite => true
  | .reseatStep => true
  | .ttgArm _ => true
  | .ttgDisarm _ => true
  | .ttgEdge _ => true
  | .captureEdge _ raw hold _ => stampWf raw && stampWf hold
  | .capturePop _ => true
  | .linkUp _ _ _ => true
  | .linkDown _ => true
  | .anRetry _ _ _ => true
  | .linkRestart _ => true
  | .macRxFrame _ stamp bytes _ ce => stampWf stamp && wordWf ce && frameWf bytes
  | .dupLookup _ stamp bytes => stampWf stamp && frameWf bytes
  | .dupWaitRelease _ => true
  | .dupEntryExpire => true
  | .pauseRx _ _ => true
  | .pauseExpire _ => true
  | .pauseObeyWrite _ _ => true
  | .pmacVerify _ => true
  | .verifyResponseRx _ => true
  | .pmacEnWrite _ _ => true
  | .txFrameStart _ sent => halfWf sent
  | .txFrameSent _ stamp _ ce => stampWf stamp && wordWf ce
  | .egressSchedule _ => true
  | .hostRxRingPlace _ addrs => addrsWf addrs
  | .ingressParse _ => true
  | .dataFrame _ => true
  | .cfg1Frame _ => true
  | .cfg2Frame _ => true
  | .cfg3Frame _ contIdx _ _ => halfWf contIdx
  | .headerFrame _ => true
  | .ieee1344DataFrame _ _ => true
  | .ieee1344CfgFrame _ ident _ _ _ => stampWf ident
  | .routedSvFrame _ _ => true
  | .cfgActivate stream => halfWf stream
  | .ingressCommit _ => true
  | .tcpConnect _ => true
  | .tcpRetry _ => true
  | .tcpDown _ => true
  | .membershipReport _ => true
  | .arpRequest _ target asker askMac => addrWf target && addrWf asker && stampWf askMac
  | .macResolve => true
  | .recordArrival => true
  | .resamplerInput => true
  | .closeTokenIssue => true
  | .closeTokenProcess => true
  | .missingTemplateWrite => true
  | .learningMramWrite _ => true
  | .pghSramUe e _ n _ => eccWf e && stampWf n
  | .instanceActivate => true
  | .itemDispatch _ => true
  | .itemStart _ _ => true
  | .itemRetire _ extra => wordWf extra
  | .agePromotion => true
  | .tableSramUe e n _ => eccWf e && stampWf n
  | .laneLsUe e _ => eccWf e
  | .fetchUe _ k _ => stampWf k
  | .gather n _ => stampWf n
  | .qualScan n _ => stampWf n
  | .rsmpStatus n _ => stampWf n
  | .select n _ => stampWf n
  | .scale n _ => stampWf n
  | .maskLogic n _ => stampWf n
  | .countFlags n _ => stampWf n
  | .phToPolar n _ => stampWf n
  | .phToRect n _ => stampWf n
  | .phAngdiff n _ => stampWf n
  | .phRotate n _ => stampWf n
  | .phSeq n _ => stampWf n
  | .phPower n _ => stampWf n
  | .phPower3 n _ => stampWf n
  | .phWsum n _ => stampWf n
  | .phUnbal n _ => stampWf n
  | .freqWmean n _ => stampWf n
  | .sigFir n _ => stampWf n
  | .sigDiff n _ => stampWf n
  | .angUnwrap n _ => stampWf n
  | .angWrap n _ => stampWf n
  | .cmatvec n _ => stampWf n
  | .rmatvec n _ => stampWf n
  | .lsqSmall n _ => stampWf n
  | .interpLin n _ => stampWf n
  | .minmax n _ => stampWf n
  | .ewmaVar n _ => stampWf n
  | .topk n _ => stampWf n
  | .clamp n _ => stampWf n
  | .statBlock n _ => stampWf n
  | .detLevel n _ => stampWf n
  | .detRate n _ => stampWf n
  | .detAngsep n _ => stampWf n
  | .detSagswell n _ => stampWf n
  | .detFreq n _ => stampWf n
  | .detStep n _ => stampWf n
  | .detDigital n _ => stampWf n
  | .detVote n _ => stampWf n
  | .almPost n _ => stampWf n
  | .almPio n _ => stampWf n
  | .evtPost n _ => stampWf n
  | .evtMerge n _ => stampWf n
  | .specPrep n _ => stampWf n
  | .modePrep n _ => stampWf n
  | .cohPrep n _ => stampWf n
  | .accPrep n _ => stampWf n
  | .defPrep n _ => stampWf n
  | .snrPrep n _ => stampWf n
  | .pmuHealth n _ => stampWf n
  | .outDecim n _ => stampWf n
  | .outPack2011 n _ => stampWf n
  | .outPack2005 n _ => stampWf n
  | .outPackRaw n _ => stampWf n
  | .outStat n _ => stampWf n
  | .outAmendPack n _ => stampWf n
  | .tickSummary n _ => stampWf n
  | .nop n _ src args => stampWf n && optSrcWf src && argsWf args
  | .sdftUpdate n _ => stampWf n
  | .defUpdate n _ => stampWf n
  | .modeTrack n _ => stampWf n
  | .components n _ => stampWf n
  | .integrate n _ => stampWf n
  | .compose n _ => stampWf n
  | .amend n _ => stampWf n
  | .specStateUe e _ index => eccWf e && halfWf index
  | .cohSramUe e => eccWf e
  | .alarmFrameSend _ n => stampWf n
  | .alarmHeartbeat _ n => stampWf n
  | .gooseRetransmit _ => true
  | .almAck _ _ => true
  | .almInh bits => wordWf bits
  | .maxClr => true
  | .minClr => true
  | .accCommit _ => true
  | .accSramUe e _ => eccWf e
  | .pulseStart _ => true
  | .pulseEnd _ => true
  | .cmdTurnOff c => cmdWf c
  | .cmdTurnOn c => cmdWf c
  | .cmdSendHeader c => cmdWf c
  | .cmdSendCfg1 c => cmdWf c
  | .cmdSendCfg2 c => cmdWf c
  | .cmdSendCfg3 c => cmdWf c
  | .composerBpWaitEnd => true
  | .rawBlockWrite _ addrs => addrsWf addrs
  | .hostTxProdWrite _ prod _ => wordWf prod
  | .ringDmaFault _ => true
  | .snareArm _ => true
  | .snareDisarm _ => true
  | .snareRelease _ => true
  | .snareHostTrig _ => true
  | .snarePioEdge _ raw hold _ => stampWf raw && stampWf hold
  | .snareAutoTrigger _ => true
  | .snareRowWrite => true
  | .snareAutoExport _ => true
  | .eventPost _ payload => payloadWf payload
  | .chestRecordWrite => true
  | .tokenRefill _ => true
  | .rollPageWrite _ => true
  | .chestFlush => true
  | .chestMemoryFault _ => true
  | .chestFetch seqLo => wordWf seqLo
  | .chestFetchDone => true
  | .tamper _ raw hold => stampWf raw && stampWf hold
  | .zeroizeJournal => true
  | .burSramUe e _ _ => eccWf e
  | .hello nonce _ serial => quadWf nonce && stampWf serial
  | .auth _ mac => stampWf mac
  | .heartbeat _ _ => true
  | .abdicate _ cause instant => byteWf cause && stampWf instant
  | .handover _ j => stampWf j
  | .prepare _ epoch c => stampWf epoch && stampWf c
  | .block _ epoch id _ _ => stampWf epoch && wordWf id
  | .endReady _ epoch count _ => stampWf epoch && wordWf count
  | .commit _ epoch k => stampWf epoch && stampWf k
  | .forward _ _ => true
  | .mirror _ op inst operand => halfWf op && stampWf inst && stampWf operand
  | .accSum _ tick _ => stampWf tick
  | .pairLaneDown _ => true
  | .pairAbdNFall => true
  | .pairAbdNRelease => true
  | .pairWatchdog => true
  | .pairWaitExpiry => true
  | .yieldRecover => true
  | .joinRetry => true
  | .joinTimeout => true
  | .sdOutput _ mods capA capB _ _ => mods.length ≤ 5120 && stampWf capA && stampWf capB
  | .sdRestartSettled _ => true
  | .localEstimateCommit n => stampWf n
  | .icvConversionEnd a b => 0 < a.vref && 0 < b.vref
  | .icvRefSettled _ => true
  | .icvRefWrite _ _ => true
  | .icvQueuePop _ => true
  | .swapPrepareDone => true
  | .mbxCommandComplete src _ => srcWf src
  | .getInfo src args => srcWf src && argsWf args
  | .commission src args => srcWf src && argsWf args
  | .timeReseat src args => srcWf src && argsWf args
  | .imageLoad src args _ _ _ => srcWf src && argsWf args
  | .imageSwap src args => srcWf src && argsWf args
  | .swapCancel src args => srcWf src && argsWf args
  | .imageInfo src args => srcWf src && argsWf args
  | .imageErase src args => srcWf src && argsWf args
  | .rootInstall src args => srcWf src && argsWf args
  | .keyLoad src args => srcWf src && argsWf args
  | .keyInvalidate src args => srcWf src && argsWf args
  | .keyPurge src args => srcWf src && argsWf args
  | .keySelect src args => srcWf src && argsWf args
  | .hmac src args _ _ => srcWf src && argsWf args
  | .gmac src args _ _ => srcWf src && argsWf args
  | .chestCopy src args _ => srcWf src && argsWf args
  | .chestLidCopy src args _ => srcWf src && argsWf args
  | .snareTrigger src args => srcWf src && argsWf args
  | .snareExport src args _ => srcWf src && argsWf args
  | .snareNandList src args _ => srcWf src && argsWf args
  | .snareNandRead src args _ => srcWf src && argsWf args
  | .snareNandDelete src args => srcWf src && argsWf args
  | .accZero src args => srcWf src && argsWf args
  | .pairHandover src args => srcWf src && argsWf args
  | .pairForce src args => srcWf src && argsWf args
  | .pairJoin src args => srcWf src && argsWf args
  | .benchSessionOpen => true
  | .benchIdleTimeout => true
  | .benchLockoutExpiry => true
  | .help => true
  | .who => true
  | .login _ => true
  | .answer ans => answerWf ans
  | .logout => true
  | .rd off n => offsetWf off && stampWf n
  | .wr off val => offsetWf off && wordWf val
  | .ctrSnap first n => halfWf first && stampWf n
  | .ctrPort _ => true
  | .trace n => stampWf n
  | .chest seq n => stampWf seq && stampWf n
  | .status => true
  | .pmcPortSel _ => true
  | .pmcTraceSel seq _ => wordWf seq
  | .traceEntryWrite => true
  | .tstEn _ => true
  | .portDelay _ => true
  | .egrBp _ => true
  | .laneStall _ => true
  | .cdcStretch _ => true
  | .closeShift _ => true
  | .eccInject _ => true
  | .timeSkew _ => true
  | .stallArm => true
  | .laneStallStart => true
  | .laneStallEnd => true
  | .egrBpPhase => true
  | .smEoi _ => true
  | .windowInterrupt => true
  | .holdoverQualLost => true
  | .announceReceiptTimeout _ => true
  | .arpReply addr mac => addrWf addr && stampWf mac

end Sys2Proof
end

