-- ==== Sys2Proof/Tests/Slice0.lean ====
section
/-!
SUPPORT. Tests: WellFormed refuses what is ill formed, and for every statement's clauses a state and operands that meet all its hypotheses together.
-/

open Sys2Proof Sys2Proof.Machine

namespace Sys2Proof.Tests

/-- After reset, in this phase of power. -/
def inPhase (p : PwrPhase) : State := { State.reset with pwr := { State.reset.pwr with phase := p } }
/-- Running, PCI Express up. -/
def running : State :=
  { State.reset with pwr := { State.reset.pwr with phase := .running, pgood := true, perst := false, pcieUp := true } }
/-- Running and LOCKED to a source at 1,000 s. -/
def locked (src : Nat) : State :=
  (({ running with clv := { now := 1000000000000 } } : State).wr fCLV_STS_STATE clvLocked |>.wr fCLV_STS_SRC src).wr fCLV_STS_STEPPED 1
/-- In HOLDOVER for `up` ns. -/
def holdover (up : Nat) : State := { (locked srcPtp).wr fCLV_STS_STATE clvHoldover with up := up }
/-- LOCKED to PTP through port 7, a slave. -/
def slave : State :=
  let s := ((locked srcPtp).wr (fCLV_PTP_PORT_CFG_EN 7) 1).wr fCLV_PTP_CFG_DOMAIN 0
  { s with clv := { s.clv with ptp := s.clv.ptp.set 7 { role := .slave, delay := 40, twoStep := some (5, 1000000000000, 3) } } }
/-- Port 7 a master. -/
def master : State :=
  { slave with clv := { slave.clv with ptp := slave.clv.ptp.set 7 { role := .master, txSeq := 65535 } } }
def dataset : PtpDataset := ⟨128, 6, 0x21, 0, 128, 77, 0, 50, some 37, false, false, true, true, []⟩
/-- LOCKED to PPS with the PPS input as the time of day's. -/
def todPps : State := (locked srcPps).wr fCLV_TOD_CFG_EN 1
/-- LOCKED to IRIG-B. -/
def irig : State := (locked srcIrig).wr fCLV_IRIG_CFG_EN 1
/-- A C37.118 frame of type `typ` from IDCODE 7 at SOC 1,000. -/
def c37Of (typ : Nat) (body : Bytes) : Bytes :=
  let b := be 1 0xAA ++ be 1 (typ * 16 + 2) ++ be 2 (16 + body.length) ++ be 2 7 ++ be 4 1000 ++ be 4 0 ++ body
  b ++ be 2 (crcCcitt b)
def dataPayload : Bytes := c37Of 0 (be 2 0 ++ be 2 0 ++ be 2 0)
/-- A data frame that says its configuration has changed. -/
def changedPayload : Bytes := c37Of 0 (be 2 0x0400 ++ be 2 0 ++ be 2 0)
/-- A configuration of one block without phasors, at a rate. -/
def cfg2Of (rate : Nat) : Bytes :=
  c37Of 3 (be 4 1000000 ++ be 2 1 ++ List.replicate 16 0x41#8 ++ be 2 7 ++ be 2 0 ++ be 2 0 ++ be 2 0 ++ be 2 0 ++ be 2 0 ++ be 2 1 ++ be 2 rate)
def cfg2Payload : Bytes := cfg2Of 50
def streamCfg : StreamCfg := readCfg2 cfg2Payload
/-- 10.0.0.1, mapped. -/
def ownAddr : Nat := 0xFFFF0A000001
/-- A frame that carries this payload from 10.0.0.2 to 10.0.0.1, port 4712. -/
def udpTo (p : Bytes) : Bytes :=
  let h := fun c => be 2 0x4500 ++ be 2 (28 + p.length) ++ be 4 0 ++ be 2 0x4011 ++ be 2 c ++ be 4 0x0A000002 ++ be 4 0x0A000001
  List.replicate 12 2#8 ++ be 2 0x0800 ++ h (65535 - fold16 (sum16 (h 0))) ++ be 2 4712 ++ be 2 4712 ++ be 2 (8 + p.length) ++ be 2 0 ++ p
def bind0 : Binding :=
  { slot := 0, group := 0, stream := 0, fmt := .c37 7 0, udpPort := 4712, tcp := none, srcIp := none, vlan := none, nph := 0, nan := 0, ndg := 0,
    auth := false, keyGroup := 0, rsmp := .brisk, offsetNs := 0 }
def image0 : Image :=
  { ports := [{ mode := 1, unicast := [ownAddr] }], streams := [{ cfg := some streamCfg, command := none }], groups := [{ policy := 1 }],
    bindings := [bind0] }
/-- Running under `image0`, LOCKED, the link of port 0 up. -/
def linked : State := ({ locked srcPtp with img := some image0 } : State).wr (fPORT_STS_LINK 0) 1 |>.wr (fPORT_CFG_MODE 0) 1
/-- The state with port 0 as this. -/
def withPort (s : State) (p : Port) : State := { s with ports := s.ports.set 0 p }
def rxData : RxFrame := { stamp := 1000000001000, len := (udpTo dataPayload).length + 4, bytes := udpTo dataPayload, lan := 0, trunc := false, dup := .unchecked, started := false }
def txFrame : TxFrame := { bytes := List.replicate 60 1#8, sender := .steward, queued := 0 }
/-- The parser's work on a frame of port 0. -/
def jobOf (k : FrameKind) (p : Bytes) : ParseJob :=
  { kind := k, payload := p, stamp := 1000000001000, port := 0, lan := 0, trunc := false, tcp := false, slots := [0] }
def parsing (j : ParseJob) : State := withPort linked { job := some j, rx := [rxData] }
def data1344 : I1344Data :=
  { ident := 7, sizeOk := true, chkOk := true, utcSec := 1000, smpCnt := 0, unsync := false, phasors := [], freq := 0, dfreq := 0, digitals := [] }
def svBind (auth : Bool) : Binding := { bind0 with fmt := .sv [1#8] 5 [⟨.polar, false⟩], nph := 1, auth := auth }
def asdu : SvAsdu := { svid := [1#8], datSet := none, smpCnt := 0, smpRate := none, confRev := 5, smpSynch := 2, refrTm := some 1000000000000, values := [0, 0], quals := [] }
def svFrame : SvFrame :=
  { si := 0xA2, keyId := 0, spdu := 0, alg := 0, tag := [], signed := [], timeCur := 0, timeNext := 0, encrypted := false, idError := false, berError := false, fetchNs := 0, asdus := [asdu] }
def svState (auth : Bool) (j : ParseJob := jobOf .routedSv []) : State :=
  { parsing j with img := some { image0 with bindings := [svBind auth] } }
/-- Slot 0 bound to the 1344 stream 7. -/
def parsing1344 (j : ParseJob) : State := { parsing j with img := some { image0 with bindings := [{ bind0 with fmt := .i1344 7 }] } }
/-- A record of slot 0 at 1,000 s. -/
def record0 : SlotRecord :=
  { slot := 0, srcfmt := 1, cfgGen := 0, qual := 0, freq := 0, srcTime := 1000000000000, ingTime := 1000000001000, rocof := 0, stat := 0,
    path := 0, phasors := [], analogs := [], digitals := [] }
/-- One that was read at the base rate. -/
def direct0 : SlotRecord := { record0 with inRate := some 10 }
/-- Tick 10,000 is 1,000 s at 10 ticks a second. -/
def column : Column := { tick := 10000, inst := 1000000000000, win := some [100000000] }
/-- Ticking, with the column of tick 10,000 open. -/
def ticking : State :=
  { linked.wr fCLV_STS_TICKING 1 with pgh := { cols := [column], win := [100000000], nextOpen := 10001 }, tmb := { next := 10000 } }
def item (unit kernel : Nat) (ops : List Operand := []) : Item :=
  { cls := 3, lane := 0, unit := unit, kernel := kernel, noDefer := false, ops := ops, resOfs := 0, resLen := 64, cost := 100, p0 := 0, p1 := 0,
    p2 := 0 }
/-- Instance 10,000 of this image, its items in these runs; item 0 on place `p`. -/
def instance_ (im : Image) (runs : List ItemRun) (p : Nat := 0) : State :=
  { ticking with img := some im, up := 5,
                 tmb := { next := 10001, insts := [{ tick := 10000, runs := runs }], running := [(p, 10000, 0)] } }
/-- Item 0 runs on place `p`. -/
def runs (it : Item) (im : Image := image0) (p : Nat := 0) : State :=
  instance_ { im with items := [it] } [{ st := .running, place := some p }] p
/-- A kernel's input: its words and constants, with N and K. -/
def kernelIn (n k : Nat) (ws cs : List Nat) : KIn :=
  { n := 0, inst := 0, rate := 10, item := { item 0 1 [.result 0 0 0, .const 0 1] with p0 := n, p1 := k },
    ops := [.block { raw := ws, words := ws }, .block { raw := cs, words := cs }], dets := [], st := none }
def run0 : Inst := { tick := 10000, runs := [{ st := .running, place := some 0 }] }
def trkCfg : TrkCfg := { m := 1, dec := 2, tMem := 10, eval := 1, gapS := 2, modesMax := 1, matchHz := 0, eRef := 0, zSpread := 0, foNear := 0 }
def specImg : Image :=
  { image0 with spec := { sigs := [⟨0, 0, 0x3F800000⟩], bins := [⟨0x3F800000, 0x3F800000⟩], bands := [⟨0, 1⟩], trk := some trkCfg } }
def cohImg : Image := { image0 with coh := { nodes := 2, meas := [none, none], branches := [⟨0, 1, 0, false⟩] } }
/-- Item 0 of the table before the swap runs; the engines' state of it did not carry over. -/
def oldRun (it : Item) (im : Image) : State :=
  { runs it im with oldImg := some { im with items := [it] }, tmb := { insts := [{ run0 with old := true }], running := [(0, 10000, 0)] },
                    spec := { oldSdft := some ([], none, []), oldTrk := some ({}, none), oldDef := some ([], none) }, coh := { old := some {} } }
def accImg : Image :=
  { image0 with acc := { branches := [⟨0, 0, 0, 0, 1⟩], cuts := [⟨false, [(0, false)]⟩], pulses := [⟨0, 0, 1000, 5, false⟩] } }
def snareDef : SnrDefCfg :=
  { signals := [.freq 0], pre := 2, post := 3, terms := [.host, .pio 15 3], autoEn := true, autoS := 5, armAtStart := false, afterNand := true }
def snareImg : Image := { image0 with snare := [snareDef], snareNandMib := 1 }
def outBlock : OutBlock :=
  { slot := some 0, stn := [], idcode := 9, nph := 0, nan := 0, ndg := 0, names := [], units := [], phscale := [], anscale := [], fnom := 1,
    cfgCnt := 0 }
def outStream (format : Nat) : OutStream :=
  { format := format, idcode := 9, rate := 10, decim := 1, dfmt := 0xE, timeBase := 1000000, blocks := [outBlock], dests := [], rawAmend := true,
    cmdPort := 0, cmdSrc := [], age := 0, hdrText := [0x41#8] }
def outImg (format : Nat) : Image := { image0 with outs := [outStream format] }
/-- A command of channel 3 that has been accepted. -/
def cmdOf (op : Nat) (args : List Nat) (memo : List Nat := []) : Running := { src := .chan 3, opcode := op, args := args, tag := 0, memo := memo }
def withCmd (r : Running) (s : State) : State := { s with mbx := { run := [r] } }
def amendInst : Inst := { tick := 10000, runs := [{ st := .running, place := some 0 }], amend := [(9999, 1, 0)] }
def packItem0 (kernel : Nat) : Item := item 0 kernel
def packInst (u : Nat) : Inst :=
  { tick := 10000, runs := [{ st := .retired, data := some [4, 1] }, { st := .running, place := some (32 + u) }], amend := [(9999, 1, 0)] }
/-- Item 0 has packed; item 1, of the composer, runs. -/
def composing (format kernel0 code : Nat) : State :=
  { ticking with img := some { outImg format with items := [item 0 kernel0, item 5 code [.result 0 0 0]] },
                 tmb := { next := 10001, insts := [packInst 5], running := [(37, 10000, 1)] } }
def alarm0 : AlarmCfg :=
  { cls := 3, kind := 1, subject := 0, event := 1, latch := true, dests := 1, goose := none, op := 1, ofs := 0, bit := 0, src := .detector,
    subject2 := 0 }
def almImg : Image :=
  { image0 with alm := { alarms := [alarm0, alarm0], dests := [⟨0, ownAddr, 5, none, 0, false, 0, 1, some 9⟩],
                         goose := [⟨0, 0, 0, 0, [], [], [], [(0, false, false)], 1, 2, 1000⟩] },
                consts := be 1 0 ++ List.replicate 63 0#8 }
/-- Pin 15, active high, follows alarm 0. -/
def pioImg : Image := { almImg with consts := [15#8, 0#8, 1#8] ++ List.replicate 61 0#8 }
/-- PAIRED by the image, with the key's ID. -/
def pairImg : Image := { image0 with pair := some { keyId := 5 } }
def accSlot (kind : Nat) : AccSlot :=
  { gen := 3, tick := 9000, inst := 900000000000, kind := kind, cuts := [{ aimp := 11, aexp := 12, rimp := 13, rexp := 14, anet := -1 }],
    pulses := [], zero := none, complete := true }
def accState : State :=
  { ticking with img := some accImg, acc := { cuts := [{}], pulses := [{}], lastInst := 1000000000000, write := some (7, accSlot 1) } }
def withPulse (p : PulseSt) : State := { accState with acc := { accState.acc with pulses := [p] } }
/-- A C37.118 command for IDCODE 9. -/
def cmdFrame (chk : Bool) (tcp : Option Nat) (pairWide : Bool := false) : CmdFrame :=
  { port := 0, tcp := tcp, src := ownAddr, sport := 4712, srcMac := 9, idcode := 9, chkOk := chk, pairWide := pairWide }
def outState (format : Nat) : State := { ticking with img := some (outImg format) }
def bpWait (q : Nat) : BpWait := { tick := 10000, item := 1, stream := 0, port := 0, queue := q, frame := txFrame, since := 0 }
def rawBlock (n : Nat) : RawBlock := { stream := 63, tick := 9999, bytes := List.replicate n 0#8, flags := 0, ns32 := 0 }
def withRing (r : Nat) (s : State) : State := s.wr (fEGR_RING_STS_RUN r) 1
def snareState (st : Nat) : State := ({ ticking with img := some snareImg } : State).wr (fSNR_DEF_STS_STATE 0) st
def snrRow0 : SnrRow := { tick := 10000, flags := 0, quality := [0], values := [0] }
def withSnr (d : SnrDef) (s : State) : State := { s with snr := { s.snr with defs := s.snr.defs.set 0 d } }
def chestRec (seq code : Nat) : ChestRec := { code := code, flags := 0, rep := 0, seq := seq, time := 0, supp := 0, payload := [] }
def withChest (m : ChestMram) (c : Chest) (s : State) : State := { s with mram := { s.mram with chs := m }, chs := c }
def post0 (code : Nat) : Post := { code := code, flags := 0, rep := 0, time := 5, supp := 2, payload := [] }
def pageRec (seq : Nat) : ChestRec := { chestRec seq 0x20 with payload := List.replicate 224 0#8 }
/-- Nineteen records in staging, of which sixteen fill a page. -/
def fullPage : State :=
  withChest { staged := (List.range 19).map pageRec, nextSeq := 19 } { nandOk := true } ticking
def keyOf (typ st keyId : Nat) : KeyEnt := { st := st, typ := typ, keyId := keyId, purpose := purPair, material := 9 }
/-- In this role of a pair whose link is up. -/
def paired (role : Nat) : State :=
  (({ ticking with img := some pairImg, up := 5, pair := { authed := true, rxCtr := 5, helloIn := some (77, 0), hbAt := some 5 } } : State).wr
    fPAIR_STS_ROLE role).wr fPAIR_STS_PARTNER_UP 1 |>.wr fCLV_STS_QUAL_LOST 0
def withPair (p : Pair) (s : State) : State := { s with pair := p }
/-- A message with the next counter. -/
def msg (role : Nat := 0) (lane : Fin 2 := 0) (ctr : Nat := 6) (tagOk : Bool := true) : PairMsg :=
  { lane := lane, ctr := ctr, tagOk := tagOk, role := role, tick := 10000 }
def join0 : Join := { epoch := 3, c := 10001, since := 0 }
def joinPair (j : Join) : Pair := { authed := true, rxCtr := 5, helloIn := some (77, 0), hbAt := some 5, join := some j }
def heartbeat0 : Heartbeat := { fit := true, ready := false, cause := 0, epoch := 4, goose := [], pulses := [] }
/-- ROOT_INSTALL with the base point of P-256 as the public key. -/
def rootArgs : List Nat :=
  [7, 0xf2d1176b, 0x47422ce1, 0xe5e6bcf8, 0xf240a463, 0x817d0377, 0xa033eb2d, 0x4539a1f4, 0x96c298d8,
    0xe242e34f, 0x9b7f1afe, 0x4aebe78e, 0x169e0f7c, 0x5733ce2b, 0xce5e316b, 0x6840b6cb, 0xf551bf37]
/-- Keys: a root, a domain under it, and a WORK key of the host that is selected. -/
def keyed : State :=
  { ticking with bur := { ents := [(0, keyOf typRoot keyValid 1), (1, { keyOf typDomain keyValid 2 with parent := 0 }),
                                   (2, { keyOf typWork keyValid 3 with parent := 1, alg := 1, purpose := purHost })], work := some 2 } }
def stored : State := { ticking with nand := { slots := [none, some image0] } }
def snrFile0 : SnrFile := { number := 1, head := [], t0 := 9000, bytes := [1#8, 2#8], complete := true }
def sdState (c : SdChan) : State :=
  ({ ticking with lmf := { running := true, chans := (List.replicate 8 {}).set 7 c, next := 10000 } } : State).wr (fLMF_SD_CFG_EN 7) 1 |>.wr
    (fLMF_SD_CFG_PRESET 7) 2
/-- The samples between two outputs of preset 2, one of them beyond the range. -/
def sdMods : List SdMod := ⟨true, true⟩ :: List.replicate 159 ⟨true, false⟩
/-- 0.1 s after the conversions began. -/
def icvState (a : Icv) (plaus : Bool := false) : State :=
  { ticking with up := 100000000, lmf := { running := true, icv := [a, {}], plausNow := plaus } }
/-- A conversion that gives this code. -/
def icvIn (code : Int) : IcvIn := ⟨code, 2 ^ 23, false⟩
def scan (n : Nat) : ScanRun := { entry := 0, channel := 0, n := n, s := 0, publish := none }
/-- A session at the Bench of this level. -/
def benchAt (level : Nat) : State :=
  ({ ticking with up := 60000000000, bench := { open_ := true } } : State).wr fBUR_BENCH_STS_LEVEL level
def withBench (b : Bench) (s : State) : State := { s with bench := b }
def traced : TraceEnt := { slot := 0, port := 0, flags := 0, tick := 0, ing := 0, item := 0, stream := 0, pts := [], ended := true }
/-- The perturbation unit enabled at level SERVICE, with these actions. -/
def perturbed (actions : Nat) : State := (benchAt 2).wr fTST_CTL_EN 1 |>.wr fTST_CTL_ACT_EN actions
def arm0 (on rep : Bool) : StallArm := { mask := 0x80000001, ofsUs := 1, durUs := 2, rep := rep, start := some 999999998000, on := on }

/-! Well-formedness: one ill-formed command for each check, and a well-formed one. -/

/-- The arbiter's choice, whose new deficits no test can compute: the quantum is free. -/
theorem pick_some {s : State} {n : Nat} (h : s.parsePick.map (·.1) = some n) : ∃ d, s.parsePick = some (n, d) := by
  obtain ⟨⟨a, d⟩, hp, rfl⟩ := Option.map_eq_some_iff.mp h
  exact ⟨d, hp⟩

theorem test_wf_accepts : (Instr.registerWrite 0x10 0xFFFFFFFF true true false).wf = true := by decide
theorem test_wf_offset_alignment : (Instr.rcRead 2 false).wf = false := by decide
theorem test_wf_offset_window : (Instr.wr 0x1000000 0).wf = false := by decide
theorem test_wf_word : (Instr.registerWrite 0 0x100000000 true true false).wf = false := by decide
theorem test_wf_half : (Instr.startPaused 0x10000).wf = false := by decide
theorem test_wf_byte : (Instr.abdicate ⟨0, 0, true, 0, 0⟩ 256 0).wf = false := by decide
theorem test_wf_stamp : (Instr.ppsEdge (2 ^ 64) 0).wf = false := by decide
theorem test_wf_nonce : (Instr.hello (2 ^ 128) 0 0).wf = false := by decide
theorem test_wf_error_count : (Instr.cohSramUe (.corrected 0)).wf = false := by decide
theorem test_wf_command_connection : (Instr.cmdTurnOn ⟨0, some 16, 0, 0, 0, 0, true, false⟩).wf = false := by decide
theorem test_wf_answer : (Instr.answer (2 ^ 128)).wf = false := by decide
theorem test_wf_address : (Instr.arpReply (2 ^ 128) 0).wf = false := by decide
theorem test_wf_temperature : (Instr.thermalShutdown 12000 32768 0).wf = false := by decide
theorem test_wf_channel : (Instr.getInfo (.chan 4) []).wf = false := by decide
theorem test_wf_optional_channel : (Instr.nop 0 0 (some (.chan 4)) []).wf = false := by decide
set_option maxRecDepth 20000 in
theorem test_wf_arguments : (Instr.getInfo .bench (List.replicate 63 0)).wf = false := by decide
theorem test_wf_argument_words : (Instr.getInfo .bench [2 ^ 32]).wf = false := by decide
theorem test_wf_buffers : (Instr.rawBlockWrite 0 [2 ^ 64]).wf = false := by decide
set_option maxRecDepth 20000 in
theorem test_wf_payload : (Instr.eventPost 1 (List.replicate 225 0)).wf = false := by decide
theorem test_wf_frame : (Instr.dupLookup 0 0 (List.replicate 9213 0)).wf = false := by
  have h : frameWf (List.replicate 9213 0) = false := by
    rw [frameWf, List.length_replicate]; rfl
  rw [Instr.wf, h, Bool.and_false]

/-! Kernels: an item of each of the kernels that KernelRows, EffectKernels and PackRows speak of can run. -/

theorem witness_KernelRows : ∀ k < 63, (runs (item 0 k)).isRunning 10000 0 0 k = some (run0, item 0 k) := by decide
theorem witness_EffectKernels : ∀ x ∈ [(1, 1), (1, 2), (2, 1), (3, 1), (4, 1), (5, 1), (5, 2), (0, 0x28), (0, 0x29), (0, 0x2A), (0, 0x35), (0, 0x39),
    (0, 0x3A), (0, 0x3C), (0, 0x3D)], (runs (item x.1 x.2)).isRunning 10000 0 x.1 x.2 = some (run0, item x.1 x.2) := by decide

/-! The machine. -/

theorem witness_StepTakesFront : { State.reset with pending := [.help, .status] }.pending = Instr.help :: [.status] := by decide
theorem witness_IdleStep : running.pending = [] ∧ running.timeAlive = true ∧ running.rdS fCLV_RATE_STS_RATE = 0 ∧ running.clv.frac = 0 ∧
    running.dom.stewUp = true := by decide
theorem witness_StepKeepsInv : Machine.Inv running := by unfold Machine.Inv ChestOk; decide
theorem witness_StepLasts : ∃ s t : State, s.pending = [.startGroupRamp] ∧ step s = .next t :=
  ⟨{ inPhase (.start 2) with pending := [.startGroupRamp] }, _, rfl, rfl⟩
theorem witness_Frames : ∃ s t : State, exec .startGroupRamp s = .next t ∧ Part.regs ∉ touches .startGroupRamp :=
  ⟨inPhase (.start 2), _, rfl, by decide⟩
theorem witness_Frames_kernel : ∃ t, exec (.gather 10000 0) (runs (item 0 1)) = .next t := ⟨_, rfl⟩

theorem witness_StartRows_1 : ∃ (vin : Nat) (die : Int) (s : State), (s.pwr.phase = PwrPhase.off ∨ s.pwr.phase = PwrPhase.held) ∧ (vin ≥
    9300) ∧ (s.pwr.ovHold = true → vin ≤ 60000) ∧ (s.pwr.thermHold = true → die < 1050) :=
  ⟨9300, 10, State.reset, by decide, by decide, by decide, by decide⟩

theorem witness_StartRows_1b : ∃ (vin : Nat) (die : Int) (s : State), (s.pwr.phase = PwrPhase.off ∨ s.pwr.phase = PwrPhase.held) ∧ (vin ≥
    9300) ∧ (s.pwr.ovHold = true → vin ≤ 60000) ∧ (s.pwr.thermHold = true → die < 1050) :=
  ⟨60000, 1049, { inPhase .held with pwr := { phase := .held, ovHold := true, thermHold := true } }, by decide, by decide, by decide,
    by decide⟩

theorem witness_StartRows_2 : ∃ (k : Nat) (s : State), (s.pwr.phase = PwrPhase.start k) ∧ (s.rd fSYS_PWR_STS_START_PAUSED = 0) ∧ (k = 2 ∧
    (if s.pwr.ramping = true then s.pwr.groups + 1 else s.pwr.groups) < 4 ∨ k = 3 ∧ (if s.pwr.ramping = true then s.pwr.groups + 1 else
    s.pwr.groups) < 8) :=
  ⟨2, (inPhase (.start 2)), by decide, by decide, by decide⟩

theorem witness_StartRows_2b : ∃ (k : Nat) (s : State), (s.pwr.phase = PwrPhase.start k) ∧ (s.rd fSYS_PWR_STS_START_PAUSED = 0) ∧ (k = 2 ∧
    (if s.pwr.ramping = true then s.pwr.groups + 1 else s.pwr.groups) < 4 ∨ k = 3 ∧ (if s.pwr.ramping = true then s.pwr.groups + 1 else
    s.pwr.groups) < 8) :=
  ⟨3, { inPhase (.start 3) with pwr := { phase := .start 3, groups := 6, ramping := true } }, by decide, by decide, by decide⟩

theorem witness_StartRows_3 : ∃ (k : Nat) (s : State), (s.pwr.phase = PwrPhase.start k) ∧ (s.rd fSYS_PWR_STS_START_PAUSED = 0) ∧ (k ≤ 4) ∧
    (k = 2 → s.pwr.ramping = true ∧ s.pwr.groups = 3) ∧ (k = 3 → s.pwr.ramping = true ∧ s.pwr.groups = 7) :=
  ⟨4, { inPhase (.start 4) with pwr := { phase := .start 4, storeUf := 560 } }, by decide, by decide, by decide, by decide, by decide⟩

theorem witness_StartRows_3b : ∃ (k : Nat) (s : State), (s.pwr.phase = PwrPhase.start k) ∧ (s.rd fSYS_PWR_STS_START_PAUSED = 0) ∧ (k ≤ 4) ∧
    (k = 2 → s.pwr.ramping = true ∧ s.pwr.groups = 3) ∧ (k = 3 → s.pwr.ramping = true ∧ s.pwr.groups = 7) :=
  ⟨1, { inPhase (.start 1) with pwr := { phase := .start 1, perst := false, storeUf := 560 } }, by decide, by decide, by decide, by decide,
    by decide⟩

theorem witness_StartRows_3c : ∃ (k : Nat) (s : State), (s.pwr.phase = PwrPhase.start k) ∧ (s.rd fSYS_PWR_STS_START_PAUSED = 0) ∧ (k ≤ 4) ∧
    (k = 2 → s.pwr.ramping = true ∧ s.pwr.groups = 3) ∧ (k = 3 → s.pwr.ramping = true ∧ s.pwr.groups = 7) :=
  ⟨2, { inPhase (.start 2) with pwr := { phase := .start 2, groups := 3, ramping := true } }, by decide, by decide, by decide, by decide,
    by decide⟩

theorem witness_StartRows_3d : ∃ (k : Nat) (s : State), (s.pwr.phase = PwrPhase.start k) ∧ (s.rd fSYS_PWR_STS_START_PAUSED = 0) ∧ (k ≤ 4) ∧
    (k = 2 → s.pwr.ramping = true ∧ s.pwr.groups = 3) ∧ (k = 3 → s.pwr.ramping = true ∧ s.pwr.groups = 7) :=
  ⟨3, { inPhase (.start 3) with pwr := { phase := .start 3, groups := 7, ramping := true } }, by decide, by decide, by decide, by decide,
    by decide⟩

theorem witness_StartRows_4 : ∃ (vin : Nat) (k : Nat) (s : State), (s.pwr.phase = PwrPhase.start k) ∧ (s.rd fSYS_PWR_STS_START_PAUSED = 0) ∧
    (vin < 9000) :=
  ⟨8999, 2, (inPhase (.start 2)), by decide, by decide, by decide⟩

theorem witness_StartRows_5 : ∃ (k : Nat) (s : State), (s.pwr.phase = PwrPhase.start k) ∧ (s.rd fSYS_PWR_STS_START_PAUSED ≠ 0) :=
  ⟨3, ((inPhase (.start 3)).wr fSYS_PWR_STS_START_PAUSED 1), by decide, by decide⟩

theorem witness_PowerLossRows_1 : ∃ (vin : Nat) (iin : Nat) (s : State), (s.reached 0 = true ∨ s.shedding = true) ∧ (vin < 65536) ∧ (iin <
    65536) :=
  ⟨65535, 65535, { inPhase (.start 0) with pwr := { phase := .start 0, storeUf := 560 } }, by decide, by decide, by decide⟩

theorem witness_PowerLossRows_1b : ∃ (vin : Nat) (iin : Nat) (s : State), (s.reached 0 = true ∨ s.shedding = true) ∧ (vin < 65536) ∧ (iin <
    65536) :=
  ⟨8999, 0, running, by decide, by decide, by decide⟩

theorem witness_PowerLossRows_2_1 : ∃ (die : Int) (s : State), (s.reached 0 = true) ∧ (die ≥ 1250) :=
  ⟨1250, running, by decide, by decide⟩

theorem witness_PowerLossRows_2_2 : ∃ (vin : Nat) (s : State), (s.reached 0 = true) ∧ (vin > 62000) :=
  ⟨62001, running, by decide, by decide⟩

theorem witness_PowerLossRows_2_3 : ∃ (vin : Nat) (s : State), (s.reached 0 = true) ∧ (vin < s.rd fSYS_PWR_CFG_PF_MV) :=
  ⟨0, running, by decide, by decide⟩

theorem witness_PowerLossRows_3 : ∃ (r : Nat) (s : State), (s.pwr.phase = PwrPhase.shedding r) :=
  ⟨3, (inPhase (.shedding 3)), by decide⟩

theorem witness_PowerLossRows_4 : ∃ (s : State), (s.shedding = true) :=
  ⟨(inPhase (.shedding 1)), by decide⟩

theorem witness_PowerLossRows_5 : ∃ (s : State), (s.reached 0 = true) :=
  ⟨running, by decide⟩

theorem witness_ResetRows_1 : ∃ (s : State), (s.pwr.perst = false) ∧ (s.pwr.phase ≠ PwrPhase.off) :=
  ⟨running, by decide, by decide⟩

theorem witness_ResetRows_2 : ∃ (s : State), (s.pwr.perst = true) :=
  ⟨(inPhase .running), by decide⟩

theorem witness_ResetRows_3 : ∃ (s : State), (s.pwr.pcieUp = true) :=
  ⟨running, by decide⟩

theorem witness_ResetRows_4 : ∃ (s : State), (s.pwr.pcieUp = true) :=
  ⟨running, by decide⟩

theorem witness_ResetRows_5 : ∃ (s : State), (s.stewAlive = true) :=
  ⟨running, by decide⟩

theorem witness_ResetRows_6 : ∃ (s : State), (s.pwr.pcieUp = true) ∧ (s.stewAlive = true) ∧ (s.shedding = false) ∧ (s.dom.held = []) ∧
    (s.dom.stalled = []) :=
  ⟨running, by decide, by decide, by decide, by decide, by decide⟩

theorem witness_ResetRows_7 : ∃ (d : Fin 128) (off : Nat) (s : State), (s.alive ↑d = true) ∧ (s.dom.held =
    [{ dom := ↑d, off := off, val := none }]) ∧ (s.dom.stalled = []) :=
  ⟨2, 0x10000, { running with dom := { held := [{ dom := 2, off := 0x10000, val := none }] } }, by decide, by decide, by decide⟩

theorem witness_ResetRows_8 : ∃ (s : State), (s.pwr.pcieUp = true) ∧ (s.reached 1 = true) ∧ (s.dom.held = []) ∧ (s.dom.stalled = []) ∧ (s.rd
    fSM_INT_STS_EVENTS = 0) :=
  ⟨running, by decide, by decide, by decide, by decide, by decide⟩

theorem witness_ResetRows_9 : ∃ (s : State), (s.pwr.pcieUp = true) ∧ (s.smArmed = true) ∧ (s.rd fSM_CTL_INT_EN = 1) ∧ (s.rd
    fSM_INT_STS_EVENTS &&& s.rd fSM_INT_MASK_MASK ≠ 0) :=
  ⟨((running.wr fSM_CTL_INT_EN 1).wr fSM_INT_STS_EVENTS 1 |>.wr fSM_INT_MASK_MASK 1), by decide, by decide, by decide, by decide⟩

theorem witness_RegisterWriteRows_1 : ∃ (off : Nat) (v : Nat) (twin : Bool) (s : State) (r : RegDesc), (s.reaches off = true) ∧ (off % 4 =
    0) ∧ (aliasOf off = off) ∧ (s.passes (accessDom off) = true) ∧ (s.dom.stalled = []) ∧ (regAt off = some r) ∧ (s.wordOk r.base off (v % 2
    ^ 32) = true) ∧ (ownWrite r.base off (v % 2 ^ 32) twin false s = none) ∧ (r.base ≠ rEGR_RING_BASE_LO 0) :=
  ⟨rCLV_TIMER_CFG, 0x05003C03, false, running, ((regAt rCLV_TIMER_CFG).get (by decide)), by decide, by decide, by decide, by decide,
    by decide, by decide, by decide, by decide, by decide⟩

theorem witness_RegisterWriteRows_1b : ∃ (off : Nat) (v : Nat) (twin : Bool) (s : State) (r : RegDesc), (s.reaches off = true) ∧ (off % 4 =
    0) ∧ (aliasOf off = off) ∧ (s.passes (accessDom off) = true) ∧ (s.dom.stalled = []) ∧ (regAt off = some r) ∧ (s.wordOk r.base off (v % 2
    ^ 32) = true) ∧ (ownWrite r.base off (v % 2 ^ 32) twin false s = none) ∧ (r.base ≠ rEGR_RING_BASE_LO 0) :=
  ⟨rCLV_FLT, 0x1FF, false, (running.wr fCLV_FLT_FLAGS 3), ((regAt rCLV_FLT).get (by decide)), by decide, by decide, by decide, by decide,
    by decide, by decide, by decide, by decide, by decide⟩

theorem witness_RegisterWriteRows_2 : ∃ (r : Nat) (s : State), (r < 192) ∧ (s.pwr.pcieUp = true) ∧ (s.reached 1 = true) ∧ (s.dom.held = [])
    ∧ (s.dom.stalled = []) ∧ (s.on (fEGR_RING_CFG_EN r) = false) :=
  ⟨191, running, by decide, by decide, by decide, by decide, by decide, by decide⟩

theorem witness_RegisterWriteRows_4 : ∃ (off : Nat) (s : State), (s.reaches off = true) ∧ (off % 8 = 0) :=
  ⟨0x10000, running, by decide, by decide⟩

theorem witness_RegisterWriteRows_5 : ∃ (off : Nat) (wide : Bool) (s : State), (s.reaches off = true) ∧ (off % 4 ≠ 0 ∨ wide = true ∧ off % 8
    ≠ 0) :=
  ⟨rCLV_TIMER_CFG, true, running, by decide, by decide⟩

theorem witness_RegisterWriteRows_5b : ∃ (off : Nat) (wide : Bool) (s : State), (s.reaches off = true) ∧ (off % 4 ≠ 0 ∨ wide = true ∧ off %
    8 ≠ 0) :=
  ⟨0x10002, false, running, by decide, by decide⟩

theorem witness_RegisterWriteRows_6 : ∃ (off : Nat) (s : State), (s.reaches off = true) ∧ (off % 4 = 0) ∧ (s.passes (accessDom off) = true)
    ∧ (s.dom.stalled = []) ∧ (regAt (aliasOf off) = none) :=
  ⟨0x1000F0, running, by decide, by decide, by decide, by decide, by decide⟩

theorem witness_RegisterWriteRows_7 : ∃ (off : Nat) (s : State), (s.reaches off = true) ∧ (off % 4 = 0) ∧ (s.passes (accessDom off) = false)
    ∧ (s.dom.stalled = []) ∧ (s.heldWrites (accessDom off) < 16) :=
  ⟨rCLV_TIMER_CFG, { inPhase (.start 0) with pwr := { phase := .start 0, pcieUp := true, perst := false } }, by decide, by decide,
    by decide, by decide, by decide⟩

theorem witness_RegisterWriteRows_8 : ∃ (s : State), (s.pwr.pcieUp = true) ∧ (s.stewAlive = true) ∧ (s.dom.held = []) ∧ (s.dom.stalled = [])
    :=
  ⟨running, by decide, by decide, by decide, by decide⟩

theorem witness_RegisterWriteRows_9 : ∃ (s : State), (s.pwr.pcieUp = true) ∧ (s.reached 1 = true) ∧ (s.dom.held = []) ∧ (s.dom.stalled = [])
    :=
  ⟨running, by decide, by decide, by decide, by decide⟩

theorem witness_RegisterReadRows_1 : ∃ (off : Nat) (s : State) (r : RegDesc), (s.reaches off = true) ∧ (off % 4 = 0) ∧ (aliasOf off = off) ∧
    (s.passes (accessDom off) = true) ∧ (regAt off = some r) ∧ (s.live64 r.base off = none) ∧ (r.base ∉ [rCLV_CAP_HI 0, rLMF_ICV_QTIME 0])
    :=
  ⟨rCLV_TIMER_CFG, running, ((regAt rCLV_TIMER_CFG).get (by decide)), by decide, by decide, by decide, by decide, by decide, by decide,
    by decide⟩

theorem witness_RegisterReadRows_1b : ∃ (off : Nat) (s : State) (r : RegDesc), (s.reaches off = true) ∧ (off % 4 = 0) ∧ (aliasOf off = off)
    ∧ (s.passes (accessDom off) = true) ∧ (regAt off = some r) ∧ (s.live64 r.base off = none) ∧ (r.base ∉ [rCLV_CAP_HI 0, rLMF_ICV_QTIME 0])
    :=
  ⟨(rPORT_FCS_CNT 0), (running.wr (fPORT_FCS_CNT_FRAMES 0) 7), ((regAt (rPORT_FCS_CNT 0)).get (by decide)), by decide, by decide, by decide,
    by decide, by decide, by decide, by decide⟩

theorem witness_RegisterReadRows_2 : ∃ (off : Nat) (s : State), (s.reaches off = true) ∧ (off % 8 = 0) :=
  ⟨rCHS_SEQ_LO, running, by decide, by decide⟩

theorem witness_RegisterReadRows_3 : ∃ (off : Nat) (wide : Bool) (s : State), (s.reaches off = true) ∧ (off % 4 ≠ 0 ∨ wide = true ∧ off % 8
    ≠ 0) :=
  ⟨0x10004, true, running, by decide, by decide⟩

theorem witness_RegisterReadRows_3b : ∃ (off : Nat) (wide : Bool) (s : State), (s.reaches off = true) ∧ (off % 4 ≠ 0 ∨ wide = true ∧ off % 8
    ≠ 0) :=
  ⟨0x10002, false, running, by decide, by decide⟩

theorem witness_RegisterReadRows_4 : ∃ (off : Nat) (s : State) (r : RegDesc) (v : Nat), (s.reaches off = true) ∧ (off % 4 = 0) ∧ (aliasOf
    off = off) ∧ (s.passes (accessDom off) = true) ∧ (regAt off = some r) ∧ (s.live64 r.base off = some v) :=
  ⟨rCHS_SEQ_LO, running, ((regAt rCHS_SEQ_LO).get (by decide)), (running.mram.chs.nextSeq), by decide, by decide, by decide, by decide,
    by decide, by decide⟩

theorem witness_NowRead_1 : ∃ (s : State), (s.reaches rCLV_NOW_LO = true) ∧ (s.passes (accessDom rCLV_NOW_LO) = true) ∧ (s.action 7 = false)
    :=
  ⟨(locked srcPtp), by decide, by decide, by decide⟩

theorem witness_NowRead_2 : ∃ (s : State), (s.reaches rCLV_NOW_HI = true) ∧ (s.passes (accessDom rCLV_NOW_HI) = true) :=
  ⟨(locked srcPtp), by decide, by decide⟩

theorem witness_PowerFailThreshold_1 : ∃ (s : State), (s.pwr.pcieUp = true) ∧ (s.dom.held = []) ∧ (s.dom.stalled = []) :=
  ⟨running, by decide, by decide, by decide⟩

theorem witness_PowerFailThreshold_1b : ∃ (s : State), (s.pwr.pcieUp = true) ∧ (s.dom.held = []) ∧ (s.dom.stalled = []) :=
  ⟨running, by decide, by decide, by decide⟩

theorem witness_PowerFailThreshold_2 : ∃ (s : State), (s.pwr.pcieUp = true) ∧ (s.dom.held = []) ∧ (s.rd fSYS_PWR_CFG_PF_MV < 65536) :=
  ⟨(running.wr fSYS_PWR_CFG_PF_MV 8500), by decide, by decide, by decide⟩

theorem witness_PowerFailThreshold_3 : ∃ (vin : Nat) (die : Int) (s : State), (s.pwr.phase = PwrPhase.off ∨ s.pwr.phase = PwrPhase.held) ∧
    (vin ≥ 9300) ∧ (s.pwr.ovHold = true → vin ≤ 60000) ∧ (s.pwr.thermHold = true → die < 1050) :=
  ⟨9300, 10, State.reset, by decide, by decide, by decide, by decide⟩

theorem witness_SampleRows_1_1 : ∃ (k : Fin 8) (dom : Fin 256) (s : State), (s.on (fCLV_PTP_PORT_CFG_EN ↑k) = true) ∧ (↑dom = s.rd
    fCLV_PTP_CFG_DOMAIN) ∧ ((s.ptpPort ↑k).role = PtpRole.slave) ∧ (s.clvState = clvLocked) ∧ (s.src = srcPtp) :=
  ⟨7, 0, slave, by decide, by decide, by decide, by decide, by decide⟩

theorem witness_SampleRows_1_1b : ∃ (k : Fin 8) (dom : Fin 256) (s : State), (s.on (fCLV_PTP_PORT_CFG_EN ↑k) = true) ∧ (↑dom = s.rd
    fCLV_PTP_CFG_DOMAIN) ∧ ((s.ptpPort ↑k).role = PtpRole.slave) ∧ (s.clvState = clvLocked) ∧ (s.src = srcPtp) :=
  ⟨7, 0, slave, by decide, by decide, by decide, by decide, by decide⟩

theorem witness_SampleRows_1_2 : ∃ (k : Fin 8) (dom : Fin 256) (s : State), (s.on (fCLV_PTP_PORT_CFG_EN ↑k) = true) ∧ (↑dom = s.rd
    fCLV_PTP_CFG_DOMAIN) :=
  ⟨7, 0, slave, by decide, by decide⟩

theorem witness_SampleRows_2 : ∃ (k : Fin 8) (dom : Fin 256) (q : Nat) (t2 : Nat) (c' : Int) (s : State), (s.on (fCLV_PTP_PORT_CFG_EN ↑k) =
    true) ∧ (↑dom = s.rd fCLV_PTP_CFG_DOMAIN) ∧ ((s.ptpPort ↑k).role = PtpRole.slave) ∧ (s.clvState = clvLocked) ∧ (s.src = srcPtp) ∧
    ((s.ptpPort ↑k).twoStep = some (q, t2, c')) :=
  ⟨7, 0, 5, 1000000000000, 3, slave, by decide, by decide, by decide, by decide, by decide, by decide⟩

theorem witness_SampleRows_3_1 : ∃ (f : IrigFrame) (s : State), (s.on fCLV_IRIG_CFG_EN = true) ∧ (s.on fCLV_IRIG_CFG_EXT1344 = true →
    f.parityOk = true ∧ f.qualNs ≤ s.rd fCLV_QUAL_CFG_QUAL_LIMIT_NS) ∧ (s.clvState = clvLocked) ∧ (s.src = srcIrig) :=
  ⟨⟨1000000000000, 1000, 0, 70, 0, true, 1000, none⟩, irig, by decide, by decide, by decide, by decide⟩

theorem witness_SampleRows_3_2 : ∃ (f : IrigFrame) (s : State), (s.on fCLV_IRIG_CFG_EN = true) ∧ (s.on fCLV_IRIG_CFG_EXT1344 = true) ∧
    (f.parityOk = false ∨ f.qualNs > s.rd fCLV_QUAL_CFG_QUAL_LIMIT_NS) :=
  ⟨⟨1000000000000, 1000, 0, 70, 0, false, 1000, none⟩, (irig.wr fCLV_IRIG_CFG_EXT1344 1), by decide, by decide, by decide⟩

theorem witness_SampleRows_4 : ∃ (raw : Nat) (hold : Nat) (u : Nat) (rx : Nat) (s : State), (s.on fCLV_TOD_CFG_EN = true) ∧ (passesFilter
    (s.rd fCLV_TOD_CFG_GLITCH) hold = true) ∧ (s.on fCLV_TOD_CFG_REF = true) ∧ (s.clv.pps = none) ∧ (s.clv.zda = some (u, rx)) ∧ (rx ≤
    atContact (s.rd fCLV_TOD_CFG_GLITCH) raw) ∧ (atContact (s.rd fCLV_TOD_CFG_GLITCH) raw ≤ rx + 900000000) ∧ (s.on fCLV_TOD_CFG_NEED_RMC =
    true → s.clv.rmc = some u) ∧ (s.clvState = clvLocked) ∧ (s.src = srcPps) :=
  ⟨1000900000000, 1000000, 1000, 1000000000000,
    { todPps.wr fCLV_TOD_CFG_REF 1 |>.wr fCLV_TOD_CFG_NEED_RMC 0 with clv := { todPps.clv with zda := some (1000, 1000000000000) } },
    by decide, by decide, by decide, by decide, by decide, by decide, by decide, by decide, by decide, by decide⟩

theorem witness_SampleRows_5 : ∃ (s : State), (s.on fCLV_TOD_CFG_EN = true) ∧ (s.on fCLV_TOD_CFG_REF = false) ∧ (s.clv.pps = none) :=
  ⟨todPps, by decide, by decide, by decide⟩

theorem witness_SampleRows_5b : ∃ (s : State), (s.on fCLV_TOD_CFG_EN = true) ∧ (s.on fCLV_TOD_CFG_REF = false) ∧ (s.clv.pps = none) :=
  ⟨(todPps.wr fCLV_TOD_CFG_GLITCH 15), by decide, by decide, by decide⟩

theorem witness_SampleRows_6 : ∃ (baud : Fin 5) (e : Nat) (u : Nat) (rx : Nat) (s : State), (s.on fCLV_TOD_CFG_EN = true) ∧ (↑baud = s.rd
    fCLV_TOD_CFG_BAUD) ∧ (s.on fCLV_TOD_CFG_REF = false) ∧ (s.clv.pps = some e) ∧ (e ≤ rx) ∧ (rx ≤ e + 900000000) ∧ (s.on
    fCLV_TOD_CFG_NEED_RMC = true → s.clv.rmc = some u) ∧ (s.clvState = clvLocked) ∧ (s.src = srcPps) :=
  ⟨0, 1000000000000, 1000, 1000900000000,
    { todPps.wr fCLV_TOD_CFG_BAUD 0 with clv := { todPps.clv with pps := some 1000000000000, rmc := some 1000 } }, by decide, by decide,
    by decide, by decide, by decide, by decide, by decide, by decide, by decide⟩

theorem witness_SampleRows_7_1 : ∃ (baud : Fin 5) (s : State), (s.on fCLV_TOD_CFG_EN = true) ∧ (↑baud = s.rd fCLV_TOD_CFG_BAUD) ∧ (s.clv.pps
    = none) :=
  ⟨0, (todPps.wr fCLV_TOD_CFG_BAUD 0), by decide, by decide, by decide⟩

theorem witness_SampleRows_7_2 : ∃ (baud : Fin 5) (s : State), (s.on fCLV_TOD_CFG_EN = true) ∧ (↑baud = s.rd fCLV_TOD_CFG_BAUD) :=
  ⟨0, (todPps.wr fCLV_TOD_CFG_BAUD 0), by decide, by decide⟩

theorem witness_SampleRows_8 : ∃ (baud : Fin 5) (ok : Bool) (s : State), (s.on fCLV_TOD_CFG_EN = false ∨ ↑baud ≠ s.rd fCLV_TOD_CFG_BAUD ∨ ok
    = false) :=
  ⟨4, true, (todPps.wr fCLV_TOD_CFG_BAUD 0), by decide⟩

theorem witness_PtpRows_1 : ∃ (k : Fin 8) (dom : Fin 256) (s : State), (↑dom = s.rd fCLV_PTP_CFG_DOMAIN) ∧ (s.on (fCLV_PTP_PORT_CFG_EN ↑k) =
    true) ∧ ((s.ptpPort ↑k).best = none) ∧ (s.clv.ptp.length = 8) :=
  ⟨7, 0, { slave with clv := { slave.clv with ptp := List.replicate 8 {} } }, by decide, by decide, by decide, by decide⟩

theorem witness_PtpRows_1b : ∃ (k : Fin 8) (dom : Fin 256) (s : State), (↑dom = s.rd fCLV_PTP_CFG_DOMAIN) ∧ (s.on (fCLV_PTP_PORT_CFG_EN ↑k)
    = true) ∧ ((s.ptpPort ↑k).best = none) ∧ (s.clv.ptp.length = 8) :=
  ⟨0, 0, (running.wr (fCLV_PTP_PORT_CFG_EN 0) 1 |>.wr fCLV_PTP_CFG_DOMAIN 0), by decide, by decide, by decide, by decide⟩

theorem witness_PtpRows_2 : ∃ (k : Fin 8) (dom : Fin 256) (s : State), (↑dom = s.rd fCLV_PTP_CFG_DOMAIN) ∧ (s.on (fCLV_PTP_PORT_CFG_EN ↑k) =
    true) ∧ (s.peerDelay = true) ∧ (s.egrFull (s.ptpOn ↑k) qTime = false) :=
  ⟨7, 0, slave, by decide, by decide, by decide, by decide⟩

theorem witness_PtpRows_2b : ∃ (k : Fin 8) (dom : Fin 256) (s : State), (↑dom = s.rd fCLV_PTP_CFG_DOMAIN) ∧ (s.on (fCLV_PTP_PORT_CFG_EN ↑k)
    = true) ∧ (s.peerDelay = true) ∧ (s.egrFull (s.ptpOn ↑k) qTime = false) :=
  ⟨7, 0, (slave.wr fCLV_PTP_CFG_TWO_STEP_TX 1), by decide, by decide, by decide, by decide⟩

theorem witness_PtpRows_3 : ∃ (k : Fin 8) (dom : Fin 256) (q : Nat) (t1 : Nat) (s : State), (↑dom = s.rd fCLV_PTP_CFG_DOMAIN) ∧ (s.on
    (fCLV_PTP_PORT_CFG_EN ↑k) = true) ∧ (s.peerDelay = true) ∧ ((s.ptpPort ↑k).req = some (q, t1)) :=
  ⟨7, 0, 10, 5, { slave with clv := { slave.clv with ptp := slave.clv.ptp.set 7 { req := some (10, 5) } } }, by decide, by decide,
    by decide, by decide⟩

theorem witness_PtpRows_4 : ∃ (k : Fin 8) (dom : Fin 256) (s : State), (↑dom = s.rd fCLV_PTP_CFG_DOMAIN) ∧ (s.on (fCLV_PTP_PORT_CFG_EN ↑k) =
    true) ∧ (s.peerDelay = false) ∧ ((s.ptpPort ↑k).role = PtpRole.master) ∧ (s.egrFull (s.ptpOn ↑k) qTime = false) :=
  ⟨7, 0, (master.wr fCLV_PTP_CFG_PROFILE 2), by decide, by decide, by decide, by decide, by decide⟩

theorem witness_PtpRows_5 : ∃ (k : Fin 8) (dom : Fin 256) (q : Nat) (t2 : Nat) (t3 : Nat) (t1 : Int) (s : State), (↑dom = s.rd
    fCLV_PTP_CFG_DOMAIN) ∧ (s.on (fCLV_PTP_PORT_CFG_EN ↑k) = true) ∧ (s.peerDelay = false) ∧ ((s.ptpPort ↑k).req = some (q, t3)) ∧
    ((s.ptpPort ↑k).syncAt = some (t1, t2)) :=
  ⟨7, 0, 10, 5, 20, 7,
    { slave.wr fCLV_PTP_CFG_PROFILE 2 with clv := { slave.clv with ptp := slave.clv.ptp.set 7 { req := some (10, 20), syncAt := some (7, 5) } } },
    by decide, by decide, by decide, by decide, by decide⟩

theorem witness_PtpRows_6 : ∃ (k : Fin 8) (dom : Fin 256) (s : State), (↑dom = s.rd fCLV_PTP_CFG_DOMAIN) ∧ (s.on (fCLV_PTP_PORT_CFG_EN ↑k) =
    true) :=
  ⟨7, 0, slave, by decide, by decide⟩

theorem witness_PtpRows_7_1_1 : ∃ (k : Fin 8) (s : State), (s.on (fCLV_PTP_PORT_CFG_EN ↑k) = true) ∧ (s.egrFull (s.ptpOn ↑k) qTime = false)
    ∧ (s.clv.ptp.length = 8) ∧ (s.beforeStep = false) ∧ ((s.ptpPort ↑k).role = PtpRole.master) :=
  ⟨7, master, by decide, by decide, by decide, by decide, by decide⟩

theorem witness_PtpRows_7_1_2 : ∃ (k : Fin 8) (s : State), (s.on (fCLV_PTP_PORT_CFG_EN ↑k) = true) ∧ (s.egrFull (s.ptpOn ↑k) qTime = false)
    ∧ (s.clv.ptp.length = 8) ∧ (s.beforeStep = false) ∧ ((s.ptpPort ↑k).role = PtpRole.master) :=
  ⟨7, master, by decide, by decide, by decide, by decide, by decide⟩

theorem witness_PtpRows_7_1_2b : ∃ (k : Fin 8) (s : State), (s.on (fCLV_PTP_PORT_CFG_EN ↑k) = true) ∧ (s.egrFull (s.ptpOn ↑k) qTime = false)
    ∧ (s.clv.ptp.length = 8) ∧ (s.beforeStep = false) ∧ ((s.ptpPort ↑k).role = PtpRole.master) :=
  ⟨7, (master.wr fCLV_PTP_CFG_TWO_STEP_TX 1), by decide, by decide, by decide, by decide, by decide⟩

theorem witness_PtpRows_7_2 : ∃ (k : Fin 8) (s : State), (s.on (fCLV_PTP_PORT_CFG_EN ↑k) = true) ∧ (s.egrFull (s.ptpOn ↑k) qTime = false) ∧
    (s.clv.ptp.length = 8) ∧ (s.peerDelay = true) :=
  ⟨7, master, by decide, by decide, by decide, by decide⟩

theorem witness_PtpRows_7_3 : ∃ (k : Fin 8) (s : State), (s.on (fCLV_PTP_PORT_CFG_EN ↑k) = true) ∧ (s.egrFull (s.ptpOn ↑k) qTime = false) ∧
    (s.clv.ptp.length = 8) ∧ (s.peerDelay = false) ∧ ((s.ptpPort ↑k).role = PtpRole.slave) :=
  ⟨7, (slave.wr fCLV_PTP_CFG_PROFILE 2), by decide, by decide, by decide, by decide, by decide⟩

theorem witness_PtpRows_8 : ∃ (s : State), (s.beforeStep = true) :=
  ⟨running, by decide⟩

theorem witness_PtpRows_9 : ∃ (k : Fin 8) (s : State), (s.on (fCLV_PTP_PORT_CFG_EN ↑k) = true) ∧ (s.up ≥ (s.ptpPort ↑k).bestAt + 3 *
    (s.ptpPort ↑k).annInterval) :=
  ⟨7, { slave with up := 3000000000, clv := { slave.clv with ptp := slave.clv.ptp.set 7 { best := some dataset } } }, by decide, by decide⟩

theorem witness_ClaveStateRows_1_1 : ∃ (s : State), (s.clvState = clvAcquiring) ∧ (s.on fCLV_STS_STEPPED = false) ∧ (s.up ≥ s.clv.s1End +
    s.rd fCLV_TIMER_CFG_WAIT_S * 1000000000) ∧ (s.qualifies s.src = true) :=
  ⟨{ running.wr fCLV_STS_STATE clvAcquiring |>.wr fCLV_STS_SRC 1 with up := 10000000000, clv := { now := 12, srcs := [{ recent := [⟨100, 0⟩, ⟨100, 0⟩, ⟨101, 1⟩, ⟨102, 5⟩] }, {}, {}] } },
    by decide, by decide, by decide, by decide⟩

theorem witness_ClaveStateRows_1_2 : ∃ (s : State), (s.clvState = clvAcquiring) ∧ (s.on fCLV_STS_STEPPED = false) ∧ (s.up ≥ s.clv.s1End +
    s.rd fCLV_TIMER_CFG_WAIT_S * 1000000000) ∧ (s.qualifies s.src = false) :=
  ⟨{ running.wr fCLV_STS_STATE clvAcquiring |>.wr fCLV_STS_SRC 1 with up := 10000000000, clv := { now := 12, srcs := [{ recent := [⟨100, 0⟩, ⟨102, 5⟩] }, {}, {}] } },
    by decide, by decide, by decide, by decide⟩

theorem witness_ClaveStateRows_2 : ∃ (s : State), (s.clvState = clvLocked ∨ s.clvState = clvAcquiring ∧ s.on fCLV_STS_STEPPED = true) ∧
    (s.silent s.src = true) :=
  ⟨{ locked srcPtp with up := 3000000000, clv := { (locked srcPtp).clv with srcs := [{ last := some 0 }, {}, {}], rates := [3, 5] } },
    by decide, by decide⟩

theorem witness_ClaveStateRows_2b : ∃ (s : State), (s.clvState = clvLocked ∨ s.clvState = clvAcquiring ∧ s.on fCLV_STS_STEPPED = true) ∧
    (s.silent s.src = true) :=
  ⟨{ (locked srcPtp).wr fCLV_STS_STATE clvAcquiring with up := 3000000000, clv := { (locked srcPtp).clv with srcs := [{ last := some 0 }, {}, {}] } },
    by decide, by decide⟩

theorem witness_ClaveStateRows_3 : ∃ (e : Nat) (s : State), (s.clv.episode = some e) ∧ (s.clvState = clvHoldover) ∧ (s.up ≥ e + s.rd
    fCLV_TIMER_CFG_STUCK_S * 1000000000) :=
  ⟨0, { holdover 60000000000 with clv := { (holdover 0).clv with episode := some 0 } }, by decide, by decide, by decide⟩

theorem witness_ClaveStateRows_4 : ∃ (s : State), (s.clvState = clvHoldover ∨ s.clvState = clvStuck) :=
  ⟨(holdover 600000000000), by decide⟩

theorem witness_ClaveStateRows_4b : ∃ (s : State), (s.clvState = clvHoldover ∨ s.clvState = clvStuck) :=
  ⟨((holdover 600000000000).wr fCLV_STS_STATE clvStuck), by decide⟩

theorem witness_ClaveStateRows_5 : ∃ (d : Nat) (pos : Bool) (s : State), (s.clv.leapAt = some (d, pos)) ∧ (s.clv.now ≥ d * 1000000000) :=
  ⟨1000, true, { locked srcPtp with clv := { (locked srcPtp).clv with leapAt := some (1000, true) } }, by decide, by decide⟩

theorem witness_ClaveStateRows_5b : ∃ (d : Nat) (pos : Bool) (s : State), (s.clv.leapAt = some (d, pos)) ∧ (s.clv.now ≥ d * 1000000000) :=
  ⟨1000, false, { (locked srcPtp).wr fCLV_UTC_CFG_TAI_UTC 37 with clv := { (locked srcPtp).clv with leapAt := some (1000, false) } },
    by decide, by decide⟩

theorem witness_ClaveStateRows_6 : ∃ (s : State), (s.timeAlive = true) ∧ (s.clv.now / 1000000000 ≠ s.mram.pwr.time) :=
  ⟨(locked srcPtp), by decide, by decide⟩

theorem witness_TickRows_1 : ∃ (sec : Nat) (s : State), (s.clv.tickSecond = some sec) ∧ (s.ticking = false) ∧ (s.pwr.phase =
    PwrPhase.running) ∧ (s.img.isSome = true) ∧ (s.clv.now ≥ sec * 1000000000) :=
  ⟨1000, { locked srcPtp with img := some {}, clv := { (locked srcPtp).clv with tickSecond := some 1000 } }, by decide, by decide,
    by decide, by decide, by decide⟩

theorem witness_TickRows_2 : ∃ (n : Nat) (s : State), (s.ticking = true) ∧ (n = s.clv.nextTick) ∧ (s.clv.now ≥ s.tickInst n ∨
    s.clv.lastReseat = some n) :=
  ⟨10000, { (locked srcPtp).wr fCLV_STS_TICKING 1 with img := some {}, clv := { (locked srcPtp).clv with nextTick := 10000 } }, by decide,
    by decide, by decide⟩

theorem witness_TickRows_2b : ∃ (n : Nat) (s : State), (s.ticking = true) ∧ (n = s.clv.nextTick) ∧ (s.clv.now ≥ s.tickInst n ∨
    s.clv.lastReseat = some n) :=
  ⟨10001,
    { (locked srcPtp).wr fCLV_STS_TICKING 1 with img := some {}, clv := { (locked srcPtp).clv with nextTick := 10001, lastReseat := some 10001 } },
    by decide, by decide, by decide⟩

theorem witness_TickRows_3 : ∃ (n : Nat) (s : State), (s.ticking = false ∨ n ≠ s.clv.nextTick ∨ s.clv.now < s.tickInst n ∧ s.clv.lastReseat
    ≠ some n) :=
  ⟨10001, { (locked srcPtp).wr fCLV_STS_TICKING 1 with img := some {}, clv := { (locked srcPtp).clv with nextTick := 10001 } }, by decide⟩

theorem witness_TickRows_4 : ∃ (r : Reseat) (s : State), (s.clv.reseat = some r) ∧ (s.clv.now ≥ r.tm) ∧ (r.src < 4) :=
  ⟨⟨10001, 1000000000000, 500000000, 1, 5⟩,
    { holdover 5 with clv := { (holdover 5).clv with reseat := some ⟨10001, 1000000000000, 500000000, 1, 5⟩ } }, by decide, by decide,
    by decide⟩

theorem witness_TickRows_4b : ∃ (r : Reseat) (s : State), (s.clv.reseat = some r) ∧ (s.clv.now ≥ r.tm) ∧ (r.src < 4) :=
  ⟨⟨10001, 1000000000000, -7, 3, 0⟩,
    { (holdover 5).wr fCLV_RESEAT_STS_GEN 0xFE with clv := { (holdover 5).clv with reseat := some ⟨10001, 1000000000000, -7, 3, 0⟩ } },
    by decide, by decide, by decide⟩

theorem witness_PinRows_1_1 : ∃ (k : Fin 8) (s : State), (s.clv.ttg.getD (↑k) none = none) ∧ (s.clv.ttg.length = 8) ∧ (s.on
    (fCLV_TTG_CFG_OWNED ↑k) = true) ∧ (ttgCfgOk (s.ttgSnapshot ↑k) = true) ∧ (s.beforeStep = false) ∧ ((s.ttgSnapshot ↑k).mode = 0 →
    s.clv.now < (s.ttgSnapshot ↑k).start) :=
  ⟨7, ((locked srcPtp).wr (fCLV_TTG_CFG_OWNED 7) 1 |>.wr (fCLV_TTG_CFG_MODE 7) 1), by decide, by decide, by decide, by decide, by decide,
    by decide⟩

theorem witness_PinRows_1_1b : ∃ (k : Fin 8) (s : State), (s.clv.ttg.getD (↑k) none = none) ∧ (s.clv.ttg.length = 8) ∧ (s.on
    (fCLV_TTG_CFG_OWNED ↑k) = true) ∧ (ttgCfgOk (s.ttgSnapshot ↑k) = true) ∧ (s.beforeStep = false) ∧ ((s.ttgSnapshot ↑k).mode = 0 →
    s.clv.now < (s.ttgSnapshot ↑k).start) :=
  ⟨7, ((locked srcPtp).wr (fCLV_TTG_CFG_OWNED 7) 1 |>.wr (fCLV_TTG_START_SLO_S_LO 7) 1001), by decide, by decide, by decide, by decide,
    by decide, by decide⟩

theorem witness_PinRows_1_2 : ∃ (k : Fin 8) (s : State), (s.clv.ttg.getD (↑k) none = none) ∧ (s.clv.ttg.length = 8) ∧ (s.on
    (fCLV_TTG_CFG_OWNED ↑k) = false ∨ ttgCfgOk (s.ttgSnapshot ↑k) = false ∨ s.beforeStep = true) :=
  ⟨7, (running.wr (fCLV_TTG_CFG_OWNED 7) 1), by decide, by decide, by decide⟩

theorem witness_PinRows_1_2b : ∃ (k : Fin 8) (s : State), (s.clv.ttg.getD (↑k) none = none) ∧ (s.clv.ttg.length = 8) ∧ (s.on
    (fCLV_TTG_CFG_OWNED ↑k) = false ∨ ttgCfgOk (s.ttgSnapshot ↑k) = false ∨ s.beforeStep = true) :=
  ⟨0, (locked srcPtp), by decide, by decide, by decide⟩

theorem witness_PinRows_2 : ∃ (s : State), (s.clv.ttg.length = 8) :=
  ⟨running, by decide⟩

theorem witness_PinRows_2b : ∃ (s : State), (s.clv.ttg.length = 8) :=
  ⟨{ locked srcPtp with clv := { (locked srcPtp).clv with ttg := (List.replicate 8 none).set 7 (some ⟨1, 0, 15, 0, 1000, 10, 1, 3, some 4000⟩) } },
    by decide⟩

theorem witness_PinRows_3_1 : ∃ (k : Fin 8) (g : TtgRun) (s : State) (f : Nat), (s.clv.ttg.getD (↑k) none = some g) ∧ (s.clv.ttg.length = 8)
    ∧ (g.fallAt = some f) ∧ (s.clv.now ≥ f) :=
  ⟨7, ⟨1, 0, 15, 0, 1000, 10, 1, 3, some 1000000000000⟩,
    { locked srcPtp with clv := { (locked srcPtp).clv with ttg := (List.replicate 8 none).set 7 (some ⟨1, 0, 15, 0, 1000, 10, 1, 3, some 1000000000000⟩) } },
    1000000000000, by decide, by decide, by decide, by decide⟩

theorem witness_PinRows_3_2 : ∃ (k : Fin 8) (g : TtgRun) (s : State), (s.clv.ttg.getD (↑k) none = some g) ∧ (s.clv.ttg.length = 8) ∧
    (g.fallAt = none) ∧ (s.clv.now ≥ ttgInstant g g.next) :=
  ⟨7, ⟨1, 1, 15, 1000000000000, 1000, 10, 1, 0, none⟩,
    { locked srcPtp with clv := { (locked srcPtp).clv with ttg := (List.replicate 8 none).set 7 (some ⟨1, 1, 15, 1000000000000, 1000, 10, 1, 0, none⟩) } },
    by decide, by decide, by decide, by decide⟩

theorem witness_PinRows_4_1 : ∃ (k : Fin 16) (hold : Nat) (rise : Bool) (s : State), (s.on (fCLV_CAP_CFG_OWNED ↑k) = true) ∧
    (s.clv.capLevel.getD (↑k) none ≠ some rise) ∧ (s.clv.caps.length = 16) ∧ (passesFilter (s.rd (fCLV_CAP_CFG_GLITCH ↑k)) hold = false) :=
  ⟨15, 0, true, ((locked srcPtp).wr (fCLV_CAP_CFG_OWNED 15) 1 |>.wr (fCLV_CAP_CFG_GLITCH 15) 1), by decide, by decide, by decide, by decide⟩

theorem witness_PinRows_4_2_1 : ∃ (k : Fin 16) (hold : Nat) (rise : Bool) (s : State), (s.on (fCLV_CAP_CFG_OWNED ↑k) = true) ∧
    (s.clv.capLevel.getD (↑k) none ≠ some rise) ∧ (s.clv.caps.length = 16) ∧ (passesFilter (s.rd (fCLV_CAP_CFG_GLITCH ↑k)) hold = true) ∧
    (edgeSelected (s.rd (fCLV_CAP_CFG_EDGE ↑k)) rise = true) ∧ ((s.clv.caps.getD ↑k []).length < 4) :=
  ⟨15, 0, true, ((locked srcPtp).wr (fCLV_CAP_CFG_OWNED 15) 1 |>.wr (fCLV_CAP_CFG_GLITCH 15) 0 |>.wr (fCLV_CAP_CFG_EDGE 15) 1), by decide,
    by decide, by decide, by decide, by decide, by decide⟩

theorem witness_PinRows_4_2_2 : ∃ (k : Fin 16) (hold : Nat) (rise : Bool) (s : State), (s.on (fCLV_CAP_CFG_OWNED ↑k) = true) ∧
    (s.clv.capLevel.getD (↑k) none ≠ some rise) ∧ (s.clv.caps.length = 16) ∧ (passesFilter (s.rd (fCLV_CAP_CFG_GLITCH ↑k)) hold = true) ∧
    (edgeSelected (s.rd (fCLV_CAP_CFG_EDGE ↑k)) rise = true) ∧ ((s.clv.caps.getD ↑k []).length ≥ 4) :=
  ⟨15, 5000, false,
    { (locked srcPtp).wr (fCLV_CAP_CFG_OWNED 15) 1 |>.wr (fCLV_CAP_CFG_EDGE 15) 2 with clv := { caps := (List.replicate 16 []).set 15 (List.replicate 4 ⟨1, false, 0⟩) } },
    by decide, by decide, by decide, by decide, by decide, by decide⟩

theorem witness_PinRows_5 : ∃ (s : State), (s.clv.caps.length = 16) :=
  ⟨{ locked srcPtp with clv := { caps := (List.replicate 16 []).set 15 (List.replicate 4 ⟨1, false, 0⟩) } }, by decide⟩

theorem witness_PinRows_5b : ∃ (s : State), (s.clv.caps.length = 16) :=
  ⟨running, by decide⟩

theorem witness_PortRows_1_1 : ∃ (n : Fin 64) (fd : Bool) (g : Bool) (s : State), (Machine.Inv s) ∧ (s.link ↑n = false) ∧ (s.portMode ↑n ≠
    0) ∧ (s.portMode ↑n = 1 → fd = true) ∧ (s.portMode ↑n = 2 → fd = true ∧ g = true) ∧ ((s.port ↑n).anRetry = none) :=
  ⟨63, true, true, (running.wr (fPORT_CFG_MODE 63) 1), by unfold Machine.Inv ChestOk; decide, by decide, by decide, by decide, by decide,
    by decide⟩

theorem witness_PortRows_1_2_1 : ∃ (n : Fin 64) (fd : Bool) (g : Bool) (s : State) (x : Nat), (Machine.Inv s) ∧ (s.link ↑n = false) ∧
    (s.portMode ↑n ≠ 0) ∧ (s.portMode ↑n = 1 → fd = true) ∧ (s.portMode ↑n = 2 → fd = true ∧ g = true) ∧ ((s.port ↑n).anRetry = some x) ∧
    (s.up ≥ x) :=
  ⟨0, true, true, (withPort (running.wr (fPORT_CFG_MODE 0) 2) { anRetry := some 0 }), 0, by unfold Machine.Inv ChestOk; decide, by decide,
    by decide, by decide, by decide, by decide, by decide⟩

theorem witness_PortRows_1_2_2 : ∃ (n : Fin 64) (fd : Bool) (g : Bool) (s : State) (x : Nat), (Machine.Inv s) ∧ (s.link ↑n = false) ∧
    (s.portMode ↑n ≠ 0) ∧ (s.portMode ↑n = 1 → fd = true) ∧ (s.portMode ↑n = 2 → fd = true ∧ g = true) ∧ ((s.port ↑n).anRetry = some x) ∧
    (s.up < x) :=
  ⟨0, true, true, (withPort (running.wr (fPORT_CFG_MODE 0) 2) { anRetry := some 1000000000 }), 1000000000,
    by unfold Machine.Inv ChestOk; decide, by decide, by decide, by decide, by decide, by decide, by decide⟩

theorem witness_PortRows_2 : ∃ (n : Fin 64) (fd : Bool) (g : Bool) (s : State), (Machine.Inv s) ∧ (s.link ↑n = false) ∧ ((s.port ↑n).anRetry
    = none) ∧ (s.portMode ↑n = 1 ∧ fd = false ∨ s.portMode ↑n = 2 ∧ (fd = false ∨ g = false)) :=
  ⟨63, false, true, (running.wr (fPORT_CFG_MODE 63) 1), by unfold Machine.Inv ChestOk; decide, by decide, by decide, by decide⟩

theorem witness_PortRows_2b : ∃ (n : Fin 64) (fd : Bool) (g : Bool) (s : State), (Machine.Inv s) ∧ (s.link ↑n = false) ∧ ((s.port
    ↑n).anRetry = none) ∧ (s.portMode ↑n = 1 ∧ fd = false ∨ s.portMode ↑n = 2 ∧ (fd = false ∨ g = false)) :=
  ⟨0, true, false, (running.wr (fPORT_CFG_MODE 0) 2), by unfold Machine.Inv ChestOk; decide, by decide, by decide, by decide⟩

theorem witness_PortRows_3 : ∃ (n : Fin 64) (s : State), (Machine.Inv s) ∧ (s.link ↑n = true) :=
  ⟨0, (withPort linked { wire := some ⟨txFrame, false⟩, express := [txFrame], pausedTo := some 5 }), by unfold Machine.Inv ChestOk; decide,
    by decide⟩

theorem witness_PortRows_4 : ∃ (s : State), (Machine.Inv s) :=
  ⟨linked, by unfold Machine.Inv ChestOk; decide⟩

theorem witness_PortRows_5 : ∃ (n : Fin 64) (s : State), (Machine.Inv s) ∧ (s.link ↑n = true) ∧ (s.on (fPORT_CTL_PAUSE_OBEY ↑n) = true) :=
  ⟨0, (linked.wr (fPORT_CTL_PAUSE_OBEY 0) 1), by unfold Machine.Inv ChestOk; decide, by decide, by decide⟩

theorem witness_PortRows_5b : ∃ (n : Fin 64) (s : State), (Machine.Inv s) ∧ (s.link ↑n = true) ∧ (s.on (fPORT_CTL_PAUSE_OBEY ↑n) = true) :=
  ⟨0, (linked.wr (fPORT_CTL_PAUSE_OBEY 0) 1 |>.wr (fPORT_CFG_MODE 0) 4), by unfold Machine.Inv ChestOk; decide, by decide, by decide⟩

theorem witness_PortRows_6 : ∃ (n : Fin 64) (x : Nat) (s : State), (Machine.Inv s) ∧ ((s.port ↑n).pausedTo = some x) ∧ (s.up ≥ x) :=
  ⟨0, 0, (withPort linked { pausedTo := some 0 }), by unfold Machine.Inv ChestOk; decide, by decide, by decide⟩

theorem witness_PortRows_7 : ∃ (s : State), (Machine.Inv s) :=
  ⟨linked, by unfold Machine.Inv ChestOk; decide⟩

theorem witness_PortRows_7b : ∃ (s : State), (Machine.Inv s) :=
  ⟨(withPort linked { pausedTo := some 0 }), by unfold Machine.Inv ChestOk; decide⟩

theorem witness_PortRows_8_1 : ∃ (n : Fin 64) (s : State), (Machine.Inv s) ∧ (s.rd (fPORT_STS_PMAC ↑n) = pmacVerifying) ∧ (s.up < (s.port
    ↑n).verifyAt) :=
  ⟨0, ((withPort linked { verifyAt := 1 }).wr (fPORT_STS_PMAC 0) pmacVerifying), by unfold Machine.Inv ChestOk; decide, by decide,
    by decide⟩

theorem witness_PortRows_8_2 : ∃ (n : Fin 64) (s : State), (Machine.Inv s) ∧ (s.rd (fPORT_STS_PMAC ↑n) = pmacVerifying) ∧ (s.up ≥ (s.port
    ↑n).verifyAt) ∧ ((s.port ↑n).verify < 3) :=
  ⟨0, ((withPort linked { verify := 2 }).wr (fPORT_STS_PMAC 0) pmacVerifying), by unfold Machine.Inv ChestOk; decide, by decide, by decide,
    by decide⟩

theorem witness_PortRows_8_3 : ∃ (n : Fin 64) (s : State), (Machine.Inv s) ∧ (s.rd (fPORT_STS_PMAC ↑n) = pmacVerifying) ∧ (s.up ≥ (s.port
    ↑n).verifyAt) ∧ ((s.port ↑n).verify ≥ 3) :=
  ⟨0, ((withPort linked { verify := 3 }).wr (fPORT_STS_PMAC 0) pmacVerifying), by unfold Machine.Inv ChestOk; decide, by decide, by decide,
    by decide⟩

theorem witness_PortRows_8_4 : ∃ (n : Fin 64) (s : State), (Machine.Inv s) ∧ (s.rd (fPORT_STS_PMAC ↑n) = pmacVerifying) :=
  ⟨0, (linked.wr (fPORT_STS_PMAC 0) pmacVerifying), by unfold Machine.Inv ChestOk; decide, by decide⟩

theorem witness_PortRows_9 : ∃ (s : State), (Machine.Inv s) :=
  ⟨(withPort linked { wire := some ⟨txFrame, false⟩ }), by unfold Machine.Inv ChestOk; decide⟩

theorem witness_PortRows_9b : ∃ (s : State), (Machine.Inv s) :=
  ⟨linked, by unfold Machine.Inv ChestOk; decide⟩

set_option maxRecDepth 20000 in
theorem witness_ReceiveRows_1_1 : ∃ (n : Fin 64) (b : Bytes) (s : State) (fin : RxEnd), (Machine.Inv s) ∧ (s.link ↑n = true) ∧ ((s.port
    ↑n).cur = none) ∧ (macOnly b = false) ∧ (fin ≠ RxEnd.verify) ∧ (rxHeld (s.port ↑n) + rxWords (min (List.length b + 4) (s.rd
    (fPORT_RX_CFG_MAX_LEN ↑n))) ≥ 8192) :=
  ⟨0, (List.replicate 1500 2#8), (withPort linked { wr := 8100, rx := [{ rxData with len := 8 * 8099 }] }), .good,
    by unfold Machine.Inv ChestOk; decide, by decide, by decide, by decide, by decide, by decide⟩

theorem witness_ReceiveRows_1_2_1 : ∃ (n : Fin 64) (b : Bytes) (s : State), (Machine.Inv s) ∧ (s.link ↑n = true) ∧ ((s.port ↑n).cur = none)
    ∧ (macOnly b = false) ∧ (rxHeld (s.port ↑n) + rxWords (min (List.length b + 4) (s.rd (fPORT_RX_CFG_MAX_LEN ↑n))) < 8192) ∧ (List.length
    b + 4 < 64) :=
  ⟨0, (List.replicate 50 2#8), linked, by unfold Machine.Inv ChestOk; decide, by decide, by decide, by decide, by decide, by decide⟩

theorem witness_ReceiveRows_1_2_2_1 : ∃ (n : Fin 64) (b : Bytes) (s : State), (Machine.Inv s) ∧ (s.link ↑n = true) ∧ ((s.port ↑n).cur =
    none) ∧ (macOnly b = false) ∧ (rxHeld (s.port ↑n) + rxWords (min (List.length b + 4) (s.rd (fPORT_RX_CFG_MAX_LEN ↑n))) < 8192) ∧ (64 ≤
    List.length b + 4) :=
  ⟨0, (List.replicate 60 2#8), linked, by unfold Machine.Inv ChestOk; decide, by decide, by decide, by decide, by decide, by decide⟩

theorem witness_ReceiveRows_1_2_2_2 : ∃ (n : Fin 64) (b : Bytes) (s : State), (Machine.Inv s) ∧ (s.link ↑n = true) ∧ ((s.port ↑n).cur =
    none) ∧ (macOnly b = false) ∧ (rxHeld (s.port ↑n) + rxWords (min (List.length b + 4) (s.rd (fPORT_RX_CFG_MAX_LEN ↑n))) < 8192) ∧ (64 ≤
    List.length b + 4) ∧ (List.length b + 4 ≤ s.rd (fPORT_RX_CFG_MAX_LEN ↑n)) ∧ (s.dupKey (↑n) true false b = none) :=
  ⟨0, (udpTo dataPayload), linked, by unfold Machine.Inv ChestOk; decide, by decide, by decide, by decide, by decide, by decide, by decide,
    by decide⟩

set_option maxRecDepth 20000 in
theorem witness_ReceiveRows_1_2_2_3 : ∃ (n : Fin 64) (b : Bytes) (s : State), (Machine.Inv s) ∧ (s.link ↑n = true) ∧ ((s.port ↑n).cur =
    none) ∧ (macOnly b = false) ∧ (rxHeld (s.port ↑n) + rxWords (min (List.length b + 4) (s.rd (fPORT_RX_CFG_MAX_LEN ↑n))) < 8192) ∧ (64 ≤
    List.length b + 4) ∧ (List.length b + 4 > s.rd (fPORT_RX_CFG_MAX_LEN ↑n)) ∧ (s.dupKey (↑n) true true (List.take (s.rd
    (fPORT_RX_CFG_MAX_LEN ↑n)) (b ++ ethFcs b)) = none) :=
  ⟨0, (List.replicate 1520 2#8), linked, by unfold Machine.Inv ChestOk; decide, by decide, by decide, by decide, by decide, by decide,
    by decide, by decide⟩

theorem witness_ReceiveRows_2 : ∃ (n : Fin 64) (s : State), (s.link ↑n = true) ∧ ((s.port ↑n).pmacOn = true) :=
  ⟨63, (running.wr (fPORT_STS_LINK 63) 1), by decide, by decide⟩

theorem witness_ReceiveRows_3 : ∃ (n : Fin 64) (x : Nat) (b : Bytes) (k : Nat) (s : State), (Machine.Inv s) ∧ (s.link ↑n = true) ∧ ((s.port
    ↑n).cur = none) ∧ (s.dupKey (↑n) false false b = some k) ∧ (macOnly b = false) ∧ (rxHeld (s.port ↑n) + curWords
    { stamp := s.rxInstant (↑n) x, bytes := b, maxLen := s.rd (fPORT_RX_CFG_MAX_LEN ↑n), dup := DupState.unchecked, started := false } <
    8192) :=
  ⟨0, 1000000000000, (udpTo dataPayload), ((c37Key? (udpTo dataPayload)).get (by decide)), (linked.wr (fPORT_CFG_DUP 0) 2),
    by unfold Machine.Inv ChestOk; decide, by decide, by decide, by decide, by decide, by decide⟩

theorem witness_ReceiveRows_3b : ∃ (n : Fin 64) (x : Nat) (b : Bytes) (k : Nat) (s : State), (Machine.Inv s) ∧ (s.link ↑n = true) ∧ ((s.port
    ↑n).cur = none) ∧ (s.dupKey (↑n) false false b = some k) ∧ (macOnly b = false) ∧ (rxHeld (s.port ↑n) + curWords
    { stamp := s.rxInstant (↑n) x, bytes := b, maxLen := s.rd (fPORT_RX_CFG_MAX_LEN ↑n), dup := DupState.unchecked, started := false } <
    8192) :=
  ⟨0, 1000000000000, (udpTo dataPayload), ((c37Key? (udpTo dataPayload)).get (by decide)),
    { linked.wr (fPORT_CFG_DUP 0) 2 with dup := [⟨(c37Key? (udpTo dataPayload)).get (by decide), 1, none⟩], dupNext := 2 },
    by unfold Machine.Inv ChestOk; decide, by decide, by decide, by decide, by decide, by decide⟩

set_option maxRecDepth 20000 in
theorem witness_ReceiveRows_4_1 : ∃ (n : Fin 64) (f : RxFrame) (rest : List RxFrame) (s : State), (Machine.Inv s) ∧ ((s.port ↑n).rx = f ::
    rest) ∧ (f.dup = DupState.discard) ∧ (hasAgain (s.port ↑n) = false) :=
  ⟨0, { rxData with dup := .discard }, [rxData], (withPort linked { rx := [{ rxData with dup := .discard }, rxData] }),
    by unfold Machine.Inv ChestOk; decide, by decide, by decide, by decide⟩

set_option maxRecDepth 20000 in
theorem witness_ReceiveRows_4_2_1 : ∃ (n : Fin 64) (f : RxFrame) (rest : List RxFrame) (s : State) (k : Nat), (Machine.Inv s) ∧ ((s.port
    ↑n).rx = f :: rest) ∧ (f.dup = DupState.again k) ∧ (∀ m < ↑n, hasAgain (s.port m) = false) ∧ (s.dupFind k = none) ∧ (s.dup.length <
    131072) :=
  ⟨0, { rxData with dup := .again 9 }, [rxData], (withPort linked { rx := [{ rxData with dup := .again 9 }, rxData] }), 9,
    by unfold Machine.Inv ChestOk; decide, by decide, by decide, by decide, by decide, by decide⟩

set_option maxRecDepth 20000 in
theorem witness_ReceiveRows_4_2_2 : ∃ (n : Fin 64) (f : RxFrame) (rest : List RxFrame) (s : State) (k : Nat) (e : DupEntry), (Machine.Inv s)
    ∧ ((s.port ↑n).rx = f :: rest) ∧ (f.dup = DupState.again k) ∧ (∀ m < ↑n, hasAgain (s.port m) = false) ∧ (s.dupFind k = some e) :=
  ⟨0, { rxData with dup := .again 9 }, [rxData],
    { withPort linked { rx := [{ rxData with dup := .again 9 }, rxData] } with dup := [⟨9, 1, some (3, 4)⟩] }, 9, ⟨9, 1, some (3, 4)⟩,
    by unfold Machine.Inv ChestOk; decide, by decide, by decide, by decide, by decide⟩

theorem witness_TransmitRows_1_1 : ∃ (n : Fin 64) (s : State) (e : TxFrame) (rest : List TxFrame), (Machine.Inv s) ∧ (s.link ↑n = true) ∧
    ((s.port ↑n).pausedTo = none) ∧ (s.shedding = false) ∧ (s.action 2 = false) ∧ ((s.port ↑n).wire = none) ∧ ((s.port ↑n).express = e ::
    rest) :=
  ⟨0, (withPort linked { express := [txFrame], fifo := [txFrame] }), txFrame, [], by unfold Machine.Inv ChestOk; decide, by decide,
    by decide, by decide, by decide, by decide, by decide⟩

set_option maxRecDepth 20000 in
theorem witness_TransmitRows_1_2_1 : ∃ (n : Fin 64) (sent : Nat) (s : State) (e : TxFrame) (rest : List TxFrame) (w : OnWire), (Machine.Inv
    s) ∧ (s.link ↑n = true) ∧ ((s.port ↑n).pausedTo = none) ∧ (s.shedding = false) ∧ (s.action 2 = false) ∧ ((s.port ↑n).wire = some w) ∧
    (w.express = false) ∧ ((s.port ↑n).cut = none) ∧ (s.rd (fPORT_STS_PMAC ↑n) = pmacActive) ∧ ((s.port ↑n).express = e :: rest) ∧ (mayCut
    (s.port ↑n) w.frame sent = true) :=
  ⟨0, 64,
    ((withPort linked { wire := some ⟨{ txFrame with bytes := List.replicate 200 0#8 }, false⟩, express := [txFrame] }).wr (fPORT_STS_PMAC 0) pmacActive),
    txFrame, [], ⟨{ txFrame with bytes := List.replicate 200 0#8 }, false⟩, by unfold Machine.Inv ChestOk; decide, by decide, by decide,
    by decide, by decide, by decide, by decide, by decide, by decide, by decide, by decide⟩

theorem witness_TransmitRows_1_2_2 : ∃ (n : Fin 64) (sent : Nat) (s : State) (e : TxFrame) (rest : List TxFrame) (w : OnWire), (Machine.Inv
    s) ∧ (s.link ↑n = true) ∧ ((s.port ↑n).pausedTo = none) ∧ (s.shedding = false) ∧ (s.action 2 = false) ∧ ((s.port ↑n).wire = some w) ∧
    (w.express = false) ∧ ((s.port ↑n).cut = none) ∧ (s.rd (fPORT_STS_PMAC ↑n) = pmacActive) ∧ ((s.port ↑n).express = e :: rest) ∧ (mayCut
    (s.port ↑n) w.frame sent = false) :=
  ⟨0, 59, ((withPort linked { wire := some ⟨txFrame, false⟩, express := [txFrame] }).wr (fPORT_STS_PMAC 0) pmacActive), txFrame, [],
    ⟨txFrame, false⟩, by unfold Machine.Inv ChestOk; decide, by decide, by decide, by decide, by decide, by decide, by decide, by decide,
    by decide, by decide, by decide⟩

theorem witness_TransmitRows_1_3 : ∃ (n : Fin 64) (s : State) (f : TxFrame), (Machine.Inv s) ∧ (s.link ↑n = true) ∧ ((s.port ↑n).pausedTo =
    none) ∧ (s.shedding = false) ∧ (s.action 2 = false) ∧ ((s.port ↑n).wire = none) ∧ ((s.port ↑n).express = []) ∧ ((s.port ↑n).cut = some
    f) :=
  ⟨0, (withPort linked { cut := some txFrame, fifo := [txFrame] }), txFrame, by unfold Machine.Inv ChestOk; decide, by decide, by decide,
    by decide, by decide, by decide, by decide, by decide⟩

theorem witness_TransmitRows_1_4 : ∃ (n : Fin 64) (s : State) (f : TxFrame) (rest : List TxFrame), (Machine.Inv s) ∧ (s.link ↑n = true) ∧
    ((s.port ↑n).pausedTo = none) ∧ (s.shedding = false) ∧ (s.action 2 = false) ∧ ((s.port ↑n).wire = none) ∧ ((s.port ↑n).express = []) ∧
    ((s.port ↑n).cut = none) ∧ ((s.port ↑n).fifo = f :: rest) :=
  ⟨0, (withPort linked { fifo := [txFrame, txFrame] }), txFrame, [txFrame], by unfold Machine.Inv ChestOk; decide, by decide, by decide,
    by decide, by decide, by decide, by decide, by decide, by decide⟩

theorem witness_TransmitRows_2_1_1 : ∃ (n : Fin 64) (w : OnWire) (s : State), (Machine.Inv s) ∧ ((s.port ↑n).wire = some w) ∧ (w.express =
    false) ∧ (w.frame.sender = TxSender.steward) :=
  ⟨0, ⟨txFrame, false⟩, (withPort linked { wire := some ⟨txFrame, false⟩ }), by unfold Machine.Inv ChestOk; decide, by decide, by decide,
    by decide⟩

theorem witness_TransmitRows_2_1_2 : ∃ (n : Fin 64) (w : OnWire) (s : State), (Machine.Inv s) ∧ ((s.port ↑n).wire = some w) ∧ (w.express =
    false) ∧ (w.frame.sender = TxSender.steward) :=
  ⟨0, ⟨txFrame, false⟩, (withPort linked { wire := some ⟨txFrame, false⟩ }), by unfold Machine.Inv ChestOk; decide, by decide, by decide,
    by decide⟩

theorem witness_TransmitRows_2_2 : ∃ (n : Fin 64) (w : OnWire) (s : State) (k : Nat) (q : Nat) (log : Nat), (Machine.Inv s) ∧ ((s.port
    ↑n).wire = some w) ∧ (w.express = false) ∧ (w.frame.sender = TxSender.clave k (PtpMsg.syncTwo q log)) ∧ (s.egrFull (s.ptpOn k) qTime =
    false) :=
  ⟨0, ⟨{ txFrame with sender := .clave 7 (.syncTwo 5 0) }, false⟩,
    (withPort linked { wire := some ⟨{ txFrame with sender := .clave 7 (.syncTwo 5 0) }, false⟩ }), 7, 5, 0,
    by unfold Machine.Inv ChestOk; decide, by decide, by decide, by decide, by decide⟩

theorem witness_TransmitRows_2_3 : ∃ (n : Fin 64) (w : OnWire) (s : State) (k : Nat) (q : Nat), (Machine.Inv s) ∧ ((s.port ↑n).wire = some
    w) ∧ (w.express = false) ∧ (w.frame.sender = TxSender.clave k (PtpMsg.request q)) ∧ (k < s.clv.ptp.length) :=
  ⟨0, ⟨{ txFrame with sender := .clave 7 (.request 5) }, false⟩,
    (withPort linked { wire := some ⟨{ txFrame with sender := .clave 7 (.request 5) }, false⟩ }), 7, 5,
    by unfold Machine.Inv ChestOk; decide, by decide, by decide, by decide, by decide⟩

theorem witness_TransmitRows_3 : ∃ (n : Fin 64) (s : State) (k : Nat), (k ∈ [qTime, qAlarm, qOutput]) ∧ (s.egrQ (↑n) k ≠ []) ∧ (∀ j ∈
    [qTime, qAlarm, qOutput], j < k → s.egrQ (↑n) j = []) :=
  ⟨0, { linked with egr := { ports := [(0, { queues := [(2, [{ frame := txFrame }]), (3, [{ frame := txFrame }])] })] } }, 2, by decide,
    by decide, by decide⟩

theorem witness_TransmitRows_4 : ∃ (n : Fin 64) (k : Nat) (p : EgrPort) (e : EgrFrame) (rest : List EgrFrame) (s : State), (Machine.Inv s) ∧
    ((s.port ↑n).fifo = []) ∧ (egrPick (↑n) s = some (k, p)) ∧ (p.queues = (s.egrPort ↑n).queues) ∧ (s.egrQ (↑n) k = e :: rest) ∧
    ((s.portCfg ↑n).g0TxMax = 0) ∧ (List.length e.frame.bytes + 4 ≤ s.rd (fPORT_RX_CFG_MAX_LEN ↑n)) ∧ (txUsed (s.port ↑n) + txWords e.frame
    ≤ 4096) :=
  ⟨0, 2, { queues := [(2, [{ frame := txFrame }])] }, { frame := txFrame }, [],
    { linked with egr := { ports := [(0, { queues := [(2, [{ frame := txFrame }])] })] } }, by unfold Machine.Inv ChestOk; decide, by decide,
    by decide, by decide, by decide, by decide, by decide, by decide⟩

set_option maxRecDepth 20000 in
theorem witness_ParseRows_1_4_2_2 : ∃ (n : Fin 64) (f : RxFrame) (rest : List RxFrame) (s : State) (sa : Nat) (da : Nat) (sp : Nat) (dp :
    Nat) (p : Bytes) (kind : FrameKind) (bs : List Binding), (Machine.Inv s) ∧ ((s.port ↑n).rx = f :: rest) ∧ ((s.port ↑n).job = none) ∧
    (dupHolds f.dup = false) ∧ (f.started = true ∨ ∃ d, s.parsePick = some (↑n, d)) ∧ ((ethHdr f.bytes).etype ≠ 35063) ∧ ((ethHdr
    f.bytes).etype ≠ 2054) ∧ (readIp f.trunc (ethHdr f.bytes).etype (List.drop (ethHdr f.bytes).off f.bytes) = L34.udp sa da sp dp p) ∧
    (s.classify sa dp (ethHdr f.bytes).vlan p = some (kind, bs)) ∧ (kind ≠ FrameKind.command) ∧ ((s.portCfg ↑n).unicast.contains da = true ∨
    (s.portCfg ↑n).groups.contains da = true) ∧ (bs ≠ []) ∧ (kind ≠ FrameKind.other1344) :=
  ⟨0, rxData, [], (withPort linked { rx := [rxData] }), 0xFFFF0A000002, ownAddr, 4712, 4712, dataPayload, .data, [bind0],
    by unfold Machine.Inv ChestOk; decide, by decide, by decide, by decide, .inr (pick_some (by decide)), by decide, by decide, by decide,
    by decide, by decide, by decide, by decide, by decide⟩

set_option maxRecDepth 20000 in
theorem witness_ParseRows_1_4_2_1 : ∃ (n : Fin 64) (f : RxFrame) (rest : List RxFrame) (s : State) (sa : Nat) (da : Nat) (sp : Nat) (dp :
    Nat) (p : Bytes) (kind : FrameKind) (bs : List Binding), (Machine.Inv s) ∧ ((s.port ↑n).rx = f :: rest) ∧ ((s.port ↑n).job = none) ∧
    (dupHolds f.dup = false) ∧ (f.started = true ∨ ∃ d, s.parsePick = some (↑n, d)) ∧ ((ethHdr f.bytes).etype ≠ 35063) ∧ ((ethHdr
    f.bytes).etype ≠ 2054) ∧ (readIp f.trunc (ethHdr f.bytes).etype (List.drop (ethHdr f.bytes).off f.bytes) = L34.udp sa da sp dp p) ∧
    (s.classify sa dp (ethHdr f.bytes).vlan p = some (kind, bs)) ∧ (kind ≠ FrameKind.command) ∧ (¬((s.portCfg ↑n).unicast.contains da = true
    ∨ (s.portCfg ↑n).groups.contains da = true) ∨ bs = []) :=
  ⟨0, rxData, [],
    { withPort linked { rx := [rxData] } with img := some { image0 with bindings := [], ports := [{ mode := 1, unicast := [ownAddr], hostRing := true }] } },
    0xFFFF0A000002, ownAddr, 4712, 4712, dataPayload, .data, [], by unfold Machine.Inv ChestOk; decide, by decide, by decide, by decide,
    .inr (pick_some (by decide)), by decide, by decide, by decide, by decide, by decide, by decide⟩

set_option maxRecDepth 20000 in
theorem witness_ParseRows_1_4_1 : ∃ (n : Fin 64) (f : RxFrame) (rest : List RxFrame) (s : State) (sa : Nat) (da : Nat) (sp : Nat) (dp : Nat)
    (p : Bytes), (Machine.Inv s) ∧ ((s.port ↑n).rx = f :: rest) ∧ ((s.port ↑n).job = none) ∧ (dupHolds f.dup = false) ∧ (f.started = true ∨
    ∃ d, s.parsePick = some (↑n, d)) ∧ ((ethHdr f.bytes).etype ≠ 35063) ∧ ((ethHdr f.bytes).etype ≠ 2054) ∧ (readIp f.trunc (ethHdr
    f.bytes).etype (List.drop (ethHdr f.bytes).off f.bytes) = L34.udp sa da sp dp p) ∧ (s.classify sa dp (ethHdr f.bytes).vlan p = none) :=
  ⟨0, { rxData with bytes := udpTo [1#8] }, [rxData], (withPort linked { rx := [{ rxData with bytes := udpTo [1#8] }, rxData] }),
    0xFFFF0A000002, ownAddr, 4712, 4712, [1#8], by unfold Machine.Inv ChestOk; decide, by decide, by decide, by decide,
    .inr (pick_some (by decide)), by decide, by decide, by decide, by decide⟩

theorem witness_ParseRows_1_1 : ∃ (n : Fin 64) (f : RxFrame) (rest : List RxFrame) (s : State), (Machine.Inv s) ∧ ((s.port ↑n).rx = f ::
    rest) ∧ ((s.port ↑n).job = none) ∧ (dupHolds f.dup = false) ∧ (f.started = true ∨ ∃ d, s.parsePick = some (↑n, d)) ∧ ((ethHdr
    f.bytes).etype ≠ 35063) ∧ ((ethHdr f.bytes).etype ≠ 2054) ∧ (readIp f.trunc (ethHdr f.bytes).etype (List.drop (ethHdr f.bytes).off
    f.bytes) = L34.bad) :=
  ⟨0, { rxData with bytes := (udpTo dataPayload).take 40 }, [],
    (withPort linked { rx := [{ rxData with bytes := (udpTo dataPayload).take 40 }] }), by unfold Machine.Inv ChestOk; decide, by decide,
    by decide, by decide, .inr (pick_some (by decide)), by decide, by decide, by decide⟩

set_option maxRecDepth 20000 in
theorem witness_ParseRows_1_2 : ∃ (n : Fin 64) (f : RxFrame) (rest : List RxFrame) (s : State), (Machine.Inv s) ∧ ((s.port ↑n).rx = f ::
    rest) ∧ ((s.port ↑n).job = none) ∧ (dupHolds f.dup = false) ∧ (f.started = true ∨ ∃ d, s.parsePick = some (↑n, d)) ∧ ((ethHdr
    f.bytes).etype ≠ 35063) ∧ ((ethHdr f.bytes).etype ≠ 2054) ∧ (readIp f.trunc (ethHdr f.bytes).etype (List.drop (ethHdr f.bytes).off
    f.bytes) = L34.fragment) :=
  ⟨0, { rxData with bytes := (udpTo dataPayload).set 20 0x20#8 |>.set 24 0x35#8 }, [],
    (withPort linked { rx := [{ rxData with bytes := (udpTo dataPayload).set 20 0x20#8 |>.set 24 0x35#8 }] }),
    by unfold Machine.Inv ChestOk; decide, by decide, by decide, by decide, .inr (pick_some (by decide)), by decide, by decide, by decide⟩

theorem witness_ParseRows_1_3 : ∃ (n : Fin 64) (f : RxFrame) (rest : List RxFrame) (s : State), (Machine.Inv s) ∧ ((s.port ↑n).rx = f ::
    rest) ∧ ((s.port ↑n).job = none) ∧ (dupHolds f.dup = false) ∧ (f.started = true ∨ ∃ d, s.parsePick = some (↑n, d)) ∧ ((ethHdr
    f.bytes).etype ≠ 35063) ∧ ((ethHdr f.bytes).etype ≠ 2054) ∧ (readIp f.trunc (ethHdr f.bytes).etype (List.drop (ethHdr f.bytes).off
    f.bytes) = L34.notIp) :=
  ⟨0, { rxData with bytes := List.replicate 60 1#8 }, [], (withPort linked { rx := [{ rxData with bytes := List.replicate 60 1#8 }] }),
    by unfold Machine.Inv ChestOk; decide, by decide, by decide, by decide, .inr (pick_some (by decide)), by decide, by decide, by decide⟩

set_option maxRecDepth 20000 in
theorem witness_ParseRows_2 : ∃ (n : Fin 64) (c : RxCur) (d : Drr) (s : State), (Machine.Inv s) ∧ ((s.port ↑n).rx = []) ∧ ((s.port ↑n).cur =
    some c) ∧ (s.parsePick = some (↑n, d)) :=
  (pick_some (s := (withPort linked { cur := some { stamp := 1000000000000, bytes := udpTo dataPayload ++ List.replicate 20 0#8, maxLen := 1522, dup := .unchecked, started := false } })) (n := 0) (by decide)).elim fun d h => ⟨0, { stamp := 1000000000000, bytes := udpTo dataPayload ++ List.replicate 20 0#8, maxLen := 1522, dup := .unchecked, started := false }, d, _, by unfold Machine.Inv ChestOk; decide, by decide, by decide, h⟩

theorem witness_ParseRows_3 : ∃ (n : Fin 64) (s : State), (∀ (f : RxFrame) (rest : List RxFrame), (s.port ↑n).rx = f :: rest → f.started =
    false) ∧ (∀ (d : Drr), s.parsePick ≠ some (↑n, d)) :=
  ⟨63, linked, by nofun, fun d h => by rw [show linked.parsePick = none by decide] at h; cases h⟩

set_option maxRecDepth 20000 in
theorem witness_C37Rows_1_1 : ∃ (src : IngSrc) (j : ParseJob) (r : Nat) (s : State), ((openTcp src s).job src = some j) ∧ (c37Common j =
    some r) ∧ (j.kind = FrameKind.data) ∧ (j.recs = none) :=
  ⟨(.port 0), { jobOf .data dataPayload with trunc := true }, dropTrunc, (parsing { jobOf .data dataPayload with trunc := true }),
    by decide, by decide, by decide, by decide⟩

set_option maxRecDepth 20000 in
theorem witness_C37Rows_1_2 : ∃ (src : IngSrc) (j : ParseJob) (r : Nat) (s : State), ((openTcp src s).job src = some j) ∧ (c37Common j =
    some r) ∧ (j.kind = FrameKind.cfg2) :=
  ⟨(.port 0), (jobOf .cfg2 (cfg2Payload ++ [0#8])), dropSize, (parsing (jobOf .cfg2 (cfg2Payload ++ [0#8]))), by decide, by decide,
    by decide⟩

set_option maxRecDepth 20000 in
theorem witness_C37Rows_2 : ∃ (src : IngSrc) (j : ParseJob) (i : Image) (a : Nat) (x : StreamImg) (s : State), ((openTcp src s).job src =
    some j) ∧ (c37Common j = none) ∧ (j.kind = FrameKind.data) ∧ (j.recs = none) ∧ (cfgChanged ((openTcp src s).stream ((openTcp src
    s).jobStream j)).cfg j.payload = true) ∧ ((openTcp src s).img = some i) ∧ (i.streams[(openTcp src s).jobStream j]? = some x) ∧
    (x.command = some a) ∧ ((openTcp src s).on fING_CFG_CFG_REQ_EN = true) ∧ (Option.all (fun t => decide (t + 1000000000 ≤ (openTcp src
    s).up)) ((openTcp src s).stream ((openTcp src s).jobStream j)).lastReq = true) :=
  ⟨(.port 0), (jobOf .data changedPayload), { image0 with streams := [{ cfg := some streamCfg, command := some 9 }] }, 9,
    { cfg := some streamCfg, command := some 9 },
    { parsing (jobOf .data changedPayload) with img := some { image0 with streams := [{ cfg := some streamCfg, command := some 9 }] } },
    by decide, by decide, by decide, by decide, by decide, by decide, by decide, by decide, by decide, by decide⟩

set_option maxRecDepth 20000 in
theorem witness_C37Rows_3 : ∃ (src : IngSrc) (j : ParseJob) (c : StreamCfg) (s : State), (Machine.Inv s) ∧ ((openTcp src s).job src = some
    j) ∧ (c37Common j = none) ∧ (j.kind = FrameKind.data) ∧ (j.recs = none) ∧ (((openTcp src s).stream ((openTcp src s).jobStream j)).cfg =
    some c) ∧ (((openTcp src s).stream ((openTcp src s).jobStream j)).state ≠ 3) ∧ (dataFrameSize c = List.length j.payload) ∧ (beAt
    j.payload 11 3 < c.timeBase) ∧ ((openTcp src s).future ((openTcp src s).taiOfUtc (beAt j.payload 6 4 + roundDiv (beAt j.payload 11 3 *
    1000000000) c.timeBase / 1000000000) (roundDiv (beAt j.payload 11 3 * 1000000000) c.timeBase % 1000000000) j.stamp) j.stamp = false) :=
  ⟨(.port 0), (jobOf .data dataPayload), streamCfg, (parsing (jobOf .data dataPayload)), by unfold Machine.Inv ChestOk; decide, by decide,
    by decide, by decide, by decide, by decide, by decide, by decide, by decide, by decide⟩

set_option maxRecDepth 20000 in
theorem witness_C37Rows_4_1_1 : ∃ (src : IngSrc) (j : ParseJob) (c : StreamCfg) (s : State) (conn : Fin 256) (x : Nat) (p : Bytes),
    ((openTcp src s).job src = some j) ∧ (c37Common j = none) ∧ (j.kind = FrameKind.cfg2) ∧ (c = readCfg2 j.payload) ∧ (src = IngSrc.tcp
    conn x p) ∧ (c.dataRate > 60) :=
  ⟨(.tcp 255 5 (cfg2Of 61)), { jobOf .cfg2 (cfg2Of 61) with tcp := true, stamp := 5 }, (readCfg2 (cfg2Of 61)),
    { linked with img := some { image0 with bindings := [{ bind0 with tcp := some 255 }] } }, 255, 5, (cfg2Of 61), by decide, by decide,
    by decide, by decide, by decide, by decide⟩

set_option maxRecDepth 20000 in
theorem witness_C37Rows_4_1_2 : ∃ (src : IngSrc) (j : ParseJob) (c : StreamCfg) (s : State), ((openTcp src s).job src = some j) ∧ (c37Common
    j = none) ∧ (j.kind = FrameKind.cfg2) ∧ (c = readCfg2 j.payload) ∧ (tooFast src c = none) ∧ (rateOk c = false) :=
  ⟨(.port 0), (jobOf .cfg2 (cfg2Of 0)), (readCfg2 (cfg2Of 0)), (parsing (jobOf .cfg2 (cfg2Of 0))), by decide, by decide, by decide,
    by decide, by decide, by decide⟩

set_option maxRecDepth 20000 in
theorem witness_C37Rows_4_2_1_1 : ∃ (src : IngSrc) (j : ParseJob) (c : StreamCfg) (s : State), ((openTcp src s).job src = some j) ∧
    (c37Common j = none) ∧ (tooFast src c = none) ∧ (rateOk c = true) ∧ (j.kind = FrameKind.cfg2) ∧ (c = readCfg2 j.payload) ∧ (((openTcp
    src s).stream ((openTcp src s).jobStream j)).cfg = some c) :=
  ⟨(.port 0), (jobOf .cfg2 cfg2Payload), streamCfg, (parsing (jobOf .cfg2 cfg2Payload)), by decide, by decide, by decide, by decide,
    by decide, by decide, by decide⟩

set_option maxRecDepth 20000 in
theorem witness_C37Rows_4_2_1_2 : ∃ (src : IngSrc) (j : ParseJob) (c : StreamCfg) (s : State), ((openTcp src s).job src = some j) ∧
    (c37Common j = none) ∧ (tooFast src c = none) ∧ (rateOk c = true) ∧ (j.kind = FrameKind.cfg2) ∧ (c = readCfg2 j.payload) ∧ (((openTcp
    src s).stream ((openTcp src s).jobStream j)).cfg ≠ some c) ∧ (cfgInLimits c = true) ∧ ((openTcp src s).cfgFits ((openTcp src
    s).jobStream j) c = true) ∧ ((openTcp src s).holdPolicy ((openTcp src s).jobStream j) = false ∨ ((openTcp src s).stream ((openTcp src
    s).jobStream j)).cfg = none) :=
  ⟨(.port 0), (jobOf .cfg2 cfg2Payload), streamCfg, { parsing (jobOf .cfg2 cfg2Payload) with img := some { image0 with streams := [] } },
    by decide, by decide, by decide, by decide, by decide, by decide, by decide, by decide, by decide, by decide⟩

set_option maxRecDepth 20000 in
theorem witness_C37Rows_4_2_2_1 : ∃ (src : IngSrc) (j : ParseJob) (c : StreamCfg) (s : State) (d : StreamCfg) (i : Nat), ((openTcp src
    s).job src = some j) ∧ (c37Common j = none) ∧ (tooFast src c = none) ∧ (rateOk c = true) ∧ (j.kind = FrameKind.cfg3) ∧ (beAt j.payload 1
    1 % 16 = 2) ∧ (c = { d with cfg3 := true }) ∧ (i = 0) ∧ (((openTcp src s).stream ((openTcp src s).jobStream j)).cfg ≠ some c) ∧
    (cfgInLimits c = true) ∧ ((openTcp src s).cfgFits ((openTcp src s).jobStream j) c = true) ∧ ((openTcp src s).holdPolicy ((openTcp src
    s).jobStream j) = false ∨ ((openTcp src s).stream ((openTcp src s).jobStream j)).cfg = none) ∧ (List.length j.payload ≤ 65535) :=
  ⟨(.port 0), (jobOf .cfg3 (c37Of 5 (be 2 0 ++ cfg2Payload))), { streamCfg with cfg3 := true },
    (parsing (jobOf .cfg3 (c37Of 5 (be 2 0 ++ cfg2Payload)))), { streamCfg with cfg3 := true }, 0, by decide, by decide, by decide,
    by decide, by decide, by decide, by decide, by decide, by decide, by decide, by decide, by decide, by decide⟩

set_option maxRecDepth 20000 in
theorem witness_C37Rows_4_2_2_2 : ∃ (src : IngSrc) (j : ParseJob) (c : StreamCfg) (s : State) (d : StreamCfg) (i : Nat), ((openTcp src
    s).job src = some j) ∧ (c37Common j = none) ∧ (tooFast src c = none) ∧ (rateOk c = true) ∧ (j.kind = FrameKind.cfg3) ∧ (beAt j.payload 1
    1 % 16 = 2) ∧ (c = { d with cfg3 := true }) ∧ (0 < i) ∧ (i < 65535) ∧ ((if i = 1 then 0 else ((openTcp src s).stream ((openTcp src
    s).jobStream j)).fragLen) + List.length j.payload ≤ 65535) :=
  ⟨(.port 0), (jobOf .cfg3 (c37Of 5 (be 2 2 ++ cfg2Payload))), { streamCfg with cfg3 := true },
    (parsing (jobOf .cfg3 (c37Of 5 (be 2 2 ++ cfg2Payload)))), { streamCfg with cfg3 := true }, 0xFFFE, by decide, by decide, by decide,
    by decide, by decide, by decide, by decide, by decide, by decide, by decide⟩

set_option maxRecDepth 20000 in
theorem witness_C37Rows_5_1 : ∃ (src : IngSrc) (j : ParseJob) (s : State), ((openTcp src s).job src = some j) ∧ (c37Common j = none) ∧
    (j.kind = FrameKind.cfg1) :=
  ⟨(.port 0), (jobOf .cfg1 cfg2Payload), (parsing (jobOf .cfg1 cfg2Payload)), by decide, by decide, by decide⟩

set_option maxRecDepth 20000 in
theorem witness_C37Rows_5_2 : ∃ (src : IngSrc) (j : ParseJob) (s : State), ((openTcp src s).job src = some j) ∧ (c37Common j = none) ∧
    (j.kind = FrameKind.header) :=
  ⟨(.port 0), (jobOf .header cfg2Payload), (parsing (jobOf .header cfg2Payload)), by decide, by decide, by decide⟩

set_option maxRecDepth 20000 in
theorem witness_OtherFrameRows_1_1 : ∃ (n : Fin 64) (d : I1344Data) (j : ParseJob) (s : State) (f : RxFrame) (rest : List RxFrame),
    (Machine.Inv s) ∧ (s.job1344 (↑n) d.ident = some j) ∧ (j.kind = FrameKind.data1344) ∧ (j.recs = none) ∧ (j.slots = []) ∧ ((s.port ↑n).rx
    = f :: rest) :=
  ⟨0, { data1344 with ident := 8 }, { jobOf .data1344 [] with slots := [] }, (parsing1344 (jobOf .data1344 [])), rxData, [],
    by unfold Machine.Inv ChestOk; decide, by decide, by decide, by decide, by decide, by decide⟩

theorem witness_OtherFrameRows_1_2 : ∃ (n : Fin 64) (d : I1344Data) (j : ParseJob) (s : State) (r : Nat), (Machine.Inv s) ∧ (s.job1344 (↑n)
    d.ident = some j) ∧ (j.kind = FrameKind.data1344) ∧ (j.recs = none) ∧ (j.slots ≠ []) ∧ (common1344 j d.sizeOk d.chkOk = some r) :=
  ⟨0, { data1344 with sizeOk := false }, (jobOf .data1344 []), (parsing1344 (jobOf .data1344 [])), dropSize,
    by unfold Machine.Inv ChestOk; decide, by decide, by decide, by decide, by decide, by decide⟩

theorem witness_OtherFrameRows_1_3 : ∃ (n : Fin 64) (d : I1344Data) (j : ParseJob) (s : State) (c : StreamCfg), (Machine.Inv s) ∧ (s.job1344
    (↑n) d.ident = some j) ∧ (j.kind = FrameKind.data1344) ∧ (j.recs = none) ∧ (j.slots ≠ []) ∧ (common1344 j d.sizeOk d.chkOk = none) ∧
    ((s.stream (s.jobStream j)).state ≠ 3) ∧ ((s.stream (s.jobStream j)).cfg = some c) ∧ (∃ b l, c.blocks = b :: l ∧ b.phunit.length =
    d.phasors.length) ∧ (s.future (s.taiOfUtc (d.utcSec + roundDiv (d.smpCnt * 1000000000) (max 1 c.dataRate.toNat) / 1000000000) (roundDiv
    (d.smpCnt * 1000000000) (max 1 c.dataRate.toNat) % 1000000000) j.stamp) j.stamp = false) :=
  ⟨0, data1344, (jobOf .data1344 []), (parsing1344 (jobOf .data1344 [])), streamCfg, by unfold Machine.Inv ChestOk; decide, by decide,
    by decide, by decide, by decide, by decide, by decide, by decide, ⟨_, _, rfl, rfl⟩, by decide⟩

theorem witness_OtherFrameRows_2_1 : ∃ (n : Fin 64) (ident : Nat) (so : Bool) (co : Bool) (j : ParseJob) (s : State) (r : Nat), (Machine.Inv
    s) ∧ (s.job1344 (↑n) ident = some j) ∧ (j.kind = FrameKind.cfg1344) ∧ (j.slots ≠ []) ∧ (common1344 j so co = some r) :=
  ⟨0, 7, true, false, (jobOf .cfg1344 []), (parsing1344 (jobOf .cfg1344 [])), dropBadChk, by unfold Machine.Inv ChestOk; decide, by decide,
    by decide, by decide, by decide⟩

theorem witness_OtherFrameRows_2_2 : ∃ (n : Fin 64) (ident : Nat) (so : Bool) (co : Bool) (c : StreamCfg) (j : ParseJob) (s : State),
    (Machine.Inv s) ∧ (s.job1344 (↑n) ident = some j) ∧ (j.kind = FrameKind.cfg1344) ∧ (j.slots ≠ []) ∧ (common1344 j so co = none) ∧
    (rateOk c = true) ∧ (c.cfg3 = false) ∧ ((s.stream (s.jobStream j)).cfg ≠ some c) ∧ (cfgInLimits c = true) ∧ (s.cfgFits (s.jobStream j) c
    = true) ∧ (s.holdPolicy (s.jobStream j) = false) :=
  ⟨0, 7, true, true, { streamCfg with dataRate := 25 }, (jobOf .cfg1344 []), (parsing1344 (jobOf .cfg1344 [])),
    by unfold Machine.Inv ChestOk; decide, by decide, by decide, by decide, by decide, by decide, by decide, by decide, by decide, by decide,
    by decide⟩

set_option maxRecDepth 20000 in
theorem witness_OtherFrameRows_3_1 : ∃ (n : Fin 64) (f : SvFrame) (j : ParseJob) (fr : RxFrame) (rest : List RxFrame) (s : State),
    (Machine.Inv s) ∧ ((s.port ↑n).job = some j) ∧ ((s.port ↑n).rx = fr :: rest) ∧ (j.kind = FrameKind.routedSv) ∧ (j.recs = none) ∧ (f.si ≠
    162 ∨ f.idError = false ∧ s.svPairs j f = [] ∧ (f.encrypted = false ∨ f.asdus ≠ [])) :=
  ⟨0, { svFrame with si := 0xA1 }, (jobOf .routedSv []), rxData, [], (svState false), by unfold Machine.Inv ChestOk; decide, by decide,
    by decide, by decide, by decide, by decide⟩

set_option maxRecDepth 20000 in
theorem witness_OtherFrameRows_3_2_1 : ∃ (n : Fin 64) (f : SvFrame) (j : ParseJob) (fr : RxFrame) (rest : List RxFrame) (s : State) (r :
    Nat), (Machine.Inv s) ∧ ((s.port ↑n).job = some j) ∧ ((s.port ↑n).rx = fr :: rest) ∧ (j.kind = FrameKind.routedSv) ∧ (j.recs = none) ∧
    (f.si = 162) ∧ (f.idError = false) ∧ (s.svPairs j f ≠ []) ∧ (svCheck
    { kind := j.kind, payload := j.payload, stamp := j.stamp, port := j.port, lan := j.lan, trunc := j.trunc, tcp := j.tcp, slots := List.map (fun p => p.2.1.slot) (s.svPairs j f), recs := j.recs, excess := j.excess }
    f (s.svPairs j f) = some r) :=
  ⟨0, svFrame, { jobOf .routedSv [] with trunc := true }, rxData, [], (svState false { jobOf .routedSv [] with trunc := true }), dropTrunc,
    by unfold Machine.Inv ChestOk; decide, by decide, by decide, by decide, by decide, by decide, by decide, by decide, by decide⟩

set_option maxRecDepth 20000 in
theorem witness_OtherFrameRows_3_2_2_1 : ∃ (n : Fin 64) (f : SvFrame) (j : ParseJob) (fr : RxFrame) (rest : List RxFrame) (s : State),
    (Machine.Inv s) ∧ ((s.port ↑n).job = some j) ∧ ((s.port ↑n).rx = fr :: rest) ∧ (j.kind = FrameKind.routedSv) ∧ (j.recs = none) ∧ (f.si =
    162) ∧ (f.idError = false) ∧ (s.svPairs j f ≠ []) ∧ (svCheck
    { kind := j.kind, payload := j.payload, stamp := j.stamp, port := j.port, lan := j.lan, trunc := j.trunc, tcp := j.tcp, slots := List.map (fun p => p.2.1.slot) (s.svPairs j f), recs := j.recs, excess := j.excess }
    f (s.svPairs j f) = none) ∧ (∀ p ∈ s.svPairs j f, p.2.1.auth = false) ∧ (∀ p ∈ s.svPairs j f, s.future (s.taiOfUtc (p.1.refrTm.getD 0 /
    1000000000) (p.1.refrTm.getD 0 % 1000000000) j.stamp) j.stamp = false) :=
  ⟨0, svFrame, (jobOf .routedSv []), rxData, [], (svState false), by unfold Machine.Inv ChestOk; decide, by decide, by decide, by decide,
    by decide, by decide, by decide, by decide, by decide, by decide, by decide⟩

set_option maxRecDepth 20000 in
theorem witness_OtherFrameRows_3_2_2_2 : ∃ (n : Fin 64) (f : SvFrame) (j : ParseJob) (fr : RxFrame) (rest : List RxFrame) (s : State),
    (Machine.Inv s) ∧ ((s.port ↑n).job = some j) ∧ ((s.port ↑n).rx = fr :: rest) ∧ (j.kind = FrameKind.routedSv) ∧ (j.recs = none) ∧ (f.si =
    162) ∧ (f.idError = false) ∧ (s.svPairs j f ≠ []) ∧ (svCheck
    { kind := j.kind, payload := j.payload, stamp := j.stamp, port := j.port, lan := j.lan, trunc := j.trunc, tcp := j.tcp, slots := List.map (fun p => p.2.1.slot) (s.svPairs j f), recs := j.recs, excess := j.excess }
    f (s.svPairs j f) = none) ∧ (∃ p ∈ s.svPairs j f, p.2.1.auth = true) ∧ (f.alg = 0 ∨ f.alg > 5) :=
  ⟨0, svFrame, (jobOf .routedSv []), rxData, [], (svState true), by unfold Machine.Inv ChestOk; decide, by decide, by decide, by decide,
    by decide, by decide, by decide, by decide, by decide, by decide, by decide⟩

set_option maxRecDepth 20000 in
theorem witness_IngressRows_1 : ∃ (src : IngSrc) (j : ParseJob) (rs : List SlotRecord) (s : State), (s.job src = some j) ∧ (j.recs = some
    rs) :=
  ⟨(.port 0), { jobOf .data dataPayload with recs := some [record0] }, [record0],
    { withPort linked { job := some { jobOf .data dataPayload with recs := some [record0] }, rx := [{ rxData with dup := .owner 9 1 }] } with dup := [⟨9, 1, none⟩] },
    by decide, by decide⟩

theorem witness_IngressRows_2 : ∃ (k : Nat) (c : StreamCfg) (s : State), ((s.stream k).waiting = some c) :=
  ⟨0, streamCfg, { linked with ing := { streams := [(0, { waiting := some streamCfg, gen := 65535 })] } }, by decide⟩

set_option maxRecDepth 20000 in
theorem witness_IngressRows_3 : ∃ (c : Fin 256) (s : State), (s.hasTcp ↑c = true) ∧ (s.tcpState ↑c = 1) :=
  ⟨255, { linked with img := some { image0 with tcp := List.replicate 256 ⟨ownAddr, some 4712, 0⟩ }, ing := { tcp := [(255, 1)] } },
    by decide, by decide⟩

theorem witness_IngressRows_4_1 : ∃ (c : Fin 256) (s : State), (s.tcpState ↑c = 4 ∨ s.tcpState ↑c = 5) ∧ (s.up ≥ smGet 0 s.ing.tcpDue ↑c) :=
  ⟨255, { linked with up := 7, ing := { tcp := [(255, 5)], tcpDue := [(255, 7)] } }, by decide, by decide⟩

theorem witness_IngressRows_4_2 : ∃ (c : Fin 256) (s : State), (s.tcpState ↑c = 4 ∨ s.tcpState ↑c = 5) ∧ (s.up < smGet 0 s.ing.tcpDue ↑c) :=
  ⟨255, { linked with up := 6, ing := { tcp := [(255, 4)], tcpDue := [(255, 7)] } }, by decide, by decide⟩

theorem witness_IngressRows_5 : ∃ (c : Fin 256) (s : State), (s.hasTcp ↑c = true) ∧ (s.tcpState ↑c < 4) :=
  ⟨0, { linked with img := some { image0 with tcp := [⟨ownAddr, none, 0⟩] }, ing := { tcp := [(0, 3)] } }, by decide, by decide⟩

theorem witness_IngressRows_6_1 : ∃ (i : Image) (s : State), (s.img = some i) :=
  ⟨{ image0 with ports := [{ groups := [0xFFFFE0000001, 2 ^ 127] }] },
    { linked with img := some { image0 with ports := [{ groups := [0xFFFFE0000001, 2 ^ 127] }] } }, by decide⟩

theorem witness_IngressRows_6_2 : ∃ (i : Image) (s : State), (s.img = some i) ∧ (s.up ≥ s.ing.reportDue) :=
  ⟨{ image0 with ports := [{ groups := [0xFFFFE0000001, 2 ^ 127] }] },
    { linked with img := some { image0 with ports := [{ groups := [0xFFFFE0000001, 2 ^ 127] }] } }, by decide, by decide⟩

theorem witness_IngressRows_6_3 : ∃ (i : Image) (s : State), (s.img = some i) ∧ (s.up < s.ing.reportDue) :=
  ⟨image0, { linked with ing := { reportDue := 1 } }, by decide, by decide⟩

theorem witness_IngressRows_7_1 : ∃ (n : Fin 64) (a : Nat) (s : State), (s.egrFull (↑n) qSteward = false) ∧ ((s.portCfg ↑n).unicast.contains
    a = true) :=
  ⟨0, ownAddr, linked, by decide, by decide⟩

theorem witness_IngressRows_7_2_1 : ∃ (n : Fin 64) (a : Nat) (s : State) (i : Image), (s.egrFull (↑n) qSteward = false) ∧ ((s.portCfg
    ↑n).unicast.contains a = false) ∧ (s.img = some i) ∧ ((i.srcIps.any fun x => decide (x.1 = ↑n) && decide (x.2 = a)) = true) ∧
    (s.authority = true) :=
  ⟨0, 0xFFFF0A000009, { linked with img := some { image0 with srcIps := [(0, 0xFFFF0A000009)] } },
    { image0 with srcIps := [(0, 0xFFFF0A000009)] }, by decide, by decide, by decide, by decide, by decide⟩

theorem witness_IngressRows_7_2_2 : ∃ (n : Fin 64) (a : Nat) (s : State) (i : Image), (s.egrFull (↑n) qSteward = false) ∧ ((s.portCfg
    ↑n).unicast.contains a = false) ∧ (s.img = some i) ∧ ((i.srcIps.any fun x => decide (x.1 = ↑n) && decide (x.2 = a)) = true) ∧
    (s.authority = false) :=
  ⟨0, 0xFFFF0A000009, { linked with img := some { pairImg with srcIps := [(0, 0xFFFF0A000009)] } },
    { pairImg with srcIps := [(0, 0xFFFF0A000009)] }, by decide, by decide, by decide, by decide, by decide⟩

theorem witness_IngressRows_8_1 : ∃ (i : Image) (s : State), (s.img = some i) ∧ (s.up ≥ s.alm.resolveAt) :=
  ⟨{ image0 with alm := { dests := [⟨0, ownAddr, 5, none, 0, false, 0, 0, none⟩] } },
    { linked with img := some { image0 with alm := { dests := [⟨0, ownAddr, 5, none, 0, false, 0, 0, none⟩] } } }, by decide, by decide⟩

theorem witness_IngressRows_8_2 : ∃ (i : Image) (s : State), (s.img = some i) ∧ (s.up < s.alm.resolveAt) :=
  ⟨image0, { linked with alm := { resolveAt := 1 } }, by decide, by decide⟩

theorem witness_IngressRows_9 : ∃ (i : Image) (s : State), (s.img = some i) :=
  ⟨{ image0 with alm := { dests := [⟨0, ownAddr, 5, none, 0, false, 0, 0, none⟩] } },
    { linked with img := some { image0 with alm := { dests := [⟨0, ownAddr, 5, none, 0, false, 0, 0, none⟩] } } }, by decide⟩

theorem witness_RecordRows_1_1_1 : ∃ (r : SlotRecord) (rest : List SlotRecord) (b : Binding) (b' : Binding) (c : Column) (s : State),
    (s.ing.arrivals = r :: rest) ∧ (s.slotBinding? r.slot = some b) ∧ (forResampler s r b = false) ∧ (s.ticking = true) ∧ (r.qual.testBit 28
    = true ∨ b.fmt = BindFmt.localRef ∨ s.tickInst (s.nearestTick r.srcTime) - r.srcTime + (r.srcTime - s.tickInst (s.nearestTick
    r.srcTime)) ≤ s.tolerance b) ∧ (s.skips (s.nearestTick r.srcTime) = false) ∧ (s.swapBars r (s.nearestTick r.srcTime) = false) ∧
    (bindingOf (s.imgAt (s.nearestTick r.srcTime)) r.slot = some b') ∧ (s.col? (s.nearestTick r.srcTime) = some c) ∧ ((cellOf c
    r.slot).state ≠ 1) ∧ ((cellOf c r.slot).state ≠ 3) ∧ ((cellOf c r.slot).lost = false) ∧ (r.ingTime < closeAt c b'.group ∨ c.win = none)
    ∧ (c.done.contains b'.group = false) :=
  ⟨direct0, [direct0], bind0, bind0, column, { ticking with ing := { arrivals := [direct0, direct0] } }, by decide, by decide, by decide,
    by decide, by decide, by decide, by decide, by decide, by decide, by decide, by decide, by decide, by decide, by decide⟩

theorem witness_RecordRows_1_1_2 : ∃ (r : SlotRecord) (rest : List SlotRecord) (b : Binding) (b' : Binding) (c : Column) (s : State),
    (s.ing.arrivals = r :: rest) ∧ (s.slotBinding? r.slot = some b) ∧ (forResampler s r b = false) ∧ (s.ticking = true) ∧ (r.qual.testBit 28
    = true ∨ b.fmt = BindFmt.localRef ∨ s.tickInst (s.nearestTick r.srcTime) - r.srcTime + (r.srcTime - s.tickInst (s.nearestTick
    r.srcTime)) ≤ s.tolerance b) ∧ (s.skips (s.nearestTick r.srcTime) = false) ∧ (s.swapBars r (s.nearestTick r.srcTime) = false) ∧
    (bindingOf (s.imgAt (s.nearestTick r.srcTime)) r.slot = some b') ∧ (s.col? (s.nearestTick r.srcTime) = some c) ∧ ((cellOf c
    r.slot).state ≠ 1) ∧ ((cellOf c r.slot).state ≠ 3) ∧ ((cellOf c r.slot).lost = false) ∧ (r.ingTime ≥ closeAt c b'.group) ∧ (c.win.isSome
    = true) :=
  ⟨{ direct0 with ingTime := 1000200000000 }, [], bind0, bind0, column,
    { ticking with img := some { image0 with groups := [{ policy := 1, latePath := 2 }] }, ing := { arrivals := [{ direct0 with ingTime := 1000200000000 }] } },
    by decide, by decide, by decide, by decide, by decide, by decide, by decide, by decide, by decide, by decide, by decide, by decide,
    by decide, by decide⟩

theorem witness_RecordRows_1_2 : ∃ (r : SlotRecord) (rest : List SlotRecord) (b : Binding) (b' : Binding) (c : Column) (s : State),
    (s.ing.arrivals = r :: rest) ∧ (s.slotBinding? r.slot = some b) ∧ (forResampler s r b = false) ∧ (s.ticking = true) ∧ (r.qual.testBit 28
    = true ∨ b.fmt = BindFmt.localRef ∨ s.tickInst (s.nearestTick r.srcTime) - r.srcTime + (r.srcTime - s.tickInst (s.nearestTick
    r.srcTime)) ≤ s.tolerance b) ∧ (s.skips (s.nearestTick r.srcTime) = false) ∧ (s.swapBars r (s.nearestTick r.srcTime) = false) ∧
    (bindingOf (s.imgAt (s.nearestTick r.srcTime)) r.slot = some b') ∧ (s.col? (s.nearestTick r.srcTime) = some c) ∧ ((cellOf c
    r.slot).state = 1 ∨ (cellOf c r.slot).state = 3) :=
  ⟨direct0, [], bind0, bind0, { column with cells := [(0, { state := 1, rec? := some { direct0 with freq := 5 }, dups := 3 })] },
    { ticking with pgh := { cols := [{ column with cells := [(0, { state := 1, rec? := some { direct0 with freq := 5 }, dups := 3 })] }] }, ing := { arrivals := [direct0] } },
    by decide, by decide, by decide, by decide, by decide, by decide, by decide, by decide, by decide, by decide⟩

theorem witness_RecordRows_2_1 : ∃ (r : SlotRecord) (rest : List SlotRecord) (b : Binding) (s : State), (s.ing.arrivals = r :: rest) ∧
    (s.slotBinding? r.slot = some b) ∧ (forResampler s r b = true) ∧ (b.slot = r.slot) ∧ ((↑r.srcTime - inputInst (s.recRate b r) b.offsetNs
    (inputAt (s.recRate b r) b.offsetNs (r.srcTime + 500000000 / s.recRate b r))).natAbs ≤ s.tolerance b) ∧ (r.cfgGen = (s.stream
    b.stream).gen) ∧ ((s.hist b.slot).recs = []) :=
  ⟨record0, [], bind0, { ticking with ing := { arrivals := [record0] } }, by decide, by decide, by decide, by decide, by decide, by decide,
    by decide⟩

theorem witness_RecordRows_2_2 : ∃ (r : SlotRecord) (rest : List SlotRecord) (b : Binding) (s : State), (s.ing.arrivals = r :: rest) ∧
    (s.slotBinding? r.slot = some b) ∧ (forResampler s r b = true) ∧ (b.slot = r.slot) ∧ ((↑r.srcTime - inputInst (s.recRate b r) b.offsetNs
    (inputAt (s.recRate b r) b.offsetNs (r.srcTime + 500000000 / s.recRate b r))).natAbs ≤ s.tolerance b) ∧ (r.cfgGen ≠ (s.stream
    b.stream).gen) :=
  ⟨{ record0 with cfgGen := 1 }, [], bind0, { ticking with ing := { arrivals := [{ record0 with cfgGen := 1 }] } }, by decide, by decide,
    by decide, by decide, by decide, by decide⟩

theorem witness_RecordRows_2_3 : ∃ (r : SlotRecord) (rest : List SlotRecord) (b : Binding) (s : State), (s.ing.arrivals = r :: rest) ∧
    (s.slotBinding? r.slot = some b) ∧ (forResampler s r b = true) ∧ (b.slot = r.slot) ∧ ((↑r.srcTime - inputInst (s.recRate b r) b.offsetNs
    (inputAt (s.recRate b r) b.offsetNs (r.srcTime + 500000000 / s.recRate b r))).natAbs > s.tolerance b) :=
  ⟨{ record0 with srcTime := 1000005000000 }, [], bind0,
    { ticking with ing := { arrivals := [{ record0 with srcTime := 1000005000000 }] } }, by decide, by decide, by decide, by decide,
    by decide⟩

theorem witness_CloseRows_1 : ∃ (x : Nat) (g : Nat) (n : Nat) (c : Column) (s : State), (firstToken (s.tokens fun c g => !c.issued.contains
    g) = some (x, g, n)) ∧ (s.col? n = some c) ∧ (x ≤ s.clv.now) :=
  ⟨1000000000000, 0, 10000, { column with win := some [0] }, { ticking with pgh := { cols := [{ column with win := some [0] }] } },
    by decide, by decide, by decide⟩

theorem witness_CloseRows_2_1 : ∃ (x : Nat) (g : Nat) (n : Nat) (c : Column) (s : State), (firstToken (s.tokens fun c g => c.issued.contains
    g && !c.done.contains g) = some (x, g, n)) ∧ (s.col? n = some c) ∧ (g = 16 ∨ s.watermark ≥ x ∨ s.clv.now ≥ x + s.rd fPGH_CFG_GUARD_US *
    1000) ∧ ((tokenGroups (usedGroups (s.imgAt n))).all (c.done ++ [g]).contains = false) :=
  ⟨1000000000000, 0, 10000, { column with win := some [0, 10000000], issued := [0, 1] },
    { ticking with img := some { image0 with groups := [{ policy := 1 }, { policy := 4 }], bindings := [bind0, { bind0 with slot := 1, group := 1 }] }, pgh := { cols := [{ column with win := some [0, 10000000], issued := [0, 1] }] } },
    by decide, by decide, by decide, by decide⟩

theorem witness_CloseRows_2_2 : ∃ (x : Nat) (g : Nat) (n : Nat) (c : Column) (s : State), (firstToken (s.tokens fun c g => c.issued.contains
    g && !c.done.contains g) = some (x, g, n)) ∧ (s.col? n = some c) ∧ (g = 16 ∨ s.watermark ≥ x ∨ s.clv.now ≥ x + s.rd fPGH_CFG_GUARD_US *
    1000) ∧ ((tokenGroups (usedGroups (s.imgAt n))).all (c.done ++ [g]).contains = true) ∧ (n < 2 ^ 64) :=
  ⟨1000000000000, 0, 10000, { column with win := some [0], issued := [0] },
    { ticking with pgh := { cols := [{ column with win := some [0], issued := [0] }] } }, by decide, by decide, by decide, by decide,
    by decide⟩

theorem witness_CloseRows_3 : ∃ (x : Nat) (g : Nat) (n : Nat) (s : State), (firstToken (s.tokens fun c g => c.issued.contains g &&
    !c.done.contains g) = some (x, g, n)) ∧ (g ≠ 16) ∧ (s.watermark < x) ∧ (s.clv.now < x + s.rd fPGH_CFG_GUARD_US * 1000) :=
  ⟨1000000000000, 0, 10000,
    { ticking.wr fPGH_CFG_GUARD_US 50 with ing := { arrivals := [{ record0 with ingTime := 5 }] }, pgh := { cols := [{ column with win := some [0], issued := [0] }] } },
    by decide, by decide, by decide, by decide⟩

theorem witness_CloseRows_5 : ∃ (i : Image) (s : State), (s.img = some i) ∧ (s.up ≥ s.pgh.learnDue) :=
  ⟨image0, { ticking with up := 60000000000, pgh := { learnDue := 60000000000 } }, by decide, by decide⟩

theorem witness_CloseRows_5b : ∃ (i : Image) (s : State), (s.img = some i) ∧ (s.up ≥ s.pgh.learnDue) :=
  ⟨image0, { ticking with up := 60000000000, pgh := { learnDue := 60000000000 } }, by decide, by decide⟩

theorem witness_ItemRows_1 : ∃ (im : Image) (s : State), (s.img = some im) ∧ (s.canActivate s.nextInst = true) ∧ (s.swap = none) ∧
    (s.pair.join = none) ∧ (∀ i ∈ s.tmb.insts, i.tick ≠ s.nextInst) :=
  ⟨{ image0 with items := [item 0 1, item 0 2] }, { ticking with img := some { image0 with items := [item 0 1, item 0 2] } }, by decide,
    by decide, by decide, by decide, by decide⟩

theorem witness_ItemRows_2 : ∃ (g : Bool) (n : Nat) (j : Nat) (it : Item) (p : Nat) (i : Inst) (s : State), (s.pickItem g = some (n, j, it,
    p)) ∧ (s.inst? n = some i) ∧ (j < i.runs.length) :=
  ⟨false, 10000, 1, (item 0 2), 0, { tick := 10000, runs := [{ st := .retired }, { st := .ready }] },
    { instance_ { image0 with items := [item 0 1, item 0 2] } [{ st := .retired }, { st := .ready }] with tmb := { insts := [{ tick := 10000, runs := [{ st := .retired }, { st := .ready }] }] } },
    by decide, by decide, by decide⟩

theorem witness_ItemRows_3 : ∃ (p : Fin 38) (n : Nat) (j : Nat) (it : Item) (q : List (Nat × Nat)) (i : Inst) (s : State), (s.runningAt ↑p =
    none) ∧ (s.queue ↑p = (n, j) :: q) ∧ (s.laneStalled ↑p = false) ∧ (s.inst? n = some i) ∧ ((s.items i)[j]? = some it) ∧ (j <
    i.runs.length) :=
  ⟨37, 10000, 0, (item 5 1), [], { tick := 10000, runs := [{ st := .queued, place := some 37 }] },
    { runs (item 5 1) with tmb := { insts := [{ tick := 10000, runs := [{ st := .queued, place := some 37 }] }], queues := [(37, [(10000, 0)])] } },
    by decide, by decide, by decide, by decide, by decide, by decide⟩

theorem witness_ItemRows_4 : ∃ (p : Fin 38) (n : Nat) (j : Nat) (it : Item) (i : Inst) (s : State), (s.runningAt ↑p = some (n, j)) ∧
    (s.inst? n = some i) ∧ ((s.items i)[j]? = some it) ∧ (j < i.runs.length) ∧ ((runOf i j).data.isSome = true) ∧ (s.laneStalled ↑p = false)
    ∧ (s.composerWaits n j = false) :=
  ⟨0, 10000, 0, (item 0 1), { tick := 10000, runs := [{ st := .running, place := some 0, data := some [] }] },
    (instance_ { image0 with items := [item 0 1] } [{ st := .running, place := some 0, data := some [] }]), by decide, by decide, by decide,
    by decide, by decide, by decide, by decide⟩

theorem witness_ItemRows_4b : ∃ (p : Fin 38) (n : Nat) (j : Nat) (it : Item) (i : Inst) (s : State), (s.runningAt ↑p = some (n, j)) ∧
    (s.inst? n = some i) ∧ ((s.items i)[j]? = some it) ∧ (j < i.runs.length) ∧ ((runOf i j).data.isSome = true) ∧ (s.laneStalled ↑p = false)
    ∧ (s.composerWaits n j = false) :=
  ⟨31, 10000, 0, (item 0 1), { tick := 10000, runs := [{ st := .running, place := some 31, data := some [] }] },
    (instance_ { image0 with items := [item 0 1] } [{ st := .running, place := some 31, data := some [] }] 31), by decide, by decide,
    by decide, by decide, by decide, by decide, by decide⟩

theorem witness_ItemRows_5 : ∃ (i : Inst) (j : Nat) (s : State), (s.tmb.insts = [i]) ∧ (i.complete = false) ∧ (j < i.runs.length) ∧ ((runOf
    i j).st = ItemSt.ready) ∧ ((runOf i j).cls = 3) ∧ (s.rd fTMB_AGE_CFG_AGE3_US ≠ 0) ∧ (s.clv.now / 1000 > s.tmb.lastUs) ∧ (s.clv.now /
    1000 * 1000 - (runOf i j).readyAt > s.rd fTMB_AGE_CFG_AGE3_US * 1000) :=
  ⟨{ tick := 10000, runs := [{ st := .ready }] }, 0,
    { (instance_ { image0 with items := [item 0 1] } [{ st := .ready }]).wr fTMB_AGE_CFG_AGE3_US 1 with clv := { now := 1000000000000 } },
    by decide, by decide, by decide, by decide, by decide, by decide, by decide, by decide⟩

theorem witness_SequencerErrorRows_3 : ∃ (n : Nat) (j : Fin 4096) (i : Inst) (s : State), (s.inst? n = some i) ∧ (↑j < i.runs.length) ∧
    (itemDone (runOf i ↑j) = false) ∧ ((runOf i ↑j).st ≠ ItemSt.running) :=
  ⟨10000, 0, { tick := 10000, runs := [{ st := .ready }] }, (instance_ { image0 with items := [item 0 1] } [{ st := .ready }]), by decide,
    by decide, by decide, by decide⟩

theorem witness_SequencerErrorRows_4 : ∃ (p : Fin 32) (n : Nat) (j : Nat) (i : Inst) (s : State), (s.runningAt ↑p = some (n, j)) ∧ (s.inst?
    n = some i) :=
  ⟨31, 10000, 0, { tick := 10000, runs := [{ st := .running, place := some 31 }] }, (runs (item 0 1) image0 31), by decide, by decide⟩

theorem witness_SequencerErrorRows_5_1 : ∃ (p : Fin 38) (n : Nat) (j : Nat) (it : Item) (k : Nat) (op : Operand) (sl : Fin 8192) (i : Inst)
    (s : State) (f : Nat) (c : Nat) (h : Bool) (a : Bool) (d : Bool) (x : Nat) (y : Nat) (col : Column), (s.runningAt ↑p = some (n, j)) ∧
    (s.inst? n = some i) ∧ ((s.items i)[j]? = some it) ∧ (it.ops[k]? = some op) ∧ (op = Operand.cells f c h a d x y) ∧ (f ≤ ↑sl) ∧ (↑sl < f
    + c) ∧ (s.col? n = some col) :=
  ⟨37, 10000, 0, (item 5 1 [.cells 0 1 false true false 0 0]), 0, (.cells 0 1 false true false 0 0), 0,
    { tick := 10000, runs := [{ st := .running, place := some 37 }] }, (runs (item 5 1 [.cells 0 1 false true false 0 0]) image0 37), 0, 1,
    false, true, false, 0, 0, column, by decide, by decide, by decide, by decide, by decide, by decide, by decide, by decide⟩

theorem witness_SequencerErrorRows_5_2 : ∃ (p : Fin 38) (n : Nat) (j : Nat) (it : Item) (k : Nat) (op : Operand) (i : Inst) (s : State),
    (s.runningAt ↑p = some (n, j)) ∧ (s.inst? n = some i) ∧ ((s.items i)[j]? = some it) ∧ (it.ops[k]? = some op) ∧ (∀ (g : Nat), op ≠
    Operand.close g) ∧ (∀ (f c : Nat) (h a d : Bool) (x y : Nat), op ≠ Operand.cells f c h a d x y) :=
  ⟨0, 10000, 0, (item 0 1 [.const 0 1]), 0, (.const 0 1), { tick := 10000, runs := [{ st := .running, place := some 0 }] },
    (runs (item 0 1 [.const 0 1])), by decide, by decide, by decide, by decide, by nofun, by nofun⟩

theorem witness_KernelResults_1 : ∃ (k : KIn), (∀ x ∈ firstN (parN k) (floatsIn k), f32Finite x = true) ∧ (0 < parN k) :=
  ⟨(kernelIn 3 0 [0x3F800000, 0xBF800000, 0x40400000] []), by decide, by decide⟩

theorem witness_KernelResults_2 : ∃ (k : KIn), (∀ x ∈ firstN (parN k) (floatsIn k), f32Finite x = true) ∧ (parK k ≤ parN k) :=
  ⟨(kernelIn 3 3 [0x3F800000, 0xBF800000, 0x40400000] []), by decide, by decide⟩

theorem witness_KernelResults_3 : ∃ (k : KIn) (j : Nat), (j < parN k) ∧ (f32IsNan (elemAt (floatsIn k) j) = false) ∧ (f32IsNan (elemAt
    (constWords k) (2 * j)) = false) ∧ (f32IsNan (elemAt (constWords k) (2 * j + 1)) = false) :=
  ⟨(kernelIn 3 0 [0x3F800000, 0xBF800000, 0x40400000] [0, 0x3F800000, 0, 0x3F800000, 0, 0x3F800000]), 1, by decide, by decide, by decide,
    by decide⟩

theorem witness_KernelResults_3b : ∃ (k : KIn) (j : Nat), (j < parN k) ∧ (f32IsNan (elemAt (floatsIn k) j) = false) ∧ (f32IsNan (elemAt
    (constWords k) (2 * j)) = false) ∧ (f32IsNan (elemAt (constWords k) (2 * j + 1)) = false) :=
  ⟨(kernelIn 3 0 [0x3F800000, 0xBF800000, 0x40400000] [0, 0x3F800000, 0, 0x3F800000, 0, 0x3F800000]), 2, by decide, by decide, by decide,
    by decide⟩

theorem witness_KernelResults_4 : ∃ (k : KIn) (j : Nat), (j < parN k) ∧ (missW (elemAt (floatsIn k) j) = false) :=
  ⟨(kernelIn 1 0 [0xF0F0F0F0] []), 0, by decide, by decide⟩

theorem witness_KernelResults_5 : ∃ (n : Nat), (1 ≤ n) :=
  ⟨1, by decide⟩

theorem witness_KernelResults_5b : ∃ (n : Nat), (1 ≤ n) :=
  ⟨3, by decide⟩

theorem witness_KernelResults_5c : ∃ (n : Nat), (1 ≤ n) :=
  ⟨1, by decide⟩

theorem witness_EffectKernels_2 : ∃ (n : Nat) (j : Fin 4096) (i : Inst) (it : Item) (k : KIn) (s : State), (s.isRunning n (↑j) 0 42 = some
    (i, it)) ∧ (k = s.kin i (↑j) it n false) ∧ (constLost k = false) :=
  ⟨10000, 0, run0, { item 0 0x2A [.const 0 1] with p0 := 1 },
    ((runs { item 0 0x2A [.const 0 1] with p0 := 1 }).kin run0 0 { item 0 0x2A [.const 0 1] with p0 := 1 } 10000 false),
    (runs { item 0 0x2A [.const 0 1] with p0 := 1 }), by decide, by decide, by decide⟩

theorem witness_EngineRows_1 : ∃ (n : Nat) (j : Fin 4096) (i : Inst) (it : Item) (s : State), (s.isRunning n (↑j) 1 1 = some (i, it)) ∧
    (s.spec.bufs.length = 2) :=
  ⟨10000, 0, run0, (item 1 1), (runs (item 1 1) specImg), by decide, by decide⟩

theorem witness_EngineRows_1b : ∃ (n : Nat) (j : Fin 4096) (i : Inst) (it : Item) (s : State), (s.isRunning n (↑j) 1 1 = some (i, it)) ∧
    (s.spec.bufs.length = 2) :=
  ⟨10000, 0, { run0 with old := true }, (item 1 1), (oldRun (item 1 1) specImg), by decide, by decide⟩

theorem witness_EngineRows_2 : ∃ (n : Nat) (j : Fin 4096) (i : Inst) (it : Item) (s : State), (s.isRunning n (↑j) 1 2 = some (i, it)) :=
  ⟨10000, 0, run0, (item 1 2), (runs (item 1 2) specImg), by decide⟩

theorem witness_EngineRows_2b : ∃ (n : Nat) (j : Fin 4096) (i : Inst) (it : Item) (s : State), (s.isRunning n (↑j) 1 2 = some (i, it)) :=
  ⟨10000, 0, { run0 with old := true }, (item 1 2), (oldRun (item 1 2) specImg), by decide⟩

theorem witness_EngineRows_3 : ∃ (n : Nat) (j : Fin 4096) (i : Inst) (it : Item) (c : TrkCfg) (s : State), (s.isRunning n (↑j) 2 1 = some
    (i, it)) ∧ ((specCfgOf (s.instImg i)).trk = some c) :=
  ⟨10000, 0, run0, (item 2 1), trkCfg, (runs (item 2 1) specImg), by decide, by decide⟩

theorem witness_EngineRows_3b : ∃ (n : Nat) (j : Fin 4096) (i : Inst) (it : Item) (c : TrkCfg) (s : State), (s.isRunning n (↑j) 2 1 = some
    (i, it)) ∧ ((specCfgOf (s.instImg i)).trk = some c) :=
  ⟨10000, 0, { run0 with old := true }, (item 2 1), trkCfg, (oldRun (item 2 1) specImg), by decide, by decide⟩

theorem witness_EngineRows_4 : ∃ (n : Nat) (j : Fin 4096) (i : Inst) (it : Item) (s : State), (s.isRunning n (↑j) 3 1 = some (i, it)) :=
  ⟨10000, 0, run0, (item 3 1), (runs (item 3 1) cohImg), by decide⟩

theorem witness_EngineRows_4b : ∃ (n : Nat) (j : Fin 4096) (i : Inst) (it : Item) (s : State), (s.isRunning n (↑j) 3 1 = some (i, it)) :=
  ⟨10000, 0, { run0 with old := true }, (item 3 1), (oldRun (item 3 1) cohImg), by decide⟩

theorem witness_EngineRows_5 : ∃ (n : Nat) (j : Fin 4096) (i : Inst) (it : Item) (top : Nat) (s : State), (s.isRunning n (↑j) 4 1 = some (i,
    it)) ∧ (s.acc.zero = []) ∧ (top = match s.acc.lastReg with | some k => max k n | none => n) :=
  ⟨10000, 0, run0, (item 4 1), 10000, (runs (item 4 1) accImg), by decide, by decide, by decide⟩

theorem witness_EngineRows_5b : ∃ (n : Nat) (j : Fin 4096) (i : Inst) (it : Item) (top : Nat) (s : State), (s.isRunning n (↑j) 4 1 = some
    (i, it)) ∧ (s.acc.zero = []) ∧ (top = match s.acc.lastReg with | some k => max k n | none => n) :=
  ⟨10000, 0, { run0 with old := true }, (item 4 1), 10000, (oldRun (item 4 1) accImg), by decide, by decide, by decide⟩

theorem witness_PackRows_1 : ∃ (n : Nat) (j : Fin 4096) (i : Inst) (it : Item) (k : Nat) (im : Image) (c : SnrDefCfg) (s : State),
    (s.isRunning n (↑j) 0 53 = some (i, it)) ∧ (snrPrepIndex (s.items i) ↑j = some k) ∧ (s.instImg i = some im) ∧ (im.snare[k]? = some c) :=
  ⟨10000, 0, run0, (item 0 0x35), 0, { snareImg with items := [item 0 0x35] }, snareDef, (runs (item 0 0x35) snareImg), by decide,
    by decide, by decide, by decide⟩

theorem witness_PackRows_2 : ∃ (n : Nat) (j : Fin 4096) (i : Inst) (it : Item) (im : Image) (o : OutStream) (b : OutBlock) (s : State),
    (s.isRunning n (↑j) 0 57 = some (i, it)) ∧ (s.instImg i = some im) ∧ (im.outs[parE (s.kin i (↑j) it n false)]? = some o) ∧
    (o.blocks[parA (s.kin i (↑j) it n false)]? = some b) ∧ (s.reportOf o n = n) :=
  ⟨10000, 0, run0, (item 0 0x39), { outImg 0 with items := [item 0 0x39] }, (outStream 0), outBlock, (runs (item 0 0x39) (outImg 0)),
    by decide, by decide, by decide, by decide, by decide⟩

theorem witness_PackRows_2b : ∃ (n : Nat) (j : Fin 4096) (i : Inst) (it : Item) (im : Image) (o : OutStream) (b : OutBlock) (s : State),
    (s.isRunning n (↑j) 0 58 = some (i, it)) ∧ (s.instImg i = some im) ∧ (im.outs[parE (s.kin i (↑j) it n false)]? = some o) ∧
    (o.blocks[parA (s.kin i (↑j) it n false)]? = some b) ∧ (s.reportOf o n = n) :=
  ⟨10000, 0, run0, (item 0 0x3A), { outImg 1 with items := [item 0 0x3A] }, (outStream 1), outBlock, (runs (item 0 0x3A) (outImg 1)),
    by decide, by decide, by decide, by decide, by decide⟩

theorem witness_PackRows_3 : ∃ (n : Nat) (j : Fin 4096) (i : Inst) (it : Item) (im : Image) (o : OutStream) (s : State), (s.isRunning n (↑j)
    0 60 = some (i, it)) ∧ (s.instImg i = some im) ∧ (im.outs[parE (s.kin i (↑j) it n false)]? = some o) ∧ (s.reportOf o n = n) :=
  ⟨10000, 0, run0, (item 0 0x3C), { outImg 0 with items := [item 0 0x3C] }, (outStream 0), (runs (item 0 0x3C) (outImg 0)), by decide,
    by decide, by decide, by decide⟩

theorem witness_PackRows_4 : ∃ (n : Nat) (j : Fin 4096) (i : Inst) (it : Item) (im : Image) (o : OutStream) (late : Nat) (mask : Nat) (a :
    Nat) (s : State), (s.isRunning n (↑j) 0 61 = some (i, it)) ∧ (i.amend[it.p2 / 65536]? = some (late, mask, a)) ∧ (s.instImg i = some im)
    ∧ (im.outs[it.p2 % 65536]? = some o) ∧ (mask.testBit (it.p2 % 65536) = true) ∧ (s.isReport o late = true) :=
  ⟨10000, 0, amendInst, (item 0 0x3D), { outImg 0 with items := [item 0 0x3D] }, (outStream 0), 9999, 1, 0,
    { runs (item 0 0x3D) (outImg 0) with tmb := { insts := [amendInst] } }, by decide, by decide, by decide, by decide, by decide, by decide⟩

theorem witness_PackRows_5_1 : ∃ (n : Nat) (j : Fin 4096) (i : Inst) (it : Item) (p : Nat) (ps : List Nat) (x : Item) (im : Image) (o :
    OutStream) (s : State), (s.isRunning n (↑j) 5 1 = some (i, it)) ∧ (List.filter (fun p =>
    match (s.items i)[p]? with | some x => decide (x.kernel ≠ 60) | none => false) (producers it) = p :: ps) ∧ ((s.items i)[p]? = some x) ∧
    (s.instImg i = some im) ∧ (im.outs[x.p2 % 65536]? = some o) ∧ (s.isReport o (s.reportOf o n) = true) ∧ (o.format = 2) :=
  ⟨10000, 1, (packInst 5), (item 5 1 [.result 0 0 0]), 0, [], (item 0 0x3B),
    { outImg 2 with items := [item 0 0x3B, item 5 1 [.result 0 0 0]] }, (outStream 2), (composing 2 0x3B 1), by decide, by decide, by decide,
    by decide, by decide, by decide, by decide⟩

theorem witness_PackRows_5_2 : ∃ (n : Nat) (j : Fin 4096) (i : Inst) (it : Item) (p : Nat) (ps : List Nat) (x : Item) (im : Image) (o :
    OutStream) (s : State), (s.isRunning n (↑j) 5 1 = some (i, it)) ∧ (List.filter (fun p =>
    match (s.items i)[p]? with | some x => decide (x.kernel ≠ 60) | none => false) (producers it) = p :: ps) ∧ ((s.items i)[p]? = some x) ∧
    (s.instImg i = some im) ∧ (im.outs[x.p2 % 65536]? = some o) ∧ (s.isReport o (s.reportOf o n) = true) ∧ (o.format ≠ 2) :=
  ⟨10000, 1, (packInst 5), (item 5 1 [.result 0 0 0]), 0, [], (item 0 0x39),
    { outImg 0 with items := [item 0 0x39, item 5 1 [.result 0 0 0]] }, (outStream 0), (composing 0 0x39 1), by decide, by decide, by decide,
    by decide, by decide, by decide, by decide⟩

theorem witness_PackRows_6 : ∃ (n : Nat) (j : Fin 4096) (i : Inst) (it : Item) (p : Nat) (x : Item) (im : Image) (o : OutStream) (late :
    Nat) (mask : Nat) (a : Nat) (b : Bytes) (s : State), (s.isRunning n (↑j) 5 2 = some (i, it)) ∧ (producers it = [p]) ∧ ((s.items i)[p]? =
    some x) ∧ (i.amend[x.p2 / 65536]? = some (late, mask, a)) ∧ (s.instImg i = some im) ∧ (im.outs[x.p2 % 65536]? = some o) ∧ (o.format = 2)
    ∧ (o.rawAmend = true) ∧ (packBytes i p = some b) ∧ (List.length b ≥ 4) :=
  ⟨10000, 1, (packInst 5), (item 5 2 [.result 0 0 0]), 0, (item 0 0x3D), { outImg 2 with items := [item 0 0x3D, item 5 2 [.result 0 0 0]] },
    (outStream 2), 9999, 1, 0, (bytesOf [4, 1]), (composing 2 0x3D 2), by decide, by decide, by decide, by decide, by decide, by decide,
    by decide, by decide, by decide, by decide⟩

theorem witness_PackRows_7 : ∃ (n : Nat) (j : Fin 4096) (i : Inst) (it : Item) (s : State), (s.isRunning n (↑j) 0 63 = some (i, it)) :=
  ⟨10000, 0, run0, (item 0 0x3F), (runs (item 0 0x3F)), by decide⟩

theorem witness_PackRows_8 : ∃ (c : Nat) (r : Running) (s : State), (s.cmd? (CmdSrc.chan c) = some r) ∧ (r.opcode = 1) ∧ (r.done = none) ∧
    (s.mbx.wait.contains (CmdSrc.chan c) = false) :=
  ⟨3, (cmdOf 1 [5]), (withCmd (cmdOf 1 [5]) running), by decide, by decide, by decide, by decide⟩

theorem witness_AlarmRows_1_1_1 : ∃ (a : AlarmSt), (a.inhibited = false) ∧ (a.inhReq = false) ∧ (a.ackPending = false) ∧ (a.st = 0) :=
  ⟨{}, by decide, by decide, by decide, by decide⟩

theorem witness_AlarmRows_1_1_2 : ∃ (a : AlarmSt), (a.inhibited = false) ∧ (a.inhReq = false) ∧ (a.ackPending = false) ∧ (a.st = 1) :=
  ⟨{ st := 1 }, by decide, by decide, by decide, by decide⟩

theorem witness_AlarmRows_1_1_2b : ∃ (a : AlarmSt), (a.inhibited = false) ∧ (a.inhReq = false) ∧ (a.ackPending = false) ∧ (a.st = 1) :=
  ⟨{ st := 1 }, by decide, by decide, by decide, by decide⟩

theorem witness_AlarmRows_1_1_2c : ∃ (a : AlarmSt), (a.inhibited = false) ∧ (a.inhReq = false) ∧ (a.ackPending = false) ∧ (a.st = 1) :=
  ⟨{ st := 1, acked := true }, by decide, by decide, by decide, by decide⟩

theorem witness_AlarmRows_1_1_3 : ∃ (a : AlarmSt), (a.inhibited = false) ∧ (a.inhReq = false) ∧ (a.ackPending = false) ∧ (a.st = 2) :=
  ⟨{ st := 2 }, by decide, by decide, by decide, by decide⟩

theorem witness_AlarmRows_1_2 : ∃ (a : AlarmSt), (a.inhibited = false) ∧ (a.inhReq = false) ∧ (a.ackPending = true) :=
  ⟨{ st := 2, ackPending := true }, by decide, by decide, by decide⟩

theorem witness_AlarmRows_1_2b : ∃ (a : AlarmSt), (a.inhibited = false) ∧ (a.inhReq = false) ∧ (a.ackPending = true) :=
  ⟨{ st := 1, ackPending := true }, by decide, by decide, by decide⟩

theorem witness_AlarmRows_1_3 : ∃ (a : AlarmSt), (a.ackPending = false) :=
  ⟨{ st := 1 }, by decide⟩

theorem witness_AlarmRows_1_4 : ∃ (a : AlarmSt), (a.inhibited = true) ∧ (a.inhReq = true) :=
  ⟨{ st := 1, inhibited := true, inhReq := true }, by decide, by decide⟩

theorem witness_AlarmRows_1_5 : ∃ (a : AlarmSt), (a.inhibited = false) ∧ (a.inhReq = true) ∧ (a.st ≠ 0) :=
  ⟨{ st := 1, inhReq := true }, by decide, by decide, by decide⟩

theorem witness_AlarmRows_1_6 : ∃ (a : AlarmSt), (a.inhibited = true) ∧ (a.inhReq = false) ∧ (a.st ≠ 0) :=
  ⟨{ st := 2, inhibited := true }, by decide, by decide, by decide⟩

theorem witness_AlarmRows_2 : ∃ (n : Nat) (j : Fin 4096) (i : Inst) (it : Item) (k : Nat) (c : AlarmCfg) (s : State), (s.isRunning n (↑j) 0
    40 = some (i, it)) ∧ (almIds (s.kin i (↑j) it n false) = [k]) ∧ ((almCfgOf (s.instImg i)).alarms[k]? = some c) ∧ (s.pair.mirrors = [])
    :=
  ⟨10000, 0, run0, { item 0 0x28 [.const 0 1] with p2 := 65536 }, 0, alarm0, (runs { item 0 0x28 [.const 0 1] with p2 := 65536 } almImg),
    by decide, by decide, by decide, by decide⟩

theorem witness_AlarmRows_3 : ∃ (n : Nat) (j : Fin 4096) (i : Inst) (it : Item) (pin : Nat) (low : Bool) (as : List Nat) (s : State),
    (s.isRunning n (↑j) 0 41 = some (i, it)) ∧ (constLost (s.kin i (↑j) it n false) = false) ∧ (pioRecords (constWords (s.kin i (↑j) it n
    false)) = [(pin, low, as)]) ∧ (pin < 16) ∧ (s.pio.length = 16) ∧ (s.authority = true) :=
  ⟨10000, 0, run0, (item 0 0x29 [.const 0 1]), 15, false, [0], (runs (item 0 0x29 [.const 0 1]) pioImg), by decide, by decide, by decide,
    by decide, by decide, by decide⟩

theorem witness_AlarmRows_3b : ∃ (n : Nat) (j : Fin 4096) (i : Inst) (it : Item) (pin : Nat) (low : Bool) (as : List Nat) (s : State),
    (s.isRunning n (↑j) 0 41 = some (i, it)) ∧ (constLost (s.kin i (↑j) it n false) = false) ∧ (pioRecords (constWords (s.kin i (↑j) it n
    false)) = [(pin, low, as)]) ∧ (pin < 16) ∧ (s.pio.length = 16) ∧ (s.authority = true) :=
  ⟨10000, 0, run0, (item 0 0x29 [.const 0 1]), 15, false, [0],
    { runs (item 0 0x29 [.const 0 1]) pioImg with pwr := (inPhase (.shedding 1)).pwr }, by decide, by decide, by decide, by decide,
    by decide, by decide⟩

theorem witness_AlarmRows_4 : ∃ (cls : Fin 4) (n : Nat) (b : AlmBatch) (s : State), (List.find? (fun b => decide (b.cls = ↑cls) && decide
    (b.tick = n)) s.alm.batches = some b) ∧ (s.almDone n ↑cls = true) :=
  ⟨3, 10000, ⟨3, 10000, [], []⟩, { ticking with img := some almImg, alm := { batches := [⟨3, 10000, [], []⟩] } }, by decide, by decide⟩

theorem witness_AlarmRows_4b : ∃ (cls : Fin 4) (n : Nat) (b : AlmBatch) (s : State), (List.find? (fun b => decide (b.cls = ↑cls) && decide
    (b.tick = n)) s.alm.batches = some b) ∧ (s.almDone n ↑cls = true) :=
  ⟨0, 10000, ⟨0, 10000, [], []⟩, { ticking with img := some almImg, alm := { batches := [⟨0, 10000, [], []⟩] } }, by decide, by decide⟩

theorem witness_AlarmRows_5 : ∃ (d : Fin 8) (n : Nat) (c : AlmDest) (s : State), ((almCfgOf s.img).dests[↑d]? = some c) ∧ (c.hbS ≠ 0) ∧
    (s.ticking = true) ∧ (n % s.rate = 0) ∧ (n / s.rate % c.hbS = 0) ∧ (s.tickInst n ≤ s.clv.now) ∧ (smGet 0 s.alm.hb ↑d ≤ n / s.rate) :=
  ⟨0, 10000, ⟨0, ownAddr, 5, none, 0, false, 0, 1, some 9⟩, { ticking with img := some almImg }, by decide, by decide, by decide, by decide,
    by decide, by decide, by decide⟩

theorem witness_AlarmRows_6 : ∃ (k : Fin 16) (c : GooseCfg) (d : Nat) (s : State), ((almCfgOf s.img).goose[↑k]? = some c) ∧ ((s.gooseSt
    ↑k).due = some d) ∧ (d ≤ s.up) ∧ (s.authority = true) :=
  ⟨0, ⟨0, 0, 0, 0, [], [], [], [(0, false, false)], 1, 2, 1000⟩, 7,
    { ticking with img := some almImg, up := 7, alm := { goose := [(0, { st := 1, sq := 2 ^ 32 - 1, due := some 7, ival := 600 })] } },
    by decide, by decide, by decide, by decide⟩

theorem witness_AlarmRows_7 : ∃ (s : State), (s.paired = false) :=
  ⟨{ ticking with img := some almImg, alm := { alarms := [(1, { st := 1 })] } }, by decide⟩

theorem witness_AlarmRows_8 : ∃ (s : State), (s.paired = false) :=
  ⟨{ ticking with img := some almImg, alm := { alarms := [(1, { st := 1 })] } }, by decide⟩

theorem witness_AlarmRows_9 : ∃ (s : State), (s.paired = false) :=
  ⟨{ ticking with img := some almImg }, by decide⟩

theorem witness_AlarmRows_10 : ∃ (s : State), (s.paired = true) ∧ (s.authority = true) :=
  ⟨{ ticking.wr fPAIR_STS_ROLE 4 with img := some pairImg }, by decide, by decide⟩

theorem witness_AlarmRows_11 : ∃ (s : State), (s.paired = true) ∧ (s.authority = true) :=
  ⟨{ ticking.wr fPAIR_STS_ROLE 4 with img := some pairImg }, by decide, by decide⟩

theorem witness_AlarmRows_12 : ∃ (s : State), (s.paired = true) ∧ (s.authority = false) :=
  ⟨{ ticking with img := some pairImg }, by decide, by decide⟩

theorem witness_AccountRows_1_1 : ∃ (k : Nat) (sl : AccSlot) (s : State), (s.acc.write = some (k, sl)) ∧ (k < 8) ∧ (sl.kind < 8) :=
  ⟨7, (accSlot 1), accState, by decide, by decide, by decide⟩

theorem witness_AccountRows_1_1b : ∃ (k : Nat) (sl : AccSlot) (s : State), (s.acc.write = some (k, sl)) ∧ (k < 8) ∧ (sl.kind < 8) :=
  ⟨7, (accSlot 1), { accState with img := some { accImg with pair := some { keyId := 5 } } }, by decide, by decide, by decide⟩

theorem witness_AccountRows_1_2 : ∃ (k : Nat) (sl : AccSlot) (s : State), (s.acc.write = some (k, sl)) ∧ (k < 8) ∧ (sl.kind < 8) :=
  ⟨7, (accSlot 1), accState, by decide, by decide, by decide⟩

theorem witness_AccountRows_3 : ∃ (c : Fin 512) (s : State), (↑c < s.acc.cuts.length) :=
  ⟨0, accState, by decide⟩

theorem witness_AccountRows_3b : ∃ (c : Fin 512) (s : State), (↑c < s.acc.cuts.length) :=
  ⟨0, { accState with mram := { accState.mram with acc := { slots := (List.replicate 8 none).set 7 (some (accSlot 1)) } } }, by decide⟩

theorem witness_AccountRows_4 : ∃ (k : Fin 8) (c : PulseCfg) (s : State), ((accCfgOf s.img).pulses[↑k]? = some c) ∧ (↑k <
    s.acc.pulses.length) ∧ (s.authority = true) ∧ (s.rd (fACC_PLS_CFG_OWNED ↑k) = 1) ∧ ((s.pulseSt ↑k).due > 0) ∧ ((s.pulseSt ↑k).pulseEnd =
    none) ∧ (s.clv.now ≥ (s.pulseSt ↑k).gapEnd) :=
  ⟨0, ⟨0, 0, 1000, 5, false⟩, (withPulse { due := 1 } |>.wr (fACC_PLS_CFG_OWNED 0) 1), by decide, by decide, by decide, by decide,
    by decide, by decide, by decide⟩

theorem witness_AccountRows_4b : ∃ (k : Fin 8) (c : PulseCfg) (s : State), ((accCfgOf s.img).pulses[↑k]? = some c) ∧ (↑k <
    s.acc.pulses.length) ∧ (s.authority = true) ∧ (s.rd (fACC_PLS_CFG_OWNED ↑k) = 1) ∧ ((s.pulseSt ↑k).due > 0) ∧ ((s.pulseSt ↑k).pulseEnd =
    none) ∧ (s.clv.now ≥ (s.pulseSt ↑k).gapEnd) :=
  ⟨0, ⟨0, 0, 1000, 5, false⟩, (withPulse { due := 2, rises := [77], gapEnd := 1000000000000 } |>.wr (fACC_PLS_CFG_OWNED 0) 1), by decide,
    by decide, by decide, by decide, by decide, by decide, by decide⟩

theorem witness_AccountRows_5 : ∃ (k : Fin 8) (c : PulseCfg) (e : Nat) (s : State), ((accCfgOf s.img).pulses[↑k]? = some c) ∧ (↑k <
    s.acc.pulses.length) ∧ ((s.pulseSt ↑k).pulseEnd = some e) ∧ (s.clv.now ≥ e) :=
  ⟨0, ⟨0, 0, 1000, 5, false⟩, 1000000000000, (withPulse { due := 1, pulseEnd := some 1000000000000 }), by decide, by decide, by decide,
    by decide⟩

theorem witness_CommandRows_1 : ∃ (c : CmdFrame) (im : Image) (o : OutStream) (st : Nat) (s : State), (s.img = some im) ∧ (List.find? (fun y
    => decide (y.1.idcode = c.idcode) && decide (y.1.format ≠ 2)) im.outs.zipIdx = some (o, st)) ∧ (c.chkOk = true) ∧ (o.cmdSrc = [] ∨ c.src
    ∈ o.cmdSrc) ∧ (c.pairWide = true → s.authority = true) :=
  ⟨(cmdFrame true none), (outImg 0), (outStream 0), 0, (outState 0), by decide, by decide, by decide, by decide, by decide⟩

theorem witness_CommandRows_1b : ∃ (c : CmdFrame) (im : Image) (o : OutStream) (st : Nat) (s : State), (s.img = some im) ∧ (List.find? (fun
    y => decide (y.1.idcode = c.idcode) && decide (y.1.format ≠ 2)) im.outs.zipIdx = some (o, st)) ∧ (c.chkOk = true) ∧ (o.cmdSrc = [] ∨
    c.src ∈ o.cmdSrc) ∧ (c.pairWide = true → s.authority = true) :=
  ⟨(cmdFrame true none true), (outImg 1), (outStream 1), 0, (outState 1), by decide, by decide, by decide, by decide, by decide⟩

theorem witness_CommandRows_1c : ∃ (c : CmdFrame) (im : Image) (o : OutStream) (st : Nat) (s : State), (s.img = some im) ∧ (List.find? (fun
    y => decide (y.1.idcode = c.idcode) && decide (y.1.format ≠ 2)) im.outs.zipIdx = some (o, st)) ∧ (c.chkOk = true) ∧ (o.cmdSrc = [] ∨
    c.src ∈ o.cmdSrc) ∧ (c.pairWide = true → s.authority = true) :=
  ⟨(cmdFrame true none true), { outImg 1 with pair := some ⟨5⟩ }, (outStream 1), 0,
    { (outState 1).wr fPAIR_STS_ROLE 4 with img := some { outImg 1 with pair := some ⟨5⟩ } }, by decide, by decide, by decide, by decide,
    by decide⟩

theorem witness_CommandRows_2 : ∃ (c : CmdFrame) (im : Image) (o : OutStream) (st : Nat) (s : State) (u : UdpAddr) (seq : Nat), (s.img =
    some im) ∧ (List.find? (fun y => decide (y.1.idcode = c.idcode) && decide (y.1.format ≠ 2)) im.outs.zipIdx = some (o, st)) ∧ (c.chkOk =
    true) ∧ (o.cmdSrc = [] ∨ c.src ∈ o.cmdSrc) ∧ (c.pairWide = true → s.authority = true) ∧ (c.tcp = none) ∧ (∀ d ∈ o.dests, d.addr ≠ c.src)
    ∧ (seq = s.prpSeq s.curTick 0 4) ∧ (u =
    { srcMac := s.streamMac st, dstMac := c.srcMac, tag := none, dscp := 34, src := s.pairAddr c.port c.src, dst := c.src, sport := o.cmdPort, dport := c.sport })
    :=
  ⟨(cmdFrame true none), (outImg 0), (outStream 0), 0, (outState 0),
    ⟨(outState 0).streamMac 0, 9, none, 34, (outState 0).pairAddr 0 ownAddr, ownAddr, 0, 4712⟩,
    ((outState 0).prpSeq (outState 0).curTick 0 4), by decide, by decide, by decide, by decide, by decide, by decide, by decide, by decide,
    by decide⟩

theorem witness_CommandRows_3 : ∃ (c : CmdFrame) (tcp : Nat) (im : Image) (o : OutStream) (st : Nat) (s : State), (s.img = some im) ∧
    (List.find? (fun y => decide (y.1.idcode = c.idcode) && decide (y.1.format ≠ 2)) im.outs.zipIdx = some (o, st)) ∧ (c.chkOk = true) ∧
    (o.cmdSrc = [] ∨ c.src ∈ o.cmdSrc) ∧ (c.pairWide = true → s.authority = true) ∧ (c.tcp = some tcp) :=
  ⟨(cmdFrame true (some 0)), 0, (outImg 0), (outStream 0), 0, (outState 0), by decide, by decide, by decide, by decide, by decide,
    by decide⟩

theorem witness_CommandRows_3b : ∃ (c : CmdFrame) (tcp : Nat) (im : Image) (o : OutStream) (st : Nat) (s : State), (s.img = some im) ∧
    (List.find? (fun y => decide (y.1.idcode = c.idcode) && decide (y.1.format ≠ 2)) im.outs.zipIdx = some (o, st)) ∧ (c.chkOk = true) ∧
    (o.cmdSrc = [] ∨ c.src ∈ o.cmdSrc) ∧ (c.pairWide = true → s.authority = true) ∧ (c.tcp = some tcp) :=
  ⟨(cmdFrame true (some 15)), 15, (outImg 0), (outStream 0), 0, (outState 0), by decide, by decide, by decide, by decide, by decide,
    by decide⟩

theorem witness_CommandRows_4 : ∃ (c : CmdFrame) (tcp : Nat) (im : Image) (o : OutStream) (st : Nat) (s : State), (s.img = some im) ∧ (∀ y ∈
    im.outs, y.idcode = c.idcode → y.format ≠ 1) ∧ (List.find? (fun y => decide (y.1.idcode = c.idcode) && decide (y.1.format ≠ 2))
    im.outs.zipIdx = some (o, st)) ∧ (c.chkOk = true) ∧ (o.cmdSrc = [] ∨ c.src ∈ o.cmdSrc) ∧ (c.pairWide = true → s.authority = true) ∧
    (c.tcp = some tcp) :=
  ⟨(cmdFrame true (some 15)), 15, (outImg 0), (outStream 0), 0, (outState 0), by decide, by decide, by decide, by decide, by decide,
    by decide, by decide⟩

theorem witness_CommandRows_5 : ∃ (s : State), (s.img = none) :=
  ⟨running, by decide⟩

theorem witness_CommandRows_6_1 : ∃ (c : CmdFrame) (im : Image) (o : OutStream) (st : Nat) (s : State), (s.img = some im) ∧ (List.find? (fun
    y => decide (y.1.idcode = c.idcode) && decide (y.1.format ≠ 2)) im.outs.zipIdx = some (o, st)) ∧ (c.chkOk = false) :=
  ⟨(cmdFrame false none), (outImg 0), (outStream 0), 0, (outState 0), by decide, by decide, by decide⟩

theorem witness_CommandRows_6_2 : ∃ (c : CmdFrame) (im : Image) (o : OutStream) (st : Nat) (s : State), (s.img = some im) ∧ (List.find? (fun
    y => decide (y.1.idcode = c.idcode) && decide (y.1.format ≠ 2)) im.outs.zipIdx = some (o, st)) ∧ (c.chkOk = true) ∧ (o.cmdSrc = []) ∧
    (c.pairWide = true) ∧ (s.authority = false) :=
  ⟨(cmdFrame true none true), { outImg 0 with pair := some ⟨5⟩ }, (outStream 0), 0,
    { ticking with img := some { outImg 0 with pair := some ⟨5⟩ } }, by decide, by decide, by decide, by decide, by decide, by decide⟩

theorem witness_RingRows_1_1 : ∃ (w : BpWait) (s : State), (List.find? (fun w => !s.egrFull w.port w.queue || decide (w.since + s.rd
    fEGR_BP_CFG_BP_US * 1000 ≤ s.up)) s.egr.waits = some w) ∧ (w.rest = []) ∧ (s.egrFull w.port w.queue = true) :=
  ⟨(bpWait 3), { ticking with img := some { image0 with qdepth := 0 }, up := 1000000000, egr := { waits := [bpWait 3] } }, by decide,
    by decide, by decide⟩

theorem witness_RingRows_1_2 : ∃ (w : BpWait) (s : State), (List.find? (fun w => !s.egrFull w.port w.queue || decide (w.since + s.rd
    fEGR_BP_CFG_BP_US * 1000 ≤ s.up)) s.egr.waits = some w) ∧ (w.rest = []) ∧ (s.egrFull w.port w.queue = false) ∧ (w.queue ≠ qAmend) :=
  ⟨(bpWait 3), { ticking with egr := { waits := [bpWait 3] } }, by decide, by decide, by decide, by decide⟩

theorem witness_RingRows_2_1 : ∃ (k : Fin 64) (b : RawBlock) (s : State), (List.find? (fun b => decide (b.stream = ↑k)) s.egr.blocks = some
    b) ∧ (s.ringRun ↑k = false) :=
  ⟨63, (rawBlock 5), { outState 2 with egr := { blocks := [rawBlock 5] } }, by decide, by decide⟩

theorem witness_RingRows_2_2 : ∃ (k : Fin 64) (b : RawBlock) (addrs : List Nat) (s : State), (List.find? (fun b => decide (b.stream = ↑k))
    s.egr.blocks = some b) ∧ (s.ringRun ↑k = true) ∧ (bufCount b.bytes ≤ ringFree (↑k) s) ∧ (addrs.length = bufCount b.bytes) :=
  ⟨63, (rawBlock 5), [4096], (withRing 63 { outState 2 with egr := { blocks := [rawBlock 5] } }), by decide, by decide, by decide,
    by decide⟩

theorem witness_RingRows_2_3 : ∃ (k : Fin 64) (b : RawBlock) (addrs : List Nat) (s : State), (List.find? (fun b => decide (b.stream = ↑k))
    s.egr.blocks = some b) ∧ (s.ringRun ↑k = true) ∧ (bufCount b.bytes > ringFree (↑k) s) ∧ (addrs.length = ringFree (↑k) s) :=
  ⟨63, (rawBlock 5), [], (withRing 63 { outState 2 with egr := { blocks := [rawBlock 5] } } |>.wr (fEGR_RING_PROD_PROD 63) 16), by decide,
    by decide, by decide, by decide⟩

theorem witness_RingRows_3 : ∃ (n : Fin 64) (prod : Nat) (d : Bytes × Bytes) (s : State), (s.ringRun (128 + ↑n) = true) ∧ (smGet []
    s.egr.hostPart (128 + ↑n) = []) ∧ ((leAt d.1 10 2).testBit 2 = true) ∧ ((ringProd (128 + ↑n) (s.wr (fEGR_RING_PROD_PROD (128 + ↑n))
    prod) + 2 * ringSize (128 + ↑n) s - smGet 0 s.egr.hostRead (128 + ↑n)) % (2 * ringSize (128 + ↑n) s) = 1) ∧ (s.egrFull (↑n) qHost =
    false) :=
  ⟨63, 1, (le 8 0 ++ le 2 1 ++ le 2 4 ++ le 4 0, [1#8]), (withRing 191 ticking), by decide, by decide, by decide, by decide, by decide⟩

theorem witness_RingRows_5 : ∃ (r : Fin 192) (s : State), (s.ringRun ↑r = true) :=
  ⟨191, (withRing 191 ticking), by decide⟩

theorem witness_RingRows_6_1 : ∃ (n : Fin 64) (bytes : Bytes) (ns32 : Nat) (tr : Bool) (lan : Nat) (rest : List (Bytes × Nat × Bool × Nat))
    (s : State), ((s.port ↑n).host = (bytes, ns32, tr, lan) :: rest) ∧ (s.ports.length = 64) ∧ (s.ringRun (64 + ↑n) = false) :=
  ⟨63, [1#8], 5, false, 0, [], { ticking with ports := ticking.ports.set 63 { host := [([1#8], 5, false, 0)] } }, by decide, by decide,
    by decide⟩

theorem witness_RingRows_6_2 : ∃ (n : Fin 64) (bytes : Bytes) (ns32 : Nat) (tr : Bool) (lan : Nat) (rest : List (Bytes × Nat × Bool × Nat))
    (addrs : List Nat) (s : State), ((s.port ↑n).host = (bytes, ns32, tr, lan) :: rest) ∧ (s.ports.length = 64) ∧ (s.ringRun (64 + ↑n) =
    true) ∧ (bufCount bytes ≤ ringFree (64 + ↑n) s) ∧ (addrs.length = bufCount bytes) :=
  ⟨63, [1#8], 5, false, 0, [], [4096], (withRing 127 { ticking with ports := ticking.ports.set 63 { host := [([1#8], 5, false, 0)] } }),
    by decide, by decide, by decide, by decide, by decide⟩

theorem witness_RingRows_6_3 : ∃ (n : Fin 64) (bytes : Bytes) (ns32 : Nat) (tr : Bool) (lan : Nat) (rest : List (Bytes × Nat × Bool × Nat))
    (addrs : List Nat) (s : State), ((s.port ↑n).host = (bytes, ns32, tr, lan) :: rest) ∧ (s.ports.length = 64) ∧ (s.ringRun (64 + ↑n) =
    true) ∧ (bufCount bytes > ringFree (64 + ↑n) s) ∧ (addrs.length = ringFree (64 + ↑n) s) :=
  ⟨63, [1#8], 5, false, 0, [], [],
    (withRing 127 { ticking with ports := ticking.ports.set 63 { host := [([1#8], 5, false, 0)] } } |>.wr (fEGR_RING_PROD_PROD 127) 16),
    by decide, by decide, by decide, by decide, by decide⟩

theorem witness_SnareRows_1 : ∃ (k : Fin 4) (c : SnrDefCfg) (s : State), (s.snrCfg? ↑k = some c) ∧ (s.rd (fSNR_DEF_STS_STATE ↑k) = snrIdle)
    ∧ (s.snr.defs.length = 4) :=
  ⟨0, snareDef, (snareState snrIdle), by decide, by decide, by decide⟩

theorem witness_SnareRows_1b : ∃ (k : Fin 4) (c : SnrDefCfg) (s : State), (s.snrCfg? ↑k = some c) ∧ (s.rd (fSNR_DEF_STS_STATE ↑k) = snrIdle)
    ∧ (s.snr.defs.length = 4) :=
  ⟨0, snareDef, ((snareState snrIdle).wr (fSNR_DEF_CFG_AUTO_EN 0) 1), by decide, by decide, by decide⟩

theorem witness_SnareRows_2 : ∃ (k : Fin 4) (c : SnrDefCfg) (s : State), (s.snrCfg? ↑k = some c) ∧ (s.rd (fSNR_DEF_STS_STATE ↑k) ≠ snrIdle)
    :=
  ⟨0, snareDef, (snareState snrComplete), by decide, by decide⟩

theorem witness_SnareRows_3_1 : ∃ (k : Fin 4) (c : SnrDefCfg) (s : State), (s.snrCfg? ↑k = some c) ∧ (s.snr.defs.length = 4) ∧ (s.rd
    (fSNR_DEF_STS_STATE ↑k) = snrArmed) :=
  ⟨0, snareDef, (snareState snrArmed), by decide, by decide, by decide⟩

theorem witness_SnareRows_3_2 : ∃ (k : Fin 4) (c : SnrDefCfg) (s : State), (s.snrCfg? ↑k = some c) ∧ (s.snr.defs.length = 4) ∧ (s.rd
    (fSNR_DEF_STS_STATE ↑k) = snrTriggered) :=
  ⟨0, snareDef, (withSnr { rows := [snrRow0], t0 := 10000, last := 10002, cfg := some snareDef } (snareState snrTriggered)), by decide,
    by decide, by decide⟩

theorem witness_SnareRows_4_1 : ∃ (k : Fin 4) (c : SnrDefCfg) (s : State), (s.snrCfg? ↑k = some c) ∧ (s.snr.defs.length = 4) ∧ (s.rd
    (fSNR_DEF_STS_STATE ↑k) = snrComplete) ∧ (s.on (fSNR_DEF_STS_EXPORTING ↑k) = false) :=
  ⟨0, snareDef, (snareState snrComplete), by decide, by decide, by decide, by decide⟩

theorem witness_SnareRows_4_2 : ∃ (k : Fin 4) (c : SnrDefCfg) (s : State), (s.snrCfg? ↑k = some c) ∧ (s.snr.defs.length = 4) ∧ (s.rd
    (fSNR_DEF_STS_STATE ↑k) = snrComplete) ∧ (s.on (fSNR_DEF_STS_EXPORTING ↑k) = true) :=
  ⟨0, snareDef, ((snareState snrComplete).wr (fSNR_DEF_STS_EXPORTING 0) 1), by decide, by decide, by decide, by decide⟩

theorem witness_SnareRows_5_1 : ∃ (k : Fin 4) (c : SnrDefCfg) (s : State), (s.snrCfg? ↑k = some c) ∧ (SnrTerm.host ∈ c.terms) ∧
    (s.snr.defs.length = 4) ∧ (s.rd (fSNR_DEF_STS_STATE ↑k) = snrArmed) :=
  ⟨0, snareDef, (withSnr { rows := [snrRow0], armTick := 10000 } (snareState snrArmed)), by decide, by decide, by decide, by decide⟩

theorem witness_SnareRows_5_2 : ∃ (k : Fin 4) (c : SnrDefCfg) (s : State), (s.snrCfg? ↑k = some c) ∧ (SnrTerm.host ∈ c.terms) ∧
    (s.snr.defs.length = 4) ∧ (s.rd (fSNR_DEF_STS_STATE ↑k) = snrIdle ∨ s.rd (fSNR_DEF_STS_STATE ↑k) = snrComplete) :=
  ⟨0, snareDef, (snareState snrIdle), by decide, by decide, by decide, by decide⟩

theorem witness_SnareRows_6 : ∃ (pin : Fin 16) (raw : Nat) (hold : Nat) (rise : Bool) (k : Fin 4) (c : SnrDefCfg) (e : Nat) (stamp : Nat) (s
    : State), (s.on (fSNR_PIO_CFG_OWNED ↑pin) = true) ∧ (s.snr.levels.getD (↑pin) none ≠ some rise) ∧ (passesFilter (s.rd
    (fSNR_PIO_CFG_GLITCH ↑pin)) hold = true) ∧ (stamp = atContact (s.rd (fSNR_PIO_CFG_GLITCH ↑pin)) raw) ∧ (s.snrCfg? ↑k = some c) ∧
    (SnrTerm.pio (↑pin) e ∈ c.terms) ∧ (edgeSelected e rise = true) ∧ (s.rd (fSNR_DEF_STS_STATE ↑k) = snrArmed) ∧ (s.snr.defs.length = 4) :=
  ⟨15, 1000000000050, 15, true, 0, snareDef, 3, (atContact 3 1000000000050),
    ((withSnr { armTick := 10000 } (snareState snrArmed)).wr (fSNR_PIO_CFG_OWNED 15) 1 |>.wr (fSNR_PIO_CFG_GLITCH 15) 3), by decide,
    by decide, by decide, by decide, by decide, by decide, by decide, by decide, by decide⟩

theorem witness_SnareRows_7 : ∃ (pin : Fin 16) (hold : Nat) (rise : Bool) (s : State), (s.on (fSNR_PIO_CFG_OWNED ↑pin) = true) ∧
    (s.snr.levels.getD (↑pin) none ≠ some rise) ∧ (passesFilter (s.rd (fSNR_PIO_CFG_GLITCH ↑pin)) hold = false) :=
  ⟨15, 14, true, ((withSnr { armTick := 10000 } (snareState snrArmed)).wr (fSNR_PIO_CFG_OWNED 15) 1 |>.wr (fSNR_PIO_CFG_GLITCH 15) 3),
    by decide, by decide, by decide⟩

theorem witness_SnareRows_8 : ∃ (k : Fin 4) (c : SnrDefCfg) (d : Nat) (s : State), (s.snrCfg? ↑k = some c) ∧ ((s.snrDef ↑k).autoDue = some
    d) ∧ (d ≤ s.up) ∧ (s.rd (fSNR_DEF_STS_STATE ↑k) = snrArmed) ∧ (s.snr.defs.length = 4) :=
  ⟨0, snareDef, 0, (withSnr { armTick := 10000, autoDue := some 0 } (snareState snrArmed)), by decide, by decide, by decide, by decide,
    by decide⟩

theorem witness_SnareRows_9_1 : ∃ (k : Fin 4) (r : SnrRow) (q : List (Nat × SnrRow)) (c : SnrDefCfg) (s : State), (s.snr.queue = (↑k, r) ::
    q) ∧ (s.snrCfg? ↑k = some c) ∧ (s.snr.defs.length = 4) ∧ (s.rd (fSNR_DEF_STS_STATE ↑k) = snrArmed) :=
  ⟨0, snrRow0, [], snareDef,
    { withSnr { rows := [{ snrRow0 with tick := 9998 }, { snrRow0 with tick := 9999 }] } (snareState snrArmed) with snr := { (withSnr { rows := [{ snrRow0 with tick := 9998 }, { snrRow0 with tick := 9999 }] } (snareState snrArmed)).snr with queue := [(0, snrRow0)] } },
    by decide, by decide, by decide, by decide⟩

theorem witness_SnareRows_9_2 : ∃ (k : Fin 4) (r : SnrRow) (q : List (Nat × SnrRow)) (c : SnrDefCfg) (s : State), (s.snr.queue = (↑k, r) ::
    q) ∧ (s.snrCfg? ↑k = some c) ∧ (s.snr.defs.length = 4) ∧ (s.rd (fSNR_DEF_STS_STATE ↑k) = snrTriggered) :=
  ⟨0, snrRow0, [], snareDef, { snareState snrTriggered with snr := { queue := [(0, snrRow0)] } }, by decide, by decide, by decide,
    by decide⟩

set_option maxRecDepth 20000 in
theorem witness_SnareRows_10_1 : ∃ (k : Fin 4) (c : SnrDefCfg) (s : State), ((s.snrDef ↑k).cfg = some c) ∧ (s.snrCfg? ↑k = some c) ∧ (s.rd
    (fSNR_DEF_STS_STATE ↑k) = snrComplete) ∧ (s.rd (fSNR_DEF_CFG_REARM ↑k) = 1) ∧ (s.on (fSNR_DEF_STS_EXPORTING ↑k) = false) ∧ (∀ r ∈
    s.mbx.run, r.claims.testBit 8 = false) ∧ (s.snrPending ↑k = false) ∧ (s.snr.defs.length = 4) ∧ (List.length (s.snrFileBytes (↑k) c) ≤
    s.snrFree) :=
  ⟨0, snareDef,
    ((withSnr { rows := [snrRow0], t0 := 10000, last := 10002, cfg := some snareDef } (snareState snrComplete)).wr (fSNR_DEF_CFG_REARM 0) 1),
    by decide, by decide, by decide, by decide, by decide, by decide, by decide, by decide, by decide⟩

set_option maxRecDepth 20000 in
theorem witness_SnareRows_10_2 : ∃ (k : Fin 4) (c : SnrDefCfg) (s : State), ((s.snrDef ↑k).cfg = some c) ∧ (s.snrCfg? ↑k = some c) ∧ (s.rd
    (fSNR_DEF_STS_STATE ↑k) = snrComplete) ∧ (s.rd (fSNR_DEF_CFG_REARM ↑k) = 1) ∧ (s.on (fSNR_DEF_STS_EXPORTING ↑k) = false) ∧ (∀ r ∈
    s.mbx.run, r.claims.testBit 8 = false) ∧ (s.snrPending ↑k = false) ∧ (s.snr.defs.length = 4) ∧ (List.length (s.snrFileBytes (↑k) c) >
    s.snrFree) :=
  ⟨0, snareDef,
    ((withSnr { rows := [snrRow0], t0 := 10000, last := 10002, cfg := some snareDef } { snareState snrComplete with img := some { snareImg with snareNandMib := 0 } }).wr (fSNR_DEF_CFG_REARM 0) 1),
    by decide, by decide, by decide, by decide, by decide, by decide, by decide, by decide, by decide⟩

theorem witness_PostRows_1_1 : ∃ (code : Fin 256) (payload : Bytes) (s : State), (↑code ≠ 0) ∧ (s.chs.queue.length < if chsFixed ↑code =
    true then 64 else 60) ∧ (coalesces (↑code) (recPayload payload) s = false) ∧ (chsFixed ↑code = true ∨ s.rlPeriod ↑code = 0) :=
  ⟨0x01, [1#8], ticking, by decide, by decide, by decide, by decide⟩

theorem witness_PostRows_1_1b : ∃ (code : Fin 256) (payload : Bytes) (s : State), (↑code ≠ 0) ∧ (s.chs.queue.length < if chsFixed ↑code =
    true then 64 else 60) ∧ (coalesces (↑code) (recPayload payload) s = false) ∧ (chsFixed ↑code = true ∨ s.rlPeriod ↑code = 0) :=
  ⟨0xFF, [], { ticking with mram := { chs := { rlPeriod := [(0xFF, 0)] } } }, by decide, by decide, by decide, by decide⟩

theorem witness_PostRows_1_2 : ∃ (code : Fin 256) (payload : Bytes) (s : State), (↑code ≠ 0) ∧ (s.chs.queue.length < if chsFixed ↑code =
    true then 64 else 60) ∧ (coalesces (↑code) (recPayload payload) s = false) ∧ (chsFixed ↑code = false) ∧ (s.rlPeriod ↑code ≠ 0) ∧
    (((refillBucket (↑code) s).bucket ↑code).tokens = 0) :=
  ⟨0xFF, [], { ticking with chs := { queue := List.replicate 59 (post0 1), buckets := [(0xFF, ⟨0, some 9⟩)] } }, by decide, by decide,
    by decide, by decide, by decide, by decide⟩

theorem witness_PostRows_1_3 : ∃ (code : Fin 256) (payload : Bytes) (s : State) (n : Nat), (↑code ≠ 0) ∧ (s.chs.queue.length < if chsFixed
    ↑code = true then 64 else 60) ∧ (coalesces (↑code) (recPayload payload) s = false) ∧ (chsFixed ↑code = false) ∧ (s.rlPeriod ↑code ≠ 0) ∧
    (((refillBucket (↑code) s).bucket ↑code).tokens = n + 1) :=
  ⟨0xFF, [], { ticking with chs := { buckets := [(0xFF, ⟨0, some 0⟩)] } }, 0, by decide, by decide, by decide, by decide, by decide,
    by decide⟩

theorem witness_PostRows_1_3b : ∃ (code : Fin 256) (payload : Bytes) (s : State) (n : Nat), (↑code ≠ 0) ∧ (s.chs.queue.length < if chsFixed
    ↑code = true then 64 else 60) ∧ (coalesces (↑code) (recPayload payload) s = false) ∧ (chsFixed ↑code = false) ∧ (s.rlPeriod ↑code ≠ 0) ∧
    (((refillBucket (↑code) s).bucket ↑code).tokens = n + 1) :=
  ⟨0xFF, [], ticking, 15, by decide, by decide, by decide, by decide, by decide, by decide⟩

theorem witness_PostRows_2 : ∃ (code : Fin 256) (payload : Bytes) (s : State), (↑code ≠ 0) ∧ (s.chs.queue.length < if chsFixed ↑code = true
    then 64 else 60) ∧ (coalesces (↑code) (recPayload payload) s = true) :=
  ⟨0x20, [], { ticking.wr fCHS_CFG_COAL_MS 1 with chs := { queue := [{ post0 0x20 with time := 1000000000000 }] } }, by decide, by decide,
    by decide⟩

theorem witness_PostRows_3 : ∃ (code : Fin 256) (s : State), (↑code ≠ 0) ∧ (s.chs.queue.length ≥ if chsFixed ↑code = true then 64 else 60)
    :=
  ⟨0x20, { ticking with chs := { queue := List.replicate 60 (post0 1) } }, by decide, by decide⟩

theorem witness_PostRows_3b : ∃ (code : Fin 256) (s : State), (↑code ≠ 0) ∧ (s.chs.queue.length ≥ if chsFixed ↑code = true then 64 else 60)
    :=
  ⟨0x0A, { ticking with chs := { queue := List.replicate 64 (post0 1) } }, by decide, by decide⟩

theorem witness_ChestRows_1 : ∃ (p : Post) (q : List Post) (s : State), (s.stewAlive = true) ∧ (s.chs.queue = p :: q) :=
  ⟨(post0 0x0E), [], { ticking with chs := { queue := [post0 0x0E] } }, by decide, by decide⟩

theorem witness_ChestRows_2 : ∃ (code : Fin 256) (d : Nat) (s : State), ((s.bucket ↑code).due = some d) ∧ (d ≤ s.up) :=
  ⟨255, 7, { ticking with up := 7, chs := { buckets := [(255, ⟨15, some 7⟩)] } }, by decide, by decide⟩

set_option maxRecDepth 20000 in
theorem witness_ChestRows_3_1 : ∃ (pg : List ChestRec) (rest : List ChestRec) (s : State), (pageFill 4064 s.mram.chs.staged.dropLast = (pg,
    rest)) ∧ (pg ≠ []) ∧ (rest ≠ []) ∧ (s.chs.nandOk = true) :=
  ⟨((List.range 15).map pageRec), ((List.range 3).map fun k => pageRec (15 + k)), fullPage, by decide, by decide, by decide, by decide⟩

set_option maxRecDepth 20000 in
theorem witness_ChestRows_3_2 : ∃ (pg : List ChestRec) (rest : List ChestRec) (s : State), (pageFill 4064 s.mram.chs.staged.dropLast = (pg,
    rest)) ∧ (pg ≠ []) ∧ (rest ≠ []) ∧ (s.chs.nandOk = true) :=
  ⟨((List.range 15).map pageRec), ((List.range 3).map fun k => pageRec (15 + k)), fullPage, by decide, by decide, by decide, by decide⟩

set_option maxRecDepth 20000 in
theorem witness_ChestRows_4 : ∃ (s : State), (s.chs.nandOk = true) ∧ (∀ r ∈ s.mram.chs.staged, recLen r ≤ 4064) ∧ (s.up ≥ s.chs.flushAt +
    s.rd fCHS_CFG_FLUSH_S * 1000000000) :=
  ⟨{ fullPage with up := 3600000000000 }, by decide, by decide, by decide⟩

theorem witness_ChestRows_6 : ∃ (seq : Nat) (s : State), (s.chs.fetch = some seq) :=
  ⟨18, { fullPage with chs := { nandOk := true, fetch := some 18 } }, by decide⟩

theorem witness_ChestRows_6b : ∃ (seq : Nat) (s : State), (s.chs.fetch = some seq) :=
  ⟨19, { fullPage with chs := { nandOk := true, fetch := some 19 } }, by decide⟩

set_option maxRecDepth 20000 in
theorem witness_ChestFaultRows_2 : ∃ (r : ChestRec) (s : State), (r ∈ s.mram.chs.staged) ∧ (s.pwr.phase = PwrPhase.start 0 → ∀ (q rep :
    Nat), s.mram.chs.upd = some (q, rep) → q ≠ r.seq) :=
  ⟨(pageRec 18), fullPage, by decide, by nofun⟩

set_option maxRecDepth 20000 in
theorem witness_ChestFaultRows_3 : ∃ (r : ChestRec) (rep : Nat) (s : State), (r ∈ s.mram.chs.staged) ∧ (s.pwr.phase = PwrPhase.start 0) ∧
    (s.mram.chs.upd = some (r.seq, rep)) :=
  ⟨(pageRec 18), 7,
    { fullPage with pwr := { phase := .start 0 }, mram := { fullPage.mram with chs := { fullPage.mram.chs with upd := some (18, 7) } } },
    by decide, by decide, by decide⟩

set_option maxRecDepth 20000 in
theorem witness_ChestFaultRows_5 : ∃ (seq : Nat) (p : RollPage) (s : State), (List.find? (fun p => !p.bad && p.recs.any fun r => decide
    (r.seq = seq)) s.nand.chs.blocks.flatten = some p) :=
  ⟨7, ⟨[pageRec 7], false⟩, { fullPage with nand := { chs := { blocks := [[⟨[pageRec 7], false⟩]] } } }, by decide⟩

theorem witness_ChestFaultRows_10 : ∃ (s : State), (s.nand.chs.retired ≤ 960) :=
  ⟨{ fullPage with nand := { chs := { retired := 960 } }, mram := { chs := { overflow := some (3, 2), nextSeq := 9 } } }, by decide⟩

theorem witness_TamperRows_1 : ∃ (raw : Nat) (hold : Nat) (stamp : Nat) (s : State), (s.on fBUR_TAMPER_CFG_EN = true) ∧ (s.on
    fBUR_TAMPER_STS_LEVEL = false) ∧ (passesFilter (s.rd fBUR_TAMPER_CFG_GLITCH) hold = true) ∧ (stamp = atContact (s.rd
    fBUR_TAMPER_CFG_GLITCH) raw) :=
  ⟨100, 15, (atContact 3 100),
    { ticking.wr fBUR_TAMPER_CFG_EN 1 |>.wr fBUR_TAMPER_CFG_GLITCH 3 |>.wr fBUR_TAMPER_CFG_ACTION 1 with bur := { ents := [(0, keyOf typRoot keyValid 1), (1, keyOf typWork keyValid 2)] } },
    by decide, by decide, by decide, by decide⟩

theorem witness_TamperRows_1b : ∃ (raw : Nat) (hold : Nat) (stamp : Nat) (s : State), (s.on fBUR_TAMPER_CFG_EN = true) ∧ (s.on
    fBUR_TAMPER_STS_LEVEL = false) ∧ (passesFilter (s.rd fBUR_TAMPER_CFG_GLITCH) hold = true) ∧ (stamp = atContact (s.rd
    fBUR_TAMPER_CFG_GLITCH) raw) :=
  ⟨100, 15, (atContact 3 100),
    { ticking.wr fBUR_TAMPER_CFG_EN 1 |>.wr fBUR_TAMPER_CFG_GLITCH 3 |>.wr fBUR_TAMPER_CFG_ACTION 0 with bur := { ents := [(0, keyOf typRoot keyValid 1), (1, keyOf typWork keyValid 2)] } },
    by decide, by decide, by decide, by decide⟩

theorem witness_TamperRows_2 : ∃ (hold : Nat) (s : State), (s.on fBUR_TAMPER_CFG_EN = true) ∧ (s.on fBUR_TAMPER_STS_LEVEL = true) ∧
    (passesFilter (s.rd fBUR_TAMPER_CFG_GLITCH) hold = true) :=
  ⟨15, (ticking.wr fBUR_TAMPER_CFG_EN 1 |>.wr fBUR_TAMPER_CFG_GLITCH 3 |>.wr fBUR_TAMPER_STS_LEVEL 1), by decide, by decide, by decide⟩

theorem witness_TamperRows_3 : ∃ (hold : Nat) (s : State), (s.on fBUR_TAMPER_CFG_EN = false ∨ passesFilter (s.rd fBUR_TAMPER_CFG_GLITCH)
    hold = false) :=
  ⟨15, (ticking.wr fBUR_TAMPER_CFG_EN 0), by decide⟩

theorem witness_TamperRows_3b : ∃ (hold : Nat) (s : State), (s.on fBUR_TAMPER_CFG_EN = false ∨ passesFilter (s.rd fBUR_TAMPER_CFG_GLITCH)
    hold = false) :=
  ⟨14, (ticking.wr fBUR_TAMPER_CFG_EN 1 |>.wr fBUR_TAMPER_CFG_GLITCH 3), by decide⟩

theorem witness_TamperRows_4 : ∃ (s : State), (s.bur.journalDue = true) ∧ (s.bur.slot ≤ 1) ∧ (s.mram.bur.slots.length = 2) :=
  ⟨{ ticking with bur := { ents := [(1, keyOf typWork keyInvalid 2)], journalDue := true, slot := 1, gen := 6 } }, by decide, by decide,
    by decide⟩

theorem witness_LinkRows_1 : ∃ (nonce : Nat) (k : Nat) (s : State), (s.paired = true) ∧ (∀ (h : Nat × Nat), s.pair.helloIn = some h → h.1 ≠
    nonce) ∧ (s.pairKey? = some k) ∧ (s.pair.authed = false) :=
  ⟨88, 1, { withPair {} (paired roleSeeking) with bur := { ents := [(1, keyOf typWork keyValid 5)] } }, by decide, by decide, by decide,
    by decide⟩

theorem witness_LinkRows_2 : ∃ (nonce : Nat) (s : State), (s.paired = true) ∧ (∀ (h : Nat × Nat), s.pair.helloIn = some h → h.1 ≠ nonce) ∧
    (s.pairKey? = none) :=
  ⟨88, (withPair {} (paired roleSeeking)), by decide, by decide, by decide⟩

theorem witness_LinkRows_3 : ∃ (nonce : Nat) (d : Nat) (s : State), (s.pair.helloIn = some (nonce, d)) :=
  ⟨77, 0, (paired roleSeeking), by decide⟩

theorem witness_LinkRows_4 : ∃ (nonce : Nat) (dg : Nat) (s : State), (s.pair.helloIn = some (nonce, dg)) ∧ (s.pair.authed = false) :=
  ⟨77, 0, (withPair { helloIn := some (77, 0) } (paired roleSeeking)), by decide, by decide⟩

theorem witness_LinkRows_4b : ∃ (nonce : Nat) (dg : Nat) (s : State), (s.pair.helloIn = some (nonce, dg)) ∧ (s.pair.authed = false) :=
  ⟨77, 1, (withPair { helloIn := some (77, 1) } (paired roleSeeking)), by decide, by decide⟩

theorem witness_LinkRows_5 : ∃ (nonce : Nat) (dg : Nat) (mac : Nat) (s : State), (s.pair.helloIn = some (nonce, dg)) ∧ (s.pair.authed =
    false) ∧ (mac ≠ s.authMac nonce) :=
  ⟨77, 0, ((withPair { helloIn := some (77, 0) } (paired roleSeeking)).authMac 77 + 1),
    (withPair { helloIn := some (77, 0) } (paired roleSeeking)), by decide, by decide, Nat.succ_ne_self _⟩

theorem witness_LinkRows_6_1 : ∃ (lane : Fin 2) (s : State), (s.paired = true) ∧ (s.pair.authed = true) ∧ (s.pair.laneDown.getD (↑lane) true
    = false) ∧ (s.up ≥ s.pair.laneAt.getD (↑lane) 0 + s.periods 3) ∧ ((s.pair.laneDown.set (↑lane) true).all id = false) :=
  ⟨0, { (paired roleJoining).wr fPAIR_STS_LANE_A 1 |>.wr fPAIR_STS_LANE_B 1 with up := 300000000 }, by decide, by decide, by decide,
    by decide, by decide⟩

theorem witness_LinkRows_6_2 : ∃ (lane : Fin 2) (s : State), (s.paired = true) ∧ (s.pair.authed = true) ∧ (s.pair.laneDown.getD (↑lane) true
    = false) ∧ (s.up ≥ s.pair.laneAt.getD (↑lane) 0 + s.periods 3) ∧ ((s.pair.laneDown.set (↑lane) true).all id = true) ∧ (s.on
    fPAIR_STS_PARTNER_UP = true) :=
  ⟨1, { withPair { authed := true, laneDown := [true, false] } ((paired roleJoining).wr fPAIR_STS_LANE_B 1) with up := 300000000 },
    by decide, by decide, by decide, by decide, by decide, by decide⟩

theorem witness_LinkRows_7_1 : ∃ (m : PairMsg) (cause : Nat) (inst : Nat) (j : Nat) (e : Nat) (c : Nat) (id : Nat) (b : CopyBlock) (ok :
    Bool) (n : Nat) (f : Fwd) (op : Nat) (v : Nat) (sums : List Nat) (s : State) (i : Instr), (i ∈ [Instr.abdicate m cause inst,
    Instr.handover m j, Instr.prepare m e c, Instr.block m e id b ok, Instr.endReady m e n ok, Instr.commit m e c, Instr.forward m f,
    Instr.mirror m op inst v, Instr.accSum m n sums]) ∧ (s.pair.authed = false) :=
  ⟨(msg), 1, 2, 3, 4, 5, 6, (.prpOfs 1), true, 7, (.mailbox 1 []), 1, 2, [], (withPair {} (paired roleJoining)), (Instr.abdicate (msg) 1 2),
    by decide, by decide⟩

theorem witness_LinkRows_7_2 : ∃ (m : PairMsg) (cause : Nat) (inst : Nat) (j : Nat) (e : Nat) (c : Nat) (id : Nat) (b : CopyBlock) (ok :
    Bool) (n : Nat) (f : Fwd) (op : Nat) (v : Nat) (sums : List Nat) (s : State) (i : Instr), (i ∈ [Instr.abdicate m cause inst,
    Instr.handover m j, Instr.prepare m e c, Instr.block m e id b ok, Instr.endReady m e n ok, Instr.commit m e c, Instr.forward m f,
    Instr.mirror m op inst v, Instr.accSum m n sums]) ∧ (s.pair.authed = true) ∧ (m.tagOk = false) :=
  ⟨(msg 0 0 6 false), 1, 2, 3, 4, 5, 6, (.prpOfs 1), true, 7, (.mailbox 1 []), 1, 2, [], (paired roleJoining),
    (Instr.commit (msg 0 0 6 false) 4 5), by decide, by decide, by decide⟩

theorem witness_LinkRows_7_3 : ∃ (m : PairMsg) (cause : Nat) (inst : Nat) (j : Nat) (e : Nat) (c : Nat) (id : Nat) (b : CopyBlock) (ok :
    Bool) (n : Nat) (f : Fwd) (op : Nat) (v : Nat) (sums : List Nat) (s : State) (i : Instr), (i ∈ [Instr.abdicate m cause inst,
    Instr.handover m j, Instr.prepare m e c, Instr.block m e id b ok, Instr.endReady m e n ok, Instr.commit m e c, Instr.forward m f,
    Instr.mirror m op inst v, Instr.accSum m n sums]) ∧ (s.pair.authed = true) ∧ (m.tagOk = true) ∧ (m.ctr ≤ s.pair.rxCtr) :=
  ⟨(msg 0 1 5), 1, 2, 3, 4, 5, 6, (.prpOfs 1), true, 7, (.mailbox 1 []), 1, 2, [], (paired roleJoining), (Instr.accSum (msg 0 1 5) 7 []),
    by decide, by decide, by decide, by decide⟩

theorem witness_AuthorityRows_1_1 : ∃ (m : PairMsg) (s : State), (s.pair.authed = true) ∧ (m.tagOk = true) ∧ (s.pair.rxCtr < m.ctr) ∧
    (s.role = roleStandby) ∧ (s.pair.abdSeen = false) ∧ (s.pairReady = true) :=
  ⟨(msg), (paired roleStandby), by decide, by decide, by decide, by decide, by decide, by decide⟩

theorem witness_AuthorityRows_1_2 : ∃ (m : PairMsg) (s : State), (s.pair.authed = true) ∧ (m.tagOk = true) ∧ (s.pair.rxCtr < m.ctr) ∧
    (s.role = roleStandby) ∧ (s.pair.abdSeen = false) ∧ (s.pairReady = false) :=
  ⟨(msg), ((paired roleStandby).wr fCLV_STS_QUAL_LOST 1), by decide, by decide, by decide, by decide, by decide, by decide⟩

theorem witness_AuthorityRows_2 : ∃ (s : State), (s.paired = true) ∧ (s.pwr.abdN = true) ∧ (s.role = roleStandby) ∧ (s.pair.abdSeen = false)
    ∧ (s.pairReady = true) :=
  ⟨(paired roleStandby), by decide, by decide, by decide, by decide, by decide⟩

theorem witness_AuthorityRows_3 : ∃ (m : PairMsg) (s : State), (s.pair.authed = true) ∧ (m.tagOk = true) ∧ (s.pair.rxCtr < m.ctr) ∧ (s.role
    = roleStandby) :=
  ⟨(msg), (paired roleStandby), by decide, by decide, by decide, by decide⟩

theorem witness_AuthorityRows_4 : ∃ (e : Nat) (s : State), (s.pair.abdUntil = some e) ∧ (s.up ≥ e) :=
  ⟨5, (withPair { abdUntil := some 5 } (paired roleYielded)), by decide, by decide⟩

theorem witness_AuthorityRows_5 : ∃ (s : State), (s.ticking = true) ∧ (s.paired = true) ∧ (s.role = roleActive) ∧ (s.up ≥ s.pair.instAt +
    s.periods 2) :=
  ⟨{ paired roleActive with img := some { pairImg with acc := accImg.acc }, up := 200000000, pio := (List.replicate 16 none).set 5 (some true) },
    by decide, by decide, by decide, by decide⟩

theorem witness_AuthorityRows_6 : ∃ (s : State), (s.role = roleSeeking) ∧ (s.on fPAIR_STS_PARTNER_UP = false) ∧ (s.on fPAIR_CFG_ALONE_OK =
    true) ∧ (s.pair.move = none) ∧ (s.up ≥ s.pair.seekSince + s.rd fPAIR_CFG_WAIT_S * 1000000000) :=
  ⟨{ (paired roleSeeking).wr fPAIR_CFG_ALONE_OK 1 |>.wr fPAIR_STS_PARTNER_UP 0 with up := 60000000000 }, by decide, by decide, by decide,
    by decide, by decide⟩

theorem witness_AuthorityRows_7 : ∃ (c : Nat) (s : State), (s.pair.yieldClear = some c) ∧ (s.role = roleYielded) ∧ (s.rd
    fPAIR_ABD_STS_OWN_CAUSE ≠ abdSupply) ∧ (s.triggerNow = false) ∧ (s.up ≥ c + s.rd fPAIR_CFG_RECOVER_S * 1000000000) :=
  ⟨0, { withPair { yieldClear := some 0, instAt := 60000000000 } (paired roleYielded) with up := 60000000000 }, by decide, by decide,
    by decide, by decide, by decide⟩

theorem witness_AuthorityRows_7b : ∃ (c : Nat) (s : State), (s.pair.yieldClear = some c) ∧ (s.role = roleYielded) ∧ (s.rd
    fPAIR_ABD_STS_OWN_CAUSE ≠ abdSupply) ∧ (s.triggerNow = false) ∧ (s.up ≥ c + s.rd fPAIR_CFG_RECOVER_S * 1000000000) :=
  ⟨0,
    { withPair { yieldClear := some 0, instAt := 60000000000 } ((paired roleYielded).wr fPAIR_STS_PARTNER_ROLE roleActive) with up := 60000000000 },
    by decide, by decide, by decide, by decide, by decide⟩

theorem witness_AuthorityRows_7c : ∃ (c : Nat) (s : State), (s.pair.yieldClear = some c) ∧ (s.role = roleYielded) ∧ (s.rd
    fPAIR_ABD_STS_OWN_CAUSE ≠ abdSupply) ∧ (s.triggerNow = false) ∧ (s.up ≥ c + s.rd fPAIR_CFG_RECOVER_S * 1000000000) :=
  ⟨0, { withPair { yieldClear := some 0, instAt := 60000000000 } ((paired roleYielded).wr fPAIR_STS_PARTNER_UP 0) with up := 60000000000 },
    by decide, by decide, by decide, by decide, by decide⟩

theorem witness_JoinRows_1_1 : ∃ (m : PairMsg) (s : State), (s.pair.authed = true) ∧ (m.tagOk = true) ∧ (s.pair.rxCtr < m.ctr) ∧ (s.role =
    roleJoining) ∧ (s.pair.join = none) :=
  ⟨(msg), (paired roleJoining), by decide, by decide, by decide, by decide, by decide⟩

theorem witness_JoinRows_1_2 : ∃ (m : PairMsg) (s : State), (s.pair.authed = true) ∧ (m.tagOk = true) ∧ (s.pair.rxCtr < m.ctr) ∧ (s.role =
    roleJoining) ∧ (s.pair.join.isSome = true) :=
  ⟨(msg), (withPair (joinPair join0) (paired roleJoining)), by decide, by decide, by decide, by decide, by decide⟩

theorem witness_JoinRows_1_3 : ∃ (m : PairMsg) (s : State), (s.pair.authed = true) ∧ (m.tagOk = true) ∧ (s.pair.rxCtr < m.ctr) ∧ (s.role ≠
    roleJoining) :=
  ⟨(msg), (withPair (joinPair join0) (paired roleActive)), by decide, by decide, by decide, by decide⟩

theorem witness_JoinRows_2_1 : ∃ (m : PairMsg) (e : Nat) (ok : Bool) (s : State) (j : Join), (s.pair.authed = true) ∧ (m.tagOk = true) ∧
    (s.pair.rxCtr < m.ctr) ∧ (s.role = roleJoining) ∧ (s.pair.join = some j) ∧ (j.epoch = e) ∧ (ok = true) :=
  ⟨(msg), 3, true, (withPair (joinPair join0) (paired roleJoining)), join0, by decide, by decide, by decide, by decide, by decide,
    by decide, by decide⟩

theorem witness_JoinRows_2_2 : ∃ (m : PairMsg) (e : Nat) (ok : Bool) (s : State), (s.pair.authed = true) ∧ (m.tagOk = true) ∧ (s.pair.rxCtr
    < m.ctr) ∧ (s.role ≠ roleJoining ∨ s.pair.join = none ∨ (∃ j, s.pair.join = some j ∧ j.epoch ≠ e) ∨ ok = false) :=
  ⟨(msg), 4, true, (withPair (joinPair join0) (paired roleJoining)), by decide, by decide, by decide, by decide⟩

theorem witness_JoinRows_2_2b : ∃ (m : PairMsg) (e : Nat) (ok : Bool) (s : State), (s.pair.authed = true) ∧ (m.tagOk = true) ∧ (s.pair.rxCtr
    < m.ctr) ∧ (s.role ≠ roleJoining ∨ s.pair.join = none ∨ (∃ j, s.pair.join = some j ∧ j.epoch ≠ e) ∨ ok = false) :=
  ⟨(msg), 3, false, (withPair (joinPair join0) (paired roleJoining)), by decide, by decide, by decide, by decide⟩

theorem witness_JoinRows_3_1_1 : ∃ (m : PairMsg) (e : Nat) (n : Nat) (ok : Bool) (s : State) (j : Join), (s.pair.authed = true) ∧ (m.tagOk =
    true) ∧ (s.pair.rxCtr < m.ctr) ∧ (s.role = roleJoining) ∧ (s.pair.join = some j) ∧ (j.epoch = e) ∧ (ok = true) ∧ (j.blocks.length = n)
    :=
  ⟨(msg), 3, 1, true, (withPair (joinPair { join0 with blocks := [(4, .prpOfs 9)] }) (paired roleJoining)),
    { join0 with blocks := [(4, .prpOfs 9)] }, by decide, by decide, by decide, by decide, by decide, by decide, by decide, by decide⟩

theorem witness_JoinRows_3_1_2 : ∃ (m : PairMsg) (e : Nat) (n : Nat) (ok : Bool) (s : State) (j : Join), (s.pair.authed = true) ∧ (m.tagOk =
    true) ∧ (s.pair.rxCtr < m.ctr) ∧ (s.role = roleJoining) ∧ (s.pair.join = some j) ∧ (j.epoch = e) ∧ (ok = false ∨ j.blocks.length ≠ n) ∧
    (j.resent = false) :=
  ⟨(msg), 3, 2, true, (withPair (joinPair { join0 with blocks := [(4, .prpOfs 9)] }) (paired roleJoining)),
    { join0 with blocks := [(4, .prpOfs 9)] }, by decide, by decide, by decide, by decide, by decide, by decide, by decide, by decide⟩

theorem witness_JoinRows_3_1_2b : ∃ (m : PairMsg) (e : Nat) (n : Nat) (ok : Bool) (s : State) (j : Join), (s.pair.authed = true) ∧ (m.tagOk
    = true) ∧ (s.pair.rxCtr < m.ctr) ∧ (s.role = roleJoining) ∧ (s.pair.join = some j) ∧ (j.epoch = e) ∧ (ok = false ∨ j.blocks.length ≠ n)
    ∧ (j.resent = false) :=
  ⟨(msg), 3, 1, false, (withPair (joinPair { join0 with blocks := [(4, .prpOfs 9)] }) (paired roleJoining)),
    { join0 with blocks := [(4, .prpOfs 9)] }, by decide, by decide, by decide, by decide, by decide, by decide, by decide, by decide⟩

theorem witness_JoinRows_3_1_3 : ∃ (m : PairMsg) (e : Nat) (n : Nat) (ok : Bool) (s : State) (j : Join), (s.pair.authed = true) ∧ (m.tagOk =
    true) ∧ (s.pair.rxCtr < m.ctr) ∧ (s.role = roleJoining) ∧ (s.pair.join = some j) ∧ (j.epoch = e) ∧ (ok = false ∨ j.blocks.length ≠ n) ∧
    (j.resent = true) :=
  ⟨(msg), 3, 2, true, (withPair (joinPair { join0 with resent := true }) (paired roleJoining)), { join0 with resent := true }, by decide,
    by decide, by decide, by decide, by decide, by decide, by decide, by decide⟩

theorem witness_JoinRows_3_2_1 : ∃ (m : PairMsg) (e : Nat) (n : Nat) (s : State) (j : Join), (s.pair.authed = true) ∧ (m.tagOk = true) ∧
    (s.pair.rxCtr < m.ctr) ∧ (s.role = roleActive) ∧ (s.pair.join = some j) ∧ (j.epoch = e) ∧ (j.sent ≠ 0) ∧ (j.k = none) ∧ (n = j.sent) :=
  ⟨(msg), 3, 7, (withPair (joinPair { join0 with sent := 7 }) (paired roleActive)), { join0 with sent := 7 }, by decide, by decide,
    by decide, by decide, by decide, by decide, by decide, by decide, by decide⟩

theorem witness_JoinRows_3_2_2 : ∃ (m : PairMsg) (e : Nat) (n : Nat) (s : State) (j : Join), (s.pair.authed = true) ∧ (m.tagOk = true) ∧
    (s.pair.rxCtr < m.ctr) ∧ (s.role = roleActive) ∧ (s.pair.join = some j) ∧ (j.epoch = e) ∧ (j.sent ≠ 0) ∧ (j.k = none) ∧ (n ≠ j.sent) ∧
    (j.resent = false) :=
  ⟨(msg), 3, 6, (withPair (joinPair { join0 with sent := 7 }) (paired roleActive)), { join0 with sent := 7 }, by decide, by decide,
    by decide, by decide, by decide, by decide, by decide, by decide, by decide, by decide⟩

theorem witness_JoinRows_3_2_3 : ∃ (m : PairMsg) (e : Nat) (n : Nat) (s : State) (j : Join), (s.pair.authed = true) ∧ (m.tagOk = true) ∧
    (s.pair.rxCtr < m.ctr) ∧ (s.role = roleActive) ∧ (s.pair.join = some j) ∧ (j.epoch = e) ∧ (j.sent ≠ 0) ∧ (j.k = none) ∧ (n ≠ j.sent) ∧
    (j.resent = true) :=
  ⟨(msg), 3, 6, (withPair (joinPair { join0 with sent := 7, resent := true }) (paired roleActive)),
    { join0 with sent := 7, resent := true }, by decide, by decide, by decide, by decide, by decide, by decide, by decide, by decide,
    by decide, by decide⟩

theorem witness_JoinRows_3_3 : ∃ (m : PairMsg) (e : Nat) (s : State), (s.pair.authed = true) ∧ (m.tagOk = true) ∧ (s.pair.rxCtr < m.ctr) ∧
    (s.pair.join = none ∨ (∃ j, s.pair.join = some j ∧ j.epoch ≠ e) ∨ s.role ≠ roleJoining ∧ s.role ≠ roleActive) :=
  ⟨(msg), 4, (withPair (joinPair join0) (paired roleJoining)), by decide, by decide, by decide, by decide⟩

theorem witness_JoinRows_4_1_1 : ∃ (m : PairMsg) (e : Nat) (k : Nat) (s : State) (j : Join), (s.pair.authed = true) ∧ (m.tagOk = true) ∧
    (s.pair.rxCtr < m.ctr) ∧ (s.role = roleJoining) ∧ (s.pair.join = some j) ∧ (j.epoch = e) ∧ (j.ready = true) ∧ (s.clv.now < s.tickInst k)
    :=
  ⟨(msg), 3, 10001, (withPair (joinPair { join0 with ready := true }) (paired roleJoining)), { join0 with ready := true }, by decide,
    by decide, by decide, by decide, by decide, by decide, by decide, by decide⟩

theorem witness_JoinRows_4_1_2 : ∃ (m : PairMsg) (e : Nat) (k : Nat) (s : State) (j : Join), (s.pair.authed = true) ∧ (m.tagOk = true) ∧
    (s.pair.rxCtr < m.ctr) ∧ (s.role = roleJoining) ∧ (s.pair.join = some j) ∧ (j.epoch = e) ∧ (j.ready = true) ∧ (s.clv.now ≥ s.tickInst k)
    :=
  ⟨(msg), 3, 10000, (withPair (joinPair { join0 with ready := true }) (paired roleJoining)), { join0 with ready := true }, by decide,
    by decide, by decide, by decide, by decide, by decide, by decide, by decide⟩

theorem witness_JoinRows_4_2 : ∃ (m : PairMsg) (e : Nat) (s : State), (s.pair.authed = true) ∧ (m.tagOk = true) ∧ (s.pair.rxCtr < m.ctr) ∧
    (s.role ≠ roleJoining ∨ s.pair.join = none ∨ ∃ j, s.pair.join = some j ∧ (j.epoch ≠ e ∨ j.ready = false)) :=
  ⟨(msg), 3, (withPair (joinPair join0) (paired roleJoining)), by decide, by decide, by decide, by decide⟩

theorem witness_JoinRows_5 : ∃ (m : PairMsg) (s : State), (s.pair.authed = true) ∧ (m.tagOk = true) ∧ (s.pair.rxCtr < m.ctr) :=
  ⟨(msg), { paired roleActive with acc := { cuts := [{ anet := 4 }] } }, by decide, by decide, by decide⟩

theorem witness_JoinRows_6_1 : ∃ (s : State), (s.role = roleUnsynced) ∧ (s.up ≥ s.pair.unsyncAt + 10000000000) ∧ (s.rd fPAIR_STS_ATTEMPTS <
    s.rd fPAIR_CFG_RETRIES) :=
  ⟨{ (paired roleUnsynced).wr fPAIR_CFG_RETRIES 1 with up := 10000000000 }, by decide, by decide, by decide⟩

theorem witness_JoinRows_6_2 : ∃ (s : State), (s.role ≠ roleUnsynced ∨ s.up < s.pair.unsyncAt + 10000000000 ∨ s.rd fPAIR_STS_ATTEMPTS ≥ s.rd
    fPAIR_CFG_RETRIES) :=
  ⟨{ (paired roleUnsynced).wr fPAIR_CFG_RETRIES 1 with up := 9999999999 }, by decide⟩

theorem witness_JoinRows_7_1_1 : ∃ (s : State) (j : Join), (s.pair.join = some j) ∧ (j.k = none) ∧ (s.up ≥ j.since + s.rd fPAIR_CFG2_COPY_MS
    * 1000000) ∧ (s.role = roleJoining) :=
  ⟨{ withPair (joinPair join0) (paired roleJoining) with up := 60000000000 }, join0, by decide, by decide, by decide, by decide⟩

theorem witness_JoinRows_7_1_2 : ∃ (s : State) (j : Join), (s.pair.join = some j) ∧ (j.k = none) ∧ (s.up ≥ j.since + s.rd fPAIR_CFG2_COPY_MS
    * 1000000) ∧ (s.role ≠ roleJoining) :=
  ⟨{ withPair (joinPair join0) (paired roleActive) with up := 60000000000 }, join0, by decide, by decide, by decide, by decide⟩

theorem witness_JoinRows_7_2 : ∃ (s : State), (s.pair.join = none ∨ ∃ j, s.pair.join = some j ∧ (j.k.isSome = true ∨ s.up < j.since + s.rd
    fPAIR_CFG2_COPY_MS * 1000000)) :=
  ⟨(withPair (joinPair { join0 with k := some 5 }) (paired roleJoining)), by decide⟩

theorem witness_PartnerRows_1 : ∃ (m : PairMsg) (s : State), (s.pair.authed = true) ∧ (m.tagOk = true) ∧ (s.pair.rxCtr < m.ctr) ∧ (m.role <
    8) :=
  ⟨(msg 7), (paired roleJoining), by decide, by decide, by decide, by decide⟩

theorem witness_PartnerRows_1b : ∃ (m : PairMsg) (s : State), (s.pair.authed = true) ∧ (m.tagOk = true) ∧ (s.pair.rxCtr < m.ctr) ∧ (m.role <
    8) :=
  ⟨(msg 4), (paired roleSeeking), by decide, by decide, by decide, by decide⟩

theorem witness_PartnerRows_1c : ∃ (m : PairMsg) (s : State), (s.pair.authed = true) ∧ (m.tagOk = true) ∧ (s.pair.rxCtr < m.ctr) ∧ (m.role <
    8) :=
  ⟨(msg 4), (withPair { authed := true, rxCtr := 5 } (paired roleSeeking)), by decide, by decide, by decide, by decide⟩

theorem witness_PartnerRows_1d : ∃ (m : PairMsg) (s : State), (s.pair.authed = true) ∧ (m.tagOk = true) ∧ (s.pair.rxCtr < m.ctr) ∧ (m.role <
    8) :=
  ⟨(msg 2), (paired roleActive), by decide, by decide, by decide, by decide⟩

theorem witness_PartnerRows_1e : ∃ (m : PairMsg) (s : State), (s.pair.authed = true) ∧ (m.tagOk = true) ∧ (s.pair.rxCtr < m.ctr) ∧ (m.role <
    8) :=
  ⟨(msg 4), (paired roleActive), by decide, by decide, by decide, by decide⟩

theorem witness_PartnerRows_1f : ∃ (m : PairMsg) (s : State), (s.pair.authed = true) ∧ (m.tagOk = true) ∧ (s.pair.rxCtr < m.ctr) ∧ (m.role <
    8) :=
  ⟨(msg 4), ((paired roleActive).wr fPAIR_STS_MEMBER 1), by decide, by decide, by decide, by decide⟩

theorem witness_PartnerRows_2 : ∃ (x : Nat × Bool) (m : PairMsg) (c : CmdFrame) (im : Image) (o : OutStream) (st : Nat) (s : State), (x ∈
    [(1, false), (2, true)]) ∧ (s.pair.authed = true) ∧ (m.tagOk = true) ∧ (s.pair.rxCtr < m.ctr) ∧ (s.authority = true) ∧ (s.img = some im)
    ∧ (List.find? (fun y => decide (y.1.idcode = c.idcode) && decide (y.1.format ≠ 2)) im.outs.zipIdx = some (o, st)) ∧ (c.chkOk = true) ∧
    (o.cmdSrc = [] ∨ o.cmdSrc.contains c.src = true) ∧ (s.paired = true) :=
  ⟨(2, true), (msg), (cmdFrame true none), { outImg 0 with pair := some ⟨5⟩ }, (outStream 0), 0,
    { paired roleActive with img := some { outImg 0 with pair := some ⟨5⟩ } }, by decide, by decide, by decide, by decide, by decide,
    by decide, by decide, by decide, by decide, by decide⟩

theorem witness_PartnerRows_3 : ∃ (m : PairMsg) (s : State), (s.pair.authed = true) ∧ (m.tagOk = true) ∧ (s.pair.rxCtr < m.ctr) ∧
    (s.authority = false) :=
  ⟨(msg), { paired roleStandby with img := some { outImg 0 with pair := some ⟨5⟩ } }, by decide, by decide, by decide, by decide⟩

theorem witness_PartnerRows_4_1 : ∃ (m : PairMsg) (s : State) (op : Nat), (s.pair.authed = true) ∧ (m.tagOk = true) ∧ (s.pair.rxCtr < m.ctr)
    ∧ (op = mirAck ∨ op = mirInh) :=
  ⟨(msg), (paired roleStandby), mirInh, by decide, by decide, by decide, by decide⟩

theorem witness_PartnerRows_4_2 : ∃ (m : PairMsg) (s : State), (s.pair.authed = true) ∧ (m.tagOk = true) ∧ (s.pair.rxCtr < m.ctr) :=
  ⟨(msg), (paired roleStandby), by decide, by decide, by decide⟩

theorem witness_PartnerRows_4_3 : ∃ (m : PairMsg) (s : State), (s.pair.authed = true) ∧ (m.tagOk = true) ∧ (s.pair.rxCtr < m.ctr) :=
  ⟨(msg), (paired roleStandby), by decide, by decide, by decide⟩

theorem witness_PartnerRows_5_1 : ∃ (m : PairMsg) (s : State) (x : Running), (s.pair.authed = true) ∧ (m.tagOk = true) ∧ (s.pair.rxCtr <
    m.ctr) ∧ (s.stewAlive = true) ∧ (s.cmd? CmdSrc.partner = some x) :=
  ⟨(msg), { paired roleStandby with mbx := { run := [{ cmdOf 1 [5] with src := .partner }] } }, { cmdOf 1 [5] with src := .partner },
    by decide, by decide, by decide, by decide, by decide⟩

theorem witness_PartnerRows_5_2 : ∃ (m : PairMsg) (op : Nat) (args : List Nat) (s : State), (s.pair.authed = true) ∧ (m.tagOk = true) ∧
    (s.pair.rxCtr < m.ctr) ∧ (s.stewAlive = true) ∧ (s.cmd? CmdSrc.partner = none) ∧ (cmdInfo? op args = none) :=
  ⟨(msg), 0xFFFF, [5], (paired roleStandby), by decide, by decide, by decide, by decide, by decide, by decide⟩

theorem witness_SystemCommands_1 : ∃ (src : CmdSrc) (r : Running) (s : State), (s.cmd? src = some r) ∧ (r.opcode = 2) ∧ (r.done = none) ∧
    (s.mbx.wait.contains src = false) :=
  ⟨(.chan 3), (cmdOf 2 []), (withCmd (cmdOf 2 []) running), by decide, by decide, by decide, by decide⟩

theorem witness_SystemCommands_2_1 : ∃ (src : CmdSrc) (r : Running) (s : State), (s.cmd? src = some r) ∧ (r.opcode = 3) ∧ (r.done = none) ∧
    (s.mbx.wait.contains src = false) ∧ (Arg r 0 = 1129270605) ∧ (s.mram.chs.commissioned = false) :=
  ⟨(.chan 3), (cmdOf 3 [0x434F4D4D]), (withCmd (cmdOf 3 [0x434F4D4D]) running), by decide, by decide, by decide, by decide, by decide,
    by decide⟩

theorem witness_SystemCommands_2_2 : ∃ (src : CmdSrc) (r : Running) (s : State), (s.cmd? src = some r) ∧ (r.opcode = 3) ∧ (r.done = none) ∧
    (s.mbx.wait.contains src = false) ∧ (Arg r 0 = 1129270605) ∧ (s.mram.chs.commissioned = true) :=
  ⟨(.chan 3), (cmdOf 3 [0x434F4D4D]), (withCmd (cmdOf 3 [0x434F4D4D]) { running with mram := { chs := { commissioned := true } } }),
    by decide, by decide, by decide, by decide, by decide, by decide⟩

theorem witness_SystemCommands_2_3 : ∃ (src : CmdSrc) (r : Running) (s : State), (s.cmd? src = some r) ∧ (r.opcode = 3) ∧ (r.done = none) ∧
    (s.mbx.wait.contains src = false) ∧ (Arg r 0 ≠ 1129270605) :=
  ⟨(.chan 3), (cmdOf 3 [5]), (withCmd (cmdOf 3 [5]) running), by decide, by decide, by decide, by decide, by decide⟩

theorem witness_SystemCommands_3_1 : ∃ (src : CmdSrc) (r : Running) (s : State), (s.cmd? src = some r) ∧ (r.opcode = 257) ∧ (r.done = none)
    ∧ (s.mbx.wait.contains src = false) ∧ (r.memo = []) ∧ (Arg r 0 < 1 ∨ 3 < Arg r 0 ∨ s.srcEnabled (Arg r 0) = false) :=
  ⟨(.chan 3), (cmdOf 0x0101 [4]), (withCmd (cmdOf 0x0101 [4]) (holdover 5)), by decide, by decide, by decide, by decide, by decide,
    by decide⟩

theorem witness_SystemCommands_3_1b : ∃ (src : CmdSrc) (r : Running) (s : State), (s.cmd? src = some r) ∧ (r.opcode = 257) ∧ (r.done = none)
    ∧ (s.mbx.wait.contains src = false) ∧ (r.memo = []) ∧ (Arg r 0 < 1 ∨ 3 < Arg r 0 ∨ s.srcEnabled (Arg r 0) = false) :=
  ⟨(.chan 3), (cmdOf 0x0101 [3]), (withCmd (cmdOf 0x0101 [3]) (holdover 5)), by decide, by decide, by decide, by decide, by decide,
    by decide⟩

theorem witness_SystemCommands_3_2_1 : ∃ (src : CmdSrc) (r : Running) (s : State), (s.cmd? src = some r) ∧ (r.opcode = 257) ∧ (r.done =
    none) ∧ (s.mbx.wait.contains src = false) ∧ (r.memo = []) ∧ (1 ≤ Arg r 0) ∧ (Arg r 0 ≤ 3) ∧ (s.srcEnabled (Arg r 0) = true) ∧
    (s.clvState = clvHoldover ∨ s.clvState = clvStuck) :=
  ⟨(.chan 3), (cmdOf 0x0101 [1]), (withCmd (cmdOf 0x0101 [1]) ((holdover 5).wr (fCLV_PTP_PORT_CFG_EN 7) 1)), by decide, by decide,
    by decide, by decide, by decide, by decide, by decide, by decide, by decide⟩

theorem witness_SystemCommands_3_2_2 : ∃ (src : CmdSrc) (r : Running) (s : State), (s.cmd? src = some r) ∧ (r.opcode = 257) ∧ (r.done =
    none) ∧ (s.mbx.wait.contains src = false) ∧ (r.memo = []) ∧ (1 ≤ Arg r 0) ∧ (Arg r 0 ≤ 3) ∧ (s.srcEnabled (Arg r 0) = true) ∧
    (s.clvState ≠ clvHoldover) ∧ (s.clvState ≠ clvStuck) :=
  ⟨(.chan 3), (cmdOf 0x0101 [3]), (withCmd (cmdOf 0x0101 [3]) todPps), by decide, by decide, by decide, by decide, by decide, by decide,
    by decide, by decide, by decide, by decide⟩

theorem witness_SystemCommands_3_3_1 : ∃ (src : CmdSrc) (r : Running) (s : State) (w : ReseatWait), (s.cmd? src = some r) ∧ (r.opcode = 257)
    ∧ (r.done = none) ∧ (s.mbx.wait.contains src = false) ∧ (r.memo ≠ []) ∧ (s.clv.wait = some w) ∧ (w.got.length < 4 ∨ agree s.jump w.got =
    false) ∧ (s.up ≥ w.deadline) :=
  ⟨(.chan 3), (cmdOf 0x0101 [1] [1]),
    (withCmd (cmdOf 0x0101 [1] [1]) { holdover 10000000000 with clv := { (holdover 5).clv with wait := some ⟨1, 10000000000, [1, 2, 3]⟩ } }),
    ⟨1, 10000000000, [1, 2, 3]⟩, by decide, by decide, by decide, by decide, by decide, by decide, by decide, by decide⟩

theorem witness_SystemCommands_3_3_2 : ∃ (src : CmdSrc) (r : Running) (s : State) (w : ReseatWait), (s.cmd? src = some r) ∧ (r.opcode = 257)
    ∧ (r.done = none) ∧ (s.mbx.wait.contains src = false) ∧ (r.memo ≠ []) ∧ (s.clv.wait = some w) ∧ (w.got.length < 4 ∨ agree s.jump w.got =
    false) ∧ (s.up < w.deadline) :=
  ⟨(.chan 3), (cmdOf 0x0101 [1] [1]),
    (withCmd (cmdOf 0x0101 [1] [1]) { holdover 9999999999 with clv := { (holdover 5).clv with wait := some ⟨1, 10000000000, [1, 2, 3]⟩ } }),
    ⟨1, 10000000000, [1, 2, 3]⟩, by decide, by decide, by decide, by decide, by decide, by decide, by decide, by decide⟩

theorem witness_SystemCommands_3_4 : ∃ (src : CmdSrc) (r : Running) (s : State) (w : ReseatWait), (s.cmd? src = some r) ∧ (r.opcode = 257) ∧
    (r.done = none) ∧ (s.mbx.wait.contains src = false) ∧ (r.memo ≠ []) ∧ (s.clv.wait = some w) ∧ (4 ≤ w.got.length) ∧ (agree s.jump w.got =
    true) :=
  ⟨(.chan 3), (cmdOf 0x0101 [1] [1]),
    (withCmd (cmdOf 0x0101 [1] [1]) { holdover 5 with clv := { (holdover 5).clv with wait := some ⟨1, 10000000000, [500000000, 500000000, 500000001, 500000001]⟩ } }),
    ⟨1, 10000000000, [500000000, 500000000, 500000001, 500000001]⟩, by decide, by decide, by decide, by decide, by decide, by decide,
    by decide, by decide⟩

theorem witness_SystemCommands_4 : ∃ (c : Fin 4) (r : Running) (st : Nat) (ws : List Nat) (s : State), (s.stewAlive = true) ∧ (s.cmd?
    (CmdSrc.chan ↑c) = some r) ∧ (r.done = some (st, ws)) ∧ (r.waitTo = none) ∧ (st < 16) ∧ (ws.length ≤ 62) :=
  ⟨3, { cmdOf 2 [] with done := some (0, [5, 6]) }, 0, [5, 6], (withCmd { cmdOf 2 [] with done := some (0, [5, 6]) } running), by decide,
    by decide, by decide, by decide, by decide, by decide⟩

theorem witness_ImageCommands_1 : ∃ (src : CmdSrc) (bytes : Bytes) (img : Image) (r : Running) (b : Bytes) (i : Image) (s : State), (s.cmd?
    src = some r) ∧ (r.opcode = 513) ∧ (r.done = none) ∧ (s.mbx.wait.contains src = false) ∧ (s.loadRefused r (Arg r 0) (Arg r 3) (Arg64 r
    1) = none) ∧ (s.pairTells r = false) ∧ (b = List.take (Arg r 3) bytes) ∧ (i = { readImage b img with file := b }) :=
  ⟨(.chan 3), [1#8, 2#8, 3#8, 4#8], {}, (cmdOf 0x0201 [1, 64, 0, 4]), [1#8, 2#8, 3#8, 4#8],
    { readImage [1#8, 2#8, 3#8, 4#8] {} with file := [1#8, 2#8, 3#8, 4#8] }, (withCmd (cmdOf 0x0201 [1, 64, 0, 4]) ticking), by decide,
    by decide, by decide, by decide, by decide, by decide, by decide, rfl⟩

theorem witness_ImageCommands_2 : ∃ (src : CmdSrc) (r : Running) (s : State), (s.cmd? src = some r) ∧ (r.opcode = 513) ∧ (r.done = none) ∧
    (s.mbx.wait.contains src = false) ∧ (s.loadRefused r (Arg r 0) (Arg r 3) (Arg64 r 1) = none) ∧ (s.pairTells r = true) :=
  ⟨(.chan 3), (cmdOf 0x0201 [1, 64, 0, 4]), (withCmd (cmdOf 0x0201 [1, 64, 0, 4]) (paired roleActive)), by decide, by decide, by decide,
    by decide, by decide, by decide⟩

theorem witness_ImageCommands_3 : ∃ (src : CmdSrc) (r : Running) (st : Nat) (s : State), (s.cmd? src = some r) ∧ (r.opcode = 513) ∧ (r.done
    = none) ∧ (s.mbx.wait.contains src = false) ∧ (s.loadRefused r (Arg r 0) (Arg r 3) (Arg64 r 1) = some st) :=
  ⟨(.chan 3), (cmdOf 0x0201 [2, 64, 0, 4]), stBadArg, (withCmd (cmdOf 0x0201 [2, 64, 0, 4]) ticking), by decide, by decide, by decide,
    by decide, by decide⟩

theorem witness_ImageCommands_3b : ∃ (src : CmdSrc) (r : Running) (st : Nat) (s : State), (s.cmd? src = some r) ∧ (r.opcode = 513) ∧ (r.done
    = none) ∧ (s.mbx.wait.contains src = false) ∧ (s.loadRefused r (Arg r 0) (Arg r 3) (Arg64 r 1) = some st) :=
  ⟨(.chan 3), (cmdOf 0x0201 [0, 64, 0, 4]), stState, (withCmd (cmdOf 0x0201 [0, 64, 0, 4]) ticking), by decide, by decide, by decide,
    by decide, by decide⟩

theorem witness_ImageCommands_4 : ∃ (src : CmdSrc) (r : Running) (s : State), (s.cmd? src = some r) ∧ (r.opcode = 513) ∧ (r.done = none) ∧
    (s.mbx.wait.contains src = false) ∧ (s.loadRefused r (Arg r 0) (Arg r 3) (Arg64 r 1) = none) :=
  ⟨(.chan 3), (cmdOf 0x0201 [1, 64, 0, 4]), (withCmd (cmdOf 0x0201 [1, 64, 0, 4]) ticking), by decide, by decide, by decide, by decide,
    by decide⟩

theorem witness_ImageCommands_5_1 : ∃ (src : CmdSrc) (r : Running) (s : State), (s.cmd? src = some r) ∧ (r.opcode = 516) ∧ (r.done = none) ∧
    (s.mbx.wait.contains src = false) ∧ (Arg r 0 ≤ 1) ∧ (s.nand.slots.getD (Arg r 0) none = none) :=
  ⟨(.chan 3), (cmdOf 0x0204 [1]), (withCmd (cmdOf 0x0204 [1]) ticking), by decide, by decide, by decide, by decide, by decide, by decide⟩

theorem witness_ImageCommands_5_2 : ∃ (src : CmdSrc) (r : Running) (s : State) (i : Image), (s.cmd? src = some r) ∧ (r.opcode = 516) ∧
    (r.done = none) ∧ (s.mbx.wait.contains src = false) ∧ (Arg r 0 ≤ 1) ∧ (s.nand.slots.getD (Arg r 0) none = some i) :=
  ⟨(.chan 3), (cmdOf 0x0204 [1]), (withCmd (cmdOf 0x0204 [1]) stored), image0, by decide, by decide, by decide, by decide, by decide,
    by decide⟩

theorem witness_ImageCommands_6_1 : ∃ (src : CmdSrc) (r : Running) (s : State), (s.cmd? src = some r) ∧ (r.opcode = 517) ∧ (r.done = none) ∧
    (s.mbx.wait.contains src = false) ∧ (Arg r 0 ≤ 1) ∧ (s.runs (Arg r 0) = false) ∧ (s.pendingSlot (Arg r 0) = false) :=
  ⟨(.chan 3), (cmdOf 0x0205 [1]), (withCmd (cmdOf 0x0205 [1]) stored), by decide, by decide, by decide, by decide, by decide, by decide,
    by decide⟩

theorem witness_ImageCommands_6_2 : ∃ (src : CmdSrc) (r : Running) (s : State), (s.cmd? src = some r) ∧ (r.opcode = 517) ∧ (r.done = none) ∧
    (s.mbx.wait.contains src = false) ∧ (Arg r 0 ≤ 1) ∧ (s.runs (Arg r 0) = true ∨ s.pendingSlot (Arg r 0) = true) :=
  ⟨(.chan 3), (cmdOf 0x0205 [0]), (withCmd (cmdOf 0x0205 [0]) stored), by decide, by decide, by decide, by decide, by decide, by decide⟩

theorem witness_ImageCommands_7_1 : ∃ (src : CmdSrc) (r : Running) (i : Image) (s : State), (s.cmd? src = some r) ∧ (r.opcode = 514) ∧
    (r.done = none) ∧ (s.mbx.wait.contains src = false) ∧ (Arg r 0 ≤ 1) ∧ (s.nand.slots.getD (Arg r 0) none = some i) ∧ (s.ticking = true) ∧
    (s.img.isSome = true) ∧ (s.runs (Arg r 0) = false) ∧ (s.swapStatus r i (Arg64 r 1) = stOk) ∧ (s.pairTells r = false) :=
  ⟨(.chan 3), (cmdOf 0x0202 [1, 10001]), image0, (withCmd (cmdOf 0x0202 [1, 10001]) stored), by decide, by decide, by decide, by decide,
    by decide, by decide, by decide, by decide, by decide, by decide, by decide⟩

theorem witness_ImageCommands_7_2 : ∃ (src : CmdSrc) (r : Running) (i : Image) (s : State), (s.cmd? src = some r) ∧ (r.opcode = 514) ∧
    (r.done = none) ∧ (s.mbx.wait.contains src = false) ∧ (Arg r 0 ≤ 1) ∧ (s.nand.slots.getD (Arg r 0) none = some i) ∧ (s.ticking = true) ∧
    (s.img.isSome = true) ∧ (s.runs (Arg r 0) = false) ∧ (s.swapStatus r i (Arg64 r 1) = stOk) ∧ (s.pairTells r = true) :=
  ⟨(.chan 3), (cmdOf 0x0202 [1, 10001]), image0,
    (withCmd (cmdOf 0x0202 [1, 10001]) { paired roleActive with nand := { slots := [none, some image0] } }), by decide, by decide, by decide,
    by decide, by decide, by decide, by decide, by decide, by decide, by decide, by decide⟩

theorem witness_ImageCommands_7_3 : ∃ (src : CmdSrc) (r : Running) (i : Image) (s : State), (s.cmd? src = some r) ∧ (r.opcode = 514) ∧
    (r.done = none) ∧ (s.mbx.wait.contains src = false) ∧ (Arg r 0 ≤ 1) ∧ (s.nand.slots.getD (Arg r 0) none = some i) ∧ (s.ticking = true) ∧
    (s.img.isSome = true) ∧ (s.runs (Arg r 0) = false) ∧ (s.swapStatus r i (Arg64 r 1) ≠ stOk) :=
  ⟨(.chan 3), (cmdOf 0x0202 [1, 10000]), image0, (withCmd (cmdOf 0x0202 [1, 10000]) stored), by decide, by decide, by decide, by decide,
    by decide, by decide, by decide, by decide, by decide, by decide⟩

theorem witness_ImageCommands_7_4 : ∃ (src : CmdSrc) (r : Running) (i : Image) (s : State), (s.cmd? src = some r) ∧ (r.opcode = 514) ∧
    (r.done = none) ∧ (s.mbx.wait.contains src = false) ∧ (Arg r 0 ≤ 1) ∧ (s.nand.slots.getD (Arg r 0) none = some i) ∧ (s.ticking = false ∨
    s.img = none) ∧ (Arg64 r 1 = 0) :=
  ⟨(.chan 3), (cmdOf 0x0202 [1, 0]), image0,
    (withCmd (cmdOf 0x0202 [1, 0]) { inPhase (.start 4) with nand := { slots := [none, some image0] } }), by decide, by decide, by decide,
    by decide, by decide, by decide, by decide, by decide⟩

theorem witness_ImageCommands_8_1 : ∃ (src : CmdSrc) (r : Running) (x : Image × Nat × Nat) (s : State), (s.cmd? src = some r) ∧ (r.opcode =
    515) ∧ (r.done = none) ∧ (s.mbx.wait.contains src = false) ∧ (s.swap = some x) ∧ (s.pairRefuses r = false) ∧ (s.clv.now + 50000000 ≤
    s.tickInst x.2.2) ∧ (s.pairTells r = false) :=
  ⟨(.chan 3), (cmdOf 0x0203 []), (image0, 1, 10001),
    (withCmd (cmdOf 0x0203 []) { stored with swap := some (image0, 1, 10001), clv := { stored.clv with now := 1000050000000 } }), by decide,
    by decide, by decide, by decide, by decide, by decide, by decide, by decide⟩

theorem witness_ImageCommands_8_2 : ∃ (src : CmdSrc) (r : Running) (x : Image × Nat × Nat) (s : State), (s.cmd? src = some r) ∧ (r.opcode =
    515) ∧ (r.done = none) ∧ (s.mbx.wait.contains src = false) ∧ (s.swap = some x) ∧ (s.pairRefuses r = false) ∧ (s.clv.now + 50000000 ≤
    s.tickInst x.2.2) ∧ (s.pairTells r = true) :=
  ⟨(.chan 3), (cmdOf 0x0203 []), (image0, 1, 10001),
    (withCmd (cmdOf 0x0203 []) { paired roleActive with swap := some (image0, 1, 10001), clv := { (paired roleActive).clv with now := 1000050000000 } }),
    by decide, by decide, by decide, by decide, by decide, by decide, by decide, by decide⟩

theorem witness_ImageCommands_8_3 : ∃ (src : CmdSrc) (r : Running) (x : Image × Nat × Nat) (s : State), (s.cmd? src = some r) ∧ (r.opcode =
    515) ∧ (r.done = none) ∧ (s.mbx.wait.contains src = false) ∧ (s.swap = some x) ∧ (s.pairRefuses r = false) ∧ (s.clv.now + 50000000 >
    s.tickInst x.2.2) :=
  ⟨(.chan 3), (cmdOf 0x0203 []), (image0, 1, 10001),
    (withCmd (cmdOf 0x0203 []) { stored with swap := some (image0, 1, 10001), clv := { stored.clv with now := 1000050000001 } }), by decide,
    by decide, by decide, by decide, by decide, by decide, by decide⟩

theorem witness_ImageCommands_9 : ∃ (s : State), (s.swap.isSome = true) :=
  ⟨{ stored with swap := some (image0, 1, 10001) }, by decide⟩

theorem witness_KeyCommands_1_1 : ∃ (src : CmdSrc) (r : Running) (s : State), (s.cmd? src = some r) ∧ (r.opcode = 769) ∧ (r.done = none) ∧
    (s.mbx.wait.contains src = false) ∧ (onP256 (beAt (argBytes r 1 16) 0 32) (beAt (argBytes r 1 16) 32 32) = false ∨ s.keyIdUsed (Arg r 0)
    = true) :=
  ⟨(.chan 3), (cmdOf 0x0301 [7, 1]), (withCmd (cmdOf 0x0301 [7, 1]) ticking), by decide, by decide, by decide, by decide, by decide⟩

theorem witness_KeyCommands_1_2 : ∃ (src : CmdSrc) (r : Running) (s : State), (s.cmd? src = some r) ∧ (r.opcode = 769) ∧ (r.done = none) ∧
    (s.mbx.wait.contains src = false) ∧ (onP256 (beAt (argBytes r 1 16) 0 32) (beAt (argBytes r 1 16) 32 32) = true) ∧ (s.keyIdUsed (Arg r
    0) = false) :=
  ⟨(.chan 3), (cmdOf 0x0301 rootArgs), (withCmd (cmdOf 0x0301 rootArgs) ticking), by decide, by decide, by decide, by decide, by decide,
    by decide⟩

theorem witness_KeyCommands_2_1 : ∃ (src : CmdSrc) (r : Running) (s : State), (s.cmd? src = some r) ∧ (r.opcode = 770) ∧ (r.done = none) ∧
    (s.mbx.wait.contains src = false) ∧ (Arg r 0 ≥ 1024) :=
  ⟨(.chan 3), (cmdOf 0x0302 [1024]), (withCmd (cmdOf 0x0302 [1024]) keyed), by decide, by decide, by decide, by decide, by decide⟩

theorem witness_KeyCommands_2_2 : ∃ (src : CmdSrc) (r : Running) (s : State), (s.cmd? src = some r) ∧ (r.opcode = 770) ∧ (r.done = none) ∧
    (s.mbx.wait.contains src = false) ∧ (Arg r 0 < 1024) ∧ ((s.key (Arg r 0)).st ≠ keyValid) :=
  ⟨(.chan 3), (cmdOf 0x0302 [1023]), (withCmd (cmdOf 0x0302 [1023]) keyed), by decide, by decide, by decide, by decide, by decide,
    by decide⟩

theorem witness_KeyCommands_2_3_1 : ∃ (src : CmdSrc) (r : Running) (s : State), (s.cmd? src = some r) ∧ (r.opcode = 770) ∧ (r.done = none) ∧
    (s.mbx.wait.contains src = false) ∧ (Arg r 0 < 1024) ∧ ((s.key (Arg r 0)).st = keyValid) ∧ (attrOk (s.key (Arg r 0)) (Arg r 2) = false ∨
    s.keyIdUsed (Arg r 1) = true ∨ Arg r 3 = 0) :=
  ⟨(.chan 3), (cmdOf 0x0302 [0, 9, 1, 0]), (withCmd (cmdOf 0x0302 [0, 9, 1, 0]) keyed), by decide, by decide, by decide, by decide,
    by decide, by decide, by decide⟩

theorem witness_KeyCommands_2_3_1b : ∃ (src : CmdSrc) (r : Running) (s : State), (s.cmd? src = some r) ∧ (r.opcode = 770) ∧ (r.done = none)
    ∧ (s.mbx.wait.contains src = false) ∧ (Arg r 0 < 1024) ∧ ((s.key (Arg r 0)).st = keyValid) ∧ (attrOk (s.key (Arg r 0)) (Arg r 2) = false
    ∨ s.keyIdUsed (Arg r 1) = true ∨ Arg r 3 = 0) :=
  ⟨(.chan 3), (cmdOf 0x0302 [0, 9, 2, 5]), (withCmd (cmdOf 0x0302 [0, 9, 2, 5]) keyed), by decide, by decide, by decide, by decide,
    by decide, by decide, by decide⟩

theorem witness_KeyCommands_2_3_2 : ∃ (src : CmdSrc) (r : Running) (s : State), (s.cmd? src = some r) ∧ (r.opcode = 770) ∧ (r.done = none) ∧
    (s.mbx.wait.contains src = false) ∧ (Arg r 0 < 1024) ∧ ((s.key (Arg r 0)).st = keyValid) ∧ (attrOk (s.key (Arg r 0)) (Arg r 2) = true) ∧
    (s.keyIdUsed (Arg r 1) = false) ∧ (Arg r 3 ≠ 0) :=
  ⟨(.chan 3), (cmdOf 0x0302 [0, 9, 1, 0xFFFFFFFF]), (withCmd (cmdOf 0x0302 [0, 9, 1, 0xFFFFFFFF]) keyed), by decide, by decide, by decide,
    by decide, by decide, by decide, by decide, by decide, by decide⟩

theorem witness_KeyCommands_3_1 : ∃ (src : CmdSrc) (r : Running) (s : State), (s.cmd? src = some r) ∧ (r.opcode = 771) ∧ (r.done = none) ∧
    (s.mbx.wait.contains src = false) ∧ (Arg r 0 ≥ 1024) :=
  ⟨(.chan 3), (cmdOf 0x0303 [1024]), (withCmd (cmdOf 0x0303 [1024]) keyed), by decide, by decide, by decide, by decide, by decide⟩

theorem witness_KeyCommands_3_2 : ∃ (src : CmdSrc) (r : Running) (s : State), (s.cmd? src = some r) ∧ (r.opcode = 771) ∧ (r.done = none) ∧
    (s.mbx.wait.contains src = false) ∧ (Arg r 0 < 1024) ∧ ((s.key (Arg r 0)).st = keyFree ∨ (s.key (Arg r 0)).st = keyInvalid) :=
  ⟨(.chan 3), (cmdOf 0x0303 [1]), (withCmd (cmdOf 0x0303 [1]) { keyed with bur := { ents := [(1, keyOf typWork keyInvalid 2)] } }),
    by decide, by decide, by decide, by decide, by decide, by decide⟩

theorem witness_KeyCommands_3_3 : ∃ (src : CmdSrc) (r : Running) (s : State), (s.cmd? src = some r) ∧ (r.opcode = 771) ∧ (r.done = none) ∧
    (s.mbx.wait.contains src = false) ∧ (Arg r 0 < 1024) ∧ ((s.key (Arg r 0)).st ≠ keyFree) ∧ ((s.key (Arg r 0)).st ≠ keyInvalid) :=
  ⟨(.chan 3), (cmdOf 0x0303 [0]), (withCmd (cmdOf 0x0303 [0]) (keyed.wr fCLV_STS_TICKING 0)), by decide, by decide, by decide, by decide,
    by decide, by decide, by decide⟩

theorem witness_KeyCommands_3_3b : ∃ (src : CmdSrc) (r : Running) (s : State), (s.cmd? src = some r) ∧ (r.opcode = 771) ∧ (r.done = none) ∧
    (s.mbx.wait.contains src = false) ∧ (Arg r 0 < 1024) ∧ ((s.key (Arg r 0)).st ≠ keyFree) ∧ ((s.key (Arg r 0)).st ≠ keyInvalid) :=
  ⟨(.chan 3), (cmdOf 0x0303 [1]), (withCmd (cmdOf 0x0303 [1]) keyed), by decide, by decide, by decide, by decide, by decide, by decide,
    by decide⟩

theorem witness_KeyCommands_4_1 : ∃ (src : CmdSrc) (r : Running) (s : State), (s.cmd? src = some r) ∧ (r.opcode = 772) ∧ (r.done = none) ∧
    (s.mbx.wait.contains src = false) ∧ (Arg r 0 ≥ 1024) ∧ (Arg r 0 ≠ 65535) :=
  ⟨(.chan 3), (cmdOf 0x0304 [1024]), (withCmd (cmdOf 0x0304 [1024]) keyed), by decide, by decide, by decide, by decide, by decide,
    by decide⟩

theorem witness_KeyCommands_4_2 : ∃ (src : CmdSrc) (r : Running) (s : State), (s.cmd? src = some r) ∧ (r.opcode = 772) ∧ (r.done = none) ∧
    (s.mbx.wait.contains src = false) ∧ (Arg r 0 < 1024) ∧ ((s.key (Arg r 0)).st = keyInvalid) :=
  ⟨(.chan 3), (cmdOf 0x0304 [1]), (withCmd (cmdOf 0x0304 [1]) { keyed with bur := { ents := [(1, keyOf typWork keyInvalid 2)] } }),
    by decide, by decide, by decide, by decide, by decide, by decide⟩

theorem witness_KeyCommands_4_3 : ∃ (src : CmdSrc) (r : Running) (s : State), (s.cmd? src = some r) ∧ (r.opcode = 772) ∧ (r.done = none) ∧
    (s.mbx.wait.contains src = false) ∧ (Arg r 0 < 1024) ∧ ((s.key (Arg r 0)).st ≠ keyInvalid) :=
  ⟨(.chan 3), (cmdOf 0x0304 [1023]), (withCmd (cmdOf 0x0304 [1023]) keyed), by decide, by decide, by decide, by decide, by decide,
    by decide⟩

theorem witness_KeyCommands_4_4 : ∃ (src : CmdSrc) (r : Running) (s : State), (s.cmd? src = some r) ∧ (r.opcode = 772) ∧ (r.done = none) ∧
    (s.mbx.wait.contains src = false) ∧ (Arg r 0 = 65535) ∧ (smSorted s.bur.ents = true) :=
  ⟨(.chan 3), (cmdOf 0x0304 [0xFFFF]),
    (withCmd (cmdOf 0x0304 [0xFFFF]) { keyed with bur := { ents := [(1, keyOf typWork keyInvalid 2), (2, keyOf typWork keyValid 3)] } }),
    by decide, by decide, by decide, by decide, by decide, by decide⟩

theorem witness_KeyCommands_5_1 : ∃ (src : CmdSrc) (r : Running) (s : State), (s.cmd? src = some r) ∧ (r.opcode = 773) ∧ (r.done = none) ∧
    (s.mbx.wait.contains src = false) ∧ (Arg r 0 < 1024) ∧ ((s.key (Arg r 0)).st = keyValid) ∧ ((s.key (Arg r 0)).typ = typWork) ∧ ((s.key
    (Arg r 0)).purpose = purHost) :=
  ⟨(.chan 3), (cmdOf 0x0305 [2]), (withCmd (cmdOf 0x0305 [2]) keyed), by decide, by decide, by decide, by decide, by decide, by decide,
    by decide, by decide⟩

theorem witness_KeyCommands_5_2 : ∃ (src : CmdSrc) (r : Running) (s : State), (s.cmd? src = some r) ∧ (r.opcode = 773) ∧ (r.done = none) ∧
    (s.mbx.wait.contains src = false) ∧ (Arg r 0 = 65535) :=
  ⟨(.chan 3), (cmdOf 0x0305 [0xFFFF]), (withCmd (cmdOf 0x0305 [0xFFFF]) keyed), by decide, by decide, by decide, by decide, by decide⟩

theorem witness_KeyCommands_5_3 : ∃ (src : CmdSrc) (r : Running) (s : State), (s.cmd? src = some r) ∧ (r.opcode = 773) ∧ (r.done = none) ∧
    (s.mbx.wait.contains src = false) ∧ (Arg r 0 ≠ 65535) ∧ (Arg r 0 ≥ 1024 ∨ (s.key (Arg r 0)).st ≠ keyValid ∨ (s.key (Arg r 0)).typ ≠
    typWork ∨ (s.key (Arg r 0)).purpose ≠ purHost) :=
  ⟨(.chan 3), (cmdOf 0x0305 [1]), (withCmd (cmdOf 0x0305 [1]) keyed), by decide, by decide, by decide, by decide, by decide, by decide⟩

theorem witness_KeyCommands_6_1 : ∃ (src : CmdSrc) (r : Running) (s : State), (s.cmd? src = some r) ∧ (r.opcode = 774) ∧ (r.done = none) ∧
    (s.mbx.wait.contains src = false) ∧ (Arg r 0 > 1 ∨ Arg r 1 ≠ 10 ∧ Arg r 1 ≠ 16 ∧ Arg r 1 ≠ 32 ∨ Arg64 r 2 % 64 ≠ 0 ∨ Arg r 4 > 1048576)
    :=
  ⟨(.chan 3), (cmdOf 0x0306 [0, 12, 64, 0, 3]), (withCmd (cmdOf 0x0306 [0, 12, 64, 0, 3]) keyed), by decide, by decide, by decide,
    by decide, by decide⟩

theorem witness_KeyCommands_6_2_1 : ∃ (src : CmdSrc) (r : Running) (s : State), (s.cmd? src = some r) ∧ (r.opcode = 774) ∧ (r.done = none) ∧
    (s.mbx.wait.contains src = false) ∧ (Arg r 0 ≤ 1) ∧ (Arg r 1 = 10 ∨ Arg r 1 = 16 ∨ Arg r 1 = 32) ∧ (Arg64 r 2 % 64 = 0) ∧ (Arg r 4 ≤
    1048576) ∧ (s.workKey = none) :=
  ⟨(.chan 3), (cmdOf 0x0306 [0, 32, 64, 0, 3]),
    (withCmd (cmdOf 0x0306 [0, 32, 64, 0, 3]) { keyed with bur := { keyed.bur with work := none } }), by decide, by decide, by decide,
    by decide, by decide, by decide, by decide, by decide, by decide⟩

theorem witness_KeyCommands_6_2_2 : ∃ (src : CmdSrc) (r : Running) (s : State) (i : Nat) (k : KeyEnt), (s.cmd? src = some r) ∧ (r.opcode =
    774) ∧ (r.done = none) ∧ (s.mbx.wait.contains src = false) ∧ (Arg r 0 ≤ 1) ∧ (Arg r 1 = 10 ∨ Arg r 1 = 16 ∨ Arg r 1 = 32) ∧ (Arg64 r 2 %
    64 = 0) ∧ (Arg r 4 ≤ 1048576) ∧ (s.workKey = some (i, k)) ∧ (k.alg ≠ 1) :=
  ⟨(.chan 3), (cmdOf 0x0306 [0, 32, 64, 0, 3]),
    (withCmd (cmdOf 0x0306 [0, 32, 64, 0, 3]) { keyed with bur := { ents := [(2, { keyOf typWork keyValid 3 with alg := 3, purpose := purHost })], work := some 2 } }),
    2, { keyOf typWork keyValid 3 with alg := 3, purpose := purHost }, by decide, by decide, by decide, by decide, by decide, by decide,
    by decide, by decide, by decide, by decide⟩

theorem witness_KeyCommands_6_2_3_1 : ∃ (src : CmdSrc) (r : Running) (s : State) (i : Nat) (k : KeyEnt), (s.cmd? src = some r) ∧ (r.opcode =
    774) ∧ (r.done = none) ∧ (s.mbx.wait.contains src = false) ∧ (Arg r 0 ≤ 1) ∧ (Arg r 1 = 10 ∨ Arg r 1 = 16 ∨ Arg r 1 = 32) ∧ (Arg64 r 2 %
    64 = 0) ∧ (Arg r 4 ≤ 1048576) ∧ (s.workKey = some (i, k)) ∧ (k.alg = 1) ∧ (Arg r 0 = 0) :=
  ⟨(.chan 3), (cmdOf 0x0306 [0, 32, 64, 0, 3]), (withCmd (cmdOf 0x0306 [0, 32, 64, 0, 3]) keyed), 2,
    { keyOf typWork keyValid 3 with parent := 1, alg := 1, purpose := purHost }, by decide, by decide, by decide, by decide, by decide,
    by decide, by decide, by decide, by decide, by decide, by decide⟩

theorem witness_KeyCommands_6_2_3_2 : ∃ (src : CmdSrc) (r : Running) (s : State) (i : Nat) (k : KeyEnt), (s.cmd? src = some r) ∧ (r.opcode =
    774) ∧ (r.done = none) ∧ (s.mbx.wait.contains src = false) ∧ (Arg r 0 ≤ 1) ∧ (Arg r 1 = 10 ∨ Arg r 1 = 16 ∨ Arg r 1 = 32) ∧ (Arg64 r 2 %
    64 = 0) ∧ (Arg r 4 ≤ 1048576) ∧ (s.workKey = some (i, k)) ∧ (k.alg = 1) ∧ (Arg r 0 = 1) :=
  ⟨(.chan 3), (cmdOf 0x0306 [1, 10, 64, 0, 3]), (withCmd (cmdOf 0x0306 [1, 10, 64, 0, 3]) keyed), 2,
    { keyOf typWork keyValid 3 with parent := 1, alg := 1, purpose := purHost }, by decide, by decide, by decide, by decide, by decide,
    by decide, by decide, by decide, by decide, by decide, by decide⟩

theorem witness_KeyCommands_6_2_3_3 : ∃ (src : CmdSrc) (r : Running) (s : State) (i : Nat) (k : KeyEnt), (s.cmd? src = some r) ∧ (r.opcode =
    774) ∧ (r.done = none) ∧ (s.mbx.wait.contains src = false) ∧ (Arg r 0 ≤ 1) ∧ (Arg r 1 = 10 ∨ Arg r 1 = 16 ∨ Arg r 1 = 32) ∧ (Arg64 r 2 %
    64 = 0) ∧ (Arg r 4 ≤ 1048576) ∧ (s.workKey = some (i, k)) ∧ (k.alg = 1) :=
  ⟨(.chan 3), (cmdOf 0x0306 [1, 16, 64, 0, 3]), (withCmd (cmdOf 0x0306 [1, 16, 64, 0, 3]) keyed), 2,
    { keyOf typWork keyValid 3 with parent := 1, alg := 1, purpose := purHost }, by decide, by decide, by decide, by decide, by decide,
    by decide, by decide, by decide, by decide, by decide⟩

theorem witness_KeyCommands_7_1 : ∃ (src : CmdSrc) (r : Running) (s : State), (s.cmd? src = some r) ∧ (r.opcode = 775) ∧ (r.done = none) ∧
    (s.mbx.wait.contains src = false) ∧ (Arg r 0 > 1 ∨ Arg r 1 ≠ 8 ∧ Arg r 1 ≠ 16 ∨ Arg64 r 5 % 64 ≠ 0 ∨ Arg r 7 > 1048576) :=
  ⟨(.chan 3), (cmdOf 0x0307 [0, 12, 0, 0, 0, 64, 0, 3]),
    (withCmd (cmdOf 0x0307 [0, 12, 0, 0, 0, 64, 0, 3]) { keyed with bur := { ents := [(2, { keyOf typWork keyValid 3 with alg := 3, purpose := purHost })], work := some 2 } }),
    by decide, by decide, by decide, by decide, by decide⟩

theorem witness_KeyCommands_7_2_1 : ∃ (src : CmdSrc) (r : Running) (s : State), (s.cmd? src = some r) ∧ (r.opcode = 775) ∧ (r.done = none) ∧
    (s.mbx.wait.contains src = false) ∧ (Arg r 0 ≤ 1) ∧ (Arg r 1 = 8 ∨ Arg r 1 = 16) ∧ (Arg64 r 5 % 64 = 0) ∧ (Arg r 7 ≤ 1048576) ∧
    (s.workKey = none) :=
  ⟨(.chan 3), (cmdOf 0x0307 [0, 8, 0, 0, 0, 64, 0, 3]),
    (withCmd (cmdOf 0x0307 [0, 8, 0, 0, 0, 64, 0, 3]) { keyed with bur := { keyed.bur with work := none } }), by decide, by decide,
    by decide, by decide, by decide, by decide, by decide, by decide, by decide⟩

theorem witness_KeyCommands_7_2_2 : ∃ (src : CmdSrc) (r : Running) (s : State) (i : Nat) (k : KeyEnt), (s.cmd? src = some r) ∧ (r.opcode =
    775) ∧ (r.done = none) ∧ (s.mbx.wait.contains src = false) ∧ (Arg r 0 ≤ 1) ∧ (Arg r 1 = 8 ∨ Arg r 1 = 16) ∧ (Arg64 r 5 % 64 = 0) ∧ (Arg
    r 7 ≤ 1048576) ∧ (s.workKey = some (i, k)) ∧ (k.alg ≠ 2) ∧ (k.alg ≠ 3) :=
  ⟨(.chan 3), (cmdOf 0x0307 [0, 8, 0, 0, 0, 64, 0, 3]), (withCmd (cmdOf 0x0307 [0, 8, 0, 0, 0, 64, 0, 3]) keyed), 2,
    { keyOf typWork keyValid 3 with parent := 1, alg := 1, purpose := purHost }, by decide, by decide, by decide, by decide, by decide,
    by decide, by decide, by decide, by decide, by decide, by decide⟩

theorem witness_KeyCommands_7_2_3_1 : ∃ (src : CmdSrc) (r : Running) (s : State) (i : Nat) (k : KeyEnt), (s.cmd? src = some r) ∧ (r.opcode =
    775) ∧ (r.done = none) ∧ (s.mbx.wait.contains src = false) ∧ (Arg r 0 ≤ 1) ∧ (Arg r 1 = 8 ∨ Arg r 1 = 16) ∧ (Arg64 r 5 % 64 = 0) ∧ (Arg
    r 7 ≤ 1048576) ∧ (s.workKey = some (i, k)) ∧ (k.alg = 2 ∨ k.alg = 3) ∧ (Arg r 0 = 0) :=
  ⟨(.chan 3), (cmdOf 0x0307 [0, 8, 0, 0, 0, 64, 0, 3]),
    (withCmd (cmdOf 0x0307 [0, 8, 0, 0, 0, 64, 0, 3]) { keyed with bur := { ents := [(2, { keyOf typWork keyValid 3 with alg := 3, purpose := purHost })], work := some 2 } }),
    2, { keyOf typWork keyValid 3 with alg := 3, purpose := purHost }, by decide, by decide, by decide, by decide, by decide, by decide,
    by decide, by decide, by decide, by decide, by decide⟩

theorem witness_KeyCommands_7_2_3_2 : ∃ (src : CmdSrc) (r : Running) (s : State) (i : Nat) (k : KeyEnt), (s.cmd? src = some r) ∧ (r.opcode =
    775) ∧ (r.done = none) ∧ (s.mbx.wait.contains src = false) ∧ (Arg r 0 ≤ 1) ∧ (Arg r 1 = 8 ∨ Arg r 1 = 16) ∧ (Arg64 r 5 % 64 = 0) ∧ (Arg
    r 7 ≤ 1048576) ∧ (s.workKey = some (i, k)) ∧ (k.alg = 2 ∨ k.alg = 3) ∧ (Arg r 0 = 1) :=
  ⟨(.chan 3), (cmdOf 0x0307 [1, 16, 0, 0, 0, 64, 0, 3]),
    (withCmd (cmdOf 0x0307 [1, 16, 0, 0, 0, 64, 0, 3]) { keyed with bur := { ents := [(2, { keyOf typWork keyValid 3 with alg := 3, purpose := purHost })], work := some 2 } }),
    2, { keyOf typWork keyValid 3 with alg := 3, purpose := purHost }, by decide, by decide, by decide, by decide, by decide, by decide,
    by decide, by decide, by decide, by decide, by decide⟩

theorem witness_KeyCommands_7_2_3_3 : ∃ (src : CmdSrc) (r : Running) (s : State) (i : Nat) (k : KeyEnt), (s.cmd? src = some r) ∧ (r.opcode =
    775) ∧ (r.done = none) ∧ (s.mbx.wait.contains src = false) ∧ (Arg r 0 ≤ 1) ∧ (Arg r 1 = 8 ∨ Arg r 1 = 16) ∧ (Arg64 r 5 % 64 = 0) ∧ (Arg
    r 7 ≤ 1048576) ∧ (s.workKey = some (i, k)) ∧ (k.alg = 2 ∨ k.alg = 3) :=
  ⟨(.chan 3), (cmdOf 0x0307 [1, 16, 0, 0, 0, 64, 0, 3]),
    (withCmd (cmdOf 0x0307 [1, 16, 0, 0, 0, 64, 0, 3]) { keyed with bur := { ents := [(2, { keyOf typWork keyValid 3 with alg := 3, purpose := purHost })], work := some 2 } }),
    2, { keyOf typWork keyValid 3 with alg := 3, purpose := purHost }, by decide, by decide, by decide, by decide, by decide, by decide,
    by decide, by decide, by decide, by decide⟩

theorem witness_StoreCommands_1_1 : ∃ (src : CmdSrc) (r : Running) (s : State), (s.cmd? src = some r) ∧ (r.opcode = 1025) ∧ (r.done = none)
    ∧ (s.mbx.wait.contains src = false) ∧ (Arg r 2 < 1 ∨ 65536 < Arg r 2 ∨ Arg64 r 3 % 64 ≠ 0 ∨ Arg r 5 < 256 ∨ 67108864 < Arg r 5) :=
  ⟨(.chan 3), (cmdOf 0x0401 [0, 0, 0, 64, 0, 256]), (withCmd (cmdOf 0x0401 [0, 0, 0, 64, 0, 256]) fullPage), by decide, by decide,
    by decide, by decide, by decide⟩

theorem witness_StoreCommands_1_2_1 : ∃ (src : CmdSrc) (r : Running) (a : CopyAcc) (s : State), (s.cmd? src = some r) ∧ (r.opcode = 1025) ∧
    (r.done = none) ∧ (s.mbx.wait.contains src = false) ∧ (1 ≤ Arg r 2) ∧ (Arg r 2 ≤ 65536) ∧ (Arg64 r 3 % 64 = 0) ∧ (256 ≤ Arg r 5) ∧ (Arg
    r 5 ≤ 67108864) ∧ (a = copyRecs s (Arg r 2) (Arg r 5) (s.mram.chs.nextSeq - Arg64 r 0) { next := Arg64 r 0 }) :=
  ⟨(.chan 3), (cmdOf 0x0401 [0, 0, 65536, 64, 0, 256]),
    (copyRecs (withCmd (cmdOf 0x0401 [0, 0, 65536, 64, 0, 256]) fullPage) 65536 256 19 { next := 0 }),
    (withCmd (cmdOf 0x0401 [0, 0, 65536, 64, 0, 256]) fullPage), by decide, by decide, by decide, by decide, by decide, by decide, by decide,
    by decide, by decide, rfl⟩

theorem witness_StoreCommands_1_2_2 : ∃ (src : CmdSrc) (r : Running) (s : State), (s.cmd? src = some r) ∧ (r.opcode = 1025) ∧ (r.done =
    none) ∧ (s.mbx.wait.contains src = false) ∧ (1 ≤ Arg r 2) ∧ (Arg r 2 ≤ 65536) ∧ (Arg64 r 3 % 64 = 0) ∧ (256 ≤ Arg r 5) ∧ (Arg r 5 ≤
    67108864) :=
  ⟨(.chan 3), (cmdOf 0x0401 [0, 0, 65536, 64, 0, 256]), (withCmd (cmdOf 0x0401 [0, 0, 65536, 64, 0, 256]) fullPage), by decide, by decide,
    by decide, by decide, by decide, by decide, by decide, by decide, by decide⟩

theorem witness_StoreCommands_2_1 : ∃ (src : CmdSrc) (r : Running) (s : State), (s.cmd? src = some r) ∧ (r.opcode = 1026) ∧ (r.done = none)
    ∧ (s.mbx.wait.contains src = false) ∧ (Arg64 r 0 % 64 ≠ 0 ∨ Arg r 2 < 4096) :=
  ⟨(.chan 3), (cmdOf 0x0402 [64, 0, 4095]), (withCmd (cmdOf 0x0402 [64, 0, 4095]) running), by decide, by decide, by decide, by decide,
    by decide⟩

set_option maxRecDepth 20000 in
theorem witness_StoreCommands_2_2 : ∃ (src : CmdSrc) (r : Running) (b : List Byte) (s : State), (s.cmd? src = some r) ∧ (r.opcode = 1026) ∧
    (r.done = none) ∧ (s.mbx.wait.contains src = false) ∧ (Arg64 r 0 % 64 = 0) ∧ (4096 ≤ Arg r 2) ∧ (b = (List.map recBytes
    s.mram.chs.lid).flatten) :=
  ⟨(.chan 3), (cmdOf 0x0402 [64, 0, 4096]), (recBytes (chestRec 0 0x0A)),
    (withCmd (cmdOf 0x0402 [64, 0, 4096]) { running with mram := { chs := { lid := [chestRec 0 0x0A], nextSeq := 1 } } }), by decide,
    by decide, by decide, by decide, by decide, by decide, by decide⟩

theorem witness_StoreCommands_3_1 : ∃ (src : CmdSrc) (r : Running) (s : State), (s.cmd? src = some r) ∧ (r.opcode = 1281) ∧ (r.done = none)
    ∧ (s.mbx.wait.contains src = false) ∧ (Arg r 0 ≥ 4 ∨ s.snrCfg? (Arg r 0) = none) :=
  ⟨(.chan 3), (cmdOf 0x0501 [4]), (withCmd (cmdOf 0x0501 [4]) (snareState snrArmed)), by decide, by decide, by decide, by decide, by decide⟩

theorem witness_StoreCommands_3_2_1 : ∃ (src : CmdSrc) (r : Running) (s : State) (c : SnrDefCfg), (s.cmd? src = some r) ∧ (r.opcode = 1281)
    ∧ (r.done = none) ∧ (s.mbx.wait.contains src = false) ∧ (Arg r 0 < 4) ∧ (s.snrCfg? (Arg r 0) = some c) ∧ (s.snr.defs.length = 4) ∧
    (s.ticking = false) :=
  ⟨(.chan 3), (cmdOf 0x0501 [0]), (withCmd (cmdOf 0x0501 [0]) ((snareState snrArmed).wr fCLV_STS_TICKING 0)), snareDef, by decide,
    by decide, by decide, by decide, by decide, by decide, by decide, by decide⟩

theorem witness_StoreCommands_3_2_2 : ∃ (src : CmdSrc) (r : Running) (s : State) (c : SnrDefCfg), (s.cmd? src = some r) ∧ (r.opcode = 1281)
    ∧ (r.done = none) ∧ (s.mbx.wait.contains src = false) ∧ (Arg r 0 < 4) ∧ (s.snrCfg? (Arg r 0) = some c) ∧ (s.snr.defs.length = 4) ∧
    (s.ticking = true) ∧ (s.rd (fSNR_DEF_STS_STATE (Arg r 0)) = snrArmed) ∧ (SnrTerm.host ∈ c.terms) :=
  ⟨(.chan 3), (cmdOf 0x0501 [0]), (withCmd (cmdOf 0x0501 [0]) (snareState snrArmed)), snareDef, by decide, by decide, by decide, by decide,
    by decide, by decide, by decide, by decide, by decide, by decide⟩

theorem witness_StoreCommands_3_2_3 : ∃ (src : CmdSrc) (r : Running) (s : State) (c : SnrDefCfg), (s.cmd? src = some r) ∧ (r.opcode = 1281)
    ∧ (r.done = none) ∧ (s.mbx.wait.contains src = false) ∧ (Arg r 0 < 4) ∧ (s.snrCfg? (Arg r 0) = some c) ∧ (s.snr.defs.length = 4) ∧
    (s.ticking = true) ∧ (s.rd (fSNR_DEF_STS_STATE (Arg r 0)) = snrTriggered) :=
  ⟨(.chan 3), (cmdOf 0x0501 [0]), (withCmd (cmdOf 0x0501 [0]) (withSnr { t0 := 5, cfg := some snareDef } (snareState snrTriggered))),
    snareDef, by decide, by decide, by decide, by decide, by decide, by decide, by decide, by decide, by decide⟩

theorem witness_StoreCommands_3_2_4 : ∃ (src : CmdSrc) (r : Running) (s : State) (c : SnrDefCfg), (s.cmd? src = some r) ∧ (r.opcode = 1281)
    ∧ (r.done = none) ∧ (s.mbx.wait.contains src = false) ∧ (Arg r 0 < 4) ∧ (s.snrCfg? (Arg r 0) = some c) ∧ (s.snr.defs.length = 4) ∧
    (s.ticking = true) ∧ (s.rd (fSNR_DEF_STS_STATE (Arg r 0)) = snrIdle ∨ s.rd (fSNR_DEF_STS_STATE (Arg r 0)) = snrComplete) :=
  ⟨(.chan 3), (cmdOf 0x0501 [0]), (withCmd (cmdOf 0x0501 [0]) (snareState snrIdle)), snareDef, by decide, by decide, by decide, by decide,
    by decide, by decide, by decide, by decide, by decide⟩

theorem witness_StoreCommands_4_1 : ∃ (src : CmdSrc) (r : Running) (s : State), (s.cmd? src = some r) ∧ (r.opcode = 1282) ∧ (r.done = none)
    ∧ (s.mbx.wait.contains src = false) ∧ (r.memo ≠ []) :=
  ⟨(.chan 3), (cmdOf 0x0502 [0, 1] [7]), (withCmd (cmdOf 0x0502 [0, 1] [7]) (withSnr { cfg := some snareDef } (snareState snrComplete))),
    by decide, by decide, by decide, by decide, by decide⟩

theorem witness_StoreCommands_4_2 : ∃ (src : CmdSrc) (r : Running) (s : State), (s.cmd? src = some r) ∧ (r.opcode = 1282) ∧ (r.done = none)
    ∧ (s.mbx.wait.contains src = false) ∧ (r.memo = []) ∧ (Arg r 0 ≥ 4 ∨ Arg r 1 > 1 ∨ Arg r 1 = 0 ∧ Arg64 r 2 % 64 ≠ 0) :=
  ⟨(.chan 3), (cmdOf 0x0502 [0, 0, 63]), (withCmd (cmdOf 0x0502 [0, 0, 63]) (withSnr { cfg := some snareDef } (snareState snrComplete))),
    by decide, by decide, by decide, by decide, by decide, by decide⟩

theorem witness_StoreCommands_4_3_1 : ∃ (src : CmdSrc) (r : Running) (s : State), (s.cmd? src = some r) ∧ (r.opcode = 1282) ∧ (r.done =
    none) ∧ (s.mbx.wait.contains src = false) ∧ (r.memo = []) ∧ (Arg r 0 < 4) ∧ (Arg r 1 ≤ 1) ∧ (Arg r 1 = 0 → Arg64 r 2 % 64 = 0) ∧
    ((s.snrDef (Arg r 0)).cfg = none ∨ s.rd (fSNR_DEF_STS_STATE (Arg r 0)) ≠ snrComplete) :=
  ⟨(.chan 3), (cmdOf 0x0502 [0, 1]), (withCmd (cmdOf 0x0502 [0, 1]) (snareState snrArmed)), by decide, by decide, by decide, by decide,
    by decide, by decide, by decide, by decide, by decide⟩

theorem witness_StoreCommands_4_3_2_1 : ∃ (src : CmdSrc) (r : Running) (s : State) (c : SnrDefCfg), (s.cmd? src = some r) ∧ (r.opcode =
    1282) ∧ (r.done = none) ∧ (s.mbx.wait.contains src = false) ∧ (r.memo = []) ∧ (Arg r 0 < 4) ∧ (Arg r 1 ≤ 1) ∧ (Arg r 1 = 0 → Arg64 r 2 %
    64 = 0) ∧ ((s.snrDef (Arg r 0)).cfg = some c) ∧ (s.rd (fSNR_DEF_STS_STATE (Arg r 0)) = snrComplete) ∧ (s.snrPending (Arg r 0) = true) :=
  ⟨(.chan 3), (cmdOf 0x0502 [0, 1]),
    (withCmd (cmdOf 0x0502 [0, 1]) { withSnr { cfg := some snareDef } (snareState snrComplete) with snr := { (withSnr { cfg := some snareDef, first := 9999, last := 10003 } (snareState snrComplete)).snr with queue := [(0, snrRow0)] } }),
    snareDef, by decide, by decide, by decide, by decide, by decide, by decide, by decide, by decide, by decide, by decide, by decide⟩

set_option maxRecDepth 20000 in
theorem witness_StoreCommands_4_3_2_2_1 : ∃ (src : CmdSrc) (r : Running) (s : State) (c : SnrDefCfg), (s.cmd? src = some r) ∧ (r.opcode =
    1282) ∧ (r.done = none) ∧ (s.mbx.wait.contains src = false) ∧ (r.memo = []) ∧ (Arg r 0 < 4) ∧ (Arg r 1 ≤ 1) ∧ (Arg r 1 = 0 → Arg64 r 2 %
    64 = 0) ∧ ((s.snrDef (Arg r 0)).cfg = some c) ∧ (s.rd (fSNR_DEF_STS_STATE (Arg r 0)) = snrComplete) ∧ (s.snrPending (Arg r 0) = false) ∧
    (Arg r 1 = 0) ∧ (List.length (s.snrFileBytes (Arg r 0) c) > Arg r 4) :=
  ⟨(.chan 3), (cmdOf 0x0502 [0, 0, 64, 0, 10]),
    (withCmd (cmdOf 0x0502 [0, 0, 64, 0, 10]) (withSnr { cfg := some snareDef } (snareState snrComplete))), snareDef, by decide, by decide,
    by decide, by decide, by decide, by decide, by decide, by decide, by decide, by decide, by decide, by decide, by decide⟩

set_option maxRecDepth 20000 in
theorem witness_StoreCommands_4_3_2_2_2_1 : ∃ (src : CmdSrc) (r : Running) (s : State) (c : SnrDefCfg), (s.cmd? src = some r) ∧ (r.opcode =
    1282) ∧ (r.done = none) ∧ (s.mbx.wait.contains src = false) ∧ (r.memo = []) ∧ (Arg r 0 < 4) ∧ (Arg r 1 ≤ 1) ∧ (Arg r 1 = 0 → Arg64 r 2 %
    64 = 0) ∧ ((s.snrDef (Arg r 0)).cfg = some c) ∧ (s.rd (fSNR_DEF_STS_STATE (Arg r 0)) = snrComplete) ∧ (s.snrPending (Arg r 0) = false) ∧
    (Arg r 1 = 0) ∧ (List.length (s.snrFileBytes (Arg r 0) c) ≤ Arg r 4) :=
  ⟨(.chan 3), (cmdOf 0x0502 [0, 0, 64, 0, 100000]),
    (withCmd (cmdOf 0x0502 [0, 0, 64, 0, 100000]) (withSnr { cfg := some snareDef } (snareState snrComplete))), snareDef, by decide,
    by decide, by decide, by decide, by decide, by decide, by decide, by decide, by decide, by decide, by decide, by decide, by decide⟩

set_option maxRecDepth 20000 in
theorem witness_StoreCommands_4_3_2_2_2_2 : ∃ (src : CmdSrc) (r : Running) (s : State) (c : SnrDefCfg), (s.cmd? src = some r) ∧ (r.opcode =
    1282) ∧ (r.done = none) ∧ (s.mbx.wait.contains src = false) ∧ (r.memo = []) ∧ (Arg r 0 < 4) ∧ (Arg r 1 ≤ 1) ∧ (Arg r 1 = 0 → Arg64 r 2 %
    64 = 0) ∧ ((s.snrDef (Arg r 0)).cfg = some c) ∧ (s.rd (fSNR_DEF_STS_STATE (Arg r 0)) = snrComplete) ∧ (s.snrPending (Arg r 0) = false) ∧
    (Arg r 1 = 0) ∧ (List.length (s.snrFileBytes (Arg r 0) c) ≤ Arg r 4) :=
  ⟨(.chan 3), (cmdOf 0x0502 [0, 0, 64, 0, 100000]),
    (withCmd (cmdOf 0x0502 [0, 0, 64, 0, 100000]) (withSnr { cfg := some snareDef } (snareState snrComplete))), snareDef, by decide,
    by decide, by decide, by decide, by decide, by decide, by decide, by decide, by decide, by decide, by decide, by decide, by decide⟩

set_option maxRecDepth 20000 in
theorem witness_StoreCommands_4_3_2_3_1 : ∃ (src : CmdSrc) (r : Running) (s : State) (c : SnrDefCfg), (s.cmd? src = some r) ∧ (r.opcode =
    1282) ∧ (r.done = none) ∧ (s.mbx.wait.contains src = false) ∧ (r.memo = []) ∧ (Arg r 0 < 4) ∧ (Arg r 1 ≤ 1) ∧ (Arg r 1 = 0 → Arg64 r 2 %
    64 = 0) ∧ ((s.snrDef (Arg r 0)).cfg = some c) ∧ (s.rd (fSNR_DEF_STS_STATE (Arg r 0)) = snrComplete) ∧ (s.snrPending (Arg r 0) = false) ∧
    (Arg r 1 = 1) ∧ (List.length (s.snrFileBytes (Arg r 0) c) ≤ s.snrFree) :=
  ⟨(.chan 3), (cmdOf 0x0502 [0, 1]), (withCmd (cmdOf 0x0502 [0, 1]) (withSnr { cfg := some snareDef } (snareState snrComplete))), snareDef,
    by decide, by decide, by decide, by decide, by decide, by decide, by decide, by decide, by decide, by decide, by decide, by decide,
    by decide⟩

set_option maxRecDepth 20000 in
theorem witness_StoreCommands_4_3_2_3_2 : ∃ (src : CmdSrc) (r : Running) (s : State) (c : SnrDefCfg), (s.cmd? src = some r) ∧ (r.opcode =
    1282) ∧ (r.done = none) ∧ (s.mbx.wait.contains src = false) ∧ (r.memo = []) ∧ (Arg r 0 < 4) ∧ (Arg r 1 ≤ 1) ∧ (Arg r 1 = 0 → Arg64 r 2 %
    64 = 0) ∧ ((s.snrDef (Arg r 0)).cfg = some c) ∧ (s.rd (fSNR_DEF_STS_STATE (Arg r 0)) = snrComplete) ∧ (s.snrPending (Arg r 0) = false) ∧
    (Arg r 1 = 1) ∧ (List.length (s.snrFileBytes (Arg r 0) c) > s.snrFree) :=
  ⟨(.chan 3), (cmdOf 0x0502 [0, 1]),
    (withCmd (cmdOf 0x0502 [0, 1]) { withSnr { cfg := some snareDef } (snareState snrComplete) with img := some { snareImg with snareNandMib := 0 } }),
    snareDef, by decide, by decide, by decide, by decide, by decide, by decide, by decide, by decide, by decide, by decide, by decide,
    by decide, by decide⟩

theorem witness_StoreCommands_5_1 : ∃ (src : CmdSrc) (r : Running) (s : State), (s.cmd? src = some r) ∧ (r.opcode = 1283) ∧ (r.done = none)
    ∧ (s.mbx.wait.contains src = false) ∧ (Arg64 r 0 % 64 ≠ 0) :=
  ⟨(.chan 3), (cmdOf 0x0503 [63, 0, 32]), (withCmd (cmdOf 0x0503 [63, 0, 32]) { running with nand := { snr := [snrFile0] } }), by decide,
    by decide, by decide, by decide, by decide⟩

theorem witness_StoreCommands_5_2 : ∃ (src : CmdSrc) (r : Running) (s : State), (s.cmd? src = some r) ∧ (r.opcode = 1283) ∧ (r.done = none)
    ∧ (s.mbx.wait.contains src = false) ∧ (Arg64 r 0 % 64 = 0) ∧ (Arg r 2 < 32 * s.nand.snr.length) :=
  ⟨(.chan 3), (cmdOf 0x0503 [64, 0, 31]), (withCmd (cmdOf 0x0503 [64, 0, 31]) { running with nand := { snr := [snrFile0] } }), by decide,
    by decide, by decide, by decide, by decide, by decide⟩

theorem witness_StoreCommands_5_3 : ∃ (src : CmdSrc) (r : Running) (b : List Byte) (s : State), (s.cmd? src = some r) ∧ (r.opcode = 1283) ∧
    (r.done = none) ∧ (s.mbx.wait.contains src = false) ∧ (Arg64 r 0 % 64 = 0) ∧ (32 * s.nand.snr.length ≤ Arg r 2) ∧ (b = (List.map
    fileEntry s.nand.snr).flatten) :=
  ⟨(.chan 3), (cmdOf 0x0503 [64, 0, 32]), (fileEntry snrFile0),
    (withCmd (cmdOf 0x0503 [64, 0, 32]) { running with nand := { snr := [snrFile0] } }), by decide, by decide, by decide, by decide,
    by decide, by decide, by decide⟩

theorem witness_StoreCommands_6_1 : ∃ (src : CmdSrc) (r : Running) (s : State), (s.cmd? src = some r) ∧ (r.opcode = 1284) ∧ (r.done = none)
    ∧ (s.mbx.wait.contains src = false) ∧ (List.find? (fun f => decide (f.number = Arg r 0)) s.nand.snr = none ∨ Arg64 r 1 % 64 ≠ 0) :=
  ⟨(.chan 3), (cmdOf 0x0504 [2, 64, 0, 2]), (withCmd (cmdOf 0x0504 [2, 64, 0, 2]) { running with nand := { snr := [snrFile0] } }),
    by decide, by decide, by decide, by decide, by decide⟩

theorem witness_StoreCommands_6_2_1 : ∃ (src : CmdSrc) (r : Running) (s : State) (f : SnrFile), (s.cmd? src = some r) ∧ (r.opcode = 1284) ∧
    (r.done = none) ∧ (s.mbx.wait.contains src = false) ∧ (List.find? (fun f => decide (f.number = Arg r 0)) s.nand.snr = some f) ∧ (Arg64 r
    1 % 64 = 0) ∧ (List.length f.bytes > Arg r 3) :=
  ⟨(.chan 3), (cmdOf 0x0504 [1, 64, 0, 1]), (withCmd (cmdOf 0x0504 [1, 64, 0, 1]) { running with nand := { snr := [snrFile0] } }), snrFile0,
    by decide, by decide, by decide, by decide, by decide, by decide, by decide⟩

theorem witness_StoreCommands_6_2_2_1 : ∃ (src : CmdSrc) (r : Running) (s : State) (f : SnrFile), (s.cmd? src = some r) ∧ (r.opcode = 1284)
    ∧ (r.done = none) ∧ (s.mbx.wait.contains src = false) ∧ (List.find? (fun f => decide (f.number = Arg r 0)) s.nand.snr = some f) ∧ (Arg64
    r 1 % 64 = 0) ∧ (List.length f.bytes ≤ Arg r 3) :=
  ⟨(.chan 3), (cmdOf 0x0504 [1, 64, 0, 2]), (withCmd (cmdOf 0x0504 [1, 64, 0, 2]) { running with nand := { snr := [snrFile0] } }), snrFile0,
    by decide, by decide, by decide, by decide, by decide, by decide, by decide⟩

theorem witness_StoreCommands_6_2_2_2 : ∃ (src : CmdSrc) (r : Running) (s : State) (f : SnrFile), (s.cmd? src = some r) ∧ (r.opcode = 1284)
    ∧ (r.done = none) ∧ (s.mbx.wait.contains src = false) ∧ (List.find? (fun f => decide (f.number = Arg r 0)) s.nand.snr = some f) ∧ (Arg64
    r 1 % 64 = 0) ∧ (List.length f.bytes ≤ Arg r 3) :=
  ⟨(.chan 3), (cmdOf 0x0504 [1, 64, 0, 2]), (withCmd (cmdOf 0x0504 [1, 64, 0, 2]) { running with nand := { snr := [snrFile0] } }), snrFile0,
    by decide, by decide, by decide, by decide, by decide, by decide, by decide⟩

theorem witness_StoreCommands_7_1 : ∃ (src : CmdSrc) (r : Running) (s : State), (s.cmd? src = some r) ∧ (r.opcode = 1285) ∧ (r.done = none)
    ∧ (s.mbx.wait.contains src = false) ∧ (Arg r 0 = 4294967295) :=
  ⟨(.chan 3), (cmdOf 0x0505 [0xFFFFFFFF]), (withCmd (cmdOf 0x0505 [0xFFFFFFFF]) { running with nand := { snr := [snrFile0] } }), by decide,
    by decide, by decide, by decide, by decide⟩

theorem witness_StoreCommands_7_2 : ∃ (src : CmdSrc) (r : Running) (s : State), (s.cmd? src = some r) ∧ (r.opcode = 1285) ∧ (r.done = none)
    ∧ (s.mbx.wait.contains src = false) ∧ (Arg r 0 ≠ 4294967295) ∧ (∃ f ∈ s.nand.snr, f.number = Arg r 0) :=
  ⟨(.chan 3), (cmdOf 0x0505 [1]), (withCmd (cmdOf 0x0505 [1]) { running with nand := { snr := [snrFile0] } }), by decide, by decide,
    by decide, by decide, by decide, by decide⟩

theorem witness_StoreCommands_7_3 : ∃ (src : CmdSrc) (r : Running) (s : State), (s.cmd? src = some r) ∧ (r.opcode = 1285) ∧ (r.done = none)
    ∧ (s.mbx.wait.contains src = false) ∧ (Arg r 0 ≠ 4294967295) ∧ (∀ f ∈ s.nand.snr, f.number ≠ Arg r 0) :=
  ⟨(.chan 3), (cmdOf 0x0505 [2]), (withCmd (cmdOf 0x0505 [2]) { running with nand := { snr := [snrFile0] } }), by decide, by decide,
    by decide, by decide, by decide, by decide⟩

theorem witness_StoreCommands_8_1 : ∃ (src : CmdSrc) (r : Running) (s : State), (s.cmd? src = some r) ∧ (r.opcode = 1537) ∧ (r.done = none)
    ∧ (s.mbx.wait.contains src = false) ∧ (r.memo ≠ []) :=
  ⟨(.chan 3), (cmdOf 0x0601 [0] [5]), (withCmd (cmdOf 0x0601 [0] [5]) accState), by decide, by decide, by decide, by decide, by decide⟩

theorem witness_StoreCommands_8_2 : ∃ (src : CmdSrc) (r : Running) (s : State), (s.cmd? src = some r) ∧ (r.opcode = 1537) ∧ (r.done = none)
    ∧ (s.mbx.wait.contains src = false) ∧ (r.memo = []) ∧ (511 < Arg r 0) ∧ (Arg r 0 ≠ 65535) :=
  ⟨(.chan 3), (cmdOf 0x0601 [512]), (withCmd (cmdOf 0x0601 [512]) accState), by decide, by decide, by decide, by decide, by decide,
    by decide, by decide⟩

theorem witness_StoreCommands_8_3 : ∃ (src : CmdSrc) (r : Running) (s : State), (s.cmd? src = some r) ∧ (r.opcode = 1537) ∧ (r.done = none)
    ∧ (s.mbx.wait.contains src = false) ∧ (r.memo = []) ∧ (Arg r 0 = 65535 ∨ Arg r 0 ≤ 511) ∧ (s.img = none) :=
  ⟨(.chan 3), (cmdOf 0x0601 [511]), (withCmd (cmdOf 0x0601 [511]) running), by decide, by decide, by decide, by decide, by decide,
    by decide, by decide⟩

theorem witness_StoreCommands_8_4_1 : ∃ (src : CmdSrc) (r : Running) (s : State) (im : Image), (s.cmd? src = some r) ∧ (r.opcode = 1537) ∧
    (r.done = none) ∧ (s.mbx.wait.contains src = false) ∧ (r.memo = []) ∧ (s.img = some im) ∧ (Arg r 0 ≠ 65535) ∧ (im.acc.cuts.length ≤ Arg
    r 0) :=
  ⟨(.chan 3), (cmdOf 0x0601 [1]), (withCmd (cmdOf 0x0601 [1]) accState), accImg, by decide, by decide, by decide, by decide, by decide,
    by decide, by decide, by decide⟩

theorem witness_StoreCommands_8_4_2_1 : ∃ (src : CmdSrc) (r : Running) (s : State) (im : Image), (s.cmd? src = some r) ∧ (r.opcode = 1537) ∧
    (r.done = none) ∧ (s.mbx.wait.contains src = false) ∧ (r.memo = []) ∧ (s.img = some im) ∧ (Arg r 0 = 65535 ∨ Arg r 0 < min 512
    im.acc.cuts.length) ∧ (s.ticking = false ∨ s.pairRefuses r = true) :=
  ⟨(.chan 3), (cmdOf 0x0601 [0]), (withCmd (cmdOf 0x0601 [0]) (accState.wr fCLV_STS_TICKING 0)), accImg, by decide, by decide, by decide,
    by decide, by decide, by decide, by decide, by decide⟩

theorem witness_StoreCommands_8_4_2_2 : ∃ (src : CmdSrc) (r : Running) (s : State) (im : Image), (s.cmd? src = some r) ∧ (r.opcode = 1537) ∧
    (r.done = none) ∧ (s.mbx.wait.contains src = false) ∧ (r.memo = []) ∧ (s.img = some im) ∧ (Arg r 0 = 65535 ∨ Arg r 0 < min 512
    im.acc.cuts.length) ∧ (s.ticking = true) ∧ (s.pairRefuses r = false) ∧ (s.pairTells r = false) :=
  ⟨(.chan 3), (cmdOf 0x0601 [0]), (withCmd (cmdOf 0x0601 [0]) accState), accImg, by decide, by decide, by decide, by decide, by decide,
    by decide, by decide, by decide, by decide, by decide⟩

theorem witness_StoreCommands_8_4_2_2b : ∃ (src : CmdSrc) (r : Running) (s : State) (im : Image), (s.cmd? src = some r) ∧ (r.opcode = 1537)
    ∧ (r.done = none) ∧ (s.mbx.wait.contains src = false) ∧ (r.memo = []) ∧ (s.img = some im) ∧ (Arg r 0 = 65535 ∨ Arg r 0 < min 512
    im.acc.cuts.length) ∧ (s.ticking = true) ∧ (s.pairRefuses r = false) ∧ (s.pairTells r = false) :=
  ⟨(.chan 3), (cmdOf 0x0601 [0xFFFF]), (withCmd (cmdOf 0x0601 [0xFFFF]) accState), accImg, by decide, by decide, by decide, by decide,
    by decide, by decide, by decide, by decide, by decide, by decide⟩

theorem witness_StoreCommands_8_4_2_3 : ∃ (src : CmdSrc) (r : Running) (s : State) (im : Image), (s.cmd? src = some r) ∧ (r.opcode = 1537) ∧
    (r.done = none) ∧ (s.mbx.wait.contains src = false) ∧ (r.memo = []) ∧ (s.img = some im) ∧ (Arg r 0 = 65535 ∨ Arg r 0 < min 512
    im.acc.cuts.length) ∧ (s.ticking = true) ∧ (s.pairRefuses r = false) ∧ (s.pairTells r = true) :=
  ⟨(.chan 3), (cmdOf 0x0601 [0xFFFF]),
    (withCmd (cmdOf 0x0601 [0xFFFF]) { paired roleActive with img := some { pairImg with acc := accImg.acc } }),
    { pairImg with acc := accImg.acc }, by decide, by decide, by decide, by decide, by decide, by decide, by decide, by decide, by decide,
    by decide⟩

theorem witness_PairCommands_1_1 : ∃ (src : CmdSrc) (r : Running) (s : State), (s.cmd? src = some r) ∧ (r.opcode = 1793) ∧ (r.done = none) ∧
    (s.mbx.wait.contains src = false) ∧ (r.memo ≠ []) :=
  ⟨(.chan 3), (cmdOf 0x0701 [] [7]),
    (withCmd (cmdOf 0x0701 [] [7]) ((paired roleActive).wr fPAIR_STS_PARTNER_ROLE roleStandby |>.wr fPAIR_STS_PARTNER_FIT 1)), by decide,
    by decide, by decide, by decide, by decide⟩

theorem witness_PairCommands_1_2 : ∃ (src : CmdSrc) (r : Running) (s : State), (s.cmd? src = some r) ∧ (r.opcode = 1793) ∧ (r.done = none) ∧
    (s.mbx.wait.contains src = false) ∧ (r.memo = []) ∧ (s.paired = true) ∧ (s.role = roleActive) ∧ (s.rd fPAIR_STS_PARTNER_ROLE =
    roleStandby) ∧ (s.partnerFit = true) :=
  ⟨(.chan 3), (cmdOf 0x0701 []),
    (withCmd (cmdOf 0x0701 []) ((paired roleActive).wr fPAIR_STS_PARTNER_ROLE roleStandby |>.wr fPAIR_STS_PARTNER_FIT 1)), by decide,
    by decide, by decide, by decide, by decide, by decide, by decide, by decide, by decide⟩

theorem witness_PairCommands_1_3 : ∃ (src : CmdSrc) (r : Running) (s : State), (s.cmd? src = some r) ∧ (r.opcode = 1793) ∧ (r.done = none) ∧
    (s.mbx.wait.contains src = false) ∧ (r.memo = []) ∧ (s.paired = false ∨ s.role ≠ roleActive ∨ s.rd fPAIR_STS_PARTNER_ROLE ≠ roleStandby
    ∨ s.partnerFit = false) :=
  ⟨(.chan 3), (cmdOf 0x0701 []), (withCmd (cmdOf 0x0701 []) (paired roleStandby)), by decide, by decide, by decide, by decide, by decide,
    by decide⟩

theorem witness_PairCommands_2_1 : ∃ (src : CmdSrc) (r : Running) (s : State), (s.cmd? src = some r) ∧ (r.opcode = 1794) ∧ (r.done = none) ∧
    (s.mbx.wait.contains src = false) ∧ (r.memo ≠ []) :=
  ⟨(.chan 3), (cmdOf 0x0702 [1] [1]), (withCmd (cmdOf 0x0702 [1] [1]) (paired roleUnsynced)), by decide, by decide, by decide, by decide,
    by decide⟩

theorem witness_PairCommands_2_2 : ∃ (src : CmdSrc) (r : Running) (s : State), (s.cmd? src = some r) ∧ (r.opcode = 1794) ∧ (r.done = none) ∧
    (s.mbx.wait.contains src = false) ∧ (r.memo = []) ∧ (s.paired = false ∨ s.role ≠ roleUnsynced ∧ s.role ≠ roleSeeking) :=
  ⟨(.chan 3), (cmdOf 0x0702 [1]), (withCmd (cmdOf 0x0702 [1]) (paired roleStandby)), by decide, by decide, by decide, by decide, by decide,
    by decide⟩

theorem witness_PairCommands_2_3_1 : ∃ (src : CmdSrc) (r : Running) (s : State), (s.cmd? src = some r) ∧ (r.opcode = 1794) ∧ (r.done = none)
    ∧ (s.mbx.wait.contains src = false) ∧ (r.memo = []) ∧ (s.paired = true) ∧ (s.role = roleUnsynced ∨ s.role = roleSeeking) ∧ (Arg r 0 % 2
    = 0) :=
  ⟨(.chan 3), (cmdOf 0x0702 [0]), (withCmd (cmdOf 0x0702 [0]) (paired roleUnsynced)), by decide, by decide, by decide, by decide, by decide,
    by decide, by decide, by decide⟩

theorem witness_PairCommands_2_3_2 : ∃ (src : CmdSrc) (r : Running) (s : State), (s.cmd? src = some r) ∧ (r.opcode = 1794) ∧ (r.done = none)
    ∧ (s.mbx.wait.contains src = false) ∧ (r.memo = []) ∧ (s.paired = true) ∧ (s.role = roleUnsynced ∨ s.role = roleSeeking) ∧ (Arg r 0 % 2
    = 1) ∧ (s.partnerActive = false) :=
  ⟨(.chan 3), (cmdOf 0x0702 [1]), (withCmd (cmdOf 0x0702 [1]) (paired roleSeeking)), by decide, by decide, by decide, by decide, by decide,
    by decide, by decide, by decide, by decide⟩

theorem witness_PairCommands_2_3_3 : ∃ (src : CmdSrc) (r : Running) (s : State), (s.cmd? src = some r) ∧ (r.opcode = 1794) ∧ (r.done = none)
    ∧ (s.mbx.wait.contains src = false) ∧ (r.memo = []) ∧ (s.paired = true) ∧ (s.role = roleUnsynced ∨ s.role = roleSeeking) ∧ (Arg r 0 % 2
    = 1) ∧ (s.partnerActive = true) :=
  ⟨(.chan 3), (cmdOf 0x0702 [1]), (withCmd (cmdOf 0x0702 [1]) ((paired roleSeeking).wr fPAIR_STS_PARTNER_ROLE roleActive)), by decide,
    by decide, by decide, by decide, by decide, by decide, by decide, by decide, by decide⟩

theorem witness_PairCommands_3_1 : ∃ (src : CmdSrc) (r : Running) (s : State), (s.cmd? src = some r) ∧ (r.opcode = 1795) ∧ (r.done = none) ∧
    (s.mbx.wait.contains src = false) ∧ (s.paired = true) ∧ (s.role = roleUnsynced) :=
  ⟨(.chan 3), (cmdOf 0x0703 []), (withCmd (cmdOf 0x0703 []) (paired roleUnsynced)), by decide, by decide, by decide, by decide, by decide,
    by decide⟩

theorem witness_PairCommands_3_2 : ∃ (src : CmdSrc) (r : Running) (s : State), (s.cmd? src = some r) ∧ (r.opcode = 1795) ∧ (r.done = none) ∧
    (s.mbx.wait.contains src = false) ∧ (s.paired = false ∨ s.role ≠ roleUnsynced) :=
  ⟨(.chan 3), (cmdOf 0x0703 []), (withCmd (cmdOf 0x0703 []) (paired roleActive)), by decide, by decide, by decide, by decide, by decide⟩

set_option maxRecDepth 20000 in
theorem witness_SampleChannelRows_1_1 : ∃ (c : Fin 8) (mods : List SdMod) (held : List SdMod) (s : State), (s.lmf.running = true) ∧ (s.sdOn
    ↑c = true) ∧ (mods.length = sdDecim (s.sdPreset ↑c)) ∧ (s.lmf.chans.length = 8) ∧ (held = if s.sdPreset ↑c = 3 then mods else List.take
    (sdSpan (s.sdPreset ↑c)) (mods ++ (s.sdChan ↑c).mods)) ∧ ((s.sdChan ↑c).restarting = true) :=
  ⟨7, sdMods, sdMods, (sdState {}), by decide, by decide, by decide, by decide, by decide, by decide⟩

set_option maxRecDepth 20000 in
theorem witness_SampleChannelRows_1_2 : ∃ (c : Fin 8) (mods : List SdMod) (held : List SdMod) (raw : Int) (ovr : Bool) (s : State),
    (s.lmf.running = true) ∧ (s.sdOn ↑c = true) ∧ (mods.length = sdDecim (s.sdPreset ↑c)) ∧ (s.lmf.chans.length = 8) ∧ (held = if s.sdPreset
    ↑c = 3 then mods else List.take (sdSpan (s.sdPreset ↑c)) (mods ++ (s.sdChan ↑c).mods)) ∧ ((s.sdChan ↑c).restarting = false) ∧ (raw =
    sdCode (s.sdPreset ↑c) held) ∧ (ovr = ((held.any fun m => m.beyond) || decide (raw.natAbs > 8388607))) :=
  ⟨7, sdMods, sdMods, (sdCode ((sdState { restarting := false }).sdPreset 7) sdMods), true, (sdState { restarting := false }), by decide,
    by decide, by decide, by decide, by decide, by decide, rfl, by decide⟩

set_option maxRecDepth 20000 in
theorem witness_SampleChannelRows_2 : ∃ (c : Fin 8) (mods : List SdMod) (s : State), (s.lmf.running = true) ∧ (s.sdOn ↑c = true) ∧
    (mods.length = sdDecim (s.sdPreset ↑c)) ∧ (s.lmf.chans.length = 8) :=
  ⟨7, sdMods, (sdState {}), by decide, by decide, by decide, by decide⟩

theorem witness_SampleChannelRows_3 : ∃ (c : Fin 8) (mods : List SdMod) (s : State), (s.lmf.running = false ∨ s.sdOn ↑c = false ∨
    mods.length ≠ sdDecim (s.sdPreset ↑c)) :=
  ⟨7, [], (sdState {}), by decide⟩

theorem witness_SampleChannelRows_4_1 : ∃ (c : Fin 8) (s : State), (s.lmf.running = true) ∧ ((s.sdChan ↑c).restarting = true) ∧
    (s.lmf.chans.length = 8) ∧ (s.up ≥ (s.sdChan ↑c).readyAt) :=
  ⟨7, { sdState { readyAt := 5 } with up := 5 }, by decide, by decide, by decide, by decide⟩

theorem witness_SampleChannelRows_4_2 : ∃ (c : Fin 8) (s : State), (s.lmf.running = true) ∧ ((s.sdChan ↑c).restarting = true) ∧
    (s.lmf.chans.length = 8) ∧ (s.up < (s.sdChan ↑c).readyAt) :=
  ⟨7, { sdState { readyAt := 5 } with up := 4 }, by decide, by decide, by decide, by decide⟩

theorem witness_SampleChannelRows_5_1 : ∃ (n : Nat) (s : State), (s.lmf.running = true) ∧ (s.ticking = true) ∧ (n = s.lmf.next) ∧ (s.clv.now
    ≥ s.tickInst n + s.estDelay) :=
  ⟨10000, { sdState {} with clv := { now := 1001000000000 } }, by decide, by decide, by decide, by decide⟩

theorem witness_SampleChannelRows_5_2 : ∃ (n : Nat) (s : State), (s.lmf.running = true) ∧ (s.ticking = true) ∧ (n = s.lmf.next) ∧ (s.clv.now
    < s.tickInst n + s.estDelay) :=
  ⟨10000, (sdState {}), by decide, by decide, by decide, by decide⟩

theorem witness_ConverterRows_1_1 : ∃ (r : ScanRun) (s : State), (s.lmf.running = true) ∧ (s.up ≥ s.convEnd) ∧ (s.lmf.plausNow = false) ∧
    (s.lmf.icv.length = 2) ∧ ((s.icv 0).discard = false) ∧ ((s.icv 0).run = some r) ∧ ((s.icv 0).codes.length + 1 < r.n) :=
  ⟨(scan 2), (icvState { run := some (scan 2) }), by decide, by decide, by decide, by decide, by decide, by decide, by decide⟩

theorem witness_ConverterRows_1_2 : ∃ (r : ScanRun) (s : State), (s.lmf.running = true) ∧ (s.up ≥ s.convEnd) ∧ (s.lmf.plausNow = false) ∧
    (s.lmf.icv.length = 2) ∧ ((s.icv 0).discard = false) ∧ ((s.icv 0).run = some r) ∧ ((s.icv 0).codes.length + 1 ≥ r.n) ∧ ((s.icv
    0).queue.length < 64) :=
  ⟨(scan 2), (icvState { run := some (scan 2), codes := [7] }), by decide, by decide, by decide, by decide, by decide, by decide, by decide,
    by decide⟩

theorem witness_ConverterRows_2 : ∃ (s : State), (s.lmf.running = true) ∧ (s.up ≥ s.convEnd) ∧ (s.lmf.plausNow = false) ∧ (s.lmf.icv.length
    = 2) ∧ ((s.icv 0).discard = true) :=
  ⟨(icvState { discard := true, run := some (scan 2) }), by decide, by decide, by decide, by decide, by decide⟩

theorem witness_ConverterRows_3 : ∃ (s : State), (s.lmf.running = true) ∧ (s.up ≥ s.convEnd) :=
  ⟨(icvState {}), by decide, by decide⟩

theorem witness_ConverterRows_4 : ∃ (s : State), (s.lmf.running = false ∨ s.up < s.convEnd) :=
  ⟨{ icvState {} with up := 0 }, by decide⟩

theorem witness_ConverterRows_5_1 : ∃ (a : IcvIn) (b : IcvIn) (x : Nat) (y : Nat) (s : State), (s.lmf.running = true) ∧ (s.up ≥ s.convEnd) ∧
    (s.lmf.plausNow = true) ∧ (s.lmf.icv.length = 2) ∧ ((s.icv 0).discard = false) ∧ ((s.icv 1).discard = false) ∧ (a.fault = false) ∧
    (b.fault = false) ∧ (icvRaw a = ↑x) ∧ (icvRaw b = ↑y) ∧ (x ≤ 16777215) ∧ (y ≤ 16777215) ∧ (s.rd (fLMF_ICV_STS_SETTLING 0) = 0) ∧ (s.rd
    (fLMF_ICV_STS_SETTLING 1) = 0) ∧ ((((x * 2 * s.refMv 0 * 100 : Nat) : Int) - (y * 2 * s.refMv 1 * 100 : Nat)).natAbs ≤ s.rd
    fLMF_PLAUS_CFG_TOL * 2 ^ 24) :=
  ⟨(icvIn 0xFFFFFF), (icvIn 0xFFFFFF), 0xFFFFFF, 0xFFFFFF, (icvState {} true), by decide, by decide, by decide, by decide, by decide,
    by decide, by decide, by decide, by decide, by decide, by decide, by decide, by decide, by decide, by decide⟩

theorem witness_ConverterRows_5_2 : ∃ (a : IcvIn) (b : IcvIn) (x : Nat) (y : Nat) (s : State), (s.lmf.running = true) ∧ (s.up ≥ s.convEnd) ∧
    (s.lmf.plausNow = true) ∧ (s.lmf.icv.length = 2) ∧ ((s.icv 0).discard = false) ∧ ((s.icv 1).discard = false) ∧ (a.fault = false) ∧
    (b.fault = false) ∧ (icvRaw a = ↑x) ∧ (icvRaw b = ↑y) ∧ (x ≤ 16777215) ∧ (y ≤ 16777215) ∧ (s.rd (fLMF_ICV_STS_SETTLING 0) = 0) ∧ (s.rd
    (fLMF_ICV_STS_SETTLING 1) = 0) ∧ ((((x * 2 * s.refMv 0 * 100 : Nat) : Int) - (y * 2 * s.refMv 1 * 100 : Nat)).natAbs > s.rd
    fLMF_PLAUS_CFG_TOL * 2 ^ 24) :=
  ⟨(icvIn 0xFFFFFF), (icvIn 0), 0xFFFFFF, 0, (icvState {} true), by decide, by decide, by decide, by decide, by decide, by decide,
    by decide, by decide, by decide, by decide, by decide, by decide, by decide, by decide, by decide⟩

theorem witness_ConverterRows_6_1 : ∃ (x : Fin 2) (e : Nat) (s : State), ((s.icv ↑x).settleAt = some e) ∧ (s.lmf.icv.length = 2) ∧ (s.up ≥
    e) :=
  ⟨0, 0, (icvState { settleAt := some 0 }), by decide, by decide, by decide⟩

theorem witness_ConverterRows_6_2 : ∃ (x : Fin 2) (e : Nat) (s : State), ((s.icv ↑x).settleAt = some e) ∧ (s.lmf.icv.length = 2) ∧ (s.up <
    e) :=
  ⟨0, 100000001, (icvState { settleAt := some 100000001 }), by decide, by decide, by decide⟩

theorem witness_ConverterRows_7 : ∃ (x : Fin 2) (v : Fin 4) (s : State), (↑v ≠ 3) ∧ (↑v ≠ s.rd (fLMF_ICV_CFG_REF ↑x)) ∧ (s.lmf.icv.length =
    2) :=
  ⟨1, 2, (icvState {}), by decide, by decide, by decide⟩

theorem witness_ConverterRows_7b : ∃ (x : Fin 2) (v : Fin 4) (s : State), (↑v ≠ 3) ∧ (↑v ≠ s.rd (fLMF_ICV_CFG_REF ↑x)) ∧ (s.lmf.icv.length =
    2) :=
  ⟨0, 1, (icvState {}), by decide, by decide, by decide⟩

theorem witness_ConverterRows_8 : ∃ (x : Fin 2) (v : Fin 4) (s : State), (↑v = 3 ∨ ↑v = s.rd (fLMF_ICV_CFG_REF ↑x)) :=
  ⟨1, 3, (icvState {}), by decide⟩

theorem witness_ConverterRows_8b : ∃ (x : Fin 2) (v : Fin 4) (s : State), (↑v = 3 ∨ ↑v = s.rd (fLMF_ICV_CFG_REF ↑x)) :=
  ⟨1, 0, (icvState {}), by decide⟩

theorem witness_ConverterRows_9 : ∃ (s : State), (s.lmf.icv.length = 2) :=
  ⟨(icvState { queue := [⟨1, 2, 3⟩, ⟨4, 5, 6⟩] }), by decide⟩

theorem witness_ConverterRows_9b : ∃ (s : State), (s.lmf.icv.length = 2) :=
  ⟨(icvState {}), by decide⟩

theorem witness_BenchRows_1 : ∃ (s : State), (s.stewAlive = true) ∧ (s.bench.open_ = false) :=
  ⟨ticking, by decide, by decide⟩

theorem witness_BenchRows_2 : ∃ (s : State), (s.bench.open_ = true) ∧ (s.up ≥ s.bench.lastIn + 900000000000) :=
  ⟨{ benchAt 2 with up := 900000000000 }, by decide, by decide⟩

theorem witness_BenchRows_3 : ∃ (e : Nat) (s : State), (s.bench.lockTo = some e) ∧ (s.up ≥ e) :=
  ⟨60000000000, (withBench { lockTo := some 60000000000 } (benchAt 0)), by decide, by decide⟩

theorem witness_BenchRows_4 : ∃ (s : State), (s.stewAlive = true) ∧ (s.bench.open_ = true) :=
  ⟨(benchAt 2), by decide, by decide⟩

theorem witness_BenchRows_5 : ∃ (s : State), (s.stewAlive = true) ∧ (s.bench.open_ = true) :=
  ⟨(benchAt 1), by decide, by decide⟩

theorem witness_BenchRows_6_1 : ∃ (off : Nat) (n : Nat) (s : State), (s.stewAlive = true) ∧ (s.bench.open_ = true) ∧ (off % 4 = 0) ∧ (off +
    4 * n ≤ 16777216) ∧ (1 ≤ n) ∧ (n ≤ 64) :=
  ⟨0xFFFF00, 64, (benchAt 0), by decide, by decide, by decide, by decide, by decide, by decide⟩

theorem witness_BenchRows_6_1b : ∃ (off : Nat) (n : Nat) (s : State), (s.stewAlive = true) ∧ (s.bench.open_ = true) ∧ (off % 4 = 0) ∧ (off +
    4 * n ≤ 16777216) ∧ (1 ≤ n) ∧ (n ≤ 64) :=
  ⟨0, 1, (benchAt 0), by decide, by decide, by decide, by decide, by decide, by decide⟩

theorem witness_BenchRows_6_2 : ∃ (off : Nat) (n : Nat) (s : State), (s.stewAlive = true) ∧ (s.bench.open_ = true) ∧ (off % 4 ≠ 0 ∨ off + 4
    * n > 16777216 ∨ n = 0 ∨ 64 < n) :=
  ⟨0, 65, (benchAt 0), by decide, by decide, by decide⟩

theorem witness_BenchRows_7 : ∃ (first : Nat) (n : Nat) (s : State), (s.stewAlive = true) ∧ (s.bench.open_ = true) ∧ (1 ≤ n) ∧ (first + n ≤
    512) :=
  ⟨0, 512, (benchAt 0), by decide, by decide, by decide, by decide⟩

theorem witness_BenchRows_7b : ∃ (first : Nat) (n : Nat) (s : State), (s.stewAlive = true) ∧ (s.bench.open_ = true) ∧ (1 ≤ n) ∧ (first + n ≤
    512) :=
  ⟨511, 1, (benchAt 0), by decide, by decide, by decide, by decide⟩

set_option maxRecDepth 20000 in
theorem witness_BenchRows_8 : ∃ (j : Fin 512) (s : State), (s.stewAlive = true) ∧ (s.bench.open_ = true) ∧ ((counterOf s.img ↑j).event < 872
    ∨ 874 < (counterOf s.img ↑j).event) :=
  ⟨511, { benchAt 0 with img := some { image0 with counters := List.replicate 512 { event := 0x367 } } }, by decide, by decide, by decide⟩

set_option maxRecDepth 20000 in
theorem witness_BenchRows_8b : ∃ (j : Fin 512) (s : State), (s.stewAlive = true) ∧ (s.bench.open_ = true) ∧ ((counterOf s.img ↑j).event <
    872 ∨ 874 < (counterOf s.img ↑j).event) :=
  ⟨510, { benchAt 0 with img := some { image0 with counters := List.replicate 512 { event := 0x36B, chain := true } } }, by decide,
    by decide, by decide⟩

theorem witness_BenchRows_9 : ∃ (n : Nat) (s : State), (s.stewAlive = true) ∧ (s.bench.open_ = true) ∧ (1 ≤ n) ∧ (n ≤ 16) :=
  ⟨16, (benchAt 0), by decide, by decide, by decide, by decide⟩

theorem witness_BenchRows_10 : ∃ (s : State), (s.stewAlive = true) ∧ (s.bench.open_ = true) ∧ (513 = 0 ∨ 0 + 513 > 512) ∧ (17 = 0 ∨ 16 < 17)
    ∧ (17 = 0 ∨ 16 < 17) :=
  ⟨(benchAt 0), by decide, by decide, by decide, by decide, by decide⟩

theorem witness_BenchRows_10b : ∃ (s : State), (s.stewAlive = true) ∧ (s.bench.open_ = true) ∧ (1 = 0 ∨ 512 + 1 > 512) ∧ (0 = 0 ∨ 16 < 0) ∧
    (0 = 0 ∨ 16 < 0) :=
  ⟨(benchAt 0), by decide, by decide, by decide, by decide, by decide⟩

theorem witness_BenchRows_11 : ∃ (n : Nat) (s : State), (s.stewAlive = true) ∧ (s.bench.open_ = true) ∧ (1 ≤ n) ∧ (n ≤ 16) :=
  ⟨16, (benchAt 0), by decide, by decide, by decide, by decide⟩

theorem witness_LevelRows_1 : ∃ (s : State), (s.stewAlive = true) ∧ (s.bench.open_ = true) ∧ (s.on fBUR_BENCH_CFG_TUNE_OPEN = true) :=
  ⟨((benchAt 0).wr fBUR_BENCH_CFG_TUNE_OPEN 1), by decide, by decide, by decide⟩

theorem witness_LevelRows_2_1 : ∃ (service : Bool) (s : State), (s.stewAlive = true) ∧ (s.bench.open_ = true) ∧ (service = false → s.on
    fBUR_BENCH_CFG_TUNE_OPEN = false) ∧ (s.bench.lockTo = none) :=
  ⟨true, (benchAt 0), by decide, by decide, by decide, by decide⟩

theorem witness_LevelRows_2_2 : ∃ (service : Bool) (s : State), (s.stewAlive = true) ∧ (s.bench.open_ = true) ∧ (service = false → s.on
    fBUR_BENCH_CFG_TUNE_OPEN = false) ∧ (s.bench.lockTo.isSome = true) :=
  ⟨false, (withBench { open_ := true, lockTo := some 70000000000 } (benchAt 0)), by decide, by decide, by decide, by decide⟩

theorem witness_LevelRows_3 : ∃ (s : State), (s.stewAlive = true) ∧ (s.bench.open_ = true) ∧ (s.bench.chal = none) :=
  ⟨(benchAt 0), by decide, by decide, by decide⟩

theorem witness_LevelRows_4_1 : ∃ (level : Nat) (nonce : Nat) (at_ : Nat) (s : State), (s.stewAlive = true) ∧ (s.bench.open_ = true) ∧
    (s.bench.chal = some (level, nonce, at_)) ∧ (level = 1 ∨ level = 2) ∧ (s.up > at_ + 60000000000) :=
  ⟨2, 6, 0, { withBench { open_ := true, chal := some (2, 6, 0) } (benchAt 0) with up := 60000000001 }, by decide, by decide, by decide,
    by decide, by decide⟩

theorem witness_LevelRows_4_2 : ∃ (level : Nat) (nonce : Nat) (at_ : Nat) (s : State), (s.stewAlive = true) ∧ (s.bench.open_ = true) ∧
    (s.bench.chal = some (level, nonce, at_)) ∧ (level = 1 ∨ level = 2) ∧ (s.up ≤ at_ + 60000000000) :=
  ⟨1, 6, 0, (withBench { open_ := true, chal := some (1, 6, 0), wrong := 2 } (benchAt 0)), by decide, by decide, by decide, by decide,
    by decide⟩

theorem witness_LevelRows_5 : ∃ (off : Nat) (s : State), (s.stewAlive = true) ∧ (s.bench.open_ = true) ∧ (off % 4 ≠ 0 ∨ 16777216 ≤ off) :=
  ⟨0x1000000, (benchAt 2), by decide, by decide, by decide⟩

theorem witness_LevelRows_6_1 : ∃ (off : Nat) (s : State), (s.stewAlive = true) ∧ (s.bench.open_ = true) ∧ (off % 4 = 0) ∧ (off < 16777216)
    ∧ (s.rd fBUR_BENCH_STS_LEVEL < wrLevel off ∨ aliasOf off / 65536 = 20) :=
  ⟨rSYS_PWR_CFG, (benchAt 0), by decide, by decide, by decide, by decide, by decide⟩

theorem witness_LevelRows_6_2 : ∃ (off : Nat) (val : Nat) (s : State), (s.stewAlive = true) ∧ (s.bench.open_ = true) ∧ (off % 4 = 0) ∧ (off
    < 16777216) ∧ (s.rd fBUR_BENCH_STS_LEVEL ≥ wrLevel off) ∧ (aliasOf off / 65536 ≠ 20) ∧ (s.recordsMode (aliasOf off) val = true) :=
  ⟨rTST_CTL, 1, (benchAt 2), by decide, by decide, by decide, by decide, by decide, by decide, by decide⟩

theorem witness_LevelRows_6_3 : ∃ (off : Nat) (val : Nat) (s : State), (s.stewAlive = true) ∧ (s.bench.open_ = true) ∧ (off % 4 = 0) ∧ (off
    < 16777216) ∧ (s.rd fBUR_BENCH_STS_LEVEL ≥ wrLevel off) ∧ (aliasOf off / 65536 ≠ 20) ∧ (s.recordsMode (aliasOf off) val = false) :=
  ⟨rSYS_PWR_CFG, 9000, (benchAt 2), by decide, by decide, by decide, by decide, by decide, by decide, by decide⟩

theorem witness_LevelRows_6_3b : ∃ (off : Nat) (val : Nat) (s : State), (s.stewAlive = true) ∧ (s.bench.open_ = true) ∧ (off % 4 = 0) ∧ (off
    < 16777216) ∧ (s.rd fBUR_BENCH_STS_LEVEL ≥ wrLevel off) ∧ (aliasOf off / 65536 ≠ 20) ∧ (s.recordsMode (aliasOf off) val = false) :=
  ⟨rCLV_TIMER_CFG, 0x05003C03, (benchAt 2), by decide, by decide, by decide, by decide, by decide, by decide, by decide⟩

theorem witness_CounterRows_1 : ∃ (j : Fin 512) (s : State), ((counterOf s.img ↑j).event < 872 ∨ 874 < (counterOf s.img ↑j).event) :=
  ⟨511, ticking, by decide⟩

set_option maxRecDepth 20000 in
theorem witness_CounterRows_1b : ∃ (j : Fin 512) (s : State), ((counterOf s.img ↑j).event < 872 ∨ 874 < (counterOf s.img ↑j).event) :=
  ⟨510,
    { ticking with img := some { image0 with counters := List.replicate 512 { event := 0x36B, chain := true } }, pmc := { ctrs := [(511, 2 ^ 47)] } },
    by decide⟩

theorem witness_CounterRows_2 : ∃ (e : TraceEnt) (s : State), (List.find? (fun e => e.ended) s.pmc.opened = some e) :=
  ⟨traced, { ticking with pmc := { opened := [traced] } }, by decide⟩

theorem witness_CounterRows_3 : ∃ (seq : Nat), (seq < 2 ^ 32) :=
  ⟨5, by decide⟩

theorem witness_CounterRows_3b : ∃ (seq : Nat), (seq < 2 ^ 32) :=
  ⟨4, by decide⟩

theorem witness_CounterRows_3c : ∃ (seq : Nat), (seq < 2 ^ 32) :=
  ⟨3, by decide⟩

theorem witness_CounterRows_3d : ∃ (seq : Nat), (seq < 2 ^ 32) :=
  ⟨6, by decide⟩

theorem witness_PerturbationRows_1_1 : ∃ (s : State), (s.rd fBUR_BENCH_STS_LEVEL = 2) :=
  ⟨(benchAt 2), by decide⟩

theorem witness_PerturbationRows_1_2 : ∃ (s : State), (s.rd fBUR_BENCH_STS_LEVEL ≠ 2) :=
  ⟨(benchAt 1), by decide⟩

theorem witness_PerturbationRows_2 : ∃ (s : State), (s.rd fTST_CTL_EN = 0 ∨ s.rd fTST_CTL_EN = 1 ∧ s.rd fBUR_BENCH_STS_LEVEL = 2) :=
  ⟨(benchAt 2), by decide⟩

theorem witness_PerturbationRows_2b : ∃ (s : State), (s.rd fTST_CTL_EN = 0 ∨ s.rd fTST_CTL_EN = 1 ∧ s.rd fBUR_BENCH_STS_LEVEL = 2) :=
  ⟨(perturbed 127), by decide⟩

theorem witness_PerturbationRows_3 : ∃ (s : State), (s.rd fTST_CTL_EN = 1) ∧ (s.rd fBUR_BENCH_STS_LEVEL = 2) ∧ ((s.rd
    fTST_CTL_ACT_EN).testBit 5 = false) :=
  ⟨(perturbed 0x5F), by decide, by decide, by decide⟩

theorem witness_PerturbationRows_4 : ∃ (s : State), (s.action 3 = true) ∧ (∀ (a : StallArm), s.tst.arm = some a → a.on = false) :=
  ⟨(perturbed 4), by decide, by decide⟩

theorem witness_PerturbationRows_5 : ∃ (a : StallArm) (st : Nat) (s : State), (s.tst.arm = some a) ∧ (a.start = some st) ∧ (a.on = false) ∧
    (s.clv.now ≥ st) :=
  ⟨(arm0 false true), 999999998000, { perturbed 4 with tst := { arm := some (arm0 false true) } }, by decide, by decide, by decide,
    by decide⟩

theorem witness_PerturbationRows_6 : ∃ (a : StallArm) (st : Nat) (s : State), (s.tst.arm = some a) ∧ (a.start = some st) ∧ (a.on = true) ∧
    (s.clv.now ≥ st + a.durUs * 1000) :=
  ⟨(arm0 true true), 999999998000, { perturbed 4 with tst := { arm := some (arm0 true true) } }, by decide, by decide, by decide, by decide⟩

theorem witness_PerturbationRows_6b : ∃ (a : StallArm) (st : Nat) (s : State), (s.tst.arm = some a) ∧ (a.start = some st) ∧ (a.on = true) ∧
    (s.clv.now ≥ st + a.durUs * 1000) :=
  ⟨(arm0 true false), 999999998000, { perturbed 4 with tst := { arm := some (arm0 true false) } }, by decide, by decide, by decide,
    by decide⟩

theorem witness_PerturbationRows_7_1 : ∃ (s : State), (s.action 2 = true) ∧ (s.rd fTST_EBP_PER_PERIOD_US = 0) :=
  ⟨(perturbed 2), by decide, by decide⟩

theorem witness_PerturbationRows_7_2 : ∃ (s : State), (s.action 2 = true) ∧ (0 < s.rd fTST_EBP_PER_PERIOD_US) ∧ (s.up ≥ s.tst.bpStart + s.rd
    fTST_EBP_PER_PERIOD_US * 1000) :=
  ⟨{ (perturbed 2).wr fTST_EBP_PER_PERIOD_US 60000000 with up := 60000000000000 }, by decide, by decide, by decide⟩

theorem witness_PerturbationRows_7_3 : ∃ (s : State), (s.action 2 = true) ∧ (0 < s.rd fTST_EBP_PER_PERIOD_US) ∧ (s.up < s.tst.bpStart + s.rd
    fTST_EBP_PER_PERIOD_US * 1000) ∧ (s.tst.bpOn = true) ∧ (s.up ≥ s.tst.bpStart + s.rd fTST_EBP_CFG_ON_US * 1000) :=
  ⟨{ ((perturbed 2).wr fTST_EBP_PER_PERIOD_US 70000000).wr fTST_EBP_CFG_ON_US 60000000 with tst := { bpOn := true } }, by decide, by decide,
    by decide, by decide, by decide⟩

end Sys2Proof.Tests
end

section
/-!
PROOFS. Scope: what reset leaves, and what a host access to a register of the window stores, returns, clears and latches (R6, R7, R84,
R535). First the register map and the state's operations on it, then a register's own write and read, then the bus, then the statements.
-/

namespace Sys2Proof.Machine

/-! ### The register map (R534, R536) -/

/-- The blocks that hold registers. -/
def regBlocks : List Nat := List.range 21 ++ [0x80]

theorem regsOfBlock_eq_nil {b : Nat} (h : b ∉ regBlocks) : regsOfBlock b = [] := by
  unfold regsOfBlock
  split
  case h_23 => rfl
  all_goals simp [regBlocks] at h

/-- What holds of every register of every block holds of the register at an offset. -/
theorem regAt_forall {P : RegDesc → Prop} (hP : ∀ b ∈ regBlocks, ∀ r ∈ regsOfBlock b, P r) {off : Nat} {r : RegDesc}
    (h : regAt off = some r) : P r := by
  have hm := List.mem_of_find?_eq_some h
  by_cases hb : (if off ≥ 0x800000 then 0x80 else off / 0x10000) ∈ regBlocks
  · exact hP _ hb r hm
  · rw [regsOfBlock_eq_nil hb] at hm
    cases hm

theorem regAt_inDims {off : Nat} {r : RegDesc} (h : regAt off = some r) : r.base ≤ off ∧ inDims (off - r.base) r.dims = true := by
  simpa using List.find?_some h

/-- A register without index dimensions is at its base. -/
theorem regAt_base {off : Nat} {r : RegDesc} (h : regAt off = some r) (hd : r.dims = []) : off = r.base := by
  obtain ⟨hle, hin⟩ := regAt_inDims h
  rw [hd, inDims, decide_eq_true_eq] at hin
  omega

/-- A register of an array is at its base and a multiple of the stride, which `idx` recovers. -/
theorem regAt_array {off st n : Nat} {r : RegDesc} (h : regAt off = some r) (hd : r.dims = [(st, n)]) :
    idx off r.base st < n ∧ off = r.base + st * idx off r.base st := by
  obtain ⟨hle, hin⟩ := regAt_inDims h
  rw [hd, inDims, inDims, Bool.and_eq_true, decide_eq_true_eq, decide_eq_true_eq] at hin
  have := Nat.div_add_mod (off - r.base) st
  exact ⟨hin.1, by unfold idx; omega⟩

theorem regAt_fields_nodup {off : Nat} {r : RegDesc} (h : regAt off = some r) : (r.fields.map FieldDesc.lo).Nodup :=
  regAt_forall (P := fun r => (r.fields.map FieldDesc.lo).Nodup) (by decide) h

theorem regAt_field_lo {off : Nat} {r : RegDesc} (h : regAt off = some r) : ∀ d ∈ r.fields, d.lo < 32 :=
  regAt_forall (P := fun r => ∀ d ∈ r.fields, d.lo < 32) (by decide) h

/-- The registers named here have no index dimensions. -/
theorem regAt_single {off : Nat} {r : RegDesc} (h : regAt off = some r)
    (hb : r.base ∈ [rCLV_NOW_LO, rCLV_QUAL_CFG, rTST_EBP_CFG, rTST_EBP_PER, rSM_TIME_NS]) : off = r.base :=
  regAt_base h (regAt_forall (P := fun r => r.base ∈ [rCLV_NOW_LO, rCLV_QUAL_CFG, rTST_EBP_CFG, rTST_EBP_PER, rSM_TIME_NS] → r.dims = [])
    (by decide) h hb)

/-- EGR_RING_CFG_r (R341). -/
def ringCfgDesc : RegDesc :=
  ⟨"EGR_RING_CFG", 0xB1008, [(32, 192)], [⟨31, 1, 0, .rw, false⟩, ⟨12, 4, 4, .rw, false⟩, ⟨0, 6, 0, .rw, false⟩]⟩

theorem regAt_ringCfg {off : Nat} {r : RegDesc} (h : regAt off = some r) (hb : r.base = rEGR_RING_CFG 0) : r = ringCfgDesc :=
  regAt_forall (P := fun r => r.base = rEGR_RING_CFG 0 → r = ringCfgDesc) (by decide) h hb

/-- The egress block has no fused and no per-index reset value. -/
theorem resetAt_egr {off : Nat} (h : off / 0x10000 = 0xB) (lo d : Nat) : resetAt off lo d = d := by
  unfold resetAt
  repeat rw [if_neg (by omega)]

/-! ### A register's fields -/

theorem fieldAt_key_ne {off : Nat} {d e : FieldDesc} (h : d.lo ≠ e.lo) : (fieldAt off d).key ≠ (fieldAt off e).key := by
  simpa [fieldAt] using h

theorem fieldAt_key_div {off : Nat} {d : FieldDesc} (h : d.lo < 32) : (fieldAt off d).key / 32 = off := by
  change (off * 32 + d.lo) / 32 = off
  omega

section Fields

variable {off : Nat} {step : State → FieldDesc → State} {l : List FieldDesc}
  (hother : ∀ t d (g : Fld), g.key ≠ (fieldAt off d).key → (step t d).rd g = t.rd g)

include hother

/-- An operation that goes through a register's fields leaves every other field alone. -/
theorem foldl_fields_rd_ne {g : Fld} (hg : ∀ d ∈ l, g.key ≠ (fieldAt off d).key) (t : State) : (l.foldl step t).rd g = t.rd g := by
  induction l generalizing t with
  | nil => rfl
  | cons x xs ih =>
    rw [List.foldl_cons, ih (fun d hd => hg d (List.mem_cons_of_mem _ hd)), hother _ _ _ (hg x List.mem_cons_self)]

/-- An operation that goes through a register's fields gives each the value it has for it: the fields do not overlap. -/
theorem foldl_fields_rd {val : FieldDesc → Nat} {s : State}
    (hself : ∀ t, ∀ d ∈ l, t.rd (fieldAt off d) = s.rd (fieldAt off d) → (step t d).rd (fieldAt off d) = val d)
    (hnd : (l.map FieldDesc.lo).Nodup) (t : State) (ht : ∀ d ∈ l, t.rd (fieldAt off d) = s.rd (fieldAt off d)) :
    ∀ d ∈ l, (l.foldl step t).rd (fieldAt off d) = val d := by
  induction l generalizing t with
  | nil => simp
  | cons x xs ih =>
    rw [List.map_cons, List.nodup_cons] at hnd
    obtain ⟨hx, hxs⟩ := hnd
    have hne : ∀ d ∈ xs, d.lo ≠ x.lo := fun d hd e => hx (e ▸ List.mem_map_of_mem hd)
    intro d hd
    rw [List.foldl_cons]
    rcases List.mem_cons.1 hd with rfl | hd
    · rw [foldl_fields_rd_ne hother fun e he => fieldAt_key_ne (hne e he).symm]
      exact hself t d List.mem_cons_self (ht d List.mem_cons_self)
    · refine ih (fun t e he => hself t e (List.mem_cons_of_mem _ he)) hxs _ (fun e he => ?_) d hd
      rw [hother _ _ _ (fieldAt_key_ne (hne e he)), ht e (List.mem_cons_of_mem _ he)]

end Fields

/-- What a field of a register holds after a write of the word `v` (R6, R341). -/
def storedField (s : State) (base off v : Nat) (d : FieldDesc) : Nat :=
  match accessOf base off d.acc with
  | .rw => if s.fieldOk base off d.lo (bitsAt v d.lo d.w) then bitsAt v d.lo d.w else s.rd (fieldAt off d)
  | .w1c => trunc d.w (s.rd (fieldAt off d) - (s.rd (fieldAt off d) &&& bitsAt v d.lo d.w))
  | _ => s.rd (fieldAt off d)

theorem trunc_bitsAt (w v lo : Nat) : trunc w (bitsAt v lo w) = bitsAt v lo w := Nat.mod_mod _ _

theorem storeFields_rd {r : RegDesc} {off : Nat} (hr : regAt off = some r) (v : Nat) (s : State) :
    ∀ d ∈ r.fields, (storeFields r off v s).rd (fieldAt off d) = storedField s r.base off v d := by
  refine foldl_fields_rd (s := s) (fun t d g hg => ?_) (fun t d _ ht => ?_) (regAt_fields_nodup hr) s fun _ _ => rfl
  · dsimp only
    split
    · split
      · exact State.rd_wr_ne _ hg _
      · rfl
    · exact State.rd_wr_ne _ hg _
    · rfl
  · unfold storedField
    dsimp only
    cases accessOf r.base off d.acc with
    | rw =>
      dsimp only
      split
      · rw [State.rd_wr]
        exact trunc_bitsAt ..
      · exact ht
    | w1c => simp only [State.rd_wr, ht]; rfl
    | _ => exact ht

/-- A read clears a register's RC fields and leaves its others (R6). -/
theorem clearRc_rd {r : RegDesc} {off : Nat} (hr : regAt off = some r) (s : State) :
    ∀ d ∈ r.fields, (clearRc r off s).rd (fieldAt off d) = if d.acc = .rc then 0 else s.rd (fieldAt off d) := by
  refine foldl_fields_rd (s := s) (fun t d g hg => ?_) (fun t d _ ht => ?_) (regAt_fields_nodup hr) s fun _ _ => rfl
  · split
    · exact State.rd_wr_ne _ hg _
    · rfl
  · split
    · rw [State.rd_wr]
      exact Nat.zero_mod _
    · exact ht

theorem clearRc_eq_self {r : RegDesc} (h : ∀ d ∈ r.fields, d.acc ≠ .rc) (off : Nat) (s : State) : clearRc r off s = s := by
  unfold clearRc
  generalize r.fields = l at h
  induction l with
  | nil => rfl
  | cons x xs ih =>
    rw [List.foldl_cons, if_neg (h x List.mem_cons_self)]
    exact ih fun d hd => h d (List.mem_cons_of_mem _ hd)

/-! ### Operations that leave a register alone -/

/-- The fields of the register at `off` read as in `o`. -/
def SameAt (off : Nat) (o s : State) : Prop := ∀ f : Fld, f.key / 32 = off → s.rd f = o.rd f

theorem SameAt.refl (off : Nat) (s : State) : SameAt off s s := fun _ _ => rfl

theorem SameAt.wr {off : Nat} {o s : State} {f : Fld} (v : Nat) (h : SameAt off o s) (hoff : f.off ≠ off)
    (hlo : f.lo < 32 := by exact of_decide_eq_true rfl) : SameAt off o (s.wr f v) := by
  intro g hg
  have hk : g.key ≠ f.key := by
    intro e
    rw [e] at hg
    change (f.off * 32 + f.lo) / 32 = off at hg
    omega
  rw [State.rd_wr_ne _ hk]
  exact h g hg

theorem SameAt.trans {off : Nat} {o s t : State} (h : SameAt off o s) (k : SameAt off s t) : SameAt off o t :=
  fun f hf => (k f hf).trans (h f hf)

theorem SameAt.of_regs {off : Nat} {o s t : State} (h : SameAt off o s) (e : t.regs = s.regs) : SameAt off o t := by
  intro f hf
  unfold State.rd
  rw [e]
  exact h f hf

theorem RegsOut.sameAt {B : List Nat} {o s : State} (h : RegsOut B o s) {off : Nat} (hb : off / 0x10000 ∉ B) : SameAt off o s :=
  fun f hf => h f (by rwa [Fld.block, hf])

/-! ### Abdication (R410, R411, R419): the registers of the pair, its alarms and pulses, and a record -/

/-- The blocks that abdication writes to: ALM, ACC, PAIR, and those of a posted record. -/
abbrev abdBlocks : List Nat := [0x09, 0x0A, 0x0C, 0x0D, 0x0F]

theorem setRole_regs {o s : State} (role : Nat) (h : RegsOut abdBlocks o s) : RegsOut abdBlocks o (setRole role s) :=
  regsOut_wrB _ (regsOut_wrB _ (regsOut_wr _ h (by decide)) (by decide)) (by decide)

theorem releaseAuthority_regs {o s : State} (h : RegsOut abdBlocks o s) : RegsOut abdBlocks o (releaseAuthority s) := by
  unfold releaseAuthority
  refine regsOut_regs (regsOut_foldl (regsOut_foldl h fun s p _ hs => ?_) fun s k hk hs => ?_) rfl
  · exact regsOut_ite hs (regsOut_regs hs rfl)
  · have hk : k < 8 := List.mem_range.1 hk
    refine regsOut_wrB _ hs ?_
    interval_cases k <;> decide

theorem pairSend_regs (s : State) (typ : Nat) (payload : Bytes) : (s.pairSend typ payload).regs = s.regs := by
  unfold State.pairSend
  split <;> rfl

theorem joinFail_regs {o s : State} (reason : Nat) (h : RegsOut abdBlocks o s) : RegsOut abdBlocks o (joinFail reason s) :=
  post_regs (by decide) (by decide) _ _ (regsOut_flag _ (regsOut_inc _ (regsOut_wr _ (setRole_regs _ (regsOut_regs h rfl))
    (by decide)) (by decide)) (by decide))

theorem doAbdicate_regs {o s : State} (cause : Nat) (h : RegsOut abdBlocks o s) : RegsOut abdBlocks o (doAbdicate cause s) :=
  post_regs (by decide) (by decide) _ _ (regsOut_flag _ (regsOut_wr64 _ (regsOut_inc _ (regsOut_wr _ (setRole_regs _
    (regsOut_regs (regsOut_regs (releaseAuthority_regs h) rfl) (pairSend_regs ..))) (by decide)) (by decide)) (by decide) (by decide))
    (by decide))

theorem abdicate_regs {o s : State} (cause : Nat) (conditional : Bool) (h : RegsOut abdBlocks o s) :
    RegsOut abdBlocks o (abdicate cause conditional s) := by
  unfold abdicate
  have h' : RegsOut abdBlocks o (s.setPair { s.pair with yieldClear := some s.up }) := regsOut_regs h rfl
  exact regsOut_ite h (regsOut_ite (regsOut_ite (post_regs (by decide) (by decide) _ _ (regsOut_flag _ h' (by decide)))
    (doAbdicate_regs _ h')) (regsOut_ite (joinFail_regs _ h') h'))

/-! ### What follows a stored write -/

/-- CLV_QUAL_CFG keeps its fields while QUAL_LOST is brought up to date. -/
theorem updateQual_sameAt (s : State) : SameAt rCLV_QUAL_CFG s (updateQual s) := by
  have hw : SameAt rCLV_QUAL_CFG s (s.wrB fCLV_STS_QUAL_LOST s.qualLost) := (SameAt.refl _ s).wr _ (by decide)
  unfold updateQual
  dsimp only
  split
  · exact ((hw.wr _ (by decide)).wr _ (by decide)).trans ((abdicate_regs _ _ (regsOut_refl _ _)).sameAt (by decide))
  · exact hw

theorem bandEnEffect_sameAt (b : Nat) (s : State) : SameAt (rSPEC_BAND_CFG b) s (bandEnEffect b s) := by
  unfold bandEnEffect
  split
  · exact .refl _ s
  · have hne : rSPEC_BAND_STS b ≠ rSPEC_BAND_CFG b := by unfold rSPEC_BAND_STS rSPEC_BAND_CFG; omega
    exact (((SameAt.refl _ s).of_regs rfl).wr _ hne).wr _ hne

theorem prefSync_regs (p : Nat) (s : State) : (prefSync p s).regs = s.regs := by
  unfold prefSync
  split <;> rfl

theorem stallArm_regs (s : State) : (stallArm s).regs = s.regs := by
  unfold stallArm
  extract_lets busy
  split <;> rfl

theorem tstSync_sameAt {off : Nat} (h : rTST_STS ≠ off) (s : State) : SameAt off s (tstSync s) :=
  ((SameAt.refl off s).wr _ h).wr _ h

theorem streamDrops_regs {α : Type} (k : Nat) (l : List α) (s : State) : (l.foldl (fun s _ => streamDrop k s) s).regs = s.regs := by
  induction l generalizing s with
  | nil => rfl
  | cons x xs ih => exact ih _

theorem ringDiscard_sameAt (r k : Nat) (s : State) : SameAt (rEGR_RING_CFG k) s (ringDiscard r s) := by
  have h := SameAt.refl (rEGR_RING_CFG k) s
  have hflt : rEGR_FLT ≠ rEGR_RING_CFG k := by unfold rEGR_FLT rEGR_RING_CFG; omega
  unfold ringDiscard
  dsimp only
  split
  · split
    · exact h
    · exact SameAt.wr (f := fEGR_FLT_FLAGS) _ (h.of_regs (streamDrops_regs ..)) hflt
  · split
    · split
      · exact h
      · have hrun : rPORT_RUNOUT_CNT (r - 64) ≠ rEGR_RING_CFG k := by unfold rPORT_RUNOUT_CNT rEGR_RING_CFG; omega
        exact SameAt.wr (f := fEGR_FLT_FLAGS) _ (SameAt.wr (f := fPORT_RUNOUT_CNT_FRAMES (r - 64)) _ (h.of_regs rfl) hrun) hflt
    · exact h

theorem ringEnable_sameAt (k : Nat) (en : Bool) (s : State) : SameAt (rEGR_RING_CFG k) (s.wrB (fEGR_RING_CFG_EN k) en) (ringEnable k en s) := by
  have h : SameAt (rEGR_RING_CFG k) (s.wrB (fEGR_RING_CFG_EN k) en) ((s.wrB (fEGR_RING_CFG_EN k) en).wrB (fEGR_RING_STS_RUN k) en) :=
    (SameAt.refl _ _).wr _ (show rEGR_RING_STS k ≠ rEGR_RING_CFG k by unfold rEGR_RING_STS rEGR_RING_CFG; omega)
  unfold ringEnable
  dsimp only
  split
  · exact h
  · exact (h.trans (ringDiscard_sameAt k k _)).of_regs rfl

/-- A stored write's further effect leaves the register's own fields alone; the two ring registers that have one are treated apart. -/
theorem afterWrite_sameAt {off : Nat} {r : RegDesc} (hr : regAt off = some r) (hlo : r.base ≠ rEGR_RING_BASE_LO 0)
    (hcfg : r.base ≠ rEGR_RING_CFG 0) (v : Nat) (s : State) : SameAt off s (afterWrite r.base off v s) := by
  have hs := SameAt.refl off s
  unfold afterWrite
  split
  · exact hs.of_regs rfl
  split
  case isTrue h =>
    have hoff : off = rCLV_QUAL_CFG := (regAt_single hr (by rw [h]; decide)).trans h
    exact hoff ▸ updateQual_sameAt s
  split
  case isTrue h =>
    have hdims := regAt_forall (P := fun r => r.base = rSPEC_BAND_CFG 0 → r.dims = [(16, 16)]) (by decide) hr h
    have hoff : off = rSPEC_BAND_CFG (idx off r.base 16) := (regAt_array hr hdims).2.trans (by rw [h])
    have hband := bandEnEffect_sameAt (idx off r.base 16) s
    rwa [← hoff] at hband
  split
  · exact hs.of_regs (prefSync_regs ..)
  split
  · split
    · exact hs.of_regs (stallArm_regs s)
    · exact hs
  split
  case isTrue h =>
    have hoff : off = r.base := regAt_single hr (by rcases h with h | h <;> rw [h] <;> decide)
    exact tstSync_sameAt (by rcases h with h | h <;> rw [hoff, h] <;> decide) s
  · exact hs

theorem afterWrite_ringCfg (off v : Nat) (s : State) :
    afterWrite (rEGR_RING_CFG 0) off v s = ringEnable (idx off (rEGR_RING_CFG 0) 32) (v.testBit 31) s := by
  unfold afterWrite
  rw [if_neg (by decide), if_neg (by decide), if_neg (by decide), if_neg (by decide), if_neg (by decide), if_pos rfl]

theorem afterWrite_ringBaseLo (off v : Nat) (s : State) :
    afterWrite (rEGR_RING_BASE_LO 0) off v s = s.wr ⟨off, 0, 32, 0⟩ (s.rd ⟨off, 0, 32, 0⟩ / 64 * 64) := by
  unfold afterWrite
  rw [if_neg (by decide), if_neg (by decide), if_neg (by decide), if_neg (by decide), if_pos rfl]

theorem afterWrite_dom (base off v : Nat) (s : State) : (afterWrite base off v s).dom = s.dom :=
  (afterWrite_kept base off v (Kept.refl 4399898132883 s) (Nat.and_self _)).2.2.same .dom (by decide)

theorem storeFields_dom (r : RegDesc) (off v : Nat) (s : State) : (storeFields r off v s).dom = s.dom :=
  (storeFields_kept r off v (Kept.refl 1 s) (Nat.and_self _)).2.2.same .dom (by decide)

theorem fieldAt_ringEn {off k : Nat} (hk : k < 192) (hoff : off = rEGR_RING_CFG k) :
    fieldAt off ⟨31, 1, 0, .rw, false⟩ = fEGR_RING_CFG_EN k := by
  rw [fieldAt, hoff, resetAt_egr (by unfold rEGR_RING_CFG; omega)]

/-- EN of EGR_RING_CFG is written as it was stored, so the register keeps its fields. -/
theorem ringEnable_rd {off k : Nat} (hk : k < 192) (hoff : off = rEGR_RING_CFG k) {en : Bool} {s : State}
    (hen : s.rd (fEGR_RING_CFG_EN k) = en.toNat) :
    ∀ d ∈ ringCfgDesc.fields, (ringEnable k en s).rd (fieldAt off d) = s.rd (fieldAt off d) := by
  intro d hd
  have hlt : d.lo < 32 := (by decide : ∀ d ∈ ringCfgDesc.fields, d.lo < 32) d hd
  rw [ringEnable_sameAt k en s _ (hoff ▸ fieldAt_key_div hlt)]
  by_cases hlo : d.lo = 31
  · have hd : d = ⟨31, 1, 0, .rw, false⟩ := (by decide : ∀ d ∈ ringCfgDesc.fields, d.lo = 31 → d = ⟨31, 1, 0, .rw, false⟩) d hd hlo
    rw [hd, fieldAt_ringEn hk hoff, hen, State.wrB, State.rd_wr]
    cases en <;> rfl
  · rw [← fieldAt_ringEn hk hoff]
    exact State.rd_wr_ne _ (fieldAt_key_ne hlo) _

theorem storedField_ringEn (off v : Nat) (s : State) :
    storedField s (rEGR_RING_CFG 0) off v ⟨31, 1, 0, .rw, false⟩ = (v.testBit 31).toNat := by
  have hok : s.fieldOk (rEGR_RING_CFG 0) off 31 (bitsAt v 31 1) = true := rfl
  unfold storedField
  dsimp only [accessOf]
  rw [if_pos hok, Nat.toNat_testBit]
  rfl

/-- After a write each field holds what was stored in it (R6). -/
theorem storedWrite_rd {off : Nat} {r : RegDesc} (hr : regAt off = some r) (hlo : r.base ≠ rEGR_RING_BASE_LO 0) (v : Nat) (s : State) :
    ∀ d ∈ r.fields, (afterWrite r.base off v (storeFields r off v s)).rd (fieldAt off d) = storedField s r.base off v d := by
  intro d hd
  rw [← storeFields_rd hr v s d hd]
  by_cases hcfg : r.base = rEGR_RING_CFG 0
  · obtain rfl := regAt_ringCfg hr hcfg
    obtain ⟨hk, hoff⟩ := regAt_array hr rfl
    have hen := storeFields_rd hr v s ⟨31, 1, 0, .rw, false⟩ (by decide)
    rw [hcfg, storedField_ringEn, fieldAt_ringEn hk hoff] at hen
    rw [hcfg, afterWrite_ringCfg]
    exact ringEnable_rd hk hoff hen d hd
  · exact afterWrite_sameAt hr hlo hcfg v _ _ (fieldAt_key_div (regAt_field_lo hr d hd))

/-! ### A write on its way -/

theorem regWrite_of_none {off : Nat} (h : regAt (aliasOf off) = none) (v : Nat) (twin : Bool) (s : State) : regWrite off v twin s = s := by
  simp only [regWrite, h]

theorem regWrite_stored {off v : Nat} {twin : Bool} {s : State} {r : RegDesc} (ha : aliasOf off = off) (hr : regAt off = some r)
    (hw : s.wordOk r.base off (v % 2 ^ 32) = true) (ho : ownWrite r.base off (v % 2 ^ 32) twin false s = none) :
    regWrite off v twin s = afterWrite r.base off (v % 2 ^ 32) (storeFields r off (v % 2 ^ 32) s) := by
  simp only [regWrite, ha, hr, hw, ho, ne_eq, not_true, decide_false, Bool.not_true, Bool.false_eq_true, if_false]

theorem regWrite_own {off v : Nat} {twin : Bool} {s t : State} {r : RegDesc} (ha : aliasOf off = off) (hr : regAt off = some r)
    (hw : s.wordOk r.base off (v % 2 ^ 32) = true) (ho : ownWrite r.base off (v % 2 ^ 32) twin false s = some t) :
    regWrite off v twin s = t := by
  simp only [regWrite, ha, hr, hw, ho, ne_eq, not_true, decide_false, Bool.not_true, Bool.false_eq_true, if_false]

theorem drainAll_eq_self {s : State} (h : s.dom.stalled = []) : drainAll s = s := by
  unfold drainAll
  rw [h]
  rfl

theorem busWrite_passes {off v : Nat} {twin : Bool} {s : State} (hp : s.passes (accessDom off) = true) (hst : s.dom.stalled = []) :
    busWrite off v twin s = drainAll (regWrite off v twin s) := by
  simp [busWrite, hp, hst]

theorem busWrite_held {off v : Nat} {twin : Bool} {s : State} (hp : s.passes (accessDom off) = false) (hst : s.dom.stalled = [])
    (hn : s.heldWrites (accessDom off) < 16) :
    busWrite off v twin s = { s with dom := { s.dom with
      held := s.dom.held ++ [{ dom := accessDom off, off := off, val := some (v % 2 ^ 32) }] } } := by
  simp [busWrite, hp, hst, hn, State.setDom]

/-- With no access held, an access to a domain passes where its clock runs. -/
theorem passes_of_alive {s : State} {d : Nat} (hh : s.dom.held = []) (ha : s.alive d = true) : s.passes d = true := by
  simp [State.passes, State.heldOf, hh, ha]

section Access

variable {off : Nat} {go : Nat → State → State} {s : State}

theorem hostAccess_word (hre : s.reaches off = true) (hal : off % 4 = 0) : hostAccess off false go s = go 0 s := by
  simp [hostAccess, hre, hal]

theorem hostAccess_wide (hre : s.reaches off = true) (hal : off % 8 = 0) : hostAccess off true go s = go 1 (go 0 s) := by
  simp [hostAccess, hre, hal]

theorem hostAccess_unaligned {wide : Bool} (hre : s.reaches off = true) (hal : off % 4 ≠ 0 ∨ wide = true ∧ off % 8 ≠ 0) :
    hostAccess off wide go s = s.emit (.unsupported off) := by
  have h8 : off % 8 ≠ 0 := by omega
  have h4 : wide = true ∨ off % 4 ≠ 0 := by tauto
  simp [hostAccess, hre, h8, h4]

end Access

theorem hostWrite_word {off v : Nat} {twin : Bool} {s : State} (hre : s.reaches off = true) (hal : off % 4 = 0) :
    hostWrite off v false twin s = busWrite off v twin s := by
  rw [hostWrite, hostAccess_word hre hal]
  simp only [Nat.mul_zero, Nat.pow_zero, Nat.div_one, Nat.add_zero]

theorem hostWrite_wide {off v : Nat} {twin : Bool} {s : State} (hre : s.reaches off = true) (hal : off % 8 = 0) :
    hostWrite off v true twin s = busWrite (off + 4) (v / 2 ^ 32) twin (busWrite off v twin s) := by
  rw [hostWrite, hostAccess_wide hre hal]
  simp only [Nat.mul_zero, Nat.pow_zero, Nat.div_one, Nat.add_zero, Nat.mul_one]

/-- A write of a word to a running domain, with nothing stalled before it, is the register's own. -/
theorem hostWrite_passes {off v : Nat} {twin : Bool} {s : State} (hre : s.reaches off = true) (hal : off % 4 = 0)
    (hp : s.passes (accessDom off) = true) (hst : s.dom.stalled = []) (hdom : (regWrite off v twin s).dom = s.dom) :
    hostWrite off v false twin s = regWrite off v twin s := by
  rw [hostWrite_word hre hal, busWrite_passes hp hst, drainAll_eq_self (by rw [hdom, hst])]

theorem exec_registerWrite (off v : Nat) (full wide twin : Bool) (s : State) :
    exec (.registerWrite off v full wide twin) s = .next (if full then hostWrite off v wide twin s else s) := rfl

theorem exec_selectLatchWrite (off v : Nat) (s : State) : exec (.selectLatchWrite off v) s = .next (hostWrite off v false false s) := rfl

theorem exec_rcRead (off : Nat) (wide : Bool) (s : State) : exec (.rcRead off wide) s = .next (hostRead off wide s) := rfl

theorem exec_loLatchRead (off : Nat) (wide : Bool) (s : State) : exec (.loLatchRead off wide) s = .next (hostRead off wide s) := rfl

/-! ### The registers that the statements name -/

theorem aliasOf_of_lt {off : Nat} (h : off < 0x800000) : aliasOf off = off := by
  unfold aliasOf
  rw [if_neg (by unfold rSM_CMD; omega), if_neg (by unfold rSM_GO; omega), if_neg (by unfold rSM_CMD_STS; omega),
    if_neg (by unfold rSM_ARG; omega), if_neg (by unfold rSM_RES; omega)]

/-- EGR_RING_BASE_LO_r (R341). -/
def ringBaseLoDesc : RegDesc := ⟨"EGR_RING_BASE_LO", 0xB1000, [(32, 192)], [⟨0, 32, 0, .rw, false⟩]⟩

theorem ringBaseLo_block {k : Nat} (hk : k < 192) : rEGR_RING_BASE_LO k / 0x10000 = 0xB := by
  unfold rEGR_RING_BASE_LO
  omega

theorem ringBaseLo_lt {k : Nat} (hk : k < 192) : rEGR_RING_BASE_LO k < 0x800000 := by
  unfold rEGR_RING_BASE_LO
  omega

/-- FAB serves the egress block (R520, R536). -/
theorem accessDom_ringBaseLo {k : Nat} (hk : k < 192) : accessDom (rEGR_RING_BASE_LO k) = domFab := by
  rw [accessDom, aliasOf_of_lt (ringBaseLo_lt hk)]
  simp [domOf, ringBaseLo_block hk]

theorem regAt_ringBaseLo {k : Nat} (hk : k < 192) : regAt (rEGR_RING_BASE_LO k) = some ringBaseLoDesc := by
  have hlow : ¬ rEGR_RING_BASE_LO k ≥ 0x800000 := Nat.not_le.2 (ringBaseLo_lt hk)
  have hblock := ringBaseLo_block hk
  have hfirst : ∀ a ∈ (regsOfBlock 0xB).take 20, a.dims = [] ∧ a.base < rEGR_RING_BASE_LO 0 := by decide
  unfold regAt
  rw [if_neg hlow, hblock, List.find?_eq_some_iff_append]
  refine ⟨?_, (regsOfBlock 0xB).take 20, (regsOfBlock 0xB).drop 21, rfl, fun a ha => ?_⟩
  · simp [ringBaseLoDesc, inDims, rEGR_RING_BASE_LO]
    omega
  · obtain ⟨hd, hb⟩ := hfirst a ha
    have hne : rEGR_RING_BASE_LO k - a.base ≠ 0 := by unfold rEGR_RING_BASE_LO at *; omega
    simp [hd, inDims, hne]

theorem idx_ringBaseLo (k : Nat) : idx (rEGR_RING_BASE_LO k) (rEGR_RING_BASE_LO 0) 32 = k := by
  unfold idx rEGR_RING_BASE_LO
  omega

theorem ringBaseLo_fieldOk {k : Nat} {s : State} (h : s.on (fEGR_RING_CFG_EN k) = false) (v : Nat) :
    s.fieldOk (rEGR_RING_BASE_LO 0) (rEGR_RING_BASE_LO k) 0 v = true := by
  have hidx := idx_ringBaseLo k
  change (!s.on (fEGR_RING_CFG_EN (idx (rEGR_RING_BASE_LO k) (rEGR_RING_BASE_LO 0) 32))) = true
  rw [hidx, h]
  rfl

/-- A disabled ring's base address takes the word written, at 64-byte alignment (R341). -/
theorem ringBaseLo_stored {k : Nat} (hk : k < 192) {s : State} (hen : s.on (fEGR_RING_CFG_EN k) = false) (v : Nat) :
    (afterWrite (rEGR_RING_BASE_LO 0) (rEGR_RING_BASE_LO k) (v % 2 ^ 32)
      (storeFields ringBaseLoDesc (rEGR_RING_BASE_LO k) (v % 2 ^ 32) s)).rd (fEGR_RING_BASE_LO_LO k) = v % 2 ^ 32 / 64 * 64 := by
  have hstored := storeFields_rd (regAt_ringBaseLo hk) (v % 2 ^ 32) s ⟨0, 32, 0, .rw, false⟩ (by decide)
  have hfield : fieldAt (rEGR_RING_BASE_LO k) ⟨0, 32, 0, .rw, false⟩ = fEGR_RING_BASE_LO_LO k := by
    rw [fieldAt, resetAt_egr (ringBaseLo_block hk)]
  have hval : storedField s ringBaseLoDesc.base (rEGR_RING_BASE_LO k) (v % 2 ^ 32) ⟨0, 32, 0, .rw, false⟩ = v % 2 ^ 32 := by
    have hok : s.fieldOk ringBaseLoDesc.base (rEGR_RING_BASE_LO k) 0 (bitsAt (v % 2 ^ 32) 0 32) = true := ringBaseLo_fieldOk hen _
    unfold storedField
    dsimp only [accessOf]
    rw [if_pos hok, bitsAt]
    omega
  rw [hfield, hval] at hstored
  rw [afterWrite_ringBaseLo, State.rd_wr, hstored]
  change v % 2 ^ 32 / 64 * 64 % 2 ^ 32 = _
  omega

theorem ringBaseLo_wordOk (off v : Nat) (s : State) : s.wordOk (rEGR_RING_BASE_LO 0) off v = true := rfl

theorem ringBaseLo_ownWrite (off v : Nat) (twin window : Bool) (s : State) : ownWrite (rEGR_RING_BASE_LO 0) off v twin window s = none := rfl

theorem regAt_rlSel : regAt rCHS_RL_SEL = some ⟨"CHS_RL_SEL", 0xD0040, [], [⟨0, 8, 0, .rw, false⟩]⟩ := rfl

theorem regAt_slotSel : regAt rING_SLOT_SEL = some ⟨"ING_SLOT_SEL", 0x30040, [], [⟨0, 13, 0, .rw, false⟩]⟩ := rfl

/-- A write of CHS_RL_SEL shows the code's limit (R374). -/
theorem rlSelect_rd (v : Nat) (s : State) :
    (rlSelect v s).rd fCHS_RL_SEL_CODE = v % 256 ∧ (rlSelect v s).rd fCHS_RL_CFG_BURST = s.rlBurst (v % 256) % 256 ∧
      (rlSelect v s).rd fCHS_RL_CFG_PERIOD_MS = s.rlPeriod (v % 256) % 65536 ∧
      ((rlSelect v s).on fCHS_RL_CFG_FIXED = true ↔ chsFixed (v % 256) = true) := by
  have hb (t : State) (c : Nat) : t.rlBurst c = smGet 16 t.mram.chs.rlBurst c := rfl
  have hp (t : State) (c : Nat) : t.rlPeriod c = smGet 1000 t.mram.chs.rlPeriod c := rfl
  unfold rlSelect State.on State.wrB
  simp (disch := decide) only [State.rd_wr, State.rd_wr_ne, trunc, hb, hp, State.wr_mram]
  cases chsFixed (v % 256) <;> simp

/-- A write of ING_SLOT_SEL shows the slot's counts (R150). -/
theorem ingSelect_rd (v : Nat) (s : State) :
    (ingSelect v s).rd fING_SLOT_SEL_SLOT = v % 8192 ∧ (ingSelect v s).rd fING_SLOT_CNT_RECORDS = (s.ingSlot (v % 8192)).count % 2 ^ 32 ∧
      (ingSelect v s).rd fING_SLOT_DROP_CNT_FRAMES = (s.ingSlot (v % 8192)).drops % 2 ^ 32 := by
  unfold ingSelect State.wrB
  simp (disch := decide) only [State.rd_wr, State.rd_wr_ne, trunc]
  exact ⟨Nat.mod_mod _ _, trivial, trivial⟩

theorem ingSelect_dom (v : Nat) (s : State) : (ingSelect v s).dom = s.dom := by
  unfold ingSelect State.wrB
  simp only [State.wr_dom]

/-! ### What a read shows, clears and latches -/

/-- Counting an event changes the counters only (R502). -/
theorem ev_eq_setPmc (e n : Nat) (s : State) : ∃ p, State.ev e s n = s.setPmc p := by
  unfold State.ev
  split
  · exact ⟨s.pmc, rfl⟩
  · rename_i i _
    generalize List.range i.counters.length = l
    suffices h : ∀ p, ∃ q, l.foldl _ (s.setPmc p) = s.setPmc q from h s.pmc
    induction l with
    | nil => exact fun p => ⟨p, rfl⟩
    | cons k ks ih =>
      intro p
      rw [List.foldl_cons]
      dsimp only
      split
      · split <;> exact ih _
      · exact ih p

/-- No register shows a counter's present value. -/
theorem readWord_setPmc (s : State) (p : Pmc) (off : Nat) : (s.setPmc p).readWord off = s.readWord off := rfl

theorem readLatch_out (base off : Nat) (s : State) : (readLatch base off s).out = s.out :=
  (readLatch_kept base off (Kept.refl 2129929 s) (Nat.and_self _)).2.2.same .out (by decide)

theorem clearRc_out (r : RegDesc) (off : Nat) (s : State) : (clearRc r off s).out = s.out :=
  (clearRc_kept r off (Kept.refl 1 s) (Nat.and_self _)).2.2.same .out (by decide)

/-- The registers whose read shows the low word of a 64-bit value (R84). -/
def live64Bases : List Nat :=
  [rCLV_NOW_LO, rCHS_SEQ_LO, rCHS_KEEP_LO, rCHS_OLDEST_LO, rSM_TICK_LO, rPGH_TICK_LO, rTMB_TICK_LO, rTMB_SWAP_LO, rACC_COMMIT_TICK_LO,
    rSNR_TRIG_LO 0, rBUR_GEN_LO, rPAIR_EPOCH_LO, rPAIR_SYNC_TICK_LO, rPAIR_AUTH_TICK_LO, rPMC_SNAP_TICK_LO]

theorem live64_isSome (s : State) (base off : Nat) : (s.live64 base off).isSome = decide (base ∈ live64Bases) := by
  unfold State.live64 live64Bases
  split_ifs <;> simp_all

/-- Whether a register shows a 64-bit value is the same in every state. -/
theorem live64_eq_none {s : State} {base off : Nat} (h : s.live64 base off = none) (t : State) : t.live64 base off = none := by
  rw [← Option.isNone_iff_eq_none, ← Option.not_isSome, live64_isSome] at *
  exact h

/-- No such register has an RC field. -/
theorem live64_fields_acc {off v : Nat} {r : RegDesc} (hr : regAt off = some r) {s : State} (hl : s.live64 r.base off = some v) :
    ∀ d ∈ r.fields, d.acc ≠ .rc := by
  have hb : r.base ∈ live64Bases := by simpa [hl] using live64_isSome s r.base off
  exact regAt_forall (P := fun r => r.base ∈ live64Bases → ∀ d ∈ r.fields, d.acc ≠ .rc) (by decide) hr hb

/-- A read of a register that shows no 64-bit value latches no field of its own; the two that remove the head of a queue are left out. -/
theorem readLatch_sameAt {off : Nat} {r : RegDesc} (hr : regAt off = some r) {s : State} (hl : s.live64 r.base off = none)
    (hq : r.base ∉ [rCLV_CAP_HI 0, rLMF_ICV_QTIME 0]) : SameAt off s (readLatch r.base off s) := by
  have hs := SameAt.refl off s
  unfold readLatch
  rw [hl]
  dsimp only
  split
  case isTrue h => rw [h] at hl; cases hl
  split
  case isTrue h => exact hs.of_regs rfl
  split
  case isTrue h => exact hs.of_regs rfl
  split
  case isTrue h =>
    have hoff : off = rSM_TIME_NS := (regAt_single hr (by rw [h]; decide)).trans h
    exact hs.wr _ (by rw [hoff]; decide)
  split
  case isTrue h =>
    have hdims := regAt_forall (P := fun r => r.base = rLMF_SD_LAST 0 → r.dims = [(32, 8)]) (by decide) hr h
    have hoff : off = rLMF_SD_LAST (idx off r.base 32) := (regAt_array hr hdims).2.trans (by rw [h])
    have hne : rLMF_SD_TIME (idx off r.base 32) ≠ rLMF_SD_LAST (idx off r.base 32) := by unfold rLMF_SD_TIME rLMF_SD_LAST; omega
    rw [← hoff] at hne
    exact hs.wr _ hne
  simp only [List.mem_cons, List.not_mem_nil, or_false, not_or] at hq
  rw [if_neg hq.1, if_neg hq.2]
  exact hs

/-- A read of the low word of a 64-bit value latches its high word (R84). -/
theorem readLatch_high {off v : Nat} {r : RegDesc} (hr : regAt off = some r) {s : State} (hl : s.live64 r.base off = some v) :
    (readLatch r.base off s).rd ⟨off + 4, 0, 32, 0⟩ = v / 2 ^ 32 % 2 ^ 32 := by
  have hhigh : (s.wr ⟨off + 4, 0, 32, 0⟩ (v / 2 ^ 32)).rd ⟨off + 4, 0, 32, 0⟩ = v / 2 ^ 32 % 2 ^ 32 := State.rd_wr ..
  unfold readLatch
  rw [hl]
  dsimp only
  split
  case isTrue h =>
    have hoff : off = rCLV_NOW_LO := (regAt_single hr (by rw [h]; decide)).trans h
    rw [State.rd_wr_ne _ (by rw [hoff]; decide)]
    exact hhigh
  split
  case isTrue h => exact hhigh
  split
  case isTrue h => exact hhigh
  split
  case isTrue h => rw [h] at hl; cases hl
  split
  case isTrue h => rw [h] at hl; cases hl
  split
  case isTrue h => rw [h] at hl; cases hl
  split
  case isTrue h => rw [h] at hl; cases hl
  exact hhigh

theorem doRead_at {off : Nat} {r : RegDesc} (ha : aliasOf off = off) (hr : regAt off = some r) (s : State) :
    doRead off s = readLatch r.base off (clearRc r off (s.answer off (s.readWord off))) := by
  simp only [doRead, ha, hr]

theorem answer_out (s : State) (off v : Nat) : (s.answer off v).out = s.out ++ [.readData off (v % 2 ^ 32)] := rfl

theorem answer_rd (s : State) (off v : Nat) (f : Fld) : (s.answer off v).rd f = s.rd f := rfl

theorem doRead_out {off : Nat} {r : RegDesc} (ha : aliasOf off = off) (hr : regAt off = some r) (s : State) :
    (doRead off s).out = s.out ++ [.readData off (s.readWord off % 2 ^ 32)] := by
  rw [doRead_at ha hr, readLatch_out, clearRc_out, answer_out]

/-- A read that shows no 64-bit value clears the register's RC fields and leaves its others. -/
theorem doRead_rd {off : Nat} {r : RegDesc} (ha : aliasOf off = off) (hr : regAt off = some r) {s : State} (hl : s.live64 r.base off = none)
    (hq : r.base ∉ [rCLV_CAP_HI 0, rLMF_ICV_QTIME 0]) :
    ∀ d ∈ r.fields, (doRead off s).rd (fieldAt off d) = if d.acc = .rc then 0 else s.rd (fieldAt off d) := by
  intro d hd
  rw [doRead_at ha hr, readLatch_sameAt hr (live64_eq_none hl _) hq _ (fieldAt_key_div (regAt_field_lo hr d hd)), clearRc_rd hr _ d hd,
    answer_rd]

theorem doRead_high {off v : Nat} {r : RegDesc} (ha : aliasOf off = off) (hr : regAt off = some r) {s : State}
    (hl : s.live64 r.base off = some v) : (doRead off s).rd ⟨off + 4, 0, 32, 0⟩ = v / 2 ^ 32 % 2 ^ 32 := by
  rw [doRead_at ha hr, clearRc_eq_self (live64_fields_acc hr hl)]
  exact readLatch_high hr hl

/-- The word read of such a register is the value's low word. -/
theorem readWord_live64 {off v : Nat} {r : RegDesc} (ha : aliasOf off = off) (hr : regAt off = some r) {s : State}
    (hl : s.live64 r.base off = some v) : s.readWord off = v % 2 ^ 32 := by
  have hcap : r.base ≠ rCLV_CAP_HI 0 := by
    intro h
    rw [h] at hl
    cases hl
  simp only [State.readWord, ha, hr, if_neg hcap, State.showReg, hl]

/-- A read that passes is counted and done. -/
theorem busRead_passes {off : Nat} {s : State} (h : s.passes (accessDom off) = true) : ∃ p, busRead off s = doRead off (s.setPmc p) := by
  obtain ⟨p, hp⟩ := ev_eq_setPmc 0x36C 1 s
  have hpass : (s.setPmc p).passes (accessDom off) = true := h
  refine ⟨p, ?_⟩
  unfold busRead
  rw [hp]
  exact if_pos hpass

theorem hostRead_word {off : Nat} {s : State} (hre : s.reaches off = true) (hal : off % 4 = 0) : hostRead off false s = busRead off s := by
  rw [hostRead, hostAccess_word hre hal]
  simp only [Nat.mul_zero, Nat.add_zero]

theorem hostRead_wide {off : Nat} {s : State} (hre : s.reaches off = true) (hal : off % 8 = 0) :
    hostRead off true s = busRead (off + 4) (busRead off s) := by
  rw [hostRead, hostAccess_wide hre hal]
  simp only [Nat.mul_zero, Nat.add_zero, Nat.mul_one]

/-! ### The statements -/

/-- Settles O3: the register file is empty after reset, so that every field reads its reset value. -/
theorem resetValues : Obligations.ResetValues :=
  ⟨fun _ => rfl, rfl, rfl, rfl, rfl, rfl, rfl, rfl, rfl, rfl, rfl⟩

/-- Settles O12: the fields of a register do not overlap, so each takes what R6 stores in it, and what follows a stored write lies in other
registers, but for EN of a ring, which is written as it was stored. -/
theorem registerWriteRows : Obligations.RegisterWriteRows := by
  refine ⟨?stored, ?ringBase, fun _ _ _ _ _ => rfl, ?wide, ?unaligned, ?noRegister, ?held, ?rlSel, ?slotSel⟩
  case stored =>
    intro off v twin s r hre hal ha hp hst hr hw ho hlo
    refine ⟨_, exec_registerWrite .., ?_⟩
    have hreg := regWrite_stored ha hr hw ho
    rw [if_pos rfl, hostWrite_passes hre hal hp hst (by rw [hreg, afterWrite_dom, storeFields_dom]), hreg]
    exact storedWrite_rd hr hlo (v % 2 ^ 32) s
  case ringBase =>
    intro k hk v twin s hup hfab hheld hst hen
    refine ⟨_, exec_registerWrite .., ?_⟩
    have hoff := ringBaseLo_lt hk
    have ha := aliasOf_of_lt hoff
    have hdom := accessDom_ringBaseLo hk
    have hre : s.reaches (rEGR_RING_BASE_LO k) = true := by
      rw [State.reaches, hup, Bool.true_and, decide_eq_true_eq]
      omega
    have hp : s.passes (accessDom (rEGR_RING_BASE_LO k)) = true := hdom ▸ passes_of_alive hheld hfab
    have hreg := regWrite_stored (v := v) (twin := twin) (s := s) ha (regAt_ringBaseLo hk) (ringBaseLo_wordOk ..) (ringBaseLo_ownWrite ..)
    rw [if_pos rfl, hostWrite_passes hre (by unfold rEGR_RING_BASE_LO; omega) hp hst (by rw [hreg, afterWrite_dom, storeFields_dom]), hreg]
    exact ringBaseLo_stored hk hen v
  case wide =>
    intro off v twin s hre hal
    rw [exec_registerWrite, if_pos rfl, hostWrite_wide hre hal]
  case unaligned =>
    intro off v wide twin s hre hal
    rw [exec_registerWrite, if_pos rfl, hostWrite, hostAccess_unaligned hre hal]
  case noRegister =>
    intro off v twin s hre hal hp hst hnone
    have hreg := regWrite_of_none hnone v twin s
    rw [exec_registerWrite, if_pos rfl, hostWrite_passes hre hal hp hst (by rw [hreg]), hreg]
  case held =>
    intro off v twin s hre hal hp hst hn
    rw [exec_registerWrite, if_pos rfl, hostWrite_word hre hal, busWrite_held hp hst hn]
  case rlSel =>
    intro v s hup hstew hheld hst
    refine ⟨_, exec_selectLatchWrite .., ?_⟩
    have hre : s.reaches rCHS_RL_SEL = true := by rw [State.reaches, hup]; rfl
    have hp : s.passes (accessDom rCHS_RL_SEL) = true := passes_of_alive hheld hstew
    have hreg : regWrite rCHS_RL_SEL v false s = rlSelect (v % 2 ^ 32) s := regWrite_own rfl regAt_rlSel rfl rfl
    rw [hostWrite_passes hre rfl hp hst (by rw [hreg]; rfl), hreg]
    have hmod : v % 2 ^ 32 % 256 = v % 256 := by omega
    have hrd := rlSelect_rd (v % 2 ^ 32) s
    rwa [hmod] at hrd
  case slotSel =>
    intro v s hup hfab hheld hst
    refine ⟨_, exec_selectLatchWrite .., ?_⟩
    have hre : s.reaches rING_SLOT_SEL = true := by rw [State.reaches, hup]; rfl
    have hp : s.passes (accessDom rING_SLOT_SEL) = true := passes_of_alive hheld hfab
    have hreg : regWrite rING_SLOT_SEL v false s = ingSelect (v % 2 ^ 32) s := regWrite_own rfl regAt_slotSel rfl rfl
    rw [hostWrite_passes hre rfl hp hst (by rw [hreg, ingSelect_dom]), hreg]
    have hmod : v % 2 ^ 32 % 8192 = v % 8192 := by omega
    have hrd := ingSelect_rd (v % 2 ^ 32) s
    rwa [hmod] at hrd

/-- Settles O13: counting the read shows in no register, a read's latches lie in other registers, and the registers that show a 64-bit value
have no RC field. -/
theorem registerReadRows : Obligations.RegisterReadRows := by
  refine ⟨?word, ?wide, ?unaligned, ?low⟩
  case word =>
    intro off s r hre hal ha hp hr hl hq
    obtain ⟨p, hread⟩ := busRead_passes hp
    refine ⟨_, exec_rcRead .., ?_⟩
    rw [hostRead_word hre hal, hread]
    have hrd := doRead_rd ha hr (s := s.setPmc p) hl hq
    refine ⟨?_, fun d hd hrc => ?_, fun d hd hrc => ?_⟩
    · rw [doRead_out ha hr, readWord_setPmc, State.setPmc_out]
    · rw [hrd d hd, if_pos hrc]
    · rw [hrd d hd, if_neg hrc, State.setPmc_rd]
  case wide =>
    intro off s hre hal
    rw [exec_rcRead, hostRead_wide hre hal]
  case unaligned =>
    intro off wide s hre hal
    rw [exec_rcRead, hostRead, hostAccess_unaligned hre hal]
  case low =>
    intro off s r v hre hal ha hp hr hl
    obtain ⟨p, hread⟩ := busRead_passes hp
    refine ⟨_, exec_loLatchRead .., ?_⟩
    rw [hostRead_word hre hal, hread]
    have hl' : (s.setPmc p).live64 r.base off = some v := hl
    refine ⟨?_, doRead_high ha hr hl'⟩
    rw [doRead_out ha hr, readWord_live64 ha hr hl', Nat.mod_mod, State.setPmc_out]

end Sys2Proof.Machine
end

section
/-!
PROOFS. Scope: the invariant at reset, and what every step keeps and what none undoes (R26, R35, R96, R360, R364, R466), from the lemmas
that a command (`exec_kept`) and an idle cycle (`idleTick_kept`) do so.
-/

namespace Sys2Proof.Machine

/-- The front of the queue is taken from a state that keeps the rest of it. -/
def State.dequeued (s : State) : State := { s with pending := s.pending.tail }

theorem State.dequeued_of_nil {s : State} (h : s.pending = []) : s.dequeued = s := by
  rw [State.dequeued, h, List.tail_nil, ← h]

theorem step_nil {s : State} (h : s.pending = []) : step s = .next (idleTick s) := by
  rw [step, h]

theorem step_cons {c : Instr} {rest : List Instr} {s : State} (h : s.pending = c :: rest) : step s = exec c s.dequeued := by
  rw [step, State.dequeued, h, List.tail_cons]

/-- The invariant speaks of no queue. -/
theorem inv_dequeued {s : State} : Inv s.dequeued ↔ Inv s := Iff.rfl

/-- One step keeps the invariant and all that lasts, whether it idles or runs the command at the front of the queue; the rest of the queue
waits on. -/
theorem step_keeps {s t : State} (h : step s = .next t) : (Inv s → Inv t) ∧ Lasts s.dequeued t := by
  match hq : s.pending with
  | [] =>
    rw [step_nil hq] at h
    cases h
    rw [State.dequeued_of_nil hq]
    obtain ⟨hinv, hlasts, _⟩ := idleTick_kept (Kept.refl _ s) (Nat.and_self _)
    exact ⟨hinv, hlasts⟩
  | c :: rest =>
    rw [step_cons hq] at h
    obtain ⟨hinv, hlasts, _⟩ := (exec_kept c (Kept.refl _ s.dequeued) (Nat.and_self _)).keeps t h
    exact ⟨hinv ∘ inv_dequeued.2, hlasts⟩

theorem chestOk_reset : ChestOk State.reset.mram.chs State.reset.nand.chs :=
  ⟨List.Pairwise.nil, fun _ h => (List.not_mem_nil h).elim, Nat.zero_le _, Nat.zero_le _⟩

/-! ### The statements -/

/-- Settles O4: after reset the register file and the Chest's drawers are empty, and ports, pins and slots stand in their numbers. -/
theorem invReset : Obligations.InvReset :=
  ⟨List.Pairwise.nil, List.length_replicate, List.length_replicate, rfl, chestOk_reset⟩

/-- Settles O5: a step is an idle cycle or the front command, and each keeps the invariant. -/
theorem stepKeepsInv : Obligations.StepKeepsInv := fun _ _ hinv hstep => (step_keeps hstep).1 hinv

/-- Settles O6: a step is an idle cycle or the front command, and neither undoes what lasts; taking the command changes the queue alone. -/
theorem stepLasts : Obligations.StepLasts := by
  intro s t hstep
  obtain ⟨-, hlasts⟩ := step_keeps hstep
  exact ⟨hlasts.up, hlasts.fv, hlasts.out, hlasts.chest⟩

end Sys2Proof.Machine
end

section
/-!
PROOFS. Scope: Clave's time (R65 to R84).
-/

namespace Sys2Proof.Machine

/-! ### The time read (R84) -/

theorem regAt_nowLo : regAt rCLV_NOW_LO = some ⟨"CLV_NOW_LO", 0x10020, [], [⟨0, 32, 0, .ro, false⟩]⟩ := rfl

theorem regAt_nowHi : regAt rCLV_NOW_HI = some ⟨"CLV_NOW_HI", 0x10024, [], [⟨0, 32, 0, .ro, false⟩]⟩ := rfl

/-- Without TIME_SKEW a reader sees Clave's time, at 64 bits. -/
theorem readerNow_of_no_skew {s : State} (h : s.action 7 = false) : s.readerNow = s.clv.now % 2 ^ 64 := by
  simp only [State.readerNow, h, ofSigned, Bool.false_eq_true, if_false, add_zero]
  omega

/-- CLV_NOW_HI shows the value latched last. -/
theorem readWord_nowHi (s : State) : s.readWord rCLV_NOW_HI = s.rd fCLV_NOW_HI_NOW_HI := by
  have hshow : s.readWord rCLV_NOW_HI = 0 + s.rd fCLV_NOW_HI_NOW_HI * 2 ^ 0 := rfl
  rw [hshow, zero_add, pow_zero, mul_one]

/-- A read of CLV_NOW_LO latches the reseat generation. -/
theorem doRead_nowLo_gen (s : State) : (doRead rCLV_NOW_LO s).rd fCLV_RESEAT_STS_GEN_LATCHED = s.rd fCLV_RESEAT_STS_GEN % 256 := by
  rw [doRead_at rfl regAt_nowLo, clearRc_eq_self (by decide)]
  exact State.rd_wr ..

/-- Settles O14: CLV_NOW_LO shows a 64-bit value, whose high word and generation its read latches; CLV_NOW_HI is an ordinary register. -/
theorem nowRead : Obligations.NowRead := by
  obtain ⟨hword, -, -, hlow⟩ := registerReadRows
  refine ⟨fun s hre hp hskew => ?_, fun s hre hp => ?_⟩
  · obtain ⟨t, hexec, hout, hhigh⟩ := hlow _ s _ _ hre rfl rfl hp regAt_nowLo rfl
    obtain ⟨p, hread⟩ := busRead_passes hp
    have ht : t = doRead rCLV_NOW_LO (s.setPmc p) := by
      rw [exec_loLatchRead, hostRead_word hre rfl, hread] at hexec
      exact (Host.Outcome.next.inj hexec).symm
    rw [readerNow_of_no_skew hskew] at hout hhigh
    refine ⟨t, hexec, hout.trans ?_, hhigh.trans ?_, ?_⟩
    · rw [Nat.mod_mod_of_dvd _ (by decide)]
    · omega
    · rw [ht, doRead_nowLo_gen, State.setPmc_rd]
  · obtain ⟨t, hexec, hout, -, hkept⟩ := hword _ s _ hre rfl rfl hp regAt_nowHi rfl (by decide)
    refine ⟨t, hexec, ?_, hkept ⟨0, 32, 0, .ro, false⟩ (by decide) (by decide)⟩
    rw [hout, readWord_nowHi]

end Sys2Proof.Machine
end

section
/-!
PROOFS. Scope: the PTP messages of Clave (R70, R71).
-/

namespace Sys2Proof.Machine

/-! ### PTP ports -/

theorem ptpPort_eq_of_clv {s t : State} (h : t.clv = s.clv) (k : Nat) : t.ptpPort k = s.ptpPort k := by
  unfold State.ptpPort
  rw [h]

theorem ptpPort_setPtpPort_self {s : State} {k : Nat} (h : k < s.clv.ptp.length) (p : PtpPort) : (s.setPtpPort k p).ptpPort k = p := by
  simp [State.ptpPort, State.setPtpPort, h]

theorem ptpPort_setPtpPort_ne {j k : Nat} (h : j ≠ k) (s : State) (p : PtpPort) : (s.setPtpPort k p).ptpPort j = s.ptpPort j := by
  simp [State.ptpPort, State.setPtpPort, List.getD_eq_getElem?_getD, List.getElem?_set_ne h.symm]

theorem ptp_length_setPtpPort (s : State) (k : Nat) (p : PtpPort) : (s.setPtpPort k p).clv.ptp.length = s.clv.ptp.length :=
  List.length_set ..

theorem ptpPort_of_ge {s : State} {k : Nat} (h : s.clv.ptp.length ≤ k) : s.ptpPort k = {} := by
  simp [State.ptpPort, List.getD_eq_getElem?_getD, List.getElem?_eq_none h]

theorem setPtpPort_of_ge {s : State} {k : Nat} (h : s.clv.ptp.length ≤ k) (p : PtpPort) : s.setPtpPort k p = s := by
  rw [State.setPtpPort, List.set_eq_of_length_le h]
  rfl

/-- A port that has sent a request is one of those held. -/
theorem lt_of_ptpPort_req {s : State} {k : Nat} {r : Nat × Nat} (h : (s.ptpPort k).req = some r) : k < s.clv.ptp.length := by
  by_contra hk
  rw [ptpPort_of_ge (Nat.le_of_not_lt hk)] at h
  cases h

theorem ptpHears_of {s : State} {k dom : Nat} (hen : s.on (fCLV_PTP_PORT_CFG_EN k) = true) (hdom : dom = s.rd fCLV_PTP_CFG_DOMAIN) :
    s.ptpHears k dom = true := by
  rw [State.ptpHears, hen, decide_eq_true hdom]
  rfl

/-! ### The BMCA (R70, R71) -/

theorem beforeStep_eq_of_regs {s t : State} (h : t.regs = s.regs) : t.beforeStep = s.beforeStep := by
  unfold State.beforeStep State.clvState State.on State.rd
  rw [h]

/-- Go through PTP ports and give each that is in use a role. -/
def giveRoles (role : State → Nat → PtpRole) (l : List Nat) (s : State) : State :=
  l.foldl (fun s k => if !s.on (fCLV_PTP_PORT_CFG_EN k) then s else s.setPtpPort k { s.ptpPort k with role := role s k }) s

/-- A role that depends on the registers and the port alone is given as in the state before. -/
theorem giveRoles_ptpPort {role : State → Nat → PtpRole}
    (hrole : ∀ t u k, t.regs = u.regs → t.ptpPort k = u.ptpPort k → role t k = role u k) (s : State) {l : List Nat} (hl : l.Nodup) {k : Nat}
    (hk : k < s.clv.ptp.length) :
    (giveRoles role l s).ptpPort k =
      if k ∈ l ∧ s.on (fCLV_PTP_PORT_CFG_EN k) = true then { s.ptpPort k with role := role s k } else s.ptpPort k := by
  induction l generalizing s with
  | nil => simp [giveRoles]
  | cons x xs ih =>
    obtain ⟨hx, hxs⟩ := List.nodup_cons.1 hl
    rw [giveRoles, List.foldl_cons]
    by_cases hon : s.on (fCLV_PTP_PORT_CFG_EN x) = true
    · rw [if_neg (by simp [hon])]
      refine (ih _ hxs (by rwa [ptp_length_setPtpPort])).trans ?_
      have hen (p : PtpPort) : (s.setPtpPort x p).on (fCLV_PTP_PORT_CFG_EN k) = s.on (fCLV_PTP_PORT_CFG_EN k) := rfl
      rw [hen]
      by_cases hkx : k = x
      · subst hkx
        rw [if_neg (fun h => hx h.1), if_pos ⟨List.mem_cons_self, hon⟩, ptpPort_setPtpPort_self hk]
      · rw [ptpPort_setPtpPort_ne hkx, hrole (s.setPtpPort x _) s k rfl (ptpPort_setPtpPort_ne hkx ..)]
        simp [hkx]
    · rw [if_pos (by simpa using hon)]
      refine (ih s hxs hk).trans ?_
      by_cases hkx : k = x
      · subst hkx
        simp [hon]
      · simp [hkx]

/-- The BMCA gives roles; before the first-lock step the port of the best data set is the slave. -/
theorem runBmca_eq_giveRoles (s : State) : ∃ role, runBmca s = giveRoles role (List.range 8) s ∧
    (∀ t u k, t.regs = u.regs → t.ptpPort k = u.ptpPort k → role t k = role u k) ∧
    ∀ k d, s.bestPort = some (k, d) → s.beforeStep = true → role s k = .slave := by
  refine ⟨_, rfl, fun t u k hregs hport => ?_, fun k d hbest hstep => ?_⟩
  · rw [beforeStep_eq_of_regs hregs, hport]
  · simp [hbest, hstep]

/-- The BMCA changes roles only. -/
theorem runBmca_ptpPort {s : State} {k : Nat} (hlen : k < s.clv.ptp.length) : ∃ r, (runBmca s).ptpPort k = { s.ptpPort k with role := r } := by
  obtain ⟨role, hrun, hrole, -⟩ := runBmca_eq_giveRoles s
  rw [hrun, giveRoles_ptpPort hrole s List.nodup_range hlen]
  split
  · exact ⟨_, rfl⟩
  · exact ⟨_, rfl⟩

/-- A port's data set is lost to no change of roles. -/
theorem giveRoles_best (role : State → Nat → PtpRole) (l : List Nat) (s : State) (k : Nat) :
    ((giveRoles role l s).ptpPort k).best = (s.ptpPort k).best := by
  induction l generalizing s with
  | nil => rfl
  | cons x xs ih =>
    refine (ih _).trans ?_
    dsimp only
    split
    · rfl
    · by_cases hkx : k = x
      · subst hkx
        rcases Nat.lt_or_ge k s.clv.ptp.length with hk | hk
        · rw [ptpPort_setPtpPort_self hk]
        · rw [setPtpPort_of_ge hk]
      · rw [ptpPort_setPtpPort_ne hkx]

theorem runBmca_best (s : State) (k : Nat) : ((runBmca s).ptpPort k).best = (s.ptpPort k).best := by
  obtain ⟨role, hrun, -⟩ := runBmca_eq_giveRoles s
  rw [hrun, giveRoles_best]

theorem runBmca_setPtpPort {s : State} {k : Nat} (hk : k < s.clv.ptp.length) (p : PtpPort) :
    ∃ r, (runBmca (s.setPtpPort k p)).ptpPort k = { p with role := r } := by
  obtain ⟨r, hr⟩ := runBmca_ptpPort (s := s.setPtpPort k p) (by rwa [ptp_length_setPtpPort])
  exact ⟨r, by rw [hr, ptpPort_setPtpPort_self hk]⟩

theorem runBmca_slave {s : State} {k : Nat} {d : PtpDataset} (hlen : k < s.clv.ptp.length) (hk : k < 8)
    (hen : s.on (fCLV_PTP_PORT_CFG_EN k) = true) (hbest : s.bestPort = some (k, d)) (hstep : s.beforeStep = true) :
    ((runBmca s).ptpPort k).role = .slave := by
  obtain ⟨role, hrun, hrole, hslave⟩ := runBmca_eq_giveRoles s
  rw [hrun, giveRoles_ptpPort hrole s List.nodup_range hlen, if_pos ⟨List.mem_range.2 hk, hen⟩]
  exact hslave k d hbest hstep

/-- The only port that holds a data set holds the best one. -/
theorem bestPort_of_only {s : State} {k : Nat} {d : PtpDataset} (hk : k < 8) (hd : (s.ptpPort k).best = some d)
    (hother : ∀ j < 8, j ≠ k → (s.ptpPort j).best = none) : s.bestPort = some (k, d) := by
  have hall (j : Nat) (hj : j < 8) : (s.ptpPort j).best = if j = k then some d else none := by
    split
    case isTrue h => rw [h, hd]
    case isFalse h => exact hother j hj h
  simp only [State.bestPort, List.range, List.range.loop, List.foldl]
  rw [hall 0, hall 1, hall 2, hall 3, hall 4, hall 5, hall 6, hall 7] <;> try omega
  interval_cases k <;> rfl

/-! ### The TIME queue (R330) -/

theorem egrOffer_queued {n k : Nat} {s : State} (h : s.egrFull n k = false) (e : EgrFrame) : (egrOffer n k e s).egrQ n k = s.egrQ n k ++ [e] := by
  rw [egrOffer, if_neg (by simp [h]), State.setEgrQ, State.setEgrPort, State.egrQ, State.egrPort, State.setEgr_self, smGet_smSet_self,
    smGet_smSet_self]

/-- A PTP message joins the TIME queue of its frame port where the queue has room. -/
theorem ptpFrameOut_sent {k : Nat} {s : State} (h : s.egrFull (s.ptpOn k) qTime = false) (typ flags seq log : Nat) (body : Bytes) (msg : PtpMsg) :
    ptpSent k typ flags seq log body msg s (ptpFrameOut k typ flags seq log body msg s) :=
  ⟨_, egrOffer_queued h _, rfl, rfl⟩

theorem ptpFrameOut_clv (k typ flags seq log : Nat) (body : Bytes) (msg : PtpMsg) (s : State) :
    (ptpFrameOut k typ flags seq log body msg s).clv = s.clv :=
  (ptpFrameOut_kept k typ flags seq log body msg (Kept.refl _ s) (Nat.and_self _)).2.2.same .clv (by decide)

/-- A message sent as the port's state changes leaves that state and joins the TIME queue. -/
theorem ptpFrameOut_next {k : Nat} {s : State} (hk : k < s.clv.ptp.length) (h : s.egrFull (s.ptpOn k) qTime = false) (p : PtpPort)
    (typ flags seq log : Nat) (body : Bytes) (msg : PtpMsg) :
    ((ptpFrameOut k typ flags seq log body msg (s.setPtpPort k p)).ptpPort k).txSeq = p.txSeq ∧
      ptpSent k typ flags seq log body msg s (ptpFrameOut k typ flags seq log body msg (s.setPtpPort k p)) := by
  refine ⟨?_, ptpFrameOut_sent (s := s.setPtpPort k p) h ..⟩
  rw [ptpPort_eq_of_clv (ptpFrameOut_clv ..), ptpPort_setPtpPort_self hk]

theorem sourceUtc_ptpPort (ofs : Option Nat) (leap : Option (Nat × Bool)) (s : State) (k : Nat) :
    (sourceUtc ofs leap s).ptpPort k = s.ptpPort k := by
  unfold sourceUtc sourceOffset
  split <;> rfl

/-! ### The rows -/

/-- An Announce at a port that holds no data set is taken, the BMCA gives the roles, and the parent's offset and leap are taken. -/
theorem announce_taken {k : Fin 8} {dom : Fin 256} {ds : PtpDataset} {ival : Nat} {s : State} (hhears : s.ptpHears k dom = true)
    (hbest : (s.ptpPort k).best = none) :
    ∃ t, exec (.announce k dom ds ival) s = .next t ∧ ∀ j, t.ptpPort j =
      (runBmca (s.setPtpPort k { s.ptpPort k with best := some ds, bestAt := s.up, annInterval := ival })).ptpPort j := by
  refine ⟨_, rfl, fun j => ?_⟩
  simp only [hhears, hbest, Bool.not_true, Bool.false_eq_true, if_false]
  split
  · exact sourceUtc_ptpPort ..
  · rfl

/-- Settles O17: each message is answered or kept as its row says; what the module sends joins the TIME queue; the BMCA changes roles only. -/
theorem ptpRows : Obligations.PtpRows := by
  refine ⟨?announce, ?pdelayReq, ?pdelayResp, ?delayReq, ?delayResp, ?management, ?masterTx, ?silent, ?timeout⟩
  case announce =>
    intro k dom ds ival s hdom hen hbest hlen
    obtain ⟨t, hexec, hport⟩ := announce_taken (ds := ds) (ival := ival) (ptpHears_of hen hdom) hbest
    have hk : (k : Nat) < s.clv.ptp.length := by rw [hlen]; exact k.2
    obtain ⟨r, hr⟩ := runBmca_setPtpPort hk { s.ptpPort k with best := some ds, bestAt := s.up, annInterval := ival }
    refine ⟨t, hexec, ?_⟩
    simp only [hport]
    refine ⟨by rw [hr], by rw [hr], by rw [hr], fun hother hstep => ?_⟩
    refine runBmca_slave (by rwa [ptp_length_setPtpPort]) k.2 hen (bestPort_of_only k.2 (by rw [ptpPort_setPtpPort_self hk]) ?_) hstep
    intro j hj hne
    rw [ptpPort_setPtpPort_ne hne]
    exact hother ⟨j, hj⟩ fun e => hne (congrArg Fin.val e)
  case pdelayReq =>
    intro k dom q t2 asker s hdom hen hpeer hroom rx
    refine ⟨_, rfl, ?_⟩
    simp only [ptpHears_of hen hdom, hpeer, Bool.and_self, Bool.not_true, Bool.false_eq_true, if_false]
    split
    · exact ptpFrameOut_sent hroom ..
    · exact ptpFrameOut_sent hroom ..
  case pdelayResp =>
    intro k dom q t1 t2 t3 t4 c s hdom hen hpeer hreq
    refine ⟨_, rfl, ?_⟩
    simp only [hreq, ptpHears_of hen hdom, hpeer, Bool.and_self, decide_true, if_true]
    rw [ptpPort_setPtpPort_self (lt_of_ptpPort_req hreq)]
  case delayReq =>
    intro k dom q rx a s hdom hen hpeer hrole hroom
    refine ⟨_, rfl, ?_⟩
    simp only [ptpHears_of hen hdom, hpeer, hrole, Bool.not_false, Bool.and_self, decide_true, if_true]
    exact ptpFrameOut_sent hroom ..
  case delayResp =>
    intro k dom q t2 t3 t4 t1 c s hdom hen hpeer hreq hsync
    refine ⟨_, rfl, ?_⟩
    simp only [hreq, hsync, ptpHears_of hen hdom, hpeer, Bool.not_false, Bool.and_self, decide_true, if_true]
    rw [ptpPort_setPtpPort_self (lt_of_ptpPort_req hreq)]
  case management =>
    intro k dom s hdom hen
    exact congrArg Host.Outcome.next (if_pos (ptpHears_of hen hdom))
  case masterTx =>
    intro k s hen hroom hlen q log next
    have hk : (k : Nat) < s.clv.ptp.length := by rw [hlen]; exact k.2
    refine ⟨fun hstep hrole => ⟨⟨_, rfl, ?_⟩, ⟨_, rfl, ?_⟩⟩, fun hpeer => ⟨_, rfl, ?_⟩, fun hpeer hrole => ⟨_, rfl, ?_⟩⟩
    · simp only [hen, hstep, hrole, Bool.not_true, Bool.not_false, Bool.and_self, decide_true, Bool.false_eq_true, if_false, if_true]
      exact ptpFrameOut_next hk hroom ..
    · simp only [hen, hstep, hrole, Bool.not_true, Bool.not_false, Bool.and_self, decide_true, Bool.false_eq_true, if_false]
      split
      · exact ptpFrameOut_next hk hroom ..
      · exact ptpFrameOut_next hk hroom ..
    · simp only [hen, hpeer, Bool.not_true, Bool.false_eq_true, if_false, if_true]
      exact ptpFrameOut_next hk hroom ..
    · simp only [hen, hpeer, hrole, Bool.not_true, Bool.not_false, Bool.and_self, decide_true, Bool.false_eq_true, if_false, if_true]
      exact ptpFrameOut_next hk hroom ..
  case silent =>
    intro k s hstep
    refine ⟨congrArg Host.Outcome.next ?_, congrArg Host.Outcome.next ?_⟩
    · simp [hstep]
    · simp [hstep]
  case timeout =>
    intro k s hen hdue
    refine ⟨_, rfl, ?_⟩
    simp only [hen, decide_eq_true hdue, Bool.and_self, if_true]
    rw [runBmca_best]
    rcases Nat.lt_or_ge k s.clv.ptp.length with hk | hk
    · rw [ptpPort_setPtpPort_self hk]
    · rw [setPtpPort_of_ge hk, ptpPort_of_ge hk]

end Sys2Proof.Machine
end

section
/-!
PROOFS. Scope: what Clave's shared operations do (R69, R75 to R79): the flags and signed fields of its registers, its quality codes, and the
changes of its state; first what each leaves alone, then what each sets.
-/

namespace Sys2Proof.Machine

/-! ### Fields read after a write -/

theorem rd_wrB {f g : Fld} (h : g.key ≠ f.key) (s : State) (b : Bool) : (s.wrB f b).rd g = s.rd g := State.rd_wr_ne _ h _

theorem rd_flag {f g : Fld} (h : g.key ≠ f.key) (s : State) (b : Nat) : (s.flag f b).rd g = s.rd g := State.rd_wr_ne _ h _

theorem on_eq_of_rd {s t : State} {f : Fld} (h : t.rd f = s.rd f) : t.on f = s.on f := by unfold State.on; rw [h]

theorem bit_eq_of_rd {s t : State} {f : Fld} (h : t.rd f = s.rd f) (b : Nat) : t.bit f b = s.bit f b := by unfold State.bit; rw [h]

theorem on_wrB {f : Fld} (hw : 0 < f.w) (s : State) (b : Bool) : (s.wrB f b).on f = b := by
  have h1 : trunc f.w 1 = 1 := Nat.mod_eq_of_lt (Nat.one_lt_two_pow hw.ne')
  have h0 : trunc f.w 0 = 0 := Nat.zero_mod _
  unfold State.on State.wrB
  cases b <;> simp [h0, h1]

/-- A flag that is set stays set as another is, and the other is then set (R6). -/
theorem bit_flag {f : Fld} {b : Nat} (hb : b < f.w) (s : State) (c : Nat) : (s.flag f c).bit f b = (s.bit f b || decide (c = b)) := by
  rw [State.bit, State.flag, State.rd_wr, trunc, Nat.testBit_mod_two_pow, Nat.testBit_or, Nat.testBit_two_pow, decide_eq_true hb,
    Bool.true_and, State.bit]

theorem toSigned_ofSigned {w : Nat} (hw : 0 < w) {v : Int} (hlo : -(2 ^ (w - 1) : Nat) ≤ v) (hhi : v < (2 ^ (w - 1) : Nat)) :
    toSigned w (trunc w (ofSigned w v)) = v := by
  have hdouble : 2 ^ w = 2 * 2 ^ (w - 1) := by rw [← Nat.pow_succ', Nat.succ_eq_add_one, Nat.sub_add_cancel hw]
  have hpos : 0 < 2 ^ (w - 1) := Nat.two_pow_pos _
  unfold toSigned ofSigned trunc
  rw [Nat.mod_mod, hdouble]
  generalize 2 ^ (w - 1) = h at *
  have hlt : (v % ((2 * h : Nat) : Int)).toNat < 2 * h := by
    have := Int.emod_lt_of_pos v (b := ((2 * h : Nat) : Int)) (by omega)
    omega
  rw [Nat.mod_eq_of_lt hlt]
  rcases lt_or_ge v 0 with hneg | hnonneg
  · have hmod : v % ((2 * h : Nat) : Int) = v + (2 * h : Nat) := by
      rw [← Int.add_emod_right, Int.emod_eq_of_lt] <;> omega
    rw [hmod, if_neg (by omega)]
    omega
  · rw [Int.emod_eq_of_lt hnonneg (by omega), if_pos (by omega)]
    omega

theorem trunc_ofSigned (w : Nat) (v : Int) : trunc w (ofSigned w v) = ofSigned w v := by
  have hpos : 0 < 2 ^ w := Nat.two_pow_pos _
  have hlt := Int.emod_lt_of_pos v (b := ((2 ^ w : Nat) : Int)) (by omega)
  have hnonneg := Int.emod_nonneg v (b := ((2 ^ w : Nat) : Int)) (by omega)
  refine Nat.mod_eq_of_lt ?_
  unfold ofSigned
  omega

theorem rd_wrB_false (s : State) (f : Fld) : (s.wrB f false).rd f = 0 := (State.rd_wr ..).trans (Nat.zero_mod _)

/-- A signed field reads the value written to it, held within its width. -/
theorem rdS_wrSat {f : Fld} (hw : 0 < f.w) (s : State) (v : Int) : (s.wrSat f v).rdS f = satSigned f.w v := by
  have hpos : 0 < 2 ^ (f.w - 1) := Nat.two_pow_pos _
  rw [State.rdS, State.wrSat, State.rd_wr]
  refine toSigned_ofSigned hw ?_ ?_
  all_goals
    unfold satSigned
    omega

/-! ### Posts -/

theorem post_clv (code : Nat) (payload : Bytes) (s : State) : (post code payload s).clv = s.clv :=
  (post_kept code payload (Kept.refl _ s) (Nat.and_self _)).2.2.same .clv (by decide)

theorem post_mramPwr (code : Nat) (payload : Bytes) (s : State) : (post code payload s).mram.pwr = s.mram.pwr :=
  (post_kept code payload (Kept.refl _ s) (Nat.and_self _)).2.2.same .mramPwr (by decide)

/-! ### The error estimate and its quality codes (R79) -/

/-- The error estimate depends on Clave's data, the elapsed time and these four fields. -/
theorem errEst_eq_of {s t : State} (hclv : t.clv = s.clv) (hup : t.up = s.up)
    (hrd : ∀ f ∈ [fCLV_STS_STATE, fCLV_STS_STEPPED, fCLV_STS_SRC, fCLV_QUAL_CFG_DRIFT_PPB], t.rd f = s.rd f) : t.errEst = s.errEst := by
  obtain ⟨hstate, hstep, hsrc, hdrift⟩ : t.rd fCLV_STS_STATE = s.rd fCLV_STS_STATE ∧ t.rd fCLV_STS_STEPPED = s.rd fCLV_STS_STEPPED ∧
      t.rd fCLV_STS_SRC = s.rd fCLV_STS_SRC ∧ t.rd fCLV_QUAL_CFG_DRIFT_PPB = s.rd fCLV_QUAL_CFG_DRIFT_PPB :=
    ⟨hrd _ (by decide), hrd _ (by decide), hrd _ (by decide), hrd _ (by decide)⟩
  unfold State.errEst State.beforeStep State.clvState State.srcHist State.src State.on
  rw [hclv, hup, hstate, hstep, hsrc, hdrift]

theorem qualLost_wrB (s : State) (b : Bool) : (s.wrB fCLV_STS_QUAL_LOST b).qualLost = s.qualLost := by
  have herr : (s.wrB fCLV_STS_QUAL_LOST b).errEst = s.errEst :=
    errEst_eq_of rfl rfl fun f hf => rd_wrB ((by decide : ∀ f ∈ [fCLV_STS_STATE, fCLV_STS_STEPPED, fCLV_STS_SRC, fCLV_QUAL_CFG_DRIFT_PPB],
      f.key ≠ fCLV_STS_QUAL_LOST.key) f hf) s b
  have hlim : (s.wrB fCLV_STS_QUAL_LOST b).rd fCLV_QUAL_CFG_QUAL_LIMIT_NS = s.rd fCLV_QUAL_CFG_QUAL_LIMIT_NS := rd_wrB (by decide) s b
  unfold State.qualLost
  rw [herr, hlim]

/-- QUAL_LOST is set anew: its flag, the window's event, and an abdication trigger. -/
theorem updateQual_of_set {s : State} (hlost : s.qualLost = true) (hwas : s.on fCLV_STS_QUAL_LOST = false) :
    updateQual s = abdicate abdQualLost true (((s.wrB fCLV_STS_QUAL_LOST true).flag fCLV_FLT_FLAGS 8).smEvent 5) := by
  simp [updateQual, qualLost_wrB, hlost, hwas]

theorem updateQual_of_not_set {s : State} (h : ¬ (s.qualLost = true ∧ s.on fCLV_STS_QUAL_LOST = false)) :
    updateQual s = s.wrB fCLV_STS_QUAL_LOST s.qualLost := by
  have h' : ¬ (s.qualLost && !s.on fCLV_STS_QUAL_LOST) = true := by simpa using h
  simp only [updateQual, qualLost_wrB, if_neg h']

theorem abdicate_rd {f : Fld} (h : f.block ∉ abdBlocks) (cause : Nat) (conditional : Bool) (s : State) :
    (abdicate cause conditional s).rd f = s.rd f :=
  abdicate_regs cause conditional (regsOut_refl _ s) f h

/-- Bringing QUAL_LOST up to date leaves Clave's registers alone but for it and the fault flags. -/
theorem updateQual_rd {f : Fld} (hb : f.block ∉ 0x80 :: abdBlocks) (hq : f.key ≠ fCLV_STS_QUAL_LOST.key) (hf : f.key ≠ fCLV_FLT_FLAGS.key)
    (s : State) : (updateQual s).rd f = s.rd f := by
  obtain ⟨hsm, habd⟩ := not_or.1 (mt List.mem_cons.2 hb)
  have hint : f.key ≠ fSM_INT_STS_EVENTS.key := fun e => hsm (by rw [Fld.block, e]; decide)
  by_cases h : s.qualLost = true ∧ s.on fCLV_STS_QUAL_LOST = false
  · rw [updateQual_of_set h.1 h.2, abdicate_rd habd, State.smEvent, rd_flag hint, rd_flag hf, rd_wrB hq]
  · rw [updateQual_of_not_set h, rd_wrB hq]

theorem updateQual_on (s : State) : (updateQual s).on fCLV_STS_QUAL_LOST = s.qualLost := by
  by_cases h : s.qualLost = true ∧ s.on fCLV_STS_QUAL_LOST = false
  · rw [updateQual_of_set h.1 h.2, h.1]
    refine (on_eq_of_rd ?_).trans (on_wrB (by decide) s true)
    rw [abdicate_rd (by decide), State.smEvent, rd_flag (by decide), rd_flag (by decide)]
  · rw [updateQual_of_not_set h, on_wrB (by decide)]

theorem updateQual_flt_of_set {s : State} (hlost : s.qualLost = true) (hwas : s.on fCLV_STS_QUAL_LOST = false) :
    (updateQual s).rd fCLV_FLT_FLAGS = (s.flag fCLV_FLT_FLAGS 8).rd fCLV_FLT_FLAGS := by
  rw [updateQual_of_set hlost hwas, abdicate_rd (by decide), State.smEvent, rd_flag (by decide), State.flag, State.rd_wr, State.flag,
    State.rd_wr, rd_wrB (by decide)]

/-- QUAL_LOST set anew sets its fault flag. -/
theorem updateQual_flag {s : State} (hlost : s.qualLost = true) (hwas : s.on fCLV_STS_QUAL_LOST = false) :
    (updateQual s).bit fCLV_FLT_FLAGS 8 = true := by
  rw [bit_eq_of_rd (updateQual_flt_of_set hlost hwas), bit_flag (by decide), decide_eq_true rfl, Bool.or_true]

/-- A fault flag that is set stays set. -/
theorem updateQual_bit {s : State} {b : Nat} (hb : b < fCLV_FLT_FLAGS.w) (h : s.bit fCLV_FLT_FLAGS b = true) :
    (updateQual s).bit fCLV_FLT_FLAGS b = true := by
  by_cases hset : s.qualLost = true ∧ s.on fCLV_STS_QUAL_LOST = false
  · rw [bit_eq_of_rd (updateQual_flt_of_set hset.1 hset.2), bit_flag hb, h, Bool.true_or]
  · rw [updateQual_of_not_set hset, bit_eq_of_rd (rd_wrB (by decide) s _), h]

theorem updateQual_clv (s : State) : (updateQual s).clv = s.clv :=
  (updateQual_kept (Kept.refl _ s) (Nat.and_self _)).2.2.same .clv (by decide)

theorem updateQual_up (s : State) : (updateQual s).up = s.up :=
  (updateQual_kept (Kept.refl _ s) (Nat.and_self _)).2.2.same .up (by decide)

theorem updateQual_errEst (s : State) : (updateQual s).errEst = s.errEst :=
  errEst_eq_of (updateQual_clv s) (updateQual_up s) fun f hf =>
    have hne := (by decide : ∀ f ∈ [fCLV_STS_STATE, fCLV_STS_STEPPED, fCLV_STS_SRC, fCLV_QUAL_CFG_DRIFT_PPB],
      f.block ∉ 0x80 :: abdBlocks ∧ f.key ≠ fCLV_STS_QUAL_LOST.key ∧ f.key ≠ fCLV_FLT_FLAGS.key) f hf
    updateQual_rd hne.1 hne.2.1 hne.2.2 s

/-! ### Changes of state (R77) -/

/-- A record posted and QUAL_LOST brought up to date: what follows every change of Clave's state. -/
theorem updateQual_post_rd {f : Fld} (hb : f.block ∉ 0x80 :: abdBlocks) (hq : f.key ≠ fCLV_STS_QUAL_LOST.key)
    (hf : f.key ≠ fCLV_FLT_FLAGS.key) (code : Nat) (payload : Bytes) (s : State) : (updateQual (post code payload s)).rd f = s.rd f := by
  rw [updateQual_rd hb hq hf, post_rd _ _ _ ?_]
  constructor
  all_goals
    intro e
    exact hb (by rw [e]; decide)

theorem updateQual_post_clv (code : Nat) (payload : Bytes) (s : State) : (updateQual (post code payload s)).clv = s.clv := by
  rw [updateQual_clv, post_clv]

theorem updateQual_post_bit {s : State} {b : Nat} (hb : b < fCLV_FLT_FLAGS.w) (h : s.bit fCLV_FLT_FLAGS b = true) (code : Nat)
    (payload : Bytes) : (updateQual (post code payload s)).bit fCLV_FLT_FLAGS b = true :=
  updateQual_bit hb (by rw [bit_eq_of_rd (post_rd code payload s (by decide)), h])

end Sys2Proof.Machine
end

section
/-!
PROOFS. Scope: Clave's states (R69, R75 to R79, R546): the first-lock step, the loss of the source, STUCK, a leap, and the time in MRAM.
-/

namespace Sys2Proof.Machine

/-! ### The first-lock step (R77, R79) -/

/-- The offsets of the selected source's latest samples, by whose mean the first-lock step goes. -/
def State.firstOffsets (s : State) : List Int := (s.srcHist s.src).recent.map fun x => x.ofs

theorem firstLockStep_clv (s : State) : (firstLockStep s).clv = { (stepTime (meanInt s.firstOffsets) s).clv with
    hist := (s.firstOffsets.map fun x => x - meanInt s.firstOffsets).reverse, okRun := 0, refusedRun := 0, lastSample := s.up } := by
  unfold firstLockStep
  exact updateQual_post_clv ..

theorem firstLockStep_stepped (s : State) : (firstLockStep s).on fCLV_STS_STEPPED = true := by
  unfold firstLockStep
  rw [on_eq_of_rd (updateQual_post_rd (by decide) (by decide) (by decide) ..), on_wrB (by decide)]

/-! ### Holdover (R77) -/

theorem unusable_regs (src : Nat) (s : State) : (unusable src s).regs = s.regs := by
  unfold unusable
  dsimp only
  split
  · split <;> rfl
  · rfl

/-- A sample that is not usable touches the histories and a waiting command only. -/
theorem unusable_clv (src : Nat) (s : State) : ∃ l w, (unusable src s).clv = { s.clv with srcs := l, wait := w } := by
  unfold unusable
  dsimp only
  split
  · split
    · exact ⟨_, _, rfl⟩
    · exact ⟨_, _, rfl⟩
  · exact ⟨_, _, rfl⟩

theorem unusable_up (src : Nat) (s : State) : (unusable src s).up = s.up :=
  (unusable_kept src (Kept.refl _ s) (Nat.and_self _)).2.2.same .up (by decide)

theorem enterHoldover_clv (loss : Bool) (s : State) : ∃ e l, (enterHoldover loss s).clv =
    { s.clv with e0 := e, eSince := s.up, okRun := 0, srcs := l } := by
  unfold enterHoldover
  exact ⟨_, _, updateQual_post_clv ..⟩

theorem enterHoldover_state (loss : Bool) (s : State) : (enterHoldover loss s).clvState = clvHoldover := by
  unfold enterHoldover State.clvState
  rw [updateQual_post_rd (by decide) (by decide) (by decide), rd_flag (by decide), rd_wrB (by decide), State.rd_wr]
  rfl

theorem enterHoldover_srcOwns (loss : Bool) (s : State) : (enterHoldover loss s).on fCLV_UTC_CFG_SRC_OWNS = false := by
  unfold enterHoldover
  rw [on_eq_of_rd (updateQual_post_rd (by decide) (by decide) (by decide) ..), on_eq_of_rd (rd_flag (by decide) ..), on_wrB (by decide)]

theorem enterHoldover_flag (loss : Bool) (s : State) : (enterHoldover loss s).bit fCLV_FLT_FLAGS (if loss then 4 else 0) = true := by
  have hb : (if loss then 4 else 0) < fCLV_FLT_FLAGS.w := by cases loss <;> decide
  unfold enterHoldover
  refine updateQual_post_bit hb ?_ ..
  rw [bit_flag hb, decide_eq_true rfl, Bool.or_true]

/-- The rate freezes at the mean of the last minute where the source was lost in LOCKED. -/
theorem enterHoldover_rate (loss : Bool) {s : State} (hlocked : s.clvState = clvLocked) (hrates : s.clv.rates ≠ []) :
    (enterHoldover loss s).rdS fCLV_RATE_STS_RATE = satSigned fCLV_RATE_STS_RATE.w (meanInt s.clv.rates) := by
  have hfrozen : (decide (s.clvState = clvLocked) && !s.clv.rates.isEmpty) = true := by simp [hlocked, hrates]
  have hrd : (enterHoldover loss s).rd fCLV_RATE_STS_RATE = (s.wrSat fCLV_RATE_STS_RATE (meanInt s.clv.rates)).rd fCLV_RATE_STS_RATE := by
    unfold enterHoldover
    rw [updateQual_post_rd (by decide) (by decide) (by decide), rd_flag (by decide), rd_wrB (by decide), State.rd_wr_ne _ (by decide),
      State.setClv_rd, if_pos hfrozen]
  rw [State.rdS, hrd]
  exact rdS_wrSat (by decide) s _

/-- Settles O18: what follows a change of Clave's state, the record and QUAL_LOST, leaves the fields that the change has set. -/
theorem claveStateRows : Obligations.ClaveStateRows := by
  refine ⟨?firstLock, ?lost, ?stuck, ?quality, ?leap, ?mram⟩
  case firstLock =>
    intro s hstate hstep hwait l
    refine ⟨fun hq => ?_, fun hq => ?_⟩
    · have hexec : exec .firstLockWaitExpiry s = .next (firstLockStep s) := by
        refine congrArg Host.Outcome.next ?_
        simp only [tryFirstLock, hstate, hstep, hq, decide_eq_true hwait, decide_true, Bool.not_false, Bool.and_self, Bool.or_true, if_true]
      refine ⟨_, hexec, ?_⟩
      simp only [firstLockStep_clv, firstLockStep_stepped]
      exact ⟨rfl, trivial, trivial, rfl, trivial⟩
    · refine congrArg Host.Outcome.next ?_
      simp [tryFirstLock, hq]
  case lost =>
    intro s hstate hsilent
    have hexec : exec .srcLost s = .next (enterHoldover true (unusable s.src s)) := by
      refine congrArg Host.Outcome.next (if_pos ?_)
      simpa [hsilent] using hstate
    obtain ⟨l, w, hclv⟩ := unusable_clv s.src s
    obtain ⟨e, l', hclv'⟩ := enterHoldover_clv true (unusable s.src s)
    have hrd (f : Fld) : (unusable s.src s).rd f = s.rd f := by rw [State.rd, unusable_regs, State.rd]
    refine ⟨_, hexec, enterHoldover_state .., ?_, ?_, enterHoldover_flag true _, ?_, enterHoldover_srcOwns .., fun hlocked hrates => ?_⟩
    · rw [hclv', unusable_up]
    · rw [hclv']
    · rw [hclv', hclv]
    · have hrates' : (unusable s.src s).clv.rates = s.clv.rates := by rw [hclv]
      rw [enterHoldover_rate true ((hrd _).trans hlocked) (by rwa [hrates']), hrates']
  case stuck =>
    intro e s hepisode hstate hdue
    refine ⟨_, rfl, ?_⟩
    simp only [hepisode, hstate, decide_eq_true hdue, decide_true, Bool.and_self, if_true]
    refine ⟨?_, updateQual_post_bit (by decide) ?_ ..⟩
    · rw [State.clvState, updateQual_post_rd (by decide) (by decide) (by decide), rd_flag (by decide), State.rd_wr]
      rfl
    · rw [bit_flag (by decide), decide_eq_true rfl, Bool.or_true]
  case quality =>
    intro s hstate
    have hexec : exec .holdoverQualLost s = .next (updateQual s) := congrArg Host.Outcome.next (if_pos (by simpa using hstate))
    have hstate' : (updateQual s).clvState = s.clvState := updateQual_rd (by decide) (by decide) (by decide) s
    have hunlocked : s.clvState ≠ clvLocked := by rcases hstate with h | h <;> rw [h] <;> decide
    refine ⟨_, hexec, ?_, ?_, by rw [updateQual_on], updateQual_flag⟩
    · rw [State.tq, updateQual_errEst, hstate', decide_eq_false hunlocked]
    · rw [State.statTq, updateQual_errEst, hstate', decide_eq_false hunlocked]
  case leap =>
    intro d pos s hleap hdue
    refine ⟨_, rfl, ?_⟩
    simp only [hleap, if_pos hdue, post_clv, post_mramPwr]
    refine ⟨?_, rfl, rfl, ?_, ?_, ?_⟩
    · rw [post_rd _ _ _ (by decide), rd_wrB (by decide), rd_wrB (by decide), rd_wrB (by decide)]
      exact (State.rd_wr ..).trans (trunc_ofSigned ..)
    · rw [post_rd _ _ _ (by decide), rd_wrB (by decide), rd_wrB (by decide), rd_wrB_false]
    · rw [post_rd _ _ _ (by decide), rd_wrB (by decide), rd_wrB_false]
    · rw [post_rd _ _ _ (by decide), rd_wrB_false]
  case mram =>
    intro s halive hnew
    refine ⟨_, congrArg Host.Outcome.next (if_neg ?_), rfl, rfl⟩
    simp [halive, hnew]

end Sys2Proof.Machine
end

section
/-!
PROOFS. Scope: ticks and reseats (R66, R77, R82).
-/

namespace Sys2Proof.Machine

/-! ### Ticking begins (R77) -/

theorem snareArm_regs {B : List Nat} {o s : State} {k : Nat} (hB : 0x0C ∈ B) (hk : k < 4) (h : RegsOut B o s) : RegsOut B o (snareArm k s) := by
  have hb : ∀ {f : Fld}, f.block = 0x0C → f.block ∈ B := fun e => e ▸ hB
  have hclear : RegsOut B o (snrClear k s) := by
    unfold snrClear
    refine regsOut_wr _ (regsOut_wr _ (regsOut_wr _ (regsOut_wr _ (regsOut_wr _ (regsOut_wr _ (regsOut_wr _ (regsOut_wr _ (regsOut_regs h rfl)
      (hb ?_)) (hb ?_)) (hb ?_)) (hb ?_)) (hb ?_)) (hb ?_)) (hb ?_)) (hb ?_)
    all_goals interval_cases k <;> decide
  unfold snareArm
  split
  · exact h
  · refine regsOut_regs (s := (snrClear k s).wr (fSNR_DEF_STS_STATE k) snrArmed) (regsOut_wr _ hclear (hb ?_)) rfl
    interval_cases k <;> decide

theorem snareAtStart_regs {B : List Nat} {o s : State} (hB : 0x0C ∈ B) (h : RegsOut B o s) : RegsOut B o (snareAtStart s) := by
  refine regsOut_foldl h fun s k hk h => ?_
  have hk : k < 4 := List.mem_range.1 hk
  split
  · exact regsOut_ite (snareArm_regs hB hk h) h
  · exact h

theorem openColumn_regs {B : List Nat} {o s : State} (hB : 0x04 ∈ B) (h : RegsOut B o s) : RegsOut B o (openColumn s) := by
  unfold openColumn
  split
  · exact h
  · exact regsOut_wr _ (regsOut_regs h rfl) hB

theorem openAll_regs {B : List Nat} {o s : State} (hB : 0x04 ∈ B) (n : Nat) (h : RegsOut B o s) : RegsOut B o (openAll n s) :=
  regsOut_foldl (regsOut_regs h rfl) fun _ _ _ h => openColumn_regs hB h

theorem openAll_clv (n : Nat) (s : State) : (openAll n s).clv = s.clv :=
  (openAll_kept n (Kept.refl _ s) (Nat.and_self _)).2.2.same .clv (by decide)

theorem openAll_tmb (n : Nat) (s : State) : (openAll n s).tmb = s.tmb :=
  (openAll_kept n (Kept.refl _ s) (Nat.and_self _)).2.2.same .tmb (by decide)

theorem snareAtStart_clv (s : State) : (snareAtStart s).clv = s.clv :=
  (snareAtStart_kept (Kept.refl _ s) (Nat.and_self _)).2.2.same .clv (by decide)

theorem snareAtStart_tmb (s : State) : (snareAtStart s).tmb = s.tmb :=
  (snareAtStart_kept (Kept.refl _ s) (Nat.and_self _)).2.2.same .tmb (by decide)

theorem beginTicking_clv (n : Nat) (s : State) : (beginTicking n s).clv = { s.clv with nextTick := n } := by
  rw [beginTicking, snareAtStart_clv, openAll_clv]
  rfl

theorem beginTicking_tmb (n : Nat) (s : State) : (beginTicking n s).tmb = { s.tmb with next := n } := by
  rw [beginTicking, snareAtStart_tmb, openAll_tmb]
  rfl

theorem beginTicking_ticking (n : Nat) (s : State) : (beginTicking n s).rd fCLV_STS_TICKING = 1 := by
  have hout : RegsOut [0x04, 0x0C] (s.wrB fCLV_STS_TICKING true) (beginTicking n s) :=
    snareAtStart_regs (by decide) (openAll_regs (by decide) n (regsOut_regs (regsOut_refl _ _) rfl))
  rw [hout _ (by decide)]
  exact State.rd_wr ..

/-! ### The tick instant (R66) -/

/-- The tick after `n` depends on Clave's data and the rate change in force. -/
theorem nextRun_eq_of {s t : State} (hclv : t.clv = s.clv) (hrates : t.pgh.rates = s.pgh.rates) (n : Nat) : t.nextRun n = s.nextRun n := by
  unfold State.nextRun State.succTick
  rw [hclv, hrates]

theorem foldl_wr_pgh {α : Type} (fld : α → Fld) (val : α → Nat) (l : List α) (s : State) :
    (l.foldl (fun s x => s.wr (fld x) (val x)) s).pgh = s.pgh := by
  induction l generalizing s with
  | nil => rfl
  | cons x xs ih => exact ih _

theorem setCol_rates (c : Column) (s : State) : (s.setCol c).pgh.rates = s.pgh.rates := rfl

theorem fixWindows_rates (n : Nat) (s : State) : (fixWindows n s).pgh.rates = s.pgh.rates := by
  unfold fixWindows
  dsimp only
  split
  · rw [setCol_rates, foldl_wr_pgh]
    rfl
  · rw [foldl_wr_pgh]
    rfl

/-- What else happens at a tick instant leaves Clave's data alone. -/
theorem tickNow_clv (n : Nat) (s : State) : (tickNow n s).clv = { s.clv with nextTick := (s.nextRun n).1 } := by
  have hfix : (fixWindows n s).clv = s.clv := (fixWindows_kept n (Kept.refl _ s) (Nat.and_self _)).2.2.same .clv (by decide)
  have hacc (t : State) : (accFirstTick n t).clv = t.clv ∧ (accFirstTick n t).pgh = t.pgh :=
    have h := (accFirstTick_kept n (Kept.refl _ t) (Nat.and_self _)).2.2
    ⟨h.same .clv (by decide), h.same .pgh (by decide)⟩
  have hkey (t : State) : (keyEffect n t).clv = t.clv ∧ (keyEffect n t).pgh = t.pgh :=
    have h := (keyEffect_kept n (Kept.refl _ t) (Nat.and_self _)).2.2
    ⟨h.same .clv (by decide), h.same .pgh (by decide)⟩
  have hstall (t : State) : (stallTick n t).clv = t.clv ∧ (stallTick n t).pgh = t.pgh :=
    have h := (stallTick_kept n (Kept.refl _ t) (Nat.and_self _)).2.2
    ⟨h.same .clv (by decide), h.same .pgh (by decide)⟩
  have hpair (t : State) : (pairTick n t).clv = t.clv ∧ (pairTick n t).pgh = t.pgh :=
    have h := (pairTick_kept n (Kept.refl _ t) (Nat.and_self _)).2.2
    ⟨h.same .clv (by decide), h.same .pgh (by decide)⟩
  have hclv : (pairTick n (stallTick n (keyEffect n (accFirstTick n (fixWindows n s))))).clv = s.clv := by
    rw [(hpair _).1, (hstall _).1, (hkey _).1, (hacc _).1, hfix]
  have hrates : (pairTick n (stallTick n (keyEffect n (accFirstTick n (fixWindows n s))))).pgh.rates = s.pgh.rates := by
    rw [(hpair _).2, (hstall _).2, (hkey _).2, (hacc _).2, fixWindows_rates]
  unfold tickNow
  dsimp only
  rw [State.setClv_self, hclv, nextRun_eq_of hclv hrates]

/-! ### The reseat's step (R82) -/

/-- What the step of reseat `r` from `s` has settled before LOCKED is entered: its generators and gap lists are then adjusted one by one. -/
structure Stepped (r : Reseat) (s u : State) : Prop where
  clv : ∃ l, u.clv = { (stepTime r.d s).clv with ttg := l }
  gen : u.rd fCLV_RESEAT_STS_GEN = if s.rd fCLV_RESEAT_STS_GEN ≥ 0xFE then 0 else s.rd fCLV_RESEAT_STS_GEN + 1
  flag : u.bit fCLV_FLT_FLAGS 3 = true

/-- The time steps and the generation is counted. -/
theorem stepped_stepTime (r : Reseat) (s : State) :
    Stepped r s (((stepTime r.d s).wr fCLV_RESEAT_STS_GEN (if (stepTime r.d s).rd fCLV_RESEAT_STS_GEN ≥ 0xFE then 0
      else (stepTime r.d s).rd fCLV_RESEAT_STS_GEN + 1)).flag fCLV_FLT_FLAGS 3) where
  clv := ⟨_, rfl⟩
  gen := by
    have hgen : (stepTime r.d s).rd fCLV_RESEAT_STS_GEN = s.rd fCLV_RESEAT_STS_GEN := State.rd_wr_ne _ (by decide) _
    rw [rd_flag (by decide), State.rd_wr, hgen]
    refine Nat.mod_eq_of_lt ?_
    split
    · decide
    · change _ < 256
      omega
  flag := by rw [bit_flag (by decide), decide_eq_true rfl, Bool.or_true]

theorem Stepped.setTtg {r : Reseat} {s u : State} (h : Stepped r s u) (l : List (Option TtgRun)) :
    Stepped r s (u.setClv { u.clv with ttg := l }) :=
  have ⟨⟨_, hclv⟩, hgen, hflag⟩ := h
  ⟨⟨l, by rw [State.setClv_self, hclv]⟩, hgen, hflag⟩

/-- The registers of the generators lie above those named here. -/
theorem Stepped.wr {r : Reseat} {s u : State} (h : Stepped r s u) {f : Fld} (hoff : 0x10100 ≤ f.off) (v : Nat) : Stepped r s (u.wr f v) := by
  have hgen : fCLV_RESEAT_STS_GEN.key ≠ f.key := by
    change 0x1002C * 32 + 8 ≠ f.off * 32 + f.lo
    omega
  have hflt : fCLV_FLT_FLAGS.key ≠ f.key := by
    change 0x10004 * 32 + 0 ≠ f.off * 32 + f.lo
    omega
  exact ⟨h.clv, (State.rd_wr_ne _ hgen _).trans h.gen, (bit_eq_of_rd (State.rd_wr_ne _ hflt _) _).trans h.flag⟩

theorem Stepped.flagFlt {r : Reseat} {s u : State} (h : Stepped r s u) (b : Nat) : Stepped r s (u.flag fCLV_FLT_FLAGS b) :=
  ⟨h.clv, (rd_flag (by decide) ..).trans h.gen, by rw [bit_flag (by decide), h.flag, Bool.true_or]⟩

/-- A generator's adjustment changes the generators, its own registers and a fault flag of its own. -/
theorem Stepped.ttgStep {r : Reseat} {s u : State} (h : Stepped r s u) (tm : Nat) (d : Int) (k : Nat) : Stepped r s (ttgStep tm d k u) := by
  have hctl : 0x10100 ≤ rCLV_TTG_CTL k := Nat.le_add_right ..
  have hsts : 0x10100 ≤ rCLV_TTG_STS k := Nat.le_trans (by decide) (Nat.le_add_right ..)
  unfold Machine.ttgStep
  split
  · exact h
  · dsimp only
    split
    · split
      · exact Stepped.wr (Stepped.wr (Stepped.setTtg (Stepped.flagFlt (Stepped.wr h hsts _) 7) _) hctl _) hsts _
      · exact h.setTtg _
    · exact h.setTtg _

theorem addGap_regs {B : List Nat} {o s : State} {k : Nat} (hB : 0x0C ∈ B) (hk : k < 4) (first len reason slot : Nat) (h : RegsOut B o s) :
    RegsOut B o (addGap k first len reason slot s) := by
  have hb : ∀ {f : Fld}, f.block = 0x0C → f.block ∈ B := fun e => e ▸ hB
  have hflag : fSNR_FLT_FLAGS.block = 0x0C := by decide
  have hentries : (fSNR_GAP_STS_ENTRIES k).block = 0x0C := by interval_cases k <;> decide
  have hlost : (fSNR_GAP_STS_LOST k).block = 0x0C := by interval_cases k <;> decide
  unfold addGap
  split
  · exact h
  · extract_lets d armed len gaps g put us
    split
    · exact h
    · have hput (gs : List SnrGap) : RegsOut B o (put gs) := regsOut_wr _ (regsOut_regs h rfl) (hb hentries)
      split
      · exact hput _
      · exact regsOut_regs h rfl
      · split
        · exact hput _
        · exact regsOut_regs (regsOut_flag _ (regsOut_inc _ h (hb hlost)) (hb hflag)) rfl

/-- A gap of a capture lies outside Clave. -/
theorem Stepped.addGap {r : Reseat} {s u : State} (h : Stepped r s u) {k : Nat} (hk : k < 4) (first len reason slot : Nat) :
    Stepped r s (addGap k first len reason slot u) := by
  have hclv : (Machine.addGap k first len reason slot u).clv = u.clv :=
    (addGap_kept k first len reason slot (Kept.refl _ u) (Nat.and_self _)).2.2.same .clv (by decide)
  have hrd := addGap_regs (List.mem_singleton.2 rfl) hk first len reason slot (regsOut_refl [0x0C] u)
  exact ⟨by rw [hclv]; exact h.clv, (hrd _ (by decide)).trans h.gen, (bit_eq_of_rd (hrd _ (by decide)) _).trans h.flag⟩

theorem Stepped.foldl {r : Reseat} {s u : State} {α : Type} {l : List α} {f : State → α → State} (h : Stepped r s u)
    (hf : ∀ u x, x ∈ l → Stepped r s u → Stepped r s (f u x)) : Stepped r s (l.foldl f u) := by
  induction l generalizing u with
  | nil => exact h
  | cons x xs ih => exact ih (hf u x List.mem_cons_self h) fun u y hy => hf u y (List.mem_cons_of_mem _ hy)

/-- The step of a reseat that is due: Clave's data once the generators and gap lists are adjusted, then LOCKED to its source. -/
theorem reseatStep_of_due {r : Reseat} {s : State} (hr : s.clv.reseat = some r) (hdue : s.clv.now ≥ r.tm) :
    ∃ u v, Stepped r s u ∧ reseatStep s = enterLocked r.src v ∧ v.regs = u.regs ∧ v.clv = { u.clv with
      reseat := none, hist := s.clv.hist, lastReseat := some r.m, skip := if r.skipped > 0 then some (r.m + 1, r.skipped) else none,
      nextTick := if r.skipped > 0 ∧ u.clv.nextTick = r.m + 1 then r.m + 1 + r.skipped else u.clv.nextTick } := by
  obtain ⟨t, ht⟩ : ∃ t, reseatStep s = t := ⟨_, rfl⟩
  have hrun := ht
  unfold reseatStep at hrun
  rw [hr] at hrun
  replace hrun := hrun.symm.trans (if_neg (Nat.not_lt.2 hdue))
  extract_lets hist s1 gen s2 s3 s4 skip next c s5 a s6 at hrun
  have h3 : Stepped r s s3 := Stepped.foldl (stepped_stepTime r s) fun u k _ h => h.ttgStep r.tm r.d k
  have h4 : Stepped r s s4 := by
    dsimp only [s4]
    split
    · refine Stepped.foldl h3 fun u k hk h => ?_
      split
      · exact h.addGap (List.mem_range.1 hk) ..
      · exact h
    · exact h3
  clear_value s4
  refine ⟨s4, s6, h4, ht.trans hrun, rfl, ?_⟩
  have hnext : next = if r.skipped > 0 ∧ s4.clv.nextTick = r.m + 1 then r.m + 1 + r.skipped else s4.clv.nextTick := by
    simp only [next, Bool.and_eq_true, decide_eq_true_eq]
  rw [← hnext]
  rfl

theorem selectSrc_clv (src : Nat) (s : State) : (endEpisode (selectSrc src s)).clv = { s.clv with episode := none, refusedRun := 0 } := by
  unfold selectSrc
  split <;> rfl

/-- Selecting a source leaves the registers alone but for SRC, SRC_OWNS and REFUSING. -/
theorem selectSrc_rd {f : Fld} (hsrc : f.key ≠ fCLV_STS_SRC.key) (howns : f.key ≠ fCLV_UTC_CFG_SRC_OWNS.key)
    (href : f.key ≠ fCLV_STS_REFUSING.key) (src : Nat) (s : State) : (endEpisode (selectSrc src s)).rd f = s.rd f := by
  have hend (t : State) : (endEpisode t).rd f = t.rd f := rd_wrB href ..
  rw [hend]
  unfold selectSrc
  split
  · rfl
  · rw [hend, rd_wrB howns, State.rd_wr_ne _ hsrc]

theorem selectSrc_src {src : Nat} (h : src < 4) (s : State) : (endEpisode (selectSrc src s)).src = src := by
  have hend (t : State) : (endEpisode t).rd fCLV_STS_SRC = t.rd fCLV_STS_SRC := rd_wrB (by decide) ..
  rw [State.src, hend]
  unfold selectSrc
  split
  case isTrue heq => exact heq.symm
  case isFalse =>
    rw [hend, rd_wrB (by decide), State.rd_wr]
    exact Nat.mod_eq_of_lt h

theorem enterLocked_clv (src : Nat) (s : State) : (enterLocked src s).clv = { s.clv with episode := none, refusedRun := 0 } := by
  rw [enterLocked, updateQual_clv, selectSrc_clv]
  rfl

theorem enterLocked_state (src : Nat) (s : State) : (enterLocked src s).clvState = clvLocked := by
  rw [State.clvState, enterLocked, updateQual_rd (by decide) (by decide) (by decide), selectSrc_rd (by decide) (by decide) (by decide),
    State.rd_wr]
  rfl

theorem enterLocked_src {src : Nat} (h : src < 4) (s : State) : (enterLocked src s).src = src := by
  rw [State.src, enterLocked, updateQual_rd (by decide) (by decide) (by decide)]
  exact selectSrc_src h _

theorem enterLocked_gen (src : Nat) (s : State) : (enterLocked src s).rd fCLV_RESEAT_STS_GEN = s.rd fCLV_RESEAT_STS_GEN := by
  rw [enterLocked, updateQual_rd (by decide) (by decide) (by decide), selectSrc_rd (by decide) (by decide) (by decide),
    State.rd_wr_ne _ (by decide)]

theorem enterLocked_bit {b : Nat} (hb : b < fCLV_FLT_FLAGS.w) {src : Nat} {s : State} (h : s.bit fCLV_FLT_FLAGS b = true) :
    (enterLocked src s).bit fCLV_FLT_FLAGS b = true := by
  refine updateQual_bit hb ?_
  rw [bit_eq_of_rd (selectSrc_rd (by decide) (by decide) (by decide) ..), bit_eq_of_rd (State.rd_wr_ne _ (by decide) _), h]

/-- Dropping columns changes Pigeonhole's columns and their count only. -/
theorem dropSkipped_rd {f : Fld} (h : f.key ≠ fPGH_STS_COLS.key) (first count : Nat) (s : State) :
    (dropSkipped first count s).rd f = s.rd f := State.rd_wr_ne _ h _

theorem dropSkipped_cols {first count : Nat} {s : State} {c : Column} (h : c ∈ (dropSkipped first count s).pgh.cols) :
    c.tick < first ∨ first + count ≤ c.tick := by
  have hc := (List.mem_filter.1 h).2
  by_contra hin
  have hlo : first ≤ c.tick := by omega
  have hhi : c.tick < first + count := by omega
  simp [hlo, hhi] at hc

/-- The step of a reseat, with the columns of the ticks it skips gone. -/
theorem exec_reseatStep {r : Reseat} {s t : State} (hr : s.clv.reseat = some r) (ht : reseatStep s = t) (hdone : t.clv.reseat = none)
    (hskip : t.clv.skip = if r.skipped > 0 then some (r.m + 1, r.skipped) else none) :
    exec .reseatStep s = .next (if r.skipped > 0 then dropSkipped (r.m + 1) r.skipped t else t) := by
  refine congrArg Host.Outcome.next ?_
  by_cases h : r.skipped > 0
  · simp only [ht, hr, hdone, hskip, if_pos h]
  · simp only [ht, hr, hdone, hskip, if_neg h]

/-- Settles O19: what else happens at a tick leaves Clave's data alone; at a reseat's step so do the generators and gap lists, but for
registers and flags of their own. -/
theorem tickRows : Obligations.TickRows := by
  refine ⟨?begin, ?tick, ?noTick, ?reseat⟩
  case begin =>
    intro sec s hsec hnot hrun himg hdue
    have hexec : exec .tickingBegin s = .next (beginTicking (sec * s.rate) s) := by
      refine congrArg Host.Outcome.next ?_
      have himg' : s.img ≠ none := Option.isSome_iff_ne_none.1 himg
      simp [hsec, hnot, hrun, himg', hdue]
    exact ⟨_, hexec, beginTicking_ticking .., beginTicking_clv .., by rw [beginTicking_tmb]⟩
  case tick =>
    intro n s hticking hn hcome
    have hexec : exec (.tickInstant n) s = .next (tickNow n s) := by
      refine congrArg Host.Outcome.next (if_pos ?_)
      simpa [hticking, hn, State.instantCome] using hcome
    exact ⟨_, hexec, by rw [tickNow_clv], by rw [tickNow_clv]⟩
  case noTick =>
    intro n s h
    refine congrArg Host.Outcome.next (if_neg ?_)
    simp only [State.instantCome, Bool.and_eq_true, Bool.or_eq_true, decide_eq_true_eq]
    rintro ⟨⟨hticking, hn⟩, hcome⟩
    rcases h with h | h | ⟨h, h'⟩
    · rw [h] at hticking
      cases hticking
    · exact h hn
    · exact hcome.elim (Nat.not_le.2 h) h'
  case reseat =>
    intro r s hr hdue hsrc
    obtain ⟨u, v, ⟨⟨l, hclv⟩, hgen, hflag⟩, ht, hregs, hclv'⟩ := reseatStep_of_due hr hdue
    rw [hclv] at hclv'
    have hlocked := enterLocked_clv r.src v
    rw [hclv'] at hlocked
    have hrd (f : Fld) : v.rd f = u.rd f := by rw [State.rd, hregs, State.rd]
    have hexec := exec_reseatStep hr ht (by rw [hlocked]) (by rw [hlocked])
    have hgen' : (enterLocked r.src v).rd fCLV_RESEAT_STS_GEN = _ := (enterLocked_gen ..).trans ((hrd _).trans hgen)
    have hflag' : (enterLocked r.src v).bit fCLV_FLT_FLAGS 3 = true := enterLocked_bit (by decide) ((bit_eq_of_rd (hrd _) 3).trans hflag)
    have hstate := enterLocked_state r.src v
    have hsrc' := enterLocked_src hsrc v
    by_cases h : r.skipped > 0
    · rw [if_pos h] at hexec
      refine ⟨_, hexec, ?_⟩
      have hclvt : (dropSkipped (r.m + 1) r.skipped (enterLocked r.src v)).clv = (enterLocked r.src v).clv := rfl
      simp only [hclvt, hlocked, State.clvState, State.src, dropSkipped_rd (f := fCLV_STS_STATE) (by decide),
        dropSkipped_rd (f := fCLV_STS_SRC) (by decide), dropSkipped_rd (f := fCLV_RESEAT_STS_GEN) (by decide),
        bit_eq_of_rd (dropSkipped_rd (f := fCLV_FLT_FLAGS) (by decide) ..)]
      refine ⟨rfl, trivial, trivial, hstate, hsrc', hflag', trivial, trivial, rfl, fun _ c hc => ?_, hgen'⟩
      have := dropSkipped_cols hc
      omega
    · rw [if_neg h] at hexec
      refine ⟨_, hexec, ?_⟩
      simp only [hlocked]
      exact ⟨rfl, trivial, trivial, hstate, hsrc', hflag', trivial, trivial, rfl, fun h' => absurd h' h, hgen'⟩

end Sys2Proof.Machine
end

section
/-!
PROOFS. Scope: reception and the duplicate filter (R87, R101, R104 to R107, R110 to R113, R119).
-/

namespace Sys2Proof.Machine

/-! ### A port's data and registers -/

theorem setPort_self (s : State) (n : Nat) : s.setPort n (s.port n) = s := by
  have hset : s.ports.set n (s.ports.getD n {}) = s.ports := by
    refine List.ext_getElem (List.length_set ..) fun i hi hi' => ?_
    rw [List.getElem_set]
    split
    case isTrue h =>
      subst h
      rw [List.getD_eq_getElem _ _ hi']
    case isFalse => rfl
  unfold State.setPort State.port
  rw [hset]

theorem port_setPort {s : State} (h : s.ports.length = 64) (n : Fin 64) (p : Port) : (s.setPort n p).port n = p := by
  have hn : n.val < (s.ports.set n p).length := by
    rw [List.length_set, h]
    exact n.isLt
  exact (List.getD_eq_getElem _ _ hn).trans (List.getElem_set_self hn)

theorem port_eq_of {s t : State} (h : t.ports = s.ports) (n : Nat) : t.port n = s.port n := by unfold State.port; rw [h]

theorem Inv.ports_length {s : State} (h : Inv s) : s.ports.length = 64 := h.2.1

theorem ev_ports (e k : Nat) (s : State) : (State.ev e s k).ports = s.ports := by
  obtain ⟨p, hp⟩ := ev_eq_setPmc e k s
  rw [hp]
  rfl

theorem ev_rd (e k : Nat) (s : State) (f : Fld) : (State.ev e s k).rd f = s.rd f := by rw [State.rd, ev_regs, State.rd]

theorem eccWrite_ports (target index : Nat) (s : State) : (s.eccWrite target index).ports = s.ports :=
  (st_eccWrite_kept target index (Kept.refl _ s) (Nat.and_self _)).2.2.same .ports (by decide)

/-- ECC injection writes registers of the test block only (R514). -/
theorem eccWrite_regs (target index : Nat) (s : State) : RegsOut [0x12] s (s.eccWrite target index) := by
  unfold State.eccWrite
  extract_lets any indexed u r v
  have hu : RegsOut [0x12] s u := by
    dsimp only [u]
    split <;> exact regsOut_regs (regsOut_refl _ _) rfl
  have hv : RegsOut [0x12] s v := regsOut_wr _ hu (by decide)
  split
  · exact regsOut_refl _ _
  · split
    · exact hu
    · split
      · exact regsOut_wr _ (regsOut_wr _ (regsOut_flag _ hv (by decide)) (by decide)) (by decide)
      · exact hv

/-- Two fields of a unit's registers that differ in each of its `N` copies. -/
theorem rd_wr_indexed {N : Nat} (f g : Nat → Fld) (h : ∀ n : Fin N, (g n).key ≠ (f n).key) (n : Fin N) (v : Nat) (s : State) :
    (s.wr (f n) v).rd (g n) = s.rd (g n) := State.rd_wr_ne _ (h n) _

theorem rd_inc_self {f : Fld} (s : State) (k : Nat) : (s.inc f k).rd f = satAdd f.w (s.rd f) k := by
  refine (State.rd_wr ..).trans (Nat.mod_eq_of_lt ?_)
  have : 0 < 2 ^ f.w := Nat.two_pow_pos _
  unfold satAdd
  omega

/-! ### Frames at their end (R104 to R107, R119) -/

theorem rxInstant_inc_ecc (n : Fin 64) (ce x : Nat) (s : State) : (s.inc (fPORT_ECC_CNT_CE n) ce).rxInstant n x = s.rxInstant n x := by
  unfold State.rxInstant State.inc
  rw [rd_wr_indexed fPORT_ECC_CNT_CE fPORT_CFG_MODE (by decide), rd_wr_indexed fPORT_ECC_CNT_CE fPORT_DLY_CFG_RX_DLY (by decide)]

theorem dupKey_inc_ecc (n : Fin 64) (ce : Nat) (whole trunc : Bool) (b : Bytes) (s : State) :
    (s.inc (fPORT_ECC_CNT_CE n) ce).dupKey n whole trunc b = s.dupKey n whole trunc b := by
  unfold State.dupKey State.inc
  rw [rd_wr_indexed fPORT_ECC_CNT_CE fPORT_CFG_DUP (by decide)]

theorem rxBegin_inc_ecc (n : Fin 64) (ce x : Nat) (s : State) : (s.inc (fPORT_ECC_CNT_CE n) ce).rxBegin n x = s.rxBegin n x := by
  unfold State.rxBegin
  rw [rxInstant_inc_ecc, State.inc, rd_wr_indexed fPORT_ECC_CNT_CE fPORT_RX_CFG_MAX_LEN (by decide)]

/-- A frame that ends whole, none of it having come before: its checks, after its corrected words are counted. -/
theorem exec_macRxFrame {n : Fin 64} {s : State} (hlink : s.link n = true) (hcur : (s.port n).cur = none) {fin : RxEnd} (hfin : fin ≠ .verify)
    (x : Nat) (b : Bytes) (ce : Nat) :
    exec (.macRxFrame n x b fin ce) s = .next (rxEnd n (s.rxBegin n x) b fin (s.inc (fPORT_ECC_CNT_CE n) ce)) := by
  have hport : (s.inc (fPORT_ECC_CNT_CE n) ce).port n = s.port n := rfl
  have hself : { s.port n with cur := none } = s.port n := by rw [← hcur]
  refine congrArg Host.Outcome.next ?_
  simp only [hlink, hport, hcur, Bool.not_true, Bool.false_eq_true, if_false, if_neg hfin, Option.getD_none, rxBegin_inc_ecc]
  rw [hself, ← hport, setPort_self]

/-- A frame that fits is judged by how it ended. -/
theorem rxEnd_good {n : Nat} {c : RxCur} {b : Bytes} {s : State} (hlost : c.lost = false)
    (hfit : rxHeld (s.port n) + rxWords (min (b.length + 4) c.maxLen) < 8192) : rxEnd n c b .good s = rxGood n c b s := by
  simp [rxEnd, hlost, Nat.not_le.2 hfit]

theorem rxEnd_badFcs {n : Nat} {c : RxCur} {b : Bytes} {s : State} (hlost : c.lost = false)
    (hfit : rxHeld (s.port n) + rxWords (min (b.length + 4) c.maxLen) < 8192) (hlen : 64 ≤ b.length + 4) :
    rxEnd n c b .badFcs s = rxBad n c.dup c.started ((s.ev (0x1C0 + n)).inc (fPORT_FCS_CNT_FRAMES n)) := by
  simp [rxEnd, hlost, Nat.not_le.2 hfit, Nat.not_lt.2 hlen]

theorem rxEnd_overflow {n : Nat} {c : RxCur} {b : Bytes} {s : State} (hlost : c.lost = false) (hmac : macOnly b = false)
    (hfull : rxHeld (s.port n) + rxWords (min (b.length + 4) c.maxLen) ≥ 8192) (fin : RxEnd) :
    rxEnd n c b fin s = rxOverflow n c.dup c.started s := by
  simp [rxEnd, hlost, hmac, hfull]

/-- Frames for the parser are neither MAC control nor PRP supervision. -/
theorem macOnly_eq_false {b : Bytes} : macOnly b = false ↔ (ethHdr b).etype ≠ 0x8808 ∧ isPrpSupervision b = false := by
  simp [macOnly]

theorem rxGood_runt {n : Nat} {c : RxCur} {b : Bytes} (hlen : b.length + 4 < 64) (s : State) :
    rxGood n c b s = rxBad n c.dup c.started (s.inc (fPORT_RUNT_CNT_FRAMES n)) := if_pos hlen

/-- A frame no filter looks up is stored without its trailer (R110). -/
theorem rxGood_whole {n : Nat} {c : RxCur} {b : Bytes} {s : State} (hlen : 64 ≤ b.length + 4) (hmac : macOnly b = false)
    (hmax : b.length + 4 ≤ c.maxLen) (hdup : c.dup = .unchecked) (hkey : s.dupKey n true false b = none) :
    let st := match prpTrailer b with
      | some (lan, _, b') => (lan, b')
      | none => (0, b)
    rxGood n c b s = rxStore n { stamp := c.stamp, len := st.2.length + 4, bytes := st.2, lan := st.1, trunc := false, dup := .unchecked,
                                 started := c.started } s := by
  obtain ⟨hctl, hsup⟩ := macOnly_eq_false.1 hmac
  unfold rxGood
  cases prpTrailer b
  all_goals simp only [if_neg (Nat.not_lt.2 hlen), if_neg hctl, hsup, Bool.false_eq_true, if_false, if_neg (Nat.not_lt.2 hmax), hdup,
    dupAtEnd, hkey]

/-- A longer frame no filter looks up is cut and counted (R105). -/
theorem rxGood_cut {n : Nat} {c : RxCur} {b : Bytes} {s : State} (hlen : 64 ≤ b.length + 4) (hmac : macOnly b = false)
    (hmax : b.length + 4 > c.maxLen) (hdup : c.dup = .unchecked) (hkey : s.dupKey n true true ((b ++ ethFcs b).take c.maxLen) = none) :
    rxGood n c b s = rxStore n { stamp := c.stamp, len := c.maxLen, bytes := (b ++ ethFcs b).take c.maxLen, lan := 0, trunc := true,
                                 dup := .unchecked, started := c.started } (s.inc (fPORT_TRUNC_CNT_FRAMES n)) := by
  obtain ⟨hctl, hsup⟩ := macOnly_eq_false.1 hmac
  unfold rxGood
  simp only [if_neg (Nat.not_lt.2 hlen), if_neg hctl, hsup, Bool.false_eq_true, if_false, if_pos hmax, hdup, dupAtEnd, hkey]

/-- A counter counts alike in states with the same registers. -/
theorem rd_inc_of_regs {s t : State} (h : t.regs = s.regs) (f g : Fld) (k : Nat) : (t.inc f k).rd g = (s.inc f k).rd g := by
  unfold State.inc State.wr State.rd
  rw [h]

/-- What a frame that is no duplicate adds to its port and to the counters. -/
theorem rxStore_effect {n : Fin 64} {f : RxFrame} {s : State} (hports : s.ports.length = 64) (hdup : f.dup = .unchecked) :
    ((rxStore n f s).port n).rx = (s.port n).rx ++ [f] ∧ ((rxStore n f s).port n).wr = ((s.port n).wr + rxWords f.len) % 16384 ∧
      ∀ g : Fld, g.block ≠ 0x12 → (rxStore n f s).rd g = (s.inc (fPORT_RX_CNT_FRAMES n)).rd g := by
  unfold rxStore
  extract_lets u
  have hregs : (State.ev (0x180 + n) (State.ev (0x140 + n) s) f.len).regs = s.regs := by rw [ev_regs, ev_regs]
  have hu : u.ports = s.ports := by
    refine (eccWrite_ports ..).trans ?_
    change (State.ev _ (State.ev _ s) _).ports = _
    rw [ev_ports, ev_ports]
  rw [hdup]
  dsimp only
  rw [port_setPort (by rw [hu, hports]), port_eq_of hu]
  refine ⟨rfl, rfl, fun g hg => ?_⟩
  exact (eccWrite_regs 0 n _ g (by simpa using hg)).trans (rd_inc_of_regs hregs ..)

/-- A frame that would fill the FIFO leaves it and is counted (R104). -/
theorem rxOverflow_effect (n : Fin 64) (s : State) :
    (rxOverflow n .unchecked false s).port n = s.port n ∧
      (rxOverflow n .unchecked false s).rd (fPORT_DROP_CNT_FRAMES n) = satAdd 32 (s.rd (fPORT_DROP_CNT_FRAMES n)) 1 ∧
      (rxOverflow n .unchecked false s).bit (fPORT_FLT_FLAGS n) 5 = true := by
  refine ⟨port_eq_of (ev_ports ..) n, ?_, ?_⟩
  · refine (rd_wr_indexed fPORT_FLT_FLAGS fPORT_DROP_CNT_FRAMES (by decide) n _ _).trans ?_
    rw [rd_inc_self, ev_rd]
  · refine (bit_flag (by decide : 5 < 9) ..).trans ?_
    rw [decide_eq_true rfl, Bool.or_true]

/-- The corrected words of a frame are counted apart from the port's other counters. -/
theorem rd_inc_ecc (g : Nat → Fld) (h : ∀ n : Fin 64, (g n).key ≠ (fPORT_ECC_CNT_CE n).key) (n : Fin 64) (ce : Nat) (s : State) :
    (s.inc (fPORT_ECC_CNT_CE n) ce).rd (g n) = s.rd (g n) := rd_wr_indexed fPORT_ECC_CNT_CE g h n _ s

/-! ### The duplicate filter (R111, R113) -/

/-- A key not met before makes a provisional entry of the copy that brings it. -/
theorem dupLookup_new {key n : Nat} {s : State} (hfind : s.dupFind key = none) (hroom : s.dup.length < 131072) :
    dupLookup key n s = (.owner key s.dupNext,
      { s with dup := s.dup ++ [{ key := key, id := s.dupNext, final := none }], dupNext := s.dupNext + 1 }) := by
  unfold dupLookup dupInsert
  rw [hfind]
  simp only [if_pos hroom]

/-- A key met before leaves the entries alone: the copy is discarded where the entry is final, else it waits. -/
theorem dupLookup_met {key : Nat} {s : State} {e : DupEntry} (hfind : s.dupFind key = some e) (n : Nat) :
    (dupLookup key n s).1 = (if e.final.isSome then .discard else .waiting key e.id) ∧ (dupLookup key n s).2.dup = s.dup := by
  unfold dupLookup
  rw [hfind]
  dsimp only
  split
  case h_1 h => exact ⟨by rw [h]; rfl, rfl⟩
  case h_2 h => exact ⟨by rw [h]; rfl, rfl⟩

theorem dupLookup_ports (key n : Nat) (s : State) : (dupLookup key n s).2.ports = s.ports :=
  (dupLookup_kept key n (Kept.refl _ s) (Nat.and_self _)).2.2.same .ports (by decide)

/-- The key of the first bytes of a frame is looked up as they come in. -/
theorem exec_dupLookup {n : Fin 64} {s : State} (hlink : s.link n = true) (hcur : (s.port n).cur = none) {b : Bytes} {key : Nat}
    (hkey : s.dupKey n false false b = some key) (x : Nat)
    (hfit : rxHeld (s.port n) + curWords { s.rxBegin n x with bytes := b } < 8192) :
    exec (.dupLookup n x b) s = .next ((dupLookup key n s).2.setPort n
      { (dupLookup key n s).2.port n with cur := some { s.rxBegin n x with bytes := b, dup := (dupLookup key n s).1 } }) := by
  refine congrArg Host.Outcome.next ?_
  have harrive : (s.port n).cur.getD (s.rxBegin n x) = s.rxBegin n x := by rw [hcur]; rfl
  have hbegin : ((s.rxBegin n x).lost || decide (b.length < (s.rxBegin n x).bytes.length)) = false := by simp [State.rxBegin]
  rw [hlink, harrive]
  simp only [hbegin, Bool.not_true, Bool.false_eq_true, if_false]
  unfold rxArrive
  have hnot : (!macOnly b && decide (rxHeld (s.port n) + curWords { s.rxBegin n x with bytes := b } ≥ 8192)) = false := by
    rw [decide_eq_false (Nat.not_le.2 hfit), Bool.and_false]
  simp only [hnot, Bool.false_eq_true, if_false]
  simp only [State.rxBegin, hkey, Bool.false_eq_true, if_false]

theorem rxRelease_rx {n : Fin 64} {s : State} (hports : s.ports.length = 64) {f : RxFrame} {rest : List RxFrame} (hrx : (s.port n).rx = f :: rest) :
    ((rxRelease n s).port n).rx = rest := by
  unfold rxRelease
  dsimp only
  rw [hrx]
  exact congrArg Port.rx (port_setPort hports ..)

theorem rxRelease_regs (n : Nat) (s : State) : (rxRelease n s).regs = s.regs := by
  unfold rxRelease
  dsimp only
  split <;> rfl

/-- A discarded copy at the head is released and counted, where no copy goes back. -/
theorem exec_dupWaitRelease_discard {n : Fin 64} {s : State} {f : RxFrame} {rest : List RxFrame} (hrx : (s.port n).rx = f :: rest)
    (hdup : f.dup = .discard) (hagain : hasAgain (s.port n) = false) :
    exec (.dupWaitRelease n) s = .next (((rxRelease n s).ev (0x240 + n)).inc (fPORT_DUP_CNT_FRAMES n)) := by
  refine congrArg Host.Outcome.next ?_
  simp only [hagain, Bool.false_eq_true, if_false, hrx, if_pos hdup]

/-- The copy at the head goes back through the ordered point where no lower port has one to go. -/
theorem exec_dupWaitRelease_again {n : Fin 64} {s : State} {f : RxFrame} {rest : List RxFrame} (hrx : (s.port n).rx = f :: rest) {key : Nat}
    (hdup : f.dup = .again key) (hlow : ∀ m < (n : Nat), hasAgain (s.port m) = false) :
    exec (.dupWaitRelease n) s = .next ((dupLookup key n s).2.setPort n
      { (dupLookup key n s).2.port n with rx := { f with dup := (dupLookup key n s).1 } :: rest }) := by
  have hhead : (s.port n).rx.any (fun f => isAgain f.dup) = true := by
    rw [hrx, List.any_cons, hdup]
    rfl
  have hagain : hasAgain (s.port n) = true := by rw [hasAgain, hhead, Bool.true_or]
  have hfirst : ((List.range n).any fun m => hasAgain (s.port m)) = false :=
    List.any_eq_false.2 fun m hm => by simp [hlow m (List.mem_range.1 hm)]
  refine congrArg Host.Outcome.next ?_
  simp only [hagain, if_true, hfirst, Bool.false_eq_true, if_false, hhead]
  rw [hrx, againHeld]
  simp only [hdup]
  rfl

/-- Settles O22: a frame's end and a lookup each have their cases; of the registers only the port's own counters and flags are written. -/
theorem receiveRows : Obligations.ReceiveRows := by
  refine ⟨?atEnd, ?verify, ?lookup, ?release, ?expire⟩
  case atEnd =>
    intro n x b ce s hinv hlink hcur hmac max
    have hports : (s.inc (fPORT_ECC_CNT_CE n) ce).ports.length = 64 := hinv.ports_length
    have hrxBlock : ∀ n : Fin 64, (fPORT_RX_CNT_FRAMES n).block ≠ 0x12 := by decide
    have htruncBlock : ∀ n : Fin 64, (fPORT_TRUNC_CNT_FRAMES n).block ≠ 0x12 := by decide
    refine ⟨fun fin hfin hfull => ?_, fun hfit => ⟨fun hlen => ?_, fun hlen => ⟨?_, fun hmax hkey => ?_, fun hmax hkey => ?_⟩⟩⟩
    · obtain ⟨hport, hdrop, hflag⟩ := rxOverflow_effect n (s.inc (fPORT_ECC_CNT_CE n) ce)
      refine ⟨_, exec_macRxFrame hlink hcur hfin x b ce, ?_⟩
      rw [rxEnd_overflow rfl hmac hfull]
      exact ⟨congrArg Port.rx hport, congrArg Port.wr hport, hdrop.trans (by rw [rd_inc_ecc fPORT_DROP_CNT_FRAMES (by decide)]), hflag⟩
    · refine ⟨_, exec_macRxFrame hlink hcur (by decide) x b ce, ?_⟩
      rw [rxEnd_good rfl hfit, rxGood_runt hlen]
      refine ⟨rfl, (rd_inc_self ..).trans ?_⟩
      rw [rd_inc_ecc fPORT_RUNT_CNT_FRAMES (by decide)]
    · refine ⟨_, exec_macRxFrame hlink hcur (by decide) x b ce, ?_⟩
      rw [rxEnd_badFcs rfl hfit hlen]
      refine ⟨(rd_inc_self ..).trans ?_, ?_, congrArg Port.rx (port_eq_of (ev_ports ..) n)⟩
      · rw [ev_rd, rd_inc_ecc fPORT_FCS_CNT_FRAMES (by decide)]
      · refine (rd_wr_indexed fPORT_FCS_CNT_FRAMES fPORT_ECC_CNT_CE (by decide) n _ _).trans ?_
        rw [ev_rd, rd_inc_self]
    · refine ⟨_, exec_macRxFrame hlink hcur (by decide) x b ce, ?_⟩
      rw [rxEnd_good rfl hfit, rxGood_whole hlen hmac hmax rfl (by rw [dupKey_inc_ecc, hkey])]
      obtain ⟨hrx, hwr, hrd⟩ := rxStore_effect (f := { stamp := _, len := _, bytes := _, lan := _, trunc := _, dup := _, started := _ })
        hports rfl
      refine ⟨(hrd _ (hrxBlock n)).trans ?_, hrx, hwr⟩
      rw [rd_inc_self, rd_inc_ecc fPORT_RX_CNT_FRAMES (by decide)]
    · refine ⟨_, exec_macRxFrame hlink hcur (by decide) x b ce, ?_⟩
      rw [rxEnd_good rfl hfit, rxGood_cut hlen hmac hmax rfl (by rw [dupKey_inc_ecc]; exact hkey)]
      obtain ⟨hrx, -, hrd⟩ := rxStore_effect (f := { stamp := _, len := _, bytes := _, lan := _, trunc := _, dup := _, started := _ })
        (s := (s.inc (fPORT_ECC_CNT_CE n) ce).inc (fPORT_TRUNC_CNT_FRAMES n)) hports rfl
      refine ⟨(hrd _ (hrxBlock n)).trans ?_, (hrd _ (htruncBlock n)).trans ?_, hrx⟩
      · rw [rd_inc_self, State.inc, rd_wr_indexed fPORT_TRUNC_CNT_FRAMES fPORT_RX_CNT_FRAMES (by decide),
          rd_inc_ecc fPORT_RX_CNT_FRAMES (by decide)]
      · rw [State.inc, rd_wr_indexed fPORT_RX_CNT_FRAMES fPORT_TRUNC_CNT_FRAMES (by decide), rd_inc_self,
          rd_inc_ecc fPORT_TRUNC_CNT_FRAMES (by decide)]
  case verify =>
    intro n x b ce s hlink hpmac
    refine congrArg Host.Outcome.next ?_
    simp only [hlink, hpmac, Bool.not_true, Bool.false_eq_true, if_false, if_true]
  case lookup =>
    intro n x b key s hinv hlink hcur hkey _ c hfit
    have hports : (dupLookup key n s).2.ports.length = 64 := by rw [dupLookup_ports, hinv.ports_length]
    refine ⟨_, exec_dupLookup hlink hcur hkey x hfit, (dupLookup key n s).1, by rw [port_setPort hports]; rfl,
      fun hnew hroom => ?_, fun e he => ?_⟩
    · rw [dupLookup_new hnew hroom]
      exact ⟨rfl, rfl, rfl⟩
    · exact (dupLookup_met he n).symm
  case release =>
    intro n f rest s hinv hrx
    have hports (key : Nat) : (dupLookup key n s).2.ports.length = 64 := by rw [dupLookup_ports, hinv.ports_length]
    refine ⟨fun hdup hagain => ?_, fun key hdup hlow => ⟨fun hnew hroom => ?_, fun e he => ?_⟩⟩
    · refine ⟨_, exec_dupWaitRelease_discard hrx hdup hagain, ?_, ?_⟩
      · exact (congrArg Port.rx (port_eq_of (ev_ports ..) n)).trans (rxRelease_rx hinv.ports_length hrx)
      · refine (rd_inc_self ..).trans ?_
        rw [ev_rd, State.rd, rxRelease_regs, ← State.rd]
    · refine ⟨_, exec_dupWaitRelease_again hrx hdup hlow, (congrArg Port.rx (port_setPort (hports key) ..)).trans ?_,
        congrArg (fun x => x.2.dup) (dupLookup_new hnew hroom)⟩
      rw [dupLookup_new hnew hroom]
    · refine ⟨_, exec_dupWaitRelease_again hrx hdup hlow, (congrArg Port.rx (port_setPort (hports key) ..)).trans ?_,
        (dupLookup_met he n).2⟩
      rw [(dupLookup_met he n).1]
  case expire =>
    intro s
    refine ⟨_, rfl, fun e => ?_⟩
    rw [List.mem_filter]
    refine and_congr_right fun _ => ?_
    cases e.final with
    | none => simp
    | some y => simp

end Sys2Proof.Machine
end

section
/-!
PROOFS. Scope: the commands of the system and of time, and a command's completion (R81, R364, R476, R489, R498).
-/

namespace Sys2Proof.Machine

/-! ### Commands and their registers -/

theorem cmd_eq_of_run {s t : State} (h : t.mbx.run = s.mbx.run) (src : CmdSrc) : t.cmd? src = s.cmd? src := by
  unfold State.cmd?
  rw [h]

theorem src_of_cmd {s : State} {src : CmdSrc} {r : Running} (h : s.cmd? src = some r) : r.src = src := by simpa using List.find?_some h

/-- A source's command reads as it was put. -/
theorem cmd_putCmd {s : State} {src : CmdSrc} {r r' : Running} (h : s.cmd? src = some r) (hsrc : r'.src = src) :
    (s.putCmd r').cmd? src = some r' := by
  unfold State.cmd? at h
  change (s.mbx.run.map _).find? _ = _
  generalize s.mbx.run = run at h
  induction run with
  | nil => cases h
  | cons x xs ih =>
    rw [List.map_cons]
    by_cases hx : x.src = src
    · rw [if_pos (hx.trans hsrc.symm), List.find?_cons_of_pos (by simpa using hsrc)]
    · rw [List.find?_cons_of_neg (by simpa using hx)] at h
      rw [if_neg (hsrc ▸ hx), List.find?_cons_of_neg (by simpa using hx)]
      exact ih h

/-- The scheduler shows its state in registers only. -/
theorem mbxSync_same {p : Part} (hp : (1 : Nat).testBit p.num = false) (s : State) : p.same s (mbxSync s) :=
  (mbxSync_kept (Kept.refl _ s) (Nat.and_self _)).2.2.same p hp

/-- The scheduler's own fields are HELD and each channel's QUEUED and PAIR_WAIT. -/
theorem mbxSync_rd {f : Fld} (hoff : f.off < 0x141000) (hlo : f.lo < 32 ∧ f.lo ≠ 28 ∧ f.lo ≠ 29) (s : State) : (mbxSync s).rd f = s.rd f := by
  have hheld : f.key ≠ fMBX_SRC_STS_HELD.key := by
    change f.off * 32 + f.lo ≠ 0x141004 * 32 + 0
    omega
  have hqueued (c : Nat) : f.key ≠ (fMBX_STS_QUEUED c).key := by
    change f.off * 32 + f.lo ≠ (0x140008 + 1024 * c) * 32 + 29
    omega
  have hwait (c : Nat) : f.key ≠ (fMBX_STS_PAIR_WAIT c).key := by
    change f.off * 32 + f.lo ≠ (0x140008 + 1024 * c) * 32 + 28
    omega
  unfold mbxSync
  refine (?_ : _ = (s.wr fMBX_SRC_STS_HELD s.heldRes).rd f).trans (State.rd_wr_ne _ hheld _)
  generalize s.wr fMBX_SRC_STS_HELD s.heldRes = u
  induction List.range 4 generalizing u with
  | nil => rfl
  | cons c cs ih => exact (ih _).trans ((rd_wrB (hwait c) ..).trans (rd_wrB (hqueued c) ..))

/-! ### A run of an accepted command -/

/-- The command as a run's reply leaves it. -/
def replied (a : Reply) (r : Running) (s : State) : Running :=
  match a with
  | .done st ws => { r with done := some (st, ws) }
  | .later memo => { r with memo := memo }
  | .partner st ws ns => { r with done := some (st, ws), waitTo := some (s.up + ns) }

theorem replied_src (a : Reply) (r : Running) (s : State) : (replied a r s).src = r.src := by cases a <;> rfl

/-- An accepted command that has not been done runs. -/
theorem runCmd_accepted {src : CmdSrc} {op : Nat} {r : Running} {s : State} (h : accepted src op r s) (args : List Nat)
    (f : Running → State → Reply × State) :
    runCmd op src args f s = mbxSync ((f r s).2.putCmd (replied (f r s).1 r (f r s).2)) := by
  obtain ⟨hcmd, hop, hdone, hwait⟩ := h
  have hbench : (decide (src = .bench) && (s.cmd? .bench).isNone) = false := by
    by_cases hb : src = .bench
    · rw [← hb, hcmd]
      simp
    · simp [hb]
  have hgo : (decide (r.opcode ≠ op) || r.done.isSome || s.mbx.wait.contains src) = false := by
    rw [hop, hdone, hwait]
    simp
  unfold runCmd
  simp only [hbench, hcmd, hgo, Bool.false_eq_true, if_false]
  rfl

/-- The command after its run, where that leaves the list of commands alone. -/
theorem runCmd_cmd {src : CmdSrc} {op : Nat} {r : Running} {s t : State} {a : Reply} (h : accepted src op r s) {args : List Nat}
    {f : Running → State → Reply × State} (hf : f r s = (a, t)) (hrun : t.mbx.run = s.mbx.run) :
    (runCmd op src args f s).cmd? src = some (replied a r t) := by
  have hcmd : t.cmd? src = some r := (cmd_eq_of_run hrun src).trans h.1
  rw [runCmd_accepted h, hf, cmd_eq_of_run (congrArg Mbx.run (mbxSync_same (p := .mbx) (by decide) _))]
  exact cmd_putCmd hcmd ((replied_src ..).trans (src_of_cmd hcmd))

/-- What the scheduler leaves alone once a command has run: all but its registers and the list of commands. -/
structure AfterRun (u t : State) : Prop where
  same : ∀ p : Part, (513 : Nat).testBit p.num = false → p.same u t
  rd : ∀ f : Fld, f.off < 0x141000 → f.lo < 32 ∧ f.lo ≠ 28 ∧ f.lo ≠ 29 → t.rd f = u.rd f

/-- An accepted command completes its run: the command as the reply leaves it, all else as the run `u` left it. -/
theorem runs_accepted {i : Instr} {src : CmdSrc} {op : Nat} {r : Running} {s u : State} {a : Reply} (h : accepted src op r s)
    {args : List Nat} {f : Running → State → Reply × State} (hexec : exec i s = .next (runCmd op src args f s)) (hf : f r s = (a, u))
    (hrun : u.mbx.run = s.mbx.run) : Runs i s fun t => t.cmd? src = some (replied a r u) ∧ AfterRun u t := by
  refine ⟨_, hexec, runCmd_cmd h hf hrun, ?_⟩
  rw [runCmd_accepted h, hf]
  have hput : Kept 513 u (u.putCmd (replied a r u)) := st_putCmd_kept _ (Kept.refl _ u) rfl
  exact ⟨fun p hp => (mbxSync_kept hput rfl).2.2.same p hp, fun f hoff hlo => mbxSync_rd hoff hlo _⟩

theorem runs_accepted_same {i : Instr} {src : CmdSrc} {op : Nat} {r : Running} {s u : State} {a : Reply} (p : Part)
    (hp : (513 : Nat).testBit p.num = false) (h : accepted src op r s) {args : List Nat} {f : Running → State → Reply × State}
    (hexec : exec i s = .next (runCmd op src args f s)) (hf : f r s = (a, u)) (hrun : u.mbx.run = s.mbx.run) :
    Runs i s fun t => t.cmd? src = some (replied a r u) ∧ p.same u t :=
  have ⟨t, ht, hcmd, hsame, _⟩ := runs_accepted h hexec hf hrun
  ⟨t, ht, hcmd, hsame p hp⟩

/-! ### Writing records (R361, R364) -/

/-- What writing records leaves alone: the commands, commissioning and where Keep begins, and the registers of every unit but the Chest, the
test unit and the SM-640 window. -/
structure RecordFrame (s t : State) : Prop where
  run : t.mbx.run = s.mbx.run
  commissioned : t.mram.chs.commissioned = s.mram.chs.commissioned
  keepSeq : t.mram.chs.keepSeq = s.mram.chs.keepSeq
  regs : RegsOut [0x0C, 0x0D, 0x12, 0x80] s t

theorem RecordFrame.refl (s : State) : RecordFrame s s := ⟨rfl, rfl, rfl, regsOut_refl _ s⟩

theorem RecordFrame.trans {s t u : State} (h : RecordFrame s t) (k : RecordFrame t u) : RecordFrame s u :=
  ⟨k.run.trans h.run, k.commissioned.trans h.commissioned, k.keepSeq.trans h.keepSeq, fun f hf => (k.regs f hf).trans (h.regs f hf)⟩

theorem keepCopy_chs (rs : List ChestRec) (m : ChestMram) :
    (keepCopy rs m).commissioned = m.commissioned ∧ (keepCopy rs m).keepSeq = m.keepSeq := by
  unfold keepCopy
  split <;> exact ⟨rfl, rfl⟩

/-- Pages that NAND takes move records only. -/
theorem rollWrite_frame (pg rest : List ChestRec) (s : State) :
    RecordFrame s (rollWrite pg rest false s) ∧ (rollWrite pg rest false s).chs.queue = s.chs.queue := by
  obtain ⟨hcommissioned, hseq⟩ := keepCopy_chs pg
    { s.mram.chs with staged := rest ++ s.mram.chs.staged.drop (s.mram.chs.staged.length - 1) }
  exact ⟨⟨rfl, hcommissioned, hseq, regsOut_refl _ s⟩, rfl⟩

theorem rollAll_frame (k : Nat) (s : State) : RecordFrame s (rollAll k s) ∧ (rollAll k s).chs.queue = s.chs.queue := by
  induction k generalizing s with
  | zero => exact ⟨.refl s, rfl⟩
  | succ k ih =>
    unfold rollAll
    generalize pageFill 4064 s.mram.chs.staged.dropLast = x
    obtain ⟨pg, rest⟩ := x
    dsimp only
    split
    · exact ⟨.refl s, rfl⟩
    · obtain ⟨hw, hwq⟩ := rollWrite_frame pg rest s
      obtain ⟨hr, hrq⟩ := ih (rollWrite pg rest false s)
      exact ⟨hw.trans hr, hrq.trans hwq⟩

theorem makeRoom_frame (n : Nat) (s : State) : RecordFrame s (makeRoom n s) ∧ (makeRoom n s).chs.queue = s.chs.queue := by
  unfold makeRoom
  split
  · exact rollAll_frame ..
  · exact ⟨.refl s, rfl⟩

theorem stagePost_frame (p : Post) (q : List Post) (s : State) :
    RecordFrame s (stagePost p q s) ∧ (stagePost p q s).chs.queue = q := by
  obtain ⟨hcommissioned, hseq⟩ := keepCopy_chs (s.mram.chs.staged.take (overwritten (32 + p.payload.length) s.mram.chs.staged))
    s.mram.chs
  exact ⟨⟨rfl, hcommissioned, hseq, regsOut_refl _ s⟩, rfl⟩

theorem msix_regs (vec : Nat) (s : State) : (s.msix vec).regs = s.regs := by
  unfold State.msix
  split
  · exact (ev_regs ..).trans (ev_regs ..)
  · rfl

theorem msix_run (vec : Nat) (s : State) : (s.msix vec).mbx.run = s.mbx.run := by
  unfold State.msix
  split
  · obtain ⟨p, hp⟩ := ev_eq_setPmc 0x367 1 s
    obtain ⟨q, hq⟩ := ev_eq_setPmc 0x36D 1 (s.setPmc p)
    rw [hp, hq]
    rfl
  · rfl

theorem RecordFrame.eccWrite {s t : State} (h : RecordFrame s t) (target index : Nat) : RecordFrame s (t.eccWrite target index) := by
  have hparts := (st_eccWrite_kept target index (Kept.refl _ t) (Nat.and_self _)).2.2
  have hchs := hparts.same .mramChs (by decide)
  refine h.trans ⟨congrArg Mbx.run (hparts.same .mbx (by decide)), congrArg ChestMram.commissioned hchs, congrArg ChestMram.keepSeq hchs,
    fun f hf => eccWrite_regs target index t f ?_⟩
  simp only [List.mem_cons, not_or] at hf
  simpa using hf.2.2.1

theorem eccWrite_chs (target index : Nat) (s : State) : (s.eccWrite target index).chs = s.chs :=
  (st_eccWrite_kept target index (Kept.refl _ s) (Nat.and_self _)).2.2.same .chs (by decide)

theorem recordWritten_frame (code : Nat) (s : State) :
    RecordFrame s (recordWritten code s) ∧ (recordWritten code s).chs.queue = s.chs.queue := by
  have hcount : RecordFrame s (((s.ev 0x370).inc fCHS_REC_CNT_RECORDS).smEvent 2) ∧
      (((s.ev 0x370).inc fCHS_REC_CNT_RECORDS).smEvent 2).chs = s.chs := by
    obtain ⟨p, hp⟩ := ev_eq_setPmc 0x370 1 s
    rw [hp]
    exact ⟨⟨rfl, rfl, rfl, regsOut_flag _ (regsOut_inc _ (regsOut_regs (regsOut_refl _ s) rfl) (by decide)) (by decide)⟩, rfl⟩
  unfold recordWritten
  extract_lets u v quiet
  have hu : RecordFrame s u ∧ u.chs = s.chs := ⟨hcount.1.eccWrite 8 0, (eccWrite_chs ..).trans hcount.2⟩
  obtain ⟨hframe, hchs⟩ : RecordFrame s v ∧ v.chs = s.chs := by
    dsimp only [v]
    split
    · exact ⟨hu.1.eccWrite 9 0, (eccWrite_chs ..).trans hu.2⟩
    · exact hu
  split
  · have hmram : (v.msix (v.rd fCHS_CFG_VEC)).mram.chs = v.mram.chs :=
      (st_msix_kept _ (Kept.refl _ v) (Nat.and_self _)).2.2.same .mramChs (by decide)
    exact ⟨hframe.trans ⟨msix_run .., congrArg ChestMram.commissioned hmram, congrArg ChestMram.keepSeq hmram,
      regsOut_regs (regsOut_refl _ v) (msix_regs ..)⟩,
      show v.chs.queue = _ from congrArg Chest.queue hchs⟩
  · exact ⟨hframe, congrArg Chest.queue hchs⟩

/-- The post at the head of the queue is written (R361). -/
theorem writeRecord_frame (s : State) : RecordFrame s (writeRecord s) ∧ (writeRecord s).chs.queue = s.chs.queue.tail := by
  unfold writeRecord
  split
  case h_1 h => exact ⟨.refl s, h.trans (by rw [h]; rfl)⟩
  case h_2 p q h =>
    obtain ⟨hm, -⟩ := makeRoom_frame (32 + p.payload.length) s
    obtain ⟨hs, hsq⟩ := stagePost_frame p q (makeRoom (32 + p.payload.length) s)
    obtain ⟨hw, hwq⟩ := recordWritten_frame p.code (stagePost p q (makeRoom (32 + p.payload.length) s))
    exact ⟨hm.trans (hs.trans hw), hwq.trans (hsq.trans (by rw [h]; rfl))⟩

theorem writeRecords_frame {α : Type} (l : List α) (s : State) :
    RecordFrame s (l.foldl (fun s _ => writeRecord s) s) ∧
      (l.foldl (fun s _ => writeRecord s) s).chs.queue = s.chs.queue.drop l.length := by
  induction l generalizing s with
  | nil => exact ⟨.refl s, rfl⟩
  | cons x xs ih =>
    obtain ⟨hw, hwq⟩ := writeRecord_frame s
    obtain ⟨hr, hrq⟩ := ih (writeRecord s)
    refine ⟨hw.trans hr, hrq.trans ?_⟩
    rw [hwq, List.drop_tail, List.length_cons]

theorem drainPosts_frame (s : State) : RecordFrame s (drainPosts s) := (writeRecords_frame ..).1

/-- Once all posts are written none is left. -/
theorem drainPosts_effect (s : State) : RecordFrame s (drainPosts s) ∧ (drainPosts s).chs.queue = [] ∧
    (drainPosts s).mram.pwr = s.mram.pwr ∧ (drainPosts s).mram.bur = s.mram.bur := by
  have hparts := (drainPosts_kept (Kept.refl _ s) (Nat.and_self _)).2.2
  refine ⟨drainPosts_frame s, (writeRecords_frame ..).2.trans ?_, hparts.same .mramPwr (by decide), hparts.same .mramBur (by decide)⟩
  rw [List.length_range, List.drop_length]

theorem post_mbx (code : Nat) (payload : Bytes) (s : State) : (post code payload s).mbx = s.mbx :=
  (post_kept code payload (Kept.refl _ s) (Nat.and_self _)).2.2.same .mbx (by decide)

theorem post_mramBur (code : Nat) (payload : Bytes) (s : State) : (post code payload s).mram.bur = s.mram.bur :=
  (post_kept code payload (Kept.refl _ s) (Nat.and_self _)).2.2.same .mramBur (by decide)

/-! ### COMMISSION (R364) -/

/-- Commissioning: what it sets, and that the commands stay. -/
theorem commission_effect (s : State) :
    (commission s).2.mbx.run = s.mbx.run ∧ (commission s).2.mram.chs.commissioned = true ∧
      (commission s).2.mram.chs.keepSeq = (commission s).1 ∧ (commission s).2.chs.queue = [] ∧
      (commission s).2.mram.pwr = { s.mram.pwr with started := false, modRst := 0, taiUtc := 37 } ∧ (commission s).2.mram.bur.tamper = 0 ∧
      (commission s).2.rd fCHS_STS_COMMISSIONED = 1 ∧ (commission s).2.rd fBUR_TAMPER_STS_EVENTS = 0 := by
  unfold commission
  dsimp only
  generalize hu : post 0x01 (le 8 Config.serial) (drainPosts (commissionMram s)) = u
  obtain ⟨⟨hrun₀, -, -, hregs₀⟩, -, hpwr₀, hbur₀⟩ := drainPosts_effect (commissionMram s)
  have hrun : u.mbx.run = s.mbx.run := by
    rw [← hu, post_mbx, hrun₀]
    rfl
  have hpwr : u.mram.pwr = { s.mram.pwr with started := false, modRst := 0, taiUtc := 37 } := by
    rw [← hu, post_mramPwr, hpwr₀]
    rfl
  have htamper : u.mram.bur.tamper = 0 := by
    rw [← hu, post_mramBur, hbur₀]
    rfl
  have hevents : u.rd fBUR_TAMPER_STS_EVENTS = 0 := by
    rw [← hu, post_rd _ _ _ (by decide), hregs₀ _ (by decide)]
    exact State.rd_wr ..
  clear hu
  obtain ⟨⟨hvrun, hvcommissioned, hvseq, hvregs⟩, hvqueue, hvpwr, hvbur⟩ :=
    drainPosts_effect (u.setChs { u.mram.chs with commissioned := true, keepSeq := u.mram.chs.nextSeq })
  generalize drainPosts _ = v at *
  refine ⟨hvrun.trans hrun, hvcommissioned, hvseq, hvqueue, Eq.trans hvpwr hpwr,
    (congrArg BurMram.tamper hvbur).trans htamper, State.rd_wr .., ?_⟩
  rw [rd_wrB (by decide), State.wr64, State.rd_wr_ne _ (by decide), State.rd_wr_ne _ (by decide), hvregs _ (by decide)]
  exact hevents

/-! ### TIME_RESEAT (R81, R82) -/

theorem reseatFix_clv (src : Nat) (l : List Int) (s : State) : ∃ x : Reseat, (reseatFix src l s).clv.reseat = some x ∧ x.d = meanInt l ∧
    x.src = src ∧ x.m = tickFrom s.rate (s.clv.now + 1000000) ∧ x.tm = tickInstant s.rate x.m ∧ (x.d ≤ 0 → x.skipped = 0) :=
  ⟨_, rfl, rfl, rfl, rfl, rfl, fun h => if_neg (not_lt.2 h)⟩

theorem reseatFix_run (src : Nat) (l : List Int) (s : State) : (reseatFix src l s).mbx.run = s.mbx.run :=
  (drainPosts_frame _).run.trans (congrArg Mbx.run (post_mbx ..))

/-! ### Completion (R476) -/

theorem nextWaiting_regs (s : State) : (nextWaiting s).regs = s.regs :=
  (nextWaiting_kept (Kept.refl _ s) (Nat.and_self _)).2.2.same .regs (by decide)

theorem cmd_eq_none {s : State} {src : CmdSrc} : s.cmd? src = none ↔ ∀ x ∈ s.mbx.run, x.src ≠ src := by simp [State.cmd?]

/-- A command that goes on is another source's. -/
theorem nextWaiting_cmd {s : State} {src : CmdSrc} (h : s.cmd? src = none) : (nextWaiting s).cmd? src = none := by
  unfold nextWaiting
  split
  · exact h
  · split
    · exact h
    · dsimp only
      split
      case h_1 r hr =>
        have hr' := List.mem_of_find?_eq_some hr
        refine cmd_eq_none.2 fun x hx => ?_
        obtain ⟨y, hy, rfl⟩ := List.mem_map.1 hx
        split
        · exact cmd_eq_none.1 h r hr'
        · exact cmd_eq_none.1 h y hy
      case h_2 => exact h

/-- The result words of a channel, written one by one. -/
theorem writeRes_rd (c : Nat) (ws : List Nat) {w n : Nat} (hw : w < n) (s : State) :
    ((List.range n).foldl (fun s w => s.wr (fMBX_RES_RES c w) (ws.getD w 0)) s).rd (fMBX_RES_RES c w) = ws.getD w 0 % 2 ^ 32 := by
  induction n with
  | zero => cases hw
  | succ n ih =>
    rw [List.range_succ, List.foldl_append, List.foldl_cons, List.foldl_nil]
    by_cases he : w = n
    · subst he
      exact State.rd_wr ..
    · refine (State.rd_wr_ne _ ?_ _).trans (ih (by omega))
      change (0x140200 + 1024 * c + 4 * w) * 32 + 0 ≠ (0x140200 + 1024 * c + 4 * n) * 32 + 0
      omega

theorem foldl_wr_mbx {α : Type} (fld : α → Fld) (val : α → Nat) (l : List α) (s : State) :
    (l.foldl (fun s x => s.wr (fld x) (val x)) s).mbx = s.mbx := by
  induction l generalizing s with
  | nil => rfl
  | cons x xs ih => exact ih _

/-- The registers of channel `c` as a command completes: its result words, state, status and tag (R476). -/
def showResult (c st : Nat) (ws : List Nat) (tag : Nat) (s : State) : State :=
  (((((List.range 62).foldl (fun s w => s.wr (fMBX_RES_RES c w) (ws.getD w 0)) s).wr (fMBX_STS_STATE c) 2).wr (fMBX_STS_STATUS c) st).wr
    (fMBX_STS_RESW c) ws.length).wr (fMBX_STS_TAG c) tag

theorem showResult_mbx (c st : Nat) (ws : List Nat) (tag : Nat) (s : State) : (showResult c st ws tag s).mbx = s.mbx :=
  foldl_wr_mbx (fMBX_RES_RES c) (fun w => ws.getD w 0) _ s

/-- What a channel's registers then read. -/
theorem showResult_rd (c : Fin 4) (st : Nat) (ws : List Nat) (tag : Nat) (s : State) :
    (showResult c st ws tag s).rd (fMBX_STS_STATE c) = 2 ∧ (showResult c st ws tag s).rd (fMBX_STS_STATUS c) = st % 16 ∧
      (showResult c st ws tag s).rd (fMBX_STS_RESW c) = ws.length % 64 ∧
      ∀ w < 62, (showResult c st ws tag s).rd (fMBX_RES_RES c w) = ws.getD w 0 % 2 ^ 32 := by
  have hres {w : Nat} {f : Fld} (hoff : f.off = 0x140008 + 1024 * c) (hlo : f.lo < 32) : (fMBX_RES_RES c w).key ≠ f.key := by
    change (0x140200 + 1024 * c + 4 * w) * 32 + 0 ≠ f.off * 32 + f.lo
    omega
  unfold showResult
  refine ⟨?_, ?_, ?_, fun w hw => ?_⟩
  · rw [rd_wr_indexed fMBX_STS_TAG fMBX_STS_STATE (by decide), rd_wr_indexed fMBX_STS_RESW fMBX_STS_STATE (by decide),
      rd_wr_indexed fMBX_STS_STATUS fMBX_STS_STATE (by decide), State.rd_wr]
    rfl
  · rw [rd_wr_indexed fMBX_STS_TAG fMBX_STS_STATUS (by decide), rd_wr_indexed fMBX_STS_RESW fMBX_STS_STATUS (by decide), State.rd_wr]
    rfl
  · rw [rd_wr_indexed fMBX_STS_TAG fMBX_STS_RESW (by decide), State.rd_wr]
    rfl
  · rw [State.rd_wr_ne _ (hres (f := fMBX_STS_TAG c) rfl (by decide : 16 < 32)),
      State.rd_wr_ne _ (hres (f := fMBX_STS_RESW c) rfl (by decide : 10 < 32)),
      State.rd_wr_ne _ (hres (f := fMBX_STS_STATUS c) rfl (by decide : 0 < 32)),
      State.rd_wr_ne _ (hres (f := fMBX_STS_STATE c) rfl (by decide : 30 < 32)), writeRes_rd c ws hw]

/-- The SM-640 window and the vector a completion signals. -/
theorem signalled_frame (c : Nat) (s : State) :
    let v := if c = 3 then s.smEvent 3 else s
    let t := if v.on (fMBX_CFG_VEC_EN c) then v.msix (v.rd (fMBX_CFG_VEC c)) else v
    t.mbx.run = s.mbx.run ∧ RegsOut [0x80] s t := by
  intro v t
  have hv : v.mbx.run = s.mbx.run ∧ RegsOut [0x80] s v := by
    dsimp only [v]
    split
    · exact ⟨rfl, regsOut_flag _ (regsOut_refl _ _) (by decide)⟩
    · exact ⟨rfl, regsOut_refl _ _⟩
  dsimp only [t]
  split
  · exact ⟨(msix_run ..).trans hv.1, regsOut_regs hv.2 (msix_regs ..)⟩
  · exact hv

/-- A channel's command that completes is gone, and the record of its completion leaves the channel's registers as its result set them. -/
theorem complete_chan {c : Nat} {r : Running} (hsrc : r.src = .chan c) (st : Nat) {ws : List Nat} (hws : ws.length ≤ 62) (s : State) :
    (complete r st ws s).cmd? (.chan c) = none ∧ ∃ u, ∀ f : Fld, 0x140000 ≤ f.off → f.off < 0x141000 →
      f.lo < 32 ∧ f.lo ≠ 28 ∧ f.lo ≠ 29 → (complete r st ws s).rd f = (showResult c st ws r.tag u).rd f := by
  unfold complete
  rw [hsrc, List.take_of_length_le hws]
  extract_lets _ u _ e commit k
  have hu : ∀ x ∈ u.mbx.run, x.src ≠ .chan c := fun x hx => of_decide_eq_true (List.mem_filter.1 hx).2
  obtain ⟨herun, heregs⟩ : e.mbx.run = (showResult c st ws r.tag u).mbx.run ∧ RegsOut [0x80] (showResult c st ws r.tag u) e :=
    signalled_frame c (showResult c st ws r.tag u)
  rw [showResult_mbx] at herun
  clear_value u e
  obtain ⟨hkrun, hkregs⟩ : k.mbx.run = e.mbx.run ∧ RegsOut [0x0C, 0x0D] e k := by
    dsimp only [k]
    split
    · exact ⟨congrArg Mbx.run (post_mbx ..), post_regs (by decide) (by decide) _ _ (regsOut_refl _ _)⟩
    · exact ⟨rfl, regsOut_refl _ _⟩
  have hgone : k.cmd? (.chan c) = none := cmd_eq_none.2 (by rw [hkrun, herun]; exact hu)
  refine ⟨(cmd_eq_of_run (congrArg Mbx.run (mbxSync_same (p := .mbx) (by decide) _)) _).trans (nextWaiting_cmd hgone), u,
    fun f hmbx hoff hlo => ?_⟩
  have hblock : f.block = 0x14 := by
    unfold Fld.block Fld.key
    omega
  rw [mbxSync_rd hoff hlo, State.rd, nextWaiting_regs, ← State.rd, hkregs f (by simp [hblock]), heregs f (by simp [hblock])]

/-- What a channel shows of the command that has completed (R476). -/
theorem complete_chan_shown {c : Fin 4} {r : Running} (hsrc : r.src = .chan c) {st : Nat} (hst : st < 16) {ws : List Nat}
    (hws : ws.length ≤ 62) (s : State) :
    (complete r st ws s).cmd? (.chan c) = none ∧ (complete r st ws s).rd (fMBX_STS_STATE c) = 2 ∧
      (complete r st ws s).rd (fMBX_STS_STATUS c) = st ∧ (complete r st ws s).rd (fMBX_STS_RESW c) = ws.length ∧
      ∀ w < ws.length, (complete r st ws s).rd (fMBX_RES_RES c w) = ws.getD w 0 % 2 ^ 32 := by
  obtain ⟨hgone, u, hrd⟩ := complete_chan hsrc st hws s
  obtain ⟨hstate, hstatus, hresw, hres⟩ := showResult_rd c st ws r.tag u
  have hc := c.isLt
  have hsts (f : Fld) (hoff : f.off = 0x140008 + 1024 * c) (hlo : f.lo < 32 ∧ f.lo ≠ 28 ∧ f.lo ≠ 29) :
      (complete r st ws s).rd f = (showResult c st ws r.tag u).rd f := hrd f (by omega) (by omega) hlo
  refine ⟨hgone, (hsts (fMBX_STS_STATE c) rfl (by decide : 30 < 32 ∧ 30 ≠ 28 ∧ 30 ≠ 29)).trans hstate,
    (hsts (fMBX_STS_STATUS c) rfl (by decide : 0 < 32 ∧ 0 ≠ 28 ∧ 0 ≠ 29)).trans (hstatus.trans (Nat.mod_eq_of_lt hst)),
    (hsts (fMBX_STS_RESW c) rfl (by decide : 10 < 32 ∧ 10 ≠ 28 ∧ 10 ≠ 29)).trans (hresw.trans (Nat.mod_eq_of_lt (by omega))),
    fun w hw => (hrd (fMBX_RES_RES c w) ?_ ?_ (by decide : 0 < 32 ∧ 0 ≠ 28 ∧ 0 ≠ 29)).trans (hres w (by omega))⟩
  · change 0x140000 ≤ 0x140200 + 1024 * c.val + 4 * w
    omega
  · change 0x140200 + 1024 * c.val + 4 * w < 0x141000
    omega

/-- Settles O50: an accepted command runs once; what it leaves of the others is the scheduler's list, which records do not touch. -/
theorem systemCommands : Obligations.SystemCommands := by
  refine ⟨?info, ?commission, ?reseat, ?complete⟩
  case info =>
    intro src args r s h
    obtain ⟨t, ht, hcmd, -⟩ := runs_accepted h (i := .getInfo src args) rfl rfl rfl
    exact ⟨t, ht, hcmd⟩
  case commission =>
    intro src args r s h
    refine ⟨fun hkey hnew => ?_, fun hkey hdone => ?_, fun hkey => ?_⟩
    · obtain ⟨hrun, hcommissioned, hseq, hqueue, hpwr, htamper, hshown, hevents⟩ := commission_effect s
      obtain ⟨t, ht, hcmd, hsame, hrd⟩ := runs_accepted h (i := .commission src args) rfl
        (a := .done stOk (words64 (commission s).1)) (u := (commission s).2) (by simp [hkey, hnew]) hrun
      have hchs : t.mram.chs = (commission s).2.mram.chs := hsame .mramChs (by decide)
      have hbur : t.mram.bur = (commission s).2.mram.bur := hsame .mramBur (by decide)
      refine ⟨t, ht, ?_, (hrd _ (by decide) (by decide)).trans hshown, (congrArg Chest.queue (hsame .chs (by decide))).trans hqueue,
        (hsame .mramPwr (by decide)).trans hpwr, ?_, (hrd _ (by decide) (by decide)).trans hevents, ?_⟩
      · rw [hchs, hcommissioned]
      · rw [hbur, htamper]
      · rw [hchs, hseq]
        exact hcmd
    · exact runs_accepted_same .mramChs (by decide) h (i := .commission src args) rfl (a := .done stState []) (u := s)
        (by simp [hkey, hdone]) rfl
    · exact runs_accepted_same .mramChs (by decide) h (i := .commission src args) rfl (a := .done stBadArg []) (u := s)
        (by simp [hkey]) rfl
  case reseat =>
    intro src args r s h
    refine ⟨fun hmemo harg => ?_, fun hmemo hlo hhi hsrc => ⟨fun hstate => ?_, fun hhold hstuck => ?_⟩,
      fun w hmemo hwait hgot => ?_, fun w hmemo hwait hfour hagree => ?_⟩
    · exact runs_accepted_same .clv (by decide) h (i := .timeReseat src args) rfl (a := .done stBadArg []) (u := s)
        (by simp only [hmemo]; exact if_pos (by simpa [Nat.lt_one_iff, or_assoc] using harg)) rfl
    · exact runs_accepted_same .clv (by decide) h (i := .timeReseat src args) rfl (a := .later [Arg r 0])
        (u := s.setClv { s.clv with wait := some { src := Arg r 0, deadline := s.up + 10000000000 } })
        (by simp only [hmemo]; exact (if_neg (by simp [hsrc]; omega)).trans (if_neg (by rcases hstate with h | h <;> simp [h]))) rfl
    · exact runs_accepted_same .clv (by decide) h (i := .timeReseat src args) rfl (a := .done stState []) (u := s)
        (by simp only [hmemo]; exact (if_neg (by simp [hsrc]; omega)).trans (if_pos (by simp [hhold, hstuck]))) rfl
    · obtain ⟨m, ms, hm⟩ := List.exists_cons_of_ne_nil hmemo
      have hnot : ¬(decide (w.got.length ≥ 4) && agree s.jump w.got) = true := by
        rcases hgot with hfew | hapart
        · simp [Nat.not_le.2 hfew]
        · simp [hapart]
      refine ⟨fun hlate => ?_, fun hearly => ?_⟩
      · exact runs_accepted_same .clv (by decide) h (i := .timeReseat src args) rfl (a := .done stTimeout [])
          (u := s.setClv { s.clv with wait := none }) (by simp only [hm, hwait]; exact (if_neg hnot).trans (if_pos hlate)) rfl
      · exact runs_accepted_same .clv (by decide) h (i := .timeReseat src args) rfl (a := .later r.memo) (u := s)
          (by simp only [hm, hwait]; exact (if_neg hnot).trans (if_neg (Nat.not_le.2 hearly))) rfl
    · obtain ⟨m, ms, hm⟩ := List.exists_cons_of_ne_nil hmemo
      obtain ⟨x, hx, hd, hsrc, htick, htm, hskip⟩ := reseatFix_clv (Arg r 0) w.got s
      have hgo : (decide (w.got.length ≥ 4) && agree s.jump w.got) = true := by simp [hfour, hagree]
      obtain ⟨t, ht, hcmd, hsame, -⟩ := runs_accepted h (i := .timeReseat src args) rfl
        (a := .later [Arg r 0, ofSigned 64 x.d, x.m, x.skipped]) (u := reseatFix (Arg r 0) w.got s)
        (by simp only [hm, hwait]; exact (if_pos hgo).trans (by rw [hx])) (reseatFix_run ..)
      have hclv : t.clv = (reseatFix (Arg r 0) w.got s).clv := hsame .clv (by decide)
      exact ⟨t, ht, by rw [hclv]; rfl, x, by rw [hclv, hx], hd, hsrc, htick, htm, hskip, hcmd⟩
  case complete =>
    intro c rep r st ws s hstew hcmd hdone hwait hst hws
    have hexec : exec (.mbxCommandComplete (.chan c) rep) s = .next (complete r st ws s) := by
      refine congrArg Host.Outcome.next ?_
      simp only [hstew, Bool.not_true, Bool.false_eq_true, if_false, hcmd, hdone, hwait]
    exact ⟨_, hexec, complete_chan_shown (src_of_cmd hcmd) hst hws s⟩

end Sys2Proof.Machine
end

section
/-!
PROOFS. Scope: links, pause and preemption (R96, R97, R99, R115, R119, R120, R122).
-/

namespace Sys2Proof.Machine

/-! ### Preemption (R119, R120) -/

/-- PORT_STS.PMAC as a port's enables and its link give it (R119). -/
def pmacOf (p : Port) (link : Bool) : Nat :=
  if p.pmacOn && link then (if p.verifyDis then pmacActive else pmacVerifying) else pmacOff

/-- Port n's data past a frame boundary: the written enables are in force (R120). -/
def boundaryPort (n : Nat) (s : State) : Port :=
  { s.port n with pmacOn := s.on (fPORT_CTL_PMAC_EN n), verifyDis := s.on (fPORT_CTL_VERIFY_DIS n),
                  addFrag := s.rd (fPORT_CTL_ADD_FRAG n), pmacWritten := false }

/-- What a frame boundary finds makes preemption start again (R119, R120). -/
def pmacRestarts (n : Nat) (s : State) : Bool :=
  s.on (fPORT_CTL_PMAC_EN n) ≠ (s.port n).pmacOn || ((s.port n).pmacWritten && s.rd (fPORT_STS_PMAC n) = pmacFailed) ||
    (s.on (fPORT_CTL_VERIFY_DIS n) ≠ (s.port n).verifyDis && !decide (s.rd (fPORT_STS_PMAC n) = pmacFailed))

theorem pmacApply_eq (n : Nat) (s : State) :
    pmacApply n s = if pmacRestarts n s then pmacStart n (s.setPort n (boundaryPort n s)) else s.setPort n (boundaryPort n s) := rfl

theorem ports_length_setPort {s : State} (h : s.ports.length = 64) (n : Nat) (p : Port) : (s.setPort n p).ports.length = 64 :=
  (List.length_set ..).trans h

theorem pmacStart_eq (n : Fin 64) {s : State} (hports : s.ports.length = 64) :
    pmacStart n s = (s.setPort n { s.port n with verify := 0, verifyAt := s.up }).wr (fPORT_STS_PMAC n) (pmacOf (s.port n) (s.link n)) := by
  have hlink : (s.setPort n { s.port n with verify := 0, verifyAt := s.up }).link n = s.link n := rfl
  unfold pmacStart pmacOf
  simp only [port_setPort hports, hlink]
  cases (s.port n).pmacOn <;> cases s.link n <;> cases (s.port n).verifyDis <;> rfl

theorem pmacOf_lt (p : Port) (link : Bool) : pmacOf p link < 2 ^ 2 := by
  unfold pmacOf
  split
  · split <;> decide
  · decide

theorem pmacStart_pmac (n : Fin 64) {s : State} (hports : s.ports.length = 64) :
    (pmacStart n s).rd (fPORT_STS_PMAC n) = pmacOf (s.port n) (s.link n) := by
  rw [pmacStart_eq n hports, State.rd_wr]
  exact Nat.mod_eq_of_lt (pmacOf_lt ..)

theorem pmacStart_port (n : Fin 64) {s : State} (hports : s.ports.length = 64) :
    (pmacStart n s).port n = { s.port n with verify := 0, verifyAt := s.up } := by
  rw [pmacStart_eq n hports]
  exact port_setPort hports ..

theorem pmacStart_rd {g : Nat → Fld} (hg : ∀ n : Fin 64, (g n).key ≠ (fPORT_STS_PMAC n).key) (n : Fin 64) {s : State}
    (hports : s.ports.length = 64) : (pmacStart n s).rd (g n) = s.rd (g n) := by
  rw [pmacStart_eq n hports]
  exact rd_wr_indexed fPORT_STS_PMAC g hg n ..

/-- A frame boundary changes a port's preemption only. -/
theorem pmacApply_port (n : Fin 64) {s : State} (hports : s.ports.length = 64) :
    ∃ v x, (pmacApply n s).port n = { boundaryPort n s with verify := v, verifyAt := x } := by
  rw [pmacApply_eq]
  split
  · exact ⟨0, s.up, by rw [pmacStart_port n (ports_length_setPort hports ..), port_setPort hports]; rfl⟩
  · exact ⟨_, _, port_setPort hports ..⟩

theorem pmacApply_rd {g : Nat → Fld} (hg : ∀ n : Fin 64, (g n).key ≠ (fPORT_STS_PMAC n).key) (n : Fin 64) {s : State}
    (hports : s.ports.length = 64) : (pmacApply n s).rd (g n) = s.rd (g n) := by
  rw [pmacApply_eq]
  split
  · exact pmacStart_rd hg n (ports_length_setPort hports ..)
  · rfl

theorem pmacApply_pmac (n : Fin 64) {s : State} (hports : s.ports.length = 64) :
    (pmacApply n s).rd (fPORT_STS_PMAC n) =
      if pmacRestarts n s then pmacOf (boundaryPort n s) (s.link n) else s.rd (fPORT_STS_PMAC n) := by
  rw [pmacApply_eq]
  split
  · rw [pmacStart_pmac n (ports_length_setPort hports ..), port_setPort hports]
    rfl
  · rfl

/-! ### Links (R96, R97) -/

/-- A link that nothing holds down comes up, and preemption starts (R96, R119). -/
theorem linkUp_up {n : Fin 64} {fd g : Bool} {s : State} (hports : s.ports.length = 64) (hmode : s.portMode n ≠ 0)
    (hduplex : s.portMode n = 1 → fd = true) (hspeed : s.portMode n = 2 → fd = true ∧ g = true) :
    let t := linkUp n fd g s
    t.link n = true ∧ t.rd (fPORT_STS_AN_DONE n) = 1 ∧ (t.port n).anRetry = none ∧ (t.port n).verify = 0 ∧
      t.rd (fPORT_STS_PMAC n) =
        (if (s.port n).pmacOn then (if (s.port n).verifyDis then pmacActive else pmacVerifying) else pmacOff) := by
  set p : Port := { s.port n with anRetry := none }
  set u := ((s.setPort n p).wrB (fPORT_STS_LINK n) true).wrB (fPORT_STS_AN_DONE n) true with hu
  have hup : linkUp n fd g s = pmacStart n u := by
    have h1 : (decide (s.portMode n = 1) && !fd) = false := by simpa using hduplex
    have h2 : (decide (s.portMode n = 2) && (!fd || !g)) = false := by simpa [or_iff_not_imp_left] using hspeed
    simp only [linkUp, if_neg hmode, h1, h2, Bool.false_eq_true, if_false]
    rfl
  have hport : u.port n = p := port_setPort hports ..
  have hlen : u.ports.length = 64 := ports_length_setPort hports ..
  have hlink : u.link n = true := by
    refine (on_eq_of_rd (rd_wr_indexed fPORT_STS_AN_DONE fPORT_STS_LINK (by decide) n _ _)).trans ?_
    exact on_wrB Nat.one_pos ..
  intro t
  rw [show t = pmacStart n u from hup]
  refine ⟨(on_eq_of_rd (pmacStart_rd (g := fPORT_STS_LINK) (by decide) n hlen)).trans hlink, ?_, ?_, ?_, ?_⟩
  · rw [pmacStart_rd (g := fPORT_STS_AN_DONE) (by decide) n hlen]
    exact State.rd_wr ..
  · rw [pmacStart_port n hlen, hport]
  · rw [pmacStart_port n hlen]
  · rw [pmacStart_pmac n hlen, hport, hlink, pmacOf, Bool.and_true]

/-- A link held down for duplex or speed says so in the flag of its mode, and is tried again in 1 s (R97). -/
theorem linkUp_held {n : Fin 64} {fd g : Bool} {s : State}
    (hheld : s.portMode n = 1 ∧ fd = false ∨ s.portMode n = 2 ∧ (fd = false ∨ g = false)) :
    linkUp n fd g s =
      (s.setPort n { s.port n with anRetry := some (s.up + 1000000000) }).flag (fPORT_FLT_FLAGS n) (s.portMode n) := by
  unfold linkUp
  rcases hheld with ⟨hmode, rfl⟩ | ⟨hmode, hneg⟩
  · simp [hmode]
  · have hneg : (!fd || !g) = true := by simpa using hneg
    simp [hmode, hneg]

/-! ### Pause (R115) -/

/-- A pause on a port that obeys it: of `q` quanta from now on, or over where `q` is 0. -/
theorem pauseRx_effect (n : Fin 64) (q : Nat) {s : State} (hports : s.ports.length = 64) (hobey : s.on (fPORT_CTL_PAUSE_OBEY n) = true) :
    let t := pauseRx n q s
    t.rd (fPORT_PAUSE_CNT_FRAMES n) = satAdd 32 (s.rd (fPORT_PAUSE_CNT_FRAMES n)) 1 ∧
      t.rd (fPORT_STS_PAUSED n) = (if q = 0 then 0 else 1) ∧
      (t.port n).pausedTo = (if q = 0 then none else some (s.up + (match s.portMode n with
        | 4 => q * 512 / 10 | 3 => q * 2048 / 10 | _ => q * 512))) := by
  have hobey' : (s.inc (fPORT_PAUSE_CNT_FRAMES n)).on (fPORT_CTL_PAUSE_OBEY n) = true :=
    (on_eq_of_rd (rd_wr_indexed fPORT_PAUSE_CNT_FRAMES fPORT_CTL_PAUSE_OBEY (by decide) n _ s)).trans hobey
  have hmode : (s.inc (fPORT_PAUSE_CNT_FRAMES n)).portMode n = s.portMode n :=
    rd_wr_indexed fPORT_PAUSE_CNT_FRAMES fPORT_CFG_MODE (by decide) n _ s
  have hcount (p : Port) (b : Bool) :
      (((s.inc (fPORT_PAUSE_CNT_FRAMES n)).setPort n p).wrB (fPORT_STS_PAUSED n) b).rd (fPORT_PAUSE_CNT_FRAMES n) =
        satAdd 32 (s.rd (fPORT_PAUSE_CNT_FRAMES n)) 1 :=
    (rd_wr_indexed fPORT_STS_PAUSED fPORT_PAUSE_CNT_FRAMES (by decide) n _ _).trans (rd_inc_self s 1)
  have hport (p : Port) (b : Bool) :
      (((s.inc (fPORT_PAUSE_CNT_FRAMES n)).setPort n p).wrB (fPORT_STS_PAUSED n) b).port n = p :=
    port_setPort (s := s.inc (fPORT_PAUSE_CNT_FRAMES n)) hports n p
  intro t
  by_cases hq : q = 0
  · have ht : t = ((s.inc (fPORT_PAUSE_CNT_FRAMES n)).setPort n { s.port n with pausedTo := none }).wrB (fPORT_STS_PAUSED n) false := by
      simp only [t, pauseRx, hobey', Bool.not_true, Bool.false_eq_true, if_false, if_pos hq]
      rfl
    rw [ht, hcount, hport, if_pos hq, if_pos hq]
    exact ⟨rfl, rd_wrB_false .., rfl⟩
  · have ht : t = ((s.inc (fPORT_PAUSE_CNT_FRAMES n)).setPort n { s.port n with
          pausedTo := some (s.up + if s.portMode n = 4 then q * 512 / 10 else if s.portMode n = 3 then q * 2048 / 10 else q * 512) }).wrB
        (fPORT_STS_PAUSED n) true := by
      simp only [t, pauseRx, hobey', Bool.not_true, Bool.false_eq_true, if_false, if_neg hq, hmode]
      rfl
    rw [ht, hcount, hport, if_neg hq, if_neg hq]
    refine ⟨rfl, State.rd_wr .., congrArg (fun d => some (s.up + d)) ?_⟩
    by_cases h4 : s.portMode n = 4
    · rw [h4]
      rfl
    by_cases h3 : s.portMode n = 3
    · rw [h3]
      rfl
    rw [if_neg h4, if_neg h3]
    split
    · exact absurd ‹_› h4
    · exact absurd ‹_› h3
    · rfl

/-- A pause in force that is ended. -/
theorem pauseEnd_effect (n : Fin 64) {s : State} (hports : s.ports.length = 64) :
    let t := (s.setPort n { s.port n with pausedTo := none }).wrB (fPORT_STS_PAUSED n) false
    (t.port n).pausedTo = none ∧ t.rd (fPORT_STS_PAUSED n) = 0 :=
  ⟨congrArg Port.pausedTo (port_setPort hports ..), rd_wrB_false ..⟩

/-! ### The frames a port holds -/

/-- The bytes of the frames held in port n's receive FIFO. -/
def State.rxBytes (s : State) (n : Nat) : List Bytes := (s.port n).rx.map fun f => f.bytes

theorem rxBytes_eq_of {s t : State} (h : t.ports = s.ports) (n : Nat) : t.rxBytes n = s.rxBytes n := by
  unfold State.rxBytes
  rw [port_eq_of h]

theorem rxBytes_setPort {s : State} (hports : s.ports.length = 64) (n : Fin 64) (p : Port) :
    (s.setPort n p).rxBytes n = p.rx.map fun f => f.bytes := by
  unfold State.rxBytes
  rw [port_setPort hports]

/-- An entry's resolution reaches each port's copies and nothing else (R111). -/
theorem dupTell_port (id : Nat) (res : DupState) (s : State) (n : Nat) :
    (dupTell id res s).port n = { s.port n with
      rx := (s.port n).rx.map fun f => { f with dup := dupTold id res f.dup },
      cur := (s.port n).cur.map fun c => { c with dup := dupTold id res c.dup } } :=
  List.getD_map s.ports {} _

theorem dupTell_rxBytes (id : Nat) (res : DupState) (s : State) (n : Nat) : (dupTell id res s).rxBytes n = s.rxBytes n := by
  unfold State.rxBytes
  rw [dupTell_port, List.map_map]
  rfl

theorem dupDrop_rxBytes (d : DupState) (s : State) (n : Nat) : (dupDrop d s).rxBytes n = s.rxBytes n := by
  cases d with
  | owner key id => exact dupTell_rxBytes ..
  | _ => rfl

theorem dupFinal_rxBytes (d : DupState) (s : State) (n : Nat) : (dupFinal d s).rxBytes n = s.rxBytes n := by
  cases d with
  | owner key id => exact dupTell_rxBytes ..
  | _ => rfl

theorem dupDrop_regs (d : DupState) (s : State) : (dupDrop d s).regs = s.regs :=
  (dupDrop_kept d (Kept.refl _ s) (Nat.and_self _)).2.2.same .regs (by decide)

/-- A rollback leaves what a port holds, and writes its own count only (R104, R108). -/
theorem rxBad_effect (n : Fin 64) (d : DupState) (started : Bool) {s : State} (hinv : Inv s) :
    (rxBad n d started s).rxBytes n = s.rxBytes n ∧
      ∀ g : Fld, g.key ≠ (fPORT_ROLLBACK_CNT_FRAMES n).key → (rxBad n d started s).rd g = s.rd g := by
  have hdrop : (dupDrop d s).ports.length = 64 := ((dupDrop_kept d (Kept.refl _ s) (Nat.and_self _)).1 hinv).ports_length
  have hrd (g : Fld) : (dupDrop d s).rd g = s.rd g := by rw [State.rd, dupDrop_regs, State.rd]
  unfold rxBad
  cases started with
  | false => exact ⟨dupDrop_rxBytes .., fun g _ => hrd g⟩
  | true =>
    refine ⟨?_, fun g hg => ?_⟩
    · exact (rxBytes_eq_of (ev_ports ..) n).trans ((rxBytes_setPort hdrop n _).trans (dupDrop_rxBytes ..))
    · exact (State.rd_wr_ne _ hg _).trans ((ev_rd ..).trans (hrd g))

/-! ### Loss of a link (R99, R274, R332) -/

/-- Link loss drops the frame that is arriving, as one cut short (R99). -/
def arrivalLost (n : Nat) (s : State) : State :=
  match (s.port n).cur with
  | some c => if c.lost then s else rxBad n c.dup c.started (s.inc (fPORT_RUNT_CNT_FRAMES n))
  | none => s

/-- Frames on the wire, and cut ones, that link loss loses. -/
def framesLost (p : Port) : Nat := (if p.wire.isSome then 1 else 0) + (if p.cut.isSome then 1 else 0)

/-- Link loss up to the frame boundary that it is (R120). -/
def linkCleared (n : Nat) (s : State) : State :=
  let u := arrivalLost n s
  let u := if framesLost (s.port n) = 0 then u else u.inc (fPORT_TXLOST_CNT_FRAMES n) (framesLost (s.port n))
  let u := u.setPort n { u.port n with cur := none, wire := none, cut := none, pausedTo := none }
  (((u.wrB (fPORT_STS_LINK n) false).wrB (fPORT_STS_AN_DONE n) false).wr (fPORT_STS_PMAC n) pmacOff).wrB (fPORT_STS_PAUSED n) false

theorem linkDrop_eq (n : Nat) (s : State) : linkDrop n s = pmacApply n (linkCleared n s) := rfl

theorem arrivalLost_effect (n : Fin 64) {s : State} (hinv : Inv s) :
    Inv (arrivalLost n s) ∧ (arrivalLost n s).rxBytes n = s.rxBytes n ∧
      ∀ g : Nat → Fld, (∀ n : Fin 64, (g n).key ≠ (fPORT_RUNT_CNT_FRAMES n).key ∧ (g n).key ≠ (fPORT_ROLLBACK_CNT_FRAMES n).key) →
        (arrivalLost n s).rd (g n) = s.rd (g n) := by
  have hsame : Inv s ∧ s.rxBytes n = s.rxBytes n ∧ ∀ g : Nat → Fld,
      (∀ n : Fin 64, (g n).key ≠ (fPORT_RUNT_CNT_FRAMES n).key ∧ (g n).key ≠ (fPORT_ROLLBACK_CNT_FRAMES n).key) →
        s.rd (g n) = s.rd (g n) := ⟨hinv, rfl, fun _ _ => rfl⟩
  unfold arrivalLost
  split
  case h_1 c _ =>
    split
    · exact hsame
    · have hinv' : Inv (s.inc (fPORT_RUNT_CNT_FRAMES n)) := (st_inc_kept _ _ (Kept.refl _ s) (Nat.and_self _)).1 hinv
      obtain ⟨hbytes, hrd⟩ := rxBad_effect n c.dup c.started hinv'
      exact ⟨(rxBad_kept n c.dup c.started (Kept.refl _ _) (Nat.and_self _)).1 hinv', hbytes,
        fun g hg => (hrd _ (hg n).2).trans (State.rd_wr_ne _ (hg n).1 _)⟩
  case h_2 => exact hsame

/-- What link loss leaves of a port before the frame boundary: nothing in progress, the frames held, and the loss counted. -/
theorem linkCleared_effect (n : Fin 64) {s : State} (hinv : Inv s) :
    let t := linkCleared n s
    t.ports.length = 64 ∧ (t.port n).cur = none ∧ (t.port n).wire = none ∧ (t.port n).cut = none ∧ (t.port n).pausedTo = none ∧
      t.rxBytes n = s.rxBytes n ∧ t.link n = false ∧ t.rd (fPORT_STS_PMAC n) = pmacOff ∧
      t.rd (fPORT_FLT_FLAGS n) = s.rd (fPORT_FLT_FLAGS n) ∧
      (framesLost (s.port n) = 1 → t.rd (fPORT_TXLOST_CNT_FRAMES n) = satAdd 32 (s.rd (fPORT_TXLOST_CNT_FRAMES n)) 1) := by
  obtain ⟨hinv', hbytes, hrd⟩ := arrivalLost_effect n hinv
  set u := if framesLost (s.port n) = 0 then arrivalLost n s else
    (arrivalLost n s).inc (fPORT_TXLOST_CNT_FRAMES n) (framesLost (s.port n)) with hu
  have hports : u.ports = (arrivalLost n s).ports := by
    rw [hu]
    split <;> rfl
  have hlen : u.ports.length = 64 := by rw [hports, hinv'.ports_length]
  set p : Port := { u.port n with cur := none, wire := none, cut := none, pausedTo := none }
  have hport : (linkCleared n s).port n = p := port_setPort hlen n p
  have hflags : u.rd (fPORT_FLT_FLAGS n) = (arrivalLost n s).rd (fPORT_FLT_FLAGS n) := by
    rw [hu]
    split
    · rfl
    · exact rd_wr_indexed fPORT_TXLOST_CNT_FRAMES fPORT_FLT_FLAGS (by decide) n ..
  have hsts {g : Nat → Fld} (h1 : ∀ n : Fin 64, (g n).key ≠ (fPORT_STS_LINK n).key)
      (h2 : ∀ n : Fin 64, (g n).key ≠ (fPORT_STS_AN_DONE n).key) (h3 : ∀ n : Fin 64, (g n).key ≠ (fPORT_STS_PMAC n).key)
      (h4 : ∀ n : Fin 64, (g n).key ≠ (fPORT_STS_PAUSED n).key) : (linkCleared n s).rd (g n) = u.rd (g n) :=
    (rd_wr_indexed fPORT_STS_PAUSED g h4 n ..).trans ((rd_wr_indexed fPORT_STS_PMAC g h3 n ..).trans
      ((rd_wr_indexed fPORT_STS_AN_DONE g h2 n ..).trans (rd_wr_indexed fPORT_STS_LINK g h1 n ..)))
  intro t
  refine ⟨ports_length_setPort hlen n p, by rw [hport], by rw [hport], by rw [hport], by rw [hport], ?_, ?_, ?_, ?_, fun hlost => ?_⟩
  · exact (rxBytes_setPort hlen n p).trans ((rxBytes_eq_of hports n).trans hbytes)
  · refine (on_eq_of_rd (rd_wr_indexed fPORT_STS_PAUSED fPORT_STS_LINK (by decide) n ..)).trans ?_
    refine (on_eq_of_rd (rd_wr_indexed fPORT_STS_PMAC fPORT_STS_LINK (by decide) n ..)).trans ?_
    refine (on_eq_of_rd (rd_wr_indexed fPORT_STS_AN_DONE fPORT_STS_LINK (by decide) n ..)).trans ?_
    exact on_wrB Nat.one_pos ..
  · exact (rd_wr_indexed fPORT_STS_PAUSED fPORT_STS_PMAC (by decide) n ..).trans (State.rd_wr ..)
  · exact (hsts (g := fPORT_FLT_FLAGS) (by decide) (by decide) (by decide) (by decide)).trans
      (hflags.trans (hrd fPORT_FLT_FLAGS (by decide)))
  · refine (hsts (g := fPORT_TXLOST_CNT_FRAMES) (by decide) (by decide) (by decide) (by decide)).trans ?_
    rw [hu, hlost, if_neg Nat.one_ne_zero, rd_inc_self, hrd fPORT_TXLOST_CNT_FRAMES (by decide)]

/-- Link loss, past its frame boundary (R99, R120). -/
theorem linkDrop_effect (n : Fin 64) {s : State} (hinv : Inv s) :
    let t := linkDrop n s
    Inv t ∧ (t.port n).cur = none ∧ (t.port n).wire = none ∧ (t.port n).cut = none ∧ (t.port n).pausedTo = none ∧
      t.rxBytes n = s.rxBytes n ∧ t.link n = false ∧ t.rd (fPORT_STS_PMAC n) = pmacOff ∧
      t.rd (fPORT_FLT_FLAGS n) = s.rd (fPORT_FLT_FLAGS n) ∧
      (framesLost (s.port n) = 1 → t.rd (fPORT_TXLOST_CNT_FRAMES n) = satAdd 32 (s.rd (fPORT_TXLOST_CNT_FRAMES n)) 1) := by
  obtain ⟨hlen, hcur, hwire, hcut, hpaused, hbytes, hlink, hpmac, hflags, hlost⟩ := linkCleared_effect n hinv
  obtain ⟨v, x, hport⟩ := pmacApply_port n hlen
  have hinv' : Inv (linkDrop n s) := (linkDrop_kept n (Kept.refl _ s) (Nat.and_self _)).1 hinv
  rw [linkDrop_eq] at hinv' ⊢
  refine ⟨hinv', ?_, ?_, ?_, ?_, ?_, ?_, ?_, ?_, fun h => ?_⟩
  · rw [hport]; exact hcur
  · rw [hport]; exact hwire
  · rw [hport]; exact hcut
  · rw [hport]; exact hpaused
  · refine Eq.trans ?_ hbytes
    unfold State.rxBytes
    rw [hport]
    rfl
  · exact (on_eq_of_rd (pmacApply_rd (g := fPORT_STS_LINK) (by decide) n hlen)).trans hlink
  · rw [pmacApply_pmac n hlen, hpmac, hlink, pmacOf, Bool.and_false]
    exact ite_self _
  · exact (pmacApply_rd (g := fPORT_FLT_FLAGS) (by decide) n hlen).trans hflags
  · exact (pmacApply_rd (g := fPORT_TXLOST_CNT_FRAMES) (by decide) n hlen).trans (hlost h)

theorem withdrawn_regs {o s : State} (f : TxFrame) (h : RegsOut [0x0B] o s) : RegsOut [0x0B] o (withdrawn f s) := by
  unfold withdrawn
  have hcount : RegsOut [0x0B] o ((s.inc fEGR_AGED_CNT_FRAMES).flag fEGR_FLT_FLAGS 4) :=
    regsOut_flag _ (regsOut_inc _ h (by decide)) (by decide)
  dsimp only
  split
  · exact regsOut_regs hcount rfl
  · exact hcount

theorem foldl_withdrawn_ports (l : List TxFrame) (s : State) : (l.foldl (fun s f => withdrawn f s) s).ports = s.ports :=
  (kept_foldl (F := 1048577) (Kept.refl _ s) fun _ f h => withdrawn_kept f h (Nat.and_self _)).2.2.same .ports (by decide)

/-- Withdrawal takes unstarted frames out of a port's FIFO, and counts in the egress registers (R332). -/
theorem withdraw_effect (n : Fin 64) (p : TxFrame → Bool) {s : State} (hports : s.ports.length = 64) :
    (∃ fifo txWr, (withdraw n p s).port n = { s.port n with fifo := fifo, txWr := txWr }) ∧ RegsOut [0x0B] s (withdraw n p s) := by
  unfold withdraw
  extract_lets hit pt staged gone u v back w
  split
  · exact ⟨⟨_, _, rfl⟩, regsOut_refl [0x0B] s⟩
  · refine ⟨⟨pt.fifo.filter fun f => !hit f, (pt.txWr + 8192 - back % 8192) % 8192, ?_⟩, ?_⟩
    · rw [port_eq_of (foldl_withdrawn_ports ..)]
      exact port_setPort (s := v) hports ..
    · exact regsOut_foldl (regsOut_regs (regsOut_refl _ s) rfl) fun _ f _ h => withdrawn_regs f h

/-- The class-0 frames of port n are discarded and counted (R274). -/
def expressDropped (n : Nat) (s : State) : State :=
  if (s.port n).express.length = 0 then s
  else ((s.setPort n { s.port n with express := [] }).inc fALM_DROP_CNT_FRAMES (s.port n).express.length).flag fALM_FLT_FLAGS 3

theorem portLinkLost_eq (n : Nat) (s : State) : portLinkLost n s = expressDropped n (withdraw n (fun _ => true) (linkDrop n s)) := rfl

theorem expressDropped_effect (n : Fin 64) {s : State} (hports : s.ports.length = 64) :
    (expressDropped n s).port n = { s.port n with express := [] } ∧ RegsOut [0x09] s (expressDropped n s) := by
  unfold expressDropped
  split
  case isTrue hnone =>
    refine ⟨?_, regsOut_refl [0x09] s⟩
    generalize s.port n = p at hnone ⊢
    cases p
    cases List.length_eq_zero_iff.1 hnone
    rfl
  case isFalse =>
    have hset : (s.setPort n { s.port n with express := [] }).port n = { s.port n with express := [] } := port_setPort hports ..
    exact ⟨hset, regsOut_flag _ (regsOut_inc _ (regsOut_regs (regsOut_refl _ s) rfl) (by decide)) (by decide)⟩

/-- A port whose link is lost keeps the frames that wait to be parsed, and has nothing in progress (R99, R274, R332). -/
theorem portLinkLost_effect (n : Fin 64) {s : State} (hinv : Inv s) :
    let t := portLinkLost n s
    Inv t ∧ t.link n = false ∧ t.rd (fPORT_STS_PMAC n) = pmacOff ∧ (t.port n).cur = none ∧ (t.port n).wire = none ∧
      (t.port n).cut = none ∧ (t.port n).pausedTo = none ∧ (t.port n).express = [] ∧ t.rxBytes n = s.rxBytes n ∧
      t.rd (fPORT_FLT_FLAGS n) = s.rd (fPORT_FLT_FLAGS n) ∧
      (framesLost (s.port n) = 1 → t.rd (fPORT_TXLOST_CNT_FRAMES n) = satAdd 32 (s.rd (fPORT_TXLOST_CNT_FRAMES n)) 1) := by
  obtain ⟨hinv', hcur, hwire, hcut, hpaused, hbytes, hlink, hpmac, hflags, hlost⟩ := linkDrop_effect n hinv
  obtain ⟨⟨fifo, txWr, hport⟩, hregs⟩ := withdraw_effect n (fun _ => true) hinv'.ports_length
  have hlen : (withdraw n (fun _ => true) (linkDrop n s)).ports.length = 64 :=
    ((withdraw_kept n _ (Kept.refl _ _) (Nat.and_self _)).1 hinv').ports_length
  obtain ⟨hend, hregs'⟩ := expressDropped_effect n hlen
  rw [hport, ← portLinkLost_eq] at hend
  have hblock (g : Nat → Fld) (hg : ∀ n : Fin 64, (g n).block = 2) : (portLinkLost n s).rd (g n) = (linkDrop n s).rd (g n) :=
    (hregs' (g n) (by rw [hg]; decide)).trans (hregs (g n) (by rw [hg]; decide))
  intro t
  refine ⟨(portLinkLost_kept n (Kept.refl _ s) (Nat.and_self _)).1 hinv, ?_, ?_, ?_, ?_, ?_, ?_, ?_, ?_, ?_, fun h => ?_⟩
  · exact (on_eq_of_rd (hblock fPORT_STS_LINK (by decide))).trans hlink
  · exact (hblock fPORT_STS_PMAC (by decide)).trans hpmac
  · rw [hend]; exact hcur
  · rw [hend]; exact hwire
  · rw [hend]; exact hcut
  · rw [hend]; exact hpaused
  · rw [hend]
  · refine Eq.trans ?_ hbytes
    unfold State.rxBytes
    rw [hend]
  · exact (hblock fPORT_FLT_FLAGS (by decide)).trans hflags
  · exact (hblock fPORT_TXLOST_CNT_FRAMES (by decide)).trans (hlost h)

/-! ### Writes of PORT_CTL (R115, R120) -/

/-- PAUSE_OBEY takes the value written; 0 ends a pause in force (R115). -/
theorem pauseObey_effect (n : Fin 64) (v : Bool) {s : State} (hports : s.ports.length = 64) :
    (pauseObey n v s).on (fPORT_CTL_PAUSE_OBEY n) = v ∧
      (v = false → ((pauseObey n v s).port n).pausedTo = none ∧ (pauseObey n v s).rd (fPORT_STS_PAUSED n) = 0) := by
  cases v with
  | true => exact ⟨on_wrB Nat.one_pos .., fun h => nomatch h⟩
  | false =>
    refine ⟨?_, fun _ => pauseEnd_effect n (s := s.wrB (fPORT_CTL_PAUSE_OBEY n) false) hports⟩
    refine (on_eq_of_rd (rd_wr_indexed fPORT_STS_PAUSED fPORT_CTL_PAUSE_OBEY (by decide) n ..)).trans ?_
    exact on_wrB (f := fPORT_CTL_PAUSE_OBEY n) Nat.one_pos s false

/-- A record of the change of mode leaves the port alone (R29). -/
theorem postModeChange_port (n : Fin 64) (off old new : Nat) (s : State) :
    (postModeChange off old new s).port n = s.port n ∧
      ∀ g : Nat → Fld, (∀ n : Fin 64, (g n).block = 2) → (postModeChange off old new s).rd (g n) = s.rd (g n) := by
  refine ⟨port_eq_of ((postModeChange_kept off old new (Kept.refl _ s) (Nat.and_self _)).2.2.same .ports (by decide)) n, fun g hg => ?_⟩
  exact post_rd _ _ _ (by rw [hg n]; decide)

/-- Between frames a write of PMAC_EN is in force at once, and on a frame it waits (R120). -/
theorem pmacEn_effect (n : Fin 64) (v : Bool) {s : State} (hports : s.ports.length = 64) :
    let t := pmacEn n v s
    t.on (fPORT_CTL_PMAC_EN n) = v ∧
      ((s.port n).wire.isSome = true → (t.port n).pmacOn = (s.port n).pmacOn ∧ t.rd (fPORT_STS_PMAC n) = s.rd (fPORT_STS_PMAC n)) ∧
      ((s.port n).wire = none → (t.port n).pmacOn = v ∧ (v ≠ (s.port n).pmacOn ∨ s.rd (fPORT_STS_PMAC n) = pmacFailed →
        t.rd (fPORT_STS_PMAC n) =
          if v && s.link n then (if s.on (fPORT_CTL_VERIFY_DIS n) then pmacActive else pmacVerifying) else pmacOff)) := by
  set p : Port := { s.port n with pmacWritten := true } with hp
  set u := (s.wrB (fPORT_CTL_PMAC_EN n) v).setPort n p with hu
  have hport : u.port n = p := port_setPort (s := s.wrB (fPORT_CTL_PMAC_EN n) v) hports n p
  have hlen : u.ports.length = 64 := ports_length_setPort (s := s.wrB (fPORT_CTL_PMAC_EN n) v) hports n p
  have hen : u.on (fPORT_CTL_PMAC_EN n) = v := on_wrB Nat.one_pos ..
  have hrd {g : Nat → Fld} (hg : ∀ n : Fin 64, (g n).key ≠ (fPORT_CTL_PMAC_EN n).key) : u.rd (g n) = s.rd (g n) :=
    rd_wr_indexed fPORT_CTL_PMAC_EN g hg n ..
  have hpmac : u.rd (fPORT_STS_PMAC n) = s.rd (fPORT_STS_PMAC n) := hrd (by decide)
  have hdis : u.on (fPORT_CTL_VERIFY_DIS n) = s.on (fPORT_CTL_VERIFY_DIS n) := on_eq_of_rd (hrd (by decide))
  have hlink : u.link n = s.link n := on_eq_of_rd (hrd (by decide))
  have ht : pmacEn n v s = if (s.port n).wire.isSome then u else pmacApply n u := by
    unfold pmacEn pmacWrite
    rw [← hp, ← hu, hport]
  intro t
  refine ⟨?_, fun hwire => ?_, fun hwire => ?_⟩
  · rw [show t = _ from ht]
    split
    · exact hen
    · exact (on_eq_of_rd (pmacApply_rd (g := fPORT_CTL_PMAC_EN) (by decide) n hlen)).trans hen
  · rw [show t = u from ht.trans (if_pos hwire), hport]
    exact ⟨rfl, hpmac⟩
  · rw [show t = pmacApply n u from ht.trans (if_neg (by simp [hwire]))]
    obtain ⟨a, b, hafter⟩ := pmacApply_port n hlen
    refine ⟨by rw [hafter]; exact hen, fun hchange => ?_⟩
    have hrestart : pmacRestarts n u = true := by
      unfold pmacRestarts
      rw [hen, hport, hpmac]
      rcases hchange with h | h
      · simp [p, h]
      · simp [p, h]
    rw [pmacApply_pmac n hlen, if_pos hrestart, hlink, pmacOf, boundaryPort, hen, hdis]

/-! ### The statement -/

/-- Settles O21: what each of the ports' shared operations sets, read off where its row's condition holds. -/
theorem portRows : Obligations.PortRows := by
  refine ⟨?up, ?held, ?down, ?restart, ?pause, ?expire, ?obey, ?verify, ?enable⟩
  case up =>
    intro n fd g s hinv hlink hmode hduplex hspeed up
    have hup : up (linkUp n fd g s) := linkUp_up hinv.ports_length hmode hduplex hspeed
    refine ⟨fun hnone => ⟨_, congrArg Host.Outcome.next ?_, hup⟩, fun x hx => ⟨fun hdue =>
      ⟨_, congrArg Host.Outcome.next ?_, hup⟩, fun hearly => congrArg Host.Outcome.next ?_⟩⟩
    · simp [hlink, hnone]
    · simp only [hx, if_neg (Nat.not_lt.2 hdue)]
    · simp only [hx, if_pos hearly]
  case held =>
    intro n fd g s hinv hlink hnone hheld
    have hexec : exec (.linkUp n fd g) s = .next (linkUp n fd g s) := congrArg Host.Outcome.next (by simp [hlink, hnone])
    have hbit : s.portMode n < 9 := by rcases hheld with ⟨h, -⟩ | ⟨h, -⟩ <;> omega
    refine ⟨_, hexec, ?_⟩
    rw [linkUp_held hheld]
    refine ⟨?_, ?_, ?_⟩
    · exact (on_eq_of_rd (rd_wr_indexed fPORT_FLT_FLAGS fPORT_STS_LINK (by decide) n ..)).trans hlink
    · exact congrArg Port.anRetry (port_setPort hinv.ports_length ..)
    · rw [bit_flag hbit, decide_eq_true rfl, Bool.or_true]
  case down =>
    intro n s hinv hlink
    have hinv' : Inv (s.flag (fPORT_FLT_FLAGS n) 0) := (st_flag_kept _ _ (Kept.refl _ s) (Nat.and_self _)).1 hinv
    obtain ⟨-, hdown, hpmac, hcur, hwire, hcut, hpaused, hexpress, hbytes, hflags, hlost⟩ := portLinkLost_effect n hinv'
    refine ⟨_, congrArg Host.Outcome.next (if_pos hlink), hdown, hpmac, hcur, hwire, hcut, hpaused, hexpress, hbytes, ?_, fun hon hnocut => ?_⟩
    · rw [bit_eq_of_rd hflags, bit_flag (by decide : 0 < 9), decide_eq_true rfl, Bool.or_true]
    · have hone : framesLost (s.port n) = 1 := by simp [framesLost, hon, hnocut]
      rw [hlost hone, rd_flag ((by decide : ∀ n : Fin 64, (fPORT_TXLOST_CNT_FRAMES n).key ≠ (fPORT_FLT_FLAGS n).key) n)]
  case restart =>
    intro n s hinv
    obtain ⟨hinv', hdown, -, -, -, -, -, -, hbytes, -⟩ := portLinkLost_effect n hinv
    set u := if s.link n then portLinkLost n s else s with hu
    obtain ⟨hlen, hoff, hsame⟩ : u.ports.length = 64 ∧ u.link n = false ∧ u.rxBytes n = s.rxBytes n := by
      rw [hu]
      split
      case isTrue => exact ⟨hinv'.ports_length, hdown, hbytes⟩
      case isFalse h => exact ⟨hinv.ports_length, by simpa using h, rfl⟩
    exact ⟨u.setPort n { u.port n with anRetry := none }, rfl, hoff, congrArg Port.anRetry (port_setPort hlen ..),
      (rxBytes_setPort hlen ..).trans hsame⟩
  case pause =>
    intro n q s hinv hlink hobey
    obtain ⟨hcount, hshown, hto⟩ := pauseRx_effect n q hinv.ports_length hobey
    have hzero : ((q : Nat) = 0) = (q = 0) := propext Fin.val_eq_zero_iff
    simp only [hzero] at hshown hto
    exact ⟨_, congrArg Host.Outcome.next (if_pos hlink), hcount, hshown, hto⟩
  case expire =>
    intro n x s hinv hto hdue
    refine ⟨_, congrArg Host.Outcome.next ?_, pauseEnd_effect n hinv.ports_length⟩
    simp only [hto, if_neg (Nat.not_lt.2 hdue)]
  case obey =>
    intro n v s hinv
    obtain ⟨hon, hend⟩ := pauseObey_effect n v hinv.ports_length
    refine ⟨_, rfl, ?_⟩
    split
    · exact ⟨hon, hend⟩
    · obtain ⟨hport, hrd⟩ := postModeChange_port n (rPORT_CTL n) (s.word (rPORT_CTL n)) ((pauseObey n v s).word (rPORT_CTL n)) (pauseObey n v s)
      refine ⟨(on_eq_of_rd (hrd fPORT_CTL_PAUSE_OBEY (by decide))).trans hon, fun h => ?_⟩
      rw [hport, hrd fPORT_STS_PAUSED (by decide)]
      exact hend h
  case verify =>
    intro n s hinv hpmac
    have hsent (hdue : s.up ≥ (s.port n).verifyAt) (hfew : (s.port n).verify < 3) : exec (.pmacVerify n) s = .next
        ((s.setPort n { s.port n with verify := (s.port n).verify + 1, verifyAt := s.up + 10000000 }).emit (.ctl "verify" n [])) :=
      congrArg Host.Outcome.next (by simp [hpmac, Nat.not_lt.2 hdue, hfew])
    have hfailed (hdue : s.up ≥ (s.port n).verifyAt) (hmany : (s.port n).verify ≥ 3) :
        exec (.pmacVerify n) s = .next ((s.wr (fPORT_STS_PMAC n) pmacFailed).flag (fPORT_FLT_FLAGS n) 7) :=
      congrArg Host.Outcome.next (by simp [hpmac, Nat.not_lt.2 hdue, Nat.not_lt.2 hmany])
    refine ⟨fun hearly => congrArg Host.Outcome.next (by simp [hearly]), fun hdue hfew => ⟨_, hsent hdue hfew, ?_, ?_, rfl, rfl⟩,
      fun hdue hmany => ⟨_, hfailed hdue hmany, ?_, ?_⟩, ⟨_, congrArg Host.Outcome.next (if_pos hpmac), State.rd_wr ..⟩⟩
    · exact congrArg Port.verify (port_setPort hinv.ports_length ..)
    · exact congrArg Port.verifyAt (port_setPort hinv.ports_length ..)
    · exact (rd_wr_indexed fPORT_FLT_FLAGS fPORT_STS_PMAC (by decide) n ..).trans (State.rd_wr ..)
    · rw [bit_flag (by decide : 7 < 9), decide_eq_true rfl, Bool.or_true]
  case enable =>
    intro n v s hinv
    exact ⟨_, rfl, pmacEn_effect n v hinv.ports_length⟩

end Sys2Proof.Machine
end

section
/-!
PROOFS. Scope: transmission (R118).
-/

namespace Sys2Proof.Machine

/-- Refutes O23: a sender's PTP port is any number, and that of 0x4001 has its CLV_PTP_PORT_CFG where port 0 counts its transmitted frames
(PORT_TX_CNT, 0x20064). As that port ends its first frame the count goes from 0 to 1, so the Follow_Up joins the TIME queue of port 1, and not
that of port 0, which the register named before. -/
theorem not_transmitRows : ¬ Obligations.TransmitRows := by
  rintro ⟨-, hsent, -⟩
  let w : OnWire := { frame := { bytes := [], sender := .clave 0x4001 (.syncTwo 0 0), queued := 0 }, express := false }
  let s : State := State.reset.setPort 0 { wire := some w }
  have hinv : Inv s := (st_setPort_kept 0 _ (Kept.refl _ State.reset) (Nat.and_self _)).1 invReset
  have hroom : s.egrFull (s.ptpOn 0x4001) qTime = false := by decide
  obtain ⟨-, hfollow, -⟩ := hsent 0 0 0 w s hinv rfl rfl
  obtain ⟨t, ht, e, hqueued, -⟩ := hfollow 0x4001 0 0 rfl hroom
  have hempty : ∃ u, exec (.txFrameSent 0 0 false 0) s = .next u ∧ u.egrQ 0 qTime = [] := ⟨_, rfl, by decide⟩
  obtain ⟨u, hu, hnone⟩ := hempty
  obtain rfl : u = t := Host.Outcome.next.inj (hu.symm.trans ht)
  have hport : s.ptpOn 0x4001 = 0 := by decide
  rw [hport, hnone] at hqueued
  exact List.append_ne_nil_of_right_ne_nil _ (List.cons_ne_nil _ _) hqueued.symm

end Sys2Proof.Machine
end

section
/-!
PROOFS. Scope: classification and binding of a frame (R100, R108, R125, R134, R135, R147).
-/

namespace Sys2Proof.Machine

/-! ### Drops (R147, R148) -/

/-- A drop shows its reason (R148). -/
theorem dropRegs_reason {reason : Nat} (hreason : reason < 256) (port : Nat) (tcp : Bool) (stamp : Nat) (slots : List Nat) (held : Bool)
    (s : State) : (dropRegs reason port tcp stamp slots held s).rd fING_LAST_DROP_STS_REASON = reason := by
  unfold dropRegs
  extract_lets u v w
  have hlater {f : Fld} (hf : fING_LAST_DROP_STS_REASON.key ≠ f.key) (t : State) (x : Nat) :
      (t.wr f x).rd fING_LAST_DROP_STS_REASON = t.rd fING_LAST_DROP_STS_REASON := State.rd_wr_ne t hf x
  refine (hlater (f := fING_LAST_DROP_TIME_NS32) (by decide) w _).trans ?_
  refine (hlater (f := fING_LAST_DROP_STS_SLOT) (by decide) _ _).trans ?_
  refine (hlater (f := fING_LAST_DROP_STS_SLOT_VALID) (by decide) v _).trans ?_
  refine (hlater (f := fING_LAST_DROP_STS_TCP) (by decide) _ _).trans ?_
  refine (hlater (f := fING_LAST_DROP_STS_PORT) (by decide) _ _).trans ?_
  rw [State.rd_wr]
  exact Nat.mod_eq_of_lt hreason

theorem dropRegs_ports (reason port : Nat) (tcp : Bool) (stamp : Nat) (slots : List Nat) (held : Bool) (s : State) :
    (dropRegs reason port tcp stamp slots held s).ports = s.ports :=
  ev_ports ..

/-! ### The head of a FIFO is done with (R102, R111) -/

theorem rxRelease_rxBytes (n : Fin 64) {s : State} (hports : s.ports.length = 64) : (rxRelease n s).rxBytes n = (s.rxBytes n).tail := by
  cases hrx : (s.port n).rx with
  | nil => simp [State.rxBytes, rxRelease, hrx]
  | cons f rest => simp [State.rxBytes, rxRelease_rx hports hrx, hrx]

theorem dupDrop_length {s : State} (h : s.ports.length = 64) (d : DupState) : (dupDrop d s).ports.length = 64 := by
  cases d with
  | owner key id => exact (List.length_map ..).trans h
  | _ => exact h

theorem dupFinal_length {s : State} (h : s.ports.length = 64) (d : DupState) : (dupFinal d s).ports.length = 64 := by
  cases d with
  | owner key id => exact (List.length_map ..).trans h
  | _ => exact h

theorem dropFrame_regs (n : Nat) (s : State) : (dropFrame n s).regs = s.regs := by
  unfold dropFrame
  split
  · exact (rxRelease_regs ..).trans (dupDrop_regs ..)
  · rfl

/-- A frame that has been committed, or passed on, leaves its FIFO. -/
theorem finishFrame_rxBytes (n : Fin 64) {s : State} (hports : s.ports.length = 64) :
    (finishFrame n s).rxBytes n = (s.rxBytes n).tail := by
  unfold finishFrame
  split
  case h_1 f _ _ => rw [rxRelease_rxBytes n (dupFinal_length hports f.dup), dupFinal_rxBytes]
  case h_2 h => simp [State.rxBytes, h]

/-- A frame that has been dropped leaves its FIFO. -/
theorem dropFrame_rxBytes (n : Fin 64) {s : State} (hports : s.ports.length = 64) : (dropFrame n s).rxBytes n = (s.rxBytes n).tail := by
  unfold dropFrame
  split
  case h_1 f _ _ => rw [rxRelease_rxBytes n (dupDrop_length hports f.dup), dupDrop_rxBytes]
  case h_2 h => simp [State.rxBytes, h]

/-- The host ring's frames stay as the head of the FIFO is done with. -/
theorem finishFrame_host (n : Fin 64) {s : State} (hports : s.ports.length = 64) :
    ((finishFrame n s).port n).host = (s.port n).host := by
  have hfinal (d : DupState) : ((dupFinal d s).port n).host = (s.port n).host := by
    cases d with
    | owner key id => exact (congrArg Port.host (dupTell_port id .discard _ n)).trans rfl
    | _ => rfl
  unfold finishFrame
  split
  case h_1 f _ _ =>
    refine Eq.trans ?_ (hfinal f.dup)
    unfold rxRelease
    extract_lets p
    split
    · rfl
    · exact (congrArg Port.host (port_setPort (dupFinal_length hports f.dup) n _)).trans rfl
  case h_2 => rfl

/-- A frame dropped before it has a job shows its reason. -/
theorem dropHead_reason {reason : Nat} (hreason : reason < 256) (n stamp : Nat) (s : State) :
    (dropHead reason n stamp s).rd fING_LAST_DROP_STS_REASON = reason := by
  rw [dropHead, State.rd, dropFrame_regs]
  exact dropRegs_reason hreason ..

/-- A frame that feeds no slot goes to the host ring, or is dropped as UNKNOWN (R135). -/
theorem unbound_done {n : Fin 64} {f : RxFrame} {rest : List RxFrame} {s u : State} (hports : u.ports.length = 64)
    (hrx : u.rxBytes n = f.bytes :: rest.map fun x => x.bytes) (hhost : (u.port n).host = (s.port n).host)
    (hcfg : u.portCfg n = s.portCfg n) : unboundDone n f rest s (unbound n f u) := by
  unfold unboundDone unbound
  rw [hcfg]
  split
  case isTrue =>
    set v := toHost n f.bytes f.stamp f.trunc f.lan u
    have hv : v.port n = { u.port n with host := (u.port n).host ++ [(f.bytes, f.stamp % 2 ^ 32, f.trunc, f.lan)] } :=
      port_setPort (s := u.inc fING_HOST_CNT_FRAMES) hports ..
    have hlen : v.ports.length = 64 := ports_length_setPort (s := u.inc fING_HOST_CNT_FRAMES) hports ..
    have hbytes : v.rxBytes n = u.rxBytes n := by
      unfold State.rxBytes
      rw [hv]
    refine ⟨?_, ?_⟩
    · refine (finishFrame_rxBytes n hlen).trans ?_
      rw [hbytes, hrx, List.tail_cons]
    · rw [finishFrame_host n hlen, hv, hhost]
  case isFalse =>
    have hdropped : (countDrop dropUnknown n false f.stamp [] false u).ports = u.ports := dropRegs_ports ..
    refine ⟨?_, dropHead_reason (by decide) ..⟩
    refine (dropFrame_rxBytes n (by rw [hdropped, hports])).trans ?_
    rw [rxBytes_eq_of hdropped, hrx, List.tail_cons]

/-! ### Steps 1 to 4 of R125 -/

/-- The parser's work on a UDP datagram of port n that these bindings want. -/
def jobOfFrame (n : Nat) (f : RxFrame) (kind : FrameKind) (p : Bytes) (bs : List Binding) : ParseJob :=
  { kind := kind, payload := p, stamp := f.stamp, port := n, lan := f.lan, trunc := f.trunc, tcp := false, slots := bs.map fun b => b.slot }

section Head
variable {n : Nat} {f : RxFrame} {s : State} (hptp : (ethHdr f.bytes).etype ≠ 0x88F7) (harp : (ethHdr f.bytes).etype ≠ 0x0806)
include hptp harp

theorem parseHead_bad (hip : readIp f.trunc (ethHdr f.bytes).etype (f.bytes.drop (ethHdr f.bytes).off) = .bad) :
    parseHead n f s = dropHead dropL3L4 n f.stamp s := by
  simp [parseHead, hptp, harp, hip]

theorem parseHead_fragment (hip : readIp f.trunc (ethHdr f.bytes).etype (f.bytes.drop (ethHdr f.bytes).off) = .fragment) :
    parseHead n f s = dropHead dropFragment n f.stamp s := by
  simp [parseHead, hptp, harp, hip]

theorem parseHead_notIp (hip : readIp f.trunc (ethHdr f.bytes).etype (f.bytes.drop (ethHdr f.bytes).off) = .notIp) :
    parseHead n f s = unbound n f s := by
  simp [parseHead, hptp, harp, hip]

variable {src dst sport dport : Nat} {p : Bytes}
  (hip : readIp f.trunc (ethHdr f.bytes).etype (f.bytes.drop (ethHdr f.bytes).off) = .udp src dst sport dport p)
include hip

theorem parseHead_unclassified (hclass : s.classify src dport (ethHdr f.bytes).vlan p = none) : parseHead n f s = unbound n f s := by
  simp [parseHead, hptp, harp, hip, hclass]

variable {kind : FrameKind} {bs : List Binding} (hclass : s.classify src dport (ethHdr f.bytes).vlan p = some (kind, bs))
  (hkind : kind ≠ .command)
include hclass hkind

/-- A datagram to another address, or one that no binding wants, feeds no slot. -/
theorem parseHead_unbound (h : ¬((s.portCfg n).unicast.contains dst = true ∨ (s.portCfg n).groups.contains dst = true) ∨ bs = []) :
    parseHead n f s = unbound n f s := by
  have hnot : (!((s.portCfg n).unicast.contains dst || (s.portCfg n).groups.contains dst) || bs.isEmpty) = true := by
    simpa using h
  simp only [parseHead, hptp, harp, hip, hclass, hkind, decide_false, Bool.or_self, Bool.false_eq_true, if_false, Bool.false_and, hnot, if_true]

/-- A datagram to the port's own address that a binding wants becomes the parser's work. -/
theorem parseHead_bound (hown : (s.portCfg n).unicast.contains dst = true ∨ (s.portCfg n).groups.contains dst = true) (hbs : bs ≠ [])
    (hother : kind ≠ .other1344) :
    parseHead n f s = s.setPort n { s.port n with job := some (jobOfFrame n f kind p bs) } := by
  have hyes : (!((s.portCfg n).unicast.contains dst || (s.portCfg n).groups.contains dst) || bs.isEmpty) = false := by
    simpa [hbs, or_iff_not_imp_left] using hown
  simp only [parseHead, hptp, harp, hip, hclass, hkind, hother, decide_false, Bool.or_self, Bool.false_eq_true, if_false, Bool.false_and, hyes,
    jobOfFrame]

end Head

/-! ### The arbiter (R100, R108) -/

/-- The parser starts on the frame at the head of a port's FIFO that it has started on before, or that the arbiter chooses. -/
theorem exec_ingressParse_head {n : Fin 64} {f : RxFrame} {rest : List RxFrame} {s : State} (hrx : (s.port n).rx = f :: rest)
    (hjob : (s.port n).job = none) (hdup : dupHolds f.dup = false) (hstart : f.started = true ∨ ∃ d, s.parsePick = some (n.val, d)) :
    ∃ i, exec (.ingressParse n) s = .next (parseStart n f rest (s.setIng i)) := by
  by_cases hstarted : f.started = true
  · exact ⟨s.ing, congrArg Host.Outcome.next (by simp [hrx, hjob, hdup, hstarted]; rfl)⟩
  · obtain ⟨d, hpick⟩ := hstart.resolve_left hstarted
    exact ⟨{ s.ing with arb := d }, congrArg Host.Outcome.next (by simp [hrx, hstarted, hpick])⟩

/-- What the parser finds as it starts on the head: the port as it was, with the frame marked. -/
theorem parseStart_port {n : Fin 64} {s : State} (hports : s.ports.length = 64) (i : Ingress) (f : RxFrame) (rest : List RxFrame) :
    ∃ u : State, parseStart n f rest (s.setIng i) = parseHead n f u ∧ u.ports.length = 64 ∧ u.img = s.img ∧
      u.rxBytes n = f.bytes :: rest.map (fun x => x.bytes) ∧ (u.port n).host = (s.port n).host := by
  refine ⟨_, rfl, ports_length_setPort (s := s.setIng i) hports .., rfl, ?_, ?_⟩
  · exact (rxBytes_setPort (s := s.setIng i) hports ..).trans rfl
  · exact (congrArg Port.host (port_setPort (s := s.setIng i) hports ..)).trans rfl

theorem portCfg_eq_of {s t : State} (h : t.img = s.img) (n : Nat) : t.portCfg n = s.portCfg n := by unfold State.portCfg; rw [h]

theorem classify_eq_of {s t : State} (h : t.img = s.img) (src dport : Nat) (vlan : Option Nat) (p : Bytes) :
    t.classify src dport vlan p = s.classify src dport vlan p := by
  unfold State.classify State.boundBy State.bindings
  rw [h]

/-! ### The statement -/

/-- Settles O24: the arbiter's choice puts the parser on the head, and each reading of its headers has its one end. -/
theorem parseRows : Obligations.ParseRows := by
  refine ⟨?head, ?arriving, ?other⟩
  case head =>
    intro n f rest s hinv hrx hjob hdup hstart hptp harp ip
    obtain ⟨i, hexec⟩ := exec_ingressParse_head hrx hjob hdup hstart
    obtain ⟨u, hu, hlen, himg, hbytes, hhost⟩ := parseStart_port hinv.ports_length i f rest
    rw [hu] at hexec
    have hcfg : u.portCfg n = s.portCfg n := portCfg_eq_of himg n
    have hunbound (h : parseHead n f u = unbound n f u) : Runs (.ingressParse n) s (unboundDone n f rest s) :=
      ⟨_, hexec, h ▸ unbound_done hlen hbytes hhost hcfg⟩
    refine ⟨fun hip => ⟨_, hexec, ?_⟩, fun hip => ⟨_, hexec, ?_⟩, fun hip => hunbound (parseHead_notIp hptp harp hip),
      fun sa da sp dp p hip => ⟨fun hnone => ?_, fun kind bs hsome hkind => ⟨fun hnot => ?_, fun hown hbs hother => ⟨_, hexec, ?_⟩⟩⟩⟩
    · rw [parseHead_bad hptp harp hip]
      exact dropHead_reason (by decide) ..
    · rw [parseHead_fragment hptp harp hip]
      exact dropHead_reason (by decide) ..
    · exact hunbound (parseHead_unclassified hptp harp hip ((classify_eq_of himg ..).trans hnone))
    · exact hunbound (parseHead_unbound hptp harp hip ((classify_eq_of himg ..).trans hsome) hkind (by rw [hcfg]; exact hnot))
    · rw [parseHead_bound hptp harp hip ((classify_eq_of himg ..).trans hsome) hkind (by rw [hcfg]; exact hown) hbs hother]
      exact congrArg Port.job (port_setPort hlen ..)
  case arriving =>
    intro n c d s hinv hrx hcur hpick
    have hexec : exec (.ingressParse n) s = .next ((s.setIng { s.ing with arb := d }).setPort n
        { s.port n with cur := some { c with started := true }, curPtr := rxWr (s.port n) }) :=
      congrArg Host.Outcome.next (by simp [hrx, hcur, hpick])
    have hport := port_setPort (s := s.setIng { s.ing with arb := d }) hinv.ports_length n
      { s.port n with cur := some { c with started := true }, curPtr := rxWr (s.port n) }
    exact ⟨_, hexec, congrArg Port.cur hport, congrArg Port.curPtr hport, rfl, rfl⟩
  case other =>
    intro n s hhead hpick
    have hnot (m : Nat) (d : Drr) (h : s.parsePick = some (m, d)) : m ≠ n := fun hmn => hpick d (hmn ▸ h)
    refine congrArg Host.Outcome.next ?_
    cases hrx : (s.port n).rx with
    | nil =>
      simp only [hrx]
      cases (s.port n).cur with
      | none => rfl
      | some c =>
        cases harb : s.parsePick with
        | none => rfl
        | some x => exact if_neg (hnot _ _ harb)
    | cons f rest =>
      simp only [hrx, hhead f rest hrx, Bool.false_and, Bool.false_eq_true, if_false]
      cases harb : s.parsePick with
      | none => rfl
      | some x => exact if_neg (hnot _ _ harb)

end Sys2Proof.Machine
end

section
/-!
PROOFS. Scope: the frames of the steward core in their queues, and the address protocols (R128, R274, R322, R324, R330).
-/

namespace Sys2Proof.Machine

/-! ### Egress queues (R330, R514) -/

theorem egrQ_eq_of {s t : State} (h : t.egr = s.egr) (n k : Nat) : t.egrQ n k = s.egrQ n k := by
  unfold State.egrQ State.egrPort
  rw [h]

theorem egrQ_setEgrQ_ne (s : State) {m n : Nat} (h : n ≠ m) (j k : Nat) (q : List EgrFrame) : (s.setEgrQ m j q).egrQ n k = s.egrQ n k := by
  unfold State.setEgrQ State.setEgrPort State.egrQ State.egrPort
  rw [State.setEgr_self, smGet_smSet_ne _ _ _ _ h]

/-- An offer to one port's queue leaves every other port's queues as they are. -/
theorem egrOffer_other {m n : Nat} (h : n ≠ m) (j k : Nat) (e : EgrFrame) (s : State) : (egrOffer m j e s).egrQ n k = s.egrQ n k := by
  unfold egrOffer
  split
  · obtain ⟨p, hp⟩ := ev_eq_setPmc 0x365 1 s
    rw [hp]
    rfl
  · exact egrQ_setEgrQ_ne s h ..

/-- A refused offer writes egress registers only. -/
theorem egrOffer_regs (m j : Nat) (e : EgrFrame) (s : State) : RegsOut [0x0B] s (egrOffer m j e s) := by
  unfold egrOffer
  split
  · exact regsOut_flag _ (regsOut_inc _ (regsOut_ev _ _ (regsOut_refl _ s)) (by decide)) (by decide)
  · exact regsOut_regs (regsOut_refl _ s) rfl

/-- EGR_BP depends on the test registers and on its own phase. -/
theorem egrBp_eq_of {s t : State} (htst : t.tst = s.tst) (hrd : ∀ f : Fld, f.block = 0x12 → t.rd f = s.rd f) (n k : Nat) :
    t.egrBp n k = s.egrBp n k := by
  unfold State.egrBp State.action
  rw [htst, on_eq_of_rd (hrd fTST_CTL_EN (by decide)), hrd fTST_CTL_ACT_EN (by decide), hrd fTST_EBP_CFG_PORT (by decide),
    hrd fTST_EBP_CFG_QMASK (by decide)]

theorem qdepth_eq_of {s t : State} (h : t.img = s.img) : t.qdepth = s.qdepth := by unfold State.qdepth; rw [h]

theorem ownAddr_eq_of {s t : State} (h : t.img = s.img) (n a : Nat) : t.ownAddr n a = s.ownAddr n a := by
  unfold State.ownAddr
  rw [portCfg_eq_of h]

/-! ### Frames of the steward core (R330) -/

theorem stewFrame_img (n : Nat) (b : Bytes) (s : State) : (stewFrame n b s).img = s.img :=
  (stewFrame_kept n b (Kept.refl _ s) (Nat.and_self _)).2.2.same .img (by decide)

theorem stewFrame_egrBp (m : Nat) (b : Bytes) (s : State) (n k : Nat) : (stewFrame m b s).egrBp n k = s.egrBp n k :=
  egrBp_eq_of ((stewFrame_kept m b (Kept.refl _ s) (Nat.and_self _)).2.2.same .tst (by decide))
    (fun f hf => egrOffer_regs m qSteward _ s f (by rw [hf]; decide)) n k

/-- The steward core queues these frames, each for its port, in order. -/
def stewAll (l : List (Nat × Bytes)) (s : State) : State := l.foldl (fun s x => stewFrame x.1 x.2 s) s

theorem stewAll_append (l m : List (Nat × Bytes)) (s : State) : stewAll (l ++ m) s = stewAll m (stewAll l s) := List.foldl_append

theorem stewAll_kept (l : List (Nat × Bytes)) (s : State) : Kept 34603009 s (stewAll l s) :=
  kept_foldl (Kept.refl _ s) fun _ x h => stewFrame_kept x.1 x.2 h (Nat.and_self _)

theorem stewAll_img (l : List (Nat × Bytes)) (s : State) : (stewAll l s).img = s.img := (stewAll_kept l s).2.2.same .img (by decide)

/-- Frames that depend on the image only are the same at each step of their queueing. -/
theorem foldl_stewFrame {α : Type} (frame : State → α → Nat × Bytes) (hframe : ∀ s t : State, t.img = s.img → ∀ x, frame t x = frame s x)
    (l : List α) (s : State) : l.foldl (fun s x => stewFrame (frame s x).1 (frame s x).2 s) s = stewAll (l.map (frame s)) s := by
  induction l generalizing s with
  | nil => rfl
  | cons x xs ih =>
    rw [List.foldl_cons, ih, List.map_cons, funext (hframe s _ (stewFrame_img ..))]
    rfl

/-- A port's STEWARD queue takes its own frames, in order, where it has room for them all. -/
theorem stewAll_queue {n : Nat} (l : List (Nat × Bytes)) {s : State} (hbp : s.egrBp n qSteward = false)
    (hroom : (s.egrQ n qSteward).length + (l.filter fun x => x.1 = n).length ≤ s.qdepth) :
    ((stewAll l s).egrQ n qSteward).map (fun e => e.frame.bytes) =
      (s.egrQ n qSteward).map (fun e => e.frame.bytes) ++ (l.filter fun x => x.1 = n).map fun x => x.2 := by
  induction l generalizing s with
  | nil => simp [stewAll]
  | cons x xs ih =>
    have hbp' : (stewFrame x.1 x.2 s).egrBp n qSteward = false := (stewFrame_egrBp ..).trans hbp
    have hdepth : (stewFrame x.1 x.2 s).qdepth = s.qdepth := qdepth_eq_of (stewFrame_img ..)
    change ((stewAll xs (stewFrame x.1 x.2 s)).egrQ n qSteward).map _ = _
    by_cases hx : x.1 = n
    · rw [List.filter_cons_of_pos (by simpa using hx), List.length_cons] at hroom
      have hfull : s.egrFull n qSteward = false := by
        unfold State.egrFull
        rw [hbp, Bool.or_false, decide_eq_false]
        omega
      have hq : (stewFrame x.1 x.2 s).egrQ n qSteward =
          s.egrQ n qSteward ++ [{ frame := { bytes := x.2, sender := .steward, queued := s.up } }] := by
        rw [hx]
        exact egrOffer_queued hfull _
      rw [ih hbp' (by rw [hq, hdepth, List.length_append, List.length_singleton]; omega), hq,
        List.filter_cons_of_pos (by simpa using hx), List.map_append, List.append_assoc]
      rfl
    · rw [List.filter_cons_of_neg (by simpa using hx)] at hroom ⊢
      have hq : (stewFrame x.1 x.2 s).egrQ n qSteward = s.egrQ n qSteward := egrOffer_other (Ne.symm hx) ..
      rw [ih hbp' (by rw [hq, hdepth]; exact hroom), hq]

/-! ### Membership reports (R128) -/

/-- The reports of a port, as the image's addresses make them. -/
def reportsOf (s : State) (x : PortCfg × Nat) : List (Nat × Bytes) :=
  x.1.groups.map fun g => (x.2, reportFrame (portMac x.2) (s.ownAddr x.2 g) g)

theorem reportPort_eq (x : PortCfg × Nat) (s : State) : reportPort s x = stewAll (reportsOf s x) s :=
  foldl_stewFrame (fun s g => (x.2, reportFrame (portMac x.2) (s.ownAddr x.2 g) g)) (fun s t h g => by rw [ownAddr_eq_of h]) _ s

theorem reportsOf_eq_of {s t : State} (h : t.img = s.img) : reportsOf t = reportsOf s := by
  funext x
  unfold reportsOf
  simp only [ownAddr_eq_of h]

theorem foldl_reportPort (l : List (PortCfg × Nat)) (s : State) : l.foldl reportPort s = stewAll (l.flatMap (reportsOf s)) s := by
  induction l generalizing s with
  | nil => rfl
  | cons x xs ih => rw [List.foldl_cons, ih, reportPort_eq, reportsOf_eq_of (stewAll_img ..), List.flatMap_cons, stewAll_append]

theorem filter_reportsOf_self (s : State) (x : PortCfg × Nat) : (reportsOf s x).filter (fun y => y.1 = x.2) = reportsOf s x := by
  refine List.filter_eq_self.2 fun y hy => ?_
  obtain ⟨g, -, rfl⟩ := List.mem_map.1 hy
  exact decide_eq_true rfl

theorem filter_reportsOf_ne (s : State) {x : PortCfg × Nat} {n : Nat} (h : x.2 ≠ n) : (reportsOf s x).filter (fun y => y.1 = n) = [] := by
  refine List.filter_eq_nil_iff.2 fun y hy => ?_
  obtain ⟨g, -, rfl⟩ := List.mem_map.1 hy
  simpa using h

/-- Of the reports of the ports from number `k` on, those of port n are its own. -/
theorem filter_reports (s : State) (l : List PortCfg) (k n : Nat) :
    ((l.zipIdx k).flatMap (reportsOf s)).filter (fun y => y.1 = n) =
      if k ≤ n ∧ n < k + l.length then reportsOf s (l.getD (n - k) {}, n) else [] := by
  induction l generalizing k with
  | nil => simp
  | cons c cs ih =>
    rw [List.zipIdx_cons, List.flatMap_cons, List.filter_append, ih]
    by_cases hk : k = n
    · subst hk
      rw [filter_reportsOf_self s (c, k), if_neg (by omega), if_pos (by simp), List.append_nil, Nat.sub_self]
      rfl
    · rw [filter_reportsOf_ne s hk, List.nil_append, List.length_cons]
      by_cases hn : k ≤ n ∧ n < k + (cs.length + 1)
      · rw [if_pos (by omega), if_pos hn, show n - k = (n - (k + 1)) + 1 by omega]
        rfl
      · rw [if_neg (by omega), if_neg hn]

/-- Frames queued that hold port n's reports, and no other frame for it, are its reports sent. -/
theorem reportsSent_of {n : Nat} {s u : State} {l : List (Nat × Bytes)} (hu : u.egr = s.egr ∧ u.img = s.img ∧ u.tst = s.tst ∧ u.regs = s.regs)
    (hl : l.filter (fun x => x.1 = n) = reportsOf s (s.portCfg n, n)) : reportsSent n s (stewAll l u) := by
  obtain ⟨hegr, himg, htst, hregs⟩ := hu
  intro hbp hroom
  have hbp' : u.egrBp n qSteward = false := by
    rw [egrBp_eq_of htst fun f _ => by rw [State.rd, hregs, State.rd]]
    exact hbp
  have hmine := stewAll_queue l hbp' (by rw [egrQ_eq_of hegr, qdepth_eq_of himg, hl, reportsOf, List.length_map]; exact hroom)
  rw [hmine, egrQ_eq_of hegr, hl, reportsOf, List.map_map]
  rfl

/-! ### Address resolution (R274, R324) -/

/-- The unicast destinations without a static address, with their ports, and the requests for them. -/
def unresolvedDests (i : Image) : List (Nat × Nat) :=
  (i.alm.dests.filterMap fun d => if d.mac.isNone && !isMulticast d.addr then some (d.port, d.addr) else none) ++
    (i.outs.map fun o => o.dests).flatten.filterMap fun d => if d.mac.isNone && !isMulticast d.addr then some (d.portA, d.addr) else none

def resolveFrameOf (s : State) (x : Nat × Nat) : Nat × Bytes := (x.1, resolveFrame (portMac x.1) (s.ownAddr x.1 x.2) x.2)

theorem exec_macResolve {i : Image} {s : State} (himg : s.img = some i) (hdue : s.up ≥ s.alm.resolveAt) :
    exec .macResolve s = .next (stewAll ((unresolvedDests i).map (resolveFrameOf s)) (s.setAlm { s.alm with resolveAt := s.up + 60000000000 })) := by
  have hfold := foldl_stewFrame resolveFrameOf (fun s t h x => by rw [resolveFrameOf, ownAddr_eq_of h]; rfl) (unresolvedDests i)
    (s.setAlm { s.alm with resolveAt := s.up + 60000000000 })
  refine congrArg Host.Outcome.next ?_
  rw [if_neg (Nat.not_lt.2 hdue), himg]
  exact hfold

theorem unresolvedDests_length (i : Image) :
    (unresolvedDests i).length ≤ i.alm.dests.length + (i.outs.map fun o => o.dests.length).sum := by
  have hflat : (i.outs.map fun o => o.dests).flatten.length = (i.outs.map fun o => o.dests.length).sum := by
    rw [List.length_flatten, List.map_map]
    rfl
  rw [unresolvedDests, List.length_append, ← hflat]
  exact Nat.add_le_add (List.length_filterMap_le ..) (List.length_filterMap_le ..)

/-- A request that is among those queued stands in its port's queue where that has room for all of them. -/
theorem stewAll_mem {n : Nat} {b : Bytes} {l : List (Nat × Bytes)} {s : State} (hmem : (n, b) ∈ l) (hbp : s.egrBp n qSteward = false)
    (hroom : (s.egrQ n qSteward).length + l.length ≤ s.qdepth) : ∃ e ∈ (stewAll l s).egrQ n qSteward, e.frame.bytes = b := by
  have hfew : (l.filter fun x => x.1 = n).length ≤ l.length := List.length_filter_le ..
  have hqueue := stewAll_queue l hbp (by omega)
  have hin : b ∈ ((stewAll l s).egrQ n qSteward).map fun e => e.frame.bytes := by
    rw [hqueue, List.mem_append]
    exact .inr (List.mem_map.2 ⟨(n, b), List.mem_filter.2 ⟨hmem, decide_eq_true rfl⟩, rfl⟩)
  exact List.mem_map.1 hin

theorem mem_unresolvedDests_alm {i : Image} {d} (hd : d ∈ i.alm.dests) (hmac : d.mac = none) (hcast : isMulticast d.addr = false) :
    (d.port, d.addr) ∈ unresolvedDests i :=
  List.mem_append_left _ (List.mem_filterMap.2 ⟨d, hd, by simp [hmac, hcast]⟩)

theorem mem_unresolvedDests_outs {i : Image} {o d} (ho : o ∈ i.outs) (hd : d ∈ o.dests) (hmac : d.mac = none)
    (hcast : isMulticast d.addr = false) : (d.portA, d.addr) ∈ unresolvedDests i :=
  List.mem_append_right _ (List.mem_filterMap.2 ⟨d, List.mem_flatten.2 ⟨o.dests, List.mem_map.2 ⟨o, ho, rfl⟩, hd⟩, by simp [hmac, hcast]⟩)

/-! ### Keys that may be absent -/

theorem smInsert_map {α β : Type} (g : α → β) (m : SMap α) (i : Nat) (v : α) :
    (smInsert m i v).map (fun e => (e.1, g e.2)) = smInsert (m.map fun e => (e.1, g e.2)) i (g v) := by
  induction m with
  | nil => rfl
  | cons e m ih =>
    obtain ⟨k, w⟩ := e
    unfold smInsert
    rw [List.map_cons]
    dsimp only
    split
    · rfl
    · split
      · rfl
      · rw [List.map_cons, ih]

theorem smFind?_smInsert_self {α : Type} (m : SMap α) (i : Nat) (v : α) : smFind? (smInsert m i v) i = some v := by
  rw [smFind?, smInsert_map, smGet_smInsert_self]

theorem smFind?_smInsert_ne {α : Type} (m : SMap α) {i j : Nat} (v : α) (h : j ≠ i) : smFind? (smInsert m i v) j = smFind? m j := by
  rw [smFind?, smInsert_map, smGet_smInsert_ne _ _ _ h, smFind?]

/-- A value put at several keys is found at each of them. -/
theorem smFind?_foldl_smInsert {α : Type} (v : α) {i : Nat} (l : List Nat) (m : SMap α) (h : i ∈ l ∨ smFind? m i = some v) :
    smFind? (l.foldl (fun m d => smInsert m d v) m) i = some v := by
  induction l generalizing m with
  | nil => exact h.resolve_left (List.not_mem_nil)
  | cons d ds ih =>
    refine ih _ ?_
    by_cases hd : i = d
    · exact .inr (hd ▸ smFind?_smInsert_self ..)
    · rcases h with h | h
      · exact .inl ((List.mem_cons.1 h).resolve_left hd)
      · exact .inr ((smFind?_smInsert_ne _ _ hd).trans h)

end Sys2Proof.Machine
end

section
/-!
PROOFS. Scope: commit, activation, TCP and the address protocols (R108, R111, R128 to R130, R137, R175, R274, R407).
-/

namespace Sys2Proof.Machine

/-! ### Commit (R108, R111, R137) -/

theorem commitRecord_arrivals (s : State) (r : SlotRecord) : (commitRecord s r).ing.arrivals = s.ing.arrivals ++ [r] := by
  obtain ⟨p, hp⟩ := ev_eq_setPmc 0x345 1 s
  unfold commitRecord
  dsimp only
  split <;> rw [hp] <;> rfl

theorem commitRecord_holdMs (s : State) (r : SlotRecord) : (commitRecord s r).rd fING_DUP_CFG_HOLD_MS = s.rd fING_DUP_CFG_HOLD_MS := by
  have hcount : ((s.ev 0x345).inc fING_RX_CNT_RECORDS).rd fING_DUP_CFG_HOLD_MS = s.rd fING_DUP_CFG_HOLD_MS :=
    (State.rd_wr_ne _ (by decide) _).trans (ev_rd ..)
  unfold commitRecord
  dsimp only
  split
  · exact (rd_flag (by decide) _ 7).trans hcount
  · exact hcount

theorem foldl_commitRecord_arrivals (rs : List SlotRecord) (s : State) : (rs.foldl commitRecord s).ing.arrivals = s.ing.arrivals ++ rs := by
  induction rs generalizing s with
  | nil => exact (List.append_nil _).symm
  | cons r rs ih => rw [List.foldl_cons, ih, commitRecord_arrivals, List.append_assoc, List.singleton_append]

theorem foldl_commitRecord_holdMs (rs : List SlotRecord) (s : State) :
    (rs.foldl commitRecord s).rd fING_DUP_CFG_HOLD_MS = s.rd fING_DUP_CFG_HOLD_MS := by
  induction rs generalizing s with
  | nil => rfl
  | cons r rs ih => rw [List.foldl_cons, ih, commitRecord_holdMs]

theorem foldl_commitRecord_kept (rs : List SlotRecord) (s : State) : Kept 33554497 s (rs.foldl commitRecord s) :=
  kept_foldl (Kept.refl _ s) fun _ r h => commitRecord_kept r h (Nat.and_self _)

theorem endJob_arrivals (src : IngSrc) (s : State) : (endJob src s).ing.arrivals = s.ing.arrivals := by
  cases src with
  | port n => exact congrArg Ingress.arrivals ((finishFrame_kept n (Kept.refl _ s) (Nat.and_self _)).2.2.same .ing (by decide))
  | tcp c stamp bytes => rfl

/-- The duplicate entry of a frame that is done with becomes final for HOLD_MS. -/
theorem finishFrame_final {n : Nat} {f : RxFrame} {rest : List RxFrame} {k id : Nat} {s : State} (hrx : (s.port n).rx = f :: rest)
    (howner : f.dup = .owner k id) :
    ∀ e ∈ (finishFrame n s).dup, e.id = id → e.final = some (s.up, s.up + s.rd fING_DUP_CFG_HOLD_MS * 1000000) := by
  have hfinish : finishFrame n s = rxRelease n (dupFinal f.dup s) := by rw [finishFrame, hrx]
  have hdup : (finishFrame n s).dup = (dupFinal (.owner k id) s).dup := by
    rw [hfinish, howner]
    exact (rxRelease_kept n (Kept.refl _ _) (Nat.and_self _)).2.2.same .dup (by decide)
  rw [hdup]
  intro e he hid
  obtain ⟨x, -, rfl⟩ := List.mem_map.1 he
  by_cases hx : x.id = id
  · rw [if_pos hx]
  · rw [if_neg hx] at hid
    exact absurd hid hx

/-! ### A stream's configuration (R136, R137, R175) -/

theorem stream_eq_of {s t : State} (hstreams : t.ing.streams = s.ing.streams) (himg : t.img = s.img) (k : Nat) : t.stream k = s.stream k := by
  unfold State.stream
  rw [hstreams, himg]

theorem stream_setStream_self (s : State) (k : Nat) (st : StreamSt) : (s.setStream k st).stream k = st := by
  unfold State.setStream State.stream
  rw [State.setIng_self, smFind?_smInsert_self]

theorem jobStream_eq_of {s t : State} (h : t.img = s.img) (j : ParseJob) : t.jobStream j = s.jobStream j := by
  unfold State.jobStream State.bindings
  rw [h]

/-- The slot's history is flushed and its next record carries CFG_NEW (R137, R175). -/
def adopted (slot : Nat) (s : State) : Prop := s.hist slot = { fresh := true } ∧ (s.ingSlot slot).cfgNew = true

theorem adopted_eq_of {s t : State} (hhist : t.pgh.hist = s.pgh.hist) (hslots : t.ing.slots = s.ing.slots) {slot : Nat} (h : adopted slot s) :
    adopted slot t := by
  unfold adopted State.hist State.ingSlot at *
  rwa [hhist, hslots]

theorem slotAdopt_parts (b : Binding) (s : State) :
    (slotAdopt b s).ing = (s.setIngSlot b.slot { s.ingSlot b.slot with cfgNew := true }).ing ∧
      (slotAdopt b s).pgh = (s.setHist b.slot { fresh := true }).pgh := by
  unfold slotAdopt
  dsimp only
  split
  · have hpost {s : State} (payload : Bytes) := (post_kept 0x32 payload (Kept.refl _ s) (Nat.and_self _)).2.2
    exact ⟨(hpost _).same .ing (by decide), (hpost _).same .pgh (by decide)⟩
  · exact ⟨rfl, rfl⟩

theorem slotAdopt_adopted (b : Binding) (s : State) {slot : Nat} (h : slot = b.slot ∨ adopted slot s) : adopted slot (slotAdopt b s) := by
  obtain ⟨hing, hpgh⟩ := slotAdopt_parts b s
  unfold adopted State.hist State.ingSlot at *
  rw [hing, hpgh]
  simp only [State.setIngSlot, State.setHist, State.setIng_self, State.setPgh]
  by_cases hslot : slot = b.slot
  · rw [hslot, smGet_smSet_self, smGet_smSet_self]
    exact ⟨rfl, rfl⟩
  · rw [smGet_smSet_ne _ _ _ _ hslot, smGet_smSet_ne _ _ _ _ hslot]
    exact h.resolve_left hslot

theorem foldl_slotAdopt_adopted (bs : List Binding) (s : State) {slot : Nat} (h : (∃ b ∈ bs, slot = b.slot) ∨ adopted slot s) :
    adopted slot (bs.foldl (fun s b => slotAdopt b s) s) := by
  induction bs generalizing s with
  | nil => exact h.resolve_left (by simp)
  | cons b bs ih =>
    refine ih _ ?_
    rcases h with ⟨b', hb', rfl⟩ | h
    · rcases List.mem_cons.1 hb' with rfl | hb'
      · exact .inr (slotAdopt_adopted _ s (.inl rfl))
      · exact .inl ⟨b', hb', rfl⟩
    · exact .inr (slotAdopt_adopted b s (.inr h))

theorem foldl_slotAdopt_parts (bs : List Binding) (s : State) :
    (bs.foldl (fun s b => slotAdopt b s) s).ing.streams = s.ing.streams ∧ (bs.foldl (fun s b => slotAdopt b s) s).img = s.img ∧
      (bs.foldl (fun s b => slotAdopt b s) s).ports = s.ports := by
  have hkept : Kept 1107313089 s (bs.foldl (fun s b => slotAdopt b s) s) :=
    kept_foldl (Kept.refl _ s) fun _ b h => slotAdopt_kept b h (Nat.and_self _)
  refine ⟨?_, hkept.2.2.same .img (by decide), hkept.2.2.same .ports (by decide)⟩
  clear hkept
  induction bs generalizing s with
  | nil => rfl
  | cons b bs ih => rw [List.foldl_cons, ih, (slotAdopt_parts b s).1]; rfl

theorem port_mapJobs (f : ParseJob → ParseJob) (s : State) (n : Nat) : ((mapJobs f s).port n).job = (s.port n).job.map f := by
  exact congrArg Port.job (List.getD_map (n := n) s.ports {} fun p : Port => { p with job := p.job.map f })

/-- The stream's frames that were read are to be read again. -/
theorem unread_job {n k : Nat} {j : ParseJob} {s : State} (hjob : (s.port n).job = some j) (hstream : s.jobStream j = k) :
    ((unread k s).port n).job = some { j with recs := none } := by
  rw [unread, port_mapJobs, hjob, Option.map_some, if_pos hstream]

/-- A stream that comes on a connection whose configuration was asked for: its data is turned on. -/
def connectionOn (bs : List Binding) (s : State) : State :=
  match bs.head?.bind fun b => b.tcp with
  | some k => if s.tcpState k = 2 then (tcpCommand k 2 s).setTcp k 3 else s
  | none => s

theorem connectionOn_parts (bs : List Binding) (s : State) :
    (connectionOn bs s).ing.streams = s.ing.streams ∧ (connectionOn bs s).ing.slots = s.ing.slots ∧ (connectionOn bs s).pgh = s.pgh ∧
      (connectionOn bs s).img = s.img ∧ (connectionOn bs s).ports = s.ports := by
  unfold connectionOn
  split
  · split <;> exact ⟨rfl, rfl, rfl, rfl, rfl⟩
  · exact ⟨rfl, rfl, rfl, rfl, rfl⟩

/-- The stream with its waiting configuration active. -/
def activeStream (st : StreamSt) (c : StreamCfg) : StreamSt := { st with cfg := some c, gen := (st.gen + 1) % 65536, state := 2, waiting := none }

/-- The bindings of a stream. -/
def State.streamBindings (s : State) (k : Nat) : List Binding := s.bindings.filter fun b => b.stream = k

/-- What CFG_ACTIVATE does before it posts. -/
def streamActivated (k : Nat) (c : StreamCfg) (s : State) : State :=
  connectionOn (s.streamBindings k)
    (unread k ((s.streamBindings k).foldl (fun s b => slotAdopt b s) (s.setStream k (activeStream (s.stream k) c))))

theorem exec_cfgActivate {k : Nat} {c : StreamCfg} {s : State} (hwaiting : (s.stream k).waiting = some c) :
    ∃ payload, exec (.cfgActivate k) s = .next (post 0x21 payload (streamActivated k c s)) := by
  refine ⟨le 2 (((streamActivated k c s).streamSlots k).headD 0) ++ le 2 (((s.stream k).gen + 1) % 65536), congrArg Host.Outcome.next ?_⟩
  rw [hwaiting]
  rfl

theorem streamActivated_effect (k : Nat) (c : StreamCfg) (s : State) :
    (streamActivated k c s).stream k = activeStream (s.stream k) c ∧
      (∀ b ∈ s.bindings, b.stream = k → adopted b.slot (streamActivated k c s)) ∧
      ∀ n j, (s.port n).job = some j → s.jobStream j = k → ((streamActivated k c s).port n).job = some { j with recs := none } := by
  unfold streamActivated
  set s₁ := s.setStream k (activeStream (s.stream k) c) with hs₁
  set s₂ := (s.streamBindings k).foldl (fun s b => slotAdopt b s) s₁ with hs₂
  obtain ⟨hstreams, hslots, hpgh, himg, hports⟩ := connectionOn_parts (s.streamBindings k) (unread k s₂)
  obtain ⟨hstreams₂, himg₂, hports₂⟩ := foldl_slotAdopt_parts (s.streamBindings k) s₁
  refine ⟨?_, fun b hb hk => ?_, fun n j hjob hstream => ?_⟩
  · rw [stream_eq_of hstreams himg]
    exact (stream_eq_of (t := unread k s₂) hstreams₂ himg₂ k).trans (stream_setStream_self ..)
  · have hin : b ∈ s.streamBindings k := List.mem_filter.2 ⟨hb, decide_eq_true hk⟩
    have h₂ : adopted b.slot s₂ := foldl_slotAdopt_adopted _ s₁ (.inl ⟨b, hin, rfl⟩)
    exact adopted_eq_of (congrArg Pgh.hist hpgh) hslots (adopted_eq_of (t := unread k s₂) rfl rfl h₂)
  · rw [port_eq_of hports]
    exact unread_job ((congrArg Port.job (port_eq_of hports₂ n)).trans hjob) ((jobStream_eq_of himg₂ j).trans hstream)

/-! ### TCP connections (R129) -/

theorem tcpState_setTcp_self (s : State) (c v : Nat) : (s.setTcp c v).tcpState c = v := by
  unfold State.setTcp State.tcpState
  exact smGet_smSet_self ..

theorem tcpClosed_effect (c v wait : Nat) (s : State) :
    (tcpClosed c v wait s).tcpState c = v ∧ smGet 0 (tcpClosed c v wait s).ing.tcpDue c = s.up + wait * 1000000000 ∧
      (tcpClosed c v wait s).bit fING_FLT_FLAGS 4 = true := by
  unfold tcpClosed
  dsimp only
  refine ⟨?_, ?_, ?_⟩
  · rw [State.tcpState, State.setIng_self, State.flag_ing]
    exact tcpState_setTcp_self s c v
  · rw [State.setIng_self, smGet_smSet_self, State.flag_up, State.setTcp, State.wr_up, State.setIng_up]
  · rw [State.bit, State.setIng_rd, ← State.bit, bit_flag (by decide), decide_eq_true rfl, Bool.or_true]

/-! ### Address protocols (R128, R274, R322, R324) -/

theorem stewFrame_sent {n : Nat} {s : State} (h : s.egrFull n qSteward = false) (b : Bytes) : stewSent n b s (stewFrame n b s) :=
  ⟨_, egrOffer_queued h _, rfl, rfl⟩

theorem reportDue_stewAll (l : List (Nat × Bytes)) (s : State) : (stewAll l s).ing.reportDue = s.ing.reportDue :=
  congrArg Ingress.reportDue ((stewAll_kept l s).2.2.same .ing (by decide))

theorem exec_membershipReport_all {i : Image} {s : State} (himg : s.img = some i) (hdue : s.up ≥ s.ing.reportDue) :
    exec (.membershipReport none) s =
      .next (stewAll (i.ports.zipIdx.flatMap (reportsOf s)) (s.setIng { s.ing with reportDue := s.up + 60000000000 })) := by
  have hreports : reportsOf (s.setIng { s.ing with reportDue := s.up + 60000000000 }) = reportsOf s := reportsOf_eq_of rfl
  refine congrArg Host.Outcome.next ?_
  rw [himg]
  dsimp only
  rw [if_neg (Nat.not_lt.2 hdue), foldl_reportPort, hreports]

/-- Every port with groups has its reports queued once. -/
theorem reportsSent_all {i : Image} {n : Nat} {s : State} (himg : s.img = some i) (hn : n < i.ports.length) :
    reportsSent n s (stewAll (i.ports.zipIdx.flatMap (reportsOf s)) (s.setIng { s.ing with reportDue := s.up + 60000000000 })) := by
  refine reportsSent_of ⟨rfl, rfl, rfl, rfl⟩ ?_
  rw [filter_reports, if_pos ⟨Nat.zero_le _, by omega⟩, State.portCfg, himg]
  rfl

/-- A destination without an address is asked for where its port's queue has room for every request. -/
theorem resolve_asked {i : Image} {n a : Nat} {s : State} (hmem : (n, a) ∈ unresolvedDests i) (next : Nat) (hbp : s.egrBp n qSteward = false)
    (hroom : (s.egrQ n qSteward).length + i.alm.dests.length + (i.outs.map fun o => o.dests.length).sum ≤ s.qdepth) :
    ∃ e ∈ (stewAll ((unresolvedDests i).map (resolveFrameOf s)) (s.setAlm { s.alm with resolveAt := next })).egrQ n qSteward,
      e.frame.bytes = resolveFrame (portMac n) (s.ownAddr n a) a := by
  have hfew := unresolvedDests_length i
  have hall : (s.egrQ n qSteward).length + ((unresolvedDests i).map (resolveFrameOf s)).length ≤ s.qdepth := by
    rw [List.length_map]
    omega
  exact stewAll_mem (s := s.setAlm { s.alm with resolveAt := next }) (List.mem_map_of_mem hmem) hbp hall

/-- The destinations whose address an ARP reply tells. -/
def knownDests (i : Image) (addr : Nat) : List Nat := (i.alm.dests.zipIdx.filter fun x => x.1.addr = addr).map fun x => x.2

/-- The Alarum's destinations have learned a link address. -/
def almTold (known : List Nat) (mac : Nat) (s : State) : State :=
  s.setAlm { s.alm with macs := known.foldl (fun m d => smInsert m d mac) s.alm.macs,
                        unresolved := s.alm.unresolved.filter fun d => !known.contains d }

theorem exec_arpReply {i : Image} {s : State} (himg : s.img = some i) (addr mac : Nat) :
    exec (.arpReply addr mac) s =
      .next (if i.outs.any fun o => o.dests.any fun d => d.addr = addr then
          (almTold (knownDests i addr) mac s).setEgr { s.egr with macs := smInsert s.egr.macs addr mac }
        else almTold (knownDests i addr) mac s) := by
  refine congrArg Host.Outcome.next ?_
  simp only [State.setAlm_img, himg]
  rfl

theorem almTold_known {known : List Nat} {d : Nat} (hd : d ∈ known) (mac : Nat) (s : State) :
    smFind? (almTold known mac s).alm.macs d = some mac ∧ d ∉ (almTold known mac s).alm.unresolved :=
  ⟨smFind?_foldl_smInsert mac known _ (.inl hd), fun h => by simpa [hd] using (List.mem_filter.1 h).2⟩

/-! ### The rows -/

/-- Settles O27: each command's resulting state, part by part, from the lemma on that part. -/
theorem ingressRows : Obligations.IngressRows := by
  refine ⟨?commit, ?activate, ?connect, ?retry, ?down, ?report, ?request, ?resolve, ?reply⟩
  case commit =>
    intro src j rs s hjob hrecs
    set u := rs.foldl commitRecord s with hu
    have hexec : exec (.ingressCommit src) s = .next (traceCommit rs (endJob src u)) :=
      congrArg Host.Outcome.next (by rw [hjob]; simp only [hrecs, hu])
    have htrace := (traceCommit_kept rs (Kept.refl _ (endJob src u)) (Nat.and_self _)).2.2
    have hfold := (foldl_commitRecord_kept rs s).2.2
    refine ⟨_, hexec, ?_, fun n f rest k id hinv hsrc hrx howner => ?_⟩
    · rw [htrace.same .ing (by decide), endJob_arrivals, hu, foldl_commitRecord_arrivals]
    · subst hsrc
      have hports : u.ports = s.ports := hfold.same .ports (by decide)
      have hup : u.up = s.up := hfold.same .up (by decide)
      have hrx' : (u.port n).rx = f :: rest := by rw [port_eq_of hports, hrx]
      refine ⟨?_, ?_⟩
      · change State.rxBytes _ n = _
        rw [rxBytes_eq_of (htrace.same .ports (by decide)), endJob, finishFrame_rxBytes n (hports ▸ hinv.ports_length), State.rxBytes, hrx']
        rfl
      · have hfinal := finishFrame_final hrx' howner
        rw [hup, hu, foldl_commitRecord_holdMs, ← hu] at hfinal
        rw [htrace.same .dup (by decide)]
        exact hfinal
  case activate =>
    intro k c s hwaiting
    obtain ⟨payload, hexec⟩ := exec_cfgActivate hwaiting
    have hpost := (post_kept 0x21 payload (Kept.refl _ (streamActivated k c s)) (Nat.and_self _)).2.2
    have hing := hpost.same .ing (by decide)
    obtain ⟨hstream, hslots, hjobs⟩ := streamActivated_effect k c s
    refine ⟨_, hexec, ?_, fun b hb hk => ?_, fun n j hjob hj => ?_⟩
    · exact (stream_eq_of (congrArg Ingress.streams hing) (hpost.same .img (by decide)) k).trans hstream
    · exact adopted_eq_of (congrArg Pgh.hist (hpost.same .pgh (by decide))) (congrArg Ingress.slots hing) (hslots b hb hk)
    · rw [port_eq_of (hpost.same .ports (by decide))]
      exact hjobs n j hjob hj
  case connect =>
    intro c s hhas hstate
    refine ⟨_, congrArg Host.Outcome.next (if_pos (by simp [hhas, hstate])), tcpState_setTcp_self .., ?_⟩
    exact List.append_assoc s.out [.ctl "tcpconnect" c []] [.ctl "tcpcmd" c [5]]
  case retry =>
    intro c s hstate
    refine ⟨fun hdue => ⟨_, congrArg Host.Outcome.next (if_pos ?_), tcpState_setTcp_self .., rfl⟩, fun hearly =>
      congrArg Host.Outcome.next (if_neg ?_)⟩
    · simpa [hdue] using hstate
    · simp [hearly]
  case down =>
    intro c s hhas hstate
    obtain ⟨hclosed, hdue, hbit⟩ := tcpClosed_effect c 4 5 s
    have hing := (post_kept 0x23 (le 2 c) (Kept.refl _ (tcpClosed c 4 5 s)) (Nat.and_self _)).2.2.same .ing (by decide)
    refine ⟨_, congrArg Host.Outcome.next (if_pos (by simp [hhas, hstate])), ?_, ?_, ?_⟩
    · rw [State.tcpState, hing]
      exact hclosed
    · rw [hing]
      exact hdue
    · exact (bit_eq_of_rd (post_rd 0x23 _ _ (by decide)) 4).trans hbit
  case report =>
    intro i s himg
    refine ⟨fun n => ?_, fun hdue => ?_, fun hearly => ?_⟩
    · have hexec : exec (.membershipReport (some n)) s = .next (stewAll (reportsOf s (s.portCfg n, n)) s) :=
        congrArg Host.Outcome.next (by rw [himg, ← reportPort_eq])
      exact ⟨_, hexec, reportsSent_of ⟨rfl, rfl, rfl, rfl⟩ (filter_reportsOf_self s (s.portCfg n, (n : Nat)))⟩
    · exact ⟨_, exec_membershipReport_all himg hdue, reportDue_stewAll .., fun n hn => reportsSent_all himg hn⟩
    · exact congrArg Host.Outcome.next (by rw [himg]; exact if_pos hearly)
  case request =>
    intro n a b m s hroom
    refine ⟨fun hown => ⟨_, congrArg Host.Outcome.next (if_pos hown), stewFrame_sent hroom _⟩, fun i hother himg hpair =>
      ⟨fun hauth => ?_, fun hauth => ?_⟩⟩
    · refine ⟨_, congrArg Host.Outcome.next ?_, stewFrame_sent hroom (resolveReply i.srcMac a b m)⟩
      rw [if_neg (by rw [hother]; decide)]
      simp [himg, hpair, hauth]
    · exact congrArg Host.Outcome.next (by rw [if_neg (by rw [hother]; decide)]; simp [hauth])
  case resolve =>
    intro i s himg
    refine ⟨fun hdue => ⟨_, exec_macResolve himg hdue, ?_, ?_⟩, fun hearly => congrArg Host.Outcome.next (if_pos hearly)⟩
    · exact congrArg Alm.resolveAt ((stewAll_kept _ _).2.2.same .alm (by decide))
    · have hasked {n a : Nat} (hmem : (n, a) ∈ unresolvedDests i) := resolve_asked (s := s) hmem (s.up + 60000000000)
      exact ⟨fun d hd hmac hcast => hasked (mem_unresolvedDests_alm hd hmac hcast),
        fun o ho d hd hmac hcast => hasked (mem_unresolvedDests_outs ho hd hmac hcast)⟩
  case reply =>
    intro a m i s himg
    refine ⟨_, exec_arpReply himg a m, fun x hx haddr => ?_, fun hused => ?_⟩
    · have hknown : x.2 ∈ knownDests i a := List.mem_map.2 ⟨x, List.mem_filter.2 ⟨hx, decide_eq_true haddr⟩, rfl⟩
      split <;> exact almTold_known hknown m s
    · rw [if_pos (by simpa using hused)]
      exact smFind?_smInsert_self ..

end Sys2Proof.Machine
end

section
/-!
PROOFS. Scope: drops, jobs and streams, which the rows of every ingress format share (R125, R131, R136, R147, R148).
-/

namespace Sys2Proof.Machine

/-! ### Drops (R147, R148) -/

/-- The fields that a drop writes. -/
def dropFields (reason : Nat) : List Fld :=
  [dropCounter reason, fING_FLT_FLAGS, fING_LAST_DROP_STS_REASON, fING_LAST_DROP_STS_PORT, fING_LAST_DROP_STS_TCP, fING_LAST_DROP_STS_SLOT_VALID,
    fING_LAST_DROP_STS_SLOT, fING_LAST_DROP_TIME_NS32]

theorem dropRegs_rd {reason : Nat} {f : Fld} (hf : ∀ g ∈ dropFields reason, f.key ≠ g.key) (port : Nat) (tcp : Bool) (stamp : Nat)
    (slots : List Nat) (held : Bool) (s : State) : (dropRegs reason port tcp stamp slots held s).rd f = s.rd f := by
  simp only [dropFields, List.mem_cons, List.not_mem_nil, or_false, forall_eq_or_imp, forall_eq] at hf
  obtain ⟨hcounter, hflags, hreason, hport, htcp, hvalid, hslot, htime⟩ := hf
  unfold dropRegs
  dsimp only
  rw [State.rd_wr_ne _ htime, State.rd_wr_ne _ hslot, rd_wrB hvalid, rd_wrB htcp, State.rd_wr_ne _ hport, State.rd_wr_ne _ hreason,
    rd_flag hflags, State.inc, State.rd_wr_ne _ hcounter, ev_rd]

theorem dropFlag_lt (reason : Nat) (held : Bool) : dropFlag reason held < 8 := by
  unfold dropFlag
  repeat' split
  all_goals omega

/-- A drop sets the flag of its reason (R148). -/
theorem dropRegs_flag (reason port : Nat) (tcp : Bool) (stamp : Nat) (slots : List Nat) (held : Bool) (s : State) :
    (dropRegs reason port tcp stamp slots held s).bit fING_FLT_FLAGS (dropFlag reason held) = true := by
  unfold dropRegs
  dsimp only
  rw [State.bit, State.rd_wr_ne _ (by decide), State.rd_wr_ne _ (by decide), rd_wrB (by decide), rd_wrB (by decide),
    State.rd_wr_ne _ (by decide), State.rd_wr_ne _ (by decide), ← State.bit, bit_flag (dropFlag_lt ..), decide_eq_true rfl, Bool.or_true]

/-- A slot's part in a drop writes no register of ingress: its record is a post. -/
theorem slotDrop_rd {f : Fld} (hf : f.block ≠ 0x0C ∧ f.block ≠ 0x0D) (reason port : Nat) (s : State) (slot : Nat) :
    (slotDrop reason port s slot).rd f = s.rd f := by
  unfold slotDrop
  dsimp only
  split
  · exact post_rd _ _ _ hf
  · rfl

theorem countDrop_rd {f : Fld} (hf : f.block ≠ 0x0C ∧ f.block ≠ 0x0D) (reason port : Nat) (tcp : Bool) (stamp : Nat) (slots : List Nat)
    (held : Bool) (s : State) : (countDrop reason port tcp stamp slots held s).rd f = (dropRegs reason port tcp stamp slots held s).rd f := by
  unfold countDrop
  generalize dropRegs reason port tcp stamp slots held s = u
  induction slots generalizing u with
  | nil => rfl
  | cons x xs ih => rw [List.foldl_cons, ih, slotDrop_rd hf]

theorem countDrop_reason {reason : Nat} (hreason : reason < 256) (port : Nat) (tcp : Bool) (stamp : Nat) (slots : List Nat) (held : Bool)
    (s : State) : (countDrop reason port tcp stamp slots held s).rd fING_LAST_DROP_STS_REASON = reason :=
  (countDrop_rd (by decide) ..).trans (dropRegs_reason hreason ..)

/-! ### The end of a job (R102, R111) -/

theorem loseJob_rd (src : IngSrc) (s : State) (f : Fld) : (loseJob src s).rd f = s.rd f := by
  unfold State.rd
  rw [(loseJob_kept src (Kept.refl _ s) (Nat.and_self _)).2.2.same .regs (by decide)]

theorem loseJob_streams (src : IngSrc) (s : State) : (loseJob src s).ing.streams = s.ing.streams := by
  cases src with
  | port n => exact congrArg Ingress.streams ((dropFrame_kept n (Kept.refl _ s) (Nat.and_self _)).2.2.same .ing (by decide))
  | tcp c stamp bytes => rfl

theorem stream_loseJob (src : IngSrc) (s : State) (k : Nat) : (loseJob src s).stream k = s.stream k :=
  stream_eq_of (loseJob_streams src s) ((loseJob_kept src (Kept.refl _ s) (Nat.and_self _)).2.2.same .img (by decide)) k

theorem endJob_streams (src : IngSrc) (s : State) : (endJob src s).ing.streams = s.ing.streams := by
  cases src with
  | port n => exact congrArg Ingress.streams ((finishFrame_kept n (Kept.refl _ s) (Nat.and_self _)).2.2.same .ing (by decide))
  | tcp c stamp bytes => rfl

theorem stream_endJob (src : IngSrc) (s : State) (k : Nat) : (endJob src s).stream k = s.stream k :=
  stream_eq_of (endJob_streams src s) ((endJob_kept src (Kept.refl _ s) (Nat.and_self _)).2.2.same .img (by decide)) k

theorem stream_endJob_setStream (src : IngSrc) (s : State) (k : Nat) (st : StreamSt) : (endJob src (s.setStream k st)).stream k = st :=
  (stream_endJob ..).trans (stream_setStream_self ..)

theorem endJob_cfg1 (src : IngSrc) (s : State) : (endJob src s).ing.cfg1 = s.ing.cfg1 := by
  cases src with
  | port n => exact congrArg Ingress.cfg1 ((finishFrame_kept n (Kept.refl _ s) (Nat.and_self _)).2.2.same .ing (by decide))
  | tcp c stamp bytes => rfl

theorem loseJob_out (src : IngSrc) (s : State) : (loseJob src s).out = s.out :=
  (loseJob_kept src (Kept.refl _ s) (Nat.and_self _)).2.2.same .out (by decide)

/-- A connection stays as it is when its frame is lost. -/
theorem loseJob_tcpState (c : Fin 256) (stamp : Nat) (bytes : Bytes) (s : State) (k : Nat) :
    (loseJob (.tcp c stamp bytes) s).tcpState k = s.tcpState k := rfl

/-- A dropped frame shows its reason (R148). -/
theorem dropJob_reason {reason : Nat} (hreason : reason < 256) (src : IngSrc) (j : ParseJob) (held : Bool) (s : State) :
    (dropJob src j reason held s).rd fING_LAST_DROP_STS_REASON = reason :=
  (loseJob_rd ..).trans (countDrop_reason hreason ..)

/-! ### A job in work -/

theorem job_setJob {s : State} (hports : s.ports.length = 64) (src : IngSrc) (j : ParseJob) : (setJob src j s).job src = some j := by
  cases src with
  | port n => exact congrArg Port.job (port_setPort hports n _)
  | tcp c stamp bytes => exact smFind?_smInsert_self ..

/-- What a frame's reading takes from the state beside the frame, its port and its stream: the image, the slots' CFG_NEW, the leap data and
TAI_UTC, and what the check for a future time asks (R140, R141, R143). -/
structure ReadsAlike (s t : State) : Prop where
  img : t.img = s.img
  slots : t.ing.slots = s.ing.slots
  clv : t.clv = s.clv
  state : t.rd fCLV_STS_STATE = s.rd fCLV_STS_STATE
  taiUtc : t.rd fCLV_UTC_CFG_TAI_UTC = s.rd fCLV_UTC_CFG_TAI_UTC
  ahead : t.rd fING_CFG_FUTURE_MS = s.rd fING_CFG_FUTURE_MS

namespace ReadsAlike

theorem refl (s : State) : ReadsAlike s s := ⟨rfl, rfl, rfl, rfl, rfl, rfl⟩

variable {s t : State} (h : ReadsAlike s t)
include h

theorem trans {u : State} (k : ReadsAlike t u) : ReadsAlike s u :=
  ⟨k.img.trans h.img, k.slots.trans h.slots, k.clv.trans h.clv, k.state.trans h.state, k.taiUtc.trans h.taiUtc, k.ahead.trans h.ahead⟩

theorem bindings : t.bindings = s.bindings := by
  unfold State.bindings
  rw [h.img]

theorem taiOfUtc (soc ns ing : Nat) : t.taiOfUtc soc ns ing = s.taiOfUtc soc ns ing := by
  unfold State.taiOfUtc State.taiUtc State.rdS
  rw [h.clv, h.taiUtc]

theorem future (time ing : Nat) : t.future time ing = s.future time ing := by
  unfold State.future State.clvState
  rw [h.state, h.ahead]

theorem ingQual (auth : Bool) (slot : Nat) (vals : List Nat) : t.ingQual auth slot vals = s.ingQual auth slot vals := by
  unfold State.ingQual State.clvState State.ingSlot
  rw [h.state, h.slots]

theorem blockRecord (j : ParseJob) (c : StreamCfg) (st : StreamSt) (slot blk time : Nat) :
    blockRecord t j c st slot blk time = blockRecord s j c st slot blk time := by
  unfold Machine.blockRecord
  simp only [h.ingQual]

end ReadsAlike

theorem setJob_alike (src : IngSrc) (j : ParseJob) (s : State) : ReadsAlike s (setJob src j s) := by
  cases src <;> exact ⟨rfl, rfl, rfl, rfl, rfl, rfl⟩

theorem dropRegs_alike {reason : Nat}
    (hf : ∀ f ∈ [fCLV_STS_STATE, fCLV_UTC_CFG_TAI_UTC, fING_CFG_FUTURE_MS], ∀ g ∈ dropFields reason, f.key ≠ g.key) (port : Nat)
    (tcp : Bool) (stamp : Nat) (slots : List Nat) (held : Bool) (s : State) : ReadsAlike s (dropRegs reason port tcp stamp slots held s) := by
  have hparts := (dropRegs_kept reason port tcp stamp slots held (Kept.refl _ s) (Nat.and_self _)).2.2
  have hrd {f : Fld} (h : f ∈ [fCLV_STS_STATE, fCLV_UTC_CFG_TAI_UTC, fING_CFG_FUTURE_MS]) := dropRegs_rd (hf f h) port tcp stamp slots held s
  exact ⟨hparts.same .img (by decide), congrArg Ingress.slots (hparts.same .ing (by decide)), hparts.same .clv (by decide),
    hrd (by simp), hrd (by simp), hrd (by simp)⟩

/-- A frame with too many blocks is counted and goes on (R547). -/
theorem jobExcess_alike (src : IngSrc) (j : ParseJob) (excess : Bool) (s : State) : ReadsAlike s (jobExcess src j excess s) := by
  unfold jobExcess
  split
  · exact .refl s
  · exact (dropRegs_alike (by decide) ..).trans (setJob_alike ..)

theorem setJob_rd (src : IngSrc) (j : ParseJob) (s : State) (f : Fld) : (setJob src j s).rd f = s.rd f := by
  cases src <;> rfl

/-- The first excess of a frame sets its flag (R547). -/
theorem jobExcess_flag {j : ParseJob} (hfirst : j.excess = false) (src : IngSrc) (s : State) :
    (jobExcess src j true s).bit fING_FLT_FLAGS 6 = true := by
  unfold jobExcess
  rw [hfirst]
  exact (bit_eq_of_rd (setJob_rd ..) 6).trans (dropRegs_flag dropExcess ..)

theorem jobExcess_ports {s : State} (hports : s.ports.length = 64) (src : IngSrc) (j : ParseJob) (excess : Bool) :
    (jobExcess src j excess s).ports.length = 64 := by
  unfold jobExcess
  split
  · exact hports
  · have hdropped := (congrArg List.length (dropRegs_ports dropExcess j.port j.tcp j.stamp j.slots false s)).trans hports
    cases src with
    | port n => exact ports_length_setPort hdropped ..
    | tcp c stamp bytes => exact hdropped

/-! ### Configurations offered (R129, R136) -/

/-- A held stream (R136). -/
theorem stream_holdStream (k : Nat) (s : State) : (holdStream k s).stream k = { s.stream k with state := 3, waiting := none } := by
  unfold holdStream
  extract_lets st slot u
  have hpost := (post_kept 0x22 (le 2 slot ++ le 2 st.gen) (Kept.refl _ u) (Nat.and_self _)).2.2
  have hu : u.stream k = { st with state := 3, waiting := none } :=
    (stream_eq_of (s := s.setStream k { st with state := 3, waiting := none }) rfl rfl k).trans (stream_setStream_self ..)
  exact (stream_eq_of (congrArg Ingress.streams (hpost.same .ing (by decide))) (hpost.same .img (by decide)) k).trans hu

theorem holdStream_reason (k : Nat) (s : State) : (holdStream k s).rd fING_LAST_DROP_STS_REASON = s.rd fING_LAST_DROP_STS_REASON :=
  (post_rd _ _ _ (by decide)).trans (rd_flag (by decide) _ 2)

theorem tcpClosed_reason (c v wait : Nat) (s : State) :
    (tcpClosed c v wait s).rd fING_LAST_DROP_STS_REASON = s.rd fING_LAST_DROP_STS_REASON := by
  unfold tcpClosed State.setTcp
  dsimp only
  rw [State.setIng_rd, rd_flag (by decide), State.rd_wr_ne _ (by decide), State.setIng_rd]

/-- A refused connection is closed with its reason (R129). -/
theorem tcpRefuse_effect (c : Nat) (j : ParseJob) (s : State) :
    (tcpRefuse c j s).tcpState c = 5 ∧ (tcpRefuse c j s).rd fING_LAST_DROP_STS_REASON = dropRate ∧
      .ctl "tcpclose" c [] ∈ (tcpRefuse c j s).out := by
  unfold tcpRefuse
  extract_lets slots u
  have hout : (countDrop dropRate j.port true j.stamp slots false u).out = u.out :=
    (countDrop_kept dropRate j.port true j.stamp slots false (Kept.refl _ u) (Nat.and_self _)).2.2.same .out (by decide)
  refine ⟨(tcpClosed_effect ..).1, (tcpClosed_reason ..).trans (countDrop_reason (by decide) ..), ?_⟩
  change _ ∈ (countDrop dropRate j.port true j.stamp slots false u).out
  rw [hout]
  exact List.mem_append_right _ (List.mem_singleton_self _)

/-- A connection whose configuration was asked for and is in force: its data is turned on. -/
def connectionReady (src : IngSrc) (s : State) : State :=
  match src with
  | .tcp k _ _ => if s.tcpState k = 2 then (tcpCommand k 2 s).setTcp k 3 else s
  | .port _ => s

theorem stream_connectionReady (src : IngSrc) (s : State) (k : Nat) : (connectionReady src s).stream k = s.stream k := by
  cases src with
  | port n => rfl
  | tcp c stamp bytes =>
    unfold connectionReady
    dsimp only
    split <;> rfl

/-- The stream with its configuration confirmed: no other one waits, and a held stream goes on (R136). -/
def resumed (st : StreamSt) : StreamSt :=
  { st with state := if st.state = 3 then (if st.gen = 0 then 1 else 2) else st.state, waiting := none }

section Offer
variable {src : IngSrc} {j : ParseJob} {c : StreamCfg} {s : State}

theorem offerCfg_refused {k : Nat} (hfast : tooFast src c = some k) : offerCfg src j c s = loseJob src (tcpRefuse k j s) := by
  simp only [offerCfg, hfast]

variable (hfast : tooFast src c = none)
include hfast

theorem offerCfg_badRate (hrate : rateOk c = false) :
    offerCfg src j c s = loseJob src (holdStream (s.jobStream j) (countDrop dropRate j.port j.tcp j.stamp j.slots false s)) := by
  simp [offerCfg, hfast, hrate]

variable (hrate : rateOk c = true) {k : Nat} (hk : s.jobStream j = k) {st : StreamSt} (hst : s.stream k = st)
include hrate hk hst

/-- The configuration in force stays in force, and none waits. -/
theorem offerCfg_inForce (hsame : st.cfg = some c) : (offerCfg src j c s).stream k = resumed st := by
  subst hk hst
  have hoffer : offerCfg src j c s =
      endJob src (connectionReady src (s.setStream (s.jobStream j) (resumed (s.stream (s.jobStream j))))) := by
    unfold offerCfg
    cases src <;> simp [hfast, hrate, hsame, connectionReady, resumed]
  rw [hoffer, stream_endJob, stream_connectionReady, stream_setStream_self]

/-- A new configuration that fits waits to become active. -/
theorem offerCfg_waits (hnew : st.cfg ≠ some c) (hlimits : cfgInLimits c = true) (hfits : s.cfgFits k c = true)
    (hpolicy : s.holdPolicy k = false ∨ st.cfg = none) : (offerCfg src j c s).stream k = { st with waiting := some c } := by
  subst hk hst
  have hadopt : (s.holdPolicy (s.jobStream j) && (s.stream (s.jobStream j)).cfg.isSome) = false := by
    rcases hpolicy with h | h <;> simp [h]
  have hoffer : offerCfg src j c s =
      endJob src (s.setStream (s.jobStream j) { s.stream (s.jobStream j) with waiting := some c }) := by
    unfold offerCfg
    cases src <;> simp [hfast, hrate, hnew, hlimits, hfits, hadopt]
  rw [hoffer, stream_endJob_setStream]

end Offer

end Sys2Proof.Machine
end

section
/-!
PROOFS. Scope: C37.118 frames (R129, R131, R136, R138, R147, R547).
-/

namespace Sys2Proof.Machine

/-! ### Each command with its frame -/

theorem c37Common_lt {j : ParseJob} {r : Nat} (h : c37Common j = some r) : r < 256 := by
  unfold c37Common at h
  dsimp only at h
  repeat' split at h
  all_goals cases h
  all_goals decide

section Exec
variable {src : IngSrc} {j : ParseJob} {s : State} (hjob : (openTcp src s).job src = some j)
include hjob

theorem exec_dataFrame (hkind : j.kind = .data) (hrecs : j.recs = none) :
    exec (.dataFrame src) s = .next (readDataFrame src j (openTcp src s)) :=
  congrArg Host.Outcome.next (by simp [hjob, hkind, hrecs])

theorem exec_cfg2Frame_dropped {r : Nat} (hkind : j.kind = .cfg2) (hcommon : c37Common j = some r) :
    exec (.cfg2Frame src) s = .next (dropJob src j r false (openTcp src s)) :=
  congrArg Host.Outcome.next (by simp [hjob, hkind, hcommon])

variable (hcommon : c37Common j = none)
include hcommon

theorem exec_cfg2Frame (hkind : j.kind = .cfg2) :
    exec (.cfg2Frame src) s = .next (offerCfg src j (readCfg2 j.payload) (openTcp src s)) :=
  congrArg Host.Outcome.next (by simp [hjob, hkind, hcommon])

theorem exec_cfg1Frame (hkind : j.kind = .cfg1) :
    exec (.cfg1Frame src) s =
      .next (endJob src ((openTcp src s).setIng { (openTcp src s).ing with cfg1 := (openTcp src s).ing.cfg1 + 1 })) :=
  congrArg Host.Outcome.next (by simp [hjob, hkind, hcommon])

theorem exec_headerFrame (hkind : j.kind = .header) :
    let u := openTcp src s
    exec (.headerFrame src) s =
      .next (endJob src (u.setStream (u.jobStream j) { u.stream (u.jobStream j) with header := j.payload })) :=
  congrArg Host.Outcome.next (by simp [hjob, hkind, hcommon])

variable (hkind : j.kind = .cfg3) (hver : beAt j.payload 1 1 % 16 = 2)
include hkind hver

/-- A CFG-3 configuration in one frame is offered. -/
theorem exec_cfg3Frame_whole (hlen : j.payload.length ≤ 65535) (d : StreamCfg) (desc : List CfgDesc) :
    exec (.cfg3Frame src 0 d desc) s = .next (offerCfg src j { d with cfg3 := true }
      ((openTcp src s).setStream ((openTcp src s).jobStream j)
        { (openTcp src s).stream ((openTcp src s).jobStream j) with fragLen := 0, desc := desc })) :=
  congrArg Host.Outcome.next (by simp [hjob, hkind, hcommon, hver, Nat.not_lt.2 hlen])

/-- A fragment that is not the last adds its length. -/
theorem runs_cfg3Frame_fragment {k : Nat} (hk : (openTcp src s).jobStream j = k) {st : StreamSt} (hst : (openTcp src s).stream k = st) {i : Nat}
    (hpos : 0 < i) (hlast : i < 0xFFFF) (hlen : (if i = 1 then 0 else st.fragLen) + j.payload.length ≤ 65535) (d : StreamCfg)
    (desc : List CfgDesc) : Runs (.cfg3Frame src i d desc) s fun t =>
      t.stream k = { st with fragLen := (if i = 1 then 0 else st.fragLen) + j.payload.length } := by
  subst hk hst
  have hfirst : (i ≤ 1) = (i = 1) := propext (by omega)
  refine ⟨_, congrArg Host.Outcome.next ?_, stream_endJob_setStream src (openTcp src s) _ _⟩
  simp [hjob, hkind, hcommon, hver, hfirst, Nat.not_lt.2 hlen, hpos.ne', hlast.ne]

end Exec

theorem tooFast_tcp (conn : Fin 256) (stamp : Nat) (p : Bytes) {c : StreamCfg} (hrate : c.dataRate > 60) :
    tooFast (.tcp conn stamp p) c = some conn.val := by
  unfold tooFast
  exact if_pos hrate

/-- A connection whose configuration gives too many frames is closed (R129). -/
theorem runs_cfg2Frame_refused {conn : Fin 256} {stamp : Nat} {p : Bytes} {j : ParseJob} {s : State}
    (hjob : (openTcp (.tcp conn stamp p) s).job (.tcp conn stamp p) = some j) (hcommon : c37Common j = none) (hkind : j.kind = .cfg2)
    (hrate : (readCfg2 j.payload).dataRate > 60) : Runs (.cfg2Frame (.tcp conn stamp p)) s fun t =>
      t.tcpState conn = 5 ∧ t.rd fING_LAST_DROP_STS_REASON = dropRate ∧ .ctl "tcpclose" conn [] ∈ t.out := by
  obtain ⟨hclosed, hreason, hsent⟩ := tcpRefuse_effect conn.val j (openTcp (.tcp conn stamp p) s)
  refine ⟨_, exec_cfg2Frame hjob hcommon hkind, ?_⟩
  rw [offerCfg_refused (tooFast_tcp conn stamp p hrate)]
  exact ⟨(loseJob_tcpState ..).trans hclosed, (loseJob_rd ..).trans hreason, (loseJob_out ..).symm ▸ hsent⟩

theorem openTcp_cfg1 (src : IngSrc) (s : State) : (openTcp src s).ing.cfg1 = s.ing.cfg1 := by
  have hlost (port stamp : Nat) (bytes : Bytes) : (if (s.portCfg port).hostRing then toHost port bytes stamp false 0 s
      else countDrop dropUnknown port true stamp [] false s).ing.cfg1 = s.ing.cfg1 := by
    split
    · rfl
    · exact congrArg Ingress.cfg1 ((dropRegs_kept dropUnknown port true stamp [] false (Kept.refl _ s) (Nat.and_self _)).2.2.same .ing (by decide))
  cases src with
  | port n => rfl
  | tcp c stamp bytes =>
    rw [openTcp]
    split
    · exact hlost ..
    · rfl

/-! ### Configuration frames (R129, R131, R136) -/

section Configuration
variable {src : IngSrc} {j : ParseJob} {s : State} (hjob : (openTcp src s).job src = some j) (hcommon : c37Common j = none)
  {c : StreamCfg} {k : Nat} (hk : (openTcp src s).jobStream j = k) {st : StreamSt} (hst : (openTcp src s).stream k = st)
include hjob hcommon

theorem exec_cfg2Frame_offered (hkind : j.kind = .cfg2) (hread : c = readCfg2 j.payload) :
    exec (.cfg2Frame src) s = .next (offerCfg src j c (openTcp src s)) := hread ▸ exec_cfg2Frame hjob hcommon hkind

variable (hfast : tooFast src c = none)
include hfast hk

theorem runs_cfg2Frame_badRate (hkind : j.kind = .cfg2) (hread : c = readCfg2 j.payload) (hrate : rateOk c = false) :
    Runs (.cfg2Frame src) s fun t => (t.stream k).state = 3 ∧ t.rd fING_LAST_DROP_STS_REASON = dropRate := by
  subst hk
  refine ⟨_, exec_cfg2Frame_offered hjob hcommon hkind hread, ?_⟩
  rw [offerCfg_badRate hfast hrate]
  exact ⟨congrArg StreamSt.state ((stream_loseJob ..).trans (stream_holdStream ..)),
    (loseJob_rd ..).trans ((holdStream_reason ..).trans (countDrop_reason (by decide) ..))⟩

variable (hrate : rateOk c = true)
include hst hrate

theorem runs_cfg2Frame_inForce (hkind : j.kind = .cfg2) (hread : c = readCfg2 j.payload) (hsame : st.cfg = some c) :
    Runs (.cfg2Frame src) s fun t => t.stream k = resumed st :=
  ⟨_, exec_cfg2Frame_offered hjob hcommon hkind hread, offerCfg_inForce hfast hrate hk hst hsame⟩

variable (hnew : st.cfg ≠ some c) (hlimits : cfgInLimits c = true) (hfits : (openTcp src s).cfgFits k c = true)
  (hpolicy : (openTcp src s).holdPolicy k = false ∨ st.cfg = none)
include hnew hlimits hfits hpolicy

theorem runs_cfg2Frame_waits (hkind : j.kind = .cfg2) (hread : c = readCfg2 j.payload) :
    Runs (.cfg2Frame src) s fun t => t.stream k = { st with waiting := some c } :=
  ⟨_, exec_cfg2Frame_offered hjob hcommon hkind hread, offerCfg_waits hfast hrate hk hst hnew hlimits hfits hpolicy⟩

theorem runs_cfg3Frame_waits (hkind : j.kind = .cfg3) (hver : beAt j.payload 1 1 % 16 = 2) (hlen : j.payload.length ≤ 65535) (d : StreamCfg)
    (hc : c = { d with cfg3 := true }) (desc : List CfgDesc) :
    Runs (.cfg3Frame src 0 d desc) s fun t => t.stream k = { st with waiting := some c, fragLen := 0, desc := desc } := by
  subst hk hst hc
  refine ⟨_, exec_cfg3Frame_whole hjob hcommon hkind hver hlen d desc, ?_⟩
  exact offerCfg_waits hfast hrate (st := { (openTcp src s).stream ((openTcp src s).jobStream j) with fragLen := 0, desc := desc }) rfl
    (stream_setStream_self ..) hnew hlimits hfits hpolicy

end Configuration

/-! ### Data frames (R131, R138, R140, R141, R547) -/

/-- The state once a data frame's STAT words have been looked at for a change of its configuration (R138). -/
def cfgRequested (j : ParseJob) (s : State) : State :=
  if cfgChanged (s.stream (s.jobStream j)).cfg j.payload then requestCfg (s.jobStream j) s else s

/-- The records of a data frame under its configuration, one for each slot it feeds; blocks beyond the 64th are set aside (R547). -/
def frameRecords (j : ParseJob) (c : StreamCfg) (st : StreamSt) (time : Nat) (s : State) : List SlotRecord :=
  s.bindings.filterMap fun b =>
    if j.slots.contains b.slot then blockRecord s j { c with blocks := c.blocks.take 64 } st b.slot (bindBlock b) time else none

/-- The steps of R547 from the configuration on. -/
def readUnderCfg (src : IngSrc) (j : ParseJob) (st : StreamSt) (s : State) : State :=
  match st.cfg with
  | none => dropJob src j dropNoCfg false s
  | some c =>
    if st.state = 3 then dropJob src j dropCfg true s
    else if dataFrameSize c ≠ j.payload.length then dropJob src j dropSize false s
    else if beAt j.payload 11 3 ≥ c.timeBase then dropJob src j dropFracsec false s
    else
      let u := jobExcess src j (decide (c.blocks.length > 64)) s
      let utc := roundDiv (beAt j.payload 11 3 * 1000000000) c.timeBase
      let time := u.taiOfUtc (beAt j.payload 6 4 + utc / 1000000000) (utc % 1000000000) j.stamp
      if u.future time j.stamp then dropJob src j dropFuture false u
      else setJob src { j with recs := some (frameRecords j c st time u), excess := decide (c.blocks.length > 64) } u

theorem readDataFrame_dropped {j : ParseJob} {r : Nat} (hcommon : c37Common j = some r) (src : IngSrc) (s : State) :
    readDataFrame src j s = dropJob src j r false s := by
  simp only [readDataFrame, hcommon]

theorem readDataFrame_eq {j : ParseJob} (hcommon : c37Common j = none) (src : IngSrc) (s : State) :
    readDataFrame src j s = readUnderCfg src j (s.stream (s.jobStream j)) (cfgRequested j s) := by
  simp only [readDataFrame, hcommon]
  rfl

/-- What has been sent before the frame is read stays sent. -/
theorem readUnderCfg_out (src : IngSrc) (j : ParseJob) (st : StreamSt) (s : State) : s.out <+: (readUnderCfg src j st s).out := by
  have hdrop (reason : Nat) (held : Bool) (u : State) : u.out <+: (dropJob src j reason held u).out :=
    (dropJob_kept src j reason held (Kept.refl _ u) (Nat.and_self _)).2.1.out
  have hexcess (e : Bool) : s.out <+: (jobExcess src j e s).out :=
    (jobExcess_kept src j e (Kept.refl _ s) (Nat.and_self _)).2.1.out
  have hset (k : ParseJob) (u : State) : u.out <+: (setJob src k u).out := (setJob_kept src k (Kept.refl _ u) (Nat.and_self _)).2.1.out
  unfold readUnderCfg
  dsimp only
  split
  · exact hdrop ..
  · split
    · exact hdrop ..
    · split
      · exact hdrop ..
      · split
        · exact hdrop ..
        · split
          · exact (hexcess _).trans (hdrop ..)
          · exact (hexcess _).trans (hset ..)

/-- Where a frame says that its configuration has changed, and none was asked for within 1 s, CFG-2 is asked for (R138). -/
theorem cfgRequested_sent {j : ParseJob} {i : Image} {a : Nat} {x : StreamImg} {s : State}
    (hchanged : cfgChanged (s.stream (s.jobStream j)).cfg j.payload = true) (himg : s.img = some i)
    (hstream : i.streams[s.jobStream j]? = some x) (hcommand : x.command = some a) (hon : s.on fING_CFG_CFG_REQ_EN = true)
    (hdue : (s.stream (s.jobStream j)).lastReq.all (fun t => t + 1000000000 ≤ s.up) = true) :
    .ctl "c37cmd" a [5] ∈ (cfgRequested j s).out := by
  have hcmd : (i.streams[s.jobStream j]?).bind (fun x => x.command) = some a := by rw [hstream]; exact hcommand
  unfold cfgRequested requestCfg
  simp only [hchanged, himg, hcmd, hon, hdue, Bool.and_self, if_true]
  exact List.mem_append_right _ (List.mem_singleton_self _)

theorem requestCfg_parts (k : Nat) (s : State) : (requestCfg k s).ports = s.ports ∧ ReadsAlike s (requestCfg k s) := by
  unfold requestCfg
  dsimp only
  repeat' split
  all_goals exact ⟨rfl, rfl, rfl, rfl, rfl, rfl, rfl⟩

theorem cfgRequested_parts (j : ParseJob) (s : State) : (cfgRequested j s).ports = s.ports ∧ ReadsAlike s (cfgRequested j s) := by
  unfold cfgRequested
  split
  · exact requestCfg_parts ..
  · exact ⟨rfl, .refl s⟩

theorem ReadsAlike.frameRecords {s t : State} (h : ReadsAlike s t) (j : ParseJob) (c : StreamCfg) (st : StreamSt) (time : Nat) :
    frameRecords j c st time t = frameRecords j c st time s := by
  unfold Machine.frameRecords
  simp only [h.bindings, h.blockRecord]

/-- A frame that passes every check becomes the records of its slots, read in the state `s` it came to. -/
theorem readUnderCfg_records {src : IngSrc} {j : ParseJob} {c : StreamCfg} {st : StreamSt} {s u : State} (hcfg : st.cfg = some c)
    (hstate : st.state ≠ 3) (hsize : dataFrameSize c = j.payload.length) (hfrac : beAt j.payload 11 3 < c.timeBase)
    (halike : ReadsAlike s u) {time : Nat}
    (htime : time = s.taiOfUtc (beAt j.payload 6 4 + roundDiv (beAt j.payload 11 3 * 1000000000) c.timeBase / 1000000000)
      (roundDiv (beAt j.payload 11 3 * 1000000000) c.timeBase % 1000000000) j.stamp)
    (hfuture : s.future time j.stamp = false) :
    readUnderCfg src j st u = setJob src { j with recs := some (frameRecords j c st time s), excess := decide (c.blocks.length > 64) }
      (jobExcess src j (decide (c.blocks.length > 64)) u) := by
  have hread := halike.trans (jobExcess_alike src j (decide (c.blocks.length > 64)) u)
  unfold readUnderCfg
  simp only [hcfg, hstate, hsize, Nat.not_le.2 hfrac, if_false, ne_eq, not_true_eq_false, hread.taiOfUtc, hread.future, ← htime,
    hfuture, hread.frameRecords, Bool.false_eq_true]

/-! ### The statement -/

/-- Settles O25: each frame's command runs on its job as TCP opened it; what ends the job, posts or counts leaves alone what the row names. -/
theorem c37Rows : Obligations.C37Rows := by
  refine ⟨?dropped, ?requested, ?records, ?configuration, ?kept⟩
  case dropped =>
    intro src j r s hjob hcommon
    have hr := c37Common_lt hcommon
    refine ⟨fun hkind hrecs => ⟨_, exec_dataFrame hjob hkind hrecs, ?_⟩, fun hkind => ⟨_, exec_cfg2Frame_dropped hjob hkind hcommon, ?_⟩⟩
    · rw [readDataFrame_dropped hcommon]
      exact dropJob_reason hr ..
    · exact dropJob_reason hr ..
  case requested =>
    intro src j i a x s hjob hcommon hkind hrecs u k hchanged himg hstream hcommand hon hdue
    refine ⟨_, exec_dataFrame hjob hkind hrecs, ?_⟩
    rw [readDataFrame_eq hcommon]
    exact (readUnderCfg_out ..).subset (cfgRequested_sent hchanged himg hstream hcommand hon hdue)
  case records =>
    intro src j c s hinv hjob hcommon hkind hrecs hcfg hstate hsize hfrac u f x hfuture
    obtain ⟨hports, halike⟩ := cfgRequested_parts j u
    have hlen : (cfgRequested j u).ports.length = 64 :=
      (congrArg List.length hports).trans ((openTcp_kept src (Kept.refl _ s) (Nat.and_self _)).1 hinv).ports_length
    refine ⟨_, exec_dataFrame hjob hkind hrecs, ?_⟩
    rw [readDataFrame_eq hcommon, readUnderCfg_records hcfg hstate hsize hfrac halike rfl hfuture]
    refine ⟨fun hmany hfirst => ?_, job_setJob (jobExcess_ports hlen ..) ..⟩
    rw [decide_eq_true hmany, bit_eq_of_rd (setJob_rd ..)]
    exact jobExcess_flag hfirst ..
  case configuration =>
    intro src j c s hjob hcommon u k
    refine ⟨fun hkind hread => ⟨fun conn stamp p hsrc hrate => ?_, fun hfast hrate => ?_⟩, fun hfast hrate => ⟨fun hkind hread =>
      ⟨fun hsame => ?_, fun hnew hlimits hfits hpolicy => ?_⟩, fun d i desc hkind hver hc => ⟨fun hi hnew hlimits hfits hpolicy hlen => ?_,
      fun hpos hlast hlen => ?_⟩⟩⟩
    · subst hsrc
      exact runs_cfg2Frame_refused hjob hcommon hkind (hread ▸ hrate)
    · exact runs_cfg2Frame_badRate hjob hcommon rfl hfast hkind hread hrate
    · obtain ⟨t, ht, hst⟩ := runs_cfg2Frame_inForce hjob hcommon rfl rfl hfast hrate hkind hread hsame
      exact ⟨t, ht, by rw [hst]; exact hsame, by rw [hst]; rfl⟩
    · obtain ⟨t, ht, hst⟩ := runs_cfg2Frame_waits hjob hcommon rfl rfl hfast hrate hnew hlimits hfits hpolicy hkind hread
      exact ⟨t, ht, by rw [hst], by rw [hst]⟩
    · subst hi
      obtain ⟨t, ht, hst⟩ := runs_cfg3Frame_waits hjob hcommon rfl rfl hfast hrate hnew hlimits hfits hpolicy hkind hver hlen d hc desc
      exact ⟨t, ht, by rw [hst], by rw [hst], by rw [hst]⟩
    · obtain ⟨t, ht, hst⟩ := runs_cfg3Frame_fragment hjob hcommon hkind hver rfl rfl hpos hlast hlen d desc
      exact ⟨t, ht, by rw [hst], by rw [hst]⟩
  case kept =>
    intro src j s hjob hcommon
    refine ⟨fun hkind => ⟨_, exec_cfg1Frame hjob hcommon hkind, ?_⟩, fun hkind => ⟨_, exec_headerFrame hjob hcommon hkind, ?_⟩⟩
    · exact (endJob_cfg1 ..).trans (congrArg (· + 1) (openTcp_cfg1 ..))
    · exact congrArg StreamSt.header (stream_endJob_setStream ..)

end Sys2Proof.Machine
end

section
/-!
PROOFS. Scope: IEEE 1344 and IEC 61850-90-5 frames (R132 to R135, R140, R144, R147, R547).
-/

namespace Sys2Proof.Machine

/-- The head of a port's FIFO, where its frame feeds no slot after all (R135). -/
theorem unboundHead_done {n : Fin 64} {f : RxFrame} {rest : List RxFrame} {s : State} (hinv : Inv s) (hrx : (s.port n).rx = f :: rest) :
    unboundDone n f rest s (unboundHead n s) := by
  have hhead : unboundHead n s = unbound n f s := by simp only [unboundHead, hrx]
  rw [hhead]
  exact unbound_done hinv.ports_length (by rw [State.rxBytes, hrx]; rfl) rfl rfl

/-! ### IEEE 1344 (R132, R134, R547) -/

theorem common1344_lt {j : ParseJob} {sizeOk chkOk : Bool} {r : Nat} (h : common1344 j sizeOk chkOk = some r) : r < 256 := by
  unfold common1344 at h
  repeat' split at h
  all_goals cases h
  all_goals decide

section Data
variable {n : Fin 64} {d : I1344Data} {j : ParseJob} {s : State} (hjob : s.job1344 n d.ident = some j) (hkind : j.kind = .data1344)
  (hrecs : j.recs = none)
include hjob hkind hrecs

theorem exec_ieee1344Data_unbound (hslots : j.slots = []) : exec (.ieee1344DataFrame n d) s = .next (unboundHead n s) :=
  congrArg Host.Outcome.next (by simp [hjob, hkind, hrecs, hslots])

variable (hslots : j.slots ≠ [])
include hslots

theorem exec_ieee1344Data_dropped {r : Nat} (hcommon : common1344 j d.sizeOk d.chkOk = some r) :
    exec (.ieee1344DataFrame n d) s = .next (dropJob (.port n) j r false s) :=
  congrArg Host.Outcome.next (by simp [hjob, hkind, hrecs, hslots, hcommon])

/-- A 1344 data frame that passes its checks becomes a record for each of its slots. -/
theorem exec_ieee1344Data_records (hcommon : common1344 j d.sizeOk d.chkOk = none) {c : StreamCfg}
    (hstate : (s.stream (s.jobStream j)).state ≠ 3) (hcfg : (s.stream (s.jobStream j)).cfg = some c) {b : PmuBlock} {l : List PmuBlock}
    (hblocks : c.blocks = b :: l) (hlen : b.phunit.length = d.phasors.length) {time : Nat}
    (htime : time = s.taiOfUtc (d.utcSec + time1344 (max 1 c.dataRate.toNat) d.smpCnt / 1000000000)
      (time1344 (max 1 c.dataRate.toNat) d.smpCnt % 1000000000) j.stamp)
    (hfuture : s.future time j.stamp = false) :
    exec (.ieee1344DataFrame n d) s = .next (setJob (.port n)
      { j with recs := some (j.slots.map fun sl => record1344 s j c (s.stream (s.jobStream j)) d sl time) } s) :=
  congrArg Host.Outcome.next (by simp [hjob, hkind, hrecs, hslots, hcommon, hstate, hcfg, hblocks, hlen, ← htime, hfuture])

end Data

section Configuration
variable {n : Fin 64} {ident : Nat} {j : ParseJob} {s : State} (hjob : s.job1344 n ident = some j) (hkind : j.kind = .cfg1344)
  (hslots : j.slots ≠ []) {sizeOk chkOk : Bool}
include hjob hkind hslots

theorem exec_ieee1344Cfg_dropped {r : Nat} (hcommon : common1344 j sizeOk chkOk = some r) (c : StreamCfg) :
    exec (.ieee1344CfgFrame n ident sizeOk chkOk c) s = .next (dropJob (.port n) j r false s) :=
  congrArg Host.Outcome.next (by simp [hjob, hkind, hslots, hcommon])

theorem exec_ieee1344Cfg (hcommon : common1344 j sizeOk chkOk = none) {c : StreamCfg} (hcfg3 : c.cfg3 = false) :
    exec (.ieee1344CfgFrame n ident sizeOk chkOk c) s = .next (offerCfg (.port n) j c s) := by
  have hc : { c with cfg3 := false } = c := by rw [← hcfg3]
  exact congrArg Host.Outcome.next (by simp [hjob, hkind, hslots, hcommon, hc])

end Configuration

/-! ### IEC 61850-90-5 (R133, R135, R144, R547) -/

theorem svCheck_lt {j : ParseJob} {f : SvFrame} {pairs : List SvPair} {r : Nat} (h : svCheck j f pairs = some r) : r < 256 := by
  unfold svCheck at h
  repeat' split at h
  all_goals cases h
  all_goals decide

/-- The frame's work with the slots that its svIDs name (R134). -/
def svJob (j : ParseJob) (pairs : List SvPair) : ParseJob := { j with slots := pairs.map fun p => p.2.1.slot }

/-- A 90-5 frame that has not been read, and that names a slot, goes on to its checks. -/
theorem routedSv_named {f : SvFrame} {j : ParseJob} {s : State} (hkind : j.kind = .routedSv) (hrecs : j.recs = none)
    (hpairs : s.svPairs j f ≠ []) : (decide (j.kind ≠ .routedSv) || j.recs.isSome) = false ∧ (s.svPairs j f).isEmpty = false := by
  simp [hkind, hrecs, hpairs]

section Routed
variable {n : Fin 64} {f : SvFrame} {j : ParseJob} {s : State} (hjob : (s.port n).job = some j) (hkind : j.kind = .routedSv)
  (hrecs : j.recs = none)
include hjob hkind hrecs

theorem exec_routedSv_otherSession (hsi : f.si ≠ 0xA2) : exec (.routedSvFrame n f) s = .next (unboundHead n s) :=
  congrArg Host.Outcome.next (by simp [hjob, hkind, hrecs, hsi])

variable (hsi : f.si = 0xA2) (hid : f.idError = false)
include hsi hid

theorem exec_routedSv_unnamed (hpairs : s.svPairs j f = []) (hread : f.encrypted = false ∨ f.asdus ≠ []) :
    exec (.routedSvFrame n f) s = .next (unboundHead n s) := by
  have hnot : (f.encrypted && f.asdus.isEmpty) = false := by rcases hread with h | h <;> simp [h]
  exact congrArg Host.Outcome.next (by simp [hjob, hkind, hrecs, hsi, hid, hpairs, hnot])

variable (hpairs : s.svPairs j f ≠ [])
include hpairs

theorem exec_routedSv_dropped {r : Nat} (hcheck : svCheck (svJob j (s.svPairs j f)) f (s.svPairs j f) = some r) :
    exec (.routedSvFrame n f) s = .next (dropJob (.port n) (svJob j (s.svPairs j f)) r false s) := by
  obtain ⟨hopen, hnamed⟩ := routedSv_named hkind hrecs hpairs
  unfold svJob at *
  exact congrArg Host.Outcome.next (by
    simp only [hjob, hopen, hsi, hid, hnamed, hcheck, ne_eq, not_true_eq_false, Bool.false_eq_true, if_false])

theorem exec_routedSv_accepted (hcheck : svCheck (svJob j (s.svPairs j f)) f (s.svPairs j f) = none) :
    exec (.routedSvFrame n f) s = .next (svAccept (.port n) { svJob j (s.svPairs j f) with excess := decide (f.asdus.length > 8) } f
      (s.svPairs j f) (jobExcess (.port n) (svJob j (s.svPairs j f)) (decide (f.asdus.length > 8)) s)) := by
  obtain ⟨hopen, hnamed⟩ := routedSv_named hkind hrecs hpairs
  unfold svJob at *
  exact congrArg Host.Outcome.next (by
    simp only [hjob, hopen, hsi, hid, hnamed, hcheck, ne_eq, not_true_eq_false, Bool.false_eq_true, if_false])

end Routed

/-- A frame whose signature is not asked for becomes the records of its pairs, if none lies in the future (R141). -/
theorem svAccept_plain {pairs : List SvPair} {j : ParseJob} {s : State} (hauth : ∀ p ∈ pairs, p.2.1.auth = false)
    (hfuture : ∀ p ∈ pairs,
      s.future (s.taiOfUtc (p.1.refrTm.getD 0 / 1000000000) (p.1.refrTm.getD 0 % 1000000000) j.stamp) j.stamp = false)
    (src : IngSrc) (f : SvFrame) :
    svAccept src j f pairs s = setJob src { j with recs := some (pairs.map fun p =>
      svRecord s j p.2.1 p.2.2.2 p.1 false false (s.stream p.2.1.stream).gen
        (s.taiOfUtc (p.1.refrTm.getD 0 / 1000000000) (p.1.refrTm.getD 0 % 1000000000) j.stamp)) } s := by
  have hnone : (pairs.filter fun p => p.2.1.auth) = [] := List.filter_eq_nil_iff.2 fun p hp => by simp [hauth p hp]
  have hpast : (pairs.any fun p => s.future (s.taiOfUtc (p.1.refrTm.getD 0 / 1000000000) (p.1.refrTm.getD 0 % 1000000000) j.stamp) j.stamp)
      = false := List.any_eq_false.2 fun p hp => by simp [hfuture p hp]
  unfold svAccept
  simp [hnone, hpast]

/-- A stream that demands authentication refuses a frame without it (R144). -/
theorem svAccept_unsigned {pairs : List SvPair} {f : SvFrame} (hauth : ∃ p ∈ pairs, p.2.1.auth = true) (halg : f.alg = 0 ∨ f.alg > 5)
    (src : IngSrc) (j : ParseJob) (s : State) : svAccept src j f pairs s = dropJob src j dropAuthNone false s := by
  have hsome : (pairs.filter fun p => p.2.1.auth) ≠ [] := by simpa [List.filter_eq_nil_iff] using hauth
  have hrefused (groups : List Nat) (k : Nat) : svVerify f groups k s = (some dropAuthNone, false, s) := by simp [svVerify, halg]
  unfold svAccept
  simp [hsome, hrefused]

/-- An excess of ASDUs is counted in registers and on the port's job (R547). -/
theorem jobExcess_port_ing (n : Fin 64) (j : ParseJob) (excess : Bool) (s : State) : (jobExcess (.port n) j excess s).ing = s.ing := by
  unfold jobExcess
  split
  · rfl
  · exact (dropRegs_kept dropExcess j.port j.tcp j.stamp j.slots false (Kept.refl _ s) (Nat.and_self _)).2.2.same .ing (by decide)

theorem ReadsAlike.svRecord {s t : State} (h : ReadsAlike s t) (hstreams : t.ing.streams = s.ing.streams) (j : ParseJob) (b : Binding)
    (ms : List SvMember) (a : SvAsdu) (auth revoked : Bool) (gen time : Nat) :
    svRecord t j b ms a auth revoked gen time = svRecord s j b ms a auth revoked gen time := by
  unfold Machine.svRecord State.svRate
  simp only [h.ingQual, stream_eq_of hstreams h.img]

/-! ### The statement -/

/-- Settles O26: each command reads its job once; a frame that passes its checks is read in the state it came to, as counting an excess
leaves alone what its records are made of. -/
theorem otherFrameRows : Obligations.OtherFrameRows := by
  refine ⟨?data, ?configuration, ?routed⟩
  case data =>
    intro n d j s hinv hjob hkind hrecs
    refine ⟨fun f rest hslots hrx => ⟨_, exec_ieee1344Data_unbound hjob hkind hrecs hslots, unboundHead_done hinv hrx⟩,
      fun r hslots hcommon => ⟨_, exec_ieee1344Data_dropped hjob hkind hrecs hslots hcommon, dropJob_reason (common1344_lt hcommon) ..⟩,
      fun c hslots hcommon hstate hcfg hblock => ?_⟩
    intro f x hfuture
    obtain ⟨b, l, hblocks, hlen⟩ := hblock
    exact ⟨_, exec_ieee1344Data_records hjob hkind hrecs hslots hcommon hstate hcfg hblocks hlen rfl hfuture,
      job_setJob hinv.ports_length (.port n) _⟩
  case configuration =>
    intro n ident so co c j s hinv hjob hkind hslots
    refine ⟨fun r hcommon => ⟨_, exec_ieee1344Cfg_dropped hjob hkind hslots hcommon c, dropJob_reason (common1344_lt hcommon) ..⟩,
      fun hcommon hrate hcfg3 hnew hlimits hfits hpolicy => ⟨_, exec_ieee1344Cfg hjob hkind hslots hcommon hcfg3, ?_⟩⟩
    exact congrArg StreamSt.waiting (offerCfg_waits (src := .port n) rfl hrate rfl rfl hnew hlimits hfits (.inl hpolicy))
  case routed =>
    intro n f j fr rest s hinv hjob hrx hkind hrecs pairs k time
    refine ⟨fun hunbound => ?_, fun hsi hid hpairs => ⟨fun r hcheck => ?_, fun hcheck => ?_⟩⟩
    · have hexec : exec (.routedSvFrame n f) s = .next (unboundHead n s) := by
        by_cases hsi : f.si = 0xA2
        · obtain ⟨hid, hpairs, hread⟩ := hunbound.resolve_left (not_not.2 hsi)
          exact exec_routedSv_unnamed hjob hkind hrecs hsi hid hpairs hread
        · exact exec_routedSv_otherSession hjob hkind hrecs hsi
      exact ⟨_, hexec, unboundHead_done hinv hrx⟩
    · exact ⟨_, exec_routedSv_dropped hjob hkind hrecs hsi hid hpairs hcheck, dropJob_reason (svCheck_lt hcheck) ..⟩
    · have hexec := exec_routedSv_accepted hjob hkind hrecs hsi hid hpairs hcheck
      set u := jobExcess (.port n) (svJob j (s.svPairs j f)) (decide (f.asdus.length > 8)) s
      have halike : ReadsAlike s u := jobExcess_alike ..
      have hstreams : u.ing.streams = s.ing.streams := congrArg Ingress.streams (jobExcess_port_ing ..)
      refine ⟨fun hauth hfuture => ?_, fun hauth halg => ?_⟩
      · refine ⟨_, hexec, ?_⟩
        rw [svAccept_plain hauth fun p hp => by rw [halike.taiOfUtc, halike.future]; exact hfuture p hp]
        simp only [halike.taiOfUtc, halike.svRecord hstreams, stream_eq_of hstreams halike.img]
        exact job_setJob (jobExcess_ports hinv.ports_length ..) (.port n) _
      · refine ⟨_, hexec, ?_⟩
        rw [svAccept_unsigned hauth halg]
        exact dropJob_reason (by decide) ..

end Sys2Proof.Machine
end

section
/-!
PROOFS. Scope: the decision on a record of a direct slot (R155, R156, R167, R178 to R181, R186).
-/

namespace Sys2Proof.Machine

/-! ### What the decision on a record reads -/

/-- The states agree in what leads a record to its cell: registers, Clave's data, the images and the swap between them, the columns, and the
streams' configurations. Statistics, traces and the arrivals may differ. -/
structure DecidesAlike (s t : State) : Prop where
  regs : t.regs = s.regs
  clv : t.clv = s.clv
  img : t.img = s.img
  oldImg : t.oldImg = s.oldImg
  swap : t.swap = s.swap
  swapTick : t.swapTick = s.swapTick
  cols : t.pgh.cols = s.pgh.cols
  rates : t.pgh.rates = s.pgh.rates
  streams : t.ing.streams = s.ing.streams

namespace DecidesAlike

theorem refl (s : State) : DecidesAlike s s := ⟨rfl, rfl, rfl, rfl, rfl, rfl, rfl, rfl, rfl⟩

variable {s t : State} (h : DecidesAlike s t)
include h

theorem trans {u : State} (k : DecidesAlike t u) : DecidesAlike s u :=
  ⟨k.regs.trans h.regs, k.clv.trans h.clv, k.img.trans h.img, k.oldImg.trans h.oldImg, k.swap.trans h.swap, k.swapTick.trans h.swapTick,
    k.cols.trans h.cols, k.rates.trans h.rates, k.streams.trans h.streams⟩

theorem rd (f : Fld) : t.rd f = s.rd f := by
  unfold State.rd
  rw [h.regs]

theorem ticking : t.ticking = s.ticking := on_eq_of_rd (h.rd _)

theorem rate : t.rate = s.rate := by
  unfold State.rate
  rw [h.img]

theorem rateAt (x : Nat) : t.rateAt x = s.rateAt x := by
  unfold State.rateAt
  rw [h.rates, h.rate]

theorem tickInst (n : Nat) : t.tickInst n = s.tickInst n := by
  unfold State.tickInst
  rw [h.rates, h.clv, h.rate]

theorem succTick (n : Nat) : t.succTick n = s.succTick n := by
  unfold State.succTick
  rw [h.rates, h.clv]

theorem nearestTick (x : Nat) : t.nearestTick x = s.nearestTick x := by
  simp only [State.nearestTick, h.rateAt, h.tickInst, h.succTick]

theorem tolerance (b : Binding) : t.tolerance b = s.tolerance b := by
  unfold State.tolerance
  rw [stream_eq_of h.streams h.img, h.rd]

theorem recRate (b : Binding) (r : SlotRecord) : t.recRate b r = s.recRate b r := by
  unfold State.recRate State.cfgRateOf
  rw [stream_eq_of h.streams h.img, h.rate]

theorem imgAt (n : Nat) : t.imgAt n = s.imgAt n := by
  simp only [State.imgAt, h.swap, h.oldImg, h.img, h.swapTick, h.tickInst]

theorem skips (n : Nat) : t.skips n = s.skips n := by
  unfold State.skips
  rw [h.clv]

theorem swapBars (r : SlotRecord) (n : Nat) : t.swapBars r n = s.swapBars r n := by
  simp only [State.swapBars, h.swap, h.img, h.oldImg, h.swapTick, h.tickInst, h.imgAt]

theorem col? (n : Nat) : t.col? n = s.col? n := by
  unfold State.col?
  rw [h.cols]

end DecidesAlike

/-- The state with these records at the decision point. -/
def State.setArrivals (s : State) (l : List SlotRecord) : State := s.setIng { s.ing with arrivals := l }

theorem setArrivals_alike (s : State) (l : List SlotRecord) : DecidesAlike s (s.setArrivals l) := ⟨rfl, rfl, rfl, rfl, rfl, rfl, rfl, rfl, rfl⟩

theorem popArrival_cons {r : SlotRecord} {rest : List SlotRecord} {s : State} (h : s.ing.arrivals = r :: rest) :
    popArrival s = some (r, s.setArrivals rest) := by
  rw [popArrival, h]
  rfl

theorem touchSlot_alike (r : SlotRecord) (s : State) : DecidesAlike s (touchSlot r s) := ⟨rfl, rfl, rfl, rfl, rfl, rfl, rfl, rfl, rfl⟩

theorem traceStore_alike (slot ing tick what : Nat) (s : State) : DecidesAlike s (traceStore slot ing tick what s) :=
  ⟨rfl, rfl, rfl, rfl, rfl, rfl, rfl, rfl, rfl⟩

/-- Learning changes a slot's statistics only (R159). -/
theorem learnArrival_alike (r : SlotRecord) (n : Nat) (s : State) : DecidesAlike s (learnArrival r n s) := by
  unfold learnArrival
  split
  · exact .refl s
  · dsimp only
    split
    · exact .refl s
    · exact ⟨rfl, rfl, rfl, rfl, rfl, rfl, rfl, rfl, rfl⟩

/-! ### Columns and cells -/

theorem cell_of_col? {s : State} {n : Nat} {c : Column} (h : s.col? n = some c) (slot : Nat) : s.cell n slot = cellOf c slot := by
  rw [State.cell, h]

theorem col?_eq_of {s t : State} (h : t.pgh = s.pgh) (n : Nat) : t.col? n = s.col? n := by
  unfold State.col?
  rw [h]

theorem cell_eq_of {s t : State} (h : t.pgh = s.pgh) (n slot : Nat) : t.cell n slot = s.cell n slot := by
  unfold State.cell
  rw [col?_eq_of h]

theorem tick_of_col? {s : State} {n : Nat} {c : Column} (h : s.col? n = some c) : c.tick = n := by simpa using List.find?_some h

/-- What `setCol d` makes of an open column. -/
def replaceCol (d x : Column) : Column := if x.tick = d.tick then d else x

theorem replaceCol_tick (d x : Column) : (replaceCol d x).tick = x.tick := by
  unfold replaceCol
  split
  case isTrue e => exact e.symm
  case isFalse => rfl

/-- The columns of one tick all become the one that is put there. -/
theorem col?_setCol {s : State} {n : Nat} {c d : Column} (h : s.col? n = some c) (hd : d.tick = n) : (s.setCol d).col? n = some d := by
  have hsame : (fun x : Column => decide (x.tick = n)) ∘ replaceCol d = fun x => decide (x.tick = n) :=
    funext fun x => by rw [Function.comp_apply, replaceCol_tick]
  have hput : replaceCol d c = d := if_pos ((tick_of_col? h).trans hd.symm)
  calc (s.setCol d).col? n = (s.pgh.cols.map (replaceCol d)).find? fun x => x.tick = n := rfl
    _ = (s.col? n).map (replaceCol d) := by rw [List.find?_map, hsame, State.col?]
    _ = some d := by rw [h, Option.map_some, hput]

theorem cell_setCol {s : State} {n : Nat} {c d : Column} (h : s.col? n = some c) (hd : d.tick = n) (slot : Nat) :
    (s.setCol d).cell n slot = cellOf d slot := cell_of_col? (col?_setCol h hd) slot

theorem cellOf_putCell_self (c : Column) (slot : Nat) (x : Cell) : cellOf (putCell c slot x) slot = x := smGet_smSet_self ..

theorem eccWrite_pgh (target index : Nat) (s : State) : (s.eccWrite target index).pgh = s.pgh :=
  (st_eccWrite_kept target index (Kept.refl _ s) (Nat.and_self _)).2.2.same .pgh (by decide)

/-- A cell of an open column reads what was written to it. -/
theorem cell_setCell_self {s : State} {n : Nat} {c : Column} (h : s.col? n = some c) (slot : Nat) (x : Cell) :
    (s.setCell n slot x).cell n slot = x := by
  rw [State.setCell, h]
  dsimp only
  rw [cell_eq_of (eccWrite_pgh ..), cell_setCol (d := putCell c slot x) h (show c.tick = n from tick_of_col? h), cellOf_putCell_self]

theorem setCell_rd {f : Fld} (hf : f.block ≠ 0x12) (n slot : Nat) (x : Cell) (s : State) : (s.setCell n slot x).rd f = s.rd f := by
  unfold State.setCell
  split
  · exact eccWrite_regs 2 0 _ f (by simpa using hf)
  · rfl

/-! ### The decision on a record for an open column (R156) -/

theorem post_pgh (code : Nat) (payload : Bytes) (s : State) : (post code payload s).pgh = s.pgh :=
  (post_kept code payload (Kept.refl _ s) (Nat.and_self _)).2.2.same .pgh (by decide)

theorem ev_pgh (e n : Nat) (s : State) : (State.ev e s n).pgh = s.pgh := by
  obtain ⟨p, hp⟩ := ev_eq_setPmc e n s
  rw [hp]
  rfl

/-- An event counted, and with it a counter of the unit and one of a group. -/
theorem rd_inc_inc_ev {f g : Fld} (h : f.key ≠ g.key) (e : Nat) (s : State) :
    (((s.ev e).inc f).inc g).rd f = satAdd f.w (s.rd f) 1 := by
  rw [show (((s.ev e).inc f).inc g).rd f = ((s.ev e).inc f).rd f from State.rd_wr_ne _ h _, rd_inc_self, ev_rd]

theorem onTimeKey_ne (g : Nat) : fPGH_ONTIME_CNT_RECORDS.key ≠ (fPGH_GRP_ONTIME_CNT_RECORDS g).key := by
  change 0x40020 * 32 + 0 ≠ (0x4010C + 32 * g) * 32 + 0
  omega

theorem lateKey_ne (g : Nat) : fPGH_LATE_CNT_RECORDS.key ≠ (fPGH_GRP_LATE_CNT_RECORDS g).key := by
  change 0x40028 * 32 + 0 ≠ (0x40114 + 32 * g) * 32 + 0
  omega

/-- The cell of a record that came in time. -/
def presentCell (r : SlotRecord) (c : Column) : Cell :=
  { cellOf c r.slot with state := 1, rec? := some r, arrival := arrivalOf r c.inst, ready := 1 }

/-- The cell of a late record that its group's path takes, marked LATE and on path 2 AMEND (R181). -/
def lateCell (r : SlotRecord) (c : Column) (path : Nat) : Cell :=
  { cellOf c r.slot with
    state := 3, arrival := arrivalOf r c.inst,
    rec? := some { r with qual := r.qual % 2 ^ 29 + 2 ^ 30 + (if path = 2 then 2 ^ 29 else 0) } }

section Decide

variable {r : SlotRecord} {c : Column} {g : Nat} {s : State} (hcol : s.col? c.tick = some c)

include hcol in
/-- A late record that was not in transit is counted, and fills the cell unless the path discards it (R181). -/
theorem lateRecord_effect (path : Nat) :
    (lateRecord r c g path false s).rd fPGH_LATE_CNT_RECORDS = satAdd 32 (s.rd fPGH_LATE_CNT_RECORDS) 1 ∧
      (lateRecord r c g path false s).cell c.tick r.slot = if path = 0 then cellOf c r.slot else lateCell r c path := by
  set v := ((s.ev 0x34A).inc fPGH_LATE_CNT_RECORDS).inc (fPGH_GRP_LATE_CNT_RECORDS g) with hv
  have hcount : v.rd fPGH_LATE_CNT_RECORDS = satAdd 32 (s.rd fPGH_LATE_CNT_RECORDS) 1 := rd_inc_inc_ev (lateKey_ne g) ..
  have hvcol : v.col? c.tick = some c := (col?_eq_of (ev_pgh ..) _).trans hcol
  by_cases hpath : path = 0
  · have hdiscard : lateRecord r c g path false s = v := if_pos hpath
    rw [hdiscard, if_pos hpath]
    exact ⟨hcount, cell_of_col? hvcol _⟩
  · set d := putCell c r.slot (lateCell r c path)
    have htake : lateRecord r c g path false s = v.setCol (if path = 2 then { d with gained := d.gained ++ [r.slot] } else d) := by
      unfold lateRecord
      rw [if_neg Bool.false_ne_true]
      dsimp only
      rw [if_neg hpath, ← hv, hvcol]
      rfl
    have hcell : cellOf d r.slot = lateCell r c path := cellOf_putCell_self ..
    rw [htake, if_neg hpath]
    split
    · exact ⟨hcount, (cell_setCol hvcol (by rfl) _).trans hcell⟩
    · exact ⟨hcount, (cell_setCol hvcol (by rfl) _).trans hcell⟩

variable (h1 : (cellOf c r.slot).state ≠ 1) (h3 : (cellOf c r.slot).state ≠ 3) (hlost : (cellOf c r.slot).lost = false)
include h1 h3 hlost

theorem decideRecord_of_inTime (hin : r.ingTime < closeAt c g ∨ c.win = none) (hdone : c.done.contains g = false) :
    decideRecord r c g s = (traceStore r.slot r.ingTime c.tick 0 ((((learnArrival r c.tick s).ev 0x348).inc fPGH_ONTIME_CNT_RECORDS).inc
      (fPGH_GRP_ONTIME_CNT_RECORDS g))).setCell c.tick r.slot (presentCell r c) := by
  have hin' : (decide (r.ingTime < closeAt c g) || c.win.isNone) = true := by simpa using hin
  unfold decideRecord
  dsimp only
  rw [if_neg (by simp [h1, h3]), if_neg (by simp [hlost]), if_pos (by rw [hin', hdone]; rfl)]
  rfl

theorem decideRecord_of_late (hlate : r.ingTime ≥ closeAt c g) (hwin : c.win.isSome = true) :
    decideRecord r c g s = lateRecord r c g (groupOf (s.imgAt c.tick) g).latePath false
      (traceStore r.slot r.ingTime c.tick 1 (learnArrival r c.tick s)) := by
  have hnone : c.win.isNone = false := by rw [← Option.not_isSome, hwin, Bool.not_true]
  have hin : (decide (r.ingTime < closeAt c g) || c.win.isNone) = false := by rw [hnone, decide_eq_false (Nat.not_lt.2 hlate)]; rfl
  unfold decideRecord
  dsimp only
  rw [hin, if_neg (by simp [h1, h3]), if_neg (by simp [hlost]), if_neg (by simp), (learnArrival_alike ..).imgAt]

include hcol

/-- A record before its group's close fills its empty cell (R155, R167). -/
theorem decideRecord_present (hin : r.ingTime < closeAt c g ∨ c.win = none) (hdone : c.done.contains g = false) :
    (decideRecord r c g s).cell c.tick r.slot = presentCell r c ∧
      (decideRecord r c g s).rd fPGH_ONTIME_CNT_RECORDS = satAdd 32 (s.rd fPGH_ONTIME_CNT_RECORDS) 1 := by
  have hlearn := learnArrival_alike r c.tick s
  have hopen : ((learnArrival r c.tick s).ev 0x348).col? c.tick = some c := (col?_eq_of (ev_pgh ..) _).trans ((hlearn.col? _).trans hcol)
  rw [decideRecord_of_inTime h1 h3 hlost hin hdone]
  refine ⟨cell_setCell_self (c := c) ?_ .., ?_⟩
  · rw [(traceStore_alike ..).col?]
    exact hopen
  · rw [setCell_rd (by decide), (traceStore_alike ..).rd, rd_inc_inc_ev (onTimeKey_ne g), hlearn.rd]

/-- A record at or after its group's close takes the path that the group gives late records (R181). -/
theorem decideRecord_late (hlate : r.ingTime ≥ closeAt c g) (hwin : c.win.isSome = true) :
    let path := (groupOf (s.imgAt c.tick) g).latePath
    (decideRecord r c g s).rd fPGH_LATE_CNT_RECORDS = satAdd 32 (s.rd fPGH_LATE_CNT_RECORDS) 1 ∧
      (decideRecord r c g s).cell c.tick r.slot = if path = 0 then cellOf c r.slot else lateCell r c path := by
  have halike := (learnArrival_alike r c.tick s).trans (traceStore_alike r.slot r.ingTime c.tick 1 _)
  rw [decideRecord_of_late h1 h3 hlost hlate hwin, ← halike.rd]
  exact lateRecord_effect ((halike.col? _).trans hcol) _

end Decide

/-- The cell of a record that comes again (R180). -/
def duplicateCell (r : SlotRecord) (c : Column) (g : Nat) (x : Cell) : Cell :=
  let conflict := x.rec?.any fun h => !sameData h r
  { x with
    dups := min 3 (x.dups + 1), conflict := x.conflict || conflict,
    rec? := x.rec?.map fun h =>
      if conflict && !c.done.contains g && !h.qual.testBit 26 then { h with qual := h.qual + 2 ^ 26 } else h }

theorem duplicate_eq (r : SlotRecord) (c : Column) (x : Cell) (g : Nat) (s : State) :
    duplicate r c x g s = countDup r.slot c.tick (x.rec?.any fun h => !sameData h r) (s.setCell c.tick r.slot (duplicateCell r c g x)) := by
  unfold duplicate duplicateCell
  cases x.rec? <;> rfl

theorem duplicateCell_conflict (r : SlotRecord) (c : Column) (g : Nat) (x : Cell) :
    (duplicateCell r c g x).conflict = true ↔ x.conflict = true ∨ ∃ h, x.rec? = some h ∧ sameData h r = false := by
  simp [duplicateCell, Option.any_eq_true]

/-- A duplicate is counted; one that conflicts is counted and recorded beside. -/
theorem countDup_effect (slot n : Nat) (conflict : Bool) (s : State) :
    (countDup slot n conflict s).pgh = s.pgh ∧
      (countDup slot n conflict s).rd fPGH_DUP_CNT_RECORDS = satAdd 32 (s.rd fPGH_DUP_CNT_RECORDS) 1 := by
  set u := (s.ev 0x34C).inc fPGH_DUP_CNT_RECORDS with hu
  have hpgh : u.pgh = s.pgh := ev_pgh ..
  have hcount : u.rd fPGH_DUP_CNT_RECORDS = satAdd 32 (s.rd fPGH_DUP_CNT_RECORDS) 1 := by rw [hu, rd_inc_self, ev_rd]
  unfold countDup
  cases conflict with
  | false => exact ⟨hpgh, hcount⟩
  | true =>
    refine ⟨(post_pgh ..).trans hpgh, (post_rd _ _ _ (by decide)).trans ?_⟩
    rw [rd_flag (by decide)]
    exact (State.rd_wr_ne _ (by decide) _).trans hcount

/-- A record for a cell that holds one is counted as a duplicate there (R180). -/
theorem decideRecord_duplicate {r : SlotRecord} {c : Column} {s : State} (hcol : s.col? c.tick = some c)
    (hheld : (cellOf c r.slot).state = 1 ∨ (cellOf c r.slot).state = 3) (g : Nat) :
    (decideRecord r c g s).rd fPGH_DUP_CNT_RECORDS = satAdd 32 (s.rd fPGH_DUP_CNT_RECORDS) 1 ∧
      (decideRecord r c g s).cell c.tick r.slot = duplicateCell r c g (cellOf c r.slot) := by
  have heq : decideRecord r c g s = duplicate r c (cellOf c r.slot) g (traceStore r.slot r.ingTime c.tick 3 s) :=
    if_pos (by simpa using hheld)
  rw [heq, duplicate_eq]
  obtain ⟨hpgh, hcount⟩ := countDup_effect r.slot c.tick ((cellOf c r.slot).rec?.any fun h => !sameData h r)
    ((traceStore r.slot r.ingTime c.tick 3 s).setCell c.tick r.slot (duplicateCell r c g (cellOf c r.slot)))
  rw [hcount, cell_eq_of hpgh, setCell_rd (by decide), (traceStore_alike ..).rd]
  exact ⟨rfl, cell_setCell_self (((traceStore_alike ..).col? _).trans hcol) ..⟩

/-! ### RECORD_ARRIVAL (R156) -/

/-- The record lies on the grid: a resampled and a local one do, another within the tolerance of its tick (R178, R179). -/
def onGrid (s : State) (b : Binding) (r : SlotRecord) : Prop :=
  let x := s.tickInst (s.nearestTick r.srcTime)
  r.qual.testBit 28 = true ∨ b.fmt = .localRef ∨ (x - r.srcTime) + (r.srcTime - x) ≤ s.tolerance b

theorem DecidesAlike.onGrid {s t : State} (h : DecidesAlike s t) {b : Binding} {r : SlotRecord} (hgrid : onGrid s b r) : onGrid t b r := by
  unfold Machine.onGrid
  rwa [h.nearestTick, h.tickInst, h.tolerance]

theorem recordArrival_onGrid {s : State} {r : SlotRecord} {b : Binding} (hgrid : onGrid s b r) :
    recordArrival r b s = arrive r (s.nearestTick r.srcTime) b.group s := by
  unfold recordArrival
  split
  · rfl
  · next hfree =>
    obtain ⟨hbit, hfmt⟩ : r.qual.testBit 28 = false ∧ b.fmt ≠ .localRef := by simpa using hfree
    have hnear := (hgrid.resolve_left (by simp [hbit])).resolve_left hfmt
    dsimp only
    rw [if_neg (Nat.not_lt.2 hnear)]
    exact ite_self _

theorem arrive_column {s : State} {r : SlotRecord} {n : Nat} {b' : Binding} {c : Column} (htick : s.ticking = true) (hskip : s.skips n = false)
    (hswap : s.swapBars r n = false) (hbind : bindingOf (s.imgAt n) r.slot = some b') (hcol : s.col? n = some c) (g : Nat) :
    arrive r n g s = decideRecord r c b'.group (touchSlot r s) := by
  have halike := touchSlot_alike r s
  unfold arrive
  dsimp only
  rw [htick, halike.skips, hskip, halike.swapBars, hswap, halike.imgAt, hbind, halike.col?, hcol]
  rfl

theorem refreshInst_regs (i : Inst) (s : State) : (refreshInst i s).regs = s.regs :=
  (refreshInst_kept i (Kept.refl _ s) (Nat.and_self _)).2.2.same .regs (by decide)

theorem tmbRefresh_regs (s : State) : RegsOut [0x05] s (tmbRefresh s) := by
  unfold tmbRefresh tmbSync
  refine regsOut_wrB _ (regsOut_wr _ (regsOut_wr _ (regsOut_wr _ ?_ (by decide)) (by decide)) (by decide)) (by decide)
  exact regsOut_foldl (regsOut_refl _ s) fun t i _ h => regsOut_regs h (refreshInst_regs i t)

/-- TMB_STS and the items' readiness follow a decision; columns and arrivals stay as it left them. -/
theorem tmbRefresh_effect (s : State) : (tmbRefresh s).pgh = s.pgh ∧ (tmbRefresh s).ing = s.ing ∧
    ∀ f : Fld, f.block ≠ 0x05 → (tmbRefresh s).rd f = s.rd f := by
  have hkept := (tmbRefresh_kept (Kept.refl _ s) (Nat.and_self _)).2.2
  exact ⟨hkept.same .pgh (by decide), hkept.same .ing (by decide), fun f hf => tmbRefresh_regs s f (by simpa using hf)⟩

/-- A record on the grid for an open column is decided on there, in a state that agrees with `s`. -/
theorem exec_recordArrival_column {r : SlotRecord} {rest : List SlotRecord} {b b' : Binding} {c : Column} {s : State}
    (harr : s.ing.arrivals = r :: rest) (hslot : s.slotBinding? r.slot = some b) (hdirect : forResampler s r b = false)
    (htick : s.ticking = true) (hgrid : onGrid s b r) (hskip : s.skips (s.nearestTick r.srcTime) = false)
    (hswap : s.swapBars r (s.nearestTick r.srcTime) = false) (hbind : bindingOf (s.imgAt (s.nearestTick r.srcTime)) r.slot = some b')
    (hcol : s.col? (s.nearestTick r.srcTime) = some c) :
    ∃ u t, DecidesAlike s u ∧ exec .recordArrival s = .next t ∧ t.ing.arrivals = rest ∧ t.pgh = (decideRecord r c b'.group u).pgh ∧
      ∀ f : Fld, f.block ≠ 0x05 → t.rd f = (decideRecord r c b'.group u).rd f := by
  have halike := setArrivals_alike s rest
  set u := touchSlot r (s.setArrivals rest)
  have harrive : recordArrival r b (s.setArrivals rest) = decideRecord r c b'.group u := by
    rw [recordArrival_onGrid (halike.onGrid hgrid), halike.nearestTick]
    exact arrive_column (halike.ticking.trans htick) ((halike.skips _).trans hskip) ((halike.swapBars ..).trans hswap)
      (halike.imgAt _ ▸ hbind) ((halike.col? _).trans hcol) _
  have hexec : exec .recordArrival s = .next (tmbRefresh (recordArrival r b (s.setArrivals rest))) := by
    refine congrArg Host.Outcome.next ?_
    rw [popArrival_cons harr]
    dsimp only
    rw [hslot]
    dsimp only
    rw [hdirect]
    rfl
  obtain ⟨hpgh, hing, hrd⟩ := tmbRefresh_effect (decideRecord r c b'.group u)
  have hdecide : (decideRecord r c b'.group u).ing = u.ing :=
    (decideRecord_kept r c b'.group (Kept.refl _ u) (Nat.and_self _)).2.2.same .ing (by decide)
  refine ⟨u, _, halike.trans (touchSlot_alike ..), harrive ▸ hexec, ?_, hpgh, hrd⟩
  rw [hing, hdecide]
  rfl

end Sys2Proof.Machine
end

section
/-!
PROOFS. Scope: the resampler's inputs (R171, R175, R178), and the rows of the decision on a record (R155, R156, R167, R171, R175, R180, R181).
-/

namespace Sys2Proof.Machine

/-! ### The history of a resampled slot (R171, R172, R175) -/

theorem hist_setHist_self (s : State) (slot : Nat) (h : RsmpHist) : (s.setHist slot h).hist slot = h := smGet_smSet_self ..

theorem rsmpTaps_two_le (m : RsmpMode) : 2 ≤ (rsmpTaps m).1 + (rsmpTaps m).2 + 1 := by cases m <;> decide

/-- The instant of the input that lies nearest a record (R171). -/
def gridInst (s : State) (b : Binding) (r : SlotRecord) : Int :=
  inputInst (s.recRate b r) b.offsetNs (inputAt (s.recRate b r) b.offsetNs (r.srcTime + 500000000 / s.recRate b r))

theorem find?_lone_inj {α : Type} {x : α} {key : α → Nat} {i k : Nat} (hi : ([x].find? fun y => key y = i).isSome = true)
    (hk : ([x].find? fun y => key y = k).isSome = true) : i = k := by
  simp only [List.find?_isSome, List.mem_singleton, exists_eq_left, decide_eq_true_eq] at hi hk
  exact hi.symm.trans hk

/-- No output has all its taps in a history of one record: two taps of an output are two inputs. -/
theorem rsmpOutputs_of_lone {b : Binding} {s : State} {x : SlotRecord} (hlone : (s.hist b.slot).recs = [x]) (r : SlotRecord) :
    rsmpOutputs b r s = s := by
  have htaps := rsmpTaps_two_le b.rsmp
  unfold rsmpOutputs
  dsimp only
  rw [hlone]
  set before := (rsmpTaps b.rsmp).1
  set after := (rsmpTaps b.rsmp).2
  set j := inputAt (s.recRate b r) b.offsetNs (r.srcTime + 500000000 / s.recRate b r) - after
  split
  · rfl
  · refine if_pos ?_
    rw [Bool.or_eq_true, decide_eq_true_eq, decide_eq_true_eq]
    by_contra hall
    obtain ⟨hj, hlen⟩ := not_or.1 hall
    have hheld := List.filterMap_length_eq_length.1 ((not_not.1 hlen).trans (by simp))
    have hfirst := hheld _ (List.mem_map_of_mem (List.mem_range.2 (show 0 < before + after + 1 by omega)))
    have hsecond := hheld _ (List.mem_map_of_mem (List.mem_range.2 (show 1 < before + after + 1 by omega)))
    have hsame : j + 0 - before = j + 1 - before := find?_lone_inj hfirst hsecond
    omega

/-- The first record of a slot's history: it is all that the history then holds. -/
theorem rsmpInput_first {r : SlotRecord} {b : Binding} {s : State}
    (hgrid : ((r.srcTime : Int) - gridInst s b r).natAbs ≤ s.tolerance b) (hgen : r.cfgGen = (s.stream b.stream).gen)
    (hempty : (s.hist b.slot).recs = []) :
    rsmpInput r b s = (traceStore r.slot r.ingTime (s.nearestTick r.srcTime) 4 s).setHist b.slot { s.hist b.slot with recs := [r] } := by
  unfold rsmpInput
  dsimp only
  rw [← gridInst, if_neg (Nat.not_lt.2 hgrid), if_neg (not_not.2 hgen), hempty]
  exact rsmpOutputs_of_lone (congrArg RsmpHist.recs (hist_setHist_self ..)) r

/-- A record of another generation than the stream's enters no history (R175). -/
theorem rsmpInput_otherGen {r : SlotRecord} {b : Binding} {s : State}
    (hgrid : ((r.srcTime : Int) - gridInst s b r).natAbs ≤ s.tolerance b) (hgen : r.cfgGen ≠ (s.stream b.stream).gen) :
    rsmpInput r b s = s := by
  unfold rsmpInput
  dsimp only
  rw [← gridInst, if_neg (Nat.not_lt.2 hgrid), if_pos hgen]

theorem rsmpInput_offGrid {r : SlotRecord} {b : Binding} {s : State}
    (hgrid : ((r.srcTime : Int) - gridInst s b r).natAbs > s.tolerance b) :
    rsmpInput r b s = offGrid r (s.nearestTick r.srcTime) s := if_pos hgrid

/-- A record off the grid is counted (R178). -/
theorem offGrid_count (r : SlotRecord) (n : Nat) (s : State) :
    (offGrid r n s).rd fPGH_OFFGRID_CNT_RECORDS = satAdd 32 (s.rd fPGH_OFFGRID_CNT_RECORDS) 1 := by
  set u := ((traceStore r.slot r.ingTime n 2 s).inc fPGH_OFFGRID_CNT_RECORDS).flag fPGH_FLT_FLAGS 5 with hu
  have hcount : u.rd fPGH_OFFGRID_CNT_RECORDS = satAdd 32 (s.rd fPGH_OFFGRID_CNT_RECORDS) 1 := by
    rw [hu, rd_flag (by decide), rd_inc_self, (traceStore_alike ..).rd]
  unfold offGrid
  dsimp only
  split
  · exact hcount
  · exact (post_rd _ _ _ (by decide)).trans hcount

theorem exec_resamplerInput {r : SlotRecord} {rest : List SlotRecord} {b : Binding} {s : State} (harr : s.ing.arrivals = r :: rest)
    (hslot : s.slotBinding? r.slot = some b) (hresampled : forResampler s r b = true) :
    exec .resamplerInput s = .next (rsmpInput r b (s.setArrivals rest)) := by
  refine congrArg Host.Outcome.next ?_
  rw [popArrival_cons harr]
  dsimp only
  rw [hslot]
  dsimp only
  rw [if_pos hresampled]

/-! ### The statement -/

/-- Settles O28: RECORD_ARRIVAL of a record on the grid is the decision on it at its tick's column, and RESAMPLER_INPUT adds the first record
to an empty history, from which no output follows; that one of an earlier generation enters none is the model's reading (log entry 49). -/
theorem recordRows : Obligations.RecordRows := by
  refine ⟨?direct, ?resampled⟩
  case direct =>
    intro r rest b b' c s harr hslot hdirect htick n hgrid hskip hswap hbind hcol x
    obtain ⟨u, t, halike, hexec, hrest, hpgh, hrd⟩ := exec_recordArrival_column harr hslot hdirect htick hgrid hskip hswap hbind hcol
    have hn : c.tick = n := tick_of_col? hcol
    have hucol : u.col? c.tick = some c := by rw [halike.col?, hn, hcol]
    refine ⟨fun h1 h3 hlost => ⟨fun hin hdone => ?_, fun hlate hwin => ?_⟩, fun hheld => ?_⟩
    · obtain ⟨hcell, hcount⟩ := decideRecord_present hucol h1 h3 hlost hin hdone
      refine ⟨t, hexec, hrest, ?_, ?_⟩
      · rw [cell_eq_of hpgh, ← hn, hcell]
        rfl
      · rw [hrd _ (by decide), hcount, halike.rd]
    · obtain ⟨hcount, hcell⟩ := decideRecord_late hucol h1 h3 hlost hlate hwin
      refine ⟨t, hexec, hrest, ?_, ?_⟩
      · rw [hrd _ (by decide), hcount, halike.rd]
      · rw [cell_eq_of hpgh, ← hn, hcell, halike.imgAt]
        rfl
    · obtain ⟨hcount, hcell⟩ := decideRecord_duplicate hucol hheld b'.group
      refine ⟨t, hexec, hrest, ?_⟩
      rw [hrd _ (by decide), hcount, halike.rd, cell_eq_of hpgh, ← hn, hcell, duplicateCell_conflict]
      exact ⟨rfl, rfl, rfl, Iff.rfl⟩
  case resampled =>
    intro r rest b s harr hslot hresampled _ rIn x
    have hexec := exec_resamplerInput harr hslot hresampled
    have halike := setArrivals_alike s rest
    have htol := halike.tolerance b
    have hx : gridInst (s.setArrivals rest) b r = x := by rw [gridInst, halike.recRate]
    have hgen := congrArg StreamSt.gen (stream_eq_of halike.streams halike.img b.stream)
    refine ⟨fun hgrid hsame hempty => ⟨_, hexec, ?_⟩, fun hgrid hother => ⟨_, hexec, ?_⟩, fun hoff => ⟨_, hexec, ?_⟩⟩
    · rw [rsmpInput_first (by rwa [hx, htol]) (hsame.trans hgen.symm) hempty]
      exact ⟨rfl, congrArg RsmpHist.recs (hist_setHist_self ..)⟩
    · rw [rsmpInput_otherGen (by rwa [hx, htol]) (hgen ▸ hother)]
      exact ⟨rfl, rfl⟩
    · have hkept := (offGrid_kept r ((s.setArrivals rest).nearestTick r.srcTime) (Kept.refl _ (s.setArrivals rest)) (Nat.and_self _)).2.2
      rw [rsmpInput_offGrid (by rwa [hx, htol])]
      exact ⟨congrArg Ingress.arrivals (hkept.same .ing (by decide)), (offGrid_count ..).trans (by rw [halike.rd])⟩

end Sys2Proof.Machine
end

section
/-!
PROOFS. Scope: the table's instances and the runs of their items (R191, R195, R197), what a running item's kernel leaves (R207, R209), and the
kernels that compute from their operands alone (R219).
-/

namespace Sys2Proof.Machine

/-! ### Instances and runs (R191, R197) -/

theorem tick_of_inst {s : State} {n : Nat} {i : Inst} (h : s.inst? n = some i) : i.tick = n := by simpa using List.find?_some h

theorem inst_eq_of_tmb {s t : State} (h : t.tmb = s.tmb) (n : Nat) : t.inst? n = s.inst? n := by
  unfold State.inst?
  rw [h]

/-- An `Inst` reads as it was put. -/
theorem inst_setInst_self {s : State} {n : Nat} {i i' : Inst} (h : s.inst? n = some i) (htick : i'.tick = n) :
    (s.setInst i').inst? n = some i' := by
  unfold State.inst? at h
  change (s.tmb.insts.map _).find? _ = _
  generalize s.tmb.insts = l at h
  induction l with
  | nil => cases h
  | cons x xs ih =>
    rw [List.map_cons]
    by_cases hx : x.tick = n
    · rw [if_pos (hx.trans htick.symm), List.find?_cons_of_pos (by simpa using htick)]
    · rw [List.find?_cons_of_neg (by simpa using hx)] at h
      rw [if_neg (htick ▸ hx), List.find?_cons_of_neg (by simpa using hx)]
      exact ih h

/-- Putting an `Inst` leaves those of other ticks alone. -/
theorem inst_setInst_ne {i : Inst} {n : Nat} (hn : i.tick ≠ n) (s : State) : (s.setInst i).inst? n = s.inst? n := by
  change (s.tmb.insts.map _).find? _ = s.tmb.insts.find? _
  induction s.tmb.insts with
  | nil => rfl
  | cons x xs ih =>
    rw [List.map_cons]
    by_cases hx : x.tick = n
    · rw [if_neg (fun e => hn (e.symm.trans hx)), List.find?_cons_of_pos (by simpa using hx), List.find?_cons_of_pos (by simpa using hx)]
    · have hput : (if x.tick = i.tick then i else x).tick ≠ n := by split <;> assumption
      rw [List.find?_cons_of_neg (by simpa using hput), List.find?_cons_of_neg (by simpa using hx), ih]

/-- Every `Inst` of its tick reads as it was put. -/
theorem mem_setInst {s : State} {i i' : Inst} (h : i' ∈ (s.setInst i).tmb.insts) : i' = i ∨ i' ∈ s.tmb.insts ∧ i'.tick ≠ i.tick := by
  obtain ⟨x, hx, rfl⟩ := List.mem_map.1 h
  split
  case isTrue => exact .inl rfl
  case isFalse hne => exact .inr ⟨hx, hne⟩

theorem setRun_tick (i : Inst) (j : Nat) (r : ItemRun) : (setRun i j r).tick = i.tick := rfl

theorem runOf_setRun (i : Inst) (j k : Nat) (r : ItemRun) :
    runOf (setRun i j r) k = if k = j ∧ j < i.runs.length then r else runOf i k := by
  unfold runOf setRun
  rw [List.getD_eq_getElem?_getD, List.getD_eq_getElem?_getD, List.getElem?_set]
  by_cases hk : j = k
  · subst hk
    by_cases hj : j < i.runs.length
    · simp [hj]
    · simp [hj]
  · simp [hk, Ne.symm hk]

theorem runOf_setRun_self {i : Inst} {j : Nat} (hj : j < i.runs.length) (r : ItemRun) : runOf (setRun i j r) j = r := by
  rw [runOf_setRun, if_pos ⟨rfl, hj⟩]

theorem runOf_setRun_ne {i : Inst} {j k : Nat} (hk : k ≠ j) (r : ItemRun) : runOf (setRun i j r) k = runOf i k := by
  rw [runOf_setRun, if_neg fun h => hk h.1]

/-- An item that has left WAITING is one of the table's. -/
theorem lt_of_runOf_st {i : Inst} {j : Nat} (h : (runOf i j).st ≠ .waiting) : j < i.runs.length := by
  by_contra hj
  rw [runOf, List.getD_eq_getElem?_getD, List.getElem?_eq_none (Nat.le_of_not_lt hj)] at h
  exact h rfl

/-- An item that runs with a kernel. -/
structure RunningItem (s : State) (n j unit code : Nat) (i : Inst) (it : Item) : Prop where
  inst : s.inst? n = some i
  item : (s.items i)[j]? = some it
  st : (runOf i j).st = .running
  unit : it.unit = unit
  kernel : it.kernel = code
  data : (runOf i j).data = none

theorem running_of {s : State} {n j unit code : Nat} {i : Inst} {it : Item} (h : s.isRunning n j unit code = some (i, it)) :
    RunningItem s n j unit code i it := by
  unfold State.isRunning at h
  split at h
  case h_2 => cases h
  case h_1 i' hinst =>
    split at h
    case h_2 => cases h
    case h_1 it' hitem =>
      split at h
      case isFalse => cases h
      case isTrue hgo =>
        cases h
        simp only [Bool.and_eq_true, decide_eq_true_eq, Option.isNone_iff_eq_none] at hgo
        obtain ⟨⟨⟨hst, hunit⟩, hkernel⟩, hdata⟩ := hgo
        exact ⟨hinst, hitem, hst, hunit, hkernel, hdata⟩

theorem RunningItem.lt {s : State} {n j unit code : Nat} {i : Inst} {it : Item} (h : RunningItem s n j unit code i it) :
    j < i.runs.length := lt_of_runOf_st (by rw [h.st]; decide)

/-! ### A kernel's result (R207, R209) -/

/-- A run with its kernel's result. -/
def withOut (o : KOut) (r : ItemRun) : ItemRun :=
  { r with data := some o.data, stateOut := o.st, flags := r.flags ||| (if o.miss then 1 else 0) }

theorem putOut_eq (i : Inst) (j : Nat) (o : KOut) (s : State) : putOut i j o s = s.setInst (setRun i j (withOut o (runOf i j))) := rfl

/-- A running item's result stands in its run, in a state whose sequencer is as it was when the item was found running. -/
theorem putOut_inst {s u : State} {n j unit code : Nat} {i : Inst} {it : Item} (h : RunningItem s n j unit code i it) (hu : u.tmb = s.tmb)
    (o : KOut) : (putOut i j o u).inst? n = some (setRun i j (withOut o (runOf i j))) :=
  inst_setInst_self ((inst_eq_of_tmb hu n).trans h.inst) ((setRun_tick ..).trans (tick_of_inst h.inst))

/-! ### Kernels that compute from their operands alone (R219) -/

theorem runKernel_running {s : State} {n j code : Nat} {i : Inst} {it : Item} (h : s.isRunning n j 0 code = some (i, it))
    (f : KIn → KOut) : runKernel code f n j s = putOut i j (f (s.kin i j it n false)) s := by
  unfold runKernel
  rw [h]

/-- What the command of a kernel on numbers leaves of a running item: its result, and nothing else changed. -/
theorem runs_of_runKernel {c : Nat → Fin 4096 → Instr} {code : Nat} {f : KIn → KOut}
    (hexec : ∀ n (j : Fin 4096) s, exec (c n j) s = .next (runKernel code f n j s)) (n : Nat) (j : Fin 4096) (i : Inst) (it : Item)
    (s : State) (h : s.isRunning n j 0 code = some (i, it)) :
    Runs (c n j) s fun t => ∃ i', t.inst? n = some i' ∧ runOf i' j = withOut (f (s.kin i j it n false)) (runOf i j) := by
  have hrun := running_of h
  refine ⟨_, hexec n j s, _, ?_, runOf_setRun_self hrun.lt _⟩
  rw [runKernel_running h]
  exact putOut_inst hrun rfl _

/-- Settles O32: each of these commands runs its kernel on the item's operands and puts the result in the item's run. -/
theorem kernelRows : Obligations.KernelRows := by
  repeat refine List.forall_mem_cons.2 ⟨runs_of_runKernel fun _ _ _ => rfl, ?_⟩
  exact List.forall_mem_nil _

end Sys2Proof.Machine
end

section
/-!
PROOFS. Scope: the order of finite FP32 numbers, results of kernels of R219's table, pickup and dropout (R264), and the sag and swell machine
(R268).
-/

namespace Sys2Proof.Machine

/-! ### Finite FP32 numbers in order (R139) -/

/-- The number a finite FP32 word stands for. -/
def f32Val (a : Nat) : ℚ := (f32Q a).num / (f32Q a).den

theorem scale_den_pos (m e : Int) : 0 < (Q.scale m e).den := by
  unfold Q.scale
  split
  · exact Nat.one_pos
  · exact Nat.two_pow_pos _

theorem f32Q_den_pos (a : Nat) : 0 < (f32Q a).den := by
  unfold f32Q fpToQ FVal.q
  split
  · exact scale_den_pos ..
  · exact Nat.one_pos

theorem fin_of_isFin {v : FVal} (h : v.isFin = true) : ∃ neg m e, v = .fin neg m e := by
  cases v with
  | nan => cases h
  | inf => cases h
  | fin neg m e => exact ⟨neg, m, e, rfl⟩

/-- Finite numbers compare as the rationals they stand for. -/
theorem f32Lt_eq {a b : Nat} (ha : f32Finite a = true) (hb : f32Finite b = true) : f32Lt a b = decide (f32Val a < f32Val b) := by
  have hlt : f32Lt a b = (f32Q a).lt (f32Q b) := by
    obtain ⟨_, _, _, hx⟩ := fin_of_isFin ha
    obtain ⟨_, _, _, hy⟩ := fin_of_isFin hb
    unfold f32Lt f32Q fpLt fpToQ
    rw [hx, hy]
  have hda : (0 : ℚ) < (f32Q a).den := Nat.cast_pos.2 (f32Q_den_pos a)
  have hdb : (0 : ℚ) < (f32Q b).den := Nat.cast_pos.2 (f32Q_den_pos b)
  rw [hlt, Q.lt, f32Val, f32Val, decide_eq_decide, div_lt_div_iff₀ hda hdb]
  exact_mod_cast Iff.rfl

theorem f32Lt_iff {a b : Nat} (ha : f32Finite a = true) (hb : f32Finite b = true) : f32Lt a b = true ↔ f32Val a < f32Val b := by
  rw [f32Lt_eq ha hb, decide_eq_true_iff]

theorem f32Lt_eq_false {a b : Nat} (ha : f32Finite a = true) (hb : f32Finite b = true) : f32Lt a b = false ↔ f32Val b ≤ f32Val a := by
  rw [f32Lt_eq ha hb, decide_eq_false_iff_not, not_lt]

/-! ### The first elements of the operands -/

theorem getElem?_firstN {n j : Nat} (hj : j < n) (l : List Nat) : (firstN n l)[j]? = some (elemAt l j) := by
  simp [firstN, hj]

/-- The numbered elements. -/
theorem mem_zipIdx_firstN {n : Nat} {l : List Nat} {x : Nat × Nat} : x ∈ (firstN n l).zipIdx ↔ x.2 < n ∧ elemAt l x.2 = x.1 := by
  rw [List.mem_zipIdx_iff_getElem?]
  by_cases hx : x.2 < n
  · rw [getElem?_firstN hx, Option.some_inj]
    exact (and_iff_right hx).symm
  · simp [firstN, hx]

theorem finite_of_mem_zipIdx {l : List Nat} (hall : ∀ x ∈ l, f32Finite x = true) : ∀ x ∈ l.zipIdx, f32Finite x.1 = true :=
  fun _ hx => hall _ (List.fst_mem_of_mem_zipIdx hx)

/-! ### MINMAX -/

/-- Going through a list and keeping whatever is better ends with an element that none is better than. -/
theorem foldl_best {α β : Type} [LinearOrder β] (better : α → α → Bool) (val : α → β) (l : List α) (b : α)
    (h : ∀ x ∈ b :: l, ∀ y ∈ b :: l, better x y = true ↔ val x < val y) {w : α}
    (hw : l.foldl (fun b x => if better x b then x else b) b = w) : w ∈ b :: l ∧ ∀ x ∈ b :: l, val w ≤ val x := by
  induction l generalizing b with
  | nil => simp_all
  | cons x xs ih =>
    set b' := if better x b then x else b with hb'
    have hsub : ∀ y ∈ b' :: xs, y ∈ b :: x :: xs := by
      intro y hy
      rcases List.mem_cons.1 hy with rfl | hy
      · rw [hb']
        split <;> simp
      · simp [hy]
    have hval : val b' ≤ val b ∧ val b' ≤ val x := by
      have hxb := h x (by simp) b (by simp)
      rw [hb']
      by_cases hlt : val x < val b
      · simp [hxb.2 hlt, hlt.le]
      · simpa [mt hxb.1 hlt] using not_lt.1 hlt
    obtain ⟨hmem, hle⟩ := ih b' (fun x hx y hy => h x (hsub x hx) y (hsub y hy)) hw
    refine ⟨hsub _ hmem, fun y hy => ?_⟩
    have hbest := hle b' List.mem_cons_self
    rcases List.mem_cons.1 hy with rfl | hy
    · exact hbest.trans hval.1
    rcases List.mem_cons.1 hy with rfl | hy
    · exact hbest.trans hval.2
    · exact hle y (List.mem_cons_of_mem _ hy)

/-- MINMAX finds a least and a greatest element, and where they stand. -/
theorem kMinmax_data {k : KIn} (hall : ∀ x ∈ firstN (parN k) (floatsIn k), f32Finite x = true) (hn : 0 < parN k) :
    ∃ lo hi a b, (kMinmax k).data = [lo, hi, a, b] ∧ a < parN k ∧ b < parN k ∧ elemAt (floatsIn k) a = lo ∧ elemAt (floatsIn k) b = hi ∧
      ∀ x ∈ firstN (parN k) (floatsIn k), f32Lt x lo = false ∧ f32Lt hi x = false := by
  set xs := firstN (parN k) (floatsIn k) with hxs
  have hfirst : (xs.getD 0 f32Nan, 0) ∈ xs.zipIdx := by
    rw [List.getD_eq_getElem?_getD, hxs, getElem?_firstN hn]
    exact mem_zipIdx_firstN.2 ⟨hn, rfl⟩
  have hcons : ∀ x ∈ (xs.getD 0 f32Nan, 0) :: xs.zipIdx, x ∈ xs.zipIdx := by simpa using hfirst
  have hfin : ∀ x ∈ xs.zipIdx, f32Finite x.1 = true := finite_of_mem_zipIdx hall
  have hplace : ∀ x ∈ xs.zipIdx, x.2 < parN k ∧ elemAt (floatsIn k) x.2 = x.1 := fun _ => mem_zipIdx_firstN.1
  obtain ⟨lo, hlo⟩ : ∃ lo, xs.zipIdx.foldl (fun b x => if f32Lt x.1 b.1 then x else b) (xs.getD 0 f32Nan, 0) = lo := ⟨_, rfl⟩
  obtain ⟨hi, hhi⟩ : ∃ hi, xs.zipIdx.foldl (fun b x => if f32Lt b.1 x.1 then x else b) (xs.getD 0 f32Nan, 0) = hi := ⟨_, rfl⟩
  have hdata : (kMinmax k).data = [lo.1, hi.1, lo.2, hi.2] := by
    simp only [kMinmax, ← hxs, if_pos (List.all_eq_true.2 hall), hlo, hhi, outOf]
  have hless : ∀ x ∈ (xs.getD 0 f32Nan, 0) :: xs.zipIdx, ∀ y ∈ (xs.getD 0 f32Nan, 0) :: xs.zipIdx,
      f32Lt x.1 y.1 = true ↔ f32Val x.1 < f32Val y.1 := fun x hx y hy => f32Lt_iff (hfin x (hcons x hx)) (hfin y (hcons y hy))
  have hmore : ∀ x ∈ (xs.getD 0 f32Nan, 0) :: xs.zipIdx, ∀ y ∈ (xs.getD 0 f32Nan, 0) :: xs.zipIdx,
      f32Lt y.1 x.1 = true ↔ -f32Val x.1 < -f32Val y.1 := fun x hx y hy => (hless y hy x hx).trans neg_lt_neg_iff.symm
  obtain ⟨hlomem, hleast⟩ := foldl_best (fun x b => f32Lt x.1 b.1) (fun x => f32Val x.1) xs.zipIdx (xs.getD 0 f32Nan, 0) hless hlo
  obtain ⟨hhimem, hmost⟩ := foldl_best (fun x b => f32Lt b.1 x.1) (fun x => -f32Val x.1) xs.zipIdx (xs.getD 0 f32Nan, 0) hmore hhi
  obtain ⟨ha, hae⟩ := hplace lo (hcons lo hlomem)
  obtain ⟨hb, hbe⟩ := hplace hi (hcons hi hhimem)
  refine ⟨lo.1, hi.1, lo.2, hi.2, hdata, ha, hb, hae, hbe, fun x hx => ?_⟩
  obtain ⟨j, hj⟩ := List.mem_iff_getElem?.1 hx
  have hmem := List.mem_cons_of_mem (xs.getD 0 f32Nan, 0) (List.mem_zipIdx_iff_getElem?.2 hj : (x, j) ∈ xs.zipIdx)
  have hle : f32Val lo.1 ≤ f32Val x := hleast (x, j) hmem
  have hge : f32Val x ≤ f32Val hi.1 := neg_le_neg_iff.1 (hmost (x, j) hmem)
  exact ⟨(f32Lt_eq_false (hall x hx) (hfin _ (hcons _ hlomem))).2 hle, (f32Lt_eq_false (hfin _ (hcons _ hhimem)) (hall x hx)).2 hge⟩

/-! ### TOPK -/

/-- No element is larger than one before it. -/
def FallsOff (l : List (Nat × Nat)) : Prop := l.Pairwise fun x y => f32Lt x.1 y.1 = false

theorem insertDesc_perm (x : Nat × Nat) (l : List (Nat × Nat)) : (insertDesc x l).Perm (x :: l) := by
  induction l with
  | nil => rfl
  | cons y ys ih =>
    unfold insertDesc
    split
    · rfl
    · exact (ih.cons y).trans (.swap ..)

theorem insertDesc_fallsOff {x : Nat × Nat} {l : List (Nat × Nat)} (hfin : ∀ y ∈ x :: l, f32Finite y.1 = true) (hl : FallsOff l) :
    FallsOff (insertDesc x l) := by
  induction l with
  | nil => exact List.pairwise_singleton ..
  | cons y ys ih =>
    have hx := hfin x (by simp)
    have hy := hfin y (by simp)
    obtain ⟨hhead, htail⟩ := List.pairwise_cons.1 hl
    unfold insertDesc
    split
    case isTrue hlt =>
      have hyx : f32Val y.1 < f32Val x.1 := by simpa [f32Lt_eq hy hx] using hlt
      refine List.pairwise_cons.2 ⟨fun z hz => ?_, hl⟩
      rcases List.mem_cons.1 hz with rfl | hz
      · exact (f32Lt_eq_false hx hy).2 hyx.le
      · have hzf := hfin z (by simp [hz])
        exact (f32Lt_eq_false hx hzf).2 (((f32Lt_eq_false hy hzf).1 (hhead z hz)).trans hyx.le)
    case isFalse hge =>
      refine List.pairwise_cons.2 ⟨fun z hz => ?_, ih (fun z hz => hfin z ?_) htail⟩
      · rcases List.mem_cons.1 ((insertDesc_perm x ys).mem_iff.1 hz) with rfl | hz
        · simpa using hge
        · exact hhead z hz
      · rcases List.mem_cons.1 hz with rfl | hz <;> simp [*]

/-- The elements in falling order, all of them. -/
theorem sortDesc_spec {l : List (Nat × Nat)} (hfin : ∀ y ∈ l, f32Finite y.1 = true) : (sortDesc l).Perm l ∧ FallsOff (sortDesc l) := by
  suffices h : ∀ acc, (∀ y ∈ acc, f32Finite y.1 = true) → FallsOff acc →
      (l.foldl (fun a x => insertDesc x a) acc).Perm (l ++ acc) ∧ FallsOff (l.foldl (fun a x => insertDesc x a) acc) by
    simpa [sortDesc] using h [] (by simp) List.Pairwise.nil
  induction l with
  | nil => exact fun acc _ hacc => ⟨.refl _, hacc⟩
  | cons x xs ih =>
    intro acc hfacc hacc
    have hxacc : ∀ y ∈ x :: acc, f32Finite y.1 = true := List.forall_mem_cons.2 ⟨hfin x (by simp), hfacc⟩
    have hperm := insertDesc_perm x acc
    obtain ⟨hp, hd⟩ := ih (fun y hy => hfin y (by simp [hy])) (insertDesc x acc) (fun y hy => hxacc y (hperm.mem_iff.1 hy))
      (insertDesc_fallsOff hxacc hacc)
    exact ⟨hp.trans ((hperm.append_left xs).trans List.perm_middle), hd⟩

/-- TOPK gives the K largest elements in falling order, and where they stand. -/
theorem kTopk_data {k : KIn} (hall : ∀ x ∈ firstN (parN k) (floatsIn k), f32Finite x = true) (hk : parK k ≤ parN k) :
    ∃ top : List (Nat × Nat), (kTopk k).data = top.map (·.1) ++ top.map (·.2) ∧ top.length = parK k ∧
      (∀ x ∈ top, x.2 < parN k ∧ elemAt (floatsIn k) x.2 = x.1) ∧ top.Pairwise (fun x y => f32Lt x.1 y.1 = false) ∧
      ∀ j < parN k, (∀ x ∈ top, x.2 ≠ j) → ∀ x ∈ top, f32Lt x.1 (elemAt (floatsIn k) j) = false := by
  set xs := firstN (parN k) (floatsIn k) with hxs
  obtain ⟨hperm, hfalls⟩ := sortDesc_spec (finite_of_mem_zipIdx hall)
  set sorted := sortDesc xs.zipIdx
  have hlen : sorted.length = parN k := by simpa [hxs, firstN] using hperm.length_eq
  refine ⟨sorted.take (parK k), ?_, ?_, fun x hx => ?_, hfalls.sublist (List.take_sublist ..), fun j hj hnot x hx => ?_⟩
  · unfold kTopk
    dsimp only
    rw [if_pos (List.all_eq_true.2 hall)]
    rfl
  · rw [List.length_take, hlen, min_eq_left hk]
  · exact mem_zipIdx_firstN.1 (hperm.mem_iff.1 (List.mem_of_mem_take hx))
  · have hj' : (elemAt (floatsIn k) j, j) ∈ sorted := hperm.mem_iff.2 (mem_zipIdx_firstN.2 ⟨hj, rfl⟩)
    rw [← List.take_append_drop (parK k) sorted] at hj' hfalls
    obtain ⟨-, -, hcross⟩ := List.pairwise_append.1 hfalls
    exact hcross x hx _ ((List.mem_append.1 hj').resolve_left fun h => hnot _ h rfl)

/-! ### CLAMP and COUNT_FLAGS -/

theorem kClamp_data {k : KIn} {j : Nat} (hj : j < parN k) (hx : f32IsNan (elemAt (floatsIn k) j) = false)
    (hlo : f32IsNan (elemAt (constWords k) (2 * j)) = false) (hhi : f32IsNan (elemAt (constWords k) (2 * j + 1)) = false) :
    let lo := elemAt (constWords k) (2 * j)
    let hi := elemAt (constWords k) (2 * j + 1)
    let x := elemAt (floatsIn k) j
    (kClamp k).data[j]? = some (if f32Lt x lo then lo else if f32Lt hi x then hi else x) ∧
      (kClamp k).data[parN k + j]? = some (if f32Lt x lo then 1 else if f32Lt hi x then 2 else 0) := by
  intro lo hi x
  have hlen : (firstN (parN k) (floatsIn k)).length = parN k := by simp [firstN]
  have hzip : (firstN (parN k) (floatsIn k)).zipIdx[j]? = some (x, j) := by simp [getElem?_firstN hj, x]
  unfold kClamp outOf
  dsimp only
  rw [List.getElem?_append_left (by simpa [hlen] using hj), List.getElem?_append_right (by simp [hlen])]
  simp only [List.length_map, List.length_zipIdx, hlen, Nat.add_sub_cancel_left, List.getElem?_map, hzip, Option.map_some]
  simp only [x, lo, hi, hx, hlo, hhi, Bool.or_self, Bool.false_eq_true, if_false]
  constructor <;> split_ifs <;> rfl

theorem popCount_eq_sum (w : Nat) : popCount w = ((List.range 32).map fun b => w / 2 ^ b % 2).sum := by
  unfold popCount
  induction List.range 32 with
  | nil => rfl
  | cons b bs ih =>
    rw [List.map_cons, List.sum_cons, List.filter_cons, Nat.testBit_eq_decide_div_mod_eq, ← ih]
    rcases Nat.mod_two_eq_zero_or_one (w / 2 ^ b) with h | h <;> simp [h, Nat.add_comm]

theorem kCountFlags_data {k : KIn} {j : Nat} (hj : j < parN k) (hx : missW (elemAt (floatsIn k) j) = false) :
    (kCountFlags k).data[j]? = some (((List.range 32).map fun b => elemAt (floatsIn k) j / 2 ^ b % 2).sum) := by
  unfold kCountFlags outOf
  rw [List.getElem?_map, getElem?_firstN hj, Option.map_some, hx, ← popCount_eq_sum]
  rfl

/-! ### Pickup and dropout (R264) -/

/-- The ticks in a row on which an idle element's condition has held. -/
theorem pickDrop_up (pickup dropout n : Nat) :
    (pickDrop true true pickup dropout)^[n] {} = if n ≥ max 1 pickup then { on := true } else { up := n } := by
  induction n with
  | zero => simp
  | succ n ih =>
    rw [Function.iterate_succ_apply', ih]
    by_cases hn : n ≥ max 1 pickup
    · rw [if_pos hn, if_pos (by omega)]
      rfl
    · rw [if_neg hn]
      rfl

/-- The ticks in a row on which a set element's condition has failed. -/
theorem pickDrop_down (pickup dropout n : Nat) :
    (pickDrop false false pickup dropout)^[n] { on := true } = if n ≥ max 1 dropout then {} else { on := true, down := n } := by
  induction n with
  | zero => simp
  | succ n ih =>
    rw [Function.iterate_succ_apply', ih]
    by_cases hn : n ≥ max 1 dropout
    · rw [if_pos hn, if_pos (by omega)]
      rfl
    · rw [if_neg hn]
      rfl

/-! ### The sag and swell machine (R268) -/

section SagSwell

variable (pu sag swell int_ hyst : Nat)

theorem sagNext_normal :
    sagNext pu sag swell int_ hyst 0 = (if f32Lt pu int_ then 3 else if f32Lt pu sag then 1 else if f32Lt swell pu then 2 else 0, false) := rfl

theorem sagNext_swell :
    sagNext pu sag swell int_ hyst 2 = if f32Lt pu sag then (if f32Lt pu int_ then 3 else 1, true)
      else (if f32Le pu (f32Sub swell hyst) then 0 else 2, false) := rfl

/-- In a dip, and in the state that stands for none: up to NORMAL, or SAG or INTERRUPTION. -/
theorem sagNext_dip {st : Nat} (h0 : st ≠ 0) (h2 : st ≠ 2) : ∃ dip, (dip = 1 ∨ dip = 3) ∧
    sagNext pu sag swell int_ hyst st = if f32Le (f32Add sag hyst) pu then (0, false) else (dip, false) := by
  refine ⟨if st = 1 then (if f32Lt pu int_ then 3 else 1) else if f32Le (f32Add int_ hyst) pu then 1 else 3, ?_, ?_⟩
  · split_ifs <;> simp
  · unfold sagNext
    rw [if_neg h0, if_neg h2]
    split_ifs <;> rfl

theorem sagNext_le (st : Nat) : (sagNext pu sag swell int_ hyst st).1 ≤ 3 := by
  by_cases h0 : st = 0
  · rw [h0, sagNext_normal]
    split_ifs <;> decide
  by_cases h2 : st = 2
  · rw [h2, sagNext_swell]
    split_ifs <;> decide
  · obtain ⟨dip, hdip, h⟩ := sagNext_dip pu sag swell int_ hyst h0 h2
    rw [h]
    split_ifs
    · exact Nat.zero_le _
    · change dip ≤ 3
      omega

/-- A swell that ends as a dip begins is the one restart. -/
theorem sagNext_restart (st : Nat) : (sagNext pu sag swell int_ hyst st).2 = true ↔ st = 2 ∧ f32Lt pu sag = true := by
  by_cases h0 : st = 0
  · rw [h0, sagNext_normal]
    simp
  by_cases h2 : st = 2
  · rw [h2, sagNext_swell]
    split_ifs with h <;> simp [h]
  · obtain ⟨dip, -, h⟩ := sagNext_dip pu sag swell int_ hyst h0 h2
    rw [h]
    split_ifs <;> simp [h2]

theorem sagNext_dip_ends {st : Nat} (hst : st = 1 ∨ st = 3) :
    (sagNext pu sag swell int_ hyst st).1 = 0 ↔ f32Le (f32Add sag hyst) pu = true := by
  obtain ⟨dip, hdip, h⟩ := sagNext_dip pu sag swell int_ hyst (st := st) (by omega) (by omega)
  rw [h]
  split_ifs with hup
  · simp [hup]
  · simp only [hup, iff_false, Bool.false_eq_true]
    omega

theorem sagNext_swell_ends : (sagNext pu sag swell int_ hyst 2).1 = 0 ↔ f32Lt pu sag = false ∧ f32Le pu (f32Sub swell hyst) = true := by
  rw [sagNext_swell]
  split_ifs <;> simp [*]

theorem sagNext_normal_lasts :
    (sagNext pu sag swell int_ hyst 0).1 = 0 ↔ f32Lt pu int_ = false ∧ f32Lt pu sag = false ∧ f32Lt swell pu = false := by
  rw [sagNext_normal]
  split_ifs <;> simp [*]

end SagSwell

/-- Settles O33: the elements are compared as the rationals they stand for, so a scan finds extremes and insertion sorts; the counts go up one
a tick; the machine's step is read off state by state. The CLAMP flags' codes and the order of its CONST are the model's (log entry 22). -/
theorem kernelResults : Obligations.KernelResults :=
  ⟨fun _ hall hn => kMinmax_data hall hn, fun _ hall hk => kTopk_data hall hk, fun _ _ hj hx hlo hhi => kClamp_data hj hx hlo hhi,
    fun _ _ hj hx => kCountFlags_data hj hx,
    fun pickup dropout n _ => ⟨by rw [pickDrop_up]; split_ifs with h <;> simp [h], by rw [pickDrop_down]; split_ifs with h <;> simp [h]⟩,
    fun pu sag swell int_ hyst => ⟨sagNext_le pu sag swell int_ hyst, sagNext_restart pu sag swell int_ hyst,
      fun _ hst => sagNext_dip_ends pu sag swell int_ hyst hst, sagNext_swell_ends pu sag swell int_ hyst,
      sagNext_normal_lasts pu sag swell int_ hyst⟩⟩

end Sys2Proof.Machine
end

section
/-!
PROOFS. Scope: what the kernels with effects beside their data leave of the running item (R207, R219, R221 to R223, R233, R237, R257, R274, R297,
R322, R327).
-/

namespace Sys2Proof.Machine

/-! ### A result in a sequencer that is else unchanged -/

/-- The mask of every part of a state but the sequencer. -/
abbrev allButTmb : Nat := 35184372056063

theorem Kept.tmb {s t : State} (h : Kept allButTmb s t) : t.tmb = s.tmb := h.2.2.same .tmb (by decide)

/-- Instance `i`'s item `j` has got a result, and nothing else of the sequencer has changed. -/
def HasResult (i : Inst) (j : Nat) (s t : State) : Prop := ∃ o, t.tmb = (putOut i j o s).tmb

theorem putOut_tmb {s u : State} (hu : u.tmb = s.tmb) (i : Inst) (j : Nat) (o : KOut) : (putOut i j o u).tmb = (putOut i j o s).tmb := by
  simp only [putOut_eq, State.setInst, State.setTmb, hu]

theorem hasResult_putOut {s u : State} (hu : u.tmb = s.tmb) (i : Inst) (j : Nat) (o : KOut) : HasResult i j s (putOut i j o u) :=
  ⟨o, putOut_tmb hu i j o⟩

theorem HasResult.of_tmb {i : Inst} {j : Nat} {s t u : State} (h : HasResult i j s t) (hu : u.tmb = t.tmb) : HasResult i j s u := by
  obtain ⟨o, ho⟩ := h
  exact ⟨o, hu.trans ho⟩

theorem HasResult.from_tmb {i : Inst} {j : Nat} {s s' t : State} (h : HasResult i j s' t) (hs : s'.tmb = s.tmb) : HasResult i j s t := by
  obtain ⟨o, ho⟩ := h
  exact ⟨o, ho.trans (putOut_tmb hs i j o)⟩

/-- The item stays running, its data stands in its run, and every other run is as it was. -/
def RunsOn (n j : Nat) (i : Inst) (t : State) : Prop :=
  ∃ i', t.inst? n = some i' ∧ (runOf i' j).data.isSome = true ∧ (runOf i' j).st = .running ∧ ∀ k : Nat, k ≠ j → runOf i' k = runOf i k

theorem HasResult.runsOn {n j unit code : Nat} {i : Inst} {it : Item} {s t : State} (h : HasResult i j s t)
    (hrun : RunningItem s n j unit code i it) : RunsOn n j i t := by
  obtain ⟨o, ho⟩ := h
  refine ⟨_, (inst_eq_of_tmb ho n).trans (putOut_inst hrun rfl o), ?_, ?_, fun k hk => runOf_setRun_ne hk _⟩
  · rw [runOf_setRun_self hrun.lt]
    rfl
  · rw [runOf_setRun_self hrun.lt]
    exact hrun.st

/-! ### ALM_POST, ALM_PIO and EVT_POST (R219, R274, R281) -/

section Alarms

variable {s : State} {n : Nat} {j : Fin 4096} {i : Inst} {it : Item}

theorem execAlmPost_hasResult (h : s.isRunning n j 0 0x28 = some (i, it)) : ∃ t, execAlmPost n j s = .next t ∧ HasResult i j s t := by
  have hF : Sub allButTmb allButTmb := Nat.and_self _
  refine ⟨_, rfl, ?_⟩
  rw [h]
  dsimp -zeta only
  extract_lets k s1 late ids
  have hruns : ∀ (l : List Nat) (a : State × List AlmEntry × List (AlmEntry × Nat)), Kept allButTmb s a.1 →
      Kept allButTmb s (l.foldl (fun (a : State × List AlmEntry × List (AlmEntry × Nat)) x =>
        match (almCfgOf (s1.instImg i)).alarms[x]? with
        | some c =>
          let (s, e, r) := runAlarm i it ((runOf i j).fetchUe.contains c.op) late x c a.1
          (s, a.2.1 ++ e, a.2.2 ++ r)
        | none => a) a).1 := by
    intro l a ha
    refine kept_foldl_fst ha fun b x hb => ?_
    split
    · exact runAlarm_kept i it _ late x _ hb
    · exact hb
  have hfold := hruns ids (s1, [], []) (applyAlmMirrors_kept n (Kept.refl _ s))
  exact hasResult_putOut (gooseCheck_kept ids n (addBatch_kept it.cls n _ _ hfold)).tmb ..

theorem execAlmPio_hasResult (h : s.isRunning n j 0 0x29 = some (i, it)) : ∃ t, execAlmPio n j s = .next t ∧ HasResult i j s t := by
  have hF : Sub allButTmb allButTmb := Nat.and_self _
  refine ⟨_, rfl, ?_⟩
  rw [h]
  dsimp -zeta only
  extract_lets k cs _ s1 moved s2 lat u s3 s4
  have h1 : Kept allButTmb s s1 := st_setAlm_kept _ (Kept.refl _ s)
  have h2 : Kept allButTmb s s2 := kept_ite (driveContacts_kept cs h1) h1
  have h3 : Kept allButTmb s s3 := st_wrMax_kept _ u (st_wr_kept _ u h2)
  have h4 : Kept allButTmb s s4 := kept_ite h2 (kept_ite (postAt_kept n _ _ (st_flag_kept _ 1 h3)) h3)
  exact hasResult_putOut h4.tmb ..

theorem execEvtPost_hasResult (h : s.isRunning n j 0 0x2A = some (i, it)) : ∃ t, execEvtPost n j s = .next t ∧ HasResult i j s t := by
  have hF : Sub allButTmb allButTmb := Nat.and_self _
  unfold execEvtPost
  rw [h]
  exact ⟨_, rfl, hasResult_putOut (kept_foldl (Kept.refl _ s) fun _ _ hs => kept_ite (postAt_kept n _ _ hs) hs).tmb ..⟩

end Alarms

/-! ### SNR_PREP and the packing items (R219, R320, R321, R328) -/

section Packs

variable {s : State} {n : Nat} {j : Fin 4096} {i : Inst} {it : Item}

theorem snrPrepIndex_isSome {its : List Item} {j : Nat} {it : Item} (h : its[j]? = some it) (hunit : it.unit = 0) (hkernel : it.kernel = 0x35) :
    ∃ k, snrPrepIndex its j = some k := by
  unfold snrPrepIndex
  rw [h]
  exact ⟨_, if_pos (by simp [hunit, hkernel])⟩

theorem execSnrPrep_hasResult (h : s.isRunning n j 0 0x35 = some (i, it)) : ∃ t, execSnrPrep n j s = .next t ∧ HasResult i j s t := by
  have hrun := running_of h
  obtain ⟨k, hk⟩ := snrPrepIndex_isSome hrun.item hrun.unit hrun.kernel
  refine ⟨_, rfl, ?_⟩
  rw [h]
  dsimp -zeta only
  rw [hk]
  dsimp -zeta only
  split
  · exact hasResult_putOut rfl ..
  · exact (hasResult_putOut rfl ..).of_tmb rfl

theorem outPack_hasResult {code : Nat} (h : s.isRunning n j 0 code = some (i, it)) : HasResult i j s (outPack code n j s) := by
  have hF : Sub allButTmb allButTmb := Nat.and_self _
  unfold outPack
  rw [h]
  dsimp -zeta only
  extract_lets k st
  split
  case h_1 => exact hasResult_putOut rfl ..
  case h_2 o _ =>
    split
    case h_1 => exact hasResult_putOut rfl ..
    case h_2 b _ =>
      extract_lets now m filtered now' s1
      have h1 : Kept allButTmb s (s1.takePast st (parA k) m).2 := st_takePast_kept _ _ _ (st_savePast_kept _ (Kept.refl _ s))
      have hpast : Kept allButTmb s (if m = n then (now, s) else
          ({ wordVals b (List.replicate (2 * b.nph) f32Nan ++ (s1.takePast st (parA k) m).1.getD (restVals missVals)) with phasors := filtered },
            (s1.takePast st (parA k) m).2)).2 := kept_ite_snd (Kept.refl _ s) h1
      refine hasResult_putOut (Kept.tmb (kept_ite ?_ ?_)) ..
      · exact countSat_kept _ hpast
      · exact hpast

theorem execOutStat_hasResult (h : s.isRunning n j 0 0x3C = some (i, it)) : ∃ t, execOutStat n j s = .next t ∧ HasResult i j s t := by
  have hF : Sub allButTmb allButTmb := Nat.and_self _
  refine ⟨_, rfl, ?_⟩
  rw [h]
  dsimp -zeta only
  extract_lets k st
  split
  case h_1 => exact hasResult_putOut rfl ..
  case h_2 o _ =>
    extract_lets now m
    split
    · exact hasResult_putOut rfl ..
    · exact hasResult_putOut (st_takePast_kept _ _ _ (st_savePast_kept _ (Kept.refl _ s))).tmb ..

theorem execOutAmendPack_hasResult (h : s.isRunning n j 0 0x3D = some (i, it)) : ∃ t, execOutAmendPack n j s = .next t ∧ HasResult i j s t := by
  have hF : Sub allButTmb allButTmb := Nat.and_self _
  refine ⟨_, rfl, ?_⟩
  rw [h]
  dsimp -zeta only
  extract_lets st
  split
  case h_2 => exact hasResult_putOut rfl ..
  case h_1 t mask a o _ _ =>
    extract_lets k
    split
    · exact hasResult_putOut (countSat_kept _ (Kept.refl _ s)).tmb ..
    · exact hasResult_putOut rfl ..

theorem execCompose_hasResult (h : s.isRunning n j 5 1 = some (i, it)) : ∃ t, execCompose n j s = .next t ∧ HasResult i j s t := by
  have hF : Sub allButTmb allButTmb := Nat.and_self _
  refine ⟨_, rfl, ?_⟩
  rw [h]
  dsimp -zeta only
  extract_lets its ps packs st done fl stale s1
  have hdone : ∀ u, Kept allButTmb s u → HasResult i j s (done u) := fun u hu => hasResult_putOut hu.tmb ..
  split
  case h_1 => exact hdone s (Kept.refl _ s)
  case h_2 o _ =>
    extract_lets m
    have h1 : Kept allButTmb s s1 := kept_ite (st_flag_kept _ _ (Kept.refl _ s)) (Kept.refl _ s)
    split
    · exact hdone s (Kept.refl _ s)
    split
    · exact hdone _ (st_setEgr_kept _ h1)
    · exact hdone _ (streamSend_kept _ _ _ _ _ _ _ _ (applyCmds_kept _ _ h1))

theorem execAmend_hasResult (h : s.isRunning n j 5 2 = some (i, it)) : ∃ t, execAmend n j s = .next t ∧ HasResult i j s t := by
  have hF : Sub allButTmb allButTmb := Nat.and_self _
  refine ⟨_, rfl, ?_⟩
  rw [h]
  exact hasResult_putOut (kept_foldl (Kept.refl _ s) fun _ p hs => sendAmend_kept n j i p hs).tmb ..

end Packs

end Sys2Proof.Machine
end

section
/-!
PROOFS. Scope: what the engines' runs change of the state they keep (R226, R227, R233, R237, R257, R258, R262).
-/

namespace Sys2Proof.Machine

/-! ### SDFT_UPDATE (R229 to R236) -/

/-- Of the spectral state, only the signals and the bands may differ. -/
def BankOnly (s t : State) : Prop := ∃ sigs bands, t.spec = { s.spec with sigs := sigs, bands := bands }

theorem bankOnly_refl (s : State) : BankOnly s s := ⟨s.spec.sigs, s.spec.bands, rfl⟩

theorem BankOnly.trans {s t u : State} (h : BankOnly s t) (k : BankOnly t u) : BankOnly s u := by
  obtain ⟨_, _, ht⟩ := h
  obtain ⟨sigs, bands, hu⟩ := k
  exact ⟨sigs, bands, by rw [hu, ht]⟩

theorem BankOnly.of_spec {s t u : State} (h : BankOnly s t) (hu : u.spec = t.spec) : BankOnly s u := by
  obtain ⟨sigs, bands, ht⟩ := h
  exact ⟨sigs, bands, hu.trans ht⟩

theorem bankOnly_ite {s a b : State} {c : Prop} [Decidable c] (ha : BankOnly s a) (hb : BankOnly s b) : BankOnly s (if c then a else b) := by
  split <;> assumption

theorem bandRun_bankOnly (n inst rate : Nat) (c : SpecCfg) (s : State) (b : Nat) (ins : List (Option Nat)) :
    BankOnly s (bandRun n inst rate c s b ins).1 := by
  unfold bandRun
  split
  case h_1 => exact bankOnly_refl s
  case h_2 bd _ =>
    dsimp -zeta only
    extract_lets ethr win foEn part parts sigs t old en freq _ s1 s2 s3 s4 s5 fl
    have h1 : BankOnly s s1 := ⟨_, _, rfl⟩
    have h3 : BankOnly s s3 := h1.of_spec rfl
    have h4 : BankOnly s s4 := bankOnly_ite (h3.of_spec rfl) h3
    have h5 : BankOnly s s5 := bankOnly_ite (h4.of_spec rfl) h4
    exact h5

/-- What SDFT_UPDATE of an `Inst` leaves, before its result is put: it belongs to the `Inst`'s tick. -/
structure SdftRan (i : Inst) (s u : State) : Prop where
  tmb : u.tmb = s.tmb
  trk : u.spec.trk = s.spec.trk
  defs : u.spec.defs = s.spec.defs
  tick : u.spec.sdftTick = some i.tick
  bufs : ∃ b, u.spec.bufs = s.spec.bufs.set (i.tick % 2) (i.tick, b)

/-- The bands' part of SDFT_UPDATE: all of them in turn, with their entries. -/
def bandsRun (n : Nat) (k : KIn) (c : SpecCfg) (ins : List (Option Nat)) (s : State) : State × List Nat :=
  (List.range 16).foldl (fun (a : State × List Nat) b =>
    let (s, ws) := bandRun n k.inst k.rate c a.1 b ins
    (s, a.2 ++ ws)) (s, [])

theorem bandsRun_kept (n : Nat) (k : KIn) (c : SpecCfg) (ins : List (Option Nat)) {o s : State} (h : Kept allButTmb o s) :
    Kept allButTmb o (bandsRun n k c ins s).1 := by
  have hF : Sub allButTmb allButTmb := Nat.and_self _
  exact kept_foldl_fst h fun _ b ha => bandRun_kept n k.inst k.rate c b ins ha

theorem bandsRun_bankOnly (n : Nat) (k : KIn) (c : SpecCfg) (ins : List (Option Nat)) (s : State) : BankOnly s (bandsRun n k c ins s).1 := by
  suffices h : ∀ (l : List Nat) (a : State × List Nat), BankOnly s a.1 →
      BankOnly s (l.foldl (fun (a : State × List Nat) b =>
        let (s, ws) := bandRun n k.inst k.rate c a.1 b ins
        (s, a.2 ++ ws)) a).1 from h (List.range 16) (s, []) (bankOnly_refl s)
  intro l
  induction l with
  | nil => exact fun _ ha => ha
  | cons b bs ih => exact fun a ha => ih _ (ha.trans (bandRun_bankOnly ..))

theorem sdftRun_ran (i : Inst) (j : Nat) (k : KIn) (s : State) : ∃ o u, sdftRun i j k s = putOut i j o u ∧ SdftRan i s u := by
  have hF : Sub allButTmb allButTmb := Nat.and_self _
  unfold sdftRun
  extract_lets c dn ins sigs0 stepped resets sigs bands0 _ s1 s2 hold settling s3 bins holdMap buf
  have h1 : Kept allButTmb s s1 := st_setSpec_kept _ (Kept.refl _ s)
  have h2 : Kept allButTmb s s2 := kept_ite h1 (st_flag_kept _ _ (st_inc_kept _ _ h1))
  have h3 : Kept allButTmb s s3 := st_wr_kept _ _ (st_wr_kept _ _ h2)
  have hspec : s3.spec = s1.spec := by
    change s2.spec = s1.spec
    unfold s2
    split <;> rfl
  obtain ⟨sigs', bands', hbank⟩ := bandsRun_bankOnly i.tick k c ins s3
  have hkept := bandsRun_kept i.tick k c ins h3
  rw [hspec] at hbank
  obtain ⟨u, hu⟩ : ∃ u, bandsRun i.tick k c ins s3 = u := ⟨_, rfl⟩
  have hfold : List.foldl (fun (a : State × List Nat) b =>
    let (s, ws) := bandRun i.tick k.inst k.rate c a.1 b ins
    (s, a.2 ++ ws)) (s3, []) (List.range 16) = u := hu
  rw [hu] at hbank hkept
  rw [hfold]
  refine ⟨_, _, rfl, hkept.tmb, ?_, ?_, ?_, buf.2, ?_⟩
  · exact (congrArg Spec.trk hbank :)
  · exact (congrArg Spec.defs hbank :)
  · exact congrArg Spec.sdftTick hbank
  · exact congrArg (fun x => x.bufs.set (i.tick % 2) buf) hbank

/-- What a run of SDFT_UPDATE leaves in the end, under the table of its image (R226, R227). -/
structure SdftDone (n : Nat) (i : Inst) (j : Nat) (s t : State) : Prop where
  result : HasResult i j s t
  buf : s.spec.bufs.length = 2 → ∃ b, t.spec.bufs[n % 2]? = some (n, b)
  trk : t.spec.trk = s.spec.trk
  defs : t.spec.defs = s.spec.defs
  new : i.old = false ∨ s.spec.oldSdft = none → t.spec.sdftTick = some n
  old : i.old = true → s.spec.oldSdft ≠ none → t.spec.sdftTick = s.spec.sdftTick ∧ t.spec.sigs = s.spec.sigs

theorem SdftRan.buf {i : Inst} {s u : State} (h : SdftRan i s u) (hlen : s.spec.bufs.length = 2) :
    ∃ b, u.spec.bufs[i.tick % 2]? = some (i.tick, b) := by
  obtain ⟨b, hb⟩ := h.bufs
  refine ⟨b, ?_⟩
  rw [hb, List.getElem?_set_self (by omega)]

theorem execSdftUpdate_done {n : Nat} {j : Fin 4096} {i : Inst} {it : Item} {s : State} (h : s.isRunning n j 1 1 = some (i, it)) :
    Runs (.sdftUpdate n j) s (SdftDone n i j s) := by
  obtain rfl := tick_of_inst (running_of h).inst
  refine ⟨_, rfl, ?_⟩
  rw [h]
  dsimp -zeta only
  unfold sdftFor
  split
  case h_1 a b c hold hsome =>
    obtain ⟨o, u, hput, hran⟩ := sdftRun_ran i j (s.kin i j it i.tick false) (s.setSpec { s.spec with sigs := a, sdftTick := b, bands := c })
    rw [hput]
    exact ⟨(hasResult_putOut hran.tmb ..).of_tmb rfl, hran.buf, hran.trk, hran.defs, fun hnew => by simp_all, fun _ _ => ⟨rfl, rfl⟩⟩
  case h_2 hnot =>
    obtain ⟨o, u, hput, hran⟩ := sdftRun_ran i j (s.kin i j it i.tick false) s
    rw [hput]
    refine ⟨hasResult_putOut hran.tmb .., hran.buf, hran.trk, hran.defs, fun _ => hran.tick, fun hold hsome => ?_⟩
    obtain ⟨⟨a, b, c⟩, hs⟩ := Option.ne_none_iff_exists'.1 hsome
    exact absurd hs (hnot a b c hold)

/-! ### DEF_UPDATE (R245 to R248) -/

/-- What DEF_UPDATE of an `Inst` leaves, before its result is put. -/
structure DefRan (i : Inst) (s u : State) : Prop where
  tmb : u.tmb = s.tmb
  sigs : u.spec.sigs = s.spec.sigs
  trk : u.spec.trk = s.spec.trk
  tick : u.spec.defTick = some i.tick

/-- What no step of a fold changes, the fold does not. -/
theorem foldl_keeps {α β : Type} (p : State → β) {f : State → α → State} (hf : ∀ s x, p (f s x) = p s) (l : List α) (s : State) :
    p (l.foldl f s) = p s := by
  induction l generalizing s with
  | nil => rfl
  | cons x xs ih => exact (ih _).trans (hf s x)

theorem spec_ite {s a b : State} {c : Prop} [Decidable c] (ha : a.spec = s.spec) (hb : b.spec = s.spec) : (if c then a else b).spec = s.spec := by
  split <;> assumption

theorem defRun_ran (i : Inst) (j : Nat) (k : KIn) (s : State) : ∃ o u, defRun i j k s = putOut i j o u ∧ DefRan i s u := by
  have hF : Sub allButTmb allButTmb := Nat.and_self _
  unfold defRun
  extract_lets c dn xs ins sdft modes defs0 rs s1 s2 s3 blocks data slopes _ s4
  have h1 : Kept allButTmb s s1 := kept_ite (st_flag_kept _ _ (Kept.refl _ s)) (Kept.refl _ s)
  have h2 : Kept allButTmb s s2 := kept_ite (st_flag_kept _ _ h1) h1
  have h3 : Kept allButTmb s s3 := kept_foldl h2 fun _ _ h => st_wr_kept _ _ (st_wr_kept _ _ (st_wr_kept _ _ (st_wrB_kept _ _ h)))
  have hs1 : s1.spec = s.spec := spec_ite rfl rfl
  have hs2 : s2.spec = s.spec := spec_ite hs1 hs1
  have hs32 : s3.spec = s2.spec := by
    refine foldl_keeps State.spec ?_ ..
    exact fun _ _ => rfl
  have hs3 : s3.spec = s.spec := hs32.trans hs2
  exact ⟨_, s4, rfl, h3.tmb, (congrArg Spec.sigs hs3 :), (congrArg Spec.trk hs3 :), rfl⟩

/-- What a run of DEF_UPDATE leaves in the end, under the table of its image (R226, R227). -/
structure DefDone (n : Nat) (i : Inst) (j : Nat) (s t : State) : Prop where
  result : HasResult i j s t
  sigs : t.spec.sigs = s.spec.sigs
  trk : t.spec.trk = s.spec.trk
  new : i.old = false ∨ s.spec.oldDef = none → t.spec.defTick = some n
  old : i.old = true → s.spec.oldDef ≠ none → t.spec.defTick = s.spec.defTick ∧ t.spec.defs = s.spec.defs

theorem execDefUpdate_done {n : Nat} {j : Fin 4096} {i : Inst} {it : Item} {s : State} (h : s.isRunning n j 1 2 = some (i, it)) :
    Runs (.defUpdate n j) s (DefDone n i j s) := by
  obtain rfl := tick_of_inst (running_of h).inst
  refine ⟨_, rfl, ?_⟩
  rw [h]
  dsimp -zeta only
  unfold defFor
  split
  case h_1 a b hold hsome =>
    obtain ⟨o, u, hput, hran⟩ := defRun_ran i j (s.kin i j it i.tick false) (s.setSpec { s.spec with defs := a, defTick := b })
    rw [hput]
    exact ⟨(hasResult_putOut hran.tmb ..).of_tmb rfl, hran.sigs, hran.trk, fun hnew => by simp_all, fun _ _ => ⟨rfl, rfl⟩⟩
  case h_2 hnot =>
    obtain ⟨o, u, hput, hran⟩ := defRun_ran i j (s.kin i j it i.tick false) s
    rw [hput]
    refine ⟨hasResult_putOut hran.tmb .., hran.sigs, hran.trk, fun _ => hran.tick, fun hold hsome => ?_⟩
    obtain ⟨⟨a, b⟩, hs⟩ := Option.ne_none_iff_exists'.1 hsome
    exact absurd hs (hnot a b hold)

/-! ### MODE_TRACK (R237 to R244) -/

/-- Of the spectral state, only the tracker and its shapes may differ. -/
def TrkOnly (s t : State) : Prop := ∃ trk shapes, t.spec = { s.spec with trk := trk, shapes := shapes }

theorem trkOnly_refl (s : State) : TrkOnly s s := ⟨s.spec.trk, s.spec.shapes, rfl⟩

theorem TrkOnly.trans {s t u : State} (h : TrkOnly s t) (k : TrkOnly t u) : TrkOnly s u := by
  obtain ⟨_, _, ht⟩ := h
  obtain ⟨trk, shapes, hu⟩ := k
  exact ⟨trk, shapes, by rw [hu, ht]⟩

theorem TrkOnly.of_spec {s t u : State} (h : TrkOnly s t) (hu : u.spec = t.spec) : TrkOnly s u := by
  obtain ⟨trk, shapes, ht⟩ := h
  exact ⟨trk, shapes, hu.trans ht⟩

theorem trkOnly_ite {s a b : State} {c : Prop} [Decidable c] (ha : TrkOnly s a) (hb : TrkOnly s b) : TrkOnly s (if c then a else b) := by
  split <;> assumption

theorem trkEval_trkOnly (c : TrkCfg) (n inst rate : Nat) (valid : Bool) (bands : List (Bool × Nat × Nat)) (s : State) :
    TrkOnly s (trkEval c n inst rate valid bands s) := by
  unfold trkEval
  extract_lets t s0 _ old
  split
  case h_1 => exact ⟨_, _, rfl⟩
  case h_2 es _ =>
    dsimp -zeta only
    extract_lets found ms gone s1 s2
    have h1 : s1.spec = s.spec := spec_ite rfl rfl
    have h2 : s2.spec = s.spec := spec_ite h1 h1
    exact ((trkOnly_refl s).of_spec h2).trans ⟨_, _, rfl⟩

theorem trkSkip_trkOnly (c : TrkCfg) (k first last : Nat) (s : State) : TrkOnly s (trkSkip c k first last s) := by
  unfold trkSkip
  exact trkOnly_ite ⟨_, _, rfl⟩ ⟨_, _, rfl⟩

theorem trkSample_trkOnly (c : TrkCfg) (n inst rate : Nat) (bands : List (Bool × Nat × Nat)) (y : List Nat) (s : State) :
    TrkOnly s (trkSample c n inst rate bands y s) := by
  unfold trkSample
  extract_lets present t _ s1
  have h1 : TrkOnly s s1 := ⟨_, _, rfl⟩
  exact trkOnly_ite (trkSkip_trkOnly ..) (trkOnly_ite (h1.trans (trkEval_trkOnly ..)) h1)

theorem classify_trkOnly (c : TrkCfg) (s : State) (bands : List (Bool × Nat × Nat)) : TrkOnly s (classify c s bands).1 := ⟨_, _, rfl⟩

/-- What MODE_TRACK of an `Inst` leaves, before its result is put. -/
structure TrkRan (c : TrkCfg) (rate : Nat) (i : Inst) (s u : State) : Prop where
  tmb : u.tmb = s.tmb
  sigs : u.spec.sigs = s.spec.sigs
  tick : u.spec.trkTick = some i.tick
  samples : u.rd fSPEC_TRK_STS_SAMPLES = min u.spec.trk.samples 65535
  valid : u.rd fSPEC_TRK_STS_VALID = 1 ↔ u.spec.trk.samples ≥ trkWarm c rate

theorem trkRun_ran {i : Inst} {c : TrkCfg} {s : State} (hc : (specCfgOf (s.instImg i)).trk = some c) (j : Nat) (k : KIn) :
    ∃ o u, trkRun i j k s = putOut i j o u ∧ TrkRan c k.rate i s u := by
  have hF : Sub allButTmb allButTmb := Nat.and_self _
  unfold trkRun
  dsimp -zeta only
  extract_lets sc dn _
  rw [hc]
  dsimp -zeta only
  extract_lets t0 s1 dec a b s2 bands s3 t valid shown s4 fo head _ s5
  have h1 : Kept allButTmb s s1 := st_setSpec_kept _ (Kept.refl _ s)
  have h2 : Kept allButTmb s s2 := kept_ite h1 (trkSkip_kept c _ _ _ h1)
  have h3 : Kept allButTmb s s3 := kept_ite (trkSample_kept c _ _ _ bands _ h2) h2
  have h4 : Kept allButTmb s s4 := st_wr_kept _ _ (st_wr_kept _ _ (st_wrB_kept _ _ (st_wr_kept _ _ (classify_kept c bands h3))))
  have ht2 : TrkOnly s1 s2 := trkOnly_ite (trkOnly_refl s1) (trkSkip_trkOnly ..)
  have ht3 : TrkOnly s1 s3 := ht2.trans (trkOnly_ite (trkSample_trkOnly ..) (trkOnly_refl s2))
  have ht4 : TrkOnly s1 s4 := (ht3.trans (classify_trkOnly c s3 bands)).of_spec rfl
  obtain ⟨_, _, hspec⟩ := ht4
  refine ⟨_, s5, rfl, h4.tmb, (congrArg Spec.sigs hspec :), (congrArg Spec.trkTick hspec :), ?_, ?_⟩
  · refine (State.rd_wr ..).trans (Nat.mod_eq_of_lt ?_)
    exact Nat.lt_of_le_of_lt (Nat.min_le_right ..) (by decide)
  · have hrd : s5.rd fSPEC_TRK_STS_VALID = trunc 1 (if decide valid = true then 1 else 0) :=
      ((State.rd_wr_ne _ (by decide) _).trans (State.rd_wr_ne _ (by decide) _)).trans (State.rd_wr ..)
    rw [hrd]
    by_cases hv : valid
    · simp only [hv, decide_true, if_true]
      exact ⟨fun _ => hv, fun _ => rfl⟩
    · simp only [hv, decide_false, Bool.false_eq_true, if_false]
      exact ⟨fun h => absurd h (by decide), fun h => absurd h hv⟩

theorem trkRun_hasResult (i : Inst) (j : Nat) (k : KIn) (s : State) : HasResult i j s (trkRun i j k s) := by
  cases hc : (specCfgOf (s.instImg i)).trk with
  | none =>
    unfold trkRun
    dsimp only
    rw [hc]
    exact hasResult_putOut rfl ..
  | some c =>
    obtain ⟨o, u, hput, hran⟩ := trkRun_ran hc j k
    rw [hput]
    exact hasResult_putOut hran.tmb ..

theorem execModeTrack_hasResult {n : Nat} {j : Fin 4096} {i : Inst} {it : Item} {s : State} (h : s.isRunning n j 2 1 = some (i, it)) :
    Runs (.modeTrack n j) s (HasResult i j s) := by
  refine ⟨_, rfl, ?_⟩
  rw [h]
  dsimp -zeta only
  unfold trkFor
  split
  · exact ((trkRun_hasResult ..).of_tmb rfl).from_tmb rfl
  · exact trkRun_hasResult ..

/-- What a run of MODE_TRACK leaves in the end, under the table of its image (R226, R227, R252). -/
structure TrkDone (c : TrkCfg) (rate n : Nat) (i : Inst) (s t : State) : Prop where
  sigs : t.spec.sigs = s.spec.sigs
  new : i.old = false ∨ s.spec.oldTrk = none → t.spec.trkTick = some n ∧ t.rd fSPEC_TRK_STS_SAMPLES = min t.spec.trk.samples 65535 ∧
    (t.rd fSPEC_TRK_STS_VALID = 1 ↔ t.spec.trk.samples ≥ trkWarm c rate)
  old : i.old = true → s.spec.oldTrk ≠ none → t.spec.trkTick = s.spec.trkTick ∧ t.spec.trk = s.spec.trk

theorem execModeTrack_done {n : Nat} {j : Fin 4096} {i : Inst} {it : Item} {c : TrkCfg} {s : State} (h : s.isRunning n j 2 1 = some (i, it))
    (hc : (specCfgOf (s.instImg i)).trk = some c) : Runs (.modeTrack n j) s (TrkDone c (s.kin i j it n false).rate n i s) := by
  obtain rfl := tick_of_inst (running_of h).inst
  refine ⟨_, rfl, ?_⟩
  rw [h]
  dsimp -zeta only
  unfold trkFor
  split
  case h_1 a b hold hsome =>
    obtain ⟨o, u, hput, hran⟩ := trkRun_ran (s := s.setSpec { s.spec with trk := a, trkTick := b }) hc j (s.kin i j it i.tick false)
    rw [hput]
    exact ⟨hran.sigs, fun hnew => by simp_all, fun _ _ => ⟨rfl, rfl⟩⟩
  case h_2 hnot =>
    obtain ⟨o, u, hput, hran⟩ := trkRun_ran hc j (s.kin i j it i.tick false)
    rw [hput]
    refine ⟨hran.sigs, fun _ => ⟨hran.tick, hran.samples, hran.valid⟩, fun hold hsome => ?_⟩
    obtain ⟨⟨a, b⟩, hs⟩ := Option.ne_none_iff_exists'.1 hsome
    exact absurd hs (hnot a b hold)

/-! ### COMPONENTS (R254 to R261) -/

/-- Of the branches, the islands and the rest that a run keeps, its registers tell the number of islands; TOPO_CNT counts at most once. -/
structure CohRan (i : Inst) (s u : State) : Prop where
  tmb : u.tmb = s.tmb
  few : u.coh.run.islands.length ≤ 256
  islands : u.rd fCOH_STS_ISLANDS = u.coh.run.islands.length
  map : u.coh.run.map.length = (cohCfgOf (s.instImg i)).nodes
  topo : u.rd fCOH_TOPO_CNT_TICKS = s.rd fCOH_TOPO_CNT_TICKS ∨
    u.rd fCOH_TOPO_CNT_TICKS = satAdd fCOH_TOPO_CNT_TICKS.w (s.rd fCOH_TOPO_CNT_TICKS) 1

theorem assignIds_length (n : Nat) (prev : List IslandSt) (cs : List Comp) (taken : List Nat) (next : Nat) :
    (assignIds n prev cs taken next).1.length = cs.length := by
  induction cs generalizing taken next with
  | nil => rfl
  | cons c cs ih =>
    unfold assignIds
    dsimp only
    split
    · split
      · exact congrArg Nat.succ (ih ..)
      · exact congrArg Nat.succ (ih ..)
    · exact congrArg Nat.succ (ih ..)

theorem postAt_rd {f : Fld} (hf : f.block ∉ [0x0C, 0x0D]) (tick code : Nat) (payload : Bytes) (s : State) : (postAt tick code payload s).rd f = s.rd f :=
  postAt_regs (by decide) (by decide) tick code payload (regsOut_refl [0x0C, 0x0D] s) f hf

/-- The status registers of COMPONENTS. -/
def cohStatus (islands mainId unknown opened : Nat) (s : State) : State :=
  (((s.wr fCOH_STS_ISLANDS islands).wr fCOH_STS_MAIN_ID mainId).wr fCOH_BR_STS_UNKNOWN unknown).wr fCOH_BR_STS_OPEN opened

theorem cohStatus_islands {islands : Nat} (hfew : islands ≤ 256) (mainId unknown opened : Nat) (s : State) :
    (cohStatus islands mainId unknown opened s).rd fCOH_STS_ISLANDS = islands := by
  unfold cohStatus
  rw [State.rd_wr_ne, State.rd_wr_ne, State.rd_wr_ne, State.rd_wr]
  · exact Nat.mod_eq_of_lt (Nat.lt_of_le_of_lt hfew (by decide))
  all_goals decide

theorem cohStatus_topo (islands mainId unknown opened : Nat) (s : State) :
    (cohStatus islands mainId unknown opened s).rd fCOH_TOPO_CNT_TICKS = s.rd fCOH_TOPO_CNT_TICKS := by
  unfold cohStatus
  rw [State.rd_wr_ne, State.rd_wr_ne, State.rd_wr_ne, State.rd_wr_ne]
  all_goals decide

theorem rd_ite_of {s a b : State} {f : Fld} {c : Prop} [Decidable c] (ha : a.rd f = s.rd f) (hb : b.rd f = s.rd f) :
    (if c then a else b).rd f = s.rd f := by
  split <;> assumption

theorem cohRun_ran (i : Inst) (j : Nat) (s : State) : ∃ o u, cohRun i j s = putOut i j o u ∧ CohRan i s u := by
  have hF : Sub allButTmb allButTmb := Nat.and_self _
  unfold cohRun
  dsimp -zeta only
  extract_lets c n inst run tune bs0 ev meas bs topo unknown opened newDef s1 comps all top rest prev ref mainId reps events map changes has
    sep dflt fl dark data s2 s3 s4 s5 s6 bufs _ s7
  have hk1 : Kept allButTmb s s1 := kept_foldl (Kept.refl _ s) fun _ _ h => postAt_kept _ _ _ (st_flag_kept _ _ h)
  have hk2 : Kept allButTmb s s2 := kept_foldl hk1 fun _ _ h => kept_ite (st_flag_kept _ _ h) h
  have hk3 : Kept allButTmb s s3 := kept_ite (st_flag_kept _ _ hk2) hk2
  have hk4 : Kept allButTmb s s4 := kept_ite (st_inc_kept _ _ hk3) hk3
  have hk6 : Kept allButTmb s s6 := st_wr_kept _ _ (st_wr_kept _ _ (st_wr_kept _ _ (st_wr_kept _ _ hk4)))
  have hfew : reps.length ≤ 256 := by
    rw [List.length_map, assignIds_length]
    exact List.length_take_le ..
  have ht1 : s1.rd fCOH_TOPO_CNT_TICKS = s.rd fCOH_TOPO_CNT_TICKS := by
    refine foldl_keeps (State.rd · _) ?_ ..
    exact fun u x => (postAt_rd (by decide) ..).trans (rd_flag (by decide) ..)
  have ht2 : s2.rd fCOH_TOPO_CNT_TICKS = s.rd fCOH_TOPO_CNT_TICKS := by
    refine (foldl_keeps (State.rd · _) ?_ ..).trans ht1
    exact fun u x => rd_ite_of (rd_flag (by decide) ..) rfl
  have ht3 : s3.rd fCOH_TOPO_CNT_TICKS = s.rd fCOH_TOPO_CNT_TICKS := rd_ite_of ((rd_flag (by decide) ..).trans ht2) ht2
  have h6 : s6 = cohStatus reps.length mainId (min unknown 65535) (min opened 65535) s4 := rfl
  have ht4 : s4.rd fCOH_TOPO_CNT_TICKS = s.rd fCOH_TOPO_CNT_TICKS ∨
      s4.rd fCOH_TOPO_CNT_TICKS = satAdd fCOH_TOPO_CNT_TICKS.w (s.rd fCOH_TOPO_CNT_TICKS) 1 := by
    unfold s4
    split
    · exact .inr ((rd_inc_self ..).trans (by rw [ht3]))
    · exact .inl ht3
  have hlen : (reps.map fun r => r.st).length = reps.length := List.length_map ..
  have hmap : map.length = c.nodes := (List.length_map ..).trans List.length_range
  clear_value s4 reps mainId map
  refine ⟨_, s7, rfl, hk6.tmb, ?_, ?_, hmap, ?_⟩
  · exact hlen.trans_le hfew
  · change s6.rd _ = _
    rw [h6, cohStatus_islands hfew]
    exact hlen.symm
  · change s6.rd _ = _ ∨ s6.rd _ = _
    rwa [h6, cohStatus_topo]

/-- What a run of COMPONENTS leaves in the end, under the table of its image (R216, R257, R258, R262). -/
structure CohDone (i : Inst) (j : Nat) (s t : State) : Prop where
  result : HasResult i j s t
  new : i.old = false ∨ s.coh.old = none → t.coh.run.islands.length ≤ 256 ∧ t.rd fCOH_STS_ISLANDS = t.coh.run.islands.length ∧
    t.coh.run.map.length = (cohCfgOf (s.instImg i)).nodes
  old : i.old = true → s.coh.old ≠ none → t.coh.run = s.coh.run
  topo : t.rd fCOH_TOPO_CNT_TICKS = s.rd fCOH_TOPO_CNT_TICKS ∨
    t.rd fCOH_TOPO_CNT_TICKS = satAdd fCOH_TOPO_CNT_TICKS.w (s.rd fCOH_TOPO_CNT_TICKS) 1

theorem cohFor_done (i : Inst) (j : Nat) (s : State) : CohDone i j s (cohFor i (cohRun i j) s) := by
  unfold cohFor
  split
  case h_1 o hold hsome =>
    obtain ⟨o', u, hput, hran⟩ := cohRun_ran i j (s.setCoh { s.coh with run := o })
    rw [hput]
    exact ⟨(hasResult_putOut hran.tmb ..).of_tmb rfl, fun hnew => by simp_all, fun _ _ => rfl, hran.topo⟩
  case h_2 hnot =>
    obtain ⟨o, u, hput, hran⟩ := cohRun_ran i j s
    rw [hput]
    refine ⟨hasResult_putOut hran.tmb .., fun _ => ⟨hran.few, hran.islands, hran.map⟩, fun hold hsome => ?_, hran.topo⟩
    obtain ⟨o, hs⟩ := Option.ne_none_iff_exists'.1 hsome
    exact absurd hs (hnot o hold)

/-- A check of the memory behind a unit leaves its state and its registers alone. -/
theorem CohDone.eccWrite {i : Inst} {j : Nat} {s t : State} (h : CohDone i j s t) (target index : Nat) :
    CohDone i j s (t.eccWrite target index) := by
  have hF : Sub allButTmb allButTmb := Nat.and_self _
  have htmb : (t.eccWrite target index).tmb = t.tmb := (st_eccWrite_kept target index (Kept.refl _ t)).tmb
  have hcoh : (t.eccWrite target index).coh = t.coh := (st_eccWrite_kept target index (Kept.refl 2199023255553 t) (Nat.and_self _)).2.2.same .coh (by decide)
  have hregs := eccWrite_regs target index t
  have hislands := hregs fCOH_STS_ISLANDS (by decide)
  have htopo := hregs fCOH_TOPO_CNT_TICKS (by decide)
  refine ⟨h.result.of_tmb htmb, fun hnew => ?_, fun hold hsome => ?_, ?_⟩
  · rw [hcoh, hislands]
    exact h.new hnew
  · rw [hcoh]
    exact h.old hold hsome
  · rw [htopo]
    exact h.topo

theorem execComponents_done {n : Nat} {j : Fin 4096} {i : Inst} {it : Item} {s : State} (h : s.isRunning n j 3 1 = some (i, it)) :
    Runs (.components n j) s (CohDone i j s) := by
  refine ⟨_, rfl, ?_⟩
  rw [h]
  exact (cohFor_done i j s).eccWrite 6 0

/-! ### INTEGRATE (R297, R298) -/

theorem rd_inc_ne {f g : Fld} (h : g.key ≠ f.key) (s : State) (k : Nat) : (s.inc f k).rd g = s.rd g := State.rd_wr_ne _ h _

theorem rd_wr64_ne {f g : Fld} (h : g.key ≠ f.key) (hh : g.key ≠ (liveHi f).key) (s : State) (v : Nat) : (s.wr64 f v).rd g = s.rd g :=
  (State.rd_wr_ne _ hh _).trans (State.rd_wr_ne _ h _)

/-- The parts that POST writes. -/
abbrev postParts : Nat := 1107296641

/-- What a run of INTEGRATE leaves: the `Inst` it ran up to, and a state for every cut set. -/
structure AccRan (cfg : AccCfg) (n : Nat) (s t : State) : Prop where
  zero : t.acc.zero = s.acc.zero
  img : t.img = s.img
  lastTick : t.acc.lastTick = some (match s.acc.lastReg with | some k => max k n | none => n)
  lastInst : t.acc.lastInst = s.tickInst (match s.acc.lastReg with | some k => max k n | none => n)
  running : t.rd fACC_STS_RUNNING = 1
  cuts : t.acc.cuts.length = cfg.cuts.length

theorem integrateRun_ran (cfg : AccCfg) (n : Nat) (pw : List (Nat × Nat)) (s : State) : AccRan cfg n s (integrateRun cfg n pw s) := by
  have hF : Sub postParts postParts := Nat.and_self _
  unfold integrateRun
  extract_lets start after new seen ticks queue top recent own due open_ olds upTo runs cuts pulses _ s1 s2 s3 s4 s5 caught s6 hit lost longest
    est s7
  have hk3 : Kept postParts s2 s3 := kept_ite (st_flag_kept _ _ (Kept.refl _ s2)) (Kept.refl _ s2)
  have hk4 : Kept postParts s2 s4 := kept_ite (st_flag_kept _ _ hk3) hk3
  have hk5 : Kept postParts s2 s5 := kept_ite (st_flag_kept _ _ hk4) hk4
  have hk6 : Kept postParts s2 s6 := kept_ite hk5 (st_flag_kept _ _ (st_inc_kept _ _ hk5))
  have hk7 : Kept postParts s2 s7 := st_flag_kept _ _ (st_inc_kept _ _ hk6)
  have hr2 : s2.rd fACC_STS_RUNNING = 1 := State.rd_wr ..
  have hr3 : s3.rd fACC_STS_RUNNING = s2.rd fACC_STS_RUNNING := rd_ite_of (rd_flag (by decide) ..) rfl
  have hr4 : s4.rd fACC_STS_RUNNING = s2.rd fACC_STS_RUNNING := rd_ite_of ((rd_flag (by decide) ..).trans hr3) hr3
  have hr5 : s5.rd fACC_STS_RUNNING = s2.rd fACC_STS_RUNNING := rd_ite_of ((rd_flag (by decide) ..).trans hr4) hr4
  have hr6 : s6.rd fACC_STS_RUNNING = s2.rd fACC_STS_RUNNING :=
    rd_ite_of hr5 ((rd_flag (by decide) ..).trans ((rd_inc_ne (by decide) ..).trans hr5))
  have hr7 : s7.rd fACC_STS_RUNNING = s2.rd fACC_STS_RUNNING := (rd_flag (by decide) ..).trans ((rd_inc_ne (by decide) ..).trans hr6)
  have hcuts : cuts.length = cfg.cuts.length := by simp [cuts, runs]
  have hran : ∀ u, Kept postParts s2 u → u.rd fACC_STS_RUNNING = s2.rd fACC_STS_RUNNING → AccRan cfg n s u := by
    intro u hk hr
    have hacc : u.acc = s2.acc := hk.2.2.same .acc (by decide)
    exact ⟨(congrArg Acc.zero hacc :), hk.2.2.same .img (by decide), (congrArg Acc.lastTick hacc :), (congrArg Acc.lastInst hacc :), hr.trans hr2,
      (congrArg (fun x => x.cuts.length) hacc).trans hcuts⟩
  clear_value s6 s7 longest est lost hit
  split
  · exact hran s6 hk6 hr6
  · exact hran _ (postAt_kept _ _ _ hk7) ((postAt_rd (by decide) ..).trans hr7)

/-- What ACC_STS, the result and the commits are made of is the same. -/
structure RunKept (s t : State) : Prop where
  cuts : t.acc.cuts = s.acc.cuts
  lastTick : t.acc.lastTick = s.acc.lastTick
  lastInst : t.acc.lastInst = s.acc.lastInst
  zero : t.acc.zero = s.acc.zero
  running : t.rd fACC_STS_RUNNING = s.rd fACC_STS_RUNNING

theorem runKept_refl (s : State) : RunKept s s := ⟨rfl, rfl, rfl, rfl, rfl⟩

theorem RunKept.trans {s t u : State} (h : RunKept s t) (k : RunKept t u) : RunKept s u :=
  ⟨k.cuts.trans h.cuts, k.lastTick.trans h.lastTick, k.lastInst.trans h.lastInst, k.zero.trans h.zero, k.running.trans h.running⟩

theorem runKept_of_acc {s t : State} (hacc : t.acc = s.acc) (hrd : t.rd fACC_STS_RUNNING = s.rd fACC_STS_RUNNING) : RunKept s t :=
  ⟨by rw [hacc], by rw [hacc], by rw [hacc], by rw [hacc], hrd⟩

theorem postAt_runKept (tick code : Nat) (payload : Bytes) (s : State) : RunKept s (postAt tick code payload s) :=
  runKept_of_acc ((postAt_kept tick code payload (Kept.refl postParts s) (Nat.and_self _)).2.2.same .acc (by decide)) (postAt_rd (by decide) ..)

theorem eccWrite_runKept (target index : Nat) (s : State) : RunKept s (s.eccWrite target index) :=
  runKept_of_acc ((st_eccWrite_kept target index (Kept.refl 2199023255553 s) (Nat.and_self _)).2.2.same .acc (by decide))
    (eccWrite_regs target index s _ (by decide))

theorem accFinals_runKept (old new : AccCfg) (k : Nat) (cuts : List CutSt) (s : State) : RunKept s (accFinals old new k cuts s) := by
  unfold accFinals
  generalize List.range old.cuts.length = l
  induction l generalizing s with
  | nil => exact runKept_refl s
  | cons c cs ih =>
    rw [List.foldl_cons]
    refine RunKept.trans ?_ (ih _)
    split
    · exact runKept_refl s
    · have hflag : RunKept s (s.flag fACC_FLT_FLAGS 8) := runKept_of_acc rfl (rd_flag (by decide) ..)
      exact hflag.trans (postAt_runKept ..)

theorem accEnd_runKept (s : State) : RunKept s (accEnd s) := by
  unfold accEnd
  split
  · split
    · exact runKept_refl s
    · have hend : RunKept s (s.setAcc { s.acc with ending := none }) := ⟨rfl, rfl, rfl, rfl, rfl⟩
      exact hend.trans (accFinals_runKept ..)
  · exact runKept_refl s

theorem beginCommit_runKept (kind : Nat) (s : State) : RunKept s (beginCommit kind s) := ⟨rfl, rfl, rfl, rfl, rfl⟩

theorem endCommit_runKept (s : State) : RunKept s (endCommit false s) := by
  unfold endCommit
  split
  case h_1 => exact runKept_refl s
  case h_2 k sl _ =>
    extract_lets _ s1 _ s2 s3 s4 s5 s6
    have h5 : RunKept s s5 := ⟨rfl, rfl, rfl, rfl,
      (State.rd_wr_ne _ (by decide) _).trans ((State.rd_wr_ne _ (by decide) _).trans (rd_inc_ne (by decide) ..))⟩
    have h56 : RunKept s5 s6 := runKept_of_acc rfl (rd_wr64_ne (by decide) (by decide) ..)
    have h6 : RunKept s s6 := h5.trans h56
    rw [if_neg Bool.false_ne_true]
    split
    · exact h6.trans (runKept_of_acc ((st_pairSend_kept _ _ (Kept.refl 4398050705408 s6) (Nat.and_self _)).2.2.same .acc (by decide))
        (regsOut_regs (regsOut_refl [] s6) (pairSend_regs ..) _ (by decide)))
    · exact h6

theorem zerosDue_runKept {s : State} (h : s.acc.zero = []) (cfg : AccCfg) (n startUp : Nat) : RunKept s (zerosDue cfg n startUp s) := by
  unfold zerosDue
  rw [h]
  exact ⟨rfl, rfl, rfl, h.symm, rfl⟩

/-- What follows the result of a run: what the table before a swap has still to end, and the second's commit. -/
def integrateEnd (n : Nat) (s : State) : State :=
  let s := accEnd s
  if n % s.rateAt (s.tickInst n) = 0 then beginCommit 1 (endCommit false s) else s

theorem integrateEnd_runKept (n : Nat) (s : State) : RunKept s (integrateEnd n s) := by
  unfold integrateEnd
  extract_lets s1
  have h1 : RunKept s s1 := accEnd_runKept s
  split
  · exact (h1.trans (endCommit_runKept s1)).trans (beginCommit_runKept 1 _)
  · exact h1

theorem integrateEnd_kept (n : Nat) {o s : State} (h : Kept allButTmb o s) : Kept allButTmb o (integrateEnd n s) := by
  have hF : Sub allButTmb allButTmb := Nat.and_self _
  exact kept_ite (beginCommit_kept 1 (endCommit_kept false (accEnd_kept h))) (accEnd_kept h)

/-- The cut sets' part of a run, under the image of its table. -/
def integrateCuts (i : Inst) (n : Nat) (pw : List (Nat × Nat)) (s : State) : State × List CutSt :=
  if i.old then oldIntegrate n pw s else
    let t := integrateRun (accCfgOf (s.instImg i)) n pw s
    (t, t.acc.cuts)

theorem integrateCuts_kept (i : Inst) (n : Nat) (pw : List (Nat × Nat)) (s : State) : Kept allButTmb s (integrateCuts i n pw s).1 := by
  have hF : Sub allButTmb allButTmb := Nat.and_self _
  exact kept_ite_fst (oldIntegrate_kept n pw (Kept.refl _ s)) (integrateRun_kept _ n pw (Kept.refl _ s))

theorem execIntegrate_next {n : Nat} {j : Fin 4096} {i : Inst} {it : Item} {s : State} (h : s.isRunning n j 4 1 = some (i, it)) :
    ∃ pw miss startUp, execIntegrate n j s = .next (zerosDue (accCfgOf (s.instImg i)) n startUp (integrateEnd n
      (putOut i j { data := ((integrateCuts i n pw s).2.map cutEntry).flatten, miss := miss } ((integrateCuts i n pw s).1.eccWrite 7 0)))) := by
  refine ⟨s.accVector i j it, missIn (s.kin i j it n false), s.up - (s.clv.now - (runOf i j).startAt), ?_⟩
  unfold execIntegrate
  rw [h]
  rfl

theorem execIntegrate_hasResult {n : Nat} {j : Fin 4096} {i : Inst} {it : Item} {s : State} (h : s.isRunning n j 4 1 = some (i, it)) :
    Runs (.integrate n j) s (HasResult i j s) := by
  have hF : Sub allButTmb allButTmb := Nat.and_self _
  obtain ⟨pw, miss, startUp, hnext⟩ := execIntegrate_next h
  refine ⟨_, hnext, ?_⟩
  have hput := hasResult_putOut (st_eccWrite_kept 7 0 (integrateCuts_kept i n pw s)).tmb i j
    { data := ((integrateCuts i n pw s).2.map cutEntry).flatten, miss := miss }
  exact hput.of_tmb (zerosDue_kept _ n startUp (integrateEnd_kept n (Kept.refl _ _))).tmb

/-- The tick a run of INTEGRATE makes the last one. -/
def accTop (n : Nat) (s : State) : Nat := match s.acc.lastReg with | some k => max k n | none => n

/-- What the accounting keeps of a run (R297): the `Inst` it ran up to, RUNNING, and a state for every cut set. -/
structure AccKept (i : Inst) (n : Nat) (s t : State) : Prop where
  zero : t.acc.zero = s.acc.zero
  lastTick : t.acc.lastTick = some (accTop n s)
  lastInst : t.acc.lastInst = s.tickInst (accTop n s)
  running : t.rd fACC_STS_RUNNING = 1
  old : i.old = true → t.acc.cuts.length = (accCfgOf s.img).cuts.length
  new : i.old = false → t.acc.cuts.length = (accCfgOf (s.instImg i)).cuts.length

theorem RunKept.accKept {i : Inst} {n : Nat} {s t u : State} (h : RunKept t u) (k : AccKept i n s t) : AccKept i n s u := by
  have hcuts := congrArg List.length h.cuts
  exact ⟨h.zero.trans k.zero, h.lastTick.trans k.lastTick, h.lastInst.trans k.lastInst, h.running.trans k.running,
    fun hold => hcuts.trans (k.old hold), fun hnew => hcuts.trans (k.new hnew)⟩

theorem integrateCuts_accKept (i : Inst) (n : Nat) (pw : List (Nat × Nat)) (s : State) : AccKept i n s (integrateCuts i n pw s).1 := by
  unfold integrateCuts
  split
  case isTrue hold =>
    unfold oldIntegrate
    extract_lets old new kept
    split
    extract_lets t
    have hran : AccRan old n _ t := integrateRun_ran ..
    refine ⟨hran.zero, hran.lastTick, hran.lastInst, hran.running, fun _ => ?_, fun hnew => ?_⟩
    · exact (List.length_map ..).trans List.length_range
    · rw [hold] at hnew
      cases hnew
  case isFalse hnew =>
    have hran := integrateRun_ran (accCfgOf (s.instImg i)) n pw s
    exact ⟨hran.zero, hran.lastTick, hran.lastInst, hran.running, fun hold => absurd hold hnew, fun _ => hran.cuts⟩

theorem integrateCuts_snd {i : Inst} (hnew : i.old = false) (n : Nat) (pw : List (Nat × Nat)) (s : State) :
    (integrateCuts i n pw s).2 = (integrateCuts i n pw s).1.acc.cuts := by
  unfold integrateCuts
  rw [if_neg (by simp [hnew])]

/-- What a run of INTEGRATE leaves in the end. -/
structure IntegrateDone (n : Nat) (i : Inst) (j : Nat) (s t : State) : Prop extends AccKept i n s t where
  data : i.old = false → ∃ i', t.inst? n = some i' ∧ (runOf i' j).data = some (t.acc.cuts.map cutEntry).flatten

theorem execIntegrate_done {n : Nat} {j : Fin 4096} {i : Inst} {it : Item} {s : State} (h : s.isRunning n j 4 1 = some (i, it))
    (hzero : s.acc.zero = []) : Runs (.integrate n j) s (IntegrateDone n i j s) := by
  have hF : Sub allButTmb allButTmb := Nat.and_self _
  have hrun := running_of h
  obtain ⟨pw, miss, startUp, hnext⟩ := execIntegrate_next h
  refine ⟨_, hnext, ?_⟩
  have hcuts := integrateCuts_accKept i n pw s
  have htmb := (st_eccWrite_kept 7 0 (integrateCuts_kept i n pw s)).tmb
  have hsnd := fun hnew => integrateCuts_snd (i := i) hnew n pw s
  generalize integrateCuts i n pw s = r at hcuts htmb hsnd ⊢
  obtain ⟨u, cuts⟩ := r
  have hecc : RunKept u (u.eccWrite 7 0) := eccWrite_runKept 7 0 u
  have hput : RunKept (u.eccWrite 7 0) (putOut i j { data := (cuts.map cutEntry).flatten, miss := miss } (u.eccWrite 7 0)) :=
    ⟨rfl, rfl, rfl, rfl, rfl⟩
  have hend := integrateEnd_runKept n (putOut i j { data := (cuts.map cutEntry).flatten, miss := miss } (u.eccWrite 7 0))
  have hall := (hecc.trans hput).trans hend
  have hzeros := zerosDue_runKept (hall.zero.trans (hcuts.zero.trans hzero)) (accCfgOf (s.instImg i)) n startUp
  have hfin := hall.trans hzeros
  refine ⟨hfin.accKept hcuts, fun hnew =>
    ⟨setRun i j (withOut { data := (cuts.map cutEntry).flatten, miss := miss } (runOf i j)), ?_, ?_⟩⟩
  · exact (inst_eq_of_tmb (zerosDue_kept _ n startUp (integrateEnd_kept n (Kept.refl _ _))).tmb n).trans (putOut_inst hrun htmb _)
  · rw [runOf_setRun_self hrun.lt, hfin.cuts]
    exact congrArg (fun l : List CutSt => some (l.map cutEntry).flatten) (hsnd hnew)

/-! ### Errors in the engines' state (R227, R262) -/

theorem bit_flag_self {f : Fld} {b : Nat} (hb : b < f.w) (s : State) : (s.flag f b).bit f b = true := by
  rw [bit_flag hb, decide_eq_true rfl, Bool.or_true]

theorem bit_flag_of {f : Fld} {b : Nat} (hb : b < f.w) {s : State} (h : s.bit f b = true) (c : Nat) : (s.flag f c).bit f b = true := by
  rw [bit_flag hb, h, Bool.true_or]

/-- An uncorrectable error counted, flagged and told; nothing else that the engines keep changes. -/
structure Told (count flags : Fld) (b : Nat) (s t : State) : Prop where
  spec : t.spec = s.spec
  coh : t.coh = s.coh
  img : t.img = s.img
  count : t.rd count = satAdd count.w (s.rd count) 1
  flag : t.bit flags b = true

theorem post_told {count flags : Fld} {b : Nat} (hc : count.block ≠ 0x0C ∧ count.block ≠ 0x0D) (hf : flags.block ≠ 0x0C ∧ flags.block ≠ 0x0D)
    (hne : count.key ≠ flags.key) (hb : b < flags.w) (code : Nat) (payload : Bytes) (s : State) :
    Told count flags b s (post code payload ((s.inc count).flag flags b)) := by
  have hF : Sub postParts postParts := Nat.and_self _
  have hk : Kept postParts s (post code payload ((s.inc count).flag flags b)) := post_kept code payload (st_flag_kept _ _ (st_inc_kept _ _ (Kept.refl _ s)))
  refine ⟨hk.2.2.same .spec (by decide), hk.2.2.same .coh (by decide), hk.2.2.same .img (by decide), ?_, ?_⟩
  · rw [post_rd _ _ _ hc, rd_flag hne, rd_inc_self]
  · rw [bit_eq_of_rd (post_rd _ _ _ hf), bit_flag_self hb]

/-- What is lost of the spectral state, and that the error was told. -/
structure SpecLost (w : Fin 3) (index : Nat) (s t : State) : Prop where
  count : t.rd fSPEC_ECC_CNT_UE = satAdd fSPEC_ECC_CNT_UE.w (s.rd fSPEC_ECC_CNT_UE) 1
  flag : t.bit fSPEC_FLT_FLAGS 1 = true
  sig : w = 0 → t.spec = { s.spec with sigs := s.spec.sigs.set index (sigInit (specCfgOf s.img)) }
  trk : w = 1 → ∀ c, (specCfgOf s.img).trk = some c → t.spec.trk.samples = 0 ∧ t.spec.trk.modes = [] ∧ t.bit fSPEC_FLT_FLAGS 2 = true
  target : w = 2 → t.spec = { s.spec with defs := s.spec.defs.set index {} }

theorem specReset_trk {u : State} {c : TrkCfg} (hc : (specCfgOf u.img).trk = some c) (index : Nat) :
    specReset 1 index u = (u.setSpec { u.spec with trk := { trkReset c u.spec.trk with taps := [], evalFlags := 8 } }).flag fSPEC_FLT_FLAGS 2 := by
  simp [specReset, hc]

/-- The reset itself raises TRK_RST and writes no other register. -/
theorem specReset_rd {f : Fld} (hf : f.key ≠ fSPEC_FLT_FLAGS.key) (w index : Nat) (u : State) : (specReset w index u).rd f = u.rd f := by
  unfold specReset
  dsimp only
  split
  · rfl
  split
  · split
    · exact rd_flag hf ..
    · rfl
  · rfl

theorem specReset_bit {b : Nat} (hb : b < fSPEC_FLT_FLAGS.w) {u : State} (h : u.bit fSPEC_FLT_FLAGS b = true) (w index : Nat) :
    (specReset w index u).bit fSPEC_FLT_FLAGS b = true := by
  unfold specReset
  dsimp only
  split
  · exact h
  split
  · split
    · exact bit_flag_of hb h 2
    · exact h
  · exact h

theorem specReset_lost {s u : State} (h : Told fSPEC_ECC_CNT_UE fSPEC_FLT_FLAGS 1 s u) (w : Fin 3) (index : Nat) :
    SpecLost w index s (specReset w index u) := by
  refine ⟨(specReset_rd (by decide) ..).trans h.count, specReset_bit (by decide) h.flag .., ?_, ?_, ?_⟩
  · rintro rfl
    rw [← h.spec, ← h.img]
    rfl
  · rintro rfl c hc
    rw [← h.img] at hc
    have hreset := specReset_trk hc index
    change specReset ((1 : Fin 3) : Nat) index u = _ at hreset
    rw [hreset]
    exact ⟨rfl, rfl, bit_flag_self (by decide) _⟩
  · rintro rfl
    rw [← h.spec]
    rfl

theorem execSpecStateUe_lost (w : Fin 3) (index : Nat) (s : State) : Runs (.specStateUe .lost w index) s (SpecLost w index s) :=
  ⟨_, rfl, specReset_lost (post_told (by decide) (by decide) (by decide) (by decide) ..) w index⟩

theorem execCohSramUe_lost (s : State) : Runs (.cohSramUe .lost) s fun t =>
    t.coh = { s.coh with run := { branches := branchInit (cohCfgOf s.img) } } ∧
      t.rd fCOH_ECC_CNT_UE = satAdd fCOH_ECC_CNT_UE.w (s.rd fCOH_ECC_CNT_UE) 1 ∧ t.bit fCOH_FLT_FLAGS 6 = true := by
  have h : Told fCOH_ECC_CNT_UE fCOH_FLT_FLAGS 6 s _ := post_told (by decide) (by decide) (by decide) (by decide) 0x51 (le 8 s.curTick ++ le 2 0) s
  have hcoh := h.coh
  have himg := h.img
  refine ⟨_, rfl, ?_, h.count, h.flag⟩
  rw [← hcoh, ← himg]
  rfl

/-! ### The obligations -/

/-- Settles O35: each engine's run belongs to its `Inst`'s tick, and a run under the image before a swap gives the state that did not carry
over back; what an error resets is read off the reset. -/
theorem engineRows : Obligations.EngineRows := by
  refine ⟨fun n j i it s h hlen => ?_, fun n j i it s h => ?_, fun n j i it c s h hc => ?_, fun n j i it s h => ?_,
    fun n j i it top s h hzero htop => ?_, fun _ _ _ _ => rfl, fun _ _ => rfl, fun w index s => ?_, execCohSramUe_lost⟩
  · obtain ⟨t, hexec, hdone⟩ := execSdftUpdate_done h
    exact ⟨t, hexec, hdone.buf hlen, hdone.trk, hdone.defs, hdone.new, hdone.old⟩
  · obtain ⟨t, hexec, hdone⟩ := execDefUpdate_done h
    exact ⟨t, hexec, hdone.sigs, hdone.trk, hdone.new, hdone.old⟩
  · obtain ⟨t, hexec, hdone⟩ := execModeTrack_done h hc
    exact ⟨t, hexec, hdone.sigs, hdone.new, hdone.old⟩
  · obtain ⟨t, hexec, hdone⟩ := execComponents_done h
    exact ⟨t, hexec, hdone.new, hdone.old, hdone.topo⟩
  · obtain ⟨t, hexec, hdone⟩ := execIntegrate_done h hzero
    subst htop
    exact ⟨t, hexec, hdone.lastTick, hdone.lastInst, hdone.running, hdone.old, fun hnew => ⟨hdone.new hnew, hdone.data hnew⟩⟩
  · obtain ⟨t, hexec, hlost⟩ := execSpecStateUe_lost w index s
    exact ⟨t, hexec, hlost.count, hlost.flag, hlost.sig, hlost.trk, hlost.target⟩


end Sys2Proof.Machine
end

section
/-!
PROOFS. Scope: the kernels with effects beside their data (R207, R219), and the codes that EVT_POST posts.
-/

namespace Sys2Proof.Machine

/-! ### EVT_POST's codes -/

theorem zipIdx_firstN (n : Nat) (l : List Nat) : (firstN n l).zipIdx = (List.range n).map fun x => (elemAt l x, x) := by
  refine List.ext_getElem? fun k => ?_
  rw [List.getElem?_zipIdx, Nat.zero_add]
  by_cases hk : k < n
  · rw [getElem?_firstN hk]
    simp [hk]
  · simp [firstN, hk]

/-- EVT_POST posts in the flags' order the code of every flag that is set. -/
theorem execEvtPost_eq {n : Nat} {j : Fin 4096} {i : Inst} {it : Item} {k : KIn} {s : State} (h : s.isRunning n j 0 0x2A = some (i, it))
    (hk : k = s.kin i j it n false) (hconst : constLost k = false) :
    execEvtPost n j s = .next (putOut i j { data := [], miss := missIn k }
      (((List.range (min (parE k) 32)).filter fun x => !missW (elemAt (flagWords k) x) && (elemAt (flagWords k) x).testBit 0).foldl
        (fun s x => postAt n (blockByte (constWords k) x) (le 2 j.val ++ le 2 x) s) s)) := by
  unfold execEvtPost
  rw [h]
  dsimp only
  rw [← hk, hconst, zipIdx_firstN, List.foldl_map, List.foldl_filter]
  simp only [Bool.not_false, Bool.and_true]

/-- Settles O34: every one of these commands puts one result in a state whose sequencer is as it was, whatever else it does; EVT_POST goes through
its flags in order. Which word holds a flag, and its payload, are the model's (log entry 22). -/
theorem effectKernels : Obligations.EffectKernels := by
  refine ⟨?_, fun n j i it k s h hk hconst => execEvtPost_eq h hk hconst⟩
  have hruns : ∀ {c : Nat → Fin 4096 → Instr} {unit code : Nat}, (∀ n (j : Fin 4096) i it s, s.isRunning n j unit code = some (i, it) →
      Runs (c n j) s (HasResult i j s)) → ∀ n (j : Fin 4096) i it s, s.isRunning n j unit code = some (i, it) → Runs (c n j) s (RunsOn n j i) := by
    intro c unit code hc n j i it s h
    obtain ⟨t, hexec, hresult⟩ := hc n j i it s h
    exact ⟨t, hexec, hresult.runsOn (running_of h)⟩
  simp only [List.forall_mem_cons]
  refine ⟨hruns fun n j i it s h => ?sdft, hruns fun n j i it s h => ?defs, hruns fun _ _ _ _ _ h => execModeTrack_hasResult h,
    hruns fun n j i it s h => ?comps, hruns fun _ _ _ _ _ h => execIntegrate_hasResult h, hruns fun _ _ _ _ _ h => execCompose_hasResult h,
    hruns fun _ _ _ _ _ h => execAmend_hasResult h, hruns fun _ _ _ _ _ h => execAlmPost_hasResult h,
    hruns fun _ _ _ _ _ h => execAlmPio_hasResult h, hruns fun _ _ _ _ _ h => execEvtPost_hasResult h,
    hruns fun _ _ _ _ _ h => execSnrPrep_hasResult h, hruns fun _ _ _ _ _ h => ⟨_, rfl, outPack_hasResult h⟩,
    hruns fun _ _ _ _ _ h => ⟨_, rfl, outPack_hasResult h⟩, hruns fun _ _ _ _ _ h => execOutStat_hasResult h,
    hruns fun _ _ _ _ _ h => execOutAmendPack_hasResult h, List.forall_mem_nil _⟩
  case sdft =>
    obtain ⟨t, hexec, hdone⟩ := execSdftUpdate_done h
    exact ⟨t, hexec, hdone.result⟩
  case defs =>
    obtain ⟨t, hexec, hdone⟩ := execDefUpdate_done h
    exact ⟨t, hexec, hdone.result⟩
  case comps =>
    obtain ⟨t, hexec, hdone⟩ := execComponents_done h
    exact ⟨t, hexec, hdone.result⟩

end Sys2Proof.Machine
end

section
/-!
PROOFS. Scope: kernels that feed Snare and the outputs, composing and amending, and NOP (R219, R317, R320 to R323, R327, R329, R342, R489).
-/

namespace Sys2Proof.Machine

/-- The result's data stand in the item's run, whatever else but the sequencer has changed before and since. -/
theorem putOut_data {s u t : State} {n j unit code : Nat} {i : Inst} {it : Item} (hrun : RunningItem s n j unit code i it) (hu : u.tmb = s.tmb)
    (o : KOut) (ht : t.tmb = (putOut i j o u).tmb) : ∃ i', t.inst? n = some i' ∧ (runOf i' j).data = some o.data :=
  ⟨_, (inst_eq_of_tmb ht n).trans (putOut_inst hrun hu o), by rw [runOf_setRun_self hrun.lt]; rfl⟩

/-! ### SNR_PREP and the packing items (R219, R320, R321, R328) -/

section Packs

variable {s : State} {n : Nat} {j : Fin 4096} {i : Inst} {it : Item} {im : Image}

theorem execSnrPrep_row {k : Nat} {c : SnrDefCfg} (h : s.isRunning n j 0 0x35 = some (i, it)) (hk : snrPrepIndex (s.items i) j = some k)
    (him : s.instImg i = some im) (hc : im.snare[k]? = some c) : Runs (.snrPrep n j) s fun t =>
      t.snr.prep = s.snr.prep ++ [(k, s.snrRow i j it c)] ∧ t.snr.defs = s.snr.defs ∧
        ∃ i', t.inst? n = some i' ∧ (runOf i' j).data = some (wordsOf (rowBytes (s.snrRow i j it c))) := by
  have hbind : ((s.instImg i).bind fun im => im.snare[k]?) = some c := by rw [him]; exact hc
  refine ⟨_, rfl, ?_⟩
  rw [h]
  dsimp -zeta only
  rw [hk]
  dsimp -zeta only
  rw [hbind]
  exact ⟨rfl, rfl, putOut_data (running_of h) rfl { data := wordsOf (rowBytes (s.snrRow i j it c)), miss := _ } rfl⟩

theorem outPack_data {code : Nat} {o : OutStream} {b : OutBlock} (h : s.isRunning n j 0 code = some (i, it)) (him : s.instImg i = some im)
    (ho : im.outs[parE (s.kin i j it n false)]? = some o) (hb : o.blocks[parA (s.kin i j it n false)]? = some b) (hm : s.reportOf o n = n) :
    ∃ i', (outPack code n j s).inst? n = some i' ∧ (runOf i' j).data = some (wordsOf (packBlock o.dfmt b
      (match b.slot with
        | some sl => (slotVals sl (s.kin i j it n false).ops).getD missVals
        | none => wordVals b (blockWords (s.kin i j it n false).ops))).1) := by
  have hF : Sub allButTmb allButTmb := Nat.and_self _
  have hbind : ((s.instImg i).bind fun im => im.outs[parE (s.kin i j it n false)]?) = some o := by rw [him]; exact ho
  unfold outPack
  rw [h]
  dsimp -zeta only
  extract_lets k st
  rw [hbind]
  dsimp -zeta only
  rw [hb]
  dsimp -zeta only
  extract_lets now m _ _ _ _ u
  have hmn : m = n := hm
  have hu : u.tmb = s.tmb := by
    simp only [u, if_pos hmn]
    exact (kept_ite (countSat_kept _ (Kept.refl _ s)) (Kept.refl _ s)).tmb
  simp only [if_pos hmn]
  exact putOut_data (running_of h) hu (outOf k (wordsOf (packBlock o.dfmt b now).1)) rfl

theorem execOutStat_data {o : OutStream} (h : s.isRunning n j 0 0x3C = some (i, it)) (him : s.instImg i = some im)
    (ho : im.outs[parE (s.kin i j it n false)]? = some o) (hm : s.reportOf o n = n) :
    Runs (.outStat n j) s fun t => ∃ i', t.inst? n = some i' ∧ (runOf i' j).data = some ((o.blocks.zipIdx.take (parN (s.kin i j it n false))).map
      fun b => s.statWord (o.format = 1) false (s.cfgPending (parE (s.kin i j it n false)))
        ((b.1.slot.bind fun sl => slotQual sl (s.kin i j it n false).ops).getD
          (s.blockQual i (parE (s.kin i j it n false)) b.2 b.1 false n))) := by
  have hbind : ((s.instImg i).bind fun im => im.outs[parE (s.kin i j it n false)]?) = some o := by rw [him]; exact ho
  refine ⟨_, rfl, ?_⟩
  rw [h]
  dsimp -zeta only
  extract_lets k st
  rw [hbind]
  dsimp -zeta only
  extract_lets now m
  have hmn : m = n := hm
  simp only [if_pos hmn]
  obtain ⟨i', hi', hdata⟩ := putOut_data (running_of h) rfl (outOf k (now.map (s.statWord (o.format = 1) false (s.cfgPending st)))) rfl
  exact ⟨i', hi', hdata.trans (congrArg some (List.map_map ..))⟩

theorem execOutAmendPack_data {o : OutStream} {late mask a : Nat} (h : s.isRunning n j 0 0x3D = some (i, it))
    (ha : i.amend[it.p2 / 65536]? = some (late, mask, a)) (him : s.instImg i = some im) (ho : im.outs[it.p2 % 65536]? = some o)
    (hmask : mask.testBit (it.p2 % 65536) = true) (hreport : s.isReport o late = true) : Runs (.outAmendPack n j) s fun t => ∃ i' b,
      t.inst? n = some i' ∧ b = (s.amendBytes i (it.p2 % 65536) late o (s.kin i j it late true)).1 ∧
        (runOf i' j).data = some (b.length :: wordsOf b) := by
  have hF : Sub allButTmb allButTmb := Nat.and_self _
  have hbind : ((s.instImg i).bind fun im => im.outs[it.p2 % 65536]?) = some o := by rw [him]; exact ho
  refine ⟨_, rfl, ?_⟩
  rw [h]
  dsimp -zeta only
  extract_lets st
  rw [ha, hbind]
  dsimp -zeta only
  extract_lets k
  rw [if_pos (by rw [hmask, hreport]; rfl)]
  obtain ⟨i', hi', hdata⟩ := putOut_data (running_of h) (countSat_kept (s.amendBytes i st late o k).2 (Kept.refl _ s)).tmb
    (outOf k ((s.amendBytes i st late o k).1.length :: wordsOf (s.amendBytes i st late o k).1)) rfl
  exact ⟨i', _, hi', rfl, hdata⟩

end Packs

/-! ### Sending leaves the raw blocks and the streams' commands alone (R322, R323, R332) -/

/-- The raw blocks waiting and every stream's commands are the same. -/
structure SendKept (s t : State) : Prop where
  blocks : t.egr.blocks = s.egr.blocks
  cmds : ∀ k, (t.outSt k).cmds = (s.outSt k).cmds

theorem sendKept_refl (s : State) : SendKept s s := ⟨rfl, fun _ => rfl⟩

theorem SendKept.trans {s t u : State} (h : SendKept s t) (k : SendKept t u) : SendKept s u :=
  ⟨k.blocks.trans h.blocks, fun x => (k.cmds x).trans (h.cmds x)⟩

theorem sendKept_of_egr {s t : State} (h : t.egr = s.egr) : SendKept s t := ⟨by rw [h], fun k => by unfold State.outSt; rw [h]⟩

theorem outSt_setOutSt (s : State) (k x : Nat) (o : OutSt) : (s.setOutSt k o).outSt x = if x = k then o else s.outSt x := by
  unfold State.outSt State.setOutSt
  split
  case isTrue h => rw [h]; exact smGet_smSet_self ..
  case isFalse h => exact smGet_smSet_ne _ _ _ _ h

theorem setOutSt_sendKept {s : State} {k : Nat} {o : OutSt} (h : o.cmds = (s.outSt k).cmds) : SendKept s (s.setOutSt k o) :=
  ⟨rfl, fun x => by rw [outSt_setOutSt]; split <;> simp_all⟩

theorem streamDrop_sendKept (k : Nat) (s : State) : SendKept s (streamDrop k s) := setOutSt_sendKept rfl

theorem sendKept_foldl {α : Type} {f : State → α → State} (hf : ∀ s x, SendKept s (f s x)) (l : List α) (s : State) : SendKept s (l.foldl f s) := by
  induction l generalizing s with
  | nil => exact sendKept_refl s
  | cons x xs ih => exact (hf s x).trans (ih _)

theorem withdrawn_sendKept (f : TxFrame) (s : State) : SendKept s (withdrawn f s) := by
  unfold withdrawn
  extract_lets s1
  have h1 : SendKept s s1 := sendKept_of_egr rfl
  split
  · exact h1.trans (streamDrop_sendKept ..)
  · exact h1

theorem withdraw_sendKept (n : Nat) (p : TxFrame → Bool) (s : State) : SendKept s (withdraw n p s) := by
  unfold withdraw
  extract_lets hit pt staged gone s1 s2 back s3
  have h3 : SendKept s s3 := ⟨rfl, fun _ => rfl⟩
  split
  · exact sendKept_refl s
  · exact h3.trans (sendKept_foldl (fun s f => withdrawn_sendKept f s) ..)

theorem egrStream_sendKept (n k stream : Nat) (f : TxFrame) (s : State) : SendKept s (egrStream n k stream f s) := by
  unfold egrStream
  extract_lets c _ s1 s2 s3 age
  have h2 : SendKept s s2 := ⟨rfl, fun _ => rfl⟩
  have hF : Sub postParts postParts := Nat.and_self _
  have hk3 : Kept postParts s2 s3 := kept_ite (st_inc_kept _ _ (st_ev_kept _ _ (Kept.refl _ s2))) (st_inc_kept _ _ (st_ev_kept _ _ (Kept.refl _ s2)))
  have h3 : SendKept s2 s3 := sendKept_of_egr (hk3.2.2.same .egr (by decide))
  exact (h2.trans h3).trans (withdraw_sendKept ..)

theorem offerCopies_sendKept (n j st : Nat) (l : List (Nat × Nat × TxFrame)) (s : State) : SendKept s (offerCopies n j st l s) := by
  induction l generalizing s with
  | nil => exact sendKept_refl s
  | cons x xs ih =>
    unfold offerCopies
    dsimp only
    split
    · exact ⟨rfl, fun _ => rfl⟩
    · exact (egrStream_sendKept ..).trans (ih _)

theorem streamSend_sendKept (n j st m kind : Nat) (o : OutStream) (p : OutDest → Bool) (payload : Bytes) (s : State) :
    SendKept s (streamSend n j st m kind o p payload s) := by
  unfold streamSend
  extract_lets q os ds copies built s1 good
  have h1 : SendKept s s1 := by
    refine sendKept_foldl (fun u x => ?_) ..
    split
    · exact (streamDrop_sendKept st u).trans (sendKept_of_egr rfl)
    · exact sendKept_refl u
  exact h1.trans (offerCopies_sendKept ..)

/-! ### COMPOSE and AMEND (R322, R327, R329, R342) -/

section Frames

variable {s : State} {n : Nat} {j : Fin 4096} {i : Inst} {it x : Item} {im : Image} {o : OutStream} {p : Nat} {ps : List Nat}

/-- The packing items that an item reads: the producers it names but OUT_STAT. -/
def packers (its : List Item) (it : Item) : List Nat :=
  (producers it).filter fun p => match its[p]? with | some x => x.kernel ≠ 0x3C | none => false

/-- What COMPOSE leaves of the raw blocks and of its stream's commands. -/
structure Composed (n st : Nat) (o : OutStream) (s t : State) : Prop where
  raw : o.format = 2 → ∃ b, t.egr.blocks = s.egr.blocks ++ [b] ∧ b.stream = st ∧ b.tick = s.reportOf o n
  data : o.format ≠ 2 → t.egr.blocks = s.egr.blocks ∧ (t.outSt st).cmds = (s.outSt st).cmds.filter fun c => !s.cmdDue n c

theorem applyCmds_cmds (n st : Nat) (s : State) : ((applyCmds n st s).outSt st).cmds = (s.outSt st).cmds.filter fun c => !s.cmdDue n c := by
  unfold applyCmds
  rw [outSt_setOutSt, if_pos rfl]

theorem execCompose_composed (h : s.isRunning n j 5 1 = some (i, it))
    (hpacks : packers (s.items i) it = p :: ps) (hx : (s.items i)[p]? = some x) (him : s.instImg i = some im) (ho : im.outs[x.p2 % 65536]? = some o)
    (hreport : s.isReport o (s.reportOf o n) = true) : Runs (.compose n j) s (Composed n (x.p2 % 65536) o s) := by
  have hbind : ((s.instImg i).bind fun im => im.outs[x.p2 % 65536]?) = some o := by rw [him]; exact ho
  refine ⟨_, rfl, ?_⟩
  rw [h]
  dsimp -zeta only
  extract_lets its qs packs st done fl stale s1 data flags _ s2
  have hpacks' : packs = p :: ps := hpacks
  have hst : st = x.p2 % 65536 := by
    unfold st
    rw [hpacks']
    change ((s.items i)[p]?.map fun x => x.p2 % 65536).getD 0 = _
    rw [hx]
    rfl
  have hsent : s1.egr = s.egr := by
    unfold s1
    split <;> rfl
  have hup : s1.cmdDue n = s.cmdDue n := by
    unfold s1
    split <;> rfl
  have hs2 : s2 = applyCmds n (x.p2 % 65536) s1 := by
    unfold s2
    rw [hst]
  rw [hst, hbind]
  dsimp -zeta only
  extract_lets m
  rw [if_neg (by rw [hreport]; decide)]
  split
  case isTrue hraw =>
    refine ⟨fun _ => ⟨s1.rawBlock (x.p2 % 65536) m packs.length flags data, ?_, rfl, rfl⟩, fun h => absurd hraw h⟩
    exact congrArg (fun e : Egr => e.blocks ++ [s1.rawBlock (x.p2 % 65536) m packs.length flags data]) hsent
  case isFalse hdata =>
    refine ⟨fun h => absurd h hdata, fun _ => ?_⟩
    have hcmds := applyCmds_cmds n (x.p2 % 65536) s1
    rw [← hs2, (sendKept_of_egr hsent).cmds, hup] at hcmds
    have hblocks : s2.egr.blocks = s.egr.blocks := by
      rw [hs2]
      exact (congrArg Egr.blocks hsent :)
    have hsend : ∀ u, SendKept s2 u → (done u).egr.blocks = s.egr.blocks ∧
        ((done u).outSt (x.p2 % 65536)).cmds = (s.outSt (x.p2 % 65536)).cmds.filter fun c => !s.cmdDue n c := fun u hu =>
      ⟨hu.blocks.trans hblocks, (hu.cmds _).trans hcmds⟩
    exact hsend _ (streamSend_sendKept ..)

/-- A raw stream's amendment, queued as a raw block (R329, R342). -/
theorem sendAmend_raw {late mask a : Nat} {b : Bytes} (hx : (s.items i)[p]? = some x) (ha : i.amend[x.p2 / 65536]? = some (late, mask, a))
    (him : s.instImg i = some im) (ho : im.outs[x.p2 % 65536]? = some o) (hraw : o.format = 2) (hamend : o.rawAmend = true)
    (hb : packBytes i p = some b) (hlen : b.length ≥ 4) :
    ∃ y, (sendAmend n j i p s).egr.blocks = s.egr.blocks ++ [y] ∧ y.stream = x.p2 % 65536 ∧ y.tick = late ∧ y.flags = 128 := by
  have hbind : ((s.instImg i).bind fun im => im.outs[x.p2 % 65536]?) = some o := by rw [him]; exact ho
  unfold sendAmend
  rw [hx]
  dsimp -zeta only
  extract_lets st
  rw [ha, hbind, hb]
  dsimp -zeta only
  rw [if_neg (Nat.not_lt.2 hlen), if_pos hraw, if_pos hamend]
  refine ⟨_, rfl, rfl, rfl, if_pos ?_⟩
  rw [Nat.testBit_zero]
  split <;> split <;> rfl

theorem execAmend_raw {late mask a : Nat} {b : Bytes} (h : s.isRunning n j 5 2 = some (i, it)) (hprod : producers it = [p])
    (hx : (s.items i)[p]? = some x) (ha : i.amend[x.p2 / 65536]? = some (late, mask, a)) (him : s.instImg i = some im)
    (ho : im.outs[x.p2 % 65536]? = some o) (hraw : o.format = 2) (hamend : o.rawAmend = true) (hb : packBytes i p = some b)
    (hlen : b.length ≥ 4) : Runs (.amend n j) s fun t =>
      ∃ y, t.egr.blocks = s.egr.blocks ++ [y] ∧ y.stream = x.p2 % 65536 ∧ y.tick = late ∧ y.flags = 128 := by
  refine ⟨_, rfl, ?_⟩
  rw [h]
  dsimp -zeta only
  rw [hprod]
  exact sendAmend_raw (n := n) (j := j) hx ha him ho hraw hamend hb hlen

end Frames

/-! ### NOP (R219, R489) -/

theorem execNop_item {n : Nat} {j : Fin 4096} {i : Inst} {it : Item} {s : State} (h : s.isRunning n j 0 0x3F = some (i, it)) (args : List Nat) :
    Runs (.nop n j none args) s fun t => ∃ i', t.inst? n = some i' ∧ (runOf i' j).data = some [] := by
  refine ⟨_, rfl, ?_⟩
  dsimp only
  rw [runKernel_running h]
  exact putOut_data (running_of h) rfl _ rfl

theorem execNop_channel {n : Nat} {j : Fin 4096} {c : Nat} {args : List Nat} {r : Running} {s : State} (h : accepted (.chan c) 0x0001 r s) :
    Runs (.nop n j (some (.chan c)) args) s fun t => t.cmd? (.chan c) = some { r with done := some (stOk, r.args) } ∧ t.out = s.out :=
  runs_accepted_same .out (by decide) h (i := .nop n j (some (.chan c)) args) rfl (a := .done stOk r.args) (u := s) rfl rfl

/-- Settles O36: each packing item's result, the block or the amendment it becomes, and a channel's answer are read off the commands, for what a
frame is sent through leaves the raw blocks and the streams' commands alone. -/
theorem packRows : Obligations.PackRows := by
  refine ⟨fun n j i it k im c s h hk him hc => execSnrPrep_row h hk him hc, ?pack,
    fun n j i it im o s h him ho hm => execOutStat_data h him ho hm,
    fun n j i it im o late mask a s h ha him ho hmask hreport => execOutAmendPack_data h ha him ho hmask hreport,
    fun n j i it p ps x im o s h hpacks hx him ho hreport => ?compose,
    fun n j i it p x im o late mask a b s h hprod hx ha him ho hraw hamend hb hlen => execAmend_raw h hprod hx ha him ho hraw hamend hb hlen,
    fun n j i it s h args => execNop_item h args,
    fun n j c args r s hcmd hop hdone hwait => execNop_channel ⟨hcmd, hop, hdone, hwait⟩⟩
  case pack =>
    simp only [List.forall_mem_cons]
    exact ⟨fun n j i it im o b s h him ho hb hm => ⟨_, rfl, outPack_data h him ho hb hm⟩,
      fun n j i it im o b s h him ho hb hm => ⟨_, rfl, outPack_data h him ho hb hm⟩, List.forall_mem_nil _⟩
  case compose =>
    obtain ⟨t, hexec, hcomposed⟩ := execCompose_composed h hpacks hx him ho hreport
    exact ⟨fun hraw => ⟨t, hexec, hcomposed.raw hraw⟩, fun hdata => ⟨t, hexec, hcomposed.data hdata⟩⟩

end Sys2Proof.Machine
end

section
/-!
PROOFS. Scope: what the sequencer's own upkeep leaves alone (R191 to R217): its instances' items that are done, what runs, the lanes' counts and the
faults it has flagged.
-/

namespace Sys2Proof.Machine

/-! ### Registers that upkeep writes -/

/-- The field is neither TMB_FLT nor a lane's count of items. -/
def Quiet (f : Fld) : Prop := f.key ≠ fTMB_FLT_FLAGS.key ∧ ∀ p < 32, f.key ≠ (fLANE_ITEMS_CNT_ITEMS p).key

/-- The lanes' counts stand 512 bytes apart from 0x60010. -/
theorem quiet_of {f : Fld} (hflt : f.key ≠ fTMB_FLT_FLAGS.key) (hitems : f.key < 0x60000 * 32 ∨ 0x64000 * 32 ≤ f.key ∨ f.key % 16384 ≠ 512) :
    Quiet f := by
  refine ⟨hflt, fun p hp he => ?_⟩
  have hkey : f.key = (0x60010 + 512 * p) * 32 + 0 := he
  omega

theorem quiet_laneSts (p lo : Nat) (w rst : Nat) (hlo : lo < 32) : Quiet ⟨rLANE_STS p, lo, w, rst⟩ := by
  refine quiet_of ?_ (.inr (.inr ?_))
  · change (0x60004 + 512 * p) * 32 + lo ≠ 0x5000C * 32 + 0
    omega
  · change ((0x60004 + 512 * p) * 32 + lo) % 16384 ≠ 512
    omega

theorem quiet_laneBusy (p : Nat) : Quiet (fLANE_BUSY_STS_BUSY_NS p) := by
  refine quiet_of ?_ (.inr (.inr ?_))
  · change (0x60014 + 512 * p) * 32 + 0 ≠ 0x5000C * 32 + 0
    omega
  · change ((0x60014 + 512 * p) * 32 + 0) % 16384 ≠ 512
    omega

theorem quiet_laneFlt (p : Nat) : Quiet (fLANE_FLT_FLAGS p) := by
  refine quiet_of ?_ (.inr (.inr ?_))
  · change (0x60008 + 512 * p) * 32 + 0 ≠ 0x5000C * 32 + 0
    omega
  · change ((0x60008 + 512 * p) * 32 + 0) % 16384 ≠ 512
    omega

theorem quiet_high {f : Fld} (h : 0x64000 * 32 ≤ f.key) : Quiet f := by
  refine quiet_of ?_ (.inr (.inl h))
  change f.key ≠ 0x5000C * 32 + 0
  omega

/-! ### Instances go on (R191, R197) -/

/-- The `Inst` goes on: the same table's, with runs that stay done once they are. -/
structure Later (i i' : Inst) : Prop where
  tick : i'.tick = i.tick
  old : i'.old = i.old
  len : i'.runs.length = i.runs.length
  done : ∀ k : Nat, itemDone (runOf i k) = true → (runOf i' k).st = (runOf i k).st

theorem later_refl (i : Inst) : Later i i := ⟨rfl, rfl, rfl, fun _ _ => rfl⟩

theorem itemDone_eq {r r' : ItemRun} (h : r'.st = r.st) : itemDone r' = itemDone r := by unfold itemDone; rw [h]

theorem Later.trans {i i' i'' : Inst} (h : Later i i') (k : Later i' i'') : Later i i'' :=
  ⟨k.tick.trans h.tick, k.old.trans h.old, k.len.trans h.len, fun x hx => by
    have hst := h.done x hx
    exact (k.done x ((itemDone_eq hst).trans hx)).trans hst⟩

/-- A run that is not done may become anything; one that is keeps its state. -/
theorem later_setRun {i : Inst} {j : Nat} {r : ItemRun} (h : itemDone (runOf i j) = true → r.st = (runOf i j).st) : Later i (setRun i j r) := by
  refine ⟨rfl, rfl, List.length_set .., fun k hk => ?_⟩
  rw [runOf_setRun]
  split
  case isTrue hkj => exact hkj.1 ▸ h (hkj.1 ▸ hk)
  case isFalse => rfl

/-- The sequencer goes on from one state to another: no `Inst` comes new, what runs, the next tick and a wanted reload are the same, the lanes
have counted no item, and no fault has been cleared. -/
structure Onward (s t : State) : Prop where
  mem : ∀ i' ∈ t.tmb.insts, ∃ i ∈ s.tmb.insts, Later i i'
  last : t.tmb.insts.getLast?.map Inst.tick = s.tmb.insts.getLast?.map Inst.tick
  running : t.tmb.running = s.tmb.running
  reload : t.tmb.reload = s.tmb.reload
  next : t.tmb.next = s.tmb.next
  items : ∀ p < 32, t.rd (fLANE_ITEMS_CNT_ITEMS p) = s.rd (fLANE_ITEMS_CNT_ITEMS p)
  flt : ∀ b < 8, s.bit fTMB_FLT_FLAGS b = true → t.bit fTMB_FLT_FLAGS b = true

theorem onward_refl (s : State) : Onward s s :=
  ⟨fun i hi => ⟨i, hi, later_refl i⟩, rfl, rfl, rfl, rfl, fun _ _ => rfl, fun _ _ h => h⟩

theorem Onward.trans {s t u : State} (h : Onward s t) (k : Onward t u) : Onward s u := by
  refine ⟨fun i'' hi'' => ?_, k.last.trans h.last, k.running.trans h.running, k.reload.trans h.reload, k.next.trans h.next,
    fun p hp => (k.items p hp).trans (h.items p hp), fun b hw hb => k.flt b hw (h.flt b hw hb)⟩
  obtain ⟨i', hi', hlater'⟩ := k.mem i'' hi''
  obtain ⟨i, hi, hlater⟩ := h.mem i' hi'
  exact ⟨i, hi, hlater.trans hlater'⟩

theorem onward_ite {o a b : State} {c : Prop} [Decidable c] (ha : Onward o a) (hb : Onward o b) : Onward o (if c then a else b) := by
  split <;> assumption

theorem onward_foldl {α : Type} {f : State → α → State} (hf : ∀ s x, Onward s (f s x)) (l : List α) (s : State) : Onward s (l.foldl f s) := by
  induction l generalizing s with
  | nil => exact onward_refl s
  | cons x xs ih => exact (hf s x).trans (ih _)

/-- The sequencer's instances and what runs stand as they did, and the registers of Tambour and of the lanes read as they did. -/
theorem onward_of_rd {s t : State} (hinsts : t.tmb.insts = s.tmb.insts) (hrunning : t.tmb.running = s.tmb.running)
    (hreload : t.tmb.reload = s.tmb.reload) (hnext : t.tmb.next = s.tmb.next)
    (hitems : ∀ p < 32, t.rd (fLANE_ITEMS_CNT_ITEMS p) = s.rd (fLANE_ITEMS_CNT_ITEMS p)) (hflt : t.rd fTMB_FLT_FLAGS = s.rd fTMB_FLT_FLAGS) :
    Onward s t :=
  ⟨fun i hi => ⟨i, hinsts ▸ hi, later_refl i⟩, by rw [hinsts], hrunning, hreload, hnext, hitems, fun b _ hb => (bit_eq_of_rd hflt b).trans hb⟩

theorem laneItems_block {p : Nat} (hp : p < 32) : (fLANE_ITEMS_CNT_ITEMS p).block = 6 := by
  change ((0x60010 + 512 * p) * 32 + 0) / 32 / 0x10000 = 6
  omega

theorem onward_out {B : List Nat} {s t : State} (htmb : t.tmb = s.tmb) (h : RegsOut B s t) (h5 : 5 ∉ B) (h6 : 6 ∉ B) : Onward s t :=
  onward_of_rd (by rw [htmb]) (by rw [htmb]) (by rw [htmb]) (by rw [htmb]) (fun p hp => h _ (laneItems_block hp ▸ h6)) (h _ h5)

theorem onward_of_regs {s t : State} (htmb : t.tmb = s.tmb) (hregs : t.regs = s.regs) : Onward s t :=
  onward_out (B := []) htmb (regsOut_regs (regsOut_refl _ s) hregs) (by decide) (by decide)

/-- Queues, prefetching and STATE blocks of the sequencer may differ. -/
theorem onward_setTmb {s : State} {x : Tmb} (hinsts : x.insts = s.tmb.insts) (hrunning : x.running = s.tmb.running) (hreload : x.reload = s.tmb.reload)
    (hnext : x.next = s.tmb.next) : Onward s (s.setTmb x) :=
  onward_of_rd hinsts hrunning hreload hnext (fun _ _ => rfl) rfl

theorem onward_wr {f : Fld} (h : Quiet f) (s : State) (v : Nat) : Onward s (s.wr f v) :=
  onward_of_rd rfl rfl rfl rfl (fun p hp => State.rd_wr_ne _ (h.2 p hp).symm _) (State.rd_wr_ne _ h.1.symm _)

theorem onward_flagFlt (b : Nat) (s : State) : Onward s (s.flag fTMB_FLT_FLAGS b) := by
  refine ⟨fun i hi => ⟨i, hi, later_refl i⟩, rfl, rfl, rfl, rfl, fun p hp => rd_flag ?_ .., fun c hw hc => bit_flag_of hw hc b⟩
  change (0x60010 + 512 * p) * 32 + 0 ≠ 0x5000C * 32 + 0
  omega

theorem onward_ev (e k : Nat) (s : State) : Onward s (State.ev e s k) :=
  onward_of_regs ((st_ev_kept e k (Kept.refl 33554432 s) (Nat.and_self _)).2.2.same .tmb (by decide)) (ev_regs ..)

theorem onward_postAt (tick code : Nat) (payload : Bytes) (s : State) : Onward s (postAt tick code payload s) :=
  onward_out (B := [0x0C, 0x0D]) ((postAt_kept tick code payload (Kept.refl postParts s) (Nat.and_self _)).2.2.same .tmb (by decide))
    (postAt_regs (by decide) (by decide) tick code payload (regsOut_refl _ s)) (by decide) (by decide)

theorem onward_eccWrite (target index : Nat) (s : State) : Onward s (s.eccWrite target index) :=
  onward_out ((st_eccWrite_kept target index (Kept.refl 2199023255553 s) (Nat.and_self _)).2.2.same .tmb (by decide)) (eccWrite_regs target index s)
    (by decide) (by decide)

theorem onward_abdicate (cause : Nat) (conditional : Bool) (s : State) : Onward s (abdicate cause conditional s) :=
  onward_out ((abdicate_kept cause conditional (Kept.refl 4399293006211 s) (Nat.and_self _)).2.2.same .tmb (by decide))
    (abdicate_regs cause conditional (regsOut_refl _ s)) (by decide) (by decide)

/-- An `Inst` takes the place of those of its tick. -/
theorem Onward.setInst {s u : State} {n : Nat} {i i' : Inst} (h : Onward s u) (hi : s.inst? n = some i) (hlater : Later i i') :
    Onward s (u.setInst i') := by
  refine ⟨fun x hx => ?_, ?_, h.running, h.reload, h.next, h.items, h.flt⟩
  · rcases mem_setInst hx with rfl | ⟨hx, -⟩
    · exact ⟨i, List.mem_of_find?_eq_some hi, hlater⟩
    · exact h.mem x hx
  · refine Eq.trans ?_ h.last
    change (u.tmb.insts.map fun x => if x.tick = i'.tick then i' else x).getLast?.map Inst.tick = _
    rw [List.getLast?_map, Option.map_map]
    congr 1
    funext x
    by_cases hx : x.tick = i'.tick <;> simp [hx]

theorem onward_setInst {s : State} {n : Nat} {i i' : Inst} (hi : s.inst? n = some i) (hlater : Later i i') : Onward s (s.setInst i') :=
  (onward_refl s).setInst hi hlater

/-! ### Upkeep of lanes and TMB_STS (R198, R199, R222) -/

theorem onward_tmbSync (s : State) : Onward s (tmbSync s) := by
  unfold tmbSync
  extract_lets lv ready dfr
  exact (((onward_wr (quiet_of (by decide) (.inl (by decide))) s _).trans (onward_wr (quiet_of (by decide) (.inl (by decide))) _ _)).trans
    (onward_wr (quiet_of (by decide) (.inl (by decide))) _ _)).trans (onward_wr (quiet_of (by decide) (.inl (by decide))) _ _)

theorem onward_laneSync (p : Nat) (s : State) : Onward s (laneSync p s) := by
  unfold laneSync
  extract_lets q r st s1 s2
  have h1 : Onward s s1 := ((onward_wr (quiet_laneSts p 28 3 0 (by decide)) s _).trans (onward_wr (quiet_laneSts p 25 3 0 (by decide)) _ _)).trans
    (onward_wr (quiet_laneSts p 12 1 0 (by decide)) _ _)
  have h2 : Onward s s2 := h1.trans (onward_wr (quiet_laneSts p 0 12 0 (by decide)) s1 _)
  exact onward_ite (onward_refl s) (h2.trans (onward_wr (quiet_laneSts p 24 1 0 (by decide)) s2 _))

theorem onward_fetchItem (p n j : Nat) (s : State) : Onward s (fetchItem p n j s) := by
  unfold fetchItem
  split
  case h_1 => exact onward_refl s
  case h_2 i hi =>
    split
    case h_1 => exact onward_refl s
    case h_2 it _ =>
      extract_lets _ s1 bytes
      have h1 : Onward s s1 := onward_setInst hi (later_setRun fun _ => rfl)
      exact onward_ite (h1.trans ((onward_ev ..).trans (onward_eccWrite ..))) h1

theorem onward_prefetch (p : Nat) (s : State) : Onward s (prefetch p s) := by
  unfold prefetch
  split
  · exact onward_ite (onward_refl s) (onward_fetchItem ..)
  · exact onward_refl s

theorem onward_prefSync (p : Nat) (s : State) : Onward s (prefSync p s) := by
  unfold prefSync
  exact onward_ite (onward_refl s) (onward_setTmb rfl rfl rfl rfl)

theorem onward_setQueue (p : Nat) (q : List (Nat × Nat)) (s : State) : Onward s (s.setQueue p q) := onward_setTmb rfl rfl rfl rfl

theorem onward_unqueue (n j : Nat) (s : State) : Onward s (unqueue n j s) := by
  refine onward_foldl (fun s p => ?_) ..
  exact onward_ite ((onward_setQueue ..).trans ((onward_prefetch ..).trans (onward_laneSync ..))) (onward_refl s)

theorem onward_trace {s t : State} (h : Kept 33554432 s t) : Onward s t := onward_of_regs (h.2.2.same .tmb (by decide)) (h.2.2.same .regs (by decide))

/-! ### Rows that are lost or retire (R345, R352) -/

theorem onward_addGap (k first len reason slot : Nat) (s : State) : Onward s (addGap k first len reason slot s) := by
  have hentries : Quiet (fSNR_GAP_STS_ENTRIES k) := quiet_high (by change _ ≤ (rSNR_GAP_STS k) * 32 + 0; unfold rSNR_GAP_STS; omega)
  have hlost : Quiet (fSNR_GAP_STS_LOST k) := quiet_high (by change _ ≤ (rSNR_GAP_STS k) * 32 + 16; unfold rSNR_GAP_STS; omega)
  unfold addGap
  split
  · exact onward_refl s
  · extract_lets d armed len gaps g put us
    have hput (gs : List SnrGap) : Onward s (put gs) := by
      have hdef : Onward s (s.setSnrDef k { d with gaps := gs }) := onward_of_regs rfl rfl
      exact hdef.trans (onward_wr hentries _ _)
    split
    · exact onward_refl s
    split
    · exact hput _
    · exact onward_of_regs rfl rfl
    split
    · exact hput _
    · exact ((onward_wr hlost s _).trans (onward_wr (quiet_high (by decide)) _ _)).trans (onward_of_regs rfl rfl)

theorem onward_rowLost (k n : Nat) (s : State) : Onward s (rowLost k n s) := by
  unfold rowLost
  split
  · exact (((onward_ev 0x373 1 s).trans (onward_wr (quiet_high (by decide)) _ _)).trans (onward_wr (quiet_high (by decide)) _ _)).trans
      (onward_addGap ..)
  · exact onward_refl s

theorem onward_snareRetire (n k : Nat) (stale : Bool) (s : State) : Onward s (snareRetire n k stale s) := by
  unfold snareRetire
  split
  · exact onward_refl s
  · extract_lets _ s1 d s2
    have h1 : Onward s s1 := onward_of_regs rfl rfl
    have h2 : Onward s1 s2 := onward_ite (onward_of_regs rfl rfl) (onward_refl s1)
    exact onward_ite h1 (onward_ite (h1.trans (onward_rowLost ..)) ((h1.trans h2).trans (onward_of_regs rfl rfl)))

/-! ### Readiness, completion and abandonment (R191, R193, R210, R215, R216) -/

theorem onward_setRun {s : State} {n j : Nat} {r : ItemRun} (h : ∀ i, s.inst? n = some i → itemDone (runOf i j) = true → r.st = (runOf i j).st) :
    Onward s (s.setRun n j r) := by
  unfold State.setRun
  split
  case h_1 i hi => exact onward_setInst hi (later_setRun (h i hi))
  case h_2 => exact onward_refl s

theorem ev_inst (e k : Nat) (s : State) (n : Nat) : (State.ev e s k).inst? n = s.inst? n :=
  inst_eq_of_tmb ((st_ev_kept e k (Kept.refl 33554432 s) (Nat.and_self _)).2.2.same .tmb (by decide)) n

theorem onward_refreshInst (i : Inst) (s : State) : Onward s (refreshInst i s) := by
  refine onward_foldl (fun s j => ?_) ..
  dsimp only
  split
  case h_1 x hx =>
    split
    case isTrue hgo =>
      have hwait : (runOf x j).st = .waiting := by simpa using (Bool.and_eq_true_iff.1 hgo).1
      refine (onward_ev 0x350 1 s).trans (onward_setRun fun y hy hdone => ?_)
      rw [ev_inst, tick_of_inst hx] at hy
      obtain rfl : x = y := Option.some_inj.1 (hx.symm.trans hy)
      simp [itemDone, hwait] at hdone
    case isFalse => exact onward_refl s
  case h_2 => exact onward_refl s

theorem onward_tmbRefresh (s : State) : Onward s (tmbRefresh s) :=
  (onward_foldl (fun s i => onward_refreshInst i s) ..).trans (onward_tmbSync _)

theorem onward_slackMeasure (i : Inst) (s : State) : Onward s (slackMeasure i s) := by
  unfold slackMeasure
  have hquiet : ∀ {f : Fld}, f.key ≠ fTMB_FLT_FLAGS.key → f.key < 0x60000 * 32 → Quiet f := fun h h' => quiet_of h (.inl h')
  split
  · exact (onward_wr (hquiet (by decide) (by decide)) s _).trans (onward_of_regs rfl rfl)
  · extract_lets slack s1
    have h1 : Onward s s1 := onward_wr (hquiet (by decide) (by decide)) s _
    exact onward_ite (h1.trans (onward_wr (hquiet (by decide) (by decide)) s1 _)) h1

theorem onward_g0Measure (i : Inst) (s : State) : Onward s (g0Measure i s) := by
  unfold g0Measure
  extract_lets c g0
  clear_value g0
  split
  · exact onward_wr (quiet_of (by decide) (.inl (by decide))) s _
  · extract_lets last span s1
    have h1 : Onward s s1 := (onward_wr (quiet_of (by decide) (.inl (by decide))) s _).trans (onward_wr (quiet_of (by decide) (.inl (by decide))) _ _)
    exact onward_ite (h1.trans ((onward_flagFlt 6 s1).trans (onward_postAt ..))) h1

/-- The last four instances are kept. -/
theorem onward_dropOldest (s : State) : Onward s (s.setTmb { s.tmb with insts := s.tmb.insts.drop (s.tmb.insts.length - 4) }) := by
  refine ⟨fun i hi => ⟨i, List.mem_of_mem_drop hi, later_refl i⟩, ?_, rfl, rfl, rfl, fun _ _ => rfl, fun _ _ h => h⟩
  change (s.tmb.insts.drop (s.tmb.insts.length - 4)).getLast?.map Inst.tick = _
  rw [List.getLast?_drop]
  split
  case isTrue hle =>
    have hnil : s.tmb.insts = [] := List.length_eq_zero_iff.1 (by omega)
    rw [hnil]
    rfl
  case isFalse => rfl

theorem onward_checkComplete (n : Nat) (s : State) : Onward s (checkComplete n s) := by
  unfold checkComplete
  split
  case h_1 => exact onward_refl s
  case h_2 i hi =>
    extract_lets s1 s2 s3 s4 _ s5 s6
    have h1 : Onward s s1 := onward_setInst hi ⟨rfl, rfl, rfl, fun _ _ => rfl⟩
    have h2 : Onward s s2 := h1.trans ((onward_slackMeasure i s1).trans (onward_g0Measure i _))
    have h3 : Onward s s3 := h2.trans ((onward_wr (quiet_of (by decide) (.inl (by decide))) s2 _).trans
      (onward_wr (quiet_of (by decide) (.inl (by decide))) _ _))
    have h4 : Onward s3 s4 := onward_foldl (fun s p => onward_wr (quiet_laneBusy p) s _) ..
    have h5 : Onward s s5 := (h3.trans h4).trans (onward_dropOldest s4)
    have h6 : Onward s5 s6 := by
      refine onward_ite (onward_refl s5) ?_
      split
      · exact onward_postAt ..
      · exact onward_refl s5
    exact onward_ite (onward_refl s) ((h5.trans h6).trans (onward_tmbSync s6))

theorem onward_instancesDone (s t : State) : Onward t (instancesDone s t) :=
  have h := instancesDone_kept s (Kept.refl 4398051229696 t) (Nat.and_self _)
  onward_of_regs (h.2.2.same .tmb (by decide)) (h.2.2.same .regs (by decide))

theorem onward_accFinals (old new : AccCfg) (k : Nat) (cuts : List CutSt) (s : State) : Onward s (accFinals old new k cuts s) := by
  refine onward_foldl (fun u c => ?_) ..
  exact onward_ite (onward_refl u) ((onward_wr (quiet_high (by decide)) u _).trans (onward_postAt ..))

theorem onward_accEnd (s : State) : Onward s (accEnd s) := by
  unfold accEnd
  split
  · have hend : Onward s (s.setAcc { s.acc with ending := none }) := onward_of_regs rfl rfl
    exact onward_ite (onward_refl s) (hend.trans (onward_accFinals ..))
  · exact onward_refl s

theorem onward_dropOld (s : State) : Onward s (dropOld s) := by
  unfold dropOld
  exact onward_ite ((onward_accEnd s).trans (onward_of_rd rfl rfl rfl rfl (fun _ _ => rfl) rfl)) (onward_refl s)

end Sys2Proof.Machine
end

section
/-!
PROOFS. Scope: an item's way through an `Inst` (R191, R197 to R204, R207).
-/

namespace Sys2Proof.Machine

/-! ### Every `Inst` of a tick -/

/-- `P` holds of every `Inst` of tick `n`. -/
def AllAt (n : Nat) (P : Inst → Prop) (s : State) : Prop := ∀ i ∈ s.tmb.insts, i.tick = n → P i

theorem AllAt.of_inst {n : Nat} {P : Inst → Prop} {s : State} {i : Inst} (h : AllAt n P s) (hi : s.inst? n = some i) : P i :=
  h i (List.mem_of_find?_eq_some hi) (tick_of_inst hi)

theorem AllAt.onward {n : Nat} {P : Inst → Prop} {s t : State} (h : AllAt n P s) (hst : Onward s t) (hP : ∀ {i i'}, Later i i' → P i → P i') :
    AllAt n P t := by
  intro i' hi' htick
  obtain ⟨i, hi, hlater⟩ := hst.mem i' hi'
  exact hP hlater (h i hi (hlater.tick ▸ htick))

theorem allAt_setInst {i : Inst} {P : Inst → Prop} (h : P i) (s : State) : AllAt i.tick P (s.setInst i) := by
  intro x hx htick
  rcases mem_setInst hx with rfl | ⟨-, hne⟩
  · exact h
  · exact absurd htick hne

theorem allAt_setInst_of {n : Nat} {i : Inst} {P : Inst → Prop} (htick : i.tick = n) (h : P i) (s : State) : AllAt n P (s.setInst i) :=
  htick ▸ allAt_setInst h s

/-- Item `j`'s run is in a state that lasts. -/
theorem Later.st {i i' : Inst} (h : Later i i') {j : Nat} {st : ItemSt} (hdone : st = .retired ∨ st = .abandoned) (hi : (runOf i j).st = st) :
    (runOf i' j).st = st := by
  refine (h.done j ?_).trans hi
  unfold itemDone
  rw [hi]
  rcases hdone with rfl | rfl <;> rfl

/-! ### Activation (R191, R192) -/

theorem applyDue_none {s : State} (h : s.swap = none) (n : Nat) : applyDue n s = s := by unfold applyDue; rw [h]

theorem joinAt_none {s : State} (h : s.pair.join = none) (n : Nat) : joinAt n s = s := by unfold joinAt; rw [h]

/-- What making an `Inst` leaves. -/
structure Opened (n len : Nat) (s u : State) : Prop where
  all : AllAt n (fun i => i.old = false ∧ i.runs.length = len) u
  last : u.tmb.insts.getLast?.map Inst.tick = some n
  next : u.tmb.next = (s.nextRun n).1
  reload : u.tmb.reload = false

theorem openInst_opened {n : Nat} {im : Image} {s : State} (him : s.img = some im) (hswap : s.swap = none) (hjoin : s.pair.join = none)
    (hnew : ∀ i ∈ s.tmb.insts, i.tick ≠ n) : Opened n im.items.length s (openInst n false s) := by
  unfold openInst
  rw [applyDue_none hswap, joinAt_none hjoin]
  extract_lets s0 its runs s1
  have hlen : runs.length = im.items.length := by
    rw [List.length_map]
    change (match s.img with | some i => i.items | none => []).length = _
    rw [him]
  have hk : Kept 2199023255553 s s1 := kept_ite (st_eccWrite_kept 3 0 (Kept.refl _ s) (Nat.and_self _)) (Kept.refl _ s)
  have htmb : s1.tmb = s.tmb := hk.2.2.same .tmb (by decide)
  have hclv : s1.clv = s.clv := hk.2.2.same .clv (by decide)
  have hpgh : s1.pgh = s.pgh := hk.2.2.same .pgh (by decide)
  refine ⟨fun i hi htick => ?_, ?_, ?_, rfl⟩
  · rcases List.mem_append.1 hi with hi | hi
    · exact absurd htick (hnew i (htmb ▸ hi))
    · obtain rfl := List.mem_singleton.1 hi
      exact ⟨rfl, hlen⟩
  · change (s1.tmb.insts ++ [_]).getLast?.map Inst.tick = _
    rw [List.getLast?_concat]
    rfl
  · exact congrArg Prod.fst (nextRun_eq_of hclv (by rw [hpgh]) n)

theorem execInstanceActivate_opens {im : Image} {s : State} (him : s.img = some im) (hgo : s.canActivate s.nextInst = true) (hswap : s.swap = none)
    (hjoin : s.pair.join = none) (hnew : ∀ i ∈ s.tmb.insts, i.tick ≠ s.nextInst) : Runs .instanceActivate s fun t =>
      t.tmb.next = (s.nextRun s.nextInst).1 ∧ t.tmb.reload = false ∧
        ∃ i ∈ t.tmb.insts, i.tick = s.nextInst ∧ i.old = false ∧ i.runs.length = im.items.length := by
  have hopen := openInst_opened him hswap hjoin hnew
  refine ⟨activate s.nextInst s, congrArg Host.Outcome.next (if_pos hgo), ?_⟩
  have hon : Onward (openInst s.nextInst false s) (activate s.nextInst s) :=
    (onward_ev 0x342 1 _).trans ((onward_tmbRefresh _).trans ((onward_checkComplete s.nextInst _).trans (onward_instancesDone _ _)))
  have hall := hopen.all.onward hon fun hlater h => ⟨hlater.old.trans h.1, hlater.len.trans h.2⟩
  obtain ⟨i, hi, htick⟩ := Option.map_eq_some_iff.1 (hon.last.trans hopen.last)
  have hmem := List.mem_of_getLast? hi
  exact ⟨hon.next.trans hopen.next, hon.reload.trans hopen.reload, i, hmem, htick, hall i hmem htick⟩

/-! ### Prefetching (R203, R204) -/

/-- Banks that were empty may have been filled; nothing else of the sequencer has changed. -/
structure Prefetched (s t : State) : Prop where
  queues : t.tmb.queues = s.tmb.queues
  running : t.tmb.running = s.tmb.running
  insts : ∀ m i, s.inst? m = some i → ∃ i', t.inst? m = some i' ∧
    ∀ k, ∃ b, runOf i' k = { runOf i k with bank := b } ∧ ((runOf i k).bank.isSome = true → b = (runOf i k).bank)

theorem prefetched_of_tmb {s t : State} (h : t.tmb = s.tmb) : Prefetched s t :=
  ⟨by rw [h], by rw [h], fun m i hi => ⟨i, (inst_eq_of_tmb h m).trans hi, fun k => ⟨_, rfl, fun _ => rfl⟩⟩⟩

theorem Prefetched.of_tmb {s t u : State} (h : Prefetched s t) (hu : u.tmb = t.tmb) : Prefetched s u :=
  ⟨by rw [hu, h.queues], by rw [hu, h.running], fun m i hi => by
    obtain ⟨i', hi', hruns⟩ := h.insts m i hi
    exact ⟨i', (inst_eq_of_tmb hu m).trans hi', hruns⟩⟩

/-- Fetching fills the item's bank with its operands. -/
theorem fetchItem_tmb {p n j : Nat} {i : Inst} {it : Item} {s : State} (hi : s.inst? n = some i) (hit : (s.items i)[j]? = some it) :
    (fetchItem p n j s).tmb = (s.setInst (setRun i j { runOf i j with bank := some (s.fetchAll i j it) })).tmb := by
  have hF : Sub allButTmb allButTmb := Nat.and_self _
  unfold fetchItem
  rw [hi]
  dsimp -zeta only
  rw [hit]
  dsimp -zeta only
  extract_lets _ s1 bytes
  exact Kept.tmb (kept_ite (st_eccWrite_kept _ _ (st_ev_kept _ _ (Kept.refl _ s1))) (Kept.refl _ s1))

theorem fetchItem_prefetched {p n j : Nat} {s : State} (hbank : ((s.inst? n).bind fun i => (runOf i j).bank).isSome = false) :
    Prefetched s (fetchItem p n j s) := by
  cases hi : s.inst? n with
  | none =>
    unfold fetchItem
    rw [hi]
    exact prefetched_of_tmb rfl
  | some i =>
    cases hit : (s.items i)[j]? with
    | none =>
      unfold fetchItem
      rw [hi]
      dsimp only
      rw [hit]
      exact prefetched_of_tmb rfl
    | some it =>
      have htmb := fetchItem_tmb (p := p) hi hit
      refine ⟨by rw [htmb]; rfl, by rw [htmb]; rfl, fun m x hx => ?_⟩
      rw [hi] at hbank
      by_cases hm : m = n
      · subst hm
        obtain rfl : i = x := Option.some_inj.1 (hi.symm.trans hx)
        refine ⟨_, (inst_eq_of_tmb htmb m).trans (inst_setInst_self hi ((setRun_tick ..).trans (tick_of_inst hi))), fun k => ?_⟩
        rw [runOf_setRun]
        split
        case isTrue hk =>
          rw [hk.1]
          exact ⟨_, rfl, fun hsome => by simp_all⟩
        case isFalse => exact ⟨_, rfl, fun _ => rfl⟩
      · exact ⟨x, (inst_eq_of_tmb htmb m).trans ((inst_setInst_ne (by rw [setRun_tick, tick_of_inst hi]; exact Ne.symm hm) s).trans hx),
          fun k => ⟨_, rfl, fun _ => rfl⟩⟩

theorem prefetch_prefetched (p : Nat) (s : State) : Prefetched s (prefetch p s) := by
  unfold prefetch
  split
  case h_2 => exact prefetched_of_tmb rfl
  case h_1 n j _ _ _ =>
    extract_lets has
    split
    case isTrue => exact prefetched_of_tmb rfl
    case isFalse hno =>
      refine fetchItem_prefetched ?_
      have hhas : has = false := by simp_all
      exact hhas

/-! ### Dispatch (R198 to R201) -/

theorem queue_setQueue (p : Nat) (q : List (Nat × Nat)) (s : State) : (s.setQueue p q).queue p = q := smGet_smSet_self ..

theorem execItemDispatch_queues {g : Bool} {n j : Nat} {it : Item} {p : Nat} {i : Inst} {s : State} (hpick : s.pickItem g = some (n, j, it, p))
    (hi : s.inst? n = some i) (hj : j < i.runs.length) : Runs (.itemDispatch g) s fun t => t.queue p = s.queue p ++ [(n, j)] ∧
      ∃ i', t.inst? n = some i' ∧ (runOf i' j).st = .queued ∧ (runOf i' j).place = some p ∧
        ∀ k : Nat, k ≠ j → (runOf i' k).st = (runOf i k).st := by
  have hF : Sub allButTmb allButTmb := Nat.and_self _
  refine ⟨_, rfl, ?_⟩
  rw [hpick]
  dsimp -zeta only
  generalize hu : State.ev (if g then 0x351 else 0x352) s = u
  have htmb : u.tmb = s.tmb := hu ▸ (st_ev_kept _ _ (Kept.refl allButTmb s)).tmb
  have hui : u.inst? n = some i := (inst_eq_of_tmb htmb n).trans hi
  unfold enqueueItem
  rw [hui]
  dsimp -zeta only
  extract_lets _ s1 s2
  set s3 := s1.setQueue p (s1.queue p ++ [(n, j)]) with hs3
  have hk : Kept allButTmb (prefetch p s3) (tmbSync (traceDispatch (itemSlots it) n j s2)) :=
    tmbSync_kept (traceDispatch_kept _ n j (laneSync_kept p (Kept.refl _ _)))
  have hpre := (prefetch_prefetched p s3).of_tmb hk.tmb
  have hs1 : s1.inst? n = some _ := inst_setInst_self hui ((setRun_tick ..).trans (tick_of_inst hui))
  obtain ⟨i', hi', hruns⟩ := hpre.insts n _ hs1
  refine ⟨?_, i', hi', ?_, ?_, fun k hk => ?_⟩
  · refine (congrArg (smGet [] · p) hpre.queues).trans ((queue_setQueue ..).trans ?_)
    have hqs : s1.tmb.queues = s.tmb.queues := (congrArg Tmb.queues htmb :)
    exact congrArg (smGet [] · p ++ [(n, j)]) hqs
  · obtain ⟨b, hb, -⟩ := hruns j
    rw [hb, runOf_setRun_self hj]
  · obtain ⟨b, hb, -⟩ := hruns j
    rw [hb, runOf_setRun_self hj]
  · obtain ⟨b, hb, -⟩ := hruns k
    rw [hb, runOf_setRun_ne hk]

/-! ### Start (R203, R204) -/

/-- The operands an item starts with: those fetched before, or fetched now. -/
def startBank (i : Inst) (j : Nat) (it : Item) (s : State) : Option (List Fetched) :=
  match (runOf i j).bank with | some b => some b | none => some (s.fetchAll i j it)

theorem startBank_isSome (i : Inst) (j : Nat) (it : Item) (s : State) : (startBank i j it s).isSome = true := by
  unfold startBank
  split <;> rfl

/-- A starting item's bank is filled where it was not. -/
theorem startFetch {p n j : Nat} {i : Inst} {it : Item} {s : State} (hi : s.inst? n = some i) (hit : (s.items i)[j]? = some it)
    (hj : j < i.runs.length) :
    ∃ u i1, (if ((s.inst? n).bind fun i => (runOf i j).bank).isSome then s else fetchItem p n j s) = u ∧ u.clv = s.clv ∧
      u.inst? n = some i1 ∧ i1.runs.length = i.runs.length ∧
      runOf i1 j = { runOf i j with bank := startBank i j it s } ∧ ∀ k, k ≠ j → runOf i1 k = runOf i k := by
  cases hb : (runOf i j).bank with
  | some b =>
    refine ⟨s, i, if_pos (by rw [hi]; simp [hb]), rfl, hi, rfl, ?_, fun _ _ => rfl⟩
    unfold startBank
    rw [hb]
    dsimp only
    rw [← hb]
  | none =>
    have htmb := fetchItem_tmb (p := p) hi hit
    refine ⟨_, _, if_neg (by rw [hi]; simp [hb]), ?_,
      (inst_eq_of_tmb htmb n).trans (inst_setInst_self hi ((setRun_tick ..).trans (tick_of_inst hi))), List.length_set .., ?_,
      fun k hk => runOf_setRun_ne hk _⟩
    · exact (fetchItem_kept p n j (Kept.refl 2199056842753 s) (Nat.and_self _)).2.2.same .clv (by decide)
    · rw [runOf_setRun_self hj]
      unfold startBank
      rw [hb]

theorem startItem_starts {p : Nat} {late : Bool} {n j : Nat} {it : Item} {q : List (Nat × Nat)} {i : Inst} {s t : State}
    (ht : startItem p n j q late s = t) (hi : s.inst? n = some i) (hit : (s.items i)[j]? = some it) (hj : j < i.runs.length) :
    t.runningAt p = some (n, j) ∧ t.queue p = q ∧ ∃ i', t.inst? n = some i' ∧
      runOf i' j = { runOf i j with st := .running, startAt := s.clv.now, bank := startBank i j it s } ∧
      ∀ k : Nat, k ≠ j → (runOf i' k).st = (runOf i k).st := by
  have hF : Sub allButTmb allButTmb := Nat.and_self _
  subst ht
  unfold startItem
  obtain ⟨u, i1, hu, hclv, hi1, hlen, hrun, hne⟩ := startFetch (p := p) hi hit hj
  extract_lets has s0
  have hs0 : s0 = u := hu
  clear_value s0
  subst hs0
  rw [hi1]
  dsimp -zeta only
  rw [hclv]
  extract_lets r1 s2 s3 s4
  have hr1 : r1 = { runOf i j with bank := startBank i j it s } := hrun
  clear_value r1
  set s2' := (s2.setQueue p q).setRunning p (some (n, j)) with hs2
  have hk : Kept allButTmb s3 (tmbSync (laneSync p s4)) :=
    tmbSync_kept (laneSync_kept p (kept_ite (st_ev_kept _ _ (Kept.refl _ _)) (Kept.refl _ _)))
  have hpre := (prefetch_prefetched p s2').of_tmb hk.tmb
  have hs2i : s2'.inst? n = some _ := inst_setInst_self hi1 ((setRun_tick ..).trans (tick_of_inst hi1))
  obtain ⟨i', hi', hruns⟩ := hpre.insts n _ hs2i
  refine ⟨(congrArg (smFind? · p) hpre.running).trans ?_, (congrArg (smGet [] · p) hpre.queues).trans ?_, i', hi', ?_, fun k hk => ?_⟩
  · exact smFind?_smInsert_self ..
  · exact smGet_smSet_self ..
  · obtain ⟨b, hb, hsome⟩ := hruns j
    rw [runOf_setRun_self (hlen ▸ hj)] at hb hsome
    rw [hr1] at hb hsome
    rw [hb, hsome (startBank_isSome ..)]
  · obtain ⟨b, hb, -⟩ := hruns k
    rw [hb, runOf_setRun_ne hk, hne k hk]

theorem execItemStart_starts {p : Fin 38} {late : Bool} {n j : Nat} {it : Item} {q : List (Nat × Nat)} {i : Inst} {s : State}
    (hidle : s.runningAt p = none) (hq : s.queue p = (n, j) :: q) (hstall : s.laneStalled p = false) (hi : s.inst? n = some i)
    (hit : (s.items i)[j]? = some it) (hj : j < i.runs.length) :
    Runs (.itemStart p late) s fun t => t.runningAt p = some (n, j) ∧ t.queue p = q ∧ ∃ i', t.inst? n = some i' ∧
      runOf i' j = { runOf i j with st := .running, startAt := s.clv.now, bank := startBank i j it s } ∧
      ∀ k : Nat, k ≠ j → (runOf i' k).st = (runOf i k).st := by
  refine ⟨startItem p n j q late s, ?_, startItem_starts rfl hi hit hj⟩
  change execItemStart p late s = _
  unfold execItemStart
  rw [hidle, hq]
  exact congrArg Host.Outcome.next (if_neg (by simp [hstall]))

/-! ### Retirement (R205 to R207, R209) -/

theorem runningAt_setRunning_none (p : Nat) (s : State) : (s.setRunning p none).runningAt p = none := by
  change smGet none ((smErase s.tmb.running p).map fun e => (e.1, some e.2)) p = none
  have herase : (smErase s.tmb.running p).map (fun e => (e.1, some e.2)) = smErase (s.tmb.running.map fun e => (e.1, some e.2)) p := by
    unfold smErase
    rw [List.filter_map]
    rfl
  rw [herase, smGet_smErase_self]

theorem onward_inst_busy {s : State} {n : Nat} {i : Inst} {m : SMap Nat} (hi : s.inst? n = some i) : Onward s (s.setInst { i with busy := m }) :=
  onward_setInst hi ⟨rfl, rfl, rfl, fun _ _ => rfl⟩

theorem onward_states (s : State) (bs : List StateBlk) : Onward s (s.setTmb { s.tmb with states := bs }) := onward_setTmb rfl rfl rfl rfl

theorem onward_oldStates (s : State) (bs : List StateBlk) : Onward s (s.setTmb { s.tmb with oldStates := bs }) := onward_setTmb rfl rfl rfl rfl

/-- A lane counts the item; the rest of what it counts is not the sequencer's. -/
theorem onward_laneRetire (p n j cycles : Nat) (r : ItemRun) (it : Item) (s : State) :
    Onward (s.inc (fLANE_ITEMS_CNT_ITEMS p)) (laneRetire p n j cycles r it s) := by
  unfold laneRetire
  extract_lets s1 masked s2 s3
  have h1 : Onward (s.inc (fLANE_ITEMS_CNT_ITEMS p)) s1 := onward_ev ..
  have hfree : Onward s1 s1.nextFree := onward_of_regs rfl rfl
  have h2 : Onward s1 s2 := (hfree.trans (onward_ev ..)).trans (onward_ev ..)
  have h3 : Onward s2 s3 := by
    clear_value s2
    clear h2
    change Onward s2 (match s2.inst? n with | some i => _ | none => _)
    split
    case h_1 i hi => exact onward_inst_busy hi
    case h_2 => exact onward_refl s2
  have h4 : Onward s3 (s3.flag (fLANE_FLT_FLAGS p) 2) := onward_wr (quiet_laneFlt p) ..
  exact onward_ite (((h1.trans h2).trans h3).trans ((h4.trans (onward_flagFlt 4 _)).trans (onward_postAt ..))) ((h1.trans h2).trans h3)

/-- Place `p` is free, the item's run is retired, and the lane has counted `c` items. -/
structure Freed (p n j c : Nat) (t : State) : Prop where
  running : t.runningAt p = none
  retired : AllAt n (fun i => (runOf i j).st = .retired) t
  items : p < 32 → t.rd (fLANE_ITEMS_CNT_ITEMS p) = c

theorem Freed.onward {p n j c : Nat} {s t : State} (h : Freed p n j c s) (hst : Onward s t) : Freed p n j c t :=
  ⟨(congrArg (smFind? · p) hst.running).trans h.running, h.retired.onward hst fun hlater => hlater.st (.inl rfl),
    fun hp => (hst.items p hp).trans (h.items hp)⟩

/-- The lane's count rises by the item. -/
theorem Freed.inc {p n j c : Nat} {s : State} (h : Freed p n j c s) :
    Freed p n j (satAdd (fLANE_ITEMS_CNT_ITEMS p).w c 1) (s.inc (fLANE_ITEMS_CNT_ITEMS p)) :=
  ⟨h.running, h.retired, fun hp => (rd_inc_self ..).trans (by rw [h.items hp])⟩

theorem retireItem_freed {p n j extra : Nat} {i : Inst} {it : Item} {s : State} (hi : s.inst? n = some i) (hj : j < i.runs.length) :
    Freed p n j (satAdd (fLANE_ITEMS_CNT_ITEMS p).w (s.rd (fLANE_ITEMS_CNT_ITEMS p)) 1) (retireItem p n j extra i it s) := by
  unfold retireItem
  extract_lets r stale cycles s1 s2 _ s3 s4 s5 s6 t
  have hall : AllAt n (fun x => (runOf x j).st = .retired) s1 := by
    refine allAt_setInst_of ((setRun_tick ..).trans (tick_of_inst hi)) ?_ s
    rw [runOf_setRun_self hj]
  have h1 : Freed p n j (s.rd (fLANE_ITEMS_CNT_ITEMS p)) (s1.setRunning p none) := by
    have hregs : (s1.setRunning p none).regs = s.regs := rfl
    exact ⟨runningAt_setRunning_none .., hall, fun _ => regsOut_regs (regsOut_refl [] s) hregs _ List.not_mem_nil⟩
  have h2 : Onward (s1.setRunning p none) s2 := (onward_prefSync ..).trans (onward_eccWrite ..)
  have h3 : Onward s2 s3 := by
    clear_value s2 r
    change Onward s2 (match r.stateOut with | some ws => _ | none => _)
    split
    · exact (onward_ite (onward_oldStates ..) (onward_states ..)).trans (onward_eccWrite ..)
    · exact onward_refl s2
  have h4 : Freed p n j (satAdd (fLANE_ITEMS_CNT_ITEMS p).w (s.rd (fLANE_ITEMS_CNT_ITEMS p)) 1) s4 := by
    have h := h1.onward (h2.trans h3)
    change Freed _ _ _ _ (if p < 32 then _ else _)
    split
    case isTrue => exact h.inc.onward (onward_laneRetire ..)
    case isFalse hp => exact ⟨h.running, h.retired, fun hlt => absurd hlt hp⟩
  have h5 : Onward s4 s5 := (onward_laneSync ..).trans (onward_trace (traceRetire_kept n j stale (Kept.refl 33554432 _) (Nat.and_self _)))
  have h6 : Onward s5 s6 := by
    clear_value s5
    change Onward s5 (match snrPrepIndex (s5.items i) j with | some k => _ | none => _)
    split
    · exact onward_snareRetire ..
    · exact onward_refl s5
  have h7 : Onward s6 t := (onward_checkComplete ..).trans (onward_tmbRefresh _)
  exact h4.onward ((((h5.trans h6).trans h7).trans (onward_instancesDone _ _)).trans (onward_dropOld _))

theorem execItemRetire_frees {p : Fin 38} {x n j : Nat} {it : Item} {i : Inst} {s : State} (hrun : s.runningAt p = some (n, j))
    (hi : s.inst? n = some i) (hit : (s.items i)[j]? = some it) (hj : j < i.runs.length) (hdata : (runOf i j).data.isSome = true)
    (hstall : s.laneStalled p = false) (hwait : s.composerWaits n j = false) : Runs (.itemRetire p x) s fun t => t.runningAt p = none ∧
      (∀ i', t.inst? n = some i' → (runOf i' j).st = .retired) ∧
      ((p : Nat) < 32 → t.rd (fLANE_ITEMS_CNT_ITEMS p) = satAdd (fLANE_ITEMS_CNT_ITEMS p).w (s.rd (fLANE_ITEMS_CNT_ITEMS p)) 1) := by
  have hfreed := retireItem_freed (p := p) (extra := x) (it := it) hi hj
  refine ⟨retireItem p n j x i it s, ?_, hfreed.running, fun i' hi' => hfreed.retired.of_inst hi', hfreed.items⟩
  change execItemRetire p x s = _
  unfold execItemRetire
  rw [hrun]
  dsimp only
  rw [hi]
  dsimp only
  rw [hit]
  have hsome : (runOf i j).data.isNone = false := by rw [← Option.not_isSome, hdata]; rfl
  exact congrArg Host.Outcome.next (if_neg (by simp [hsome, hstall, hwait]))

/-! ### Promotion (R202) -/

/-- Item `j`'s run of tick `n`'s `Inst` is `r`; AGE3 and the last comparison's µs are as given. -/
structure Stands (n j : Nat) (r : ItemRun) (age us : Nat) (s : State) : Prop where
  inst : ∃ x, s.inst? n = some x ∧ j < x.runs.length ∧ runOf x j = r
  age : s.rd fTMB_AGE_CFG_AGE3_US = age
  lastUs : s.tmb.lastUs = us

/-- The event, the count and the flag of a promotion. -/
theorem Stands.counted {n j age us : Nat} {r : ItemRun} {s : State} (h : Stands n j r age us s) :
    Stands n j r age us (((State.ev 0x354 s).inc fTMB_PROMOTE_CNT_ITEMS).flag fTMB_FLT_FLAGS 7) := by
  have htmb : (State.ev 0x354 s).tmb = s.tmb := (st_ev_kept 0x354 1 (Kept.refl 33554432 s) (Nat.and_self _)).2.2.same .tmb (by decide)
  obtain ⟨x, hx, hrun⟩ := h.inst
  refine ⟨⟨x, ((inst_eq_of_tmb htmb n).trans hx :), hrun⟩, ?_, (congrArg Tmb.lastUs htmb).trans h.lastUs⟩
  rw [rd_flag (by decide), rd_inc_ne (by decide), ev_rd, h.age]

/-- Putting another item's run leaves this one's. -/
theorem Stands.setRun_ne {n j k age us : Nat} {r : ItemRun} {x : Inst} {s : State} (h : Stands n j r age us s) (hx : s.inst? n = some x) (hk : j ≠ k)
    (r' : ItemRun) : Stands n j r age us (s.setInst (setRun x k r')) := by
  obtain ⟨y, hy, hlt, hrun⟩ := h.inst
  obtain rfl : x = y := Option.some_inj.1 (hx.symm.trans hy)
  exact ⟨⟨_, inst_setInst_self hx ((setRun_tick ..).trans (tick_of_inst hx)), by simpa [setRun] using hlt, (runOf_setRun_ne hk _).trans hrun⟩,
    h.age, h.lastUs⟩

theorem Stands.setRun {n j age us : Nat} {r : ItemRun} {x : Inst} {s : State} (h : Stands n j r age us s) (hx : s.inst? n = some x) (r' : ItemRun) :
    Stands n j r' age us (s.setInst (setRun x j r')) := by
  obtain ⟨y, hy, hlt, hrun⟩ := h.inst
  obtain rfl : x = y := Option.some_inj.1 (hx.symm.trans hy)
  exact ⟨⟨_, inst_setInst_self hx ((setRun_tick ..).trans (tick_of_inst hx)), by simpa [Machine.setRun] using hlt, runOf_setRun_self hlt _⟩,
    h.age, h.lastUs⟩

theorem Stands.promote_ne {t n j k age us : Nat} {r : ItemRun} {s : State} (h : Stands n j r age us s) (hk : j ≠ k) :
    Stands n j r age us (promoteItem t n k s) := by
  obtain ⟨x, hx, -⟩ := h.inst
  unfold promoteItem
  rw [hx]
  dsimp -zeta only
  extract_lets r0 a s1
  split
  · exact (h.setRun_ne hx hk _).counted
  · exact h

/-- A READY item of class 3 that has waited longer than AGE3 is promoted. -/
theorem Stands.promote {t n j age us : Nat} {r : ItemRun} {s : State} (h : Stands n j r age us s) (hst : r.st = .ready) (hcls : r.cls = 3)
    (hage : age ≠ 0) (hwait : t - r.readyAt > age * 1000) :
    Stands n j { r with cls := 2, readyAt := t, promoted := true } age us (promoteItem t n j s) := by
  obtain ⟨x, hx, -, hrun⟩ := h.inst
  unfold promoteItem
  rw [hx]
  dsimp only
  rw [hrun, hcls, h.age, if_pos (by simp [hst, hage, hwait])]
  exact (h.setRun hx _).counted

theorem Stands.promote_foldl_ne {t n j age us : Nat} {r : ItemRun} (l : List Nat) (hl : j ∉ l) {s : State} (h : Stands n j r age us s) :
    Stands n j r age us (l.foldl (fun s k => promoteItem t n k s) s) := by
  induction l generalizing s with
  | nil => exact h
  | cons k ks ih =>
    obtain ⟨hk, hks⟩ := not_or.1 (fun h => hl (List.mem_cons.2 h))
    exact ih hks (h.promote_ne hk)

/-- Each item of an `Inst` is compared once. -/
theorem Stands.promote_range {t n j age us len : Nat} {r : ItemRun} {s : State} (h : Stands n j r age us s) (hj : j < len) (hst : r.st = .ready)
    (hcls : r.cls = 3) (hage : age ≠ 0) (hwait : t - r.readyAt > age * 1000) :
    Stands n j { r with cls := 2, readyAt := t, promoted := true } age us ((List.range len).foldl (fun s k => promoteItem t n k s) s) := by
  obtain ⟨l, l', hl⟩ := List.append_of_mem (List.mem_range.2 hj)
  have hnodup : (l ++ j :: l').Nodup := hl ▸ List.nodup_range
  rw [List.nodup_append, List.nodup_cons] at hnodup
  obtain ⟨-, ⟨hafter, -⟩, hdisj⟩ := hnodup
  have hbefore : j ∉ l := fun hmem => hdisj j hmem j (List.mem_cons_self ..) rfl
  rw [hl, List.foldl_append, List.foldl_cons]
  exact ((h.promote_foldl_ne l hbefore).promote hst hcls hage hwait).promote_foldl_ne l' hafter

theorem execAgePromotion_promotes {i : Inst} {j : Nat} {s : State} (hinsts : s.tmb.insts = [i]) (hopen : i.complete = false)
    (hj : j < i.runs.length) (hst : (runOf i j).st = .ready) (hcls : (runOf i j).cls = 3) (hage : s.rd fTMB_AGE_CFG_AGE3_US ≠ 0)
    (hus : s.clv.now / 1000 > s.tmb.lastUs)
    (hwait : s.clv.now / 1000 * 1000 - (runOf i j).readyAt > s.rd fTMB_AGE_CFG_AGE3_US * 1000) :
    Runs .agePromotion s fun t => t.tmb.lastUs = s.clv.now / 1000 ∧
      ∃ i', t.inst? i.tick = some i' ∧ (runOf i' j).cls = 2 ∧ (runOf i' j).promoted = true := by
  set s1 := s.setTmb { s.tmb with lastUs := s.clv.now / 1000 } with hs1
  have hlive : s1.live = [i] := by
    change s.tmb.insts.filter _ = [i]
    rw [hinsts]
    simp [hopen]
  have hinst : s1.inst? i.tick = some i := by
    change s.tmb.insts.find? _ = some i
    rw [hinsts]
    simp
  have h1 : Stands i.tick j (runOf i j) (s.rd fTMB_AGE_CFG_AGE3_US) (s.clv.now / 1000) s1 := ⟨⟨i, hinst, hj, rfl⟩, rfl, rfl⟩
  have h2 := h1.promote_range hj hst hcls hage hwait
  refine ⟨_, (congrArg Host.Outcome.next (if_neg (Nat.not_le.2 hus)) :), ?_⟩
  dsimp only
  rw [← hs1, hlive]
  obtain ⟨x, hx, -, hrun⟩ := h2.inst
  exact ⟨h2.lastUs, x, hx, by rw [hrun], by rw [hrun]⟩

/-! ### The obligation -/

/-- Settles O30: each step keeps what the sequencer's upkeep after it leaves alone. -/
theorem itemRows : Obligations.ItemRows := by
  unfold Obligations.ItemRows
  refine ⟨fun im s => execInstanceActivate_opens, fun g n j it p i s => execItemDispatch_queues, ?_, fun p x n j it i s => execItemRetire_frees,
    fun i j s => execAgePromotion_promotes⟩
  intro p late n j it q i s hidle hq hstall hi hit hj
  exact execItemStart_starts hidle hq hstall hi hit hj

end Sys2Proof.Machine
end

section
/-!
PROOFS. Scope: errors in the sequencer's memories (R217).
-/

namespace Sys2Proof.Machine

/-! ### Errors in the table SRAM (R217) -/

/-- An item that neither runs nor is done is abandoned. -/
theorem abandonItem_abandons {n j : Nat} {i : Inst} {s : State} (hi : s.inst? n = some i) (hj : j < i.runs.length)
    (hdone : itemDone (runOf i j) = false) (hrun : (runOf i j).st ≠ .running) :
    Onward s (abandonItem n j s) ∧ AllAt n (fun x => (runOf x j).st = .abandoned) (abandonItem n j s) := by
  unfold abandonItem
  rw [hi]
  dsimp -zeta only
  extract_lets r u _ i1 s1
  rw [if_neg (by simp [r, hdone, hrun])]
  have hlater : Later i i1 := ⟨rfl, rfl, List.length_set .., (later_setRun (i := i) fun h => absurd h (by simp [hdone])).done⟩
  have hset : Onward s (u.setInst i1) := (onward_unqueue n j s).setInst hi hlater
  have hevent := onward_ev 0x356 1 (u.setInst i1)
  have hcount : Onward (State.ev 0x356 (u.setInst i1)) ((State.ev 0x356 (u.setInst i1)).inc fTMB_ABANDON_CNT_ITEMS) :=
    onward_wr (quiet_of (by decide) (.inl (by decide))) ..
  have h1 : Onward (u.setInst i1) s1 := hevent.trans (hcount.trans (onward_flagFlt 3 _))
  have hall : AllAt n (fun x => (runOf x j).st = .abandoned) (u.setInst i1) :=
    allAt_setInst_of (hlater.tick.trans (tick_of_inst hi)) (congrArg ItemRun.st (runOf_setRun_self hj _)) u
  clear_value s1 i1
  have h2 : Onward s1 (match snrPrepIndex (s1.items i1) j with | some k => rowLost k n s1 | none => s1) := by
    split
    · exact onward_rowLost ..
    · exact onward_refl s1
  exact ⟨hset.trans (h1.trans h2), hall.onward (h1.trans h2) fun hlater => hlater.st (.inr rfl)⟩

theorem told_tmb (cause n code : Nat) (payload : Bytes) (s : State) : (abdicate cause false (postAt n code payload s)).tmb = s.tmb :=
  have hF : Sub allButTmb allButTmb := Nat.and_self _
  Kept.tmb (abdicate_kept cause false (postAt_kept n code payload (Kept.refl allButTmb s)))

/-- An entry in error abandons its item and asks for a reload of the table. -/
theorem execTableSramUe_abandons {n : Nat} {j : Fin 4096} {i : Inst} {s : State} (hi : s.inst? n = some i) (hj : (j : Nat) < i.runs.length)
    (hdone : itemDone (runOf i j) = false) (hrun : (runOf i j).st ≠ .running) :
    Runs (.tableSramUe .lost n j) s fun t => t.tmb.reload = true ∧ t.bit fTMB_FLT_FLAGS 5 = true ∧
      ∀ i', t.inst? n = some i' → (runOf i' j).st = .abandoned := by
  refine ⟨_, rfl, ?_⟩
  rw [hi]
  dsimp -zeta only
  extract_lets l _ s1 s2 s3 t
  have hfault : Onward (s1.flag fTMB_FLT_FLAGS 5) s2 := onward_wr (quiet_of (by decide) (.inl (by decide))) ..
  have htold : Onward s2 s3 := (onward_postAt ..).trans (onward_abdicate ..)
  have htmb : s3.tmb = s1.tmb := told_tmb ..
  have hi3 : s3.inst? n = some i := (inst_eq_of_tmb htmb n).trans hi
  obtain ⟨hab, hall⟩ := abandonItem_abandons hi3 hj hdone hrun
  have hend : Onward (abandonItem n j s3) (dropOld (instancesDone s3 t)) :=
    (((onward_checkComplete ..).trans (onward_tmbRefresh _)).trans (onward_instancesDone _ _)).trans (onward_dropOld _)
  have hon := (hfault.trans htold).trans (hab.trans hend)
  exact ⟨hon.reload, hon.flt 5 (by decide) (bit_flag_self (by decide) _),
    fun i' hi' => (hall.onward hend fun hlater => hlater.st (.inr rfl)).of_inst hi'⟩

/-! ### Errors in a lane's store (R217) -/

theorem laneFlt_block (p : Fin 32) : (fLANE_FLT_FLAGS p).block = 6 := by
  change ((0x60008 + 512 * (p : Nat)) * 32 + 0) / 32 / 0x10000 = 6
  omega

theorem laneFlt_ne_eccUe (p : Nat) : (fLANE_FLT_FLAGS p).key ≠ (fLANE_ECC_CNT_UE p).key := by
  change (rLANE_FLT p) * 32 + 0 ≠ (rLANE_ECC_CNT p) * 32 + 24
  unfold rLANE_FLT rLANE_ECC_CNT
  omega

theorem execLaneLsUe_marks {p : Fin 32} {n j : Nat} {i : Inst} {s : State} (hrun : s.runningAt p = some (n, j)) (hi : s.inst? n = some i) :
    Runs (.laneLsUe .lost p) s fun t => t.inst? n = some (Machine.setRun i j { runOf i j with lsUe := true }) ∧
      t.bit (fLANE_FLT_FLAGS p) 0 = true := by
  refine ⟨_, rfl, ?_⟩
  rw [hrun]
  dsimp -zeta only
  rw [hi]
  dsimp -zeta only
  extract_lets _ s1 s2
  have hi1 : s1.inst? n = some (Machine.setRun i j { runOf i j with lsUe := true }) :=
    inst_setInst_self hi ((setRun_tick ..).trans (tick_of_inst hi))
  refine ⟨(inst_eq_of_tmb (told_tmb ..) n).trans hi1, ?_⟩
  refine (bit_eq_of_rd ?_ 0).trans (bit_flag_self (f := fLANE_FLT_FLAGS p) (show 0 < 4 by decide) s1)
  calc _ = (postAt n 0x45 (itemPayload n j p 1) s2).rd (fLANE_FLT_FLAGS p) :=
        abdicate_regs abdLaneUe false (regsOut_refl _ _) _ (by rw [laneFlt_block]; decide)
    _ = s2.rd (fLANE_FLT_FLAGS p) := postAt_rd (by rw [laneFlt_block]; decide) ..
    _ = (s1.flag (fLANE_FLT_FLAGS p) 0).rd (fLANE_FLT_FLAGS p) := rd_inc_ne (laneFlt_ne_eccUe p) ..

/-! ### Errors in a fetched block (R217) -/

theorem col?_ev (e k : Nat) (s : State) (n : Nat) : (State.ev e s k).col? n = s.col? n := by
  have hpgh : (State.ev e s k).pgh = s.pgh := (st_ev_kept e k (Kept.refl 33554432 s) (Nat.and_self _)).2.2.same .pgh (by decide)
  unfold State.col?
  rw [hpgh]

/-- A record in error is MISSING. -/
theorem cell_recordUe {n slot : Nat} {c : Column} {s : State} (h : s.col? n = some c) :
    (recordUe n slot s).cell n slot = { cellOf c slot with state := 2, rec? := none, lost := true } := by
  unfold recordUe
  rw [h]
  exact (cell_setCol (d := putCell c slot _) h (show c.tick = n from tick_of_col? h) slot).trans (cellOf_putCell_self ..)

theorem recordUe_tmb (n slot : Nat) (s : State) : (recordUe n slot s).tmb = s.tmb := by
  unfold recordUe
  split <;> rfl

theorem execFetchUe_cells {p : Fin 38} {n j k : Nat} {it : Item} {sl : Fin 8192} {i : Inst} {s : State} {f c : Nat} {h a d : Bool}
    {x y : Nat}
    (hrun : s.runningAt p = some (n, j)) (hi : s.inst? n = some i) (hit : (s.items i)[j]? = some it)
    (hop : it.ops[k]? = some (.cells f c h a d x y)) (hlo : f ≤ sl.val) (hhi : sl.val < f + c) {col : Column} (hcol : s.col? n = some col) :
    Runs (.fetchUe p k sl) s fun t => (t.cell n sl).state = 2 ∧ (t.cell n sl).rec? = none ∧ t.inst? n = some (Machine.setRun i j
      { runOf i j with bank := (runOf i j).bank.map fun l => l.set k (t.fetchNow i j n false (.cells f c h a d x y)) }) := by
  set s1 := recordUe n sl (State.ev 0x36B s) with hs1
  have hcell := cell_recordUe (slot := sl) ((col?_ev 0x36B 1 s n).trans hcol)
  have hi1 : s1.inst? n = some i := (inst_eq_of_tmb (recordUe_tmb ..) n).trans ((ev_inst ..).trans hi)
  refine ⟨refetch n j k (.cells f c h a d x y) s1, ?_, ?_⟩
  · change execFetchUe p k sl s = _
    unfold execFetchUe
    rw [hrun]
    dsimp only
    rw [hi]
    dsimp only
    rw [hit, Option.bind_some, hop]
    exact congrArg Host.Outcome.next (if_pos (by simp [hlo, hhi]))
  · unfold refetch
    rw [hi1]
    exact ⟨congrArg Cell.state hcell, congrArg Cell.rec? hcell, inst_setInst_self hi1 ((setRun_tick ..).trans (tick_of_inst hi))⟩

/-- What an error in a fetched block leaves. -/
def blockUe (p n j k : Nat) (i : Inst) (s : State) : State :=
  let r := runOf i j
  let s := (s.ev 0x36B).setInst (Machine.setRun i j { r with fetchUe := r.fetchUe ++ [k] })
  let s := if p < 32 then s.flag (fLANE_FLT_FLAGS p) 1 else s
  postAt n 0x46 (itemPayload n j (laneOf r) 1) s

/-- A block in error marks the run. -/
theorem blockUe_inst {n j : Nat} {i : Inst} {s : State} (p k : Nat) (hi : s.inst? n = some i) :
    (blockUe p n j k i s).inst? n = some (Machine.setRun i j { runOf i j with fetchUe := (runOf i j).fetchUe ++ [k] }) := by
  have hF : Sub allButTmb allButTmb := Nat.and_self _
  unfold blockUe
  extract_lets r s1 s2
  have hi1 : s1.inst? n = some (Machine.setRun i j { r with fetchUe := r.fetchUe ++ [k] }) :=
    inst_setInst_self ((ev_inst ..).trans hi) ((setRun_tick ..).trans (tick_of_inst hi))
  have htmb : s2.tmb = s1.tmb := by
    clear_value s1
    change (if p < 32 then _ else _ : State).tmb = s1.tmb
    split <;> rfl
  have htold : (postAt n 0x46 (itemPayload n j (laneOf r) 1) s2).tmb = s2.tmb :=
    Kept.tmb (postAt_kept n 0x46 _ (Kept.refl allButTmb s2))
  exact (inst_eq_of_tmb (htold.trans htmb) n).trans hi1

theorem execFetchUe_block {p : Fin 38} {n j k : Nat} {it : Item} {sl : Fin 8192} {op : Operand} {i : Inst} {s : State}
    (hrun : s.runningAt p = some (n, j)) (hi : s.inst? n = some i) (hit : (s.items i)[j]? = some it) (hop : it.ops[k]? = some op)
    (hclose : ∀ g, op ≠ .close g) (hcells : ∀ f c h a d x y, op ≠ .cells f c h a d x y) :
    Runs (.fetchUe p k sl) s fun t =>
      t.inst? n = some (Machine.setRun i j { runOf i j with fetchUe := (runOf i j).fetchUe ++ [k] }) := by
  refine ⟨_, rfl, ?_⟩
  rw [hrun]
  dsimp -zeta only
  rw [hi]
  dsimp -zeta only
  rw [hit, Option.bind_some, hop]
  cases op with
  | close g => exact absurd rfl (hclose g)
  | cells f c h a d x y => exact absurd rfl (hcells f c h a d x y)
  | result | prev | state | const => exact blockUe_inst p k hi

/-! ### The obligation -/

/-- Settles O31: a count, an abandoned item, a marked run, and a missing record that is fetched again. -/
theorem sequencerErrorRows : Obligations.SequencerErrorRows := by
  unfold Obligations.SequencerErrorRows
  refine ⟨fun _ _ _ _ => rfl, fun _ _ _ => rfl, fun n j i s => execTableSramUe_abandons, fun p n j i s => execLaneLsUe_marks, ?_⟩
  intro p n j it k op sl i s hrun hi hit hop
  refine ⟨?_, fun hclose hcells => execFetchUe_block hrun hi hit hop hclose hcells⟩
  rintro f c h a d x y rfl hlo hhi col hcol
  exact execFetchUe_cells hrun hi hit hop hlo hhi hcol

end Sys2Proof.Machine
end

section
/-!
PROOFS. Scope: accounting and pulses (R301, R302, R306, R308, R421): the messages of the pair, a commit's end, a cut set in error and the pulse
outputs.
-/

namespace Sys2Proof.Machine

/-! ### Messages of the pair (R401 to R403) -/

/-- A message's frame tells the member, the role, the last `Inst` and the session, and nothing else of the state. -/
theorem pairFrame_eq_of {s t : State} (hmember : t.rd fPAIR_STS_MEMBER = s.rd fPAIR_STS_MEMBER) (hrole : t.rd fPAIR_STS_ROLE = s.rd fPAIR_STS_ROLE)
    (htmb : t.tmb = s.tmb) (hpair : t.pair = s.pair) (lane typ ctr : Nat) (payload : Bytes) :
    t.pairFrame lane typ ctr payload = s.pairFrame lane typ ctr payload := by
  simp only [State.pairFrame, State.pairTag, State.pairBody, State.role, State.lastActivated, hmember, hrole, htmb, hpair]

theorem pairEmit_out (s : State) (typ ctr : Nat) (payload : Bytes) :
    (s.pairEmit typ ctr payload).out = s.out ++ [.pair 0 (s.pairFrame 0 typ ctr payload)] ++ [.pair 1 (s.pairFrame 1 typ ctr payload)] := rfl

theorem pairSend_out_eq_of {s t : State} (hmember : t.rd fPAIR_STS_MEMBER = s.rd fPAIR_STS_MEMBER)
    (hrole : t.rd fPAIR_STS_ROLE = s.rd fPAIR_STS_ROLE) (htmb : t.tmb = s.tmb) (hpair : t.pair = s.pair) (hout : t.out = s.out) (typ : Nat)
    (payload : Bytes) : (t.pairSend typ payload).out = (s.pairSend typ payload).out := by
  unfold State.pairSend
  rw [hpair]
  split
  · exact hout
  · have hframe (lane : Nat) := pairFrame_eq_of (s := s.setPair { s.pair with txCtr := s.pair.txCtr + 1 })
      (t := t.setPair { s.pair with txCtr := s.pair.txCtr + 1 }) hmember hrole htmb rfl lane typ (s.pair.txCtr + 1) payload
    rw [pairEmit_out, pairEmit_out, hframe, hframe, State.setPair_out, State.setPair_out, hout]

theorem pairSend_rd (s : State) (typ : Nat) (payload : Bytes) (f : Fld) : (s.pairSend typ payload).rd f = s.rd f := by
  rw [State.rd, pairSend_regs, State.rd]

theorem pairSend_acc (s : State) (typ : Nat) (payload : Bytes) : (s.pairSend typ payload).acc = s.acc :=
  (st_pairSend_kept typ payload (Kept.refl _ s) (Nat.and_self _)).2.2.same .acc (by decide)

theorem pairSend_mramAcc (s : State) (typ : Nat) (payload : Bytes) : (s.pairSend typ payload).mram.acc = s.mram.acc :=
  (st_pairSend_kept typ payload (Kept.refl _ s) (Nat.and_self _)).2.2.same .mramAcc (by decide)

/-! ### A posted record leaves the accounts alone -/

theorem post_acc (code : Nat) (payload : Bytes) (s : State) : (post code payload s).acc = s.acc :=
  (post_kept code payload (Kept.refl _ s) (Nat.and_self _)).2.2.same .acc (by decide)

theorem post_mramAcc (code : Nat) (payload : Bytes) (s : State) : (post code payload s).mram.acc = s.mram.acc :=
  (post_kept code payload (Kept.refl _ s) (Nat.and_self _)).2.2.same .mramAcc (by decide)

theorem post_out (code : Nat) (payload : Bytes) (s : State) : (post code payload s).out = s.out :=
  (post_kept code payload (Kept.refl _ s) (Nat.and_self _)).2.2.same .out (by decide)

/-! ### A commit's end (R301, R302) -/

/-- A commit's write has ended: the slot written holds `sl`, and `tried` tells of a write that failed. -/
def writeEnded (k : Nat) (sl : AccSlot) (tried : Option Nat) (s : State) : State :=
  (s.setAcc { s.acc with write := none, tried := tried }).setAccM { s.mram.acc with slots := s.mram.acc.slots.set k (some sl) }

/-- The registers after a complete commit. -/
def commitShown (k : Nat) (sl : AccSlot) (s : State) : State :=
  (((s.inc fACC_COMMIT_CNT_COMMITS).wr fACC_COMMIT_STS_SLOT k).wr fACC_COMMIT_STS_KIND sl.kind).wr64 fACC_COMMIT_TICK_LO_N_LO sl.tick

theorem endCommit_complete {k : Nat} {sl : AccSlot} {s : State} (h : s.acc.write = some (k, sl)) :
    endCommit false s = if sl.kind = 1 ∧ s.paired = true then
        (commitShown k sl (writeEnded k sl none s)).pairSend pmAccSum (be 8 sl.tick ++ (sl.cuts.map fun c => be 12 (ofSigned 96 c.anet)).flatten)
      else commitShown k sl (writeEnded k sl none s) := by
  unfold endCommit
  rw [h]
  exact (if_neg Bool.false_ne_true).trans (if_congr (by rw [Bool.and_eq_true, decide_eq_true_eq]; exact Iff.rfl) rfl rfl)

theorem endCommit_failed {k : Nat} {sl : AccSlot} {s : State} (h : s.acc.write = some (k, sl)) :
    endCommit true s = post 0x71 (le 1 sl.kind ++ le 1 k ++ le 2 0 ++ le 8 sl.gen ++ le 8 sl.tick)
      (((writeEnded k { sl with complete := false } (some k) s).inc fACC_COMMITF_CNT_COMMITS).flag fACC_FLT_FLAGS 3) := by
  unfold endCommit
  rw [h]
  rfl

/-- The registers of a commit read its slot, its kind and the count. -/
theorem commitShown_rd {k : Nat} {sl : AccSlot} (hk : k < 8) (hkind : sl.kind < 8) (s : State) :
    (commitShown k sl s).rd fACC_COMMIT_STS_SLOT = k ∧ (commitShown k sl s).rd fACC_COMMIT_STS_KIND = sl.kind ∧
      (commitShown k sl s).rd fACC_COMMIT_CNT_COMMITS = satAdd 32 (s.rd fACC_COMMIT_CNT_COMMITS) 1 := by
  unfold commitShown
  refine ⟨?_, ?_, ?_⟩
  · rw [rd_wr64_ne (by decide) (by decide), State.rd_wr_ne _ (by decide), State.rd_wr]
    exact Nat.mod_eq_of_lt hk
  · rw [rd_wr64_ne (by decide) (by decide), State.rd_wr]
    exact Nat.mod_eq_of_lt hkind
  · rw [rd_wr64_ne (by decide) (by decide), State.rd_wr_ne _ (by decide), State.rd_wr_ne _ (by decide), rd_inc_self]

/-- A commit writes to the registers of the accounting block only. -/
theorem commitShown_rd_of_block {f : Fld} (hf : f.block ≠ 0x0A) (k : Nat) (sl : AccSlot) (s : State) : (commitShown k sl s).rd f = s.rd f := by
  refine regsOut_wr64 (B := [0x0A]) _ (regsOut_wr _ (regsOut_wr _ (regsOut_inc _ (regsOut_refl _ s) ?_) ?_) ?_) ?_ ?_ f (by simpa using hf)
  all_goals decide

/-! ### A cut set in error (R306) -/

/-- A cut set reloaded from what MRAM saved of it, `dur` ns before its last run. -/
def reloadedCut (saved old : CutSt) (dur : Nat) : CutSt :=
  { saved with unacc := saved.unacc + dur, est := saved.est + estOf saved.hold dur, fresh := false,
               vals := old.vals.map fun v => { v with val := none } }

theorem cutSt_eq_of_acc {s t : State} (h : t.acc = s.acc) (c : Nat) : t.cutSt c = s.cutSt c := by unfold State.cutSt; rw [h]

theorem cutSt_setCut_self {c : Nat} {s : State} (hc : c < s.acc.cuts.length) (x : CutSt) :
    (s.setAcc { s.acc with cuts := s.acc.cuts.set c x }).cutSt c = x := by
  simp [State.cutSt, hc]

theorem cutSt_setCut_ne {c d : Nat} (h : d ≠ c) (s : State) (x : CutSt) :
    (s.setAcc { s.acc with cuts := s.acc.cuts.set c x }).cutSt d = s.cutSt d := by
  simp [State.cutSt, List.getD, List.getElem?_set_ne h.symm]

/-- The cut set is reloaded from the newest complete slot or, where there is none, from 0 with nothing added (log entry 27). -/
theorem exec_accSramUe_lost {c : Fin 512} {s : State} (hc : (c : Nat) < s.acc.cuts.length) : ∃ saved dur payload,
    exec (.accSramUe .lost c) s = .next (post 0x74 payload
      (((s.setAcc { s.acc with cuts := s.acc.cuts.set c (reloadedCut saved (s.cutSt c) dur) }).flag fACC_FLT_FLAGS 7).inc fACC_ECC_CNT_UE)) ∧
    (newestSlot s.mram.acc = none → saved = {}) ∧
    ∀ k sl, newestSlot s.mram.acc = some (k, sl) → sl.zero = none → saved = sl.cuts.getD c {} ∧ dur = s.acc.lastInst - sl.inst := by
  refine ⟨_, _, _, congrArg Host.Outcome.next (if_neg (Nat.not_le.2 hc)), fun h => ?_, fun k sl h hzero => ?_⟩
  · rw [h]
  · rw [h]
    dsimp only
    rw [hzero]
    exact ⟨rfl, rfl⟩

/-! ### Pulse outputs (R308) -/

theorem pulseSt_eq_of_acc {s t : State} (h : t.acc = s.acc) (k : Nat) : t.pulseSt k = s.pulseSt k := by unfold State.pulseSt; rw [h]

theorem pulseSt_setPulse {k : Nat} {s : State} (hk : k < s.acc.pulses.length) (p : PulseSt) : (setPulse k p s).pulseSt k = p := by
  simp [State.pulseSt, setPulse, hk]

theorem setPin_out (pin : Nat) (level : Bool) (s : State) :
    (setPin pin level s).out = s.out ++ (if s.shedding then [] else [.pin "PIO" pin (some level)]) := by
  unfold setPin
  split
  · exact (List.append_nil _).symm
  · rfl

theorem setPin_rd (pin : Nat) (level : Bool) (s : State) (f : Fld) : (setPin pin level s).rd f = s.rd f := by
  unfold setPin
  split <;> rfl

theorem setPin_acc (pin : Nat) (level : Bool) (s : State) : (setPin pin level s).acc = s.acc := by
  unfold setPin
  split <;> rfl

/-- The width of the pulse that output `k` starts now. -/
def widthNow (k : Nat) (c : PulseCfg) (s : State) : Nat :=
  pulseWidth (s.pulseSt k).due (s.rd (fACC_PLS_CFG_W_SET_MS k)) (s.rd (fACC_PLS_CFG_W_MIN_MS k)) c.weight (s.pulseSt k).rises.sum

/-- A pulse of `w` ns that starts at `now`. -/
def startedPulse (now w : Nat) (p : PulseSt) : PulseSt :=
  { p with due := p.due - 1, started := p.started + 1, pulseEnd := some (now + w), gapEnd := now + 2 * w, width := w }

/-- Output `k` counts and shows a pulse of `w` ns. -/
def pulseBegun (k w : Nat) (s : State) : State :=
  (((setPulse k (startedPulse s.clv.now w (s.pulseSt k)) s).incWrap (fACC_PLS_STS_PULSES k)).wr (fACC_PLS_STS_WIDTH_MS k) (w / 1000000)).wrB
    (fACC_PLS_STS_LEVEL k) true

theorem pulseBegun_pulseSt {k : Nat} {s : State} (hk : k < s.acc.pulses.length) (w : Nat) :
    (pulseBegun k w s).pulseSt k = startedPulse s.clv.now w (s.pulseSt k) := pulseSt_setPulse hk _

theorem pulseBegun_level (k : Fin 8) (w : Nat) (s : State) : (pulseBegun k w s).rd (fACC_PLS_STS_LEVEL k) = 1 := State.rd_wr ..

theorem pulseBegun_pulses (k : Fin 8) (w : Nat) (s : State) :
    (pulseBegun k w s).rd (fACC_PLS_STS_PULSES k) = (s.rd (fACC_PLS_STS_PULSES k) + 1) % 65536 := by
  unfold pulseBegun State.wrB State.incWrap
  rw [rd_wr_indexed fACC_PLS_STS_LEVEL fACC_PLS_STS_PULSES (by decide), rd_wr_indexed fACC_PLS_STS_WIDTH_MS fACC_PLS_STS_PULSES (by decide),
    State.rd_wr]
  rfl

/-- Output `k`'s pulse is over; its gap runs on. -/
def pulseOver (k : Nat) (s : State) : State :=
  (setPulse k { s.pulseSt k with pulseEnd := none } s).wrB (fACC_PLS_STS_LEVEL k) false

theorem pulseOver_pulseSt {k : Nat} {s : State} (hk : k < s.acc.pulses.length) :
    (pulseOver k s).pulseSt k = { s.pulseSt k with pulseEnd := none } := pulseSt_setPulse hk _

theorem exec_pulseStart {k : Fin 8} {c : PulseCfg} {s : State} (hcfg : (accCfgOf s.img).pulses[k.val]? = some c)
    (hk : (k : Nat) < s.acc.pulses.length) (hauth : s.authority = true) (howned : s.rd (fACC_PLS_CFG_OWNED k) = 1) (hdue : (s.pulseSt k).due > 0)
    (hidle : (s.pulseSt k).pulseEnd = none) (hgap : s.clv.now ≥ (s.pulseSt k).gapEnd) :
    exec (.pulseStart k) s = .next (setPin c.pin (!c.low) (pulseBegun k (widthNow k c s) s)) := by
  have hon : s.on (fACC_PLS_CFG_OWNED k) = true := by simp [State.on, howned]
  change execPulseStart k s = _
  unfold execPulseStart
  rw [hcfg]
  refine congrArg Host.Outcome.next (if_neg ?_)
  simp only [hon, hauth, hidle, decide_eq_false hdue.ne', decide_eq_false (Nat.not_le.2 hk), decide_eq_false (Nat.not_lt.2 hgap)]
  decide

theorem exec_pulseEnd {k : Fin 8} {c : PulseCfg} {e : Nat} {s : State} (hcfg : (accCfgOf s.img).pulses[k.val]? = some c)
    (hend : (s.pulseSt k).pulseEnd = some e) (hnow : s.clv.now ≥ e) :
    exec (.pulseEnd k) s = .next (setPin c.pin c.low (pulseOver k s)) := by
  change execPulseEnd k s = _
  unfold execPulseEnd
  rw [hcfg]
  dsimp only
  rw [hend]
  exact congrArg Host.Outcome.next (if_neg (Nat.not_lt.2 hnow))

/-! ### The obligation -/

/-- Settles O38, from what a commit's end, a reloaded cut set and a pulse's start and end leave. -/
theorem accountRows : Obligations.AccountRows := by
  unfold Obligations.AccountRows
  refine ⟨fun k sl s hwrite hk hkind => ⟨?complete, ?failed⟩, fun _ _ _ => rfl, ?reload, ?start, ?ended⟩
  case complete =>
    obtain ⟨hslot, hkindRd, hcount⟩ := commitShown_rd hk hkind (writeEnded k sl none s)
    have hpair {f : Fld} (hf : f.block ≠ 0x0A) : (commitShown k sl (writeEnded k sl none s)).rd f = s.rd f := commitShown_rd_of_block hf ..
    refine ⟨_, congrArg Host.Outcome.next (endCommit_complete hwrite), ?_⟩
    split
    · rw [pairSend_acc, pairSend_mramAcc, pairSend_rd, pairSend_rd, pairSend_rd]
      exact ⟨rfl, rfl, hslot, hkindRd, hcount, pairSend_out_eq_of (hpair (by decide)) (hpair (by decide)) rfl rfl rfl ..⟩
    · exact ⟨rfl, rfl, hslot, hkindRd, hcount, rfl⟩
  case failed =>
    refine ⟨_, congrArg Host.Outcome.next (endCommit_failed hwrite), ?_⟩
    beta_reduce
    rw [post_acc, post_mramAcc, post_out, post_rd _ _ _ (by decide), bit_eq_of_rd (post_rd _ _ _ (by decide)), rd_flag (by decide), rd_inc_self,
      bit_flag_self (by decide)]
    exact ⟨rfl, rfl, rfl, rfl, rfl⟩
  case reload =>
    intro c s hc
    obtain ⟨saved, dur, payload, hexec, hnone, hsome⟩ := exec_accSramUe_lost hc
    refine ⟨_, hexec, ?_⟩
    generalize hu : s.setAcc { s.acc with cuts := s.acc.cuts.set c (reloadedCut saved (s.cutSt c) dur) } = u
    have hcut (x : Nat) : (post 0x74 payload ((u.flag fACC_FLT_FLAGS 7).inc fACC_ECC_CNT_UE)).cutSt x = u.cutSt x :=
      cutSt_eq_of_acc (post_acc ..) x
    have hself : u.cutSt c = reloadedCut saved (s.cutSt c) dur := hu ▸ cutSt_setCut_self hc _
    have hother (x : Nat) (hx : x ≠ c) : u.cutSt x = s.cutSt x := hu ▸ cutSt_setCut_ne hx ..
    simp only [hcut, hself]
    refine ⟨?_, ?_, ?_, hother, rfl, fun hn => ?_, fun k sl hn hzero => ?_⟩
    · rw [bit_eq_of_rd (post_rd _ _ _ (by decide)), bit_eq_of_rd (rd_inc_ne (by decide) ..), bit_flag_self (by decide)]
    · rw [post_rd _ _ _ (by decide), rd_inc_self, rd_flag (by decide), ← hu, State.setAcc_rd]
    · rw [post_mramAcc, State.inc_mram, State.flag_mram, ← hu, State.setAcc_mram]
    · rw [hnone hn]
      exact ⟨rfl, rfl, rfl, rfl, rfl⟩
    · obtain ⟨hsaved, hdur⟩ := hsome k sl hn hzero
      rw [hsaved, hdur]
      exact ⟨rfl, rfl, rfl, rfl, rfl, rfl⟩
  case start =>
    intro k c s hcfg hk hauth howned hdue hidle hgap
    refine ⟨_, exec_pulseStart hcfg hk hauth howned hdue hidle hgap, ?_⟩
    beta_reduce
    rw [pulseSt_eq_of_acc (setPin_acc ..), pulseBegun_pulseSt hk, setPin_out, setPin_rd, setPin_rd, pulseBegun_level, pulseBegun_pulses]
    exact ⟨rfl, rfl, ⟨_, rfl, rfl, rfl⟩, rfl, rfl⟩
  case ended =>
    intro k c e s hcfg hk hend hnow
    refine ⟨_, exec_pulseEnd hcfg hend hnow, ?_⟩
    beta_reduce
    rw [pulseSt_eq_of_acc (setPin_acc ..), pulseOver_pulseSt hk, setPin_out, setPin_rd]
    exact ⟨rfl, rfl, rfl, rd_wrB_false ..⟩

end Sys2Proof.Machine
end

section
/-!
PROOFS. Scope: C37.118 commands (R325, R326, R408): what the steward core's tests make of a command, the frames that answer it, and the
destinations it turns on or off.
-/

namespace Sys2Proof.Machine

/-! ### What a command's count leaves alone -/

/-- Clave tells SOC and FRACSEC; the registers of egress have no part in them. -/
theorem socFrac_eq_of_regsOut {s t : State} (hregs : RegsOut [0x0B] s t) (hclv : t.clv = s.clv) (hup : t.up = s.up) (timeBase x : Nat) :
    t.socFrac timeBase x = s.socFrac timeBase x := by
  have herr : t.errEst = s.errEst := errEst_eq_of hclv hup fun f hf =>
    hregs f ((by decide : ∀ f ∈ [fCLV_STS_STATE, fCLV_STS_STEPPED, fCLV_STS_SRC, fCLV_QUAL_CFG_DRIFT_PPB], f.block ∉ [0x0B]) f hf)
  have hstate : t.rd fCLV_STS_STATE = s.rd fCLV_STS_STATE := hregs _ (by decide)
  have htai : t.rd fCLV_UTC_CFG_TAI_UTC = s.rd fCLV_UTC_CFG_TAI_UTC := hregs _ (by decide)
  have h59 : t.on fCLV_UTC_CFG_LEAP59 = s.on fCLV_UTC_CFG_LEAP59 := on_eq_of_rd (hregs _ (by decide))
  have h61 : t.on fCLV_UTC_CFG_LEAP61 = s.on fCLV_UTC_CFG_LEAP61 := on_eq_of_rd (hregs _ (by decide))
  have hutc : t.taiUtcAt x = s.taiUtcAt x := by
    unfold State.taiUtcAt State.taiUtc State.rdS
    rw [hclv, htai]
  have htq : t.tq = s.tq := by
    unfold State.tq State.clvState
    rw [herr, hstate]
  unfold State.socFrac
  rw [hutc, htq, h59, h61, hclv]

theorem socFrac_inc {f : Fld} (hf : f.block ∈ [0x0B]) (s : State) (timeBase x : Nat) :
    (s.inc f).socFrac timeBase x = s.socFrac timeBase x :=
  socFrac_eq_of_regsOut (regsOut_inc _ (regsOut_refl _ s) hf) rfl rfl timeBase x

theorem authority_inc {f : Fld} (hf : fPAIR_STS_ROLE.key ≠ f.key) (s : State) : (s.inc f).authority = s.authority := by
  have hrole : (s.inc f).rd fPAIR_STS_ROLE = s.rd fPAIR_STS_ROLE := rd_inc_ne hf ..
  have hpaired : (s.inc f).paired = s.paired := rfl
  unfold State.authority
  rw [hpaired, hrole]

/-- The name of the definition is unfolded apart from its arguments: with them, the kernel would evaluate the search of 512 ticks. -/
theorem mirrorRun_eq_of {s t : State} (hclose : t.closeOf = s.closeOf) (hlast : t.lastActivated = s.lastActivated) (htick : t.curTick = s.curTick)
    (hahead : t.mirrorTick = s.mirrorTick) (hclv : t.clv = s.clv) : t.mirrorRun = s.mirrorRun := by
  generalize hrun : State.mirrorRun = run
  delta State.mirrorRun at hrun
  subst hrun
  beta_reduce
  rw [hclose, hlast, htick, hahead, hclv]

theorem mirrorRun_inc (f : Fld) (s : State) : (s.inc f).mirrorRun = s.mirrorRun := mirrorRun_eq_of rfl rfl rfl rfl rfl

/-! ### The steward core's tests (R326, R408) -/

theorem cmdBad_counts (s : State) : (cmdBad s).rd fEGR_CMD_CNT_BAD = satAdd 16 (s.rd fEGR_CMD_CNT_BAD) 1 ∧
    (cmdBad s).bit fEGR_FLT_FLAGS 8 = true ∧ (cmdBad s).egr = s.egr ∧ (cmdBad s).out = s.out := by
  refine ⟨?_, bit_flag_self (by decide) _, rfl, rfl⟩
  unfold cmdBad
  rw [rd_flag (by decide), rd_inc_self]

theorem command_of_noImage {s : State} (himg : s.img = none) (code : Nat) (c : CmdFrame) (act : Nat → OutStream → State → State) :
    command code c act s = cmdBad s := by
  unfold command
  rw [himg]
  rfl

section Stream

variable {c : CmdFrame} {im : Image} {o : OutStream} {st : Nat} {s : State}

theorem command_of_stream (himg : s.img = some im)
    (hstream : im.outs.zipIdx.find? (fun y => y.1.idcode = c.idcode && y.1.format ≠ 2) = some (o, st))
    (code : Nat) (act : Nat → OutStream → State → State) : command code c act s =
      if !c.chkOk || !(o.cmdSrc.isEmpty || o.cmdSrc.contains c.src) then cmdBad s
      else if c.pairWide && !s.authority then s.sendForward 0 (be 2 code ++ be 16 c.src ++ be 2 c.sport ++ be 6 c.srcMac ++ be 2 c.idcode)
      else act st o (s.inc fEGR_CMD_CNT_OK) := by
  unfold command
  rw [himg]
  dsimp only
  rw [hstream]

theorem command_accepted (himg : s.img = some im)
    (hstream : im.outs.zipIdx.find? (fun y => y.1.idcode = c.idcode && y.1.format ≠ 2) = some (o, st))
    (hchk : c.chkOk = true) (hsrc : o.cmdSrc = [] ∨ c.src ∈ o.cmdSrc) (hauth : c.pairWide = true → s.authority = true) (code : Nat)
    (act : Nat → OutStream → State → State) : command code c act s = act st o (s.inc fEGR_CMD_CNT_OK) := by
  have hmay : (o.cmdSrc.isEmpty || o.cmdSrc.contains c.src) = true := by simpa using hsrc
  have hhere : (c.pairWide && !s.authority) = false := by simpa using hauth
  rw [command_of_stream himg hstream, hchk, hmay, hhere]
  rfl

theorem command_of_badCheck (himg : s.img = some im)
    (hstream : im.outs.zipIdx.find? (fun y => y.1.idcode = c.idcode && y.1.format ≠ 2) = some (o, st)) (hchk : c.chkOk = false) (code : Nat)
    (act : Nat → OutStream → State → State) : command code c act s = cmdBad s := by
  rw [command_of_stream himg hstream, hchk]
  rfl

theorem command_forwarded (himg : s.img = some im)
    (hstream : im.outs.zipIdx.find? (fun y => y.1.idcode = c.idcode && y.1.format ≠ 2) = some (o, st))
    (hchk : c.chkOk = true) (hany : o.cmdSrc = []) (hwide : c.pairWide = true) (hauth : s.authority = false) (code : Nat)
    (act : Nat → OutStream → State → State) :
    command code c act s = s.sendForward 0 (be 2 code ++ be 16 c.src ++ be 2 c.sport ++ be 6 c.srcMac ++ be 2 c.idcode) := by
  rw [command_of_stream himg hstream, hchk, hany, hwide, hauth]
  rfl

end Stream

/-! ### Header and configuration frames (R326) -/

section Answers

variable {c : CmdFrame} {o : OutStream}

theorem cfgSend_tcp {tcp : Nat} (htcp : c.tcp = some tcp) (st kind typ : Nat) (body : Bytes) (s : State) : cfgSend st kind typ o c body s =
    (s.inc fEGR_CFGTX_CNT_FRAMES).emit (.ctl "TCP command reply" tcp
      ((c37Frame typ o (s.socFrac o.timeBase s.clv.now).1 (s.socFrac o.timeBase s.clv.now).2 body).map BitVec.toNat)) := by
  unfold cfgSend
  rw [htcp]

/-- An answer over UDP to a source that is no destination of the stream goes once, without a PRP trailer, to the port that brought the command. -/
theorem cfgSend_port (htcp : c.tcp = none) (hdest : ∀ d ∈ o.dests, d.addr ≠ c.src) (st kind typ : Nat) (body : Bytes) (s : State) :
    cfgSend st kind typ o c body s = egrOffer c.port qSteward
      { frame := { bytes := udpFrame { srcMac := s.streamMac st, dstMac := c.srcMac, tag := none, dscp := 34, src := s.pairAddr c.port c.src,
                                       dst := c.src, sport := o.cmdPort, dport := c.sport } (s.prpSeq s.curTick 0 kind)
                     (c37Frame typ o (s.socFrac o.timeBase s.clv.now).1 (s.socFrac o.timeBase s.clv.now).2 body),
                   sender := .steward, queued := s.up } } (s.inc fEGR_CFGTX_CNT_FRAMES) := by
  have hnone : (o.dests.zipIdx.find? fun x => x.1.addr = c.src) = none :=
    List.find?_eq_none.2 fun x hx => by simpa using hdest x.1 (List.fst_mem_of_mem_zipIdx hx)
  unfold cfgSend
  rw [htcp]
  dsimp only
  rw [hnone]
  rfl

/-- A frame over TCP leaves as a reply on the connection, and is counted. -/
theorem cfgSend_tcp_accepted {tcp : Nat} (htcp : c.tcp = some tcp) (st kind typ : Nat) (body : Bytes) (s : State) :
    let t := cfgSend st kind typ o c body (s.inc fEGR_CMD_CNT_OK)
    t.out = s.out ++ [.ctl "TCP command reply" tcp
        ((c37Frame typ o (s.socFrac o.timeBase s.clv.now).1 (s.socFrac o.timeBase s.clv.now).2 body).map BitVec.toNat)] ∧
      t.rd fEGR_CMD_CNT_OK = satAdd 16 (s.rd fEGR_CMD_CNT_OK) 1 ∧
      t.rd fEGR_CFGTX_CNT_FRAMES = satAdd fEGR_CFGTX_CNT_FRAMES.w (s.rd fEGR_CFGTX_CNT_FRAMES) 1 := by
  dsimp only
  rw [cfgSend_tcp htcp, socFrac_inc (by decide), State.emit_rd, State.emit_rd, rd_inc_ne (by decide), rd_inc_self, rd_inc_self,
    rd_inc_ne (by decide)]
  exact ⟨rfl, rfl, rfl⟩

end Answers

/-! ### Destinations turned on and off (R325, R408) -/

theorem sendMirror_egr (op m operand : Nat) (s : State) : (s.sendMirror op m operand).egr = s.egr :=
  (st_sendMirror_kept op m operand (Kept.refl _ s) (Nat.and_self _)).2.2.same .egr (by decide)

theorem sendMirror_outSt (op m operand : Nat) (s : State) (k : Nat) : (s.sendMirror op m operand).outSt k = s.outSt k := by
  unfold State.outSt
  rw [sendMirror_egr]

theorem destCmd_outSt (m : Option Nat) (st mask : Nat) (on : Bool) (s : State) :
    (destCmd m st mask on s).outSt st = { s.outSt st with cmds := (s.outSt st).cmds ++ [(s.up, m, mask, on)] } :=
  (outSt_setOutSt ..).trans (if_pos rfl)

/-- A message of the pair tells nothing of the command's count or of the command noted. -/
theorem sendMirror_destCmd_inc_out (m : Option Nat) (st mask : Nat) (on : Bool) (op run operand : Nat) (s : State) :
    ((destCmd m st mask on (s.inc fEGR_CMD_CNT_OK)).sendMirror op run operand).out = (s.sendMirror op run operand).out := by
  have hmember : (s.inc fEGR_CMD_CNT_OK).rd fPAIR_STS_MEMBER = s.rd fPAIR_STS_MEMBER := rd_inc_ne (by decide) ..
  have hrole : (s.inc fEGR_CMD_CNT_OK).rd fPAIR_STS_ROLE = s.rd fPAIR_STS_ROLE := rd_inc_ne (by decide) ..
  unfold State.sendMirror
  exact pairSend_out_eq_of (t := destCmd m st mask on (s.inc fEGR_CMD_CNT_OK)) hmember hrole rfl rfl rfl ..

/-- A module that is no ACTIVE member of a pair keeps the command to itself. -/
theorem onOff_alone {s : State} (h : (s.paired && s.authority) = false) (on : Bool) (src st : Nat) (o : OutStream) :
    onOff on src st o s = destCmd none st (cmdMask o src) on s := by
  unfold onOff
  rw [h]
  rfl

theorem onOff_mirrored {s : State} (hpaired : s.paired = true) (hauth : s.authority = true) (on : Bool) (src st : Nat) (o : OutStream) :
    onOff on src st o s = (destCmd (some s.mirrorRun) st (cmdMask o src) on s).sendMirror mirDest s.mirrorRun
      ((st * 16 + cmdMask o src) * 2 + (if on then 1 else 0)) := by
  unfold onOff
  rw [hpaired, hauth]
  rfl

/-- A command noted changes neither a register nor the destinations that are on now. -/
theorem onOff_keeps (on : Bool) (src st : Nat) (o : OutStream) (s : State) :
    ((onOff on src st o s).outSt st).on = (s.outSt st).on ∧ ∀ f, (onOff on src st o s).rd f = s.rd f := by
  by_cases h : s.paired = true ∧ s.authority = true
  · obtain ⟨hpaired, hauth⟩ := h
    rw [onOff_mirrored hpaired hauth, sendMirror_outSt, destCmd_outSt]
    exact ⟨rfl, fun f => pairSend_rd ..⟩
  · rw [onOff_alone (by simpa using h), destCmd_outSt]
    exact ⟨rfl, fun _ => rfl⟩

/-! ### The commands -/

theorem exec_turn : ∀ x ∈ [(Instr.cmdTurnOff, false), (.cmdTurnOn, true)], ∀ c s,
    ∃ code, exec (x.1 c) s = .next (command code c (onOff x.2 c.src) s) := by
  simp only [List.forall_mem_cons]
  exact ⟨fun _ _ => ⟨1, rfl⟩, fun _ _ => ⟨2, rfl⟩, List.forall_mem_nil _⟩

theorem exec_send : ∀ x ∈ [(Instr.cmdSendHeader, 4, 1, fun (o : OutStream) => o.hdrText), (.cmdSendCfg1, 1, 2, cfg2Body),
    (.cmdSendCfg2, 2, 3, cfg2Body)],
    ∀ c s, ∃ code, exec (x.1 c) s = .next (command code c (fun st o s => cfgSend st x.2.1 x.2.2.1 o c (x.2.2.2 o) s) s) := by
  simp only [List.forall_mem_cons]
  exact ⟨fun _ _ => ⟨3, rfl⟩, fun _ _ => ⟨4, rfl⟩, fun _ _ => ⟨5, rfl⟩, List.forall_mem_nil _⟩

/-- A reply over TCP takes no sequence number, so the kind that would number its frame is left open. -/
theorem exec_reply : ∀ x ∈ [(Instr.cmdSendHeader, 1, fun (o : OutStream) => o.hdrText), (.cmdSendCfg1, 2, cfg2Body), (.cmdSendCfg2, 3, cfg2Body)],
    ∀ c s, ∃ code kind, exec (x.1 c) s = .next (command code c (fun st o s => cfgSend st kind x.2.1 o c (x.2.2 o) s) s) := by
  simp only [List.forall_mem_cons]
  exact ⟨fun _ _ => ⟨3, 4, rfl⟩, fun _ _ => ⟨4, 1, rfl⟩, fun _ _ => ⟨5, 2, rfl⟩, List.forall_mem_nil _⟩

/-- A C2005 stream has no CFG-3. -/
theorem exec_sendCfg3 {c : CmdFrame} {im : Image} {s : State} (himg : s.img = some im)
    (h : ∀ y ∈ im.outs, y.idcode = c.idcode → y.format ≠ 1) :
    exec (.cmdSendCfg3 c) s = .next (command 6 c (fun st o s => cfgSend st 3 5 o c (cfg3Body o s.rate) s) s) := by
  have hnew : (im.outs.any fun o => o.idcode = c.idcode && o.format = 1) = false := by simpa using h
  change execCmdSendCfg3 c s = _
  unfold execCmdSendCfg3 c37Command
  rw [himg]
  dsimp only
  rw [hnew]
  rfl

theorem exec_commandOfNoImage : ∀ x ∈ [Instr.cmdTurnOff, .cmdTurnOn, .cmdSendHeader, .cmdSendCfg1, .cmdSendCfg2, .cmdSendCfg3], ∀ c s,
    s.img = none → exec (x c) s = .next (cmdBad s) := by
  have hcommand {c s} (himg : s.img = none) (code : Nat) (act : Nat → OutStream → State → State) :
      (Host.Outcome.next (command code c act s) : Out) = .next (cmdBad s) := congrArg _ (command_of_noImage himg ..)
  have hcfg3 {c s} (himg : s.img = none) : exec (.cmdSendCfg3 c) s = .next (cmdBad s) := by
    change execCmdSendCfg3 c s = _
    unfold execCmdSendCfg3 c37Command
    rw [himg]
    exact hcommand himg ..
  simp only [List.forall_mem_cons]
  exact ⟨fun _ _ h => hcommand h .., fun _ _ h => hcommand h .., fun _ _ h => hcommand h .., fun _ _ h => hcommand h ..,
    fun _ _ h => hcommand h .., fun _ _ h => hcfg3 h, List.forall_mem_nil _⟩

theorem exec_command : ∀ x ∈ [(Instr.cmdTurnOff, 1), (.cmdTurnOn, 2), (.cmdSendHeader, 3), (.cmdSendCfg1, 4), (.cmdSendCfg2, 5)], ∀ c s,
    ∃ act, exec (x.1 c) s = .next (command x.2 c act s) := by
  simp only [List.forall_mem_cons]
  exact ⟨fun _ _ => ⟨_, rfl⟩, fun _ _ => ⟨_, rfl⟩, fun _ _ => ⟨_, rfl⟩, fun _ _ => ⟨_, rfl⟩, fun _ _ => ⟨_, rfl⟩, List.forall_mem_nil _⟩

/-! ### The obligation -/

/-- Settles O39: a command is one of the steward core's outcomes, refused, forwarded or accepted, and an accepted one notes its destinations or
sends its frame. -/
theorem commandRows : Obligations.CommandRows := by
  unfold Obligations.CommandRows
  refine ⟨?turn, ?queued, ?tcp, ?cfg3, ?noImage, ?refusedOrForwarded⟩
  case turn =>
    intro x hx c im o st s himg hstream hchk hsrc hauth
    obtain ⟨code, hexec⟩ := exec_turn x hx c s
    rw [command_accepted himg hstream hchk hsrc hauth] at hexec
    obtain ⟨hon, hrd⟩ := onOff_keeps x.2 c.src st o (s.inc fEGR_CMD_CNT_OK)
    refine ⟨_, hexec, hon, (hrd _).trans (rd_inc_self ..), fun hunpaired => ?_, fun hpaired hactive => ?_⟩
    · rw [onOff_alone (s := s.inc fEGR_CMD_CNT_OK) (Bool.and_eq_false_iff.2 (.inl hunpaired)), destCmd_outSt]
      exact ⟨rfl, rfl⟩
    · have hstill : (s.inc fEGR_CMD_CNT_OK).authority = true := (authority_inc (by decide) s).trans hactive
      rw [onOff_mirrored (s := s.inc fEGR_CMD_CNT_OK) hpaired hstill, mirrorRun_inc, sendMirror_outSt, destCmd_outSt]
      exact ⟨rfl, sendMirror_destCmd_inc_out ..⟩
  case queued =>
    rintro x hx c im o st s himg hstream hchk hsrc hauth htcp hdest u seq rfl rfl
    obtain ⟨code, hexec⟩ := exec_send x hx c s
    rw [command_accepted himg hstream hchk hsrc hauth, cfgSend_port htcp hdest, socFrac_inc (by decide)] at hexec
    exact hexec
  case tcp =>
    intro x hx c tcp im o st s himg hstream hchk hsrc hauth htcp
    obtain ⟨code, kind, hexec⟩ := exec_reply x hx c s
    rw [command_accepted himg hstream hchk hsrc hauth] at hexec
    exact ⟨_, hexec, cfgSend_tcp_accepted htcp ..⟩
  case cfg3 =>
    intro c tcp im o st s himg hnew hstream hchk hsrc hauth htcp
    have hexec := exec_sendCfg3 himg hnew
    rw [command_accepted himg hstream hchk hsrc hauth] at hexec
    obtain ⟨hout, hcount, -⟩ := cfgSend_tcp_accepted (o := o) htcp st 3 5 (cfg3Body o s.rate) s
    exact ⟨_, hexec, hout, hcount⟩
  case noImage =>
    exact fun x hx c s himg => ⟨_, exec_commandOfNoImage x hx c s himg, cmdBad_counts s⟩
  case refusedOrForwarded =>
    intro x hx c im o st s himg hstream
    obtain ⟨act, hexec⟩ := exec_command x hx c s
    refine ⟨fun hchk => ?_, fun hchk hany hwide hauth => ?_⟩
    · obtain ⟨hbad, -, hegr, hout⟩ := cmdBad_counts s
      rw [command_of_badCheck himg hstream hchk] at hexec
      exact ⟨_, hexec, hbad, hegr, hout⟩
    · rw [hexec, command_forwarded himg hstream hchk hany hwide hauth]

end Sys2Proof.Machine
end

section
/-!
PROOFS. Scope: what each command leaves unchanged (R343, R366, R502).
-/

namespace Sys2Proof.Machine

theorem same_of_kept {l : List Part} {p : Part} (hp : p ∉ l) {s t : State} (h : Kept (maskOf l) s t) : p.same s t :=
  h.2.2.same p (maskOf_testBit l hp)

/-- A command leaves the parts that it does not touch as they were. -/
theorem exec_same {i : Instr} {s t : State} (h : exec i s = .next t) {p : Part} (hp : p ∉ touches i) : p.same s t :=
  same_of_kept hp ((exec_kept i (Kept.refl _ s) (Nat.and_self _)).keeps t h)

/-- A command leaves the queue it was taken from alone. -/
theorem exec_pending {i : Instr} {s t : State} (h : exec i s = .next t) : t.pending = s.pending :=
  ((exec_kept i (Kept.refl _ s) (Nat.and_self _)).keeps t h).2.1.queue

theorem nand_eq_of_parts {s t : State} (hchs : Part.nandChs.same s t) (hsnr : Part.nandSnr.same s t) (hslots : Part.nandSlots.same s t) :
    t.nand = s.nand := (Nand.mk.injEq ..).mpr ⟨hchs, hsnr.1, hsnr.2, hslots⟩

/-- The parts and the queue are all of a state. -/
theorem eq_of_parts {s t : State} (h : ∀ p : Part, p.same s t) (hq : t.pending = s.pending) : t = s := by
  have hmram : t.mram = s.mram :=
    (Mram.mk.injEq ..).mpr ⟨h .mramPwr, h .mramChs, h .mramNotes, h .mramActiveSlot, h .mramLearn, h .mramAcc, h .mramBur, h .mramEpoch,
      h .mramEpochCount⟩
  have hnand : t.nand = s.nand := nand_eq_of_parts (h .nandChs) (h .nandSnr) (h .nandSlots)
  exact (State.mk.injEq ..).mpr ⟨h .regs, h .pwr, h .dom, h .clv, h .ports, h .dup, h .dupNext, h .ing, h .chs, h .snr, h .mbx, h .img,
    h .oldImg, h .swap, h .swapTick, h .pgh, h .tmb, h .spec, h .coh, h .alm, h .acc, h .egr, h .lmf, h .pair, h .bur, h .bench, h .pmc,
    h .tst, h .pio, h .smArmed, hmram, hnand, h .up, h .fv, h .out, hq⟩

theorem Part.setTmb_same {p : Part} (hp : p ≠ .tmb) (x : Tmb) (s : State) : p.same (s.setTmb x) s := by
  cases p
  case tmb => exact absurd rfl hp
  case nandSnr => exact ⟨rfl, rfl⟩
  all_goals rfl

/-- A command that touches the sequencer's data changes nothing else. -/
theorem exec_only_tmb {i : Instr} (hi : touches i = [.tmb]) {s t : State} (h : exec i s = .next t) : t = { s with tmb := t.tmb } := by
  refine eq_of_parts (s := s.setTmb t.tmb) (fun p => ?_) (exec_pending h :)
  by_cases hp : p = .tmb
  · rw [hp]
    rfl
  · exact Part.same_trans (Part.setTmb_same hp t.tmb s) (exec_same h (by simpa [hi] using hp))

end Sys2Proof.Machine

namespace Sys2Proof

open Sys2Proof.Machine

/-- Settles O8: what a command keeps, read off part by part, and for an item that computes put together again. -/
theorem frames : Obligations.Frames := by
  refine ⟨fun i s t h p hp => exec_same h hp, ?_⟩
  repeat' refine List.forall_mem_cons.2 ⟨fun n j s t => exec_only_tmb rfl, ?_⟩
  exact List.forall_mem_nil _

end Sys2Proof
end

section
/-!
PROOFS. Scope: triggers of Snare, and what a record posted beside a capture leaves of it (R347 to R351, R361).
-/

namespace Sys2Proof.Machine

/-! ### A trigger starts a capture -/

theorem snrDef_setSnrDef {k : Nat} {s : State} (hk : k < s.snr.defs.length) (d : SnrDef) : (s.setSnrDef k d).snrDef k = d := by
  simp [State.snrDef, State.setSnrDef, hk]

/-- The registers of definition `k` show the trigger taken (R358). -/
theorem snareStart_shows (k t0 : Nat) {cause : Nat} (hcause : cause < 32) (cfg : SnrDefCfg) (s : State) :
    (snareStart k cause t0 cfg s).rd (fSNR_DEF_STS_STATE k) = snrTriggered ∧
      (snareStart k cause t0 cfg s).rd (fSNR_DEF_STS_CAUSE k) = cause := by
  have hwidth : trunc 5 cause = cause := Nat.mod_eq_of_lt hcause
  unfold snareStart State.wrB State.wr64 State.flag
  dsimp only
  constructor <;> split <;> simp (disch := (dsimp only [Fld.key, liveHi]; omega)) only [State.rd_wr_ne, State.rd_wr, hwidth] <;> rfl

/-- Of the capture states a start changes its own only. -/
theorem snareStart_state_ne {j k : Nat} (h : j ≠ k) (cause t0 : Nat) (cfg : SnrDefCfg) (s : State) :
    (snareStart k cause t0 cfg s).rd (fSNR_DEF_STS_STATE j) = s.rd (fSNR_DEF_STS_STATE j) := by
  unfold snareStart State.wrB State.wr64 State.flag
  dsimp only
  split <;> simp (disch := (dsimp only [Fld.key, liveHi, rSNR_DEF_STS]; omega)) only [State.rd_wr_ne] <;> rfl

theorem bit_ite_flag {c : Prop} [Decidable c] {f : Fld} {b : Nat} (hb : b < f.w) {s : State} (h : s.bit f b = true) (n : Nat) :
    (if c then s.flag f n else s).bit f b = true := by
  split
  · exact bit_flag_of hb h n
  · exact h

/-- A start takes no flag back. -/
theorem snareStart_flags {b : Nat} (hb : b < 8) {s : State} (h : s.bit fSNR_FLT_FLAGS b = true) (k cause t0 : Nat) (cfg : SnrDefCfg) :
    (snareStart k cause t0 cfg s).bit fSNR_FLT_FLAGS b = true := by
  unfold snareStart State.wrB State.wr64
  dsimp only
  refine bit_ite_flag hb ?_ 0
  rw [State.bit]
  simp (disch := (dsimp only [Fld.key, liveHi, rSNR_DEF_STS, rSNR_GAP_STS, rSNR_TRIG_LO, rSNR_PRE_STS, rSNR_POST_STS, rSNR_FLT]; omega))
    only [State.rd_wr_ne]
  exact h

theorem snareStart_t0 {k : Nat} {s : State} (hk : k < s.snr.defs.length) (cause t0 : Nat) (cfg : SnrDefCfg) :
    ((snareStart k cause t0 cfg s).snrDef k).t0 = t0 := by
  unfold snareStart State.snrDef
  dsimp only
  split <;> exact congrArg SnrDef.t0 (snrDef_setSnrDef (s := { s with snr := { s.snr with queue := _ } }) hk _)

/-! ### What a trigger does to a definition, by its state (R348 to R351) -/

section Trigger

variable {k : Nat} {c : SnrDefCfg} {s : State} (hcfg : s.snrCfg? k = some c)

include hcfg

theorem snareTrigger_armed (hst : s.rd (fSNR_DEF_STS_STATE k) = snrArmed) (cause tick : Nat) :
    snareTrigger k cause tick s = snareStart k cause (max tick (s.snrDef k).armTick) c s := by
  unfold snareTrigger
  rw [hcfg]
  exact if_pos hst

/-- A trigger that finds a capture running joins its causes or is counted beside it. -/
theorem snareTrigger_again_rd (hst : s.rd (fSNR_DEF_STS_STATE k) = snrTriggered) (cause tick : Nat) {g : Fld}
    (hcause : g.key ≠ (fSNR_DEF_STS_CAUSE k).key) (hretrig : g.key ≠ (fSNR_DEF_STS_RETRIG k).key) :
    (snareTrigger k cause tick s).rd g = s.rd g := by
  unfold snareTrigger
  rw [hcfg]
  dsimp only
  rw [if_neg (by rw [hst]; decide), if_pos hst]
  split
  · split
    · rfl
    · exact State.rd_wr_ne _ hcause _
  · split <;> exact rd_inc_ne hretrig s 1

theorem snareTrigger_again_t0 (hst : s.rd (fSNR_DEF_STS_STATE k) = snrTriggered) (hk : k < s.snr.defs.length) (cause tick : Nat) :
    ((snareTrigger k cause tick s).snrDef k).t0 = (s.snrDef k).t0 := by
  unfold snareTrigger
  rw [hcfg]
  dsimp only
  rw [if_neg (by rw [hst]; decide), if_pos hst]
  split
  · split <;> rfl
  · split
    · rw [snrDef_setSnrDef (s := s.inc _) hk]
    · rfl

theorem snareTrigger_missed (harmed : s.rd (fSNR_DEF_STS_STATE k) ≠ snrArmed) (htriggered : s.rd (fSNR_DEF_STS_STATE k) ≠ snrTriggered)
    (cause tick : Nat) :
    snareTrigger k cause tick s = (s.inc (fSNR_MISSED_CNT_TRIGGERS k)).flag fSNR_FLT_FLAGS 3 := by
  unfold snareTrigger
  rw [hcfg]
  exact (if_neg harmed).trans (if_neg htriggered)

end Trigger

/-! ### What a posted record leaves of a capture -/

/-- A capture of definition `j` that is COMPLETE stays so, and no flag of Snare is taken back. -/
structure CaptureStays (j : Nat) (s t : State) : Prop where
  complete : s.rd (fSNR_DEF_STS_STATE j) = snrComplete → t.rd (fSNR_DEF_STS_STATE j) = snrComplete
  flags : ∀ b < 8, s.bit fSNR_FLT_FLAGS b = true → t.bit fSNR_FLT_FLAGS b = true

theorem CaptureStays.refl (j : Nat) (s : State) : CaptureStays j s s := ⟨id, fun _ _ h => h⟩

theorem CaptureStays.trans {j : Nat} {s t u : State} (h : CaptureStays j s t) (k : CaptureStays j t u) : CaptureStays j s u :=
  ⟨fun c => k.complete (h.complete c), fun b hb c => k.flags b hb (h.flags b hb c)⟩

theorem captureStays_of_rd {j : Nat} {s t : State} (hstate : t.rd (fSNR_DEF_STS_STATE j) = s.rd (fSNR_DEF_STS_STATE j))
    (hflags : t.rd fSNR_FLT_FLAGS = s.rd fSNR_FLT_FLAGS) : CaptureStays j s t :=
  ⟨fun c => hstate.trans c, fun b _ c => (bit_eq_of_rd hflags b).trans c⟩

theorem captureStays_snareTrigger (j k cause tick : Nat) (s : State) : CaptureStays j s (snareTrigger k cause tick s) := by
  cases hcfg : s.snrCfg? k with
  | none =>
    unfold snareTrigger
    rw [hcfg]
    exact .refl j s
  | some c =>
    by_cases harmed : s.rd (fSNR_DEF_STS_STATE k) = snrArmed
    · rw [snareTrigger_armed hcfg harmed]
      refine ⟨fun hcomplete => ?_, fun b hb h => snareStart_flags hb h ..⟩
      have hjk : j ≠ k := by
        rintro rfl
        exact absurd (harmed.symm.trans hcomplete) (by decide)
      exact (snareStart_state_ne hjk ..).trans hcomplete
    · by_cases htriggered : s.rd (fSNR_DEF_STS_STATE k) = snrTriggered
      · exact captureStays_of_rd
          (snareTrigger_again_rd hcfg htriggered _ _ (by dsimp only [Fld.key]; omega) (by dsimp only [Fld.key]; omega))
          (snareTrigger_again_rd hcfg htriggered _ _ (by dsimp only [Fld.key]; omega)
            (by dsimp only [Fld.key, rSNR_FLT, rSNR_DEF_STS]; omega))
      · rw [snareTrigger_missed hcfg harmed htriggered]
        have hcount : (s.inc (fSNR_MISSED_CNT_TRIGGERS k)).rd fSNR_FLT_FLAGS = s.rd fSNR_FLT_FLAGS :=
          rd_inc_ne (by dsimp only [Fld.key, rSNR_FLT, rSNR_MISSED_CNT]; omega) s 1
        exact ⟨fun hcomplete => (rd_flag (by dsimp only [Fld.key]; omega) _ 3).trans
          ((rd_inc_ne (by dsimp only [Fld.key]; omega) s 1).trans hcomplete),
          fun b hb h => bit_flag_of hb ((bit_eq_of_rd hcount b).trans h) 3⟩

theorem captureStays_foldl {j : Nat} {α : Type} {f : State → α → State} (hf : ∀ s x, CaptureStays j s (f s x)) (l : List α) (s : State) :
    CaptureStays j s (l.foldl f s) := by
  induction l generalizing s with
  | nil => exact .refl j s
  | cons x xs ih => exact (hf s x).trans (ih _)

theorem captureStays_snareTriggerAll (j : Nat) (p : SnrTerm → Bool) (cause tick : Nat) (s : State) :
    CaptureStays j s (snareTriggerAll p cause tick s) := by
  refine captureStays_foldl (fun s k => ?_) _ s
  split
  · split
    · exact captureStays_snareTrigger ..
    · exact .refl j s
  · exact .refl j s

/-- Past its triggers a post writes to the registers of the Chest only (R361). -/
theorem post_regs_triggered (code : Nat) (payload : Bytes) (s : State) :
    RegsOut [0x0D] (snareTriggerAll (fun t => t = SnrTerm.event code) causeEvent s.curTick s) (post code payload s) :=
  have h := regsOut_refl [0x0D] (snareTriggerAll (fun t => t = SnrTerm.event code) causeEvent s.curTick s)
  regsOut_ite (regsOut_flag _ (suppress_regs (by decide) _ h) (by decide))
    (regsOut_ite (coalesce_regs (by decide) h) (rateLimit_regs (by decide) _ _ _ h))

theorem snrState_block {k : Nat} (hk : k < 4) : (fSNR_DEF_STS_STATE k).block = 0x0C := by
  change ((0xC0108 + 64 * k) * 32 + 30) / 32 / 0x10000 = 0x0C
  omega

theorem captureStays_post {j : Nat} (hj : j < 4) (code : Nat) (payload : Bytes) (s : State) : CaptureStays j s (post code payload s) := by
  have hregs := post_regs_triggered code payload s
  exact (captureStays_snareTriggerAll ..).trans
    (captureStays_of_rd (hregs _ (by rw [snrState_block hj]; decide)) (hregs _ (by decide)))

/-! ### Snare's state as the host commands it (R348, R354, R355) -/

/-- SNR_STS alone shows how the store stands. -/
theorem snrSync_rd {g : Fld} (hoff : g.off ≠ rSNR_STS) (hlo : g.lo < 32) (s : State) : (snrSync s).rd g = s.rd g := by
  have hne {lo w rst : Nat} (h : lo < 32) : g.key ≠ (⟨rSNR_STS, lo, w, rst⟩ : Fld).key := by
    dsimp only [Fld.key]
    omega
  exact (State.rd_wr_ne _ (hne (by decide)) _).trans ((State.rd_wr_ne _ (hne (by decide)) _).trans (State.rd_wr_ne _ (hne (by decide)) _))

theorem snrDefSts_off (k : Nat) : rSNR_DEF_STS k ≠ rSNR_STS := by
  dsimp only [rSNR_DEF_STS, rSNR_STS]
  omega

theorem snareHostTrig_host {k : Nat} {c : SnrDefCfg} {s : State} (hcfg : s.snrCfg? k = some c) (hhost : SnrTerm.host ∈ c.terms) :
    snareHostTrig k s = snareTrigger k causeHost s.curTick s := by
  unfold snareHostTrig
  rw [hcfg]
  exact if_pos (by simpa using hhost)

theorem snareHostTrig_noHost {k : Nat} {c : SnrDefCfg} {s : State} (hcfg : s.snrCfg? k = some c) (hhost : SnrTerm.host ∉ c.terms) :
    snareHostTrig k s = s := by
  unfold snareHostTrig
  rw [hcfg]
  exact if_neg (by simpa using hhost)

/-- An ARMED definition takes the host's trigger. -/
theorem snareHostTrig_armed {k : Nat} {c : SnrDefCfg} {s : State} (hcfg : s.snrCfg? k = some c) (hhost : SnrTerm.host ∈ c.terms)
    (hk : k < s.snr.defs.length) (hst : s.rd (fSNR_DEF_STS_STATE k) = snrArmed) :
    (snareHostTrig k s).rd (fSNR_DEF_STS_STATE k) = snrTriggered ∧ (snareHostTrig k s).rd (fSNR_DEF_STS_CAUSE k) = causeHost ∧
      ((snareHostTrig k s).snrDef k).t0 = max s.curTick (s.snrDef k).armTick := by
  rw [snareHostTrig_host hcfg hhost, snareTrigger_armed hcfg hst]
  obtain ⟨hstate, hcause⟩ := snareStart_shows k (max s.curTick (s.snrDef k).armTick) (by decide : causeHost < 32) c s
  exact ⟨hstate, hcause, snareStart_t0 hk ..⟩

/-- A capture that runs goes on under the trigger tick it has. -/
theorem snareHostTrig_triggered {k : Nat} {c : SnrDefCfg} {s : State} (hcfg : s.snrCfg? k = some c) (hk : k < s.snr.defs.length)
    (hst : s.rd (fSNR_DEF_STS_STATE k) = snrTriggered) :
    (snareHostTrig k s).rd (fSNR_DEF_STS_STATE k) = snrTriggered ∧ ((snareHostTrig k s).snrDef k).t0 = (s.snrDef k).t0 := by
  by_cases hhost : SnrTerm.host ∈ c.terms
  · rw [snareHostTrig_host hcfg hhost]
    exact ⟨(snareTrigger_again_rd hcfg hst _ _ (by dsimp only [Fld.key]; omega) (by dsimp only [Fld.key]; omega)).trans hst,
      snareTrigger_again_t0 hcfg hst hk ..⟩
  · rw [snareHostTrig_noHost hcfg hhost]
    exact ⟨hst, rfl⟩

/-- A trigger that finds no definition armed and no capture running is missed. -/
theorem snareHostTrig_missed {k : Nat} {c : SnrDefCfg} {s : State} (hcfg : s.snrCfg? k = some c)
    (hst : s.rd (fSNR_DEF_STS_STATE k) = snrIdle ∨ s.rd (fSNR_DEF_STS_STATE k) = snrComplete) :
    (snareHostTrig k s).snr = s.snr ∧ (SnrTerm.host ∈ c.terms → (snareHostTrig k s).bit fSNR_FLT_FLAGS 3 = true) := by
  by_cases hhost : SnrTerm.host ∈ c.terms
  · rw [snareHostTrig_host hcfg hhost, snareTrigger_missed hcfg (by rcases hst with h | h <;> rw [h] <;> decide)
      (by rcases hst with h | h <;> rw [h] <;> decide)]
    exact ⟨rfl, fun _ => bit_flag_self (by decide) _⟩
  · rw [snareHostTrig_noHost hcfg hhost]
    exact ⟨rfl, fun h => absurd h hhost⟩

theorem snareHostTrig_mbx (k : Nat) (s : State) : (snareHostTrig k s).mbx = s.mbx :=
  (snareHostTrig_kept k (Kept.refl _ s) (Nat.and_self _)).2.2.same .mbx (by decide)

/-- A capture whose file a failed DMA kept from the host stays COMPLETE (R354). -/
theorem exportFail_effect {k : Nat} (hk : k < 4) {s : State} (hst : s.rd (fSNR_DEF_STS_STATE k) = snrComplete) :
    (exportFail k s).rd (fSNR_DEF_STS_STATE k) = snrComplete ∧ (exportFail k s).bit fSNR_FLT_FLAGS 5 = true := by
  have hflagged : ((s.wrB (fSNR_DEF_STS_EXPORTING k) false).flag fSNR_FLT_FLAGS 5).rd (fSNR_DEF_STS_STATE k) = snrComplete :=
    (rd_flag (by dsimp only [Fld.key]; omega) _ 5).trans ((rd_wrB (by dsimp only [Fld.key]; omega) ..).trans hst)
  obtain ⟨hcomplete, hflags⟩ := captureStays_post hk 0x82 (le 1 k ++ le 3 0 ++ le 8 (s.snrDef k).t0)
    ((s.wrB (fSNR_DEF_STS_EXPORTING k) false).flag fSNR_FLT_FLAGS 5)
  exact ⟨(snrSync_rd (snrDefSts_off k) (by decide : 30 < 32) _).trans (hcomplete hflagged),
    (bit_eq_of_rd (snrSync_rd (by decide) (by decide) _) 5).trans (hflags 5 (by decide) (bit_flag_self (by decide) _))⟩

theorem exportFail_same {p : Part} (hp : p ∉ [Part.regs, .chs, .snr, .pmc, .mramChs]) (k : Nat) (s : State) : p.same s (exportFail k s) :=
  same_of_kept hp (exportFail_kept k (Kept.refl _ s) rfl)

theorem snareToNand_full {k : Nat} {c : SnrDefCfg} {s : State} (h : (s.snrFileBytes k c).length > s.snrFree) :
    snareToNand k c s = (none, s.flag fSNR_FLT_FLAGS 4) := by
  unfold snareToNand
  exact if_pos h

theorem snareToNand_room {k : Nat} {c : SnrDefCfg} {s : State} (h : (s.snrFileBytes k c).length ≤ s.snrFree) :
    ∃ f, snareToNand k c s = (some s.nand.snrNext,
      snrSync { s with nand := { s.nand with snr := s.nand.snr ++ [f], snrNext := s.nand.snrNext + 1 } }) := by
  unfold snareToNand
  exact ⟨_, if_neg (not_lt.2 h)⟩

theorem exportNand_full {k : Nat} {c : SnrDefCfg} {s : State} (h : (s.snrFileBytes k c).length > s.snrFree) :
    exportNand k c s = (.done stNoSpace [], s.flag fSNR_FLT_FLAGS 4) := by
  unfold exportNand
  rw [snareToNand_full h]

/-- A capture that finds room is one more file, still being written (R355, R498). -/
theorem exportNand_room {k : Nat} {c : SnrDefCfg} {s : State} (h : (s.snrFileBytes k c).length ≤ s.snrFree) :
    ∃ u, exportNand k c s = (.later [s.nand.snrNext], u) ∧ u.rd (fSNR_DEF_STS_EXPORTING k) = 1 ∧
      u.nand.snr.length = s.nand.snr.length + 1 ∧ u.mbx = s.mbx := by
  obtain ⟨f, hstored⟩ := snareToNand_room h
  unfold exportNand
  rw [hstored]
  dsimp only
  refine ⟨_, rfl, ?_, ?_, rfl⟩
  · exact (snrSync_rd (snrDefSts_off k) (by decide : 29 < 32) _).trans (State.rd_wr ..)
  · exact (List.length_map ..).trans List.length_append

end Sys2Proof.Machine
end

section
/-!
PROOFS. Scope: the commands of the Chest, of Snare and of the accounts (R353 to R355, R492 to R496).
-/

namespace Sys2Proof.Machine

/-! ### What a run of a command leaves -/

/-- The scheduler writes HELD and each channel's QUEUED and PAIR_WAIT. -/
theorem mbxSync_rd_of_keys {g : Fld} (hheld : g.key ≠ fMBX_SRC_STS_HELD.key)
    (hchan : ∀ c, g.key ≠ (fMBX_STS_QUEUED c).key ∧ g.key ≠ (fMBX_STS_PAIR_WAIT c).key) (s : State) : (mbxSync s).rd g = s.rd g := by
  unfold mbxSync
  exact (foldl_keeps (·.rd g) (fun s c => (rd_wrB (hchan c).2 ..).trans (rd_wrB (hchan c).1 s _)) _ _).trans (State.rd_wr_ne _ hheld _)

section Accepted

variable {i : Instr} {src : CmdSrc} {op : Nat} {r : Running} {s : State} (h : accepted src op r s) {args : List Nat}
  {f : Running → State → Reply × State} (hexec : exec i s = .next (runCmd op src args f s))

include h hexec

theorem runs_accepted_rd {u : State} {a : Reply} (hf : f r s = (a, u)) (hrun : u.mbx.run = s.mbx.run) {g : Fld}
    (hheld : g.key ≠ fMBX_SRC_STS_HELD.key) (hchan : ∀ c, g.key ≠ (fMBX_STS_QUEUED c).key ∧ g.key ≠ (fMBX_STS_PAIR_WAIT c).key) :
    Runs i s fun t => t.cmd? src = some (replied a r u) ∧ AfterRun u t ∧ t.rd g = u.rd g := by
  obtain ⟨t, ht, hcmd, hafter⟩ := runs_accepted h hexec hf hrun
  refine ⟨t, ht, hcmd, hafter, ?_⟩
  rw [← Host.Outcome.next.inj (hexec.symm.trans ht), runCmd_accepted h, hf]
  exact mbxSync_rd_of_keys hheld hchan _

/-- A command that is answered, and a part that the scheduler leaves alone. -/
theorem runs_answered {p : Part} {u : State} {st : Nat} {ws : List Nat} (hf : f r s = (.done st ws, u)) (hrun : u.mbx.run = s.mbx.run)
    (hp : (513 : Nat).testBit p.num = false := by decide) : Runs i s fun t => answered src r st ws t ∧ p.same u t :=
  runs_accepted_same p hp h hexec hf hrun

/-- A command that goes on, and a part that the scheduler leaves alone. -/
theorem runs_goesOn {p : Part} {u : State} {ws : List Nat} (hf : f r s = (.later ws, u)) (hrun : u.mbx.run = s.mbx.run)
    (hp : (513 : Nat).testBit p.num = false := by decide) : Runs i s fun t => goesOn src r ws t ∧ p.same u t :=
  runs_accepted_same p hp h hexec hf hrun

/-- A DMA that failed ends the command with FAULT and shows in MBX_FLT (R478). -/
theorem runs_dmaError {u : State} (hf : f r s = dmaError u) (hrun : u.mbx.run = s.mbx.run) :
    Runs i s fun t => answered src r stFault [] t ∧ t.bit fMBX_FLT_FLAGS mfDma = true ∧ AfterRun (u.flag fMBX_FLT_FLAGS mfDma) t := by
  obtain ⟨t, ht, hcmd, hafter, hflags⟩ := runs_accepted_rd h hexec hf hrun (g := fMBX_FLT_FLAGS) (by decide)
    fun c => ⟨by dsimp only [Fld.key]; omega, by dsimp only [Fld.key]; omega⟩
  exact ⟨t, ht, hcmd, (bit_eq_of_rd hflags _).trans (bit_flag_self (by decide) u), hafter⟩

/-- A command whose one DMA fails sends nothing. -/
theorem runs_dmaFailed (hf : f r s = dmaError s) :
    Runs i s fun t => answered src r stFault [] t ∧ t.bit fMBX_FLT_FLAGS mfDma = true ∧ t.out = s.out := by
  obtain ⟨t, ht, hdone, hflag, hafter⟩ := runs_dmaError h hexec hf rfl
  exact ⟨t, ht, hdone, hflag, hafter.same .out (by decide)⟩

end Accepted

theorem progress_out (src : CmdSrc) (n : Nat) (s : State) : (progress src n s).out = s.out := by cases src <;> rfl

/-- Bytes for the host go out in one DMA, none where there is none. -/
theorem dmaOut_out (src : CmdSrc) (addr : Nat) (b : Bytes) (s : State) :
    (dmaOut src addr b s).out = s.out ++ (if b = [] then [] else [.dma addr b]) := by
  unfold dmaOut
  rw [progress_out]
  cases b with
  | nil => exact (List.append_nil _).symm
  | cons x xs =>
    exact congrArg (· ++ [Emission.dma addr (x :: xs)]) ((st_ev_kept 0x36D 1 (Kept.refl _ s) (Nat.and_self _)).2.2.same .out (by decide))

theorem dmaOut_same {p : Part} (hp : p ∉ [Part.regs, .pmc, .out]) (src : CmdSrc) (addr : Nat) (b : Bytes) (s : State) :
    p.same s (dmaOut src addr b s) :=
  same_of_kept hp (dmaOut_kept src addr b (Kept.refl _ s) rfl)

/-- A command that sends bytes to the host. -/
theorem runs_dmaOut {i : Instr} {src : CmdSrc} {op : Nat} {r : Running} {s : State} (h : accepted src op r s) {args : List Nat}
    {f : Running → State → Reply × State} (hexec : exec i s = .next (runCmd op src args f s)) {st addr : Nat} {ws : List Nat} {b : Bytes}
    (hf : f r s = (.done st ws, dmaOut src addr b s)) : Runs i s fun t =>
      answered src r st ws t ∧ t.out = s.out ++ (if b = [] then [] else [.dma addr b]) ∧
        ∀ p : Part, p ∉ [Part.regs, .mbx, .pmc, .out] → p.same s t := by
  have hmbx : (dmaOut src addr b s).mbx = s.mbx := dmaOut_same (p := .mbx) (by decide) ..
  obtain ⟨t, ht, hcmd, hsame, -⟩ := runs_accepted h hexec hf (congrArg Mbx.run hmbx)
  refine ⟨t, ht, hcmd, (hsame .out (by decide)).trans (dmaOut_out ..), fun p hp => ?_⟩
  exact Part.same_trans (dmaOut_same (by simp_all) ..) (hsame p (maskOf_testBit [.regs, .mbx] (by simp_all)))

theorem AfterRun.nand {u t : State} (h : AfterRun u t) : t.nand = u.nand :=
  nand_eq_of_parts (h.same .nandChs (by decide)) (h.same .nandSnr (by decide)) (h.same .nandSlots (by decide))

/-! ### CHEST_COPY (R492) -/

theorem le_length (n v : Nat) : (le n v).length = n := by
  induction n generalizing v with
  | zero => rfl
  | succ n ih => exact congrArg Nat.succ (ih _)

theorem length_recBytes (r : ChestRec) : (recBytes r).length = recLen r := by
  unfold recBytes recLen
  simp only [List.length_append, le_length]
  omega

/-- A bulk copy takes no more records and no more bytes than it was asked for. -/
theorem copyRecs_bounds (s : State) (max len room : Nat) {a : CopyAcc} (hcount : a.count ≤ max) (hbytes : a.bytes.length ≤ len) :
    (copyRecs s max len room a).count ≤ max ∧ (copyRecs s max len room a).bytes.length ≤ len := by
  induction room generalizing a with
  | zero => exact ⟨hcount, hbytes⟩
  | succ room ih =>
    unfold copyRecs
    split
    · exact ⟨hcount, hbytes⟩
    case isFalse hmore =>
      cases s.recLookup a.next with
      | notYet => exact ⟨hcount, hbytes⟩
      | gone | skipped | fault => exact ih hcount hbytes
      | found r =>
        dsimp only
        split
        · exact ⟨hcount, hbytes⟩
        case isFalse hfits =>
          refine ih (Nat.succ_le_of_lt (Nat.not_le.1 hmore)) ?_
          rw [List.length_append, length_recBytes]
          exact Nat.not_lt.1 hfits

/-- Past its argument checks the command copies, or its DMA fails. -/
theorem exec_chestCopy_checked {src : CmdSrc} {r : Running} (hlo : 1 ≤ Arg r 2) (hhi : Arg r 2 ≤ 65536) (halign : Arg64 r 3 % 64 = 0)
    (hmin : 256 ≤ Arg r 5) (hmax : Arg r 5 ≤ 67108864) (args : List Nat) (err : Bool) (s : State) :
    ∃ f, exec (.chestCopy src args err) s = .next (runCmd 0x0401 src args f s) ∧
      ∀ a, a = copyRecs s (Arg r 2) (Arg r 5) (s.mram.chs.nextSeq - Arg64 r 0) { next := Arg64 r 0 } → f r s =
        if err then dmaError s
        else (.done stOk ([a.count] ++ words64 a.next ++ [a.bytes.length, (if a.gone then 1 else 0) + (if a.skipped then 2 else 0)]),
          dmaOut src (Arg64 r 3) a.bytes s) := by
  refine ⟨_, rfl, ?_⟩
  rintro a rfl
  refine if_neg ?_
  simp only [Bool.or_eq_true, decide_eq_true_eq]
  omega

/-! ### SNARE_TRIGGER (R494) -/

theorem snrDefSts_lt {k : Nat} (hk : k < 4) : rSNR_DEF_STS k < 0x141000 := by
  dsimp only [rSNR_DEF_STS]
  omega

section Trigger

variable {src : CmdSrc} {r : Running} {c : SnrDefCfg} {s : State} (hk : Arg r 0 < 4) (hcfg : s.snrCfg? (Arg r 0) = some c)
  (htick : s.ticking = true)

include hk hcfg htick

/-- Past its checks the command triggers the definition, and its answer goes by the state the definition was in. -/
theorem exec_snareTrigger_checked (args : List Nat) :
    ∃ f, exec (.snareTrigger src args) s = .next (runCmd 0x0501 src args f s) ∧
      (s.rd (fSNR_DEF_STS_STATE (Arg r 0)) = snrIdle ∨ s.rd (fSNR_DEF_STS_STATE (Arg r 0)) = snrComplete →
        f r s = (.done stState [], snareHostTrig (Arg r 0) s)) ∧
      (¬(s.rd (fSNR_DEF_STS_STATE (Arg r 0)) = snrIdle ∨ s.rd (fSNR_DEF_STS_STATE (Arg r 0)) = snrComplete) →
        f r s = (.done stOk ((snareHostTrig (Arg r 0) s).rd (fSNR_DEF_STS_STATE (Arg r 0)) ::
          words64 ((snareHostTrig (Arg r 0) s).snrDef (Arg r 0)).t0), snareHostTrig (Arg r 0) s)) := by
  have hargs : ¬(decide (Arg r 0 ≥ 4) || (s.snrCfg? (Arg r 0)).isNone) = true := by simp [hk, hcfg]
  have hgo : ¬(!s.ticking) = true := by simp [htick]
  exact ⟨_, rfl, fun h => (if_neg hargs).trans ((if_neg hgo).trans (if_pos (by simpa using h))),
    fun h => (if_neg hargs).trans ((if_neg hgo).trans (if_neg (by simpa using h)))⟩

variable (h : accepted src 0x0501 r s)

include h

theorem runs_snareTrigger_taken (hlen : Arg r 0 < s.snr.defs.length) (hst : s.rd (fSNR_DEF_STS_STATE (Arg r 0)) = snrArmed)
    (hhost : SnrTerm.host ∈ c.terms) (args : List Nat) :
    Runs (.snareTrigger src args) s fun t => t.rd (fSNR_DEF_STS_STATE (Arg r 0)) = snrTriggered ∧
      t.rd (fSNR_DEF_STS_CAUSE (Arg r 0)) = causeHost ∧ (t.snrDef (Arg r 0)).t0 = max s.curTick (s.snrDef (Arg r 0)).armTick ∧
        answered src r stOk (snrTriggered :: words64 (max s.curTick (s.snrDef (Arg r 0)).armTick)) t := by
  obtain ⟨f, hexec, -, hf⟩ := exec_snareTrigger_checked (src := src) hk hcfg htick args
  obtain ⟨hstate, hcause, ht0⟩ := snareHostTrig_armed hcfg hhost hlen hst
  obtain ⟨t, ht, hdone, hsame, hrd⟩ := runs_accepted h hexec (hf (by rw [hst]; decide)) (congrArg Mbx.run (snareHostTrig_mbx (Arg r 0) s))
  have hsnr : t.snr = (snareHostTrig (Arg r 0) s).snr := hsame .snr (by decide)
  rw [hstate, ht0] at hdone
  refine ⟨t, ht, ?_, ?_, ?_, hdone⟩
  · exact (hrd (fSNR_DEF_STS_STATE (Arg r 0)) (snrDefSts_lt hk) (by decide : 30 < 32 ∧ 30 ≠ 28 ∧ 30 ≠ 29)).trans hstate
  · exact (hrd (fSNR_DEF_STS_CAUSE (Arg r 0)) (snrDefSts_lt hk) (by decide : 16 < 32 ∧ 16 ≠ 28 ∧ 16 ≠ 29)).trans hcause
  · rw [State.snrDef, hsnr, ← State.snrDef, ht0]

theorem runs_snareTrigger_missed (hst : s.rd (fSNR_DEF_STS_STATE (Arg r 0)) = snrIdle ∨ s.rd (fSNR_DEF_STS_STATE (Arg r 0)) = snrComplete)
    (args : List Nat) :
    Runs (.snareTrigger src args) s fun t => answered src r stState [] t ∧ t.snr = s.snr ∧
      (SnrTerm.host ∈ c.terms → t.bit fSNR_FLT_FLAGS 3 = true) := by
  obtain ⟨f, hexec, hf, -⟩ := exec_snareTrigger_checked (src := src) hk hcfg htick args
  obtain ⟨hsnr, hmissed⟩ := snareHostTrig_missed hcfg hst
  obtain ⟨t, ht, hdone, hsame, hrd⟩ := runs_accepted h hexec (hf hst) (congrArg Mbx.run (snareHostTrig_mbx (Arg r 0) s))
  exact ⟨t, ht, hdone, (hsame .snr (by decide)).trans hsnr,
    fun hhost => (bit_eq_of_rd (hrd _ (by decide) (by decide)) 3).trans (hmissed hhost)⟩

end Trigger

/-! ### SNARE_EXPORT (R494) -/

section Export

variable {src : CmdSrc} {r : Running} {c : SnrDefCfg} {s : State} (hmemo : r.memo = []) (hk : Arg r 0 < 4) (hto : Arg r 1 ≤ 1)
  (halign : Arg r 1 = 0 → Arg64 r 2 % 64 = 0)

include hmemo hk hto halign

/-- Past its argument checks the command looks for the capture. -/
theorem exec_snareExport_checked (src : CmdSrc) (args : List Nat) (err : Bool) :
    ∃ f, exec (.snareExport src args err) s = .next (runCmd 0x0502 src args f s) ∧
      ((s.snrDef (Arg r 0)).cfg = none ∨ s.rd (fSNR_DEF_STS_STATE (Arg r 0)) ≠ snrComplete → f r s = (.done stState [], s)) ∧
      ∀ c, (s.snrDef (Arg r 0)).cfg = some c → s.rd (fSNR_DEF_STS_STATE (Arg r 0)) = snrComplete → f r s =
        if s.snrPending (Arg r 0) then (.later [], s)
        else if Arg r 1 = 1 then exportNand (Arg r 0) c s
        else if (s.snrFileBytes (Arg r 0) c).length > Arg r 4 then (.done stNoSpace [], s)
        else if err then dmaError (exportFail (Arg r 0) s)
        else (.done stOk (words64 (s.snrFileBytes (Arg r 0) c).length), dmaOut src (Arg64 r 2) (s.snrFileBytes (Arg r 0) c) s) := by
  have hidle : ¬(!r.memo.isEmpty) = true := by simp [hmemo]
  have hargs : ¬(decide (Arg r 0 ≥ 4) || decide (Arg r 1 > 1) || (decide (Arg r 1 = 0) && decide (Arg64 r 2 % 64 ≠ 0))) = true := by
    simp only [Bool.or_eq_true, Bool.and_eq_true, decide_eq_true_eq]
    omega
  refine ⟨_, rfl, fun hnone => ?_, fun c hcfg hst => ?_⟩
  · refine (if_neg hidle).trans ((if_neg hargs).trans ?_)
    cases hcfg : (s.snrDef (Arg r 0)).cfg with
    | none => rfl
    | some c => exact if_pos (hnone.resolve_left (by simp [hcfg]))
  · refine (if_neg hidle).trans ((if_neg hargs).trans ?_)
    rw [hcfg]
    exact if_neg (not_not.2 hst)

variable (hcfg : (s.snrDef (Arg r 0)).cfg = some c) (hst : s.rd (fSNR_DEF_STS_STATE (Arg r 0)) = snrComplete)
  (hpend : s.snrPending (Arg r 0) = false) (h : accepted src 0x0502 r s)

include hcfg hst hpend h

/-- A file that the host's buffer holds goes out to it (R353). -/
theorem runs_snareExport_sent (hhost : Arg r 1 = 0) (hlen : (s.snrFileBytes (Arg r 0) c).length ≤ Arg r 4) (args : List Nat) :
    Runs (.snareExport src args false) s fun t => answered src r stOk (words64 (s.snrFileBytes (Arg r 0) c).length) t ∧ t.snr = s.snr ∧
      t.out = s.out ++ (if s.snrFileBytes (Arg r 0) c = [] then [] else [.dma (Arg64 r 2) (s.snrFileBytes (Arg r 0) c)]) := by
  obtain ⟨f, hexec, -, hrun⟩ := exec_snareExport_checked (s := s) hmemo hk hto halign src args false
  have hf := (hrun c hcfg hst).trans ((if_neg (by simp [hpend])).trans ((if_neg (by omega)).trans
    ((if_neg (Nat.not_lt.2 hlen)).trans (if_neg Bool.false_ne_true))))
  obtain ⟨t, ht, hdone, hout, hsame⟩ := runs_dmaOut h hexec hf
  exact ⟨t, ht, hdone, hsame .snr (by decide), hout⟩

/-- A failed DMA ends the command and leaves the capture (R354). -/
theorem runs_snareExport_failed (hhost : Arg r 1 = 0) (hlen : (s.snrFileBytes (Arg r 0) c).length ≤ Arg r 4) (args : List Nat) :
    Runs (.snareExport src args true) s fun t => answered src r stFault [] t ∧ t.bit fSNR_FLT_FLAGS 5 = true ∧ t.out = s.out ∧
      t.rd (fSNR_DEF_STS_STATE (Arg r 0)) = snrComplete := by
  obtain ⟨f, hexec, -, hrun⟩ := exec_snareExport_checked (s := s) hmemo hk hto halign src args true
  have hf := (hrun c hcfg hst).trans ((if_neg (by simp [hpend])).trans ((if_neg (by omega)).trans
    ((if_neg (Nat.not_lt.2 hlen)).trans (if_pos rfl))))
  obtain ⟨hcomplete, hfail⟩ := exportFail_effect hk hst
  have hmbx : (exportFail (Arg r 0) s).mbx = s.mbx := exportFail_same (p := .mbx) (by decide) ..
  obtain ⟨t, ht, hdone, -, hsame, hrd⟩ := runs_dmaError h hexec hf (congrArg Mbx.run hmbx)
  have hout : (exportFail (Arg r 0) s).out = s.out := exportFail_same (p := .out) (by decide) ..
  have hstate := hrd (fSNR_DEF_STS_STATE (Arg r 0)) (snrDefSts_lt hk) (by decide : 30 < 32 ∧ 30 ≠ 28 ∧ 30 ≠ 29)
  have hflags := hrd fSNR_FLT_FLAGS (by decide) (by decide)
  rw [rd_flag (by dsimp only [Fld.key]; omega)] at hstate
  rw [rd_flag (by decide)] at hflags
  exact ⟨t, ht, hdone, (bit_eq_of_rd hflags 5).trans hfail, (hsame .out (by decide) : t.out = _).trans ((State.flag_out ..).trans hout),
    hstate.trans hcomplete⟩

/-- A file that the NAND store has room for is written there (R355). -/
theorem runs_snareExport_stored (hnand : Arg r 1 = 1) (hroom : (s.snrFileBytes (Arg r 0) c).length ≤ s.snrFree) (args : List Nat) (err : Bool) :
    Runs (.snareExport src args err) s fun t => goesOn src r [s.nand.snrNext] t ∧ t.rd (fSNR_DEF_STS_EXPORTING (Arg r 0)) = 1 ∧
      t.nand.snr.length = s.nand.snr.length + 1 := by
  obtain ⟨f, hexec, -, hrun⟩ := exec_snareExport_checked (s := s) hmemo hk hto halign src args err
  have hf := (hrun c hcfg hst).trans ((if_neg (by simp [hpend])).trans (if_pos hnand))
  obtain ⟨u, hu, hshown, hfiles, hmbx⟩ := exportNand_room hroom
  obtain ⟨t, ht, hcmd, hafter, hrd⟩ := runs_accepted_rd h hexec (hf.trans hu) (congrArg Mbx.run hmbx)
    (g := fSNR_DEF_STS_EXPORTING (Arg r 0)) (by dsimp only [Fld.key]; omega)
    fun c => ⟨by dsimp only [Fld.key, rSNR_DEF_STS, rMBX_STS]; omega, by dsimp only [Fld.key]; omega⟩
  exact ⟨t, ht, hcmd, hrd.trans hshown, (congrArg (fun x : Nand => x.snr.length) hafter.nand).trans hfiles⟩

theorem runs_snareExport_full (hnand : Arg r 1 = 1) (hfull : (s.snrFileBytes (Arg r 0) c).length > s.snrFree) (args : List Nat) (err : Bool) :
    Runs (.snareExport src args err) s fun t => answered src r stNoSpace [] t ∧ t.nand = s.nand ∧ t.bit fSNR_FLT_FLAGS 4 = true := by
  obtain ⟨f, hexec, -, hrun⟩ := exec_snareExport_checked (s := s) hmemo hk hto halign src args err
  have hf := (hrun c hcfg hst).trans ((if_neg (by simp [hpend])).trans (if_pos hnand))
  obtain ⟨t, ht, hdone, hafter⟩ := runs_accepted h hexec (hf.trans (exportNand_full hfull)) rfl
  exact ⟨t, ht, hdone, hafter.nand, (bit_eq_of_rd (hafter.rd _ (by decide) (by decide)) 4).trans (bit_flag_self (by decide) s)⟩

end Export

/-! ### SNARE_NAND_DELETE (R494) -/

/-- With a number, the files that carry it are deleted; numbers start at 1 again once none is left. -/
theorem exec_snareNandDelete_one {r : Running} (hone : Arg r 0 ≠ 0xFFFFFFFF) (src : CmdSrc) (args : List Nat) (s : State) :
    ∃ f, exec (.snareNandDelete src args) s = .next (runCmd 0x0505 src args f s) ∧ f r s =
      if (s.nand.snr.filter fun f => f.number = Arg r 0).isEmpty then (.done stBadArg [], s)
      else (.done stOk [(s.nand.snr.filter fun f => f.number = Arg r 0).length],
        snrSync { s with nand := { s.nand with
          snr := s.nand.snr.filter fun f => !decide (f.number = Arg r 0),
          snrNext := if (s.nand.snr.filter fun f => !decide (f.number = Arg r 0)).isEmpty then 1 else s.nand.snrNext } }) :=
  ⟨_, rfl, by simp only [hone, decide_false, Bool.false_or, Bool.not_false, Bool.and_true]⟩

/-! ### ACC_ZERO (R495, R496) -/

theorem sendMirror_same {p : Part} (hp : p ∉ [Part.pair, .out]) (op m operand : Nat) (s : State) :
    p.same s (s.sendMirror op m operand) := same_of_kept hp (st_sendMirror_kept op m operand (Kept.refl _ s) rfl)

/-- A pair message tells nothing of the zeroings that wait. -/
theorem sendMirror_setAcc_out (x : Acc) (op m operand : Nat) (s : State) :
    ((s.setAcc x).sendMirror op m operand).out = (s.sendMirror op m operand).out := by
  unfold State.sendMirror
  exact pairSend_out_eq_of (s := s) (t := s.setAcc x) rfl rfl rfl rfl rfl ..

/-- Past its argument checks the command needs ticks and authority; the zeroing waits for its commit, here and in the partner. -/
theorem exec_accZero_checked {src : CmdSrc} {r : Running} {s : State} {im : Image} (hmemo : r.memo = []) (himg : s.img = some im)
    (hset : Arg r 0 = 0xFFFF ∨ Arg r 0 < min 512 im.acc.cuts.length) (args : List Nat) :
    ∃ f, exec (.accZero src args) s = .next (runCmd 0x0601 src args f s) ∧ f r s =
      if !s.ticking || s.pairRefuses r then (.done stState [], s)
      else if s.pairTells r then
        (.later [s.up + 2000000], (s.setAcc { s.acc with zero := s.acc.zero ++ [(Arg r 0, s.up + 2000000, some s.mirrorTick)] }).sendMirror
          mirZero s.mirrorTick (Arg r 0))
      else (.later [s.up + 2000000], s.setAcc { s.acc with zero := s.acc.zero ++ [(Arg r 0, s.up + 2000000, none)] }) := by
  refine ⟨_, rfl, (if_neg (by simp [hmemo])).trans ((if_neg ?_).trans ((if_neg (by simp [himg])).trans (if_neg ?_)))⟩
  · simp only [Bool.and_eq_true, decide_eq_true_eq]
    omega
  · simp only [himg, Bool.and_eq_true, decide_eq_true_eq]
    omega

/-- A zeroing that the partner is told of waits for the same tick in both modules. -/
theorem runs_accZero_told {i : Instr} {src : CmdSrc} {op : Nat} {r : Running} {s : State} (h : accepted src op r s) {args : List Nat}
    {f : Running → State → Reply × State} (hexec : exec i s = .next (runCmd op src args f s)) {ws : List Nat} {x : Acc} {m c : Nat}
    (hf : f r s = (.later ws, (s.setAcc x).sendMirror mirZero m c)) :
    Runs i s fun t => goesOn src r ws t ∧ t.acc = x ∧ t.out = (s.sendMirror mirZero m c).out := by
  have hmbx : ((s.setAcc x).sendMirror mirZero m c).mbx = s.mbx := sendMirror_same (p := .mbx) (by decide) ..
  have hacc : ((s.setAcc x).sendMirror mirZero m c).acc = x := sendMirror_same (p := .acc) (by decide) ..
  obtain ⟨t, ht, hcmd, hsame, -⟩ := runs_accepted h hexec hf (congrArg Mbx.run hmbx)
  exact ⟨t, ht, hcmd, (hsame .acc (by decide) : t.acc = _).trans hacc, (hsame .out (by decide) : t.out = _).trans (sendMirror_setAcc_out ..)⟩

/-! ### The obligation -/

/-- Settles O53: past its checks each command answers, goes on or sends its bytes as its own lemma says; the scheduler's upkeep after it leaves
the rest alone. -/
theorem storeCommands : Obligations.StoreCommands := by
  refine ⟨?chestCopy, ?lidCopy, ?trigger, ?exported, ?list, ?read, ?delete, ?zero⟩
  case chestCopy =>
    intro src args err r a s h
    refine ⟨fun hbad => ?_, fun hlo hhi halign hmin hmax => ?_⟩
    · exact runs_answered (p := .out) h rfl (if_pos (by simpa [or_assoc] using hbad)) rfl
    · refine ⟨fun ha => ?_, ?_⟩
      · obtain ⟨f, hexec, hf⟩ := exec_chestCopy_checked (src := src) hlo hhi halign hmin hmax args false s
        obtain ⟨t, ht, hdone, hout, hsame⟩ := runs_dmaOut h hexec (hf a ha)
        obtain ⟨hcount, hbytes⟩ := copyRecs_bounds s (Arg r 2) (Arg r 5) (s.mram.chs.nextSeq - Arg64 r 0) (a := { next := Arg64 r 0 })
          (Nat.zero_le _) (Nat.zero_le _)
        exact ⟨t, ht, hsame .mramChs (by decide), ha ▸ hcount, ha ▸ hbytes, hdone, hout⟩
      · obtain ⟨f, hexec, hf⟩ := exec_chestCopy_checked (src := src) hlo hhi halign hmin hmax args true s
        exact runs_dmaFailed h hexec (hf _ rfl)
  case lidCopy =>
    intro src args err r b s h
    refine ⟨fun hbad => ?_, fun halign hlen hb => ?_⟩
    · exact runs_answered (p := .out) h rfl (if_pos (by simpa using hbad)) rfl
    · have hgood : ¬(decide (Arg64 r 0 % 64 ≠ 0) || decide (Arg r 2 < 4096)) = true := by simpa [halign] using hlen
      subst hb
      obtain ⟨t, ht, hdone, hout, -⟩ := runs_dmaOut h (i := .chestLidCopy src args false) rfl (if_neg hgood)
      exact ⟨⟨t, ht, hdone, hout⟩, runs_dmaFailed h rfl (if_neg hgood)⟩
  case trigger =>
    intro src args r s h
    refine ⟨fun hbad => ?_, fun c hk hcfg hdefs => ?_⟩
    · exact runs_answered (p := .snr) h rfl (if_pos (by simpa using hbad)) rfl
    · have hlen : Arg r 0 < s.snr.defs.length := hdefs ▸ hk
      refine ⟨fun hstopped => ?_, fun htick hst hhost => ?_, fun htick hst => ?_, fun htick hst => ?_⟩
      · exact runs_answered (p := .snr) h rfl ((if_neg (by simp [hk, hcfg])).trans (if_pos (by simp [hstopped]))) rfl
      · exact runs_snareTrigger_taken hk hcfg htick h hlen hst hhost args
      · obtain ⟨f, hexec, -, hf⟩ := exec_snareTrigger_checked (src := src) hk hcfg htick args
        obtain ⟨hstate, ht0⟩ := snareHostTrig_triggered hcfg hlen hst
        obtain ⟨t, ht, hdone, -⟩ := runs_accepted h hexec (hf (by rw [hst]; decide)) (congrArg Mbx.run (snareHostTrig_mbx (Arg r 0) s))
        rw [hstate, ht0] at hdone
        exact ⟨t, ht, hdone⟩
      · exact runs_snareTrigger_missed hk hcfg htick h hst args
  case exported =>
    intro src args err r s h
    refine ⟨fun hmemo => ?_, fun hmemo hbad => ?_, fun hmemo hk hto halign => ?_⟩
    · exact runs_goesOn (p := .out) h rfl (if_pos (by simp [hmemo])) rfl
    · exact runs_answered (p := .out) h rfl ((if_neg (by simp [hmemo])).trans (if_pos (by simpa [or_assoc] using hbad))) rfl
    obtain ⟨f, hexec, hstate, hgo⟩ := exec_snareExport_checked (s := s) hmemo hk hto halign src args err
    refine ⟨fun hnone => ?_, fun c hcfg hst => ?_⟩
    · exact runs_answered (p := .out) h hexec (hstate hnone) rfl
    refine ⟨fun hpend => ?_, fun hpend hhost => ⟨fun hlen => ?_, fun hlen => ⟨?_, ?_⟩⟩,
      fun hpend hnand => ⟨fun hroom => ?_, fun hfull => ?_⟩⟩
    · exact runs_goesOn (p := .out) h hexec ((hgo c hcfg hst).trans (if_pos hpend)) rfl
    · exact runs_answered (p := .out) h hexec ((hgo c hcfg hst).trans ((if_neg (by simp [hpend])).trans ((if_neg (by omega)).trans
        (if_pos hlen)))) rfl
    · exact runs_snareExport_sent hmemo hk hto halign hcfg hst hpend h hhost hlen args
    · exact runs_snareExport_failed hmemo hk hto halign hcfg hst hpend h hhost hlen args
    · exact runs_snareExport_stored hmemo hk hto halign hcfg hst hpend h hnand hroom args err
    · exact runs_snareExport_full hmemo hk hto halign hcfg hst hpend h hnand hfull args err
  case list =>
    intro src args err r b s h
    refine ⟨fun hbad => ?_, fun halign hsmall => ?_, fun halign hlen hb => ?_⟩
    · exact runs_answered (p := .out) h rfl (if_pos (by simpa using hbad)) rfl
    · exact runs_answered (p := .out) h rfl ((if_neg (by simpa using halign)).trans (if_pos hsmall)) rfl
    · have hgood : ¬Arg64 r 0 % 64 ≠ 0 := not_not.2 halign
      subst hb
      obtain ⟨t, ht, hdone, hout, hsame⟩ := runs_dmaOut h (i := .snareNandList src args false) rfl
        ((if_neg hgood).trans (if_neg (Nat.not_lt.2 hlen)))
      have hnand := nand_eq_of_parts (hsame .nandChs (by decide)) (hsame .nandSnr (by decide)) (hsame .nandSlots (by decide))
      exact ⟨⟨t, ht, hdone, hout, hnand⟩,
        runs_dmaFailed h rfl ((if_neg hgood).trans (if_neg (Nat.not_lt.2 hlen)))⟩
  case read =>
    intro src args err r s h
    refine ⟨fun hbad => ?_, fun f hfile halign => ⟨fun hsmall => ?_, fun hlen => ⟨?_, ?_⟩⟩⟩
    · refine runs_answered (p := .out) h rfl ?_ rfl
      cases hfile : s.nand.snr.find? fun f => f.number = Arg r 0 with
      | none => rfl
      | some f => exact if_pos (hbad.resolve_left (by simp [hfile]))
    · exact runs_answered (p := .out) h rfl (by simp only [hfile, halign, hsmall]; rfl) rfl
    · obtain ⟨t, ht, hdone, hout, -⟩ := runs_dmaOut h (i := .snareNandRead src args false) rfl
        (by simp only [hfile, halign, Nat.not_lt.2 hlen]; rfl)
      exact ⟨t, ht, hdone, hout⟩
    · exact runs_dmaFailed h rfl (by simp only [hfile, halign, Nat.not_lt.2 hlen]; rfl)
  case delete =>
    intro src args r s h
    refine ⟨fun hall => ?_, fun hone hheld => ?_, fun hone hnone => ?_⟩
    · obtain ⟨t, ht, hdone, hafter⟩ := runs_accepted h (i := .snareNandDelete src args) rfl (a := .done stOk [s.nand.snr.length])
        (u := snrSync { s with nand := { s.nand with snr := [], snrNext := 1 } }) (by simp [hall]) rfl
      exact ⟨t, ht, hdone, congrArg Nand.snr hafter.nand, congrArg Nand.snrNext hafter.nand⟩
    · obtain ⟨f, hexec, hf⟩ := exec_snareNandDelete_one hone src args s
      obtain ⟨t, ht, hdone, hafter⟩ := runs_accepted h hexec (hf.trans (if_neg (by simpa using hheld))) rfl
      have hleft : t.nand.snr = s.nand.snr.filter fun f => !decide (f.number = Arg r 0) := congrArg Nand.snr hafter.nand
      have hnext := congrArg Nand.snrNext hafter.nand
      exact ⟨t, ht, fun f => by simp [hleft], fun hempty => hnext.trans (if_pos (by simp [← hleft, hempty])),
        fun hsome => hnext.trans (if_neg (by simpa [← hleft] using hsome)), hdone⟩
    · obtain ⟨f, hexec, hf⟩ := exec_snareNandDelete_one hone src args s
      obtain ⟨t, ht, hdone, hafter⟩ := runs_accepted h hexec (hf.trans (if_pos (by simpa using hnone))) rfl
      exact ⟨t, ht, hdone, hafter.nand⟩
  case zero =>
    intro src args r s h
    refine ⟨fun hmemo => ?_, fun hmemo hbig hnotAll => ?_, fun hmemo hsmall himg => ?_,
      fun im hmemo himg => ⟨fun hnotAll hpast => ?_, fun hset => ?_⟩⟩
    · exact runs_goesOn (p := .acc) h rfl (if_pos (by simp [hmemo])) rfl
    · exact runs_answered (p := .acc) h rfl ((if_neg (by simp [hmemo])).trans (if_pos (by simp [hbig, hnotAll]))) rfl
    · exact runs_answered (p := .acc) h rfl ((if_neg (by simp [hmemo])).trans ((if_neg (by simp; omega)).trans (if_pos (by simp [himg])))) rfl
    · refine runs_answered (p := .acc) h rfl ((if_neg (by simp [hmemo])).trans ?_) rfl
      by_cases hbig : 511 < Arg r 0
      · exact if_pos (by simp [hbig, hnotAll])
      · exact (if_neg (by simp; omega)).trans ((if_neg (by simp [himg])).trans (if_pos (by simp [himg, hnotAll, hpast])))
    · obtain ⟨f, hexec, hf⟩ := exec_accZero_checked (src := src) hmemo himg hset args
      refine ⟨fun hstate => ?_, fun htick hmay halone => ?_, fun htick hmay htells => ?_⟩
      · exact runs_answered (p := .acc) h hexec (hf.trans (if_pos (by simpa using hstate))) rfl
      · exact runs_goesOn (p := .acc) h hexec (hf.trans ((if_neg (by simp [htick, hmay])).trans (if_neg (by simp [halone])))) rfl
      · exact runs_accZero_told h hexec (hf.trans ((if_neg (by simp [htick, hmay])).trans (if_pos htells)))

end Sys2Proof.Machine
end

section
/-!
PROOFS. Scope: that every command completes, and a step on a queue that is not empty.
-/

namespace Sys2Proof.Machine

/-- The arm of every command answers a next state: the cases of its meaning are cases of that state. -/
theorem exec_next (i : Instr) (s : State) : ∃ t, exec i s = .next t := by
  cases i
  all_goals exact ⟨_, rfl⟩

theorem runs_of {i : Instr} {s : State} {P : State → Prop} (h : ∀ t, exec i s = .next t → P t) : Runs i s P :=
  have ⟨t, ht⟩ := exec_next i s
  ⟨t, ht, h t ht⟩

theorem runs_next {i : Instr} {s u t : State} {P : State → Prop} (hi : exec i s = .next u) (hu : u = t) (h : P t) : Runs i s P :=
  ⟨t, hi.trans (congrArg _ hu), h⟩

/-! ### The statements -/

/-- Settles O1: the step is defined by the queue's front. -/
theorem stepTakesFront : Obligations.StepTakesFront := fun _ _ s h => by
  unfold step
  rw [h]

/-- Settles O7: every command has a next state, and a command leaves the queue it was taken from alone. -/
theorem everyCommandCompletes : Obligations.EveryCommandCompletes := fun _ _ => runs_of fun _ => exec_pending

end Sys2Proof.Machine
end

section
/-!
PROOFS. Scope: faults of the Chest's own memory (R365, R371).
-/

namespace Sys2Proof.Machine

/-! ### What a posted record leaves of the Chest (R361, R365, R366) -/

/-- Parts that no post touches. -/
theorem post_same {p : Part} (hp : p ∉ [Part.regs, .chs, .snr, .pmc, .mramChs]) (code : Nat) (payload : Bytes) (s : State) :
    p.same s (post code payload s) := same_of_kept hp (post_kept code payload (Kept.refl _ s) (Nat.and_self _))

/-- What stands in the Chest while records are posted: the records, but for how often the newest was repeated, the drawers, the numbers and
what has been declared; a fault once shown stays shown. -/
structure ChestStands (s t : State) : Prop where
  staged : t.mram.chs.staged.map ChestRec.seq = s.mram.chs.staged.map ChestRec.seq
  keep : t.mram.chs.keep = s.mram.chs.keep
  lid : t.mram.chs.lid = s.mram.chs.lid
  nextSeq : t.mram.chs.nextSeq = s.mram.chs.nextSeq
  declared : t.mram.chs.declared = s.mram.chs.declared
  overflow : t.mram.chs.overflow = s.mram.chs.overflow
  nandOk : t.chs.nandOk = s.chs.nandOk
  flags : ∀ b < fCHS_FLT_FLAGS.w, s.bit fCHS_FLT_FLAGS b = true → t.bit fCHS_FLT_FLAGS b = true

theorem ChestStands.trans {s t u : State} (h : ChestStands s t) (k : ChestStands t u) : ChestStands s u :=
  ⟨k.staged.trans h.staged, k.keep.trans h.keep, k.lid.trans h.lid, k.nextSeq.trans h.nextSeq, k.declared.trans h.declared,
    k.overflow.trans h.overflow, k.nandOk.trans h.nandOk, fun b hb hs => k.flags b hb (h.flags b hb hs)⟩

theorem chestStands_of_rd {s t : State} (hm : t.mram.chs = s.mram.chs) (hok : t.chs.nandOk = s.chs.nandOk)
    (hrd : t.rd fCHS_FLT_FLAGS = s.rd fCHS_FLT_FLAGS) : ChestStands s t := by
  refine ⟨?_, ?_, ?_, ?_, ?_, ?_, hok, fun b _ h => (bit_eq_of_rd hrd b).trans h⟩
  all_goals rw [hm]

theorem ChestStands.refl (s : State) : ChestStands s s := chestStands_of_rd rfl rfl rfl

theorem chestStands_flag (b : Nat) (s : State) : ChestStands s (s.flag fCHS_FLT_FLAGS b) :=
  ⟨rfl, rfl, rfl, rfl, rfl, rfl, rfl, fun _ hb h => bit_flag_of hb h b⟩

theorem chestStands_wr {f : Fld} (hf : fCHS_FLT_FLAGS.key ≠ f.key) (s : State) (v : Nat) : ChestStands s (s.wr f v) :=
  chestStands_of_rd rfl rfl (State.rd_wr_ne _ hf v)

theorem chestStands_ite {s a b : State} {c : Prop} [Decidable c] (ha : ChestStands s a) (hb : ChestStands s b) :
    ChestStands s (if c then a else b) := by
  split <;> assumption

theorem chestStands_setBucket (code : Nat) (b : Bucket) (s : State) : ChestStands s (s.setBucket code b) := chestStands_of_rd rfl rfl rfl

theorem chestStands_snareTriggerAll (p : SnrTerm → Bool) (cause tick : Nat) (s : State) :
    ChestStands s (snareTriggerAll p cause tick s) := by
  have hkept := snareTriggerAll_kept (F := 257) p cause tick (Kept.refl _ s) rfl
  have hregs := snareTriggerAll_regs (B := [0x0C]) (by decide) p cause tick (regsOut_refl _ s)
  exact chestStands_of_rd (hkept.2.2.same .mramChs (by decide)) (congrArg Chest.nandOk (hkept.2.2.same .chs (by decide))) (hregs _ (by decide))

theorem chestStands_suppress (code : Nat) (s : State) : ChestStands s (suppress code s) := by
  have hkept := st_ev_kept (F := 33554432) 0x371 1 (Kept.refl _ s) rfl
  have hev : ChestStands s (s.ev 0x371) := chestStands_of_rd (hkept.2.2.same .mramChs (by decide))
    (congrArg Chest.nandOk (hkept.2.2.same .chs (by decide))) (ev_rd ..)
  have hsupp (t : State) (n : Nat) : ChestStands t (t.setSupp code n) := ⟨rfl, rfl, rfl, rfl, rfl, rfl, rfl, fun _ _ h => h⟩
  exact ((hev.trans (hsupp _ _)).trans (chestStands_wr (by decide) _ _)).trans (chestStands_flag 1 _)

theorem chestStands_coalesce (s : State) : ChestStands s (coalesce s) := by
  refine ChestStands.trans (t := s.inc fCHS_COAL_CNT_POSTS) (chestStands_wr (by decide) s _) ?_
  unfold coalesce
  dsimp only
  generalize s.inc fCHS_COAL_CNT_POSTS = u
  cases u.chs.queue.getLast? with
  | some p => exact chestStands_of_rd rfl rfl rfl
  | none =>
    cases hlast : u.mram.chs.staged.getLast? with
    | none => exact ChestStands.refl u
    | some r => exact ⟨getLast_seqs hlast rfl, rfl, rfl, rfl, rfl, rfl, rfl, fun _ _ h => h⟩

theorem chestStands_refillBucket (code : Nat) (s : State) : ChestStands s (refillBucket code s) := by
  unfold refillBucket
  dsimp only
  split
  · exact ChestStands.refl s
  · exact chestStands_ite (ChestStands.refl s) (chestStands_setBucket ..)

theorem chestStands_enqueuePost (code : Nat) (payload : Bytes) (cut : Bool) (s : State) : ChestStands s (enqueuePost code payload cut s) :=
  ⟨rfl, rfl, rfl, rfl, rfl, rfl, rfl, fun _ _ h => h⟩

theorem chestStands_rateLimit (code : Nat) (payload : Bytes) (cut : Bool) (s : State) : ChestStands s (rateLimit code payload cut s) := by
  unfold rateLimit
  split
  · exact chestStands_enqueuePost ..
  · refine (chestStands_refillBucket code s).trans ?_
    exact chestStands_ite (chestStands_suppress ..) (ChestStands.trans (chestStands_setBucket ..) (chestStands_enqueuePost ..))

theorem chestStands_postAt (tick code : Nat) (payload : Bytes) (s : State) : ChestStands s (postAt tick code payload s) := by
  refine (chestStands_snareTriggerAll (fun t => t = SnrTerm.event code) causeEvent tick s).trans ?_
  exact chestStands_ite ((chestStands_suppress ..).trans (chestStands_flag ..)) (chestStands_ite (chestStands_coalesce _) (chestStands_rateLimit ..))

theorem chestStands_post (code : Nat) (payload : Bytes) (s : State) : ChestStands s (post code payload s) := chestStands_postAt ..

/-! ### Losses told (R360, R373) -/

/-- What a declared loss leaves: the range is declared, the loss is shown, and all else stands. -/
structure LossTold (first count : Nat) (s t : State) : Prop where
  stands : ChestStands (declareRange first count s) t
  lost : t.bit fCHS_FLT_FLAGS 7 = true

theorem recsLost_told (first count cause : Nat) (s : State) : LossTold first count s (recsLost first count cause s) :=
  ⟨(chestStands_post ..).trans (chestStands_flag ..), bit_flag_self (by decide) _⟩

theorem LossTold.declared {first count : Nat} {s t : State} (h : LossTold first count s t) : (first, count) ∈ t.mram.chs.declared := by
  rw [h.stands.declared]
  exact List.mem_append_right _ (List.mem_singleton.2 rfl)

theorem LossTold.bit {first count b : Nat} {s t : State} (h : LossTold first count s t) (hb : b < fCHS_FLT_FLAGS.w)
    (hs : s.bit fCHS_FLT_FLAGS b = true) : t.bit fCHS_FLT_FLAGS b = true := h.stands.flags b hb hs

theorem chsUe_bit {b : Nat} (hb : b < fCHS_FLT_FLAGS.w) (s : State) : (chsUe b s).bit fCHS_FLT_FLAGS b = true := bit_flag_self hb _

theorem not_mem_seqs {seq : Nat} {l : List ChestRec} (h : seq ∉ l.map ChestRec.seq) : ∀ x ∈ l, x.seq ≠ seq :=
  fun _ hx e => h (List.mem_map.2 ⟨_, hx, e⟩)

theorem stagedLost_gone (seq : Nat) (s : State) : ∀ x ∈ (stagedLost seq s).mram.chs.staged, x.seq ≠ seq := by
  refine not_mem_seqs ?_
  unfold stagedLost
  rw [(recsLost_told ..).stands.staged]
  simp [declareRange, State.setChs, chsUe]

theorem retireBlock_nand (block : Nat) (erase : Bool) (s : State) :
    (retireBlock block erase s).nand.chs = { s.nand.chs with retired := s.nand.chs.retired + 1 } := by
  unfold retireBlock
  dsimp only
  split
  all_goals exact (post_same (p := .nandChs) (by decide) ..)

theorem retireBlock_flags (block : Nat) (erase : Bool) (s : State) : (retireBlock block erase s).bit fCHS_FLT_FLAGS 3 = true ∧
    (1024 - (s.nand.chs.retired + 1) < 64 →
      (retireBlock block erase s).chs.nandOk = false ∧ (retireBlock block erase s).bit fCHS_FLT_FLAGS 9 = true) := by
  have hshown (u : State) (payload : Bytes) : (post 0x0C payload ((u.flag fCHS_FLT_FLAGS 3).inc fCHS_ECC_CNT_UE)).bit fCHS_FLT_FLAGS 3 = true :=
    (chestStands_post ..).flags 3 (by decide) ((bit_eq_of_rd (rd_inc_ne (by decide) _ _) 3).trans (bit_flag_self (by decide) u))
  unfold retireBlock
  dsimp only
  split
  next hfew => exact ⟨bit_flag_of (by decide) (hshown ..) 9, fun _ => ⟨rfl, bit_flag_self (by decide) _⟩⟩
  next hmany => exact ⟨hshown .., fun h => absurd h hmany⟩

/-! ### Each fault -/

section Staged

variable {r : ChestRec} {s : State} (hr : r ∈ s.mram.chs.staged)

include hr

/-- A staged record in error is lost, where no update of it can be applied again. -/
theorem chestFault_staged_lost (h : s.pwr.phase = .start 0 → ∀ q rep, s.mram.chs.upd = some (q, rep) → q ≠ r.seq) :
    chestFault (.staged r.seq) s = stagedLost r.seq s := by
  have hany : (s.mram.chs.staged.any fun x => x.seq = r.seq) = true := List.any_eq_true.2 ⟨r, hr, by simp⟩
  refine (if_pos hany).trans ?_
  split
  next q rep hphase hupd => exact if_neg (h hphase q rep hupd)
  next => rfl

/-- At S0 the update slot repairs the record it was written for (R365). -/
theorem chestFault_staged_repaired {rep : Nat} (hphase : s.pwr.phase = .start 0) (hupd : s.mram.chs.upd = some (r.seq, rep)) :
    chestFault (.staged r.seq) s =
      s.setChs { s.mram.chs with staged := s.mram.chs.staged.map fun x => if x.seq = r.seq then { x with rep := rep } else x } := by
  have hany : (s.mram.chs.staged.any fun x => x.seq = r.seq) = true := List.any_eq_true.2 ⟨r, hr, by simp⟩
  refine (if_pos hany).trans ?_
  simp only [hphase, hupd, if_true]

end Staged

theorem map_rep_seqs (seq rep : Nat) (l : List ChestRec) :
    (l.map fun x => if x.seq = seq then { x with rep := rep } else x).map ChestRec.seq = l.map ChestRec.seq := by
  rw [List.map_map]
  refine List.map_congr_left fun x _ => ?_
  dsimp only [Function.comp_apply]
  split <;> rfl

/-- The largest sequence number that the Chest holds. -/
def topSeq (s : State) : Nat := ((s.mram.chs.staged ++ s.mram.chs.lid ++ rollRecs s.nand.chs).map ChestRec.seq).foldl max 0

theorem le_topSeq {s : State} {r : ChestRec} (h : r ∈ s.mram.chs.staged ++ s.mram.chs.lid ++ rollRecs s.nand.chs) : r.seq ≤ topSeq s :=
  foldl_max_le (Or.inl (List.mem_map_of_mem h))

/-- The Chest once neither copy of the staging descriptor is complete: nothing is staged, and numbers go on after the largest one left. -/
def descriptorLost (s : State) : State :=
  chsUe 10 (s.setChs { s.mram.chs with staged := [], nextSeq := topSeq s + 1, desc := (0, 0) })

theorem chestFault_descriptor (s : State) : ChestStands (declareRange (topSeq s + 1) 65535 (descriptorLost s |>.setChs
      { (descriptorLost s).mram.chs with nextSeq := topSeq s + 65536 })) (chestFault .descriptor s) ∧
    (chestFault .descriptor s).bit fCHS_FLT_FLAGS 6 = true := by
  have hskip : chestFault .descriptor s = seqSkip (topSeq s + 65536) (descriptorLost s) := rfl
  have hnext : (descriptorLost s).mram.chs.nextSeq = topSeq s + 1 := rfl
  have hless : ¬ topSeq s + 65536 ≤ topSeq s + 1 := by omega
  have hcount : topSeq s + 65536 - (topSeq s + 1) = 65535 := by omega
  rw [hskip]
  unfold seqSkip
  rw [hnext, if_neg hless, hcount]
  exact ⟨(chestStands_post ..).trans (chestStands_flag ..), bit_flag_self (by decide) _⟩

/-- A page that holds the record and has not been reported yet. -/
def holdsUnread (seq : Nat) (p : RollPage) : Bool := !p.bad && p.recs.any fun r => r.seq = seq

def markUnread (seq : Nat) (p : RollPage) : RollPage := if holdsUnread seq p then { p with bad := true } else p

/-- Every unreported page that holds the record is marked, and the error counted and shown. -/
def pageUnreadable (seq : Nat) (s : State) : State :=
  chsUe 4 { s with nand := { s.nand with chs := { s.nand.chs with blocks := s.nand.chs.blocks.map fun b => b.map (markUnread seq) } } }

theorem chestFault_nandRead {seq : Nat} {p : RollPage} {s : State}
    (h : s.nand.chs.blocks.flatten.find? (fun p => !p.bad && p.recs.any fun r => r.seq = seq) = some p) :
    ∃ first count, chestFault (.nandRead seq) s = recsLost first count 2 (pageUnreadable seq s) := by
  unfold chestFault
  simp only [h]
  exact ⟨_, _, rfl⟩

theorem markUnread_unheld (seq : Nat) (p : RollPage) : (markUnread seq p).bad = true ∨ ∀ r ∈ (markUnread seq p).recs, r.seq ≠ seq := by
  unfold markUnread
  by_cases h : holdsUnread seq p = true
  · rw [if_pos h]
    exact Or.inl rfl
  · rw [if_neg h]
    by_cases hbad : p.bad = true
    · exact Or.inl hbad
    · refine Or.inr fun r hr e => h ?_
      simp only [holdsUnread, Bool.and_eq_true, List.any_eq_true]
      exact ⟨by simpa using hbad, r, hr, by simpa using e⟩

theorem recsLost_same {p : Part} (hp : p ∉ [Part.regs, .chs, .snr, .pmc, .mramChs]) (first count cause : Nat) (s : State) :
    p.same s (recsLost first count cause s) :=
  same_of_kept hp (recsLost_kept first count cause (Kept.refl _ s) rfl)

/-! ### The obligation -/

/-- Settles O44: each fault's own change, under the records posted after it, which leave the drawers and the shown faults standing. -/
theorem chestFaultRows : Obligations.ChestFaultRows := by
  refine ⟨?corrected, ?lost, ?repaired, ?descriptor, ?read, ?program, ?keep, ?lid, ?refuses, ?accepts⟩
  case corrected => exact fun n s => ⟨_, rfl, rd_inc_self s n, rfl, rfl⟩
  case lost =>
    intro r s hr h
    refine runs_next rfl (chestFault_staged_lost hr h) ⟨stagedLost_gone r.seq s, ?_⟩
    have htold := recsLost_told r.seq 1 1 (chsUe 2 (s.setChs { s.mram.chs with staged := s.mram.chs.staged.filter fun x => x.seq ≠ r.seq }))
    exact ⟨htold.declared, htold.bit (by decide) (chsUe_bit (by decide) _), htold.lost⟩
  case repaired =>
    intro r rep s hr hphase hupd
    refine runs_next rfl (chestFault_staged_repaired hr hphase hupd) ⟨rfl, map_rep_seqs .., fun x hx hseq => ?_⟩
    obtain ⟨y, -, rfl⟩ := List.mem_map.1 hx
    by_cases hy : y.seq = r.seq
    · rw [if_pos hy]
    · rw [if_neg hy] at hseq
      exact absurd hseq hy
  case descriptor =>
    intro s
    obtain ⟨hstands, hskipped⟩ := chestFault_descriptor s
    refine ⟨_, rfl, List.map_eq_nil_iff.1 hstands.staged, hskipped, hstands.flags 10 (by decide) (chsUe_bit (by decide) _), fun r hr => ?_⟩
    rw [hstands.nextSeq]
    exact Nat.add_le_add_right (le_topSeq hr) _
  case read =>
    intro seq p s hfind
    obtain ⟨first, count, hfault⟩ := chestFault_nandRead hfind
    have htold := recsLost_told first count 2 (pageUnreadable seq s)
    have hroll : (recsLost first count 2 (pageUnreadable seq s)).nand.chs = (pageUnreadable seq s).nand.chs :=
      recsLost_same (p := .nandChs) (by decide) ..
    refine runs_next rfl hfault ⟨?_, ?_, htold.bit (by decide) (chsUe_bit (by decide) _), htold.lost⟩
    all_goals rw [hroll]
    · intro x hx
      obtain ⟨b, hb, hx⟩ := List.mem_flatten.1 hx
      obtain ⟨b, -, rfl⟩ := List.mem_map.1 hb
      obtain ⟨y, -, rfl⟩ := List.mem_map.1 hx
      exact markUnread_unheld seq y
    · exact List.length_map ..
  case program => exact fun b e s => ⟨_, rfl, retireBlock_nand b e s, retireBlock_flags b e s⟩
  case keep =>
    intro seq s
    have hstands := chestStands_post 0x0D (le 8 seq) (chsUe 5 (s.setChs { s.mram.chs with
      keep := s.mram.chs.keep.map fun r => if r.seq = seq then { r with bad := true } else r }))
    refine ⟨_, rfl, ?_, ?_, hstands.flags 5 (by decide) (chsUe_bit (by decide) _)⟩
    · refine (congrArg _ hstands.keep).trans ((List.map_map ..).trans (List.map_congr_left fun r _ => ?_))
      dsimp only [Function.comp_apply]
      split <;> rfl
    · intro r hr hseq
      change r ∈ (post ..).mram.chs.keep at hr
      rw [hstands.keep] at hr
      obtain ⟨y, -, rfl⟩ := List.mem_map.1 hr
      by_cases hy : y.seq = seq
      · rw [if_pos hy]
      · rw [if_neg hy] at hseq
        exact absurd hseq hy
  case lid =>
    intro s
    have hstands := chestStands_post 0x0E [] (chsUe 8 (s.setChs { s.mram.chs with lid := [] }))
    exact ⟨_, rfl, hstands.lid, hstands.flags 8 (by decide) (chsUe_bit (by decide) _)⟩
  case refuses => exact fun s => ⟨_, rfl, rfl⟩
  case accepts =>
    intro s hretired
    have hmany : ¬ 1024 - s.nand.chs.retired < 64 := by omega
    refine runs_next rfl (if_neg hmany) ?_
    cases hover : s.mram.chs.overflow with
    | none => exact ⟨rfl, hover, fun f n h => by cases h⟩
    | some x =>
      have htold := recsLost_told x.1 x.2 3 (({ s with chs := { s.chs with nandOk := true } } : State).setChs { s.mram.chs with overflow := none })
      refine ⟨htold.stands.nandOk, htold.stands.overflow, fun f n h => ?_⟩
      cases h
      exact ⟨htold.declared, htold.lost⟩

end Sys2Proof.Machine
end

section
/-!
PROOFS. Scope: the perturbation unit (R513 to R515).
-/

namespace Sys2Proof.Machine

/-! ### One bit of a word -/

/-- The word in three parts: what lies above bit `b`, the bit, what lies below. -/
theorem clrBit_put (b v : Nat) (on : Bool) :
    clrBit b v + (if on then 2 ^ b else 0) = 2 ^ b * (v / 2 ^ b / 2 * 2 + on.toNat) + v % 2 ^ b := by
  have hv := Nat.div_add_mod v (2 ^ b)
  have hon : (if on then 2 ^ b else 0) = 2 ^ b * on.toNat := by cases on <;> simp
  rw [hon, Nat.mul_add]
  unfold clrBit
  rw [Nat.testBit_eq_decide_div_mod_eq]
  generalize 2 ^ b = p at *
  by_cases h : v / p % 2 = 1
  · rw [if_pos (by simpa using h)]
    have hq : v / p = v / p / 2 * 2 + 1 := by omega
    have hp : p * (v / p) = p * (v / p / 2 * 2) + p := by nlinarith
    omega
  · rw [if_neg (by simpa using h)]
    have hq : v / p / 2 * 2 = v / p := by omega
    rw [hq]
    omega

/-- Putting a bit leaves every other bit as it was. -/
theorem testBit_clrBit_put (b v : Nat) (on : Bool) (k : Nat) :
    (clrBit b v + (if on then 2 ^ b else 0)).testBit k = if k = b then on else v.testBit k := by
  rw [clrBit_put, Nat.testBit_two_pow_mul_add _ (Nat.mod_lt _ (Nat.two_pow_pos b))]
  rcases Nat.lt_trichotomy k b with hlt | rfl | hgt
  · rw [if_pos hlt, if_neg hlt.ne, Nat.testBit_mod_two_pow, decide_eq_true hlt, Bool.true_and]
  · rw [if_neg (lt_irrefl k), if_pos rfl, Nat.sub_self, Nat.testBit_zero]
    cases on <;> simp
  · obtain ⟨j, rfl⟩ := Nat.exists_eq_add_of_lt hgt
    have hj : b + j + 1 - b = j + 1 := by omega
    have habove : (v / 2 ^ b / 2 * 2 + on.toNat) / 2 = v / 2 ^ b / 2 := by
      have := on.toNat_lt
      omega
    rw [if_neg (by omega), if_neg (by omega), hj, Nat.testBit_add_one, habove, ← Nat.testBit_add_one, Nat.testBit_div_two_pow]
    congr 1
    omega

theorem testBit_trunc {w k : Nat} (hk : k < w) (v : Nat) : (trunc w v).testBit k = v.testBit k := by
  rw [trunc, Nat.testBit_mod_two_pow, decide_eq_true hk, Bool.true_and]

/-! ### The actions' state shown (R513, R514) -/

theorem tstSync_rd {f : Fld} (ha : f.key ≠ fTST_STS_ACTIVE.key) (he : f.key ≠ fTST_STS_EN.key) (s : State) : (tstSync s).rd f = s.rd f :=
  (rd_wrB he _ _).trans (State.rd_wr_ne _ ha _)

theorem tstSync_en (s : State) : (tstSync s).rd fTST_STS_EN = if s.on fTST_CTL_EN then 1 else 0 := by
  have htrunc (b : Bool) : trunc fTST_STS_EN.w (if b then 1 else 0) = if b then 1 else 0 := by cases b <;> rfl
  exact (State.rd_wr ..).trans (htrunc _)

theorem laneSync_regs (p : Nat) (s : State) : RegsOut [0x06] s (laneSync p s) := by
  unfold laneSync
  split
  · exact regsOut_refl _ s
  next hp =>
    have hp : p < 32 := Nat.not_le.1 hp
    refine regsOut_wrB _ (regsOut_wr _ (regsOut_wrB _ (regsOut_wr _ (regsOut_wr _ (regsOut_refl _ s) ?_) ?_) ?_) ?_) ?_
    all_goals interval_cases p <;> decide

theorem lanesSync_regs (s : State) : RegsOut [0x06] s (lanesSync s) :=
  regsOut_foldl (regsOut_refl _ s) fun u p _ h f hf => (laneSync_regs p u f hf).trans (h f hf)

theorem laneSync_same {p : Part} (hp : p ≠ .regs) (k : Nat) (s : State) : p.same s (laneSync k s) :=
  same_of_kept (l := [.regs]) (by simpa using hp) (laneSync_kept k (Kept.refl _ s) rfl)

theorem lanesSync_same {p : Part} (hp : p ≠ .regs) (s : State) : p.same s (lanesSync s) :=
  same_of_kept (l := [.regs]) (by simpa using hp) (lanesSync_kept (Kept.refl _ s) rfl)

theorem tstSync_same {p : Part} (hp : p ≠ .regs) (s : State) : p.same s (tstSync s) :=
  same_of_kept (l := [.regs]) (by simpa using hp) (tstSync_kept (Kept.refl _ s) rfl)

/-! ### Actions start and stop (R514) -/

theorem action_eq_of_rd {s t : State} (hen : t.rd fTST_CTL_EN = s.rd fTST_CTL_EN) (hact : t.rd fTST_CTL_ACT_EN = s.rd fTST_CTL_ACT_EN) (k : Nat) :
    t.action k = s.action k := by
  unfold State.action
  rw [on_eq_of_rd hen, hact]

theorem action_of_off {s : State} (h : s.rd fTST_CTL_EN = 0) (k : Nat) : s.action k = false := by
  simp [State.action, State.on, h]

/-- LANE_STALL ends with its action. -/
def stallApplied (s : State) : State := if s.action 3 then s else lanesSync (s.setTst { s.tst with arm := none })

/-- EGR_BP begins with an ON phase. -/
def bpApplied (was : Nat → Bool) (s : State) : State :=
  if s.action 2 then (if was 2 then s else s.setTst { s.tst with bpStart := s.up, bpOn := true }) else s.setTst { s.tst with bpOn := false }

/-- CLOSE_SHIFT counts from its start. -/
def closeApplied (was : Nat → Bool) (s : State) : State :=
  if s.action 5 && !was 5 then s.setTst { s.tst with closeFrom := s.clv.now } else s

/-- ECC_INJECT has COUNT corruptions to make. -/
def eccApplied (was : Nat → Bool) (s : State) : State :=
  if s.action 6 then (if was 6 then s else s.wr fTST_ECC_STS_REMAIN (s.rd fTST_ECC_CFG_COUNT)) else s.wr fTST_ECC_STS_REMAIN 0

theorem tstApply_eq (was : Nat → Bool) (s : State) :
    tstApply was s = tstSync (eccApplied was (closeApplied was (bpApplied was (stallApplied s)))) := rfl

theorem stallApplied_rd {f : Fld} (hf : f.block ≠ 0x06) (s : State) : (stallApplied s).rd f = s.rd f :=
  rd_ite_of rfl (lanesSync_regs _ f (by simpa using hf))

theorem bpApplied_rd (was : Nat → Bool) (s : State) (f : Fld) : (bpApplied was s).rd f = s.rd f :=
  rd_ite_of (rd_ite_of rfl rfl) rfl

theorem closeApplied_rd (was : Nat → Bool) (s : State) (f : Fld) : (closeApplied was s).rd f = s.rd f := rd_ite_of rfl rfl

/-- The state in which the count of corruptions is set. -/
def timedApplied (was : Nat → Bool) (s : State) : State := closeApplied was (bpApplied was (stallApplied s))

theorem timedApplied_rd {f : Fld} (hf : f.block ≠ 0x06) (was : Nat → Bool) (s : State) : (timedApplied was s).rd f = s.rd f :=
  (closeApplied_rd ..).trans ((bpApplied_rd ..).trans (stallApplied_rd hf s))

theorem timedApplied_action (was : Nat → Bool) (s : State) (k : Nat) : (timedApplied was s).action k = s.action k :=
  action_eq_of_rd (timedApplied_rd (by decide) ..) (timedApplied_rd (by decide) ..) k

theorem tstApply_rd {f : Fld} (hf : f.block ≠ 0x06) (hr : f.key ≠ fTST_ECC_STS_REMAIN.key) (ha : f.key ≠ fTST_STS_ACTIVE.key)
    (he : f.key ≠ fTST_STS_EN.key) (was : Nat → Bool) (s : State) : (tstApply was s).rd f = s.rd f := by
  have htimed := timedApplied_rd hf was s
  rw [tstApply_eq, tstSync_rd ha he]
  exact (rd_ite_of (s := timedApplied was s) (rd_ite_of rfl (State.rd_wr_ne _ hr _)) (State.rd_wr_ne _ hr _)).trans htimed

theorem tstApply_en (was : Nat → Bool) (s : State) : (tstApply was s).rd fTST_STS_EN = if s.on fTST_CTL_EN then 1 else 0 := by
  have htimed := timedApplied_rd (f := fTST_CTL_EN) (by decide) was s
  have hecc : (eccApplied was (timedApplied was s)).rd fTST_CTL_EN = (timedApplied was s).rd fTST_CTL_EN :=
    rd_ite_of (rd_ite_of rfl (State.rd_wr_ne _ (by decide) _)) (State.rd_wr_ne _ (by decide) _)
  rw [tstApply_eq, tstSync_en]
  exact congrArg (fun b : Bool => if b then 1 else 0) (on_eq_of_rd (hecc.trans htimed))

theorem tstApply_remain (was : Nat → Bool) (s : State) :
    (tstApply was s).rd fTST_ECC_STS_REMAIN = (eccApplied was (timedApplied was s)).rd fTST_ECC_STS_REMAIN := by
  rw [tstApply_eq, tstSync_rd (by decide) (by decide)]
  rfl

/-- With EN clear no action goes on. -/
theorem tstApply_off {s : State} (h : s.rd fTST_CTL_EN = 0) (was : Nat → Bool) :
    (tstApply was s).tst.arm = none ∧ (tstApply was s).tst.bpOn = false ∧ (tstApply was s).rd fTST_ECC_STS_REMAIN = 0 := by
  have hoff := action_of_off h
  have hstall : stallApplied s = lanesSync (s.setTst { s.tst with arm := none }) := if_neg (by simp [hoff])
  have harm : (stallApplied s).tst.arm = none := by
    rw [hstall]
    exact congrArg Tst.arm (lanesSync_same (p := .tst) (by decide) _)
  have hbp : bpApplied was (stallApplied s) = (stallApplied s).setTst { (stallApplied s).tst with bpOn := false } :=
    if_neg (by rw [action_eq_of_rd (stallApplied_rd (by decide) s) (stallApplied_rd (by decide) s), hoff]; decide)
  have htimed : timedApplied was s = bpApplied was (stallApplied s) := by
    refine if_neg ?_
    rw [action_eq_of_rd (s := s) ((bpApplied_rd ..).trans (stallApplied_rd (by decide) s)) ((bpApplied_rd ..).trans (stallApplied_rd (by decide) s)), hoff]
    simp
  have hecc : eccApplied was (timedApplied was s) = (timedApplied was s).wr fTST_ECC_STS_REMAIN 0 :=
    if_neg (by rw [timedApplied_action, hoff]; decide)
  have htst : (tstApply was s).tst = (timedApplied was s).tst := by
    rw [tstApply_eq]
    exact ((tstSync_same (p := .tst) (by decide) _).trans (congrArg State.tst hecc) :)
  refine ⟨?_, ?_, ?_⟩
  · rw [htst, htimed, hbp]
    exact harm
  · rw [htst, htimed, hbp]
    rfl
  · rw [tstApply_remain, hecc]
    exact State.rd_wr ..

/-! ### Writes of TST_CTL (R513) -/

/-- TST_CTL as the words of its two fields. -/
def State.tstWord (s : State) : Nat := s.rd fTST_CTL_EN + 2 * s.rd fTST_CTL_ACT_EN

/-- The word with one bit put. -/
def State.tstWordWith (s : State) (b : Nat) (on : Bool) : Nat := clrBit b s.tstWord + (if on then 2 ^ b else 0)

/-- TST_CTL as a write stores it. -/
def tstStored (v : Nat) (s : State) : State := (s.wr fTST_CTL_EN v).wr fTST_CTL_ACT_EN (v / 2)

theorem tstStored_en (v : Nat) (s : State) : (tstStored v s).rd fTST_CTL_EN = v % 2 :=
  (State.rd_wr_ne _ (by decide) _).trans (State.rd_wr ..)

theorem tstStored_act (v : Nat) (s : State) : (tstStored v s).rd fTST_CTL_ACT_EN = v / 2 % 128 := State.rd_wr ..

/-- The state after a write, before the record of it is posted: EN is not set outside a SERVICE session. -/
def tstWritten (v : Nat) (s : State) : State :=
  if v % 2 = 1 && s.rd fBUR_BENCH_STS_LEVEL ≠ 2 then s.flag fTST_FLT_FLAGS 0 else tstApply s.action (tstStored v s)

theorem tstBit_eq (b : Nat) (on : Bool) (s : State) :
    ∃ payload, tstBit b on s = post 0x09 payload (tstWritten (s.tstWordWith b on) s) := ⟨_, rfl⟩

/-- The record of a write is the Chest's: the test unit keeps what the write has left. -/
theorem runs_tstBit {i : Instr} {b : Nat} {on : Bool} {s : State} (hi : exec i s = .next (tstBit b on s)) :
    Runs i s fun t => t.tst = (tstWritten (s.tstWordWith b on) s).tst ∧
      ∀ f : Fld, f.block = 0x12 → t.rd f = (tstWritten (s.tstWordWith b on) s).rd f := by
  obtain ⟨payload, hpost⟩ := tstBit_eq b on s
  exact runs_next hi hpost ⟨post_same (p := .tst) (by decide) .., fun f hf => post_rd _ _ _ (by rw [hf]; decide)⟩

theorem tstWritten_taken {v : Nat} {s : State} (h : v % 2 = 1 → s.rd fBUR_BENCH_STS_LEVEL = 2) :
    tstWritten v s = tstApply s.action (tstStored v s) := if_neg (by simpa using h)

theorem tstWritten_refused {v : Nat} {s : State} (hen : v % 2 = 1) (hlevel : s.rd fBUR_BENCH_STS_LEVEL ≠ 2) :
    tstWritten v s = s.flag fTST_FLT_FLAGS 0 := if_pos (by simpa using And.intro hen hlevel)

theorem tstApply_stored_en (was : Nat → Bool) (v : Nat) (s : State) : (tstApply was (tstStored v s)).rd fTST_CTL_EN = v % 2 :=
  (tstApply_rd (by decide) (by decide) (by decide) (by decide) ..).trans (tstStored_en v s)

theorem tstApply_stored_act (was : Nat → Bool) (v : Nat) (s : State) : (tstApply was (tstStored v s)).rd fTST_CTL_ACT_EN = v / 2 % 128 :=
  (tstApply_rd (by decide) (by decide) (by decide) (by decide) ..).trans (tstStored_act v s)

theorem tstWordWith_en (on : Bool) (s : State) : s.tstWordWith 0 on % 2 = if on then 1 else 0 := by
  have h := testBit_clrBit_put 0 s.tstWord on 0
  rw [if_pos rfl, Nat.testBit_zero] at h
  unfold State.tstWordWith
  cases on <;> simp_all

/-- A bit above EN is put alone. -/
theorem tstWordWith_bit (b : Nat) (on : Bool) (s : State) (h : s.rd fTST_CTL_EN ≤ 1) :
    s.tstWordWith (b + 1) on % 2 = s.rd fTST_CTL_EN ∧
      ∀ k, (s.tstWordWith (b + 1) on / 2).testBit k = if k = b then on else (s.rd fTST_CTL_ACT_EN).testBit k := by
  have hput := testBit_clrBit_put (b + 1) s.tstWord on
  have hen : s.tstWord % 2 = s.rd fTST_CTL_EN := by
    unfold State.tstWord
    omega
  have hact : s.tstWord / 2 = s.rd fTST_CTL_ACT_EN := by
    unfold State.tstWord
    omega
  refine ⟨?_, fun k => ?_⟩
  · have h0 := hput 0
    rw [if_neg (show ¬ 0 = b + 1 by omega), Nat.testBit_zero, Nat.testBit_zero, hen] at h0
    have : s.tstWordWith (b + 1) on % 2 = 1 ↔ s.rd fTST_CTL_EN = 1 := decide_eq_decide.1 h0
    omega
  · rw [← Nat.testBit_add_one, ← hact, ← Nat.testBit_add_one]
    exact (hput (k + 1)).trans (by simp)

/-- Setting or clearing EN leaves the actions' bits. -/
theorem tstWordWith_act (on : Bool) (s : State) (h : s.rd fTST_CTL_EN ≤ 1) : s.tstWordWith 0 on / 2 = s.rd fTST_CTL_ACT_EN := by
  refine Nat.eq_of_testBit_eq fun k => ?_
  rw [← Nat.testBit_add_one]
  refine (testBit_clrBit_put 0 s.tstWord on (k + 1)).trans ?_
  rw [if_neg (by omega), Nat.testBit_add_one]
  congr 1
  unfold State.tstWord
  omega

/-! ### Lane stalls (R514) -/

/-- The lanes' upkeep writes no fault. -/
theorem laneSync_flt (k p : Nat) (s : State) : (laneSync k s).rd (fLANE_FLT_FLAGS p) = s.rd (fLANE_FLT_FLAGS p) := by
  have hkey (lo w rst : Nat) (hlo : lo < 32) : (fLANE_FLT_FLAGS p).key ≠ (⟨rLANE_STS k, lo, w, rst⟩ : Fld).key := by
    dsimp only [Fld.key, rLANE_FLT, rLANE_STS]
    omega
  unfold laneSync
  split
  · rfl
  · rw [rd_wrB (hkey 24 1 0 (by decide)), State.rd_wr_ne _ (hkey 0 12 0 (by decide)), rd_wrB (hkey 12 1 0 (by decide)),
      State.rd_wr_ne _ (hkey 25 3 0 (by decide)), State.rd_wr_ne _ (hkey 28 3 0 (by decide))]

theorem lanesSync_flt (p : Nat) (s : State) : (lanesSync s).rd (fLANE_FLT_FLAGS p) = s.rd (fLANE_FLT_FLAGS p) :=
  foldl_keeps (·.rd (fLANE_FLT_FLAGS p)) (fun s k => laneSync_flt k p s) _ s

/-- An armed stall shows in the lane's faults where its mask names the lane. -/
def laneStopped (m : Nat) (s : State) (p : Nat) : State := if m.testBit p then s.flag (fLANE_FLT_FLAGS p) 3 else s

theorem laneStopped_bit {m q p : Nat} {s : State} (h : s.bit (fLANE_FLT_FLAGS p) 3 = true ∨ q = p ∧ m.testBit p = true) :
    (laneStopped m s q).bit (fLANE_FLT_FLAGS p) 3 = true := by
  have hw : 3 < (fLANE_FLT_FLAGS p).w := show 3 < 4 by decide
  unfold laneStopped
  by_cases hq : q = p
  · rw [hq]
    split
    · exact bit_flag_self hw s
    next hm => exact h.resolve_right fun h => hm h.2
  · have hs := h.resolve_right fun h => hq h.1
    have hkey : (fLANE_FLT_FLAGS p).key ≠ (fLANE_FLT_FLAGS q).key := by
      dsimp only [Fld.key, rLANE_FLT]
      omega
    split
    · exact (bit_eq_of_rd (rd_flag hkey ..) 3).trans hs
    · exact hs

theorem foldl_laneStopped_bit {m p : Nat} (hm : m.testBit p = true) {l : List Nat} {s : State}
    (h : p ∈ l ∨ s.bit (fLANE_FLT_FLAGS p) 3 = true) : (l.foldl (laneStopped m) s).bit (fLANE_FLT_FLAGS p) 3 = true := by
  induction l generalizing s with
  | nil => exact h.resolve_left List.not_mem_nil
  | cons q qs ih =>
    refine ih ?_
    rcases h with h | h
    · rcases List.mem_cons.1 h with rfl | h
      · exact Or.inr (laneStopped_bit (Or.inr ⟨rfl, hm⟩))
      · exact Or.inl h
    · exact Or.inr (laneStopped_bit (Or.inl h))

theorem foldl_laneStopped_tst (m : Nat) (l : List Nat) (s : State) : (l.foldl (laneStopped m) s).tst = s.tst := by
  refine foldl_keeps State.tst (fun s p => ?_) l s
  unfold laneStopped
  split <;> rfl

theorem laneStalled_of {s : State} {a : StallArm} (h : s.tst.arm = some a) (p : Nat) :
    s.laneStalled p = (a.on && decide (p < 32) && a.mask.testBit p) := by
  unfold State.laneStalled
  rw [h]

/-- The lanes and the test unit as the armed stalls stand. -/
theorem shown_flt (p : Nat) (s : State) : (tstSync (lanesSync s)).rd (fLANE_FLT_FLAGS p) = s.rd (fLANE_FLT_FLAGS p) := by
  have hkey (lo : Nat) (hlo : lo < 32) : (fLANE_FLT_FLAGS p).key ≠ rTST_STS * 32 + lo := by
    dsimp only [Fld.key, rLANE_FLT, rTST_STS]
    omega
  exact (tstSync_rd (hkey 1 (by decide)) (hkey 0 (by decide)) _).trans (lanesSync_flt p s)

theorem shown_tst (s : State) : (tstSync (lanesSync s)).tst = s.tst :=
  Part.same_trans (p := .tst) (lanesSync_same (by decide) s) (tstSync_same (by decide) _)

/-- The armed lanes stop, and their registers follow. -/
def lanesStopped (a : StallArm) (s : State) : State :=
  tstSync (lanesSync ((List.range 32).foldl (laneStopped a.mask) (s.setTst { s.tst with arm := some { a with on := true } })))

/-- The armed lanes go on; under REPEAT the arm waits again. -/
def lanesResumed (a : StallArm) (s : State) : State :=
  tstSync (lanesSync (s.setTst { s.tst with arm := if a.rep then some { a with on := false, start := none } else none }))

section Stall

variable {a : StallArm} {st : Nat} {s : State} (harm : s.tst.arm = some a) (hstart : a.start = some st)

include harm hstart

theorem exec_laneStallStart (hoff : a.on = false) (hdue : s.clv.now ≥ st) : exec .laneStallStart s = .next (lanesStopped a s) := by
  have hgo : ¬ (a.on || decide (s.clv.now < st)) = true := by simpa [hoff] using hdue
  have hexec : exec .laneStallStart s = execLaneStallStart s := rfl
  rw [hexec]
  unfold execLaneStallStart
  simp only [harm, hstart]
  rw [if_neg hgo, lanesStopped, hstart]
  rfl

theorem exec_laneStallEnd (hon : a.on = true) (hdue : s.clv.now ≥ st + a.durUs * 1000) : exec .laneStallEnd s = .next (lanesResumed a s) := by
  have hgo : ¬ (!a.on || decide (s.clv.now < st + a.durUs * 1000)) = true := by simpa [hon] using hdue
  have hexec : exec .laneStallEnd s = execLaneStallEnd s := rfl
  rw [hexec]
  unfold execLaneStallEnd
  simp only [harm, hstart]
  rw [if_neg hgo]
  rfl

end Stall

theorem lanesStopped_arm (a : StallArm) (s : State) : (lanesStopped a s).tst.arm = some { a with on := true } :=
  congrArg Tst.arm ((shown_tst _).trans (foldl_laneStopped_tst ..))

theorem lanesResumed_arm (a : StallArm) (s : State) :
    (lanesResumed a s).tst.arm = if a.rep then some { a with on := false, start := none } else none :=
  congrArg Tst.arm (shown_tst _)

/-! ### The obligation -/

/-- Settles O60: a write of one bit of TST_CTL, and each phase of an action, leave the test unit as its own lemma says. -/
theorem perturbationRows : Obligations.PerturbationRows := by
  refine ⟨fun s => ⟨fun hlevel => ?_, fun hlevel => ?_, ?_⟩, ?action, ?ecc, ?arm, ?start, ?stop, ?phase⟩
  · obtain ⟨t, ht, -, hrd⟩ := runs_tstBit (i := .tstEn true) (b := 0) (on := true) (s := s) rfl
    rw [tstWritten_taken fun _ => hlevel] at hrd
    have hen : (tstStored (s.tstWordWith 0 true) s).rd fTST_CTL_EN = 1 := (tstStored_en ..).trans (tstWordWith_en true s)
    refine ⟨t, ht, ?_, ?_, fun hold => ?_⟩
    · rw [hrd _ (by decide), tstApply_stored_en, tstWordWith_en]
      rfl
    · rw [hrd _ (by decide), tstApply_en]
      exact if_pos (by simp [State.on, hen])
    · rw [hrd _ (by decide), tstApply_stored_act, tstWordWith_act true s hold]
  · obtain ⟨t, ht, htst, hrd⟩ := runs_tstBit (i := .tstEn true) (b := 0) (on := true) (s := s) rfl
    rw [tstWritten_refused (tstWordWith_en true s) hlevel] at htst hrd
    exact ⟨t, ht, (hrd _ (by decide)).trans (rd_flag (by decide) ..), (bit_eq_of_rd (hrd _ (by decide)) 0).trans (bit_flag_self (by decide) s), htst⟩
  · obtain ⟨t, ht, htst, hrd⟩ := runs_tstBit (i := .tstEn false) (b := 0) (on := false) (s := s) rfl
    have heven : s.tstWordWith 0 false % 2 = 0 := tstWordWith_en false s
    rw [tstWritten_taken fun h => absurd h (by omega)] at htst hrd
    obtain ⟨harm, hbp, hremain⟩ := tstApply_off (s := tstStored (s.tstWordWith 0 false) s) ((tstStored_en ..).trans heven) s.action
    refine ⟨t, ht, ?_, ?_, ?_, ?_⟩
    · rw [hrd _ (by decide), tstApply_stored_en, heven]
    · rw [htst, harm]
    · rw [htst, hbp]
    · rw [hrd _ (by decide), hremain]
  case action =>
    intro x hx on s hlevel
    have hold : s.rd fTST_CTL_EN ≤ 1 := by omega
    have hrun : Runs (x.1 on) s fun t => t.tst = (tstWritten (s.tstWordWith (x.2 + 1) on) s).tst ∧
        ∀ f : Fld, f.block = 0x12 → t.rd f = (tstWritten (s.tstWordWith (x.2 + 1) on) s).rd f := by
      revert x
      repeat' refine List.forall_mem_cons.2 ⟨runs_tstBit rfl, ?_⟩
      exact List.forall_mem_nil _
    obtain ⟨hen, hbits⟩ := tstWordWith_bit x.2 on s hold
    obtain ⟨t, ht, -, hrd⟩ := hrun
    rw [tstWritten_taken fun h => (hlevel.resolve_left (by omega)).2] at hrd
    refine ⟨t, ht, ?_, fun k hk => ?_⟩
    · rw [hrd _ (by decide), tstApply_stored_en, hen]
    · rw [hrd _ (by decide), tstApply_stored_act, ← hbits k]
      exact testBit_trunc (w := 7) hk _
  case ecc =>
    intro s hen hlevel hwas
    obtain ⟨hen', hbits⟩ := tstWordWith_bit 5 true s (by omega)
    obtain ⟨t, ht, -, hrd⟩ := runs_tstBit (i := .eccInject true) (b := 6) (on := true) (s := s) rfl
    rw [tstWritten_taken fun _ => hlevel] at hrd
    refine ⟨t, ht, ?_⟩
    have hnow : (timedApplied s.action (tstStored (s.tstWordWith 6 true) s)).action 6 = true := by
      have hact : (s.tstWordWith 6 true / 2 % 128).testBit 5 = true := (testBit_trunc (w := 7) (by decide) _).trans (hbits 5)
      rw [timedApplied_action]
      simp [State.action, State.on, tstStored_en, tstStored_act, hen', hen, hact]
    have hbefore : s.action 6 = false := by simp [State.action, hwas]
    have hecc : eccApplied s.action (timedApplied s.action (tstStored (s.tstWordWith 6 true) s)) =
        (timedApplied s.action (tstStored (s.tstWordWith 6 true) s)).wr fTST_ECC_STS_REMAIN
          ((timedApplied s.action (tstStored (s.tstWordWith 6 true) s)).rd fTST_ECC_CFG_COUNT) :=
      (if_pos hnow).trans (if_neg (by simp [hbefore]))
    have hcount : (tstStored (s.tstWordWith 6 true) s).rd fTST_ECC_CFG_COUNT = s.rd fTST_ECC_CFG_COUNT :=
      (State.rd_wr_ne _ (by decide) _).trans (State.rd_wr_ne _ (by decide) _)
    have hremain := hrd fTST_ECC_STS_REMAIN (by decide)
    rw [tstApply_remain] at hremain
    refine hremain.trans ((congrArg (·.rd fTST_ECC_STS_REMAIN) hecc).trans ((State.rd_wr ..).trans ?_))
    rw [timedApplied_rd (by decide), hcount]
    rfl
  case arm =>
    intro s hact hfree
    have hgo : ¬ (!s.action 3 || (match s.tst.arm with | some a => a.on | none => false)) = true := by
      cases harm : s.tst.arm with
      | none => simp [hact]
      | some a => simp [hact, hfree a harm]
    exact runs_next rfl (if_neg hgo) ⟨_, rfl, rfl, rfl, rfl, Iff.rfl⟩
  case start =>
    intro a st s harm hstart hoff hdue
    refine ⟨_, exec_laneStallStart harm hstart hoff hdue, lanesStopped_arm a s, fun p hp hm => ⟨?_, ?_⟩⟩
    · exact (bit_eq_of_rd (shown_flt p _) 3).trans (foldl_laneStopped_bit hm (Or.inl (List.mem_range.2 hp)))
    · exact (laneStalled_of (lanesStopped_arm a s) p).trans (by simp [hp, hm])
  case stop =>
    intro a st s harm hstart hon hdue
    refine ⟨_, exec_laneStallEnd harm hstart hon hdue, lanesResumed_arm a s, fun p _ => ?_⟩
    unfold State.laneStalled
    rw [lanesResumed_arm]
    cases a.rep <;> rfl
  case phase =>
    intro s hact
    have hgo : ¬ (!s.action 2) = true := by simp [hact]
    refine ⟨fun hper => ?_, fun hper hdue => ?_, fun hper hdue hbp hon => ?_⟩
    · refine runs_next rfl ((if_neg hgo).trans (if_pos (by simp [hper]))) ?_
      exact congrArg Tst.bpOn (tstSync_same (p := .tst) (by decide) _)
    · refine runs_next rfl ((if_neg hgo).trans ((if_neg (by omega)).trans (if_pos hdue))) ?_
      have htst := tstSync_same (p := .tst) (by decide) (s.setTst { s.tst with
        bpStart := s.tst.bpStart + s.rd fTST_EBP_PER_PERIOD_US * 1000, bpOn := true })
      exact ⟨congrArg Tst.bpOn htst, congrArg Tst.bpStart htst⟩
    · refine runs_next rfl ((if_neg hgo).trans ((if_neg (by omega)).trans ((if_neg (by omega)).trans (if_pos (by simp [hbp, hon]))))) ?_
      have htst := tstSync_same (p := .tst) (by decide) (s.setTst { s.tst with bpOn := false })
      exact ⟨congrArg Tst.bpOn htst, (congrArg Tst.bpStart htst :)⟩

end Sys2Proof.Machine
end

section
/-!
PROOFS. Scope: the Bureau's entries, tamper, the zeroize journal and key memory errors (R383, R385, R388, R392, R393).
-/

namespace Sys2Proof.Machine

/-! ### Entries (R375) -/

theorem key_eq_of {s t : State} (h : t.bur.ents = s.bur.ents) (i : Nat) : t.key i = s.key i := by
  unfold State.key
  rw [h]

theorem key_setKey_self (s : State) (i : Nat) (k : KeyEnt) : (s.setKey i k).key i = k := smGet_smSet_self ..

theorem key_setKey_ne (s : State) {i j : Nat} (h : j ≠ i) (k : KeyEnt) : (s.setKey i k).key j = s.key j := smGet_smSet_ne _ _ _ _ h

/-! ### The registers that show the entries -/

/-- The fields that BUR_STS, BUR_WORK_STS and the level of the Bench take from the entries. -/
def burShown : List Nat :=
  [fBUR_STS_VALID.key, fBUR_STS_INVALID.key, fBUR_STS_ROOTS.key, fBUR_WORK_STS_VALID.key, fBUR_WORK_STS_PENDING.key, fBUR_WORK_STS_ENTRY.key,
    fBUR_BENCH_STS_LEVEL.key]

theorem burSync_rd {f : Fld} (hf : f.key ∉ burShown) (s : State) : (burSync s).rd f = s.rd f := by
  simp only [burShown, List.mem_cons, List.not_mem_nil, or_false, not_or] at hf
  obtain ⟨hvalid, hinvalid, hroots, hwValid, hwPending, hwEntry, -⟩ := hf
  unfold burSync
  dsimp only
  split
  · rw [State.rd_wr_ne _ hwEntry, rd_wrB hwPending, rd_wrB hwValid, State.rd_wr_ne _ hroots, State.rd_wr_ne _ hinvalid, State.rd_wr_ne _ hvalid]
  · rw [State.rd_wr_ne _ hwEntry, State.rd_wr_ne _ hwPending, State.rd_wr_ne _ hwValid, State.rd_wr_ne _ hroots, State.rd_wr_ne _ hinvalid,
      State.rd_wr_ne _ hvalid]

theorem burSync_same {p : Part} (hp : p ≠ .regs) (s : State) : p.same s (burSync s) :=
  same_of_kept (l := [.regs]) (by simpa using hp) (burSync_kept (Kept.refl _ s) rfl)

/-! ### What an invalidation ends: the link under the key, the session it admitted (R383, R395, R402) -/

theorem sendHello_regs (s : State) : (sendHello s).regs = s.regs := rfl

theorem seek_regs {o s : State} (h : RegsOut abdBlocks o s) : RegsOut abdBlocks o (seek s) := by
  have hrole := setRole_regs roleSeeking h
  have hkey : RegsOut abdBlocks o (if (setRole roleSeeking s).pairKey?.isNone then (setRole roleSeeking s).flag fPAIR_FLT_FLAGS 3
      else setRole roleSeeking s) := regsOut_ite (regsOut_flag _ hrole (by decide)) hrole
  unfold seek
  dsimp only
  exact regsOut_regs hkey (sendHello_regs _)

theorem linkLost_regs {o s : State} (cause : Nat) (h : RegsOut abdBlocks o s) : RegsOut abdBlocks o (linkLost cause s) := by
  unfold linkLost
  refine regsOut_ite h ?_
  dsimp only
  have hdown := post_regs (B := abdBlocks) (o := o) (by decide) (by decide) 0xA1 (le 1 cause ++ le 3 0 ++ le 8 s.pair.lastTick)
    (regsOut_flag (f := fPAIR_FLT_FLAGS) 2 (regsOut_wrB (f := fPAIR_STS_LANE_B) false (regsOut_wrB (f := fPAIR_STS_LANE_A) false
      (regsOut_wrB (f := fPAIR_STS_PARTNER_READY) false (regsOut_wrB (f := fPAIR_STS_PARTNER_FIT) false
        (regsOut_wrB (f := fPAIR_STS_PARTNER_UP) false (regsOut_regs (t := s.setPair { s.pair with
          authed := false, key := none, sessKey := 0, helloIn := none, hbAt := none, hbTick := [none, none] }) h rfl)
          (by decide)) (by decide)) (by decide)) (by decide)) (by decide)) (by decide))
  exact regsOut_ite (joinFail_regs _ hdown) (regsOut_ite (seek_regs (regsOut_regs hdown rfl)) (regsOut_ite (regsOut_regs hdown rfl)
    (regsOut_regs hdown rfl)))

theorem tstDisable_rd {f : Fld} (hf : f.block ≠ 0x06 ∧ f.block ≠ 0x12) (s : State) : (tstDisable s).rd f = s.rd f := by
  obtain ⟨hlane, htst⟩ := hf
  have hkey {g : Fld} (hg : g.block = 0x12) : f.key ≠ g.key := fun e => htst (by rw [← hg, Fld.block, Fld.block, e])
  unfold tstDisable
  refine rd_ite_of ((rd_flag (hkey (by decide)) ..).trans ?_) rfl
  exact (tstApply_rd hlane (hkey (by decide)) (hkey (by decide)) (hkey (by decide)) ..).trans (State.rd_wr_ne _ (hkey (by decide)) _)

theorem benchView_rd {f : Fld} (hf : f.block ≠ 0x06 ∧ f.block ≠ 0x12) (hlevel : f.key ≠ fBUR_BENCH_STS_LEVEL.key) (s : State) :
    (benchView s).rd f = s.rd f := by
  have hview : ({ (s.wr fBUR_BENCH_STS_LEVEL 0) with bench := { s.bench with key := none } } : State).rd f = s.rd f :=
    State.rd_wr_ne s hlevel 0
  unfold benchView
  exact rd_ite_of ((tstDisable_rd hf _).trans hview) hview

/-! ### Entries fall (R383) -/

/-- One entry falls. -/
def keyFall (s : State) (i : Nat) : State :=
  if (s.key i).st = keyFree || (s.key i).st = keyInvalid then s
  else cacheDrop i (s.setKey i { s.key i with st := keyInvalid, material := 0, reserved := 0, since := s.bur.order })

/-- KEY_WORK is cleared where it falls. -/
def workFall (l : List Nat) (s : State) : State :=
  match s.bur.work with
  | some w => if l.contains w then s.setBur { s.bur with work := none } else s
  | none => s

/-- The session that a fallen entry admitted is back at VIEW. -/
def benchFall (l : List Nat) (s : State) : State :=
  match s.bench.key with
  | some b => if l.contains b then benchView s else s
  | none => s

/-- The link under a fallen key is lost. -/
def linkFall (l : List Nat) (s : State) : State :=
  match s.pair.key with
  | some p => if l.contains p then linkLost 3 s else s
  | none => s

theorem invalidateNow_eq (l : List Nat) (s : State) :
    invalidateNow l s = burSync (linkFall l (benchFall l (workFall l (l.foldl keyFall (s.setBur { s.bur with order := s.bur.order + 1 }))))) := rfl

/-- What the fall of entries leaves of the Bureau's data beside them. -/
structure BurStands (s t : State) : Prop where
  gen : t.bur.gen = s.bur.gen
  slot : t.bur.slot = s.bur.slot
  journalDue : t.bur.journalDue = s.bur.journalDue
  effect : t.bur.effect = s.bur.effect
  work : s.bur.work = none → t.bur.work = none
  cache : s.bur.cache = [] → t.bur.cache = []

theorem BurStands.trans {s t u : State} (h : BurStands s t) (k : BurStands t u) : BurStands s u :=
  ⟨k.gen.trans h.gen, k.slot.trans h.slot, k.journalDue.trans h.journalDue, k.effect.trans h.effect, fun e => k.work (h.work e),
    fun e => k.cache (h.cache e)⟩

theorem burStands_of_eq {s t : State} (h : t.bur = s.bur) : BurStands s t := by
  refine ⟨?_, ?_, ?_, ?_, ?_, ?_⟩
  all_goals rw [h]
  all_goals exact id

theorem keyFall_stands (s : State) (i : Nat) : BurStands s (keyFall s i) := by
  unfold keyFall
  split
  · exact burStands_of_eq rfl
  · exact ⟨rfl, rfl, rfl, rfl, id, fun h => by simp [cacheDrop, State.setBur, State.setKey, h]⟩

theorem keyFall_key (s : State) (i j : Nat) : (keyFall s i).key j =
    if i = j ∧ (s.key i).st ≠ keyFree ∧ (s.key i).st ≠ keyInvalid then
      { s.key i with st := keyInvalid, material := 0, reserved := 0, since := s.bur.order }
    else s.key j := by
  unfold keyFall
  by_cases hgone : (s.key i).st = keyFree ∨ (s.key i).st = keyInvalid
  · rw [if_pos (by simpa using hgone), if_neg (by tauto)]
  · rw [if_neg (by simpa using hgone)]
    have hdrop (u : State) : (cacheDrop i u).key j = u.key j := rfl
    rw [hdrop]
    by_cases hj : i = j
    · rw [if_pos (by tauto), ← hj, key_setKey_self]
    · rw [if_neg (by tauto), key_setKey_ne _ (Ne.symm hj)]

/-- Entries of the list have fallen; all others are as they were. -/
structure Fallen (l : List Nat) (s t : State) : Prop where
  stands : BurStands s t
  out : ∀ i, i ∉ l → t.key i = s.key i
  gone : ∀ i, (s.key i).st = keyFree ∨ (s.key i).st = keyInvalid → t.key i = s.key i
  fell : ∀ i ∈ l, (s.key i).st ≠ keyFree → (s.key i).st ≠ keyInvalid → (t.key i).st = keyInvalid ∧ (t.key i).material = 0

theorem Fallen.invalid {l : List Nat} {s t : State} (h : Fallen l s t) {i : Nat} (hi : i ∈ l) (hfree : (s.key i).st ≠ keyFree) :
    (t.key i).st = keyInvalid ∧ ((s.key i).st ≠ keyInvalid → (t.key i).material = 0) := by
  by_cases hinv : (s.key i).st = keyInvalid
  · exact ⟨(congrArg KeyEnt.st (h.gone i (Or.inr hinv))).trans hinv, fun hne => absurd hinv hne⟩
  · exact ⟨(h.fell i hi hfree hinv).1, fun _ => (h.fell i hi hfree hinv).2⟩

theorem Fallen.of_bur {l : List Nat} {s t u : State} (h : Fallen l s t) (hents : u.bur.ents = t.bur.ents) (hstands : BurStands t u) :
    Fallen l s u := by
  refine ⟨h.stands.trans hstands, ?_, ?_, ?_⟩
  · exact fun i hi => (key_eq_of hents i).trans (h.out i hi)
  · exact fun i hi => (key_eq_of hents i).trans (h.gone i hi)
  · intro i hi
    rw [key_eq_of hents i]
    exact h.fell i hi

theorem foldl_keyFall (l : List Nat) (s : State) : Fallen l s (l.foldl keyFall s) := by
  induction l generalizing s with
  | nil => exact ⟨burStands_of_eq rfl, fun _ _ => rfl, fun _ _ => rfl, fun i hi => absurd hi List.not_mem_nil⟩
  | cons x xs ih =>
    have h := ih (keyFall s x)
    have hkey := keyFall_key s x
    refine ⟨(keyFall_stands s x).trans h.stands, fun i hi => ?_, fun i hi => ?_, fun i hi hfree hinv => ?_⟩
    · obtain ⟨hx, hxs⟩ := not_or.1 (mt List.mem_cons.2 hi)
      exact (h.out i hxs).trans ((hkey i).trans (if_neg fun k => hx k.1.symm))
    · have hsame : (keyFall s x).key i = s.key i := (hkey i).trans (if_neg fun ⟨e, hf, hv⟩ => hi.elim (e ▸ hf) (e ▸ hv))
      exact (h.gone i (hsame ▸ hi)).trans hsame
    · by_cases hx : x = i
      · subst hx
        have hfell := (hkey x).trans (if_pos ⟨rfl, hfree, hinv⟩)
        have hst : ((keyFall s x).key x).st = keyInvalid := congrArg KeyEnt.st hfell
        rw [List.foldl_cons, h.gone x (Or.inr hst), hfell]
        exact ⟨rfl, rfl⟩
      · have hsame : (keyFall s x).key i = s.key i := (hkey i).trans (if_neg fun k => hx k.1)
        exact h.fell i ((List.mem_cons.1 hi).resolve_left (Ne.symm hx)) (hsame ▸ hfree) (hsame ▸ hinv)

theorem workFall_stands (l : List Nat) (s : State) : BurStands s (workFall l s) ∧ (workFall l s).bur.ents = s.bur.ents := by
  unfold workFall
  split
  · split
    · exact ⟨⟨rfl, rfl, rfl, rfl, fun _ => rfl, id⟩, rfl⟩
    · exact ⟨burStands_of_eq rfl, rfl⟩
  · exact ⟨burStands_of_eq rfl, rfl⟩

theorem benchFall_same {p : Part} (hp : p ∉ [Part.regs, .bench, .tst]) (l : List Nat) (s : State) : p.same s (benchFall l s) := by
  have hrefl : p.same s s := (Kept.refl 0 s).2.2.same p (Nat.zero_testBit _)
  unfold benchFall
  split
  · split
    · exact same_of_kept hp (benchView_kept (Kept.refl _ s) rfl)
    · exact hrefl
  · exact hrefl

theorem linkFall_same {p : Part} (hp : p ∉ [Part.regs, .chs, .snr, .pair, .pmc, .mramChs, .fv, .out]) (l : List Nat) (s : State) :
    p.same s (linkFall l s) := by
  have hrefl : p.same s s := (Kept.refl 0 s).2.2.same p (Nat.zero_testBit _)
  unfold linkFall
  split
  · split
    · exact same_of_kept hp (linkLost_kept 3 (Kept.refl _ s) rfl)
    · exact hrefl
  · exact hrefl

/-- The entries of the list fall at once; what they admitted ends, which is not the Bureau's data. -/
theorem invalidateNow_fallen (l : List Nat) (s : State) : Fallen l s (invalidateNow l s) := by
  rw [invalidateNow_eq]
  have h0 : Fallen l s (l.foldl keyFall (s.setBur { s.bur with order := s.bur.order + 1 })) := by
    have h := foldl_keyFall l (s.setBur { s.bur with order := s.bur.order + 1 })
    have horder : BurStands s (s.setBur { s.bur with order := s.bur.order + 1 }) := ⟨rfl, rfl, rfl, rfl, id, id⟩
    exact ⟨horder.trans h.stands, h.out, h.gone, h.fell⟩
  generalize l.foldl keyFall _ = u at h0
  obtain ⟨hwork, hents⟩ := workFall_stands l u
  have h1 := h0.of_bur hents hwork
  generalize workFall l u = v at h1
  have h2 : (burSync (linkFall l (benchFall l v))).bur = v.bur :=
    Part.same_trans (p := .bur) (benchFall_same (by decide) l v) (Part.same_trans (p := .bur) (linkFall_same (by decide) l _)
      (burSync_same (by decide) _))
  exact h1.of_bur (congrArg Bur.ents h2) (burStands_of_eq h2)

theorem invalidateNow_same {p : Part} (hp : p ∉ [Part.regs, .chs, .snr, .pair, .bur, .bench, .pmc, .tst, .mramChs, .fv, .out]) (l : List Nat)
    (s : State) : p.same s (invalidateNow l s) := same_of_kept hp (invalidateNow_kept l (Kept.refl _ s) rfl)

/-- The blocks that the fall of entries writes to beside the Bureau's own. -/
def fallBlocks : List Nat := [0x06, 0x12] ++ abdBlocks

theorem invalidateNow_rd {f : Fld} (hf : f.key ∉ burShown) (hb : f.block ∉ fallBlocks) (l : List Nat) (s : State) :
    (invalidateNow l s).rd f = s.rd f := by
  have htst : f.block ≠ 0x06 ∧ f.block ≠ 0x12 := by
    simp only [fallBlocks, List.mem_append, List.mem_cons, not_or] at hb
    tauto
  have habd : f.block ∉ abdBlocks := fun h => hb (List.mem_append_right _ h)
  have hlevel : f.key ≠ fBUR_BENCH_STS_LEVEL.key := fun e => hf (by simp [burShown, e])
  have hfold (l' : List Nat) (u : State) : (l'.foldl keyFall u).rd f = u.rd f := by
    refine foldl_keeps (·.rd f) (fun u i => ?_) l' u
    unfold keyFall
    split <;> rfl
  have hwork (u : State) : (workFall l u).rd f = u.rd f := by
    unfold workFall
    split
    · exact rd_ite_of rfl rfl
    · rfl
  have hbench (u : State) : (benchFall l u).rd f = u.rd f := by
    unfold benchFall
    split
    · exact rd_ite_of (benchView_rd htst hlevel u) rfl
    · rfl
  have hlink (u : State) : (linkFall l u).rd f = u.rd f := by
    unfold linkFall
    split
    · exact rd_ite_of (linkLost_regs 3 (regsOut_refl _ u) f habd) rfl
    · rfl
  rw [invalidateNow_eq, burSync_rd hf, hlink, hbench, hwork, hfold]
  rfl

/-! ### The journal (R385) -/

/-- The journal's copy of the entries as they stand. -/
def journalOf (s : State) : List (Nat × KeyEnt) := s.bur.ents.map fun e => (e.1, journalEnt (s.bur.order + 1) e.2)

theorem journalWrite_bur (s : State) : (journalWrite s).bur = { s.bur with slot := 1 - s.bur.slot, gen := s.bur.gen + 1 } := rfl

theorem journalWrite_mramBur (s : State) : (journalWrite s).mram.bur =
    { s.mram.bur with slots := s.mram.bur.slots.set (1 - s.bur.slot) (some ⟨s.bur.gen + 1, true, journalOf s⟩) } := rfl

theorem journalWrite_key (s : State) (i : Nat) : (journalWrite s).key i = s.key i := rfl

/-- The fields that a journal write shows. -/
def journalShown : List Nat := [fBUR_GEN_LO_G_LO.key, (liveHi fBUR_GEN_LO_G_LO).key, fBUR_JRN_STS_SLOT.key]

theorem journalWrite_rd {f : Fld} (hf : f.key ∉ journalShown) (s : State) : (journalWrite s).rd f = s.rd f := by
  simp only [journalShown, List.mem_cons, List.not_mem_nil, or_false, not_or] at hf
  obtain ⟨hlo, hhi, hslot⟩ := hf
  exact (State.rd_wr_ne _ hslot _).trans (rd_wr64_ne hlo hhi _ _)

/-- Two writes reach both slots. -/
theorem zeroizeJournal_slots {s : State} (hslot : s.bur.slot ≤ 1) (hslots : s.mram.bur.slots.length = 2) :
    ∀ i < 2, ∃ g, (zeroizeJournal s).mram.bur.slots.getD i none = some ⟨g, true, journalOf s⟩ := by
  have heq : (zeroizeJournal s).mram.bur.slots = (s.mram.bur.slots.set (1 - s.bur.slot) (some ⟨s.bur.gen + 1, true, journalOf s⟩)).set
      (1 - (1 - s.bur.slot)) (some ⟨s.bur.gen + 1 + 1, true, journalOf s⟩) := rfl
  have hback : 1 - (1 - s.bur.slot) = s.bur.slot := by omega
  intro i hi
  rw [heq, hback, List.getD_eq_getElem?_getD]
  by_cases h : i = s.bur.slot
  · rw [h, List.getElem?_set_self (by rw [List.length_set]; omega)]
    exact ⟨_, rfl⟩
  · have hother : 1 - s.bur.slot = i := by omega
    rw [List.getElem?_set_ne (Ne.symm h), hother, List.getElem?_set_self (by omega)]
    exact ⟨_, rfl⟩

/-! ### Zeroize (R393) -/

/-- The entries that a zeroize makes INVALID. -/
def State.zeroized (s : State) : List Nat := s.domainTree.filter fun i => (s.key i).st ≠ keyInvalid

/-- The Bureau as a zeroize clears it, before the entries fall. -/
def zeroizeBegun (s : State) : State := s.setBur { s.bur with work := none, cache := [], journalDue := true }

/-- What a zeroize leaves: both caches of keys are empty, every entry of the tree is gone, and its journal is due. -/
structure Zeroized (s t : State) : Prop where
  mark : t.mram.bur = { s.mram.bur with zeroMark := true }
  fallen : Fallen s.zeroized (zeroizeBegun s) t
  rd : ∀ f : Fld, f.key ∉ burShown → f.block ∉ fallBlocks → f.key ≠ fBUR_FLT_FLAGS.key → t.rd f = s.rd f
  flags : ∀ b < fBUR_FLT_FLAGS.w, s.bit fBUR_FLT_FLAGS b = true → t.bit fBUR_FLT_FLAGS b = true

/-- A zeroize whose entries have fallen: marked and shown. -/
def zeroizeShown (s : State) : State := (burSync (s.setBurM { s.mram.bur with zeroMark := true })).flag fBUR_FLT_FLAGS 1

theorem zeroize_eq (s : State) :
    ∃ payload, zeroize s = post 0x97 payload (zeroizeShown (invalidateNow s.zeroized (zeroizeBegun s))) := ⟨_, rfl⟩

theorem zeroizeShown_effect (s : State) : (zeroizeShown s).bur = s.bur ∧ (zeroizeShown s).mram.bur = { s.mram.bur with zeroMark := true } ∧
    (∀ f : Fld, f.key ∉ burShown → f.key ≠ fBUR_FLT_FLAGS.key → (zeroizeShown s).rd f = s.rd f) ∧
    ∀ b < fBUR_FLT_FLAGS.w, s.bit fBUR_FLT_FLAGS b = true → (zeroizeShown s).bit fBUR_FLT_FLAGS b = true := by
  unfold zeroizeShown
  have hbur : (burSync (s.setBurM { s.mram.bur with zeroMark := true })).bur = s.bur := burSync_same (p := .bur) (by decide) _
  have hmram : (burSync (s.setBurM { s.mram.bur with zeroMark := true })).mram.bur = { s.mram.bur with zeroMark := true } :=
    burSync_same (p := .mramBur) (by decide) _
  have hrd {f : Fld} (hf : f.key ∉ burShown) : (burSync (s.setBurM { s.mram.bur with zeroMark := true })).rd f = s.rd f := burSync_rd hf _
  generalize burSync _ = u at hbur hmram hrd
  exact ⟨hbur, hmram, fun f hf hflt => (rd_flag hflt ..).trans (hrd hf),
    fun b hb hs => bit_flag_of hb ((bit_eq_of_rd (hrd (by decide)) b).trans hs) 1⟩

theorem zeroize_zeroized (s : State) : Zeroized s (zeroize s) := by
  have hfallen := invalidateNow_fallen s.zeroized (zeroizeBegun s)
  have hmram : (invalidateNow s.zeroized (zeroizeBegun s)).mram.bur = s.mram.bur := invalidateNow_same (p := .mramBur) (by decide) ..
  have hrd {f : Fld} (hf : f.key ∉ burShown) (hb : f.block ∉ fallBlocks) : (invalidateNow s.zeroized (zeroizeBegun s)).rd f = s.rd f :=
    invalidateNow_rd hf hb ..
  obtain ⟨payload, heq⟩ := zeroize_eq s
  rw [heq]
  generalize invalidateNow s.zeroized (zeroizeBegun s) = u at hfallen hmram hrd
  obtain ⟨hbur, hmark, hrest, hflags⟩ := zeroizeShown_effect u
  have hpost : (post 0x97 payload (zeroizeShown u)).bur = u.bur := (post_same (p := .bur) (by decide) ..).trans hbur
  refine ⟨?_, hfallen.of_bur (congrArg Bur.ents hpost) (burStands_of_eq hpost), fun f hf hb hflt => ?_, fun b hb hs => ?_⟩
  · rw [post_mramBur, hmark, hmram]
  · have hblock : f.block ≠ 0x0C ∧ f.block ≠ 0x0D := by
      simp only [fallBlocks, abdBlocks, List.mem_append, List.mem_cons, not_or] at hb
      tauto
    exact (post_rd _ _ _ hblock).trans ((hrest f hf hflt).trans (hrd hf hb))
  · refine (bit_eq_of_rd (post_rd _ _ _ (by decide)) b).trans (hflags b hb ?_)
    exact (bit_eq_of_rd (hrd (by decide) (by decide)) b).trans hs

/-! ### Tamper (R392) -/

/-- A tamper event counted, stamped and told. -/
def tamperTold (ns32 : Nat) (s : State) : State :=
  let ev := satAdd 16 s.mram.bur.tamper 1
  let u := ((s.setBurM { s.mram.bur with tamper := ev }).wr fBUR_TAMPER_STS_EVENTS ev |>.wr fBUR_TAMPER_TIME_NS32 ns32).flag fBUR_FLT_FLAGS 0
  post 0x96 (le 2 ev ++ le 1 (u.rd fBUR_TAMPER_CFG_ACTION) ++ le 1 0 ++ le 4 ns32) u

theorem tamperEvent_eq (ns32 : Nat) (s : State) :
    tamperEvent ns32 s = if s.rd fBUR_TAMPER_CFG_ACTION = 1 then zeroize (tamperTold ns32 s) else tamperTold ns32 s := by
  have hact (ev : Nat) : ((((s.setBurM { s.mram.bur with tamper := ev }).wr fBUR_TAMPER_STS_EVENTS ev).wr fBUR_TAMPER_TIME_NS32 ns32).flag
      fBUR_FLT_FLAGS 0).rd fBUR_TAMPER_CFG_ACTION = s.rd fBUR_TAMPER_CFG_ACTION := by
    rw [rd_flag (by decide), State.rd_wr_ne _ (by decide), State.rd_wr_ne _ (by decide)]
    rfl
  unfold tamperEvent tamperTold
  dsimp only
  rw [hact]

/-- What the event alone leaves. -/
structure TamperShown (ns32 : Nat) (s t : State) : Prop where
  level : t.rd fBUR_TAMPER_STS_LEVEL = s.rd fBUR_TAMPER_STS_LEVEL
  events : t.rd fBUR_TAMPER_STS_EVENTS = satAdd 16 s.mram.bur.tamper 1
  time : t.rd fBUR_TAMPER_TIME_NS32 = ns32 % 2 ^ 32
  flag : t.bit fBUR_FLT_FLAGS 0 = true
  count : t.mram.bur.tamper = satAdd 16 s.mram.bur.tamper 1

theorem trunc_satAdd (w a b : Nat) : trunc w (satAdd w a b) = satAdd w a b := by
  have := Nat.two_pow_pos w
  exact Nat.mod_eq_of_lt (by unfold satAdd; omega)

theorem tamperTold_shown (ns32 : Nat) (s : State) : TamperShown ns32 s (tamperTold ns32 s) ∧ (tamperTold ns32 s).bur = s.bur := by
  unfold tamperTold
  dsimp only
  refine ⟨⟨?_, ?_, ?_, ?_, ?_⟩, post_same (p := .bur) (by decide) ..⟩
  · rw [post_rd _ _ _ (by decide), rd_flag (by decide), State.rd_wr_ne _ (by decide), State.rd_wr_ne _ (by decide)]
    rfl
  · rw [post_rd _ _ _ (by decide), rd_flag (by decide), State.rd_wr_ne _ (by decide), State.rd_wr]
    exact trunc_satAdd 16 _ _
  · rw [post_rd _ _ _ (by decide), rd_flag (by decide), State.rd_wr]
    rfl
  · exact (bit_eq_of_rd (post_rd _ _ _ (by decide)) 0).trans (bit_flag_self (by decide) _)
  · rw [post_mramBur]
    rfl

theorem TamperShown.zeroized {ns32 : Nat} {s t u : State} (h : TamperShown ns32 s t) (k : Zeroized t u) : TamperShown ns32 s u := by
  refine ⟨?_, ?_, ?_, k.flags 0 (by decide) h.flag, ?_⟩
  · exact (k.rd _ (by decide) (by decide) (by decide)).trans h.level
  · exact (k.rd _ (by decide) (by decide) (by decide)).trans h.events
  · exact (k.rd _ (by decide) (by decide) (by decide)).trans h.time
  · rw [k.mark]
    exact h.count

/-- Every entry below the roots is INVALID after a zeroize; the roots are as they were. -/
theorem Zeroized.keys {s t : State} (h : Zeroized s t) :
    (∀ i ∈ s.domainTree, (s.key i).st ≠ keyFree → (t.key i).st = keyInvalid ∧ ((s.key i).st ≠ keyInvalid → (t.key i).material = 0)) ∧
      ∀ i, i ∉ s.domainTree → t.key i = s.key i := by
  refine ⟨fun i hi hfree => ?_, fun i hi => h.fallen.out i fun hz => hi (List.mem_of_mem_filter hz)⟩
  by_cases hinv : (s.key i).st = keyInvalid
  · have hsame : t.key i = s.key i := h.fallen.gone i (Or.inr hinv)
    exact ⟨hsame ▸ hinv, fun hne => absurd hinv hne⟩
  · exact h.fallen.invalid (List.mem_filter.2 ⟨hi, by simpa using hinv⟩) hfree

/-- A change of TAMPER_N that gets through the filter. -/
theorem exec_tamper_passed {low : Bool} {raw hold : Nat} {s : State} (hen : s.on fBUR_TAMPER_CFG_EN = true)
    (hlevel : s.on fBUR_TAMPER_STS_LEVEL = !low) (hpass : passesFilter (s.rd fBUR_TAMPER_CFG_GLITCH) hold = true) :
    exec (.tamper low raw hold) s = .next (if low then
      tamperEvent (atContact (s.rd fBUR_TAMPER_CFG_GLITCH) raw % 2 ^ 32) (s.wrB fBUR_TAMPER_STS_LEVEL low) else s.wrB fBUR_TAMPER_STS_LEVEL low) :=
  congrArg _ (if_neg (by simp [hen, hlevel, hpass]))

/-! ### The entry in error (R388) -/

/-- An uncorrectable error of an entry, counted and told. -/
def entryError (e : Fin 1024) (bad : Bool) (s : State) : State :=
  post 0x9A (le 2 e ++ le 1 (if bad then 0 else 1) ++ le 1 0) ((s.inc fBUR_ECC_CNT_UE (if bad then 2 else 1)).flag fBUR_FLT_FLAGS 6)

/-- The entry reloaded from the journal; one that comes back INVALID falls first. -/
def entryReloaded (e : Fin 1024) (copy : KeyEnt) (s : State) : State :=
  burSync (State.setKey (if copy.st = keyInvalid then invalidateNow [e.val] s else if keyUsable copy then s else cacheDrop e s) e copy)

theorem exec_burSramUe_lost (e : Fin 1024) (bad : Bool) (s : State) : exec (.burSramUe .lost e bad) s = .next (
    if bad then journalWrite (invalidateNow (e.val :: (entryError e bad s).descendants e) (entryError e bad s))
    else entryReloaded e (restoredEnt (s.journalCopy e)) (entryError e bad s)) := by
  have hexec : exec (.burSramUe .lost e bad) s = execBurSramUe .lost e bad s := rfl
  rw [hexec]
  unfold execBurSramUe entryReloaded
  cases bad with
  | true => rfl
  | false =>
    simp only [Bool.false_eq_true, if_false]
    have hcopy : (((s.inc fBUR_ECC_CNT_UE 1).flag fBUR_FLT_FLAGS 6).journalCopy e) = s.journalCopy e := rfl
    rw [hcopy]
    by_cases hst : (restoredEnt (s.journalCopy e)).st = keyInvalid
    · rw [if_pos hst, if_pos hst]
      rfl
    · rw [if_neg hst, if_neg hst]
      rfl

theorem entryError_rd (e : Fin 1024) (bad : Bool) (s : State) : (entryError e bad s).bit fBUR_FLT_FLAGS 6 = true ∧
    (entryError e bad s).rd fBUR_ECC_CNT_UE = satAdd fBUR_ECC_CNT_UE.w (s.rd fBUR_ECC_CNT_UE) (if bad then 2 else 1) := by
  unfold entryError
  refine ⟨(bit_eq_of_rd (post_rd _ _ _ (by decide)) 6).trans (bit_flag_self (by decide) _), ?_⟩
  rw [post_rd _ _ _ (by decide), rd_flag (by decide), rd_inc_self]

/-- Registers other than those that show the entries, and the other entries, are as before a reload. -/
theorem entryReloaded_effect (e : Fin 1024) (copy : KeyEnt) (s : State) : (entryReloaded e copy s).mram.bur = s.mram.bur ∧
    (∀ i, i ≠ e.val → (entryReloaded e copy s).key i = s.key i) ∧ (entryReloaded e copy s).key e = copy ∧
    ∀ f : Fld, f.key ∉ burShown → f.block ∉ fallBlocks → (entryReloaded e copy s).rd f = s.rd f := by
  unfold entryReloaded
  have hu : ∀ u : State, u = (if copy.st = keyInvalid then invalidateNow [e.val] s else if keyUsable copy then s else cacheDrop e s) →
      u.mram.bur = s.mram.bur ∧ (∀ i, i ≠ e.val → u.key i = s.key i) ∧
        ∀ f : Fld, f.key ∉ burShown → f.block ∉ fallBlocks → u.rd f = s.rd f := by
    rintro u rfl
    split
    · exact ⟨invalidateNow_same (p := .mramBur) (by decide) .., fun i hi => (invalidateNow_fallen ..).out i (by simpa using hi),
        fun f hf hb => invalidateNow_rd hf hb ..⟩
    · split <;> exact ⟨rfl, fun _ _ => rfl, fun _ _ _ => rfl⟩
  obtain ⟨hmram, hkeys, hrd⟩ := hu _ rfl
  generalize (if copy.st = keyInvalid then _ else _ : State) = u at hmram hkeys hrd
  have hbur : (burSync (u.setKey e copy)).bur = (u.setKey e copy).bur := burSync_same (p := .bur) (by decide) _
  refine ⟨(burSync_same (p := .mramBur) (by decide) (u.setKey e copy)).trans hmram, fun i hi => ?_, ?_, fun f hf hb => ?_⟩
  · rw [key_eq_of (congrArg Bur.ents hbur), key_setKey_ne u hi]
    exact hkeys i hi
  · rw [key_eq_of (congrArg Bur.ents hbur), key_setKey_self]
  · exact (burSync_rd hf _).trans (hrd f hf hb)

/-! ### The obligation -/

/-- Settles O45: the event is counted and told before the entries fall, and what falls with them is not the tamper registers'. -/
theorem tamperRows : Obligations.TamperRows := by
  refine ⟨?fell, ?rose, ?filtered, ?journal, fun _ _ _ _ => rfl, ?error⟩
  case fell =>
    intro raw hold stamp s hen hlevel hpass hstamp
    refine runs_next (exec_tamper_passed hen hlevel hpass) ((if_pos rfl).trans (tamperEvent_eq ..)) ?_
    rw [← hstamp, rd_wrB (by decide)]
    obtain ⟨hshown, hbur⟩ := tamperTold_shown (stamp % 2 ^ 32) (s.wrB fBUR_TAMPER_STS_LEVEL true)
    have hlow : (s.wrB fBUR_TAMPER_STS_LEVEL true).rd fBUR_TAMPER_STS_LEVEL = 1 := State.rd_wr ..
    have hns (ns : Nat) (h : ns = stamp % 2 ^ 32 % 2 ^ 32) : ns = stamp % 2 ^ 32 := h.trans (Nat.mod_mod _ _)
    by_cases hact : s.rd fBUR_TAMPER_CFG_ACTION = 1
    · rw [if_pos hact]
      have hzero := zeroize_zeroized (tamperTold (stamp % 2 ^ 32) (s.wrB fBUR_TAMPER_STS_LEVEL true))
      have hall := hshown.zeroized hzero
      obtain ⟨htree, hroots⟩ := hzero.keys
      have hkey : (tamperTold (stamp % 2 ^ 32) (s.wrB fBUR_TAMPER_STS_LEVEL true)).key = s.key :=
        funext fun i => key_eq_of (congrArg Bur.ents hbur) i
      have hdom : (tamperTold (stamp % 2 ^ 32) (s.wrB fBUR_TAMPER_STS_LEVEL true)).domainTree = s.domainTree := by
        unfold State.domainTree
        rw [hbur]
        rfl
      rw [hdom, hkey] at htree hroots
      refine ⟨hall.level.trans hlow, hall.count, hall.events, hns _ hall.time, hall.flag, fun h => absurd (h.symm.trans hact) (by decide),
        fun _ => ⟨?_, ?_, ?_, ?_, htree, hroots⟩⟩
      · rw [hzero.mark]
      · exact hzero.fallen.stands.journalDue
      · exact hzero.fallen.stands.work rfl
      · exact hzero.fallen.stands.cache rfl
    · rw [if_neg hact]
      exact ⟨hshown.level.trans hlow, hshown.count, hshown.events, hns _ hshown.time, hshown.flag, fun _ => hbur, fun h => absurd h hact⟩
  case rose =>
    intro raw hold s hen hlevel hpass
    exact exec_tamper_passed hen hlevel hpass
  case filtered =>
    intro low raw hold s h
    refine congrArg _ (if_pos ?_)
    rcases h with h | h <;> simp [h]
  case journal =>
    intro s hdue hslot hslots
    exact runs_next rfl (if_pos hdue) ⟨rfl, rfl, rfl, zeroizeJournal_slots hslot hslots⟩
  case error =>
    intro e bad s
    obtain ⟨hflag, hcount⟩ := entryError_rd e bad s
    have hbur : (entryError e bad s).bur = s.bur := post_same (p := .bur) (by decide) ..
    have hmram : (entryError e bad s).mram.bur = s.mram.bur := post_mramBur ..
    have hkey (i : Nat) : (entryError e bad s).key i = s.key i := key_eq_of (congrArg Bur.ents hbur) i
    refine ⟨_, exec_burSramUe_lost e bad s, ?_⟩
    cases bad with
    | false =>
      obtain ⟨hm, hothers, hself, hrd⟩ := entryReloaded_effect e (restoredEnt (s.journalCopy e)) (entryError e false s)
      rw [if_neg Bool.false_ne_true]
      exact ⟨(bit_eq_of_rd (hrd _ (by decide) (by decide)) 6).trans hflag, (hrd _ (by decide) (by decide)).trans hcount,
        fun _ => ⟨hm.trans hmram, fun i hi => (hothers i hi).trans (hkey i), hself⟩, fun h => absurd h Bool.false_ne_true⟩
    | true =>
      rw [if_pos rfl]
      have hfallen := invalidateNow_fallen (e.val :: (entryError e true s).descendants e) (entryError e true s)
      have hrd {f : Fld} (hj : f.key ∉ journalShown) (hf : f.key ∉ burShown) (hb : f.block ∉ fallBlocks) :
          (journalWrite (invalidateNow (e.val :: (entryError e true s).descendants e) (entryError e true s))).rd f = (entryError e true s).rd f :=
        (journalWrite_rd hj _).trans (invalidateNow_rd hf hb ..)
      refine ⟨(bit_eq_of_rd (hrd (by decide) (by decide) (by decide)) 6).trans hflag, (hrd (by decide) (by decide) (by decide)).trans hcount,
        fun h => absurd h.symm Bool.false_ne_true, fun _ => ⟨?_, fun hfree => ?_⟩⟩
      · rw [journalWrite_bur, hfallen.stands.gen, hbur]
      · rw [journalWrite_key]
        exact (hfallen.invalid List.mem_cons_self (hkey e ▸ hfree)).1

end Sys2Proof.Machine
end

section
/-!
PROOFS. Scope: the key and MAC commands (R376, R378 to R385, R390, R491).
-/

namespace Sys2Proof.Machine

/-! ### Tables in order -/

theorem smSorted_cons {α : Type} {a : Nat × α} {m : SMap α} (h : smSorted (a :: m) = true) : (∀ b ∈ m, a.1 < b.1) ∧ smSorted m = true := by
  induction m generalizing a with
  | nil => exact ⟨fun _ hb => absurd hb List.not_mem_nil, rfl⟩
  | cons c cs ih =>
    obtain ⟨hlt, hrest⟩ : a.1 < c.1 ∧ smSorted (c :: cs) = true := by simpa [smSorted] using h
    refine ⟨fun b hb => ?_, hrest⟩
    rcases List.mem_cons.1 hb with rfl | hb
    · exact hlt
    · exact hlt.trans ((ih hrest).1 b hb)

theorem smGet_of_mem {α : Type} {d : α} {m : SMap α} (hm : smSorted m = true) {e : Nat × α} (he : e ∈ m) : smGet d m e.1 = e.2 := by
  induction m with
  | nil => exact absurd he List.not_mem_nil
  | cons a m ih =>
    obtain ⟨hlt, hrest⟩ := smSorted_cons hm
    rcases List.mem_cons.1 he with rfl | he
    · simp [smGet]
    · have hne : e.1 ≠ a.1 := Nat.ne_of_gt (hlt e he)
      simp [smGet, hne, ih hrest he]

theorem mem_of_smGet_ne {α : Type} {d : α} {m : SMap α} {i : Nat} (h : smGet d m i ≠ d) : (i, smGet d m i) ∈ m := by
  induction m with
  | nil => exact absurd rfl h
  | cons a m ih =>
    obtain ⟨k, w⟩ := a
    by_cases hi : i = k
    · simp [smGet, hi]
    · simp only [smGet, hi, if_false] at h ⊢
      exact List.mem_cons_of_mem _ (ih h)

/-- In a table in order, the entries in a state are those that are found in it. -/
theorem mem_filter_st_iff {s : State} (hsorted : smSorted s.bur.ents = true) {st : Nat} (hst : st ≠ keyFree) (i : Nat) :
    i ∈ ((s.bur.ents.filter fun e => e.2.st = st).map fun e => e.1) ↔ (s.key i).st = st := by
  constructor
  · intro h
    obtain ⟨e, he, rfl⟩ := List.mem_map.1 h
    obtain ⟨hmem, hin⟩ := List.mem_filter.1 he
    rw [State.key, smGet_of_mem hsorted hmem]
    simpa using hin
  · intro h
    have hmem : (i, s.key i) ∈ s.bur.ents := mem_of_smGet_ne fun hd => hst (h.symm.trans (congrArg KeyEnt.st hd))
    exact List.mem_map.2 ⟨_, List.mem_filter.2 ⟨hmem, by simpa using h⟩, rfl⟩

/-! ### A journaled change of the entries (R385) -/

/-- One journal update has been made, and the command list is as it was. -/
structure Journaled (s t : State) : Prop where
  gen : t.bur.gen = s.bur.gen + 1
  run : t.mbx.run = s.mbx.run

/-- The entries after a journal write that is then shown are those before. -/
theorem journaled_key (s : State) (i : Nat) : (burSync (journalWrite s)).key i = s.key i :=
  (key_eq_of (congrArg Bur.ents (burSync_same (p := .bur) (by decide) (journalWrite s))) i).trans (journalWrite_key s i)

theorem journaled_of {s u : State} (hgen : u.bur.gen = s.bur.gen) (hrun : u.mbx.run = s.mbx.run) :
    Journaled s (burSync (journalWrite u)) := by
  have hbur : (burSync (journalWrite u)).bur = (journalWrite u).bur := burSync_same (p := .bur) (by decide) _
  have hmbx : (burSync (journalWrite u)).mbx = u.mbx := burSync_same (p := .mbx) (by decide) (journalWrite u)
  exact ⟨by rw [hbur, journalWrite_bur, ← hgen], by rw [hmbx, hrun]⟩

/-! ### Installing an entry (R378, R379) -/

theorem installKey_effect (i : Nat) (k : KeyEnt) (s : State) : Journaled s (installKey i k s) ∧ (installKey i k s).key i = k ∧
    ∀ j, j ≠ i → (installKey i k s).key j = s.key j := by
  unfold installKey
  dsimp only
  generalize (s.ing.spdu.filter fun e => e.1 / 65536 ≠ i) = spdu
  have hecc {p : Part} (hp : p ∉ [Part.regs, .fv]) (u : State) : p.same u (State.eccWrite 10 0 u) :=
    same_of_kept hp (st_eccWrite_kept 10 0 (Kept.refl _ u) rfl)
  have hbur : (State.eccWrite 10 0 ((s.setIng { s.ing with spdu := spdu }).setKey i k)).bur = (s.setKey i k).bur := hecc (p := .bur) (by decide) _
  have hmbx : (State.eccWrite 10 0 ((s.setIng { s.ing with spdu := spdu }).setKey i k)).mbx = s.mbx := hecc (p := .mbx) (by decide) _
  generalize State.eccWrite 10 0 _ = u at hbur hmbx
  have hkey (j : Nat) : (burSync (journalWrite u)).key j = (s.setKey i k).key j :=
    (journaled_key u j).trans (key_eq_of (congrArg Bur.ents hbur) j)
  exact ⟨journaled_of (Eq.trans (congrArg Bur.gen hbur) rfl) (congrArg Mbx.run hmbx), (hkey i).trans (key_setKey_self ..),
    fun j hj => (hkey j).trans (key_setKey_ne s hj k)⟩

/-- A command that installs an entry and tells it is answered with the entry and the generation. -/
theorem runs_installed {i : Instr} {src : CmdSrc} {op : Nat} {r : Running} {s : State} (h : accepted src op r s) {args : List Nat}
    {f : Running → State → Reply × State} (hexec : exec i s = .next (runCmd op src args f s)) {e code : Nat} {k : KeyEnt} {payload : Bytes}
    (hf : f r s = (.done stOk (e :: words64 (installKey e k s).bur.gen), post code payload (installKey e k s))) :
    Runs i s fun t => answered src r stOk (e :: words64 (s.bur.gen + 1)) t ∧ t.bur.gen = s.bur.gen + 1 ∧ t.key e = k ∧
      ∀ j, j ≠ e → t.key j = s.key j := by
  obtain ⟨hjournaled, hself, hothers⟩ := installKey_effect e k s
  have hmbx : (post code payload (installKey e k s)).mbx = (installKey e k s).mbx := post_same (p := .mbx) (by decide) ..
  obtain ⟨t, ht, hdone, hsame⟩ := runs_answered (p := .bur) h hexec hf ((congrArg Mbx.run hmbx).trans hjournaled.run)
  have hbur : t.bur = (installKey e k s).bur := Eq.trans hsame (post_same (p := .bur) (by decide) ..)
  have hkey (j : Nat) : t.key j = (installKey e k s).key j := key_eq_of (congrArg Bur.ents hbur) j
  exact ⟨t, ht, hjournaled.gen ▸ hdone, (congrArg Bur.gen hbur).trans hjournaled.gen, (hkey e).trans hself, fun j hj => (hkey j).trans (hothers j hj)⟩

/-- A command that has a key to install: it goes to the free entry, if there is one. -/
theorem runs_placed {i : Instr} {src : CmdSrc} {op : Nat} {r : Running} {s : State} (h : accepted src op r s) {args : List Nat}
    {f : Running → State → Reply × State} (hexec : exec i s = .next (runCmd op src args f s)) {slot : Option Nat} {k : KeyEnt}
    (hnone : slot = none → f r s = (.done stNoSpace [], s))
    (hsome : ∀ e, slot = some e → ∃ code payload, f r s =
      (.done stOk (e :: words64 (installKey e k s).bur.gen), post code payload (installKey e k s))) :
    Runs i s fun t => (slot = none → answered src r stNoSpace [] t ∧ t.bur = s.bur) ∧
      ∀ e, slot = some e → answered src r stOk (e :: words64 (s.bur.gen + 1)) t ∧ t.bur.gen = s.bur.gen + 1 ∧ t.key e = k ∧
        ∀ j, j ≠ e → t.key j = s.key j := by
  cases slot with
  | none =>
    obtain ⟨t, ht, hdone⟩ := runs_answered (p := .bur) h hexec (hnone rfl) rfl
    exact ⟨t, ht, fun _ => hdone, fun e he => absurd he (by simp)⟩
  | some e =>
    obtain ⟨code, payload, hf⟩ := hsome e rfl
    obtain ⟨t, ht, hdone⟩ := runs_installed h hexec hf
    refine ⟨t, ht, fun he => absurd he (by simp), fun e' he => ?_⟩
    obtain rfl : e = e' := Option.some.inj he
    exact hdone

/-! ### Invalidation (R383) -/

/-- One entry is PENDING. -/
def keyPend (s : State) (i : Nat) : State := s.setKey i { s.key i with st := keyPending }

theorem foldl_keyPend_key (l : List Nat) (s : State) (i : Nat) :
    (l.foldl keyPend s).key i = if i ∈ l then { s.key i with st := keyPending } else s.key i := by
  induction l generalizing s with
  | nil => rfl
  | cons x xs ih =>
    rw [List.foldl_cons, ih]
    by_cases hx : i = x
    · subst hx
      simp [keyPend, key_setKey_self]
    · have hsame : (keyPend s x).key i = s.key i := key_setKey_ne s hx _
      simp [hsame, hx]

/-- The instant at which what is PENDING becomes INVALID, where ticks are processed. -/
def effectNoted (t : Nat) (s : State) : State :=
  if s.ticking then s.setBur { s.bur with effect := some (match s.bur.effect with | some e => min e t | none => t) } else s

/-- The entries PENDING and journaled; INVALID at once where no ticks are processed. -/
def keysRevoked (l : List Nat) (s : State) : State :=
  if (journalWrite (effectNoted (s.tickInst s.effectTick) (l.foldl keyPend s))).ticking then
    journalWrite (effectNoted (s.tickInst s.effectTick) (l.foldl keyPend s))
  else invalidateNow l (journalWrite (effectNoted (s.tickInst s.effectTick) (l.foldl keyPend s)))

/-- The descendants of an entry that are not yet INVALID. -/
def State.liveUnder (s : State) (i : Nat) : List Nat := (s.descendants i).filter fun d => (s.key d).st ≠ keyInvalid

theorem invalidate_eq (i : Nat) (s : State) :
    ∃ payload, invalidate i s = burSync (post 0x92 payload (keysRevoked (i :: s.liveUnder i) s)) := by
  unfold invalidate
  dsimp only
  change ∃ payload, burSync (post _ _ (ite _ (journalWrite (effectNoted (s.tickInst s.effectTick) ((i :: s.liveUnder i).foldl keyPend s))) _)) = _
  exact ⟨_, rfl⟩

/-- What the revoking of entries does, by whether ticks are processed. -/
structure Revoked (l : List Nat) (s t : State) : Prop where
  gen : t.bur.gen = s.bur.gen + 1
  pending : s.ticking = true → (∀ i ∈ l, (t.key i).st = keyPending ∧ (t.key i).material = (s.key i).material) ∧
    ∃ b, t.bur.effect = some b ∧ b ≤ s.tickInst s.effectTick
  invalid : s.ticking = false → ∀ i ∈ l, (t.key i).st = keyInvalid ∧ (t.key i).material = 0

theorem Revoked.of_bur {l : List Nat} {s t u : State} (h : Revoked l s t) (hu : u.bur = t.bur) : Revoked l s u := by
  have hkey (j : Nat) : u.key j = t.key j := key_eq_of (congrArg Bur.ents hu) j
  refine ⟨(congrArg Bur.gen hu).trans h.gen, fun hs => ?_, fun hs j hj => hkey j ▸ h.invalid hs j hj⟩
  obtain ⟨hpend, heffect⟩ := h.pending hs
  exact ⟨fun j hj => hkey j ▸ hpend j hj, hu ▸ heffect⟩

theorem effectNoted_ticking {t : Nat} {s : State} (h : s.ticking = true) : ∃ b, (effectNoted t s).bur.effect = some b ∧ b ≤ t := by
  rw [effectNoted, if_pos h]
  refine ⟨_, rfl, ?_⟩
  split
  · exact Nat.min_le_right ..
  · exact Nat.le_refl _

theorem effectNoted_frame (t : Nat) (s : State) : (effectNoted t s).bur.ents = s.bur.ents ∧ (effectNoted t s).bur.gen = s.bur.gen ∧
    (effectNoted t s).ticking = s.ticking := by
  unfold effectNoted
  split <;> exact ⟨rfl, rfl, rfl⟩

theorem keysRevoked_revoked (l : List Nat) (s : State) : Revoked l s (keysRevoked l s) := by
  have hfold {α : Type} (p : State → α) (hp : ∀ u i, p (keyPend u i) = p u) : p (l.foldl keyPend s) = p s := foldl_keeps p hp l s
  have hkey := foldl_keyPend_key l s
  have hgen := hfold (fun u => u.bur.gen) fun _ _ => rfl
  have htick := hfold State.ticking fun _ _ => rfl
  unfold keysRevoked
  generalize l.foldl keyPend s = u at hkey hgen htick
  obtain ⟨hents', hgen', htick'⟩ := effectNoted_frame (s.tickInst s.effectTick) u
  have heffect := effectNoted_ticking (t := s.tickInst s.effectTick) (s := u)
  generalize effectNoted (s.tickInst s.effectTick) u = v at hents' hgen' htick' heffect
  have hv : (journalWrite v).ticking = s.ticking :=
    (on_eq_of_rd (journalWrite_rd (f := fCLV_STS_TICKING) (by decide) v)).trans (htick'.trans htick)
  have hvkey (i : Nat) (hi : i ∈ l) : (journalWrite v).key i = { s.key i with st := keyPending } := by
    rw [journalWrite_key, key_eq_of hents' i, hkey, if_pos hi]
  have hvgen : (journalWrite v).bur.gen = s.bur.gen + 1 := by rw [journalWrite_bur, hgen', hgen]
  by_cases hs : s.ticking = true
  · rw [if_pos (hv.trans hs)]
    exact ⟨hvgen, fun _ => ⟨fun i hi => hvkey i hi ▸ ⟨rfl, rfl⟩, heffect (htick.trans hs)⟩, fun h => absurd (h.symm.trans hs) Bool.false_ne_true⟩
  · rw [if_neg (hv ▸ hs)]
    have hfallen := invalidateNow_fallen l (journalWrite v)
    refine ⟨hfallen.stands.gen.trans hvgen, fun h => absurd h hs, fun _ i hi => ?_⟩
    have hst : ((journalWrite v).key i).st = keyPending := congrArg KeyEnt.st (hvkey i hi)
    exact hfallen.fell i hi (by rw [hst]; decide) (by rw [hst]; decide)

theorem invalidate_revoked (i : Nat) (s : State) : Revoked (i :: s.liveUnder i) s (invalidate i s) := by
  obtain ⟨payload, heq⟩ := invalidate_eq i s
  rw [heq]
  exact (keysRevoked_revoked (i :: s.liveUnder i) s).of_bur
    (Eq.trans (burSync_same (p := .bur) (by decide) _) (post_same (p := .bur) (by decide) ..))

theorem invalidate_run (i : Nat) (s : State) : (invalidate i s).mbx.run = s.mbx.run :=
  congrArg Mbx.run ((invalidate_kept i (Kept.refl 6632633270657 s) rfl).2.2.same .mbx (by decide))

/-- KEY_INVALIDATE of an entry that is neither FREE nor INVALID. -/
theorem runs_keyInvalidate {src : CmdSrc} {r : Running} {s : State} (h : accepted src 0x0303 r s) (hsmall : Arg r 0 < 1024)
    (hfree : (s.key (Arg r 0)).st ≠ keyFree) (hinv : (s.key (Arg r 0)).st ≠ keyInvalid) (args : List Nat) : Runs (.keyInvalidate src args) s fun t =>
      answered src r stOk ((s.liveUnder (Arg r 0)).length :: words64 s.effectTick) t ∧ Revoked (Arg r 0 :: s.liveUnder (Arg r 0)) s t := by
  obtain ⟨t, ht, hdone, hsame⟩ := runs_answered (p := .bur) h (i := .keyInvalidate src args) rfl
    ((if_neg (Nat.not_le.2 hsmall)).trans (if_neg (by simp [hfree, hinv]))) (invalidate_run (Arg r 0) s)
  exact ⟨t, ht, hdone, (invalidate_revoked (Arg r 0) s).of_bur hsame⟩

/-! ### Purge (R380) -/

/-- Entries freed, as one journal update where there are any. -/
def keysFreed (l : List Nat) (s : State) : State :=
  if l.isEmpty then s else burSync (journalWrite (l.foldl (fun s j => s.setKey j {}) s))

theorem foldl_free_key (l : List Nat) (s : State) (i : Nat) :
    (l.foldl (fun s j => s.setKey j {}) s).key i = if i ∈ l then {} else s.key i := by
  induction l generalizing s with
  | nil => rfl
  | cons x xs ih =>
    rw [List.foldl_cons, ih]
    by_cases hx : i = x
    · subst hx
      simp [key_setKey_self]
    · simp [key_setKey_ne s hx, hx]

theorem keysFreed_key (l : List Nat) (s : State) (i : Nat) : (keysFreed l s).key i = if i ∈ l then {} else s.key i := by
  cases l with
  | nil => rfl
  | cons x xs => exact (journaled_key _ i).trans (foldl_free_key (x :: xs) s i)

theorem keysFreed_run (l : List Nat) (s : State) : (keysFreed l s).mbx.run = s.mbx.run := by
  cases l with
  | nil => rfl
  | cons x xs =>
    exact (journaled_of (s := (x :: xs).foldl (fun s j => s.setKey j {}) s) rfl rfl).run.trans
      (congrArg Mbx.run (foldl_keeps (f := fun s j => s.setKey j {}) State.mbx (fun _ _ => rfl) (x :: xs) s))

theorem keysFreed_gen (i : Nat) (s : State) : (keysFreed [i] s).bur.gen = s.bur.gen + 1 :=
  (journaled_of (s := s) (u := s.setKey i {}) rfl rfl).gen

/-- KEY_PURGE of one INVALID entry. -/
theorem runs_keyPurge_one {src : CmdSrc} {r : Running} {s : State} (h : accepted src 0x0304 r s) (hsmall : Arg r 0 < 1024)
    (hinv : (s.key (Arg r 0)).st = keyInvalid) (args : List Nat) : Runs (.keyPurge src args) s fun t => answered src r stOk [1] t ∧
      t.key (Arg r 0) = {} ∧ t.bur.gen = s.bur.gen + 1 ∧ ∀ i, i ≠ Arg r 0 → t.key i = s.key i := by
  obtain ⟨t, ht, hdone, hsame⟩ := runs_answered (p := .bur) h (i := .keyPurge src args) (u := keysFreed [Arg r 0] s) rfl
    ((if_neg (by omega)).trans ((if_neg (by omega)).trans (if_neg (not_not.2 hinv)))) (keysFreed_run ..)
  have hkey (i : Nat) : t.key i = if i ∈ [Arg r 0] then {} else s.key i :=
    (key_eq_of (congrArg Bur.ents hsame) i).trans (keysFreed_key ..)
  exact ⟨t, ht, hdone, (hkey _).trans (if_pos List.mem_cons_self), (congrArg Bur.gen hsame).trans (keysFreed_gen ..),
    fun i hi => (hkey i).trans (if_neg (by simpa using hi))⟩

/-- KEY_PURGE of every INVALID entry. -/
theorem runs_keyPurge_all {src : CmdSrc} {r : Running} {s : State} (h : accepted src 0x0304 r s) (hall : Arg r 0 = 0xFFFF)
    (hsorted : smSorted s.bur.ents = true) (args : List Nat) : Runs (.keyPurge src args) s fun t =>
      answered src r stOk [(s.bur.ents.filter fun e => e.2.st = keyInvalid).length] t ∧
      ∀ i, t.key i = if (s.key i).st = keyInvalid then {} else s.key i := by
  obtain ⟨t, ht, hdone, hsame⟩ := runs_answered (p := .bur) h (i := .keyPurge src args)
    (u := keysFreed ((s.bur.ents.filter fun e => e.2.st = keyInvalid).map fun e => e.1) s) rfl (if_pos hall) (keysFreed_run ..)
  refine ⟨t, ht, ?_, fun i => ?_⟩
  · rwa [List.length_map] at hdone
  · rw [key_eq_of (congrArg Bur.ents hsame), keysFreed_key]
    simp only [mem_filter_st_iff hsorted (st := keyInvalid) (by decide)]

/-! ### KEY_WORK (R390) -/

/-- KEY_WORK named, and shown. -/
def workNamed (w : Option Nat) (s : State) : State := burSync (s.setBur { s.bur with work := w })

theorem workNamed_bur (w : Option Nat) (s : State) : (workNamed w s).bur = { s.bur with work := w } :=
  burSync_same (p := .bur) (by decide) (s.setBur { s.bur with work := w })

theorem workNamed_run (w : Option Nat) (s : State) : (workNamed w s).mbx.run = s.mbx.run :=
  congrArg Mbx.run (burSync_same (p := .mbx) (by decide) (s.setBur { s.bur with work := w }))

theorem workNamed_entry {i : Nat} (hi : i < 1024) (s : State) : (workNamed (some i) s).rd fBUR_WORK_STS_ENTRY = i :=
  (State.rd_wr ..).trans (Nat.mod_eq_of_lt (hi.trans_le (by decide)))

theorem workNamed_none_valid (s : State) : (workNamed none s).rd fBUR_WORK_STS_VALID = 0 :=
  (State.rd_wr_ne _ (by decide) _).trans ((State.rd_wr_ne _ (by decide) _).trans (State.rd_wr ..))

/-- KEY_SELECT that is allowed names KEY_WORK, or none. -/
theorem runs_keySelect {src : CmdSrc} {r : Running} {s : State} (h : accepted src 0x0305 r s) {args : List Nat} {w : Option Nat}
    {f : Running → State → Reply × State} (hexec : exec (.keySelect src args) s = .next (runCmd 0x0305 src args f s))
    (hf : f r s = (.done stOk [], workNamed w s)) : Runs (.keySelect src args) s fun t => answered src r stOk [] t ∧
      t.bur = { s.bur with work := w } ∧ t.rd fBUR_WORK_STS_ENTRY = (workNamed w s).rd fBUR_WORK_STS_ENTRY ∧
      t.rd fBUR_WORK_STS_VALID = (workNamed w s).rd fBUR_WORK_STS_VALID := by
  obtain ⟨t, ht, hdone, hafter⟩ := runs_accepted h hexec hf (workNamed_run ..)
  exact ⟨t, ht, hdone, Eq.trans (hafter.same .bur (by decide)) (workNamed_bur ..), hafter.rd _ (by decide) (by decide),
    hafter.rd _ (by decide) (by decide)⟩

/-! ### Uses (R381) -/

theorem spendUse_run (i : Nat) (s : State) : (spendUse i s).mbx.run = s.mbx.run :=
  congrArg Mbx.run ((spendUse_kept i (Kept.refl 35475423617 s) rfl).2.2.same .mbx (by decide))

theorem spendUse_uses (i : Nat) (s : State) : ((spendUse i s).key i).uses = (s.key i).uses.map fun u => u - 1 := by
  unfold spendUse
  dsimp only
  split
  · next h => rw [h]; rfl
  · next u h =>
    rw [h]
    generalize (if (s.key i).reserved = 0 then (min 256 u, journalUses i (u - min 256 u) s) else ((s.key i).reserved, s) : Nat × State) = x
    split
    · have hshown (u : State) : (burSync (post 0x94 (le 2 i ++ le 2 0 ++ le 4 (s.key i).keyId) ((cacheDrop i u).flag fBUR_FLT_FLAGS 2))).key i =
          u.key i := key_eq_of (congrArg Bur.ents (Eq.trans (burSync_same (p := .bur) (by decide) _) (post_same (p := .bur) (by decide) ..))) i
      rw [hshown, key_setKey_self]
      rfl
    · rw [key_setKey_self]
      rfl

/-! ### HMAC and GMAC (R390, R491) -/

theorem workKey_eq {s : State} {i : Nat} {k : KeyEnt} (h : s.workKey = some (i, k)) : s.key i = k := by
  unfold State.workKey at h
  split at h
  · split at h
    · simp only [Option.some.injEq, Prod.mk.injEq] at h
      obtain ⟨rfl, rfl⟩ := h
      rfl
    · exact absurd h (by simp)
  · exact absurd h (by simp)

theorem progress_bur (src : CmdSrc) (n : Nat) (s : State) : (progress src n s).bur = s.bur := by cases src <;> rfl

theorem progress_mbx (src : CmdSrc) (n : Nat) (s : State) : (progress src n s).mbx = s.mbx := by cases src <;> rfl

section Mac

variable {i : Instr} {src : CmdSrc} {op : Nat} {r : Running} {s : State} (h : accepted src op r s) {args : List Nat}
  {f : Running → State → Reply × State} (hexec : exec i s = .next (runCmd op src args f s)) {w : Nat} {k : KeyEnt} (hwork : s.workKey = some (w, k))
  {n at_ len m : Nat} {tag : Bytes} (hf : f r s = macReply r w n at_ len k tag (progress src m s))

include h hexec hwork hf

/-- A tag under KEY_WORK, however it is answered, spends a use. -/
theorem runs_mac {ws : List Nat} (hreply : macReply r w n at_ len k tag (progress src m s) = (.done stOk ws, spendUse w (progress src m s))) :
    Runs i s fun t => (t.key w).uses = (k.uses.map fun u => u - 1) ∧ answered src r stOk ws t := by
  obtain ⟨t, ht, hdone, hsame⟩ := runs_answered (p := .bur) h hexec (hf.trans hreply)
    ((spendUse_run ..).trans (congrArg Mbx.run (progress_mbx ..)))
  refine ⟨t, ht, ?_, hdone⟩
  have hkey : (progress src m s).key w = k := (key_eq_of (congrArg Bur.ents (progress_bur src m s)) w).trans (workKey_eq hwork)
  rw [key_eq_of (congrArg Bur.ents hsame), spendUse_uses, hkey]

/-- A tag made (R390). -/
theorem runs_macMade (hmode : Arg r 0 = 0) : Runs i s fun t => (t.key w).uses = (k.uses.map fun u => u - 1) ∧
    answered src r stOk ((if k.st = keyPending then 2 else 0) :: packWords (tag.take n ++ List.replicate (len - n) 0)) t :=
  runs_mac h hexec hwork hf (if_pos hmode)

/-- A tag verified (R390). -/
theorem runs_macVerified (hmode : Arg r 0 = 1) : Runs i s fun t => (t.key w).uses = (k.uses.map fun u => u - 1) ∧
    answered src r stOk [(if k.st = keyPending then 2 else 0) + (if (argBytes r at_ 8).take n = tag.take n then 1 else 0)] t :=
  runs_mac h hexec hwork hf (if_neg (by omega))

end Mac

/-! ### The obligation -/

/-- Settles O52: a refusal leaves the Bureau as it was; a change of the entries is one journal update. -/
theorem keyCommands : Obligations.KeyCommands := by
  refine ⟨?root, ?load, ?invalidate, ?purge, ?select, ?hmac, ?gmac⟩
  case root =>
    intro src args r s h
    refine ⟨fun hbad => ?_, fun hon hid => ?_⟩
    · exact runs_answered (p := .bur) h rfl (if_pos (by simpa using hbad)) rfl
    · have hgood : ¬((!onP256 (beAt (argBytes r 1 16) 0 32) (beAt (argBytes r 1 16) 32 32)) || s.keyIdUsed (Arg r 0)) = true := by simp [hon, hid]
      generalize hm : Config.unwrap _ _ = m
      cases m with
      | none => exact runs_answered (p := .bur) h rfl ((if_neg hgood).trans (by simp only [hm])) rfl
      | some m =>
        obtain ⟨t, ht, hfull, hplaced⟩ := runs_placed h (i := .rootInstall src args) rfl
          (k := { st := keyValid, typ := typRoot, keyId := Arg r 0, material := m })
          (slot := if (s.bur.ents.filter fun e => e.2.typ = typRoot && e.2.st ≠ keyFree).length ≥ 16 then none else s.freeEntry)
          (fun hslot => (if_neg hgood).trans (by simp only [hm, hslot])) fun e hslot => ⟨_, _, (if_neg hgood).trans (by simp only [hm, hslot]; rfl)⟩
        exact ⟨t, ht, fun hno => hfull (by by_cases hroots : (s.bur.ents.filter fun e => e.2.typ = typRoot && e.2.st ≠ keyFree).length ≥ 16
                                           · exact if_pos hroots
                                           · exact (if_neg hroots).trans (hno.resolve_left hroots)),
          fun e hroots hfree => hplaced e ((if_neg (Nat.not_le.2 hroots)).trans hfree)⟩
  case load =>
    intro src args r s h
    refine ⟨fun hbig => ?_, fun hsmall hst => ?_, fun hsmall hst => ⟨fun hbad => ?_, fun hattr hid huses => ?_⟩⟩
    · exact runs_answered (p := .bur) h rfl (if_pos hbig) rfl
    · exact runs_answered (p := .bur) h rfl ((if_neg (Nat.not_le.2 hsmall)).trans (if_pos hst)) rfl
    · exact runs_answered (p := .bur) h rfl ((if_neg (Nat.not_le.2 hsmall)).trans ((if_neg (not_not.2 hst)).trans
        (if_pos (by simpa [or_assoc] using hbad)))) rfl
    · have hgood : ¬(!attrOk (s.key (Arg r 0)) (Arg r 2) || s.keyIdUsed (Arg r 1) || decide (Arg r 3 = 0)) = true := by simp [hattr, hid, huses]
      generalize hm : Config.unwrap _ _ = m
      cases m with
      | none =>
        exact runs_answered (p := .bur) h rfl ((if_neg (Nat.not_le.2 hsmall)).trans ((if_neg (not_not.2 hst)).trans
          ((if_neg hgood).trans (by simp only [hm])))) rfl
      | some m =>
        exact runs_placed h rfl (fun hslot => (if_neg (Nat.not_le.2 hsmall)).trans ((if_neg (not_not.2 hst)).trans
          ((if_neg hgood).trans (by simp only [hm, hslot])))) fun e hslot => ⟨_, _, (if_neg (Nat.not_le.2 hsmall)).trans ((if_neg (not_not.2 hst)).trans
          ((if_neg hgood).trans (by simp only [hm, hslot]; rfl)))⟩
  case invalidate =>
    intro src args r s h
    refine ⟨fun hbig => ?_, fun hsmall hst => ?_, fun hsmall hfree hinv => ?_⟩
    · exact runs_answered (p := .bur) h rfl (if_pos hbig) rfl
    · exact runs_answered (p := .bur) h rfl ((if_neg (Nat.not_le.2 hsmall)).trans (if_pos (by simpa using hst))) rfl
    · obtain ⟨t, ht, hdone, hrevoked⟩ := runs_keyInvalidate h hsmall hfree hinv args
      have hunder {d : Nat} (hd : d ∈ s.descendants (Arg r 0)) (hst : (s.key d).st ≠ keyInvalid) : d ∈ Arg r 0 :: s.liveUnder (Arg r 0) :=
        List.mem_cons_of_mem _ (List.mem_filter.2 ⟨hd, by simpa using hst⟩)
      refine ⟨t, ht, hdone, hrevoked.gen, fun hs => ?_, fun hs => ?_⟩
      · obtain ⟨hpend, heffect⟩ := hrevoked.pending hs
        obtain ⟨hst, hmaterial⟩ := hpend _ List.mem_cons_self
        exact ⟨hst, hmaterial, fun d hd hst => (hpend d (hunder hd hst)).1, heffect⟩
      · obtain ⟨hst, hmaterial⟩ := hrevoked.invalid hs _ List.mem_cons_self
        exact ⟨hst, hmaterial, fun d hd hst => hrevoked.invalid hs d (hunder hd hst)⟩
  case purge =>
    intro src args r s h
    refine ⟨fun hbig hall => ?_, fun hsmall hinv => ?_, fun hsmall hst => ?_, fun hall hsorted => ?_⟩
    · exact runs_answered (p := .bur) h rfl ((if_neg hall).trans (if_pos hbig)) rfl
    · exact runs_keyPurge_one h hsmall hinv args
    · exact runs_answered (p := .bur) h rfl ((if_neg (by omega)).trans ((if_neg (by omega)).trans (if_pos hst))) rfl
    · exact runs_keyPurge_all h hall hsorted args
  case select =>
    intro src args r s h
    refine ⟨fun hsmall hst htyp hpur => ?_, fun hnone => ?_, fun hsome hbad => ?_⟩
    · obtain ⟨t, ht, hdone, hbur, hentry, -⟩ := runs_keySelect h (args := args) (w := some (Arg r 0)) rfl
        ((if_neg (by omega)).trans (if_neg (by simp [hsmall, hst, htyp, hpur])))
      exact ⟨t, ht, hdone, hbur, hentry.trans (workNamed_entry hsmall s)⟩
    · obtain ⟨t, ht, hdone, hbur, -, hvalid⟩ := runs_keySelect h (args := args) (w := none) rfl (if_pos hnone)
      exact ⟨t, ht, hdone, hbur, hvalid.trans (workNamed_none_valid s)⟩
    · exact runs_answered (p := .bur) h rfl ((if_neg hsome).trans (if_pos (by simpa [or_assoc] using hbad))) rfl
  case hmac =>
    intro src args data err r s h
    refine ⟨fun hbad => ?_, fun hmode hn halign hlen => ?_⟩
    · exact runs_answered (p := .bur) h rfl (if_pos (by simpa [or_assoc, and_assoc] using hbad)) rfl
    · have hgood : ¬(decide (Arg r 0 > 1) || !(decide (Arg r 1 = 10) || decide (Arg r 1 = 16) || decide (Arg r 1 = 32)) ||
          decide (Arg64 r 2 % 64 ≠ 0) || decide (Arg r 4 > 1048576)) = true := by
        rcases hn with hn | hn | hn <;> simp [hmode, halign, hlen, hn]
      refine ⟨fun hwork => ?_, fun i k hwork halg => ?_, fun i k hwork halg => ⟨?_, ?_, ?_⟩⟩
      · exact runs_answered (p := .bur) h rfl ((if_neg hgood).trans (by rw [hwork])) rfl
      · exact runs_answered (p := .bur) h rfl ((if_neg hgood).trans (by simp only [hwork]; exact if_pos halg)) rfl
      · exact runs_macMade h rfl hwork ((if_neg hgood).trans (by simp only [hwork]; exact if_neg (not_not.2 halg)))
      · exact runs_macVerified h rfl hwork ((if_neg hgood).trans (by simp only [hwork]; exact if_neg (not_not.2 halg)))
      · obtain ⟨t, ht, hdone, hflag, hafter⟩ := runs_dmaError h (i := .hmac src args data true) rfl
          ((if_neg hgood).trans (by simp only [hwork]; exact if_neg (not_not.2 halg))) rfl
        exact ⟨t, ht, hdone, hafter.same .bur (by decide), hflag⟩
  case gmac =>
    intro src args data err r s h
    refine ⟨fun hbad => ?_, fun hmode hn halign hlen => ?_⟩
    · exact runs_answered (p := .bur) h rfl (if_pos (by simpa [or_assoc] using hbad)) rfl
    · have hgood : ¬(decide (Arg r 0 > 1) || !(decide (Arg r 1 = 8) || decide (Arg r 1 = 16)) ||
          decide (Arg64 r 5 % 64 ≠ 0) || decide (Arg r 7 > 1048576)) = true := by
        rcases hn with hn | hn <;> simp [hmode, halign, hlen, hn]
      refine ⟨fun hwork => ?_, fun i k hwork h2 h3 => ?_, fun i k hwork halg => ⟨?_, ?_, ?_⟩⟩
      · exact runs_answered (p := .bur) h rfl ((if_neg hgood).trans (by rw [hwork])) rfl
      · exact runs_answered (p := .bur) h rfl ((if_neg hgood).trans (by simp only [hwork]; exact if_pos (by simp [h2, h3]))) rfl
      all_goals have hfits : ¬(decide (k.alg ≠ 2) && decide (k.alg ≠ 3)) = true := by simpa [or_iff_not_imp_left] using halg
      · exact runs_macMade h rfl hwork ((if_neg hgood).trans (by simp only [hwork]; exact if_neg hfits))
      · exact runs_macVerified h rfl hwork ((if_neg hgood).trans (by simp only [hwork]; exact if_neg hfits))
      · obtain ⟨t, ht, hdone, hflag, hafter⟩ := runs_dmaError h (i := .gmac src args data true) rfl
          ((if_neg hgood).trans (by simp only [hwork]; exact if_neg hfits)) rfl
        exact ⟨t, ht, hdone, hafter.same .bur (by decide), hflag⟩

end Sys2Proof.Machine
end

section
/-!
PROOFS. Scope: levels at the Bench and its writes (R394 to R397, R515, R517).
-/

namespace Sys2Proof.Machine

/-! ### A line at an open session (R516) -/

/-- Input at an open session. -/
def benchHeard (s : State) : State := { s with bench := { s.bench with lastIn := s.up } }

section Line

variable {s : State} (halive : s.stewAlive = true) (hopen : s.bench.open_ = true)

include halive hopen

theorem benchLine_eq (f : State → State) : benchLine f s = f (benchHeard s) := by
  unfold benchLine benchInput
  rw [if_pos halive]
  dsimp only
  rw [if_pos hopen]
  rfl

/-- A command line that comes out as `t`. -/
theorem exec_benchLine {i : Instr} {f : State → State} (hexec : exec i s = .next (benchLine f s)) {t : State} (hf : f (benchHeard s) = t) :
    exec i s = .next t := hexec.trans (congrArg _ ((benchLine_eq halive hopen f).trans hf))

theorem runs_benchLine {i : Instr} {f : State → State} (hexec : exec i s = .next (benchLine f s)) {P : State → Prop} {t : State}
    (hf : f (benchHeard s) = t) (h : P t) : Runs i s P := ⟨t, exec_benchLine halive hopen hexec hf, h⟩

end Line

/-! ### Grants (R394, R395) -/

/-- What a grant leaves: the level and whose key gave it; no challenge, no wrong answers, the first lockout's length. -/
structure Granted (level : Nat) (key : Option Nat) (s t : State) : Prop where
  shown : t.rd fBUR_BENCH_STS_LEVEL = level % 4
  bench : t.bench = { s.bench with key := key, chal := none, wrong := 0, lockLen := 60 }
  out : t.out = s.out ++ [.bench "OK" [level]]

theorem tstDisable_same {p : Part} (hp : (67108865 : Nat).testBit p.num = false) (s : State) : p.same s (tstDisable s) :=
  (tstDisable_kept (Kept.refl 67108865 s) rfl).2.2.same p hp

theorem tstDisable_level (s : State) : (tstDisable s).rd fBUR_BENCH_STS_LEVEL = s.rd fBUR_BENCH_STS_LEVEL := tstDisable_rd (by decide) s

/-- The level set, and the perturbation unit off where SERVICE ends. -/
def levelSet (level : Nat) (key : Option Nat) (s : State) : State :=
  let u := (s.wr fBUR_BENCH_STS_LEVEL level).setBench { s.bench with key := key, chal := none, wrong := 0, lockLen := 60 }
  if s.benchLevel = 2 && level ≠ 2 then tstDisable u else u

theorem levelSet_effect (level : Nat) (key : Option Nat) (s : State) : (levelSet level key s).rd fBUR_BENCH_STS_LEVEL = level % 4 ∧
    (levelSet level key s).bench = { s.bench with key := key, chal := none, wrong := 0, lockLen := 60 } ∧
    (levelSet level key s).out = s.out := by
  have hlevel : ((s.wr fBUR_BENCH_STS_LEVEL level).setBench { s.bench with key := key, chal := none, wrong := 0, lockLen := 60 }).rd
      fBUR_BENCH_STS_LEVEL = level % 4 := State.rd_wr ..
  unfold levelSet
  dsimp only
  split
  · exact ⟨(tstDisable_level _).trans hlevel, tstDisable_same (p := .bench) (by decide) _, tstDisable_same (p := .out) (by decide) _⟩
  · exact ⟨hlevel, rfl, rfl⟩

theorem benchGrant_eq (level : Nat) (key : Option Nat) (s : State) : ∃ payload n, benchGrant level key s =
    (post 0x98 payload { levelSet level key s with fv := n }).emit (.bench "OK" [level]) := by
  cases key with
  | none => exact ⟨_, _, rfl⟩
  | some k => exact ⟨_, (levelSet level (some k) s).fv, rfl⟩

theorem benchGrant_granted (level : Nat) (key : Option Nat) (s : State) : Granted level key s (benchGrant level key s) := by
  obtain ⟨payload, n, heq⟩ := benchGrant_eq level key s
  obtain ⟨hlevel, hbench, hout⟩ := levelSet_effect level key s
  rw [heq]
  generalize levelSet level key s = u at hlevel hbench hout
  have hpost : (post 0x98 payload { u with fv := n }).bench = u.bench := post_same (p := .bench) (by decide) 0x98 payload { u with fv := n }
  refine ⟨?_, hpost.trans hbench, ?_⟩
  · exact (post_rd _ _ _ (by decide)).trans hlevel
  · exact congrArg (· ++ [Emission.bench "OK" [level]]) ((post_out ..).trans hout)

/-- A use spent is not seen at the Bench. -/
theorem spendUse_bench (k : Nat) (s : State) : (spendUse k s).bench = s.bench ∧ (spendUse k s).out = s.out := by
  have h := (spendUse_kept k (Kept.refl 35475423617 s) rfl).2.2
  exact ⟨h.same .bench (by decide), h.same .out (by decide)⟩

/-! ### Wrong answers (R395) -/

/-- The session after a wrong answer: the third in a row locks challenges. -/
def wrongCounted (b : Bench) (up : Nat) : Bench :=
  let lock : Bool := b.wrong + 1 ≥ 3
  { b with chal := none, wrong := if lock then 0 else b.wrong + 1,
           lockTo := if lock then some (up + b.lockLen * 1000000000) else b.lockTo,
           lockLen := if lock then min 3600 (b.lockLen * 2) else b.lockLen }

theorem benchWrong_eq (level : Nat) (s : State) : ∃ payload,
    benchWrong level s = benchErr stAuth (post 0x99 payload ((s.setBench (wrongCounted s.bench s.up)).flag fBUR_FLT_FLAGS 7)) := ⟨_, rfl⟩

theorem benchWrong_effect (level : Nat) (s : State) : (benchWrong level s).bench = wrongCounted s.bench s.up ∧
    (benchWrong level s).bit fBUR_FLT_FLAGS 7 = true ∧ (benchWrong level s).out = s.out ++ [.bench "ERR" [stAuth]] := by
  obtain ⟨payload, heq⟩ := benchWrong_eq level s
  rw [heq]
  refine ⟨?_, ?_, ?_⟩
  · exact post_same (p := .bench) (by decide) 0x99 payload ((s.setBench (wrongCounted s.bench s.up)).flag fBUR_FLT_FLAGS 7)
  · exact (bit_eq_of_rd (post_rd _ _ _ (by decide)) 7).trans (bit_flag_self (by decide) _)
  · exact congrArg (· ++ [Emission.bench "ERR" [stAuth]]) (post_out ..)

/-! ### Challenges (R394) -/

/-- The nonce of a challenge given now. -/
def State.challengeNonce (s : State) : Nat := s.freeVal 42 % 2 ^ 128

/-- A challenge given. -/
def challenged (level : Nat) (s : State) : State :=
  benchOk "challenge" [s.challengeNonce] (s.nextFree.setBench { s.bench with chal := some (level, s.challengeNonce, s.up) })

theorem challenged_effect (level : Nat) (s : State) : (challenged level s).regs = s.regs ∧ (challenged level s).fv = s.fv + 1 ∧
    (challenged level s).bench = { s.bench with chal := some (level, s.challengeNonce, s.up) } ∧
    (challenged level s).out = s.out ++ [.bench "challenge" [s.challengeNonce], .bench "OK" []] := by
  unfold challenged
  generalize s.challengeNonce = nonce
  exact ⟨rfl, rfl, rfl, List.append_assoc ..⟩

/-! ### The obligation -/

/-- Settles O58: an open session takes the line; what it changes beside its own record is the level, a use, a record and the write. -/
theorem levelRows : Obligations.LevelRows := by
  refine ⟨?granted, ?challenge, ?unasked, ?answer, ?malformed, ?write⟩
  case granted =>
    intro s halive hopen htune
    have hgrant := benchGrant_granted 1 none (benchHeard s)
    have hcond : (!false && (benchHeard s).on fBUR_BENCH_CFG_TUNE_OPEN) = true := htune
    refine runs_benchLine (i := .login false) halive hopen rfl (if_pos hcond) ⟨hgrant.shown, ?_, ?_, hgrant.out⟩
    · rw [hgrant.bench]
    · rw [hgrant.bench]
  case challenge =>
    intro service s halive hopen hclosed
    have hcond : ¬(!service && (benchHeard s).on fBUR_BENCH_CFG_TUNE_OPEN) = true := by
      change ¬(!service && s.on fBUR_BENCH_CFG_TUNE_OPEN) = true
      cases service with
      | true => simp
      | false => simp [hclosed rfl]
    refine ⟨fun hlock => ?_, fun hlock => ?_⟩
    · have hfree : ¬(benchHeard s).bench.lockTo.isSome = true := by simp [benchHeard, hlock]
      obtain ⟨hregs, hfv, hbench, hout⟩ := challenged_effect (if service then 2 else 1) (benchHeard s)
      refine runs_benchLine (i := .login service) halive hopen rfl (t := challenged (if service then 2 else 1) (benchHeard s))
        ((if_neg hcond).trans (if_neg hfree)) ⟨hregs, hfv, _, ?_, hout⟩
      rw [hbench]
      rfl
    · exact runs_benchLine (i := .login service) halive hopen rfl ((if_neg hcond).trans (if_pos hlock)) ⟨rfl, rfl⟩
  case unasked =>
    intro ans s halive hopen hchal
    have hnone : (benchHeard s).bench.chal = none := hchal
    exact runs_benchLine (i := .answer ans) halive hopen rfl (by simp only [hnone]; rfl) ⟨rfl, rfl⟩
  case answer =>
    intro ans level nonce at_ s halive hopen hchal hlevel
    have hsome : (benchHeard s).bench.chal = some (level, nonce, at_) := hchal
    refine ⟨fun hlate => ?_, fun hsoon => ?_⟩
    · exact runs_benchLine (i := .answer ans) halive hopen rfl
        (t := benchErr stState ((benchHeard s).setBench { (benchHeard s).bench with chal := none }))
        (by simp only [hsome]; exact if_pos hlate) ⟨rfl, rfl, rfl⟩
    · have hkey : (benchHeard s).benchKey level nonce ans = s.benchKey level nonce ans := rfl
      generalize hk : s.benchKey level nonce ans = found at hkey
      cases found with
      | some k =>
        have hgrant := benchGrant_granted level (some k) (spendUse k (benchHeard s))
        obtain ⟨hbench, hout⟩ := spendUse_bench k (benchHeard s)
        refine runs_benchLine (i := .answer ans) halive hopen rfl (by simp only [hsome]; exact (if_neg (Nat.not_lt.2 hsoon)).trans (by simp only [hkey]; rfl))
          ⟨?_, ?_, ?_, ?_⟩
        · rw [hgrant.bench]
        · exact hgrant.shown.trans (Nat.mod_eq_of_lt (by omega))
        · rw [hgrant.bench]
        · rw [hgrant.out, hout]
          rfl
      | none =>
        obtain ⟨hbench, hflag, hout⟩ := benchWrong_effect level (benchHeard s)
        refine runs_benchLine (i := .answer ans) halive hopen rfl (by simp only [hsome]; exact (if_neg (Nat.not_lt.2 hsoon)).trans (by simp only [hkey]))
          ⟨?_, hflag, hout, fun hfew => ?_, fun htwo => ?_⟩
        · rw [hbench]
          rfl
        all_goals rw [hbench]
        · have hno : ¬decide ((benchHeard s).bench.wrong + 1 ≥ 3) = true := by
            have hwrong : (benchHeard s).bench.wrong = s.bench.wrong := rfl
            simp only [decide_eq_true_eq]
            omega
          exact ⟨if_neg hno, if_neg hno⟩
        · have hthird : decide ((benchHeard s).bench.wrong + 1 ≥ 3) = true := by
            have hwrong : (benchHeard s).bench.wrong = s.bench.wrong := rfl
            simp only [decide_eq_true_eq]
            omega
          exact ⟨if_pos hthird, if_pos hthird, if_pos hthird⟩
  case malformed =>
    intro off val s halive hopen hbad
    exact runs_benchLine (i := .wr off val) halive hopen rfl (if_pos (by simpa using hbad)) ⟨rfl, rfl⟩
  case write =>
    intro off val s halive hopen halign hin
    have hgood : ¬(decide (off % 4 ≠ 0) || decide (off ≥ 0x1000000)) = true := by simp [halign, hin]
    refine ⟨fun hlow => ?_, fun hlevel hwindow hrecords => ?_, fun hlevel hwindow hrecords => ?_⟩
    · have hno : (decide (s.rd fBUR_BENCH_STS_LEVEL < wrLevel off) || decide (aliasOf off / 0x10000 = 0x14)) = true := by simpa using hlow
      exact runs_benchLine (i := .wr off val) halive hopen rfl ((if_neg hgood).trans (if_pos hno)) ⟨rfl, rfl⟩
    all_goals have hmay : ¬(decide (s.rd fBUR_BENCH_STS_LEVEL < wrLevel off) || decide (aliasOf off / 0x10000 = 0x14)) = true := by simp [hwindow, hlevel]
    · have hown : (benchHeard s).recordsMode (aliasOf off) val = true := hrecords
      exact exec_benchLine (i := .wr off val) halive hopen rfl ((if_neg hgood).trans ((if_neg hmay).trans
        (congrArg (fun t : State => t.emit (.bench "OK" [])) (if_pos hown))))
    · have hother : ¬(benchHeard s).recordsMode (aliasOf off) val = true := by
        have h : (benchHeard s).recordsMode (aliasOf off) val = false := hrecords
        simp [h]
      refine runs_benchLine (i := .wr off val) halive hopen rfl ((if_neg hgood).trans ((if_neg hmay).trans
        (congrArg (fun t : State => t.emit (.bench "OK" [])) (if_neg hother)))) ?_
      exact congrArg (· ++ [Emission.bench "OK" []]) (post_out ..)

end Sys2Proof.Machine
end

section
/-!
PROOFS. Scope: what a message of the pair leaves before it acts, and authority: abdication, handover, the watchdog, the waits and the recovery
(R401, R402, R405, R410 to R415).
-/

namespace Sys2Proof.Machine

/-! ### States that differ in the registers and the pair's record alone -/

/-- Nothing but registers and the pair's record has changed. -/
def PairOnly (s t : State) : Prop := ∃ regs pair, t = { s with regs := regs, pair := pair }

namespace PairOnly

variable {s t u : State}

theorem refl (s : State) : PairOnly s s := ⟨s.regs, s.pair, rfl⟩

theorem wr (h : PairOnly s t) (f : Fld) (v : Nat) : PairOnly s (t.wr f v) := by
  obtain ⟨regs, pair, rfl⟩ := h
  exact ⟨_, _, rfl⟩

theorem setPair (h : PairOnly s t) (p : Pair) : PairOnly s (t.setPair p) := by
  obtain ⟨regs, pair, rfl⟩ := h
  exact ⟨_, _, rfl⟩

/-- What reads neither registers nor the pair's record reads as before. -/
theorem keeps (h : PairOnly s t) {α : Type} {f : State → α} (hf : ∀ u r p, f { u with regs := r, pair := p } = f u) : f t = f s := by
  obtain ⟨regs, pair, rfl⟩ := h
  exact hf ..

theorem trans (h : PairOnly s t) (k : PairOnly t u) : PairOnly s u := by
  obtain ⟨regs, pair, rfl⟩ := h
  obtain ⟨regs', pair', rfl⟩ := k
  exact ⟨_, _, rfl⟩

/-- An abdication trigger is in force, or is not, as before (R404). -/
theorem triggerNow (h : PairOnly s t) (hqual : t.rd fCLV_STS_QUAL_LOST = s.rd fCLV_STS_QUAL_LOST) (hinst : t.pair.instAt = s.pair.instAt) :
    t.triggerNow = s.triggerNow := by
  have hstale : (t.live.any fun i => t.staleNow i.tick) = s.live.any fun i => s.staleNow i.tick :=
    h.keeps (f := fun u => u.live.any fun i => u.staleNow i.tick) fun _ _ _ => rfl
  have hup : t.up = s.up := h.keeps fun _ _ _ => rfl
  have hperiods : t.periods 2 = s.periods 2 := h.keeps (f := fun u => u.periods 2) fun _ _ _ => rfl
  unfold State.triggerNow
  rw [on_eq_of_rd hqual, hstale, hup, hinst, hperiods]

theorem pairReady (h : PairOnly s t) (htick : t.rd fCLV_STS_TICKING = s.rd fCLV_STS_TICKING)
    (hqual : t.rd fCLV_STS_QUAL_LOST = s.rd fCLV_STS_QUAL_LOST) (hinst : t.pair.instAt = s.pair.instAt) : t.pairReady = s.pairReady := by
  have hpwr : t.pwr = s.pwr := h.keeps fun _ _ _ => rfl
  have hticking : t.ticking = s.ticking := on_eq_of_rd htick
  unfold State.pairReady
  rw [h.triggerNow hqual hinst, hpwr, hticking]

end PairOnly

theorem pairOnly_ite {s a b : State} {c : Prop} [Decidable c] (ha : PairOnly s a) (hb : PairOnly s b) : PairOnly s (if c then a else b) := by
  split <;> assumption

/-! ### Roles (R404, R423) -/

theorem setRole_rd {f : Fld} (hrole : f.key ≠ fPAIR_STS_ROLE.key) (hauth : f.key ≠ fPAIR_STS_AUTH.key) (halm : f.key ≠ fALM_STS_AUTH.key)
    (r : Nat) (s : State) : (setRole r s).rd f = s.rd f :=
  (rd_wrB halm ..).trans ((rd_wrB hauth ..).trans (State.rd_wr_ne s hrole r))

theorem setRole_role {r : Nat} (hr : r < 8) (s : State) : (setRole r s).role = r := by
  have h : (setRole r s).rd fPAIR_STS_ROLE = r % 8 := (rd_wrB (by decide) ..).trans ((rd_wrB (by decide) ..).trans (State.rd_wr ..))
  exact h.trans (Nat.mod_eq_of_lt hr)

theorem pairOnly_setRole {s t : State} (h : PairOnly s t) (r : Nat) : PairOnly s (setRole r t) := ((h.wr _ _).wr _ _).wr _ _

theorem role_eq_of_rd {s t : State} (h : t.rd fPAIR_STS_ROLE = s.rd fPAIR_STS_ROLE) : t.role = s.role := h

theorem post_pair (code : Nat) (payload : Bytes) (s : State) : (post code payload s).pair = s.pair := post_same (p := .pair) (by decide) ..

theorem post_role (code : Nat) (payload : Bytes) (s : State) : (post code payload s).role = s.role := post_rd _ _ _ (by decide)

/-! ### A message that acts (R401, R402) -/

/-- The field that shows a lane. -/
def laneFld (lane : Fin 2) : Fld := if lane.val = 0 then fPAIR_STS_LANE_A else fPAIR_STS_LANE_B

theorem laneFld_cases (lane : Fin 2) : laneFld lane = fPAIR_STS_LANE_A ∨ laneFld lane = fPAIR_STS_LANE_B := by
  unfold laneFld
  split
  · exact Or.inl rfl
  · exact Or.inr rfl

theorem laneHeard_eq (lane : Fin 2) (s : State) : laneHeard lane s =
    (s.setPair { s.pair with laneAt := s.pair.laneAt.set lane s.up, laneDown := s.pair.laneDown.set lane false }).wrB (laneFld lane) true := by
  unfold laneHeard laneFld
  dsimp only
  split <;> rfl

theorem rd_laneFld {f : Fld} (ha : f.key ≠ fPAIR_STS_LANE_A.key) (hb : f.key ≠ fPAIR_STS_LANE_B.key) (lane : Fin 2) (v : Bool) (s : State) :
    (s.wrB (laneFld lane) v).rd f = s.rd f := by
  rcases laneFld_cases lane with h | h
  · rw [h, rd_wrB ha]
  · rw [h, rd_wrB hb]

theorem laneHeard_rd {f : Fld} (ha : f.key ≠ fPAIR_STS_LANE_A.key) (hb : f.key ≠ fPAIR_STS_LANE_B.key) (lane : Fin 2) (s : State) :
    (laneHeard lane s).rd f = s.rd f := by
  rw [laneHeard_eq]
  exact rd_laneFld ha hb ..

/-- The state in which a message acts. -/
def heard (m : PairMsg) (s : State) : State :=
  ((laneHeard m.lane s).setPair { (laneHeard m.lane s).pair with rxCtr := m.ctr, lastTick := m.tick }).wr fPAIR_STS_PARTNER_ROLE m.role

theorem heard_pair (m : PairMsg) (s : State) : (heard m s).pair = heardPair m s := by
  unfold heard
  rw [laneHeard_eq]
  rfl

theorem heard_rd {f : Fld} (ha : f.key ≠ fPAIR_STS_LANE_A.key) (hb : f.key ≠ fPAIR_STS_LANE_B.key) (hrole : f.key ≠ fPAIR_STS_PARTNER_ROLE.key)
    (m : PairMsg) (s : State) : (heard m s).rd f = s.rd f := (State.rd_wr_ne _ hrole _).trans (laneHeard_rd ha hb ..)

theorem heard_role (m : PairMsg) (s : State) : (heard m s).role = s.role := heard_rd (by decide) (by decide) (by decide) ..

theorem heard_partnerRole (m : PairMsg) (s : State) : (heard m s).rd fPAIR_STS_PARTNER_ROLE = m.role % 8 := State.rd_wr ..

theorem pairOnly_laneHeard {s t : State} (h : PairOnly s t) (lane : Fin 2) : PairOnly s (laneHeard lane t) := by
  rw [laneHeard_eq]
  exact (h.setPair _).wr _ _

theorem pairOnly_heard (m : PairMsg) (s : State) : PairOnly s (heard m s) := ((pairOnly_laneHeard (.refl s) m.lane).setPair _).wr _ _

/-- The next message of the session acts. -/
theorem pairRx_new {m : PairMsg} {s : State} (hauthed : s.pair.authed = true) (htag : m.tagOk = true) (hctr : s.pair.rxCtr < m.ctr)
    (act : State → State) : pairRx m act s = act (heard m s) := by
  have hrx : ¬m.ctr ≤ (laneHeard m.lane s).pair.rxCtr := by
    rw [laneHeard_eq]
    exact Nat.not_le.2 hctr
  unfold pairRx
  rw [if_neg (by simp [hauthed]), if_neg (by simp [htag])]
  exact if_neg hrx

/-! ### Authority taken (R411, R412) -/

/-- The pair's record of a module that takes authority at the tick after `n`. -/
def taking (n : Nat) (p : Pair) : Pair := { p with move := some (n + 1, true) }

theorem takeNext_eq (s : State) : takeNext s = s.setPair (taking s.curTick s.pair) := rfl

/-- The partner's abdication at a STANDBY that has not seen it. -/
def abdicationSeen (s : State) : State := s.setPair { s.pair with abdSeen := true, move := none }

theorem abdicationIn_standby {s : State} (hseen : s.pair.abdSeen = false) (hrole : s.role = roleStandby) :
    abdicationIn none s = if s.pairReady then takeNext (abdicationSeen s) else declined (abdicationSeen s) := by
  have hready : (abdicationSeen s).pairReady = s.pairReady := ((PairOnly.refl s).setPair _).pairReady rfl rfl rfl
  have hstandby : (abdicationSeen s).role = roleStandby := hrole
  unfold abdicationIn
  dsimp only
  rw [if_neg (by simp [hseen, hrole])]
  exact (if_pos hstandby).trans (if_congr (by rw [← hready]; rfl) rfl rfl)

theorem abdicationIn_cause (cause : Nat) (s : State) :
    abdicationIn (some cause) s = abdicationIn none (s.wr fPAIR_ABD_STS_PARTNER_CAUSE cause) := rfl

theorem declined_effect (s : State) : (declined s).pair = s.pair ∧ (declined s).bit fPAIR_FLT_FLAGS 7 = true ∧ (declined s).role = s.role := by
  refine ⟨post_pair .., (bit_eq_of_rd (post_rd _ _ _ (by decide)) 7).trans (bit_flag_self (by decide) s), ?_⟩
  exact (post_role ..).trans (rd_flag (by decide) s 7)

/-! ### Authority released (R407, R411) -/

/-- One pin under authority released. -/
def pinReleased (s : State) (p : Nat) : State :=
  if (s.pio.getD p none).isNone then s else ({ s with pio := s.pio.set p none }).emit (.pin "PIO" p none)

theorem getD_set_none {l : List (Option Bool)} {p q : Nat} (h : l.getD q none = none) : (l.set p none).getD q none = none := by
  rw [List.getD_eq_getElem?_getD] at h ⊢
  by_cases hp : p = q
  · subst hp
    rw [List.getElem?_set_self']
    cases l[p]? <;> rfl
  · rwa [List.getElem?_set_ne hp]

theorem pinReleased_pio (s : State) (p : Nat) : (pinReleased s p).pio.getD p none = none ∧
    ∀ q, s.pio.getD q none = none → (pinReleased s p).pio.getD q none = none := by
  unfold pinReleased
  split
  case isTrue h => exact ⟨Option.isNone_iff_eq_none.1 h, fun _ hq => hq⟩
  case isFalse h =>
    refine ⟨?_, fun q hq => getD_set_none hq⟩
    change (s.pio.set p none).getD p none = none
    rw [List.getD_eq_getElem?_getD, List.getElem?_set_self']
    cases s.pio[p]? <;> rfl

theorem foldl_pinReleased_pio (l : List Nat) (s : State) (q : Nat) (h : q ∈ l ∨ s.pio.getD q none = none) :
    (l.foldl pinReleased s).pio.getD q none = none := by
  induction l generalizing s with
  | nil => exact h.resolve_left List.not_mem_nil
  | cons x xs ih =>
    obtain ⟨hself, hkeeps⟩ := pinReleased_pio s x
    refine ih _ ?_
    rcases h with h | h
    · rcases List.mem_cons.1 h with rfl | h
      · exact Or.inr hself
      · exact Or.inl h
    · exact Or.inr (hkeeps q h)

/-- Every pin under authority is released. -/
theorem releaseAuthority_pins (s : State) : ∀ p ∈ s.authorityPins, (releaseAuthority s).pio.getD p none = none := by
  intro p hp
  have hpio : (releaseAuthority s).pio = (s.authorityPins.foldl pinReleased s).pio := by
    unfold releaseAuthority
    exact foldl_keeps State.pio (fun _ _ => rfl) (List.range 8) _
  rw [hpio]
  exact foldl_pinReleased_pio _ s p (Or.inl hp)

theorem releaseAuthority_same {p : Part} (hp : (4398181515265 : Nat).testBit p.num = false) (s : State) : p.same s (releaseAuthority s) :=
  (releaseAuthority_kept (Kept.refl 4398181515265 s) rfl).2.2.same p hp

/-- Of the registers, the release writes the pulse outputs' levels alone. -/
theorem releaseAuthority_rd {f : Fld} (hf : f.block ≠ 0x0A) (s : State) : (releaseAuthority s).rd f = s.rd f := by
  have hpins : (s.authorityPins.foldl pinReleased s).regs = s.regs := foldl_keeps State.regs (fun u p => by
    unfold pinReleased
    split <;> rfl) _ s
  have hlevels : RegsOut [0x0A] s (releaseAuthority s) := by
    unfold releaseAuthority
    refine regsOut_regs (regsOut_foldl (regsOut_regs (regsOut_refl _ s) hpins) fun u k hk hu => ?_) rfl
    have hk : k < 8 := List.mem_range.1 hk
    refine regsOut_wrB _ hu ?_
    interval_cases k <;> decide
  exact hlevels f (by simpa using hf)

/-! ### Sending (R402) -/

theorem pairSend_pair (s : State) (typ : Nat) (payload : Bytes) : ∃ n, (s.pairSend typ payload).pair = { s.pair with txCtr := n } := by
  unfold State.pairSend
  split
  · exact ⟨s.pair.txCtr, rfl⟩
  · exact ⟨_, rfl⟩

theorem pairSend_same {p : Part} (hp : p ∉ [Part.pair, .out]) (s : State) (typ : Nat) (payload : Bytes) : p.same s (s.pairSend typ payload) :=
  same_of_kept hp (st_pairSend_kept typ payload (Kept.refl _ s) rfl)

/-! ### Abdication (R410, R411) -/

/-- Pins released and PAIR_ABD_N pulled low. -/
def abdPulled (s : State) : State :=
  let u := releaseAuthority s
  ({ u.setPair { u.pair with abdUntil := some (u.up + 1000000), move := none, join := none, yieldClear := some u.up } with
    pwr := { u.pwr with abdN := false } }).emit (.pin "PAIR_ABD_N" 0 (some false))

/-- The role given up, its cause and tick shown. -/
def abdShown (cause : Nat) (s : State) : State :=
  let u := ((setRole roleYielded s).wr fPAIR_ABD_STS_OWN_CAUSE cause).inc fPAIR_ABD_CNT_EVENTS
  (u.wr64 fPAIR_AUTH_TICK_LO_J_LO (u.curTick + 1)).flag fPAIR_FLT_FLAGS 5

theorem doAbdicate_eq (cause : Nat) (s : State) : ∃ told payload,
    doAbdicate cause s = post 0xA5 payload (abdShown cause ((abdPulled s).pairSend pmAbdicate told)) := ⟨_, _, rfl⟩

theorem abdShown_effect {cause : Nat} (hcause : cause < 16) (s : State) : (abdShown cause s).role = roleYielded ∧
    (abdShown cause s).rd fPAIR_ABD_STS_OWN_CAUSE = cause ∧ (abdShown cause s).rd fPAIR_STS_AUTH = 0 ∧
    (abdShown cause s).rd fPAIR_ABD_CNT_EVENTS = satAdd 32 (s.rd fPAIR_ABD_CNT_EVENTS) 1 ∧ (abdShown cause s).pwr = s.pwr ∧
    (abdShown cause s).pair = s.pair ∧ (abdShown cause s).pio = s.pio := by
  have hbefore {f : Fld} (hflt : f.key ≠ fPAIR_FLT_FLAGS.key) (hlo : f.key ≠ fPAIR_AUTH_TICK_LO_J_LO.key)
      (hhi : f.key ≠ (liveHi fPAIR_AUTH_TICK_LO_J_LO).key) :
      (abdShown cause s).rd f = (((setRole roleYielded s).wr fPAIR_ABD_STS_OWN_CAUSE cause).inc fPAIR_ABD_CNT_EVENTS).rd f :=
    (rd_flag hflt ..).trans (rd_wr64_ne hlo hhi ..)
  refine ⟨?_, ?_, ?_, ?_, rfl, rfl, rfl⟩
  · refine (hbefore (by decide) (by decide) (by decide)).trans ((rd_inc_ne (by decide) ..).trans ((State.rd_wr_ne _ (by decide) _).trans ?_))
    exact setRole_role (by decide) s
  · refine (hbefore (by decide) (by decide) (by decide)).trans ((rd_inc_ne (by decide) ..).trans ((State.rd_wr ..).trans ?_))
    exact Nat.mod_eq_of_lt hcause
  · refine (hbefore (by decide) (by decide) (by decide)).trans ((rd_inc_ne (by decide) ..).trans ((State.rd_wr_ne _ (by decide) _).trans ?_))
    exact (rd_wrB (by decide) ..).trans (State.rd_wr ..)
  · refine (hbefore (by decide) (by decide) (by decide)).trans ((rd_inc_self ..).trans ?_)
    rw [State.rd_wr_ne _ (by decide), setRole_rd (by decide) (by decide) (by decide)]

/-- What an abdication leaves. -/
structure Abdicated (cause : Nat) (s t : State) : Prop where
  role : t.role = roleYielded
  cause : t.rd fPAIR_ABD_STS_OWN_CAUSE = cause
  abdN : t.pwr.abdN = false
  pulled : t.pair.abdUntil = some (s.up + 1000000)
  auth : t.rd fPAIR_STS_AUTH = 0
  count : t.rd fPAIR_ABD_CNT_EVENTS = satAdd 32 (s.rd fPAIR_ABD_CNT_EVENTS) 1
  pins : ∀ p ∈ s.authorityPins, t.pio.getD p none = none

theorem doAbdicate_abdicated {cause : Nat} (hcause : cause < 16) (s : State) : Abdicated cause s (doAbdicate cause s) := by
  obtain ⟨told, payload, heq⟩ := doAbdicate_eq cause s
  obtain ⟨n, hsent⟩ := pairSend_pair (abdPulled s) pmAbdicate told
  have hpwr : ((abdPulled s).pairSend pmAbdicate told).pwr = (abdPulled s).pwr := pairSend_same (p := .pwr) (by decide) ..
  have hpio : ((abdPulled s).pairSend pmAbdicate told).pio = (releaseAuthority s).pio := pairSend_same (p := .pio) (by decide) (abdPulled s) _ _
  have hcount : ((abdPulled s).pairSend pmAbdicate told).rd fPAIR_ABD_CNT_EVENTS = s.rd fPAIR_ABD_CNT_EVENTS :=
    (pairSend_rd ..).trans (releaseAuthority_rd (by decide) s)
  have hup : (releaseAuthority s).up = s.up := releaseAuthority_same (p := .up) (by decide) s
  rw [heq]
  generalize (abdPulled s).pairSend pmAbdicate told = u at hsent hpwr hpio hcount
  obtain ⟨hrole, hown, hauth, hcnt, hpwr', hpair', hpio'⟩ := abdShown_effect hcause u
  generalize abdShown cause u = v at hrole hown hauth hcnt hpwr' hpair' hpio'
  refine ⟨(post_role ..).trans hrole, (post_rd _ _ _ (by decide)).trans hown, ?_, ?_, (post_rd _ _ _ (by decide)).trans hauth,
    (post_rd _ _ _ (by decide)).trans (hcnt.trans (by rw [hcount])), fun p hp => ?_⟩
  · have h : (post 0xA5 payload v).pwr = v.pwr := post_same (p := .pwr) (by decide) ..
    rw [h, hpwr', hpwr]
    rfl
  · rw [post_pair, hpair', hsent, ← hup]
    rfl
  · have h : (post 0xA5 payload v).pio = v.pio := post_same (p := .pio) (by decide) ..
    rw [h, hpio', hpio]
    exact releaseAuthority_pins s p hp

/-- A trigger that is not conditional at an ACTIVE module (R410). -/
theorem abdicate_active {s : State} (hpaired : s.paired = true) (hrole : s.role = roleActive) (cause : Nat) :
    abdicate cause false s = doAbdicate cause (s.setPair { s.pair with yieldClear := some s.up }) := by
  have hactive : (s.setPair { s.pair with yieldClear := some s.up }).role = roleActive := hrole
  unfold abdicate
  rw [if_neg (by simp [hpaired])]
  dsimp only
  rw [if_pos hactive]
  exact if_neg (by simp)

/-! ### Recovery (R405) -/

theorem seek_eq (s : State) : ∃ nonce regs, seek s =
    sendHello ({ s with regs := regs }.nextFree.setPair { s.pair with seekSince := s.up, nonce := some nonce, helloIn := none, authed := false }) ∧
      ({ s with regs := regs } : State).role = roleSeeking := by
  have hrole : (setRole roleSeeking s).role = roleSeeking := setRole_role (by decide) s
  unfold seek
  dsimp only
  split
  · exact ⟨_, _, rfl, (rd_flag (by decide) ..).trans hrole⟩
  · exact ⟨_, _, rfl, hrole⟩

/-- A module that begins to look for a partner. -/
theorem seek_effect (s : State) : (seek s).role = roleSeeking ∧ (seek s).pair.seekSince = s.up ∧ (seek s).pair.authed = false ∧
    (seek s).out.length = s.out.length + 2 := by
  obtain ⟨nonce, regs, heq, hrole⟩ := seek_eq s
  rw [heq]
  refine ⟨hrole, rfl, rfl, ?_⟩
  rw [sendHello, pairEmit_out, List.length_append, List.length_append]
  rfl

/-- What a recovered module turns to. -/
def recovered (s : State) : State :=
  if s.on fPAIR_STS_PARTNER_UP then
    if s.rd fPAIR_STS_PARTNER_ROLE = roleActive then setRole roleJoining s
    else (setRole roleSeeking s).setPair { s.pair with seekSince := s.up }
  else seek s

theorem exec_yieldRecover {c : Nat} {s : State} (hclear : s.pair.yieldClear = some c)
    (hgo : ¬(decide (s.role ≠ roleYielded) || decide (s.rd fPAIR_ABD_STS_OWN_CAUSE = abdSupply) || s.triggerNow ||
      decide (s.up < c + s.rd fPAIR_CFG_RECOVER_S * 1000000000)) = true) : exec .yieldRecover s = .next (recovered s) := by
  have hexec : exec .yieldRecover s = execYieldRecover s := rfl
  rw [hexec]
  unfold execYieldRecover
  split
  · next h => exact absurd (h.symm.trans hclear) (by simp)
  · next t h =>
    obtain rfl : t = c := Option.some.inj (h.symm.trans hclear)
    exact congrArg _ (if_neg hgo)

/-! ### The obligation -/

/-- Settles O47: what a message does to authority rests on the role and the readiness, which the message itself leaves as they were. -/
theorem authorityRows : Obligations.AuthorityRows := by
  refine ⟨?abdication, ?pin, ?handover, ?released, ?watchdog, ?wait, ?recover⟩
  case abdication =>
    intro m cause inst s hauthed htag hctr hrole hseen
    have hexec : exec (.abdicate m cause inst) s = .next (abdicationIn none ((heard m s).wr fPAIR_ABD_STS_PARTNER_CAUSE cause)) :=
      congrArg _ ((pairRx_new hauthed htag hctr _).trans (abdicationIn_cause cause _))
    have honly : PairOnly s ((heard m s).wr fPAIR_ABD_STS_PARTNER_CAUSE cause) := (pairOnly_heard m s).wr _ _
    have hpair : ((heard m s).wr fPAIR_ABD_STS_PARTNER_CAUSE cause).pair = heardPair m s := heard_pair m s
    have hrd {f : Fld} (ha : f.key ≠ fPAIR_STS_LANE_A.key) (hb : f.key ≠ fPAIR_STS_LANE_B.key) (hp : f.key ≠ fPAIR_STS_PARTNER_ROLE.key)
        (hc : f.key ≠ fPAIR_ABD_STS_PARTNER_CAUSE.key) : ((heard m s).wr fPAIR_ABD_STS_PARTNER_CAUSE cause).rd f = s.rd f :=
      (State.rd_wr_ne _ hc _).trans (heard_rd ha hb hp ..)
    have hcause : ((heard m s).wr fPAIR_ABD_STS_PARTNER_CAUSE cause).rd fPAIR_ABD_STS_PARTNER_CAUSE = cause % 16 := State.rd_wr ..
    generalize (heard m s).wr fPAIR_ABD_STS_PARTNER_CAUSE cause = u at hexec honly hpair hrd hcause
    have hstandby : u.role = roleStandby := (hrd (by decide) (by decide) (by decide) (by decide)).trans hrole
    have hready : u.pairReady = s.pairReady := honly.pairReady (hrd (by decide) (by decide) (by decide) (by decide))
      (hrd (by decide) (by decide) (by decide) (by decide)) (by rw [hpair]; rfl)
    have htick : u.curTick = s.curTick := honly.keeps fun _ _ _ => rfl
    have hact := abdicationIn_standby (s := u) (by rw [hpair]; exact hseen) hstandby
    refine ⟨fun hyes => ?_, fun hno => ?_⟩
    · refine runs_next hexec (hact.trans (if_pos (hready.trans hyes))) ⟨?_, rfl, hcause, hstandby⟩
      exact congrArg (fun n => some (n + 1, true)) htick
    · obtain ⟨hp, hflag, hr⟩ := declined_effect (abdicationSeen u)
      refine runs_next hexec (hact.trans (if_neg (by simp [hready, hno]))) ⟨?_, ?_, hflag, hr.trans hstandby⟩
      · rw [hp]
        rfl
      · rw [hp]
        rfl
  case pin =>
    intro s hpaired habd hrole hseen hready
    exact congrArg _ ((if_neg (by simp [hpaired, habd])).trans ((abdicationIn_standby hseen hrole).trans (if_pos hready)))
  case handover =>
    intro m j s hauthed htag hctr hrole
    have hstandby : ¬(heard m s).role ≠ roleStandby := not_not.2 ((heard_role m s).trans hrole)
    refine runs_next rfl ((pairRx_new hauthed htag hctr _).trans (if_neg hstandby)) ⟨?_, ?_, ?_⟩
    · rw [post_pair]
      rfl
    · exact (post_rd _ _ _ (by decide)).trans (State.rd_wr ..)
    · rw [post_pair]
      exact congrArg Pair.rxCtr (heard_pair m s)
  case released =>
    intro e s huntil hdue
    exact runs_next rfl (by simp only [huntil]; exact if_neg (Nat.not_lt.2 hdue)) ⟨rfl, rfl, rfl⟩
  case watchdog =>
    intro s htick hpaired hrole hlate
    have habd := doAbdicate_abdicated (cause := abdWatchdog) (by decide) (s.setPair { s.pair with yieldClear := some s.up })
    exact runs_next rfl ((if_pos (by simpa [htick] using hlate)).trans (abdicate_active hpaired hrole _))
      ⟨habd.role, habd.cause, habd.abdN, habd.pulled, habd.auth, habd.count, habd.pins⟩
  case wait =>
    intro s hrole hup halone hmove hlate
    exact congrArg _ (if_pos (by simpa [hrole, hup, halone, hmove] using hlate))
  case recover =>
    intro c s hclear hrole hcause htrigger hlate
    have hgo : ¬(decide (s.role ≠ roleYielded) || decide (s.rd fPAIR_ABD_STS_OWN_CAUSE = abdSupply) || s.triggerNow ||
        decide (s.up < c + s.rd fPAIR_CFG_RECOVER_S * 1000000000)) = true := by simp [hrole, hcause, htrigger, hlate]
    have hexec := exec_yieldRecover hclear hgo
    by_cases hup : s.on fPAIR_STS_PARTNER_UP = true
    · by_cases hpartner : s.rd fPAIR_STS_PARTNER_ROLE = roleActive
      · have hjoining : (setRole roleJoining s).role = roleJoining := setRole_role (by decide) s
        exact ⟨_, hexec.trans (congrArg _ ((if_pos hup).trans (if_pos hpartner))), hjoining.trans (if_pos ⟨hup, hpartner⟩).symm,
          fun h => absurd (h.symm.trans hjoining) (by decide), fun h => absurd (h.symm.trans hup) Bool.false_ne_true⟩
      · have hseeking : ((setRole roleSeeking s).setPair { s.pair with seekSince := s.up }).role = roleSeeking := setRole_role (r := roleSeeking) (by decide) s
        exact ⟨_, hexec.trans (congrArg _ ((if_pos hup).trans (if_neg hpartner))), hseeking.trans (if_neg fun h => hpartner h.2).symm, fun _ => rfl,
          fun h => absurd (h.symm.trans hup) Bool.false_ne_true⟩
    · obtain ⟨hseeking, hsince, -, hout⟩ := seek_effect s
      exact ⟨_, hexec.trans (congrArg _ (if_neg hup)), hseeking.trans (if_neg fun h => hup h.1).symm, fun _ => hsince, fun _ => hout⟩

end Sys2Proof.Machine
end

section
/-!
PROOFS. Scope: the join (R416 to R421).
-/

namespace Sys2Proof.Machine

/-! ### Sending in a session (R402) -/

/-- What is sent tells the member, the role, the last `Inst` and the session; nothing else of the pair's record. -/
theorem PairOnly.pairSend_out {s t : State} (h : PairOnly s t) (hmember : t.rd fPAIR_STS_MEMBER = s.rd fPAIR_STS_MEMBER)
    (hrole : t.role = s.role) (hauthed : t.pair.authed = s.pair.authed) (hctr : t.pair.txCtr = s.pair.txCtr)
    (hkey : t.pair.sessKey = s.pair.sessKey) (typ : Nat) (payload : Bytes) : (t.pairSend typ payload).out = (s.pairSend typ payload).out := by
  have hout : t.out = s.out := h.keeps fun _ _ _ => rfl
  have hlast : t.lastActivated = s.lastActivated := h.keeps (f := State.lastActivated) fun _ _ _ => rfl
  have hbody : t.pairBody = s.pairBody := by
    funext typ ctr payload
    unfold State.pairBody
    rw [hmember, hrole, hlast]
  have hframe (lane ctr : Nat) : t.pairFrame lane typ ctr payload = s.pairFrame lane typ ctr payload := by
    simp only [State.pairFrame, State.pairTag, hbody, hkey]
  unfold State.pairSend
  rw [hauthed, hctr]
  split
  · exact hout
  · have hemit (u : State) (n : Nat) : ((u.setPair { u.pair with txCtr := n }).pairEmit typ n payload).out =
        u.out ++ [.pair 0 (u.pairFrame 0 typ n payload)] ++ [.pair 1 (u.pairFrame 1 typ n payload)] := rfl
    rw [hemit, hemit, hout, hframe, hframe]

@[simp] theorem State.setPair_pair (s : State) (p : Pair) : (s.setPair p).pair = p := rfl

theorem pairSend_role (s : State) (typ : Nat) (payload : Bytes) : (s.pairSend typ payload).role = s.role := pairSend_rd ..

/-! ### The state in which a message of the join acts -/

/-- What a message leaves before it acts, by what the join reads. -/
structure Heard (m : PairMsg) (s u : State) : Prop where
  pair : u.pair = heardPair m s
  role : u.role = s.role
  only : PairOnly s u
  rd : ∀ f : Fld, f.key ≠ fPAIR_STS_LANE_A.key → f.key ≠ fPAIR_STS_LANE_B.key → f.key ≠ fPAIR_STS_PARTNER_ROLE.key → u.rd f = s.rd f

theorem heard_heard (m : PairMsg) (s : State) : Heard m s (heard m s) :=
  ⟨heard_pair m s, heard_role m s, pairOnly_heard m s, fun _ ha hb hr => heard_rd ha hb hr m s⟩

/-- A message in the session tells what one would before it. -/
theorem Heard.pairSend_out {m : PairMsg} {s u : State} (h : Heard m s u) (p : Pair) (hauthed : p.authed = s.pair.authed)
    (hctr : p.txCtr = s.pair.txCtr) (hkey : p.sessKey = s.pair.sessKey) (typ : Nat) (payload : Bytes) :
    ((u.setPair p).pairSend typ payload).out = (s.pairSend typ payload).out :=
  (h.only.setPair p).pairSend_out (h.rd _ (by decide) (by decide) (by decide)) h.role hauthed hctr hkey typ payload

/-! ### A join that fails (R419) -/

/-- The pair's record after a join has failed. -/
def joinless (up : Nat) (p : Pair) : Pair := { p with join := none, ownAtC := none, unsyncAt := up }

structure JoinFailed (s t : State) : Prop where
  role : t.role = roleUnsynced
  flag : t.bit fPAIR_FLT_FLAGS 9 = true
  pair : t.pair = joinless s.up s.pair
  count : t.rd fPAIR_JOINF_CNT_JOINS = satAdd 32 (s.rd fPAIR_JOINF_CNT_JOINS) 1

/-- The role and the counts of a failed join, before it is told. -/
def joinFailShown (s : State) : State :=
  ((((setRole roleUnsynced (s.setPair (joinless s.up s.pair))).wr fPAIR_STS_ATTEMPTS (min (s.rd fPAIR_STS_ATTEMPTS + 1) 15)).inc
    fPAIR_JOINF_CNT_JOINS).flag fPAIR_FLT_FLAGS 9)

theorem joinFail_eq (reason : Nat) (s : State) : ∃ payload, joinFail reason s = post 0xA4 payload (joinFailShown s) := ⟨_, rfl⟩

theorem joinFail_failed (reason : Nat) (s : State) : JoinFailed s (joinFail reason s) := by
  obtain ⟨payload, heq⟩ := joinFail_eq reason s
  rw [heq]
  refine ⟨(post_role ..).trans ?_, (bit_eq_of_rd (post_rd _ _ _ (by decide)) 9).trans (bit_flag_self (by decide) _), post_pair ..,
    (post_rd _ _ _ (by decide)).trans ?_⟩
  · exact (rd_flag (by decide) ..).trans ((rd_inc_ne (by decide) ..).trans ((State.rd_wr_ne _ (by decide) _).trans
      (setRole_role (r := roleUnsynced) (by decide) _)))
  · refine (rd_flag (by decide) ..).trans ((rd_inc_self ..).trans ?_)
    rw [State.rd_wr_ne _ (by decide), setRole_rd (by decide) (by decide) (by decide)]
    rfl

/-- A join that a message fails. -/
theorem JoinFailed.of_heard {m : PairMsg} {s u t : State} (h : Heard m s u) (k : JoinFailed u t) : t.role = roleUnsynced ∧
    t.bit fPAIR_FLT_FLAGS 9 = true ∧ t.pair = joinless s.up (heardPair m s) ∧
    t.rd fPAIR_JOINF_CNT_JOINS = satAdd 32 (s.rd fPAIR_JOINF_CNT_JOINS) 1 := by
  have hup : u.up = s.up := h.only.keeps fun _ _ _ => rfl
  exact ⟨k.role, k.flag, by rw [k.pair, h.pair, hup], by rw [k.count, h.rd _ (by decide) (by decide) (by decide)]⟩

/-! ### The messages of the join (R417) -/

/-- A block of the copy. -/
def blockIn (e id : Nat) (b : CopyBlock) (ok : Bool) (s : State) : State :=
  match s.pair.join with
  | some j =>
    if s.role = roleJoining && j.epoch = e && ok then s.setPair { s.pair with join := some { j with blocks := smInsert j.blocks id b } } else s
  | none => s

/-- END at the joiner, READY at the module that serves it. -/
def endReadyIn (e n : Nat) (ok : Bool) (s : State) : State :=
  match s.pair.join with
  | some j => if s.role = roleJoining then endIn e n ok j s else if s.role = roleActive then readyIn e n j s else s
  | none => s

/-- COMMIT at the joiner. -/
def commitIn (e k : Nat) (s : State) : State :=
  match s.pair.join with
  | some j =>
    if s.role ≠ roleJoining || j.epoch ≠ e || !j.ready then s
    else if s.clv.now ≥ s.tickInst k then joinFail 7 s
    else s.setPair { s.pair with join := some { j with k := some k } }
  | none => s

section Message

variable {m : PairMsg} {s : State} (hauthed : s.pair.authed = true) (htag : m.tagOk = true) (hctr : s.pair.rxCtr < m.ctr)

include hauthed htag hctr

theorem exec_prepare (e c : Nat) : exec (.prepare m e c) s = .next (
    if (heard m s).role ≠ roleJoining then heard m s
    else if (heard m s).pair.join.isSome then joinFail 5 (heard m s)
    else (heard m s).setPair { (heard m s).pair with join := some { epoch := e, c := c, since := (heard m s).up }, ownAtC := none }) :=
  congrArg _ (pairRx_new hauthed htag hctr _)

theorem exec_block (e id : Nat) (b : CopyBlock) (ok : Bool) : exec (.block m e id b ok) s = .next (blockIn e id b ok (heard m s)) :=
  congrArg _ (pairRx_new hauthed htag hctr _)

theorem exec_endReady (e n : Nat) (ok : Bool) : exec (.endReady m e n ok) s = .next (endReadyIn e n ok (heard m s)) :=
  congrArg _ (pairRx_new hauthed htag hctr _)

theorem exec_commit (e k : Nat) : exec (.commit m e k) s = .next (commitIn e k (heard m s)) :=
  congrArg _ (pairRx_new hauthed htag hctr _)

theorem exec_accSum (tick : Nat) (anets : List Nat) : exec (.accSum m tick anets) s = .next (accSumIn tick anets (heard m s)) :=
  congrArg _ (pairRx_new hauthed htag hctr _)

end Message

theorem blockIn_of_join {s : State} {j : Join} (h : s.pair.join = some j) (e id : Nat) (b : CopyBlock) (ok : Bool) : blockIn e id b ok s =
    if s.role = roleJoining && j.epoch = e && ok then s.setPair { s.pair with join := some { j with blocks := smInsert j.blocks id b } } else s := by
  unfold blockIn
  rw [h]

theorem endReadyIn_of_join {s : State} {j : Join} (h : s.pair.join = some j) (e n : Nat) (ok : Bool) : endReadyIn e n ok s =
    if s.role = roleJoining then endIn e n ok j s else if s.role = roleActive then readyIn e n j s else s := by
  unfold endReadyIn
  rw [h]

theorem commitIn_of_join {s : State} {j : Join} (h : s.pair.join = some j) (e k : Nat) : commitIn e k s =
    if s.role ≠ roleJoining || j.epoch ≠ e || !j.ready then s
    else if s.clv.now ≥ s.tickInst k then joinFail 7 s
    else s.setPair { s.pair with join := some { j with k := some k } } := by
  unfold commitIn
  rw [h]

theorem joinIn_of_none {s : State} (h : s.pair.join = none) (e id k n : Nat) (b : CopyBlock) (ok : Bool) : blockIn e id b ok s = s ∧
    endReadyIn e n ok s = s ∧ commitIn e k s = s := by
  unfold blockIn endReadyIn commitIn
  rw [h]
  exact ⟨rfl, rfl, rfl⟩

/-- A block is not staged but at a joiner, of its epoch, where it checks. -/
theorem blockIn_ignored {s : State} {e : Nat} {ok : Bool}
    (h : s.role ≠ roleJoining ∨ s.pair.join = none ∨ (∃ j, s.pair.join = some j ∧ j.epoch ≠ e) ∨ ok = false) (id : Nat) (b : CopyBlock) :
    blockIn e id b ok s = s := by
  cases hjoin : s.pair.join with
  | none => exact (joinIn_of_none hjoin e id 0 0 b ok).1
  | some j =>
    rw [blockIn_of_join hjoin]
    refine if_neg ?_
    rcases h with h | h | ⟨j', h, he⟩ | h
    · simp [h]
    · exact absurd (hjoin.symm.trans h) (by simp)
    · obtain rfl : j = j' := Option.some.inj (hjoin.symm.trans h)
      simp [he]
    · simp [h]

theorem commitIn_ignored {s : State} {e : Nat}
    (h : s.role ≠ roleJoining ∨ s.pair.join = none ∨ (∃ j, s.pair.join = some j ∧ (j.epoch ≠ e ∨ j.ready = false))) (k : Nat) :
    commitIn e k s = s := by
  cases hjoin : s.pair.join with
  | none => exact (joinIn_of_none hjoin e 0 k 0 (.wins []) true).2.2
  | some j =>
    rw [commitIn_of_join hjoin]
    refine if_pos ?_
    rcases h with h | h | ⟨j', h, he⟩
    · simp [h]
    · exact absurd (hjoin.symm.trans h) (by simp)
    · obtain rfl : j = j' := Option.some.inj (hjoin.symm.trans h)
      rcases he with he | he <;> simp [he]

theorem endReadyIn_ignored {s : State} {e : Nat} (h : s.pair.join = none ∨ (∃ j, s.pair.join = some j ∧ j.epoch ≠ e) ∨
    (s.role ≠ roleJoining ∧ s.role ≠ roleActive)) (n : Nat) (ok : Bool) : endReadyIn e n ok s = s := by
  cases hjoin : s.pair.join with
  | none => exact (joinIn_of_none hjoin e 0 0 n (.wins []) ok).2.1
  | some j =>
    rw [endReadyIn_of_join hjoin]
    rcases h with h | ⟨j', h, he⟩ | ⟨hj, ha⟩
    · exact absurd (hjoin.symm.trans h) (by simp)
    · obtain rfl : j = j' := Option.some.inj (hjoin.symm.trans h)
      have hend : endIn e n ok j s = s := if_pos he
      have hready : readyIn e n j s = s := if_pos (by simp [he])
      rw [hend, hready, ite_self, ite_self]
    · rw [if_neg hj, if_neg ha]

/-! ### The copy (R417) -/

theorem sendBlock_role (e id : Nat) (data : Bytes) (s : State) : (sendBlock e id data s).role = s.role :=
  foldl_keeps State.role (fun _ _ => pairSend_role ..) _ s

/-- The whole copy sent: the join holds how many blocks it was. -/
theorem sendCopy_effect (j : Join) (s : State) : (sendCopy j s).role = s.role ∧
    (sendCopy j s).pair.join = some { j with sent := s.copyBlocks.length } := by
  unfold sendCopy
  dsimp only
  have hrole := foldl_keeps State.role (f := fun s (b : CopyBlock × Nat) => sendBlock j.epoch b.2 (Config.copyBytes b.1) s)
    (fun _ _ => sendBlock_role ..) s.copyBlocks.zipIdx s
  generalize s.copyBlocks.zipIdx.foldl (fun s b => sendBlock j.epoch b.2 (Config.copyBytes b.1) s) s = u at hrole
  unfold sendEnd
  refine ⟨(pairSend_role ..).trans hrole, ?_⟩
  obtain ⟨n, hn⟩ := pairSend_pair (u.setPair { u.pair with join := some { j with sent := s.copyBlocks.length } }) pmEnd
    (be 8 j.epoch ++ be 2 s.copyBlocks.length ++ be 2 0 ++ be 4 (copyCrc s.copyBlocks))
  rw [hn]
  rfl

/-! ### Sums (R421) -/

/-- The differences of the cut sets. -/
def State.sumDiffs (s : State) (tick : Nat) (anets : List Nat) : List (Nat × Int) :=
  ((s.cutsAt tick).zipIdx.map fun c => (c.2, toSigned 96 (anets.getD c.2 0) - c.1.anet)).filter fun d => d.2 ≠ 0

/-- The differences noted. -/
def sumsNoted (tick : Nat) (anets : List Nat) (s : State) : State :=
  s.setPair { s.pair with diffs := s.sumDiffs tick anets, accTick := tick }

theorem accSumIn_cases (tick : Nat) (anets : List Nat) (s : State) :
    (s.sumDiffs tick anets = [] ∧ accSumIn tick anets s = sumsNoted tick anets s) ∨
    accSumIn tick anets s = (sumsNoted tick anets s).flag fPAIR_FLT_FLAGS 13 ∨
    ∃ payload, accSumIn tick anets s = post 0xAD payload (((sumsNoted tick anets s).flag fPAIR_FLT_FLAGS 13).setPair
      { (sumsNoted tick anets s).pair with diffRec := some s.up }) := by
  unfold accSumIn
  dsimp only
  split
  · next hnone => exact Or.inl ⟨hnone, rfl⟩
  · refine Or.inr ?_
    split
    · split
      · exact Or.inl rfl
      · exact Or.inr ⟨_, rfl⟩
    · exact Or.inr ⟨_, rfl⟩

/-- What the sums of a tick leave. -/
structure Summed (tick : Nat) (anets : List Nat) (s t : State) : Prop where
  role : t.role = s.role
  at_ : t.pair.accTick = tick
  acc : t.acc = s.acc
  join : t.pair.join = s.pair.join
  diffs : t.pair.diffs = s.sumDiffs tick anets
  flag : s.sumDiffs tick anets ≠ [] → t.bit fPAIR_FLT_FLAGS 13 = true

theorem accSumIn_summed (tick : Nat) (anets : List Nat) (s : State) : Summed tick anets s (accSumIn tick anets s) := by
  have hrole : ((sumsNoted tick anets s).flag fPAIR_FLT_FLAGS 13).role = s.role := rd_flag (by decide) (sumsNoted tick anets s) 13
  have hflag : ((sumsNoted tick anets s).flag fPAIR_FLT_FLAGS 13).bit fPAIR_FLT_FLAGS 13 = true := bit_flag_self (by decide) _
  rcases accSumIn_cases tick anets s with ⟨hnone, heq⟩ | heq | ⟨payload, heq⟩
  · rw [heq]
    exact ⟨rfl, rfl, rfl, rfl, rfl, fun h => absurd hnone h⟩
  · rw [heq]
    exact ⟨hrole, rfl, rfl, rfl, rfl, fun _ => hflag⟩
  · rw [heq]
    refine ⟨(post_role ..).trans hrole, ?_, post_acc .., ?_, ?_, fun _ => (bit_eq_of_rd (post_rd _ _ _ (by decide)) 13).trans hflag⟩
    all_goals rw [post_pair]
    all_goals rfl

/-! ### The obligation -/

section Rows

variable {m : PairMsg} {s : State} (hauthed : s.pair.authed = true) (htag : m.tagOk = true) (hctr : s.pair.rxCtr < m.ctr)

include hauthed htag hctr

theorem runs_prepare (e c : Nat) :
    (s.role = roleJoining → s.pair.join = none → Runs (.prepare m e c) s fun t => t.role = roleJoining ∧
      t.pair = { heardPair m s with join := some { epoch := e, c := c, since := s.up }, ownAtC := none }) ∧
    (s.role = roleJoining → s.pair.join.isSome = true → Runs (.prepare m e c) s fun t => t.role = roleUnsynced ∧ t.bit fPAIR_FLT_FLAGS 9 = true ∧
      t.pair = joinless s.up (heardPair m s) ∧ t.rd fPAIR_JOINF_CNT_JOINS = satAdd 32 (s.rd fPAIR_JOINF_CNT_JOINS) 1) ∧
    (s.role ≠ roleJoining → Runs (.prepare m e c) s fun t => t.role = s.role ∧ t.pair = heardPair m s) := by
  have hexec := exec_prepare hauthed htag hctr e c
  have hu := heard_heard m s
  generalize heard m s = u at hexec hu
  have hup : u.up = s.up := hu.only.keeps fun _ _ _ => rfl
  refine ⟨fun hrole hnone => ?_, fun hrole hsome => ?_, fun hrole => ?_⟩
  · have hno : ¬u.pair.join.isSome = true := by
      rw [hu.pair]
      exact fun h => absurd (h.symm.trans (congrArg Option.isSome hnone)) (by decide)
    refine runs_next hexec ((if_neg (not_not.2 (hu.role.trans hrole))).trans (if_neg hno)) ⟨hu.role.trans hrole, ?_⟩
    rw [State.setPair_pair, hu.pair, hup]
  · have hyes : u.pair.join.isSome = true := by
      rw [hu.pair]
      exact hsome
    exact runs_next hexec ((if_neg (not_not.2 (hu.role.trans hrole))).trans (if_pos hyes)) ((joinFail_failed 5 u).of_heard hu)
  · exact runs_next hexec (if_pos (hu.role ▸ hrole)) ⟨hu.role, hu.pair⟩

theorem runs_block (e id : Nat) (b : CopyBlock) (ok : Bool) :
    (∀ j, s.role = roleJoining → s.pair.join = some j → j.epoch = e → ok = true → Runs (.block m e id b ok) s fun t => t.role = roleJoining ∧
      t.pair = { heardPair m s with join := some { j with blocks := smInsert j.blocks id b } }) ∧
    (s.role ≠ roleJoining ∨ s.pair.join = none ∨ (∃ j, s.pair.join = some j ∧ j.epoch ≠ e) ∨ ok = false →
      Runs (.block m e id b ok) s fun t => t.role = s.role ∧ t.pair = heardPair m s) := by
  have hexec := exec_block hauthed htag hctr e id b ok
  have hu := heard_heard m s
  generalize heard m s = u at hexec hu
  have hjoin : u.pair.join = s.pair.join := by rw [hu.pair]; rfl
  refine ⟨fun j hrole hj he hok => ?_, fun h => ?_⟩
  · refine runs_next hexec ((blockIn_of_join (hjoin.trans hj) ..).trans (if_pos (by simp [hu.role, hrole, he, hok]))) ⟨hu.role.trans hrole, ?_⟩
    rw [State.setPair_pair, hu.pair]
  · exact runs_next hexec (blockIn_ignored (by rwa [hu.role, hjoin]) id b) ⟨hu.role, hu.pair⟩

theorem runs_commit (e k : Nat) :
    (∀ j, s.role = roleJoining → s.pair.join = some j → j.epoch = e → j.ready = true →
      (s.clv.now < s.tickInst k → Runs (.commit m e k) s fun t => t.role = roleJoining ∧
        t.pair = { heardPair m s with join := some { j with k := some k } }) ∧
      (s.clv.now ≥ s.tickInst k → Runs (.commit m e k) s fun t => t.role = roleUnsynced ∧ t.bit fPAIR_FLT_FLAGS 9 = true ∧
        t.pair = joinless s.up (heardPair m s))) ∧
    (s.role ≠ roleJoining ∨ s.pair.join = none ∨ (∃ j, s.pair.join = some j ∧ (j.epoch ≠ e ∨ j.ready = false)) →
      Runs (.commit m e k) s fun t => t.role = s.role ∧ t.pair = heardPair m s) := by
  have hexec := exec_commit hauthed htag hctr e k
  have hu := heard_heard m s
  generalize heard m s = u at hexec hu
  have hjoin : u.pair.join = s.pair.join := by rw [hu.pair]; rfl
  have hnow : u.clv.now = s.clv.now := hu.only.keeps (f := fun u => u.clv.now) fun _ _ _ => rfl
  have hinst : u.tickInst k = s.tickInst k := hu.only.keeps (f := fun u => u.tickInst k) fun _ _ _ => rfl
  refine ⟨fun j hrole hj he hready => ?_, fun h => ?_⟩
  · have hgo : ¬(decide (u.role ≠ roleJoining) || decide (j.epoch ≠ e) || !j.ready) = true := by simp [hu.role, hrole, he, hready]
    have hact := (commitIn_of_join (hjoin.trans hj) e k).trans (if_neg hgo)
    rw [hnow, hinst] at hact
    refine ⟨fun hsoon => ?_, fun hlate => ?_⟩
    · refine runs_next hexec (hact.trans (if_neg (Nat.not_le.2 hsoon))) ⟨hu.role.trans hrole, ?_⟩
      rw [State.setPair_pair, hu.pair]
    · obtain ⟨hr, hflag, hp, -⟩ := (joinFail_failed 7 u).of_heard hu
      exact runs_next hexec (hact.trans (if_pos hlate)) ⟨hr, hflag, hp⟩
  · exact runs_next hexec (commitIn_ignored (by rwa [hu.role, hjoin]) k) ⟨hu.role, hu.pair⟩

/-- END at the joiner. -/
theorem runs_end (e n : Nat) (ok : Bool) (j : Join) (hrole : s.role = roleJoining) (hj : s.pair.join = some j) (he : j.epoch = e) :
    (ok = true → j.blocks.length = n → Runs (.endReady m e n ok) s fun t => t.role = roleJoining ∧ t.pair.join = some { j with ready := true } ∧
      t.out = (sendEnd e n (copyCrc (j.blocks.map fun b => b.2)) s).out) ∧
    (ok = false ∨ j.blocks.length ≠ n → j.resent = false → Runs (.endReady m e n ok) s fun t => t.role = roleJoining ∧
      t.pair.join = some { j with resent := true } ∧
      t.out = (sendEnd e (if ok = true then j.blocks.length else 0) (copyCrc (j.blocks.map fun b => b.2)) s).out) ∧
    (ok = false ∨ j.blocks.length ≠ n → j.resent = true → Runs (.endReady m e n ok) s fun t => t.role = roleUnsynced ∧ t.pair.join = none ∧
      t.bit fPAIR_FLT_FLAGS 9 = true) := by
  have hexec := exec_endReady hauthed htag hctr e n ok
  have hu := heard_heard m s
  generalize heard m s = u at hexec hu
  have hjoin : u.pair.join = some j := by rw [hu.pair]; exact hj
  have hact : endReadyIn e n ok u = if ok && j.blocks.length = n then
        sendEnd e n (copyCrc (j.blocks.map fun b => b.2)) (u.setPair { u.pair with join := some { j with ready := true } })
      else if j.resent then joinFail 3 u
      else sendEnd e (if ok then j.blocks.length else 0) (copyCrc (j.blocks.map fun b => b.2))
        (u.setPair { u.pair with join := some { j with resent := true } }) :=
    (endReadyIn_of_join hjoin e n ok).trans ((if_pos (hu.role.trans hrole)).trans (if_neg (not_not.2 he)))
  have hsent (x : Join) (count crc : Nat) :
      (sendEnd e count crc (u.setPair { u.pair with join := some x })).role = roleJoining ∧
      (sendEnd e count crc (u.setPair { u.pair with join := some x })).pair.join = some x ∧
      (sendEnd e count crc (u.setPair { u.pair with join := some x })).out = (sendEnd e count crc s).out := by
    unfold sendEnd
    obtain ⟨c, hc⟩ := pairSend_pair (u.setPair { u.pair with join := some x }) pmEnd (be 8 e ++ be 2 count ++ be 2 0 ++ be 4 crc)
    refine ⟨(pairSend_role ..).trans (hu.role.trans hrole), congrArg Pair.join hc, hu.pairSend_out _ ?_ ?_ ?_ ..⟩
    all_goals rw [hu.pair]
    all_goals rfl
  refine ⟨fun hok hall => ?_, fun hless hfirst => ?_, fun hless hagain => ?_⟩
  · exact runs_next hexec (hact.trans (if_pos (by simp [hok, hall]))) (hsent _ _ _)
  all_goals have hno : ¬(ok && decide (j.blocks.length = n)) = true := by rcases hless with h | h <;> simp [h]
  · exact runs_next hexec (hact.trans ((if_neg hno).trans (if_neg (by simp [hfirst])))) (hsent _ _ _)
  · obtain ⟨hr, hflag, hp, -⟩ := (joinFail_failed 3 u).of_heard hu
    exact runs_next hexec (hact.trans ((if_neg hno).trans (if_pos hagain))) ⟨hr, by rw [hp]; rfl, hflag⟩

/-- READY at the module that serves the join. -/
theorem runs_ready (e n : Nat) (ok : Bool) (j : Join) (hrole : s.role = roleActive) (hj : s.pair.join = some j) (he : j.epoch = e)
    (hcopied : j.sent ≠ 0) (hopen : j.k = none) :
    (n = j.sent → Runs (.endReady m e n ok) s fun t => t.role = roleActive ∧ t.pair.join = some { j with k := some (s.tickAhead 2000000) } ∧
      t.out = (s.pairSend pmCommit (be 8 e ++ be 8 (s.tickAhead 2000000))).out) ∧
    (n ≠ j.sent → j.resent = false → Runs (.endReady m e n ok) s fun t => t.role = roleActive ∧
      t.pair.join = some { j with resent := true, sent := s.copyBlocks.length }) ∧
    (n ≠ j.sent → j.resent = true → Runs (.endReady m e n ok) s fun t => t.role = roleActive ∧ t.pair.join = none) := by
  have hexec := exec_endReady hauthed htag hctr e n ok
  have hu := heard_heard m s
  generalize heard m s = u at hexec hu
  have hjoin : u.pair.join = some j := by rw [hu.pair]; exact hj
  have hahead : u.tickAhead 2000000 = s.tickAhead 2000000 := hu.only.keeps (f := fun u => u.tickAhead 2000000) fun _ _ _ => rfl
  have hblocks : u.copyBlocks = s.copyBlocks := hu.only.keeps (f := State.copyBlocks) fun _ _ _ => rfl
  have hactive : u.role = roleActive := hu.role.trans hrole
  have hact : endReadyIn e n ok u = if n = j.sent then
        (u.setPair { u.pair with join := some { j with k := some (u.tickAhead 2000000) } }).pairSend pmCommit (be 8 e ++ be 8 (u.tickAhead 2000000))
      else if j.resent then u.setPair { u.pair with join := none } else sendCopy { j with resent := true } u :=
    (endReadyIn_of_join hjoin e n ok).trans ((if_neg (by rw [hactive]; decide)).trans ((if_pos hactive).trans
      (if_neg (by simp [he, hcopied, hopen]))))
  refine ⟨fun hall => ?_, fun hless hfirst => ?_, fun hless hagain => ?_⟩
  · rw [hahead] at hact
    obtain ⟨c, hc⟩ := pairSend_pair (u.setPair { u.pair with join := some { j with k := some (s.tickAhead 2000000) } }) pmCommit
      (be 8 e ++ be 8 (s.tickAhead 2000000))
    refine runs_next hexec (hact.trans (if_pos hall)) ⟨(pairSend_role ..).trans hactive, congrArg Pair.join hc, hu.pairSend_out _ ?_ ?_ ?_ ..⟩
    all_goals rw [hu.pair]
    all_goals rfl
  · obtain ⟨hr, hp⟩ := sendCopy_effect { j with resent := true } u
    rw [hblocks] at hp
    exact runs_next hexec (hact.trans ((if_neg hless).trans (if_neg (by simp [hfirst])))) ⟨hr.trans hactive, hp⟩
  · exact runs_next hexec (hact.trans ((if_neg hless).trans (if_pos hagain))) ⟨hactive, rfl⟩

theorem runs_accSum (tick : Nat) (anets : List Nat) : Runs (.accSum m tick anets) s fun t => t.role = s.role ∧ t.pair.accTick = tick ∧
    t.acc = s.acc ∧ t.pair.join = s.pair.join ∧ t.pair.diffs = s.sumDiffs tick anets ∧
    (t.pair.diffs ≠ [] → t.bit fPAIR_FLT_FLAGS 13 = true) := by
  have hexec := exec_accSum hauthed htag hctr tick anets
  have hu := heard_heard m s
  generalize heard m s = u at hexec hu
  have hsum := accSumIn_summed tick anets u
  have hacc : u.acc = s.acc := hu.only.keeps fun _ _ _ => rfl
  have hdiffs : u.sumDiffs tick anets = s.sumDiffs tick anets := hu.only.keeps (f := fun u => u.sumDiffs tick anets) fun _ _ _ => rfl
  refine ⟨_, hexec, hsum.role.trans hu.role, hsum.at_, hsum.acc.trans hacc, hsum.join.trans ?_, hsum.diffs.trans hdiffs,
    fun h => hsum.flag (hsum.diffs ▸ h)⟩
  rw [hu.pair]
  rfl

end Rows

/-- The time-out of a join that is open. -/
theorem exec_joinTimeout_of_join {s : State} {j : Join} (h : s.pair.join = some j) : exec .joinTimeout s = .next (
    if j.k.isSome || s.up < j.since + s.rd fPAIR_CFG2_COPY_MS * 1000000 then s
    else if s.role = roleJoining then joinFail 1 s
    else s.setPair { s.pair with join := none }) := by
  have hexec : exec .joinTimeout s = execJoinTimeout s := rfl
  rw [hexec]
  unfold execJoinTimeout
  rw [h]

theorem exec_joinTimeout_of_none {s : State} (h : s.pair.join = none) : exec .joinTimeout s = .next s := by
  have hexec : exec .joinTimeout s = execJoinTimeout s := rfl
  rw [hexec]
  unfold execJoinTimeout
  rw [h]

/-- Settles O48: a message that acts leaves of the pair's record what shows that its lane lives; then the join's own rule does the rest. -/
theorem joinRows : Obligations.JoinRows := by
  refine ⟨?prepare, ?block, ?endReady, ?commit, ?accSum, ?retry, ?timeout⟩
  case prepare => exact fun m e c s hauthed htag hctr => runs_prepare hauthed htag hctr e c
  case block => exact fun m e id b ok s hauthed htag hctr => runs_block hauthed htag hctr e id b ok
  case endReady =>
    intro m e n ok s hauthed htag hctr
    refine ⟨fun j hrole hj he => runs_end hauthed htag hctr e n ok j hrole hj he,
      fun j hrole hj he hcopied hopen => runs_ready hauthed htag hctr e n ok j hrole hj he hcopied hopen, fun h => ?_⟩
    have hu := heard_heard m s
    have hjoin : (heard m s).pair.join = s.pair.join := by rw [hu.pair]; rfl
    exact runs_next (exec_endReady hauthed htag hctr e n ok) (endReadyIn_ignored (by rwa [hu.role, hjoin]) n ok) ⟨hu.role, hu.pair⟩
  case commit => exact fun m e k s hauthed htag hctr => runs_commit hauthed htag hctr e k
  case accSum => exact fun m tick anets s hauthed htag hctr => runs_accSum hauthed htag hctr tick anets
  case retry =>
    intro s
    refine ⟨fun hrole hlate hleft => ?_, fun h => congrArg _ (if_neg ?_)⟩
    · exact runs_next rfl (if_pos (by simp [hrole, hleft]; omega)) ⟨setRole_role (r := roleJoining) (by decide) _, rfl⟩
    · rcases h with h | h | h
      · simp [h]
      · simp; omega
      · simp; omega
  case timeout =>
    intro s
    refine ⟨fun j hj hopen hlate => ?_, fun h => ?_⟩
    · have hgo : ¬(j.k.isSome || decide (s.up < j.since + s.rd fPAIR_CFG2_COPY_MS * 1000000)) = true := by simp [hopen, hlate]
      have hexec := (exec_joinTimeout_of_join hj).trans (congrArg _ (if_neg hgo))
      refine ⟨fun hrole => ?_, fun hrole => hexec.trans (congrArg _ (if_neg hrole))⟩
      have hfail := joinFail_failed 1 s
      exact ⟨_, hexec.trans (congrArg _ (if_pos hrole)), hfail.role, hfail.flag, hfail.pair⟩
    · rcases h with h | ⟨j, hj, h⟩
      · exact exec_joinTimeout_of_none h
      · exact (exec_joinTimeout_of_join hj).trans (congrArg _ (if_pos (by simpa using h)))

end Sys2Proof.Machine
end

section
/-!
PROOFS. Scope: heartbeats, forwarded and mirrored commands (R405, R408, R409, R415, R423, R487).
-/

namespace Sys2Proof.Machine

/-! ### What a heartbeat notes (R403, R405, R409) -/

/-- What a heartbeat tells of the partner. -/
def hbTold (h : Heartbeat) (s : State) : State := (s.wrB fPAIR_STS_PARTNER_FIT h.fit).wrB fPAIR_STS_PARTNER_READY h.ready

/-- The pulses that the partner has started are no longer due here. -/
def hbPulses (h : Heartbeat) (s : State) : State :=
  if s.authority then s
  else s.setAcc { s.acc with pulses := s.acc.pulses.zipIdx.map fun p =>
    { p.1 with due := p.1.due - pulsesSince (h.pulses.getD p.2 0) (s.pair.partnerPulses.getD p.2 (h.pulses.getD p.2 0)) } }

/-- The pair's record after a heartbeat. -/
def hbRecord (h : Heartbeat) (up : Nat) (yielded : Bool) (p : Pair) : Pair :=
  { p with hbAt := some up, partnerEpoch := h.epoch, partnerPulses := h.pulses, goStIn := h.goose.zipIdx.map (fun g => (g.2, g.1)),
           abdSeen := p.abdSeen && yielded }

/-- A heartbeat noted, before the roles act on it. -/
def hbNoted (h : Heartbeat) (s : State) : State :=
  let u := hbPulses h (hbTold h s)
  let p := u.rd fPAIR_STS_PARTNER_ROLE
  let v := u.setPair (hbRecord h u.up (p = roleYielded) u.pair)
  if p = roleYielded && h.cause ≠ 0 then v.wr fPAIR_ABD_STS_PARTNER_CAUSE h.cause else v

/-- What a module's role makes of a heartbeat. -/
def hbActs (partner : Nat) (s : State) : State :=
  if s.role = roleSeeking then seekingHeard s
  else if s.role = roleActive then activeHeard s
  else if s.role = roleJoining && partner ≠ roleActive then joinFail 6 s
  else s

theorem heartbeatIn_eq (h : Heartbeat) (s : State) :
    heartbeatIn h s = hbActs ((hbPulses h (hbTold h s)).rd fPAIR_STS_PARTNER_ROLE) (hbNoted h s) := rfl

/-- Nothing but registers, the pair's record and the accounts has changed. -/
def PairAcc (s t : State) : Prop := ∃ regs pair acc, t = { s with regs := regs, pair := pair, acc := acc }

theorem PairAcc.keeps {s t : State} (h : PairAcc s t) {α : Type} {f : State → α}
    (hf : ∀ u r p a, f { u with regs := r, pair := p, acc := a } = f u) : f t = f s := by
  obtain ⟨regs, pair, acc, rfl⟩ := h
  exact hf ..

/-- What a heartbeat leaves for the roles to act on. -/
structure HbNoted (m : PairMsg) (h : Heartbeat) (s u : State) : Prop where
  only : PairAcc s u
  at_ : u.pair.hbAt = some s.up
  epoch : u.pair.partnerEpoch = h.epoch
  hello : u.pair.helloIn = s.pair.helloIn
  move : u.pair.move = s.pair.move
  join : u.pair.join = s.pair.join
  role : u.role = s.role
  member : u.on fPAIR_STS_MEMBER = s.on fPAIR_STS_MEMBER
  partner : u.rd fPAIR_STS_PARTNER_ROLE = m.role % 8
  fit : u.rd fPAIR_STS_PARTNER_FIT = if h.fit then 1 else 0
  ready : u.rd fPAIR_STS_PARTNER_READY = if h.ready then 1 else 0

theorem hbPulses_rd (h : Heartbeat) (s : State) (f : Fld) : (hbPulses h s).rd f = s.rd f := by
  unfold hbPulses
  split <;> rfl

theorem hbPulses_pair (h : Heartbeat) (s : State) : (hbPulses h s).pair = s.pair ∧ PairAcc s (hbPulses h s) := by
  unfold hbPulses
  split
  · exact ⟨rfl, _, _, _, rfl⟩
  · exact ⟨rfl, _, _, _, rfl⟩

theorem PairAcc.trans {s t u : State} (h : PairAcc s t) (k : PairAcc t u) : PairAcc s u := by
  obtain ⟨regs, pair, acc, rfl⟩ := h
  obtain ⟨regs', pair', acc', rfl⟩ := k
  exact ⟨_, _, _, rfl⟩

theorem PairOnly.acc {s t : State} (h : PairOnly s t) : PairAcc s t := by
  obtain ⟨regs, pair, rfl⟩ := h
  exact ⟨_, _, _, rfl⟩

theorem hbNoted_frame (h : Heartbeat) (s : State) : (∃ b, (hbNoted h s).pair = hbRecord h s.up b s.pair) ∧ PairAcc s (hbNoted h s) ∧
    ∀ f : Fld, f.key ≠ fPAIR_ABD_STS_PARTNER_CAUSE.key → (hbNoted h s).rd f = (hbTold h s).rd f := by
  obtain ⟨hpair, honly⟩ := hbPulses_pair h (hbTold h s)
  have htold : PairAcc s (hbTold h s) := (((PairOnly.refl s).wr _ _).wr _ _).acc
  have hrd := hbPulses_rd h (hbTold h s)
  have hup : (hbPulses h (hbTold h s)).up = s.up := (htold.trans honly).keeps fun _ _ _ _ => rfl
  have hpair' : (hbPulses h (hbTold h s)).pair = s.pair := hpair
  have hall := htold.trans honly
  unfold hbNoted
  dsimp only
  generalize hbPulses h (hbTold h s) = u at hrd hup hpair' hall
  rw [hup, hpair']
  have hset (q : Pair) : PairAcc s (u.setPair q) := hall.trans ((PairOnly.refl u).setPair q).acc
  split
  · exact ⟨⟨_, rfl⟩, (hset _).trans ((PairOnly.refl _).wr _ _).acc, fun f hf => (State.rd_wr_ne _ hf _).trans (hrd f)⟩
  · exact ⟨⟨_, rfl⟩, hset _, fun f _ => hrd f⟩

theorem hbLane_effect (m : PairMsg) (s : State) : PairOnly s (hbLane m s) ∧ (∃ l, (hbLane m s).pair = { s.pair with hbTick := l }) ∧
    ∀ f : Fld, f.key ≠ fPAIR_HBMISS_CNT_LANE_A.key → f.key ≠ fPAIR_HBMISS_CNT_LANE_B.key → (hbLane m s).rd f = s.rd f := by
  unfold hbLane
  dsimp only
  split
  · exact ⟨((PairOnly.refl s).setPair _).wr _ _, ⟨_, rfl⟩, fun f ha _ => rd_inc_ne ha ..⟩
  · exact ⟨((PairOnly.refl s).setPair _).wr _ _, ⟨_, rfl⟩, fun f _ hb => rd_inc_ne hb ..⟩

theorem rd_wrB_bit {f : Fld} (hw : f.w = 1) (s : State) (b : Bool) : (s.wrB f b).rd f = if b then 1 else 0 := by
  refine (State.rd_wr ..).trans ?_
  rw [hw]
  cases b <;> rfl

/-- The state in which the roles act on a heartbeat. -/
theorem hbNoted_noted (m : PairMsg) (h : Heartbeat) (s : State) : HbNoted m h s (hbNoted h (heard m (hbLane m s))) := by
  obtain ⟨honly, ⟨l, hpair⟩, hlane⟩ := hbLane_effect m s
  have hu := heard_heard m (hbLane m s)
  have hrole8 := heard_partnerRole m (hbLane m s)
  generalize hbLane m s = w at honly hpair hlane hu hrole8
  generalize heard m w = u at hu hrole8
  obtain ⟨⟨b, hrec⟩, hnoted, hrd⟩ := hbNoted_frame h u
  have hup : u.up = s.up := (honly.trans hu.only).keeps fun _ _ _ => rfl
  have hkeep {f : Fld} (hc : f.key ≠ fPAIR_ABD_STS_PARTNER_CAUSE.key) (hfit : f.key ≠ fPAIR_STS_PARTNER_FIT.key)
      (hready : f.key ≠ fPAIR_STS_PARTNER_READY.key) : (hbNoted h u).rd f = u.rd f :=
    (hrd f hc).trans ((rd_wrB hready ..).trans (rd_wrB hfit ..))
  have hpairs : (hbNoted h u).pair = hbRecord h s.up b (heardPair m w) := by rw [hrec, hup, hu.pair]
  have hhello : w.pair.helloIn = s.pair.helloIn := by rw [hpair]
  have hmove : w.pair.move = s.pair.move := by rw [hpair]
  have hjoin : w.pair.join = s.pair.join := by rw [hpair]
  refine ⟨(honly.trans hu.only).acc.trans hnoted, ?_, ?_, ?_, ?_, ?_, ?_, ?_, ?_, ?_, ?_⟩
  · rw [hpairs]; rfl
  · rw [hpairs]; rfl
  · rw [hpairs]; exact hhello
  · rw [hpairs]; exact hmove
  · rw [hpairs]; exact hjoin
  · exact (hkeep (by decide) (by decide) (by decide)).trans (hu.role.trans (hlane _ (by decide) (by decide)))
  · exact on_eq_of_rd ((hkeep (by decide) (by decide) (by decide)).trans ((hu.rd _ (by decide) (by decide) (by decide)).trans
      (hlane _ (by decide) (by decide))))
  · exact (hkeep (by decide) (by decide) (by decide)).trans hrole8
  · exact (hrd _ (by decide)).trans ((rd_wrB (by decide) ..).trans (rd_wrB_bit rfl ..))
  · exact (hrd _ (by decide)).trans (rd_wrB_bit rfl ..)

theorem exec_heartbeat {m : PairMsg} {s : State} (hauthed : s.pair.authed = true) (htag : m.tagOk = true) (hctr : s.pair.rxCtr < m.ctr)
    (h : Heartbeat) : exec (.heartbeat m h) s = .next (hbActs (m.role % 8) (hbNoted h (heard m (hbLane m s)))) := by
  obtain ⟨-, ⟨l, hpair⟩, -⟩ := hbLane_effect m s
  have hexec : exec (.heartbeat m h) s = .next (pairRx m (heartbeatIn h) (if s.pair.authed && m.tagOk then hbLane m s else s)) := rfl
  have hpartner : (hbPulses h (hbTold h (heard m (hbLane m s)))).rd fPAIR_STS_PARTNER_ROLE = m.role % 8 :=
    (hbPulses_rd ..).trans ((rd_wrB (by decide) ..).trans ((rd_wrB (by decide) ..).trans (heard_partnerRole ..)))
  rw [hexec, if_pos (by simp [hauthed, htag]), pairRx_new (by rw [hpair]; exact hauthed) htag (by rw [hpair]; exact hctr), heartbeatIn_eq, hpartner]

/-! ### What the roles leave of what a heartbeat told -/

structure HbStands (s t : State) : Prop where
  at_ : t.pair.hbAt = s.pair.hbAt
  epoch : t.pair.partnerEpoch = s.pair.partnerEpoch
  partner : t.rd fPAIR_STS_PARTNER_ROLE = s.rd fPAIR_STS_PARTNER_ROLE
  fit : t.rd fPAIR_STS_PARTNER_FIT = s.rd fPAIR_STS_PARTNER_FIT
  ready : t.rd fPAIR_STS_PARTNER_READY = s.rd fPAIR_STS_PARTNER_READY

theorem HbStands.refl (s : State) : HbStands s s := ⟨rfl, rfl, rfl, rfl, rfl⟩

theorem HbStands.trans {s t u : State} (h : HbStands s t) (k : HbStands t u) : HbStands s u :=
  ⟨k.at_.trans h.at_, k.epoch.trans h.epoch, k.partner.trans h.partner, k.fit.trans h.fit, k.ready.trans h.ready⟩

theorem hbStands_regs {s t : State} (hat : t.pair.hbAt = s.pair.hbAt) (hepoch : t.pair.partnerEpoch = s.pair.partnerEpoch)
    (hregs : t.regs = s.regs) : HbStands s t := by
  have hrd (f : Fld) : t.rd f = s.rd f := by rw [State.rd, hregs, State.rd]
  exact ⟨hat, hepoch, hrd _, hrd _, hrd _⟩

theorem hbStands_wr {f : Fld} (hrole : fPAIR_STS_PARTNER_ROLE.key ≠ f.key) (hfit : fPAIR_STS_PARTNER_FIT.key ≠ f.key)
    (hready : fPAIR_STS_PARTNER_READY.key ≠ f.key) (s : State) (v : Nat) : HbStands s (s.wr f v) :=
  ⟨rfl, rfl, State.rd_wr_ne s hrole v, State.rd_wr_ne s hfit v, State.rd_wr_ne s hready v⟩

theorem hbStands_setRole (r : Nat) (s : State) : HbStands s (setRole r s) :=
  ⟨rfl, rfl, setRole_rd (by decide) (by decide) (by decide) .., setRole_rd (by decide) (by decide) (by decide) ..,
    setRole_rd (by decide) (by decide) (by decide) ..⟩

theorem hbStands_post (code : Nat) (payload : Bytes) (s : State) : HbStands s (post code payload s) :=
  ⟨congrArg Pair.hbAt (post_pair ..), congrArg Pair.partnerEpoch (post_pair ..), post_rd _ _ _ (by decide), post_rd _ _ _ (by decide),
    post_rd _ _ _ (by decide)⟩

theorem hbStands_releaseAuthority (s : State) : HbStands s (releaseAuthority s) := by
  have hpair : (releaseAuthority s).pair = s.pair := releaseAuthority_same (p := .pair) (by decide) s
  exact ⟨congrArg Pair.hbAt hpair, congrArg Pair.partnerEpoch hpair, releaseAuthority_rd (by decide) s, releaseAuthority_rd (by decide) s,
    releaseAuthority_rd (by decide) s⟩

theorem hbStands_joinFail (reason : Nat) (s : State) : HbStands s (joinFail reason s) := by
  obtain ⟨payload, heq⟩ := joinFail_eq reason s
  rw [heq]
  refine .trans ?_ (hbStands_post ..)
  exact .trans (.trans (.trans (.trans (hbStands_regs (t := s.setPair (joinless s.up s.pair)) rfl rfl rfl) (hbStands_setRole ..))
    (hbStands_wr (by decide) (by decide) (by decide) ..)) (hbStands_wr (by decide) (by decide) (by decide) ..))
    (hbStands_wr (by decide) (by decide) (by decide) ..)

/-! ### A SEEKING module (R405) -/

theorem mismatch_effect (digest : Nat) (s : State) : (mismatch digest s).role = roleMismatch ∧ (mismatch digest s).bit fPAIR_FLT_FLAGS 4 = true ∧
    HbStands s (mismatch digest s) := by
  unfold mismatch
  generalize be 8 (s.ownDigest / 2 ^ 192) ++ be 8 (digest / 2 ^ 192) = payload
  refine ⟨(post_role ..).trans ((rd_flag (by decide) ..).trans (setRole_role (r := roleMismatch) (by decide) s)),
    (bit_eq_of_rd (post_rd _ _ _ (by decide)) 4).trans (bit_flag_self (by decide) _), ?_⟩
  exact .trans (.trans (hbStands_setRole ..) (hbStands_wr (by decide) (by decide) (by decide) ..)) (hbStands_post ..)

/-- The digest that a SEEKING module compares with its own: its own where no HELLO has come. -/
def State.heardDigest (s : State) : Nat := match s.pair.helloIn with | some h => h.2 | none => s.ownDigest

theorem seekingHeard_mismatch {s : State} (h : s.heardDigest ≠ s.ownDigest) : seekingHeard s = mismatch s.heardDigest s := if_pos h

theorem seekingHeard_joins {s : State} (h : s.heardDigest = s.ownDigest) (hmove : s.pair.move = none)
    (hactive : s.rd fPAIR_STS_PARTNER_ROLE = roleActive) : seekingHeard s = setRole roleJoining s :=
  (if_neg (not_not.2 h)).trans ((if_neg (by simp [hmove])).trans (if_pos hactive))

theorem seekingHeard_stands (s : State) : HbStands s (seekingHeard s) := by
  have htake : HbStands s (takeNext s) := hbStands_regs rfl rfl rfl
  by_cases h : s.heardDigest = s.ownDigest
  · have heq : seekingHeard s = _ := if_neg (not_not.2 h)
    rw [heq]
    split
    · exact .refl s
    · split
      · exact hbStands_setRole ..
      · split
        · exact htake
        · split
          · exact htake
          · exact .refl s
  · rw [seekingHeard_mismatch h]
    exact (mismatch_effect _ s).2.2

/-! ### An ACTIVE module (R405, R406, R417) -/

theorem copyComplete_frame (s : State) : HbStands s (copyComplete s) ∧ (copyComplete s).pair = s.pair ∧ (copyComplete s).role = s.role ∧
    (copyComplete s).on fPAIR_STS_MEMBER = s.on fPAIR_STS_MEMBER ∧ (copyComplete s).authorityPins = s.authorityPins ∧
    (copyComplete s).mram.epochCount = s.mram.epochCount ∧ (copyComplete s).swap = s.swap ∧
    (copyComplete s).tickAhead 20000000 = s.tickAhead 20000000 ∧ (copyComplete s).up = s.up := by
  unfold copyComplete
  split
  · refine ⟨⟨rfl, rfl, ?_, ?_, ?_⟩, rfl, rd_wr64_ne (by decide) (by decide) .., on_eq_of_rd (rd_wr64_ne (by decide) (by decide) ..), rfl, rfl, rfl,
      rfl, rfl⟩
    all_goals exact rd_wr64_ne (by decide) (by decide) ..
  · exact ⟨.refl s, rfl, rfl, rfl, rfl, rfl, rfl, rfl, rfl⟩

/-- Pins released and the role of a joiner taken, before it is told. -/
def dualReleased (s : State) : State :=
  let u := setRole roleJoining (releaseAuthority (s.setPair { s.pair with join := none, move := none }))
  (u.wr64 fPAIR_AUTH_TICK_LO_J_LO u.curTick).flag fPAIR_FLT_FLAGS 10

theorem dualResolve_eq (s : State) : ∃ payload, dualResolve s = post 0xA9 payload (dualReleased s) := ⟨_, rfl⟩

theorem dualReleased_effect (s : State) : (dualReleased s).role = roleJoining ∧ (∀ p ∈ s.authorityPins, (dualReleased s).pio.getD p none = none) ∧
    HbStands s (dualReleased s) := by
  have hpins := releaseAuthority_pins (s.setPair { s.pair with join := none, move := none })
  have hreleased : HbStands s (releaseAuthority (s.setPair { s.pair with join := none, move := none })) :=
    .trans (t := s.setPair { s.pair with join := none, move := none }) (hbStands_regs rfl rfl rfl) (hbStands_releaseAuthority _)
  unfold dualReleased
  dsimp only
  generalize releaseAuthority _ = u at hpins hreleased
  have hrole : (setRole roleJoining u).role = roleJoining := setRole_role (by decide) u
  have hjoining : HbStands s (setRole roleJoining u) := hreleased.trans (hbStands_setRole ..)
  have hpio : (setRole roleJoining u).pio = u.pio := rfl
  generalize setRole roleJoining u = v at hrole hjoining hpio
  refine ⟨(rd_flag (by decide) ..).trans ((rd_wr64_ne (by decide) (by decide) ..).trans hrole), fun p hp => ?_, ?_⟩
  · exact (congrArg (·.getD p none) hpio).trans (hpins p hp)
  · exact hjoining.trans (.trans (.trans (hbStands_wr (by decide) (by decide) (by decide) ..) (hbStands_wr (by decide) (by decide) (by decide) ..))
      (hbStands_wr (by decide) (by decide) (by decide) ..))

theorem dualResolve_effect (s : State) : (dualResolve s).role = roleJoining ∧ (∀ p ∈ s.authorityPins, (dualResolve s).pio.getD p none = none) ∧
    HbStands s (dualResolve s) := by
  obtain ⟨payload, heq⟩ := dualResolve_eq s
  obtain ⟨hrole, hpins, hstands⟩ := dualReleased_effect s
  rw [heq]
  generalize dualReleased s = u at hrole hpins hstands
  have hpio : (post 0xA9 payload u).pio = u.pio := post_same (p := .pio) (by decide) ..
  exact ⟨(post_role ..).trans hrole, fun p hp => hpio ▸ hpins p hp, hstands.trans (hbStands_post ..)⟩

/-- The join that a module that holds authority opens. -/
def State.joinOpened (s : State) : Join :=
  { epoch := max s.mram.epochCount s.pair.partnerEpoch + 1, c := s.tickAhead 20000000, since := s.up }

theorem startJoin_eq (s : State) : ∃ told mram payload, startJoin s =
    post 0xA2 payload (({ s with mram := mram }.setPair { s.pair with join := some s.joinOpened }).pairSend pmPrepare told) := ⟨_, _, _, rfl⟩

theorem startJoin_effect (s : State) : (startJoin s).pair.join = some s.joinOpened ∧ HbStands s (startJoin s) := by
  obtain ⟨told, mram, payload, heq⟩ := startJoin_eq s
  rw [heq]
  generalize hw : ({ s with mram := mram } : State).setPair { s.pair with join := some s.joinOpened } = w
  have hstands : HbStands s w := by rw [← hw]; exact hbStands_regs rfl rfl rfl
  have hjoin : w.pair.join = some s.joinOpened := by rw [← hw]; rfl
  obtain ⟨n, hn⟩ := pairSend_pair w pmPrepare told
  have hat : (w.pairSend pmPrepare told).pair.hbAt = w.pair.hbAt := by rw [hn]
  have hepoch : (w.pairSend pmPrepare told).pair.partnerEpoch = w.pair.partnerEpoch := by rw [hn]
  refine ⟨?_, .trans (.trans hstands (hbStands_regs hat hepoch (pairSend_regs ..))) (hbStands_post ..)⟩
  rw [post_pair, hn]
  exact hjoin

/-- What an ACTIVE module makes of a heartbeat once the copy has been seen complete, or not. -/
def activeActs (partner : Nat) (s : State) : State :=
  if partner = roleActive && s.on fPAIR_STS_MEMBER then dualResolve s
  else
    match s.pair.join with
    | none => if partner = roleJoining && s.swap.isNone && s.pair.move.isNone then startJoin s else s
    | some j =>
      if partner = roleUnsynced || (partner = roleStandby && s.pair.partnerEpoch = j.epoch) then s.setPair { s.pair with join := none } else s

theorem activeHeard_eq (s : State) : activeHeard s = activeActs (s.rd fPAIR_STS_PARTNER_ROLE) (copyComplete s) := rfl

theorem activeActs_cases (partner : Nat) (s : State) : (activeActs partner s = dualResolve s) ∨
    ((partner ≠ roleActive ∨ s.on fPAIR_STS_MEMBER = false) ∧
      (activeActs partner s = s ∨ (partner = roleJoining ∧ activeActs partner s = startJoin s) ∨
        activeActs partner s = s.setPair { s.pair with join := none })) := by
  unfold activeActs
  split
  · exact Or.inl rfl
  · next h =>
    refine Or.inr ⟨by simpa [or_iff_not_imp_left] using h, ?_⟩
    split
    · split
      · next h => exact Or.inr (Or.inl ⟨by simp at h; exact h.1.1, rfl⟩)
      · exact Or.inl rfl
    · split
      · exact Or.inr (Or.inr rfl)
      · exact Or.inl rfl

theorem activeActs_stands (partner : Nat) (s : State) : HbStands s (activeActs partner s) := by
  rcases activeActs_cases partner s with h | ⟨-, h | ⟨-, h⟩ | h⟩
  · rw [h]
    exact (dualResolve_effect s).2.2
  · rw [h]
    exact .refl s
  · rw [h]
    exact (startJoin_effect s).2
  · rw [h]
    exact hbStands_regs rfl rfl rfl

/-- A holder of authority that is not member 1, or hears of no other, stays one unless it opens a join. -/
theorem activeActs_role {partner : Nat} {s : State} (h : partner ≠ roleActive ∨ s.on fPAIR_STS_MEMBER = false) (hjoin : partner ≠ roleJoining) :
    (activeActs partner s).role = s.role := by
  have hno : ¬(decide (partner = roleActive) && s.on fPAIR_STS_MEMBER) = true := by rcases h with h | h <;> simp [h]
  unfold activeActs
  rw [if_neg hno]
  split
  · rw [if_neg (by simp [hjoin])]
  · split <;> rfl

theorem activeActs_opens {partner : Nat} {s : State} (hpartner : partner = roleJoining) (hjoin : s.pair.join = none) (hswap : s.swap = none)
    (hmove : s.pair.move = none) : activeActs partner s = startJoin s := by
  unfold activeActs
  rw [if_neg (by simp [hpartner]), hjoin]
  exact if_pos (by simp [hpartner, hswap, hmove])

theorem hbActs_stands (partner : Nat) (s : State) : HbStands s (hbActs partner s) := by
  unfold hbActs
  split
  · exact seekingHeard_stands s
  · split
    · rw [activeHeard_eq]
      exact (copyComplete_frame s).1.trans (activeActs_stands ..)
    · split
      · exact hbStands_joinFail 6 s
      · exact .refl s

/-- A heartbeat, by the role that hears it. -/
theorem runs_heartbeat {m : PairMsg} {s : State} (hauthed : s.pair.authed = true) (htag : m.tagOk = true) (hctr : s.pair.rxCtr < m.ctr)
    (hrole8 : m.role < 8) (h : Heartbeat) :
    Runs (.heartbeat m h) s fun t => t.pair.hbAt = some s.up ∧ t.pair.partnerEpoch = h.epoch ∧ t.rd fPAIR_STS_PARTNER_ROLE = m.role ∧
      (t.rd fPAIR_STS_PARTNER_FIT = 1 ↔ h.fit = true) ∧ (t.rd fPAIR_STS_PARTNER_READY = 1 ↔ h.ready = true) ∧
      (s.role = roleSeeking → (∀ d, s.pair.helloIn = some d → d.2 = s.ownDigest) → s.pair.move = none → m.role = roleActive →
        t.role = roleJoining) ∧
      (∀ d, s.role = roleSeeking → s.pair.helloIn = some d → d.2 ≠ s.ownDigest → t.role = roleMismatch ∧ t.bit fPAIR_FLT_FLAGS 4 = true) ∧
      (s.role = roleActive → s.on fPAIR_STS_MEMBER = true → m.role = roleActive → t.role = roleJoining ∧
        ∀ p ∈ s.authorityPins, t.pio.getD p none = none) ∧
      (s.role = roleActive → s.on fPAIR_STS_MEMBER = false → m.role = roleActive → t.role = roleActive) ∧
      (s.role = roleActive → m.role = roleJoining → s.pair.join = none → s.swap = none → s.pair.move = none →
        t.pair.join = some { epoch := max s.mram.epochCount h.epoch + 1, c := s.tickAhead 20000000, since := s.up }) ∧
      (s.role = roleJoining → m.role ≠ roleActive → t.role = roleUnsynced) := by
  have hexec := exec_heartbeat hauthed htag hctr h
  have hu := hbNoted_noted m h s
  rw [Nat.mod_eq_of_lt hrole8] at hexec
  generalize hbNoted h (heard m (hbLane m s)) = u at hexec hu
  have hstands := hbActs_stands m.role u
  have hpartner : u.rd fPAIR_STS_PARTNER_ROLE = m.role := hu.partner.trans (Nat.mod_eq_of_lt hrole8)
  have hown : u.ownDigest = s.ownDigest := hu.only.keeps (f := State.ownDigest) fun _ _ _ _ => rfl
  have hactive (hrole : s.role = roleActive) : hbActs m.role u = activeActs m.role (copyComplete u) := by
    have hact : hbActs m.role u = activeHeard u :=
      (if_neg (by rw [hu.role, hrole]; decide)).trans (if_pos (hu.role.trans hrole))
    rw [hact, activeHeard_eq, hpartner]
  obtain ⟨-, hcpair, hcrole, hcmember, hcpins, hccount, hcswap, hcahead, hcup⟩ := copyComplete_frame u
  refine ⟨_, hexec, hstands.at_.trans hu.at_, hstands.epoch.trans hu.epoch, hstands.partner.trans hpartner, ?_, ?_, fun hrole hdig hmove hm => ?_,
    fun d hrole hd hne => ?_, fun hrole hmember hm => ?_, fun hrole hmember hm => ?_, fun hrole hm hjoin hswap hmove => ?_, fun hrole hm => ?_⟩
  · rw [hstands.fit, hu.fit]
    cases h.fit <;> simp
  · rw [hstands.ready, hu.ready]
    cases h.ready <;> simp
  · have hsame : u.heardDigest = u.ownDigest := by
      unfold State.heardDigest
      rw [hu.hello, hown]
      cases hd : s.pair.helloIn with
      | none => rfl
      | some d => exact hdig d hd
    have hact : hbActs m.role u = setRole roleJoining u :=
      (if_pos (hu.role.trans hrole)).trans (seekingHeard_joins hsame (hu.move.trans hmove) (hpartner.trans hm))
    rw [hact]
    exact setRole_role (by decide) u
  · have hdiff : u.heardDigest ≠ u.ownDigest := by
      unfold State.heardDigest
      rw [hu.hello, hown, hd]
      exact hne
    have hact : hbActs m.role u = mismatch u.heardDigest u := (if_pos (hu.role.trans hrole)).trans (seekingHeard_mismatch hdiff)
    obtain ⟨hr, hflag, -⟩ := mismatch_effect u.heardDigest u
    rw [hact]
    exact ⟨hr, hflag⟩
  · have hact : activeActs m.role (copyComplete u) = dualResolve (copyComplete u) :=
      if_pos (by rw [hcmember, hu.member, hmember, hm]; decide)
    obtain ⟨hr, hpins, -⟩ := dualResolve_effect (copyComplete u)
    have hupins : u.authorityPins = s.authorityPins := hu.only.keeps (f := State.authorityPins) fun _ _ _ _ => rfl
    rw [hactive hrole, hact]
    rw [hcpins, hupins] at hpins
    exact ⟨hr, hpins⟩
  · rw [hactive hrole, activeActs_role (Or.inr (hcmember.trans (hu.member.trans hmember))) (by rw [hm]; decide), hcrole, hu.role, hrole]
  · have huswap : u.swap = s.swap := hu.only.keeps (f := State.swap) fun _ _ _ _ => rfl
    have hucount : u.mram.epochCount = s.mram.epochCount := hu.only.keeps (f := fun u => u.mram.epochCount) fun _ _ _ _ => rfl
    have huahead : u.tickAhead 20000000 = s.tickAhead 20000000 := hu.only.keeps (f := fun u => u.tickAhead 20000000) fun _ _ _ _ => rfl
    have huup : u.up = s.up := hu.only.keeps (f := State.up) fun _ _ _ _ => rfl
    rw [hactive hrole, activeActs_opens hm (by rw [hcpair, hu.join, hjoin]) (by rw [hcswap, huswap, hswap]) (by rw [hcpair, hu.move, hmove]),
      (startJoin_effect _).1]
    unfold State.joinOpened
    rw [hccount, hcpair, hcahead, hcup, hucount, hu.epoch, huahead, huup]
  · have hact : hbActs m.role u = joinFail 6 u :=
      (if_neg (by rw [hu.role, hrole]; decide)).trans ((if_neg (by rw [hu.role, hrole]; decide)).trans (if_pos (by simp [hu.role, hrole, hm])))
    rw [hact]
    exact (joinFail_failed 6 u).role

/-! ### Forwarded and mirrored commands (R408, R487) -/

section Message

variable {m : PairMsg} {s : State} (hauthed : s.pair.authed = true) (htag : m.tagOk = true) (hctr : s.pair.rxCtr < m.ctr)

include hauthed htag hctr

theorem exec_forward (f : Fwd) : exec (.forward m f) s = .next (forwarded f (heard m s)) := congrArg _ (pairRx_new hauthed htag hctr _)

theorem exec_mirror (op inst v : Nat) : exec (.mirror m op inst v) s = .next (mirrored op inst v (heard m s)) :=
  congrArg _ (pairRx_new hauthed htag hctr _)

end Message

theorem Heard.authority {m : PairMsg} {s u : State} (h : Heard m s u) : u.authority = s.authority := by
  have hpaired : u.paired = s.paired := h.only.keeps fun _ _ _ => rfl
  have hrole : u.rd fPAIR_STS_ROLE = s.rd fPAIR_STS_ROLE := h.role
  unfold State.authority
  rw [hpaired, hrole]

theorem PairOnly.mirrorRun {s u : State} (h : PairOnly s u) : u.mirrorRun = s.mirrorRun :=
  mirrorRun_eq_of (h.keeps (f := State.closeOf) fun _ _ _ => rfl) (h.keeps (f := State.lastActivated) fun _ _ _ => rfl)
    (h.keeps (f := State.curTick) fun _ _ _ => rfl) (h.keeps (f := State.mirrorTick) fun _ _ _ => rfl) (h.keeps (f := State.clv) fun _ _ _ => rfl)

/-- A command that turns destinations on or off, at the module that holds authority in a pair: the commands noted, and the count. -/
theorem command_onOff_effect {c : CmdFrame} {im : Image} {o : OutStream} {st : Nat} {s : State} (himg : s.img = some im)
    (hstream : im.outs.zipIdx.find? (fun y => y.1.idcode = c.idcode && y.1.format ≠ 2) = some (o, st)) (hchk : c.chkOk = true)
    (hsrc : o.cmdSrc = [] ∨ o.cmdSrc.contains c.src = true) (hpaired : s.paired = true) (hauth : s.authority = true) (code : Nat) (on : Bool) :
    ((command code c (onOff on c.src) s).outSt st).cmds = (s.outSt st).cmds ++ [(s.up, some s.mirrorRun, cmdMask o c.src, on)] ∧
      (command code c (onOff on c.src) s).rd fEGR_CMD_CNT_OK = satAdd fEGR_CMD_CNT_OK.w (s.rd fEGR_CMD_CNT_OK) 1 := by
  have hpairedInc : (s.inc fEGR_CMD_CNT_OK).paired = true := hpaired
  have hauthInc : (s.inc fEGR_CMD_CNT_OK).authority = true := (authority_inc (by decide) s).trans hauth
  rw [command_accepted himg hstream hchk (by simpa using hsrc) (fun _ => hauth)]
  refine ⟨?_, ((onOff_keeps ..).2 _).trans (rd_inc_self ..)⟩
  rw [onOff_mirrored hpairedInc hauthInc, sendMirror_outSt, destCmd_outSt, mirrorRun_inc]
  rfl

/-- The partner's mirrored operation, marked where it comes late. -/
def mirrorMarked (op inst : Nat) (s : State) : State :=
  if s.mirrorLate inst && (op = mirAck || op = mirInh || op = mirZero || op = mirDest) then s.flag fPAIR_FLT_FLAGS 12 else s

theorem mirrorMarked_only (op inst : Nat) (s : State) : PairOnly s (mirrorMarked op inst s) ∧ (mirrorMarked op inst s).pair = s.pair := by
  unfold mirrorMarked
  split
  · exact ⟨(PairOnly.refl s).wr _ _, rfl⟩
  · exact ⟨.refl s, rfl⟩

theorem mirrored_eq (op inst v : Nat) (s : State) : mirrored op inst v s =
    if op = mirAck || op = mirInh then
      (mirrorMarked op inst s).setPair { (mirrorMarked op inst s).pair with mirrors := (mirrorMarked op inst s).pair.mirrors ++ [(op, inst, v)] }
    else if op = mirZero then
      (mirrorMarked op inst s).setAcc { (mirrorMarked op inst s).acc with zero := (mirrorMarked op inst s).acc.zero ++ [(v, 0, some inst)] }
    else if op = mirDest then destCmd (some inst) (v / 32) (v / 2 % 16) (v % 2 = 1) (mirrorMarked op inst s)
    else if op = mirSwap then partnerCmd 0x0202 (v :: words64 inst) (mirrorMarked op inst s)
    else if op = mirCancel then partnerCmd 0x0203 [] (mirrorMarked op inst s)
    else mirrorMarked op inst s := rfl

/-- A command of the mailbox that no command is. -/
theorem acceptCmd_unknown {op : Nat} {args : List Nat} (h : cmdInfo? op args = none) (src : CmdSrc) (argw tag : Nat) (s : State) :
    acceptCmd src op argw args tag s = mbxSync (s.setMbx { s.mbx with run := s.mbx.run ++
      [{ src := src, opcode := op, args := args, tag := tag, done := some (stBadArg, []) }] }) := by
  unfold acceptCmd
  rw [h]

/-! ### The obligation -/

/-- Settles O49: the message leaves the readings of time, image and tables as they were; what each carries then acts by its own rule. -/
theorem partnerRows : Obligations.PartnerRows := by
  refine ⟨?heartbeat, ?onOff, ?unheld, ?mirror, ?mailbox⟩
  case heartbeat => exact fun m h s hauthed htag hctr hrole => runs_heartbeat hauthed htag hctr hrole h
  case onOff =>
    intro x hx m c im o st s hauthed htag hctr hauth himg hstream hchk hsrc hpaired
    have hexec := exec_forward hauthed htag hctr (.c37 x.1 c)
    have hu := heard_heard m s
    generalize heard m s = u at hexec hu
    have huauth : u.authority = true := hu.authority.trans hauth
    have huimg : u.img = some im := (hu.only.keeps (f := State.img) fun _ _ _ => rfl).trans himg
    have hupaired : u.paired = true := (hu.only.keeps (f := State.paired) fun _ _ _ => rfl).trans hpaired
    have hact : forwarded (.c37 x.1 c) u = command x.1 c (onOff x.2 c.src) u := by
      refine (if_pos huauth).trans ?_
      rcases List.mem_cons.1 hx with rfl | hx
      · rfl
      · obtain rfl := List.mem_singleton.1 hx
        rfl
    obtain ⟨hcmds, hcount⟩ := command_onOff_effect huimg hstream hchk hsrc hupaired huauth x.1 x.2
    refine runs_next hexec hact ⟨hcmds.trans ?_, hcount.trans ?_⟩
    · have hout : u.outSt st = s.outSt st := hu.only.keeps (f := fun u => u.outSt st) fun _ _ _ => rfl
      have hup : u.up = s.up := hu.only.keeps (f := State.up) fun _ _ _ => rfl
      rw [hout, hup, hu.only.mirrorRun]
    · rw [hu.rd _ (by decide) (by decide) (by decide)]
  case unheld =>
    intro m code c s hauthed htag hctr hauth
    have hu := heard_heard m s
    have huauth : ¬(heard m s).authority = true := by simp [hu.authority, hauth]
    exact runs_next (exec_forward hauthed htag hctr (.c37 code c)) (if_neg huauth)
      ⟨hu.only.keeps (f := State.egr) fun _ _ _ => rfl, hu.only.keeps (f := State.out) fun _ _ _ => rfl⟩
  case mirror =>
    intro m inst v s hauthed htag hctr
    have hexec (op : Nat) := (exec_mirror hauthed htag hctr op inst v).trans (congrArg _ (mirrored_eq op inst v (heard m s)))
    have hu := heard_heard m s
    generalize heard m s = u at hexec hu
    have hmark (op : Nat) : PairOnly s (mirrorMarked op inst u) := hu.only.trans (mirrorMarked_only op inst u).1
    have hpair (op : Nat) : (mirrorMarked op inst u).pair = heardPair m s := (mirrorMarked_only op inst u).2.trans hu.pair
    refine ⟨fun op hop => ?_, ?_, ?_⟩
    · refine runs_next (hexec op) (if_pos (by simpa using hop)) ?_
      rw [State.setPair_pair, hpair]
      rfl
    · refine runs_next (hexec mirZero) ((if_neg (by decide)).trans (if_pos rfl)) ?_
      have hacc : (mirrorMarked mirZero inst u).acc = s.acc := (hmark mirZero).keeps fun _ _ _ => rfl
      rw [hacc]
      rfl
    · refine runs_next (hexec mirDest) ((if_neg (by decide)).trans ((if_neg (by decide)).trans (if_pos rfl))) ?_
      have hout : (mirrorMarked mirDest inst u).outSt (v / 32) = s.outSt (v / 32) := (hmark mirDest).keeps (f := fun u => u.outSt (v / 32)) fun _ _ _ => rfl
      have hup : (mirrorMarked mirDest inst u).up = s.up := (hmark mirDest).keeps fun _ _ _ => rfl
      rw [destCmd_outSt, hout, hup]
  case mailbox =>
    intro m op args s hauthed htag hctr halive
    have hexec := exec_forward hauthed htag hctr (.mailbox op args)
    have hu := heard_heard m s
    generalize heard m s = u at hexec hu
    have hualive : u.stewAlive = true := (hu.only.keeps (f := State.stewAlive) fun _ _ _ => rfl).trans halive
    have hcmd : u.cmd? .partner = s.cmd? .partner := hu.only.keeps (f := fun u => u.cmd? .partner) fun _ _ _ => rfl
    have hmbx : u.mbx = s.mbx := hu.only.keeps fun _ _ _ => rfl
    have hact : forwarded (.mailbox op args) u = if (u.cmd? .partner).isSome then u.sendForward 1 (be 2 op ++ be 1 stBusy)
        else acceptCmd .partner op args.length args 0 u := if_neg (by simp [hualive])
    refine ⟨fun x hx => ?_, fun hnone hinfo => ?_⟩
    · refine runs_next hexec (hact.trans (if_pos (by rw [hcmd, hx]; rfl))) ⟨?_, ?_⟩
      · exact Eq.trans (pairSend_same (p := .mbx) (by decide) u pmForward _) hmbx
      · refine hu.only.pairSend_out (hu.rd _ (by decide) (by decide) (by decide)) hu.role ?_ ?_ ?_ ..
        all_goals rw [hu.pair]
        all_goals rfl
    · refine runs_next hexec (hact.trans ((if_neg (by rw [hcmd, hnone]; decide)).trans (acceptCmd_unknown hinfo ..))) ?_
      rw [cmd_eq_of_run (congrArg Mbx.run (mbxSync_same (p := .mbx) (by decide) _))]
      have hrun : s.mbx.run.find? (fun r => decide (r.src = .partner)) = none := hnone
      change (u.mbx.run ++ _).find? _ = _
      rw [hmbx, List.find?_append, hrun]
      rfl

end Sys2Proof.Machine
end

section
/-!
PROOFS. Scope: the pair commands (R414, R415, R420, R497).
-/

namespace Sys2Proof.Machine

/-! ### A pair command's run -/

section Command

variable {i : Instr} {src : CmdSrc} {op : Nat} {r : Running} {s : State} (h : accepted src op r s) {args : List Nat}
  {f : Running → State → Reply × State} (hexec : exec i s = .next (runCmd op src args f s))

include h hexec

/-- A pair command leaves the pair's record, the role and what is sent as its run left them. -/
theorem runs_pairCommand {a : Reply} {u : State} (hf : f r s = (a, u)) (hrun : u.mbx.run = s.mbx.run) : Runs i s fun t =>
    t.cmd? src = some (replied a r u) ∧ t.pair = u.pair ∧ t.role = u.role ∧ t.out = u.out ∧ t.rd fPAIR_STS_FORCED = u.rd fPAIR_STS_FORCED := by
  obtain ⟨t, ht, hcmd, hafter, hrole⟩ := runs_accepted_rd h hexec hf hrun (g := fPAIR_STS_ROLE) (by decide)
    fun c => ⟨by dsimp only [Fld.key, rMBX_STS, rPAIR_STS]; omega, by dsimp only [Fld.key, rMBX_STS, rPAIR_STS]; omega⟩
  exact ⟨t, ht, hcmd, hafter.same .pair (by decide), hrole, hafter.same .out (by decide), hafter.rd _ (by decide) (by decide)⟩

end Command

/-! ### PAIR_HANDOVER (R414) -/

/-- A handover told to the partner. -/
def handoverTold (s : State) : State :=
  post 0xAA (le 8 (s.tickAhead 2000000)) ((s.setPair { s.pair with move := some (s.tickAhead 2000000, false) }).pairSend pmHandover
    (be 8 (s.tickAhead 2000000)))

theorem startHandover_eq (s : State) : startHandover s = (s.tickAhead 2000000, handoverTold s) := rfl

theorem handoverTold_effect (s : State) : (handoverTold s).pair.move = some (s.tickAhead 2000000, false) ∧ (handoverTold s).role = s.role ∧
    (handoverTold s).out = (s.pairSend pmHandover (be 8 (s.tickAhead 2000000))).out ∧ (handoverTold s).mbx = s.mbx := by
  unfold handoverTold
  generalize s.tickAhead 2000000 = j
  obtain ⟨n, hn⟩ := pairSend_pair (s.setPair { s.pair with move := some (j, false) }) pmHandover (be 8 j)
  have honly : PairOnly s (s.setPair { s.pair with move := some (j, false) }) := (PairOnly.refl s).setPair _
  refine ⟨?_, (post_role ..).trans (pairSend_role ..), (post_out ..).trans (honly.pairSend_out rfl rfl rfl rfl rfl ..),
    (post_mbx ..).trans (pairSend_same (p := .mbx) (by decide) ..)⟩
  rw [post_pair, hn]
  rfl

/-! ### PAIR_FORCE (R415) -/

/-- The module forced. -/
def forced (payload : Bytes) (s : State) : State := post 0xAC payload (s.wrB fPAIR_STS_FORCED true)

theorem forced_effect (payload : Bytes) (s : State) : (forced payload s).pair = s.pair ∧ (forced payload s).rd fPAIR_STS_FORCED = 1 ∧
    (forced payload s).role = s.role ∧ (forced payload s).mbx = s.mbx ∧ (forced payload s).curTick = s.curTick := by
  have hclv : (forced payload s).clv = s.clv := post_clv ..
  have hpgh : (forced payload s).pgh = s.pgh := post_same (p := .pgh) (by decide) 0xAC payload (s.wrB fPAIR_STS_FORCED true)
  have himg : (forced payload s).img = s.img := post_same (p := .img) (by decide) 0xAC payload (s.wrB fPAIR_STS_FORCED true)
  refine ⟨post_pair .., (post_rd _ _ _ (by decide)).trans (State.rd_wr ..), (post_role ..).trans (rd_wrB (by decide) ..), post_mbx .., ?_⟩
  unfold State.curTick State.rateAt State.rate
  rw [hclv, hpgh, himg]

/-! ### The obligation -/

/-- Settles O54: each command's checks refuse it with the pair as it was. -/
theorem pairCommands : Obligations.PairCommands := by
  refine ⟨?handover, ?force, ?join⟩
  case handover =>
    intro src args r s h
    refine ⟨fun hmemo => ?_, fun hmemo hpaired hrole hpartner hfit => ?_, fun hmemo hbad => ?_⟩
    · exact runs_goesOn (p := .pair) h rfl (if_pos (by simp [hmemo])) rfl
    · obtain ⟨hmove, hrole', hout, hmbx⟩ := handoverTold_effect s
      obtain ⟨t, ht, hcmd, hpair, htrole, htout, -⟩ := runs_pairCommand h (i := .pairHandover src args) rfl
        (a := .later [s.tickAhead 2000000]) (u := handoverTold s)
        ((if_neg (by simp [hmemo])).trans (if_neg (by simp [hpaired, hrole, hpartner, hfit]))) (congrArg Mbx.run hmbx)
      exact ⟨t, ht, hcmd, hpair ▸ hmove, htrole.trans (hrole'.trans hrole), htout.trans hout⟩
    · exact runs_answered (p := .pair) h rfl ((if_neg (by simp [hmemo])).trans (if_pos (by simpa [or_assoc] using hbad))) rfl
  case force =>
    intro src args r s h
    refine ⟨fun hmemo => ?_, fun hmemo hbad => ?_, fun hmemo hpaired hrole => ?_⟩
    · exact runs_goesOn (p := .pair) h rfl (if_pos (by simp [hmemo])) rfl
    · obtain ⟨t, ht, hcmd, hpair, -, -, hforced⟩ := runs_pairCommand h (i := .pairForce src args) rfl (a := .done stState [])
        ((if_neg (by simp [hmemo])).trans (if_pos (by simpa using hbad))) rfl
      exact ⟨t, ht, hcmd, hpair, hforced⟩
    · have hopen : ¬(!s.paired || (decide (s.role ≠ roleUnsynced) && decide (s.role ≠ roleSeeking))) = true := by
        rcases hrole with h | h <;> simp [hpaired, h]
      refine ⟨fun heven => ?_, fun hodd hpartner => ?_, fun hodd hpartner => ?_⟩
      · have hbit : (Arg r 0).testBit 0 = false := by simp [Nat.testBit_zero, heven]
        obtain ⟨hpair, hforced, hrole', hmbx, -⟩ := forced_effect (le 1 (if (Arg r 0).testBit 0 then 1 else 0) ++ le 3 0) s
        obtain ⟨t, ht, hcmd, htpair, -, -, htforced⟩ := runs_pairCommand h (i := .pairForce src args) rfl
          ((if_neg (by simp [hmemo])).trans ((if_neg hopen).trans ((if_neg (by simp [hbit])).trans (if_neg (by simp [hbit])))))
          (congrArg Mbx.run hmbx)
        exact ⟨t, ht, hrole' ▸ hcmd, htforced.trans hforced, htpair.trans hpair⟩
      all_goals have hbit : (Arg r 0).testBit 0 = true := by simp [Nat.testBit_zero, hodd]
      · obtain ⟨-, hforced, -, hmbx, htick⟩ := forced_effect (le 1 (if (Arg r 0).testBit 0 then 1 else 0) ++ le 3 0) s
        obtain ⟨t, ht, hcmd, htpair, -, -, htforced⟩ := runs_pairCommand h (i := .pairForce src args) rfl
          ((if_neg (by simp [hmemo])).trans ((if_neg hopen).trans ((if_neg (by simp [hpartner])).trans (if_pos hbit))))
          (congrArg Mbx.run hmbx)
        exact ⟨t, ht, hcmd, htforced.trans hforced, htpair ▸ congrArg (fun n => some (n + 1, true)) htick⟩
      · exact runs_answered (p := .pair) h rfl ((if_neg (by simp [hmemo])).trans ((if_neg hopen).trans (if_pos (by simp [hbit, hpartner])))) rfl
  case join =>
    intro src args r s h
    refine ⟨fun hpaired hrole => ?_, fun hbad => ?_⟩
    · obtain ⟨t, ht, hcmd, hpair, htrole, -⟩ := runs_pairCommand h (i := .pairJoin src args) rfl (a := .done stOk []) (u := beginJoin s)
        (if_neg (by simp [hpaired, hrole])) rfl
      exact ⟨t, ht, hcmd, htrole.trans (setRole_role (r := roleJoining) (by decide) _), hpair⟩
    · obtain ⟨t, ht, hcmd, hpair, htrole, -⟩ := runs_pairCommand h (i := .pairJoin src args) rfl (a := .done stState [])
        (if_pos (by simpa using hbad)) rfl
      exact ⟨t, ht, hcmd, htrole, hpair⟩

end Sys2Proof.Machine
end

section
/-!
PROOFS. Scope: the image commands (R465 to R469, R487, R490).
-/

namespace Sys2Proof.Machine

/-! ### What decides whether the partner takes part (R487) -/

/-- The image, the time since power-up and the commands stand, and so do the role and PARTNER_UP. -/
structure TellsFrame (s t : State) : Prop where
  img : t.img = s.img
  up : t.up = s.up
  mbx : t.mbx = s.mbx
  role : t.rd fPAIR_STS_ROLE = s.rd fPAIR_STS_ROLE
  partnerUp : t.rd fPAIR_STS_PARTNER_UP = s.rd fPAIR_STS_PARTNER_UP

theorem TellsFrame.trans {s t u : State} (h : TellsFrame s t) (k : TellsFrame t u) : TellsFrame s u :=
  ⟨k.img.trans h.img, k.up.trans h.up, k.mbx.trans h.mbx, k.role.trans h.role, k.partnerUp.trans h.partnerUp⟩

theorem TellsFrame.pairTells {s t : State} (h : TellsFrame s t) (r : Running) : t.pairTells r = s.pairTells r := by
  have hpaired : t.paired = s.paired := by
    unfold State.paired
    rw [h.img]
  unfold State.pairTells State.authority
  rw [hpaired, h.role, on_eq_of_rd h.partnerUp]

/-- What writes neither the parts nor any register of the pair. -/
theorem tellsFrame_of_kept {l : List Part} {B : List Nat} {s t : State} (h : Kept (maskOf l) s t) (hB : RegsOut B s t) (hF : 0x0F ∉ B)
    (himg : Part.img ∉ l) (hup : Part.up ∉ l) (hmbx : Part.mbx ∉ l) : TellsFrame s t :=
  ⟨same_of_kept himg h, same_of_kept hup h, same_of_kept hmbx h, hB fPAIR_STS_ROLE hF, hB fPAIR_STS_PARTNER_UP hF⟩

theorem progress_rd {f : Fld} (hf : f.off < 0x140010) (hlo : f.lo < 32) (src : CmdSrc) (n : Nat) (s : State) :
    (progress src n s).rd f = s.rd f := by
  cases src with
  | chan c =>
    refine State.rd_wr_ne s (g := f) (f := fMBX_PROG_KIB c) (fun h => ?_) _
    have : f.off * 32 + f.lo = (0x140010 + 1024 * c) * 32 + 0 := h
    omega
  | bench | partner => rfl

theorem progress_tells (src : CmdSrc) (n : Nat) (s : State) : TellsFrame s (progress src n s) := by
  have hkept : Kept 1 s (progress src n s) := progress_kept src n (Kept.refl _ s) rfl
  exact ⟨hkept.2.2.same .img (by decide), hkept.2.2.same .up (by decide), hkept.2.2.same .mbx (by decide),
    progress_rd (by decide) (by decide) .., progress_rd (by decide) (by decide) ..⟩

/-! ### IMAGE_LOAD (R465, R466) -/

theorem slotSync_regs {B : List Nat} {o s : State} (hB : 0x05 ∈ B) (h : RegsOut B o s) : RegsOut B o (slotSync s) :=
  regsOut_wr _ (regsOut_wr _ h hB) hB

theorem storeImage_regs {B : List Nat} {o s : State} (hB : 0x05 ∈ B) (slot : Nat) (i : Option Image) (h : RegsOut B o s) :
    RegsOut B o (storeImage slot i s) := slotSync_regs hB (regsOut_regs h rfl)

theorem storeImage_slots (slot : Nat) (i : Option Image) (s : State) : (storeImage slot i s).nand.slots = s.nand.slots.set slot i := rfl

/-- The status of a rejection (R465, R391). -/
theorem rejectImage_status (slot code : Nat) (s : State) : (rejectImage slot code s).1 = if code / 4096 = 2 then stAuth else stBadArg := by
  unfold rejectImage
  split <;> rfl

theorem rejectImage_same {p : Part} (hp : p ∉ [Part.regs, .chs, .snr, .pmc, .mramChs]) (slot code : Nat) (s : State) :
    p.same s (rejectImage slot code s).2 := same_of_kept hp (rejectImage_kept slot code (Kept.refl _ s) rfl)

theorem rejectImage_regs {B : List Nat} {o s : State} (h5 : 0x05 ∈ B) (hC : 0x0C ∈ B) (hD : 0x0D ∈ B) (hE : 0x0E ∈ B) (slot code : Nat)
    (h : RegsOut B o s) : RegsOut B o (rejectImage slot code s).2 := by
  have hpost : RegsOut B o (post 0x08 (le 1 slot ++ le 1 0 ++ le 2 code) (s.wr fTMB_IMG_REJ_STS_CODE code)) :=
    post_regs hC hD _ _ (regsOut_wr _ h h5)
  unfold rejectImage
  split
  · exact regsOut_flag _ hpost hE
  · exact hpost

section Load

variable {bytes : Bytes} {img : Image} {s : State}

/-- A load whose checks fail leaves its slot empty. -/
theorem loadImage_rejected {c : Nat} (h : imageReject s bytes { readImage bytes img with file := bytes } = some c) (slot : Nat) :
    loadImage slot bytes img s = (if c / 4096 = 2 then stAuth else stBadArg, c, (rejectImage slot c (storeImage slot none s)).2) := by
  unfold loadImage
  simp only [h, ← rejectImage_status slot c (storeImage slot none s)]

theorem loadImage_stored (h : imageReject s bytes { readImage bytes img with file := bytes } = none) (slot : Nat) :
    loadImage slot bytes img s = (stOk, 0, storeImage slot (some { readImage bytes img with file := bytes }) s) := by
  unfold loadImage
  simp only [h]

end Load

theorem loadImage_regs {B : List Nat} {o s : State} (h5 : 0x05 ∈ B) (hC : 0x0C ∈ B) (hD : 0x0D ∈ B) (hE : 0x0E ∈ B) (slot : Nat) (bytes : Bytes)
    (img : Image) (hs : RegsOut B o s) : RegsOut B o (loadImage slot bytes img s).2.2 := by
  cases h : imageReject s bytes { readImage bytes img with file := bytes } with
  | none =>
    rw [loadImage_stored h]
    exact storeImage_regs h5 _ _ hs
  | some c =>
    rw [loadImage_rejected h]
    exact rejectImage_regs h5 hC hD hE _ _ (storeImage_regs h5 _ _ hs)

theorem loadImage_tells (slot : Nat) (bytes : Bytes) (img : Image) (s : State) : TellsFrame s (loadImage slot bytes img s).2.2 :=
  tellsFrame_of_kept (l := [.regs, .chs, .snr, .pmc, .mramChs, .nandSlots]) (B := [0x05, 0x0C, 0x0D, 0x0E])
    (loadImage_kept slot bytes img (Kept.refl _ s) rfl) (loadImage_regs (by decide) (by decide) (by decide) (by decide) _ _ _ (regsOut_refl _ s))
    (by decide) (by decide) (by decide) (by decide)

/-- What IMAGE_LOAD's run makes of bytes that have come. -/
def loadRun (src : CmdSrc) (r : Running) (bytes : Bytes) (img : Image) (s : State) : Nat × Nat × State :=
  loadImage (Arg r 0) (bytes.take (Arg r 3)) img (progress src (bytes.take (Arg r 3)).length s)

theorem loadRun_tells (src : CmdSrc) (r : Running) (bytes : Bytes) (img : Image) (s : State) : TellsFrame s (loadRun src r bytes img s).2.2 :=
  (progress_tells ..).trans (loadImage_tells ..)

theorem forwardImage_mbx_up (slot : Nat) (b : Bytes) (s : State) : (s.forwardImage slot b).mbx = s.mbx ∧ (s.forwardImage slot b).up = s.up := by
  have hkept := st_forwardImage_kept slot b (Kept.refl 4398050705408 s) rfl
  exact ⟨hkept.2.2.same .mbx (by decide), hkept.2.2.same .up (by decide)⟩

section

variable {src : CmdSrc} {args : List Nat} {bytes : Bytes} {img : Image} {r : Running} {s : State} (h : accepted src 0x0201 r s)

include h

theorem runs_imageLoad (hrefused : s.loadRefused r (Arg r 0) (Arg r 3) (Arg64 r 1) = none) (htells : s.pairTells r = false) :
    Runs (.imageLoad src args bytes img false) s fun t =>
      answered src r (loadRun src r bytes img s).1 [(loadRun src r bytes img s).2.1, 0xF] t ∧
        t.nand.slots = (loadRun src r bytes img s).2.2.nand.slots := by
  have hframe := loadRun_tells src r bytes img s
  have hno : (loadRun src r bytes img s).2.2.pairTells r = false := (hframe.pairTells r).trans htells
  exact runs_answered (p := .nandSlots) (i := .imageLoad src args bytes img false) h rfl
    (by
      dsimp only
      rw [hrefused]
      exact if_neg (ne_true_of_eq_false hno))
    (congrArg Mbx.run hframe.mbx)

theorem runs_imageLoad_asks (hrefused : s.loadRefused r (Arg r 0) (Arg r 3) (Arg64 r 1) = none) (htells : s.pairTells r = true) :
    Runs (.imageLoad src args bytes img false) s
      (asks src r (loadRun src r bytes img s).1 [(loadRun src r bytes img s).2.1, 7] 30000000000 s) := by
  have hframe := loadRun_tells src r bytes img s
  have hyes : (loadRun src r bytes img s).2.2.pairTells r = true := (hframe.pairTells r).trans htells
  obtain ⟨hmbx, hup⟩ := forwardImage_mbx_up (Arg r 0) (bytes.take (Arg r 3)) (loadRun src r bytes img s).2.2
  obtain ⟨t, ht, hcmd, -⟩ := runs_accepted (i := .imageLoad src args bytes img false) h rfl
    (a := .partner (loadRun src r bytes img s).1 [(loadRun src r bytes img s).2.1, 7] 30000000000)
    (by
      dsimp only
      rw [hrefused]
      exact if_pos hyes)
    (congrArg Mbx.run (hmbx.trans hframe.mbx))
  refine ⟨t, ht, hcmd.trans ?_⟩
  unfold replied
  rw [hup, hframe.up]

theorem runs_imageLoad_refused {err : Bool} {st : Nat} (hrefused : s.loadRefused r (Arg r 0) (Arg r 3) (Arg64 r 1) = some st) :
    Runs (.imageLoad src args bytes img err) s fun t => answered src r st [] t ∧ t.nand = s.nand := by
  obtain ⟨t, ht, hcmd, hafter⟩ := runs_accepted (i := .imageLoad src args bytes img err) h rfl (a := .done st []) (u := s)
    (by dsimp only; rw [hrefused]) rfl
  exact ⟨t, ht, hcmd, hafter.nand⟩

theorem runs_imageLoad_failed (hrefused : s.loadRefused r (Arg r 0) (Arg r 3) (Arg64 r 1) = none) :
    Runs (.imageLoad src args bytes img true) s fun t => answered src r stFault [] t ∧ t.bit fMBX_FLT_FLAGS mfDma = true ∧
      t.nand.slots = s.nand.slots.set (Arg r 0) none := by
  obtain ⟨t, ht, hcmd, hflag, hafter⟩ := runs_dmaError (i := .imageLoad src args bytes img true) h rfl
    (u := storeImage (Arg r 0) none s)
    (by
      dsimp only
      rw [hrefused]
      exact if_pos rfl)
    rfl
  exact ⟨t, ht, hcmd, hflag, hafter.same .nandSlots (by decide)⟩

end

/-! ### Swaps (R467 to R469) -/

theorem reopenFrom_regs {B : List Nat} {o s : State} (hB : 0x04 ∈ B) (sec : Nat) (past : Bool) (h : RegsOut B o s) :
    RegsOut B o (reopenFrom sec past s) :=
  regsOut_foldl (regsOut_regs h rfl) fun _ _ _ h => openColumn_regs hB h

/-- The registers that show a pending swap, or none (R473). -/
def showSwap (pending : Bool) (slot k : Nat) (s : State) : State :=
  ((s.wrB fTMB_IMG_STS_PENDING pending).wr fTMB_IMG_STS_PEND_SLOT slot).wr64 fTMB_SWAP_LO_K_LO k

theorem showSwap_regs {B : List Nat} {o s : State} (hB : 0x05 ∈ B) (pending : Bool) (slot k : Nat) (h : RegsOut B o s) :
    RegsOut B o (showSwap pending slot k s) :=
  regsOut_wr64 _ (regsOut_wr _ (regsOut_wr _ h hB) hB) hB hB

theorem showSwap_rd (pending : Bool) (slot k : Nat) (s : State) :
    (showSwap pending slot k s).rd fTMB_IMG_STS_PENDING = (if pending then 1 else 0) ∧
      (showSwap pending slot k s).rd fTMB_IMG_STS_PEND_SLOT = slot % 2 :=
  ⟨(rd_wr64_ne (by decide) (by decide) ..).trans ((State.rd_wr_ne _ (by decide) _).trans (rd_wrB_bit rfl ..)),
    (rd_wr64_ne (by decide) (by decide) ..).trans (State.rd_wr ..)⟩

/-- A swap made pending, before it shows: the columns open from its second on are those of the new rate (R165). -/
def swapFixed (i : Image) (slot k : Nat) (s : State) : State :=
  let u := { s with swap := some (i, slot, k) }
  if rateOfCode i.rateCode = u.rate then u
  else reopenFrom (k / rateOfCode i.rateCode) (s.tickInst s.pgh.nextOpen ≥ k / rateOfCode i.rateCode * 1000000000)
    (u.setPgh { u.pgh with rates := some { sec := k / rateOfCode i.rateCode, old := u.rate, new := rateOfCode i.rateCode } })

theorem setSwap_eq (i : Image) (slot k : Nat) (s : State) : setSwap i slot k s = showSwap true slot k (swapFixed i slot k s) := rfl

theorem swapFixed_swap (i : Image) (slot k : Nat) (s : State) : (swapFixed i slot k s).swap = some (i, slot, k) := by
  unfold swapFixed
  dsimp only
  split
  · rfl
  · exact (reopenFrom_kept _ _ (Kept.refl 16385 _) rfl).2.2.same .swap (by decide)

theorem setSwap_effect (i : Image) (slot k : Nat) (s : State) : (setSwap i slot k s).swap = some (i, slot, k) ∧
    (setSwap i slot k s).rd fTMB_IMG_STS_PENDING = 1 ∧ (setSwap i slot k s).rd fTMB_IMG_STS_PEND_SLOT = slot % 2 := by
  rw [setSwap_eq]
  exact ⟨swapFixed_swap .., showSwap_rd ..⟩

theorem setSwap_tells (i : Image) (slot k : Nat) (s : State) : TellsFrame s (setSwap i slot k s) := by
  refine tellsFrame_of_kept (l := [.regs, .swap, .pgh]) (B := [0x04, 0x05]) (setSwap_kept i slot k (Kept.refl _ s) rfl) ?_ (by decide)
    (by decide) (by decide) (by decide)
  rw [setSwap_eq]
  refine showSwap_regs (by decide) _ _ _ ?_
  exact regsOut_ite (regsOut_regs (regsOut_refl _ s) rfl) (reopenFrom_regs (by decide) _ _ (regsOut_regs (regsOut_refl _ s) rfl))

/-- A swap taken away, before that shows. -/
def swapUndone (s : State) : State :=
  match s.swap, s.pgh.rates with
  | some x, some c =>
    if rateOfCode x.1.rateCode = s.rate then s
    else reopenFrom c.sec (s.tickInst s.pgh.nextOpen ≥ c.sec * 1000000000) (s.setPgh { s.pgh with rates := none })
  | _, _ => s

/-- No swap is pending and nothing is prepared for one. -/
def noSwap (s : State) : State := { (s.setTmb { s.tmb with prepared := false }) with swap := none }

theorem dropSwap_eq (s : State) : dropSwap s = showSwap false 0 0 (noSwap (swapUndone s)) := rfl

theorem dropSwap_effect (s : State) : (dropSwap s).swap = none ∧ (dropSwap s).tmb.prepared = false ∧
    (dropSwap s).rd fTMB_IMG_STS_PENDING = 0 := by
  rw [dropSwap_eq]
  exact ⟨rfl, rfl, (showSwap_rd ..).1⟩

theorem dropSwap_tells (s : State) : TellsFrame s (dropSwap s) := by
  refine tellsFrame_of_kept (l := [.regs, .swap, .pgh, .tmb]) (B := [0x04, 0x05]) (dropSwap_kept (Kept.refl _ s) rfl) ?_ (by decide)
    (by decide) (by decide) (by decide)
  rw [dropSwap_eq]
  refine showSwap_regs (by decide) _ _ _ (regsOut_regs (s := swapUndone s) ?_ rfl)
  unfold swapUndone
  split
  · exact regsOut_ite (regsOut_refl _ s) (reopenFrom_regs (by decide) _ _ (regsOut_regs (regsOut_refl _ s) rfl))
  · exact regsOut_refl _ s

/-! ### Selecting a slot at once (R468) -/

/-- The image that starts is the one that runs. -/
theorem startImage_img (slot : Nat) (i : Image) (s : State) : (startImage slot i s).img = some i := by
  have hrole (u : State) : (if i.paired then seek (u.wrB fPAIR_STS_FORCED false) else setRole roleUnpaired u).img = u.img := by
    split
    · exact (seek_kept (Kept.refl 6597073960961 _) rfl).2.2.same .img (by decide)
    · rfl
  unfold startImage
  refine ((raiseTickSecond_kept (Kept.refl 8 _) rfl).2.2.same .img (by decide)).trans ((hrole _).trans ?_)
  refine ((lmfStart_kept (Kept.refl 2097153 _) rfl).2.2.same .img (by decide)).trans ?_
  exact (imageRegs_kept s.img slot i (Kept.refl 1 _) rfl).2.2.same .img (by decide)

/-- A slot that is active, before its image starts. -/
def activeSlot (slot : Nat) (s : State) : State :=
  { s with mram := { s.mram with activeSlot := slot } }.wrB fTMB_IMG_STS_FALLBACK false

section Select

variable {slot : Nat} {i : Image} {s : State}

theorem selectSlot_rejected {c : Nat} (h : imageReject s i.file i = some c) :
    selectSlot slot i s = (.done (if c / 4096 = 2 then stAuth else stBadArg) [0xF], (rejectImage slot c s).2) := by
  unfold selectSlot
  simp only [h, ← rejectImage_status slot c s]

theorem selectSlot_accepted (h : imageReject s i.file i = none) : selectSlot slot i s = (.done stOk [0xF],
    if s.pwr.phase = .running then startImage slot i (activeSlot slot s) else activeSlot slot s) := by
  unfold selectSlot
  simp only [h]
  rfl

theorem selected_effect : let u := if s.pwr.phase = .running then startImage slot i (activeSlot slot s) else activeSlot slot s
    u.mbx = s.mbx ∧ u.mram.activeSlot = slot ∧ u.img = if s.pwr.phase = .running then some i else s.img := by
  dsimp only
  split
  · have hkept := startImage_kept slot i (Kept.refl 6597111709001 (activeSlot slot s)) rfl
    exact ⟨hkept.2.2.same .mbx (by decide), hkept.2.2.same .mramActiveSlot (by decide), startImage_img ..⟩
  · exact ⟨rfl, rfl, rfl⟩

end Select

/-! ### The commands -/

theorem ite_slot_of_le {r : Running} {α : Sort _} {a b : α} (h : Arg r 0 ≤ 1) : (if Arg r 0 > 1 then a else b) = b := if_neg (Nat.not_lt.2 h)

section

variable {src : CmdSrc} {args : List Nat} {r : Running} {s : State}

theorem runs_imageInfo (h : accepted src 0x0204 r s) (hslot : Arg r 0 ≤ 1) :
    (s.nand.slots.getD (Arg r 0) none = none → Runs (.imageInfo src args) s (answered src r stOk (List.replicate 14 0))) ∧
    (∀ i, s.nand.slots.getD (Arg r 0) none = some i → Runs (.imageInfo src args) s (answered src r stOk
      ([if Arg r 0 = 0 then s.rd fTMB_IMG_STS_SLOT0 else s.rd fTMB_IMG_STS_SLOT1, i.svn, i.rateCode, i.minRomlvl] ++ words64 i.buildId ++
        packWords (be 32 i.digest)))) := by
  refine ⟨fun hempty => ?_, fun i hi => ?_⟩
  · obtain ⟨t, ht, hdone, -⟩ := runs_accepted (i := .imageInfo src args) h rfl (a := .done stOk (List.replicate 14 0)) (u := s)
      ((ite_slot_of_le hslot).trans (by rw [hempty])) rfl
    exact ⟨t, ht, hdone⟩
  · obtain ⟨t, ht, hdone, -⟩ := runs_accepted (i := .imageInfo src args) h rfl (u := s)
      (a := .done stOk ([if Arg r 0 = 0 then s.rd fTMB_IMG_STS_SLOT0 else s.rd fTMB_IMG_STS_SLOT1, i.svn, i.rateCode, i.minRomlvl] ++
        words64 i.buildId ++ packWords (be 32 i.digest)))
      ((ite_slot_of_le hslot).trans (by rw [hi])) rfl
    exact ⟨t, ht, hdone⟩

theorem runs_imageErase (h : accepted src 0x0205 r s) (hslot : Arg r 0 ≤ 1) :
    (s.runs (Arg r 0) = false → s.pendingSlot (Arg r 0) = false → Runs (.imageErase src args) s fun t => answered src r stOk [] t ∧
      t.nand.slots = s.nand.slots.set (Arg r 0) none) ∧
    (s.runs (Arg r 0) = true ∨ s.pendingSlot (Arg r 0) = true → Runs (.imageErase src args) s fun t => answered src r stState [] t ∧
      t.nand = s.nand) := by
  refine ⟨fun hruns hpending => ?_, fun hbusy => ?_⟩
  · exact runs_answered (p := .nandSlots) (i := .imageErase src args) h rfl (u := storeImage (Arg r 0) none s)
      ((ite_slot_of_le hslot).trans (if_neg (by rw [hruns, hpending]; decide))) rfl
  · obtain ⟨t, ht, hdone, hafter⟩ := runs_accepted (i := .imageErase src args) h rfl (a := .done stState []) (u := s)
      ((ite_slot_of_le hslot).trans (if_pos (Bool.or_eq_true_iff.2 hbusy))) rfl
    exact ⟨t, ht, hdone, hafter.nand⟩

/-- A command that is done here and asks the partner. -/
theorem runs_asks {i : Instr} {op st ns : Nat} {ws : List Nat} {u : State} (h : accepted src op r s)
    {f : Running → State → Reply × State} (hexec : exec i s = .next (runCmd op src args f s)) (hf : f r s = (.partner st ws ns, u))
    (hmbx : u.mbx.run = s.mbx.run) (hup : u.up = s.up) : Runs i s fun t =>
      asks src r st ws ns s t ∧ t.swap = u.swap ∧ t.mbx.cancelled = u.mbx.cancelled := by
  obtain ⟨t, ht, hcmd, hafter⟩ := runs_accepted h hexec hf hmbx
  refine ⟨t, ht, hcmd.trans ?_, hafter.same .swap (by decide), ?_⟩
  · unfold replied
    rw [hup]
  · rw [← Host.Outcome.next.inj (hexec.symm.trans ht), runCmd_accepted h, hf]
    have hsync (v : State) : (mbxSync v).mbx = v.mbx := mbxSync_same (p := .mbx) (by decide) v
    exact (congrArg Mbx.cancelled (hsync (u.putCmd (replied (.partner st ws ns) r u)))).trans rfl

/-- IMAGE_SWAP of a full slot that does not run, while ticking. -/
theorem runs_imageSwap_pending {i : Image} (h : accepted src 0x0202 r s) (hslot : Arg r 0 ≤ 1) (hi : s.nand.slots.getD (Arg r 0) none = some i)
    (hticking : s.ticking = true) (himg : s.img.isSome = true) (hruns : s.runs (Arg r 0) = false)
    (hok : s.swapStatus r i (Arg64 r 1) = stOk) :
    (s.pairTells r = false → Runs (.imageSwap src args) s fun t => answered src r stOk [0xF] t ∧ t.swap = some (i, Arg r 0, Arg64 r 1) ∧
      t.img = s.img ∧ t.rd fTMB_IMG_STS_PENDING = 1 ∧ t.rd fTMB_IMG_STS_PEND_SLOT = Arg r 0) ∧
    (s.pairTells r = true → Runs (.imageSwap src args) s fun t => asks src r stOk [7] 100000000 s t ∧ t.swap = some (i, Arg r 0, Arg64 r 1)) := by
  have hframe := setSwap_tells i (Arg r 0) (Arg64 r 1) s
  obtain ⟨hswap, hpending, hpendSlot⟩ := setSwap_effect i (Arg r 0) (Arg64 r 1) s
  have hlive : ¬(!s.ticking || s.img.isNone) = true := by simp [hticking, Option.isNone_eq_false_iff.2 himg]
  refine ⟨fun htells => ?_, fun htells => ?_⟩
  · obtain ⟨t, ht, hdone, hafter⟩ := runs_accepted (i := .imageSwap src args) h rfl (a := .done stOk [0xF])
      (u := setSwap i (Arg r 0) (Arg64 r 1) s)
      ((ite_slot_of_le hslot).trans (by
        rw [hi]
        exact (if_neg hlive).trans ((if_neg (by simp [hruns])).trans ((if_neg (by simp [hok])).trans
          (if_neg (ne_true_of_eq_false ((hframe.pairTells r).trans htells)))))))
      (congrArg Mbx.run hframe.mbx)
    refine ⟨t, ht, hdone, (hafter.same .swap (by decide)).trans hswap, (hafter.same .img (by decide)).trans hframe.img,
      (hafter.rd _ (by decide) (by decide)).trans hpending, ((hafter.rd _ (by decide) (by decide)).trans hpendSlot).trans ?_⟩
    exact Nat.mod_eq_of_lt (Nat.lt_succ_of_le hslot)
  · obtain ⟨t, ht, hasks, htswap, -⟩ := runs_asks (i := .imageSwap src args) (st := stOk) (ws := [7]) (ns := 100000000) h rfl
      (u := (setSwap i (Arg r 0) (Arg64 r 1) s).sendMirror mirSwap (Arg64 r 1) (Arg r 0))
      ((ite_slot_of_le hslot).trans (by
        rw [hi]
        exact (if_neg hlive).trans ((if_neg (by simp [hruns])).trans ((if_neg (by simp [hok])).trans
          (if_pos ((hframe.pairTells r).trans htells))))))
      (congrArg Mbx.run ((sendMirror_same (p := .mbx) (by decide) ..).trans hframe.mbx))
      ((sendMirror_same (p := .up) (by decide) ..).trans hframe.up)
    exact ⟨t, ht, hasks, htswap.trans ((sendMirror_same (p := .swap) (by decide) ..).trans hswap)⟩

theorem runs_imageSwap_refused {i : Image} (h : accepted src 0x0202 r s) (hslot : Arg r 0 ≤ 1) (hi : s.nand.slots.getD (Arg r 0) none = some i)
    (hticking : s.ticking = true) (himg : s.img.isSome = true) (hruns : s.runs (Arg r 0) = false)
    (hbad : s.swapStatus r i (Arg64 r 1) ≠ stOk) :
    Runs (.imageSwap src args) s fun t => answered src r (s.swapStatus r i (Arg64 r 1)) [] t ∧ t.swap = s.swap :=
  runs_answered (p := .swap) (i := .imageSwap src args) h rfl (u := s)
    ((ite_slot_of_le hslot).trans (by
      rw [hi]
      exact (if_neg (by simp [hticking, Option.isNone_eq_false_iff.2 himg])).trans ((if_neg (by simp [hruns])).trans (if_pos hbad))))
    rfl

/-- IMAGE_SWAP at once, where nothing ticks (R468). -/
theorem runs_imageSwap_selects {i : Image} (h : accepted src 0x0202 r s) (hslot : Arg r 0 ≤ 1) (hi : s.nand.slots.getD (Arg r 0) none = some i)
    (hidle : s.ticking = false ∨ s.img = none) (hk : Arg64 r 1 = 0) : Runs (.imageSwap src args) s fun t =>
      match imageReject s i.file i with
      | none => answered src r stOk [0xF] t ∧ t.mram.activeSlot = Arg r 0 ∧ t.img = (if s.pwr.phase = .running then some i else s.img)
      | some code => answered src r (if code / 4096 = 2 then stAuth else stBadArg) [0xF] t ∧ t.mram.activeSlot = s.mram.activeSlot := by
  have hgo : (!s.ticking || s.img.isNone) = true := by rcases hidle with h | h <;> simp [h]
  cases hrej : imageReject s i.file i with
  | none =>
    obtain ⟨hmbx, hactive, himg⟩ := selected_effect (slot := Arg r 0) (i := i) (s := s)
    obtain ⟨t, ht, hdone, hafter⟩ := runs_accepted (i := .imageSwap src args) h rfl
      ((ite_slot_of_le hslot).trans (by
        rw [hi]
        exact (if_pos hgo).trans ((if_pos hk).trans (selectSlot_accepted hrej))))
      (congrArg Mbx.run hmbx)
    exact ⟨t, ht, hdone, (hafter.same .mramActiveSlot (by decide)).trans hactive, (hafter.same .img (by decide)).trans himg⟩
  | some code =>
    obtain ⟨t, ht, hdone, hafter⟩ := runs_accepted (i := .imageSwap src args) h rfl
      ((ite_slot_of_le hslot).trans (by
        rw [hi]
        exact (if_pos hgo).trans ((if_pos hk).trans (selectSlot_rejected hrej))))
      (congrArg Mbx.run (rejectImage_same (p := .mbx) (by decide) ..))
    exact ⟨t, ht, hdone, (hafter.same .mramActiveSlot (by decide)).trans (rejectImage_same (p := .mramActiveSlot) (by decide) ..)⟩

/-- SWAP_CANCEL of a swap that is pending. -/
theorem runs_swapCancel {x : Image × Nat × Nat} (h : accepted src 0x0203 r s) (hx : s.swap = some x) (hrefuses : s.pairRefuses r = false) :
    (s.clv.now + 50000000 ≤ s.tickInst x.2.2 → s.pairTells r = false → Runs (.swapCancel src args) s fun t => answered src r stOk [0xF] t ∧
      t.swap = none ∧ t.tmb.prepared = false ∧ t.rd fTMB_IMG_STS_PENDING = 0) ∧
    (s.clv.now + 50000000 ≤ s.tickInst x.2.2 → s.pairTells r = true → Runs (.swapCancel src args) s fun t => asks src r stOk [7] 100000000 s t ∧
      t.swap = none ∧ t.mbx.cancelled = some x) ∧
    (s.clv.now + 50000000 > s.tickInst x.2.2 → Runs (.swapCancel src args) s fun t => answered src r stState [] t ∧ t.swap = s.swap) := by
  have hframe := dropSwap_tells s
  obtain ⟨hswap, hprepared, hpending⟩ := dropSwap_effect s
  have hopen (hearly : s.clv.now + 50000000 ≤ s.tickInst x.2.2) :
      ¬(s.pairRefuses r || decide (s.clv.now + 50000000 > s.tickInst x.2.2)) = true := by simp [hrefuses, hearly]
  refine ⟨fun hearly htells => ?_, fun hearly htells => ?_, fun hlate => ?_⟩
  · obtain ⟨t, ht, hdone, hafter⟩ := runs_accepted (i := .swapCancel src args) h rfl (a := .done stOk [0xF]) (u := dropSwap s)
      (by
        rw [hx]
        exact (if_neg (hopen hearly)).trans (if_neg (ne_true_of_eq_false ((hframe.pairTells r).trans htells))))
      (congrArg Mbx.run hframe.mbx)
    have htmb : t.tmb = (dropSwap s).tmb := hafter.same .tmb (by decide)
    exact ⟨t, ht, hdone, (hafter.same .swap (by decide)).trans hswap, htmb ▸ hprepared,
      (hafter.rd _ (by decide) (by decide)).trans hpending⟩
  · have hmirror {p : Part} (hp : p ∉ [Part.pair, .out]) :=
      sendMirror_same hp mirCancel x.2.2 0 ((dropSwap s).setMbx { (dropSwap s).mbx with cancelled := some x })
    have hrun : (dropSwap s).mbx.run = s.mbx.run := congrArg Mbx.run hframe.mbx
    obtain ⟨t, ht, hasks, htswap, htcancelled⟩ := runs_asks (i := .swapCancel src args) (st := stOk) (ws := [7]) (ns := 100000000) h rfl
      (u := ((dropSwap s).setMbx { (dropSwap s).mbx with cancelled := some x }).sendMirror mirCancel x.2.2 0)
      (by
        rw [hx]
        exact (if_neg (hopen hearly)).trans (if_pos ((hframe.pairTells r).trans htells)))
      ((congrArg Mbx.run (hmirror (p := .mbx) (by decide))).trans hrun)
      ((hmirror (p := .up) (by decide)).trans hframe.up)
    exact ⟨t, ht, hasks, htswap.trans ((hmirror (p := .swap) (by decide)).trans hswap),
      htcancelled.trans (congrArg Mbx.cancelled (hmirror (p := .mbx) (by decide)))⟩
  · exact runs_answered (p := .swap) (i := .swapCancel src args) h rfl (u := s)
      (by
        rw [hx]
        exact if_pos (by simp [hlate]))
      rfl

theorem runs_swapPrepareDone (hswap : s.swap.isSome = true) :
    Runs .swapPrepareDone s fun t => t.tmb = { s.tmb with prepared := true } ∧ t.swap = s.swap := by
  cases hprepared : s.tmb.prepared with
  | false =>
    have hkept := st_eccWrite_kept 3 0 (Kept.refl 2199023255553 (s.setTmb { s.tmb with prepared := true })) rfl
    exact runs_next (i := .swapPrepareDone) rfl (if_pos (by simp [hswap, hprepared]))
      ⟨hkept.2.2.same .tmb (by decide), hkept.2.2.same .swap (by decide)⟩
  | true =>
    refine runs_next (i := .swapPrepareDone) (t := s) rfl (if_neg (by simp [hprepared])) ⟨?_, rfl⟩
    rw [← hprepared]

end

/-! ### The obligation -/

/-- Settles O51: a load is checked in its run, a swap fixed or dropped, and no register of the pair is written before the partner is asked. -/
theorem imageCommands : Obligations.ImageCommands := by
  refine ⟨?load, ?loadAsks, ?loadRefused, ?loadFails, ?info, ?erase, ?swap, ?cancel, ?prepared⟩
  case load =>
    rintro src args bytes img r b i s h hrefused htells rfl rfl
    obtain ⟨t, ht, hdone, hslots⟩ := runs_imageLoad (args := args) (bytes := bytes) (img := img) h hrefused htells
    refine ⟨t, ht, ?_⟩
    have hnand : (progress src (bytes.take (Arg r 3)).length s).nand = s.nand := by cases src <;> rfl
    cases hrej : imageReject (progress src (bytes.take (Arg r 3)).length s) (bytes.take (Arg r 3))
        { readImage (bytes.take (Arg r 3)) img with file := bytes.take (Arg r 3) } with
    | none =>
      rw [loadRun, loadImage_stored hrej] at hdone hslots
      exact ⟨hdone, hslots.trans ((storeImage_slots ..).trans (by rw [hnand]))⟩
    | some code =>
      rw [loadRun, loadImage_rejected hrej] at hdone hslots
      exact ⟨hdone, hslots.trans ((rejectImage_same (p := .nandSlots) (by decide) ..).trans ((storeImage_slots ..).trans (by rw [hnand])))⟩
  case loadAsks =>
    intro src args bytes img r s h hrefused htells
    obtain ⟨t, ht, hasks⟩ := runs_imageLoad_asks (args := args) (bytes := bytes) (img := img) h hrefused htells
    exact ⟨t, ht, _, _, hasks⟩
  case loadRefused => exact fun src args bytes img err r st s h hrefused => runs_imageLoad_refused h hrefused
  case loadFails => exact fun src args bytes img r s h hrefused => runs_imageLoad_failed h hrefused
  case info => exact fun src args r s h hslot => runs_imageInfo h hslot
  case erase => exact fun src args r s h hslot => runs_imageErase h hslot
  case swap =>
    intro src args r i s h hslot hi
    exact ⟨fun hticking himg hruns hok => (runs_imageSwap_pending h hslot hi hticking himg hruns hok).1,
      fun hticking himg hruns hok => (runs_imageSwap_pending h hslot hi hticking himg hruns hok).2,
      fun hticking himg hruns hbad => runs_imageSwap_refused h hslot hi hticking himg hruns hbad,
      fun hidle hk => runs_imageSwap_selects h hslot hi hidle hk⟩
  case cancel => exact fun src args r x s h hx hrefuses => runs_swapCancel h hx hrefuses
  case prepared => exact fun s hswap => runs_swapPrepareDone hswap

end Sys2Proof.Machine
end

section
/-!
PROOFS. Scope: sigma-delta channels and the estimator's commit (R425 to R433, R437, R438).
-/

namespace Sys2Proof.Machine

/-! ### A channel's record -/

theorem sdChan_setSd {s : State} {c : Nat} (hc : c < s.lmf.chans.length) (x : SdChan) : (s.setSd c x).sdChan c = x := by
  unfold State.sdChan
  refine (List.getD_eq_getElem (s.lmf.chans.set c x) {} (by simpa using hc)).trans ?_
  simp

theorem length_setSd (s : State) (c : Nat) (x : SdChan) : (s.setSd c x).lmf.chans.length = s.lmf.chans.length := List.length_set ..

/-! ### A restart (R430) -/

theorem sdRestart_chan {s : State} {c : Nat} (hc : c < s.lmf.chans.length) : (sdRestart c s).sdChan c =
    { s.sdChan c with mods := [], restarting := true, readyAt := s.up + sdSettle (s.sdPreset c), fresh := true } := sdChan_setSd hc _

theorem sdRestart_shown {s : State} {c : Nat} (hon : s.sdOn c = true) : (sdRestart c s).rd (fLMF_SD_CFG_RESTARTING c) = 1 := by
  refine (rd_wrB_bit rfl ..).trans ?_
  rw [hon]
  rfl

/-! ### An output (R426, R431, R432) -/

/-- The output made of a code at a time. -/
def State.sdMade (s : State) (c : Nat) (code : Int) (ovr : Bool) (time : Nat) : SdOut :=
  { code := code, ovr := ovr, gap := (s.sdChan c).fresh || sdJump (s.sdPreset c) (s.sdChan c).last time, time := time }

/-- The record of a channel with an output made. -/
def sdKept (x : SdChan) (o : SdOut) : SdChan :=
  { x with outs := (x.outs.filter fun y => y.time + 1000000000 ≥ o.time) ++ [o], fresh := false, last := some o }

/-- The registers that show an output. -/
def sdShow (c : Nat) (o : SdOut) (s : State) : State :=
  ((s.wr (fLMF_SD_LAST_CODE c) (ofSigned 24 o.code)).wrB (fLMF_SD_LAST_OVR c) o.ovr).wrB (fLMF_SD_LAST_GAP c) o.gap

/-- The count of outputs over range. -/
def sdCount (c : Nat) (ovr : Bool) (s : State) : State :=
  if ovr then (s.inc (fLMF_SD_OVR_CNT_OUTPUTS c)).flag fLMF_FLT_FLAGS 0 else s

theorem sdMake_eq (c : Nat) (code : Int) (ovr : Bool) (time : Nat) (s : State) : sdMake c code ovr time s =
    sdCount c ovr (sdShow c (s.sdMade c code ovr time) (s.setSd c (sdKept (s.sdChan c) (s.sdMade c code ovr time)))) := rfl

theorem sdCount_rd {f : Fld} {c : Nat} (hcnt : f.key ≠ (fLMF_SD_OVR_CNT_OUTPUTS c).key) (hflags : f.key ≠ fLMF_FLT_FLAGS.key) (ovr : Bool)
    (s : State) : (sdCount c ovr s).rd f = s.rd f := by
  unfold sdCount
  split
  · exact (rd_flag hflags ..).trans (rd_inc_ne hcnt ..)
  · rfl

theorem sdMake_chan {s : State} {c : Nat} (hc : c < s.lmf.chans.length) (code : Int) (ovr : Bool) (time : Nat) :
    (sdMake c code ovr time s).sdChan c = sdKept (s.sdChan c) (s.sdMade c code ovr time) := by
  rw [sdMake_eq]
  unfold sdCount
  split <;> exact sdChan_setSd hc _

theorem sdMake_shown (s : State) (c : Nat) (code : Int) (ovr : Bool) (time : Nat) :
    (sdMake c code ovr time s).rd (fLMF_SD_LAST_CODE c) = ofSigned 24 code % 2 ^ 24 ∧
      (sdMake c code ovr time s).rd (fLMF_SD_LAST_OVR c) = (if ovr then 1 else 0) ∧
      (sdMake c code ovr time s).rd (fLMF_SD_LAST_GAP c) = (if (s.sdMade c code ovr time).gap then 1 else 0) := by
  rw [sdMake_eq]
  have hcount {f : Fld} (hf : f.off = rLMF_SD_LAST c) (hlo : f.lo < 32) (u : State) : (sdCount c ovr u).rd f = u.rd f := by
    refine sdCount_rd ?_ ?_ ..
    all_goals
      dsimp only [Fld.key, rLMF_SD_OVR_CNT, rLMF_FLT]
      rw [hf]
      dsimp only [rLMF_SD_LAST]
      omega
  refine ⟨?_, ?_, ?_⟩
  · refine (hcount rfl (by dsimp only; omega) _).trans ((rd_wrB ?_ ..).trans ((rd_wrB ?_ ..).trans (State.rd_wr ..)))
    all_goals dsimp only [Fld.key]; omega
  · refine (hcount rfl (by dsimp only; omega) _).trans ((rd_wrB ?_ ..).trans (rd_wrB_bit rfl ..))
    dsimp only [Fld.key]
    omega
  · exact (hcount rfl (by dsimp only; omega) _).trans (rd_wrB_bit rfl ..)

theorem sdMake_counted (s : State) (c : Nat) (code : Int) (time : Nat) :
    (sdMake c code true time s).rd (fLMF_SD_OVR_CNT_OUTPUTS c) =
      satAdd (fLMF_SD_OVR_CNT_OUTPUTS c).w (s.rd (fLMF_SD_OVR_CNT_OUTPUTS c)) 1 := by
  have hkept (o : SdOut) (u : State) : (sdShow c o u).rd (fLMF_SD_OVR_CNT_OUTPUTS c) = u.rd (fLMF_SD_OVR_CNT_OUTPUTS c) := by
    refine (rd_wrB ?_ ..).trans ((rd_wrB ?_ ..).trans (State.rd_wr_ne _ ?_ _))
    all_goals dsimp only [Fld.key, rLMF_SD_OVR_CNT, rLMF_SD_LAST]; omega
  rw [sdMake_eq]
  refine (rd_flag ?_ ..).trans ((rd_inc_self ..).trans ?_)
  · dsimp only [Fld.key, rLMF_SD_OVR_CNT, rLMF_FLT]
    omega
  · rw [hkept]
    rfl

/-! ### The decimation instant (R427 to R432) -/

/-- The samples in the chain once those since the output before have come. -/
def State.sdHeld (s : State) (c : Nat) (mods : List SdMod) : List SdMod :=
  if s.sdPreset c = 3 then mods else (mods ++ (s.sdChan c).mods).take (sdSpan (s.sdPreset c))

/-- A sample was beyond the range, or the code is. -/
def sdOver (p : Nat) (held : List SdMod) : Bool := (held.any fun m => m.beyond) || (sdCode p held).natAbs > 8388607

/-- The code as it saturates. -/
def sdSat (ovr : Bool) (raw : Int) : Int := if ovr then (if raw < 0 then -8388607 else 8388607) else raw

/-- The channel with the samples taken in. -/
def sdTaken (c : Nat) (held : List SdMod) (s : State) : State := s.setSd c { s.sdChan c with mods := held }

theorem sdTaken_time (c : Nat) (held : List SdMod) (capA capB cyc : Nat) (s : State) :
    (sdTaken c held s).sdTime c capA capB cyc = s.sdTime c capA capB cyc := by
  unfold State.sdTime
  rfl

/-- The output before was over range. -/
def State.sdWasOver (s : State) (c : Nat) : Bool := match (s.sdChan c).last with | some l => l.ovr | none => false

theorem sdWasOver_eq (s : State) (c : Nat) : s.sdWasOver c = (s.sdChan c).last.any fun l => l.ovr := by
  unfold State.sdWasOver
  cases (s.sdChan c).last <;> rfl

section Instant

variable {c : Nat} {mods : List SdMod} {s : State} (capA capB cyc : Nat)

theorem sdOutput_off (ue : Bool) (h : s.lmf.running = false ∨ s.sdOn c = false ∨ mods.length ≠ sdDecim (s.sdPreset c)) :
    sdOutput c mods capA capB cyc ue s = s := if_pos (by simpa [or_assoc] using h)

variable (hrun : s.lmf.running = true) (hon : s.sdOn c = true) (hlen : mods.length = sdDecim (s.sdPreset c))

include hrun hon hlen

theorem sdOutput_live : ¬(!s.lmf.running || !s.sdOn c || decide (mods.length ≠ sdDecim (s.sdPreset c))) = true := by simp [hrun, hon, hlen]

theorem sdOutput_lost : sdOutput c mods capA capB cyc true s = sdRestart c s :=
  (if_neg (sdOutput_live hrun hon hlen)).trans (if_pos rfl)

theorem sdOutput_restarting (hrestarting : (s.sdChan c).restarting = true) :
    sdOutput c mods capA capB cyc false s = sdTaken c (s.sdHeld c mods) s :=
  (if_neg (sdOutput_live hrun hon hlen)).trans ((if_neg Bool.false_ne_true).trans (if_pos hrestarting))

variable (hgoes : (s.sdChan c).restarting = false)

include hgoes

theorem sdOutput_again (hlast : (!sdOver (s.sdPreset c) (s.sdHeld c mods) && s.sdWasOver c) = true) :
    sdOutput c mods capA capB cyc false s = sdRestart c ((sdTaken c (s.sdHeld c mods) s).setSd c
      { (sdTaken c (s.sdHeld c mods) s).sdChan c with last := none }) :=
  (if_neg (sdOutput_live hrun hon hlen)).trans ((if_neg Bool.false_ne_true).trans ((if_neg (ne_true_of_eq_false hgoes)).trans (if_pos hlast)))

theorem sdOutput_makes (hlast : ¬(!sdOver (s.sdPreset c) (s.sdHeld c mods) && s.sdWasOver c) = true) :
    sdOutput c mods capA capB cyc false s = sdMake c (sdSat (sdOver (s.sdPreset c) (s.sdHeld c mods)) (sdCode (s.sdPreset c) (s.sdHeld c mods)))
      (sdOver (s.sdPreset c) (s.sdHeld c mods)) (s.sdTime c capA capB cyc) (sdTaken c (s.sdHeld c mods) s) := by
  rw [← sdTaken_time c (s.sdHeld c mods)]
  exact (if_neg (sdOutput_live hrun hon hlen)).trans ((if_neg Bool.false_ne_true).trans
    ((if_neg (ne_true_of_eq_false hgoes)).trans (if_neg hlast)))

end Instant

/-! ### The estimator's commit (R437, R438) -/

/-- A committed record counts at ingress only. -/
theorem commitRecord_effect (s : State) (r : SlotRecord) : (commitRecord s r).lmf = s.lmf ∧
    (commitRecord s r).rd fLMF_STS_FREQ_VALID = s.rd fLMF_STS_FREQ_VALID ∧ (commitRecord s r).rd fLMF_STS_RUNNING = s.rd fLMF_STS_RUNNING := by
  have hrd (f : Fld) (hcnt : f.key ≠ fING_RX_CNT_RECORDS.key) (hflags : f.key ≠ fING_FLT_FLAGS.key) : (commitRecord s r).rd f = s.rd f := by
    have hcounted (u : State) : ((s.ev 0x345).inc fING_RX_CNT_RECORDS).rd f = s.rd f := (rd_inc_ne hcnt ..).trans (ev_rd ..)
    unfold commitRecord
    dsimp only
    split
    · exact (rd_flag hflags ..).trans (hcounted s)
    · exact hcounted s
  exact ⟨(commitRecord_kept r (Kept.refl 33554497 s) rfl).2.2.same .lmf (by decide), hrd _ (by decide) (by decide),
    hrd _ (by decide) (by decide)⟩

/-- The tick's estimate kept and shown. -/
def estShown (n : Nat) (v1 : Option (Nat × Nat)) (f : Option Nat) (missing : Bool) (s : State) : State :=
  let s := if s.on fLMF_CFG_SLOT0 && missing then s.flag fLMF_FLT_FLAGS 1 else s
  let s := (s.wrB fLMF_STS_FREQ_VALID f.isSome).wrB fLMF_STS_RUNNING (s.on fLMF_CFG_SLOT0)
  s.setLmf { s.lmf with hist := ({ tick := n, v1 := v1, f := f } :: s.lmf.hist).take 3, next := (s.nextRun n).1,
                        fLast := match f with | some x => some (x, s.up) | none => s.lmf.fLast }

/-- The tick's estimate, and its record handed to slot 0 where that is enabled. -/
def estWritten (n : Nat) (v1 : Option (Nat × Nat)) (f : Option Nat) (missing : Bool) (rec0 : SlotRecord) (s : State) : State :=
  if (estShown n v1 f missing s).on fLMF_CFG_SLOT0 then commitRecord (estShown n v1 f missing s) rec0 else estShown n v1 f missing s

/-- A frequency is estimated from two phasors (R435). -/
theorem estFreq_isSome {fnom rate : Nat} {v w : Option (Nat × Nat)} (h : (estFreq fnom rate v w).isSome = true) : v.isSome = true := by
  cases v with
  | none => exact h
  | some v => rfl

theorem estCommit_eq (n : Nat) (s : State) : ∃ v1 f missing rec0, (Option.isSome f = true → Option.isSome v1 = true) ∧
    estCommit n s = estWritten n v1 f missing rec0 s := by
  refine ⟨_, _, _, _, ?_, rfl⟩
  exact estFreq_isSome

/-- What is kept and shown of a tick's estimate. -/
structure EstKept (n : Nat) (v1 : Option (Nat × Nat)) (f : Option Nat) (s t : State) : Prop where
  next : t.lmf.next = (s.nextRun n).1
  hist : t.lmf.hist = ({ tick := n, v1 := v1, f := f } :: s.lmf.hist).take 3
  valid : t.rd fLMF_STS_FREQ_VALID = if f.isSome then 1 else 0
  running : t.rd fLMF_STS_RUNNING = if s.on fLMF_CFG_SLOT0 then 1 else 0

theorem estShown_kept (n : Nat) (v1 : Option (Nat × Nat)) (f : Option Nat) (missing : Bool) (s : State) :
    EstKept n v1 f s (estShown n v1 f missing s) := by
  have hshown (u : State) (hslot : u.on fLMF_CFG_SLOT0 = s.on fLMF_CFG_SLOT0) :
      ((u.wrB fLMF_STS_FREQ_VALID f.isSome).wrB fLMF_STS_RUNNING (u.on fLMF_CFG_SLOT0)).rd fLMF_STS_FREQ_VALID = (if f.isSome then 1 else 0) ∧
        ((u.wrB fLMF_STS_FREQ_VALID f.isSome).wrB fLMF_STS_RUNNING (u.on fLMF_CFG_SLOT0)).rd fLMF_STS_RUNNING =
          if s.on fLMF_CFG_SLOT0 then 1 else 0 := by
    rw [hslot]
    exact ⟨(rd_wrB (by decide) ..).trans (rd_wrB_bit rfl ..), rd_wrB_bit rfl ..⟩
  unfold estShown
  dsimp only
  split
  · obtain ⟨hvalid, hrunning⟩ := hshown (s.flag fLMF_FLT_FLAGS 1) (on_eq_of_rd (rd_flag (by decide) ..))
    exact ⟨congrArg Prod.fst (nextRun_eq_of rfl rfl n), rfl, hvalid, hrunning⟩
  · obtain ⟨hvalid, hrunning⟩ := hshown s rfl
    exact ⟨congrArg Prod.fst (nextRun_eq_of rfl rfl n), rfl, hvalid, hrunning⟩

theorem estWritten_kept (n : Nat) (v1 : Option (Nat × Nat)) (f : Option Nat) (missing : Bool) (rec0 : SlotRecord) (s : State) :
    EstKept n v1 f s (estWritten n v1 f missing rec0 s) := by
  have h := estShown_kept n v1 f missing s
  unfold estWritten
  generalize estShown n v1 f missing s = u at h
  split
  · obtain ⟨hlmf, hvalid, hrunning⟩ := commitRecord_effect u rec0
    exact ⟨hlmf ▸ h.next, hlmf ▸ h.hist, hvalid.trans h.valid, hrunning.trans h.running⟩
  · exact h

/-! ### The obligation -/

theorem bit_eq_one_iff {n : Nat} {b : Bool} (h : n = if b then 1 else 0) : n = 1 ↔ b = true := by
  subst h
  cases b <;> decide

/-- Settles O55: what an instant does follows from the samples held; the commit's history and registers are what `estShown` writes. -/
theorem sampleChannelRows : Obligations.SampleChannelRows := by
  refine ⟨?output, ?lost, ?off, ?settled, ?commit⟩
  case output =>
    intro c mods capA capB cyc held raw ovr s hrun hon hlen hchans hheld
    obtain rfl : held = s.sdHeld c mods := hheld
    have hc : (c : Nat) < s.lmf.chans.length := by rw [hchans]; exact c.isLt
    refine ⟨fun hrestarting => congrArg _ (sdOutput_restarting capA capB cyc hrun hon hlen hrestarting), ?_⟩
    rintro hgoes rfl hovr
    obtain rfl : ovr = sdOver (s.sdPreset c) (s.sdHeld c mods) := hovr
    have htaken : (sdTaken c (s.sdHeld c mods) s).sdChan c = { s.sdChan c with mods := s.sdHeld c mods } := sdChan_setSd hc _
    have hctaken : (c : Nat) < (sdTaken c (s.sdHeld c mods) s).lmf.chans.length := (length_setSd ..).symm ▸ hc
    by_cases hlast : (!sdOver (s.sdPreset c) (s.sdHeld c mods) && (s.sdChan c).last.any fun l => l.ovr) = true
    · refine runs_next (i := .sdOutput c mods capA capB cyc false) rfl
        (sdOutput_again capA capB cyc hrun hon hlen hgoes (by rw [sdWasOver_eq]; exact hlast)) ?_
      rw [if_pos hlast, htaken]
      have hcagain : (c : Nat) < ((sdTaken c (s.sdHeld c mods) s).setSd c
          { s.sdChan c with mods := s.sdHeld c mods, last := none }).lmf.chans.length := (length_setSd ..).symm ▸ hctaken
      rw [sdRestart_chan hcagain, sdChan_setSd hctaken]
      exact ⟨rfl, rfl, rfl, rfl, sdRestart_shown hon, rfl⟩
    · refine runs_next (i := .sdOutput c mods capA capB cyc false) rfl
        (sdOutput_makes capA capB cyc hrun hon hlen hgoes (by rw [sdWasOver_eq]; exact hlast)) ?_
      obtain ⟨hcode, hovr, hgap⟩ := sdMake_shown (sdTaken c (s.sdHeld c mods) s) c
        (sdSat (sdOver (s.sdPreset c) (s.sdHeld c mods)) (sdCode (s.sdPreset c) (s.sdHeld c mods)))
        (sdOver (s.sdPreset c) (s.sdHeld c mods)) (s.sdTime c capA capB cyc)
      rw [if_neg hlast, sdMake_chan hctaken, htaken]
      refine ⟨_, rfl, List.mem_append_right _ (List.mem_singleton_self _), rfl, rfl, rfl, rfl, ?_, hcode, bit_eq_one_iff hovr, bit_eq_one_iff hgap,
        fun hover => ?_⟩
      · unfold State.sdMade
        rw [htaken]
        rfl
      · have hover' : sdOver (s.sdPreset c) (s.sdHeld c mods) = true := hover
        rw [hover']
        exact sdMake_counted (sdTaken c (s.sdHeld c mods) s) ..
  case lost =>
    intro c mods capA capB cyc s hrun hon hlen hchans
    refine runs_next (i := .sdOutput c mods capA capB cyc true) rfl (sdOutput_lost capA capB cyc hrun hon hlen) ?_
    rw [sdRestart_chan (by rw [hchans]; exact c.isLt)]
    exact ⟨rfl, rfl, rfl, sdRestart_shown hon⟩
  case off => exact fun c mods capA capB cyc ue s h => congrArg _ (sdOutput_off capA capB cyc ue h)
  case settled =>
    intro c s hrun hrestarting hchans
    refine ⟨fun hready => ?_, fun hearly => ?_⟩
    · exact runs_next (i := .sdRestartSettled c) rfl (if_neg (by simp [hrun, hrestarting, hready]))
        ⟨sdChan_setSd (by rw [hchans]; exact c.isLt) _, rd_wrB_bit rfl ..⟩
    · exact congrArg _ (if_pos (by simp [hearly]))
  case commit =>
    rintro n s hrun hticking rfl
    refine ⟨fun hdue => ?_, fun hearly => ?_⟩
    · obtain ⟨v1, f, missing, rec0, hfreq, heq⟩ := estCommit_eq s.lmf.next s
      have hkept := estWritten_kept s.lmf.next v1 f missing rec0 s
      refine runs_next (i := .localEstimateCommit s.lmf.next) rfl ((if_neg (by simp [hrun, hticking, hdue])).trans heq)
        ⟨hkept.next, ?_, bit_eq_one_iff hkept.running, { tick := s.lmf.next, v1 := v1, f := f }, ?_, rfl, hfreq, bit_eq_one_iff hkept.valid⟩
      · rw [hkept.hist]
        exact List.length_take_le ..
      · rw [hkept.hist]
        rfl
    · exact congrArg _ (if_pos (by simp [hearly]))

end Sys2Proof.Machine
end

section
/-!
PROOFS. Scope: the integrating converters (R439 to R447, R451).
-/

namespace Sys2Proof.Machine

/-! ### A converter's record -/

theorem icv_setIcv {s : State} {x : Nat} (hx : x < s.lmf.icv.length) (v : Icv) : (s.setIcv x v).icv x = v := by
  unfold State.icv
  refine (List.getD_eq_getElem (s.lmf.icv.set x v) {} (by simpa using hx)).trans ?_
  simp

theorem length_setIcv (s : State) (x : Nat) (v : Icv) : (s.setIcv x v).lmf.icv.length = s.lmf.icv.length := List.length_set ..

theorem icv_setIcv_ne {x y : Nat} (h : y ≠ x) (s : State) (v : Icv) : (s.setIcv x v).icv y = s.icv y := by
  have hget : (s.lmf.icv.set x v)[y]? = s.lmf.icv[y]? := List.getElem?_set_ne (Ne.symm h)
  unfold State.icv
  rw [List.getD_eq_getElem?_getD, List.getD_eq_getElem?_getD, ← hget]
  rfl

/-! ### What a converter's part of a conversion leaves -/

/-- Registers that one converter writes: LMF_FLT, and its own but for ICV_CFG. -/
def IcvWrites (f : Fld) : Prop := f.lo < 32 ∧ (f.off = rLMF_FLT ∨ 0x100404 ≤ f.off ∧ f.off % 256 ≠ 0)

/-- Registers that no converter writes: those below the converters' but for LMF_FLT, and each ICV_CFG. -/
def IcvLeaves (f : Fld) : Prop := f.lo < 32 ∧ f.off ≠ rLMF_FLT ∧ (f.off < 0x100404 ∨ f.off % 256 = 0)

theorem key_ne_of_icv {f g : Fld} (hf : IcvLeaves f) (hg : IcvWrites g) : f.key ≠ g.key := by
  obtain ⟨hflo, hflt, hf⟩ := hf
  obtain ⟨hglo, hg⟩ := hg
  unfold Fld.key
  dsimp only [rLMF_FLT] at hflt hg
  omega

theorem icvWrites_flt : IcvWrites fLMF_FLT_FLAGS := ⟨by decide, .inl rfl⟩

theorem icvWrites_sts (x : Nat) {lo w r : Nat} (hlo : lo < 32) : IcvWrites ⟨rLMF_ICV_STS x, lo, w, r⟩ :=
  ⟨hlo, .inr (by dsimp only [rLMF_ICV_STS]; omega)⟩

/-- The conversion's times and T_m, what they are found from, and every setting stand. -/
structure ConvTimes (s t : State) : Prop where
  up : t.up = s.up
  convUp : t.lmf.convUp = s.lmf.convUp
  fLast : t.lmf.fLast = s.lmf.fLast
  length : t.lmf.icv.length = s.lmf.icv.length
  settings : ∀ f, IcvLeaves f → f.off ≠ rLMF_PLAUS_STS → t.rd f = s.rd f

namespace ConvTimes

variable {s t u : State}

theorem refl (s : State) : ConvTimes s s := ⟨rfl, rfl, rfl, rfl, fun _ _ _ => rfl⟩

theorem trans (h : ConvTimes s t) (k : ConvTimes t u) : ConvTimes s u :=
  ⟨k.up.trans h.up, k.convUp.trans h.convUp, k.fLast.trans h.fLast, k.length.trans h.length,
    fun f hf hsts => (k.settings f hf hsts).trans (h.settings f hf hsts)⟩

theorem ite {c : Prop} [Decidable c] (h : ConvTimes s t) (k : ConvTimes s u) : ConvTimes s (if c then t else u) := by
  split <;> assumption

theorem setPasses (h : ConvTimes s t) (p : Nat) : ConvTimes s (t.setLmf { t.lmf with passes := p }) :=
  h.trans ⟨rfl, rfl, rfl, rfl, fun _ _ _ => rfl⟩

theorem wrSts (h : ConvTimes s t) {lo w r : Nat} (hlo : lo < 32) (v : Nat) : ConvTimes s (t.wr ⟨rLMF_PLAUS_STS, lo, w, r⟩ v) := by
  refine h.trans ⟨rfl, rfl, rfl, rfl, fun f hf hsts => State.rd_wr_ne _ ?_ _⟩
  obtain ⟨hflo, -, -⟩ := hf
  unfold Fld.key
  dsimp only [rLMF_PLAUS_STS] at hsts ⊢
  omega

theorem wrFlt (h : ConvTimes s t) (v : Nat) : ConvTimes s (t.wr fLMF_FLT_FLAGS v) :=
  h.trans ⟨rfl, rfl, rfl, rfl, fun _ hf _ => State.rd_wr_ne _ (key_ne_of_icv hf icvWrites_flt) _⟩

theorem cycle (h : ConvTimes s t) : t.cycle = s.cycle := by
  have hfnom : t.rd fLMF_CFG_FNOM = s.rd fLMF_CFG_FNOM := h.settings _ ⟨by decide, by decide, .inl (by decide)⟩ (by decide)
  have hsrc : t.rd fLMF_CFG_CYC_SRC = s.rd fLMF_CFG_CYC_SRC := h.settings _ ⟨by decide, by decide, .inl (by decide)⟩ (by decide)
  unfold State.cycle State.fnom
  rw [on_eq_of_rd hfnom, on_eq_of_rd hsrc, h.fLast, h.up]

theorem convEnd (h : ConvTimes s t) : t.convEnd = s.convEnd := by
  have hcycle : t.rd fLMF_CYCLE_STS_T_M_NS = s.rd fLMF_CYCLE_STS_T_M_NS := h.settings _ ⟨by decide, by decide, .inl (by decide)⟩ (by decide)
  unfold State.convEnd
  rw [h.convUp, hcycle]

end ConvTimes

/-- Besides, the plausibility check stands, and whether T_m is nominal. -/
structure ConvFrame (s t : State) : Prop extends ConvTimes s t where
  passes : t.lmf.passes = s.lmf.passes
  nominal : t.lmf.nominal = s.lmf.nominal
  rd : ∀ f, IcvLeaves f → t.rd f = s.rd f

theorem convFrame_of_lmf {s t : State} (hup : t.up = s.up) (hconv : t.lmf.convUp = s.lmf.convUp) (hlast : t.lmf.fLast = s.lmf.fLast)
    (hlength : t.lmf.icv.length = s.lmf.icv.length) (hpasses : t.lmf.passes = s.lmf.passes) (hnominal : t.lmf.nominal = s.lmf.nominal)
    (hrd : ∀ f, IcvLeaves f → t.rd f = s.rd f) : ConvFrame s t :=
  ⟨⟨hup, hconv, hlast, hlength, fun f hf _ => hrd f hf⟩, hpasses, hnominal, hrd⟩

theorem ConvFrame.trans {s t u : State} (h : ConvFrame s t) (k : ConvFrame t u) : ConvFrame s u :=
  ⟨h.toConvTimes.trans k.toConvTimes, k.passes.trans h.passes, k.nominal.trans h.nominal, fun f hf => (k.rd f hf).trans (h.rd f hf)⟩

theorem ConvFrame.refMv {s t : State} (h : ConvFrame s t) (x : Nat) : t.refMv x = s.refMv x := by
  have hcfg {lo w r : Nat} (hlo : lo < 32) : IcvLeaves ⟨rLMF_ICV_CFG x, lo, w, r⟩ :=
    ⟨hlo, by dsimp only [rLMF_ICV_CFG, rLMF_FLT]; omega, .inr (by dsimp only [rLMF_ICV_CFG]; omega)⟩
  unfold State.refMv
  rw [h.rd _ (hcfg (by decide)), h.rd _ (hcfg (by decide))]

/-- Converter `x` alone has worked: the other's record stands too. -/
structure IcvFrame (x : Nat) (s t : State) : Prop extends ConvFrame s t where
  other : ∀ y, y ≠ x → t.icv y = s.icv y

namespace IcvFrame

variable {x : Nat} {s t u : State}

theorem refl (x : Nat) (s : State) : IcvFrame x s s := ⟨convFrame_of_lmf rfl rfl rfl rfl rfl rfl fun _ _ => rfl, fun _ _ => rfl⟩

theorem trans (h : IcvFrame x s t) (k : IcvFrame x t u) : IcvFrame x s u :=
  ⟨h.toConvFrame.trans k.toConvFrame, fun y hy => (k.other y hy).trans (h.other y hy)⟩

theorem wr (h : IcvFrame x s t) {f : Fld} (hf : IcvWrites f) (v : Nat) : IcvFrame x s (t.wr f v) :=
  h.trans ⟨convFrame_of_lmf rfl rfl rfl rfl rfl rfl fun _ hg => State.rd_wr_ne _ (key_ne_of_icv hg hf) _, fun _ _ => rfl⟩

theorem setIcv (h : IcvFrame x s t) (v : Icv) : IcvFrame x s (t.setIcv x v) :=
  h.trans ⟨convFrame_of_lmf rfl rfl rfl (List.length_set ..) rfl rfl fun _ _ => rfl, fun _ hy => icv_setIcv_ne hy ..⟩

theorem setPub (h : IcvFrame x s t) (p : List (Nat × Nat)) : IcvFrame x s (t.setLmf { t.lmf with pub := p }) :=
  h.trans ⟨convFrame_of_lmf rfl rfl rfl rfl rfl rfl fun _ _ => rfl, fun _ _ => rfl⟩

theorem ite {c : Prop} [Decidable c] (h : IcvFrame x s t) (k : IcvFrame x s u) : IcvFrame x s (if c then t else u) := by
  split <;> assumption

end IcvFrame

/-! ### The parts of a conversion (R440 to R445, R451) -/

theorem icvFrame_icvShow {x : Nat} {s t : State} (h : IcvFrame x s t) : IcvFrame x s (icvShow x t) := by
  have hreg {k lo w r : Nat} (hlo : lo < 32) (hk : 0x100404 ≤ k ∧ k < 0x100500 := by decide) : IcvWrites ⟨k + 256 * x, lo, w, r⟩ := by
    refine ⟨hlo, .inr ?_⟩
    dsimp only
    omega
  unfold icvShow
  refine IcvFrame.wr (IcvFrame.wr (IcvFrame.wr (IcvFrame.wr (IcvFrame.wr (IcvFrame.wr (IcvFrame.wr (IcvFrame.wr (IcvFrame.wr (IcvFrame.wr
    (IcvFrame.wr (IcvFrame.wr (IcvFrame.wr h ?_ _) ?_ _) ?_ _) ?_ _) ?_ _) ?_ _) ?_ _) ?_ _) ?_ _) ?_ _) ?_ _) ?_ _) ?_ _
  all_goals exact hreg (by decide)

theorem icvFrame_icvPush {x : Nat} {s t : State} (h : IcvFrame x s t) (r : IcvRes) : IcvFrame x s (icvPush x r t) := by
  unfold icvPush
  refine IcvFrame.ite ((h.wr (f := fLMF_ICV_DROP_CNT_RESULTS x) ⟨?_, .inr ?_⟩ _).wr icvWrites_flt _) (icvFrame_icvShow (h.setIcv _))
  · dsimp only
    omega
  · dsimp only [rLMF_ICV_DROP_CNT]
    omega

/-- A queue with room takes the result. -/
theorem icvPush_icv {x : Nat} {s : State} (hx : x < s.lmf.icv.length) (hroom : (s.icv x).queue.length < 64) (r : IcvRes) :
    (icvPush x r s).icv x = { s.icv x with queue := (s.icv x).queue ++ [r] } := by
  unfold icvPush
  exact (congrArg (State.icv · x) (if_neg (Nat.not_le.2 hroom))).trans (icv_setIcv hx _)

/-- The flags that a conversion raises. -/
def icvFlagged (i : IcvIn) (s : State) : State :=
  let s := if icvRaw i < 0 || icvRaw i > 0xFFFFFF then s.flag fLMF_FLT_FLAGS 2 else s
  if i.fault then s.flag fLMF_FLT_FLAGS 3 else s

/-- A conversion's code as it saturates. -/
def icvSat (i : IcvIn) : Nat := (max 0 (min (icvRaw i) 0xFFFFFF)).toNat

/-- The flags of a conversion's result (R445). -/
def icvBits (x : Nat) (i : IcvIn) (s : State) : Nat :=
  (if s.on (fLMF_ICV_STS_SETTLING x) then 1 else 0) + (if icvRaw i < 0 || icvRaw i > 0xFFFFFF then 2 else 0) +
    (if s.lmf.nominal then 4 else 0) + (if i.fault then 8 else 0)

theorem icvCode_eq (x : Nat) (i : IcvIn) (s : State) : icvCode x i s = (icvSat i, icvBits x i s, icvFlagged i s) := rfl

theorem icvFlagged_lmf (i : IcvIn) (s : State) : (icvFlagged i s).lmf = s.lmf := by
  unfold icvFlagged
  dsimp only
  split <;> split <;> rfl

theorem icvFrame_icvFlagged {x : Nat} {s t : State} (h : IcvFrame x s t) (i : IcvIn) : IcvFrame x s (icvFlagged i t) := by
  have hovr : IcvFrame x s (if icvRaw i < 0 || icvRaw i > 0xFFFFFF then t.flag fLMF_FLT_FLAGS 2 else t) := IcvFrame.ite (h.wr icvWrites_flt _) h
  exact IcvFrame.ite (hovr.wr icvWrites_flt _) hovr

theorem icvFrame_icvSettle {x : Nat} {s t : State} (h : IcvFrame x s t) : IcvFrame x s (icvSettle x t) :=
  (h.setIcv _).wr (icvWrites_sts x (by decide)) _

theorem icvFrame_icvResult {x : Nat} {s t : State} (h : IcvFrame x s t) (r : ScanRun) (codes : List Nat) (flags start stop : Nat) :
    IcvFrame x s (icvResult x r codes flags start stop t) := by
  unfold icvResult
  dsimp only
  split
  · exact icvFrame_icvPush h _
  · exact (icvFrame_icvPush h _).setPub _

theorem icvFrame_icvBegin {x : Nat} {s t : State} (h : IcvFrame x s t) : IcvFrame x s (icvBegin x t) := by
  unfold icvBegin
  dsimp only
  split
  · exact h
  · exact (h.setIcv _).wr (icvWrites_sts x (by decide)) _

/-! ### An averaging run (R444, R445) -/

theorem icvSettle_icv {x : Nat} {s : State} (hx : x < s.lmf.icv.length) :
    (icvSettle x s).icv x = { s.icv x with settleAt := some (s.up + if s.rd (fLMF_ICV_CFG_REF x) = 1 then 20000000 else 5000000) } :=
  icv_setIcv hx _

/-- A fault starts settling and changes nothing else of the converter's record. -/
theorem icvSettle_ite_icv {x : Nat} {s : State} (hx : x < s.lmf.icv.length) (fault : Bool) :
    ∃ z, (if fault then icvSettle x s else s).icv x = { s.icv x with settleAt := z } := by
  cases fault with
  | false => exact ⟨_, rfl⟩
  | true => exact ⟨_, icvSettle_icv hx⟩

/-- The averaging run with a code more: it goes on, or its result is queued. -/
def icvAveraged (x : Nat) (r : ScanRun) (codes : List Nat) (flags start stop : Nat) (s : State) : State :=
  if codes.length < r.n then s.setIcv x { s.icv x with run := some r, codes := codes, flags := flags, start := start }
  else
    let s := icvResult x r codes flags start stop s
    s.setIcv x { s.icv x with run := none, walked := some r.entry, codes := [], flags := 0 }

theorem icvScan_idle {x : Nat} {s : State} (h : (s.icv x).run = none) (i : IcvIn) (start stop : Nat) : icvScan x i start stop s = s := by
  unfold icvScan
  simp only [h]

theorem icvScan_eq {x : Nat} {s : State} {r : ScanRun} (h : (s.icv x).run = some r) (i : IcvIn) (start stop : Nat) : ∃ flags first,
    icvScan x i start stop s = if i.fault then icvSettle x (icvAveraged x r ((s.icv x).codes ++ [icvSat i]) flags first stop (icvFlagged i s))
      else icvAveraged x r ((s.icv x).codes ++ [icvSat i]) flags first stop (icvFlagged i s) := by
  unfold icvScan
  simp only [h]
  exact ⟨_, _, rfl⟩

theorem icvFrame_icvScan {x : Nat} {s t : State} (h : IcvFrame x s t) (i : IcvIn) (start stop : Nat) :
    IcvFrame x s (icvScan x i start stop t) := by
  cases hrun : (t.icv x).run with
  | none =>
    rw [icvScan_idle hrun]
    exact h
  | some r =>
    obtain ⟨flags, first, heq⟩ := icvScan_eq hrun i start stop
    have hflagged := icvFrame_icvFlagged h i
    have hmid : IcvFrame x s (icvAveraged x r ((t.icv x).codes ++ [icvSat i]) flags first stop (icvFlagged i t)) :=
      IcvFrame.ite (hflagged.setIcv _) ((icvFrame_icvResult hflagged ..).setIcv _)
    rw [heq]
    exact IcvFrame.ite (icvFrame_icvSettle hmid) hmid

/-- The value of an averaging run's result (R444). -/
def icvMean (r : ScanRun) (codes : List Nat) : Nat := min (roundDiv codes.sum (2 ^ r.s)) 0xFFFFFFFF

theorem icvResult_icv {x : Nat} {s : State} (hx : x < s.lmf.icv.length) (hroom : (s.icv x).queue.length < 64) (r : ScanRun) (codes : List Nat)
    (flags start stop : Nat) : ∃ q : IcvRes, (icvResult x r codes flags start stop s).icv x =
      { s.icv x with queue := (s.icv x).queue ++ [q] } ∧ q.val = icvMean r codes := by
  unfold icvResult
  dsimp only
  split
  · exact ⟨_, icvPush_icv hx hroom _, rfl⟩
  · exact ⟨_, icvPush_icv hx hroom _, rfl⟩

section Scan

variable {x : Nat} {s : State} {r : ScanRun} (hx : x < s.lmf.icv.length) (hrun : (s.icv x).run = some r) (i : IcvIn) (start stop : Nat)

include hx hrun

theorem icvScan_goesOn (hmore : (s.icv x).codes.length + 1 < r.n) : ((icvScan x i start stop s).icv x).run = some r ∧
    ((icvScan x i start stop s).icv x).codes = (s.icv x).codes ++ [icvSat i] ∧ ((icvScan x i start stop s).icv x).queue = (s.icv x).queue := by
  obtain ⟨flags, first, heq⟩ := icvScan_eq hrun i start stop
  have hlmf := icvFlagged_lmf i s
  have hicv : (icvFlagged i s).icv x = s.icv x := by unfold State.icv; rw [hlmf]
  have hon : icvAveraged x r ((s.icv x).codes ++ [icvSat i]) flags first stop (icvFlagged i s) = (icvFlagged i s).setIcv x
      { (icvFlagged i s).icv x with run := some r, codes := (s.icv x).codes ++ [icvSat i], flags := flags, start := first } :=
    if_pos (by rw [List.length_append]; exact hmore)
  rw [heq, hon]
  have hx' : x < (icvFlagged i s).lmf.icv.length := by rw [hlmf]; exact hx
  obtain ⟨z, hz⟩ := icvSettle_ite_icv (s := (icvFlagged i s).setIcv x
    { (icvFlagged i s).icv x with run := some r, codes := (s.icv x).codes ++ [icvSat i], flags := flags, start := first })
    (by rwa [length_setIcv]) i.fault
  rw [hz, icv_setIcv hx', hicv]
  exact ⟨rfl, rfl, rfl⟩

theorem icvScan_done (hfull : r.n ≤ (s.icv x).codes.length + 1) (hroom : (s.icv x).queue.length < 64) :
    ((icvScan x i start stop s).icv x).codes = [] ∧ ((icvScan x i start stop s).icv x).run = none ∧
      ∃ q, ((icvScan x i start stop s).icv x).queue = (s.icv x).queue ++ [q] ∧ q.val = icvMean r ((s.icv x).codes ++ [icvSat i]) := by
  obtain ⟨flags, first, heq⟩ := icvScan_eq hrun i start stop
  have hlmf := icvFlagged_lmf i s
  have hicv : (icvFlagged i s).icv x = s.icv x := by unfold State.icv; rw [hlmf]
  have hx' : x < (icvFlagged i s).lmf.icv.length := by rw [hlmf]; exact hx
  obtain ⟨q, hq, hval⟩ := icvResult_icv hx' (by rwa [hicv]) r ((s.icv x).codes ++ [icvSat i]) flags first stop
  have hframe : IcvFrame x (icvFlagged i s) (icvResult x r ((s.icv x).codes ++ [icvSat i]) flags first stop (icvFlagged i s)) :=
    icvFrame_icvResult (.refl x _) ..
  have hdone : icvAveraged x r ((s.icv x).codes ++ [icvSat i]) flags first stop (icvFlagged i s) =
      (icvResult x r ((s.icv x).codes ++ [icvSat i]) flags first stop (icvFlagged i s)).setIcv x
        { (icvResult x r ((s.icv x).codes ++ [icvSat i]) flags first stop (icvFlagged i s)).icv x with
          run := none, walked := some r.entry, codes := [], flags := 0 } :=
    if_neg (by rw [List.length_append]; exact Nat.not_lt.2 hfull)
  rw [heq, hdone]
  generalize icvResult x r ((s.icv x).codes ++ [icvSat i]) flags first stop (icvFlagged i s) = u at hq hframe
  have hu : x < u.lmf.icv.length := by rwa [hframe.length]
  obtain ⟨z, hz⟩ := icvSettle_ite_icv (s := u.setIcv x { u.icv x with run := none, walked := some r.entry, codes := [], flags := 0 })
    (by rwa [length_setIcv]) i.fault
  rw [hz, icv_setIcv hu, hq, hicv]
  exact ⟨rfl, rfl, q, rfl, hval⟩

end Scan

/-! ### The next conversion (R441, R442, R446) -/

/-- A plausibility pair is due (R446). -/
def State.plausIsDue (s : State) : Bool := s.lmf.plausNow || (s.up ≥ s.lmf.plausDue && s.rd fLMF_PLAUS_CFG_PLAUS_S ≠ 0)

/-- A conversion that started `ago` ns ago: its times and T_m. -/
def convStarted (ago : Nat) (s : State) : State :=
  let u := s.setLmf { s.lmf with
    nominal := s.cycle.2, convUp := s.up - ago, convAt := s.clv.now - ago, plausNow := s.plausIsDue,
    plausDue := if s.plausIsDue && !s.lmf.plausNow then s.lmf.plausDue + s.rd fLMF_PLAUS_CFG_PLAUS_S * 1000000000 else s.lmf.plausDue }
  if s.cycle.2 then (u.wr fLMF_CYCLE_STS_T_M_NS s.cycle.1).flag fLMF_FLT_FLAGS 6 else u.wr fLMF_CYCLE_STS_T_M_NS s.cycle.1

theorem startConversion_eq (ago : Nat) (s : State) : startConversion ago s =
    if s.plausIsDue then convStarted ago s else icvBegin 1 (icvBegin 0 (convStarted ago s)) := rfl

/-- The converters' records and the plausibility check as before, and the conversion's times. -/
structure ConvStarted (ago : Nat) (s t : State) : Prop where
  icv : t.lmf.icv = s.lmf.icv
  convUp : t.lmf.convUp = s.up - ago
  nominal : t.lmf.nominal = s.cycle.2
  passes : t.lmf.passes = s.lmf.passes
  cycle : t.rd fLMF_CYCLE_STS_T_M_NS = s.cycle.1 % 2 ^ fLMF_CYCLE_STS_T_M_NS.w
  rd : ∀ f : Fld, f.key ≠ fLMF_CYCLE_STS_T_M_NS.key → f.key ≠ fLMF_FLT_FLAGS.key → t.rd f = s.rd f
  failed : t.bit fLMF_FLT_FLAGS 5 = s.bit fLMF_FLT_FLAGS 5

theorem convStarted_effect (ago : Nat) (s : State) : ConvStarted ago s (convStarted ago s) := by
  unfold convStarted
  dsimp only
  split
  case isTrue hnominal =>
    refine ⟨rfl, rfl, rfl, rfl, (rd_flag (by decide) ..).trans (State.rd_wr ..), fun f hcycle hflt =>
      (rd_flag hflt ..).trans (State.rd_wr_ne _ hcycle _), (bit_flag (by decide) ..).trans ((Bool.or_false _).trans ?_)⟩
    exact bit_eq_of_rd (State.rd_wr_ne _ (by decide) _) _
  case isFalse =>
    exact ⟨rfl, rfl, rfl, rfl, State.rd_wr .., fun f hcycle _ => State.rd_wr_ne _ hcycle _, bit_eq_of_rd (State.rd_wr_ne _ (by decide) _) _⟩

/-- The entry that is next begins where none is in progress (R444). -/
theorem icvBegin_icv {x : Nat} {s : State} (hx : x < s.lmf.icv.length) :
    (∀ r, (s.icv x).run = some r → icvBegin x s = s) ∧
      ((s.icv x).run = none → ∃ r, (icvBegin x s).icv x = { s.icv x with run := r, codes := [], flags := 0 }) := by
  refine ⟨fun r h => ?_, fun h => ?_⟩
  · unfold icvBegin
    simp only [h]
  · refine ⟨s.nextEntry x (s.icv x).walked, ?_⟩
    unfold icvBegin
    simp only [h]
    exact icv_setIcv hx _

theorem icvBegin_rd {x : Nat} {f : Fld} (hf : f.key ≠ (fLMF_ICV_STS_RUNNING x).key) (s : State) : (icvBegin x s).rd f = s.rd f := by
  unfold icvBegin
  dsimp only
  split
  · rfl
  · exact rd_wrB hf ..

section Next

variable (ago : Nat) (s : State)

/-- The next conversion starts: its times, and the plausibility check as before. -/
theorem startConversion_effect : (startConversion ago s).lmf.convUp = s.up - ago ∧ (startConversion ago s).lmf.nominal = s.cycle.2 ∧
    (startConversion ago s).lmf.passes = s.lmf.passes ∧
    (startConversion ago s).rd fLMF_CYCLE_STS_T_M_NS = s.cycle.1 % 2 ^ fLMF_CYCLE_STS_T_M_NS.w ∧
    (startConversion ago s).rd fLMF_PLAUS_STS_FAILS = s.rd fLMF_PLAUS_STS_FAILS ∧
    (startConversion ago s).rd fLMF_PLAUS_STS_FAIL = s.rd fLMF_PLAUS_STS_FAIL ∧
    (startConversion ago s).bit fLMF_FLT_FLAGS 5 = s.bit fLMF_FLT_FLAGS 5 := by
  have h := convStarted_effect ago s
  have hbegun : ConvFrame (convStarted ago s) (icvBegin 1 (icvBegin 0 (convStarted ago s))) :=
    (icvFrame_icvBegin (.refl 0 _)).toConvFrame.trans (icvFrame_icvBegin (.refl 1 _)).toConvFrame
  have hrd {f : Fld} (h0 : f.key ≠ (fLMF_ICV_STS_RUNNING 0).key) (h1 : f.key ≠ (fLMF_ICV_STS_RUNNING 1).key) :
      (icvBegin 1 (icvBegin 0 (convStarted ago s))).rd f = (convStarted ago s).rd f := (icvBegin_rd h1 _).trans (icvBegin_rd h0 _)
  rw [startConversion_eq]
  split
  · exact ⟨h.convUp, h.nominal, h.passes, h.cycle, h.rd _ (by decide) (by decide), h.rd _ (by decide) (by decide), h.failed⟩
  · exact ⟨hbegun.convUp.trans h.convUp, hbegun.nominal.trans h.nominal, hbegun.passes.trans h.passes,
      (hrd (by decide) (by decide)).trans h.cycle, (hrd (by decide) (by decide)).trans (h.rd _ (by decide) (by decide)),
      (hrd (by decide) (by decide)).trans (h.rd _ (by decide) (by decide)),
      (bit_eq_of_rd (hrd (by decide) (by decide)) _).trans h.failed⟩

/-- Converter 0 goes on with its run, or begins the next one. -/
theorem startConversion_icv (hlength : s.lmf.icv.length = 2) :
    (∀ r, (s.icv 0).run = some r → (startConversion ago s).icv 0 = s.icv 0) ∧
      ∃ r codes flags, (startConversion ago s).icv 0 = { s.icv 0 with run := r, codes := codes, flags := flags } ∧
        (codes = (s.icv 0).codes ∨ codes = []) := by
  have hlist : (convStarted ago s).lmf.icv = s.lmf.icv := (convStarted_effect ago s).icv
  have hicv : (convStarted ago s).icv 0 = s.icv 0 := by unfold State.icv; rw [hlist]
  have hother (u : State) : (icvBegin 1 u).icv 0 = u.icv 0 := (icvFrame_icvBegin (.refl 1 u)).other 0 (by decide)
  obtain ⟨hgoes, hbegins⟩ := icvBegin_icv (x := 0) (s := convStarted ago s) (by rw [hlist, hlength]; decide)
  rw [startConversion_eq]
  split
  · rw [hicv]
    exact ⟨fun _ _ => rfl, _, _, _, rfl, .inl rfl⟩
  · rw [hother]
    rw [hicv] at hgoes hbegins
    cases hrun : (s.icv 0).run with
    | some r =>
      rw [hgoes r hrun, hicv]
      exact ⟨fun _ _ => rfl, _, _, _, rfl, .inl rfl⟩
    | none =>
      obtain ⟨r, hr⟩ := hbegins hrun
      rw [hr]
      exact ⟨fun _ h => (nomatch h), _, _, _, rfl, .inr rfl⟩

end Next

/-! ### A plausibility pair (R446, R447) -/

/-- Flags of a result that keep a pair from being compared: SETTLING, OVR or FAULT. -/
def plausBad (flags : Nat) : Bool := flags.testBit 0 || flags.testBit 1 || flags.testBit 3

/-- The difference of a pair, in units of 10 µV over 2^24. -/
def State.plausDiff (s : State) (a b : Nat) : Int := ((a * 2 * s.refMv 0 * 100 : Nat) : Int) - (b * 2 * s.refMv 1 * 100 : Nat)

/-- Both results of a pair queued. -/
def plausTaken (a b : IcvIn) (r0 r1 : IcvRes) (s : State) : State := icvPush 1 r1 (icvPush 0 r0 (icvFlagged b (icvFlagged a s)))

def plausShown (d : Int) (s : State) : State := s.wrSat fLMF_PLAUS_STS_DIFF (Q.round ⟨d, 2 ^ 24⟩)

/-- A pair within tolerance. -/
def plausPassed (s : State) : State :=
  let n := s.rd fLMF_PLAUS_CFG_PLAUS_N
  let p := s.lmf.passes + 1
  let s := (s.setLmf { s.lmf with passes := p }).wr fLMF_PLAUS_STS_FAILS 0
  if p ≥ n && s.on fLMF_PLAUS_STS_FAIL then (s.wrB fLMF_PLAUS_STS_FAIL false).wr fLMF_FLT_FLAGS (clrBit 5 (s.rd fLMF_FLT_FLAGS)) else s

/-- A pair outside tolerance. -/
def plausFailed (s : State) : State :=
  let n := s.rd fLMF_PLAUS_CFG_PLAUS_N
  let k := min 255 (s.rd fLMF_PLAUS_STS_FAILS + 1)
  let s := (s.setLmf { s.lmf with passes := 0 }).wr fLMF_PLAUS_STS_FAILS k
  if k ≥ n then (s.wrB fLMF_PLAUS_STS_FAIL true).flag fLMF_FLT_FLAGS 5 else s

def plausJudged (d : Int) (s : State) : State :=
  if d.natAbs ≤ s.rd fLMF_PLAUS_CFG_TOL * 2 ^ 24 then plausPassed s else plausFailed s

/-- A fault starts the settling of its converter. -/
def plausSettled (a b : IcvIn) (s : State) : State :=
  let s := if a.fault then icvSettle 0 s else s
  if b.fault then icvSettle 1 s else s

theorem plausPair_eq (a b : IcvIn) (start stop : Nat) (s : State) : ∃ r0 r1, plausPair a b start stop s =
    let u := plausTaken a b r0 r1 s
    let u := plausShown (u.plausDiff (icvSat a) (icvSat b)) u
    plausSettled a b (if plausBad (icvBits 0 a s) || plausBad (icvBits 1 b (icvFlagged a s)) then u
      else plausJudged ((plausTaken a b r0 r1 s).plausDiff (icvSat a) (icvSat b)) u) := by
  unfold plausPair
  simp only [icvCode_eq]
  unfold plausSettled plausJudged plausPassed plausFailed plausShown plausTaken plausBad State.plausDiff
  exact ⟨_, _, rfl⟩

theorem convFrame_plausTaken (a b : IcvIn) (r0 r1 : IcvRes) (s : State) : ConvFrame s (plausTaken a b r0 r1 s) :=
  (icvFrame_icvPush (icvFrame_icvFlagged (icvFrame_icvFlagged (.refl 0 s) a) b) r0).toConvFrame.trans (icvFrame_icvPush (.refl 1 _) r1).toConvFrame

theorem convTimes_plausJudged {s t : State} (h : ConvTimes s t) (d : Int) : ConvTimes s (plausJudged d t) := by
  have hpassed : ConvTimes s (plausPassed t) :=
    ConvTimes.ite (((h.setPasses _).wrSts (by decide) _).wrSts (by decide) _ |>.wrFlt _) ((h.setPasses _).wrSts (by decide) _)
  have hfailed : ConvTimes s (plausFailed t) :=
    ConvTimes.ite (((h.setPasses _).wrSts (by decide) _).wrSts (by decide) _ |>.wrFlt _) ((h.setPasses _).wrSts (by decide) _)
  exact ConvTimes.ite hpassed hfailed

theorem convTimes_plausSettled {s t : State} (h : ConvTimes s t) (a b : IcvIn) : ConvTimes s (plausSettled a b t) := by
  have hfirst : ConvTimes s (if a.fault then icvSettle 0 t else t) :=
    ConvTimes.ite (h.trans (icvFrame_icvSettle (.refl 0 t)).toConvTimes) h
  exact ConvTimes.ite (hfirst.trans (icvFrame_icvSettle (.refl 1 _)).toConvTimes) hfirst

theorem convTimes_plausPair {s t : State} (h : ConvTimes s t) (a b : IcvIn) (start stop : Nat) :
    ConvTimes s (plausPair a b start stop t) := by
  obtain ⟨r0, r1, heq⟩ := plausPair_eq a b start stop t
  have hshown (d : Int) : ConvTimes s (plausShown d (plausTaken a b r0 r1 t)) :=
    (h.trans (convFrame_plausTaken a b r0 r1 t).toConvTimes).wrSts (by decide) _
  rw [heq]
  exact convTimes_plausSettled (ConvTimes.ite (hshown _) (convTimes_plausJudged (hshown _) _)) a b

/-- Enough passes end a failure (R447). -/
theorem plausPassed_effect (s : State) : (plausPassed s).lmf.passes = s.lmf.passes + 1 ∧ (plausPassed s).rd fLMF_PLAUS_STS_FAILS = 0 ∧
    (s.lmf.passes + 1 ≥ s.rd fLMF_PLAUS_CFG_PLAUS_N → (plausPassed s).rd fLMF_PLAUS_STS_FAIL = 0) := by
  unfold plausPassed
  dsimp only
  split
  case isTrue =>
    refine ⟨rfl, ?_, fun _ => (State.rd_wr_ne _ (by decide) _).trans (rd_wrB_bit rfl ..)⟩
    exact (State.rd_wr_ne _ (by decide) _).trans ((rd_wrB (by decide) ..).trans (State.rd_wr ..))
  case isFalse hstands =>
    refine ⟨rfl, State.rd_wr .., fun henough => ?_⟩
    simpa [State.on, henough] using hstands

theorem plausFailed_effect (s : State) : (plausFailed s).lmf.passes = 0 ∧
    (plausFailed s).rd fLMF_PLAUS_STS_FAILS = min 255 (s.rd fLMF_PLAUS_STS_FAILS + 1) ∧
    (min 255 (s.rd fLMF_PLAUS_STS_FAILS + 1) ≥ s.rd fLMF_PLAUS_CFG_PLAUS_N →
      (plausFailed s).rd fLMF_PLAUS_STS_FAIL = 1 ∧ (plausFailed s).bit fLMF_FLT_FLAGS 5 = true) := by
  have hfits : min 255 (s.rd fLMF_PLAUS_STS_FAILS + 1) % 2 ^ 8 = min 255 (s.rd fLMF_PLAUS_STS_FAILS + 1) := by omega
  unfold plausFailed
  dsimp only
  split
  case isTrue =>
    refine ⟨rfl, ?_, fun _ => ⟨(rd_flag (by decide) ..).trans (rd_wrB_bit rfl ..), bit_flag_self (by decide) _⟩⟩
    exact (rd_flag (by decide) ..).trans ((rd_wrB (by decide) ..).trans ((State.rd_wr ..).trans hfits))
  case isFalse hstands => exact ⟨rfl, (State.rd_wr ..).trans hfits, fun henough => absurd henough hstands⟩

/-! ### A code in range (R440) -/

section InRange

variable {i : IcvIn} {n : Nat} (hraw : icvRaw i = n) (hn : n ≤ 0xFFFFFF)

include hraw hn

theorem icvSat_inRange : icvSat i = n := by
  unfold icvSat
  rw [hraw]
  omega

theorem icvRaw_inRange : (decide (icvRaw i < 0) || decide (icvRaw i > 0xFFFFFF)) = false := by
  rw [hraw]
  simp
  omega

theorem icvFlagged_inRange (hfault : i.fault = false) (s : State) : icvFlagged i s = s := by
  unfold icvFlagged
  simp only [icvRaw_inRange hraw hn, hfault, Bool.false_eq_true, if_false]

theorem plausBad_inRange (hfault : i.fault = false) {x : Nat} {s : State} (hsettled : s.rd (fLMF_ICV_STS_SETTLING x) = 0) :
    plausBad (icvBits x i s) = false := by
  have hon : s.on (fLMF_ICV_STS_SETTLING x) = false := decide_eq_false (not_not.2 hsettled)
  unfold icvBits
  simp only [icvRaw_inRange hraw hn, hfault, hon, Bool.false_eq_true, if_false]
  cases s.lmf.nominal <;> decide

end InRange

/-! ### One lockstep conversion (R441, R442) -/

/-- Both converters before the work of a conversion's end: nothing is to be discarded any more. -/
def icvCleared (s : State) : State :=
  let s := s.setIcv 0 { s.icv 0 with discard := false }
  s.setIcv 1 { s.icv 1 with discard := false }

/-- Both converters as a plausibility pair is taken. -/
def icvPaired (s : State) : State := (icvCleared s).setLmf { (icvCleared s).lmf with plausNow := false }

/-- A conversion that has ended, before the next one starts. -/
def icvWorked (a b : IcvIn) (s : State) : State :=
  let start := s.lmf.convAt
  let stop := start + s.rd fLMF_CYCLE_STS_T_M_NS
  let u := icvCleared s
  if u.lmf.plausNow then
    if (s.icv 0).discard || (s.icv 1).discard then u else plausPair a b start stop (icvPaired s)
  else
    let u := if (s.icv 0).discard then u else icvScan 0 a start stop u
    if (s.icv 1).discard then u else icvScan 1 b start stop u

theorem exec_icvConversionEnd (a b : IcvIn) (s : State) : exec (.icvConversionEnd a b) s = .next (
    if !s.lmf.running || s.up < s.convEnd then s
    else startConversion ((icvWorked a b s).up - (icvWorked a b s).convEnd) (icvWorked a b s)) := rfl

theorem convFrame_icvCleared (s : State) : ConvFrame s (icvCleared s) :=
  (IcvFrame.setIcv (.refl 0 s) _).toConvFrame.trans (IcvFrame.setIcv (.refl 1 _) _).toConvFrame

theorem icvCleared_icv {s : State} (hlength : s.lmf.icv.length = 2) : (icvCleared s).icv 0 = { s.icv 0 with discard := false } :=
  (icv_setIcv_ne (by decide) ..).trans (icv_setIcv (by rw [hlength]; decide) _)

theorem convTimes_icvWorked (a b : IcvIn) (s : State) : ConvTimes s (icvWorked a b s) := by
  have hcleared : ConvTimes s (icvCleared s) := (convFrame_icvCleared s).toConvTimes
  have hscan (x : Nat) (i : IcvIn) (start stop : Nat) {t : State} (h : ConvTimes s t) : ConvTimes s (icvScan x i start stop t) :=
    h.trans (icvFrame_icvScan (.refl x t) i start stop).toConvTimes
  have hfirst := ConvTimes.ite (c := (s.icv 0).discard = true) hcleared
    (hscan 0 a s.lmf.convAt (s.lmf.convAt + s.rd fLMF_CYCLE_STS_T_M_NS) hcleared)
  have hpair : ConvTimes s (icvPaired s) :=
    hcleared.trans ⟨rfl, rfl, rfl, rfl, fun _ _ _ => rfl⟩
  unfold icvWorked
  dsimp only
  split
  · split
    · exact hcleared
    · exact convTimes_plausPair hpair ..
  · split
    · exact hfirst
    · exact hscan 1 b _ _ hfirst

/-- Where no pair is due, converter 0 takes its code or discards it; what follows leaves its record to the next conversion's start. -/
theorem icvWorked_icv {s : State} (hnow : s.lmf.plausNow = false) (a b : IcvIn) : ∃ start stop, (icvWorked a b s).icv 0 =
    (if (s.icv 0).discard then icvCleared s else icvScan 0 a start stop (icvCleared s)).icv 0 := by
  refine ⟨s.lmf.convAt, s.lmf.convAt + s.rd fLMF_CYCLE_STS_T_M_NS, ?_⟩
  have hnow' : ¬(icvCleared s).lmf.plausNow = true := ne_true_of_eq_false hnow
  refine (congrArg (State.icv · 0) (if_neg hnow')).trans ?_
  split
  · rfl
  · exact (icvFrame_icvScan (.refl 1 _) b _ _).other 0 (by decide)

theorem icvWorked_paired {a b : IcvIn} {s : State} (hnow : s.lmf.plausNow = true) (hkeep0 : (s.icv 0).discard = false)
    (hkeep1 : (s.icv 1).discard = false) : icvWorked a b s =
      plausPair a b s.lmf.convAt (s.lmf.convAt + s.rd fLMF_CYCLE_STS_T_M_NS) (icvPaired s) := by
  have hnow' : (icvCleared s).lmf.plausNow = true := hnow
  exact (if_pos hnow').trans (if_neg (by rw [hkeep0, hkeep1]; decide))

theorem plausSettled_sound {a b : IcvIn} (ha : a.fault = false) (hb : b.fault = false) (s : State) : plausSettled a b s = s := by
  unfold plausSettled
  simp only [ha, hb, Bool.false_eq_true, if_false]

section Ends

variable {s : State} (hrun : s.lmf.running = true) (hdue : s.up ≥ s.convEnd) (a b : IcvIn)

include hrun hdue

theorem runs_icvConversionEnd {P : State → Prop} (h : P (startConversion (s.up - s.convEnd) (icvWorked a b s))) :
    Runs (.icvConversionEnd a b) s P := by
  refine runs_next (i := .icvConversionEnd a b) (exec_icvConversionEnd a b s) (if_neg (by simp [hrun, hdue])) ?_
  rw [(convTimes_icvWorked a b s).up, (convTimes_icvWorked a b s).convEnd]
  exact h

/-- The next conversion starts where this one's time ended (R441). -/
theorem runs_icvConversionEnd_times : Runs (.icvConversionEnd a b) s fun t => t.lmf.convUp = s.convEnd ∧
    t.rd fLMF_CYCLE_STS_T_M_NS = s.cycle.1 % 2 ^ fLMF_CYCLE_STS_T_M_NS.w ∧ t.lmf.nominal = s.cycle.2 := by
  have htimes := convTimes_icvWorked a b s
  obtain ⟨hconv, hnominal, -, hcycle, -⟩ := startConversion_effect (s.up - s.convEnd) (icvWorked a b s)
  refine runs_icvConversionEnd hrun hdue a b ⟨hconv.trans ?_, hcycle.trans (by rw [htimes.cycle]), hnominal.trans (by rw [htimes.cycle])⟩
  rw [htimes.up]
  omega

section Averaging

variable (hnow : s.lmf.plausNow = false) (hlength : s.lmf.icv.length = 2)

include hnow hlength

theorem runs_icvConversionEnd_averages {r : ScanRun} (hkeep : (s.icv 0).discard = false) (hr : (s.icv 0).run = some r) :
    ((s.icv 0).codes.length + 1 < r.n → Runs (.icvConversionEnd a b) s fun t => (t.icv 0).run = some r ∧
      (t.icv 0).codes = (s.icv 0).codes ++ [icvSat a] ∧ (t.icv 0).queue = (s.icv 0).queue) ∧
    ((s.icv 0).codes.length + 1 ≥ r.n → (s.icv 0).queue.length < 64 → Runs (.icvConversionEnd a b) s fun t =>
      (t.icv 0).codes = [] ∧ ∃ q, (t.icv 0).queue = (s.icv 0).queue ++ [q] ∧ q.val = icvMean r ((s.icv 0).codes ++ [icvSat a])) := by
  have hicv := icvCleared_icv hlength
  have hlen : 0 < (icvCleared s).lmf.icv.length := by rw [(convFrame_icvCleared s).length, hlength]; decide
  have hr' : ((icvCleared s).icv 0).run = some r := by rw [hicv]; exact hr
  obtain ⟨start, stop, hworked⟩ := icvWorked_icv hnow a b
  rw [if_neg (ne_true_of_eq_false hkeep)] at hworked
  have hlength' : (icvWorked a b s).lmf.icv.length = 2 := (convTimes_icvWorked a b s).length.trans hlength
  obtain ⟨hgoes, r', codes, flags, hstarts, hcodes⟩ := startConversion_icv (s.up - s.convEnd) (icvWorked a b s) hlength'
  refine ⟨fun hmore => runs_icvConversionEnd hrun hdue a b ?_, fun hfull hroom => runs_icvConversionEnd hrun hdue a b ?_⟩
  · obtain ⟨hrun', hcodes', hqueue⟩ := icvScan_goesOn hlen hr' a start stop (by rw [hicv]; exact hmore)
    rw [← hworked] at hrun' hcodes' hqueue
    rw [hgoes r hrun', hrun', hcodes', hqueue, hicv]
    exact ⟨rfl, rfl, rfl⟩
  · obtain ⟨hcodes', -, q, hqueue, hval⟩ := icvScan_done hlen hr' a start stop (by rw [hicv]; exact hfull) (by rw [hicv]; exact hroom)
    rw [← hworked] at hcodes' hqueue
    rw [hicv] at hqueue hval
    rw [hstarts]
    exact ⟨hcodes.elim (fun h => h.trans hcodes') id, q, hqueue, hval⟩

theorem runs_icvConversionEnd_discards (hdiscard : (s.icv 0).discard = true) :
    Runs (.icvConversionEnd a b) s fun t => (t.icv 0).discard = false ∧ (t.icv 0).queue = (s.icv 0).queue ∧
      ∀ r, (s.icv 0).run = some r → t.icv 0 = { s.icv 0 with discard := false } := by
  obtain ⟨start, stop, hworked⟩ := icvWorked_icv hnow a b
  rw [if_pos hdiscard, icvCleared_icv hlength] at hworked
  have hlength' : (icvWorked a b s).lmf.icv.length = 2 := (convTimes_icvWorked a b s).length.trans hlength
  obtain ⟨hgoes, r', codes, flags, hstarts, -⟩ := startConversion_icv (s.up - s.convEnd) (icvWorked a b s) hlength'
  rw [hworked] at hgoes hstarts
  refine runs_icvConversionEnd hrun hdue a b ⟨?_, ?_, hgoes⟩
  all_goals rw [hstarts]

end Averaging

end Ends

section Pair

variable {s : State} {a b : IcvIn} {x y : Nat} (hnow : s.lmf.plausNow = true) (hkeep0 : (s.icv 0).discard = false)
  (hkeep1 : (s.icv 1).discard = false) (hfault0 : a.fault = false) (hfault1 : b.fault = false) (hraw0 : icvRaw a = x) (hraw1 : icvRaw b = y)
  (hx : x ≤ 0xFFFFFF) (hy : y ≤ 0xFFFFFF) (hsettled0 : s.rd (fLMF_ICV_STS_SETTLING 0) = 0) (hsettled1 : s.rd (fLMF_ICV_STS_SETTLING 1) = 0)

include hnow hkeep0 hkeep1 hfault0 hfault1 hraw0 hraw1 hx hy hsettled0 hsettled1

/-- A pair of codes in range, neither converter settling nor faulty, is compared (R446, R447). -/
theorem icvWorked_judged :
    ∃ u, icvWorked a b s = plausJudged (s.plausDiff x y) u ∧ u.lmf.passes = s.lmf.passes ∧
      u.rd fLMF_PLAUS_CFG_TOL = s.rd fLMF_PLAUS_CFG_TOL ∧ u.rd fLMF_PLAUS_CFG_PLAUS_N = s.rd fLMF_PLAUS_CFG_PLAUS_N ∧
      u.rd fLMF_PLAUS_STS_FAILS = s.rd fLMF_PLAUS_STS_FAILS := by
  have hbase : ConvFrame s (icvPaired s) := (convFrame_icvCleared s).trans (convFrame_of_lmf rfl rfl rfl rfl rfl rfl fun _ _ => rfl)
  obtain ⟨r0, r1, heq⟩ := plausPair_eq a b s.lmf.convAt (s.lmf.convAt + s.rd fLMF_CYCLE_STS_T_M_NS) (icvPaired s)
  have htaken : ConvFrame s (plausTaken a b r0 r1 (icvPaired s)) := hbase.trans (convFrame_plausTaken ..)
  have hgood : ¬(plausBad (icvBits 0 a (icvPaired s)) || plausBad (icvBits 1 b (icvFlagged a (icvPaired s)))) = true := by
    rw [icvFlagged_inRange hraw0 hx hfault0, plausBad_inRange hraw0 hx hfault0 (s := icvPaired s) hsettled0,
      plausBad_inRange hraw1 hy hfault1 (s := icvPaired s) hsettled1]
    decide
  have hdiff : (plausTaken a b r0 r1 (icvPaired s)).plausDiff (icvSat a) (icvSat b) = s.plausDiff x y := by
    unfold State.plausDiff
    rw [icvSat_inRange hraw0 hx, icvSat_inRange hraw1 hy, htaken.refMv, htaken.refMv]
  have hleaves {f : Fld} (hlo : f.lo < 32) (hoff : f.off < 0x100404) (hflt : f.off ≠ rLMF_FLT) (hkey : f.key ≠ fLMF_PLAUS_STS_DIFF.key)
      (d : Int) : (plausShown d (plausTaken a b r0 r1 (icvPaired s))).rd f = s.rd f :=
    (State.rd_wr_ne _ hkey _).trans (htaken.rd f ⟨hlo, hflt, .inl hoff⟩)
  refine ⟨plausShown (s.plausDiff x y) (plausTaken a b r0 r1 (icvPaired s)), ?_, htaken.passes,
    hleaves (by decide) (by decide) (by decide) (by decide) _, hleaves (by decide) (by decide) (by decide) (by decide) _,
    hleaves (by decide) (by decide) (by decide) (by decide) _⟩
  rw [icvWorked_paired hnow hkeep0 hkeep1, heq]
  dsimp only
  rw [plausSettled_sound hfault0 hfault1, if_neg hgood, hdiff]

/-- A pair that is compared counts as a pass or a fail (R447). -/
theorem runs_icvConversionEnd_judges (hrun : s.lmf.running = true) (hdue : s.up ≥ s.convEnd) :
    ((s.plausDiff x y).natAbs ≤ s.rd fLMF_PLAUS_CFG_TOL * 2 ^ 24 →
      Runs (.icvConversionEnd a b) s fun t => t.lmf.passes = s.lmf.passes + 1 ∧ t.rd fLMF_PLAUS_STS_FAILS = 0 ∧
        (s.lmf.passes + 1 ≥ s.rd fLMF_PLAUS_CFG_PLAUS_N → t.rd fLMF_PLAUS_STS_FAIL = 0)) ∧
    ((s.plausDiff x y).natAbs > s.rd fLMF_PLAUS_CFG_TOL * 2 ^ 24 →
      Runs (.icvConversionEnd a b) s fun t => t.lmf.passes = 0 ∧
        t.rd fLMF_PLAUS_STS_FAILS = min 255 (s.rd fLMF_PLAUS_STS_FAILS + 1) ∧
        (min 255 (s.rd fLMF_PLAUS_STS_FAILS + 1) ≥ s.rd fLMF_PLAUS_CFG_PLAUS_N →
          t.rd fLMF_PLAUS_STS_FAIL = 1 ∧ t.bit fLMF_FLT_FLAGS 5 = true)) := by
  obtain ⟨u, heq, hpasses, htol, hn, hfails⟩ :=
    icvWorked_judged hnow hkeep0 hkeep1 hfault0 hfault1 hraw0 hraw1 hx hy hsettled0 hsettled1
  obtain ⟨-, -, hpasses', -, hfails', hfail', hbit'⟩ := startConversion_effect (s.up - s.convEnd) (icvWorked a b s)
  refine ⟨fun hwithin => runs_icvConversionEnd hrun hdue a b ?_, fun hbeyond => runs_icvConversionEnd hrun hdue a b ?_⟩
  · have hjudged : icvWorked a b s = plausPassed u := heq.trans (if_pos (by rw [htol]; exact hwithin))
    obtain ⟨hp, hz, hends⟩ := plausPassed_effect u
    rw [hpasses', hfails', hfail', hjudged]
    rw [hpasses, hn] at hends
    exact ⟨hp.trans (by rw [hpasses]), hz, hends⟩
  · have hjudged : icvWorked a b s = plausFailed u := heq.trans (if_neg (by rw [htol]; exact Nat.not_le.2 hbeyond))
    obtain ⟨hp, hk, hfailed⟩ := plausFailed_effect u
    rw [hpasses', hfails', hfail', hbit', hjudged]
    rw [hfails] at hk hfailed
    rw [hn] at hfailed
    exact ⟨hp, hk, hfailed⟩

end Pair

/-! ### The references, the queue and the obligation -/

theorem runs_icvRefSettled {x : Fin 2} {e : Nat} {s : State} (hsettle : (s.icv x).settleAt = some e) (hlength : s.lmf.icv.length = 2) :
    (s.up ≥ e → Runs (.icvRefSettled x) s fun t => t.icv x = { s.icv x with settleAt := none } ∧ t.rd (fLMF_ICV_STS_SETTLING x) = 0) ∧
      (s.up < e → exec (.icvRefSettled x) s = .next s) := by
  have hexec : exec (.icvRefSettled x) s = .next (if s.up < e then s
      else (s.setIcv x { s.icv x with settleAt := none }).wrB (fLMF_ICV_STS_SETTLING x) false) := by
    refine (show exec (.icvRefSettled x) s = execIcvRefSettled x s from rfl).trans ?_
    unfold execIcvRefSettled
    simp only [hsettle]
  refine ⟨fun hready => runs_next hexec (if_neg (Nat.not_lt.2 hready)) ⟨icv_setIcv ?_ _, rd_wrB_bit rfl ..⟩, fun hearly => hexec.trans ?_⟩
  · rw [hlength]
    exact x.isLt
  · exact congrArg _ (if_pos hearly)

theorem runs_icvRefWrite {x : Fin 2} {v : Fin 4} {s : State} (hv : (v : Nat) ≠ 3) (hnew : (v : Nat) ≠ s.rd (fLMF_ICV_CFG_REF x))
    (hlength : s.lmf.icv.length = 2) : Runs (.icvRefWrite x v) s fun t => t.rd (fLMF_ICV_CFG_REF x) = v ∧ t.rd (fLMF_ICV_STS_SETTLING x) = 1 ∧
      t.icv x = { s.icv x with discard := true, codes := [], flags := 0,
                               settleAt := some (s.up + if (v : Nat) = 1 then 20000000 else 5000000) } := by
  have hx : (x : Nat) < s.lmf.icv.length := by rw [hlength]; exact x.isLt
  have hset : (s.wr (fLMF_ICV_CFG_REF x) v).rd (fLMF_ICV_CFG_REF x) = v := (State.rd_wr ..).trans (Nat.mod_eq_of_lt v.isLt)
  refine runs_next (i := .icvRefWrite x v) (t := icvSettle x ((s.wr (fLMF_ICV_CFG_REF x) v).setIcv x
    { (s.wr (fLMF_ICV_CFG_REF x) v).icv x with discard := true, codes := [], flags := 0 })) rfl (if_neg (by simp [hv, hnew])) ⟨?_, ?_, ?_⟩
  · refine (rd_wrB ?_ ..).trans hset
    dsimp only [Fld.key, rLMF_ICV_CFG, rLMF_ICV_STS]
    omega
  · exact rd_wrB_bit rfl ..
  · rw [icvSettle_icv ((length_setIcv ..).symm ▸ hx), icv_setIcv (s := s.wr (fLMF_ICV_CFG_REF x) v) hx]
    have hrd (w : Icv) : ((s.wr (fLMF_ICV_CFG_REF x) v).setIcv x w).rd (fLMF_ICV_CFG_REF x) = v := hset
    rw [hrd]
    rfl

/-- Settles O56: each converter's work is framed, so the averaging run, the pair's comparison and the next start follow one by one. -/
theorem converterRows : Obligations.ConverterRows := by
  refine ⟨?averages, ?discards, ?times, ?early, ?judges, ?settled, ?refWrite, ?refSame, ?pop⟩
  case averages =>
    exact fun a b r s hrun hdue hnow hlength hkeep hr => runs_icvConversionEnd_averages hrun hdue a b hnow hlength hkeep hr
  case discards => exact fun a b s hrun hdue hnow hlength hdiscard => runs_icvConversionEnd_discards hrun hdue a b hnow hlength hdiscard
  case times => exact fun a b s hrun hdue => runs_icvConversionEnd_times hrun hdue a b
  case early => exact fun a b s h => congrArg _ (if_pos (by simpa using h))
  case judges =>
    intro a b x y s hrun hdue hnow _ hkeep0 hkeep1 hfault0 hfault1 hraw0 hraw1 hx hy hsettled0 hsettled1
    exact runs_icvConversionEnd_judges hnow hkeep0 hkeep1 hfault0 hfault1 hraw0 hraw1 hx hy hsettled0 hsettled1 hrun hdue
  case settled => exact fun x e s hsettle hlength => runs_icvRefSettled hsettle hlength
  case refWrite => exact fun x v s hv hnew hlength => runs_icvRefWrite hv hnew hlength
  case refSame => exact fun x v s h => congrArg _ (if_pos (by simpa using h))
  case pop =>
    intro x s hlength
    have hx : (x : Nat) < s.lmf.icv.length := by rw [hlength]; exact x.isLt
    refine ⟨_, rfl, ?_, rfl⟩
    exact congrArg Icv.queue (icv_setIcv (s := s.emit (.readData (rLMF_ICV_QTIME x) (s.rd (fLMF_ICV_QTIME_NS32 x)))) hx
      { s.icv x with queue := (s.icv x).queue.drop 1 })

end Sys2Proof.Machine
end
